-- ==== Sys2Proof/Word.lean ====
section
/-! DEFINITION. The byte, and the plainest abbreviations every file uses. Register contents, addresses and bit fields are natural
numbers kept below their width by the operations that write them; memory holds bytes. -/

namespace Sys2Proof

/-- A byte of memory, of a message or of a dictionary value. -/
abbrev Byte := BitVec 8

/-- A byte string (a message, an OSTR or DOMAIN value, an image). -/
abbrev Bytes := List Byte

end Sys2Proof
end

