-- ==== Sys2Proof/Syntax.lean ====
section
/-! DEFINITION. The commands of the block: the rows of the opcode table, with what each carries. The spec lists no bits for them:
a command's operands name the unit it acts on and carry what the spec leaves to the world outside the block (a pin level, a
measured value, the bytes of a message). -/

namespace Sys2Proof

/-- A fault as a block raises it to the governor (R523, R525): code, master ID and address where known, and the detail bytes as a
little-endian number. -/
structure FaultSpec where
  code : Nat
  mid : Option Nat := none
  addr : Option Nat := none
  detail : Nat := 0
deriving DecidableEq, Repr

/-- The reference clocks of R516, in the order of the detail byte of 0x0E05. -/
inductive RefClk where | sys | lvpA | lvpB | pci
deriving DecidableEq, Repr

/-- Privilege modes of a hart (R60, R115). -/
inductive Priv where | u | vu | s | vs | m
deriving DecidableEq, Repr

/-- The requests of the coherence protocol (table of coherence messages). -/
inductive ReqKind where
  | rdShared | rdUnique | upgrade | dirtyNote | wbDirty | evictClean | rdOnce | wrFull | wrPart
deriving DecidableEq, Repr

/-- The line states that a SnpResp or CompData carries (R174). -/
inductive LineSt where | i | s | e | o | m
deriving DecidableEq, Repr

/-- One tag of a TagResp: the line address PA[47:6], way and state. -/
structure TagInfo where
  line : Nat
  way : Nat
  st : LineSt
deriving DecidableEq, Repr

/-- The places of a cache error (R82, R121): a core's caches, its TLBs and paging-structure caches, the L3. -/
inductive CachePlace where | l1i | l1d | l2 | tlb | l3
deriving DecidableEq, Repr

/-- The three L3 registers of R86. -/
inductive MaskReg where | wayMask | wayLock | lockOwn
deriving DecidableEq, Repr


/-- The fences that a BInv carries (table of opcodes), and SFENCE.INVAL.IR, which waits for the Svinval ones. -/
inductive FenceKind where
  | sfenceVma | hfenceVvma | hfenceGvma | sinvalVma | hinvalVvma | hinvalGvma | sfenceInvalIr
deriving DecidableEq, Repr

/-- The AMOs of the A extension. -/
inductive AmoOp where
  | swap | add | xor | and | or | min | max | minu | maxu | lr | sc
deriving DecidableEq, Repr

/-- The kinds of prefetch (Zicbop). -/
inductive PfKind where | read | write | fetch
deriving DecidableEq, Repr

/-- The cache-block operations of R72. -/
inductive CboOp where
  | clean | flush | inval | zero
  | prefetch (kind : PfKind)
deriving DecidableEq, Repr

/-- The CSR instructions: a read alone (CSRRS or CSRRC of x0), and the read with a write, a set or a clear. -/
inductive CsrOp where | read | write | set | clear
deriving DecidableEq, Repr

/-- What a register write names: a register of the physical address space, by an access of a master with its partition ID and width in bytes,
or a CSR of a hart, with the register that takes its old value. -/
inductive WriteTarget where
  | mem (mid : Nat) (part : Option Nat) (addr width : Nat)
  | csr (sail core num dst : Nat) (op : CsrOp)
deriving DecidableEq, Repr

/-- Whence a dictionary request comes (R440): path code (0: UDS routine 0xF000), source, the mailbox set of path 5, and whether the sack of path 3 was
encrypted. -/
structure DictPath where
  path : Nat
  src : Nat
  set : Nat := 0
  enc : Bool := false
deriving DecidableEq, Repr


/-- An abstract command of the debug module (R72): a register by its Sdext number, the program buffer executed after it or not, memory of a width in bytes, a
word of the program buffer, a trigger of the hart (tdata1 and tdata2); `write` where it writes. -/
inductive AbsCmd where
  | reg (num : Nat) (write : Option Nat) (postexec : Bool)
  | mem (addr width : Nat) (write : Option Nat)
  | progbuf (word value : Nat)
  | trigger (index d1 d2 : Nat)
deriving DecidableEq, Repr

/-- Where an inbound memory request of a sub-port goes: under a root port an address with its requester ID; at an endpoint an offset in BAR0/1 or
BAR2/3 of a function. -/
inductive PciTarget where
  | mem (rid addr : Nat)
  | bar0 (fn off : Nat)
  | bar2 (fn off : Nat)
deriving DecidableEq, Repr

/-- The freeze conditions of R407. -/
inductive FreezeCause where
  | linkDown | dataLink | flowControl | overflow | malformed | ecrc
deriving DecidableEq, Repr

/-- A configuration request to an endpoint function: a read of a dword, or a write of what the spec gives an effect: the power state (D3hot or D0), MSI-X
enable with the function mask, a function-level reset, an AER status dword whose ones clear, or another dword. -/
inductive CfgOp where
  | read (off : Nat)
  | power (d3 : Bool)
  | msix (enable mask : Bool)
  | flr
  | aerClear (bits : Nat)
  | write (off value : Nat)
deriving DecidableEq, Repr

/-- A USDO transfer of MCAN (R446): a read, or a part of a write from its offset, the last part marked. -/
inductive UsdoReq where
  | read (idx sub : Nat)
  | write (idx sub off : Nat) (last : Bool) (data : List (BitVec 8))
deriving DecidableEq, Repr

/-- The commands of the block, one constructor per row of the opcode table, in its order. -/
inductive Instr where
  /-- POWER_ON_RESET (R502): PORST_N held low for 1 µs, or VDD_AON power good, resets the whole package and the governor ROM starts in BOOT. lowNs: how long PORST_N was low; none when VDD_AON power good starts it. -/
  | powerOnReset (lowNs : Option Nat)
  /-- GOVERNOR_FIRMWARE_ENTRY (R28): Verification of the governor component completes; the governor enters its firmware and the device enters SELFTEST. -/
  | governorFirmwareEntry
  /-- PACKAGE_WARM_RESET (R500): A package warm reset clears hub, sail and port state while keeping the fault log, and restarts the device in BOOT. -/
  | packageWarmReset
  /-- WARM_RESET_DELAY_EXPIRY (R417): 100 µs after a reset request in RUN or DEGRADED, the package warm reset starts unless SAFE_HOLD has become fatal. -/
  | warmResetDelayExpiry
  /-- TRIAL_TIMER_EXPIRY (R470): The trial timer expires 30 s after booting a TRIAL bank and causes a package warm reset. -/
  | trialTimerExpiry
  /-- START_REQUEST (R29): The START value at 0x1120:01 is accepted only in READY and moves the device to RUN at the next boundary. outranked: a higher event of the table of R29 arrived in the same governor cycle. -/
  | startRequest (outranked : Bool)
  /-- SAFE_HOLD_REQUEST (R37): The SAFE_HOLD value at 0x1120:01 moves the device to SAFE_HOLD, or has no effect in SAFE_HOLD or SHUTDOWN. -/
  | safeHoldRequest (outranked : Bool)
  /-- SERVICE_REQUEST (R37): An authenticated SERVICE request moves the device from CONFIG_WAIT, READY or a non-fatal SAFE_HOLD to SERVICE. -/
  | serviceRequest (path src : Nat) (outranked : Bool)
  /-- SHUTDOWN_REQUEST (R517): A SHUTDOWN request moves the device to SHUTDOWN, sets beacons to LEAVING and starts the shutdown sequence. -/
  | shutdownRequest
  /-- RESUME_REQUEST (R28): A RESUME request moves the device from SERVICE to CONFIG_WAIT, discarding an uncommitted staged image. -/
  | resumeRequest (outranked : Bool)
  /-- PACKAGE_RESET_REQUEST (R417): A write to 0x1122:01 requests a package warm reset, passing through SAFE_HOLD first from RUN or DEGRADED. -/
  | packageResetRequest (outranked : Bool)
  /-- GOV_HOLDREQ_WRITE (R37): Writing 0x5AFE to GOV_HOLDREQ requests SAFE_HOLD, as 0x1120:01 = 2 does. -/
  | govHoldreqWrite (mid key : Nat) (outranked : Bool)
  /-- SELFTEST_COMPLETE (R28): Governor, hub and memory pass self-test with a sail ACTIVE; the device enters CONFIG_WAIT and the turn unit starts boundaries. faults: what the self-test found where one of the three failed. -/
  | selftestComplete (govOk hubOk memOk : Bool) (faults : List FaultSpec)
  /-- FAULT_RAISED (R523): The governor logs a raised fault, drives FAULT_OUT by class, and moves the device state under R28 and R29. faults: all the faults that reach the governor in one cycle. -/
  | faultRaised (faults : List FaultSpec)
  /-- FAULT_OUT_READBACK (R531): Every 10 µs the governor compares the pad level of each FAULT_OUT with its commanded level and logs 0x300B on two mismatches. padA, padB: the pad reads asserted (low). -/
  | faultOutReadback (padA padB : Bool)
  /-- FAULT_OUT_TEST (R531): A write to TEST in GOV_FOUTCTL in SERVICE asserts both FAULT_OUT outputs while it is 1. -/
  | faultOutTest (on : Bool)
  /-- TURN_BOUNDARY (R52): Timer A reaches the end of the period: the turn number increments, windows flip, pending image switches and boundary actions take effect. energy: what each channel integrated over the turn, in nJ before the gain (R506); cycles: clocked cycles of each hart; flits: flits injected with each partition ID. -/
  | turnBoundary (energy cycles flits : List (Nat × Nat)) (events : List (Nat × Nat × Nat))
  /-- INPUT_CUTOFF (R53): At the cut-off before a boundary, the sluice tags every input that completes ingress afterwards to the next turn. -/
  | inputCutoff
  /-- SLUICE_WRITES_COMPLETE (R362): The sluice reports that every window write tagged to the ended turn has completed, releasing partition entries. -/
  | sluiceWritesComplete
  /-- WINDOW_REPORT_TIMEOUT (R53): If the sluice report has not arrived 5 µs after the boundary, the turn unit raises 0x2107, enters anyway and sets INCOMPLETE. -/
  | windowReportTimeout
  /-- WINDOW_WRITE_DISCARD (R53): 1.5 µs after a boundary the sluice discards every window write tagged to the ended turn that it has not issued. -/
  | windowWriteDiscard (flow : Nat)
  /-- PARTITION_ENTRY (R56): At the START of an ENTER slot, once window writes and any catch-up are complete, the turn unit loads entry state and starts the replica's harts. -/
  | partitionEntry (part : Nat)
  /-- TURNSEAL_WRITE (R57): A hart writes 1 to turnseal, cleans its dirty lines of the image to the L3 and halts; the last hart starts the seal clean. -/
  | turnsealWrite (sail core value : Nat)
  /-- REPLICA_SEALED (R283): The seal clean and the millstone writes are acknowledged; the replica is sealed and its digest may start. -/
  | replicaSealed (part repl : Nat)
  /-- DEADLINE_MARK (R58): At a partition's mark, every unsealed replica is halted, TRN_MISSED is set, and 0x2105 or 0x3106 is raised. -/
  | deadlineMark (part : Nat)
  /-- MASTER_TIMER_MISMATCH (R41): The two master timers differ by more than 2.5 ns; the governor raises 0x4101. -/
  | masterTimerMismatch
  /-- PPS_IN_EDGE (R46): A PPS_IN rising edge is taken as reference, or rejected outside the acceptance window and logged 0x010A. -/
  | ppsInEdge
  /-- TURN_SYNC_IN_EDGE (R46): A TURN_SYNC_IN rising edge is taken as reference, or rejected outside the acceptance window and logged 0x010A. -/
  | turnSyncInEdge
  /-- HOLDOVER_ENTRY (R45): After two expected reference edges are missed, or a GPTP loss is reported, the turn unit enters holdover and logs 0x1103. -/
  | holdoverEntry
  /-- HOLDOVER_LIMIT (R45): Holdover lasting longer than the limit at 0x2000:07 raises 0x3104. -/
  | holdoverLimit
  /-- PPS_OUT_SECOND (R47): At each whole second of the device time base, PPS_OUT rises when enabled. -/
  | ppsOutSecond
  /-- SYNC_OUTPUT_PULSE_END (R47): TURN_SYNC_OUT falls 1 µs after its edge, and PPS_OUT falls 100 ms after its edge. pps: PPS_OUT, else TURN_SYNC_OUT. -/
  | syncOutputPulseEnd (pps : Bool)
  /-- EVT_INPUT_EDGE (R62): The synchronised level of an event pin changes; the filter starts timing or counts a rejected pulse in REJCNT. -/
  | evtInputEdge (input : Nat) (high : Bool)
  /-- EVT_FILTER_ACCEPT (R62): A pin level held for FILT ns is accepted; an event is timestamped, counted and delivered, or merged or discarded at a busy crossing. -/
  | evtFilterAccept (input : Nat)
  /-- EVT_CROSSING_ACK (R64): A clock-domain crossing's acknowledgement returns, freeing it and delivering a merged pending event. -/
  | evtCrossingAck (input : Nat)
  /-- EVT_STUCK_REARM (R67): Writing 1 to STUCK in EVT_STATi clears STUCK and MASKED and restarts the boundary count. -/
  | evtStuckRearm (input : Nat)
  /-- RAIL_SETTLED (R78): A sail rail settles at a higher voltage, and the sail takes the clocks of its new operating point. -/
  | railSettled (sail : Nat)
  /-- OP0_CLEAN_COMPLETE (R79): The whole-L3 clean for OP 0 completes; the sail stops its core, L3 and millstone clocks and lets the rail fall. -/
  | op0CleanComplete (sail : Nat)
  /-- CACHE_ERROR_CORRECTED (R82): A cache corrects an error, counts it and adds to the way's error count. l3: in an L3 way, else in a private cache. -/
  | cacheErrorCorrected (sail core : Nat) (place : CachePlace) (slice way addr : Nat)
  /-- CACHE_UNCORRECTABLE_ERROR (R82): An uncorrectable data error poisons the line and logs 0x2202; an uncorrectable L3 tag error disables the way. tag: a tag error of the L3, else data. -/
  | cacheUncorrectableError (sail core : Nat) (place : CachePlace) (tag : Bool) (slice way addr : Nat)
  /-- WAY_ERROR_DECAY (R99): Every DECAY boundaries the slice subtracts 1 from each way's error count. -/
  | wayErrorDecay (sail : Nat)
  /-- L3_MASK_LOCK_WRITE (R87): A governor write to L3_WAYMASK, L3_WAYLOCK or L3_LOCKOWN is applied, or refused with REFUSED when it would leave a core no way. -/
  | l3MaskLockWrite (mid sail : Nat) (which : MaskReg) (index value : Nat)
  /-- MNT_CLEAN (R89): START with OP CLEAN writes back every dirty line of the range in the sail and keeps it clean. ctl: the value written to L3_MNT_CTL, START set. -/
  | mntClean (sail mid ctl : Nat)
  /-- MNT_CLEANINV (R89): START with OP CLEANINV writes back and invalidates every line of the range in the sail. ctl: the value written to L3_MNT_CTL, START set. -/
  | mntCleaninv (sail mid ctl : Nat)
  /-- MNT_LOCKLOAD (R95): START with OP LOCKLOAD moves or reads each line of the range into a way locked for OWNERCORE. ctl: the value written to L3_MNT_CTL, START set. -/
  | mntLockload (sail mid ctl : Nat)
  /-- MNT_RESERVED_OP (R96): START with OP 3 is refused with ERRCODE 3 and logged 0x220B. ctl: the value written to L3_MNT_CTL, START set. -/
  | mntReservedOp (sail mid ctl : Nat)
  /-- MNT_COMPLETE (R91): The last set visit and writeback of a maintenance operation complete; the engine clears BUSY, sets DONE and sends its MSI. -/
  | mntComplete (sail : Nat)
  /-- CORE_STOP (R103): A core that detects an uncorrectable error in its own state stops fail-stop and is disabled, and its replica is reported lost. -/
  | coreStop (sail core : Nat) (lost : List Nat)
  /-- SAIL_CAPWORD_READ (R104): Flume training step 3 reads the capability word; a sail below HUBMIN is held out. the fields of the capability word. -/
  | sailCapwordRead (sail rev level maxGt : Nat)
  /-- FLUME_TRAINING_COMPLETE (R104): Flume training step 6 ends with at least one link up and the sail enters SELFTEST. delay: the boundary delay that the probe frames measured, in ns. -/
  | flumeTrainingComplete (sail : Nat) (up0 up1 : Bool) (delay : Nat)
  /-- SAIL_TRAINING_TIMEOUT (R104): A sail whose training is not complete within 2 ms goes LOST and 0x3207 is logged. -/
  | sailTrainingTimeout (sail : Nat)
  /-- SAIL_SELFTEST_COMPLETE (R104): A sail's self-test passes, making it ACTIVE, or fails, making it LOST. badWays: slice and way of every way that fails. -/
  | sailSelftestComplete (sail : Nat) (pass : Bool) (badWays : List (Nat × Nat))
  /-- READMIT_REQUEST (R105): A write of 1 to 0x1130 starts readmission of a LOST sail when the conditions hold, or is refused. -/
  | readmitRequest (sail : Nat)
  /-- AUTO_READMIT (R105): The governor's auto-readmit policy requests readmission of a lost sail once POISONING has cleared. -/
  | autoReadmit (sail : Nat)
  /-- READMIT_STEPS_COMPLETE (R106): Readmission training and self-test end; the sail becomes ACTIVE at the next boundary, or returns to LOST. -/
  | readmitStepsComplete (sail : Nat) (ok : Bool)
  /-- BROADCAST_FENCE (R128): A fence executed with broadcast enabled is applied locally and sent as BInv to every hart of the invalidation domain. -/
  | broadcastFence (sail core : Nat) (kind : FenceKind) (addr asid vmid : Option Nat)
  /-- BINV (R129): A sail control port delivers a broadcast invalidation to its matching harts and returns one BInvAck. src: the hart that broadcast; id: its number there. -/
  | binvMsg (sail src id : Nat)
  /-- BINV_ACK (R128): A target's acknowledgement arrives; the fence completes when all targets have acknowledged. -/
  | binvAck (sail src id : Nat)
  /-- BINV_TIMEOUT (R130): A target that has not acknowledged within 10 µs is stopped fail-stop and 0x320C is logged. -/
  | binvTimeout (src id : Nat)
  /-- IOT_TRANSLATE (R132): The IOT translates a DMA request by device ID, faulting on invalid entries, non-memory walks or poison. dev: the device ID; mid, part: of the request (part 64: none); pasid: the request is PASID-tagged. -/
  | iotTranslate (dev : Nat) (mid part : Nat) (pasid : Option Nat) (write exec : Bool) (iova : Nat)
  /-- IOTINVAL_VMA (R137): The IOTINVAL.VMA command invalidates first-stage translation cache entries. -/
  | iotinvalVma
  /-- IOTINVAL_GVMA (R137): The IOTINVAL.GVMA command invalidates second-stage translation cache entries. -/
  | iotinvalGvma
  /-- IODIR (R137): The IODIR command invalidates device-context cache entries. -/
  | iodirCmd
  /-- IOFENCE_C (R137): The IOFENCE.C command waits until earlier commands and affected translated requests are complete. -/
  | iofenceC
  /-- IOFENCE_C_COMPLETE (R137): Every earlier command and covered request has reached the hub and the IOFENCE.C completes. -/
  | iofenceCComplete
  /-- IOT_COMMAND_ILLEGAL (R138): An illegal command stops the command queue, sets the command-illegal bit and logs 0x29E3. -/
  | iotCommandIllegal
  /-- MST_DOORBELL (R152): A write of COUNT to MST_PDBj adds to TAIL, or is refused with ERRCODE 0xA. part: the partition ID that the access carries. -/
  | mstDoorbell (part : Option Nat) (sail j count : Nat)
  /-- NOP (R155): The millstone executes a NOP command. -/
  | nopCmd (sail bind queue : Nat)
  /-- GEMM (R148): The millstone executes a GEMM command after checking fields, windows and alignment. -/
  | gemmCmd (sail bind queue : Nat)
  /-- CONV (R149): The millstone executes a CONV command as a GEMM over the NHWC image. -/
  | convCmd (sail bind queue : Nat)
  /-- COPY (R156): The millstone executes a COPY command between DRAM and its scratch. -/
  | copyCmd (sail bind queue : Nat)
  /-- SIGNAL (R155): After earlier commands of its queue complete, the millstone writes VALUE and sends the MSI. -/
  | signalCmd (sail bind queue : Nat)
  /-- TILE_BLOCK_BOUNDARY (R162): A tile finishes a block, checks its residue, charges USED and chooses its next work by reservation. mis1, mis2: the residues of the first and second computation mismatch; corrected: a scratch error was corrected; bad: scratch lines that turned uncorrectable before this. -/
  | tileBlockBoundary (sail tile : Nat) (mis1 mis2 corrected : Bool) (bad : List Nat)
  /-- MILLSTONE_COMMAND_COMPLETE (R155): Every write of a command is acknowledged; HEAD advances and later commands may start. -/
  | millstoneCommandComplete (sail bind queue : Nat)
  /-- RESUME (R169): A write with RESUME to MST_PCTLj restarts a stopped queue at the failing entry. -/
  | resumeQueue (part : Option Nat) (sail j : Nat)
  /-- SKIP (R169): A write with RESUME and SKIP advances HEAD past the failing entry and restarts the queue. -/
  | skipCmd (part : Option Nat) (sail j : Nat)
  /-- RD_SHARED (R182): The home accepts an RdShared and snoops or reads memory to grant S, E or O. -/
  | rdShared (mid part txid addr way : Nat) (tc3 : Bool)
  /-- RD_UNIQUE (R182): The home accepts an RdUnique, snoops every holder, and grants M. -/
  | rdUnique (mid part txid addr way : Nat) (tc3 : Bool)
  /-- UPGRADE (R182): The home grants M to a sail that holds S or O, or serves it as RdUnique. -/
  | upgradeReq (mid part txid addr : Nat)
  /-- DIRTY_NOTE (R182): The home records E turned to M and answers Comp. -/
  | dirtyNote (mid part txid addr : Nat)
  /-- WB_DIRTY (R182): The home takes a dirty eviction, writes memory unless the sail is already I, and answers EvictAck. -/
  | wbDirty (mid part txid addr : Nat)
  /-- EVICT_CLEAN (R182): The home records a clean eviction and answers EvictAck. -/
  | evictClean (mid part txid addr : Nat)
  /-- RD_ONCE (R187): The home serves a non-allocating snooping read from a non-caching agent. -/
  | rdOnce (mid part txid addr : Nat) (tc3 : Bool)
  /-- WR_FULL (R182): The home invalidates every holder and writes a whole line. -/
  | wrFull (mid part txid addr : Nat)
  /-- WR_PART (R182): The home merges the masked bytes with snoop or memory data and writes the whole line. -/
  | wrPart (mid part txid addr : Nat)
  /-- WR_DATA (R214): The data packet of a WbDirty, WrFull or WrPart arrives at the home. data: the 64 bytes, byte 0 lowest; mask: the 64-bit byte mask of a WrPart. -/
  | wrData (mid txid addr data mask : Nat) (poison : Bool)
  /-- SNP_SHARED (R185): An L3 keeps a shared copy, supplying data from M or O. -/
  | snpShared (sail addr txid : Nat)
  /-- SNP_UNIQUE (R185): An L3 invalidates the line, supplying data from M or O. -/
  | snpUnique (sail addr txid : Nat)
  /-- SNP_ONCE (R185): An L3 supplies data if M or O without changing state. -/
  | snpOnce (sail addr txid : Nat)
  /-- SNP_INV (R185): An L3 invalidates the line without data. -/
  | snpInv (sail addr txid : Nat)
  /-- TAG_READ (R199): An L3 slice returns the 16 tags and states of one set. -/
  | tagRead (sail slice set : Nat)
  /-- SNP_RESP (R189): The home records the snooped sail's state, handling EVICTING crossings. -/
  | snpResp (sail txid addr : Nat) (st : LineSt) (hasData evicting : Bool)
  /-- SNP_DATA (R190): Snoop data arrives at the home and is passed on or written to memory. -/
  | snpData (sail txid addr data : Nat) (poison : Bool)
  /-- TAG_RESP (R199): The filter bank writes the returned tags and states of a set during rebuild. -/
  | tagResp (sail slice set : Nat) (tags : List TagInfo)
  /-- COMP (R177): A requester receives a completion without data, which grants M for an Upgrade. -/
  | compMsg (mid txid addr : Nat)
  /-- COMP_DATA (R182): A requester receives data with its granted state and the L3 fills the line. -/
  | compData (mid txid addr : Nat) (st : LineSt) (data : Nat) (poison : Bool)
  /-- EVICT_ACK (R179): An L3 frees the writeback buffer entry of a processed eviction. -/
  | evictAck (sail addr : Nat)
  /-- RETRY (R196): A requester receives Retry with attempt count k and starts its backoff. -/
  | retryMsg (mid txid addr k : Nat)
  /-- RETRY_BACKOFF_EXPIRY (R196): The backoff of 32 ns × 2^min(k, 7) ends and the requester resends the request. -/
  | retryBackoffExpiry (mid txid : Nat)
  /-- IO_RD (R18): The hub decodes an I/O read to control space, scratch, PCIe outbound or the governor window, or answers an access error. width: 4 or 8 bytes, or any other. -/
  | ioRd (mid : Nat) (part : Option Nat) (addr width : Nat)
  /-- IO_WR (R18): The hub decodes an I/O write, MSI writes included, or answers an access error. -/
  | ioWr (mid : Nat) (part : Option Nat) (addr width value : Nat)
  /-- IO_COMP (R214): A requester receives an I/O completion with read data or ERR. -/
  | ioComp (mid txid : Nat) (err : Bool) (data : Nat)
  /-- REQUESTER_TIMEOUT (R203): A request not completed 50 µs after first issue ends locally with poison, a dropped write or an error completion. -/
  | requesterTimeout (mid txid : Nat)
  /-- HOME_TIMEOUT (R204): A home transaction open for 50 µs declares the awaited sail LOST, or moves the device to SAFE_HOLD. -/
  | homeTimeout (mid txid addr : Nat)
  /-- FILTER_UNCORRECTABLE (R199): An uncorrectable snoop-filter entry error starts or restarts the rebuild of its bank. -/
  | filterUncorrectable (bank : Nat) (corrected : Bool)
  /-- REBUILD_SET (R199): Every 100 ns a rebuilding bank sends TagRead for its next set; after the last set it logs 0x0407. -/
  | rebuildSet (bank : Nat)
  /-- TRACKING_MODE_SWITCH (R198): A governor command switches the homes between DIRECTORY and FILTER mode, or is refused. -/
  | trackingModeSwitch (filter : Bool)
  /-- POISON_MARKING_COMPLETE (R205): The last home finishes writing poison for LOST-DIRTY lines; POISONING clears and 0x040B is logged. -/
  | poisonMarkingComplete (sail : Nat)
  /-- SCRUB_REQUEST (R268): The home orders a dresser's scrub request as a transaction and the controller rewrites the corrected line. -/
  | scrubRequest (mc line : Nat)
  /-- FLUME_PORT_INGRESS (R16): The flume port stamps the sail number into a request's master ID, discards invalid IDs and decides TC3 by token. mid: as the sail presented it; code: the packet's OPCODE; part: PART when PV = 1; prefetch: the request is a prefetch. -/
  | flumePortIngress (sail mid code : Nat) (part : Option Nat) (addr : Nat) (prefetch : Bool)
  /-- MESH_LANE_FAIL (R228): A mesh link lane fails; the link runs halved, or both lanes failed and the device goes to SAFE_HOLD. corrected: the lane showed a corrected error, of which more than 16 within a turn fail it; else an uncorrectable one. -/
  | meshLaneFail (link lane : Nat) (corrected : Bool)
  /-- MESH_HEADER_UNCORRECTABLE (R215): A router finds an uncorrectable header error, drops the packet and logs 0x250C. -/
  | meshHeaderUncorrectable (router : Nat)
  /-- ROUTING_TABLE_WRITE (R223): A governor write to MRC_RTBL updates a router table in an inactive drained bank, or is refused. -/
  | routingTableWrite (mid bank router index value : Nat)
  /-- MRC_SWAP_REQUEST (R225): A write to MRC_SWAP.REQ makes every local port stamp the new epoch from the next boundary. -/
  | mrcSwapRequest (mid : Nat)
  /-- ROUTING_DRAIN_COMPLETE (R225): The old epoch's packet count reaches 0; the old bank becomes inactive and 0x050A is logged. -/
  | routingDrainComplete
  /-- DRAIN_OVERRUN (R226): The old epoch is not drained at the second boundary after the swap; the governor logs 0x4506 and moves to SAFE_HOLD. -/
  | drainOverrun
  /-- FLUME_FRAME_CRC_ERROR (R237): A flume receiver discards a frame with a CRC error and starts sending NAK. side: the receiving end, 0 the hub, 1 the sail. -/
  | flumeFrameCrcError (sail link side : Nat)
  /-- FLUME_NAK (R237): A flume transmitter receives NAK and resends from the NAKed SEQ, taking the link down after 16 NAKs of one SEQ. side: the transmitter that receives the NAK. -/
  | flumeNak (sail link side seq : Nat)
  /-- FLUME_NAK_RESEND (R237): Every 64 ns a receiver resends NAK until it receives the expected SEQ. -/
  | flumeNakResend (sail link side : Nat)
  /-- FLUME_LINK_DOWN (R240): A link with no valid frame for 64 ns goes down; the port resynchronises on the surviving link. -/
  | flumeLinkDown (sail link : Nat)
  /-- LINKSYNC (R240): A LINKSYNC frame makes the other end resend the dead link's frames after the reported SEQ. link: the surviving link; side: the end that receives the frame; seq: the last SEQ that the other end received in order on the dead link. -/
  | linksyncFrame (sail link side seq : Nat)
  /-- HEARTBEAT (R239): Every 250 ns each end sends HEARTBEAT on each link that is up. -/
  | heartbeatFrame (sail link side : Nat)
  /-- HEARTBEAT_RECEIVED (R243): The port receives a heartbeat; BMISS set declares the sail LOST with cause 3. -/
  | heartbeatReceived (sail link : Nat) (bmiss : Bool)
  /-- HEARTBEAT_TIMEOUT (R241): No heartbeat for 1 µs, or both links down, makes the port declare the sail LOST. -/
  | heartbeatTimeout (sail : Nat)
  /-- SAIL_HUB_SILENT (R241): A sail that receives no frame on either link for 64 ns stops issuing packets and waits for reset. -/
  | sailHubSilent (sail : Nat)
  /-- BOUNDARY (R243): A sail takes the first error-free BOUNDARY frame and restarts its phase counter with the preload. copy: 0 to 2; turn: bits [15:0] of the turn number. -/
  | boundaryFrame (sail copy turn : Nat)
  /-- RETRAIN0 (R242): A governor write to RETRAIN0 of FLM_CTL retrains flume link 0 over the sideband. -/
  | retrain0 (sail mid : Nat)
  /-- RETRAIN1 (R242): A governor write to RETRAIN1 of FLM_CTL retrains flume link 1 over the sideband. -/
  | retrain1 (sail mid : Nat)
  /-- FLUME_LINK_RESTORED (R242): A retrained link carries traffic again from the next boundary and 0x150E is logged. -/
  | flumeLinkRestored (sail link : Nat)
  /-- MEMORY_TRAINING_COMPLETE (R250): A controller completes training or restore; a failure at every bin raises 0x4602. capGiB: capacity found; mr: what MR5, MR6 and MR8 return; tj: in °C; crcOk: the training record reads with a right CRC; verified: the restored settings pass their pattern; ok: false when full training fails at every bin, else binIdx is the bin it reached. -/
  | memoryTrainingComplete (mc capGiB binIdx mr : Nat) (tj : Int) (crcOk verified ok : Bool)
  /-- ECC_SELFTEST_COMPLETE (R269): A controller's code self-test completes, setting STPASS or raising 0x4604. -/
  | eccSelftestComplete (mc : Nat) (pass : Bool)
  /-- LAYOUT_INIT_COMPLETE (R258): The dressers finish initialising the new layout and the device may enter READY or leave SERVICE. -/
  | layoutInitComplete
  /-- OWNER_CHANGE_COMPLETE (R258): Every CLEANINV for a PRIV or OWNER change reports DONE and the held requests to the region are released. -/
  | ownerChangeComplete (region : Nat)
  /-- MR4_READ (R251): Every 1 ms the controller reads MR4, sets the refresh rate and sets HOT above twice the base rate. -/
  | mr4Read (mc : Nat) (above2x : Bool)
  /-- MC_READ (R261): A controller reads a line, decoding its region code, consulting the mirror and returning poison where needed. newErr, newMirrorErr: symbols (Code L: bits) that went bad in the stored copies since they were last seen. -/
  | mcRead (mid part pa newErr newMirrorErr : Nat) (tc3 : Bool)
  /-- MC_WRITE (R262): A controller writes a line and updates its check bytes through the merge buffer. -/
  | mcWrite (mid part pa data mask : Nat) (poison tc3 : Bool)
  /-- MERGE_FLUSH (R262): A merge-buffer entry is flushed when full, after 256 ns, or when a new write needs it. -/
  | mergeFlush (mc : Nat)
  /-- DRESSER_READ (R267): The dresser reads and checks its next line, acting on errors and ending a pass at the wrap. -/
  | dresserRead (mc newErr newMirrorErr : Nat)
  /-- ABANDON (R290): A write to BLT_PABANDON halts the writer's replica as if it missed its mark and logs 0x2706. value: as written to BLT_PABANDON. -/
  | abandonRepl (sail core value : Nat)
  /-- DIGEST_COMPLETE (R284): A digest engine finishes a replica's SHAKE128 digest, possibly POISONED. refused: a read of the digest was refused or completed with an error. -/
  | digestComplete (part repl : Nat) (refused : Bool)
  /-- BOLTER_DECISION (R286): At a partition's release offset the bolter compares or votes over the digests and releases, holds or does nothing. -/
  | bolterDecision (part : Nat)
  /-- RELEASE_INSTANT (R287): The release copy completes and the new hold buffer becomes current and FRESH. -/
  | releaseInstant (part : Nat)
  /-- DIGEST_RECORD (R301): A bolter receives the peer package's digest record for a cross-package partition. record: the 48 bytes. -/
  | digestRecord (record : List Nat)
  /-- CATCH_UP_START (R292): Once the behind replica has halted and its source sealed, the copy engine starts copying the state buffers. -/
  | catchUpStart (part repl : Nat)
  /-- CATCH_UP_COMPLETE (R292): A catch-up ends and the behind replica may enter. -/
  | catchUpComplete (part repl : Nat)
  /-- REPAIR_COPY_COMPLETE (R296): The copy engine finishes copying the source image ranges to the target. -/
  | repairCopyComplete (part : Nat)
  /-- RESTORE_START (R299): For a lost restartable SINGLE partition, the copy engine restores its state ranges once POISONING has cleared. -/
  | restoreStart (part : Nat)
  /-- RESTORE_COMPLETE (R299): The restore ends and the partition may enter on the spare cores with RESTARTED set. -/
  | restoreComplete (part : Nat)
  /-- PARTITION_RESTART_REQUEST (R304): A write to 0x3501:02 moves a HALTED partition to LOADED when its placement is accepted. -/
  | partitionRestartRequest (part : Nat)
  /-- PARTITION_RESET_REQUEST (R304): A write to 0x3501:03 resets a partition and moves it to HALTED. -/
  | partitionResetRequest (part : Nat)
  /-- PORT_ENABLE (R307): An enabled Leavo port leaves electrical idle and starts training with PRBS13Q. -/
  | portEnable (port : Nat)
  /-- LANE_LOCK (R322): At least one lane locks and adapts, and the port enters ALIGN. lanes: the map of the lanes that have locked. -/
  | laneLock (port lanes : Nat)
  /-- TRAIN_TIMEOUT (R307): No lane locks within 10 ms and the port restarts training. -/
  | trainTimeout (port : Nat)
  /-- ALIGN_LOCK (R311): Codeword and alignment lock on every locked lane move the port to INIT. -/
  | alignLock (port : Nat)
  /-- INIT (R316): The port receives an INIT block; with ACKED on both sides it enters UP and sends PROBE. data: the 32 bytes of the block received. -/
  | initFrame (port : Nat) (data : Bytes)
  /-- INIT_SEND (R316): Every 1 µs in INIT the port sends an INIT block. -/
  | initSend (port : Nat)
  /-- CODEWORD_LOCK_LOST (R307): No codeword lock on any lane for 1 µs takes the port from UP to TRAIN and logs 0x3805. -/
  | codewordLockLost (port : Nat)
  /-- PARTNER_ABSENT (R331): No KEEPALIVE or BEACON from the partner for 32 µs takes the port to INIT and logs 0x3806. -/
  | partnerAbsent (port : Nat)
  /-- PORT_RESET (R500): A Leavo port reset clears port state, credits and keys and idles the lanes before bring-up. -/
  | portReset (port : Nat)
  /-- SACK_RECEIVE (R314): A received sack is checked for HCRC, credits, PCRC, authentication and KIND and passed to the sluice. start, tail: the START and END blocks; body: the bytes of the data blocks between them; fixed: symbols that the FEC corrected in the codewords that carried it. -/
  | sackReceive (port : Nat) (start body tail : Bytes) (fixed : Nat)
  /-- UNCORRECTABLE_CODEWORD (R313): An uncorrectable codeword discards every sack and control block in it and logs 0x2802. -/
  | uncorrectableCodeword (port : Nat)
  /-- BEACON (R332): The port receives a BEACON from a peer package, with its CUM, FREED and turn number. data: the 32 bytes of the block received. -/
  | beaconFrame (port : Nat) (data : Bytes)
  /-- KEEPALIVE (R327): Every 8 µs each port in ALIGN, INIT or UP sends a KEEPALIVE. -/
  | keepaliveFrame (port : Nat)
  /-- KEEPALIVE_RECEIVED (R320): The port receives a KEEPALIVE and recovers credits of lost sacks from its CUM. data: the 32 bytes of the block received. -/
  | keepaliveReceived (port : Nat) (data : Bytes)
  /-- CREDIT (R319): The port receives a CREDIT block and updates FREED. data: the 32 bytes of the block received. -/
  | creditFrame (port : Nat) (data : Bytes)
  /-- CREDIT_REPORT (R319): A receiver sends a CREDIT block when FREED has advanced 64 units, or at least every 1 µs while it changed. -/
  | creditReport (port : Nat)
  /-- LANEMAP (R323): A LANEMAP request drops a lane from the transmitter, or an announcement restores it. data: the 32 bytes of the block received. -/
  | lanemapFrame (port : Nat) (data : Bytes)
  /-- LANEMAP_RESEND (R323): Every 1 µs the receiver resends its LANEMAP request until the new map arrives. -/
  | lanemapResend (port : Nat)
  /-- LANE_FAIL (R322): A receiver declares a lane failed and requests a new map, or the port leaves UP when it is the last lane. -/
  | laneFail (port lane : Nat)
  /-- LANE_RESTORE (R324): A failed lane retrains successfully and is added back after the next BEACON. -/
  | laneRestore (port lane : Nat)
  /-- PROBE (R333): A port answers a PROBE within 1 µs, or measures the link delay from an answer. data: the 32 bytes of the block received. -/
  | probeFrame (port : Nat) (data : Bytes)
  /-- AM (R311): The receiver deskews the lanes from an alignment codeword carrying the lane map. data: the 32 bytes of the block received. -/
  | alignMarker (port : Nat) (data : Bytes)
  /-- PORT_BOUNDARY_MISSED (R328): When the boundary has not reached the port 2 µs late, the port sends a LOCAL HOLD beacon and sets LOCALHOLD. -/
  | portBoundaryMissed (port : Nat)
  /-- TX_SLOT_START (R337): At the START of a TX slot the port sends the partition's egress sacks from the current hold buffer. -/
  | txSlotStart (port slot : Nat)
  /-- DUP_COPY_SEND (R337): At least 5 µs after a sack's first copy in a DUP slot, the port sends it again with DUPCOPY set. -/
  | dupCopySend (port : Nat)
  /-- SLOT_END (R337): At the END of a TX slot every sack not yet started is dropped, counted and logged 0x2808. -/
  | slotEnd (port slot : Nat)
  /-- SCHEDULE_ANNOUNCEMENT (R339): Before a switch that changes slots, and every 64 turns, each UP port sends a KIND 2 announcement. -/
  | scheduleAnnouncement
  /-- KEY_OFFER (R483): A responder checks an OFFER's TAG, loads both keys and answers ACCEPT. src, dst: of the START block; payload: the 72 bytes. -/
  | keyOffer (port src dst : Nat) (payload : Bytes)
  /-- KEY_ACCEPT (R483): The initiator checks an ACCEPT, loads both keys, sends CONFIRM and changes its transmit KEYID. src, dst: of the START block; payload: the 72 bytes. -/
  | keyAccept (port src dst : Nat) (payload : Bytes)
  /-- KEY_CONFIRM (R483): The responder receives CONFIRM and changes its transmit KEYID. src, dst: of the START block; payload: the 72 bytes. -/
  | keyConfirm (port src dst : Nat) (payload : Bytes)
  /-- KEY_REJECT (R483): A REJECT leaves the key slots unchanged. -/
  | keyReject (port : Nat) (payload : Bytes)
  /-- KEY_OFFER_RESEND (R483): Every 1 ms the initiator resends OFFER, up to 8 times, then logs 0x2C0B. -/
  | keyOfferResend (port : Nat)
  /-- REKEY_REQUEST (R484): A write to 0x8070:08 starts a link key exchange on port k. -/
  | rekeyRequest (via : DictPath) (port : Nat)
  /-- ETHERNET_FRAME_RECEIVE (R352): An Ethernet-mode MAC completes ingress of a frame after FCS and MACsec checks and passes it to the sluice. lane: the MAC; frame: the bytes from the destination address to the FCS. -/
  | ethernetFrameReceive (port lane : Nat) (frame : Bytes)
  /-- MACSEC_KEY_WRITE (R485): A write to 0x8072 or 0x8073 installs a MACsec key, which takes effect for transmission after the next boundary. tx: 0x8072, else 0x8073. -/
  | macsecKeyWrite (via : DictPath) (tx : Bool) (sub : Nat) (key : Bytes)
  /-- FLOW_WALK_COMPLETE (R355): The bucket and context reads of a flow walk return and the lookup hits, misses or fails. walk: its number, in the order in which walks began. -/
  | flowWalkComplete (walk : Nat)
  /-- FLOW_CACHE_ERROR (R359): A flow-cache entry error is corrected, reloaded for a pinned flow, or dropped for an unpinned one. -/
  | flowCacheError (index : Nat) (correctable : Bool)
  /-- INSTANCE_DOORBELL (R367): A doorbell of TAIL to an instance queue is accepted, or ignored with QERR. -/
  | instanceDoorbell (mid : Nat) (part : Option Nat) (inst queue tail : Nat)
  /-- DESCRIPTOR_COMPLETE (R367): A transmit or receive descriptor completes, is written back, HEAD advances and an MSI may be sent. -/
  | descriptorComplete
  /-- FLOW_INSERT (R378): The manager command writes a context from MDATA and inserts its key. part: when PV = 1; arg: the ARG field. -/
  | flowInsert (mid : Nat) (part : Option Nat) (arg : Nat)
  /-- FLOW_DELETE (R378): The manager command removes a key and invalidates the flow. part: when PV = 1; arg: the ARG field. -/
  | flowDelete (mid : Nat) (part : Option Nat) (arg : Nat)
  /-- FLOW_MODIFY (R378): The manager command replaces words 2 to 4 of a flow, keeping its state. part: when PV = 1; arg: the ARG field. -/
  | flowModify (mid : Nat) (part : Option Nat) (arg : Nat)
  /-- FLOW_READ (R378): The manager command returns a flow's current context in MDATA. part: when PV = 1; arg: the ARG field. -/
  | flowRead (mid : Nat) (part : Option Nat) (arg : Nat)
  /-- FLOW_LOOKUP (R378): The manager command looks up a key and returns the result in SLC_MRES and MDATA. part: when PV = 1; arg: the ARG field. -/
  | flowLookup (mid : Nat) (part : Option Nat) (arg : Nat)
  /-- INST_CONFIG (R378): The manager command enables or disables an instance. part: when PV = 1; arg: the ARG field. -/
  | instConfig (mid : Nat) (part : Option Nat) (arg : Nat)
  /-- QCTX_WRITE (R378): The manager command writes a queue context through the hopper. part: when PV = 1; arg: the ARG field. -/
  | qctxWrite (mid : Nat) (part : Option Nat) (arg : Nat)
  /-- QCTX_READ (R378): The manager command reads a queue context through the hopper into MDATA. part: when PV = 1; arg: the ARG field. -/
  | qctxRead (mid : Nat) (part : Option Nat) (arg : Nat)
  /-- INST_SHARE (R373): The manager command sets an instance's share, effective at the next boundary. part: when PV = 1; arg: the ARG field. -/
  | instShare (mid : Nat) (part : Option Nat) (arg : Nat)
  /-- INST_RESET_DRAIN (R375): The manager command resets an instance by draining its admitted entries. part: when PV = 1; arg: the ARG field. -/
  | instResetDrain (mid : Nat) (part : Option Nat) (arg : Nat)
  /-- INST_RESET_SQUASH (R375): The manager command resets an instance by squashing its unstarted entries. part: when PV = 1; arg: the ARG field. -/
  | instResetSquash (mid : Nat) (part : Option Nat) (arg : Nat)
  /-- LOG_CONFIG (R376): The manager command configures an instance's dirty-page log and starts logging. part: when PV = 1; arg: the ARG field. -/
  | logConfig (mid : Nat) (part : Option Nat) (arg : Nat)
  /-- LOG_SWAP (R377): The manager command swaps an instance's dirty-log bitmaps at the next boundary. part: when PV = 1; arg: the ARG field. -/
  | logSwap (mid : Nat) (part : Option Nat) (arg : Nat)
  /-- LOG_STOP (R378): The manager command stops an instance's dirty-page log. part: when PV = 1; arg: the ARG field. -/
  | logStop (mid : Nat) (part : Option Nat) (arg : Nat)
  /-- INST_CLRERR (R378): The manager command clears QERR, IOTERR and LOGOVER of an instance. part: when PV = 1; arg: the ARG field. -/
  | instClrerr (mid : Nat) (part : Option Nat) (arg : Nat)
  /-- DRAIN_TIMEOUT (R375): A drain not ended 200 µs after it started squashes what is left and logs 0x290B. -/
  | drainTimeout (inst : Nat)
  /-- INSTANCE_RESET_COMPLETE (R375): With no write outstanding, the instance's hopper and pool entries are released and it becomes DISABLED. -/
  | instanceResetComplete (inst : Nat)
  /-- HOP_MNT_CLEAN (R370): START with OP CLEAN writes back the dirty contexts of instances FIRST to LAST. -/
  | hopMntClean (mid first last : Nat)
  /-- HOP_MNT_CLEANINV (R370): START with OP CLEANINV writes back and invalidates the contexts of instances FIRST to LAST. -/
  | hopMntCleaninv (mid first last : Nat)
  /-- HOP_MNT_COMPLETE (R370): The hopper maintenance engine finishes its visit, clears BUSY and sets DONE. -/
  | hopMntComplete
  /-- HOPPER_ENTRY_ERROR (R371): A hopper entry error is counted and may lose the context or disable the entry. -/
  | hopperEntryError (entry : Nat) (correctable : Bool)
  /-- FUNCTION_LEVEL_RESET (R374): A function-level reset drains the instance that the function owns. -/
  | functionLevelReset (fn : Nat)
  /-- GPTP_SYNC (R381): The follower time service takes a Sync and supplies t to the turn unit. time: the vehicle time t in ns at this instant. -/
  | gptpSync (time : Int)
  /-- TIME_SYNC_LOSS (R381): Too many sync intervals without a valid Sync report loss of synchronisation and log 0x2912. -/
  | timeSyncLoss
  /-- DIAGNOSTIC_SESSION_CONTROL (R382): UDS service 0x10 switches sessions; the programming session sends the SERVICE request. conn: the TCP connection; req: the request after its service byte. -/
  | diagnosticSessionControl (conn : Nat) (req : Bytes)
  /-- ECU_RESET (R382): UDS service 0x11 hard reset starts a package warm reset in SERVICE. conn: the TCP connection; req: the request after its service byte. -/
  | ecuReset (conn : Nat) (req : Bytes)
  /-- CLEAR_DIAGNOSTIC_INFORMATION (R382): UDS service 0x14 acts on fault-log DTCs. conn: the TCP connection; req: the request after its service byte. -/
  | clearDiagnosticInformation (conn : Nat) (req : Bytes)
  /-- READ_DTC_INFORMATION (R382): UDS service 0x19 reports fault-log faults as DTCs. conn: the TCP connection; req: the request after its service byte. -/
  | readDtcInformation (conn : Nat) (req : Bytes)
  /-- READ_DATA_BY_IDENTIFIER (R382): UDS service 0x22 returns identity data for the supported identifiers. conn: the TCP connection; req: the request after its service byte. -/
  | readDataByIdentifier (conn : Nat) (req : Bytes)
  /-- UDS_AUTHENTICATION (R479): UDS service 0x29 carries the security-session challenge, response and end. conn: the TCP connection; req: the request after its service byte. -/
  | udsAuthentication (conn : Nat) (req : Bytes)
  /-- ROUTINE_CONTROL (R382): UDS routine 0xF000 reads the dictionary object named by its option record. conn: the TCP connection; req: the request after its service byte. -/
  | routineControl (conn : Nat) (req : Bytes)
  /-- REQUEST_DOWNLOAD (R473): UDS service 0x34 starts a bundle transfer into update staging. conn: the TCP connection; req: the request after its service byte. -/
  | requestDownload (conn : Nat) (req : Bytes)
  /-- TRANSFER_DATA (R473): UDS service 0x36 writes bundle bytes to the target bank. conn: the TCP connection; req: the request after its service byte. -/
  | transferData (conn : Nat) (req : Bytes)
  /-- REQUEST_TRANSFER_EXIT (R473): UDS service 0x37 ends a transfer and the bundle is checked and written PENDING or BAD. conn: the TCP connection; req: the request after its service byte. -/
  | requestTransferExit (conn : Nat) (req : Bytes)
  /-- TESTER_PRESENT (R382): UDS service 0x3E keeps the diagnostic session alive. conn: the TCP connection; req: the request after its service byte. -/
  | testerPresent (conn : Nat) (req : Bytes)
  /-- CONTROL_DTC_SETTING (R382): UDS service 0x85 is served. conn: the TCP connection; req: the request after its service byte. -/
  | controlDtcSetting (conn : Nat) (req : Bytes)
  /-- UDS_UNSUPPORTED_SERVICE (R382): Any other UDS service is answered with negative response 0x11. -/
  | udsUnsupportedService (conn sid : Nat)
  /-- PCI_PERST_RELEASE (R405): Release of PCI_PERST_N starts training of the endpoint sub-port. -/
  | pciPerstRelease
  /-- PCI_PERST_ASSERT (R405): Assertion of PCI_PERST_N freezes the endpoint sub-port as on a surprise link-down. -/
  | pciPerstAssert
  /-- PCIE_LINK_UP (R405): A sub-port link reaches L0, logs 0x0A08 or 0x1A0B and an endpoint sends its LTR. rate: as in RATE of PCI_SSTAT. -/
  | pcieLinkUp (sub rate width : Nat) (flit : Bool)
  /-- PCIE_FREEZE (R408): A freeze condition moves a sub-port to FROZEN and errors its outstanding requests. -/
  | pcieFreeze (sub : Nat) (cause : FreezeCause)
  /-- RELEASE (R409): RELEASE in PCI_SCTLs or 0x4100:08 releases a frozen sub-port to UP or DOWN, unless a freeze condition wins. condition: a freeze condition falls in the same cycle. -/
  | releaseSub (mid : Nat) (part : Option Nat) (sub : Nat) (condition : Bool)
  /-- PCIE_PORT_RESET (R500): A PCIe port reset takes a sub-port to DOWN and drives PCI_PERSTO_N low for 1 ms. -/
  | pciePortReset (sub : Nat)
  /-- PCIE_INBOUND_REQUEST (R395): An inbound memory request is translated by the IOT or the window table, or refused with Unsupported Request. len: bytes of a read; wdata: of a write; poison: EP is set; atomic: an AtomicOp. -/
  | pcieInboundRequest (sub : Nat) (target : PciTarget) (len : Nat) (wdata : Option Bytes) (poison atomic : Bool)
  /-- PCIE_DOORBELL (R393): A function's BAR0 doorbell write is forwarded to SLC_IDB for its own instance. -/
  | pcieDoorbell (fn queue value : Nat)
  /-- PCIE_OUTBOUND_REQUEST (R387): The port maps an outbound request to its PCIe address, dropping partition writes outside RUN and DEGRADED. inst: the sluice instance that issues it. -/
  | pcieOutboundRequest (mid : Nat) (part inst : Option Nat) (txid addr width : Nat) (wdata : Option Nat)
  /-- PCIE_COMPLETION (R404): A received completion ends its request, or is discarded as late or unexpected. status: 0 success, 1 Unsupported Request, 2 CRS, 4 Completer Abort; fits: byte count and lower address fit the request. -/
  | pcieCompletion (sub tag status : Nat) (data : Bytes) (poison fits final : Bool)
  /-- COMPLETION_TIMEOUT (R403): An outbound non-posted request unanswered after T completes with ERR and logs 0x2A03. -/
  | completionTimeout (sub tag : Nat)
  /-- TAG_QUARANTINE_EXPIRY (R404): 2T after issue, a quarantined tag is freed. -/
  | tagQuarantineExpiry (sub tag : Nat)
  /-- WINDOW_COMMIT (R396): COMMIT in PCI_IWCTL starts the check of the staged inbound window table. -/
  | windowCommit (mid : Nat) (part : Option Nat)
  /-- WINDOW_COMMIT_APPLIED (R396): The checked table replaces the active one between two TLPs, or the commit is refused with ERRCODE. pending: requests translated by the old table that have not completed at their homes. -/
  | windowCommitApplied (pending : Nat)
  /-- PCI_HINT_WRITE (R399): A write of VEC to PCI_HINT sends that MSI-X vector of the physical function. -/
  | pciHintWrite (vec : Nat)
  /-- DICTIONARY_WINDOW_GO (R444): GO in PCI_DWCTL makes the governor serve the request buffer and write the response. -/
  | dictionaryWindowGo
  /-- LOCKSTEP_MISMATCH (R413): The comparator finds the governor cores differ, asserts FAULT_OUT, halts them and drives HOLD. -/
  | lockstepMismatch
  /-- GOVERNOR_SRAM_ERROR (R414): A governor SRAM error is corrected and logged 0x1008, or is uncorrectable and logs 0x4009. entry: the fault-log entry that it lies in. -/
  | governorSramError (correctable : Bool) (entry : Option Nat)
  /-- MILLRACE_PROBE (R415): Every 10 µs the governor probes the millrace, setting MRWEDGE after three stalled probes. ok: the probe completed within 10 us. -/
  | millraceProbe (ok : Bool)
  /-- MIRROR_REFRESH (R416): The governor refreshes its mirror of RO objects at each boundary, or every 1 ms without boundaries. -/
  | mirrorRefresh
  /-- POST (R424): A sender's POST moves an EMPTY channel to FULL or PEND and notifies the receiver. -/
  | postMsg (mid : Nat) (part : Option Nat) (set recv len : Nat)
  /-- ACK (R424): A receiver's ACK empties a FULL channel. -/
  | ackMsg (mid : Nat) (part : Option Nat) (set send : Nat)
  /-- ACKABORT (R424): A sender's ACKABORT clears ABORTED on an empty channel. -/
  | ackabort (mid : Nat) (part : Option Nat) (set recv : Nat)
  /-- LOCK_ACQUIRE (R430): A read of MBX_LOCKk acquires a free lock or returns the holder with HELD set. -/
  | lockAcquire (mid : Nat) (part : Option Nat) (k : Nat)
  /-- LOCK_RELEASE (R431): The holder's write of 0 to MBX_LOCKk releases the lock; other writes are refused. -/
  | lockRelease (mid : Nat) (part : Option Nat) (k value : Nat)
  /-- LOCK_FORCE_RELEASE (R431): A governor write of 1 to MBX_LOCKFRCk releases lock k and logs 0x0007. -/
  | lockForceRelease (mid : Nat) (part : Option Nat) (k value : Nat)
  /-- DICTIONARY_READ (R442): A READ request returns up to LEN bytes of an object's value from OFFSET. port, stream: of the sack, on path 3; msg: the bytes of the dictionary message (on path 5 those of the channel); stalled: the read of the hub register behind the object has not completed within 10 us. -/
  | dictionaryRead (via : DictPath) (port stream : Nat) (msg : Bytes) (stalled : Bool)
  /-- DICTIONARY_WRITE (R439): A WRITE request or segment is checked and applied to the staged image, or refused with an abort code. -/
  | dictionaryWrite (via : DictPath) (port stream : Nat) (msg : Bytes)
  /-- USDO_REQUEST (R446): An MCAN port serves a CANopen FD USDO expedited or segmented transfer. -/
  | usdoRequest (port client : Nat) (req : UsdoReq) (stalled : Bool)
  /-- USDO_SESSION_TIMEOUT (R446): A USDO session idle for 1 s ends with abort 0x0504_0000. -/
  | usdoSessionTimeout (port client : Nat)
  /-- NMT_COMMAND (R447): An NMT command is ignored, counted and logged 0x0B0C. -/
  | nmtCommand
  /-- CANOPEN_HEARTBEAT (R447): At the heartbeat interval the governor sends a heartbeat with the state mapped from the device state. -/
  | canopenHeartbeat (port : Nat)
  /-- COMMIT (R453): A COMMIT request starts the checks of the staged image. -/
  | commitImg (via : DictPath)
  /-- DISCARD (R452): A DISCARD request makes the staged image a copy of the active one and cancels a pending switch. -/
  | discardImg (via : DictPath)
  /-- PERSIST (R457): A PERSIST request writes the active image to the non-current boot flash slot. -/
  | persistImg (via : DictPath)
  /-- COMMIT_AND_PERSIST (R452): A COMMIT and PERSIST request commits and persists after the switch. -/
  | commitAndPersist (via : DictPath)
  /-- COMMIT_CHECKS_COMPLETE (R453): The commit checks end with STATE PENDING and 0x0B01, or REFUSED with RESULT and 0x2B02. -/
  | commitChecksComplete
  /-- IMAGE_SWITCH (R454): The staged image becomes active at one instant, registers are written, partitions load, or placement is refused. -/
  | imageSwitch
  /-- STAGER_TIMEOUT (R450): No write or commit from the stager for the timeout releases the claim and logs 0x0B0B. -/
  | stagerTimeout
  /-- PERSIST_COMPLETE (R457): A persist writes its slot record and logs 0x0B0D, or fails and logs 0x2B06. ok: the image was written and read back well. -/
  | persistComplete (ok : Bool)
  /-- IMAGE_MEMORY_ERROR (R448): An image memory error is corrected, or an uncorrectable one drops the staged image or moves to SAFE_HOLD. staged: in the staged image, else in the active one. -/
  | imageMemoryError (staged correctable : Bool)
  /-- LOAD_PUBLIC_KEY (R464): A write to 0x8001:01 fuses a blank key slot or supplies the key of a programmed slot. -/
  | loadPublicKey (via : DictPath) (slot : Nat) (key : Bytes)
  /-- REVOKE_SLOT (R465): A write to 0x8001:02 blows a slot's revoke fuse unless the slot signs running or good firmware or the active image. -/
  | revokeSlot (via : DictPath) (slot : Nat)
  /-- VENDOR_DEBUG_CONSENT (R465): A write of 1 to 0x8001:03 blows the vendor debug consent fuse. -/
  | vendorDebugConsent (via : DictPath)
  /-- SESSION_CHALLENGE (R478): A read of 0x8026:01 returns a new 32-byte challenge for the path and source. -/
  | sessionChallenge (via : DictPath)
  /-- SESSION_RESPONSE (R478): A response written to 0x8026:02 opens a security session and extends M5, or fails with lockout. -/
  | sessionResponse (via : DictPath) (sig : Bytes)
  /-- END_SESSION (R478): A write of 1 to 0x8026:03 ends the security session. -/
  | endSession (via : DictPath)
  /-- SESSION_TIMEOUT (R478): A security session ends after 60 s without a request from its source. -/
  | sessionTimeout (path src : Nat)
  /-- CHALLENGE_EXPIRY (R478): A session challenge becomes invalid 10 s after it was issued. -/
  | challengeExpiry (path src : Nat)
  /-- AUTH_LOCKOUT_EXPIRY (R479): An authentication lockout after repeated failures ends. iface: the path code; 7 UDS, 0 debug. -/
  | authLockoutExpiry (iface : Nat)
  /-- BUNDLE_UPLOAD (R473): A segmented write to 0x8030:01 starts, carries and ends a bundle transfer into the non-running bank. -/
  | bundleUpload (via : DictPath) (off : Nat) (last : Bool) (data : Bytes)
  /-- CONFIRM (R470): A write of 1 to 0x8030:03 stops the trial timer and writes the running bank GOOD. -/
  | confirmBank (via : DictPath)
  /-- ADVANCE_COUNTER (R472): A write of 1 to 0x8030:05 raises the firmware counter to the running SVN, or is refused. -/
  | advanceCounter (via : DictPath)
  /-- CANCEL_PENDING (R473): A write of 1 to 0x8030:06 returns a PENDING bank to BAD. -/
  | cancelPending (via : DictPath)
  /-- ATTESTATION_NONCE (R477): A nonce written to 0x8060:01 makes the governor sign an attestation report. -/
  | attestationNonce (via : DictPath) (nonce : Bytes)
  /-- EXTEND_MEASUREMENT (R474): A write to 0x8062:01 or 0x8062:02 extends M6 or M7. sub: 1 for M6, 2 for M7. -/
  | extendMeasurement (via : DictPath) (sub : Nat) (value : Bytes)
  /-- DBG_START (R487): START in DBG_AUTHCTL issues a new debug challenge and resets the token position. -/
  | dbgStart
  /-- DBG_RESP_WRITE (R487): A write to DBG_RESP appends the next 4 token bytes. -/
  | dbgRespWrite (value : Nat)
  /-- DBG_SUBMIT (R487): SUBMIT verifies the token and opens a debug session, or fails with lockout. -/
  | dbgSubmit
  /-- DBG_END (R488): END in DBG_AUTHCTL, or the turn reaching EXPIRY, ends the debug session and resumes halted harts. -/
  | dbgEnd
  /-- POWER_GOOD (R493): PG_CORE or PG_MEM rising lets the governor raise the next enable. mem: PG_MEM, else PG_CORE. -/
  | powerGood (mem : Bool)
  /-- POWER_GOOD_TIMEOUT (R493): PG_CORE or PG_MEM not arriving within 20 ms logs 0x5D06 and lowers the enables. -/
  | powerGoodTimeout (mem : Bool)
  /-- POWER_GOOD_LOST (R493): PG_CORE or PG_MEM falling while its enable is high logs 0x5D06 and lowers the enables. -/
  | powerGoodLost (mem : Bool)
  /-- REGULATOR_REFRESH (R494): At least every 1 ms the governor resends the frame of every enabled sail regulator. -/
  | regulatorRefresh
  /-- REGULATOR_ALERT (R494): VR_ALERT_N low logs 0x2D09 and resends every regulator frame. low: VR_ALERT_N fell; else it rose again. -/
  | regulatorAlert (low : Bool)
  /-- POWER_FAIL_WARNING (R496): PFAIL_N low for 2 µs issues the power-fail warning, logs 0x0D07 and starts a mode 0 shutdown. -/
  | powerFailWarning
  /-- SHUTDOWN_COMPLETE (R517): PG_CORE falls, or 20 ms pass, and the device enters OFF or standby. -/
  | shutdownComplete
  /-- WAKE_IN (R518): A filtered WAKE_IN event wakes the device from standby, or is counted outside standby. -/
  | wakeIn
  /-- SENSOR_READING (R509): Every 10 µs each temperature sensor reads; a failed sensor logs 0x2D08 and a critical reading raises 0x4D04. raw: the raw reading in 0.125 C; none when no reading came for 1 ms. -/
  | sensorReading (sensor : Nat) (raw : Option Int)
  /-- THERMAL_TRIP (R515): A sensor at 132 °C makes the pad logic drive THERMTRIP_N, cut the supply enables and idle the lanes. -/
  | thermalTrip (sensor : Nat)
  /-- CLOCK_LOST (R516): A reference clock more than 1,000 ppm off for 10 consecutive checks is reported lost. -/
  | clockLost (clk : RefClk)
  /-- CLOCK_REGAINED (R516): A lost reference clock within 1,000 ppm for 10 consecutive checks logs 0x0E05. -/
  | clockRegained (clk : RefClk)
  /-- REGISTER_WRITE (R11): A write to a register without behaviour of its own is applied by its access type, or refused under R10. hwSet: the W1C bits of the register that hardware sets in the same cycle; hwClr: the W1S bits that it clears (R12). -/
  | registerWrite (target : WriteTarget) (value hwSet hwClr : Nat)
  /-- LOAD (R110): A hart executes a load: it translates the address through blocks, TLBs or the walker, checks PMP and protection keys, and reads data, taking a fault or the poison exception where the rules say. dst: 0 to 31 an integer register, 32 to 63 a floating-point register, from 64 byte 32 v + i of the vector registers; hv: an HLV access; first: the element number of a fault-only-first vector load. -/
  | loadOp (sail core va width dst : Nat) (signed hv : Bool) (first : Option Nat)
  /-- STORE (R124): A hart executes a store: it translates and checks it as for a load, checks write rights and key WD, and writes its cache, sending DirtyNote, Upgrade or RdUnique where needed. src: a register, numbered as in LOAD. -/
  | storeOp (sail core va width src : Nat) (hv : Bool)
  /-- AMO (R73): A hart executes an AMO or LR/SC: it translates and checks it as a store, faults on misalignment or on non-DRAM attributes, and takes the poison exception on poisoned data. -/
  | amo (sail core va width dst src : Nat) (op : AmoOp)
  /-- INSTRUCTION_FETCH (R110): A hart fetches an instruction, translating it through blocks, TLBs or the walker, without a key check, and takes the poison exception on poisoned data. va: the pc; len: 2 or 4 bytes. -/
  | instructionFetch (sail core va len : Nat)
  /-- CACHE_BLOCK_OPERATION (R72): A hart executes CBO.CLEAN, CBO.FLUSH, CBO.INVAL or CBO.ZERO, which acts on every cache of the package and is key-checked as a load or store. -/
  | cacheBlockOperation (sail core va : Nat) (op : CboOp)
  /-- SFENCE_VMA (R131): A hart executes an address-translation fence with broadcast disabled, removing its own TLB and paging-structure entries that the fence covers. addr, asid, vmid: the operands that are not x0. -/
  | sfenceVma (sail core : Nat) (kind : FenceKind) (addr asid vmid : Option Nat)
  /-- TIMER_INTERRUPT (R75): When time reaches CLU_MTIMECMPj, or the Sstc compare value, the core's timer interrupt becomes pending. -/
  | timerInterrupt (sail core : Nat)
  /-- HALT_REQUEST (R77): An external debugger in an open session halts a hart; the deadline mark still applies to that hart's replica. -/
  | haltRequest (sail core : Nat)
  /-- ABSTRACT_COMMAND (R72): The debug module executes an Access Register or Access Memory abstract command within the rights of the session's SCOPE. -/
  | abstractCommand (sail core : Nat) (cmd : AbsCmd)
  /-- TRST_N (R547): TRST_N held low for at least 100 ns resets the JTAG TAP. -/
  | trstN (low : Bool)
  /-- PLL_OUT_OF_LOCK (R516): The hub or memory PLL goes out of lock; 0x4E04 is raised and the device goes to SAFE_HOLD. mem: the memory PLL, else the hub PLL. -/
  | pllOutOfLock (mem : Bool)
  /-- VDD_AON_LOSS (R27): VDD_AON is lost, the governor is removed, lanes go idle, and partners find the package absent. -/
  | vddAonLoss
  /-- PG_MEM_FALL (R517): During shutdown, PG_MEM falls after PWR_EN_MEM has been lowered, and the governor lowers PWR_EN_CORE. -/
  | pgMemFall
  /-- PWR_EN_CORE_TIMEOUT (R517): 10 ms after PWR_EN_MEM was lowered in shutdown without PG_MEM falling, the governor lowers PWR_EN_CORE anyway. -/
  | pwrEnCoreTimeout
  /-- PCI_PERSTO_N_RELEASE (R499): 100 ms after PG_CORE rises, or 1 ms after a port reset, a root sub-port releases PCI_PERSTO_N. -/
  | pciPerstoNRelease (sub : Nat)
  /-- HOT_INSERTION (R409): A device inserted under a root sub-port in DOWN is detected, and the sub-port trains anew. -/
  | hotInsertion (sub : Nat)
  /-- CONFIGURATION_REQUEST (R405): An endpoint function receives a configuration request, answering CRS before CONFIG_WAIT, or applying config writes such as power-state changes and FLR. -/
  | configurationRequest (fn : Nat) (req : CfgOp)
  /-- LTR_MESSAGE (R402): A root sub-port receives an LTR message and records its snoop latency in PCI_SSTATs. -/
  | ltrMessage (sub value : Nat)
  /-- CORRECTABLE_ERROR (R406): A sub-port detects a correctable PCIe error, sets AER status, counts it in CORR, and logs 0x1A01 once per turn. status: the bit of the AER correctable status. -/
  | correctableError (sub status : Nat)
  /-- SYNC_AND_FOLLOW_UP (R381): As grandmaster, at each sync interval, the time service sends Sync and Follow_Up carrying the device time base on the ports of 0x9100:04. -/
  | syncAndFollowUp
  /-- ROUTING_ACTIVATION (R382): The diagnostic server handles a DoIP routing activation request of type 0x00 or 0xE0 on one of its TCP connections. conn: the TCP connection; kind: the activation type. -/
  | routingActivation (conn src kind : Nat)
deriving DecidableEq, Repr

end Sys2Proof
end

