-- ==== Sys2Proof/Decode.lean ====
section
/-! DEFINITION. The reading of a command from the bits of the opcode table. No row of the table gives bits (every "fields" list is empty and no
width is stated), so no word spells a command. -/

namespace Sys2Proof

/-- The command that the table's bits of a word spell: none, since no row gives bits. -/
def decodeTableWord (_nbits _w : Nat) : Option Instr := none

end Sys2Proof
end

