-- ==== Sys2Proof/Machine/SMap.lean ====
section
/-! DEFINITION. Sparse maps from natural keys in one canonical form: a list of (key, value) pairs with strictly rising keys and no
entry equal to what an unlisted key reads as. Memory, the register file and every indexed collection of the block are kept so. -/

namespace Sys2Proof.Machine

/-- What key `k` reads as: its entry, else the default `d`. -/
def SMap.get {β : Type} (d : β) (k : Nat) : List (Nat × β) → β
  | [] => d
  | (j, v) :: r => if k = j then v else SMap.get d k r

/-- Insert at the sorted place, replacing an entry of the same key. -/
def SMap.insert {β : Type} (k : Nat) (v : β) : List (Nat × β) → List (Nat × β)
  | [] => [(k, v)]
  | (j, w) :: r =>
    if k < j then (k, v) :: (j, w) :: r
    else if k = j then (k, v) :: r
    else (j, w) :: SMap.insert k v r

/-- Write key `k`; writing the default removes the entry. -/
def SMap.set {β : Type} [DecidableEq β] (d : β) (k : Nat) (v : β) (m : List (Nat × β)) : List (Nat × β) :=
  if v = d then m.filter (fun e => e.1 ≠ k) else SMap.insert k v m

/-- Update key `k` by `f`. -/
def SMap.upd {β : Type} [DecidableEq β] (d : β) (k : Nat) (f : β → β) (m : List (Nat × β)) : List (Nat × β) :=
  SMap.set d k (f (SMap.get d k m)) m

/-- Change every listed value; entries that come to equal the default go. -/
def SMap.mapV {β : Type} [DecidableEq β] (d : β) (f : Nat → β → β) (m : List (Nat × β)) : List (Nat × β) :=
  (m.map (fun e => (e.1, f e.1 e.2))).filter (fun e => e.2 ≠ d)

/-- Every key of the list is above `k`. -/
def SMap.above {β : Type} (k : Nat) (m : List (Nat × β)) : Bool := m.all (fun e => k < e.1)

/-- The canonical form: strictly rising keys, no entry equal to the default. -/
def SMap.wf {β : Type} [DecidableEq β] (d : β) : List (Nat × β) → Bool
  | [] => true
  | (k, v) :: r => SMap.above k r && decide (v ≠ d) && SMap.wf d r

/-- Write a run of consecutive keys, the first at `k`. -/
def SMap.setRun {β : Type} [DecidableEq β] (d : β) (k : Nat) : List β → List (Nat × β) → List (Nat × β)
  | [], m => m
  | v :: vs, m => SMap.setRun d (k + 1) vs (SMap.set d k v m)

/-- Read a run of `n` consecutive keys from `k`. -/
def SMap.getRun {β : Type} (d : β) (k : Nat) : Nat → List (Nat × β) → List β
  | 0, _ => []
  | n + 1, m => SMap.get d k m :: SMap.getRun d (k + 1) n m

end Sys2Proof.Machine
end

