-- ==== Sys2Proof/Machine/Bits.lean ====
section
/-! DEFINITION. Bit fields, saturating counts, little-endian byte strings and the CRCs of R9 and of the frame formats. -/

namespace Sys2Proof.Machine

/-- Bits [hi:lo] of a number. -/
def bits (v lo hi : Nat) : Nat := (v / 2 ^ lo) % 2 ^ (hi + 1 - lo)

/-- The number with bits [hi:lo] replaced by `x` (taken to the field's width). -/
def setBits (v lo hi x : Nat) : Nat :=
  v - bits v lo hi * 2 ^ lo + (x % 2 ^ (hi + 1 - lo)) * 2 ^ lo

/-- Bit `i` of a number. -/
def bit (v i : Nat) : Bool := (v / 2 ^ i) % 2 = 1

/-- A flag as a number. -/
def ofBool (p : Bool) : Nat := if p then 1 else 0

/-- One more, saturating at the field's largest value. -/
def satInc (width n : Nat) : Nat := if n + 1 < 2 ^ width then n + 1 else 2 ^ width - 1

/-- A sum, saturating at the field's largest value. -/
def satAdd (width n k : Nat) : Nat := min (n + k) (2 ^ width - 1)

/-- How many of the low `w` bits are set. -/
def popcount (w v : Nat) : Nat := ((List.range w).filter (fun i => bit v i)).length

/-- The mask with bits 0 to n-1 for which `p` holds. -/
def maskOf (n : Nat) (p : Nat → Bool) : Nat :=
  (List.range n).foldl (fun a i => if p i then a + 2 ^ i else a) 0

/-- Exclusive or of two numbers. -/
def xorN (a b : Nat) : Nat := Nat.xor a b

/-- A two's complement field of width `w` as an integer. -/
def toSigned (w v : Nat) : Int := if v % 2 ^ w < 2 ^ (w - 1) then (v % 2 ^ w : Nat) else ((v % 2 ^ w : Nat) : Int) - (2 ^ w : Nat)

/-- An integer as a two's complement field of width `w`. -/
def ofSigned (w : Nat) (i : Int) : Nat := (i % ((2 ^ w : Nat) : Int)).toNat

/-- The value of a little-endian byte string (R8). -/
def leNat : Bytes → Nat
  | [] => 0
  | x :: xs => x.toNat + 256 * leNat xs

/-- A number as `n` bytes, little-endian (R8). -/
def leBytes : Nat → Nat → Bytes
  | 0, _ => []
  | n + 1, v => BitVec.ofNat 8 v :: leBytes n (v / 256)

/-- A number as `n` bytes, big-endian (for wire formats that state it). -/
def beBytes (n v : Nat) : Bytes := (leBytes n v).reverse

/-- The value of a big-endian byte string. -/
def beNat (b : Bytes) : Nat := leNat b.reverse

/-- `n` bytes of a string from `off`, zeros past its end. -/
def slice (off n : Nat) (b : Bytes) : Bytes :=
  let t := (b.drop off).take n
  t ++ List.replicate (n - t.length) 0

/-- The little-endian number at bytes off to off+n-1. -/
def leAt (off n : Nat) (b : Bytes) : Nat := leNat (slice off n b)

/-- One bit step of a reflected CRC of the polynomial `p` (already reflected). -/
def crcStepR (p c : Nat) : Nat := if c % 2 = 1 then xorN (c / 2) p else c / 2

/-- Eight bit steps. -/
def crcByteR (p c : Nat) : Nat :=
  crcStepR p (crcStepR p (crcStepR p (crcStepR p (crcStepR p (crcStepR p (crcStepR p (crcStepR p c)))))))

/-- CRC-32 of R9: polynomial 0x04C11DB7 reflected, initial value and final XOR all ones. -/
def crc32 (b : Bytes) : Nat :=
  xorN (b.foldl (fun c x => crcByteR 0xEDB88320 (xorN c x.toNat)) 0xFFFFFFFF) 0xFFFFFFFF

/-- One bit step of a left-shifting CRC of width `w` and polynomial `p`. -/
def crcStepL (w p c : Nat) : Nat :=
  if bit c (w - 1) then xorN ((c * 2) % 2 ^ w) p else (c * 2) % 2 ^ w

/-- A left-shifting CRC over bytes, most significant bit first, no reflection, no final XOR. -/
def crcL (w p seed : Nat) (b : Bytes) : Nat :=
  b.foldl (fun c x =>
    (List.range 8).foldl (fun d _ => crcStepL w p d) (xorN c (x.toNat * 2 ^ (w - 8)))) seed

/-- CRC-8 of a regulator frame (R494): polynomial 0x07, initial value 0. -/
def crc8 (b : Bytes) : Nat := crcL 8 0x07 0 b

/-- Replace list element `i` (nothing past the end). -/
def listSet {α : Type} (i : Nat) (v : α) (l : List α) : List α := l.set i v

/-- Remove the first element equal to `v`. -/
def listErase {α : Type} [DecidableEq α] (v : α) : List α → List α
  | [] => []
  | x :: xs => if x = v then xs else x :: listErase v xs

/-- Insert a number into a strictly rising list. -/
def sinsert (k : Nat) : List Nat → List Nat
  | [] => [k]
  | x :: xs => if k < x then k :: x :: xs else if k = x then x :: xs else x :: sinsert k xs

end Sys2Proof.Machine
end

