-- ==== Sys2Proof/Machine/Keccak.lean ====
section
/-! DEFINITION. The Keccak sponge that SHAKE128, SHAKE256 and SHA3 name (R284, R477, R481): FIPS 202, lanes as numbers below 2^64. -/

namespace Sys2Proof.Machine

/-- Rotation of a 64-bit lane. -/
def rotl64 (v n : Nat) : Nat := (v * 2 ^ (n % 64)) % 2 ^ 64 + v / 2 ^ (64 - n % 64) * ofBool (n % 64 ≠ 0)

/-- The round constants, by the LFSR of FIPS 202: bit 2^j - 1 of the constant of round i is output j + 7 i. -/
def keccakLfsr : Nat → Nat → Nat
  | 0, r => r
  | n + 1, r => keccakLfsr n (let s := r * 2; if 256 ≤ s then xorN (s % 256) 0x71 else s)
def keccakRc (i : Nat) : Nat :=
  (List.range 7).foldl (fun a j => if bit (keccakLfsr (j + 7 * i) 1) 0 then a + 2 ^ (2 ^ j - 1) else a) 0

/-- Rotation offsets, lane x + 5 y. -/
def keccakRot : List Nat := [0, 1, 62, 28, 27, 36, 44, 6, 55, 20, 3, 10, 43, 25, 39, 41, 45, 15, 21, 8, 18, 2, 61, 56, 14]

/-- One round on the 25 lanes. -/
def keccakRound (rc : Nat) (a : List Nat) : List Nat :=
  let l (v : List Nat) (x y : Nat) : Nat := v.getD (x % 5 + 5 * (y % 5)) 0
  let c := (List.range 5).map fun x => xorN (l a x 0) (xorN (l a x 1) (xorN (l a x 2) (xorN (l a x 3) (l a x 4))))
  let d := (List.range 5).map fun x => xorN (c.getD ((x + 4) % 5) 0) (rotl64 (c.getD ((x + 1) % 5) 0) 1)
  let t := (List.range 25).map fun i => rotl64 (xorN (a.getD i 0) (d.getD (i % 5) 0)) (keccakRot.getD i 0)
  -- pi: lane (x, y) takes lane (x + 3 y, x)
  let p := (List.range 25).map fun i => l t (i % 5 + 3 * (i / 5)) (i % 5)
  let e := (List.range 25).map fun i =>
    let x := i % 5
    let y := i / 5
    xorN (l p x y) (Nat.land (2 ^ 64 - 1 - l p (x + 1) y) (l p (x + 2) y))
  match e with
  | h :: r => xorN h rc :: r
  | [] => []

/-- The permutation. -/
def keccakF (a : List Nat) : List Nat := (List.range 24).foldl (fun v i => keccakRound (keccakRc i) v) a

/-- Absorb the blocks of a padded message. -/
def keccakAbsorb (rate : Nat) : Nat → Bytes → List Nat → List Nat
  | 0, _, a => a
  | n + 1, m, a =>
    if m.isEmpty then a
    else keccakAbsorb rate n (m.drop rate)
      (keccakF ((List.range 25).map fun i => if i < rate / 8 then xorN (a.getD i 0) (leAt (8 * i) 8 m) else a.getD i 0))

/-- The sponge: rate in bytes, domain suffix with its first padding bit, output of `n` bytes (at most one block). -/
def keccak (rate suffix n : Nat) (m : Bytes) : Bytes :=
  let k := m.length % rate
  let pad := if k + 1 = rate then [BitVec.ofNat 8 (suffix + 0x80)]
    else BitVec.ofNat 8 suffix :: List.replicate (rate - k - 2) 0 ++ [0x80]
  let p := m ++ pad
  let a := keccakAbsorb rate (p.length / rate + 1) p (List.replicate 25 0)
  (a.flatMap (leBytes 8)).take n

def shake128 (n : Nat) (m : Bytes) : Bytes := keccak 168 0x1F n m
def shake256 (n : Nat) (m : Bytes) : Bytes := keccak 136 0x1F n m

end Sys2Proof.Machine
end

