-- ==== Sys2Proof/Config.lean ====
section
/-! DEFINITION. What an implementation fixes and the spec leaves open: free values. No constant here has a body that a proof could
see; each is applied to the state's counter of free values or to the operands it depends on. -/

namespace Sys2Proof.Config

/-- R43: the rate correction, in parts per 10^9, that the alignment logic asks for at an offset (counter, offset in ns). The block
bounds it by the slew limit. -/
opaque rateChoice : Nat → Int → Int

/-- R84, R195, R368: which of `n` candidates a replacement policy that the spec does not define takes (counter, number). -/
opaque victim : Nat → Nat → Nat

/-- Position in the codeword of a corrected symbol, as the error log gives it (R270): the symbols' places are outside the model. -/
opaque symbolAt : Nat → Nat → Nat

/-- R259: what a code returns for a line with more errors than it detects (counter): the POISON flag. -/
opaque beyondPoison : Nat → Bool

/-- R259, R260: the data returned for a line whose errors the code does not see (counter, stored data). -/
opaque beyondData : Nat → Nat → Nat

/-- R146: the integer that rounding a NaN gives in the epilogue of an int4 or int8 output; the spec states none. -/
opaque nanInteger : Int

/-- R227: which of the minimal west-first output ports the governor writes for a router and a destination (counter, router, destination). -/
opaque routeChoice : Nat → Nat → Nat → Nat

/-- R214: the 8 check bits of a header over its bits [119:0]; the spec names SEC-DED and gives no code. -/
opaque headerCheck : Nat → Nat

/-- R214: how the 16 tags and states of a TagResp (line, way, state) lie in its head payload; the spec does not lay them out. -/
opaque tagBits : List (Nat × Nat × Nat) → Nat

/-- R326: DELAY of a beacon in ns, as the port computes it (counter); the block takes it within the bound of 250 ns. -/
opaque beaconDelay : Nat → Nat

/-- R478, R483, R487: a random number of an exchange or challenge (counter). -/
opaque nonce : Nat → Nat

/-- R307: which of the four MACs of a MODE 1 port a frame leaves on (counter); the spec names only the port. -/
opaque macLane : Nat → Nat

/-- R380: the endpoint that the CAN routes at 0x9000:03 give a tunnelled CAN record (routes, record header); the spec does not lay out a
route's fields. -/
opaque canRoute : Bytes → Bytes → Option Nat

/-- R386, R391: the words of a function's or root port's configuration space that the spec does not give (sub-port, function, byte offset). -/
opaque configWord : Nat → Nat → Nat → Nat

/-- R382: the largest block of a UDS transfer that a positive response to RequestDownload announces, in bytes. -/
opaque udsBlockLength : Nat

/-- R72: the 16 bits of entropy that a read of the seed CSR returns (counter). -/
opaque entropy : Nat → Nat

/-- R292, R296: how many 4 KiB units a running copy has moved (time in ns). -/
opaque copyDone : Nat → Nat

/-- R396, R397: how many requests under a replaced window table have completed at their homes (time in ns). -/
opaque oldDone : Nat → Nat

end Sys2Proof.Config
end

