-- ==== Sys2Proof/Machine/Float.lean ====
section
/-! DEFINITION. The floating-point formats of the millstone and their exact arithmetic with one rounding, to nearest even (R144-R146). -/

namespace Sys2Proof.Machine

/-- A floating-point value: NaN, an infinity, or ±m × 2^e. -/
inductive Fp where
  | nan
  | inf (neg : Bool)
  | fin (neg : Bool) (m : Nat) (e : Int)
deriving DecidableEq, Repr

/-- A format: exponent bits, mantissa bits; `ieee`: the all-ones exponent holds infinity and NaN (E4M3 has NaN at all ones only). -/
structure Fmt where
  ew : Nat
  mw : Nat
  ieee : Bool := true
deriving DecidableEq, Repr

def fp32F : Fmt := ⟨8, 23, true⟩
def bf16F : Fmt := ⟨8, 7, true⟩
def fp16F : Fmt := ⟨5, 10, true⟩
def e5m2F : Fmt := ⟨5, 2, true⟩
def e4m3F : Fmt := ⟨4, 3, false⟩

/-- The exponent bias. -/
def Fmt.bias (f : Fmt) : Int := 2 ^ (f.ew - 1) - 1

/-- The value of an encoding; subnormals are kept. -/
def Fmt.decode (f : Fmt) (v : Nat) : Fp :=
  let m := v % 2 ^ f.mw
  let x := v / 2 ^ f.mw % 2 ^ f.ew
  let neg := bit v (f.ew + f.mw)
  let top := 2 ^ f.ew - 1
  if x = top && f.ieee then (if m = 0 then .inf neg else .nan)
  else if x = top && m = 2 ^ f.mw - 1 then .nan
  else if x = 0 then .fin neg m (1 - f.bias - (f.mw : Int))
  else .fin neg (2 ^ f.mw + m) ((x : Int) - f.bias - (f.mw : Int))

/-- m shifted right by `s`, rounded to nearest, ties to even. -/
def rneShift (m s : Nat) : Nat :=
  let q := m / 2 ^ s
  let r := m % 2 ^ s
  if s = 0 then m
  else if 2 * r < 2 ^ s then q else if 2 ^ s < 2 * r then q + 1 else if q % 2 = 0 then q else q + 1

/-- The magnitude m × 2^e rounded to a format: encoding without sign, none on overflow. -/
def Fmt.roundMag (f : Fmt) (m : Nat) (e : Int) : Option Nat :=
  if m = 0 then some 0
  else
    let top : Int := e + (Nat.log2 m : Int)
    let emin : Int := 1 - f.bias
    let lsb : Int := (if top < emin then emin else top) - (f.mw : Int)
    let q := if lsb ≤ e then m * 2 ^ (e - lsb).toNat else rneShift m (lsb - e).toNat
    let (q, lsb) := if q = 2 ^ (f.mw + 1) then (2 ^ f.mw, lsb + 1) else (q, lsb)
    if q < 2 ^ f.mw then some q
    else
      let x := (lsb + (f.mw : Int) + f.bias).toNat
      let enc := x * 2 ^ f.mw + (q - 2 ^ f.mw)
      let lim := if f.ieee then (2 ^ f.ew - 1) * 2 ^ f.mw else 2 ^ (f.ew + f.mw) - 1
      if enc < lim then some enc else none

/-- The sign bit's weight. -/
def Fmt.signBit (f : Fmt) (neg : Bool) : Nat := if neg then 2 ^ (f.ew + f.mw) else 0

/-- Round to fp32: overflow is infinity, every NaN the canonical one (R145). -/
def toFp32 : Fp → Nat
  | .nan => 0x7FC00000
  | .inf neg => 0x7F800000 + fp32F.signBit neg
  | .fin neg m e => match fp32F.roundMag m e with
    | some v => v + fp32F.signBit neg
    | none => 0x7F800000 + fp32F.signBit neg

/-- Exact sum; opposite zeros and exact cancellation give +0. -/
def Fp.add : Fp → Fp → Fp
  | .nan, _ => .nan
  | _, .nan => .nan
  | .inf a, .inf b => if a = b then .inf a else .nan
  | .inf a, _ => .inf a
  | _, .inf b => .inf b
  | .fin a m e, .fin b n f =>
    let g := min e f
    let x : Int := (if a then -1 else 1) * (m * 2 ^ (e - g).toNat : Nat)
    let y : Int := (if b then -1 else 1) * (n * 2 ^ (f - g).toNat : Nat)
    let z := x + y
    .fin (if z = 0 then a && b && m = 0 && n = 0 else z < 0) z.natAbs g

/-- Exact product. -/
def Fp.mul : Fp → Fp → Fp
  | .nan, _ => .nan
  | _, .nan => .nan
  | .inf a, .inf b => .inf (a != b)
  | .inf a, .fin b n _ => if n = 0 then .nan else .inf (a != b)
  | .fin a m _, .inf b => if m = 0 then .nan else .inf (a != b)
  | .fin a m e, .fin b n f => .fin (a != b) (m * n) (e + f)

/-- fp32 operations on encodings, each rounded once. -/
def f32add (x y : Nat) : Nat := toFp32 ((fp32F.decode x).add (fp32F.decode y))
def f32mul (x y : Nat) : Nat := toFp32 ((fp32F.decode x).mul (fp32F.decode y))

/-- fp32 of an integer. -/
def f32ofInt (i : Int) : Nat := toFp32 (.fin (i < 0) i.natAbs 0)

/-- A value rounded half to even to an integer (R146); `none` for NaN, and a value beyond every clamp for an infinity. -/
def Fp.toInt : Fp → Option Int
  | .nan => none
  | .inf neg => some (if neg then -1000000 else 1000000)
  | .fin neg m e =>
    let q := if 0 ≤ e then m * 2 ^ e.toNat else rneShift m (-e).toNat
    some (if neg then -(q : Int) else q)

/-- The formats of floating data type codes (0x2 to 0x5, 0x7). -/
def fmtOf (ty : Nat) : Fmt :=
  match ty with
  | 2 => e4m3F | 3 => e5m2F | 4 => bf16F | 5 => fp16F | _ => fp32F

/-- The NaN that an output type stores (R146). -/
def nanOf (ty : Nat) : Nat :=
  match ty with
  | 2 => 0x7F | 3 => 0x7E | 4 => 0x7FC0 | 5 => 0x7E00 | _ => 0x7FC00000

/-- Convert an fp32 result to a floating output type (R146): fp8 saturates to its largest finite magnitude, the others overflow to infinity. -/
def convOut (ty : Nat) (x : Fp) : Nat :=
  let f := fmtOf ty
  let big := if ty = 2 then 0x7E else if ty = 3 then 0x7B else (2 ^ f.ew - 1) * 2 ^ f.mw
  match x with
  | .nan => nanOf ty
  | .inf neg => big + f.signBit neg
  | .fin neg m e => match f.roundMag m e with
    | some v => v + f.signBit neg
    | none => big + f.signBit neg

/-- Add neighbouring pairs of a list; an odd last element stays. -/
def pairUp (add : Nat → Nat → Nat) : List Nat → List Nat
  | x :: y :: r => add x y :: pairUp add r
  | l => l

/-- The fixed pairwise tree of R145 over the products of a K-step, in increasing element order. -/
def treeSum (add : Nat → Nat → Nat) : Nat → List Nat → Nat
  | 0, l => l.headD 0
  | n + 1, l => if l.length ≤ 1 then l.headD 0 else treeSum add n (pairUp add l)

end Sys2Proof.Machine
end

