-- ==== Sys2Proof/Machine/DictTable.lean ====
section
/-! DEFINITION. The object dictionary's table: for every object the chapters' object tables give, its index and subindex range,
type, access (R439), default and range. Values are byte strings, little-endian (R8). -/

namespace Sys2Proof.Machine

/-- Object types. -/
inductive OTy where | bool | u8 | u16 | u32 | u64 | i8 | i32 | i64 | ostr | vstr | domain
deriving DecidableEq, Repr

/-- Object access: CONST, RO, WO, and the configuration objects RW and RWC (RWC: switched in only as R454 states). -/
inductive OAcc where | const | ro | wo | rw | rwc
deriving DecidableEq, Repr

/-- The ranges of the object tables. `mask m`: no bit outside m. `qsizes`: each nibble 0 or 4-12. `sailField`: [3:0] at most 11.
`opPlan`: R503. `powerLimit`: R510. `recs n k`: at most k records of n bytes. -/
inductive ORng where
  | any | span (lo hi : Nat) | spanOr (lo hi extra : Nat) | mask (m : Nat) | aligned (n : Nat) | signed (lo hi : Int)
  | len (n : Nat) | maxLen (n : Nat) | recs (n k : Nat) | qsizes | sailField | opPlan | powerLimit
deriving DecidableEq, Repr

/-- One row of an object table. -/
structure ObjRow where
  i0 : Nat
  i1 : Nat
  s0 : Nat
  s1 : Nat
  ty : OTy
  acc : OAcc
  dflt : Nat
  rng : ORng
deriving DecidableEq, Repr

/-- The objects of chapter 1. -/
def objRows1 : List ObjRow := [
  ⟨0x1100, 0x1100, 0, 0, .u8, .const, 6, .span 6 6⟩,
  ⟨0x1100, 0x1100, 1, 1, .vstr, .const, 0, .len 16⟩,
  ⟨0x1100, 0x1100, 2, 2, .u32, .ro, 1, .any⟩,
  ⟨0x1100, 0x1100, 3, 3, .u32, .ro, 0x10101, .any⟩,
  ⟨0x1100, 0x1100, 4, 4, .u16, .const, 0, .mask 0xFFF⟩,
  ⟨0x1100, 0x1100, 5, 5, .u16, .ro, 0, .mask 0xFFF⟩,
  ⟨0x1100, 0x1100, 6, 6, .u8, .ro, 0, .any⟩,
  ⟨0x1110, 0x1110, 0, 0, .u8, .const, 0xC, .span 0xC 0xC⟩,
  ⟨0x1110, 0x1110, 1, 0xC, .u32, .ro, 0, .any⟩,
  ⟨0x1120, 0x1120, 0, 0, .u8, .const, 2, .span 2 2⟩,
  ⟨0x1120, 0x1120, 1, 1, .u8, .wo, 0, .span 1 5⟩,
  ⟨0x1120, 0x1120, 2, 2, .bool, .rwc, 0, .span 0 1⟩]

/-- The objects of chapter 2. -/
def objRows2 : List ObjRow := [
  ⟨0x2000, 0x2000, 0, 0, .u8, .const, 9, .span 9 9⟩,
  ⟨0x2000, 0x2000, 1, 1, .u16, .rwc, 0x3E8, .span 0x64 0x2710⟩,
  ⟨0x2000, 0x2000, 2, 2, .u8, .rwc, 0, .span 0 3⟩,
  ⟨0x2000, 0x2000, 3, 3, .u32, .rwc, 0, .span 0 9999999⟩,
  ⟨0x2000, 0x2000, 4, 4, .u16, .rw, 0x7D0, .span 0x1F4 0xC350⟩,
  ⟨0x2000, 0x2000, 5, 5, .u16, .rwc, 0x64, .span 0xA 0xC8⟩,
  ⟨0x2000, 0x2000, 6, 6, .u32, .rwc, 0xC350, .span 0x3E8 0x4C4B40⟩,
  ⟨0x2000, 0x2000, 7, 7, .u32, .rwc, 0x2710, .span 1 0x989680⟩,
  ⟨0x2000, 0x2000, 8, 8, .u32, .rwc, 0x3E8, .span 0x64 0x186A0⟩,
  ⟨0x2000, 0x2000, 9, 9, .u8, .rw, 0, .mask 3⟩,
  ⟨0x2001, 0x2001, 0, 0, .u8, .const, 3, .span 3 3⟩,
  ⟨0x2001, 0x2001, 1, 1, .u64, .ro, 0, .any⟩,
  ⟨0x2001, 0x2001, 2, 2, .u32, .ro, 0, .any⟩,
  ⟨0x2001, 0x2001, 3, 3, .i64, .ro, 0, .any⟩,
  ⟨0x2100, 0x2100, 0, 0, .u8, .const, 0x40, .span 0x40 0x40⟩,
  ⟨0x2100, 0x2100, 1, 0x40, .u64, .rw, 0, .any⟩,
  ⟨0x2200, 0x2200, 0, 0, .u8, .const, 0x40, .span 0x40 0x40⟩,
  ⟨0x2200, 0x2200, 1, 0x40, .u32, .rw, 0, .span 0 99999⟩,
  ⟨0x2300, 0x2300, 0, 0, .u8, .const, 9, .span 9 9⟩,
  ⟨0x2300, 0x2300, 1, 9, .u32, .rw, 0x640000, .any⟩,
  ⟨0x2301, 0x2301, 0, 0, .u8, .const, 9, .span 9 9⟩,
  ⟨0x2301, 0x2301, 1, 9, .u64, .rw, 0, .mask 0xFFFFFFFFFFFF⟩,
  ⟨0x2302, 0x2302, 0, 0, .u8, .const, 9, .span 9 9⟩,
  ⟨0x2302, 0x2302, 1, 9, .u16, .rw, 0, .span 1 0x7FF⟩]

/-- The objects of chapter 3. -/
def objRows3 : List ObjRow := [
  ⟨0x1130, 0x1130, 0, 0, .u8, .const, 0xC, .span 0xC 0xC⟩,
  ⟨0x1130, 0x1130, 1, 0xC, .bool, .wo, 0, .span 1 1⟩,
  ⟨0x1131, 0x1131, 0, 0, .u8, .const, 2, .span 2 2⟩,
  ⟨0x1131, 0x1131, 1, 1, .u16, .rwc, 0, .mask 0xFFF⟩,
  ⟨0x1131, 0x1131, 2, 2, .u8, .rwc, 3, .span 0 0xFF⟩,
  ⟨0x3800, 0x380B, 0, 0, .u8, .const, 0x23, .span 0x23 0x23⟩,
  ⟨0x3800, 0x380B, 1, 0x10, .u16, .rw, 0xFFFF, .span 1 0xFFFF⟩,
  ⟨0x3800, 0x380B, 0x11, 0x11, .u16, .rw, 0, .any⟩,
  ⟨0x3800, 0x380B, 0x12, 0x21, .u16, .rw, 0, .any⟩,
  ⟨0x3800, 0x380B, 0x22, 0x22, .u8, .rwc, 8, .span 1 0x40⟩,
  ⟨0x3800, 0x380B, 0x23, 0x23, .u16, .rwc, 0x3E8, .span 1 0xFFFF⟩,
  ⟨0x7200, 0x720B, 0, 0, .u8, .const, 8, .span 8 8⟩,
  ⟨0x7200, 0x720B, 1, 8, .u16, .ro, 0, .any⟩]

/-- The objects of chapter 4. -/
def objRows4 : List ObjRow := [
  ⟨0x3600, 0x363F, 0, 0, .u8, .const, 0xC3, .span 0xC3 0xC3⟩,
  ⟨0x3600, 0x363F, 1, 0xC0, .u64, .rw, 0, .any⟩,
  ⟨0x3600, 0x363F, 0xC1, 0xC1, .u32, .rw, 0, .mask 0x3F⟩,
  ⟨0x3600, 0x363F, 0xC2, 0xC2, .u32, .rw, 0, .mask 3⟩,
  ⟨0x3600, 0x363F, 0xC3, 0xC3, .u32, .rw, 0, .mask 0x803F⟩,
  ⟨0x7210, 0x7210, 0, 0, .u8, .const, 2, .span 2 2⟩,
  ⟨0x7210, 0x7210, 1, 1, .u32, .ro, 0, .any⟩,
  ⟨0x7210, 0x7210, 2, 2, .u16, .ro, 0, .any⟩]

/-- The objects of chapter 5. -/
def objRows5 : List ObjRow := [
  ⟨0x3A00, 0x3A3F, 0, 0, .u8, .const, 0x14, .span 0x14 0x14⟩,
  ⟨0x3A00, 0x3A3F, 1, 1, .u16, .rw, 0, .span 0 0xF424⟩,
  ⟨0x3A00, 0x3A3F, 2, 2, .u8, .rw, 0, .qsizes⟩,
  ⟨0x3A00, 0x3A3F, 3, 0x14, .u64, .rw, 0, .any⟩,
  ⟨0x7220, 0x722B, 0, 0, .u8, .const, 3, .span 3 3⟩,
  ⟨0x7220, 0x722B, 1, 1, .u32, .ro, 0xF, .any⟩,
  ⟨0x7220, 0x722B, 2, 2, .u32, .ro, 0, .any⟩,
  ⟨0x7220, 0x722B, 3, 3, .u64, .ro, 0, .any⟩]

/-- The objects of chapter 6. -/
def objRows6 : List ObjRow := [
  ⟨0x5300, 0x5300, 0, 0, .u8, .const, 9, .span 9 9⟩,
  ⟨0x5300, 0x5300, 1, 8, .u64, .rwc, 0, .aligned 4096⟩,
  ⟨0x5300, 0x5300, 9, 9, .u8, .rwc, 0, .spanOr 10 19 0⟩,
  ⟨0x7230, 0x7230, 0, 0, .u8, .const, 9, .span 9 9⟩,
  ⟨0x7230, 0x7230, 1, 8, .u32, .ro, 0, .any⟩,
  ⟨0x7230, 0x7230, 9, 9, .u32, .ro, 0, .any⟩]

/-- The objects of chapter 7. -/
def objRows7 : List ObjRow := [
  ⟨0x2500, 0x253F, 0, 0, .u8, .const, 0xC, .span 0xC 0xC⟩,
  ⟨0x2500, 0x253F, 1, 0xC, .u16, .rw, 0, .span 0 0x378⟩,
  ⟨0x7240, 0x7240, 0, 0, .u8, .const, 0xE, .span 0xE 0xE⟩,
  ⟨0x7240, 0x7240, 1, 0xC, .u32, .ro, 0, .any⟩,
  ⟨0x7240, 0x7240, 0xD, 0xD, .u32, .ro, 0, .any⟩,
  ⟨0x7240, 0x7240, 0xE, 0xE, .u8, .ro, 0, .span 0 0x70⟩,
  ⟨0x7241, 0x7241, 0, 0, .u8, .const, 0xC, .span 0xC 0xC⟩,
  ⟨0x7241, 0x7241, 1, 0xC, .u32, .ro, 0, .any⟩]

/-- The objects of chapter 8. -/
def objRows8 : List ObjRow := [
  ⟨0x5000, 0x5000, 0, 0, .u8, .const, 4, .span 4 4⟩,
  ⟨0x5000, 0x5000, 1, 1, .u16, .rwc, 0, .span 0 0x800⟩,
  ⟨0x5000, 0x5000, 2, 2, .u16, .rwc, 0, .span 0 0x3800⟩,
  ⟨0x5000, 0x5000, 3, 3, .bool, .rw, 1, .span 0 1⟩,
  ⟨0x5000, 0x5000, 4, 4, .u8, .rwc, 0, .spanOr 7 16 0⟩,
  ⟨0x5001, 0x5001, 1, 8, .u64, .rwc, 0, .aligned 4096⟩,
  ⟨0x5010, 0x504F, 0, 0, .u8, .const, 4, .span 4 4⟩,
  ⟨0x5010, 0x504F, 1, 1, .u64, .rw, 0, .any⟩,
  ⟨0x5010, 0x504F, 2, 4, .u64, .rwc, 0, .any⟩,
  ⟨0x5100, 0x513F, 0, 0, .u8, .const, 8, .span 8 8⟩,
  ⟨0x5100, 0x513F, 1, 8, .u16, .rw, 0, .span 0 0x360⟩,
  ⟨0x5200, 0x5200, 0, 0, .u8, .const, 2, .span 2 2⟩,
  ⟨0x5200, 0x5200, 1, 1, .bool, .rw, 1, .span 0 1⟩,
  ⟨0x5200, 0x5200, 2, 2, .u16, .rw, 4, .span 1 0x1000⟩,
  ⟨0x5400, 0x5400, 0, 0, .u8, .const, 0xFE, .span 0xFE 0xFE⟩,
  ⟨0x5400, 0x5400, 1, 0xFE, .u64, .rw, 0, .any⟩,
  ⟨0x5401, 0x5401, 0, 0, .u8, .const, 0x10, .span 0x10 0x10⟩,
  ⟨0x5401, 0x5401, 1, 0x10, .u32, .rw, 0, .any⟩,
  ⟨0x7250, 0x7250, 0, 0, .u8, .const, 8, .span 8 8⟩,
  ⟨0x7250, 0x7250, 1, 8, .u32, .ro, 0, .any⟩,
  ⟨0x7251, 0x7251, 0, 0, .u8, .const, 8, .span 8 8⟩,
  ⟨0x7251, 0x7251, 1, 8, .u32, .ro, 0, .any⟩]

/-- The objects of chapter 9. -/
def objRows9 : List ObjRow := [
  ⟨0x3000, 0x303F, 0, 0, .u8, .const, 0xB, .span 0xB 0xB⟩,
  ⟨0x3000, 0x303F, 1, 1, .u8, .rw, 0, .span 0 3⟩,
  ⟨0x3000, 0x303F, 2, 2, .u8, .rw, 0, .mask 0xF⟩,
  ⟨0x3000, 0x303F, 3, 5, .u32, .rw, 0, .sailField⟩,
  ⟨0x3000, 0x303F, 6, 6, .u8, .rw, 0, .span 0 7⟩,
  ⟨0x3000, 0x303F, 7, 7, .u16, .rw, 0, .mask 0xFFFF⟩,
  ⟨0x3000, 0x303F, 8, 8, .u8, .rw, 3, .span 1 0xFF⟩,
  ⟨0x3000, 0x303F, 9, 9, .u8, .rw, 2, .span 1 0xFF⟩,
  ⟨0x3000, 0x303F, 0xA, 0xA, .u64, .rw, 0, .aligned 4096⟩,
  ⟨0x3000, 0x303F, 0xB, 0xB, .u8, .ro, 0, .span 0 0⟩,
  ⟨0x3100, 0x313F, 0, 0, .u8, .const, 0x10, .span 0x10 0x10⟩,
  ⟨0x3100, 0x313F, 1, 1, .u64, .rw, 0, .any⟩,
  ⟨0x3100, 0x313F, 2, 2, .u8, .rw, 0, .span 0 1⟩,
  ⟨0x3100, 0x313F, 3, 4, .u64, .rw, 0, .any⟩,
  ⟨0x3100, 0x313F, 5, 7, .u64, .rw, 0, .any⟩,
  ⟨0x3100, 0x313F, 8, 9, .u64, .rw, 0, .any⟩,
  ⟨0x3100, 0x313F, 0xA, 0xC, .u64, .rw, 0, .any⟩,
  ⟨0x3100, 0x313F, 0xD, 0x10, .u64, .rw, 0, .any⟩,
  ⟨0x3200, 0x343F, 0, 0, .u8, .const, 0x20, .span 0x20 0x20⟩,
  ⟨0x3200, 0x343F, 1, 0x20, .u64, .rw, 0, .aligned 4096⟩,
  ⟨0x3480, 0x34BF, 0, 0, .u8, .const, 0xC, .span 0xC 0xC⟩,
  ⟨0x3480, 0x34BF, 1, 0xC, .u64, .rw, 0, .aligned 4096⟩,
  ⟨0x3500, 0x3500, 0, 0, .u8, .const, 0x10, .span 0x10 0x10⟩,
  ⟨0x3500, 0x3500, 1, 0x10, .u32, .rw, 0, .sailField⟩,
  ⟨0x3501, 0x3501, 0, 0, .u8, .const, 3, .span 3 3⟩,
  ⟨0x3501, 0x3501, 1, 1, .u8, .rw, 0x40, .span 8 0x60⟩,
  ⟨0x3501, 0x3501, 2, 2, .u8, .wo, 0, .span 0 0x3F⟩,
  ⟨0x3501, 0x3501, 3, 3, .u8, .wo, 0, .span 0 0x3F⟩,
  ⟨0x7260, 0x7260, 1, 0x40, .u64, .ro, 0, .any⟩,
  ⟨0x7261, 0x7261, 1, 0x40, .u64, .ro, 0, .any⟩,
  ⟨0x7262, 0x7262, 1, 0x40, .u32, .ro, 0xFFF, .any⟩,
  ⟨0x7260, 0x7260, 0, 0, .u8, .const, 0x40, .any⟩,
  ⟨0x7261, 0x7261, 0, 0, .u8, .const, 0x40, .any⟩,
  ⟨0x7262, 0x7262, 0, 0, .u8, .const, 0x40, .any⟩]

/-- The objects of chapter 10. -/
def objRows10 : List ObjRow := [
  ⟨0x4000, 0x4005, 0, 0, .u8, .const, 8, .span 8 8⟩,
  ⟨0x4000, 0x4005, 1, 1, .u8, .rwc, 0, .span 0 2⟩,
  ⟨0x4000, 0x4005, 2, 2, .bool, .rw, 1, .span 0 1⟩,
  ⟨0x4000, 0x4003, 3, 3, .bool, .rwc, 0, .span 0 0⟩,
  ⟨0x4004, 0x4005, 3, 3, .bool, .rwc, 0, .span 0 1⟩,
  ⟨0x4000, 0x4005, 4, 4, .u8, .rw, 2, .span 1 4⟩,
  ⟨0x4000, 0x4005, 5, 5, .bool, .rw, 0, .span 0 1⟩,
  ⟨0x4000, 0x4005, 6, 6, .u8, .rw, 3, .span 1 0xF⟩,
  ⟨0x4000, 0x4005, 7, 7, .u8, .rw, 1, .span 1 0xF⟩,
  ⟨0x4000, 0x4005, 8, 8, .u16, .rw, 0x40, .span 0x21 0x200⟩,
  ⟨0x4010, 0x4015, 0, 0, .u8, .const, 0x40, .span 0x40 0x40⟩,
  ⟨0x4010, 0x4015, 1, 0x40, .u64, .rw, 0, .any⟩,
  ⟨0x4020, 0x4020, 0, 0, .u8, .const, 2, .span 2 2⟩,
  ⟨0x4020, 0x4020, 1, 1, .u16, .rwc, 0, .span 0 0xFFF⟩,
  ⟨0x4020, 0x4020, 2, 2, .u16, .rwc, 0x88B5, .any⟩,
  ⟨0x4400, 0x441F, 0, 0, .u8, .const, 0x80, .span 0x80 0x80⟩,
  ⟨0x4400, 0x441F, 1, 0x80, .u64, .rw, 0, .any⟩,
  ⟨0x7280, 0x7285, 0, 0, .u8, .const, 2, .span 2 2⟩,
  ⟨0x7280, 0x7285, 1, 1, .u32, .ro, 0, .any⟩,
  ⟨0x7280, 0x7285, 2, 2, .u32, .ro, 0, .any⟩,
  ⟨0x7290, 0x7295, 0, 0, .u8, .const, 0x10, .span 0x10 0x10⟩,
  ⟨0x7290, 0x7295, 1, 0x10, .u32, .ro, 0, .any⟩]

/-- The objects of chapter 11. -/
def objRows11 : List ObjRow := [
  ⟨0x4800, 0x4800, 0, 0, .u8, .const, 8, .span 8 8⟩,
  ⟨0x4800, 0x4800, 1, 1, .u64, .rwc, 0, .aligned 0x8000000⟩,
  ⟨0x4800, 0x4800, 2, 7, .u8, .rw, 0, .span 0 1⟩,
  ⟨0x4800, 0x4800, 8, 8, .u8, .rw, 0xFF, .spanOr 0 63 0xFF⟩,
  ⟨0x4820, 0x4820, 0, 0, .u8, .const, 1, .span 1 1⟩,
  ⟨0x4820, 0x4820, 1, 1, .domain, .rw, 0, .recs 72 16384⟩,
  ⟨0x4A00, 0x4AFF, 0, 0, .u8, .const, 4, .span 4 4⟩,
  ⟨0x4A00, 0x4AFF, 1, 1, .u16, .rw, 0, .any⟩,
  ⟨0x4A00, 0x4AFF, 2, 2, .u16, .rw, 0, .span 0 0x400⟩,
  ⟨0x4A00, 0x4AFF, 3, 3, .u64, .rw, 0, .aligned 4096⟩,
  ⟨0x4A00, 0x4AFF, 4, 4, .u64, .rw, 0xFFFFFFFFFFFF, .mask 0xFFFFFFFFFFFF⟩,
  ⟨0x4B00, 0x4B00, 0, 0, .u8, .const, 3, .span 3 3⟩,
  ⟨0x4B00, 0x4B00, 1, 1, .u64, .rw, 0, .mask 0xFFFFFFFFFFFF⟩,
  ⟨0x4B00, 0x4B00, 2, 2, .u8, .rwc, 4, .span 1 0x20⟩,
  ⟨0x4B00, 0x4B00, 3, 3, .u16, .rwc, 0x3E8, .span 1 0xFFFF⟩,
  ⟨0x72B0, 0x72B1, 1, 0x80, .u64, .ro, 0, .any⟩,
  ⟨0x72B2, 0x72B2, 1, 1, .u32, .ro, 0, .any⟩,
  ⟨0x72B2, 0x72B2, 2, 2, .u64, .ro, 0, .any⟩,
  ⟨0x9000, 0x9000, 1, 1, .bool, .rw, 1, .span 0 1⟩,
  ⟨0x9000, 0x9000, 2, 2, .domain, .rw, 0, .recs 16 4096⟩,
  ⟨0x9000, 0x9000, 3, 3, .domain, .rw, 0, .recs 8 2048⟩,
  ⟨0x9000, 0x9000, 4, 4, .u32, .rw, 0xF4240, .span 0x3E8 0x3D0900⟩,
  ⟨0x9100, 0x9100, 1, 1, .u8, .rwc, 0, .span 0 2⟩,
  ⟨0x9100, 0x9100, 2, 2, .u8, .rwc, 0, .span 0 5⟩,
  ⟨0x9100, 0x9100, 3, 3, .i8, .rw, 0xFD, .signed (-5) 0⟩,
  ⟨0x9100, 0x9100, 4, 4, .u8, .rw, 0, .mask 0x3F⟩,
  ⟨0x9100, 0x9100, 5, 5, .u8, .rw, 3, .span 2 0x10⟩,
  ⟨0x9100, 0x9100, 6, 6, .i64, .ro, 0, .any⟩,
  ⟨0x9200, 0x9200, 1, 1, .bool, .rw, 0, .span 0 1⟩,
  ⟨0x9200, 0x9200, 2, 2, .u16, .rwc, 0x1000, .span 1 0xDFFF⟩,
  ⟨0x9200, 0x9200, 3, 3, .u8, .rw, 2, .span 1 4⟩,
  ⟨0x9200, 0x9200, 4, 4, .vstr, .rwc, 0, .len 17⟩,
  ⟨0x9200, 0x9200, 5, 5, .ostr, .const, 0, .len 6⟩,
  ⟨0x9200, 0x9200, 6, 6, .u32, .rwc, 0, .any⟩,
  ⟨0x9000, 0x9000, 0, 0, .u8, .const, 4, .any⟩,
  ⟨0x9100, 0x9100, 0, 0, .u8, .const, 6, .any⟩,
  ⟨0x9200, 0x9200, 0, 0, .u8, .const, 6, .any⟩,
  ⟨0x72B0, 0x72B0, 0, 0, .u8, .const, 0x80, .any⟩,
  ⟨0x72B1, 0x72B1, 0, 0, .u8, .const, 0x80, .any⟩,
  ⟨0x72B2, 0x72B2, 0, 0, .u8, .const, 2, .any⟩]

/-- The objects of chapter 12. -/
def objRows12 : List ObjRow := [
  ⟨0x4100, 0x4100, 0, 0, .u8, .const, 8, .span 8 8⟩,
  ⟨0x4100, 0x4100, 1, 4, .u64, .rw, 0, .any⟩,
  ⟨0x4100, 0x4100, 5, 5, .u8, .rw, 0x28, .span 0xA 0x2D⟩,
  ⟨0x4100, 0x4100, 6, 6, .u8, .rw, 0, .mask 0xF⟩,
  ⟨0x4100, 0x4100, 7, 7, .u32, .rw, 0, .any⟩,
  ⟨0x4100, 0x4100, 8, 8, .u8, .wo, 0, .mask 0xF⟩,
  ⟨0x4110, 0x4110, 0, 0, .u8, .const, 0x40, .span 0x40 0x40⟩,
  ⟨0x4110, 0x4110, 1, 0x40, .ostr, .rw, 0, .len 16⟩,
  ⟨0x72C0, 0x72C0, 0, 0, .u8, .const, 4, .span 4 4⟩,
  ⟨0x72C0, 0x72C0, 1, 4, .u32, .ro, 0, .any⟩,
  ⟨0x72C1, 0x72C1, 0, 0, .u8, .const, 4, .span 4 4⟩,
  ⟨0x72C1, 0x72C1, 1, 4, .u32, .ro, 0, .any⟩]

/-- The objects of chapter 13. -/
def objRows13 : List ObjRow := [
  ⟨0x1122, 0x1122, 0, 0, .u8, .const, 1, .span 1 1⟩,
  ⟨0x1122, 0x1122, 1, 1, .u8, .wo, 0, .span 1 1⟩,
  ⟨0x1400, 0x1400, 0, 0, .u8, .const, 0x4A, .span 0x4A 0x4A⟩,
  ⟨0x1400, 0x1400, 1, 0x4A, .u8, .rw, 0, .span 0 1⟩,
  ⟨0x1402, 0x1402, 0, 0, .u8, .const, 0x4A, .span 0x4A 0x4A⟩,
  ⟨0x1402, 0x1402, 1, 0x4A, .u64, .rw, 0, .mask 0xFFFFFFFFFFFF⟩,
  ⟨0x1403, 0x1403, 0, 0, .u8, .const, 0x4A, .span 0x4A 0x4A⟩,
  ⟨0x1403, 0x1403, 1, 0x4A, .u16, .rw, 0, .span 1 0x7FF⟩,
  ⟨0x1410, 0x1410, 0, 0, .u8, .const, 0x20, .span 0x20 0x20⟩,
  ⟨0x1410, 0x1410, 1, 0x20, .u32, .rwc, 0, .any⟩,
  ⟨0x8040, 0x8040, 0, 0, .u8, .const, 2, .span 2 2⟩,
  ⟨0x8040, 0x8040, 1, 1, .u64, .rwc, 0, .any⟩,
  ⟨0x8040, 0x8040, 2, 2, .bool, .rwc, 0, .span 0 1⟩,
  ⟨0x7010, 0x7010, 0, 0, .u8, .const, 4, .span 4 4⟩,
  ⟨0x7010, 0x7010, 1, 1, .u32, .ro, 0, .any⟩,
  ⟨0x7010, 0x7010, 2, 2, .u32, .ro, 0, .any⟩,
  ⟨0x7010, 0x7010, 3, 3, .u32, .ro, 0, .any⟩,
  ⟨0x7010, 0x7010, 4, 4, .u32, .ro, 0, .any⟩]

/-- The objects of chapter 14. -/
def objRows14 : List ObjRow := [
  ⟨0x1000, 0x1000, 0, 0, .u32, .const, 0, .any⟩,
  ⟨0x1017, 0x1017, 0, 0, .u16, .rw, 0x64, .spanOr 10 10000 0⟩,
  ⟨0x1018, 0x1018, 0, 0, .u8, .const, 4, .span 4 4⟩,
  ⟨0x1018, 0x1018, 1, 4, .u32, .const, 0, .any⟩,
  ⟨0x1030, 0x1030, 0, 0, .u8, .const, 5, .span 5 5⟩,
  ⟨0x1030, 0x1030, 1, 1, .u8, .rwc, 0, .span 0 0x7F⟩,
  ⟨0x1030, 0x1030, 2, 2, .u8, .rwc, 2, .span 1 3⟩,
  ⟨0x1030, 0x1030, 3, 3, .u8, .rwc, 2, .span 1 5⟩,
  ⟨0x1030, 0x1030, 4, 4, .u8, .rwc, 0, .span 0 1⟩,
  ⟨0x1030, 0x1030, 5, 5, .u8, .rwc, 3, .mask 3⟩,
  ⟨0x1040, 0x1040, 0, 0, .u8, .const, 0x11, .span 0x11 0x11⟩,
  ⟨0x1040, 0x1040, 1, 0x10, .u16, .rw, 0, .any⟩,
  ⟨0x1040, 0x1040, 0x11, 0x11, .bool, .rw, 1, .span 0 1⟩,
  ⟨0x1F00, 0x1F00, 0, 0, .u8, .const, 8, .span 8 8⟩,
  ⟨0x1F00, 0x1F00, 1, 1, .u8, .wo, 0, .span 1 4⟩,
  ⟨0x1F00, 0x1F00, 2, 2, .u64, .ro, 0, .any⟩,
  ⟨0x1F00, 0x1F00, 3, 3, .u32, .ro, 0, .any⟩,
  ⟨0x1F00, 0x1F00, 4, 4, .u32, .ro, 0, .any⟩,
  ⟨0x1F00, 0x1F00, 5, 5, .u64, .ro, 0, .any⟩,
  ⟨0x1F00, 0x1F00, 6, 6, .u8, .ro, 0, .any⟩,
  ⟨0x1F00, 0x1F00, 7, 7, .u32, .ro, 0, .any⟩,
  ⟨0x1F00, 0x1F00, 8, 8, .u8, .ro, 0, .any⟩,
  ⟨0x1F01, 0x1F01, 0, 0, .u8, .const, 3, .span 3 3⟩,
  ⟨0x1F01, 0x1F01, 1, 1, .domain, .wo, 0, .maxLen 0x400000⟩,
  ⟨0x1F01, 0x1F01, 2, 2, .domain, .ro, 0, .maxLen 0x400000⟩,
  ⟨0x1F01, 0x1F01, 3, 3, .domain, .ro, 0, .maxLen 0x400000⟩,
  ⟨0x1F02, 0x1F02, 0, 0, .u8, .const, 3, .span 3 3⟩,
  ⟨0x1F02, 0x1F02, 1, 1, .u8, .rwc, 0, .span 0 2⟩,
  ⟨0x1F02, 0x1F02, 2, 2, .u16, .rw, 0xA, .span 1 0xE10⟩,
  ⟨0x1F02, 0x1F02, 3, 3, .u8, .const, 0, .span 0 2⟩,
  ⟨0x6FF0, 0x6FF0, 0, 0, .u8, .const, 1, .span 1 1⟩,
  ⟨0x6FF0, 0x6FF0, 1, 1, .u16, .ro, 0, .any⟩]

/-- The objects of chapter 15. -/
def objRows15 : List ObjRow := [
  ⟨0x8000, 0x8000, 1, 0xA, .u8, .ro, 0, .any⟩,
  ⟨0x8001, 0x8001, 1, 1, .ostr, .wo, 0, .len 58⟩,
  ⟨0x8001, 0x8001, 2, 2, .u8, .wo, 0, .span 0 9⟩,
  ⟨0x8001, 0x8001, 3, 3, .u8, .wo, 0, .span 1 1⟩,
  ⟨0x8002, 0x8002, 1, 0xA, .ostr, .ro, 0, .len 57⟩,
  ⟨0x8026, 0x8026, 1, 1, .ostr, .ro, 0, .len 32⟩,
  ⟨0x8026, 0x8026, 2, 2, .ostr, .wo, 0, .len 114⟩,
  ⟨0x8026, 0x8026, 3, 3, .u8, .wo, 0, .span 1 1⟩,
  ⟨0x8030, 0x8030, 1, 1, .domain, .wo, 0, .maxLen 0xF00000⟩,
  ⟨0x8030, 0x8030, 2, 2, .u32, .ro, 0, .any⟩,
  ⟨0x8030, 0x8030, 3, 3, .u8, .wo, 0, .span 1 1⟩,
  ⟨0x8030, 0x8030, 4, 4, .bool, .rwc, 1, .span 0 1⟩,
  ⟨0x8030, 0x8030, 5, 5, .u8, .wo, 0, .span 1 1⟩,
  ⟨0x8030, 0x8030, 6, 6, .u8, .wo, 0, .span 1 1⟩,
  ⟨0x8030, 0x8030, 7, 7, .u8, .ro, 0, .span 0 0x40⟩,
  ⟨0x8050, 0x8050, 1, 1, .ostr, .ro, 0, .len 57⟩,
  ⟨0x8050, 0x8050, 2, 2, .domain, .ro, 0, .maxLen 4096⟩,
  ⟨0x8050, 0x8050, 3, 3, .domain, .ro, 0, .len 372⟩,
  ⟨0x8060, 0x8060, 1, 1, .ostr, .wo, 0, .len 32⟩,
  ⟨0x8060, 0x8060, 2, 2, .domain, .ro, 0, .len 724⟩,
  ⟨0x8062, 0x8062, 1, 2, .ostr, .wo, 0, .len 64⟩,
  ⟨0x8070, 0x8070, 1, 6, .ostr, .wo, 0, .len 32⟩,
  ⟨0x8070, 0x8070, 7, 7, .u32, .rw, 0x186A0, .span 1000 100000000⟩,
  ⟨0x8070, 0x8070, 8, 8, .u8, .wo, 0, .span 0 5⟩,
  ⟨0x8072, 0x8073, 1, 0x60, .ostr, .wo, 0, .len 48⟩,
  ⟨0x8080, 0x8080, 1, 0x40, .ostr, .rw, 0, .len 64⟩]

/-- The objects of chapter 16. -/
def objRows16 : List ObjRow := [
  ⟨0x2600, 0x2600, 0, 0, .u8, .const, 0xC, .span 0xC 0xC⟩,
  ⟨0x2600, 0x2600, 1, 0xC, .u32, .rw, 0x33, .opPlan⟩,
  ⟨0x2610, 0x2610, 0, 0, .u8, .const, 5, .span 5 5⟩,
  ⟨0x2610, 0x2610, 1, 1, .u16, .rw, 0, .powerLimit⟩,
  ⟨0x2610, 0x2610, 2, 2, .u8, .rw, 0x6E, .span 0x55 0x78⟩,
  ⟨0x2610, 0x2610, 3, 3, .u8, .rw, 0x7D, .span 0x64 0x7D⟩,
  ⟨0x2610, 0x2610, 4, 4, .u8, .rw, 0x10, .span 4 0xFF⟩,
  ⟨0x2610, 0x2610, 5, 5, .u8, .rw, 0, .span 0 1⟩,
  ⟨0x72D0, 0x72D0, 0, 0, .u8, .const, 0x15, .span 0x15 0x15⟩,
  ⟨0x72D0, 0x72D0, 1, 0x14, .u32, .ro, 0, .any⟩,
  ⟨0x72D0, 0x72D0, 0x15, 0x15, .u32, .ro, 0, .any⟩,
  ⟨0x72D1, 0x72D1, 0, 0, .u8, .const, 0x10, .span 0x10 0x10⟩,
  ⟨0x72D1, 0x72D1, 1, 0x10, .u32, .ro, 0, .any⟩,
  ⟨0x72D2, 0x72D2, 0, 0, .u8, .const, 0x41, .span 0x41 0x41⟩,
  ⟨0x72D2, 0x72D2, 1, 0x41, .u32, .ro, 0, .any⟩,
  ⟨0x72D3, 0x72D3, 0, 0, .u8, .const, 0x41, .span 0x41 0x41⟩,
  ⟨0x72D3, 0x72D3, 1, 0x41, .u64, .ro, 0, .any⟩]

/-- The objects of chapter 17. -/
def objRows17 : List ObjRow := [
  ⟨0x7000, 0x7000, 0, 0, .u8, .const, 3, .span 3 3⟩,
  ⟨0x7000, 0x7000, 1, 1, .u32, .ro, 0, .any⟩,
  ⟨0x7000, 0x7000, 2, 2, .u32, .ro, 0, .any⟩,
  ⟨0x7000, 0x7000, 3, 3, .u8, .ro, 0, .any⟩,
  ⟨0x7002, 0x7002, 0, 0, .u8, .const, 6, .span 6 6⟩,
  ⟨0x7002, 0x7002, 1, 6, .u32, .ro, 0, .any⟩,
  ⟨0x7003, 0x7003, 0, 0, .u8, .const, 3, .span 3 3⟩,
  ⟨0x7003, 0x7003, 1, 1, .u8, .rw, 8, .span 1 0xFF⟩,
  ⟨0x7003, 0x7003, 2, 2, .u32, .rw, 0x3E8, .span 0xA 0xF4240⟩,
  ⟨0x7003, 0x7003, 3, 3, .u16, .rw, 0x40, .span 0x10 0x400⟩,
  ⟨0x7400, 0x7407, 0, 0, .u8, .const, 0x80, .span 0x80 0x80⟩,
  ⟨0x7400, 0x7407, 1, 0x80, .ostr, .ro, 0, .len 32⟩,
  ⟨0x7410, 0x7410, 0, 0, .u8, .const, 0x10, .span 0x10 0x10⟩,
  ⟨0x7410, 0x7410, 1, 0x10, .ostr, .ro, 0, .len 32⟩]

/-- The calibration objects of R459: item n has m elements; three CONST values each in 0x6000 + n, delta and effective value each
in 0x6800 + n. -/
def calElements : List Nat := [20, 1, 72, 16, 12, 16]

/-- Every row of the object tables. -/
def objRows : List ObjRow :=
  objRows1 ++ objRows2 ++ objRows3 ++ objRows4 ++ objRows5 ++ objRows6 ++ objRows7 ++ objRows8 ++ objRows9 ++ objRows10 ++ objRows11 ++ objRows12 ++ objRows13 ++ objRows14 ++ objRows15 ++ objRows16 ++ objRows17

/-- The row of a calibration object (R459): the access of D is RW, of item 4 RWC. -/
def calRow (idx sub : Nat) : Option ObjRow :=
  let n := idx % 0x100
  let m := calElements.getD n 0
  if (idx / 0x100 = 0x60) && (n < 6) then
    if sub = 0 then some ⟨idx, idx, 0, 0, .u8, .const, 3 * m, .any⟩
    else if sub ≤ 3 * m then some ⟨idx, idx, sub, sub, .i32, .const, 0, .any⟩ else none
  else if (idx / 0x100 = 0x68) && (n < 6) then
    if sub = 0 then some ⟨idx, idx, 0, 0, .u8, .const, 2 * m, .any⟩
    else if sub ≤ 2 * m then
      some ⟨idx, idx, sub, sub, .i32, (if sub % 2 = 0 then .ro else if n = 4 then .rwc else .rw), 0, .any⟩
    else none
  else none

/-- The row that holds object idx:sub, if the spec defines it. -/
def objRow (idx sub : Nat) : Option ObjRow :=
  match objRows.find? (fun r => r.i0 ≤ idx && idx ≤ r.i1 && r.s0 ≤ sub && sub ≤ r.s1) with
  | some r => some r
  | none => calRow idx sub

/-- The width in bytes of a number type; none for byte strings. -/
def OTy.size : OTy → Option Nat
  | .bool => some 1 | .u8 => some 1 | .i8 => some 1 | .u16 => some 2 | .u32 => some 4 | .i32 => some 4
  | .u64 => some 8 | .i64 => some 8 | .ostr => none | .vstr => none | .domain => none

/-- A configuration object (R439): RW or RWC. -/
def OAcc.isConfig : OAcc → Bool
  | .rw => true | .rwc => true | .const => false | .ro => false | .wo => false


end Sys2Proof.Machine
end

