-- ==== Sys2Proof/Machine/RegTable.lean ====
section
/-! DEFINITION. The register map of the block: every register of the chapters' register tables (address, index strides, width,
reset value, fields with their access types under R11), and the fields by name. -/

namespace Sys2Proof.Machine

/-- The access types of R11 (RSV bits are those no field covers). -/
inductive FTy where | ro | rw | w1c | w1s | wo | rwl
deriving DecidableEq, Repr

/-- Who may write a register: any master, the governor alone ("governor only"), or the masters of R394 ("manager"). -/
inductive Wr where | any | gov | mgr
deriving DecidableEq, Repr

/-- One field: lowest bit, highest bit, access type. -/
structure FieldDesc where
  lo : Nat
  hi : Nat
  ty : FTy
deriving DecidableEq, Repr

/-- One register row: the address of element (0,0,0), three strides with their counts, width in bits, reset, writers, fields. -/
structure RegDesc where
  base : Nat
  d1 : Nat × Nat
  d2 : Nat × Nat
  d3 : Nat × Nat
  width : Nat
  reset : Nat
  wr : Wr
  fields : List FieldDesc
deriving DecidableEq, Repr

/-- The registers of the block, by the spec's names (index suffixes dropped). -/
inductive Reg where
  | GOV_DEVSTATE | GOV_CAP | GOV_SAILSTAT | TRN_SLOT | TRN_CFG | TRN_PERIOD
  | TRN_STATUS | TRN_ALIGN | TRN_NUM | TRN_PHASE | TRN_OFFSET | TRN_RATE
  | TRN_MISSED | TRN_RELOFF | EVT_CFG | EVT_STAT | EVT_MSI | EVT_MSID
  | EVT_SNAPCNT | EVT_SNAPTS | L3_WAYMASK | L3_WAYLOCK | L3_LOCKOWN | L3_WAYDIS
  | L3_ERRCFG | L3_CFGSTAT | L3_MNT_BASE | L3_MNT_LIMIT | L3_MNT_CTL | L3_MNT_STATUS
  | L3_MNT_COUNT | L3_MNT_LOCKMISS | L3_MNT_MSI | L3_MNT_MSID | SAIL_ID | SAIL_OP
  | SAIL_COREDIS | SAIL_ERRSTAT | CLU_STAT | CLU_MTIMECMP | PMU_CTL | PMU_EVSEL
  | PMU_CNT | PMU_SNAP | IOT_CAPABILITIES | IOT_XSTAT | MST_CAP | MST_STATUS
  | MST_PDB | MST_PQPTR | MST_PQSTAT | MST_PCTL | MST_BCFG | MST_BBUDGET
  | MST_BUSED | MST_BPREV | MST_BQBASE | MST_BWIN | MST_BSTAT | HOM_CFG
  | HOM_STATUS | HOM_RETRY | HOM_TIMEOUT | HOM_TC3MAX | HOM_LOSSBASE | HOM_LOSSCFG
  | HOM_LOSSCNT | HOM_LOSSRD | HOM_SFSTAT | HOM_SFERR | MRC_EPOCH | MRC_SWAP
  | MRC_DRAIN | MRC_HALF | MRC_ERRCNT | MRC_TC3LOAD | MRC_RTBL | FLM_STATUS
  | FLM_CAPWORD | FLM_LINK | FLM_REPLAY | FLM_TC3DEM | FLM_MIDERR | FLM_CTL
  | FLM_TC3RATE | MC_CFG | MC_LAYOUT | MC_STATUS | MC_ECCCNT | MC_MIRCNT
  | MC_ELOGBASE | MC_ELOGCFG | MC_ELOGCNT | MC_ELOGRD | DRS_CTL | DRS_STATUS
  | DRS_POS | DRS_LASTPASS | MC_RSV | MC_RSVOVER | MC_RD | BLT_STATUS
  | BLT_CFG | BLT_COPY | BLT_PABANDON | BLT_PSEALTURN | BLT_DIGSEL | BLT_DIGTURN
  | BLT_DIG | BLT_PSTAT | BLT_PCNT | BLT_PPLACE | LVP_CFG | LVP_STATUS
  | LVP_TXCUM | LVP_TXFREED | LVP_PCRED | LVP_LINK | LVP_ERRSTAT | LVP_KEYSTAT
  | LVP_TXPN | LVP_CNT | LVP_SLOT | LVP_EPT | SLC_CFG | SLC_FTBASE
  | SLC_IDB | SLC_FCSTAT | SLC_MCMD | SLC_MSTAT | SLC_MRES | SLC_MDATA
  | SLC_ISTAT | HOP_LOCK | HOP_DIS | HOP_ERRCFG | HOP_MNT_CTL | HOP_MNT_STATUS
  | HOP_EMASK | PCI_CFG | PCI_SSTAT | PCI_SCTL | PCI_SERR | PCI_CTO
  | PCI_OBOFF | PCI_IWCTL | PCI_IWSTAT | PCI_IWS0 | PCI_IWS1 | PCI_IWA
  | PCI_HINT | GOV_STATUS | GOV_HOLDREQ | GOV_FLOGIDX | GOV_MIRAGE | GOV_STICKY
  | MBX_AGENT | MBX_LOCK | MBX_LOCKPEEK | MBX_LOCKFRC | MBX_ERR | MBX_ERRADDR
  | MBX_BIND | GOV_MEAS | DBG_AUTHCTL | DBG_AUTHSTAT | DBG_CHAL | DBG_RESP
  | PWR_STATUS | PWR_PLAN | PWR_TEMP | PWR_PKGE | PWR_RAILE | PWR_PEN
  | PWR_PCUM | PWR_THRCNT | PWR_WAKECNT | GOV_HOLDCAUSE | GOV_FOUTCTL | IOT_FCTL
  | IOT_DDTP | IOT_CQB | IOT_CQH | IOT_CQT | IOT_FQB | IOT_FQH
  | IOT_FQT | IOT_CQCSR | IOT_FQCSR | IOT_IPSR | IOT_IOCOUNTOVF | IOT_IOCOUNTINH
  | IOT_IOHPMCYCLES | IOT_ICVEC | IOT_TR_REQ_IOVA | IOT_TR_REQ_CTL | IOT_TR_RESPONSE | IOT_IOHPMCTR
  | IOT_IOHPMEVT | IOT_MSI_ADDR | IOT_MSI_DATA | IOT_MSI_CTL
deriving DecidableEq, Repr

/-- The rows of the register tables. -/
def Reg.desc : Reg → RegDesc
  | .GOV_DEVSTATE => ⟨0xF000000100, (0, 1), (0, 1), (0, 1), 32, 1, .any,
      [⟨0, 3, .ro⟩, ⟨4, 4, .ro⟩, ⟨8, 11, .ro⟩, ⟨16, 19, .ro⟩, ⟨20, 23, .ro⟩]⟩
  | .GOV_CAP => ⟨0xF000000104, (0, 1), (0, 1), (0, 1), 32, 0x10101, .any,
      [⟨0, 7, .ro⟩, ⟨8, 15, .ro⟩, ⟨16, 23, .ro⟩]⟩
  | .GOV_SAILSTAT => ⟨0xF000000200, (4, 12), (0, 1), (0, 1), 32, 0, .any,
      [⟨0, 2, .ro⟩, ⟨3, 3, .ro⟩, ⟨4, 4, .ro⟩, ⟨5, 5, .ro⟩, ⟨8, 15, .ro⟩, ⟨16, 23, .ro⟩, ⟨24, 31, .ro⟩]⟩
  | .TRN_SLOT => ⟨0xF000011000, (8, 64), (0, 1), (0, 1), 64, 0, .any,
      [⟨0, 16, .ro⟩, ⟨24, 30, .ro⟩, ⟨31, 31, .ro⟩, ⟨32, 48, .ro⟩, ⟨56, 56, .ro⟩, ⟨57, 57, .ro⟩, ⟨58, 58, .ro⟩]⟩
  | .TRN_CFG => ⟨0xF000010000, (0, 1), (0, 1), (0, 1), 32, 0x7D00000, .any,
      [⟨0, 2, .ro⟩, ⟨3, 3, .ro⟩, ⟨4, 4, .ro⟩, ⟨16, 31, .ro⟩]⟩
  | .TRN_PERIOD => ⟨0xF000010004, (0, 1), (0, 1), (0, 1), 32, 0x3E8, .any,
      [⟨0, 13, .ro⟩]⟩
  | .TRN_STATUS => ⟨0xF000010008, (0, 1), (0, 1), (0, 1), 32, 0, .any,
      [⟨0, 0, .ro⟩, ⟨1, 1, .ro⟩, ⟨2, 2, .ro⟩, ⟨3, 3, .ro⟩, ⟨16, 31, .ro⟩]⟩
  | .TRN_ALIGN => ⟨0xF00001000C, (0, 1), (0, 1), (0, 1), 32, 0, .any,
      [⟨0, 23, .ro⟩]⟩
  | .TRN_NUM => ⟨0xF000010010, (0, 1), (0, 1), (0, 1), 64, 0, .any,
      [⟨0, 63, .ro⟩]⟩
  | .TRN_PHASE => ⟨0xF000010018, (0, 1), (0, 1), (0, 1), 32, 0, .any,
      [⟨0, 23, .ro⟩]⟩
  | .TRN_OFFSET => ⟨0xF000010020, (0, 1), (0, 1), (0, 1), 64, 0, .any,
      [⟨0, 63, .ro⟩]⟩
  | .TRN_RATE => ⟨0xF000010028, (0, 1), (0, 1), (0, 1), 32, 0, .any,
      [⟨0, 31, .ro⟩]⟩
  | .TRN_MISSED => ⟨0xF000010030, (0, 1), (0, 1), (0, 1), 64, 0, .any,
      [⟨0, 63, .w1c⟩]⟩
  | .TRN_RELOFF => ⟨0xF000010800, (4, 64), (0, 1), (0, 1), 32, 0, .any,
      [⟨0, 16, .ro⟩]⟩
  | .EVT_CFG => ⟨0xF000A00000, (0x20, 9), (0, 1), (0, 1), 32, 0x640000, .gov,
      [⟨0, 0, .rw⟩, ⟨1, 1, .rw⟩, ⟨2, 3, .rw⟩, ⟨4, 4, .rw⟩, ⟨5, 6, .rw⟩, ⟨8, 15, .rw⟩, ⟨16, 31, .rw⟩]⟩
  | .EVT_STAT => ⟨0xF000A00004, (0x20, 9), (0, 1), (0, 1), 32, 0, .any,
      [⟨0, 0, .ro⟩, ⟨1, 1, .w1c⟩, ⟨2, 2, .w1c⟩, ⟨3, 3, .ro⟩, ⟨8, 15, .ro⟩, ⟨16, 31, .ro⟩]⟩
  | .EVT_MSI => ⟨0xF000A00008, (0x20, 9), (0, 1), (0, 1), 64, 0, .gov,
      [⟨0, 47, .rw⟩]⟩
  | .EVT_MSID => ⟨0xF000A00010, (0x20, 9), (0, 1), (0, 1), 32, 0, .gov,
      [⟨0, 10, .rw⟩]⟩
  | .EVT_SNAPCNT => ⟨0xF000A00014, (0x20, 9), (0, 1), (0, 1), 32, 0, .any,
      [⟨0, 15, .ro⟩]⟩
  | .EVT_SNAPTS => ⟨0xF000A00018, (0x20, 9), (0, 1), (0, 1), 32, 0, .any,
      [⟨0, 23, .ro⟩, ⟨31, 31, .ro⟩]⟩
  | .L3_WAYMASK => ⟨0xE000010000, (0x1000000, 12), (4, 16), (0, 1), 32, 0xFFFF, .gov,
      [⟨0, 15, .rw⟩]⟩
  | .L3_WAYLOCK => ⟨0xE000010040, (0x1000000, 12), (0, 1), (0, 1), 32, 0, .gov,
      [⟨0, 15, .rw⟩]⟩
  | .L3_LOCKOWN => ⟨0xE000010080, (0x1000000, 12), (4, 16), (0, 1), 32, 0, .gov,
      [⟨0, 15, .rw⟩]⟩
  | .L3_WAYDIS => ⟨0xE0000100C0, (0x1000000, 12), (4, 8), (0, 1), 32, 0, .any,
      [⟨0, 15, .ro⟩, ⟨16, 18, .ro⟩]⟩
  | .L3_ERRCFG => ⟨0xE0000100E0, (0x1000000, 12), (0, 1), (0, 1), 32, 0x3E80008, .any,
      [⟨0, 6, .ro⟩, ⟨16, 31, .ro⟩]⟩
  | .L3_CFGSTAT => ⟨0xE0000100E4, (0x1000000, 12), (0, 1), (0, 1), 32, 0, .any,
      [⟨0, 0, .w1c⟩]⟩
  | .L3_MNT_BASE => ⟨0xE000010100, (0x1000000, 12), (0, 1), (0, 1), 64, 0, .any,
      [⟨6, 47, .rw⟩]⟩
  | .L3_MNT_LIMIT => ⟨0xE000010108, (0x1000000, 12), (0, 1), (0, 1), 64, 0, .any,
      [⟨6, 47, .rw⟩]⟩
  | .L3_MNT_CTL => ⟨0xE000010110, (0x1000000, 12), (0, 1), (0, 1), 32, 0, .any,
      [⟨0, 1, .rw⟩, ⟨4, 4, .wo⟩, ⟨5, 5, .rw⟩, ⟨8, 11, .rw⟩]⟩
  | .L3_MNT_STATUS => ⟨0xE000010114, (0x1000000, 12), (0, 1), (0, 1), 32, 0, .any,
      [⟨0, 0, .ro⟩, ⟨1, 1, .w1c⟩, ⟨2, 2, .w1c⟩, ⟨3, 3, .w1c⟩, ⟨4, 7, .ro⟩, ⟨16, 24, .ro⟩]⟩
  | .L3_MNT_COUNT => ⟨0xE000010118, (0x1000000, 12), (0, 1), (0, 1), 32, 0, .any,
      [⟨0, 31, .ro⟩]⟩
  | .L3_MNT_LOCKMISS => ⟨0xE00001011C, (0x1000000, 12), (0, 1), (0, 1), 32, 0, .any,
      [⟨0, 31, .ro⟩]⟩
  | .L3_MNT_MSI => ⟨0xE000010120, (0x1000000, 12), (0, 1), (0, 1), 64, 0, .any,
      [⟨0, 47, .rw⟩]⟩
  | .L3_MNT_MSID => ⟨0xE000010128, (0x1000000, 12), (0, 1), (0, 1), 32, 0, .any,
      [⟨0, 10, .rw⟩]⟩
  | .SAIL_ID => ⟨0xE000000000, (0x1000000, 12), (0, 1), (0, 1), 32, 0, .any,
      [⟨0, 3, .ro⟩, ⟨8, 15, .ro⟩, ⟨16, 23, .ro⟩]⟩
  | .SAIL_OP => ⟨0xE000000004, (0x1000000, 12), (0, 1), (0, 1), 32, 0x33, .any,
      [⟨0, 2, .ro⟩, ⟨4, 6, .ro⟩, ⟨8, 8, .ro⟩]⟩
  | .SAIL_COREDIS => ⟨0xE000000008, (0x1000000, 12), (0, 1), (0, 1), 32, 0, .any,
      [⟨0, 15, .ro⟩]⟩
  | .SAIL_ERRSTAT => ⟨0xE00000000C, (0x1000000, 12), (0, 1), (0, 1), 32, 0, .any,
      [⟨0, 0, .w1c⟩, ⟨1, 1, .w1c⟩, ⟨2, 2, .w1c⟩, ⟨3, 3, .w1c⟩, ⟨4, 4, .w1c⟩]⟩
  | .CLU_STAT => ⟨0xE000030000, (0x1000000, 12), (0x1000, 4), (0, 1), 32, 0, .any,
      [⟨0, 3, .ro⟩, ⟨4, 7, .ro⟩, ⟨8, 11, .ro⟩, ⟨12, 15, .ro⟩, ⟨16, 19, .ro⟩, ⟨24, 24, .ro⟩]⟩
  | .CLU_MTIMECMP => ⟨0xE000030100, (0x1000000, 12), (0x1000, 4), (8, 4), 64, 0xFFFFFFFFFFFFFFFF, .any,
      [⟨0, 63, .rw⟩]⟩
  | .PMU_CTL => ⟨0xE000040000, (0x1000000, 12), (0, 1), (0, 1), 32, 0, .any,
      [⟨0, 0, .rw⟩, ⟨1, 1, .rw⟩, ⟨2, 2, .rw⟩, ⟨8, 13, .rw⟩, ⟨14, 14, .rw⟩]⟩
  | .PMU_EVSEL => ⟨0xE000040010, (0x1000000, 12), (4, 8), (0, 1), 32, 0, .any,
      [⟨0, 7, .rw⟩]⟩
  | .PMU_CNT => ⟨0xE000040100, (0x1000000, 12), (8, 8), (0, 1), 64, 0, .any,
      [⟨0, 63, .rw⟩]⟩
  | .PMU_SNAP => ⟨0xE000040200, (0x1000000, 12), (8, 8), (0, 1), 64, 0, .any,
      [⟨0, 63, .ro⟩]⟩
  | .IOT_CAPABILITIES => ⟨0xF000900000, (0, 1), (0, 1), (0, 1), 64, 0x30C0468610, .any,
      [⟨0, 7, .ro⟩, ⟨8, 8, .ro⟩, ⟨9, 9, .ro⟩, ⟨10, 10, .ro⟩, ⟨11, 14, .ro⟩, ⟨15, 15, .ro⟩, ⟨16, 16, .ro⟩, ⟨17, 17, .ro⟩, ⟨18, 18, .ro⟩, ⟨19, 21, .ro⟩, ⟨22, 22, .ro⟩, ⟨23, 23, .ro⟩, ⟨24, 26, .ro⟩, ⟨27, 27, .ro⟩, ⟨28, 29, .ro⟩, ⟨30, 30, .ro⟩, ⟨31, 31, .ro⟩, ⟨32, 37, .ro⟩, ⟨38, 63, .ro⟩]⟩
  | .IOT_XSTAT => ⟨0xF000901000, (0, 1), (0, 1), (0, 1), 32, 0, .any,
      [⟨0, 15, .ro⟩, ⟨16, 31, .ro⟩]⟩
  | .MST_CAP => ⟨0xE000020000, (0x1000000, 12), (0, 1), (0, 1), 32, 0x10080F, .any,
      [⟨0, 3, .ro⟩, ⟨8, 15, .ro⟩, ⟨16, 23, .ro⟩]⟩
  | .MST_STATUS => ⟨0xE000020004, (0x1000000, 12), (0, 1), (0, 1), 32, 0xF, .any,
      [⟨0, 3, .ro⟩, ⟨4, 4, .ro⟩]⟩
  | .MST_PDB => ⟨0xE000020010, (0x1000000, 12), (4, 2), (0, 1), 32, 0, .any,
      [⟨0, 12, .wo⟩]⟩
  | .MST_PQPTR => ⟨0xE000020020, (0x1000000, 12), (4, 2), (0, 1), 32, 0, .any,
      [⟨0, 15, .ro⟩, ⟨16, 31, .ro⟩]⟩
  | .MST_PQSTAT => ⟨0xE000020030, (0x1000000, 12), (4, 2), (0, 1), 32, 0, .any,
      [⟨0, 0, .ro⟩, ⟨1, 1, .w1c⟩, ⟨4, 7, .ro⟩]⟩
  | .MST_PCTL => ⟨0xE000020040, (0x1000000, 12), (4, 2), (0, 1), 32, 0, .any,
      [⟨0, 0, .wo⟩, ⟨1, 1, .wo⟩]⟩
  | .MST_BCFG => ⟨0xE000020100, (0x1000000, 12), (0x80, 16), (0, 1), 32, 0, .gov,
      [⟨0, 0, .rw⟩, ⟨8, 13, .rw⟩, ⟨14, 15, .rw⟩, ⟨16, 19, .rw⟩, ⟨20, 23, .rw⟩]⟩
  | .MST_BBUDGET => ⟨0xE000020104, (0x1000000, 12), (0x80, 16), (0, 1), 32, 0, .gov,
      [⟨0, 15, .rw⟩]⟩
  | .MST_BUSED => ⟨0xE000020108, (0x1000000, 12), (0x80, 16), (0, 1), 32, 0, .any,
      [⟨0, 31, .ro⟩]⟩
  | .MST_BPREV => ⟨0xE00002010C, (0x1000000, 12), (0x80, 16), (0, 1), 32, 0, .any,
      [⟨0, 31, .ro⟩]⟩
  | .MST_BQBASE => ⟨0xE000020110, (0x1000000, 12), (0x80, 16), (8, 2), 64, 0, .gov,
      [⟨6, 47, .rw⟩]⟩
  | .MST_BWIN => ⟨0xE000020120, (0x1000000, 12), (0x80, 16), (8, 4), 64, 0, .gov,
      [⟨0, 5, .rw⟩, ⟨6, 6, .rw⟩, ⟨7, 7, .rw⟩, ⟨12, 47, .rw⟩]⟩
  | .MST_BSTAT => ⟨0xE000020140, (0x1000000, 12), (0x80, 16), (0, 1), 32, 0, .any,
      [⟨0, 0, .w1c⟩, ⟨1, 1, .w1c⟩, ⟨2, 2, .w1c⟩]⟩
  | .HOM_CFG => ⟨0xF000100000, (0x10000, 8), (0, 1), (0, 1), 32, 0, .gov,
      [⟨0, 0, .rw⟩]⟩
  | .HOM_STATUS => ⟨0xF000100004, (0x10000, 8), (0, 1), (0, 1), 32, 0, .any,
      [⟨0, 0, .ro⟩, ⟨1, 1, .ro⟩, ⟨2, 2, .ro⟩, ⟨16, 31, .ro⟩]⟩
  | .HOM_RETRY => ⟨0xF000100008, (0x10000, 8), (0, 1), (0, 1), 32, 0, .any,
      [⟨0, 31, .ro⟩]⟩
  | .HOM_TIMEOUT => ⟨0xF00010000C, (0x10000, 8), (0, 1), (0, 1), 32, 0x32, .any,
      [⟨0, 15, .ro⟩, ⟨16, 31, .ro⟩]⟩
  | .HOM_TC3MAX => ⟨0xF000100010, (0x10000, 8), (0, 1), (0, 1), 32, 0, .any,
      [⟨0, 15, .ro⟩, ⟨16, 31, .ro⟩]⟩
  | .HOM_LOSSBASE => ⟨0xF000100020, (0x10000, 8), (0, 1), (0, 1), 64, 0, .gov,
      [⟨12, 47, .rw⟩]⟩
  | .HOM_LOSSCFG => ⟨0xF000100028, (0x10000, 8), (0, 1), (0, 1), 32, 0, .gov,
      [⟨0, 4, .rw⟩]⟩
  | .HOM_LOSSCNT => ⟨0xF00010002C, (0x10000, 8), (0, 1), (0, 1), 32, 0, .any,
      [⟨0, 19, .ro⟩, ⟨31, 31, .w1c⟩]⟩
  | .HOM_LOSSRD => ⟨0xF000100030, (0x10000, 8), (0, 1), (0, 1), 32, 0, .any,
      [⟨0, 19, .rw⟩]⟩
  | .HOM_SFSTAT => ⟨0xF000100100, (0x10000, 8), (0, 1), (0, 1), 32, 0, .any,
      [⟨0, 7, .ro⟩, ⟨16, 31, .ro⟩]⟩
  | .HOM_SFERR => ⟨0xF000100104, (0x10000, 8), (0, 1), (0, 1), 32, 0, .any,
      [⟨0, 15, .ro⟩, ⟨16, 18, .ro⟩]⟩
  | .MRC_EPOCH => ⟨0xF000300000, (0, 1), (0, 1), (0, 1), 32, 0, .any,
      [⟨0, 0, .ro⟩, ⟨1, 1, .ro⟩, ⟨2, 2, .ro⟩, ⟨3, 3, .w1c⟩, ⟨16, 31, .ro⟩]⟩
  | .MRC_SWAP => ⟨0xF000300004, (0, 1), (0, 1), (0, 1), 32, 0, .gov,
      [⟨0, 0, .wo⟩]⟩
  | .MRC_DRAIN => ⟨0xF000300008, (4, 2), (0, 1), (0, 1), 32, 0, .any,
      [⟨0, 15, .ro⟩]⟩
  | .MRC_HALF => ⟨0xF000300010, (4, 4), (0, 1), (0, 1), 32, 0, .any,
      [⟨0, 31, .ro⟩]⟩
  | .MRC_ERRCNT => ⟨0xF000300020, (0, 1), (0, 1), (0, 1), 32, 0, .any,
      [⟨0, 15, .ro⟩, ⟨16, 31, .ro⟩]⟩
  | .MRC_TC3LOAD => ⟨0xF000300024, (0, 1), (0, 1), (0, 1), 32, 0, .any,
      [⟨0, 15, .ro⟩, ⟨16, 22, .ro⟩]⟩
  | .MRC_RTBL => ⟨0xF000301000, (0x800, 2), (0x20, 64), (4, 8), 32, 0, .gov,
      [⟨0, 31, .rw⟩]⟩
  | .FLM_STATUS => ⟨0xF000310000, (0x1000, 12), (0, 1), (0, 1), 32, 0, .any,
      [⟨0, 0, .ro⟩, ⟨1, 1, .ro⟩, ⟨2, 2, .ro⟩, ⟨3, 5, .ro⟩, ⟨8, 15, .ro⟩, ⟨16, 23, .ro⟩]⟩
  | .FLM_CAPWORD => ⟨0xF000310004, (0x1000, 12), (0, 1), (0, 1), 32, 0, .any,
      [⟨0, 7, .ro⟩, ⟨8, 15, .ro⟩, ⟨16, 23, .ro⟩]⟩
  | .FLM_LINK => ⟨0xF000310010, (0x1000, 12), (8, 2), (0, 1), 32, 0, .any,
      [⟨0, 15, .ro⟩, ⟨16, 23, .ro⟩]⟩
  | .FLM_REPLAY => ⟨0xF000310014, (0x1000, 12), (8, 2), (0, 1), 32, 0, .any,
      [⟨0, 31, .ro⟩]⟩
  | .FLM_TC3DEM => ⟨0xF000310020, (0x1000, 12), (0, 1), (0, 1), 32, 0, .any,
      [⟨0, 31, .ro⟩]⟩
  | .FLM_MIDERR => ⟨0xF000310024, (0x1000, 12), (0, 1), (0, 1), 32, 0, .any,
      [⟨0, 15, .ro⟩, ⟨16, 24, .ro⟩]⟩
  | .FLM_CTL => ⟨0xF000310030, (0x1000, 12), (0, 1), (0, 1), 32, 0, .gov,
      [⟨0, 0, .wo⟩, ⟨1, 1, .wo⟩]⟩
  | .FLM_TC3RATE => ⟨0xF000310100, (0x1000, 12), (4, 64), (0, 1), 32, 0, .any,
      [⟨0, 9, .ro⟩]⟩
  | .MC_CFG => ⟨0xF000200000, (0x10000, 8), (0, 1), (0, 1), 32, 0, .any,
      [⟨0, 1, .ro⟩, ⟨2, 3, .ro⟩]⟩
  | .MC_LAYOUT => ⟨0xF000200004, (0x10000, 8), (0, 1), (0, 1), 32, 0, .any,
      [⟨0, 15, .ro⟩, ⟨16, 31, .ro⟩]⟩
  | .MC_STATUS => ⟨0xF000200008, (0x10000, 8), (0, 1), (0, 1), 32, 0, .any,
      [⟨0, 0, .ro⟩, ⟨1, 1, .ro⟩, ⟨2, 2, .ro⟩, ⟨3, 3, .ro⟩, ⟨4, 4, .ro⟩, ⟨16, 21, .ro⟩]⟩
  | .MC_ECCCNT => ⟨0xF000200010, (0x10000, 8), (0, 1), (0, 1), 32, 0, .any,
      [⟨0, 15, .ro⟩, ⟨16, 31, .ro⟩]⟩
  | .MC_MIRCNT => ⟨0xF000200014, (0x10000, 8), (0, 1), (0, 1), 32, 0, .any,
      [⟨0, 15, .ro⟩, ⟨16, 31, .ro⟩]⟩
  | .MC_ELOGBASE => ⟨0xF000200020, (0x10000, 8), (0, 1), (0, 1), 64, 0, .gov,
      [⟨12, 47, .rw⟩]⟩
  | .MC_ELOGCFG => ⟨0xF000200028, (0x10000, 8), (0, 1), (0, 1), 32, 0, .gov,
      [⟨0, 4, .rw⟩]⟩
  | .MC_ELOGCNT => ⟨0xF00020002C, (0x10000, 8), (0, 1), (0, 1), 32, 0, .any,
      [⟨0, 19, .ro⟩, ⟨31, 31, .w1c⟩]⟩
  | .MC_ELOGRD => ⟨0xF000200030, (0x10000, 8), (0, 1), (0, 1), 32, 0, .any,
      [⟨0, 19, .rw⟩]⟩
  | .DRS_CTL => ⟨0xF000200100, (0x10000, 8), (0, 1), (0, 1), 32, 0x40001, .any,
      [⟨0, 0, .ro⟩, ⟨16, 28, .ro⟩]⟩
  | .DRS_STATUS => ⟨0xF000200104, (0x10000, 8), (0, 1), (0, 1), 32, 0, .any,
      [⟨0, 0, .ro⟩, ⟨1, 1, .w1c⟩, ⟨16, 31, .ro⟩]⟩
  | .DRS_POS => ⟨0xF000200108, (0x10000, 8), (0, 1), (0, 1), 64, 0, .any,
      [⟨6, 34, .ro⟩]⟩
  | .DRS_LASTPASS => ⟨0xF000200110, (0x10000, 8), (0, 1), (0, 1), 32, 0, .any,
      [⟨0, 31, .ro⟩]⟩
  | .MC_RSV => ⟨0xF000200400, (0x10000, 8), (4, 64), (0, 1), 32, 0, .any,
      [⟨0, 9, .ro⟩]⟩
  | .MC_RSVOVER => ⟨0xF000200600, (0x10000, 8), (0, 1), (0, 1), 64, 0, .any,
      [⟨0, 63, .w1c⟩]⟩
  | .MC_RD => ⟨0xF000201000, (0x10000, 8), (0x20, 64), (8, 4), 64, 0, .any,
      [⟨0, 63, .ro⟩]⟩
  | .BLT_STATUS => ⟨0xF000020000, (0, 1), (0, 1), (0, 1), 32, 0, .any,
      [⟨0, 7, .ro⟩, ⟨8, 8, .ro⟩, ⟨9, 9, .ro⟩, ⟨10, 10, .ro⟩]⟩
  | .BLT_CFG => ⟨0xF000020004, (0, 1), (0, 1), (0, 1), 32, 0x40, .any,
      [⟨0, 7, .ro⟩]⟩
  | .BLT_COPY => ⟨0xF000020008, (0, 1), (0, 1), (0, 1), 64, 0, .any,
      [⟨0, 5, .ro⟩, ⟨6, 7, .ro⟩, ⟨8, 9, .ro⟩, ⟨10, 11, .ro⟩, ⟨12, 15, .ro⟩, ⟨16, 47, .ro⟩]⟩
  | .BLT_PABANDON => ⟨0xF000020010, (0, 1), (0, 1), (0, 1), 32, 0, .any,
      [⟨0, 0, .wo⟩]⟩
  | .BLT_PSEALTURN => ⟨0xF000020018, (0, 1), (0, 1), (0, 1), 64, 0, .any,
      [⟨0, 63, .ro⟩]⟩
  | .BLT_DIGSEL => ⟨0xF000020020, (0, 1), (0, 1), (0, 1), 32, 0, .any,
      [⟨0, 5, .rw⟩, ⟨6, 7, .rw⟩, ⟨8, 8, .ro⟩, ⟨9, 9, .ro⟩]⟩
  | .BLT_DIGTURN => ⟨0xF000020028, (0, 1), (0, 1), (0, 1), 64, 0, .any,
      [⟨0, 63, .ro⟩]⟩
  | .BLT_DIG => ⟨0xF000020040, (8, 4), (0, 1), (0, 1), 64, 0, .any,
      [⟨0, 63, .ro⟩]⟩
  | .BLT_PSTAT => ⟨0xF000021000, (8, 64), (0, 1), (0, 1), 64, 0, .any,
      [⟨0, 2, .ro⟩, ⟨4, 5, .ro⟩, ⟨6, 6, .ro⟩, ⟨7, 7, .ro⟩, ⟨8, 10, .ro⟩, ⟨16, 18, .ro⟩, ⟨19, 19, .ro⟩, ⟨20, 23, .ro⟩, ⟨24, 25, .ro⟩, ⟨32, 63, .ro⟩]⟩
  | .BLT_PCNT => ⟨0xF000021400, (8, 64), (0, 1), (0, 1), 64, 0, .any,
      [⟨0, 15, .ro⟩, ⟨16, 31, .ro⟩, ⟨32, 47, .ro⟩, ⟨48, 63, .ro⟩]⟩
  | .BLT_PPLACE => ⟨0xF000021800, (4, 64), (0, 1), (0, 1), 32, 0xFFF, .any,
      [⟨0, 3, .ro⟩, ⟨4, 7, .ro⟩, ⟨8, 11, .ro⟩]⟩
  | .LVP_CFG => ⟨0xF000400000, (0x10000, 6), (0, 1), (0, 1), 32, 0x401320, .any,
      [⟨0, 1, .ro⟩, ⟨2, 2, .ro⟩, ⟨3, 3, .ro⟩, ⟨4, 6, .ro⟩, ⟨7, 7, .ro⟩, ⟨8, 11, .ro⟩, ⟨12, 15, .ro⟩, ⟨16, 31, .ro⟩]⟩
  | .LVP_STATUS => ⟨0xF000400004, (0x10000, 6), (0, 1), (0, 1), 32, 0, .any,
      [⟨0, 2, .ro⟩, ⟨3, 3, .ro⟩, ⟨4, 5, .ro⟩, ⟨6, 6, .ro⟩, ⟨8, 11, .ro⟩, ⟨12, 15, .ro⟩, ⟨16, 27, .ro⟩, ⟨28, 28, .ro⟩]⟩
  | .LVP_TXCUM => ⟨0xF000400008, (0x10000, 6), (0, 1), (0, 1), 32, 0, .any,
      [⟨0, 23, .ro⟩]⟩
  | .LVP_TXFREED => ⟨0xF00040000C, (0x10000, 6), (0, 1), (0, 1), 32, 0, .any,
      [⟨0, 23, .ro⟩]⟩
  | .LVP_PCRED => ⟨0xF000400010, (0x10000, 6), (0, 1), (0, 1), 32, 0, .any,
      [⟨0, 15, .ro⟩, ⟨16, 31, .ro⟩]⟩
  | .LVP_LINK => ⟨0xF000400014, (0x10000, 6), (0, 1), (0, 1), 32, 0, .any,
      [⟨0, 15, .ro⟩, ⟨16, 31, .ro⟩]⟩
  | .LVP_ERRSTAT => ⟨0xF000400018, (0x10000, 6), (0, 1), (0, 1), 32, 0, .any,
      [⟨0, 0, .w1c⟩, ⟨1, 1, .w1c⟩, ⟨2, 2, .w1c⟩, ⟨3, 3, .w1c⟩, ⟨4, 4, .w1c⟩, ⟨5, 5, .w1c⟩, ⟨6, 6, .w1c⟩, ⟨7, 7, .w1c⟩, ⟨8, 8, .w1c⟩, ⟨9, 9, .w1c⟩, ⟨10, 10, .w1c⟩]⟩
  | .LVP_KEYSTAT => ⟨0xF00040001C, (0x10000, 6), (0, 1), (0, 1), 32, 0, .any,
      [⟨0, 0, .ro⟩, ⟨1, 2, .ro⟩, ⟨3, 4, .ro⟩]⟩
  | .LVP_TXPN => ⟨0xF000400020, (0x10000, 6), (0, 1), (0, 1), 64, 0, .any,
      [⟨0, 63, .ro⟩]⟩
  | .LVP_CNT => ⟨0xF000400040, (0x10000, 6), (4, 16), (0, 1), 32, 0, .any,
      [⟨0, 31, .ro⟩]⟩
  | .LVP_SLOT => ⟨0xF000401000, (0x10000, 6), (8, 64), (0, 1), 64, 0, .any,
      [⟨0, 16, .ro⟩, ⟨24, 29, .ro⟩, ⟨30, 30, .ro⟩, ⟨31, 31, .ro⟩, ⟨32, 48, .ro⟩, ⟨49, 49, .ro⟩]⟩
  | .LVP_EPT => ⟨0xF000408000, (8, 4096), (0, 1), (0, 1), 64, 0, .any,
      [⟨0, 0, .ro⟩, ⟨1, 3, .ro⟩, ⟨4, 6, .ro⟩, ⟨7, 7, .ro⟩, ⟨8, 8, .ro⟩, ⟨9, 9, .ro⟩, ⟨16, 27, .ro⟩]⟩
  | .SLC_CFG => ⟨0xF000500000, (0, 1), (0, 1), (0, 1), 32, 0, .any,
      [⟨0, 5, .ro⟩, ⟨6, 6, .ro⟩]⟩
  | .SLC_FTBASE => ⟨0xF000500008, (0, 1), (0, 1), (0, 1), 64, 0, .any,
      [⟨27, 47, .ro⟩]⟩
  | .SLC_IDB => ⟨0xF000500010, (0, 1), (0, 1), (0, 1), 32, 0, .any,
      [⟨0, 7, .wo⟩, ⟨8, 10, .wo⟩, ⟨16, 31, .wo⟩]⟩
  | .SLC_FCSTAT => ⟨0xF000500014, (0, 1), (0, 1), (0, 1), 32, 0, .any,
      [⟨0, 16, .ro⟩, ⟨17, 31, .ro⟩]⟩
  | .SLC_MCMD => ⟨0xF000500020, (0, 1), (0, 1), (0, 1), 32, 0, .any,
      [⟨0, 7, .wo⟩, ⟨8, 27, .wo⟩]⟩
  | .SLC_MSTAT => ⟨0xF000500024, (0, 1), (0, 1), (0, 1), 32, 0, .any,
      [⟨0, 0, .ro⟩, ⟨1, 1, .w1c⟩, ⟨2, 2, .w1c⟩, ⟨3, 3, .w1c⟩, ⟨4, 7, .ro⟩, ⟨16, 24, .ro⟩]⟩
  | .SLC_MRES => ⟨0xF000500028, (0, 1), (0, 1), (0, 1), 32, 0, .any,
      [⟨0, 19, .ro⟩, ⟨31, 31, .ro⟩]⟩
  | .SLC_MDATA => ⟨0xF000500040, (8, 8), (0, 1), (0, 1), 64, 0, .any,
      [⟨0, 63, .rw⟩]⟩
  | .SLC_ISTAT => ⟨0xF000501000, (8, 256), (0, 1), (0, 1), 64, 0, .any,
      [⟨0, 2, .ro⟩, ⟨3, 3, .ro⟩, ⟨4, 4, .ro⟩, ⟨5, 5, .ro⟩, ⟨6, 6, .ro⟩, ⟨7, 7, .ro⟩, ⟨8, 8, .ro⟩, ⟨16, 26, .ro⟩, ⟨32, 46, .ro⟩]⟩
  | .HOP_LOCK => ⟨0xF000580000, (0, 1), (0, 1), (0, 1), 64, 0, .gov,
      [⟨0, 47, .rw⟩]⟩
  | .HOP_DIS => ⟨0xF000580008, (0, 1), (0, 1), (0, 1), 64, 0, .any,
      [⟨0, 47, .ro⟩, ⟨48, 55, .ro⟩]⟩
  | .HOP_ERRCFG => ⟨0xF000580010, (0, 1), (0, 1), (0, 1), 32, 0x3E80004, .any,
      [⟨0, 5, .ro⟩, ⟨16, 31, .ro⟩]⟩
  | .HOP_MNT_CTL => ⟨0xF000580020, (0, 1), (0, 1), (0, 1), 32, 0, .any,
      [⟨0, 7, .rw⟩, ⟨8, 15, .rw⟩, ⟨16, 17, .rw⟩, ⟨18, 18, .wo⟩]⟩
  | .HOP_MNT_STATUS => ⟨0xF000580024, (0, 1), (0, 1), (0, 1), 32, 0, .any,
      [⟨0, 0, .ro⟩, ⟨1, 1, .w1c⟩, ⟨2, 2, .w1c⟩, ⟨3, 3, .w1c⟩, ⟨4, 7, .ro⟩, ⟨16, 24, .ro⟩]⟩
  | .HOP_EMASK => ⟨0xF000581000, (8, 256), (0, 1), (0, 1), 64, 0xFFFFFFFFFFFF, .gov,
      [⟨0, 47, .rw⟩]⟩
  | .PCI_CFG => ⟨0xF000600000, (0, 1), (0, 1), (0, 1), 32, 0, .any,
      [⟨0, 1, .ro⟩, ⟨2, 2, .ro⟩]⟩
  | .PCI_SSTAT => ⟨0xF000601000, (0x100, 4), (0, 1), (0, 1), 32, 0, .any,
      [⟨0, 1, .ro⟩, ⟨2, 4, .ro⟩, ⟨5, 9, .ro⟩, ⟨10, 10, .ro⟩, ⟨11, 11, .w1c⟩, ⟨16, 31, .ro⟩]⟩
  | .PCI_SCTL => ⟨0xF000601004, (0x100, 4), (0, 1), (0, 1), 32, 0, .mgr,
      [⟨0, 0, .wo⟩, ⟨1, 1, .rw⟩]⟩
  | .PCI_SERR => ⟨0xF000601008, (0x100, 4), (0, 1), (0, 1), 32, 0, .any,
      [⟨0, 7, .ro⟩, ⟨8, 15, .ro⟩, ⟨16, 27, .ro⟩]⟩
  | .PCI_CTO => ⟨0xF00060100C, (0x100, 4), (0, 1), (0, 1), 32, 0x28, .mgr,
      [⟨0, 5, .rw⟩, ⟨16, 31, .ro⟩]⟩
  | .PCI_OBOFF => ⟨0xF000601010, (0x100, 4), (0, 1), (0, 1), 64, 0, .mgr,
      [⟨36, 63, .rw⟩]⟩
  | .PCI_IWCTL => ⟨0xF000604000, (0, 1), (0, 1), (0, 1), 32, 0, .any,
      [⟨0, 0, .wo⟩]⟩
  | .PCI_IWSTAT => ⟨0xF000604004, (0, 1), (0, 1), (0, 1), 32, 0, .any,
      [⟨0, 0, .ro⟩, ⟨1, 1, .w1c⟩, ⟨2, 2, .w1c⟩, ⟨3, 3, .w1c⟩, ⟨4, 6, .ro⟩, ⟨8, 16, .ro⟩, ⟨18, 31, .ro⟩]⟩
  | .PCI_IWS0 => ⟨0xF000604400, (0x10, 64), (0, 1), (0, 1), 64, 0, .any,
      [⟨0, 0, .rw⟩, ⟨1, 1, .rw⟩, ⟨2, 2, .rw⟩, ⟨4, 9, .rw⟩, ⟨12, 47, .rw⟩, ⟨48, 55, .rw⟩]⟩
  | .PCI_IWS1 => ⟨0xF000604408, (0x10, 64), (0, 1), (0, 1), 64, 0, .any,
      [⟨12, 47, .rw⟩]⟩
  | .PCI_IWA => ⟨0xF000604800, (0x10, 64), (8, 2), (0, 1), 64, 0, .any,
      [⟨0, 63, .ro⟩]⟩
  | .PCI_HINT => ⟨0xF000605000, (0, 1), (0, 1), (0, 1), 32, 0, .any,
      [⟨0, 10, .wo⟩]⟩
  | .GOV_STATUS => ⟨0xF000000004, (0, 1), (0, 1), (0, 1), 32, 0, .any,
      [⟨0, 0, .ro⟩, ⟨1, 1, .ro⟩, ⟨2, 2, .ro⟩, ⟨3, 3, .ro⟩, ⟨4, 4, .ro⟩, ⟨5, 5, .ro⟩, ⟨6, 6, .ro⟩, ⟨16, 31, .ro⟩]⟩
  | .GOV_HOLDREQ => ⟨0xF000000110, (0, 1), (0, 1), (0, 1), 32, 0, .any,
      [⟨0, 15, .wo⟩]⟩
  | .GOV_FLOGIDX => ⟨0xF000000300, (0, 1), (0, 1), (0, 1), 32, 0, .any,
      [⟨0, 9, .ro⟩, ⟨10, 31, .ro⟩]⟩
  | .GOV_MIRAGE => ⟨0xF000000304, (0, 1), (0, 1), (0, 1), 32, 0, .any,
      [⟨0, 31, .ro⟩]⟩
  | .GOV_STICKY => ⟨0xF000000310, (0, 1), (0, 1), (0, 1), 32, 0, .any,
      [⟨0, 15, .ro⟩, ⟨16, 16, .w1c⟩]⟩
  | .MBX_AGENT => ⟨0xF000720400, (0, 1), (0, 1), (0, 1), 32, 0, .any,
      [⟨0, 6, .ro⟩, ⟨8, 8, .ro⟩, ⟨9, 9, .ro⟩]⟩
  | .MBX_LOCK => ⟨0xF000730000, (4, 256), (0, 1), (0, 1), 32, 0, .any,
      [⟨0, 8, .rw⟩, ⟨15, 15, .ro⟩]⟩
  | .MBX_LOCKPEEK => ⟨0xF000730400, (4, 256), (0, 1), (0, 1), 32, 0, .any,
      [⟨0, 8, .ro⟩, ⟨31, 31, .ro⟩]⟩
  | .MBX_LOCKFRC => ⟨0xF000730800, (4, 256), (0, 1), (0, 1), 32, 0, .gov,
      [⟨0, 0, .wo⟩]⟩
  | .MBX_ERR => ⟨0xF000740000, (0, 1), (0, 1), (0, 1), 32, 0, .any,
      [⟨0, 0, .w1c⟩, ⟨1, 1, .w1c⟩, ⟨2, 2, .w1c⟩, ⟨8, 16, .ro⟩]⟩
  | .MBX_ERRADDR => ⟨0xF000740008, (0, 1), (0, 1), (0, 1), 32, 0, .any,
      [⟨0, 20, .ro⟩]⟩
  | .MBX_BIND => ⟨0xF000751000, (4, 32), (0, 1), (0, 1), 32, 0, .gov,
      [⟨0, 0, .rwl⟩, ⟨1, 1, .rwl⟩, ⟨8, 14, .rwl⟩, ⟨16, 22, .rwl⟩]⟩
  | .GOV_MEAS => ⟨0xF000000400, (0x40, 8), (8, 8), (0, 1), 64, 0, .any,
      [⟨0, 63, .ro⟩]⟩
  | .DBG_AUTHCTL => ⟨0xF000C00000, (0, 1), (0, 1), (0, 1), 32, 0, .any,
      [⟨0, 0, .wo⟩, ⟨1, 1, .wo⟩, ⟨2, 2, .wo⟩]⟩
  | .DBG_AUTHSTAT => ⟨0xF000C00004, (0, 1), (0, 1), (0, 1), 32, 0, .any,
      [⟨0, 1, .ro⟩, ⟨2, 2, .w1c⟩, ⟨3, 7, .ro⟩, ⟨16, 31, .ro⟩]⟩
  | .DBG_CHAL => ⟨0xF000C00010, (8, 4), (0, 1), (0, 1), 64, 0, .any,
      [⟨0, 63, .ro⟩]⟩
  | .DBG_RESP => ⟨0xF000C00040, (0, 1), (0, 1), (0, 1), 32, 0, .any,
      [⟨0, 31, .wo⟩]⟩
  | .PWR_STATUS => ⟨0xF000B00000, (0, 1), (0, 1), (0, 1), 32, 0, .any,
      [⟨0, 0, .ro⟩, ⟨1, 1, .ro⟩, ⟨2, 2, .ro⟩, ⟨3, 3, .ro⟩, ⟨4, 6, .ro⟩, ⟨8, 15, .ro⟩, ⟨16, 20, .ro⟩]⟩
  | .PWR_PLAN => ⟨0xF000B00010, (4, 12), (0, 1), (0, 1), 32, 0x33, .any,
      [⟨0, 2, .ro⟩, ⟨4, 6, .ro⟩, ⟨16, 31, .ro⟩]⟩
  | .PWR_TEMP => ⟨0xF000B00080, (4, 20), (0, 1), (0, 1), 32, 0, .any,
      [⟨0, 11, .ro⟩, ⟨12, 12, .ro⟩, ⟨13, 13, .ro⟩]⟩
  | .PWR_PKGE => ⟨0xF000B00100, (0, 1), (0, 1), (0, 1), 32, 0, .any,
      [⟨0, 31, .ro⟩]⟩
  | .PWR_RAILE => ⟨0xF000B00140, (4, 16), (0, 1), (0, 1), 32, 0, .any,
      [⟨0, 31, .ro⟩]⟩
  | .PWR_PEN => ⟨0xF000B00200, (4, 65), (0, 1), (0, 1), 32, 0, .any,
      [⟨0, 31, .ro⟩]⟩
  | .PWR_PCUM => ⟨0xF000B00400, (8, 65), (0, 1), (0, 1), 64, 0, .any,
      [⟨0, 63, .ro⟩]⟩
  | .PWR_THRCNT => ⟨0xF000B00700, (0, 1), (0, 1), (0, 1), 32, 0, .any,
      [⟨0, 31, .ro⟩]⟩
  | .PWR_WAKECNT => ⟨0xF000B00704, (0, 1), (0, 1), (0, 1), 32, 0, .any,
      [⟨0, 15, .ro⟩]⟩
  | .GOV_HOLDCAUSE => ⟨0xF000000314, (0, 1), (0, 1), (0, 1), 32, 0, .any,
      [⟨0, 15, .ro⟩, ⟨16, 16, .ro⟩, ⟨17, 17, .ro⟩, ⟨18, 18, .ro⟩]⟩
  | .GOV_FOUTCTL => ⟨0xF000000318, (0, 1), (0, 1), (0, 1), 32, 0, .any,
      [⟨0, 0, .rw⟩]⟩
  | .IOT_FCTL => ⟨0xF000900008, (0, 1), (0, 1), (0, 1), 32, 0, .any,
      [⟨0, 0, .ro⟩, ⟨1, 1, .ro⟩, ⟨2, 2, .ro⟩]⟩
  | .IOT_DDTP => ⟨0xF000900010, (0, 1), (0, 1), (0, 1), 64, 0, .any,
      [⟨0, 3, .rw⟩, ⟨4, 4, .ro⟩, ⟨10, 53, .rw⟩]⟩
  | .IOT_CQB => ⟨0xF000900018, (0, 1), (0, 1), (0, 1), 64, 0, .any,
      [⟨0, 4, .rw⟩, ⟨10, 53, .rw⟩]⟩
  | .IOT_CQH => ⟨0xF000900020, (0, 1), (0, 1), (0, 1), 32, 0, .any,
      [⟨0, 31, .ro⟩]⟩
  | .IOT_CQT => ⟨0xF000900024, (0, 1), (0, 1), (0, 1), 32, 0, .any,
      [⟨0, 31, .rw⟩]⟩
  | .IOT_FQB => ⟨0xF000900028, (0, 1), (0, 1), (0, 1), 64, 0, .any,
      [⟨0, 4, .rw⟩, ⟨10, 53, .rw⟩]⟩
  | .IOT_FQH => ⟨0xF000900030, (0, 1), (0, 1), (0, 1), 32, 0, .any,
      [⟨0, 31, .rw⟩]⟩
  | .IOT_FQT => ⟨0xF000900034, (0, 1), (0, 1), (0, 1), 32, 0, .any,
      [⟨0, 31, .ro⟩]⟩
  | .IOT_CQCSR => ⟨0xF000900048, (0, 1), (0, 1), (0, 1), 32, 0, .any,
      [⟨0, 0, .rw⟩, ⟨1, 1, .rw⟩, ⟨8, 8, .w1c⟩, ⟨9, 9, .w1c⟩, ⟨10, 10, .w1c⟩, ⟨11, 11, .w1c⟩, ⟨16, 16, .ro⟩, ⟨17, 17, .ro⟩]⟩
  | .IOT_FQCSR => ⟨0xF00090004C, (0, 1), (0, 1), (0, 1), 32, 0, .any,
      [⟨0, 0, .rw⟩, ⟨1, 1, .rw⟩, ⟨8, 8, .w1c⟩, ⟨9, 9, .w1c⟩, ⟨16, 16, .ro⟩, ⟨17, 17, .ro⟩]⟩
  | .IOT_IPSR => ⟨0xF000900054, (0, 1), (0, 1), (0, 1), 32, 0, .any,
      [⟨0, 0, .w1c⟩, ⟨1, 1, .w1c⟩, ⟨2, 2, .w1c⟩]⟩
  | .IOT_IOCOUNTOVF => ⟨0xF000900058, (0, 1), (0, 1), (0, 1), 32, 0, .any,
      [⟨0, 31, .ro⟩]⟩
  | .IOT_IOCOUNTINH => ⟨0xF00090005C, (0, 1), (0, 1), (0, 1), 32, 0, .any,
      [⟨0, 31, .rw⟩]⟩
  | .IOT_IOHPMCYCLES => ⟨0xF000900060, (0, 1), (0, 1), (0, 1), 64, 0, .any,
      [⟨0, 62, .rw⟩, ⟨63, 63, .rw⟩]⟩
  | .IOT_ICVEC => ⟨0xF0009002F8, (0, 1), (0, 1), (0, 1), 64, 0, .any,
      [⟨0, 3, .rw⟩, ⟨4, 7, .rw⟩, ⟨8, 11, .rw⟩]⟩
  | .IOT_TR_REQ_IOVA => ⟨0xF000900258, (0, 1), (0, 1), (0, 1), 64, 0, .any,
      [⟨12, 63, .rw⟩]⟩
  | .IOT_TR_REQ_CTL => ⟨0xF000900260, (0, 1), (0, 1), (0, 1), 64, 0, .any,
      [⟨0, 0, .rw⟩, ⟨3, 3, .rw⟩, ⟨40, 63, .rw⟩]⟩
  | .IOT_TR_RESPONSE => ⟨0xF000900268, (0, 1), (0, 1), (0, 1), 64, 0, .any,
      [⟨0, 0, .ro⟩, ⟨10, 53, .ro⟩]⟩
  | .IOT_IOHPMCTR => ⟨0xF000900068, (8, 8), (0, 1), (0, 1), 64, 0, .any,
      [⟨0, 63, .rw⟩]⟩
  | .IOT_IOHPMEVT => ⟨0xF000900160, (8, 8), (0, 1), (0, 1), 64, 0, .any,
      [⟨0, 63, .rw⟩]⟩
  | .IOT_MSI_ADDR => ⟨0xF000900300, (0x10, 16), (0, 1), (0, 1), 64, 0, .any,
      [⟨2, 55, .rw⟩]⟩
  | .IOT_MSI_DATA => ⟨0xF000900308, (0x10, 16), (0, 1), (0, 1), 32, 0, .any,
      [⟨0, 31, .rw⟩]⟩
  | .IOT_MSI_CTL => ⟨0xF00090030C, (0x10, 16), (0, 1), (0, 1), 32, 0, .any,
      [⟨0, 0, .rw⟩]⟩

/-- All registers, for the address decoder. -/
def regsGov : List Reg := [.GOV_DEVSTATE, .GOV_CAP, .GOV_SAILSTAT, .GOV_STATUS, .GOV_HOLDREQ, .GOV_FLOGIDX, .GOV_MIRAGE, .GOV_STICKY, .GOV_MEAS, .GOV_HOLDCAUSE, .GOV_FOUTCTL]
def regsTrn : List Reg := [.TRN_SLOT, .TRN_CFG, .TRN_PERIOD, .TRN_STATUS, .TRN_ALIGN, .TRN_NUM, .TRN_PHASE, .TRN_OFFSET, .TRN_RATE, .TRN_MISSED, .TRN_RELOFF]
def regsEvt : List Reg := [.EVT_CFG, .EVT_STAT, .EVT_MSI, .EVT_MSID, .EVT_SNAPCNT, .EVT_SNAPTS]
def regsL3 : List Reg := [.L3_WAYMASK, .L3_WAYLOCK, .L3_LOCKOWN, .L3_WAYDIS, .L3_ERRCFG, .L3_CFGSTAT, .L3_MNT_BASE, .L3_MNT_LIMIT, .L3_MNT_CTL, .L3_MNT_STATUS, .L3_MNT_COUNT, .L3_MNT_LOCKMISS, .L3_MNT_MSI, .L3_MNT_MSID]
def regsSail : List Reg := [.SAIL_ID, .SAIL_OP, .SAIL_COREDIS, .SAIL_ERRSTAT]
def regsClu : List Reg := [.CLU_STAT, .CLU_MTIMECMP]
def regsPmu : List Reg := [.PMU_CTL, .PMU_EVSEL, .PMU_CNT, .PMU_SNAP]
def regsIot : List Reg := [.IOT_CAPABILITIES, .IOT_XSTAT, .IOT_FCTL, .IOT_DDTP, .IOT_CQB, .IOT_CQH, .IOT_CQT, .IOT_FQB, .IOT_FQH, .IOT_FQT, .IOT_CQCSR, .IOT_FQCSR, .IOT_IPSR, .IOT_IOCOUNTOVF, .IOT_IOCOUNTINH, .IOT_IOHPMCYCLES, .IOT_ICVEC, .IOT_TR_REQ_IOVA, .IOT_TR_REQ_CTL, .IOT_TR_RESPONSE, .IOT_IOHPMCTR, .IOT_IOHPMEVT, .IOT_MSI_ADDR, .IOT_MSI_DATA, .IOT_MSI_CTL]
def regsMst : List Reg := [.MST_CAP, .MST_STATUS, .MST_PDB, .MST_PQPTR, .MST_PQSTAT, .MST_PCTL, .MST_BCFG, .MST_BBUDGET, .MST_BUSED, .MST_BPREV, .MST_BQBASE, .MST_BWIN, .MST_BSTAT]
def regsHom : List Reg := [.HOM_CFG, .HOM_STATUS, .HOM_RETRY, .HOM_TIMEOUT, .HOM_TC3MAX, .HOM_LOSSBASE, .HOM_LOSSCFG, .HOM_LOSSCNT, .HOM_LOSSRD, .HOM_SFSTAT, .HOM_SFERR]
def regsMrc : List Reg := [.MRC_EPOCH, .MRC_SWAP, .MRC_DRAIN, .MRC_HALF, .MRC_ERRCNT, .MRC_TC3LOAD, .MRC_RTBL]
def regsFlm : List Reg := [.FLM_STATUS, .FLM_CAPWORD, .FLM_LINK, .FLM_REPLAY, .FLM_TC3DEM, .FLM_MIDERR, .FLM_CTL, .FLM_TC3RATE]
def regsMc : List Reg := [.MC_CFG, .MC_LAYOUT, .MC_STATUS, .MC_ECCCNT, .MC_MIRCNT, .MC_ELOGBASE, .MC_ELOGCFG, .MC_ELOGCNT, .MC_ELOGRD, .MC_RSV, .MC_RSVOVER, .MC_RD]
def regsDrs : List Reg := [.DRS_CTL, .DRS_STATUS, .DRS_POS, .DRS_LASTPASS]
def regsBlt : List Reg := [.BLT_STATUS, .BLT_CFG, .BLT_COPY, .BLT_PABANDON, .BLT_PSEALTURN, .BLT_DIGSEL, .BLT_DIGTURN, .BLT_DIG, .BLT_PSTAT, .BLT_PCNT, .BLT_PPLACE]
def regsLvp : List Reg := [.LVP_CFG, .LVP_STATUS, .LVP_TXCUM, .LVP_TXFREED, .LVP_PCRED, .LVP_LINK, .LVP_ERRSTAT, .LVP_KEYSTAT, .LVP_TXPN, .LVP_CNT, .LVP_SLOT, .LVP_EPT]
def regsSlc : List Reg := [.SLC_CFG, .SLC_FTBASE, .SLC_IDB, .SLC_FCSTAT, .SLC_MCMD, .SLC_MSTAT, .SLC_MRES, .SLC_MDATA, .SLC_ISTAT]
def regsHop : List Reg := [.HOP_LOCK, .HOP_DIS, .HOP_ERRCFG, .HOP_MNT_CTL, .HOP_MNT_STATUS, .HOP_EMASK]
def regsPci : List Reg := [.PCI_CFG, .PCI_SSTAT, .PCI_SCTL, .PCI_SERR, .PCI_CTO, .PCI_OBOFF, .PCI_IWCTL, .PCI_IWSTAT, .PCI_IWS0, .PCI_IWS1, .PCI_IWA, .PCI_HINT]
def regsMbx : List Reg := [.MBX_AGENT, .MBX_LOCK, .MBX_LOCKPEEK, .MBX_LOCKFRC, .MBX_ERR, .MBX_ERRADDR, .MBX_BIND]
def regsDbg : List Reg := [.DBG_AUTHCTL, .DBG_AUTHSTAT, .DBG_CHAL, .DBG_RESP]
def regsPwr : List Reg := [.PWR_STATUS, .PWR_PLAN, .PWR_TEMP, .PWR_PKGE, .PWR_RAILE, .PWR_PEN, .PWR_PCUM, .PWR_THRCNT, .PWR_WAKECNT]
def Reg.all : List Reg :=
  regsGov ++ regsTrn ++ regsEvt ++ regsL3 ++ regsSail ++ regsClu ++ regsPmu ++ regsIot ++ regsMst ++ regsHom ++ regsMrc ++ regsFlm ++ regsMc ++ regsDrs ++ regsBlt ++ regsLvp ++ regsSlc ++ regsHop ++ regsPci ++ regsMbx ++ regsDbg ++ regsPwr

/-- A field of a register. -/
structure Fld where
  reg : Reg
  lo : Nat
  hi : Nat
deriving DecidableEq, Repr

/-! Fields of the registers of R28-R36 and "Package architecture". -/
def GOV_DEVSTATE_STATE : Fld := ⟨.GOV_DEVSTATE, 0, 3⟩
def GOV_DEVSTATE_OUTEN : Fld := ⟨.GOV_DEVSTATE, 4, 4⟩
def GOV_DEVSTATE_PREV : Fld := ⟨.GOV_DEVSTATE, 8, 11⟩
def GOV_DEVSTATE_ACTIVE : Fld := ⟨.GOV_DEVSTATE, 16, 19⟩
def GOV_DEVSTATE_PRESENT : Fld := ⟨.GOV_DEVSTATE, 20, 23⟩
def GOV_CAP_HUBMIN : Fld := ⟨.GOV_CAP, 0, 7⟩
def GOV_CAP_HUBMAX : Fld := ⟨.GOV_CAP, 8, 15⟩
def GOV_CAP_EFFECTIVE : Fld := ⟨.GOV_CAP, 16, 23⟩
def GOV_SAILSTAT_STATE : Fld := ⟨.GOV_SAILSTAT, 0, 2⟩
def GOV_SAILSTAT_FUSED : Fld := ⟨.GOV_SAILSTAT, 3, 3⟩
def GOV_SAILSTAT_HELDOUT : Fld := ⟨.GOV_SAILSTAT, 4, 4⟩
def GOV_SAILSTAT_POISONING : Fld := ⟨.GOV_SAILSTAT, 5, 5⟩
def GOV_SAILSTAT_REV : Fld := ⟨.GOV_SAILSTAT, 8, 15⟩
def GOV_SAILSTAT_CAPLVL : Fld := ⟨.GOV_SAILSTAT, 16, 23⟩
def GOV_SAILSTAT_LOSTCNT : Fld := ⟨.GOV_SAILSTAT, 24, 31⟩
/-! Fields of the registers of "The turn". -/
def TRN_SLOT_START : Fld := ⟨.TRN_SLOT, 0, 16⟩
def TRN_SLOT_PART : Fld := ⟨.TRN_SLOT, 24, 30⟩
def TRN_SLOT_VALID : Fld := ⟨.TRN_SLOT, 31, 31⟩
def TRN_SLOT_END : Fld := ⟨.TRN_SLOT, 32, 48⟩
def TRN_SLOT_ENTER : Fld := ⟨.TRN_SLOT, 56, 56⟩
def TRN_SLOT_MARK : Fld := ⟨.TRN_SLOT, 57, 57⟩
def TRN_SLOT_TC3 : Fld := ⟨.TRN_SLOT, 58, 58⟩
def TRN_CFG_SYNCMODE : Fld := ⟨.TRN_CFG, 0, 2⟩
def TRN_CFG_TSOUT : Fld := ⟨.TRN_CFG, 3, 3⟩
def TRN_CFG_PPSOUT : Fld := ⟨.TRN_CFG, 4, 4⟩
def TRN_CFG_INCUT : Fld := ⟨.TRN_CFG, 16, 31⟩
def TRN_PERIOD_PERIOD : Fld := ⟨.TRN_PERIOD, 0, 13⟩
def TRN_STATUS_RUNNING : Fld := ⟨.TRN_STATUS, 0, 0⟩
def TRN_STATUS_LOCKED : Fld := ⟨.TRN_STATUS, 1, 1⟩
def TRN_STATUS_HOLDOVER : Fld := ⟨.TRN_STATUS, 2, 2⟩
def TRN_STATUS_IMGPEND : Fld := ⟨.TRN_STATUS, 3, 3⟩
def TRN_STATUS_HOLDTURNS : Fld := ⟨.TRN_STATUS, 16, 31⟩
def TRN_ALIGN_ALIGN : Fld := ⟨.TRN_ALIGN, 0, 23⟩
def TRN_NUM_NUM : Fld := ⟨.TRN_NUM, 0, 63⟩
def TRN_PHASE_PHASE : Fld := ⟨.TRN_PHASE, 0, 23⟩
def TRN_OFFSET_OFFSET : Fld := ⟨.TRN_OFFSET, 0, 63⟩
def TRN_RATE_RATE : Fld := ⟨.TRN_RATE, 0, 31⟩
def TRN_MISSED_MISSED : Fld := ⟨.TRN_MISSED, 0, 63⟩
def TRN_RELOFF_RELOFF : Fld := ⟨.TRN_RELOFF, 0, 16⟩
def EVT_CFG_EN : Fld := ⟨.EVT_CFG, 0, 0⟩
def EVT_CFG_POL : Fld := ⟨.EVT_CFG, 1, 1⟩
def EVT_CFG_EDGE : Fld := ⟨.EVT_CFG, 2, 3⟩
def EVT_CFG_MERGE : Fld := ⟨.EVT_CFG, 4, 4⟩
def EVT_CFG_DELIV : Fld := ⟨.EVT_CFG, 5, 6⟩
def EVT_CFG_STUCK : Fld := ⟨.EVT_CFG, 8, 15⟩
def EVT_CFG_FILT : Fld := ⟨.EVT_CFG, 16, 31⟩
def EVT_STAT_LEVEL : Fld := ⟨.EVT_STAT, 0, 0⟩
def EVT_STAT_OVR : Fld := ⟨.EVT_STAT, 1, 1⟩
def EVT_STAT_STUCK : Fld := ⟨.EVT_STAT, 2, 2⟩
def EVT_STAT_MASKED : Fld := ⟨.EVT_STAT, 3, 3⟩
def EVT_STAT_OVRCNT : Fld := ⟨.EVT_STAT, 8, 15⟩
def EVT_STAT_REJCNT : Fld := ⟨.EVT_STAT, 16, 31⟩
def EVT_MSI_ADDR : Fld := ⟨.EVT_MSI, 0, 47⟩
def EVT_MSID_EIID : Fld := ⟨.EVT_MSID, 0, 10⟩
def EVT_SNAPCNT_COUNT : Fld := ⟨.EVT_SNAPCNT, 0, 15⟩
def EVT_SNAPTS_PHASE : Fld := ⟨.EVT_SNAPTS, 0, 23⟩
def EVT_SNAPTS_VALID : Fld := ⟨.EVT_SNAPTS, 31, 31⟩
/-! Fields of the registers of "Sail dies and cores". -/
def L3_WAYMASK_MASK : Fld := ⟨.L3_WAYMASK, 0, 15⟩
def L3_WAYLOCK_LOCK : Fld := ⟨.L3_WAYLOCK, 0, 15⟩
def L3_LOCKOWN_OWNER : Fld := ⟨.L3_LOCKOWN, 0, 15⟩
def L3_WAYDIS_DIS : Fld := ⟨.L3_WAYDIS, 0, 15⟩
def L3_WAYDIS_COUNT : Fld := ⟨.L3_WAYDIS, 16, 18⟩
def L3_ERRCFG_THRESH : Fld := ⟨.L3_ERRCFG, 0, 6⟩
def L3_ERRCFG_DECAY : Fld := ⟨.L3_ERRCFG, 16, 31⟩
def L3_CFGSTAT_REFUSED : Fld := ⟨.L3_CFGSTAT, 0, 0⟩
def L3_MNT_BASE_ADDR : Fld := ⟨.L3_MNT_BASE, 6, 47⟩
def L3_MNT_LIMIT_ADDR : Fld := ⟨.L3_MNT_LIMIT, 6, 47⟩
def L3_MNT_CTL_OP : Fld := ⟨.L3_MNT_CTL, 0, 1⟩
def L3_MNT_CTL_START : Fld := ⟨.L3_MNT_CTL, 4, 4⟩
def L3_MNT_CTL_MSIEN : Fld := ⟨.L3_MNT_CTL, 5, 5⟩
def L3_MNT_CTL_OWNERCORE : Fld := ⟨.L3_MNT_CTL, 8, 11⟩
def L3_MNT_STATUS_BUSY : Fld := ⟨.L3_MNT_STATUS, 0, 0⟩
def L3_MNT_STATUS_DONE : Fld := ⟨.L3_MNT_STATUS, 1, 1⟩
def L3_MNT_STATUS_ERR : Fld := ⟨.L3_MNT_STATUS, 2, 2⟩
def L3_MNT_STATUS_BUSYWR : Fld := ⟨.L3_MNT_STATUS, 3, 3⟩
def L3_MNT_STATUS_ERRCODE : Fld := ⟨.L3_MNT_STATUS, 4, 7⟩
def L3_MNT_STATUS_OWNER : Fld := ⟨.L3_MNT_STATUS, 16, 24⟩
def L3_MNT_COUNT_LINES : Fld := ⟨.L3_MNT_COUNT, 0, 31⟩
def L3_MNT_LOCKMISS_LOCKMISS : Fld := ⟨.L3_MNT_LOCKMISS, 0, 31⟩
def L3_MNT_MSI_ADDR : Fld := ⟨.L3_MNT_MSI, 0, 47⟩
def L3_MNT_MSID_EIID : Fld := ⟨.L3_MNT_MSID, 0, 10⟩
def SAIL_ID_SAILNO : Fld := ⟨.SAIL_ID, 0, 3⟩
def SAIL_ID_REV : Fld := ⟨.SAIL_ID, 8, 15⟩
def SAIL_ID_CAPLVL : Fld := ⟨.SAIL_ID, 16, 23⟩
def SAIL_OP_CUR : Fld := ⟨.SAIL_OP, 0, 2⟩
def SAIL_OP_TARGET : Fld := ⟨.SAIL_OP, 4, 6⟩
def SAIL_OP_RAMP : Fld := ⟨.SAIL_OP, 8, 8⟩
def SAIL_COREDIS_DIS : Fld := ⟨.SAIL_COREDIS, 0, 15⟩
def SAIL_ERRSTAT_CE : Fld := ⟨.SAIL_ERRSTAT, 0, 0⟩
def SAIL_ERRSTAT_UE : Fld := ⟨.SAIL_ERRSTAT, 1, 1⟩
def SAIL_ERRSTAT_WAYDIS : Fld := ⟨.SAIL_ERRSTAT, 2, 2⟩
def SAIL_ERRSTAT_SPILL : Fld := ⟨.SAIL_ERRSTAT, 3, 3⟩
def SAIL_ERRSTAT_COREFLT : Fld := ⟨.SAIL_ERRSTAT, 4, 4⟩
def CLU_STAT_RUN : Fld := ⟨.CLU_STAT, 0, 3⟩
def CLU_STAT_HALTED : Fld := ⟨.CLU_STAT, 4, 7⟩
def CLU_STAT_DISABLED : Fld := ⟨.CLU_STAT, 8, 11⟩
def CLU_STAT_PINNED : Fld := ⟨.CLU_STAT, 12, 15⟩
def CLU_STAT_FAULT : Fld := ⟨.CLU_STAT, 16, 19⟩
def CLU_STAT_GATED : Fld := ⟨.CLU_STAT, 24, 24⟩
def CLU_MTIMECMP_CMP : Fld := ⟨.CLU_MTIMECMP, 0, 63⟩
def PMU_CTL_EN : Fld := ⟨.PMU_CTL, 0, 0⟩
def PMU_CTL_FREEZE : Fld := ⟨.PMU_CTL, 1, 1⟩
def PMU_CTL_SNAP : Fld := ⟨.PMU_CTL, 2, 2⟩
def PMU_CTL_PART : Fld := ⟨.PMU_CTL, 8, 13⟩
def PMU_CTL_PARTEN : Fld := ⟨.PMU_CTL, 14, 14⟩
def PMU_EVSEL_EVENT : Fld := ⟨.PMU_EVSEL, 0, 7⟩
def PMU_CNT_COUNT : Fld := ⟨.PMU_CNT, 0, 63⟩
def PMU_SNAP_COUNT : Fld := ⟨.PMU_SNAP, 0, 63⟩
/-! Fields of the registers of R133-R135 (IOT; the standard registers are PRESUMED from the RISC-V IOMMU layout). -/
def IOT_CAPABILITIES_version : Fld := ⟨.IOT_CAPABILITIES, 0, 7⟩
def IOT_CAPABILITIES_Sv32 : Fld := ⟨.IOT_CAPABILITIES, 8, 8⟩
def IOT_CAPABILITIES_Sv39 : Fld := ⟨.IOT_CAPABILITIES, 9, 9⟩
def IOT_CAPABILITIES_Sv48 : Fld := ⟨.IOT_CAPABILITIES, 10, 10⟩
def IOT_CAPABILITIES_Sv57andreserved : Fld := ⟨.IOT_CAPABILITIES, 11, 14⟩
def IOT_CAPABILITIES_Svpbmt : Fld := ⟨.IOT_CAPABILITIES, 15, 15⟩
def IOT_CAPABILITIES_Sv32x4 : Fld := ⟨.IOT_CAPABILITIES, 16, 16⟩
def IOT_CAPABILITIES_Sv39x4 : Fld := ⟨.IOT_CAPABILITIES, 17, 17⟩
def IOT_CAPABILITIES_Sv48x4 : Fld := ⟨.IOT_CAPABILITIES, 18, 18⟩
def IOT_CAPABILITIES_Sv57x4reservedAMOMRIF : Fld := ⟨.IOT_CAPABILITIES, 19, 21⟩
def IOT_CAPABILITIES_MSIFLAT : Fld := ⟨.IOT_CAPABILITIES, 22, 22⟩
def IOT_CAPABILITIES_MSIMRIF : Fld := ⟨.IOT_CAPABILITIES, 23, 23⟩
def IOT_CAPABILITIES_AMOHWADATST2GPA : Fld := ⟨.IOT_CAPABILITIES, 24, 26⟩
def IOT_CAPABILITIES_END : Fld := ⟨.IOT_CAPABILITIES, 27, 27⟩
def IOT_CAPABILITIES_IGS : Fld := ⟨.IOT_CAPABILITIES, 28, 29⟩
def IOT_CAPABILITIES_HPM : Fld := ⟨.IOT_CAPABILITIES, 30, 30⟩
def IOT_CAPABILITIES_DBG : Fld := ⟨.IOT_CAPABILITIES, 31, 31⟩
def IOT_CAPABILITIES_PAS : Fld := ⟨.IOT_CAPABILITIES, 32, 37⟩
def IOT_CAPABILITIES_PD8PD17PD20andreserved : Fld := ⟨.IOT_CAPABILITIES, 38, 63⟩
def IOT_XSTAT_WNMCNT : Fld := ⟨.IOT_XSTAT, 0, 15⟩
def IOT_XSTAT_POISCNT : Fld := ⟨.IOT_XSTAT, 16, 31⟩
def IOT_FCTL_BE : Fld := ⟨.IOT_FCTL, 0, 0⟩
def IOT_FCTL_WSI : Fld := ⟨.IOT_FCTL, 1, 1⟩
def IOT_FCTL_GXL : Fld := ⟨.IOT_FCTL, 2, 2⟩
def IOT_DDTP_MODE : Fld := ⟨.IOT_DDTP, 0, 3⟩
def IOT_DDTP_BUSY : Fld := ⟨.IOT_DDTP, 4, 4⟩
def IOT_DDTP_PPN : Fld := ⟨.IOT_DDTP, 10, 53⟩
def IOT_CQB_LOG2SZ : Fld := ⟨.IOT_CQB, 0, 4⟩
def IOT_CQB_PPN : Fld := ⟨.IOT_CQB, 10, 53⟩
def IOT_CQH_INDEX : Fld := ⟨.IOT_CQH, 0, 31⟩
def IOT_CQT_INDEX : Fld := ⟨.IOT_CQT, 0, 31⟩
def IOT_FQB_LOG2SZ : Fld := ⟨.IOT_FQB, 0, 4⟩
def IOT_FQB_PPN : Fld := ⟨.IOT_FQB, 10, 53⟩
def IOT_FQH_INDEX : Fld := ⟨.IOT_FQH, 0, 31⟩
def IOT_FQT_INDEX : Fld := ⟨.IOT_FQT, 0, 31⟩
def IOT_CQCSR_CQEN : Fld := ⟨.IOT_CQCSR, 0, 0⟩
def IOT_CQCSR_CIE : Fld := ⟨.IOT_CQCSR, 1, 1⟩
def IOT_CQCSR_CQMF : Fld := ⟨.IOT_CQCSR, 8, 8⟩
def IOT_CQCSR_CMDTO : Fld := ⟨.IOT_CQCSR, 9, 9⟩
def IOT_CQCSR_CMDILL : Fld := ⟨.IOT_CQCSR, 10, 10⟩
def IOT_CQCSR_FENCEWIP : Fld := ⟨.IOT_CQCSR, 11, 11⟩
def IOT_CQCSR_CQON : Fld := ⟨.IOT_CQCSR, 16, 16⟩
def IOT_CQCSR_BUSY : Fld := ⟨.IOT_CQCSR, 17, 17⟩
def IOT_FQCSR_FQEN : Fld := ⟨.IOT_FQCSR, 0, 0⟩
def IOT_FQCSR_FIE : Fld := ⟨.IOT_FQCSR, 1, 1⟩
def IOT_FQCSR_FQMF : Fld := ⟨.IOT_FQCSR, 8, 8⟩
def IOT_FQCSR_FQOF : Fld := ⟨.IOT_FQCSR, 9, 9⟩
def IOT_FQCSR_FQON : Fld := ⟨.IOT_FQCSR, 16, 16⟩
def IOT_FQCSR_BUSY : Fld := ⟨.IOT_FQCSR, 17, 17⟩
def IOT_IPSR_CIP : Fld := ⟨.IOT_IPSR, 0, 0⟩
def IOT_IPSR_FIP : Fld := ⟨.IOT_IPSR, 1, 1⟩
def IOT_IPSR_PMIP : Fld := ⟨.IOT_IPSR, 2, 2⟩
def IOT_IOCOUNTOVF_OVF : Fld := ⟨.IOT_IOCOUNTOVF, 0, 31⟩
def IOT_IOCOUNTINH_INH : Fld := ⟨.IOT_IOCOUNTINH, 0, 31⟩
def IOT_IOHPMCYCLES_COUNT : Fld := ⟨.IOT_IOHPMCYCLES, 0, 62⟩
def IOT_IOHPMCYCLES_OF : Fld := ⟨.IOT_IOHPMCYCLES, 63, 63⟩
def IOT_ICVEC_CIV : Fld := ⟨.IOT_ICVEC, 0, 3⟩
def IOT_ICVEC_FIV : Fld := ⟨.IOT_ICVEC, 4, 7⟩
def IOT_ICVEC_PMIV : Fld := ⟨.IOT_ICVEC, 8, 11⟩
def IOT_TR_REQ_IOVA_VPN : Fld := ⟨.IOT_TR_REQ_IOVA, 12, 63⟩
def IOT_TR_REQ_CTL_GO : Fld := ⟨.IOT_TR_REQ_CTL, 0, 0⟩
def IOT_TR_REQ_CTL_NW : Fld := ⟨.IOT_TR_REQ_CTL, 3, 3⟩
def IOT_TR_REQ_CTL_DID : Fld := ⟨.IOT_TR_REQ_CTL, 40, 63⟩
def IOT_TR_RESPONSE_FAULT : Fld := ⟨.IOT_TR_RESPONSE, 0, 0⟩
def IOT_TR_RESPONSE_PPN : Fld := ⟨.IOT_TR_RESPONSE, 10, 53⟩
def IOT_IOHPMCTR_COUNTER : Fld := ⟨.IOT_IOHPMCTR, 0, 63⟩
def IOT_IOHPMEVT_EVT : Fld := ⟨.IOT_IOHPMEVT, 0, 63⟩
def IOT_MSI_ADDR_ADDR : Fld := ⟨.IOT_MSI_ADDR, 2, 55⟩
def IOT_MSI_DATA_DATA : Fld := ⟨.IOT_MSI_DATA, 0, 31⟩
def IOT_MSI_CTL_M : Fld := ⟨.IOT_MSI_CTL, 0, 0⟩
/-! Fields of the registers of "Millstone matrix engines". -/
def MST_CAP_TILES : Fld := ⟨.MST_CAP, 0, 3⟩
def MST_CAP_SCRATCH : Fld := ⟨.MST_CAP, 8, 15⟩
def MST_CAP_BINDINGS : Fld := ⟨.MST_CAP, 16, 23⟩
def MST_STATUS_TILEEN : Fld := ⟨.MST_STATUS, 0, 3⟩
def MST_STATUS_BUSY : Fld := ⟨.MST_STATUS, 4, 4⟩
def MST_PDB_COUNT : Fld := ⟨.MST_PDB, 0, 12⟩
def MST_PQPTR_HEAD : Fld := ⟨.MST_PQPTR, 0, 15⟩
def MST_PQPTR_TAIL : Fld := ⟨.MST_PQPTR, 16, 31⟩
def MST_PQSTAT_STOPPED : Fld := ⟨.MST_PQSTAT, 0, 0⟩
def MST_PQSTAT_ERR : Fld := ⟨.MST_PQSTAT, 1, 1⟩
def MST_PQSTAT_ERRCODE : Fld := ⟨.MST_PQSTAT, 4, 7⟩
def MST_PCTL_RESUME : Fld := ⟨.MST_PCTL, 0, 0⟩
def MST_PCTL_SKIP : Fld := ⟨.MST_PCTL, 1, 1⟩
def MST_BCFG_EN : Fld := ⟨.MST_BCFG, 0, 0⟩
def MST_BCFG_PART : Fld := ⟨.MST_BCFG, 8, 13⟩
def MST_BCFG_REPL : Fld := ⟨.MST_BCFG, 14, 15⟩
def MST_BCFG_QSIZE0 : Fld := ⟨.MST_BCFG, 16, 19⟩
def MST_BCFG_QSIZE1 : Fld := ⟨.MST_BCFG, 20, 23⟩
def MST_BBUDGET_BUDGET : Fld := ⟨.MST_BBUDGET, 0, 15⟩
def MST_BUSED_USED : Fld := ⟨.MST_BUSED, 0, 31⟩
def MST_BPREV_PREV : Fld := ⟨.MST_BPREV, 0, 31⟩
def MST_BQBASE_ADDR : Fld := ⟨.MST_BQBASE, 6, 47⟩
def MST_BWIN_SIZE : Fld := ⟨.MST_BWIN, 0, 5⟩
def MST_BWIN_R : Fld := ⟨.MST_BWIN, 6, 6⟩
def MST_BWIN_W : Fld := ⟨.MST_BWIN, 7, 7⟩
def MST_BWIN_BASE : Fld := ⟨.MST_BWIN, 12, 47⟩
def MST_BSTAT_SQSEAL : Fld := ⟨.MST_BSTAT, 0, 0⟩
def MST_BSTAT_SQMARK : Fld := ⟨.MST_BSTAT, 1, 1⟩
def MST_BSTAT_OVER : Fld := ⟨.MST_BSTAT, 2, 2⟩
/-! Fields of the registers of "Coherence protocol". -/
def HOM_CFG_MODE : Fld := ⟨.HOM_CFG, 0, 0⟩
def HOM_STATUS_PURGE : Fld := ⟨.HOM_STATUS, 0, 0⟩
def HOM_STATUS_MARKING : Fld := ⟨.HOM_STATUS, 1, 1⟩
def HOM_STATUS_REBUILD : Fld := ⟨.HOM_STATUS, 2, 2⟩
def HOM_STATUS_OPEN : Fld := ⟨.HOM_STATUS, 16, 31⟩
def HOM_RETRY_COUNT : Fld := ⟨.HOM_RETRY, 0, 31⟩
def HOM_TIMEOUT_LIMIT : Fld := ⟨.HOM_TIMEOUT, 0, 15⟩
def HOM_TIMEOUT_COUNT : Fld := ⟨.HOM_TIMEOUT, 16, 31⟩
def HOM_TC3MAX_MAXNS : Fld := ⟨.HOM_TC3MAX, 0, 15⟩
def HOM_TC3MAX_OVERCNT : Fld := ⟨.HOM_TC3MAX, 16, 31⟩
def HOM_LOSSBASE_BASE : Fld := ⟨.HOM_LOSSBASE, 12, 47⟩
def HOM_LOSSCFG_SIZE : Fld := ⟨.HOM_LOSSCFG, 0, 4⟩
def HOM_LOSSCNT_COUNT : Fld := ⟨.HOM_LOSSCNT, 0, 19⟩
def HOM_LOSSCNT_OVF : Fld := ⟨.HOM_LOSSCNT, 31, 31⟩
def HOM_LOSSRD_PASSED : Fld := ⟨.HOM_LOSSRD, 0, 19⟩
def HOM_SFSTAT_REBUILD : Fld := ⟨.HOM_SFSTAT, 0, 7⟩
def HOM_SFSTAT_CECNT : Fld := ⟨.HOM_SFSTAT, 16, 31⟩
def HOM_SFERR_UECNT : Fld := ⟨.HOM_SFERR, 0, 15⟩
def HOM_SFERR_LASTBANK : Fld := ⟨.HOM_SFERR, 16, 18⟩
/-! Fields of the registers of "Millrace and flume". -/
def MRC_EPOCH_CUR : Fld := ⟨.MRC_EPOCH, 0, 0⟩
def MRC_EPOCH_PEND : Fld := ⟨.MRC_EPOCH, 1, 1⟩
def MRC_EPOCH_DRAINING : Fld := ⟨.MRC_EPOCH, 2, 2⟩
def MRC_EPOCH_OVERRUN : Fld := ⟨.MRC_EPOCH, 3, 3⟩
def MRC_EPOCH_DRAINTIME : Fld := ⟨.MRC_EPOCH, 16, 31⟩
def MRC_SWAP_REQ : Fld := ⟨.MRC_SWAP, 0, 0⟩
def MRC_DRAIN_COUNT : Fld := ⟨.MRC_DRAIN, 0, 15⟩
def MRC_HALF_HALF : Fld := ⟨.MRC_HALF, 0, 31⟩
def MRC_ERRCNT_CORR : Fld := ⟨.MRC_ERRCNT, 0, 15⟩
def MRC_ERRCNT_DROP : Fld := ⟨.MRC_ERRCNT, 16, 31⟩
def MRC_TC3LOAD_MAXLOAD : Fld := ⟨.MRC_TC3LOAD, 0, 15⟩
def MRC_TC3LOAD_LINK : Fld := ⟨.MRC_TC3LOAD, 16, 22⟩
def MRC_RTBL_PORTS : Fld := ⟨.MRC_RTBL, 0, 31⟩
def FLM_STATUS_UP0 : Fld := ⟨.FLM_STATUS, 0, 0⟩
def FLM_STATUS_UP1 : Fld := ⟨.FLM_STATUS, 1, 1⟩
def FLM_STATUS_LOST : Fld := ⟨.FLM_STATUS, 2, 2⟩
def FLM_STATUS_CAUSE : Fld := ⟨.FLM_STATUS, 3, 5⟩
def FLM_STATUS_BDELAY : Fld := ⟨.FLM_STATUS, 8, 15⟩
def FLM_STATUS_LEVEL : Fld := ⟨.FLM_STATUS, 16, 23⟩
def FLM_CAPWORD_REV : Fld := ⟨.FLM_CAPWORD, 0, 7⟩
def FLM_CAPWORD_CAPLVL : Fld := ⟨.FLM_CAPWORD, 8, 15⟩
def FLM_CAPWORD_MAXGT : Fld := ⟨.FLM_CAPWORD, 16, 23⟩
def FLM_LINK_CRCERR : Fld := ⟨.FLM_LINK, 0, 15⟩
def FLM_LINK_RETRAIN : Fld := ⟨.FLM_LINK, 16, 23⟩
def FLM_REPLAY_FRAMES : Fld := ⟨.FLM_REPLAY, 0, 31⟩
def FLM_TC3DEM_COUNT : Fld := ⟨.FLM_TC3DEM, 0, 31⟩
def FLM_MIDERR_COUNT : Fld := ⟨.FLM_MIDERR, 0, 15⟩
def FLM_MIDERR_LASTMID : Fld := ⟨.FLM_MIDERR, 16, 24⟩
def FLM_CTL_RETRAIN0 : Fld := ⟨.FLM_CTL, 0, 0⟩
def FLM_CTL_RETRAIN1 : Fld := ⟨.FLM_CTL, 1, 1⟩
def FLM_TC3RATE_RATE : Fld := ⟨.FLM_TC3RATE, 0, 9⟩
/-! Fields of the registers of "Memory controllers and region codes". -/
def MC_CFG_CAP : Fld := ⟨.MC_CFG, 0, 1⟩
def MC_CFG_BIN : Fld := ⟨.MC_CFG, 2, 3⟩
def MC_LAYOUT_K : Fld := ⟨.MC_LAYOUT, 0, 15⟩
def MC_LAYOUT_Q : Fld := ⟨.MC_LAYOUT, 16, 31⟩
def MC_STATUS_TRAINED : Fld := ⟨.MC_STATUS, 0, 0⟩
def MC_STATUS_RESTORED : Fld := ⟨.MC_STATUS, 1, 1⟩
def MC_STATUS_STPASS : Fld := ⟨.MC_STATUS, 2, 2⟩
def MC_STATUS_INIT : Fld := ⟨.MC_STATUS, 3, 3⟩
def MC_STATUS_HOT : Fld := ⟨.MC_STATUS, 4, 4⟩
def MC_STATUS_MERGEUSE : Fld := ⟨.MC_STATUS, 16, 21⟩
def MC_ECCCNT_CE : Fld := ⟨.MC_ECCCNT, 0, 15⟩
def MC_ECCCNT_UE : Fld := ⟨.MC_ECCCNT, 16, 31⟩
def MC_MIRCNT_MIRFIX : Fld := ⟨.MC_MIRCNT, 0, 15⟩
def MC_MIRCNT_NOPOIS : Fld := ⟨.MC_MIRCNT, 16, 31⟩
def MC_ELOGBASE_BASE : Fld := ⟨.MC_ELOGBASE, 12, 47⟩
def MC_ELOGCFG_SIZE : Fld := ⟨.MC_ELOGCFG, 0, 4⟩
def MC_ELOGCNT_COUNT : Fld := ⟨.MC_ELOGCNT, 0, 19⟩
def MC_ELOGCNT_OVF : Fld := ⟨.MC_ELOGCNT, 31, 31⟩
def MC_ELOGRD_PASSED : Fld := ⟨.MC_ELOGRD, 0, 19⟩
def DRS_CTL_EN : Fld := ⟨.DRS_CTL, 0, 0⟩
def DRS_CTL_RATE : Fld := ⟨.DRS_CTL, 16, 28⟩
def DRS_STATUS_RUN : Fld := ⟨.DRS_STATUS, 0, 0⟩
def DRS_STATUS_BEHIND : Fld := ⟨.DRS_STATUS, 1, 1⟩
def DRS_STATUS_PASSCNT : Fld := ⟨.DRS_STATUS, 16, 31⟩
def DRS_POS_LINE : Fld := ⟨.DRS_POS, 6, 34⟩
def DRS_LASTPASS_TURNS : Fld := ⟨.DRS_LASTPASS, 0, 31⟩
def MC_RSV_RATE : Fld := ⟨.MC_RSV, 0, 9⟩
def MC_RSVOVER_OVER : Fld := ⟨.MC_RSVOVER, 0, 63⟩
def MC_RD_WORD : Fld := ⟨.MC_RD, 0, 63⟩
/-! Fields of the registers of "Partitions, replicas and the bolter". -/
def BLT_STATUS_ENGBUSY : Fld := ⟨.BLT_STATUS, 0, 7⟩
def BLT_STATUS_COPYBUSY : Fld := ⟨.BLT_STATUS, 8, 8⟩
def BLT_STATUS_RELBUSY : Fld := ⟨.BLT_STATUS, 9, 9⟩
def BLT_STATUS_PEERUP : Fld := ⟨.BLT_STATUS, 10, 10⟩
def BLT_CFG_COPYRATE : Fld := ⟨.BLT_CFG, 0, 7⟩
def BLT_COPY_PART : Fld := ⟨.BLT_COPY, 0, 5⟩
def BLT_COPY_TARGET : Fld := ⟨.BLT_COPY, 6, 7⟩
def BLT_COPY_SOURCE : Fld := ⟨.BLT_COPY, 8, 9⟩
def BLT_COPY_KIND : Fld := ⟨.BLT_COPY, 10, 11⟩
def BLT_COPY_GROUP : Fld := ⟨.BLT_COPY, 12, 15⟩
def BLT_COPY_DONE : Fld := ⟨.BLT_COPY, 16, 47⟩
def BLT_PABANDON_ABANDON : Fld := ⟨.BLT_PABANDON, 0, 0⟩
def BLT_PSEALTURN_TURN : Fld := ⟨.BLT_PSEALTURN, 0, 63⟩
def BLT_DIGSEL_PART : Fld := ⟨.BLT_DIGSEL, 0, 5⟩
def BLT_DIGSEL_REPL : Fld := ⟨.BLT_DIGSEL, 6, 7⟩
def BLT_DIGSEL_VALID : Fld := ⟨.BLT_DIGSEL, 8, 8⟩
def BLT_DIGSEL_POISONED : Fld := ⟨.BLT_DIGSEL, 9, 9⟩
def BLT_DIGTURN_TURN : Fld := ⟨.BLT_DIGTURN, 0, 63⟩
def BLT_DIG_BYTES : Fld := ⟨.BLT_DIG, 0, 63⟩
def BLT_PSTAT_STATE : Fld := ⟨.BLT_PSTAT, 0, 2⟩
def BLT_PSTAT_MODE : Fld := ⟨.BLT_PSTAT, 4, 5⟩
def BLT_PSTAT_RESTART : Fld := ⟨.BLT_PSTAT, 6, 6⟩
def BLT_PSTAT_XPKG : Fld := ⟨.BLT_PSTAT, 7, 7⟩
def BLT_PSTAT_LIVE : Fld := ⟨.BLT_PSTAT, 8, 10⟩
def BLT_PSTAT_LAST : Fld := ⟨.BLT_PSTAT, 16, 18⟩
def BLT_PSTAT_REPEAT : Fld := ⟨.BLT_PSTAT, 19, 19⟩
def BLT_PSTAT_HOLDCNT : Fld := ⟨.BLT_PSTAT, 20, 23⟩
def BLT_PSTAT_SRC : Fld := ⟨.BLT_PSTAT, 24, 25⟩
def BLT_PSTAT_TURN : Fld := ⟨.BLT_PSTAT, 32, 63⟩
def BLT_PCNT_HOLDS : Fld := ⟨.BLT_PCNT, 0, 15⟩
def BLT_PCNT_SURVIVOR : Fld := ⟨.BLT_PCNT, 16, 31⟩
def BLT_PCNT_DISSENT : Fld := ⟨.BLT_PCNT, 32, 47⟩
def BLT_PCNT_LOSSES : Fld := ⟨.BLT_PCNT, 48, 63⟩
def BLT_PPLACE_SAIL0 : Fld := ⟨.BLT_PPLACE, 0, 3⟩
def BLT_PPLACE_SAIL1 : Fld := ⟨.BLT_PPLACE, 4, 7⟩
def BLT_PPLACE_SAIL2 : Fld := ⟨.BLT_PPLACE, 8, 11⟩
/-! Fields of the registers of "Leavo ports and link layer". -/
def LVP_CFG_MODE : Fld := ⟨.LVP_CFG, 0, 1⟩
def LVP_CFG_EN : Fld := ⟨.LVP_CFG, 2, 2⟩
def LVP_CFG_PEER : Fld := ⟨.LVP_CFG, 3, 3⟩
def LVP_CFG_PLANLANES : Fld := ⟨.LVP_CFG, 4, 6⟩
def LVP_CFG_ENCREQ : Fld := ⟨.LVP_CFG, 7, 7⟩
def LVP_CFG_VL2W : Fld := ⟨.LVP_CFG, 8, 11⟩
def LVP_CFG_VL3W : Fld := ⟨.LVP_CFG, 12, 15⟩
def LVP_CFG_RSVCRED : Fld := ⟨.LVP_CFG, 16, 31⟩
def LVP_STATUS_STATE : Fld := ⟨.LVP_STATUS, 0, 2⟩
def LVP_STATUS_PARTNER : Fld := ⟨.LVP_STATUS, 3, 3⟩
def LVP_STATUS_BSTAT : Fld := ⟨.LVP_STATUS, 4, 5⟩
def LVP_STATUS_LOCALHOLD : Fld := ⟨.LVP_STATUS, 6, 6⟩
def LVP_STATUS_TXLANES : Fld := ⟨.LVP_STATUS, 8, 11⟩
def LVP_STATUS_RXLANES : Fld := ⟨.LVP_STATUS, 12, 15⟩
def LVP_STATUS_PEP : Fld := ⟨.LVP_STATUS, 16, 27⟩
def LVP_STATUS_PPEER : Fld := ⟨.LVP_STATUS, 28, 28⟩
def LVP_TXCUM_CUM : Fld := ⟨.LVP_TXCUM, 0, 23⟩
def LVP_TXFREED_FREED : Fld := ⟨.LVP_TXFREED, 0, 23⟩
def LVP_PCRED_CREDITS : Fld := ⟨.LVP_PCRED, 0, 15⟩
def LVP_PCRED_RSV : Fld := ⟨.LVP_PCRED, 16, 31⟩
def LVP_LINK_RTT : Fld := ⟨.LVP_LINK, 0, 15⟩
def LVP_LINK_BDELAY : Fld := ⟨.LVP_LINK, 16, 31⟩
def LVP_ERRSTAT_UNCOR : Fld := ⟨.LVP_ERRSTAT, 0, 0⟩
def LVP_ERRSTAT_LANEFAIL : Fld := ⟨.LVP_ERRSTAT, 1, 1⟩
def LVP_ERRSTAT_PABSENT : Fld := ⟨.LVP_ERRSTAT, 2, 2⟩
def LVP_ERRSTAT_SLOTDROP : Fld := ⟨.LVP_ERRSTAT, 3, 3⟩
def LVP_ERRSTAT_CRCERR : Fld := ⟨.LVP_ERRSTAT, 4, 4⟩
def LVP_ERRSTAT_AUTHERR : Fld := ⟨.LVP_ERRSTAT, 5, 5⟩
def LVP_ERRSTAT_HEAL : Fld := ⟨.LVP_ERRSTAT, 6, 6⟩
def LVP_ERRSTAT_OUTSLOT : Fld := ⟨.LVP_ERRSTAT, 7, 7⟩
def LVP_ERRSTAT_CREDOVR : Fld := ⟨.LVP_ERRSTAT, 8, 8⟩
def LVP_ERRSTAT_BMISS : Fld := ⟨.LVP_ERRSTAT, 9, 9⟩
def LVP_ERRSTAT_MACSEC : Fld := ⟨.LVP_ERRSTAT, 10, 10⟩
def LVP_KEYSTAT_TXKEYID : Fld := ⟨.LVP_KEYSTAT, 0, 0⟩
def LVP_KEYSTAT_TXVALID : Fld := ⟨.LVP_KEYSTAT, 1, 2⟩
def LVP_KEYSTAT_RXVALID : Fld := ⟨.LVP_KEYSTAT, 3, 4⟩
def LVP_TXPN_PN : Fld := ⟨.LVP_TXPN, 0, 63⟩
def LVP_CNT_COUNT : Fld := ⟨.LVP_CNT, 0, 31⟩
def LVP_SLOT_START : Fld := ⟨.LVP_SLOT, 0, 16⟩
def LVP_SLOT_PART : Fld := ⟨.LVP_SLOT, 24, 29⟩
def LVP_SLOT_DIR : Fld := ⟨.LVP_SLOT, 30, 30⟩
def LVP_SLOT_VALID : Fld := ⟨.LVP_SLOT, 31, 31⟩
def LVP_SLOT_END : Fld := ⟨.LVP_SLOT, 32, 48⟩
def LVP_SLOT_DUP : Fld := ⟨.LVP_SLOT, 49, 49⟩
def LVP_EPT_V : Fld := ⟨.LVP_EPT, 0, 0⟩
def LVP_EPT_PORTA : Fld := ⟨.LVP_EPT, 1, 3⟩
def LVP_EPT_PORTB : Fld := ⟨.LVP_EPT, 4, 6⟩
def LVP_EPT_PKGB : Fld := ⟨.LVP_EPT, 7, 7⟩
def LVP_EPT_ENC : Fld := ⟨.LVP_EPT, 8, 8⟩
def LVP_EPT_ETH : Fld := ⟨.LVP_EPT, 9, 9⟩
def LVP_EPT_PARENT : Fld := ⟨.LVP_EPT, 16, 27⟩
/-! Fields of the registers of "Sluice, flows and virtual instances". -/
def SLC_CFG_MGRPART : Fld := ⟨.SLC_CFG, 0, 5⟩
def SLC_CFG_MGREN : Fld := ⟨.SLC_CFG, 6, 6⟩
def SLC_FTBASE_BASE : Fld := ⟨.SLC_FTBASE, 27, 47⟩
def SLC_IDB_INST : Fld := ⟨.SLC_IDB, 0, 7⟩
def SLC_IDB_QUEUE : Fld := ⟨.SLC_IDB, 8, 10⟩
def SLC_IDB_TAIL : Fld := ⟨.SLC_IDB, 16, 31⟩
def SLC_FCSTAT_VALID : Fld := ⟨.SLC_FCSTAT, 0, 16⟩
def SLC_FCSTAT_PINNED : Fld := ⟨.SLC_FCSTAT, 17, 31⟩
def SLC_MCMD_OP : Fld := ⟨.SLC_MCMD, 0, 7⟩
def SLC_MCMD_ARG : Fld := ⟨.SLC_MCMD, 8, 27⟩
def SLC_MSTAT_BUSY : Fld := ⟨.SLC_MSTAT, 0, 0⟩
def SLC_MSTAT_DONE : Fld := ⟨.SLC_MSTAT, 1, 1⟩
def SLC_MSTAT_ERR : Fld := ⟨.SLC_MSTAT, 2, 2⟩
def SLC_MSTAT_BUSYWR : Fld := ⟨.SLC_MSTAT, 3, 3⟩
def SLC_MSTAT_ERRCODE : Fld := ⟨.SLC_MSTAT, 4, 7⟩
def SLC_MSTAT_OWNER : Fld := ⟨.SLC_MSTAT, 16, 24⟩
def SLC_MRES_INDEX : Fld := ⟨.SLC_MRES, 0, 19⟩
def SLC_MRES_FOUND : Fld := ⟨.SLC_MRES, 31, 31⟩
def SLC_MDATA_DATA : Fld := ⟨.SLC_MDATA, 0, 63⟩
def SLC_ISTAT_STATE : Fld := ⟨.SLC_ISTAT, 0, 2⟩
def SLC_ISTAT_LOGON : Fld := ⟨.SLC_ISTAT, 3, 3⟩
def SLC_ISTAT_LOGSWAP : Fld := ⟨.SLC_ISTAT, 4, 4⟩
def SLC_ISTAT_LOGOVER : Fld := ⟨.SLC_ISTAT, 5, 5⟩
def SLC_ISTAT_IOTERR : Fld := ⟨.SLC_ISTAT, 6, 6⟩
def SLC_ISTAT_QERR : Fld := ⟨.SLC_ISTAT, 7, 7⟩
def SLC_ISTAT_SHAREPEND : Fld := ⟨.SLC_ISTAT, 8, 8⟩
def SLC_ISTAT_SHARE : Fld := ⟨.SLC_ISTAT, 16, 26⟩
def SLC_ISTAT_OCC : Fld := ⟨.SLC_ISTAT, 32, 46⟩
def HOP_LOCK_LOCK : Fld := ⟨.HOP_LOCK, 0, 47⟩
def HOP_DIS_DIS : Fld := ⟨.HOP_DIS, 0, 47⟩
def HOP_DIS_COUNT : Fld := ⟨.HOP_DIS, 48, 55⟩
def HOP_ERRCFG_THRESH : Fld := ⟨.HOP_ERRCFG, 0, 5⟩
def HOP_ERRCFG_DECAY : Fld := ⟨.HOP_ERRCFG, 16, 31⟩
def HOP_MNT_CTL_FIRST : Fld := ⟨.HOP_MNT_CTL, 0, 7⟩
def HOP_MNT_CTL_LAST : Fld := ⟨.HOP_MNT_CTL, 8, 15⟩
def HOP_MNT_CTL_OP : Fld := ⟨.HOP_MNT_CTL, 16, 17⟩
def HOP_MNT_CTL_START : Fld := ⟨.HOP_MNT_CTL, 18, 18⟩
def HOP_MNT_STATUS_BUSY : Fld := ⟨.HOP_MNT_STATUS, 0, 0⟩
def HOP_MNT_STATUS_DONE : Fld := ⟨.HOP_MNT_STATUS, 1, 1⟩
def HOP_MNT_STATUS_ERR : Fld := ⟨.HOP_MNT_STATUS, 2, 2⟩
def HOP_MNT_STATUS_BUSYWR : Fld := ⟨.HOP_MNT_STATUS, 3, 3⟩
def HOP_MNT_STATUS_ERRCODE : Fld := ⟨.HOP_MNT_STATUS, 4, 7⟩
def HOP_MNT_STATUS_OWNER : Fld := ⟨.HOP_MNT_STATUS, 16, 24⟩
def HOP_EMASK_MASK : Fld := ⟨.HOP_EMASK, 0, 47⟩
/-! Fields of the registers of "PCI Express port". -/
def PCI_CFG_BIF : Fld := ⟨.PCI_CFG, 0, 1⟩
def PCI_CFG_EP : Fld := ⟨.PCI_CFG, 2, 2⟩
def PCI_SSTAT_STATE : Fld := ⟨.PCI_SSTAT, 0, 1⟩
def PCI_SSTAT_RATE : Fld := ⟨.PCI_SSTAT, 2, 4⟩
def PCI_SSTAT_WIDTH : Fld := ⟨.PCI_SSTAT, 5, 9⟩
def PCI_SSTAT_FLIT : Fld := ⟨.PCI_SSTAT, 10, 10⟩
def PCI_SSTAT_RELLOST : Fld := ⟨.PCI_SSTAT, 11, 11⟩
def PCI_SSTAT_LTR : Fld := ⟨.PCI_SSTAT, 16, 31⟩
def PCI_SCTL_RELEASE : Fld := ⟨.PCI_SCTL, 0, 0⟩
def PCI_SCTL_ECAMEN : Fld := ⟨.PCI_SCTL, 1, 1⟩
def PCI_SERR_CORR : Fld := ⟨.PCI_SERR, 0, 7⟩
def PCI_SERR_LATECNT : Fld := ⟨.PCI_SERR, 8, 15⟩
def PCI_SERR_QTAGS : Fld := ⟨.PCI_SERR, 16, 27⟩
def PCI_CTO_T : Fld := ⟨.PCI_CTO, 0, 5⟩
def PCI_CTO_DROPPED : Fld := ⟨.PCI_CTO, 16, 31⟩
def PCI_OBOFF_OFF : Fld := ⟨.PCI_OBOFF, 36, 63⟩
def PCI_IWCTL_COMMIT : Fld := ⟨.PCI_IWCTL, 0, 0⟩
def PCI_IWSTAT_BUSY : Fld := ⟨.PCI_IWSTAT, 0, 0⟩
def PCI_IWSTAT_DONE : Fld := ⟨.PCI_IWSTAT, 1, 1⟩
def PCI_IWSTAT_ERR : Fld := ⟨.PCI_IWSTAT, 2, 2⟩
def PCI_IWSTAT_BUSYWR : Fld := ⟨.PCI_IWSTAT, 3, 3⟩
def PCI_IWSTAT_ERRCODE : Fld := ⟨.PCI_IWSTAT, 4, 6⟩
def PCI_IWSTAT_OWNER : Fld := ⟨.PCI_IWSTAT, 8, 16⟩
def PCI_IWSTAT_OLDPEND : Fld := ⟨.PCI_IWSTAT, 18, 31⟩
def PCI_IWS0_V : Fld := ⟨.PCI_IWS0, 0, 0⟩
def PCI_IWS0_R : Fld := ⟨.PCI_IWS0, 1, 1⟩
def PCI_IWS0_W : Fld := ⟨.PCI_IWS0, 2, 2⟩
def PCI_IWS0_SIZE : Fld := ⟨.PCI_IWS0, 4, 9⟩
def PCI_IWS0_OFFSET : Fld := ⟨.PCI_IWS0, 12, 47⟩
def PCI_IWS0_FUNC : Fld := ⟨.PCI_IWS0, 48, 55⟩
def PCI_IWS1_PHYS : Fld := ⟨.PCI_IWS1, 12, 47⟩
def PCI_IWA_WORD : Fld := ⟨.PCI_IWA, 0, 63⟩
def PCI_HINT_VEC : Fld := ⟨.PCI_HINT, 0, 10⟩
/-! Fields of the registers of "Governor and mailboxes". -/
def GOV_STATUS_LOCKOK : Fld := ⟨.GOV_STATUS, 0, 0⟩
def GOV_STATUS_REFOK : Fld := ⟨.GOV_STATUS, 1, 1⟩
def GOV_STATUS_SBUSOK : Fld := ⟨.GOV_STATUS, 2, 2⟩
def GOV_STATUS_MRWEDGE : Fld := ⟨.GOV_STATUS, 3, 3⟩
def GOV_STATUS_FOUTA : Fld := ⟨.GOV_STATUS, 4, 4⟩
def GOV_STATUS_FOUTB : Fld := ⟨.GOV_STATUS, 5, 5⟩
def GOV_STATUS_MIRSTALE : Fld := ⟨.GOV_STATUS, 6, 6⟩
def GOV_STATUS_SRAMCE : Fld := ⟨.GOV_STATUS, 16, 31⟩
def GOV_HOLDREQ_KEY : Fld := ⟨.GOV_HOLDREQ, 0, 15⟩
def GOV_FLOGIDX_NEXT : Fld := ⟨.GOV_FLOGIDX, 0, 9⟩
def GOV_FLOGIDX_WRAPS : Fld := ⟨.GOV_FLOGIDX, 10, 31⟩
def GOV_MIRAGE_AGE : Fld := ⟨.GOV_MIRAGE, 0, 31⟩
def GOV_STICKY_CODE : Fld := ⟨.GOV_STICKY, 0, 15⟩
def GOV_STICKY_VALID : Fld := ⟨.GOV_STICKY, 16, 16⟩
def MBX_AGENT_AGENT : Fld := ⟨.MBX_AGENT, 0, 6⟩
def MBX_AGENT_SECURE : Fld := ⟨.MBX_AGENT, 8, 8⟩
def MBX_AGENT_RESTRICTED : Fld := ⟨.MBX_AGENT, 9, 9⟩
def MBX_LOCK_MID : Fld := ⟨.MBX_LOCK, 0, 8⟩
def MBX_LOCK_HELD : Fld := ⟨.MBX_LOCK, 15, 15⟩
def MBX_LOCKPEEK_MID : Fld := ⟨.MBX_LOCKPEEK, 0, 8⟩
def MBX_LOCKPEEK_BUSY : Fld := ⟨.MBX_LOCKPEEK, 31, 31⟩
def MBX_LOCKFRC_FREE : Fld := ⟨.MBX_LOCKFRC, 0, 0⟩
def MBX_ERR_POSTREF : Fld := ⟨.MBX_ERR, 0, 0⟩
def MBX_ERR_ACCREF : Fld := ⟨.MBX_ERR, 1, 1⟩
def MBX_ERR_LOCKREF : Fld := ⟨.MBX_ERR, 2, 2⟩
def MBX_ERR_LASTMID : Fld := ⟨.MBX_ERR, 8, 16⟩
def MBX_ERRADDR_OFFSET : Fld := ⟨.MBX_ERRADDR, 0, 20⟩
def MBX_BIND_V : Fld := ⟨.MBX_BIND, 0, 0⟩
def MBX_BIND_SET : Fld := ⟨.MBX_BIND, 1, 1⟩
def MBX_BIND_RECV : Fld := ⟨.MBX_BIND, 8, 14⟩
def MBX_BIND_SEND : Fld := ⟨.MBX_BIND, 16, 22⟩
/-! Fields of the registers of "Trust, identity and attestation". -/
def GOV_MEAS_BYTES : Fld := ⟨.GOV_MEAS, 0, 63⟩
def DBG_AUTHCTL_START : Fld := ⟨.DBG_AUTHCTL, 0, 0⟩
def DBG_AUTHCTL_SUBMIT : Fld := ⟨.DBG_AUTHCTL, 1, 1⟩
def DBG_AUTHCTL_END : Fld := ⟨.DBG_AUTHCTL, 2, 2⟩
def DBG_AUTHSTAT_STATE : Fld := ⟨.DBG_AUTHSTAT, 0, 1⟩
def DBG_AUTHSTAT_FAIL : Fld := ⟨.DBG_AUTHSTAT, 2, 2⟩
def DBG_AUTHSTAT_SCOPE : Fld := ⟨.DBG_AUTHSTAT, 3, 7⟩
def DBG_AUTHSTAT_LOCKSEC : Fld := ⟨.DBG_AUTHSTAT, 16, 31⟩
def DBG_CHAL_BYTES : Fld := ⟨.DBG_CHAL, 0, 63⟩
def DBG_RESP_DATA : Fld := ⟨.DBG_RESP, 0, 31⟩
/-! Fields of the registers of "Power, reset and start-up". -/
def PWR_STATUS_PGCORE : Fld := ⟨.PWR_STATUS, 0, 0⟩
def PWR_STATUS_PGMEM : Fld := ⟨.PWR_STATUS, 1, 1⟩
def PWR_STATUS_PFAIL : Fld := ⟨.PWR_STATUS, 2, 2⟩
def PWR_STATUS_VRALERT : Fld := ⟨.PWR_STATUS, 3, 3⟩
def PWR_STATUS_THRLVL : Fld := ⟨.PWR_STATUS, 4, 6⟩
def PWR_STATUS_TJMAX : Fld := ⟨.PWR_STATUS, 8, 15⟩
def PWR_STATUS_TJSENS : Fld := ⟨.PWR_STATUS, 16, 20⟩
def PWR_PLAN_BASE : Fld := ⟨.PWR_PLAN, 0, 2⟩
def PWR_PLAN_BOOST : Fld := ⟨.PWR_PLAN, 4, 6⟩
def PWR_PLAN_BOOSTMASK : Fld := ⟨.PWR_PLAN, 16, 31⟩
def PWR_TEMP_TEMP : Fld := ⟨.PWR_TEMP, 0, 11⟩
def PWR_TEMP_VALID : Fld := ⟨.PWR_TEMP, 12, 12⟩
def PWR_TEMP_FAILED : Fld := ⟨.PWR_TEMP, 13, 13⟩
def PWR_PKGE_UJ : Fld := ⟨.PWR_PKGE, 0, 31⟩
def PWR_RAILE_UJ : Fld := ⟨.PWR_RAILE, 0, 31⟩
def PWR_PEN_UJ : Fld := ⟨.PWR_PEN, 0, 31⟩
def PWR_PCUM_UJ : Fld := ⟨.PWR_PCUM, 0, 63⟩
def PWR_THRCNT_TURNS : Fld := ⟨.PWR_THRCNT, 0, 31⟩
def PWR_WAKECNT_COUNT : Fld := ⟨.PWR_WAKECNT, 0, 15⟩
/-! Fields of the registers of "Fault codes and reactions". -/
def GOV_HOLDCAUSE_CODE : Fld := ⟨.GOV_HOLDCAUSE, 0, 15⟩
def GOV_HOLDCAUSE_VALID : Fld := ⟨.GOV_HOLDCAUSE, 16, 16⟩
def GOV_HOLDCAUSE_REQUEST : Fld := ⟨.GOV_HOLDCAUSE, 17, 17⟩
def GOV_HOLDCAUSE_FATAL : Fld := ⟨.GOV_HOLDCAUSE, 18, 18⟩
def GOV_FOUTCTL_TEST : Fld := ⟨.GOV_FOUTCTL, 0, 0⟩

end Sys2Proof.Machine
end

