-- ==== Sys2Proof/Machine/State.lean ====
section
/-! DEFINITION. The state of the block: everything the spec gives it, as plain data. Registers live in the register file, keyed by
physical address; what the spec keeps outside registers lives in the structures below. Indexed collections are sparse canonical
maps (SMap): an unlisted key reads as the collection's reset value. -/

namespace Sys2Proof.Machine

/-! ## Package -/

/-- The device states of R28; OFF is state 0 of no register. -/
inductive DevState where
  | off | boot | selftest | configWait | ready | run | degraded | safeHold | service | shutdown
deriving DecidableEq, Repr

/-- One fault-log entry (R525): TIME, TURN, CODE, SOURCE, ADDR, DETAIL. -/
structure FEntry where
  time : Nat := 0
  turn : Nat := 0
  code : Nat := 0
  src : Nat := 0
  addr : Nat := 0
  detail : Nat := 0
deriving DecidableEq, Repr

/-- The fault log and FAULT_OUT (R525-R531, R535). `low` counts the class 0 and 1 entries of this turn (R527); `once` names the
once-per-turn limits used up in this turn; `degr` holds the turns of the RUN to DEGRADED transitions (R535); `missA`, `missB` count
consecutive readback differences (R531); `fatal` says a class 5 fault holds FAULT_OUT until power-on reset. -/
structure FLog where
  ring : List (Nat × FEntry) := []
  first : List FEntry := []
  counts : List (Nat × Nat) := []
  low : Nat := 0
  once : List Nat := []
  degr : List Nat := []
  outA : Bool := true
  outB : Bool := true
  missA : Nat := 0
  missB : Nat := 0
  fatal : Bool := false
deriving DecidableEq, Repr

/-- One OTP key slot (R463-R465): digest of the key, programmed, revoked. -/
structure KeySlot where
  digest : Nat := 0
  programmed : Bool := false
  revoked : Bool := false
deriving DecidableEq, Repr

/-- OTP fuses and board straps: what R13 calls "fuse" and "strap", the factory calibration of R459 and the device identity. -/
structure Otp where
  fused : Nat := 0
  ordering : Bytes := []
  vendor : Nat := 0
  product : Nat := 0x4E12
  revision : Nat := 0
  serial : Nat := 0
  sigPolicy : Nat := 0
  entity : Bytes := []
  slots : List (Nat × KeySlot) := []
  consent : Bool := false
  fwCount : Nat := 0
  cal : List (Nat × Int) := []
  pciBif : Nat := 0
  pciEp : Bool := false
  nid : Nat := 0
  pkg : Nat := 0
  secret : Bytes := []
  certDigest : Bytes := []
deriving DecidableEq, Repr

/-- Pins and supplies (R491-R499, R515-R519, R545-R547): the enables the governor drives, the last regulator frame of each sail,
THERMTRIP_N, PCI_PERSTO_N, TRST_N, the clocks lost (bit per RefClk), the PLLs out of lock, standby. -/
structure Power where
  enCore : Bool := true
  enMem : Bool := false
  vren : Bool := false
  frames : List (Nat × Nat) := []
  tripped : Bool := false
  persto : Nat := 0
  trst : Bool := true
  clkLost : Nat := 0
  pllLost : Nat := 0
  standby : Bool := false
  shutMode : Nat := 0
  shutStep : Nat := 0
  clear : Nat := 0
  over4 : Nat := 0
  over4Logged : Bool := false
  tmax : List (Nat × Int) := []
  crit : List Nat := []
  rem : List (Nat × Nat) := []
  charge : List (Nat × Nat) := []
deriving DecidableEq, Repr

/-! ## Turn and event inputs -/

/-- One window write that the sluice has queued (R53, R358): the turn of its tag, partition, replica, flow, address and bytes. -/
structure WinWrite where
  turn : Nat
  part : Nat
  repl : Nat
  flow : Nat
  addr : Nat
  bytes : Bytes
deriving DecidableEq, Repr

/-- The turn unit and the master timer beyond the TRN registers. Phases and the increment are in units of 2^-32 ns (R41):
`phaseA`, `phaseB` the two timers since the boundary, `incr` the increment per governor cycle. `zeroNext`: the next boundary numbers
turn 0 (R39). `stepLen`: length in ns of the stepped turn under way, 0 for none (R44). `refValid`, `refOnce`: a reference has been
taken, and the time base has been set from it since the reset (R561). `rejects`: offsets of the last consecutive rejected edges (R46).
`holdTurns`: turns in holdover; `limitRaised`: 0x3104 of this holdover raised. `peerTurn`, `peerNs`: number in the last beacon of the peer
turn master, and the time base in ns at which its turn began. `refDelta`: what the last reference adds to the time base at a step (R561), in ns. `tagNext`: past the input cut-off, arrivals are tagged to
the next turn (R53). `reported`: step 7 of R52 is done. `writes`: window writes queued. `tsOut`, `ppsOut`: the output pins (R47).
`loadNext`: TRN fields of a switch between boundaries wait for the next boundary (R51). `imgNow`: an image switched at the boundary
that began this turn. -/
structure TurnUnit where
  phaseA : Nat := 0
  phaseB : Nat := 0
  incr : Nat := 10737418240
  zeroNext : Bool := false
  stepLen : Nat := 0
  refValid : Bool := false
  refOnce : Bool := false
  rejects : List Int := []
  holdTurns : Nat := 0
  limitRaised : Bool := false
  peerTurn : Nat := 0
  peerNs : Nat := 0
  refDelta : Int := 0
  tagNext : Bool := false
  reported : Bool := false
  timedOut : Bool := false
  writes : List WinWrite := []
  tsOut : Bool := false
  ppsOut : Bool := false
  loadNext : Bool := false
  imgNow : Bool := false
deriving DecidableEq, Repr

/-- One event input beyond its registers (R62-R67): the synchronised pin, the phase of its last edge, whether the filter is timing a
change, the running count and the timestamp of the turn's first event, boundaries at the active level, and the crossing to the
governor: busy, and the one event held behind it with the MSI address and identity of its turn (R65, R68). -/
structure EvtIn where
  pin : Bool := false
  edgeNs : Nat := 0
  timing : Bool := false
  count : Nat := 0
  first : Nat := 0
  stuck : Nat := 0
  busy : Bool := false
  held : Option (Nat × Nat) := none
deriving DecidableEq, Repr

/-! ## Sails -/

/-- A sail beyond its registers: error counts of the ways (slice × 16 + way, R99), boundaries counted toward DECAY, the disabled-way map
in the governor's SRAM (R102), the OP 0 sequence (R79: 0 none, 1 cleaning, 2 clocks stopped) and whether a fence came meanwhile, the lines
whose pending fill the maintenance engine waits for (R92), the lines that CLEANINV has still to evict, the line that LOCKLOAD visits next, whether a fill of the operation timed out (R96),
the lines that leave the L3 otherwise, as their evictions find room (R79, R99, R203), the
readmission's steps done (waiting for the boundary) or its self-test failed, the sail's own view of the hub: silent (R241), the last
BOUNDARY taken (65536: none) with its preload in 100 ps (R243), and the BINVs whose acknowledgement waits for accesses in flight (R129: source,
number, harts). -/
structure Sail where
  wayErr : List (Nat × Nat) := []
  decay : Nat := 0
  disMap : List Nat := []
  op0 : Nat := 0
  op0Fence : Bool := false
  mntWait : List Nat := []
  mntLines : List Nat := []
  mntAt : Nat := 0
  mntFail : Bool := false
  leaving : List Nat := []
  readmitDone : Bool := false
  testFail : Bool := false
  silent : Bool := false
  bndTurn : Nat := 65536
  bndPreload : Nat := 0
  acks : List (Nat × Nat × List Nat) := []
deriving DecidableEq, Repr

/-! ## Harts and translation -/

/-- A leaf translation that a TLB holds (R118): V, the stages it went through (`s1` stage S or VS, `s2` stage G; both are combined), ASID, VMID.
Page numbers are of 4 KiB pages; `size` is the number of them. Rights as in the leaf PTE: bit 0 R, 1 W, 2 X, 3 U of the first stage,
`grights` the same of stage G; `d` and `gd` the D bits of the two leaves; their PBMT; the key. -/
structure TlbEnt where
  v : Bool := false
  s1 : Bool := true
  s2 : Bool := false
  asid : Nat := 0
  vmid : Nat := 0
  glob : Bool := false
  vpn : Nat := 0
  size : Nat := 1
  ppn : Nat := 0
  gpn : Nat := 0
  rights : Nat := 0
  grights : Nat := 15
  d : Bool := true
  gd : Bool := true
  pbmt : Nat := 0
  gpbmt : Nat := 0
  key : Nat := 0
deriving DecidableEq, Repr

/-- A non-leaf PTE that a paging-structure cache holds (R118): its tags, its level, the part of the address that selects it, and the address of the
table that it points to. -/
structure PscEnt where
  v : Bool := false
  s2 : Bool := false
  asid : Nat := 0
  vmid : Nat := 0
  glob : Bool := false
  lvl : Nat
  tag : Nat
  base : Nat
deriving DecidableEq, Repr

/-- A line in a private cache of a core (R80). Its data is that of the sail's L3, which includes it. -/
structure PLine where
  line : Nat
  dirty : Bool := false
deriving DecidableEq, Repr

/-- A trigger of a hart (R72): tdata1 and tdata2 as Sdtrig lays them out, and whether an icount or trap trigger has fired and waits. -/
structure Trig where
  d1 : Nat := 0
  d2 : Nat := 0
  pend : Bool := false
deriving DecidableEq, Repr

/-- An interrupt file (R72, R76): pending and enabled identities (bit i for identity i), eidelivery, eithreshold. -/
structure IFile where
  pend : Nat := 0
  en : Nat := 0
  delivery : Nat := 0
  thresh : Nat := 0
deriving DecidableEq, Repr

/-- A broadcast that a hart has begun (R128, R129): its number, kind, address, ASID, VMID, domain, the harts that have not acknowledged, and
whether the fence waits for it (SFENCE and HFENCE) or the next SFENCE.INVAL.IR does. -/
structure Bcast where
  id : Nat
  kind : FenceKind
  addr : Option Nat := none
  asid : Option Nat := none
  vmid : Option Nat := none
  domain : Nat := 0
  targets : List Nat := []
  waits : Bool := true
deriving DecidableEq, Repr

/-- An I/O access that a hart awaits: physical and virtual address, width, for a load the register to write (numbered as in LOAD) with sign extension, and the
TLB entry that translated it. -/
structure IoWait where
  addr : Nat
  width : Nat
  va : Nat := 0
  dst : Option (Nat × Bool) := none
  ent : Option TlbEnt := none
deriving DecidableEq, Repr

/-- A hart (key: its mhartid). `run`: clocked and executing; else halted. `fault`: stopped fail-stop. `pin`: partition, replica and hart
index (R274, R278). `sealed`: it has written turnseal in this activation. `x`, `f`: registers; `v`: vector registers of 256 bits. `csr`:
the CSRs that the spec names and those of the ISA, by number; an unlisted one reads as at reset. `itlb`, `dtlb`, `tlb`: L1 ITLB, L1 DTLB and L2 TLB;
`psc`, `gpsc`: the paging-structure caches of stages S and VS and of stage G (R118). `l1i`, `l1d`, `l2`: the private caches (R80). `resv`: the
reservation of LR. `bcasts`: broadcasts outstanding. `dbg`: halted by a debugger. `opStop`: stopped at OP 0 while running. `mtip`, `stip`,
`vstip`: timer compares reached. `io`: an I/O access awaited. `trig`: triggers by number. -/
structure Hart where
  run : Bool := false
  fault : Bool := false
  dbg : Bool := false
  opStop : Bool := false
  priv : Priv := .m
  pc : Nat := 0
  pin : Option (Nat × Nat × Nat) := none
  sealed : Bool := false
  x : List (Nat × Nat) := []
  f : List (Nat × Nat) := []
  v : List (Nat × Nat) := []
  csr : List (Nat × Nat) := []
  itlb : List TlbEnt := []
  dtlb : List TlbEnt := []
  tlb : List TlbEnt := []
  psc : List PscEnt := []
  gpsc : List PscEnt := []
  l1i : List PLine := []
  l1d : List PLine := []
  l2 : List PLine := []
  resv : Option Nat := none
  bcasts : List Bcast := []
  nextB : Nat := 0
  mtip : Bool := false
  stip : Bool := false
  vstip : Bool := false
  io : Option IoWait := none
  trig : List (Nat × Trig) := []
deriving DecidableEq, Repr

/-- A translation that the IOT caches (R134): device ID, GSCID, PSCID, page of the request, guest page, physical page, rights (bit 0 R, 1 W, 2 X;
W only where the D bits allow a write), PBMT, global, and whether an MSI PTE gave it. -/
structure IotAtc where
  dev : Nat
  gscid : Option Nat
  pscid : Nat
  vpn : Nat
  gpn : Nat
  ppn : Nat
  rights : Nat
  pbmt : Nat := 0
  glob : Bool := false
  msi : Bool := false
deriving DecidableEq, Repr

/-- The hub translation unit beyond its registers (R134, R137, R138): translations cached, device contexts cached (device ID and the 64 bytes
as a number), whether an IOFENCE.C waits at the head of the command queue, and whether 0x29E2 was logged since software cleared the
overflow bit. -/
structure Iot where
  atc : List IotAtc := []
  ddc : List (Nat × Nat) := []
  fence : Bool := false
  ovfLogged : Bool := false
deriving DecidableEq, Repr

/-! ## Millstones -/

/-- A queue of a binding (R152-R155): free-running counts, the flags of MST_PQSTATj, and how many commands after HEAD have started. -/
structure MstQ where
  head : Nat := 0
  tail : Nat := 0
  stopped : Bool := false
  err : Bool := false
  code : Nat := 0
  started : Nat := 0
deriving DecidableEq, Repr

/-- A command that runs: binding × 2 + queue, its index, its eight words, next part of a block to hand to a tile, parts in all, parts done
(a block of more than 4,096 cycles is taken in parts), and the error met during execution (0: none). -/
structure MstRun where
  q : Nat
  idx : Nat
  words : List Nat
  next : Nat := 0
  blocks : Nat := 0
  fin : Nat := 0
  err : Nat := 0
deriving DecidableEq, Repr

/-- A millstone beyond its registers: queues (key binding × 2 + j), commands running, the work of each tile (queue, index, part), the last
blocks of tiles for commands that have ended (binding, input type, cycles), the last
binding served under rule 2 of R162, the queue served last of each binding, the block boundaries counted modulo 4 (R511), and
residue corrections and commands completed since power-on reset (R171). -/
structure Mst where
  qs : List (Nat × MstQ) := []
  runs : List MstRun := []
  tiles : List (Nat × (Nat × Nat × Nat)) := []
  spent : List (Nat × (Nat × Nat × Nat)) := []
  rr : Nat := 15
  alt : List (Nat × Nat) := []
  bnd : Nat := 0
  fixes : Nat := 0
  done : Nat := 0
deriving DecidableEq, Repr

/-- Scratch of all sails: bytes (sail × 2^23 + offset), poison bits and uncorrectable lines (sail × 2^17 + line). -/
structure Scratch where
  bytes : List Host.Cell := []
  poison : List (Nat × Bool) := []
  bad : List (Nat × Bool) := []
deriving DecidableEq, Repr

/-! ## Coherence -/


/-- The states of R174. -/
abbrev LSt := LineSt

/-- The states of a snoop-filter entry: those of R174 and LOST-DIRTY (R205). -/
inductive FSt where | i | s | e | o | m | lostO | lostM
deriving DecidableEq, Repr

/-- A line in an L3 (key: line address PA[47:6] × 16 + sail): its state, way, poison, 64 bytes as a number (byte 0 lowest), the error
flag of R82, and whether the Comp of its DirtyNote is still awaited (R178). -/
structure L3Line where
  st : LSt := .i
  way : Nat := 0
  poison : Bool := false
  data : Nat := 0
  noteOpen : Bool := false
deriving DecidableEq, Repr

/-- A writeback-buffer entry of a sail (R179): a dirty eviction keeps its data. -/
structure WbEnt where
  sail : Nat
  line : Nat
  dirty : Bool
  data : Nat := 0
  poison : Bool := false
deriving DecidableEq, Repr

/-- A snoop-filter entry (key as L3Line): the state that the filter shows and the L3 way (R191). -/
structure FiltEnt where
  st : FSt := .i
  way : Nat := 0
deriving DecidableEq, Repr

/-- A directory-cache entry of DIRECTORY mode or of a rebuilding bank (R193-R195, R199): the states of the sails that hold the line
(PRESENT and OWNER), and the count of its last use. -/
structure DirEnt where
  line : Nat
  sts : List (Nat × FSt) := []
  last : Nat := 0
deriving DecidableEq, Repr

/-- The snoops of the table of coherence messages. -/
inductive SnpKind where | shared | unique | once | inv
deriving DecidableEq, Repr

/-- A request at a home, open or waiting (R176-R200): requester, fields of R178, attempt count, data received so far, the sails whose
SnpResp or SnpData is awaited, the states answered, data from a snoop (with the EVICTING mark of R190). `full`: every ACTIVE sail was
snooped (R199). `stuck`: the grant waits for a way (R185). `asUnique`: an Upgrade served as RdUnique. `dirEvict`: the eviction of a
directory entry (R195). `behind`: waits for that line's directory eviction. `gotData`: sails whose SnpData came before their
SnpResp. `snp`: the snoop sent; `snooped`: some snoop was sent; `retried`: it follows a Retry. `enterNs`: when the request entered the hub flume (R202).
`dead`: its requester is lost (R206); `dropped`: its requester has dropped the write (R203); `whole`: of an agent inside the package, taken whole;
`scrub`: a dresser's request, with its controller (R268). -/
structure Txn where
  mid : Nat
  part : Nat
  txid : Nat
  kind : ReqKind
  line : Nat
  way : Nat := 0
  tc3 : Bool := false
  attempt : Nat := 0
  openedNs : Nat := 0
  enterNs : Nat := 0
  priv : Bool := false
  wdata : Option Nat := none
  wmask : Nat := 0
  wpoison : Bool := false
  awaitResp : List Nat := []
  awaitData : List Nat := []
  answers : List (Nat × LSt) := []
  sdata : Option Nat := none
  spoison : Bool := false
  evicting : Bool := false
  hadHolder : Bool := false
  full : Bool := false
  gotData : List Nat := []
  snp : Option SnpKind := none
  snooped : Bool := false
  retried : Bool := false
  stuck : Bool := false
  asUnique : Bool := false
  dirEvict : Bool := false
  behind : Option Nat := none
  dead : Bool := false
  dropped : Bool := false
  whole : Bool := false
  scrub : Option Nat := none
deriving DecidableEq, Repr

/-- A request as its issuer keeps it until the home's completion (R178, R196, R203). `mnt`: the maintenance engine's; `pf`: a prefetch; `core`: the hart whose miss it
serves, and whether that is a fetch (R80). -/
structure OpenReq where
  mid : Nat
  part : Nat
  txid : Nat
  kind : ReqKind
  line : Nat
  way : Nat := 0
  tc3 : Bool := false
  attempt : Nat := 0
  timedOut : Bool := false
  backoff : Bool := false
  mnt : Bool := false
  pf : Bool := false
  core : Option (Nat × Bool) := none
deriving DecidableEq, Repr

/-- A filter bank that is rebuilding (R199): the next set to read back, and the sails whose TagResp for it is awaited. -/
structure Rebuild where
  bank : Nat
  set : Nat := 0
  await : List Nat := []
deriving DecidableEq, Repr

/-- Coherence state of the package: L3 lines, writeback buffers, snoop filter, directory entries, open and waiting transactions,
issuers' open requests, starving records (slice × 2048 + set, master ID, transaction ID), rebuilding banks, use counter, late responses, per slice the
longest TC3 read and the count over its bound of this turn (R202), requests that entered the hub flume and have not reached their home (master ID, line
address, time in ns), and what the last RdOnce taken whole read: data and poison. -/
structure Coh where
  l3 : List (Nat × L3Line) := []
  wb : List WbEnt := []
  filt : List (Nat × FiltEnt) := []
  dir : List DirEnt := []
  txns : List Txn := []
  waiting : List Txn := []
  reqs : List OpenReq := []
  starving : List (Nat × Nat × Nat) := []
  rebuild : List Rebuild := []
  uses : Nat := 0
  late : Nat := 0
  tc3 : List (Nat × (Nat × Nat)) := []
  entered : List (Nat × Nat × Nat) := []
  got : Option (Nat × Bool) := none
deriving DecidableEq, Repr

/-! ## Memory controllers -/

/-- A merge-buffer entry (R262): controller, local line, byte mask, whether it is a check line, the code, the address of a data line, time of its making.
Its bytes are already merged into every read (R263). -/
structure MergeEnt where
  mc : Nat
  line : Nat
  mask : Nat
  check : Bool := false
  code : Nat
  pa : Nat := 0
  bornNs : Nat := 0
deriving DecidableEq, Repr

/-- A token bucket of R264 in bytes ×10, with the time of its last fill in ns. -/
structure Bucket where
  level : Nat := 40960
  stamp : Nat := 0
deriving DecidableEq, Repr

/-- A row of the 256-entry row tracker (R270); count 0 marks one that it has evicted. -/
structure RowCnt where
  key : Nat
  count : Nat
deriving DecidableEq, Repr

/-- DRAM beyond the MC registers. Memory bytes lie in Block.mem at controller × 2^35 + local address. `poison`: copies (controller ×
2^29 + local line) whose check bytes hold the poison form; `errs`: wrong symbols (Code L: bits) that a copy holds; `merge`: merge
buffers, oldest first; `checks`: the check lines that each controller caches; `buckets`: key controller × 64 + partition; `rows`: row
trackers; `elog`: entries logged this turn;
`dresserLines`: lines the dresser read this turn; `passTurns`: turns of the running pass; `heldRegions`: regions whose requests are
held for an owner change (R258); `cleans`: region and sail of each CLEANINV of it that the governor is still to start, `cleaning`: that it has started;
`initPending`: regions to be initialised; `caps`: capacities found at training, in GiB. -/
structure MemSys where
  poison : List (Nat × Bool) := []
  errs : List (Nat × Nat) := []
  merge : List MergeEnt := []
  checks : List (Nat × List Nat) := []
  buckets : List (Nat × Bucket) := []
  rows : List (Nat × List RowCnt) := []
  elog : List (Nat × Nat) := []
  dresserLines : List (Nat × Nat) := []
  passTurns : List (Nat × Nat) := []
  heldRegions : List Nat := []
  cleans : List (Nat × Nat) := []
  cleaning : List (Nat × Nat) := []
  initPending : List Nat := []
  caps : List (Nat × Nat) := []
deriving DecidableEq, Repr

/-! ## Partitions and the bolter -/

/-- A digest that an engine made (R284): turn of the activation, 32 bytes, POISONED. -/
structure Digest where
  turn : Nat := 0
  poisoned : Bool := false
  bytes : Bytes := []
deriving DecidableEq, Repr

/-- Why a replica is behind (R291): a mark missed, an abandon or a halt at the decision; or a POISONED digest or dissent known at the decision. -/
inductive Behind where | mark | decision
deriving DecidableEq, Repr

/-- A replica of a partition (R274-R300). `sail`, `cores`: where it runs. `turn`: the turn of its last activation, `began`: an activation
has begun, `active`: one is under way; `readS`, `readPrev`: the S that this activation and the one before read. `sealing`: every hart has sealed, the seal clean runs; `seals`:
the turns of its last two seals. `missed`: it missed its mark (or abandoned, or was halted at the decision) in the turn `turn`. The flags of
turnentry at the next entry, and those of the present one. `behind`, its turn V, and the catch-up: 0 none, 1 queued, 2 running. `src`: the
replica that the decision named as source. `digs`: its last two digests. `lastValid`: the last was valid at its decision. `group`: the
spare group that it runs on. `waitOn`: the sail on which it was lost. -/
structure Repl where
  sail : Option Nat := none
  cores : Nat := 0
  lost : Bool := false
  began : Bool := false
  active : Bool := false
  turn : Nat := 0
  readS : Nat := 0
  readPrev : Nat := 0
  sealing : Bool := false
  seals : List Nat := []
  missed : Bool := false
  nextMissed : Bool := false
  nextJoined : Bool := false
  nextRestarted : Bool := false
  entry : Nat := 0
  behind : Option Behind := none
  behindTurn : Nat := 0
  catchSt : Nat := 0
  src : Option Nat := none
  dissents : Nat := 0
  digs : List Digest := []
  lastValid : Bool := false
  group : Option Nat := none
  waitOn : Option Nat := none
deriving DecidableEq, Repr

/-- A re-pairing or restart under way (R295-R299): replica, spare group, source, copy complete, a source seal counted after it;
`restore`: of a restart, 1 waiting, 2 running, 3 done. -/
structure Repair where
  repl : Nat
  group : Nat
  src : Nat := 0
  copied : Bool := false
  counted : Bool := false
  restore : Nat := 0
deriving DecidableEq, Repr

/-- A partition (key p) beyond BLT_PSTATp, BLT_PCNTp and BLT_PPLACEp: its replicas, S of R282 and the turn
of a seal of this turn, which becomes S at the boundary, the current hold buffer and the turn whose activation produced it, the release
decided and not yet copied (source), the turn decided last, the peer package's record, the re-pairing, the hold streak, groups in use,
image taken in this turn (IMAGE of turnentry), and the sails whose POISONING it waits for. -/
structure Part where
  repls : List (Nat × Repl) := []
  sealTurn : Nat := 0
  sealNew : Option Nat := none
  holdCur : Nat := 0
  holdTurn : Nat := 0
  release : Option (Nat × Nat) := none
  peer : Option Digest := none
  peerValid : Bool := false
  peerTurn : Nat := 0
  repair : Option Repair := none
  holds : Nat := 0
  decided : Option Nat := none
deriving DecidableEq, Repr

/-- The bolter beyond its registers: mirrored ranges (source base, size, target base, partition), the pages that the mirror wrote, and the digest that each
busy engine makes (engine, partition, replica, turn; R285). -/
structure Bolter where
  mirrors : List (Nat × Nat × Nat × Nat) := []
  pages : List Nat := []
  engs : List (Nat × Nat × Nat × Nat) := []
deriving DecidableEq, Repr
/-! ## Leavo ports -/

/-- A sack (R313): the fields of its START block that do not belong to the link, its payload in clear, whether that is a whole
frame, and the partition that pays for it. -/
structure Sack where
  vl : Nat := 1
  kind : Nat := 0
  dst : Nat := 0
  src : Nat := 0
  stream : Nat := 0
  sseq : Nat := 0
  turn : Nat := 0
  fresh : Bool := false
  dup : Bool := false
  payload : Bytes := []
  raw : Bool := false
  part : Nat := 64
deriving DecidableEq, Repr

/-- A key slot of one direction (R340, R341): key, salt, and the next PN to send or one above the last PN accepted. -/
structure LKey where
  loaded : Bool := false
  key : Bytes := []
  salt : Bytes := []
  pn : Nat := 0
deriving DecidableEq, Repr

/-- A key exchange under way (R483): this end sent the OFFER, else it answered one; its slot, EPOCH, nonces, and how often OFFER was sent. -/
structure KeyX where
  mine : Bool
  slot : Nat
  epoch : Nat
  na : Bytes
  nb : Bytes := []
  sent : Nat := 1
deriving DecidableEq, Repr

/-- A MACsec association key (R485): key, salt, SSCI, and the next PN to send or the lowest PN accepted. -/
structure MacKey where
  key : Bytes := []
  salt : Bytes := []
  ssci : Bytes := []
  pn : Nat := 1
deriving DecidableEq, Repr

/-- The secure channels of one MAC (R347, R485): transmit and receive associations by number, the association in use for transmission, and
the one that takes its place at the next boundary. -/
structure Mac where
  tx : List (Nat × MacKey) := []
  rx : List (Nat × MacKey) := []
  cur : Option Nat := none
  next : Option Nat := none
deriving DecidableEq, Repr

/-- The line of a native port (R309-R311): the scrambler's last 58 bits, the number of the next data codeword, codewords since the alignment codewords, the blocks that
have not left, by type and bytes, and the time in ps toward the next codeword. -/
structure Line where
  scr : Nat := 0
  next : Nat := 0
  count : Nat := 0
  blocks : List (Bool × Bytes) := []
  ps : Nat := 0
deriving DecidableEq, Repr

/-- A port (key k) beyond its LVP registers: training attempts; the INIT exchange (a valid INIT received, one with ACKED received, one sent
with ACKED); as a receiver the CUM expected next, the units freed and the count last reported (R317-R321); VSEQ of each VL and
KSEQ; the receive map asked for (R323) and the transmit lanes to add after the next BEACON (R324); its own copy of turn and period (R328);
key slots by number, the slot to change to, whether a BEACON has gone out since, the exchange under way, the last EPOCH and
the turn of the last exchange; sacks of VL1 to VL3 that wait, oldest first, and the deficit round robin (VL served, deficits of VL2 and
VL3); the open TX slot, its VL0 sacks not yet sent, and the second copies with their earliest times in ns; MACs by lane;
sacks discarded that no LVP counter names; SCHEDID last announced, with its turn; its line. -/
structure Port where
  attempts : Nat := 0
  gotInit : Bool := false
  gotAck : Bool := false
  sentAck : Bool := false
  rxCum : Nat := 0
  rxFreed : Nat := 0
  rxRep : Nat := 0
  vseq : List (Nat × Nat) := []
  kseq : Nat := 0
  askMap : Option Nat := none
  addBack : Nat := 0
  turn : Nat := 0
  period : Nat := 0
  tx : List (Nat × LKey) := []
  rx : List (Nat × LKey) := []
  kNext : Option Nat := none
  kArmed : Bool := false
  kx : Option KeyX := none
  epoch : Nat := 0
  keyTurn : Nat := 0
  queue : List Sack := []
  drr : Nat × Nat × Nat := (2, 0, 0)
  slot : Option Nat := none
  vl0 : List Sack := []
  dups : List (Nat × Sack) := []
  macs : List (Nat × Mac) := []
  discards : Nat := 0
  announced : Option (Nat × Nat) := none
  line : Line := {}
deriving DecidableEq, Repr

/-- The ports together: their states, SCHEDID (R339), and the link master keys (R482). -/
structure Leavo where
  ports : List (Nat × Port) := []
  schedId : Nat := 0
  lmk : List (Nat × Bytes) := []
deriving DecidableEq, Repr

/-! ## Sluice, instances and services -/

/-- A flow-cache entry (R357): INDEX, the eight words of its context, pinned, the stamp of its last use, and the time in ns up to which its meter's
tokens are counted. -/
structure FlowEnt where
  index : Nat
  words : List Nat
  pinned : Bool := false
  used : Nat := 0
  stamp : Nat := 0
deriving DecidableEq, Repr

/-- An arrival (R351-R361): the flow keys to try in turn, arrival port, its turn and the phase of ingress completion in ns (R352), the sack (for a
frame: VL0 to VL3 by its PCP, no stream), whether it is a frame, whether it was protected, the R-TAG sequence of a frame, and the
walk's number. -/
structure Arrival where
  keys : List Bytes
  port : Nat
  turn : Nat
  phase : Nat
  sack : Sack
  eth : Bool := false
  sec : Bool := false
  rtag : Option Nat := none
  walk : Nat := 0
deriving DecidableEq, Repr

/-- An admitted entry of the pool (R372): instance, queue, ring index, the descriptor's words and its address, and for a receive entry the
arrival that it takes. -/
structure Work where
  inst : Nat
  queue : Nat
  idx : Nat
  iova : Nat
  words : List Nat
  rx : Option (Sack × Nat) := none
deriving DecidableEq, Repr

/-- An instance beyond SLC_ISTATi (R364-R377): queues stopped, doorbells ignored and arrivals dropped, the share that waits for the boundary, the
dirty log (two bitmaps, BASEADDR, pages, which is in use), the time in ns of the last MSI of each queue, and the MSIs that wait for
their time (queue, address, EIID). -/
structure Inst where
  stopped : List Nat := []
  ignored : Nat := 0
  dropped : Nat := 0
  newShare : Option Nat := none
  logMap : Nat × Nat := (0, 0)
  logBase : Nat := 0
  logPages : Nat := 0
  logCur : Nat := 0
  msiNs : List (Nat × Nat) := []
  msiPend : List (Nat × Nat × Nat) := []
deriving DecidableEq, Repr

/-- A hopper entry (R368-R371): the context held (instance and queue), its first four words, whether it is dirty, its error count, its last use. -/
structure HopEnt where
  ctx : Option (Nat × Nat) := none
  words : List Nat := []
  dirty : Bool := false
  errs : Nat := 0
  used : Nat := 0
deriving DecidableEq, Repr

/-- The sluice and the hopper beyond their registers: the flow cache, walks in flight, the pool, instances, hopper entries, use stamp,
boundaries counted toward the hopper's DECAY, the deficit round robin over instances (served last, deficits), the second of the
gateway's rate with the frames handled in it, and the hopper's spills. -/
structure Sluice where
  cache : List FlowEnt := []
  walks : List Arrival := []
  nextWalk : Nat := 0
  pool : List Work := []
  insts : List (Nat × Inst) := []
  hop : List (Nat × HopEnt) := []
  uses : Nat := 0
  hopDecay : Nat := 0
  drr : Nat := 255
  deficit : List (Nat × Nat) := []
  gw : Nat × Nat := (0, 0)
  spills : Nat := 0
deriving DecidableEq, Repr

/-- A TCP connection of the diagnostic server (R382): tester address, routing activated, diagnostic session, a UDS transfer under way
with its next block counter. -/
structure DoipConn where
  tester : Nat := 0
  active : Bool := false
  session : Nat := 1
  block : Option Nat := none
deriving DecidableEq, Repr

/-- The miller services (R380-R382): offset from the grandmaster, synchronisation lost, the sequence number of Sync,
connections; of DTC reports: per fault code (65536: all) the log entry from which it is reported after a clear, the entry at which DTC setting was turned off, and the
spans of entries logged while it was off. -/
structure Services where
  timeOffset : Int := 0
  syncLost : Bool := false
  syncSeq : Nat := 0
  conns : List (Nat × DoipConn) := []
  dtcFrom : List (Nat × Nat) := []
  dtcOff : Option Nat := none
  dtcHidden : List (Nat × Nat) := []
deriving DecidableEq, Repr

/-! ## PCI Express -/

/-- An MSI-X table entry: message address and data, masked. -/
structure MsixVec where
  addr : Nat := 0
  data : Nat := 0
  masked : Bool := true
deriving DecidableEq, Repr

/-- An endpoint function (key f): D3hot, MSI-X enabled, the function mask (R391, R398). -/
structure PciFn where
  d3 : Bool := false
  msixOn : Bool := false
  msixMask : Bool := false
deriving DecidableEq, Repr

/-- An outbound non-posted request (R403, R404): sub-port, tag, the hub request (master, transaction, address, width), a configuration access (a
Vendor ID read), and whether its timeout was reported: its tag is then in quarantine; data
received so far. -/
structure PciTag where
  sub : Nat
  tag : Nat
  mid : Nat
  txid : Nat
  addr : Nat
  width : Nat
  cfg : Bool := false
  vendorId : Bool := false
  late : Bool := false
  got : Bytes := []
deriving DecidableEq, Repr

/-- An outbound non-posted request that waits for a tag (R386, R404): its tag's record, requester ID, PCIe address and data of a write. -/
structure PciWait where
  req : PciTag
  rid : Nat
  paddr : Nat
  wdata : Option Nat := none
deriving DecidableEq, Repr

/-- A sub-port (key s) beyond its registers: link in L0; PCI_PERST_N of the endpoint asserted; the tag tried next; AER status (uncorrectable in
bits 31:0, correctable above) with the header recorded; the DPC trigger reason; and the root port's own header words by byte
offset. -/
structure PciSub where
  l0 : Bool := false
  perst : Bool := true
  nextTag : Nat := 0
  aer : Nat := 0
  header : Bytes := []
  dpc : Option Nat := none
  cfg : List (Nat × Nat) := []
deriving DecidableEq, Repr

/-- The port: sub-ports, outstanding and quarantined tags, requests that wait for a tag (R386, R404; oldest first), functions, MSI-X vectors (key f × 2048 + v) and pending bits; the dictionary window
(R444): request buffer, response buffer, BUSY, DONE, GOBUSY. -/
structure Pci where
  subs : List (Nat × PciSub) := []
  tags : List PciTag := []
  waits : List PciWait := []
  fns : List (Nat × PciFn) := []
  vecs : List (Nat × MsixVec) := []
  pba : List Nat := []
  dwReq : List Host.Cell := []
  dwResp : Bytes := []
  dwDone : Bool := false
  dwBusy : Bool := false
  dwGoBusy : Bool := false
deriving DecidableEq, Repr


/-! ## Mailboxes -/

/-- A mailbox channel (key: set × 2^14 + receiver × 128 + sender): 0 EMPTY, 1 FULL, 2 PEND; the flags of CHSTAT; bytes posted; posts accepted;
the message buffer of the sender's side; the visible buffer of TURN mode: bytes, SENDER_RESET, message (R423, R424). -/
structure Chan where
  state : Nat := 0
  aborted : Bool := false
  sreset : Bool := false
  len : Nat := 0
  seq : Nat := 0
  msg : Bytes := List.replicate 48 0
  vis : Option (Nat × Bool × Bytes) := none
deriving DecidableEq, Repr

/-- Mailboxes and locks beyond MBX_ERR and the binding table: channels, lock holders (key k: master ID + 1). -/
structure Mbx where
  chans : List (Nat × Chan) := []
  locks : List (Nat × Nat) := []
deriving DecidableEq, Repr

/-- The governor's services (R414-R417): probes in a row that did not complete, time of the last mirror refresh in ns, the mirror (object key and
bytes), a reset request accepted in RUN or DEGRADED, a START accepted in READY that waits for the boundary (R29), a RESUME that waits for
an initialisation (R258), BInv timeouts 0x320C since power-on reset (0x7210:02). -/
structure Gov where
  probeFail : Nat := 0
  mirrorNs : Nat := 0
  resetPending : Bool := false
  startPending : Bool := false
  resuming : Bool := false
  binvTimeouts : Nat := 0
  mirror : List (Nat × Bytes) := []
deriving DecidableEq, Repr

/-! ## Object dictionary -/

/-- A configuration image (R448-R451): its bytes as stored (none before anything was written or switched in), and what they hold: records by
key (sorted, as R449 orders them), serial number, SIGNED. -/
structure Image where
  raw : Option Bytes := none
  recs : List (Nat × Bytes) := []
  serial : Nat := 0
  signed : Bool := false
deriving DecidableEq, Repr

/-- The commit status 0x1F00:02; whether a persist follows the switch (R452 value 4); who commits (path and source); the claim of the
staged image (R450); the turn in which it became PENDING (R227). -/
structure CommitSt where
  state : Nat := 0
  path : Nat := 0
  result : Nat := 0
  detail : Nat := 0
  turn : Nat := 0
  persistAfter : Bool := false
  who : Nat × Nat := (0, 0)
  claim : Option (Nat × Nat) := none
  pendTurn : Nat := 0
deriving DecidableEq, Repr

/-- A configuration slot of boot flash (R457): the image's bytes and the 20 bytes of its record. -/
structure CfgSlot where
  image : Bytes := []
  record : Bytes := []
deriving DecidableEq, Repr

/-- A training record in boot flash (R250): the identities that MR5, MR6 and MR8 returned, Tj in °C, the bin. -/
structure TrainRec where
  mr : Nat := 0
  tj : Int := 0
  bin : Nat := 0
deriving DecidableEq, Repr

/-- The dictionary beyond the active image and the commit status: the staged image, INCOMPLETE (R451), unfinished writes (R443: path, source,
key, bytes), the boot flash slots and the training records of the controllers (R250), the slot that a PERSIST writes with the bytes, the locked binding table (R433), whether an image has been switched
in (R452), USDO sessions (port, client node), NMT commands ignored, elements clamped at the last switch (R460), and responses that wait
for an agent's acknowledgement (R445: set, agent, bytes). -/
structure Dict where
  staged : Image := {}
  incomplete : Bool := false
  segs : List (Nat × Nat × Nat × Bytes) := []
  slots : List (Nat × CfgSlot) := []
  training : List (Nat × Option TrainRec) := []
  persist : Option (Nat × Bytes) := none
  locked : Option (List Nat) := none
  switched : Bool := false
  usdo : List (Nat × Nat) := []
  nmt : Nat := 0
  clamped : Nat := 0
  held : List (Nat × Nat × Bytes) := []
deriving DecidableEq, Repr

/-! ## Trust -/

/-- A bank record (R467); STATE 0 EMPTY, 1 PENDING, 2 TRIAL, 3 GOOD, 4 BAD. -/
structure BankRec where
  wseq : Nat := 0
  seq : Nat := 0
  state : Nat := 0
  tries : Nat := 0
  svn : Nat := 0
  length : Nat := 0
  manifest : Bytes := []
deriving DecidableEq, Repr

/-- The firmware bundle that a bank holds, as R466 checks it: digest of its key, whether its layout, signature and component digests
hold, SVN, length, manifest digest and component digests. -/
structure Bundle where
  keyDigest : Nat := 0
  sound : Bool := false
  svn : Nat := 0
  length : Nat := 0
  manifest : Bytes := []
  comps : List (Nat × Bytes) := []
deriving DecidableEq, Repr

/-- A boot flash bank (key 0 A, 1 B): the two copies of its record and its bundle. -/
structure Bank where
  copy0 : Option BankRec := none
  copy1 : Option BankRec := none
  bundle : Bundle := {}
deriving DecidableEq, Repr

/-- The debug module (R486-R488, R72): challenge, token bytes so far, SCOPE and EXPIRY of the open session, whether one has been opened since
reset, harts it halted, program buffer, data register, and whether the last abstract command failed. -/
structure Dbg where
  chal : Option Bytes := none
  token : Bytes := []
  open' : Bool := false
  expiry : Nat := 0
  opened : Bool := false
  progbuf : List Nat := []
  data : Nat := 0
  cmdErr : Nat := 0
deriving DecidableEq, Repr

/-- Trust (R463-R490). Banks; running bank; the trial timer; ROM serving because nothing boots (R471); supplied public keys by slot; the identity
certificate; M0 to M2 as derived at boot; challenges and sessions by path and source; failures in a row and locks per interface (path; 7 for UDS, 0 for
debug): failures, end of the lock in ns; attestation reports; the transfer into update staging: path, source, bytes; READY was entered since the reset (R470). -/
structure Trust where
  banks : List (Nat × Bank) := []
  running : Nat := 0
  timer : Bool := false
  rom : Bool := false
  keys : List (Nat × Bytes) := []
  cert : Bytes := []
  derived : Bytes := []
  chals : List ((Nat × Nat) × Bytes) := []
  sessions : List (Nat × Nat) := []
  fails : List (Nat × (Nat × Nat)) := []
  reports : List ((Nat × Nat) × Bytes) := []
  upload : Option (Nat × Nat × Bytes) := none
  readyOnce : Bool := false
  dbg : Dbg := {}
deriving DecidableEq, Repr

/-! ## What a command emits -/

/-- What the block emits towards the world outside it while it takes one command. -/
inductive Out where
  /-- An answer on a dictionary path: abort code (0: none) and data. -/
  | answer (abort : Nat) (data : Bytes)
  /-- The requester gets an access error (R10, R18). -/
  | accessError
  /-- The value of a register or memory read. -/
  | value (v : Nat)
  /-- Bytes read, with the poison flag. -/
  | data (bytes : Bytes) (poison : Bool)
  /-- A message-signalled interrupt: address and identity. -/
  | msi (addr eiid : Nat)
  /-- A 24-bit regulator frame (R494). -/
  | vrFrame (frame : Nat)
  /-- A coherence request on its way to its home (R178). -/
  | request (kind : ReqKind) (mid part txid addr way : Nat)
  /-- Write data on its way to a home. -/
  | wrData (mid part txid addr data mask : Nat) (poison : Bool)
  /-- A snoop to a sail, with the master, partition and transaction ID of the request that caused it. -/
  | snoop (sail : Nat) (kind : SnpKind) (mid part txid addr : Nat)
  /-- A TagRead to a sail, and its answer. -/
  | tagRead (sail slice set : Nat)
  | tagResp (sail slice set : Nat) (tags : List TagInfo)
  /-- A sail's answer to a snoop, and its data. -/
  | snpResp (sail part txid addr : Nat) (st : LSt) (hasData evicting : Bool)
  | snpData (sail part txid addr data : Nat) (poison : Bool)
  /-- Completions, acknowledgements and retries of a home. -/
  | comp (mid part txid addr : Nat)
  | compData (mid part txid addr : Nat) (st : LSt) (data : Nat) (poison : Bool)
  | evictAck (sail part txid addr : Nat)
  | retry (mid part txid addr k : Nat)
  /-- An I/O request of a master (R214), and a broadcast invalidation and its acknowledgement (R128). -/
  | ioReq (mid : Nat) (part : Option Nat) (addr width : Nat) (wdata : Option Nat)
  /-- The completion of an I/O request to its master, with the address of the request. -/
  | ioComp (mid txid addr : Nat) (err : Bool) (value : Nat)
  | binv (sail from' id : Nat)
  | binvAck (sail from' id : Nat)
  /-- A packet of a code that a flume port passes into the hub, with its class decided and DROUTER and DPORT filled (R16, R216, R230). -/
  | ingress (code mid : Nat) (part : Option Nat) (addr tc drouter dport : Nat)
  /-- The 576 bits of a flume frame that an end sends (R235). -/
  | flume (sail link side bits : Nat)
  /-- A dresser's scrub request to a home (R268). -/
  | scrub (mc line : Nat)
  /-- An error completion to a requester (R203, R205). -/
  | errComp (mid part txid addr : Nat)
  /-- A digest record for the peer package (R301). -/
  | peerRecord (data : Bytes)
  /-- An MSI-X message of a function: vector, address, data (R398). -/
  | msix (fn vec addr data : Nat)
  /-- A TLP that a sub-port sends: requester ID, tag of a non-posted request, PCIe address, width, data of a write; a configuration access. -/
  | tlp (sub rid : Nat) (tag : Option Nat) (addr width : Nat) (wdata : Option Nat) (cfg : Bool)
  /-- A completion that a sub-port returns: status 0 success, 1 Unsupported Request, 2 CRS; data; EP set. -/
  | cpl (sub rid status : Nat) (data : Bytes) (poison : Bool)
  /-- An LTR message (R402). -/
  | ltr (value : Nat)
  /-- Sync and Follow_Up of the time service on a port (R381): sequence number and time. -/
  | gptp (port seq time : Nat)
  /-- A control block of a port (R312). -/
  | block (port : Nat) (data : Bytes)
  /-- A codeword that a native port sends on a lane: 5,440 bits (R309). -/
  | codeword (port lane bits : Nat)
  /-- A sack of a port: START, the payload as sent, END (R313). -/
  | sack (port : Nat) (start payload tail : Bytes)
  /-- A frame of an Ethernet-mode port (R348): PCP, EtherType where the port forms the frame, what it carries, and the MACsec lane, association
  and PN that protect it. -/
  | frame (port pcp : Nat) (etherType : Option Nat) (payload : Bytes) (sec : Option (Nat × Nat × Nat))
  /-- A CAN frame of a dictionary port: COB-ID and data (R447). -/
  | can (port cob : Nat) (data : Bytes)
  /-- An arrival that the sluice routes to a service (R351, R355): 1 management, 3 bolter, 4 key management, 8 gateway, 9 time, 10 diagnostics. -/
  | service (port which src : Nat) (payload : Bytes)
deriving DecidableEq, Repr

/-! ## Millrace and flume -/

/-- A packet (R214): the fields of its header but for HCHK, the head payload beyond what the message says, the line of its data flit, whether
it is still in the mesh of the sail that sent it, and the message that it carries. -/
structure Pkt where
  tc : Nat
  age : Nat := 0
  epoch : Nat := 0
  ch : Nat
  opcode : Nat
  drouter : Nat := 0
  dport : Nat := 0
  dnode : Nat := 0
  nxt : Nat := 0
  mid : Nat
  part : Option Nat := none
  txid : Nat := 0
  addr : Nat := 0
  poison : Bool := false
  dflit : Bool := false
  arg : Nat := 0
  data : Bool := false
  evicting : Bool := false
  err : Bool := false
  ord : Bool := false
  payload : Nat := 0
  line : Nat := 0
  outward : Bool := false
  msg : Out
deriving DecidableEq, Repr

/-- A flit: the head of a packet, or with `body` its data flit; FPOIS (R215); the hub cycle in which it entered the buffer that holds it. -/
structure Flit where
  pkt : Pkt
  body : Bool := false
  fpois : Bool := false
  stamp : Nat := 0
deriving DecidableEq, Repr

/-- An output of a router: the input buffer whose data flit follows the head that it has passed, with the message; the input granted last (R219), the cycle in
which it is free again. -/
structure OutPort where
  lock : Option (Nat × Out) := none
  last : Nat := 0
  free : Nat := 0
deriving DecidableEq, Repr

/-- The millrace. `box`: messages on their way, oldest first; `sent`: how many of the outputs of this command are in it; `fresh`: those of them that are no
packets yet; `landed`: messages that took effect before the command that carries them, since later traffic of their line or an access of an engine came after
them. `cyc`: hub cycles passed. Flits in the input buffers of routers (R217, key (node × 8 + port) × 8 + VC), router outputs (node × 8 + port), flits waiting at a
block for its local port (node × 8 + 4), flits in bridges (node × 16 + 2 × bridge, plus 1 toward the block; R233). Corrected flit errors of this turn by lane (link × 2 + lane).
`arrived`: the commands of what has arrived. `toLine`: control blocks and sacks on their way to the lines of the Leavo ports. -/
structure Net where
  box : List Out := []
  sent : Nat := 0
  fresh : List Out := []
  landed : List Out := []
  cyc : Nat := 0
  ins : List (Nat × List Flit) := []
  outs : List (Nat × OutPort) := []
  src : List (Nat × List Flit) := []
  br : List (Nat × List Flit) := []
  corr : List (Nat × Nat) := []
  arrived : List Instr := []
  toLine : List Out := []
deriving DecidableEq, Repr

/-- A flume frame before its CRC (R235): FTYPE, BODY of a control frame, VC, FPOIS, SEQ, ACK, CRVC and CRCNT; the flit of a HEAD or DATA frame. -/
structure FFrame where
  ftype : Nat := 0
  body : Nat := 0
  vc : Nat := 0
  fpois : Bool := false
  seq : Nat := 0
  ack : Nat := 0
  crvc : Nat := 0
  crcnt : Nat := 0
  flit : Option Flit := none
deriving DecidableEq, Repr

/-- A HEAD or DATA frame that a flume transmitter keeps until it is acknowledged (R237). -/
structure Frame where
  seq : Nat
  flit : Flit
deriving DecidableEq, Repr

/-- One end of a flume link (key: sail × 4 + link × 2 + side, side 0 the hub): next SEQ to send, replay buffer, frames to resend, SEQ expected, a NAK owed, the SEQ
that was NAKed last and how often, whether the link is being retrained and has been, the heartbeat count; new flits that wait, held back while LINKSYNC is under
way (R240); control frames to send, with the cycle from which each may go; frames on the wire to the other end, with their arrival; the receive buffer, credits
owed by VC, flits at the other end's buffer by VC (R238), the ACK sent last. -/
structure LinkEnd where
  tx : Nat := 0
  replay : List Frame := []
  resend : List Frame := []
  rx : Nat := 0
  nakOwed : Bool := false
  nakSeq : Nat := 0
  nakCnt : Nat := 0
  training : Bool := false
  retrained : Bool := false
  beats : Nat := 0
  txq : List Flit := []
  hold : Bool := false
  ctl : List (Nat × FFrame) := []
  wire : List (Nat × FFrame) := []
  rxq : List Flit := []
  owed : List (Nat × Nat) := []
  used : List (Nat × Nat) := []
  acked : Nat := 1023
deriving DecidableEq, Repr

/-- The meshes and flume ports beyond their registers: boundaries since the swap that drains took effect, with its time; a rebuild of the
tables that waits for the drain; lanes failed (link × 2 + lane); TC3 tokens × 1000 of port × 64 + partition with the phase in ns up to
which they are counted; flume link ends. -/
structure Mesh where
  swapAge : Nat := 0
  swapNs : Nat := 0
  wantSwap : Bool := false
  lanes : List Nat := []
  tokens : List (Nat × (Nat × Nat)) := []
  links : List (Nat × LinkEnd) := []
deriving DecidableEq, Repr

/-! ## The block -/

/-- The whole block. -/
structure Block where
  dev : DevState := .boot
  prev : Option DevState := none
  regs : List (Nat × Nat) := []
  out : List Out := []
  free : Nat := 0
  otp : Otp := {}
  pwr : Power := {}
  flog : FLog := {}
  timeBase : Nat := 0
  govHalted : Bool := false
  active : Image := {}
  commit : CommitSt := {}
  dict : Dict := {}
  trust : Trust := {}
  tu : TurnUnit := {}
  evt : List (Nat × EvtIn) := []
  imsic : List (Nat × IFile) := []
  mem : List Host.Cell := []
  ms : MemSys := {}
  coh : Coh := {}
  svc : Services := {}
  lvp : Leavo := {}
  slc : Sluice := {}
  pci : Pci := {}
  sails : List (Nat × Sail) := []
  harts : List (Nat × Hart) := []
  iot : Iot := {}
  msts : List (Nat × Mst) := []
  scr : Scratch := {}
  mesh : Mesh := {}
  net : Net := {}
  parts : List (Nat × Part) := []
  blt : Bolter := {}
  mbx : Mbx := {}
  gov : Gov := {}
deriving DecidableEq, Repr

/-- The machine: the block and the commands waiting, first in, first out. -/
structure State where
  blk : Block
  pending : List Instr
deriving DecidableEq, Repr

/-- Why a step can stop. No command of this block ends in a fault. -/
inductive Fault where
  /-- Raised by nobody: every command has its effect in every state. Safe. -/
  | none
deriving DecidableEq, Repr

/-- Why a command has no meaning. -/
inductive Refusal where
  /-- A row not modelled yet; the arms of exec that answer it name the row. Safe: nothing follows from a refused step. -/
  | notModelled (mnemonic : String)
deriving DecidableEq, Repr

/-- The OTP of the board that the model takes: an NH12-A192-F72-G2 (R1) with every strap 0, the vendor's key slots 0 to 4 and 9 programmed as at manufacture (R463),
every other fuse blank. The digests are 0 (DESIGN CHOICE). -/
def boardOtp : Otp :=
  { ordering := [0x4E, 0x48, 0x31, 0x32, 0x2D, 0x41, 0x31, 0x39, 0x32, 0x2D, 0x46, 0x37, 0x32, 0x2D, 0x47, 0x32]
    entity := List.replicate 6 0
    slots := [0, 1, 2, 3, 4, 9].map fun n => (n, { programmed := true }) }

/-- The firmware bundle of that board's bank A: valid, every digest 0 (DESIGN CHOICE). -/
def boardBundle : Bundle := { sound := true, length := 436, manifest := List.replicate 64 0 }

/-- The boot flash of that board: bank A GOOD with SEQ 1, all else erased (DESIGN CHOICE). -/
def boardBanks : List (Nat × Bank) := [(0, { copy0 := some { seq := 1, state := 3, length := 436 }, bundle := boardBundle })]

/-- The machine right after power-on reset (R500, R502): straps and OTP read, the governor ROM in BOOT with bank A chosen, both FAULT_OUT low (R529),
PWR_EN_CORE raised (R493), nothing else on, no command waiting. -/
def State.reset : State := ⟨{ otp := boardOtp, trust := { banks := boardBanks } }, []⟩

end Sys2Proof.Machine
end

