-- ==== Sys2Proof/Machine/Net.lean ====
section
/-! DEFINITION. Messages on their way: what of a command's output travels in the package, the command that carries each message to where it is going, and
the order that R220 keeps. -/

namespace Sys2Proof.Machine

/-- The line of a coherence message about one line. -/
def Out.line? : Out → Option Nat
  | .request _ _ _ _ a _ => some (a / 64)
  | .wrData _ _ _ a _ _ _ => some (a / 64)
  | .snoop _ _ _ _ _ a => some (a / 64)
  | .snpResp _ _ _ a _ _ _ => some (a / 64)
  | .snpData _ _ _ a _ _ => some (a / 64)
  | .comp _ _ _ a => some (a / 64)
  | .compData _ _ _ a _ _ _ => some (a / 64)
  | .evictAck _ _ _ a => some (a / 64)
  | .retry _ _ _ a _ => some (a / 64)
  | _ => none

/-- The command that carries a message to its destination. -/
def Out.command : Out → Option Instr
  | .request .rdShared mid part txid a way => some (.rdShared mid part txid a way false)
  | .request .rdUnique mid part txid a way => some (.rdUnique mid part txid a way false)
  | .request .upgrade mid part txid a _ => some (.upgradeReq mid part txid a)
  | .request .dirtyNote mid part txid a _ => some (.dirtyNote mid part txid a)
  | .request .wbDirty mid part txid a _ => some (.wbDirty mid part txid a)
  | .request .evictClean mid part txid a _ => some (.evictClean mid part txid a)
  | .request .rdOnce mid part txid a _ => some (.rdOnce mid part txid a false)
  | .request .wrFull mid part txid a _ => some (.wrFull mid part txid a)
  | .request .wrPart mid part txid a _ => some (.wrPart mid part txid a)
  | .wrData mid _ txid a d m p => some (.wrData mid txid a d m p)
  | .snoop n .shared _ _ txid a => some (.snpShared n a txid)
  | .snoop n .unique _ _ txid a => some (.snpUnique n a txid)
  | .snoop n .once _ _ txid a => some (.snpOnce n a txid)
  | .snoop n .inv _ _ txid a => some (.snpInv n a txid)
  | .tagRead n slice set => some (.tagRead n slice set)
  | .tagResp n slice set tags => some (.tagResp n slice set tags)
  | .snpResp n _ txid a st d e => some (.snpResp n txid a st d e)
  | .snpData n _ txid a d p => some (.snpData n txid a d p)
  | .comp mid _ txid a => some (.compMsg mid txid a)
  | .compData mid _ txid a st d p => some (.compData mid txid a st d p)
  | .evictAck n _ _ a => some (.evictAck n a)
  | .retry mid _ txid a k => some (.retryMsg mid txid a k)
  | .ioReq mid part a w none => some (.ioRd mid part a w)
  | .ioReq mid part a w (some v) => some (.ioWr mid part a w v)
  | .ioComp mid txid _ err v => some (.ioComp mid txid err v)
  | .binv n from' id => some (.binvMsg n from' id)
  | .binvAck n from' id => some (.binvAck n from' id)
  | _ => none

/-- The command as a message spells it: the class of a request is decided on the way. -/
def sent (i : Instr) : Instr :=
  match i with
  | .rdShared mid part txid a way _ => .rdShared mid part txid a way false
  | .rdUnique mid part txid a way _ => .rdUnique mid part txid a way false
  | .rdOnce mid part txid a _ => .rdOnce mid part txid a false
  | i => i

/-- Messages of the millrace. An MSI and an error completion have had their effect where they were sent. -/
def Out.travels (o : Out) : Bool := o.command.isSome

/-- A message of a home to an L3, which R220 keeps in order: the sail and the line. -/
def Out.ord : Out → Option (Nat × Nat)
  | .snoop n _ _ _ _ a => some (n, a / 64)
  | .comp mid _ _ a => if mid % 32 = 17 then some (mid / 32, a / 64) else none
  | .compData mid _ _ a _ _ _ => if mid % 32 = 17 then some (mid / 32, a / 64) else none
  | .retry mid _ _ a _ => if mid % 32 = 17 then some (mid / 32, a / 64) else none
  | .evictAck n _ _ a => some (n, a / 64)
  | _ => none

/-- Message `x`, which left earlier, arrives before `o`: both are of one home to one L3 about one line, or `o` carries the data that the request or the SnpResp `x`
announces (R204: data without its request is an error; DEDUCED: data that overtakes its announcement waits for it). -/
def Out.precedes (x o : Out) : Bool :=
  match o with
  | .wrData mid _ txid a _ _ _ => (match x with | .request _ m _ t a' _ => m = mid && t = txid && a' / 64 = a / 64 | _ => false)
  | .snpData n _ txid a _ _ => (match x with | .snpResp m _ t a' _ _ _ => m = n && t = txid && a' / 64 = a / 64 | _ => false)
  | _ => match o.ord with | some k => x.ord = some k | none => false

/-- The sail whose agent sends a message. -/
def Out.sender : Out → Option Nat
  | .request _ mid _ _ _ _ => if mid < 384 then some (mid / 32) else none
  | .wrData mid _ _ _ _ _ _ => if mid < 384 then some (mid / 32) else none
  | .ioReq mid _ _ _ _ => if mid < 384 then some (mid / 32) else none
  | .tagResp n _ _ _ => some n
  | .snpResp n _ _ _ _ _ _ => some n
  | .snpData n _ _ _ _ _ => some n
  | .binvAck n _ _ => some n
  | _ => none

/-- Messages that the millrace carries; a sail that has lost the hub issues none (R241). -/
def Block.leaves (b : Block) (o : Out) : Bool :=
  o.travels && (match o.sender with | some n => !(SMap.get {} n b.sails : Sail).silent | none => true)

/-- Blocks and sacks of native ports. -/
def Out.onLine : Out → Bool
  | .block _ _ => true
  | .sack _ _ _ _ => true
  | _ => false

/-- Outputs set out: messages into the millrace, blocks and sacks to their lines. -/
def Block.outNet (k : Nat) (b : Block) : Net :=
  let l := b.out.drop b.net.sent
  { b.net with box := b.net.box ++ l.filter b.leaves, fresh := b.net.fresh ++ l.filter b.leaves, toLine := b.net.toLine ++ l.filter Out.onLine, sent := k }

/-- What a command emits enters the millrace. -/
def Block.flushOut (b : Block) : Block := { b with net := b.outNet b.out.length }

/-- The block as the next command finds it: what the last one emitted is on its way, and nothing is emitted yet. -/
def Block.begin (b : Block) : Block := { b with out := [], net := b.outNet 0 }

/-- The messages on their way, oldest first. -/
def Block.inFlight (b : Block) : List Out := b.net.box

/-- A message leaves the millrace. -/
def Block.takeFlight (o : Out) (b : Block) : Block := { b with net := { b.net with box := b.net.box.erase o, fresh := b.net.fresh.erase o } }

/-- Messages that satisfy `f` are dropped. -/
def Block.dropFlight (f : Out → Bool) (b : Block) : Block :=
  { b with net := { b.net with box := b.net.box.filter (fun o => !f o), fresh := b.net.fresh.filter (fun o => !f o), landed := b.net.landed.filter (fun o => !f o) } }

/-- A message took effect before its command. -/
def Block.markLanded (o : Out) (b : Block) : Block := { b with net := { b.net with landed := b.net.landed ++ [o] } }

end Sys2Proof.Machine
end

