-- ==== Sys2Proof/Machine/Ops.lean ====
section
/-! DEFINITION. The named operations over the block: registers and their fields, the active image, the fault log and FAULT_OUT,
device-state transitions and the reaction to faults (R523-R535). -/

namespace Sys2Proof.Machine

/-! ## Commands -/

/-- A command's effect on the block in every state: what was emitted last is on its way first; the queue of waiting commands is untouched. -/
def onPkg (s : State) (f : Block → Block) : Host.Outcome State Fault Refusal :=
  .next { s with blk := f s.blk.begin }

/-- A command's effect on a block that is powered; in OFF (R28) nothing happens. -/
def onBlk (s : State) (f : Block → Block) : Host.Outcome State Fault Refusal :=
  onPkg s fun b => if b.dev = .off then b else f b

/-- The same for what the governor does; after a mismatch it is halted (R413) and does nothing. -/
def onGov (s : State) (f : Block → Block) : Host.Outcome State Fault Refusal :=
  onBlk s fun b => if b.govHalted then b else f b

/-- Emit one output. -/
def Block.emit (o : Out) (b : Block) : Block := { b with out := b.out ++ [o] }

/-- Apply `f` when `p` holds. -/
def Block.when (p : Bool) (f : Block → Block) (b : Block) : Block := if p then f b else b

/-- Apply `f` for i = 0 to n-1 in turn. -/
def Block.forN (n : Nat) (f : Nat → Block → Block) (b : Block) : Block :=
  (List.range n).foldl (fun c i => f i c) b

/-- Apply `f` for each element of a list in turn. -/
def Block.forL {α : Type} (l : List α) (f : α → Block → Block) (b : Block) : Block :=
  l.foldl (fun c x => f x c) b

/-- The next free value's index: the counter is read and advanced (the model's own field, no part of the spec). -/
def Block.tickFree (b : Block) : Block := { b with free := b.free + 1 }

/-- Change every hart. -/
def Block.mapHarts (f : Nat → Hart → Hart) (b : Block) : Block := { b with harts := SMap.mapV {} f b.harts }

/-! ## Registers -/

/-- The physical address of element (i, j, k) of a register. -/
def Reg.addr (r : Reg) (i j k : Nat) : Nat :=
  r.desc.base + i * r.desc.d1.1 + j * r.desc.d2.1 + k * r.desc.d3.1

/-- The whole value of a register. -/
def Block.getR (b : Block) (r : Reg) (i : Nat := 0) (j : Nat := 0) (k : Nat := 0) : Nat :=
  SMap.get r.desc.reset (r.addr i j k) b.regs

/-- Write the whole value of a register (hardware's write: no access type applies). -/
def Block.setR (r : Reg) (v : Nat) (i : Nat := 0) (j : Nat := 0) (k : Nat := 0) (b : Block) : Block :=
  { b with regs := SMap.set r.desc.reset (r.addr i j k) (v % 2 ^ r.desc.width) b.regs }

/-- A field of a register. -/
def Block.get (b : Block) (f : Fld) (i : Nat := 0) (j : Nat := 0) (k : Nat := 0) : Nat :=
  bits (b.getR f.reg i j k) f.lo f.hi

/-- Is a one-bit field set? -/
def Block.isSet (b : Block) (f : Fld) (i : Nat := 0) (j : Nat := 0) (k : Nat := 0) : Bool :=
  b.get f i j k ≠ 0

/-- Write a field of a register (hardware's write). -/
def Block.put (f : Fld) (v : Nat) (i : Nat := 0) (j : Nat := 0) (k : Nat := 0) (b : Block) : Block :=
  b.setR f.reg (setBits (b.getR f.reg i j k) f.lo f.hi v) i j k

/-- The width of a field. -/
def Fld.width (f : Fld) : Nat := f.hi + 1 - f.lo

/-- Count one event in a field, saturating. -/
def Block.inc (f : Fld) (i : Nat := 0) (j : Nat := 0) (k : Nat := 0) (b : Block) : Block :=
  b.put f (satInc f.width (b.get f i j k)) i j k

/-- Count `n` events in a field, saturating. -/
def Block.incBy (f : Fld) (n : Nat) (i : Nat := 0) (j : Nat := 0) (k : Nat := 0) (b : Block) : Block :=
  b.put f (satAdd f.width (b.get f i j k) n) i j k

/-- The bits that the fields of a register cover; reserved bits read 0 (R11). -/
def RegDesc.fieldMask (d : RegDesc) : Nat := d.fields.foldl (fun m f => setBits m f.lo f.hi (2 ^ (f.hi + 1 - f.lo) - 1)) 0

/-- Load a register from an object of its layout: reserved bits stay 0. -/
def Block.loadR (r : Reg) (v : Nat) (i : Nat := 0) (j : Nat := 0) (k : Nat := 0) (b : Block) : Block :=
  b.setR r (Nat.land v r.desc.fieldMask) i j k

/-- A field after a write of `v` (R11); RWL fields are read only from the first commit on. -/
def fieldWrite (locked : Bool) (v old : Nat) (f : FieldDesc) : Nat :=
  match f.ty with
  | .ro => old
  | .wo => old
  | .rw => setBits old f.lo f.hi (bits v f.lo f.hi)
  | .w1c => setBits old f.lo f.hi (bits old f.lo f.hi - Nat.land (bits old f.lo f.hi) (bits v f.lo f.hi))
  | .w1s => setBits old f.lo f.hi (Nat.lor (bits old f.lo f.hi) (bits v f.lo f.hi))
  | .rwl => if locked then old else setBits old f.lo f.hi (bits v f.lo f.hi)

/-- A write of a register without behaviour of its own. -/
def Block.plainWrite (r : Reg) (i j k v : Nat) (b : Block) : Block :=
  b.setR r (r.desc.fields.foldl (fieldWrite b.dict.locked.isSome v) (b.getR r i j k)) i j k

/-- The bits of a register's fields of one access type. -/
def RegDesc.tyMask (d : RegDesc) (ty : FTy) : Nat :=
  d.fields.foldl (fun m f => if f.ty = ty then setBits m f.lo f.hi (2 ^ (f.hi + 1 - f.lo) - 1) else m) 0

/-- What hardware sets of the W1C bits of a register in the cycle of a write: it comes after the write's clear, so the bits read 1 (R12). -/
def Block.hwSet (r : Reg) (i j k v : Nat) (b : Block) : Block :=
  b.setR r (Nat.lor (b.getR r i j k) (Nat.land v (r.desc.tyMask .w1c))) i j k

/-- What hardware clears of the W1S bits of a register in the cycle of a write: it comes before the write's set (R12). -/
def Block.hwClear (r : Reg) (i j k v : Nat) (b : Block) : Block :=
  b.setR r (b.getR r i j k - Nat.land (b.getR r i j k) (Nat.land v (r.desc.tyMask .w1s))) i j k

/-- Count `n` events of a performance event of sail `s` in every counter that selects it (R107). -/
def Block.pmu (s ev : Nat) (part : Option Nat) (n : Nat) (b : Block) : Block :=
  if !b.isSet PMU_CTL_EN s || b.isSet PMU_CTL_FREEZE s || n = 0 then b
  else if b.isSet PMU_CTL_PARTEN s && part ≠ some (b.get PMU_CTL_PART s) then b
  else b.forN 8 fun k b =>
    b.when (b.get PMU_EVSEL_EVENT s k = ev) (fun b => b.put PMU_CNT_COUNT ((b.get PMU_CNT_COUNT s k + n) % 2 ^ 64) s k)

/-! ## Master IDs (R24) -/

/-- The governor, the sluice, debug; a PCIe sub-port; the millstone and the L3 maintenance engine of a sail; the sail of a master below 384. -/
def midGov : Nat := 0x190
def midSluice : Nat := 0x1A0
def midDebug : Nat := 0x1F0
def midPci (k : Nat) : Nat := 0x1B0 + k
def midMst (n : Nat) : Nat := n * 32 + 16
def midL3 (n : Nat) : Nat := n * 32 + 17
def sailOf (mid : Nat) : Option Nat := if mid < 384 then some (mid / 32) else none

/-! ## Partition IDs and energy -/

/-- A request without a partition (PV = 0), and the partition field of dresser and marking entries (R270). -/
def noPart : Nat := 64
def markPart : Nat := 127

/-- Charge a partition on an energy channel, in units of 10 fJ (R507). -/
def Block.charge (ch p units : Nat) (b : Block) : Block :=
  if 64 ≤ p || units = 0 then b
  else { b with pwr := { b.pwr with charge := SMap.upd 0 (ch * 64 + p) (· + units) b.pwr.charge } }

/-! ## Time and the active image -/

/-- One nanosecond in the units of the device time base and the phase (2^-32 ns). -/
def nsUnit : Nat := 2 ^ 32

/-- The device time base of R561 in nanoseconds. -/
def Block.timeNs (b : Block) : Nat := b.timeBase / nsUnit % 2 ^ 64

/-- The turn number. -/
def Block.turn (b : Block) : Nat := b.get TRN_NUM_NUM

/-- The default power limit of R510: 280 W on a C128, else 300 W. -/
def Block.powerDefault (b : Block) : Nat := if popcount 12 b.otp.fused = 4 then 280 else 300

/-- The largest power limit of the variant (R510). -/
def Block.powerMax (b : Block) : Nat :=
  if popcount 12 b.otp.fused = 4 then 280 else if popcount 12 b.otp.fused = 2 then 350 else 420

/-- The default value of an object as bytes (object tables; R510 for the power limit). -/
def Block.objDefault (b : Block) (idx sub : Nat) : Bytes :=
  if idx = 0x2610 && sub = 1 then leBytes 2 b.powerDefault
  else match objRow idx sub with
    | none => []
    | some r =>
      match r.ty.size with
      | some n => leBytes n r.dflt
      | none => match r.rng with
        | .len n => List.replicate n 0
        | _ => []

/-- The key of object idx:sub in an image. -/
def objKey (idx sub : Nat) : Nat := idx * 256 + sub

/-- The value of a configuration object in the active image, its default where the image does not hold it. -/
def Block.act (b : Block) (idx sub : Nat) : Bytes :=
  match List.lookup (objKey idx sub) b.active.recs with
  | some v => v
  | none => b.objDefault idx sub

/-- The same as a number. -/
def Block.actN (b : Block) (idx sub : Nat) : Nat := leNat (b.act idx sub)

/-! ## The fault log (R525-R528) -/

/-- Class of a fault code. -/
def codeClass (c : Nat) : Nat := c / 0x1000 % 16

/-- SOURCE of an entry (R525): MID, MIDV, ADDRV. -/
def faultSource (f : FaultSpec) : Nat :=
  (match f.mid with | some m => m % 512 + 512 | none => 0) + (match f.addr with | some _ => 1024 | none => 0)

/-- The entry of a fault raised now. -/
def Block.entryOf (b : Block) (f : FaultSpec) : FEntry :=
  { time := b.timeNs / 10, turn := b.turn % 2 ^ 48, code := f.code, src := faultSource f,
    addr := f.addr.getD 0 % 2 ^ 48, detail := f.detail % 2 ^ 64 }

/-- Count a fault in its class counter (0x7002, saturating). -/
def Block.countFault (f : FaultSpec) (b : Block) : Block :=
  { b with flog := { b.flog with counts := SMap.upd 0 (codeClass f.code) (satInc 32) b.flog.counts } }

/-- Write entry NEXT and advance NEXT, wrapping at 1,024 (R525); copy a class 3 or higher entry into the first-fault record while it
has room (R528). -/
def Block.writeEntry (f : FaultSpec) (b : Block) : Block :=
  let n := b.get GOV_FLOGIDX_NEXT
  let e := b.entryOf f
  let b := { b with flog := { b.flog with
    ring := SMap.set {} n e b.flog.ring
    first := if 3 ≤ codeClass f.code && b.flog.first.length < 16 then b.flog.first ++ [e] else b.flog.first } }
  let b := b.put GOV_FLOGIDX_NEXT ((n + 1) % 1024)
  if n = 1023 then b.inc GOV_FLOGIDX_WRAPS else b

/-- Log a fault: it is counted, and its entry is written unless the limit of R527 suppresses it (class 0 and 1) or it is 0x5001. A
halted governor (R413) logs nothing. -/
def Block.note (f : FaultSpec) (b : Block) : Block :=
  if b.govHalted then b else
  let b := b.countFault f
  if f.code = 0x5001 then b
  else if codeClass f.code ≤ 1 then
    if b.flog.low < b.actN 0x7003 3 then
      { b with flog := { b.flog with low := b.flog.low + 1 } } |>.writeEntry f
    else b
  else b.writeEntry f

/-- Log a fault whose rule limits it to one entry per turn and key: a later one is counted only (R527). -/
def Block.noteOnce (key : Nat) (f : FaultSpec) (b : Block) : Block :=
  if b.flog.once.contains (f.code * 4096 + key) then (if b.govHalted then b else b.countFault f)
  else { b with flog := { b.flog with once := sinsert (f.code * 4096 + key) b.flog.once } } |>.note f

/-! ## Interrupt files (R76) -/

/-- The base of sail control spaces, and the size of each. -/
def sailCtl : Nat := 0xE000000000
def sailStride : Nat := 0x1000000

/-- The interrupt file page that an address lies in: M-level files and the S-level and guest files of the sixteen cores. -/
def fileOf (a : Nat) : Option Nat :=
  if a < sailCtl || sailCtl + 12 * sailStride ≤ a then none
  else
    let o := (a - sailCtl) % sailStride
    if (0x800000 ≤ o && o < 0x810000) || (0xC00000 ≤ o && o < 0xC80000) then some (a / 4096) else none

/-- An MSI reaches an interrupt file: identities 1 to 2,047 become pending; others are ignored. -/
def Block.filePend (page eiid : Nat) (b : Block) : Block :=
  if 1 ≤ eiid && eiid ≤ 2047 then { b with imsic := SMap.upd {} page (fun m => { m with pend := Nat.lor m.pend (2 ^ eiid) }) b.imsic } else b

/-- Scratch or control space of sail `n` is open to a master (R18): the sail is ACTIVE, or the governor or debug asks for a present one. -/
def Block.sailServes (b : Block) (mid n : Nat) : Bool :=
  n < 12 && (b.get GOV_SAILSTAT_STATE n = 3 || ((mid = midGov || mid = midDebug) && !b.isSet GOV_SAILSTAT_FUSED n))

/-- Send an MSI of a master: a 32-bit write of the identity to the address. At an interrupt file of a sail that R18 opens to the master it becomes
pending (R76); at one of any other sail the hub answers an access error and logs 0x2503. -/
def Block.sendMsi (mid addr eiid : Nat) (b : Block) : Block :=
  match fileOf addr with
  | some page =>
    if !b.sailServes mid ((addr - sailCtl) / sailStride) then
      b.emit .accessError |>.note { code := 0x2503, mid := some mid, addr := some addr }
    else b.emit (.msi addr eiid) |>.when (addr % 4096 = 0) (Block.filePend page eiid)
  | none => b.emit (.msi addr eiid)

/-! ## FAULT_OUT (R529-R531) -/

/-- The commanded levels, which FOUTA and FOUTB of GOV_STATUS show; TEST asserts both (R531). -/
def Block.foutA (b : Block) : Bool := b.flog.outA || b.isSet GOV_FOUTCTL_TEST
def Block.foutB (b : Block) : Bool := b.flog.outB || b.isSet GOV_FOUTCTL_TEST

/-- Assert both outputs. -/
def Block.assertFout (b : Block) : Block :=
  if b.dev = .off then b
  else { b with flog := { b.flog with outA := true, outB := true } }

/-- Release both outputs, unless a class 5 fault holds them until power-on reset. -/
def Block.releaseFout (b : Block) : Block :=
  if b.flog.fatal then b
  else { b with flog := { b.flog with outA := false, outB := false } }

/-! ## MSI-X (R398) -/

/-- Vector `v` of function `f`: the message goes where the function may send, else its pending bit is set. A sub-port that is not UP and a
function in D3hot send none. -/
def Block.sendVec (f v : Nat) (b : Block) : Block :=
  if !b.isSet PCI_CFG_EP then b
  else
    let q := SMap.get {} f b.pci.fns
    let e := SMap.get {} (f * 2048 + v) b.pci.vecs
    if e.masked || !q.msixOn || q.msixMask || q.d3 || b.get PCI_SSTAT_STATE ≠ 2 then
      { b with pci := { b.pci with pba := sinsert (f * 2048 + v) b.pci.pba } }
    else { b with pci := { b.pci with pba := b.pci.pba.filter (· ≠ f * 2048 + v) } } |>.emit (.msix f v e.addr e.data)

/-! ## Device states (R28) -/

/-- The code of a state in GOV_DEVSTATE; OFF, which no register shows, is 0. -/
def DevState.code : DevState → Nat
  | .off => 0 | .boot => 1 | .selftest => 2 | .configWait => 3 | .ready => 4 | .run => 5 | .degraded => 6
  | .safeHold => 7 | .service => 8 | .shutdown => 9

/-- Outputs are emitted in RUN and DEGRADED only (R30). -/
def Block.outputsOn (b : Block) : Bool := b.dev = .run || b.dev = .degraded

/-- A fatal SAFE_HOLD (R533). -/
def Block.fatal (b : Block) : Bool := b.dev = .safeHold && b.isSet GOV_HOLDCAUSE_FATAL

/-- The beacon status of a device state (R31): 0 ACTIVE, 1 HOLD, 2 NOT_READY, 3 LEAVING; where the lanes are idle, 0. -/
def DevState.beacon : DevState → Nat
  | .off => 0 | .boot => 0 | .selftest => 2 | .configWait => 2 | .ready => 2 | .service => 2 | .run => 0 | .degraded => 0
  | .safeHold => 1 | .shutdown => 3

/-- The governor sets the status that every port sends (R328); a port in LOCALHOLD keeps HOLD. -/
def Block.setBeacons (b : Block) : Block :=
  b.forN 6 fun k b => b.put LVP_STATUS_BSTAT (if b.isSet LVP_STATUS_LOCALHOLD k then 1 else b.dev.beacon) k

/-- Take a transition: STATE and PREV change, the timing outputs are low in OFF and BOOT (R47), TEST clears (R531), the beacons' status and vector 11 of the physical function follow (R328, R398), and 0x000E is logged with the old state in detail byte 0 and the new one in byte 1. -/
def Block.setDev (d : DevState) (b : Block) : Block :=
  { b with prev := some b.dev, dev := d
           tu := if d = DevState.off || d = DevState.boot then { b.tu with tsOut := false, ppsOut := false } else b.tu } |>.put GOV_FOUTCTL_TEST 0 |>.setBeacons |>.sendVec 0 11
    |>.note { code := 0x000E, detail := b.dev.code + 256 * d.code }

/-- Log an event that the present state does not accept (R29). -/
def Block.notAccepted (b : Block) : Block := b.note { code := 0x000C }

/-- Answer a dictionary request with an abort code (0: done). -/
def Block.answer (abort : Nat) (b : Block) : Block := b.emit (.answer abort [])

/-- Refuse a state request: 0x000C and abort code 0x0800_0022 (R29, R37). -/
def Block.refuseState (b : Block) : Block := b.notAccepted |>.answer 0x08000022

/-! ## Commit status (0x1F00:02) -/

/-- A commit ends: its state, result and detail, with the turn; its stager's claim is released (R450). -/
def Block.endCommit (st result detail : Nat) (b : Block) : Block :=
  { b with commit := { b.commit with
      state := st, result := result, detail := detail, turn := b.turn % 2 ^ 24
      persistAfter := b.commit.persistAfter && st = 3
      claim := if b.commit.claim = some b.commit.who then none else b.commit.claim } }

/-- Cancel a pending switch (R456): CANCELLED with RESULT 11, logged as 0x0B07. -/
def Block.cancelPending (b : Block) : Block :=
  if b.commit.state = 2 then b.endCommit 5 11 0 |>.note { code := 0x0B07 } else b

/-- A fault or a state change takes the device out of the states in which a commit is checked (R456): the commit is cancelled. -/
def Block.cancelCommit (b : Block) : Block :=
  if b.commit.state = 1 then b.endCommit 5 11 0 |>.note { code := 0x0B07 } else b.cancelPending

/-! ## Mailbox channels and locks (R420-R431) -/

/-- The key of the channel from sender `s` to receiver `r` in set `x`. -/
def chanKey (x r s : Nat) : Nat := x * 16384 + r * 128 + s

def Block.chan (b : Block) (k : Nat) : Chan := SMap.get {} k b.mbx.chans
def Block.modChan (k : Nat) (f : Chan → Chan) (b : Block) : Block :=
  { b with mbx := { b.mbx with chans := SMap.upd {} k f b.mbx.chans } }

/-- The notification of agent `a` (R426): one MSI; an address of 0 sends nothing. -/
def Block.notify (a : Nat) (b : Block) : Block :=
  let addr := b.actN 0x1402 (a + 1)
  if addr = 0 then b else b.sendMsi midGov (addr % 2 ^ 48) (b.actN 0x1403 (a + 1))

/-- Discard the message of a channel with ABORTED, tell its sender, and log 0x0005 (R424, R427). -/
def Block.abortChan (k : Nat) (b : Block) : Block :=
  let c := b.chan k
  if c.state = 0 then b.modChan k (fun c => { c with vis := none })
  else
    b.modChan k (fun c => { c with state := 0, aborted := true, sreset := false, len := 0, msg := List.replicate 48 0, vis := none })
      |>.notify (k % 128) |>.note { code := 0x0005 }

/-- Receiver reset, then sender reset, of agent `a` (R427-R429). -/
def Block.resetAgent (a : Nat) (b : Block) : Block :=
  let into := (b.mbx.chans.filter (fun e => e.1 / 128 % 128 = a)).map (·.1)
  let b := b.forL into Block.abortChan
  let outOf := (b.mbx.chans.filter (fun e => e.1 % 128 = a && e.2.state ≠ 0)).map (·.1)
  b.forL outOf (fun k b => b.modChan k fun c => { c with sreset := true })

/-- Release every lock whose holder satisfies `f`, each logged (R431). -/
def Block.freeLocks (f : Nat → Bool) (b : Block) : Block :=
  let l := b.mbx.locks.filter (fun e => f (e.2 - 1))
  let b := { b with mbx := { b.mbx with locks := b.mbx.locks.filter (fun e => !f (e.2 - 1)) } }
  b.forL l (fun e b => b.note { code := 0x0007, detail := e.1 })

/-! ## Partitions and the device state (R304) -/

/-- The partition states of BLT_PSTATp. -/
def pDefined : Nat := 0
def pLoaded : Nat := 1
def pRunning : Nat := 2
def pDegraded : Nat := 3
def pRepairing : Nat := 4
def pHalted : Nat := 5

/-- The partition is defined by the active image. -/
def Block.partDefined (b : Block) (p : Nat) : Bool := b.get BLT_PSTAT_MODE p ≠ 0

/-- The partition is loaded: LOADED, RUNNING, DEGRADED or REPAIRING. -/
def Block.partLive (b : Block) (p : Nat) : Bool :=
  b.partDefined p && (1 ≤ b.get BLT_PSTAT_STATE p) && (b.get BLT_PSTAT_STATE p ≤ 4)

/-- Entry to SAFE_HOLD, SERVICE or SHUTDOWN halts every loaded partition: no entries, no releases (R304); entry to HALTED resets its
mailbox agent (R427). -/
def Block.haltParts (b : Block) : Block :=
  b.forN 64 (fun p b => b.when (b.partLive p) (fun b => (b.put BLT_PSTAT_STATE pHalted p).resetAgent p))

/-- Entry to SAFE_HOLD with its cause (R28, R456, R532; HOLDCAUSE): `code` 0 for a request. FATAL is kept or set. -/
def Block.enterSafeHold (code : Nat) (fatal : Bool) (b : Block) : Block :=
  b.setDev .safeHold
    |>.setR .GOV_HOLDCAUSE (code + 0x10000 + (if code = 0 then 0x20000 else 0) + (if fatal then 0x40000 else 0))
    |>.assertFout |>.haltParts |>.cancelCommit

/-- The states in which a SAFE_HOLD request moves the device (R37). -/
def DevState.holdable : DevState → Bool
  | .boot => true | .selftest => true | .configWait => true | .ready => true | .run => true | .degraded => true
  | .service => true | .off => false | .safeHold => false | .shutdown => false

/-- A SAFE_HOLD request of a dictionary path or of GOV_HOLDREQ (R37): it moves the device in the states of R37, has no further effect
in SAFE_HOLD, and in SHUTDOWN is logged as not accepted. Its acceptance asserts FAULT_OUT (R529). It gets no abort code. -/
def Block.holdRequest (b : Block) : Block :=
  if b.dev.holdable then b.enterSafeHold 0 false
  else if b.dev = .shutdown then b.notAccepted
  else b

/-! ## Reaction to faults (R523, R524, R534, R535) -/

/-- The order in which faults of one cycle are written (R526): higher class first, then lower code. -/
def faultBefore (f g : FaultSpec) : Bool :=
  codeClass g.code < codeClass f.code || (codeClass f.code = codeClass g.code && f.code ≤ g.code)

/-- Insertion into a list of faults in the order of R526 (equal codes keep their order of arrival). -/
def faultInsert (f : FaultSpec) : List FaultSpec → List FaultSpec
  | [] => [f]
  | g :: r => if faultBefore g f then g :: faultInsert f r else f :: g :: r

/-- The faults of one cycle in the order of R526. -/
def faultSort (l : List FaultSpec) : List FaultSpec := l.foldl (fun a f => faultInsert f a) []

/-- Move RUN to DEGRADED (class 3): the transition is counted with its turn, and beyond the limit of R535 0x400F is raised, which
moves the device to SAFE_HOLD. -/
def Block.degrade (b : Block) : Block :=
  let b := b.setDev .degraded
  let t := b.turn
  let l := (b.flog.degr ++ [t]).filter (fun u => t < u + b.actN 0x7003 2)
  let b := { b with flog := { b.flog with degr := l } }
  if b.actN 0x7003 1 < l.length then
    b.note { code := 0x400F } |>.enterSafeHold 0x400F false
  else b

/-- The state change that one fault of the highest class of its cycle brings (R523, R533); `code` is the first fault written. The
codes 0x4601 and 0x4D04 in SERVICE keep the state (R524). -/
def Block.react (code : Nat) (b : Block) : Block :=
  let c := codeClass code
  if c = 3 then (if b.dev = .run then b.degrade else b)
  else if c = 4 then
    if code = 0x4601 && b.dev = .selftest then b
    else match b.dev with
      | .run => b.enterSafeHold code false
      | .degraded => b.enterSafeHold code false
      | .boot => b.enterSafeHold code false
      | .selftest => b.enterSafeHold code false
      | .configWait => b.enterSafeHold code false
      | .ready => b.enterSafeHold code false
      | _ => b
  else if c = 5 then
    let b := { b with flog := { b.flog with fatal := true } }
    match b.dev with
    | .off => b
    | .shutdown => b
    | .safeHold => b.put GOV_HOLDCAUSE_FATAL 1
    | _ => b.enterSafeHold code true
  else b

/-- The exception reaction of 0x4D04 in SERVICE (R514): throttle level 4 and OP 1 on every ACTIVE sail. -/
def Block.criticalInService (b : Block) : Block :=
  b.put PWR_STATUS_THRLVL 4 |>.forN 12 (fun n b =>
    b.when (b.get GOV_SAILSTAT_STATE n = 3) (fun b => b.put SAIL_OP_TARGET 1 n))

/-- All faults that reach the governor in one cycle (R526, R534): each is logged; FAULT_OUT asserts for class 4 and 5 (R529); one
transition is taken, that of the first fault written. -/
def Block.raiseAll (fs : List FaultSpec) (b : Block) : Block :=
  if b.govHalted then b else
  let l := faultSort fs
  let b := b.forL l Block.note
  let b := b.when (l.any (fun f => 4 ≤ codeClass f.code)) Block.assertFout
  let b := b.when (l.any (fun f => f.code = 0x4D04) && b.dev = .service) Block.criticalInService
  match l.find? (fun f => !(f.code = 0x4601 && b.dev = .selftest)) with
  | none => b
  | some f => b.react f.code

/-- One fault: logged, and its reaction runs. -/
def Block.raise (f : FaultSpec) (b : Block) : Block := b.raiseAll [f]

end Sys2Proof.Machine
end

