-- ==== Sys2Proof/Machine/HartBase.lean ====
section
/-! DEFINITION. A hart's CSRs, its performance counters (R72, R107), and the private caches of the cores (R80, R82). -/

namespace Sys2Proof.Machine

/-! ## Harts and their CSRs -/

/-- The hart of a hart ID. -/
def Block.hart (b : Block) (h : Nat) : Hart := SMap.get {} h b.harts

/-- Change a hart. -/
def Block.modHart (h : Nat) (f : Hart → Hart) (b : Block) : Block := { b with harts := SMap.upd {} h f b.harts }

/-- A sail beyond its registers. -/
def Block.sail (b : Block) (n : Nat) : Sail := SMap.get {} n b.sails
def Block.modSail (n : Nat) (f : Sail → Sail) (b : Block) : Block := { b with sails := SMap.upd {} n f b.sails }

/-- Virtualised modes. -/
def isV : Priv → Bool
  | .vs => true | .vu => true | _ => false

/-- CSR numbers of the ISA and of the vendor extensions that the rules use. -/
def csrMstatus : Nat := 0x300
def csrMedeleg : Nat := 0x302
def csrMtvec : Nat := 0x305
def csrMepc : Nat := 0x341
def csrMcause : Nat := 0x342
def csrMtval : Nat := 0x343
def csrMtval2 : Nat := 0x34B
def csrStvec : Nat := 0x105
def csrSepc : Nat := 0x141
def csrScause : Nat := 0x142
def csrStval : Nat := 0x143
def csrSatp : Nat := 0x180
def csrSie : Nat := 0x104
def csrHstatus : Nat := 0x600
def csrHedeleg : Nat := 0x602
def csrHtval : Nat := 0x643
def csrHgatp : Nat := 0x680
def csrVsstatus : Nat := 0x200
def csrVsie : Nat := 0x204
def csrVstvec : Nat := 0x205
def csrVsepc : Nat := 0x241
def csrVscause : Nat := 0x242
def csrVstval : Nat := 0x243
def csrVsatp : Nat := 0x280
def csrStimecmp : Nat := 0x14D
def csrVstimecmp : Nat := 0x24D
def csrPkr : Nat := 0x800
def csrBcastctl : Nat := 0x9C1
def csrInvdom : Nat := 0x9C2
def csrXnlctl : Nat := 0x9C3
def csrXnlcause : Nat := 0x9C4
def csrVsxnlcause : Nat := 0x9C5
def csrXnladdr : Nat := 0x9C6
def csrTurnseal : Nat := 0x9C0

/-- A CSR's value at reset: mstatus with SXL and UXL 2, misa, the timer compares at all ones, marchid; every other 0. -/
def csrReset (c : Nat) : Nat :=
  if c = csrMstatus then 0xA00000000
  else if c = 0x301 then 0x80000000003411AF
  else if c = csrStimecmp || c = csrVstimecmp then 2 ^ 64 - 1
  else if c = 0xF12 then 0x8000000000004E12
  else 0

/-- A CSR as the hart holds it, and a write of it by the hardware. -/
def Block.csr (b : Block) (h c : Nat) : Nat := SMap.get (csrReset c) c (b.hart h).csr
def Block.setCsr (h c v : Nat) (b : Block) : Block :=
  b.modHart h fun t => { t with csr := SMap.set (csrReset c) c (v % 2 ^ 64) t.csr }

/-- The partition ID of a hart's requests (R274). -/
def Block.hartPart (b : Block) (h : Nat) : Option Nat := (b.hart h).pin.map (·.1)

/-- Partition ID for the memory side; an unpinned hart has none. -/
def Block.partNo (b : Block) (h : Nat) : Nat := (b.hartPart h).getD noPart

/-! ## Performance counters -/

/-- Count an event in the hpmcounters 3 to 10 of a hart that select it and are not inhibited in its mode; an overflow sets OF and the local interrupt of
Sscofpmf (R72, R107). -/
def Block.hpm (h ev k : Nat) (b : Block) : Block :=
  if k = 0 then b
  else b.forN 8 fun i b =>
    let e := b.csr h (0x323 + i)
    let inh := match (b.hart h).priv with | .m => 62 | .s => 61 | .u => 60 | .vs => 59 | .vu => 58
    if bits e 0 55 ≠ ev || bit e inh || bit (b.csr h 0x320) (3 + i) then b
    else
      let c := b.csr h (0xB03 + i) + k
      let b := b.setCsr h (0xB03 + i) c
      if c < 2 ^ 64 || bit e 63 then b
      else b.setCsr h (0x323 + i) (e + 2 ^ 63) |>.setCsr h 0x344 (setBits (b.csr h 0x344) 13 13 1)

/-- An L3 lookup of a hart is counted and charged (R107, R507). -/
def Block.lookup (h : Nat) (b : Block) : Block :=
  b.pmu (h / 32) 0x01 (b.hartPart h) 1 |>.charge (h / 32) (b.partNo h) 6000

/-! ## Private caches (R80)

Each holds lines of the sail's L3, which keeps their data; L1I and L1D hold lines of L2. Within a sail one core at a time holds a line dirty. -/

/-- The private caches of a core. -/
inductive PCache where | l1i | l1d | l2
deriving DecidableEq, Repr

def PCache.ways : PCache → Nat
  | .l1i => 4 | .l1d => 8 | .l2 => 8
def PCache.sets : PCache → Nat
  | .l1i => 256 | .l1d => 128 | .l2 => 2048

/-- The lines of a private cache. -/
def Hart.lines (t : Hart) : PCache → List PLine
  | .l1i => t.l1i | .l1d => t.l1d | .l2 => t.l2
def Hart.setLines (t : Hart) (c : PCache) (l : List PLine) : Hart :=
  match c with
  | .l1i => { t with l1i := l } | .l1d => { t with l1d := l } | .l2 => { t with l2 := l }

def Hart.holds (t : Hart) (c : PCache) (line : Nat) : Bool := (t.lines c).any (fun p => p.line = line)
def Hart.holdsDirty (t : Hart) (c : PCache) (line : Nat) : Bool := (t.lines c).any (fun p => p.line = line && p.dirty)

/-- A line leaves a private cache; from L2 it leaves the L1s too. -/
def Hart.dropFrom (t : Hart) (c : PCache) (line : Nat) : Hart := t.setLines c ((t.lines c).filter (fun p => p.line ≠ line))
def Hart.dropPriv (t : Hart) (line : Nat) : Hart := ((t.dropFrom .l1i line).dropFrom .l1d line).dropFrom .l2 line

/-- A line's copies are clean: what they held is in the L3. -/
def Hart.cleanPriv (t : Hart) (line : Nat) : Hart :=
  let f (l : List PLine) : List PLine := l.map fun p => if p.line = line then { p with dirty := false } else p
  { t with l1d := f t.l1d, l2 := f t.l2 }

/-- A line enters a private cache. A full set loses a line, by a choice that the spec leaves open: out of an L1 its dirtiness goes to L2, out of L2 its L1
copies go with it. -/
def Block.privAdd (h : Nat) (c : PCache) (line : Nat) (b : Block) : Block :=
  let t := b.hart h
  if t.holds c line then b
  else
    let set := (t.lines c).filter fun p => p.line % c.sets = line % c.sets
    let put (t : Hart) : Hart := t.setLines c (t.lines c ++ [{ line := line }])
    if set.length < c.ways then b.modHart h put
    else
      let v := set.getD (Config.victim b.free c.ways % c.ways) { line := line }
      (b.modHart h fun t => put (match c with
        | .l2 => t.dropPriv v.line
        | _ => { t.dropFrom c v.line with l2 := t.l2.map fun p => if p.line = v.line then { p with dirty := p.dirty || v.dirty } else p })).tickFree

/-- A line enters L2 and the L1 of its kind. -/
def Block.privFill (h line : Nat) (fetch : Bool) (b : Block) : Block :=
  b.privAdd h .l2 line |>.privAdd h (if fetch then .l1i else .l1d) line

/-- Count the misses of a core's private caches on a line, and the L3 lookup that follows a miss of L2. -/
def Block.privMisses (h line : Nat) (fetch : Bool) (b : Block) : Block :=
  let t := b.hart h
  if t.holds (if fetch then .l1i else .l1d) line then b
  else
    let b := b.hpm h (if fetch then 0x81 else 0x82) 1
    if t.holds .l2 line then b else b.hpm h 0x83 1 |>.lookup h

/-- A core uses a line that its L3 holds: the private caches take it. Its store makes it dirty there and takes the other cores' copies; its load makes theirs
clean. -/
def Block.privUse (h line : Nat) (fetch store : Bool) (b : Block) : Block :=
  let b := b.privMisses h line fetch |>.privFill h line fetch
  b.mapHarts fun k t =>
    if k / 32 ≠ h / 32 then t
    else if k = h then
      (if store then { t with l1d := t.l1d.map fun p => if p.line = line then { p with dirty := true } else p } else t)
    else if store then t.dropPriv line else t.cleanPriv line

/-- A line leaves the private caches of a sail (R80, R81): back-invalidations are counted for each L2 that held it, and the reservations on it are lost. -/
def Block.backInval (n line : Nat) (b : Block) : Block :=
  let ks := b.harts.filter fun e => e.1 / 32 = n && e.2.holds .l2 line
  b.forL ks (fun e b => b.pmu n 0x04 (e.2.pin.map (·.1)) 1)
    |>.mapHarts fun h t => if h / 32 ≠ n then t else
        let t := t.dropPriv line
        if t.resv = some line then { t with resv := none } else t

/-- What the private caches of a sail hold dirty of a line goes to the L3. -/
def Block.privClean (n line : Nat) (b : Block) : Block := b.mapHarts fun h t => if h / 32 ≠ n then t else t.cleanPriv line

end Sys2Proof.Machine
end

