-- ==== Sys2Proof/Machine/MemOps.lean ====
section
/-! DEFINITION. DRAM: population, layout and regions (R20-R23, R252-R256), codes and stored errors (R259-R261), reservations (R264). -/

namespace Sys2Proof.Machine

/-! ## Capacity and layout -/

/-- C in bytes (R20, MC_CFG.CAP); 0 until training. -/
def Block.capBytes (b : Block) : Nat :=
  match b.get MC_CFG_CAP with
  | 1 => 0x200000000 | 2 => 0x400000000 | 3 => 0x800000000 | _ => 0

/-- K and Q in bytes (R252). -/
def Block.carveK (b : Block) : Nat := b.get MC_LAYOUT_K * 0x200000
def Block.poolQ (b : Block) : Nat := b.get MC_LAYOUT_Q * 0x200000

/-- Word `w` of region descriptor `i` as active (R255; every controller holds the same copy). -/
def Block.desc (b : Block) (i w : Nat) : Nat := b.getR .MC_RD 0 i w

/-- The fields of a descriptor's word 0. -/
def descV (w : Nat) : Bool := bit w 0
def descCode (w : Nat) : Nat := bits w 1 2
def descPin (w : Nat) : Bool := bit w 3
def descPriv (w : Nat) : Bool := bit w 4
def descOwner (w : Nat) : Nat := bits w 6 9
def descMask (w : Nat) : Nat := bits w 16 23

/-- The codes of R255. -/
def codeN : Nat := 0
def codeL : Nat := 1
def codeS : Nat := 2
def codeM : Nat := 3

/-- Does descriptor `i` cover the address? -/
def Block.covers (b : Block) (pa i : Nat) : Bool :=
  descV (b.desc i 0) && b.desc i 1 ≤ pa && pa < b.desc i 1 + b.desc i 2

/-- The descriptor that covers an address (R257: at most one). -/
def Block.regionOf (b : Block) (pa : Nat) : Option Nat :=
  (List.range 64).find? (fun i => b.covers pa i)

/-- The controllers of a PINMASK, ascending. -/
def pinList (m : Nat) : List Nat := (List.range 8).filter (fun c => bit m c)

/-- Where an address lies: descriptor, controller, controller-local address (R21, R256). -/
structure Place where
  desc : Nat
  mc : Nat
  loc : Nat
deriving DecidableEq, Repr

/-- The place of an address under the descriptors (R21, R22, R256). -/
def Block.place (b : Block) (pa : Nat) : Option Place :=
  match b.regionOf pa with
  | none => none
  | some i =>
    let w := b.desc i 0
    if descPin w then
      let ps := pinList (descMask w)
      let x := pa - b.desc i 1
      let g := x / 4096
      some ⟨i, ps.getD (g % ps.length) 0,
        b.capBytes - b.carveK - b.poolQ + 4096 * bits (b.desc i 3) 32 63 + 4096 * (g / ps.length) + x % 4096⟩
    else some ⟨i, bits pa 12 14, bits pa 15 37 * 4096 + pa % 4096⟩

/-- A local address lies in a retired bank of a controller (R271: banks by L[18:14]; the channel does not matter). -/
def Block.bankRetired (b : Block) (mc loc : Nat) : Bool :=
  (List.range 16).any fun s =>
    let e := b.actN 0x5401 (s + 1)
    bit e 11 && bits e 0 2 = mc && bits e 6 6 = bits loc 18 18 && bits e 7 10 = bits loc 14 17

/-- The granule of an address is retired: named at 0x5400, or with a copy in a retired bank (R271). -/
def Block.retired (b : Block) (pa : Nat) (p : Place) : Bool :=
  (List.range 254).any (fun s =>
      let e := b.actN 0x5400 (s + 1)
      bit e 0 && e / 4096 = pa / 4096)
    || b.bankRetired p.mc p.loc
    || (descCode (b.desc p.desc 0) = codeM && b.bankRetired (xorN p.mc 4) p.loc)

/-- Usable, hence populated, DRAM (R23, R253). -/
def Block.dramOk (b : Block) (pa : Nat) : Bool :=
  match b.place pa with
  | some p => decide (pa < 8 * b.capBytes) && !b.retired pa p
  | none => false

/-- The home slice of an address (R175): that of the controller that holds it. -/
def Block.homeOf (b : Block) (pa : Nat) : Nat :=
  match b.place pa with
  | some p => p.mc
  | none => bits pa 12 14

/-- The owner sail of a private region (R200). -/
def Block.privOwner (b : Block) (pa : Nat) : Option Nat :=
  match b.regionOf pa with
  | some i => if descPriv (b.desc i 0) then some (descOwner (b.desc i 0)) else none
  | none => none

/-! ## Stored lines -/

/-- The key of a copy: controller and local line. -/
def copyKey (mc loc : Nat) : Nat := mc * 0x20000000 + loc / 64

/-- The cell key of a byte. -/
def cellKey (mc loc : Nat) : Nat := mc * 0x800000000 + loc

/-- The bytes of a line at a controller. -/
def Block.lineBytes (b : Block) (mc loc : Nat) : Bytes :=
  SMap.getRun 0 (cellKey mc (loc / 64 * 64)) 64 b.mem

/-- Store the 64 bytes of a line. -/
def Block.storeLine (mc loc data : Nat) (b : Block) : Block :=
  { b with mem := SMap.setRun 0 (cellKey mc (loc / 64 * 64)) (leBytes 64 data) b.mem }

/-- Poison mark of a copy. -/
def Block.copyPoison (b : Block) (mc loc : Nat) : Bool := SMap.get false (copyKey mc loc) b.ms.poison
def Block.setCopyPoison (mc loc : Nat) (p : Bool) (b : Block) : Block :=
  { b with ms := { b.ms with poison := SMap.set false (copyKey mc loc) p b.ms.poison } }

/-- Wrong symbols of a copy. -/
def Block.copyErrs (b : Block) (mc loc : Nat) : Nat := SMap.get 0 (copyKey mc loc) b.ms.errs
def Block.setCopyErrs (mc loc e : Nat) (b : Block) : Block :=
  { b with ms := { b.ms with errs := SMap.set 0 (copyKey mc loc) e b.ms.errs } }

/-- The copies of the line at an address: one, and under Code M the mirror too (R256). -/
def Block.copiesOf (b : Block) (pa : Nat) : List Place :=
  match b.place pa with
  | none => []
  | some p => p :: (if descCode (b.desc p.desc 0) = codeM then [{ p with mc := xorN p.mc 4 }] else [])

/-- Data and poison mark of every copy of a line. -/
def Block.storeCopies (pa data : Nat) (poison : Bool) (b : Block) : Block :=
  b.forL (b.copiesOf pa) fun p b => b.storeLine p.mc p.loc data |>.setCopyErrs p.mc p.loc 0
    |>.when (descCode (b.desc p.desc 0) ≠ codeN) (Block.setCopyPoison p.mc p.loc poison)

/-- Store bytes at a controller. -/
def Block.storeBytes (mc loc : Nat) (v : Bytes) (b : Block) : Block := { b with mem := SMap.setRun 0 (cellKey mc loc) v b.mem }

/-- What decoding a copy yields (R259, R260): good, good after correcting n symbols, poison, uncorrectable, or beyond the code. -/
inductive Decoded where
  | good | corrected (n : Nat) | poisoned | uncorrectable | beyond
deriving DecidableEq, Repr

/-- Decode a copy under a code with `e` wrong symbols and the poison form stored or not. -/
def decodeCopy (code e : Nat) (poison : Bool) : Decoded :=
  if code = codeN then (if e = 0 then .good else .beyond)
  else if code = codeL then
    if poison then .poisoned
    else if e = 0 then .good else if e = 1 then .corrected 1 else if e = 2 then .uncorrectable else .beyond
  else
    if poison then (if e ≤ 4 then .poisoned else .uncorrectable)
    else if e = 0 then .good else if e ≤ 4 then .corrected e else if e ≤ 8 then .uncorrectable else .beyond

/-! ## Reservations (R264) -/

/-- Take a token of partition `p` at a controller for one line of 64 bytes; a request without one sets MC_RSVOVER. -/
def Block.takeToken (mc p : Nat) (b : Block) : Block :=
  let k := mc * 64 + p
  let u := SMap.get {} k b.ms.buckets
  let now := b.timeNs
  let lvl := min 40960 (u.level + b.get MC_RSV_RATE mc p * (now - u.stamp))
  let put (l : Nat) (b : Block) : Block := { b with ms := { b.ms with buckets := SMap.set {} k ⟨l, now⟩ b.ms.buckets } }
  if 640 ≤ lvl then put (lvl - 640) b
  else put lvl b |>.setR .MC_RSVOVER (Nat.lor (b.getR .MC_RSVOVER mc) (2 ^ p)) mc |>.noteOnce mc { code := 0x160B }

end Sys2Proof.Machine
end

