-- ==== Sys2Proof/Machine/Turn.lean ====
section
/-! DEFINITION. The turn unit and the event inputs: master timer, alignment, holdover, timing outputs (R38-R51), EVT block (R62-R69). -/

namespace Sys2Proof.Machine

/-- The period in force, in ns (R38): TRN_PERIOD, or the length of the stepped turn (R44). -/
def Block.periodNs (b : Block) : Nat :=
  if b.tu.stepLen = 0 then b.get TRN_PERIOD_PERIOD * 1000 else b.tu.stepLen

/-- The phase in ns, as timer A counts it (R40). -/
def Block.phaseNs (b : Block) : Nat := b.tu.phaseA / nsUnit

/-- Boundaries are being generated. -/
def Block.running (b : Block) : Bool := b.isSet TRN_STATUS_RUNNING

/-- Change the turn unit. -/
def Block.modTu (f : TurnUnit → TurnUnit) (b : Block) : Block := { b with tu := f b.tu }

/-- The two timers advance by one governor cycle, and with them the device time base (R41, R561). A halted governor has stopped its
timers (R413). -/
def Block.govCycle (b : Block) : Block :=
  if b.govHalted || b.dev = .off then b
  else
    let b := { b with timeBase := b.timeBase + b.tu.incr }
    if b.running then
      b.modTu (fun t => { t with phaseA := t.phaseA + t.incr, phaseB := t.phaseB + t.incr })
    else b

/-- Timer A reaches the end of the period: the time base runs on to that instant and both timers restart (R41). -/
def Block.endOfPeriod (b : Block) : Block :=
  let len := b.periodNs * nsUnit
  { b with timeBase := b.timeBase + (len - b.tu.phaseA) }
    |>.modTu (fun t => { t with phaseA := 0, phaseB := 0, stepLen := 0 })

/-! ## Alignment (R42-R46) -/

/-- An offset taken to the half-open interval (-P/2, P/2]. -/
def centred (p x : Int) : Int := if p ≤ 0 then 0 else
  let r := x % p
  if 2 * r ≤ p then r else r - p

/-- The nominal period in ns. -/
def Block.nominalNs (b : Block) : Nat := b.get TRN_PERIOD_PERIOD * 1000

/-- The phase that an aligned schedule would show where this one stands: in a stepped turn, which ends at the aligned instant, it is counted back
from the end of the turn (R44). -/
def Block.refPhase (b : Block) : Int :=
  if b.tu.stepLen = 0 then (b.phaseNs : Int) else (b.phaseNs : Int) + b.nominalNs - b.tu.stepLen

/-- The measured offset when the reference says that the phase should be `want`, modulo the period (positive: the device is late). -/
def Block.offsetFor (want : Int) (b : Block) : Int := centred b.nominalNs (want - b.refPhase)

/-- The slew limit in parts per 10^9 (0x2000:05 is in ppm). -/
def Block.slewPpb (b : Block) : Int := (b.actN 0x2000 5 : Int) * 1000

/-- Clamp to ±m. -/
def clampAbs (m x : Int) : Int := if m < x then m else if x < -m then -m else x

/-- R43: correct an offset by the rate alone. The rate asked for is a free value; the block bounds it by the slew limit, and the
increment follows it. -/
def Block.slew (off : Int) (b : Block) : Block :=
  let r := clampAbs b.slewPpb (Config.rateChoice b.free off)
  b.tickFree
    |>.put TRN_RATE_RATE (ofSigned 32 r)
    |>.modTu (fun t => { t with incr := (10737418240 + 10737418240 * r / 1000000000).toNat })

/-- Take a measured offset of a valid reference: TRN_OFFSET and LOCKED, the rate correction, and the end of a holdover (R43, R45). -/
def Block.takeOffset (off : Int) (b : Block) : Block :=
  let lock := off.natAbs ≤ b.actN 0x2000 6
  let b := b.put TRN_OFFSET_OFFSET (ofSigned 64 off) |>.put TRN_STATUS_LOCKED (ofBool lock)
  let b := if b.isSet TRN_STATUS_HOLDOVER then
      b.note { code := 0x010B } |>.put TRN_STATUS_HOLDOVER 0 |>.put TRN_STATUS_HOLDTURNS 0
        |>.modTu (fun t => { t with holdTurns := 0, limitRaised := false })
    else b
  b.modTu (fun t => { t with refValid := true, rejects := [] }) |>.slew off

/-- What a reference adds to the time base when it sets it (R561): in GPTP mode the difference to t; in PPS mode the edge falls on a whole second,
and the whole seconds counted stay. -/
def Block.baseDelta (mode : Nat) (t : Int) (b : Block) : Int :=
  if mode = 1 then t - (b.timeNs : Int) else if mode = 2 then -((b.timeNs % 1000000000 : Nat) : Int) else 0

/-- Set the time base by what the last reference said (R561). -/
def Block.setTimeBase (b : Block) : Block :=
  { b with timeBase := (((b.timeBase : Int) + b.tu.refDelta * nsUnit) % ((2 ^ 64 * nsUnit : Nat) : Int)).toNat }
    |>.modTu fun u => { u with refDelta := 0 }

/-- A reference is taken: what it says of the time base is kept for a step, and the first one after a reset sets the time base (R561). -/
def Block.takeReference (mode : Nat) (t : Int) (b : Block) : Block :=
  let b := b.modTu fun u => { u with refDelta := b.baseDelta mode t }
  if b.tu.refOnce then b else b.setTimeBase |>.modTu (fun u => { u with refOnce := true })

/-- The length of a stepped turn (R44): the aligned instant that makes it at least P/2 and less than 3P/2. -/
def stepLength (p : Nat) (off : Int) : Nat :=
  let d := centred p off
  let l := ((p : Int) - d).toNat
  if 2 * l < p then l + p else if 3 * p ≤ 2 * l then l - p else l

/-- R44, checked at every boundary: the offset from a valid reference is beyond the step threshold. -/
def Block.offsetFar (b : Block) : Bool :=
  b.get TRN_CFG_SYNCMODE ≠ 0 && b.tu.refValid && !b.isSet TRN_STATUS_HOLDOVER
    && decide (b.actN 0x2000 6 < (toSigned 64 (b.get TRN_OFFSET_OFFSET)).natAbs)

/-- The step of R44: the turn that starts at this boundary is the stepped one, and its end is the aligned instant; 0x0102 is logged. OFFSET, the last
measured offset, is shown as 0 and LOCKED as 1 from here on, though nothing was measured: the spec does not give their values after a step (DESIGN
CHOICE). -/
def Block.stepTurn (b : Block) : Block :=
  b.note { code := 0x0102 }
    |>.modTu (fun t => { t with stepLen := stepLength b.nominalNs (toSigned 64 (b.get TRN_OFFSET_OFFSET)) })
    |>.put TRN_OFFSET_OFFSET 0 |>.put TRN_STATUS_LOCKED 1

/-- The number of the turn that starts at this boundary (R39, R44): 0 at the first boundary after CONFIG_WAIT from SELFTEST; after a stepped turn the
number of the reference, floor((t - A) / P) at the aligned instant, where t - A is a multiple of P (the half period added absorbs the rounding of t to
whole ns), in TSYNC mode the turn of the peer that runs now, counted on from its last beacon; else one more. -/
def Block.nextTurn (stepped : Bool) (b : Block) : Nat :=
  if b.tu.zeroNext then 0
  else if stepped then
    let mode := b.get TRN_CFG_SYNCMODE
    let p := b.nominalNs
    let t : Int := (b.timeNs : Int) + b.tu.refDelta - (b.get TRN_ALIGN_ALIGN : Int)
    if mode = 1 || mode = 2 then ((t + (p / 2 : Nat)) / (p : Int)).toNat
    else if mode = 3 then b.tu.peerTurn + (b.timeNs - b.tu.peerNs + p / 2) / p
    else b.turn + 1
  else (b.turn + 1) % 2 ^ 64

/-- A beacon of the peer turn master (R42): its turn, and when that began (the arrival less DELAY and the one-way link delay, R326). -/
def Block.peerBeacon (turn delay : Nat) (b : Block) : Block :=
  b.modTu fun t => { t with peerTurn := turn, peerNs := b.timeNs - delay }

/-- The rejected edges that agree with one another to within the window, modulo the period. -/
def agree (p win : Nat) : List Int → Bool
  | [] => true
  | x :: xs => xs.all (fun y => decide ((centred p (x - y)).natAbs ≤ win)) && agree p win xs

/-- A reference edge with its offset (R46): inside the acceptance window it is taken; outside it is rejected and logged, and outside
RUN and DEGRADED three consecutive rejected edges that agree become the reference, to which the unit steps under R44. Before a first reference no
time is expected, and the first edge is taken (DESIGN CHOICE: the spec does not say). -/
def Block.refEdge (mode : Nat) (off : Int) (b : Block) : Block :=
  let win := b.actN 0x2000 8
  if off.natAbs ≤ win || !b.tu.refValid then b.takeReference mode 0 |>.takeOffset off
  else
    let b := b.note { code := 0x010A }
    let rs := b.tu.rejects ++ [off]
    let last := rs.drop (rs.length - 3)
    if !b.outputsOn && last.length = 3 && agree b.nominalNs win last then b.takeReference mode 0 |>.takeOffset off
    else b.modTu (fun t => { t with rejects := last })

/-- PPS_IN_EDGE (R42, R46, R561): in PPS mode the rising edge marks a whole second. -/
def execPpsInEdge (s : State) : Host.Outcome State Fault Refusal :=
  onBlk s fun b =>
    if b.get TRN_CFG_SYNCMODE = 2 && b.running then
      b.refEdge 2 (b.offsetFor (-(b.get TRN_ALIGN_ALIGN : Int)))
    else b

/-- TURN_SYNC_IN_EDGE (R42, R46): in TSYNC mode each edge arrives A ns after a boundary. -/
def execTurnSyncInEdge (s : State) : Host.Outcome State Fault Refusal :=
  onBlk s fun b =>
    if b.get TRN_CFG_SYNCMODE = 3 && b.running then
      b.refEdge 3 (b.offsetFor (b.get TRN_ALIGN_ALIGN : Int))
    else b

/-- GPTP_SYNC (R42, R381, R561): the vehicle time service gives t. In GPTP mode it is the reference. As a follower, object 0x9100:06
takes the offset from the grandmaster. -/
def execGptpSync (time : Int) (s : State) : Host.Outcome State Fault Refusal :=
  onBlk s fun b =>
    let b := { b with svc := { b.svc with timeOffset := (b.timeNs : Int) - time, syncLost := false } }
    if b.get TRN_CFG_SYNCMODE = 1 && b.running then
      b.takeReference 1 time |>.takeOffset (b.offsetFor (time - (b.get TRN_ALIGN_ALIGN : Int)))
    else b

/-- Enter holdover (R45): the last rate is kept, HOLDOVER set, 0x1103 logged. -/
def Block.enterHoldover (b : Block) : Block :=
  if b.isSet TRN_STATUS_HOLDOVER then b
  else b.put TRN_STATUS_HOLDOVER 1 |>.put TRN_STATUS_HOLDTURNS 0 |>.put TRN_STATUS_LOCKED 0
    |>.modTu (fun t => { t with holdTurns := 0, limitRaised := false }) |>.note { code := 0x1103 }

/-- HOLDOVER_ENTRY (R45): two expected edges are missing in PPS or TSYNC mode. -/
def execHoldoverEntry (s : State) : Host.Outcome State Fault Refusal :=
  onBlk s fun b =>
    if b.running && (b.get TRN_CFG_SYNCMODE = 2 || b.get TRN_CFG_SYNCMODE = 3) then b.enterHoldover else b

/-- Count a turn of holdover (R45). -/
def Block.holdoverTurn (b : Block) : Block :=
  if b.isSet TRN_STATUS_HOLDOVER then
    b.inc TRN_STATUS_HOLDTURNS |>.modTu (fun t => { t with holdTurns := t.holdTurns + 1 })
  else b

/-- HOLDOVER_LIMIT (R45): a holdover longer than the limit at 0x2000:07 raises 0x3104, once. -/
def execHoldoverLimit (s : State) : Host.Outcome State Fault Refusal :=
  onBlk s fun b =>
    if b.isSet TRN_STATUS_HOLDOVER && b.actN 0x2000 7 < b.tu.holdTurns && !b.tu.limitRaised then
      b.modTu (fun t => { t with limitRaised := true }) |>.raise { code := 0x3104 }
    else b

/-- MASTER_TIMER_MISMATCH (R41, R64): the timers differ by more than 2.5 ns, or a boundary crossing is still busy at the next
boundary: 0x4101. -/
def execMasterTimerMismatch (s : State) : Host.Outcome State Fault Refusal :=
  onBlk s fun b => b.raise { code := 0x4101 }

/-! ## Timing outputs (R47) -/

/-- TURN_SYNC_OUT rises at a boundary when enabled. -/
def Block.syncPulse (b : Block) : Block :=
  if b.isSet TRN_CFG_TSOUT && b.dev ≠ .off && b.dev ≠ .boot then b.modTu (fun t => { t with tsOut := true }) else b

/-- PPS_OUT_SECOND (R47): at a whole second of the time base PPS_OUT rises when enabled. -/
def execPpsOutSecond (s : State) : Host.Outcome State Fault Refusal :=
  onBlk s fun b =>
    if b.isSet TRN_CFG_PPSOUT && b.dev ≠ .off && b.dev ≠ .boot then b.modTu (fun t => { t with ppsOut := true }) else b

/-- SYNC_OUTPUT_PULSE_END (R47): the pulse of 1 us or 100 ms ends. -/
def execSyncOutputPulseEnd (pps : Bool) (s : State) : Host.Outcome State Fault Refusal :=
  onBlk s fun b =>
    b.modTu (fun t => if pps then { t with ppsOut := false } else { t with tsOut := false })

/-! ## Loading the TRN registers (R51, R61) -/

/-- The TRN fields of the active image. A change of SYNCMODE leaves the measured offset, the rate, HOLDOVER, the edges rejected and whether a reference
was valid as the old source left them (DESIGN CHOICE: the spec does not say). -/
def Block.trnLoad (b : Block) : Block :=
  let b := b.put TRN_CFG_SYNCMODE (b.actN 0x2000 2)
    |>.put TRN_CFG_TSOUT (b.actN 0x2000 9 % 2) |>.put TRN_CFG_PPSOUT (b.actN 0x2000 9 / 2 % 2)
    |>.put TRN_CFG_INCUT (b.actN 0x2000 4) |>.put TRN_PERIOD_PERIOD (b.actN 0x2000 1)
    |>.put TRN_ALIGN_ALIGN (b.actN 0x2000 3)
  let b := b.modTu (fun t => { t with loadNext := false
                                      tsOut := t.tsOut && b.isSet TRN_CFG_TSOUT
                                      ppsOut := t.ppsOut && b.isSet TRN_CFG_PPSOUT })
  b.forN 64 (fun n b => b.loadR .TRN_SLOT (b.actN 0x2100 (n + 1)) n |>.setR .TRN_RELOFF (b.actN 0x2200 (n + 1)) n)

/-! ## The schedule of a partition (R48-R50) -/

/-- The ENTER slot and the MARK slot of partition `p`. -/
def Block.enterSlot (b : Block) (p : Nat) : Option Nat :=
  (List.range 64).find? fun n => b.isSet TRN_SLOT_VALID n && b.get TRN_SLOT_PART n = p && b.isSet TRN_SLOT_ENTER n
def Block.markSlot (b : Block) (p : Nat) : Option Nat :=
  (List.range 64).find? fun n => b.isSet TRN_SLOT_VALID n && b.get TRN_SLOT_PART n = p && b.isSet TRN_SLOT_MARK n

/-- START of the ENTER slot and deadline mark of `p`, in ns from the boundary. -/
def Block.startNs (b : Block) (p : Nat) : Nat := match b.enterSlot p with | some n => b.get TRN_SLOT_START n * 100 | none => 0
def Block.markNs (b : Block) (p : Nat) : Nat := match b.markSlot p with | some n => b.get TRN_SLOT_END n * 100 | none => 0

/-- The phase now in ns. -/
def Block.nowNs (b : Block) : Nat := b.tu.phaseA / nsUnit

/-- Time runs on to an instant of the schedule at which an event is due (an entry, a mark, a decision): the two timers and the time base advance to it. -/
def Block.advanceTo (ns : Nat) (b : Block) : Block :=
  if b.running && !b.govHalted && b.nowNs < ns && ns ≤ b.periodNs then
    let d := ns * nsUnit - b.tu.phaseA
    { b with timeBase := b.timeBase + d } |>.modTu (fun t => { t with phaseA := t.phaseA + d, phaseB := t.phaseB + d })
  else b

/-- A TC3 slot of `p` is open (R230, R264). -/
def Block.tc3Open (b : Block) (p : Nat) : Bool :=
  (List.range 64).any fun n => b.isSet TRN_SLOT_VALID n && b.get TRN_SLOT_PART n = p && b.isSet TRN_SLOT_TC3 n
    && b.get TRN_SLOT_START n * 100 ≤ b.nowNs && b.nowNs < b.get TRN_SLOT_END n * 100

/-! ## Input windows (R53) -/

/-- INPUT_CUTOFF (R52 step 1, R53): arrivals from this instant on are tagged to the next turn. -/
def execInputCutoff (s : State) : Host.Outcome State Fault Refusal :=
  onBlk s fun b => b.modTu (fun t => { t with tagNext := true })

/-- The turn an arrival completing now is tagged to (R53). -/
def Block.tagTurn (b : Block) : Nat := b.turn + ofBool b.tu.tagNext


/-- The queued window writes that the running turn waits for: those tagged to earlier turns. -/
def Block.dueWrites (b : Block) : List WinWrite := b.tu.writes.filter (fun w => w.turn < b.turn)

/-- WINDOW_REPORT_TIMEOUT (R53): no report 5 us after the boundary raises 0x2107; the partitions are entered anyway, and the replicas
whose own windows still have writes queued read INCOMPLETE (the entry sets it from the queue). -/
def execWindowReportTimeout (s : State) : Host.Outcome State Fault Refusal :=
  onBlk s fun b =>
    if b.tu.reported then b
    else b.raise { code := 0x2107 } |>.modTu (fun t => { t with reported := true, timedOut := true })

/-! ## Event inputs (R62-R68) -/

/-- Change event input `i`. -/
def Block.modEvt (i : Nat) (f : EvtIn → EvtIn) (b : Block) : Block := { b with evt := SMap.upd {} i f b.evt }

/-- Event input `i`. -/
def Block.evtIn (b : Block) (i : Nat) : EvtIn := SMap.get {} i b.evt

/-- The pin's level as the filter sees it: 1 = active under POL. -/
def Block.evtActive (b : Block) (i : Nat) : Bool := (b.evtIn i).pin != b.isSet EVT_CFG_POL i

/-- EVT_INPUT_EDGE (R62): the synchronised pin changes; a change that returns before the filter accepted it is counted in REJCNT. -/
def execEvtInputEdge (input : Nat) (high : Bool) (s : State) : Host.Outcome State Fault Refusal :=
  onBlk s fun b =>
    let e := b.evtIn input
    if 9 ≤ input || e.pin = high then b
    else
      let b := b.when e.timing (fun b => b.inc EVT_STAT_REJCNT input)
      let t := b.phaseNs
      let b := b.modEvt input (fun e => { e with pin := high, edgeNs := t })
      let differs := b.evtActive input != b.isSet EVT_STAT_LEVEL input
      b.modEvt input (fun e => { e with timing := differs })

/-- Does an accepted change to the given level count as an event under EDGE (R62)? -/
def edgeCounts (edge : Nat) (active : Bool) : Bool :=
  if edge = 0 then active else if edge = 1 then !active else if edge = 2 then true else active

/-- Where an event of input `i` goes under the present configuration: MSI address and identity. -/
def Block.evtTarget (b : Block) (i : Nat) : Nat × Nat := (b.get EVT_MSI_ADDR i, b.get EVT_MSID_EIID i)

/-- Deliver one immediate event over the crossing (R63-R65): the governor writes the identity to the MSI address; WAKE_IN delivers to
the power controller alone. -/
def Block.evtDeliver (i : Nat) (dst : Nat × Nat) (b : Block) : Block :=
  if i = 8 then b.modEvt i (fun e => { e with busy := true })
  else b.modEvt i (fun e => { e with busy := true }) |>.sendMsi midGov dst.1 dst.2

/-- An event (R63, R65, R66): counted for the snapshot, under every DELIV (R66 latches the count of each input; DEDUCED), then delivered. Each input
has a crossing of its own (DESIGN CHOICE: the spec does not say whether they share one); at a busy one the event is discarded or held by
MERGE. The one held keeps the target of its first event (R68). -/
def Block.evtEvent (i : Nat) (b : Block) : Block :=
  let e := b.evtIn i
  let b := b.modEvt i (fun e => { e with first := if e.count = 0 then e.edgeNs else e.first
                                         count := satInc 16 e.count })
  let d := b.get EVT_CFG_DELIV i
  if i = 8 || d = 1 || d = 3 then
    if !e.busy then b.evtDeliver i (b.evtTarget i)
    else if b.isSet EVT_CFG_MERGE i then b.modEvt i (fun e => { e with held := some (e.held.getD (b.evtTarget i)) })
    else b.put EVT_STAT_OVR 1 i |>.inc EVT_STAT_OVRCNT i |>.note { code := 0x1108 }
  else b

/-- EVT_FILTER_ACCEPT (R62): the pin has held its level for FILT ns; LEVEL follows, and an enabled, unmasked input raises the event. -/
def execEvtFilterAccept (input : Nat) (s : State) : Host.Outcome State Fault Refusal :=
  onBlk s fun b =>
    if 9 ≤ input || !(b.evtIn input).timing then b
    else
      let act := b.evtActive input
      let b := b.put EVT_STAT_LEVEL (ofBool act) input |>.modEvt input (fun e => { e with timing := false, stuck := 0 })
      if b.isSet EVT_CFG_EN input && !b.isSet EVT_STAT_MASKED input && edgeCounts (b.get EVT_CFG_EDGE input) act
      then b.evtEvent input else b

/-- EVT_CROSSING_ACK (R64, R65): the crossing frees; the one held event is delivered. -/
def execEvtCrossingAck (input : Nat) (s : State) : Host.Outcome State Fault Refusal :=
  onBlk s fun b =>
    let e := b.evtIn input
    if 9 ≤ input || !e.busy then b
    else
      let b := b.modEvt input (fun e => { e with busy := false, held := none })
      match e.held with | some t => b.evtDeliver input t | none => b

/-- Re-arm a stuck input: STUCK and MASKED clear and the count of boundaries restarts (R67). -/
def Block.evtRearm (i : Nat) (b : Block) : Block :=
  b.put EVT_STAT_STUCK 0 i |>.put EVT_STAT_MASKED 0 i |>.modEvt i (fun e => { e with stuck := 0 })

/-- EVT_STUCK_REARM (R67): 1 is written to STUCK. -/
def execEvtStuckRearm (input : Nat) (s : State) : Host.Outcome State Fault Refusal :=
  onBlk s fun b => if 9 ≤ input then b else b.evtRearm input

/-- The event block at a boundary: the snapshot of the ending turn (R66), then the stuck check (R67). A disabled input is not checked and raises no
event, while its filter, LEVEL and REJCNT go on (DESIGN CHOICE: the spec says only that it delivers nothing). -/
def Block.evtBoundary (b : Block) : Block :=
  b.forN 9 fun i b =>
    let e := b.evtIn i
    let b := b.put EVT_SNAPCNT_COUNT e.count i
      |>.put EVT_SNAPTS_PHASE (if e.count = 0 then 0 else e.first) i
      |>.put EVT_SNAPTS_VALID (ofBool (e.count ≠ 0)) i
      |>.modEvt i (fun e => { e with count := 0, first := 0 })
    let lim := b.get EVT_CFG_STUCK i
    if b.isSet EVT_CFG_EN i && b.isSet EVT_STAT_LEVEL i && !b.isSet EVT_STAT_MASKED i && lim ≠ 0 then
      if lim ≤ e.stuck + 1 then
        b.put EVT_STAT_STUCK 1 i |>.put EVT_STAT_MASKED 1 i |>.modEvt i (fun e => { e with stuck := 0 })
          |>.note { code := 0x2109 }
      else b.modEvt i (fun e => { e with stuck := e.stuck + 1 })
    else b

/-- What a change of EVT_CFGi from `old` does beside the register (R68): one of EN, POL, EDGE or FILT restarts the filter from the synchronised pin
level and the count of stuck boundaries. LEVEL keeps its value until the restarted filter accepts the pin's level, which may be an event (DESIGN CHOICE: the
spec does not say what a restart leaves in LEVEL). -/
def Block.evtChanged (i old : Nat) (b : Block) : Block :=
  let new := b.getR .EVT_CFG i
  if bits new 0 3 = bits old 0 3 && bits new 16 31 = bits old 16 31 then b
  else
    let act := b.evtActive i
    b.modEvt i (fun e => { e with timing := act != b.isSet EVT_STAT_LEVEL i, stuck := 0 })

/-- The EVT registers of the active image (R68). -/
def Block.evtLoad (b : Block) : Block :=
  b.forN 9 fun i b =>
    let old := b.getR .EVT_CFG i
    b.loadR .EVT_CFG (b.actN 0x2300 (i + 1)) i |>.put EVT_MSI_ADDR (b.actN 0x2301 (i + 1)) i
      |>.put EVT_MSID_EIID (b.actN 0x2302 (i + 1)) i |>.evtChanged i old

end Sys2Proof.Machine
end

