-- ==== Sys2Proof/Machine/CohBase.lean ====
section
/-! DEFINITION. What the coherence protocol keeps: L3 lines, writeback buffers, snoop filter and memory directory, open transactions and requests (R173-R195). -/

namespace Sys2Proof

/-- Dirty states. -/
def LineSt.dirty : LineSt → Bool
  | .m => true | .o => true | _ => false

/-- A line state as a filter state. -/
def LineSt.filt : LineSt → Machine.FSt
  | .i => .i | .s => .s | .e => .e | .o => .o | .m => .m

end Sys2Proof

namespace Sys2Proof.Machine

/-! ## Lines, slices, agents -/

/-- The L3 slice (and filter bank) and the set of a line address PA[47:6] (R81, R191). -/
def lineSlice (l : Nat) : Nat := xorN (bits l 0 2) (bits l 15 17)
def lineSet (l : Nat) : Nat := bits l 3 14

/-- The directory-cache set of a line (R193). -/
def dirSet (l : Nat) : Nat := xorN (bits l 9 19) (bits l 0 5)

/-- Change the coherence state. -/
def Block.modCoh (f : Coh → Coh) (b : Block) : Block := { b with coh := f b.coh }

/-- Is sail `n` ACTIVE? -/
def Block.active? (b : Block) (n : Nat) : Bool := n < 12 && b.get GOV_SAILSTAT_STATE n = 3

/-- The ACTIVE sails. -/
def Block.activeSails (b : Block) : List Nat := (List.range 12).filter b.active?

/-- A line in the L3 of sail `n`. -/
def Block.l3At (b : Block) (n line : Nat) : L3Line := SMap.get {} (line * 16 + n) b.coh.l3

/-- Change a line in the L3 of sail `n`; an invalid line keeps nothing and is back-invalidated (R81). -/
def Block.setL3 (n line : Nat) (v : L3Line) (b : Block) : Block :=
  let b := b.when (v.st = .i) (Block.backInval n line)
  b.modCoh fun c => { c with l3 := SMap.set {} (line * 16 + n) (if v.st = .i then {} else v) c.l3 }

/-- The lines that the L3 of sail `n` holds. -/
def Block.l3Lines (b : Block) (n : Nat) : List (Nat × L3Line) :=
  (b.coh.l3.filter (fun e => e.1 % 16 = n)).map (fun e => (e.1 / 16, e.2))

/-- A line of sail `n` in a given way of the set of `line`. -/
def Block.l3InWay (b : Block) (n line way : Nat) : Option Nat :=
  ((b.l3Lines n).find? (fun e => lineSlice e.1 = lineSlice line && lineSet e.1 = lineSet line && e.2.way = way)).map (·.1)

/-- The writeback-buffer entry of sail `n` for a line. -/
def Block.wbOf (b : Block) (n line : Nat) : Option WbEnt :=
  b.coh.wb.find? (fun e => e.sail = n && e.line = line)

/-! ## Reservations -/

/-- A TC3 request of a partition takes a token while a slot of it is open; a write of Code M takes one at both controllers (R264). -/
def Block.takeTokens (part pa : Nat) (write : Bool) (b : Block) : Block :=
  match b.place pa with
  | none => b
  | some p =>
    if 64 ≤ part || !b.tc3Open part then b
    else b.takeToken p.mc part |>.when (write && descCode (b.desc p.desc 0) = codeM) (fun c => c.takeToken (xorN p.mc 4) part)

/-! ## Filter and directory -/

/-- A filter state as a line state; a LOST-DIRTY entry is no holder. -/
def FSt.live : FSt → LSt
  | .s => .s | .e => .e | .o => .o | .m => .m | _ => .i

def FSt.lost : FSt → Bool
  | .lostO => true | .lostM => true | _ => false

/-- FILTER mode (HOM_CFG.MODE; all slices switch together). -/
def Block.filterMode (b : Block) : Bool := b.get HOM_CFG_MODE 0 = 1

/-- The line's bank is rebuilding; its set is still to be read back (R199). -/
def Block.rebuilding (b : Block) (line : Nat) : Bool := b.coh.rebuild.any (fun r => r.bank = lineSlice line)
def Block.unread (b : Block) (line : Nat) : Bool :=
  b.coh.rebuild.any (fun r => r.bank = lineSlice line && r.set ≤ lineSet line)

/-- The directory-cache entry of a line. -/
def Block.dirOf (b : Block) (line : Nat) : Option DirEnt := b.coh.dir.find? (fun e => e.line = line)

/-- The line is partition-private (R200). -/
def Block.privLine (b : Block) (line : Nat) : Bool := (b.privOwner (line * 64)).isSome

/-- Lines whose states the directory keeps: in DIRECTORY mode, and those of an unread set; never a private line (R199, R201). -/
def Block.inDir (b : Block) (line : Nat) : Bool := (!b.filterMode || b.unread line) && !b.privLine line

/-- What the filter holds for sail `n` and a line, and what the directory holds. -/
def Block.filtAt (b : Block) (line n : Nat) : FiltEnt := SMap.get {} (line * 16 + n) b.coh.filt
def Block.dirAt (b : Block) (line n : Nat) : FSt :=
  match b.dirOf line with
  | some e => (List.lookup n e.sts).getD .i
  | none => .i

/-- The state that the home's record shows for sail `n`: the filter's, or where the directory keeps the states, that of the line's entry. -/
def Block.shown (b : Block) (line n : Nat) : FSt :=
  if b.filterMode && !b.unread line then (b.filtAt line n).st
  else match b.dirOf line with
    | some e => (List.lookup n e.sts).getD .i
    | none => if (b.filtAt line n).st ≠ .i && b.privLine line then (b.filtAt line n).st else .i

/-- No entry stands for an unread line: every ACTIVE sail may hold it (R199). -/
def Block.fullVector (b : Block) (line : Nat) : Bool :=
  b.filterMode && b.unread line && (b.dirOf line).isNone && !b.privLine line

/-- Write a filter entry, and a state in a directory entry. -/
def Block.setFilt (line n : Nat) (v : FiltEnt) (b : Block) : Block :=
  b.modCoh fun c => { c with filt := SMap.set {} (line * 16 + n) v c.filt }
def Block.setDir (line n : Nat) (st : FSt) (b : Block) : Block :=
  let old := match b.dirOf line with | some e => e.sts | none => []
  let sts := (old.filter (fun e => e.1 ≠ n)) ++ (if st = .i then [] else [(n, st)])
  let keep := !sts.isEmpty || b.unread line
  b.modCoh fun c => { c with
    dir := (c.dir.filter (fun e => e.line ≠ line)) ++ (if keep then [{ line := line, sts := sts, last := c.uses }] else [])
    uses := c.uses + 1 }

/-- Record the state of a sail for a line (R182, R192). A way is kept with it. -/
def Block.record (line n : Nat) (st : FSt) (way : Nat) (b : Block) : Block :=
  if b.inDir line then b.setDir line n st else b.setFilt line n (if st = .i then {} else ⟨st, way⟩)

/-- The way that the filter shows for a line of a sail. -/
def Block.filtWay (b : Block) (line n : Nat) : Nat := (b.filtAt line n).way

/-- The sails other than `n` that may hold the line, with the states shown; the full vector counts as M (R199). -/
def Block.others (b : Block) (line : Nat) (n : Option Nat) : List (Nat × LSt) :=
  if b.fullVector line then (b.activeSails.filter (fun m => some m ≠ n)).map (fun m => (m, .m))
  else ((List.range 12).filter (fun m => some m ≠ n && (b.shown line m).live ≠ .i)).map (fun m => (m, (b.shown line m).live))

/-- Some sail's entry for the line is LOST-DIRTY (R205), in the filter or the directory. -/
def Block.lostDirty (b : Block) (line : Nat) : Bool :=
  (List.range 12).any (fun n => (b.filtAt line n).st.lost) || (match b.dirOf line with | some e => e.sts.any (fun x => x.2.lost) | none => false)

/-- Clear the LOST-DIRTY entries of a line (R207, R208). -/
def Block.clearLost (line : Nat) (b : Block) : Block :=
  b.forN 12 fun n b =>
    b.when (b.filtAt line n).st.lost (Block.setFilt line n {}) |>.when (b.dirAt line n).lost (Block.setDir line n .i)

/-! ## Home bookkeeping -/

/-- A non-private transaction takes a directory-cache way as tracker (R194, R201). -/
def Txn.tracked (t : Txn) : Bool := !t.priv

/-- Requests that get no Retry: they wait for a way (R181, R196), as an access taken whole and a dresser's request do. -/
def Txn.patient (t : Txn) : Bool :=
  t.whole || t.scrub.isSome || (match t.kind with | .dirtyNote => true | .wbDirty => true | .evictClean => true | _ => false)

/-- HOM_STATUS.OPEN of every slice follows the open transactions. -/
def Block.syncOpen (b : Block) : Block :=
  b.forN 8 fun h b =>
    b.put HOM_STATUS_OPEN (min 65535 ((b.coh.txns.filter (fun t => b.homeOf (t.line * 64) = h)).length)) h

/-- The open transaction of a line (R176). -/
def Block.txnOf (b : Block) (line : Nat) : Option Txn := b.coh.txns.find? (fun t => t.line = line)

/-- Replace the open transaction of its line. -/
def Block.putTxn (t : Txn) (b : Block) : Block :=
  b.modCoh fun c => { c with txns := (c.txns.filter (fun u => u.line ≠ t.line)) ++ [t] }

/-- Close the open transaction of a line. -/
def Block.dropTxn (line : Nat) (b : Block) : Block :=
  b.modCoh fun c => { c with txns := c.txns.filter (fun u => u.line ≠ line) }

/-- A waiting request leaves the queue of its slice, or changes there. -/
def Block.unwait (t : Txn) (b : Block) : Block := b.modCoh fun c => { c with waiting := listErase t c.waiting }
def Block.modWait (t : Txn) (f : Txn → Txn) (b : Block) : Block :=
  b.modCoh fun c => { c with waiting := c.waiting.map (fun u => if u = t then f u else u) }

/-- A requester's open request. -/
def Block.reqOf (b : Block) (mid txid : Nat) : Option OpenReq :=
  b.coh.reqs.find? (fun r => r.mid = mid && r.txid = txid)

/-- Forget a requester's open request. -/
def Block.dropReq (mid txid : Nat) (b : Block) : Block :=
  b.modCoh fun c => { c with reqs := c.reqs.filter (fun r => !(decide (r.mid = mid) && decide (r.txid = txid))) }

/-- Change a requester's open request. -/
def Block.modReq (mid txid : Nat) (f : OpenReq → OpenReq) (b : Block) : Block :=
  b.modCoh fun c => { c with reqs := c.reqs.map (fun r => if r.mid = mid && r.txid = txid then f r else r) }

/-- The lowest number, from `x` on, that is not used. -/
def lowestFree (used : List Nat) : Nat → Nat → Option Nat
  | 0, _ => none
  | f + 1, x => if used.contains x then lowestFree used f (x + 1) else some x

/-- A transaction ID for a request of a master: the lowest of the 4,096 that none of its open requests has (R178, R203). -/
def Block.freeTxid (b : Block) (mid : Nat) : Option Nat :=
  lowestFree ((b.coh.reqs.filter (fun r => r.mid = mid)).map (·.txid)) 4096 0

/-- Issue a request: the request is kept until its completion, and the message leaves (R178). With every transaction ID in use it does not leave.
`core`: the hart whose miss it serves. -/
def Block.issueFor (core : Option (Nat × Bool)) (kind : ReqKind) (mid part line way : Nat) (tc3 mnt : Bool) (b : Block) : Block :=
  match b.freeTxid mid with
  | none => b
  | some x =>
    b.modCoh (fun c => { c with
        reqs := c.reqs ++ [{ mid := mid, part := part, txid := x, kind := kind, line := line, way := way, tc3 := tc3, mnt := mnt, core := core }] })
      |>.emit (.request kind mid part x (line * 64) way)

/-- The same for no core. -/
def Block.issue (kind : ReqKind) (mid part line way : Nat) (tc3 mnt : Bool) (b : Block) : Block := b.issueFor none kind mid part line way tc3 mnt

end Sys2Proof.Machine
end

