-- ==== Sys2Proof/Machine/McOps.lean ====
section
/-! DEFINITION. Reads and writes of lines at a controller (R259-R263), the merge buffer (R262), the error log (R270). -/

namespace Sys2Proof.Machine

/-! ## The error log (R270) -/

/-- The row counters of a controller. -/
def Block.putRows (mc : Nat) (l : List RowCnt) (b : Block) : Block := { b with ms := { b.ms with rows := SMap.set [] mc l b.ms.rows } }

/-- The check lines in a controller's cache. -/
def Block.putChecks (mc : Nat) (l : List Nat) (b : Block) : Block := { b with ms := { b.ms with checks := SMap.set [] mc l b.ms.checks } }

/-- Row tracker: count an entry of a row and answer the count; a full tracker evicts a row by a choice the spec leaves open. A row that was evicted stays at 0. -/
def Block.countRow (mc key : Nat) (b : Block) : Nat × Block :=
  let l := SMap.get [] mc b.ms.rows
  match l.find? (fun r => r.key = key) with
  | some r =>
    if r.count = 0 then (0, b)
    else (r.count + 1, b.putRows mc (l.map fun x => if x.key = key then { x with count := x.count + 1 } else x))
  | none =>
    let live := l.filter (fun r => r.count ≠ 0)
    if live.length < 256 then (1, b.putRows mc (l ++ [⟨key, 1⟩]))
    else
      let v := (live.getD (Config.victim b.free 256 % 256) ⟨key, 0⟩).key
      (1, b.tickFree.putRows mc (l.map (fun x => if x.key = v then { x with count := 0 } else x) ++ [⟨key, 1⟩]))

/-- Every copy of a line leaves the L3s, dirty data to memory first, as before a write of a master that does not cache (R182). -/
def Block.recallLine (line : Nat) (b : Block) : Block :=
  b.forN 12 fun n b =>
    let e := b.l3At n line
    b.when e.st.dirty (Block.storeCopies (line * 64) e.data e.poison)
      |>.when (e.st ≠ .i) (fun b => b.setL3 n line {}) |>.when ((b.shown line n).live ≠ .i) (fun b => b.record line n .i 0)

/-- Bytes of one line are written by a controller or a home itself: the caches give the line up, the copies are read and corrected, an uncorrectable one is
poison from now on, and the bytes merge (R263). -/
def Block.pokeBytes (pa : Nat) (v : Bytes) (b : Block) : Block :=
  let b := b.recallLine (pa / 64)
  b.forL (b.copiesOf pa) fun p b =>
    let bad : Bool := decodeCopy (descCode (b.desc p.desc 0)) (b.copyErrs p.mc p.loc) (b.copyPoison p.mc p.loc) = .uncorrectable
    b.storeBytes p.mc p.loc v |>.setCopyErrs p.mc p.loc 0 |>.when bad (fun b => b.setCopyPoison p.mc p.loc true)

/-- One error-log entry: at most 1,024 per turn and controller, dropped with OVF beyond that; written at COUNT mod 2^SIZE; overwriting
an unpassed entry sets OVF and logs 0x160C once until OVF is cleared. -/
def Block.elogEntry (mc pa kind : Nat) (mirror : Bool) (nsym mid part : Nat) (loc : Nat) (b : Block) : Block :=
  let size := b.get MC_ELOGCFG_SIZE mc
  if size = 0 then b
  else
    let ovf (b : Block) : Block :=
      if b.isSet MC_ELOGCNT_OVF mc then b else b.put MC_ELOGCNT_OVF 1 mc |>.note { code := 0x160C }
    if 1024 ≤ SMap.get 0 mc b.ms.elog then ovf b
    else
      let rowKey := bits loc 6 8 + 8 * bits loc 14 34
      let (rc, b) := b.countRow mc rowKey
      let c := b.get MC_ELOGCNT_COUNT mc
      let w0 := pa % 2 ^ 48 / 64 * 64 + kind * 2 ^ 48 + mc * 2 ^ 52 + ofBool mirror * 2 ^ 55 + nsym % 16 * 2 ^ 56
      let w1 := bits loc 6 8 + bits loc 18 18 * 8 + bits loc 14 17 * 16 + bits loc 19 34 * 256 + bits loc 9 13 * 2 ^ 24
        + (List.range 5).foldl (fun a i => a + (if i < nsym then Config.symbolAt b.free i % 128 else 127) * 2 ^ (29 + 7 * i)) 0
      let w3 := b.turn % 2 ^ 16 + part % 64 * 2 ^ 16 + mid % 512 * 2 ^ 22 + rc % 2 ^ 32 * 2 ^ 32
      let a := b.get MC_ELOGBASE_BASE mc * 4096 + 32 * (c % 2 ^ size)
      let wraps := 2 ^ size ≤ (c + 2 ^ 20 - b.get MC_ELOGRD_PASSED mc) % 2 ^ 20
      let b := b.pokeBytes a (leBytes 8 w0 ++ leBytes 8 w1 ++ leBytes 8 (b.timeNs / 10) ++ leBytes 8 w3)
      let b := b.when (nsym ≠ 0) Block.tickFree |>.put MC_ELOGCNT_COUNT ((c + 1) % 2 ^ 20) mc
      let b := { b with ms := { b.ms with elog := SMap.upd 0 mc (· + 1) b.ms.elog } }
      if wraps then ovf b else b

/-! ## Reads and writes at a controller -/

/-- Count and log a correction, once per turn and controller in the fault log (R261). -/
def Block.mcCorrected (mc pa loc n mid part kind : Nat) (b : Block) : Block :=
  b.inc MC_ECCCNT_CE mc |>.noteOnce mc { code := 0x1605, addr := some pa }
    |>.elogEntry mc pa kind false n mid part loc

/-- Count and log an uncorrectable line. -/
def Block.mcUncorrectable (mc pa loc mid part kind : Nat) (b : Block) : Block :=
  b.inc MC_ECCCNT_UE mc |>.noteOnce mc { code := 0x2606, addr := some pa }
    |>.elogEntry mc pa kind false 0 mid part loc

/-- The check line of a line under a code, by local line (R259), and the slot of the line's check bytes in it. -/
def Block.checkLine (b : Block) (p : Place) (code : Nat) : Nat × Nat :=
  let per := if code = codeL then 32 else 8
  let lb := if descPin (b.desc p.desc 0) then b.capBytes - b.carveK - b.poolQ + 4096 * bits (b.desc p.desc 3) 32 63 else b.desc p.desc 1 / 8
  let d := p.loc - lb
  ((b.capBytes - b.carveK + bits (b.desc p.desc 3) 0 31) / 64 + d / (64 * per), d / 64 % per)

/-- A read of a coded line brings its check line into the controller's cache of 1,024 (R263); which one leaves a full cache is open. -/
def Block.cacheCheck (p : Place) (code : Nat) (b : Block) : Block :=
  let l := SMap.get [] p.mc b.ms.checks
  let c := (b.checkLine p code).1
  if code = codeN || l.contains c then b
  else if l.length < 1024 then b.putChecks p.mc (l ++ [c])
  else b.tickFree.putChecks p.mc (l.eraseIdx (Config.victim b.free 1024 % 1024) ++ [c])

/-- The good copy of the mirror repairs the primary and is what was read (R261). -/
def Block.mirrorFix (p : Place) (pa mid part : Nat) (b : Block) : (Nat × Bool) × Block :=
  let d := leNat (b.lineBytes (xorN p.mc 4) p.loc)
  ((d, false), b.storeLine p.mc p.loc d |>.setCopyErrs p.mc p.loc 0 |>.inc MC_MIRCNT_MIRFIX p.mc
    |>.note { code := 0x1607, addr := some pa } |>.elogEntry p.mc pa 4 false 0 mid part p.loc)

/-- Read the line at an address (R259-R261, R263): data, POISON, and the block with what was counted and logged. Code M consults the
mirror for an uncorrectable primary that is no poison, and repairs the primary. -/
def Block.mcRead (mid part pa : Nat) (b : Block) : (Nat × Bool) × Block :=
  match b.place pa with
  | none => ((0, true), b)
  | some p =>
    let code := descCode (b.desc p.desc 0)
    let b := b.charge 14 part (64 * 2480) |>.cacheCheck p code
    let data := leNat (b.lineBytes p.mc p.loc)
    match decodeCopy code (b.copyErrs p.mc p.loc) (b.copyPoison p.mc p.loc) with
    | .good => ((data, false), b)
    | .corrected n => ((data, false), b.mcCorrected p.mc pa p.loc n mid part 1)
    | .poisoned => ((data, true), b.elogEntry p.mc pa 3 false 0 mid part p.loc)
    | .beyond => ((Config.beyondData b.free data, code ≠ codeN && Config.beyondPoison b.free), b.tickFree)
    | .uncorrectable =>
      if code = codeM && !b.copyPoison p.mc p.loc then
        let q := xorN p.mc 4
        match decodeCopy codeS (b.copyErrs q p.loc) (b.copyPoison q p.loc) with
        | .good => b.mirrorFix p pa mid part
        | .corrected n => (b.mcCorrected q pa p.loc n mid part 1).mirrorFix p pa mid part
        | _ => ((data, true), b.mcUncorrectable p.mc pa p.loc mid part 2)
      else ((data, true), b.mcUncorrectable p.mc pa p.loc mid part 2)

/-! ## The merge buffer (R262) -/

/-- The entries of a controller in use. -/
def Block.mergeUse (b : Block) (mc : Nat) : Nat := (b.ms.merge.filter (fun e => e.mc = mc)).length

/-- The oldest merge entry of a controller leaves the buffer (R262, R263): a full mask is written directly; else the line is read and corrected, and an
uncorrectable one is poison. Check lines hold no errors of their own. The flush has no requester: the log names the controller. -/
def Block.mergeFlush (mc : Nat) (b : Block) : Block :=
  match b.ms.merge.find? (fun e => e.mc = mc) with
  | none => b
  | some e =>
    let b := { b with ms := { b.ms with merge := listErase e b.ms.merge } }
    let loc := e.line * 64
    let b :=
      if e.check || e.mask = 2 ^ 64 - 1 then b
      else match decodeCopy e.code (b.copyErrs mc loc) (b.copyPoison mc loc) with
        | .corrected n => b.setCopyErrs mc loc 0 |>.mcCorrected mc e.pa loc n (0x1D0 + mc) markPart 1
        | .uncorrectable => b.setCopyPoison mc loc true |>.setCopyErrs mc loc 0 |>.mcUncorrectable mc e.pa loc (0x1D0 + mc) markPart 2
        | _ => b
    b.put MC_STATUS_MERGEUSE (b.mergeUse mc) mc

/-- A write needs an entry: with every usable one busy, the oldest is flushed. Four are kept for TC3 writes (R262). -/
def Block.mergeRoom (mc : Nat) (tc3 : Bool) (b : Block) : Block := b.when ((if tc3 then 32 else 28) ≤ b.mergeUse mc) (Block.mergeFlush mc)

/-- Bytes go into the entry of their line, an old one or a new one; a full mask is written directly and leaves the buffer (R262). -/
def Block.mergeInto (e : MergeEnt) (tc3 : Bool) (b : Block) : Block :=
  let mine (x : MergeEnt) : Bool := x.mc = e.mc && x.check = e.check && x.line = e.line
  let old := b.ms.merge.find? mine
  let b := b.when old.isNone (Block.mergeRoom e.mc tc3)
  let m := Nat.lor e.mask (match old with | some x => x.mask | none => 0)
  let rest := b.ms.merge.filter (fun x => !mine x)
  let born := match old with | some x => x.bornNs | none => b.timeNs
  let b := { b with ms := { b.ms with merge := if m = 2 ^ 64 - 1 then rest else rest ++ [{ e with mask := m, bornNs := born }] } }
  b.put MC_STATUS_MERGEUSE (b.mergeUse e.mc) e.mc

/-- The check bytes of a written line go into the entry of their check line. No address reaches it. -/
def Block.mergeCheck (p : Place) (code : Nat) (tc3 : Bool) (b : Block) : Block :=
  let c := b.checkLine p code
  let w := if code = codeL then 2 else 8
  b.mergeInto { mc := p.mc, line := c.1, mask := (2 ^ w - 1) * 2 ^ (c.2 * w), check := true, code := code } tc3

/-- A partial write makes or extends the entry of its data line, at each copy. -/
def Block.mergeData (pa mask : Nat) (tc3 : Bool) (b : Block) : Block :=
  b.forL (b.copiesOf pa) fun p b =>
    b.mergeInto { mc := p.mc, line := p.loc / 64, mask := mask % 2 ^ 64, code := descCode (b.desc p.desc 0), pa := pa / 64 * 64 } tc3

/-! ## Writes at a controller -/

/-- Write one line (R259-R262): every copy takes the data and the poison form its code stores; Code N keeps no poison,
counts NOPOIS and logs 0x2608. -/
def Block.mcWriteOne (mid part pa data : Nat) (poison tc3 : Bool) (b : Block) : Block :=
  let b := b.charge 14 part ((b.copiesOf pa).length * 64 * 2480)
  b.forL (b.copiesOf pa) fun p b =>
    let code := descCode (b.desc p.desc 0)
    let b := b.storeLine p.mc p.loc data |>.setCopyErrs p.mc p.loc 0
    if code ≠ codeN then b.setCopyPoison p.mc p.loc poison |>.mergeCheck p code tc3
    else b.when poison fun b =>
      b.inc MC_MIRCNT_NOPOIS p.mc |>.note { code := 0x2608, addr := some pa } |>.elogEntry p.mc pa 5 false 0 mid part p.loc

/-- Write the line at an address. A write into the image ranges of the source of a re-pairing is also written, in the same home
transaction, to the same offset of the target image, and its page is logged (R296). -/
def Block.mcWrite (mid part pa data : Nat) (poison tc3 : Bool) (b : Block) : Block :=
  let hit := b.blt.mirrors.filter (fun m => m.1 ≤ pa && pa < m.1 + m.2.1)
  let b := b.mcWriteOne mid part pa data poison tc3
  b.forL hit fun m b =>
    { b.mcWriteOne mid part (m.2.2.1 + (pa - m.1)) data poison tc3 with
      blt := { b.blt with pages := sinsert (pa / 4096) b.blt.pages } }

/-- Merge masked bytes of `new` into `old` (64-bit byte mask, byte 0 lowest). -/
def mergeBytes (old new mask : Nat) : Nat :=
  leNat ((List.range 64).map (fun i =>
    BitVec.ofNat 8 (if bit mask i then bits new (8 * i) (8 * i + 7) else bits old (8 * i) (8 * i + 7))))

/-- Masked bytes are written into a line through the merge buffer (R182, R262): the line is read, the bytes merge into it, poison stays. `poison`: the line
counts as poisoned besides. -/
def Block.partWrite (mid part pa data mask : Nat) (poison tc3 : Bool) (b : Block) : Block :=
  let (v, b) := b.mcRead mid part pa
  b.mcWrite mid part pa (mergeBytes v.1 data mask) (v.2 || poison) tc3 |>.mergeData pa mask tc3

/-- Rewrite the copies of a line that decode with corrections (the scrub of R268): memory's copy alone changes. -/
def Block.scrubCopy (code mc loc : Nat) (b : Block) : Block :=
  match decodeCopy (if code = codeM then codeS else code) (b.copyErrs mc loc) (b.copyPoison mc loc) with
  | .corrected _ => b.setCopyErrs mc loc 0
  | _ => b

/-- The scrub of a line (R268): every copy in memory that decodes with corrections is rewritten; no cache state changes. -/
def Block.scrubLine (pa : Nat) (b : Block) : Block :=
  match b.place pa with
  | none => b
  | some p =>
    let code := descCode (b.desc p.desc 0)
    b.scrubCopy code p.mc p.loc |>.when (code = codeM) (fun b => b.scrubCopy code (xorN p.mc 4) p.loc)

end Sys2Proof.Machine
end

