-- ==== Sys2Proof/Machine/Home.lean ====
section
/-! DEFINITION. The home agents: requests, decisions and completions (R175-R202, R207). -/

namespace Sys2Proof.Machine

/-! ## Decisions (R182) -/

/-- The holders that a request concerns: the other sails', of a private line the owner's where R200 lets the home ask it. A core of the owner that reads
uncached is served as its millstone (DEDUCED: R200 names no other reader of the sail). -/
def Block.holders (b : Block) (t : Txn) : List (Nat × LSt) :=
  let own := if t.mid % 32 = 17 then sailOf t.mid else none
  let all := b.others t.line own
  if !t.priv then all
  else match t.kind, b.privOwner (t.line * 64) with
    | .rdOnce, some o => if sailOf t.mid = some o then all.filter (fun e => e.1 = o) else []
    | .wrFull, some o => all.filter (fun e => e.1 = o)
    | .wrPart, some o => all.filter (fun e => e.1 = o)
    | _, _ => []

/-- The snoop that a request sends, to whom: the rows of R182 in their order; a WrPart to a private line always sends SnpUnique (R200). -/
def Block.plan (b : Block) (t : Txn) : Option SnpKind × List Nat :=
  let os := b.holders t
  let dirty := os.filter (fun e => e.2.dirty)
  let owners := os.filter (fun e => e.2.dirty || e.2 = .e)
  let ask (k : SnpKind) (l : List (Nat × LSt)) : Option SnpKind × List Nat := if l.isEmpty then (none, []) else (some k, l.map (·.1))
  if t.scrub.isSome then (none, [])
  else if t.dirEvict then ask .unique os
  else match t.kind with
    | .rdShared => ask .shared owners
    | .rdUnique => ask .unique os
    | .upgrade => ask (if t.asUnique then .unique else .inv) os
    | .rdOnce => ask .once dirty
    | .wrFull => ask .inv os
    | .wrPart => ask (if dirty.isEmpty && !t.priv then .inv else .unique) os
    | .dirtyNote => (none, [])
    | .wbDirty => (none, [])
    | .evictClean => (none, [])

/-- The requester of an Upgrade still holds S or O; with no entry for an unread line nothing says otherwise. -/
def Block.stillHolds (b : Block) (line n : Nat) : Bool :=
  b.fullVector line || b.shown line n = .s || b.shown line n = .o

/-- The write of a request needs data that has not arrived. -/
def Txn.needsData (t : Txn) : Bool :=
  (match t.kind with | .wrFull => true | .wrPart => true | .wbDirty => true | _ => false) && t.wdata.isNone

/-- Memory's data for a line as the home sees it: a LOST-DIRTY line reads poisoned (R207). A TC3 read takes its token (R264). -/
def Block.homeRead (t : Txn) (b : Block) : (Nat × Bool) × Block :=
  let lost := b.lostDirty t.line
  let b := b.when t.tc3 (Block.takeTokens t.part (t.line * 64) false)
  let r := b.mcRead t.mid t.part (t.line * 64)
  ((r.1.1, r.1.2 || lost), r.2)

/-- A request that fills a way of its L3: RdShared, RdUnique, and an Upgrade served as RdUnique. -/
def Txn.fills (t : Txn) : Bool :=
  t.mid % 32 = 17 && (match t.kind with | .rdShared => true | .rdUnique => true | .upgrade => t.asUnique | _ => false)

/-- R185: the filter shows another line in the way that the grant would fill. In DIRECTORY mode and in an unread set no way is shown. -/
def Block.wayTaken (b : Block) (t : Txn) : Bool :=
  match sailOf t.mid with
  | none => false
  | some n =>
    t.fills && b.filterMode && !b.unread t.line &&
    b.coh.filt.any (fun e => e.1 % 16 = n && e.1 / 16 ≠ t.line && e.2.way = t.way && e.2.st.live ≠ .i
      && lineSlice (e.1 / 16) = lineSlice t.line && lineSet (e.1 / 16) = lineSet t.line)

/-- A TC3 read's latency is held against its bound (R202), from its entry into the hub flume to the sending of its data (DESIGN CHOICE: the way back is not
counted). The bound does not hold after a Retry and for a rebuilding bank. -/
def Block.tc3Done (t : Txn) (b : Block) : Block :=
  if !t.tc3 then b
  else
    let h := b.homeOf (t.line * 64)
    let d := b.timeNs - t.enterNs
    let bound := if t.snooped then 1400 else 900
    let late := decide (bound < d) && !t.retried && !b.rebuilding t.line
    let u := SMap.get (0, 0) h b.coh.tc3
    b.modCoh (fun c => { c with tc3 := SMap.set (0, 0) h (max u.1 (min d 65535), satAdd 16 u.2 (ofBool late)) c.tc3 })
      |>.when late (fun b => b.noteOnce h { code := 0x140E })

/-! ## Completions (R182, R184, R190, R206, R207) -/

/-- A message to a requester; an access taken whole and a lost sail get none. -/
def Block.reply (t : Txn) (o : Out) (b : Block) : Block := b.when (!t.whole && !t.dead) (Block.emit o)

/-- Grant a state to the requester's L3 with CompData, and record it. -/
def Block.grantData (t : Txn) (st : LSt) (v : Nat × Bool) (b : Block) : Block :=
  let b := match sailOf t.mid with
    | some n => if t.mid % 32 = 17 then b.record t.line n st.filt t.way else b
    | none => b
  b.reply t (.compData t.mid t.part t.txid (t.line * 64) st v.1 v.2)

/-- The data of a read: what a snoop gave, else memory's. -/
def Block.readData (t : Txn) (b : Block) : (Nat × Bool) × Block :=
  match t.sdata with
  | some d => ((d, t.spoison), b)
  | none => b.homeRead t

/-- A line is written to memory for a transaction. A TC3 write takes its tokens (R264). -/
def Block.homeWrite (t : Txn) (data : Nat) (poison : Bool) (b : Block) : Block :=
  b.when t.tc3 (Block.takeTokens t.part (t.line * 64) true) |>.mcWrite t.mid t.part (t.line * 64) data poison t.tc3

/-- Dirty data that came for a transaction goes to memory. -/
def Block.saveData (t : Txn) (b : Block) : Block :=
  match t.sdata with
  | some d => b.homeWrite t d t.spoison
  | none => b

/-- Snoop data that no sail keeps as owner goes to memory (R190). -/
def Block.saveEvicting (t : Txn) (b : Block) : Block := b.when t.evicting (Block.saveData t)

/-- Change the requester's state where the record shows something else than I. -/
def Block.recordOwn (t : Txn) (f : FSt → Option FSt) (b : Block) : Block :=
  match sailOf t.mid with
  | some n => match f (b.shown t.line n) with
    | some st => b.record t.line n st (b.filtWay t.line n)
    | none => b
  | none => b

/-- A WrFull or WrPart reaches memory; one that its requester has dropped leaves there what was the newest data. -/
def Block.finishWrite (t : Txn) (b : Block) : Block :=
  let pa := t.line * 64
  let b := match t.dropped, t.kind, t.sdata with
    | true, .wrPart, some d => b.homeWrite t d t.spoison
    | true, _, _ => b
    | false, .wrFull, _ => b.clearLost t.line |>.homeWrite t (t.wdata.getD 0) t.wpoison
    | false, _, some d => b.clearLost t.line |>.homeWrite t (mergeBytes d (t.wdata.getD 0) t.wmask) (t.spoison || t.wpoison)
    | false, _, none => b.clearLost t.line |>.when t.tc3 (Block.takeTokens t.part pa true)
        |>.partWrite t.mid t.part pa (t.wdata.getD 0) t.wmask (t.wpoison || b.lostDirty t.line) t.tc3
  b.reply t (.comp t.mid t.part t.txid pa)

/-- The completion of a request by its kind. -/
def Block.finishKind (t : Txn) (b : Block) : Block :=
  let pa := t.line * 64
  match t.kind with
  | .rdShared =>
    let (v, b) := b.readData t
    b.saveEvicting t |>.grantData t (if t.hadHolder then LineSt.s else LineSt.e) v
  | .rdUnique =>
    let (v, b) := b.readData t
    b.clearLost t.line |>.grantData t .m v
  | .upgrade =>
    if t.asUnique then
      let (v, b) := b.readData t
      b.clearLost t.line |>.grantData t .m v
    else
      b.saveEvicting t |>.clearLost t.line |>.recordOwn t (fun _ => some .m) |>.reply t (.comp t.mid t.part t.txid pa)
  | .rdOnce =>
    let (v, b) := b.readData t
    b.saveEvicting t |>.when t.whole (Block.modCoh fun c => { c with got := some v })
      |>.reply t (.compData t.mid t.part t.txid pa .i v.1 v.2)
  | .wrFull => b.finishWrite t
  | .wrPart => b.finishWrite t
  | .dirtyNote =>
    b.recordOwn t (fun st => if st = .e then some .m else none) |>.reply t (.comp t.mid t.part t.txid pa)
  | .wbDirty =>
    let held := match sailOf t.mid with | some n => b.fullVector t.line || b.shown t.line n ≠ .i | none => false
    b.when held (Block.homeWrite t (t.wdata.getD 0) t.wpoison)
      |>.when (held && t.dead) (Block.clearLost t.line)
      |>.recordOwn t (fun st => if st.live = .i then none else some .i) |>.reply t (.evictAck (t.mid / 32) t.part t.txid pa)
  | .evictClean =>
    b.recordOwn t (fun st => if st.live = .i then none else some .i) |>.reply t (.evictAck (t.mid / 32) t.part t.txid pa)

/-- Complete a transaction whose answers and data have all arrived: the states answered are recorded (R182), then the request completes. It stays open,
stuck on its way, where R185 says so. A transaction of a lost sail grants nothing (R206); its write completes. -/
def Block.finish (t : Txn) (b : Block) : Block :=
  let answered (b : Block) : Block := b.forL t.answers fun e b => b.record t.line e.1 e.2.filt (b.filtWay t.line e.1)
  if t.scrub.isSome then b.dropTxn t.line |>.scrubLine (t.line * 64)
  else if t.dirEvict then answered (b.dropTxn t.line) |>.saveData t
  else if t.dead && (match t.kind with | .wrFull => false | .wrPart => false | .wbDirty => false | _ => true) then
    answered (b.dropTxn t.line) |>.saveData t
  else if b.wayTaken t then b.putTxn { t with stuck := true }
  else answered (b.dropTxn t.line) |>.tc3Done t |>.finishKind t

/-- Finish when nothing is awaited any more. -/
def Block.tryFinish (t : Txn) (b : Block) : Block :=
  if t.awaitResp.isEmpty && t.awaitData.isEmpty && !t.needsData then b.finish t else b.putTxn t

/-! ## Acceptance (R176, R194-R201) -/

/-- Open a transaction: the states decide its snoops, which leave at once (R177, R182). -/
def Block.openTxn (t : Txn) (b : Block) : Block :=
  let gone := decide (t.kind = .upgrade) && (match sailOf t.mid with | some n => !b.stillHolds t.line n | none => true)
  let t := { t with asUnique := gone, openedNs := b.timeNs, full := b.fullVector t.line, behind := none }
  let (k, targets) := b.plan t
  let t := { t with snp := k, awaitResp := targets, snooped := !targets.isEmpty, hadHolder := !(b.holders t).isEmpty }
  let b := match k with
    | some k => b.forL targets (fun n b => b.emit (.snoop n k t.mid t.part t.txid (t.line * 64)))
    | none => b
  b.tryFinish t

/-- The directory-cache ways of a slice's set that open trackers pin (R195). -/
def Block.pinnedWays (b : Block) (h set : Nat) : List Nat :=
  (b.coh.txns.filter (fun t => t.tracked && b.homeOf (t.line * 64) = h && dirSet t.line = set)).map (·.line)

/-- The entries of a slice's set that no tracker pins. -/
def Block.unpinnedEnts (b : Block) (h set : Nat) : List DirEnt :=
  let pins := b.pinnedWays h set
  b.coh.dir.filter (fun e => b.homeOf (e.line * 64) = h && dirSet e.line = set && !pins.contains e.line)

/-- No way of the set of a request is free for it: every one is pinned, or the last one is kept for the starving request (R196). -/
def Block.noWay (b : Block) (t : Txn) : Bool :=
  let h := b.homeOf (t.line * 64)
  let key := h * 2048 + dirSet t.line
  let pins := (b.pinnedWays h (dirSet t.line)).length
  let kept := b.coh.starving.any (fun e => e.1 = key && e ≠ (key, t.mid, t.txid))
  t.tracked && (16 ≤ pins || (kept && 15 ≤ pins))

/-- Answer Retry (R196): the attempt count goes with it; the fourth records the starving request of the set. -/
def Block.retryTxn (t : Txn) (b : Block) : Block :=
  let h := b.homeOf (t.line * 64)
  let k := t.attempt + 1
  let key := h * 2048 + dirSet t.line
  let b := b.inc HOM_RETRY_COUNT h |>.noteOnce h { code := 0x1408 }
  let b := if 4 ≤ k && !(b.coh.starving.any (fun e => e.1 = key)) then
      b.modCoh (fun c => { c with starving := c.starving ++ [(key, t.mid, t.txid)] }) else b
  b.emit (.retry t.mid t.part t.txid (t.line * 64) k)
    |>.modReq t.mid t.txid (fun r => { r with attempt := k, backoff := true })

/-- Accept the request that stands first for its line (R176, R195, R196). Where its set holds no free way, the least recently used entry that no tracker pins
goes: in FILTER mode at once, in DIRECTORY mode by a transaction of its own, behind which the request keeps its place. -/
def Block.accept (t : Txn) (b : Block) : Block :=
  let h := b.homeOf (t.line * 64)
  let set := dirSet t.line
  let key := h * 2048 + set
  if b.noWay t then b.unwait t |>.retryTxn t
  else
    let b := b.modCoh (fun c => { c with starving := c.starving.filter (fun e => e ≠ (key, t.mid, t.txid)) })
    let ents := (b.unpinnedEnts h set).filter (fun e => e.line ≠ t.line)
    match t.tracked, ents with
    | false, _ => b.unwait t |>.openTxn t
    | true, [] => b.unwait t |>.openTxn t
    | true, e :: es =>
      if ents.length + (b.pinnedWays h set).length < 16 then b.unwait t |>.openTxn t
      else
        let v := es.foldl (fun a x => if x.last < a.last then x else a) e
        if b.filterMode then b.modCoh (fun c => { c with dir := c.dir.filter (fun x => x.line ≠ v.line) }) |>.unwait t |>.openTxn t
        else
          b.modWait t (fun u => { u with behind := some v.line })
            |>.openTxn { mid := 0x1FF, part := t.part, txid := t.txid, kind := .rdUnique, line := v.line, dirEvict := true }

/-- Open private requests of a master's quota at a home (R201): 40 per sail, 32 for the governor, the sluice and debug together. -/
def Block.privRoom (t : Txn) (b : Block) : Bool :=
  let h := b.homeOf (t.line * 64)
  let l := b.coh.txns.filter (fun u => u.priv && b.homeOf (u.line * 64) = h && u.mid / 32 < 12 && u.mid / 32 = t.mid / 32)
  let g := b.coh.txns.filter (fun u => u.priv && b.homeOf (u.line * 64) = h && 12 ≤ u.mid / 32)
  !t.priv || (if t.mid / 32 < 12 then l.length < 40 else g.length < 32)

/-- The set of a line is being read back now (R199). -/
def Block.beingRead (b : Block) (line : Nat) : Bool :=
  b.coh.rebuild.any (fun r => r.bank = lineSlice line && r.set = lineSet line && !r.await.isEmpty)

/-- Requests to a region whose owner changes are held (R258), but for the evictions that empty it. -/
def Block.regionHeld (b : Block) (t : Txn) : Bool :=
  (match t.kind with | .wbDirty => false | .evictClean => false | .dirtyNote => false | _ => true)
    && !b.ms.heldRegions.isEmpty && (match b.regionOf (t.line * 64) with | some i => b.ms.heldRegions.contains i | none => false)

/-- May a waiting request start now (R176, R199)? -/
def Block.startable (earlier : List Nat) (t : Txn) (b : Block) : Bool :=
  (b.txnOf t.line).isNone && !earlier.contains t.line && t.behind.isNone && b.privRoom t && (!b.beingRead t.line || t.priv)
    && !b.regionHeld t && !(t.patient && b.noWay t)

/-- The first waiting request that may start. -/
def Block.nextStart (b : Block) : List Nat → List Txn → Option Txn
  | _, [] => none
  | seen, t :: r => if b.startable seen t then some t else Block.nextStart b (t.line :: seen) r

/-- After every change at the homes: the request for which a directory entry was evicted takes its way, grants that were stuck on a way go on, then waiting
requests start in their order. -/
def Block.pump : Nat → Block → Block
  | 0, b => b.syncOpen
  | n + 1, b =>
    match b.coh.waiting.find? (fun t => match t.behind with | some l => (b.txnOf l).isNone | none => false) with
    | some t => Block.pump n (b.unwait t |>.openTxn t)
    | none =>
      match b.coh.txns.find? (fun t => t.stuck && !b.wayTaken t) with
      | some t => Block.pump n (b.finish { t with stuck := false })
      | none =>
        match b.nextStart [] b.coh.waiting with
        | some t => Block.pump n (b.accept t)
        | none => b.syncOpen

/-- Run the homes until nothing more can start. -/
def Block.settle (b : Block) : Block := b.pump (2 * b.coh.txns.length + 4 * b.coh.waiting.length + 4)

/-! ## Rebuild of a filter bank (R199) -/

/-- HOM_SFSTAT.REBUILD and HOM_STATUS.REBUILD follow the rebuilding banks. -/
def Block.showRebuild (b : Block) : Block :=
  b.put HOM_SFSTAT_REBUILD (maskOf 8 (fun k => b.coh.rebuild.any (fun r => r.bank = k)))
    |>.forN 8 (fun h c => c.put HOM_STATUS_REBUILD (ofBool (!b.coh.rebuild.isEmpty)) h)

/-- A set of a bank has been read back when no answer to its TagReads is awaited: the directory entries of its lines are no longer needed, what the filter
still shows for a sail that is not ACTIVE goes but for LOST-DIRTY, and after the last set 0x0407 is logged (R199). -/
def Block.setRead (bank : Nat) (b : Block) : Block :=
  match b.coh.rebuild.find? (fun r => r.bank = bank && r.await.isEmpty) with
  | none => b
  | some r =>
    let here (l : Nat) : Bool := decide (lineSlice l = bank) && decide (lineSet l = r.set)
    let b' := b.modCoh fun c => { c with
      dir := c.dir.filter (fun e => !here e.line)
      filt := c.filt.filter (fun e => !here (e.1 / 16) || e.2.st.lost || b.active? (e.1 % 16))
      rebuild := if r.set = 4095 then c.rebuild.filter (fun q => q.bank ≠ bank)
        else c.rebuild.map (fun q => if q.bank = bank then { q with set := q.set + 1 } else q) }
    (if r.set = 4095 then b'.showRebuild.note { code := 0x0407 } else b').settle

/-- A sail's answer for a set is no longer awaited. -/
def Block.tagsHere (n bank : Nat) (b : Block) : Block :=
  if b.coh.rebuild.any (fun r => r.bank = bank && r.await.contains n) then
    b.modCoh (fun c => { c with rebuild := c.rebuild.map (fun r => if r.bank = bank then { r with await := r.await.filter (· ≠ n) } else r) })
      |>.setRead bank
  else b

/-! ## Arrivals at a home -/

/-- The masters that a private region's home accepts (R200). -/
def privAllowed (owner mid : Nat) (kind : ReqKind) : Bool :=
  (owner * 32 ≤ mid && mid ≤ owner * 32 + 17) || mid = midGov || mid = midDebug
    || (mid = midSluice && (kind = .wrFull || kind = .wrPart))

/-- The flow table lies at an address: contexts and, 64 MiB above, buckets (R353). -/
def Block.inFlowTable (b : Block) (pa : Nat) : Bool :=
  let base := b.get SLC_FTBASE_BASE * 2 ^ 27
  base ≤ pa && pa < base + 80 * 2 ^ 20

/-- The masters that the homes of the flow table accept: the sluice, and for reads the millers and the governor (R353). -/
def tableAllowed (mid : Nat) (kind : ReqKind) : Bool :=
  mid = midSluice || (kind = .rdOnce && (mid = midGov || (0x180 ≤ mid && mid < 0x188)))

/-- The fault with which the home of a line refuses a request, none where it accepts it (R200, R353). -/
def Block.homeRefuses (b : Block) (kind : ReqKind) (mid line : Nat) : Option Nat :=
  if (match b.privOwner (line * 64) with | some o => !privAllowed o mid kind | none => false) then some 0x2402
  else if b.inFlowTable (line * 64) && !tableAllowed mid kind then some 0x2901
  else none

/-- A request joins the queue of its slice, or gets an access error (R18, R176, R200, R353). -/
def Block.enter (t : Txn) (b : Block) : Block :=
  let pa := t.line * 64
  let err (b : Block) : Block := b.reply t (.errComp t.mid t.part t.txid pa) |>.dropReq t.mid t.txid
  if !b.dramOk pa then err (b.note { code := 0x2503, mid := some t.mid, addr := some pa })
  else match (if t.scrub.isNone then b.homeRefuses t.kind t.mid t.line else none) with
    | some c => err (b.note { code := c, mid := some t.mid, addr := some pa })
    | none => b.modCoh (fun c => { c with waiting := c.waiting ++ [{ t with priv := (b.privOwner pa).isSome }] }) |>.settle

/-- A request arrives at its home. Its issuer's record follows; the time of its entry into the hub flume is known where the flume port saw it (R202). -/
def Block.arrive (kind : ReqKind) (mid part txid pa way : Nat) (tc3 : Bool) (b : Block) : Block :=
  let line := pa / 64
  let b := if (b.reqOf mid txid).isNone then
      b.modCoh (fun c => { c with reqs := c.reqs ++ [{ mid := mid, part := part, txid := txid, kind := kind, line := line, way := way, tc3 := tc3 }] })
    else b.modReq mid txid (fun r => { r with backoff := false, tc3 := tc3 })
  let att := ((b.reqOf mid txid).map (·.attempt)).getD 0
  let seen := b.coh.entered.find? (fun e => e.1 = mid && e.2.1 = line)
  let b := match seen with
    | some e => b.modCoh (fun c => { c with entered := listErase e c.entered })
    | none => b
  b.enter { mid := mid, part := part, txid := txid, kind := kind, line := line, way := way, tc3 := tc3, attempt := att, retried := 0 < att
            enterNs := match seen with | some e => e.2.2 | none => b.timeNs }

/-- The home of an address has a transaction of this master and ID open or waiting (R178). -/
def Block.txidBusy (b : Block) (mid txid pa : Nat) : Bool :=
  (b.coh.txns ++ b.coh.waiting).any (fun t => t.mid = mid && t.txid = txid && b.homeOf (t.line * 64) = b.homeOf pa && !t.dirEvict && !t.whole && t.scrub.isNone)

/-- Write data arrives (R178): it joins its transaction, open or waiting. None: no write awaits it. -/
def Block.wrData (mid txid line data mask : Nat) (poison : Bool) (b : Block) : Option Block :=
  let hit (t : Txn) : Bool := t.mid = mid && t.txid = txid && t.line = line && t.wdata.isNone
    && (match t.kind with | .wrFull => true | .wrPart => true | .wbDirty => true | _ => false)
  let fill (t : Txn) : Txn := { t with wdata := some data, wmask := mask, wpoison := poison }
  match b.coh.txns.find? hit with
  | some t => some ((b.tryFinish (fill t)).settle)
  | none =>
    if b.coh.waiting.any hit then
      some (b.modCoh (fun c => { c with waiting := c.waiting.map (fun t => if hit t then fill t else t) }))
    else none

/-- The answers that a snoop can yield (table of L3 transitions, R188): the state, and whether data follows. -/
def snpAnswers (k : SnpKind) (st : LSt) (hasData evicting : Bool) : Bool :=
  if evicting then st = .i
  else match k with
    | .shared => if hasData then st = .o else st = .s || st = .i
    | .unique => st = .i
    | .inv => st = .i && !hasData
    | .once => hasData = st.dirty

/-- A snoop answer arrives (R182, R189). None: the home does not have it open, or no such snoop yields it (R190, R204). -/
def Block.snpResp (n txid line : Nat) (st : LSt) (hasData evicting : Bool) (b : Block) : Option Block :=
  match b.txnOf line with
  | none => none
  | some t =>
    if t.txid ≠ txid || !t.awaitResp.contains n || !(match t.snp with | some k => snpAnswers k st hasData evicting | none => false) then none
    else
      let b := b.when evicting (fun b => b.record line n .i 0)
      let waitData := hasData && !t.gotData.contains n
      let t := { t with
        awaitResp := t.awaitResp.filter (· ≠ n), answers := if evicting then t.answers else t.answers ++ [(n, st)]
        awaitData := if waitData then t.awaitData ++ [n] else t.awaitData
        evicting := t.evicting || (evicting && hasData) }
      some ((b.tryFinish t).settle)

/-- Snoop data arrives. None: data without its request. -/
def Block.snpData (n txid line data : Nat) (poison : Bool) (b : Block) : Option Block :=
  match b.txnOf line with
  | none => none
  | some t =>
    if t.txid ≠ txid then none
    else if t.awaitData.contains n then
      some ((b.tryFinish { t with awaitData := t.awaitData.filter (· ≠ n), sdata := some data, spoison := poison }).settle)
    else if t.awaitResp.contains n && !t.gotData.contains n then
      some (b.putTxn { t with gotData := t.gotData ++ [n], sdata := some data, spoison := poison })
    else none

end Sys2Proof.Machine
end

