-- ==== Sys2Proof/Machine/L3.lean ====
section
/-! DEFINITION. The caching agents (R174, R178-R180, R188, R203, table of L3 transitions), and their range maintenance engines at work (R89-R98). -/

namespace Sys2Proof.Machine

/-! ## Ways and room -/

/-- A way of a slice is enabled: the disabled-way map does not name it. -/
def Block.wayEnabled (b : Block) (n slice way : Nat) : Bool := !bit (b.get L3_WAYDIS_DIS n slice) way

/-- A fill that is pending reserves its way. -/
def Block.wayPending (b : Block) (n line w : Nat) : Bool :=
  b.coh.reqs.any (fun r => r.mid = midL3 n && r.way = w
    && (match r.kind with | .rdShared => true | .rdUnique => true | .upgrade => true | _ => false)
    && lineSlice r.line = lineSlice line && lineSet r.line = lineSet line)

/-- A slice's writeback buffer is full: no further fills of the slice (R179). -/
def Block.wbFull (b : Block) (n line : Nat) : Bool :=
  32 ≤ (b.coh.wb.filter (fun w => w.sail = n && lineSlice w.line = lineSlice line)).length

/-- A line may be evicted now: the buffer has room, the request can leave, and no Comp of its DirtyNote is awaited (R178). -/
def Block.canEvict (b : Block) (n line : Nat) : Bool :=
  !b.wbFull n line && (b.freeTxid (midL3 n)).isSome && !(b.l3At n line).noteOpen

/-- The L3 has a fill of its own under way for a line, or an eviction whose acknowledgement it awaits (R180). -/
def Block.l3Fill (b : Block) (n line : Nat) : Option OpenReq :=
  b.coh.reqs.find? (fun r => r.mid = midL3 n && r.line = line && (match r.kind with | .rdShared => true | .rdUnique => true | .upgrade => true | _ => false))
def Block.l3Busy (b : Block) (n line : Nat) : Bool := (b.wbOf n line).isSome || (b.l3Fill n line).isSome

/-- A fill that is pending without a copy of the line in the L3: RdShared, RdUnique, and an Upgrade whose copy a snoop has taken (R92). -/
def Block.fillPending (b : Block) (n line : Nat) : Option OpenReq :=
  match b.l3Fill n line with
  | some r => if r.kind = .upgrade && (b.l3At n line).st ≠ .i then none else some r
  | none => none

/-! ## Evictions and snoops -/

/-- Drop a line from an L3 with its announcement (R179): the writeback buffer keeps it until the EvictAck. -/
def Block.evictLine (n line part : Nat) (mnt : Bool) (b : Block) : Block :=
  let e := b.l3At n line
  match e.st, b.freeTxid (midL3 n) with
  | .i, _ => b
  | _, none => b
  | _, some x =>
    let d := e.st.dirty
    let b := b.setL3 n line {} |>.modCoh (fun c => { c with
      wb := c.wb ++ [{ sail := n, line := line, dirty := d, data := e.data, poison := e.poison }] })
    let b := b.issue (if d then .wbDirty else .evictClean) (midL3 n) part line e.way false mnt |>.pmu n 0x03 (some part) (ofBool d)
    if d then b.emit (.wrData (midL3 n) part x (line * 64) e.data (2 ^ 64 - 1) e.poison) else b

/-- A snoop reaches an L3: it answers from the writeback buffer (R188) or from its line. -/
def Block.snoopL3 (k : SnpKind) (n pa txid : Nat) (b : Block) : Block :=
  let line := pa / 64
  if !b.active? n then b
  else
    let part := ((b.txnOf line).map (·.part)).getD noPart
    let b := b.pmu n 0x05 (some part) 1 |>.pmu n 0x06 (some part) (ofBool ((b.wbOf n line).isSome || decide ((b.l3At n line).st ≠ .i)))
    match b.wbOf n line with
    | some w =>
      b.emit (.snpResp n part txid pa .i w.dirty true) |>.when w.dirty (fun b => b.emit (.snpData n part txid pa w.data w.poison))
    | none =>
      let e := b.l3At n line
      let next : LSt := match k, e.st with
        | .shared, .m => .o | .shared, .o => .o | .shared, .e => .s | .shared, .s => .s | .shared, .i => .i
        | .unique, _ => .i
        | .inv, _ => .i
        | .once, x => x
      let give := e.st.dirty && (match k with | .inv => false | _ => true)
      b.privClean n line |>.setL3 n line { e with st := next }
        |>.emit (.snpResp n part txid pa next give false)
        |>.when give (fun b => b.emit (.snpData n part txid pa e.data e.poison))

/-- The tags of one set of one slice of an L3 (TagRead). -/
def Block.tagsOf (b : Block) (n slice set : Nat) : List TagInfo :=
  ((b.l3Lines n).filter (fun e => lineSlice e.1 = slice && lineSet e.1 = set)).map (fun e => ⟨e.1, e.2.way, e.2.st⟩)

/-- A fill is installed in an L3 in its way. -/
def Block.install (n line way : Nat) (st : LSt) (data : Nat) (poison : Bool) (b : Block) : Block :=
  b.setL3 n line { st := st, way := way, poison := poison, data := data }

/-! ## Lines that leave the L3 by themselves (R79, R99, R203) -/

/-- A line is to leave: at once where the writeback buffer has room, else as soon as it has. -/
def Block.leave (n line : Nat) (b : Block) : Block :=
  if b.canEvict n line then b.evictLine n line noPart false
  else b.modSail n fun s => { s with leaving := sinsert line s.leaving }

/-- The lines that wait for room leave; for OP 0 every line does, once the maintenance engine is idle: its clean, which it counts as its own (R79, R107). -/
def Block.leaveOn (n : Nat) (b : Block) : Block :=
  let clean := (b.sail n).op0 = 1 && !b.isSet L3_MNT_STATUS_BUSY n
  let all := if clean then (b.l3Lines n).map (·.1) else (b.sail n).leaving
  b.forL all fun l b =>
    let b := b.when (clean && b.canEvict n l) fun b => b.pmu n 0x07 none 1 |>.pmu n 0x08 none (ofBool (b.l3At n l).st.dirty)
    (b.modSail n fun s => { s with leaving := s.leaving.filter (· ≠ l) }).leave n l

/-! ## The maintenance engine at work (R89-R97) -/

/-- A dirty line of an L3 is written to memory with its poison and kept clean (CLEAN of R89). The write is taken whole: the spec names no message for it. -/
def Block.cleanLine (n line part : Nat) (b : Block) : Block :=
  let e := b.l3At n line
  if !e.st.dirty then b
  else
    let shared := (List.range 12).any (fun m => m ≠ n && (b.l3At m line).st ≠ .i)
    let st : LSt := if e.st = .m && !shared then .e else .s
    b.privClean n line |>.mcWrite (midL3 n) part (line * 64) e.data e.poison false |>.setL3 n line { e with st := st }
      |>.record line n st.filt e.way

/-- The partition of the engine's operation: that of the owner core. -/
def Block.mntPart (b : Block) (n : Nat) : Nat := b.partNo (n * 32 + b.get L3_MNT_CTL_OWNERCORE n)

/-- A way locked for the operation's owner core. -/
def Block.mntWay (b : Block) (n w : Nat) : Bool := bit (b.get L3_WAYLOCK_LOCK n) w && bit (b.get L3_LOCKOWN_OWNER n w) (b.get L3_MNT_CTL_OWNERCORE n)

/-- A way in which LOCKLOAD may place a line: enabled, locked for the owner core, invalid in the set and reserved by no fill (R95, R100). -/
def Block.lockedFree (b : Block) (n line : Nat) : Option Nat :=
  (List.range 16).find? fun w =>
    b.wayEnabled n (lineSlice line) w && b.mntWay n w && (b.l3InWay n line w).isNone && !b.wayPending n line w

/-- LOCKLOAD of one line (R95): placed already, moved, skipped for want of a way, or read as a load of the owner core reads it. False: the read cannot leave
now. -/
def Block.lockLoadLine (n line : Nat) (b : Block) : Bool × Block :=
  let e := b.l3At n line
  if e.st ≠ .i && b.mntWay n e.way then (true, b)
  else if e.st ≠ .i then
    match b.lockedFree n line with
    | none => (true, b.inc L3_MNT_LOCKMISS_LOCKMISS n)
    | some w => (true, b.setL3 n line { e with way := w } |>.record line n e.st.filt w |>.inc L3_MNT_COUNT_LINES n)
  else if (b.wbOf n line).isSome || b.wbFull n line || (b.freeTxid (midL3 n)).isNone then (false, b)
  else match b.lockedFree n line with
    | none => (true, b.inc L3_MNT_LOCKMISS_LOCKMISS n)
    | some w => (true, b.issueFor (some (n * 32 + b.get L3_MNT_CTL_OWNERCORE n, false)) .rdShared (midL3 n) (b.mntPart n) line w false true)

/-- A line visited is counted (R107). DESIGN CHOICE: a line visited (event 0x07) is a line of the range on which the engine acts: present for CLEAN and CLEANINV,
every line for LOCKLOAD; the spec does not say whether an absent line of a set visited counts. -/
def Block.mntVisit (n : Nat) (b : Block) : Block := b.pmu n 0x07 (some (b.mntPart n)) 1

/-- The engine writes a line back: counted. -/
def Block.mntWrote (n line : Nat) (b : Block) : Block :=
  b.when (b.l3At n line).st.dirty fun b => b.inc L3_MNT_COUNT_LINES n |>.pmu n 0x08 (some (b.mntPart n)) 1

/-- CLEANINV of the lines that are still to go, while they find room. -/
def Block.mntEvict (n : Nat) : List Nat → Block → Block
  | [], b => b
  | l :: r, b =>
    if (b.l3At n l).st = .i then Block.mntEvict n r (b.modSail n fun s => { s with mntLines := s.mntLines.filter (· ≠ l) })
    else if b.canEvict n l then
      Block.mntEvict n r (b.mntWrote n l |>.evictLine n l (b.mntPart n) true |>.modSail n fun s => { s with mntLines := s.mntLines.filter (· ≠ l) })
    else Block.mntEvict n r b

/-- LOCKLOAD goes on from the line it has reached; one whose fill is pending is visited after it (R92). -/
def Block.mntLoad (n limit : Nat) : Nat → Block → Block
  | 0, b => b
  | f + 1, b =>
    let l := (b.sail n).mntAt
    let past (b : Block) : Block := b.modSail n fun s => { s with mntAt := l + 1 }
    if limit < l then b
    else if (b.fillPending n l).isSome then
      Block.mntLoad n limit f (past b |>.modSail n fun s => { s with mntWait := if s.mntWait.contains l then s.mntWait else s.mntWait ++ [l] })
    else match b.lockLoadLine n l with
      | (true, b) => Block.mntLoad n limit f (past b |>.mntVisit n)
      | (false, b) => b

/-- The operation on one line that is present, or whose fill has completed. A line whose DirtyNote is open is cleaned after its Comp. -/
def Block.mntLine (n line : Nat) (b : Block) : Block :=
  match b.get L3_MNT_CTL_OP n with
  | 0 =>
    if (b.l3At n line).noteOpen then b.modSail n fun s => { s with mntWait := s.mntWait ++ [line] }
    else b.mntVisit n |>.mntWrote n line |>.cleanLine n line noPart
  | 1 => if (b.l3At n line).st = .i then b else b.mntVisit n |>.modSail n fun s => { s with mntLines := s.mntLines ++ [line] }
  | _ => match b.lockLoadLine n line with
    | (true, b) => b.mntVisit n
    | (false, b) => b.modSail n fun s => { s with mntWait := s.mntWait ++ [line] }

/-- The engine goes on as far as it can: lines whose fill has completed, lines to evict, lines to load. -/
def Block.mntOn (n : Nat) (b : Block) : Block :=
  if !b.isSet L3_MNT_STATUS_BUSY n then b
  else
    let ready := (b.sail n).mntWait.filter fun l => (b.fillPending n l).isNone
    let b := b.modSail n (fun s => { s with mntWait := s.mntWait.filter fun l => !ready.contains l }) |>.forL ready (fun l b => b.mntLine n l)
    let b := b.mntEvict n (b.sail n).mntLines
    if b.get L3_MNT_CTL_OP n = 2 then
      let limit := b.get L3_MNT_LIMIT_ADDR n
      b.mntLoad n limit (limit + 1 - (b.sail n).mntAt)
    else b

/-- The engine has no visit and no transfer left (R91). -/
def Block.mntDone (b : Block) (n : Nat) : Bool :=
  let s := b.sail n
  s.mntWait.isEmpty && s.mntLines.isEmpty && (b.get L3_MNT_CTL_OP n ≠ 2 || b.get L3_MNT_LIMIT_ADDR n < s.mntAt)
    && !b.coh.reqs.any (fun r => r.mid = midL3 n && r.mnt && !r.timedOut)

/-- What waits at an L3 for room or for a fill goes on. -/
def Block.l3On (n : Nat) (b : Block) : Block := b.mntOn n |>.leaveOn n

/-! ## Completions at a requester (R177-R179, R196, R203) -/

/-- A response with no open request, or one that ended by its timeout, is discarded and counted (R203). -/
def Block.lateAnswer (mid txid : Nat) (b : Block) : Block :=
  b.modCoh (fun c => { c with late := c.late + 1 }) |>.dropReq mid txid |>.note { code := 0x140C, mid := some mid }

/-- A line that an L3 may not keep leaves at once: its grant came late (R203), its way is disabled (R100), or the sail empties its L3 (R79). -/
def Block.mayKeep (b : Block) (n line way : Nat) (late : Bool) : Bool := !late && b.wayEnabled n (lineSlice line) way && (b.sail n).op0 = 0

/-- Comp (R178, R182): an Upgrade is granted M, a DirtyNote is acknowledged, a write is complete. A late one is discarded and counted; one that grants M is made
good by an eviction, as a late CompData is, so that the filter stays exact (DEDUCED). -/
def Block.takeComp (mid txid pa : Nat) (b : Block) : Block :=
  match b.reqOf mid txid with
  | none => b.lateAnswer mid txid
  | some r =>
    let line := pa / 64
    let b := if r.timedOut then b.lateAnswer mid txid else b.dropReq mid txid
    match sailOf mid with
    | none => b
    | some n =>
      let e : L3Line := b.l3At n line
      let b := match r.kind with
        | .upgrade =>
          if e.st = LineSt.i then b
          else b.setL3 n line { e with st := .m } |>.when r.timedOut (Block.leave n line)
        | .dirtyNote => if e.st = LineSt.i then b else b.setL3 n line { e with noteOpen := false }
        | _ => b
      b.l3On n

/-- CompData (R182, R203): an L3 fills the line with the granted state; what it may not keep leaves at once. -/
def Block.takeCompData (mid txid pa : Nat) (st : LSt) (data : Nat) (poison : Bool) (b : Block) : Block :=
  match b.reqOf mid txid with
  | none => b.lateAnswer mid txid
  | some r =>
    let line := pa / 64
    match sailOf mid, decide (mid % 32 = 17) && decide (st ≠ .i) with
    | some n, true =>
      let b := b.dropReq mid txid |>.install n line r.way st data poison |>.pmu n 0x0B (some r.part) 1
        |>.when (r.mnt && !r.timedOut) (fun b => b.inc L3_MNT_COUNT_LINES n)
      (if b.mayKeep n line r.way r.timedOut then b else b.leave n line).l3On n
    | _, _ => if r.timedOut then b.lateAnswer mid txid else b.dropReq mid txid

/-- EvictAck (R179): the writeback buffer entry and its request go. -/
def Block.takeEvictAck (n pa : Nat) (b : Block) : Block :=
  let line := pa / 64
  b.modCoh (fun c => { c with
    wb := c.wb.filter (fun w => !(decide (w.sail = n) && decide (w.line = line)))
    reqs := c.reqs.filter (fun r => !(decide (r.mid = midL3 n) && decide (r.line = line)
      && (match r.kind with | .wbDirty => true | .evictClean => true | _ => false))) }) |>.l3On n

/-- Retry (R196): the requester backs off; the request is to be resent with the same fields. A late one is discarded and counted (R203). -/
def Block.takeRetry (mid txid pa k : Nat) (b : Block) : Block :=
  match b.reqOf mid txid with
  | none => b
  | some r =>
    if r.line ≠ pa / 64 then b
    else if r.timedOut then b.lateAnswer mid txid
    else b.modReq mid txid (fun r => { r with attempt := k, backoff := true })

end Sys2Proof.Machine
end

