-- ==== Sys2Proof/Machine/CohOps.lean ====
section
/-! DEFINITION. Coherence messages as they arrive, in the order that R220 keeps (R177); accesses of the agents inside the package (R187, R200); the purge of a
lost sail (R205-R209); the tracking mode (R198). -/

namespace Sys2Proof.Machine

/-! ## Arrivals -/

/-- Write data reaches its home; the writeback of a sail is counted (R107). None: no write awaits it. -/
def Block.takeWrData (mid txid pa data mask : Nat) (poison : Bool) (b : Block) : Option Block :=
  let part := (b.reqOf mid txid).map (·.part)
  (b.wrData mid txid (pa / 64) data mask poison).map fun c => match sailOf mid with | some n => c.pmu n 0x0C part 1 | none => c

/-- A message takes effect where it is going. What breaks no rule of the protocol is no error here. -/
def Block.deliver (o : Out) (b : Block) : Block :=
  match o with
  | .request kind mid part txid a way => b.arrive kind mid part txid a way (((b.reqOf mid txid).map (·.tc3)).getD false)
  | .wrData mid _ txid a d m p => (b.takeWrData mid txid a d m p).getD b
  | .snoop n k _ _ txid a => b.snoopL3 k n a txid
  | .snpResp n _ txid a st d e => (b.snpResp n txid (a / 64) st d e).getD b
  | .snpData n _ txid a d p => (b.snpData n txid (a / 64) d p).getD b
  | .comp mid _ txid a => b.takeComp mid txid a
  | .compData mid _ txid a st d p => b.takeCompData mid txid a st d p
  | .evictAck n _ _ a => b.takeEvictAck n a
  | .retry mid _ txid a k => b.takeRetry mid txid a k
  | _ => b

/-- A message takes effect before the command that carries it. -/
def Block.landOne (o : Out) (b : Block) : Block := b.takeFlight o |>.markLanded o |>.deliver o

/-- Messages that left before `o` and arrive before it do so now (R177, R204, R220). -/
def Block.landEarlier (o : Out) (b : Block) : Block :=
  b.forL ((b.inFlight.takeWhile (· ≠ o)).filter (fun x => x.precedes o)) Block.landOne

/-- A command carries a message to where it is going. One that the block sent leaves the millrace; one whose message took effect before has none left; any other
comes from outside. -/
def Block.arrives (c : Instr) (b : Block) : Bool × Block :=
  match b.inFlight.find? (fun o => o.command = some (sent c)) with
  | some o => (true, b.landEarlier o |>.takeFlight o)
  | none =>
    match b.net.landed.find? (fun o => o.command = some (sent c)) with
    | some o => (false, { b with net := { b.net with landed := b.net.landed.erase o } })
    | none => (true, b)

/-- The effect `f` of a row that is a message: none for one that landed before. -/
def Block.taking (c : Instr) (f : Block → Block) (b : Block) : Block :=
  match b.arrives c with
  | (true, b) => f b
  | (false, b) => b

/-- The messages about a line arrive, the oldest first, and those that they bring about, until `done`. `mark`: their commands are still to come. -/
def Block.landF (line : Nat) (mark : Bool) (done : Block → Bool) : Nat → Block → Block
  | 0, b => b
  | f + 1, b =>
    let b := b.flushOut
    if done b then b
    else match b.inFlight.find? (fun o => o.line? = some line) with
      | none => b
      | some o => Block.landF line mark done f (b.takeFlight o |>.when mark (Block.markLanded o) |>.deliver o)

/-- Enough for every message that the open business of a line can bring about. -/
def Block.landFuel (b : Block) (line : Nat) : Nat :=
  64 * (1 + (b.coh.reqs.filter (fun r => r.line = line)).length + (b.coh.txns ++ b.coh.waiting).length + b.inFlight.length)

/-- Everything under way about a line arrives. -/
def Block.calm (line : Nat) (b : Block) : Block :=
  let b := b.flushOut
  b.landF line true (fun _ => false) (b.landFuel line)

/-! ## Accesses of the agents inside the package

The hub's and the sails' own engines (millstones, sluice, bolter, walkers, uncached accesses of cores) reach DRAM as non-caching agents by RdOnce, WrFull and
WrPart. Such a transaction is taken whole: it is ordered at its home behind the traffic of its line that is under way, and what its messages bring about
happens at once (DESIGN CHOICE). -/

/-- No cache, record, message or transaction knows the line. -/
def Block.untouched (b : Block) (line : Nat) : Bool :=
  !b.coh.l3.any (fun e => e.1 / 16 = line) && !b.coh.wb.any (fun w => w.line = line) && !b.coh.filt.any (fun e => e.1 / 16 = line)
    && !b.coh.dir.any (fun e => e.line = line) && !(b.coh.txns ++ b.coh.waiting).any (fun t => t.line = line)
    && !(b.inFlight ++ b.out).any (fun o => o.line? = some line) && b.coh.rebuild.isEmpty && b.ms.heldRegions.isEmpty

/-- Order a transaction taken whole and bring it about. Where it must wait for something outside the package (write data of another agent, the end of an owner
change), a write keeps its place and a read is answered from memory. -/
def Block.runWhole (t : Txn) (b : Block) : (Nat × Bool) × Block :=
  let b := b.calm t.line
  let k := b.out.length
  let t := { t with whole := true, txid := ((lowestFree ((b.coh.txns ++ b.coh.waiting).map (·.txid)) 65536 4096).getD 0) }
  let ours (u : Txn) : Bool := u.whole && u.txid = t.txid && u.line = t.line
  let b := b.modCoh (fun c => { c with got := none }) |>.enter t
  let b := b.landF t.line false (fun b => !(b.coh.txns ++ b.coh.waiting).any ours) (b.landFuel t.line)
  let b := { b with out := b.out.take k ++ (b.out.drop k).filter (fun o : Out => !o.travels || b.net.box.contains o) }
  let b := { b with net := { b.net with sent := b.out.length } }
  if t.kind ≠ .rdOnce then ((0, false), b)
  else match b.coh.got with
    | some v => (v, b)
    | none =>
      let refused := !(b.coh.txns ++ b.coh.waiting).any ours
      let b := b.modCoh fun c => { c with txns := c.txns.filter (fun u => !ours u), waiting := c.waiting.filter (fun u => !ours u) }
      if refused then ((0, true), b) else b.mcRead t.mid t.part (t.line * 64)

/-- RdOnce taken whole (R187): data and poison. An access that is refused reads as poison (DESIGN CHOICE); it is logged. -/
def Block.readLine (mid part line : Nat) (b : Block) : (Nat × Bool) × Block :=
  if b.untouched line then
    (match b.homeRefuses .rdOnce mid line with
     | some c => ((0, true), b.note { code := c, mid := some mid, addr := some (line * 64) })
     | none => b.mcRead mid part (line * 64))
  else b.runWhole { mid := mid, part := part, txid := 0, kind := .rdOnce, line := line }

/-- WrFull or WrPart taken whole: masked bytes merge into the line's data; the poison stays unless the write covers the line. -/
def Block.writeLine (mid part line data mask : Nat) (poison : Bool) (b : Block) : Block :=
  let kind : ReqKind := if mask = 2 ^ 64 - 1 then .wrFull else .wrPart
  if b.untouched line then
    (match b.homeRefuses kind mid line with
     | some c => b.note { code := c, mid := some mid, addr := some (line * 64) }
     | none =>
       if mask = 2 ^ 64 - 1 then b.mcWrite mid part (line * 64) data poison false
       else b.partWrite mid part (line * 64) data mask poison false)
  else (b.runWhole { mid := mid, part := part, txid := 0, kind := kind, line := line, wdata := some data, wmask := mask, wpoison := poison }).2

/-- Read `n` bytes at a physical address (up to `fuel` lines): bytes, and whether a line was poisoned. -/
def Block.readBytesF (mid part : Nat) : Nat → Nat → Nat → Block → (Bytes × Bool) × Block
  | 0, _, _, b => (([], false), b)
  | fuel + 1, pa, n, b =>
    if n = 0 then (([], false), b)
    else
      let k := min n (64 - pa % 64)
      let (v, b) := b.readLine mid part (pa / 64)
      let here := ((leBytes 64 v.1).drop (pa % 64)).take k
      let (r, b) := Block.readBytesF mid part fuel (pa + k) (n - k) b
      ((here ++ r.1, v.2 || r.2), b)

/-- Read `n` bytes coherently. -/
def Block.readBytes (mid part pa n : Nat) (b : Block) : (Bytes × Bool) × Block := b.readBytesF mid part (n / 64 + 2) pa n

/-- Write bytes at a physical address, line by line, with or without POISON. -/
def Block.writeBytesF (mid part : Nat) (poison : Bool) : Nat → Nat → Bytes → Block → Block
  | 0, _, _, b => b
  | fuel + 1, pa, v, b =>
    if v.isEmpty then b
    else
      let o := pa % 64
      let k := min v.length (64 - o)
      let b := b.writeLine mid part (pa / 64) (leNat (v.take k) * 2 ^ (8 * o)) ((2 ^ k - 1) * 2 ^ o) poison
      Block.writeBytesF mid part poison fuel (pa + k) (v.drop k) b

/-- Write bytes coherently. -/
def Block.writeBytes (mid part pa : Nat) (v : Bytes) (b : Block) : Block := b.writeBytesF mid part false (v.length / 64 + 2) pa v

/-- Read a little-endian number of `n` bytes. -/
def Block.readNat (mid part pa n : Nat) (b : Block) : (Nat × Bool) × Block :=
  let (r, b) := b.readBytes mid part pa n
  ((leNat r.1, r.2), b)

/-- Every byte of a range is usable DRAM (checked granule by granule; ranges of the callers are contiguous). -/
def Block.rangeOk (b : Block) (pa n : Nat) : Bool :=
  n = 0 || (b.dramOk pa && b.dramOk (pa + n - 1)
    && (List.range (n / 4096 + 1)).all (fun i => b.dramOk (min (pa + 4096 * i) (pa + n - 1))))

/-- A line leaves the L3 of sail `n`, taken whole (R258, CBO.FLUSH): the eviction reaches its home and is acknowledged. Where the L3 has no room for it, the line
leaves as soon as it has. -/
def Block.dropLine (n line : Nat) (b : Block) : Block :=
  if (b.l3At n line).st = .i then b
  else
    let b := b.calm line
    let b := b.leave n line
    b.landF line true (fun b => (b.wbOf n line).isNone) (b.landFuel line)

/-- Every copy of a line in the L3s goes, dirty data with it (CBO.INVAL): the home sends SnpInv to every holder, and the answers are recorded. -/
def Block.purgeLine (line : Nat) (b : Block) : Block :=
  let b := b.calm line
  b.forN 12 fun n b =>
    b.when ((b.l3At n line).st ≠ .i) (fun b => b.pmu n 0x05 none 1 |>.pmu n 0x06 none 1 |>.setL3 n line {})
      |>.when (b.shown line n ≠ .i) (fun b => b.record line n .i 0)

/-! ## Purge of a lost sail (R205-R209) -/

/-- Write a loss-map entry (R209). -/
def Block.lossEntry (n line : Nat) (m : Bool) (b : Block) : Block :=
  let h := b.homeOf (line * 64)
  let size := b.get HOM_LOSSCFG_SIZE h
  if size = 0 then b
  else
    let c := b.get HOM_LOSSCNT_COUNT h
    let unread := (c + 2 ^ 20 - b.get HOM_LOSSRD_PASSED h) % 2 ^ 20
    let v := n % 16 + (if m then 2 else 1) * 16 + line % 2 ^ 42 * 64 + b.turn % 2 ^ 16 * 2 ^ 48
    let b := b.pokeBytes (b.get HOM_LOSSBASE_BASE h * 4096 + 8 * (c % 2 ^ size)) (leBytes 8 v)
      |>.put HOM_LOSSCNT_COUNT ((c + 1) % 2 ^ 20) h
    if 2 ^ size ≤ unread && !b.isSet HOM_LOSSCNT_OVF h then
      b.put HOM_LOSSCNT_OVF 1 h |>.note { code := 0x240D }
    else b

/-- A message of a sail's agents, or to them. -/
def Out.ofSail (n : Nat) : Out → Bool
  | .request _ mid _ _ _ _ => sailOf mid = some n
  | .wrData mid _ _ _ _ _ _ => sailOf mid = some n
  | .snoop m _ _ _ _ _ => m = n
  | .tagRead m _ _ => m = n
  | .tagResp m _ _ _ => m = n
  | .snpResp m _ _ _ _ _ _ => m = n
  | .snpData m _ _ _ _ _ => m = n
  | .comp mid _ _ _ => sailOf mid = some n
  | .compData mid _ _ _ _ _ _ => sailOf mid = some n
  | .evictAck m _ _ _ => m = n
  | .retry mid _ _ _ _ => sailOf mid = some n
  | .errComp mid _ _ _ => sailOf mid = some n
  | .ioReq mid _ _ _ _ => sailOf mid = some n
  | .ioComp mid _ _ _ _ => sailOf mid = some n
  | .binv m _ _ => m = n
  | .binvAck m _ _ => m = n
  | _ => false

/-- Step 2: the flume port stops every message from the sail and drops every one to it; its outstanding requests end with an error (R205). -/
def Block.cutOff (n : Nat) (b : Block) : Block :=
  let b := b.forL (b.coh.reqs.filter (fun r => sailOf r.mid = some n)) fun r b => b.emit (.errComp r.mid r.part r.txid (r.line * 64))
  b.flushOut.dropFlight (Out.ofSail n)
    |>.modCoh (fun c => { c with
        reqs := c.reqs.filter (fun r => sailOf r.mid ≠ some n), wb := c.wb.filter (fun w => w.sail ≠ n)
        starving := c.starving.filter (fun e => sailOf e.2.1 ≠ some n), entered := c.entered.filter (fun e => sailOf e.1 ≠ some n) })

/-- An unfinished write of a lost sail: with its data it goes on; without it the line is written poisoned (R206). A WbDirty without data is none: its line is
LOST-DIRTY. Other requests of the sail end. -/
def Txn.orphan (t : Txn) : Option Txn :=
  match t.kind, t.wdata with
  | .wbDirty, none => none
  | .wbDirty, some _ => some { t with dead := true }
  | .wrFull, none => some { t with dead := true, kind := .wrPart, wdata := some 0, wmask := 0, wpoison := true }
  | .wrPart, none => some { t with dead := true, wdata := some 0, wmask := 0, wpoison := true }
  | .wrFull, some _ => some { t with dead := true }
  | .wrPart, some _ => some { t with dead := true }
  | _, _ => none

/-- A WbDirty of sail `n` that waits with all its data, first for its line, completes before the filter is walked (R206). -/
def Block.saveWritebacks (n : Nat) (b : Block) : Block :=
  b.forL (b.coh.waiting.filter (fun t => sailOf t.mid = some n && t.kind = .wbDirty && t.wdata.isSome)) fun t b =>
    let first := match b.coh.waiting.find? (fun u => u.line = t.line) with | some u => u = t | none => false
    if first && (b.txnOf t.line).isNone then b.unwait t |>.openTxn { t with dead := true } else b

/-- Step 4: the filter banks walk the sail's entries: S and E become I, M and O LOST-DIRTY with their loss-map entries. Where the directory holds a newer state of
an unread line, that one counts. Answers the number of LOST-DIRTY lines. -/
def Block.walkFilter (n : Nat) (b : Block) : Nat × Block :=
  let old (l : Nat) : Bool := b.unread l && (b.dirOf l).isSome
  let fl := (b.coh.filt.filter (fun e => e.1 % 16 = n && !e.2.st.lost)).map (fun e => (e.1 / 16, if old (e.1 / 16) then FSt.i else e.2.st, e.2.way))
  let dl := b.coh.dir.filterMap (fun e => (List.lookup n e.sts).map fun st => (e.line, st))
  let keepF := b.filterMode
  let dirty (st : FSt) : Bool := st = .m || st = .o
  let lostOf (st : FSt) : FSt := if st = .m then .lostM else .lostO
  let b := b.forL fl fun e b =>
    if dirty e.2.1 then b.setFilt e.1 n ⟨lostOf e.2.1, e.2.2⟩ |>.lossEntry n e.1 (e.2.1 = .m) else b.setFilt e.1 n {}
  let b := b.forL dl fun e b =>
    if dirty e.2 then
      (if keepF then b.setDir e.1 n .i |>.setFilt e.1 n ⟨lostOf e.2, 0⟩ else b.setDir e.1 n (lostOf e.2)) |>.lossEntry n e.1 (e.2 = .m)
    else if e.2.lost then b else b.setDir e.1 n .i
  ((fl.filter (fun e => dirty e.2.1)).length + (dl.filter (fun e => dirty e.2)).length, b)

/-- Step 3: the transactions that involve sail `n` close (R206). Its own grant nothing: dirty data that came for them, or is still to come from another sail, goes
to memory, and its writes complete. An answer that it owed is I; its dirty line is LOST-DIRTY now and reads poisoned, and data that it had announced comes
poisoned. -/
def Block.closeFor (n : Nat) (b : Block) : Block :=
  let mine (t : Txn) : Bool := sailOf t.mid = some n && !t.dirEvict
  let b := b.modCoh fun c => { c with waiting := c.waiting.filterMap (fun t => if mine t then t.orphan else some t) }
  b.forL (b.coh.txns.filter (fun t => mine t || t.awaitResp.contains n || t.awaitData.contains n)) fun t b =>
    let t := if t.gotData.contains n then { t with sdata := none, spoison := false } else t
    let t := if t.awaitData.contains n then { t with sdata := some 0, spoison := true } else t
    let t := { t with awaitResp := t.awaitResp.filter (· ≠ n), awaitData := t.awaitData.filter (· ≠ n) }
    if !mine t then b.tryFinish t
    else match t.kind, t.orphan with
      | .wbDirty, none => b.dropTxn t.line
      | _, some u => b.tryFinish u
      | _, none => b.tryFinish { t with dead := true }

/-- Steps 2 to 4 of the purge; then 0x040A with the count. The sail's own lines are gone. -/
def Block.purge (n : Nat) (b : Block) : Block :=
  let (k, b) := b.cutOff n |>.saveWritebacks n |>.walkFilter n
  let b := b.modCoh (fun c => { c with l3 := c.l3.filter (fun e => e.1 % 16 ≠ n) }) |>.closeFor n
  b.forN 8 (fun h b => b.put HOM_STATUS_MARKING (ofBool (b.coh.filt.any (fun e => e.2.st.lost && b.homeOf (e.1 / 16 * 64) = h)
      || b.coh.dir.any (fun e => e.sts.any (fun x => x.2.lost) && b.homeOf (e.line * 64) = h))) h)
    |>.note { code := 0x040A, detail := k } |>.forN 8 (fun k b => b.tagsHere n k) |>.settle

/-- Step 6: poison is marked in memory for each LOST-DIRTY line of sail `n` and the entry cleared (R208). -/
def Block.markPoison (n : Nat) (b : Block) : Block :=
  let ls := ((b.coh.filt.filter (fun e => e.1 % 16 = n && e.2.st.lost)).map (·.1 / 16))
    ++ ((b.coh.dir.filter (fun e => match List.lookup n e.sts with | some st => st.lost | none => false)).map (·.line))
  let b := b.forL ls (fun l b =>
    let r := b.mcRead midGov markPart (l * 64)
    r.2.mcWrite midGov markPart (l * 64) r.1.1 true false |>.clearLost l)
  b.forN 8 (fun h b => b.put HOM_STATUS_MARKING
    (ofBool ((b.coh.filt.any (fun e => e.2.st.lost && b.homeOf (e.1 / 16 * 64) = h))
      || (b.coh.dir.any (fun e => e.sts.any (fun x => x.2.lost) && b.homeOf (e.line * 64) = h)))) h)

/-! ## Tracking mode (R198) -/

/-- Every L3 is invalid and no transaction is open. -/
def Block.cohIdle (b : Block) : Bool := b.coh.l3.isEmpty && b.coh.wb.isEmpty && b.coh.txns.isEmpty && b.coh.waiting.isEmpty

/-- A switch of the tracking mode (R198 and the tracking mode table): refused, 0x2406 with detail 1, when the conditions do not hold. -/
def Block.trackMode (filter : Bool) (b : Block) : Block :=
  if b.dev ≠ .selftest && b.dev ≠ .service then b
  else if !b.cohIdle || (filter && !b.coh.dir.isEmpty) then b.note { code := 0x2406, detail := 1 }
  else b.forN 8 (fun h b => b.put HOM_CFG_MODE (ofBool filter) h)
    |>.modCoh (fun c => { c with dir := [], filt := [], rebuild := [] }) |>.showRebuild

/-- The governor needs FILTER (R198): a DIRECTORY home is switched, where its conditions hold. -/
def Block.toFilter (b : Block) : Block := if b.filterMode then b else b.trackMode true

end Sys2Proof.Machine
end

