-- ==== Sys2Proof/Machine/HartOps.lean ====
section
/-! DEFINITION. Harts: CSRs, traps, block translation, TLBs and the page walker, PMP, protection keys (R71-R74, R110-R127), and the data
paths of loads and stores through the L3 (R83-R88). What the RISC-V specifications fix and this spec only names is taken from them. -/

namespace Sys2Proof.Machine

/-! ## Harts -/

/-- The bits of mstatus that sstatus shows: SIE, SPIE, UBE, SPP, VS, FS, XS, SUM, MXR, UXL, SD. -/
def sstatusMask : Nat := 0x80000003000DE762

/-- An integer register; x0 reads 0 and discards writes. -/
def Block.xreg (b : Block) (h r : Nat) : Nat := if r = 0 then 0 else SMap.get 0 r (b.hart h).x
def Block.setX (h r v : Nat) (b : Block) : Block :=
  if r = 0 || 32 ≤ r then b else b.modHart h fun t => { t with x := SMap.set 0 r (v % 2 ^ 64) t.x }

/-- A hart that executes: its sail is ACTIVE and clocked, it runs, and nothing has stopped it. -/
def Block.executing (b : Block) (h : Nat) : Bool :=
  let t := b.hart h
  h < 384 && h % 32 < 16 && b.active? (h / 32) && t.run && !t.fault && !t.dbg && !t.opStop && !(b.sail (h / 32)).silent && !(b.isSet SAIL_COREDIS_DIS (h / 32) && bit (b.get SAIL_COREDIS_DIS (h / 32)) (h % 32))

/-! ## Traps -/

/-- The kinds of access. -/
inductive Acc where | fetch | load | store
deriving DecidableEq, Repr

/-- A trap to take: cause, value for the tval CSR, guest physical address where one is reported, the contents of xnlcause, a PTE address
for xnladdr. -/
structure Trap where
  cause : Nat
  tval : Nat
  gpa : Nat := 0
  xc : Nat := 0
  pte : Option Nat := none
deriving DecidableEq, Repr

/-- Access-fault, page-fault and guest-page-fault causes of an access. -/
def Acc.accessFault : Acc → Nat
  | .fetch => 1 | .load => 5 | .store => 7
def Acc.pageFault : Acc → Nat
  | .fetch => 12 | .load => 13 | .store => 15
def Acc.guestFault : Acc → Nat
  | .fetch => 20 | .load => 21 | .store => 23

/-- The number of a mode in a previous-privilege field. -/
def prevOf : Priv → Nat
  | .u => 0 | .vu => 0 | .s => 1 | .vs => 1 | .m => 3

/-- A trap writes a guest virtual address to the tval CSR (GVA). -/
def Trap.gva (t : Trap) (p : Priv) : Bool :=
  isV p && [0, 1, 3, 4, 5, 6, 7, 12, 13, 15, 19, 20, 21, 23].contains t.cause

/-- A trap into M (R73, R126): its cause CSR takes the trap's xnlcause value, 0 for a trap that no translation fault caused. The trigger control steps aside. -/
def Block.trapM (h : Nat) (t : Trap) (b : Block) : Block :=
  let u := b.hart h
  let st := b.csr h csrMstatus
  let tc := b.csr h 0x7A5
  b.setCsr h csrMepc u.pc |>.setCsr h csrMcause t.cause |>.setCsr h csrMtval t.tval |>.setCsr h csrMtval2 (t.gpa / 4)
    |>.setCsr h csrMstatus (setBits (setBits (setBits (setBits (setBits st 11 12 (prevOf u.priv)) 7 7 (bits st 3 3)) 3 3 0) 39 39 (ofBool (isV u.priv)))
        38 38 (ofBool (t.gva u.priv)))
    |>.setCsr h 0x7A5 (setBits (setBits tc 7 7 (bits tc 3 3)) 3 3 0)
    |>.setCsr h csrXnlcause t.xc
    |>.modHart h (fun w => { w with priv := .m, pc := b.csr h csrMtvec / 4 * 4 })

/-- A trap into HS. -/
def Block.trapS (h : Nat) (t : Trap) (b : Block) : Block :=
  let u := b.hart h
  let st := b.csr h csrMstatus
  let hs := b.csr h csrHstatus
  b.setCsr h csrSepc u.pc |>.setCsr h csrScause t.cause |>.setCsr h csrStval t.tval |>.setCsr h csrHtval (t.gpa / 4)
    |>.setCsr h csrMstatus (setBits (setBits (setBits st 8 8 (prevOf u.priv)) 5 5 (bits st 1 1)) 1 1 0)
    |>.setCsr h csrHstatus (setBits (setBits (setBits hs 7 7 (ofBool (isV u.priv))) 8 8 (if isV u.priv then (prevOf u.priv) else bits hs 8 8))
        6 6 (ofBool (t.gva u.priv)))
    |>.setCsr h csrXnlcause t.xc
    |>.modHart h (fun w => { w with priv := .s, pc := b.csr h csrStvec / 4 * 4 })

/-- A trap into VS: vsxnlcause is its cause CSR. -/
def Block.trapVs (h : Nat) (t : Trap) (b : Block) : Block :=
  let u := b.hart h
  let vs := b.csr h csrVsstatus
  b.setCsr h csrVsepc u.pc |>.setCsr h csrVscause t.cause |>.setCsr h csrVstval t.tval
    |>.setCsr h csrVsstatus (setBits (setBits (setBits vs 8 8 (prevOf u.priv)) 5 5 (bits vs 1 1)) 1 1 0)
    |>.setCsr h csrVsxnlcause t.xc
    |>.modHart h (fun w => { w with priv := .vs, pc := b.csr h csrVstvec / 4 * 4 })

/-- Take an exception (R73, R126): the mode that takes it follows medeleg and hedeleg. -/
def Block.takeTrap (h : Nat) (t : Trap) (b : Block) : Block :=
  let p := (b.hart h).priv
  let guest := decide (20 ≤ t.cause) && decide (t.cause ≤ 23)
  let b := match t.pte with | some a => b.setCsr h csrXnladdr a | none => b
  if p = .m || !bit (b.csr h csrMedeleg) t.cause then b.trapM h t
  else if isV p && bit (b.csr h csrHedeleg) t.cause && !guest then b.trapVs h t
  else b.trapS h t

/-- A hart's I/O access is over: broadcasts that waited for it are acknowledged (R129). -/
def Block.ioRetired (h : Nat) (b : Block) : Block :=
  let l := (b.sail (h / 32)).acks.map fun a => (a.1, a.2.1, a.2.2.filter (· ≠ h))
  b.modSail (h / 32) (fun t => { t with acks := l.filter fun a => !a.2.2.isEmpty })
    |>.forL (l.filter fun a => a.2.2.isEmpty) fun a b => b.emit (.binvAck (h / 32) a.1 a.2.1)

/-! ## Physical memory attributes and protection (R17, R74) -/

/-- What an address reaches (R17). -/
inductive Region where | dram | pcie | scratch | sailCtl | hubCtl | govWin | reserved
deriving DecidableEq, Repr

/-- Decode a physical address against the map of R17; unpopulated DRAM and the upper half of a scratch window are reserved. -/
def Block.decodePa (b : Block) (pa : Nat) : Region :=
  if pa < 0x4000000000 then (if b.dramOk pa then .dram else .reserved)
  else if 0x8000000000 ≤ pa && pa < 0xC000000000 then .pcie
  else if 0xC000000000 ≤ pa && pa < 0xC00C000000 then (if pa % 0x1000000 < 0x800000 then .scratch else .reserved)
  else if 0xE000000000 ≤ pa && pa < 0xE00C000000 then .sailCtl
  else if 0xF000000000 ≤ pa && pa < 0xF010000000 then .hubCtl
  else if 0xFFF0000000 ≤ pa && pa < 0xFFF1000000 then .govWin
  else .reserved

/-- The PMP entry `i` of a hart: its configuration byte and the addresses that it covers (16 entries, granularity 4 KiB). -/
def Block.pmpCfg (b : Block) (h i : Nat) : Nat := b.csr h (0x3A0 + i / 8 * 2) / 2 ^ (8 * (i % 8)) % 256
def Block.pmpRange (b : Block) (h i : Nat) : Nat × Nat :=
  let a := b.csr h (0x3B0 + i)
  match bits (b.pmpCfg h i) 3 4 with
  | 1 => ((if i = 0 then 0 else b.csr h (0x3B0 + i - 1) / 1024 * 4096), a / 1024 * 4096)
  | 3 =>
    let low := Nat.lor a 511
    let ones := ((List.range 55).takeWhile (fun k => bit low k)).length
    (low / 2 ^ (ones + 1) * 2 ^ (ones + 1) * 4, low / 2 ^ (ones + 1) * 2 ^ (ones + 1) * 4 + 2 ^ (ones + 3))
  | _ => (0, 0)

/-- May a hart in mode `m` make this access at a physical address under its PMP? -/
def Block.pmpOk (b : Block) (h : Nat) (pm : Priv) (acc : Acc) (pa : Nat) : Bool :=
  match (List.range 16).find? (fun i => (b.pmpRange h i).1 ≤ pa && pa < (b.pmpRange h i).2) with
  | none => pm = .m
  | some i =>
    let c := b.pmpCfg h i
    (pm = .m && !bit c 7) || bit c (match acc with | .load => 0 | .store => 1 | .fetch => 2)

/-! ## Block translation (R110-R117) -/

/-- The stages of translation. -/
inductive Stage where | s | vs | g
deriving DecidableEq, Repr

def Stage.code : Stage → Nat
  | .s => 0 | .vs => 1 | .g => 2

/-- Block register `k` of a hart: base, limit, phys, attr. -/
def Block.blk (b : Block) (h k j : Nat) : Nat := b.csr h (0x5C0 + 4 * k + j)

/-- The conditions of R112 on the four CSRs of a block. -/
def blkEffective (base limit phys attr : Nat) : Bool :=
  let st := bits attr 12 13
  let pages := limit / 4096 - base / 4096
  bit attr 0 && st ≠ 3 && bits attr 5 6 ≠ 3 && (!bit attr 2 || bit attr 1) && base / 4096 ≤ limit / 4096
    && bits phys 12 49 + pages < (if st = 1 then 2 ^ 38 else 2 ^ 36)
    && (!bit attr 14 || (st = 2 && limit / 4096 = base / 4096 && 1 ≤ bits phys 12 14))

/-- The effective block of a stage that matches an address, the lowest first (R113); the bits of a base above the stage's address width count. -/
def Block.blkMatch (b : Block) (h : Nat) (st : Stage) (a : Nat) : Option Nat :=
  (List.range 16).find? fun k =>
    bits (b.blk h k 3) 12 13 = st.code && blkEffective (b.blk h k 0) (b.blk h k 1) (b.blk h k 2) (b.blk h k 3)
      && b.blk h k 0 / 4096 ≤ a / 4096 && a / 4096 ≤ b.blk h k 1 / 4096

/-- The output address of block `k` for an address; an IFILE block gives the hart's own guest interrupt file (R113, R76). -/
def Block.blkOut (b : Block) (h k a : Nat) : Nat :=
  if bit (b.blk h k 3) 14 then
    sailCtl + h / 32 * sailStride + 0xC00000 + h % 32 * 0x8000 + bits (b.blk h k 2) 12 14 * 0x1000 + a % 4096
  else (bits (b.blk h k 2) 12 49 + (a / 4096 - b.blk h k 0 / 4096)) * 4096 + a % 4096

/-- The leaf of a translation stage: output address, rights (bit 0 R, 1 W, 2 X, 3 U), PBMT, key, and the span of pages (for the TLB; 0 from
a block, which no TLB holds), G and D. -/
structure Leaf where
  out : Nat
  rights : Nat
  pbmt : Nat := 0
  key : Nat := 0
  pages : Nat := 0
  glob : Bool := false
  d : Bool := true
deriving DecidableEq, Repr

/-- The leaf that a block stands for (R111): rights as a leaf PTE. -/
def Block.blkLeaf (b : Block) (h k a : Nat) : Leaf :=
  let at' := b.blk h k 3
  { out := b.blkOut h k a, rights := bits at' 1 4, pbmt := if bit at' 14 then 2 else bits at' 5 6, key := bits at' 8 11 }

/-! ## The walker (R119, R120) -/

/-- Result of a step of translation. -/
inductive Tr (α : Type) where
  | ok (v : α)
  | trap (t : Trap)
deriving DecidableEq, Repr

/-- Read a PTE for a hart: the checks of R119, then the read; poison ends the walk (R120). `orig` is the access that walks. -/
def Block.pteRead (h : Nat) (orig : Acc) (va pa : Nat) (b : Block) : Tr Nat × Block :=
  if b.decodePa pa ≠ .dram then (.trap { cause := orig.accessFault, tval := va, xc := 0x20 }, b)
  else if !b.pmpOk h .s .load pa then (.trap { cause := orig.accessFault, tval := va }, b)
  else
    let (v, b) := b.readNat h (b.partNo h) pa 8
    if v.2 then (.trap { cause := 19, tval := va, xc := 0x40, pte := some pa }, b.note { code := 0x220D, mid := some h, addr := some pa })
    else (.ok v.1, b)

/-- Is a PTE's form valid: V, no W without R, reserved bits 0 (keys where enabled), and a leaf of allowed alignment? -/
def pteBad (pte lvl : Nat) (keys : Bool) : Bool :=
  let leaf := bit pte 1 || bit pte 3
  let n := bit pte 63
  !bit pte 0 || (bit pte 2 && !bit pte 1) || bits pte 54 55 ≠ 0 || bit pte 60 || (!keys && bits pte 56 59 ≠ 0)
    || bits pte 61 62 = 3
    || (if leaf then
          (if n then lvl ≠ 0 || bits pte 10 13 ≠ 8 else bits pte 10 (9 + 9 * lvl) ≠ 0 && lvl ≠ 0)
        else lvl = 0 || n || bits pte 61 62 ≠ 0 || bit pte 4 || bit pte 6 || bit pte 7 || bits pte 56 59 ≠ 0)

/-- The leaf that a leaf PTE at a level gives for an address. -/
def pteLeaf (pte lvl a : Nat) (keys : Bool) : Leaf :=
  let ppn := bits pte 10 53
  let pages := if bit pte 63 then 16 else 512 ^ lvl
  { out := (ppn / pages * pages + a / 4096 % pages) * 4096 + a % 4096
    rights := bits pte 1 4, pbmt := bits pte 61 62, key := if keys then bits pte 56 59 else 0, pages := pages, glob := bit pte 5
    d := bit pte 7 }

/-! ## Paging-structure caches (R118) -/

/-- Add a non-leaf PTE to a list of at most `n`; a full one loses an entry, by a choice that the spec leaves open. -/
def pscPut (n v : Nat) (e : PscEnt) (l : List PscEnt) : List PscEnt :=
  let l := l.filter fun x => x ≠ e
  (if l.length < n then l else l.eraseIdx (v % n)) ++ [e]

def Block.pscAdd (h : Nat) (e : PscEnt) (b : Block) : Block :=
  (b.modHart h fun t => { t with psc := pscPut 64 (Config.victim b.free 64) e t.psc }).tickFree
def Block.gpscAdd (h : Nat) (e : PscEnt) (b : Block) : Block :=
  (b.modHart h fun t => { t with gpsc := pscPut 32 (Config.victim b.free 32) e t.gpsc }).tickFree

/-- The entry of a list that shortens a walk of an address the most: where the walk goes on, as the number of levels left and the table. -/
def pscFind (l : List PscEnt) (f : PscEnt → Bool) (a : Nat) : Option (Nat × Nat) :=
  ([1, 2, 3].findSome? fun k => l.find? fun e => f e && e.lvl = k && e.tag = a / 4096 / 512 ^ k).map fun e => (e.lvl, e.base)

/-! ## Walks (R119, R120) -/

/-- Walk stage G from a level down: a guest physical address to a leaf. -/
def Block.walkG (h : Nat) (orig : Acc) (va gpa vmid : Nat) : Nat → Nat → Bool → Block → Tr Leaf × Block
  | 0, _, _, b => (.trap { cause := orig.guestFault, tval := va, gpa := gpa }, b)
  | lvl + 1, base, top, b =>
    let width := if top then 11 else 9
    let idx := gpa / 4096 / 512 ^ lvl % 2 ^ width
    match b.pteRead h orig va (base + 8 * idx) with
    | (.trap t, b) => (.trap t, b)
    | (.ok pte, b) =>
      if pteBad pte lvl false then (.trap { cause := orig.guestFault, tval := va, gpa := gpa }, b)
      else if bit pte 1 || bit pte 3 then
        if !bit pte 6 || (orig = .store && !bit pte 7) then (.trap { cause := orig.guestFault, tval := va, gpa := gpa }, b)
        else (.ok (pteLeaf pte lvl gpa false), b)
      else
        let next := bits pte 10 53 * 4096
        Block.walkG h orig va gpa vmid lvl next false
          (b.gpscAdd h { v := true, s2 := true, vmid := vmid, lvl := lvl, tag := gpa / 4096 / 512 ^ lvl, base := next })

/-- The rights of a stage-G leaf: U must be set, and the access allowed, under sstatus.MXR (R111); an implicit access of a stage-VS walk reads. -/
def gAllows (l : Leaf) (acc : Acc) (mxr : Bool) : Bool :=
  bit l.rights 3 && (match acc with
    | .load => bit l.rights 0 || (mxr && bit l.rights 2)
    | .store => bit l.rights 1
    | .fetch => bit l.rights 2)

/-- What the translation of one access depends on (R110, R111, R118): V, the stages that it passes, the modes and roots of the first and of
stage G, ASID and VMID, U privilege, SUM, MXR of the first stage and of stage G, and whether keys are enabled. -/
structure XCtx where
  v : Bool := false
  s1 : Bool := false
  s2 : Bool := false
  mode : Nat := 0
  root : Nat := 0
  gmode : Nat := 0
  groot : Nat := 0
  asid : Nat := 0
  vmid : Nat := 0
  user : Bool := false
  sum : Bool := false
  mxr : Bool := false
  gmxr : Bool := false
  keys : Bool := false
deriving DecidableEq, Repr

/-- A translation mode with tables: Sv39 and Sv48, Sv39x4 and Sv48x4. -/
def tableMode (m : Nat) : Bool := m = 8 || m = 9

/-- The context of a hart's accesses in a mode. -/
def Block.xctx (b : Block) (h : Nat) (em : Priv) : XCtx :=
  let v := isV em
  let satp := b.csr h (if v then csrVsatp else csrSatp)
  let hgatp := b.csr h csrHgatp
  let st := b.csr h (if v then csrVsstatus else csrMstatus)
  let hs := bit (b.csr h csrMstatus) 19
  let s2 := v && tableMode (bits hgatp 60 63)
  { v := v, s1 := tableMode (bits satp 60 63), s2 := s2, mode := bits satp 60 63, root := bits satp 0 43 * 4096
    gmode := bits hgatp 60 63, groot := bits hgatp 0 43 * 4096, asid := bits satp 44 59, vmid := if s2 then bits hgatp 44 57 else 0
    user := decide (em = .u) || decide (em = .vu), sum := bit st 18, mxr := bit st 19 || (v && hs), gmxr := hs
    keys := bit (b.csr h csrXnlctl) (if v then 5 else 4) }

/-! ## TLBs (R118) -/

/-- Does an entry serve a page for an access in a context? A store needs the D bits of its leaves, and an entry with a key needs keys enabled:
otherwise the walker looks again (R122, R131). -/
def TlbEnt.serves (e : TlbEnt) (x : XCtx) (acc : Acc) (va : Nat) : Bool :=
  e.v = x.v && e.s1 = x.s1 && e.s2 = x.s2 && (!e.s1 || e.glob || e.asid = x.asid) && (!e.s2 || e.vmid = x.vmid)
    && e.vpn ≤ va / 4096 && va / 4096 < e.vpn + e.size && (x.keys || e.key = 0) && (acc ≠ .store || (e.d && e.gd))

/-- The same page under the same tags: a new entry takes the old one's place. -/
def TlbEnt.shadows (n o : TlbEnt) : Bool :=
  o.v = n.v && o.s1 = n.s1 && o.s2 = n.s2 && o.asid = n.asid && o.vmid = n.vmid && o.vpn < n.vpn + n.size && n.vpn < o.vpn + o.size

/-- Add an entry to a TLB of at most `cap` entries in its set; `set`: the entries of the same set. A full set loses one, by a choice that the spec leaves open. -/
def tlbPut (cap v : Nat) (set : TlbEnt → Bool) (e : TlbEnt) (l : List TlbEnt) : List TlbEnt :=
  let l := l.filter fun o => !e.shadows o
  let s := l.filter set
  (if s.length < cap then l else match s[v % cap]? with | some o => listErase o l | none => l) ++ [e]

/-- The set of an entry in the L2 TLB: 256 sets of 12 ways. -/
def TlbEnt.set (e : TlbEnt) : Nat := e.vpn / e.size % 256

/-- An entry enters the L1 TLB of an access (48 entries for fetches, 64 for data). -/
def Block.tlbAdd1 (h : Nat) (acc : Acc) (e : TlbEnt) (b : Block) : Block :=
  (b.modHart h fun t =>
    if acc = .fetch then { t with itlb := tlbPut 48 (Config.victim b.free 48) (fun _ => true) e t.itlb }
    else { t with dtlb := tlbPut 64 (Config.victim b.free 64) (fun _ => true) e t.dtlb }).tickFree

/-- A translation enters the L2 TLB and the L1 TLB of its access. -/
def Block.tlbAdd (h : Nat) (acc : Acc) (e : TlbEnt) (b : Block) : Block :=
  (b.modHart h fun t => { t with tlb := tlbPut 12 (Config.victim b.free 12) (fun o => o.set = e.set) e t.tlb }).tickFree.tlbAdd1 h acc e

/-- Look an address up in the L1 TLB of the access, then in the L2 TLB; a miss of both is counted (R107). -/
def Block.tlbLook (h : Nat) (x : XCtx) (acc : Acc) (va : Nat) (b : Block) : Option TlbEnt × Block :=
  let t := b.hart h
  match (if acc = .fetch then t.itlb else t.dtlb).find? (fun e => e.serves x acc va) with
  | some e => (some e, b)
  | none =>
    match t.tlb.find? (fun e => e.serves x acc va) with
    | some e => (some e, b.tlbAdd1 h acc e)
    | none => (none, b.hpm h 0x84 1)

/-- The first-stage leaf and the stage-G leaf that an entry holds for an address. -/
def TlbEnt.leaf1 (e : TlbEnt) (va : Nat) : Leaf :=
  { out := (e.gpn + (va / 4096 - e.vpn)) * 4096 + va % 4096, rights := e.rights, pbmt := e.pbmt, key := e.key, d := e.d }
def TlbEnt.leaf2 (e : TlbEnt) (va : Nat) : Leaf :=
  { out := (e.ppn + (va / 4096 - e.vpn)) * 4096 + va % 4096, rights := e.grights, pbmt := e.gpbmt, d := e.gd }

/-- The entry that a translation leaves: the span of the smaller leaf, at most 1 GiB (R118). -/
def XCtx.entry (x : XCtx) (va : Nat) (l g : Leaf) : TlbEnt :=
  let n := min (min (if x.s1 then l.pages else g.pages) (if x.s2 then g.pages else l.pages)) (512 * 512)
  let o := va / 4096 % n
  { v := x.v, s1 := x.s1, s2 := x.s2, asid := x.asid, vmid := x.vmid, glob := l.glob, vpn := va / 4096 - o, size := n
    ppn := g.out / 4096 - o, gpn := l.out / 4096 - o, rights := l.rights, grights := g.rights, d := l.d, gd := g.d
    pbmt := l.pbmt, gpbmt := g.pbmt, key := l.key }

/-- Stage G for a guest physical address (R110): a block, NOWALKG, the leaf that a combined TLB entry holds (`known`), a TLB entry of stage G alone, or a
walk. `acc` is the access that the stage checks; `orig` the access whose fault is reported; `own`: the first stage is absent or a block, so the
TLBs keep stage G alone. -/
def Block.stageG (h : Nat) (x : XCtx) (orig acc : Acc) (va gpa : Nat) (known : Option Leaf) (own : Bool) (b : Block) : Tr Leaf × Block :=
  if !x.s2 then (.ok { out := gpa, rights := 15 }, b)
  else
    let bad : Trap := { cause := orig.guestFault, tval := va, gpa := gpa }
    let chk (l : Leaf) (b : Block) : Tr Leaf × Block := if gAllows l acc x.gmxr then (.ok l, b) else (.trap bad, b)
    if 2 ^ (if x.gmode = 8 then 41 else 50) ≤ gpa then (.trap bad, b)
    else match b.blkMatch h .g gpa with
      | some k => chk (b.blkLeaf h k gpa) b
      | none =>
        if bit (b.csr h csrXnlctl) 2 then (.trap { bad with xc := 0x80 }, b)
        else match known with
          | some l => chk l b
          | none =>
            let y := { x with s1 := false, keys := true }
            match (if own then b.tlbLook h y acc gpa else (none, b)) with
            | (some e, b) => chk (e.leaf2 gpa) b
            | (none, b) =>
              let f (e : PscEnt) : Bool := e.vmid = x.vmid
              let top : Nat := if x.gmode = 8 then 3 else 4
              let w := match pscFind (b.hart h).gpsc f gpa with
                | some (n, t) => b.walkG h orig va gpa x.vmid n t false
                | none => b.walkG h orig va gpa x.vmid top x.groot true
              match w with
              | (.trap t, b) => (.trap t, b)
              | (.ok l, b) => chk l (b.when own (Block.tlbAdd h acc (y.entry gpa { out := gpa, rights := 15 } l)))

/-- Walk stage S or VS from a level down. In stage VS every PTE address is itself translated through stage G. `gl`: a PTE above has set G. -/
def Block.walkS (h : Nat) (x : XCtx) (acc : Acc) (va : Nat) : Nat → Nat → Bool → Block → Tr Leaf × Block
  | 0, _, _, b => (.trap { cause := acc.pageFault, tval := va }, b)
  | lvl + 1, base, gl, b =>
    match b.stageG h { x with gmxr := false } acc .load va (base + 8 * (va / 4096 / 512 ^ lvl % 512)) none false with
    | (.trap t, b) => (.trap t, b)
    | (.ok l, b) =>
      match b.pteRead h acc va l.out with
      | (.trap t, b) => (.trap t, b)
      | (.ok pte, b) =>
        if pteBad pte lvl x.keys then (.trap { cause := acc.pageFault, tval := va }, b)
        else if bit pte 1 || bit pte 3 then
          if !bit pte 6 || (acc = .store && !bit pte 7) then (.trap { cause := acc.pageFault, tval := va }, b)
          else (.ok { pteLeaf pte lvl va x.keys with glob := gl || bit pte 5 }, b)
        else
          let next := bits pte 10 53 * 4096
          Block.walkS h x acc va lvl next (gl || bit pte 5) (b.pscAdd h
            { v := x.v, s2 := x.s2, asid := x.asid, vmid := x.vmid, glob := gl || bit pte 5, lvl := lvl, tag := va / 4096 / 512 ^ lvl, base := next })

/-- Walk stage S or VS, from the paging-structure cache where it holds a part of the way. -/
def Block.walk1 (h : Nat) (x : XCtx) (acc : Acc) (va : Nat) (b : Block) : Tr Leaf × Block :=
  let f (e : PscEnt) : Bool := e.v = x.v && e.s2 = x.s2 && e.vmid = x.vmid && (e.glob || e.asid = x.asid)
  match pscFind (b.hart h).psc f va with
  | some (n, t) => b.walkS h x acc va n t false
  | none => b.walkS h x acc va (if x.mode = 8 then 3 else 4) x.root false

/-- The rights of a stage-S or stage-VS leaf for an access in privilege `user` (U or VU) or supervisor, with SUM and MXR. -/
def sAllows (l : Leaf) (acc : Acc) (user sum mxr : Bool) : Bool :=
  (match acc with
    | .load => bit l.rights 0 || (mxr && bit l.rights 2)
    | .store => bit l.rights 1
    | .fetch => bit l.rights 2)
  && (if bit l.rights 3 then user || (sum && acc ≠ .fetch) else !user)

/-- The key check of R124 on a leaf with U = 1. Fetches have none. -/
def Block.keyBad (b : Block) (h : Nat) (l : Leaf) (acc : Acc) : Bool :=
  bit l.rights 3 && acc ≠ .fetch &&
    (bit (b.csr h csrPkr) (2 * l.key) || (acc = .store && bit (b.csr h csrPkr) (2 * l.key + 1)))

/-- Canonical form of a virtual address in a satp mode. -/
def canonical (mode va : Nat) : Bool :=
  let top := if mode = 8 then 38 else 47
  bits va top 63 = 0 || bits va top 63 = 2 ^ (64 - top) - 1

/-- The effective mode of a data access: MPRV in M mode; HLV and HSV run as V with SPVP. -/
def Block.effMode (b : Block) (h : Nat) (acc : Acc) (hv : Bool) : Priv :=
  let p := (b.hart h).priv
  let st := b.csr h csrMstatus
  if acc = .fetch then p
  else if hv then (if bit (b.csr h csrHstatus) 8 then .vs else .vu)
  else if p = .m && bit st 17 then
    (match bits st 11 12, bit st 39 with
      | 3, _ => .m | 1, true => .vs | 1, false => .s | _, true => .vu | _, false => .u)
  else p

/-- The last checks of an access: its width of address and the PMP. -/
def Block.physCheck (b : Block) (h : Nat) (em : Priv) (acc : Acc) (va pa pbmt : Nat) : Tr (Nat × Nat) :=
  if 2 ^ 48 ≤ pa || !b.pmpOk h em acc pa then .trap { cause := acc.accessFault, tval := va } else .ok (pa, pbmt)

/-- The first-stage leaf is known: its rights, stage G, the key, then the physical checks (R125); `fill`: the TLBs take the translation. -/
def Block.leafDone (h : Nat) (em : Priv) (x : XCtx) (acc : Acc) (va : Nat) (l : Leaf) (known : Option Leaf) (fill : Bool) (b : Block) :
    Tr (Nat × Nat) × Block :=
  if x.s1 && !sAllows l acc x.user x.sum x.mxr then (.trap { cause := acc.pageFault, tval := va }, b)
  else match b.stageG h x acc acc va l.out known (!fill && known.isNone) with
    | (.trap t, b) => (.trap t, b)
    | (.ok g, b) =>
      let b := b.when (fill && (!x.s2 || g.pages ≠ 0)) (Block.tlbAdd h acc (x.entry va l g))
      if x.s1 && x.keys && b.keyBad h l acc then (.trap { cause := acc.pageFault, tval := va, xc := 1 + 2 * l.key }, b)
      else (b.physCheck h em acc va g.out (if l.pbmt = 0 then g.pbmt else l.pbmt), b)

/-- Translate a virtual address for an access (R110-R125): physical address, PBMT, or the trap. -/
def Block.translate (h : Nat) (acc : Acc) (hv : Bool) (va : Nat) (b : Block) : Tr (Nat × Nat) × Block :=
  let em := b.effMode h acc hv
  if em = .m then (b.physCheck h em acc va va 0, b)
  else
    let x := b.xctx h em
    if !x.s1 then b.leafDone h em x acc va { out := va, rights := 15 } none false
    else if !canonical x.mode va then (.trap { cause := acc.pageFault, tval := va }, b)
    else match b.blkMatch h (if x.v then .vs else .s) va with
      | some k => b.leafDone h em x acc va (b.blkLeaf h k va) none false
      | none =>
        if bit (b.csr h csrXnlctl) (if x.v then 1 else 0) then (.trap { cause := acc.pageFault, tval := va, xc := 0x80 }, b)
        else match b.tlbLook h x acc va with
          | (some e, b) => b.leafDone h em x acc va (e.leaf1 va) (some (e.leaf2 va)) false
          | (none, b) =>
            match b.walk1 h x acc va with
            | (.trap t, b) => (.trap t, b)
            | (.ok l, b) => b.leafDone h em x acc va l none true

/-- The TLB entry that a data access which has been translated used, if any. -/
def Block.tlbUsed (b : Block) (h : Nat) (acc : Acc) (hv : Bool) (va : Nat) : Option TlbEnt :=
  let em := b.effMode h acc hv
  let x := b.xctx h em
  let y := { x with keys := true }
  let find (x : XCtx) (a : Nat) : Option TlbEnt := (b.hart h).dtlb.find? fun e => e.serves x acc a
  if em = .m then none
  else if !x.s1 then find y va
  else match b.blkMatch h (if x.v then .vs else .s) va with
    | some k => if x.s2 then find { y with s1 := false } (b.blkOut h k va) else none
    | none => find y va

/-- An uncorrectable error in a hart's TLBs or paging-structure caches: what they hold for an address goes, and the next access walks (R121). -/
def Block.tlbLose (h va : Nat) (b : Block) : Block :=
  let f (e : TlbEnt) : Bool := !(decide (e.vpn ≤ va / 4096) && decide (va / 4096 < e.vpn + e.size))
  let g (e : PscEnt) : Bool := e.tag ≠ va / 4096 / 512 ^ e.lvl
  b.modHart h fun t => { t with itlb := t.itlb.filter f, dtlb := t.dtlb.filter f, tlb := t.tlb.filter f, psc := t.psc.filter g, gpsc := t.gpsc.filter g }

/-! ## L3 allocation (R83-R88) -/

/-- The choice of R84 for a fill of core `c`: the way, and whether it spills out of the mask (R88). The victim of rule 3 among candidates is
the replacement policy's, which the spec leaves open. -/
def Block.chooseWay (n c line : Nat) (b : Block) : Option (Nat × Bool) × Block :=
  let slice := lineSlice line
  let mask := b.get L3_WAYMASK_MASK n c
  let lock := b.get L3_WAYLOCK_LOCK n
  let pending (w : Nat) : Bool := b.wayPending n line w
  let noted (w : Nat) : Bool := match b.l3InWay n line w with | some l => (b.l3At n l).noteOpen | none => false
  let free (w : Nat) : Bool := (b.l3InWay n line w).isNone && !pending w
  let en (w : Nat) : Bool := b.wayEnabled n slice w
  let ways := List.range 16
  match ways.find? (fun w => en w && bit mask w && bit lock w && bit (b.get L3_LOCKOWN_OWNER n w) c && free w) with
  | some w => (some (w, false), b)
  | none =>
    match ways.find? (fun w => en w && bit mask w && !bit lock w && free w) with
    | some w => (some (w, false), b)
    | none =>
      let cand := ways.filter (fun w => en w && bit mask w && !bit lock w)
      let able := cand.filter (fun w => !pending w && !noted w)
      if cand.isEmpty then
        (match ways.find? (fun w => en w && !bit lock w && !pending w && !noted w) with
          | some w => (some (w, true), b)
          | none => (none, b))
      else if able.isEmpty then (none, b)
      else (some (able.getD (Config.victim b.free able.length % able.length) 0, false), b.tickFree)

/-- The L3 has `k` of its 4,096 transaction IDs free (R178). -/
def Block.idsLeft (b : Block) (n k : Nat) : Bool := (b.coh.reqs.filter (fun r => r.mid = midL3 n)).length + k ≤ 4096

/-- An L3 miss of a hart: pick the way, evict its line, and issue the request (R84, R179, R180). A spill is counted and logged (R88). -/
def Block.miss (h line : Nat) (unique fetch : Bool) (b : Block) : Block :=
  let n := h / 32
  let part := b.partNo h
  if b.l3Busy n line || b.wbFull n line || !b.idsLeft n 2 then b
  else
    let (w, b) := b.chooseWay n (h % 32) line
    match w with
    | none => b
    | some (w, spill) =>
      let b := b.pmu n 0x02 (some part) 1
      let b := if spill then b.put SAIL_ERRSTAT_SPILL 1 n |>.pmu n 0x09 (some part) 1 |>.noteOnce n { code := 0x020A } else b
      let b := match b.l3InWay n line w with
        | some old => b.evictLine n old part false
        | none => b
      b.issueFor (some (h, fetch)) (if unique then .rdUnique else .rdShared) (midL3 n) part line w false false

/-- A store finds its line in the L3: M takes it; E turns to M with the DirtyNote (R178); S and O ask for the Upgrade; a miss for RdUnique. True: the line
is in M now, and the core's caches hold it dirty. -/
def Block.own (h line : Nat) (b : Block) : Bool × Block :=
  let n := h / 32
  let part := b.partNo h
  let e := b.l3At n line
  match e.st with
  | .m => (true, b.privUse h line false true)
  | .e =>
    if b.idsLeft n 1 then
      (true, (b.setL3 n line { e with st := .m, noteOpen := true }).issue .dirtyNote (midL3 n) part line 0 false false |>.privUse h line false true)
    else (false, b)
  | .s | .o => (false, if b.l3Busy n line then b else b.issueFor (some (h, false)) .upgrade (midL3 n) part line e.way false false)
  | .i => (false, (b.when (!b.l3Busy n line) (Block.privMisses h line false)).miss h line true false)

/-- Store bytes into a line that the L3 holds in M: a whole line clears poison, a part leaves it (R73). Other harts' reservations on the line are lost. -/
def Block.storeL3 (h line off : Nat) (v : Bytes) (b : Block) : Block :=
  let n := h / 32
  let e := b.l3At n line
  let mask := (2 ^ v.length - 1) * 2 ^ off
  let b := b.mapHarts (fun k t => if k ≠ h && k / 32 = n && t.resv = some line then { t with resv := none } else t)
  b.setL3 n line { e with data := mergeBytes e.data (leNat v * 2 ^ (8 * off)) mask, poison := e.poison && v.length ≠ 64 }

/-- The bytes of an L3 line. -/
def L3Line.bytes (e : L3Line) (off n : Nat) : Bytes := ((leBytes 64 e.data).drop off).take n

/-- The pieces of an access that each lie in one line: address and length. -/
def pieces (va n : Nat) : List (Nat × Nat) :=
  let k := 64 - va % 64
  if n ≤ k then [(va, n)] else [(va, k), (va + k, n - k)]

/-- Sign extension of a loaded value of `w` bytes to 64 bits. -/
def sext (w v : Nat) : Nat := if w < 8 && bit v (8 * w - 1) then v + (2 ^ 64 - 2 ^ (8 * w)) else v

end Sys2Proof.Machine
end

