-- ==== Sys2Proof/Machine/MstOps.lean ====
section
/-! DEFINITION. Millstones: scratch (R142, R143), bindings and queues (R150-R154), command checks (R144, R156, R168), the arithmetic of a
block (R145-R149), squashes (R165, R166). -/

namespace Sys2Proof.Machine

/-! ## Millstone state -/

def Block.mst (b : Block) (n : Nat) : Mst := SMap.get {} n b.msts
def Block.modMst (n : Nat) (f : Mst → Mst) (b : Block) : Block := { b with msts := SMap.upd {} n f b.msts }

/-- Queue `j` of binding `i`. -/
def Block.mq (b : Block) (n i j : Nat) : MstQ := SMap.get {} (2 * i + j) (b.mst n).qs
def Block.modMq (n i j : Nat) (f : MstQ → MstQ) (b : Block) : Block :=
  b.modMst n fun m => { m with qs := SMap.upd {} (2 * i + j) f m.qs }

/-- The enabled binding of a partition on a millstone (R151). -/
def Block.bindOf (b : Block) (n p : Nat) : Option Nat :=
  (List.range 16).find? fun i => b.isSet MST_BCFG_EN n i && b.get MST_BCFG_PART n i = p

/-- QSIZE of a queue. -/
def Block.qsize (b : Block) (n i j : Nat) : Nat := if j = 0 then b.get MST_BCFG_QSIZE0 n i else b.get MST_BCFG_QSIZE1 n i

/-- BUSY: a command runs. -/
def Block.mstBusy (n : Nat) (b : Block) : Block := b.put MST_STATUS_BUSY (ofBool (!(b.mst n).runs.isEmpty)) n

/-! ## Scratch -/

/-- The base of scratch windows. -/
def scratchBase : Nat := 0xC000000000

/-- The scratch byte key of a physical address inside a scratch window's lower half. -/
def scrKey (pa : Nat) : Nat := (pa - scratchBase) / 0x1000000 * 0x800000 + (pa - scratchBase) % 0x1000000

/-- Read scratch bytes: bytes, poisoned by the poison bit, uncorrectable. -/
def Block.scrRead (b : Block) (pa n : Nat) : Bytes × Bool × Bool :=
  let k := scrKey pa
  let lines := (List.range ((k % 64 + n + 63) / 64)).map (· + k / 64)
  (SMap.getRun 0 k n b.scr.bytes, lines.any (fun l => SMap.get false l b.scr.poison), lines.any (fun l => SMap.get false l b.scr.bad))

/-- Write scratch bytes (R142): POISON sets the line's bit; a whole line without POISON clears it and the error; a part leaves it. -/
def Block.scrWrite (pa : Nat) (v : Bytes) (poison : Bool) (b : Block) : Block :=
  let k := scrKey pa
  let lines := (List.range ((k % 64 + v.length + 63) / 64)).map (· + k / 64)
  let whole (l : Nat) : Bool := decide (k ≤ 64 * l) && decide (64 * l + 64 ≤ k + v.length)
  { b with scr := { b.scr with
      bytes := SMap.setRun 0 k v b.scr.bytes
      poison := lines.foldl (fun m l => if poison then SMap.set false l true m else if whole l then SMap.set false l false m else m) b.scr.poison
      bad := lines.foldl (fun m l => if whole l then SMap.set false l false m else m) b.scr.bad } }

/-- A sail reset or readmission: scratch reads zero, no poison (R142, R143). -/
def Block.scrClear (n : Nat) (b : Block) : Block :=
  { b with scr := { bytes := b.scr.bytes.filter (fun c => c.1 / 0x800000 ≠ n)
                    poison := b.scr.poison.filter (fun c => c.1 / 0x20000 ≠ n)
                    bad := b.scr.bad.filter (fun c => c.1 / 0x20000 ≠ n) } }

/-! ## Work under reservation -/

/-- Partition `p` is inside its window of R162: from the START of its ENTER slot to its mark. -/
def Block.inWindow (b : Block) (p : Nat) : Bool :=
  (b.enterSlot p).isSome && (b.markSlot p).isSome && b.startNs p ≤ b.nowNs && b.nowNs < b.markNs p

/-- Binding `i` has budget left. -/
def Block.budgetLeft (b : Block) (n i : Nat) : Bool := b.get MST_BUSED_USED n i < b.get MST_BBUDGET_BUDGET n i * 1024

/-- A command of partition `p` runs under reservation: rule 1 of R162 holds for its binding. -/
def Block.underReserve (b : Block) (n p : Nat) : Bool :=
  b.inWindow p && (match b.bindOf n p with | some i => b.budgetLeft n i | none => false)

/-- The lines of DRAM that a millstone's access touches. A request under reservation travels as TC3 while a slot of its partition is open, and takes its
tokens at the controllers; any other is TC1 (R160, R264). -/
def Block.mstCharge (n p pa len : Nat) (write : Bool) (b : Block) : Block :=
  if !b.underReserve n p then b
  else b.forN ((pa % 64 + len + 63) / 64) fun i b => b.takeTokens p ((pa / 64 + i) * 64) write

/-- A millstone's read of memory or of its scratch: bytes, error code 0, 7 (poison) or 8 (uncorrectable scratch). -/
def Block.mstRead (n p pa len : Nat) (b : Block) : (Bytes × Nat) × Block :=
  if scratchBase ≤ pa then
    let (v, ps, bd) := b.scrRead pa len
    ((v, if bd then 8 else if ps then 7 else 0), b)
  else
    let (r, b) := (b.mstCharge n p pa len false).readBytes (midMst n) p pa len
    ((r.1, if r.2 then 7 else 0), b)

/-- A millstone's write of a run of bytes; poison marks the lines that it writes. -/
def Block.mstWrite (n p pa : Nat) (v : Bytes) (poison : Bool) (b : Block) : Block :=
  if scratchBase ≤ pa then b.scrWrite pa v poison
  else (b.mstCharge n p pa v.length true).writeBytesF (midMst n) p poison (v.length / 64 + 2) pa v

/-! ## Commands: fields and checks -/

/-- Word `i` of a command. -/
def wd (ws : List Nat) (i : Nat) : Nat := ws.getD i 0

/-- Opcode of a command. -/
def mstOp (ws : List Nat) : Nat := bits (wd ws 0) 0 7

/-- Element size of a data type, in bits. -/
def elemBits (ty : Nat) : Nat := match ty with | 0 => 4 | 1 => 8 | 2 => 8 | 3 => 8 | 4 => 16 | 5 => 16 | _ => 32

/-- Elements of a K-step (R141). -/
def kStep (ty : Nat) : Nat := match ty with | 0 => 64 | 1 => 32 | 2 => 32 | 3 => 32 | _ => 16

/-- Bytes of `n` elements; an odd int4 row ends in a half byte. -/
def elemBytes (ty n : Nat) : Nat := (n * elemBits ty + 7) / 8

/-- Round up to a multiple. -/
def roundUp (n k : Nat) : Nat := (n + k - 1) / k * k

/-- The type codes of a GEMM or CONV. -/
def iType (ws : List Nat) : Nat := if mstOp ws = 1 then bits (wd ws 4) 48 51 else bits (wd ws 4) 50 53
def oType (ws : List Nat) : Nat := if mstOp ws = 1 then bits (wd ws 4) 52 55 else bits (wd ws 4) 54 57

/-- Valid type combinations (R144). -/
def typesOk (i o : Nat) : Bool :=
  if i ≤ 1 then o = 0 || o = 1 || o = 6 else i ≤ 5 && ((2 ≤ o && o ≤ 5) || o = 7)

/-- The geometry of a CONV (R149). -/
structure ConvGeo where
  w : Nat
  h : Nat
  cin : Nat
  cout : Nat
  kw : Nat
  kh : Nat
  sw : Nat
  sh : Nat
  padL : Nat
  padT : Nat
  dil : Nat
  ow : Int
  oh : Int
  ps : Nat
  rs : Nat
  fs : Nat
  ops : Nat
  ors : Nat
  cin' : Nat
deriving DecidableEq, Repr

/-- The output size of one direction. -/
def convOutDim (w pads d k s : Nat) : Int := ((w : Int) + pads - d * (k - 1 : Nat) - 1) / (s + 1 : Nat) + 1

def convGeo (ws : List Nat) : ConvGeo :=
  let a := wd ws 4
  let c := wd ws 5
  let w := bits a 0 12
  let h := bits a 13 25
  let cin := bits a 26 37
  let cout := bits a 38 49
  let kw := bits c 0 3
  let kh := bits c 4 7
  let d := bits c 24 25 + 1
  let it := iType ws
  let ps := roundUp (elemBytes it cin) 16
  let ops := roundUp (elemBytes (oType ws) cout) 16
  let ow := convOutDim w (bits c 12 14 + bits c 15 17) d kw (bits c 8 9)
  let oh := convOutDim h (bits c 18 20 + bits c 21 23) d kh (bits c 10 11)
  { w := w, h := h, cin := cin, cout := cout, kw := kw, kh := kh, sw := bits c 8 9 + 1, sh := bits c 10 11 + 1,
    padL := bits c 12 14, padT := bits c 18 20, dil := d, ow := ow, oh := oh, ps := ps, rs := roundUp (w * ps) 64,
    fs := roundUp (kh * kw * ps) 64, ops := ops, ors := roundUp (ow.toNat * ops) 64, cin' := roundUp cin (kStep it) }

/-- Rows, columns and depth of the product (R148, R149). -/
def mnk (ws : List Nat) : Nat × Nat × Nat :=
  if mstOp ws = 1 then (bits (wd ws 4) 0 15, bits (wd ws 4) 16 31, bits (wd ws 4) 32 47)
  else
    let g := convGeo ws
    ((g.ow * g.oh).toNat, g.cout, g.kh * g.kw * g.cin')

/-- Error 1 of R168: a reserved opcode or a non-zero reserved field. -/
def mstReserved (ws : List Nat) : Bool :=
  let hdr := bits (wd ws 0) 9 15 ≠ 0 || bits (wd ws 0) 22 31 ≠ 0
  let hi (i lo : Nat) : Bool := bits (wd ws i) lo 63 ≠ 0
  hdr || (match mstOp ws with
    | 0 => (List.range 7).any (fun i => wd ws (i + 1) ≠ 0)
    | 1 => hi 1 48 || hi 2 48 || hi 3 48 || hi 4 57 || hi 5 60 || hi 6 50 || hi 7 48
    | 2 => hi 1 48 || hi 2 48 || hi 3 48 || hi 4 58 || hi 5 26 || hi 6 50 || hi 7 48
    | 3 => hi 1 48 || hi 2 48 || wd ws 3 ≠ 0 || hi 4 40 || wd ws 6 ≠ 0 || wd ws 7 ≠ 0
    | 4 => hi 1 48 || hi 3 48 || hi 4 11 || wd ws 5 ≠ 0 || wd ws 6 ≠ 0 || wd ws 7 ≠ 0
    | _ => true)

/-- Error 3: type combination, ACC, or clamps outside the range of the output type (R144, R146). -/
def mstBadType (ws : List Nat) : Bool :=
  if mstOp ws = 1 || mstOp ws = 2 then
    let lo := toSigned 8 (bits (wd ws 7) 32 39)
    let hi := toSigned 8 (bits (wd ws 7) 40 47)
    !typesOk (iType ws) (oType ws)
      || (mstOp ws = 1 && bit (wd ws 4) 56 && oType ws ≠ 6 && oType ws ≠ 7)
      || (oType ws = 0 && !(-8 ≤ lo && lo ≤ 7 && -8 ≤ hi && hi ≤ 7))
  else false

/-- Error 4: a dimension 0 or above its range, a stride too small, an output size below 1, an overlapping COPY. -/
def mstBadDim (ws : List Nat) : Bool :=
  match mstOp ws with
  | 1 =>
    let (m, n, k) := mnk ws
    m = 0 || n = 0 || k = 0 || bits (wd ws 5) 0 19 * 64 < elemBytes (iType ws) k || bits (wd ws 5) 20 39 * 64 < elemBytes (iType ws) n
      || bits (wd ws 5) 40 59 * 64 < elemBytes (oType ws) n
  | 2 =>
    let g := convGeo ws
    g.w = 0 || g.h = 0 || g.cin = 0 || g.cout = 0 || g.kw = 0 || 7 < g.kw || g.kh = 0 || 7 < g.kh || g.ow < 1 || g.oh < 1
  | 3 =>
    let rb := bits (wd ws 4) 0 23
    let rows := bits (wd ws 4) 24 39
    let ss := bits (wd ws 5) 0 31
    let ds := bits (wd ws 5) 32 63
    let sl := (rows - 1) * ss + rb
    let dl := (rows - 1) * ds + rb
    rb = 0 || rows = 0 || (1 < rows && (ss < rb || ds < rb)) || (wd ws 1 < wd ws 2 + dl && wd ws 2 < wd ws 1 + sl)
  | _ => false

/-- Error 6: a misaligned address. -/
def mstMisaligned (ws : List Nat) : Bool :=
  match mstOp ws with
  | 1 | 2 => wd ws 1 % 64 ≠ 0 || wd ws 2 % 64 ≠ 0 || wd ws 3 % 64 ≠ 0 || (bit (wd ws 6) 48 && bits (wd ws 6) 0 47 % 64 ≠ 0)
  | 4 => wd ws 1 % 8 ≠ 0
  | _ => false

/-- The address ranges of a command: address, bytes, write (R156: by dimensions and strides, filler included). -/
def mstRanges (ws : List Nat) : List (Nat × Nat × Bool) :=
  let a (i : Nat) : Nat := bits (wd ws i) 0 47
  let bias (n : Nat) : List (Nat × Nat × Bool) := if bit (wd ws 6) 48 then [(bits (wd ws 6) 0 47, 4 * n, false)] else []
  match mstOp ws with
  | 1 =>
    let (m, n, k) := mnk ws
    [(a 1, m * (bits (wd ws 5) 0 19 * 64), false), (a 2, k * (bits (wd ws 5) 20 39 * 64), false), (a 3, m * (bits (wd ws 5) 40 59 * 64), true)]
      ++ (if bit (wd ws 4) 56 then [(a 3, m * (bits (wd ws 5) 40 59 * 64), false)] else []) ++ bias n
  | 2 =>
    let g := convGeo ws
    [(a 1, g.h * g.rs, false), (a 2, g.cout * g.fs, false), (a 3, g.oh.toNat * g.ors, true)] ++ bias g.cout
  | 3 =>
    let rb := bits (wd ws 4) 0 23
    let rows := bits (wd ws 4) 24 39
    [(a 1, (rows - 1) * bits (wd ws 5) 0 31 + rb, false), (a 2, (rows - 1) * bits (wd ws 5) 32 63 + rb, true)]
  | 4 => [(a 1, 8, true)]
  | _ => []

/-- One range lies wholly within a window of binding `i` that allows the access, in populated DRAM or the own scratch (R156). -/
def Block.rangeAllowed (b : Block) (n i : Nat) (r : Nat × Nat × Bool) : Bool :=
  let win := (List.range 4).any fun w =>
    let sz := b.get MST_BWIN_SIZE n i w
    let base := b.get MST_BWIN_BASE n i w * 4096
    sz ≠ 0 && base ≤ r.1 && r.1 + r.2.1 ≤ base + 2 ^ sz && b.isSet (if r.2.2 then MST_BWIN_W else MST_BWIN_R) n i w
  let own := scratchBase + n * 0x1000000
  win && (if scratchBase ≤ r.1 then own ≤ r.1 && r.1 + r.2.1 ≤ own + 0x800000 else b.rangeOk r.1 r.2.1)

/-- The error that the checks before execution give a command, codes 1 to 6 in order; 0: none (R168). -/
def Block.mstCheck (b : Block) (n i : Nat) (ws : List Nat) : Nat :=
  if mstReserved ws then 1
  else if bits (wd ws 0) 16 21 ≠ b.get MST_BCFG_PART n i then 2
  else if mstBadType ws then 3
  else if mstBadDim ws then 4
  else if !(mstRanges ws).all (b.rangeAllowed n i) || (mstOp ws = 4 && scratchBase ≤ bits (wd ws 1) 0 47) then 5
  else if mstMisaligned ws then 6
  else 0

/-! ## Errors and the end of commands -/

/-- Tile cycles of one block, and the parts of at most 4,096 cycles that it is taken in (R141, R162). -/
def blockCycles (ws : List Nat) : Nat := ((mnk ws).2.2 + kStep (iType ws) - 1) / kStep (iType ws)
def blockParts (ws : List Nat) : Nat := (blockCycles ws + 4095) / 4096
def blockCount (ws : List Nat) : Nat := (((mnk ws).1 + 11) / 12) * (((mnk ws).2.1 + 15) / 16)
def partCycles (ws : List Nat) (w : Nat) : Nat := min 4096 (blockCycles ws - 4096 * (w % blockParts ws))

/-- The runs of the queues that `f` names end. Tiles that work for them finish their current block, which writes nothing and is still charged (R161, R165). -/
def Block.dropRuns (n : Nat) (f : Nat → Bool) (b : Block) : Block :=
  b.modMst n fun m =>
    let late := (m.tiles.filter fun t => f t.2.1).filterMap fun t =>
      (m.runs.find? fun r => r.q = t.2.1 && r.idx = t.2.2.1).map fun r => (t.1, (t.2.1 / 2, iType r.words, partCycles r.words t.2.2.2))
    { m with runs := m.runs.filter (fun r => !f r.q), tiles := m.tiles.filter (fun t => !f t.2.1), spent := m.spent ++ late }

/-- A command fails (R168): its queue stops with HEAD at it; STOPPED, ERR and ERRCODE are set and the fault logged. -/
def Block.mstFail (n i j idx code : Nat) (b : Block) : Block :=
  let f := if code = 8 then 0x2308 else if code = 9 then 0x3309 else 0x2304
  b.modMq n i j (fun q => { q with stopped := true, err := true, code := code, head := idx, started := 0 })
    |>.dropRuns n (fun q => q = 2 * i + j)
    |>.mstBusy n
    |>.raise { code := f, mid := some (midMst n) }

/-- A queue error of R152 or R153: ERR with the code and 0x2305. -/
def Block.mstQErr (n i j code : Nat) (stop : Bool) (b : Block) : Block :=
  b.modMq n i j (fun q => { q with err := true, code := code, stopped := q.stopped || stop })
    |>.note { code := 0x2305, mid := some (midMst n) }

/-- Squash every command of a binding that is queued or running, and empty its queues (R165, R166). DESIGN CHOICE: an emptied queue shows HEAD at TAIL; the spec
names no value of the two. -/
def Block.mstSquash (n i : Nat) (atSeal : Bool) (b : Block) : Block :=
  let any := (List.range 2).any (fun j => (b.mq n i j).head ≠ (b.mq n i j).tail) || (b.mst n).runs.any (fun r => r.q / 2 = i)
  let b := b.dropRuns n (fun q => q / 2 = i)
    |>.mstBusy n
    |>.forN 2 (fun j b => b.modMq n i j (fun q => { q with head := q.tail, started := 0 }))
  if any then
    (if atSeal then b.put MST_BSTAT_SQSEAL 1 n i |>.note { code := 0x2306, mid := some (midMst n) }
     else b.put MST_BSTAT_SQMARK 1 n i |>.note { code := 0x0307, mid := some (midMst n) })
  else b

/-- The entry of a replica empties its binding's queues (R154). DESIGN CHOICE: ERRCODE goes with ERR; the rule names ERR, STOPPED and USED. -/
def Block.mstEnter (n i : Nat) (b : Block) : Block :=
  b.dropRuns n (fun q => q / 2 = i)
    |>.modMst n (fun m => { m with qs := SMap.set {} (2 * i) {} (SMap.set {} (2 * i + 1) {} m.qs) })
    |>.put MST_BUSED_USED 0 n i |>.mstBusy n

/-- A millstone after a sail reset: queues, commands, tiles and scratch cleared, every tile back in service (R143, R170). -/
def Block.mstReset (n : Nat) (b : Block) : Block :=
  (b.modMst n fun m => { m with qs := [], runs := [], tiles := [], spent := [], alt := [], rr := 15 })
    |>.scrClear n |>.setR .MST_STATUS 15 n

/-! ## Arithmetic of a block -/

/-- An element of a packed byte string. -/
def elemAt (ty : Nat) (v : Bytes) (i : Nat) : Nat :=
  if ty = 0 then bits (leAt (i / 2) 1 v) (4 * (i % 2)) (4 * (i % 2) + 3)
  else leAt (i * (elemBits ty / 8)) (elemBits ty / 8) v

/-- The integer value of an int4 or int8 element. -/
def intVal (ty v : Nat) : Int := toSigned (elemBits ty) v

/-- Wrap modulo 2^32. -/
def wrap32 (i : Int) : Nat := ofSigned 32 i

/-- Split a list into K-steps. -/
def chunks {α : Type} : Nat → Nat → List α → List (List α)
  | 0, _, _ => []
  | f + 1, k, l => if l.isEmpty then [] else l.take k :: chunks f k (l.drop k)

/-- The accumulator of one output: products of the pairs in K order, added to the start value (R145). -/
def accumulate (ty : Nat) (start : Nat) (xs : List (Nat × Nat)) : Nat :=
  if ty ≤ 1 then
    wrap32 (xs.foldl (fun s p => s + intVal ty p.1 * intVal ty p.2) (toSigned 32 start))
  else
    let f := fmtOf ty
    let prods := xs.map (fun p => toFp32 ((f.decode p.1).mul (f.decode p.2)))
    (chunks xs.length (kStep ty) prods).foldl (fun s c => f32add s (treeSum f32add c.length c)) start

/-- The epilogue of one value (R146). -/
def epilogue (ws : List Nat) (a bias : Nat) : Nat :=
  let ot := oType ws
  let relu := bit (wd ws 6) 49
  let scale := bits (wd ws 7) 0 31
  if ot = 6 then
    let t := toSigned 32 (wrap32 (toSigned 32 a + toSigned 32 bias))
    wrap32 (if relu && t < 0 then 0 else t)
  else if ot ≤ 1 then
    let t := toSigned 32 (wrap32 (toSigned 32 a + toSigned 32 bias))
    let v := f32mul (f32ofInt t) scale
    let q := ((fp32F.decode v).toInt).getD Config.nanInteger
    let q := if relu && q < 0 then 0 else q
    let lo := toSigned 8 (bits (wd ws 7) 32 39)
    let hi := toSigned 8 (bits (wd ws 7) 40 47)
    let q := if q < lo then lo else q
    let q := if hi < q then hi else q
    ofSigned (elemBits ot) q
  else
    let v := f32mul (f32add a bias) scale
    let x := fp32F.decode v
    let x := match x with
      | .fin true m e => if relu && m ≠ 0 then .fin false 0 e else x
      | .inf true => if relu then .fin false 0 0 else x
      | y => y
    convOut ot x

/-- Replace element `i` of a packed string by a value. -/
def putElem (ty : Nat) (v : Bytes) (i x : Nat) : Bytes :=
  if ty = 0 then
    let o := leAt (i / 2) 1 v
    v.set (i / 2) (BitVec.ofNat 8 (setBits o (4 * (i % 2)) (4 * (i % 2) + 3) x))
  else
    let w := elemBits ty / 8
    v.take (i * w) ++ leBytes w x ++ v.drop (i * w + w)

/-- Read a run of elements of the command's operand as numbers: values, and the error met. -/
def Block.readElems (n p ty base first cnt : Nat) (b : Block) : (List Nat × Nat) × Block :=
  let per := elemBits ty
  let o := first * per / 8
  let len := ((first + cnt) * per + 7) / 8 - o
  let (r, b) := b.mstRead n p (base + o) len
  let sh := if ty = 0 then first % 2 else 0
  (((List.range cnt).map (fun i => elemAt ty r.1 (i + sh)), r.2), b)

/-- The larger of two error codes: an uncorrectable line over poison. -/
def worse (a c : Nat) : Nat := max a c

/-- The K elements of row `r` of the left operand: of A, or of the image for CONV output pixel `r`, channels filled to CIN' with zeros. -/
def Block.leftRow (n p : Nat) (ws : List Nat) (r : Nat) (b : Block) : (List Nat × Nat) × Block :=
  let it := iType ws
  if mstOp ws = 1 then b.readElems n p it (bits (wd ws 1) 0 47 + r * (bits (wd ws 5) 0 19 * 64)) 0 (mnk ws).2.2
  else
    let g := convGeo ws
    let oy := r / g.ow.toNat
    let ox := r % g.ow.toNat
    (List.range (g.kh * g.kw)).foldl (fun (acc : (List Nat × Nat) × Block) t =>
      let iy : Int := (oy * g.sh + t / g.kw * g.dil : Nat) - (g.padT : Int)
      let ix : Int := (ox * g.sw + t % g.kw * g.dil : Nat) - (g.padL : Int)
      if iy < 0 || ix < 0 || (g.h : Int) ≤ iy || (g.w : Int) ≤ ix then ((acc.1.1 ++ List.replicate g.cin' 0, acc.1.2), acc.2)
      else
        let (e, b) := acc.2.readElems n p it (bits (wd ws 1) 0 47 + iy.toNat * g.rs + ix.toNat * g.ps) 0 g.cin
        ((acc.1.1 ++ e.1 ++ List.replicate (g.cin' - g.cin) 0, worse acc.1.2 e.2), b)) (([], 0), b)

/-- The K elements of column `c` of the right operand: of B, or of filter `c`. -/
def Block.rightCol (n p : Nat) (ws : List Nat) (c : Nat) (b : Block) : (List Nat × Nat) × Block :=
  let it := iType ws
  if mstOp ws = 1 then
    (List.range (mnk ws).2.2).foldl (fun (acc : (List Nat × Nat) × Block) k =>
      let (e, b) := acc.2.readElems n p it (bits (wd ws 2) 0 47 + k * (bits (wd ws 5) 20 39 * 64)) c 1
      ((acc.1.1 ++ e.1, worse acc.1.2 e.2), b)) (([], 0), b)
  else
    let g := convGeo ws
    (List.range (g.kh * g.kw)).foldl (fun (acc : (List Nat × Nat) × Block) t =>
      let (e, b) := acc.2.readElems n p it (bits (wd ws 2) 0 47 + c * g.fs + t * g.ps) 0 g.cin
      ((acc.1.1 ++ e.1 ++ List.replicate (g.cin' - g.cin) 0, worse acc.1.2 e.2), b)) (([], 0), b)

/-- The address of output row `r` (a row of C, or a pixel of the output image). -/
def outRow (ws : List Nat) (r : Nat) : Nat :=
  if mstOp ws = 1 then bits (wd ws 3) 0 47 + r * (bits (wd ws 5) 40 59 * 64)
  else
    let g := convGeo ws
    bits (wd ws 3) 0 47 + r / g.ow.toNat * g.ors + r % g.ow.toNat * g.ops

/-- Compute and write one block of 12 rows by 16 columns (R141, R145-R149). The answer's number is the error that the block's operands gave;
every output line of the block is then written poisoned (R168). The last columns of an int4 row and of a CONV pixel write their filler as zero. -/
def Block.computeBlock (n p : Nat) (ws : List Nat) (blk : Nat) (b : Block) : Nat × Block :=
  let (m, nn, _) := mnk ws
  let it := iType ws
  let ot := oType ws
  let cb := (nn + 15) / 16
  let r0 := blk / cb * 12
  let c0 := blk % cb * 16
  let rows := (List.range 12).map (· + r0) |>.filter (· < m)
  let cols := (List.range 16).map (· + c0) |>.filter (· < nn)
  let (rc, b) := cols.foldl (fun (acc : List (List Nat × Nat) × Block) c =>
    let (e, b) := acc.2.rightCol n p ws c
    (acc.1 ++ [e], b)) ([], b)
  let bt := if it ≤ 1 then 6 else 7
  let (bias, b) := if bit (wd ws 6) 48 then b.readElems n p bt (bits (wd ws 6) 0 47) c0 cols.length else ((cols.map (fun _ => 0), 0), b)
  let (out, b) := rows.foldl (fun (acc : List (Nat × Bytes × Nat) × Block) r =>
    let (lr, b) := acc.2.leftRow n p ws r
    let (cacc, b) := if mstOp ws = 1 && bit (wd ws 4) 56 then b.readElems n p ot (outRow ws r) c0 cols.length
      else ((cols.map (fun _ => 0), 0), b)
    let vals := (List.range cols.length).map (fun i =>
      epilogue ws (accumulate it (cacc.1.getD i 0) (lr.1.zip ((rc.getD i ([], 0)).1))) (bias.1.getD i 0))
    let last := decide (nn ≤ c0 + 16)
    let len := elemBytes ot cols.length
    let fill := if mstOp ws = 2 && last then (convGeo ws).ops - elemBytes ot (c0 + cols.length) else 0
    let buf := (List.range vals.length).foldl (fun v i => putElem ot v i (vals.getD i 0)) (List.replicate len 0)
    (acc.1 ++ [(r, buf ++ List.replicate fill 0, worse lr.2 cacc.2)], b)) ([], b)
  let err := out.foldl (fun e x => worse e x.2.2) (rc.foldl (fun e x => worse e x.2) bias.2)
  (err, out.foldl (fun b x => b.mstWrite n p (outRow ws x.1 + c0 * elemBits ot / 8) x.2.1 (err ≠ 0)) b)

/-- COPY row by row in pieces of a line; a piece that meets poison is written poisoned and the copy ends (R168). -/
def Block.copyRow (n p : Nat) : Nat → Nat → Nat → Nat → Block → Nat × Block
  | 0, _, _, _, b => (0, b)
  | f + 1, src, dst, len, b =>
    if len = 0 then (0, b)
    else
      let k := min len (64 - dst % 64)
      let (r, b) := b.mstRead n p src k
      let b := b.mstWrite n p dst r.1 (r.2 ≠ 0)
      if r.2 ≠ 0 then (r.2, b) else Block.copyRow n p f (src + k) (dst + k) (len - k) b

/-- The rows of a COPY in order. -/
def Block.copyRows (n p : Nat) (ws : List Nat) : Nat → Nat → Block → Nat × Block
  | 0, _, b => (0, b)
  | f + 1, r, b =>
    let rb := bits (wd ws 4) 0 23
    let (e, b) := b.copyRow n p (rb / 64 + 2) (bits (wd ws 1) 0 47 + r * bits (wd ws 5) 0 31) (bits (wd ws 2) 0 47 + r * bits (wd ws 5) 32 63) rb
    if e ≠ 0 then (e, b) else Block.copyRows n p ws f (r + 1) b

end Sys2Proof.Machine
end

