-- ==== Sys2Proof/Machine/PartOps.lean ====
section
/-! DEFINITION. Partitions and replicas: placement, entry state, halts, behind and lost replicas, spare groups, bindings (R274-R300, R304). -/

namespace Sys2Proof.Machine

/-! ## Access -/

def Block.part (b : Block) (p : Nat) : Part := SMap.get {} p b.parts
def Block.modPart (p : Nat) (f : Part → Part) (b : Block) : Block := { b with parts := SMap.upd {} p f b.parts }
def Block.repl (b : Block) (p r : Nat) : Repl := SMap.get {} r (b.part p).repls
def Block.modRepl (p r : Nat) (f : Repl → Repl) (b : Block) : Block :=
  b.modPart p fun t => { t with repls := SMap.upd {} r f t.repls }

/-- Objects of partition `p` in the active image: mode, flags, placement, limits, windows and ranges (R305). -/
def Block.pMode (b : Block) (p : Nat) : Nat := b.get BLT_PSTAT_MODE p
def Block.pFlag (b : Block) (p i : Nat) : Bool := bit (b.actN (0x3000 + p) 2) i
def flagRestart : Nat := 0
def flagXpkg : Nat := 1
def flagSurvivor : Nat := 2
def flagEscalate : Nat := 3
def Block.inWin (b : Block) (p w : Nat) : Nat := b.actN (0x3200 + p) (1 + 4 * w)
def Block.inWinBase (b : Block) (p w r : Nat) : Nat := b.actN (0x3200 + p) (2 + 4 * w + r)
def Block.outWin (b : Block) (p w : Nat) : Nat := b.actN (0x3300 + p) (1 + 4 * w)
def Block.outWinBase (b : Block) (p w r : Nat) : Nat := b.actN (0x3300 + p) (2 + 4 * w + r)
def Block.imgSize (b : Block) (p w : Nat) : Nat := b.actN (0x3400 + p) (1 + 4 * w)
def Block.imgBase (b : Block) (p w r : Nat) : Nat := b.actN (0x3400 + p) (2 + 4 * w + r)
def Block.stSize (b : Block) (p s : Nat) : Nat := b.actN (0x3480 + p) (1 + 3 * s)
def Block.stBase0 (b : Block) (p s k : Nat) : Nat := b.actN (0x3480 + p) (2 + 3 * s + k)
def Block.holdBase (b : Block) (p : Nat) : Nat := b.actN (0x3000 + p) 0x0A

/-- How many replicas a mode runs. -/
def modeRepls (m : Nat) : Nat := m

/-- A cross-package partition: the flag counts in a PAIR alone (R275). -/
def Block.xpkg (b : Block) (p : Nat) : Bool := b.isSet BLT_PSTAT_XPKG p && b.pMode p = 2

/-- The replicas of a partition that run on this package (R301). -/
def Block.localRepls (b : Block) (p : Nat) : List Nat :=
  (List.range (modeRepls (b.pMode p))).filter fun r => !b.xpkg p || r = b.otp.pkg

/-- Windows of nonzero size, with their offset in the hold copy and in a replica's sum (R284, R287). -/
def Block.outWins (b : Block) (p : Nat) : List Nat := (List.range 8).filter (fun w => b.outWin p w ≠ 0)

/-- B of R287: the sum of the output-window sizes, rounded up to 4 KiB. -/
def Block.holdBytes (b : Block) (p : Nat) : Nat := roundUp ((b.outWins p).foldl (fun a w => a + b.outWin p w) 0) 4096

/-- The base of state buffer `k` of range `s` in the image of replica `r` (R282): the same offset in the same image range. -/
def Block.stBase (b : Block) (p s k r : Nat) : Nat :=
  let a := b.stBase0 p s k
  match (List.range 8).find? (fun w => b.imgBase p w 0 ≤ a && a < b.imgBase p w 0 + b.imgSize p w) with
  | some w => b.imgBase p w r + (a - b.imgBase p w 0)
  | none => a

/-- The hart IDs of a core mask on a sail, ascending. -/
def hartsOf (sail mask : Nat) : List Nat := ((List.range 16).filter (fun c => bit mask c)).map (fun c => sail * 32 + c)

/-- The harts of a replica. -/
def Block.replHarts (b : Block) (p r : Nat) : List Nat :=
  match (b.repl p r).sail with
  | some n => hartsOf n (b.repl p r).cores
  | none => []

/-- A catch-up of replica `r` ends, or is wanted no more. -/
def Block.endCatch (p r : Nat) (b : Block) : Block := b.modRepl p r fun t => { t with catchSt := 0, behind := none }

/-- What BLT_STATUS and BLT_COPY show: a catch-up or restore that runs comes before a re-pairing copy (R292). -/
def Block.showCopy (b : Block) : Block :=
  let ps := List.range 64
  let cu := ps.findSome? fun p => ((List.range 3).find? fun r => (b.repl p r).catchSt = 2).map fun r => (p, r)
  let rs := ps.find? fun p => match (b.part p).repair with | some q => q.restore = 2 | none => false
  let rp := ps.findSome? fun p => match (b.part p).repair with | some q => if q.restore = 0 && !q.copied then some (p, q) else none | none => none
  let v : Nat := match cu, rs, rp with
    | some (p, r), _, _ => p + 64 * r + 256 * ((b.repl p r).src.getD 0) + 1024 * 2
    | none, some p, _ => p + 1024 * 3 + 4096 * (match (b.part p).repair with | some q => q.group | none => 0)
    | none, none, some (p, q) => p + 64 * q.repl + 256 * q.src + 1024 + 4096 * q.group
    | none, none, none => 0
  b.setR .BLT_COPY v |>.put BLT_STATUS_COPYBUSY (ofBool (v ≠ 0))

/-- The bytes that the copy of BLT_COPY moves: every image range, or one buffer of every state range. -/
def Block.copyBytes (b : Block) : Nat :=
  let p := b.get BLT_COPY_PART
  if b.get BLT_COPY_KIND = 1 then (List.range 8).foldl (fun a w => a + b.imgSize p w) 0
  else (List.range 4).foldl (fun a s => a + b.stSize p s) 0

/-- The harts of a replica that have not sealed (the value that turnseal reads, R59). -/
def Block.unsealed (b : Block) (p r : Nat) : Nat := ((b.replHarts p r).filter (fun h => !(b.hart h).sealed)).length

/-- A replica in service: placed here and not lost. -/
def Block.inService (b : Block) (p r : Nat) : Bool := (b.repl p r).sail.isSome && !(b.repl p r).lost

/-- The partition is being entered each turn. -/
def Block.partRuns (b : Block) (p : Nat) : Bool :=
  b.partDefined p && (b.get BLT_PSTAT_STATE p = pRunning || b.get BLT_PSTAT_STATE p = pDegraded || b.get BLT_PSTAT_STATE p = pRepairing)

/-- Halt the harts of a replica. -/
def Block.haltRepl (p r : Nat) (b : Block) : Block :=
  b.forL (b.replHarts p r) (fun h b => b.modHart h fun t => { t with run := false })
    |>.modRepl p r (fun t => { t with active := false, sealing := false })

/-- The binding of a replica on its sail. -/
def Block.replBind (b : Block) (p r : Nat) : Option (Nat × Nat) :=
  match (b.repl p r).sail with
  | none => none
  | some n => (List.range 16).find? (fun i => b.isSet MST_BCFG_EN n i && b.get MST_BCFG_PART n i = p && b.get MST_BCFG_REPL n i = r)
      |>.map (fun i => (n, i))

/-- Squash the commands of a replica's binding (R165, R166). -/
def Block.squashRepl (p r : Nat) (atSeal : Bool) (b : Block) : Block :=
  match b.replBind p r with
  | some (n, i) => b.mstSquash n i atSeal
  | none => b

/-- LIVE of BLT_PSTATp and BLT_PPLACEp follow the replicas in service. -/
def Block.showPart (p : Nat) (b : Block) : Block :=
  let s (r : Nat) : Nat := if (b.repl p r).lost then 15 else (b.repl p r).sail.getD 15
  b.put BLT_PSTAT_LIVE (maskOf 3 (fun r => b.inService p r)) p
    |>.put BLT_PPLACE_SAIL0 (s 0) p |>.put BLT_PPLACE_SAIL1 (s 1) p |>.put BLT_PPLACE_SAIL2 (s 2) p

/-! ## Pins and bindings -/

/-- Pin the cores of a replica to it (R274): hart index h counts them in ascending order. -/
def Block.pinRepl (p r : Nat) (b : Block) : Block :=
  (b.replHarts p r).zipIdx.foldl (fun b e => b.modHart e.1 fun t => { t with pin := some (p, r, e.2), run := false, sealed := true }) b

/-- Unpin the cores of a replica. -/
def Block.unpinRepl (p r : Nat) (b : Block) : Block :=
  b.forL (b.replHarts p r) (fun h b => b.modHart h fun t => { t with pin := none, run := false })

/-- Does a replica of `p` need a binding (R150)? -/
def Block.needsBinding (b : Block) (p : Nat) : Bool := b.actN (0x3A00 + p) 1 ≠ 0 || b.actN (0x3A00 + p) 2 ≠ 0

/-- Write the binding of a replica onto its sail's millstone, in its lowest free binding (R150, R171). -/
def Block.bindRepl (p r : Nat) (b : Block) : Block :=
  match (b.repl p r).sail with
  | none => b
  | some n =>
    if !b.needsBinding p then b
    else match (List.range 16).find? (fun i => !b.isSet MST_BCFG_EN n i) with
      | none => b
      | some i =>
        let o (k : Nat) : Nat := b.actN (0x3A00 + p) (3 + 6 * r + k)
        let q := b.actN (0x3A00 + p) 2
        b.put MST_BCFG_EN 1 n i |>.put MST_BCFG_PART p n i |>.put MST_BCFG_REPL r n i
          |>.put MST_BCFG_QSIZE0 (q % 16) n i |>.put MST_BCFG_QSIZE1 (q / 16) n i
          |>.put MST_BBUDGET_BUDGET (b.actN (0x3A00 + p) 1) n i
          |>.loadR .MST_BQBASE (o 0) n i 0 |>.loadR .MST_BQBASE (o 1) n i 1
          |>.loadR .MST_BWIN (o 2) n i 0 |>.loadR .MST_BWIN (o 3) n i 1 |>.loadR .MST_BWIN (o 4) n i 2 |>.loadR .MST_BWIN (o 5) n i 3
          |>.mstEnter n i

/-- Remove every binding of a replica. -/
def Block.unbindRepl (p r : Nat) (b : Block) : Block :=
  match b.replBind p r with
  | some (n, i) =>
    b.setR .MST_BCFG 0 n i |>.setR .MST_BBUDGET 0 n i |>.setR .MST_BQBASE 0 n i 0 |>.setR .MST_BQBASE 0 n i 1
      |>.forN 4 (fun w b => b.setR .MST_BWIN 0 n i w) |>.setR .MST_BUSED 0 n i |>.setR .MST_BPREV 0 n i |>.mstEnter n i
  | none => b

/-- Write a window of the hold copy or of a load with zeros. -/
def Block.zeroBytes (mid p pa n : Nat) (b : Block) : Block := b.writeBytes mid p pa (List.replicate n 0)

/-! ## Placement (R277) -/

/-- A core mask of a sail can take a replica: the sail ACTIVE, no core disabled, all tiles in service where the partition has a budget. -/
def Block.placeOk (b : Block) (p sail mask : Nat) : Bool :=
  b.active? sail && Nat.land mask (b.get SAIL_COREDIS_DIS sail) = 0
    && (b.actN (0x3A00 + p) 1 = 0 || b.get MST_STATUS_TILEEN sail = 15)

/-- Every local placement of partition `p` in the active image is accepted. -/
def Block.partPlaceOk (b : Block) (p : Nat) : Bool :=
  (b.localRepls p).all fun r =>
    let w := b.actN (0x3000 + p) (3 + r)
    b.placeOk p (w % 16) (w / 65536)

/-- Load a partition whose placement is accepted (R304): replicas take their places, cores are pinned, bindings written, both hold buffers zeroed and
marked REPEATED. -/
def Block.loadPart (p : Nat) (b : Block) : Block :=
  let b := b.modPart p (fun _ => {})
  let b := b.forL (b.localRepls p) (fun r b =>
    let w := b.actN (0x3000 + p) (3 + r)
    b.modRepl p r (fun t => { t with sail := some (w % 16), cores := w / 65536 }) |>.pinRepl p r |>.bindRepl p r)
  let b := b.zeroBytes midGov p (b.holdBase p) (2 * b.holdBytes p)
  b.put BLT_PSTAT_STATE pLoaded p |>.put BLT_PSTAT_LAST 0 p |>.put BLT_PSTAT_REPEAT 1 p |>.put BLT_PSTAT_HOLDCNT 0 p
    |>.put BLT_PSTAT_SRC 0 p |>.put BLT_PSTAT_TURN 0 p |>.showPart p

/-- End the mirroring for a partition. -/
def Block.unmirror (p : Nat) (b : Block) : Block :=
  { b with blt := { b.blt with mirrors := b.blt.mirrors.filter (fun m => m.2.2.2 ≠ p) } }

/-- Take a partition off its cores. -/
def Block.unloadPart (p : Nat) (b : Block) : Block :=
  let rs := List.range 3
  b.forL rs (fun r b => b.haltRepl p r |>.unbindRepl p r |>.unpinRepl p r) |>.modPart p (fun _ => {})
    |>.unmirror p |>.resetAgent p |>.showCopy

/-! ## Halts and losses -/

/-- Halt partition `p` (R304): harts halt, commands are squashed, any copy ends. -/
def Block.haltPart (p : Nat) (b : Block) : Block :=
  let b := b.forL (List.range 3) (fun r b => b.squashRepl p r false |>.haltRepl p r |>.endCatch p r)
  b.put BLT_PSTAT_STATE pHalted p |>.modPart p (fun t => { t with repair := none, release := none })
    |>.unmirror p |>.resetAgent p |>.showCopy

/-- R294, R300: the governor halts the partition, with 0x3707, or with the escalate flag 0x4708. -/
def Block.failPart (p : Nat) (b : Block) : Block :=
  let esc := b.pFlag p flagEscalate
  b.haltPart p |>.raise { code := if esc then 0x4708 else 0x3707 }

/-- Abort a re-pairing (R298): 0x270B, the partition is DEGRADED again. -/
def Block.abortRepair (p : Nat) (b : Block) : Block :=
  b.modPart p (fun t => { t with repair := none })
    |>.unmirror p |>.showCopy
    |>.note { code := 0x270B }
    |>.when (b.get BLT_PSTAT_STATE p = pRepairing) (fun b => b.put BLT_PSTAT_STATE pDegraded p)

/-- The lowest-indexed replica in service: the source of a re-pairing (R296). -/
def Block.lowestInService (b : Block) (p : Nat) : Option Nat := (List.range 3).find? (fun r => b.inService p r)

/-- Begin mirroring from a source into replica `r`'s image (R296 step 2). -/
def Block.mirror (p src r : Nat) (b : Block) : Block :=
  let ms := ((List.range 8).filter (fun w => b.imgSize p w ≠ 0)).map (fun w => (b.imgBase p w src, b.imgSize p w, b.imgBase p w r, p))
  { b with blt := { b.blt with mirrors := b.blt.mirrors.filter (fun m => m.2.2.2 ≠ p) ++ ms } }

/-- A replica is lost (R291): 0x3704, the partition DEGRADED, or REPAIRING for a restartable SINGLE (R299), or halted (R294, R300). A replica that
sealed keeps its digest (R289). -/
def Block.replLost (p r : Nat) (b : Block) : Block :=
  if !b.partLive p || !b.inService p r then b
  else
    let at' := (b.repl p r).sail
    let b := b.haltRepl p r |>.squashRepl p r false |>.unbindRepl p r |>.unpinRepl p r
      |>.modRepl p r (fun t => { t with lost := true, sail := none, cores := 0, behind := none, catchSt := 0, group := none, waitOn := at' })
      |>.inc BLT_PCNT_LOSSES p |>.showPart p |>.showCopy
      |>.raise { code := 0x3704 }
    if b.get BLT_PSTAT_STATE p = pHalted then b
    else if b.pMode p = 1 then
      if b.pFlag p flagRestart && b.actN (0x3000 + p) 7 ≠ 0 then
        b.put BLT_PSTAT_STATE pRepairing p
      else b.failPart p
    else match b.lowestInService p with
      | none => if b.xpkg p then b.put BLT_PSTAT_STATE pDegraded p else b.failPart p
      | some src =>
        let b := b.when (b.get BLT_PSTAT_STATE p ≠ pRepairing) (fun b => b.put BLT_PSTAT_STATE pDegraded p)
        match (b.part p).repair with
        | some q =>
          -- the source of a running re-pairing was lost: it starts again from step 1 with the next replica in service (R298)
          if q.src = r then
            b.modPart p (fun t => { t with repair := some { q with src := src, copied := false, counted := false } }) |>.note { code := 0x0709 }
              |>.mirror p src q.repl |>.showCopy
          else b
        | none => b

/-- Every replica with a core in the mask on a sail (a lost sail, a stopped core). -/
def Block.replsOn (b : Block) (n mask : Nat) : List (Nat × Nat) :=
  (List.range 64).foldl (fun a p => a ++ ((List.range 3).filter (fun r =>
    b.partDefined p && (b.repl p r).sail = some n && !(b.repl p r).lost && Nat.land (b.repl p r).cores mask ≠ 0)).map (fun r => (p, r))) []

/-- The target sail of re-pairings that use it leaves ACTIVE: the copies abort (R298). -/
def Block.abortOnSail (n : Nat) (b : Block) : Block :=
  b.forN 64 fun p b => match (b.part p).repair with
    | some q => if (b.actN 0x3500 (q.group + 1)) % 16 = n then b.abortRepair p else b
    | none => b

/-- A line of a sail is poisoned (R82): UE, and 0x2202 with its address. -/
def Block.poisonLine (n line : Nat) (b : Block) : Block :=
  let e := b.l3At n line
  b.when (e.st ≠ .i) (Block.setL3 n line { e with poison := true }) |>.put SAIL_ERRSTAT_UE 1 n |>.note { code := 0x2202, addr := some (line * 64) }

/-- A core stops fail-stop (R103): its caches write back the dirty lines that they can correct and poison the others (`lost`), COREDIS, 0x3206 (or
0x320C), its replica is lost. -/
def Block.coreStop (h code : Nat) (lost : List Nat) (b : Block) : Block :=
  let n := h / 32
  let c := h % 32
  let t := b.hart h
  let b := b.forL (lost.filter fun l => t.holdsDirty .l1d l || t.holdsDirty .l2 l) (fun l b => b.poisonLine n l)
    |>.modHart h (fun t => { t with run := false, fault := true, l1i := [], l1d := [], l2 := [] })
    |>.put SAIL_COREDIS_DIS (Nat.lor (b.get SAIL_COREDIS_DIS n) (2 ^ c)) n |>.put SAIL_ERRSTAT_COREFLT 1 n
    |>.raise { code := code, mid := some h }
  b.freeLocks (fun m => m = h) |>.forL (b.replsOn n (2 ^ c)) (fun e b => b.replLost e.1 e.2)

/-- A tile fails (R170): every replica with a budget on that millstone is lost. -/
def Block.tileLost (n : Nat) (b : Block) : Block :=
  let l := (List.range 16).filter (fun i => b.isSet MST_BCFG_EN n i && 0 < b.get MST_BBUDGET_BUDGET n i)
    |>.map (fun i => (b.get MST_BCFG_PART n i, b.get MST_BCFG_REPL n i))
  b.forL l (fun e b => b.replLost e.1 e.2)

/-- Did replica `r` seal in turn `u`? -/
def Repl.sealedIn (t : Repl) (u : Nat) : Bool := t.seals.contains u

/-- A replica misses its mark in this turn (R58, R290, R291): harts halt, TRN_MISSED, MISSED at the next entry; of a replicated partition
it is behind and a catch-up is queued. `raised`: the fault to raise, none for a halt at the decision. -/
def Block.missMark (p r : Nat) (raised : Option FaultSpec) (b : Block) : Block :=
  let u := b.turn
  let b := b.haltRepl p r |>.squashRepl p r false
    |>.setR .TRN_MISSED (Nat.lor (b.getR .TRN_MISSED) (2 ^ p))
    |>.modRepl p r (fun t => { t with
        missed := true, nextMissed := true, turn := u
        seals := t.seals.filter (· ≠ u), digs := t.digs.filter (fun d => d.turn ≠ u)
        behind := if b.pMode p = 1 then none else some .mark, behindTurn := u, catchSt := if b.pMode p = 1 then 0 else 1 })
  match raised with
  | some f => b.raise f
  | none => b

/-- The source of a catch-up of replica `r` (R292). -/
def Block.catchSource (b : Block) (p r : Nat) : Option Nat :=
  let t := b.repl p r
  match t.behind with
  | none => none
  | some .decision => t.src
  | some .mark => (List.range 3).find? fun q =>
      q ≠ r && (b.repl p q).sealedIn t.behindTurn && !((b.repl p q).missed && (b.repl p q).turn = t.behindTurn)

/-- Copy the state buffers of a catch-up (R292): buffer (S' + 1) mod 2 of every range, as whole lines. -/
def Block.copyRange (p src dst n : Nat) (b : Block) : Block :=
  b.forN (n / 64) fun i b =>
    let (v, b) := b.readLine midGov p ((src + 64 * i) / 64)
    b.writeLine midGov p ((dst + 64 * i) / 64) v.1 (2 ^ 64 - 1) v.2

def Block.catchCopy (p src r : Nat) (b : Block) : Block :=
  let t := b.repl p src
  let k := ((if t.turn = (b.repl p r).behindTurn then t.readS else t.readPrev) + 1) % 2
  b.forN 4 fun s b =>
    if b.stSize p s = 0 then b else b.copyRange p (b.stBase p s k src) (b.stBase p s k r) (b.stSize p s)

/-! ## Entry (R56, R278, R116) -/

/-- FS and VS are Initial or Off (R278); SIE, SPIE, SPP, SUM and MXR are taken as they are. -/
def entryStatus (v : Nat) : Nat :=
  let f (x : Nat) : Nat := if x = 0 then 0 else 1
  bits v 1 1 * 2 + bits v 5 5 * 32 + bits v 8 8 * 256 + bits v 18 18 * 2 ^ 18 + bits v 19 19 * 2 ^ 19
    + f (bits v 9 10) * 2 ^ 9 + f (bits v 13 14) * 2 ^ 13

/-- The CSRs that the mode of a partition loads at entry of replica `r`. -/
def Block.entryCsrs (b : Block) (p r : Nat) : List (Nat × Nat) :=
  let o (k : Nat) : Nat := b.actN (0x3100 + p) k
  let x (k : Nat) : Nat := b.actN (0x3600 + p) k
  [(csrStvec, o 4), (csrSatp, o (5 + r)), (csrSie, o 8), (csrHstatus, o 9), (csrHgatp, o (0x0A + r)), (csrVsstatus, entryStatus (o 0x0D)),
   (csrVstvec, o 0x0E), (csrVsatp, o 0x0F), (csrVsie, o 0x10), (csrXnlctl, x 0xC1), (csrBcastctl, x 0xC2), (csrInvdom, x 0xC3)]
  ++ (List.range 64).map (fun i => (0x5C0 + i, x (1 + 64 * r + i)))

/-- Machine-level CSRs, which an entry leaves alone. -/
def mLevel (c : Nat) : Bool := c / 256 % 4 = 3

/-- Load the entry state of one hart and start it. -/
def Block.enterHart (p r idx h ent : Nat) (b : Block) : Block :=
  let ms := b.csr h csrMstatus
  let ms := ms - Nat.land ms sstatusMask + entryStatus (b.actN (0x3100 + p) 3)
  let kept := (b.hart h).csr.filter (fun c => mLevel c.1)
  let vs := b.actN (0x3100 + p) 2 = 1
  let b := b.modHart h fun t =>
    { t with run := true, priv := if vs then .vs else .s, pc := b.actN (0x3100 + p) 1, sealed := false, csr := kept, resv := none, io := none, stip := false, vstip := false
             x := SMap.set 0 10 p (SMap.set 0 11 r (SMap.set 0 12 idx (SMap.set 0 13 ent []))), f := [], v := []
             pin := some (p, r, idx) }
  b.setCsr h csrMstatus ms |>.forL (b.entryCsrs p r) (fun c b => b.setCsr h c.1 c.2) |>.setCsr h 0xC21 (2 ^ 63)

/-- Window writes of a replica tagged to the ended turn are still pending (R53). -/
def Block.windowsPending (b : Block) (p r : Nat) : Bool := b.tu.writes.any (fun w => w.part = p && w.repl = r && w.turn < b.turn)

/-- The value of turnentry at an entry (R59). -/
def Block.entryValue (b : Block) (p r : Nat) : Nat :=
  let t := b.repl p r
  ofBool t.nextMissed + 2 * ofBool t.nextJoined + 4 * ofBool t.nextRestarted + 8 * ofBool b.tu.imgNow
    + 16 * ofBool (b.tu.timedOut && b.windowsPending p r)

/-- Enter a replica (R56, R154): the activation of this turn begins. -/
def Block.enterRepl (p r : Nat) (b : Block) : Block :=
  let ent := b.entryValue p r
  let b := (b.replHarts p r).zipIdx.foldl (fun b e => b.enterHart p r e.2 e.1 ent) b
  let b := match b.replBind p r with | some (n, i) => b.mstEnter n i | none => b
  b.modRepl p r fun t => { t with
    began := true, active := true, sealing := false, turn := b.turn, readS := (b.part p).sealTurn, readPrev := t.readS, missed := false, entry := ent
    nextMissed := false, nextJoined := false, nextRestarted := false, behind := none, catchSt := 0 }

/-- A catch-up that no replica can serve any more: its turn has ended, or its mark has passed, without a source (R292). -/
def Block.catchVoid (b : Block) (p r : Nat) : Bool :=
  let t := b.repl p r
  t.catchSt = 1 && !t.active && (b.catchSource p r).isNone && (t.behindTurn ≠ b.turn || b.markNs p ≤ b.nowNs)

/-- No catch-up runs; the replica enters with MISSED set. -/
def Block.giveUpCatch (p r : Nat) (b : Block) : Block := b.endCatch p r |>.modRepl p r fun t => { t with nextMissed := true }

/-- May a replica be entered now: in service here, not yet entered in this turn, no catch-up queued or running? -/
def Block.mayEnter (b : Block) (p r : Nat) : Bool :=
  let t := b.repl p r
  b.inService p r && !(t.began && t.turn = b.turn) && t.catchSt = 0 && !(t.missed && t.turn = b.turn)

/-! ## Spare groups (R295) -/

/-- A spare group is in use. -/
def Block.groupUsed (b : Block) (g : Nat) : Bool :=
  b.parts.any fun e => (match e.2.repair with | some q => q.group = g | none => false) || e.2.repls.any (fun t => t.2.group = some g)

/-- The group for a lost replica of `p`: the lowest that R295 allows. -/
def Block.chooseGroup (b : Block) (p : Nat) : Option Nat :=
  (List.range 16).find? fun g =>
    let w := b.actN 0x3500 (g + 1)
    let n := w % 16
    bit (b.actN (0x3000 + p) 7) g && w / 65536 ≠ 0 && !b.groupUsed g && b.placeOk p n (w / 65536)
      && !(List.range 3).any (fun r => (b.repl p r).sail = some n)

/-- The private regions that hold replica `r`'s image and whose OWNER is not sail `n`. -/
def Block.strayRegions (b : Block) (p r n : Nat) : List Nat :=
  (List.range 64).filter fun i =>
    let w := b.desc i 0
    descV w && descPriv w && descOwner w ≠ n &&
      (List.range 8).any (fun k => b.imgSize p k ≠ 0 && b.desc i 1 ≤ b.imgBase p k r && b.imgBase p k r < b.desc i 1 + b.desc i 2)

/-- OWNER of regions becomes sail `n`. -/
def Block.setOwner (l : List Nat) (n : Nat) (b : Block) : Block :=
  b.forL l fun i b => b.forN 8 fun c b => b.setR .MC_RD (setBits (b.desc i 0) 6 9 n) c i 0

/-- The regions are held at their homes until a CLEANINV of each has ended on every ACTIVE sail other than its owner (R258). -/
def Block.holdRegions (l : List Nat) (b : Block) : Block :=
  let owned (i n : Nat) : Bool := descPriv (b.desc i 0) && descOwner (b.desc i 0) = n
  let cl := l.flatMap fun i => (b.activeSails.filter fun n => !owned i n).map fun n => (i, n)
  { b with ms := { b.ms with heldRegions := l.foldl (fun a i => sinsert i a) b.ms.heldRegions, cleans := b.ms.cleans ++ cl } }

/-- The private regions of replica `r`'s image change OWNER to the target sail, as at a change of owner (R258, R296 step 1). -/
def Block.moveOwner (p r n : Nat) (b : Block) : Block :=
  let l := b.strayRegions p r n
  b.setOwner l n |>.holdRegions l

/-- Start the re-pairing of replica `r` (R295, R296 step 1 and 2), or the restart of a SINGLE (R299). With no group 0x270B. -/
def Block.startRepair (p r : Nat) (b : Block) : Block :=
  match b.chooseGroup p with
  | none => b.note { code := 0x270B }
  | some g =>
    let n := b.actN 0x3500 (g + 1) % 16
    let b := b.moveOwner p r n
    if b.pMode p = 1 then
      b.modPart p (fun t => { t with repair := some { repl := r, group := g, restore := 1 } }) |>.put BLT_PSTAT_STATE pRepairing p
    else match b.lowestInService p with
      | none => b
      | some src =>
        b.modPart p (fun t => { t with repair := some { repl := r, group := g, src := src } }) |>.put BLT_PSTAT_STATE pRepairing p
          |>.note { code := 0x0709 } |>.mirror p src r |>.showCopy

/-- The spare takes its place (R296 step 6, R299): cores pinned, binding and TC3 rate written. -/
def Block.takePlace (p r g : Nat) (b : Block) : Block :=
  let w := b.actN 0x3500 (g + 1)
  let lostOn := b.actN (0x3000 + p) (3 + r) % 16
  b.modRepl p r (fun t => { sail := some (w % 16), cores := w / 65536, group := some g, seals := t.seals, digs := t.digs })
    |>.pinRepl p r |>.bindRepl p r
    |>.setR .FLM_TC3RATE (b.actN (0x2500 + p) (lostOn + 1)) (w % 16) p
    |>.showPart p

/-- Every replica of `p` that this package runs is in service. -/
def Block.fullRepls (b : Block) (p : Nat) : Bool := (b.localRepls p).all (fun r => b.inService p r)

/-- The join of a re-paired replica (R296 step 6). -/
def Block.joinRepl (p : Nat) (q : Repair) (b : Block) : Block :=
  let b := b.unmirror p
  let b := b.takePlace p q.repl q.group |>.modRepl p q.repl (fun t => { t with nextJoined := true })
    |>.modPart p (fun t => { t with repair := none })
  b.put BLT_PSTAT_STATE (if b.fullRepls p then pRunning else pDegraded) p |>.note { code := 0x070A }

/-- The partitions at a boundary (R282, R292, R295, R296, R304): S takes the seals of the ended turn; a LOADED partition runs in RUN and
DEGRADED; joins, then starts of re-pairings, in the order of partition IDs. -/
def Block.partsBoundary (b : Block) : Block :=
  b.forN 64 fun p b =>
    if !b.partDefined p then b
    else
      let b := b.modPart p (fun t => { t with sealTurn := t.sealNew.getD t.sealTurn, sealNew := none })
      let b := if b.outputsOn && b.get BLT_PSTAT_STATE p = pLoaded then b.put BLT_PSTAT_STATE pRunning p else b
      if !b.partLive p then b
      else
        let b := match (b.part p).repair with
          | some q => if q.restore = 0 && q.copied && q.counted then b.joinRepl p q else b
          | none => b
        let poisoning := (List.range 3).any fun r => (b.repl p r).lost && (match (b.repl p r).waitOn with | some n => b.isSet GOV_SAILSTAT_POISONING n | none => false)
        if (b.part p).repair.isNone && !b.xpkg p && !poisoning then
          match (List.range 3).find? fun r => (b.repl p r).lost with
          | some r => if b.pMode p = 1 && !b.pFlag p flagRestart then b else b.startRepair p r
          | none => b
        else b

end Sys2Proof.Machine
end

