-- ==== Sys2Proof/Machine/Pkt.lean ====
section
/-! DEFINITION. Packets of the millrace: what attaches where (R212, R213), opcodes and header (R214), where a message goes (R216) and the class it travels
in (R218). -/

namespace Sys2Proof

/-- Opcodes of requests (R214). -/
def ReqKind.opcode : ReqKind → Nat
  | .rdShared => 0x01 | .rdUnique => 0x02 | .upgrade => 0x03 | .dirtyNote => 0x04 | .wbDirty => 0x05
  | .evictClean => 0x06 | .rdOnce => 0x07 | .wrFull => 0x08 | .wrPart => 0x09

/-- The state that ARG carries (R214). -/
def LineSt.code : LineSt → Nat
  | .i => 0 | .s => 1 | .e => 2 | .o => 3 | .m => 4

end Sys2Proof

namespace Sys2Proof.Machine

/-! ## Attachments (R212, R213)

A node is a hub router r, or 64 + 16n + m for mesh node m of sail n. -/

/-- The router of home h. -/
def homeRouters : List Nat := [0, 9, 7, 14, 63, 54, 56, 49]

/-- The router of flume port n. -/
def flumeRouters : List Nat := [2, 4, 5, 23, 39, 47, 61, 59, 58, 40, 24, 16]

/-- The router of Leavo port k. -/
def leavoRouters : List Nat := [42, 43, 44, 45, 51, 52]

/-- The routers of the turn unit and bolter, the governor port with the hub control space, debug, the miller cores, the mailboxes, the sluice and the PCIe port.
Of the
sluice's two routers its requests enter at the second, as in the example of a swap under traffic. -/
def turnRouter : Nat := 27
def ctlRouter : Nat := 28
def debugRouter : Nat := 29
def millerRouter (k : Nat) : Nat := if k < 4 then 18 else 21
def mbxRouter : Nat := 20
def sluiceRouter : Nat := 36
def pcieRouter : Nat := 34

/-- The nodes of a sail's clusters and L3 slices. -/
def clusterNodes : List Nat := [0, 3, 12, 15]
def sliceNodes : List Nat := [1, 2, 4, 7, 8, 11, 13, 14]

/-- Node `m` of sail `n`. -/
def sailNode (n m : Nat) : Nat := 64 + 16 * n + m

/-- The sail of a node, and the node number there. -/
def nodeSail (v : Nat) : Option Nat := if v < 64 then none else some ((v - 64) / 16)
def nodeNo (v : Nat) : Nat := (v - 64) % 16

/-- The node of flume link `k` in a sail mesh. -/
def linkNode (k : Nat) : Nat := if k = 0 then 5 else 10

/-- The home router of a line, and the slice node of sail `n`. -/
def Block.homeNode (b : Block) (addr : Nat) : Nat := homeRouters.getD (b.homeOf addr) 0
def sliceNode (n slice : Nat) : Nat := sailNode n (sliceNodes.getD slice 1)

/-- Where a master is attached; `addr` names the slice of an L3. -/
def masterNode (mid addr : Nat) : Nat :=
  match sailOf mid with
  | some n =>
    if mid % 32 < 16 then sailNode n (clusterNodes.getD (mid % 32 / 4) 0)
    else if mid % 32 = 16 then sailNode n 6
    else sliceNode n (lineSlice (addr / 64))
  | none =>
    if mid < 0x188 then millerRouter (mid - 0x180)
    else if mid = midGov then ctlRouter
    else if mid = midSluice then sluiceRouter
    else if 0x1B0 ≤ mid && mid < 0x1C0 then pcieRouter
    else if 0x1C0 ≤ mid && mid < 0x1C6 then leavoRouters.getD (mid - 0x1C0) 42
    else if 0x1D0 ≤ mid && mid < 0x1D8 then homeRouters.getD (mid - 0x1D0) 0
    else if mid = midDebug then debugRouter
    else ctlRouter

/-- The node that serves an I/O address. The hub answers for a sail that is not ACTIVE, and for reserved ranges, at its control router. -/
def Block.ioNode (b : Block) (addr : Nat) : Nat :=
  let n := addr / 0x1000000 % 16
  match b.decodePa addr with
  | .scratch => if b.active? n then sailNode n 6 else ctlRouter
  | .sailCtl => if b.active? n then sailNode n 9 else ctlRouter
  | .pcie => pcieRouter
  | .hubCtl => let o := addr % 0x10000000; if 0x700000 ≤ o && o < 0x900000 then mbxRouter else ctlRouter
  | .dram => b.homeNode addr
  | _ => ctlRouter

/-! ## Opcodes (R214) -/

/-- Opcodes of snoops. -/
def SnpKind.opcode : SnpKind → Nat
  | .shared => 0x10 | .unique => 0x11 | .once => 0x12 | .inv => 0x13

/-- The channel of an opcode (0 REQ, 1 SNP, 2 RSP, 3 DAT), and none for a code that the table does not list. -/
def opChannel (c : Nat) : Option Nat :=
  if 0x01 ≤ c && c ≤ 0x09 then some 0
  else if 0x10 ≤ c && c ≤ 0x14 then some 1
  else if 0x18 ≤ c && c ≤ 0x1C then some 2
  else if 0x1D ≤ c && c ≤ 0x1F then some 3
  else if c = 0x20 || c = 0x21 then some 0
  else if c = 0x22 then some 2
  else if c = 0x30 then some 1
  else if c = 0x31 then some 2
  else none

/-- Opcodes of requests (R16). -/
def isRequest (c : Nat) : Bool := (1 ≤ c && c ≤ 9) || c = 0x20 || c = 0x21

/-! ## Class (R218) -/

/-- The class of a master's requests. The table names no class for the dressers: TC1 (DESIGN CHOICE). -/
def masterClass (mid : Nat) : Nat :=
  if mid < 0x180 then 1
  else if mid < 0x1A0 then 2
  else if mid = midDebug then 0
  else 1

/-- The class of a request as it leaves its sender: TC0 for a prefetch, else its master's. -/
def Block.reqClass (b : Block) (mid txid : Nat) : Nat :=
  match b.reqOf mid txid with
  | some r => if r.pf then 0 else masterClass mid
  | none => masterClass mid

/-- The class of a transaction's other messages: TC3 once its request travels so (R230). -/
def Block.txClass (b : Block) (mid txid : Nat) : Nat :=
  match b.reqOf mid txid with
  | some r => if r.tc3 then 3 else b.reqClass mid txid
  | none => masterClass mid

/-- The master of the open transaction that a snoop answer belongs to. -/
def Block.askedBy (b : Block) (n txid addr : Nat) : Nat :=
  match b.coh.txns.find? (fun t => t.line = addr / 64 && t.txid = txid) with
  | some t => t.mid
  | none => midL3 n

/-! ## Packets (R214, R216) -/

/-- A packet with the node that sends it and the one it goes to. -/
structure Trip where
  src : Nat
  dst : Nat
  pkt : Pkt
deriving DecidableEq, Repr

/-- A packet of an opcode: its channel, and whether a data flit follows. -/
def mkPkt (op tc mid : Nat) (o : Out) : Pkt :=
  { tc := tc, ch := (opChannel op).getD 0, opcode := op, mid := mid, msg := o, dflit := 0x1D ≤ op && op ≤ 0x1F }

/-- PART with PV. -/
def partField (p : Nat) : Option Nat := if p < 64 then some p else none

/-- The head payload of a BInv. -/
def bcastPayload (c : Bcast) (domain : Nat) : Nat :=
  let kind : Nat := match c.kind with | .sfenceVma => 0 | .hfenceVvma => 1 | .hfenceGvma => 2 | .sinvalVma => 3 | .hinvalVvma => 4 | .hinvalGvma => 5 | _ => 0
  kind + ofBool c.addr.isSome * 2 ^ 3 + ofBool c.asid.isSome * 2 ^ 4 + (c.addr.getD 0 % 2 ^ 64) * 2 ^ 5 + (c.asid.getD 0 % 2 ^ 16) * 2 ^ 69
    + (c.vmid.getD 0 % 2 ^ 14) * 2 ^ 85 + domain % 64 * 2 ^ 99

/-- A message as a packet. -/
def Block.tripOf (b : Block) (o : Out) : Option Trip :=
  let home := b.homeNode
  match o with
  | .request k mid part txid a way =>
    some ⟨masterNode mid a, home a, { mkPkt k.opcode (b.reqClass mid txid) mid o with part := partField part, txid := txid, addr := a, arg := if k = .rdShared || k = .rdUnique then way else 0 }⟩
  | .wrData mid part txid a d m p =>
    some ⟨masterNode mid a, home a, { mkPkt 0x1F (b.txClass mid txid) mid o with part := partField part, txid := txid, addr := a, poison := p, payload := m, line := d }⟩
  | .snoop n k mid part txid a =>
    some ⟨home a, sliceNode n (lineSlice (a / 64)), { mkPkt k.opcode (b.txClass mid txid) mid o with part := partField part, txid := txid, addr := a, ord := true }⟩
  | .tagRead n slice set =>
    some ⟨homeRouters.getD slice 0, sliceNode n slice, { mkPkt 0x14 1 (midL3 n) o with addr := slice * 64 + set * 512, ord := true }⟩
  | .tagResp n slice set tags =>
    some ⟨sliceNode n slice, homeRouters.getD slice 0,
      { mkPkt 0x19 1 (midL3 n) o with addr := slice * 64 + set * 512, payload := Config.tagBits (tags.map fun t => (t.line, t.way, t.st.code)) }⟩
  | .snpResp n part txid a st d e =>
    let mid := b.askedBy n txid a
    some ⟨sliceNode n (lineSlice (a / 64)), home a,
      { mkPkt 0x18 (b.txClass mid txid) mid o with part := partField part, txid := txid, addr := a, arg := st.code, data := d, evicting := e }⟩
  | .snpData n part txid a d p =>
    let mid := b.askedBy n txid a
    some ⟨sliceNode n (lineSlice (a / 64)), home a,
      { mkPkt 0x1D (b.txClass mid txid) mid o with part := partField part, txid := txid, addr := a, poison := p, line := d }⟩
  | .comp mid part txid a =>
    some ⟨home a, masterNode mid a, { mkPkt 0x1A (b.txClass mid txid) mid o with part := partField part, txid := txid, addr := a, ord := o.ord.isSome }⟩
  | .compData mid part txid a st d p =>
    some ⟨home a, masterNode mid a,
      { mkPkt 0x1E (b.txClass mid txid) mid o with part := partField part, txid := txid, addr := a, arg := st.code, poison := p, ord := o.ord.isSome, line := d }⟩
  | .evictAck n part txid a =>
    some ⟨home a, sliceNode n (lineSlice (a / 64)), { mkPkt 0x1B (b.txClass (midL3 n) txid) (midL3 n) o with part := partField part, txid := txid, addr := a, ord := true }⟩
  | .retry mid part txid a k =>
    some ⟨home a, masterNode mid a, { mkPkt 0x1C (b.txClass mid txid) mid o with part := partField part, txid := txid, addr := a, arg := k, ord := o.ord.isSome }⟩
  | .ioReq mid part a w v =>
    some ⟨masterNode mid a, b.ioNode a,
      { mkPkt (if v.isSome then 0x21 else 0x20) (masterClass mid) mid o with part := part, addr := a, arg := Nat.log2 w, payload := v.getD 0 }⟩
  | .ioComp mid txid a e v =>
    some ⟨b.ioNode a, masterNode mid a, { mkPkt 0x22 (masterClass mid) mid o with txid := txid, addr := a, err := e, payload := v }⟩
  | .binv n src id =>
    let pay := match (b.hart src).bcasts.find? (fun c => c.id = id) with
      | some c => bcastPayload c c.domain
      | none => 0
    some ⟨ctlRouter, sailNode n 9, { mkPkt 0x30 2 src o with txid := id % 4096, payload := pay }⟩
  | .binvAck n src id => some ⟨sailNode n 9, masterNode src 0, { mkPkt 0x31 2 src o with txid := id % 4096 }⟩
  | _ => none

/-- The header of a packet (R214). The check bits are a SEC-DED code that the spec does not give. -/
def Pkt.header (p : Pkt) : Nat :=
  let w := p.tc % 4 + p.age % 64 * 2 ^ 2 + p.epoch % 2 * 2 ^ 8 + p.ch % 4 * 2 ^ 9 + p.opcode % 64 * 2 ^ 11 + p.drouter % 64 * 2 ^ 17 + p.dport % 8 * 2 ^ 23
    + p.dnode % 16 * 2 ^ 26 + p.nxt % 8 * 2 ^ 30 + p.mid % 512 * 2 ^ 33 + p.part.getD 0 % 64 * 2 ^ 42 + ofBool p.part.isSome * 2 ^ 48 + p.txid % 4096 * 2 ^ 49
    + p.addr % 2 ^ 48 * 2 ^ 61 + ofBool p.poison * 2 ^ 109 + ofBool p.dflit * 2 ^ 110 + p.arg % 16 * 2 ^ 111 + ofBool p.data * 2 ^ 115 + ofBool p.evicting * 2 ^ 116
    + ofBool p.err * 2 ^ 117 + ofBool p.ord * 2 ^ 118
  w + Config.headerCheck w % 256 * 2 ^ 120

/-- The 512 bits of a flit. -/
def Flit.bits (f : Flit) : Nat := if f.body then f.pkt.line % 2 ^ 512 else f.pkt.header + f.pkt.payload % 2 ^ 384 * 2 ^ 128

/-- The last flit of its packet. -/
def Flit.last (f : Flit) : Bool := f.body || !f.pkt.dflit

/-- The virtual channel of a packet: its channel twice, plus 1 for TC3 (R217, R235). -/
def Pkt.vc (p : Pkt) : Nat := 2 * p.ch + ofBool (p.tc = 3)

/-- The flits of a packet, which enter their first queue now. -/
def Pkt.flits (p : Pkt) (now : Nat) : List Flit :=
  { pkt := p, stamp := now } :: (if p.dflit then [{ pkt := p, body := true, stamp := now }] else [])

/-- The same message with its data poisoned (R215). -/
def Out.poisoned : Out → Out
  | .wrData mid part txid a d m _ => .wrData mid part txid a d m true
  | .snpData n part txid a d _ => .snpData n part txid a d true
  | .compData mid part txid a st d _ => .compData mid part txid a st d true
  | o => o

/-- A sail in reset holds no packet, and its links no frame. -/
def Block.netReset (n : Nat) (b : Block) : Block :=
  let there (v : Nat) : Bool := nodeSail v = some n
  { b with
    mesh := { b.mesh with links := b.mesh.links.filter fun e => e.1 / 4 ≠ n }
    net := { b.net with
      ins := b.net.ins.filter fun e => !there (e.1 / 64)
      outs := b.net.outs.filter fun e => !there (e.1 / 8)
      src := b.net.src.filter fun e => !there (e.1 / 8)
      br := b.net.br.filter fun e => !there (e.1 / 16) } }

/-! ## Flume links that carry traffic -/

/-- Is link `k` of sail `n` up? -/
def Block.linkUp (b : Block) (n k : Nat) : Bool := if k = 0 then b.isSet FLM_STATUS_UP0 n else k = 1 && b.isSet FLM_STATUS_UP1 n

/-- The link that carries a packet: PA[6] XOR PA[12] with an address, else link 0; with one link up, that one (R236). -/
def Block.linkFor (b : Block) (n : Nat) (addr : Option Nat) : Nat :=
  let k := match addr with | some a => xorN (bits a 6 6) (bits a 12 12) | none => 0
  if b.linkUp n k then k else 1 - k

/-- The address that a packet bears: broadcasts and their acknowledgements bear none. -/
def Pkt.addr? (p : Pkt) : Option Nat := if p.opcode = 0x30 || p.opcode = 0x31 then none else some p.addr

/-- A packet as its sender fills it: a sail addresses its packets only by ADDR, MID and opcode, and they first go to the link's node; a hub block fills DROUTER
and DPORT, and DNODE toward a sail (R216). -/
def Trip.filled (t : Trip) (b : Block) : Pkt :=
  match nodeSail t.src, nodeSail t.dst with
  | some n, _ => { t.pkt with outward := true, dport := b.linkFor n t.pkt.addr?, dnode := linkNode (b.linkFor n t.pkt.addr?) }
  | none, some n => { t.pkt with drouter := flumeRouters.getD n 2, dport := b.linkFor n t.pkt.addr?, dnode := nodeNo t.dst }
  | none, none => { t.pkt with drouter := t.dst }

end Sys2Proof.Machine
end

