-- ==== Sys2Proof/Machine/PowerOps.lean ====
section
/-! DEFINITION. Power: calibration values (R459), regulator frames (R494, R495), operating points (R78, R79, R503-R505), energy (R506-R508), the
throttle (R511-R513) and temperature (R509, R514). -/

namespace Sys2Proof.Machine

/-! ## Calibration (R459) -/

/-- The factory value, lower limit or upper limit (k = 1, 2, 3) of element `j` of item `n`, from OTP. -/
def Block.calFactory (b : Block) (n j k : Nat) : Int := SMap.get 0 (n * 256 + 3 * j + k) b.otp.cal

/-- The user delta D of the active image. -/
def Block.calDelta (b : Block) (n j : Nat) : Int := toSigned 32 (b.actN (0x6800 + n) (2 * j + 1))

/-- The effective value E. -/
def Block.calEff (b : Block) (n j : Nat) : Int :=
  min (max (b.calFactory n j 1 + b.calDelta n j) (b.calFactory n j 2)) (b.calFactory n j 3)

/-- F + D lies outside its limits (R460). -/
def Block.calClamped (b : Block) (n j : Nat) : Bool :=
  let x := b.calFactory n j 1 + b.calDelta n j
  x < b.calFactory n j 2 || b.calFactory n j 3 < x

/-- How many elements a calibration item has. -/
def calElems (n : Nat) : Nat := match n with | 0 => 20 | 1 => 1 | 2 => 72 | 3 => 16 | 4 => 12 | 5 => 16 | _ => 0

/-! ## Regulators -/

/-- VDD_SAILn of an operating point in mV (R78). -/
def opMv (op : Nat) : Nat := match op with | 0 => 550 | 1 => 550 | 2 => 600 | 3 => 650 | 4 => 750 | _ => 850

/-- The VID of sail `n` at an operating point (R494, R495): nearest 2.5 mV, clamped to 0.55 V to 0.85 V. -/
def Block.sailVid (b : Block) (n op : Nat) : Nat :=
  let x : Int := (opMv op : Int) + b.calEff 4 n - 400
  (min (max ((4 * x + 5) / 10) 60) 180).toNat

/-- The voltage of sail `n` in units of 0.5 mV. -/
def Block.sailHalfMv (b : Block) (n op : Nat) : Nat := 800 + 5 * b.sailVid n op

/-- The 24 bits of a regulator frame with its CRC-8 (R494). -/
def vrWord (rail vid : Nat) (en : Bool) : Nat :=
  let hi := rail % 16 * 16 + ofBool en * 8
  hi * 65536 + vid % 256 * 256 + crc8 [BitVec.ofNat 8 hi, BitVec.ofNat 8 vid]

/-- Send the frame of a sail's rail. A fused position gets no frame with EN = 1 (R495). -/
def Block.vrSend (n vid : Nat) (en : Bool) (b : Block) : Block :=
  if en && b.isSet GOV_SAILSTAT_FUSED n then b
  else
    let f := vrWord n vid en
    { b with pwr := { b.pwr with frames := SMap.set 0 n f b.pwr.frames } } |>.emit (.vrFrame f)

/-- EN = 0 for a sail that is held out or LOST (R495). -/
def Block.vrOff (n : Nat) (b : Block) : Block := b.vrSend n 0 false

/-- EN = 1 at an operating point. -/
def Block.vrOn (n op : Nat) (b : Block) : Block := b.vrSend n (b.sailVid n op) true

/-- Resend the frame of every rail that is on (R494). -/
def Block.vrResend (b : Block) : Block :=
  b.forL (b.pwr.frames.filter (fun e => bit e.2 19)) (fun e b => b.emit (.vrFrame e.2))

/-! ## Operating points -/

/-- A sail has a pinned core, an enabled binding, or a core in a spare group (R503). -/
def Block.sailInUse (b : Block) (n : Nat) : Bool :=
  b.harts.any (fun e => e.1 / 32 = n && e.2.pin.isSome)
    || (List.range 16).any (fun i => b.isSet MST_BCFG_EN n i)
    || (List.range 16).any (fun g => let w := b.actN 0x3500 (g + 1); w % 16 = n && w / 65536 ≠ 0)

/-- The planned OP (R503). -/
def Block.plannedOp (b : Block) (n : Nat) : Nat :=
  let base := b.get PWR_PLAN_BASE n
  if b.sailInUse n then max base 1 else base

/-- The operating point of sail `n` for the turn that starts (R503, R505, R511, R514). -/
def Block.decideOp (b : Block) (n : Nat) : Nat :=
  if b.dev = .safeHold || b.dev = .service || b.dev = .configWait then 1
  else
    let p := b.plannedOp n
    if bit (b.get PWR_PLAN_BOOSTMASK n) (b.turn % 16) && b.get PWR_STATUS_THRLVL = 0 then max p (b.get PWR_PLAN_BOOST n) else p

/-- The harts of a sail go on after OP 0; a fence that came meanwhile empties their TLBs and paging-structure caches (R79). -/
def Block.wakeSail (n : Nat) (b : Block) : Block :=
  let f := (b.sail n).op0Fence
  b.mapHarts (fun h t =>
      if h / 32 ≠ n then t
      else if f then { t with opStop := false, itlb := [], dtlb := [], tlb := [], psc := [], gpsc := [] }
      else { t with opStop := false })
    |>.modSail n (fun s => { s with op0 := 0, op0Fence := false })

/-- Take an operating point at a boundary (R78, R79, R504): a rise waits for its rail, a fall lowers the clocks at once; RAMP is 1 until the rail has
settled at what its regulator was last told. -/
def Block.applyOp (n op : Nat) (b : Block) : Block :=
  let cur := b.get SAIL_OP_CUR n
  let s := b.sail n
  let b := b.put SAIL_OP_TARGET op n
  if op = 0 then
    if cur = 0 || s.op0 ≠ 0 then b
    else
      b.mapHarts (fun h t => if h / 32 = n && t.run then { t with opStop := true } else t)
        |>.modSail n (fun s => { s with op0 := 1 }) |>.leaveOn n
  else
    let b := if s.op0 = 1 then b.wakeSail n else b
    let told : Bool := SMap.get 0 n b.pwr.frames = vrWord n (b.sailVid n op) true
    if op = cur then (if b.isSet SAIL_OP_RAMP n && !told then b.vrOn n op else b)
    else if b.sailVid n cur < b.sailVid n op then (b.when (!told) (Block.vrOn n op)).put SAIL_OP_RAMP 1 n
    else
      let b := b.put SAIL_OP_CUR op n |>.put SAIL_OP_RAMP (ofBool (b.isSet SAIL_OP_RAMP n || b.sailVid n op < b.sailVid n cur)) n
        |>.when (!told) (Block.vrOn n op)
      if s.op0 = 2 then b.wakeSail n else b

/-- The decision of every ACTIVE sail at a boundary, in ascending order (R504). -/
def Block.decideOps (b : Block) : Block :=
  b.forN 12 fun n b => if b.active? n then b.applyOp n (b.decideOp n) else b

/-! ## Energy (R506-R508). Unit: 10 fJ. -/

/-- A charge scaled by the square of the sail's voltage over 0.65 V. -/
def Block.scaledCharge (b : Block) (ch p : Nat) : Nat :=
  let c := SMap.get 0 (ch * 64 + p) b.pwr.charge
  if ch < 12 then
    let v := b.sailHalfMv ch (b.get SAIL_OP_CUR ch)
    c * (v * v) / (1300 * 1300)
  else c

/-- Add energy to an account: whole microjoules are answered, the remainder is carried (R508). -/
def Block.settleUj (key units : Nat) (b : Block) : Nat × Block :=
  let t := SMap.get 0 key b.pwr.rem + units
  (t / 100000000, { b with pwr := { b.pwr with rem := SMap.set 0 key (t % 100000000) b.pwr.rem } })

/-- The measured energy of channel `r` after the gain of calibration item 5, from the raw integral in nJ. -/
def Block.measured (b : Block) (raw : List (Nat × Nat)) (r : Nat) : Nat :=
  let e : Int := ((List.lookup r raw).getD 0 * 100000 : Nat)
  (e * (1000000 + b.calEff 5 r) / 1000000).toNat

/-- Package energy of the turn. -/
def Block.packageEnergy (b : Block) (raw : List (Nat × Nat)) : Nat := (List.range 16).foldl (fun a r => a + b.measured raw r) 0

/-- The energy of partition `p`: each charge, reduced in proportion where a channel measured less than was charged (R507). -/
def Block.partEnergy (b : Block) (raw : List (Nat × Nat)) (p : Nat) : Nat :=
  (List.range 16).foldl (fun a r =>
    if r = 13 then a
    else
      let c := b.scaledCharge r p
      let tot := (List.range 64).foldl (fun s q => s + b.scaledCharge r q) 0
      let e := b.measured raw r
      a + (if tot ≤ e then c else c * e / tot)) 0

/-- Latch the energy of the ending turn (R508). -/
def Block.latchEnergy (raw : List (Nat × Nat)) (b : Block) : Block :=
  let pkg := b.packageEnergy raw
  let es := (List.range 64).map (fun p => b.partEnergy raw p)
  let sum := es.foldl (· + ·) 0
  let b' := b.forN 16 (fun r c =>
    let (u, c) := c.settleUj (256 + r) (b.measured raw r)
    c.put PWR_RAILE_UJ u r)
  let (u, b') := b'.settleUj 512 pkg
  let b' := b'.put PWR_PKGE_UJ u
  let acct (p e : Nat) (c : Block) : Block :=
    let (u, c) := c.settleUj p e
    c.put PWR_PEN_UJ u p |>.put PWR_PCUM_UJ ((c.get PWR_PCUM_UJ p + u) % 2 ^ 64) p
  let b' := b'.forN 64 (fun p c => acct p (es.getD p 0) c) |> acct 64 (pkg - sum)
  { b' with pwr := { b'.pwr with charge := [] } }

/-! ## Temperature and throttle -/

/-- The lowest and highest readings that a working sensor gives, in 0.125 °C (R509). -/
def tempLow : Int := -440
def tempHigh : Int := 1280

/-- The highest reading of sensor `s` in this turn; a failed sensor counts as the throttle temperature (R509). -/
def Block.turnTemp (b : Block) (s : Nat) : Option Int :=
  if b.isSet PWR_TEMP_FAILED s then some ((b.actN 0x2610 2 : Int) * 8)
  else List.lookup s b.pwr.tmax

/-- The turn is over its limits, or clear (R513); `pkg` is its package energy in 10 fJ, `ns` its period. -/
def Block.turnOver (b : Block) (pkg ns : Nat) : Bool :=
  b.actN 0x2610 1 * ns * 100000 < pkg
    || (List.range 20).any (fun s => match b.turnTemp s with | some t => (b.actN 0x2610 2 : Int) * 8 ≤ t | none => false)
def Block.turnClear (b : Block) (pkg ns : Nat) : Bool :=
  decide (pkg * 100 ≤ 95 * b.actN 0x2610 1 * ns * 100000)
    && (List.range 20).all (fun s => match b.turnTemp s with | some t => t ≤ ((b.actN 0x2610 2 : Int) - 5) * 8 | none => true)

/-- TJMAX and TJSENS: the highest reading of the turn, and its sensor. -/
def Block.latchTemp (b : Block) : Block :=
  let best := b.pwr.tmax.foldl (fun (a : Option (Nat × Int)) e => match a with
    | none => some e
    | some m => if m.2 < e.2 then some e else a) none
  (match best with
    | some (s, t) => b.put PWR_STATUS_TJMAX (ofSigned 8 (t / 8)) |>.put PWR_STATUS_TJSENS s
    | none => b)

/-- The throttle evaluation of the turn that ends (R513). -/
def Block.throttle (pkg ns : Nat) (b : Block) : Block :=
  let l := b.get PWR_STATUS_THRLVL
  let above := b.turnOver pkg ns
  let b := if l ≠ 0 then b.inc PWR_THRCNT_TURNS else b
  let full := if above && l = 4 then b.pwr.over4 + 1 else 0
  let b := { b with pwr := { b.pwr with over4 := full, over4Logged := b.pwr.over4Logged && full ≠ 0 } }
  let b := if full = 64 && !b.pwr.over4Logged then
      { b with pwr := { b.pwr with over4Logged := true } }.raise { code := 0x3D03 } else b
  if above then
    let b := { b with pwr := { b.pwr with clear := 0 } }
    if l = 0 then b.put PWR_STATUS_THRLVL 1 |>.note { code := 0x1D01 }
    else b.put PWR_STATUS_THRLVL (min 4 (l + 1))
  else if b.turnClear pkg ns && l ≠ 0 then
    if b.actN 0x2610 4 ≤ b.pwr.clear + 1 then
      let b := { b with pwr := { b.pwr with clear := 0 } }.put PWR_STATUS_THRLVL (l - 1)
      if l = 1 then b.note { code := 0x0D02 } else b
    else { b with pwr := { b.pwr with clear := b.pwr.clear + 1 } }
  else { b with pwr := { b.pwr with clear := 0 } }

end Sys2Proof.Machine
end

