-- ==== Sys2Proof/Machine/Loss.lean ====
section
/-! DEFINITION. A sail is declared LOST (R104, R205, R291), with everything that follows in the hub. -/

namespace Sys2Proof.Machine

/-- A sail held in reset: its harts, caches, millstone and maintenance engine lose their state (R98, R103, R142); the disabled-way map is
reapplied (R102). -/
def Block.resetSail (n : Nat) (b : Block) : Block :=
  let b := { b with
    harts := b.harts.filter (fun e => e.1 / 32 ≠ n)
    ms := { b.ms with cleans := b.ms.cleans.filter (fun e => e.2 ≠ n), cleaning := b.ms.cleaning.filter (fun e => e.2 ≠ n) } }
  let b := b.modSail n (fun s => { disMap := s.disMap })
    |>.mstReset n |>.netReset n
    |>.setR .SAIL_COREDIS 0 n |>.setR .SAIL_ERRSTAT 0 n
    |>.setR .L3_MNT_STATUS 0 n |>.setR .L3_MNT_CTL 0 n |>.setR .L3_MNT_BASE 0 n |>.setR .L3_MNT_LIMIT 0 n
    |>.forN 16 (fun i b => b.setR .MST_BCFG 0 n i |>.setR .MST_BBUDGET 0 n i |>.setR .MST_BUSED 0 n i |>.setR .MST_BPREV 0 n i |>.setR .MST_BSTAT 0 n i)
    |>.put SAIL_OP_CUR 3 n |>.put SAIL_OP_TARGET 3 n |>.put SAIL_OP_RAMP 0 n
  let b := { b with imsic := b.imsic.filter (fun e => !(decide ((sailCtl + n * sailStride) / 4096 ≤ e.1) && decide (e.1 < (sailCtl + (n + 1) * sailStride) / 4096))) }
  b.forN 8 fun s b =>
    let m := maskOf 16 (fun w => (b.sail n).disMap.contains (s * 16 + w))
    b.put L3_WAYDIS_DIS m n s |>.put L3_WAYDIS_COUNT (popcount 16 m) n s

/-- Outstanding broadcasts no longer wait for the harts of a sail that left ACTIVE (R129). -/
def Block.ackForSail (n : Nat) (b : Block) : Block :=
  b.mapHarts (fun _ u =>
    { u with bcasts := (u.bcasts.map (fun c => { c with targets := c.targets.filter (fun t => t / 32 ≠ n) })).filter (fun c => !c.targets.isEmpty) })

/-- The hub completes the requests in flight to scratch and control space of sail `n` with an access error (R19): the harts of other sails that
await one take their access fault. -/
def Block.failInFlight (n : Nat) (b : Block) : Block :=
  let there (w : IoWait) : Bool :=
    (scratchBase + n * sailStride ≤ w.addr && w.addr < scratchBase + (n + 1) * sailStride) ||
      (sailCtl + n * sailStride ≤ w.addr && w.addr < sailCtl + (n + 1) * sailStride)
  b.forL (b.harts.filterMap fun e => if e.1 / 32 = n then none else e.2.io.map fun w => (e.1, w)) fun e b =>
    b.when (there e.2) fun b =>
      b.modHart e.1 (fun t => { t with io := none }) |>.ioRetired e.1
        |>.takeTrap e.1 { cause := match e.2.dst with | some _ => 5 | none => 7, tval := e.2.va }

/-- A sail position enters LOST (R104): it counts, and its regulator is turned off (R495). -/
def Block.toLost (n : Nat) (b : Block) : Block :=
  b.put GOV_SAILSTAT_STATE 4 n |>.inc GOV_SAILSTAT_LOSTCNT n |>.vrOff n

/-- Declare an ACTIVE sail LOST with a fault (R104, R205): the sail is held in reset, LOSTCNT counts, POISONING is set, the hub purges it, its
locks are released, and the replicas on it are lost. `cause` is the port's CAUSE (R241, R243). -/
def Block.sailLost (n code cause : Nat) (b : Block) : Block :=
  if !b.active? n then b
  else
    let losers := b.replsOn n 0xFFFF
    let b := b.toLost n |>.put GOV_SAILSTAT_POISONING 1 n
      |>.put FLM_STATUS_LOST 1 n |>.put FLM_STATUS_CAUSE cause n |>.put FLM_STATUS_UP0 0 n |>.put FLM_STATUS_UP1 0 n
      |>.raise { code := code, mid := some (midL3 n), detail := if code = 0x3505 then cause else 0 }
    let b := b.purge n |>.freeLocks (fun m => sailOf m = some n) |>.ackForSail n |>.failInFlight n
    let b := b.forL losers (fun e b => b.replLost e.1 e.2)
    b.abortOnSail n |>.resetSail n

end Sys2Proof.Machine
end

