-- ==== Sys2Proof/Machine/Activation.lean ====
section
/-! DEFINITION. Activations: entry, seal, mark, abandon (R52, R56-R60, R77, R283, R290, R292, R299), partition reset (R304). -/

namespace Sys2Proof.Machine

/-- A restarted SINGLE takes its place on the spare (R299): RESTARTED, RUNNING, 0x070C; its agent is reset (R427). -/
def Block.restartOn (p : Nat) (q : Repair) (b : Block) : Block :=
  b.takePlace p 0 q.group |>.modPart p (fun t => { t with repair := none })
    |>.modRepl p 0 (fun t => { t with nextRestarted := true })
    |>.put BLT_PSTAT_STATE pRunning p |>.note { code := 0x070C } |>.resetAgent p

/-- PARTITION_ENTRY (R52 step 8, R56, R278, R292, R299): at the START of the ENTER slot, and no sooner than the sluice's report, the end of an owner
change (R258) and the end of a catch-up, the replicas are entered; none is entered at or after its mark. -/
def execPartitionEntry (part : Nat) (s : State) : Host.Outcome State Fault Refusal :=
  onBlk s fun b =>
    if 64 ≤ part || !b.outputsOn || !b.partRuns part || (b.enterSlot part).isNone || !b.tu.reported || !b.ms.heldRegions.isEmpty then b
    else
      let b := b.advanceTo (b.startNs part)
      if b.markNs part ≤ b.nowNs then b
      else
        let b := match (b.part part).repair with
          | some q => if q.restore = 3 then b.restartOn part q else b
          | none => b
        b.forN 3 fun r b =>
          let b := b.when (b.catchVoid part r) (Block.giveUpCatch part r)
          if b.mayEnter part r then b.enterRepl part r else b

/-- A line of replica `r`'s image ranges (R281). -/
def Block.inImage (b : Block) (p r line : Nat) : Bool :=
  (List.range 8).any fun w => b.imgBase p w r ≤ line * 64 && line * 64 < b.imgBase p w r + b.imgSize p w

/-- Illegal-instruction exception of a hart. -/
def Block.illegal (h : Nat) (b : Block) : Block := b.takeTrap h { cause := 2, tval := 0 }

/-- A hart seals (R57, R283): its L1 and L2 write the dirty lines of the image into the L3 and it halts; when every hart of the replica has sealed, the
millstone squashes what is left (R165) and the seal clean runs. -/
def Block.sealHart (h p r : Nat) (b : Block) : Block :=
  let wb (l : List PLine) : List PLine := l.map fun c => if b.inImage p r c.line then { c with dirty := false } else c
  let b := b.modHart h fun t => { t with run := false, sealed := true, l1d := wb t.l1d, l2 := wb t.l2 }
  if b.unsealed p r = 0 then b.squashRepl p r true |>.modRepl p r (fun t => { t with sealing := true }) else b

/-- TURNSEAL_WRITE (R57, R59, R60): U and VU modes, and a hart that is not pinned to a running partition, take an illegal-instruction exception. -/
def execTurnsealWrite (sail core value : Nat) (s : State) : Host.Outcome State Fault Refusal :=
  onBlk s fun b =>
    let h := sail * 32 + core
    let t := b.hart h
    if 16 ≤ core || !b.executing h then b
    else match t.pin with
      | none => b.illegal h
      | some (p, r, _) =>
        if t.priv = .u || t.priv = .vu || !b.partRuns p then b.illegal h
        else if value % 2 = 1 then b.sealHart h p r else b

/-- The engine that digests replica `r` of partition `p` (R285). -/
def Block.engOf (b : Block) (p r : Nat) : Nat := (b.actN (0x3000 + p) 6 + r) % 8

/-- A replica whose digest an engine has still to make. -/
def Block.digestDue (b : Block) (p r : Nat) : Bool :=
  let t := b.repl p r
  2 ≤ b.pMode p && (match t.seals.getLast? with
    | some u => !t.digs.any (fun d => d.turn = u) && (match (b.part p).decided with | some v => v < u | none => true)
    | none => false)

/-- The digest that engine `e` takes next: of those due, the one of the earliest mark, then partition, then replica. -/
def Block.engNext (b : Block) (e : Nat) : Option (Nat × Nat) :=
  let l := (List.range 64).flatMap fun p => ((List.range 3).filter fun r => b.digestDue p r && b.engOf p r = e).map fun r => (p, r)
  l.foldl (fun a x => match a with | none => some x | some y => if b.markNs x.1 < b.markNs y.1 then some x else a) none

/-- An idle engine starts on its next digest (R285). -/
def Block.engStart (e : Nat) (b : Block) : Block :=
  if b.blt.engs.any (fun x => x.1 = e) then b
  else match b.engNext e with
    | some (p, r) => { b with blt := { b.blt with engs := b.blt.engs ++ [(e, p, r, ((b.repl p r).seals.getLast?).getD 0)] } }
    | none => b

/-- ENGBUSY follows the engines. -/
def Block.showEng (b : Block) : Block := b.put BLT_STATUS_ENGBUSY (maskOf 8 fun e => b.blt.engs.any fun x => x.1 = e)

/-- The engines start what they may. -/
def Block.runEngs (b : Block) : Block := (b.forN 8 Block.engStart).showEng

/-- Engine `e` ends the digest it makes; the engines take what they may. -/
def Block.endEng (e : Nat) (b : Block) : Block := Block.runEngs { b with blt := { b.blt with engs := b.blt.engs.filter fun y => y.1 ≠ e } }

/-- REPLICA_SEALED (R57, R283, R296 step 5): the dirty lines of the image are written back and stay clean, the seal counts in this turn. -/
def execReplicaSealed (part repl : Nat) (s : State) : Host.Outcome State Fault Refusal :=
  onBlk s fun b =>
    let t := b.repl part repl
    match t.sail with
    | none => b
    | some n =>
      if !t.sealing then b
      else
        let u := b.turn
        b.forL ((b.l3Lines n).filter fun e => e.2.st.dirty && b.inImage part repl e.1) (fun e b => b.cleanLine n e.1 part)
          |>.modRepl part repl (fun t => { t with sealing := false, active := false, seals := (t.seals.filter (· + 1 = u)) ++ [u] })
          |>.modPart part (fun q => { q with sealNew := some u, repair := q.repair.map fun x =>
              if x.restore = 0 && x.src = repl && x.copied then { x with counted := true } else x })
          |>.runEngs

/-- DEADLINE_MARK (R58, R77, R166, R292): every replica that has not sealed in this turn misses its mark. A restart whose restore is not complete waits
for the next turn (R299). -/
def execDeadlineMark (part : Nat) (s : State) : Host.Outcome State Fault Refusal :=
  onBlk s fun b =>
    if 64 ≤ part || (b.markSlot part).isNone then b
    else
      let b := b.advanceTo (b.markNs part)
      let u := b.turn
      let late := (List.range 3).filter fun r =>
        let t := b.repl part r
        (t.active || (b.partRuns part && b.inService part r)) && !(t.sealedIn u) && !(t.missed && t.turn = u)
      let f : FaultSpec := { code := if b.pMode part = 1 then 0x2105 else 0x3106 }
      b.forL late (fun r b => b.missMark part r none) |>.raiseAll (late.map fun _ => f)

/-- ABANDON (R290): a pinned hart writes 1 to BLT_PABANDON. Without a partition, or with one that is not loaded, an access error. -/
def Block.abandonWrite (h value : Nat) (b : Block) : Block :=
  match (b.hart h).pin with
  | none => b.emit .accessError
  | some (p, r, _) =>
    if !b.partLive p then b.emit .accessError
    else if value % 2 = 1 && b.partRuns p && b.inService p r && !(b.repl p r).sealedIn b.turn && !((b.repl p r).missed && (b.repl p r).turn = b.turn)
      then b.missMark p r (some { code := 0x2706, mid := some h }) else b

def execAbandonRepl (sail core value : Nat) (s : State) : Host.Outcome State Fault Refusal :=
  onBlk s fun b => if 16 ≤ core || !b.executing (sail * 32 + core) then b else b.abandonWrite (sail * 32 + core) value

/-- PARTITION_RESET_REQUEST (R304, R500): the partition is HALTED, the state of its harts is cleared, its commands are squashed, its channels emptied and
the locks of its harts released (R431). -/
def Block.partReset (p : Nat) (b : Block) : Block :=
  if !b.partLive p then b
  else
    let hs := (List.range 3).flatMap fun r => b.replHarts p r
    b.haltPart p |>.freeLocks (fun m => hs.contains m)
      |>.forL hs (fun h b => b.modHart h fun t =>
          { t with run := false, priv := .m, pc := 0, sealed := false, x := [], f := [], v := [], csr := t.csr.filter fun c => mLevel c.1
                   itlb := [], dtlb := [], tlb := [], psc := [], gpsc := []
                   resv := none, bcasts := [], nextB := 0, mtip := false, stip := false, vstip := false, io := none })

def execPartitionResetRequest (part : Nat) (s : State) : Host.Outcome State Fault Refusal :=
  onBlk s fun b => if 64 ≤ part then b.answer 0x06090030 else b.partReset part |>.answer 0

end Sys2Proof.Machine
end

