-- ==== Sys2Proof/Machine/Irq.lean ====
section
/-! DEFINITION. Interrupts of harts (R72, R75, R76: Smaia, Ssaia, Sstc, Sscofpmf) and triggers (R72: Sdtrig). What the RISC-V specifications fix and this spec
only names is taken from them. -/

namespace Sys2Proof.Machine

/-! ## Interrupt files (R76) -/

/-- The pages of a hart's files: M level, S level, guest file g. -/
def filePage (h : Nat) (off : Nat) : Nat := (sailCtl + h / 32 * sailStride + off) / 4096
def mFile (h : Nat) : Nat := filePage h (0x800000 + h % 32 * 0x1000)
def sFile (h : Nat) : Nat := filePage h (0xC00000 + h % 32 * 0x8000)
def gFile (h g : Nat) : Nat := filePage h (0xC00000 + h % 32 * 0x8000 + g * 0x1000)

def Block.ifile (b : Block) (page : Nat) : IFile := SMap.get {} page b.imsic
def Block.modFile (page : Nat) (f : IFile → IFile) (b : Block) : Block := { b with imsic := SMap.upd {} page f b.imsic }

/-- The identity that a file presents: the lowest that is pending and enabled, below the threshold where there is one; 0: none. -/
def IFile.top (f : IFile) : Nat :=
  let w := Nat.land f.pend f.en
  if w = 0 then 0
  else match (List.range 2048).find? (fun i => 1 ≤ i && bit w i) with
    | some i => if f.thresh = 0 || i < f.thresh then i else 0
    | none => 0

/-- A file signals its hart. -/
def IFile.signals (f : IFile) : Bool := f.delivery = 1 && f.top ≠ 0

/-- The guest file that hstatus.VGEIN selects. -/
def Block.vgein (b : Block) (h : Nat) : Option Nat :=
  let g := bits (b.csr h csrHstatus) 12 17
  if 1 ≤ g && g ≤ 7 then some (gFile h g) else none

/-- hgeip: the guest files that signal. -/
def Block.hgeip (b : Block) (h : Nat) : Nat := maskOf 8 fun g => 1 ≤ g && (b.ifile (gFile h g)).signals

/-! ## Pending and enabled interrupts -/

/-- CSR numbers of interrupts. -/
def csrMie : Nat := 0x304
def csrMip : Nat := 0x344
def csrMideleg : Nat := 0x303
def csrHideleg : Nat := 0x603
def csrHie : Nat := 0x604
def csrHvip : Nat := 0x645
def csrMenvcfg : Nat := 0x30A
def csrHenvcfg : Nat := 0x60A
def csrSenvcfg : Nat := 0x10A

/-- stimecmp and vstimecmp act (Sstc): menvcfg.STCE, and henvcfg.STCE for VS. -/
def Block.stce (b : Block) (h : Nat) : Bool := bit (b.csr h csrMenvcfg) 63
def Block.vstce (b : Block) (h : Nat) : Bool := b.stce h && bit (b.csr h csrHenvcfg) 63

/-- mip: timer compares, interrupt files, the overflow interrupt, and what software set. -/
def Block.mip (b : Block) (h : Nat) : Nat :=
  let t := b.hart h
  let sw := b.csr h csrMip
  let hv := b.csr h csrHvip
  maskOf 14 fun i => match i with
    | 1 => bit sw 1
    | 2 => bit hv 2
    | 5 => if b.stce h then t.stip else bit sw 5
    | 6 => bit hv 6 || (b.vstce h && t.vstip)
    | 7 => t.mtip
    | 9 => bit sw 9 || (b.ifile (sFile h)).signals
    | 10 => bit hv 10 || (match b.vgein h with | some p => (b.ifile p).signals | none => false)
    | 11 => (b.ifile (mFile h)).signals
    | 12 => Nat.land (b.hgeip h) (b.csr h 0x607) ≠ 0
    | 13 => bit sw 13
    | _ => false

/-- The bits of mie that mie, sie, vsie and hie hold: the M levels, the S levels, the VS levels one place up, and SGEIE. -/
def Block.mie (b : Block) (h : Nat) : Nat :=
  Nat.land (b.csr h csrMie) 0x888 + Nat.land (b.csr h csrSie) 0x2222 + 2 * Nat.land (b.csr h csrVsie) 0x222 + Nat.land (b.csr h csrHie) 0x1000

/-- mideleg: the VS levels and SGEI are always delegated. -/
def Block.mideleg (b : Block) (h : Nat) : Nat := Nat.lor (Nat.land (b.csr h csrMideleg) 0x2222) 0x1444

/-- The order of priority among the interrupts of a level (AIA, default order). -/
def irqOrder : List Nat := [11, 3, 7, 9, 1, 5, 12, 10, 2, 6, 13]

/-- The interrupts of M level, HS level and VS level that are pending and enabled there, as masks of mip. -/
def Block.irqM (b : Block) (h : Nat) : Nat := Nat.land (Nat.land (b.mip h) (b.mie h)) (2 ^ 14 - 1 - b.mideleg h)
def Block.irqVs (b : Block) (h : Nat) : Nat := Nat.land (Nat.land (b.mip h) (b.mie h)) (Nat.land (b.csr h csrHideleg) 0x444)
def Block.irqS (b : Block) (h : Nat) : Nat :=
  let w := Nat.land (Nat.land (b.mip h) (b.mie h)) (b.mideleg h)
  w - Nat.land w (Nat.land (b.csr h csrHideleg) 0x444)

def topIrq (w : Nat) : Option Nat := irqOrder.find? (bit w)

/-- The levels at which a trap is taken. -/
inductive TrapLevel where | m | s | vs
deriving DecidableEq, Repr

/-- The interrupt that a hart takes before its next instruction: level and number. A VS-level interrupt has the number of its S-level twin. -/
def Block.irqNext (b : Block) (h : Nat) : Option (TrapLevel × Nat) :=
  let md := (b.hart h).priv
  let st := b.csr h csrMstatus
  let vst := b.csr h csrVsstatus
  match (if md ≠ .m || bit st 3 then topIrq (b.irqM h) else none) with
  | some i => some (.m, i)
  | none =>
    match (if md = .m then none else if md ≠ .s || bit st 1 then topIrq (b.irqS h) else none) with
    | some i => some (.s, i)
    | none =>
      match (if md = .vu || (md = .vs && bit vst 1) then topIrq (b.irqVs h) else none) with
      | some i => some (.vs, i - 1)
      | none => none

/-- Take an interrupt: as a trap of its level with the interrupt bit of the cause, vectored where the vector base asks for it. -/
def Block.takeIrq (h : Nat) (lv : TrapLevel) (i : Nat) (b : Block) : Block :=
  let vec (c : Nat) : Nat := b.csr h c / 4 * 4 + (if bits (b.csr h c) 0 1 = 1 then 4 * i else 0)
  let b' := match lv with
    | .m => b.trapM h { cause := 2 ^ 63 + i, tval := 0 }
    | .s => b.trapS h { cause := 2 ^ 63 + i, tval := 0 }
    | .vs => b.trapVs h { cause := 2 ^ 63 + i, tval := 0 }
  b'.modHart h fun t => { t with pc := vec (match lv with | .m => csrMtvec | .s => csrStvec | .vs => csrVstvec) }

/-! ## Triggers -/

/-- The session may halt harts and access their registers (R486). -/
def Block.scope (b : Block) (i : Nat) : Bool := b.trust.dbg.open' && bit (b.get DBG_AUTHSTAT_SCOPE) i
def Block.dbgHarts (b : Block) : Bool := b.scope 1 && (!b.outputsOn || b.scope 2)

/-- A hart enters debug mode: dpc and dcsr as Sdext gives them, with the cause. -/
def Block.enterDebug (h cause : Nat) (b : Block) : Block :=
  let t := b.hart h
  let prv := match t.priv with | .m => 3 | .s => 1 | .u => 0 | .vs => 33 | .vu => 32
  b.setCsr h 0x7B1 t.pc |>.setCsr h 0x7B0 (0x40000000 + cause * 64 + prv) |>.modHart h fun t => { t with dbg := true }

/-- Trigger `i` of a hart, and a change of it. -/
def Hart.trigger (t : Hart) (i : Nat) : Trig := SMap.get {} i t.trig
def Block.modTrig (h i : Nat) (f : Trig → Trig) (b : Block) : Block := b.modHart h fun t => { t with trig := SMap.upd {} i f t.trig }

/-- The mode bits of a trigger name a mode; `m`, `s`, `u`, `vs`, `vu` are their places. -/
def trigMode (d : Nat) (p : Priv) (m s u vs vu : Nat) : Bool :=
  match p with | .m => bit d m | .s => bit d s | .u => bit d u | .vs => bit d vs | .vu => bit d vu

/-- An mcontrol6 trigger matches an access of `n` bytes at an address. Chains are not supported: chain reads 0. -/
def Trig.matchAt (d : Trig) (p : Priv) (acc : Acc) (a n : Nat) : Bool :=
  let size := bits d.d1 16 18
  let v := d.d2
  bits d.d1 60 63 = 6 && trigMode d.d1 p 6 4 3 24 23 && bit d.d1 (match acc with | .fetch => 2 | .store => 1 | .load => 0)
    && (size = 0 || 2 ^ (size - 1) = n) && !bit d.d1 21
    && (match bits d.d1 7 10 with
      | 0 => decide (a ≤ v) && decide (v < a + n)
      | 1 => let ones := ((List.range 63).takeWhile fun k => bit v k).length; a / 2 ^ (ones + 1) = v / 2 ^ (ones + 1)
      | 2 => v ≤ a
      | 3 => a < v
      | 4 => Nat.land (bits a 0 31) (bits v 32 63) = bits v 0 31
      | 5 => Nat.land (bits a 32 63) (bits v 32 63) = bits v 0 31
      | _ => false)

/-- What a trigger's action does: 0 a breakpoint exception, which M mode takes only under tcontrol.MTE; 1 debug mode, for a session that may halt harts. The
instruction is not executed. True: the action was taken. -/
def Block.trigAct (h action va : Nat) (b : Block) : Bool × Block :=
  if action = 1 then (if b.dbgHarts then (true, b.enterDebug h 2) else (false, b))
  else if action = 0 && ((b.hart h).priv ≠ .m || bit (b.csr h 0x7A5) 3) then (true, b.takeTrap h { cause := 3, tval := va })
  else (false, b)

/-- The mcontrol6 triggers of a hart on an access, before it: the first that matches acts and records its hit. -/
def Block.trigAccess (h : Nat) (acc : Acc) (a n : Nat) (b : Block) : Bool × Block :=
  let t := b.hart h
  match t.trig.find? (fun e => e.2.matchAt t.priv acc a n) with
  | some e => (b.modTrig h e.1 fun d => { d with d1 := setBits d.d1 22 22 1 }).trigAct h (bits e.2.d1 12 15) a
  | none => (false, b)

/-- The icount triggers of a hart as it starts an instruction: one that has fired acts; the others count down in their modes. -/
def Block.trigCount (h : Nat) (b : Block) : Bool × Block :=
  let t := b.hart h
  let counts (d : Trig) : Bool := bits d.d1 60 63 = 3 && trigMode d.d1 t.priv 9 7 6 26 25
  match t.trig.find? (fun e => (counts e.2 || bits e.2.d1 60 63 ≠ 3) && e.2.pend) with
  | some e => (b.modTrig h e.1 fun d => { d with pend := false, d1 := if bits d.d1 60 63 = 3 then setBits d.d1 24 24 1 else d.d1 }).trigAct h (bits e.2.d1 0 5) 0
  | none =>
    (false, b.modHart h fun t => { t with trig := SMap.mapV {} (fun _ d =>
      if counts d && bits d.d1 10 23 ≠ 0 then { d with d1 := setBits d.d1 10 23 (bits d.d1 10 23 - 1), pend := bits d.d1 10 23 = 1 } else d) t.trig })

/-- The trap triggers of a hart that took a trap from mode `p`: itrigger on an interrupt, etrigger on an exception. They act before the handler's first
instruction. -/
def Block.trigTrap (h : Nat) (p : Priv) (irq : Bool) (cause : Nat) (b : Block) : Block :=
  b.modHart h fun t => { t with trig := SMap.mapV {} (fun _ d =>
    if bits d.d1 60 63 = (if irq then 4 else 5) && trigMode d.d1 p 9 7 6 12 11 && bit d.d2 cause then { d with pend := true } else d) t.trig }

/-! ## The start of an instruction -/

/-- A hart that may take its next instruction: it executes, and no fence or I/O access holds it. -/
def Block.ready (b : Block) (h : Nat) : Bool :=
  b.executing h && !(b.hart h).bcasts.any (·.waits) && (b.hart h).io.isNone

/-- A hart executes an instruction `f`. Before it an interrupt that is pending and enabled is taken, or a trigger acts; the instruction is then not executed. -/
def Block.instr (h : Nat) (f : Block → Block) (b : Block) : Block :=
  if !b.ready h then b
  else match b.irqNext h with
    | some (lv, i) => (b.takeIrq h lv i).trigTrap h (b.hart h).priv true i
    | none =>
      match b.trigCount h with
      | (true, b) => b
      | (false, b) => f b

/-- An access of an instruction: the triggers on it, then `f`. -/
def Block.access (h : Nat) (acc : Acc) (va n : Nat) (f : Block → Block) (b : Block) : Block :=
  match b.trigAccess h acc va n with
  | (true, b) => b
  | (false, b) => f b

/-- An exception of an instruction, with the triggers on it. -/
def Block.except (h : Nat) (t : Trap) (b : Block) : Block := (b.takeTrap h t).trigTrap h (b.hart h).priv false t.cause

end Sys2Proof.Machine
end

