-- ==== Sys2Proof/Machine/Csr.lean ====
section
/-! DEFINITION. CSR accesses of harts (R59, R60, R71, R72, R75, R114, R115, R123, R126, R127). What the RISC-V specifications fix is taken from them. -/

namespace Sys2Proof.Machine

/-- All ones of 64 bits. -/
def ones64 : Nat := 2 ^ 64 - 1

/-- The time CSR: the device time base in units of 10 ns (R75). -/
def Block.timeCsr (b : Block) : Nat := b.timeNs / 10

/-- The supervisor CSRs that VS mode reaches under the same number. -/
def vsAlias (n : Nat) : Nat :=
  if n = 0x100 || n = 0x104 || n = 0x105 || n = 0x141 || n = 0x142 || n = 0x143 || n = 0x144 || n = 0x14D || n = 0x180 || n = 0x140
    || n = 0x150 || n = 0x151 || n = 0x15C || n = 0xDB0
  then n + 0x100 else n

/-- The block, xnlctl, broadcast and cause CSRs of R115. -/
def xnlCsr (n : Nat) : Bool := (0x5C0 ≤ n && n ≤ 0x5FF) || (0x9C1 ≤ n && n ≤ 0x9CF)

/-- The exception that an access to a CSR raises in a mode: none, 2 illegal instruction, 22 virtual instruction. -/
def csrTrap (md : Priv) (n : Nat) (write : Bool) : Option Nat :=
  if xnlCsr n then
    match md with
    | .m => none | .s => none
    | .vs => if n = 0x9C4 && !write then none else some 22
    | .u => some 2 | .vu => some 2
  else if n = csrTurnseal then (match md with | .u => some 2 | .vu => some 2 | _ => none)
  else if n = csrPkr then none
  else if write && n / 1024 = 3 then some 2
  else
    let need := n / 256 % 4
    match md with
    | .m => none
    | .s => if need = 3 then some 2 else none
    | .u => if need = 0 then none else some 2
    | .vs => if need = 3 then some 2 else if need = 2 then some 22 else none
    | .vu => if need = 0 then none else if need = 3 then some 2 else some 22

/-- The exception of a CSR that an enable guards: the counters under mcounteren, hcounteren and scounteren, the timer compares under STCE, satp and
hgatp under TVM and VTVM, seed under mseccfg and never by a read alone, the IMSIC CSRs of VS under VGEIN. -/
def Block.csrGuard (b : Block) (h n : Nat) (write : Bool) : Option Nat :=
  let md := (b.hart h).priv
  let user := decide (md = .u) || decide (md = .vu)
  if n = 0x15 then
    (if !write then some 2
     else match md with
      | .m => none
      | .s => if bit (b.csr h 0x747) 9 then none else some 2
      | .u => if bit (b.csr h 0x747) 8 then none else some 2
      | _ => if bit (b.csr h 0x747) 9 then some 22 else some 2)
  else if md = .m then none
  else if 0xC00 ≤ n && n ≤ 0xC1F then
    (if !bit (b.csr h 0x306) (n - 0xC00) then some 2
     else if isV md && !bit (b.csr h 0x606) (n - 0xC00) then some 22
     else if user && !bit (b.csr h 0x106) (n - 0xC00) then some (if isV md then 22 else 2)
     else none)
  else if n = csrStimecmp || n = csrVstimecmp then
    (if !b.stce h then some 2 else if md = .vs && !b.vstce h then some 22 else none)
  else if n = csrSatp || n = csrHgatp then
    (if md = .s && bit (b.csr h csrMstatus) 20 then some 2 else if md = .vs && bit (b.csr h csrHstatus) 20 then some 22 else none)
  else if md = .vs && (n = 0x15C || (n = 0x151 && 0x70 ≤ b.csr h 0x250)) && (b.vgein h).isNone then some 22
  else none

/-! ## The interrupt files behind the CSRs (R72, R76) -/

/-- The file of the miselect, siselect or vsiselect registers. -/
def Block.fileFor (b : Block) (h : Nat) (lv : TrapLevel) : Option Nat :=
  match lv with | .m => some (mFile h) | .s => some (sFile h) | .vs => b.vgein h

/-- An IMSIC register of a file by its select number. -/
def IFile.reg (f : IFile) (sel : Nat) : Nat :=
  if sel = 0x70 then f.delivery else if sel = 0x72 then f.thresh
  else if 0x80 ≤ sel && sel < 0xC0 then bits f.pend (32 * (sel / 2 * 2 - 0x80)) (32 * (sel / 2 * 2 - 0x80) + 63)
  else if 0xC0 ≤ sel && sel < 0x100 then bits f.en (32 * (sel / 2 * 2 - 0xC0)) (32 * (sel / 2 * 2 - 0xC0) + 63)
  else 0
def IFile.setReg (f : IFile) (sel v : Nat) : IFile :=
  if sel = 0x70 then { f with delivery := if v = 1 then 1 else 0 } else if sel = 0x72 then { f with thresh := v % 2048 }
  else if 0x80 ≤ sel && sel < 0xC0 then
    { f with pend := Nat.land (setBits f.pend (32 * (sel / 2 * 2 - 0x80)) (32 * (sel / 2 * 2 - 0x80) + 63) v) (2 ^ 2048 - 2) }
  else if 0xC0 ≤ sel && sel < 0x100 then
    { f with en := Nat.land (setBits f.en (32 * (sel / 2 * 2 - 0xC0)) (32 * (sel / 2 * 2 - 0xC0) + 63) v) (2 ^ 2048 - 2) }
  else f

/-- The select register of a level. -/
def iselOf : TrapLevel → Nat
  | .m => 0x350 | .s => 0x150 | .vs => 0x250

/-- mireg, sireg, vsireg: an IMSIC register of the level's file; the priority array reads 0. -/
def Block.iregRead (b : Block) (h : Nat) (lv : TrapLevel) : Nat :=
  match b.fileFor h lv with | some p => (b.ifile p).reg (b.csr h (iselOf lv)) | none => 0
def Block.iregWrite (h : Nat) (lv : TrapLevel) (v : Nat) (b : Block) : Block :=
  match b.fileFor h lv with | some p => b.modFile p fun f => f.setReg (b.csr h (iselOf lv)) v | none => b

/-- mtopei, stopei, vstopei; a write of one takes the identity that it shows out of the file. -/
def Block.topei (b : Block) (h : Nat) (lv : TrapLevel) : Nat :=
  match b.fileFor h lv with | some p => (b.ifile p).top * 65537 | none => 0
def Block.claim (h : Nat) (lv : TrapLevel) (b : Block) : Block :=
  match b.fileFor h lv with | some p => b.modFile p fun f => { f with pend := f.pend - Nat.land f.pend (2 ^ f.top) } | none => b

/-- mtopi, stopi, vstopi: the interrupt of the level with the highest priority, at priority 1. -/
def topiOf (w shift : Nat) : Nat := match topIrq w with | some i => (i - shift) * 65536 + 1 | none => 0

/-! ## Timers (R75) -/

/-- The compares of a hart against time. -/
def Block.timers (h : Nat) (b : Block) : Block :=
  let now := b.timeCsr
  b.modHart h fun t => { t with
    mtip := decide (b.getR .CLU_MTIMECMP (h / 32) (h % 32 / 4) (h % 4) ≤ now)
    stip := decide (b.csr h csrStimecmp ≤ now)
    vstip := decide (b.csr h csrVstimecmp ≤ (now + b.csr h 0x605) % 2 ^ 64) }

/-! ## Reads and writes -/

/-- The partition and replica of a hart pinned to a running partition. -/
def Block.runningPin (b : Block) (h : Nat) : Option (Nat × Nat) :=
  match (b.hart h).pin with
  | some (p, r, _) => if b.partRuns p then some (p, r) else none
  | none => none

/-- The value that a hart reads in a CSR. -/
def Block.csrRead (b : Block) (h n : Nat) : Nat :=
  let t := b.hart h
  let k := if t.priv = .vs then vsAlias n else n
  if k = 0xCC0 then b.turn
  else if k = 0xCC1 then b.nowNs
  else if k = 0xCC2 then (match t.pin with | some (p, _, _) => b.markNs p | none => 0)
  else if k = 0xCC3 then (match b.runningPin h with | some (p, _) => p | none => ones64)
  else if k = 0xCC4 then (match t.pin with | some (p, r, _) => r + 4 * (if b.xpkg p then b.otp.pkg else 0) | none => 0)
  else if k = 0xCC5 then b.periodNs
  else if k = 0xCC6 then (match t.pin with | some (p, r, _) => (b.repl p r).entry | none => 0)
  else if k = 0xCC7 then 0
  else if k = csrTurnseal then (match t.pin with | some (p, r, _) => b.unsealed p r | none => 0)
  else if k = 0x9C4 && t.priv = .vs then b.csr h csrVsxnlcause
  else if k = 0xC01 then b.timeCsr
  else if k = 0xC00 then b.csr h 0xB00
  else if k = 0xC02 then b.csr h 0xB02
  else if 0xC03 ≤ k && k ≤ 0xC0A then b.csr h (k - 0x100)
  else if 0xC0B ≤ k && k ≤ 0xC1F then 0
  else if 0xB0B ≤ k && k ≤ 0xB1F then 0
  else if k = 0xF13 then b.get FLM_CAPWORD_REV (h / 32)
  else if k = 0xF14 then h
  else if k = 0x100 then Nat.land (b.csr h csrMstatus) sstatusMask
  else if k = csrMip then b.mip h
  else if k = csrMie then b.mie h
  else if k = csrMideleg then b.mideleg h
  else if k = 0x144 then Nat.land (Nat.land (b.mip h) (b.mideleg h)) 0x2222
  else if k = csrSie then Nat.land (Nat.land (b.mie h) (b.mideleg h)) 0x2222
  else if k = 0x244 then Nat.land (b.mip h) (Nat.land (b.csr h csrHideleg) 0x444) / 2
  else if k = csrVsie then Nat.land (b.mie h) (Nat.land (b.csr h csrHideleg) 0x444) / 2
  else if k = 0x644 then Nat.land (b.mip h) 0x1444
  else if k = csrHie then Nat.land (b.mie h) 0x1444
  else if k = 0xE12 then b.hgeip h
  else if k = 0x351 then b.iregRead h .m
  else if k = 0x151 then b.iregRead h .s
  else if k = 0x251 then b.iregRead h .vs
  else if k = 0x35C then b.topei h .m
  else if k = 0x15C then b.topei h .s
  else if k = 0x25C then b.topei h .vs
  else if k = 0xFB0 then topiOf (b.irqM h) 0
  else if k = 0xDB0 then topiOf (b.irqS h) 0
  else if k = 0xEB0 then topiOf (b.irqVs h) 1
  else if k = 0xDA0 then maskOf 11 fun i => 3 ≤ i && bit (b.csr h (0x320 + i)) 63
  else if k = 0x7A1 then (t.trigger (b.csr h 0x7A0)).d1
  else if k = 0x7A2 then (t.trigger (b.csr h 0x7A0)).d2
  else if k = 0x7A4 then 0x1000078
  else if k = 0x15 then 2 ^ 31 + Config.entropy b.free % 2 ^ 16
  else b.csr h k

/-- The largest value of the vendor CSRs' writable bits. -/
def xnlMask (n : Nat) : Nat :=
  if n = csrBcastctl then 3 else if n = csrInvdom then 0x803F else if n = csrXnlctl then 0x37
  else if n = 0x9C4 || n = csrXnladdr || 0x9C7 ≤ n && n ≤ 0x9CF then 0 else if n = csrVsxnlcause then 0xFF
  else ones64

/-- A translation mode that the harts support (R72): Bare, Sv39, Sv48. -/
def xlateMode (v : Nat) : Bool := bits v 60 63 = 0 || bits v 60 63 = 8 || bits v 60 63 = 9

/-- The bits of mip that a write reaches: SSIP, STIP where no compare drives it, SEIP and LCOFIP. -/
def Block.mipWrite (h mask v : Nat) (b : Block) : Block :=
  b.setCsr h csrMip (b.csr h csrMip - Nat.land (b.csr h csrMip) mask + Nat.land v mask)

/-- A write of the selected trigger's tdata1 or tdata2. The types are mcontrol6, icount, itrigger and etrigger; any other value disables the trigger; dmode is
the debugger's. -/
def Block.trigWrite (h : Nat) (first : Bool) (v : Nat) (b : Block) : Block :=
  let t := b.hart h
  let i := b.csr h 0x7A0
  if bit (t.trigger i).d1 59 && !t.dbg then b
  else
    let ty := bits v 60 63
    let v' := if t.dbg then v else setBits v 59 59 0
    b.modTrig h i fun d =>
      if first then { d with d1 := if ty = 6 then setBits v' 11 11 0 else if 3 ≤ ty && ty ≤ 5 then v' else 15 * 2 ^ 60, pend := false }
      else { d with d2 := v }

/-- The write of a legal CSR access. -/
def Block.csrPut (h n v : Nat) (b : Block) : Block :=
  let k := if (b.hart h).priv = .vs then vsAlias n else n
  if xnlCsr k then
    (if k = 0x9C4 || k = csrXnladdr || (0x9C7 ≤ k && k ≤ 0x9CF) then b else b.setCsr h k (Nat.land v (xnlMask k)))
  else if k = csrPkr then b.setCsr h k (v % 2 ^ 32)
  else if k = 0x100 then
    let m := b.csr h csrMstatus
    b.setCsr h csrMstatus (m - Nat.land m sstatusMask + Nat.land v sstatusMask)
  else if k = csrMstatus then b.setCsr h k (setBits v 32 35 10)
  else if k = 0x301 || (0xCC0 ≤ k && k ≤ 0xCC7) then b
  else if k = csrSatp || k = csrVsatp || k = csrHgatp then (if xlateMode v then b.setCsr h k v else b)
  else if k = csrMip then b.mipWrite h (if b.stce h then 0x2202 else 0x2222) v
  else if k = 0x144 then b.mipWrite h (Nat.land (Nat.land (b.csr h csrMideleg) 0x2222) 0x2002) v
  else if k = 0x244 then b.setCsr h csrHvip (setBits (b.csr h csrHvip) 2 2 (if bit (b.csr h csrHideleg) 2 then bits v 1 1 else bits (b.csr h csrHvip) 2 2))
  else if k = csrMie then
    b.setCsr h csrMie (Nat.land v 0x888) |>.setCsr h csrSie (Nat.land v 0x2222) |>.setCsr h csrVsie (Nat.land v 0x444 / 2) |>.setCsr h csrHie (Nat.land v 0x1000)
  else if k = csrSie then let m := Nat.land (b.csr h csrMideleg) 0x2222; b.setCsr h csrSie (b.csr h csrSie - Nat.land (b.csr h csrSie) m + Nat.land v m)
  else if k = csrVsie then
    let m := Nat.land (b.csr h csrHideleg) 0x444 / 2; b.setCsr h csrVsie (b.csr h csrVsie - Nat.land (b.csr h csrVsie) m + Nat.land v m)
  else if k = csrHie then b.setCsr h csrVsie (Nat.land v 0x444 / 2) |>.setCsr h csrHie (Nat.land v 0x1000)
  else if k = 0x644 then b.setCsr h csrHvip (setBits (b.csr h csrHvip) 2 2 (bits v 2 2))
  else if k = csrHvip then b.setCsr h k (Nat.land v 0x444)
  else if k = csrMideleg then b.setCsr h k (Nat.land v 0x2222)
  else if k = csrHideleg then b.setCsr h k (Nat.land v 0x444)
  else if k = 0x607 then b.setCsr h k (Nat.land v 0xFE)
  else if k = 0xE12 || k = 0xFB0 || k = 0xDB0 || k = 0xEB0 || k = 0xDA0 || k = 0x7A4 || k = 0x15 then b
  else if k = csrStimecmp || k = csrVstimecmp || k = 0x605 then (b.setCsr h k v).timers h
  else if k = 0x351 then b.iregWrite h .m v
  else if k = 0x151 then b.iregWrite h .s v
  else if k = 0x251 then b.iregWrite h .vs v
  else if k = 0x35C then b.claim h .m
  else if k = 0x15C then b.claim h .s
  else if k = 0x25C then b.claim h .vs
  else if k = 0x7A0 then (if v < 8 then b.setCsr h k v else b)
  else if k = 0x7A1 || k = 0x7A2 then b.trigWrite h (k = 0x7A1) v
  else if 0xB0B ≤ k && k ≤ 0xB1F then b
  else if 0x3A0 ≤ k && k ≤ 0x3A3 then (if b.csr h k / 2 ^ 7 % 2 = 1 then b else b.setCsr h k v)
  else if 0x3B0 ≤ k && k ≤ 0x3BF then (if bit (b.pmpCfg h (k - 0x3B0)) 7 then b else b.setCsr h k v)
  else b.setCsr h k v

/-- A hart accesses a CSR: the exception of its mode or of the CSR's guard, turnseal's effect (R57), or the read, into the register `dst`, and the write. -/
def Block.csrAccess (h n dst : Nat) (op : CsrOp) (v : Nat) (b : Block) : Block :=
  let write := decide (op ≠ .read)
  match (csrTrap (b.hart h).priv n write).or (b.csrGuard h n write) with
  | some c => b.except h { cause := c, tval := 0 }
  | none =>
    let old := b.csrRead h n
    let new := match op with | .set => Nat.lor old v | .clear => old - Nat.land old v | _ => v
    if n = csrTurnseal then
      match b.runningPin h with
      | none => b.illegal h
      | some (p, r) => (b.setX h dst old).when (write && new % 2 = 1) (Block.sealHart h p r)
    else (b.when write (Block.csrPut h n new)).when (n = 0x15) Block.tickFree |>.setX h dst old

end Sys2Proof.Machine
end

