-- ==== Sys2Proof/Machine/HartRows.lean ====
section
/-! DEFINITION. The rows of harts: loads, stores, AMOs, fetches, cache-block operations (R72-R74, R83-R88, R110-R126), fences and broadcasts (R128-R131),
timers (R75). A load or store that misses the L3 issues its request and waits: it completes when it is taken again after its CompData. -/

namespace Sys2Proof.Machine

/-! ## Registers -/

/-- Write a loaded value of `w` bytes to a register (numbered as in LOAD). -/
def Block.setDst (h dst w v : Nat) (signed : Bool) (b : Block) : Block :=
  if dst < 32 then b.setX h dst (if signed then sext w v else v)
  else if dst < 64 then b.modHart h fun t => { t with f := SMap.set 0 (dst - 32) (v + (2 ^ 64 - 2 ^ (8 * w))) t.f }
  else
    let o := dst - 64
    b.modHart h fun t => { t with v := SMap.upd 0 (o / 32 % 32) (fun x => setBits x (8 * (o % 32)) (8 * (o % 32) + 8 * w - 1) v % 2 ^ 256) t.v }

/-- The low `w` bytes of a register. -/
def Block.getSrc (b : Block) (h src w : Nat) : Nat :=
  (if src < 32 then b.xreg h src
   else if src < 64 then SMap.get 0 (src - 32) (b.hart h).f
   else SMap.get 0 ((src - 64) / 32 % 32) (b.hart h).v / 2 ^ (8 * ((src - 64) % 32))) % 2 ^ (8 * w)

/-! ## Loads -/

/-- The hub answers an access error to a core (R18): logged, and a precise access fault. -/
def Block.hartAccessErr (h : Nat) (acc : Acc) (va pa : Nat) (b : Block) : Block :=
  b.note { code := 0x2503, mid := some h, addr := some pa } |>.except h { cause := acc.accessFault, tval := va }

/-- A sail's own traffic reaches the scratch of a sail that is ACTIVE (R18). -/
def Block.scratchOpen (b : Block) (mid pa : Nat) : Bool := b.active? ((pa - scratchBase) / 0x1000000) || mid = midGov || mid = midDebug

/-- A piece of an access, within one line: virtual and physical address, length, PBMT. -/
structure Piece where
  va : Nat
  pa : Nat
  len : Nat
  pbmt : Nat
deriving DecidableEq, Repr

/-- What reading some bytes gives: the bytes, a wait, or a trap with its cause and the address that faulted. -/
inductive Got where
  | bytes (v : Bytes)
  | wait
  | trap (cause va : Nat)
deriving DecidableEq, Repr

/-- The hart's L3 has a request of its own for the line that timed out (R203). -/
def Block.lineTimedOut (b : Block) (n line : Nat) : Bool := b.coh.reqs.any fun r => r.mid = midL3 n && r.line = line && r.timedOut

/-- Read bytes of one line of main memory for a hart: through its caches and the L3, uncached where PBMT says so, or from scratch. -/
def Block.readPiece (h : Nat) (fetch : Bool) (x : Piece) (b : Block) : Got × Block :=
  let n := h / 32
  let line := x.pa / 64
  if b.decodePa x.pa = .scratch then
    let (v, ps, bd) := b.scrRead x.pa x.len
    (if ps || bd then .trap 19 x.va else .bytes v, b)
  else if x.pbmt ≠ 0 then
    let (v, b) := b.readBytes h (b.partNo h) x.pa x.len
    (if v.2 then .trap 19 x.va else .bytes v.1, b)
  else
    let e := b.l3At n line
    if e.st ≠ .i then (if e.poison then .trap 19 x.va else .bytes (e.bytes (x.pa % 64) x.len), b.privUse h line fetch false)
    else if b.lineTimedOut n line then (.trap 19 x.va, b)
    else (.wait, (b.when (!b.l3Busy n line) (Block.privMisses h line fetch)).miss h line false fetch)

/-- Translate every piece of an access; the first trap ends it. -/
def Block.translatePieces (h : Nat) (acc : Acc) (hv : Bool) : List (Nat × Nat) → Block → Tr (List Piece) × Block
  | [], b => (.ok [], b)
  | (va, len) :: r, b =>
    match b.translate h acc hv va with
    | (.trap t, b) => (.trap t, b)
    | (.ok (pa, pbmt), b) =>
      match Block.translatePieces h acc hv r b with
      | (.trap t, b) => (.trap t, b)
      | (.ok l, b) => (.ok ({ va := va, pa := pa, len := len, pbmt := pbmt } :: l), b)

/-- Read the pieces in turn. -/
def Block.readPieces (h : Nat) (fetch : Bool) : List Piece → Block → Got × Block
  | [], b => (.bytes [], b)
  | x :: r, b =>
    match b.readPiece h fetch x with
    | (.bytes v, b) =>
      match Block.readPieces h fetch r b with
      | (.bytes w, b) => (.bytes (v ++ w), b)
      | x => x
    | x => x

/-- Main memory that a core may reach at an address: DRAM, or the scratch of a reachable sail. -/
def Block.mainMem (b : Block) (h pa : Nat) : Bool :=
  match b.decodePa pa with
  | .dram => true
  | .scratch => b.scratchOpen h pa
  | _ => false

/-- Device space, reached by IoRd and IoWr. -/
def ioRegion : Region → Bool
  | .pcie => true | .sailCtl => true | .hubCtl => true | .govWin => true | _ => false

/-- The access of a hart goes to device space: its request leaves, and the hart waits for it. -/
def Block.ioAccess (h : Nat) (acc : Acc) (hv : Bool) (x : Piece) (width : Nat) (wdata : Option Nat) (dst : Option (Nat × Bool)) (b : Block) : Block :=
  b.emit (.ioReq h (b.hartPart h) x.pa width wdata)
    |>.modHart h fun t => { t with io := some { addr := x.pa, va := x.va, width := width, dst := dst, ent := b.tlbUsed h acc hv x.va } }

/-- The trap of element `first` of a fault-only-first vector load shortens vl instead, but for element 0 (R124). -/
def Block.loadTrap (h : Nat) (first : Option Nat) (t : Trap) (b : Block) : Block :=
  match first with
  | some (k + 1) => b.setCsr h 0xC20 (k + 1)
  | _ => b.except h t

/-- The body of a load whose instruction starts. -/
def Block.load (h va width dst : Nat) (signed hv : Bool) (first : Option Nat) (b : Block) : Block :=
  match b.translatePieces h .load hv (pieces va width) with
  | (.trap t, b) => b.loadTrap h first t
  | (.ok l, b) =>
    match l with
    | [] => b
    | x :: _ =>
      if ioRegion (b.decodePa x.pa) then b.ioAccess h .load hv x width none (some (dst, signed))
      else match l.find? (fun x => !b.mainMem h x.pa) with
        | some x => b.note { code := 0x2503, mid := some h, addr := some x.pa } |>.loadTrap h first { cause := 5, tval := x.va }
        | none =>
          match b.readPieces h false l with
          | (.bytes v, b) => b.setDst h dst width (leNat v) signed |>.hpm h 0x86 (if 64 ≤ dst then 1 else 0)
          | (.wait, b) => b
          | (.trap c a, b) => b.loadTrap h first { cause := c, tval := a }

/-- LOAD (R110, R72-R74, R124). `first`: the element number of a fault-only-first vector load. -/
def execLoadOp (sail core va width dst : Nat) (signed hv : Bool) (first : Option Nat) (s : State) : Host.Outcome State Fault Refusal :=
  onBlk s fun b =>
    let h := sail * 32 + core
    if 16 ≤ core then b else b.instr h (Block.access h .load va width (Block.load h va width dst signed hv first))

/-- The body of a fetch: no key check; the bytes come out. -/
def Block.fetch (h va len : Nat) (b : Block) : Block :=
  match b.translatePieces h .fetch false (pieces va len) with
  | (.trap t, b) => b.except h t
  | (.ok l, b) =>
    match l.find? (fun x => !b.mainMem h x.pa) with
    | some x => if ioRegion (b.decodePa x.pa) then b.except h { cause := 1, tval := x.va } else b.hartAccessErr h .fetch x.va x.pa
    | none =>
      match b.readPieces h true l with
      | (.bytes v, b) => b.emit (.data v false)
      | (.wait, b) => b
      | (.trap c a, b) => b.except h { cause := c, tval := a }

/-- INSTRUCTION_FETCH (R110, R124). The count of an icount trigger is that of the instructions' other rows. -/
def execInstructionFetch (sail core va len : Nat) (s : State) : Host.Outcome State Fault Refusal :=
  onBlk s fun b =>
    let h := sail * 32 + core
    if 16 ≤ core || !b.ready h then b
    else match b.irqNext h with
      | some (lv, i) => (b.takeIrq h lv i).trigTrap h (b.hart h).priv true i
      | none => (b.modHart h fun t => { t with pc := va }).access h .fetch va len (Block.fetch h va len)

/-! ## Stores -/

/-- Make a piece of a store writable: its line in M here, or no cached store at all. True: the piece can be written now, or is dropped. -/
def Block.ownPiece (h : Nat) (x : Piece) (b : Block) : Bool × Block :=
  if b.decodePa x.pa ≠ .dram || x.pbmt ≠ 0 || b.lineTimedOut (h / 32) (x.pa / 64) then (true, b) else b.own h (x.pa / 64)

/-- Write one piece; a write whose request timed out is dropped (R203). -/
def Block.writePiece (h : Nat) (x : Piece) (v : Bytes) (b : Block) : Block :=
  if b.decodePa x.pa ≠ .dram then b.scrWrite x.pa v false
  else if x.pbmt ≠ 0 then b.writeBytes h (b.partNo h) x.pa v
  else if (b.l3At (h / 32) (x.pa / 64)).st = .m then b.storeL3 h (x.pa / 64) (x.pa % 64) v
  else b

/-- Write the pieces in turn. -/
def Block.writePieces (h : Nat) : List Piece → Bytes → Block → Block
  | [], _, b => b
  | x :: r, v, b => Block.writePieces h r (v.drop x.len) (b.writePiece h x (v.take x.len))

/-- Store bytes at translated pieces once every line is owned. -/
def Block.storePieces (h : Nat) (l : List Piece) (v : Bytes) (b : Block) : Block :=
  let (ok, b) := l.foldl (fun (a : Bool × Block) x => let (o, c) := a.2.ownPiece h x; (a.1 && o, c)) (true, b)
  if ok then b.writePieces h l v else b

/-- The body of a store whose instruction starts. -/
def Block.store (h va width src : Nat) (hv : Bool) (b : Block) : Block :=
  let v := b.getSrc h src width
  match b.translatePieces h .store hv (pieces va width) with
  | (.trap t, b) => b.except h t
  | (.ok l, b) =>
    match l with
    | [] => b
    | x :: _ =>
      if ioRegion (b.decodePa x.pa) then b.ioAccess h .store hv x width (some v) none
      else match l.find? (fun x => !b.mainMem h x.pa) with
        | some x => b.hartAccessErr h .store x.va x.pa
        | none => b.storePieces h l (leBytes width v)

/-- STORE (R124, R73, R178). -/
def execStoreOp (sail core va width src : Nat) (hv : Bool) (s : State) : Host.Outcome State Fault Refusal :=
  onBlk s fun b =>
    let h := sail * 32 + core
    if 16 ≤ core then b else b.instr h (Block.access h .store va width (Block.store h va width src hv))

/-! ## AMOs and LR/SC -/

/-- The result of an AMO on the old value and the operand, of `w` bytes. -/
def amoValue (op : AmoOp) (w old v : Nat) : Nat :=
  let s (x : Nat) : Int := toSigned (8 * w) x
  match op with
  | .swap => v
  | .add => (old + v) % 2 ^ (8 * w)
  | .xor => xorN old v
  | .and => Nat.land old v
  | .or => Nat.lor old v
  | .min => if s old < s v then old else v
  | .max => if s old < s v then v else old
  | .minu => min old v
  | .maxu => max old v
  | .lr => old
  | .sc => v

/-- LR: read, and reserve the line (R72). -/
def Block.doLr (h : Nat) (x : Piece) (dst : Nat) (b : Block) : Block :=
  match b.readPiece h false x with
  | (.bytes v, b) => b.setDst h dst x.len (leNat v) true |>.modHart h fun t => { t with resv := some (x.pa / 64) }
  | (.wait, b) => b
  | (.trap c a, b) => b.except h { cause := c, tval := a }

/-- SC: the store happens while the reservation holds. -/
def Block.doSc (h : Nat) (x : Piece) (dst v : Nat) (b : Block) : Block :=
  if (b.hart h).resv ≠ some (x.pa / 64) then b.setX h dst 1 |>.modHart h fun t => { t with resv := none }
  else
    let (ok, b) := b.ownPiece h x
    if !ok then b
    else if (b.hart h).resv ≠ some (x.pa / 64) then b
    else b.writePiece h x (leBytes x.len v) |>.setX h dst 0 |>.modHart h fun t => { t with resv := none }

/-- An AMO on a line that the L3 holds in M, or uncached: read, compute, write. -/
def Block.doAmo (h : Nat) (x : Piece) (dst v : Nat) (op : AmoOp) (b : Block) : Block :=
  let (ok, b) := b.ownPiece h x
  if !ok then b
  else match b.readPiece h false x with
    | (.bytes o, b) => b.writePiece h x (leBytes x.len (amoValue op x.len (leNat o) v)) |>.setDst h dst x.len (leNat o) true
    | (.wait, b) => b
    | (.trap c a, b) => b.except h { cause := c, tval := a }

/-- The body of an AMO, LR or SC. DESIGN CHOICE: on a page of DRAM that Svpbmt makes IO every one of them takes an access fault, as on the I/O
ranges of R74, which names the AMOs of no such page. -/
def Block.amo (h va width dst src : Nat) (op : AmoOp) (b : Block) : Block :=
  let acc : Acc := if op = .lr then .load else .store
  if va % width ≠ 0 then b.except h { cause := if op = .lr then 4 else 6, tval := va }
  else match b.translate h acc false va with
    | (.trap t, b) => b.except h t
    | (.ok (pa, pbmt), b) =>
      if b.decodePa pa = .reserved then b.hartAccessErr h acc va pa
      else if b.decodePa pa ≠ .dram || pbmt = 2 then b.except h { cause := acc.accessFault, tval := va }
      else
        let x : Piece := { va := va, pa := pa, len := width, pbmt := pbmt }
        let v := b.getSrc h src width
        match op with
        | .lr => b.doLr h x dst
        | .sc => b.doSc h x dst v
        | _ => b.doAmo h x dst v op

/-- AMO (R72-R74): misaligned accesses and attributes other than those of DRAM fault; LR is checked as a load. -/
def execAmo (sail core va width dst src : Nat) (op : AmoOp) (s : State) : Host.Outcome State Fault Refusal :=
  onBlk s fun b =>
    let h := sail * 32 + core
    if 16 ≤ core then b else b.instr h (Block.access h (if op = .lr then .load else .store) va width (Block.amo h va width dst src op))

/-! ## Cache-block operations (R72) -/

/-- Load causes as the store causes that a cache-block operation reports. -/
def asStore (t : Trap) : Trap :=
  { t with cause := if t.cause = 13 then 15 else if t.cause = 5 then 7 else if t.cause = 21 then 23 else t.cause }

/-- CBO.INVAL: every copy in the package goes, dirty data with it. -/
def Block.invalLine (line : Nat) (b : Block) : Block := b.purgeLine line

/-- Whether a mode may run an instruction: no, with the exception it takes, or yes, with the value of the field that enables it. -/
inductive Gate where
  | no (cause : Nat)
  | yes (v : Nat)
deriving DecidableEq, Repr

/-- A field of menvcfg, henvcfg and senvcfg as it applies to a hart's mode: the exception where it forbids, or the smallest value. -/
def Block.envField (b : Block) (h lo hi : Nat) : Gate :=
  let md := (b.hart h).priv
  let m := bits (b.csr h csrMenvcfg) lo hi
  let v := bits (b.csr h csrHenvcfg) lo hi
  let s := bits (b.csr h csrSenvcfg) lo hi
  match md with
  | .m => .yes (2 ^ (hi + 1 - lo) - 1)
  | .s => if m = 0 then .no 2 else .yes m
  | .u => if m = 0 || s = 0 then .no 2 else .yes (min m s)
  | .vs => if m = 0 then .no 2 else if v = 0 then .no 22 else .yes (min m v)
  | .vu => if m = 0 then .no 2 else if v = 0 || s = 0 then .no 22 else .yes (min m (min v s))

/-- The field that enables a cache-block operation (Zicbom, Zicboz): CBIE, CBCFE, CBZE. Prefetches have none. -/
def Block.cboEnabled (b : Block) (h : Nat) (op : CboOp) : Gate :=
  match op with
  | .inval => b.envField h 4 5
  | .clean | .flush => b.envField h 6 6
  | .zero => b.envField h 7 7
  | .prefetch _ => .yes 1

/-- A prefetch (Zicbop): the line is fetched for the core's caches. One that would fault is dropped (R124). -/
def Block.prefetch (h va : Nat) (acc : Acc) (b : Block) : Block :=
  match b.translate h acc false va with
  | (.trap _, b) => b
  | (.ok (pa, pbmt), b) =>
    if b.decodePa pa ≠ .dram || pbmt ≠ 0 then b
    else if acc = .store then (b.own h (pa / 64)).2
    else if (b.l3At (h / 32) (pa / 64)).st ≠ .i then b.privUse h (pa / 64) (acc = .fetch) false
    else (b.when (!b.l3Busy (h / 32) (pa / 64)) (Block.privMisses h (pa / 64) (acc = .fetch))).miss h (pa / 64) false (acc = .fetch)

/-- The body of a cache-block operation but for prefetches. CBO.INVAL under CBIE = 1 flushes. -/
def Block.cbo (h va : Nat) (op : CboOp) (cbie : Nat) (b : Block) : Block :=
  let asLoad := decide (op = .clean) || decide (op = .flush)
  match b.translate h (if asLoad then .load else .store) false (va / 64 * 64) with
  | (.trap t, b) => b.except h (asStore t)
  | (.ok (pa, pbmt), b) =>
    if b.decodePa pa = .reserved then b.hartAccessErr h .store va pa
    else match op with
      | .zero =>
        if b.mainMem h pa then b.storePieces h [{ va := va, pa := pa, len := 64, pbmt := pbmt }] (List.replicate 64 0)
        else if b.decodePa pa = .scratch then b.hartAccessErr h .store va pa
        else b.except h { cause := 7, tval := va }
      | .clean => if b.decodePa pa = .dram then (b.calm (pa / 64)).forN 12 (fun n b => b.cleanLine n (pa / 64) noPart) else b
      | .inval =>
        if b.decodePa pa ≠ .dram then b
        else if cbie = 1 then b.forN 12 (fun n b => b.dropLine n (pa / 64)) else b.invalLine (pa / 64)
      | _ => if b.decodePa pa = .dram then b.forN 12 (fun n b => b.dropLine n (pa / 64)) else b

/-- CACHE_BLOCK_OPERATION (R72, R73, R124). -/
def execCacheBlockOperation (sail core va : Nat) (op : CboOp) (s : State) : Host.Outcome State Fault Refusal :=
  onBlk s fun b =>
    let h := sail * 32 + core
    if 16 ≤ core then b
    else b.instr h fun b =>
      match b.cboEnabled h op with
      | .no c => b.except h { cause := c, tval := 0 }
      | .yes e => match op with
        | .prefetch k => b.prefetch h va (match k with | .read => .load | .write => .store | .fetch => .fetch)
        | _ => b.cbo h va op e

/-! ## Address-translation fences (R128-R131) -/

/-- Does a fence cover a TLB entry? A fence of stage G covers every entry of its VMID that went through stage G, whatever the address. -/
def fenceCovers (kind : FenceKind) (addr asid vmid : Option Nat) (e : TlbEnt) : Bool :=
  let inAddr := match addr with | none => true | some a => decide (e.vpn ≤ a / 4096) && decide (a / 4096 < e.vpn + e.size)
  let inAsid := match asid with | none => true | some x => !e.glob && decide (e.asid = x)
  let inVmid := match vmid with | none => true | some x => !e.s2 || decide (e.vmid = x)
  match kind with
  | .sfenceVma | .sinvalVma => !e.v && inAddr && inAsid
  | .hfenceVvma | .hinvalVvma => e.v && e.s1 && inAddr && inAsid && inVmid
  | .hfenceGvma | .hinvalGvma => e.v && e.s2 && inVmid
  | .sfenceInvalIr => false

/-- Does a fence cover a paging-structure cache entry? Those of stage G go with the fences of stage G of their VMID. -/
def fenceCoversPsc (kind : FenceKind) (addr asid vmid : Option Nat) (stG : Bool) (e : PscEnt) : Bool :=
  let inAddr := match addr with | none => true | some a => decide (e.tag = a / 4096 / 512 ^ e.lvl)
  let inAsid := match asid with | none => true | some x => !e.glob && decide (e.asid = x)
  let inVmid := match vmid with | none => true | some x => !e.s2 || decide (e.vmid = x)
  match kind with
  | .sfenceVma | .sinvalVma => !stG && !e.v && inAddr && inAsid
  | .hfenceVvma | .hinvalVvma => !stG && e.v && inAddr && inAsid && inVmid
  | .hfenceGvma | .hinvalGvma => e.v && e.s2 && inVmid
  | .sfenceInvalIr => false

/-- Apply a fence to a hart's translation caches. -/
def Block.applyFence (h : Nat) (kind : FenceKind) (addr asid vmid : Option Nat) (b : Block) : Block :=
  let keep (e : TlbEnt) : Bool := !fenceCovers kind addr asid vmid e
  b.modHart h fun t => { t with
    itlb := t.itlb.filter keep, dtlb := t.dtlb.filter keep, tlb := t.tlb.filter keep
    psc := t.psc.filter fun e => !fenceCoversPsc kind addr asid vmid false e
    gpsc := t.gpsc.filter fun e => !fenceCoversPsc kind addr asid vmid true e }

/-- An I/O access that a hart has in flight used an entry that the fence covers (R129). -/
def Block.usesCovered (b : Block) (h : Nat) (c : Bcast) : Bool :=
  match (b.hart h).io with
  | some w => (match w.ent with | some e => fenceCovers c.kind c.addr c.asid c.vmid e | none => false)
  | none => false

/-- The exception that a fence raises in a mode. -/
def fenceTrap (md : Priv) (kind : FenceKind) : Option Nat :=
  let hyp := match kind with | .hfenceVvma | .hfenceGvma | .hinvalVvma | .hinvalGvma => true | _ => false
  match md with
  | .m => none
  | .s => none
  | .u => some 2
  | .vs => if hyp then some 22 else none
  | .vu => some 22

/-- The harts of a hart's invalidation domain on ACTIVE sails, itself apart. -/
def Block.domainOf (b : Block) (h d : Nat) : List Nat :=
  (b.harts.filter fun e => e.1 ≠ h && e.1 % 32 < 16 && b.active? (e.1 / 32)
    && bit (b.csr e.1 csrInvdom) 15 && bits (b.csr e.1 csrInvdom) 0 5 = d).map (·.1)

/-- A hart executes a fence (R128): on its own caches, and, while broadcast is enabled for its mode and it belongs to a domain, on every hart of the domain.
In VS mode the fence is one of the VMID in hgatp. The broadcast goes to every ACTIVE sail (R214). SFENCE.INVAL.IR waits for every earlier broadcast. -/
def Block.fence (h : Nat) (kind : FenceKind) (addr asid vmid : Option Nat) (b : Block) : Block :=
  let md := (b.hart h).priv
  match fenceTrap md kind with
  | some c => b.except h { cause := c, tval := 0 }
  | none =>
    let cur := bits (b.csr h csrHgatp) 44 57
    let kind' : FenceKind := if md = .vs then (match kind with | .sfenceVma => .hfenceVvma | .sinvalVma => .hinvalVvma | k => k) else kind
    let vmid' : Option Nat := match kind' with
      | .hfenceVvma | .hinvalVvma => some cur
      | .hfenceGvma | .hinvalGvma => vmid
      | _ => none
    let b := b.applyFence h kind' addr asid vmid'
    let ctl := b.csr h csrBcastctl
    let dom := b.csr h csrInvdom
    if kind = .sfenceInvalIr then b.modHart h fun t => { t with bcasts := t.bcasts.map fun c => { c with waits := true } }
    else if !((md = .s && bit ctl 0) || (md = .vs && bit ctl 1)) || !bit dom 15 then b
    else
      let ts := b.domainOf h (bits dom 0 5)
      let wait := match kind' with | .sinvalVma | .hinvalVvma | .hinvalGvma => false | _ => true
      let id := (b.hart h).nextB
      let sent : List Bcast := if ts.isEmpty then []
        else [{ id := id, kind := kind', addr := addr, asid := asid, vmid := vmid', domain := bits dom 0 5, targets := ts, waits := wait }]
      b.modHart h (fun t => { t with nextB := id + 1, bcasts := t.bcasts ++ sent })
        |>.forL b.activeSails (fun n b => b.emit (.binv n h id))

/-- SFENCE_VMA (R128, R131). -/
def execSfenceVma (sail core : Nat) (kind : FenceKind) (addr asid vmid : Option Nat) (s : State) : Host.Outcome State Fault Refusal :=
  onBlk s fun b => if 16 ≤ core then b else b.instr (sail * 32 + core) (Block.fence (sail * 32 + core) kind addr asid vmid)

/-- BROADCAST_FENCE (R128): the same instruction while broadcast is enabled. -/
def execBroadcastFence (sail core : Nat) (kind : FenceKind) (addr asid vmid : Option Nat) (s : State) : Host.Outcome State Fault Refusal :=
  onBlk s fun b => if 16 ≤ core then b else b.instr (sail * 32 + core) (Block.fence (sail * 32 + core) kind addr asid vmid)

/-- BINV (R79, R129): the control port of a sail delivers a broadcast to its harts and answers, once no hart has an access in flight that used an entry covered. At OP 0 it answers at once, and the sail's caches are emptied
before its clocks restart. -/
def execBinvMsg (sail src id : Nat) (s : State) : Host.Outcome State Fault Refusal :=
  onBlk s (Block.taking (.binvMsg sail src id) fun b =>
    if !b.active? sail then b
    else match (b.hart src).bcasts.find? (fun c => c.id = id) with
      | none => b.emit (.binvAck sail src id)
      | some c =>
        let ts := c.targets.filter fun t => t / 32 = sail
        let b := b.forL ts fun t b => b.hpm t 0x88 1
        if (b.sail sail).op0 = 2 then b.modSail sail (fun t => { t with op0Fence := true }) |>.emit (.binvAck sail src id)
        else
          let b := b.forL ts fun t b => b.applyFence t c.kind c.addr c.asid c.vmid
          let hold := ts.filter fun t => b.usesCovered t c
          if hold.isEmpty then b.emit (.binvAck sail src id) else b.modSail sail fun t => { t with acks := t.acks ++ [(src, id, hold)] })

/-- Take targets out of a broadcast; one with no target left is complete. -/
def Block.bcastDone (src id : Nat) (f : Nat → Bool) (b : Block) : Block :=
  b.modHart src fun t => { t with
    bcasts := (t.bcasts.map fun c => if c.id = id then { c with targets := c.targets.filter fun x => !f x } else c).filter fun c => !c.targets.isEmpty }

/-- BINV_ACK (R128). -/
def execBinvAck (sail src id : Nat) (s : State) : Host.Outcome State Fault Refusal :=
  onBlk s (Block.taking (.binvAck sail src id) fun b => b.bcastDone src id fun t => t / 32 = sail)

/-- BINV_TIMEOUT (R130): every target that has not acknowledged stops fail-stop with 0x320C, and the broadcast completes. -/
def execBinvTimeout (src id : Nat) (s : State) : Host.Outcome State Fault Refusal :=
  onBlk s fun b =>
    match (b.hart src).bcasts.find? (fun c => c.id = id) with
    | none => b
    | some c => b.forL c.targets (fun t b => { b with gov := { b.gov with binvTimeouts := satInc 16 b.gov.binvTimeouts } }.coreStop t 0x320C [])
        |>.bcastDone src id fun _ => true

/-! ## Timers (R75) -/

/-- TIMER_INTERRUPT: the M-level compare of the cluster and the Sstc compares of the hart against time. -/
def execTimerInterrupt (sail core : Nat) (s : State) : Host.Outcome State Fault Refusal :=
  onBlk s fun b =>
    let h := sail * 32 + core
    if 16 ≤ core || !b.active? sail then b else b.timers h

end Sys2Proof.Machine
end

