-- ==== Sys2Proof/Machine/Iot.lean ====
section
/-! DEFINITION. The hub translation unit (R132-R138). Its register layout, queue entries, directory and cause codes are those of the RISC-V IOMMU 1.0
specification, which R133 names. -/

namespace Sys2Proof.Machine

/-! ## Registers -/

def iotBase : Nat := 0xF000900000

/-- A register of the IOT by its offset in the IOMMU 1.0 layout. -/
def Block.iotG (b : Block) (off : Nat) : Nat := SMap.get 0 (iotBase + off) b.regs
def Block.iotS (off v : Nat) (b : Block) : Block := { b with regs := SMap.set 0 (iotBase + off) v b.regs }

/-- Change the IOT. -/
def Block.modIot (f : Iot → Iot) (b : Block) : Block := { b with iot := f b.iot }

/-- Offsets of the IOMMU 1.0 layout. -/
def ioFctl : Nat := 8
def ioDdtp : Nat := 16
def ioCqb : Nat := 24
def ioCqh : Nat := 32
def ioCqt : Nat := 36
def ioFqb : Nat := 40
def ioFqh : Nat := 48
def ioFqt : Nat := 52
def ioCqcsr : Nat := 72
def ioFqcsr : Nat := 76
def ioIpsr : Nat := 84
def ioInh : Nat := 92
def ioTrIova : Nat := 600
def ioTrCtl : Nat := 608
def ioTrResp : Nat := 616
def ioIcvec : Nat := 760
def ioMsiCfg : Nat := 768

/-- Set an interrupt-pending bit and send its MSI through msi_cfg_tbl (IGS = 0). -/
def Block.iotIrq (k : Nat) (b : Block) : Block :=
  if bit (b.iotG ioIpsr) k then b
  else
    let v := bits (b.iotG ioIcvec) (4 * k) (4 * k + 3)
    let b := b.iotS ioIpsr (b.iotG ioIpsr + 2 ^ k)
    if bit (b.iotG (ioMsiCfg + 16 * v + 12)) 0 then b
    else b.sendMsi midSluice (b.iotG (ioMsiCfg + 16 * v) % 2 ^ 48) (b.iotG (ioMsiCfg + 16 * v + 8))

/-- An identifier matches a filter: exactly, or under DMASK in the bits above the filter's lowest 0 bit. -/
def idMatch (dmask : Bool) (filter id : Nat) : Bool :=
  if !dmask then filter = id
  else
    let k := ((List.range 24).takeWhile fun i => bit filter i).length + 1
    filter / 2 ^ k = id / 2 ^ k

/-- Does a counter's event register select an event of a request: by device, or under IDT by GSCID and PSCID where the event has them? No request has a process. -/
def ioSelects (e ev dev : Nat) (ids : Option (Nat × Nat)) : Bool :=
  bits e 0 14 = ev && ev ≠ 0
    && (if bit e 62 then
          (match ids with
            | some (g, p) => (!bit e 61 || idMatch (bit e 15) (bits e 36 59) g) && (!bit e 60 || bits e 16 35 = p)
            | none => !bit e 61 && !bit e 60)
        else (!bit e 61 || idMatch (bit e 15) (bits e 36 59) dev) && !bit e 60)

/-- Count an event in the counters that select it; one that wraps sets OF and the performance interrupt. -/
def Block.iotEvent (ev dev : Nat) (ids : Option (Nat × Nat)) (b : Block) : Block :=
  b.forN 8 fun k b =>
    let e := b.iotG (352 + 8 * k)
    if !ioSelects e ev dev ids || bit (b.iotG ioInh) (k + 1) then b
    else
      let c := b.iotG (104 + 8 * k) + 1
      let b := b.iotS (104 + 8 * k) (c % 2 ^ 64)
      if c < 2 ^ 64 || bit e 63 then b else b.iotS (352 + 8 * k) (e + 2 ^ 63) |>.iotIrq 2

/-! ## Faults -/

/-- Entries of a queue from its base register. -/
def qEntries (base : Nat) : Nat := 2 ^ (bits base 0 4 + 1)
def qAddr (base : Nat) : Nat := bits base 10 53 * 4096

/-- PID and PV of a fault record. -/
def pidField (pasid : Option Nat) : Nat := match pasid with | some p => p % 2 ^ 20 * 2 ^ 12 + 2 ^ 32 | none => 0

/-- Write a record to the fault queue (R135, R138): a full queue drops it with the overflow bit, logged once. -/
def Block.iotFault (cause dev : Nat) (pasid : Option Nat) (ttyp iova iova2 : Nat) (b : Block) : Block :=
  let csr := b.iotG ioFqcsr
  let base := b.iotG ioFqb
  if !bit csr 16 || bit csr 8 || bit csr 9 then b
  else
    let n := qEntries base
    let t := b.iotG ioFqt
    if (t + 1) % n = b.iotG ioFqh % n then
      b.iotS ioFqcsr (setBits csr 9 9 1) |>.when (!b.iot.ovfLogged) (fun b => b.note { code := 0x29E2 } |>.modIot fun t => { t with ovfLogged := true })
        |>.when (bit csr 1) (fun b => b.iotIrq 1)
    else
      let a := qAddr base + 32 * (t % n)
      if !b.rangeOk a 32 then b.iotS ioFqcsr (setBits csr 8 8 1) |>.note { code := 0x29E0, mid := some midSluice, addr := some a } |>.when (bit csr 1) (fun b => b.iotIrq 1)
      else
        b.writeBytes midSluice noPart a (leBytes 8 (cause + pidField pasid + ttyp % 64 * 2 ^ 34 + dev % 2 ^ 24 * 2 ^ 40) ++ leBytes 8 0 ++ leBytes 8 iova ++ leBytes 8 iova2)
          |>.iotS ioFqt ((t + 1) % n) |>.when (bit csr 1) (fun b => b.iotIrq 1)

/-! ## Translation -/

/-- An error of a translation: cause, and the guest address reported beside it. -/
abbrev IoErr := Nat × Nat

/-- A read of the IOT's own for a request (R119, R134-R136): outside populated DRAM no access is made. -/
def Block.iotMem (mid part : Nat) (acc : Acc) (poison pa n : Nat) (b : Block) : Except IoErr Bytes × Block :=
  if !b.rangeOk pa n then
    (.error (if acc = .store then 7 else 5, 0), b.inc IOT_XSTAT_WNMCNT |>.note { code := 0x29E0, mid := some mid, addr := some pa })
  else
    let (v, b) := b.readBytes mid part pa n
    if v.2 then (.error (poison, 0), b.inc IOT_XSTAT_POISCNT |>.note { code := 0x29E1, mid := some mid, addr := some pa })
    else (.ok v.1, b)

/-- Walk the device directory to the 64-byte context of a device. -/
def Block.ddtWalk (mid part dev : Nat) (acc : Acc) : Nat → Nat → Block → Except IoErr Nat × Block
  | 0, base, b =>
    match b.iotMem mid part acc 268 (base + 64 * (dev % 64)) 64 with
    | (.error e, b) => (.error e, b)
    | (.ok v, b) => (.ok (leNat v), b)
  | lvl + 1, base, b =>
    match b.iotMem mid part acc 268 (base + 8 * (dev / 2 ^ (6 + 9 * lvl) % 512)) 8 with
    | (.error e, b) => (.error e, b)
    | (.ok v, b) =>
      let e := leNat v
      if !bit e 0 then (.error (258, 0), b)
      else if bits e 1 9 ≠ 0 || bits e 54 63 ≠ 0 then (.error (259, 0), b)
      else Block.ddtWalk mid part dev acc lvl (bits e 10 53 * 4096) b

/-- Double word `i` of a context. -/
def dcWord (dc i : Nat) : Nat := bits dc (64 * i) (64 * i + 63)

/-- A valid context that asks for what R133 does not list is misconfigured. -/
def dcBad (dc : Nat) : Bool :=
  let tc := dcWord dc 0
  let g := bits (dcWord dc 1) 60 63
  let f := bits (dcWord dc 3) 60 63
  let m := bits (dcWord dc 4) 60 63
  bits tc 1 3 ≠ 0 || bits tc 6 11 ≠ 0 || bits tc 12 23 ≠ 0 || bits tc 32 63 ≠ 0
    || !(g = 0 || g = 8 || g = 9) || (g ≠ 0 && bits (dcWord dc 1) 0 1 ≠ 0)
    || (if bit tc 5 then f ≠ 0 else !(f = 0 || f = 8 || f = 9)) || 1 < m

/-- The device context of a request, from the cache or the directory (R132-R134). -/
def Block.iotContext (mid part dev : Nat) (acc : Acc) (b : Block) : Except IoErr Nat × Block :=
  match List.lookup dev b.iot.ddc with
  | some dc => (.ok dc, b)
  | none =>
    let p := b.iotG ioDdtp
    let mode := bits p 0 3
    if 0x10100 ≤ dev then (.error (258, 0), b)
    else if (mode = 2 && 64 ≤ dev) || (mode = 3 && 2 ^ 15 ≤ dev) then (.error (260, 0), b)
    else
      match (b.iotEvent 5 dev none).ddtWalk mid part dev acc (mode - 2) (bits p 10 53 * 4096) with
      | (.error e, b) => (.error e, b)
      | (.ok dc, b) =>
        if !bit dc 0 then (.error (258, 0), b)
        else if dcBad dc then (.error (259, 0), b)
        else
          let l := b.iot.ddc
          let l := if l.length < 256 then l else l.eraseIdx (Config.victim b.free 256 % 256)
          (.ok dc, (b.modIot fun t => { t with ddc := l ++ [(dev, dc)] }).tickFree)

/-- Walk the second stage. -/
def Block.iotWalkG (mid part : Nat) (acc : Acc) (gpa : Nat) : Nat → Nat → Bool → Block → Except IoErr Leaf × Block
  | 0, _, _, b => (.error (acc.guestFault, gpa), b)
  | lvl + 1, base, top, b =>
    match b.iotMem mid part acc 274 (base + 8 * (gpa / 4096 / 512 ^ lvl % 2 ^ (if top then 11 else 9))) 8 with
    | (.error e, b) => (.error e, b)
    | (.ok v, b) =>
      let pte := leNat v
      if pteBad pte lvl false then (.error (acc.guestFault, gpa), b)
      else if bit pte 1 || bit pte 3 then
        if !bit pte 6 || (acc = .store && !bit pte 7) then (.error (acc.guestFault, gpa), b) else (.ok (pteLeaf pte lvl gpa false), b)
      else Block.iotWalkG mid part acc gpa lvl (bits pte 10 53 * 4096) false b

/-- The second stage of a guest address; `chk` is the access that it must allow. -/
def Block.iotG2 (mid part : Nat) (acc chk : Acc) (hgatp gpa dev ps : Nat) (b : Block) : Except IoErr Leaf × Block :=
  let mode := bits hgatp 60 63
  if mode = 0 then (.ok { out := gpa, rights := 15 }, b)
  else if 2 ^ (if mode = 8 then 41 else 50) ≤ gpa then (.error (acc.guestFault, gpa), b)
  else
    match (b.iotEvent 8 dev (some (bits hgatp 44 57, ps))).iotWalkG mid part acc gpa (if mode = 8 then 3 else 4) (bits hgatp 0 43 * 4096) true with
    | (.error e, b) => (.error e, b)
    | (.ok l, b) => if gAllows l chk false then (.ok l, b) else (.error (acc.guestFault, gpa), b)

/-- Walk the first stage; each table address passes the second stage. -/
def Block.iotWalkS (mid part : Nat) (acc : Acc) (hgatp iova dev ps : Nat) : Nat → Nat → Block → Except IoErr Leaf × Block
  | 0, _, b => (.error (acc.pageFault, 0), b)
  | lvl + 1, base, b =>
    match b.iotG2 mid part acc .load hgatp (base + 8 * (iova / 4096 / 512 ^ lvl % 512)) dev ps with
    | (.error e, b) => (.error e, b)
    | (.ok l, b) =>
      match b.iotMem mid part acc 274 l.out 8 with
      | (.error e, b) => (.error e, b)
      | (.ok v, b) =>
        let pte := leNat v
        if pteBad pte lvl false then (.error (acc.pageFault, 0), b)
        else if bit pte 1 || bit pte 3 then
          if !bit pte 6 || (acc = .store && !bit pte 7) then (.error (acc.pageFault, 0), b) else (.ok (pteLeaf pte lvl iova false), b)
        else Block.iotWalkS mid part acc hgatp iova dev ps lvl (bits pte 10 53 * 4096) b

/-- The first stage of an address; requests carry user privilege. -/
def Block.iotS1 (mid part : Nat) (acc : Acc) (fsc hgatp iova dev ps : Nat) (b : Block) : Except IoErr Leaf × Block :=
  let mode := bits fsc 60 63
  if mode = 0 then (.ok { out := iova, rights := 15 }, b)
  else if !canonical mode iova then (.error (acc.pageFault, 0), b)
  else
    match (b.iotEvent 7 dev (some (bits hgatp 44 57, ps))).iotWalkS mid part acc hgatp iova dev ps (if mode = 8 then 3 else 4) (bits fsc 0 43 * 4096) with
    | (.error e, b) => (.error e, b)
    | (.ok l, b) => if sAllows l acc true false false then (.ok l, b) else (.error (acc.pageFault, 0), b)

/-- The bits of `a` at the ones of `m`, packed. -/
def extractBits (m a : Nat) : Nat :=
  ((List.range 52).foldl (fun (acc : Nat × Nat) i => if bit m i then (acc.1 + (if bit a i then 2 ^ acc.2 else 0), acc.2 + 1) else acc) (0, 0)).1

/-- A guest page is one of the context's MSI pages. -/
def msiPage (dc gpn : Nat) : Bool :=
  let m := bits (dcWord dc 5) 0 51
  bits (dcWord dc 4) 60 63 = 1 && Nat.lor gpn m = Nat.lor (bits (dcWord dc 6) 0 51) m

/-- Flat MSI translation of a guest page. -/
def Block.iotMsi (mid part : Nat) (acc : Acc) (dc gpn : Nat) (b : Block) : Except IoErr Nat × Block :=
  let a := bits (dcWord dc 4) 0 43 * 4096 + 16 * extractBits (bits (dcWord dc 5) 0 51) gpn
  match b.iotMem mid part acc 270 a 16 with
  | (.error e, b) => (.error e, b)
  | (.ok v, b) =>
    let w := leNat v
    if !bit w 0 then (.error (262, 0), b)
    else if bits w 1 2 ≠ 3 || bits w 3 9 ≠ 0 || bits w 54 127 ≠ 0 then (.error (263, 0), b)
    else (.ok (bits w 10 53), b)

/-- A cached translation that serves a request. -/
def Block.atcHit (b : Block) (dev gscid pscid vpn : Nat) (acc : Acc) : Option IotAtc :=
  b.iot.atc.find? fun e => e.dev = dev && e.gscid.getD gscid = gscid && (e.glob || e.pscid = pscid) && e.vpn = vpn
    && bit e.rights (match acc with | .load => 0 | .store => 1 | .fetch => 2)

/-- Add a translation; a full cache drops one by a choice that the spec leaves open. MSI translations have a cache of their own. -/
def Block.atcAdd (e : IotAtc) (b : Block) : Block :=
  let all := b.iot.atc.filter fun x => !(x.dev = e.dev && x.gscid = e.gscid && x.pscid = e.pscid && x.vpn = e.vpn)
  let same := all.filter fun x => x.msi = e.msi
  let cap := if e.msi then 64 else 2048
  let l := if same.length < cap then all
    else match same[Config.victim b.free cap % cap]? with
      | some v => listErase v all
      | none => all
  (b.modIot fun t => { t with atc := l ++ [e] }).tickFree

/-- Translate the address of a DMA request (R132-R136): the physical address with its PBMT. -/
def Block.iotLookup (dev mid part : Nat) (pasid : Option Nat) (acc : Acc) (iova : Nat) (b : Block) : Except IoErr (Nat × Nat) × Block :=
  let mode := bits (b.iotG ioDdtp) 0 3
  let b := b.iotEvent 1 dev none
  if mode = 0 then (.error (256, 0), b)
  else if mode = 1 then (if pasid.isSome then .error (260, 0) else .ok (iova, 0), b)
  else
    match b.iotContext mid part dev acc with
    | (.error e, b) => (.error e, b)
    | (.ok dc, b) =>
      if pasid.isSome then (.error (260, 0), b)
      else
        let hgatp := dcWord dc 1
        let fsc := if bit (dcWord dc 0) 5 then 0 else dcWord dc 3
        let gs := bits hgatp 44 57
        let ps := bits (dcWord dc 2) 12 27
        match b.atcHit dev gs ps (iova / 4096) acc with
        | some e => (.ok (e.ppn * 4096 + iova % 4096, e.pbmt), b)
        | none =>
          let b := b.iotEvent 4 dev (some (gs, ps))
          match b.iotS1 mid part acc fsc hgatp iova dev ps with
          | (.error e, b) => (.error e, b)
          | (.ok l, b) =>
            let gpn := l.out / 4096
            if msiPage dc gpn then
              match b.iotMsi mid part acc dc gpn with
              | (.error e, b) => (.error e, b)
              | (.ok ppn, b) =>
                (.ok (ppn * 4096 + iova % 4096, 0),
                  b.atcAdd { dev := dev, gscid := some gs, pscid := ps, vpn := iova / 4096, gpn := gpn, ppn := ppn, rights := 2, msi := true })
            else
              match b.iotG2 mid part acc acc hgatp l.out dev ps with
              | (.error e, b) => (.error e, b)
              | (.ok g, b) =>
                let pbmt := if l.pbmt = 0 then g.pbmt else l.pbmt
                let r := Nat.land l.rights g.rights % 8
                (.ok (g.out, pbmt), b.atcAdd { dev := dev, gscid := some gs, pscid := ps, vpn := iova / 4096, gpn := gpn, ppn := g.out / 4096
                                               rights := if l.d && g.d then r else Nat.land r 5, pbmt := pbmt, glob := l.glob })

/-- Translate, and report a fault in the fault queue unless the context disables it (tc.DTF). -/
def Block.iotTranslate (dev mid part : Nat) (pasid : Option Nat) (acc : Acc) (iova : Nat) (b : Block) : Option Nat × Block :=
  match b.iotLookup dev mid part pasid acc iova with
  | (.ok (pa, _), b) => (if pa < 2 ^ 48 then some pa else none, b)
  | (.error (c, v2), b) =>
    let dtf := match List.lookup dev b.iot.ddc with | some dc => bit dc 4 | none => false
    let always := c = 256 || c = 257 || c = 258 || c = 259 || c = 268
    (none, if dtf && !always then b else b.iotFault c dev pasid (match acc with | .fetch => 1 | .load => 2 | .store => 3) iova v2)

/-- IOT_TRANSLATE: the physical address comes out, or an error to the requester (R136). `pasid`: the process of a tagged request. -/
def execIotTranslate (dev mid part : Nat) (pasid : Option Nat) (write exec : Bool) (iova : Nat) (s : State) : Host.Outcome State Fault Refusal :=
  onBlk s fun b =>
    match b.iotTranslate dev mid part pasid (if write then .store else if exec then .fetch else .load) iova with
    | (some pa, b) => b.emit (.value pa)
    | (none, b) => b.emit .accessError

/-! ## The command queue (R137, R138) -/

/-- The 16 bytes of the command at the head of the queue, when the queue runs; a queue outside populated DRAM stops with its memory-fault bit (R135). -/
def Block.iotHead (b : Block) : Option Nat × Block :=
  let csr := b.iotG ioCqcsr
  let base := b.iotG ioCqb
  let n := qEntries base
  if !bit csr 16 || bits csr 8 10 ≠ 0 || b.iot.fence || b.iotG ioCqh % n = b.iotG ioCqt % n then (none, b)
  else
    let a := qAddr base + 16 * (b.iotG ioCqh % n)
    if !b.rangeOk a 16 then
      (none, b.iotS ioCqcsr (setBits csr 8 8 1) |>.note { code := 0x29E0, mid := some midSluice, addr := some a } |>.when (bit csr 1) (fun b => b.iotIrq 0))
    else
      let (v, b) := b.readBytes midSluice noPart a 16
      if v.2 then (none, b.iotS ioCqcsr (setBits csr 8 8 1) |>.when (bit csr 1) (fun b => b.iotIrq 0)) else (some (leNat v.1), b)

/-- The kinds of command. -/
inductive IoCmd where | vma | gvma | fenceC | dir | illegal
deriving DecidableEq, Repr

/-- Decode a command: opcode in [6:0], func3 in [9:7]; reserved bits, a PDT invalidation and a wired-interrupt fence are illegal here. -/
def ioCmd (w : Nat) : IoCmd :=
  let op := bits w 0 6
  let f := bits w 7 9
  if op = 1 && f ≤ 1 then
    (if bits w 34 43 ≠ 0 || bits w 60 73 ≠ 0 || bits w 126 127 ≠ 0 || bit w 11 || (f = 1 && bit w 32) then .illegal else if f = 0 then .vma else .gvma)
  else if op = 2 && f = 0 then (if bit w 11 || bits w 14 31 ≠ 0 || bits w 126 127 ≠ 0 then .illegal else .fenceC)
  else if op = 3 && f = 0 then (if bits w 10 32 ≠ 0 || bits w 34 39 ≠ 0 || bits w 64 127 ≠ 0 then .illegal else .dir)
  else .illegal

/-- The head of the queue moves past its command. -/
def Block.iotNext (b : Block) : Block := b.iotS ioCqh ((b.iotG ioCqh + 1) % qEntries (b.iotG ioCqb))

/-- Run the head command where it is of kind `k`. -/
def Block.iotCmd (k : IoCmd) (f : Nat → Block → Block) (b : Block) : Block :=
  match b.iotHead with
  | (some w, b) => if ioCmd w = k then f w b else b
  | (none, b) => b

/-- IOTINVAL_VMA (R137). -/
def execIotinvalVma (s : State) : Host.Outcome State Fault Refusal :=
  onBlk s fun b => b.iotCmd .vma fun w b =>
    let hit (e : IotAtc) : Bool :=
      (!bit w 33 || e.gscid = some (bits w 44 59)) && (!bit w 32 || (!e.glob && e.pscid = bits w 12 31)) && (!bit w 10 || e.vpn = bits w 74 125)
    b.modIot (fun t => { t with atc := t.atc.filter fun e => !hit e }) |>.iotNext

/-- IOTINVAL_GVMA (R137): translations of the named guest space go, whatever the page. -/
def execIotinvalGvma (s : State) : Host.Outcome State Fault Refusal :=
  onBlk s fun b => b.iotCmd .gvma fun w b =>
    b.modIot (fun t => { t with atc := t.atc.filter fun e => bit w 33 && e.gscid ≠ some (bits w 44 59) }) |>.iotNext

/-- IODIR (R137): device contexts, with the translations made under them. -/
def execIodirCmd (s : State) : Host.Outcome State Fault Refusal :=
  onBlk s fun b => b.iotCmd .dir fun w b =>
    let hit (d : Nat) : Bool := !bit w 33 || d = bits w 40 63
    b.modIot (fun t => { t with ddc := t.ddc.filter fun e => !hit e.1 }) |>.iotNext

/-- IOFENCE_C (R137): the fence reaches the head of the queue and waits. -/
def execIofenceC (s : State) : Host.Outcome State Fault Refusal :=
  onBlk s fun b => b.iotCmd .fenceC fun _ b => b.modIot fun t => { t with fence := true }

/-- IOFENCE_C_COMPLETE (R137): the fence's store happens where it asks for one, and the queue goes on. -/
def execIofenceCComplete (s : State) : Host.Outcome State Fault Refusal :=
  onBlk s fun b =>
    if !b.iot.fence then b
    else
      let b := b.modIot fun t => { t with fence := false }
      match b.iotHead with
      | (none, b) => b
      | (some w, b) =>
        let a := bits w 64 125 * 4
        if !bit w 10 then b.iotNext
        else if (fileOf a).isSome && b.sailServes midSluice ((a - sailCtl) / sailStride) then b.sendMsi midSluice a (bits w 32 63) |>.iotNext
        else if b.rangeOk a 4 then b.writeBytes midSluice noPart a (leBytes 4 (bits w 32 63)) |>.iotNext
        else b.iotS ioCqcsr (setBits (b.iotG ioCqcsr) 8 8 1) |>.note { code := 0x29E0, mid := some midSluice, addr := some a }

/-- IOT_COMMAND_ILLEGAL (R138). -/
def execIotCommandIllegal (s : State) : Host.Outcome State Fault Refusal :=
  onBlk s fun b => b.iotCmd .illegal fun _ b =>
    b.iotS ioCqcsr (setBits (b.iotG ioCqcsr) 10 10 1) |>.note { code := 0x29E3 } |>.when (bit (b.iotG ioCqcsr) 1) (fun b => b.iotIrq 0)

/-! ## Register writes -/

/-- Width in bytes of a register of the layout; 0: no register there. -/
def iotWidth (off : Nat) : Nat :=
  if off = 0 || off = ioDdtp || off = ioCqb || off = ioFqb || off = ioTrIova || off = ioTrCtl || off = ioTrResp || off = ioIcvec then 8
  else if off = ioFctl || off = ioCqh || off = ioCqt || off = ioFqh || off = ioFqt || off = ioCqcsr || off = ioFqcsr || off = ioIpsr || off = 88 || off = ioInh then 4
  else if 96 ≤ off && off < 168 && off % 8 = 0 then 8
  else if 352 ≤ off && off < 416 && off % 8 = 0 then 8
  else if ioMsiCfg ≤ off && off < ioMsiCfg + 256 then (if off % 16 = 0 then 8 else if off % 16 = 8 || off % 16 = 12 then 4 else 0)
  else 0

/-- A queue's control register: enable and interrupt-enable are written, the error bits from 8 clear on a 1 and as the queue is enabled; on follows enable. -/
def queueCtl (old v errs : Nat) : Nat :=
  bits v 0 1 + Nat.land (Nat.land old (errs * 256)) (2 ^ 32 - 1 - Nat.land v (errs * 256)) + bits v 0 0 * 65536

/-- The debug translation interface: a write of tr_req_ctl with Go runs a translation. -/
def Block.trRequest (v : Nat) (b : Block) : Block :=
  if !bit v 0 then b.iotS ioTrCtl v
  else
    let acc : Acc := if bit v 2 then .fetch else if bit v 3 then .load else .store
    let (r, b) := b.iotLookup (bits v 40 63) midSluice noPart (if bit v 32 then some (bits v 12 31) else none) acc (b.iotG ioTrIova / 4096 * 4096)
    b.iotS ioTrCtl (setBits v 0 0 0) |>.iotS ioTrResp (match r with | .ok (pa, pb) => pa / 4096 * 1024 + pb * 128 | .error _ => 1)

/-- Write a register of the IOMMU layout. -/
def Block.iotWrite (off v : Nat) (b : Block) : Block :=
  let w := iotWidth off
  let old := b.iotG off
  if w = 0 || off = 0 || off = ioCqh || off = ioFqt || off = ioTrResp || off = 88 || off = ioFctl then b
  else if off = ioDdtp then (if bits v 0 3 ≤ 4 then b.iotS off (bits v 0 3 + bits v 10 53 * 1024) else b)
  else if off = ioCqcsr then b.iotS off (queueCtl (if bit v 0 && !bit old 0 then bits old 0 7 else old) v 15) |>.when (bit v 0 && !bit old 0) (fun b => b.iotS ioCqh 0)
  else if off = ioFqcsr then
    b.iotS off (queueCtl (if bit v 0 && !bit old 0 then bits old 0 7 else old) v 3) |>.when (bit v 0 && !bit old 0) (fun b => b.iotS ioFqt 0)
      |>.when (bit v 9 || (bit v 0 && !bit old 0)) (fun b => b.modIot fun t => { t with ovfLogged := false })
  else if off = ioIpsr then b.iotS off (Nat.land old (2 ^ 32 - 1 - v % 2 ^ 32))
  else if off = ioTrCtl then b.trRequest v
  else if off = ioCqt then b.iotS off (v % qEntries (b.iotG ioCqb))
  else if off = ioFqh then b.iotS off (v % qEntries (b.iotG ioFqb))
  else b.iotS off (v % 2 ^ (8 * w))

end Sys2Proof.Machine
end

