-- ==== Sys2Proof/Machine/AesGcm.lean ====
section
/-! DEFINITION. AES-256-GCM as R340 names it (FIPS 197, NIST SP 800-38D), on blocks held as big-endian numbers. -/

namespace Sys2Proof.Machine

/-- A product in the field of AES, x^8 + x^4 + x^3 + x + 1. -/
def gfMul (a b : Nat) : Nat :=
  ((List.range 8).foldl (fun (acc : Nat × Nat) i =>
    (if bit b i then xorN acc.1 acc.2 else acc.1,
      if 128 ≤ acc.2 then xorN (acc.2 * 2 % 256) 0x1B else acc.2 * 2)) (0, a)).1

/-- The inverse, x^254 (0 for 0). -/
def gfInv (a : Nat) : Nat :=
  let a2 := gfMul a a
  let a4 := gfMul a2 a2
  let a8 := gfMul a4 a4
  let a16 := gfMul a8 a8
  let a32 := gfMul a16 a16
  let a64 := gfMul a32 a32
  gfMul (gfMul a64 a64) (gfMul (gfMul a64 a32) (gfMul (gfMul a16 a8) (gfMul a4 a2)))

/-- The S-box. -/
def aesSub (x : Nat) : Nat :=
  let y := gfInv x
  let r (n : Nat) : Nat := (y * 2 ^ n) % 256 + y / 2 ^ (8 - n)
  xorN 0x63 (xorN y (xorN (r 1) (xorN (r 2) (xorN (r 3) (r 4)))))

/-- The S-box as a table. -/
def aesTable : Array Nat := ((List.range 256).map aesSub).toArray

/-- The key schedule of a 256-bit key: 60 words, each four bytes. -/
def aesExpand (t : Array Nat) (key : List Nat) : List (List Nat) :=
  let w0 := (List.range 8).map fun i => (key.drop (4 * i)).take 4
  ((List.range 52).foldl (fun (acc : List (List Nat) × Nat) j =>
    let i := j + 8
    let p := acc.1.headD []
    let sub (l : List Nat) : List Nat := l.map (fun x => t.getD x 0)
    let q := if i % 8 = 0 then
        match sub (p.drop 1 ++ p.take 1) with
        | x :: r => xorN x acc.2 :: r
        | [] => []
      else if i % 8 = 4 then sub p else p
    let back := acc.1.getD 7 []
    ((List.zipWith xorN back q) :: acc.1, if i % 8 = 0 then gfMul acc.2 2 else acc.2)) (w0.reverse, 1)).1.reverse

/-- One column of MixColumns. -/
def aesMix (c : List Nat) : List Nat :=
  let g (i : Nat) : Nat := c.getD (i % 4) 0
  (List.range 4).map fun i => xorN (gfMul (g i) 2) (xorN (gfMul (g (i + 1)) 3) (xorN (g (i + 2)) (g (i + 3))))

/-- The cipher on 16 bytes. -/
def aesBlock (t : Array Nat) (ks : List (List Nat)) (m : List Nat) : List Nat :=
  let rk (r : Nat) : List Nat := ((ks.drop (4 * r)).take 4).flatten
  let s0 := List.zipWith xorN m (rk 0)
  (List.range 14).foldl (fun s j =>
    let s1 := s.map (fun x => t.getD x 0)
    let s2 := (List.range 16).map fun i => s1.getD ((i + 4 * (i % 4)) % 16) 0
    let s3 := if j = 13 then s2 else (List.range 4).flatMap fun c => aesMix ((s2.drop (4 * c)).take 4)
    List.zipWith xorN s3 (rk (j + 1))) s0

/-- Bytes as numbers, and back. -/
def bytesNat (b : Bytes) : List Nat := b.map BitVec.toNat
def natBytes (l : List Nat) : Bytes := l.map (BitVec.ofNat 8)

/-- A product in GF(2^128) of GCM: bit 127 of the number is the coefficient of x^0. -/
def ghashMul (x y : Nat) : Nat :=
  ((List.range 128).foldl (fun (acc : Nat × Nat) i =>
    (if bit x (127 - i) then xorN acc.1 acc.2 else acc.1,
      if acc.2 % 2 = 1 then xorN (acc.2 / 2) (0xE1 * 2 ^ 120) else acc.2 / 2)) (0, y)).1

/-- Blocks of 16 bytes, the last padded with zeros. -/
def gcmBlocks : Nat → Bytes → List Nat
  | 0, _ => []
  | n + 1, b => if b.isEmpty then [] else beNat (slice 0 16 b) :: gcmBlocks n (b.drop 16)

/-- The counter stream applied to a text, from counter `c`. -/
def gcmCtr (f : Nat → Nat) (iv : Nat) : Nat → Nat → Bytes → Bytes
  | 0, _, _ => []
  | n + 1, c, b =>
    if b.isEmpty then []
    else (List.zipWith (fun x y => x ^^^ y) (b.take 16) (beBytes 16 (f (iv * 2 ^ 32 + c)))) ++ gcmCtr f iv n (c + 1) (b.drop 16)

/-- The tag over additional data and ciphertext. -/
def gcmTag (f : Nat → Nat) (iv : Nat) (aad ct : Bytes) : Bytes :=
  let h := f 0
  let l := gcmBlocks (aad.length + 1) aad ++ gcmBlocks (ct.length + 1) ct ++ [aad.length * 8 * 2 ^ 64 + ct.length * 8]
  let s := l.foldl (fun y x => ghashMul (xorN y x) h) 0
  beBytes 16 (xorN s (f (iv * 2 ^ 32 + 1)))

/-- The block function of a key, on 128-bit numbers. -/
def aesFun (key : Bytes) : Nat → Nat :=
  let t := aesTable
  let ks := aesExpand t (bytesNat key)
  fun x => beNat (natBytes (aesBlock t ks (bytesNat (beBytes 16 x))))

/-- Encrypt: ciphertext and 16-byte tag, for a 12-byte IV. -/
def gcmSeal (key iv aad pt : Bytes) : Bytes × Bytes :=
  let f := aesFun key
  let n := beNat iv
  let ct := gcmCtr f n (pt.length + 1) 2 pt
  (ct, gcmTag f n aad ct)

/-- Decrypt: the plaintext where the tag verifies. -/
def gcmOpen (key iv aad ct tag : Bytes) : Option Bytes :=
  let f := aesFun key
  let n := beNat iv
  if gcmTag f n aad ct = tag then some (gcmCtr f n (ct.length + 1) 2 ct) else none

end Sys2Proof.Machine
end

