-- ==== Sys2Proof/Machine/LvpOps.lean ====
section
/-! DEFINITION. The Leavo link layer as operations: control blocks and sacks (R312, R313), credits (R317), encryption (R340-R342),
the transmit order (R315), port states, beacons and key exchanges (R326, R482-R484). -/

namespace Sys2Proof.Machine

/-! ## Ports -/

def Block.modLvp (f : Leavo → Leavo) (b : Block) : Block := { b with lvp := f b.lvp }
def Block.port (b : Block) (k : Nat) : Port := SMap.get {} k b.lvp.ports
def Block.modPort (k : Nat) (f : Port → Port) (b : Block) : Block :=
  b.modLvp fun l => { l with ports := SMap.upd {} k f l.ports }

/-- The port states: 0 OFF, 1 TRAIN, 2 ALIGN, 3 INIT, 4 UP. -/
def pOff : Nat := 0
def pTrain : Nat := 1
def pAlign : Nat := 2
def pInit : Nat := 3
def pUp : Nat := 4
def Block.portSt (b : Block) (k : Nat) : Nat := b.get LVP_STATUS_STATE k

/-- The port sends beacons and keepalives (R326, R327). -/
def Block.portTalks (b : Block) (k : Nat) : Bool := k < 6 && pAlign ≤ b.portSt k

/-- Native mode (R307). -/
def Block.native (b : Block) (k : Nat) : Bool := b.get LVP_CFG_MODE k = 0

/-- The device endpoint, and the entry of an endpoint (R334). -/
def Block.devEp (b : Block) : Nat := b.actN 0x4020 1
def Block.ept (b : Block) (f : Fld) (e : Nat) : Nat := b.get f e

/-- A fault of a port: its master ID is the source. -/
def lvpFault (code k : Nat) (detail : Nat := 0) : FaultSpec := { code := code, mid := some (0x1C0 + k), detail := detail }

/-- Count `n` events of LVP_CNTi. -/
def Block.cnt (k i n : Nat) (b : Block) : Block := b.put LVP_CNT_COUNT (satAdd 32 (b.get LVP_CNT_COUNT k i) n) k i

/-- Count a discard that no counter of the port names. -/
def Block.discard (k : Nat) (b : Block) : Block := b.modPort k fun p => { p with discards := p.discards + 1 }

/-! ## Blocks -/

/-- The CRC-16 of R312. -/
def crc16 (v : Bytes) : Nat := crcL 16 0x1021 0xFFFF v

/-- A control block: 30 bytes and their CRC. -/
def ctlBlock (v : Bytes) : Bytes :=
  let t := slice 0 30 v
  t ++ leBytes 2 (crc16 t)

/-- The CRC of a received control block holds. -/
def ctlOk (v : Bytes) : Bool := v.length = 32 && leAt 30 2 v = crc16 (v.take 30)

/-- A received control block whose CRC fails is discarded and counted (R312). -/
def Block.badBlock (k : Nat) (b : Block) : Block := b.cnt k 11 1 |>.put LVP_ERRSTAT_CRCERR 1 k

/-- The control block codes of the table before R313. -/
def blockCodes : List Nat := [0x00, 0xA5, 0xE7, 0x4B, 0x4D, 0x43, 0x49, 0x4C, 0x50, 0x7A]

/-- A control block of a code that the table does not list is discarded and counted as a CRC error. -/
def Block.oddBlock (k : Nat) (v : Bytes) (b : Block) : Block := if blockCodes.contains (leAt 0 1 v) then b else b.badBlock k

/-- The MAC that a frame leaves on, its association and PN, where a transmit key is in force (R347, R485). At PN 2^62 the key is used up. -/
def Block.macSend (k : Nat) (b : Block) : Option (Option (Nat × Nat × Nat)) × Block :=
  let lane := if b.get LVP_CFG_MODE k = 1 then Config.macLane b.free % 4 else 0
  let b := if b.get LVP_CFG_MODE k = 1 then b.tickFree else b
  let m := SMap.get {} lane (b.port k).macs
  match m.cur with
  | none => (some none, b)
  | some an =>
    let key := SMap.get {} an m.tx
    if 2 ^ 62 ≤ key.pn then (none, b.note (lvpFault 0x2811 k))
    else (some (some (lane, an, key.pn)), b.modPort k fun p =>
      { p with macs := SMap.upd {} lane (fun m => { m with tx := SMap.upd {} an (fun q => { q with pn := q.pn + 1 }) m.tx }) p.macs })

/-- Send a frame (R348). -/
def Block.sendFrame (k pcp : Nat) (ty : Option Nat) (v : Bytes) (b : Block) : Block :=
  match b.macSend k with
  | (none, b) => b
  | (some s, b) => b.emit (.frame k pcp ty v s) |>.cnt k 3 1

/-- Send a control block: in Ethernet mode as the payload of a frame with PCP 7 (R348). -/
def Block.sendBlock (k : Nat) (v : Bytes) (b : Block) : Block :=
  if b.native k then b.emit (.block k (ctlBlock v))
  else match b.macSend k with
    | (none, b) => b
    | (some s, b) => b.emit (.frame k 7 (some (b.actN 0x4020 2)) (ctlBlock v) s)

/-! ## Sacks -/

/-- Units of a payload (R316), and its line bytes (R313). -/
def sackUnits (n : Nat) : Nat := (n + 63) / 64
def lineBytes (n : Nat) : Nat := 64 + (n + 31) / 32 * 32

/-- The START block (R313). -/
def startBlock (s : Sack) (enc : Bool) (vseq cum keyId pn : Nat) : Bytes :=
  ctlBlock ([0xA5, BitVec.ofNat 8 (s.vl + 4 * ofBool enc + 8 * ofBool s.fresh + 16 * ofBool s.dup + 32 * s.kind)]
    ++ leBytes 2 s.dst ++ leBytes 2 s.src ++ leBytes 2 s.payload.length ++ leBytes 2 s.stream ++ leBytes 2 s.sseq
    ++ leBytes 2 vseq ++ leBytes 4 s.turn ++ leBytes 3 cum ++ [BitVec.ofNat 8 keyId] ++ leBytes 8 pn)

/-- The END block over a START block, the payload as sent and the tag. -/
def endBlock (start payload tag : Bytes) : Bytes :=
  let t := slice 0 16 tag
  ctlBlock ([0xE7, 0] ++ t ++ leBytes 4 (crc32 (start ++ payload ++ t)))

/-- Units that the sender of a port may still consume on VL `v` (R317). -/
def Block.avail (b : Block) (k v : Nat) : Int :=
  let used : Nat := (b.get LVP_TXCUM_CUM k + 2 ^ 24 - b.get LVP_TXFREED_FREED k) % 2 ^ 24
  (b.get LVP_PCRED_CREDITS k : Int) - used - (if 2 ≤ v then (b.get LVP_PCRED_RSV k : Int) else 0)

/-- May the sack be sent now: the port is UP, the device state lets outputs go (R30, R31: all but VL1), its credits suffice, and an Ethernet gate is
open (R317, R347)? -/
def Block.maySend (b : Block) (k : Nat) (s : Sack) : Bool :=
  b.portSt k = pUp && (b.outputsOn || s.vl = 1) &&
    (if b.native k then (sackUnits s.payload.length : Int) ≤ b.avail k s.vl else s.vl = 0 || (b.port k).slot.isNone)

/-- The sack must be encrypted on this port (R341); key management never is (R482). -/
def Block.needsEnc (b : Block) (k : Nat) (s : Sack) : Bool :=
  b.native k && s.kind ≠ 4
    && (b.isSet LVP_CFG_ENCREQ k || (b.isSet LVP_EPT_V s.src && b.isSet LVP_EPT_ENC s.src) || (b.isSet LVP_EPT_V s.dst && b.isSet LVP_EPT_ENC s.dst))

/-- The registers that show the key slots (LVP_KEYSTAT, LVP_TXPN). -/
def Block.showKeys (k : Nat) (b : Block) : Block :=
  let p := b.port k
  let m (l : List (Nat × LKey)) : Nat := maskOf 2 fun i => (SMap.get {} i l).loaded
  b.put LVP_KEYSTAT_TXVALID (m p.tx) k |>.put LVP_KEYSTAT_RXVALID (m p.rx) k
    |>.put LVP_TXPN_PN (SMap.get {} (b.get LVP_KEYSTAT_TXKEYID k) p.tx).pn k

/-- The KEYID change waits for the first sack after a BEACON (R342). -/
def Block.turnKey (k : Nat) (b : Block) : Block :=
  let p := b.port k
  match p.kNext with
  | some n => if p.kArmed then b.modPort k (fun p => { p with kNext := none, kArmed := false }) |>.put LVP_KEYSTAT_TXKEYID n k |>.showKeys k else b
  | none => b

/-- Put a native sack on the link: counters, encryption, START, payload and END. -/
def Block.sendNative (k : Nat) (s : Sack) (b : Block) : Block :=
  let b := b.turnKey k
  let enc := b.needsEnc k s
  let id := b.get LVP_KEYSTAT_TXKEYID k
  let key := SMap.get {} id (b.port k).tx
  if enc && (!key.loaded || 2 ^ 62 ≤ key.pn) then b.note (lvpFault 0x2811 k)
  else
    let cum := (b.get LVP_TXCUM_CUM k + sackUnits s.payload.length) % 2 ^ 24
    let vseq := SMap.get 0 s.vl (b.port k).vseq
    let st := startBlock s enc vseq cum (if enc then id else 0) (if enc then key.pn else 0)
    let body := if enc then gcmSeal key.key (key.salt ++ beBytes 8 key.pn) (st.take 30) s.payload else (s.payload, List.replicate 16 0)
    let b := b.put LVP_TXCUM_CUM cum k |>.modPort k (fun p => { p with
      vseq := SMap.set 0 s.vl ((vseq + 1) % 65536) p.vseq
      tx := if enc then SMap.upd {} id (fun q => { q with pn := q.pn + 1 }) p.tx else p.tx })
    let b := if enc then b.showKeys k else b
    b.emit (.sack k st body.1 (endBlock st body.1 body.2)) |>.cnt k 3 1

/-- The PCP of a VL (R348). -/
def vlPcp (vl : Nat) : Nat := match vl with | 0 => 6 | 1 => 7 | 2 => 0 | _ => 1

/-- Put a sack on a port that is ready for it (R313, R348); a VL0 sack's bytes are charged to its partition (R507). -/
def Block.putSack (k : Nat) (s : Sack) (b : Block) : Block :=
  let b := if b.native k then b.sendNative k s
    else if s.raw then b.sendFrame k (vlPcp s.vl) none s.payload
    else b.sendFrame k (vlPcp s.vl) (some (b.actN 0x4020 2)) (startBlock s false 0 0 0 0 ++ s.payload)
  if s.vl = 0 then b.charge 15 s.part (2240 * s.payload.length) else b

/-! ## The transmit order (R315) -/

/-- The first waiting sack of a VL that may be sent now. -/
def Block.readyVl (b : Block) (k vl : Nat) : Option Sack :=
  match (b.port k).queue.find? (fun s => s.vl = vl) with
  | some s => if b.maySend k s then some s else none
  | none => none

/-- Take a sack out of the queue and send it. -/
def Block.sendQueued (k : Nat) (s : Sack) (b : Block) : Block :=
  b.modPort k (fun p => { p with queue := p.queue.erase s }) |>.putSack k s

/-- VL2 or VL3 by deficit round robin: the VL served keeps its turn while its deficit covers its next sack; each turn adds its weight in
largest sacks of 32 units. -/
def Block.drrPick (b : Block) (k : Nat) : Option (Sack × (Nat × Nat × Nat)) :=
  let d := (b.port k).drr
  match b.readyVl k 2, b.readyVl k 3 with
  | none, none => none
  | some s, none => some (s, d)
  | none, some s => some (s, d)
  | some s, some t =>
    let u := sackUnits s.payload.length
    let v := sackUnits t.payload.length
    if d.1 = 2 then
      if u ≤ d.2.1 then some (s, (2, d.2.1 - u, d.2.2)) else some (t, (3, d.2.1, d.2.2 + 32 * b.get LVP_CFG_VL3W k - v))
    else
      if v ≤ d.2.2 then some (t, (3, d.2.1, d.2.2 - v)) else some (s, (2, d.2.1 + 32 * b.get LVP_CFG_VL2W k - u, d.2.2))

/-- The VL0 sack of the open slot that may be sent now. -/
def Block.readyVl0 (b : Block) (k : Nat) : Option Sack :=
  match (b.port k).vl0.head? with
  | some s => if b.maySend k s then some s else none
  | none => none

/-- Send what is ready, in the order of R315: VL0 of the open slot, then VL1, then VL2 and VL3. -/
def Block.drainF (k : Nat) : Nat → Block → Block
  | 0, b => b
  | n + 1, b =>
    match b.readyVl0 k with
    | some s => Block.drainF k n (b.modPort k (fun p => { p with vl0 := p.vl0.drop 1 }) |>.putSack k s)
    | none =>
      match b.readyVl k 1 with
      | some t => Block.drainF k n (b.sendQueued k t)
      | none =>
        match b.drrPick k with
        | some (t, d) => Block.drainF k n (b.modPort k (fun p => { p with drr := d }) |>.sendQueued k t)
        | none => b

/-- Outside RUN and DEGRADED the outputs that wait in a port are dropped and counted (R30): VL0 sacks with their second copies, and VL2 and VL3. -/
def Block.dropOutputs (k : Nat) (b : Block) : Block :=
  let p := b.port k
  let n := p.vl0.length + p.dups.length + (p.queue.filter fun s => s.vl ≠ 1).length
  if b.outputsOn || n = 0 then b
  else b.modPort k (fun p => { p with vl0 := [], dups := [], queue := p.queue.filter fun s => s.vl = 1 }) |>.cnt k 12 n

/-- Send all that may go now. -/
def Block.drain (k : Nat) (b : Block) : Block :=
  let b := b.dropOutputs k
  b.drainF k ((b.port k).queue.length + (b.port k).vl0.length)

/-- Hand a VL1 to VL3 sack to a port; a port that is not UP discards it. -/
def Block.offerSack (k : Nat) (s : Sack) (b : Block) : Block :=
  if 6 ≤ k || b.portSt k ≠ pUp then b.discard k
  else b.modPort k (fun p => { p with queue := p.queue ++ [s] }) |>.drain k

/-- VL0 sacks that were not sent are dropped (R337). -/
def Block.dropVl0 (k n : Nat) (b : Block) : Block :=
  if n = 0 then b
  else b.cnt k 8 n |>.when (!b.outputsOn) (fun b => b.cnt k 12 n) |>.put LVP_ERRSTAT_SLOTDROP 1 k |>.noteOnce k (lvpFault 0x2808 k)

/-! ## Key exchanges (R482-R484) -/

/-- An ASCII string as bytes. -/
def ascii (s : String) : Bytes := s.toList.map fun c => BitVec.ofNat 8 c.toNat

/-- TAG of a key-management payload, and the keys of an exchange. -/
def keyTag (lmk head : Bytes) (src dst : Nat) : Bytes :=
  shake256 32 (ascii "NH12-LEAVO-T" ++ lmk ++ head ++ leBytes 2 src ++ leBytes 2 dst)
def keyDerive (lmk : Bytes) (epoch : Nat) (na nb : Bytes) (d : Nat) : Bytes :=
  shake256 36 (ascii "NH12-LEAVO-K" ++ lmk ++ leBytes 4 epoch ++ na ++ nb ++ [BitVec.ofNat 8 d])

/-- Send a key-management message to the partner. -/
def Block.sendKey (k ty slot epoch : Nat) (n : Bytes) (b : Block) : Block :=
  let lmk := SMap.get [] k b.lvp.lmk
  let dst := b.get LVP_STATUS_PEP k
  let head := [BitVec.ofNat 8 ty, BitVec.ofNat 8 slot, 0, 0] ++ leBytes 4 epoch ++ slice 0 32 n
  b.offerSack k { vl := 1, kind := 4, dst := dst, src := b.devEp, turn := b.turn % 2 ^ 32, payload := head ++ keyTag lmk head b.devEp dst }

/-- Does this end initiate on port k (R482)? -/
def Block.initiates (b : Block) (k : Nat) : Bool := !b.isSet LVP_STATUS_PPEER k || b.devEp < b.get LVP_STATUS_PEP k

/-- Start an exchange (R483 step 1, R484); a port without a link master key has none. -/
def Block.startKeys (k : Nat) (b : Block) : Block :=
  if 6 ≤ k || b.portSt k ≠ pUp || !b.native k || !b.initiates k || (SMap.get [] k b.lvp.lmk).isEmpty then b
  else
    let na := leBytes 32 (Config.nonce b.free)
    let slot := 1 - b.get LVP_KEYSTAT_TXKEYID k
    let epoch := ((b.port k).epoch + 1) % 2 ^ 32
    b.tickFree.modPort k (fun p => { p with kx := some { mine := true, slot := slot, epoch := epoch, na := na }, epoch := epoch, keyTurn := b.turn })
      |>.sendKey k 1 slot epoch na

/-- Load both keys of an exchange into a slot. -/
def Block.loadKeys (k slot : Nat) (txKey rxKey : Bytes) (b : Block) : Block :=
  let mk (v : Bytes) : LKey := { loaded := true, key := v.take 32, salt := v.drop 32 }
  b.modPort k (fun p => { p with tx := SMap.set {} slot (mk txKey) p.tx, rx := SMap.set {} slot (mk rxKey) p.rx }) |>.showKeys k

/-- An exchange is complete on this side: the transmit KEYID changes after the next BEACON. -/
def Block.keysDone (k slot : Nat) (b : Block) : Block :=
  b.modPort k (fun p => { p with kx := none, kNext := some slot, kArmed := false, keyTurn := b.turn }) |>.note (lvpFault 0x0C0C k)

/-- An exchange is abandoned: a lane change, or the port leaves UP (R484). -/
def Block.dropKeys (k : Nat) (b : Block) : Block := b.modPort k fun p => { p with kx := none }

/-- The transmit PN of the key in use has reached 2^61: a new exchange starts (R484). -/
def Block.pnCheck (k : Nat) (b : Block) : Block :=
  if 2 ^ 61 ≤ b.get LVP_TXPN_PN k && (b.port k).kx.isNone && (b.port k).kNext.isNone then b.startKeys k else b

/-! ## Port states -/

/-- Leave UP, ALIGN or INIT for a lower state: buffered sacks are discarded, an exchange under way is abandoned. -/
def Block.leaveUp (k : Nat) (b : Block) : Block :=
  let p := b.port k
  b.dropVl0 k (p.vl0.length + p.dups.length)
    |>.modPort k (fun p => { p with gotInit := false, gotAck := false, sentAck := false, queue := [], vl0 := [], dups := [], kx := none
                                    askMap := none, addBack := 0 })

/-- Back to INIT from UP (R321, R331): the credits are reset. -/
def Block.toInit (k : Nat) (b : Block) : Block :=
  b.put LVP_STATUS_STATE pInit k |>.put LVP_STATUS_PARTNER 0 k
    |>.modPort k (fun p => { p with gotInit := false, gotAck := false, sentAck := false, kx := none, rxCum := 0, rxFreed := 0, rxRep := 0 })
    |>.put LVP_TXCUM_CUM 0 k |>.put LVP_TXFREED_FREED 0 k |>.setR .LVP_PCRED 0 k

/-- To TRAIN (the port state table). -/
def Block.toTrain (k : Nat) (b : Block) : Block :=
  b.leaveUp k |>.put LVP_STATUS_STATE pTrain k |>.put LVP_STATUS_PARTNER 0 k |>.put LVP_STATUS_TXLANES 0 k |>.put LVP_STATUS_RXLANES 0 k
    |>.modPort k fun p => { p with line := {} }

/-- To OFF: the lanes go electrically idle. -/
def Block.toOff (k : Nat) (b : Block) : Block :=
  if b.portSt k = pOff then b else b.toTrain k |>.put LVP_STATUS_STATE pOff k

/-- PROBE with its local time (R333). -/
def Block.sendProbe (k : Nat) (b : Block) : Block :=
  b.sendBlock k ([0x50, 0] ++ leBytes 8 b.timeNs)

/-- A planned-lanes check after a lane change (R325): fewer than planned now, not before. -/
def Block.lanesCheck (k before after : Nat) (b : Block) : Block :=
  let n := b.get LVP_CFG_PLANLANES k
  if popcount 4 after < n && n ≤ popcount 4 before then b.raise (lvpFault 0x380D k) else b

/-! ## Schedule announcements (R339) -/

/-- The valid slots of a port as the dictionary holds them in a list of records. -/
def slotWords (rd : Nat → Nat → Nat) (k : Nat) : List Nat :=
  ((List.range 64).map fun n => rd (0x4010 + k) (n + 1)).filter fun w => bit w 31

/-- Send the announcement of SCHEDID `id` with the slots `ws` to the partner of a port. -/
def Block.announce (k id : Nat) (ws : List Nat) (b : Block) : Block :=
  if b.portSt k ≠ pUp then b
  else
    b.modPort k (fun p => { p with announced := some (id, b.turn) })
      |>.offerSack k { vl := 1, kind := 2, dst := b.get LVP_STATUS_PEP k, src := b.devEp, turn := b.turn % 2 ^ 32
                       payload := leBytes 2 id ++ [BitVec.ofNat 8 ws.length, BitVec.ofNat 8 k, 0, 0, 0, 0] ++ ws.flatMap (leBytes 8) }

/-- Enter UP: the counters of R317 are 0; PROBE, the announcement, and a key exchange follow (R333, R339, R484). -/
def Block.toUp (k : Nat) (b : Block) : Block :=
  b.put LVP_STATUS_STATE pUp k |>.put LVP_TXCUM_CUM 0 k |>.put LVP_TXFREED_FREED 0 k
    |>.modPort k (fun p => { p with rxCum := 0, rxFreed := 0, rxRep := 0 })
    |>.sendProbe k |>.note (lvpFault 0x0807 k)
    |>.announce k b.lvp.schedId (slotWords b.actN k) |>.startKeys k

/-! ## Beacons (R326, R328) -/

/-- An alignment codeword on every active lane, with the map and the number of the next data codeword (R311). -/
def Block.sendAm (k : Nat) (b : Block) : Block :=
  let m := b.get LVP_STATUS_TXLANES k
  b.forL ((List.range 4).filter (fun i => bit m i)) fun i b =>
    b.emit (.block k (ctlBlock ([0x7A, BitVec.ofNat 8 (i + 16 * m)] ++ leBytes 4 (b.port k).line.next ++ List.replicate 24 0x5A)))

/-- Lanes that retrained are added back in the first codeword after a BEACON (R324). -/
def Block.addLanes (k : Nat) (b : Block) : Block :=
  let add := (b.port k).addBack
  if add = 0 then b
  else
    let m := Nat.lor (b.get LVP_STATUS_TXLANES k) add
    b.modPort k (fun p => { p with addBack := 0 }) |>.put LVP_STATUS_TXLANES m k |>.sendAm k
      |>.sendBlock k [0x4C, BitVec.ofNat 8 (m + 32)] |>.note (lvpFault 0x0804 k)

/-- The BEACON of a port: from its own copy of turn and period, with its status; `lcl` when it acts alone. -/
def Block.sendBeacon (k : Nat) (lcl : Bool) (b : Block) : Block :=
  let p := b.port k
  let delay := Config.beaconDelay b.free % 251
  let b := b.tickFree.put LVP_LINK_BDELAY delay k
  b.sendBlock k ([0x4B, BitVec.ofNat 8 (b.get LVP_STATUS_BSTAT k + 4 * b.otp.pkg + 8 * ofBool lcl + 16 * b.get LVP_STATUS_TXLANES k)]
      ++ leBytes 2 b.devEp ++ leBytes 6 p.turn ++ leBytes 2 p.period ++ leBytes 2 delay ++ leBytes 8 b.timeNs
      ++ leBytes 2 b.lvp.schedId ++ leBytes 3 (b.get LVP_TXCUM_CUM k) ++ leBytes 3 p.rxFreed)
    |>.modPort k (fun p => { p with kArmed := p.kNext.isSome, rxRep := p.rxFreed })
    |>.addLanes k

/-- A boundary reaches the ports (R52 step 3, R326, R333): each takes the turn and the period, sends its beacon, every 64 turns a PROBE, and
starts a key exchange where the rekey interval has passed; MACsec transmit keys that waited come into force (R485). -/
def Block.lvpBoundary (b : Block) : Block :=
  b.forN 6 fun k b =>
    let b := b.modPort k fun p => { p with
      turn := b.turn % 2 ^ 48, period := b.get TRN_PERIOD_PERIOD
      macs := SMap.mapV {} (fun _ m => { m with cur := m.next.orElse (fun _ => m.cur), next := none }) p.macs }
    if !b.portTalks k then b
    else
      let b := b.sendBeacon k false
      let b := b.when (b.turn % 64 = 0 && b.portSt k = pUp && b.native k) (fun b => b.sendProbe k)
      if b.portSt k = pUp && (b.port k).kx.isNone && b.actN 0x8070 7 ≤ b.turn - (b.port k).keyTurn then b.startKeys k else b

end Sys2Proof.Machine
end

