-- ==== Sys2Proof/Machine/SlcOps.lean ====
section
/-! DEFINITION. The sluice's flow table and cache (R353-R359), the checks of an arrival and what each action does but delivery to an instance
(R360, R361, R380), and the egress flows of a partition (R363). -/

namespace Sys2Proof.Machine

/-! ## Flow contexts (R356) -/

def Block.modSlc (f : Sluice → Sluice) (b : Block) : Block := { b with slc := f b.slc }

/-- A field of a context word, and its update. -/
def ctxF (ws : List Nat) (i lo hi : Nat) : Nat := bits (ws.getD i 0) lo hi
def ctxS (i lo hi v : Nat) (ws : List Nat) : List Nat := ws.set i (setBits (ws.getD i 0) lo hi v)

def fAction (ws : List Nat) : Nat := ctxF ws 2 0 2
def fPart (ws : List Nat) : Nat := ctxF ws 2 8 13
def fWin (ws : List Nat) : Nat := ctxF ws 2 14 16
def fRecOff (ws : List Nat) : Nat := ctxF ws 2 32 63
def fRecLen (ws : List Nat) : Nat := ctxF ws 3 0 11
def fDstEp (ws : List Nat) : Nat := ctxF ws 3 20 31
def fStream (ws : List Nat) : Nat := ctxF ws 3 32 47
def fKtype (ws : List Nat) : Nat := ctxF ws 0 0 3

/-- A context as 64 bytes, and back; its key. -/
def ctxBytes (ws : List Nat) : Bytes := (List.range 8).flatMap fun i => leBytes 8 (ws.getD i 0)
def ctxOf (v : Bytes) : List Nat := (List.range 8).map fun i => leAt (8 * i) 8 v
def ctxKey (ws : List Nat) : Bytes := leBytes 8 (ws.getD 0 0) ++ leBytes 8 (ws.getD 1 0)

/-- A context whose values are all defined (R356): the ERRCODE 8 check of R378. -/
def ctxValid (ws : List Nat) : Bool :=
  let a := fAction ws
  a ≤ 5
    && (a ≠ 2 || 4 ≤ ctxF ws 2 25 27)
    && (a ≠ 4 || ctxF ws 2 28 31 ≤ 2)
    && (a ≠ 1 || (fRecLen ws % 64 = 0 && 64 ≤ fRecLen ws && fRecLen ws ≤ 2112 && 1 ≤ ctxF ws 3 12 19 && ctxF ws 3 12 19 ≤ 32 && fRecOff ws % 64 = 0))
    && (a ≠ 5 || ((if ctxF ws 3 50 50 = 1 then 60 else 1) ≤ fRecLen ws && fRecLen ws ≤ 2048 && (ctxF ws 3 57 59 = 0 || ctxF ws 3 57 59 = 5) && fRecOff ws % 64 = 0))
    && (a ≠ 3 || 1 ≤ ctxF ws 3 48 49)
    && ctxF ws 3 60 63 = 0 && ctxF ws 4 57 63 = 0

/-! ## The cache (R357) -/

/-- The registers that show the cache (SLC_FCSTAT). -/
def Block.showCache (b : Block) : Block :=
  b.put SLC_FCSTAT_VALID b.slc.cache.length |>.put SLC_FCSTAT_PINNED (b.slc.cache.filter (·.pinned)).length

def Block.flowByKey (b : Block) (key : Bytes) : Option FlowEnt := b.slc.cache.find? fun e => ctxKey e.words = key
def Block.flowByIdx (b : Block) (i : Nat) : Option FlowEnt := b.slc.cache.find? fun e => e.index = i

/-- Change a cached flow. -/
def Block.modFlow (i : Nat) (f : FlowEnt → FlowEnt) (b : Block) : Block :=
  b.modSlc fun s => { s with cache := s.cache.map fun e => if e.index = i then f e else e }

/-- A use of a cached flow, for the replacement of the least recently used. -/
def Block.useFlow (i : Nat) (b : Block) : Block :=
  b.modSlc (fun s => { s with uses := s.uses + 1 }) |>.modFlow i fun e => { e with used := b.slc.uses }

/-- The flow table: contexts at its base, buckets 64 MiB above (R353). -/
def Block.flowCtx (b : Block) (i : Nat) : Nat := b.get SLC_FTBASE_BASE * 2 ^ 27 + 64 * i
def Block.flowBucket (b : Block) (i : Nat) : Nat := b.get SLC_FTBASE_BASE * 2 ^ 27 + 0x4000000 + 64 * i

/-- Write a flow's context to the table. -/
def Block.flowWrite (e : FlowEnt) (b : Block) : Block := b.writeBytes midSluice noPart (b.flowCtx e.index) (ctxBytes e.words)

/-- Drop a flow from the cache. -/
def Block.dropFlow (i : Nat) (b : Block) : Block :=
  b.modSlc (fun s => { s with cache := s.cache.filter fun e => e.index ≠ i }) |>.showCache

/-- Put a flow into its set; a full set evicts its least recently used unpinned entry, which is written back. -/
def Block.addFlow (e : FlowEnt) (b : Block) : Block :=
  let b := b.dropFlow e.index
  let set := b.slc.cache.filter fun x => x.index % 4096 = e.index % 4096
  let b := if set.length < 16 then b
    else match set.foldl (fun (a : Option FlowEnt) x => if x.pinned then a else match a with
        | some y => if x.used < y.used then some x else some y
        | none => some x) none with
      | some v => b.flowWrite v |>.dropFlow v.index
      | none => b
  b.modSlc (fun s => { s with cache := s.cache ++ [{ e with used := s.uses, stamp := b.timeNs }], uses := s.uses + 1 }) |>.showCache

/-! ## Walks (R354, R355) -/

/-- The two buckets of a key, and its tag. -/
def flowHash (key : Bytes) : Nat × Nat × Nat :=
  let a := crc32 key
  let c := crc32 key.reverse
  (a % 2 ^ 18, c % 2 ^ 18, bits a 18 31 + bits c 18 31 * 2 ^ 14)

/-- A read of 64 bytes of the table: the address where it returns poison or lies outside populated DRAM. -/
def Block.flowRead (a : Nat) (b : Block) : Except Nat Bytes × Block :=
  if !b.rangeOk a 64 then (.error a, b)
  else
    let (v, b) := b.readBytes midSluice noPart a 64
    if v.2 then (.error a, b) else (.ok v.1, b)

/-- Walk the table for a key: the flow, none, or the address of the failing read. -/
def Block.walkFlow (key : Bytes) (b : Block) : Except Nat (Option (Nat × List Nat)) × Block :=
  let h := flowHash key
  match b.flowRead (b.flowBucket h.1) with
  | (.error a, b) => (.error a, b)
  | (.ok u, b) =>
    match b.flowRead (b.flowBucket h.2.1) with
    | (.error a, b) => (.error a, b)
    | (.ok v, b) =>
      match (ctxOf u ++ ctxOf v).find? (fun w => bit w 20 && bits w 32 59 = h.2.2) with
      | none => (.ok none, b)
      | some w =>
        let i := w % 2 ^ 20
        match b.flowByIdx i with
        | some e => (.ok (if ctxKey e.words = key then some (i, e.words) else none), b)
        | none =>
          match b.flowRead (b.flowCtx i) with
          | (.error a, b) => (.error a, b)
          | (.ok c, b) => (.ok (if c.take 16 = key then some (i, ctxOf c) else none), b)

/-! ## Keys (R354) -/

/-- The key of a native sack. -/
def sackKey (s : Sack) : Bytes := slice 0 16 ([1, BitVec.ofNat 8 s.vl] ++ leBytes 2 s.src ++ leBytes 2 s.stream)

/-- The key of a partition's egress flow. -/
def egressKey (p i : Nat) : Bytes := slice 0 16 ([4, BitVec.ofNat 8 p] ++ leBytes 2 i)

/-! ## Egress of a partition (R363) -/

/-- The egress flows of a partition in ascending egress index. -/
def Block.egressFlows (b : Block) (p : Nat) : List FlowEnt :=
  (b.slc.cache.filter fun e => fKtype e.words = 4 && ctxF e.words 0 8 15 = p && fAction e.words = 5).foldl
    (fun l x => l.takeWhile (fun y => ctxF y.words 0 16 31 < ctxF x.words 0 16 31) ++ x
      :: l.dropWhile (fun y => ctxF y.words 0 16 31 < ctxF x.words 0 16 31)) []

/-- An endpoint's entry names the port (R343, R363). -/
def Block.epOnPort (b : Block) (e k : Nat) : Bool :=
  b.isSet LVP_EPT_V e && (b.get LVP_EPT_PORTA e = k || (b.get LVP_EPT_PORTB e = k && !b.isSet LVP_EPT_PKGB e))

/-- The port towards an endpoint: PORTA of its entry, or of its PARENT's (R351). -/
def Block.portOf (b : Block) (e : Nat) : Option Nat :=
  if !b.isSet LVP_EPT_V e then none
  else
    let k := b.get LVP_EPT_PORTA e
    let q := b.get LVP_EPT_PARENT e
    if k < 6 then some k
    else if k ≠ 6 && b.isSet LVP_EPT_V q && b.get LVP_EPT_PORTA q < 6 then some (b.get LVP_EPT_PORTA q) else none

/-- The offset of an output window in the hold copy (R287). -/
def Block.winOffset (b : Block) (p w : Nat) : Nat := ((List.range w).map (b.outWin p)).foldl (· + ·) 0

/-- An R-TAG goes after the addresses and any VLAN tag (IEEE 802.1CB). -/
def addRtag (v : Bytes) (seq : Nat) : Bytes :=
  let at' := if (v.drop 12).take 2 = [0x81, 0x00] then 16 else 12
  v.take at' ++ [0xF1, 0xC1, 0, 0] ++ beBytes 2 seq ++ v.drop at'

/-- The sacks that a partition's egress sends on a port now, in flow order (R337, R363); R-TAG sequence numbers advance. -/
def Block.egressSacks (p k : Nat) (b : Block) : List Sack × Block :=
  let fl := b.egressFlows p
  let t := b.part p
  (fl.zipIdx.foldl (fun (acc : List Sack × Block) e =>
    let ws := e.1.words
    let b := acc.2
    let d := fDstEp ws
    if !b.epOnPort d k then acc
    else
      let sseq := ((fl.take e.2).filter fun x => fStream x.words = fStream ws).length
      let (v, b) := b.readBytes (0x1C0 + k) p (b.holdBase p + t.holdCur * b.holdBytes p + b.winOffset p (fWin ws) + fRecOff ws) (fRecLen ws)
      let raw := b.isSet LVP_EPT_ETH d && ctxF ws 3 50 50 = 1
      let tag := raw && ctxF ws 2 7 7 = 1
      let body := if tag then addRtag v.1 (ctxF ws 6 0 15) else v.1
      let b := if tag then b.modFlow e.1.index (fun x => { x with words := ctxS 6 0 15 (ctxF ws 6 0 15 + 1) x.words }) else b
      (acc.1 ++ [{ vl := 0, kind := ctxF ws 3 57 59, dst := d, src := b.devEp, stream := fStream ws, sseq := sseq, turn := t.holdTurn % 2 ^ 32
                   fresh := !b.isSet BLT_PSTAT_REPEAT p, payload := body, raw := raw, part := p }], b)) ([], b))

/-! ## The checks of an arrival (R360) -/

/-- Discard at a check: DROPS counts; checks 1 to 3 log 0x0906 once per turn. -/
def Block.flowDrop (i : Nat) (policed : Bool) (b : Block) : Block :=
  b.modFlow i (fun e => { e with words := ctxS 7 48 63 (satInc 16 (ctxF e.words 7 48 63)) e.words })
    |>.when policed (fun b => b.noteOnce 0 { code := 0x0906, mid := some midSluice })

/-- An arrival is taken. -/
def Block.flowTaken (i : Nat) (b : Block) : Block :=
  b.modFlow i fun e => { e with words := ctxS 7 0 31 (satInc 32 (ctxF e.words 7 0 31)) e.words }

/-- The meter (R360 check 3): tokens at CIR, in units of 100 kbit/s, up to CBS × 64 bytes; whole bytes are added, and the rest of the time counts on. -/
def meter (now n : Nat) (e : FlowEnt) : Bool × FlowEnt :=
  let cir := ctxF e.words 4 0 23
  let gain := cir * (now - e.stamp) / 80000
  let stamp := if cir = 0 then now else e.stamp + gain * 80000 / cir
  let tok := min (ctxF e.words 5 32 63 + gain) (ctxF e.words 4 24 39 * 64)
  let ok := n ≤ tok
  (ok, { e with stamp := stamp, words := ctxS 5 32 63 (if ok then tok - n else tok) e.words })

/-- Duplicate elimination of native sacks (R360 check 4): taken, and word 6. -/
def dupNative (turn sseq w : Nat) : Bool × Nat :=
  let a := bits w 0 31
  let d := (turn + 2 ^ 32 - a) % 2 ^ 32
  let newer := 1 ≤ d && d < 2 ^ 31
  let hist := if newer then 0 else bits w 32 63
  let cur := if newer then turn % 2 ^ 32 else a
  if cur = turn % 2 ^ 32 && sseq < 32 && !bit hist sseq then (true, cur + (hist + 2 ^ sseq) * 2 ^ 32)
  else (false, cur + hist * 2 ^ 32)

/-- Vector recovery over a history of 32 (IEEE 802.1CB); a number outside it restarts the recovery from its frame. -/
def dupFrame (seq w : Nat) : Bool × Nat :=
  let a := bits w 0 15
  let h := bits w 32 63
  let d := toSigned 16 (seq + 65536 - a)
  if h = 0 || 32 ≤ d || d ≤ -32 then (true, seq % 65536 + 2 ^ 32)
  else if 0 < d then (true, seq % 65536 + ((h * 2 ^ d.toNat + 1) % 2 ^ 32) * 2 ^ 32)
  else
    let i := (-d).toNat
    if bit h i then (false, w) else (true, w + 2 ^ i * 2 ^ 32)

/-- Checks 1 to 4; `none` when the arrival ends there. -/
def Block.flowChecks (i : Nat) (a : Arrival) (b : Block) : Bool × Block :=
  match b.flowByIdx i with
  | none => (false, b)
  | some e =>
    let ws := e.words
    let n := a.sack.payload.length
    if !bit (ctxF ws 3 51 56) a.port then (false, b.flowDrop i true)
    else if ctxF ws 2 6 6 = 1 && !(ctxF ws 4 40 56 * 100 ≤ a.phase && a.phase < ctxF ws 5 0 16 * 100) then (false, b.flowDrop i true)
    else
      let m := if ctxF ws 2 5 5 = 1 then meter b.timeNs n e else (true, e)
      let b := b.modFlow i fun _ => m.2
      if !m.1 then (false, b.flowDrop i true)
      else if ctxF ws 2 4 4 = 0 then (true, b)
      else
        let w := ws.getD 6 0
        let r := if a.eth then (match a.rtag with | some q => some (dupFrame q w) | none => none) else some (dupNative a.sack.turn a.sack.sseq w)
        match r with
        | none => (false, b.modFlow i fun e => { e with words := ctxS 7 32 47 (satInc 16 (ctxF e.words 7 32 47)) e.words })
        | some (ok, w') =>
          let b := b.modFlow i fun e => { e with words := e.words.set 6 w' }
          if ok then (true, b)
          else (false, b.modFlow i fun e => { e with words := ctxS 7 32 47 (satInc 16 (ctxF e.words 7 32 47)) e.words })

/-! ## Actions -/

/-- The header of an input record (R361). -/
def recordHeader (a : Arrival) (n : Nat) : Bytes :=
  leBytes 8 a.turn ++ leBytes 2 (if a.eth then 0 else a.sack.stream) ++ leBytes 2 n ++ leBytes 2 a.sack.payload.length
    ++ leBytes 2 (if a.eth then 0 else a.sack.src) ++ [BitVec.ofNat 8 a.port, BitVec.ofNat 8 (ofBool a.sec), 0, 0] ++ leBytes 4 a.phase
    ++ leBytes 4 (if a.eth then 0 else a.sack.turn) ++ [0, 0, 0, 0]

/-- ACTION WINDOW (R361, R362): the record goes to the same offset of the same buffer of every replica of the placement. -/
def Block.actWindow (i : Nat) (a : Arrival) (b : Block) : Block :=
  match b.flowByIdx i with
  | none => b
  | some e =>
    let ws := e.words
    let p := fPart ws
    let w := fWin ws
    if !b.partLive p then b.flowDrop i false
    else
      let same := ctxF ws 5 17 20 = a.turn % 16
      let n := if a.eth then (if same then ctxF ws 5 21 31 else 0) else a.sack.sseq
      let len := fRecLen ws
      if ctxF ws 3 12 19 ≤ n || len < 32 + a.sack.payload.length then
        b.flowDrop i false |>.noteOnce 0 { code := 0x2907, mid := some midSluice }
      else
        let b := if a.eth then b.modFlow i fun e => { e with words := ctxS 5 17 20 a.turn (ctxS 5 21 31 (n + 1) e.words) } else b
        let off := fRecOff ws + len * n + (a.turn + 1) % 2 * b.inWin p w
        let v := slice 0 len (recordHeader a n ++ a.sack.payload)
        b.modTu (fun t => { t with writes := t.writes ++ (b.localRepls p).map fun r =>
            { turn := a.turn, part := p, repl := r, flow := i, addr := b.inWinBase p w r + off, bytes := v } })
          |>.charge 15 p (2240 * a.sack.payload.length) |>.flowTaken i

/-- ACTION FORWARD (R380): the arrival goes to DSTEP with STREAM and VL replaced; but for VL1 it is an output (R30). -/
def Block.forwardTo (d : Nat) (x : Sack) (b : Block) : Block :=
  match b.portOf d with
  | none => b
  | some k => if x.vl ≠ 1 && !b.outputsOn then b.cnt k 12 1 else b.offerSack k { x with dst := d }
def Block.actForward (i : Nat) (a : Arrival) (b : Block) : Block :=
  match b.flowByIdx i with
  | none => b
  | some e =>
    b.flowTaken i |>.forwardTo (fDstEp e.words) { a.sack with stream := fStream e.words, vl := ctxF e.words 3 48 49, raw := a.eth, fresh := false, dup := false }

/-! ## The gateway on the millers (R380) -/

/-- A record of the IPv4 routes: prefix, length, endpoint, next-hop MAC. -/
def ipRoutes : Nat → Bytes → List (Nat × Nat × Nat × Bytes)
  | 0, _ => []
  | n + 1, v => if v.length < 16 then [] else (beNat (v.take 4), leAt 4 1 v, leAt 6 2 v, (v.drop 8).take 6) :: ipRoutes n (v.drop 16)

/-- The longest prefix that covers an address. -/
def ipLookup (l : List (Nat × Nat × Nat × Bytes)) (ip : Nat) : Option (Nat × Nat × Nat × Bytes) :=
  l.foldl (fun (best : Option (Nat × Nat × Nat × Bytes)) r =>
    if 32 < r.2.1 || ip / 2 ^ (32 - r.2.1) ≠ r.1 / 2 ^ (32 - r.2.1) then best
    else match best with
      | some q => if q.2.1 < r.2.1 then some r else best
      | none => some r) none

/-- The Ethernet type of a frame behind a VLAN tag and an R-TAG: its offset, the type. -/
def etherAt (v : Bytes) : Nat :=
  let o := if (v.drop 12).take 2 = [0x81, 0x00] then 16 else 12
  if (v.drop o).take 2 = [0xF1, 0xC1] then o + 6 else o

/-- The data bytes of a CAN record: by DLC, in a CAN FD frame up to 64; none in a remote frame. -/
def canLen (hdr : Bytes) : Nat :=
  let d := leAt 4 1 hdr % 16
  let id := leAt 0 4 hdr
  if bit id 31 then [0, 1, 2, 3, 4, 5, 6, 7, 8, 12, 16, 20, 24, 32, 48, 64].getD d 0 else if bit id 30 then 0 else min d 8

/-- The records of a CAN tunnel sack: 8 header bytes and the data, padded to a multiple of 8 bytes (R380). -/
def canRecords : Nat → Bytes → List Bytes
  | 0, _ => []
  | n + 1, v =>
    let k := 8 + roundUp (canLen v) 8
    if v.length < 8 || v.length < k then [] else v.take k :: canRecords n (v.drop k)

/-- The gateway handles one arrival: IPv4 by longest prefix, CAN records by the CAN routes; beyond the slow-path limit it drops (R380). -/
def Block.gateway (a : Arrival) (b : Block) : Block :=
  let sec := b.timeNs / 1000000000
  let n := if b.slc.gw.1 = sec then b.slc.gw.2 else 0
  if b.actN 0x9000 1 = 0 || b.actN 0x9000 4 ≤ n then b
  else
    let b := b.modSlc fun s => { s with gw := (sec, n + 1) }
    if a.eth then
      let v := a.sack.payload
      let o := etherAt v
      if (v.drop o).take 2 ≠ [0x08, 0x00] then b
      else match ipLookup (ipRoutes 4096 (b.act 0x9000 2)) (beNat ((v.drop (o + 18)).take 4)) with
        | some r => b.forwardTo r.2.2.1 { a.sack with payload := r.2.2.2 ++ v.drop 6, raw := true }
        | none => b
    else if a.sack.kind = 5 then
      b.forL (canRecords 2048 a.sack.payload) fun r b =>
        match Config.canRoute (b.act 0x9000 3) (r.take 8) with
        | some d => b.forwardTo d { a.sack with payload := r }
        | none => b
    else b

/-- A miller service takes an arrival (R379, R380). -/
def Block.toService (which : Nat) (a : Arrival) (b : Block) : Block :=
  let b := b.emit (.service a.port (8 + which) a.sack.src a.sack.payload)
  if which = 0 then b.gateway a else b

/-- A miss (R355): the action of the arrival port. -/
def Block.flowMiss (a : Arrival) (b : Block) : Block :=
  if b.actN 0x4800 (2 + a.port) = 1 then b.toService 0 a else b

end Sys2Proof.Machine
end

