-- ==== Sys2Proof/Machine/InstOps.lean ====
section
/-! DEFINITION. Virtual instances as operations (R364-R377): owners, accesses at I/O virtual addresses with the dirty log, the hopper, fetches and
completions of descriptors, resets. -/

namespace Sys2Proof.Machine

/-! ## Instances -/

def Block.inst (b : Block) (i : Nat) : Inst := SMap.get {} i b.slc.insts
def Block.modInst (i : Nat) (f : Inst → Inst) (b : Block) : Block := b.modSlc fun s => { s with insts := SMap.upd {} i f s.insts }

/-- Owner kind and number (R364): 1 a partition, 2 a PCIe function, 3 a miller service. -/
def Block.ownKind (b : Block) (i : Nat) : Nat := b.actN (0x4A00 + i) 1 % 4
def Block.ownNum (b : Block) (i : Nat) : Nat := bits (b.actN (0x4A00 + i) 1) 4 9

/-- The partition that an instance's accesses carry. -/
def Block.instPart (b : Block) (i : Nat) : Nat := if b.ownKind i = 1 then b.ownNum i else noPart

/-- The states of SLC_ISTATi. -/
def iDisabled : Nat := 0
def iActive : Nat := 1
def iDraining : Nat := 2
def iSquashing : Nat := 3
def Block.instSt (b : Block) (i : Nat) : Nat := b.get SLC_ISTAT_STATE i

/-- Set an error flag of an instance; its function's vector 8 follows (R398). -/
def Block.instFlag (f : Fld) (i : Nat) (b : Block) : Block :=
  b.put f 1 i |>.when (b.ownKind i = 2) (fun b => b.sendVec i 8)

/-- A queue stops (R367, R371): QERR, with IOTERR for an error on a ring or context, and 0x2909. -/
def Block.stopQueue (i q : Nat) (io : Bool) (b : Block) : Block :=
  b.modInst i (fun t => { t with stopped := sinsert q t.stopped }) |>.instFlag SLC_ISTAT_QERR i
    |>.when io (fun b => b.put SLC_ISTAT_IOTERR 1 i) |>.note { code := 0x2909, mid := some midSluice }

/-! ## Accesses at I/O virtual addresses (R365) -/

/-- Read memory at a translated address: DRAM, or the scratch of a sail that R18 opens (R142). The bytes and POISON; none where there is no memory. -/
def Block.memRead (mid part pa n : Nat) (b : Block) : Option (Bytes × Bool) × Block :=
  if b.decodePa pa = .scratch then
    if b.sailServes mid ((pa - scratchBase) / 0x1000000) then
      let (v, p, e) := b.scrRead pa n
      (some (v, p || e), b)
    else (none, b.note { code := 0x2503, mid := some mid, addr := some pa })
  else if b.rangeOk pa n then
    let (v, b) := b.readBytes mid part pa n
    (some v, b)
  else (none, b)

/-- Write memory at a translated address. -/
def Block.memWrite (mid part pa : Nat) (v : Bytes) (b : Block) : Bool × Block :=
  if b.decodePa pa = .scratch then
    if b.sailServes mid ((pa - scratchBase) / 0x1000000) then (true, b.scrWrite pa v false)
    else (false, b.note { code := 0x2503, mid := some mid, addr := some pa })
  else if b.rangeOk pa v.length then (true, b.writeBytes mid part pa v)
  else (false, b)

/-- Read at an I/O virtual address, page by page; none on a translation error, poison or a non-memory address. -/
def Block.instReadF (i : Nat) : Nat → Nat → Nat → Block → Option Bytes × Block
  | 0, _, _, b => (some [], b)
  | fuel + 1, va, n, b =>
    if n = 0 then (some [], b)
    else
      let k := min n (4096 - va % 4096)
      match b.iotTranslate (0x10000 + i) midSluice (b.instPart i) none .load va with
      | (none, b) => (none, b)
      | (some pa, b) =>
        match b.memRead midSluice (b.instPart i) pa k with
        | (none, b) => (none, b)
        | (some v, b) =>
          if v.2 then (none, b)
          else match Block.instReadF i fuel (va + k) (n - k) b with
            | (some r, b) => (some (v.1 ++ r), b)
            | (none, b) => (none, b)
def Block.instRead (i va n : Nat) (b : Block) : Option Bytes × Block := b.instReadF i (n / 4096 + 2) va n

/-- Mark a page in the dirty log before its first write (R376); beyond the covered pages LOGOVER and 0x2910. -/
def Block.logPage (i va : Nat) (b : Block) : Block :=
  if !b.isSet SLC_ISTAT_LOGON i then b
  else
    let t := b.inst i
    let k := (va - t.logBase) / 4096
    if va < t.logBase || t.logPages ≤ k then
      b.instFlag SLC_ISTAT_LOGOVER i |>.note { code := 0x2910, mid := some midSluice }
    else
      let a := (if t.logCur = 0 then t.logMap.1 else t.logMap.2) + k / 8
      let (v, b) := b.readBytes midSluice noPart a 1
      b.writeBytes midSluice noPart a [BitVec.ofNat 8 (Nat.lor (leNat v.1) (2 ^ (k % 8)))]

/-- Write at an I/O virtual address, page by page; false where a page cannot be written. -/
def Block.instWriteF (i : Nat) : Nat → Nat → Bytes → Block → Bool × Block
  | 0, _, _, b => (true, b)
  | fuel + 1, va, v, b =>
    if v.isEmpty then (true, b)
    else
      let k := min v.length (4096 - va % 4096)
      match b.iotTranslate (0x10000 + i) midSluice (b.instPart i) none .store va with
      | (none, b) => (false, b)
      | (some pa, b) =>
        match b.memWrite midSluice (b.instPart i) pa (v.take k) with
        | (false, b) => (false, b)
        | (true, _) => Block.instWriteF i fuel (va + k) (v.drop k) ((b.logPage i va).memWrite midSluice (b.instPart i) pa (v.take k)).2
def Block.instWrite (i va : Nat) (v : Bytes) (b : Block) : Bool × Block := b.instWriteF i (v.length / 4096 + 2) va v

/-! ## The hopper (R368-R371) -/

def Block.hopEnt (b : Block) (e : Nat) : HopEnt := SMap.get {} e b.slc.hop
def Block.modHop (e : Nat) (f : HopEnt → HopEnt) (b : Block) : Block := b.modSlc fun s => { s with hop := SMap.upd {} e f s.hop }
def Block.hopOff (b : Block) (e : Nat) : Bool := bit (b.get HOP_DIS_DIS) e
def Block.hopLocked (b : Block) (e : Nat) : Bool := bit (b.get HOP_LOCK_LOCK) e

/-- With seventeen entries disabled every context access goes to DRAM. -/
def Block.hopDirect (b : Block) : Bool := 17 ≤ b.get HOP_DIS_COUNT

/-- The context's address, and one as eight words. -/
def Block.ctxAddr (b : Block) (i q : Nat) : Nat := b.actN (0x4A00 + i) 3 + 64 * q

/-- Write an entry's context back where it is dirty. -/
def Block.hopWriteBack (e : Nat) (b : Block) : Block :=
  let t := b.hopEnt e
  match t.ctx with
  | none => b
  | some (i, q) =>
    if !t.dirty then b
    else match b.instWrite i (b.ctxAddr i q) (ctxBytes t.words) with
      | (true, b) => b.modHop e fun t => { t with dirty := false }
      | (false, b) => b.modHop e (fun t => { t with dirty := false }) |>.stopQueue i q true

/-- Empty an entry. -/
def Block.hopDrop (e : Nat) (b : Block) : Block := b.modHop e fun t => { t with ctx := none, words := [], dirty := false }

/-- The entry that holds a context. -/
def Block.hopFind (b : Block) (i q : Nat) : Option Nat := (List.range 48).find? fun e => (b.hopEnt e).ctx = some (i, q)

/-- The least recently used of some entries. -/
def Block.hopLru (b : Block) (l : List Nat) : Option Nat :=
  l.foldl (fun (a : Option Nat) e => match a with
    | some f => if (b.hopEnt e).used < (b.hopEnt f).used then some e else a
    | none => some e) none

/-- The entry chosen on a miss of instance i (R368), and whether it spills. -/
def Block.hopChoose (b : Block) (i : Nat) : Option (Nat × Bool) :=
  let m := b.get HOP_EMASK_MASK i
  let on := (List.range 48).filter fun e => !b.hopOff e
  let free := on.filter fun e => bit m e && (b.hopEnt e).ctx.isNone
  match free.find? (b.hopLocked ·), free.find? (fun e => !b.hopLocked e) with
  | some e, _ => some (e, false)
  | none, some e => some (e, false)
  | none, none =>
    let open' := on.filter fun e => !b.hopLocked e
    match b.hopLru (open'.filter fun e => bit m e) with
    | some e => some (e, false)
    | none => (b.hopLru (open'.filter fun e => !bit m e)).map fun e => (e, true)

/-- A context through the hopper; none where it cannot be read: the queue stops. -/
def Block.getCtx (i q : Nat) (b : Block) : Option (List Nat) × Block :=
  match b.hopFind i q with
  | some e => (some (b.hopEnt e).words, b.modSlc (fun s => { s with uses := s.uses + 1 }) |>.modHop e fun t => { t with used := b.slc.uses })
  | none =>
    match b.instRead i (b.ctxAddr i q) 64 with
    | (none, b) => (none, b.stopQueue i q true)
    | (some v, b) =>
      let ws := ctxOf v
      if b.hopDirect then (some ws, b)
      else match b.hopChoose i with
        | none => (some ws, b)
        | some (e, spill) =>
          let b := b.hopWriteBack e |>.modHop e fun t => { t with ctx := some (i, q), words := ws, dirty := false, used := b.slc.uses }
          (some ws, b.modSlc fun s => { s with uses := s.uses + 1, spills := if spill then s.spills + 1 else s.spills })

/-- Change a context: in the hopper, or in DRAM where the hopper does not hold it. -/
def Block.putCtx (i q : Nat) (ws : List Nat) (b : Block) : Block :=
  match b.hopFind i q with
  | some e => b.modHop e fun t => { t with words := ws, dirty := true }
  | none => match b.instWrite i (b.ctxAddr i q) (ctxBytes ws) with
    | (true, b) => b
    | (false, b) => b.stopQueue i q true

/-- Fields of a context (R366). -/
def qRing (ws : List Nat) : Nat := ctxF ws 0 0 47
def qSize (ws : List Nat) : Nat := ctxF ws 0 48 51
def qEn (ws : List Nat) : Bool := ctxF ws 0 52 52 = 1
def qHead (ws : List Nat) : Nat := ctxF ws 1 0 15
def qTail (ws : List Nat) : Nat := ctxF ws 1 16 31
def qEntry (ws : List Nat) (j : Nat) : Nat := qRing ws + 32 * (j % 2 ^ qSize ws)

/-! ## The pool and fetches (R372, R373) -/

/-- Entries of an instance, and of one queue. -/
def Block.works (b : Block) (i : Nat) : List Work := b.slc.pool.filter fun w => w.inst = i
def Block.inflight (b : Block) (i q : Nat) : Nat := (b.slc.pool.filter fun w => w.inst = i && w.queue = q).length

/-- Show the occupancy. -/
def Block.showOcc (i : Nat) (b : Block) : Block := b.put SLC_ISTAT_OCC (b.works i).length i

/-- The instance's function is behind a frozen sub-port (R408) or in D3hot, where it issues no request (R391). -/
def Block.instPaused (b : Block) (i : Nat) : Bool := b.ownKind i = 2 && (b.get PCI_SSTAT_STATE = 3 || (SMap.get {} i b.pci.fns).d3)

/-- May a descriptor be fetched for instance i now (R372-R374)? -/
def Block.mayFetch (b : Block) (i : Nat) : Bool :=
  b.instSt i = iActive && !b.instPaused i && (b.works i).length < b.get SLC_ISTAT_SHARE i * 16 && b.slc.pool.length < 16384

/-- Fetch the next descriptor of a queue into the pool; false where none is posted, admitted or readable. -/
def Block.fetchOne (i q : Nat) (rx : Option (Sack × Nat)) (b : Block) : Bool × Block :=
  if (b.inst i).stopped.contains q || !b.mayFetch i then (false, b)
  else match b.getCtx i q with
    | (none, b) => (false, b)
    | (some ws, b) =>
      let j := (qHead ws + b.inflight i q) % 65536
      if !qEn ws || j = qTail ws then (false, b)
      else match b.instRead i (qEntry ws j) 32 with
        | (none, b) => (false, b.stopQueue i q true)
        | (some v, b) =>
          (true, b.modSlc (fun s => { s with pool := s.pool ++ [{ inst := i, queue := q, idx := j, iova := qEntry ws j
                                                                  words := (List.range 4).map (fun k => leAt (8 * k) 8 v), rx := rx }] })
            |>.showOcc i)

/-- Fetch a transmit queue's descriptors while the share admits them. -/
def Block.fetchF (i q : Nat) : Nat → Block → Block
  | 0, b => b
  | n + 1, b => match b.fetchOne i q none with
    | (true, b) => Block.fetchF i q n b
    | (false, b) => b
def Block.fetchAll (i : Nat) (b : Block) : Block := b.forN 4 fun q b => b.fetchF i q (b.get SLC_ISTAT_SHARE i * 16)

/-- A doorbell of TAIL (R367): ignored beyond the ring's size, with QERR and 0x2909; an instance that is not ACTIVE ignores and counts it. -/
def Block.doorbell (i q tail : Nat) (b : Block) : Block :=
  if b.instSt i ≠ iActive then b.modInst i fun t => { t with ignored := t.ignored + 1 }
  else if (b.inst i).stopped.contains q then b
  else match b.getCtx i q with
    | (none, b) => b
    | (some ws, b) =>
      if 2 ^ qSize ws < (tail % 65536 + 65536 - qHead ws) % 65536 then
        b.instFlag SLC_ISTAT_QERR i |>.note { code := 0x2909, mid := some midSluice }
      else
        b.putCtx i q (ctxS 1 16 31 tail ws) |>.when (q < 4) (fun b => b.fetchF i q (b.get SLC_ISTAT_SHARE i * 16))

/-- An arrival for a receive queue takes the descriptor at HEAD; with none it is dropped and counted (R367, R374). -/
def Block.toQueue (i q : Nat) (x : Sack) (port : Nat) (b : Block) : Bool × Block :=
  match (if b.instSt i = iActive then b.fetchOne i q (some (x, port)) else (false, b)) with
  | (true, b) => (true, b)
  | (false, b) => (false, b.modInst i fun t => { t with dropped := t.dropped + 1 })

/-! ## Completions (R366, R367) -/

/-- A queue's MSI goes out now: to its address, or as its function's vector. -/
def Block.queueMsi (i q addr eiid : Nat) (b : Block) : Block :=
  let b := b.modInst i fun t => { t with msiNs := SMap.set 0 q b.timeNs t.msiNs, msiPend := t.msiPend.filter fun e => e.1 ≠ q }
  if b.ownKind i = 2 then b.sendVec i q else b.sendMsi midSluice addr eiid

/-- A microsecond has passed since the last MSI of a queue. -/
def Block.msiFree (b : Block) (i q : Nat) : Bool :=
  let last := SMap.get 0 q (b.inst i).msiNs
  last = 0 || last + 1000 ≤ b.timeNs

/-- The interrupt of a completion: at most one per us and queue; one that comes sooner waits. -/
def Block.doneMsi (i q : Nat) (ws : List Nat) (b : Block) : Block :=
  if ctxF ws 0 53 53 = 0 then b
  else if b.msiFree i q then b.queueMsi i q (ctxF ws 2 0 47) (ctxF ws 1 32 42)
  else b.modInst i fun t => { t with msiPend := t.msiPend.filter (fun e => e.1 ≠ q) ++ [(q, ctxF ws 2 0 47, ctxF ws 1 32 42)] }

/-- The MSIs that wait and may go; with `all`, every one. -/
def Block.lateMsis (all : Bool) (i : Nat) (b : Block) : Block :=
  b.forL (b.inst i).msiPend fun e b => b.when (all || b.msiFree i e.1) (Block.queueMsi i e.1 e.2.1 e.2.2)

/-- The waiting MSIs of every instance that may go (R367). -/
def Block.msisDue (b : Block) : Block := b.forL (b.slc.insts.map (·.1)) (Block.lateMsis false)

/-- A descriptor is written back, then HEAD and DONECNT advance and the MSI is sent. -/
def Block.descDone (w : Work) (words : List (Nat × Nat)) (b : Block) : Block :=
  let r := words.foldl (fun (acc : Bool × Block) e =>
    if !acc.1 then acc else acc.2.instWrite w.inst (w.iova + 8 * e.1) (leBytes 8 e.2)) (true, b)
  if !r.1 then r.2.stopQueue w.inst w.queue true
  else match r.2.getCtx w.inst w.queue with
    | (none, b) => b
    | (some ws, b) =>
      let ws := ctxS 1 0 15 (qHead ws + 1) (ctxS 3 0 31 (ctxF ws 3 0 31 + 1) ws)
      b.putCtx w.inst w.queue ws |>.doneMsi w.inst w.queue ws

/-- Word 2 as written back: STATUS and DONE. -/
def doneWord (status : Nat) : Nat := status + 0x8000

/-- Transmit descriptor fields. -/
def dLen (w : Work) : Nat := ctxF w.words 1 0 13
def dVl (w : Work) : Nat := ctxF w.words 1 26 27

/-- Carry out a transmit descriptor: its STATUS. -/
def Block.transmit (w : Work) (b : Block) : Nat × Block :=
  let d := ctxF w.words 1 14 25
  let n := dLen w
  let eth := b.isSet LVP_EPT_ETH d
  match b.portOf d with
  | none => (4, b)
  | some k =>
    if dVl w = 0 || (if eth then n < 60 || 9216 < n else n = 0 || 2048 < n) then (4, b)
    else if dVl w ≠ 1 && !b.outputsOn then (3, b.cnt k 12 1)
    else match b.instRead w.inst (ctxF w.words 0 0 47) n with
      | (none, b) => (2, b)
      | (some v, b) =>
        (0, b.offerSack k { vl := dVl w, kind := ctxF w.words 1 28 30, dst := d, src := b.devEp, stream := ctxF w.words 1 32 47
                            turn := b.turn % 2 ^ 32, payload := v, raw := eth, part := b.instPart w.inst } |>.pnCheck k)

/-- Complete an admitted entry. -/
def Block.complete (w : Work) (b : Block) : Block :=
  let b := b.modSlc (fun s => { s with pool := s.pool.erase w }) |>.showOcc w.inst
  match w.rx with
  | none =>
    let (st, b) := b.transmit w
    b.descDone w [(2, doneWord st)]
  | some (x, port) =>
    let cap := dLen w
    let v := x.payload.take cap
    let (ok, b) := b.instWrite w.inst (ctxF w.words 0 0 47) v
    let st := if !ok then 2 else if cap < x.payload.length then 1 else 0
    b.descDone w [(1, v.length + x.src * 2 ^ 14 + x.vl * 2 ^ 26 + x.kind * 2 ^ 28 + x.stream * 2 ^ 32 + port * 2 ^ 48), (2, doneWord st)]

/-- Squash the entries of an instance that have not started: STATUS 5 (R375). -/
def Block.squashInst (i : Nat) (b : Block) : Block :=
  let l := b.works i
  let b := b.modSlc (fun s => { s with pool := s.pool.filter fun w => w.inst ≠ i }) |>.showOcc i
  b.forL l fun w b => b.descDone w [(2, doneWord 5)]

/-- A reset of an instance (R374, R375). -/
def Block.resetInst (i : Nat) (squash : Bool) (b : Block) : Block :=
  if b.instSt i = iDisabled then b
  else
    let b := b.put SLC_ISTAT_STATE (if squash then iSquashing else iDraining) i
    if squash then b.squashInst i else b

/-- The instance whose entry is served next: deficit round robin over instances with weight SHARE, in bytes (R372). -/
def Block.drrWork (b : Block) : Option (Work × Nat × Nat) :=
  let cost (w : Work) : Nat := match w.rx with | some (x, _) => x.payload.length | none => dLen w
  let cur := b.slc.drr
  let again : Option (Work × Nat × Nat) := match (b.works cur).head? with
    | some w => let d := SMap.get 0 cur b.slc.deficit
                if cost w ≤ d then some (w, cur, d - cost w) else none
    | none => none
  match again with
  | some r => some r
  | none =>
    match ((List.range 256).map fun k => (cur + 1 + k) % 256).find? (fun i => !(b.works i).isEmpty) with
    | none => none
    | some i => match (b.works i).head? with
      | some w => some (w, i, SMap.get 0 i b.slc.deficit + max 1 (b.get SLC_ISTAT_SHARE i) * 16384 - cost w)
      | none => none

/-- Shares, log swaps and error decay at a boundary (R371, R373, R377). -/
def Block.slcBoundary (b : Block) : Block :=
  let b := b.forL (b.slc.insts.map (·.1)) fun i b =>
    let b := match (b.inst i).newShare with
      | some n => b.put SLC_ISTAT_SHARE n i |>.put SLC_ISTAT_SHAREPEND 0 i |>.modInst i fun t => { t with newShare := none }
      | none => b
    let b := if b.isSet SLC_ISTAT_LOGSWAP i then
        b.put SLC_ISTAT_LOGSWAP 0 i |>.modInst i fun t => { t with logCur := 1 - t.logCur }
      else b
    b.fetchAll i
  let n := b.slc.hopDecay + 1
  if b.get HOP_ERRCFG_DECAY ≤ n then
    b.modSlc fun s => { s with hopDecay := 0, hop := SMap.mapV {} (fun _ t => { t with errs := t.errs - 1 }) s.hop }
  else b.modSlc fun s => { s with hopDecay := n }

end Sys2Proof.Machine
end

