-- ==== Sys2Proof/Machine/Leavo.lean ====
section
/-! DEFINITION. The commands of the Leavo ports: bring-up (the port state table), credits, lanes, beacons and keepalives, probes,
second copies and slot ends, and key exchanges. -/

namespace Sys2Proof.Machine

/-! ## Bring-up -/

/-- PORT_ENABLE (port state table): an enabled port leaves OFF for TRAIN in every state but OFF and BOOT; not after a thermal trip. -/
def execPortEnable (port : Nat) (s : State) : Host.Outcome State Fault Refusal :=
  onBlk s fun b =>
    if 6 ≤ port || !b.isSet LVP_CFG_EN port || b.portSt port ≠ pOff || b.dev = .off || b.dev = .boot || b.pwr.tripped then b
    else b.put LVP_STATUS_STATE pTrain port |>.put LVP_STATUS_BSTAT (if b.isSet LVP_STATUS_LOCALHOLD port then 1 else b.dev.beacon) port

/-- LANE_LOCK: lanes that locked enter the lane map, and the port enters ALIGN. -/
def execLaneLock (port lanes : Nat) (s : State) : Host.Outcome State Fault Refusal :=
  onBlk s fun b =>
    if 6 ≤ port || b.portSt port ≠ pTrain || lanes % 16 = 0 then b
    else b.put LVP_STATUS_STATE pAlign port |>.put LVP_STATUS_TXLANES (lanes % 16) port |>.put LVP_STATUS_RXLANES (lanes % 16) port

/-- TRAIN_TIMEOUT: the port restarts training and counts the attempt. -/
def execTrainTimeout (port : Nat) (s : State) : Host.Outcome State Fault Refusal :=
  onBlk s fun b =>
    if 6 ≤ port || b.portSt port ≠ pTrain then b else b.modPort port fun p => { p with attempts := p.attempts + 1 }

/-- ALIGN_LOCK: every locked lane has codeword and alignment lock; the port enters INIT. An Ethernet-mode port, which exchanges no INIT,
is then UP. -/
def execAlignLock (port : Nat) (s : State) : Host.Outcome State Fault Refusal :=
  onBlk s fun b =>
    if 6 ≤ port || b.portSt port ≠ pAlign then b
    else
      let b := b.toInit port
      if b.native port then b else b.put LVP_STATUS_STATE pUp port |>.note (lvpFault 0x0807 port)

/-- Both ends have shown ACKED: the port enters UP. -/
def Block.initDone (k : Nat) (b : Block) : Block :=
  if (b.port k).gotAck && (b.port k).sentAck && b.portSt k = pInit then b.toUp k else b

/-- INIT (R316, port state table): an INIT block arrives. -/
def execInitFrame (port : Nat) (data : Bytes) (s : State) : Host.Outcome State Fault Refusal :=
  onBlk s fun b =>
    if !b.portTalks port || !b.native port then b
    else if !ctlOk data then b.badBlock port
    else if leAt 0 1 data ≠ 0x49 then b.oddBlock port data
    else if b.portSt port ≠ pInit then b
    else
      let f := leAt 1 1 data
      if f % 8 ≠ 1 || leAt 8 2 data < 2048 then b.note (lvpFault 0x2809 port 2)
      else
        b.put LVP_STATUS_PEP (leAt 2 2 data) port |>.put LVP_STATUS_PPEER (ofBool (bit f 4)) port |>.put LVP_STATUS_PARTNER 1 port
          |>.put LVP_PCRED_CREDITS (leAt 4 2 data) port |>.put LVP_PCRED_RSV (leAt 6 2 data) port
          |>.modPort port (fun p => { p with gotInit := true, gotAck := bit f 5 }) |>.initDone port

/-- INIT_SEND (R316): every 1 us in INIT; the device offers 2,048 units, and RSV from LVP_CFG. -/
def execInitSend (port : Nat) (s : State) : Host.Outcome State Fault Refusal :=
  onBlk s fun b =>
    if 6 ≤ port || b.portSt port ≠ pInit || !b.native port then b
    else
      let ack := (b.port port).gotInit
      b.sendBlock port ([0x49, BitVec.ofNat 8 (1 + 8 + 16 + 32 * ofBool ack)] ++ leBytes 2 b.devEp ++ leBytes 2 2048
          ++ leBytes 2 (b.get LVP_CFG_RSVCRED port) ++ leBytes 2 2048 ++ [BitVec.ofNat 8 (b.get LVP_STATUS_TXLANES port)])
        |>.modPort port (fun p => { p with sentAck := p.sentAck || ack }) |>.initDone port

/-- CODEWORD_LOCK_LOST: no codeword lock on any lane for 1 us takes an UP port to TRAIN, with 0x3805. -/
def execCodewordLockLost (port : Nat) (s : State) : Host.Outcome State Fault Refusal :=
  onBlk s fun b =>
    if 6 ≤ port || b.portSt port ≠ pUp then b else b.toTrain port |>.raise (lvpFault 0x3805 port)

/-- PARTNER_ABSENT (R331): back to INIT with the credits reset, and 0x3806. -/
def execPartnerAbsent (port : Nat) (s : State) : Host.Outcome State Fault Refusal :=
  onBlk s fun b =>
    if 6 ≤ port || (b.portSt port ≠ pUp && b.portSt port ≠ pInit) then b
    else b.toInit port |>.put LVP_ERRSTAT_PABSENT 1 port |>.cnt port 14 1 |>.raise (lvpFault 0x3806 port)

/-- PORT_RESET (R500): port state, credits, key slots and LOCALHOLD are cleared; configuration and counters stay. -/
def execPortReset (port : Nat) (s : State) : Host.Outcome State Fault Refusal :=
  onBlk s fun b =>
    if 6 ≤ port then b
    else
      let b := b.toOff port
      b.modPort port (fun p => { macs := p.macs, epoch := p.epoch, discards := p.discards })
        |>.setR .LVP_STATUS 0 port |>.setR .LVP_TXCUM 0 port |>.setR .LVP_TXFREED 0 port |>.setR .LVP_PCRED 0 port |>.setR .LVP_LINK 0 port
        |>.setR .LVP_KEYSTAT 0 port |>.setR .LVP_TXPN 0 port

/-! ## Receiving blocks -/

/-- UNCORRECTABLE_CODEWORD (R313): every sack and block in it is lost to the receiver. -/
def execUncorrectableCodeword (port : Nat) (s : State) : Host.Outcome State Fault Refusal :=
  onBlk s fun b =>
    if !b.portTalks port then b
    else b.cnt port 2 1 |>.put LVP_ERRSTAT_UNCOR 1 port |>.note (lvpFault 0x2802 port)

/-- Credits are healed, or the partner has overrun them (R320, R321): `some` block to go on with, or none after the return to INIT.
`want` is the count expected, `cum` the count received. -/
def Block.heal (k want cum : Nat) (b : Block) : Bool × Block :=
  let d := (cum + 2 ^ 24 - want % 2 ^ 24) % 2 ^ 24
  if d = 0 then (true, b.modPort k fun p => { p with rxCum := cum })
  else if d < 2 ^ 23 then
    (true, b.modPort k (fun p => { p with rxCum := cum, rxFreed := (p.rxFreed + d) % 2 ^ 24 })
      |>.cnt k 10 d |>.put LVP_ERRSTAT_HEAL 1 k |>.noteOnce k (lvpFault 0x180B k))
  else (false, b.put LVP_ERRSTAT_CREDOVR 1 k |>.note (lvpFault 0x280F k) |>.toInit k)

/-- The partner's FREED count arrives: waiting sacks may go. -/
def Block.freed (k f : Nat) (b : Block) : Block := b.put LVP_TXFREED_FREED f k |>.drain k |>.pnCheck k

/-- BEACON (R320, R332): the partner, a peer package, sends its counts and its turn number. -/
def execBeaconFrame (port : Nat) (data : Bytes) (s : State) : Host.Outcome State Fault Refusal :=
  onBlk s fun b =>
    if !b.portTalks port then b
    else if !ctlOk data then b.badBlock port
    else if leAt 0 1 data ≠ 0x4B then b.oddBlock port data
    else
      let b := b.put LVP_STATUS_PARTNER 1 port
      let b := b.when (b.isSet LVP_CFG_PEER port && b.actN 0x2000 2 = 3) (Block.peerBeacon (leAt 4 6 data) (leAt 12 2 data + b.get LVP_LINK_RTT port / 2))
      if b.portSt port ≠ pUp || !b.native port then b
      else match b.heal port (b.port port).rxCum (leAt 24 3 data) with
        | (true, b) => b.freed port (leAt 27 3 data)
        | (false, b) => b

/-- KEEPALIVE (R318, R327): each port in ALIGN, INIT or UP sends one every 8 us, in every device state. -/
def execKeepaliveFrame (port : Nat) (s : State) : Host.Outcome State Fault Refusal :=
  onBlk s fun b =>
    if !b.portTalks port then b
    else
      let p := b.port port
      b.sendBlock port ([0x4D, BitVec.ofNat 8 (b.get LVP_STATUS_BSTAT port)] ++ leBytes 2 b.devEp ++ leBytes 2 p.kseq
          ++ leBytes 3 (b.get LVP_TXCUM_CUM port) ++ leBytes 3 p.rxFreed)
        |>.modPort port (fun p => { p with kseq := (p.kseq + 1) % 65536, rxRep := p.rxFreed })

/-- KEEPALIVE_RECEIVED (R320): the partner is present; lost sacks are healed; its FREED count is taken. -/
def execKeepaliveReceived (port : Nat) (data : Bytes) (s : State) : Host.Outcome State Fault Refusal :=
  onBlk s fun b =>
    if !b.portTalks port then b
    else if !ctlOk data then b.badBlock port
    else if leAt 0 1 data ≠ 0x4D then b.oddBlock port data
    else
      let b := b.put LVP_STATUS_PARTNER 1 port
      if b.portSt port ≠ pUp || !b.native port then b
      else match b.heal port (b.port port).rxCum (leAt 6 3 data) with
        | (true, b) => b.freed port (leAt 9 3 data)
        | (false, b) => b

/-- CREDIT (R319): the partner's FREED count. -/
def execCreditFrame (port : Nat) (data : Bytes) (s : State) : Host.Outcome State Fault Refusal :=
  onBlk s fun b =>
    if 6 ≤ port || b.portSt port ≠ pUp || !b.native port then b
    else if !ctlOk data then b.badBlock port
    else if leAt 0 1 data ≠ 0x43 then b.oddBlock port data
    else b.freed port (leAt 9 3 data)

/-- CREDIT_REPORT (R319): the device reports FREED where it has changed since its last report. -/
def execCreditReport (port : Nat) (s : State) : Host.Outcome State Fault Refusal :=
  onBlk s fun b =>
    let p := b.port port
    if 6 ≤ port || b.portSt port ≠ pUp || !b.native port || p.rxFreed = p.rxRep then b
    else
      b.sendBlock port ([0x43] ++ List.replicate 8 0 ++ leBytes 3 p.rxFreed) |>.modPort port (fun p => { p with rxRep := p.rxFreed })

/-! ## Lanes (R322-R325) -/

/-- The LANEMAP request for the map that the receiver wants. -/
def Block.sendLanemap (k m : Nat) (b : Block) : Block := b.sendBlock k [0x4C, BitVec.ofNat 8 (m + 16)]

/-- LANE_FAIL (R322-R325): the receiver asks for a map without the lane; with the last lane the port leaves UP for TRAIN. -/
def execLaneFail (port lane : Nat) (s : State) : Host.Outcome State Fault Refusal :=
  onBlk s fun b =>
    let m := b.get LVP_STATUS_RXLANES port
    if !b.portTalks port || 4 ≤ lane || !bit m lane then b
    else
      let want := (b.port port).askMap.getD m
      let left := if bit want lane then want - 2 ^ lane else want
      let b := b.put LVP_ERRSTAT_LANEFAIL 1 port |>.cnt port 13 1 |>.dropKeys port
      if left = 0 then
        let up := b.portSt port = pUp
        b.toTrain port |>.when up (fun b => b.raise (lvpFault 0x3805 port))
      else if b.native port then
        b.modPort port (fun p => { p with askMap := some left }) |>.sendLanemap port left |>.raise (lvpFault 0x3803 port)
      else b.put LVP_STATUS_RXLANES left port |>.raise (lvpFault 0x3803 port) |>.lanesCheck port m left

/-- LANEMAP_RESEND (R323): every 1 us until the new map arrives. -/
def execLanemapResend (port : Nat) (s : State) : Host.Outcome State Fault Refusal :=
  onBlk s fun b =>
    match (b.port port).askMap with
    | some m => if b.portTalks port then b.sendLanemap port m else b
    | none => b

/-- LANEMAP (R323-R325): a request drops lanes of the transmitter, which sends AM codewords with the new map; an announcement with RESTORE gives
the receiver a lane back. -/
def execLanemapFrame (port : Nat) (data : Bytes) (s : State) : Host.Outcome State Fault Refusal :=
  onBlk s fun b =>
    if !b.portTalks port || !b.native port then b
    else if !ctlOk data then b.badBlock port
    else if leAt 0 1 data ≠ 0x4C then b.oddBlock port data
    else
      let f := leAt 1 1 data
      if bit f 4 then
        let m := b.get LVP_STATUS_TXLANES port
        let left := Nat.land m (f % 16)
        if left = 0 || left = m then b
        else
          b.put LVP_STATUS_TXLANES left port |>.put LVP_ERRSTAT_LANEFAIL 1 port |>.cnt port 13 1 |>.dropKeys port |>.sendAm port
            |>.raise (lvpFault 0x3803 port) |>.lanesCheck port m left
      else if bit f 5 && f % 16 ≠ 0 then
        b.put LVP_STATUS_RXLANES (f % 16) port |>.dropKeys port |>.note (lvpFault 0x0804 port)
      else b

/-- LANE_RESTORE (R324): a transmit lane has retrained; it is added back after the next BEACON. -/
def execLaneRestore (port lane : Nat) (s : State) : Host.Outcome State Fault Refusal :=
  onBlk s fun b =>
    if !b.portTalks port || !b.native port || 4 ≤ lane || bit (b.get LVP_STATUS_TXLANES port) lane then b
    else b.modPort port (fun p => { p with addBack := Nat.lor p.addBack (2 ^ lane) }) |>.dropKeys port

/-- AM (R311, R323): the receiver deskews from an alignment codeword and takes its lane map. -/
def execAlignMarker (port : Nat) (data : Bytes) (s : State) : Host.Outcome State Fault Refusal :=
  onBlk s fun b =>
    if !b.portTalks port || !b.native port then b
    else if !ctlOk data then b.badBlock port
    else
      let m := leAt 1 1 data / 16
      let old := b.get LVP_STATUS_RXLANES port
      if leAt 0 1 data ≠ 0x7A then b.oddBlock port data
      else if m = 0 then b
      else
        b.put LVP_STATUS_RXLANES m port |>.modPort port (fun p => { p with askMap := if p.askMap = some m then none else p.askMap })
          |>.lanesCheck port old m

/-- PROBE (R333): a probe is answered at once; an answer gives the round trip. -/
def execProbeFrame (port : Nat) (data : Bytes) (s : State) : Host.Outcome State Fault Refusal :=
  onBlk s fun b =>
    if 6 ≤ port || b.portSt port ≠ pUp || !b.native port then b
    else if !ctlOk data then b.badBlock port
    else if leAt 0 1 data ≠ 0x50 then b.oddBlock port data
    else if bit (leAt 1 1 data) 0 then
      b.put LVP_LINK_RTT (b.timeNs - leAt 10 8 data - leAt 18 4 data) port
    else b.sendBlock port ([0x50, 1] ++ leBytes 8 b.timeNs ++ leBytes 8 (leAt 2 8 data) ++ leBytes 4 0)

/-- PORT_BOUNDARY_MISSED (R328): the port sends the beacon alone, with HOLD and LOCAL, and keeps HOLD until a reset. -/
def execPortBoundaryMissed (port : Nat) (s : State) : Host.Outcome State Fault Refusal :=
  onBlk s fun b =>
    if !b.portTalks port then b
    else
      b.put LVP_STATUS_LOCALHOLD 1 port |>.put LVP_STATUS_BSTAT 1 port |>.put LVP_ERRSTAT_BMISS 1 port |>.cnt port 15 1
        |>.modPort port (fun p => { p with turn := (p.turn + 1) % 2 ^ 48 }) |>.sendBeacon port true |>.note (lvpFault 0x280E port)

/-! ## Slots (R337) -/

/-- DUP_COPY_SEND (R337): 5 us after its first copy started, the oldest second copy goes out with DUPCOPY set. -/
def execDupCopySend (port : Nat) (s : State) : Host.Outcome State Fault Refusal :=
  onBlk s fun b =>
    let b := b.dropOutputs port
    match (b.port port).dups with
    | [] => b
    | (t, x) :: r =>
      let b := b.advanceTo t
      if 6 ≤ port || (b.port port).slot.isNone || !b.maySend port x then b
      else b.modPort port (fun p => { p with dups := r }) |>.putSack port { x with dup := true } |>.pnCheck port

/-- SLOT_END (R337): every sack of the slot that has not started is dropped. -/
def execSlotEnd (port slot : Nat) (s : State) : Host.Outcome State Fault Refusal :=
  onBlk s fun b =>
    if 6 ≤ port || (b.port port).slot ≠ some slot then b
    else
      let b := b.advanceTo (b.get LVP_SLOT_END port slot * 100)
      let p := b.port port
      b.dropVl0 port (p.vl0.length + p.dups.length) |>.modPort port (fun p => { p with slot := none, vl0 := [], dups := [] })
        |>.drain port |>.pnCheck port

/-! ## Key exchanges (R482-R484) -/

/-- A key-management payload of the type, whose TAG holds under the port's link master key. -/
def Block.keyOk (b : Block) (k ty src dst : Nat) (v : Bytes) : Bool :=
  let lmk := SMap.get [] k b.lvp.lmk
  k < 6 && b.portSt k = pUp && b.native k && v.length = 72 && leAt 0 1 v = ty && leAt 1 1 v < 2 && !lmk.isEmpty
    && v.drop 40 = keyTag lmk (v.take 40) src dst

/-- KEY_OFFER (R483 step 2): the responder loads both keys into the slot not in use and answers ACCEPT. -/
def execKeyOffer (port src dst : Nat) (payload : Bytes) (s : State) : Host.Outcome State Fault Refusal :=
  onBlk s fun b =>
    if !b.keyOk port 1 src dst payload || b.initiates port then b
    else
      let slot := leAt 1 1 payload
      let epoch := leAt 4 4 payload
      let na := (payload.drop 8).take 32
      if slot = b.get LVP_KEYSTAT_TXKEYID port then b.sendKey port 4 slot epoch (List.replicate 32 0)
      else
        let nb := leBytes 32 (Config.nonce b.free)
        let lmk := SMap.get [] port b.lvp.lmk
        b.tickFree.loadKeys port slot (keyDerive lmk epoch na nb 1) (keyDerive lmk epoch na nb 0)
          |>.modPort port (fun p => { p with kx := some { mine := false, slot := slot, epoch := epoch, na := na, nb := nb }, epoch := epoch })
          |>.sendKey port 2 slot epoch nb

/-- KEY_ACCEPT (R483 step 3): the initiator checks TAG, slot, EPOCH and NB, loads both keys and sends CONFIRM. -/
def execKeyAccept (port src dst : Nat) (payload : Bytes) (s : State) : Host.Outcome State Fault Refusal :=
  onBlk s fun b =>
    match (b.port port).kx with
    | none => b
    | some x =>
      let nb := (payload.drop 8).take 32
      if !x.mine || !b.keyOk port 2 src dst payload || leAt 1 1 payload ≠ x.slot || leAt 4 4 payload ≠ x.epoch || nb = x.na then b
      else
        let lmk := SMap.get [] port b.lvp.lmk
        b.loadKeys port x.slot (keyDerive lmk x.epoch x.na nb 0) (keyDerive lmk x.epoch x.na nb 1)
          |>.sendKey port 3 x.slot x.epoch nb |>.keysDone port x.slot

/-- KEY_CONFIRM (R483 step 4): the responder changes its transmit KEYID too. -/
def execKeyConfirm (port src dst : Nat) (payload : Bytes) (s : State) : Host.Outcome State Fault Refusal :=
  onBlk s fun b =>
    match (b.port port).kx with
    | none => b
    | some x =>
      if x.mine || !b.keyOk port 3 src dst payload || leAt 1 1 payload ≠ x.slot || leAt 4 4 payload ≠ x.epoch
          || (payload.drop 8).take 32 ≠ x.nb then b
      else b.keysDone port x.slot

/-- KEY_REJECT (R483): the key slots stay as they are; the initiator goes on resending until it gives up. -/
def execKeyReject (_port : Nat) (_payload : Bytes) (s : State) : Host.Outcome State Fault Refusal := onBlk s fun b => b

/-- KEY_OFFER_RESEND (R483): every 1 ms, up to 8 times; then 0x2C0B, and the current keys stay. -/
def execKeyOfferResend (port : Nat) (s : State) : Host.Outcome State Fault Refusal :=
  onBlk s fun b =>
    match (b.port port).kx with
    | none => b
    | some x =>
      if !x.mine then b
      else if x.sent ≤ 8 then
        b.modPort port (fun p => { p with kx := some { x with sent := x.sent + 1 } }) |>.sendKey port 1 x.slot x.epoch x.na
      else b.dropKeys port |>.note (lvpFault 0x2C0B port)

end Sys2Proof.Machine
end

