-- ==== Sys2Proof/Machine/Arrival.lean ====
section
/-! DEFINITION. Arrivals and slots: the checks of a received sack and frame (R314, R338, R341, R347, R348), their routing and classification
(R351-R362), TX slots (R337), and the sluice's window writes (R53). -/

namespace Sys2Proof.Machine

/-! ## Classification -/

/-- The checks and the action of a flow on an arrival (R360). -/
def Block.runFlow (i : Nat) (a : Arrival) (b : Block) : Block :=
  let b := b.useFlow i
  match b.flowChecks i a with
  | (false, b) => b
  | (true, b) =>
    match b.flowByIdx i with
    | none => b
    | some e =>
      match fAction e.words with
      | 1 => b.actWindow i a
      | 2 => match b.toQueue (ctxF e.words 2 17 24) (ctxF e.words 2 25 27) a.sack a.port with
        | (true, b) => b.flowTaken i
        | (false, b) => b
      | 3 => b.actForward i a
      | 4 => b.flowTaken i |>.toService (ctxF e.words 2 28 31) a
      | _ => b.flowDrop i false

/-- A waiting arrival has a key among those given: both may turn out to be of one flow. -/
def Arrival.shares (a : Arrival) (keys : List Bytes) : Bool := a.keys.any fun k => keys.contains k

/-- The arrivals of a list with the given keys, in order, each unless an earlier one of other keys might be of its flow; `held`: the keys of those. And the rest. -/
def takeRun (keys : List Bytes) : List Bytes → List Arrival → List Arrival × List Arrival
  | _, [] => ([], [])
  | held, x :: l =>
    if x.keys = keys && !x.shares held then let r := takeRun keys held l; (x :: r.1, r.2)
    else let r := takeRun keys (if x.shares keys then held ++ x.keys else held) l; (r.1, x :: r.2)

/-- Classify an arrival: a cached flow acts at once; otherwise, or behind an earlier arrival that may be of its flow, it waits for a walk (R355, R358). -/
def Block.classify (a : Arrival) (b : Block) : Block :=
  let queue (b : Block) : Block :=
    b.modSlc fun s => { s with walks := s.walks ++ [{ a with walk := s.nextWalk }], nextWalk := s.nextWalk + 1 }
  match a.keys with
  | [] => b.flowMiss a
  | k :: _ =>
    if b.slc.walks.any (fun w => w.shares a.keys) then queue b
    else match b.flowByKey k with
      | some e => b.runFlow e.index a
      | none => queue b

/-- Finish the walks of an arrival, key by key. -/
def Block.walkKeys (a : Arrival) : List Bytes → Block → Block
  | [], b => b.flowMiss a
  | k :: ks, b =>
    match b.flowByKey k with
    | some e => b.runFlow e.index a
    | none =>
      match b.walkFlow k with
      | (.error x, b) => b.note { code := 0x2902, mid := some midSluice, addr := some x }
      | (.ok (some (i, ws)), b) => b.addFlow { index := i, words := ws } |>.runFlow i a
      | (.ok none, b) => Block.walkKeys a ks b

/-- FLOW_WALK_COMPLETE (R355, R358): the reads of a walk return; the arrivals behind it with the same keys follow in order. A walk behind an earlier arrival that
may be of its flow waits for that one. -/
def execFlowWalkComplete (walk : Nat) (s : State) : Host.Outcome State Fault Refusal :=
  onBlk s fun b =>
    match b.slc.walks.find? (fun a => a.walk = walk) with
    | none => b
    | some a =>
      let r := takeRun a.keys [] b.slc.walks
      if !r.1.contains a then b
      else b.modSlc (fun s => { s with walks := r.2 }) |>.forL r.1 fun x b => b.walkKeys x x.keys

/-! ## Routing (R351) -/

/-- Route a native sack that passed its port's checks. -/
def Block.routeSack (k : Nat) (sec : Bool) (x : Sack) (b : Block) : Block :=
  if x.dst ≠ b.devEp then
    if x.vl = 0 then b.discard k |>.note { code := 0x2903, mid := some midSluice }
    else match b.portOf x.dst with
      | some j => b.offerSack j x |>.pnCheck j
      | none => b.discard k
  else match x.kind with
    | 1 => b.emit (.service k 1 x.src x.payload)
    | 2 => b.discard k
    | 3 => b.emit (.service k 3 x.src x.payload)
    | 4 => b.emit (.service k 4 x.src x.payload)
    | _ => b.classify { keys := [sackKey x], port := k, turn := b.tagTurn, phase := b.nowNs, sack := x, sec := sec }

/-- A VL0 sack arrives within an RX slot of the port, widened by 1 us, which may reach over a boundary (R338). -/
def Block.inRxSlot (b : Block) (k : Nat) : Bool :=
  (List.range 64).any fun n => b.isSet LVP_SLOT_VALID k n && b.isSet LVP_SLOT_DIR k n
    && ((b.get LVP_SLOT_START k n * 100 ≤ b.nowNs + 1000 && b.nowNs < b.get LVP_SLOT_END k n * 100 + 1000)
      || b.get LVP_SLOT_START k n * 100 + b.actN 0x2000 1 * 1000 ≤ b.nowNs + 1000
      || b.nowNs + b.actN 0x2000 1 * 1000 < b.get LVP_SLOT_END k n * 100 + 1000)

/-- KIND and VL go together (R314 check 5). -/
def kindOk (kind vl : Nat) : Bool :=
  kind = 0 || (1 ≤ kind && kind ≤ 4 && vl = 1) || (kind = 5 && (vl = 0 || vl = 2))

/-- The sack that a START block and its payload in clear make. -/
def sackOf (st payload : Bytes) : Sack :=
  let f := leAt 1 1 st
  { vl := f % 4, kind := f / 32, dst := leAt 2 2 st, src := leAt 4 2 st, stream := leAt 8 2 st, sseq := leAt 10 2 st, turn := leAt 14 4 st
    fresh := bit f 3, dup := bit f 4, payload := payload }

/-- Header fields in range (R314 check 1). -/
def startOk (st : Bytes) : Bool :=
  leAt 0 1 st = 0xA5 && leAt 2 2 st < 4096 && leAt 4 2 st < 4096 && 1 ≤ leAt 6 2 st && leAt 6 2 st ≤ 2048 && leAt 21 1 st < 2

/-- Checks 5 and R338, then the sluice. -/
def Block.passSack (k : Nat) (sec : Bool) (x : Sack) (b : Block) : Block :=
  if !kindOk x.kind x.vl then b.cnt k 5 1
  else if x.vl = 0 && !b.inRxSlot k then b.cnt k 9 1 |>.put LVP_ERRSTAT_OUTSLOT 1 k |>.note (lvpFault 0x280C k)
  else b.routeSack k sec x

/-- The authentication check (R314 check 4, R341): the payload in clear. -/
def Block.authSack (k : Nat) (st payload tag : Bytes) (b : Block) : Option Bytes × Block :=
  let x := sackOf st payload
  if bit (leAt 1 1 st) 2 then
    let id := leAt 21 1 st % 2
    let pn := leAt 22 8 st
    let key := SMap.get {} id (b.port k).rx
    if !key.loaded || pn < key.pn then (none, b)
    else match gcmOpen key.key (key.salt ++ beBytes 8 pn) (st.take 30) payload tag with
      | some v => (some v, b.modPort k fun p => { p with rx := SMap.upd {} id (fun q => { q with pn := pn + 1 }) p.rx })
      | none => (none, b)
  else (if b.needsEnc k x then none else some payload, b)

/-- SACK_RECEIVE (R313, R314, R319-R321): the checks in order, then the sluice; a sack discarded after its credit check frees its units. -/
def execSackReceive (port : Nat) (start body tail : Bytes) (fixed : Nat) (s : State) : Host.Outcome State Fault Refusal :=
  onBlk s fun b =>
    if 6 ≤ port || b.portSt port ≠ pUp || !b.native port then b
    else
      let b := if fixed = 0 then b else b.cnt port 0 1 |>.cnt port 1 fixed |>.noteOnce port (lvpFault 0x1801 port)
      if !ctlOk start || !startOk start then
        b.cnt port 5 1 |>.when (!ctlOk start) (fun b => b.put LVP_ERRSTAT_CRCERR 1 port) |>.note (lvpFault 0x2809 port)
      else
        let n := leAt 6 2 start
        if !ctlOk tail then b.badBlock port
        else if body.length ≠ (n + 31) / 32 * 32 || leAt 0 1 tail ≠ 0xE7 then b
        else
          let u := sackUnits n
          let cum := leAt 18 3 start
          match b.heal port ((b.port port).rxCum + u) cum with
          | (false, b) => b
          | (true, b) =>
            let used := (cum + 2 ^ 25 - u - (b.port port).rxFreed) % 2 ^ 24
            if 2048 < used + u then b.put LVP_ERRSTAT_CREDOVR 1 port |>.note (lvpFault 0x280F port) |>.toInit port
            else
              let b := b.cnt port 4 1 |>.modPort port fun p => { p with rxFreed := (p.rxFreed + u) % 2 ^ 24 }
              let payload := body.take n
              let tag := (tail.drop 2).take 16
              if leAt 18 4 tail ≠ crc32 (start ++ payload ++ tag) then
                b.cnt port 6 1 |>.put LVP_ERRSTAT_CRCERR 1 port |>.note (lvpFault 0x2809 port)
              else match b.authSack port start payload tag with
                | (none, b) => b.cnt port 7 1 |>.put LVP_ERRSTAT_AUTHERR 1 port |>.note (lvpFault 0x280A port)
                | (some v, b) => b.passSack port (bit (leAt 1 1 start) 2) (sackOf start v)

/-! ## Frames (R347, R348, R352) -/

/-- The MACsec check of a frame without its FCS: the frame in clear and whether it was protected; none where it fails (R347, R485). -/
def Block.macOpen (k lane : Nat) (v : Bytes) (b : Block) : Option (Bytes × Bool) × Block :=
  if (v.drop 12).take 2 ≠ [0x88, 0xE5] then (some (v, false), b)
  else
    let tci := leAt 14 1 v
    let an := tci % 4
    let hdr := if bit tci 5 then 28 else 20
    let body := (v.drop hdr).take (v.length - hdr - 16)
    let icv := v.drop (v.length - 16)
    match (SMap.get {} lane (b.port k).macs).rx.find? (fun e => e.1 = an) with
    | none => (none, b)
    | some (_, key) =>
      let lo := beNat ((v.drop 16).take 4)
      let hi := key.pn / 2 ^ 32 + ofBool (2 ^ 31 ≤ key.pn % 2 ^ 32 && lo < 2 ^ 31)
      let pn := hi * 2 ^ 32 + lo
      let iv := List.zipWith (fun x y => x ^^^ y) key.salt (key.ssci ++ beBytes 8 pn)
      if pn < key.pn || v.length < hdr + 16 then (none, b)
      else
        let clear := if bit tci 3 && bit tci 2 then gcmOpen key.key iv (v.take hdr) body icv
          else if !bit tci 3 && !bit tci 2 then (gcmOpen key.key iv (v.take hdr ++ body) [] icv).map fun _ => body
          else none
        match clear with
        | none => (none, b)
        | some c => (some (v.take 12 ++ c, true), b.modPort k fun p =>
            { p with macs := SMap.upd {} lane (fun m => { m with rx := SMap.upd {} an (fun q => { q with pn := pn + 1 }) m.rx }) p.macs })

/-- The flow keys of a frame (R354): for IPv4 TCP and UDP KTYPE 3, then KTYPE 2. -/
def frameKeys (v : Bytes) : List Bytes :=
  let tagged := (v.drop 12).take 2 = [0x81, 0x00]
  let tci := beNat ((v.drop 14).take 2)
  let o := etherAt v
  let ty := beNat ((v.drop o).take 2)
  let k2 := slice 0 16 ([2] ++ v.take 6 ++ leBytes 2 (if tagged then tci % 4096 else 0xFFFF)
    ++ [BitVec.ofNat 8 (if tagged then tci / 8192 else 0)] ++ leBytes 2 ty)
  let ip := v.drop (o + 2)
  let proto := leAt 9 1 ip
  let ports := ip.drop (leAt 0 1 ip % 16 * 4)
  if ty = 0x0800 && (proto = 6 || proto = 17) then
    [slice 0 16 ([3, BitVec.ofNat 8 proto, 0, 0] ++ leBytes 4 (beNat ((ip.drop 12).take 4)) ++ leBytes 4 (beNat ((ip.drop 16).take 4))
      ++ leBytes 2 (beNat (ports.take 2)) ++ leBytes 2 (beNat ((ports.drop 2).take 2))), k2]
  else [k2]

/-- The VL that a PCP stands for (R348); a PCP of the table's none counts as best effort. -/
def pcpVl (p : Nat) : Nat := if p = 6 then 0 else if p = 7 then 1 else if p = 1 then 3 else 2

/-- A native block or sack in a frame of the device's EtherType (R348): no credits, ENC 0. -/
def Block.nativeFrame (k : Nat) (sec : Bool) (v : Bytes) (b : Block) : Block :=
  let st := v.take 32
  if !ctlOk st then b.badBlock k
  else if leAt 0 1 st = 0x4B then
    b.put LVP_STATUS_PARTNER 1 k
      |>.when (b.isSet LVP_CFG_PEER k && b.actN 0x2000 2 = 3) (Block.peerBeacon (leAt 4 6 st) (leAt 12 2 st + b.get LVP_LINK_RTT k / 2))
  else if leAt 0 1 st = 0x4D then b.put LVP_STATUS_PARTNER 1 k
  else if !startOk st || bit (leAt 1 1 st) 2 || v.length < 32 + leAt 6 2 st then b.cnt k 5 1 |>.note (lvpFault 0x2809 k)
  else b.cnt k 4 1 |>.passSack k sec (sackOf st ((v.drop 32).take (leAt 6 2 st)))

/-- ETHERNET_FRAME_RECEIVE (R347, R348, R352): FCS and MACsec are checked; PAUSE and PFC are discarded; then the sluice. -/
def execEthernetFrameReceive (port lane : Nat) (frame : Bytes) (s : State) : Host.Outcome State Fault Refusal :=
  onBlk s fun b =>
    let n := frame.length
    if 6 ≤ port || 4 ≤ lane || b.portSt port ≠ pUp || b.native port then b
    else if n < 64 || 9216 < n || leNat (frame.drop (n - 4)) ≠ crc32 (frame.take (n - 4)) then
      b.cnt port 5 1 |>.put LVP_ERRSTAT_CRCERR 1 port
    else match b.macOpen port lane (frame.take (n - 4)) with
      | (none, b) => b.put LVP_ERRSTAT_MACSEC 1 port |>.note (lvpFault 0x2810 port)
      | (some (v, sec), b) =>
        let o := etherAt v
        let ty := beNat ((v.drop o).take 2)
        if ty = 0x8808 then b
        else if ty = b.actN 0x4020 2 then b.nativeFrame port sec (v.drop (o + 2))
        else
          let tag := if (v.drop (o - 6)).take 2 = [0xF1, 0xC1] then some (beNat ((v.drop (o - 2)).take 2)) else none
          let pcp := if (v.drop 12).take 2 = [0x81, 0x00] then leAt 14 1 v / 32 else 0
          b.classify { keys := frameKeys v, port := port, turn := b.tagTurn, phase := b.nowNs, eth := true, sec := sec, rtag := tag
                       sack := { vl := pcpVl pcp, payload := v } }

/-! ## TX slots (R337, R363) -/

/-- The sacks of a list that can start before `ns` have passed, at 13.0 line bytes per ns and lane (R336), with their start offsets. -/
def startTimes (lanes ns : Nat) : Nat → List Sack → List (Nat × Sack)
  | _, [] => []
  | used, x :: xs =>
    let t := used / (13 * max 1 lanes)
    if t < ns then (t, x) :: startTimes lanes ns (used + lineBytes x.payload.length) xs else []

/-- TX_SLOT_START (R337, R30): the egress sacks of the slot's partition go out in flow order, in a DUP slot with second copies owed 5 us later;
what cannot start before END, or is due while the port is not UP or outside RUN and DEGRADED, is dropped. -/
def execTxSlotStart (port slot : Nat) (s : State) : Host.Outcome State Fault Refusal :=
  onBlk s fun b =>
    if 6 ≤ port || 64 ≤ slot || !b.isSet LVP_SLOT_VALID port slot || b.isSet LVP_SLOT_DIR port slot then b
    else
      let p := b.get LVP_SLOT_PART port slot
      let b := b.advanceTo (b.get LVP_SLOT_START port slot * 100)
      if !b.partDefined p || b.get BLT_PSTAT_STATE p = pDefined then b
      else
        let dup := b.isSet LVP_SLOT_DUP port slot
        let (l, b) := b.egressSacks p port
        let each := if dup then 2 else 1
        if b.portSt port ≠ pUp || !b.outputsOn then b.dropVl0 port (each * l.length)
        else
          let ns := (b.get LVP_SLOT_END port slot - b.get LVP_SLOT_START port slot) * 100
          let go := startTimes (popcount 4 (b.get LVP_STATUS_TXLANES port)) ns 0 l
          b.dropVl0 port (each * (l.length - go.length))
            |>.modPort port (fun q => { q with slot := some slot, vl0 := go.map (·.2)
                                               dups := if dup then go.map fun e => (b.nowNs + e.1 + 5000, e.2) else [] })
            |>.drain port |>.pnCheck port

/-! ## Window writes (R53, R362) -/

/-- SLUICE_WRITES_COMPLETE (R52 step 7, R53): the queued writes tagged to the ended turn reach memory, each replica's for its partition,
and the sluice reports. -/
def execSluiceWritesComplete (s : State) : Host.Outcome State Fault Refusal :=
  onBlk s fun b =>
    let due := b.dueWrites
    b.forL due (fun w b => b.writeBytes midSluice w.part w.addr w.bytes)
      |>.modTu (fun t => { t with reported := true, writes := t.writes.filter (fun w => !(decide (w.turn < b.turn))) })

/-- WINDOW_WRITE_DISCARD (R53): 1.5 us after the boundary the writes of a flow tagged to the ended turn and not issued are discarded and counted
in its DROPS. -/
def execWindowWriteDiscard (flow : Nat) (s : State) : Host.Outcome State Fault Refusal :=
  onBlk s fun b =>
    let n := (b.dueWrites.filter fun w => w.flow = flow).length
    b.modTu (fun t => { t with writes := t.writes.filter fun w => !(w.flow = flow && decide (w.turn < b.turn)) })
      |>.modFlow flow fun e => { e with words := ctxS 7 48 63 (satAdd 16 (ctxF e.words 7 48 63) n) e.words }

/-! ## Cache errors (R359) -/

/-- The pinned flows of the active image (0x4820:01): INDEX and context. -/
def pinnedOf : Nat → Bytes → List (Nat × List Nat)
  | 0, _ => []
  | n + 1, v => if v.length < 72 then [] else (leAt 0 8 v % 2 ^ 20, ctxOf ((v.drop 8).take 64)) :: pinnedOf n (v.drop 72)
def Block.pinnedFlows (b : Block) : List (Nat × List Nat) := pinnedOf 16384 (b.act 0x4820 1)

/-- FLOW_CACHE_ERROR (R359): corrected; or a pinned flow is reloaded from the active image; or an unpinned entry is dropped. -/
def execFlowCacheError (index : Nat) (correctable : Bool) (s : State) : Host.Outcome State Fault Refusal :=
  onBlk s fun b =>
    match b.flowByIdx index with
    | none => b
    | some e =>
      if correctable then b.noteOnce 0 { code := 0x1904, mid := some midSluice }
      else if e.pinned then
        let ws := match b.pinnedFlows.find? (fun r => r.1 = index) with | some r => r.2 | none => e.words
        b.modFlow index (fun e => { e with words := ws.take 5 ++ [0, 0, 0], stamp := b.timeNs })
          |>.note { code := 0x2905, mid := some midSluice }
      else b.dropFlow index

/-- Load the pinned flows at an image switch (R357): the flows pinned before leave the cache. -/
def Block.loadPinned (b : Block) : Block :=
  let b := b.modSlc fun s => { s with cache := s.cache.filter fun e => !e.pinned }
  b.forL b.pinnedFlows fun r b => b.addFlow { index := r.1, words := r.2, pinned := true }

end Sys2Proof.Machine
end

