-- ==== Sys2Proof/Machine/Bolter.lean ====
section
/-! DEFINITION. The bolter: digests (R284, R285, R301), decisions (R286, R289, R291, R293, R294, R302), releases (R287, R288), copies (R292, R296, R299). -/

namespace Sys2Proof.Machine

/-! ## Digests -/

/-- The input of the digest of replica `r` over turn `u` (R284), with POISONED. -/
def Block.digestInput (p r u : Nat) (b : Block) : (Bytes × Bool) × Block :=
  let ws := b.outWins p
  let hdr := leBytes 8 u ++ leBytes 1 p ++ leBytes 1 ws.length ++ List.replicate 6 0
  ws.foldl (fun (acc : (Bytes × Bool) × Block) w =>
    let n := b.outWin p w
    let pa := b.outWinBase p w r + u % 2 * n
    if !acc.2.rangeOk pa n then ((acc.1.1 ++ leBytes 4 n, true), acc.2)
    else
      let (v, c) := acc.2.readBytes midGov p pa n
      ((acc.1.1 ++ leBytes 4 n ++ v.1, acc.1.2 || v.2), c)) ((hdr, false), b)

/-- The digest record of R301. -/
def Block.recordOf (b : Block) (p : Nat) (valid : Bool) (d : Digest) : Bytes :=
  leBytes 8 d.turn ++ leBytes 1 p ++ leBytes 1 b.otp.pkg ++ leBytes 1 (ofBool valid + 2 * ofBool d.poisoned) ++ List.replicate 5 0 ++ d.bytes

/-- Make and keep the digest of replica `r` over turn `u`; a cross-package partition sends it. -/
def Block.makeDigest (p r u : Nat) (refused : Bool) (b : Block) : Block :=
  let (v, b) := b.digestInput p r u
  let d : Digest := { turn := u, poisoned := v.2 || refused, bytes := shake128 32 v.1 }
  b.modRepl p r (fun t => { t with digs := t.digs.filter (fun e => e.turn + 1 = u) ++ [d] })
    |>.when (b.xpkg p) (fun b => b.emit (.peerRecord (b.recordOf p (!d.poisoned) d)))

/-- DIGEST_COMPLETE (R284, R285, R289, R301): the engine that makes this replica's digest ends it and takes the next; a digest that completes after its decision
is discarded. -/
def execDigestComplete (part repl : Nat) (refused : Bool) (s : State) : Host.Outcome State Fault Refusal :=
  onBlk s fun b =>
    match b.blt.engs.find? fun x => x.2.1 = part && x.2.2.1 = repl with
    | none => b
    | some x =>
      let u := x.2.2.2
      let due := b.digestDue part repl && (b.repl part repl).seals.getLast? = some u
      let b := b.when due (Block.makeDigest part repl u refused)
      b.endEng x.1

/-- DIGEST_RECORD (R301): the peer package's record of a cross-package partition. -/
def execDigestRecord (record : List Nat) (s : State) : Host.Outcome State Fault Refusal :=
  onBlk s fun b =>
    let v : Bytes := record.map (BitVec.ofNat 8)
    let p := leAt 8 1 v
    if v.length ≠ 48 || 64 ≤ p || !b.xpkg p || leAt 9 1 v = b.otp.pkg then b
    else
      let f := leAt 10 1 v
      b.modPart p (fun t => { t with peer := some { turn := leAt 0 8 v, poisoned := bit f 1, bytes := v.drop 16 }, peerValid := bit f 0 })
        |>.put BLT_STATUS_PEERUP 1

/-! ## Decisions -/

/-- What a decision finds (R286). -/
inductive Verdict where
  | release (src : Nat) | survivor (src : Nat) | dissent (src loser : Nat) | hold | none
deriving DecidableEq, Repr

/-- The valid digests of turn `u`, by replica index; the peer package's counts as that replica's. -/
def Block.validDigests (b : Block) (p u : Nat) : List (Nat × Bytes) :=
  (List.range (b.pMode p)).filterMap fun r =>
    if b.xpkg p && r ≠ b.otp.pkg then
      match (b.part p).peer with
      | some d => if d.turn = u && (b.part p).peerValid && !d.poisoned then some (r, d.bytes) else none
      | none => none
    else
      let t := b.repl p r
      match t.digs.find? (fun d => d.turn = u) with
      | some d => if t.sealedIn u && !d.poisoned then some (r, d.bytes) else none
      | none => none

/-- The table of R286 over the valid digests. -/
def verdict (mode : Nat) (survivor : Bool) (sealed0 : Bool) (l : List (Nat × Bytes)) : Verdict :=
  if mode = 1 then (if sealed0 then .release 0 else .none)
  else match l with
    | [] => .hold
    | [(r, _)] => if survivor then .survivor r else .hold
    | [(r, x), (_, y)] => if x = y then .release r else .hold
    | (r0, x) :: (r1, y) :: (r2, z) :: _ =>
      if x = y && y = z then .release r0
      else if x = y then .dissent r0 r2
      else if x = z then .dissent r0 r1
      else if y = z then .dissent r1 r0
      else .hold

/-- The release source of a verdict on this package: of a cross-package partition the own replica (R302); where only the peer's digest is valid, nothing can
be released here. -/
def Block.localVerdict (b : Block) (p : Nat) (v : Verdict) : Verdict :=
  if !b.xpkg p then v
  else match v with
    | .release _ => .release b.otp.pkg
    | .survivor r => if r = b.otp.pkg then v else .hold
    | _ => v

/-- A replica is behind from this decision on (R291): halted where its activation of this turn has begun, else caught up before it. -/
def Block.behindNow (p r u : Nat) (src : Option Nat) (b : Block) : Block :=
  let t := b.repl p r
  if !b.inService p r then b
  else if t.began && t.turn = b.turn then b.missMark p r none
  else b.modRepl p r fun t => { t with behind := some .decision, behindTurn := u, catchSt := 1, src := src }

/-- Record and apply a verdict over turn `u` (R286, R287, R291, R293, R294). -/
def Block.applyVerdict (p u : Nat) (v : Verdict) (valid : List Nat) (b : Block) : Block :=
  let code : Nat := match v with | .release _ => 1 | .survivor _ => 2 | .dissent _ _ => 3 | .hold => 4 | .none => 5
  let src : Option Nat := match v with | .release r => some r | .survivor r => some r | .dissent r _ => some r | _ => none
  let held := decide (v = .hold)
  let b := b.put BLT_PSTAT_LAST code p |>.put BLT_PSTAT_TURN (u % 2 ^ 32) p |>.put BLT_PSTAT_REPEAT 1 p
    |>.put BLT_PSTAT_HOLDCNT (if held then satInc 4 (b.get BLT_PSTAT_HOLDCNT p) else 0) p
    |>.modPart p (fun t => { t with decided := some u, holds := if held then t.holds + 1 else 0 })
  let b := match src with
    | some r => b.put BLT_PSTAT_SRC r p |>.modPart p (fun t => { t with release := some (r, u) }) |>.put BLT_STATUS_RELBUSY 1
    | none => b
  let b := match v with
    | .hold => b.inc BLT_PCNT_HOLDS p |>.note { code := 0x2703 }
    | .survivor _ => b.inc BLT_PCNT_SURVIVOR p |>.note { code := 0x1705 }
    | .dissent _ _ => b.inc BLT_PCNT_DISSENT p |>.note { code := 0x1702 }
    | _ => b
  let loser : Option Nat := match v with | .dissent _ l => some l | _ => none
  let from' : Option Nat := match src with | some r => some r | none => valid.head?
  let b := b.forL (b.localRepls p) fun r b =>
    let t := b.repl p r
    let poisoned := t.digs.any fun d => d.turn = u && d.poisoned
    let b := b.modRepl p r fun t => { t with lastValid := valid.contains r, dissents := if loser = some r then t.dissents + 1 else 0 }
    if 2 ≤ b.pMode p && (loser = some r || (poisoned && t.sealedIn u)) then b.behindNow p r u from' else b
  let b := match loser with
    | some l => if b.actN (0x3000 + p) 9 ≤ (b.repl p l).dissents then b.replLost p l else b
    | none => b
  if held && b.actN (0x3000 + p) 8 ≤ (b.part p).holds && b.partLive p then b.failPart p else b

/-- BOLTER_DECISION (R52 step 9, R286): at the release offset, over the turn that has ended. The current buffer of a halted partition becomes
REPEATED and nothing is released (R287, R304). -/
def execBolterDecision (part : Nat) (s : State) : Host.Outcome State Fault Refusal :=
  onBlk s fun b =>
    let u := b.turn - 1
    if 64 ≤ part then b
    else if b.partDefined part && b.get BLT_PSTAT_STATE part = pHalted then b.put BLT_PSTAT_REPEAT 1 part
    else if !b.outputsOn || !b.partRuns part || b.turn = 0 || (b.part part).decided = some u then b
    else
      let b := b.advanceTo (b.get TRN_RELOFF_RELOFF part * 100)
      let mode := b.pMode part
      let late := if mode = 1 then [] else (b.localRepls part).filter fun r =>
        (b.repl part r).sealedIn u && !(b.repl part r).digs.any (fun d => d.turn = u)
      let b := b.forL late fun _ b => b.note { code := 0x270D }
      let xp := b.xpkg part
      let peerOk := match (b.part part).peer with | some d => decide (d.turn = u) | none => false
      let b := b.when (xp && !peerOk) fun b => b.raise { code := 0x370E } |>.put BLT_STATUS_PEERUP 0
      let l := b.validDigests part u
      let v := b.localVerdict part (verdict mode (b.pFlag part flagSurvivor) ((b.repl part 0).sealedIn u) l)
      b.applyVerdict part u v (l.map (·.1))

/-! ## Releases -/

/-- Copy the output windows of a source into a hold buffer (R287). -/
def Block.releaseCopy (p src u k : Nat) (b : Block) : Block :=
  let base := b.holdBase p + k * b.holdBytes p
  ((b.outWins p).foldl (fun (acc : Nat × Block) w =>
    let n := b.outWin p w
    (acc.1 + n, acc.2.copyRange p (b.outWinBase p w src + u % 2 * n) (base + acc.1) n)) (0, b)).2

/-- The partition that the release engine serves: the one of the earliest release offset, then the lowest (R288). -/
def Block.relFirst (b : Block) : Option Nat :=
  ((List.range 64).filter fun p => (b.part p).release.isSome).foldl (fun a p => match a with
    | none => some p
    | some q => if b.get TRN_RELOFF_RELOFF p < b.get TRN_RELOFF_RELOFF q then some p else a) none

/-- RELEASE_INSTANT (R287-R289, R304): the buffer that was not current becomes current and FRESH. A halted partition releases nothing. -/
def execReleaseInstant (part : Nat) (s : State) : Host.Outcome State Fault Refusal :=
  onBlk s fun b =>
    match (b.part part).release with
    | none => b
    | some (src, u) =>
      if b.relFirst ≠ some part then b
      else
      let b := b.modPart part (fun t => { t with release := none })
      let b := b.put BLT_STATUS_RELBUSY (ofBool (b.parts.any fun e => e.2.release.isSome))
      if !b.partRuns part then b
      else
        let k := 1 - (b.part part).holdCur
        b.releaseCopy part src u k |>.modPart part (fun t => { t with holdCur := k, holdTurn := u }) |>.put BLT_PSTAT_REPEAT 0 part

/-! ## Copies -/

/-- A catch-up or a restore runs: they run one at a time (R292). -/
def Block.copyRuns (b : Block) : Bool :=
  (List.range 64).any fun p => (List.range 3).any (fun r => (b.repl p r).catchSt = 2)
    || (match (b.part p).repair with | some q => q.restore = 2 | none => false)

/-- The time of the next ENTER START of a partition, from the start of this turn. -/
def Block.enterNext (b : Block) (p : Nat) : Nat := if b.startNs p ≤ b.nowNs then b.startNs p + b.actN 0x2000 1 * 1000 else b.startNs p

/-- The queued catch-ups and restores that may start, as next ENTER START, partition, replica. -/
def Block.copyQueue (b : Block) : List (Nat × Nat × Nat) :=
  (List.range 64).flatMap fun p =>
    ((List.range 3).filter (fun r => let t := b.repl p r
      t.catchSt = 1 && !t.active && (match b.catchSource p r with | some q => (b.repl p q).sealedIn t.behindTurn | none => false))).map (fun r => (b.enterNext p, p, r))
    ++ (match (b.part p).repair with | some q => if q.restore = 1 then [(b.enterNext p, p, 0)] else [] | none => [])

/-- The first of the queue. -/
def Block.copyFirst (b : Block) : Option (Nat × Nat) :=
  (b.copyQueue.foldl (fun (a : Option (Nat × Nat × Nat)) x => match a with
    | none => some x
    | some y => if x.1 < y.1 then some x else some y) none).map (·.2)

/-- CATCH_UP_START (R292). Without a source once its mark has passed, the replica enters with MISSED set and no copy. -/
def execCatchUpStart (part repl : Nat) (s : State) : Host.Outcome State Fault Refusal :=
  onBlk s fun b =>
    let t := b.repl part repl
    if t.catchSt ≠ 1 || t.active then b
    else if b.catchVoid part repl then b.giveUpCatch part repl
    else if b.copyRuns || b.copyFirst ≠ some (part, repl) then b
    else b.modRepl part repl (fun t => { t with catchSt := 2, src := b.catchSource part repl }) |>.showCopy

/-- CATCH_UP_COMPLETE (R292): the state buffers are copied. -/
def execCatchUpComplete (part repl : Nat) (s : State) : Host.Outcome State Fault Refusal :=
  onBlk s fun b =>
    let t := b.repl part repl
    match t.catchSt, t.src with
    | 2, some q => b.catchCopy part q repl |>.endCatch part repl |>.showCopy
    | _, _ => b

/-- REPAIR_COPY_COMPLETE (R296 step 4): every image range of the source lies in the target. Catch-ups and restores come
first (R292), and a region that is held takes no copy (R258). -/
def execRepairCopyComplete (part : Nat) (s : State) : Host.Outcome State Fault Refusal :=
  onBlk s fun b =>
    match (b.part part).repair with
    | none => b
    | some q =>
      if q.restore ≠ 0 || q.copied || b.copyRuns || b.copyFirst.isSome || !b.ms.heldRegions.isEmpty then b
      else
        b.forN 8 (fun w b => if b.imgSize part w = 0 then b else b.copyRange part (b.imgBase part w q.src) (b.imgBase part w q.repl) (b.imgSize part w))
          |>.modPart part (fun t => { t with repair := some { q with copied := true } }) |>.showCopy

/-- RESTORE_START (R299). -/
def execRestoreStart (part : Nat) (s : State) : Host.Outcome State Fault Refusal :=
  onBlk s fun b =>
    match (b.part part).repair with
    | none => b
    | some q =>
      if q.restore ≠ 1 || b.copyRuns || b.copyFirst ≠ some (part, 0) then b
      else b.modPart part (fun t => { t with repair := some { q with restore := 2 } }) |>.showCopy

/-- RESTORE_COMPLETE (R299): buffer S mod 2 of every state range is copied onto the other. -/
def execRestoreComplete (part : Nat) (s : State) : Host.Outcome State Fault Refusal :=
  onBlk s fun b =>
    match (b.part part).repair with
    | none => b
    | some q =>
      if q.restore ≠ 2 then b
      else
        let k := (b.part part).sealTurn % 2
        b.forN 4 (fun i b => if b.stSize part i = 0 then b
            else b.copyRange part (b.stBase part i k 0) (b.stBase part i (1 - k) 0) (b.stSize part i))
          |>.modPart part (fun t => { t with repair := some { q with restore := 3 } }) |>.showCopy

end Sys2Proof.Machine
end

