-- ==== Sys2Proof/Machine/Coherence.lean ====
section
/-! DEFINITION. The coherence messages (R173-R204): requests at the homes, snoops and answers at the L3s, completions at the requesters,
timeouts, the filter rebuild and the tracking mode. -/

namespace Sys2Proof.Machine

/-! ## Messages that break the rules -/

/-- A master speaks: its sail is ACTIVE, or it is no sail's (R205 step 2 stops every message of a lost sail). -/
def Block.speaks (b : Block) (mid : Nat) : Bool := match sailOf mid with | some n => b.active? n | none => true

/-- A protocol error of a sail (R204): LOST with 0x3409. -/
def Block.protoError (mid : Nat) (b : Block) : Block :=
  match sailOf mid with | some n => b.sailLost n 0x3409 5 | none => b

/-- A request of a caching agent: only an L3 sends it, with WAY at most 15 and a transaction ID that its home does not have open. -/
def Block.cachingReq (kind : ReqKind) (mid part txid addr way : Nat) (tc3 : Bool) (b : Block) : Block :=
  if !b.speaks mid then b
  else if mid % 32 ≠ 17 || (sailOf mid).isNone || 15 < way || b.txidBusy mid txid addr then b.protoError mid
  else b.arrive kind mid part txid addr way tc3

/-- A request of a non-caching agent. A hub block that reuses an open transaction ID is not heard (R204 names a sail's error alone). -/
def Block.plainReq (kind : ReqKind) (mid part txid addr : Nat) (tc3 : Bool) (b : Block) : Block :=
  if !b.speaks mid then b
  else if b.txidBusy mid txid addr then b.protoError mid
  else b.arrive kind mid part txid addr 0 tc3

/-! ## Requests at the home -/

/-- RD_SHARED (R182). -/
def execRdShared (mid part txid addr way : Nat) (tc3 : Bool) (s : State) : Host.Outcome State Fault Refusal :=
  onBlk s (Block.taking (.rdShared mid part txid addr way tc3) fun b => b.cachingReq .rdShared mid part txid addr way tc3)

/-- RD_UNIQUE (R182). -/
def execRdUnique (mid part txid addr way : Nat) (tc3 : Bool) (s : State) : Host.Outcome State Fault Refusal :=
  onBlk s (Block.taking (.rdUnique mid part txid addr way tc3) fun b => b.cachingReq .rdUnique mid part txid addr way tc3)

/-- UPGRADE (R182, R190): the way of a later fill is the one in which the sail holds the line. -/
def execUpgradeReq (mid part txid addr : Nat) (s : State) : Host.Outcome State Fault Refusal :=
  onBlk s (Block.taking (.upgradeReq mid part txid addr) fun b =>
    let way := match b.reqOf mid txid, sailOf mid with
      | some r, _ => r.way
      | none, some n => b.filtWay (addr / 64) n
      | none, none => 0
    b.cachingReq .upgrade mid part txid addr way false)

/-- DIRTY_NOTE (R182). -/
def execDirtyNote (mid part txid addr : Nat) (s : State) : Host.Outcome State Fault Refusal :=
  onBlk s (Block.taking (.dirtyNote mid part txid addr) fun b => b.cachingReq .dirtyNote mid part txid addr 0 false)

/-- WB_DIRTY (R179, R182). -/
def execWbDirty (mid part txid addr : Nat) (s : State) : Host.Outcome State Fault Refusal :=
  onBlk s (Block.taking (.wbDirty mid part txid addr) fun b => b.cachingReq .wbDirty mid part txid addr 0 false)

/-- EVICT_CLEAN (R179, R182). -/
def execEvictClean (mid part txid addr : Nat) (s : State) : Host.Outcome State Fault Refusal :=
  onBlk s (Block.taking (.evictClean mid part txid addr) fun b => b.cachingReq .evictClean mid part txid addr 0 false)

/-- RD_ONCE (R182, R187). -/
def execRdOnce (mid part txid addr : Nat) (tc3 : Bool) (s : State) : Host.Outcome State Fault Refusal :=
  onBlk s (Block.taking (.rdOnce mid part txid addr tc3) fun b => b.plainReq .rdOnce mid part txid addr tc3)

/-- WR_FULL (R182, R187). -/
def execWrFull (mid part txid addr : Nat) (s : State) : Host.Outcome State Fault Refusal :=
  onBlk s (Block.taking (.wrFull mid part txid addr) fun b => b.plainReq .wrFull mid part txid addr false)

/-- WR_PART (R182, R187). -/
def execWrPart (mid part txid addr : Nat) (s : State) : Host.Outcome State Fault Refusal :=
  onBlk s (Block.taking (.wrPart mid part txid addr) fun b => b.plainReq .wrPart mid part txid addr false)

/-- WR_DATA (R214): data without its request is a protocol error (R204). -/
def execWrData (mid txid addr data mask : Nat) (poison : Bool) (s : State) : Host.Outcome State Fault Refusal :=
  onBlk s (Block.taking (.wrData mid txid addr data mask poison) fun b =>
    if !b.speaks mid then b else (b.takeWrData mid txid addr data mask poison).getD (b.protoError mid))

/-! ## Snoops at the L3 -/

/-- SNP_SHARED (table of L3 transitions). -/
def execSnpShared (sail addr txid : Nat) (s : State) : Host.Outcome State Fault Refusal :=
  onBlk s (Block.taking (.snpShared sail addr txid) (Block.snoopL3 .shared sail addr txid))

/-- SNP_UNIQUE. -/
def execSnpUnique (sail addr txid : Nat) (s : State) : Host.Outcome State Fault Refusal :=
  onBlk s (Block.taking (.snpUnique sail addr txid) (Block.snoopL3 .unique sail addr txid))

/-- SNP_ONCE. -/
def execSnpOnce (sail addr txid : Nat) (s : State) : Host.Outcome State Fault Refusal :=
  onBlk s (Block.taking (.snpOnce sail addr txid) (Block.snoopL3 .once sail addr txid))

/-- SNP_INV. -/
def execSnpInv (sail addr txid : Nat) (s : State) : Host.Outcome State Fault Refusal :=
  onBlk s (Block.taking (.snpInv sail addr txid) (Block.snoopL3 .inv sail addr txid))

/-- TAG_READ (R199): the slice answers with the tags and states of one set. -/
def execTagRead (sail slice set : Nat) (s : State) : Host.Outcome State Fault Refusal :=
  onBlk s (Block.taking (.tagRead sail slice set) fun b =>
    if b.active? sail then b.emit (.tagResp sail slice set (b.tagsOf sail slice set)) else b)

/-! ## Answers at the home -/

/-- SNP_RESP (R182, R189, R190). -/
def execSnpResp (sail txid addr : Nat) (st : LineSt) (hasData evicting : Bool) (s : State) : Host.Outcome State Fault Refusal :=
  onBlk s (Block.taking (.snpResp sail txid addr st hasData evicting) fun b =>
    if !b.active? sail then b else (b.snpResp sail txid (addr / 64) st hasData evicting).getD (b.protoError (midL3 sail)))

/-- SNP_DATA (R190). -/
def execSnpData (sail txid addr data : Nat) (poison : Bool) (s : State) : Host.Outcome State Fault Refusal :=
  onBlk s (Block.taking (.snpData sail txid addr data poison) fun b =>
    if !b.active? sail then b else (b.snpData sail txid (addr / 64) data poison).getD (b.protoError (midL3 sail)))

/-- TAG_RESP (R199): the bank writes the returned tags and states of the set that it reads back. An answer that no TagRead asked for is
a protocol error (R204). -/
def execTagResp (sail slice set : Nat) (tags : List TagInfo) (s : State) : Host.Outcome State Fault Refusal :=
  onBlk s (Block.taking (.tagResp sail slice set tags) fun b =>
    if !b.active? sail then b
    else if !b.coh.rebuild.any (fun r => r.bank = slice && r.set = set && r.await.contains sail) then b.protoError (midL3 sail)
    else
      let here (l : Nat) : Bool := decide (lineSlice l = slice) && decide (lineSet l = set)
      let b := b.modCoh fun c => { c with filt := c.filt.filter (fun e => !(decide (e.1 % 16 = sail) && here (e.1 / 16))) }
      let b := b.forL (tags.filter (fun t => t.st ≠ .i && here t.line)) fun t b =>
        b.modCoh fun c => { c with filt := SMap.set {} (t.line * 16 + sail) ⟨t.st.filt, t.way⟩ c.filt }
      b.tagsHere sail slice)

/-! ## Completions at the requester -/

/-- COMP (R177, R178, R182): an Upgrade is granted M, a DirtyNote is acknowledged, a write is complete. -/
def execCompMsg (mid txid addr : Nat) (s : State) : Host.Outcome State Fault Refusal :=
  onBlk s (Block.taking (.compMsg mid txid addr) fun b => if b.speaks mid then b.takeComp mid txid addr else b)

/-- COMP_DATA (R182, R203): an L3 fills the line with the granted state. A grant that comes after the timeout installs nothing and is evicted at once. -/
def execCompData (mid txid addr : Nat) (st : LineSt) (data : Nat) (poison : Bool) (s : State) : Host.Outcome State Fault Refusal :=
  onBlk s (Block.taking (.compData mid txid addr st data poison) fun b => if b.speaks mid then b.takeCompData mid txid addr st data poison else b)

/-- EVICT_ACK (R179): the writeback buffer entry and its request go. -/
def execEvictAck (sail addr : Nat) (s : State) : Host.Outcome State Fault Refusal :=
  onBlk s (Block.taking (.evictAck sail addr) (Block.takeEvictAck sail addr))

/-- RETRY (R196): the requester backs off; the request is to be resent with the same fields. -/
def execRetryMsg (mid txid addr k : Nat) (s : State) : Host.Outcome State Fault Refusal :=
  onBlk s (Block.taking (.retryMsg mid txid addr k) (Block.takeRetry mid txid addr k))

/-- RETRY_BACKOFF_EXPIRY (R196): the same request leaves again, unless it has ended by its timeout (R197). -/
def execRetryBackoffExpiry (mid txid : Nat) (s : State) : Host.Outcome State Fault Refusal :=
  onBlk s fun b => match b.reqOf mid txid with
    | none => b
    | some r =>
      if !r.backoff then b
      else if r.timedOut then b.dropReq mid txid
      else b.modReq mid txid (fun r => { r with backoff := false }) |>.emit (.request r.kind mid r.part txid (r.line * 64) r.way)

/-! ## Timeouts (R203, R204) -/

/-- A request that timed out is a write: its data is dropped, and memory keeps its old contents. A WbDirty is none: it is the eviction of a line, whose data no
other copy has (DEDUCED). -/
def isWrite : ReqKind → Bool
  | .wrFull => true | .wrPart => true | _ => false

/-- The home's side of a write that its requester dropped: it completes without effect. -/
def Block.dropWrite (r : OpenReq) (b : Block) : Block :=
  let f (t : Txn) : Txn := if t.mid = r.mid && t.txid = r.txid && t.line = r.line && t.kind = r.kind then { t with dropped := true } else t
  b.modCoh fun c => { c with txns := c.txns.map f, waiting := c.waiting.map f }

/-- The end of a request by its timeout: a set's starving record frees (R197), the maintenance engine that waited for it ends with an error (R96), a
non-caching agent gets an error completion. What waits in a sail for the line meets poison when it is taken again. -/
def Block.timeoutEnds (r : OpenReq) (b : Block) : Block :=
  let b := b.modCoh (fun c => { c with starving := c.starving.filter (fun e => e.2 ≠ (r.mid, r.txid)) })
    |>.when (isWrite r.kind) (Block.dropWrite r)
  if r.mid % 32 ≠ 17 then b.emit (.errComp r.mid r.part r.txid (r.line * 64))
  else match sailOf r.mid with
    | none => b
    | some n =>
      let waits := (b.sail n).mntWait.contains r.line
      b.when (r.mnt || waits) fun b => b.modSail n fun s => { s with mntFail := true, mntWait := s.mntWait.filter (· ≠ r.line) }

/-- REQUESTER_TIMEOUT (R203): 0x2403; a read ends with poison, a write is dropped, a non-caching agent gets an error completion; the
transaction ID stays reserved until the home answers. -/
def execRequesterTimeout (mid txid : Nat) (s : State) : Host.Outcome State Fault Refusal :=
  onBlk s fun b => match b.reqOf mid txid with
    | none => b
    | some r =>
      if r.timedOut then b
      else b.modReq mid txid (fun r => { r with timedOut := true })
        |>.note { code := 0x2403, mid := some mid, addr := some (r.line * 64) } |>.timeoutEnds r

/-- HOME_TIMEOUT (R204): a transaction that awaits a sail declares it LOST, any other raises 0x4405. -/
def execHomeTimeout (mid txid addr : Nat) (s : State) : Host.Outcome State Fault Refusal :=
  onBlk s fun b => match b.txnOf (addr / 64) with
    | none => b
    | some t =>
      if t.mid ≠ mid || t.txid ≠ txid then b
      else
        let b := b.inc HOM_TIMEOUT_COUNT (b.homeOf addr)
        match t.awaitResp ++ t.awaitData with
        | n :: _ => b.sailLost n 0x3404 5
        | [] => b.raise { code := 0x4405, mid := some mid, addr := some addr }

/-! ## Filter rebuild and tracking mode (R198, R199) -/

/-- FILTER_UNCORRECTABLE (R192, R199): 0x2406 with the bank, and the bank is rebuilt from set 0. `corrected`: the check bits correct the entry, which is
counted and logged as 0x1401 once per turn. -/
def execFilterUncorrectable (bank : Nat) (corrected : Bool) (s : State) : Host.Outcome State Fault Refusal :=
  onBlk s fun b =>
    if !b.filterMode || 8 ≤ bank then b
    else if corrected then b.inc HOM_SFSTAT_CECNT |>.noteOnce 0 { code := 0x1401 }
    else b.inc HOM_SFERR_UECNT |>.put HOM_SFERR_LASTBANK bank
      |>.modCoh (fun c => { c with rebuild := c.rebuild.filter (fun r => r.bank ≠ bank) ++ [{ bank := bank }] })
      |>.showRebuild |>.note { code := 0x2406, detail := bank }

/-- REBUILD_SET (R199): TagRead of the next set goes to every ACTIVE sail. It waits while a transaction of the set is open. -/
def execRebuildSet (bank : Nat) (s : State) : Host.Outcome State Fault Refusal :=
  onBlk s fun b => match b.coh.rebuild.find? (fun r => r.bank = bank) with
    | none => b
    | some r =>
      if !r.await.isEmpty || b.coh.txns.any (fun t => lineSlice t.line = bank && lineSet t.line = r.set) then b
      else
        let ns := b.activeSails
        let b := b.modCoh (fun c => { c with rebuild := c.rebuild.map (fun q => if q.bank = bank then { q with await := ns } else q) })
          |>.forL ns (fun n b => b.emit (.tagRead n bank r.set))
        if ns.isEmpty then b.setRead bank else b

/-- TRACKING_MODE_SWITCH (R198). -/
def execTrackingModeSwitch (filter : Bool) (s : State) : Host.Outcome State Fault Refusal := onBlk s fun b => b.trackMode filter

/-! ## Loss of a sail, scrubbing -/

/-- POISON_MARKING_COMPLETE (R205 steps 6 and 7, R208): the homes' poison is in memory; POISONING clears and 0x040B is logged. -/
def execPoisonMarkingComplete (sail : Nat) (s : State) : Host.Outcome State Fault Refusal :=
  onBlk s fun b =>
    if 12 ≤ sail || !b.isSet GOV_SAILSTAT_POISONING sail then b
    else b.markPoison sail |>.put GOV_SAILSTAT_POISONING 0 sail |>.note { code := 0x040B }

end Sys2Proof.Machine
end

