-- ==== Sys2Proof/Machine/Mailbox.lean ====
section
/-! DEFINITION. The governor's own events (R413-R415) and the MBX block: agents, channels, flags, locks, the legacy window (R420-R433). -/

namespace Sys2Proof.Machine

/-! ## The governor -/

/-- LOCKSTEP_MISMATCH (R413): FAULT_OUT asserts until power-on reset, the cores halt and the master timers stop, every port sends HOLD, and
GOV_STICKY holds 0x5001. A halted governor maintains nothing further. -/
def execLockstepMismatch (s : State) : Host.Outcome State Fault Refusal :=
  onBlk s fun b =>
    if b.govHalted || b.dev = .off then b
    else
      let b := b.assertFout |>.put GOV_STATUS_LOCKOK 0 |>.put GOV_STICKY_CODE 0x5001 |>.put GOV_STICKY_VALID 1
        |>.forN 6 (fun k b => b.put LVP_STATUS_LOCALHOLD 1 k |>.put LVP_STATUS_BSTAT 1 k)
      { b with govHalted := true, flog := { b.flog with fatal := true } }

/-- GOVERNOR_SRAM_ERROR (R414): a corrected error is counted and logged once per turn; an uncorrectable one raises 0x4009, and a fault-log
entry in which it lies reads with code 0xFFFF. -/
def execGovernorSramError (correctable : Bool) (entry : Option Nat) (s : State) : Host.Outcome State Fault Refusal :=
  onGov s fun b =>
    if correctable then b.inc GOV_STATUS_SRAMCE |>.noteOnce 0 { code := 0x1008 }
    else
      let b := match entry with
        | some k => { b with flog := { b.flog with ring := SMap.upd {} (k % 1024) (fun e => { e with code := 0xFFFF }) b.flog.ring } }
        | none => b
      b.raise { code := 0x4009 }

/-- MILLRACE_PROBE (R415): a probe completes and clears MRWEDGE, or goes 10 us without completing; the third in a row sets MRWEDGE and raises
0x400A. -/
def execMillraceProbe (ok : Bool) (s : State) : Host.Outcome State Fault Refusal :=
  onGov s fun b =>
    if ok then { b with gov := { b.gov with probeFail := 0 } } |>.put GOV_STATUS_MRWEDGE 0
    else
      let n := b.gov.probeFail + 1
      let b := { b with gov := { b.gov with probeFail := n } }
      if 3 ≤ n && !b.isSet GOV_STATUS_MRWEDGE then b.put GOV_STATUS_MRWEDGE 1 |>.raise { code := 0x400A } else b

/-! ## Agents (R420-R422) -/

/-- The agent number of a request. -/
def agentOf (mid : Nat) (part : Option Nat) : Option Nat :=
  if mid < 384 && mid % 32 < 16 then (match part with | some p => some (p % 64) | none => some 73)
  else if 0x180 ≤ mid && mid ≤ 0x187 then some (64 + (mid - 0x180))
  else if mid = midGov then some 72
  else none

/-- Agent `a` is secure (R421). -/
def Block.secure (b : Block) (a : Nat) : Bool :=
  (64 ≤ a && a ≤ 72) || (a < 64 && bit (b.actN 0x8040 1) a) || (a = 73 && b.actN 0x8040 2 = 1)

/-- Agent `a` is a restricted partition (R422). -/
def Block.restricted (b : Block) (a : Nat) : Bool := a < 64 && (b.get BLT_PSTAT_MODE a = 2 || b.get BLT_PSTAT_MODE a = 3)

/-- Channels into `r` work in TURN mode (R422, R425). -/
def Block.turnMode (b : Block) (r : Nat) : Bool := b.restricted r || (r ≠ 72 && b.actN 0x1400 (r + 1) = 1)

/-- Channels exist between the agents 0 to 79. -/
def nAgents : Nat := 80

/-- Note a refused access in MBX_ERR and MBX_ERRADDR. -/
def Block.mbxErr (f : Fld) (mid off : Nat) (b : Block) : Block :=
  b.put f 1 |>.put MBX_ERR_LASTMID mid |>.put MBX_ERRADDR_OFFSET off

/-- An access refused under R420, R421, R422 or R432. -/
def Block.mbxRefuse (mid off : Nat) (b : Block) : Block := b.mbxErr MBX_ERR_ACCREF mid off |>.note { code := 0x2003, mid := some mid }

/-! ## The layout of the block -/

/-- What an access reaches: a channel in the sender's or receiver's view with the offset in it; a flag register (kind 0 RPEND, 1 SBUSY, 2 SABORT,
3 SRESET) of agent `a`; the other registers; `refused` under R420-R422, R432; `bad`: an offset that answers an access error. -/
inductive MbxLoc where
  | chan (sender : Bool) (key off : Nat)
  | flag (kind set half a : Nat)
  | agent (a : Nat)
  | lock (k : Nat)
  | peek (k : Nat)
  | force (k : Nat)
  | err
  | erraddr
  | bind (l : Nat)
  | refused
  | bad
deriving DecidableEq, Repr

/-- Offsets that every agent and debug reach alike: locks and the channel array. -/
def Block.mbxShared (mid off : Nat) : MbxLoc :=
  if 0x30000 ≤ off && off < 0x30400 then .lock ((off - 0x30000) / 4)
  else if 0x30400 ≤ off && off < 0x30800 then .peek ((off - 0x30400) / 4)
  else if 0x30800 ≤ off && off < 0x30C00 then (if mid = midGov then .force ((off - 0x30800) / 4) else .bad)
  else if 0x100000 ≤ off && off < 0x100000 + 2 * 0x64000 then
    if mid = midGov || mid = midDebug then
      let o := off - 0x100000
      .chan true (chanKey (o / 0x64000) (o % 0x64000 / 0x1400) (o % 0x1400 / 0x40)) (o % 0x40)
    else .bad
  else .bad

/-- The legacy window (R432). -/
def Block.mbxLegacy (b : Block) (a off : Nat) : MbxLoc :=
  let l := (off - 0x50000) / 0x40
  if !b.isSet MBX_BIND_V l then .refused
  else
    let r := b.get MBX_BIND_RECV l
    let s := b.get MBX_BIND_SEND l
    let k := chanKey (b.get MBX_BIND_SET l) r s
    if a = s then .chan true k (off % 0x40) else if a = r then .chan false k (off % 0x40) else .refused

/-- The place that agent `a` names by an offset, before the rights of R421 and R422. -/
def Block.mbxPlace (b : Block) (a mid off : Nat) : MbxLoc :=
  if off < 0x4000 then
    let r := off % 0x2000 / 0x40
    if r < nAgents then .chan true (chanKey (off / 0x2000) r a) (off % 0x40) else .bad
  else if 0x10000 ≤ off && off < 0x14000 then
    let r := off % 0x2000 / 0x40
    if r < nAgents then .chan false (chanKey ((off - 0x10000) / 0x2000) a r) (off % 0x40) else .bad
  else if 0x20000 ≤ off && off < 0x20400 then
    let o := off - 0x20000
    if o % 0x100 < 0x20 then .flag (o / 0x100) (o % 0x100 / 0x10) (o % 0x10 / 8) a else .bad
  else if 0x20400 ≤ off && off < 0x20404 then .agent a
  else if 0x40000 ≤ off && off < 0x40004 then .err
  else if 0x40008 ≤ off && off < 0x4000C then .erraddr
  else if 0x50000 ≤ off && off < 0x50800 then b.mbxLegacy a off
  else if 0x50800 ≤ off && off < 0x50880 then .lock ((off - 0x50800) / 4)
  else if 0x51000 ≤ off && off < 0x51080 then .bind ((off - 0x51000) / 4)
  else Block.mbxShared mid off

/-- Is the place in the secure set? -/
def MbxLoc.inSet1 : MbxLoc → Bool
  | .chan _ k _ => 16384 ≤ k
  | .flag _ x _ _ => x = 1
  | _ => false

/-- What a restricted agent may read (R422). -/
def MbxLoc.openRead (off : Nat) : MbxLoc → Bool
  | .chan s _ _ => !s && off < 0x14000
  | .flag k _ _ _ => k = 0
  | .agent _ => true
  | .peek _ => true
  | _ => false

/-- What a request reaches, under R420 to R422. -/
def Block.mbxLoc (b : Block) (mid : Nat) (part : Option Nat) (off : Nat) (write : Bool) : MbxLoc :=
  match agentOf mid part with
  | none => if mid = midDebug then (match Block.mbxShared mid off with | .bad => .refused | l => l) else .refused
  | some a =>
    let l := b.mbxPlace a mid off
    if b.restricted a && (write || !l.openRead off) then .refused
    else if l.inSet1 && !b.secure a then .refused
    else l

/-! ## Channels (R423-R426) -/

/-- The key's receiver, sender and set. -/
def keyRecv (k : Nat) : Nat := k / 128 % 128
def keySend (k : Nat) : Nat := k % 128

/-- CHSTAT in one view. -/
def Block.chstat (b : Block) (sender : Bool) (k : Nat) : Nat :=
  let c := b.chan k
  let tm := ofBool (b.turnMode (keyRecv k)) * 32
  if sender then c.state + ofBool c.aborted * 8 + tm + (if c.state = 0 then 0 else c.len * 256) + c.seq * 65536
  else match c.vis with
    | some v => 3 + ofBool v.2.1 * 16 + tm + v.1 * 256 + c.seq * 65536
    | none => if c.state = 1 then 1 + ofBool c.sreset * 16 + tm + c.len * 256 + c.seq * 65536 else tm + c.seq * 65536

/-- The message that one view reads. -/
def Block.chanMsg (b : Block) (sender : Bool) (k : Nat) : Bytes :=
  let c := b.chan k
  if sender then c.msg
  else match c.vis with
    | some v => v.2.2
    | none => if c.state = 1 then c.msg else List.replicate 48 0

/-- A POST that is ignored (R424). -/
def Block.postRefused (mid off : Nat) (b : Block) : Block := b.mbxErr MBX_ERR_POSTREF mid off |>.note { code := 0x0004, mid := some mid }

/-- POST by the sender (R424): from EMPTY without ABORTED and with LEN 1 to 48; any other is refused. -/
def Block.post (mid off k len : Nat) (b : Block) : Block :=
  let c := b.chan k
  if c.state = 0 && !c.aborted && 1 ≤ len && len ≤ 48 then
    let t := b.turnMode (keyRecv k)
    let b := b.modChan k fun c => { c with state := if t then 2 else 1, len := len, seq := (c.seq + 1) % 65536 }
    if t then b else b.notify (keyRecv k)
  else b.postRefused mid off

/-- The governor posts the next response that it holds for an agent once the channel is EMPTY (R445). -/
def Block.postHeld (k : Nat) (b : Block) : Block :=
  let mine (e : Nat × Nat × Bytes) : Bool := chanKey e.1 e.2.1 72 = k
  match b.dict.held.find? mine with
  | none => b
  | some e =>
    if (b.chan k).state ≠ 0 then b
    else
      { b with dict := { b.dict with held := listErase e b.dict.held } }
        |>.modChan k (fun c => { c with aborted := false, msg := (e.2.2 ++ List.replicate 48 0).take 48 }) |>.post midGov 0 k e.2.2.length

/-- A response of the governor to an agent. -/
def Block.govPost (x a : Nat) (v : Bytes) (b : Block) : Block :=
  { b with dict := { b.dict with held := b.dict.held ++ [(x, a, v)] } }.postHeld (chanKey x a 72)

/-- ACK by the receiver: a FULL channel empties. -/
def Block.ack (k : Nat) (b : Block) : Block :=
  if (b.chan k).state = 1 then
    b.modChan k (fun c => { c with state := 0, len := 0, sreset := false, msg := List.replicate 48 0 }) |>.when (keySend k = 72) (Block.postHeld k)
  else b

/-- ACKABORT by the sender. -/
def Block.ackAbort (k : Nat) (b : Block) : Block :=
  if (b.chan k).state = 0 && (b.chan k).aborted then b.modChan k fun c => { c with aborted := false } else b

/-- A write of CHCMD: the command that the view allows; every other is ignored. -/
def Block.chanCmd (mid off : Nat) (sender : Bool) (k v : Nat) (b : Block) : Block :=
  let c := v % 4
  if c = 1 then (if sender then b.post mid off k (bits v 8 13) else b.postRefused mid off)
  else if c = 2 && !sender then b.ack k
  else if c = 3 && sender then b.ackAbort k
  else b

/-- The channels at a boundary (R424): a PEND message becomes visible; another visible buffer is zeroed. -/
def Block.mbxBoundary (b : Block) : Block :=
  { b with mbx := { b.mbx with chans := SMap.mapV {} (fun _ c =>
      if c.state = 2 then { c with state := 0, len := 0, sreset := false, vis := some (c.len, c.sreset, c.msg) }
      else { c with vis := none }) b.mbx.chans } }

/-- At an image switch (R425): channels whose mode changes lose their message. `before`: the mode in force until then. -/
def Block.mbxModes (before : Nat → Bool) (b : Block) : Block :=
  b.forL ((b.mbx.chans.filter (fun e => before (keyRecv e.1) != b.turnMode (keyRecv e.1))).map (·.1)) Block.abortChan

/-! ## Flags (R430 and the flag registers) -/

/-- One bit of a flag register of agent `a`, for the other agent `o`. -/
def Block.mbxFlag (b : Block) (kind x a o : Nat) : Bool :=
  if nAgents ≤ o then false
  else
    let into := b.chan (chanKey x a o)
    let out := b.chan (chanKey x o a)
    match kind with
    | 0 => into.state = 1 || into.vis.isSome
    | 1 => out.state ≠ 0
    | 2 => out.aborted
    | _ => match into.vis with | some v => v.2.1 | none => into.state = 1 && into.sreset

/-! ## Locks (R430, R431) -/

/-- The holder of lock `k`. -/
def Block.lockHolder (b : Block) (k : Nat) : Option Nat := match SMap.get 0 k b.mbx.locks with | 0 => none | m => some (m - 1)

/-- A read of MBX_LOCKk: takes a free lock. -/
def Block.lockRead (mid k : Nat) (b : Block) : Nat × Block :=
  match b.lockHolder k with
  | some m => (m + 0x8000, b)
  | none => (mid, { b with mbx := { b.mbx with locks := SMap.set 0 k (mid + 1) b.mbx.locks } })

/-- A write of MBX_LOCKk. -/
def Block.lockWrite (mid off k v : Nat) (b : Block) : Block :=
  if b.lockHolder k ≠ some mid then b.mbxErr MBX_ERR_LOCKREF mid off |>.note { code := 0x2006, mid := some mid }
  else if v = 0 then { b with mbx := { b.mbx with locks := SMap.set 0 k 0 b.mbx.locks } }
  else b

/-- The governor's write of MBX_LOCKFRCk. -/
def Block.lockForce (k v : Nat) (b : Block) : Block :=
  if v % 2 = 1 && (b.lockHolder k).isSome then
    { b with mbx := { b.mbx with locks := SMap.set 0 k 0 b.mbx.locks } }.note { code := 0x0007, detail := k }
  else b

/-! ## Accesses -/

/-- A 64-bit register, and a 32-bit one: naturally aligned accesses of its width alone (R10). -/
def aligned (off width w : Nat) : Bool := width = w && off % w = 0

/-- A read: the value, or none for an access error. -/
def Block.mbxRead (mid : Nat) (part : Option Nat) (off width : Nat) (b : Block) : Option Nat × Block :=
  let a32 := aligned off width 4
  match b.mbxLoc mid part off false with
  | .refused => (none, b.mbxRefuse mid off)
  | .bad => (none, b)
  | .chan sender k o =>
    if o < 0x30 then
      if a32 || aligned off width 8 then (some (leAt o width (b.chanMsg sender k)), b) else (none, b)
    else if !a32 then (none, b)
    else (some (if o = 0x30 then b.chstat sender k else 0), b)
  | .flag kind x h a => if aligned off width 8 then (some (maskOf 64 (fun j => b.mbxFlag kind x a (64 * h + j))), b) else (none, b)
  | .agent a => if a32 then (some (a + 256 * ofBool (b.secure a) + 512 * ofBool (b.restricted a)), b) else (none, b)
  | .lock k => if a32 then let r := b.lockRead mid k; (some r.1, r.2) else (none, b)
  | .peek k => if a32 then (some (match b.lockHolder k with | some m => m + 2 ^ 31 | none => 0), b) else (none, b)
  | .force _ => if a32 then (some 0, b) else (none, b)
  | .err => if a32 then (some (b.getR .MBX_ERR), b) else (none, b)
  | .erraddr => if a32 then (some (b.getR .MBX_ERRADDR), b) else (none, b)
  | .bind l => if a32 then (some (b.getR .MBX_BIND l), b) else (none, b)

/-- A write: false for an access error. The binding table is RWL and the governor's to write (R433); MBX_ERR clears on ones. -/
def Block.mbxWrite (mid : Nat) (part : Option Nat) (off width v : Nat) (b : Block) : Bool × Block :=
  let a32 := aligned off width 4
  match b.mbxLoc mid part off true with
  | .refused => (false, b.mbxRefuse mid off)
  | .bad => (false, b)
  | .chan sender k o =>
    if o < 0x30 then
      if !(a32 || aligned off width 8) then (false, b)
      else if sender && (b.chan k).state = 0 && !(b.chan k).aborted then
        (true, b.modChan k fun c => { c with msg := c.msg.take o ++ leBytes width v ++ c.msg.drop (o + width) })
      else (true, b)
    else if !a32 then (false, b)
    else (true, if o = 0x38 then b.chanCmd mid off sender k v else b)
  | .flag _ _ _ _ => (aligned off width 8, b)
  | .agent _ => (a32, b)
  | .lock k => if a32 then (true, b.lockWrite mid off k v) else (false, b)
  | .peek _ => (a32, b)
  | .force k => if a32 then (true, b.lockForce k v) else (false, b)
  | .err => if a32 then (true, b.plainWrite .MBX_ERR 0 0 0 v) else (false, b)
  | .erraddr => (a32, b)
  | .bind l => (a32, b.when (a32 && mid = midGov) (Block.plainWrite .MBX_BIND l 0 0 v))

/-- The base of the MBX block. -/
def mbxBase : Nat := 0xF000700000

/-- A write of one of the rows below, answered with an access error where it is refused. -/
def Block.mbxRow (mid : Nat) (part : Option Nat) (off v : Nat) (b : Block) : Block :=
  let r := b.mbxWrite mid part off 4 v
  if r.1 then r.2 else r.2.emit .accessError

/-- POST (R424): the sender writes CHCMD of its send window of set `set` for receiver `recv`. -/
def execPostMsg (mid : Nat) (part : Option Nat) (set recv len : Nat) (s : State) : Host.Outcome State Fault Refusal :=
  onBlk s fun b => b.mbxRow mid part (0x2000 * (set % 2) + 0x40 * (recv % 128) + 0x38) (len % 64 * 256 + 1)

/-- ACK (R424): the receiver writes CHCMD of its receive window. -/
def execAckMsg (mid : Nat) (part : Option Nat) (set send : Nat) (s : State) : Host.Outcome State Fault Refusal :=
  onBlk s fun b => b.mbxRow mid part (0x10000 + 0x2000 * (set % 2) + 0x40 * (send % 128) + 0x38) 2

/-- ACKABORT (R424): the sender writes CHCMD of its send window. -/
def execAckabort (mid : Nat) (part : Option Nat) (set recv : Nat) (s : State) : Host.Outcome State Fault Refusal :=
  onBlk s fun b => b.mbxRow mid part (0x2000 * (set % 2) + 0x40 * (recv % 128) + 0x38) 3

/-- LOCK_ACQUIRE (R430): a read of MBX_LOCKk. -/
def execLockAcquire (mid : Nat) (part : Option Nat) (k : Nat) (s : State) : Host.Outcome State Fault Refusal :=
  onBlk s fun b =>
    match b.mbxRead mid part (0x30000 + 4 * (k % 256)) 4 with
    | (some v, b) => b.emit (.value v)
    | (none, b) => b.emit .accessError

/-- LOCK_RELEASE (R431): a write of MBX_LOCKk. -/
def execLockRelease (mid : Nat) (part : Option Nat) (k value : Nat) (s : State) : Host.Outcome State Fault Refusal :=
  onBlk s fun b => b.mbxRow mid part (0x30000 + 4 * (k % 256)) value

/-- LOCK_FORCE_RELEASE (R431): a write of MBX_LOCKFRCk. -/
def execLockForceRelease (mid : Nat) (part : Option Nat) (k value : Nat) (s : State) : Host.Outcome State Fault Refusal :=
  onBlk s fun b => b.mbxRow mid part (0x30800 + 4 * (k % 256)) value

end Sys2Proof.Machine
end

