-- ==== Sys2Proof/Machine/Millstone.lean ====
section
/-! DEFINITION. The millstone rows: doorbells (R151, R152), the start of commands (R153, R155, R156), tiles and their choice of work (R161, R162,
R170), completion (R155), resumption (R169). A millstone takes each COPY and SIGNAL whole, and each block at its boundary. -/

namespace Sys2Proof.Machine

/-- The millstone of a sail runs: the sail is ACTIVE and its clocks are not stopped at OP 0. -/
def Block.mstLive (b : Block) (n : Nat) : Bool := b.active? n && (b.sail n).op0 ≠ 2

/-- Find the run of a queue's command. -/
def Block.mstRun (b : Block) (n q idx : Nat) : Option MstRun := (b.mst n).runs.find? fun r => r.q = q && r.idx = idx
def Block.modRun (n q idx : Nat) (f : MstRun → MstRun) (b : Block) : Block :=
  b.modMst n fun m => { m with runs := m.runs.map fun r => if r.q = q && r.idx = idx then f r else r }

/-- The binding that an access with partition `part` reaches through the partition-relative registers (R151). -/
def Block.mstReach (b : Block) (n : Nat) (part : Option Nat) : Option Nat :=
  match part with
  | some p => if b.active? n then b.bindOf n p else none
  | none => none

/-- Ring a queue: COUNT is added to TAIL, or the write is ignored with error A (R152). -/
def Block.ring (n i j count : Nat) (b : Block) : Block :=
  let q := b.mq n i j
  let sz := b.qsize n i j
  if count = 0 || sz = 0 || 2 ^ sz < (q.tail + count + 65536 - q.head) % 65536 then b.mstQErr n i j 10 false
  else b.modMq n i j fun q => { q with tail := (q.tail + count) % 65536 }

/-- MST_DOORBELL (R151, R152): a write of COUNT to MST_PDBj. -/
def execMstDoorbell (part : Option Nat) (sail j count : Nat) (s : State) : Host.Outcome State Fault Refusal :=
  onBlk s fun b =>
    match b.mstReach sail part with
    | some i => if j < 2 then b.ring sail i j (count % 8192) else b.emit .accessError
    | none => b.emit .accessError

/-! ## Tiles -/

/-- The energy of one tile cycle in units of 10 fJ at OP 3 (R167): MACs per cycle and tile, two operations each. -/
def tileEnergy (ty : Nat) : Nat :=
  match ty with
  | 0 => 12288 * 2 * 9
  | 1 => 6144 * 2 * 17
  | 2 => 6144 * 2 * 19
  | 3 => 6144 * 2 * 19
  | 4 => 3072 * 2 * 38
  | _ => 3072 * 2 * 41

/-- The runs with parts to hand out. -/
def Block.openRuns (b : Block) (n : Nat) : List MstRun := (b.mst n).runs.filter fun r => r.err = 0 && r.next < r.blocks

/-- The run of binding `i` to serve next: the queue not served last first, in each queue the earliest command. -/
def Block.pickRun (b : Block) (n i : Nat) : Option MstRun :=
  let last := SMap.get 1 i (b.mst n).alt
  let of (j : Nat) : Option MstRun := (b.openRuns n).find? fun r => r.q = 2 * i + j
  match of (1 - last) with
  | some r => some r
  | none => of last

/-- The reserved binding to serve: in its window with budget left, earliest mark, then lower partition ID (R162 rule 1). -/
def Block.reserved (b : Block) (n : Nat) : Option Nat :=
  let l := (List.range 16).filter fun i => (b.pickRun n i).isSome && b.inWindow (b.get MST_BCFG_PART n i) && b.budgetLeft n i
  l.foldl (fun (a : Option Nat) i => match a with
    | none => some i
    | some k =>
      let p := b.get MST_BCFG_PART n i
      let q := b.get MST_BCFG_PART n k
      if b.markNs p < b.markNs q || (b.markNs p = b.markNs q && p < q) then some i else some k) none

/-- Rule 2: round robin over the bindings. The throttle admits it at one block boundary in two, or in four (R511). -/
def Block.otherWork (b : Block) (n : Nat) : Option Nat :=
  let lvl := b.get PWR_STATUS_THRLVL
  let k := (b.mst n).bnd
  if (2 ≤ lvl && lvl < 4 && k % 2 ≠ 0) || (lvl = 4 && k ≠ 0) then none
  else ((List.range 16).map fun d => ((b.mst n).rr + 1 + d) % 16).find? fun i => (b.pickRun n i).isSome

/-- A free tile takes new work (R162). -/
def Block.chooseWork (n tile : Nat) (b : Block) : Block :=
  if !bit (b.get MST_STATUS_TILEEN n) tile || (b.mst n).tiles.any (fun t => t.1 = tile) || (b.mst n).spent.any (fun t => t.1 = tile) then b
  else
    let c : Option (Nat × Bool) := match b.reserved n with
      | some i => some (i, true)
      | none => (b.otherWork n).map fun i => (i, false)
    match c with
    | none => b
    | some (i, res) =>
      match b.pickRun n i with
      | none => b
      | some r =>
        b.modRun n r.q r.idx (fun r => { r with next := r.next + 1 })
          |>.modMst n (fun m => { m with tiles := m.tiles ++ [(tile, r.q, r.idx, r.next)], alt := SMap.set 1 i (r.q % 2) m.alt,
                                          rr := if res then m.rr else i })

/-- The commands of a queue that wait behind a failed one: a run that met an error fails when HEAD reaches it (R168). -/
def Block.failHead (n q : Nat) (b : Block) : Block :=
  match b.mstRun n q (b.mq n (q / 2) (q % 2)).head with
  | some r => if r.err ≠ 0 then b.mstFail n (q / 2) (q % 2) r.idx r.err else b
  | none => b

/-- A tile is disabled (R170). -/
def Block.tileOff (n tile : Nat) (b : Block) : Block :=
  b.put MST_STATUS_TILEEN (maskOf 4 (fun t => bit (b.get MST_STATUS_TILEEN n) t && t ≠ tile)) n

/-- A tile fails (R170): it is disabled, its command fails with error 9, and the replicas with a budget are lost. A command behind HEAD fails when HEAD reaches
it, but at once where its binding is lost with the tile. -/
def Block.tileFail (n tile q idx : Nat) (b : Block) : Block :=
  let b := b.tileOff n tile |>.modRun n q idx (fun r => { r with err := 9 })
  (if b.get MST_BBUDGET_BUDGET n (q / 2) = 0 then b.failHead n q else b.mstFail n (q / 2) (q % 2) idx 9).tileLost n

/-- Charge tile cycles to the partition of binding `i` (R161, R162, R167). -/
def Block.chargeTile (n i ty cyc : Nat) (b : Block) : Block :=
  let b := b.incBy MST_BUSED_USED cyc n i |>.charge n (b.get MST_BCFG_PART n i) (cyc * tileEnergy ty)
  if b.budgetLeft n i then b
  else b.put MST_BSTAT_OVER 1 n i |>.noteOnce (n * 16 + i) { code := 0x0301, mid := some (midMst n) }

/-- A tile that computes a block again after a residue mismatch (R170). -/
def Block.tileFix (n : Nat) (b : Block) : Block :=
  b.modMst n (fun m => { m with fixes := satInc 32 m.fixes }) |>.note { code := 0x1303, mid := some (midMst n) }

/-- The last block of a tile for a command that has ended: charged to its binding while that stands, nothing written (R161, R165). -/
def Block.spentDone (n tile i ty cyc : Nat) (mis1 mis2 : Bool) (b : Block) : Block :=
  let b := b.modMst n (fun m => { m with spent := m.spent.filter fun t => t.1 ≠ tile })
    |>.when (b.isSet MST_BCFG_EN n i) (Block.chargeTile n i ty (if mis1 then 2 * cyc else cyc)) |>.when mis1 (Block.tileFix n)
  if mis1 && mis2 then (b.tileOff n tile |>.raise { code := 0x3309, mid := some (midMst n) }).tileLost n else b

/-- The work that a tile has finished. -/
def Block.tileDone (n tile q idx w : Nat) (mis1 mis2 : Bool) (b : Block) : Block :=
  let b := b.modMst n fun m => { m with tiles := m.tiles.filter fun t => t.1 ≠ tile }
  match b.mstRun n q idx with
  | none => b
  | some r =>
    let i := q / 2
    let cyc := partCycles r.words w
    let b := b.chargeTile n i (iType r.words) (if mis1 then 2 * cyc else cyc)
      |>.when mis1 (Block.tileFix n)
    let b := b.modRun n q idx fun r => { r with fin := r.fin + 1 }
    if mis1 && mis2 then b.tileFail n tile q idx
    else
      let k := blockParts r.words
      if r.err = 0 && w % k + 1 = k then
        let (e, b) := b.computeBlock n (b.get MST_BCFG_PART n i) r.words (w / k)
        if e = 0 then b else b.modRun n q idx (fun r => { r with err := e }) |>.failHead n q
      else b

/-- TILE_BLOCK_BOUNDARY (R161, R162, R168, R170): a tile ends its block and takes new work. -/
def execTileBlockBoundary (sail tile : Nat) (mis1 mis2 corrected : Bool) (bad : List Nat) (s : State) : Host.Outcome State Fault Refusal :=
  onBlk s fun b =>
    if !b.mstLive sail || 4 ≤ tile then b
    else
      let b := { b with scr := { b.scr with bad := bad.foldl (fun m l => SMap.set false (sail * 0x20000 + l % 0x20000) true m) b.scr.bad } }
      let b := b.when corrected (fun b => b.noteOnce sail { code := 0x1302, mid := some (midMst sail) })
      let b := match (b.mst sail).tiles.find? (fun t => t.1 = tile) with
        | some t => b.tileDone sail tile t.2.1 t.2.2.1 t.2.2.2 mis1 mis2
        | none => match List.lookup tile (b.mst sail).spent with
          | some (i, ty, cyc) => b.spentDone sail tile i ty cyc mis1 mis2
          | none => b
      b.modMst sail (fun m => { m with bnd := (m.bnd + 1) % 4 }) |>.chooseWork sail tile

/-! ## Starting commands -/

/-- A command of a queue starts: it becomes a run. -/
def Block.beginRun (n q idx : Nat) (ws : List Nat) (blocks : Nat) (b : Block) : Block :=
  b.modMst n (fun m => { m with runs := m.runs ++ [{ q := q, idx := idx, words := ws, blocks := blocks }] })
    |>.modMq n (q / 2) (q % 2) (fun t => { t with started := t.started + 1 }) |>.mstBusy n

/-- What each command does at its start: GEMM and CONV hand their blocks to free tiles; COPY and SIGNAL write. -/
def Block.runStart (n q idx : Nat) (ws : List Nat) (b : Block) : Block :=
  let p := b.get MST_BCFG_PART n (q / 2)
  match mstOp ws with
  | 1 | 2 => b.beginRun n q idx ws (blockCount ws * blockParts ws) |>.forN 4 (fun t b => b.chooseWork n t)
  | 3 =>
    let bytes := bits (wd ws 4) 0 23 * bits (wd ws 4) 24 39
    let b := b.beginRun n q idx ws 0 |>.charge n p (220 * bytes)
    let (e, b) := b.copyRows n p ws (bits (wd ws 4) 24 39) 0
    if e = 0 then b else b.modRun n q idx (fun r => { r with err := e }) |>.failHead n q
  | 4 =>
    let b := b.beginRun n q idx ws 0 |>.mstWrite n p (bits (wd ws 1) 0 47) (leBytes 8 (wd ws 2)) false
    let a := bits (wd ws 3) 0 47
    if a = 0 then b else b.sendMsi (midMst n) a (bits (wd ws 4) 0 10)
  | _ => b.beginRun n q idx ws 0

/-- The address of the next entry that a queue starts (R152). -/
def Block.mstEntry (b : Block) (n i j : Nat) : Nat :=
  b.get MST_BQBASE_ADDR n i j * 64 + 64 * (((b.mq n i j).head + (b.mq n i j).started) % 65536 % 2 ^ b.qsize n i j)

/-- The millstone takes the next entry of a queue when it is a command `op` that may start (R153, R155, R156, R168). A ring error or a failed check shows
when every earlier command has completed, so that HEAD stands at the failing entry. -/
def Block.mstStart (n i j op : Nat) (b : Block) : Block :=
  let q := b.mq n i j
  let sz := b.qsize n i j
  let k := 2 * i + j
  if !b.mstLive n || 16 ≤ i || 2 ≤ j || !b.isSet MST_BCFG_EN n i || q.stopped || sz = 0
      || (q.head + q.started) % 65536 = q.tail || (b.mst n).runs.any (fun r => r.q = k && r.err ≠ 0) then b
  else
    let idx := (q.head + q.started) % 65536
    let addr := b.mstEntry n i j
    let p := b.get MST_BCFG_PART n i
    if !b.rangeAllowed n i (addr, 64, false) then (if q.started = 0 then b.mstQErr n i j 11 true else b)
    else
      let (r, b') := b.mstRead n p addr 64
      if r.2 ≠ 0 then (if q.started = 0 then b'.mstQErr n i j 11 true else b)
      else
        let ws := (List.range 8).map fun w => leAt (8 * w) 8 r.1
        let o := mstOp ws
        if o ≤ 4 && o ≠ op then b
        else
          let e := b'.mstCheck n i ws
          if e ≠ 0 then (if q.started = 0 then b'.mstFail n i j idx e else b)
          else if q.started ≠ 0 && (o = 4 || !bit (wd ws 0) 8) then b
          else b'.runStart n k idx ws

/-- NOP (R153, R155). -/
def execNopCmd (sail bind queue : Nat) (s : State) : Host.Outcome State Fault Refusal := onBlk s fun b => b.mstStart sail bind queue 0

/-- GEMM (R144-R148). -/
def execGemmCmd (sail bind queue : Nat) (s : State) : Host.Outcome State Fault Refusal := onBlk s fun b => b.mstStart sail bind queue 1

/-- CONV (R144-R147, R149). -/
def execConvCmd (sail bind queue : Nat) (s : State) : Host.Outcome State Fault Refusal := onBlk s fun b => b.mstStart sail bind queue 2

/-- COPY (R156, R160, R168). -/
def execCopyCmd (sail bind queue : Nat) (s : State) : Host.Outcome State Fault Refusal := onBlk s fun b => b.mstStart sail bind queue 3

/-- SIGNAL (R155, R159): VALUE is written once every earlier command of the queue has completed, then the MSI is sent. -/
def execSignalCmd (sail bind queue : Nat) (s : State) : Host.Outcome State Fault Refusal := onBlk s fun b => b.mstStart sail bind queue 4

/-! ## Completion and resumption -/

/-- MILLSTONE_COMMAND_COMPLETE (R153, R155): every write of the command at HEAD is acknowledged; HEAD advances and the lookup is counted. -/
def execMillstoneCommandComplete (sail bind queue : Nat) (s : State) : Host.Outcome State Fault Refusal :=
  onBlk s fun b =>
    let q := b.mq sail bind queue
    let k := 2 * bind + queue
    if 2 ≤ queue then b
    else match b.mstRun sail k q.head with
      | none => b
      | some r =>
        if r.err ≠ 0 || r.fin < r.blocks then b
        else
          b.modMst sail (fun m => { m with done := satInc 64 m.done, runs := m.runs.filter fun t => !(decide (t.q = k) && decide (t.idx = q.head)) })
            |>.modMq sail bind queue (fun t => { t with head := (t.head + 1) % 65536, started := t.started - 1 })
            |>.mstBusy sail |>.pmu sail 0x0E (some (b.get MST_BCFG_PART sail bind)) 1 |>.failHead sail k

/-- A write of MST_PCTLj with RESUME = 1 (R169). -/
def Block.mstCtl (n i j : Nat) (skip : Bool) (b : Block) : Block :=
  if (b.mq n i j).stopped then
    b.modMq n i j fun t => { t with stopped := false, head := if skip && t.head ≠ t.tail then (t.head + 1) % 65536 else t.head }
  else b

/-- RESUME (R169): MST_PCTLj written with RESUME = 1 and SKIP = 0. -/
def execResumeQueue (part : Option Nat) (sail j : Nat) (s : State) : Host.Outcome State Fault Refusal :=
  onBlk s fun b => match b.mstReach sail part with
    | some i => if j < 2 then b.mstCtl sail i j false else b.emit .accessError
    | none => b.emit .accessError

/-- SKIP (R169): MST_PCTLj written with RESUME = 1 and SKIP = 1. -/
def execSkipCmd (part : Option Nat) (sail j : Nat) (s : State) : Host.Outcome State Fault Refusal :=
  onBlk s fun b => match b.mstReach sail part with
    | some i => if j < 2 then b.mstCtl sail i j true else b.emit .accessError
    | none => b.emit .accessError

end Sys2Proof.Machine
end

