-- ==== Sys2Proof/Machine/Image.lean ====
section
/-! DEFINITION. Configuration images (R448-R451): layout, records, CRC, canonical form; the type, length and range checks of values (R437, R439). -/

namespace Sys2Proof.Machine

/-- The type codes of R437. -/
def OTy.code : OTy → Nat
  | .bool => 1 | .i8 => 2 | .i32 => 4 | .u8 => 5 | .u16 => 6 | .u32 => 7 | .vstr => 9 | .ostr => 0xA | .domain => 0xF | .i64 => 0x15 | .u64 => 0x1B

/-- The abort codes of R446 that values meet. -/
def abLength : Nat := 0x06070010
def abRange : Nat := 0x06090030
def abOrder : Nat := 0x08000020
def abClaim : Nat := 0x08000021
def abState : Nat := 0x08000022
def abField : Nat := 0x05040001
def abTimeout : Nat := 0x05040000
def abPath : Nat := 0x06010000
def abWo : Nat := 0x06010001
def abRo : Nat := 0x06010002
def abNoObj : Nat := 0x06020000
def abNoSub : Nat := 0x06090011

/-- The size of an image at most (R448). -/
def imgMax : Nat := 0x400000

/-! ## Values (R439) -/

/-- The length rule of an object. A VSTR is up to its stated length, a DOMAIN up to its maximum, an OSTR exactly its length. -/
def ObjRow.lengthOk (r : ObjRow) (n : Nat) : Bool :=
  match r.ty.size with
  | some k => n = k
  | none => match r.rng with
    | .len k => if r.ty = .vstr then n ≤ k else n = k
    | .maxLen k => n ≤ k
    | .recs m k => n % m = 0 && n ≤ m * k
    | _ => true

/-- The value as a signed number where the type is one. -/
def OTy.signedVal (t : OTy) (v : Nat) : Int := match t with | .i8 => toSigned 8 v | .i32 => toSigned 32 v | .i64 => toSigned 64 v | _ => v

/-- A layout of PWR_PLANn within R503. -/
def opPlanOk (v : Nat) : Bool := bits v 0 2 ≤ 5 && bits v 4 6 ≤ 5 && bit v 3 = false && bits v 7 15 = 0

/-- The range rule of an object; a BOOL is 0 or 1. -/
def Block.rangeVal (b : Block) (r : ObjRow) (v : Nat) : Bool :=
  (if r.ty = .bool then v ≤ 1 else true) &&
  match r.rng with
  | .any => true
  | .span lo hi => lo ≤ v && v ≤ hi
  | .spanOr lo hi x => (lo ≤ v && v ≤ hi) || v = x
  | .mask m => Nat.land v m = v
  | .aligned n => v % n = 0
  | .signed lo hi => decide (lo ≤ r.ty.signedVal v) && decide (r.ty.signedVal v ≤ hi)
  | .qsizes => (List.range 2).all fun i => let q := v / 16 ^ i % 16; q = 0 || (4 ≤ q && q ≤ 12)
  | .sailField => v % 16 ≤ 11
  | .opPlan => opPlanOk v
  | .powerLimit => 50 ≤ v && v ≤ b.powerMax
  | .len _ => true
  | .maxLen _ => true
  | .recs _ _ => true

/-- The abort code of a value (R437, R439; a VSTR is ASCII): 0 where it passes. -/
def Block.checkVal (b : Block) (r : ObjRow) (v : Bytes) : Nat :=
  if !r.lengthOk v.length then abLength
  else if r.ty.size.isSome && !b.rangeVal r (leNat v) then abRange
  else if r.ty = .vstr && v.any (fun c => decide (127 < c.toNat)) then abRange
  else 0

/-! ## Layout (R449) -/

/-- A record: key, type code, value. -/
abbrev Rec := Nat × Nat × Bytes

/-- The records from a byte string: `n` of them, keys not below `lo`, no byte left over. On failure the key of the record at fault, or 0. -/
def parseRecs : Nat → Nat → Bytes → Except Nat (List Rec)
  | 0, _, m => if m.isEmpty then .ok [] else .error 0
  | n + 1, lo, m =>
    if m.length < 8 then .error 0
    else
      let key := leAt 0 2 m * 256 + leAt 2 1 m
      let len := leAt 4 4 m
      let pad := (len + 3) / 4 * 4
      let rest := m.drop 8
      if key < lo || rest.length < pad || !((rest.take pad).drop len).all (· = 0) then .error key
      else match parseRecs n (key + 1) (rest.drop pad) with
        | .ok l => .ok ((key, leAt 3 1 m, rest.take len) :: l)
        | .error e => .error e

/-- Bytes of the signature trailer. -/
def trailerLen (m : Bytes) : Nat := if leAt 6 2 m % 2 = 1 then 116 else 0

/-- The layout check of R449, without CRC and signature; on failure the detail of RESULT 1. -/
def parseImage (m : Bytes) : Except Nat (List Rec) :=
  let t := trailerLen m
  let body := m.take (m.length - t)
  if m.length < 64 + t || m.take 4 ≠ [0x4E, 0x44, 0x49, 0x4D] || leAt 4 2 m ≠ 1 || 1 < leAt 6 2 m || leAt 8 4 m ≠ m.length
      || m.length % 4 ≠ 0 || leAt 28 2 m ≠ 0x4E12 || (if t = 0 then leAt 30 1 m ≠ 0 else 1 < leAt 30 1 m) || !(slice 31 33 m).all (· = 0)
      || (t ≠ 0 && !(m.drop (m.length - 2)).all (· = 0)) then .error 0
  else parseRecs (leAt 12 4 m) 0 (body.drop 64)

/-- CRC-32 over the image except the trailer, the CRC field taken as 0 (R449). -/
def imgCrc (m : Bytes) : Nat :=
  let body := m.take (m.length - trailerLen m)
  crc32 (body.take 16 ++ [0, 0, 0, 0] ++ body.drop 20)

/-- The CRC field of an image's header. -/
def imgCrcField (m : Bytes) : Nat := leAt 16 4 m

/-- One record's bytes. -/
def recBytes (r : Rec) : Bytes :=
  leBytes 2 (r.1 / 256) ++ leBytes 1 r.1 ++ leBytes 1 r.2.1 ++ leBytes 4 r.2.2.length ++ r.2.2
    ++ List.replicate ((4 - r.2.2.length % 4) % 4) 0

/-- An unsigned image of given records (R451): the CRC field is written. -/
def buildImage (l : List Rec) (serial : Nat) : Bytes :=
  let recs := l.foldl (fun a r => a ++ recBytes r) []
  let h (crc : Nat) : Bytes := [0x4E, 0x44, 0x49, 0x4D] ++ leBytes 2 1 ++ leBytes 2 0 ++ leBytes 4 (64 + recs.length) ++ leBytes 4 l.length ++ leBytes 4 crc
    ++ leBytes 8 serial ++ leBytes 2 0x4E12 ++ List.replicate 34 0
  h (crc32 (h 0 ++ recs)) ++ recs

/-- The type code of a key's object. -/
def keyType (k : Nat) : Nat := match objRow (k / 256) (k % 256) with | some r => r.ty.code | none => 0

/-- The canonical image of records (R451). -/
def canonImage (recs : List (Nat × Bytes)) (serial : Nat) : Image :=
  { raw := some (buildImage (recs.map fun r => (r.1, keyType r.1, r.2)) serial), recs := recs, serial := serial, signed := false }

/-- The image that bytes hold; of bytes whose layout fails, no record. -/
def readImage (m : Bytes) : Image :=
  { raw := some m
    recs := match parseImage m with | .ok l => l.map fun r => (r.1, r.2.2) | .error _ => []
    serial := leAt 20 8 m, signed := leAt 6 2 m % 2 = 1 }

/-- The bytes of an image; memory that holds none yields the image without records. -/
def Image.bytes (i : Image) : Bytes := i.raw.getD (buildImage [] 0)

/-- The bytes of the active image; none before the first switch and the first refusal of R454 that gave one. -/
def Block.activeBytes (b : Block) : Bytes := if b.dict.switched || b.active.raw.isSome then b.active.bytes else []

/-- The CRC of the active image; 0 before there is one (0x1F00:04). -/
def Block.activeCrc (b : Block) : Nat := if b.dict.switched || b.active.raw.isSome then imgCrcField b.active.bytes else 0

/-! ## Records of an image -/

/-- The value of an object in an image, its default where the image does not hold it. -/
def Block.inImg (b : Block) (i : Image) (idx sub : Nat) : Bytes :=
  match List.lookup (objKey idx sub) i.recs with
  | some v => v
  | none => b.objDefault idx sub

/-- The same as a number. -/
def Block.inImgN (b : Block) (i : Image) (idx sub : Nat) : Nat := leNat (b.inImg i idx sub)

/-- Put a value into a sorted list of records, as R451 re-serialises: no record where it equals the default. -/
def Block.putRec (b : Block) (k : Nat) (v : Bytes) (l : List (Nat × Bytes)) : List (Nat × Bytes) :=
  if v = b.objDefault (k / 256) (k % 256) then l.filter (fun r => r.1 ≠ k) else SMap.insert k v l

/-- The records whose value differs from its default. -/
def Block.canonRecs (b : Block) (l : List (Nat × Bytes)) : List (Nat × Bytes) :=
  l.filter fun r => r.2 ≠ b.objDefault (r.1 / 256) (r.1 % 256)

end Sys2Proof.Machine
end

