-- ==== Sys2Proof/Machine/Mesh.lean ====
section
/-! DEFINITION. Millrace and flume: master IDs and TC3 at the flume port (R16, R230), mesh lanes (R228, R229), routing tables and swaps (R223-R227),
flume links (R237-R244). -/

namespace Sys2Proof.Machine

def Block.modMesh (f : Mesh → Mesh) (b : Block) : Block := { b with mesh := f b.mesh }

/-! ## TC3 tokens (R230) -/

/-- Time from `lo` to `hi` (ns in the turn) covered by intervals, their overlaps once. The intervals come in order of their starts. -/
def covered (lo hi : Nat) : List (Nat × Nat) → Nat
  | [] => 0
  | (s, e) :: r =>
    let s' := max s lo
    let e' := min e hi
    if s' < e' then (e' - s') + covered e' hi r else covered lo hi r

/-- Insert an interval by its start. -/
def insertIval (x : Nat × Nat) : List (Nat × Nat) → List (Nat × Nat)
  | [] => [x]
  | y :: r => if x.1 ≤ y.1 then x :: y :: r else y :: insertIval x r

/-- The TC3 slots of partition `p`, in ns, by START. -/
def Block.tc3Slots (b : Block) (p : Nat) : List (Nat × Nat) :=
  (List.range 64).foldl (fun l n =>
    if b.isSet TRN_SLOT_VALID n && b.get TRN_SLOT_PART n = p && b.isSet TRN_SLOT_TC3 n
    then insertIval (b.get TRN_SLOT_START n * 100, b.get TRN_SLOT_END n * 100) l else l) []

/-- Bring the bucket of port `n` and partition `p` to phase `now`: tokens at the rate while a slot is open, 64 at most. -/
def Block.fillTokens (n p now : Nat) (b : Block) : Block :=
  let k := n * 64 + p
  let u := SMap.get (0, 0) k b.mesh.tokens
  let t := min 64000 (u.1 + b.get FLM_TC3RATE_RATE n p * covered u.2 now (b.tc3Slots p))
  b.modMesh fun m => { m with tokens := SMap.set (0, 0) k (t, now) m.tokens }

/-- At a boundary every bucket runs to the end of the turn and starts the next at phase 0. -/
def Block.tokensBoundary (period : Nat) (b : Block) : Block :=
  b.forN 12 fun n b => b.forN 64 fun p b =>
    if b.get FLM_TC3RATE_RATE n p = 0 && SMap.get (0, 0) (n * 64 + p) b.mesh.tokens = (0, 0) then b
    else (b.fillTokens n p period).modMesh fun m => { m with tokens := SMap.upd (0, 0) (n * 64 + p) (fun u => (u.1, 0)) m.tokens }

/-- Decide whether a request travels as TC3, and take its token. -/
def Block.decideTc3 (n p : Nat) (b : Block) : Bool × Block :=
  if !b.tc3Open p then (false, b)
  else
    let b := b.fillTokens n p b.nowNs
    let k := n * 64 + p
    if 1000 ≤ (SMap.get (0, 0) k b.mesh.tokens).1 then
      (true, b.modMesh fun m => { m with tokens := SMap.upd (0, 0) k (fun u => (u.1 - 1000, u.2)) m.tokens })
    else (false, b.put FLM_TC3DEM_COUNT ((b.get FLM_TC3DEM_COUNT n + 1) % 2 ^ 32) n |>.noteOnce n { code := 0x150B })

/-! ## Link ends -/

/-- The key of an end of link `k` of sail `n`. -/
def endKey (n k side : Nat) : Nat := n * 4 + k * 2 + side

def Block.lend (b : Block) (n k side : Nat) : LinkEnd := SMap.get {} (endKey n k side) b.mesh.links
def Block.modLend (n k side : Nat) (f : LinkEnd → LinkEnd) (b : Block) : Block :=
  b.modMesh fun m => { m with links := SMap.upd {} (endKey n k side) f m.links }

def Block.putUp (n k v : Nat) (b : Block) : Block := if k = 0 then b.put FLM_STATUS_UP0 v n else b.put FLM_STATUS_UP1 v n

/-- A flit goes to the link that carries it: `k`, or with that one down the other; while the ends of a dead link still resynchronise, it waits (R236, R240). -/
def Block.toLink (n k side : Nat) (f : Flit) (b : Block) : Block :=
  let k' := if b.linkUp n k || (b.lend n k side).hold then k else 1 - k
  b.modLend n k' side fun e => { e with txq := e.txq ++ [f] }

/-- A control frame waits for the next frame time, `delay` cycles from now. -/
def Block.sendCtl (n k side delay ftype body : Nat) (b : Block) : Block :=
  b.modLend n k side fun e => { e with ctl := e.ctl ++ [(b.net.cyc + delay, { ftype := ftype, body := body })] }

/-! ## Into the hub (R16, R216, R230) -/

/-- The class of a packet that enters the hub from sail `n`: a request of a partition may take a token. -/
def Block.ingressClass (n code : Nat) (part : Option Nat) (tc : Nat) (b : Block) : Nat × Block :=
  match part with
  | some p => if isRequest code && tc ≠ 0 then (let r := b.decideTc3 n p; (if r.1 then 3 else tc, r.2)) else (tc, b)
  | none => (tc, b)

/-- A TC3 request entered the hub flume now (R107, R202). -/
def Block.entered (n mid addr : Nat) (part : Option Nat) (b : Block) : Block :=
  b.pmu n 0x0D part 1 |>.modCoh fun c => { c with entered := c.entered ++ [(mid, addr / 64, b.timeNs)] }

/-- FLUME_PORT_INGRESS (R16, R204, R214, R216, R230): a packet of a code that no table lists is a protocol error; an invalid master ID is discarded; else the sail's
number is stamped, the class decided, and DROUTER and DPORT filled. -/
def execFlumePortIngress (sail mid code : Nat) (part : Option Nat) (addr : Nat) (prefetch : Bool) (s : State) : Host.Outcome State Fault Refusal :=
  onBlk s fun b =>
    let n := sail
    if !b.active? n || (b.sail n).silent then b
    else if (opChannel code).isNone then b.sailLost n 0x3409 5
    else if 18 ≤ mid % 32 then
      b.inc FLM_MIDERR_COUNT n |>.put FLM_MIDERR_LASTMID mid n |>.note { code := 0x2502, mid := some mid, addr := some addr }
    else
      let m := n * 32 + mid % 32
      let (tc, b) := b.ingressClass n code part (if prefetch then 0 else 1)
      let v := b.ioNode addr
      b.when (tc = 3) (Block.entered n m addr part)
        |>.emit (.ingress code m part addr tc (match nodeSail v with | some k => flumeRouters.getD k 2 | none => v)
            (match nodeSail v with | some k => b.linkFor k (some addr) | none => 0))

/-! ## Meshes and routing -/

/-- The output ports at router `r` that lie on minimal west-first paths to `d` (0 N, 1 E, 2 S, 3 W, 4 local; R223). -/
def westFirst (r d : Nat) : List Nat :=
  if r = d then [4]
  else if d % 8 < r % 8 then [3]
  else (if r % 8 < d % 8 then [1] else []) ++ (if d / 8 < r / 8 then [0] else []) ++ (if r / 8 < d / 8 then [2] else [])

/-- The router on side `p` of router `r`, and the side there that faces it. -/
def neighbour (r p : Nat) : Nat := match p with | 0 => r - 8 | 1 => r + 1 | 2 => r + 8 | _ => r - 1
def facing (p : Nat) : Nat := (p + 2) % 4

/-- The number of the mesh link on side `p` of router `r` (R228). -/
def linkNo (r p : Nat) : Nat :=
  let x := r % 8
  let y := r / 8
  match p with | 0 => 56 + 7 * x + (y - 1) | 1 => 7 * y + x | 2 => 56 + 7 * x + y | _ => 7 * y + (x - 1)

/-- The two directions of a link, as router × 4 + side. -/
def linkDirs (l : Nat) : Nat × Nat :=
  if l < 56 then (let r := 8 * (l / 7) + l % 7; (r * 4 + 1, (r + 1) * 4 + 3))
  else (let r := 8 * ((l - 56) % 7) + (l - 56) / 7; (r * 4 + 2, (r + 8) * 4))

/-- The link runs on one lane. -/
def Block.halved (b : Block) (l : Nat) : Bool := bit (b.getR .MRC_HALF (l / 32)) (l % 32)

/-- The entry of a bank for a router and a destination. -/
def Block.tablePort (b : Block) (bank r d : Nat) : Nat := bits (b.getR .MRC_RTBL bank r (d / 8)) (4 * (d % 8)) (4 * (d % 8) + 3)

/-- The links that the tables of a bank lead over from `r` to `d`. -/
def Block.pathDirs (b : Block) (bank d : Nat) : Nat → Nat → List Nat
  | 0, _ => []
  | f + 1, r =>
    if r = d then []
    else
      let p := b.tablePort bank r d
      if 4 ≤ p then [] else (r * 4 + p) :: b.pathDirs bank d f (neighbour r p)

/-! ## Planned loads (R231) -/

/-- The partitions with a TC3 rate at port `n`. -/
def Block.ratedParts (b : Block) (n : Nat) : List Nat := (List.range 64).filter fun p => b.get FLM_TC3RATE_RATE n p ≠ 0

/-- The instants at which TC3 slots of such partitions start; the highest load is at one of them. -/
def Block.loadStarts (b : Block) (n : Nat) : List Nat := (b.ratedParts n).flatMap fun p => (b.tc3Slots p).map (·.1)

/-- The TC3 rate of port `n` at an instant, in lines per µs. -/
def Block.rateAt (b : Block) (n t : Nat) : Nat :=
  (b.ratedParts n).foldl (fun s p => if (b.tc3Slots p).any (fun i => i.1 ≤ t && t < i.2) then s + b.get FLM_TC3RATE_RATE n p else s) 0

/-- The planned TC3 load of flume port `n`: 3 flits per line, at its highest. -/
def Block.portLoad (b : Block) (n : Nat) : Nat := (b.loadStarts n).foldl (fun a t => max a (3 * b.rateAt n t)) 0

/-- The directions that transactions of port `n` pass: requests to every home and answers back. A partition's lines lie evenly over the homes (DESIGN CHOICE). -/
def Block.portDirs (b : Block) (bank n : Nat) : List Nat :=
  let f := flumeRouters.getD n 2
  homeRouters.flatMap fun h => b.pathDirs bank h 15 f ++ b.pathDirs bank f 15 h

/-- The planned TC3 load of every hub mesh link under the tables of a bank, the higher of its two directions. -/
def Block.linkLoads (b : Block) (bank : Nat) : List Nat :=
  let ports := (List.range 12).filter fun n => !(b.ratedParts n).isEmpty
  let dirs := ports.map fun n => (n, b.portDirs bank n)
  let rates := (ports.flatMap b.loadStarts).map fun t => ports.map fun n => (n, b.rateAt n t)
  let load (d : Nat) (r : List (Nat × Nat)) : Nat :=
    (3 * dirs.foldl (fun s e => s + (List.lookup e.1 r).getD 0 * (e.2.filter (· = d)).length) 0 + 7) / 8
  (List.range 112).map fun l => rates.foldl (fun a r => max a (max (load (linkDirs l).1 r) (load (linkDirs l).2 r))) 0

/-- The highest of the loads, and its link. -/
def topLoad (l : List Nat) : Nat × Nat :=
  (List.range l.length).foldl (fun a i => if a.1 < l.getD i 0 then (l.getD i 0, i) else a) (0, 0)

/-- How far the loads of a bank lie above the limits, at the most. -/
def Block.overload (b : Block) (bank : Nat) : Nat :=
  let l := b.linkLoads bank
  (List.range 112).foldl (fun a i => max a (l.getD i 0 - (if b.halved i then 750 else 1500))) 0

/-! ## Tables (R223, R227) -/

/-- Write a bank: entries of flume routers are copied from the bank in force once there is one; each other entry is the choice `f` makes for a router and a
destination among the minimal west-first ports. -/
def Block.fillBank (bank : Nat) (first : Bool) (f : Nat → Nat → List Nat → Nat) (b : Block) : Block :=
  let old := b.get MRC_EPOCH_CUR
  b.forN 64 fun r c => c.forN 8 fun k c =>
    c.setR .MRC_RTBL ((List.range 8).foldl (fun v j =>
      let d := 8 * k + j
      let port := if !first && flumeRouters.contains d then b.tablePort old r d else f r d (westFirst r d)
      v + port * 16 ^ j) 0) bank r k

/-- The order in which the governor prefers tables: by their overload, then by their highest load. -/
def Block.bankCost (b : Block) (bank : Nat) : Nat := b.overload bank * 2 ^ 32 + (topLoad (b.linkLoads bank)).1

/-- The governor builds a bank. The spec asks for the lowest highest load and gives no search: the block takes a free choice of ports, unless taking every row
or every column first does better (DESIGN CHOICE). -/
def Block.buildBank (bank : Nat) (first : Bool) (b : Block) : Block :=
  let better (x y : Block) : Block := if x.bankCost bank ≤ y.bankCost bank then x else y
  let free := b.fillBank bank first fun r d l => l.getD (Config.routeChoice b.free r d % l.length) 4
  let best := if free.bankCost bank = 0 then free
    else better free (better (b.fillBank bank first fun _ _ l => l.headD 4) (b.fillBank bank first fun _ _ l => l.getLastD 4))
  best.tickFree

/-- MRC_TC3LOAD shows the highest planned load under the active tables. -/
def Block.showLoad (b : Block) : Block :=
  let best := topLoad (b.linkLoads (b.get MRC_EPOCH_CUR))
  b.put MRC_TC3LOAD_MAXLOAD (min best.1 65535) |>.put MRC_TC3LOAD_LINK best.2

/-- Write the inactive bank and ask for the swap, now or after the drain that runs (R227). -/
def Block.reroute (b : Block) : Block :=
  if b.isSet MRC_EPOCH_DRAINING then b.modMesh (fun m => { m with wantSwap := true })
  else b.buildBank (1 - b.get MRC_EPOCH_CUR) false |>.put MRC_EPOCH_PEND 1 |>.modMesh (fun m => { m with wantSwap := false })

/-- At a boundary a requested swap takes effect (R225); the boundaries since the last one are counted (R226). -/
def Block.swapBoundary (b : Block) : Block :=
  if b.isSet MRC_EPOCH_DRAINING then b.modMesh (fun m => { m with swapAge := m.swapAge + 1 })
  else if !b.isSet MRC_EPOCH_PEND then b
  else
    b.put MRC_EPOCH_CUR (1 - b.get MRC_EPOCH_CUR) |>.put MRC_EPOCH_PEND 0 |>.put MRC_EPOCH_DRAINING 1
      |>.modMesh (fun m => { m with swapAge := 0, swapNs := b.timeNs }) |>.showLoad

/-! ## Errors of links and routers (R215, R228, R229) -/

/-- A data flit that has just crossed a link goes on with FPOIS: the last one in a buffer that the link feeds. -/
def Block.poisonFlit (link : Nat) (b : Block) : Block :=
  let fed (d : Nat) : Nat := neighbour (d / 4) (d % 4) * 8 + facing (d % 4)
  let here (k : Nat) : Bool := k / 8 = fed (linkDirs link).1 || k / 8 = fed (linkDirs link).2
  let newest := (b.net.ins.filter fun e => here e.1).foldl (fun a e => e.2.foldl (fun a f => if f.body then max a (f.stamp + 1) else a) a) 0
  { b with net := { b.net with
      ins := b.net.ins.map fun e => if here e.1 then (e.1, e.2.map fun f => if f.body && f.stamp + 1 = newest then { f with fpois := true } else f) else e } }

/-- A lane fails: the link runs halved and the governor moves the load; the second lane of a link stops the device. -/
def Block.laneFail (link lane : Nat) (b : Block) : Block :=
  let both := b.mesh.lanes.contains (link * 2 + (1 - lane))
  let b := b.modMesh (fun m => { m with lanes := sinsert (link * 2 + lane) m.lanes })
  if both then b.raise { code := 0x450D }
  else
    let heavy := decide (750 < (b.linkLoads (b.get MRC_EPOCH_CUR)).getD link 0)
    b.setR .MRC_HALF (Nat.lor (b.getR .MRC_HALF (link / 32)) (2 ^ (link % 32))) (link / 32)
      |>.raise { code := 0x3508, detail := ofBool heavy } |>.reroute

/-- A corrected error of a lane is counted; the seventeenth of one turn fails the lane. -/
def Block.laneCorrected (link lane : Nat) (b : Block) : Block :=
  let k := link * 2 + lane
  let b := { b with net := { b.net with corr := SMap.upd 0 k (· + 1) b.net.corr } } |>.inc MRC_ERRCNT_CORR |>.noteOnce 0 { code := 0x1507 }
  if 16 < SMap.get 0 k b.net.corr then b.laneFail link lane else b

/-- MESH_LANE_FAIL (R215, R228, R229, R231): an error of a lane. Corrected, it is counted; uncorrectable, the data flit goes on with FPOIS and the lane has failed. -/
def execMeshLaneFail (link lane : Nat) (corrected : Bool) (s : State) : Host.Outcome State Fault Refusal :=
  onBlk s fun b =>
    if 112 ≤ link || 2 ≤ lane || b.mesh.lanes.contains (link * 2 + lane) then b
    else if corrected then b.laneCorrected link lane
    else b.poisonFlit link |>.laneFail link lane

/-- The packet whose message is `o` leaves the hub mesh of epoch `e` (R225). -/
def Block.drained (e : Nat) (b : Block) : Block := b.put MRC_DRAIN_COUNT (b.get MRC_DRAIN_COUNT e - 1) e

/-- A router drops the packet whose head waits in one of its buffers. -/
def Block.dropAt (router : Nat) (b : Block) : Block :=
  match ((b.net.ins.filter fun e => e.1 / 64 = router).flatMap (·.2)).find? (fun f => !f.body) with
  | none => b
  | some f =>
    let o := f.pkt.msg
    { b with net := { b.net with
        ins := SMap.mapV [] (fun _ l => l.filter fun g => g.pkt.msg ≠ o) b.net.ins
        src := SMap.mapV [] (fun _ l => l.filter fun g => !(g.body && decide (g.pkt.msg = o))) b.net.src
        br := SMap.mapV [] (fun _ l => l.filter fun g => !(g.body && decide (g.pkt.msg = o))) b.net.br
        outs := SMap.mapV {} (fun _ x => { x with lock := x.lock.filter fun l => l.2 ≠ o }) b.net.outs } }
      |>.takeFlight o |>.drained f.pkt.epoch

/-- MESH_HEADER_UNCORRECTABLE (R215): the packet is dropped, 0x250C. -/
def execMeshHeaderUncorrectable (router : Nat) (s : State) : Host.Outcome State Fault Refusal :=
  onBlk s fun b => b.when (router < 64) (Block.dropAt router) |>.inc MRC_ERRCNT_DROP |>.note { code := 0x250C }

/-- ROUTING_TABLE_WRITE (R223): only the governor, only into an inactive bank whose drain count is 0; any other write is refused. -/
def Block.routeWrite (mid bank router index value : Nat) (b : Block) : Block :=
  if mid ≠ midGov || 2 ≤ bank || 64 ≤ router || 8 ≤ index || bank = b.get MRC_EPOCH_CUR || b.get MRC_DRAIN_COUNT bank ≠ 0 || b.isSet MRC_EPOCH_DRAINING
  then b.emit .accessError
  else b.setR .MRC_RTBL value bank router index

def execRoutingTableWrite (mid bank router index value : Nat) (s : State) : Host.Outcome State Fault Refusal :=
  onBlk s fun b => b.routeWrite mid bank router index value

/-- A write of REQ (R225). -/
def Block.swapReq (mid : Nat) (b : Block) : Block :=
  if mid ≠ midGov then b.emit .accessError else b.put MRC_EPOCH_PEND 1

/-- MRC_SWAP_REQUEST (R225): the swap takes effect at the next boundary. -/
def execMrcSwapRequest (mid : Nat) (s : State) : Host.Outcome State Fault Refusal :=
  onBlk s fun b => b.swapReq mid

/-- Packets of the old epoch are still in the hub mesh. -/
def Block.oldPackets (b : Block) : Nat := b.get MRC_DRAIN_COUNT (1 - b.get MRC_EPOCH_CUR)

/-- ROUTING_DRAIN_COMPLETE (R225, R227): the old bank is inactive and drained; a rebuild that waited follows. -/
def execRoutingDrainComplete (s : State) : Host.Outcome State Fault Refusal :=
  onBlk s fun b =>
    if !b.isSet MRC_EPOCH_DRAINING || b.oldPackets ≠ 0 then b
    else
      let b := b.put MRC_EPOCH_DRAINING 0 |>.put MRC_EPOCH_DRAINTIME (min 65535 ((b.timeNs - b.mesh.swapNs) / 10)) |>.note { code := 0x050A }
      if b.mesh.wantSwap then b.reroute else b

/-- DRAIN_OVERRUN (R226): the old epoch still holds packets at the second boundary after the swap. -/
def execDrainOverrun (s : State) : Host.Outcome State Fault Refusal :=
  onBlk s fun b =>
    if b.isSet MRC_EPOCH_DRAINING && b.oldPackets ≠ 0 && 2 ≤ b.mesh.swapAge then b.put MRC_EPOCH_OVERRUN 1 |>.raise { code := 0x4506 } else b

/-! ## Flume links -/

/-- Both links of a sail that is not yet ACTIVE are down: its self-test fails, or its readmission will (R104). -/
def Block.testLost (n : Nat) (b : Block) : Block :=
  if b.get GOV_SAILSTAT_STATE n = 2 then b.toLost n |>.resetSail n |>.raise { code := 0x3207 }
  else b.modSail n fun t => { t with testFail := true }

/-- An end of a dead link holds its later packets back and reports on the other link what it received last (R240 steps 1 and 3). -/
def Block.syncEnd (n k side : Nat) (b : Block) : Block :=
  let e := b.lend n k side
  b.modLend n k side (fun e => { e with nakOwed := false, nakCnt := 0, hold := true, ctl := [], wire := [], resend := [] })
    |>.sendCtl n (1 - k) side 1 6 ((e.rx + 1023) % 1024)

/-- A link goes down (R240, R241, R244): the last one loses the sail with the cause given; with the other up, both ends send LINKSYNC on it from the next cycle
on (DEDUCED: each end reports, R240 step 2). A load then above the limit makes the governor build tables (R231). -/
def Block.linkDown (n k cause : Nat) (b : Block) : Block :=
  if !b.linkUp n k then b
  else
    let b := b.putUp n k 0
    if b.linkUp n (1 - k) then
      let heavy := decide (1333 < b.portLoad n)
      b.syncEnd n k 0 |>.syncEnd n k 1 |>.raise { code := 0x3504, detail := ofBool heavy } |>.when heavy Block.reroute
    else if b.active? n then b.sailLost n 0x3505 cause
    else b.testLost n

/-- A receiver asks for the SEQ that it expects. -/
def Block.sendNak (n k side : Nat) (b : Block) : Block := b.sendCtl n k side 0 5 (b.lend n k side).rx

/-- FLUME_FRAME_CRC_ERROR (R237): the frame that arrives next is discarded and NAK leaves with the SEQ expected. -/
def execFlumeFrameCrcError (sail link side : Nat) (s : State) : Host.Outcome State Fault Refusal :=
  onBlk s fun b =>
    if !b.linkUp sail link || 2 ≤ side then b
    else b.when (side = 0) (fun b => b.inc FLM_LINK_CRCERR sail link)
      |>.modLend sail link (1 - side) (fun e => { e with wire := e.wire.drop 1 })
      |>.modLend sail link side (fun e => { e with nakOwed := true }) |>.sendNak sail link side

/-- FLUME_NAK (R237): the transmitter resends from the NAKed SEQ; the sixteenth NAK of one SEQ takes the link down. -/
def execFlumeNak (sail link side seq : Nat) (s : State) : Host.Outcome State Fault Refusal :=
  onBlk s fun b =>
    if !b.linkUp sail link || 2 ≤ side then b
    else
      let e := b.lend sail link side
      let cnt := if e.nakSeq = seq && e.nakCnt ≠ 0 then e.nakCnt + 1 else 1
      let again := e.replay.filter (fun f => (f.seq + 1024 - seq) % 1024 < 512)
      let b := b.modLend sail link side (fun e => { e with nakSeq := seq, nakCnt := cnt, replay := again, resend := again })
      if 16 ≤ cnt then b.linkDown sail link 4
      else b.when (side = 0) (fun b => b.incBy FLM_REPLAY_FRAMES again.length sail link) |>.noteOnce sail { code := 0x1501 }

/-- FLUME_NAK_RESEND (R237): a receiver that still waits for its SEQ repeats the NAK. -/
def execFlumeNakResend (sail link side : Nat) (s : State) : Host.Outcome State Fault Refusal :=
  onBlk s fun b => if b.linkUp sail link && side < 2 && (b.lend sail link side).nakOwed then b.sendNak sail link side else b

/-- FLUME_LINK_DOWN (R240, R241). -/
def execFlumeLinkDown (sail link : Nat) (s : State) : Host.Outcome State Fault Refusal :=
  onBlk s fun b => if sail < 12 && link < 2 then b.linkDown sail link 1 else b

/-- LINKSYNC (R240): the end resends on the surviving link every frame of the dead one after the SEQ reported, and then what waited for that link. -/
def execLinksyncFrame (sail link side seq : Nat) (s : State) : Host.Outcome State Fault Refusal :=
  onBlk s fun b =>
    let dead := 1 - link
    let d := b.lend sail dead side
    if 2 ≤ link || 2 ≤ side || !b.linkUp sail link || b.linkUp sail dead || !d.hold then b
    else
      let again := d.replay.filter (fun f => let x := (f.seq + 1024 - seq) % 1024; 0 < x && x < 512)
      b.modLend sail dead side (fun e => { e with replay := [], txq := [], hold := false })
        |>.modLend sail link side (fun e => { e with txq := e.txq ++ again.map (·.flit) ++ d.txq })
        |>.when (side = 0) (fun b => b.incBy FLM_REPLAY_FRAMES again.length sail dead)

/-- HEARTBEAT (R239, R243): an end sends its count and, from the sail, BMISS when no BOUNDARY of this turn was taken. -/
def execHeartbeatFrame (sail link side : Nat) (s : State) : Host.Outcome State Fault Refusal :=
  onBlk s fun b =>
    if 2 ≤ link || 2 ≤ side || !b.linkUp sail link then b
    else
      let miss := decide (side = 1) && b.active? sail && decide ((b.sail sail).bndTurn ≠ b.turn % 65536)
      b.modLend sail link side (fun e => { e with beats := (e.beats + 1) % 65536 })
        |>.sendCtl sail link side 0 3 ((b.lend sail link side).beats + ofBool miss * 65536)

/-- HEARTBEAT_RECEIVED (R243): BMISS loses the sail with cause 3. -/
def execHeartbeatReceived (sail link : Nat) (bmiss : Bool) (s : State) : Host.Outcome State Fault Refusal :=
  onBlk s fun b => if bmiss && b.linkUp sail link then b.sailLost sail 0x3505 3 else b

/-- HEARTBEAT_TIMEOUT (R241): no heartbeat for 1 µs (cause 2), or both links down (cause 1). -/
def execHeartbeatTimeout (sail : Nat) (s : State) : Host.Outcome State Fault Refusal :=
  onBlk s fun b => b.sailLost sail 0x3505 (if b.linkUp sail 0 || b.linkUp sail 1 then 2 else 1)

/-- SAIL_HUB_SILENT (R241): the sail stops issuing packets until its reset. -/
def execSailHubSilent (sail : Nat) (s : State) : Host.Outcome State Fault Refusal :=
  onBlk s fun b => if b.active? sail then b.modSail sail (fun t => { t with silent := true }) else b

/-- BOUNDARY (R243): the first copy without error of a turn is taken; copy k adds 4.5 ns × k to the preload. -/
def execBoundaryFrame (sail copy turn : Nat) (s : State) : Host.Outcome State Fault Refusal :=
  onBlk s fun b =>
    if !b.active? sail || 3 ≤ copy || (b.sail sail).bndTurn = turn % 65536 then b
    else b.modSail sail (fun t => { t with bndTurn := turn % 65536, bndPreload := b.get FLM_STATUS_BDELAY sail * 10 + 45 * copy })

/-- The governor retrains a link that went down, at most 8 times between sail resets (R242). -/
def Block.retrain (n k mid : Nat) (b : Block) : Block :=
  if mid ≠ midGov then b.emit .accessError
  else if !b.active? n || b.linkUp n k || 8 ≤ b.get FLM_LINK_RETRAIN n k then b
  else b.inc FLM_LINK_RETRAIN n k |>.modLend n k 0 (fun e => { training := true, rxq := e.rxq, txq := e.txq }) |>.modLend n k 1 (fun e => { rxq := e.rxq, txq := e.txq })

/-- RETRAIN0 (R242). -/
def execRetrain0 (sail mid : Nat) (s : State) : Host.Outcome State Fault Refusal := onBlk s fun b => b.retrain sail 0 mid

/-- RETRAIN1 (R242). -/
def execRetrain1 (sail mid : Nat) (s : State) : Host.Outcome State Fault Refusal := onBlk s fun b => b.retrain sail 1 mid

/-- FLUME_LINK_RESTORED (R242): the retrained link carries traffic from the next boundary; 0x150E. -/
def execFlumeLinkRestored (sail link : Nat) (s : State) : Host.Outcome State Fault Refusal :=
  onBlk s fun b =>
    if !b.active? sail || 2 ≤ link || !(b.lend sail link 0).training then b
    else b.modLend sail link 0 (fun e => { e with training := false, retrained := true }) |>.note { code := 0x150E }

/-- Retrained links carry traffic again, and three BOUNDARY frames, 8 frame times apart, leave for every ACTIVE sail (R242, R243). -/
def Block.flumeBoundary (b : Block) : Block :=
  b.forN 12 fun n b =>
    if !b.active? n then b
    else
      let b := b.forN 2 fun k b =>
        if (b.lend n k 0).retrained then b.putUp n k 1 |>.modLend n k 0 (fun e => { e with retrained := false }) else b
      b.forN 3 fun i b => b.sendCtl n (if b.linkUp n 0 then 0 else 1) 0 (9 * i) 4 (b.turn % 65536 + 65536 * i)

end Sys2Proof.Machine
end

