-- ==== Sys2Proof/Machine/Feasible.lean ====
section
/-! DEFINITION. The feasibility checks of a commit (R455), run on a trial block in which the image to be checked is active, its memory tables and
schedule loaded. Each check is true where the image passes. -/

namespace Sys2Proof.Machine

/-- Load K, Q and the region descriptors of the active image into every controller (R252, R255). -/
def Block.memTables (b : Block) : Block :=
  b.forN 8 fun c b =>
    b.put MC_LAYOUT_K (b.actN 0x5000 1) c |>.put MC_LAYOUT_Q (b.actN 0x5000 2) c
      |>.forN 64 (fun i b => b.forN 4 fun w b => b.setR .MC_RD (b.actN (0x5010 + i) (w + 1)) c i w)

/-- The block as an image would make it. -/
def Block.trial (i : Image) (b : Block) : Block := { b with active := i } |>.memTables |>.trnLoad

/-! ## Helpers -/

/-- Mode and replicas of partition `p` in the image. -/
def Block.fMode (b : Block) (p : Nat) : Nat := b.actN (0x3000 + p) 1
def Block.fParts (b : Block) : List Nat := (List.range 64).filter fun p => b.fMode p ≠ 0
def Block.fRepl (b : Block) (p : Nat) : Bool := 2 ≤ b.fMode p
/-- Sail and core mask of replica `r`; of spare group `g`. -/
def Block.fSail (b : Block) (p r : Nat) : Nat := b.actN (0x3000 + p) (3 + r) % 16
def Block.fMask (b : Block) (p r : Nat) : Nat := b.actN (0x3000 + p) (3 + r) / 65536
def Block.gSail (b : Block) (g : Nat) : Nat := b.actN 0x3500 (g + 1) % 16
def Block.gMask (b : Block) (g : Nat) : Nat := b.actN 0x3500 (g + 1) / 65536
/-- A cross-package PAIR of the image, and the replicas of a partition that lie on this package (R275). -/
def Block.fXpkg (b : Block) (p : Nat) : Bool := b.pFlag p flagXpkg && b.fMode p = 2
def Block.fLocal (b : Block) (p : Nat) : List Nat := (List.range (b.fMode p)).filter fun r => !b.fXpkg p || r = b.otp.pkg

/-- The spare groups in the image that partition `p` names. -/
def Block.fSpares (b : Block) (p : Nat) : List Nat := (List.range 16).filter fun g => b.gMask g ≠ 0 && bit (b.actN (0x3000 + p) 7) g

/-- A fused or held-out position (R3, R33). -/
def Block.unusable (b : Block) (n : Nat) : Bool := 12 ≤ n || b.isSet GOV_SAILSTAT_FUSED n || b.isSet GOV_SAILSTAT_HELDOUT n

/-- Two ranges (base, size) overlap; the first lies within the second. -/
def rngOver (a s : Nat × Nat) : Bool := a.1 < s.1 + s.2 && s.1 < a.1 + a.2
def rngIn (a s : Nat × Nat) : Bool := s.1 ≤ a.1 && a.1 + a.2 ≤ s.1 + s.2

/-- No two elements of a list are related. -/
def noPair {α : Type} (f : α → α → Bool) : List α → Bool
  | [] => true
  | x :: r => r.all (fun y => !f x y) && noPair f r

/-- The period in ns. -/
def Block.fPeriod (b : Block) : Nat := b.actN 0x2000 1 * 1000

/-! ## 1: sails (R3, R33) -/

def Block.fSails (b : Block) : Bool :=
  b.fParts.all (fun p => (b.fLocal p).all fun r => !b.unusable (b.fSail p r))
    && (List.range 16).all (fun g => b.gMask g = 0 || !b.unusable (b.gSail g))
    && (List.range 64).all (fun p => (List.range 12).all fun n => b.actN (0x2500 + p) (n + 1) = 0 || !b.unusable n)

/-! ## 2: schedule (R50, R285) -/

/-- The valid slots of the schedule: START, END, PART, ENTER, MARK. -/
def Block.fSlots (b : Block) : List (Nat × Nat × Nat × Bool × Bool) :=
  ((List.range 64).filter (fun n => b.isSet TRN_SLOT_VALID n)).map fun n =>
    (b.get TRN_SLOT_START n, b.get TRN_SLOT_END n, b.get TRN_SLOT_PART n, b.isSet TRN_SLOT_ENTER n, b.isSet TRN_SLOT_MARK n)

/-- W of R285 in half picoseconds. -/
def Block.digestW (b : Block) (p : Nat) : Nat := 2000000 + (b.outWins p).foldl (fun a w => a + b.outWin p w) 0 * 125

/-- The digest time of partition `p` in half picoseconds (R285). -/
def Block.digestTime (b : Block) (p : Nat) : Nat :=
  let on (q : Nat) (e : Nat) : Bool := (b.fLocal q).any fun r => (b.actN (0x3000 + q) 6 + r) % 8 = e
  let worst := (b.fLocal p).foldl (fun a r =>
    let e := (b.actN (0x3000 + p) 6 + r) % 8
    let others := b.fParts.filter fun q => q ≠ p && b.fRepl q && on q e
    let t := b.digestW p + others.foldl (fun m q => max m (b.digestW q)) 0
      + (others.filter fun q => b.markNs q ≤ b.markNs p).foldl (fun s q => s + b.digestW q) 0
    max a t) 0
  worst + (if b.fXpkg p then 12000000 else 0)

def Block.fSchedule (b : Block) : Bool :=
  let sl := b.fSlots
  let per := b.fPeriod
  sl.all (fun s => s.1 < s.2.1 && s.2.1 * 100 ≤ per && b.fMode s.2.2.1 ≠ 0)
    && noPair (fun s t => s.2.2.1 = t.2.2.1 && s.1 < t.2.1 && t.1 < s.2.1) sl
    && b.fParts.all (fun p =>
        (sl.filter fun s => s.2.2.1 = p && s.2.2.2.1).length = 1 && (sl.filter fun s => s.2.2.1 = p && s.2.2.2.2).length = 1
          && b.startNs p < b.markNs p)
    && (List.range 64).all (fun p => b.actN 0x2200 (p + 1) * 100 < per)
    && b.fParts.all (fun p => !b.fRepl p || b.markNs p * 2000 + b.digestTime p ≤ (per + b.actN 0x2200 (p + 1) * 100) * 2000)
    && decide (2 * b.actN 0x2000 4 < per) && decide (b.actN 0x2000 3 < per)

/-! ## 3: memory layout (R255, R257, R258) -/

/-- The number of controllers of a pinned descriptor. -/
def Block.pinK (b : Block) (i : Nat) : Nat := (pinList (descMask (b.desc i 0))).length

/-- The controllers that hold a pinned region, mirrors included. -/
def Block.regionMcs (b : Block) (i : Nat) : List Nat :=
  let ps := pinList (descMask (b.desc i 0))
  if descCode (b.desc i 0) = codeM then ps ++ ps.map (fun c => xorN c 4) else ps

/-- Bytes of a region at each controller that holds it. -/
def Block.regionShare (b : Block) (i : Nat) : Nat := if descPin (b.desc i 0) then b.desc i 2 / b.pinK i else b.desc i 2 / 8

/-- The check range of region `i` (R259): offset from C − K and size; none for Code N. -/
def Block.checkRange (b : Block) (i : Nat) : Nat × Nat :=
  let c := descCode (b.desc i 0)
  (bits (b.desc i 3) 0 31, if c = codeN then 0 else if c = codeL then (b.regionShare i + 31) / 32 else (b.regionShare i + 7) / 8)

/-- One descriptor by itself: R257 and the field table of R255. -/
def Block.descOk (b : Block) (i : Nat) : Bool :=
  let w := b.desc i 0
  let low := 8 * (b.capBytes - b.carveK - b.poolQ)
  let k := b.pinK i
  0 < b.desc i 2 && Nat.land w 0xFFFFFFFFFF00FC20 = 0
    && (if descPin w then
          (k = 1 || k = 2 || k = 4) && b.desc i 1 % (4096 * k) = 0 && b.desc i 2 % (4096 * k) = 0
            && low ≤ b.desc i 1 && b.desc i 1 + b.desc i 2 ≤ 8 * (b.capBytes - b.carveK)
            && 4096 * bits (b.desc i 3) 32 63 + b.regionShare i ≤ b.poolQ
        else b.desc i 1 % 32768 = 0 && b.desc i 2 % 32768 = 0 && b.desc i 1 + b.desc i 2 ≤ low && bits (b.desc i 3) 32 63 = 0)
    && (descCode w ≠ codeM || (descPin w && (pinList (descMask w)).all fun c => !bit (descMask w) (xorN c 4)))
    && (let r := b.checkRange i; r.1 % 4096 = 0 && (descCode w ≠ codeN || r.1 = 0) && r.1 + r.2 ≤ b.carveK)
    && (!descPriv w || !b.unusable (descOwner w))

/-- The change of a field other than PRIV and OWNER, or of K or Q (R258). -/
def Block.layoutDiffers (old b : Block) : Bool :=
  b.getR .MC_LAYOUT ≠ old.getR .MC_LAYOUT
    || (List.range 64).any fun i =>
        setBits (setBits (b.desc i 0) 4 4 0) 6 9 0 ≠ setBits (setBits (old.desc i 0) 4 4 0) 6 9 0
          || (List.range 3).any fun w => b.desc i (w + 1) ≠ old.desc i (w + 1)

def Block.fLayout (old b : Block) : Bool :=
  let l := (List.range 64).filter fun i => descV (b.desc i 0)
  b.carveK + b.poolQ ≤ b.capBytes
    && l.all b.descOk
    && noPair (fun i j => rngOver (b.desc i 1, b.desc i 2) (b.desc j 1, b.desc j 2)) l
    && (List.range 8).all (fun c =>
        noPair (fun i j => rngOver (4096 * bits (b.desc i 3) 32 63, b.regionShare i) (4096 * bits (b.desc j 3) 32 63, b.regionShare j))
            (l.filter fun i => descPin (b.desc i 0) && (b.regionMcs i).contains c)
          && noPair (fun i j => rngOver (b.checkRange i) (b.checkRange j))
            (l.filter fun i => descCode (b.desc i 0) ≠ codeN && (!descPin (b.desc i 0) || (b.regionMcs i).contains c)))
    && (old.dev = .configWait || old.dev = .service || !Block.layoutDiffers old b)

/-! ## 4: structures in DRAM (R210, R257 item 8) -/

def Block.fStructs (b : Block) : Bool :=
  let ls := b.actN 0x5300 9
  let es := b.actN 0x5000 4
  (ls = 0 || (List.range 8).all fun h => b.rangeOk (bits (b.actN 0x5300 (h + 1)) 0 47) (8 * 2 ^ ls))
    && (es = 0 || (List.range 8).all fun c => b.rangeOk (bits (b.actN 0x5001 (c + 1)) 0 47) (32 * 2 ^ es))
    && b.fParts.all fun p => (b.fLocal p).all fun r => (List.range 8).all fun w =>
        b.rangeOk (b.inWinBase p w r) (2 * b.inWin p w) && b.rangeOk (b.outWinBase p w r) (2 * b.outWin p w)

/-! ## 5: partitions and replicas (R276) -/

/-- The image ranges of replica `r`. -/
def Block.fImages (b : Block) (p r : Nat) : List (Nat × Nat) :=
  ((List.range 8).filter (fun w => b.imgSize p w ≠ 0)).map fun w => (b.imgBase p w r, b.imgSize p w)

/-- Image ranges that adjoin, taken as one. -/
def joinRanges : List (Nat × Nat) → List (Nat × Nat)
  | [] => []
  | x :: r => match joinRanges r with
    | [] => [x]
    | y :: t => if y.1 ≤ x.1 + x.2 then (x.1, max (x.1 + x.2) (y.1 + y.2) - x.1) :: t else x :: y :: t

/-- A range lies inside the image ranges of replica `r`. -/
def Block.inImages (b : Block) (p r : Nat) (x : Nat × Nat) : Bool :=
  let sorted := (b.fImages p r).foldl (fun l y => insertIval y l) []
  x.2 = 0 || (joinRanges sorted).any (rngIn x)

/-- The controllers that hold the image of replica `r`; none where a range does not lie in a pinned region. -/
def Block.imageMcs (b : Block) (p r : Nat) : Option (List Nat) :=
  (b.fImages p r).foldl (fun a x => match a, b.regionOf x.1 with
    | some l, some i => if descPin (b.desc i 0) && rngIn x (b.desc i 1, b.desc i 2) then some (l ++ b.regionMcs i) else none
    | _, _ => none) (some [])

def Block.coresOf (mask : Nat) : List Nat := (List.range 16).filter (bit mask)

/-- One partition. -/
def Block.fOnePart (b : Block) (p : Nat) : Bool :=
  let rs := List.range (b.fMode p)
  let n := popcount 16 (b.fMask p 0)
  n ≠ 0 && rs.all (fun r => popcount 16 (b.fMask p r) = n)
    && noPair (fun r q => b.fSail p r = b.fSail p q) (b.fLocal p)
    && (!b.fRepl p || ((b.fLocal p).all (fun r => (b.imageMcs p r).isSome)
        && noPair (fun r q => ((b.imageMcs p r).getD []).any fun c => ((b.imageMcs p q).getD []).contains c) (b.fLocal p)))
    && rs.all (fun r => (List.range 8).all fun w =>
        b.inImages p r (b.inWinBase p w r, 2 * b.inWin p w) && b.inImages p r (b.outWinBase p w r, 2 * b.outWin p w))
    && (List.range 4).all (fun s => b.stSize p s = 0 || (List.range 2).all fun k =>
        (b.fImages p 0).any (rngIn (b.stBase0 p s k, b.stSize p s)))
    && (let h := (b.holdBase p, 2 * b.holdBytes p)
        h.2 = 0 || (b.rangeOk h.1 h.2 && b.fParts.all fun q => (b.fLocal q).all fun r => (b.fImages q r).all fun x => !rngOver h x))
    && (!b.fRepl p ||
        (let x := (List.range 4).foldl (fun a s => a + b.stSize p s) 0
         2000 * b.actN 0x3501 1 + x ≤ (b.fPeriod + b.startNs p - b.markNs p) * b.actN 0x3501 1))

def Block.fPartitions (b : Block) : Bool :=
  let pins := b.fParts.flatMap fun p => (b.fLocal p).flatMap fun r => (Block.coresOf (b.fMask p r)).map fun c => (b.fSail p r, c)
  b.fParts.all b.fOnePart && noPair (fun x y => x = y) pins
    && (List.range 16).all fun g => (Block.coresOf (b.gMask g)).all fun c => !pins.contains (b.gSail g, c)

/-! ## 6 to 8: L3 masks (R87), block maps (R117), event delivery (R63) -/

def Block.fL3 (b : Block) : Bool :=
  (List.range 12).all fun n => b.unusable n ||
    (List.range 16).all fun c =>
      let m := b.actN (0x3800 + n) (c + 1)
      m ≠ 0 && Nat.land m (0xFFFF - b.actN (0x3800 + n) 0x11) ≠ 0

def Block.fBlocks (b : Block) : Bool :=
  b.fParts.all fun p => (List.range (b.fMode p)).all fun r => (List.range 16).all fun k =>
    let x (j : Nat) : Nat := b.actN (0x3600 + p) (1 + 64 * r + 4 * k + j)
    !bit (x 3) 0 || blkEffective (x 0) (x 1) (x 2) (x 3)

/-- The core whose interrupt file an address reaches: sail and core (R76). -/
def fileCore (a : Nat) : Option (Nat × Nat) :=
  match fileOf a with
  | none => none
  | some _ =>
    let o := (a - sailCtl) % sailStride
    some ((a - sailCtl) / sailStride, if o < 0xC00000 then (o - 0x800000) / 0x1000 else (o - 0xC00000) / 0x8000)

def Block.fEvents (b : Block) : Bool :=
  (List.range 8).all fun i =>
    let v := b.actN 0x2300 (i + 1)
    let d := bits v 5 6
    !bit v 0 || (d ≠ 1 && d ≠ 3) || match fileCore (b.actN 0x2301 (i + 1)) with
      | none => true
      | some (n, c) => !b.fParts.any fun p => b.fRepl p && (b.fLocal p).any fun r => b.fSail p r = n && bit (b.fMask p r) c

/-! ## 9: millstones (R150, R163) -/

/-- A replica needs a binding. -/
def Block.fBinds (b : Block) (p : Nat) : Bool := b.actN (0x3A00 + p) 1 ≠ 0 || b.actN (0x3A00 + p) 2 ≠ 0

/-- The rings of replica `r` lie aligned within a readable window. -/
def Block.ringOk (b : Block) (p r : Nat) : Bool :=
  (List.range 2).all fun j =>
    let q := b.actN (0x3A00 + p) 2 / 16 ^ j % 16
    let n := 64 * 2 ^ q
    let base := bits (b.actN (0x3A00 + p) (3 + 6 * r + j)) 6 47 * 64
    q = 0 || (base % n = 0 && (List.range 4).any fun w =>
      let v := b.actN (0x3A00 + p) (5 + 6 * r + w)
      bits v 0 5 ≠ 0 && bit v 6 && rngIn (base, n) (bits v 12 47 * 4096, 2 ^ bits v 0 5))

/-- The millstone clock of the planned OP in MHz (R78). -/
def Block.fClock (b : Block) (n : Nat) : Nat :=
  let used := b.fParts.any (fun p => (b.fLocal p).any fun r => b.fSail p r = n)
    || (List.range 16).any fun g => b.gMask g ≠ 0 && b.gSail g = n
  let op := max (b.actN 0x2600 (n + 1) % 8) (ofBool used)
  match op with | 0 => 0 | 1 => 800 | 2 => 1200 | _ => 1600

/-- The partitions that load a millstone, the spares included (R276 item 8). -/
def Block.fLoads (b : Block) (n : Nat) : List Nat :=
  b.fParts.filter fun p => b.actN (0x3A00 + p) 1 ≠ 0
    && ((b.fLocal p).any (fun r => b.fSail p r = n) || (b.fSpares p).any fun g => b.gSail g = n)

/-- R163 on a millstone: for every pair of a start s and a mark d after it, the budgets of the partitions whose time lies between them, with 16,384 tile cycles
more, fit into four tiles at the planned clock. Times in ns, clock in MHz. -/
def Block.fTileTime (b : Block) (n : Nat) : Bool :=
  let l := b.fLoads n
  l.all fun p => l.all fun q =>
    let s := b.startNs p + 10000
    let d := b.markNs q
    d ≤ s || (l.filter fun x => s ≤ b.startNs x + 10000 && b.markNs x ≤ d).foldl (fun a x => a + b.actN (0x3A00 + x) 1 * 1024) 16384 * 1000
      ≤ 4 * b.fClock n * (d - s)

def Block.fMillstones (b : Block) : Bool :=
  b.fParts.all (fun p => !b.fBinds p || (List.range (b.fMode p)).all (b.ringOk p))
    && (List.range 12).all (fun n =>
        ((b.fParts.filter b.fBinds).flatMap fun p => (b.fLocal p).filter fun r => b.fSail p r = n).length
          + ((List.range 16).filter fun g => b.gMask g ≠ 0 && b.gSail g = n && b.fParts.any fun p => b.fBinds p && (b.fSpares p).contains g).length ≤ 16)
    && (List.range 12).all b.fTileTime

/-! ## 10, 11: TC3 loads (R231), memory reservations (R265) -/

/-- The largest sum of loads at one instant; loads open over [start, end). -/
def peakLoad (l : List (Nat × Nat × Nat)) : Nat :=
  l.foldl (fun m x => max m ((l.filter fun y => y.1 ≤ x.1 && x.1 < y.2.1).foldl (fun a y => a + y.2.2) 0)) 0

/-- The TC3 rates that partition `p` brings to the port of sail `n`: its own, and as a spare the highest of its replicas' rates. -/
def Block.fRate (b : Block) (p n : Nat) : Nat :=
  b.actN (0x2500 + p) (n + 1)
    + ((b.fSpares p).filter fun g => b.gSail g = n).length
      * (List.range (b.fMode p)).foldl (fun m r => max m (b.actN (0x2500 + p) (b.fSail p r + 1))) 0

/-- Merge the TC3 slots of a partition, whose overlaps count once. -/
def Block.fTc3 (b : Block) (p : Nat) : List (Nat × Nat) := (joinRanges ((b.tc3Slots p).map fun x => (x.1, x.2 - x.1))).map fun x => (x.1, x.1 + x.2)

/-- The block with the TC3 rates of the image, for the tables that the governor would build (R227). -/
def Block.fRated (b : Block) : Block := b.forN 12 fun n b => b.forN 64 fun p b => b.put FLM_TC3RATE_RATE (b.fRate p n) n p

def Block.fTc3Loads (b : Block) : Bool :=
  (List.range 12).all (fun n => b.unusable n ||
      3 * peakLoad ((List.range 64).flatMap fun p => (b.fTc3 p).map fun x => (x.1, x.2, b.fRate p n))
        ≤ (if b.linkUp n 0 != b.linkUp n 1 then 1333 else 2666))
    && ((List.range 64).all (fun p => (List.range 12).all fun n => b.fRate p n = 0)
        || (let bank := 1 - b.get MRC_EPOCH_CUR; (b.fRated.buildBank bank false).overload bank = 0))

def Block.fReserve (b : Block) : Bool :=
  (List.range 8).all fun c => peakLoad ((List.range 64).flatMap fun p => (b.fTc3 p).map fun x => (x.1, x.2, b.actN (0x5100 + p) (c + 1))) ≤ 864

/-! ## 12: Leavo slots and endpoints (R336) -/

/-- An endpoint entry in the image: V and the other fields of LVP_EPT. -/
def Block.fEpt (b : Block) (e : Nat) : Nat := b.actN (0x4400 + e / 128) (e % 128 + 1)
def eptPortA (v : Nat) : Nat := bits v 1 3
def eptPortB (v : Nat) : Nat := bits v 4 6
def eptPkgB (v : Nat) : Bool := bit v 7
def eptParent (v : Nat) : Nat := bits v 16 27

/-- The valid entries, by endpoint. -/
def Block.fEpts (b : Block) : List (Nat × Nat) :=
  ((b.active.recs.filter fun r => decide (0x4400 * 256 ≤ r.1) && decide (r.1 < 0x4420 * 256) && r.1 % 256 ≠ 0).map fun r =>
    ((r.1 / 256 - 0x4400) * 128 + r.1 % 256 - 1, leNat r.2)).filter fun e => bit e.2 0

/-- Line bytes of the egress of partition `p` on port `k` (R313, R363). -/
def Block.fEgress (b : Block) (p k : Nat) : Nat :=
  (b.pinnedFlows.filter fun f => fAction f.2 = 5 && fPart f.2 = p &&
    (let v := b.fEpt (fDstEp f.2); bit v 0 && (eptPortA v = k || (eptPortB v = k && !eptPkgB v)))).foldl (fun a f => a + Sys2Proof.Machine.lineBytes (fRecLen f.2)) 0

/-- The valid slots of a port: LVP_SLOT values. -/
def Block.fLvpSlots (b : Block) (k : Nat) : List Nat := ((List.range 64).map fun s => b.actN (0x4010 + k) (s + 1)).filter fun v => bit v 31

def Block.fLeavo (b : Block) : Bool :=
  (List.range 6).all (fun k =>
      let sl := b.fLvpSlots k
      let lanes := b.actN (0x4000 + k) 4
      sl.all (fun v => bits v 0 16 < bits v 32 48 && bits v 32 48 * 100 ≤ b.fPeriod)
        && noPair (fun v w => bit v 30 == bit w 30 && bits v 0 16 < bits w 32 48 && bits w 0 16 < bits v 32 48) sl
        && (sl.filter fun v => !bit v 30).all fun v =>
            let e := b.fEgress (bits v 24 29) k
            let ns := (bits v 32 48 - bits v 0 16) * 100
            b.actN 0x2200 (bits v 24 29 + 1) ≤ bits v 0 16
              && (if bit v 49 then 2 * e else e) ≤ ns * 13 * lanes
              && (!bit v 49 || e + 5000 * 13 * lanes ≤ ns * 13 * lanes))
    && b.fEpts.all (fun e => 5 < eptPortA e.2
        || (eptPortA e.2 ≠ eptPortB e.2 && (!eptPkgB e.2 || eptPortB e.2 ≤ 5)
          && (let q := b.fEpt (eptParent e.2); bit q 0 && eptParent q = eptParent e.2)))
    && (b.fEpts.filter fun e => eptPortA e.2 = 6 && !eptPkgB e.2).length ≤ 1

/-! ## 13, 14: flows (R353, R356, R357, R363), instances and shares (R364, R372, R378) -/

def Block.fFlows (b : Block) : Bool :=
  let base := b.actN 0x4800 1
  let fs := b.pinnedFlows
  (match b.regionOf base with
    | none => false
    | some i => (descCode (b.desc i 0) = codeS || descCode (b.desc i 0) = codeM) && rngIn (base, 80 * 2 ^ 20) (b.desc i 1, b.desc i 2))
    && fs.length ≤ 16384 && noPair (fun f g => f.1 = g.1) fs
    && fs.all (fun f => (fs.filter fun g => g.1 % 4096 = f.1 % 4096).length ≤ 8)
    && fs.all (fun f =>
        let a := fAction f.2
        let ept := bit (b.fEpt (fDstEp f.2)) 0
        ctxValid f.2
          && (a ≠ 1 && a ≠ 5 || ctxF f.2 2 3 3 = 1)
          && (a ≠ 5 || (b.fMode (fPart f.2) ≠ 0 && fRecOff f.2 + fRecLen f.2 ≤ b.outWin (fPart f.2) (fWin f.2)))
          && (a ≠ 3 && a ≠ 5 || ept)
          && !(a = 3 && fKtype f.2 = 1 && ctxF f.2 0 8 15 = 0))
    && (List.range 64).all (fun p => (fs.filter fun f => fAction f.2 = 5 && fPart f.2 = p).length ≤ 1024)

def Block.fInstances (b : Block) : Bool :=
  (List.range 256).all (fun i => let o := b.actN (0x4A00 + i) 1; o % 4 ≠ 1 || !b.fRepl (bits o 4 9))
    && (List.range 256).foldl (fun a i => a + b.actN (0x4A00 + i) 2) 0 ≤ 1024
    && (let m := b.actN 0x4800 8; 64 ≤ m || !b.fRepl m)

/-! ## 15: the inbound window table (R396) -/

/-- The check of a table of (word 0, word 1): the ERRCODE of the first entry at fault, 0 for none. -/
def Block.iwCheck (b : Block) (l : List (Nat × Nat)) : Nat :=
  let es := l.filter fun e => bit e.1 0
  let size (e : Nat × Nat) : Nat := bits e.1 4 9
  let off (e : Nat × Nat) : Nat := bits e.1 12 47 * 4096
  let phys (e : Nat × Nat) : Nat := bits e.2 12 47 * 4096
  let fn (e : Nat × Nat) : Nat := bits e.1 48 55
  if es.any (fun e => size e < 12 || 40 < size e || off e % 2 ^ size e ≠ 0 || phys e % 2 ^ size e ≠ 0) then 1
  else if es.any (fun e => (if fn e = 0 then 2 ^ 36 else 2 ^ 28) < off e + 2 ^ size e) then 2
  else if !noPair (fun e f => fn e = fn f && rngOver (off e, 2 ^ size e) (off f, 2 ^ size f)) es then 3
  else if es.any (fun e =>
      let a := phys e
      let n := 2 ^ size e
      let inScratch := scratchBase ≤ a && a < scratchBase + 12 * 0x1000000 && (a - scratchBase) % 0x1000000 + n ≤ 0x800000
      !(b.rangeOk a n || inScratch)) then 4
  else 0

/-- The table of the image (0x4110). -/
def Block.fInbound (b : Block) : List (Nat × Nat) := (List.range 64).map fun n => let v := b.act 0x4110 (n + 1); (leAt 0 8 v, leAt 8 8 v)

/-! ## 16: mailbox bindings (R433) -/

def Block.fMailbox (b : Block) : Bool :=
  let t := (List.range 32).map fun l => b.actN 0x1410 (l + 1)
  let vs := t.filter fun v => bit v 0
  (match b.dict.locked with | some l => t = l | none => true)
    && noPair (fun v w => bit v 1 == bit w 1 && bits v 8 14 = bits w 8 14 && bits v 16 22 = bits w 16 22) vs
    && vs.all fun v =>
        let r := bits v 8 14
        let s := bits v 16 22
        r ≠ s && r ≤ 73 && s ≤ 73 && b.actN 0x1400 (r + 1) ≠ 1 && !(decide (r < 64) && b.fRepl r)
          && (!bit v 1 || (b.secure r && b.secure s))

/-! ## All checks (R455) -/

/-- The feasibility code of an image: that of the first failing check, 0 where all pass. -/
def Block.feasibility (i : Image) (old : Block) : Nat :=
  let b := old.trial i
  if !b.fSails then 1 else if !b.fSchedule then 2 else if !Block.fLayout old b then 3 else if !b.fStructs then 4
  else if !b.fPartitions then 5 else if !b.fL3 then 6 else if !b.fBlocks then 7 else if !b.fEvents then 8
  else if !b.fMillstones then 9 else if !b.fTc3Loads then 10 else if !b.fReserve then 11 else if !b.fLeavo then 12
  else if !b.fFlows then 13 else if !b.fInstances then 14 else if b.iwCheck b.fInbound ≠ 0 then 15 else if !b.fMailbox then 16
  else 0

end Sys2Proof.Machine
end

