-- ==== Sys2Proof/Machine/Sail.lean ====
section
/-! DEFINITION. Sails: cache errors and failing ways (R82, R99-R102), masks and locks (R83-R88), the range maintenance engine (R89-R98), core
faults (R103), the sail states and readmission (R104-R106), rails and OP 0 (R78, R79). -/

namespace Sys2Proof.Machine

/-! ## Failing ways -/

/-- Disable a way of a slice (R99, R101, R102): it is excluded, and its lines leave with their announcements, dirty data with them; a fifth way of the
slice loses the sail. A fill still pending in the way is not kept (R100). -/
def Block.disableWay (n slice way : Nat) (b : Block) : Block :=
  if !b.active? n || !b.wayEnabled n slice way then b
  else if 4 ≤ b.get L3_WAYDIS_COUNT n slice then b.sailLost n 0x3205 5
  else
    let ls := (b.l3Lines n).filter (fun e => lineSlice e.1 = slice && e.2.way = way)
    let locked := bit (b.get L3_WAYLOCK_LOCK n) way
    b.put L3_WAYDIS_DIS (Nat.lor (b.get L3_WAYDIS_DIS n slice) (2 ^ way)) n slice
      |>.put L3_WAYDIS_COUNT (b.get L3_WAYDIS_COUNT n slice + 1) n slice
      |>.modSail n (fun s => { s with disMap := sinsert (slice * 16 + way) s.disMap, wayErr := SMap.set 0 (slice * 16 + way) 0 s.wayErr })
      |>.put SAIL_ERRSTAT_WAYDIS 1 n
      |>.note { code := if locked then 0x2204 else 0x1203 }
      |>.forL ls (fun e b => b.leave n e.1)

/-- Add to the error count of a way; at THRESH it is disabled. -/
def Block.addWayErr (n slice way k : Nat) (b : Block) : Block :=
  if !b.wayEnabled n slice way then b
  else
    let b := b.modSail n (fun s => { s with wayErr := SMap.upd 0 (slice * 16 + way) (· + k) s.wayErr })
    if b.get L3_ERRCFG_THRESH n ≤ SMap.get 0 (slice * 16 + way) (b.sail n).wayErr then b.disableWay n slice way else b

/-- A core stops by an error in its own state (R103): 0x3206. -/
def Block.coreFail (h : Nat) (lost : List Nat) (b : Block) : Block :=
  if bit (b.get SAIL_COREDIS_DIS (h / 32)) (h % 32) then b else b.coreStop h 0x3206 lost

/-- CACHE_ERROR_CORRECTED (R80, R82, R99, R121): counted; a parity error of L1I is one, its line is fetched again; one of the L3 counts for its way. -/
def execCacheErrorCorrected (sail core : Nat) (place : CachePlace) (slice way addr : Nat) (s : State) : Host.Outcome State Fault Refusal :=
  onBlk s fun b =>
    if !b.active? sail then b
    else
      let b := b.put SAIL_ERRSTAT_CE 1 sail |>.pmu sail 0x0A none 1 |>.noteOnce sail { code := 0x1201 }
      match place with
      | .l3 => b.addWayErr sail (slice % 8) (way % 16) 1
      | .l1i => if core < 16 then b.modHart (sail * 32 + core) fun t => t.dropFrom .l1i (addr / 64) else b
      | _ => b

/-- CACHE_UNCORRECTABLE_ERROR (R82, R99, R103, R121): a data error poisons the line that the cache holds, one in a TLB or a paging-structure cache costs its
entry, a tag error of the L3 disables the way. DEDUCED: a tag error of a core's cache is one in the core's own state (R103 names that of L1I). -/
def execCacheUncorrectableError (sail core : Nat) (place : CachePlace) (tag : Bool) (slice way addr : Nat) (s : State) : Host.Outcome State Fault Refusal :=
  onBlk s fun b =>
    let h := sail * 32 + core
    let line := addr / 64
    if !b.active? sail || (16 ≤ core && place ≠ .l3) then b
    else match place with
      | .l3 => if tag then b.disableWay sail (slice % 8) (way % 16) else b.poisonLine sail line |>.addWayErr sail (slice % 8) (way % 16) 4
      | .tlb => b.tlbLose h addr
      | .l1i => if tag then b.coreFail h [] else b.modHart h fun t => t.dropFrom .l1i line
      | .l1d => if tag then b.coreFail h [] else if (b.hart h).holds .l1d line then b.poisonLine sail line else b
      | .l2 => if tag then b.coreFail h [] else if (b.hart h).holds .l2 line then b.poisonLine sail line else b

/-- WAY_ERROR_DECAY (R99): DECAY boundaries have passed, and every count loses 1. -/
def execWayErrorDecay (sail : Nat) (s : State) : Host.Outcome State Fault Refusal :=
  onBlk s fun b =>
    if b.active? sail && b.get L3_ERRCFG_DECAY sail ≤ (b.sail sail).decay then
      b.modSail sail (fun t => { t with decay := 0, wayErr := SMap.mapV 0 (fun _ k => k - 1) t.wayErr })
    else b

/-! ## Masks and locks (R86, R87) -/

/-- Some core has no way that it may allocate in. -/
def Block.maskStarved (b : Block) (n : Nat) : Bool :=
  (List.range 16).any fun c =>
    let m := b.get L3_WAYMASK_MASK n c
    m = 0 || Nat.land m (b.get L3_WAYLOCK_LOCK n) = m

/-- The register with one element written. -/
def Block.maskPut (n : Nat) (which : MaskReg) (i v : Nat) (b : Block) : Block :=
  match which with
  | .wayMask => if i < 16 then b.put L3_WAYMASK_MASK v n i else b
  | .wayLock => b.put L3_WAYLOCK_LOCK v n
  | .lockOwn => if i < 16 then b.put L3_LOCKOWN_OWNER v n i else b

/-- An access to control space of a sail that is not ACTIVE, which the hub refuses (R18). -/
def Block.sailRefused (mid pa : Nat) (b : Block) : Block := (b.note { code := 0x2503, mid := some mid, addr := some pa }).emit .accessError

/-- The register of R86 that a row names. -/
def maskReg : MaskReg → Reg
  | .wayMask => .L3_WAYMASK | .wayLock => .L3_WAYLOCK | .lockOwn => .L3_LOCKOWN

/-- L3_MASK_LOCK_WRITE (R86, R87). -/
def Block.maskWrite (mid n : Nat) (which : MaskReg) (i v : Nat) (b : Block) : Block :=
  if mid ≠ midGov then b.emit .accessError
  else
    let c := b.maskPut n which i v
    if c.maskStarved n then b.put L3_CFGSTAT_REFUSED 1 n else c

def execL3MaskLockWrite (mid sail : Nat) (which : MaskReg) (index value : Nat) (s : State) : Host.Outcome State Fault Refusal :=
  onBlk s fun b => if b.sailServes mid sail then b.maskWrite mid sail which index value else b.sailRefused mid ((maskReg which).addr sail index 0)

/-- Masks, locks, owners and error configuration of the active image (R86, R106 step 6, R108). -/
def Block.sailMasks (n : Nat) (b : Block) : Block :=
  let o (k : Nat) : Nat := b.actN (0x3800 + n) k
  b.forN 16 (fun c b => b.put L3_WAYMASK_MASK (o (1 + c)) n c |>.put L3_LOCKOWN_OWNER (o (0x12 + c)) n c)
    |>.put L3_WAYLOCK_LOCK (o 0x11) n |>.put L3_ERRCFG_THRESH (o 0x22) n |>.put L3_ERRCFG_DECAY (o 0x23) n

/-! ## Range maintenance engine (R89-R98) -/

/-- The engine's MSI (R91). -/
def Block.mntMsi (n : Nat) (b : Block) : Block :=
  if b.isSet L3_MNT_CTL_MSIEN n then b.sendMsi (midL3 n) (b.get L3_MNT_MSI_ADDR n) (b.get L3_MNT_MSID_EIID n) else b

/-- An operation is refused or ends with an error (R96). -/
def Block.mntErr (n code : Nat) (b : Block) : Block :=
  b.put L3_MNT_STATUS_ERR 1 n |>.put L3_MNT_STATUS_ERRCODE code n |>.put L3_MNT_STATUS_BUSY 0 n
    |>.note { code := 0x220B, mid := some (midL3 n) }

/-- The registers that an accepted START sets first (R90). -/
def Block.mntSet (n mid ctl : Nat) (b : Block) : Block :=
  b.put L3_MNT_CTL_OP (bits ctl 0 1) n |>.put L3_MNT_CTL_MSIEN (bits ctl 5 5) n |>.put L3_MNT_CTL_OWNERCORE (bits ctl 8 11) n
    |>.put L3_MNT_STATUS_OWNER mid n |>.put L3_MNT_STATUS_DONE 0 n |>.put L3_MNT_STATUS_ERR 0 n |>.put L3_MNT_STATUS_ERRCODE 0 n

/-- The ERRCODE with which an operation is refused (R96). DESIGN CHOICE: where several conditions hold, the first of the table's rows gives the code. -/
def Block.mntRefusal (b : Block) (n : Nat) : Option Nat :=
  let op := b.get L3_MNT_CTL_OP n
  let core := b.get L3_MNT_CTL_OWNERCORE n
  let base := b.get L3_MNT_BASE_ADDR n
  let limit := b.get L3_MNT_LIMIT_ADDR n
  if limit < base then some 1
  else if !b.rangeOk (base * 64) ((limit + 1 - base) * 64) then some 2
  else if op = 3 then some 3
  else if op = 2 && !(List.range 16).any (fun w => bit (b.get L3_WAYLOCK_LOCK n) w && bit (b.get L3_LOCKOWN_OWNER n w) core) then some 4
  else none

/-- The engine takes the range (R91, R92): the lines present, those whose fill is pending as soon as it has completed; LOCKLOAD goes from line to line. -/
def Block.mntGo (n : Nat) (b : Block) : Block :=
  let op := b.get L3_MNT_CTL_OP n
  let base := b.get L3_MNT_BASE_ADDR n
  let limit := b.get L3_MNT_LIMIT_ADDR n
  let inRange (l : Nat) : Bool := base ≤ l && l ≤ limit
  let wait := if op = 2 then [] else (b.coh.reqs.filter (fun r => r.mid = midL3 n && inRange r.line && (b.fillPending n r.line).isSome)).map (·.line)
  let here := if op = 2 then [] else ((b.l3Lines n).map (·.1)).filter inRange
  b.put L3_MNT_STATUS_BUSY 1 n |>.setR .L3_MNT_COUNT 0 n |>.setR .L3_MNT_LOCKMISS 0 n
    |>.modSail n (fun s => { s with mntWait := wait.eraseDups, mntLines := [], mntAt := base, mntFail := false })
    |>.forL here (fun l b => b.mntLine n l) |>.mntOn n

/-- A write with START to L3_MNT_CTL (R90, R96): refused with its ERRCODE, or the engine takes the range. -/
def Block.mntStart (n mid ctl : Nat) (b : Block) : Block :=
  if !b.sailServes mid n then b.sailRefused mid (Reg.L3_MNT_CTL.addr n 0 0)
  else if !b.active? n then b.emit .accessError
  else if b.isSet L3_MNT_STATUS_BUSY n then b.put L3_MNT_STATUS_BUSYWR 1 n
  else
    let b := b.mntSet n mid ctl
    match b.mntRefusal n with
    | some code => b.mntErr n code
    | none => b.mntGo n

/-- The governor starts a CLEANINV of a region that changes owner (R258), on an engine that is not busy; a sail that is not ACTIVE holds no line. DEDUCED: a
retired granule of the region does not have it refused. -/
def Block.cleanStart (e : Nat × Nat) (b : Block) : Block :=
  let n := e.2
  let left (b : Block) : Block := { b with ms := { b.ms with cleans := listErase e b.ms.cleans } }
  if !b.active? n then left b
  else if b.isSet L3_MNT_STATUS_BUSY n then b
  else
    let b := left b
    let base := b.desc e.1 1
    { b with ms := { b.ms with cleaning := b.ms.cleaning ++ [e] } }
      |>.put L3_MNT_BASE_ADDR (base / 64) n |>.put L3_MNT_LIMIT_ADDR ((base + b.desc e.1 2) / 64 - 1) n |>.mntSet n midGov 1 |>.mntGo n

/-- The CLEANINVs that wait for an engine start where it is free. -/
def Block.cleanOn (b : Block) : Block := b.forL b.ms.cleans Block.cleanStart

/-- The engine of sail `n` has ended, or the sail is lost: a CLEANINV of the governor on it is over, and the next one starts. -/
def Block.cleanOver (n : Nat) (b : Block) : Block :=
  { b with ms := { b.ms with cleaning := b.ms.cleaning.filter (fun e => e.2 ≠ n) } } |>.cleanOn

/-- A region's CLEANINV is still to come or under way on some sail. -/
def Block.cleanOpen (b : Block) (region : Nat) : Bool := (b.ms.cleans ++ b.ms.cleaning).any fun e => e.1 = region && b.active? e.2

/-- MNT_CLEAN (R89-R92): START with OP 0. -/
def execMntClean (sail mid ctl : Nat) (s : State) : Host.Outcome State Fault Refusal :=
  onBlk s fun b => b.mntStart sail mid (setBits ctl 0 1 0)

/-- MNT_CLEANINV (R89, R94): START with OP 1. -/
def execMntCleaninv (sail mid ctl : Nat) (s : State) : Host.Outcome State Fault Refusal :=
  onBlk s fun b => b.mntStart sail mid (setBits ctl 0 1 1)

/-- MNT_LOCKLOAD (R95): START with OP 2. -/
def execMntLockload (sail mid ctl : Nat) (s : State) : Host.Outcome State Fault Refusal :=
  onBlk s fun b => b.mntStart sail mid (setBits ctl 0 1 2)

/-- MNT_RESERVED_OP (R96): START with OP 3 is refused. -/
def execMntReservedOp (sail mid ctl : Nat) (s : State) : Host.Outcome State Fault Refusal :=
  onBlk s fun b => b.mntStart sail mid (setBits ctl 0 1 3)

/-- MNT_COMPLETE (R91, R92, R96): with no visit and no transfer left the engine ends; a fill or transfer that timed out ends it with ERRCODE 5. Before that it
goes on as far as it can. A clean for OP 0 that waited for it follows (R79), and a CLEANINV of the governor (R258). -/
def execMntComplete (sail : Nat) (s : State) : Host.Outcome State Fault Refusal :=
  onBlk s fun b =>
    let n := sail
    if !b.active? n || !b.isSet L3_MNT_STATUS_BUSY n then b
    else
      let b := b.l3On n
      if !b.mntDone n then b
      else
        let failed := (b.sail n).mntFail
        let b := b.modSail n (fun t => { t with mntFail := false }) |>.put L3_MNT_STATUS_BUSY 0 n |>.put L3_MNT_STATUS_DONE 1 n
        (if failed then b.mntErr n 5 else b).mntMsi n |>.leaveOn n |>.cleanOver n

/-! ## Core faults -/

/-- CORE_STOP (R103): 0x3206, the core is disabled, its replica is lost. `lost`: the lines that its caches cannot correct. -/
def execCoreStop (sail core : Nat) (lost : List Nat) (s : State) : Host.Outcome State Fault Refusal :=
  onBlk s fun b => if !b.active? sail || 16 ≤ core then b else b.coreFail (sail * 32 + core) lost

/-! ## Sail states (R104-R106) -/

/-- The state of a sail position. -/
def Block.sailSt (b : Block) (n : Nat) : Nat := b.get GOV_SAILSTAT_STATE n

/-- SAIL_CAPWORD_READ (R104, flume training step 3): REV and CAPLVL are recorded; below HUBMIN the sail is held out. -/
def execSailCapwordRead (sail rev level maxGt : Nat) (s : State) : Host.Outcome State Fault Refusal :=
  onBlk s fun b =>
    let n := sail
    if 12 ≤ n || (b.sailSt n ≠ 1 && b.sailSt n ≠ 5) then b
    else
      let b := b.put GOV_SAILSTAT_REV rev n |>.put GOV_SAILSTAT_CAPLVL level n
        |>.put FLM_CAPWORD_REV rev n |>.put FLM_CAPWORD_CAPLVL level n |>.put FLM_CAPWORD_MAXGT maxGt n
      if b.sailSt n = 1 && level % 256 < b.get GOV_CAP_HUBMIN then
        b.put GOV_SAILSTAT_STATE 0 n |>.put GOV_SAILSTAT_HELDOUT 1 n |>.vrOff n |>.resetSail n |>.note { code := 0x0509 }
      else b

/-- FLUME_TRAINING_COMPLETE (R104, R242-R245, training step 6): the sail enters SELFTEST when a link is up and CAPLVL is high enough; one link
alone is logged as 0x3504. In a readmission the sail gets EFFECTIVE. -/
def execFlumeTrainingComplete (sail : Nat) (up0 up1 : Bool) (delay : Nat) (s : State) : Host.Outcome State Fault Refusal :=
  onBlk s fun b =>
    let n := sail
    if 12 ≤ n || (b.sailSt n ≠ 1 && b.sailSt n ≠ 5) || !(up0 || up1) || b.get GOV_SAILSTAT_CAPLVL n < b.get GOV_CAP_HUBMIN then b
    else
      let b := b.setR .FLM_STATUS 0 n |>.put FLM_STATUS_UP0 (ofBool up0) n |>.put FLM_STATUS_UP1 (ofBool up1) n |>.put FLM_STATUS_BDELAY (min delay 60) n
        |>.setR .FLM_LINK 0 n 0 |>.setR .FLM_LINK 0 n 1
      let b := { b with mesh := { b.mesh with links := b.mesh.links.filter (fun e => e.1 / 4 ≠ n) } }
      let b := if b.sailSt n = 1 then b.put GOV_SAILSTAT_STATE 2 n else b.put FLM_STATUS_LEVEL (b.get GOV_CAP_EFFECTIVE) n
      if up0 && up1 then b else b.raise { code := 0x3504 }

/-- SAIL_TRAINING_TIMEOUT (R104): 2 ms without training: LOST, 0x3207, held in reset. -/
def execSailTrainingTimeout (sail : Nat) (s : State) : Host.Outcome State Fault Refusal :=
  onBlk s fun b =>
    if 12 ≤ sail || b.sailSt sail ≠ 1 then b
    else b.toLost sail |>.resetSail sail |>.raise { code := 0x3207 }

/-- The self-test disables the ways that fail it; more than four in a slice fail the sail (R102). Answers whether the ways pass. -/
def Block.testWays (n : Nat) (bad : List (Nat × Nat)) (b : Block) : Bool × Block :=
  let m := bad.foldl (fun m e => sinsert (e.1 % 8 * 16 + e.2 % 16) m) (b.sail n).disMap
  let b := b.modSail n (fun s => { s with disMap := m })
  let ok := (List.range 8).all (fun k => (m.filter (fun x => x / 16 = k)).length ≤ 4)
  (ok, b.forN 8 fun k b =>
    let w := maskOf 16 (fun i => m.contains (k * 16 + i))
    b.put L3_WAYDIS_DIS w n k |>.put L3_WAYDIS_COUNT (min 7 (popcount 16 w)) n k)

/-- SAIL_SELFTEST_COMPLETE (R102, R104): ACTIVE, or LOST with 0x3207. In a readmission the failing ways are disabled and the result is kept for its end, the row
READMIT_STEPS_COMPLETE. -/
def execSailSelftestComplete (sail : Nat) (pass : Bool) (badWays : List (Nat × Nat)) (s : State) : Host.Outcome State Fault Refusal :=
  onBlk s fun b =>
    let n := sail
    if 12 ≤ n then b
    else if b.sailSt n = 2 then
      let (ok, b) := b.testWays n badWays
      if pass && ok then b.put GOV_SAILSTAT_STATE 3 n
      else b.toLost n |>.resetSail n |>.raise { code := 0x3207 }
    else if b.sailSt n = 5 then
      let (ok, b) := b.testWays n badWays
      b.modSail n fun t => { t with testFail := !(pass && ok) }
    else b

/-- The conditions of R105. -/
def Block.readmitOk (b : Block) (n : Nat) : Bool :=
  n < 12 && b.sailSt n = 4 && !b.isSet GOV_SAILSTAT_FUSED n && !b.isSet GOV_SAILSTAT_POISONING n
    && (b.dev = .configWait || b.dev = .ready || b.dev = .run || b.dev = .degraded || b.dev = .service)

/-- Steps 1 and 2 of R106: READMIT, sail reset, the rail on at OP 3. -/
def Block.startReadmit (n : Nat) (b : Block) : Block :=
  b.put GOV_SAILSTAT_STATE 5 n |>.resetSail n |>.vrOn n 3

/-- READMIT_REQUEST (R105): accepted, or refused with abort code 0x0800_0022. -/
def execReadmitRequest (sail : Nat) (s : State) : Host.Outcome State Fault Refusal :=
  onBlk s fun b => if b.readmitOk sail then b.startReadmit sail |>.answer 0 else b.answer 0x08000022

/-- AUTO_READMIT (R105): the governor's policy. -/
def execAutoReadmit (sail : Nat) (s : State) : Host.Outcome State Fault Refusal :=
  onBlk s fun b =>
    if b.readmitOk sail && bit (b.actN 0x1131 1) sail && b.get GOV_SAILSTAT_LOSTCNT sail < b.actN 0x1131 2 then b.startReadmit sail else b

/-- READMIT_STEPS_COMPLETE (R104, R106, R505): with its capability high enough the sail takes its masks and operating point and waits for the
boundary; otherwise LOST with 0x2208. -/
def execReadmitStepsComplete (sail : Nat) (ok : Bool) (s : State) : Host.Outcome State Fault Refusal :=
  onBlk s fun b =>
    let n := sail
    if 12 ≤ n || b.sailSt n ≠ 5 then b
    else
      if ok && !(b.sail n).testFail && b.get GOV_CAP_EFFECTIVE ≤ b.get GOV_SAILSTAT_CAPLVL n then
        let b := b.sailMasks n |>.modSail n (fun t => { t with readmitDone := true })
        let op := if b.dev = .safeHold || b.dev = .service || b.dev = .configWait then 1 else b.plannedOp n
        b.applyOp n op
      else b.toLost n |>.resetSail n |>.note { code := 0x2208 }

/-- The boundary that makes a readmitted sail ACTIVE (R106 step 7). -/
def Block.readmitBoundary (b : Block) : Block :=
  b.forN 12 fun n b =>
    if b.sailSt n = 5 && (b.sail n).readmitDone then
      b.put GOV_SAILSTAT_STATE 3 n |>.modSail n (fun s => { s with readmitDone := false }) |>.note { code := 0x0209 }
    else b

/-! ## Rails (R78, R79) -/

/-- RAIL_SETTLED (R78, R79): the sail takes the clocks of its new point; a sail that left OP 0 goes on. -/
def execRailSettled (sail : Nat) (s : State) : Host.Outcome State Fault Refusal :=
  onBlk s fun b =>
    if !(b.active? sail || (b.sail sail).readmitDone) || !b.isSet SAIL_OP_RAMP sail then b
    else
      let op := b.get SAIL_OP_TARGET sail
      let b := b.put SAIL_OP_RAMP 0 sail
      if op = 0 then b
      else
        let b := b.put SAIL_OP_CUR op sail
        if (b.sail sail).op0 = 2 then b.wakeSail sail else b

/-- The L3 of a sail holds nothing, and nothing is on its way to it (R79). -/
def Block.l3Empty (b : Block) (n : Nat) : Bool :=
  (b.l3Lines n).isEmpty && !b.coh.wb.any (fun w => w.sail = n) && !b.coh.reqs.any (fun r => r.mid = midL3 n)

/-- OP0_CLEAN_COMPLETE (R79): the L3 is empty, the clocks stop, the rail falls to retention. The clean waits for a running maintenance
operation, for fills that are pending and for the acknowledgement of its last eviction. -/
def execOp0CleanComplete (sail : Nat) (s : State) : Host.Outcome State Fault Refusal :=
  onBlk s fun b =>
    if !b.active? sail || (b.sail sail).op0 ≠ 1 then b
    else
      let b := b.l3On sail
      if b.isSet L3_MNT_STATUS_BUSY sail || !b.l3Empty sail then b
      else b.modSail sail (fun t => { t with op0 := 2 })
        |>.put SAIL_OP_RAMP (ofBool (b.sailVid sail 0 < b.sailVid sail (b.get SAIL_OP_CUR sail))) sail |>.put SAIL_OP_CUR 0 sail |>.vrOn sail 0

end Sys2Proof.Machine
end

