-- ==== Sys2Proof/Machine/Ed448.lean ====
section
/-! DEFINITION. Ed448 signatures without a context string (RFC 8032), as the security chapter names them. -/

namespace Sys2Proof.Machine

/-- The field prime 2^448 - 2^224 - 1, and the order of the base point. -/
def edP : Nat := 2 ^ 448 - 2 ^ 224 - 1
def edL : Nat := 2 ^ 446 - 0x8335dc163bb124b65129c96fde933d8d723a70aadc873d6d54a7bb0d

/-- Subtraction and powers in the field. -/
def edSub (a b : Nat) : Nat := (a + edP - b % edP) % edP
def edPow (a e : Nat) : Nat :=
  (List.range 448).foldl (fun r i => let q := r * r % edP; if bit e (447 - i) then q * a % edP else q) 1

/-- d = -39081. -/
def edD : Nat := edP - 39081

/-- A point in projective coordinates. -/
abbrev EdPt := Nat × Nat × Nat

/-- The complete addition law. -/
def edAdd (s t : EdPt) : EdPt :=
  let a := s.2.2 * t.2.2 % edP
  let b := a * a % edP
  let c := s.1 * t.1 % edP
  let d := s.2.1 * t.2.1 % edP
  let e := edD * c % edP * d % edP
  let f := edSub b e
  let g := (b + e) % edP
  let h := (s.1 + s.2.1) * (t.1 + t.2.1) % edP
  (a * f % edP * edSub (edSub h c) d % edP, a * g % edP * edSub d c % edP, f * g % edP)

/-- A multiple of a point. -/
def edMul (k : Nat) (s : EdPt) : EdPt :=
  (List.range 456).foldl (fun r i => let q := edAdd r r; if bit k (455 - i) then edAdd q s else q) (0, 1, 1)

/-- The base point. -/
def edB : EdPt :=
  (0x4f1970c66bed0ded221d15a622bf36da9e146570470f1767ea6de324a3d3a46412ae1af72ab66511433b80e18b00938e2626a82bc70cc05e,
   0x693f46716eb6bc248876203756c9c7624bea73736ca3984087789c1e05a0c2d73ad3ff1ce67c39c4fdbd132c4ed7c8ad9808795bf230fa14, 1)

/-- The 57-byte encoding of a point. -/
def edEnc (s : EdPt) : Bytes :=
  let z := edPow s.2.2 (edP - 2)
  let x := s.1 * z % edP
  let y := s.2.1 * z % edP
  leBytes 56 y ++ [BitVec.ofNat 8 (x % 2 * 128)]

/-- Decoding (RFC 8032, 5.2.3). -/
def edDec (m : Bytes) : Option EdPt :=
  if m.length ≠ 57 then none else
  let y := leNat (m.take 56)
  let last := leAt 56 1 m
  if edP ≤ y || last % 128 ≠ 0 then none else
  let u := edSub (y * y % edP) 1
  let v := edSub (edD * (y * y % edP) % edP) 1
  let u3 := u * u % edP * u % edP
  let v3 := v * v % edP * v % edP
  let x := u3 * v % edP * edPow (u3 * u % edP * u % edP * v3 % edP) ((edP - 3) / 4) % edP
  if v * x % edP * x % edP ≠ u then none
  else if x = 0 && last ≥ 128 then none
  else some (if x % 2 = last / 128 then x else edP - x, y, 1)

/-- Equality of points. -/
def edEq (s t : EdPt) : Bool := s.1 * t.2.2 % edP = t.1 * s.2.2 % edP && s.2.1 * t.2.2 % edP = t.2.1 * s.2.2 % edP

/-- The prefix of every hash: "SigEd448", flag 0, no context. -/
def edDom : Bytes := [0x53, 0x69, 0x67, 0x45, 0x64, 0x34, 0x34, 0x38, 0, 0]

/-- The hash of a signature, as a number. -/
def edHash (m : Bytes) : Nat := leNat (shake256 114 (edDom ++ m))

/-- The secret scalar of a 57-byte seed, and the half of its hash that signs. -/
def edSecret (seed : Bytes) : Nat × Bytes :=
  let h := shake256 114 seed
  (leNat (h.take 56) / 4 * 4 % 2 ^ 447 + 2 ^ 447, h.drop 57)

/-- The public key of a seed. -/
def edPublic (seed : Bytes) : Bytes := edEnc (edMul (edSecret seed).1 edB)

/-- Sign a message. -/
def edSign (seed m : Bytes) : Bytes :=
  let s := edSecret seed
  let a := edPublic seed
  let r := edHash (s.2 ++ m) % edL
  let e := edEnc (edMul r edB)
  e ++ leBytes 57 ((r + edHash (e ++ a ++ m) % edL * s.1) % edL)

/-- Verify a 114-byte signature by a 57-byte key. -/
def edVerify (key m sig : Bytes) : Bool :=
  if sig.length ≠ 114 then false else
  let s := leNat (sig.drop 57)
  match edDec key, edDec (sig.take 57) with
  | some a, some r =>
    s < edL && edEq (edMul (4 * s) edB) (edMul 4 (edAdd r (edMul (edHash (sig.take 57 ++ key ++ m) % edL) a)))
  | _, _ => false

end Sys2Proof.Machine
end

