-- ==== Sys2Proof/Machine/TrustOps.lean ====
section
/-! DEFINITION. Key slots (R463), firmware bundles and bank records (R466, R467, R470), measurement registers (R474), signatures of images (R453). -/

namespace Sys2Proof.Machine

def Block.modTrust (f : Trust → Trust) (b : Block) : Block := { b with trust := f b.trust }

/-! ## Key slots -/

/-- The digest of a public key, as a slot holds it. -/
def keyDig (key : Bytes) : Nat := leNat (shake256 32 key)

def Block.slot (b : Block) (n : Nat) : KeySlot := SMap.get {} n b.otp.slots
def Block.modSlot (n : Nat) (f : KeySlot → KeySlot) (b : Block) : Block := { b with otp := { b.otp with slots := SMap.upd {} n f b.otp.slots } }

/-- A slot whose key may be used. -/
def Block.slotLive (b : Block) (n : Nat) : Bool := (b.slot n).programmed && !(b.slot n).revoked

/-- The supplied key of a slot that may be used. -/
def Block.slotKey (b : Block) (n : Nat) : Option Bytes :=
  let k := SMap.get [] n b.trust.keys
  if b.slotLive n && !k.isEmpty && keyDig k = (b.slot n).digest then some k else none

/-- The device is unowned while slot 7 is blank (R464). -/
def Block.unowned (b : Block) : Bool := !(b.slot 7).programmed

/-- The serial number of the device, 4 bytes. -/
def Block.serialBytes (b : Block) : Bytes := leBytes 4 b.otp.serial

/-- The slots whose keys sign images of a KEYSEL (R449, R463). -/
def keySelSlots (sel : Nat) : List Nat := if sel = 1 then [4] else [5, 6]

/-- Does the key of slot `n` verify the signature of an image? -/
def Block.imgSignedBy (b : Block) (m : Bytes) (n : Nat) : Bool :=
  leAt 6 2 m % 2 = 1 && (keySelSlots (leAt 30 1 m)).contains n
    && match b.slotKey n with
      | some k => edVerify k (m.take (m.length - 116)) (slice (m.length - 116) 114 m)
      | none => false

/-- The signature of an image verifies. -/
def Block.imgSigOk (b : Block) (m : Bytes) : Bool := (keySelSlots (leAt 30 1 m)).any (b.imgSignedBy m)

/-! ## Bundles (R466) -/

/-- The component table of a manifest: kind, offset, length, digest. -/
def bundleComps (m : Bytes) : List (Nat × Nat × Nat × Bytes) :=
  (List.range 3).map fun j => let e := slice (80 + 80 * j) 80 m; (leAt 0 1 e, leAt 4 4 e, leAt 8 4 e, slice 16 64 e)

/-- The bundle that bytes hold. -/
def readBundle (m : Bytes) : Bundle :=
  let cs := bundleComps m
  let len := leAt 8 4 m
  { keyDigest := keyDig (slice 16 57 m), svn := leAt 6 2 m, length := len, manifest := shake256 64 (slice 0 320 m)
    comps := cs.map fun c => (c.1, c.2.2.2)
    sound := m.take 4 = [0x4E, 0x46, 0x57, 0x42] && leAt 4 2 m = 1 && leAt 6 2 m ≤ 64 && len = m.length && 436 ≤ len && leAt 12 2 m = 0x4E12
      && leAt 14 2 m = 3 && leAt 73 7 m = 0 && cs.map (·.1) = [1, 2, 3]
      && cs.all (fun c => c.2.1 + c.2.2.1 ≤ len && shake256 64 (slice c.2.1 c.2.2.1 m) = c.2.2.2)
      && edVerify (slice 16 57 m) (slice 0 320 m) (slice 320 114 m) }

/-- A bundle is valid. -/
def Block.bundleOk (b : Block) (u : Bundle) : Bool :=
  u.sound && b.otp.fwCount ≤ u.svn && (List.range 4).any fun n => b.slotLive n && (b.slot n).digest = u.keyDigest

/-- The digest of a component of a bundle. -/
def Bundle.comp (u : Bundle) (kind : Nat) : Bytes := (List.lookup kind u.comps).getD (List.replicate 64 0)

/-! ## Bank records (R467) -/

def Block.bank (b : Block) (k : Nat) : Bank := SMap.get {} k b.trust.banks
def Block.modBank (k : Nat) (f : Bank → Bank) (b : Block) : Block := b.modTrust fun t => { t with banks := SMap.upd {} k f t.banks }

/-- Copy 1 governs a bank. -/
def Bank.second (a : Bank) : Bool := match a.copy0, a.copy1 with
  | some x, some y => x.wseq < y.wseq
  | none, some _ => true
  | _, none => false

/-- The record in force; a bank without a valid copy counts as EMPTY. -/
def Bank.rec' (a : Bank) : BankRec := ((if a.second then a.copy1 else a.copy0).getD {})

def bkEmpty : Nat := 0
def bkPending : Nat := 1
def bkTrial : Nat := 2
def bkGood : Nat := 3
def bkBad : Nat := 4

/-- Write a bank's record: the other copy takes it, with WSEQ one more. -/
def Block.putRecord (k : Nat) (f : BankRec → BankRec) (b : Block) : Block :=
  b.modBank k fun a =>
    let r := { f a.rec' with wseq := a.rec'.wseq + 1 }
    if a.second || (a.copy0.isNone && a.copy1.isNone) then { a with copy0 := some r } else { a with copy1 := some r }

/-- The running bank's record and bundle. -/
def Block.runRec (b : Block) : BankRec := (b.bank b.trust.running).rec'
def Block.runBundle (b : Block) : Bundle := (b.bank b.trust.running).bundle

/-- The running TRIAL bank is confirmed (R470): GOOD, TRIES 0, the timer stops. -/
def Block.confirmRun (b : Block) : Block :=
  if b.runRec.state = bkTrial && !b.trust.rom then
    b.putRecord b.trust.running (fun r => { r with state := bkGood, tries := 0 }) |>.modTrust (fun t => { t with timer := false })
      |>.note { code := 0x0C03 }
  else b

/-- Entry to READY (R28, R470). -/
def Block.enterReady (b : Block) : Block :=
  let b := b.setDev .ready
  let first := !b.trust.readyOnce
  let b := b.modTrust fun t => { t with readyOnce := true }
  if first && b.actN 0x8030 4 = 1 then b.confirmRun else b

/-! ## Measurements (R474) -/

def Block.meas (b : Block) (m : Nat) : Bytes := (List.range 8).flatMap fun w => leBytes 8 (b.getR .GOV_MEAS m w)

/-- Extend a measurement register. -/
def Block.extend (m : Nat) (v : Bytes) (b : Block) : Block :=
  let n := shake256 64 (b.meas m ++ v)
  b.forN 8 fun w b => b.setR .GOV_MEAS (leAt (8 * w) 8 n) m w

end Sys2Proof.Machine
end

