-- ==== Sys2Proof/Machine/Switch.lean ====
section
/-! DEFINITION. The switch of an image (R51, R52, R227, R258, R277, R339, R397, R425, R433, R454, R460, R481): registers written from the active image,
layout initialisation, load of partitions. -/

namespace Sys2Proof.Machine

/-! ## Registers from the active image -/

/-- MODE, RESTART and XPKG of every partition (R304). -/
def Block.partRegs (b : Block) : Block :=
  b.forN 64 fun p b =>
    b.put BLT_PSTAT_MODE (b.actN (0x3000 + p) 1) p |>.put BLT_PSTAT_RESTART (ofBool (b.pFlag p flagRestart)) p
      |>.put BLT_PSTAT_XPKG (ofBool (b.pFlag p flagXpkg)) p

/-- Port k's configuration (R307, R325, R341, R350): a change of EN, MODE or PEER takes the port down. -/
def Block.portRegs (k : Nat) (b : Block) : Block :=
  let o (s : Nat) : Nat := b.actN (0x4000 + k) s
  let was := (b.get LVP_CFG_MODE k, b.get LVP_CFG_PEER k)
  let b := b.put LVP_CFG_MODE (o 1) k |>.put LVP_CFG_EN (o 2) k |>.put LVP_CFG_PEER (o 3) k |>.put LVP_CFG_PLANLANES (o 4) k
    |>.put LVP_CFG_ENCREQ (o 5) k |>.put LVP_CFG_VL2W (o 6) k |>.put LVP_CFG_VL3W (o 7) k |>.put LVP_CFG_RSVCRED (o 8) k
    |>.forN 64 (fun s b => b.loadR .LVP_SLOT (b.actN (0x4010 + k) (s + 1)) k s)
  if !b.isSet LVP_CFG_EN k then b.toOff k
  else if was ≠ (b.get LVP_CFG_MODE k, b.get LVP_CFG_PEER k) && b.portSt k ≠ pOff then b.toTrain k else b

/-- The registers written at the instant of a switch. -/
def Block.regsNow (b : Block) : Block :=
  let b := b.memTables.partRegs
  let b := b.forN 8 (fun c b =>
    b.loadR .MC_ELOGBASE (b.actN 0x5001 (c + 1)) c |>.put MC_ELOGCFG_SIZE (b.actN 0x5000 4) c
      |>.put DRS_CTL_EN (b.actN 0x5200 1) c |>.put DRS_CTL_RATE (b.actN 0x5200 2) c
      |>.loadR .HOM_LOSSBASE (b.actN 0x5300 (c + 1)) c |>.put HOM_LOSSCFG_SIZE (b.actN 0x5300 9) c
      |>.forN 64 (fun p b => b.put MC_RSV_RATE (b.actN (0x5100 + p) (c + 1)) c p))
  let b := b.forN 12 (fun n b =>
    b.loadR .PWR_PLAN (b.actN 0x2600 (n + 1)) n |>.forN 64 (fun p b => b.put FLM_TC3RATE_RATE (b.actN (0x2500 + p) (n + 1)) n p))
  let b := b.put BLT_CFG_COPYRATE (b.actN 0x3501 1) |>.forN 6 Block.portRegs
    |>.forN 4096 (fun e b => b.loadR .LVP_EPT (b.fEpt e) e)
  let m := b.actN 0x4800 8
  let b := b.put SLC_CFG_MGREN (ofBool (m < 64)) |>.put SLC_CFG_MGRPART (if m < 64 then m else 0) |>.loadR .SLC_FTBASE (b.actN 0x4800 1)
    |>.put HOP_ERRCFG_THRESH (b.actN 0x4B00 2) |>.put HOP_ERRCFG_DECAY (b.actN 0x4B00 3) |>.loadPinned
    |>.forN 256 (fun i b => b.put SLC_ISTAT_SHARE (b.actN (0x4A00 + i) 2) i |>.put SLC_ISTAT_SHAREPEND 0 i |>.modInst i fun t => { t with newShare := none })
  b.forN 4 fun s b => b.loadR .PCI_OBOFF (b.actN 0x4100 (s + 1)) s |>.put PCI_CTO_T (b.actN 0x4100 5) s
    |>.put PCI_SCTL_ECAMEN (ofBool (bit (b.actN 0x4100 6) s)) s

/-- The registers written at a boundary (R51, R68, R86, R369). -/
def Block.regsBoundary (b : Block) : Block :=
  b.trnLoad.evtLoad |>.forN 12 (fun n b => b.when (b.active? n) (fun b => b.sailMasks n))
    |>.setR .HOP_LOCK (b.actN 0x4B00 1) |>.forN 256 (fun i b => b.setR .HOP_EMASK (b.actN (0x4A00 + i) 4) i)

/-! ## Effects of a changed image -/

/-- An object of one of the ranges differs between two images. -/
def Block.objsDiffer (b : Block) (old : Image) (lo hi : Nat) : Bool :=
  let f (i : Image) : List (Nat × Bytes) := i.recs.filter fun r => lo ≤ r.1 / 256 && r.1 / 256 ≤ hi
  b.canonRecs (f old) ≠ b.canonRecs (f b.active)

/-- A port's slots or the endpoint entries differ (R339). -/
def Block.slotsDiffer (b : Block) (old : Image) : Bool := b.objsDiffer old 0x4010 0x4015 || b.objsDiffer old 0x4400 0x441F

/-- The TC3 loads differ (R227). -/
def Block.tc3Differ (b : Block) (old : Image) : Bool :=
  b.objsDiffer old 0x2500 0x253F || b.objsDiffer old 0x2100 0x2100 || b.objsDiffer old 0x3000 0x303F || b.objsDiffer old 0x3500 0x3500

/-- The regions that keep their contents through a layout change (R258): the same K, Q and descriptor, PRIV and OWNER aside. -/
def Block.keeps (old b : Block) (i : Nat) : Bool :=
  let strip (w : Nat) : Nat := setBits (setBits w 4 4 0) 6 9 0
  b.getR .MC_LAYOUT = old.getR .MC_LAYOUT && (List.range 64).any fun j =>
    descV (old.desc j 0) && strip (old.desc j 0) = strip (b.desc i 0) && (List.range 3).all fun w => old.desc j (w + 1) = b.desc i (w + 1)

/-- The layout side of a switch: initialisation of a new layout, or the hold of regions that change owner and their CLEANINV on every ACTIVE sail but the new
owner (R258). -/
def Block.layoutSwitch (old b : Block) : Block :=
  if Block.layoutDiffers old b then
    let l := (List.range 64).filter fun i => descV (b.desc i 0) && !Block.keeps old b i
    { b with ms := { b.ms with initPending := l } } |>.forN 8 (fun c b => b.put MC_STATUS_INIT 1 c)
  else
    let l := (List.range 64).filter fun i => descV (b.desc i 0) && b.desc i 0 ≠ old.desc i 0
    b.holdRegions l |>.cleanOn

/-- The start of a commit of the inbound window table (R396). -/
def Block.commitStart (mid : Nat) (b : Block) : Block :=
  b.put PCI_IWSTAT_BUSY 1 |>.put PCI_IWSTAT_OWNER mid |>.put PCI_IWSTAT_DONE 0 |>.put PCI_IWSTAT_ERR 0 |>.put PCI_IWSTAT_ERRCODE 0

/-- A change of 0x4110: the governor writes the staged window table and commits it (R397). -/
def Block.inboundSwitch (b : Block) : Block :=
  b.forN 64 (fun n b =>
      let v := b.act 0x4110 (n + 1)
      b.loadR .PCI_IWS0 (leAt 0 8 v) n |>.loadR .PCI_IWS1 (leAt 8 8 v) n)
    |>.commitStart midGov

/-- The first image lock of the binding table (R433). -/
def Block.lockBinds (b : Block) : Block :=
  match b.dict.locked with
  | some _ => b
  | none =>
    let t := (List.range 32).map fun l => b.actN 0x1410 (l + 1)
    { b with dict := { b.dict with locked := some t } } |>.forN 32 (fun l b => b.loadR .MBX_BIND (t.getD l 0) l)

/-- Effective calibration values follow the image (R460). -/
def Block.calSwitch (b : Block) : Block :=
  let n := (List.range 6).foldl (fun a n => a + ((List.range (calElems n)).filter fun j => b.calClamped n j).length) 0
  let b := { b with dict := { b.dict with clamped := n } }
  if n = 0 then b else b.note { code := 0x1B05 }

/-- The node ID of the device: the object, the straps, or 127 (R447). -/
def Block.nodeId (b : Block) : Nat :=
  let n := b.actN 0x1030 1
  if n ≠ 0 then n else if b.otp.nid ≠ 0 then b.otp.nid else 127

/-- The boot-up message on each enabled port (R447). -/
def Block.bootUp (b : Block) : Block :=
  b.forN 2 fun p b => b.when (bit (b.actN 0x1030 5) p) (fun b => b.emit (.can p (0x700 + b.nodeId) [0]))

/-! ## LTR (R402) -/

/-- Sub-port 0 as an endpoint. -/
def Block.isEp (b : Block) (k : Nat) : Bool := b.isSet PCI_CFG_EP && k = 0

/-- States of a sub-port. -/
def sDown : Nat := 0
def sTrain : Nat := 1
def sUp : Nat := 2
def sFrozen : Nat := 3
def Block.subSt (b : Block) (k : Nat) : Nat := b.get PCI_SSTAT_STATE k

/-- The endpoint's LTR message; the value 0 sends none (R402). -/
def Block.ltrSend (b : Block) : Block :=
  let v := b.actN 0x4100 7
  if b.isEp 0 && b.subSt 0 = sUp && v ≠ 0 then b.emit (.ltr v) else b

/-- Placement, windows and image ranges of partition `p` are the same in two images (R298). -/
def Block.partSame (old b : Block) (p : Nat) : Bool :=
  [1, 3, 4, 5].all (fun s => old.actN (0x3000 + p) s = b.actN (0x3000 + p) s)
    && [0x3200, 0x3300, 0x3400].all fun o => (List.range 32).all fun s => old.actN (o + p) (s + 1) = b.actN (o + p) (s + 1)

/-- A replica of a partition that goes on keeps its private regions on the spare sail that it runs on or is copied to (R296). -/
def Block.keepOwners (old b : Block) : Block :=
  b.forN 64 fun p b => b.when (b.partLive p && Block.partSame old b p) fun b =>
    b.forN 3 fun r b => match (b.repl p r).group, (b.part p).repair with
      | some g, _ => let n := b.actN 0x3500 (g + 1) % 16; b.setOwner (b.strayRegions p r n) n
      | none, some q => b.when (q.repl = r) fun b => let n := b.actN 0x3500 (q.group + 1) % 16; b.setOwner (b.strayRegions p r n) n
      | none, none => b

/-- An image comes into force: registers, layout, mailboxes, windows, calibration, SCHEDID, LTR, M3. -/
def Block.putActive (i : Image) (b : Block) : Block :=
  let old := b
  let b := { b with active := i } |>.regsNow
  let b := Block.keepOwners old b
  let b := Block.layoutSwitch old b |>.mbxModes old.turnMode |>.calSwitch
  let b := b.when (b.objsDiffer old.active 0x4110 0x4110) Block.inboundSwitch
  let b := b.when (b.slotsDiffer old.active) (fun b => b.modLvp fun l => { l with schedId := (l.schedId + 1) % 65536 })
  let b := b.when (b.objsDiffer old.active 0x1030 0x1030) (fun b => { b with dict := { b.dict with usdo := [], segs := b.dict.segs.filter fun e => e.1 ≠ 1 && e.1 ≠ 2 } }.bootUp)
  let b := b.when (b.tc3Differ old.active) Block.reroute
  let b := b.when (b.actN 0x4100 7 ≠ old.actN 0x4100 7) Block.ltrSend
  b.extend 3 (shake256 64 i.bytes)

/-! ## Loading partitions (R277, R304, R481) -/

/-- The digest of a replica's image ranges in ascending order. -/
def Block.imageDigest (p r : Nat) (b : Block) : Bytes × Block :=
  let l := (b.fImages p r).foldl (fun a x => insertIval x a) []
  let (m, b) := l.foldl (fun (a : Bytes × Block) x => let (v, c) := a.2.readBytes midGov p x.1 x.2; (a.1 ++ v.1, c)) ([], b)
  (shake256 64 m, b)

/-- The digests of a partition's replicas here: do they equal the one the image names, and the measured digest. -/
def Block.measurePart (p : Nat) (b : Block) : (Bool × Bytes) × Block :=
  let (ds, b) := (b.localRepls p).foldl (fun (a : List Bytes × Block) r => let (d, c) := a.2.imageDigest p r; (a.1 ++ [d], c)) ([], b)
  let want := b.act 0x8080 (p + 1)
  ((want.all (· = 0) || ds.all (· = want), ds.headD (List.replicate 64 0)), b)

/-- The digest check alone, without effect. -/
def Block.digestOk (b : Block) (p : Nat) : Bool := (b.measurePart p).1.1

/-- The LOADED transition of a partition that may be loaded: M4 is extended. -/
def Block.loadMeasured (p : Nat) (b : Block) : Block :=
  let ((_, d), b) := b.measurePart p
  b.loadPart p |>.extend 4 (shake256 64 (BitVec.ofNat 8 p :: d))

/-- Take partition `p` away (R304); a re-pairing of it is aborted (R298). -/
def Block.removePart (p : Nat) (b : Block) : Block :=
  let m := (b.get BLT_PSTAT_MODE p, b.get BLT_PSTAT_RESTART p, b.get BLT_PSTAT_XPKG p)
  b.when (b.part p).repair.isSome (Block.note { code := 0x270B }) |>.unloadPart p |>.setR .BLT_PSTAT 0 p |>.setR .BLT_PPLACE 0xFFF p
    |>.put BLT_PSTAT_MODE m.1 p |>.put BLT_PSTAT_RESTART m.2.1 p |>.put BLT_PSTAT_XPKG m.2.2 p

/-- Every binding is written from the image (R150), and a spare in use keeps the TC3 rate of the replica that it replaces. -/
def Block.rebind (old : Block) (p : Nat) (b : Block) : Block :=
  let differs := (List.range 20).any fun s => old.actN (0x3A00 + p) (s + 1) ≠ b.actN (0x3A00 + p) (s + 1)
  b.forN 3 fun r b => match (b.repl p r).sail, (b.repl p r).group with
    | some n, g =>
      let b := b.when differs (fun b => b.unbindRepl p r |>.bindRepl p r)
      if g.isSome then b.setR .FLM_TC3RATE (b.actN (0x2500 + p) (b.actN (0x3000 + p) (3 + r) % 16 + 1)) n p else b
    | none, _ => b

/-- The partitions that a switch loads: all of them from CONFIG_WAIT, else those that are new or changed. -/
def Block.toLoad (fresh : Bool) (old b : Block) : List Nat :=
  (List.range 64).filter fun p => b.fMode p ≠ 0 && (fresh || old.fMode p = 0 || !Block.partSame old b p)

/-- The first partition whose load is refused, and whether for its digest: placements of every partition of the image, digests of those that load. -/
def Block.refusal (l : List Nat) (b : Block) : Option (Nat × Bool) :=
  match b.fParts.find? fun p => !b.partPlaceOk p with
  | some p => some (p, false)
  | none => (l.find? fun p => !b.digestOk p).map fun p => (p, true)

/-- Load the partitions of a switch. -/
def Block.loadAll (fresh : Bool) (old b : Block) : Block :=
  let gone := (List.range 64).filter fun p => old.fMode p ≠ 0 && (fresh || b.fMode p = 0 || !Block.partSame old b p)
  let b := b.forL gone Block.removePart
  let b := b.forL (Block.toLoad fresh old b) Block.loadMeasured
  b.forL (b.fParts.filter fun p => !(Block.toLoad fresh old b).contains p) (Block.rebind old)

/-! ## The end of a commit -/

/-- A commit is refused (R453, R458). -/
def Block.refuseCommit (result detail : Nat) (b : Block) : Block :=
  let p := b.commit.path
  let b := b.endCommit 4 result detail |>.note { code := 0x2B02 }
  if p = 6 then b.note { code := 0x2B03, detail := result } else b

/-- The load of partition `p` is refused (R277, R481). -/
def Block.refuseLoad (x : Nat × Bool) (b : Block) : Block :=
  b.when x.2 (fun b => b.note { code := 0x2C0D }) |>.note { code := 0x2701 } |>.refuseCommit 10 x.1

/-- After a refusal in CONFIG_WAIT or READY only the memory objects of the image stay in force (R454). -/
def Block.defaultsFor (i : Image) (b : Block) : Block :=
  let recs := b.canonRecs (i.recs.filter fun r => 0x500000 ≤ r.1 && r.1 < 0x600000)
  let old := b
  let b := b.putActive (canonImage recs i.serial) |>.modTu (fun t => { t with loadNext := true })
  b.forL ((List.range 64).filter fun p => old.fMode p ≠ 0) Block.removePart

/-! ## Boot flash slots (R457) -/

/-- A slot record's bytes. -/
def slotRecord (seq len crc : Nat) : Bytes :=
  let h := [0x4E, 0x43, 0x53, 0x52] ++ leBytes 4 seq ++ leBytes 4 len ++ leBytes 4 crc
  h ++ leBytes 4 (crc32 h)

def recordOk (r : Bytes) : Bool := r.length = 20 && r.take 4 = [0x4E, 0x43, 0x53, 0x52] && leAt 16 4 r = crc32 (r.take 16)
def recordSeq (r : Bytes) : Nat := leAt 4 4 r

def Block.cfgSlot (b : Block) (k : Nat) : CfgSlot := SMap.get {} k b.dict.slots

/-- A slot whose record is valid and whose image's CRC matches. -/
def Block.slotGood (b : Block) (k : Nat) : Bool :=
  let s := b.cfgSlot k
  recordOk s.record && s.image.length = leAt 8 4 s.record && imgCrc s.image = leAt 12 4 s.record

/-- The current slot. -/
def Block.currentSlot (b : Block) : Option Nat :=
  if b.slotGood 0 && (!b.slotGood 1 || recordSeq (b.cfgSlot 1).record ≤ recordSeq (b.cfgSlot 0).record) then some 0
  else if b.slotGood 1 then some 1 else none

/-- Start a PERSIST of the active image (R457 steps 1 and 2). -/
def Block.startPersist (b : Block) : Block :=
  let k := match b.currentSlot with | some k => 1 - k | none => 0
  let m := b.active.bytes
  { b with dict := { b.dict with persist := some (k, m), slots := SMap.upd {} k (fun s => { s with image := m }) b.dict.slots }
           commit := { b.commit with persistAfter := false } }

/-- The image is switched in: SWITCHED, 0x0B04, and the persist of a request of value 4 (R452, R454). -/
def Block.switched (b : Block) : Block :=
  let b := { b with dict := { b.dict with switched := true } } |>.endCommit 3 0 0 |>.note { code := 0x0B04 }
  if b.commit.persistAfter && b.dict.persist.isNone then b.startPersist else b

/-! ## The switch (R454) -/

/-- The block as the staged image would make it, for the checks of a load. -/
def Block.staging (b : Block) : Block := { b with active := b.dict.staged } |>.memTables |>.partRegs

/-- In CONFIG_WAIT the load of the image in force ends: the partitions are loaded and the device enters READY. -/
def Block.finishLoad (b : Block) : Block :=
  let b := b.forL ((List.range 64).filter fun p => b.fMode p ≠ 0) Block.loadMeasured
  b.enterReady

/-- The switch in CONFIG_WAIT, or at the end of SERVICE: at once; a new layout is initialised before the load. -/
def Block.switchWait (b : Block) : Block :=
  let t := b.staging
  let init := Block.layoutDiffers b t
  match t.refusal (if init then [] else t.fParts) with
  | some x => b.defaultsFor b.dict.staged |>.refuseLoad x
  | none =>
    let old := b
    let b := b.putActive b.dict.staged |>.lockBinds |>.modTu (fun u => { u with loadNext := true })
    let b := b.forL ((List.range 64).filter fun p => old.fMode p ≠ 0) Block.removePart |>.switched
    if init || b.dev ≠ .configWait then b else b.finishLoad

/-- The switch at a boundary in READY, RUN or DEGRADED. -/
def Block.switchBoundary (b : Block) : Block :=
  let t := b.staging
  match t.refusal (Block.toLoad false b t) with
  | some x =>
    if b.dev = .ready then b.defaultsFor b.dict.staged |>.refuseLoad x |>.setDev .configWait
    else b.refuseLoad x
  | none =>
    let old := b
    let b := b.putActive b.dict.staged |>.lockBinds |>.regsBoundary |>.modTu (fun u => { u with imgNow := true })
    Block.loadAll false old b |>.switched

/-- The conditions of R227, R339 and R397 hold at this boundary; the third boundary after PENDING takes the switch in any case. -/
def Block.switchDue (b : Block) : Bool :=
  let t := { b with active := b.dict.staged }
  b.dev = .ready || b.commit.pendTurn + 3 ≤ b.turn
    || ((!t.tc3Differ b.active || !b.isSet MRC_EPOCH_DRAINING)
      && (!t.objsDiffer b.active 0x4110 0x4110 || !b.isSet PCI_IWSTAT_BUSY)
      && (!t.slotsDiffer b.active || (List.range 6).all fun k => b.portSt k ≠ pUp ||
          match (b.port k).announced with | some (id, u) => id = (b.lvp.schedId + 1) % 65536 && u + 2 ≤ b.turn | none => false))

end Sys2Proof.Machine
end

