-- ==== Sys2Proof/Machine/Memory.lean ====
section
/-! DEFINITION. Memory controllers: training and self-test (R20, R250, R269), the boot layout and initialisation (R254, R258), reads and writes at
a controller (R259-R264), the dresser and scrubbing (R267, R268). -/

namespace Sys2Proof.Machine

/-! ## Layout -/

/-- The local addresses that a region covers at a controller: first and end. -/
def Block.localRange (b : Block) (i mc : Nat) : Option (Nat × Nat) :=
  let w := b.desc i 0
  if !descV w then none
  else if descPin w then
    let ps := pinList (descMask w)
    if ps.contains mc then
      let lo := b.capBytes - b.carveK - b.poolQ + 4096 * bits (b.desc i 3) 32 63
      some (lo, lo + b.desc i 2 / ps.length)
    else none
  else some (b.desc i 1 / 8, (b.desc i 1 + b.desc i 2) / 8)

/-- The physical address that reaches local address `loc` of controller `mc` through region `i` (R21, R256). -/
def Block.localPa (b : Block) (i mc loc : Nat) : Nat :=
  let w := b.desc i 0
  if descPin w then
    let ps := pinList (descMask w)
    let lo := b.capBytes - b.carveK - b.poolQ + 4096 * bits (b.desc i 3) 32 63
    let idx := (ps.takeWhile (· ≠ mc)).length
    b.desc i 1 + ((loc - lo) / 4096 * ps.length + idx) * 4096 + loc % 4096
  else loc / 4096 * 32768 + mc * 4096 + loc % 4096

/-- Does a copy at controller `mc`, local `loc`, belong to region `i`? Mirror copies lie at the partner controller. -/
def Block.inRegion (b : Block) (i mc loc : Nat) : Bool :=
  let here (c : Nat) : Bool := match b.localRange i c with | some (lo, hi) => lo ≤ loc && loc < hi | none => false
  here mc || (descCode (b.desc i 0) = codeM && here (xorN mc 4))

/-- Initialise regions: zero lines, clean check bytes (R258). -/
def Block.initRegions (l : List Nat) (b : Block) : Block :=
  let hit (mc loc : Nat) : Bool := l.any (fun i => b.inRegion i mc loc)
  { b with
    mem := b.mem.filter (fun c => !hit (c.1 / 0x800000000) (c.1 % 0x800000000))
    ms := { b.ms with
      poison := b.ms.poison.filter (fun c => !hit (c.1 / 0x20000000) (c.1 % 0x20000000 * 64))
      errs := b.ms.errs.filter (fun c => !hit (c.1 / 0x20000000) (c.1 % 0x20000000 * 64))
      merge := b.ms.merge.filter (fun e => !hit e.mc (e.line * 64)) } }

/-- The boot layout (R254), to be initialised. -/
def Block.bootLayout (b : Block) : Block :=
  let k := b.capBytes / 0x1000000
  b.forN 8 (fun c b => b.put MC_LAYOUT_K k c |>.put MC_LAYOUT_Q 0 c |>.put MC_STATUS_INIT 1 c
      |>.forN 64 (fun i b => b.forN 4 (fun w b => b.setR .MC_RD 0 c i w))
      |>.setR .MC_RD 5 c 0 0 |>.setR .MC_RD 0 c 0 1 |>.setR .MC_RD (7 * b.capBytes) c 0 2)
    |> fun b => { b with ms := { b.ms with initPending := [0] } }

/-- 0x5000:03 as start-up takes it: from the image in the current slot, else 1 (R250). -/
def Block.savedTraining (b : Block) : Bool :=
  match b.currentSlot with
  | some k => b.inImgN (readImage (b.cfgSlot k).image) 0x5000 3 ≠ 0
  | none => true

/-- Why a controller does not use its training record, in the order of the table of R250; none where it does. -/
def Block.recordUnfit (b : Block) (mc mr : Nat) (tj : Int) (crcOk verified : Bool) : Option Nat :=
  match SMap.get none mc b.dict.training with
  | none => some 0
  | some r =>
    if !crcOk then some 1
    else if r.mr ≠ mr then some 2
    else if 30 < tj - r.tj || 30 < r.tj - tj then some 3
    else if !verified then some 4 else none

/-- A controller trained fully: the bin that it reached, and its record in boot flash. -/
def Block.trainedFully (mc binIdx mr : Nat) (tj : Int) (b : Block) : Block :=
  { b with dict := { b.dict with training := SMap.set none mc (some { mr := mr, tj := tj, bin := binIdx }) b.dict.training } }
    |>.put MC_STATUS_RESTORED 0 mc |>.put MC_CFG_BIN binIdx mc

/-- A controller is trained, from its record or fully; a record that was asked for and not used is logged as 0x0603 (R250). -/
def Block.train (mc binIdx mr : Nat) (tj : Int) (crcOk verified ok : Bool) (b : Block) : Option Block :=
  let full (b : Block) : Option Block := if ok then some (b.trainedFully mc binIdx mr tj) else none
  if !b.savedTraining then full b
  else match b.recordUnfit mc mr tj crcOk verified, SMap.get none mc b.dict.training with
    | none, some r => some (b.put MC_STATUS_RESTORED 1 mc |>.put MC_CFG_BIN r.bin mc)
    | why, _ => full (b.note { code := 0x0603, detail := why.getD 0 })

/-- MEMORY_TRAINING_COMPLETE (R20, R250): a controller that fails full training at every bin raises 0x4602; CAP shows when all eight controllers agree on a supported
capacity, else 0x4601. -/
def execMemoryTrainingComplete (mc capGiB binIdx mr : Nat) (tj : Int) (crcOk verified ok : Bool) (s : State) :
    Host.Outcome State Fault Refusal :=
  onBlk s fun b =>
    if 8 ≤ mc || b.dev ≠ .selftest || b.isSet MC_STATUS_TRAINED mc then b
    else match b.train mc binIdx mr tj crcOk verified ok with
    | none => (if b.savedTraining then b.note { code := 0x0603, detail := (b.recordUnfit mc mr tj crcOk verified).getD 0 } else b).raise { code := 0x4602 }
    | some b =>
      let b := b.put MC_STATUS_TRAINED 1 mc
      let b := { b with ms := { b.ms with caps := SMap.set 0 mc capGiB b.ms.caps } }
      if (List.range 8).all (fun c => b.isSet MC_STATUS_TRAINED c) then
        let c0 := SMap.get 0 0 b.ms.caps
        if (List.range 8).all (fun c => SMap.get 0 c b.ms.caps = c0) && (c0 = 8 || c0 = 16 || c0 = 32) then
          b.forN 8 (fun c b => b.put MC_CFG_CAP (if c0 = 8 then 1 else if c0 = 16 then 2 else 3) c)
        else b.raise { code := 0x4601 }
      else b

/-- ECC_SELFTEST_COMPLETE (R269): STPASS, or 0x4604; after the last controller the boot layout is applied. -/
def execEccSelftestComplete (mc : Nat) (pass : Bool) (s : State) : Host.Outcome State Fault Refusal :=
  onBlk s fun b =>
    if 8 ≤ mc || b.dev ≠ .selftest || b.get MC_CFG_CAP mc = 0 then b
    else if !pass then b.put MC_STATUS_STPASS 0 mc |>.raise { code := 0x4604 }
    else
      let b := b.put MC_STATUS_STPASS 1 mc
      if (List.range 8).all (fun c => b.isSet MC_STATUS_STPASS c) then b.bootLayout else b

/-- MR4_READ (R251): HOT follows the refresh rate that MR4 asks for; 0x360D when it rises. -/
def execMr4Read (mc : Nat) (above2x : Bool) (s : State) : Host.Outcome State Fault Refusal :=
  onBlk s fun b =>
    if 8 ≤ mc then b
    else
      let was := b.isSet MC_STATUS_HOT mc
      let b := b.put MC_STATUS_HOT (ofBool above2x) mc
      if above2x && !was then b.raise { code := 0x360D } else b

/-- OWNER_CHANGE_COMPLETE (R258): every engine has reported DONE for the region, and the held requests go on. -/
def execOwnerChangeComplete (region : Nat) (s : State) : Host.Outcome State Fault Refusal :=
  onBlk s fun b =>
    if !b.ms.heldRegions.contains region || b.cleanOpen region then b
    else ({ b with ms := { b.ms with heldRegions := listErase region b.ms.heldRegions } }).settle

/-! ## Reads and writes at a controller -/

/-- Errors that came into the stored copies of a line since it was last seen. -/
def Block.addErrs (pa e m : Nat) (b : Block) : Block :=
  match b.place pa with
  | none => b
  | some p => b.setCopyErrs p.mc p.loc (b.copyErrs p.mc p.loc + e)
      |>.when (descCode (b.desc p.desc 0) = codeM) (fun c => c.setCopyErrs (xorN p.mc 4) p.loc (c.copyErrs (xorN p.mc 4) p.loc + m))

/-- MC_READ (R259-R261, R263). -/
def execMcRead (mid part pa newErr newMirrorErr : Nat) (tc3 : Bool) (s : State) : Host.Outcome State Fault Refusal :=
  onBlk s fun b =>
    if !b.dramOk pa then b
    else
      let b := b.addErrs pa newErr newMirrorErr |>.when tc3 (fun b => b.takeTokens part pa false)
      let (v, b) := b.mcRead mid part (pa / 64 * 64)
      b.emit (.data (leBytes 64 v.1) v.2)

/-- MC_WRITE (R259, R262-R264): a whole line is written; masked bytes merge into the line as the controller reads it, and poison stays. -/
def execMcWrite (mid part pa data mask : Nat) (poison tc3 : Bool) (s : State) : Host.Outcome State Fault Refusal :=
  onBlk s fun b =>
    if !b.dramOk pa then b
    else
      let a := pa / 64 * 64
      let b := b.when tc3 (fun b => b.takeTokens part pa true)
      if mask % 2 ^ 64 = 2 ^ 64 - 1 then b.mcWrite mid part a data poison tc3 else b.partWrite mid part a data mask poison tc3

/-- MERGE_FLUSH (R262): the oldest entry of the controller leaves its buffer. -/
def execMergeFlush (mc : Nat) (s : State) : Host.Outcome State Fault Refusal :=
  onBlk s fun b => b.mergeFlush mc

/-! ## Dresser and scrub (R267, R268) -/

/-- The regions of coded space at a controller: descriptor, first local address, end. -/
def Block.dressable (b : Block) (mc : Nat) : List (Nat × Nat × Nat) :=
  (List.range 64).filterMap fun i => match b.localRange i mc with
    | some (lo, hi) => if descCode (b.desc i 0) ≠ codeN && lo < hi then some (i, lo, hi) else none
    | none => none

/-- The next line at or after a local address that the dresser reads: region and address. Retired granules are skipped. -/
def Block.nextDress (mc : Nat) (b : Block) : Nat → Nat → Option (Nat × Nat)
  | 0, _ => none
  | f + 1, pos =>
    let cand := (b.dressable mc).filterMap (fun e => if pos < e.2.2 then some (e.1, max pos e.2.1) else none)
    match cand with
    | [] => none
    | c :: cs =>
      let m := cs.foldl (fun a x => if x.2 < a.2 then x else a) c
      if b.retired (b.localPa m.1 mc m.2) ⟨m.1, mc, m.2⟩ then Block.nextDress mc b f (m.2 / 4096 * 4096 + 4096) else some m

/-- The dresser repairs a bad Code M copy from the good one (R268). -/
def Block.repairCopy (bad good pa loc : Nat) (mirror : Bool) (b : Block) : Block :=
  let mc := if mirror then good else bad
  b.storeLine bad loc (leNat (b.lineBytes good loc)) |>.setCopyErrs bad loc 0 |>.setCopyPoison bad loc false |>.inc MC_MIRCNT_MIRFIX mc
    |>.note { code := 0x1607, addr := some pa } |>.elogEntry mc pa 4 mirror 0 (0x1D0 + mc) markPart loc

/-- What the dresser does with the line it has read. -/
def Block.dressLine (i mc loc : Nat) (b : Block) : Block :=
  let code := descCode (b.desc i 0)
  let pa := b.localPa i mc loc
  let dc (c : Nat) : Decoded := decodeCopy (if code = codeM then codeS else code) (b.copyErrs c loc) (b.copyPoison c loc)
  let good (d : Decoded) : Bool := match d with | .good => true | .corrected _ => true | _ => false
  let q := xorN mc 4
  let one (c : Nat) (b : Block) : Block := match dc c with
    | .corrected n => b.mcCorrected c pa loc n (0x1D0 + mc) markPart 6
    | .uncorrectable => b.mcUncorrectable c pa loc (0x1D0 + mc) markPart 7
    | _ => b
  let fixed (c : Nat) : Bool := match dc c with | .corrected _ => true | _ => false
  if code = codeM && !good (dc mc) && good (dc q) && !b.copyPoison mc loc then b.repairCopy mc q pa loc false
  else if code = codeM && good (dc mc) && !good (dc q) then b.repairCopy q mc pa loc true
  else one mc b |>.when (code = codeM) (one q) |>.when (fixed mc || (code = codeM && fixed q)) (Block.emit (.scrub mc (loc / 64)))

/-- DRESSER_READ (R267, R268): the next line of coded space is read and checked; past the last one the pass ends. -/
def execDresserRead (mc newErr newMirrorErr : Nat) (s : State) : Host.Outcome State Fault Refusal :=
  onBlk s fun b =>
    if 8 ≤ mc || !b.isSet DRS_CTL_EN mc || b.isSet MC_STATUS_INIT mc then b
    else
      let pos := b.get DRS_POS_LINE mc * 64
      let (n, b) := match b.nextDress mc 300 pos with
        | some m => (some m, b)
        | none =>
          if (b.dressable mc).isEmpty then (none, b)
          else
            let b := b.inc DRS_STATUS_PASSCNT mc |>.setR .DRS_LASTPASS (min (SMap.get 0 mc b.ms.passTurns) (2 ^ 32 - 1)) mc
              |>.note { code := 0x0609 }
            let b := { b with ms := { b.ms with passTurns := SMap.set 0 mc 0 b.ms.passTurns } }
            (b.nextDress mc 300 0, b)
      match n with
      | none => b.put DRS_STATUS_RUN 0 mc
      | some (i, loc) =>
        let b := b.put DRS_STATUS_RUN 1 mc |>.put DRS_POS_LINE (loc / 64 + 1) mc
        let b := { b with ms := { b.ms with dresserLines := SMap.upd 0 mc (· + 1) b.ms.dresserLines } }
        b.addErrs (b.localPa i mc loc) newErr newMirrorErr |>.dressLine i mc loc

/-- SCRUB_REQUEST (R176, R268): the home orders it as a transaction of its own; then the controller reads again, corrects and rewrites memory's copy. -/
def execScrubRequest (mc line : Nat) (s : State) : Host.Outcome State Fault Refusal :=
  onBlk s fun b =>
    match (b.dressable mc).find? (fun e => e.2.1 ≤ line * 64 && line * 64 < e.2.2) with
    | none => b
    | some e =>
      b.enter { mid := 0x1D0 + mc, part := markPart, txid := 0, kind := .rdOnce, line := b.localPa e.1 mc (line * 64) / 64, scrub := some mc }

/-- The dressers at a boundary (R267): the floor of the ending turn, the pass time; entries logged per turn start again (R270). -/
def Block.dresserBoundary (ns : Nat) (b : Block) : Block :=
  let b := b.forN 8 fun c b =>
    let floor := min 1024 (b.get DRS_CTL_RATE c) * ns / 1000
    let b := if b.isSet DRS_CTL_EN c && !(b.dressable c).isEmpty && !b.isSet MC_STATUS_INIT c
          && SMap.get 0 c b.ms.dresserLines * 64 < floor then
        b.put DRS_STATUS_BEHIND 1 c |>.note { code := 0x160A } else b
    { b with ms := { b.ms with passTurns := SMap.upd 0 c (· + 1) b.ms.passTurns } }
  { b with ms := { b.ms with dresserLines := [], elog := [] } }

end Sys2Proof.Machine
end

