-- ==== Sys2Proof/Machine/Commit.lean ====
section
/-! DEFINITION. The commit (R450-R458): requests, checks, the switch, persists, image memory errors; layout initialisation (R258), announcements
(R339), restarts of partitions (R304). -/

namespace Sys2Proof.Machine

/-! ## Requests (R450, R452, R453) -/

/-- The states in which COMMIT is accepted. -/
def Block.mayCommit (b : Block) : Bool := b.dev = .configWait || b.dev = .ready || b.dev = .run || b.dev = .degraded || b.dev = .service

/-- Another source holds the staged image. -/
def Block.claimedBy (b : Block) (v : DictPath) : Bool := match b.commit.claim with | some c => c ≠ (v.path, v.src) | none => false

/-- COMMIT, with a persist after the switch or without: the abort code, and the checks begin. -/
def Block.commitReq (v : DictPath) (persist : Bool) (b : Block) : Nat × Block :=
  if b.commit.state = 1 || b.commit.state = 2 || b.claimedBy v then (abClaim, b)
  else if !b.mayCommit then (abState, b)
  else (0, { b with commit := { b.commit with
      state := 1, path := v.path, result := 0, detail := 0, turn := 0, persistAfter := persist, who := (v.path, v.src) } })

/-- The staged image becomes an exact copy of the active image; nothing is left unfinished. -/
def Block.discardStaged (b : Block) : Block :=
  { b with dict := { b.dict with staged := b.active, incomplete := false } }

/-- DISCARD: refused while the checks run or another source holds the claim; it cancels a pending switch. -/
def Block.discardReq (v : DictPath) (b : Block) : Nat × Block :=
  if b.commit.state = 1 || b.claimedBy v then (abClaim, b)
  else
    let b := b.cancelPending.discardStaged
    (0, { b with commit := { b.commit with claim := none } })

/-- PERSIST. -/
def Block.persistReq (b : Block) : Nat × Block :=
  if !b.dict.switched then (abState, b)
  else if b.dict.persist.isSome then (abClaim, b)
  else (0, b.startPersist)

/-- A write of 1 to 4 to 0x1F00:01. -/
def Block.commitCmd (v : DictPath) (n : Nat) (b : Block) : Nat × Block :=
  match n with
  | 1 => b.commitReq v false
  | 2 => b.discardReq v
  | 3 => b.persistReq
  | 4 => b.commitReq v true
  | _ => (abRange, b)

/-! ## Checks (R453) -/

/-- The first key of the records that fails step 4, with its result: no configuration object, wrong type or length (1); out of range (6). -/
def Block.badRecord (b : Block) : List Rec → Option (Nat × Nat)
  | [] => none
  | r :: l => match objRow (r.1 / 256) (r.1 % 256) with
    | none => some (1, r.1)
    | some o =>
      if !o.acc.isConfig || r.2.1 ≠ o.ty.code || !o.lengthOk r.2.2.length then some (1, r.1)
      else if b.checkVal o r.2.2 ≠ 0 then some (6, r.1)
      else b.badRecord l

/-- The first RWC object whose value the staged image changes. -/
def Block.rwcChanged (b : Block) : Option Nat :=
  let ks := (b.dict.staged.recs ++ b.active.recs).foldl (fun a r => sinsert r.1 a) []
  ks.find? fun k => (match objRow (k / 256) (k % 256) with | some o => o.acc = .rwc | none => false)
    && b.inImg b.dict.staged (k / 256) (k % 256) ≠ b.act (k / 256) (k % 256)

/-- The first locked object that the staged image changes. -/
def Block.lockedChanged (b : Block) : Option Nat :=
  match b.dict.locked with
  | none => none
  | some t => ((List.range 32).find? fun l => b.inImgN b.dict.staged 0x1410 (l + 1) ≠ t.getD l 0).map fun l => objKey 0x1410 (l + 1)

/-- The effective policy requires a signature on the commit's path. -/
def Block.sigRequired (b : Block) : Bool :=
  let p := max b.otp.sigPolicy (b.actN 0x1F02 1)
  p = 2 || (p = 1 && (b.commit.path = 3 || b.commit.path = 4 || b.commit.path = 5))

/-- The checks: RESULT and DETAIL, 0 where the image passes. -/
def Block.commitChecks (b : Block) : Nat × Nat :=
  let i := b.dict.staged
  let m := i.bytes
  match parseImage m with
  | .error k => (1, k)
  | .ok recs =>
    if b.dict.incomplete then (1, 0)
    else if imgCrc m ≠ imgCrcField m then (2, 0)
    else if b.sigRequired && !i.signed then (3, 0)
    else if i.signed && !b.imgSigOk m then (4, 0)
    else if b.sigRequired && i.serial < b.active.serial then (5, 0)
    else match b.badRecord recs with
      | some x => x
      | none => match (if b.dev = .configWait || b.dev = .service then none else b.rwcChanged) with
        | some k => (7, k)
        | none => match b.lockedChanged with
          | some k => (8, k)
          | none =>
            let f := b.feasibility i
            if f ≠ 0 then (9, f) else (0, 0)

/-- The announcement of the slots to come on every port that is UP (R339); of those in force where no switch that changes them is pending. -/
def Block.announceAll (b : Block) : Block :=
  let t := { b with active := b.dict.staged }
  let pend := b.commit.state = 2 && t.slotsDiffer b.active
  b.forN 6 fun k b =>
    if pend then b.announce k ((b.lvp.schedId + 1) % 65536) (slotWords t.actN k)
    else b.announce k b.lvp.schedId (slotWords b.actN k)

/-- COMMIT_CHECKS_COMPLETE (R453): PENDING with 0x0B01, or REFUSED with RESULT, DETAIL and 0x2B02. -/
def execCommitChecksComplete (s : State) : Host.Outcome State Fault Refusal :=
  onBlk s fun b =>
    if b.commit.state ≠ 1 then b
    else
      let x := b.commitChecks
      if x.1 ≠ 0 then b.refuseCommit x.1 x.2
      else
        let t := { b with active := b.dict.staged }
        let b := { b with commit := { b.commit with state := 2, pendTurn := b.turn } }.note { code := 0x0B01 }
        if t.slotsDiffer b.active then b.announceAll else b

/-- IMAGE_SWITCH (R454): in CONFIG_WAIT at once; in READY, RUN and DEGRADED at the instant of a boundary. SERVICE waits for RESUME. -/
def execImageSwitch (s : State) : Host.Outcome State Fault Refusal :=
  onBlk s fun b =>
    if b.commit.state ≠ 2 then b
    else match b.dev with
      | .configWait => b.switchWait
      | .ready => if b.tu.phaseA = 0 && b.running then b.switchBoundary else b
      | .run => if b.tu.phaseA = 0 && b.running && b.switchDue then b.switchBoundary else b
      | .degraded => if b.tu.phaseA = 0 && b.running && b.switchDue then b.switchBoundary else b
      | _ => b

/-- STAGER_TIMEOUT (R450): the claim is released, logged as 0x0B0B. -/
def execStagerTimeout (s : State) : Host.Outcome State Fault Refusal :=
  onBlk s fun b =>
    if b.commit.claim.isNone then b
    else { b with commit := { b.commit with claim := none } }.note { code := 0x0B0B }

/-! ## Persist (R457) -/

/-- PERSIST_COMPLETE: the image reads back, the slot's record is written, 0x0B0D; else 0x2B06, and the current slot stays. -/
def execPersistComplete (ok : Bool) (s : State) : Host.Outcome State Fault Refusal :=
  onBlk s fun b =>
    match b.dict.persist with
    | none => b
    | some (k, m) =>
      let seq := match b.currentSlot with
        | some c => recordSeq (b.cfgSlot c).record + 1
        | none => ((List.range 2).filter fun c => recordOk (b.cfgSlot c).record).foldl (fun a c => max a (recordSeq (b.cfgSlot c).record + 1)) 1
      let r := slotRecord seq m.length (imgCrc m)
      let b := if ok then
          { b with dict := { b.dict with persist := none, slots := SMap.set {} k { image := m, record := r } b.dict.slots } }.note { code := 0x0B0D }
        else
          { b with dict := { b.dict with persist := none, slots := SMap.upd {} k (fun c => { c with image := [] }) b.dict.slots } }.note { code := 0x2B06 }
      if b.commit.persistAfter && b.commit.state = 3 then b.startPersist else b

/-! ## Image memory (R448) -/

/-- The staged image is lost: as a DISCARD, with 0x2B0E. A commit whose checks run ends REFUSED with RESULT 12; a pending one is cancelled. -/
def Block.loseStaged (b : Block) : Block :=
  let b := if b.commit.state = 1 then b.refuseCommit 12 0 else b.cancelPending
  let b := { b.discardStaged with commit := { b.commit with claim := none } }
  b.note { code := 0x2B0E }

/-- IMAGE_MEMORY_ERROR (R448). -/
def execImageMemoryError (staged correctable : Bool) (s : State) : Host.Outcome State Fault Refusal :=
  onBlk s fun b =>
    if correctable then b.note { code := 0x1B09 }
    else if staged then b.loseStaged
    else b.raise { code := 0x4B0A }

/-! ## Layout initialisation (R258) -/

/-- The image in force is loaded after an initialisation, or its load is refused for a digest (R481). -/
def Block.loadAfterInit (b : Block) : Block :=
  match b.refusal b.fParts with
  | some x => b.defaultsFor b.active |>.refuseLoad x
  | none => b.finishLoad

/-- Into CONFIG_WAIT: FAULT_OUT is released (R529). -/
def Block.toConfigWait (b : Block) : Block := b.setDev .configWait |>.releaseFout

/-- The rest of a RESUME once memory is ready: CONFIG_WAIT, and the load of an image that switched in. -/
def Block.endResume (b : Block) : Block :=
  let sw := b.commit.state = 3 && b.gov.resuming
  let b := b.toFilter
  if !b.filterMode then b
  else
    let b := { b with gov := { b.gov with resuming := false } }.toConfigWait
    if sw then b.loadAfterInit else b

/-- LAYOUT_INIT_COMPLETE (R258): the regions are zero with valid check bytes; CONFIG_WAIT goes on to READY, a RESUME leaves SERVICE. -/
def execLayoutInitComplete (s : State) : Host.Outcome State Fault Refusal :=
  onBlk s fun b =>
    if (List.range 8).all (fun c => !b.isSet MC_STATUS_INIT c) then b
    else
      let b := b.initRegions b.ms.initPending |>.forN 8 (fun c b => b.put MC_STATUS_INIT 0 c)
      let b := { b with ms := { b.ms with initPending := [] } }
      if b.dev = .configWait && b.commit.state = 3 then b.loadAfterInit
      else if b.dev = .service && b.gov.resuming then b.endResume
      else { b with gov := { b.gov with resuming := false } }

/-- SCHEDULE_ANNOUNCEMENT (R339). -/
def execScheduleAnnouncement (s : State) : Host.Outcome State Fault Refusal := onBlk s fun b => b.announceAll

/-! ## Partition restart (R304) -/

/-- A HALTED partition is loaded again where its placement and digest are accepted; RESTARTED shows at its next entry. -/
def Block.partRestart (p : Nat) (b : Block) : Nat × Block :=
  if 64 ≤ p then (abRange, b)
  else if !b.partDefined p || b.get BLT_PSTAT_STATE p ≠ pHalted then (abState, b)
  else if !b.partPlaceOk p then (abState, b.note { code := 0x2701 })
  else if !b.digestOk p then (abState, b.note { code := 0x2C0D } |>.note { code := 0x2701 })
  else
    let b := b.forL (List.range 3) (fun r b => b.haltRepl p r |>.unbindRepl p r |>.unpinRepl p r) |>.loadMeasured p
    (0, b.forL (b.localRepls p) fun r b => b.modRepl p r fun t => { t with nextRestarted := true })

/-- PARTITION_RESTART_REQUEST (R304). -/
def execPartitionRestartRequest (part : Nat) (s : State) : Host.Outcome State Fault Refusal :=
  onBlk s fun b => let (a, b) := b.partRestart part; b.answer a

end Sys2Proof.Machine
end

