-- ==== Sys2Proof/Machine/Sluice.lean ====
section
/-! DEFINITION. The commands of virtual instances and of the manager (R364-R378), the hopper's maintenance and errors (R370, R371), and resets
(R374, R375). -/

namespace Sys2Proof.Machine

/-! ## Doorbells and completions -/

/-- May the agent ring the instance (R364)? -/
def Block.mayRing (b : Block) (mid : Nat) (part : Option Nat) (i : Nat) : Bool :=
  match b.ownKind i with
  | 1 => part = some (b.ownNum i)
  | 2 => mid = midPci 0 && b.isSet PCI_CFG_EP
  | 3 => 0x180 ≤ mid && mid < 0x188
  | _ => false

/-- A write to SLC_IDB (R364, R367): an agent that does not own the instance gets an access error, with 0x290D for a replicated partition. -/
def Block.ringBell (mid : Nat) (part : Option Nat) (i q tail : Nat) (b : Block) : Block :=
  let f (c : Nat) : FaultSpec := { code := c, mid := some mid }
  if b.mayRing mid part i then b.doorbell i q tail
  else
    let replicated : Bool := match part with | some p => decide (2 ≤ b.pMode p) | none => false
    b.emit .accessError |>.note (if replicated then f 0x290D else f 0x2908)

/-- INSTANCE_DOORBELL (R364, R367). -/
def execInstanceDoorbell (mid : Nat) (part : Option Nat) (inst queue tail : Nat) (s : State) : Host.Outcome State Fault Refusal :=
  onBlk s fun b => if 256 ≤ inst || 8 ≤ queue then b else b.ringBell mid part inst queue (tail % 65536)

/-- DESCRIPTOR_COMPLETE (R367, R372, R373): the entry whose turn it is completes; its instance may fetch again. -/
def execDescriptorComplete (s : State) : Host.Outcome State Fault Refusal :=
  onBlk s fun b =>
    match b.drrWork with
    | none => b
    | some (w, cur, d) =>
      let b := b.modSlc fun s => { s with drr := cur, deficit := SMap.set 0 cur d s.deficit }
      let b := b.complete w
      let b := if (b.works cur).isEmpty then b.modSlc fun s => { s with deficit := SMap.set 0 cur 0 s.deficit } else b
      b.fetchAll w.inst

/-! ## Resets (R374, R375) -/

/-- DRAIN_TIMEOUT (R375): 200 us after its start a drain squashes what is left. -/
def execDrainTimeout (inst : Nat) (s : State) : Host.Outcome State Fault Refusal :=
  onBlk s fun b =>
    if 256 ≤ inst || b.instSt inst ≠ iDraining || (b.works inst).isEmpty then b
    else b.put SLC_ISTAT_STATE iSquashing inst |>.squashInst inst |>.note { code := 0x290B, mid := some midSluice }

/-- INSTANCE_RESET_COMPLETE (R375): no write is outstanding; hopper entries are invalidated without write-back, the log stops, the instance is
DISABLED. -/
def execInstanceResetComplete (inst : Nat) (s : State) : Host.Outcome State Fault Refusal :=
  onBlk s fun b =>
    let st := b.instSt inst
    if 256 ≤ inst || (st ≠ iDraining && st ≠ iSquashing) || !(b.works inst).isEmpty then b
    else
      let b := b.forN 48 fun e b => match (b.hopEnt e).ctx with
        | some (i, _) => if i = inst then b.hopDrop e else b
        | none => b
      b.lateMsis true inst |>.put SLC_ISTAT_LOGON 0 inst |>.put SLC_ISTAT_LOGSWAP 0 inst |>.put SLC_ISTAT_OCC 0 inst |>.put SLC_ISTAT_STATE iDisabled inst
        |>.modInst inst (fun t => { t with stopped := [] }) |>.note { code := 0x090A, mid := some midSluice }

/-- FUNCTION_LEVEL_RESET (R374, R386): the function returns to its reset values, and the instance that it owns drains. -/
def Block.resetFn (f : Nat) (b : Block) : Block :=
  { b with pci := { b.pci with
      fns := SMap.set {} f {} b.pci.fns
      vecs := b.pci.vecs.filter (fun e => e.1 / 2048 ≠ f)
      pba := b.pci.pba.filter (fun v => v / 2048 ≠ f) } }
def execFunctionLevelReset (fn : Nat) (s : State) : Host.Outcome State Fault Refusal :=
  onBlk s fun b =>
    if 256 ≤ fn || !b.isSet PCI_CFG_EP then b
    else b.resetFn fn |>.when (b.ownKind fn = 2) (fun b => b.resetInst fn false)

/-! ## Manager commands (R378) -/

/-- The masters that may write SLC_MCMD and SLC_MDATA, the staged windows and release sub-ports (R378, R394, R409). -/
def Block.isManager (b : Block) (mid : Nat) (part : Option Nat) (pcie : Bool) : Bool :=
  mid = midGov || (0x180 ≤ mid && mid < 0x188) || (pcie && mid = midPci 0 && b.isSet PCI_CFG_EP)
    || (b.isSet SLC_CFG_MGREN && part = some (b.get SLC_CFG_MGRPART))

/-- MDATAk, and writing it. -/
def Block.mdata (b : Block) (k : Nat) : Nat := b.getR .SLC_MDATA k
def Block.mdataWords (b : Block) : List Nat := (List.range 8).map b.mdata
def Block.setMdata (ws : List Nat) (b : Block) : Block := b.forN 8 fun k b => b.setR .SLC_MDATA (ws.getD k 0) k

/-- Start a command: an agent that may not gets an access error and 0x2908; reserved bits fail it. Its result is DONE, or ERR and a code. -/
def Block.manage (mid : Nat) (part : Option Nat) (rsv : Nat) (f : Block → Nat × Block) (b : Block) : Block :=
  if !b.isManager mid part true then b.emit .accessError |>.note { code := 0x2908, mid := some mid }
  else
    let (e, b) := if rsv ≠ 0 then (1, b) else f b
    b.put SLC_MSTAT_OWNER mid |>.put SLC_MSTAT_DONE 1 |>.put SLC_MSTAT_ERR (if e = 0 then 0 else 1) |>.put SLC_MSTAT_ERRCODE e

/-- A flow as the table or the cache holds it; none where it cannot be read. -/
def Block.flowNow (i : Nat) (b : Block) : Option (List Nat) × Block :=
  match b.flowByIdx i with
  | some e => (some e.words, b)
  | none => match b.flowRead (b.flowCtx i) with
    | (.ok v, b) => (some (ctxOf v), b)
    | (.error a, b) => (none, b.note { code := 0x2902, mid := some midSluice, addr := some a })

/-- A flow that only an image switch changes (R357). -/
def Block.flowFixed (b : Block) (i : Nat) (ws : List Nat) : Bool :=
  ctxF ws 2 3 3 = 1 || fAction ws = 1 || fAction ws = 5 || (match b.flowByIdx i with | some e => e.pinned | none => false)

/-- FLOW_INSERT: the key must be new, its tag in neither bucket, and a slot of one of them free. -/
def Block.flowInsert (i : Nat) (b : Block) : Nat × Block :=
  let ws := b.mdataWords
  let key := ctxKey ws
  let h := flowHash key
  if b.flowFixed i ws then (3, b)
  else if !ctxValid ws || fKtype ws = 0 || 3 < fKtype ws then (8, b)
  else if (b.flowByKey key).isSome then (4, b)
  else match b.flowRead (b.flowBucket h.1) with
    | (.error a, b) => (2, b.note { code := 0x2902, mid := some midSluice, addr := some a })
    | (.ok u, b) => match b.flowRead (b.flowBucket h.2.1) with
      | (.error a, b) => (2, b.note { code := 0x2902, mid := some midSluice, addr := some a })
      | (.ok v, b) =>
        let us := ctxOf u
        let vs := ctxOf v
        let slot := i + 2 ^ 20 + h.2.2 * 2 ^ 32
        let at' := match us.findIdx? (fun w => !bit w 20), vs.findIdx? (fun w => !bit w 20) with
          | some k, _ => some (b.flowBucket h.1 + 8 * k)
          | none, some k => some (b.flowBucket h.2.1 + 8 * k)
          | none, none => none
        if (us ++ vs).any (fun w => bit w 20 && bits w 32 59 = h.2.2) then (4, b)
        else match at' with
          | none => (4, b)
          | some a =>
            (0, b.dropFlow i |>.writeBytes midSluice noPart (b.flowCtx i) (ctxBytes ws) |>.writeBytes midSluice noPart a (leBytes 8 slot))

/-- FLOW_DELETE: the key's slot is cleared and the flow is invalid. -/
def Block.flowDelete (i : Nat) (b : Block) : Nat × Block :=
  match b.flowNow i with
  | (none, b) => (5, b)
  | (some ws, b) =>
    if fKtype ws = 0 then (5, b)
    else if b.flowFixed i ws then (3, b)
    else
      let h := flowHash (ctxKey ws)
      let b := b.forL [h.1, h.2.1] fun x b =>
        match b.flowRead (b.flowBucket x) with
        | (.error _, b) => b
        | (.ok v, b) => match (ctxOf v).findIdx? (fun w => bit w 20 && w % 2 ^ 20 = i && bits w 32 59 = h.2.2) with
          | some k => b.writeBytes midSluice noPart (b.flowBucket x + 8 * k) (leBytes 8 0)
          | none => b
      (0, b.dropFlow i |>.writeBytes midSluice noPart (b.flowCtx i) (List.replicate 64 0))

/-- FLOW_MODIFY: words 2 to 4 are replaced, the state is kept. -/
def Block.flowModify (i : Nat) (b : Block) : Nat × Block :=
  match b.flowNow i with
  | (none, b) => (5, b)
  | (some ws, b) =>
    let new := ws.take 2 ++ [b.mdata 2, b.mdata 3, b.mdata 4] ++ ws.drop 5
    if fKtype ws = 0 then (5, b)
    else if b.flowFixed i ws || b.flowFixed i new then (3, b)
    else if !ctxValid new then (8, b)
    else match b.flowByIdx i with
      | some _ => (0, b.modFlow i fun e => { e with words := new })
      | none => (0, b.writeBytes midSluice noPart (b.flowCtx i) (ctxBytes new))

/-- FLOW_READ and FLOW_LOOKUP. -/
def Block.flowReadCmd (i : Nat) (b : Block) : Nat × Block :=
  match b.flowNow i with
  | (none, b) => (5, b)
  | (some ws, b) => if fKtype ws = 0 then (5, b) else (0, b.setMdata ws)
def Block.flowLookup (b : Block) : Nat × Block :=
  let key := leBytes 8 (b.mdata 0) ++ leBytes 8 (b.mdata 1)
  let found (i : Nat) (ws : List Nat) (b : Block) : Nat × Block := (0, b.setR .SLC_MRES (i + 2 ^ 31) |>.setMdata ws)
  match b.flowByKey key with
  | some e => found e.index e.words b
  | none => match b.walkFlow key with
    | (.ok (some (i, ws)), b) => found i ws b
    | (.ok none, b) => (5, b.setR .SLC_MRES 0)
    | (.error a, b) => (5, b.setR .SLC_MRES 0 |>.note { code := 0x2902, mid := some midSluice, addr := some a })

/-- INST_CONFIG. -/
def Block.instConfig (i : Nat) (b : Block) : Nat × Block :=
  let on : Bool := decide (b.mdata 0 % 2 = 1)
  if 256 ≤ i then (2, b)
  else if b.mdata 0 / 2 ≠ 0 then (1, b)
  else match b.instSt i, on with
    | 0, true => (0, b.put SLC_ISTAT_STATE iActive i)
    | 0, false => (0, b)
    | 1, false => (0, b.put SLC_ISTAT_STATE iDisabled i)
    | _, _ => (7, b)

/-- A queue context of defined values (R366). -/
def qctxValid (ws : List Nat) : Bool :=
  ctxF ws 0 54 63 = 0 && 4 ≤ qSize ws && qRing ws % 32 = 0 && ctxF ws 1 43 63 = 0 && ctxF ws 2 48 63 = 0 && ctxF ws 3 32 63 = 0

/-- QCTX_WRITE and QCTX_READ, through the hopper: a write replaces the context whole and lets a stopped queue run again. -/
def Block.qctxWrite (arg : Nat) (b : Block) : Nat × Block :=
  let i := arg % 256
  let q := arg / 256
  let ws := b.mdataWords.take 4 ++ [0, 0, 0, 0]
  if 8 ≤ q then (1, b)
  else if b.instSt i = iDraining || b.instSt i = iSquashing then (7, b)
  else if !qctxValid ws then (8, b)
  else
    let b := b.modInst i fun t => { t with stopped := t.stopped.filter (· ≠ q) }
    match b.hopFind i q, b.hopDirect, b.hopChoose i with
    | some _, _, _ => (0, b.putCtx i q ws)
    | none, false, some (e, spill) =>
      (0, b.hopWriteBack e |>.modHop e (fun t => { t with ctx := some (i, q), words := ws, dirty := true, used := b.slc.uses })
        |>.modSlc fun s => { s with uses := s.uses + 1, spills := if spill then s.spills + 1 else s.spills })
    | none, _, _ => (0, b.putCtx i q ws)
def Block.qctxRead (arg : Nat) (b : Block) : Nat × Block :=
  if 8 ≤ arg / 256 then (1, b)
  else match b.getCtx (arg % 256) (arg / 256) with
    | (some ws, b) => (0, b.setMdata (ws.take 4 ++ b.mdataWords.drop 4))
    | (none, b) => (5, b)

/-- The shares that will be in force, summed, with instance i's replaced. -/
def Block.shareSum (b : Block) (i n : Nat) : Nat :=
  (List.range 256).foldl (fun a j => a + (if j = i then n else (b.inst j).newShare.getD (b.get SLC_ISTAT_SHARE j))) 0

/-- INST_SHARE: effective at the next boundary. -/
def Block.instShare (i : Nat) (b : Block) : Nat × Block :=
  let n := bits (b.mdata 0) 0 10
  if 256 ≤ i then (2, b)
  else if b.mdata 0 / 2048 ≠ 0 then (1, b)
  else if 1024 < b.shareSum i n then (6, b)
  else (0, b.modInst i (fun t => { t with newShare := some n }) |>.put SLC_ISTAT_SHAREPEND 1 i)

/-- INST_RESET_DRAIN and INST_RESET_SQUASH. -/
def Block.instReset (i : Nat) (squash : Bool) (b : Block) : Nat × Block :=
  if 256 ≤ i then (2, b)
  else if b.instSt i = iActive || (squash && b.instSt i = iDraining) then (0, b.resetInst i squash) else (7, b)

/-- LOG_CONFIG: bitmaps, BASEADDR and pages; logging starts. -/
def Block.logConfig (i : Nat) (b : Block) : Nat × Block :=
  if 256 ≤ i then (2, b)
  else if b.instSt i = iDraining || b.instSt i = iSquashing then (7, b)
  else if b.mdata 3 % 512 ≠ 0 then (8, b)
  else (0, b.modInst i (fun t => { t with logMap := (b.mdata 0, b.mdata 1), logBase := b.mdata 2, logPages := b.mdata 3, logCur := 0 })
    |>.put SLC_ISTAT_LOGON 1 i)

/-- LOG_SWAP, LOG_STOP and INST_CLRERR. -/
def Block.logSwap (i : Nat) (b : Block) : Nat × Block :=
  if 256 ≤ i then (2, b) else if !b.isSet SLC_ISTAT_LOGON i then (7, b) else (0, b.put SLC_ISTAT_LOGSWAP 1 i)
def Block.logStop (i : Nat) (b : Block) : Nat × Block :=
  if 256 ≤ i then (2, b) else (0, b.put SLC_ISTAT_LOGON 0 i |>.put SLC_ISTAT_LOGSWAP 0 i)
def Block.clrErr (i : Nat) (b : Block) : Nat × Block :=
  if 256 ≤ i then (2, b)
  else (0, b.put SLC_ISTAT_QERR 0 i |>.put SLC_ISTAT_IOTERR 0 i |>.put SLC_ISTAT_LOGOVER 0 i |>.modInst i fun t => { t with stopped := [] })

/-- The command of a word written to SLC_MCMD. -/
def Block.managerWord (mid : Nat) (part : Option Nat) (v : Nat) (b : Block) : Block :=
  let arg := bits v 8 27
  b.manage mid part (bits v 28 31) fun b =>
    match v % 256 with
    | 0x01 => b.flowInsert arg
    | 0x02 => b.flowDelete arg
    | 0x03 => b.flowModify arg
    | 0x04 => b.flowReadCmd arg
    | 0x05 => if arg ≠ 0 then (1, b) else b.flowLookup
    | 0x10 => b.instConfig arg
    | 0x11 => b.qctxWrite arg
    | 0x12 => b.qctxRead arg
    | 0x13 => b.instShare arg
    | 0x14 => b.instReset arg false
    | 0x15 => b.instReset arg true
    | 0x16 => b.logConfig arg
    | 0x17 => b.logSwap arg
    | 0x18 => b.logStop arg
    | 0x19 => b.clrErr arg
    | _ => (1, b)

/-- The word of a command: OP and ARG. -/
def mcmd (op arg : Nat) : Nat := op + arg % 2 ^ 20 * 256

/-- FLOW_INSERT (R378). -/
def execFlowInsert (mid : Nat) (part : Option Nat) (arg : Nat) (s : State) : Host.Outcome State Fault Refusal :=
  onBlk s fun b => b.managerWord mid part (mcmd 0x01 arg)
/-- FLOW_DELETE (R378). -/
def execFlowDelete (mid : Nat) (part : Option Nat) (arg : Nat) (s : State) : Host.Outcome State Fault Refusal :=
  onBlk s fun b => b.managerWord mid part (mcmd 0x02 arg)
/-- FLOW_MODIFY (R378). -/
def execFlowModify (mid : Nat) (part : Option Nat) (arg : Nat) (s : State) : Host.Outcome State Fault Refusal :=
  onBlk s fun b => b.managerWord mid part (mcmd 0x03 arg)
/-- FLOW_READ (R357, R378). -/
def execFlowRead (mid : Nat) (part : Option Nat) (arg : Nat) (s : State) : Host.Outcome State Fault Refusal :=
  onBlk s fun b => b.managerWord mid part (mcmd 0x04 arg)
/-- FLOW_LOOKUP (R378). -/
def execFlowLookup (mid : Nat) (part : Option Nat) (arg : Nat) (s : State) : Host.Outcome State Fault Refusal :=
  onBlk s fun b => b.managerWord mid part (mcmd 0x05 arg)
/-- INST_CONFIG (R378). -/
def execInstConfig (mid : Nat) (part : Option Nat) (arg : Nat) (s : State) : Host.Outcome State Fault Refusal :=
  onBlk s fun b => b.managerWord mid part (mcmd 0x10 arg)
/-- QCTX_WRITE (R368, R378). -/
def execQctxWrite (mid : Nat) (part : Option Nat) (arg : Nat) (s : State) : Host.Outcome State Fault Refusal :=
  onBlk s fun b => b.managerWord mid part (mcmd 0x11 arg)
/-- QCTX_READ (R368, R378). -/
def execQctxRead (mid : Nat) (part : Option Nat) (arg : Nat) (s : State) : Host.Outcome State Fault Refusal :=
  onBlk s fun b => b.managerWord mid part (mcmd 0x12 arg)
/-- INST_SHARE (R373, R378). -/
def execInstShare (mid : Nat) (part : Option Nat) (arg : Nat) (s : State) : Host.Outcome State Fault Refusal :=
  onBlk s fun b => b.managerWord mid part (mcmd 0x13 arg)
/-- INST_RESET_DRAIN (R375, R378). -/
def execInstResetDrain (mid : Nat) (part : Option Nat) (arg : Nat) (s : State) : Host.Outcome State Fault Refusal :=
  onBlk s fun b => b.managerWord mid part (mcmd 0x14 arg)
/-- INST_RESET_SQUASH (R375, R378). -/
def execInstResetSquash (mid : Nat) (part : Option Nat) (arg : Nat) (s : State) : Host.Outcome State Fault Refusal :=
  onBlk s fun b => b.managerWord mid part (mcmd 0x15 arg)
/-- LOG_CONFIG (R376, R378). -/
def execLogConfig (mid : Nat) (part : Option Nat) (arg : Nat) (s : State) : Host.Outcome State Fault Refusal :=
  onBlk s fun b => b.managerWord mid part (mcmd 0x16 arg)
/-- LOG_SWAP (R377, R378). -/
def execLogSwap (mid : Nat) (part : Option Nat) (arg : Nat) (s : State) : Host.Outcome State Fault Refusal :=
  onBlk s fun b => b.managerWord mid part (mcmd 0x17 arg)
/-- LOG_STOP (R378). -/
def execLogStop (mid : Nat) (part : Option Nat) (arg : Nat) (s : State) : Host.Outcome State Fault Refusal :=
  onBlk s fun b => b.managerWord mid part (mcmd 0x18 arg)
/-- INST_CLRERR (R378). -/
def execInstClrerr (mid : Nat) (part : Option Nat) (arg : Nat) (s : State) : Host.Outcome State Fault Refusal :=
  onBlk s fun b => b.managerWord mid part (mcmd 0x19 arg)

/-! ## Hopper maintenance and errors (R370, R371) -/

/-- A write to HOP_MNT_CTL with START (R370, R90): ignored while BUSY; refused for FIRST above LAST or an undefined OP (DESIGN CHOICE: where both hold, the first
gives the code); else the engine visits the entries in order. -/
def Block.hopStart (mid v : Nat) (b : Block) : Block :=
  if b.isSet HOP_MNT_STATUS_BUSY then b.put HOP_MNT_STATUS_BUSYWR 1
  else
    let first := v % 256
    let last := bits v 8 15
    let op := bits v 16 17
    let b := b.setR .HOP_MNT_CTL (v % 2 ^ 18) |>.put HOP_MNT_STATUS_OWNER mid |>.put HOP_MNT_STATUS_DONE 0 |>.put HOP_MNT_STATUS_ERR 0
    if 2 ≤ op || last < first then
      b.put HOP_MNT_STATUS_ERR 1 |>.put HOP_MNT_STATUS_ERRCODE (if last < first then 1 else 3) |>.note { code := 0x2913, mid := some mid }
    else
      b.put HOP_MNT_STATUS_BUSY 1 |>.put HOP_MNT_STATUS_ERRCODE 0 |>.forN 48 fun e b =>
        match (b.hopEnt e).ctx with
        | none => b
        | some (i, _) => if first ≤ i && i ≤ last then b.hopWriteBack e |>.when (op = 1) (fun b => b.hopDrop e) else b

/-- HOP_MNT_CLEAN (R370). -/
def execHopMntClean (mid first last : Nat) (s : State) : Host.Outcome State Fault Refusal :=
  onBlk s fun b => b.hopStart mid (first % 256 + last % 256 * 256 + 2 ^ 18)
/-- HOP_MNT_CLEANINV (R370). -/
def execHopMntCleaninv (mid first last : Nat) (s : State) : Host.Outcome State Fault Refusal :=
  onBlk s fun b => b.hopStart mid (first % 256 + last % 256 * 256 + 2 ^ 16 + 2 ^ 18)
/-- HOP_MNT_COMPLETE (R370). -/
def execHopMntComplete (s : State) : Host.Outcome State Fault Refusal :=
  onBlk s fun b => if b.isSet HOP_MNT_STATUS_BUSY then b.put HOP_MNT_STATUS_BUSY 0 |>.put HOP_MNT_STATUS_DONE 1 else b

/-- Disable an entry (R371): the seventeenth exhausts the hopper, which then holds nothing. -/
def Block.hopDisable (e : Nat) (b : Block) : Block :=
  if b.hopOff e then b
  else
    let b := b.hopWriteBack e |>.hopDrop e |>.put HOP_DIS_DIS (b.get HOP_DIS_DIS + 2 ^ e) |>.put HOP_DIS_COUNT (b.get HOP_DIS_COUNT + 1)
      |>.note { code := 0x290E, mid := some midSluice }
    if b.get HOP_DIS_COUNT = 17 then
      b.forN 48 (fun x b => b.hopWriteBack x |>.hopDrop x) |>.raise { code := 0x390F, mid := some midSluice }
    else b

/-- HOPPER_ENTRY_ERROR (R371): corrected errors count 1, uncorrectable ones 4 and lose the context. -/
def execHopperEntryError (entry : Nat) (correctable : Bool) (s : State) : Host.Outcome State Fault Refusal :=
  onBlk s fun b =>
    if 48 ≤ entry || b.hopOff entry then b
    else
      let b := b.modHop entry fun t => { t with errs := t.errs + (if correctable then 1 else 4) }
      let b := if correctable then b.noteOnce 0 { code := 0x190C, mid := some midSluice }
        else match (b.hopEnt entry).ctx with
          | some (i, q) => b.hopDrop entry |>.stopQueue i q false
          | none => b
      if b.get HOP_ERRCFG_THRESH ≤ (b.hopEnt entry).errs then b.hopDisable entry else b

end Sys2Proof.Machine
end

