-- ==== Sys2Proof/Machine/PciOps.lean ====
section
/-! DEFINITION. The PCIe port's shared operations (R385-R409): sub-ports and their ranges, AER status, training, freeze, release and reset,
outbound tags, LTR. -/

namespace Sys2Proof.Machine

/-! ## Sub-ports (R385) -/

def Block.modPci (f : Pci → Pci) (b : Block) : Block := { b with pci := f b.pci }
def Block.psub (b : Block) (k : Nat) : PciSub := SMap.get {} k b.pci.subs
def Block.modSub (k : Nat) (f : PciSub → PciSub) (b : Block) : Block := b.modPci fun p => { p with subs := SMap.upd {} k f p.subs }

def Block.fn (b : Block) (f : Nat) : PciFn := SMap.get {} f b.pci.fns

/-- The straps make no configuration. -/
def Block.strapError (b : Block) : Bool := b.get PCI_CFG_BIF = 3 || (b.isSet PCI_CFG_EP && b.get PCI_CFG_BIF = 2)

/-- The number of sub-ports; none where the straps are in error. -/
def Block.subCount (b : Block) : Nat := if b.strapError then 0 else match b.get PCI_CFG_BIF with | 0 => 1 | 1 => 2 | _ => 4

def pciFault (code k : Nat) : FaultSpec := { code := code, mid := some (midPci k) }

/-- Size and base of a sub-port's outbound range, and the sub-port of an address in outbound space. -/
def Block.obSize (b : Block) : Nat := match b.get PCI_CFG_BIF with | 0 => 0x4000000000 | 1 => 0x2000000000 | _ => 0x1000000000
def Block.obBase (b : Block) (k : Nat) : Nat := 0x8000000000 + k * b.obSize
def Block.obSub (b : Block) (a : Nat) : Nat := (a - 0x8000000000) / b.obSize

/-! ## AER (R386, R406). Status bits as PCI Express places them: PRESUMED. -/

def aerPoison : Nat := 12
def aerCto : Nat := 14
def aerUnexpected : Nat := 16
def aerUr : Nat := 20

/-- Set a status bit; correctable errors lie above bit 31. -/
def Block.aerSet (k bitNo : Nat) (b : Block) : Block := b.modSub k fun s => { s with aer := Nat.lor s.aer (2 ^ bitNo) }

/-! ## Training -/

/-- The device state lets links train: SELFTEST or later, with group B on and the straps good. -/
def Block.linksOn (b : Block) : Bool := b.dev ≠ .off && b.dev ≠ .boot && !b.pwr.tripped && !b.strapError

/-- DOWN to TRAINING; an endpoint waits for PCI_PERST_N. -/
def Block.pciTrain (k : Nat) (b : Block) : Block :=
  if k < b.subCount && b.linksOn && b.subSt k = sDown && !(b.isEp k && (b.psub k).perst) then b.put PCI_SSTAT_STATE sTrain k else b

/-! ## Tags (R386, R403, R404) -/

/-- QTAGS shows the tags in quarantine. -/
def Block.showTags (k : Nat) (b : Block) : Block :=
  b.put PCI_SERR_QTAGS ((b.pci.tags.filter fun t => t.sub = k && t.late).length) k

/-- The next free tag of a sub-port in ascending order with wraparound; none where 1,024 are in use. -/
def Block.freeTag (b : Block) (k : Nat) : Option Nat :=
  let used := (b.pci.tags.filter fun t => t.sub = k).map (·.tag)
  ((List.range 1024).map fun i => ((b.psub k).nextTag + i) % 1024).find? fun t => !used.contains t

def Block.tagOf (b : Block) (k tag : Nat) : Option PciTag := b.pci.tags.find? fun t => t.sub = k && t.tag = tag

/-- Issue a non-posted request with a free tag; with none it waits for one, and so does a later request of its sub-port. -/
def Block.tagIssue (w : PciWait) (b : Block) : Block :=
  match b.freeTag w.req.sub with
  | none => b.modPci fun p => { p with waits := p.waits ++ [w] }
  | some t =>
    b.modSub w.req.sub (fun s => { s with nextTag := (t + 1) % 1024 })
      |>.modPci (fun p => { p with tags := p.tags ++ [{ w.req with tag := t }] })
      |>.emit (.tlp w.req.sub w.rid (some t) w.paddr w.req.width w.wdata w.req.cfg)

/-- The sub-port's oldest request that waits takes a freed tag. -/
def Block.nextWait (k : Nat) (b : Block) : Block :=
  match b.pci.waits.find? (fun w => w.req.sub = k) with
  | none => b
  | some w => if (b.freeTag k).isSome then b.modPci (fun p => { p with waits := p.waits.erase w }) |>.tagIssue w else b

/-- A tag is free again. -/
def Block.dropTag (k tag : Nat) (b : Block) : Block :=
  b.modPci (fun p => { p with tags := p.tags.filter fun t => !(t.sub = k && t.tag = tag) }) |>.nextWait k |>.showTags k
def Block.dropTags (k : Nat) (b : Block) : Block := b.modPci (fun p => { p with tags := p.tags.filter fun t => t.sub ≠ k }) |>.showTags k

/-- Complete the outstanding requests of a sub-port, and those that wait for a tag, to the hub with ERR; quarantined tags stay. -/
def Block.errTags (k : Nat) (b : Block) : Block :=
  let l := (b.pci.tags.filter fun t => t.sub = k && !t.late) ++ (b.pci.waits.map (·.req)).filter fun t => t.sub = k
  let b := b.modPci fun p => { p with
    tags := p.tags.filter fun t => t.sub ≠ k || t.late
    waits := p.waits.filter fun w => w.req.sub ≠ k }
  b.forL l fun t b => b.emit (.ioComp t.mid t.txid t.addr true 0)

/-! ## Freeze, release, reset (R405-R409, R500) -/

/-- No link is negotiated. -/
def Block.noLink (k : Nat) (b : Block) : Block :=
  b.modSub k (fun s => { s with l0 := false }) |>.put PCI_SSTAT_RATE 0 k |>.put PCI_SSTAT_WIDTH 0 k |>.put PCI_SSTAT_FLIT 0 k

/-- The link is gone: every function of an endpoint returns to its reset values, and the instances that the functions own are squashed. -/
def Block.linkGone (k : Nat) (b : Block) : Block :=
  let b := b.noLink k
  if !b.isEp k then b
  else
    let b := b.modPci (fun p => { p with fns := [], vecs := [], pba := [] }) |>.modSub k fun s => { s with aer := 0, header := [] }
    b.forN 256 fun i b => b.when (b.ownKind i = 2) (Block.resetInst i true)

/-- A freeze condition (R407, R408). `reason` is the DPC trigger reason that a root port records. -/
def Block.freezeSub (k reason : Nat) (down : Bool) (b : Block) : Block :=
  if b.subCount ≤ k then b
  else if b.subSt k = sUp then
    let b := b.errTags k |>.put PCI_SSTAT_STATE sFrozen k
    let b := b.when (!b.isEp k) (Block.modSub k fun s => { s with dpc := some reason })
    b.when down (Block.linkGone k) |>.note (pciFault 0x2A06 k)
  else if b.subSt k = sFrozen then b.when down (Block.linkGone k)
  else b

/-- Send every vector that waits and may go now (R398). -/
def Block.sendPba (b : Block) : Block := b.forL b.pci.pba fun k b => b.sendVec (k / 2048) (k % 2048)

/-- RELEASE of a sub-port (R405, R409); a condition of the same cycle wins and sets RELLOST. -/
def Block.releaseNow (k : Nat) (lost : Bool) (b : Block) : Block :=
  if b.subCount ≤ k || b.subSt k ≠ sFrozen then b
  else if lost then b.put PCI_SSTAT_RELLOST 1 k
  else
    let b := b.dropTags k |>.modSub k (fun s => { s with dpc := none })
    if (b.psub k).l0 then
      let b := b.put PCI_SSTAT_STATE sUp k |>.note (pciFault 0x0A07 k)
      if b.isEp k then
        b.sendPba.forN 256 fun i b => b.when (b.ownKind i = 2 && b.instSt i = iActive) (Block.fetchAll i)
      else b
    else
      let b := b.put PCI_SSTAT_STATE sDown k |>.note (pciFault 0x0A07 k)
      b.when (b.isEp k) (Block.pciTrain k)

/-- A write of RELEASE in PCI_SCTLs (R409). -/
def Block.releaseReq (mid : Nat) (part : Option Nat) (k : Nat) (lost : Bool) (b : Block) : Block :=
  if !b.isManager mid part false then b.emit .accessError |>.note { code := 0x2A02, mid := some mid }
  else b.releaseNow k lost

/-- To DOWN: lanes idle, tags freed, the link gone. -/
def Block.subDown (k : Nat) (b : Block) : Block :=
  let b := b.errTags k |>.dropTags k |>.linkGone k
  b.modSub k (fun s => { perst := s.perst }) |>.setR .PCI_SSTAT 0 k

end Sys2Proof.Machine
end

