-- ==== Sys2Proof/Machine/Device.lean ====
section
/-! DEFINITION. Device states and resets (R28, R29, R37, R417, R469-R471, R498-R502), shutdown (R517-R519), faults and FAULT_OUT (R523-R531), supplies,
sensors and clocks (R491-R516). -/

namespace Sys2Proof.Machine

/-! ## What a reset keeps (R500) -/

/-- Levels on pins outlast every reset: event inputs and PCI_PERST_N. -/
def Block.keepPins (old b : Block) : Block :=
  { b with evt := old.evt.filterMap (fun e => if e.2.pin then some (e.1, { pin := true }) else none)
           pci := { subs := old.pci.subs.filterMap fun e => if e.2.perst then none else some (e.1, { perst := false }) } }

/-- What power-on reset keeps: OTP and boot flash (firmware banks, key store, identity certificate, configuration slots, training records); nothing else but the
levels on pins and, of the model's own, the counter of free values. Straps are sampled into PCI_CFG; fused sails are LOST. -/
def Block.fresh (old : Block) : Block :=
  let b : Block :=
    { free := old.free, out := old.out, otp := old.otp, dict := { slots := old.dict.slots, training := old.dict.training }
      trust := { banks := old.trust.banks, cert := old.trust.cert, keys := old.trust.keys }
      lvp := { lmk := old.lvp.lmk
               ports := old.lvp.ports.filterMap fun e => if e.2.macs.isEmpty then none else some (e.1, { macs := e.2.macs }) } }
  Block.keepPins old b
    |>.put PCI_CFG_BIF old.otp.pciBif |>.put PCI_CFG_EP (ofBool old.otp.pciEp)
    |>.forN 12 fun n b => b.when (bit old.otp.fused n) fun b => b.put GOV_SAILSTAT_STATE 4 n |>.put GOV_SAILSTAT_FUSED 1 n

/-! ## The governor ROM (R469-R471) -/

/-- Mark a bank BAD with a code. -/
def Block.badBank (k code : Nat) (b : Block) : Block := b.putRecord k (fun r => { r with state := bkBad }) |>.note { code := code }

/-- Boot bank `k`. -/
def Block.bootFrom (k : Nat) (trial : Bool) (b : Block) : Block := b.modTrust fun t => { t with running := k, timer := trial, rom := false }

/-- The GOOD banks, the higher SEQ first; an invalid bundle is written BAD. With none, the ROM serves, and sends the boot-up message (R447). -/
def Block.tryGood (b : Block) : List Nat → Block
  | [] => ((b.modTrust fun t => { t with rom := true }).raise { code := 0x4C01 }).bootUp
  | k :: r =>
    if (b.bank k).rec'.state ≠ bkGood then b.tryGood r
    else if b.bundleOk (b.bank k).bundle then b.bootFrom k false
    else (b.badBank k 0x2C02).tryGood r
def Block.bootGood (b : Block) : Block := b.tryGood (if (b.bank 0).rec'.seq < (b.bank 1).rec'.seq then [1, 0] else [0, 1])

/-- The choice of the bank to boot. -/
def Block.chooseBank (b : Block) : Block :=
  let try' := (List.range 2).find? fun k => let s := (b.bank k).rec'.state; s = bkPending || s = bkTrial
  match try' with
  | none => b.bootGood
  | some k =>
    let r := (b.bank k).rec'
    if r.state = bkTrial && 3 ≤ r.tries then (b.badBank k 0x2C04).bootGood
    else if b.bundleOk (b.bank k).bundle then
      b.putRecord k (fun r => { r with state := bkTrial, tries := r.tries + 1 }) |>.bootFrom k true
    else (b.badBank k 0x2C02).bootGood

/-- Start-up from step 1: a strap error is raised (R385), and the ROM chooses a bank. -/
def Block.startUp (b : Block) : Block := b.when b.strapError (Block.raise { code := 0x4A0F }) |>.chooseBank

/-! ## Resets -/

/-- Power-on reset (R500, R502). -/
def Block.powerOn (b : Block) : Block := b.fresh.startUp

/-- Wake from standby (R518): as a power-on reset, but the fault log and GOV_STICKY are kept. -/
def Block.wakeUp (old : Block) : Block :=
  let b := old.fresh
  { b with flog := { ring := old.flog.ring, first := old.flog.first, counts := old.flog.counts } }
    |>.setR .GOV_FLOGIDX (old.getR .GOV_FLOGIDX) |>.setR .GOV_STICKY (old.getR .GOV_STICKY) |>.startUp

/-- Package warm reset (R500, R529): beyond what power-on reset keeps, the fault log, GOV_STICKY, HOLDCAUSE, LOSTCNT, the disabled-way maps, the
counts since power-on reset, straps, the time base, the supplies and sensors, and DRAM; FAULT_OUT is asserted, and BOOT begins. -/
def Block.warmReset (old : Block) : Block :=
  let b := old.fresh
  let b : Block :=
    { b with
      prev := some old.dev, timeBase := old.timeBase, mem := old.mem
      flog := { ring := old.flog.ring, first := old.flog.first, counts := old.flog.counts, fatal := old.flog.fatal }
      ms := { poison := old.ms.poison, errs := old.ms.errs, rows := old.ms.rows }
      sails := old.sails.filterMap fun e => if e.2.disMap.isEmpty then none else some (e.1, { disMap := e.2.disMap })
      msts := old.msts.filterMap fun e => if e.2.fixes = 0 && e.2.done = 0 then none else some (e.1, { fixes := e.2.fixes, done := e.2.done })
      gov := { binvTimeouts := old.gov.binvTimeouts }
      svc := { dtcFrom := old.svc.dtcFrom, dtcHidden := old.svc.dtcHidden }
      pwr := { enCore := old.pwr.enCore, enMem := old.pwr.enMem, vren := old.pwr.vren, frames := old.pwr.frames, tripped := old.pwr.tripped
               persto := old.pwr.persto, trst := old.pwr.trst, clkLost := old.pwr.clkLost, pllLost := old.pwr.pllLost } }
  b.setR .GOV_FLOGIDX (old.getR .GOV_FLOGIDX) |>.setR .GOV_STICKY (old.getR .GOV_STICKY) |>.setR .GOV_HOLDCAUSE (old.getR .GOV_HOLDCAUSE)
    |>.setR .PCI_CFG (old.getR .PCI_CFG)
    |>.put PWR_STATUS_PGCORE (old.get PWR_STATUS_PGCORE) |>.put PWR_STATUS_PGMEM (old.get PWR_STATUS_PGMEM)
    |>.put PWR_STATUS_PFAIL (old.get PWR_STATUS_PFAIL) |>.put PWR_STATUS_VRALERT (old.get PWR_STATUS_VRALERT)
    |>.forN 20 (fun s b => b.setR .PWR_TEMP (old.getR .PWR_TEMP s) s)
    |>.forN 8 (fun h b => b.put HOM_RETRY_COUNT (old.get HOM_RETRY_COUNT h) h |>.put HOM_TIMEOUT_COUNT (old.get HOM_TIMEOUT_COUNT h) h)
    |>.forN 12 (fun n b => b.put GOV_SAILSTAT_LOSTCNT (old.get GOV_SAILSTAT_LOSTCNT n) n
        |>.forN 8 fun s b =>
          let m := maskOf 16 fun w => (b.sail n).disMap.contains (s * 16 + w)
          b.put L3_WAYDIS_DIS m n s |>.put L3_WAYDIS_COUNT (popcount 16 m) n s)
    |>.note { code := 0x000E, detail := old.dev.code + 256 } |>.startUp

/-- The states in which a package warm reset may take place (R28, R470, R533). -/
def Block.mayReset (b : Block) : Bool := b.dev ≠ .off && b.dev ≠ .shutdown && !b.fatal && !b.govHalted

/-- POWER_ON_RESET (R502): PORST_N below 1 us starts nothing. -/
def execPowerOnReset (lowNs : Option Nat) (s : State) : Host.Outcome State Fault Refusal :=
  onPkg s fun b => match lowNs with
    | some t => if t < 1000 then b else b.powerOn
    | none => b.powerOn

/-- VDD_AON_LOSS (R27): nothing runs until the next power-on reset. -/
def execVddAonLoss (s : State) : Host.Outcome State Fault Refusal :=
  onPkg s fun b => { b.fresh with dev := .off, flog := { outA := false, outB := false }, pwr := { enCore := false } }

/-- PACKAGE_WARM_RESET (R500); a state that does not accept it logs it (R29). -/
def execPackageWarmReset (s : State) : Host.Outcome State Fault Refusal := onBlk s fun b => if b.mayReset then b.warmReset else b.notAccepted

/-- WARM_RESET_DELAY_EXPIRY (R417): 100 us after a request in RUN or DEGRADED; a SAFE_HOLD that became fatal keeps it off. -/
def execWarmResetDelayExpiry (s : State) : Host.Outcome State Fault Refusal :=
  onBlk s fun b =>
    if !b.gov.resetPending then b
    else
      let b := { b with gov := { b.gov with resetPending := false } }
      if b.mayReset then b.warmReset else b.notAccepted

/-- TRIAL_TIMER_EXPIRY (R470); a state that does not accept the reset logs it (R29). -/
def execTrialTimerExpiry (s : State) : Host.Outcome State Fault Refusal :=
  onBlk s fun b => if !b.trust.timer then b else if b.mayReset then b.warmReset else b.notAccepted

/-- GOVERNOR_FIRMWARE_ENTRY (R28, R474, R476, R498 step 5): M0 to M2 are extended, every sail that is not fused starts at OP 3, the boot-up message leaves
(R447), and the links train. -/
def execGovernorFirmwareEntry (s : State) : Host.Outcome State Fault Refusal :=
  onBlk s fun b =>
    if b.dev ≠ .boot || b.trust.rom then b
    else
      let u := b.runBundle
      let b := b.extend 0 u.manifest |>.extend 0 (u.comp 1) |>.extend 1 (u.comp 2) |>.extend 2 (u.comp 3)
      let b := b.modTrust fun t => { t with derived := b.meas 0 ++ u.comp 2 ++ u.comp 3 }
      let b := b.put GOV_STATUS_LOCKOK 1 |>.put GOV_STATUS_REFOK (ofBool (!bit b.pwr.clkLost 0)) |>.put GOV_STATUS_SBUSOK 1
      let b := b.forN 12 fun n b => b.when (!b.isSet GOV_SAILSTAT_FUSED n) fun b => b.put GOV_SAILSTAT_STATE 1 n |>.vrOn n 3
      b.setDev .selftest |>.bootUp |>.forN 4 Block.pciTrain

/-- The lowest level that a sail which is not fused or held out has reported, and HUBMAX: the effective level (R34). -/
def Block.effLevel (b : Block) : Nat :=
  (List.range 12).foldl (fun m n =>
    let l := b.get GOV_SAILSTAT_CAPLVL n
    if b.isSet GOV_SAILSTAT_FUSED n || b.isSet GOV_SAILSTAT_HELDOUT n || l = 0 then m else min m l) (b.get GOV_CAP_HUBMAX)

/-- The commit of the current slot at the end of SELFTEST (R458). -/
def Block.bootCommit (b : Block) : Block :=
  match b.currentSlot with
  | none => b.note { code := 0x2B03 }
  | some k =>
    { b with dict := { b.dict with staged := readImage (b.cfgSlot k).image, incomplete := false }
             commit := { b.commit with state := 1, path := 6, result := 0, detail := 0, turn := 0, persistAfter := false, who := (6, 0) } }

/-- The governor, the hub or memory failed the self-test (R28): the governor logs the faults found, of which class 4 and 5 move the device; a
failure that no such fault names moves it all the same, with the first fault as its cause. FAULT_OUT is asserted. -/
def Block.selftestFails (faults : List FaultSpec) (b : Block) : Block :=
  let b := b.raiseAll faults
  if b.dev ≠ .selftest then b
  else b.enterSafeHold (match faultSort faults with | f :: _ => f.code | [] => 0) false |>.put GOV_HOLDCAUSE_REQUEST 0

/-- SELFTEST_COMPLETE (R28, R34, R198, R498 steps 10 and 11). A failure leads to SAFE_HOLD with the faults that the test found; with no ACTIVE sail it
is 0x420E. Memory whose ECC self-test or boot initialisation is still under way keeps SELFTEST, as does a tracking mode that cannot switch to FILTER. -/
def execSelftestComplete (govOk hubOk memOk : Bool) (faults : List FaultSpec) (s : State) : Host.Outcome State Fault Refusal :=
  onBlk s fun b =>
    if b.dev ≠ .selftest then b
    else if !govOk || !hubOk || !memOk then b.selftestFails faults
    else if (List.range 8).any (fun c => !b.isSet MC_STATUS_STPASS c || b.isSet MC_STATUS_INIT c) then b
    else if b.activeSails.isEmpty then b.raise { code := 0x420E }
    else
      let b := b.toFilter
      if !b.filterMode then b
      else
      let b := b.put GOV_CAP_EFFECTIVE b.effLevel
      let b := b.buildBank 0 true |>.showLoad |>.forL b.activeSails (fun n c => c.put FLM_STATUS_LEVEL (c.get GOV_CAP_EFFECTIVE) n)
      b.put TRN_STATUS_RUNNING 1 |>.modTu (fun t => { t with zeroNext := true, phaseA := 0, phaseB := 0 }) |>.toConfigWait |>.bootCommit

/-! ## Requests (R29, R37, R417) -/

/-- A request that a higher event of its cycle outranks is logged and refused; a halted governor answers nothing. -/
def Block.request (outranked : Bool) (f : Block → Nat × Block) (b : Block) : Nat × Block :=
  if b.govHalted then (0, b) else if outranked then (abState, b.notAccepted) else f b

/-- Refused in this state. -/
def Block.refused (b : Block) : Nat × Block := (abState, b.notAccepted)

/-- START (R29). -/
def Block.startReq (b : Block) : Nat × Block :=
  if b.dev = .ready then (0, { b with gov := { b.gov with startPending := true } }) else b.refused

/-- SERVICE (R28, R37, R464, R479). -/
def Block.serviceReq (path src : Nat) (b : Block) : Nat × Block :=
  let st : Bool := b.dev = .configWait || b.dev = .ready || (b.dev = .safeHold && !b.fatal && !b.pwr.tripped)
  if !st || !(b.unowned || b.trust.sessions.contains (path, src)) then b.refused
  else (0, { b with gov := { b.gov with startPending := false, resetPending := false } }.setDev .service |>.haltParts |>.cancelCommit)

/-- The end of SERVICE with a commit pending: it switches; an initialisation keeps SERVICE until it ends (R258). -/
def Block.resumePending (b : Block) : Block :=
  let b := b.switchWait
  let b := { b with gov := { b.gov with resuming := true } }
  if b.commit.state = 3 && !b.ms.initPending.isEmpty then b else b.endResume

/-- The end of SERVICE without one: the staged image is discarded, checks under way are cancelled. -/
def Block.resumePlain (b : Block) : Block :=
  let b := b.when (b.commit.state = 1) Block.cancelCommit
  let b := b.discardStaged
  let b := { b with commit := { b.commit with claim := none } }
  b.toConfigWait

/-- RESUME, or the end of the service session (R28). Outside SELFTEST and SERVICE the tracking mode is FILTER: where it cannot switch to it, the device stays
in SERVICE (R198). -/
def Block.resumeReq (b : Block) : Nat × Block :=
  if b.dev ≠ .service then b.refused
  else
    let b := b.toFilter
    if !b.filterMode then (abState, b) else (0, if b.commit.state = 2 then b.resumePending else b.resumePlain)

/-- Steps 2 to 6 of a shutdown (R517) up to the fall of PWR_EN_MEM: harts halt, millstone commands are squashed, requests end, the lanes go idle, the rails go off. -/
def Block.shutRails (b : Block) : Block :=
  let b := b.haltParts |>.mapHarts (fun _ t => { t with run := false })
  let b := b.forN 12 (fun n b => b.forN 16 fun i b => b.when (b.isSet MST_BCFG_EN n i) (Block.mstSquash n i false))
  let b := b.forN 4 (fun k b => b.errTags k) |>.forN 6 Block.toOff
  let b := b.forN 12 (fun n b => b.when (bit (SMap.get 0 n b.pwr.frames) 19) (Block.vrOff n))
  { b with pwr := { b.pwr with vren := false, enMem := false, shutStep := 2 } }

/-- SHUTDOWN, or the power-fail warning (R517, R518): in standby mode only by a request; a warning during a shutdown makes the mode 0. Without
boundaries B is the instant of entry. -/
def Block.shutdown (mode : Nat) (b : Block) : Block :=
  let b := { b with pwr := { b.pwr with shutMode := mode, shutStep := 1 }
                    gov := { b.gov with startPending := false, resetPending := false, resuming := false } }
  let b := b.setDev .shutdown |>.cancelCommit
  if b.running then b else b.shutRails

/-- A SHUTDOWN request: every state but OFF accepts it (R28). In SHUTDOWN the sequence under way goes on. -/
def Block.shutdownReq (b : Block) : Nat × Block :=
  if b.dev = .shutdown then (0, b) else (0, b.shutdown (b.actN 0x2610 5))

/-- A package warm reset request (R417). -/
def Block.resetReq (b : Block) : Nat × Block :=
  if b.dev = .boot || !b.mayReset then (abState, b.notAccepted)
  else if b.outputsOn then (0, { b.holdRequest with gov := { b.gov with resetPending := true, startPending := false } })
  else (0, b.warmReset)

/-- A value written to 0x1120:01. -/
def Block.stateReq (v : DictPath) (n : Nat) (b : Block) : Nat × Block :=
  match n with
  | 1 => b.startReq
  | 2 => (0, b.holdRequest)
  | 3 => b.serviceReq v.path v.src
  | 4 => b.shutdownReq
  | 5 => b.resumeReq
  | _ => (abRange, b)

/-- A request and its answer on the path it came by; a halted governor answers nothing. -/
def Block.requestRow (outranked : Bool) (f : Block → Nat × Block) (b : Block) : Block :=
  if b.govHalted then b else let (a, b) := b.request outranked f; b.answer a

def execStartRequest (outranked : Bool) (s : State) : Host.Outcome State Fault Refusal :=
  onBlk s fun b => b.requestRow outranked Block.startReq

/-- SAFE_HOLD_REQUEST (R37): it gets no abort code, also where a higher event outranks it. -/
def execSafeHoldRequest (outranked : Bool) (s : State) : Host.Outcome State Fault Refusal :=
  onBlk s fun b => if b.govHalted then b else (if outranked then b.notAccepted else b.holdRequest).answer 0
def execServiceRequest (path src : Nat) (outranked : Bool) (s : State) : Host.Outcome State Fault Refusal :=
  onBlk s fun b => b.requestRow outranked (Block.serviceReq path src)
def execShutdownRequest (s : State) : Host.Outcome State Fault Refusal :=
  onBlk s fun b => b.requestRow false Block.shutdownReq
def execResumeRequest (outranked : Bool) (s : State) : Host.Outcome State Fault Refusal :=
  onBlk s fun b => b.requestRow outranked Block.resumeReq
def execPackageResetRequest (outranked : Bool) (s : State) : Host.Outcome State Fault Refusal :=
  onBlk s fun b => b.requestRow outranked Block.resetReq

/-- A write of GOV_HOLDREQ (R37). -/
def Block.holdKey (key : Nat) (outranked : Bool) (b : Block) : Block :=
  if key % 65536 ≠ 0x5AFE || b.govHalted then b else if outranked then b.notAccepted else b.holdRequest
def execGovHoldreqWrite (_mid key : Nat) (outranked : Bool) (s : State) : Host.Outcome State Fault Refusal :=
  onBlk s fun b => b.holdKey key outranked

/-! ## Faults and FAULT_OUT (R523-R531) -/

/-- FAULT_RAISED (R523, R526, R534): all faults of one governor cycle. -/
def execFaultRaised (faults : List FaultSpec) (s : State) : Host.Outcome State Fault Refusal := onBlk s fun b => b.raiseAll faults

/-- FAULT_OUT_READBACK (R531): 0x300B at the second difference in a row. -/
def execFaultOutReadback (padA padB : Bool) (s : State) : Host.Outcome State Fault Refusal :=
  onBlk s fun b =>
    if b.govHalted then b
    else
      let a := if padA = b.foutA then 0 else b.flog.missA + 1
      let c := if padB = b.foutB then 0 else b.flog.missB + 1
      let b := { b with flog := { b.flog with missA := a, missB := c } }
      b.when (a = 2) (Block.raise { code := 0x300B, detail := 1 }) |>.when (c = 2) (Block.raise { code := 0x300B, detail := 2 })

/-- FAULT_OUT_TEST (R531): writes outside SERVICE are ignored. -/
def execFaultOutTest (on : Bool) (s : State) : Host.Outcome State Fault Refusal :=
  onBlk s fun b => if b.dev = .service then b.put GOV_FOUTCTL_TEST (ofBool on) else b

/-! ## Supplies (R491-R497) -/

/-- The enables are lowered; group B goes, and the lanes with it. -/
def Block.cutPower (b : Block) : Block :=
  { b with pwr := { b.pwr with vren := false, enMem := false, enCore := false } }
    |>.forN 6 Block.toOff |>.forN 4 Block.subDown

/-- 0x5D06 (R493). -/
def Block.powerLost (b : Block) : Block := if b.govHalted then b else (b.raise { code := 0x5D06 }).cutPower

/-- POWER_GOOD (R493). -/
def execPowerGood (mem : Bool) (s : State) : Host.Outcome State Fault Refusal :=
  onBlk s fun b =>
    if mem then
      b.put PWR_STATUS_PGMEM 1 |>.when b.pwr.enMem fun b => { b with pwr := { b.pwr with vren := true } }
    else b.put PWR_STATUS_PGCORE 1 |>.when b.pwr.enCore fun b => { b with pwr := { b.pwr with enMem := true } }

/-- POWER_GOOD_TIMEOUT (R493): no power good within 20 ms of an enable that is still high. -/
def execPowerGoodTimeout (mem : Bool) (s : State) : Host.Outcome State Fault Refusal :=
  onBlk s fun b =>
    let missing : Bool := if mem then b.pwr.enMem && !b.isSet PWR_STATUS_PGMEM else b.pwr.enCore && !b.isSet PWR_STATUS_PGCORE
    if missing then b.powerLost else b

/-- POWER_GOOD_LOST (R493). -/
def execPowerGoodLost (mem : Bool) (s : State) : Host.Outcome State Fault Refusal :=
  onBlk s fun b =>
    let was := if mem then b.isSet PWR_STATUS_PGMEM else b.isSet PWR_STATUS_PGCORE
    let b := if mem then b.put PWR_STATUS_PGMEM 0 else b.put PWR_STATUS_PGCORE 0
    if was && (if mem then b.pwr.enMem else b.pwr.enCore) then b.powerLost else b

/-- REGULATOR_REFRESH, REGULATOR_ALERT (R494). -/
def execRegulatorRefresh (s : State) : Host.Outcome State Fault Refusal := onBlk s fun b => b.vrResend
def execRegulatorAlert (low : Bool) (s : State) : Host.Outcome State Fault Refusal :=
  onBlk s fun b =>
    let b := b.put PWR_STATUS_VRALERT (ofBool low)
    if low then (b.note { code := 0x2D09 }).vrResend else b

/-- POWER_FAIL_WARNING (R496, R519). -/
def execPowerFailWarning (s : State) : Host.Outcome State Fault Refusal :=
  onGov s fun b =>
    let b := b.put PWR_STATUS_PFAIL 1 |>.note { code := 0x0D07 }
    if b.dev = .shutdown then { b with pwr := { b.pwr with shutMode := 0 } } else b.shutdown 0

/-! ## The end of a shutdown (R517-R519) -/

/-- PWR_EN_CORE falls. -/
def Block.shutCore (b : Block) : Block := { b with pwr := { b.pwr with enCore := false, shutStep := 3 } }

/-- PG_MEM_FALL, PWR_EN_CORE_TIMEOUT (R517 step 6). -/
def execPgMemFall (s : State) : Host.Outcome State Fault Refusal :=
  onBlk s fun b =>
    let b := b.put PWR_STATUS_PGMEM 0
    if b.dev = .shutdown && b.pwr.shutStep = 2 then b.shutCore else b
def execPwrEnCoreTimeout (s : State) : Host.Outcome State Fault Refusal :=
  onBlk s fun b => if b.dev = .shutdown && b.pwr.shutStep = 2 then b.shutCore else b

/-- The wake input is at its active level and armed. -/
def Block.wakeLevel (b : Block) : Bool := b.isSet EVT_CFG_EN 8 && b.evtActive 8

/-- SHUTDOWN_COMPLETE (R517 step 7, R518, R519): OFF, or standby, which a WAKE_IN at its active level leaves at once. `held` in PG_CORE logs 0x2D0A. -/
def execShutdownComplete (s : State) : Host.Outcome State Fault Refusal :=
  onBlk s fun b =>
    if b.dev ≠ .shutdown || b.pwr.shutStep ≠ 3 then b
    else
      let b := b.when (b.isSet PWR_STATUS_PGCORE) (Block.note { code := 0x2D0A })
      let b := b.setDev .off |>.forN 4 Block.subDown
      let b := { b with pwr := { b.pwr with standby := b.pwr.shutMode = 1, shutStep := 0 } }
      if b.pwr.standby && b.wakeLevel then b.wakeUp else b

/-- WAKE_IN (R518). -/
def execWakeIn (s : State) : Host.Outcome State Fault Refusal :=
  onPkg s fun b =>
    if b.pwr.standby then (if b.isSet EVT_CFG_EN 8 then b.wakeUp else b)
    else if b.dev = .off then b else b.inc PWR_WAKECNT_COUNT

/-! ## Sensors (R509, R514, R515) -/

/-- SENSOR_READING: the reading is the raw value plus calibration item 0; out of range, or missing, the sensor has failed; at the critical temperature
0x4D04 is raised, once per crossing. -/
def execSensorReading (sensor : Nat) (raw : Option Int) (s : State) : Host.Outcome State Fault Refusal :=
  onBlk s fun b =>
    if 20 ≤ sensor || b.isSet PWR_TEMP_FAILED sensor then b
    else
      let t := match raw with | some r => some (r + b.calEff 0 sensor * 2 / 25) | none => none
      match (match t with | some t => if tempLow ≤ t && t ≤ tempHigh then some t else none | none => none) with
      | none => b.put PWR_TEMP_FAILED 1 sensor |>.note { code := 0x2D08 }
      | some t =>
        let b := b.put PWR_TEMP_TEMP (ofSigned 12 t) sensor |>.put PWR_TEMP_VALID 1 sensor
        let top := match List.lookup sensor b.pwr.tmax with | some m => if m < t then t else m | none => t
        let hot : Bool := decide ((b.actN 0x2610 3 : Int) * 8 ≤ t)
        let was := b.pwr.crit.contains sensor
        let b := { b with pwr := { b.pwr with
          tmax := b.pwr.tmax.filter (fun e => e.1 ≠ sensor) ++ [(sensor, top)]
          crit := if hot then sinsert sensor b.pwr.crit else b.pwr.crit.filter (· ≠ sensor) } }
        if hot && !was then b.raise { code := 0x4D04 } else b

/-- THERMAL_TRIP (R515): the pad logic acts; 0x5D05. -/
def execThermalTrip (_sensor : Nat) (s : State) : Host.Outcome State Fault Refusal :=
  onBlk s fun b =>
    if b.pwr.tripped then b
    else ({ b with pwr := { b.pwr with tripped := true } }.assertFout.raise { code := 0x5D05 }).cutPower

/-! ## Clocks (R516) and the TAP -/

def clkCode : RefClk → Nat
  | .sys => 0 | .lvpA => 1 | .lvpB => 2 | .pci => 3

/-- The ports of a clock group (the ports of chapter 10). -/
def clkPorts (c : RefClk) : List Nat := match c with | .lvpA => [0, 1, 2] | .lvpB => [3, 4, 5] | _ => []

/-- CLOCK_LOST: 0x4E01, 0x3E02 with the ports of the group in TRAIN, 0x3E03 with every sub-port frozen. -/
def execClockLost (clk : RefClk) (s : State) : Host.Outcome State Fault Refusal :=
  onBlk s fun b =>
    if bit b.pwr.clkLost (clkCode clk) then b
    else
      let b := { b with pwr := { b.pwr with clkLost := b.pwr.clkLost + 2 ^ (clkCode clk) } }
      match clk with
      | .sys => b.put GOV_STATUS_REFOK 0 |>.raise { code := 0x4E01 }
      | .pci => b.forN 4 (Block.freezeSub · 0 true) |>.raise { code := 0x3E03 }
      | c =>
        let up := (clkPorts c).filter fun k => b.portSt k = pUp
        b.forL up Block.toTrain |>.raiseAll ({ code := 0x3E02 } :: up.map (lvpFault 0x3805 ·))

/-- CLOCK_REGAINED: 0x0E05 with the clock in detail byte 0. -/
def execClockRegained (clk : RefClk) (s : State) : Host.Outcome State Fault Refusal :=
  onBlk s fun b =>
    if !bit b.pwr.clkLost (clkCode clk) then b
    else
      let b := { b with pwr := { b.pwr with clkLost := b.pwr.clkLost - 2 ^ (clkCode clk) } }
      let b := b.when ((clkCode clk) = 0) fun b => b.put GOV_STATUS_REFOK 1
      b.note { code := 0x0E05, detail := (clkCode clk) }

/-- PLL_OUT_OF_LOCK: 0x4E04. -/
def execPllOutOfLock (mem : Bool) (s : State) : Host.Outcome State Fault Refusal :=
  onBlk s fun b =>
    { b with pwr := { b.pwr with pllLost := Nat.lor b.pwr.pllLost (if mem then 2 else 1) } }.raise { code := 0x4E04 }

/-- TRST_N (R547): low resets the TAP only. -/
def execTrstN (low : Bool) (s : State) : Host.Outcome State Fault Refusal :=
  onBlk s fun b => { b with pwr := { b.pwr with trst := !low } }

/-- PCI_PERSTO_N_RELEASE (R499, R500): a root sub-port releases the output and trains. -/
def execPciPerstoNRelease (sub : Nat) (s : State) : Host.Outcome State Fault Refusal :=
  onBlk s fun b =>
    if b.subCount ≤ sub || b.isEp sub || !b.isSet PWR_STATUS_PGCORE then b
    else { b with pwr := { b.pwr with persto := Nat.lor b.pwr.persto (2 ^ sub) } }.pciTrain sub

end Sys2Proof.Machine
end

