-- ==== Sys2Proof/Machine/ProgBuf.lean ====
section
/-! DEFINITION. The program buffer of the debug module (R72): eight words that a halted hart executes at machine level after an Access Register command. The
instructions are those of RV64I and M that do not depend on the program counter, the CSR instructions and FENCE; EBREAK or the end of the buffer ends
it. What the RISC-V specifications fix is taken from them. -/

namespace Sys2Proof.Machine

/-- A value of `w` bits as a 64-bit register. -/
def sx64 (w v : Nat) : Nat := ofSigned 64 (toSigned w v)

/-- The low word, extended. -/
def sx32 (v : Nat) : Nat := sx64 32 v

/-- Signed comparison, arithmetic shift right. -/
def slt64 (a b : Nat) : Bool := toSigned 64 a < toSigned 64 b
def sra (w a n : Nat) : Nat := ofSigned w (toSigned w a / (2 ^ n : Nat))

/-- Division and remainder rounding toward zero, with the results of the M extension by 0 and at overflow. -/
def divS (w a b : Nat) : Nat := if b % 2 ^ w = 0 then 2 ^ w - 1 else ofSigned w ((toSigned w a).tdiv (toSigned w b))
def remS (w a b : Nat) : Nat := if b % 2 ^ w = 0 then a % 2 ^ w else ofSigned w ((toSigned w a).tmod (toSigned w b))
def divU (w a b : Nat) : Nat := if b % 2 ^ w = 0 then 2 ^ w - 1 else a % 2 ^ w / (b % 2 ^ w)
def remU (w a b : Nat) : Nat := if b % 2 ^ w = 0 then a % 2 ^ w else a % 2 ^ w % (b % 2 ^ w)

/-- OP and OP-IMM of RV64: `alt` is bit 30. None: no such instruction. -/
def alu64 (f3 : Nat) (alt : Bool) (a b : Nat) : Nat :=
  match f3 with
  | 0 => if alt then a + 2 ^ 64 - b else a + b
  | 1 => a * 2 ^ (b % 64)
  | 2 => ofBool (slt64 a b)
  | 3 => ofBool (a < b)
  | 4 => xorN a b
  | 5 => if alt then sra 64 a (b % 64) else a / 2 ^ (b % 64)
  | 6 => Nat.lor a b
  | _ => Nat.land a b
def alu32 (f3 : Nat) (alt : Bool) (a b : Nat) : Option Nat :=
  match f3 with
  | 0 => some (sx32 (if alt then a + 2 ^ 64 - b else a + b))
  | 1 => some (sx32 (a * 2 ^ (b % 32)))
  | 5 => some (sx32 (if alt then sra 32 a (b % 32) else a % 2 ^ 32 / 2 ^ (b % 32)))
  | _ => none

/-- MUL to REMU, and their word forms. -/
def mul64 (f3 a b : Nat) : Nat :=
  let s (x : Nat) : Int := toSigned 64 x
  match f3 with
  | 0 => a * b
  | 1 => ofSigned 64 (s a * s b / (2 ^ 64 : Nat))
  | 2 => ofSigned 64 (s a * (b : Int) / (2 ^ 64 : Nat))
  | 3 => a * b / 2 ^ 64
  | 4 => divS 64 a b
  | 5 => divU 64 a b
  | 6 => remS 64 a b
  | _ => remU 64 a b
def mul32 (f3 a b : Nat) : Option Nat :=
  match f3 with
  | 0 => some (sx32 (a * b))
  | 4 => some (sx32 (divS 32 a b))
  | 5 => some (sx32 (divU 32 a b))
  | 6 => some (sx32 (remS 32 a b))
  | 7 => some (sx32 (remU 32 a b))
  | _ => none

/-- What one instruction of the buffer does: the buffer goes on, ends, or ends with an exception. -/
inductive PbStep where
  | next (b : Block)
  | done
  | fail

/-- Memory that the buffer reaches: DRAM and scratch. DESIGN CHOICE: an access to any other range ends it as an exception, since no later command
could bring the answer to the instruction. -/
def Block.pbLoad (h pa n : Nat) (b : Block) : Option Nat × Block :=
  match b.decodePa pa with
  | .dram => let (v, b) := b.readNat h (b.partNo h) pa n; (if v.2 then none else some v.1, b)
  | .scratch => let (v, p, e) := b.scrRead pa n; (if p || e then none else some (leNat v), b)
  | _ => (none, b)
def Block.pbStore (h pa n v : Nat) (b : Block) : Option Block :=
  match b.decodePa pa with
  | .dram => some (b.writeBytes h (b.partNo h) pa (leBytes n v))
  | .scratch => some (b.scrWrite pa (leBytes n v) false)
  | _ => none

/-- A CSR of a hart as machine level sees it. -/
def Block.csrReadM (b : Block) (h n : Nat) : Nat := (b.modHart h fun t => { t with priv := .m }).csrRead h n
def Block.csrPutM (h n v : Nat) (b : Block) : Block :=
  let p := (b.hart h).priv
  if n = 0x7B0 || n = 0x7B1 then b.setCsr h n v
  else (b.modHart h fun t => { t with priv := .m }).csrPut h n v |>.modHart h fun t => { t with priv := p }

/-- Execute one word of the buffer. -/
def Block.pbInstr (h w : Nat) (b : Block) : PbStep :=
  let rd := bits w 7 11
  let f3 := bits w 12 14
  let a := b.xreg h (bits w 15 19)
  let c := b.xreg h (bits w 20 24)
  let imm := sx64 12 (bits w 20 31)
  let alt := bit w 30
  let m := decide (bits w 25 31 = 1)
  let put (v : Nat) : PbStep := .next (b.setX h rd v)
  let opt (v : Option Nat) : PbStep := match v with | some v => put v | none => .fail
  match bits w 0 6 with
  | 0x37 => put (sx32 (bits w 12 31 * 4096))
  | 0x13 => put (alu64 f3 (alt && f3 = 5) a (if f3 = 1 || f3 = 5 then bits w 20 25 else imm))
  | 0x1B => opt (alu32 f3 (alt && f3 = 5) a (if f3 = 0 then imm else bits w 20 24))
  | 0x33 => put (if m then mul64 f3 a c else alu64 f3 alt a c)
  | 0x3B => opt (if m then mul32 f3 a c else alu32 f3 alt a c)
  | 0x03 =>
    let n := 2 ^ (f3 % 4)
    if f3 = 7 then .fail
    else match b.pbLoad h ((a + imm) % 2 ^ 64) n with
      | (some v, b) => .next (b.setX h rd (if f3 < 4 then sx64 (8 * n) v else v))
      | (none, _) => .fail
  | 0x23 =>
    if 4 ≤ f3 then .fail
    else match b.pbStore h ((a + sx64 12 (bits w 25 31 * 32 + rd)) % 2 ^ 64) (2 ^ f3) c with
      | some b => .next b
      | none => .fail
  | 0x0F => .next b
  | 0x73 =>
    let n := bits w 20 31
    let v := if 4 ≤ f3 then bits w 15 19 else a
    if f3 = 0 then (if w = 0x00100073 then .done else .fail)
    else if f3 = 4 then .fail
    else
      let old := b.csrReadM h n
      let write := decide (f3 % 4 = 1) || decide (bits w 15 19 ≠ 0)
      if write && n / 1024 = 3 then .fail
      else
        let new := match f3 % 4 with | 1 => v | 2 => Nat.lor old v | _ => old - Nat.land old v
        .next ((b.when write (Block.csrPutM h n new)).setX h rd old)
  | _ => .fail

/-- Execute the buffer from its first word. True: it ended without an exception. -/
def Block.pbRun (h : Nat) : List Nat → Block → Bool × Block
  | [], b => (true, b)
  | w :: r, b =>
    match b.pbInstr h w with
    | .next b => Block.pbRun h r b
    | .done => (true, b)
    | .fail => (false, b)

end Sys2Proof.Machine
end

