-- ==== Sys2Proof/Machine/Trust.lean ====
section
/-! DEFINITION. Trust (R440, R463-R490): which path may reach what, sessions, keys, firmware transfers, attestation, link and MACsec keys, authenticated
debug. Each operation on an object answers an abort code, 0 for none. -/

namespace Sys2Proof.Machine

/-! ## Paths (R418, R440, R471) -/

/-- MCAN reads that R418 guarantees, and its commands. -/
def mcanRead (idx sub : Nat) : Bool := (idx = 0x1100 && sub = 2) || (0x7000 ≤ idx && idx ≤ 0x7FFF)
def mcanCmd (idx sub : Nat) : Bool := (idx = 0x1120 || idx = 0x1122) && sub = 1

/-- What the ROM serves where nothing boots. -/
def romServes (idx sub : Nat) : Bool :=
  mcanRead idx sub || mcanCmd idx sub || idx = 0x8026 || (idx = 0x8030 && (sub = 1 || sub = 2))

/-- How a request fares on its path. -/
inductive Grant where | silent | refused | allowed
deriving DecidableEq, Repr

/-- The valid management endpoints include `e`. -/
def Block.listed (b : Block) (e : Nat) : Bool :=
  (List.range 16).any fun i => let w := b.actN 0x1040 (i + 1); bit w 15 && w % 4096 = e

/-- An object of the security area. -/
def isSec (idx : Nat) : Bool := 0x8000 ≤ idx && idx ≤ 0x8FFF

/-- R440 for a read or write of an object. The session exchange itself needs no session (R478). -/
def Block.granted (b : Block) (v : DictPath) (idx sub : Nat) (write : Bool) : Grant :=
  let mcan : Bool := v.path = 1 || v.path = 2
  if b.govHalted then .silent
  else if b.dev = .boot && !b.trust.rom && !(write && idx = 0x1120 && sub = 1) then .silent
  else if b.trust.rom && !(mcan && romServes idx sub) then .silent
  else if b.pwr.tripped && !(mcan && !write && mcanRead idx sub) then .silent
  else if b.isSet GOV_STATUS_MRWEDGE && !(mcan && (if write then mcanCmd idx sub else mcanRead idx sub)) then .silent
  else
    let ok (p : Bool) : Grant := if p then .allowed else .refused
    match v.path with
    | 0 => ok (!write)
    | 1 => ok (!write || !isSec idx || b.unowned || b.trust.sessions.contains (v.path, v.src) || (idx = 0x8026 && sub ≠ 1))
    | 2 => ok (!write || !isSec idx || b.unowned || b.trust.sessions.contains (v.path, v.src) || (idx = 0x8026 && sub ≠ 1))
    | 3 => if !b.listed v.src then .silent else ok (!write || (!isSec idx && (v.enc || b.actN 0x1040 0x11 = 0)))
    | 4 => ok (!write || !isSec idx)
    | 5 => ok (!write || !isSec idx || v.set = 1)
    | _ => .silent

/-- Serve a request: a refusal gets 0x0601_0000 and logs 0x2B08; the answer is the abort code and the data. -/
def Block.serve (v : DictPath) (idx sub : Nat) (write : Bool) (f : Block → (Nat × Bytes) × Block) (b : Block) : Block :=
  match b.granted v idx sub write with
  | .silent => b
  | .refused => b.note { code := 0x2B08 } |>.emit (.answer abPath [])
  | .allowed => let ((a, d), b) := f b; b.emit (.answer a d)

/-! ## Sessions (R478, R479) -/

/-- Thirty-two random bytes. -/
def Block.random32 (b : Block) : Bytes × Block := (leBytes 32 (Config.nonce b.free), b.tickFree)

/-- The interface of a path in the count of failures: UDS has no path code. -/
def failKey (path : Nat) : Nat := if path = 0 then 7 else path
def Block.failsOf (b : Block) (k : Nat) : Nat × Nat := SMap.get (0, 0) k b.trust.fails
def Block.lockedOut (b : Block) (k : Nat) : Bool := (b.failsOf k).2 ≠ 0

/-- A failed authentication: 0x2C06; the third in a row locks the interface for 1 s, each further one doubles that up to 64 s. -/
def Block.authFail (k : Nat) (b : Block) : Block :=
  let n := (b.failsOf k).1 + 1
  let lock := if n < 3 then 0 else b.timeNs + min 64 (2 ^ (n - 3)) * 1000000000
  b.modTrust (fun t => { t with fails := SMap.set (0, 0) k (n, lock) t.fails }) |>.note { code := 0x2C06 }
def Block.authOk (k : Nat) (b : Block) : Block := b.modTrust fun t => { t with fails := SMap.set (0, 0) k (0, 0) t.fails }

/-- A new challenge for a path and source. -/
def Block.challenge (v : DictPath) (b : Block) : Bytes × Block :=
  let (c, b) := b.random32
  (c, b.modTrust fun t => { t with chals := t.chals.filter (fun e => e.1 ≠ (v.path, v.src)) ++ [((v.path, v.src), c)] })

/-- A response: its challenge serves once. -/
def Block.sessionResp (v : DictPath) (sig : Bytes) (b : Block) : Nat × Block :=
  let k := failKey v.path
  if b.lockedOut k then (abState, b)
  else
    let c := List.lookup (v.path, v.src) b.trust.chals
    let b := b.modTrust fun t => { t with chals := t.chals.filter fun e => e.1 ≠ (v.path, v.src) }
    let good := match c, b.slotKey 7 with
      | some c, some key => edVerify key (c ++ b.serialBytes ++ [BitVec.ofNat 8 v.path, 7]) sig
      | _, _ => false
    if !good then (abRange, b.authFail k)
    else
      let b := b.authOk k |>.modTrust fun t => { t with sessions := t.sessions.filter (· ≠ (v.path, v.src)) ++ [(v.path, v.src)] }
      (0, b.extend 5 (shake256 64 sig) |>.note { code := 0x0C07 })

/-- A security session ends; in SERVICE with none left the device resumes (R28). -/
def Block.endSession (path src : Nat) (b : Block) : Block :=
  if !b.trust.sessions.contains (path, src) then b
  else
    let b := b.modTrust fun t => { t with sessions := t.sessions.filter (· ≠ (path, src)) }
    if b.dev = .service && b.trust.sessions.isEmpty then b.resumeReq.2 else b

/-- SESSION_TIMEOUT (R478). -/
def execSessionTimeout (path src : Nat) (s : State) : Host.Outcome State Fault Refusal := onBlk s fun b => b.endSession path src

/-- CHALLENGE_EXPIRY (R478). -/
def execChallengeExpiry (path src : Nat) (s : State) : Host.Outcome State Fault Refusal :=
  onBlk s fun b => b.modTrust fun t => { t with chals := t.chals.filter fun e => e.1 ≠ (path, src) }

/-- AUTH_LOCKOUT_EXPIRY (R479): the count of failures stays. -/
def execAuthLockoutExpiry (iface : Nat) (s : State) : Host.Outcome State Fault Refusal :=
  onBlk s fun b => b.modTrust fun t => { t with fails := SMap.upd (0, 0) iface (fun e => (e.1, 0)) t.fails }

/-! ## Keys (R464, R465) -/

/-- A write to 0x8001:01. -/
def Block.loadKey (n : Nat) (key : Bytes) (b : Block) : Nat × Block :=
  if b.dev ≠ .service then (abState, b)
  else if 10 ≤ n then (abRange, b)
  else
    let d := keyDig key
    let put (b : Block) : Block := b.modTrust fun t => { t with keys := SMap.set [] n key t.keys }
    if !(b.slot n).programmed then (0, put (b.modSlot n fun s => { s with digest := d, programmed := true }))
    else if (b.slot n).digest ≠ d then (abRange, b)
    else (0, put b)

/-- Slot `n` signs the running firmware, a GOOD bank or the active image. -/
def Block.slotUsed (b : Block) (n : Nat) : Bool :=
  let signs (u : Bundle) : Bool := n < 4 && (b.slot n).programmed && u.keyDigest = (b.slot n).digest
  (!b.trust.rom && signs b.runBundle) || ((List.range 2).any fun k => (b.bank k).rec'.state = bkGood && signs (b.bank k).bundle)
    || b.imgSignedBy b.active.bytes n

/-- A write to 0x8001:02. -/
def Block.revokeKey (n : Nat) (b : Block) : Nat × Block :=
  if 10 ≤ n then (abRange, b) else if b.slotUsed n then (abState, b)
  else (0, b.modSlot n fun s => { s with revoked := true })

/-- The vendor debug consent fuse. -/
def Block.blowConsent (b : Block) : Block := { b with otp := { b.otp with consent := true } }

/-! ## Firmware (R470, R472, R473) -/

def bundleMax : Nat := 15 * 2 ^ 20

/-- The bank that a transfer writes. -/
def Block.spareBank (b : Block) : Nat := 1 - b.trust.running

/-- Start of a transfer. -/
def Block.uploadStart (who : Nat × Nat) (b : Block) : Nat × Block :=
  let other := match b.trust.upload with | some (p, s, _) => (p, s) ≠ who | none => false
  if b.runRec.state = bkTrial || b.dict.persist.isSome || other then (abState, b.note { code := 0x2C05 })
  else
    let q := b.runRec.seq + 1
    (0, b.modBank b.spareBank (fun k => { k with bundle := {} })
      |>.putRecord b.spareBank (fun r => { r with state := bkEmpty, tries := 0, seq := q, svn := 0, length := 0, manifest := [] })
      |>.modTrust fun t => { t with upload := some (who.1, who.2, []) })

/-- Bytes of a transfer. -/
def Block.uploadData (who : Nat × Nat) (off : Nat) (v : Bytes) (b : Block) : Nat × Block :=
  match b.trust.upload with
  | some (p, s, m) =>
    if (p, s) ≠ who || m.length ≠ off then (abOrder, b)
    else if bundleMax < m.length + v.length then (abLength, b)
    else (0, b.modTrust fun t => { t with upload := some (p, s, m ++ v) })
  | none => (abOrder, b)

/-- End of a transfer: a valid bundle is PENDING with 0x0C05, any other BAD with 0x2C05; the ROM resets into a valid one (R471). -/
def Block.uploadEnd (b : Block) : Nat × Block :=
  match b.trust.upload with
  | none => (abOrder, b)
  | some (_, _, m) =>
    let u := readBundle m
    let b := b.modTrust (fun t => { t with upload := none }) |>.modBank b.spareBank (fun k => { k with bundle := u })
    let good := b.bundleOk u
    let b := b.putRecord b.spareBank fun r => { r with state := if good then bkPending else bkBad, svn := u.svn, length := u.length, manifest := u.manifest }
    if !good then (abRange, b.note { code := 0x2C05 })
    else
      let b := b.note { code := 0x0C05 }
      (0, if b.trust.rom then b.warmReset else b)

/-- A segment written to 0x8030:01. -/
def Block.uploadSeg (v : DictPath) (off : Nat) (last : Bool) (d : Bytes) (b : Block) : Nat × Block :=
  let (a, b) := if off = 0 then b.uploadStart (v.path, v.src) else (0, b)
  if a ≠ 0 then (a, b)
  else
    let (a, b) := b.uploadData (v.path, v.src) off d
    if a = 0 && last then b.uploadEnd else (a, b)

/-- A write of 1 to 0x8030:05 (R472). -/
def Block.advance (b : Block) : Nat × Block :=
  let o := b.bank b.spareBank
  let st := o.rec'.state
  let ok : Bool := b.runRec.state = bkGood && !b.trust.rom && b.dev = .service
    && (st = bkEmpty || st = bkBad || (st = bkGood && b.runBundle.svn ≤ o.bundle.svn))
  if ok then (0, { b with otp := { b.otp with fwCount := max b.otp.fwCount b.runBundle.svn } }.note { code := 0x0C0A })
  else (abState, b.note { code := 0x2C09 })

/-- A write of 1 to 0x8030:06 (R473). -/
def Block.cancelStaged (b : Block) : Block :=
  b.forN 2 fun k b => b.when ((b.bank k).rec'.state = bkPending) (Block.putRecord k fun r => { r with state := bkBad })

/-- 0x8030:02. -/
def Block.bankStatus (b : Block) : Nat :=
  (b.bank 0).rec'.state + 16 * (b.bank 1).rec'.state + 128 * b.trust.running + 256 * (b.runRec.tries % 4) + 65536 * (b.runRec.seq % 65536)

/-! ## Identity and attestation (R476, R477) -/

def Block.identSeed (b : Block) : Bytes := shake256 57 (b.otp.secret ++ ascii "NH12-IDENTITY")
def Block.aliasSeed (b : Block) : Bytes := shake256 57 (b.otp.secret ++ ascii "NH12-ALIAS" ++ b.trust.derived)

/-- 0x8050:03. -/
def Block.aliasCert (b : Block) : Bytes :=
  let m := edPublic b.aliasSeed ++ List.replicate 7 0 ++ b.trust.derived
  m ++ edSign b.identSeed m ++ [0, 0]

/-- 0x8050:02, served while its digest matches OTP. -/
def Block.identCert (b : Block) : Option Bytes := if shake256 32 b.trust.cert = b.otp.certDigest then some b.trust.cert else none

/-- A report over a nonce. -/
def Block.report (nonce : Bytes) (b : Block) : Bytes :=
  let flags := ofBool b.trust.dbg.open' + 2 * ofBool b.trust.dbg.opened + 4 * ofBool b.unowned
  let m := [0x4E, 0x41, 0x54, 0x52] ++ leBytes 2 1 ++ leBytes 2 724 ++ b.serialBytes ++ leBytes 4 0 ++ leBytes 8 b.turn ++ leBytes 8 b.timeNs
    ++ leBytes 1 b.dev.code ++ leBytes 1 flags ++ leBytes 2 b.runBundle.svn ++ leBytes 4 b.otp.fwCount ++ leBytes 8 b.active.serial
    ++ leBytes 4 b.activeCrc ++ List.replicate 12 0 ++ nonce ++ (List.range 8).flatMap b.meas
  m ++ edSign b.aliasSeed m ++ [0, 0]

/-- A nonce written to 0x8060:01. -/
def Block.attest (v : DictPath) (nonce : Bytes) (b : Block) : Block :=
  let r := b.report nonce
  b.modTrust fun t => { t with reports := t.reports.filter (fun e => e.1 ≠ (v.path, v.src)) ++ [((v.path, v.src), r)] }

/-! ## Link and MACsec keys (R484, R485) -/

/-- A MACsec key of 48 bytes for MAC m, association an. -/
def Block.macKey (tx : Bool) (i : Nat) (v : Bytes) (b : Block) : Block :=
  let m := i / 4
  let an := i % 4
  let key : MacKey := { key := v.take 32, salt := slice 32 12 v, ssci := slice 44 4 v }
  b.modPort (m / 4) fun p => { p with macs := SMap.upd {} (m % 4) (fun c =>
    if tx then { c with tx := SMap.set {} an key c.tx, next := some an } else { c with rx := SMap.set {} an key c.rx }) p.macs }

/-- A rekey request for port k. -/
def Block.rekey (k : Nat) (b : Block) : Nat × Block := if 6 ≤ k then (abRange, b) else (0, if b.portSt k = pUp then b.startKeys k else b)

/-! ## Authenticated debug (R77, R486-R488) -/

def Block.modDbg (f : Dbg → Dbg) (b : Block) : Block := b.modTrust fun t => { t with dbg := f t.dbg }

/-- STATE of DBG_AUTHSTAT, and the seconds of lockout left. -/
def Block.dbgState (b : Block) : Nat :=
  if b.trust.dbg.open' then 2 else if b.lockedOut 0 then 3 else if b.trust.dbg.chal.isSome then 1 else 0
def Block.dbgLockSec (b : Block) : Nat := ((b.failsOf 0).2 - b.timeNs + 999999999) / 1000000000

/-- START: a new challenge, and the token position 0. -/
def Block.dbgStart (b : Block) : Block :=
  if b.lockedOut 0 then b
  else
    let (c, b) := b.random32
    b.modDbg (fun d => { d with chal := some c, token := [] }) |>.forN 4 fun k b => b.setR .DBG_CHAL (leAt (8 * k) 8 c) k

/-- Four token bytes. -/
def Block.dbgResp (v : Nat) (b : Block) : Block := b.modDbg fun d => { d with token := (d.token ++ leBytes 4 v).take 164 }

/-- The mode in which a halted hart resumes (dcsr.prv and dcsr.v). -/
def resumeMode (dcsr : Nat) : Priv :=
  match bits dcsr 0 1, bit dcsr 5 with
  | 0, false => .u | 0, true => .vu | 1, false => .s | 1, true => .vs | _, _ => .m

/-- The end of a session: harts that it halted resume, triggers clear. -/
def Block.dbgEnd (b : Block) : Block :=
  if !b.trust.dbg.open' then b
  else
    b.mapHarts (fun _ t =>
        let t := { t with trig := [] }
        if t.dbg then { t with dbg := false, pc := SMap.get 0 0x7B1 t.csr, priv := resumeMode (SMap.get 0 0x7B0 t.csr) } else t)
      |>.modDbg (fun d => { d with open' := false, expiry := 0, progbuf := [], data := 0, cmdErr := 0 })
      |>.put DBG_AUTHSTAT_SCOPE 0

/-- SUBMIT. -/
def Block.dbgSubmit (b : Block) : Block :=
  let d := b.trust.dbg
  if b.lockedOut 0 then b
  else
    let t := d.token
    let n := leAt 38 1 t
    let good : Bool := t.length = 164 && d.chal = some (t.take 32) && slice 32 4 t = b.serialBytes && leAt 39 1 t = 0 && leAt 162 2 t = 0 && (n = 8 || (n = 9 && b.otp.consent)) && b.turn < leAt 40 8 t
      && match b.slotKey n with | some k => edVerify k (t.take 48) (slice 48 114 t) | none => false
    let b := b.modDbg fun d => { d with chal := none, token := [] }
    if !good then b.put DBG_AUTHSTAT_FAIL 1 |>.authFail 0
    else
      b.authOk 0 |>.put DBG_AUTHSTAT_SCOPE (leAt 36 2 t % 32) |>.modDbg (fun d => { d with open' := true, opened := true, expiry := leAt 40 8 t })
        |>.extend 5 (shake256 64 t) |>.note { code := 0x0C08 }

/-- DBG_AUTHCTL. -/
def Block.dbgCtl (v : Nat) (b : Block) : Block :=
  b.when (bit v 0) Block.dbgStart |>.when (bit v 1) Block.dbgSubmit |>.when (bit v 2) Block.dbgEnd

def execDbgStart (s : State) : Host.Outcome State Fault Refusal := onBlk s fun b => if b.govHalted then b else b.dbgStart
def execDbgRespWrite (value : Nat) (s : State) : Host.Outcome State Fault Refusal := onBlk s fun b => b.dbgResp value
def execDbgSubmit (s : State) : Host.Outcome State Fault Refusal := onBlk s fun b => if b.govHalted then b else b.dbgSubmit
/-- DBG_END (R488): END, or the turn reached EXPIRY. -/
def execDbgEnd (s : State) : Host.Outcome State Fault Refusal := onBlk s fun b => b.dbgEnd

/-- HALT_REQUEST (R77, R486): dpc and dcsr as Sdext gives them. -/
def execHaltRequest (sail core : Nat) (s : State) : Host.Outcome State Fault Refusal :=
  onBlk s fun b =>
    let h := sail * 32 + core
    if !b.dbgHarts || 12 ≤ sail || 16 ≤ core || !b.executing h then b
    else b.enterDebug h 3

/-- The register that an Access Register command names: CSRs below 0x1000, x registers at 0x1000, f registers at 0x1020. -/
def Block.absRead (b : Block) (h n : Nat) : Option Nat :=
  if n < 0x1000 then some (b.csrReadM h n) else if n < 0x1020 then some (b.xreg h (n - 0x1000))
  else if n < 0x1040 then some (SMap.get 0 (n - 0x1020) (b.hart h).f) else none
def Block.absWrite (h n v : Nat) (b : Block) : Block :=
  if n < 0x1000 then b.csrPutM h n v else if n < 0x1020 then b.setX h (n - 0x1000) v
  else b.modHart h fun t => { t with f := SMap.set 0 (n - 0x1020) (v % 2 ^ 64) t.f }

/-- The program buffer runs after a command that asks for it; an exception there sets error code 3. -/
def Block.postExec (h : Nat) (exec : Bool) (b : Block) : Block :=
  if !exec then b
  else match b.pbRun h b.trust.dbg.progbuf with
    | (true, b) => b
    | (false, b) => b.modDbg fun d => { d with cmdErr := 3 }

/-- ABSTRACT_COMMAND (R72, R142, R486): registers of a hart that the session halted, memory and scratch as master 0x1F0, the program buffer and the triggers. A
command that fails sets the error code of the debug module: 2 not supported, 3 exception or no right, 4 hart not halted, 5 bus error. -/
def execAbstractCommand (sail core : Nat) (cmd : AbsCmd) (s : State) : Host.Outcome State Fault Refusal :=
  onBlk s fun b =>
    let h := sail * 32 + core
    let fail (c : Nat) : Block := b.modDbg fun d => { d with cmdErr := c }
    match cmd with
    | .reg n write exec =>
      if !b.dbgHarts then fail 3
      else if !(b.hart h).dbg then fail 4
      else if 0x1040 ≤ n then fail 2
      else match write with
        | some v => b.absWrite h n v |>.modDbg (fun d => { d with cmdErr := 0 }) |>.postExec h exec
        | none =>
          let v := (b.absRead h n).getD 0
          b.modDbg (fun d => { d with data := v, cmdErr := 0 }) |>.emit (.value v) |>.postExec h exec
    | .mem pa width write =>
      if !b.scope 4 then fail 3
      else if !(width = 1 || width = 2 || width = 4 || width = 8) || pa % width ≠ 0 then fail 2
      else if b.decodePa pa = .scratch then
        (if !b.sailServes midDebug ((pa - scratchBase) / 0x1000000) then fail 5
         else match write with
          | some v => b.scrWrite pa (leBytes width v) false |>.modDbg fun d => { d with cmdErr := 0 }
          | none =>
            let (v, p, e) := b.scrRead pa width
            if p || e then fail 5 else b.modDbg (fun d => { d with data := leNat v, cmdErr := 0 }) |>.emit (.value (leNat v)))
      else if !b.dramOk pa then fail 5
      else match write with
        | some v => b.writeBytes midDebug noPart pa (leBytes width v) |>.modDbg fun d => { d with cmdErr := 0 }
        | none =>
          let (v, b) := b.readNat midDebug noPart pa width
          if v.2 then b.modDbg fun d => { d with cmdErr := 5 } else b.modDbg (fun d => { d with data := v.1, cmdErr := 0 }) |>.emit (.value v.1)
    | .progbuf i v =>
      if !b.dbgHarts then fail 3 else if 8 ≤ i then fail 2
      else b.modDbg fun d => { d with progbuf := (d.progbuf ++ List.replicate (8 - d.progbuf.length) 0).set i (v % 2 ^ 32) }
    | .trigger i d1 d2 =>
      if !b.dbgHarts then fail 3 else if 8 ≤ i then fail 2
      else b.modTrig h i fun _ => { d1 := d1 % 2 ^ 64, d2 := d2 % 2 ^ 64 }

end Sys2Proof.Machine
end

