-- ==== Sys2Proof/Machine/PciReq.lean ====
section
/-! DEFINITION. Outbound PCIe requests and their completions (R386-R389, R403, R404). -/

namespace Sys2Proof.Machine

/-- What an I/O access gets: an access error, a value, bytes with their poison flag, nothing (a write), an access error that the register itself
gave, or a completion that comes later. -/
inductive IoAns where
  | err
  | val (v : Nat)
  | data (v : Bytes) (poison : Bool)
  | done
  | denied
  | later
deriving DecidableEq, Repr

/-- The root port's own Type 1 header: words written, else what the spec does not give. -/
def Block.rootWord (b : Block) (k off : Nat) : Nat := SMap.get (Config.configWord k 0 (off / 4 * 4)) (off / 4 * 4) (b.psub k).cfg

/-- Secondary and subordinate bus numbers of a root port. -/
def Block.secBus (b : Block) (k : Nat) : Nat := bits (b.rootWord k 0x18) 8 15
def Block.subBus (b : Block) (k : Nat) : Nat := bits (b.rootWord k 0x18) 16 23

/-- A configuration access of the root port's own header. -/
def Block.ownConfig (k off width : Nat) (wdata : Option Nat) (b : Block) : IoAns × Block :=
  let lo := 8 * (off % 4)
  match wdata with
  | none => (.val (bits (b.rootWord k off) lo (lo + 8 * width - 1)), b)
  | some v =>
    let w := setBits (b.rootWord k off) lo (lo + 8 * width - 1) v
    let w := if off / 4 * 4 = 0 then b.rootWord k 0 else w
    (.done, b.modSub k fun s => { s with cfg := SMap.insert (off / 4 * 4) w s.cfg })

/-- The requester ID (R388): function i of an endpoint for the traffic of instance i that it owns, else the sub-port's own, function 0. -/
def Block.requesterId (b : Block) (k : Nat) (inst : Option Nat) : Nat :=
  match inst with | some i => if b.isEp k && b.ownKind i = 2 then i else 0 | none => 0

/-- Send a non-posted request. -/
def Block.sendNonPosted (k mid txid rid addr paddr width : Nat) (wdata : Option Nat) (cfg vendor : Bool) (b : Block) : IoAns × Block :=
  (.later, b.tagIssue {
    req := { sub := k, tag := 0, mid := mid, txid := txid, addr := addr, width := width, cfg := cfg, vendorId := vendor }
    rid := rid, paddr := paddr, wdata := wdata })

/-- A hub request to outbound space (R280, R387-R389, R405, R408). A write of an output outside RUN and DEGRADED is dropped; it completes all the same. -/
def Block.outbound (mid : Nat) (part inst : Option Nat) (txid addr width : Nat) (wdata : Option Nat) (b : Block) : IoAns × Block :=
  let k := b.obSub addr
  let off := addr - b.obBase k
  let rid := b.requesterId k inst
  let replicated : Bool := match part with | some p => decide (2 ≤ b.pMode p) | none => false
  let ecam : Bool := b.isSet PCI_SCTL_ECAMEN k && !b.isEp k && decide (off < 2 ^ 28)
  if wdata.isSome && replicated then (.err, b.note { code := 0x270F, mid := some mid })
  else if b.subCount ≤ k || b.subSt k = sFrozen || (b.fn rid).d3 then (.err, b)
  else if ecam && (4 < width || width = 0 || 4 < off % 4 + width) then (.err, b)
  else if ecam && off < 0x1000 then b.ownConfig k off width wdata
  else if ecam && bits off 20 27 = 0 then (.err, b)
  else if !ecam && wdata.isSome && part.isSome && !b.outputsOn then
    (.done, b.inc PCI_CTO_DROPPED k |>.noteOnce k (pciFault 0x0A0D k))
  else if b.subSt k ≠ sUp then (.err, b)
  else if ecam then b.sendNonPosted k mid txid rid addr off width wdata true (off % 4096 = 0 && wdata.isNone)
  else
    let pa := b.getR .PCI_OBOFF k + off
    match wdata with
    | some _ => (.done, b.emit (.tlp k rid none pa width wdata false))
    | none => b.sendNonPosted k mid txid rid addr pa width none false false

/-- A completion answers its requester with data, or with ERR. -/
def Block.tagDone (t : PciTag) (v : Option Nat) (b : Block) : Block :=
  match v with
  | some v => b.emit (.value v) |>.emit (.ioComp t.mid t.txid t.addr false v)
  | none => b.emit .accessError |>.emit (.ioComp t.mid t.txid t.addr true 0)

end Sys2Proof.Machine
end

