-- ==== Sys2Proof/Machine/RegIo.lean ====
section
/-! DEFINITION. I/O accesses (R10-R12, R17-R19, R419): the address map, the registers behind it with their access types, what a read of a live register
shows, and what a write of a register with behaviour of its own does. -/

namespace Sys2Proof.Machine

/-! ## Register places -/

/-- One index of a register array out of an offset, and what is left. -/
def peel (off : Nat) (d : Nat × Nat) : Nat × Nat := if d.1 = 0 then (0, off) else (min (off / d.1) (d.2 - 1), off - min (off / d.1) (d.2 - 1) * d.1)

/-- The element of a register at an address. -/
def Reg.element (r : Reg) (pa : Nat) : Option (Nat × Nat × Nat) :=
  let d := r.desc
  if pa < d.base then none
  else
    let a := peel (pa - d.base) d.d1
    let c := peel a.2 d.d2
    let e := peel c.2 d.d3
    if e.2 = 0 then some (a.1, c.1, e.1) else none

/-- The register at an address. -/
def regAt (pa : Nat) : List Reg → Option (Reg × Nat × Nat × Nat)
  | [] => none
  | r :: l => match r.element pa with | some x => some (r, x) | none => regAt pa l

/-- The bits that a read shows: reserved and write-only bits read 0 (R11). -/
def RegDesc.readMask (d : RegDesc) : Nat :=
  d.fields.foldl (fun m f => if f.ty = .wo then m else setBits m f.lo f.hi (2 ^ (f.hi + 1 - f.lo) - 1)) 0

/-! ## Live registers -/

/-- GOV_DEVSTATE: STATE, OUTEN, PREV, ACTIVE, PRESENT. -/
def Block.devStateWord (b : Block) : Nat :=
  b.dev.code + 16 * ofBool b.outputsOn + 256 * (match b.prev with | some d => d.code | none => 0) + 65536 * b.activeSails.length
    + 2 ^ 20 * (12 - popcount 12 b.otp.fused)

/-- GOV_STATUS, with the commanded levels of FAULT_OUT. -/
def Block.govStatus (b : Block) : Nat := setBits (setBits (b.getR .GOV_STATUS) 4 4 (ofBool b.foutA)) 5 5 (ofBool b.foutB)

/-- GOV_MIRAGE: the age of the mirror in us, saturating. -/
def Block.mirrorAge (b : Block) : Nat := min ((b.timeNs - b.gov.mirrorNs) / 1000) (2 ^ 32 - 1)

/-- CLU_STAT of cluster k of sail n. -/
def Block.clusterStat (b : Block) (n k : Nat) : Nat :=
  let hs (f : Nat → Bool) : Nat := maskOf 4 fun j => f (4 * k + j)
  let off (c : Nat) : Bool := bit (b.get SAIL_COREDIS_DIS n) c
  let h (c : Nat) : Hart := b.hart (n * 32 + c)
  let run := hs fun c => (h c).run && !off c && (b.sail n).op0 ≠ 2
  run + 16 * hs (fun c => !(h c).run || (h c).dbg) + 256 * hs off + 4096 * hs (fun c => (h c).pin.isSome) + 65536 * hs (fun c => (h c).fault)
    + 2 ^ 24 * ofBool (run = 0)

/-- The digest that BLT_DIGSEL names. -/
def Block.shownDigest (b : Block) : Digest :=
  ((b.repl (b.get BLT_DIGSEL_PART) (b.get BLT_DIGSEL_REPL)).digs.getLast?).getD {}

/-- What a register holds at this instant. -/
def Block.liveReg (b : Block) (r : Reg) (i j k : Nat) : Nat :=
  match r with
  | .GOV_DEVSTATE => b.devStateWord
  | .GOV_STATUS => b.govStatus
  | .GOV_MIRAGE => b.mirrorAge
  | .TRN_PHASE => b.phaseNs % 2 ^ 24
  | .TRN_STATUS => setBits (b.getR .TRN_STATUS) 3 3 (ofBool (b.commit.state = 2))
  | .SAIL_ID => i + 256 * b.get FLM_CAPWORD_REV i + 65536 * b.get FLM_CAPWORD_CAPLVL i
  | .CLU_STAT => b.clusterStat i j
  | .BLT_DIGSEL =>
    let d := b.getR .BLT_DIGSEL % 256
    d + 256 * ofBool (b.repl (b.get BLT_DIGSEL_PART) (b.get BLT_DIGSEL_REPL)).lastValid + 512 * ofBool b.shownDigest.poisoned
  | .BLT_COPY => if b.get BLT_COPY_KIND = 0 then b.getR .BLT_COPY else setBits (b.getR .BLT_COPY) 16 47 (Config.copyDone b.timeNs % (b.copyBytes / 4096 + 1))
  | .BLT_DIGTURN => b.shownDigest.turn
  | .PCI_IWSTAT => setBits (b.getR .PCI_IWSTAT) 18 31 (b.get PCI_IWSTAT_OLDPEND - Config.oldDone b.timeNs)
  | .BLT_DIG => leAt (8 * i) 8 b.shownDigest.bytes
  | .DBG_AUTHSTAT => setBits (setBits (b.getR .DBG_AUTHSTAT) 0 1 b.dbgState) 16 31 b.dbgLockSec
  | _ => b.getR r i j k

/-- A read of a register by its access types: the partition-relative ones under R151, all others as they stand. -/
def Block.regRead (b : Block) (part : Option Nat) (r : Reg) (i j k : Nat) : Option Nat :=
  match r with
  | .MST_PDB => (b.mstReach i part).map fun _ => 0
  | .MST_PCTL => (b.mstReach i part).map fun _ => 0
  | .MST_PQPTR => (b.mstReach i part).map fun n => (b.mq i n j).head + 65536 * (b.mq i n j).tail
  | .MST_PQSTAT => (b.mstReach i part).map fun n => let q := b.mq i n j; ofBool q.stopped + 2 * ofBool q.err + 16 * q.code
  | .BLT_PSEALTURN => match part with | some p => if b.partLive p then some (b.part p).sealTurn else none | none => none
  | .BLT_PABANDON => match part with | some p => if b.partLive p then some 0 else none | none => none
  | _ => some (Nat.land (b.liveReg r i j k) r.desc.readMask)

/-! ## Writes -/

/-- An access error to a writer that is none of the masters named, with the fault of its rule. -/
def Block.denied (mid code : Nat) (b : Block) : Block := b.emit .accessError |>.note { code := code, mid := some mid }

/-- COMMIT of the inbound window table (R394, R396). -/
def Block.windowCommit (mid : Nat) (part : Option Nat) (v : Nat) (b : Block) : Block :=
  if !b.isManager mid part true then b.denied mid 0x2A02
  else if b.isSet PCI_IWSTAT_BUSY then b.put PCI_IWSTAT_BUSYWR 1
  else b.when (bit v 0) (Block.commitStart mid)

/-- A write of the staged window table (R394, R396). -/
def Block.windowStage (mid : Nat) (part : Option Nat) (r : Reg) (i v : Nat) (b : Block) : Block :=
  if !b.isManager mid part true then b.denied mid 0x2A02
  else if b.isSet PCI_IWSTAT_BUSY then b.put PCI_IWSTAT_BUSYWR 1
  else b.plainWrite r i 0 0 v

/-- A partition-relative write of a queue (R151). -/
def Block.queueWrite (part : Option Nat) (n : Nat) (f : Nat → Block → Block) (b : Block) : Block :=
  match b.mstReach n part with | some i => f i b | none => b.emit .accessError

/-- A write of a register by a master: who may write it, what it does beyond its access types, or the plain write. -/
def Block.regWrite (mid : Nat) (part : Option Nat) (r : Reg) (i j k v : Nat) (b : Block) : Block :=
  if r.desc.wr = .gov && mid ≠ midGov then b.emit .accessError
  else match r with
  | .EVT_CFG => b.plainWrite r i j k v |>.evtChanged i (b.getR r i j k)
  | .EVT_STAT => b.plainWrite r i j k v |>.when (bit v 2) (Block.evtRearm i)
  | .L3_WAYMASK => b.maskWrite mid i .wayMask j v
  | .L3_WAYLOCK => b.maskWrite mid i .wayLock 0 v
  | .L3_LOCKOWN => b.maskWrite mid i .lockOwn j v
  | .L3_MNT_CTL =>
    if bit v 4 then b.mntStart i mid v else if b.isSet L3_MNT_STATUS_BUSY i then b.put L3_MNT_STATUS_BUSYWR 1 i else b.plainWrite r i j k v
  | .L3_MNT_BASE => if b.isSet L3_MNT_STATUS_BUSY i then b.put L3_MNT_STATUS_BUSYWR 1 i else b.plainWrite r i j k v
  | .L3_MNT_LIMIT => if b.isSet L3_MNT_STATUS_BUSY i then b.put L3_MNT_STATUS_BUSYWR 1 i else b.plainWrite r i j k v
  | .CLU_MTIMECMP =>
    b.plainWrite r i j k v |>.modHart (i * 32 + 4 * j + k) fun t => { t with mtip := decide (v ≤ b.timeCsr) }
  | .MST_PDB => b.queueWrite part i fun n b => b.ring i n j (v % 8192)
  | .MST_PQPTR => b.queueWrite part i fun _ b => b
  | .MST_PQSTAT => b.queueWrite part i fun n b => if bit v 1 then b.modMq i n j fun q => { q with err := false } else b
  | .MST_PCTL => b.queueWrite part i fun n b => if bit v 0 then b.mstCtl i n j (bit v 1) else b
  | .HOM_CFG => b.trackMode (bit v 0)
  | .MRC_RTBL => b.routeWrite mid i j k v
  | .MRC_SWAP => if bit v 0 then b.swapReq mid else b
  | .FLM_CTL => b.when (bit v 0) (Block.retrain i 0 mid) |>.when (bit v 1) (Block.retrain i 1 mid)
  | .BLT_PABANDON => b.abandonWrite mid v
  | .BLT_PSEALTURN => match part with | some p => if b.partLive p then b else b.emit .accessError | none => b.emit .accessError
  | .SLC_IDB => b.ringBell mid part (bits v 0 7) (bits v 8 10) (bits v 16 31)
  | .SLC_MCMD => b.managerWord mid part v
  | .SLC_MDATA => if b.isManager mid part true then b.plainWrite r i j k v else b.denied mid 0x2908
  | .HOP_MNT_CTL =>
    if bit v 18 then b.hopStart mid v else if b.isSet HOP_MNT_STATUS_BUSY then b.put HOP_MNT_STATUS_BUSYWR 1 else b.plainWrite r i j k v
  | .PCI_SCTL =>
    if !b.isManager mid part false then b.denied mid 0x2A02
    else b.plainWrite r i j k v |>.when (bit v 0) (Block.releaseReq mid part i false)
  | .PCI_CTO => if b.isManager mid part false then b.plainWrite r i j k v else b.denied mid 0x2A02
  | .PCI_OBOFF => if b.isManager mid part false then b.plainWrite r i j k (v / b.obSize * b.obSize) else b.denied mid 0x2A02
  | .PCI_IWCTL => b.windowCommit mid part v
  | .PCI_IWS0 => b.windowStage mid part r i v
  | .PCI_IWS1 => b.windowStage mid part r i v
  | .PCI_HINT => if 16 ≤ v % 2048 then b.sendVec 0 (v % 2048) else b
  | .GOV_HOLDREQ => b.holdKey v false
  | .GOV_FOUTCTL => if b.dev = .service then b.plainWrite r i j k v else b
  | .DBG_AUTHCTL => if b.govHalted then b else b.dbgCtl v
  | .DBG_RESP => b.dbgResp v
  | _ => b.plainWrite r i j k v

/-! ## The address map -/

/-- A 32-byte entry of the fault log as bytes (R525). -/
def FEntry.bytes (e : FEntry) : Bytes := leBytes 8 e.time ++ leBytes 6 e.turn ++ leBytes 2 e.code ++ leBytes 2 e.src ++ leBytes 6 e.addr ++ leBytes 8 e.detail

/-- Bytes of the governor shared window (R419, R525, R528): the fault log, then the first-fault record. -/
def Block.govWindow (b : Block) (off n : Nat) : Option Bytes :=
  if off < 0x8000 then some (slice (off % 32) n (SMap.get {} (off / 32) b.flog.ring).bytes)
  else if off < 0x8200 then some (slice (off % 32) n (b.flog.first.getD ((off - 0x8000) / 32) {}).bytes)
  else none

/-- A natural access width of the hub. -/
def okWidth (pa width : Nat) : Bool := (width = 1 || width = 2 || width = 4 || width = 8) && pa % width = 0

/-- An access error that the hub's decode gives (R18). -/
def Block.decodeErr (mid pa : Nat) (b : Block) : IoAns × Block := (.err, b.note { code := 0x2503, mid := some mid, addr := some pa })

/-- The sail of an address in scratch or sail control space may be reached (R18). -/
def Block.sailOpen (b : Block) (mid base pa : Nat) : Bool :=
  b.sailServes mid ((pa - base) / 0x1000000)

/-- The rights of the debug master (R486): control space to read, memory; every other master has no need of them. -/
def Block.debugMay (b : Block) (mid : Nat) (control write : Bool) : Bool := mid ≠ midDebug || (if control then b.scope 0 && !write else b.scope 4)

/-- A read of control space. -/
def Block.controlRead (mid : Nat) (part : Option Nat) (pa width : Nat) (b : Block) : IoAns × Block :=
  if mbxBase ≤ pa && pa < mbxBase + 0x200000 then
    match b.mbxRead mid part (pa - mbxBase) width with | (some v, b) => (.val v, b) | (none, b) => (.err, b)
  else if (fileOf pa).isSome then (if width = 4 && pa % 4 = 0 then .val 0 else .err, b)
  else if iotBase < pa && pa < iotBase + 0x1000 then
    (if iotWidth (pa - iotBase) = width then .val (b.iotG (pa - iotBase)) else .err, b)
  else match regAt pa Reg.all with
    | some (r, i, j, k) =>
      if r.desc.width = 8 * width then (match b.regRead part r i j k with | some v => .val v | none => .err, b) else (.err, b)
    | none => (.err, b)

/-- The answer of a register write: an access error where the register gave one. -/
def Block.writeAns (old b : Block) : IoAns × Block := (if (b.out.drop old.out.length).contains .accessError then .denied else .done, b)

/-- A write of control space. -/
def Block.controlWrite (mid : Nat) (part : Option Nat) (pa width v : Nat) (b : Block) : IoAns × Block :=
  if mbxBase ≤ pa && pa < mbxBase + 0x200000 then
    match b.mbxWrite mid part (pa - mbxBase) width v with | (true, b) => (.done, b) | (false, b) => (.err, b)
  else match fileOf pa with
    | some page => if width = 4 && pa % 4 = 0 then (.done, if pa % 4096 = 0 then b.filePend page v else b) else (.err, b)
    | none =>
      if iotBase < pa && pa < iotBase + 0x1000 then
        if iotWidth (pa - iotBase) = width then (.done, b.iotWrite (pa - iotBase) v) else (.err, b)
      else match regAt pa Reg.all with
        | some (r, i, j, k) => if r.desc.width = 8 * width then Block.writeAns b (b.regWrite mid part r i j k (v % 2 ^ r.desc.width)) else (.err, b)
        | none => (.err, b)

/-- IoRd at the hub. -/
def Block.ioRead (mid : Nat) (part : Option Nat) (pa width : Nat) (b : Block) : IoAns × Block :=
  match b.decodePa pa with
  | .reserved => b.decodeErr mid pa
  | .dram => (.err, b)
  | .pcie => if b.debugMay mid false false then b.outbound mid part none 0 pa width none else (.err, b)
  | .scratch =>
    if !b.sailOpen mid scratchBase pa then b.decodeErr mid pa
    else if !okWidth pa width || !b.debugMay mid false false then (.err, b)
    else let (v, p, e) := b.scrRead pa width; (.data v (p || e), b)
  | .sailCtl =>
    if !b.sailOpen mid sailCtl pa then b.decodeErr mid pa
    else if !b.debugMay mid true false then (.err, b) else b.controlRead mid part pa width
  | .hubCtl => if b.debugMay mid true false then b.controlRead mid part pa width else (.err, b)
  | .govWin =>
    if b.govHalted || !okWidth pa width then (.err, b)
    else match b.govWindow (pa - 0xFFF0000000) width with | some v => (.data v false, b) | none => (.err, b)

/-- IoWr at the hub. -/
def Block.ioWrite (mid : Nat) (part : Option Nat) (pa width v : Nat) (b : Block) : IoAns × Block :=
  match b.decodePa pa with
  | .reserved => b.decodeErr mid pa
  | .dram => (.err, b)
  | .pcie => if b.debugMay mid false true then b.outbound mid part none 0 pa width (some v) else (.err, b)
  | .scratch =>
    if !b.sailOpen mid scratchBase pa then b.decodeErr mid pa
    else if !okWidth pa width || !b.debugMay mid false true then (.err, b)
    else (.done, b.scrWrite pa (leBytes width v) false)
  | .sailCtl =>
    if !b.sailOpen mid sailCtl pa then b.decodeErr mid pa
    else if !b.debugMay mid true true then (.err, b) else b.controlWrite mid part pa width v
  | .hubCtl => if b.debugMay mid true true then b.controlWrite mid part pa width v else (.err, b)
  | .govWin => (.err, b)

/-- What the requester gets. -/
def Block.ioAnswer (r : IoAns × Block) : Block :=
  match r.1 with
  | .err => r.2.emit .accessError
  | .val v => r.2.emit (.value v)
  | .data v p => r.2.emit (.data v p)
  | .done => r.2
  | .denied => r.2
  | .later => r.2

/-- The same with the IoComp that carries it to its requester (R214). A poisoned answer travels as an error (DEDUCED: IO_COMP has no other word for it). -/
def Block.ioDone (mid addr : Nat) (r : IoAns × Block) : Block :=
  let b := Block.ioAnswer r
  match r.1 with
  | .err => b.emit (.ioComp mid 0 addr true 0)
  | .val v => b.emit (.ioComp mid 0 addr false v)
  | .data v p => b.emit (.ioComp mid 0 addr p (leNat v))
  | .done => b.emit (.ioComp mid 0 addr false 0)
  | .denied => b.emit (.ioComp mid 0 addr true 0)
  | .later => b

/-! ## The rows -/

/-- IO_RD (R10, R18, R214). -/
def execIoRd (mid : Nat) (part : Option Nat) (addr width : Nat) (s : State) : Host.Outcome State Fault Refusal :=
  onBlk s (Block.taking (.ioRd mid part addr width) fun b => Block.ioDone mid addr (b.ioRead mid part addr width))

/-- IO_WR (R10, R18, R214). -/
def execIoWr (mid : Nat) (part : Option Nat) (addr width value : Nat) (s : State) : Host.Outcome State Fault Refusal :=
  onBlk s (Block.taking (.ioWr mid part addr width value) fun b => Block.ioDone mid addr (b.ioWrite mid part addr width value))

/-- The change that hardware makes to a register at an address in the cycle of a write (R12): `f` is what it does. -/
def Block.hwCycle (addr v : Nat) (f : Reg → Nat → Nat → Nat → Nat → Block → Block) (b : Block) : Block :=
  match regAt addr Reg.all with
  | some (r, i, j, k) => b.when (v ≠ 0) (f r i j k v)
  | none => b

/-- REGISTER_WRITE (R10-R12): a register by its address, or a CSR of a hart. `hwClr` and `hwSet`: the W1S bits that hardware clears and the W1C
bits that it sets in the cycle of the write; both then read as R12 says. -/
def execRegisterWrite (target : WriteTarget) (value hwSet hwClr : Nat) (s : State) : Host.Outcome State Fault Refusal :=
  onBlk s fun b =>
    match target with
    | .mem mid part addr width =>
      let r := (b.hwCycle addr hwClr Block.hwClear).ioWrite mid part addr width value
      Block.ioAnswer (r.1, r.2.hwCycle addr hwSet Block.hwSet)
    | .csr sail core num dst op => if 16 ≤ core then b else b.instr (sail * 32 + core) (Block.csrAccess (sail * 32 + core) num dst op value)

/-- IO_COMP (R214): the hart that awaited it goes on with the data, or takes an access fault. -/
def execIoComp (mid txid : Nat) (err : Bool) (data : Nat) (s : State) : Host.Outcome State Fault Refusal :=
  onBlk s (Block.taking (.ioComp mid txid err data) fun b =>
    match (b.hart mid).io with
    | none => b
    | some w =>
      let b := b.modHart mid (fun t => { t with io := none }) |>.ioRetired mid
      if err then b.takeTrap mid { cause := match w.dst with | some _ => 5 | none => 7, tval := w.va }
      else match w.dst with
        | some (dst, signed) => b.setDst mid dst w.width (data % 2 ^ (8 * w.width)) signed
        | none => b)

end Sys2Proof.Machine
end

