-- ==== Sys2Proof/Machine/Dict.lean ====
section
/-! DEFINITION. The object dictionary (R436-R447, R562): values, writes, segments, messages, the PCIe dictionary window, MCAN. -/

namespace Sys2Proof.Machine

/-! ## Values -/

/-- A register as a read of it shows it. -/
def Block.look (b : Block) (r : Reg) (i : Nat := 0) (j : Nat := 0) (k : Nat := 0) : Nat := Nat.land (b.liveReg r i j k) r.desc.readMask

/-- 0x1F00:02. -/
def Block.commitWord (b : Block) : Nat :=
  let c := b.commit
  c.state + 16 * c.path + 256 * c.result + 65536 * (c.detail % 2 ^ 24) + 2 ^ 40 * (c.turn % 2 ^ 24)

/-- 0x1F00:08. -/
def Block.slotWord (b : Block) : Nat :=
  match b.currentSlot with
  | none => 0
  | some k => k + 1 + 128 * ofBool ((b.cfgSlot k).image = b.activeBytes)

/-- The bits set in MRC_HALF. -/
def Block.halvedLinks (b : Block) : Nat := (List.range 4).foldl (fun a k => a + popcount 32 (b.getR .MRC_HALF k)) 0

/-- Objects 0x1000 to 0x1FFF that are CONST or RO numbers. -/
def Block.roComm (b : Block) (idx sub : Nat) : Nat :=
  match idx, sub with
  | 0x1018, 1 => b.otp.vendor
  | 0x1018, 2 => b.otp.product
  | 0x1018, 3 => b.otp.revision
  | 0x1018, 4 => b.otp.serial
  | 0x1100, 2 => b.devStateWord
  | 0x1100, 3 => b.look .GOV_CAP
  | 0x1100, 4 => maskOf 12 fun n => !bit b.otp.fused n
  | 0x1100, 5 => maskOf 12 b.active?
  | 0x1100, 6 => b.capBytes / 2 ^ 30
  | 0x1110, _ => b.look .GOV_SAILSTAT (sub - 1)
  | 0x1F00, 2 => b.commitWord
  | 0x1F00, 3 => imgCrc b.dict.staged.bytes
  | 0x1F00, 4 => b.activeCrc
  | 0x1F00, 5 => b.active.serial
  | 0x1F00, 6 => ofBool b.dict.staged.signed + 2 * ofBool b.dict.incomplete
  | 0x1F00, 7 => match b.commit.claim with | some (p, s) => p + 256 * s | none => 0
  | 0x1F00, 8 => b.slotWord
  | 0x1F02, 3 => b.otp.sigPolicy
  | _, _ => 0

/-- Objects of diagnostics that are numbers. -/
def Block.roDiag (b : Block) (idx sub : Nat) : Nat :=
  let s := sub - 1
  if idx = 0x7000 then (match sub with | 1 => b.look .GOV_FLOGIDX | 2 => b.look .GOV_HOLDCAUSE | _ => ofBool b.foutA + 2 * ofBool b.foutB)
  else if idx = 0x7002 then SMap.get 0 s b.flog.counts
  else if idx = 0x7010 then (match sub with | 1 => b.look .GOV_STATUS | 2 => b.look .MBX_ERR | 3 => b.look .GOV_STICKY | _ => b.mirrorAge)
  else if idx ≤ 0x720B then b.get L3_WAYDIS_DIS (idx - 0x7200) s
  else if idx = 0x7210 then (if sub = 1 then b.look .IOT_XSTAT else b.gov.binvTimeouts)
  else if idx ≤ 0x722B then
    let n := idx - 0x7220
    match sub with | 1 => b.look .MST_STATUS n | 2 => (b.mst n).fixes | _ => (b.mst n).done
  else if idx = 0x7230 then (if sub = 9 then b.look .HOM_SFERR else b.look .HOM_STATUS s)
  else if idx = 0x7240 then (if sub = 0xD then b.look .MRC_EPOCH else if sub = 0xE then b.halvedLinks else b.look .FLM_STATUS s)
  else if idx = 0x7241 then b.look .FLM_CAPWORD s
  else if idx = 0x7250 then b.look .MC_STATUS s
  else if idx = 0x7251 then b.look .MC_ECCCNT s
  else if idx = 0x7260 then b.look .BLT_PSTAT s
  else if idx = 0x7261 then b.look .BLT_PCNT s
  else if idx = 0x7262 then b.look .BLT_PPLACE s
  else if idx ≤ 0x7285 then (if sub = 1 then b.look .LVP_STATUS (idx - 0x7280) else b.look .LVP_LINK (idx - 0x7280))
  else if idx ≤ 0x7295 then b.look .LVP_CNT (idx - 0x7290) s
  else if idx ≤ 0x72B1 then b.look .SLC_ISTAT (128 * (idx - 0x72B0) + s)
  else if idx = 0x72B2 then (if sub = 1 then b.look .SLC_FCSTAT else b.look .HOP_DIS)
  else if idx = 0x72C0 then b.look .PCI_SSTAT s
  else if idx = 0x72C1 then b.look .PCI_SERR s
  else if idx = 0x72D0 then (if sub = 0x15 then b.look .PWR_STATUS else b.look .PWR_TEMP s)
  else if idx = 0x72D1 then b.look .PWR_RAILE s
  else if idx = 0x72D2 then b.look .PWR_PEN s
  else if idx = 0x72D3 then b.look .PWR_PCUM s
  else 0

/-- A calibration object (R459). -/
def Block.roCal (b : Block) (idx sub : Nat) : Nat :=
  let n := idx % 0x100
  ofSigned 32 (if idx < 0x6800 then b.calFactory n ((sub - 1) / 3) ((sub - 1) % 3 + 1) else b.calEff n ((sub - 1) / 2))

/-- 0x8000: programmed, revoked, key supplied. -/
def Block.slotStatus (b : Block) (n : Nat) : Nat :=
  ofBool (b.slot n).programmed + 2 * ofBool (b.slot n).revoked + 4 * ofBool !(SMap.get [] n b.trust.keys).isEmpty

/-- A CONST or RO number. -/
def Block.roNum (b : Block) (idx sub dflt : Nat) : Nat :=
  if sub = 0 then dflt
  else if idx < 0x2000 then b.roComm idx sub
  else if idx = 0x2001 then (match sub with | 1 => b.turn | 2 => b.look .TRN_STATUS | _ => b.getR .TRN_OFFSET)
  else if 0x6000 ≤ idx && idx < 0x6F00 then b.roCal idx sub
  else if idx = 0x6FF0 then b.dict.clamped
  else if 0x7000 ≤ idx && idx < 0x8000 then b.roDiag idx sub
  else if idx = 0x8000 then b.slotStatus (sub - 1)
  else if idx = 0x8030 then (if sub = 2 then b.bankStatus else b.otp.fwCount)
  else if idx = 0x9100 then ofSigned 64 b.svc.timeOffset
  else dflt

/-- A CONST or RO byte string; none where there is nothing to return. -/
def Block.roStr (b : Block) (v : DictPath) (idx sub : Nat) : Option Bytes :=
  if idx = 0x1100 then some b.otp.ordering
  else if idx = 0x1F01 then some (if sub = 2 then b.activeBytes else b.dict.staged.bytes)
  else if 0x7400 ≤ idx && idx ≤ 0x7407 then some (SMap.get {} (128 * (idx - 0x7400) + (sub - 1)) b.flog.ring).bytes
  else if idx = 0x7410 then some (b.flog.first.getD (sub - 1) {}).bytes
  else if idx = 0x8002 then (let k := SMap.get [] (sub - 1) b.trust.keys; if k.isEmpty then none else some k)
  else if idx = 0x8050 then (match sub with | 1 => some (edPublic b.identSeed) | 2 => b.identCert | _ => some b.aliasCert)
  else if idx = 0x8060 then List.lookup (v.path, v.src) b.trust.reports
  else if idx = 0x9200 then some b.otp.entity
  else none

/-- An index that some row defines. -/
def indexDefined (idx : Nat) : Bool := (objRows.any fun r => r.i0 ≤ idx && idx ≤ r.i1) || (calRow idx 0).isSome

/-- The abort code of an object that does not exist. -/
def missing (idx : Nat) : Nat := if indexDefined idx then abNoSub else abNoObj

/-- The present value of an object that is no command (R438, R441). -/
def Block.objValue (b : Block) (v : DictPath) (r : ObjRow) (idx sub : Nat) : Option Bytes :=
  if r.acc.isConfig then some (b.act idx sub)
  else match r.ty.size with
    | some n => some (leBytes n (b.roNum idx sub r.dflt))
    | none => b.roStr v idx sub

/-- The objects that the governor mirrors (R416). -/
def mirrored (r : ObjRow) (idx : Nat) : Bool := r.acc = .ro && ((0x1100 ≤ idx && idx ≤ 0x11FF) || (0x7000 ≤ idx && idx ≤ 0x7FFF))

/-- A read of an object: the value, or an abort code. A read of a mirrored object whose register does not answer comes from the mirror; behind 0x7200 to
0x720B no register stands but the governor's SRAM (R108). -/
def Block.objRead (v : DictPath) (idx sub : Nat) (stalled : Bool) (b : Block) : (Nat × Bytes) × Block :=
  match objRow idx sub with
  | none => ((missing idx, []), b)
  | some r =>
    if r.acc = .wo then ((abWo, []), b)
    else if idx = 0x8026 then (if b.lockedOut (failKey v.path) then ((abState, []), b) else let (c, b) := b.challenge v; ((0, c), b))
    else if mirrored r idx && stalled && !(0x7200 ≤ idx && idx ≤ 0x720B) then
      ((0, (List.lookup (objKey idx sub) b.gov.mirror).getD (b.objDefault idx sub)), b.put GOV_STATUS_MIRSTALE 1)
    else
      let b := b.put GOV_STATUS_MIRSTALE 0
      match b.objValue v r idx sub with
      | some x => ((0, x), b)
      | none => ((abState, []), b)

/-! ## Writes to the staged image (R438, R439, R450, R451) -/

/-- Why the staged image may not be written by a source: the abort code, 0 where it may. -/
def Block.stageBlocked (b : Block) (v : DictPath) : Nat := if b.commit.state = 1 || b.commit.state = 2 || b.claimedBy v then abClaim else 0

/-- The source claims the staged image. -/
def Block.claimStaged (v : DictPath) (b : Block) : Block :=
  { b with commit := { b.commit with claim := some (v.path, v.src) } }

/-- The configuration records of the staged image, as a re-serialisation keeps them. -/
def Block.stagedRecs (b : Block) : List (Nat × Bytes) :=
  (b.canonRecs b.dict.staged.recs).filter fun r => match objRow (r.1 / 256) (r.1 % 256) with | some o => o.acc.isConfig | none => false

/-- A write of one configuration object. -/
def Block.stageWrite (v : DictPath) (r : ObjRow) (idx sub : Nat) (x : Bytes) (b : Block) : Nat × Block :=
  if r.acc = .rwc && b.dev ≠ .configWait && b.dev ≠ .service then (abState, b)
  else if b.stageBlocked v ≠ 0 then (b.stageBlocked v, b)
  else if b.dict.incomplete then (abOrder, b)
  else
    let i := canonImage (b.putRec (objKey idx sub) x b.stagedRecs) b.dict.staged.serial
    if imgMax < i.bytes.length then (abOrder, b)
    else (0, { b with dict := { b.dict with staged := i } }.claimStaged v)

/-! ## Commands (WO objects) -/

/-- A readmission request (R105). -/
def Block.readmitReq (n : Nat) (b : Block) : Nat × Block := if b.readmitOk n then (0, b.startReadmit n) else (abState, b)

/-- A complete value written to a WO object acts at once. -/
def Block.objExec (v : DictPath) (idx sub : Nat) (x : Bytes) (b : Block) : Nat × Block :=
  let n := leNat x
  match idx, sub with
  | 0x1120, 1 => b.stateReq v n
  | 0x1122, 1 => b.resetReq
  | 0x1130, _ => b.readmitReq (sub - 1)
  | 0x1F00, 1 => b.commitCmd v n
  | 0x3501, 2 => b.partRestart n
  | 0x3501, 3 => if 64 ≤ n then (abRange, b) else (0, b.partReset n)
  | 0x4100, 8 => (0, b.forN 4 fun k b => b.when (bit n k) (Block.releaseNow k false))
  | 0x8001, 1 => b.loadKey (leAt 0 1 x) (x.drop 1)
  | 0x8001, 2 => b.revokeKey n
  | 0x8001, 3 => (0, b.blowConsent)
  | 0x8026, 2 => b.sessionResp v x
  | 0x8026, 3 => (0, b.endSession v.path v.src)
  | 0x8030, 3 => (0, b.confirmRun)
  | 0x8030, 5 => b.advance
  | 0x8030, 6 => (0, b.cancelStaged)
  | 0x8060, 1 => (0, b.attest v x)
  | 0x8062, _ => if v.path = 5 && v.set = 1 then (0, b.extend (5 + sub) x) else (abPath, b.note { code := 0x2B08 })
  | 0x8070, 8 => b.rekey n
  | 0x8070, _ => (0, b.modLvp fun l => { l with lmk := SMap.set [] (sub - 1) x l.lmk })
  | 0x8072, _ => (0, b.macKey true (sub - 1) x)
  | 0x8073, _ => (0, b.macKey false (sub - 1) x)
  | _, _ => (abNoObj, b)

/-- A complete write of an object (R439). -/
def Block.objWrite (v : DictPath) (idx sub : Nat) (x : Bytes) (b : Block) : Nat × Block :=
  match objRow idx sub with
  | none => (missing idx, b)
  | some r =>
    if r.acc = .ro || r.acc = .const then (abRo, b)
    else if b.checkVal r x ≠ 0 then (b.checkVal r x, b)
    else if r.acc = .wo then b.objExec v idx sub x
    else b.stageWrite v r idx sub x

/-! ## Segments (R443) and image uploads (R451) -/

/-- The unfinished write of a source. -/
def Block.segOf (b : Block) (v : DictPath) : Option (Nat × Bytes) :=
  (b.dict.segs.find? fun e => (e.1, e.2.1) = (v.path, v.src)).map fun e => e.2.2

/-- Keep, or abandon, the unfinished write of a source. -/
def Block.setSeg (v : DictPath) (s : Option (Nat × Bytes)) (b : Block) : Block :=
  let l := b.dict.segs.filter fun e => (e.1, e.2.1) ≠ (v.path, v.src)
  { b with dict := { b.dict with segs := match s with | some (k, x) => l ++ [(v.path, v.src, k, x)] | none => l } }

/-- The bytes of an unfinished write that may still come. -/
def ObjRow.room (r : ObjRow) : Nat :=
  match r.ty.size with
  | some n => n
  | none => match r.rng with | .len n => n | .maxLen n => n | .recs m k => m * k | _ => imgMax

/-- The end of an image upload: the bytes replace the staged image, INCOMPLETE where their layout fails. -/
def Block.uploadImage (x : Bytes) (b : Block) : Block :=
  { b with dict := { b.dict with staged := readImage x, incomplete := match parseImage x with | .ok _ => false | .error _ => true } }

/-- One segment of an image upload. -/
def Block.uploadPart (v : DictPath) (x : Bytes) (last : Bool) (b : Block) : Nat × Block :=
  if b.stageBlocked v ≠ 0 then (b.stageBlocked v, b.setSeg v none)
  else
    let b := { b with dict := { b.dict with incomplete := true } }.claimStaged v
    if imgMax < x.length then (abOrder, b.setSeg v none)
    else if last then (0, (b.setSeg v none).uploadImage x)
    else (0, b.setSeg v (some (objKey 0x1F01 1, x)))

/-- One segment of a write. -/
def Block.segWrite (v : DictPath) (idx sub off : Nat) (last : Bool) (x : Bytes) (b : Block) : Nat × Block :=
  let b := if off = 0 then b.setSeg v none else b
  match objRow idx sub with
  | none => (missing idx, b)
  | some r =>
    if r.acc = .ro || r.acc = .const then (abRo, b)
    else if idx = 0x8030 && sub = 1 then b.uploadSeg v off last x
    else
      let before : Option Bytes := if off = 0 then some [] else match b.segOf v with
        | some (k, y) => if k = objKey idx sub && y.length = off then some y else none
        | none => none
      match before with
      | none => (abOrder, b)
      | some y =>
        let z := y ++ x
        if idx = 0x1F01 then b.uploadPart v z last
        else if last then (b.setSeg v none).objWrite v idx sub z
        else if r.room < z.length then (abLength, b.setSeg v none)
        else (0, b.setSeg v (some (objKey idx sub, z)))

/-! ## Messages (R442, R562) -/

/-- A response: the request's header with OP, FLAGS, LEN and ABORT as given, then the data. -/
def respMsg (msg : Bytes) (last : Bool) (abort : Nat) (data : Bytes) : Bytes :=
  [BitVec.ofNat 8 (Nat.lor (leAt 0 1 msg) 0x80), BitVec.ofNat 8 (ofBool last)] ++ slice 2 6 msg ++ slice 8 4 msg ++ leBytes 4 data.length ++ leBytes 4 abort ++ data

/-- A response that echoes every other field. -/
def echoMsg (msg : Bytes) (abort : Nat) : Bytes := [BitVec.ofNat 8 (Nat.lor (leAt 0 1 msg) 0x80)] ++ slice 1 15 msg ++ leBytes 4 abort

/-- The header fields of a request are valid. -/
def headerOk (msg : Bytes) : Bool := (leAt 0 1 msg = 1 || leAt 0 1 msg = 2) && leAt 1 1 msg < 2 && leAt 7 1 msg = 0 && leAt 16 4 msg = 0

/-- Serve a message whose response carries at most `cap` data bytes: the response, the abort code and the data; none where no answer leaves. -/
def Block.dictMsg (v : DictPath) (cap : Nat) (msg : Bytes) (stalled : Bool) (b : Block) : Option (Bytes × Nat × Bytes) × Block :=
  let idx := leAt 4 2 msg
  let sub := leAt 6 1 msg
  let write : Bool := leAt 0 1 msg = 2
  let len := leAt 12 4 msg
  match b.granted v idx sub write with
  | .silent => (none, b)
  | g =>
    if msg.length < 20 then (some ([0x80] ++ List.replicate 15 0 ++ leBytes 4 abLength, abLength, []), b)
    else if !headerOk msg then (some (echoMsg msg abField, abField, []), b)
    else if (if write then msg.length ≠ 20 + len else msg.length ≠ 20) then (some (echoMsg msg abLength, abLength, []), b)
    else if g = .refused then (some (respMsg msg false abPath [], abPath, []), b.note { code := 0x2B08 })
    else if write then
      let (a, b) := b.segWrite v idx sub (leAt 8 4 msg) (leAt 1 1 msg = 1) (msg.drop 20)
      (some (respMsg msg false a [], a, []), b)
    else
      let ((a, x), b) := b.objRead v idx sub stalled
      let off := leAt 8 4 msg
      let d := (x.drop off).take (min len cap)
      (some (respMsg msg (decide (a = 0) && decide (x.length ≤ off + d.length)) a d, a, d), b)

/-- Serve a request of the PCIe window: what GO does (R444). -/
def Block.dictGo (b : Block) : Block :=
  if b.pci.dwBusy then b.modPci fun p => { p with dwGoBusy := true }
  else
    let buf := SMap.getRun (0 : Byte) 0 20 b.pci.dwReq
    let n := if leAt 0 1 buf = 2 then min (leAt 12 4 buf) 65516 else 0
    let msg := SMap.getRun (0 : Byte) 0 (20 + n) b.pci.dwReq
    let b := b.modPci fun p => { p with dwBusy := true, dwDone := false }
    match b.dictMsg { path := 4, src := 0 } 65516 msg false with
    | (none, b) => b
    | (some (m, a, d), b) =>
      b.modPci (fun p => { p with dwBusy := false, dwDone := true, dwResp := m }) |>.emit (.answer a d) |>.sendVec 0 10

/-- DICTIONARY_WINDOW_GO (R444). -/
def execDictionaryWindowGo (s : State) : Host.Outcome State Fault Refusal :=
  onBlk s fun b => if b.isSet PCI_CFG_EP then b.dictGo else b

/-- Send a response on its path. -/
def Block.dictReply (v : DictPath) (port stream : Nat) (m : Bytes) (b : Block) : Block :=
  match v.path with
  | 3 => b.offerSack port { vl := 1, kind := 1, dst := v.src, src := b.devEp, stream := stream, turn := b.turn % 2 ^ 32, payload := m }
  | 5 => b.govPost v.set v.src m
  | _ => b

/-- The most data bytes of a response on a path. -/
def pathCap (path : Nat) : Nat := match path with | 3 => 2028 | 5 => 28 | _ => 65516

/-- A message on a path. On path 5 it is what the agent's channel to the governor holds, which the governor acknowledges as it takes it. -/
def Block.dictRequest (v : DictPath) (port stream : Nat) (msg : Bytes) (stalled : Bool) (b : Block) : Block :=
  let k := chanKey v.set 72 v.src
  if v.path = 5 && ((b.chan k).state ≠ 1 || b.govHalted) then b
  else
    let msg := if v.path = 5 then (b.chan k).msg.take (b.chan k).len else msg
    let b := if v.path = 5 then b.ack k else b
    match b.dictMsg v (pathCap v.path) msg stalled with
    | (none, b) => b
    | (some (m, a, d), b) => b.dictReply v port stream m |>.emit (.answer a d)

/-- DICTIONARY_READ (R438, R441, R442). -/
def execDictionaryRead (via : DictPath) (port stream : Nat) (msg : Bytes) (stalled : Bool) (s : State) : Host.Outcome State Fault Refusal :=
  onBlk s fun b => b.dictRequest via port stream msg stalled

/-- DICTIONARY_WRITE (R439, R443). -/
def execDictionaryWrite (via : DictPath) (port stream : Nat) (msg : Bytes) (s : State) : Host.Outcome State Fault Refusal :=
  onBlk s fun b => b.dictRequest via port stream msg false

/-! ## The mirror (R416) -/

/-- The objects of a row in two ranges. -/
def ObjRow.keys (r : ObjRow) : List (Nat × Nat) :=
  (List.range (r.i1 + 1 - r.i0)).flatMap fun i => (List.range (r.s1 + 1 - r.s0)).map fun s => (r.i0 + i, r.s0 + s)

/-- Every mirrored object with its value. -/
def Block.mirrorNow (b : Block) : List (Nat × Bytes) :=
  (objRows.filter fun r => mirrored r r.i0).flatMap fun r => r.keys.map fun k =>
    (objKey k.1 k.2, (b.objValue { path := 6, src := 0 } r k.1 k.2).getD [])

/-- Refresh the mirror. -/
def Block.refreshMirror (b : Block) : Block :=
  if b.govHalted then b else { b with gov := { b.gov with mirror := b.mirrorNow, mirrorNs := b.timeNs } }

/-- MIRROR_REFRESH (R416). -/
def execMirrorRefresh (s : State) : Host.Outcome State Fault Refusal := onBlk s Block.refreshMirror

/-! ## MCAN (R446, R447) -/

/-- The node ID (R447). -/
def Block.portOn (b : Block) (port : Nat) : Bool := port < 2 && bit (b.actN 0x1030 5) port

/-- Forget a client's session. -/
def Block.dropUsdo (port client : Nat) (b : Block) : Block :=
  { b with dict := { b.dict with usdo := b.dict.usdo.filter (· ≠ (port, client)) } }

/-- A part of a USDO write: a session holds it until its last part; a ninth session of a port is refused. -/
def Block.usdoWrite (port client idx sub off : Nat) (last : Bool) (x : Bytes) (b : Block) : Nat × Block :=
  let v : DictPath := { path := port + 1, src := client }
  let has := b.dict.usdo.contains (port, client)
  if !has && !last && 8 ≤ (b.dict.usdo.filter fun e => e.1 = port).length then (abState, b)
  else
    let (a, b) := b.segWrite v idx sub off last x
    let b := b.dropUsdo port client
    if a = 0 && !last then (0, { b with dict := { b.dict with usdo := b.dict.usdo ++ [(port, client)] } }) else (a, b)

/-- USDO_REQUEST (R446). -/
def execUsdoRequest (port client : Nat) (req : UsdoReq) (stalled : Bool) (s : State) : Host.Outcome State Fault Refusal :=
  onBlk s fun b =>
    let v : DictPath := { path := port + 1, src := client }
    if !b.portOn port then b
    else match req with
      | .read idx sub => b.serve v idx sub false (Block.objRead v idx sub stalled)
      | .write idx sub off last x => b.serve v idx sub true fun b => let (a, b) := b.usdoWrite port client idx sub off last x; ((a, []), b)

/-- USDO_SESSION_TIMEOUT (R446): the unfinished write ends with an abort. -/
def execUsdoSessionTimeout (port client : Nat) (s : State) : Host.Outcome State Fault Refusal :=
  onBlk s fun b =>
    if b.govHalted || !b.dict.usdo.contains (port, client) then b
    else b.dropUsdo port client |>.setSeg { path := port + 1, src := client } none |>.answer abTimeout

/-- The dictionary service runs (R447). -/
def Block.serving (b : Block) : Bool := !b.govHalted && (b.dev ≠ .boot || b.trust.rom)

/-- NMT_COMMAND (R447): ignored, counted, logged. -/
def execNmtCommand (s : State) : Host.Outcome State Fault Refusal :=
  onBlk s fun b => if b.serving then { b with dict := { b.dict with nmt := b.dict.nmt + 1 } }.note { code := 0x0B0C } else b

/-- The heartbeat state of a device state (R447). -/
def DevState.canopen : DevState → Nat
  | .off => 0x04 | .boot => 0x04 | .selftest => 0x7F | .configWait => 0x7F | .ready => 0x7F | .run => 0x05 | .degraded => 0x05
  | .safeHold => 0x04 | .service => 0x7F | .shutdown => 0x04

/-- CANOPEN_HEARTBEAT (R447). -/
def execCanopenHeartbeat (port : Nat) (s : State) : Host.Outcome State Fault Refusal :=
  onBlk s fun b =>
    if b.portOn port && b.serving && b.actN 0x1017 0 ≠ 0 then b.emit (.can port (0x700 + b.nodeId) [BitVec.ofNat 8 b.dev.canopen]) else b

/-! ## Rows that are one object's access -/

/-- A complete write on a path (R440). -/
def Block.putObj (v : DictPath) (idx sub : Nat) (x : Bytes) (b : Block) : Block :=
  b.serve v idx sub true fun b => let (a, b) := b.objWrite v idx sub x; ((a, []), b)

/-- COMMIT, DISCARD, PERSIST, COMMIT_AND_PERSIST (R452): a value written to 0x1F00:01. -/
def execCommitImg (via : DictPath) (s : State) : Host.Outcome State Fault Refusal := onBlk s fun b => b.putObj via 0x1F00 1 [1]
def execDiscardImg (via : DictPath) (s : State) : Host.Outcome State Fault Refusal := onBlk s fun b => b.putObj via 0x1F00 1 [2]
def execPersistImg (via : DictPath) (s : State) : Host.Outcome State Fault Refusal := onBlk s fun b => b.putObj via 0x1F00 1 [3]
def execCommitAndPersist (via : DictPath) (s : State) : Host.Outcome State Fault Refusal := onBlk s fun b => b.putObj via 0x1F00 1 [4]

/-- LOAD_PUBLIC_KEY (R464). -/
def execLoadPublicKey (via : DictPath) (slot : Nat) (key : Bytes) (s : State) : Host.Outcome State Fault Refusal :=
  onBlk s fun b => b.putObj via 0x8001 1 (leBytes 1 slot ++ key)
/-- REVOKE_SLOT (R465). -/
def execRevokeSlot (via : DictPath) (slot : Nat) (s : State) : Host.Outcome State Fault Refusal := onBlk s fun b => b.putObj via 0x8001 2 (leBytes 1 slot)
/-- VENDOR_DEBUG_CONSENT (R465). -/
def execVendorDebugConsent (via : DictPath) (s : State) : Host.Outcome State Fault Refusal := onBlk s fun b => b.putObj via 0x8001 3 [1]
/-- SESSION_CHALLENGE (R478): a read of 0x8026:01. -/
def execSessionChallenge (via : DictPath) (s : State) : Host.Outcome State Fault Refusal :=
  onBlk s fun b => b.serve via 0x8026 1 false (Block.objRead via 0x8026 1 false)
/-- SESSION_RESPONSE (R478, R479). -/
def execSessionResponse (via : DictPath) (sig : Bytes) (s : State) : Host.Outcome State Fault Refusal := onBlk s fun b => b.putObj via 0x8026 2 sig
/-- END_SESSION (R478). -/
def execEndSession (via : DictPath) (s : State) : Host.Outcome State Fault Refusal := onBlk s fun b => b.putObj via 0x8026 3 [1]
/-- BUNDLE_UPLOAD (R473): a segment written to 0x8030:01. -/
def execBundleUpload (via : DictPath) (off : Nat) (last : Bool) (data : Bytes) (s : State) : Host.Outcome State Fault Refusal :=
  onBlk s fun b => b.serve via 0x8030 1 true fun b => let (a, b) := b.segWrite via 0x8030 1 off last data; ((a, []), b)
/-- CONFIRM (R470). -/
def execConfirmBank (via : DictPath) (s : State) : Host.Outcome State Fault Refusal := onBlk s fun b => b.putObj via 0x8030 3 [1]
/-- ADVANCE_COUNTER (R472). -/
def execAdvanceCounter (via : DictPath) (s : State) : Host.Outcome State Fault Refusal := onBlk s fun b => b.putObj via 0x8030 5 [1]
/-- CANCEL_PENDING (R473). -/
def execCancelPending (via : DictPath) (s : State) : Host.Outcome State Fault Refusal := onBlk s fun b => b.putObj via 0x8030 6 [1]
/-- ATTESTATION_NONCE (R477). -/
def execAttestationNonce (via : DictPath) (nonce : Bytes) (s : State) : Host.Outcome State Fault Refusal := onBlk s fun b => b.putObj via 0x8060 1 nonce
/-- EXTEND_MEASUREMENT (R474). -/
def execExtendMeasurement (via : DictPath) (sub : Nat) (value : Bytes) (s : State) : Host.Outcome State Fault Refusal :=
  onBlk s fun b => b.putObj via 0x8062 sub value
/-- REKEY_REQUEST (R484). -/
def execRekeyRequest (via : DictPath) (port : Nat) (s : State) : Host.Outcome State Fault Refusal := onBlk s fun b => b.putObj via 0x8070 8 (leBytes 1 port)
/-- MACSEC_KEY_WRITE (R485). -/
def execMacsecKeyWrite (via : DictPath) (tx : Bool) (sub : Nat) (key : Bytes) (s : State) : Host.Outcome State Fault Refusal :=
  onBlk s fun b => b.putObj via (if tx then 0x8072 else 0x8073) sub key

end Sys2Proof.Machine
end

