-- ==== Sys2Proof/Machine/Pcie.lean ====
section
/-! DEFINITION. The PCIe port's rows (R385-R409): link events, inbound requests, outbound requests and completions, the inbound window table. -/

namespace Sys2Proof.Machine

/-! ## Links (R405-R409) -/

/-- PCI_PERST_RELEASE: the endpoint trains. -/
def execPciPerstRelease (s : State) : Host.Outcome State Fault Refusal :=
  onBlk s fun b => b.modSub 0 (fun t => { t with perst := false }) |>.when (b.isEp 0) (Block.pciTrain 0)

/-- PCI_PERST_ASSERT: as a surprise link-down. -/
def execPciPerstAssert (s : State) : Host.Outcome State Fault Refusal :=
  onBlk s fun b => b.modSub 0 (fun t => { t with perst := true }) |>.when (b.isEp 0) (Block.freezeSub 0 0 true)

/-- The strapped width of a sub-port. -/
def Block.strapWidth (b : Block) : Nat := match b.get PCI_CFG_BIF with | 0 => 16 | 1 => 8 | _ => 4

/-- PCIE_LINK_UP: TRAINING goes UP; in FROZEN the link is in L0 again, which RELEASE finds. -/
def execPcieLinkUp (sub rate width : Nat) (flit : Bool) (s : State) : Host.Outcome State Fault Refusal :=
  onBlk s fun b =>
    let shown (b : Block) : Block := b.put PCI_SSTAT_RATE rate sub |>.put PCI_SSTAT_WIDTH width sub |>.put PCI_SSTAT_FLIT (ofBool flit) sub
      |>.modSub sub fun t => { t with l0 := true }
    if b.subCount ≤ sub then b
    else if b.subSt sub = sTrain then
      let b := (shown b).put PCI_SSTAT_STATE sUp sub
        |>.note (pciFault (if rate < 6 || width < b.strapWidth then 0x1A0B else 0x0A08) sub)
      b.when (b.isEp sub) Block.ltrSend
    else if b.subSt sub = sFrozen then shown b
    else b

/-- The trigger reason that a root port records. -/
def freezeCode : FreezeCause → Nat
  | .linkDown => 0 | .dataLink => 1 | .flowControl => 2 | .overflow => 3 | .malformed => 4 | .ecrc => 5

/-- PCIE_FREEZE (R407, R408). -/
def execPcieFreeze (sub : Nat) (cause : FreezeCause) (s : State) : Host.Outcome State Fault Refusal :=
  onBlk s fun b => b.freezeSub sub (freezeCode cause) (decide (cause = .linkDown))

/-- RELEASE (R409). -/
def execReleaseSub (mid : Nat) (part : Option Nat) (sub : Nat) (condition : Bool) (s : State) : Host.Outcome State Fault Refusal :=
  onBlk s fun b => b.releaseReq mid part sub condition

/-- PCIE_PORT_RESET (R499, R500): to DOWN with its tags freed; a root sub-port drives PCI_PERSTO_N low, an endpoint trains again. -/
def execPciePortReset (sub : Nat) (s : State) : Host.Outcome State Fault Refusal :=
  onBlk s fun b =>
    if b.subCount ≤ sub then b
    else
      let b := b.subDown sub
      if b.isEp sub then b.pciTrain sub
      else { b with pwr := { b.pwr with persto := Nat.land b.pwr.persto (15 - 2 ^ sub) } }

/-- HOT_INSERTION (R409). -/
def execHotInsertion (sub : Nat) (s : State) : Host.Outcome State Fault Refusal :=
  onBlk s fun b => if b.isEp sub then b else b.pciTrain sub

/-- LTR_MESSAGE (R402). -/
def execLtrMessage (sub value : Nat) (s : State) : Host.Outcome State Fault Refusal :=
  onBlk s fun b => if b.subCount ≤ sub || b.isEp sub || b.subSt sub ≠ sUp then b else b.put PCI_SSTAT_LTR (value % 65536) sub

/-- CORRECTABLE_ERROR (R406). -/
def execCorrectableError (sub status : Nat) (s : State) : Host.Outcome State Fault Refusal :=
  onBlk s fun b =>
    if b.subCount ≤ sub then b
    else b.aerSet sub (32 + status % 32) |>.inc PCI_SERR_CORR sub |>.noteOnce sub (pciFault 0x1A01 sub)

/-! ## Inbound requests (R390-R396, R406) -/

/-- Unsupported Request: AER status with the request's address and requester; a read gets the completion; 0x2A02 where the rule logs it. -/
def Block.unsupported (k rid addr : Nat) (read logged : Bool) (b : Block) : Block :=
  b.aerSet k aerUr |>.modSub k (fun t => { t with header := leBytes 8 addr ++ leBytes 2 rid })
    |>.when logged (Block.note (pciFault 0x2A02 k)) |>.when read (Block.emit (.cpl k rid 1 [] false))

/-- Write bytes of one inbound request, line by line. -/
def Block.inboundStore (mid : Nat) (poison : Bool) : Nat → Nat → Bytes → Block → Block
  | 0, _, _, b => b
  | fuel + 1, pa, v, b =>
    if v.isEmpty then b
    else
      let n := min v.length (64 - pa % 64)
      let line := leNat (v.take n) * 2 ^ (8 * (pa % 64))
      Block.inboundStore mid poison fuel (pa + n) (v.drop n) (b.writeLine mid noPart (pa / 64) line ((2 ^ n - 1) * 2 ^ (pa % 64)) poison)

/-- Carry out a translated request: memory with its poison, or an I/O access of the hub. Outbound space of another sub-port is none of them. -/
def Block.inboundAccess (k rid pa len : Nat) (wdata : Option Bytes) (poison : Bool) (b : Block) : Block :=
  let mid := midPci k
  match b.decodePa pa with
  | .dram =>
    match wdata with
    | some v => if b.rangeOk pa v.length then b.inboundStore mid poison (v.length / 64 + 2) pa v else b.unsupported k rid pa false true
    | none =>
      if b.rangeOk pa len then let (r, b) := b.readBytes mid noPart pa len; b.emit (.cpl k rid 0 r.1 r.2)
      else b.unsupported k rid pa true true
  | .pcie => b.unsupported k rid pa wdata.isNone false
  | .scratch =>
    if !b.sailOpen mid scratchBase pa then (b.decodeErr mid pa).2.unsupported k rid pa wdata.isNone false
    else match wdata with
      | some v => b.scrWrite pa v poison
      | none => let (v, p, e) := b.scrRead pa len; b.emit (.cpl k rid 0 v (p || e))
  | _ =>
    match wdata with
    | some v => if poison then b else (b.ioWrite mid none pa v.length (leNat v)).2
    | none => match b.ioRead mid none pa len with
      | (.val v, b) => b.emit (.cpl k rid 0 (leBytes len v) false)
      | (.data v p, b) => b.emit (.cpl k rid 0 v p)
      | (_, b) => b.unsupported k rid pa true false

/-- A request under a root port: the bus range, then the hub translation unit with the requester ID as device ID (R390, R132). -/
def Block.rootInbound (k rid addr len : Nat) (wdata : Option Bytes) (poison : Bool) (b : Block) : Block :=
  let n := match wdata with | some v => v.length | none => len
  let bus := rid / 256 % 256
  if bus < b.secBus k || b.subBus k < bus || n = 0 || 4096 < addr % 4096 + n then b.unsupported k rid addr wdata.isNone true
  else match b.iotTranslate rid (midPci k) noPart none (if wdata.isSome then .store else .load) addr with
    | (some pa, b) => b.inboundAccess k rid pa len wdata poison
    | (none, b) => b.unsupported k rid addr wdata.isNone true

/-- The entry of the active window table that a request of function f at offset x uses (R395). -/
def Block.windowFor (b : Block) (f x : Nat) : Option Nat :=
  (List.range 64).find? fun n =>
    let w := b.getR .PCI_IWA n 0
    bit w 0 && bits w 48 55 = f && bits w 12 47 * 4096 ≤ x && x < bits w 12 47 * 4096 + 2 ^ bits w 4 9

/-- A request in BAR2/3. -/
def Block.bar2Inbound (f x len : Nat) (wdata : Option Bytes) (poison : Bool) (b : Block) : Block :=
  let n := match wdata with | some v => v.length | none => len
  match b.windowFor f x with
  | none => b.unsupported 0 f x wdata.isNone true
  | some e =>
    let w := b.getR .PCI_IWA e 0
    let base := bits w 12 47 * 4096
    if !(if wdata.isSome then bit w 2 else bit w 1) || base + 2 ^ bits w 4 9 < x + n || n = 0 then b.unsupported 0 f x wdata.isNone true
    else b.inboundAccess 0 f (bits (b.getR .PCI_IWA e 1) 12 47 * 4096 + (x - base)) len wdata poison

/-! ## BAR0/1 (R392, R393, R398, R444) -/

/-- A dword of an MSI-X table entry. -/
def MsixVec.word (e : MsixVec) (i : Nat) : Nat := match i with | 0 => e.addr % 2 ^ 32 | 1 => e.addr / 2 ^ 32 | 2 => e.data | _ => ofBool e.masked
def MsixVec.putWord (e : MsixVec) (i v : Nat) : MsixVec :=
  match i with
  | 0 => { e with addr := setBits e.addr 0 31 (v / 4 * 4) }
  | 1 => { e with addr := setBits e.addr 32 63 v }
  | 2 => { e with data := v % 2 ^ 32 }
  | _ => { e with masked := bit v 0 }

/-- Send what waits on a vector that may go now. -/
def Block.sendPending (f v : Nat) (b : Block) : Block := if b.pci.pba.contains (f * 2048 + v) then b.sendVec f v else b

/-- The bytes `n` at `off` of a space of dwords. -/
def dwords (f : Nat → Nat) (off n : Nat) : Bytes := slice (off % 4) n ((List.range ((off % 4 + n + 3) / 4)).flatMap fun i => leBytes 4 (f (off / 4 + i)))

/-- Write whole dwords of a space. -/
def Block.putDwords (f : Nat → Nat → Block → Block) (off : Nat) (v : Bytes) (b : Block) : Block :=
  b.forN (v.length / 4) fun i b => f (off / 4 + i) (leAt (4 * i) 4 v) b

/-- The MSI-X table of function f, by dword. -/
def Block.msixWord (b : Block) (f i : Nat) : Nat := (SMap.get {} (f * 2048 + i / 4) b.pci.vecs).word (i % 4)
def Block.msixPut (f i v : Nat) (b : Block) : Block :=
  b.modPci (fun p => { p with vecs := SMap.upd {} (f * 2048 + i / 4) (fun e => e.putWord (i % 4) v) p.vecs }) |>.sendPending f (i / 4)

/-- The pending bits of function f, by dword. -/
def Block.pbaWord (b : Block) (f i : Nat) : Nat := maskOf 32 fun j => b.pci.pba.contains (f * 2048 + 32 * i + j)

/-- PCI_DWSTAT. -/
def Block.dwStat (b : Block) : Nat :=
  ofBool b.pci.dwBusy + 2 * ofBool b.pci.dwDone + 4 * ofBool b.pci.dwGoBusy + 65536 * min b.pci.dwResp.length 65535

/-- A doorbell of function f (R393): its own instance, under the sub-port's master ID; 0x2A02 where the instance is not owned by it. -/
def Block.fnDoorbell (f q v : Nat) (b : Block) : Block :=
  if b.ownKind f ≠ 2 then b.note (pciFault 0x2A02 0) else b.ringBell (midPci 0) none f q (v % 65536)

/-- Some register covers an address. -/
def regCovers (a : Nat) : Bool :=
  (regAt (a / 4 * 4) Reg.all).isSome || (match regAt (a / 8 * 8) Reg.all with | some (r, _) => r.desc.width = 64 | none => false)

/-- The hub address that a BAR0/1 offset of the physical function stands for: a register of the manager page or of the inbound window table. -/
def pageAddr (x : Nat) : Option Nat :=
  if 0x1020 ≤ x && x < 0x1080 && regCovers (0xF000500000 + (x - 0x1000)) then some (0xF000500000 + (x - 0x1000))
  else if 0x10000 ≤ x && x < 0x11000 && regCovers (0xF000604000 + (x - 0x10000)) then some (0xF000604000 + (x - 0x10000))
  else none

/-- A read of BAR0/1 at offset x of function f; none for an access error (R10: a register read by another width or alignment). What lies nowhere
reads 0. -/
def Block.bar0Read (f x len : Nat) (b : Block) : Option Bytes × Block :=
  if f = 0 then
    match pageAddr x with
    | some a => match b.controlRead (midPci 0) none a len with
      | (.val v, b) => (some (leBytes len v), b)
      | (_, b) => (none, b)
    | none =>
      if 0x20000 ≤ x && x < 0x28000 then (some (dwords (b.msixWord 0) (x - 0x20000) len), b)
      else if 0x28000 ≤ x && x < 0x28100 then (some (dwords (b.pbaWord 0) (x - 0x28000) len), b)
      else if 0x100000 ≤ x && x < 0x100008 then
        if !aligned x len 4 then (none, b) else (some (leBytes 4 (if x = 0x100004 then b.dwStat else 0)), b)
      else if 0x101000 ≤ x && x < 0x111000 then (some (SMap.getRun 0 (x - 0x101000) len b.pci.dwReq), b)
      else if 0x180000 ≤ x && x < 0x190000 then (some (slice (x - 0x180000) len b.pci.dwResp), b)
      else (some (List.replicate len 0), b)
  else if 0x2000 ≤ x && x < 0x2100 then (some (dwords (b.msixWord f) (x - 0x2000) len), b)
  else if 0x3000 ≤ x && x < 0x3008 then (some (dwords (b.pbaWord f) (x - 0x3000) len), b)
  else (some (List.replicate len 0), b)

/-- A write of PCI_DWSTAT: DONE and GOBUSY clear on a 1. -/
def Block.dwClear (v : Nat) (b : Block) : Block :=
  b.modPci fun p => { p with dwDone := p.dwDone && !bit v 1, dwGoBusy := p.dwGoBusy && !bit v 2 }

/-- A write of BAR0/1 at offset x of function f. A register written by another width or alignment ignores the write, and the requester gets an
access error (R10): Unsupported Request, without 0x2A02. -/
def Block.bar0Write (f x : Nat) (v : Bytes) (b : Block) : Block :=
  if x < 0x20 then (if aligned x v.length 4 then b.fnDoorbell f (x / 4) (leNat v) else b.unsupported 0 f x false false)
  else if f = 0 then
    match pageAddr x with
    | some a => match b.controlWrite (midPci 0) none a v.length (leNat v) with
      | (.err, b) => b.unsupported 0 f x false false
      | (_, b) => b
    | none =>
      if 0x20000 ≤ x && x < 0x28000 then b.putDwords (Block.msixPut 0) (x - 0x20000) v
      else if 0x100000 ≤ x && x < 0x100008 then
        if !aligned x v.length 4 then b.unsupported 0 f x false false
        else if x = 0x100004 then b.dwClear (leNat v)
        else if bit (leNat v) 0 then b.dictGo else b
      else if 0x101000 ≤ x && x < 0x111000 then b.modPci fun p => { p with dwReq := SMap.setRun 0 (x - 0x101000) (v.take (0x111000 - x)) p.dwReq }
      else b
  else if 0x2000 ≤ x && x < 0x2100 then b.putDwords (Block.msixPut f) (x - 0x2000) v
  else b

/-- PCIE_INBOUND_REQUEST. A sub-port that is not UP takes nothing; an AtomicOp and a function in D3hot get Unsupported Request. -/
def execPcieInboundRequest (sub : Nat) (target : PciTarget) (len : Nat) (wdata : Option Bytes) (poison atomic : Bool) (s : State) :
    Host.Outcome State Fault Refusal :=
  onBlk s fun b =>
    if b.subCount ≤ sub || b.subSt sub ≠ sUp then b
    else
      let b := b.when poison fun b => b.aerSet sub aerPoison |>.note (pciFault 0x2A0C sub)
      match target with
      | .mem rid addr => if b.isEp sub then b else if atomic then b.unsupported sub rid addr true false else b.rootInbound sub rid addr len wdata poison
      | .bar0 f x =>
        if !b.isEp sub || 256 ≤ f then b
        else if atomic || (b.fn f).d3 then b.unsupported sub f x (atomic || wdata.isNone) false
        else match wdata with
          | some v => if poison then b else b.bar0Write f x v
          | none => match b.bar0Read f x len with
            | (some v, b) => b.emit (.cpl sub f 0 v false)
            | (none, b) => b.unsupported sub f x true false
      | .bar2 f x =>
        if !b.isEp sub || 256 ≤ f then b
        else if atomic || (b.fn f).d3 then b.unsupported sub f x (atomic || wdata.isNone) false
        else b.bar2Inbound f x len wdata poison

/-- PCIE_DOORBELL (R393). -/
def execPcieDoorbell (fn queue value : Nat) (s : State) : Host.Outcome State Fault Refusal :=
  onBlk s fun b =>
    if !b.isEp 0 || b.subSt 0 ≠ sUp || 256 ≤ fn || 8 ≤ queue then b
    else if (b.fn fn).d3 then b.unsupported 0 fn (4 * queue) false false
    else b.fnDoorbell fn queue value

/-! ## Outbound requests and completions (R387-R389, R403, R404) -/

/-- PCIE_OUTBOUND_REQUEST. -/
def execPcieOutboundRequest (mid : Nat) (part inst : Option Nat) (txid addr width : Nat) (wdata : Option Nat) (s : State) :
    Host.Outcome State Fault Refusal :=
  onBlk s fun b =>
    match b.decodePa addr with
    | .pcie => Block.ioAnswer (b.outbound mid part inst txid addr width wdata)
    | _ => b.emit .accessError

/-- An unexpected completion is discarded. -/
def Block.unexpected (k : Nat) (b : Block) : Block := b.aerSet k aerUnexpected |>.note (pciFault 0x2A05 k)

/-- A CRS completion (R387): a Vendor ID read gets 0x0001 there; any other request ERR. -/
def Block.crsDone (t : PciTag) (b : Block) : Block :=
  b.tagDone t (if t.vendorId then some ((Config.configWord t.sub 1 0 / 65536 * 65536 + 1) % 2 ^ (8 * t.width)) else none)

/-- PCIE_COMPLETION (R387, R403, R404, R406): the parts of a split completion are joined. -/
def execPcieCompletion (sub tag status : Nat) (data : Bytes) (poison fits final : Bool) (s : State) : Host.Outcome State Fault Refusal :=
  onBlk s fun b =>
    if b.subCount ≤ sub || b.subSt sub ≠ sUp then b
    else match b.tagOf sub tag with
      | none => b.unexpected sub
      | some t =>
        if !fits then b.unexpected sub
        else if t.late then b.inc PCI_SERR_LATECNT sub |>.note (pciFault 0x1A04 sub) |>.when final (Block.dropTag sub tag)
        else
          let b := b.when poison fun b => b.aerSet sub aerPoison |>.note (pciFault 0x2A0C sub)
          let got := t.got ++ data
          if status = 2 then (b.dropTag sub tag).crsDone t
          else if status ≠ 0 then (b.dropTag sub tag).tagDone t none
          else if !final then
            b.modPci fun p => { p with tags := p.tags.map fun u => if u.sub = sub && u.tag = tag then { u with got := got } else u }
          else if poison then b.dropTag sub tag |>.emit (.data (got.take t.width) true) |>.emit (.ioComp t.mid t.txid t.addr true 0)
          else (b.dropTag sub tag).tagDone t (some (leNat (got.take t.width)))

/-- COMPLETION_TIMEOUT (R403). -/
def execCompletionTimeout (sub tag : Nat) (s : State) : Host.Outcome State Fault Refusal :=
  onBlk s fun b =>
    match b.tagOf sub tag with
    | none => b
    | some t =>
      if t.late then b
      else
        b.modPci (fun p => { p with tags := p.tags.map fun u => if u.sub = sub && u.tag = tag then { u with late := true, got := [] } else u })
          |>.showTags sub |>.tagDone t none |>.aerSet sub aerCto |>.note (pciFault 0x2A03 sub)

/-- TAG_QUARANTINE_EXPIRY (R404). -/
def execTagQuarantineExpiry (sub tag : Nat) (s : State) : Host.Outcome State Fault Refusal :=
  onBlk s fun b => match b.tagOf sub tag with | some t => if t.late then b.dropTag sub tag else b | none => b

/-! ## The inbound window table (R394-R397) -/

/-- WINDOW_COMMIT. -/
def execWindowCommit (mid : Nat) (part : Option Nat) (s : State) : Host.Outcome State Fault Refusal := onBlk s fun b => b.windowCommit mid part 1

/-- The staged table as (word 0, word 1). -/
def Block.stagedWindows (b : Block) : List (Nat × Nat) := (List.range 64).map fun n => (b.getR .PCI_IWS0 n, b.getR .PCI_IWS1 n)

/-- WINDOW_COMMIT_APPLIED (R396). -/
def execWindowCommitApplied (pending : Nat) (s : State) : Host.Outcome State Fault Refusal :=
  onBlk s fun b =>
    if !b.isSet PCI_IWSTAT_BUSY then b
    else
      let e := b.iwCheck b.stagedWindows
      let b := b.put PCI_IWSTAT_BUSY 0 |>.put PCI_IWSTAT_ERRCODE e
      if e ≠ 0 then b.put PCI_IWSTAT_ERR 1 |>.note { code := 0x2A09 }
      else
        b.forN 64 (fun n b => b.setR .PCI_IWA (b.getR .PCI_IWS0 n) n 0 |>.setR .PCI_IWA (b.getR .PCI_IWS1 n) n 1)
          |>.put PCI_IWSTAT_DONE 1 |>.put PCI_IWSTAT_OLDPEND (b.get PCI_IWSTAT_OLDPEND - Config.oldDone b.timeNs + pending) |>.note { code := 0x0A0A } |>.sendVec 0 9

/-- PCI_HINT_WRITE (R399). -/
def execPciHintWrite (vec : Nat) (s : State) : Host.Outcome State Fault Refusal :=
  onBlk s fun b => if 16 ≤ vec && vec < 2048 then b.sendVec 0 vec else b

/-! ## Configuration requests to the endpoint (R386, R391, R398, R405) -/

/-- A configuration read: Vendor and Device ID where the spec gives them, the AER status, else what the spec does not give. -/
def configRead (f off : Nat) : Nat :=
  if off / 4 * 4 = 0 && f = 0 then setBits (Config.configWord 0 0 0) 16 31 0x4E12
  else Config.configWord 0 f (off / 4 * 4)

/-- Every vector of a function that waits. -/
def Block.sendWaiting (f : Nat) (b : Block) : Block := b.forL (b.pci.pba.filter fun k => k / 2048 = f) fun k b => b.sendVec f (k % 2048)
def Block.modFn (f : Nat) (g : PciFn → PciFn) (b : Block) : Block := b.modPci fun p => { p with fns := SMap.upd {} f g p.fns }

/-- CONFIGURATION_REQUEST: CRS until the device reaches CONFIG_WAIT. -/
def execConfigurationRequest (fn : Nat) (req : CfgOp) (s : State) : Host.Outcome State Fault Refusal :=
  onBlk s fun b =>
    if !b.isEp 0 || b.subSt 0 ≠ sUp || 256 ≤ fn then b
    else if b.dev = .boot || b.dev = .selftest then b.emit (.cpl 0 fn 2 [] false)
    else
      let ok (d : Bytes) (b : Block) : Block := b.emit (.cpl 0 fn 0 d false)
      match req with
      | .read off => ok (leBytes 4 (configRead fn off)) b
      | .power d3 => b.modFn fn (fun t => { t with d3 := d3 }) |>.when (!d3) (fun b => b.sendWaiting fn |>.when (b.ownKind fn = 2) (Block.fetchAll fn)) |> ok []
      | .msix en mask => b.modFn fn (fun t => { t with msixOn := en, msixMask := mask }) |>.when (en && !mask) (Block.sendWaiting fn) |> ok []
      | .flr => b.resetFn fn |>.when (b.ownKind fn = 2) (Block.resetInst fn false) |> ok []
      | .aerClear m => b.modSub 0 (fun t => { t with aer := t.aer - Nat.land t.aer m }) |> ok []
      | .write _ _ => ok [] b

end Sys2Proof.Machine
end

