-- ==== Sys2Proof/Machine/Diag.lean ====
section
/-! DEFINITION. The miller services' time synchronisation and diagnostics (R379, R381, R382, R473, R479). What ISO 14229-1 and ISO 13400-2 give beyond the
spec's words (sub-function numbers, response layouts, negative response codes) is PRESUMED. -/

namespace Sys2Proof.Machine

def Block.modSvc (f : Services → Services) (b : Block) : Block := { b with svc := f b.svc }

/-! ## Time (R381) -/

/-- TIME_SYNC_LOSS: the follower lost its master; in GPTP mode the turn unit enters holdover. -/
def execTimeSyncLoss (s : State) : Host.Outcome State Fault Refusal :=
  onBlk s fun b =>
    if b.actN 0x9100 1 ≠ 2 || b.svc.syncLost then b
    else
      b.modSvc (fun t => { t with syncLost := true }) |>.note { code := 0x2912 }
        |>.when (b.get TRN_CFG_SYNCMODE = 1 && b.running) Block.enterHoldover

/-- SYNC_AND_FOLLOW_UP: the grandmaster sends on its Ethernet-mode ports that are UP; outputs leave in RUN and DEGRADED only (R379). -/
def execSyncAndFollowUp (s : State) : Host.Outcome State Fault Refusal :=
  onBlk s fun b =>
    if b.actN 0x9100 1 ≠ 1 || !b.outputsOn then b
    else
      let ports := (List.range 6).filter fun k => bit (b.actN 0x9100 4) k && !b.native k && b.portSt k = pUp
      b.forL ports (fun k b => b.emit (.gptp k b.svc.syncSeq b.timeNs)) |>.modSvc fun t => { t with syncSeq := (t.syncSeq + 1) % 65536 }

/-! ## Connections (R382) -/

def Block.conn (b : Block) (c : Nat) : DoipConn := SMap.get {} c b.svc.conns
def Block.modConn (c : Nat) (f : DoipConn → DoipConn) (b : Block) : Block := b.modSvc fun t => { t with conns := SMap.upd {} c f t.conns }

/-- The server takes a connection. -/
def Block.doipOn (b : Block) (c : Nat) : Bool := b.actN 0x9200 1 = 1 && c < min 4 (b.actN 0x9200 3) && b.dev ≠ .boot && !b.pwr.tripped

/-- Send a response; a transmission of the millers is an output (R379). -/
def Block.udsSend (r : Bytes) (b : Block) : Block := if b.outputsOn then b.emit (.answer 0 r) else b

/-- A positive and a negative response. -/
def Block.udsOk (sid : Nat) (r : Bytes) (b : Block) : Block := b.udsSend ([BitVec.ofNat 8 (sid + 0x40)] ++ r)
def Block.udsNo (sid nrc : Nat) (b : Block) : Block := b.udsSend [0x7F, BitVec.ofNat 8 sid, BitVec.ofNat 8 nrc]

/-- Serve a request of a connection whose routing is active. -/
def uds (c : Nat) (s : State) (f : Block → Block) : Host.Outcome State Fault Refusal :=
  onBlk s fun b => if b.doipOn c && (b.conn c).active then f b else b

/-- ROUTING_ACTIVATION: types 0x00 and 0xE0; the code of the response is the answer's data. -/
def execRoutingActivation (conn src kind : Nat) (s : State) : Host.Outcome State Fault Refusal :=
  onBlk s fun b =>
    if b.actN 0x9200 1 ≠ 1 || b.dev = .boot || b.pwr.tripped then b
    else if !b.doipOn conn then b.udsSend [0x01]
    else if kind = 0 || kind = 0xE0 then b.modConn conn (fun _ => { tester := src, active := true }) |>.udsSend [0x10]
    else b.udsSend [0x06]

/-- The sub-function of a request, and whether it asks for no positive response. -/
def subFn (req : Bytes) : Nat := leAt 0 1 req % 128
def quiet (req : Bytes) : Bool := 128 ≤ leAt 0 1 req
def Block.udsSubOk (sid : Nat) (req r : Bytes) (b : Block) : Block :=
  if quiet req then b else b.udsOk sid ([BitVec.ofNat 8 (subFn req)] ++ r)

/-- The dictionary source of a connection (R440, R479). -/
def Block.udsPath (b : Block) (c : Nat) : DictPath := { path := 0, src := (b.conn c).tester }

/-! ## Sessions and resets -/

/-- P2 of 50 ms and P2* of 5,000 ms in units of 10 ms. -/
def udsTimes : Bytes := beBytes 2 50 ++ beBytes 2 500

/-- DIAGNOSTIC_SESSION_CONTROL: default, extended; programming sends the SERVICE request of R37. -/
def execDiagnosticSessionControl (conn : Nat) (req : Bytes) (s : State) : Host.Outcome State Fault Refusal :=
  uds conn s fun b =>
    if req.length ≠ 1 then b.udsNo 0x10 0x13
    else if subFn req = 1 || subFn req = 3 then b.modConn conn (fun t => { t with session := subFn req }) |>.udsSubOk 0x10 req udsTimes
    else if subFn req = 2 then
      let (a, b) := b.request false (Block.serviceReq 0 (b.conn conn).tester)
      if a ≠ 0 || b.govHalted then b.udsNo 0x10 0x22 else b.modConn conn (fun t => { t with session := 2 }) |>.udsSubOk 0x10 req udsTimes
    else b.udsNo 0x10 0x12

/-- ECU_RESET: the hard reset, in SERVICE only. -/
def execEcuReset (conn : Nat) (req : Bytes) (s : State) : Host.Outcome State Fault Refusal :=
  uds conn s fun b =>
    if req.length ≠ 1 then b.udsNo 0x11 0x13
    else if subFn req ≠ 1 then b.udsNo 0x11 0x12
    else if b.dev ≠ .service || b.govHalted then b.udsNo 0x11 0x22
    else (b.udsSubOk 0x11 req []).resetReq.2

/-- TESTER_PRESENT. -/
def execTesterPresent (conn : Nat) (req : Bytes) (s : State) : Host.Outcome State Fault Refusal :=
  uds conn s fun b => if req.length ≠ 1 then b.udsNo 0x3E 0x13 else if subFn req ≠ 0 then b.udsNo 0x3E 0x12 else b.udsSubOk 0x3E req []

/-- UDS_UNSUPPORTED_SERVICE. -/
def execUdsUnsupportedService (conn sid : Nat) (s : State) : Host.Outcome State Fault Refusal := uds conn s fun b => b.udsNo sid 0x11

/-! ## Fault memory: the fault log as DTCs -/

/-- The number of the log entry to be written next, counted since power-on reset. -/
def Block.logCount (b : Block) : Nat := b.get GOV_FLOGIDX_WRAPS * 1024 + b.get GOV_FLOGIDX_NEXT

/-- The key that stands for every fault code. -/
def allDtcs : Nat := 65536

/-- Entry n is reported: written since its code was cleared, and while DTC setting was on. -/
def Block.dtcShown (b : Block) (n code : Nat) : Bool :=
  SMap.get 0 code b.svc.dtcFrom ≤ n && SMap.get 0 allDtcs b.svc.dtcFrom ≤ n
    && !b.svc.dtcHidden.any (fun h => h.1 ≤ n && n < h.2) && (match b.svc.dtcOff with | some k => decide (n < k) | none => true)

/-- The fault codes reported, in the order in which they were first logged. -/
def Block.dtcs (b : Block) : List Nat :=
  let t := b.logCount
  (List.range (min t 1024)).foldl (fun a i =>
    let n := t - min t 1024 + i
    let c := (SMap.get {} (n % 1024) b.flog.ring).code
    if b.dtcShown n c && !a.contains c then a ++ [c] else a) []

/-- The status of a reported DTC: confirmed. -/
def dtcStatus : Nat := 0x08

/-- CLEAR_DIAGNOSTIC_INFORMATION: all DTCs, or one. -/
def execClearDiagnosticInformation (conn : Nat) (req : Bytes) (s : State) : Host.Outcome State Fault Refusal :=
  uds conn s fun b =>
    let g := beNat req
    if req.length ≠ 3 then b.udsNo 0x14 0x13
    else if g = 0xFFFFFF then b.modSvc (fun t => { t with dtcFrom := [(allDtcs, b.logCount)], dtcHidden := [] }) |>.udsOk 0x14 []
    else if g / 65536 = 0xD0 then b.modSvc (fun t => { t with dtcFrom := SMap.insert (g % 65536) b.logCount t.dtcFrom }) |>.udsOk 0x14 []
    else b.udsNo 0x14 0x31

/-- READ_DTC_INFORMATION: the number of DTCs and the DTCs by status mask, and the DTCs supported that are logged. -/
def execReadDtcInformation (conn : Nat) (req : Bytes) (s : State) : Host.Outcome State Fault Refusal :=
  uds conn s fun b =>
    let l := if bit (leAt 1 1 req) 3 then b.dtcs else []
    let recs (l : List Nat) : Bytes := l.flatMap fun c => beBytes 3 (0xD00000 + c) ++ [BitVec.ofNat 8 dtcStatus]
    if subFn req = 1 && req.length = 2 then b.udsSubOk 0x19 req ([BitVec.ofNat 8 dtcStatus, 0x01] ++ beBytes 2 l.length)
    else if subFn req = 2 && req.length = 2 then b.udsSubOk 0x19 req ([BitVec.ofNat 8 dtcStatus] ++ recs l)
    else if subFn req = 10 && req.length = 1 then b.udsSubOk 0x19 req ([BitVec.ofNat 8 dtcStatus] ++ recs b.dtcs)
    else if subFn req = 1 || subFn req = 2 || subFn req = 10 then b.udsNo 0x19 0x13
    else b.udsNo 0x19 0x12

/-- CONTROL_DTC_SETTING: entries logged while it is off are not reported. -/
def execControlDtcSetting (conn : Nat) (req : Bytes) (s : State) : Host.Outcome State Fault Refusal :=
  uds conn s fun b =>
    let n := b.logCount
    if req.length = 0 then b.udsNo 0x85 0x13
    else if subFn req = 1 then
      b.modSvc (fun t => { t with dtcOff := none, dtcHidden := match t.dtcOff with | some k => t.dtcHidden ++ [(k, n)] | none => t.dtcHidden })
        |>.udsSubOk 0x85 req []
    else if subFn req = 2 then
      b.modSvc (fun t => { t with dtcOff := match t.dtcOff with | some k => some k | none => some n }) |>.udsSubOk 0x85 req []
    else b.udsNo 0x85 0x12

/-! ## Data and routines -/

/-- The bytes of a data identifier, from the identity objects. -/
def Block.did (b : Block) (n : Nat) : Option Bytes :=
  match n with
  | 0xF187 => some b.otp.ordering
  | 0xF189 => some (leBytes 4 b.otp.revision)
  | 0xF18C => some b.serialBytes
  | 0xF190 => some (b.act 0x9200 4)
  | _ => none

/-- The answers to a list of data identifiers; those not supported give none. -/
def Block.dids (b : Block) : Nat → Bytes → Bytes
  | 0, _ => []
  | k + 1, m =>
    (match b.did (beNat (m.take 2)) with | some v => m.take 2 ++ v | none => []) ++ b.dids k (m.drop 2)

/-- READ_DATA_BY_IDENTIFIER. -/
def execReadDataByIdentifier (conn : Nat) (req : Bytes) (s : State) : Host.Outcome State Fault Refusal :=
  uds conn s fun b =>
    if req.length = 0 || req.length % 2 ≠ 0 then b.udsNo 0x22 0x13
    else
      let r := b.dids (req.length / 2) req
      if r.isEmpty then b.udsNo 0x22 0x31 else b.udsOk 0x22 r

/-- ROUTINE_CONTROL: routine 0xF000 reads a dictionary object (R440: all objects, no writes). -/
def execRoutineControl (conn : Nat) (req : Bytes) (s : State) : Host.Outcome State Fault Refusal :=
  uds conn s fun b =>
    let idx := leAt 3 2 req
    let sub := leAt 5 1 req
    if req.length < 3 then b.udsNo 0x31 0x13
    else if subFn req ≠ 1 then b.udsNo 0x31 0x12
    else if beNat (slice 1 2 req) ≠ 0xF000 then b.udsNo 0x31 0x31
    else if req.length ≠ 6 then b.udsNo 0x31 0x13
    else match b.granted (b.udsPath conn) idx sub false with
      | .allowed =>
        let ((a, v), b) := b.objRead (b.udsPath conn) idx sub false
        if a = 0 then b.udsSubOk 0x31 req ([0xF0, 0x00] ++ v) else b.udsNo 0x31 0x31
      | _ => b.udsNo 0x31 0x22

/-! ## Authentication (R479) and transfers (R473) -/

/-- UDS_AUTHENTICATION. -/
def execUdsAuthentication (conn : Nat) (req : Bytes) (s : State) : Host.Outcome State Fault Refusal :=
  uds conn s fun b =>
    let v := b.udsPath conn
    if b.govHalted || req.length = 0 then b.udsNo 0x29 0x13
    else if subFn req = 5 then
      if b.lockedOut (failKey 0) then b.udsNo 0x29 0x36 else let (c, b) := b.challenge v; b.udsSubOk 0x29 req c
    else if subFn req = 6 then
      if b.lockedOut (failKey 0) then b.udsNo 0x29 0x36
      else
        let (a, b) := b.sessionResp v (req.drop 1)
        if a = 0 then b.udsSubOk 0x29 req [] else b.udsNo 0x29 0x35
    else if subFn req = 0 then (b.endSession v.path v.src).udsSubOk 0x29 req []
    else b.udsNo 0x29 0x12

/-- REQUEST_DOWNLOAD. -/
def execRequestDownload (conn : Nat) (_req : Bytes) (s : State) : Host.Outcome State Fault Refusal :=
  uds conn s fun b =>
    if b.govHalted then b.udsNo 0x34 0x22
    else
      let (a, b) := b.uploadStart (0, (b.conn conn).tester)
      if a ≠ 0 then b.udsNo 0x34 0x22
      else b.modConn conn (fun t => { t with block := some 1 }) |>.udsOk 0x34 ([0x40] ++ beBytes 4 Config.udsBlockLength)

/-- The bytes that a transfer has brought. -/
def Block.uploaded (b : Block) : Nat := match b.trust.upload with | some (_, _, m) => m.length | none => 0

/-- TRANSFER_DATA: the block counter starts at 1 and wraps. -/
def execTransferData (conn : Nat) (req : Bytes) (s : State) : Host.Outcome State Fault Refusal :=
  uds conn s fun b =>
    match (b.conn conn).block with
    | none => b.udsNo 0x36 0x24
    | some k =>
      if leAt 0 1 req ≠ k then b.udsNo 0x36 0x73
      else
        let (a, b) := b.uploadData (0, (b.conn conn).tester) b.uploaded (req.drop 1)
        if a ≠ 0 then b.udsNo 0x36 0x71
        else b.modConn conn (fun t => { t with block := some ((k + 1) % 256) }) |>.udsOk 0x36 [BitVec.ofNat 8 k]

/-- REQUEST_TRANSFER_EXIT. -/
def execRequestTransferExit (conn : Nat) (_req : Bytes) (s : State) : Host.Outcome State Fault Refusal :=
  uds conn s fun b =>
    if (b.conn conn).block.isNone || b.govHalted then b.udsNo 0x37 0x24
    else
      let (a, b) := (b.modConn conn fun t => { t with block := none }).uploadEnd
      if a = 0 then b.udsOk 0x37 [] else b.udsNo 0x37 0x72

end Sys2Proof.Machine
end

