-- ==== Sys2Proof/Machine/Boundary.lean ====
section
/-! DEFINITION. The turn boundary (R39, R51, R52): the actions of all blocks at the instant at which timer A reaches the end of the period. -/

namespace Sys2Proof.Machine

/-! ## What the ending turn leaves -/

/-- What the cores and L3s counted in the ending turn that no other row shows (R72, R107): (hart, event, count); event 0 is instructions retired, 0x0F of hart
sail × 32 + 17 the L3 clock cycles of a sail. -/
def Block.countTurn (events : List (Nat × Nat × Nat)) (b : Block) : Block :=
  b.forL events fun e b =>
    if 384 ≤ e.1 then b
    else if e.2.1 = 0x0F then b.when (e.1 % 32 = 17) (Block.pmu (e.1 / 32) 0x0F none e.2.2)
    else if 16 ≤ e.1 % 32 then b
    else if e.2.1 = 0 then (if bit (b.csr e.1 0x320) 2 then b else b.setCsr e.1 0xB02 (b.csr e.1 0xB02 + e.2.2))
    else b.hpm e.1 e.2.1 e.2.2

/-- Charge the clocked cycles of each hart and the flits injected for each partition (R507); mcycle counts the cycles. -/
def Block.chargeTurn (cycles flits : List (Nat × Nat)) (b : Block) : Block :=
  let b := b.forL cycles fun e b =>
    if 384 ≤ e.1 then b
    else
      let b := b.when (!bit (b.csr e.1 0x320) 0) (Block.setCsr e.1 0xB00 ((b.csr e.1 0xB00 + e.2) % 2 ^ 64))
      match (b.hart e.1).pin with
      | some (p, _, _) => b.charge (e.1 / 32) p (e.2 * 9500)
      | none => b
  b.forL flits fun e b => b.charge 12 e.1 (e.2 * 4500)

/-- Counters that keep the ending turn: PMU snapshots (R107), USED to PREV (R161), the homes' TC3 figures, the boundaries toward DECAY (R99). -/
def Block.turnCounters (b : Block) : Block :=
  let b := b.forN 12 fun n b =>
    if !b.active? n then b
    else
      b.when (b.isSet PMU_CTL_SNAP n) (fun b => b.forN 8 fun k b => b.put PMU_SNAP_COUNT (b.get PMU_CNT_COUNT n k) n k)
        |>.forN 16 (fun i b => b.put MST_BPREV_PREV (b.get MST_BUSED_USED n i) n i |>.put MST_BUSED_USED 0 n i)
        |>.modSail n fun t => { t with decay := t.decay + 1 }
  let b := b.forN 8 fun h b =>
    let u := SMap.get (0, 0) h b.coh.tc3
    b.put HOM_TC3MAX_MAXNS u.1 h |>.put HOM_TC3MAX_OVERCNT u.2 h
  b.modCoh fun c => { c with tc3 := [] }

/-- What is kept for one turn alone starts again: the limits of R527, the corrected errors of mesh lanes (R228), the input cut-off and report of R53. -/
def Block.turnFresh (b : Block) : Block :=
  { b with flog := { b.flog with low := 0, once := [] }, net := { b.net with corr := [] } }
    |>.modTu fun t => { t with tagNext := false, reported := false, timedOut := false, imgNow := false }

/-! ## Changes of the device state at a boundary -/

/-- The switch of a pending image in READY, RUN or DEGRADED, when it is due (R454); registers that an earlier switch left to this boundary (R51). -/
def Block.boundaryImage (b : Block) : Block :=
  if b.commit.state = 2 && (b.dev = .ready || (b.outputsOn && b.switchDue)) then b.switchBoundary
  else if b.tu.loadNext then b.regsBoundary else b

/-- READY becomes RUN at this boundary unless the image that switches refuses a placement: a START was accepted or autostart is set. -/
def Block.goesRun (b : Block) : Bool := b.dev = .ready && (b.gov.startPending || b.actN 0x1120 2 = 1)

/-- READY to RUN by an accepted START or by autostart (R28, R29); a START whose READY is gone is not applied. -/
def Block.boundaryStart (wasReady : Bool) (b : Block) : Block :=
  let asked := b.gov.startPending
  let b := { b with gov := { b.gov with startPending := false } }
  if b.dev = .ready then (if asked || (wasReady && b.actN 0x1120 2 = 1) then b.setDev .run else b)
  else if asked then b.notAccepted else b

/-- Every partition runs with full replicas and no non-fused sail is LOST (R28). -/
def Block.whole (b : Block) : Bool :=
  (List.range 64).all (fun p => !b.partDefined p || (b.get BLT_PSTAT_STATE p = pRunning && b.fullRepls p))
    && (List.range 12).all fun n => b.isSet GOV_SAILSTAT_FUSED n || b.sailSt n ≠ 4

/-- DEGRADED to RUN, with 0x000D; a class 3 fault of the same boundary comes first (R28, R29). -/
def Block.boundaryRecover (old b : Block) : Block :=
  if old.dev = .degraded && b.dev = .degraded && b.whole && SMap.get 0 3 old.flog.counts = SMap.get 0 3 b.flog.counts then
    b.setDev .run |>.note { code := 0x000D }
  else b

/-- A debug session ends when the turn number reaches EXPIRY (R488). -/
def Block.boundaryDebug (b : Block) : Block := if b.trust.dbg.open' && b.trust.dbg.expiry ≤ b.turn then b.dbgEnd else b

/-! ## The boundary -/

/-- The end of the turn: the timers restart and the number advances; at the end of a stepped turn the time base is set (R41, R39, R44, R561). -/
def Block.newTurn (b : Block) : Block :=
  let stepped : Bool := b.tu.stepLen ≠ 0
  let b := b.endOfPeriod
  b.put TRN_NUM_NUM (b.nextTurn stepped) |>.modTu (fun t => { t with zeroNext := false }) |>.when stepped Block.setTimeBase

/-- The image, the throttle with its limits, START (R454, R513, R29), and the offset check in RUN and DEGRADED, where the unit never steps (R44). -/
def Block.govNormal (pkg ns : Nat) (wasReady far : Bool) (b : Block) : Block :=
  let b := b.boundaryImage |>.throttle pkg ns |>.boundaryStart wasReady
  b.when (far && b.outputsOn) (Block.raise { code := 0x3104 })

/-- What the governor and the power controller decide at the boundary: the offset check under the image of the ended turn, the image, the throttle,
START, operating points (R44, R454, R513, R29, R504). A step comes first: an image then switches at the stepped boundary (R51). The boundary that
enters RUN takes no step. -/
def Block.govBoundary (pkg ns : Nat) (wasReady : Bool) (b : Block) : Block :=
  let far := b.offsetFar
  let b := if far && !b.outputsOn && !b.goesRun then b.stepTurn |>.throttle pkg ns else b.govNormal pkg ns wasReady far
  b.decideOps

/-- What the other blocks do at the boundary. -/
def Block.blocksBoundary (ns : Nat) (b : Block) : Block :=
  b.dresserBoundary ns |>.readmitBoundary |>.partsBoundary |>.cleanOn |>.swapBoundary |>.flumeBoundary |>.slcBoundary
    |>.mbxBoundary |>.lvpBoundary |>.holdoverTurn |>.syncPulse

/-- The hottest reading of each sensor starts anew with the turn. -/
def Block.freshTmax (b : Block) : Block := { b with pwr := { b.pwr with tmax := [] } }

/-- TURN_BOUNDARY (R52). `energy`: the integral of each channel over the ending turn, in nJ; `cycles`: clocked cycles of harts; `flits`: flits injected
for partitions; `events`: what the cores and L3s counted. The per-turn figures of the ending turn are latched first. -/
def Block.boundary (energy cycles flits : List (Nat × Nat)) (events : List (Nat × Nat × Nat)) (old : Block) : Block :=
  let ns := old.periodNs
  let b := old.newTurn.turnFresh
  let pkg := b.packageEnergy energy
  let b := b.evtBoundary |>.countTurn events |>.chargeTurn cycles flits |>.latchTemp |>.latchEnergy energy |>.turnCounters |>.tokensBoundary ns
  let b := b.govBoundary pkg ns (decide (old.dev = .ready))
  let b := b.freshTmax.blocksBoundary ns
  let b := Block.boundaryRecover old b
  let b := b.boundaryDebug
  b.when (b.dev = .shutdown && b.pwr.shutStep = 1) Block.shutRails |>.refreshMirror

def execTurnBoundary (energy cycles flits : List (Nat × Nat)) (events : List (Nat × Nat × Nat)) (s : State) : Host.Outcome State Fault Refusal :=
  onBlk s fun b => if b.running && b.dev ≠ .off && !b.govHalted then b.boundary energy cycles flits events else b

end Sys2Proof.Machine
end

