-- ==== Sys2Proof/Machine/Dispatch.lean ====
section
/-! DEFINITION. exec: one arm per command. -/

namespace Sys2Proof.Machine

/-- The effect of a command on everything but the queue of waiting commands (one arm per row of the opcode table). -/
def exec (i : Instr) (s : State) : Host.Outcome State Fault Refusal :=
  match i with
  | .powerOnReset lowNs => Sys2Proof.Machine.execPowerOnReset lowNs s
  | .governorFirmwareEntry => Sys2Proof.Machine.execGovernorFirmwareEntry s
  | .packageWarmReset => Sys2Proof.Machine.execPackageWarmReset s
  | .warmResetDelayExpiry => Sys2Proof.Machine.execWarmResetDelayExpiry s
  | .trialTimerExpiry => Sys2Proof.Machine.execTrialTimerExpiry s
  | .startRequest outranked => Sys2Proof.Machine.execStartRequest outranked s
  | .safeHoldRequest outranked => Sys2Proof.Machine.execSafeHoldRequest outranked s
  | .serviceRequest path src outranked => Sys2Proof.Machine.execServiceRequest path src outranked s
  | .shutdownRequest => Sys2Proof.Machine.execShutdownRequest s
  | .resumeRequest outranked => Sys2Proof.Machine.execResumeRequest outranked s
  | .packageResetRequest outranked => Sys2Proof.Machine.execPackageResetRequest outranked s
  | .govHoldreqWrite mid key outranked => Sys2Proof.Machine.execGovHoldreqWrite mid key outranked s
  | .selftestComplete govOk hubOk memOk faults => Sys2Proof.Machine.execSelftestComplete govOk hubOk memOk faults s
  | .faultRaised faults => Sys2Proof.Machine.execFaultRaised faults s
  | .faultOutReadback padA padB => Sys2Proof.Machine.execFaultOutReadback padA padB s
  | .faultOutTest on => Sys2Proof.Machine.execFaultOutTest on s
  | .turnBoundary energy cycles flits events => Sys2Proof.Machine.execTurnBoundary energy cycles flits events s
  | .inputCutoff => Sys2Proof.Machine.execInputCutoff s
  | .sluiceWritesComplete => Sys2Proof.Machine.execSluiceWritesComplete s
  | .windowReportTimeout => Sys2Proof.Machine.execWindowReportTimeout s
  | .windowWriteDiscard flow => Sys2Proof.Machine.execWindowWriteDiscard flow s
  | .partitionEntry part => Sys2Proof.Machine.execPartitionEntry part s
  | .turnsealWrite sail core value => Sys2Proof.Machine.execTurnsealWrite sail core value s
  | .replicaSealed part repl => Sys2Proof.Machine.execReplicaSealed part repl s
  | .deadlineMark part => Sys2Proof.Machine.execDeadlineMark part s
  | .masterTimerMismatch => Sys2Proof.Machine.execMasterTimerMismatch s
  | .ppsInEdge => Sys2Proof.Machine.execPpsInEdge s
  | .turnSyncInEdge => Sys2Proof.Machine.execTurnSyncInEdge s
  | .holdoverEntry => Sys2Proof.Machine.execHoldoverEntry s
  | .holdoverLimit => Sys2Proof.Machine.execHoldoverLimit s
  | .ppsOutSecond => Sys2Proof.Machine.execPpsOutSecond s
  | .syncOutputPulseEnd pps => Sys2Proof.Machine.execSyncOutputPulseEnd pps s
  | .evtInputEdge input high => Sys2Proof.Machine.execEvtInputEdge input high s
  | .evtFilterAccept input => Sys2Proof.Machine.execEvtFilterAccept input s
  | .evtCrossingAck input => Sys2Proof.Machine.execEvtCrossingAck input s
  | .evtStuckRearm input => Sys2Proof.Machine.execEvtStuckRearm input s
  | .railSettled sail => Sys2Proof.Machine.execRailSettled sail s
  | .op0CleanComplete sail => Sys2Proof.Machine.execOp0CleanComplete sail s
  | .cacheErrorCorrected sail core place slice way addr => Sys2Proof.Machine.execCacheErrorCorrected sail core place slice way addr s
  | .cacheUncorrectableError sail core place tag slice way addr => Sys2Proof.Machine.execCacheUncorrectableError sail core place tag slice way addr s
  | .wayErrorDecay sail => Sys2Proof.Machine.execWayErrorDecay sail s
  | .l3MaskLockWrite mid sail which index value => Sys2Proof.Machine.execL3MaskLockWrite mid sail which index value s
  | .mntClean sail mid ctl => Sys2Proof.Machine.execMntClean sail mid ctl s
  | .mntCleaninv sail mid ctl => Sys2Proof.Machine.execMntCleaninv sail mid ctl s
  | .mntLockload sail mid ctl => Sys2Proof.Machine.execMntLockload sail mid ctl s
  | .mntReservedOp sail mid ctl => Sys2Proof.Machine.execMntReservedOp sail mid ctl s
  | .mntComplete sail => Sys2Proof.Machine.execMntComplete sail s
  | .coreStop sail core lost => Sys2Proof.Machine.execCoreStop sail core lost s
  | .sailCapwordRead sail rev level maxGt => Sys2Proof.Machine.execSailCapwordRead sail rev level maxGt s
  | .flumeTrainingComplete sail up0 up1 delay => Sys2Proof.Machine.execFlumeTrainingComplete sail up0 up1 delay s
  | .sailTrainingTimeout sail => Sys2Proof.Machine.execSailTrainingTimeout sail s
  | .sailSelftestComplete sail pass badWays => Sys2Proof.Machine.execSailSelftestComplete sail pass badWays s
  | .readmitRequest sail => Sys2Proof.Machine.execReadmitRequest sail s
  | .autoReadmit sail => Sys2Proof.Machine.execAutoReadmit sail s
  | .readmitStepsComplete sail ok => Sys2Proof.Machine.execReadmitStepsComplete sail ok s
  | .broadcastFence sail core kind addr asid vmid => Sys2Proof.Machine.execBroadcastFence sail core kind addr asid vmid s
  | .binvMsg sail src id => Sys2Proof.Machine.execBinvMsg sail src id s
  | .binvAck sail src id => Sys2Proof.Machine.execBinvAck sail src id s
  | .binvTimeout src id => Sys2Proof.Machine.execBinvTimeout src id s
  | .iotTranslate dev mid part pasid write exec iova => Sys2Proof.Machine.execIotTranslate dev mid part pasid write exec iova s
  | .iotinvalVma => Sys2Proof.Machine.execIotinvalVma s
  | .iotinvalGvma => Sys2Proof.Machine.execIotinvalGvma s
  | .iodirCmd => Sys2Proof.Machine.execIodirCmd s
  | .iofenceC => Sys2Proof.Machine.execIofenceC s
  | .iofenceCComplete => Sys2Proof.Machine.execIofenceCComplete s
  | .iotCommandIllegal => Sys2Proof.Machine.execIotCommandIllegal s
  | .mstDoorbell part sail j count => Sys2Proof.Machine.execMstDoorbell part sail j count s
  | .nopCmd sail bind queue => Sys2Proof.Machine.execNopCmd sail bind queue s
  | .gemmCmd sail bind queue => Sys2Proof.Machine.execGemmCmd sail bind queue s
  | .convCmd sail bind queue => Sys2Proof.Machine.execConvCmd sail bind queue s
  | .copyCmd sail bind queue => Sys2Proof.Machine.execCopyCmd sail bind queue s
  | .signalCmd sail bind queue => Sys2Proof.Machine.execSignalCmd sail bind queue s
  | .tileBlockBoundary sail tile mis1 mis2 corrected bad => Sys2Proof.Machine.execTileBlockBoundary sail tile mis1 mis2 corrected bad s
  | .millstoneCommandComplete sail bind queue => Sys2Proof.Machine.execMillstoneCommandComplete sail bind queue s
  | .resumeQueue part sail j => Sys2Proof.Machine.execResumeQueue part sail j s
  | .skipCmd part sail j => Sys2Proof.Machine.execSkipCmd part sail j s
  | .rdShared mid part txid addr way tc3 => Sys2Proof.Machine.execRdShared mid part txid addr way tc3 s
  | .rdUnique mid part txid addr way tc3 => Sys2Proof.Machine.execRdUnique mid part txid addr way tc3 s
  | .upgradeReq mid part txid addr => Sys2Proof.Machine.execUpgradeReq mid part txid addr s
  | .dirtyNote mid part txid addr => Sys2Proof.Machine.execDirtyNote mid part txid addr s
  | .wbDirty mid part txid addr => Sys2Proof.Machine.execWbDirty mid part txid addr s
  | .evictClean mid part txid addr => Sys2Proof.Machine.execEvictClean mid part txid addr s
  | .rdOnce mid part txid addr tc3 => Sys2Proof.Machine.execRdOnce mid part txid addr tc3 s
  | .wrFull mid part txid addr => Sys2Proof.Machine.execWrFull mid part txid addr s
  | .wrPart mid part txid addr => Sys2Proof.Machine.execWrPart mid part txid addr s
  | .wrData mid txid addr data mask poison => Sys2Proof.Machine.execWrData mid txid addr data mask poison s
  | .snpShared sail addr txid => Sys2Proof.Machine.execSnpShared sail addr txid s
  | .snpUnique sail addr txid => Sys2Proof.Machine.execSnpUnique sail addr txid s
  | .snpOnce sail addr txid => Sys2Proof.Machine.execSnpOnce sail addr txid s
  | .snpInv sail addr txid => Sys2Proof.Machine.execSnpInv sail addr txid s
  | .tagRead sail slice set => Sys2Proof.Machine.execTagRead sail slice set s
  | .snpResp sail txid addr st hasData evicting => Sys2Proof.Machine.execSnpResp sail txid addr st hasData evicting s
  | .snpData sail txid addr data poison => Sys2Proof.Machine.execSnpData sail txid addr data poison s
  | .tagResp sail slice set tags => Sys2Proof.Machine.execTagResp sail slice set tags s
  | .compMsg mid txid addr => Sys2Proof.Machine.execCompMsg mid txid addr s
  | .compData mid txid addr st data poison => Sys2Proof.Machine.execCompData mid txid addr st data poison s
  | .evictAck sail addr => Sys2Proof.Machine.execEvictAck sail addr s
  | .retryMsg mid txid addr k => Sys2Proof.Machine.execRetryMsg mid txid addr k s
  | .retryBackoffExpiry mid txid => Sys2Proof.Machine.execRetryBackoffExpiry mid txid s
  | .ioRd mid part addr width => Sys2Proof.Machine.execIoRd mid part addr width s
  | .ioWr mid part addr width value => Sys2Proof.Machine.execIoWr mid part addr width value s
  | .ioComp mid txid err data => Sys2Proof.Machine.execIoComp mid txid err data s
  | .requesterTimeout mid txid => Sys2Proof.Machine.execRequesterTimeout mid txid s
  | .homeTimeout mid txid addr => Sys2Proof.Machine.execHomeTimeout mid txid addr s
  | .filterUncorrectable bank corrected => Sys2Proof.Machine.execFilterUncorrectable bank corrected s
  | .rebuildSet bank => Sys2Proof.Machine.execRebuildSet bank s
  | .trackingModeSwitch filter => Sys2Proof.Machine.execTrackingModeSwitch filter s
  | .poisonMarkingComplete sail => Sys2Proof.Machine.execPoisonMarkingComplete sail s
  | .scrubRequest mc line => Sys2Proof.Machine.execScrubRequest mc line s
  | .flumePortIngress sail mid code part addr prefetch => Sys2Proof.Machine.execFlumePortIngress sail mid code part addr prefetch s
  | .meshLaneFail link lane corrected => Sys2Proof.Machine.execMeshLaneFail link lane corrected s
  | .meshHeaderUncorrectable router => Sys2Proof.Machine.execMeshHeaderUncorrectable router s
  | .routingTableWrite mid bank router index value => Sys2Proof.Machine.execRoutingTableWrite mid bank router index value s
  | .mrcSwapRequest mid => Sys2Proof.Machine.execMrcSwapRequest mid s
  | .routingDrainComplete => Sys2Proof.Machine.execRoutingDrainComplete s
  | .drainOverrun => Sys2Proof.Machine.execDrainOverrun s
  | .flumeFrameCrcError sail link side => Sys2Proof.Machine.execFlumeFrameCrcError sail link side s
  | .flumeNak sail link side seq => Sys2Proof.Machine.execFlumeNak sail link side seq s
  | .flumeNakResend sail link side => Sys2Proof.Machine.execFlumeNakResend sail link side s
  | .flumeLinkDown sail link => Sys2Proof.Machine.execFlumeLinkDown sail link s
  | .linksyncFrame sail link side seq => Sys2Proof.Machine.execLinksyncFrame sail link side seq s
  | .heartbeatFrame sail link side => Sys2Proof.Machine.execHeartbeatFrame sail link side s
  | .heartbeatReceived sail link bmiss => Sys2Proof.Machine.execHeartbeatReceived sail link bmiss s
  | .heartbeatTimeout sail => Sys2Proof.Machine.execHeartbeatTimeout sail s
  | .sailHubSilent sail => Sys2Proof.Machine.execSailHubSilent sail s
  | .boundaryFrame sail copy turn => Sys2Proof.Machine.execBoundaryFrame sail copy turn s
  | .retrain0 sail mid => Sys2Proof.Machine.execRetrain0 sail mid s
  | .retrain1 sail mid => Sys2Proof.Machine.execRetrain1 sail mid s
  | .flumeLinkRestored sail link => Sys2Proof.Machine.execFlumeLinkRestored sail link s
  | .memoryTrainingComplete mc capGiB binIdx mr tj crcOk verified ok => Sys2Proof.Machine.execMemoryTrainingComplete mc capGiB binIdx mr tj crcOk verified ok s
  | .eccSelftestComplete mc pass => Sys2Proof.Machine.execEccSelftestComplete mc pass s
  | .layoutInitComplete => Sys2Proof.Machine.execLayoutInitComplete s
  | .ownerChangeComplete region => Sys2Proof.Machine.execOwnerChangeComplete region s
  | .mr4Read mc above2x => Sys2Proof.Machine.execMr4Read mc above2x s
  | .mcRead mid part pa newErr newMirrorErr tc3 => Sys2Proof.Machine.execMcRead mid part pa newErr newMirrorErr tc3 s
  | .mcWrite mid part pa data mask poison tc3 => Sys2Proof.Machine.execMcWrite mid part pa data mask poison tc3 s
  | .mergeFlush mc => Sys2Proof.Machine.execMergeFlush mc s
  | .dresserRead mc newErr newMirrorErr => Sys2Proof.Machine.execDresserRead mc newErr newMirrorErr s
  | .abandonRepl sail core value => Sys2Proof.Machine.execAbandonRepl sail core value s
  | .digestComplete part repl refused => Sys2Proof.Machine.execDigestComplete part repl refused s
  | .bolterDecision part => Sys2Proof.Machine.execBolterDecision part s
  | .releaseInstant part => Sys2Proof.Machine.execReleaseInstant part s
  | .digestRecord record => Sys2Proof.Machine.execDigestRecord record s
  | .catchUpStart part repl => Sys2Proof.Machine.execCatchUpStart part repl s
  | .catchUpComplete part repl => Sys2Proof.Machine.execCatchUpComplete part repl s
  | .repairCopyComplete part => Sys2Proof.Machine.execRepairCopyComplete part s
  | .restoreStart part => Sys2Proof.Machine.execRestoreStart part s
  | .restoreComplete part => Sys2Proof.Machine.execRestoreComplete part s
  | .partitionRestartRequest part => Sys2Proof.Machine.execPartitionRestartRequest part s
  | .partitionResetRequest part => Sys2Proof.Machine.execPartitionResetRequest part s
  | .portEnable port => Sys2Proof.Machine.execPortEnable port s
  | .laneLock port lanes => Sys2Proof.Machine.execLaneLock port lanes s
  | .trainTimeout port => Sys2Proof.Machine.execTrainTimeout port s
  | .alignLock port => Sys2Proof.Machine.execAlignLock port s
  | .initFrame port data => Sys2Proof.Machine.execInitFrame port data s
  | .initSend port => Sys2Proof.Machine.execInitSend port s
  | .codewordLockLost port => Sys2Proof.Machine.execCodewordLockLost port s
  | .partnerAbsent port => Sys2Proof.Machine.execPartnerAbsent port s
  | .portReset port => Sys2Proof.Machine.execPortReset port s
  | .sackReceive port start body tail fixed => Sys2Proof.Machine.execSackReceive port start body tail fixed s
  | .uncorrectableCodeword port => Sys2Proof.Machine.execUncorrectableCodeword port s
  | .beaconFrame port data => Sys2Proof.Machine.execBeaconFrame port data s
  | .keepaliveFrame port => Sys2Proof.Machine.execKeepaliveFrame port s
  | .keepaliveReceived port data => Sys2Proof.Machine.execKeepaliveReceived port data s
  | .creditFrame port data => Sys2Proof.Machine.execCreditFrame port data s
  | .creditReport port => Sys2Proof.Machine.execCreditReport port s
  | .lanemapFrame port data => Sys2Proof.Machine.execLanemapFrame port data s
  | .lanemapResend port => Sys2Proof.Machine.execLanemapResend port s
  | .laneFail port lane => Sys2Proof.Machine.execLaneFail port lane s
  | .laneRestore port lane => Sys2Proof.Machine.execLaneRestore port lane s
  | .probeFrame port data => Sys2Proof.Machine.execProbeFrame port data s
  | .alignMarker port data => Sys2Proof.Machine.execAlignMarker port data s
  | .portBoundaryMissed port => Sys2Proof.Machine.execPortBoundaryMissed port s
  | .txSlotStart port slot => Sys2Proof.Machine.execTxSlotStart port slot s
  | .dupCopySend port => Sys2Proof.Machine.execDupCopySend port s
  | .slotEnd port slot => Sys2Proof.Machine.execSlotEnd port slot s
  | .scheduleAnnouncement => Sys2Proof.Machine.execScheduleAnnouncement s
  | .keyOffer port src dst payload => Sys2Proof.Machine.execKeyOffer port src dst payload s
  | .keyAccept port src dst payload => Sys2Proof.Machine.execKeyAccept port src dst payload s
  | .keyConfirm port src dst payload => Sys2Proof.Machine.execKeyConfirm port src dst payload s
  | .keyReject port payload => Sys2Proof.Machine.execKeyReject port payload s
  | .keyOfferResend port => Sys2Proof.Machine.execKeyOfferResend port s
  | .rekeyRequest via port => Sys2Proof.Machine.execRekeyRequest via port s
  | .ethernetFrameReceive port lane frame => Sys2Proof.Machine.execEthernetFrameReceive port lane frame s
  | .macsecKeyWrite via tx sub key => Sys2Proof.Machine.execMacsecKeyWrite via tx sub key s
  | .flowWalkComplete walk => Sys2Proof.Machine.execFlowWalkComplete walk s
  | .flowCacheError index correctable => Sys2Proof.Machine.execFlowCacheError index correctable s
  | .instanceDoorbell mid part inst queue tail => Sys2Proof.Machine.execInstanceDoorbell mid part inst queue tail s
  | .descriptorComplete => Sys2Proof.Machine.execDescriptorComplete s
  | .flowInsert mid part arg => Sys2Proof.Machine.execFlowInsert mid part arg s
  | .flowDelete mid part arg => Sys2Proof.Machine.execFlowDelete mid part arg s
  | .flowModify mid part arg => Sys2Proof.Machine.execFlowModify mid part arg s
  | .flowRead mid part arg => Sys2Proof.Machine.execFlowRead mid part arg s
  | .flowLookup mid part arg => Sys2Proof.Machine.execFlowLookup mid part arg s
  | .instConfig mid part arg => Sys2Proof.Machine.execInstConfig mid part arg s
  | .qctxWrite mid part arg => Sys2Proof.Machine.execQctxWrite mid part arg s
  | .qctxRead mid part arg => Sys2Proof.Machine.execQctxRead mid part arg s
  | .instShare mid part arg => Sys2Proof.Machine.execInstShare mid part arg s
  | .instResetDrain mid part arg => Sys2Proof.Machine.execInstResetDrain mid part arg s
  | .instResetSquash mid part arg => Sys2Proof.Machine.execInstResetSquash mid part arg s
  | .logConfig mid part arg => Sys2Proof.Machine.execLogConfig mid part arg s
  | .logSwap mid part arg => Sys2Proof.Machine.execLogSwap mid part arg s
  | .logStop mid part arg => Sys2Proof.Machine.execLogStop mid part arg s
  | .instClrerr mid part arg => Sys2Proof.Machine.execInstClrerr mid part arg s
  | .drainTimeout inst => Sys2Proof.Machine.execDrainTimeout inst s
  | .instanceResetComplete inst => Sys2Proof.Machine.execInstanceResetComplete inst s
  | .hopMntClean mid first last => Sys2Proof.Machine.execHopMntClean mid first last s
  | .hopMntCleaninv mid first last => Sys2Proof.Machine.execHopMntCleaninv mid first last s
  | .hopMntComplete => Sys2Proof.Machine.execHopMntComplete s
  | .hopperEntryError entry correctable => Sys2Proof.Machine.execHopperEntryError entry correctable s
  | .functionLevelReset fn => Sys2Proof.Machine.execFunctionLevelReset fn s
  | .gptpSync time => Sys2Proof.Machine.execGptpSync time s
  | .timeSyncLoss => Sys2Proof.Machine.execTimeSyncLoss s
  | .diagnosticSessionControl conn req => Sys2Proof.Machine.execDiagnosticSessionControl conn req s
  | .ecuReset conn req => Sys2Proof.Machine.execEcuReset conn req s
  | .clearDiagnosticInformation conn req => Sys2Proof.Machine.execClearDiagnosticInformation conn req s
  | .readDtcInformation conn req => Sys2Proof.Machine.execReadDtcInformation conn req s
  | .readDataByIdentifier conn req => Sys2Proof.Machine.execReadDataByIdentifier conn req s
  | .udsAuthentication conn req => Sys2Proof.Machine.execUdsAuthentication conn req s
  | .routineControl conn req => Sys2Proof.Machine.execRoutineControl conn req s
  | .requestDownload conn req => Sys2Proof.Machine.execRequestDownload conn req s
  | .transferData conn req => Sys2Proof.Machine.execTransferData conn req s
  | .requestTransferExit conn req => Sys2Proof.Machine.execRequestTransferExit conn req s
  | .testerPresent conn req => Sys2Proof.Machine.execTesterPresent conn req s
  | .controlDtcSetting conn req => Sys2Proof.Machine.execControlDtcSetting conn req s
  | .udsUnsupportedService conn sid => Sys2Proof.Machine.execUdsUnsupportedService conn sid s
  | .pciPerstRelease => Sys2Proof.Machine.execPciPerstRelease s
  | .pciPerstAssert => Sys2Proof.Machine.execPciPerstAssert s
  | .pcieLinkUp sub rate width flit => Sys2Proof.Machine.execPcieLinkUp sub rate width flit s
  | .pcieFreeze sub cause => Sys2Proof.Machine.execPcieFreeze sub cause s
  | .releaseSub mid part sub condition => Sys2Proof.Machine.execReleaseSub mid part sub condition s
  | .pciePortReset sub => Sys2Proof.Machine.execPciePortReset sub s
  | .pcieInboundRequest sub target len wdata poison atomic => Sys2Proof.Machine.execPcieInboundRequest sub target len wdata poison atomic s
  | .pcieDoorbell fn queue value => Sys2Proof.Machine.execPcieDoorbell fn queue value s
  | .pcieOutboundRequest mid part inst txid addr width wdata => Sys2Proof.Machine.execPcieOutboundRequest mid part inst txid addr width wdata s
  | .pcieCompletion sub tag status data poison fits final => Sys2Proof.Machine.execPcieCompletion sub tag status data poison fits final s
  | .completionTimeout sub tag => Sys2Proof.Machine.execCompletionTimeout sub tag s
  | .tagQuarantineExpiry sub tag => Sys2Proof.Machine.execTagQuarantineExpiry sub tag s
  | .windowCommit mid part => Sys2Proof.Machine.execWindowCommit mid part s
  | .windowCommitApplied pending => Sys2Proof.Machine.execWindowCommitApplied pending s
  | .pciHintWrite vec => Sys2Proof.Machine.execPciHintWrite vec s
  | .dictionaryWindowGo => Sys2Proof.Machine.execDictionaryWindowGo s
  | .lockstepMismatch => Sys2Proof.Machine.execLockstepMismatch s
  | .governorSramError correctable entry => Sys2Proof.Machine.execGovernorSramError correctable entry s
  | .millraceProbe ok => Sys2Proof.Machine.execMillraceProbe ok s
  | .mirrorRefresh => Sys2Proof.Machine.execMirrorRefresh s
  | .postMsg mid part set recv len => Sys2Proof.Machine.execPostMsg mid part set recv len s
  | .ackMsg mid part set send => Sys2Proof.Machine.execAckMsg mid part set send s
  | .ackabort mid part set recv => Sys2Proof.Machine.execAckabort mid part set recv s
  | .lockAcquire mid part k => Sys2Proof.Machine.execLockAcquire mid part k s
  | .lockRelease mid part k value => Sys2Proof.Machine.execLockRelease mid part k value s
  | .lockForceRelease mid part k value => Sys2Proof.Machine.execLockForceRelease mid part k value s
  | .dictionaryRead via port stream msg stalled => Sys2Proof.Machine.execDictionaryRead via port stream msg stalled s
  | .dictionaryWrite via port stream msg => Sys2Proof.Machine.execDictionaryWrite via port stream msg s
  | .usdoRequest port client req stalled => Sys2Proof.Machine.execUsdoRequest port client req stalled s
  | .usdoSessionTimeout port client => Sys2Proof.Machine.execUsdoSessionTimeout port client s
  | .nmtCommand => Sys2Proof.Machine.execNmtCommand s
  | .canopenHeartbeat port => Sys2Proof.Machine.execCanopenHeartbeat port s
  | .commitImg via => Sys2Proof.Machine.execCommitImg via s
  | .discardImg via => Sys2Proof.Machine.execDiscardImg via s
  | .persistImg via => Sys2Proof.Machine.execPersistImg via s
  | .commitAndPersist via => Sys2Proof.Machine.execCommitAndPersist via s
  | .commitChecksComplete => Sys2Proof.Machine.execCommitChecksComplete s
  | .imageSwitch => Sys2Proof.Machine.execImageSwitch s
  | .stagerTimeout => Sys2Proof.Machine.execStagerTimeout s
  | .persistComplete ok => Sys2Proof.Machine.execPersistComplete ok s
  | .imageMemoryError staged correctable => Sys2Proof.Machine.execImageMemoryError staged correctable s
  | .loadPublicKey via slot key => Sys2Proof.Machine.execLoadPublicKey via slot key s
  | .revokeSlot via slot => Sys2Proof.Machine.execRevokeSlot via slot s
  | .vendorDebugConsent via => Sys2Proof.Machine.execVendorDebugConsent via s
  | .sessionChallenge via => Sys2Proof.Machine.execSessionChallenge via s
  | .sessionResponse via sig => Sys2Proof.Machine.execSessionResponse via sig s
  | .endSession via => Sys2Proof.Machine.execEndSession via s
  | .sessionTimeout path src => Sys2Proof.Machine.execSessionTimeout path src s
  | .challengeExpiry path src => Sys2Proof.Machine.execChallengeExpiry path src s
  | .authLockoutExpiry iface => Sys2Proof.Machine.execAuthLockoutExpiry iface s
  | .bundleUpload via off last data => Sys2Proof.Machine.execBundleUpload via off last data s
  | .confirmBank via => Sys2Proof.Machine.execConfirmBank via s
  | .advanceCounter via => Sys2Proof.Machine.execAdvanceCounter via s
  | .cancelPending via => Sys2Proof.Machine.execCancelPending via s
  | .attestationNonce via nonce => Sys2Proof.Machine.execAttestationNonce via nonce s
  | .extendMeasurement via sub value => Sys2Proof.Machine.execExtendMeasurement via sub value s
  | .dbgStart => Sys2Proof.Machine.execDbgStart s
  | .dbgRespWrite value => Sys2Proof.Machine.execDbgRespWrite value s
  | .dbgSubmit => Sys2Proof.Machine.execDbgSubmit s
  | .dbgEnd => Sys2Proof.Machine.execDbgEnd s
  | .powerGood mem => Sys2Proof.Machine.execPowerGood mem s
  | .powerGoodTimeout mem => Sys2Proof.Machine.execPowerGoodTimeout mem s
  | .powerGoodLost mem => Sys2Proof.Machine.execPowerGoodLost mem s
  | .regulatorRefresh => Sys2Proof.Machine.execRegulatorRefresh s
  | .regulatorAlert low => Sys2Proof.Machine.execRegulatorAlert low s
  | .powerFailWarning => Sys2Proof.Machine.execPowerFailWarning s
  | .shutdownComplete => Sys2Proof.Machine.execShutdownComplete s
  | .wakeIn => Sys2Proof.Machine.execWakeIn s
  | .sensorReading sensor raw => Sys2Proof.Machine.execSensorReading sensor raw s
  | .thermalTrip sensor => Sys2Proof.Machine.execThermalTrip sensor s
  | .clockLost clk => Sys2Proof.Machine.execClockLost clk s
  | .clockRegained clk => Sys2Proof.Machine.execClockRegained clk s
  | .registerWrite target value hwSet hwClr => Sys2Proof.Machine.execRegisterWrite target value hwSet hwClr s
  | .loadOp sail core va width dst signed hv first => Sys2Proof.Machine.execLoadOp sail core va width dst signed hv first s
  | .storeOp sail core va width src hv => Sys2Proof.Machine.execStoreOp sail core va width src hv s
  | .amo sail core va width dst src op => Sys2Proof.Machine.execAmo sail core va width dst src op s
  | .instructionFetch sail core va len => Sys2Proof.Machine.execInstructionFetch sail core va len s
  | .cacheBlockOperation sail core va op => Sys2Proof.Machine.execCacheBlockOperation sail core va op s
  | .sfenceVma sail core kind addr asid vmid => Sys2Proof.Machine.execSfenceVma sail core kind addr asid vmid s
  | .timerInterrupt sail core => Sys2Proof.Machine.execTimerInterrupt sail core s
  | .haltRequest sail core => Sys2Proof.Machine.execHaltRequest sail core s
  | .abstractCommand sail core cmd => Sys2Proof.Machine.execAbstractCommand sail core cmd s
  | .trstN low => Sys2Proof.Machine.execTrstN low s
  | .pllOutOfLock mem => Sys2Proof.Machine.execPllOutOfLock mem s
  | .vddAonLoss => Sys2Proof.Machine.execVddAonLoss s
  | .pgMemFall => Sys2Proof.Machine.execPgMemFall s
  | .pwrEnCoreTimeout => Sys2Proof.Machine.execPwrEnCoreTimeout s
  | .pciPerstoNRelease sub => Sys2Proof.Machine.execPciPerstoNRelease sub s
  | .hotInsertion sub => Sys2Proof.Machine.execHotInsertion sub s
  | .configurationRequest fn req => Sys2Proof.Machine.execConfigurationRequest fn req s
  | .ltrMessage sub value => Sys2Proof.Machine.execLtrMessage sub value s
  | .correctableError sub status => Sys2Proof.Machine.execCorrectableError sub status s
  | .syncAndFollowUp => Sys2Proof.Machine.execSyncAndFollowUp s
  | .routingActivation conn src kind => Sys2Proof.Machine.execRoutingActivation conn src kind s

end Sys2Proof.Machine
end

