-- ==== Sys2Proof/Machine/Millrace.lean ====
section
/-! DEFINITION. The meshes at work: injection, routers, bridges and ejection, hub cycle by hub cycle (R213, R217-R225, R233). A hub cycle is 0.5 ns. -/

namespace Sys2Proof.Machine

def Block.modNet (f : Net → Net) (b : Block) : Block := { b with net := f b.net }

/-! ## Buffers -/

/-- The first flit of a queue that may go: none of its virtual channel stands before it, and where it is ordered, no ordered one (R220). With what stays. -/
def takeFirst (ok : Flit → Bool) : List Nat → Bool → List Flit → Option (Flit × List Flit)
  | _, _, [] => none
  | vs, o, f :: r =>
    if !vs.contains f.pkt.vc && !(o && f.pkt.ord) && ok f then some (f, r)
    else (takeFirst ok (f.pkt.vc :: vs) (o || f.pkt.ord) r).map fun x => (x.1, f :: x.2)

/-- The key of an input buffer. -/
def inKey (v port vc : Nat) : Nat := (v * 8 + port) * 8 + vc

def Block.inBuf (b : Block) (k : Nat) : List Flit := SMap.get [] k b.net.ins
def Block.outPort (b : Block) (v o : Nat) : OutPort := SMap.get {} (v * 8 + o) b.net.outs

/-- An input has a credit for a virtual channel: 4 flits fit (R217). -/
def Block.hasCredit (b : Block) (v port vc : Nat) : Bool := (b.inBuf (inKey v port vc)).length < 4

/-- A flit enters an input buffer in this cycle. -/
def Block.pushIn (v port : Nat) (f : Flit) (b : Block) : Block :=
  b.modNet fun t => { t with ins := SMap.upd [] (inKey v port f.pkt.vc) (fun l => l ++ [{ f with stamp := b.net.cyc }]) t.ins }

/-! ## Clocks (R78, R79, R213) -/

/-- The clock of a sail mesh in MHz; at OP 0 only nodes 5, 9 and 10 run, on the keep-alive clock. -/
def Block.meshMhz (b : Block) (n m : Nat) : Nat :=
  if (b.sail n).op0 = 2 then (if m = 5 || m = 9 || m = 10 then 250 else 0)
  else match b.get SAIL_OP_CUR n with
    | 0 => 250
    | 1 => 1000
    | 2 => 1500
    | _ => 2000

/-- A clock of `f` MHz ticks in hub cycle `c`. -/
def ticksIn (f c : Nat) : Bool := c * f / 2000 < (c + 1) * f / 2000

/-- The node is clocked in this hub cycle. -/
def Block.clocked (b : Block) (v : Nat) : Bool :=
  match nodeSail v with
  | none => true
  | some n => ticksIn (b.meshMhz n (nodeNo v)) b.net.cyc

/-! ## Routes (R213, R222-R224) -/

/-- The output of a flit at a node: NXT at a hub router, where a flume router has a port for each link; X first in a sail mesh. -/
def outputAt (v : Nat) (p : Pkt) : Nat :=
  if v < 64 then (if p.nxt = 4 && flumeRouters.contains v then 4 + p.dport % 2 else p.nxt)
  else
    let m := nodeNo v
    if m % 4 < p.dnode % 4 then 1 else if p.dnode % 4 < m % 4 then 3 else if m / 4 < p.dnode / 4 then 2 else if p.dnode / 4 < m / 4 then 0 else 4

/-- The node on a side of a node. -/
def nextNode (v o : Nat) : Nat :=
  if v < 64 then neighbour v o
  else match o with | 0 => v - 4 | 1 => v + 1 | 2 => v + 4 | _ => v - 1

/-- The head for the hop to hub router `r`: its output there, looked up on the way (R222), in the bank of its epoch (R224). -/
def Block.lookAhead (b : Block) (r : Nat) (p : Pkt) : Pkt := if r < 64 then { p with nxt := b.tablePort p.epoch r p.drouter } else p

/-! ## Bridges (R233) -/

/-- The bridge at a node that a packet passes toward its block or from it: number, depth, latency toward the block and from it in hub cycles. Latencies are rounded up
(DESIGN CHOICE). The governor has a bridge of its own beside that of the control blocks. -/
def bridgeAt (v : Nat) (p : Pkt) : Option (Nat × Nat × Nat × Nat) :=
  let ioAns : Bool := p.opcode = 0x22 || p.opcode = 0x31
  let gov : Bool := if ioAns then decide (p.mid = midGov) else decide (0xFFF0000000 ≤ p.addr)
  match nodeSail v with
  | some _ => if nodeNo v = 5 || nodeNo v = 10 then some (0, 32, 5, 5) else none
  | none =>
    if v = ctlRouter && gov then some (1, 4, 16, 8)
    else if v = turnRouter || v = ctlRouter || v = debugRouter || v = mbxRouter || v = 35 || v = sluiceRouter || v = pcieRouter then some (0, 16, 7, 5)
    else if v = 18 || v = 21 then some (0, 8, 5, 5)
    else if leavoRouters.contains v then some (0, 16, 6, 5)
    else none

def Block.bridge (b : Block) (k : Nat) : List Flit := SMap.get [] k b.net.br

/-- A flit enters a bridge. -/
def Block.pushBridge (k : Nat) (f : Flit) (b : Block) : Block :=
  b.modNet fun t => { t with br := SMap.upd [] k (fun l => l ++ [{ f with stamp := b.net.cyc }]) t.br }

/-! ## Arrival -/

/-- The command of a message that has arrived, with the class in which it came. -/
def arrivalOf (o : Out) (tc3 : Bool) : Option Instr :=
  o.command.map fun
    | .rdShared mid part txid a way _ => .rdShared mid part txid a way tc3
    | .rdUnique mid part txid a way _ => .rdUnique mid part txid a way tc3
    | .rdOnce mid part txid a _ => .rdOnce mid part txid a tc3
    | i => i

/-- The last flit of a packet is where it was going: its message is taken by a command, poisoned where FPOIS came with the data (R215). A message that has already had
its effect, or was dropped, is none. -/
def Block.landFlit (f : Flit) (b : Block) : Block :=
  if !f.last || !b.net.box.contains f.pkt.msg then b
  else
    let o := if f.fpois then f.pkt.msg.poisoned else f.pkt.msg
    b.modNet fun t => { t with
      box := t.box.replace f.pkt.msg o
      arrived := t.arrived ++ (arrivalOf o (f.pkt.tc = 3)).toList }

/-- A packet for a sail that is not ACTIVE is dropped at its flume port (R205). -/
def Block.dropFlit (f : Flit) (b : Block) : Block := b.when f.last (Block.takeFlight f.pkt.msg)

/-- The sail whose flume port a hub router is. -/
def portSail (v : Nat) : Option Nat := (List.range 12).find? fun n => flumeRouters.getD n 64 = v

/-- Room at the block behind a local port. -/
def Block.sinkRoom (b : Block) (v o : Nat) (f : Flit) : Bool :=
  match (if v < 64 then portSail v else none) with
  | some n => ((b.lend n (o - 4) 0).txq.filter fun g => g.pkt.vc = f.pkt.vc).length < 4
  | none => match bridgeAt v f.pkt with
    | some (i, depth, _, _) => (b.bridge (v * 16 + 2 * i + 1)).length < depth
    | none => true

/-- A flit leaves a mesh at a local port: for a flume link, for a bridge, or for its block at once. Out of the hub mesh its packet is counted out (R225). -/
def Block.eject (v o : Nat) (f : Flit) (b : Block) : Block :=
  let b := b.when (v < 64 && f.last) (Block.drained f.pkt.epoch)
  match (if v < 64 then portSail v else none) with
  | some n => if b.active? n then b.toLink n (o - 4) 0 f else b.dropFlit f
  | none => match bridgeAt v f.pkt with
    | some (i, _, _, _) => b.pushBridge (v * 16 + 2 * i + 1) f
    | none => b.landFlit f

/-! ## Routers (R217, R219, R220) -/

/-- AGE of a flit that leaves its buffer in cycle `c`: 1 for each 32 ns (64 cycles) that it waited. -/
def Flit.ageAt (f : Flit) (c : Nat) : Nat := min 63 (f.pkt.age + (c - f.stamp) / 64)

/-- The rank of a head for an output: TC3, effective class, channel, AGE, then the round robin over the inputs after the one granted last. -/
def Flit.rank (f : Flit) (c input last : Nat) : Nat :=
  let a := f.ageAt c
  let eff := if f.pkt.tc = 3 then 3 else min 2 (f.pkt.tc + ofBool (32 ≤ a))
  (((ofBool (f.pkt.tc = 3) * 4 + eff) * 4 + f.pkt.ch) * 64 + a) * 6 + (5 - (input + 11 - last) % 6)

/-- An ordered packet waits for an ordered one that came before it at the same input for the same output. -/
def Block.heldBack (b : Block) (v input o : Nat) (f : Flit) : Bool :=
  f.pkt.ord && (List.range 8).any fun vc =>
    (b.inBuf (inKey v input vc)).any fun g => g.pkt.ord && !g.body && outputAt v g.pkt = o && g.stamp < f.stamp

/-- The place behind an output has room for a flit. -/
def Block.roomFor (b : Block) (v o : Nat) (f : Flit) : Bool :=
  if o < 4 then b.hasCredit (nextNode v o) (facing o) f.pkt.vc else b.sinkRoom v o f

/-- The heads that may pass an output now: input, virtual channel and flit. -/
def Block.contenders (b : Block) (v o : Nat) : List (Nat × Nat × Flit) :=
  (List.range 6).flatMap fun i => (List.range 8).filterMap fun vc =>
    match b.inBuf (inKey v i vc) with
    | f :: _ => if !f.body && decide (f.stamp < b.net.cyc) && decide (outputAt v f.pkt = o) && !b.heldBack v i o f && b.roomFor v o f then some (i, vc, f) else none
    | [] => none

/-- A flit passes an output: over a halved link in two cycles (R228). A data flit follows its head. -/
def Block.passFlit (v o input vc : Nat) (f : Flit) (b : Block) : Block :=
  let c := b.net.cyc
  let slow : Bool := v < 64 && o < 4 && b.halved (linkNo v o)
  let next : OutPort := { lock := if f.last then none else some (inKey v input vc, f.pkt.msg), last := input, free := c + (if slow then 2 else 1) }
  let b := b.modNet fun t => { t with ins := SMap.upd [] (inKey v input vc) (List.drop 1) t.ins, outs := SMap.set {} (v * 8 + o) next t.outs }
  let f := { f with pkt := { f.pkt with age := f.ageAt c } }
  if o < 4 then
    let r := nextNode v o
    b.pushIn r (facing o) (if f.body then f else { f with pkt := b.lookAhead r f.pkt })
  else b.eject v o f

/-- One output of a node in one cycle. -/
def Block.routeOut (v o : Nat) (b : Block) : Block :=
  let p := b.outPort v o
  if b.net.cyc < p.free then b
  else match p.lock with
    | some (k, msg) => match b.inBuf k with
      | f :: _ =>
        if f.body && decide (f.pkt.msg = msg) && decide (f.stamp < b.net.cyc) && b.roomFor v o f then b.passFlit v o (k / 8 % 8) (k % 8) f else b
      | [] => b
    | none =>
      match (b.contenders v o).foldl (fun (a : Option (Nat × Nat × Flit)) x =>
          match a with
          | none => some x
          | some y => if y.2.2.rank b.net.cyc y.1 p.last < x.2.2.rank b.net.cyc x.1 p.last then some x else a) none with
      | some x => b.passFlit v o x.1 x.2.1 x.2.2
      | none => b

/-- Every node that holds a flit and is clocked. -/
def Block.routeAll (b : Block) : Block :=
  b.forL (b.net.ins.map fun e => e.1 / 64).eraseDups fun v b => b.when (b.clocked v) fun b => b.forN 6 fun o b => b.routeOut v o

/-! ## Injection -/

/-- What was sent becomes packets, which wait at their senders. -/
def Block.postPackets (b : Block) : Block :=
  b.forL b.net.fresh (fun o b =>
      match b.tripOf o with
      | none => b
      | some t => b.modNet fun n => { n with src := SMap.upd [] (t.src * 8 + 4) (fun l => l ++ (t.filled b).flits n.cyc) n.src })
    |>.modNet fun n => { n with fresh := [] }

/-- A flit enters a mesh at a local port. Into the hub, a head is stamped with the active bank and counted (R224, R225). -/
def Block.inject (v port : Nat) (f : Flit) (b : Block) : Block :=
  if v < 64 then
    let e := b.get MRC_EPOCH_CUR
    let p := { f.pkt with epoch := e }
    if f.body then b.pushIn v port { f with pkt := p }
    else b.put MRC_DRAIN_COUNT (b.get MRC_DRAIN_COUNT e + 1) e |>.pushIn v port { f with pkt := b.lookAhead v p }
  else b.pushIn v port f

/-- A sender's next flit goes into its bridge, or straight into the mesh. A sail that has lost the hub sends none (R241). -/
def Block.sendFrom (key : Nat) (b : Block) : Block :=
  let v := key / 8
  let quiet : Bool := match nodeSail v with | some n => (b.sail n).silent | none => false
  let ok (f : Flit) : Bool := match bridgeAt v f.pkt with
    | some (i, depth, _, _) => if v < 64 then (b.bridge (v * 16 + 2 * i)).length < depth else b.hasCredit v 4 f.pkt.vc
    | none => b.hasCredit v 4 f.pkt.vc
  if quiet || !b.clocked v then b
  else match takeFirst ok [] false (SMap.get [] key b.net.src) with
    | none => b
    | some (f, r) =>
      let b := b.modNet fun n => { n with src := SMap.set [] key r n.src }
      match bridgeAt v f.pkt with
      | some (i, _, _, _) => if v < 64 then b.pushBridge (v * 16 + 2 * i) f else b.inject v 4 f
      | none => b.inject v 4 f

def Block.sendAll (b : Block) : Block := b.forL (b.net.src.map (·.1)) Block.sendFrom

/-- A bridge gives out its first flit once its latency has passed and there is room: to the block, to a flume link, or into the mesh. -/
def Block.runBridge (key : Nat) (b : Block) : Block :=
  let v := key / 16
  match b.bridge key with
  | [] => b
  | f :: r =>
    match bridgeAt v f.pkt with
    | none => b
    | some (_, _, toBlock, fromBlock) =>
      let wait := if key % 2 = 1 then toBlock else fromBlock
      let gone (b : Block) : Block := b.modNet fun n => { n with br := SMap.set [] key r n.br }
      if b.net.cyc < f.stamp + wait then b
      else if key % 2 = 0 then (if b.hasCredit v 4 f.pkt.vc then (gone b).inject v 4 f else b)
      else match nodeSail v with
        | some n =>
          if ((b.lend n f.pkt.dport 1).txq.filter fun g => g.pkt.vc = f.pkt.vc).length < 4 then (gone b).toLink n (if nodeNo v = 5 then 0 else 1) 1 f else b
        | none => (gone b).landFlit f

def Block.runBridges (b : Block) : Block := b.forL (b.net.br.map (·.1)) Block.runBridge

end Sys2Proof.Machine
end

