-- ==== Sys2Proof/Machine/Flume.lean ====
section
/-! DEFINITION. The flume links at work (R235-R243): frames with their CRC, credits and acknowledgements, what a receiver does with each, and the way of a packet
from a link into a mesh. -/

namespace Sys2Proof.Machine

/-! ## Frames (R235, R236) -/

/-- One step of the CRC-24, the next bit taken. -/
def crcStep (c : Nat) (x : Bool) : Nat :=
  let s := c * 2 % 2 ^ 24
  if bit c 23 != x then xorN s 0x5D6DCB else s

/-- The CRC-24 over bits 551 to 0. -/
def crc24 (v : Nat) : Nat := (List.range 552).foldl (fun c i => crcStep c (bit v (551 - i))) 0xFFFFFF

/-- Bits 551 to 0 of a frame. -/
def FFrame.word (f : FFrame) : Nat :=
  (match f.flit with | some x => x.bits | none => f.body) % 2 ^ 512 + f.ftype % 8 * 2 ^ 512 + f.vc % 8 * 2 ^ 515 + ofBool f.fpois * 2 ^ 518 + f.seq % 1024 * 2 ^ 519
    + f.ack % 1024 * 2 ^ 529 + f.crvc % 8 * 2 ^ 539 + f.crcnt % 16 * 2 ^ 542

/-- The 576 bits of a frame. -/
def FFrame.bits (f : FFrame) : Nat := f.word + crc24 f.word * 2 ^ 552

/-! ## Sending (R237-R240) -/

/-- A virtual channel has a credit for the other end's buffer: 4 flits are its own, 96 are shared. -/
def LinkEnd.credit (e : LinkEnd) (vc : Nat) : Bool :=
  SMap.get 0 vc e.used < 4 || e.used.foldl (fun s x => s + (x.2 - 4)) 0 < 96

/-- A frame to resend, a new flit that has a credit while fewer than 128 frames are unacknowledged, or IDLE; with the end after it. -/
def LinkEnd.nextData (e : LinkEnd) : FFrame × LinkEnd :=
  let frame (x : Flit) (s : Nat) : FFrame := { ftype := if x.body then 2 else 1, vc := x.pkt.vc, fpois := x.fpois, seq := s, flit := some x }
  match e.resend with
  | f :: r => (frame f.flit f.seq, { e with resend := r })
  | [] =>
    match takeFirst (fun f => e.credit f.pkt.vc && decide (e.replay.length < 128)) [] false e.txq with
    | some (f, r) =>
      (frame f e.tx, { e with txq := r, tx := (e.tx + 1) % 1024, replay := e.replay ++ [{ seq := e.tx, flit := f }], used := SMap.upd 0 f.pkt.vc (· + 1) e.used })
    | none => ({ seq := e.tx }, e)

/-- What an end sends next: a control frame that is due comes first. -/
def LinkEnd.next (e : LinkEnd) (now : Nat) : FFrame × LinkEnd :=
  match e.ctl.find? (fun x => x.1 ≤ now) with
  | some x => ({ x.2 with seq := e.tx }, { e with ctl := e.ctl.erase x })
  | none => e.nextData

/-- The frame with the acknowledgement and the credits that the end owes. -/
def LinkEnd.frame (e : LinkEnd) (now : Nat) : FFrame × LinkEnd :=
  let r := e.next now
  let ack := (e.rx + 1023) % 1024
  match e.owed with
  | [] => ({ r.1 with ack := ack }, r.2)
  | (vc, k) :: _ => ({ r.1 with ack := ack, crvc := vc, crcnt := min 15 k }, { r.2 with owed := SMap.set 0 vc (k - min 15 k) r.2.owed })

/-- Flight and processing of a frame, in hub cycles: 14 ns, and one frame time (R238). -/
def flightCycles : Nat := 30

/-- An end sends a frame; one that tells the other end nothing new need not be kept on the wire. -/
def Block.sendLinkFrame (n k side : Nat) (b : Block) : Block :=
  let e := b.lend n k side
  let r := e.frame b.net.cyc
  let news : Bool := r.1.ftype ≠ 0 || r.1.ack ≠ e.acked || r.1.crcnt ≠ 0
  b.modLend n k side (fun _ => { r.2 with acked := r.1.ack, wire := if news then e.wire ++ [(b.net.cyc + flightCycles, r.1)] else e.wire })
    |>.emit (.flume n k side r.1.bits)

/-- A frame time begins in 8 of 9 hub cycles. -/
def frameIn (c : Nat) : Bool := c * 8 / 9 < (c + 1) * 8 / 9

/-- Both ends of every link that is up send a frame (R239). -/
def Block.sendLinkFrames (b : Block) : Block :=
  if !frameIn b.net.cyc then b
  else b.forN 12 fun n b => b.forN 2 fun k b => b.when (b.linkUp n k) fun b => b.sendLinkFrame n k 0 |>.sendLinkFrame n k 1

/-! ## Receiving -/

/-- Frames up to the acknowledged SEQ leave the replay buffer. -/
def LinkEnd.ackTo (e : LinkEnd) (ack : Nat) : LinkEnd :=
  let keep (f : Frame) : Bool := (f.seq + 1023 - ack) % 1024 < 512
  { e with replay := e.replay.filter keep, resend := e.resend.filter keep }

/-- A packet from sail `n` is complete at the hub: R16 and R230 decide its class, and the port fills DROUTER and DPORT, and DNODE toward a sail (R216). -/
def Block.passHub (n : Nat) (p : Pkt) (b : Block) : Pkt × Block :=
  let req := isRequest p.opcode
  let r := if req then b.ingressClass n p.opcode p.part p.tc else (p.tc, b)
  let b := r.2.when req (Block.modReq p.mid p.txid fun q => { q with tc3 := decide (r.1 = 3) }) |>.when (req && r.1 = 3) (Block.entered n p.mid p.addr p.part)
  let dst := match b.tripOf p.msg with | some t => t.dst | none => ctlRouter
  let q : Pkt := { p with tc := r.1, outward := false, dport := 0, dnode := 0 }
  match nodeSail dst with
  | some m => ({ q with drouter := flumeRouters.getD m 2, dport := b.linkFor m p.addr?, dnode := nodeNo dst }, b)
  | none => ({ q with drouter := dst }, b)

/-- A HEAD or DATA frame in its turn enters the receive buffer. At the hub a packet that is complete is passed on. -/
def Block.acceptFlit (n k side : Nat) (f : Flit) (b : Block) : Block :=
  let b := b.modLend n k side fun e => { e with rx := (e.rx + 1) % 1024, nakOwed := false, rxq := e.rxq ++ [f] }
  if side = 0 && f.last then
    let (p, b) := b.passHub n f.pkt
    b.modLend n k side fun e => { e with rxq := e.rxq.map fun g => if g.pkt.msg = f.pkt.msg then { g with pkt := { p with age := g.pkt.age } } else g }
  else b

/-- The command that a control frame stands for at the end that receives it. -/
def frameCommand (n k side : Nat) (f : FFrame) : Option Instr :=
  match f.ftype with
  | 3 => if side = 0 then some (.heartbeatReceived n k (bit f.body 16)) else none
  | 4 => if side = 1 then some (.boundaryFrame n (f.body / 65536 % 4) (f.body % 65536)) else none
  | 5 => some (.flumeNak n k side (f.body % 1024))
  | 6 => some (.linksyncFrame n k side (f.body % 1024))
  | _ => none

/-- A frame arrives at an end: its acknowledgement and credits are taken, its flit if it has the SEQ expected (R237). -/
def Block.takeFrame (n k side : Nat) (f : FFrame) (b : Block) : Block :=
  let b := b.modLend n k side fun e => { (e.ackTo f.ack) with used := SMap.upd 0 f.crvc (· - f.crcnt) e.used }
  match f.flit with
  | some x => if f.seq = (b.lend n k side).rx then b.acceptFlit n k side { x with fpois := f.fpois } else b
  | none => b.modNet fun t => { t with arrived := t.arrived ++ (frameCommand n k side f).toList }

/-- The frames that an end sent and that are there now. -/
def Block.frameArrivals (key : Nat) (b : Block) : Block :=
  let n := key / 4
  let k := key / 2 % 2
  let side := key % 2
  let e := b.lend n k side
  let l := e.wire.takeWhile fun x => x.1 ≤ b.net.cyc
  if l.isEmpty then b
  else b.modLend n k side (fun e => { e with wire := e.wire.drop l.length })
    |>.forL l fun x b => b.when (b.linkUp n k) (Block.takeFrame n k (1 - side) x.2)

/-- A flit leaves the receive buffer, its credit owed to the other end for the channel on which it came (a request came as no TC3): into the hub mesh, or through the adapter's bridge into the sail's. -/
def Block.leaveRx (key : Nat) (b : Block) : Block :=
  let n := key / 4
  let k := key / 2 % 2
  let side := key % 2
  let v := if side = 0 then flumeRouters.getD n 2 else sailNode n (linkNode k)
  let ok (f : Flit) : Bool :=
    if side = 0 then !f.pkt.outward && b.hasCredit v (4 + k) f.pkt.vc else decide ((b.bridge (v * 16)).length < 32)
  match takeFirst ok [] false (b.lend n k side).rxq with
  | none => b
  | some (f, r) =>
    let vc := if side = 0 && isRequest f.pkt.opcode then 2 * f.pkt.ch else f.pkt.vc
    let b := b.modLend n k side fun e => { e with rxq := r, owed := SMap.upd 0 vc (· + 1) e.owed }
    if side = 0 then b.inject v (4 + k) f else b.pushBridge (v * 16) f

/-- Every end of a link: what arrives, and what leaves its receive buffer. -/
def Block.receiveFrames (b : Block) : Block :=
  let keys := b.mesh.links.map (·.1)
  b.forL keys Block.frameArrivals |>.forL keys Block.leaveRx

end Sys2Proof.Machine
end

