-- ==== Sys2Proof/Machine/LineCode.lean ====
section
/-! DEFINITION. The line code of a native Leavo port: the block scrambler (R310), the packing of 20 blocks into a message and the RS(544,514) codeword (R309). The code
is that of IEEE 802.3 Clause 91, which the spec names: GF(2^10) by x^10 + x^3 + 1, roots alpha^0 to alpha^29, the first symbol sent of the highest degree (PRESUMED). -/

namespace Sys2Proof.Machine

/-! ## Scrambler and blocks (R310) -/

/-- One bit through x^58 + x^39 + 1; bit 0 of the state is the bit sent last. -/
def scrambleBit (st : Nat) (d : Bool) : Bool × Nat :=
  let s := (d != bit st 38) != bit st 57
  (s, (st * 2 + (if s then 1 else 0)) % 2 ^ 58)

/-- The 256 bits of a block. -/
def scrambleBlock (st v : Nat) : Nat × Nat :=
  (List.range 256).foldl (fun a i =>
    let r := scrambleBit a.2 (bit v i)
    (a.1 + (if r.1 then 2 ^ i else 0), r.2)) (0, st)

/-- The same undone: the state is what was received. -/
def descrambleBlock (st v : Nat) : Nat × Nat :=
  (List.range 256).foldl (fun a i =>
    let s := bit v i
    (a.1 + (if (s != bit a.2 38) != bit a.2 57 then 2 ^ i else 0), (a.2 * 2 + (if s then 1 else 0)) % 2 ^ 58)) (0, st)

/-- The 257 bits of a block, scrambled, with the state after it: bit 0 is 1 for a data block. -/
def lineBlock (st : Nat) (data : Bool) (v : Bytes) : Nat × Nat :=
  let r := scrambleBlock st (leNat (v.take 32))
  ((if data then 1 else 0) + 2 * r.1, r.2)

/-- The bits of a message: block j at 257 j (R309). -/
def lineMessage : Nat → List (Bool × Bytes) → Nat × Nat
  | st, [] => (0, st)
  | st, (d, v) :: r =>
    let w := lineBlock st d v
    let m := lineMessage w.2 r
    (w.1 + 2 ^ 257 * m.1, m.2)

/-! ## RS(544,514) (R309) -/

/-- Multiplication by alpha, and of two elements. -/
def rsDouble (a : Nat) : Nat := if bit a 9 then xorN (a * 2 % 1024) 9 else a * 2
def rsMulF (b : Nat) : Nat → Nat → Nat → Nat
  | 0, _, acc => acc
  | n + 1, a, acc => rsMulF b n (rsDouble a) (if bit b (9 - n) then xorN acc a else acc)
def rsMul (a b : Nat) : Nat := rsMulF b 10 a 0

/-- Multiply a polynomial, lowest degree first, by x + r. -/
def polyStep (r : Nat) (p : List Nat) : List Nat := List.zipWith xorN (0 :: p) (p.map (rsMul r) ++ [0])

/-- The generator polynomial: the product of x + alpha^j for j = 0 to 29. -/
def rsGenerator : List Nat :=
  ((List.range 30).foldl (fun (a : List Nat × Nat) _ => (polyStep a.2 a.1, rsDouble a.2)) ([1], 1)).1

/-- The remainder of a message, its symbols in the order sent, by the generator; highest degree first. -/
def rsParity (g msg : List Nat) : List Nat :=
  let h := (g.take 30).reverse
  msg.foldl (fun (r : List Nat) s =>
    let f := xorN s (r.headD 0)
    List.zipWith xorN (r.drop 1 ++ [0]) (h.map (rsMul f))) (List.replicate 30 0)

/-- The 514 symbols of a message. -/
def lineSymbols (m : Nat) : List Nat := (List.range 514).map fun i => m / 2 ^ (10 * i) % 1024

/-- The 5,440 bits of a codeword, the symbol sent first lowest. -/
def lineCodeword (m : Nat) : Nat :=
  let s := lineSymbols m
  (s ++ rsParity rsGenerator s).foldr (fun x a => x + 1024 * a) 0

end Sys2Proof.Machine
end

