-- ==== Sys2Proof/Machine/Line.lean ====
section
/-! DEFINITION. The lines of the native Leavo ports at work (R309-R313): blocks into codewords, codewords onto lanes, alignment codewords. -/

namespace Sys2Proof.Machine

/-- The payload of a sack as data blocks, the last one padded with zeros (R313). -/
def dataBlocks : Nat → Bytes → List (Bool × Bytes)
  | 0, _ => []
  | n + 1, v => if v.isEmpty then [] else (true, slice 0 32 v) :: dataBlocks n (v.drop 32)

/-- The blocks of an output; none of an alignment codeword, which is no part of the block stream. -/
def Out.blocks : Out → List (Bool × Bytes)
  | .block _ v => if v.head? = some 0x7A then [] else [(false, v)]
  | .sack _ st v tail => (false, st) :: dataBlocks v.length v ++ [(false, tail)]
  | _ => []

/-- The port of an output. -/
def Out.linePort : Out → Nat
  | .block k _ => k
  | .sack k _ _ _ => k
  | _ => 6

/-- Twenty blocks leave as a codeword on a lane. -/
def Block.sendCodeword (k lane : Nat) (l : List (Bool × Bytes)) (b : Block) : Block :=
  let m := lineMessage (b.port k).line.scr l
  b.emit (.codeword k lane (lineCodeword m.1)) |>.modPort k fun p => { p with line := { p.line with scr := m.2 } }

/-- The active lanes in ascending order. -/
def Block.txLanes (b : Block) (k : Nat) : List Nat := (List.range 4).filter fun i => bit (b.get LVP_STATUS_TXLANES k) i

/-- What commands have handed to the lines joins their block streams; an alignment codeword leaves at once on the lane that its blocks name. -/
def Block.toLines (b : Block) : Block :=
  b.forL b.net.toLine (fun o b =>
      let k := o.linePort
      match o with
      | .block _ v =>
        if v.head? = some 0x7A then b.sendCodeword k ((v.getD 1 0).toNat % 4) (List.replicate 20 (false, v))
        else b.modPort k fun p => { p with line := { p.line with blocks := p.line.blocks ++ o.blocks } }
      | _ => b.modPort k fun p => { p with line := { p.line with blocks := p.line.blocks ++ o.blocks } })
    |> fun b => { b with net := { b.net with toLine := [] } }

/-- The next data codeword of a port, filled up with IDLE blocks, on active lane c mod L; after every 4,096 × L of them the alignment codewords follow (R311). -/
def Block.dataCodeword (k : Nat) (b : Block) : Block :=
  let ls := b.txLanes k
  let e := (b.port k).line
  let l := e.blocks.take 20
  let fill := List.replicate (20 - l.length) (false, List.replicate 32 (0 : Byte))
  let b := b.modPort k (fun p => { p with line := { p.line with
      blocks := e.blocks.drop 20, next := (e.next + 1) % 2 ^ 32, count := if e.count + 1 < 4096 * ls.length then e.count + 1 else 0 } })
    |>.sendCodeword k (ls.getD (e.next % ls.length) 0) (l ++ fill)
  if e.count + 1 < 4096 * ls.length then b
  else b.sendAm k

/-- One governor cycle of 2,500 ps for a line: each active lane sends a codeword in 48,360 ps. -/
def Block.lineCycle (k : Nat) (b : Block) : Block :=
  let n := (b.txLanes k).length
  if n = 0 || !b.native k then b
  else
    let ps := (b.port k).line.ps + 2500 * n
    if ps < 48360 then b.modPort k fun p => { p with line := { p.line with ps := ps } }
    else b.modPort k (fun p => { p with line := { p.line with ps := ps - 48360 } }) |>.dataCodeword k

def Block.linesCycle (b : Block) : Block := b.toLines.forN 6 Block.lineCycle

end Sys2Proof.Machine
end

