-- ==== Sys2Proof/Machine/Tick.lean ====
section
/-! DEFINITION. What passes while nothing is commanded: a cycle of the governor, the codewords of the ports and the five hub cycles in it. -/

namespace Sys2Proof.Machine

/-- The old bank has drained: the governor takes ROUTING_DRAIN_COMPLETE (R225). -/
def Block.drainCheck (b : Block) : Block :=
  if b.isSet MRC_EPOCH_DRAINING && b.oldPackets = 0 && !b.net.arrived.contains .routingDrainComplete then
    b.modNet fun t => { t with arrived := t.arrived ++ [.routingDrainComplete] }
  else b

/-- A hub cycle of the millrace and the flume links. -/
def Block.netCycle (b : Block) : Block :=
  b.postPackets.receiveFrames.routeAll.runBridges.sendAll.sendLinkFrames.drainCheck |>.modNet fun t => { t with cyc := t.cyc + 1 }

/-- A governor cycle of 2.5 ns: the timers, the lines of the ports and five hub cycles. In OFF nothing runs. -/
def Block.idle (b : Block) : Block := if b.dev = .off then b else b.govCycle.msisDue.linesCycle.forN 5 fun _ b => b.netCycle

/-- The commands of what has arrived join the queue. -/
def State.collect (s : State) : State :=
  { s with pending := s.pending ++ s.blk.net.arrived, blk := s.blk.modNet fun t => { t with arrived := [] } }

/-- A step in which nothing is commanded: the timers and the millrace run for one governor cycle, and what arrives where it is going joins the queue. -/
def State.idle (s : State) : State := { s with blk := s.blk.begin.idle }.collect

end Sys2Proof.Machine
end

