-- ==== Sys2Proof/Safety.lean ====
section
/-! DEFINITION. The terms in which statements speak of a step: the block as a command finds it, the machine with a changed block, one byte of DRAM,
and the canonical form of memory. -/

namespace Sys2Proof.Machine

/-- The block as a command finds it: what the last one emitted is on its way, and nothing is emitted yet. -/
def State.start (s : State) : Block := s.blk.begin

/-- The machine with block `b`: the waiting commands are the same. -/
def State.withBlk (s : State) (b : Block) : State := { s with blk := b }

/-- One byte of DRAM: controller `mc`, local address `a`. -/
def State.byte (s : State) (mc a : Nat) : BitVec 8 := SMap.get 0 (cellKey mc a) s.blk.mem

/-- Memory in its canonical form: rising addresses, and no entry that reads as an unlisted one does. -/
def Memory.wf (m : List Host.Cell) : Bool := SMap.wf 0 m

/-- DRAM and scratch are in canonical form. -/
def State.MemOk (s : State) : Prop := Memory.wf s.blk.mem = true ∧ Memory.wf s.blk.scr.bytes = true

/-- The commands that may change a byte of DRAM: writes and repairs at a controller, lines that leave a cache, copies of the bolter and the millstones,
structures and logs that a block keeps in DRAM (a read of DRAM may append to the error log), initialisation, and resets. -/
def mayStore : Instr → Bool
  | .abstractCommand .. | .advanceCounter .. | .amo .. | .attestationNonce .. | .binvAck .. | .binvMsg ..
  | .bundleUpload .. | .cacheBlockOperation .. | .cacheErrorCorrected .. | .cacheUncorrectableError .. | .cancelPending .. | .catchUpComplete ..
  | .clockLost .. | .commitAndPersist .. | .commitImg .. | .compData .. | .compMsg .. | .configurationRequest ..
  | .confirmBank .. | .convCmd .. | .copyCmd .. | .descriptorComplete .. | .dictionaryRead .. | .dictionaryWindowGo ..
  | .dictionaryWrite .. | .digestComplete .. | .dirtyNote .. | .discardImg .. | .drainTimeout .. | .dresserRead ..
  | .ecuReset .. | .endSession .. | .ethernetFrameReceive .. | .evictAck .. | .evictClean .. | .extendMeasurement ..
  | .flowDelete .. | .flowInsert .. | .flowLookup .. | .flowModify .. | .flowRead .. | .flowWalkComplete ..
  | .flumeLinkDown .. | .flumeNak .. | .flumePortIngress .. | .functionLevelReset .. | .gemmCmd .. | .heartbeatReceived ..
  | .heartbeatTimeout .. | .homeTimeout .. | .hopMntClean .. | .hopMntCleaninv .. | .hopperEntryError .. | .imageSwitch ..
  | .instClrerr .. | .instConfig .. | .instResetDrain .. | .instResetSquash .. | .instShare .. | .instanceDoorbell ..
  | .instructionFetch .. | .ioComp .. | .ioRd .. | .ioWr .. | .iodirCmd .. | .iofenceC ..
  | .iofenceCComplete .. | .iotCommandIllegal .. | .iotTranslate .. | .iotinvalGvma .. | .iotinvalVma .. | .layoutInitComplete ..
  | .loadOp .. | .loadPublicKey .. | .logConfig .. | .logStop .. | .logSwap .. | .macsecKeyWrite ..
  | .mcRead .. | .mcWrite .. | .mergeFlush .. | .mntClean .. | .mntCleaninv .. | .mntComplete ..
  | .mntLockload .. | .mntReservedOp .. | .nopCmd .. | .op0CleanComplete .. | .ownerChangeComplete .. | .packageResetRequest ..
  | .packageWarmReset .. | .partitionRestartRequest .. | .pciPerstAssert .. | .pcieDoorbell .. | .pcieFreeze .. | .pcieInboundRequest ..
  | .pciePortReset .. | .persistImg .. | .poisonMarkingComplete .. | .powerGoodLost .. | .powerGoodTimeout .. | .powerOnReset ..
  | .qctxRead .. | .qctxWrite .. | .rdOnce .. | .rdShared .. | .rdUnique .. | .rebuildSet ..
  | .registerWrite .. | .rekeyRequest .. | .releaseInstant .. | .releaseSub .. | .repairCopyComplete .. | .replicaSealed ..
  | .requestTransferExit .. | .restoreComplete .. | .resumeRequest .. | .retryMsg .. | .revokeSlot .. | .sackReceive ..
  | .scrubRequest .. | .sessionResponse .. | .sessionTimeout .. | .shutdownComplete .. | .signalCmd .. | .sluiceWritesComplete ..
  | .snpData .. | .snpInv .. | .snpOnce .. | .snpResp .. | .snpShared .. | .snpUnique ..
  | .storeOp .. | .tagRead .. | .tagResp .. | .thermalTrip .. | .tileBlockBoundary .. | .trialTimerExpiry ..
  | .turnBoundary .. | .txSlotStart .. | .udsAuthentication .. | .upgradeReq .. | .usdoRequest .. | .vddAonLoss ..
  | .vendorDebugConsent .. | .wakeIn .. | .warmResetDelayExpiry .. | .wbDirty .. | .wrData .. | .wrFull ..
  | .wrPart .. => true
  | _ => false

/-- What one-time memory may become (R463, R465, R472): the firmware counter never falls, a programmed slot keeps its digest, a revoke fuse and the consent
fuse stay blown, and nothing else of it changes. -/
def Otp.Grows (a b : Otp) : Prop :=
  b = { a with slots := b.slots, consent := b.consent, fwCount := b.fwCount }
    ∧ a.fwCount ≤ b.fwCount ∧ (a.consent = true → b.consent = true)
    ∧ ∀ k, ((SMap.get {} k a.slots).programmed = true →
          (SMap.get {} k b.slots).programmed = true ∧ (SMap.get {} k b.slots).digest = (SMap.get {} k a.slots).digest)
      ∧ ((SMap.get {} k a.slots).revoked = true → (SMap.get {} k b.slots).revoked = true)

/-- A safe run: every command taken answers a next state; no step is a fault or a refusal. -/
def State.safe (s : State) : Prop := ∃ t, step s = .next t

end Sys2Proof.Machine
end

