-- ==== Sys2Proof/Certificates/Slice0/Obligations.lean ====
section
/-! DEFINITION. The statements about the model. In a clause, `b` is the block as the command finds it (nothing emitted yet), and the block after
the command is written out from it: what the expression does not name is unchanged (registers, memory, pins, the waiting commands). -/

open Sys2Proof Sys2Proof.Machine

/-- With the governor running and the device not in OFF: START in READY is kept for the next boundary and answered 0, in any other state it is logged as not accepted (0x000C) and answered 0x0800_0022. SAFE_HOLD enters SAFE_HOLD from every state that can be held, is logged in SHUTDOWN, changes nothing in SAFE_HOLD, and is answered 0 in each case and where it is outranked; a write of GOV_HOLDREQ does the same with key 0x5AFE, without an answer, and nothing with any other key. SERVICE, where the state and the sender allow it, drops a waiting START and reset, enters SERVICE, halts the partitions and cancels the commit; else it is refused. RESUME in SERVICE with the homes in FILTER leads to CONFIG_WAIT, over the waiting switch where the commit is pending; elsewhere it is refused. SHUTDOWN starts the sequence of the configured mode, and in SHUTDOWN is only answered. A package reset restarts the device at once, or from RUN and DEGRADED enters SAFE_HOLD and waits for its delay; in BOOT and where no warm reset is accepted it is logged and answered 0x0800_0022. Every request but SHUTDOWN that a higher event of its cycle outranks is logged and, SAFE_HOLD and GOV_HOLDREQ apart, answered 0x0800_0022. A halted governor takes no request. -/
def Obligations.StateRequests : Prop :=
  (∀ (s : State), let b := s.start; b.dev ≠ .off → b.govHalted = false → exec (.startRequest true) s = .next (s.withBlk (b.notAccepted.answer 0x08000022)))
    ∧ (∀ (s : State) (path src : Nat), let b := s.start; b.dev ≠ .off → b.govHalted = false → exec (.serviceRequest path src true) s = .next (s.withBlk (b.notAccepted.answer 0x08000022)))
    ∧ (∀ (s : State), let b := s.start; b.dev ≠ .off → b.govHalted = false → exec (.resumeRequest true) s = .next (s.withBlk (b.notAccepted.answer 0x08000022)))
    ∧ (∀ (s : State), let b := s.start; b.dev ≠ .off → b.govHalted = false → exec (.packageResetRequest true) s = .next (s.withBlk (b.notAccepted.answer 0x08000022)))
    ∧ (∀ (s : State) (r : Bool), let b := s.start; b.govHalted = true → exec (.startRequest r) s = .next (s.withBlk (b)))
    ∧ (∀ (s : State) (path src : Nat) (r : Bool), let b := s.start; b.govHalted = true → exec (.serviceRequest path src r) s = .next (s.withBlk (b)))
    ∧ (∀ (s : State), let b := s.start; b.govHalted = true → exec (.shutdownRequest) s = .next (s.withBlk (b)))
    ∧ (∀ (s : State) (r : Bool), let b := s.start; b.govHalted = true → exec (.resumeRequest r) s = .next (s.withBlk (b)))
    ∧ (∀ (s : State) (r : Bool), let b := s.start; b.govHalted = true → exec (.packageResetRequest r) s = .next (s.withBlk (b)))
    ∧ (∀ (s : State), let b := s.start; b.dev = .ready → b.govHalted = false → exec (.startRequest false) s = .next (s.withBlk ({ b with gov := { b.gov with startPending := true } }.answer 0)))
    ∧ (∀ (s : State), let b := s.start; b.dev ≠ .off → b.dev ≠ .ready → b.govHalted = false → exec (.startRequest false) s = .next (s.withBlk (b.notAccepted.answer 0x08000022)))
    ∧ (∀ (s : State), let b := s.start; b.dev.holdable = true → b.govHalted = false → exec (.safeHoldRequest false) s = .next (s.withBlk ((b.enterSafeHold 0 false).answer 0)))
    ∧ (∀ (s : State), let b := s.start; b.dev = .safeHold → b.govHalted = false → exec (.safeHoldRequest false) s = .next (s.withBlk (b.answer 0)))
    ∧ (∀ (s : State), let b := s.start; b.dev = .shutdown → b.govHalted = false → exec (.safeHoldRequest false) s = .next (s.withBlk (b.notAccepted.answer 0)))
    ∧ (∀ (s : State), let b := s.start; b.dev ≠ .off → b.govHalted = false → exec (.safeHoldRequest true) s = .next (s.withBlk (b.notAccepted.answer 0)))
    ∧ (∀ (s : State) (mid key : Nat), let b := s.start; b.dev.holdable = true → key % 65536 = 0x5AFE → b.govHalted = false → exec (.govHoldreqWrite mid key false) s = .next (s.withBlk (b.enterSafeHold 0 false)))
    ∧ (∀ (s : State) (mid key : Nat), let b := s.start; b.dev = .safeHold → key % 65536 = 0x5AFE → b.govHalted = false → exec (.govHoldreqWrite mid key false) s = .next (s.withBlk (b)))
    ∧ (∀ (s : State) (mid key : Nat), let b := s.start; b.dev = .shutdown → key % 65536 = 0x5AFE → b.govHalted = false → exec (.govHoldreqWrite mid key false) s = .next (s.withBlk (b.notAccepted)))
    ∧ (∀ (s : State) (mid key : Nat), let b := s.start; b.dev ≠ .off → key % 65536 = 0x5AFE → b.govHalted = false → exec (.govHoldreqWrite mid key true) s = .next (s.withBlk (b.notAccepted)))
    ∧ (∀ (s : State) (mid key : Nat) (r : Bool), let b := s.start; key % 65536 ≠ 0x5AFE → exec (.govHoldreqWrite mid key r) s = .next (s.withBlk (b)))
    ∧ (∀ (s : State) (path src : Nat), let b := s.start; (b.dev = .configWait ∨ b.dev = .ready ∨ (b.dev = .safeHold ∧ b.fatal = false ∧ b.pwr.tripped = false)) → b.govHalted = false → (b.unowned = true ∨ b.trust.sessions.contains (path, src) = true) → exec (.serviceRequest path src false) s = .next (s.withBlk ((({ b with gov := { b.gov with startPending := false, resetPending := false } }.setDev .service).haltParts.cancelCommit).answer 0)))
    ∧ (∀ (s : State) (path src : Nat), let b := s.start; b.dev ≠ .off → ¬ ((b.dev = .configWait ∨ b.dev = .ready ∨ (b.dev = .safeHold ∧ b.fatal = false ∧ b.pwr.tripped = false)) ∧ (b.unowned = true ∨ b.trust.sessions.contains (path, src) = true)) → b.govHalted = false → exec (.serviceRequest path src false) s = .next (s.withBlk (b.notAccepted.answer 0x08000022)))
    ∧ (∀ (s : State), let b := s.start; b.dev = .service → b.filterMode = true → b.commit.state ≠ 2 → b.govHalted = false → exec (.resumeRequest false) s = .next (s.withBlk (b.resumePlain.answer 0)))
    ∧ (∀ (s : State), let b := s.start; b.dev = .service → b.filterMode = true → b.commit.state = 2 → b.govHalted = false → exec (.resumeRequest false) s = .next (s.withBlk (b.resumePending.answer 0)))
    ∧ (∀ (s : State), let b := s.start; b.dev ≠ .off → b.dev ≠ .service → b.govHalted = false → exec (.resumeRequest false) s = .next (s.withBlk (b.notAccepted.answer 0x08000022)))
    ∧ (∀ (s : State), let b := s.start; b.dev ≠ .off → b.dev ≠ .shutdown → b.govHalted = false → exec (.shutdownRequest) s = .next (s.withBlk ((b.shutdown (b.actN 0x2610 5)).answer 0)))
    ∧ (∀ (s : State), let b := s.start; b.dev = .shutdown → b.govHalted = false → exec (.shutdownRequest) s = .next (s.withBlk (b.answer 0)))
    ∧ (∀ (s : State), let b := s.start; b.outputsOn = true → b.govHalted = false → exec (.packageResetRequest false) s = .next (s.withBlk ({ b.enterSafeHold 0 false with gov := { b.gov with resetPending := true, startPending := false } }.answer 0)))
    ∧ (∀ (s : State), let b := s.start; b.mayReset = true → b.dev ≠ .boot → b.outputsOn = false → exec (.packageResetRequest false) s = .next (s.withBlk (b.warmReset.answer 0)))
    ∧ (∀ (s : State), let b := s.start; b.dev ≠ .off → (b.dev = .boot ∨ b.mayReset = false) → b.govHalted = false → exec (.packageResetRequest false) s = .next (s.withBlk (b.notAccepted.answer 0x08000022)))

/-- A power-on reset, by VDD_AON power good or by PORST_N held low for 1 us or more, restarts the device whatever its state; PORST_N low for less changes nothing. The loss of VDD_AON leaves the device in OFF with what survives without power, PWR_EN_CORE low and both FAULT_OUT outputs low. A package warm reset, a trial timer that runs, and the end of the delay of a waiting reset each restart the device where a warm reset is accepted (no OFF, no SHUTDOWN, no fatal SAFE_HOLD, a governor that is not halted), and are logged as not accepted elsewhere; without a running timer or a waiting reset nothing changes. -/
def Obligations.Resets : Prop :=
  (∀ (s : State), let b := s.start; exec (.powerOnReset none) s = .next (s.withBlk (b.powerOn)))
    ∧ (∀ (s : State) (ns : Nat), let b := s.start; 1000 ≤ ns → exec (.powerOnReset (some ns)) s = .next (s.withBlk (b.powerOn)))
    ∧ (∀ (s : State) (ns : Nat), let b := s.start; ns < 1000 → exec (.powerOnReset (some ns)) s = .next (s.withBlk (b)))
    ∧ (∀ (s : State), let b := s.start; exec (.vddAonLoss) s = .next (s.withBlk ({ b.fresh with dev := .off, flog := { outA := false, outB := false }, pwr := { enCore := false } })))
    ∧ (∀ (s : State), let b := s.start; b.mayReset = true → exec (.packageWarmReset) s = .next (s.withBlk (b.warmReset)))
    ∧ (∀ (s : State), let b := s.start; b.dev ≠ .off → b.mayReset = false → exec (.packageWarmReset) s = .next (s.withBlk (b.notAccepted)))
    ∧ (∀ (s : State), let b := s.start; b.trust.timer = true → b.mayReset = true → exec (.trialTimerExpiry) s = .next (s.withBlk (b.warmReset)))
    ∧ (∀ (s : State), let b := s.start; b.dev ≠ .off → b.trust.timer = true → b.mayReset = false → exec (.trialTimerExpiry) s = .next (s.withBlk (b.notAccepted)))
    ∧ (∀ (s : State), let b := s.start; b.trust.timer = false → exec (.trialTimerExpiry) s = .next (s.withBlk (b)))
    ∧ (∀ (s : State), let b := s.start; b.gov.resetPending = true → b.mayReset = true → exec (.warmResetDelayExpiry) s = .next (s.withBlk (({ b with gov := { b.gov with resetPending := false } } : Block).warmReset)))
    ∧ (∀ (s : State), let b := s.start; b.dev ≠ .off → b.gov.resetPending = true → b.mayReset = false → exec (.warmResetDelayExpiry) s = .next (s.withBlk (({ b with gov := { b.gov with resetPending := false } } : Block).notAccepted)))
    ∧ (∀ (s : State), let b := s.start; b.gov.resetPending = false → exec (.warmResetDelayExpiry) s = .next (s.withBlk (b)))

/-- The firmware entry in BOOT, with a verified bank, extends M0 with the manifest and component 1, M1 with component 2 and M2 with component 3, derives the identity from the three, shows lock, reference clock and side-band bus, puts every sail that is not fused into TRAINING at OP 3, enters SELFTEST, sends the boot-up message and lets the PCIe sub-ports train; in any other state, or with no bank, it does nothing. SELFTEST ends with the faults found when governor, hub or memory failed; it goes on while a controller has not passed or still initialises; with no ACTIVE sail it raises 0x420E; else the homes are in FILTER, the effective level is fixed and told to every ACTIVE sail, bank 0 of the routing tables is built and its load shown, boundaries start at number zero, and CONFIG_WAIT follows with the boot commit. PERST released at a root sub-port in use, with VDD_CORE good, raises its output and lets it train; at any other it does nothing. Outside SELFTEST the completion of the self-test does nothing. -/
def Obligations.StartUp : Prop :=
  (∀ (s : State), let b := s.start; (b.dev ≠ .boot ∨ b.trust.rom = true) → exec (.governorFirmwareEntry) s = .next (s.withBlk (b)))
    ∧ (∀ (s : State), let b := s.start; let u : Bundle := b.runBundle; let b1 : Block := b.extend 0 u.manifest |>.extend 0 (u.comp 1) |>.extend 1 (u.comp 2) |>.extend 2 (u.comp 3); let b2 : Block := b1.modTrust fun t => { t with derived := b1.meas 0 ++ u.comp 2 ++ u.comp 3 }; b.dev = .boot → b.trust.rom = false → exec (.governorFirmwareEntry) s = .next (s.withBlk ((((b2.put GOV_STATUS_LOCKOK 1 |>.put GOV_STATUS_REFOK (ofBool (!bit b2.pwr.clkLost 0)) |>.put GOV_STATUS_SBUSOK 1).forN 12 fun n b => b.when (!b.isSet GOV_SAILSTAT_FUSED n) fun b => b.put GOV_SAILSTAT_STATE 1 n |>.vrOn n 3).setDev .selftest).bootUp |>.forN 4 Block.pciTrain)))
    ∧ (∀ (s : State) (g h m : Bool) (fs : List FaultSpec), let b := s.start; b.dev ≠ .selftest → exec (.selftestComplete g h m fs) s = .next (s.withBlk (b)))
    ∧ (∀ (s : State) (g h m : Bool) (fs : List FaultSpec), let b := s.start; b.dev = .selftest → (g && h && m) = false → exec (.selftestComplete g h m fs) s = .next (s.withBlk (b.selftestFails fs)))
    ∧ (∀ (s : State) (fs : List FaultSpec), let b := s.start; b.dev = .selftest → (List.range 8).any (fun c => !b.isSet MC_STATUS_STPASS c || b.isSet MC_STATUS_INIT c) = true → exec (.selftestComplete true true true fs) s = .next (s.withBlk (b)))
    ∧ (∀ (s : State) (fs : List FaultSpec), let b := s.start; b.dev = .selftest → (List.range 8).any (fun c => !b.isSet MC_STATUS_STPASS c || b.isSet MC_STATUS_INIT c) = false → b.activeSails = [] → exec (.selftestComplete true true true fs) s = .next (s.withBlk (b.raise { code := 0x420E })))
    ∧ (∀ (s : State) (fs : List FaultSpec), let b := s.start; let c : Block := b.toFilter.put GOV_CAP_EFFECTIVE b.toFilter.effLevel; let d : Block := ((c.buildBank 0 true).showLoad).forL c.activeSails (fun n c => c.put FLM_STATUS_LEVEL (c.get GOV_CAP_EFFECTIVE) n); b.dev = .selftest → (List.range 8).any (fun c => !b.isSet MC_STATUS_STPASS c || b.isSet MC_STATUS_INIT c) = false → b.activeSails ≠ [] → b.toFilter.filterMode = true → exec (.selftestComplete true true true fs) s = .next (s.withBlk (((d.put TRN_STATUS_RUNNING 1).modTu (fun t => { t with zeroNext := true, phaseA := 0, phaseB := 0 })).toConfigWait.bootCommit)))
    ∧ (∀ (s : State) (fs : List FaultSpec), let b := s.start; b.dev = .selftest → (List.range 8).any (fun c => !b.isSet MC_STATUS_STPASS c || b.isSet MC_STATUS_INIT c) = false → b.activeSails ≠ [] → b.toFilter.filterMode = false → exec (.selftestComplete true true true fs) s = .next (s.withBlk (b.toFilter)))
    ∧ (∀ (s : State) (sub : Nat), let b := s.start; b.dev ≠ .off → (sub < b.subCount ∧ b.isEp sub = false ∧ b.isSet PWR_STATUS_PGCORE = true) → exec (.pciPerstoNRelease sub) s = .next (s.withBlk (({ b with pwr := { b.pwr with persto := Nat.lor b.pwr.persto (2 ^ sub) } }).pciTrain sub)))
    ∧ (∀ (s : State) (sub : Nat), let b := s.start; ¬ (sub < b.subCount ∧ b.isEp sub = false ∧ b.isSet PWR_STATUS_PGCORE = true) → exec (.pciPerstoNRelease sub) s = .next (s.withBlk (b)))

/-- FAULT_RAISED raises its faults as those of one governor cycle. FAULT_OUT_TEST sets or clears GOV_FOUTCTL.TEST in SERVICE and does nothing elsewhere. The readback of both outputs counts, for each, the differences in a row between pad and output: a match sets its count to 0, a difference adds 1, and a count that becomes 2 raises 0x300B with detail 1 for output A and 2 for output B; a halted governor reads nothing back. -/
def Obligations.FaultRows : Prop :=
  (∀ (s : State) (fs : List FaultSpec), let b := s.start; b.dev ≠ .off → exec (.faultRaised fs) s = .next (s.withBlk (b.raiseAll fs)))
    ∧ (∀ (s : State) (on : Bool), let b := s.start; b.dev = .service → exec (.faultOutTest on) s = .next (s.withBlk (b.put GOV_FOUTCTL_TEST (ofBool on))))
    ∧ (∀ (s : State) (on : Bool), let b := s.start; b.dev ≠ .service → exec (.faultOutTest on) s = .next (s.withBlk (b)))
    ∧ (∀ (s : State) (padA padB : Bool), let b := s.start; b.govHalted = true → exec (.faultOutReadback padA padB) s = .next (s.withBlk (b)))
    ∧ (∀ (s : State) (padA padB : Bool), let b := s.start; let m : Nat := if padA = b.foutA then 0 else b.flog.missA + 1; let n : Nat := if padB = b.foutB then 0 else b.flog.missB + 1; let c : Block := { b with flog := { b.flog with missA := m, missB := n } }; b.dev ≠ .off → b.govHalted = false → m ≠ 2 → n ≠ 2 → exec (.faultOutReadback padA padB) s = .next (s.withBlk (c)))
    ∧ (∀ (s : State) (padA padB : Bool), let b := s.start; let m : Nat := if padA = b.foutA then 0 else b.flog.missA + 1; let n : Nat := if padB = b.foutB then 0 else b.flog.missB + 1; let c : Block := { b with flog := { b.flog with missA := m, missB := n } }; b.dev ≠ .off → b.govHalted = false → m = 2 → n ≠ 2 → exec (.faultOutReadback padA padB) s = .next (s.withBlk (c.raise { code := 0x300B, detail := 1 })))
    ∧ (∀ (s : State) (padA padB : Bool), let b := s.start; let m : Nat := if padA = b.foutA then 0 else b.flog.missA + 1; let n : Nat := if padB = b.foutB then 0 else b.flog.missB + 1; let c : Block := { b with flog := { b.flog with missA := m, missB := n } }; b.dev ≠ .off → b.govHalted = false → m ≠ 2 → n = 2 → exec (.faultOutReadback padA padB) s = .next (s.withBlk (c.raise { code := 0x300B, detail := 2 })))
    ∧ (∀ (s : State) (padA padB : Bool), let b := s.start; let m : Nat := if padA = b.foutA then 0 else b.flog.missA + 1; let n : Nat := if padB = b.foutB then 0 else b.flog.missB + 1; let c : Block := { b with flog := { b.flog with missA := m, missB := n } }; b.dev ≠ .off → b.govHalted = false → m = 2 → n = 2 → exec (.faultOutReadback padA padB) s = .next (s.withBlk ((c.raise { code := 0x300B, detail := 1 }).raise { code := 0x300B, detail := 2 })))

/-- Outside OFF. Power good of VDD_CORE shows in PG_CORE and, while PWR_EN_CORE is high, raises PWR_EN_MEM; that of the memory rails shows in PG_MEM and, while PWR_EN_MEM is high, raises SAIL_VREN. Power good that is still missing under a high enable when its time ends, or that is lost under one, raises 0x5D06 and lowers the enables; a timeout without that condition does nothing, and power good that falls under a low enable only shows. The refresh resends the frame of every rail that is on. VRALERT low shows, is logged as 0x2D09 and resends the frames; high, it shows. A PLL out of lock is kept and raises 0x4E04. TRST_N shows in the state of the TAP. The loss of a clock is kept: REFCLK_SYS clears REFOK and raises 0x4E01; REFCLK_PCI freezes all four sub-ports and raises 0x3E03; REFCLK_LVP of a group takes its ports that are UP to TRAIN and raises 0x3E02 with 0x3805 for each; a clock already lost changes nothing. A regained clock is logged as 0x0E05 with its number, and REFCLK_SYS sets REFOK. To a governor that is not halted PFAIL shows, is logged as 0x0D07 and starts the shutdown to OFF; in SHUTDOWN it makes the end OFF. -/
def Obligations.Supplies : Prop :=
  (∀ (s : State), let b := s.start; b.dev ≠ .off → b.pwr.enCore = true → exec (.powerGood false) s = .next (s.withBlk ({ b.put PWR_STATUS_PGCORE 1 with pwr := { b.pwr with enMem := true } })))
    ∧ (∀ (s : State), let b := s.start; b.dev ≠ .off → b.pwr.enCore = false → exec (.powerGood false) s = .next (s.withBlk (b.put PWR_STATUS_PGCORE 1)))
    ∧ (∀ (s : State), let b := s.start; b.dev ≠ .off → b.pwr.enMem = true → exec (.powerGood true) s = .next (s.withBlk ({ b.put PWR_STATUS_PGMEM 1 with pwr := { b.pwr with vren := true } })))
    ∧ (∀ (s : State), let b := s.start; b.dev ≠ .off → b.pwr.enMem = false → exec (.powerGood true) s = .next (s.withBlk (b.put PWR_STATUS_PGMEM 1)))
    ∧ (∀ (s : State), let b := s.start; b.dev ≠ .off → b.pwr.enCore = true → b.isSet PWR_STATUS_PGCORE = false → exec (.powerGoodTimeout false) s = .next (s.withBlk (b.powerLost)))
    ∧ (∀ (s : State), let b := s.start; (b.pwr.enCore = false ∨ b.isSet PWR_STATUS_PGCORE = true) → exec (.powerGoodTimeout false) s = .next (s.withBlk (b)))
    ∧ (∀ (s : State), let b := s.start; b.dev ≠ .off → b.isSet PWR_STATUS_PGCORE = true → b.pwr.enCore = true → exec (.powerGoodLost false) s = .next (s.withBlk ((b.put PWR_STATUS_PGCORE 0).powerLost)))
    ∧ (∀ (s : State), let b := s.start; b.dev ≠ .off → (b.isSet PWR_STATUS_PGCORE = false ∨ b.pwr.enCore = false) → exec (.powerGoodLost false) s = .next (s.withBlk (b.put PWR_STATUS_PGCORE 0)))
    ∧ (∀ (s : State), let b := s.start; b.dev ≠ .off → b.pwr.enMem = true → b.isSet PWR_STATUS_PGMEM = false → exec (.powerGoodTimeout true) s = .next (s.withBlk (b.powerLost)))
    ∧ (∀ (s : State), let b := s.start; (b.pwr.enMem = false ∨ b.isSet PWR_STATUS_PGMEM = true) → exec (.powerGoodTimeout true) s = .next (s.withBlk (b)))
    ∧ (∀ (s : State), let b := s.start; b.dev ≠ .off → b.isSet PWR_STATUS_PGMEM = true → b.pwr.enMem = true → exec (.powerGoodLost true) s = .next (s.withBlk ((b.put PWR_STATUS_PGMEM 0).powerLost)))
    ∧ (∀ (s : State), let b := s.start; b.dev ≠ .off → (b.isSet PWR_STATUS_PGMEM = false ∨ b.pwr.enMem = false) → exec (.powerGoodLost true) s = .next (s.withBlk (b.put PWR_STATUS_PGMEM 0)))
    ∧ (∀ (s : State), let b := s.start; b.dev ≠ .off → exec (.regulatorRefresh) s = .next (s.withBlk (b.vrResend)))
    ∧ (∀ (s : State), let b := s.start; b.dev ≠ .off → exec (.regulatorAlert true) s = .next (s.withBlk (((b.put PWR_STATUS_VRALERT 1).note { code := 0x2D09 }).vrResend)))
    ∧ (∀ (s : State), let b := s.start; b.dev ≠ .off → exec (.regulatorAlert false) s = .next (s.withBlk (b.put PWR_STATUS_VRALERT 0)))
    ∧ (∀ (s : State) (mem : Bool), let b := s.start; b.dev ≠ .off → exec (.pllOutOfLock mem) s = .next (s.withBlk (({ b with pwr := { b.pwr with pllLost := Nat.lor b.pwr.pllLost (if mem then 2 else 1) } }).raise { code := 0x4E04 })))
    ∧ (∀ (s : State) (low : Bool), let b := s.start; b.dev ≠ .off → exec (.trstN low) s = .next (s.withBlk ({ b with pwr := { b.pwr with trst := !low } })))
    ∧ (∀ (s : State) (clk : RefClk), let b := s.start; bit b.pwr.clkLost (clkCode clk) = true → exec (.clockLost clk) s = .next (s.withBlk (b)))
    ∧ (∀ (s : State) (clk : RefClk), let b := s.start; b.dev ≠ .off → clk = .sys → bit b.pwr.clkLost (clkCode clk) = false → exec (.clockLost clk) s = .next (s.withBlk (({ b with pwr := { b.pwr with clkLost := b.pwr.clkLost + 2 ^ clkCode clk } }.put GOV_STATUS_REFOK 0).raise { code := 0x4E01 })))
    ∧ (∀ (s : State) (clk : RefClk), let b := s.start; b.dev ≠ .off → clk = .pci → bit b.pwr.clkLost (clkCode clk) = false → exec (.clockLost clk) s = .next (s.withBlk ((({ b with pwr := { b.pwr with clkLost := b.pwr.clkLost + 2 ^ clkCode clk } } : Block).forN 4 (Block.freezeSub · 0 true)).raise { code := 0x3E03 })))
    ∧ (∀ (s : State) (clk : RefClk), let b := s.start; let c : Block := { b with pwr := { b.pwr with clkLost := b.pwr.clkLost + 2 ^ clkCode clk } }; let up : List Nat := (clkPorts clk).filter (fun k => c.portSt k = pUp); b.dev ≠ .off → clk ≠ .sys → clk ≠ .pci → bit b.pwr.clkLost (clkCode clk) = false → exec (.clockLost clk) s = .next (s.withBlk ((c.forL up Block.toTrain).raiseAll ({ code := 0x3E02 } :: up.map (lvpFault 0x3805 ·)))))
    ∧ (∀ (s : State) (clk : RefClk), let b := s.start; bit b.pwr.clkLost (clkCode clk) = false → exec (.clockRegained clk) s = .next (s.withBlk (b)))
    ∧ (∀ (s : State) (clk : RefClk), let b := s.start; b.dev ≠ .off → clk = .sys → bit b.pwr.clkLost (clkCode clk) = true → exec (.clockRegained clk) s = .next (s.withBlk (({ b with pwr := { b.pwr with clkLost := b.pwr.clkLost - 2 ^ clkCode clk } }.put GOV_STATUS_REFOK 1).note { code := 0x0E05, detail := 0 })))
    ∧ (∀ (s : State) (clk : RefClk), let b := s.start; b.dev ≠ .off → clk ≠ .sys → bit b.pwr.clkLost (clkCode clk) = true → exec (.clockRegained clk) s = .next (s.withBlk (({ b with pwr := { b.pwr with clkLost := b.pwr.clkLost - 2 ^ clkCode clk } } : Block).note { code := 0x0E05, detail := clkCode clk })))
    ∧ (∀ (s : State), let b := s.start; let c : Block := (b.put PWR_STATUS_PFAIL 1).note { code := 0x0D07 }; b.dev ≠ .off → b.govHalted = false → c.dev ≠ .shutdown → exec (.powerFailWarning) s = .next (s.withBlk (c.shutdown 0)))
    ∧ (∀ (s : State), let b := s.start; b.govHalted = true → exec (.powerFailWarning) s = .next (s.withBlk (b)))
    ∧ (∀ (s : State), let b := s.start; let c : Block := (b.put PWR_STATUS_PFAIL 1).note { code := 0x0D07 }; b.dev ≠ .off → b.govHalted = false → c.dev = .shutdown → exec (.powerFailWarning) s = .next (s.withBlk ({ c with pwr := { c.pwr with shutMode := 0 } })))

/-- PG_MEM falling shows in PG_MEM. In SHUTDOWN, after the rails, its fall or the end of its wait lowers PWR_EN_CORE; elsewhere neither does more. Once PWR_EN_CORE is low the sequence completes: VDD_CORE that is still good is logged as 0x2D0A, the device enters OFF, every sub-port goes down, and in the standby mode standby holds; a WAKE_IN already at its level then wakes the device at once. Before that the completion does nothing. A WAKE_IN in standby wakes the device where input 8 is enabled and else does nothing; in any state but OFF without standby it is counted, and in OFF without standby it does nothing. -/
def Obligations.ShutdownEnd : Prop :=
  (∀ (s : State), let b := s.start; b.dev = .shutdown → b.pwr.shutStep = 2 → exec (.pgMemFall) s = .next (s.withBlk ((b.put PWR_STATUS_PGMEM 0).shutCore)))
    ∧ (∀ (s : State), let b := s.start; b.dev ≠ .off → (b.dev ≠ .shutdown ∨ b.pwr.shutStep ≠ 2) → exec (.pgMemFall) s = .next (s.withBlk (b.put PWR_STATUS_PGMEM 0)))
    ∧ (∀ (s : State), let b := s.start; b.dev = .shutdown → b.pwr.shutStep = 2 → exec (.pwrEnCoreTimeout) s = .next (s.withBlk (b.shutCore)))
    ∧ (∀ (s : State), let b := s.start; (b.dev ≠ .shutdown ∨ b.pwr.shutStep ≠ 2) → exec (.pwrEnCoreTimeout) s = .next (s.withBlk (b)))
    ∧ (∀ (s : State), let b := s.start; (b.dev ≠ .shutdown ∨ b.pwr.shutStep ≠ 3) → exec (.shutdownComplete) s = .next (s.withBlk (b)))
    ∧ (∀ (s : State), let b := s.start; let c : Block := ((b.when (b.isSet PWR_STATUS_PGCORE) (Block.note { code := 0x2D0A })).setDev .off).forN 4 Block.subDown; let d : Block := { c with pwr := { c.pwr with standby := c.pwr.shutMode = 1, shutStep := 0 } }; b.dev = .shutdown → b.pwr.shutStep = 3 → (d.pwr.standby = false ∨ d.wakeLevel = false) → exec (.shutdownComplete) s = .next (s.withBlk (d)))
    ∧ (∀ (s : State), let b := s.start; let c : Block := ((b.when (b.isSet PWR_STATUS_PGCORE) (Block.note { code := 0x2D0A })).setDev .off).forN 4 Block.subDown; let d : Block := { c with pwr := { c.pwr with standby := c.pwr.shutMode = 1, shutStep := 0 } }; b.dev = .shutdown → b.pwr.shutStep = 3 → d.pwr.standby = true → d.wakeLevel = true → exec (.shutdownComplete) s = .next (s.withBlk (d.wakeUp)))
    ∧ (∀ (s : State), let b := s.start; b.pwr.standby = true → b.isSet EVT_CFG_EN 8 = true → exec (.wakeIn) s = .next (s.withBlk (b.wakeUp)))
    ∧ (∀ (s : State), let b := s.start; b.pwr.standby = true → b.isSet EVT_CFG_EN 8 = false → exec (.wakeIn) s = .next (s.withBlk (b)))
    ∧ (∀ (s : State), let b := s.start; b.dev ≠ .off → b.pwr.standby = false → exec (.wakeIn) s = .next (s.withBlk (b.inc PWR_WAKECNT_COUNT)))
    ∧ (∀ (s : State), let b := s.start; b.dev = .off → b.pwr.standby = false → exec (.wakeIn) s = .next (s.withBlk (b)))

/-- The reading of a sensor below 20 that has not failed is the raw value plus its calibration. A missing reading, or one outside the working range, fails the sensor and logs 0x2D08. Else it is shown with VALID, the highest of the turn is kept, and the sensor counts as critical while the reading is at or above the critical temperature; the reading that first makes it critical raises 0x4D04. A sensor above 19 or one that failed changes nothing. A thermal trip asserts FAULT_OUT, raises 0x5D05 and cuts the supplies, once. -/
def Obligations.Sensors : Prop :=
  (∀ (s : State) (sensor : Nat) (raw : Option Int), let b := s.start; (20 ≤ sensor ∨ b.isSet PWR_TEMP_FAILED sensor = true) → exec (.sensorReading sensor raw) s = .next (s.withBlk (b)))
    ∧ (∀ (s : State) (sensor : Nat), let b := s.start; b.dev ≠ .off → sensor < 20 → b.isSet PWR_TEMP_FAILED sensor = false → exec (.sensorReading sensor none) s = .next (s.withBlk ((b.put PWR_TEMP_FAILED 1 sensor).note { code := 0x2D08 })))
    ∧ (∀ (s : State) (sensor : Nat) (raw : Int), let b := s.start; let t : Int := raw + b.calEff 0 sensor * 2 / 25; let c : Block := b.put PWR_TEMP_TEMP (ofSigned 12 t) sensor |>.put PWR_TEMP_VALID 1 sensor; let top : Int := (match List.lookup sensor c.pwr.tmax with | some m => if m < t then t else m | none => t); let hi : List (Nat × Int) := c.pwr.tmax.filter (fun e => e.1 ≠ sensor) ++ [(sensor, top)]; b.dev ≠ .off → sensor < 20 → b.isSet PWR_TEMP_FAILED sensor = false → (t < tempLow ∨ tempHigh < t) → exec (.sensorReading sensor (some raw)) s = .next (s.withBlk ((b.put PWR_TEMP_FAILED 1 sensor).note { code := 0x2D08 })))
    ∧ (∀ (s : State) (sensor : Nat) (raw : Int), let b := s.start; let t : Int := raw + b.calEff 0 sensor * 2 / 25; let c : Block := b.put PWR_TEMP_TEMP (ofSigned 12 t) sensor |>.put PWR_TEMP_VALID 1 sensor; let top : Int := (match List.lookup sensor c.pwr.tmax with | some m => if m < t then t else m | none => t); let hi : List (Nat × Int) := c.pwr.tmax.filter (fun e => e.1 ≠ sensor) ++ [(sensor, top)]; b.dev ≠ .off → sensor < 20 → b.isSet PWR_TEMP_FAILED sensor = false → tempLow ≤ t → t ≤ tempHigh → t < (c.actN 0x2610 3 : Int) * 8 → exec (.sensorReading sensor (some raw)) s = .next (s.withBlk ({ c with pwr := { c.pwr with tmax := hi, crit := c.pwr.crit.filter (· ≠ sensor) } })))
    ∧ (∀ (s : State) (sensor : Nat) (raw : Int), let b := s.start; let t : Int := raw + b.calEff 0 sensor * 2 / 25; let c : Block := b.put PWR_TEMP_TEMP (ofSigned 12 t) sensor |>.put PWR_TEMP_VALID 1 sensor; let top : Int := (match List.lookup sensor c.pwr.tmax with | some m => if m < t then t else m | none => t); let hi : List (Nat × Int) := c.pwr.tmax.filter (fun e => e.1 ≠ sensor) ++ [(sensor, top)]; b.dev ≠ .off → sensor < 20 → b.isSet PWR_TEMP_FAILED sensor = false → tempLow ≤ t → t ≤ tempHigh → (c.actN 0x2610 3 : Int) * 8 ≤ t → c.pwr.crit.contains sensor = false → exec (.sensorReading sensor (some raw)) s = .next (s.withBlk (({ c with pwr := { c.pwr with tmax := hi, crit := sinsert sensor c.pwr.crit } } : Block).raise { code := 0x4D04 })))
    ∧ (∀ (s : State) (sensor : Nat) (raw : Int), let b := s.start; let t : Int := raw + b.calEff 0 sensor * 2 / 25; let c : Block := b.put PWR_TEMP_TEMP (ofSigned 12 t) sensor |>.put PWR_TEMP_VALID 1 sensor; let top : Int := (match List.lookup sensor c.pwr.tmax with | some m => if m < t then t else m | none => t); let hi : List (Nat × Int) := c.pwr.tmax.filter (fun e => e.1 ≠ sensor) ++ [(sensor, top)]; b.dev ≠ .off → sensor < 20 → b.isSet PWR_TEMP_FAILED sensor = false → tempLow ≤ t → t ≤ tempHigh → (c.actN 0x2610 3 : Int) * 8 ≤ t → c.pwr.crit.contains sensor = true → exec (.sensorReading sensor (some raw)) s = .next (s.withBlk ({ c with pwr := { c.pwr with tmax := hi, crit := sinsert sensor c.pwr.crit } })))
    ∧ (∀ (s : State) (sensor : Nat), let b := s.start; b.dev ≠ .off → b.pwr.tripped = false → exec (.thermalTrip sensor) s = .next (s.withBlk ((({ b with pwr := { b.pwr with tripped := true } }.assertFout).raise { code := 0x5D05 }).cutPower)))
    ∧ (∀ (s : State) (sensor : Nat), let b := s.start; b.pwr.tripped = true → exec (.thermalTrip sensor) s = .next (s.withBlk (b)))

/-- While boundaries run, an edge of PPS_IN in PPS mode and of TURN_SYNC_IN in TSYNC mode whose offset lies within the acceptance window, or before any reference was valid, is taken as the reference with that offset; outside the window it is logged as 0x010A and kept with the last two rejected edges, unless the device emits no outputs and three rejected edges in a row agree, when it is taken; in other modes, or while no boundary runs, an edge does nothing. A gPTP sync always keeps its offset from the time base and clears the loss of the master, and in GPTP mode, while boundaries run, it is taken as the reference. Holdover, entered in PPS and TSYNC mode while boundaries run, sets HOLDOVER, clears LOCKED and the count of its turns and logs 0x1103, and changes nothing when it holds already. A holdover longer than its limit raises 0x3104 once. A timer mismatch raises 0x4101. -/
def Obligations.TimeReferences : Prop :=
  (∀ (s : State), let b := s.start; let off : Int := b.offsetFor (-(b.get TRN_ALIGN_ALIGN : Int)); let c : Block := b.note { code := 0x010A }; let last : List Int := (c.tu.rejects ++ [off]).drop ((c.tu.rejects ++ [off]).length - 3); b.dev ≠ .off → b.get TRN_CFG_SYNCMODE = 2 → b.running = true → (off.natAbs ≤ b.actN 0x2000 8 ∨ b.tu.refValid = false) → exec (.ppsInEdge) s = .next (s.withBlk ((b.takeReference 2 0).takeOffset off)))
    ∧ (∀ (s : State), let b := s.start; let off : Int := b.offsetFor (-(b.get TRN_ALIGN_ALIGN : Int)); let c : Block := b.note { code := 0x010A }; let last : List Int := (c.tu.rejects ++ [off]).drop ((c.tu.rejects ++ [off]).length - 3); b.dev ≠ .off → b.get TRN_CFG_SYNCMODE = 2 → b.running = true → off.natAbs > b.actN 0x2000 8 → b.tu.refValid = true → (c.outputsOn = false ∧ last.length = 3 ∧ agree c.nominalNs (b.actN 0x2000 8) last = true) → exec (.ppsInEdge) s = .next (s.withBlk ((c.takeReference 2 0).takeOffset off)))
    ∧ (∀ (s : State), let b := s.start; let off : Int := b.offsetFor (-(b.get TRN_ALIGN_ALIGN : Int)); let c : Block := b.note { code := 0x010A }; let last : List Int := (c.tu.rejects ++ [off]).drop ((c.tu.rejects ++ [off]).length - 3); b.dev ≠ .off → b.get TRN_CFG_SYNCMODE = 2 → b.running = true → off.natAbs > b.actN 0x2000 8 → b.tu.refValid = true → ¬ (c.outputsOn = false ∧ last.length = 3 ∧ agree c.nominalNs (b.actN 0x2000 8) last = true) → exec (.ppsInEdge) s = .next (s.withBlk (c.modTu (fun t => { t with rejects := last }))))
    ∧ (∀ (s : State), let b := s.start; (b.get TRN_CFG_SYNCMODE ≠ 2 ∨ b.running = false) → exec (.ppsInEdge) s = .next (s.withBlk (b)))
    ∧ (∀ (s : State), let b := s.start; let off : Int := b.offsetFor ((b.get TRN_ALIGN_ALIGN : Int)); let c : Block := b.note { code := 0x010A }; let last : List Int := (c.tu.rejects ++ [off]).drop ((c.tu.rejects ++ [off]).length - 3); b.dev ≠ .off → b.get TRN_CFG_SYNCMODE = 3 → b.running = true → (off.natAbs ≤ b.actN 0x2000 8 ∨ b.tu.refValid = false) → exec (.turnSyncInEdge) s = .next (s.withBlk ((b.takeReference 3 0).takeOffset off)))
    ∧ (∀ (s : State), let b := s.start; let off : Int := b.offsetFor ((b.get TRN_ALIGN_ALIGN : Int)); let c : Block := b.note { code := 0x010A }; let last : List Int := (c.tu.rejects ++ [off]).drop ((c.tu.rejects ++ [off]).length - 3); b.dev ≠ .off → b.get TRN_CFG_SYNCMODE = 3 → b.running = true → off.natAbs > b.actN 0x2000 8 → b.tu.refValid = true → (c.outputsOn = false ∧ last.length = 3 ∧ agree c.nominalNs (b.actN 0x2000 8) last = true) → exec (.turnSyncInEdge) s = .next (s.withBlk ((c.takeReference 3 0).takeOffset off)))
    ∧ (∀ (s : State), let b := s.start; let off : Int := b.offsetFor ((b.get TRN_ALIGN_ALIGN : Int)); let c : Block := b.note { code := 0x010A }; let last : List Int := (c.tu.rejects ++ [off]).drop ((c.tu.rejects ++ [off]).length - 3); b.dev ≠ .off → b.get TRN_CFG_SYNCMODE = 3 → b.running = true → off.natAbs > b.actN 0x2000 8 → b.tu.refValid = true → ¬ (c.outputsOn = false ∧ last.length = 3 ∧ agree c.nominalNs (b.actN 0x2000 8) last = true) → exec (.turnSyncInEdge) s = .next (s.withBlk (c.modTu (fun t => { t with rejects := last }))))
    ∧ (∀ (s : State), let b := s.start; (b.get TRN_CFG_SYNCMODE ≠ 3 ∨ b.running = false) → exec (.turnSyncInEdge) s = .next (s.withBlk (b)))
    ∧ (∀ (s : State) (time : Int), let b := s.start; let c : Block := { b with svc := { b.svc with timeOffset := (b.timeNs : Int) - time, syncLost := false } }; b.dev ≠ .off → (b.get TRN_CFG_SYNCMODE ≠ 1 ∨ b.running = false) → exec (.gptpSync time) s = .next (s.withBlk (c)))
    ∧ (∀ (s : State) (time : Int), let b := s.start; let c : Block := { b with svc := { b.svc with timeOffset := (b.timeNs : Int) - time, syncLost := false } }; b.dev ≠ .off → b.get TRN_CFG_SYNCMODE = 1 → b.running = true → exec (.gptpSync time) s = .next (s.withBlk ((c.takeReference 1 time).takeOffset (c.offsetFor (time - (c.get TRN_ALIGN_ALIGN : Int))))))
    ∧ (∀ (s : State), let b := s.start; b.dev ≠ .off → b.running = true → (b.get TRN_CFG_SYNCMODE = 2 ∨ b.get TRN_CFG_SYNCMODE = 3) → b.isSet TRN_STATUS_HOLDOVER = false → exec (.holdoverEntry) s = .next (s.withBlk (((((b.put TRN_STATUS_HOLDOVER 1).put TRN_STATUS_HOLDTURNS 0).put TRN_STATUS_LOCKED 0).modTu (fun t => { t with holdTurns := 0, limitRaised := false })).note { code := 0x1103 })))
    ∧ (∀ (s : State), let b := s.start; (b.running = false ∨ ¬ (b.get TRN_CFG_SYNCMODE = 2 ∨ b.get TRN_CFG_SYNCMODE = 3) ∨ b.isSet TRN_STATUS_HOLDOVER = true) → exec (.holdoverEntry) s = .next (s.withBlk (b)))
    ∧ (∀ (s : State), let b := s.start; b.dev ≠ .off → (b.isSet TRN_STATUS_HOLDOVER = true ∧ b.actN 0x2000 7 < b.tu.holdTurns ∧ b.tu.limitRaised = false) → exec (.holdoverLimit) s = .next (s.withBlk ((b.modTu (fun t => { t with limitRaised := true })).raise { code := 0x3104 })))
    ∧ (∀ (s : State), let b := s.start; ¬ (b.isSet TRN_STATUS_HOLDOVER = true ∧ b.actN 0x2000 7 < b.tu.holdTurns ∧ b.tu.limitRaised = false) → exec (.holdoverLimit) s = .next (s.withBlk (b)))
    ∧ (∀ (s : State), let b := s.start; b.dev ≠ .off → exec (.masterTimerMismatch) s = .next (s.withBlk (b.raise { code := 0x4101 })))

/-- At a whole second PPS_OUT rises where it is enabled, outside OFF and BOOT, and stays as it is elsewhere; the end of a pulse lowers PPS_OUT or TURN_SYNC_OUT. At the input cut-off arrivals begin to be tagged to the next turn. When the writes of the ended turn are complete, each queued one is in memory and out of the queue, and the report is in. Before that the timeout of the report raises 0x2107, marks the turn as timed out and counts as the report; after it the timeout does nothing. A discard takes the writes of its flow that are tagged to an ended turn out of the queue and adds their number to DROPS of the flow, which saturates. -/
def Obligations.TimeOutputs : Prop :=
  (∀ (s : State), let b := s.start; b.dev ≠ .off → b.dev ≠ .boot → b.isSet TRN_CFG_PPSOUT = true → exec (.ppsOutSecond) s = .next (s.withBlk (b.modTu (fun t => { t with ppsOut := true }))))
    ∧ (∀ (s : State), let b := s.start; (b.dev = .boot ∨ b.isSet TRN_CFG_PPSOUT = false) → exec (.ppsOutSecond) s = .next (s.withBlk (b)))
    ∧ (∀ (s : State), let b := s.start; b.dev ≠ .off → exec (.syncOutputPulseEnd true) s = .next (s.withBlk (b.modTu (fun t => { t with ppsOut := false }))))
    ∧ (∀ (s : State), let b := s.start; b.dev ≠ .off → exec (.syncOutputPulseEnd false) s = .next (s.withBlk (b.modTu (fun t => { t with tsOut := false }))))
    ∧ (∀ (s : State), let b := s.start; b.dev ≠ .off → exec (.inputCutoff) s = .next (s.withBlk (b.modTu (fun t => { t with tagNext := true }))))
    ∧ (∀ (s : State), let b := s.start; b.dev ≠ .off → exec (.sluiceWritesComplete) s = .next (s.withBlk ((b.forL b.dueWrites (fun w b => b.writeBytes midSluice w.part w.addr w.bytes)).modTu (fun t => { t with reported := true, writes := t.writes.filter (fun w => !(decide (w.turn < (b.forL b.dueWrites (fun w b => b.writeBytes midSluice w.part w.addr w.bytes)).turn))) }))))
    ∧ (∀ (s : State), let b := s.start; b.dev ≠ .off → b.tu.reported = false → exec (.windowReportTimeout) s = .next (s.withBlk ((b.raise { code := 0x2107 }).modTu (fun t => { t with reported := true, timedOut := true }))))
    ∧ (∀ (s : State), let b := s.start; b.tu.reported = true → exec (.windowReportTimeout) s = .next (s.withBlk (b)))
    ∧ (∀ (s : State) (flow : Nat), let b := s.start; b.dev ≠ .off → exec (.windowWriteDiscard flow) s = .next (s.withBlk ((b.modTu (fun t => { t with writes := t.writes.filter fun w => !(w.flow = flow && decide (w.turn < b.turn)) })).modFlow flow fun e => { e with words := ctxS 7 48 63 (satAdd 16 (ctxF e.words 7 48 63) (b.dueWrites.filter fun w => w.flow = flow).length) e.words })))

/-- A change of the pin of an input 0 to 8 is kept with its phase in the turn; while the filter times, it counts in REJCNT; the filter then times exactly while the pin differs from LEVEL. A pin that does not change, and an input above 8, change nothing. When the filter has timed out LEVEL follows the pin, the stuck count starts again, and an enabled, unmasked input whose edge counts raises its event. An acknowledgement of a busy crossing frees it and delivers the held event to the target it was held for, if one is held; of a free crossing it does nothing. Re-arming clears STUCK, MASKED and the stuck count. -/
def Obligations.EventInputs : Prop :=
  (∀ (s : State) (input : Nat) (high : Bool), let b := s.start; (9 ≤ input ∨ (b.evtIn input).pin = high) → exec (.evtInputEdge input high) s = .next (s.withBlk (b)))
    ∧ (∀ (s : State) (input : Nat) (high : Bool), let b := s.start; let c : Block := b.when (b.evtIn input).timing (fun b => b.inc EVT_STAT_REJCNT input); let d : Block := c.modEvt input (fun e => { e with pin := high, edgeNs := c.phaseNs }); b.dev ≠ .off → input < 9 → (b.evtIn input).pin ≠ high → exec (.evtInputEdge input high) s = .next (s.withBlk (d.modEvt input (fun e => { e with timing := d.evtActive input != d.isSet EVT_STAT_LEVEL input }))))
    ∧ (∀ (s : State) (input : Nat), let b := s.start; (9 ≤ input ∨ (b.evtIn input).timing = false) → exec (.evtFilterAccept input) s = .next (s.withBlk (b)))
    ∧ (∀ (s : State) (input : Nat), let b := s.start; let c : Block := (b.put EVT_STAT_LEVEL (ofBool (b.evtActive input)) input).modEvt input (fun e => { e with timing := false, stuck := 0 }); b.dev ≠ .off → input < 9 → (b.evtIn input).timing = true → (c.isSet EVT_CFG_EN input = true ∧ c.isSet EVT_STAT_MASKED input = false ∧ edgeCounts (c.get EVT_CFG_EDGE input) (b.evtActive input) = true) → exec (.evtFilterAccept input) s = .next (s.withBlk (c.evtEvent input)))
    ∧ (∀ (s : State) (input : Nat), let b := s.start; let c : Block := (b.put EVT_STAT_LEVEL (ofBool (b.evtActive input)) input).modEvt input (fun e => { e with timing := false, stuck := 0 }); b.dev ≠ .off → input < 9 → (b.evtIn input).timing = true → ¬ (c.isSet EVT_CFG_EN input = true ∧ c.isSet EVT_STAT_MASKED input = false ∧ edgeCounts (c.get EVT_CFG_EDGE input) (b.evtActive input) = true) → exec (.evtFilterAccept input) s = .next (s.withBlk (c)))
    ∧ (∀ (s : State) (input : Nat), let b := s.start; (9 ≤ input ∨ (b.evtIn input).busy = false) → exec (.evtCrossingAck input) s = .next (s.withBlk (b)))
    ∧ (∀ (s : State) (input : Nat), let b := s.start; b.dev ≠ .off → input < 9 → (b.evtIn input).busy = true → (b.evtIn input).held = none → exec (.evtCrossingAck input) s = .next (s.withBlk (b.modEvt input (fun e => { e with busy := false, held := none }))))
    ∧ (∀ (s : State) (input : Nat) (dst : Nat × Nat), let b := s.start; b.dev ≠ .off → input < 9 → (b.evtIn input).busy = true → (b.evtIn input).held = some dst → exec (.evtCrossingAck input) s = .next (s.withBlk ((b.modEvt input (fun e => { e with busy := false, held := none })).evtDeliver input dst)))
    ∧ (∀ (s : State) (input : Nat), let b := s.start; b.dev ≠ .off → input < 9 → exec (.evtStuckRearm input) s = .next (s.withBlk (((b.put EVT_STAT_STUCK 0 input).put EVT_STAT_MASKED 0 input).modEvt input (fun e => { e with stuck := 0 }))))
    ∧ (∀ (s : State) (input : Nat), let b := s.start; 9 ≤ input → exec (.evtStuckRearm input) s = .next (s.withBlk (b)))

/-- While boundaries run, with the governor not halted and the device not in OFF, TURN_BOUNDARY takes the block through the boundary, with the energies, cycles, flits and hart events that the ended turn measured; while none run, or with a halted governor, it does nothing. -/
def Obligations.BoundaryRow : Prop :=
  (∀ (s : State) (energy cycles flits : List (Nat × Nat)) (events : List (Nat × Nat × Nat)), let b := s.start; b.dev ≠ .off → b.running = true → b.govHalted = false → exec (.turnBoundary energy cycles flits events) s = .next (s.withBlk (b.boundary energy cycles flits events)))
    ∧ (∀ (s : State) (energy cycles flits : List (Nat × Nat)) (events : List (Nat × Nat × Nat)), let b := s.start; (b.running = false ∨ b.govHalted = true) → exec (.turnBoundary energy cycles flits events) s = .next (s.withBlk (b)))

/-- With the outputs on, a partition 0 to 63 that runs, has an ENTER slot, with the sluice's report in and no region waiting for an owner change, is entered at its START if its mark has not passed by then: a restore that is complete restarts its replicas, a catch-up left without a source is given up, and each replica that may enter is entered; at or after its mark nothing but the time changes, and without these conditions nothing does. turnseal, written by an executing core 0 to 15: an illegal instruction on a hart that is not pinned, in U or VU mode, and where the partition does not run; else bit 0 set seals the hart, clear does nothing. When the lines of a sealing replica are clean, each dirty L3 line of its image is written back and kept, the seal counts in this turn, and a re-pairing whose copy of that source is made has its seal; a replica without a sail or not sealing is left alone. At the mark of a partition each replica that should have sealed in this turn and neither did nor missed it already misses its mark, with 0x2105 in SINGLE and 0x3106 otherwise, raised as the faults of one cycle. A write of ABANDON by an executing core: an access error on a hart that is not pinned or whose partition is not live; with bit 0 set its replica, in service and not sealed or missed, misses its mark with 0x2706 in a running partition; else nothing. A partition reset request resets partition 0 to 63 and is answered 0, and is answered 0x0609_0030 above 63. -/
def Obligations.EntryAndSeal : Prop :=
  (∀ (s : State) (part : Nat), let b := s.start; ¬ (part < 64 ∧ b.outputsOn = true ∧ b.partRuns part = true ∧ (b.enterSlot part).isSome = true ∧ b.tu.reported = true ∧ b.ms.heldRegions = []) → exec (.partitionEntry part) s = .next (s.withBlk (b)))
    ∧ (∀ (s : State) (part : Nat), let b := s.start; let c : Block := b.advanceTo (b.startNs part); b.dev ≠ .off → (part < 64 ∧ b.outputsOn = true ∧ b.partRuns part = true ∧ (b.enterSlot part).isSome = true ∧ b.tu.reported = true ∧ b.ms.heldRegions = []) → c.markNs part ≤ c.nowNs → exec (.partitionEntry part) s = .next (s.withBlk (c)))
    ∧ (∀ (s : State) (part : Nat), let b := s.start; let c : Block := b.advanceTo (b.startNs part); let d : Block := match (c.part part).repair with | some q => if q.restore = 3 then c.restartOn part q else c | none => c; b.dev ≠ .off → (part < 64 ∧ b.outputsOn = true ∧ b.partRuns part = true ∧ (b.enterSlot part).isSome = true ∧ b.tu.reported = true ∧ b.ms.heldRegions = []) → c.nowNs < c.markNs part → exec (.partitionEntry part) s = .next (s.withBlk (d.forN 3 fun r b => let b := if b.catchVoid part r then b.giveUpCatch part r else b; if b.mayEnter part r then b.enterRepl part r else b)))
    ∧ (∀ (s : State) (sail core value : Nat), let b := s.start; let h : Nat := sail * 32 + core; (16 ≤ core ∨ b.executing h = false) → exec (.turnsealWrite sail core value) s = .next (s.withBlk (b)))
    ∧ (∀ (s : State) (sail core value : Nat), let b := s.start; let h : Nat := sail * 32 + core; b.dev ≠ .off → core < 16 → b.executing h = true → (b.hart h).pin = none → exec (.turnsealWrite sail core value) s = .next (s.withBlk (b.illegal h)))
    ∧ (∀ (s : State) (sail core value : Nat) (p r i : Nat), let b := s.start; let h : Nat := sail * 32 + core; b.dev ≠ .off → core < 16 → b.executing h = true → (b.hart h).pin = some (p, r, i) → ((b.hart h).priv = .u ∨ (b.hart h).priv = .vu ∨ b.partRuns p = false) → exec (.turnsealWrite sail core value) s = .next (s.withBlk (b.illegal h)))
    ∧ (∀ (s : State) (sail core value : Nat) (p r i : Nat), let b := s.start; let h : Nat := sail * 32 + core; b.dev ≠ .off → core < 16 → b.executing h = true → (b.hart h).pin = some (p, r, i) → ((b.hart h).priv ≠ .u ∧ (b.hart h).priv ≠ .vu ∧ b.partRuns p = true) → value % 2 = 1 → exec (.turnsealWrite sail core value) s = .next (s.withBlk (b.sealHart h p r)))
    ∧ (∀ (s : State) (sail core value : Nat) (p r i : Nat), let b := s.start; let h : Nat := sail * 32 + core; b.dev ≠ .off → core < 16 → b.executing h = true → (b.hart h).pin = some (p, r, i) → ((b.hart h).priv ≠ .u ∧ (b.hart h).priv ≠ .vu ∧ b.partRuns p = true) → value % 2 ≠ 1 → exec (.turnsealWrite sail core value) s = .next (s.withBlk (b)))
    ∧ (∀ (s : State) (part repl : Nat), let b := s.start; ((b.repl part repl).sail = none ∨ (b.repl part repl).sealing = false) → exec (.replicaSealed part repl) s = .next (s.withBlk (b)))
    ∧ (∀ (s : State) (part repl : Nat) (n : Nat), let b := s.start; b.dev ≠ .off → (b.repl part repl).sail = some n → (b.repl part repl).sealing = true → exec (.replicaSealed part repl) s = .next (s.withBlk ((((b.forL ((b.l3Lines n).filter fun e => e.2.st.dirty && b.inImage part repl e.1) (fun e b => b.cleanLine n e.1 part)).modRepl part repl (fun t => { t with sealing := false, active := false, seals := (t.seals.filter (· + 1 = b.turn)) ++ [b.turn] })).modPart part (fun q => { q with sealNew := some b.turn, repair := q.repair.map fun x => if x.restore = 0 && x.src = repl && x.copied then { x with counted := true } else x })).runEngs)))
    ∧ (∀ (s : State) (part : Nat), let b := s.start; (64 ≤ part ∨ b.markSlot part = none) → exec (.deadlineMark part) s = .next (s.withBlk (b)))
    ∧ (∀ (s : State) (part : Nat), let b := s.start; let c : Block := b.advanceTo (b.markNs part); let late : List Nat := (List.range 3).filter (fun r => ((c.repl part r).active || (c.partRuns part && c.inService part r)) && !((c.repl part r).sealedIn c.turn) && !((c.repl part r).missed && (c.repl part r).turn = c.turn)); let f : FaultSpec := { code := if c.pMode part = 1 then 0x2105 else 0x3106 }; b.dev ≠ .off → part < 64 → b.markSlot part ≠ none → exec (.deadlineMark part) s = .next (s.withBlk ((c.forL late (fun r b => b.missMark part r none)).raiseAll (late.map fun _ => f))))
    ∧ (∀ (s : State) (sail core value : Nat), let b := s.start; let h : Nat := sail * 32 + core; (16 ≤ core ∨ b.executing h = false) → exec (.abandonRepl sail core value) s = .next (s.withBlk (b)))
    ∧ (∀ (s : State) (sail core value : Nat), let b := s.start; let h : Nat := sail * 32 + core; b.dev ≠ .off → core < 16 → b.executing h = true → (b.hart h).pin = none → exec (.abandonRepl sail core value) s = .next (s.withBlk (b.emit .accessError)))
    ∧ (∀ (s : State) (sail core value : Nat) (p r i : Nat), let b := s.start; let h : Nat := sail * 32 + core; b.dev ≠ .off → core < 16 → b.executing h = true → (b.hart h).pin = some (p, r, i) → b.partLive p = false → exec (.abandonRepl sail core value) s = .next (s.withBlk (b.emit .accessError)))
    ∧ (∀ (s : State) (sail core value : Nat) (p r i : Nat), let b := s.start; let h : Nat := sail * 32 + core; b.dev ≠ .off → core < 16 → b.executing h = true → (b.hart h).pin = some (p, r, i) → b.partLive p = true → (value % 2 = 1 ∧ b.partRuns p = true ∧ b.inService p r = true ∧ (b.repl p r).sealedIn b.turn = false ∧ ((b.repl p r).missed = false ∨ (b.repl p r).turn ≠ b.turn)) → exec (.abandonRepl sail core value) s = .next (s.withBlk (b.missMark p r (some { code := 0x2706, mid := some h }))))
    ∧ (∀ (s : State) (sail core value : Nat) (p r i : Nat), let b := s.start; let h : Nat := sail * 32 + core; b.dev ≠ .off → core < 16 → b.executing h = true → (b.hart h).pin = some (p, r, i) → b.partLive p = true → ¬ (value % 2 = 1 ∧ b.partRuns p = true ∧ b.inService p r = true ∧ (b.repl p r).sealedIn b.turn = false ∧ ((b.repl p r).missed = false ∨ (b.repl p r).turn ≠ b.turn)) → exec (.abandonRepl sail core value) s = .next (s.withBlk (b)))
    ∧ (∀ (s : State) (part : Nat), let b := s.start; b.dev ≠ .off → part < 64 → exec (.partitionResetRequest part) s = .next (s.withBlk ((b.partReset part).answer 0)))
    ∧ (∀ (s : State) (part : Nat), let b := s.start; b.dev ≠ .off → 64 ≤ part → exec (.partitionResetRequest part) s = .next (s.withBlk (b.answer 0x06090030)))

/-- Where an engine makes this replica's digest and that is still due for the turn it was begun for, the digest is computed over the windows of that turn (SHAKE128), kept with its turn beside the one of the turn before, marked poisoned where the input or the operand says so, and sent to the peer package where the PAIR partition crosses packages; one no longer due is discarded; either way the engine takes its next; where no engine makes it nothing changes. A peer record of 48 bytes for a cross-package PAIR partition 0 to 63 from another package becomes the partition's peer record and sets PEERUP; any other changes nothing. A decision in a halted defined partition sets REPEAT; in a running one, with the outputs on, once per turn and not in turn 0, it logs 0x270D for each local replica that sealed without a digest (SINGLE apart), raises 0x370E and clears PEERUP where a peer record is missing, and applies the verdict over the valid digests; else it does nothing. A release that is first in line takes its decision out and, in a running partition, copies the source into the other hold buffer, which becomes current with its turn and clears REPEAT. A catch-up that waits for a replica not active starts when it is first in line and no copy runs; without a source, outside the turn it fell behind in or after its mark, the replica enters later with MISSED; a running one copies the state buffers and ends. A re-pairing copy, while no catch-up or restore runs or waits and no region is held, copies every image range and is marked copied; a restore starts when it is first in line and no copy runs, and its end copies the sealed buffer of each state range onto the other. -/
def Obligations.BolterRows : Prop :=
  (∀ (s : State) (part repl : Nat) (refused : Bool), let b := s.start; b.blt.engs.find? (fun x => x.2.1 = part && x.2.2.1 = repl) = none → exec (.digestComplete part repl refused) s = .next (s.withBlk (b)))
    ∧ (∀ (s : State) (part repl : Nat) (refused : Bool) (x : Nat × Nat × Nat × Nat), let b := s.start; let g : Block := b; b.dev ≠ .off → b.blt.engs.find? (fun x => x.2.1 = part && x.2.2.1 = repl) = some x → ¬ (b.digestDue part repl = true ∧ (b.repl part repl).seals.getLast? = some x.2.2.2) → exec (.digestComplete part repl refused) s = .next (s.withBlk (Block.endEng x.1 g)))
    ∧ (∀ (s : State) (part repl : Nat) (refused : Bool) (x : Nat × Nat × Nat × Nat), let b := s.start; let v : (Bytes × Bool) := (b.digestInput part repl x.2.2.2).1; let c : Block := (b.digestInput part repl x.2.2.2).2; let d : Digest := { turn := x.2.2.2, poisoned := v.2 || refused, bytes := shake128 32 v.1 }; let e : Block := c.modRepl part repl (fun t => { t with digs := t.digs.filter (fun e => e.turn + 1 = x.2.2.2) ++ [d] }); let g : Block := e.when (e.xpkg part) (fun b => b.emit (.peerRecord (b.recordOf part (!d.poisoned) d))); b.dev ≠ .off → b.blt.engs.find? (fun x => x.2.1 = part && x.2.2.1 = repl) = some x → b.digestDue part repl = true ∧ (b.repl part repl).seals.getLast? = some x.2.2.2 → exec (.digestComplete part repl refused) s = .next (s.withBlk (Block.endEng x.1 g)))
    ∧ (∀ (s : State) (record : List Nat), let b := s.start; let v : Bytes := record.map (BitVec.ofNat 8); let p : Nat := leAt 8 1 v; let f : Nat := leAt 10 1 v; ¬ (v.length = 48 ∧ p < 64 ∧ b.xpkg p = true ∧ leAt 9 1 v ≠ b.otp.pkg) → exec (.digestRecord record) s = .next (s.withBlk (b)))
    ∧ (∀ (s : State) (record : List Nat), let b := s.start; let v : Bytes := record.map (BitVec.ofNat 8); let p : Nat := leAt 8 1 v; let f : Nat := leAt 10 1 v; b.dev ≠ .off → (v.length = 48 ∧ p < 64 ∧ b.xpkg p = true ∧ leAt 9 1 v ≠ b.otp.pkg) → exec (.digestRecord record) s = .next (s.withBlk ((b.modPart p (fun t => { t with peer := some { turn := leAt 0 8 v, poisoned := bit f 1, bytes := v.drop 16 }, peerValid := bit f 0 })).put BLT_STATUS_PEERUP 1)))
    ∧ (∀ (s : State) (part : Nat), let b := s.start; 64 ≤ part → exec (.bolterDecision part) s = .next (s.withBlk (b)))
    ∧ (∀ (s : State) (part : Nat), let b := s.start; b.dev ≠ .off → part < 64 → (b.partDefined part = true ∧ b.get BLT_PSTAT_STATE part = pHalted) → exec (.bolterDecision part) s = .next (s.withBlk (b.put BLT_PSTAT_REPEAT 1 part)))
    ∧ (∀ (s : State) (part : Nat), let b := s.start; ¬ (b.partDefined part = true ∧ b.get BLT_PSTAT_STATE part = pHalted) → (b.outputsOn = false ∨ b.partRuns part = false ∨ b.turn = 0 ∨ (b.part part).decided = some (b.turn - 1)) → exec (.bolterDecision part) s = .next (s.withBlk (b)))
    ∧ (∀ (s : State) (part : Nat), let b := s.start; let u : Nat := b.turn - 1; let c : Block := b.advanceTo (b.get TRN_RELOFF_RELOFF part * 100); let mode : Nat := c.pMode part; let late : List Nat := if mode = 1 then [] else (c.localRepls part).filter (fun r => (c.repl part r).sealedIn u && !(c.repl part r).digs.any (fun d => d.turn = u)); let d : Block := c.forL late (fun _ b => b.note { code := 0x270D }); let peerOk : Bool := (match (d.part part).peer with | some x => decide (x.turn = u) | none => false); let e : Block := d.when (d.xpkg part && !peerOk) (fun b => (b.raise { code := 0x370E }).put BLT_STATUS_PEERUP 0); let l : List (Nat × Bytes) := e.validDigests part u; let v : Verdict := e.localVerdict part (verdict mode (e.pFlag part flagSurvivor) ((e.repl part 0).sealedIn u) l); b.dev ≠ .off → part < 64 → ¬ (b.partDefined part = true ∧ b.get BLT_PSTAT_STATE part = pHalted) → b.outputsOn = true → b.partRuns part = true → b.turn ≠ 0 → (b.part part).decided ≠ some (b.turn - 1) → exec (.bolterDecision part) s = .next (s.withBlk (e.applyVerdict part u v (l.map (·.1)))))
    ∧ (∀ (s : State) (part : Nat), let b := s.start; ((b.part part).release = none ∨ b.relFirst ≠ some part) → exec (.releaseInstant part) s = .next (s.withBlk (b)))
    ∧ (∀ (s : State) (part src u : Nat), let b := s.start; let c : Block := (b.modPart part (fun t => { t with release := none })); let d : Block := c.put BLT_STATUS_RELBUSY (ofBool (c.parts.any fun e => e.2.release.isSome)); let k : Nat := 1 - (d.part part).holdCur; b.dev ≠ .off → (b.part part).release = some (src, u) → b.relFirst = some part → d.partRuns part = false → exec (.releaseInstant part) s = .next (s.withBlk (d)))
    ∧ (∀ (s : State) (part src u : Nat), let b := s.start; let c : Block := (b.modPart part (fun t => { t with release := none })); let d : Block := c.put BLT_STATUS_RELBUSY (ofBool (c.parts.any fun e => e.2.release.isSome)); let k : Nat := 1 - (d.part part).holdCur; b.dev ≠ .off → (b.part part).release = some (src, u) → b.relFirst = some part → d.partRuns part = true → exec (.releaseInstant part) s = .next (s.withBlk (((d.releaseCopy part src u k).modPart part (fun t => { t with holdCur := k, holdTurn := u })).put BLT_PSTAT_REPEAT 0 part)))
    ∧ (∀ (s : State) (part repl : Nat), let b := s.start; ¬ ((b.repl part repl).catchSt = 1 ∧ (b.repl part repl).active = false) → exec (.catchUpStart part repl) s = .next (s.withBlk (b)))
    ∧ (∀ (s : State) (part repl : Nat), let b := s.start; b.dev ≠ .off → ((b.repl part repl).catchSt = 1 ∧ (b.repl part repl).active = false) → b.catchVoid part repl = true → exec (.catchUpStart part repl) s = .next (s.withBlk ((b.modRepl part repl fun t => { t with catchSt := 0, behind := none }).modRepl part repl fun t => { t with nextMissed := true })))
    ∧ (∀ (s : State) (part repl : Nat), let b := s.start; b.catchVoid part repl = false → (b.copyRuns = true ∨ b.copyFirst ≠ some (part, repl)) → exec (.catchUpStart part repl) s = .next (s.withBlk (b)))
    ∧ (∀ (s : State) (part repl : Nat), let b := s.start; b.dev ≠ .off → ((b.repl part repl).catchSt = 1 ∧ (b.repl part repl).active = false) → b.catchVoid part repl = false → b.copyRuns = false → b.copyFirst = some (part, repl) → exec (.catchUpStart part repl) s = .next (s.withBlk ((b.modRepl part repl (fun t => { t with catchSt := 2, src := b.catchSource part repl })).showCopy)))
    ∧ (∀ (s : State) (part repl : Nat) (q : Nat), let b := s.start; b.dev ≠ .off → (b.repl part repl).catchSt = 2 → (b.repl part repl).src = some q → exec (.catchUpComplete part repl) s = .next (s.withBlk (((b.catchCopy part q repl).modRepl part repl (fun t => { t with catchSt := 0, behind := none })).showCopy)))
    ∧ (∀ (s : State) (part repl : Nat), let b := s.start; ((b.repl part repl).catchSt ≠ 2 ∨ (b.repl part repl).src = none) → exec (.catchUpComplete part repl) s = .next (s.withBlk (b)))
    ∧ (∀ (s : State) (part : Nat), let b := s.start; (b.part part).repair = none → exec (.repairCopyComplete part) s = .next (s.withBlk (b)))
    ∧ (∀ (s : State) (part : Nat), let b := s.start; (b.part part).repair = none → exec (.restoreStart part) s = .next (s.withBlk (b)))
    ∧ (∀ (s : State) (part : Nat), let b := s.start; (b.part part).repair = none → exec (.restoreComplete part) s = .next (s.withBlk (b)))
    ∧ (∀ (s : State) (part : Nat) (q : Repair), let b := s.start; b.dev ≠ .off → (b.part part).repair = some q → (q.restore = 0 ∧ q.copied = false ∧ b.copyRuns = false ∧ b.copyFirst = none ∧ b.ms.heldRegions = []) → exec (.repairCopyComplete part) s = .next (s.withBlk (((b.forN 8 (fun w b => if b.imgSize part w = 0 then b else b.copyRange part (b.imgBase part w q.src) (b.imgBase part w q.repl) (b.imgSize part w))).modPart part (fun t => { t with repair := some { q with copied := true } })).showCopy)))
    ∧ (∀ (s : State) (part : Nat) (q : Repair), let b := s.start; (b.part part).repair = some q → ¬ (q.restore = 0 ∧ q.copied = false ∧ b.copyRuns = false ∧ b.copyFirst = none ∧ b.ms.heldRegions = []) → exec (.repairCopyComplete part) s = .next (s.withBlk (b)))
    ∧ (∀ (s : State) (part : Nat) (q : Repair), let b := s.start; b.dev ≠ .off → (b.part part).repair = some q → (q.restore = 1 ∧ b.copyRuns = false ∧ b.copyFirst = some (part, 0)) → exec (.restoreStart part) s = .next (s.withBlk ((b.modPart part (fun t => { t with repair := some { q with restore := 2 } })).showCopy)))
    ∧ (∀ (s : State) (part : Nat) (q : Repair), let b := s.start; (b.part part).repair = some q → ¬ (q.restore = 1 ∧ b.copyRuns = false ∧ b.copyFirst = some (part, 0)) → exec (.restoreStart part) s = .next (s.withBlk (b)))
    ∧ (∀ (s : State) (part : Nat) (q : Repair), let b := s.start; let k : Nat := (b.part part).sealTurn % 2; b.dev ≠ .off → (b.part part).repair = some q → q.restore = 2 → exec (.restoreComplete part) s = .next (s.withBlk (((b.forN 4 (fun i b => if b.stSize part i = 0 then b else b.copyRange part (b.stBase part i k 0) (b.stBase part i (1 - k) 0) (b.stSize part i))).modPart part (fun t => { t with repair := some { q with restore := 3 } })).showCopy)))
    ∧ (∀ (s : State) (part : Nat) (q : Repair), let b := s.start; (b.part part).repair = some q → q.restore ≠ 2 → exec (.restoreComplete part) s = .next (s.withBlk (b)))

/-- On an ACTIVE sail. A corrected error sets CE, counts as event 0x0A and is logged as 0x1201 once per turn; in the L3 it also counts 1 for its way, and in an L1I it drops the line, which is fetched again. An uncorrectable error: a tag error of the L3 disables the way; a data error of the L3 poisons the line where it is held, sets UE, logs 0x2202 with its address and counts 4 for the way; one in a TLB or a paging-structure cache costs its entry; a data error in an L1I drops the line, in an L1D or L2 that holds the line poisons it and else does nothing; a tag error in an L1I, L1D or L2 stops the core. Decay, once due, takes 1 from every count of the sail. A core stop of a core that is not disabled stops and disables it with 0x3206 and poisons the dirty lines that it loses; of a disabled one it does nothing. On a sail that is not ACTIVE, and for a core above 15, none of them does anything (the L3 and the count of a corrected error know no core). -/
def Obligations.CacheErrors : Prop :=
  (∀ (s : State) (sail core : Nat) (place : CachePlace) (slice way addr : Nat), let b := s.start; b.active? sail = false → exec (.cacheErrorCorrected sail core place slice way addr) s = .next (s.withBlk (b)))
    ∧ (∀ (s : State) (sail core : Nat) (place : CachePlace) (slice way addr : Nat), let b := s.start; let c : Block := ((b.put SAIL_ERRSTAT_CE 1 sail).pmu sail 0x0A none 1).noteOnce sail { code := 0x1201 }; b.dev ≠ .off → b.active? sail = true → place = .l3 → exec (.cacheErrorCorrected sail core place slice way addr) s = .next (s.withBlk (c.addWayErr sail (slice % 8) (way % 16) 1)))
    ∧ (∀ (s : State) (sail core : Nat) (place : CachePlace) (slice way addr : Nat), let b := s.start; let c : Block := ((b.put SAIL_ERRSTAT_CE 1 sail).pmu sail 0x0A none 1).noteOnce sail { code := 0x1201 }; b.dev ≠ .off → b.active? sail = true → place = .l1i → core < 16 → exec (.cacheErrorCorrected sail core place slice way addr) s = .next (s.withBlk (c.modHart (sail * 32 + core) fun t => t.dropFrom .l1i (addr / 64))))
    ∧ (∀ (s : State) (sail core : Nat) (place : CachePlace) (slice way addr : Nat), let b := s.start; let c : Block := ((b.put SAIL_ERRSTAT_CE 1 sail).pmu sail 0x0A none 1).noteOnce sail { code := 0x1201 }; b.dev ≠ .off → b.active? sail = true → place ≠ .l3 → (place ≠ .l1i ∨ 16 ≤ core) → exec (.cacheErrorCorrected sail core place slice way addr) s = .next (s.withBlk (c)))
    ∧ (∀ (s : State) (sail core : Nat) (place : CachePlace) (tag : Bool) (slice way addr : Nat), let b := s.start; (b.active? sail = false ∨ (16 ≤ core ∧ place ≠ .l3)) → exec (.cacheUncorrectableError sail core place tag slice way addr) s = .next (s.withBlk (b)))
    ∧ (∀ (s : State) (sail core : Nat) (place : CachePlace) (tag : Bool) (slice way addr : Nat), let b := s.start; b.dev ≠ .off → b.active? sail = true → place = .l3 → tag = true → exec (.cacheUncorrectableError sail core place tag slice way addr) s = .next (s.withBlk (b.disableWay sail (slice % 8) (way % 16))))
    ∧ (∀ (s : State) (sail core : Nat) (place : CachePlace) (tag : Bool) (slice way addr : Nat), let b := s.start; let h : Nat := sail * 32 + core; let line : Nat := addr / 64; b.dev ≠ .off → b.active? sail = true → place = .l3 → tag = false → exec (.cacheUncorrectableError sail core place tag slice way addr) s = .next (s.withBlk ((b.poisonLine sail line).addWayErr sail (slice % 8) (way % 16) 4)))
    ∧ (∀ (s : State) (sail core : Nat) (place : CachePlace) (tag : Bool) (slice way addr : Nat), let b := s.start; let h : Nat := sail * 32 + core; let line : Nat := addr / 64; b.dev ≠ .off → b.active? sail = true → core < 16 → place = .tlb → exec (.cacheUncorrectableError sail core place tag slice way addr) s = .next (s.withBlk (b.tlbLose h addr)))
    ∧ (∀ (s : State) (sail core : Nat) (place : CachePlace) (tag : Bool) (slice way addr : Nat), let b := s.start; let h : Nat := sail * 32 + core; let line : Nat := addr / 64; b.dev ≠ .off → b.active? sail = true → core < 16 → (place = .l1i ∨ place = .l1d ∨ place = .l2) → tag = true → exec (.cacheUncorrectableError sail core place tag slice way addr) s = .next (s.withBlk (b.coreFail h [])))
    ∧ (∀ (s : State) (sail core : Nat) (place : CachePlace) (tag : Bool) (slice way addr : Nat), let b := s.start; let h : Nat := sail * 32 + core; let line : Nat := addr / 64; b.dev ≠ .off → b.active? sail = true → core < 16 → place = .l1i → tag = false → exec (.cacheUncorrectableError sail core place tag slice way addr) s = .next (s.withBlk (b.modHart h fun t => t.dropFrom .l1i line)))
    ∧ (∀ (s : State) (sail core : Nat) (place : CachePlace) (tag : Bool) (slice way addr : Nat), let b := s.start; let h : Nat := sail * 32 + core; let line : Nat := addr / 64; b.dev ≠ .off → b.active? sail = true → core < 16 → place = .l1d → tag = false → (b.hart h).holds .l1d line = true → exec (.cacheUncorrectableError sail core place tag slice way addr) s = .next (s.withBlk (b.poisonLine sail line)))
    ∧ (∀ (s : State) (sail core : Nat) (place : CachePlace) (tag : Bool) (slice way addr : Nat), let b := s.start; let h : Nat := sail * 32 + core; let line : Nat := addr / 64; place = .l1d → tag = false → (b.hart h).holds .l1d line = false → exec (.cacheUncorrectableError sail core place tag slice way addr) s = .next (s.withBlk (b)))
    ∧ (∀ (s : State) (sail core : Nat) (place : CachePlace) (tag : Bool) (slice way addr : Nat), let b := s.start; let h : Nat := sail * 32 + core; let line : Nat := addr / 64; b.dev ≠ .off → b.active? sail = true → core < 16 → place = .l2 → tag = false → (b.hart h).holds .l2 line = true → exec (.cacheUncorrectableError sail core place tag slice way addr) s = .next (s.withBlk (b.poisonLine sail line)))
    ∧ (∀ (s : State) (sail core : Nat) (place : CachePlace) (tag : Bool) (slice way addr : Nat), let b := s.start; let h : Nat := sail * 32 + core; let line : Nat := addr / 64; place = .l2 → tag = false → (b.hart h).holds .l2 line = false → exec (.cacheUncorrectableError sail core place tag slice way addr) s = .next (s.withBlk (b)))
    ∧ (∀ (s : State) (sail : Nat), let b := s.start; b.dev ≠ .off → b.active? sail = true → b.get L3_ERRCFG_DECAY sail ≤ (b.sail sail).decay → exec (.wayErrorDecay sail) s = .next (s.withBlk (b.modSail sail (fun t => { t with decay := 0, wayErr := SMap.mapV 0 (fun _ k => k - 1) t.wayErr }))))
    ∧ (∀ (s : State) (sail : Nat), let b := s.start; (b.active? sail = false ∨ (b.sail sail).decay < b.get L3_ERRCFG_DECAY sail) → exec (.wayErrorDecay sail) s = .next (s.withBlk (b)))
    ∧ (∀ (s : State) (sail core : Nat) (lost : List Nat), let b := s.start; let h : Nat := sail * 32 + core; b.dev ≠ .off → b.active? sail = true → core < 16 → bit (b.get SAIL_COREDIS_DIS (h / 32)) (h % 32) = false → exec (.coreStop sail core lost) s = .next (s.withBlk (b.coreStop h 0x3206 lost)))
    ∧ (∀ (s : State) (sail core : Nat) (lost : List Nat), let b := s.start; let h : Nat := sail * 32 + core; (b.active? sail = false ∨ 16 ≤ core ∨ bit (b.get SAIL_COREDIS_DIS (h / 32)) (h % 32) = true) → exec (.coreStop sail core lost) s = .next (s.withBlk (b)))

/-- A write of masks, locks and owners by another master than the governor gets an access error; by the governor it is applied, or refused with REFUSED where some core would be left without a way. A write or START from a master that the sail does not serve (a sail that is not ACTIVE serves the governor and debug alone) gets an access error with 0x2503. On an ACTIVE sail a START of a busy engine sets BUSYWR and changes nothing else; of an idle one it takes operation, MSIEN, OWNERCORE and OWNER and clears DONE, ERR and ERRCODE, and then is refused with its ERRCODE and 0x220B, or takes its range; a governor's or debugger's START on another sail gets an access error. A busy engine goes on as far as it can; with no visit and no transfer left it ends with DONE, its MSI and, where a transfer timed out, ERRCODE 5 and 0x220B, and a CLEANINV of the governor that waited for it starts; an idle engine does nothing. -/
def Obligations.MaskAndMaintenance : Prop :=
  (∀ (s : State) (mid sail : Nat) (which : MaskReg) (index value : Nat), let b := s.start; b.dev ≠ .off → b.sailServes mid sail = false → exec (.l3MaskLockWrite mid sail which index value) s = .next (s.withBlk ((b.note { code := 0x2503, mid := some mid, addr := some ((maskReg which).addr sail index 0) }).emit .accessError)))
    ∧ (∀ (s : State) (mid sail : Nat) (which : MaskReg) (index value : Nat), let b := s.start; b.dev ≠ .off → b.sailServes mid sail = true → mid ≠ midGov → exec (.l3MaskLockWrite mid sail which index value) s = .next (s.withBlk (b.emit .accessError)))
    ∧ (∀ (s : State) (mid sail : Nat) (which : MaskReg) (index value : Nat), let b := s.start; b.dev ≠ .off → b.sailServes mid sail = true → mid = midGov → (b.maskPut sail which index value).maskStarved sail = false → exec (.l3MaskLockWrite mid sail which index value) s = .next (s.withBlk (b.maskPut sail which index value)))
    ∧ (∀ (s : State) (mid sail : Nat) (which : MaskReg) (index value : Nat), let b := s.start; b.dev ≠ .off → b.sailServes mid sail = true → mid = midGov → (b.maskPut sail which index value).maskStarved sail = true → exec (.l3MaskLockWrite mid sail which index value) s = .next (s.withBlk (b.put L3_CFGSTAT_REFUSED 1 sail)))
    ∧ (∀ (s : State) (sail mid ctl : Nat), let b := s.start; b.dev ≠ .off → b.sailServes mid sail = false → exec (.mntClean sail mid ctl) s = .next (s.withBlk ((b.note { code := 0x2503, mid := some mid, addr := some (Reg.L3_MNT_CTL.addr sail 0 0) }).emit .accessError)))
    ∧ (∀ (s : State) (sail mid ctl : Nat), let b := s.start; b.dev ≠ .off → b.sailServes mid sail = true → b.active? sail = false → exec (.mntClean sail mid ctl) s = .next (s.withBlk (b.emit .accessError)))
    ∧ (∀ (s : State) (sail mid ctl : Nat), let b := s.start; b.dev ≠ .off → b.sailServes mid sail = true → b.active? sail = true → b.isSet L3_MNT_STATUS_BUSY sail = true → exec (.mntClean sail mid ctl) s = .next (s.withBlk (b.put L3_MNT_STATUS_BUSYWR 1 sail)))
    ∧ (∀ (s : State) (sail mid ctl : Nat) (e : Nat), let b := s.start; let c : Block := b.mntSet sail mid (setBits ctl 0 1 0); b.dev ≠ .off → b.sailServes mid sail = true → b.active? sail = true → b.isSet L3_MNT_STATUS_BUSY sail = false → c.mntRefusal sail = some e → exec (.mntClean sail mid ctl) s = .next (s.withBlk (c.mntErr sail e)))
    ∧ (∀ (s : State) (sail mid ctl : Nat), let b := s.start; let c : Block := b.mntSet sail mid (setBits ctl 0 1 0); b.dev ≠ .off → b.sailServes mid sail = true → b.active? sail = true → b.isSet L3_MNT_STATUS_BUSY sail = false → c.mntRefusal sail = none → exec (.mntClean sail mid ctl) s = .next (s.withBlk (c.mntGo sail)))
    ∧ (∀ (s : State) (sail mid ctl : Nat), let b := s.start; b.dev ≠ .off → b.sailServes mid sail = false → exec (.mntCleaninv sail mid ctl) s = .next (s.withBlk ((b.note { code := 0x2503, mid := some mid, addr := some (Reg.L3_MNT_CTL.addr sail 0 0) }).emit .accessError)))
    ∧ (∀ (s : State) (sail mid ctl : Nat), let b := s.start; b.dev ≠ .off → b.sailServes mid sail = true → b.active? sail = false → exec (.mntCleaninv sail mid ctl) s = .next (s.withBlk (b.emit .accessError)))
    ∧ (∀ (s : State) (sail mid ctl : Nat), let b := s.start; b.dev ≠ .off → b.sailServes mid sail = true → b.active? sail = true → b.isSet L3_MNT_STATUS_BUSY sail = true → exec (.mntCleaninv sail mid ctl) s = .next (s.withBlk (b.put L3_MNT_STATUS_BUSYWR 1 sail)))
    ∧ (∀ (s : State) (sail mid ctl : Nat) (e : Nat), let b := s.start; let c : Block := b.mntSet sail mid (setBits ctl 0 1 1); b.dev ≠ .off → b.sailServes mid sail = true → b.active? sail = true → b.isSet L3_MNT_STATUS_BUSY sail = false → c.mntRefusal sail = some e → exec (.mntCleaninv sail mid ctl) s = .next (s.withBlk (c.mntErr sail e)))
    ∧ (∀ (s : State) (sail mid ctl : Nat), let b := s.start; let c : Block := b.mntSet sail mid (setBits ctl 0 1 1); b.dev ≠ .off → b.sailServes mid sail = true → b.active? sail = true → b.isSet L3_MNT_STATUS_BUSY sail = false → c.mntRefusal sail = none → exec (.mntCleaninv sail mid ctl) s = .next (s.withBlk (c.mntGo sail)))
    ∧ (∀ (s : State) (sail mid ctl : Nat), let b := s.start; b.dev ≠ .off → b.sailServes mid sail = false → exec (.mntLockload sail mid ctl) s = .next (s.withBlk ((b.note { code := 0x2503, mid := some mid, addr := some (Reg.L3_MNT_CTL.addr sail 0 0) }).emit .accessError)))
    ∧ (∀ (s : State) (sail mid ctl : Nat), let b := s.start; b.dev ≠ .off → b.sailServes mid sail = true → b.active? sail = false → exec (.mntLockload sail mid ctl) s = .next (s.withBlk (b.emit .accessError)))
    ∧ (∀ (s : State) (sail mid ctl : Nat), let b := s.start; b.dev ≠ .off → b.sailServes mid sail = true → b.active? sail = true → b.isSet L3_MNT_STATUS_BUSY sail = true → exec (.mntLockload sail mid ctl) s = .next (s.withBlk (b.put L3_MNT_STATUS_BUSYWR 1 sail)))
    ∧ (∀ (s : State) (sail mid ctl : Nat) (e : Nat), let b := s.start; let c : Block := b.mntSet sail mid (setBits ctl 0 1 2); b.dev ≠ .off → b.sailServes mid sail = true → b.active? sail = true → b.isSet L3_MNT_STATUS_BUSY sail = false → c.mntRefusal sail = some e → exec (.mntLockload sail mid ctl) s = .next (s.withBlk (c.mntErr sail e)))
    ∧ (∀ (s : State) (sail mid ctl : Nat), let b := s.start; let c : Block := b.mntSet sail mid (setBits ctl 0 1 2); b.dev ≠ .off → b.sailServes mid sail = true → b.active? sail = true → b.isSet L3_MNT_STATUS_BUSY sail = false → c.mntRefusal sail = none → exec (.mntLockload sail mid ctl) s = .next (s.withBlk (c.mntGo sail)))
    ∧ (∀ (s : State) (sail mid ctl : Nat), let b := s.start; b.dev ≠ .off → b.sailServes mid sail = false → exec (.mntReservedOp sail mid ctl) s = .next (s.withBlk ((b.note { code := 0x2503, mid := some mid, addr := some (Reg.L3_MNT_CTL.addr sail 0 0) }).emit .accessError)))
    ∧ (∀ (s : State) (sail mid ctl : Nat), let b := s.start; b.dev ≠ .off → b.sailServes mid sail = true → b.active? sail = false → exec (.mntReservedOp sail mid ctl) s = .next (s.withBlk (b.emit .accessError)))
    ∧ (∀ (s : State) (sail mid ctl : Nat), let b := s.start; b.dev ≠ .off → b.sailServes mid sail = true → b.active? sail = true → b.isSet L3_MNT_STATUS_BUSY sail = true → exec (.mntReservedOp sail mid ctl) s = .next (s.withBlk (b.put L3_MNT_STATUS_BUSYWR 1 sail)))
    ∧ (∀ (s : State) (sail mid ctl : Nat) (e : Nat), let b := s.start; let c : Block := b.mntSet sail mid (setBits ctl 0 1 3); b.dev ≠ .off → b.sailServes mid sail = true → b.active? sail = true → b.isSet L3_MNT_STATUS_BUSY sail = false → c.mntRefusal sail = some e → exec (.mntReservedOp sail mid ctl) s = .next (s.withBlk (c.mntErr sail e)))
    ∧ (∀ (s : State) (sail : Nat), let b := s.start; (b.active? sail = false ∨ b.isSet L3_MNT_STATUS_BUSY sail = false) → exec (.mntComplete sail) s = .next (s.withBlk (b)))
    ∧ (∀ (s : State) (sail : Nat), let b := s.start; let c : Block := b.l3On sail; let d : Block := ((c.modSail sail (fun t => { t with mntFail := false })).put L3_MNT_STATUS_BUSY 0 sail).put L3_MNT_STATUS_DONE 1 sail; b.dev ≠ .off → b.active? sail = true → b.isSet L3_MNT_STATUS_BUSY sail = true → c.mntDone sail = false → exec (.mntComplete sail) s = .next (s.withBlk (c)))
    ∧ (∀ (s : State) (sail : Nat), let b := s.start; let c : Block := b.l3On sail; let d : Block := ((c.modSail sail (fun t => { t with mntFail := false })).put L3_MNT_STATUS_BUSY 0 sail).put L3_MNT_STATUS_DONE 1 sail; b.dev ≠ .off → b.active? sail = true → b.isSet L3_MNT_STATUS_BUSY sail = true → c.mntDone sail = true → (c.sail sail).mntFail = false → exec (.mntComplete sail) s = .next (s.withBlk (((d.mntMsi sail).leaveOn sail).cleanOver sail)))
    ∧ (∀ (s : State) (sail : Nat), let b := s.start; let c : Block := b.l3On sail; let d : Block := ((c.modSail sail (fun t => { t with mntFail := false })).put L3_MNT_STATUS_BUSY 0 sail).put L3_MNT_STATUS_DONE 1 sail; b.dev ≠ .off → b.active? sail = true → b.isSet L3_MNT_STATUS_BUSY sail = true → c.mntDone sail = true → (c.sail sail).mntFail = true → exec (.mntComplete sail) s = .next (s.withBlk ((((d.mntErr sail 5).mntMsi sail).leaveOn sail).cleanOver sail)))

/-- The capability word of a sail in TRAINING or READMIT records REV, CAPLVL and MAXGT; in TRAINING with a level below HUBMIN the sail also goes to ABSENT, held out, its rail off, reset, with 0x0509. Training that brings a link up on a sail whose CAPLVL is at least HUBMIN clears FLM_STATUS and both FLM_LINK registers, shows the links and the delay (60 at most), starts both ends anew and takes TRAINING to SELFTEST, or in READMIT gives the effective level; one link alone raises 0x3504. The training timeout takes TRAINING to LOST with a reset and 0x3207. A self-test disables the failing ways; in SELFTEST it leads to ACTIVE when it passed with at most four failed ways in each slice, else to LOST with a reset and 0x3207, and in READMIT its result is kept. A readmission that is allowed starts and is answered 0, else it is answered 0x0800_0022; the automatic one also needs its bit of 0x1131:01 and a loss count below 0x1131:02, and does nothing without. When the steps of a readmission are complete, with a passed self-test and a level not below the effective one, the sail takes its masks and its operating point (OP 1 in SAFE_HOLD, SERVICE and CONFIG_WAIT, else the planned one); else it goes to LOST with a reset and 0x2208. A rail that settles clears RAMP; with a target other than OP 0 the sail takes its target, and one stopped at OP 0 goes on. An OP 0 clean goes on as far as it can; with no maintenance and an empty L3 the sail stops at OP 0, with RAMP while its rail falls. In other states, and above sail 11, none of these does anything. -/
def Obligations.SailStates : Prop :=
  (∀ (s : State) (sail rev level maxGt : Nat), let b := s.start; (12 ≤ sail ∨ (b.sailSt sail ≠ 1 ∧ b.sailSt sail ≠ 5)) → exec (.sailCapwordRead sail rev level maxGt) s = .next (s.withBlk (b)))
    ∧ (∀ (s : State) (sail rev level maxGt : Nat), let b := s.start; let c : Block := b.put GOV_SAILSTAT_REV rev sail |>.put GOV_SAILSTAT_CAPLVL level sail |>.put FLM_CAPWORD_REV rev sail |>.put FLM_CAPWORD_CAPLVL level sail |>.put FLM_CAPWORD_MAXGT maxGt sail; b.dev ≠ .off → sail < 12 → (b.sailSt sail = 1 ∨ b.sailSt sail = 5) → ¬ (c.sailSt sail = 1 ∧ level % 256 < c.get GOV_CAP_HUBMIN) → exec (.sailCapwordRead sail rev level maxGt) s = .next (s.withBlk (c)))
    ∧ (∀ (s : State) (sail rev level maxGt : Nat), let b := s.start; let c : Block := b.put GOV_SAILSTAT_REV rev sail |>.put GOV_SAILSTAT_CAPLVL level sail |>.put FLM_CAPWORD_REV rev sail |>.put FLM_CAPWORD_CAPLVL level sail |>.put FLM_CAPWORD_MAXGT maxGt sail; b.dev ≠ .off → sail < 12 → (b.sailSt sail = 1 ∨ b.sailSt sail = 5) → (c.sailSt sail = 1 ∧ level % 256 < c.get GOV_CAP_HUBMIN) → exec (.sailCapwordRead sail rev level maxGt) s = .next (s.withBlk (((((c.put GOV_SAILSTAT_STATE 0 sail).put GOV_SAILSTAT_HELDOUT 1 sail).vrOff sail).resetSail sail).note { code := 0x0509 })))
    ∧ (∀ (s : State) (sail : Nat) (up0 up1 : Bool) (delay : Nat), let b := s.start; ¬ (sail < 12 ∧ (b.sailSt sail = 1 ∨ b.sailSt sail = 5) ∧ (up0 || up1) = true ∧ b.get GOV_CAP_HUBMIN ≤ b.get GOV_SAILSTAT_CAPLVL sail) → exec (.flumeTrainingComplete sail up0 up1 delay) s = .next (s.withBlk (b)))
    ∧ (∀ (s : State) (sail : Nat) (up0 up1 : Bool) (delay : Nat), let b := s.start; let c : Block := ((b.setR .FLM_STATUS 0 sail).put FLM_STATUS_UP0 (ofBool up0) sail).put FLM_STATUS_UP1 (ofBool up1) sail |>.put FLM_STATUS_BDELAY (min delay 60) sail |>.setR .FLM_LINK 0 sail 0 |>.setR .FLM_LINK 0 sail 1; let d : Block := { c with mesh := { c.mesh with links := c.mesh.links.filter (fun e => e.1 / 4 ≠ sail) } }; let e : Block := if d.sailSt sail = 1 then d.put GOV_SAILSTAT_STATE 2 sail else d.put FLM_STATUS_LEVEL (d.get GOV_CAP_EFFECTIVE) sail; b.dev ≠ .off → (sail < 12 ∧ (b.sailSt sail = 1 ∨ b.sailSt sail = 5) ∧ (up0 || up1) = true ∧ b.get GOV_CAP_HUBMIN ≤ b.get GOV_SAILSTAT_CAPLVL sail) → (up0 && up1) = true → exec (.flumeTrainingComplete sail up0 up1 delay) s = .next (s.withBlk (e)))
    ∧ (∀ (s : State) (sail : Nat) (up0 up1 : Bool) (delay : Nat), let b := s.start; let c : Block := ((b.setR .FLM_STATUS 0 sail).put FLM_STATUS_UP0 (ofBool up0) sail).put FLM_STATUS_UP1 (ofBool up1) sail |>.put FLM_STATUS_BDELAY (min delay 60) sail |>.setR .FLM_LINK 0 sail 0 |>.setR .FLM_LINK 0 sail 1; let d : Block := { c with mesh := { c.mesh with links := c.mesh.links.filter (fun e => e.1 / 4 ≠ sail) } }; let e : Block := if d.sailSt sail = 1 then d.put GOV_SAILSTAT_STATE 2 sail else d.put FLM_STATUS_LEVEL (d.get GOV_CAP_EFFECTIVE) sail; b.dev ≠ .off → (sail < 12 ∧ (b.sailSt sail = 1 ∨ b.sailSt sail = 5) ∧ (up0 || up1) = true ∧ b.get GOV_CAP_HUBMIN ≤ b.get GOV_SAILSTAT_CAPLVL sail) → (up0 && up1) = false → exec (.flumeTrainingComplete sail up0 up1 delay) s = .next (s.withBlk (e.raise { code := 0x3504 })))
    ∧ (∀ (s : State) (sail : Nat), let b := s.start; b.dev ≠ .off → sail < 12 → b.sailSt sail = 1 → exec (.sailTrainingTimeout sail) s = .next (s.withBlk (((b.toLost sail).resetSail sail).raise { code := 0x3207 })))
    ∧ (∀ (s : State) (sail : Nat), let b := s.start; (12 ≤ sail ∨ b.sailSt sail ≠ 1) → exec (.sailTrainingTimeout sail) s = .next (s.withBlk (b)))
    ∧ (∀ (s : State) (sail : Nat) (pass : Bool) (bad : List (Nat × Nat)), let b := s.start; let ok : Bool := (b.testWays sail bad).1; let c : Block := (b.testWays sail bad).2; b.dev ≠ .off → sail < 12 → b.sailSt sail = 2 → (pass && ok) = true → exec (.sailSelftestComplete sail pass bad) s = .next (s.withBlk (c.put GOV_SAILSTAT_STATE 3 sail)))
    ∧ (∀ (s : State) (sail : Nat) (pass : Bool) (bad : List (Nat × Nat)), let b := s.start; let ok : Bool := (b.testWays sail bad).1; let c : Block := (b.testWays sail bad).2; b.dev ≠ .off → sail < 12 → b.sailSt sail = 2 → (pass && ok) = false → exec (.sailSelftestComplete sail pass bad) s = .next (s.withBlk (((c.toLost sail).resetSail sail).raise { code := 0x3207 })))
    ∧ (∀ (s : State) (sail : Nat) (pass : Bool) (bad : List (Nat × Nat)), let b := s.start; let ok : Bool := (b.testWays sail bad).1; let c : Block := (b.testWays sail bad).2; b.dev ≠ .off → sail < 12 → b.sailSt sail = 5 → exec (.sailSelftestComplete sail pass bad) s = .next (s.withBlk (c.modSail sail fun t => { t with testFail := !(pass && ok) })))
    ∧ (∀ (s : State) (sail : Nat) (pass : Bool) (bad : List (Nat × Nat)), let b := s.start; (12 ≤ sail ∨ (b.sailSt sail ≠ 2 ∧ b.sailSt sail ≠ 5)) → exec (.sailSelftestComplete sail pass bad) s = .next (s.withBlk (b)))
    ∧ (∀ (s : State) (sail : Nat), let b := s.start; b.dev ≠ .off → b.readmitOk sail = true → exec (.readmitRequest sail) s = .next (s.withBlk ((b.startReadmit sail).answer 0)))
    ∧ (∀ (s : State) (sail : Nat), let b := s.start; b.dev ≠ .off → b.readmitOk sail = false → exec (.readmitRequest sail) s = .next (s.withBlk (b.answer 0x08000022)))
    ∧ (∀ (s : State) (sail : Nat), let b := s.start; b.dev ≠ .off → (b.readmitOk sail = true ∧ bit (b.actN 0x1131 1) sail = true ∧ b.get GOV_SAILSTAT_LOSTCNT sail < b.actN 0x1131 2) → exec (.autoReadmit sail) s = .next (s.withBlk (b.startReadmit sail)))
    ∧ (∀ (s : State) (sail : Nat), let b := s.start; ¬ (b.readmitOk sail = true ∧ bit (b.actN 0x1131 1) sail = true ∧ b.get GOV_SAILSTAT_LOSTCNT sail < b.actN 0x1131 2) → exec (.autoReadmit sail) s = .next (s.withBlk (b)))
    ∧ (∀ (s : State) (sail : Nat) (ok : Bool), let b := s.start; let c : Block := (b.sailMasks sail).modSail sail (fun t => { t with readmitDone := true }); let op : Nat := if c.dev = .safeHold || c.dev = .service || c.dev = .configWait then 1 else c.plannedOp sail; b.dev ≠ .off → sail < 12 → b.sailSt sail = 5 → (ok = true ∧ (b.sail sail).testFail = false ∧ b.get GOV_CAP_EFFECTIVE ≤ b.get GOV_SAILSTAT_CAPLVL sail) → exec (.readmitStepsComplete sail ok) s = .next (s.withBlk (c.applyOp sail op)))
    ∧ (∀ (s : State) (sail : Nat) (ok : Bool), let b := s.start; b.dev ≠ .off → sail < 12 → b.sailSt sail = 5 → ¬ (ok = true ∧ (b.sail sail).testFail = false ∧ b.get GOV_CAP_EFFECTIVE ≤ b.get GOV_SAILSTAT_CAPLVL sail) → exec (.readmitStepsComplete sail ok) s = .next (s.withBlk (((b.toLost sail).resetSail sail).note { code := 0x2208 })))
    ∧ (∀ (s : State) (sail : Nat) (ok : Bool), let b := s.start; (12 ≤ sail ∨ b.sailSt sail ≠ 5) → exec (.readmitStepsComplete sail ok) s = .next (s.withBlk (b)))
    ∧ (∀ (s : State) (sail : Nat), let b := s.start; ¬ ((b.active? sail = true ∨ (b.sail sail).readmitDone = true) ∧ b.isSet SAIL_OP_RAMP sail = true) → exec (.railSettled sail) s = .next (s.withBlk (b)))
    ∧ (∀ (s : State) (sail : Nat), let b := s.start; let op : Nat := b.get SAIL_OP_TARGET sail; let c : Block := b.put SAIL_OP_RAMP 0 sail; let d : Block := c.put SAIL_OP_CUR op sail; b.dev ≠ .off → ((b.active? sail = true ∨ (b.sail sail).readmitDone = true) ∧ b.isSet SAIL_OP_RAMP sail = true) → op = 0 → exec (.railSettled sail) s = .next (s.withBlk (c)))
    ∧ (∀ (s : State) (sail : Nat), let b := s.start; let op : Nat := b.get SAIL_OP_TARGET sail; let c : Block := b.put SAIL_OP_RAMP 0 sail; let d : Block := c.put SAIL_OP_CUR op sail; b.dev ≠ .off → ((b.active? sail = true ∨ (b.sail sail).readmitDone = true) ∧ b.isSet SAIL_OP_RAMP sail = true) → op ≠ 0 → (d.sail sail).op0 ≠ 2 → exec (.railSettled sail) s = .next (s.withBlk (d)))
    ∧ (∀ (s : State) (sail : Nat), let b := s.start; let op : Nat := b.get SAIL_OP_TARGET sail; let c : Block := b.put SAIL_OP_RAMP 0 sail; let d : Block := c.put SAIL_OP_CUR op sail; b.dev ≠ .off → ((b.active? sail = true ∨ (b.sail sail).readmitDone = true) ∧ b.isSet SAIL_OP_RAMP sail = true) → op ≠ 0 → (d.sail sail).op0 = 2 → exec (.railSettled sail) s = .next (s.withBlk (d.wakeSail sail)))
    ∧ (∀ (s : State) (sail : Nat), let b := s.start; ¬ (b.active? sail = true ∧ (b.sail sail).op0 = 1) → exec (.op0CleanComplete sail) s = .next (s.withBlk (b)))
    ∧ (∀ (s : State) (sail : Nat), let b := s.start; let c : Block := b.l3On sail; b.dev ≠ .off → (b.active? sail = true ∧ (b.sail sail).op0 = 1) → ¬ (c.isSet L3_MNT_STATUS_BUSY sail = false ∧ c.l3Empty sail = true) → exec (.op0CleanComplete sail) s = .next (s.withBlk (c)))
    ∧ (∀ (s : State) (sail : Nat), let b := s.start; let c : Block := b.l3On sail; let d : Block := c.modSail sail (fun t => { t with op0 := 2 }); b.dev ≠ .off → (b.active? sail = true ∧ (b.sail sail).op0 = 1) → (c.isSet L3_MNT_STATUS_BUSY sail = false ∧ c.l3Empty sail = true) → exec (.op0CleanComplete sail) s = .next (s.withBlk (((d.put SAIL_OP_RAMP (ofBool (d.sailVid sail 0 < d.sailVid sail (d.get SAIL_OP_CUR sail))) sail).put SAIL_OP_CUR 0 sail).vrOn sail 0)))

/-- A core above 15 and a hart that is not ready (it does not execute, a fence holds it, or it awaits an I/O access) do nothing. A ready hart first takes a pending enabled interrupt, then lets its triggers act, and only then carries the instruction out. A load, store or fetch translates each of its pieces, and a trap there is taken. A load whose first piece lies in device space sends its I/O request and waits; one that does not lie in main memory altogether is logged as 0x2503 and takes an access fault; from main memory the bytes go to the register, signed where asked, or the hart waits for its fills, or the trap that reading gave is taken, on element 0 of a fault-only-first load or a plain load as an exception, on a later element as a shorter vl. A store sends its I/O request, is refused with 0x2503, or is carried out on its pieces once their lines are owned. A misaligned AMO, LR or SC takes cause 4 (LR) or 6 at once; else the address is translated, as a load for LR and as a store otherwise; a reserved address gives 0x2503 and an access fault, an address that is not DRAM, or of an IO page, an access fault, and LR, SC and the other operations act on the bytes. A fetch gives out its bytes, waits, or traps. A cache-block operation that the mode does not enable is an exception; a prefetch brings the line; CBO.ZERO stores zeros, CBO.CLEAN writes dirty copies back, CBO.FLUSH writes back and drops them, CBO.INVAL drops every copy, or flushes where CBIE says so; each translates its line first. A timer interrupt compares the three timers of a core of an ACTIVE sail with the time. -/
def Obligations.HartAccesses : Prop :=
  (∀ (s : State) (sail core va width dst : Nat) (signed hv : Bool) (first : Option Nat), let b := s.start; let h : Nat := sail * 32 + core; (16 ≤ core ∨ b.ready h = false) → exec (.loadOp sail core va width dst signed hv first) s = .next (s.withBlk (b)))
    ∧ (∀ (s : State) (sail core va width dst : Nat) (signed hv : Bool) (first : Option Nat) (lv : TrapLevel) (i : Nat), let b := s.start; let h : Nat := sail * 32 + core; b.dev ≠ .off → core < 16 → b.ready h = true → b.irqNext h = some (lv, i) → exec (.loadOp sail core va width dst signed hv first) s = .next (s.withBlk ((b.takeIrq h lv i).trigTrap h (b.hart h).priv true i)))
    ∧ (∀ (s : State) (sail core va width dst : Nat) (signed hv : Bool) (first : Option Nat), let b := s.start; let h : Nat := sail * 32 + core; b.dev ≠ .off → core < 16 → b.ready h = true → b.irqNext h = none → (b.trigCount h).1 = true → exec (.loadOp sail core va width dst signed hv first) s = .next (s.withBlk ((b.trigCount h).2)))
    ∧ (∀ (s : State) (sail core va width dst : Nat) (signed hv : Bool) (first : Option Nat), let b := s.start; let h : Nat := sail * 32 + core; let c : Block := (b.trigCount h).2; let d : Block := (c.trigAccess h .load va width).2; b.dev ≠ .off → core < 16 → b.ready h = true → b.irqNext h = none → (b.trigCount h).1 = false → (c.trigAccess h .load va width).1 = true → exec (.loadOp sail core va width dst signed hv first) s = .next (s.withBlk (d)))
    ∧ (∀ (s : State) (sail core va width dst : Nat) (signed hv : Bool) (first : Option Nat) (t : Trap), let b := s.start; let h : Nat := sail * 32 + core; let c : Block := (b.trigCount h).2; let d : Block := (c.trigAccess h .load va width).2; let e : Block := (d.translatePieces h .load hv (pieces va width)).2; b.dev ≠ .off → core < 16 → b.ready h = true → b.irqNext h = none → (b.trigCount h).1 = false → (c.trigAccess h .load va width).1 = false → (d.translatePieces h .load hv (pieces va width)).1 = .trap t → exec (.loadOp sail core va width dst signed hv first) s = .next (s.withBlk (e.loadTrap h first t)))
    ∧ (∀ (s : State) (sail core va width dst : Nat) (signed hv : Bool) (first : Option Nat) (x : Piece) (l : List Piece), let b := s.start; let h : Nat := sail * 32 + core; let c : Block := (b.trigCount h).2; let d : Block := (c.trigAccess h .load va width).2; let e : Block := (d.translatePieces h .load hv (pieces va width)).2; b.dev ≠ .off → core < 16 → b.ready h = true → b.irqNext h = none → (b.trigCount h).1 = false → (c.trigAccess h .load va width).1 = false → (d.translatePieces h .load hv (pieces va width)).1 = .ok (x :: l) → ioRegion (e.decodePa x.pa) = true → exec (.loadOp sail core va width dst signed hv first) s = .next (s.withBlk ((e.emit (.ioReq h (e.hartPart h) x.pa width none)).modHart h fun t => { t with io := some { addr := x.pa, va := x.va, width := width, dst := some (dst, signed), ent := e.tlbUsed h .load hv x.va } })))
    ∧ (∀ (s : State) (sail core va width dst : Nat) (signed hv : Bool) (first : Option Nat) (x : Piece) (l : List Piece) (y : Piece), let b := s.start; let h : Nat := sail * 32 + core; let c : Block := (b.trigCount h).2; let d : Block := (c.trigAccess h .load va width).2; let e : Block := (d.translatePieces h .load hv (pieces va width)).2; b.dev ≠ .off → core < 16 → b.ready h = true → b.irqNext h = none → (b.trigCount h).1 = false → (c.trigAccess h .load va width).1 = false → (d.translatePieces h .load hv (pieces va width)).1 = .ok (x :: l) → ioRegion (e.decodePa x.pa) = false → (x :: l).find? (fun z => !e.mainMem h z.pa) = some y → exec (.loadOp sail core va width dst signed hv first) s = .next (s.withBlk ((e.note { code := 0x2503, mid := some h, addr := some y.pa }).loadTrap h first { cause := 5, tval := y.va })))
    ∧ (∀ (s : State) (sail core va width dst : Nat) (signed hv : Bool) (first : Option Nat) (x : Piece) (l : List Piece) (v : Bytes), let b := s.start; let h : Nat := sail * 32 + core; let c : Block := (b.trigCount h).2; let d : Block := (c.trigAccess h .load va width).2; let e : Block := (d.translatePieces h .load hv (pieces va width)).2; let f : Block := (e.readPieces h false (x :: l)).2; b.dev ≠ .off → core < 16 → b.ready h = true → b.irqNext h = none → (b.trigCount h).1 = false → (c.trigAccess h .load va width).1 = false → (d.translatePieces h .load hv (pieces va width)).1 = .ok (x :: l) → ioRegion (e.decodePa x.pa) = false → (x :: l).find? (fun z => !e.mainMem h z.pa) = none → (e.readPieces h false (x :: l)).1 = .bytes v → exec (.loadOp sail core va width dst signed hv first) s = .next (s.withBlk ((f.setDst h dst width (leNat v) signed).hpm h 0x86 (if 64 ≤ dst then 1 else 0))))
    ∧ (∀ (s : State) (sail core va width dst : Nat) (signed hv : Bool) (first : Option Nat) (x : Piece) (l : List Piece), let b := s.start; let h : Nat := sail * 32 + core; let c : Block := (b.trigCount h).2; let d : Block := (c.trigAccess h .load va width).2; let e : Block := (d.translatePieces h .load hv (pieces va width)).2; let f : Block := (e.readPieces h false (x :: l)).2; b.dev ≠ .off → core < 16 → b.ready h = true → b.irqNext h = none → (b.trigCount h).1 = false → (c.trigAccess h .load va width).1 = false → (d.translatePieces h .load hv (pieces va width)).1 = .ok (x :: l) → ioRegion (e.decodePa x.pa) = false → (x :: l).find? (fun z => !e.mainMem h z.pa) = none → (e.readPieces h false (x :: l)).1 = .wait → exec (.loadOp sail core va width dst signed hv first) s = .next (s.withBlk (f)))
    ∧ (∀ (s : State) (sail core va width dst : Nat) (signed hv : Bool) (first : Option Nat) (x : Piece) (l : List Piece) (k a : Nat), let b := s.start; let h : Nat := sail * 32 + core; let c : Block := (b.trigCount h).2; let d : Block := (c.trigAccess h .load va width).2; let e : Block := (d.translatePieces h .load hv (pieces va width)).2; let f : Block := (e.readPieces h false (x :: l)).2; b.dev ≠ .off → core < 16 → b.ready h = true → b.irqNext h = none → (b.trigCount h).1 = false → (c.trigAccess h .load va width).1 = false → (d.translatePieces h .load hv (pieces va width)).1 = .ok (x :: l) → ioRegion (e.decodePa x.pa) = false → (x :: l).find? (fun z => !e.mainMem h z.pa) = none → (e.readPieces h false (x :: l)).1 = .trap k a → exec (.loadOp sail core va width dst signed hv first) s = .next (s.withBlk (f.loadTrap h first { cause := k, tval := a })))
    ∧ (∀ (s : State) (sail core va width src : Nat) (hv : Bool), let b := s.start; let h : Nat := sail * 32 + core; (16 ≤ core ∨ b.ready h = false) → exec (.storeOp sail core va width src hv) s = .next (s.withBlk (b)))
    ∧ (∀ (s : State) (sail core va width src : Nat) (hv : Bool) (lv : TrapLevel) (i : Nat), let b := s.start; let h : Nat := sail * 32 + core; b.dev ≠ .off → core < 16 → b.ready h = true → b.irqNext h = some (lv, i) → exec (.storeOp sail core va width src hv) s = .next (s.withBlk ((b.takeIrq h lv i).trigTrap h (b.hart h).priv true i)))
    ∧ (∀ (s : State) (sail core va width src : Nat) (hv : Bool), let b := s.start; let h : Nat := sail * 32 + core; b.dev ≠ .off → core < 16 → b.ready h = true → b.irqNext h = none → (b.trigCount h).1 = true → exec (.storeOp sail core va width src hv) s = .next (s.withBlk ((b.trigCount h).2)))
    ∧ (∀ (s : State) (sail core va width src : Nat) (hv : Bool), let b := s.start; let h : Nat := sail * 32 + core; let c : Block := (b.trigCount h).2; let d : Block := (c.trigAccess h .store va width).2; b.dev ≠ .off → core < 16 → b.ready h = true → b.irqNext h = none → (b.trigCount h).1 = false → (c.trigAccess h .store va width).1 = true → exec (.storeOp sail core va width src hv) s = .next (s.withBlk (d)))
    ∧ (∀ (s : State) (sail core va width src : Nat) (hv : Bool) (t : Trap), let b := s.start; let h : Nat := sail * 32 + core; let c : Block := (b.trigCount h).2; let d : Block := (c.trigAccess h .store va width).2; let e : Block := (d.translatePieces h .store hv (pieces va width)).2; b.dev ≠ .off → core < 16 → b.ready h = true → b.irqNext h = none → (b.trigCount h).1 = false → (c.trigAccess h .store va width).1 = false → (d.translatePieces h .store hv (pieces va width)).1 = .trap t → exec (.storeOp sail core va width src hv) s = .next (s.withBlk (e.except h t)))
    ∧ (∀ (s : State) (sail core va width src : Nat) (hv : Bool) (x : Piece) (l : List Piece), let b := s.start; let h : Nat := sail * 32 + core; let c : Block := (b.trigCount h).2; let d : Block := (c.trigAccess h .store va width).2; let e : Block := (d.translatePieces h .store hv (pieces va width)).2; b.dev ≠ .off → core < 16 → b.ready h = true → b.irqNext h = none → (b.trigCount h).1 = false → (c.trigAccess h .store va width).1 = false → (d.translatePieces h .store hv (pieces va width)).1 = .ok (x :: l) → ioRegion (e.decodePa x.pa) = true → exec (.storeOp sail core va width src hv) s = .next (s.withBlk ((e.emit (.ioReq h (e.hartPart h) x.pa width (some (d.getSrc h src width)))).modHart h fun t => { t with io := some { addr := x.pa, va := x.va, width := width, dst := none, ent := e.tlbUsed h .store hv x.va } })))
    ∧ (∀ (s : State) (sail core va width src : Nat) (hv : Bool) (x : Piece) (l : List Piece) (y : Piece), let b := s.start; let h : Nat := sail * 32 + core; let c : Block := (b.trigCount h).2; let d : Block := (c.trigAccess h .store va width).2; let e : Block := (d.translatePieces h .store hv (pieces va width)).2; b.dev ≠ .off → core < 16 → b.ready h = true → b.irqNext h = none → (b.trigCount h).1 = false → (c.trigAccess h .store va width).1 = false → (d.translatePieces h .store hv (pieces va width)).1 = .ok (x :: l) → ioRegion (e.decodePa x.pa) = false → (x :: l).find? (fun z => !e.mainMem h z.pa) = some y → exec (.storeOp sail core va width src hv) s = .next (s.withBlk (e.hartAccessErr h .store y.va y.pa)))
    ∧ (∀ (s : State) (sail core va width src : Nat) (hv : Bool) (x : Piece) (l : List Piece), let b := s.start; let h : Nat := sail * 32 + core; let c : Block := (b.trigCount h).2; let d : Block := (c.trigAccess h .store va width).2; let e : Block := (d.translatePieces h .store hv (pieces va width)).2; b.dev ≠ .off → core < 16 → b.ready h = true → b.irqNext h = none → (b.trigCount h).1 = false → (c.trigAccess h .store va width).1 = false → (d.translatePieces h .store hv (pieces va width)).1 = .ok (x :: l) → ioRegion (e.decodePa x.pa) = false → (x :: l).find? (fun z => !e.mainMem h z.pa) = none → exec (.storeOp sail core va width src hv) s = .next (s.withBlk (e.storePieces h (x :: l) (leBytes width (d.getSrc h src width)))))
    ∧ (∀ (s : State) (sail core va width dst src : Nat) (op : AmoOp), let b := s.start; let h : Nat := sail * 32 + core; (16 ≤ core ∨ b.ready h = false) → exec (.amo sail core va width dst src op) s = .next (s.withBlk (b)))
    ∧ (∀ (s : State) (sail core va width dst src : Nat) (op : AmoOp) (lv : TrapLevel) (i : Nat), let b := s.start; let h : Nat := sail * 32 + core; b.dev ≠ .off → core < 16 → b.ready h = true → b.irqNext h = some (lv, i) → exec (.amo sail core va width dst src op) s = .next (s.withBlk ((b.takeIrq h lv i).trigTrap h (b.hart h).priv true i)))
    ∧ (∀ (s : State) (sail core va width dst src : Nat) (op : AmoOp), let b := s.start; let h : Nat := sail * 32 + core; b.dev ≠ .off → core < 16 → b.ready h = true → b.irqNext h = none → (b.trigCount h).1 = true → exec (.amo sail core va width dst src op) s = .next (s.withBlk ((b.trigCount h).2)))
    ∧ (∀ (s : State) (sail core va width dst src : Nat) (op : AmoOp), let b := s.start; let h : Nat := sail * 32 + core; let c : Block := (b.trigCount h).2; let d : Block := (c.trigAccess h (if op = .lr then .load else .store) va width).2; b.dev ≠ .off → core < 16 → b.ready h = true → b.irqNext h = none → (b.trigCount h).1 = false → (c.trigAccess h (if op = .lr then .load else .store) va width).1 = true → exec (.amo sail core va width dst src op) s = .next (s.withBlk (d)))
    ∧ (∀ (s : State) (sail core va width dst src : Nat) (op : AmoOp), let b := s.start; let h : Nat := sail * 32 + core; let c : Block := (b.trigCount h).2; let d : Block := (c.trigAccess h (if op = .lr then .load else .store) va width).2; b.dev ≠ .off → core < 16 → b.ready h = true → b.irqNext h = none → (b.trigCount h).1 = false → (c.trigAccess h (if op = .lr then .load else .store) va width).1 = false → va % width ≠ 0 → exec (.amo sail core va width dst src op) s = .next (s.withBlk (d.except h { cause := if op = .lr then 4 else 6, tval := va })))
    ∧ (∀ (s : State) (sail core va width dst src : Nat) (op : AmoOp) (t : Trap), let b := s.start; let h : Nat := sail * 32 + core; let c : Block := (b.trigCount h).2; let d : Block := (c.trigAccess h (if op = .lr then .load else .store) va width).2; let e : Block := (d.translate h (if op = .lr then .load else .store) false va).2; b.dev ≠ .off → core < 16 → b.ready h = true → b.irqNext h = none → (b.trigCount h).1 = false → (c.trigAccess h (if op = .lr then .load else .store) va width).1 = false → va % width = 0 → (d.translate h (if op = .lr then .load else .store) false va).1 = .trap t → exec (.amo sail core va width dst src op) s = .next (s.withBlk (e.except h t)))
    ∧ (∀ (s : State) (sail core va width dst src : Nat) (op : AmoOp) (pa pbmt : Nat), let b := s.start; let h : Nat := sail * 32 + core; let c : Block := (b.trigCount h).2; let d : Block := (c.trigAccess h (if op = .lr then .load else .store) va width).2; let e : Block := (d.translate h (if op = .lr then .load else .store) false va).2; b.dev ≠ .off → core < 16 → b.ready h = true → b.irqNext h = none → (b.trigCount h).1 = false → (c.trigAccess h (if op = .lr then .load else .store) va width).1 = false → va % width = 0 → (d.translate h (if op = .lr then .load else .store) false va).1 = .ok (pa, pbmt) → e.decodePa pa = .reserved → exec (.amo sail core va width dst src op) s = .next (s.withBlk (e.hartAccessErr h (if op = .lr then .load else .store) va pa)))
    ∧ (∀ (s : State) (sail core va width dst src : Nat) (op : AmoOp) (pa pbmt : Nat), let b := s.start; let h : Nat := sail * 32 + core; let c : Block := (b.trigCount h).2; let d : Block := (c.trigAccess h (if op = .lr then .load else .store) va width).2; let e : Block := (d.translate h (if op = .lr then .load else .store) false va).2; b.dev ≠ .off → core < 16 → b.ready h = true → b.irqNext h = none → (b.trigCount h).1 = false → (c.trigAccess h (if op = .lr then .load else .store) va width).1 = false → va % width = 0 → (d.translate h (if op = .lr then .load else .store) false va).1 = .ok (pa, pbmt) → e.decodePa pa ≠ .reserved → (e.decodePa pa ≠ .dram ∨ pbmt = 2) → exec (.amo sail core va width dst src op) s = .next (s.withBlk (e.except h { cause := Acc.accessFault (if op = .lr then .load else .store), tval := va })))
    ∧ (∀ (s : State) (sail core va width dst src : Nat) (op : AmoOp) (pa pbmt : Nat), let b := s.start; let h : Nat := sail * 32 + core; let c : Block := (b.trigCount h).2; let d : Block := (c.trigAccess h (if op = .lr then .load else .store) va width).2; let e : Block := (d.translate h (if op = .lr then .load else .store) false va).2; b.dev ≠ .off → core < 16 → b.ready h = true → b.irqNext h = none → (b.trigCount h).1 = false → (c.trigAccess h (if op = .lr then .load else .store) va width).1 = false → va % width = 0 → (d.translate h (if op = .lr then .load else .store) false va).1 = .ok (pa, pbmt) → e.decodePa pa = .dram → pbmt ≠ 2 → op = .lr → exec (.amo sail core va width dst src op) s = .next (s.withBlk (e.doLr h { va := va, pa := pa, len := width, pbmt := pbmt } dst)))
    ∧ (∀ (s : State) (sail core va width dst src : Nat) (op : AmoOp) (pa pbmt : Nat), let b := s.start; let h : Nat := sail * 32 + core; let c : Block := (b.trigCount h).2; let d : Block := (c.trigAccess h (if op = .lr then .load else .store) va width).2; let e : Block := (d.translate h (if op = .lr then .load else .store) false va).2; b.dev ≠ .off → core < 16 → b.ready h = true → b.irqNext h = none → (b.trigCount h).1 = false → (c.trigAccess h (if op = .lr then .load else .store) va width).1 = false → va % width = 0 → (d.translate h (if op = .lr then .load else .store) false va).1 = .ok (pa, pbmt) → e.decodePa pa = .dram → pbmt ≠ 2 → op = .sc → exec (.amo sail core va width dst src op) s = .next (s.withBlk (e.doSc h { va := va, pa := pa, len := width, pbmt := pbmt } dst (e.getSrc h src width))))
    ∧ (∀ (s : State) (sail core va width dst src : Nat) (op : AmoOp) (pa pbmt : Nat), let b := s.start; let h : Nat := sail * 32 + core; let c : Block := (b.trigCount h).2; let d : Block := (c.trigAccess h (if op = .lr then .load else .store) va width).2; let e : Block := (d.translate h (if op = .lr then .load else .store) false va).2; b.dev ≠ .off → core < 16 → b.ready h = true → b.irqNext h = none → (b.trigCount h).1 = false → (c.trigAccess h (if op = .lr then .load else .store) va width).1 = false → va % width = 0 → (d.translate h (if op = .lr then .load else .store) false va).1 = .ok (pa, pbmt) → e.decodePa pa = .dram → pbmt ≠ 2 → op ≠ .lr → op ≠ .sc → exec (.amo sail core va width dst src op) s = .next (s.withBlk (e.doAmo h { va := va, pa := pa, len := width, pbmt := pbmt } dst (e.getSrc h src width) op)))
    ∧ (∀ (s : State) (sail core va width : Nat), let b := s.start; let h : Nat := sail * 32 + core; (16 ≤ core ∨ b.ready h = false) → exec (.instructionFetch sail core va width) s = .next (s.withBlk (b)))
    ∧ (∀ (s : State) (sail core va width : Nat) (lv : TrapLevel) (i : Nat), let b := s.start; let h : Nat := sail * 32 + core; b.dev ≠ .off → core < 16 → b.ready h = true → b.irqNext h = some (lv, i) → exec (.instructionFetch sail core va width) s = .next (s.withBlk ((b.takeIrq h lv i).trigTrap h (b.hart h).priv true i)))
    ∧ (∀ (s : State) (sail core va width : Nat), let b := s.start; let h : Nat := sail * 32 + core; let c : Block := b.modHart h fun t => { t with pc := va }; let d : Block := (c.trigAccess h .fetch va width).2; b.dev ≠ .off → core < 16 → b.ready h = true → b.irqNext h = none → (c.trigAccess h .fetch va width).1 = true → exec (.instructionFetch sail core va width) s = .next (s.withBlk (d)))
    ∧ (∀ (s : State) (sail core va width : Nat) (t : Trap), let b := s.start; let h : Nat := sail * 32 + core; let c : Block := b.modHart h fun t => { t with pc := va }; let d : Block := (c.trigAccess h .fetch va width).2; let e : Block := (d.translatePieces h .fetch false (pieces va width)).2; b.dev ≠ .off → core < 16 → b.ready h = true → b.irqNext h = none → (c.trigAccess h .fetch va width).1 = false → (d.translatePieces h .fetch false (pieces va width)).1 = .trap t → exec (.instructionFetch sail core va width) s = .next (s.withBlk (e.except h t)))
    ∧ (∀ (s : State) (sail core va width : Nat) (l : List Piece) (y : Piece), let b := s.start; let h : Nat := sail * 32 + core; let c : Block := b.modHart h fun t => { t with pc := va }; let d : Block := (c.trigAccess h .fetch va width).2; let e : Block := (d.translatePieces h .fetch false (pieces va width)).2; b.dev ≠ .off → core < 16 → b.ready h = true → b.irqNext h = none → (c.trigAccess h .fetch va width).1 = false → (d.translatePieces h .fetch false (pieces va width)).1 = .ok l → l.find? (fun z => !e.mainMem h z.pa) = some y → ioRegion (e.decodePa y.pa) = true → exec (.instructionFetch sail core va width) s = .next (s.withBlk (e.except h { cause := 1, tval := y.va })))
    ∧ (∀ (s : State) (sail core va width : Nat) (l : List Piece) (y : Piece), let b := s.start; let h : Nat := sail * 32 + core; let c : Block := b.modHart h fun t => { t with pc := va }; let d : Block := (c.trigAccess h .fetch va width).2; let e : Block := (d.translatePieces h .fetch false (pieces va width)).2; b.dev ≠ .off → core < 16 → b.ready h = true → b.irqNext h = none → (c.trigAccess h .fetch va width).1 = false → (d.translatePieces h .fetch false (pieces va width)).1 = .ok l → l.find? (fun z => !e.mainMem h z.pa) = some y → ioRegion (e.decodePa y.pa) = false → exec (.instructionFetch sail core va width) s = .next (s.withBlk (e.hartAccessErr h .fetch y.va y.pa)))
    ∧ (∀ (s : State) (sail core va width : Nat) (l : List Piece) (v : Bytes), let b := s.start; let h : Nat := sail * 32 + core; let c : Block := b.modHart h fun t => { t with pc := va }; let d : Block := (c.trigAccess h .fetch va width).2; let e : Block := (d.translatePieces h .fetch false (pieces va width)).2; let f : Block := (e.readPieces h true l).2; b.dev ≠ .off → core < 16 → b.ready h = true → b.irqNext h = none → (c.trigAccess h .fetch va width).1 = false → (d.translatePieces h .fetch false (pieces va width)).1 = .ok l → l.find? (fun z => !e.mainMem h z.pa) = none → (e.readPieces h true l).1 = .bytes v → exec (.instructionFetch sail core va width) s = .next (s.withBlk (f.emit (.data v false))))
    ∧ (∀ (s : State) (sail core va width : Nat) (l : List Piece), let b := s.start; let h : Nat := sail * 32 + core; let c : Block := b.modHart h fun t => { t with pc := va }; let d : Block := (c.trigAccess h .fetch va width).2; let e : Block := (d.translatePieces h .fetch false (pieces va width)).2; let f : Block := (e.readPieces h true l).2; b.dev ≠ .off → core < 16 → b.ready h = true → b.irqNext h = none → (c.trigAccess h .fetch va width).1 = false → (d.translatePieces h .fetch false (pieces va width)).1 = .ok l → l.find? (fun z => !e.mainMem h z.pa) = none → (e.readPieces h true l).1 = .wait → exec (.instructionFetch sail core va width) s = .next (s.withBlk (f)))
    ∧ (∀ (s : State) (sail core va width : Nat) (l : List Piece) (k a : Nat), let b := s.start; let h : Nat := sail * 32 + core; let c : Block := b.modHart h fun t => { t with pc := va }; let d : Block := (c.trigAccess h .fetch va width).2; let e : Block := (d.translatePieces h .fetch false (pieces va width)).2; let f : Block := (e.readPieces h true l).2; b.dev ≠ .off → core < 16 → b.ready h = true → b.irqNext h = none → (c.trigAccess h .fetch va width).1 = false → (d.translatePieces h .fetch false (pieces va width)).1 = .ok l → l.find? (fun z => !e.mainMem h z.pa) = none → (e.readPieces h true l).1 = .trap k a → exec (.instructionFetch sail core va width) s = .next (s.withBlk (f.except h { cause := k, tval := a })))
    ∧ (∀ (s : State) (sail core va : Nat) (op : CboOp), let b := s.start; let h : Nat := sail * 32 + core; (16 ≤ core ∨ b.ready h = false) → exec (.cacheBlockOperation sail core va op) s = .next (s.withBlk (b)))
    ∧ (∀ (s : State) (sail core va : Nat) (op : CboOp) (lv : TrapLevel) (i : Nat), let b := s.start; let h : Nat := sail * 32 + core; b.dev ≠ .off → core < 16 → b.ready h = true → b.irqNext h = some (lv, i) → exec (.cacheBlockOperation sail core va op) s = .next (s.withBlk ((b.takeIrq h lv i).trigTrap h (b.hart h).priv true i)))
    ∧ (∀ (s : State) (sail core va : Nat) (op : CboOp), let b := s.start; let h : Nat := sail * 32 + core; b.dev ≠ .off → core < 16 → b.ready h = true → b.irqNext h = none → (b.trigCount h).1 = true → exec (.cacheBlockOperation sail core va op) s = .next (s.withBlk ((b.trigCount h).2)))
    ∧ (∀ (s : State) (sail core va : Nat) (op : CboOp) (k : Nat), let b := s.start; let h : Nat := sail * 32 + core; let c : Block := (b.trigCount h).2; b.dev ≠ .off → core < 16 → b.ready h = true → b.irqNext h = none → (b.trigCount h).1 = false → c.cboEnabled h op = .no k → exec (.cacheBlockOperation sail core va op) s = .next (s.withBlk (c.except h { cause := k, tval := 0 })))
    ∧ (∀ (s : State) (sail core va : Nat) (k : PfKind), let b := s.start; let h : Nat := sail * 32 + core; let c : Block := (b.trigCount h).2; b.dev ≠ .off → core < 16 → b.ready h = true → b.irqNext h = none → (b.trigCount h).1 = false → exec (.cacheBlockOperation sail core va (.prefetch k)) s = .next (s.withBlk (c.prefetch h va (match k with | .read => .load | .write => .store | .fetch => .fetch))))
    ∧ (∀ (s : State) (sail core va : Nat) (op : CboOp) (e : Nat) (t : Trap), let b := s.start; let h : Nat := sail * 32 + core; let c : Block := (b.trigCount h).2; let d : Block := (c.translate h (if op = .clean ∨ op = .flush then .load else .store) false (va / 64 * 64)).2; b.dev ≠ .off → core < 16 → b.ready h = true → b.irqNext h = none → (b.trigCount h).1 = false → c.cboEnabled h op = .yes e → (op = .clean ∨ op = .flush ∨ op = .inval ∨ op = .zero) → (c.translate h (if op = .clean ∨ op = .flush then .load else .store) false (va / 64 * 64)).1 = .trap t → exec (.cacheBlockOperation sail core va op) s = .next (s.withBlk (d.except h (asStore t))))
    ∧ (∀ (s : State) (sail core va : Nat) (op : CboOp) (e : Nat) (pa pbmt : Nat), let b := s.start; let h : Nat := sail * 32 + core; let c : Block := (b.trigCount h).2; let d : Block := (c.translate h (if op = .clean ∨ op = .flush then .load else .store) false (va / 64 * 64)).2; b.dev ≠ .off → core < 16 → b.ready h = true → b.irqNext h = none → (b.trigCount h).1 = false → c.cboEnabled h op = .yes e → (op = .clean ∨ op = .flush ∨ op = .inval ∨ op = .zero) → (c.translate h (if op = .clean ∨ op = .flush then .load else .store) false (va / 64 * 64)).1 = .ok (pa, pbmt) → d.decodePa pa = .reserved → exec (.cacheBlockOperation sail core va op) s = .next (s.withBlk (d.hartAccessErr h .store va pa)))
    ∧ (∀ (s : State) (sail core va : Nat) (op : CboOp) (e : Nat) (pa pbmt : Nat), let b := s.start; let h : Nat := sail * 32 + core; let c : Block := (b.trigCount h).2; let d : Block := (c.translate h (if op = .clean ∨ op = .flush then .load else .store) false (va / 64 * 64)).2; b.dev ≠ .off → core < 16 → b.ready h = true → b.irqNext h = none → (b.trigCount h).1 = false → c.cboEnabled h op = .yes e → (c.translate h (if op = .clean ∨ op = .flush then .load else .store) false (va / 64 * 64)).1 = .ok (pa, pbmt) → d.decodePa pa ≠ .reserved → op = .zero → d.mainMem h pa = true → exec (.cacheBlockOperation sail core va op) s = .next (s.withBlk (d.storePieces h [{ va := va, pa := pa, len := 64, pbmt := pbmt }] (List.replicate 64 0))))
    ∧ (∀ (s : State) (sail core va : Nat) (op : CboOp) (e : Nat) (pa pbmt : Nat), let b := s.start; let h : Nat := sail * 32 + core; let c : Block := (b.trigCount h).2; let d : Block := (c.translate h (if op = .clean ∨ op = .flush then .load else .store) false (va / 64 * 64)).2; b.dev ≠ .off → core < 16 → b.ready h = true → b.irqNext h = none → (b.trigCount h).1 = false → c.cboEnabled h op = .yes e → (c.translate h (if op = .clean ∨ op = .flush then .load else .store) false (va / 64 * 64)).1 = .ok (pa, pbmt) → d.decodePa pa ≠ .reserved → op = .zero → d.mainMem h pa = false → d.decodePa pa = .scratch → exec (.cacheBlockOperation sail core va op) s = .next (s.withBlk (d.hartAccessErr h .store va pa)))
    ∧ (∀ (s : State) (sail core va : Nat) (op : CboOp) (e : Nat) (pa pbmt : Nat), let b := s.start; let h : Nat := sail * 32 + core; let c : Block := (b.trigCount h).2; let d : Block := (c.translate h (if op = .clean ∨ op = .flush then .load else .store) false (va / 64 * 64)).2; b.dev ≠ .off → core < 16 → b.ready h = true → b.irqNext h = none → (b.trigCount h).1 = false → c.cboEnabled h op = .yes e → (c.translate h (if op = .clean ∨ op = .flush then .load else .store) false (va / 64 * 64)).1 = .ok (pa, pbmt) → d.decodePa pa ≠ .reserved → op = .zero → d.mainMem h pa = false → d.decodePa pa ≠ .scratch → exec (.cacheBlockOperation sail core va op) s = .next (s.withBlk (d.except h { cause := 7, tval := va })))
    ∧ (∀ (s : State) (sail core va : Nat) (op : CboOp) (e : Nat) (pa pbmt : Nat), let b := s.start; let h : Nat := sail * 32 + core; let c : Block := (b.trigCount h).2; let d : Block := (c.translate h (if op = .clean ∨ op = .flush then .load else .store) false (va / 64 * 64)).2; b.dev ≠ .off → core < 16 → b.ready h = true → b.irqNext h = none → (b.trigCount h).1 = false → c.cboEnabled h op = .yes e → (c.translate h (if op = .clean ∨ op = .flush then .load else .store) false (va / 64 * 64)).1 = .ok (pa, pbmt) → d.decodePa pa ≠ .reserved → op = .clean → d.decodePa pa = .dram → exec (.cacheBlockOperation sail core va op) s = .next (s.withBlk ((d.calm (pa / 64)).forN 12 (fun n b => b.cleanLine n (pa / 64) noPart))))
    ∧ (∀ (s : State) (sail core va : Nat) (op : CboOp) (e : Nat) (pa pbmt : Nat), let b := s.start; let h : Nat := sail * 32 + core; let c : Block := (b.trigCount h).2; let d : Block := (c.translate h (if op = .clean ∨ op = .flush then .load else .store) false (va / 64 * 64)).2; b.dev ≠ .off → core < 16 → b.ready h = true → b.irqNext h = none → (b.trigCount h).1 = false → c.cboEnabled h op = .yes e → (c.translate h (if op = .clean ∨ op = .flush then .load else .store) false (va / 64 * 64)).1 = .ok (pa, pbmt) → d.decodePa pa ≠ .reserved → (op = .flush ∨ (op = .inval ∧ e = 1)) → d.decodePa pa = .dram → exec (.cacheBlockOperation sail core va op) s = .next (s.withBlk (d.forN 12 (fun n b => b.dropLine n (pa / 64)))))
    ∧ (∀ (s : State) (sail core va : Nat) (op : CboOp) (e : Nat) (pa pbmt : Nat), let b := s.start; let h : Nat := sail * 32 + core; let c : Block := (b.trigCount h).2; let d : Block := (c.translate h (if op = .clean ∨ op = .flush then .load else .store) false (va / 64 * 64)).2; b.dev ≠ .off → core < 16 → b.ready h = true → b.irqNext h = none → (b.trigCount h).1 = false → c.cboEnabled h op = .yes e → (c.translate h (if op = .clean ∨ op = .flush then .load else .store) false (va / 64 * 64)).1 = .ok (pa, pbmt) → d.decodePa pa ≠ .reserved → op = .inval → e ≠ 1 → d.decodePa pa = .dram → exec (.cacheBlockOperation sail core va op) s = .next (s.withBlk (d.invalLine (pa / 64))))
    ∧ (∀ (s : State) (sail core va : Nat) (op : CboOp) (e : Nat) (pa pbmt : Nat), let b := s.start; let h : Nat := sail * 32 + core; let c : Block := (b.trigCount h).2; let d : Block := (c.translate h (if op = .clean ∨ op = .flush then .load else .store) false (va / 64 * 64)).2; b.dev ≠ .off → core < 16 → b.ready h = true → b.irqNext h = none → (b.trigCount h).1 = false → c.cboEnabled h op = .yes e → (c.translate h (if op = .clean ∨ op = .flush then .load else .store) false (va / 64 * 64)).1 = .ok (pa, pbmt) → d.decodePa pa ≠ .reserved → (op = .clean ∨ op = .flush ∨ op = .inval) → d.decodePa pa ≠ .dram → exec (.cacheBlockOperation sail core va op) s = .next (s.withBlk (d)))
    ∧ (∀ (s : State) (sail core : Nat), let b := s.start; let h : Nat := sail * 32 + core; b.dev ≠ .off → core < 16 → b.active? sail = true → exec (.timerInterrupt sail core) s = .next (s.withBlk (b.modHart h fun t => { t with mtip := decide (b.getR .CLU_MTIMECMP (h / 32) (h % 32 / 4) (h % 4) ≤ b.timeCsr), stip := decide (b.csr h csrStimecmp ≤ b.timeCsr), vstip := decide (b.csr h csrVstimecmp ≤ (b.timeCsr + b.csr h 0x605) % 2 ^ 64) })))
    ∧ (∀ (s : State) (sail core : Nat), let b := s.start; (16 ≤ core ∨ b.active? sail = false) → exec (.timerInterrupt sail core) s = .next (s.withBlk (b)))

/-- A core above 15 and a hart that is not ready do nothing; a ready hart first takes a pending enabled interrupt, then lets its triggers act. A fence, also one written as a broadcast fence, that the mode may not execute is an exception; SFENCE.INVAL.IR makes every broadcast outstanding waited for; any other takes what it covers out of the hart's translation caches (in VS mode, of the VMID in hgatp), and, where broadcast is enabled for the mode and the hart belongs to a domain, goes out to every ACTIVE sail with the next number, kept with its targets while there are any; the Svinval fences do not hold the hart. A delivery to an ACTIVE sail of a broadcast that no longer stands is acknowledged; of one that stands each target on that sail counts event 0x88; at OP 0 it is acknowledged at once and the sail remembers to empty its caches; else each target applies it, and it is acknowledged at once or kept until the I/O accesses in flight through a covered entry end. A delivery to a sail that is not ACTIVE does nothing. An acknowledgement takes the sail's targets out of the broadcast, which ends with its last target. A timeout of a broadcast that stands counts and stops every remaining target with 0x320C and ends the broadcast; of another it does nothing. -/
def Obligations.FencesAndBroadcasts : Prop :=
  (∀ (s : State) (sail core : Nat) (kind : FenceKind) (addr asid vmid : Option Nat), let b := s.start; let h : Nat := sail * 32 + core; (16 ≤ core ∨ b.ready h = false) → exec (.sfenceVma sail core kind addr asid vmid) s = .next (s.withBlk (b)))
    ∧ (∀ (s : State) (sail core : Nat) (kind : FenceKind) (addr asid vmid : Option Nat) (lv : TrapLevel) (i : Nat), let b := s.start; let h : Nat := sail * 32 + core; b.dev ≠ .off → core < 16 → b.ready h = true → b.irqNext h = some (lv, i) → exec (.sfenceVma sail core kind addr asid vmid) s = .next (s.withBlk ((b.takeIrq h lv i).trigTrap h (b.hart h).priv true i)))
    ∧ (∀ (s : State) (sail core : Nat) (kind : FenceKind) (addr asid vmid : Option Nat), let b := s.start; let h : Nat := sail * 32 + core; b.dev ≠ .off → core < 16 → b.ready h = true → b.irqNext h = none → (b.trigCount h).1 = true → exec (.sfenceVma sail core kind addr asid vmid) s = .next (s.withBlk ((b.trigCount h).2)))
    ∧ (∀ (s : State) (sail core : Nat) (kind : FenceKind) (addr asid vmid : Option Nat) (k : Nat), let b := s.start; let h : Nat := sail * 32 + core; let c : Block := (b.trigCount h).2; b.dev ≠ .off → core < 16 → b.ready h = true → b.irqNext h = none → (b.trigCount h).1 = false → fenceTrap (c.hart h).priv kind = some k → exec (.sfenceVma sail core kind addr asid vmid) s = .next (s.withBlk (c.except h { cause := k, tval := 0 })))
    ∧ (∀ (s : State) (sail core : Nat) (kind : FenceKind) (addr asid vmid : Option Nat), let b := s.start; let h : Nat := sail * 32 + core; let c : Block := (b.trigCount h).2; let md : Priv := (c.hart h).priv; let kd : FenceKind := if md = .vs then (match kind with | .sfenceVma => .hfenceVvma | .sinvalVma => .hinvalVvma | k => k) else kind; let vm : Option Nat := (match kd with | .hfenceVvma | .hinvalVvma => some (bits (c.csr h csrHgatp) 44 57) | .hfenceGvma | .hinvalGvma => vmid | _ => none); let d : Block := c.applyFence h kd addr asid vm; b.dev ≠ .off → core < 16 → b.ready h = true → b.irqNext h = none → (b.trigCount h).1 = false → fenceTrap (c.hart h).priv kind = none → kind = .sfenceInvalIr → exec (.sfenceVma sail core kind addr asid vmid) s = .next (s.withBlk (d.modHart h fun t => { t with bcasts := t.bcasts.map fun c => { c with waits := true } })))
    ∧ (∀ (s : State) (sail core : Nat) (kind : FenceKind) (addr asid vmid : Option Nat), let b := s.start; let h : Nat := sail * 32 + core; let c : Block := (b.trigCount h).2; let md : Priv := (c.hart h).priv; let kd : FenceKind := if md = .vs then (match kind with | .sfenceVma => .hfenceVvma | .sinvalVma => .hinvalVvma | k => k) else kind; let vm : Option Nat := (match kd with | .hfenceVvma | .hinvalVvma => some (bits (c.csr h csrHgatp) 44 57) | .hfenceGvma | .hinvalGvma => vmid | _ => none); let d : Block := c.applyFence h kd addr asid vm; b.dev ≠ .off → core < 16 → b.ready h = true → b.irqNext h = none → (b.trigCount h).1 = false → fenceTrap (c.hart h).priv kind = none → kind ≠ .sfenceInvalIr → ¬ (((md = .s ∧ bit (d.csr h csrBcastctl) 0 = true) ∨ (md = .vs ∧ bit (d.csr h csrBcastctl) 1 = true)) ∧ bit (d.csr h csrInvdom) 15 = true) → exec (.sfenceVma sail core kind addr asid vmid) s = .next (s.withBlk (d)))
    ∧ (∀ (s : State) (sail core : Nat) (kind : FenceKind) (addr asid vmid : Option Nat), let b := s.start; let h : Nat := sail * 32 + core; let c : Block := (b.trigCount h).2; let md : Priv := (c.hart h).priv; let kd : FenceKind := if md = .vs then (match kind with | .sfenceVma => .hfenceVvma | .sinvalVma => .hinvalVvma | k => k) else kind; let vm : Option Nat := (match kd with | .hfenceVvma | .hinvalVvma => some (bits (c.csr h csrHgatp) 44 57) | .hfenceGvma | .hinvalGvma => vmid | _ => none); let d : Block := c.applyFence h kd addr asid vm; let ts : List Nat := d.domainOf h (bits (d.csr h csrInvdom) 0 5); let id : Nat := (d.hart h).nextB; let sent : List Bcast := if ts.isEmpty then [] else [{ id := id, kind := kd, addr := addr, asid := asid, vmid := vm, domain := bits (d.csr h csrInvdom) 0 5, targets := ts, waits := (match kd with | .sinvalVma | .hinvalVvma | .hinvalGvma => false | _ => true) }]; let e : Block := d.modHart h (fun t => { t with nextB := id + 1, bcasts := t.bcasts ++ sent }); b.dev ≠ .off → core < 16 → b.ready h = true → b.irqNext h = none → (b.trigCount h).1 = false → fenceTrap (c.hart h).priv kind = none → kind ≠ .sfenceInvalIr → (((md = .s ∧ bit (d.csr h csrBcastctl) 0 = true) ∨ (md = .vs ∧ bit (d.csr h csrBcastctl) 1 = true)) ∧ bit (d.csr h csrInvdom) 15 = true) → exec (.sfenceVma sail core kind addr asid vmid) s = .next (s.withBlk (e.forL e.activeSails (fun n b => b.emit (.binv n h id)))))
    ∧ (∀ (s : State) (sail core : Nat) (kind : FenceKind) (addr asid vmid : Option Nat), let b := s.start; let h : Nat := sail * 32 + core; (16 ≤ core ∨ b.ready h = false) → exec (.broadcastFence sail core kind addr asid vmid) s = .next (s.withBlk (b)))
    ∧ (∀ (s : State) (sail core : Nat) (kind : FenceKind) (addr asid vmid : Option Nat) (lv : TrapLevel) (i : Nat), let b := s.start; let h : Nat := sail * 32 + core; b.dev ≠ .off → core < 16 → b.ready h = true → b.irqNext h = some (lv, i) → exec (.broadcastFence sail core kind addr asid vmid) s = .next (s.withBlk ((b.takeIrq h lv i).trigTrap h (b.hart h).priv true i)))
    ∧ (∀ (s : State) (sail core : Nat) (kind : FenceKind) (addr asid vmid : Option Nat), let b := s.start; let h : Nat := sail * 32 + core; b.dev ≠ .off → core < 16 → b.ready h = true → b.irqNext h = none → (b.trigCount h).1 = true → exec (.broadcastFence sail core kind addr asid vmid) s = .next (s.withBlk ((b.trigCount h).2)))
    ∧ (∀ (s : State) (sail core : Nat) (kind : FenceKind) (addr asid vmid : Option Nat) (k : Nat), let b := s.start; let h : Nat := sail * 32 + core; let c : Block := (b.trigCount h).2; b.dev ≠ .off → core < 16 → b.ready h = true → b.irqNext h = none → (b.trigCount h).1 = false → fenceTrap (c.hart h).priv kind = some k → exec (.broadcastFence sail core kind addr asid vmid) s = .next (s.withBlk (c.except h { cause := k, tval := 0 })))
    ∧ (∀ (s : State) (sail core : Nat) (kind : FenceKind) (addr asid vmid : Option Nat), let b := s.start; let h : Nat := sail * 32 + core; let c : Block := (b.trigCount h).2; let md : Priv := (c.hart h).priv; let kd : FenceKind := if md = .vs then (match kind with | .sfenceVma => .hfenceVvma | .sinvalVma => .hinvalVvma | k => k) else kind; let vm : Option Nat := (match kd with | .hfenceVvma | .hinvalVvma => some (bits (c.csr h csrHgatp) 44 57) | .hfenceGvma | .hinvalGvma => vmid | _ => none); let d : Block := c.applyFence h kd addr asid vm; b.dev ≠ .off → core < 16 → b.ready h = true → b.irqNext h = none → (b.trigCount h).1 = false → fenceTrap (c.hart h).priv kind = none → kind = .sfenceInvalIr → exec (.broadcastFence sail core kind addr asid vmid) s = .next (s.withBlk (d.modHart h fun t => { t with bcasts := t.bcasts.map fun c => { c with waits := true } })))
    ∧ (∀ (s : State) (sail core : Nat) (kind : FenceKind) (addr asid vmid : Option Nat), let b := s.start; let h : Nat := sail * 32 + core; let c : Block := (b.trigCount h).2; let md : Priv := (c.hart h).priv; let kd : FenceKind := if md = .vs then (match kind with | .sfenceVma => .hfenceVvma | .sinvalVma => .hinvalVvma | k => k) else kind; let vm : Option Nat := (match kd with | .hfenceVvma | .hinvalVvma => some (bits (c.csr h csrHgatp) 44 57) | .hfenceGvma | .hinvalGvma => vmid | _ => none); let d : Block := c.applyFence h kd addr asid vm; b.dev ≠ .off → core < 16 → b.ready h = true → b.irqNext h = none → (b.trigCount h).1 = false → fenceTrap (c.hart h).priv kind = none → kind ≠ .sfenceInvalIr → ¬ (((md = .s ∧ bit (d.csr h csrBcastctl) 0 = true) ∨ (md = .vs ∧ bit (d.csr h csrBcastctl) 1 = true)) ∧ bit (d.csr h csrInvdom) 15 = true) → exec (.broadcastFence sail core kind addr asid vmid) s = .next (s.withBlk (d)))
    ∧ (∀ (s : State) (sail core : Nat) (kind : FenceKind) (addr asid vmid : Option Nat), let b := s.start; let h : Nat := sail * 32 + core; let c : Block := (b.trigCount h).2; let md : Priv := (c.hart h).priv; let kd : FenceKind := if md = .vs then (match kind with | .sfenceVma => .hfenceVvma | .sinvalVma => .hinvalVvma | k => k) else kind; let vm : Option Nat := (match kd with | .hfenceVvma | .hinvalVvma => some (bits (c.csr h csrHgatp) 44 57) | .hfenceGvma | .hinvalGvma => vmid | _ => none); let d : Block := c.applyFence h kd addr asid vm; let ts : List Nat := d.domainOf h (bits (d.csr h csrInvdom) 0 5); let id : Nat := (d.hart h).nextB; let sent : List Bcast := if ts.isEmpty then [] else [{ id := id, kind := kd, addr := addr, asid := asid, vmid := vm, domain := bits (d.csr h csrInvdom) 0 5, targets := ts, waits := (match kd with | .sinvalVma | .hinvalVvma | .hinvalGvma => false | _ => true) }]; let e : Block := d.modHart h (fun t => { t with nextB := id + 1, bcasts := t.bcasts ++ sent }); b.dev ≠ .off → core < 16 → b.ready h = true → b.irqNext h = none → (b.trigCount h).1 = false → fenceTrap (c.hart h).priv kind = none → kind ≠ .sfenceInvalIr → (((md = .s ∧ bit (d.csr h csrBcastctl) 0 = true) ∨ (md = .vs ∧ bit (d.csr h csrBcastctl) 1 = true)) ∧ bit (d.csr h csrInvdom) 15 = true) → exec (.broadcastFence sail core kind addr asid vmid) s = .next (s.withBlk (e.forL e.activeSails (fun n b => b.emit (.binv n h id)))))
    ∧ (∀ (s : State) (sail src id : Nat), let b := s.start; let q : Block := (b.arrives (.binvMsg sail src id)).2; b.dev ≠ .off → (b.arrives (.binvMsg sail src id)).1 = false → exec (.binvMsg sail src id) s = .next (s.withBlk (q)))
    ∧ (∀ (s : State) (sail src id : Nat), let b := s.start; let q : Block := (b.arrives (.binvMsg sail src id)).2; b.dev ≠ .off → (b.arrives (.binvMsg sail src id)).1 = true → q.active? sail = false → exec (.binvMsg sail src id) s = .next (s.withBlk (q)))
    ∧ (∀ (s : State) (sail src id : Nat), let b := s.start; let q : Block := (b.arrives (.binvMsg sail src id)).2; b.dev ≠ .off → (b.arrives (.binvMsg sail src id)).1 = true → q.active? sail = true → (q.hart src).bcasts.find? (fun c => c.id = id) = none → exec (.binvMsg sail src id) s = .next (s.withBlk (q.emit (.binvAck sail src id))))
    ∧ (∀ (s : State) (sail src id : Nat) (c : Bcast), let b := s.start; let q : Block := (b.arrives (.binvMsg sail src id)).2; let ts : List Nat := c.targets.filter fun t => t / 32 = sail; let d : Block := q.forL ts fun t b => b.hpm t 0x88 1; b.dev ≠ .off → (b.arrives (.binvMsg sail src id)).1 = true → q.active? sail = true → (q.hart src).bcasts.find? (fun c => c.id = id) = some c → (d.sail sail).op0 = 2 → exec (.binvMsg sail src id) s = .next (s.withBlk ((d.modSail sail (fun t => { t with op0Fence := true })).emit (.binvAck sail src id))))
    ∧ (∀ (s : State) (sail src id : Nat) (c : Bcast), let b := s.start; let q : Block := (b.arrives (.binvMsg sail src id)).2; let ts : List Nat := c.targets.filter fun t => t / 32 = sail; let d : Block := q.forL ts fun t b => b.hpm t 0x88 1; let e : Block := d.forL ts fun t b => b.applyFence t c.kind c.addr c.asid c.vmid; let hold : List Nat := ts.filter fun t => e.usesCovered t c; b.dev ≠ .off → (b.arrives (.binvMsg sail src id)).1 = true → q.active? sail = true → (q.hart src).bcasts.find? (fun c => c.id = id) = some c → (d.sail sail).op0 ≠ 2 → hold = [] → exec (.binvMsg sail src id) s = .next (s.withBlk (e.emit (.binvAck sail src id))))
    ∧ (∀ (s : State) (sail src id : Nat) (c : Bcast), let b := s.start; let q : Block := (b.arrives (.binvMsg sail src id)).2; let ts : List Nat := c.targets.filter fun t => t / 32 = sail; let d : Block := q.forL ts fun t b => b.hpm t 0x88 1; let e : Block := d.forL ts fun t b => b.applyFence t c.kind c.addr c.asid c.vmid; let hold : List Nat := ts.filter fun t => e.usesCovered t c; b.dev ≠ .off → (b.arrives (.binvMsg sail src id)).1 = true → q.active? sail = true → (q.hart src).bcasts.find? (fun c => c.id = id) = some c → (d.sail sail).op0 ≠ 2 → hold ≠ [] → exec (.binvMsg sail src id) s = .next (s.withBlk (e.modSail sail fun t => { t with acks := t.acks ++ [(src, id, hold)] })))
    ∧ (∀ (s : State) (sail src id : Nat), let b := s.start; let q : Block := (b.arrives (.binvAck sail src id)).2; b.dev ≠ .off → (b.arrives (.binvAck sail src id)).1 = false → exec (.binvAck sail src id) s = .next (s.withBlk (q)))
    ∧ (∀ (s : State) (sail src id : Nat), let b := s.start; let q : Block := (b.arrives (.binvAck sail src id)).2; b.dev ≠ .off → (b.arrives (.binvAck sail src id)).1 = true → exec (.binvAck sail src id) s = .next (s.withBlk (q.bcastDone src id fun t => t / 32 = sail)))
    ∧ (∀ (s : State) (src id : Nat), let b := s.start; (b.hart src).bcasts.find? (fun c => c.id = id) = none → exec (.binvTimeout src id) s = .next (s.withBlk (b)))
    ∧ (∀ (s : State) (src id : Nat) (c : Bcast), let b := s.start; b.dev ≠ .off → (b.hart src).bcasts.find? (fun c => c.id = id) = some c → exec (.binvTimeout src id) s = .next (s.withBlk ((b.forL c.targets (fun t b => { b with gov := { b.gov with binvTimeouts := satInc 16 b.gov.binvTimeouts } }.coreStop t 0x320C [])).bcastDone src id fun _ => true)))

/-- A translation answers the physical address, or an access error where the unit reports a fault; with DDTP in bare mode an untagged address below 2^48 comes out as it came in, counted as an untranslated request. A command of the queue that has come to its head, of the kind of its row: IOTINVAL.VMA and IOTINVAL.GVMA take the translations that they name out of the cache, IODIR.INVAL_DDT the device contexts, and the head moves on; IOFENCE.C waits at the head; an illegal command sets cmd_ill, logs 0x29E3 and interrupts where the queue's interrupt is enabled. Without a command at the head nothing but the reading of it happens, and a command of another kind stays. A fence that is complete stores its data where it asks for it, as an MSI to an interrupt file of a sail that is served or into DRAM, and the head moves on; any other address stops the queue with its memory-fault bit and 0x29E0. A fence that does not wait completes nothing. -/
def Obligations.IotRows : Prop :=
  (∀ (s : State) (dev mid part : Nat) (pasid : Option Nat) (write ex : Bool) (iova : Nat), let b := s.start; b.dev ≠ .off → bits (b.iotG ioDdtp) 0 3 = 1 → pasid = none → iova < 2 ^ 48 → exec (.iotTranslate dev mid part pasid write ex iova) s = .next (s.withBlk ((b.iotEvent 1 dev none).emit (.value iova))))
    ∧ (∀ (s : State) (dev mid part : Nat) (pasid : Option Nat) (write ex : Bool) (iova : Nat) (pa : Nat), let b := s.start; let c : Block := (b.iotTranslate dev mid part pasid (if write then .store else if ex then .fetch else .load) iova).2; b.dev ≠ .off → (b.iotTranslate dev mid part pasid (if write then .store else if ex then .fetch else .load) iova).1 = some pa → exec (.iotTranslate dev mid part pasid write ex iova) s = .next (s.withBlk (c.emit (.value pa))))
    ∧ (∀ (s : State) (dev mid part : Nat) (pasid : Option Nat) (write ex : Bool) (iova : Nat), let b := s.start; let c : Block := (b.iotTranslate dev mid part pasid (if write then .store else if ex then .fetch else .load) iova).2; b.dev ≠ .off → (b.iotTranslate dev mid part pasid (if write then .store else if ex then .fetch else .load) iova).1 = none → exec (.iotTranslate dev mid part pasid write ex iova) s = .next (s.withBlk (c.emit .accessError)))
    ∧ (∀ (s : State) (w : Nat), let b := s.start; let c : Block := (b.iotHead).2; b.dev ≠ .off → (b.iotHead).1 = some w → ioCmd w = .vma → exec (.iotinvalVma) s = .next (s.withBlk ((c.modIot (fun t => { t with atc := t.atc.filter fun e => !((!bit w 33 || e.gscid = some (bits w 44 59)) && (!bit w 32 || (!e.glob && e.pscid = bits w 12 31)) && (!bit w 10 || e.vpn = bits w 74 125)) })).iotNext)))
    ∧ (∀ (s : State) (w : Nat), let b := s.start; let c : Block := (b.iotHead).2; b.dev ≠ .off → (b.iotHead).1 = some w → ioCmd w ≠ .vma → exec (.iotinvalVma) s = .next (s.withBlk (c)))
    ∧ (∀ (s : State), let b := s.start; let c : Block := (b.iotHead).2; b.dev ≠ .off → (b.iotHead).1 = none → exec (.iotinvalVma) s = .next (s.withBlk (c)))
    ∧ (∀ (s : State) (w : Nat), let b := s.start; let c : Block := (b.iotHead).2; b.dev ≠ .off → (b.iotHead).1 = some w → ioCmd w = .gvma → exec (.iotinvalGvma) s = .next (s.withBlk ((c.modIot (fun t => { t with atc := t.atc.filter fun e => bit w 33 && e.gscid ≠ some (bits w 44 59) })).iotNext)))
    ∧ (∀ (s : State) (w : Nat), let b := s.start; let c : Block := (b.iotHead).2; b.dev ≠ .off → (b.iotHead).1 = some w → ioCmd w ≠ .gvma → exec (.iotinvalGvma) s = .next (s.withBlk (c)))
    ∧ (∀ (s : State), let b := s.start; let c : Block := (b.iotHead).2; b.dev ≠ .off → (b.iotHead).1 = none → exec (.iotinvalGvma) s = .next (s.withBlk (c)))
    ∧ (∀ (s : State) (w : Nat), let b := s.start; let c : Block := (b.iotHead).2; b.dev ≠ .off → (b.iotHead).1 = some w → ioCmd w = .dir → exec (.iodirCmd) s = .next (s.withBlk ((c.modIot (fun t => { t with ddc := t.ddc.filter fun e => !(!bit w 33 || e.1 = bits w 40 63) })).iotNext)))
    ∧ (∀ (s : State) (w : Nat), let b := s.start; let c : Block := (b.iotHead).2; b.dev ≠ .off → (b.iotHead).1 = some w → ioCmd w ≠ .dir → exec (.iodirCmd) s = .next (s.withBlk (c)))
    ∧ (∀ (s : State), let b := s.start; let c : Block := (b.iotHead).2; b.dev ≠ .off → (b.iotHead).1 = none → exec (.iodirCmd) s = .next (s.withBlk (c)))
    ∧ (∀ (s : State) (w : Nat), let b := s.start; let c : Block := (b.iotHead).2; b.dev ≠ .off → (b.iotHead).1 = some w → ioCmd w = .fenceC → exec (.iofenceC) s = .next (s.withBlk (c.modIot fun t => { t with fence := true })))
    ∧ (∀ (s : State) (w : Nat), let b := s.start; let c : Block := (b.iotHead).2; b.dev ≠ .off → (b.iotHead).1 = some w → ioCmd w ≠ .fenceC → exec (.iofenceC) s = .next (s.withBlk (c)))
    ∧ (∀ (s : State), let b := s.start; let c : Block := (b.iotHead).2; b.dev ≠ .off → (b.iotHead).1 = none → exec (.iofenceC) s = .next (s.withBlk (c)))
    ∧ (∀ (s : State) (w : Nat), let b := s.start; let c : Block := (b.iotHead).2; b.dev ≠ .off → (b.iotHead).1 = some w → ioCmd w = .illegal → exec (.iotCommandIllegal) s = .next (s.withBlk (((c.iotS ioCqcsr (setBits (c.iotG ioCqcsr) 10 10 1)).note { code := 0x29E3 }).when (bit (((c.iotS ioCqcsr (setBits (c.iotG ioCqcsr) 10 10 1)).note { code := 0x29E3 }).iotG ioCqcsr) 1) (fun b => b.iotIrq 0))))
    ∧ (∀ (s : State) (w : Nat), let b := s.start; let c : Block := (b.iotHead).2; b.dev ≠ .off → (b.iotHead).1 = some w → ioCmd w ≠ .illegal → exec (.iotCommandIllegal) s = .next (s.withBlk (c)))
    ∧ (∀ (s : State), let b := s.start; let c : Block := (b.iotHead).2; b.dev ≠ .off → (b.iotHead).1 = none → exec (.iotCommandIllegal) s = .next (s.withBlk (c)))
    ∧ (∀ (s : State), let b := s.start; b.iot.fence = false → exec (.iofenceCComplete) s = .next (s.withBlk (b)))
    ∧ (∀ (s : State), let b := s.start; let c : Block := b.modIot fun t => { t with fence := false }; let d : Block := c.iotHead.2; b.dev ≠ .off → b.iot.fence = true → c.iotHead.1 = none → exec (.iofenceCComplete) s = .next (s.withBlk (d)))
    ∧ (∀ (s : State) (w : Nat), let b := s.start; let c : Block := b.modIot fun t => { t with fence := false }; let d : Block := c.iotHead.2; let a : Nat := bits w 64 125 * 4; b.dev ≠ .off → b.iot.fence = true → c.iotHead.1 = some w → bit w 10 = false → exec (.iofenceCComplete) s = .next (s.withBlk (d.iotNext)))
    ∧ (∀ (s : State) (w : Nat), let b := s.start; let c : Block := b.modIot fun t => { t with fence := false }; let d : Block := c.iotHead.2; let a : Nat := bits w 64 125 * 4; b.dev ≠ .off → b.iot.fence = true → c.iotHead.1 = some w → bit w 10 = true → ((fileOf a).isSome = true ∧ d.sailServes midSluice ((a - sailCtl) / sailStride) = true) → exec (.iofenceCComplete) s = .next (s.withBlk ((d.sendMsi midSluice a (bits w 32 63)).iotNext)))
    ∧ (∀ (s : State) (w : Nat), let b := s.start; let c : Block := b.modIot fun t => { t with fence := false }; let d : Block := c.iotHead.2; let a : Nat := bits w 64 125 * 4; b.dev ≠ .off → b.iot.fence = true → c.iotHead.1 = some w → bit w 10 = true → ¬ ((fileOf a).isSome = true ∧ d.sailServes midSluice ((a - sailCtl) / sailStride) = true) → d.rangeOk a 4 = true → exec (.iofenceCComplete) s = .next (s.withBlk ((d.writeBytes midSluice noPart a (leBytes 4 (bits w 32 63))).iotNext)))
    ∧ (∀ (s : State) (w : Nat), let b := s.start; let c : Block := b.modIot fun t => { t with fence := false }; let d : Block := c.iotHead.2; let a : Nat := bits w 64 125 * 4; b.dev ≠ .off → b.iot.fence = true → c.iotHead.1 = some w → bit w 10 = true → ¬ ((fileOf a).isSome = true ∧ d.sailServes midSluice ((a - sailCtl) / sailStride) = true) → d.rangeOk a 4 = false → exec (.iofenceCComplete) s = .next (s.withBlk ((d.iotS ioCqcsr (setBits (d.iotG ioCqcsr) 8 8 1)).note { code := 0x29E0, mid := some midSluice, addr := some a })))

/-- A doorbell of a partition bound on an ACTIVE sail, for queue 0 or 1, adds COUNT to TAIL, or, where COUNT is 0, the queue has no size or would overflow, is refused with error A and 0x2305; any other gets an access error. The millstone takes the next entry of a queue 0 or 1 of an enabled binding that is not stopped, has a size, has an entry waiting and no failed command: an entry outside the binding's ranges or that cannot be read is error B, and a failed check fails the command, each once no earlier command is under way; an entry of another opcode is left to that opcode's command, and behind a command under way only one with OVL that is no SIGNAL starts. An entry that starts: NOP begins; GEMM and CONV begin with all their blocks and the free tiles choose work; COPY begins, is charged and copies its rows, or fails where a row does; SIGNAL begins, writes VALUE and sends its MSI where it names one. A tile boundary records scratch lines found bad and, once per turn, a corrected error (0x1302), ends the block of the tile (or accounts for a block whose command is gone) and lets the tile choose work. The command at HEAD that has all its blocks and no error completes: it is counted, HEAD advances, and the lookup is an event. RESUME restarts a stopped queue, SKIP past its entry where there is one; on a running queue neither does anything, and one from no bound partition or for another queue gets an access error. -/
def Obligations.Millstone : Prop :=
  (∀ (s : State) (part : Option Nat) (sail j count : Nat), let b := s.start; b.dev ≠ .off → (b.mstReach sail part = none ∨ 2 ≤ j) → exec (.mstDoorbell part sail j count) s = .next (s.withBlk (b.emit .accessError)))
    ∧ (∀ (s : State) (part : Option Nat) (sail j count : Nat) (i : Nat), let b := s.start; b.dev ≠ .off → b.mstReach sail part = some i → j < 2 → (count % 8192 = 0 ∨ b.qsize sail i j = 0 ∨ 2 ^ b.qsize sail i j < ((b.mq sail i j).tail + count % 8192 + 65536 - (b.mq sail i j).head) % 65536) → exec (.mstDoorbell part sail j count) s = .next (s.withBlk (b.mstQErr sail i j 10 false)))
    ∧ (∀ (s : State) (part : Option Nat) (sail j count : Nat) (i : Nat), let b := s.start; b.dev ≠ .off → b.mstReach sail part = some i → j < 2 → ¬ (count % 8192 = 0 ∨ b.qsize sail i j = 0 ∨ 2 ^ b.qsize sail i j < ((b.mq sail i j).tail + count % 8192 + 65536 - (b.mq sail i j).head) % 65536) → exec (.mstDoorbell part sail j count) s = .next (s.withBlk (b.modMq sail i j fun q => { q with tail := (q.tail + count % 8192) % 65536 })))
    ∧ (∀ (s : State) (sail i j : Nat), let b := s.start; let q : MstQ := b.mq sail i j; let idx : Nat := (q.head + q.started) % 65536; ¬ (b.mstLive sail = true ∧ i < 16 ∧ j < 2 ∧ b.isSet MST_BCFG_EN sail i = true ∧ q.stopped = false ∧ b.qsize sail i j ≠ 0 ∧ idx ≠ q.tail ∧ (b.mst sail).runs.any (fun r => r.q = 2 * i + j && r.err ≠ 0) = false) → exec (.nopCmd sail i j) s = .next (s.withBlk (b)))
    ∧ (∀ (s : State) (sail i j : Nat), let b := s.start; let q : MstQ := b.mq sail i j; let idx : Nat := (q.head + q.started) % 65536; let p : Nat := b.get MST_BCFG_PART sail i; let a : Nat := b.mstEntry sail i j; let r : Bytes × Nat := (b.mstRead sail p a 64).1; let c : Block := (b.mstRead sail p a 64).2; let ws : List Nat := (List.range 8).map (fun w => leAt (8 * w) 8 r.1); b.dev ≠ .off → (b.mstLive sail = true ∧ i < 16 ∧ j < 2 ∧ b.isSet MST_BCFG_EN sail i = true ∧ q.stopped = false ∧ b.qsize sail i j ≠ 0 ∧ idx ≠ q.tail ∧ (b.mst sail).runs.any (fun r => r.q = 2 * i + j && r.err ≠ 0) = false) → b.rangeAllowed sail i (a, 64, false) = false → q.started = 0 → exec (.nopCmd sail i j) s = .next (s.withBlk (b.mstQErr sail i j 11 true)))
    ∧ (∀ (s : State) (sail i j : Nat), let b := s.start; let q : MstQ := b.mq sail i j; let idx : Nat := (q.head + q.started) % 65536; let p : Nat := b.get MST_BCFG_PART sail i; let a : Nat := b.mstEntry sail i j; let r : Bytes × Nat := (b.mstRead sail p a 64).1; let c : Block := (b.mstRead sail p a 64).2; let ws : List Nat := (List.range 8).map (fun w => leAt (8 * w) 8 r.1); b.dev ≠ .off → (b.mstLive sail = true ∧ i < 16 ∧ j < 2 ∧ b.isSet MST_BCFG_EN sail i = true ∧ q.stopped = false ∧ b.qsize sail i j ≠ 0 ∧ idx ≠ q.tail ∧ (b.mst sail).runs.any (fun r => r.q = 2 * i + j && r.err ≠ 0) = false) → b.rangeAllowed sail i (a, 64, false) = true → r.2 ≠ 0 → q.started = 0 → exec (.nopCmd sail i j) s = .next (s.withBlk (c.mstQErr sail i j 11 true)))
    ∧ (∀ (s : State) (sail i j : Nat), let b := s.start; let q : MstQ := b.mq sail i j; let idx : Nat := (q.head + q.started) % 65536; let p : Nat := b.get MST_BCFG_PART sail i; let a : Nat := b.mstEntry sail i j; let r : Bytes × Nat := (b.mstRead sail p a 64).1; let c : Block := (b.mstRead sail p a 64).2; let ws : List Nat := (List.range 8).map (fun w => leAt (8 * w) 8 r.1); (b.mstLive sail = true ∧ i < 16 ∧ j < 2 ∧ b.isSet MST_BCFG_EN sail i = true ∧ q.stopped = false ∧ b.qsize sail i j ≠ 0 ∧ idx ≠ q.tail ∧ (b.mst sail).runs.any (fun r => r.q = 2 * i + j && r.err ≠ 0) = false) → ((b.rangeAllowed sail i (a, 64, false) = true ∧ r.2 = 0 ∧ ¬ (mstOp ws = 0 ∨ 4 < mstOp ws)) ∨ (q.started ≠ 0 ∧ (b.rangeAllowed sail i (a, 64, false) = false ∨ r.2 ≠ 0 ∨ ((mstOp ws = 0 ∨ 4 < mstOp ws) ∧ (c.mstCheck sail i ws ≠ 0 ∨ mstOp ws = 4 ∨ bit (wd ws 0) 8 = false))))) → exec (.nopCmd sail i j) s = .next (s.withBlk (b)))
    ∧ (∀ (s : State) (sail i j : Nat), let b := s.start; let q : MstQ := b.mq sail i j; let idx : Nat := (q.head + q.started) % 65536; let p : Nat := b.get MST_BCFG_PART sail i; let a : Nat := b.mstEntry sail i j; let r : Bytes × Nat := (b.mstRead sail p a 64).1; let c : Block := (b.mstRead sail p a 64).2; let ws : List Nat := (List.range 8).map (fun w => leAt (8 * w) 8 r.1); b.dev ≠ .off → (b.mstLive sail = true ∧ i < 16 ∧ j < 2 ∧ b.isSet MST_BCFG_EN sail i = true ∧ q.stopped = false ∧ b.qsize sail i j ≠ 0 ∧ idx ≠ q.tail ∧ (b.mst sail).runs.any (fun r => r.q = 2 * i + j && r.err ≠ 0) = false) → b.rangeAllowed sail i (a, 64, false) = true → r.2 = 0 → (mstOp ws = 0 ∨ 4 < mstOp ws) → c.mstCheck sail i ws ≠ 0 → q.started = 0 → exec (.nopCmd sail i j) s = .next (s.withBlk (c.mstFail sail i j idx (c.mstCheck sail i ws))))
    ∧ (∀ (s : State) (sail i j : Nat), let b := s.start; let q : MstQ := b.mq sail i j; let idx : Nat := (q.head + q.started) % 65536; let p : Nat := b.get MST_BCFG_PART sail i; let a : Nat := b.mstEntry sail i j; let r : Bytes × Nat := (b.mstRead sail p a 64).1; let c : Block := (b.mstRead sail p a 64).2; let ws : List Nat := (List.range 8).map (fun w => leAt (8 * w) 8 r.1); b.dev ≠ .off → (b.mstLive sail = true ∧ i < 16 ∧ j < 2 ∧ b.isSet MST_BCFG_EN sail i = true ∧ q.stopped = false ∧ b.qsize sail i j ≠ 0 ∧ idx ≠ q.tail ∧ (b.mst sail).runs.any (fun r => r.q = 2 * i + j && r.err ≠ 0) = false) → b.rangeAllowed sail i (a, 64, false) = true → r.2 = 0 → mstOp ws = 0 → c.mstCheck sail i ws = 0 → (q.started = 0 ∨ bit (wd ws 0) 8 = true) → exec (.nopCmd sail i j) s = .next (s.withBlk (c.beginRun sail (2 * i + j) idx ws 0)))
    ∧ (∀ (s : State) (sail i j : Nat), let b := s.start; let q : MstQ := b.mq sail i j; let idx : Nat := (q.head + q.started) % 65536; ¬ (b.mstLive sail = true ∧ i < 16 ∧ j < 2 ∧ b.isSet MST_BCFG_EN sail i = true ∧ q.stopped = false ∧ b.qsize sail i j ≠ 0 ∧ idx ≠ q.tail ∧ (b.mst sail).runs.any (fun r => r.q = 2 * i + j && r.err ≠ 0) = false) → exec (.gemmCmd sail i j) s = .next (s.withBlk (b)))
    ∧ (∀ (s : State) (sail i j : Nat), let b := s.start; let q : MstQ := b.mq sail i j; let idx : Nat := (q.head + q.started) % 65536; let p : Nat := b.get MST_BCFG_PART sail i; let a : Nat := b.mstEntry sail i j; let r : Bytes × Nat := (b.mstRead sail p a 64).1; let c : Block := (b.mstRead sail p a 64).2; let ws : List Nat := (List.range 8).map (fun w => leAt (8 * w) 8 r.1); b.dev ≠ .off → (b.mstLive sail = true ∧ i < 16 ∧ j < 2 ∧ b.isSet MST_BCFG_EN sail i = true ∧ q.stopped = false ∧ b.qsize sail i j ≠ 0 ∧ idx ≠ q.tail ∧ (b.mst sail).runs.any (fun r => r.q = 2 * i + j && r.err ≠ 0) = false) → b.rangeAllowed sail i (a, 64, false) = false → q.started = 0 → exec (.gemmCmd sail i j) s = .next (s.withBlk (b.mstQErr sail i j 11 true)))
    ∧ (∀ (s : State) (sail i j : Nat), let b := s.start; let q : MstQ := b.mq sail i j; let idx : Nat := (q.head + q.started) % 65536; let p : Nat := b.get MST_BCFG_PART sail i; let a : Nat := b.mstEntry sail i j; let r : Bytes × Nat := (b.mstRead sail p a 64).1; let c : Block := (b.mstRead sail p a 64).2; let ws : List Nat := (List.range 8).map (fun w => leAt (8 * w) 8 r.1); b.dev ≠ .off → (b.mstLive sail = true ∧ i < 16 ∧ j < 2 ∧ b.isSet MST_BCFG_EN sail i = true ∧ q.stopped = false ∧ b.qsize sail i j ≠ 0 ∧ idx ≠ q.tail ∧ (b.mst sail).runs.any (fun r => r.q = 2 * i + j && r.err ≠ 0) = false) → b.rangeAllowed sail i (a, 64, false) = true → r.2 ≠ 0 → q.started = 0 → exec (.gemmCmd sail i j) s = .next (s.withBlk (c.mstQErr sail i j 11 true)))
    ∧ (∀ (s : State) (sail i j : Nat), let b := s.start; let q : MstQ := b.mq sail i j; let idx : Nat := (q.head + q.started) % 65536; let p : Nat := b.get MST_BCFG_PART sail i; let a : Nat := b.mstEntry sail i j; let r : Bytes × Nat := (b.mstRead sail p a 64).1; let c : Block := (b.mstRead sail p a 64).2; let ws : List Nat := (List.range 8).map (fun w => leAt (8 * w) 8 r.1); (b.mstLive sail = true ∧ i < 16 ∧ j < 2 ∧ b.isSet MST_BCFG_EN sail i = true ∧ q.stopped = false ∧ b.qsize sail i j ≠ 0 ∧ idx ≠ q.tail ∧ (b.mst sail).runs.any (fun r => r.q = 2 * i + j && r.err ≠ 0) = false) → ((b.rangeAllowed sail i (a, 64, false) = true ∧ r.2 = 0 ∧ ¬ (mstOp ws = 1 ∨ 4 < mstOp ws)) ∨ (q.started ≠ 0 ∧ (b.rangeAllowed sail i (a, 64, false) = false ∨ r.2 ≠ 0 ∨ ((mstOp ws = 1 ∨ 4 < mstOp ws) ∧ (c.mstCheck sail i ws ≠ 0 ∨ mstOp ws = 4 ∨ bit (wd ws 0) 8 = false))))) → exec (.gemmCmd sail i j) s = .next (s.withBlk (b)))
    ∧ (∀ (s : State) (sail i j : Nat), let b := s.start; let q : MstQ := b.mq sail i j; let idx : Nat := (q.head + q.started) % 65536; let p : Nat := b.get MST_BCFG_PART sail i; let a : Nat := b.mstEntry sail i j; let r : Bytes × Nat := (b.mstRead sail p a 64).1; let c : Block := (b.mstRead sail p a 64).2; let ws : List Nat := (List.range 8).map (fun w => leAt (8 * w) 8 r.1); b.dev ≠ .off → (b.mstLive sail = true ∧ i < 16 ∧ j < 2 ∧ b.isSet MST_BCFG_EN sail i = true ∧ q.stopped = false ∧ b.qsize sail i j ≠ 0 ∧ idx ≠ q.tail ∧ (b.mst sail).runs.any (fun r => r.q = 2 * i + j && r.err ≠ 0) = false) → b.rangeAllowed sail i (a, 64, false) = true → r.2 = 0 → (mstOp ws = 1 ∨ 4 < mstOp ws) → c.mstCheck sail i ws ≠ 0 → q.started = 0 → exec (.gemmCmd sail i j) s = .next (s.withBlk (c.mstFail sail i j idx (c.mstCheck sail i ws))))
    ∧ (∀ (s : State) (sail i j : Nat), let b := s.start; let q : MstQ := b.mq sail i j; let idx : Nat := (q.head + q.started) % 65536; let p : Nat := b.get MST_BCFG_PART sail i; let a : Nat := b.mstEntry sail i j; let r : Bytes × Nat := (b.mstRead sail p a 64).1; let c : Block := (b.mstRead sail p a 64).2; let ws : List Nat := (List.range 8).map (fun w => leAt (8 * w) 8 r.1); b.dev ≠ .off → (b.mstLive sail = true ∧ i < 16 ∧ j < 2 ∧ b.isSet MST_BCFG_EN sail i = true ∧ q.stopped = false ∧ b.qsize sail i j ≠ 0 ∧ idx ≠ q.tail ∧ (b.mst sail).runs.any (fun r => r.q = 2 * i + j && r.err ≠ 0) = false) → b.rangeAllowed sail i (a, 64, false) = true → r.2 = 0 → mstOp ws = 1 → c.mstCheck sail i ws = 0 → (q.started = 0 ∨ bit (wd ws 0) 8 = true) → exec (.gemmCmd sail i j) s = .next (s.withBlk ((c.beginRun sail (2 * i + j) idx ws (blockCount ws * blockParts ws)).forN 4 (fun t b => b.chooseWork sail t))))
    ∧ (∀ (s : State) (sail i j : Nat), let b := s.start; let q : MstQ := b.mq sail i j; let idx : Nat := (q.head + q.started) % 65536; ¬ (b.mstLive sail = true ∧ i < 16 ∧ j < 2 ∧ b.isSet MST_BCFG_EN sail i = true ∧ q.stopped = false ∧ b.qsize sail i j ≠ 0 ∧ idx ≠ q.tail ∧ (b.mst sail).runs.any (fun r => r.q = 2 * i + j && r.err ≠ 0) = false) → exec (.convCmd sail i j) s = .next (s.withBlk (b)))
    ∧ (∀ (s : State) (sail i j : Nat), let b := s.start; let q : MstQ := b.mq sail i j; let idx : Nat := (q.head + q.started) % 65536; let p : Nat := b.get MST_BCFG_PART sail i; let a : Nat := b.mstEntry sail i j; let r : Bytes × Nat := (b.mstRead sail p a 64).1; let c : Block := (b.mstRead sail p a 64).2; let ws : List Nat := (List.range 8).map (fun w => leAt (8 * w) 8 r.1); b.dev ≠ .off → (b.mstLive sail = true ∧ i < 16 ∧ j < 2 ∧ b.isSet MST_BCFG_EN sail i = true ∧ q.stopped = false ∧ b.qsize sail i j ≠ 0 ∧ idx ≠ q.tail ∧ (b.mst sail).runs.any (fun r => r.q = 2 * i + j && r.err ≠ 0) = false) → b.rangeAllowed sail i (a, 64, false) = false → q.started = 0 → exec (.convCmd sail i j) s = .next (s.withBlk (b.mstQErr sail i j 11 true)))
    ∧ (∀ (s : State) (sail i j : Nat), let b := s.start; let q : MstQ := b.mq sail i j; let idx : Nat := (q.head + q.started) % 65536; let p : Nat := b.get MST_BCFG_PART sail i; let a : Nat := b.mstEntry sail i j; let r : Bytes × Nat := (b.mstRead sail p a 64).1; let c : Block := (b.mstRead sail p a 64).2; let ws : List Nat := (List.range 8).map (fun w => leAt (8 * w) 8 r.1); b.dev ≠ .off → (b.mstLive sail = true ∧ i < 16 ∧ j < 2 ∧ b.isSet MST_BCFG_EN sail i = true ∧ q.stopped = false ∧ b.qsize sail i j ≠ 0 ∧ idx ≠ q.tail ∧ (b.mst sail).runs.any (fun r => r.q = 2 * i + j && r.err ≠ 0) = false) → b.rangeAllowed sail i (a, 64, false) = true → r.2 ≠ 0 → q.started = 0 → exec (.convCmd sail i j) s = .next (s.withBlk (c.mstQErr sail i j 11 true)))
    ∧ (∀ (s : State) (sail i j : Nat), let b := s.start; let q : MstQ := b.mq sail i j; let idx : Nat := (q.head + q.started) % 65536; let p : Nat := b.get MST_BCFG_PART sail i; let a : Nat := b.mstEntry sail i j; let r : Bytes × Nat := (b.mstRead sail p a 64).1; let c : Block := (b.mstRead sail p a 64).2; let ws : List Nat := (List.range 8).map (fun w => leAt (8 * w) 8 r.1); (b.mstLive sail = true ∧ i < 16 ∧ j < 2 ∧ b.isSet MST_BCFG_EN sail i = true ∧ q.stopped = false ∧ b.qsize sail i j ≠ 0 ∧ idx ≠ q.tail ∧ (b.mst sail).runs.any (fun r => r.q = 2 * i + j && r.err ≠ 0) = false) → ((b.rangeAllowed sail i (a, 64, false) = true ∧ r.2 = 0 ∧ ¬ (mstOp ws = 2 ∨ 4 < mstOp ws)) ∨ (q.started ≠ 0 ∧ (b.rangeAllowed sail i (a, 64, false) = false ∨ r.2 ≠ 0 ∨ ((mstOp ws = 2 ∨ 4 < mstOp ws) ∧ (c.mstCheck sail i ws ≠ 0 ∨ mstOp ws = 4 ∨ bit (wd ws 0) 8 = false))))) → exec (.convCmd sail i j) s = .next (s.withBlk (b)))
    ∧ (∀ (s : State) (sail i j : Nat), let b := s.start; let q : MstQ := b.mq sail i j; let idx : Nat := (q.head + q.started) % 65536; let p : Nat := b.get MST_BCFG_PART sail i; let a : Nat := b.mstEntry sail i j; let r : Bytes × Nat := (b.mstRead sail p a 64).1; let c : Block := (b.mstRead sail p a 64).2; let ws : List Nat := (List.range 8).map (fun w => leAt (8 * w) 8 r.1); b.dev ≠ .off → (b.mstLive sail = true ∧ i < 16 ∧ j < 2 ∧ b.isSet MST_BCFG_EN sail i = true ∧ q.stopped = false ∧ b.qsize sail i j ≠ 0 ∧ idx ≠ q.tail ∧ (b.mst sail).runs.any (fun r => r.q = 2 * i + j && r.err ≠ 0) = false) → b.rangeAllowed sail i (a, 64, false) = true → r.2 = 0 → (mstOp ws = 2 ∨ 4 < mstOp ws) → c.mstCheck sail i ws ≠ 0 → q.started = 0 → exec (.convCmd sail i j) s = .next (s.withBlk (c.mstFail sail i j idx (c.mstCheck sail i ws))))
    ∧ (∀ (s : State) (sail i j : Nat), let b := s.start; let q : MstQ := b.mq sail i j; let idx : Nat := (q.head + q.started) % 65536; let p : Nat := b.get MST_BCFG_PART sail i; let a : Nat := b.mstEntry sail i j; let r : Bytes × Nat := (b.mstRead sail p a 64).1; let c : Block := (b.mstRead sail p a 64).2; let ws : List Nat := (List.range 8).map (fun w => leAt (8 * w) 8 r.1); b.dev ≠ .off → (b.mstLive sail = true ∧ i < 16 ∧ j < 2 ∧ b.isSet MST_BCFG_EN sail i = true ∧ q.stopped = false ∧ b.qsize sail i j ≠ 0 ∧ idx ≠ q.tail ∧ (b.mst sail).runs.any (fun r => r.q = 2 * i + j && r.err ≠ 0) = false) → b.rangeAllowed sail i (a, 64, false) = true → r.2 = 0 → mstOp ws = 2 → c.mstCheck sail i ws = 0 → (q.started = 0 ∨ bit (wd ws 0) 8 = true) → exec (.convCmd sail i j) s = .next (s.withBlk ((c.beginRun sail (2 * i + j) idx ws (blockCount ws * blockParts ws)).forN 4 (fun t b => b.chooseWork sail t))))
    ∧ (∀ (s : State) (sail i j : Nat), let b := s.start; let q : MstQ := b.mq sail i j; let idx : Nat := (q.head + q.started) % 65536; ¬ (b.mstLive sail = true ∧ i < 16 ∧ j < 2 ∧ b.isSet MST_BCFG_EN sail i = true ∧ q.stopped = false ∧ b.qsize sail i j ≠ 0 ∧ idx ≠ q.tail ∧ (b.mst sail).runs.any (fun r => r.q = 2 * i + j && r.err ≠ 0) = false) → exec (.copyCmd sail i j) s = .next (s.withBlk (b)))
    ∧ (∀ (s : State) (sail i j : Nat), let b := s.start; let q : MstQ := b.mq sail i j; let idx : Nat := (q.head + q.started) % 65536; let p : Nat := b.get MST_BCFG_PART sail i; let a : Nat := b.mstEntry sail i j; let r : Bytes × Nat := (b.mstRead sail p a 64).1; let c : Block := (b.mstRead sail p a 64).2; let ws : List Nat := (List.range 8).map (fun w => leAt (8 * w) 8 r.1); b.dev ≠ .off → (b.mstLive sail = true ∧ i < 16 ∧ j < 2 ∧ b.isSet MST_BCFG_EN sail i = true ∧ q.stopped = false ∧ b.qsize sail i j ≠ 0 ∧ idx ≠ q.tail ∧ (b.mst sail).runs.any (fun r => r.q = 2 * i + j && r.err ≠ 0) = false) → b.rangeAllowed sail i (a, 64, false) = false → q.started = 0 → exec (.copyCmd sail i j) s = .next (s.withBlk (b.mstQErr sail i j 11 true)))
    ∧ (∀ (s : State) (sail i j : Nat), let b := s.start; let q : MstQ := b.mq sail i j; let idx : Nat := (q.head + q.started) % 65536; let p : Nat := b.get MST_BCFG_PART sail i; let a : Nat := b.mstEntry sail i j; let r : Bytes × Nat := (b.mstRead sail p a 64).1; let c : Block := (b.mstRead sail p a 64).2; let ws : List Nat := (List.range 8).map (fun w => leAt (8 * w) 8 r.1); b.dev ≠ .off → (b.mstLive sail = true ∧ i < 16 ∧ j < 2 ∧ b.isSet MST_BCFG_EN sail i = true ∧ q.stopped = false ∧ b.qsize sail i j ≠ 0 ∧ idx ≠ q.tail ∧ (b.mst sail).runs.any (fun r => r.q = 2 * i + j && r.err ≠ 0) = false) → b.rangeAllowed sail i (a, 64, false) = true → r.2 ≠ 0 → q.started = 0 → exec (.copyCmd sail i j) s = .next (s.withBlk (c.mstQErr sail i j 11 true)))
    ∧ (∀ (s : State) (sail i j : Nat), let b := s.start; let q : MstQ := b.mq sail i j; let idx : Nat := (q.head + q.started) % 65536; let p : Nat := b.get MST_BCFG_PART sail i; let a : Nat := b.mstEntry sail i j; let r : Bytes × Nat := (b.mstRead sail p a 64).1; let c : Block := (b.mstRead sail p a 64).2; let ws : List Nat := (List.range 8).map (fun w => leAt (8 * w) 8 r.1); (b.mstLive sail = true ∧ i < 16 ∧ j < 2 ∧ b.isSet MST_BCFG_EN sail i = true ∧ q.stopped = false ∧ b.qsize sail i j ≠ 0 ∧ idx ≠ q.tail ∧ (b.mst sail).runs.any (fun r => r.q = 2 * i + j && r.err ≠ 0) = false) → ((b.rangeAllowed sail i (a, 64, false) = true ∧ r.2 = 0 ∧ ¬ (mstOp ws = 3 ∨ 4 < mstOp ws)) ∨ (q.started ≠ 0 ∧ (b.rangeAllowed sail i (a, 64, false) = false ∨ r.2 ≠ 0 ∨ ((mstOp ws = 3 ∨ 4 < mstOp ws) ∧ (c.mstCheck sail i ws ≠ 0 ∨ mstOp ws = 4 ∨ bit (wd ws 0) 8 = false))))) → exec (.copyCmd sail i j) s = .next (s.withBlk (b)))
    ∧ (∀ (s : State) (sail i j : Nat), let b := s.start; let q : MstQ := b.mq sail i j; let idx : Nat := (q.head + q.started) % 65536; let p : Nat := b.get MST_BCFG_PART sail i; let a : Nat := b.mstEntry sail i j; let r : Bytes × Nat := (b.mstRead sail p a 64).1; let c : Block := (b.mstRead sail p a 64).2; let ws : List Nat := (List.range 8).map (fun w => leAt (8 * w) 8 r.1); b.dev ≠ .off → (b.mstLive sail = true ∧ i < 16 ∧ j < 2 ∧ b.isSet MST_BCFG_EN sail i = true ∧ q.stopped = false ∧ b.qsize sail i j ≠ 0 ∧ idx ≠ q.tail ∧ (b.mst sail).runs.any (fun r => r.q = 2 * i + j && r.err ≠ 0) = false) → b.rangeAllowed sail i (a, 64, false) = true → r.2 = 0 → (mstOp ws = 3 ∨ 4 < mstOp ws) → c.mstCheck sail i ws ≠ 0 → q.started = 0 → exec (.copyCmd sail i j) s = .next (s.withBlk (c.mstFail sail i j idx (c.mstCheck sail i ws))))
    ∧ (∀ (s : State) (sail i j : Nat), let b := s.start; let q : MstQ := b.mq sail i j; let idx : Nat := (q.head + q.started) % 65536; let p : Nat := b.get MST_BCFG_PART sail i; let a : Nat := b.mstEntry sail i j; let r : Bytes × Nat := (b.mstRead sail p a 64).1; let c : Block := (b.mstRead sail p a 64).2; let ws : List Nat := (List.range 8).map (fun w => leAt (8 * w) 8 r.1); let pc : Nat := c.get MST_BCFG_PART sail ((2 * i + j) / 2); let d : Block := (c.beginRun sail (2 * i + j) idx ws 0).charge sail pc (220 * (bits (wd ws 4) 0 23 * bits (wd ws 4) 24 39)); let e : Nat := (d.copyRows sail pc ws (bits (wd ws 4) 24 39) 0).1; let f : Block := (d.copyRows sail pc ws (bits (wd ws 4) 24 39) 0).2; b.dev ≠ .off → (b.mstLive sail = true ∧ i < 16 ∧ j < 2 ∧ b.isSet MST_BCFG_EN sail i = true ∧ q.stopped = false ∧ b.qsize sail i j ≠ 0 ∧ idx ≠ q.tail ∧ (b.mst sail).runs.any (fun r => r.q = 2 * i + j && r.err ≠ 0) = false) → b.rangeAllowed sail i (a, 64, false) = true → r.2 = 0 → mstOp ws = 3 → c.mstCheck sail i ws = 0 → (q.started = 0 ∨ bit (wd ws 0) 8 = true) → e = 0 → exec (.copyCmd sail i j) s = .next (s.withBlk (f)))
    ∧ (∀ (s : State) (sail i j : Nat), let b := s.start; let q : MstQ := b.mq sail i j; let idx : Nat := (q.head + q.started) % 65536; let p : Nat := b.get MST_BCFG_PART sail i; let a : Nat := b.mstEntry sail i j; let r : Bytes × Nat := (b.mstRead sail p a 64).1; let c : Block := (b.mstRead sail p a 64).2; let ws : List Nat := (List.range 8).map (fun w => leAt (8 * w) 8 r.1); let pc : Nat := c.get MST_BCFG_PART sail ((2 * i + j) / 2); let d : Block := (c.beginRun sail (2 * i + j) idx ws 0).charge sail pc (220 * (bits (wd ws 4) 0 23 * bits (wd ws 4) 24 39)); let e : Nat := (d.copyRows sail pc ws (bits (wd ws 4) 24 39) 0).1; let f : Block := (d.copyRows sail pc ws (bits (wd ws 4) 24 39) 0).2; b.dev ≠ .off → (b.mstLive sail = true ∧ i < 16 ∧ j < 2 ∧ b.isSet MST_BCFG_EN sail i = true ∧ q.stopped = false ∧ b.qsize sail i j ≠ 0 ∧ idx ≠ q.tail ∧ (b.mst sail).runs.any (fun r => r.q = 2 * i + j && r.err ≠ 0) = false) → b.rangeAllowed sail i (a, 64, false) = true → r.2 = 0 → mstOp ws = 3 → c.mstCheck sail i ws = 0 → (q.started = 0 ∨ bit (wd ws 0) 8 = true) → e ≠ 0 → exec (.copyCmd sail i j) s = .next (s.withBlk ((f.modRun sail (2 * i + j) idx (fun r => { r with err := e })).failHead sail (2 * i + j))))
    ∧ (∀ (s : State) (sail i j : Nat), let b := s.start; let q : MstQ := b.mq sail i j; let idx : Nat := (q.head + q.started) % 65536; ¬ (b.mstLive sail = true ∧ i < 16 ∧ j < 2 ∧ b.isSet MST_BCFG_EN sail i = true ∧ q.stopped = false ∧ b.qsize sail i j ≠ 0 ∧ idx ≠ q.tail ∧ (b.mst sail).runs.any (fun r => r.q = 2 * i + j && r.err ≠ 0) = false) → exec (.signalCmd sail i j) s = .next (s.withBlk (b)))
    ∧ (∀ (s : State) (sail i j : Nat), let b := s.start; let q : MstQ := b.mq sail i j; let idx : Nat := (q.head + q.started) % 65536; let p : Nat := b.get MST_BCFG_PART sail i; let a : Nat := b.mstEntry sail i j; let r : Bytes × Nat := (b.mstRead sail p a 64).1; let c : Block := (b.mstRead sail p a 64).2; let ws : List Nat := (List.range 8).map (fun w => leAt (8 * w) 8 r.1); b.dev ≠ .off → (b.mstLive sail = true ∧ i < 16 ∧ j < 2 ∧ b.isSet MST_BCFG_EN sail i = true ∧ q.stopped = false ∧ b.qsize sail i j ≠ 0 ∧ idx ≠ q.tail ∧ (b.mst sail).runs.any (fun r => r.q = 2 * i + j && r.err ≠ 0) = false) → b.rangeAllowed sail i (a, 64, false) = false → q.started = 0 → exec (.signalCmd sail i j) s = .next (s.withBlk (b.mstQErr sail i j 11 true)))
    ∧ (∀ (s : State) (sail i j : Nat), let b := s.start; let q : MstQ := b.mq sail i j; let idx : Nat := (q.head + q.started) % 65536; let p : Nat := b.get MST_BCFG_PART sail i; let a : Nat := b.mstEntry sail i j; let r : Bytes × Nat := (b.mstRead sail p a 64).1; let c : Block := (b.mstRead sail p a 64).2; let ws : List Nat := (List.range 8).map (fun w => leAt (8 * w) 8 r.1); b.dev ≠ .off → (b.mstLive sail = true ∧ i < 16 ∧ j < 2 ∧ b.isSet MST_BCFG_EN sail i = true ∧ q.stopped = false ∧ b.qsize sail i j ≠ 0 ∧ idx ≠ q.tail ∧ (b.mst sail).runs.any (fun r => r.q = 2 * i + j && r.err ≠ 0) = false) → b.rangeAllowed sail i (a, 64, false) = true → r.2 ≠ 0 → q.started = 0 → exec (.signalCmd sail i j) s = .next (s.withBlk (c.mstQErr sail i j 11 true)))
    ∧ (∀ (s : State) (sail i j : Nat), let b := s.start; let q : MstQ := b.mq sail i j; let idx : Nat := (q.head + q.started) % 65536; let p : Nat := b.get MST_BCFG_PART sail i; let a : Nat := b.mstEntry sail i j; let r : Bytes × Nat := (b.mstRead sail p a 64).1; let c : Block := (b.mstRead sail p a 64).2; let ws : List Nat := (List.range 8).map (fun w => leAt (8 * w) 8 r.1); (b.mstLive sail = true ∧ i < 16 ∧ j < 2 ∧ b.isSet MST_BCFG_EN sail i = true ∧ q.stopped = false ∧ b.qsize sail i j ≠ 0 ∧ idx ≠ q.tail ∧ (b.mst sail).runs.any (fun r => r.q = 2 * i + j && r.err ≠ 0) = false) → ((b.rangeAllowed sail i (a, 64, false) = true ∧ r.2 = 0 ∧ ¬ (mstOp ws = 4 ∨ 4 < mstOp ws)) ∨ (q.started ≠ 0 ∧ (b.rangeAllowed sail i (a, 64, false) = false ∨ r.2 ≠ 0 ∨ ((mstOp ws = 4 ∨ 4 < mstOp ws) ∧ (c.mstCheck sail i ws ≠ 0 ∨ mstOp ws = 4 ∨ bit (wd ws 0) 8 = false))))) → exec (.signalCmd sail i j) s = .next (s.withBlk (b)))
    ∧ (∀ (s : State) (sail i j : Nat), let b := s.start; let q : MstQ := b.mq sail i j; let idx : Nat := (q.head + q.started) % 65536; let p : Nat := b.get MST_BCFG_PART sail i; let a : Nat := b.mstEntry sail i j; let r : Bytes × Nat := (b.mstRead sail p a 64).1; let c : Block := (b.mstRead sail p a 64).2; let ws : List Nat := (List.range 8).map (fun w => leAt (8 * w) 8 r.1); b.dev ≠ .off → (b.mstLive sail = true ∧ i < 16 ∧ j < 2 ∧ b.isSet MST_BCFG_EN sail i = true ∧ q.stopped = false ∧ b.qsize sail i j ≠ 0 ∧ idx ≠ q.tail ∧ (b.mst sail).runs.any (fun r => r.q = 2 * i + j && r.err ≠ 0) = false) → b.rangeAllowed sail i (a, 64, false) = true → r.2 = 0 → (mstOp ws = 4 ∨ 4 < mstOp ws) → c.mstCheck sail i ws ≠ 0 → q.started = 0 → exec (.signalCmd sail i j) s = .next (s.withBlk (c.mstFail sail i j idx (c.mstCheck sail i ws))))
    ∧ (∀ (s : State) (sail i j : Nat), let b := s.start; let q : MstQ := b.mq sail i j; let idx : Nat := (q.head + q.started) % 65536; let p : Nat := b.get MST_BCFG_PART sail i; let a : Nat := b.mstEntry sail i j; let r : Bytes × Nat := (b.mstRead sail p a 64).1; let c : Block := (b.mstRead sail p a 64).2; let ws : List Nat := (List.range 8).map (fun w => leAt (8 * w) 8 r.1); let pc : Nat := c.get MST_BCFG_PART sail ((2 * i + j) / 2); let d : Block := (c.beginRun sail (2 * i + j) idx ws 0).mstWrite sail pc (bits (wd ws 1) 0 47) (leBytes 8 (wd ws 2)) false; b.dev ≠ .off → (b.mstLive sail = true ∧ i < 16 ∧ j < 2 ∧ b.isSet MST_BCFG_EN sail i = true ∧ q.stopped = false ∧ b.qsize sail i j ≠ 0 ∧ idx ≠ q.tail ∧ (b.mst sail).runs.any (fun r => r.q = 2 * i + j && r.err ≠ 0) = false) → b.rangeAllowed sail i (a, 64, false) = true → r.2 = 0 → mstOp ws = 4 → c.mstCheck sail i ws = 0 → q.started = 0 → bits (wd ws 3) 0 47 = 0 → exec (.signalCmd sail i j) s = .next (s.withBlk (d)))
    ∧ (∀ (s : State) (sail i j : Nat), let b := s.start; let q : MstQ := b.mq sail i j; let idx : Nat := (q.head + q.started) % 65536; let p : Nat := b.get MST_BCFG_PART sail i; let a : Nat := b.mstEntry sail i j; let r : Bytes × Nat := (b.mstRead sail p a 64).1; let c : Block := (b.mstRead sail p a 64).2; let ws : List Nat := (List.range 8).map (fun w => leAt (8 * w) 8 r.1); let pc : Nat := c.get MST_BCFG_PART sail ((2 * i + j) / 2); let d : Block := (c.beginRun sail (2 * i + j) idx ws 0).mstWrite sail pc (bits (wd ws 1) 0 47) (leBytes 8 (wd ws 2)) false; b.dev ≠ .off → (b.mstLive sail = true ∧ i < 16 ∧ j < 2 ∧ b.isSet MST_BCFG_EN sail i = true ∧ q.stopped = false ∧ b.qsize sail i j ≠ 0 ∧ idx ≠ q.tail ∧ (b.mst sail).runs.any (fun r => r.q = 2 * i + j && r.err ≠ 0) = false) → b.rangeAllowed sail i (a, 64, false) = true → r.2 = 0 → mstOp ws = 4 → c.mstCheck sail i ws = 0 → q.started = 0 → bits (wd ws 3) 0 47 ≠ 0 → exec (.signalCmd sail i j) s = .next (s.withBlk (d.sendMsi (midMst sail) (bits (wd ws 3) 0 47) (bits (wd ws 4) 0 10))))
    ∧ (∀ (s : State) (sail tile : Nat) (mis1 mis2 corrected : Bool) (bad : List Nat), let b := s.start; (b.mstLive sail = false ∨ 4 ≤ tile) → exec (.tileBlockBoundary sail tile mis1 mis2 corrected bad) s = .next (s.withBlk (b)))
    ∧ (∀ (s : State) (sail tile : Nat) (mis1 mis2 corrected : Bool) (bad : List Nat) (t : Nat × Nat × Nat × Nat), let b := s.start; let c : Block := { b with scr := { b.scr with bad := bad.foldl (fun m l => SMap.set false (sail * 0x20000 + l % 0x20000) true m) b.scr.bad } }; let d : Block := c.when corrected (fun b => b.noteOnce sail { code := 0x1302, mid := some (midMst sail) }); b.dev ≠ .off → b.mstLive sail = true → tile < 4 → (d.mst sail).tiles.find? (fun t => t.1 = tile) = some t → exec (.tileBlockBoundary sail tile mis1 mis2 corrected bad) s = .next (s.withBlk (((d.tileDone sail tile t.2.1 t.2.2.1 t.2.2.2 mis1 mis2).modMst sail (fun m => { m with bnd := (m.bnd + 1) % 4 })).chooseWork sail tile)))
    ∧ (∀ (s : State) (sail tile : Nat) (mis1 mis2 corrected : Bool) (bad : List Nat) (x : Nat × Nat × Nat), let b := s.start; let c : Block := { b with scr := { b.scr with bad := bad.foldl (fun m l => SMap.set false (sail * 0x20000 + l % 0x20000) true m) b.scr.bad } }; let d : Block := c.when corrected (fun b => b.noteOnce sail { code := 0x1302, mid := some (midMst sail) }); b.dev ≠ .off → b.mstLive sail = true → tile < 4 → (d.mst sail).tiles.find? (fun t => t.1 = tile) = none → List.lookup tile (d.mst sail).spent = some x → exec (.tileBlockBoundary sail tile mis1 mis2 corrected bad) s = .next (s.withBlk (((d.spentDone sail tile x.1 x.2.1 x.2.2 mis1 mis2).modMst sail (fun m => { m with bnd := (m.bnd + 1) % 4 })).chooseWork sail tile)))
    ∧ (∀ (s : State) (sail tile : Nat) (mis1 mis2 corrected : Bool) (bad : List Nat), let b := s.start; let c : Block := { b with scr := { b.scr with bad := bad.foldl (fun m l => SMap.set false (sail * 0x20000 + l % 0x20000) true m) b.scr.bad } }; let d : Block := c.when corrected (fun b => b.noteOnce sail { code := 0x1302, mid := some (midMst sail) }); b.dev ≠ .off → b.mstLive sail = true → tile < 4 → (d.mst sail).tiles.find? (fun t => t.1 = tile) = none → List.lookup tile (d.mst sail).spent = none → exec (.tileBlockBoundary sail tile mis1 mis2 corrected bad) s = .next (s.withBlk ((d.modMst sail (fun m => { m with bnd := (m.bnd + 1) % 4 })).chooseWork sail tile)))
    ∧ (∀ (s : State) (sail bind queue : Nat), let b := s.start; let k : Nat := 2 * bind + queue; let hd : Nat := (b.mq sail bind queue).head; (2 ≤ queue ∨ b.mstRun sail k hd = none) → exec (.millstoneCommandComplete sail bind queue) s = .next (s.withBlk (b)))
    ∧ (∀ (s : State) (sail bind queue : Nat) (r : MstRun), let b := s.start; let k : Nat := 2 * bind + queue; let hd : Nat := (b.mq sail bind queue).head; b.mstRun sail k hd = some r → (r.err ≠ 0 ∨ r.fin < r.blocks) → exec (.millstoneCommandComplete sail bind queue) s = .next (s.withBlk (b)))
    ∧ (∀ (s : State) (sail bind queue : Nat) (r : MstRun), let b := s.start; let k : Nat := 2 * bind + queue; let hd : Nat := (b.mq sail bind queue).head; b.dev ≠ .off → queue < 2 → b.mstRun sail k hd = some r → r.err = 0 → r.blocks ≤ r.fin → exec (.millstoneCommandComplete sail bind queue) s = .next (s.withBlk (((((b.modMst sail (fun m => { m with done := satInc 64 m.done, runs := m.runs.filter fun t => !(decide (t.q = k) && decide (t.idx = hd)) })).modMq sail bind queue (fun t => { t with head := (t.head + 1) % 65536, started := t.started - 1 })).mstBusy sail).pmu sail 0x0E (some (b.get MST_BCFG_PART sail bind)) 1).failHead sail k)))
    ∧ (∀ (s : State) (part : Option Nat) (sail j : Nat), let b := s.start; b.dev ≠ .off → (b.mstReach sail part = none ∨ 2 ≤ j) → exec (.resumeQueue part sail j) s = .next (s.withBlk (b.emit .accessError)))
    ∧ (∀ (s : State) (part : Option Nat) (sail j : Nat) (i : Nat), let b := s.start; b.mstReach sail part = some i → j < 2 → (b.mq sail i j).stopped = false → exec (.resumeQueue part sail j) s = .next (s.withBlk (b)))
    ∧ (∀ (s : State) (part : Option Nat) (sail j : Nat) (i : Nat), let b := s.start; b.dev ≠ .off → b.mstReach sail part = some i → j < 2 → (b.mq sail i j).stopped = true → exec (.resumeQueue part sail j) s = .next (s.withBlk (b.modMq sail i j fun t => { t with stopped := false, head := t.head })))
    ∧ (∀ (s : State) (part : Option Nat) (sail j : Nat), let b := s.start; b.dev ≠ .off → (b.mstReach sail part = none ∨ 2 ≤ j) → exec (.skipCmd part sail j) s = .next (s.withBlk (b.emit .accessError)))
    ∧ (∀ (s : State) (part : Option Nat) (sail j : Nat) (i : Nat), let b := s.start; b.mstReach sail part = some i → j < 2 → (b.mq sail i j).stopped = false → exec (.skipCmd part sail j) s = .next (s.withBlk (b)))
    ∧ (∀ (s : State) (part : Option Nat) (sail j : Nat) (i : Nat), let b := s.start; b.dev ≠ .off → b.mstReach sail part = some i → j < 2 → (b.mq sail i j).stopped = true → exec (.skipCmd part sail j) s = .next (s.withBlk (b.modMq sail i j fun t => { t with stopped := false, head := if t.head ≠ t.tail then (t.head + 1) % 65536 else t.head })))

/-- A message that arrived before its command did nothing more; messages ahead of it on its way take effect first. A message of a sail that is not ACTIVE does nothing. A caching request (RdShared, RdUnique, Upgrade, DirtyNote, WbDirty, EvictClean) of another agent than an L3, with a way above 15, or with a transaction ID that its home has open is a protocol error; so is a RdOnce, WrFull or WrPart with such a transaction ID. Every other request is recorded at its requester, or its record no longer backs off, and an entry time that the flume port kept for it is used up: to an address that does not exist it gets 0x2503, to a private region whose home does not accept the master 0x2402, each with an error completion that ends it; any other joins the queue of its slice with its attempt count and its entry time, and the homes start what can start. Write data that its home awaits, open or waiting, joins its transaction, and a sail's is counted as event 0x0C; data that no write awaits is a protocol error. -/
def Obligations.CoherenceRequests : Prop :=
  (∀ (s : State) (mid part txid addr way : Nat) (tc3 : Bool), let b := s.start; let q : Block := (b.arrives (.rdShared mid part txid addr way tc3)).2; b.dev ≠ .off → (b.arrives (.rdShared mid part txid addr way tc3)).1 = false → exec (.rdShared mid part txid addr way tc3) s = .next (s.withBlk (q)))
    ∧ (∀ (s : State) (mid part txid addr way : Nat) (tc3 : Bool), let b := s.start; let q : Block := (b.arrives (.rdShared mid part txid addr way tc3)).2; b.dev ≠ .off → (b.arrives (.rdShared mid part txid addr way tc3)).1 = true → q.speaks mid = false → exec (.rdShared mid part txid addr way tc3) s = .next (s.withBlk (q)))
    ∧ (∀ (s : State) (mid part txid addr way : Nat) (tc3 : Bool), let b := s.start; let q : Block := (b.arrives (.rdShared mid part txid addr way tc3)).2; b.dev ≠ .off → (b.arrives (.rdShared mid part txid addr way tc3)).1 = true → q.speaks mid = true → (mid % 32 ≠ 17 ∨ sailOf mid = none ∨ 15 < way ∨ q.txidBusy mid txid addr = true) → exec (.rdShared mid part txid addr way tc3) s = .next (s.withBlk (q.protoError mid)))
    ∧ (∀ (s : State) (mid part txid addr way : Nat) (tc3 : Bool), let b := s.start; let q : Block := (b.arrives (.rdShared mid part txid addr way tc3)).2; let c : Block := if (q.reqOf mid txid).isNone then q.modCoh (fun c => { c with reqs := c.reqs ++ [{ mid := mid, part := part, txid := txid, kind := .rdShared, line := addr / 64, way := way, tc3 := tc3 }] }) else q.modReq mid txid (fun r => { r with backoff := false, tc3 := tc3 }); let att : Nat := ((c.reqOf mid txid).map (·.attempt)).getD 0; let seen : Option (Nat × Nat × Nat) := c.coh.entered.find? (fun e => e.1 = mid && e.2.1 = addr / 64); let d : Block := c.modCoh (fun c => { c with entered := match seen with | some e => listErase e c.entered | none => c.entered }); b.dev ≠ .off → (b.arrives (.rdShared mid part txid addr way tc3)).1 = true → q.speaks mid = true → ¬ (mid % 32 ≠ 17 ∨ sailOf mid = none ∨ 15 < way ∨ q.txidBusy mid txid addr = true) → d.dramOk (addr / 64 * 64) = false → exec (.rdShared mid part txid addr way tc3) s = .next (s.withBlk (((d.note { code := 0x2503, mid := some mid, addr := some (addr / 64 * 64) }).emit (.errComp mid part txid (addr / 64 * 64))).dropReq mid txid)))
    ∧ (∀ (s : State) (mid part txid addr way : Nat) (tc3 : Bool) (own : Nat), let b := s.start; let q : Block := (b.arrives (.rdShared mid part txid addr way tc3)).2; let c : Block := if (q.reqOf mid txid).isNone then q.modCoh (fun c => { c with reqs := c.reqs ++ [{ mid := mid, part := part, txid := txid, kind := .rdShared, line := addr / 64, way := way, tc3 := tc3 }] }) else q.modReq mid txid (fun r => { r with backoff := false, tc3 := tc3 }); let att : Nat := ((c.reqOf mid txid).map (·.attempt)).getD 0; let seen : Option (Nat × Nat × Nat) := c.coh.entered.find? (fun e => e.1 = mid && e.2.1 = addr / 64); let d : Block := c.modCoh (fun c => { c with entered := match seen with | some e => listErase e c.entered | none => c.entered }); b.dev ≠ .off → (b.arrives (.rdShared mid part txid addr way tc3)).1 = true → q.speaks mid = true → ¬ (mid % 32 ≠ 17 ∨ sailOf mid = none ∨ 15 < way ∨ q.txidBusy mid txid addr = true) → d.dramOk (addr / 64 * 64) = true → d.privOwner (addr / 64 * 64) = some own → privAllowed own mid .rdShared = false → exec (.rdShared mid part txid addr way tc3) s = .next (s.withBlk (((d.note { code := 0x2402, mid := some mid, addr := some (addr / 64 * 64) }).emit (.errComp mid part txid (addr / 64 * 64))).dropReq mid txid)))
    ∧ (∀ (s : State) (mid part txid addr way : Nat) (tc3 : Bool), let b := s.start; let q : Block := (b.arrives (.rdShared mid part txid addr way tc3)).2; let c : Block := if (q.reqOf mid txid).isNone then q.modCoh (fun c => { c with reqs := c.reqs ++ [{ mid := mid, part := part, txid := txid, kind := .rdShared, line := addr / 64, way := way, tc3 := tc3 }] }) else q.modReq mid txid (fun r => { r with backoff := false, tc3 := tc3 }); let att : Nat := ((c.reqOf mid txid).map (·.attempt)).getD 0; let seen : Option (Nat × Nat × Nat) := c.coh.entered.find? (fun e => e.1 = mid && e.2.1 = addr / 64); let d : Block := c.modCoh (fun c => { c with entered := match seen with | some e => listErase e c.entered | none => c.entered }); b.dev ≠ .off → (b.arrives (.rdShared mid part txid addr way tc3)).1 = true → q.speaks mid = true → ¬ (mid % 32 ≠ 17 ∨ sailOf mid = none ∨ 15 < way ∨ q.txidBusy mid txid addr = true) → d.dramOk (addr / 64 * 64) = true → (match d.privOwner (addr / 64 * 64) with | some own => privAllowed own mid .rdShared | none => true) = true → exec (.rdShared mid part txid addr way tc3) s = .next (s.withBlk ((d.modCoh (fun c => { c with waiting := c.waiting ++ [{ mid := mid, part := part, txid := txid, kind := .rdShared, line := addr / 64, way := way, tc3 := tc3, attempt := att, retried := 0 < att, enterNs := match seen with | some e => e.2.2 | none => d.timeNs, priv := (d.privOwner (addr / 64 * 64)).isSome }] })).settle)))
    ∧ (∀ (s : State) (mid part txid addr way : Nat) (tc3 : Bool), let b := s.start; let q : Block := (b.arrives (.rdUnique mid part txid addr way tc3)).2; b.dev ≠ .off → (b.arrives (.rdUnique mid part txid addr way tc3)).1 = false → exec (.rdUnique mid part txid addr way tc3) s = .next (s.withBlk (q)))
    ∧ (∀ (s : State) (mid part txid addr way : Nat) (tc3 : Bool), let b := s.start; let q : Block := (b.arrives (.rdUnique mid part txid addr way tc3)).2; b.dev ≠ .off → (b.arrives (.rdUnique mid part txid addr way tc3)).1 = true → q.speaks mid = false → exec (.rdUnique mid part txid addr way tc3) s = .next (s.withBlk (q)))
    ∧ (∀ (s : State) (mid part txid addr way : Nat) (tc3 : Bool), let b := s.start; let q : Block := (b.arrives (.rdUnique mid part txid addr way tc3)).2; b.dev ≠ .off → (b.arrives (.rdUnique mid part txid addr way tc3)).1 = true → q.speaks mid = true → (mid % 32 ≠ 17 ∨ sailOf mid = none ∨ 15 < way ∨ q.txidBusy mid txid addr = true) → exec (.rdUnique mid part txid addr way tc3) s = .next (s.withBlk (q.protoError mid)))
    ∧ (∀ (s : State) (mid part txid addr way : Nat) (tc3 : Bool), let b := s.start; let q : Block := (b.arrives (.rdUnique mid part txid addr way tc3)).2; let c : Block := if (q.reqOf mid txid).isNone then q.modCoh (fun c => { c with reqs := c.reqs ++ [{ mid := mid, part := part, txid := txid, kind := .rdUnique, line := addr / 64, way := way, tc3 := tc3 }] }) else q.modReq mid txid (fun r => { r with backoff := false, tc3 := tc3 }); let att : Nat := ((c.reqOf mid txid).map (·.attempt)).getD 0; let seen : Option (Nat × Nat × Nat) := c.coh.entered.find? (fun e => e.1 = mid && e.2.1 = addr / 64); let d : Block := c.modCoh (fun c => { c with entered := match seen with | some e => listErase e c.entered | none => c.entered }); b.dev ≠ .off → (b.arrives (.rdUnique mid part txid addr way tc3)).1 = true → q.speaks mid = true → ¬ (mid % 32 ≠ 17 ∨ sailOf mid = none ∨ 15 < way ∨ q.txidBusy mid txid addr = true) → d.dramOk (addr / 64 * 64) = false → exec (.rdUnique mid part txid addr way tc3) s = .next (s.withBlk (((d.note { code := 0x2503, mid := some mid, addr := some (addr / 64 * 64) }).emit (.errComp mid part txid (addr / 64 * 64))).dropReq mid txid)))
    ∧ (∀ (s : State) (mid part txid addr way : Nat) (tc3 : Bool) (own : Nat), let b := s.start; let q : Block := (b.arrives (.rdUnique mid part txid addr way tc3)).2; let c : Block := if (q.reqOf mid txid).isNone then q.modCoh (fun c => { c with reqs := c.reqs ++ [{ mid := mid, part := part, txid := txid, kind := .rdUnique, line := addr / 64, way := way, tc3 := tc3 }] }) else q.modReq mid txid (fun r => { r with backoff := false, tc3 := tc3 }); let att : Nat := ((c.reqOf mid txid).map (·.attempt)).getD 0; let seen : Option (Nat × Nat × Nat) := c.coh.entered.find? (fun e => e.1 = mid && e.2.1 = addr / 64); let d : Block := c.modCoh (fun c => { c with entered := match seen with | some e => listErase e c.entered | none => c.entered }); b.dev ≠ .off → (b.arrives (.rdUnique mid part txid addr way tc3)).1 = true → q.speaks mid = true → ¬ (mid % 32 ≠ 17 ∨ sailOf mid = none ∨ 15 < way ∨ q.txidBusy mid txid addr = true) → d.dramOk (addr / 64 * 64) = true → d.privOwner (addr / 64 * 64) = some own → privAllowed own mid .rdUnique = false → exec (.rdUnique mid part txid addr way tc3) s = .next (s.withBlk (((d.note { code := 0x2402, mid := some mid, addr := some (addr / 64 * 64) }).emit (.errComp mid part txid (addr / 64 * 64))).dropReq mid txid)))
    ∧ (∀ (s : State) (mid part txid addr way : Nat) (tc3 : Bool), let b := s.start; let q : Block := (b.arrives (.rdUnique mid part txid addr way tc3)).2; let c : Block := if (q.reqOf mid txid).isNone then q.modCoh (fun c => { c with reqs := c.reqs ++ [{ mid := mid, part := part, txid := txid, kind := .rdUnique, line := addr / 64, way := way, tc3 := tc3 }] }) else q.modReq mid txid (fun r => { r with backoff := false, tc3 := tc3 }); let att : Nat := ((c.reqOf mid txid).map (·.attempt)).getD 0; let seen : Option (Nat × Nat × Nat) := c.coh.entered.find? (fun e => e.1 = mid && e.2.1 = addr / 64); let d : Block := c.modCoh (fun c => { c with entered := match seen with | some e => listErase e c.entered | none => c.entered }); b.dev ≠ .off → (b.arrives (.rdUnique mid part txid addr way tc3)).1 = true → q.speaks mid = true → ¬ (mid % 32 ≠ 17 ∨ sailOf mid = none ∨ 15 < way ∨ q.txidBusy mid txid addr = true) → d.dramOk (addr / 64 * 64) = true → (match d.privOwner (addr / 64 * 64) with | some own => privAllowed own mid .rdUnique | none => true) = true → exec (.rdUnique mid part txid addr way tc3) s = .next (s.withBlk ((d.modCoh (fun c => { c with waiting := c.waiting ++ [{ mid := mid, part := part, txid := txid, kind := .rdUnique, line := addr / 64, way := way, tc3 := tc3, attempt := att, retried := 0 < att, enterNs := match seen with | some e => e.2.2 | none => d.timeNs, priv := (d.privOwner (addr / 64 * 64)).isSome }] })).settle)))
    ∧ (∀ (s : State) (mid part txid addr : Nat), let b := s.start; let q : Block := (b.arrives (.upgradeReq mid part txid addr)).2; b.dev ≠ .off → (b.arrives (.upgradeReq mid part txid addr)).1 = false → exec (.upgradeReq mid part txid addr) s = .next (s.withBlk (q)))
    ∧ (∀ (s : State) (mid part txid addr : Nat), let b := s.start; let q : Block := (b.arrives (.upgradeReq mid part txid addr)).2; let w : Nat := match q.reqOf mid txid, sailOf mid with | some r, _ => r.way | none, some n => q.filtWay (addr / 64) n | none, none => 0; b.dev ≠ .off → (b.arrives (.upgradeReq mid part txid addr)).1 = true → q.speaks mid = false → exec (.upgradeReq mid part txid addr) s = .next (s.withBlk (q)))
    ∧ (∀ (s : State) (mid part txid addr : Nat), let b := s.start; let q : Block := (b.arrives (.upgradeReq mid part txid addr)).2; let w : Nat := match q.reqOf mid txid, sailOf mid with | some r, _ => r.way | none, some n => q.filtWay (addr / 64) n | none, none => 0; b.dev ≠ .off → (b.arrives (.upgradeReq mid part txid addr)).1 = true → q.speaks mid = true → (mid % 32 ≠ 17 ∨ sailOf mid = none ∨ 15 < w ∨ q.txidBusy mid txid addr = true) → exec (.upgradeReq mid part txid addr) s = .next (s.withBlk (q.protoError mid)))
    ∧ (∀ (s : State) (mid part txid addr : Nat), let b := s.start; let q : Block := (b.arrives (.upgradeReq mid part txid addr)).2; let w : Nat := match q.reqOf mid txid, sailOf mid with | some r, _ => r.way | none, some n => q.filtWay (addr / 64) n | none, none => 0; let c : Block := if (q.reqOf mid txid).isNone then q.modCoh (fun c => { c with reqs := c.reqs ++ [{ mid := mid, part := part, txid := txid, kind := .upgrade, line := addr / 64, way := w, tc3 := false }] }) else q.modReq mid txid (fun r => { r with backoff := false, tc3 := false }); let att : Nat := ((c.reqOf mid txid).map (·.attempt)).getD 0; let seen : Option (Nat × Nat × Nat) := c.coh.entered.find? (fun e => e.1 = mid && e.2.1 = addr / 64); let d : Block := c.modCoh (fun c => { c with entered := match seen with | some e => listErase e c.entered | none => c.entered }); b.dev ≠ .off → (b.arrives (.upgradeReq mid part txid addr)).1 = true → q.speaks mid = true → ¬ (mid % 32 ≠ 17 ∨ sailOf mid = none ∨ 15 < w ∨ q.txidBusy mid txid addr = true) → d.dramOk (addr / 64 * 64) = false → exec (.upgradeReq mid part txid addr) s = .next (s.withBlk (((d.note { code := 0x2503, mid := some mid, addr := some (addr / 64 * 64) }).emit (.errComp mid part txid (addr / 64 * 64))).dropReq mid txid)))
    ∧ (∀ (s : State) (mid part txid addr : Nat) (own : Nat), let b := s.start; let q : Block := (b.arrives (.upgradeReq mid part txid addr)).2; let w : Nat := match q.reqOf mid txid, sailOf mid with | some r, _ => r.way | none, some n => q.filtWay (addr / 64) n | none, none => 0; let c : Block := if (q.reqOf mid txid).isNone then q.modCoh (fun c => { c with reqs := c.reqs ++ [{ mid := mid, part := part, txid := txid, kind := .upgrade, line := addr / 64, way := w, tc3 := false }] }) else q.modReq mid txid (fun r => { r with backoff := false, tc3 := false }); let att : Nat := ((c.reqOf mid txid).map (·.attempt)).getD 0; let seen : Option (Nat × Nat × Nat) := c.coh.entered.find? (fun e => e.1 = mid && e.2.1 = addr / 64); let d : Block := c.modCoh (fun c => { c with entered := match seen with | some e => listErase e c.entered | none => c.entered }); b.dev ≠ .off → (b.arrives (.upgradeReq mid part txid addr)).1 = true → q.speaks mid = true → ¬ (mid % 32 ≠ 17 ∨ sailOf mid = none ∨ 15 < w ∨ q.txidBusy mid txid addr = true) → d.dramOk (addr / 64 * 64) = true → d.privOwner (addr / 64 * 64) = some own → privAllowed own mid .upgrade = false → exec (.upgradeReq mid part txid addr) s = .next (s.withBlk (((d.note { code := 0x2402, mid := some mid, addr := some (addr / 64 * 64) }).emit (.errComp mid part txid (addr / 64 * 64))).dropReq mid txid)))
    ∧ (∀ (s : State) (mid part txid addr : Nat), let b := s.start; let q : Block := (b.arrives (.upgradeReq mid part txid addr)).2; let w : Nat := match q.reqOf mid txid, sailOf mid with | some r, _ => r.way | none, some n => q.filtWay (addr / 64) n | none, none => 0; let c : Block := if (q.reqOf mid txid).isNone then q.modCoh (fun c => { c with reqs := c.reqs ++ [{ mid := mid, part := part, txid := txid, kind := .upgrade, line := addr / 64, way := w, tc3 := false }] }) else q.modReq mid txid (fun r => { r with backoff := false, tc3 := false }); let att : Nat := ((c.reqOf mid txid).map (·.attempt)).getD 0; let seen : Option (Nat × Nat × Nat) := c.coh.entered.find? (fun e => e.1 = mid && e.2.1 = addr / 64); let d : Block := c.modCoh (fun c => { c with entered := match seen with | some e => listErase e c.entered | none => c.entered }); b.dev ≠ .off → (b.arrives (.upgradeReq mid part txid addr)).1 = true → q.speaks mid = true → ¬ (mid % 32 ≠ 17 ∨ sailOf mid = none ∨ 15 < w ∨ q.txidBusy mid txid addr = true) → d.dramOk (addr / 64 * 64) = true → (match d.privOwner (addr / 64 * 64) with | some own => privAllowed own mid .upgrade | none => true) = true → exec (.upgradeReq mid part txid addr) s = .next (s.withBlk ((d.modCoh (fun c => { c with waiting := c.waiting ++ [{ mid := mid, part := part, txid := txid, kind := .upgrade, line := addr / 64, way := w, tc3 := false, attempt := att, retried := 0 < att, enterNs := match seen with | some e => e.2.2 | none => d.timeNs, priv := (d.privOwner (addr / 64 * 64)).isSome }] })).settle)))
    ∧ (∀ (s : State) (mid part txid addr : Nat), let b := s.start; let q : Block := (b.arrives (.dirtyNote mid part txid addr)).2; b.dev ≠ .off → (b.arrives (.dirtyNote mid part txid addr)).1 = false → exec (.dirtyNote mid part txid addr) s = .next (s.withBlk (q)))
    ∧ (∀ (s : State) (mid part txid addr : Nat), let b := s.start; let q : Block := (b.arrives (.dirtyNote mid part txid addr)).2; b.dev ≠ .off → (b.arrives (.dirtyNote mid part txid addr)).1 = true → q.speaks mid = false → exec (.dirtyNote mid part txid addr) s = .next (s.withBlk (q)))
    ∧ (∀ (s : State) (mid part txid addr : Nat), let b := s.start; let q : Block := (b.arrives (.dirtyNote mid part txid addr)).2; b.dev ≠ .off → (b.arrives (.dirtyNote mid part txid addr)).1 = true → q.speaks mid = true → (mid % 32 ≠ 17 ∨ sailOf mid = none ∨ 15 < 0 ∨ q.txidBusy mid txid addr = true) → exec (.dirtyNote mid part txid addr) s = .next (s.withBlk (q.protoError mid)))
    ∧ (∀ (s : State) (mid part txid addr : Nat), let b := s.start; let q : Block := (b.arrives (.dirtyNote mid part txid addr)).2; let c : Block := if (q.reqOf mid txid).isNone then q.modCoh (fun c => { c with reqs := c.reqs ++ [{ mid := mid, part := part, txid := txid, kind := .dirtyNote, line := addr / 64, way := 0, tc3 := false }] }) else q.modReq mid txid (fun r => { r with backoff := false, tc3 := false }); let att : Nat := ((c.reqOf mid txid).map (·.attempt)).getD 0; let seen : Option (Nat × Nat × Nat) := c.coh.entered.find? (fun e => e.1 = mid && e.2.1 = addr / 64); let d : Block := c.modCoh (fun c => { c with entered := match seen with | some e => listErase e c.entered | none => c.entered }); b.dev ≠ .off → (b.arrives (.dirtyNote mid part txid addr)).1 = true → q.speaks mid = true → ¬ (mid % 32 ≠ 17 ∨ sailOf mid = none ∨ 15 < 0 ∨ q.txidBusy mid txid addr = true) → d.dramOk (addr / 64 * 64) = false → exec (.dirtyNote mid part txid addr) s = .next (s.withBlk (((d.note { code := 0x2503, mid := some mid, addr := some (addr / 64 * 64) }).emit (.errComp mid part txid (addr / 64 * 64))).dropReq mid txid)))
    ∧ (∀ (s : State) (mid part txid addr : Nat) (own : Nat), let b := s.start; let q : Block := (b.arrives (.dirtyNote mid part txid addr)).2; let c : Block := if (q.reqOf mid txid).isNone then q.modCoh (fun c => { c with reqs := c.reqs ++ [{ mid := mid, part := part, txid := txid, kind := .dirtyNote, line := addr / 64, way := 0, tc3 := false }] }) else q.modReq mid txid (fun r => { r with backoff := false, tc3 := false }); let att : Nat := ((c.reqOf mid txid).map (·.attempt)).getD 0; let seen : Option (Nat × Nat × Nat) := c.coh.entered.find? (fun e => e.1 = mid && e.2.1 = addr / 64); let d : Block := c.modCoh (fun c => { c with entered := match seen with | some e => listErase e c.entered | none => c.entered }); b.dev ≠ .off → (b.arrives (.dirtyNote mid part txid addr)).1 = true → q.speaks mid = true → ¬ (mid % 32 ≠ 17 ∨ sailOf mid = none ∨ 15 < 0 ∨ q.txidBusy mid txid addr = true) → d.dramOk (addr / 64 * 64) = true → d.privOwner (addr / 64 * 64) = some own → privAllowed own mid .dirtyNote = false → exec (.dirtyNote mid part txid addr) s = .next (s.withBlk (((d.note { code := 0x2402, mid := some mid, addr := some (addr / 64 * 64) }).emit (.errComp mid part txid (addr / 64 * 64))).dropReq mid txid)))
    ∧ (∀ (s : State) (mid part txid addr : Nat), let b := s.start; let q : Block := (b.arrives (.dirtyNote mid part txid addr)).2; let c : Block := if (q.reqOf mid txid).isNone then q.modCoh (fun c => { c with reqs := c.reqs ++ [{ mid := mid, part := part, txid := txid, kind := .dirtyNote, line := addr / 64, way := 0, tc3 := false }] }) else q.modReq mid txid (fun r => { r with backoff := false, tc3 := false }); let att : Nat := ((c.reqOf mid txid).map (·.attempt)).getD 0; let seen : Option (Nat × Nat × Nat) := c.coh.entered.find? (fun e => e.1 = mid && e.2.1 = addr / 64); let d : Block := c.modCoh (fun c => { c with entered := match seen with | some e => listErase e c.entered | none => c.entered }); b.dev ≠ .off → (b.arrives (.dirtyNote mid part txid addr)).1 = true → q.speaks mid = true → ¬ (mid % 32 ≠ 17 ∨ sailOf mid = none ∨ 15 < 0 ∨ q.txidBusy mid txid addr = true) → d.dramOk (addr / 64 * 64) = true → (match d.privOwner (addr / 64 * 64) with | some own => privAllowed own mid .dirtyNote | none => true) = true → exec (.dirtyNote mid part txid addr) s = .next (s.withBlk ((d.modCoh (fun c => { c with waiting := c.waiting ++ [{ mid := mid, part := part, txid := txid, kind := .dirtyNote, line := addr / 64, way := 0, tc3 := false, attempt := att, retried := 0 < att, enterNs := match seen with | some e => e.2.2 | none => d.timeNs, priv := (d.privOwner (addr / 64 * 64)).isSome }] })).settle)))
    ∧ (∀ (s : State) (mid part txid addr : Nat), let b := s.start; let q : Block := (b.arrives (.wbDirty mid part txid addr)).2; b.dev ≠ .off → (b.arrives (.wbDirty mid part txid addr)).1 = false → exec (.wbDirty mid part txid addr) s = .next (s.withBlk (q)))
    ∧ (∀ (s : State) (mid part txid addr : Nat), let b := s.start; let q : Block := (b.arrives (.wbDirty mid part txid addr)).2; b.dev ≠ .off → (b.arrives (.wbDirty mid part txid addr)).1 = true → q.speaks mid = false → exec (.wbDirty mid part txid addr) s = .next (s.withBlk (q)))
    ∧ (∀ (s : State) (mid part txid addr : Nat), let b := s.start; let q : Block := (b.arrives (.wbDirty mid part txid addr)).2; b.dev ≠ .off → (b.arrives (.wbDirty mid part txid addr)).1 = true → q.speaks mid = true → (mid % 32 ≠ 17 ∨ sailOf mid = none ∨ 15 < 0 ∨ q.txidBusy mid txid addr = true) → exec (.wbDirty mid part txid addr) s = .next (s.withBlk (q.protoError mid)))
    ∧ (∀ (s : State) (mid part txid addr : Nat), let b := s.start; let q : Block := (b.arrives (.wbDirty mid part txid addr)).2; let c : Block := if (q.reqOf mid txid).isNone then q.modCoh (fun c => { c with reqs := c.reqs ++ [{ mid := mid, part := part, txid := txid, kind := .wbDirty, line := addr / 64, way := 0, tc3 := false }] }) else q.modReq mid txid (fun r => { r with backoff := false, tc3 := false }); let att : Nat := ((c.reqOf mid txid).map (·.attempt)).getD 0; let seen : Option (Nat × Nat × Nat) := c.coh.entered.find? (fun e => e.1 = mid && e.2.1 = addr / 64); let d : Block := c.modCoh (fun c => { c with entered := match seen with | some e => listErase e c.entered | none => c.entered }); b.dev ≠ .off → (b.arrives (.wbDirty mid part txid addr)).1 = true → q.speaks mid = true → ¬ (mid % 32 ≠ 17 ∨ sailOf mid = none ∨ 15 < 0 ∨ q.txidBusy mid txid addr = true) → d.dramOk (addr / 64 * 64) = false → exec (.wbDirty mid part txid addr) s = .next (s.withBlk (((d.note { code := 0x2503, mid := some mid, addr := some (addr / 64 * 64) }).emit (.errComp mid part txid (addr / 64 * 64))).dropReq mid txid)))
    ∧ (∀ (s : State) (mid part txid addr : Nat) (own : Nat), let b := s.start; let q : Block := (b.arrives (.wbDirty mid part txid addr)).2; let c : Block := if (q.reqOf mid txid).isNone then q.modCoh (fun c => { c with reqs := c.reqs ++ [{ mid := mid, part := part, txid := txid, kind := .wbDirty, line := addr / 64, way := 0, tc3 := false }] }) else q.modReq mid txid (fun r => { r with backoff := false, tc3 := false }); let att : Nat := ((c.reqOf mid txid).map (·.attempt)).getD 0; let seen : Option (Nat × Nat × Nat) := c.coh.entered.find? (fun e => e.1 = mid && e.2.1 = addr / 64); let d : Block := c.modCoh (fun c => { c with entered := match seen with | some e => listErase e c.entered | none => c.entered }); b.dev ≠ .off → (b.arrives (.wbDirty mid part txid addr)).1 = true → q.speaks mid = true → ¬ (mid % 32 ≠ 17 ∨ sailOf mid = none ∨ 15 < 0 ∨ q.txidBusy mid txid addr = true) → d.dramOk (addr / 64 * 64) = true → d.privOwner (addr / 64 * 64) = some own → privAllowed own mid .wbDirty = false → exec (.wbDirty mid part txid addr) s = .next (s.withBlk (((d.note { code := 0x2402, mid := some mid, addr := some (addr / 64 * 64) }).emit (.errComp mid part txid (addr / 64 * 64))).dropReq mid txid)))
    ∧ (∀ (s : State) (mid part txid addr : Nat), let b := s.start; let q : Block := (b.arrives (.wbDirty mid part txid addr)).2; let c : Block := if (q.reqOf mid txid).isNone then q.modCoh (fun c => { c with reqs := c.reqs ++ [{ mid := mid, part := part, txid := txid, kind := .wbDirty, line := addr / 64, way := 0, tc3 := false }] }) else q.modReq mid txid (fun r => { r with backoff := false, tc3 := false }); let att : Nat := ((c.reqOf mid txid).map (·.attempt)).getD 0; let seen : Option (Nat × Nat × Nat) := c.coh.entered.find? (fun e => e.1 = mid && e.2.1 = addr / 64); let d : Block := c.modCoh (fun c => { c with entered := match seen with | some e => listErase e c.entered | none => c.entered }); b.dev ≠ .off → (b.arrives (.wbDirty mid part txid addr)).1 = true → q.speaks mid = true → ¬ (mid % 32 ≠ 17 ∨ sailOf mid = none ∨ 15 < 0 ∨ q.txidBusy mid txid addr = true) → d.dramOk (addr / 64 * 64) = true → (match d.privOwner (addr / 64 * 64) with | some own => privAllowed own mid .wbDirty | none => true) = true → exec (.wbDirty mid part txid addr) s = .next (s.withBlk ((d.modCoh (fun c => { c with waiting := c.waiting ++ [{ mid := mid, part := part, txid := txid, kind := .wbDirty, line := addr / 64, way := 0, tc3 := false, attempt := att, retried := 0 < att, enterNs := match seen with | some e => e.2.2 | none => d.timeNs, priv := (d.privOwner (addr / 64 * 64)).isSome }] })).settle)))
    ∧ (∀ (s : State) (mid part txid addr : Nat), let b := s.start; let q : Block := (b.arrives (.evictClean mid part txid addr)).2; b.dev ≠ .off → (b.arrives (.evictClean mid part txid addr)).1 = false → exec (.evictClean mid part txid addr) s = .next (s.withBlk (q)))
    ∧ (∀ (s : State) (mid part txid addr : Nat), let b := s.start; let q : Block := (b.arrives (.evictClean mid part txid addr)).2; b.dev ≠ .off → (b.arrives (.evictClean mid part txid addr)).1 = true → q.speaks mid = false → exec (.evictClean mid part txid addr) s = .next (s.withBlk (q)))
    ∧ (∀ (s : State) (mid part txid addr : Nat), let b := s.start; let q : Block := (b.arrives (.evictClean mid part txid addr)).2; b.dev ≠ .off → (b.arrives (.evictClean mid part txid addr)).1 = true → q.speaks mid = true → (mid % 32 ≠ 17 ∨ sailOf mid = none ∨ 15 < 0 ∨ q.txidBusy mid txid addr = true) → exec (.evictClean mid part txid addr) s = .next (s.withBlk (q.protoError mid)))
    ∧ (∀ (s : State) (mid part txid addr : Nat), let b := s.start; let q : Block := (b.arrives (.evictClean mid part txid addr)).2; let c : Block := if (q.reqOf mid txid).isNone then q.modCoh (fun c => { c with reqs := c.reqs ++ [{ mid := mid, part := part, txid := txid, kind := .evictClean, line := addr / 64, way := 0, tc3 := false }] }) else q.modReq mid txid (fun r => { r with backoff := false, tc3 := false }); let att : Nat := ((c.reqOf mid txid).map (·.attempt)).getD 0; let seen : Option (Nat × Nat × Nat) := c.coh.entered.find? (fun e => e.1 = mid && e.2.1 = addr / 64); let d : Block := c.modCoh (fun c => { c with entered := match seen with | some e => listErase e c.entered | none => c.entered }); b.dev ≠ .off → (b.arrives (.evictClean mid part txid addr)).1 = true → q.speaks mid = true → ¬ (mid % 32 ≠ 17 ∨ sailOf mid = none ∨ 15 < 0 ∨ q.txidBusy mid txid addr = true) → d.dramOk (addr / 64 * 64) = false → exec (.evictClean mid part txid addr) s = .next (s.withBlk (((d.note { code := 0x2503, mid := some mid, addr := some (addr / 64 * 64) }).emit (.errComp mid part txid (addr / 64 * 64))).dropReq mid txid)))
    ∧ (∀ (s : State) (mid part txid addr : Nat) (own : Nat), let b := s.start; let q : Block := (b.arrives (.evictClean mid part txid addr)).2; let c : Block := if (q.reqOf mid txid).isNone then q.modCoh (fun c => { c with reqs := c.reqs ++ [{ mid := mid, part := part, txid := txid, kind := .evictClean, line := addr / 64, way := 0, tc3 := false }] }) else q.modReq mid txid (fun r => { r with backoff := false, tc3 := false }); let att : Nat := ((c.reqOf mid txid).map (·.attempt)).getD 0; let seen : Option (Nat × Nat × Nat) := c.coh.entered.find? (fun e => e.1 = mid && e.2.1 = addr / 64); let d : Block := c.modCoh (fun c => { c with entered := match seen with | some e => listErase e c.entered | none => c.entered }); b.dev ≠ .off → (b.arrives (.evictClean mid part txid addr)).1 = true → q.speaks mid = true → ¬ (mid % 32 ≠ 17 ∨ sailOf mid = none ∨ 15 < 0 ∨ q.txidBusy mid txid addr = true) → d.dramOk (addr / 64 * 64) = true → d.privOwner (addr / 64 * 64) = some own → privAllowed own mid .evictClean = false → exec (.evictClean mid part txid addr) s = .next (s.withBlk (((d.note { code := 0x2402, mid := some mid, addr := some (addr / 64 * 64) }).emit (.errComp mid part txid (addr / 64 * 64))).dropReq mid txid)))
    ∧ (∀ (s : State) (mid part txid addr : Nat), let b := s.start; let q : Block := (b.arrives (.evictClean mid part txid addr)).2; let c : Block := if (q.reqOf mid txid).isNone then q.modCoh (fun c => { c with reqs := c.reqs ++ [{ mid := mid, part := part, txid := txid, kind := .evictClean, line := addr / 64, way := 0, tc3 := false }] }) else q.modReq mid txid (fun r => { r with backoff := false, tc3 := false }); let att : Nat := ((c.reqOf mid txid).map (·.attempt)).getD 0; let seen : Option (Nat × Nat × Nat) := c.coh.entered.find? (fun e => e.1 = mid && e.2.1 = addr / 64); let d : Block := c.modCoh (fun c => { c with entered := match seen with | some e => listErase e c.entered | none => c.entered }); b.dev ≠ .off → (b.arrives (.evictClean mid part txid addr)).1 = true → q.speaks mid = true → ¬ (mid % 32 ≠ 17 ∨ sailOf mid = none ∨ 15 < 0 ∨ q.txidBusy mid txid addr = true) → d.dramOk (addr / 64 * 64) = true → (match d.privOwner (addr / 64 * 64) with | some own => privAllowed own mid .evictClean | none => true) = true → exec (.evictClean mid part txid addr) s = .next (s.withBlk ((d.modCoh (fun c => { c with waiting := c.waiting ++ [{ mid := mid, part := part, txid := txid, kind := .evictClean, line := addr / 64, way := 0, tc3 := false, attempt := att, retried := 0 < att, enterNs := match seen with | some e => e.2.2 | none => d.timeNs, priv := (d.privOwner (addr / 64 * 64)).isSome }] })).settle)))
    ∧ (∀ (s : State) (mid part txid addr : Nat) (tc3 : Bool), let b := s.start; let q : Block := (b.arrives (.rdOnce mid part txid addr tc3)).2; b.dev ≠ .off → (b.arrives (.rdOnce mid part txid addr tc3)).1 = false → exec (.rdOnce mid part txid addr tc3) s = .next (s.withBlk (q)))
    ∧ (∀ (s : State) (mid part txid addr : Nat) (tc3 : Bool), let b := s.start; let q : Block := (b.arrives (.rdOnce mid part txid addr tc3)).2; b.dev ≠ .off → (b.arrives (.rdOnce mid part txid addr tc3)).1 = true → q.speaks mid = false → exec (.rdOnce mid part txid addr tc3) s = .next (s.withBlk (q)))
    ∧ (∀ (s : State) (mid part txid addr : Nat) (tc3 : Bool), let b := s.start; let q : Block := (b.arrives (.rdOnce mid part txid addr tc3)).2; b.dev ≠ .off → (b.arrives (.rdOnce mid part txid addr tc3)).1 = true → q.speaks mid = true → (q.txidBusy mid txid addr = true) → exec (.rdOnce mid part txid addr tc3) s = .next (s.withBlk (q.protoError mid)))
    ∧ (∀ (s : State) (mid part txid addr : Nat) (tc3 : Bool), let b := s.start; let q : Block := (b.arrives (.rdOnce mid part txid addr tc3)).2; let c : Block := if (q.reqOf mid txid).isNone then q.modCoh (fun c => { c with reqs := c.reqs ++ [{ mid := mid, part := part, txid := txid, kind := .rdOnce, line := addr / 64, way := 0, tc3 := tc3 }] }) else q.modReq mid txid (fun r => { r with backoff := false, tc3 := tc3 }); let att : Nat := ((c.reqOf mid txid).map (·.attempt)).getD 0; let seen : Option (Nat × Nat × Nat) := c.coh.entered.find? (fun e => e.1 = mid && e.2.1 = addr / 64); let d : Block := c.modCoh (fun c => { c with entered := match seen with | some e => listErase e c.entered | none => c.entered }); b.dev ≠ .off → (b.arrives (.rdOnce mid part txid addr tc3)).1 = true → q.speaks mid = true → ¬ (q.txidBusy mid txid addr = true) → d.dramOk (addr / 64 * 64) = false → exec (.rdOnce mid part txid addr tc3) s = .next (s.withBlk (((d.note { code := 0x2503, mid := some mid, addr := some (addr / 64 * 64) }).emit (.errComp mid part txid (addr / 64 * 64))).dropReq mid txid)))
    ∧ (∀ (s : State) (mid part txid addr : Nat) (tc3 : Bool) (own : Nat), let b := s.start; let q : Block := (b.arrives (.rdOnce mid part txid addr tc3)).2; let c : Block := if (q.reqOf mid txid).isNone then q.modCoh (fun c => { c with reqs := c.reqs ++ [{ mid := mid, part := part, txid := txid, kind := .rdOnce, line := addr / 64, way := 0, tc3 := tc3 }] }) else q.modReq mid txid (fun r => { r with backoff := false, tc3 := tc3 }); let att : Nat := ((c.reqOf mid txid).map (·.attempt)).getD 0; let seen : Option (Nat × Nat × Nat) := c.coh.entered.find? (fun e => e.1 = mid && e.2.1 = addr / 64); let d : Block := c.modCoh (fun c => { c with entered := match seen with | some e => listErase e c.entered | none => c.entered }); b.dev ≠ .off → (b.arrives (.rdOnce mid part txid addr tc3)).1 = true → q.speaks mid = true → ¬ (q.txidBusy mid txid addr = true) → d.dramOk (addr / 64 * 64) = true → d.privOwner (addr / 64 * 64) = some own → privAllowed own mid .rdOnce = false → exec (.rdOnce mid part txid addr tc3) s = .next (s.withBlk (((d.note { code := 0x2402, mid := some mid, addr := some (addr / 64 * 64) }).emit (.errComp mid part txid (addr / 64 * 64))).dropReq mid txid)))
    ∧ (∀ (s : State) (mid part txid addr : Nat) (tc3 : Bool), let b := s.start; let q : Block := (b.arrives (.rdOnce mid part txid addr tc3)).2; let c : Block := if (q.reqOf mid txid).isNone then q.modCoh (fun c => { c with reqs := c.reqs ++ [{ mid := mid, part := part, txid := txid, kind := .rdOnce, line := addr / 64, way := 0, tc3 := tc3 }] }) else q.modReq mid txid (fun r => { r with backoff := false, tc3 := tc3 }); let att : Nat := ((c.reqOf mid txid).map (·.attempt)).getD 0; let seen : Option (Nat × Nat × Nat) := c.coh.entered.find? (fun e => e.1 = mid && e.2.1 = addr / 64); let d : Block := c.modCoh (fun c => { c with entered := match seen with | some e => listErase e c.entered | none => c.entered }); b.dev ≠ .off → (b.arrives (.rdOnce mid part txid addr tc3)).1 = true → q.speaks mid = true → ¬ (q.txidBusy mid txid addr = true) → d.dramOk (addr / 64 * 64) = true → (match d.privOwner (addr / 64 * 64) with | some own => privAllowed own mid .rdOnce | none => true) = true → exec (.rdOnce mid part txid addr tc3) s = .next (s.withBlk ((d.modCoh (fun c => { c with waiting := c.waiting ++ [{ mid := mid, part := part, txid := txid, kind := .rdOnce, line := addr / 64, way := 0, tc3 := tc3, attempt := att, retried := 0 < att, enterNs := match seen with | some e => e.2.2 | none => d.timeNs, priv := (d.privOwner (addr / 64 * 64)).isSome }] })).settle)))
    ∧ (∀ (s : State) (mid part txid addr : Nat), let b := s.start; let q : Block := (b.arrives (.wrFull mid part txid addr)).2; b.dev ≠ .off → (b.arrives (.wrFull mid part txid addr)).1 = false → exec (.wrFull mid part txid addr) s = .next (s.withBlk (q)))
    ∧ (∀ (s : State) (mid part txid addr : Nat), let b := s.start; let q : Block := (b.arrives (.wrFull mid part txid addr)).2; b.dev ≠ .off → (b.arrives (.wrFull mid part txid addr)).1 = true → q.speaks mid = false → exec (.wrFull mid part txid addr) s = .next (s.withBlk (q)))
    ∧ (∀ (s : State) (mid part txid addr : Nat), let b := s.start; let q : Block := (b.arrives (.wrFull mid part txid addr)).2; b.dev ≠ .off → (b.arrives (.wrFull mid part txid addr)).1 = true → q.speaks mid = true → (q.txidBusy mid txid addr = true) → exec (.wrFull mid part txid addr) s = .next (s.withBlk (q.protoError mid)))
    ∧ (∀ (s : State) (mid part txid addr : Nat), let b := s.start; let q : Block := (b.arrives (.wrFull mid part txid addr)).2; let c : Block := if (q.reqOf mid txid).isNone then q.modCoh (fun c => { c with reqs := c.reqs ++ [{ mid := mid, part := part, txid := txid, kind := .wrFull, line := addr / 64, way := 0, tc3 := false }] }) else q.modReq mid txid (fun r => { r with backoff := false, tc3 := false }); let att : Nat := ((c.reqOf mid txid).map (·.attempt)).getD 0; let seen : Option (Nat × Nat × Nat) := c.coh.entered.find? (fun e => e.1 = mid && e.2.1 = addr / 64); let d : Block := c.modCoh (fun c => { c with entered := match seen with | some e => listErase e c.entered | none => c.entered }); b.dev ≠ .off → (b.arrives (.wrFull mid part txid addr)).1 = true → q.speaks mid = true → ¬ (q.txidBusy mid txid addr = true) → d.dramOk (addr / 64 * 64) = false → exec (.wrFull mid part txid addr) s = .next (s.withBlk (((d.note { code := 0x2503, mid := some mid, addr := some (addr / 64 * 64) }).emit (.errComp mid part txid (addr / 64 * 64))).dropReq mid txid)))
    ∧ (∀ (s : State) (mid part txid addr : Nat) (own : Nat), let b := s.start; let q : Block := (b.arrives (.wrFull mid part txid addr)).2; let c : Block := if (q.reqOf mid txid).isNone then q.modCoh (fun c => { c with reqs := c.reqs ++ [{ mid := mid, part := part, txid := txid, kind := .wrFull, line := addr / 64, way := 0, tc3 := false }] }) else q.modReq mid txid (fun r => { r with backoff := false, tc3 := false }); let att : Nat := ((c.reqOf mid txid).map (·.attempt)).getD 0; let seen : Option (Nat × Nat × Nat) := c.coh.entered.find? (fun e => e.1 = mid && e.2.1 = addr / 64); let d : Block := c.modCoh (fun c => { c with entered := match seen with | some e => listErase e c.entered | none => c.entered }); b.dev ≠ .off → (b.arrives (.wrFull mid part txid addr)).1 = true → q.speaks mid = true → ¬ (q.txidBusy mid txid addr = true) → d.dramOk (addr / 64 * 64) = true → d.privOwner (addr / 64 * 64) = some own → privAllowed own mid .wrFull = false → exec (.wrFull mid part txid addr) s = .next (s.withBlk (((d.note { code := 0x2402, mid := some mid, addr := some (addr / 64 * 64) }).emit (.errComp mid part txid (addr / 64 * 64))).dropReq mid txid)))
    ∧ (∀ (s : State) (mid part txid addr : Nat), let b := s.start; let q : Block := (b.arrives (.wrFull mid part txid addr)).2; let c : Block := if (q.reqOf mid txid).isNone then q.modCoh (fun c => { c with reqs := c.reqs ++ [{ mid := mid, part := part, txid := txid, kind := .wrFull, line := addr / 64, way := 0, tc3 := false }] }) else q.modReq mid txid (fun r => { r with backoff := false, tc3 := false }); let att : Nat := ((c.reqOf mid txid).map (·.attempt)).getD 0; let seen : Option (Nat × Nat × Nat) := c.coh.entered.find? (fun e => e.1 = mid && e.2.1 = addr / 64); let d : Block := c.modCoh (fun c => { c with entered := match seen with | some e => listErase e c.entered | none => c.entered }); b.dev ≠ .off → (b.arrives (.wrFull mid part txid addr)).1 = true → q.speaks mid = true → ¬ (q.txidBusy mid txid addr = true) → d.dramOk (addr / 64 * 64) = true → (match d.privOwner (addr / 64 * 64) with | some own => privAllowed own mid .wrFull | none => true) = true → exec (.wrFull mid part txid addr) s = .next (s.withBlk ((d.modCoh (fun c => { c with waiting := c.waiting ++ [{ mid := mid, part := part, txid := txid, kind := .wrFull, line := addr / 64, way := 0, tc3 := false, attempt := att, retried := 0 < att, enterNs := match seen with | some e => e.2.2 | none => d.timeNs, priv := (d.privOwner (addr / 64 * 64)).isSome }] })).settle)))
    ∧ (∀ (s : State) (mid part txid addr : Nat), let b := s.start; let q : Block := (b.arrives (.wrPart mid part txid addr)).2; b.dev ≠ .off → (b.arrives (.wrPart mid part txid addr)).1 = false → exec (.wrPart mid part txid addr) s = .next (s.withBlk (q)))
    ∧ (∀ (s : State) (mid part txid addr : Nat), let b := s.start; let q : Block := (b.arrives (.wrPart mid part txid addr)).2; b.dev ≠ .off → (b.arrives (.wrPart mid part txid addr)).1 = true → q.speaks mid = false → exec (.wrPart mid part txid addr) s = .next (s.withBlk (q)))
    ∧ (∀ (s : State) (mid part txid addr : Nat), let b := s.start; let q : Block := (b.arrives (.wrPart mid part txid addr)).2; b.dev ≠ .off → (b.arrives (.wrPart mid part txid addr)).1 = true → q.speaks mid = true → (q.txidBusy mid txid addr = true) → exec (.wrPart mid part txid addr) s = .next (s.withBlk (q.protoError mid)))
    ∧ (∀ (s : State) (mid part txid addr : Nat), let b := s.start; let q : Block := (b.arrives (.wrPart mid part txid addr)).2; let c : Block := if (q.reqOf mid txid).isNone then q.modCoh (fun c => { c with reqs := c.reqs ++ [{ mid := mid, part := part, txid := txid, kind := .wrPart, line := addr / 64, way := 0, tc3 := false }] }) else q.modReq mid txid (fun r => { r with backoff := false, tc3 := false }); let att : Nat := ((c.reqOf mid txid).map (·.attempt)).getD 0; let seen : Option (Nat × Nat × Nat) := c.coh.entered.find? (fun e => e.1 = mid && e.2.1 = addr / 64); let d : Block := c.modCoh (fun c => { c with entered := match seen with | some e => listErase e c.entered | none => c.entered }); b.dev ≠ .off → (b.arrives (.wrPart mid part txid addr)).1 = true → q.speaks mid = true → ¬ (q.txidBusy mid txid addr = true) → d.dramOk (addr / 64 * 64) = false → exec (.wrPart mid part txid addr) s = .next (s.withBlk (((d.note { code := 0x2503, mid := some mid, addr := some (addr / 64 * 64) }).emit (.errComp mid part txid (addr / 64 * 64))).dropReq mid txid)))
    ∧ (∀ (s : State) (mid part txid addr : Nat) (own : Nat), let b := s.start; let q : Block := (b.arrives (.wrPart mid part txid addr)).2; let c : Block := if (q.reqOf mid txid).isNone then q.modCoh (fun c => { c with reqs := c.reqs ++ [{ mid := mid, part := part, txid := txid, kind := .wrPart, line := addr / 64, way := 0, tc3 := false }] }) else q.modReq mid txid (fun r => { r with backoff := false, tc3 := false }); let att : Nat := ((c.reqOf mid txid).map (·.attempt)).getD 0; let seen : Option (Nat × Nat × Nat) := c.coh.entered.find? (fun e => e.1 = mid && e.2.1 = addr / 64); let d : Block := c.modCoh (fun c => { c with entered := match seen with | some e => listErase e c.entered | none => c.entered }); b.dev ≠ .off → (b.arrives (.wrPart mid part txid addr)).1 = true → q.speaks mid = true → ¬ (q.txidBusy mid txid addr = true) → d.dramOk (addr / 64 * 64) = true → d.privOwner (addr / 64 * 64) = some own → privAllowed own mid .wrPart = false → exec (.wrPart mid part txid addr) s = .next (s.withBlk (((d.note { code := 0x2402, mid := some mid, addr := some (addr / 64 * 64) }).emit (.errComp mid part txid (addr / 64 * 64))).dropReq mid txid)))
    ∧ (∀ (s : State) (mid part txid addr : Nat), let b := s.start; let q : Block := (b.arrives (.wrPart mid part txid addr)).2; let c : Block := if (q.reqOf mid txid).isNone then q.modCoh (fun c => { c with reqs := c.reqs ++ [{ mid := mid, part := part, txid := txid, kind := .wrPart, line := addr / 64, way := 0, tc3 := false }] }) else q.modReq mid txid (fun r => { r with backoff := false, tc3 := false }); let att : Nat := ((c.reqOf mid txid).map (·.attempt)).getD 0; let seen : Option (Nat × Nat × Nat) := c.coh.entered.find? (fun e => e.1 = mid && e.2.1 = addr / 64); let d : Block := c.modCoh (fun c => { c with entered := match seen with | some e => listErase e c.entered | none => c.entered }); b.dev ≠ .off → (b.arrives (.wrPart mid part txid addr)).1 = true → q.speaks mid = true → ¬ (q.txidBusy mid txid addr = true) → d.dramOk (addr / 64 * 64) = true → (match d.privOwner (addr / 64 * 64) with | some own => privAllowed own mid .wrPart | none => true) = true → exec (.wrPart mid part txid addr) s = .next (s.withBlk ((d.modCoh (fun c => { c with waiting := c.waiting ++ [{ mid := mid, part := part, txid := txid, kind := .wrPart, line := addr / 64, way := 0, tc3 := false, attempt := att, retried := 0 < att, enterNs := match seen with | some e => e.2.2 | none => d.timeNs, priv := (d.privOwner (addr / 64 * 64)).isSome }] })).settle)))
    ∧ (∀ (s : State) (mid txid addr data mask : Nat) (poison : Bool), let b := s.start; let q : Block := (b.arrives (.wrData mid txid addr data mask poison)).2; b.dev ≠ .off → (b.arrives (.wrData mid txid addr data mask poison)).1 = false → exec (.wrData mid txid addr data mask poison) s = .next (s.withBlk (q)))
    ∧ (∀ (s : State) (mid txid addr data mask : Nat) (poison : Bool), let b := s.start; let q : Block := (b.arrives (.wrData mid txid addr data mask poison)).2; b.dev ≠ .off → (b.arrives (.wrData mid txid addr data mask poison)).1 = true → q.speaks mid = false → exec (.wrData mid txid addr data mask poison) s = .next (s.withBlk (q)))
    ∧ (∀ (s : State) (mid txid addr data mask : Nat) (poison : Bool), let b := s.start; let q : Block := (b.arrives (.wrData mid txid addr data mask poison)).2; let hit : Txn → Bool := fun t => t.mid = mid && t.txid = txid && t.line = addr / 64 && t.wdata.isNone && (match t.kind with | .wrFull => true | .wrPart => true | .wbDirty => true | _ => false); let fill : Txn → Txn := fun t => { t with wdata := some data, wmask := mask, wpoison := poison }; b.dev ≠ .off → (b.arrives (.wrData mid txid addr data mask poison)).1 = true → q.speaks mid = true → q.coh.txns.find? hit = none → q.coh.waiting.any hit = false → exec (.wrData mid txid addr data mask poison) s = .next (s.withBlk (q.protoError mid)))
    ∧ (∀ (s : State) (mid txid addr data mask : Nat) (poison : Bool), let b := s.start; let q : Block := (b.arrives (.wrData mid txid addr data mask poison)).2; let hit : Txn → Bool := fun t => t.mid = mid && t.txid = txid && t.line = addr / 64 && t.wdata.isNone && (match t.kind with | .wrFull => true | .wrPart => true | .wbDirty => true | _ => false); let fill : Txn → Txn := fun t => { t with wdata := some data, wmask := mask, wpoison := poison }; b.dev ≠ .off → (b.arrives (.wrData mid txid addr data mask poison)).1 = true → q.speaks mid = true → q.coh.txns.find? hit = none → q.coh.waiting.any hit = true → exec (.wrData mid txid addr data mask poison) s = .next (s.withBlk (match sailOf mid with | some n => (q.modCoh (fun c => { c with waiting := c.waiting.map (fun t => if hit t then fill t else t) })).pmu n 0x0C ((q.reqOf mid txid).map (·.part)) 1 | none => q.modCoh (fun c => { c with waiting := c.waiting.map (fun t => if hit t then fill t else t) }))))
    ∧ (∀ (s : State) (mid txid addr data mask : Nat) (poison : Bool) (t : Txn), let b := s.start; let q : Block := (b.arrives (.wrData mid txid addr data mask poison)).2; let hit : Txn → Bool := fun t => t.mid = mid && t.txid = txid && t.line = addr / 64 && t.wdata.isNone && (match t.kind with | .wrFull => true | .wrPart => true | .wbDirty => true | _ => false); let fill : Txn → Txn := fun t => { t with wdata := some data, wmask := mask, wpoison := poison }; b.dev ≠ .off → (b.arrives (.wrData mid txid addr data mask poison)).1 = true → q.speaks mid = true → q.coh.txns.find? hit = some t → exec (.wrData mid txid addr data mask poison) s = .next (s.withBlk (match sailOf mid with | some n => ((q.tryFinish (fill t)).settle).pmu n 0x0C ((q.reqOf mid txid).map (·.part)) 1 | none => (q.tryFinish (fill t)).settle)))

/-- A message that arrived before its command did nothing more; a snoop, a TagRead, an answer, a Comp or a CompData of a sail that is not ACTIVE does nothing. A snoop at an ACTIVE sail counts event 0x05, and 0x06 where the sail has the line. A line in the writeback buffer answers I, evicting, with its data where dirty. Any other line takes its next state and answers it: SnpShared makes M and O O, E and S S; SnpUnique and SnpInv I; SnpOnce leaves it; a dirty line gives its data but to SnpInv. A TagRead is answered with the tags of its set. The home takes a snoop answer that it awaits and that its snoop can yield (an evicting one records I), and snoop data that it awaits or that comes before its answer; any other is a protocol error. A TagResp that a rebuild awaits replaces what the filter shows for the sail in its set; any other is a protocol error. A completion ends its request: Comp makes an Upgrade's line M and ends a DirtyNote, CompData of an L3 installs the line with event 0x0B and counts a line of the maintenance engine; a line that may not be kept, or that a late completion granted, leaves; then the L3 goes on. EvictAck ends the writeback entry and its request. A Retry for a request of its line makes it back off. A completion with no open request, and one or a Retry for a request that has timed out, is counted with 0x140C. A backoff's expiry sends the request again, or forgets it where it has timed out. -/
def Obligations.CoherenceAnswers : Prop :=
  (∀ (s : State) (sail addr txid : Nat), let b := s.start; let q : Block := (b.arrives (.snpShared sail addr txid)).2; b.dev ≠ .off → (b.arrives (.snpShared sail addr txid)).1 = false → exec (.snpShared sail addr txid) s = .next (s.withBlk (q)))
    ∧ (∀ (s : State) (sail addr txid : Nat), let b := s.start; let q : Block := (b.arrives (.snpShared sail addr txid)).2; b.dev ≠ .off → (b.arrives (.snpShared sail addr txid)).1 = true → q.active? sail = false → exec (.snpShared sail addr txid) s = .next (s.withBlk (q)))
    ∧ (∀ (s : State) (sail addr txid : Nat) (w : WbEnt), let b := s.start; let q : Block := (b.arrives (.snpShared sail addr txid)).2; let line : Nat := addr / 64; let part : Nat := ((q.txnOf line).map (·.part)).getD noPart; let c : Block := (q.pmu sail 0x05 (some part) 1).pmu sail 0x06 (some part) (ofBool ((q.wbOf sail line).isSome || decide ((q.l3At sail line).st ≠ .i))); b.dev ≠ .off → (b.arrives (.snpShared sail addr txid)).1 = true → q.active? sail = true → c.wbOf sail line = some w → w.dirty = true → exec (.snpShared sail addr txid) s = .next (s.withBlk ((c.emit (.snpResp sail part txid addr .i true true)).emit (.snpData sail part txid addr w.data w.poison))))
    ∧ (∀ (s : State) (sail addr txid : Nat) (w : WbEnt), let b := s.start; let q : Block := (b.arrives (.snpShared sail addr txid)).2; let line : Nat := addr / 64; let part : Nat := ((q.txnOf line).map (·.part)).getD noPart; let c : Block := (q.pmu sail 0x05 (some part) 1).pmu sail 0x06 (some part) (ofBool ((q.wbOf sail line).isSome || decide ((q.l3At sail line).st ≠ .i))); b.dev ≠ .off → (b.arrives (.snpShared sail addr txid)).1 = true → q.active? sail = true → c.wbOf sail line = some w → w.dirty = false → exec (.snpShared sail addr txid) s = .next (s.withBlk (c.emit (.snpResp sail part txid addr .i false true))))
    ∧ (∀ (s : State) (sail addr txid : Nat), let b := s.start; let q : Block := (b.arrives (.snpShared sail addr txid)).2; let line : Nat := addr / 64; let part : Nat := ((q.txnOf line).map (·.part)).getD noPart; let c : Block := (q.pmu sail 0x05 (some part) 1).pmu sail 0x06 (some part) (ofBool ((q.wbOf sail line).isSome || decide ((q.l3At sail line).st ≠ .i))); let e : L3Line := c.l3At sail line; let next : LSt := (match e.st with | .m => .o | .o => .o | .i => .i | _ => .s); let d : Block := (c.privClean sail line).setL3 sail line { e with st := next }; b.dev ≠ .off → (b.arrives (.snpShared sail addr txid)).1 = true → q.active? sail = true → c.wbOf sail line = none → e.st = .m ∨ e.st = .o → exec (.snpShared sail addr txid) s = .next (s.withBlk ((d.emit (.snpResp sail part txid addr next true false)).emit (.snpData sail part txid addr e.data e.poison))))
    ∧ (∀ (s : State) (sail addr txid : Nat), let b := s.start; let q : Block := (b.arrives (.snpShared sail addr txid)).2; let line : Nat := addr / 64; let part : Nat := ((q.txnOf line).map (·.part)).getD noPart; let c : Block := (q.pmu sail 0x05 (some part) 1).pmu sail 0x06 (some part) (ofBool ((q.wbOf sail line).isSome || decide ((q.l3At sail line).st ≠ .i))); let e : L3Line := c.l3At sail line; let next : LSt := (match e.st with | .m => .o | .o => .o | .i => .i | _ => .s); let d : Block := (c.privClean sail line).setL3 sail line { e with st := next }; b.dev ≠ .off → (b.arrives (.snpShared sail addr txid)).1 = true → q.active? sail = true → c.wbOf sail line = none → e.st ≠ .m → e.st ≠ .o → exec (.snpShared sail addr txid) s = .next (s.withBlk (d.emit (.snpResp sail part txid addr next false false))))
    ∧ (∀ (s : State) (sail addr txid : Nat), let b := s.start; let q : Block := (b.arrives (.snpUnique sail addr txid)).2; b.dev ≠ .off → (b.arrives (.snpUnique sail addr txid)).1 = false → exec (.snpUnique sail addr txid) s = .next (s.withBlk (q)))
    ∧ (∀ (s : State) (sail addr txid : Nat), let b := s.start; let q : Block := (b.arrives (.snpUnique sail addr txid)).2; b.dev ≠ .off → (b.arrives (.snpUnique sail addr txid)).1 = true → q.active? sail = false → exec (.snpUnique sail addr txid) s = .next (s.withBlk (q)))
    ∧ (∀ (s : State) (sail addr txid : Nat) (w : WbEnt), let b := s.start; let q : Block := (b.arrives (.snpUnique sail addr txid)).2; let line : Nat := addr / 64; let part : Nat := ((q.txnOf line).map (·.part)).getD noPart; let c : Block := (q.pmu sail 0x05 (some part) 1).pmu sail 0x06 (some part) (ofBool ((q.wbOf sail line).isSome || decide ((q.l3At sail line).st ≠ .i))); b.dev ≠ .off → (b.arrives (.snpUnique sail addr txid)).1 = true → q.active? sail = true → c.wbOf sail line = some w → w.dirty = true → exec (.snpUnique sail addr txid) s = .next (s.withBlk ((c.emit (.snpResp sail part txid addr .i true true)).emit (.snpData sail part txid addr w.data w.poison))))
    ∧ (∀ (s : State) (sail addr txid : Nat) (w : WbEnt), let b := s.start; let q : Block := (b.arrives (.snpUnique sail addr txid)).2; let line : Nat := addr / 64; let part : Nat := ((q.txnOf line).map (·.part)).getD noPart; let c : Block := (q.pmu sail 0x05 (some part) 1).pmu sail 0x06 (some part) (ofBool ((q.wbOf sail line).isSome || decide ((q.l3At sail line).st ≠ .i))); b.dev ≠ .off → (b.arrives (.snpUnique sail addr txid)).1 = true → q.active? sail = true → c.wbOf sail line = some w → w.dirty = false → exec (.snpUnique sail addr txid) s = .next (s.withBlk (c.emit (.snpResp sail part txid addr .i false true))))
    ∧ (∀ (s : State) (sail addr txid : Nat), let b := s.start; let q : Block := (b.arrives (.snpUnique sail addr txid)).2; let line : Nat := addr / 64; let part : Nat := ((q.txnOf line).map (·.part)).getD noPart; let c : Block := (q.pmu sail 0x05 (some part) 1).pmu sail 0x06 (some part) (ofBool ((q.wbOf sail line).isSome || decide ((q.l3At sail line).st ≠ .i))); let e : L3Line := c.l3At sail line; let next : LSt := .i; let d : Block := (c.privClean sail line).setL3 sail line { e with st := next }; b.dev ≠ .off → (b.arrives (.snpUnique sail addr txid)).1 = true → q.active? sail = true → c.wbOf sail line = none → e.st = .m ∨ e.st = .o → exec (.snpUnique sail addr txid) s = .next (s.withBlk ((d.emit (.snpResp sail part txid addr next true false)).emit (.snpData sail part txid addr e.data e.poison))))
    ∧ (∀ (s : State) (sail addr txid : Nat), let b := s.start; let q : Block := (b.arrives (.snpUnique sail addr txid)).2; let line : Nat := addr / 64; let part : Nat := ((q.txnOf line).map (·.part)).getD noPart; let c : Block := (q.pmu sail 0x05 (some part) 1).pmu sail 0x06 (some part) (ofBool ((q.wbOf sail line).isSome || decide ((q.l3At sail line).st ≠ .i))); let e : L3Line := c.l3At sail line; let next : LSt := .i; let d : Block := (c.privClean sail line).setL3 sail line { e with st := next }; b.dev ≠ .off → (b.arrives (.snpUnique sail addr txid)).1 = true → q.active? sail = true → c.wbOf sail line = none → e.st ≠ .m → e.st ≠ .o → exec (.snpUnique sail addr txid) s = .next (s.withBlk (d.emit (.snpResp sail part txid addr next false false))))
    ∧ (∀ (s : State) (sail addr txid : Nat), let b := s.start; let q : Block := (b.arrives (.snpOnce sail addr txid)).2; b.dev ≠ .off → (b.arrives (.snpOnce sail addr txid)).1 = false → exec (.snpOnce sail addr txid) s = .next (s.withBlk (q)))
    ∧ (∀ (s : State) (sail addr txid : Nat), let b := s.start; let q : Block := (b.arrives (.snpOnce sail addr txid)).2; b.dev ≠ .off → (b.arrives (.snpOnce sail addr txid)).1 = true → q.active? sail = false → exec (.snpOnce sail addr txid) s = .next (s.withBlk (q)))
    ∧ (∀ (s : State) (sail addr txid : Nat) (w : WbEnt), let b := s.start; let q : Block := (b.arrives (.snpOnce sail addr txid)).2; let line : Nat := addr / 64; let part : Nat := ((q.txnOf line).map (·.part)).getD noPart; let c : Block := (q.pmu sail 0x05 (some part) 1).pmu sail 0x06 (some part) (ofBool ((q.wbOf sail line).isSome || decide ((q.l3At sail line).st ≠ .i))); b.dev ≠ .off → (b.arrives (.snpOnce sail addr txid)).1 = true → q.active? sail = true → c.wbOf sail line = some w → w.dirty = true → exec (.snpOnce sail addr txid) s = .next (s.withBlk ((c.emit (.snpResp sail part txid addr .i true true)).emit (.snpData sail part txid addr w.data w.poison))))
    ∧ (∀ (s : State) (sail addr txid : Nat) (w : WbEnt), let b := s.start; let q : Block := (b.arrives (.snpOnce sail addr txid)).2; let line : Nat := addr / 64; let part : Nat := ((q.txnOf line).map (·.part)).getD noPart; let c : Block := (q.pmu sail 0x05 (some part) 1).pmu sail 0x06 (some part) (ofBool ((q.wbOf sail line).isSome || decide ((q.l3At sail line).st ≠ .i))); b.dev ≠ .off → (b.arrives (.snpOnce sail addr txid)).1 = true → q.active? sail = true → c.wbOf sail line = some w → w.dirty = false → exec (.snpOnce sail addr txid) s = .next (s.withBlk (c.emit (.snpResp sail part txid addr .i false true))))
    ∧ (∀ (s : State) (sail addr txid : Nat), let b := s.start; let q : Block := (b.arrives (.snpOnce sail addr txid)).2; let line : Nat := addr / 64; let part : Nat := ((q.txnOf line).map (·.part)).getD noPart; let c : Block := (q.pmu sail 0x05 (some part) 1).pmu sail 0x06 (some part) (ofBool ((q.wbOf sail line).isSome || decide ((q.l3At sail line).st ≠ .i))); let e : L3Line := c.l3At sail line; let next : LSt := e.st; let d : Block := (c.privClean sail line).setL3 sail line { e with st := next }; b.dev ≠ .off → (b.arrives (.snpOnce sail addr txid)).1 = true → q.active? sail = true → c.wbOf sail line = none → e.st = .m ∨ e.st = .o → exec (.snpOnce sail addr txid) s = .next (s.withBlk ((d.emit (.snpResp sail part txid addr next true false)).emit (.snpData sail part txid addr e.data e.poison))))
    ∧ (∀ (s : State) (sail addr txid : Nat), let b := s.start; let q : Block := (b.arrives (.snpOnce sail addr txid)).2; let line : Nat := addr / 64; let part : Nat := ((q.txnOf line).map (·.part)).getD noPart; let c : Block := (q.pmu sail 0x05 (some part) 1).pmu sail 0x06 (some part) (ofBool ((q.wbOf sail line).isSome || decide ((q.l3At sail line).st ≠ .i))); let e : L3Line := c.l3At sail line; let next : LSt := e.st; let d : Block := (c.privClean sail line).setL3 sail line { e with st := next }; b.dev ≠ .off → (b.arrives (.snpOnce sail addr txid)).1 = true → q.active? sail = true → c.wbOf sail line = none → e.st ≠ .m → e.st ≠ .o → exec (.snpOnce sail addr txid) s = .next (s.withBlk (d.emit (.snpResp sail part txid addr next false false))))
    ∧ (∀ (s : State) (sail addr txid : Nat), let b := s.start; let q : Block := (b.arrives (.snpInv sail addr txid)).2; b.dev ≠ .off → (b.arrives (.snpInv sail addr txid)).1 = false → exec (.snpInv sail addr txid) s = .next (s.withBlk (q)))
    ∧ (∀ (s : State) (sail addr txid : Nat), let b := s.start; let q : Block := (b.arrives (.snpInv sail addr txid)).2; b.dev ≠ .off → (b.arrives (.snpInv sail addr txid)).1 = true → q.active? sail = false → exec (.snpInv sail addr txid) s = .next (s.withBlk (q)))
    ∧ (∀ (s : State) (sail addr txid : Nat) (w : WbEnt), let b := s.start; let q : Block := (b.arrives (.snpInv sail addr txid)).2; let line : Nat := addr / 64; let part : Nat := ((q.txnOf line).map (·.part)).getD noPart; let c : Block := (q.pmu sail 0x05 (some part) 1).pmu sail 0x06 (some part) (ofBool ((q.wbOf sail line).isSome || decide ((q.l3At sail line).st ≠ .i))); b.dev ≠ .off → (b.arrives (.snpInv sail addr txid)).1 = true → q.active? sail = true → c.wbOf sail line = some w → w.dirty = true → exec (.snpInv sail addr txid) s = .next (s.withBlk ((c.emit (.snpResp sail part txid addr .i true true)).emit (.snpData sail part txid addr w.data w.poison))))
    ∧ (∀ (s : State) (sail addr txid : Nat) (w : WbEnt), let b := s.start; let q : Block := (b.arrives (.snpInv sail addr txid)).2; let line : Nat := addr / 64; let part : Nat := ((q.txnOf line).map (·.part)).getD noPart; let c : Block := (q.pmu sail 0x05 (some part) 1).pmu sail 0x06 (some part) (ofBool ((q.wbOf sail line).isSome || decide ((q.l3At sail line).st ≠ .i))); b.dev ≠ .off → (b.arrives (.snpInv sail addr txid)).1 = true → q.active? sail = true → c.wbOf sail line = some w → w.dirty = false → exec (.snpInv sail addr txid) s = .next (s.withBlk (c.emit (.snpResp sail part txid addr .i false true))))
    ∧ (∀ (s : State) (sail addr txid : Nat), let b := s.start; let q : Block := (b.arrives (.snpInv sail addr txid)).2; let line : Nat := addr / 64; let part : Nat := ((q.txnOf line).map (·.part)).getD noPart; let c : Block := (q.pmu sail 0x05 (some part) 1).pmu sail 0x06 (some part) (ofBool ((q.wbOf sail line).isSome || decide ((q.l3At sail line).st ≠ .i))); let e : L3Line := c.l3At sail line; let next : LSt := .i; let d : Block := (c.privClean sail line).setL3 sail line { e with st := next }; b.dev ≠ .off → (b.arrives (.snpInv sail addr txid)).1 = true → q.active? sail = true → c.wbOf sail line = none → exec (.snpInv sail addr txid) s = .next (s.withBlk (d.emit (.snpResp sail part txid addr next false false))))
    ∧ (∀ (s : State) (sail slice set : Nat), let b := s.start; let q : Block := (b.arrives (.tagRead sail slice set)).2; b.dev ≠ .off → (b.arrives (.tagRead sail slice set)).1 = false → exec (.tagRead sail slice set) s = .next (s.withBlk (q)))
    ∧ (∀ (s : State) (sail slice set : Nat), let b := s.start; let q : Block := (b.arrives (.tagRead sail slice set)).2; b.dev ≠ .off → (b.arrives (.tagRead sail slice set)).1 = true → q.active? sail = false → exec (.tagRead sail slice set) s = .next (s.withBlk (q)))
    ∧ (∀ (s : State) (sail slice set : Nat), let b := s.start; let q : Block := (b.arrives (.tagRead sail slice set)).2; b.dev ≠ .off → (b.arrives (.tagRead sail slice set)).1 = true → q.active? sail = true → exec (.tagRead sail slice set) s = .next (s.withBlk (q.emit (.tagResp sail slice set (q.tagsOf sail slice set)))))
    ∧ (∀ (s : State) (sail txid addr : Nat) (st : LineSt) (hasData evicting : Bool), let b := s.start; let q : Block := (b.arrives (.snpResp sail txid addr st hasData evicting)).2; b.dev ≠ .off → (b.arrives (.snpResp sail txid addr st hasData evicting)).1 = false → exec (.snpResp sail txid addr st hasData evicting) s = .next (s.withBlk (q)))
    ∧ (∀ (s : State) (sail txid addr : Nat) (st : LineSt) (hasData evicting : Bool), let b := s.start; let q : Block := (b.arrives (.snpResp sail txid addr st hasData evicting)).2; b.dev ≠ .off → (b.arrives (.snpResp sail txid addr st hasData evicting)).1 = true → q.active? sail = false → exec (.snpResp sail txid addr st hasData evicting) s = .next (s.withBlk (q)))
    ∧ (∀ (s : State) (sail txid addr : Nat) (st : LineSt) (hasData evicting : Bool), let b := s.start; let q : Block := (b.arrives (.snpResp sail txid addr st hasData evicting)).2; b.dev ≠ .off → (b.arrives (.snpResp sail txid addr st hasData evicting)).1 = true → q.active? sail = true → (match q.txnOf (addr / 64) with | none => true | some t => t.txid ≠ txid || !t.awaitResp.contains sail || !(match t.snp with | some k => snpAnswers k st hasData evicting | none => false)) = true → exec (.snpResp sail txid addr st hasData evicting) s = .next (s.withBlk (q.protoError (midL3 sail))))
    ∧ (∀ (s : State) (sail txid addr : Nat) (st : LineSt) (hasData evicting : Bool) (t : Txn) (k : SnpKind), let b := s.start; let q : Block := (b.arrives (.snpResp sail txid addr st hasData evicting)).2; let c : Block := q.when evicting (fun b => b.record (addr / 64) sail .i 0); let u : Txn := { t with awaitResp := t.awaitResp.filter (· ≠ sail), answers := if evicting then t.answers else t.answers ++ [(sail, st)], awaitData := if hasData && !t.gotData.contains sail then t.awaitData ++ [sail] else t.awaitData, evicting := t.evicting || (evicting && hasData) }; b.dev ≠ .off → (b.arrives (.snpResp sail txid addr st hasData evicting)).1 = true → q.active? sail = true → q.txnOf (addr / 64) = some t → t.txid = txid → t.awaitResp.contains sail = true → t.snp = some k → snpAnswers k st hasData evicting = true → exec (.snpResp sail txid addr st hasData evicting) s = .next (s.withBlk ((c.tryFinish u).settle)))
    ∧ (∀ (s : State) (sail txid addr data : Nat) (poison : Bool), let b := s.start; let q : Block := (b.arrives (.snpData sail txid addr data poison)).2; b.dev ≠ .off → (b.arrives (.snpData sail txid addr data poison)).1 = false → exec (.snpData sail txid addr data poison) s = .next (s.withBlk (q)))
    ∧ (∀ (s : State) (sail txid addr data : Nat) (poison : Bool), let b := s.start; let q : Block := (b.arrives (.snpData sail txid addr data poison)).2; b.dev ≠ .off → (b.arrives (.snpData sail txid addr data poison)).1 = true → q.active? sail = false → exec (.snpData sail txid addr data poison) s = .next (s.withBlk (q)))
    ∧ (∀ (s : State) (sail txid addr data : Nat) (poison : Bool), let b := s.start; let q : Block := (b.arrives (.snpData sail txid addr data poison)).2; b.dev ≠ .off → (b.arrives (.snpData sail txid addr data poison)).1 = true → q.active? sail = true → (match q.txnOf (addr / 64) with | none => true | some t => t.txid ≠ txid || !(t.awaitData.contains sail || (t.awaitResp.contains sail && !t.gotData.contains sail))) = true → exec (.snpData sail txid addr data poison) s = .next (s.withBlk (q.protoError (midL3 sail))))
    ∧ (∀ (s : State) (sail txid addr data : Nat) (poison : Bool) (t : Txn), let b := s.start; let q : Block := (b.arrives (.snpData sail txid addr data poison)).2; b.dev ≠ .off → (b.arrives (.snpData sail txid addr data poison)).1 = true → q.active? sail = true → q.txnOf (addr / 64) = some t → t.txid = txid → t.awaitData.contains sail = true → exec (.snpData sail txid addr data poison) s = .next (s.withBlk ((q.tryFinish { t with awaitData := t.awaitData.filter (· ≠ sail), sdata := some data, spoison := poison }).settle)))
    ∧ (∀ (s : State) (sail txid addr data : Nat) (poison : Bool) (t : Txn), let b := s.start; let q : Block := (b.arrives (.snpData sail txid addr data poison)).2; b.dev ≠ .off → (b.arrives (.snpData sail txid addr data poison)).1 = true → q.active? sail = true → q.txnOf (addr / 64) = some t → t.txid = txid → t.awaitData.contains sail = false → t.awaitResp.contains sail = true → t.gotData.contains sail = false → exec (.snpData sail txid addr data poison) s = .next (s.withBlk (q.putTxn { t with gotData := t.gotData ++ [sail], sdata := some data, spoison := poison })))
    ∧ (∀ (s : State) (sail slice set : Nat) (tags : List TagInfo), let b := s.start; let q : Block := (b.arrives (.tagResp sail slice set tags)).2; b.dev ≠ .off → (b.arrives (.tagResp sail slice set tags)).1 = false → exec (.tagResp sail slice set tags) s = .next (s.withBlk (q)))
    ∧ (∀ (s : State) (sail slice set : Nat) (tags : List TagInfo), let b := s.start; let q : Block := (b.arrives (.tagResp sail slice set tags)).2; b.dev ≠ .off → (b.arrives (.tagResp sail slice set tags)).1 = true → q.active? sail = false → exec (.tagResp sail slice set tags) s = .next (s.withBlk (q)))
    ∧ (∀ (s : State) (sail slice set : Nat) (tags : List TagInfo), let b := s.start; let q : Block := (b.arrives (.tagResp sail slice set tags)).2; b.dev ≠ .off → (b.arrives (.tagResp sail slice set tags)).1 = true → q.active? sail = true → q.coh.rebuild.any (fun r => r.bank = slice && r.set = set && r.await.contains sail) = false → exec (.tagResp sail slice set tags) s = .next (s.withBlk (q.protoError (midL3 sail))))
    ∧ (∀ (s : State) (sail slice set : Nat) (tags : List TagInfo), let b := s.start; let q : Block := (b.arrives (.tagResp sail slice set tags)).2; let here : Nat → Bool := fun l => decide (lineSlice l = slice) && decide (lineSet l = set); let c : Block := q.modCoh fun c => { c with filt := c.filt.filter (fun e => !(decide (e.1 % 16 = sail) && here (e.1 / 16))) }; let d : Block := c.forL (tags.filter (fun t => t.st ≠ .i && here t.line)) fun t b => b.modCoh fun c => { c with filt := SMap.set {} (t.line * 16 + sail) ⟨t.st.filt, t.way⟩ c.filt }; b.dev ≠ .off → (b.arrives (.tagResp sail slice set tags)).1 = true → q.active? sail = true → q.coh.rebuild.any (fun r => r.bank = slice && r.set = set && r.await.contains sail) = true → exec (.tagResp sail slice set tags) s = .next (s.withBlk (d.tagsHere sail slice)))
    ∧ (∀ (s : State) (mid txid addr : Nat), let b := s.start; let q : Block := (b.arrives (.compMsg mid txid addr)).2; b.dev ≠ .off → (b.arrives (.compMsg mid txid addr)).1 = false → exec (.compMsg mid txid addr) s = .next (s.withBlk (q)))
    ∧ (∀ (s : State) (mid txid addr : Nat), let b := s.start; let q : Block := (b.arrives (.compMsg mid txid addr)).2; b.dev ≠ .off → (b.arrives (.compMsg mid txid addr)).1 = true → q.speaks mid = false → exec (.compMsg mid txid addr) s = .next (s.withBlk (q)))
    ∧ (∀ (s : State) (mid txid addr : Nat), let b := s.start; let q : Block := (b.arrives (.compMsg mid txid addr)).2; b.dev ≠ .off → (b.arrives (.compMsg mid txid addr)).1 = true → q.speaks mid = true → q.reqOf mid txid = none → exec (.compMsg mid txid addr) s = .next (s.withBlk (q.lateAnswer mid txid)))
    ∧ (∀ (s : State) (mid txid addr : Nat) (r : OpenReq), let b := s.start; let q : Block := (b.arrives (.compMsg mid txid addr)).2; let c : Block := if r.timedOut then q.lateAnswer mid txid else q.dropReq mid txid; b.dev ≠ .off → (b.arrives (.compMsg mid txid addr)).1 = true → q.speaks mid = true → q.reqOf mid txid = some r → sailOf mid = none → exec (.compMsg mid txid addr) s = .next (s.withBlk (c)))
    ∧ (∀ (s : State) (mid txid addr : Nat) (r : OpenReq) (n : Nat), let b := s.start; let q : Block := (b.arrives (.compMsg mid txid addr)).2; let c : Block := if r.timedOut then q.lateAnswer mid txid else q.dropReq mid txid; let line : Nat := addr / 64; let e : L3Line := c.l3At n line; b.dev ≠ .off → (b.arrives (.compMsg mid txid addr)).1 = true → q.speaks mid = true → q.reqOf mid txid = some r → sailOf mid = some n → ((r.kind ≠ .upgrade ∧ r.kind ≠ .dirtyNote) ∨ e.st = .i) → exec (.compMsg mid txid addr) s = .next (s.withBlk (c.l3On n)))
    ∧ (∀ (s : State) (mid txid addr : Nat) (r : OpenReq) (n : Nat), let b := s.start; let q : Block := (b.arrives (.compMsg mid txid addr)).2; let c : Block := if r.timedOut then q.lateAnswer mid txid else q.dropReq mid txid; let line : Nat := addr / 64; let e : L3Line := c.l3At n line; b.dev ≠ .off → (b.arrives (.compMsg mid txid addr)).1 = true → q.speaks mid = true → q.reqOf mid txid = some r → sailOf mid = some n → r.kind = .upgrade → e.st ≠ .i → r.timedOut = false → exec (.compMsg mid txid addr) s = .next (s.withBlk ((c.setL3 n line { e with st := .m }).l3On n)))
    ∧ (∀ (s : State) (mid txid addr : Nat) (r : OpenReq) (n : Nat), let b := s.start; let q : Block := (b.arrives (.compMsg mid txid addr)).2; let c : Block := if r.timedOut then q.lateAnswer mid txid else q.dropReq mid txid; let line : Nat := addr / 64; let e : L3Line := c.l3At n line; b.dev ≠ .off → (b.arrives (.compMsg mid txid addr)).1 = true → q.speaks mid = true → q.reqOf mid txid = some r → sailOf mid = some n → r.kind = .upgrade → e.st ≠ .i → r.timedOut = true → exec (.compMsg mid txid addr) s = .next (s.withBlk (((c.setL3 n line { e with st := .m }).leave n line).l3On n)))
    ∧ (∀ (s : State) (mid txid addr : Nat) (r : OpenReq) (n : Nat), let b := s.start; let q : Block := (b.arrives (.compMsg mid txid addr)).2; let c : Block := if r.timedOut then q.lateAnswer mid txid else q.dropReq mid txid; let line : Nat := addr / 64; let e : L3Line := c.l3At n line; b.dev ≠ .off → (b.arrives (.compMsg mid txid addr)).1 = true → q.speaks mid = true → q.reqOf mid txid = some r → sailOf mid = some n → r.kind = .dirtyNote → e.st ≠ .i → exec (.compMsg mid txid addr) s = .next (s.withBlk ((c.setL3 n line { e with noteOpen := false }).l3On n)))
    ∧ (∀ (s : State) (mid txid addr data : Nat) (st : LineSt) (poison : Bool), let b := s.start; let q : Block := (b.arrives (.compData mid txid addr st data poison)).2; b.dev ≠ .off → (b.arrives (.compData mid txid addr st data poison)).1 = false → exec (.compData mid txid addr st data poison) s = .next (s.withBlk (q)))
    ∧ (∀ (s : State) (mid txid addr data : Nat) (st : LineSt) (poison : Bool), let b := s.start; let q : Block := (b.arrives (.compData mid txid addr st data poison)).2; b.dev ≠ .off → (b.arrives (.compData mid txid addr st data poison)).1 = true → q.speaks mid = false → exec (.compData mid txid addr st data poison) s = .next (s.withBlk (q)))
    ∧ (∀ (s : State) (mid txid addr data : Nat) (st : LineSt) (poison : Bool), let b := s.start; let q : Block := (b.arrives (.compData mid txid addr st data poison)).2; b.dev ≠ .off → (b.arrives (.compData mid txid addr st data poison)).1 = true → q.speaks mid = true → q.reqOf mid txid = none → exec (.compData mid txid addr st data poison) s = .next (s.withBlk (q.lateAnswer mid txid)))
    ∧ (∀ (s : State) (mid txid addr data : Nat) (st : LineSt) (poison : Bool) (r : OpenReq), let b := s.start; let q : Block := (b.arrives (.compData mid txid addr st data poison)).2; b.dev ≠ .off → (b.arrives (.compData mid txid addr st data poison)).1 = true → q.speaks mid = true → q.reqOf mid txid = some r → ¬ (mid % 32 = 17 ∧ mid / 32 < 12 ∧ st ≠ .i) → exec (.compData mid txid addr st data poison) s = .next (s.withBlk (if r.timedOut then q.lateAnswer mid txid else q.dropReq mid txid)))
    ∧ (∀ (s : State) (mid txid addr data : Nat) (st : LineSt) (poison : Bool) (r : OpenReq), let b := s.start; let q : Block := (b.arrives (.compData mid txid addr st data poison)).2; let n : Nat := mid / 32; let line : Nat := addr / 64; let c : Block := (((q.dropReq mid txid).install n line r.way st data poison).pmu n 0x0B (some r.part) 1).when (r.mnt && !r.timedOut) (fun b => b.inc L3_MNT_COUNT_LINES n); b.dev ≠ .off → (b.arrives (.compData mid txid addr st data poison)).1 = true → q.speaks mid = true → q.reqOf mid txid = some r → (mid % 32 = 17 ∧ mid / 32 < 12 ∧ st ≠ .i) → r.timedOut = false ∧ c.wayEnabled n (lineSlice line) r.way = true ∧ (c.sail n).op0 = 0 → exec (.compData mid txid addr st data poison) s = .next (s.withBlk (c.l3On n)))
    ∧ (∀ (s : State) (mid txid addr data : Nat) (st : LineSt) (poison : Bool) (r : OpenReq), let b := s.start; let q : Block := (b.arrives (.compData mid txid addr st data poison)).2; let n : Nat := mid / 32; let line : Nat := addr / 64; let c : Block := (((q.dropReq mid txid).install n line r.way st data poison).pmu n 0x0B (some r.part) 1).when (r.mnt && !r.timedOut) (fun b => b.inc L3_MNT_COUNT_LINES n); b.dev ≠ .off → (b.arrives (.compData mid txid addr st data poison)).1 = true → q.speaks mid = true → q.reqOf mid txid = some r → (mid % 32 = 17 ∧ mid / 32 < 12 ∧ st ≠ .i) → ¬ (r.timedOut = false ∧ c.wayEnabled n (lineSlice line) r.way = true ∧ (c.sail n).op0 = 0) → exec (.compData mid txid addr st data poison) s = .next (s.withBlk ((c.leave n line).l3On n)))
    ∧ (∀ (s : State) (sail addr : Nat), let b := s.start; let q : Block := (b.arrives (.evictAck sail addr)).2; b.dev ≠ .off → (b.arrives (.evictAck sail addr)).1 = false → exec (.evictAck sail addr) s = .next (s.withBlk (q)))
    ∧ (∀ (s : State) (sail addr : Nat), let b := s.start; let q : Block := (b.arrives (.evictAck sail addr)).2; b.dev ≠ .off → (b.arrives (.evictAck sail addr)).1 = true → exec (.evictAck sail addr) s = .next (s.withBlk ((q.modCoh fun c => { c with wb := c.wb.filter (fun w => !(decide (w.sail = sail) && decide (w.line = addr / 64))), reqs := c.reqs.filter (fun r => !(decide (r.mid = midL3 sail) && decide (r.line = addr / 64) && (match r.kind with | .wbDirty => true | .evictClean => true | _ => false))) }).l3On sail)))
    ∧ (∀ (s : State) (mid txid addr k : Nat), let b := s.start; let q : Block := (b.arrives (.retryMsg mid txid addr k)).2; b.dev ≠ .off → (b.arrives (.retryMsg mid txid addr k)).1 = false → exec (.retryMsg mid txid addr k) s = .next (s.withBlk (q)))
    ∧ (∀ (s : State) (mid txid addr k : Nat), let b := s.start; let q : Block := (b.arrives (.retryMsg mid txid addr k)).2; b.dev ≠ .off → (b.arrives (.retryMsg mid txid addr k)).1 = true → (match q.reqOf mid txid with | none => true | some r => r.line ≠ addr / 64) = true → exec (.retryMsg mid txid addr k) s = .next (s.withBlk (q)))
    ∧ (∀ (s : State) (mid txid addr k : Nat) (r : OpenReq), let b := s.start; let q : Block := (b.arrives (.retryMsg mid txid addr k)).2; b.dev ≠ .off → (b.arrives (.retryMsg mid txid addr k)).1 = true → q.reqOf mid txid = some r → r.line = addr / 64 → r.timedOut = true → exec (.retryMsg mid txid addr k) s = .next (s.withBlk (q.lateAnswer mid txid)))
    ∧ (∀ (s : State) (mid txid addr k : Nat) (r : OpenReq), let b := s.start; let q : Block := (b.arrives (.retryMsg mid txid addr k)).2; b.dev ≠ .off → (b.arrives (.retryMsg mid txid addr k)).1 = true → q.reqOf mid txid = some r → r.line = addr / 64 → r.timedOut = false → exec (.retryMsg mid txid addr k) s = .next (s.withBlk (q.modReq mid txid (fun r => { r with attempt := k, backoff := true }))))
    ∧ (∀ (s : State) (mid txid : Nat), let b := s.start; (match b.reqOf mid txid with | none => true | some r => !r.backoff) = true → exec (.retryBackoffExpiry mid txid) s = .next (s.withBlk (b)))
    ∧ (∀ (s : State) (mid txid : Nat) (r : OpenReq), let b := s.start; b.dev ≠ .off → b.reqOf mid txid = some r → r.backoff = true → r.timedOut = true → exec (.retryBackoffExpiry mid txid) s = .next (s.withBlk (b.dropReq mid txid)))
    ∧ (∀ (s : State) (mid txid : Nat) (r : OpenReq), let b := s.start; b.dev ≠ .off → b.reqOf mid txid = some r → r.backoff = true → r.timedOut = false → exec (.retryBackoffExpiry mid txid) s = .next (s.withBlk ((b.modReq mid txid (fun r => { r with backoff := false })).emit (.request r.kind mid r.part txid (r.line * 64) r.way))))

/-- A requester timeout of a request that has not timed out marks it, logs 0x2403 and ends what waited for it: a starving record goes; a WrFull or WrPart completes at its home without effect; a requester other than an L3 gets an error completion; a sail's maintenance operation that waited for the line fails and waits no more. A home timeout of the transaction open for the line, with its master and ID, counts and declares the first sail awaited LOST with 0x3404, or with none awaited raises 0x4405. An error of a filter bank in FILTER mode: corrected, it is counted and logged once per turn as 0x1401; not, it is counted with its bank, the bank is rebuilt from set 0 and 0x2406 names it. A rebuild that awaits no answer and whose set has no open transaction sends TagRead to every ACTIVE sail, or with none takes the set as read. The tracking mode changes in SELFTEST and SERVICE only: with a line in an L3, a writeback, or a request open or waiting, or entries in the directory on a change to FILTER, it is refused with 0x2406 detail 1; else every slice takes the mode and filter, directory and rebuild are empty. The end of the marking writes the poison of a sail's LOST-DIRTY lines, clears POISONING and logs 0x040B. Everything else does nothing. -/
def Obligations.CoherenceTimeouts : Prop :=
  (∀ (s : State) (mid txid : Nat), let b := s.start; (match b.reqOf mid txid with | none => true | some r => r.timedOut) = true → exec (.requesterTimeout mid txid) s = .next (s.withBlk (b)))
    ∧ (∀ (s : State) (mid txid : Nat) (r : OpenReq), let b := s.start; let c : Block := ((b.modReq mid txid (fun r => { r with timedOut := true })).note { code := 0x2403, mid := some mid, addr := some (r.line * 64) }).modCoh (fun c => { c with starving := c.starving.filter (fun e => e.2 ≠ (r.mid, r.txid)) }); let f : Txn → Txn := fun t => if t.mid = r.mid && t.txid = r.txid && t.line = r.line && t.kind = r.kind then { t with dropped := true } else t; let d : Block := if r.kind = .wrFull ∨ r.kind = .wrPart then c.modCoh (fun c => { c with txns := c.txns.map f, waiting := c.waiting.map f }) else c; b.dev ≠ .off → b.reqOf mid txid = some r → r.timedOut = false → r.mid % 32 ≠ 17 → exec (.requesterTimeout mid txid) s = .next (s.withBlk (d.emit (.errComp r.mid r.part r.txid (r.line * 64)))))
    ∧ (∀ (s : State) (mid txid : Nat) (r : OpenReq), let b := s.start; let c : Block := ((b.modReq mid txid (fun r => { r with timedOut := true })).note { code := 0x2403, mid := some mid, addr := some (r.line * 64) }).modCoh (fun c => { c with starving := c.starving.filter (fun e => e.2 ≠ (r.mid, r.txid)) }); let f : Txn → Txn := fun t => if t.mid = r.mid && t.txid = r.txid && t.line = r.line && t.kind = r.kind then { t with dropped := true } else t; let d : Block := if r.kind = .wrFull ∨ r.kind = .wrPart then c.modCoh (fun c => { c with txns := c.txns.map f, waiting := c.waiting.map f }) else c; let n : Nat := r.mid / 32; b.dev ≠ .off → b.reqOf mid txid = some r → r.timedOut = false → r.mid % 32 = 17 → ¬ (r.mid % 32 = 17 ∧ n < 12 ∧ (r.mnt = true ∨ (d.sail n).mntWait.contains r.line = true)) → exec (.requesterTimeout mid txid) s = .next (s.withBlk (d)))
    ∧ (∀ (s : State) (mid txid : Nat) (r : OpenReq), let b := s.start; let c : Block := ((b.modReq mid txid (fun r => { r with timedOut := true })).note { code := 0x2403, mid := some mid, addr := some (r.line * 64) }).modCoh (fun c => { c with starving := c.starving.filter (fun e => e.2 ≠ (r.mid, r.txid)) }); let f : Txn → Txn := fun t => if t.mid = r.mid && t.txid = r.txid && t.line = r.line && t.kind = r.kind then { t with dropped := true } else t; let d : Block := if r.kind = .wrFull ∨ r.kind = .wrPart then c.modCoh (fun c => { c with txns := c.txns.map f, waiting := c.waiting.map f }) else c; let n : Nat := r.mid / 32; b.dev ≠ .off → b.reqOf mid txid = some r → r.timedOut = false → r.mid % 32 = 17 ∧ n < 12 ∧ (r.mnt = true ∨ (d.sail n).mntWait.contains r.line = true) → exec (.requesterTimeout mid txid) s = .next (s.withBlk (d.modSail n fun s => { s with mntFail := true, mntWait := s.mntWait.filter (· ≠ r.line) })))
    ∧ (∀ (s : State) (mid txid addr : Nat), let b := s.start; (match b.txnOf (addr / 64) with | none => true | some t => t.mid ≠ mid || t.txid ≠ txid) = true → exec (.homeTimeout mid txid addr) s = .next (s.withBlk (b)))
    ∧ (∀ (s : State) (mid txid addr : Nat) (n : Nat) (t : Txn) (l : List Nat), let b := s.start; b.dev ≠ .off → b.txnOf (addr / 64) = some t → t.mid = mid → t.txid = txid → t.awaitResp ++ t.awaitData = n :: l → exec (.homeTimeout mid txid addr) s = .next (s.withBlk ((b.inc HOM_TIMEOUT_COUNT (b.homeOf addr)).sailLost n 0x3404 5)))
    ∧ (∀ (s : State) (mid txid addr : Nat) (t : Txn), let b := s.start; b.dev ≠ .off → b.txnOf (addr / 64) = some t → t.mid = mid → t.txid = txid → t.awaitResp = [] → t.awaitData = [] → exec (.homeTimeout mid txid addr) s = .next (s.withBlk ((b.inc HOM_TIMEOUT_COUNT (b.homeOf addr)).raise { code := 0x4405, mid := some mid, addr := some addr })))
    ∧ (∀ (s : State) (bank : Nat) (corrected : Bool), let b := s.start; (b.filterMode = false ∨ 8 ≤ bank) → exec (.filterUncorrectable bank corrected) s = .next (s.withBlk (b)))
    ∧ (∀ (s : State) (bank : Nat) (corrected : Bool), let b := s.start; b.dev ≠ .off → b.filterMode = true → bank < 8 → corrected = true → exec (.filterUncorrectable bank corrected) s = .next (s.withBlk ((b.inc HOM_SFSTAT_CECNT).noteOnce 0 { code := 0x1401 })))
    ∧ (∀ (s : State) (bank : Nat) (corrected : Bool), let b := s.start; b.dev ≠ .off → b.filterMode = true → bank < 8 → corrected = false → exec (.filterUncorrectable bank corrected) s = .next (s.withBlk ((((b.inc HOM_SFERR_UECNT).put HOM_SFERR_LASTBANK bank).modCoh (fun c => { c with rebuild := c.rebuild.filter (fun r => r.bank ≠ bank) ++ [{ bank := bank }] })).showRebuild.note { code := 0x2406, detail := bank })))
    ∧ (∀ (s : State) (bank : Nat), let b := s.start; b.coh.rebuild.find? (fun r => r.bank = bank) = none → exec (.rebuildSet bank) s = .next (s.withBlk (b)))
    ∧ (∀ (s : State) (bank : Nat) (r : Rebuild), let b := s.start; b.coh.rebuild.find? (fun r => r.bank = bank) = some r → (r.await ≠ [] ∨ b.coh.txns.any (fun t => lineSlice t.line = bank && lineSet t.line = r.set) = true) → exec (.rebuildSet bank) s = .next (s.withBlk (b)))
    ∧ (∀ (s : State) (bank : Nat) (r : Rebuild), let b := s.start; let c : Block := b.modCoh (fun c => { c with rebuild := c.rebuild.map (fun q => if q.bank = bank then { q with await := b.activeSails } else q) }); b.dev ≠ .off → b.coh.rebuild.find? (fun r => r.bank = bank) = some r → r.await = [] → b.coh.txns.any (fun t => lineSlice t.line = bank && lineSet t.line = r.set) = false → b.activeSails ≠ [] → exec (.rebuildSet bank) s = .next (s.withBlk (c.forL b.activeSails (fun n b => b.emit (.tagRead n bank r.set)))))
    ∧ (∀ (s : State) (bank : Nat) (r : Rebuild), let b := s.start; let c : Block := b.modCoh (fun c => { c with rebuild := c.rebuild.map (fun q => if q.bank = bank then { q with await := b.activeSails } else q) }); b.dev ≠ .off → b.coh.rebuild.find? (fun r => r.bank = bank) = some r → r.await = [] → b.coh.txns.any (fun t => lineSlice t.line = bank && lineSet t.line = r.set) = false → b.activeSails = [] → exec (.rebuildSet bank) s = .next (s.withBlk (c.setRead bank)))
    ∧ (∀ (s : State) (filter : Bool), let b := s.start; b.dev ≠ .selftest → b.dev ≠ .service → exec (.trackingModeSwitch filter) s = .next (s.withBlk (b)))
    ∧ (∀ (s : State) (filter : Bool), let b := s.start; b.dev = .selftest ∨ b.dev = .service → ¬ (b.coh.l3 = [] ∧ b.coh.wb = [] ∧ b.coh.txns = [] ∧ b.coh.waiting = [] ∧ (filter = true → b.coh.dir = [])) → exec (.trackingModeSwitch filter) s = .next (s.withBlk (b.note { code := 0x2406, detail := 1 })))
    ∧ (∀ (s : State) (filter : Bool), let b := s.start; b.dev = .selftest ∨ b.dev = .service → (b.coh.l3 = [] ∧ b.coh.wb = [] ∧ b.coh.txns = [] ∧ b.coh.waiting = [] ∧ (filter = true → b.coh.dir = [])) → exec (.trackingModeSwitch filter) s = .next (s.withBlk (((b.forN 8 (fun h b => b.put HOM_CFG_MODE (ofBool filter) h)).modCoh (fun c => { c with dir := [], filt := [], rebuild := [] })).showRebuild)))
    ∧ (∀ (s : State) (sail : Nat), let b := s.start; (12 ≤ sail ∨ b.isSet GOV_SAILSTAT_POISONING sail = false) → exec (.poisonMarkingComplete sail) s = .next (s.withBlk (b)))
    ∧ (∀ (s : State) (sail : Nat), let b := s.start; b.dev ≠ .off → sail < 12 → b.isSet GOV_SAILSTAT_POISONING sail = true → exec (.poisonMarkingComplete sail) s = .next (s.withBlk (((b.markPoison sail).put GOV_SAILSTAT_POISONING 0 sail).note { code := 0x040B })))

/-- An error of a lane that has not failed: corrected, it is counted for the lane and in CORR and logged once per turn as 0x1507, and the seventeenth of a turn fails the lane; uncorrectable, the last data flit that crossed goes on with FPOIS and the lane fails. A lane that fails halves its link, raises 0x3508, with detail 1 where the planned load is above 750, and the tables are rebuilt; with the other lane failed already it raises 0x450D. An uncorrectable header drops the packet whose head waits in a buffer of the router, takes its message and its count away, adds to DROP and logs 0x250C. A routing-table write is taken from the governor alone and for a router, a word and a bank in range, the bank inactive, with no packets and nothing draining; any other gets an access error. A swap request of the governor sets PEND, of another master gets an access error. Once draining has no old packets it ends with DRAINTIME and 0x050A, and a rebuild that waited follows. Packets of the old epoch at the second boundary after the swap raise 0x4506 with OVERRUN. Everything else does nothing. -/
def Obligations.MillraceRows : Prop :=
  (∀ (s : State) (link lane : Nat) (corrected : Bool), let b := s.start; (112 ≤ link ∨ 2 ≤ lane ∨ b.mesh.lanes.contains (link * 2 + lane) = true) → exec (.meshLaneFail link lane corrected) s = .next (s.withBlk (b)))
    ∧ (∀ (s : State) (link lane : Nat) (corrected : Bool), let b := s.start; let c : Block := (({ b with net := { b.net with corr := SMap.upd 0 (link * 2 + lane) (· + 1) b.net.corr } } : Block).inc MRC_ERRCNT_CORR).noteOnce 0 { code := 0x1507 }; b.dev ≠ .off → ¬ (112 ≤ link ∨ 2 ≤ lane ∨ b.mesh.lanes.contains (link * 2 + lane) = true) → corrected = true → SMap.get 0 (link * 2 + lane) c.net.corr ≤ 16 → exec (.meshLaneFail link lane corrected) s = .next (s.withBlk (c)))
    ∧ (∀ (s : State) (link lane : Nat) (corrected : Bool), let b := s.start; let c : Block := (({ b with net := { b.net with corr := SMap.upd 0 (link * 2 + lane) (· + 1) b.net.corr } } : Block).inc MRC_ERRCNT_CORR).noteOnce 0 { code := 0x1507 }; let d : Block := if corrected then c else b.poisonFlit link; let e : Block := d.modMesh (fun m => { m with lanes := sinsert (link * 2 + lane) m.lanes }); b.dev ≠ .off → ¬ (112 ≤ link ∨ 2 ≤ lane ∨ b.mesh.lanes.contains (link * 2 + lane) = true) → (corrected = false ∨ 16 < SMap.get 0 (link * 2 + lane) c.net.corr) → d.mesh.lanes.contains (link * 2 + (1 - lane)) = true → exec (.meshLaneFail link lane corrected) s = .next (s.withBlk (e.raise { code := 0x450D })))
    ∧ (∀ (s : State) (link lane : Nat) (corrected : Bool), let b := s.start; let c : Block := (({ b with net := { b.net with corr := SMap.upd 0 (link * 2 + lane) (· + 1) b.net.corr } } : Block).inc MRC_ERRCNT_CORR).noteOnce 0 { code := 0x1507 }; let d : Block := if corrected then c else b.poisonFlit link; let e : Block := d.modMesh (fun m => { m with lanes := sinsert (link * 2 + lane) m.lanes }); b.dev ≠ .off → ¬ (112 ≤ link ∨ 2 ≤ lane ∨ b.mesh.lanes.contains (link * 2 + lane) = true) → (corrected = false ∨ 16 < SMap.get 0 (link * 2 + lane) c.net.corr) → d.mesh.lanes.contains (link * 2 + (1 - lane)) = false → exec (.meshLaneFail link lane corrected) s = .next (s.withBlk (((e.setR .MRC_HALF (Nat.lor (e.getR .MRC_HALF (link / 32)) (2 ^ (link % 32))) (link / 32)).raise { code := 0x3508, detail := ofBool (decide (750 < (e.linkLoads (e.get MRC_EPOCH_CUR)).getD link 0)) }).reroute)))
    ∧ (∀ (s : State) (router : Nat), let b := s.start; b.dev ≠ .off → (64 ≤ router ∨ ((b.net.ins.filter fun e => e.1 / 64 = router).flatMap (·.2)).find? (fun f => !f.body) = none) → exec (.meshHeaderUncorrectable router) s = .next (s.withBlk ((b.inc MRC_ERRCNT_DROP).note { code := 0x250C })))
    ∧ (∀ (s : State) (router : Nat) (f : Flit), let b := s.start; let o : Out := f.pkt.msg; let n : Net := b.net; let c : Block := { b with net := { n with ins := SMap.mapV [] (fun _ l => l.filter fun g => g.pkt.msg ≠ o) n.ins, src := SMap.mapV [] (fun _ l => l.filter fun g => !(g.body && decide (g.pkt.msg = o))) n.src, br := SMap.mapV [] (fun _ l => l.filter fun g => !(g.body && decide (g.pkt.msg = o))) n.br, outs := SMap.mapV {} (fun _ x => { x with lock := x.lock.filter fun l => l.2 ≠ o }) n.outs, box := n.box.erase o, fresh := n.fresh.erase o } }; b.dev ≠ .off → router < 64 → ((b.net.ins.filter fun e => e.1 / 64 = router).flatMap (·.2)).find? (fun f => !f.body) = some f → exec (.meshHeaderUncorrectable router) s = .next (s.withBlk (((c.put MRC_DRAIN_COUNT (c.get MRC_DRAIN_COUNT f.pkt.epoch - 1) f.pkt.epoch).inc MRC_ERRCNT_DROP).note { code := 0x250C })))
    ∧ (∀ (s : State) (mid bank router index value : Nat), let b := s.start; b.dev ≠ .off → (mid = midGov ∧ bank < 2 ∧ router < 64 ∧ index < 8 ∧ bank ≠ b.get MRC_EPOCH_CUR ∧ b.get MRC_DRAIN_COUNT bank = 0 ∧ b.isSet MRC_EPOCH_DRAINING = false) → exec (.routingTableWrite mid bank router index value) s = .next (s.withBlk (b.setR .MRC_RTBL value bank router index)))
    ∧ (∀ (s : State) (mid bank router index value : Nat), let b := s.start; b.dev ≠ .off → ¬ (mid = midGov ∧ bank < 2 ∧ router < 64 ∧ index < 8 ∧ bank ≠ b.get MRC_EPOCH_CUR ∧ b.get MRC_DRAIN_COUNT bank = 0 ∧ b.isSet MRC_EPOCH_DRAINING = false) → exec (.routingTableWrite mid bank router index value) s = .next (s.withBlk (b.emit .accessError)))
    ∧ (∀ (s : State) (mid : Nat), let b := s.start; b.dev ≠ .off → mid = midGov → exec (.mrcSwapRequest mid) s = .next (s.withBlk (b.put MRC_EPOCH_PEND 1)))
    ∧ (∀ (s : State) (mid : Nat), let b := s.start; b.dev ≠ .off → mid ≠ midGov → exec (.mrcSwapRequest mid) s = .next (s.withBlk (b.emit .accessError)))
    ∧ (∀ (s : State), let b := s.start; (b.isSet MRC_EPOCH_DRAINING = false ∨ b.get MRC_DRAIN_COUNT (1 - b.get MRC_EPOCH_CUR) ≠ 0) → exec (.routingDrainComplete) s = .next (s.withBlk (b)))
    ∧ (∀ (s : State), let b := s.start; let c : Block := (((b.put MRC_EPOCH_DRAINING 0).put MRC_EPOCH_DRAINTIME (min 65535 ((b.timeNs - b.mesh.swapNs) / 10)))).note { code := 0x050A }; b.dev ≠ .off → b.isSet MRC_EPOCH_DRAINING = true → b.get MRC_DRAIN_COUNT (1 - b.get MRC_EPOCH_CUR) = 0 → b.mesh.wantSwap = false → exec (.routingDrainComplete) s = .next (s.withBlk (c)))
    ∧ (∀ (s : State), let b := s.start; let c : Block := (((b.put MRC_EPOCH_DRAINING 0).put MRC_EPOCH_DRAINTIME (min 65535 ((b.timeNs - b.mesh.swapNs) / 10)))).note { code := 0x050A }; b.dev ≠ .off → b.isSet MRC_EPOCH_DRAINING = true → b.get MRC_DRAIN_COUNT (1 - b.get MRC_EPOCH_CUR) = 0 → b.mesh.wantSwap = true → exec (.routingDrainComplete) s = .next (s.withBlk (c.reroute)))
    ∧ (∀ (s : State), let b := s.start; b.dev ≠ .off → (b.isSet MRC_EPOCH_DRAINING = true ∧ b.get MRC_DRAIN_COUNT (1 - b.get MRC_EPOCH_CUR) ≠ 0 ∧ 2 ≤ b.mesh.swapAge) → exec (.drainOverrun) s = .next (s.withBlk ((b.put MRC_EPOCH_OVERRUN 1).raise { code := 0x4506 })))
    ∧ (∀ (s : State), let b := s.start; ¬ (b.isSet MRC_EPOCH_DRAINING = true ∧ b.get MRC_DRAIN_COUNT (1 - b.get MRC_EPOCH_CUR) ≠ 0 ∧ 2 ≤ b.mesh.swapAge) → exec (.drainOverrun) s = .next (s.withBlk (b)))

/-- At the port of an ACTIVE sail that has not lost the hub a packet of an unlisted code loses the sail with 0x3409, an invalid master ID is counted and discarded with 0x2502, and any other packet is stamped with its sail and gets its class (a request of a partition that is no prefetch TC3 where a token is there for it, else TC1; a prefetch TC0; a TC3 request is entered), its router and its port. On a link that is up: a frame with a CRC error is dropped from the wire, counted by the hub end, and NAK goes out with the SEQ expected, again at each resend while it is owed; a NAK makes the frames from its SEQ on go again, counted by the hub end, with 0x1501 once per turn, and the sixteenth of one SEQ takes the link down; LINKSYNC moves the frames after its SEQ and what waits of a dead link that holds to this one; a heartbeat leaves with its count, and with BMISS where the ACTIVE sail took no BOUNDARY of this turn; a received BMISS loses the sail with cause 3. A link that goes down makes both ends resynchronise on the other, with 0x3504 and, above the load limit, new tables; the last link loses an ACTIVE sail, with cause 1 or, by NAKs, 4, and fails the test of any other. No heartbeat loses the sail with cause 2, or 1 with both links down. The first BOUNDARY copy of a turn is taken with its delay. The governor retrains a link that is down at most 8 times, another master gets an access error; a retrained link is noted with 0x150E. Everything else does nothing. -/
def Obligations.FlumeRows : Prop :=
  (∀ (s : State) (sail mid code addr : Nat) (part : Option Nat) (prefetch : Bool), let b := s.start; (b.active? sail = false ∨ (b.sail sail).silent = true) → exec (.flumePortIngress sail mid code part addr prefetch) s = .next (s.withBlk (b)))
    ∧ (∀ (s : State) (sail mid code addr : Nat) (part : Option Nat) (prefetch : Bool), let b := s.start; b.dev ≠ .off → b.active? sail = true → (b.sail sail).silent = false → opChannel code = none → exec (.flumePortIngress sail mid code part addr prefetch) s = .next (s.withBlk (b.sailLost sail 0x3409 5)))
    ∧ (∀ (s : State) (sail mid code addr : Nat) (part : Option Nat) (prefetch : Bool), let b := s.start; b.dev ≠ .off → b.active? sail = true → (b.sail sail).silent = false → opChannel code ≠ none → 18 ≤ mid % 32 → exec (.flumePortIngress sail mid code part addr prefetch) s = .next (s.withBlk (((b.inc FLM_MIDERR_COUNT sail).put FLM_MIDERR_LASTMID mid sail).note { code := 0x2502, mid := some mid, addr := some addr })))
    ∧ (∀ (s : State) (sail mid code addr : Nat) (part : Option Nat) (prefetch : Bool), let b := s.start; let m : Nat := sail * 32 + mid % 32; let v : Nat := b.ioNode addr; b.dev ≠ .off → b.active? sail = true → (b.sail sail).silent = false → opChannel code ≠ none → mid % 32 < 18 → (isRequest code = false ∨ prefetch = true ∨ part = none) → exec (.flumePortIngress sail mid code part addr prefetch) s = .next (s.withBlk ((b).emit (.ingress code m part addr (if prefetch then 0 else 1) (match nodeSail v with | some k => flumeRouters.getD k 2 | none => v) (match nodeSail v with | some k => (b).linkFor k (some addr) | none => 0)))))
    ∧ (∀ (s : State) (sail mid code addr : Nat) (part : Option Nat) (prefetch : Bool) (p : Nat), let b := s.start; let m : Nat := sail * 32 + mid % 32; let c : Block := (b.decideTc3 sail p).2; let v : Nat := c.ioNode addr; b.dev ≠ .off → b.active? sail = true → (b.sail sail).silent = false → opChannel code ≠ none → mid % 32 < 18 → isRequest code = true → prefetch = false → part = some p → (b.decideTc3 sail p).1 = false → exec (.flumePortIngress sail mid code part addr prefetch) s = .next (s.withBlk ((c).emit (.ingress code m part addr 1 (match nodeSail v with | some k => flumeRouters.getD k 2 | none => v) (match nodeSail v with | some k => (c).linkFor k (some addr) | none => 0)))))
    ∧ (∀ (s : State) (sail mid code addr : Nat) (part : Option Nat) (prefetch : Bool) (p : Nat), let b := s.start; let m : Nat := sail * 32 + mid % 32; let c : Block := (b.decideTc3 sail p).2; let v : Nat := c.ioNode addr; b.dev ≠ .off → b.active? sail = true → (b.sail sail).silent = false → opChannel code ≠ none → mid % 32 < 18 → isRequest code = true → prefetch = false → part = some p → (b.decideTc3 sail p).1 = true → exec (.flumePortIngress sail mid code part addr prefetch) s = .next (s.withBlk (((c.pmu sail 0x0D part 1).modCoh fun t => { t with entered := t.entered ++ [(m, addr / 64, (c.pmu sail 0x0D part 1).timeNs)] }).emit (.ingress code m part addr 3 (match nodeSail v with | some k => flumeRouters.getD k 2 | none => v) (match nodeSail v with | some k => ((c.pmu sail 0x0D part 1).modCoh fun t => { t with entered := t.entered ++ [(m, addr / 64, (c.pmu sail 0x0D part 1).timeNs)] }).linkFor k (some addr) | none => 0)))))
    ∧ (∀ (s : State) (sail link side : Nat), let b := s.start; (b.linkUp sail link = false ∨ 2 ≤ side) → exec (.flumeFrameCrcError sail link side) s = .next (s.withBlk (b)))
    ∧ (∀ (s : State) (sail link side : Nat), let b := s.start; let c : Block := if side = 0 then b.inc FLM_LINK_CRCERR sail link else b; let d : Block := (c.modLend sail link (1 - side) (fun e => { e with wire := e.wire.drop 1 })).modLend sail link side (fun e => { e with nakOwed := true }); b.dev ≠ .off → b.linkUp sail link = true → side < 2 → exec (.flumeFrameCrcError sail link side) s = .next (s.withBlk (d.sendCtl sail link side 0 5 (d.lend sail link side).rx)))
    ∧ (∀ (s : State) (sail link side seq : Nat), let b := s.start; (b.linkUp sail link = false ∨ 2 ≤ side) → exec (.flumeNak sail link side seq) s = .next (s.withBlk (b)))
    ∧ (∀ (s : State) (sail link side seq : Nat), let b := s.start; let e : LinkEnd := b.lend sail link side; let cnt : Nat := if e.nakSeq = seq ∧ e.nakCnt ≠ 0 then e.nakCnt + 1 else 1; let again : List Frame := e.replay.filter (fun f => (f.seq + 1024 - seq) % 1024 < 512); let c : Block := b.modLend sail link side (fun e => { e with nakSeq := seq, nakCnt := cnt, replay := again, resend := again }); b.dev ≠ .off → b.linkUp sail link = true → side < 2 → cnt < 16 → exec (.flumeNak sail link side seq) s = .next (s.withBlk ((if side = 0 then c.incBy FLM_REPLAY_FRAMES again.length sail link else c).noteOnce sail { code := 0x1501 })))
    ∧ (∀ (s : State) (sail link side seq : Nat), let b := s.start; let e : LinkEnd := b.lend sail link side; let cnt : Nat := if e.nakSeq = seq ∧ e.nakCnt ≠ 0 then e.nakCnt + 1 else 1; let again : List Frame := e.replay.filter (fun f => (f.seq + 1024 - seq) % 1024 < 512); let c : Block := b.modLend sail link side (fun e => { e with nakSeq := seq, nakCnt := cnt, replay := again, resend := again }); let x : Block := c.putUp sail link 0; let y : Block := ((x.syncEnd sail link 0).syncEnd sail link 1).raise { code := 0x3504, detail := ofBool (decide (1333 < x.portLoad sail)) }; b.dev ≠ .off → b.linkUp sail link = true → side < 2 → 16 ≤ cnt → x.linkUp sail (1 - link) = true → x.portLoad sail ≤ 1333 → exec (.flumeNak sail link side seq) s = .next (s.withBlk (y)))
    ∧ (∀ (s : State) (sail link side seq : Nat), let b := s.start; let e : LinkEnd := b.lend sail link side; let cnt : Nat := if e.nakSeq = seq ∧ e.nakCnt ≠ 0 then e.nakCnt + 1 else 1; let again : List Frame := e.replay.filter (fun f => (f.seq + 1024 - seq) % 1024 < 512); let c : Block := b.modLend sail link side (fun e => { e with nakSeq := seq, nakCnt := cnt, replay := again, resend := again }); let x : Block := c.putUp sail link 0; let y : Block := ((x.syncEnd sail link 0).syncEnd sail link 1).raise { code := 0x3504, detail := ofBool (decide (1333 < x.portLoad sail)) }; b.dev ≠ .off → b.linkUp sail link = true → side < 2 → 16 ≤ cnt → x.linkUp sail (1 - link) = true → 1333 < x.portLoad sail → exec (.flumeNak sail link side seq) s = .next (s.withBlk (y.reroute)))
    ∧ (∀ (s : State) (sail link side seq : Nat), let b := s.start; let e : LinkEnd := b.lend sail link side; let cnt : Nat := if e.nakSeq = seq ∧ e.nakCnt ≠ 0 then e.nakCnt + 1 else 1; let again : List Frame := e.replay.filter (fun f => (f.seq + 1024 - seq) % 1024 < 512); let c : Block := b.modLend sail link side (fun e => { e with nakSeq := seq, nakCnt := cnt, replay := again, resend := again }); let x : Block := c.putUp sail link 0; b.dev ≠ .off → b.linkUp sail link = true → side < 2 → 16 ≤ cnt → x.linkUp sail (1 - link) = false → x.active? sail = true → exec (.flumeNak sail link side seq) s = .next (s.withBlk (x.sailLost sail 0x3505 4)))
    ∧ (∀ (s : State) (sail link side seq : Nat), let b := s.start; let e : LinkEnd := b.lend sail link side; let cnt : Nat := if e.nakSeq = seq ∧ e.nakCnt ≠ 0 then e.nakCnt + 1 else 1; let again : List Frame := e.replay.filter (fun f => (f.seq + 1024 - seq) % 1024 < 512); let c : Block := b.modLend sail link side (fun e => { e with nakSeq := seq, nakCnt := cnt, replay := again, resend := again }); let x : Block := c.putUp sail link 0; b.dev ≠ .off → b.linkUp sail link = true → side < 2 → 16 ≤ cnt → x.linkUp sail (1 - link) = false → x.active? sail = false → x.get GOV_SAILSTAT_STATE sail = 2 → exec (.flumeNak sail link side seq) s = .next (s.withBlk (((x.toLost sail).resetSail sail).raise { code := 0x3207 })))
    ∧ (∀ (s : State) (sail link side seq : Nat), let b := s.start; let e : LinkEnd := b.lend sail link side; let cnt : Nat := if e.nakSeq = seq ∧ e.nakCnt ≠ 0 then e.nakCnt + 1 else 1; let again : List Frame := e.replay.filter (fun f => (f.seq + 1024 - seq) % 1024 < 512); let c : Block := b.modLend sail link side (fun e => { e with nakSeq := seq, nakCnt := cnt, replay := again, resend := again }); let x : Block := c.putUp sail link 0; b.dev ≠ .off → b.linkUp sail link = true → side < 2 → 16 ≤ cnt → x.linkUp sail (1 - link) = false → x.active? sail = false → x.get GOV_SAILSTAT_STATE sail ≠ 2 → exec (.flumeNak sail link side seq) s = .next (s.withBlk (x.modSail sail fun t => { t with testFail := true })))
    ∧ (∀ (s : State) (sail link side : Nat), let b := s.start; b.dev ≠ .off → (b.linkUp sail link = true ∧ side < 2 ∧ (b.lend sail link side).nakOwed = true) → exec (.flumeNakResend sail link side) s = .next (s.withBlk (b.sendCtl sail link side 0 5 (b.lend sail link side).rx)))
    ∧ (∀ (s : State) (sail link side : Nat), let b := s.start; ¬ (b.linkUp sail link = true ∧ side < 2 ∧ (b.lend sail link side).nakOwed = true) → exec (.flumeNakResend sail link side) s = .next (s.withBlk (b)))
    ∧ (∀ (s : State) (sail link : Nat), let b := s.start; (12 ≤ sail ∨ 2 ≤ link ∨ b.linkUp sail link = false) → exec (.flumeLinkDown sail link) s = .next (s.withBlk (b)))
    ∧ (∀ (s : State) (sail link : Nat), let b := s.start; let x : Block := b.putUp sail link 0; let y : Block := ((x.syncEnd sail link 0).syncEnd sail link 1).raise { code := 0x3504, detail := ofBool (decide (1333 < x.portLoad sail)) }; b.dev ≠ .off → sail < 12 → link < 2 → b.linkUp sail link = true → x.linkUp sail (1 - link) = true → x.portLoad sail ≤ 1333 → exec (.flumeLinkDown sail link) s = .next (s.withBlk (y)))
    ∧ (∀ (s : State) (sail link : Nat), let b := s.start; let x : Block := b.putUp sail link 0; let y : Block := ((x.syncEnd sail link 0).syncEnd sail link 1).raise { code := 0x3504, detail := ofBool (decide (1333 < x.portLoad sail)) }; b.dev ≠ .off → sail < 12 → link < 2 → b.linkUp sail link = true → x.linkUp sail (1 - link) = true → 1333 < x.portLoad sail → exec (.flumeLinkDown sail link) s = .next (s.withBlk (y.reroute)))
    ∧ (∀ (s : State) (sail link : Nat), let b := s.start; let x : Block := b.putUp sail link 0; b.dev ≠ .off → sail < 12 → link < 2 → b.linkUp sail link = true → x.linkUp sail (1 - link) = false → x.active? sail = true → exec (.flumeLinkDown sail link) s = .next (s.withBlk (x.sailLost sail 0x3505 1)))
    ∧ (∀ (s : State) (sail link : Nat), let b := s.start; let x : Block := b.putUp sail link 0; b.dev ≠ .off → sail < 12 → link < 2 → b.linkUp sail link = true → x.linkUp sail (1 - link) = false → x.active? sail = false → x.get GOV_SAILSTAT_STATE sail = 2 → exec (.flumeLinkDown sail link) s = .next (s.withBlk (((x.toLost sail).resetSail sail).raise { code := 0x3207 })))
    ∧ (∀ (s : State) (sail link : Nat), let b := s.start; let x : Block := b.putUp sail link 0; b.dev ≠ .off → sail < 12 → link < 2 → b.linkUp sail link = true → x.linkUp sail (1 - link) = false → x.active? sail = false → x.get GOV_SAILSTAT_STATE sail ≠ 2 → exec (.flumeLinkDown sail link) s = .next (s.withBlk (x.modSail sail fun t => { t with testFail := true })))
    ∧ (∀ (s : State) (sail link side seq : Nat), let b := s.start; ¬ (link < 2 ∧ side < 2 ∧ b.linkUp sail link = true ∧ b.linkUp sail (1 - link) = false ∧ (b.lend sail (1 - link) side).hold = true) → exec (.linksyncFrame sail link side seq) s = .next (s.withBlk (b)))
    ∧ (∀ (s : State) (sail link side seq : Nat), let b := s.start; let dead : Nat := 1 - link; let d : LinkEnd := b.lend sail dead side; let again : List Frame := d.replay.filter (fun f => 0 < (f.seq + 1024 - seq) % 1024 && (f.seq + 1024 - seq) % 1024 < 512); let c : Block := (b.modLend sail dead side (fun e => { e with replay := [], txq := [], hold := false })).modLend sail link side (fun e => { e with txq := e.txq ++ again.map (·.flit) ++ d.txq }); b.dev ≠ .off → (link < 2 ∧ side < 2 ∧ b.linkUp sail link = true ∧ b.linkUp sail (1 - link) = false ∧ (b.lend sail (1 - link) side).hold = true) → exec (.linksyncFrame sail link side seq) s = .next (s.withBlk (if side = 0 then c.incBy FLM_REPLAY_FRAMES again.length sail dead else c)))
    ∧ (∀ (s : State) (sail link side : Nat), let b := s.start; ¬ (link < 2 ∧ side < 2 ∧ b.linkUp sail link = true) → exec (.heartbeatFrame sail link side) s = .next (s.withBlk (b)))
    ∧ (∀ (s : State) (sail link side : Nat), let b := s.start; b.dev ≠ .off → (link < 2 ∧ side < 2 ∧ b.linkUp sail link = true) → exec (.heartbeatFrame sail link side) s = .next (s.withBlk ((b.modLend sail link side (fun e => { e with beats := (e.beats + 1) % 65536 })).sendCtl sail link side 0 3 ((b.lend sail link side).beats + ofBool (decide (side = 1) && b.active? sail && decide ((b.sail sail).bndTurn ≠ b.turn % 65536)) * 65536))))
    ∧ (∀ (s : State) (sail link : Nat) (bmiss : Bool), let b := s.start; b.dev ≠ .off → bmiss = true → b.linkUp sail link = true → exec (.heartbeatReceived sail link bmiss) s = .next (s.withBlk (b.sailLost sail 0x3505 3)))
    ∧ (∀ (s : State) (sail link : Nat) (bmiss : Bool), let b := s.start; (bmiss = false ∨ b.linkUp sail link = false) → exec (.heartbeatReceived sail link bmiss) s = .next (s.withBlk (b)))
    ∧ (∀ (s : State) (sail : Nat), let b := s.start; b.dev ≠ .off → (b.linkUp sail 0 = true ∨ b.linkUp sail 1 = true) → exec (.heartbeatTimeout sail) s = .next (s.withBlk (b.sailLost sail 0x3505 2)))
    ∧ (∀ (s : State) (sail : Nat), let b := s.start; b.dev ≠ .off → ¬ (b.linkUp sail 0 = true ∨ b.linkUp sail 1 = true) → exec (.heartbeatTimeout sail) s = .next (s.withBlk (b.sailLost sail 0x3505 1)))
    ∧ (∀ (s : State) (sail : Nat), let b := s.start; b.dev ≠ .off → b.active? sail = true → exec (.sailHubSilent sail) s = .next (s.withBlk (b.modSail sail (fun t => { t with silent := true }))))
    ∧ (∀ (s : State) (sail : Nat), let b := s.start; b.active? sail = false → exec (.sailHubSilent sail) s = .next (s.withBlk (b)))
    ∧ (∀ (s : State) (sail copy turn : Nat), let b := s.start; b.dev ≠ .off → (b.active? sail = true ∧ copy < 3 ∧ (b.sail sail).bndTurn ≠ turn % 65536) → exec (.boundaryFrame sail copy turn) s = .next (s.withBlk (b.modSail sail (fun t => { t with bndTurn := turn % 65536, bndPreload := b.get FLM_STATUS_BDELAY sail * 10 + 45 * copy }))))
    ∧ (∀ (s : State) (sail copy turn : Nat), let b := s.start; ¬ (b.active? sail = true ∧ copy < 3 ∧ (b.sail sail).bndTurn ≠ turn % 65536) → exec (.boundaryFrame sail copy turn) s = .next (s.withBlk (b)))
    ∧ (∀ (s : State) (sail mid : Nat), let b := s.start; b.dev ≠ .off → mid ≠ midGov → exec (.retrain0 sail mid) s = .next (s.withBlk (b.emit .accessError)))
    ∧ (∀ (s : State) (sail mid : Nat), let b := s.start; b.dev ≠ .off → mid = midGov → (b.active? sail = true ∧ b.linkUp sail 0 = false ∧ b.get FLM_LINK_RETRAIN sail 0 < 8) → exec (.retrain0 sail mid) s = .next (s.withBlk (((b.inc FLM_LINK_RETRAIN sail 0).modLend sail 0 0 (fun e => { training := true, rxq := e.rxq, txq := e.txq })).modLend sail 0 1 (fun e => { rxq := e.rxq, txq := e.txq }))))
    ∧ (∀ (s : State) (sail mid : Nat), let b := s.start; mid = midGov → ¬ (b.active? sail = true ∧ b.linkUp sail 0 = false ∧ b.get FLM_LINK_RETRAIN sail 0 < 8) → exec (.retrain0 sail mid) s = .next (s.withBlk (b)))
    ∧ (∀ (s : State) (sail mid : Nat), let b := s.start; b.dev ≠ .off → mid ≠ midGov → exec (.retrain1 sail mid) s = .next (s.withBlk (b.emit .accessError)))
    ∧ (∀ (s : State) (sail mid : Nat), let b := s.start; b.dev ≠ .off → mid = midGov → (b.active? sail = true ∧ b.linkUp sail 1 = false ∧ b.get FLM_LINK_RETRAIN sail 1 < 8) → exec (.retrain1 sail mid) s = .next (s.withBlk (((b.inc FLM_LINK_RETRAIN sail 1).modLend sail 1 0 (fun e => { training := true, rxq := e.rxq, txq := e.txq })).modLend sail 1 1 (fun e => { rxq := e.rxq, txq := e.txq }))))
    ∧ (∀ (s : State) (sail mid : Nat), let b := s.start; mid = midGov → ¬ (b.active? sail = true ∧ b.linkUp sail 1 = false ∧ b.get FLM_LINK_RETRAIN sail 1 < 8) → exec (.retrain1 sail mid) s = .next (s.withBlk (b)))
    ∧ (∀ (s : State) (sail link : Nat), let b := s.start; b.dev ≠ .off → (b.active? sail = true ∧ link < 2 ∧ (b.lend sail link 0).training = true) → exec (.flumeLinkRestored sail link) s = .next (s.withBlk ((b.modLend sail link 0 (fun e => { e with training := false, retrained := true })).note { code := 0x150E })))
    ∧ (∀ (s : State) (sail link : Nat), let b := s.start; ¬ (b.active? sail = true ∧ link < 2 ∧ (b.lend sail link 0).training = true) → exec (.flumeLinkRestored sail link) s = .next (s.withBlk (b)))

/-- In SELFTEST a controller not yet trained takes its bin from its training record where training is saved and the record fits, RESTORED; else, with 0x0603 and the reason where training is saved, it trains fully and keeps its record, or raises 0x4602. With the last of the eight the capacity shows where all agree on 8, 16 or 32 GiB, else 0x4601. In SELFTEST a controller with a capacity passes its ECC self-test, the last one applying the boot layout, or fails with 0x4604. The end of an initialisation zeroes the pending regions, clears INIT and goes on with the commit or the resumption that waited. HOT follows MR4, its rise raising 0x360D. The owner change of a held region ends, with no CLEANINV of the region to come or under way on an ACTIVE sail, and lets its requests go on. A read of usable memory, its new errors added and its token taken, gives out the line with its poison; a write of all 64 bytes is written, a masked one merges into the line as read, with poison kept, and into the merge buffer; a flush takes the oldest entry, correcting its line or poisoning it. An enabled dresser of an initialised controller reads the next line of coded space, its position and count advancing, with 0x0609 at the end of a pass, or stops running where there is none. A scrub request for coded space is ordered at the home as a transaction that scrubs the line. Everything else does nothing. -/
def Obligations.MemoryRows : Prop :=
  (∀ (s : State) (mc capGiB binIdx mr : Nat) (tj : Int) (crcOk verified ok : Bool), let b := s.start; (8 ≤ mc ∨ b.dev ≠ .selftest ∨ b.isSet MC_STATUS_TRAINED mc = true) → exec (.memoryTrainingComplete mc capGiB binIdx mr tj crcOk verified ok) s = .next (s.withBlk (b)))
    ∧ (∀ (s : State) (mc capGiB binIdx mr : Nat) (tj : Int) (crcOk verified ok : Bool), let b := s.start; let saved : Bool := b.savedTraining; let unfit : Option Nat := b.recordUnfit mc mr tj crcOk verified; let n : Block := if saved then b.note { code := 0x0603, detail := unfit.getD 0 } else b; mc < 8 → b.dev = .selftest → b.isSet MC_STATUS_TRAINED mc = false → (saved = false ∨ unfit ≠ none) → ok = false → exec (.memoryTrainingComplete mc capGiB binIdx mr tj crcOk verified ok) s = .next (s.withBlk (n.raise { code := 0x4602 })))
    ∧ (∀ (s : State) (mc capGiB binIdx mr : Nat) (tj : Int) (crcOk verified ok : Bool), let b := s.start; let saved : Bool := b.savedTraining; let unfit : Option Nat := b.recordUnfit mc mr tj crcOk verified; let n : Block := if saved then b.note { code := 0x0603, detail := unfit.getD 0 } else b; let t : Block := if saved = true ∧ unfit = none then (b.put MC_STATUS_RESTORED 1 mc).put MC_CFG_BIN (((SMap.get none mc b.dict.training).map (·.bin)).getD 0) mc else (({ n with dict := { n.dict with training := SMap.set none mc (some { mr := mr, tj := tj, bin := binIdx }) n.dict.training } } : Block).put MC_STATUS_RESTORED 0 mc).put MC_CFG_BIN binIdx mc; let c : Block := t.put MC_STATUS_TRAINED 1 mc; let d : Block := { c with ms := { c.ms with caps := SMap.set 0 mc capGiB c.ms.caps } }; let c0 : Nat := SMap.get 0 0 d.ms.caps; mc < 8 → b.dev = .selftest → b.isSet MC_STATUS_TRAINED mc = false → (¬ (saved = false ∨ unfit ≠ none) ∨ ok = true) → (List.range 8).all (fun c => d.isSet MC_STATUS_TRAINED c) = false → exec (.memoryTrainingComplete mc capGiB binIdx mr tj crcOk verified ok) s = .next (s.withBlk (d)))
    ∧ (∀ (s : State) (mc capGiB binIdx mr : Nat) (tj : Int) (crcOk verified ok : Bool), let b := s.start; let saved : Bool := b.savedTraining; let unfit : Option Nat := b.recordUnfit mc mr tj crcOk verified; let n : Block := if saved then b.note { code := 0x0603, detail := unfit.getD 0 } else b; let t : Block := if saved = true ∧ unfit = none then (b.put MC_STATUS_RESTORED 1 mc).put MC_CFG_BIN (((SMap.get none mc b.dict.training).map (·.bin)).getD 0) mc else (({ n with dict := { n.dict with training := SMap.set none mc (some { mr := mr, tj := tj, bin := binIdx }) n.dict.training } } : Block).put MC_STATUS_RESTORED 0 mc).put MC_CFG_BIN binIdx mc; let c : Block := t.put MC_STATUS_TRAINED 1 mc; let d : Block := { c with ms := { c.ms with caps := SMap.set 0 mc capGiB c.ms.caps } }; let c0 : Nat := SMap.get 0 0 d.ms.caps; mc < 8 → b.dev = .selftest → b.isSet MC_STATUS_TRAINED mc = false → (¬ (saved = false ∨ unfit ≠ none) ∨ ok = true) → (List.range 8).all (fun c => d.isSet MC_STATUS_TRAINED c) = true → ((List.range 8).all (fun c => SMap.get 0 c d.ms.caps = c0) = true ∧ (c0 = 8 ∨ c0 = 16 ∨ c0 = 32)) → exec (.memoryTrainingComplete mc capGiB binIdx mr tj crcOk verified ok) s = .next (s.withBlk (d.forN 8 (fun c b => b.put MC_CFG_CAP (if c0 = 8 then 1 else if c0 = 16 then 2 else 3) c))))
    ∧ (∀ (s : State) (mc capGiB binIdx mr : Nat) (tj : Int) (crcOk verified ok : Bool), let b := s.start; let saved : Bool := b.savedTraining; let unfit : Option Nat := b.recordUnfit mc mr tj crcOk verified; let n : Block := if saved then b.note { code := 0x0603, detail := unfit.getD 0 } else b; let t : Block := if saved = true ∧ unfit = none then (b.put MC_STATUS_RESTORED 1 mc).put MC_CFG_BIN (((SMap.get none mc b.dict.training).map (·.bin)).getD 0) mc else (({ n with dict := { n.dict with training := SMap.set none mc (some { mr := mr, tj := tj, bin := binIdx }) n.dict.training } } : Block).put MC_STATUS_RESTORED 0 mc).put MC_CFG_BIN binIdx mc; let c : Block := t.put MC_STATUS_TRAINED 1 mc; let d : Block := { c with ms := { c.ms with caps := SMap.set 0 mc capGiB c.ms.caps } }; let c0 : Nat := SMap.get 0 0 d.ms.caps; mc < 8 → b.dev = .selftest → b.isSet MC_STATUS_TRAINED mc = false → (¬ (saved = false ∨ unfit ≠ none) ∨ ok = true) → (List.range 8).all (fun c => d.isSet MC_STATUS_TRAINED c) = true → ¬ ((List.range 8).all (fun c => SMap.get 0 c d.ms.caps = c0) = true ∧ (c0 = 8 ∨ c0 = 16 ∨ c0 = 32)) → exec (.memoryTrainingComplete mc capGiB binIdx mr tj crcOk verified ok) s = .next (s.withBlk (d.raise { code := 0x4601 })))
    ∧ (∀ (s : State) (mc : Nat) (pass : Bool), let b := s.start; (8 ≤ mc ∨ b.dev ≠ .selftest ∨ b.get MC_CFG_CAP mc = 0) → exec (.eccSelftestComplete mc pass) s = .next (s.withBlk (b)))
    ∧ (∀ (s : State) (mc : Nat) (pass : Bool), let b := s.start; mc < 8 → b.dev = .selftest → b.get MC_CFG_CAP mc ≠ 0 → pass = false → exec (.eccSelftestComplete mc pass) s = .next (s.withBlk ((b.put MC_STATUS_STPASS 0 mc).raise { code := 0x4604 })))
    ∧ (∀ (s : State) (mc : Nat) (pass : Bool), let b := s.start; let c : Block := b.put MC_STATUS_STPASS 1 mc; mc < 8 → b.dev = .selftest → b.get MC_CFG_CAP mc ≠ 0 → pass = true → (List.range 8).all (fun k => c.isSet MC_STATUS_STPASS k) = true → exec (.eccSelftestComplete mc pass) s = .next (s.withBlk (c.bootLayout)))
    ∧ (∀ (s : State) (mc : Nat) (pass : Bool), let b := s.start; let c : Block := b.put MC_STATUS_STPASS 1 mc; mc < 8 → b.dev = .selftest → b.get MC_CFG_CAP mc ≠ 0 → pass = true → (List.range 8).all (fun k => c.isSet MC_STATUS_STPASS k) = false → exec (.eccSelftestComplete mc pass) s = .next (s.withBlk (c)))
    ∧ (∀ (s : State), let b := s.start; (List.range 8).all (fun c => !b.isSet MC_STATUS_INIT c) = true → exec (.layoutInitComplete) s = .next (s.withBlk (b)))
    ∧ (∀ (s : State), let b := s.start; let c : Block := (b.initRegions b.ms.initPending).forN 8 (fun c b => b.put MC_STATUS_INIT 0 c); let d : Block := { c with ms := { c.ms with initPending := [] } }; (List.range 8).all (fun c => !b.isSet MC_STATUS_INIT c) = false → (d.dev = .configWait ∧ d.commit.state = 3) → exec (.layoutInitComplete) s = .next (s.withBlk (d.loadAfterInit)))
    ∧ (∀ (s : State), let b := s.start; let c : Block := (b.initRegions b.ms.initPending).forN 8 (fun c b => b.put MC_STATUS_INIT 0 c); let d : Block := { c with ms := { c.ms with initPending := [] } }; (List.range 8).all (fun c => !b.isSet MC_STATUS_INIT c) = false → (d.dev = .service ∧ d.gov.resuming = true) → exec (.layoutInitComplete) s = .next (s.withBlk (d.endResume)))
    ∧ (∀ (s : State), let b := s.start; let c : Block := (b.initRegions b.ms.initPending).forN 8 (fun c b => b.put MC_STATUS_INIT 0 c); let d : Block := { c with ms := { c.ms with initPending := [] } }; b.dev ≠ .off → (List.range 8).all (fun c => !b.isSet MC_STATUS_INIT c) = false → ¬ (d.dev = .configWait ∧ d.commit.state = 3) → ¬ (d.dev = .service ∧ d.gov.resuming = true) → exec (.layoutInitComplete) s = .next (s.withBlk ({ d with gov := { d.gov with resuming := false } })))
    ∧ (∀ (s : State) (mc : Nat) (above : Bool), let b := s.start; 8 ≤ mc → exec (.mr4Read mc above) s = .next (s.withBlk (b)))
    ∧ (∀ (s : State) (mc : Nat) (above : Bool), let b := s.start; b.dev ≠ .off → mc < 8 → (above = false ∨ b.isSet MC_STATUS_HOT mc = true) → exec (.mr4Read mc above) s = .next (s.withBlk (b.put MC_STATUS_HOT (ofBool above) mc)))
    ∧ (∀ (s : State) (mc : Nat) (above : Bool), let b := s.start; b.dev ≠ .off → mc < 8 → above = true → b.isSet MC_STATUS_HOT mc = false → exec (.mr4Read mc above) s = .next (s.withBlk ((b.put MC_STATUS_HOT 1 mc).raise { code := 0x360D })))
    ∧ (∀ (s : State) (region : Nat), let b := s.start; (b.ms.heldRegions.contains region = false ∨ b.cleanOpen region = true) → exec (.ownerChangeComplete region) s = .next (s.withBlk (b)))
    ∧ (∀ (s : State) (region : Nat), let b := s.start; b.dev ≠ .off → b.ms.heldRegions.contains region = true → b.cleanOpen region = false → exec (.ownerChangeComplete region) s = .next (s.withBlk (({ b with ms := { b.ms with heldRegions := listErase region b.ms.heldRegions } } : Block).settle)))
    ∧ (∀ (s : State) (mid part pa e m : Nat) (tc3 : Bool), let b := s.start; b.dramOk pa = false → exec (.mcRead mid part pa e m tc3) s = .next (s.withBlk (b)))
    ∧ (∀ (s : State) (mid part pa e m : Nat) (tc3 : Bool), let b := s.start; let c : Block := if tc3 then (b.addErrs pa e m).takeTokens part pa false else b.addErrs pa e m; let r : (Nat × Bool) × Block := c.mcRead mid part (pa / 64 * 64); b.dev ≠ .off → b.dramOk pa = true → exec (.mcRead mid part pa e m tc3) s = .next (s.withBlk (r.2.emit (.data (leBytes 64 r.1.1) r.1.2))))
    ∧ (∀ (s : State) (mid part pa data mask : Nat) (poison tc3 : Bool), let b := s.start; b.dramOk pa = false → exec (.mcWrite mid part pa data mask poison tc3) s = .next (s.withBlk (b)))
    ∧ (∀ (s : State) (mid part pa data mask : Nat) (poison tc3 : Bool), let b := s.start; let a : Nat := pa / 64 * 64; let c : Block := if tc3 then b.takeTokens part pa true else b; b.dev ≠ .off → b.dramOk pa = true → mask % 2 ^ 64 = 2 ^ 64 - 1 → exec (.mcWrite mid part pa data mask poison tc3) s = .next (s.withBlk (c.mcWrite mid part a data poison tc3)))
    ∧ (∀ (s : State) (mid part pa data mask : Nat) (poison tc3 : Bool), let b := s.start; let a : Nat := pa / 64 * 64; let c : Block := if tc3 then b.takeTokens part pa true else b; let r : (Nat × Bool) × Block := c.mcRead mid part a; let d : Block := r.2.mcWrite mid part a (mergeBytes r.1.1 data mask) (r.1.2 || poison) tc3; b.dev ≠ .off → b.dramOk pa = true → ¬ mask % 2 ^ 64 = 2 ^ 64 - 1 → exec (.mcWrite mid part pa data mask poison tc3) s = .next (s.withBlk (d.mergeData a mask tc3)))
    ∧ (∀ (s : State) (mc : Nat), let b := s.start; b.ms.merge.find? (fun e => e.mc = mc) = none → exec (.mergeFlush mc) s = .next (s.withBlk (b)))
    ∧ (∀ (s : State) (mc : Nat) (e : MergeEnt), let b := s.start; let c : Block := { b with ms := { b.ms with merge := listErase e b.ms.merge } }; let loc : Nat := e.line * 64; let d : Block := if e.check = true ∨ e.mask = 2 ^ 64 - 1 then c else (match decodeCopy e.code (c.copyErrs mc loc) (c.copyPoison mc loc) with | .corrected n => (c.setCopyErrs mc loc 0).mcCorrected mc e.pa loc n (0x1D0 + mc) markPart 1 | .uncorrectable => ((c.setCopyPoison mc loc true).setCopyErrs mc loc 0).mcUncorrectable mc e.pa loc (0x1D0 + mc) markPart 2 | _ => c); b.dev ≠ .off → b.ms.merge.find? (fun e => e.mc = mc) = some e → exec (.mergeFlush mc) s = .next (s.withBlk (d.put MC_STATUS_MERGEUSE ((d.ms.merge.filter (fun e => e.mc = mc)).length) mc)))
    ∧ (∀ (s : State) (mc e m : Nat), let b := s.start; (8 ≤ mc ∨ b.isSet DRS_CTL_EN mc = false ∨ b.isSet MC_STATUS_INIT mc = true) → exec (.dresserRead mc e m) s = .next (s.withBlk (b)))
    ∧ (∀ (s : State) (mc e m : Nat), let b := s.start; b.dev ≠ .off → ¬ (8 ≤ mc ∨ b.isSet DRS_CTL_EN mc = false ∨ b.isSet MC_STATUS_INIT mc = true) → b.nextDress mc 300 (b.get DRS_POS_LINE mc * 64) = none → b.dressable mc = [] → exec (.dresserRead mc e m) s = .next (s.withBlk (b.put DRS_STATUS_RUN 0 mc)))
    ∧ (∀ (s : State) (mc e m : Nat) (x : Nat × Nat), let b := s.start; let d : Block := (b.put DRS_STATUS_RUN 1 mc).put DRS_POS_LINE (x.2 / 64 + 1) mc; let f : Block := { d with ms := { d.ms with dresserLines := SMap.upd 0 mc (· + 1) d.ms.dresserLines } }; b.dev ≠ .off → ¬ (8 ≤ mc ∨ b.isSet DRS_CTL_EN mc = false ∨ b.isSet MC_STATUS_INIT mc = true) → b.nextDress mc 300 (b.get DRS_POS_LINE mc * 64) = some x → exec (.dresserRead mc e m) s = .next (s.withBlk ((f.addErrs (f.localPa x.1 mc x.2) e m).dressLine x.1 mc x.2)))
    ∧ (∀ (s : State) (mc e m : Nat) (x : Nat × Nat), let b := s.start; let pass : Block := ((b.inc DRS_STATUS_PASSCNT mc).setR .DRS_LASTPASS (min (SMap.get 0 mc b.ms.passTurns) (2 ^ 32 - 1)) mc).note { code := 0x0609 }; let c : Block := { pass with ms := { pass.ms with passTurns := SMap.set 0 mc 0 pass.ms.passTurns } }; let d : Block := (c.put DRS_STATUS_RUN 1 mc).put DRS_POS_LINE (x.2 / 64 + 1) mc; let f : Block := { d with ms := { d.ms with dresserLines := SMap.upd 0 mc (· + 1) d.ms.dresserLines } }; b.dev ≠ .off → ¬ (8 ≤ mc ∨ b.isSet DRS_CTL_EN mc = false ∨ b.isSet MC_STATUS_INIT mc = true) → b.nextDress mc 300 (b.get DRS_POS_LINE mc * 64) = none → b.dressable mc ≠ [] → c.nextDress mc 300 0 = some x → exec (.dresserRead mc e m) s = .next (s.withBlk ((f.addErrs (f.localPa x.1 mc x.2) e m).dressLine x.1 mc x.2)))
    ∧ (∀ (s : State) (mc e m : Nat), let b := s.start; let pass : Block := ((b.inc DRS_STATUS_PASSCNT mc).setR .DRS_LASTPASS (min (SMap.get 0 mc b.ms.passTurns) (2 ^ 32 - 1)) mc).note { code := 0x0609 }; let c : Block := { pass with ms := { pass.ms with passTurns := SMap.set 0 mc 0 pass.ms.passTurns } }; b.dev ≠ .off → ¬ (8 ≤ mc ∨ b.isSet DRS_CTL_EN mc = false ∨ b.isSet MC_STATUS_INIT mc = true) → b.nextDress mc 300 (b.get DRS_POS_LINE mc * 64) = none → b.dressable mc ≠ [] → c.nextDress mc 300 0 = none → exec (.dresserRead mc e m) s = .next (s.withBlk (c.put DRS_STATUS_RUN 0 mc)))
    ∧ (∀ (s : State) (mc line : Nat), let b := s.start; (b.dressable mc).find? (fun e => e.2.1 ≤ line * 64 && line * 64 < e.2.2) = none → exec (.scrubRequest mc line) s = .next (s.withBlk (b)))
    ∧ (∀ (s : State) (mc line : Nat) (e : Nat × Nat × Nat), let b := s.start; b.dev ≠ .off → (b.dressable mc).find? (fun e => e.2.1 ≤ line * 64 && line * 64 < e.2.2) = some e → exec (.scrubRequest mc line) s = .next (s.withBlk (b.enter { mid := 0x1D0 + mc, part := markPart, txid := 0, kind := .rdOnce, line := b.localPa e.1 mc (line * 64) / 64, scrub := some mc })))

/-- An enabled port in OFF goes to TRAIN, outside OFF and BOOT and with no thermal trip, with HOLD where LOCALHOLD stands, else the device state's beacon code. In TRAIN locked lanes become both lane maps and the port enters ALIGN; a timeout counts an attempt. Alignment lock in ALIGN enters INIT, and with a port not native UP with 0x0807. On a native port in ALIGN, INIT or UP a block whose CRC fails is counted as bad; an INIT block in INIT with another version or less than 2,048 units is refused with 0x2809 detail 2, else its fields are taken and the port enters UP once both ends have shown ACKED; an alignment codeword takes the lane map, ends a request for that map and is checked for a change of lanes. INIT sends its block with the offer. Loss of lock in UP enters TRAIN with 0x3805; an absent partner in INIT or UP enters INIT, counted, with 0x3806. A reset turns the port off and clears its state, credits and keys. An uncorrectable codeword of a port in ALIGN, INIT or UP is counted with 0x2802. Everything else does nothing. -/
def Obligations.LeavoPortStates : Prop :=
  (∀ (s : State) (k : Nat), let b := s.start; b.dev ≠ .off → (k < 6 ∧ b.isSet LVP_CFG_EN k = true ∧ b.portSt k = 0 ∧ b.dev ≠ .boot ∧ b.pwr.tripped = false) → exec (.portEnable k) s = .next (s.withBlk ((b.put LVP_STATUS_STATE 1 k).put LVP_STATUS_BSTAT (if b.isSet LVP_STATUS_LOCALHOLD k then 1 else b.dev.beacon) k)))
    ∧ (∀ (s : State) (k : Nat), let b := s.start; ¬ (k < 6 ∧ b.isSet LVP_CFG_EN k = true ∧ b.portSt k = 0 ∧ b.dev ≠ .boot ∧ b.pwr.tripped = false) → exec (.portEnable k) s = .next (s.withBlk (b)))
    ∧ (∀ (s : State) (k lanes : Nat), let b := s.start; b.dev ≠ .off → (k < 6 ∧ b.portSt k = 1 ∧ lanes % 16 ≠ 0) → exec (.laneLock k lanes) s = .next (s.withBlk (((b.put LVP_STATUS_STATE 2 k).put LVP_STATUS_TXLANES (lanes % 16) k).put LVP_STATUS_RXLANES (lanes % 16) k)))
    ∧ (∀ (s : State) (k lanes : Nat), let b := s.start; ¬ (k < 6 ∧ b.portSt k = 1 ∧ lanes % 16 ≠ 0) → exec (.laneLock k lanes) s = .next (s.withBlk (b)))
    ∧ (∀ (s : State) (k : Nat), let b := s.start; b.dev ≠ .off → (k < 6 ∧ b.portSt k = 1) → exec (.trainTimeout k) s = .next (s.withBlk (b.modPort k fun p => { p with attempts := p.attempts + 1 })))
    ∧ (∀ (s : State) (k : Nat), let b := s.start; ¬ (k < 6 ∧ b.portSt k = 1) → exec (.trainTimeout k) s = .next (s.withBlk (b)))
    ∧ (∀ (s : State) (k : Nat), let b := s.start; ¬ (k < 6 ∧ b.portSt k = 2) → exec (.alignLock k) s = .next (s.withBlk (b)))
    ∧ (∀ (s : State) (k : Nat), let b := s.start; b.dev ≠ .off → (k < 6 ∧ b.portSt k = 2) → (b.toInit k).native k = true → exec (.alignLock k) s = .next (s.withBlk (b.toInit k)))
    ∧ (∀ (s : State) (k : Nat), let b := s.start; b.dev ≠ .off → (k < 6 ∧ b.portSt k = 2) → (b.toInit k).native k = false → exec (.alignLock k) s = .next (s.withBlk (((b.toInit k).put LVP_STATUS_STATE 4 k).note (lvpFault 0x0807 k))))
    ∧ (∀ (s : State) (k : Nat) (data : Bytes), let b := s.start; ¬ (b.portTalks k = true ∧ b.native k = true) → exec (.initFrame k data) s = .next (s.withBlk (b)))
    ∧ (∀ (s : State) (k : Nat) (data : Bytes), let b := s.start; b.dev ≠ .off → (b.portTalks k = true ∧ b.native k = true) → ctlOk data = false → exec (.initFrame k data) s = .next (s.withBlk (b.badBlock k)))
    ∧ (∀ (s : State) (k : Nat) (data : Bytes), let b := s.start; b.dev ≠ .off → (b.portTalks k = true ∧ b.native k = true) → ctlOk data = true → leAt 0 1 data ≠ 0x49 → exec (.initFrame k data) s = .next (s.withBlk (if blockCodes.contains (leAt 0 1 data) then b else b.badBlock k)))
    ∧ (∀ (s : State) (k : Nat) (data : Bytes), let b := s.start; (b.portTalks k = true ∧ b.native k = true) → ctlOk data = true → leAt 0 1 data = 0x49 → b.portSt k ≠ 3 → exec (.initFrame k data) s = .next (s.withBlk (b)))
    ∧ (∀ (s : State) (k : Nat) (data : Bytes), let b := s.start; b.dev ≠ .off → (b.portTalks k = true ∧ b.native k = true) → ctlOk data = true → (leAt 0 1 data = 0x49 ∧ b.portSt k = 3) → ¬ (leAt 1 1 data % 8 = 1 ∧ 2048 ≤ leAt 8 2 data) → exec (.initFrame k data) s = .next (s.withBlk (b.note (lvpFault 0x2809 k 2))))
    ∧ (∀ (s : State) (k : Nat) (data : Bytes), let b := s.start; let f : Nat := leAt 1 1 data; let c : Block := (b.put LVP_STATUS_PEP (leAt 2 2 data) k |>.put LVP_STATUS_PPEER (ofBool (bit f 4)) k |>.put LVP_STATUS_PARTNER 1 k |>.put LVP_PCRED_CREDITS (leAt 4 2 data) k |>.put LVP_PCRED_RSV (leAt 6 2 data) k).modPort k (fun p => { p with gotInit := true, gotAck := bit f 5 }); b.dev ≠ .off → (b.portTalks k = true ∧ b.native k = true) → ctlOk data = true → (leAt 0 1 data = 0x49 ∧ b.portSt k = 3) → (leAt 1 1 data % 8 = 1 ∧ 2048 ≤ leAt 8 2 data) → ((c.port k).gotAck = true ∧ (c.port k).sentAck = true ∧ c.portSt k = 3) → exec (.initFrame k data) s = .next (s.withBlk (c.toUp k)))
    ∧ (∀ (s : State) (k : Nat) (data : Bytes), let b := s.start; let f : Nat := leAt 1 1 data; let c : Block := (b.put LVP_STATUS_PEP (leAt 2 2 data) k |>.put LVP_STATUS_PPEER (ofBool (bit f 4)) k |>.put LVP_STATUS_PARTNER 1 k |>.put LVP_PCRED_CREDITS (leAt 4 2 data) k |>.put LVP_PCRED_RSV (leAt 6 2 data) k).modPort k (fun p => { p with gotInit := true, gotAck := bit f 5 }); b.dev ≠ .off → (b.portTalks k = true ∧ b.native k = true) → ctlOk data = true → (leAt 0 1 data = 0x49 ∧ b.portSt k = 3) → (leAt 1 1 data % 8 = 1 ∧ 2048 ≤ leAt 8 2 data) → ¬ ((c.port k).gotAck = true ∧ (c.port k).sentAck = true ∧ c.portSt k = 3) → exec (.initFrame k data) s = .next (s.withBlk (c)))
    ∧ (∀ (s : State) (k : Nat), let b := s.start; ¬ (k < 6 ∧ b.portSt k = 3 ∧ b.native k = true) → exec (.initSend k) s = .next (s.withBlk (b)))
    ∧ (∀ (s : State) (k : Nat), let b := s.start; let ack : Bool := (b.port k).gotInit; let c : Block := (b.sendBlock k ([0x49, BitVec.ofNat 8 (1 + 8 + 16 + 32 * ofBool ack)] ++ leBytes 2 b.devEp ++ leBytes 2 2048 ++ leBytes 2 (b.get LVP_CFG_RSVCRED k) ++ leBytes 2 2048 ++ [BitVec.ofNat 8 (b.get LVP_STATUS_TXLANES k)])).modPort k (fun p => { p with sentAck := p.sentAck || ack }); b.dev ≠ .off → (k < 6 ∧ b.portSt k = 3 ∧ b.native k = true) → ((c.port k).gotAck = true ∧ (c.port k).sentAck = true ∧ c.portSt k = 3) → exec (.initSend k) s = .next (s.withBlk (c.toUp k)))
    ∧ (∀ (s : State) (k : Nat), let b := s.start; let ack : Bool := (b.port k).gotInit; let c : Block := (b.sendBlock k ([0x49, BitVec.ofNat 8 (1 + 8 + 16 + 32 * ofBool ack)] ++ leBytes 2 b.devEp ++ leBytes 2 2048 ++ leBytes 2 (b.get LVP_CFG_RSVCRED k) ++ leBytes 2 2048 ++ [BitVec.ofNat 8 (b.get LVP_STATUS_TXLANES k)])).modPort k (fun p => { p with sentAck := p.sentAck || ack }); b.dev ≠ .off → (k < 6 ∧ b.portSt k = 3 ∧ b.native k = true) → ¬ ((c.port k).gotAck = true ∧ (c.port k).sentAck = true ∧ c.portSt k = 3) → exec (.initSend k) s = .next (s.withBlk (c)))
    ∧ (∀ (s : State) (k : Nat), let b := s.start; b.dev ≠ .off → (k < 6 ∧ b.portSt k = 4) → exec (.codewordLockLost k) s = .next (s.withBlk ((b.toTrain k).raise (lvpFault 0x3805 k))))
    ∧ (∀ (s : State) (k : Nat), let b := s.start; ¬ (k < 6 ∧ b.portSt k = 4) → exec (.codewordLockLost k) s = .next (s.withBlk (b)))
    ∧ (∀ (s : State) (k : Nat), let b := s.start; b.dev ≠ .off → (k < 6 ∧ (b.portSt k = 4 ∨ b.portSt k = 3)) → exec (.partnerAbsent k) s = .next (s.withBlk ((((b.toInit k).put LVP_ERRSTAT_PABSENT 1 k).cnt k 14 1).raise (lvpFault 0x3806 k))))
    ∧ (∀ (s : State) (k : Nat), let b := s.start; ¬ (k < 6 ∧ (b.portSt k = 4 ∨ b.portSt k = 3)) → exec (.partnerAbsent k) s = .next (s.withBlk (b)))
    ∧ (∀ (s : State) (k : Nat), let b := s.start; b.dev ≠ .off → (k < 6) → exec (.portReset k) s = .next (s.withBlk (((b.toOff k).modPort k (fun p => { macs := p.macs, epoch := p.epoch, discards := p.discards })) |>.setR .LVP_STATUS 0 k |>.setR .LVP_TXCUM 0 k |>.setR .LVP_TXFREED 0 k |>.setR .LVP_PCRED 0 k |>.setR .LVP_LINK 0 k |>.setR .LVP_KEYSTAT 0 k |>.setR .LVP_TXPN 0 k)))
    ∧ (∀ (s : State) (k : Nat), let b := s.start; ¬ (k < 6) → exec (.portReset k) s = .next (s.withBlk (b)))
    ∧ (∀ (s : State) (k : Nat), let b := s.start; b.dev ≠ .off → (b.portTalks k = true) → exec (.uncorrectableCodeword k) s = .next (s.withBlk (((b.cnt k 2 1).put LVP_ERRSTAT_UNCOR 1 k).note (lvpFault 0x2802 k))))
    ∧ (∀ (s : State) (k : Nat), let b := s.start; ¬ (b.portTalks k = true) → exec (.uncorrectableCodeword k) s = .next (s.withBlk (b)))
    ∧ (∀ (s : State) (k : Nat) (data : Bytes), let b := s.start; ¬ (b.portTalks k = true ∧ b.native k = true) → exec (.alignMarker k data) s = .next (s.withBlk (b)))
    ∧ (∀ (s : State) (k : Nat) (data : Bytes), let b := s.start; b.dev ≠ .off → (b.portTalks k = true ∧ b.native k = true) → ctlOk data = false → exec (.alignMarker k data) s = .next (s.withBlk (b.badBlock k)))
    ∧ (∀ (s : State) (k : Nat) (data : Bytes), let b := s.start; let m : Nat := leAt 1 1 data / 16; b.dev ≠ .off → (b.portTalks k = true ∧ b.native k = true) → ctlOk data = true → leAt 0 1 data ≠ 0x7A → exec (.alignMarker k data) s = .next (s.withBlk (if blockCodes.contains (leAt 0 1 data) then b else b.badBlock k)))
    ∧ (∀ (s : State) (k : Nat) (data : Bytes), let b := s.start; let m : Nat := leAt 1 1 data / 16; (b.portTalks k = true ∧ b.native k = true) → ctlOk data = true → leAt 0 1 data = 0x7A → m = 0 → exec (.alignMarker k data) s = .next (s.withBlk (b)))
    ∧ (∀ (s : State) (k : Nat) (data : Bytes), let b := s.start; let m : Nat := leAt 1 1 data / 16; b.dev ≠ .off → (b.portTalks k = true ∧ b.native k = true) → ctlOk data = true → (leAt 0 1 data = 0x7A ∧ m ≠ 0) → exec (.alignMarker k data) s = .next (s.withBlk (((b.put LVP_STATUS_RXLANES m k).modPort k (fun p => { p with askMap := if p.askMap = some m then none else p.askMap })).lanesCheck k (b.get LVP_STATUS_RXLANES k) m)))

/-- A block of a port in ALIGN, INIT or UP whose CRC fails is counted as bad, as is one of a type that is not listed; one of another listed type does nothing. A BEACON and a KEEPALIVE show the partner present; the BEACON of a peer, while TSYNC follows it, gives the turn and its time. In UP on a native port the counts heal lost sacks and then free credits, or an overrun, once shown, ends the exchange; a CREDIT frees credits. A KEEPALIVE and, in UP where FREED has changed, a CREDIT go out with the counts. A lane failing in the receive map is counted and ends a key exchange: the last lane takes the port to TRAIN, with 0x3805 from UP; else a native port asks for the map without it, with 0x3803, and another port drops it. A request goes out again while it stands. A LANEMAP request that leaves the transmitter some but not all of its lanes drops the others, sends alignment codewords and raises 0x3803; an announcement with RESTORE and a map sets the receive map with 0x0804. A lane that retrained is to be added back. In UP a probe is answered with the time, an answer gives the round trip. A missed boundary sets HOLD and LOCAL, is counted and sends the BEACON alone with 0x280E. Everything else does nothing. -/
def Obligations.LeavoBlocks : Prop :=
  (∀ (s : State) (k : Nat) (data : Bytes), let b := s.start; b.portTalks k = false → exec (.beaconFrame k data) s = .next (s.withBlk (b)))
    ∧ (∀ (s : State) (k : Nat) (data : Bytes), let b := s.start; b.dev ≠ .off → b.portTalks k = true → ctlOk data = false → exec (.beaconFrame k data) s = .next (s.withBlk (b.badBlock k)))
    ∧ (∀ (s : State) (k : Nat) (data : Bytes), let b := s.start; b.dev ≠ .off → b.portTalks k = true → ctlOk data = true → leAt 0 1 data ≠ 75 → exec (.beaconFrame k data) s = .next (s.withBlk (if blockCodes.contains (leAt 0 1 data) then b else b.badBlock k)))
    ∧ (∀ (s : State) (k : Nat) (data : Bytes), let b := s.start; let p : Block := b.put LVP_STATUS_PARTNER 1 k; let c : Block := if p.isSet LVP_CFG_PEER k = true ∧ p.actN 0x2000 2 = 3 then p.modTu (fun t => { t with peerTurn := leAt 4 6 data, peerNs := p.timeNs - (leAt 12 2 data + p.get LVP_LINK_RTT k / 2) }) else p; b.dev ≠ .off → b.portTalks k = true → ctlOk data = true → leAt 0 1 data = 75 → ¬ (c.portSt k = 4 ∧ c.native k = true) → exec (.beaconFrame k data) s = .next (s.withBlk (c)))
    ∧ (∀ (s : State) (k : Nat) (data : Bytes), let b := s.start; let p : Block := b.put LVP_STATUS_PARTNER 1 k; let c : Block := if p.isSet LVP_CFG_PEER k = true ∧ p.actN 0x2000 2 = 3 then p.modTu (fun t => { t with peerTurn := leAt 4 6 data, peerNs := p.timeNs - (leAt 12 2 data + p.get LVP_LINK_RTT k / 2) }) else p; let cum : Nat := leAt 24 3 data; let d : Nat := (cum + 2 ^ 24 - (c.port k).rxCum % 2 ^ 24) % 2 ^ 24; let e : Block := c.modPort k (fun p => { p with rxCum := cum, rxFreed := (p.rxFreed + d) % 2 ^ 24 }); b.dev ≠ .off → b.portTalks k = true → ctlOk data = true → leAt 0 1 data = 75 → (c.portSt k = 4 ∧ c.native k = true) → d = 0 → exec (.beaconFrame k data) s = .next (s.withBlk ((c.modPort k fun p => { p with rxCum := cum }).freed k (leAt 27 3 data))))
    ∧ (∀ (s : State) (k : Nat) (data : Bytes), let b := s.start; let p : Block := b.put LVP_STATUS_PARTNER 1 k; let c : Block := if p.isSet LVP_CFG_PEER k = true ∧ p.actN 0x2000 2 = 3 then p.modTu (fun t => { t with peerTurn := leAt 4 6 data, peerNs := p.timeNs - (leAt 12 2 data + p.get LVP_LINK_RTT k / 2) }) else p; let cum : Nat := leAt 24 3 data; let d : Nat := (cum + 2 ^ 24 - (c.port k).rxCum % 2 ^ 24) % 2 ^ 24; let e : Block := c.modPort k (fun p => { p with rxCum := cum, rxFreed := (p.rxFreed + d) % 2 ^ 24 }); b.dev ≠ .off → b.portTalks k = true → ctlOk data = true → leAt 0 1 data = 75 → (c.portSt k = 4 ∧ c.native k = true) → 0 < d → d < 2 ^ 23 → exec (.beaconFrame k data) s = .next (s.withBlk ((((e.cnt k 10 d).put LVP_ERRSTAT_HEAL 1 k).noteOnce k (lvpFault 0x180B k)).freed k (leAt 27 3 data))))
    ∧ (∀ (s : State) (k : Nat) (data : Bytes), let b := s.start; let p : Block := b.put LVP_STATUS_PARTNER 1 k; let c : Block := if p.isSet LVP_CFG_PEER k = true ∧ p.actN 0x2000 2 = 3 then p.modTu (fun t => { t with peerTurn := leAt 4 6 data, peerNs := p.timeNs - (leAt 12 2 data + p.get LVP_LINK_RTT k / 2) }) else p; let cum : Nat := leAt 24 3 data; let d : Nat := (cum + 2 ^ 24 - (c.port k).rxCum % 2 ^ 24) % 2 ^ 24; let e : Block := c.modPort k (fun p => { p with rxCum := cum, rxFreed := (p.rxFreed + d) % 2 ^ 24 }); b.dev ≠ .off → b.portTalks k = true → ctlOk data = true → leAt 0 1 data = 75 → (c.portSt k = 4 ∧ c.native k = true) → 2 ^ 23 ≤ d → exec (.beaconFrame k data) s = .next (s.withBlk (((c.put LVP_ERRSTAT_CREDOVR 1 k).note (lvpFault 0x280F k)).toInit k)))
    ∧ (∀ (s : State) (k : Nat) (data : Bytes), let b := s.start; b.portTalks k = false → exec (.keepaliveReceived k data) s = .next (s.withBlk (b)))
    ∧ (∀ (s : State) (k : Nat) (data : Bytes), let b := s.start; b.dev ≠ .off → b.portTalks k = true → ctlOk data = false → exec (.keepaliveReceived k data) s = .next (s.withBlk (b.badBlock k)))
    ∧ (∀ (s : State) (k : Nat) (data : Bytes), let b := s.start; b.dev ≠ .off → b.portTalks k = true → ctlOk data = true → leAt 0 1 data ≠ 77 → exec (.keepaliveReceived k data) s = .next (s.withBlk (if blockCodes.contains (leAt 0 1 data) then b else b.badBlock k)))
    ∧ (∀ (s : State) (k : Nat) (data : Bytes), let b := s.start; let c : Block := b.put LVP_STATUS_PARTNER 1 k; b.dev ≠ .off → b.portTalks k = true → ctlOk data = true → leAt 0 1 data = 77 → ¬ (c.portSt k = 4 ∧ c.native k = true) → exec (.keepaliveReceived k data) s = .next (s.withBlk (c)))
    ∧ (∀ (s : State) (k : Nat) (data : Bytes), let b := s.start; let c : Block := b.put LVP_STATUS_PARTNER 1 k; let cum : Nat := leAt 6 3 data; let d : Nat := (cum + 2 ^ 24 - (c.port k).rxCum % 2 ^ 24) % 2 ^ 24; let e : Block := c.modPort k (fun p => { p with rxCum := cum, rxFreed := (p.rxFreed + d) % 2 ^ 24 }); b.dev ≠ .off → b.portTalks k = true → ctlOk data = true → leAt 0 1 data = 77 → (c.portSt k = 4 ∧ c.native k = true) → d = 0 → exec (.keepaliveReceived k data) s = .next (s.withBlk ((c.modPort k fun p => { p with rxCum := cum }).freed k (leAt 9 3 data))))
    ∧ (∀ (s : State) (k : Nat) (data : Bytes), let b := s.start; let c : Block := b.put LVP_STATUS_PARTNER 1 k; let cum : Nat := leAt 6 3 data; let d : Nat := (cum + 2 ^ 24 - (c.port k).rxCum % 2 ^ 24) % 2 ^ 24; let e : Block := c.modPort k (fun p => { p with rxCum := cum, rxFreed := (p.rxFreed + d) % 2 ^ 24 }); b.dev ≠ .off → b.portTalks k = true → ctlOk data = true → leAt 0 1 data = 77 → (c.portSt k = 4 ∧ c.native k = true) → 0 < d → d < 2 ^ 23 → exec (.keepaliveReceived k data) s = .next (s.withBlk ((((e.cnt k 10 d).put LVP_ERRSTAT_HEAL 1 k).noteOnce k (lvpFault 0x180B k)).freed k (leAt 9 3 data))))
    ∧ (∀ (s : State) (k : Nat) (data : Bytes), let b := s.start; let c : Block := b.put LVP_STATUS_PARTNER 1 k; let cum : Nat := leAt 6 3 data; let d : Nat := (cum + 2 ^ 24 - (c.port k).rxCum % 2 ^ 24) % 2 ^ 24; let e : Block := c.modPort k (fun p => { p with rxCum := cum, rxFreed := (p.rxFreed + d) % 2 ^ 24 }); b.dev ≠ .off → b.portTalks k = true → ctlOk data = true → leAt 0 1 data = 77 → (c.portSt k = 4 ∧ c.native k = true) → 2 ^ 23 ≤ d → exec (.keepaliveReceived k data) s = .next (s.withBlk (((c.put LVP_ERRSTAT_CREDOVR 1 k).note (lvpFault 0x280F k)).toInit k)))
    ∧ (∀ (s : State) (k : Nat), let b := s.start; b.portTalks k = false → exec (.keepaliveFrame k) s = .next (s.withBlk (b)))
    ∧ (∀ (s : State) (k : Nat), let b := s.start; b.dev ≠ .off → b.portTalks k = true → exec (.keepaliveFrame k) s = .next (s.withBlk ((b.sendBlock k ([0x4D, BitVec.ofNat 8 (b.get LVP_STATUS_BSTAT k)] ++ leBytes 2 b.devEp ++ leBytes 2 (b.port k).kseq ++ leBytes 3 (b.get LVP_TXCUM_CUM k) ++ leBytes 3 (b.port k).rxFreed)).modPort k (fun p => { p with kseq := (p.kseq + 1) % 65536, rxRep := p.rxFreed }))))
    ∧ (∀ (s : State) (k : Nat) (data : Bytes), let b := s.start; ¬ (k < 6 ∧ b.portSt k = 4 ∧ b.native k = true) → exec (.creditFrame k data) s = .next (s.withBlk (b)))
    ∧ (∀ (s : State) (k : Nat) (data : Bytes), let b := s.start; b.dev ≠ .off → (k < 6 ∧ b.portSt k = 4 ∧ b.native k = true) → ctlOk data = false → exec (.creditFrame k data) s = .next (s.withBlk (b.badBlock k)))
    ∧ (∀ (s : State) (k : Nat) (data : Bytes), let b := s.start; b.dev ≠ .off → (k < 6 ∧ b.portSt k = 4 ∧ b.native k = true) → ctlOk data = true → leAt 0 1 data ≠ 0x43 → exec (.creditFrame k data) s = .next (s.withBlk (if blockCodes.contains (leAt 0 1 data) then b else b.badBlock k)))
    ∧ (∀ (s : State) (k : Nat) (data : Bytes), let b := s.start; b.dev ≠ .off → (k < 6 ∧ b.portSt k = 4 ∧ b.native k = true) → ctlOk data = true → leAt 0 1 data = 0x43 → exec (.creditFrame k data) s = .next (s.withBlk (((b.put LVP_TXFREED_FREED (leAt 9 3 data) k).drain k).pnCheck k)))
    ∧ (∀ (s : State) (k : Nat), let b := s.start; ¬ (k < 6 ∧ b.portSt k = 4 ∧ b.native k = true ∧ (b.port k).rxFreed ≠ (b.port k).rxRep) → exec (.creditReport k) s = .next (s.withBlk (b)))
    ∧ (∀ (s : State) (k : Nat), let b := s.start; b.dev ≠ .off → (k < 6 ∧ b.portSt k = 4 ∧ b.native k = true ∧ (b.port k).rxFreed ≠ (b.port k).rxRep) → exec (.creditReport k) s = .next (s.withBlk ((b.emit (.block k (ctlBlock ([0x43] ++ List.replicate 8 0 ++ leBytes 3 (b.port k).rxFreed)))).modPort k (fun p => { p with rxRep := p.rxFreed }))))
    ∧ (∀ (s : State) (k lane : Nat), let b := s.start; ¬ (b.portTalks k = true ∧ lane < 4 ∧ bit (b.get LVP_STATUS_RXLANES k) lane = true) → exec (.laneFail k lane) s = .next (s.withBlk (b)))
    ∧ (∀ (s : State) (k lane : Nat), let b := s.start; let m : Nat := b.get LVP_STATUS_RXLANES k; let want : Nat := (b.port k).askMap.getD m; let left : Nat := if bit want lane then want - 2 ^ lane else want; let c : Block := ((b.put LVP_ERRSTAT_LANEFAIL 1 k).cnt k 13 1).dropKeys k; b.dev ≠ .off → (b.portTalks k = true ∧ lane < 4 ∧ bit (b.get LVP_STATUS_RXLANES k) lane = true) → left = 0 → c.portSt k = 4 → exec (.laneFail k lane) s = .next (s.withBlk ((c.toTrain k).raise (lvpFault 0x3805 k))))
    ∧ (∀ (s : State) (k lane : Nat), let b := s.start; let m : Nat := b.get LVP_STATUS_RXLANES k; let want : Nat := (b.port k).askMap.getD m; let left : Nat := if bit want lane then want - 2 ^ lane else want; let c : Block := ((b.put LVP_ERRSTAT_LANEFAIL 1 k).cnt k 13 1).dropKeys k; b.dev ≠ .off → (b.portTalks k = true ∧ lane < 4 ∧ bit (b.get LVP_STATUS_RXLANES k) lane = true) → left = 0 → c.portSt k ≠ 4 → exec (.laneFail k lane) s = .next (s.withBlk (c.toTrain k)))
    ∧ (∀ (s : State) (k lane : Nat), let b := s.start; let m : Nat := b.get LVP_STATUS_RXLANES k; let want : Nat := (b.port k).askMap.getD m; let left : Nat := if bit want lane then want - 2 ^ lane else want; let c : Block := ((b.put LVP_ERRSTAT_LANEFAIL 1 k).cnt k 13 1).dropKeys k; b.dev ≠ .off → (b.portTalks k = true ∧ lane < 4 ∧ bit (b.get LVP_STATUS_RXLANES k) lane = true) → left ≠ 0 → c.native k = true → exec (.laneFail k lane) s = .next (s.withBlk (((c.modPort k (fun p => { p with askMap := some left })).sendBlock k [0x4C, BitVec.ofNat 8 (left + 16)]).raise (lvpFault 0x3803 k))))
    ∧ (∀ (s : State) (k lane : Nat), let b := s.start; let m : Nat := b.get LVP_STATUS_RXLANES k; let want : Nat := (b.port k).askMap.getD m; let left : Nat := if bit want lane then want - 2 ^ lane else want; let c : Block := ((b.put LVP_ERRSTAT_LANEFAIL 1 k).cnt k 13 1).dropKeys k; b.dev ≠ .off → (b.portTalks k = true ∧ lane < 4 ∧ bit (b.get LVP_STATUS_RXLANES k) lane = true) → left ≠ 0 → c.native k = false → exec (.laneFail k lane) s = .next (s.withBlk (((c.put LVP_STATUS_RXLANES left k).raise (lvpFault 0x3803 k)).lanesCheck k m left)))
    ∧ (∀ (s : State) (k : Nat), let b := s.start; ((b.port k).askMap = none ∨ b.portTalks k = false) → exec (.lanemapResend k) s = .next (s.withBlk (b)))
    ∧ (∀ (s : State) (k m : Nat), let b := s.start; b.dev ≠ .off → (b.port k).askMap = some m → b.portTalks k = true → exec (.lanemapResend k) s = .next (s.withBlk (b.sendBlock k [0x4C, BitVec.ofNat 8 (m + 16)])))
    ∧ (∀ (s : State) (k : Nat) (data : Bytes), let b := s.start; ¬ (b.portTalks k = true ∧ b.native k = true) → exec (.lanemapFrame k data) s = .next (s.withBlk (b)))
    ∧ (∀ (s : State) (k : Nat) (data : Bytes), let b := s.start; b.dev ≠ .off → (b.portTalks k = true ∧ b.native k = true) → ctlOk data = false → exec (.lanemapFrame k data) s = .next (s.withBlk (b.badBlock k)))
    ∧ (∀ (s : State) (k : Nat) (data : Bytes), let b := s.start; let f : Nat := leAt 1 1 data; let m : Nat := b.get LVP_STATUS_TXLANES k; let left : Nat := Nat.land m (f % 16); b.dev ≠ .off → (b.portTalks k = true ∧ b.native k = true) → ctlOk data = true → (leAt 0 1 data = 0x4C ∧ bit f 4 = true ∧ left ≠ 0 ∧ left ≠ m) → exec (.lanemapFrame k data) s = .next (s.withBlk (((((((b.put LVP_STATUS_TXLANES left k).put LVP_ERRSTAT_LANEFAIL 1 k).cnt k 13 1).dropKeys k).sendAm k).raise (lvpFault 0x3803 k)).lanesCheck k m left)))
    ∧ (∀ (s : State) (k : Nat) (data : Bytes), let b := s.start; let f : Nat := leAt 1 1 data; let m : Nat := b.get LVP_STATUS_TXLANES k; let left : Nat := Nat.land m (f % 16); b.dev ≠ .off → (b.portTalks k = true ∧ b.native k = true) → ctlOk data = true → (leAt 0 1 data = 0x4C ∧ bit f 4 = false ∧ bit f 5 = true ∧ f % 16 ≠ 0) → exec (.lanemapFrame k data) s = .next (s.withBlk (((b.put LVP_STATUS_RXLANES (f % 16) k).dropKeys k).note (lvpFault 0x0804 k))))
    ∧ (∀ (s : State) (k : Nat) (data : Bytes), let b := s.start; b.dev ≠ .off → (b.portTalks k = true ∧ b.native k = true) → ctlOk data = true → leAt 0 1 data ≠ 0x4C → exec (.lanemapFrame k data) s = .next (s.withBlk (if blockCodes.contains (leAt 0 1 data) then b else b.badBlock k)))
    ∧ (∀ (s : State) (k : Nat) (data : Bytes), let b := s.start; let f : Nat := leAt 1 1 data; let m : Nat := b.get LVP_STATUS_TXLANES k; let left : Nat := Nat.land m (f % 16); (b.portTalks k = true ∧ b.native k = true) → ctlOk data = true → leAt 0 1 data = 0x4C → ¬ (leAt 0 1 data = 0x4C ∧ bit f 4 = true ∧ left ≠ 0 ∧ left ≠ m) → ¬ (leAt 0 1 data = 0x4C ∧ bit f 4 = false ∧ bit f 5 = true ∧ f % 16 ≠ 0) → exec (.lanemapFrame k data) s = .next (s.withBlk (b)))
    ∧ (∀ (s : State) (k lane : Nat), let b := s.start; b.dev ≠ .off → (b.portTalks k = true ∧ b.native k = true ∧ lane < 4 ∧ bit (b.get LVP_STATUS_TXLANES k) lane = false) → exec (.laneRestore k lane) s = .next (s.withBlk ((b.modPort k (fun p => { p with addBack := Nat.lor p.addBack (2 ^ lane) })).dropKeys k)))
    ∧ (∀ (s : State) (k lane : Nat), let b := s.start; ¬ (b.portTalks k = true ∧ b.native k = true ∧ lane < 4 ∧ bit (b.get LVP_STATUS_TXLANES k) lane = false) → exec (.laneRestore k lane) s = .next (s.withBlk (b)))
    ∧ (∀ (s : State) (k : Nat) (data : Bytes), let b := s.start; ¬ (k < 6 ∧ b.portSt k = 4 ∧ b.native k = true) → exec (.probeFrame k data) s = .next (s.withBlk (b)))
    ∧ (∀ (s : State) (k : Nat) (data : Bytes), let b := s.start; b.dev ≠ .off → (k < 6 ∧ b.portSt k = 4 ∧ b.native k = true) → ctlOk data = false → exec (.probeFrame k data) s = .next (s.withBlk (b.badBlock k)))
    ∧ (∀ (s : State) (k : Nat) (data : Bytes), let b := s.start; b.dev ≠ .off → (k < 6 ∧ b.portSt k = 4 ∧ b.native k = true) → ctlOk data = true → leAt 0 1 data ≠ 0x50 → exec (.probeFrame k data) s = .next (s.withBlk (if blockCodes.contains (leAt 0 1 data) then b else b.badBlock k)))
    ∧ (∀ (s : State) (k : Nat) (data : Bytes), let b := s.start; b.dev ≠ .off → (k < 6 ∧ b.portSt k = 4 ∧ b.native k = true) → ctlOk data = true → leAt 0 1 data = 0x50 → bit (leAt 1 1 data) 0 = true → exec (.probeFrame k data) s = .next (s.withBlk (b.put LVP_LINK_RTT (b.timeNs - leAt 10 8 data - leAt 18 4 data) k)))
    ∧ (∀ (s : State) (k : Nat) (data : Bytes), let b := s.start; b.dev ≠ .off → (k < 6 ∧ b.portSt k = 4 ∧ b.native k = true) → ctlOk data = true → leAt 0 1 data = 0x50 → bit (leAt 1 1 data) 0 = false → exec (.probeFrame k data) s = .next (s.withBlk (b.emit (.block k (ctlBlock ([0x50, 1] ++ leBytes 8 b.timeNs ++ leBytes 8 (leAt 2 8 data) ++ leBytes 4 0))))))
    ∧ (∀ (s : State) (k : Nat), let b := s.start; b.portTalks k = false → exec (.portBoundaryMissed k) s = .next (s.withBlk (b)))
    ∧ (∀ (s : State) (k : Nat), let b := s.start; b.dev ≠ .off → b.portTalks k = true → exec (.portBoundaryMissed k) s = .next (s.withBlk ((((b.put LVP_STATUS_LOCALHOLD 1 k |>.put LVP_STATUS_BSTAT 1 k |>.put LVP_ERRSTAT_BMISS 1 k).cnt k 15 1).modPort k (fun p => { p with turn := (p.turn + 1) % 2 ^ 48 }) |>.sendBeacon k true).note (lvpFault 0x280E k))))

/-- A sack on a native port that is UP is checked in order: corrected symbols are counted with 0x1801; a bad START is counted with 0x2809, and CRCERR where its CRC fails; a bad END block is a bad block, a wrong length or type is dropped; the counts heal lost sacks with 0x180B, or an overrun of the counts or of the 2,048 units sends the port to INIT with CREDOVR and 0x280F; then it is counted and its units freed, a wrong CRC-32 is counted with CRCERR and 0x2809, a failed authentication with AUTHERR and 0x280A, and any other sack goes on to its VL's checks and its destination. A frame in another mode that is UP: a wrong length or FCS is counted with CRCERR, a failed MACsec sets MACSEC with 0x2810, PAUSE is discarded, the native EtherType goes to the native checks, any other is classified with its R-TAG and VL. A valid TX slot of a loaded partition starts at its START: its egress sacks are sent as far as they fit before its END, with second copies 5 us after where DUP says so, the others dropped; outside UP, RUN and DEGRADED all are dropped. The second copy that is due goes out with DUP in its slot where it may be sent, after waiting outputs outside RUN and DEGRADED are dropped. A slot's end drops what has not started and lets the rest go. A schedule announcement goes out on every port. Everything else does nothing. -/
def Obligations.LeavoSacks : Prop :=
  (∀ (s : State) (k : Nat) (start body tail : Bytes) (fixed : Nat), let b := s.start; ¬ (k < 6 ∧ b.portSt k = 4 ∧ b.native k = true) → exec (.sackReceive k start body tail fixed) s = .next (s.withBlk (b)))
    ∧ (∀ (s : State) (k : Nat) (start body tail : Bytes) (fixed : Nat), let b := s.start; let c : Block := if fixed = 0 then b else ((b.cnt k 0 1).cnt k 1 fixed).noteOnce k (lvpFault 0x1801 k); b.dev ≠ .off → (k < 6 ∧ b.portSt k = 4 ∧ b.native k = true) → ctlOk start = false → exec (.sackReceive k start body tail fixed) s = .next (s.withBlk (((c.cnt k 5 1).put LVP_ERRSTAT_CRCERR 1 k).note (lvpFault 0x2809 k))))
    ∧ (∀ (s : State) (k : Nat) (start body tail : Bytes) (fixed : Nat), let b := s.start; let c : Block := if fixed = 0 then b else ((b.cnt k 0 1).cnt k 1 fixed).noteOnce k (lvpFault 0x1801 k); b.dev ≠ .off → (k < 6 ∧ b.portSt k = 4 ∧ b.native k = true) → ctlOk start = true → startOk start = false → exec (.sackReceive k start body tail fixed) s = .next (s.withBlk ((c.cnt k 5 1).note (lvpFault 0x2809 k))))
    ∧ (∀ (s : State) (k : Nat) (start body tail : Bytes) (fixed : Nat), let b := s.start; let c : Block := if fixed = 0 then b else ((b.cnt k 0 1).cnt k 1 fixed).noteOnce k (lvpFault 0x1801 k); b.dev ≠ .off → (k < 6 ∧ b.portSt k = 4 ∧ b.native k = true) → ctlOk start = true → startOk start = true → ctlOk tail = false → exec (.sackReceive k start body tail fixed) s = .next (s.withBlk (c.badBlock k)))
    ∧ (∀ (s : State) (k : Nat) (start body tail : Bytes) (fixed : Nat), let b := s.start; let c : Block := if fixed = 0 then b else ((b.cnt k 0 1).cnt k 1 fixed).noteOnce k (lvpFault 0x1801 k); b.dev ≠ .off → (k < 6 ∧ b.portSt k = 4 ∧ b.native k = true) → ctlOk start = true → startOk start = true → ctlOk tail = true → ¬ (body.length = (leAt 6 2 start + 31) / 32 * 32 ∧ leAt 0 1 tail = 0xE7) → exec (.sackReceive k start body tail fixed) s = .next (s.withBlk (c)))
    ∧ (∀ (s : State) (k : Nat) (start body tail : Bytes) (fixed : Nat), let b := s.start; let c : Block := if fixed = 0 then b else ((b.cnt k 0 1).cnt k 1 fixed).noteOnce k (lvpFault 0x1801 k); let u : Nat := sackUnits (leAt 6 2 start); let cum : Nat := leAt 18 3 start; let d : Nat := (cum + 2 ^ 24 - ((c.port k).rxCum + u) % 2 ^ 24) % 2 ^ 24; b.dev ≠ .off → (k < 6 ∧ b.portSt k = 4 ∧ b.native k = true) → ctlOk start = true → startOk start = true → ctlOk tail = true → (body.length = (leAt 6 2 start + 31) / 32 * 32 ∧ leAt 0 1 tail = 0xE7) → 2 ^ 23 ≤ d → exec (.sackReceive k start body tail fixed) s = .next (s.withBlk (((c.put LVP_ERRSTAT_CREDOVR 1 k).note (lvpFault 0x280F k)).toInit k)))
    ∧ (∀ (s : State) (k : Nat) (start body tail : Bytes) (fixed : Nat), let b := s.start; let c : Block := if fixed = 0 then b else ((b.cnt k 0 1).cnt k 1 fixed).noteOnce k (lvpFault 0x1801 k); let u : Nat := sackUnits (leAt 6 2 start); let cum : Nat := leAt 18 3 start; let d : Nat := (cum + 2 ^ 24 - ((c.port k).rxCum + u) % 2 ^ 24) % 2 ^ 24; let e : Block := if d = 0 then c.modPort k (fun p => { p with rxCum := cum }) else (((c.modPort k (fun p => { p with rxCum := cum, rxFreed := (p.rxFreed + d) % 2 ^ 24 })).cnt k 10 d).put LVP_ERRSTAT_HEAL 1 k).noteOnce k (lvpFault 0x180B k); let used : Nat := (cum + 2 ^ 25 - u - (e.port k).rxFreed) % 2 ^ 24; b.dev ≠ .off → (k < 6 ∧ b.portSt k = 4 ∧ b.native k = true) → ctlOk start = true → startOk start = true → ctlOk tail = true → (body.length = (leAt 6 2 start + 31) / 32 * 32 ∧ leAt 0 1 tail = 0xE7) → d < 2 ^ 23 → 2048 < used + u → exec (.sackReceive k start body tail fixed) s = .next (s.withBlk (((e.put LVP_ERRSTAT_CREDOVR 1 k).note (lvpFault 0x280F k)).toInit k)))
    ∧ (∀ (s : State) (k : Nat) (start body tail : Bytes) (fixed : Nat), let b := s.start; let c : Block := if fixed = 0 then b else ((b.cnt k 0 1).cnt k 1 fixed).noteOnce k (lvpFault 0x1801 k); let u : Nat := sackUnits (leAt 6 2 start); let cum : Nat := leAt 18 3 start; let d : Nat := (cum + 2 ^ 24 - ((c.port k).rxCum + u) % 2 ^ 24) % 2 ^ 24; let e : Block := if d = 0 then c.modPort k (fun p => { p with rxCum := cum }) else (((c.modPort k (fun p => { p with rxCum := cum, rxFreed := (p.rxFreed + d) % 2 ^ 24 })).cnt k 10 d).put LVP_ERRSTAT_HEAL 1 k).noteOnce k (lvpFault 0x180B k); let used : Nat := (cum + 2 ^ 25 - u - (e.port k).rxFreed) % 2 ^ 24; let f : Block := (e.cnt k 4 1).modPort k (fun p => { p with rxFreed := (p.rxFreed + u) % 2 ^ 24 }); let payload : Bytes := body.take (leAt 6 2 start); let tag : Bytes := (tail.drop 2).take 16; b.dev ≠ .off → (k < 6 ∧ b.portSt k = 4 ∧ b.native k = true) → ctlOk start = true → startOk start = true → ctlOk tail = true → (body.length = (leAt 6 2 start + 31) / 32 * 32 ∧ leAt 0 1 tail = 0xE7) → d < 2 ^ 23 → used + u ≤ 2048 → ¬ leAt 18 4 tail = crc32 (start ++ payload ++ tag) → exec (.sackReceive k start body tail fixed) s = .next (s.withBlk (((f.cnt k 6 1).put LVP_ERRSTAT_CRCERR 1 k).note (lvpFault 0x2809 k))))
    ∧ (∀ (s : State) (k : Nat) (start body tail : Bytes) (fixed : Nat), let b := s.start; let c : Block := if fixed = 0 then b else ((b.cnt k 0 1).cnt k 1 fixed).noteOnce k (lvpFault 0x1801 k); let u : Nat := sackUnits (leAt 6 2 start); let cum : Nat := leAt 18 3 start; let d : Nat := (cum + 2 ^ 24 - ((c.port k).rxCum + u) % 2 ^ 24) % 2 ^ 24; let e : Block := if d = 0 then c.modPort k (fun p => { p with rxCum := cum }) else (((c.modPort k (fun p => { p with rxCum := cum, rxFreed := (p.rxFreed + d) % 2 ^ 24 })).cnt k 10 d).put LVP_ERRSTAT_HEAL 1 k).noteOnce k (lvpFault 0x180B k); let used : Nat := (cum + 2 ^ 25 - u - (e.port k).rxFreed) % 2 ^ 24; let f : Block := (e.cnt k 4 1).modPort k (fun p => { p with rxFreed := (p.rxFreed + u) % 2 ^ 24 }); let payload : Bytes := body.take (leAt 6 2 start); let tag : Bytes := (tail.drop 2).take 16; let g : Option Bytes × Block := f.authSack k start payload tag; b.dev ≠ .off → (k < 6 ∧ b.portSt k = 4 ∧ b.native k = true) → ctlOk start = true → startOk start = true → ctlOk tail = true → (body.length = (leAt 6 2 start + 31) / 32 * 32 ∧ leAt 0 1 tail = 0xE7) → d < 2 ^ 23 → used + u ≤ 2048 → leAt 18 4 tail = crc32 (start ++ payload ++ tag) → g.1 = none → exec (.sackReceive k start body tail fixed) s = .next (s.withBlk (((g.2.cnt k 7 1).put LVP_ERRSTAT_AUTHERR 1 k).note (lvpFault 0x280A k))))
    ∧ (∀ (s : State) (k : Nat) (start body tail : Bytes) (fixed : Nat) (v : Bytes), let b := s.start; let c : Block := if fixed = 0 then b else ((b.cnt k 0 1).cnt k 1 fixed).noteOnce k (lvpFault 0x1801 k); let u : Nat := sackUnits (leAt 6 2 start); let cum : Nat := leAt 18 3 start; let d : Nat := (cum + 2 ^ 24 - ((c.port k).rxCum + u) % 2 ^ 24) % 2 ^ 24; let e : Block := if d = 0 then c.modPort k (fun p => { p with rxCum := cum }) else (((c.modPort k (fun p => { p with rxCum := cum, rxFreed := (p.rxFreed + d) % 2 ^ 24 })).cnt k 10 d).put LVP_ERRSTAT_HEAL 1 k).noteOnce k (lvpFault 0x180B k); let used : Nat := (cum + 2 ^ 25 - u - (e.port k).rxFreed) % 2 ^ 24; let f : Block := (e.cnt k 4 1).modPort k (fun p => { p with rxFreed := (p.rxFreed + u) % 2 ^ 24 }); let payload : Bytes := body.take (leAt 6 2 start); let tag : Bytes := (tail.drop 2).take 16; let g : Option Bytes × Block := f.authSack k start payload tag; b.dev ≠ .off → (k < 6 ∧ b.portSt k = 4 ∧ b.native k = true) → ctlOk start = true → startOk start = true → ctlOk tail = true → (body.length = (leAt 6 2 start + 31) / 32 * 32 ∧ leAt 0 1 tail = 0xE7) → d < 2 ^ 23 → used + u ≤ 2048 → leAt 18 4 tail = crc32 (start ++ payload ++ tag) → g.1 = some v → exec (.sackReceive k start body tail fixed) s = .next (s.withBlk (g.2.passSack k (bit (leAt 1 1 start) 2) (sackOf start v))))
    ∧ (∀ (s : State) (k lane : Nat) (frame : Bytes), let b := s.start; ¬ (k < 6 ∧ lane < 4 ∧ b.portSt k = 4 ∧ b.native k = false) → exec (.ethernetFrameReceive k lane frame) s = .next (s.withBlk (b)))
    ∧ (∀ (s : State) (k lane : Nat) (frame : Bytes), let b := s.start; let n : Nat := frame.length; b.dev ≠ .off → (k < 6 ∧ lane < 4 ∧ b.portSt k = 4 ∧ b.native k = false) → ¬ (64 ≤ n ∧ n ≤ 9216 ∧ leNat (frame.drop (n - 4)) = crc32 (frame.take (n - 4))) → exec (.ethernetFrameReceive k lane frame) s = .next (s.withBlk ((b.cnt k 5 1).put LVP_ERRSTAT_CRCERR 1 k)))
    ∧ (∀ (s : State) (k lane : Nat) (frame : Bytes), let b := s.start; let n : Nat := frame.length; let r : Option (Bytes × Bool) × Block := b.macOpen k lane (frame.take (n - 4)); b.dev ≠ .off → (k < 6 ∧ lane < 4 ∧ b.portSt k = 4 ∧ b.native k = false) → (64 ≤ n ∧ n ≤ 9216 ∧ leNat (frame.drop (n - 4)) = crc32 (frame.take (n - 4))) → r.1 = none → exec (.ethernetFrameReceive k lane frame) s = .next (s.withBlk ((r.2.put LVP_ERRSTAT_MACSEC 1 k).note (lvpFault 0x2810 k))))
    ∧ (∀ (s : State) (k lane : Nat) (frame : Bytes) (v : Bytes) (sec : Bool), let b := s.start; let n : Nat := frame.length; let r : Option (Bytes × Bool) × Block := b.macOpen k lane (frame.take (n - 4)); let c : Block := r.2; let ty : Nat := beNat ((v.drop (etherAt v)).take 2); b.dev ≠ .off → (k < 6 ∧ lane < 4 ∧ b.portSt k = 4 ∧ b.native k = false) → (64 ≤ n ∧ n ≤ 9216 ∧ leNat (frame.drop (n - 4)) = crc32 (frame.take (n - 4))) → r.1 = some (v, sec) → ty = 0x8808 → exec (.ethernetFrameReceive k lane frame) s = .next (s.withBlk (c)))
    ∧ (∀ (s : State) (k lane : Nat) (frame : Bytes) (v : Bytes) (sec : Bool), let b := s.start; let n : Nat := frame.length; let r : Option (Bytes × Bool) × Block := b.macOpen k lane (frame.take (n - 4)); let c : Block := r.2; let ty : Nat := beNat ((v.drop (etherAt v)).take 2); b.dev ≠ .off → (k < 6 ∧ lane < 4 ∧ b.portSt k = 4 ∧ b.native k = false) → (64 ≤ n ∧ n ≤ 9216 ∧ leNat (frame.drop (n - 4)) = crc32 (frame.take (n - 4))) → r.1 = some (v, sec) → ty ≠ 0x8808 → ty = c.actN 0x4020 2 → exec (.ethernetFrameReceive k lane frame) s = .next (s.withBlk (c.nativeFrame k sec (v.drop (etherAt v + 2)))))
    ∧ (∀ (s : State) (k lane : Nat) (frame : Bytes) (v : Bytes) (sec : Bool), let b := s.start; let n : Nat := frame.length; let r : Option (Bytes × Bool) × Block := b.macOpen k lane (frame.take (n - 4)); let c : Block := r.2; let ty : Nat := beNat ((v.drop (etherAt v)).take 2); b.dev ≠ .off → (k < 6 ∧ lane < 4 ∧ b.portSt k = 4 ∧ b.native k = false) → (64 ≤ n ∧ n ≤ 9216 ∧ leNat (frame.drop (n - 4)) = crc32 (frame.take (n - 4))) → r.1 = some (v, sec) → ty ≠ 0x8808 → ty ≠ c.actN 0x4020 2 → exec (.ethernetFrameReceive k lane frame) s = .next (s.withBlk (c.classify { keys := frameKeys v, port := k, turn := c.tagTurn, phase := c.nowNs, eth := true, sec := sec, rtag := if (v.drop (etherAt v - 6)).take 2 = [0xF1, 0xC1] then some (beNat ((v.drop (etherAt v - 2)).take 2)) else none, sack := { vl := pcpVl (if (v.drop 12).take 2 = [0x81, 0x00] then leAt 14 1 v / 32 else 0), payload := v } })))
    ∧ (∀ (s : State) (k slot : Nat), let b := s.start; ¬ (k < 6 ∧ slot < 64 ∧ b.isSet LVP_SLOT_VALID k slot = true ∧ b.isSet LVP_SLOT_DIR k slot = false) → exec (.txSlotStart k slot) s = .next (s.withBlk (b)))
    ∧ (∀ (s : State) (k slot : Nat), let b := s.start; let p : Nat := b.get LVP_SLOT_PART k slot; let c : Block := b.advanceTo (b.get LVP_SLOT_START k slot * 100); b.dev ≠ .off → (k < 6 ∧ slot < 64 ∧ b.isSet LVP_SLOT_VALID k slot = true ∧ b.isSet LVP_SLOT_DIR k slot = false) → ¬ (c.partDefined p = true ∧ c.get BLT_PSTAT_STATE p ≠ pDefined) → exec (.txSlotStart k slot) s = .next (s.withBlk (c)))
    ∧ (∀ (s : State) (k slot : Nat), let b := s.start; let p : Nat := b.get LVP_SLOT_PART k slot; let c : Block := b.advanceTo (b.get LVP_SLOT_START k slot * 100); let l : List Sack := (c.egressSacks p k).1; let d : Block := (c.egressSacks p k).2; let each : Nat := if c.isSet LVP_SLOT_DUP k slot then 2 else 1; b.dev ≠ .off → (k < 6 ∧ slot < 64 ∧ b.isSet LVP_SLOT_VALID k slot = true ∧ b.isSet LVP_SLOT_DIR k slot = false) → (c.partDefined p = true ∧ c.get BLT_PSTAT_STATE p ≠ pDefined) → ¬ (d.portSt k = 4 ∧ d.outputsOn = true) → exec (.txSlotStart k slot) s = .next (s.withBlk (d.dropVl0 k (each * l.length))))
    ∧ (∀ (s : State) (k slot : Nat), let b := s.start; let p : Nat := b.get LVP_SLOT_PART k slot; let c : Block := b.advanceTo (b.get LVP_SLOT_START k slot * 100); let l : List Sack := (c.egressSacks p k).1; let d : Block := (c.egressSacks p k).2; let each : Nat := if c.isSet LVP_SLOT_DUP k slot then 2 else 1; let go : List (Nat × Sack) := startTimes (popcount 4 (d.get LVP_STATUS_TXLANES k)) ((d.get LVP_SLOT_END k slot - d.get LVP_SLOT_START k slot) * 100) 0 l; let e : Block := d.dropVl0 k (each * (l.length - go.length)); b.dev ≠ .off → (k < 6 ∧ slot < 64 ∧ b.isSet LVP_SLOT_VALID k slot = true ∧ b.isSet LVP_SLOT_DIR k slot = false) → (c.partDefined p = true ∧ c.get BLT_PSTAT_STATE p ≠ pDefined) → (d.portSt k = 4 ∧ d.outputsOn = true) → exec (.txSlotStart k slot) s = .next (s.withBlk (((e.modPort k (fun q => { q with slot := some slot, vl0 := go.map (·.2), dups := if c.isSet LVP_SLOT_DUP k slot then go.map fun x => (d.nowNs + x.1 + 5000, x.2) else [] })).drain k).pnCheck k)))
    ∧ (∀ (s : State) (k : Nat), let b := s.start; let c : Block := b.dropOutputs k; b.dev ≠ .off → (c.port k).dups = [] → exec (.dupCopySend k) s = .next (s.withBlk (c)))
    ∧ (∀ (s : State) (k t : Nat) (x : Sack) (r : List (Nat × Sack)), let b := s.start; let c : Block := b.dropOutputs k; let d : Block := c.advanceTo t; b.dev ≠ .off → (c.port k).dups = (t, x) :: r → ¬ (k < 6 ∧ (d.port k).slot ≠ none ∧ d.maySend k x = true) → exec (.dupCopySend k) s = .next (s.withBlk (d)))
    ∧ (∀ (s : State) (k t : Nat) (x : Sack) (r : List (Nat × Sack)), let b := s.start; let c : Block := b.dropOutputs k; let d : Block := c.advanceTo t; b.dev ≠ .off → (c.port k).dups = (t, x) :: r → (k < 6 ∧ (d.port k).slot ≠ none ∧ d.maySend k x = true) → exec (.dupCopySend k) s = .next (s.withBlk (((d.modPort k (fun p => { p with dups := r })).putSack k { x with dup := true }).pnCheck k)))
    ∧ (∀ (s : State) (k slot : Nat), let b := s.start; ¬ (k < 6 ∧ (b.port k).slot = some slot) → exec (.slotEnd k slot) s = .next (s.withBlk (b)))
    ∧ (∀ (s : State) (k slot : Nat), let b := s.start; let c : Block := b.advanceTo (b.get LVP_SLOT_END k slot * 100); b.dev ≠ .off → (k < 6 ∧ (b.port k).slot = some slot) → exec (.slotEnd k slot) s = .next (s.withBlk ((((c.dropVl0 k ((c.port k).vl0.length + (c.port k).dups.length)).modPort k (fun p => { p with slot := none, vl0 := [], dups := [] })).drain k).pnCheck k)))
    ∧ (∀ (s : State), let b := s.start; b.dev ≠ .off → exec (.scheduleAnnouncement) s = .next (s.withBlk (b.announceAll)))

/-- A key-management payload counts where its port is UP and native, its length, type and slot are right and its TAG holds under the link master key. An OFFER at the responder is answered REJECT for the slot in use, else with both keys loaded into the slot, kept as the exchange under way, and ACCEPT with the responder's nonce. An ACCEPT at the initiator with its slot, its EPOCH and another nonce than its own loads both keys, sends CONFIRM and completes the exchange; a CONFIRM at the responder with its slot, EPOCH and nonce completes it there. The initiator sends its OFFER again, 8 times after the first; then the exchange is given up with 0x2C0B. A REJECT, and anything else, changes nothing. -/
def Obligations.LeavoKeys : Prop :=
  (∀ (s : State) (k src dst : Nat) (payload : Bytes), let b := s.start; ¬ (b.keyOk k 1 src dst payload = true ∧ b.initiates k = false) → exec (.keyOffer k src dst payload) s = .next (s.withBlk (b)))
    ∧ (∀ (s : State) (k src dst : Nat) (payload : Bytes), let b := s.start; let slot : Nat := leAt 1 1 payload; let epoch : Nat := leAt 4 4 payload; let na : Bytes := (payload.drop 8).take 32; let nb : Bytes := leBytes 32 (Config.nonce b.free); let lmk : Bytes := SMap.get [] k b.lvp.lmk; b.dev ≠ .off → (b.keyOk k 1 src dst payload = true ∧ b.initiates k = false) → slot = b.get LVP_KEYSTAT_TXKEYID k → exec (.keyOffer k src dst payload) s = .next (s.withBlk (b.sendKey k 4 slot epoch (List.replicate 32 0))))
    ∧ (∀ (s : State) (k src dst : Nat) (payload : Bytes), let b := s.start; let slot : Nat := leAt 1 1 payload; let epoch : Nat := leAt 4 4 payload; let na : Bytes := (payload.drop 8).take 32; let nb : Bytes := leBytes 32 (Config.nonce b.free); let lmk : Bytes := SMap.get [] k b.lvp.lmk; b.dev ≠ .off → (b.keyOk k 1 src dst payload = true ∧ b.initiates k = false) → slot ≠ b.get LVP_KEYSTAT_TXKEYID k → exec (.keyOffer k src dst payload) s = .next (s.withBlk (((b.tickFree.loadKeys k slot (keyDerive lmk epoch na nb 1) (keyDerive lmk epoch na nb 0)).modPort k (fun p => { p with kx := some { mine := false, slot := slot, epoch := epoch, na := na, nb := nb }, epoch := epoch })).sendKey k 2 slot epoch nb)))
    ∧ (∀ (s : State) (k src dst : Nat) (payload : Bytes), let b := s.start; (b.port k).kx = none → exec (.keyAccept k src dst payload) s = .next (s.withBlk (b)))
    ∧ (∀ (s : State) (k src dst : Nat) (payload : Bytes) (x : KeyX), let b := s.start; let nb : Bytes := (payload.drop 8).take 32; let lmk : Bytes := SMap.get [] k b.lvp.lmk; (b.port k).kx = some x → ¬ (x.mine = true ∧ b.keyOk k 2 src dst payload = true ∧ leAt 1 1 payload = x.slot ∧ leAt 4 4 payload = x.epoch ∧ nb ≠ x.na) → exec (.keyAccept k src dst payload) s = .next (s.withBlk (b)))
    ∧ (∀ (s : State) (k src dst : Nat) (payload : Bytes) (x : KeyX), let b := s.start; let nb : Bytes := (payload.drop 8).take 32; let lmk : Bytes := SMap.get [] k b.lvp.lmk; b.dev ≠ .off → (b.port k).kx = some x → (x.mine = true ∧ b.keyOk k 2 src dst payload = true ∧ leAt 1 1 payload = x.slot ∧ leAt 4 4 payload = x.epoch ∧ nb ≠ x.na) → exec (.keyAccept k src dst payload) s = .next (s.withBlk (((b.loadKeys k x.slot (keyDerive lmk x.epoch x.na nb 0) (keyDerive lmk x.epoch x.na nb 1)).sendKey k 3 x.slot x.epoch nb).keysDone k x.slot)))
    ∧ (∀ (s : State) (k src dst : Nat) (payload : Bytes), let b := s.start; (b.port k).kx = none → exec (.keyConfirm k src dst payload) s = .next (s.withBlk (b)))
    ∧ (∀ (s : State) (k src dst : Nat) (payload : Bytes) (x : KeyX), let b := s.start; (b.port k).kx = some x → ¬ (x.mine = false ∧ b.keyOk k 3 src dst payload = true ∧ leAt 1 1 payload = x.slot ∧ leAt 4 4 payload = x.epoch ∧ (payload.drop 8).take 32 = x.nb) → exec (.keyConfirm k src dst payload) s = .next (s.withBlk (b)))
    ∧ (∀ (s : State) (k src dst : Nat) (payload : Bytes) (x : KeyX), let b := s.start; b.dev ≠ .off → (b.port k).kx = some x → (x.mine = false ∧ b.keyOk k 3 src dst payload = true ∧ leAt 1 1 payload = x.slot ∧ leAt 4 4 payload = x.epoch ∧ (payload.drop 8).take 32 = x.nb) → exec (.keyConfirm k src dst payload) s = .next (s.withBlk (b.keysDone k x.slot)))
    ∧ (∀ (s : State) (k : Nat) (payload : Bytes), let b := s.start; exec (.keyReject k payload) s = .next (s.withBlk (b)))
    ∧ (∀ (s : State) (k : Nat), let b := s.start; (b.port k).kx = none → exec (.keyOfferResend k) s = .next (s.withBlk (b)))
    ∧ (∀ (s : State) (k : Nat) (x : KeyX), let b := s.start; (b.port k).kx = some x → x.mine = false → exec (.keyOfferResend k) s = .next (s.withBlk (b)))
    ∧ (∀ (s : State) (k : Nat) (x : KeyX), let b := s.start; b.dev ≠ .off → (b.port k).kx = some x → x.mine = true → x.sent ≤ 8 → exec (.keyOfferResend k) s = .next (s.withBlk ((b.modPort k (fun p => { p with kx := some { x with sent := x.sent + 1 } })).sendKey k 1 x.slot x.epoch x.na)))
    ∧ (∀ (s : State) (k : Nat) (x : KeyX), let b := s.start; b.dev ≠ .off → (b.port k).kx = some x → x.mine = true → 8 < x.sent → exec (.keyOfferResend k) s = .next (s.withBlk ((b.dropKeys k).note (lvpFault 0x2C0B k))))

/-- A manager command from an agent that may give none gets an access error and 0x2908. A refused one shows its sender, DONE, ERR and the code. Flows: 3 for a fixed flow, 8 for words that are not valid, 4 for a key in use, a tag in either bucket or no free slot, 2 with 0x2902 for a bucket that cannot be read, 5 for a flow that is not there or cannot be read, and for a lookup that finds none, with MRES 0, or meets an unreadable table, with 0x2902 too; a lookup with ARG 1. Instances: 2 for a number above 255 or a queue above 7, 1 for reserved bits in MDATA, 7 for a state in which the command is not allowed, 8 for a context or a page count that is not valid, 5 for a context that cannot be read, 6 for shares above 1,024. -/
def Obligations.SluiceManager : Prop :=
  (∀ (s : State) (mid : Nat) (part : Option Nat) (arg : Nat), let b := s.start; b.dev ≠ .off → b.isManager mid part true = false → exec (.flowInsert mid part arg) s = .next (s.withBlk ((b.emit .accessError).note { code := 0x2908, mid := some mid })))
    ∧ (∀ (s : State) (mid : Nat) (part : Option Nat) (arg : Nat), let b := s.start; b.dev ≠ .off → b.isManager mid part true = false → exec (.flowDelete mid part arg) s = .next (s.withBlk ((b.emit .accessError).note { code := 0x2908, mid := some mid })))
    ∧ (∀ (s : State) (mid : Nat) (part : Option Nat) (arg : Nat), let b := s.start; b.dev ≠ .off → b.isManager mid part true = false → exec (.flowModify mid part arg) s = .next (s.withBlk ((b.emit .accessError).note { code := 0x2908, mid := some mid })))
    ∧ (∀ (s : State) (mid : Nat) (part : Option Nat) (arg : Nat), let b := s.start; b.dev ≠ .off → b.isManager mid part true = false → exec (.flowRead mid part arg) s = .next (s.withBlk ((b.emit .accessError).note { code := 0x2908, mid := some mid })))
    ∧ (∀ (s : State) (mid : Nat) (part : Option Nat) (arg : Nat), let b := s.start; b.dev ≠ .off → b.isManager mid part true = false → exec (.flowLookup mid part arg) s = .next (s.withBlk ((b.emit .accessError).note { code := 0x2908, mid := some mid })))
    ∧ (∀ (s : State) (mid : Nat) (part : Option Nat) (arg : Nat), let b := s.start; b.dev ≠ .off → b.isManager mid part true = false → exec (.instConfig mid part arg) s = .next (s.withBlk ((b.emit .accessError).note { code := 0x2908, mid := some mid })))
    ∧ (∀ (s : State) (mid : Nat) (part : Option Nat) (arg : Nat), let b := s.start; b.dev ≠ .off → b.isManager mid part true = false → exec (.qctxWrite mid part arg) s = .next (s.withBlk ((b.emit .accessError).note { code := 0x2908, mid := some mid })))
    ∧ (∀ (s : State) (mid : Nat) (part : Option Nat) (arg : Nat), let b := s.start; b.dev ≠ .off → b.isManager mid part true = false → exec (.qctxRead mid part arg) s = .next (s.withBlk ((b.emit .accessError).note { code := 0x2908, mid := some mid })))
    ∧ (∀ (s : State) (mid : Nat) (part : Option Nat) (arg : Nat), let b := s.start; b.dev ≠ .off → b.isManager mid part true = false → exec (.instShare mid part arg) s = .next (s.withBlk ((b.emit .accessError).note { code := 0x2908, mid := some mid })))
    ∧ (∀ (s : State) (mid : Nat) (part : Option Nat) (arg : Nat), let b := s.start; b.dev ≠ .off → b.isManager mid part true = false → exec (.instResetDrain mid part arg) s = .next (s.withBlk ((b.emit .accessError).note { code := 0x2908, mid := some mid })))
    ∧ (∀ (s : State) (mid : Nat) (part : Option Nat) (arg : Nat), let b := s.start; b.dev ≠ .off → b.isManager mid part true = false → exec (.instResetSquash mid part arg) s = .next (s.withBlk ((b.emit .accessError).note { code := 0x2908, mid := some mid })))
    ∧ (∀ (s : State) (mid : Nat) (part : Option Nat) (arg : Nat), let b := s.start; b.dev ≠ .off → b.isManager mid part true = false → exec (.logConfig mid part arg) s = .next (s.withBlk ((b.emit .accessError).note { code := 0x2908, mid := some mid })))
    ∧ (∀ (s : State) (mid : Nat) (part : Option Nat) (arg : Nat), let b := s.start; b.dev ≠ .off → b.isManager mid part true = false → exec (.logSwap mid part arg) s = .next (s.withBlk ((b.emit .accessError).note { code := 0x2908, mid := some mid })))
    ∧ (∀ (s : State) (mid : Nat) (part : Option Nat) (arg : Nat), let b := s.start; b.dev ≠ .off → b.isManager mid part true = false → exec (.logStop mid part arg) s = .next (s.withBlk ((b.emit .accessError).note { code := 0x2908, mid := some mid })))
    ∧ (∀ (s : State) (mid : Nat) (part : Option Nat) (arg : Nat), let b := s.start; b.dev ≠ .off → b.isManager mid part true = false → exec (.instClrerr mid part arg) s = .next (s.withBlk ((b.emit .accessError).note { code := 0x2908, mid := some mid })))
    ∧ (∀ (s : State) (mid : Nat) (part : Option Nat) (arg : Nat), let b := s.start; let a : Nat := arg % 2 ^ 20; let ws : List Nat := b.mdataWords; let h : Nat × Nat × Nat := flowHash (ctxKey ws); b.dev ≠ .off → b.isManager mid part true = true → b.flowFixed a ws = true → exec (.flowInsert mid part arg) s = .next (s.withBlk ((((b.put SLC_MSTAT_OWNER mid).put SLC_MSTAT_DONE 1).put SLC_MSTAT_ERR 1).put SLC_MSTAT_ERRCODE 3)))
    ∧ (∀ (s : State) (mid : Nat) (part : Option Nat) (arg : Nat), let b := s.start; let a : Nat := arg % 2 ^ 20; let ws : List Nat := b.mdataWords; let h : Nat × Nat × Nat := flowHash (ctxKey ws); b.dev ≠ .off → b.isManager mid part true = true → b.flowFixed a ws = false → ¬ (ctxValid ws = true ∧ 1 ≤ fKtype ws ∧ fKtype ws ≤ 3) → exec (.flowInsert mid part arg) s = .next (s.withBlk ((((b.put SLC_MSTAT_OWNER mid).put SLC_MSTAT_DONE 1).put SLC_MSTAT_ERR 1).put SLC_MSTAT_ERRCODE 8)))
    ∧ (∀ (s : State) (mid : Nat) (part : Option Nat) (arg : Nat), let b := s.start; let a : Nat := arg % 2 ^ 20; let ws : List Nat := b.mdataWords; let h : Nat × Nat × Nat := flowHash (ctxKey ws); b.dev ≠ .off → b.isManager mid part true = true → b.flowFixed a ws = false → (ctxValid ws = true ∧ 1 ≤ fKtype ws ∧ fKtype ws ≤ 3) → (b.flowByKey (ctxKey ws)).isSome = true → exec (.flowInsert mid part arg) s = .next (s.withBlk ((((b.put SLC_MSTAT_OWNER mid).put SLC_MSTAT_DONE 1).put SLC_MSTAT_ERR 1).put SLC_MSTAT_ERRCODE 4)))
    ∧ (∀ (s : State) (mid : Nat) (part : Option Nat) (arg : Nat), let b := s.start; let a : Nat := arg % 2 ^ 20; let ws : List Nat := b.mdataWords; let h : Nat × Nat × Nat := flowHash (ctxKey ws); let r : Except Nat Bytes × Block := b.flowRead (b.flowBucket h.1); let c : Block := r.2; let q : Except Nat Bytes × Block := c.flowRead (c.flowBucket h.2.1); let d : Block := q.2; b.dev ≠ .off → b.isManager mid part true = true → b.flowFixed a ws = false → (ctxValid ws = true ∧ 1 ≤ fKtype ws ∧ fKtype ws ≤ 3) → b.flowByKey (ctxKey ws) = none → r.1.toOption = none → exec (.flowInsert mid part arg) s = .next (s.withBlk (((((c.note { code := 0x2902, mid := some midSluice, addr := some (b.flowBucket h.1) }).put SLC_MSTAT_OWNER mid).put SLC_MSTAT_DONE 1).put SLC_MSTAT_ERR 1).put SLC_MSTAT_ERRCODE 2)))
    ∧ (∀ (s : State) (mid : Nat) (part : Option Nat) (arg : Nat), let b := s.start; let a : Nat := arg % 2 ^ 20; let ws : List Nat := b.mdataWords; let h : Nat × Nat × Nat := flowHash (ctxKey ws); let r : Except Nat Bytes × Block := b.flowRead (b.flowBucket h.1); let c : Block := r.2; let q : Except Nat Bytes × Block := c.flowRead (c.flowBucket h.2.1); let d : Block := q.2; b.dev ≠ .off → b.isManager mid part true = true → b.flowFixed a ws = false → (ctxValid ws = true ∧ 1 ≤ fKtype ws ∧ fKtype ws ≤ 3) → b.flowByKey (ctxKey ws) = none → r.1.toOption ≠ none → q.1.toOption = none → exec (.flowInsert mid part arg) s = .next (s.withBlk (((((d.note { code := 0x2902, mid := some midSluice, addr := some (c.flowBucket h.2.1) }).put SLC_MSTAT_OWNER mid).put SLC_MSTAT_DONE 1).put SLC_MSTAT_ERR 1).put SLC_MSTAT_ERRCODE 2)))
    ∧ (∀ (s : State) (mid : Nat) (part : Option Nat) (arg : Nat) (u v : Bytes), let b := s.start; let a : Nat := arg % 2 ^ 20; let ws : List Nat := b.mdataWords; let h : Nat × Nat × Nat := flowHash (ctxKey ws); let r : Except Nat Bytes × Block := b.flowRead (b.flowBucket h.1); let c : Block := r.2; let q : Except Nat Bytes × Block := c.flowRead (c.flowBucket h.2.1); let d : Block := q.2; b.dev ≠ .off → b.isManager mid part true = true → b.flowFixed a ws = false → (ctxValid ws = true ∧ 1 ≤ fKtype ws ∧ fKtype ws ≤ 3) → b.flowByKey (ctxKey ws) = none → r.1.toOption = some u → q.1.toOption = some v → (ctxOf u ++ ctxOf v).any (fun w => bit w 20 && bits w 32 59 = h.2.2) = true → exec (.flowInsert mid part arg) s = .next (s.withBlk ((((d.put SLC_MSTAT_OWNER mid).put SLC_MSTAT_DONE 1).put SLC_MSTAT_ERR 1).put SLC_MSTAT_ERRCODE 4)))
    ∧ (∀ (s : State) (mid : Nat) (part : Option Nat) (arg : Nat) (u v : Bytes), let b := s.start; let a : Nat := arg % 2 ^ 20; let ws : List Nat := b.mdataWords; let h : Nat × Nat × Nat := flowHash (ctxKey ws); let r : Except Nat Bytes × Block := b.flowRead (b.flowBucket h.1); let c : Block := r.2; let q : Except Nat Bytes × Block := c.flowRead (c.flowBucket h.2.1); let d : Block := q.2; b.dev ≠ .off → b.isManager mid part true = true → b.flowFixed a ws = false → (ctxValid ws = true ∧ 1 ≤ fKtype ws ∧ fKtype ws ≤ 3) → b.flowByKey (ctxKey ws) = none → r.1.toOption = some u → q.1.toOption = some v → (ctxOf u ++ ctxOf v).any (fun w => bit w 20 && bits w 32 59 = h.2.2) = false → (ctxOf u ++ ctxOf v).all (fun w => bit w 20) = true → exec (.flowInsert mid part arg) s = .next (s.withBlk ((((d.put SLC_MSTAT_OWNER mid).put SLC_MSTAT_DONE 1).put SLC_MSTAT_ERR 1).put SLC_MSTAT_ERRCODE 4)))
    ∧ (∀ (s : State) (mid : Nat) (part : Option Nat) (arg : Nat), let b := s.start; let a : Nat := arg % 2 ^ 20; let n : Option (List Nat) × Block := b.flowNow a; b.dev ≠ .off → b.isManager mid part true = true → n.1 = none → exec (.flowDelete mid part arg) s = .next (s.withBlk ((((n.2.put SLC_MSTAT_OWNER mid).put SLC_MSTAT_DONE 1).put SLC_MSTAT_ERR 1).put SLC_MSTAT_ERRCODE 5)))
    ∧ (∀ (s : State) (mid : Nat) (part : Option Nat) (arg : Nat) (ws : List Nat), let b := s.start; let a : Nat := arg % 2 ^ 20; let n : Option (List Nat) × Block := b.flowNow a; b.dev ≠ .off → b.isManager mid part true = true → n.1 = some ws → fKtype ws = 0 → exec (.flowDelete mid part arg) s = .next (s.withBlk ((((n.2.put SLC_MSTAT_OWNER mid).put SLC_MSTAT_DONE 1).put SLC_MSTAT_ERR 1).put SLC_MSTAT_ERRCODE 5)))
    ∧ (∀ (s : State) (mid : Nat) (part : Option Nat) (arg : Nat), let b := s.start; let a : Nat := arg % 2 ^ 20; let n : Option (List Nat) × Block := b.flowNow a; b.dev ≠ .off → b.isManager mid part true = true → n.1 = none → exec (.flowModify mid part arg) s = .next (s.withBlk ((((n.2.put SLC_MSTAT_OWNER mid).put SLC_MSTAT_DONE 1).put SLC_MSTAT_ERR 1).put SLC_MSTAT_ERRCODE 5)))
    ∧ (∀ (s : State) (mid : Nat) (part : Option Nat) (arg : Nat) (ws : List Nat), let b := s.start; let a : Nat := arg % 2 ^ 20; let n : Option (List Nat) × Block := b.flowNow a; b.dev ≠ .off → b.isManager mid part true = true → n.1 = some ws → fKtype ws = 0 → exec (.flowModify mid part arg) s = .next (s.withBlk ((((n.2.put SLC_MSTAT_OWNER mid).put SLC_MSTAT_DONE 1).put SLC_MSTAT_ERR 1).put SLC_MSTAT_ERRCODE 5)))
    ∧ (∀ (s : State) (mid : Nat) (part : Option Nat) (arg : Nat), let b := s.start; let a : Nat := arg % 2 ^ 20; let n : Option (List Nat) × Block := b.flowNow a; b.dev ≠ .off → b.isManager mid part true = true → n.1 = none → exec (.flowRead mid part arg) s = .next (s.withBlk ((((n.2.put SLC_MSTAT_OWNER mid).put SLC_MSTAT_DONE 1).put SLC_MSTAT_ERR 1).put SLC_MSTAT_ERRCODE 5)))
    ∧ (∀ (s : State) (mid : Nat) (part : Option Nat) (arg : Nat) (ws : List Nat), let b := s.start; let a : Nat := arg % 2 ^ 20; let n : Option (List Nat) × Block := b.flowNow a; b.dev ≠ .off → b.isManager mid part true = true → n.1 = some ws → fKtype ws = 0 → exec (.flowRead mid part arg) s = .next (s.withBlk ((((n.2.put SLC_MSTAT_OWNER mid).put SLC_MSTAT_DONE 1).put SLC_MSTAT_ERR 1).put SLC_MSTAT_ERRCODE 5)))
    ∧ (∀ (s : State) (mid : Nat) (part : Option Nat) (arg : Nat) (ws : List Nat), let b := s.start; let a : Nat := arg % 2 ^ 20; let n : Option (List Nat) × Block := b.flowNow a; b.dev ≠ .off → b.isManager mid part true = true → n.1 = some ws → fKtype ws ≠ 0 → n.2.flowFixed a ws = true → exec (.flowDelete mid part arg) s = .next (s.withBlk ((((n.2.put SLC_MSTAT_OWNER mid).put SLC_MSTAT_DONE 1).put SLC_MSTAT_ERR 1).put SLC_MSTAT_ERRCODE 3)))
    ∧ (∀ (s : State) (mid : Nat) (part : Option Nat) (arg : Nat) (ws : List Nat), let b := s.start; let a : Nat := arg % 2 ^ 20; let n : Option (List Nat) × Block := b.flowNow a; let new : List Nat := ws.take 2 ++ [n.2.mdata 2, n.2.mdata 3, n.2.mdata 4] ++ ws.drop 5; b.dev ≠ .off → b.isManager mid part true = true → n.1 = some ws → fKtype ws ≠ 0 → (n.2.flowFixed a ws = true ∨ n.2.flowFixed a new = true) → exec (.flowModify mid part arg) s = .next (s.withBlk ((((n.2.put SLC_MSTAT_OWNER mid).put SLC_MSTAT_DONE 1).put SLC_MSTAT_ERR 1).put SLC_MSTAT_ERRCODE 3)))
    ∧ (∀ (s : State) (mid : Nat) (part : Option Nat) (arg : Nat) (ws : List Nat), let b := s.start; let a : Nat := arg % 2 ^ 20; let n : Option (List Nat) × Block := b.flowNow a; let new : List Nat := ws.take 2 ++ [n.2.mdata 2, n.2.mdata 3, n.2.mdata 4] ++ ws.drop 5; b.dev ≠ .off → b.isManager mid part true = true → n.1 = some ws → fKtype ws ≠ 0 → ¬ (n.2.flowFixed a ws = true ∨ n.2.flowFixed a new = true) → ctxValid new = false → exec (.flowModify mid part arg) s = .next (s.withBlk ((((n.2.put SLC_MSTAT_OWNER mid).put SLC_MSTAT_DONE 1).put SLC_MSTAT_ERR 1).put SLC_MSTAT_ERRCODE 8)))
    ∧ (∀ (s : State) (mid : Nat) (part : Option Nat) (arg : Nat), let b := s.start; let a : Nat := arg % 2 ^ 20; b.dev ≠ .off → b.isManager mid part true = true → a ≠ 0 → exec (.flowLookup mid part arg) s = .next (s.withBlk ((((b.put SLC_MSTAT_OWNER mid).put SLC_MSTAT_DONE 1).put SLC_MSTAT_ERR 1).put SLC_MSTAT_ERRCODE 1)))
    ∧ (∀ (s : State) (mid : Nat) (part : Option Nat) (arg : Nat), let b := s.start; let a : Nat := arg % 2 ^ 20; let key : Bytes := leBytes 8 (b.mdata 0) ++ leBytes 8 (b.mdata 1); let w : Except Nat (Option (Nat × List Nat)) × Block := b.walkFlow key; b.dev ≠ .off → b.isManager mid part true = true → a = 0 → b.flowByKey key = none → w.1.toOption = some none → exec (.flowLookup mid part arg) s = .next (s.withBlk (((((w.2.setR .SLC_MRES 0).put SLC_MSTAT_OWNER mid).put SLC_MSTAT_DONE 1).put SLC_MSTAT_ERR 1).put SLC_MSTAT_ERRCODE 5)))
    ∧ (∀ (s : State) (mid : Nat) (part : Option Nat) (arg : Nat) (x0 : Nat), let b := s.start; let a : Nat := arg % 2 ^ 20; let key : Bytes := leBytes 8 (b.mdata 0) ++ leBytes 8 (b.mdata 1); let w : Except Nat (Option (Nat × List Nat)) × Block := b.walkFlow key; b.dev ≠ .off → b.isManager mid part true = true → a = 0 → b.flowByKey key = none → (match w.1 with | .error x => decide (x = x0) | .ok _ => false) = true → exec (.flowLookup mid part arg) s = .next (s.withBlk ((((((w.2.setR .SLC_MRES 0).note { code := 0x2902, mid := some midSluice, addr := some x0 }).put SLC_MSTAT_OWNER mid).put SLC_MSTAT_DONE 1).put SLC_MSTAT_ERR 1).put SLC_MSTAT_ERRCODE 5)))
    ∧ (∀ (s : State) (mid : Nat) (part : Option Nat) (arg : Nat), let b := s.start; let a : Nat := arg % 2 ^ 20; b.dev ≠ .off → b.isManager mid part true = true → 256 ≤ a → exec (.instConfig mid part arg) s = .next (s.withBlk ((((b.put SLC_MSTAT_OWNER mid).put SLC_MSTAT_DONE 1).put SLC_MSTAT_ERR 1).put SLC_MSTAT_ERRCODE 2)))
    ∧ (∀ (s : State) (mid : Nat) (part : Option Nat) (arg : Nat), let b := s.start; let a : Nat := arg % 2 ^ 20; b.dev ≠ .off → b.isManager mid part true = true → 256 ≤ a → exec (.instShare mid part arg) s = .next (s.withBlk ((((b.put SLC_MSTAT_OWNER mid).put SLC_MSTAT_DONE 1).put SLC_MSTAT_ERR 1).put SLC_MSTAT_ERRCODE 2)))
    ∧ (∀ (s : State) (mid : Nat) (part : Option Nat) (arg : Nat), let b := s.start; let a : Nat := arg % 2 ^ 20; b.dev ≠ .off → b.isManager mid part true = true → 256 ≤ a → exec (.instResetDrain mid part arg) s = .next (s.withBlk ((((b.put SLC_MSTAT_OWNER mid).put SLC_MSTAT_DONE 1).put SLC_MSTAT_ERR 1).put SLC_MSTAT_ERRCODE 2)))
    ∧ (∀ (s : State) (mid : Nat) (part : Option Nat) (arg : Nat), let b := s.start; let a : Nat := arg % 2 ^ 20; b.dev ≠ .off → b.isManager mid part true = true → 256 ≤ a → exec (.instResetSquash mid part arg) s = .next (s.withBlk ((((b.put SLC_MSTAT_OWNER mid).put SLC_MSTAT_DONE 1).put SLC_MSTAT_ERR 1).put SLC_MSTAT_ERRCODE 2)))
    ∧ (∀ (s : State) (mid : Nat) (part : Option Nat) (arg : Nat), let b := s.start; let a : Nat := arg % 2 ^ 20; b.dev ≠ .off → b.isManager mid part true = true → 256 ≤ a → exec (.logConfig mid part arg) s = .next (s.withBlk ((((b.put SLC_MSTAT_OWNER mid).put SLC_MSTAT_DONE 1).put SLC_MSTAT_ERR 1).put SLC_MSTAT_ERRCODE 2)))
    ∧ (∀ (s : State) (mid : Nat) (part : Option Nat) (arg : Nat), let b := s.start; let a : Nat := arg % 2 ^ 20; b.dev ≠ .off → b.isManager mid part true = true → 256 ≤ a → exec (.logSwap mid part arg) s = .next (s.withBlk ((((b.put SLC_MSTAT_OWNER mid).put SLC_MSTAT_DONE 1).put SLC_MSTAT_ERR 1).put SLC_MSTAT_ERRCODE 2)))
    ∧ (∀ (s : State) (mid : Nat) (part : Option Nat) (arg : Nat), let b := s.start; let a : Nat := arg % 2 ^ 20; b.dev ≠ .off → b.isManager mid part true = true → 256 ≤ a → exec (.logStop mid part arg) s = .next (s.withBlk ((((b.put SLC_MSTAT_OWNER mid).put SLC_MSTAT_DONE 1).put SLC_MSTAT_ERR 1).put SLC_MSTAT_ERRCODE 2)))
    ∧ (∀ (s : State) (mid : Nat) (part : Option Nat) (arg : Nat), let b := s.start; let a : Nat := arg % 2 ^ 20; b.dev ≠ .off → b.isManager mid part true = true → 256 ≤ a → exec (.instClrerr mid part arg) s = .next (s.withBlk ((((b.put SLC_MSTAT_OWNER mid).put SLC_MSTAT_DONE 1).put SLC_MSTAT_ERR 1).put SLC_MSTAT_ERRCODE 2)))
    ∧ (∀ (s : State) (mid : Nat) (part : Option Nat) (arg : Nat), let b := s.start; let a : Nat := arg % 2 ^ 20; b.dev ≠ .off → b.isManager mid part true = true → a < 256 → 2 ≤ b.mdata 0 → exec (.instConfig mid part arg) s = .next (s.withBlk ((((b.put SLC_MSTAT_OWNER mid).put SLC_MSTAT_DONE 1).put SLC_MSTAT_ERR 1).put SLC_MSTAT_ERRCODE 1)))
    ∧ (∀ (s : State) (mid : Nat) (part : Option Nat) (arg : Nat), let b := s.start; let a : Nat := arg % 2 ^ 20; b.dev ≠ .off → b.isManager mid part true = true → a < 256 → b.mdata 0 = 1 → b.instSt a ≠ 0 → exec (.instConfig mid part arg) s = .next (s.withBlk ((((b.put SLC_MSTAT_OWNER mid).put SLC_MSTAT_DONE 1).put SLC_MSTAT_ERR 1).put SLC_MSTAT_ERRCODE 7)))
    ∧ (∀ (s : State) (mid : Nat) (part : Option Nat) (arg : Nat), let b := s.start; let a : Nat := arg % 2 ^ 20; b.dev ≠ .off → b.isManager mid part true = true → a < 256 → b.mdata 0 = 0 → 1 < b.instSt a → exec (.instConfig mid part arg) s = .next (s.withBlk ((((b.put SLC_MSTAT_OWNER mid).put SLC_MSTAT_DONE 1).put SLC_MSTAT_ERR 1).put SLC_MSTAT_ERRCODE 7)))
    ∧ (∀ (s : State) (mid : Nat) (part : Option Nat) (arg : Nat), let b := s.start; let a : Nat := arg % 2 ^ 20; b.dev ≠ .off → b.isManager mid part true = true → 2048 ≤ a → exec (.qctxWrite mid part arg) s = .next (s.withBlk ((((b.put SLC_MSTAT_OWNER mid).put SLC_MSTAT_DONE 1).put SLC_MSTAT_ERR 1).put SLC_MSTAT_ERRCODE 1)))
    ∧ (∀ (s : State) (mid : Nat) (part : Option Nat) (arg : Nat), let b := s.start; let a : Nat := arg % 2 ^ 20; b.dev ≠ .off → b.isManager mid part true = true → a < 2048 → (b.instSt (a % 256) = 2 ∨ b.instSt (a % 256) = 3) → exec (.qctxWrite mid part arg) s = .next (s.withBlk ((((b.put SLC_MSTAT_OWNER mid).put SLC_MSTAT_DONE 1).put SLC_MSTAT_ERR 1).put SLC_MSTAT_ERRCODE 7)))
    ∧ (∀ (s : State) (mid : Nat) (part : Option Nat) (arg : Nat), let b := s.start; let a : Nat := arg % 2 ^ 20; let ws : List Nat := b.mdataWords.take 4 ++ [0, 0, 0, 0]; b.dev ≠ .off → b.isManager mid part true = true → a < 2048 → ¬ (b.instSt (a % 256) = 2 ∨ b.instSt (a % 256) = 3) → qctxValid ws = false → exec (.qctxWrite mid part arg) s = .next (s.withBlk ((((b.put SLC_MSTAT_OWNER mid).put SLC_MSTAT_DONE 1).put SLC_MSTAT_ERR 1).put SLC_MSTAT_ERRCODE 8)))
    ∧ (∀ (s : State) (mid : Nat) (part : Option Nat) (arg : Nat), let b := s.start; let a : Nat := arg % 2 ^ 20; b.dev ≠ .off → b.isManager mid part true = true → 2048 ≤ a → exec (.qctxRead mid part arg) s = .next (s.withBlk ((((b.put SLC_MSTAT_OWNER mid).put SLC_MSTAT_DONE 1).put SLC_MSTAT_ERR 1).put SLC_MSTAT_ERRCODE 1)))
    ∧ (∀ (s : State) (mid : Nat) (part : Option Nat) (arg : Nat), let b := s.start; let a : Nat := arg % 2 ^ 20; let g : Option (List Nat) × Block := b.getCtx (a % 256) (a / 256); b.dev ≠ .off → b.isManager mid part true = true → a < 2048 → g.1 = none → exec (.qctxRead mid part arg) s = .next (s.withBlk ((((g.2.put SLC_MSTAT_OWNER mid).put SLC_MSTAT_DONE 1).put SLC_MSTAT_ERR 1).put SLC_MSTAT_ERRCODE 5)))
    ∧ (∀ (s : State) (mid : Nat) (part : Option Nat) (arg : Nat), let b := s.start; let a : Nat := arg % 2 ^ 20; b.dev ≠ .off → b.isManager mid part true = true → a < 256 → 2048 ≤ b.mdata 0 → exec (.instShare mid part arg) s = .next (s.withBlk ((((b.put SLC_MSTAT_OWNER mid).put SLC_MSTAT_DONE 1).put SLC_MSTAT_ERR 1).put SLC_MSTAT_ERRCODE 1)))
    ∧ (∀ (s : State) (mid : Nat) (part : Option Nat) (arg : Nat), let b := s.start; let a : Nat := arg % 2 ^ 20; b.dev ≠ .off → b.isManager mid part true = true → a < 256 → b.mdata 0 < 2048 → 1024 < b.shareSum a (b.mdata 0) → exec (.instShare mid part arg) s = .next (s.withBlk ((((b.put SLC_MSTAT_OWNER mid).put SLC_MSTAT_DONE 1).put SLC_MSTAT_ERR 1).put SLC_MSTAT_ERRCODE 6)))
    ∧ (∀ (s : State) (mid : Nat) (part : Option Nat) (arg : Nat), let b := s.start; let a : Nat := arg % 2 ^ 20; b.dev ≠ .off → b.isManager mid part true = true → a < 256 → b.instSt a ≠ 1 → exec (.instResetDrain mid part arg) s = .next (s.withBlk ((((b.put SLC_MSTAT_OWNER mid).put SLC_MSTAT_DONE 1).put SLC_MSTAT_ERR 1).put SLC_MSTAT_ERRCODE 7)))
    ∧ (∀ (s : State) (mid : Nat) (part : Option Nat) (arg : Nat), let b := s.start; let a : Nat := arg % 2 ^ 20; b.dev ≠ .off → b.isManager mid part true = true → a < 256 → b.instSt a ≠ 1 → b.instSt a ≠ 2 → exec (.instResetSquash mid part arg) s = .next (s.withBlk ((((b.put SLC_MSTAT_OWNER mid).put SLC_MSTAT_DONE 1).put SLC_MSTAT_ERR 1).put SLC_MSTAT_ERRCODE 7)))
    ∧ (∀ (s : State) (mid : Nat) (part : Option Nat) (arg : Nat), let b := s.start; let a : Nat := arg % 2 ^ 20; b.dev ≠ .off → b.isManager mid part true = true → a < 256 → (b.instSt a = 2 ∨ b.instSt a = 3) → exec (.logConfig mid part arg) s = .next (s.withBlk ((((b.put SLC_MSTAT_OWNER mid).put SLC_MSTAT_DONE 1).put SLC_MSTAT_ERR 1).put SLC_MSTAT_ERRCODE 7)))
    ∧ (∀ (s : State) (mid : Nat) (part : Option Nat) (arg : Nat), let b := s.start; let a : Nat := arg % 2 ^ 20; b.dev ≠ .off → b.isManager mid part true = true → a < 256 → ¬ (b.instSt a = 2 ∨ b.instSt a = 3) → b.mdata 3 % 512 ≠ 0 → exec (.logConfig mid part arg) s = .next (s.withBlk ((((b.put SLC_MSTAT_OWNER mid).put SLC_MSTAT_DONE 1).put SLC_MSTAT_ERR 1).put SLC_MSTAT_ERRCODE 8)))
    ∧ (∀ (s : State) (mid : Nat) (part : Option Nat) (arg : Nat), let b := s.start; let a : Nat := arg % 2 ^ 20; b.dev ≠ .off → b.isManager mid part true = true → a < 256 → b.isSet SLC_ISTAT_LOGON a = false → exec (.logSwap mid part arg) s = .next (s.withBlk ((((b.put SLC_MSTAT_OWNER mid).put SLC_MSTAT_DONE 1).put SLC_MSTAT_ERR 1).put SLC_MSTAT_ERRCODE 7)))

/-- A walk that returns finishes every arrival that waits for its keys, in order. A cache error of a flow held is noted once per turn where it is corrected; a pinned flow gets its planned words and no state, with 0x2905; another is dropped. A doorbell, for an instance and queue in range, of an agent that may not ring it gets an access error and 0x2908, or 0x290D from a replicated partition; else an instance that is not ACTIVE counts it, a stopped queue ignores it, a TAIL beyond the ring sets QERR with 0x2909, and any other TAIL is kept in the context and a transmit queue fetches. The entry whose turn it is completes, an instance left empty loses its deficit, and its queues fetch again. A drain that takes too long with entries left squashes them with 0x290B. A reset with none left drops the instance's contexts, ends its log and disables it with 0x090A. Hopper maintenance is ignored while BUSY, refused with code 1 and 0x2913 for FIRST above LAST, else BUSY while every context in range is written back, and dropped by CLEANINV; its end shows DONE. An error of an enabled hopper entry adds 1 where corrected, with 0x190C once per turn, else 4, the context lost and its queue stopped; at the threshold the entry is disabled. A function-level reset, while PCIe is an endpoint, resets the function and drains the instance it owns. Everything else does nothing. -/
def Obligations.SluiceRows : Prop :=
  (∀ (s : State) (walk : Nat), let b := s.start; b.slc.walks.find? (fun a => a.walk = walk) = none → exec (.flowWalkComplete walk) s = .next (s.withBlk (b)))
    ∧ (∀ (s : State) (walk : Nat) (a : Arrival), let b := s.start; b.dev ≠ .off → b.slc.walks.find? (fun a => a.walk = walk) = some a → exec (.flowWalkComplete walk) s = .next (s.withBlk ((b.modSlc fun s => { s with walks := s.walks.filter fun x => x.keys ≠ a.keys }).forL (b.slc.walks.filter fun x => x.keys = a.keys) fun x b => b.walkKeys x x.keys)))
    ∧ (∀ (s : State) (index : Nat) (correctable : Bool), let b := s.start; b.flowByIdx index = none → exec (.flowCacheError index correctable) s = .next (s.withBlk (b)))
    ∧ (∀ (s : State) (index : Nat) (correctable : Bool) (e : FlowEnt), let b := s.start; b.dev ≠ .off → b.flowByIdx index = some e → correctable = true → exec (.flowCacheError index correctable) s = .next (s.withBlk (b.noteOnce 0 { code := 0x1904, mid := some midSluice })))
    ∧ (∀ (s : State) (index : Nat) (correctable : Bool) (e : FlowEnt), let b := s.start; let ws : List Nat := match b.pinnedFlows.find? (fun r => r.1 = index) with | some r => r.2 | none => e.words; b.dev ≠ .off → b.flowByIdx index = some e → correctable = false → e.pinned = true → exec (.flowCacheError index correctable) s = .next (s.withBlk ((b.modFlow index (fun e => { e with words := ws.take 5 ++ [0, 0, 0], stamp := b.timeNs })).note { code := 0x2905, mid := some midSluice })))
    ∧ (∀ (s : State) (index : Nat) (correctable : Bool) (e : FlowEnt), let b := s.start; b.dev ≠ .off → b.flowByIdx index = some e → correctable = false → e.pinned = false → exec (.flowCacheError index correctable) s = .next (s.withBlk (b.dropFlow index)))
    ∧ (∀ (s : State) (mid : Nat) (part : Option Nat) (i q tail : Nat), let b := s.start; (256 ≤ i ∨ 8 ≤ q) → exec (.instanceDoorbell mid part i q tail) s = .next (s.withBlk (b)))
    ∧ (∀ (s : State) (mid : Nat) (part : Option Nat) (i q tail : Nat), let b := s.start; b.dev ≠ .off → i < 256 → q < 8 → b.mayRing mid part i = false → (match part with | some p => decide (2 ≤ b.pMode p) | none => false) = true → exec (.instanceDoorbell mid part i q tail) s = .next (s.withBlk ((b.emit .accessError).note { code := 0x290D, mid := some mid })))
    ∧ (∀ (s : State) (mid : Nat) (part : Option Nat) (i q tail : Nat), let b := s.start; b.dev ≠ .off → i < 256 → q < 8 → b.mayRing mid part i = false → (match part with | some p => decide (2 ≤ b.pMode p) | none => false) = false → exec (.instanceDoorbell mid part i q tail) s = .next (s.withBlk ((b.emit .accessError).note { code := 0x2908, mid := some mid })))
    ∧ (∀ (s : State) (mid : Nat) (part : Option Nat) (i q tail : Nat), let b := s.start; b.dev ≠ .off → i < 256 → q < 8 → b.mayRing mid part i = true → b.instSt i ≠ 1 → exec (.instanceDoorbell mid part i q tail) s = .next (s.withBlk (b.modInst i fun t => { t with ignored := t.ignored + 1 })))
    ∧ (∀ (s : State) (mid : Nat) (part : Option Nat) (i q tail : Nat), let b := s.start; i < 256 → q < 8 → b.mayRing mid part i = true → b.instSt i = 1 → (b.inst i).stopped.contains q = true → exec (.instanceDoorbell mid part i q tail) s = .next (s.withBlk (b)))
    ∧ (∀ (s : State) (mid : Nat) (part : Option Nat) (i q tail : Nat), let b := s.start; let g : Option (List Nat) × Block := b.getCtx i q; let c : Block := g.2; b.dev ≠ .off → i < 256 → q < 8 → b.mayRing mid part i = true → b.instSt i = 1 → (b.inst i).stopped.contains q = false → g.1 = none → exec (.instanceDoorbell mid part i q tail) s = .next (s.withBlk (c)))
    ∧ (∀ (s : State) (mid : Nat) (part : Option Nat) (i q tail : Nat) (ws : List Nat), let b := s.start; let g : Option (List Nat) × Block := b.getCtx i q; let c : Block := g.2; b.dev ≠ .off → i < 256 → q < 8 → b.mayRing mid part i = true → b.instSt i = 1 → (b.inst i).stopped.contains q = false → g.1 = some ws → ¬ (tail % 65536 + 65536 - qHead ws) % 65536 ≤ 2 ^ qSize ws → exec (.instanceDoorbell mid part i q tail) s = .next (s.withBlk ((c.instFlag SLC_ISTAT_QERR i).note { code := 0x2909, mid := some midSluice })))
    ∧ (∀ (s : State) (mid : Nat) (part : Option Nat) (i q tail : Nat) (ws : List Nat), let b := s.start; let g : Option (List Nat) × Block := b.getCtx i q; let c : Block := g.2; let d : Block := c.putCtx i q (ctxS 1 16 31 (tail % 65536) ws); b.dev ≠ .off → i < 256 → q < 8 → b.mayRing mid part i = true → b.instSt i = 1 → (b.inst i).stopped.contains q = false → g.1 = some ws → (tail % 65536 + 65536 - qHead ws) % 65536 ≤ 2 ^ qSize ws → 4 ≤ q → exec (.instanceDoorbell mid part i q tail) s = .next (s.withBlk (d)))
    ∧ (∀ (s : State) (mid : Nat) (part : Option Nat) (i q tail : Nat) (ws : List Nat), let b := s.start; let g : Option (List Nat) × Block := b.getCtx i q; let c : Block := g.2; let d : Block := c.putCtx i q (ctxS 1 16 31 (tail % 65536) ws); b.dev ≠ .off → i < 256 → q < 8 → b.mayRing mid part i = true → b.instSt i = 1 → (b.inst i).stopped.contains q = false → g.1 = some ws → (tail % 65536 + 65536 - qHead ws) % 65536 ≤ 2 ^ qSize ws → q < 4 → exec (.instanceDoorbell mid part i q tail) s = .next (s.withBlk (d.fetchF i q (d.get SLC_ISTAT_SHARE i * 16))))
    ∧ (∀ (s : State), let b := s.start; b.drrWork = none → exec (.descriptorComplete) s = .next (s.withBlk (b)))
    ∧ (∀ (s : State) (w : Work) (cur d : Nat), let b := s.start; let c : Block := (b.modSlc fun s => { s with drr := cur, deficit := SMap.set 0 cur d s.deficit }).complete w; let e : Block := if c.works cur = [] then c.modSlc (fun s => { s with deficit := SMap.set 0 cur 0 s.deficit }) else c; b.dev ≠ .off → b.drrWork = some (w, cur, d) → exec (.descriptorComplete) s = .next (s.withBlk (e.fetchAll w.inst)))
    ∧ (∀ (s : State) (i : Nat), let b := s.start; b.dev ≠ .off → (i < 256 ∧ b.instSt i = 2 ∧ b.works i ≠ []) → exec (.drainTimeout i) s = .next (s.withBlk (((b.put SLC_ISTAT_STATE 3 i).squashInst i).note { code := 0x290B, mid := some midSluice })))
    ∧ (∀ (s : State) (i : Nat), let b := s.start; ¬ (i < 256 ∧ b.instSt i = 2 ∧ b.works i ≠ []) → exec (.drainTimeout i) s = .next (s.withBlk (b)))
    ∧ (∀ (s : State) (i : Nat), let b := s.start; let c : Block := b.forN 48 fun e b => match (b.hopEnt e).ctx with | some (j, _) => if j = i then b.hopDrop e else b | none => b; b.dev ≠ .off → (i < 256 ∧ (b.instSt i = 2 ∨ b.instSt i = 3) ∧ b.works i = []) → exec (.instanceResetComplete i) s = .next (s.withBlk ((((((c.put SLC_ISTAT_LOGON 0 i).put SLC_ISTAT_LOGSWAP 0 i).put SLC_ISTAT_OCC 0 i).put SLC_ISTAT_STATE 0 i).modInst i (fun t => { t with stopped := [] })).note { code := 0x090A, mid := some midSluice })))
    ∧ (∀ (s : State) (i : Nat), let b := s.start; ¬ (i < 256 ∧ (b.instSt i = 2 ∨ b.instSt i = 3) ∧ b.works i = []) → exec (.instanceResetComplete i) s = .next (s.withBlk (b)))
    ∧ (∀ (s : State) (mid first last : Nat), let b := s.start; b.dev ≠ .off → b.isSet HOP_MNT_STATUS_BUSY = true → exec (.hopMntClean mid first last) s = .next (s.withBlk (b.put HOP_MNT_STATUS_BUSYWR 1)))
    ∧ (∀ (s : State) (mid first last : Nat), let b := s.start; let f : Nat := first % 256; let l : Nat := last % 256; let c : Block := (((b.setR .HOP_MNT_CTL (f + l * 256 + 0)).put HOP_MNT_STATUS_OWNER mid).put HOP_MNT_STATUS_DONE 0).put HOP_MNT_STATUS_ERR 0; b.dev ≠ .off → b.isSet HOP_MNT_STATUS_BUSY = false → l < f → exec (.hopMntClean mid first last) s = .next (s.withBlk (((c.put HOP_MNT_STATUS_ERR 1).put HOP_MNT_STATUS_ERRCODE 1).note { code := 0x2913, mid := some mid })))
    ∧ (∀ (s : State) (mid first last : Nat), let b := s.start; let f : Nat := first % 256; let l : Nat := last % 256; let c : Block := (((b.setR .HOP_MNT_CTL (f + l * 256 + 0)).put HOP_MNT_STATUS_OWNER mid).put HOP_MNT_STATUS_DONE 0).put HOP_MNT_STATUS_ERR 0; b.dev ≠ .off → b.isSet HOP_MNT_STATUS_BUSY = false → f ≤ l → exec (.hopMntClean mid first last) s = .next (s.withBlk (((c.put HOP_MNT_STATUS_BUSY 1).put HOP_MNT_STATUS_ERRCODE 0).forN 48 fun e b => match (b.hopEnt e).ctx with | none => b | some (i, _) => if f ≤ i ∧ i ≤ l then b.hopWriteBack e else b)))
    ∧ (∀ (s : State) (mid first last : Nat), let b := s.start; b.dev ≠ .off → b.isSet HOP_MNT_STATUS_BUSY = true → exec (.hopMntCleaninv mid first last) s = .next (s.withBlk (b.put HOP_MNT_STATUS_BUSYWR 1)))
    ∧ (∀ (s : State) (mid first last : Nat), let b := s.start; let f : Nat := first % 256; let l : Nat := last % 256; let c : Block := (((b.setR .HOP_MNT_CTL (f + l * 256 + 65536)).put HOP_MNT_STATUS_OWNER mid).put HOP_MNT_STATUS_DONE 0).put HOP_MNT_STATUS_ERR 0; b.dev ≠ .off → b.isSet HOP_MNT_STATUS_BUSY = false → l < f → exec (.hopMntCleaninv mid first last) s = .next (s.withBlk (((c.put HOP_MNT_STATUS_ERR 1).put HOP_MNT_STATUS_ERRCODE 1).note { code := 0x2913, mid := some mid })))
    ∧ (∀ (s : State) (mid first last : Nat), let b := s.start; let f : Nat := first % 256; let l : Nat := last % 256; let c : Block := (((b.setR .HOP_MNT_CTL (f + l * 256 + 65536)).put HOP_MNT_STATUS_OWNER mid).put HOP_MNT_STATUS_DONE 0).put HOP_MNT_STATUS_ERR 0; b.dev ≠ .off → b.isSet HOP_MNT_STATUS_BUSY = false → f ≤ l → exec (.hopMntCleaninv mid first last) s = .next (s.withBlk (((c.put HOP_MNT_STATUS_BUSY 1).put HOP_MNT_STATUS_ERRCODE 0).forN 48 fun e b => match (b.hopEnt e).ctx with | none => b | some (i, _) => if f ≤ i ∧ i ≤ l then (b.hopWriteBack e).hopDrop e else b)))
    ∧ (∀ (s : State), let b := s.start; b.dev ≠ .off → b.isSet HOP_MNT_STATUS_BUSY = true → exec (.hopMntComplete) s = .next (s.withBlk ((b.put HOP_MNT_STATUS_BUSY 0).put HOP_MNT_STATUS_DONE 1)))
    ∧ (∀ (s : State), let b := s.start; b.isSet HOP_MNT_STATUS_BUSY = false → exec (.hopMntComplete) s = .next (s.withBlk (b)))
    ∧ (∀ (s : State) (entry : Nat) (correctable : Bool), let b := s.start; (48 ≤ entry ∨ b.hopOff entry = true) → exec (.hopperEntryError entry correctable) s = .next (s.withBlk (b)))
    ∧ (∀ (s : State) (entry : Nat) (correctable : Bool), let b := s.start; let c : Block := b.modHop entry fun t => { t with errs := t.errs + (if correctable then 1 else 4) }; let d : Block := if correctable then c.noteOnce 0 { code := 0x190C, mid := some midSluice } else match (c.hopEnt entry).ctx with | some (i, q) => (c.hopDrop entry).stopQueue i q false | none => c; b.dev ≠ .off → ¬ (48 ≤ entry ∨ b.hopOff entry = true) → d.get HOP_ERRCFG_THRESH ≤ (d.hopEnt entry).errs → exec (.hopperEntryError entry correctable) s = .next (s.withBlk (d.hopDisable entry)))
    ∧ (∀ (s : State) (entry : Nat) (correctable : Bool), let b := s.start; let c : Block := b.modHop entry fun t => { t with errs := t.errs + (if correctable then 1 else 4) }; let d : Block := if correctable then c.noteOnce 0 { code := 0x190C, mid := some midSluice } else match (c.hopEnt entry).ctx with | some (i, q) => (c.hopDrop entry).stopQueue i q false | none => c; b.dev ≠ .off → ¬ (48 ≤ entry ∨ b.hopOff entry = true) → ¬ d.get HOP_ERRCFG_THRESH ≤ (d.hopEnt entry).errs → exec (.hopperEntryError entry correctable) s = .next (s.withBlk (d)))
    ∧ (∀ (s : State) (fn : Nat), let b := s.start; ¬ (fn < 256 ∧ b.isSet PCI_CFG_EP = true) → exec (.functionLevelReset fn) s = .next (s.withBlk (b)))
    ∧ (∀ (s : State) (fn : Nat), let b := s.start; let c : Block := b.resetFn fn; b.dev ≠ .off → (fn < 256 ∧ b.isSet PCI_CFG_EP = true) → c.ownKind fn ≠ 2 → exec (.functionLevelReset fn) s = .next (s.withBlk (c)))
    ∧ (∀ (s : State) (fn : Nat), let b := s.start; let c : Block := b.resetFn fn; b.dev ≠ .off → (fn < 256 ∧ b.isSet PCI_CFG_EP = true) → c.ownKind fn = 2 → exec (.functionLevelReset fn) s = .next (s.withBlk (if c.instSt fn = 0 then c else c.put SLC_ISTAT_STATE 2 fn)))

/-- PCI_PERST_N released lets an endpoint train, and asserted freezes it with its link gone. A link that comes up in TRAINING shows its rate, width and FLIT mode and goes UP with 0x0A08, or 0x1A0B below 64 GT/s or its strapped width, and an endpoint sends its LTR; in FROZEN it only shows. A freeze condition of an UP sub-port answers what is outstanding with ERR, records the trigger reason of a root port, loses the link where it is down, and logs 0x2A06; in FROZEN only a link-down acts. RELEASE by another than the manager gets an access error and 0x2A02; of a FROZEN sub-port it sets RELLOST where a condition comes in the same cycle, else frees its tags and goes UP where its link is in L0, an endpoint then fetching for its active instances, or DOWN, both with 0x0A07. A port reset takes the sub-port DOWN; an endpoint trains again, a root port drives its PERST output low. A hot insertion trains a root port; an LTR message to an UP root port is kept; a correctable error sets its status, is counted and logs 0x1A01 once per turn. Everything else does nothing. -/
def Obligations.PcieLinks : Prop :=
  (∀ (s : State), let b := s.start; b.dev ≠ .off → exec (.pciPerstRelease) s = .next (s.withBlk ((b.modSub 0 (fun t => { t with perst := false })).when (b.isEp 0) (Block.pciTrain 0))))
    ∧ (∀ (s : State), let b := s.start; b.dev ≠ .off → exec (.pciPerstAssert) s = .next (s.withBlk ((b.modSub 0 (fun t => { t with perst := true })).when (b.isEp 0) (Block.freezeSub 0 0 true))))
    ∧ (∀ (s : State) (sub rate width : Nat) (flit : Bool), let b := s.start; let c : Block := (((b.put PCI_SSTAT_RATE rate sub).put PCI_SSTAT_WIDTH width sub).put PCI_SSTAT_FLIT (ofBool flit) sub).modSub sub fun t => { t with l0 := true }; let d : Block := c.put PCI_SSTAT_STATE 2 sub; b.dev ≠ .off → sub < b.subCount → b.subSt sub = 1 → 6 ≤ rate → d.strapWidth ≤ width → exec (.pcieLinkUp sub rate width flit) s = .next (s.withBlk ((d.note (pciFault 0x0A08 sub)).when (b.isEp sub) Block.ltrSend)))
    ∧ (∀ (s : State) (sub rate width : Nat) (flit : Bool), let b := s.start; let c : Block := (((b.put PCI_SSTAT_RATE rate sub).put PCI_SSTAT_WIDTH width sub).put PCI_SSTAT_FLIT (ofBool flit) sub).modSub sub fun t => { t with l0 := true }; let d : Block := c.put PCI_SSTAT_STATE 2 sub; b.dev ≠ .off → sub < b.subCount → b.subSt sub = 1 → (rate < 6 ∨ width < d.strapWidth) → exec (.pcieLinkUp sub rate width flit) s = .next (s.withBlk ((d.note (pciFault 0x1A0B sub)).when (b.isEp sub) Block.ltrSend)))
    ∧ (∀ (s : State) (sub rate width : Nat) (flit : Bool), let b := s.start; let c : Block := (((b.put PCI_SSTAT_RATE rate sub).put PCI_SSTAT_WIDTH width sub).put PCI_SSTAT_FLIT (ofBool flit) sub).modSub sub fun t => { t with l0 := true }; b.dev ≠ .off → sub < b.subCount → b.subSt sub = 3 → exec (.pcieLinkUp sub rate width flit) s = .next (s.withBlk (c)))
    ∧ (∀ (s : State) (sub rate width : Nat) (flit : Bool), let b := s.start; (b.subCount ≤ sub ∨ b.subSt sub ≠ 1 ∧ b.subSt sub ≠ 3) → exec (.pcieLinkUp sub rate width flit) s = .next (s.withBlk (b)))
    ∧ (∀ (s : State) (sub : Nat) (cause : FreezeCause), let b := s.start; let c : Block := (b.errTags sub).put PCI_SSTAT_STATE 3 sub; let d : Block := c.when (!c.isEp sub) (Block.modSub sub fun s => { s with dpc := some (freezeCode cause) }); b.dev ≠ .off → sub < b.subCount → b.subSt sub = 2 → exec (.pcieFreeze sub cause) s = .next (s.withBlk ((d.when (decide (cause = .linkDown)) (Block.linkGone sub)).note (pciFault 0x2A06 sub))))
    ∧ (∀ (s : State) (sub : Nat) (cause : FreezeCause), let b := s.start; b.dev ≠ .off → sub < b.subCount → b.subSt sub = 3 → exec (.pcieFreeze sub cause) s = .next (s.withBlk (b.when (decide (cause = .linkDown)) (Block.linkGone sub))))
    ∧ (∀ (s : State) (sub : Nat) (cause : FreezeCause), let b := s.start; (b.subCount ≤ sub ∨ b.subSt sub ≠ 2 ∧ b.subSt sub ≠ 3) → exec (.pcieFreeze sub cause) s = .next (s.withBlk (b)))
    ∧ (∀ (s : State) (mid : Nat) (part : Option Nat) (sub : Nat) (lost : Bool), let b := s.start; b.dev ≠ .off → b.isManager mid part false = false → exec (.releaseSub mid part sub lost) s = .next (s.withBlk ((b.emit .accessError).note { code := 0x2A02, mid := some mid })))
    ∧ (∀ (s : State) (mid : Nat) (part : Option Nat) (sub : Nat) (lost : Bool), let b := s.start; b.isManager mid part false = true → (b.subCount ≤ sub ∨ b.subSt sub ≠ 3) → exec (.releaseSub mid part sub lost) s = .next (s.withBlk (b)))
    ∧ (∀ (s : State) (mid : Nat) (part : Option Nat) (sub : Nat) (lost : Bool), let b := s.start; b.dev ≠ .off → b.isManager mid part false = true → sub < b.subCount → b.subSt sub = 3 → lost = true → exec (.releaseSub mid part sub lost) s = .next (s.withBlk (b.put PCI_SSTAT_RELLOST 1 sub)))
    ∧ (∀ (s : State) (mid : Nat) (part : Option Nat) (sub : Nat) (lost : Bool), let b := s.start; let c : Block := (b.dropTags sub).modSub sub fun s => { s with dpc := none }; let d : Block := (c.put PCI_SSTAT_STATE 2 sub).note (pciFault 0x0A07 sub); b.dev ≠ .off → b.isManager mid part false = true → sub < b.subCount → b.subSt sub = 3 → lost = false → (c.psub sub).l0 = true → d.isEp sub = false → exec (.releaseSub mid part sub lost) s = .next (s.withBlk (d)))
    ∧ (∀ (s : State) (mid : Nat) (part : Option Nat) (sub : Nat) (lost : Bool), let b := s.start; let c : Block := (b.dropTags sub).modSub sub fun s => { s with dpc := none }; let d : Block := (c.put PCI_SSTAT_STATE 2 sub).note (pciFault 0x0A07 sub); b.dev ≠ .off → b.isManager mid part false = true → sub < b.subCount → b.subSt sub = 3 → lost = false → (c.psub sub).l0 = true → d.isEp sub = true → exec (.releaseSub mid part sub lost) s = .next (s.withBlk (d.forN 256 fun i b => b.when (b.ownKind i = 2 && b.instSt i = 1) (Block.fetchAll i))))
    ∧ (∀ (s : State) (mid : Nat) (part : Option Nat) (sub : Nat) (lost : Bool), let b := s.start; let c : Block := (b.dropTags sub).modSub sub fun s => { s with dpc := none }; let d : Block := (c.put PCI_SSTAT_STATE 0 sub).note (pciFault 0x0A07 sub); b.dev ≠ .off → b.isManager mid part false = true → sub < b.subCount → b.subSt sub = 3 → lost = false → (c.psub sub).l0 = false → exec (.releaseSub mid part sub lost) s = .next (s.withBlk (d.when (d.isEp sub) (Block.pciTrain sub))))
    ∧ (∀ (s : State) (sub : Nat), let b := s.start; let c : Block := b.subDown sub; b.dev ≠ .off → sub < b.subCount → c.isEp sub = true → exec (.pciePortReset sub) s = .next (s.withBlk (c.pciTrain sub)))
    ∧ (∀ (s : State) (sub : Nat), let b := s.start; let c : Block := b.subDown sub; b.dev ≠ .off → sub < b.subCount → c.isEp sub = false → exec (.pciePortReset sub) s = .next (s.withBlk ({ c with pwr := { c.pwr with persto := Nat.land c.pwr.persto (15 - 2 ^ sub) } })))
    ∧ (∀ (s : State) (sub : Nat), let b := s.start; b.subCount ≤ sub → exec (.pciePortReset sub) s = .next (s.withBlk (b)))
    ∧ (∀ (s : State) (sub : Nat), let b := s.start; b.dev ≠ .off → b.isEp sub = false → exec (.hotInsertion sub) s = .next (s.withBlk (b.pciTrain sub)))
    ∧ (∀ (s : State) (sub : Nat), let b := s.start; b.isEp sub = true → exec (.hotInsertion sub) s = .next (s.withBlk (b)))
    ∧ (∀ (s : State) (sub value : Nat), let b := s.start; b.dev ≠ .off → sub < b.subCount → b.isEp sub = false → b.subSt sub = 2 → exec (.ltrMessage sub value) s = .next (s.withBlk (b.put PCI_SSTAT_LTR (value % 65536) sub)))
    ∧ (∀ (s : State) (sub value : Nat), let b := s.start; (b.subCount ≤ sub ∨ b.isEp sub = true ∨ b.subSt sub ≠ 2) → exec (.ltrMessage sub value) s = .next (s.withBlk (b)))
    ∧ (∀ (s : State) (sub status : Nat), let b := s.start; b.dev ≠ .off → sub < b.subCount → exec (.correctableError sub status) s = .next (s.withBlk (((b.aerSet sub (32 + status % 32)).inc PCI_SERR_CORR sub).noteOnce sub (pciFault 0x1A01 sub))))
    ∧ (∀ (s : State) (sub status : Nat), let b := s.start; b.subCount ≤ sub → exec (.correctableError sub status) s = .next (s.withBlk (b)))

/-- A sub-port that is not UP takes no request. A poisoned one sets the AER status and logs 0x2A0C first. Under a root port a request whose requester lies outside the bus range, of no bytes or across a 4 KiB page, and one that the hub translation unit refuses, gets Unsupported Request with 0x2A02; another acts at its translated address; an AtomicOp gets Unsupported Request. At an endpoint function below 256 an AtomicOp and any request in D3hot get Unsupported Request; a read of BAR0/1 gets its data, or Unsupported Request where it gives an access error, a write acts unless it is poisoned; a request in BAR2/3 goes through the window table. A doorbell of a function in D3hot gets Unsupported Request; where the function owns its instance it rings there, else 0x2A02. A configuration request gets CRS in BOOT and SELFTEST; later a read gets its data, a power or MSI-X setting is kept and what waited is sent where it may go, a function-level reset resets the function and the instance it owns, an AER clear clears status bits, and another write only completes. Everything else does nothing. -/
def Obligations.PcieInbound : Prop :=
  (∀ (s : State) (sub len : Nat) (wdata : Option Bytes) (poison atomic : Bool) (t : PciTarget), let b := s.start; (b.subCount ≤ sub ∨ b.subSt sub ≠ 2) → exec (.pcieInboundRequest sub t len wdata poison atomic) s = .next (s.withBlk (b)))
    ∧ (∀ (s : State) (sub len : Nat) (wdata : Option Bytes) (poison atomic : Bool) (rid addr : Nat), let b := s.start; let c : Block := b.when poison fun b => (b.aerSet sub aerPoison).note (pciFault 0x2A0C sub); b.dev ≠ .off → sub < b.subCount → b.subSt sub = 2 → c.isEp sub = true → exec (.pcieInboundRequest sub (.mem rid addr) len wdata poison atomic) s = .next (s.withBlk (c)))
    ∧ (∀ (s : State) (sub len : Nat) (wdata : Option Bytes) (poison atomic : Bool) (rid addr : Nat), let b := s.start; let c : Block := b.when poison fun b => (b.aerSet sub aerPoison).note (pciFault 0x2A0C sub); b.dev ≠ .off → sub < b.subCount → b.subSt sub = 2 → c.isEp sub = false → atomic = true → exec (.pcieInboundRequest sub (.mem rid addr) len wdata poison atomic) s = .next (s.withBlk (c.unsupported sub rid addr true false)))
    ∧ (∀ (s : State) (sub len : Nat) (wdata : Option Bytes) (poison atomic : Bool) (rid addr : Nat), let b := s.start; let n : Nat := match wdata with | some v => v.length | none => len; let c : Block := b.when poison fun b => (b.aerSet sub aerPoison).note (pciFault 0x2A0C sub); b.dev ≠ .off → sub < b.subCount → b.subSt sub = 2 → c.isEp sub = false → atomic = false → (rid / 256 % 256 < c.secBus sub ∨ c.subBus sub < rid / 256 % 256 ∨ n = 0 ∨ 4096 < addr % 4096 + n) → exec (.pcieInboundRequest sub (.mem rid addr) len wdata poison atomic) s = .next (s.withBlk (c.unsupported sub rid addr wdata.isNone true)))
    ∧ (∀ (s : State) (sub len : Nat) (wdata : Option Bytes) (poison atomic : Bool) (rid addr : Nat), let b := s.start; let n : Nat := match wdata with | some v => v.length | none => len; let c : Block := b.when poison fun b => (b.aerSet sub aerPoison).note (pciFault 0x2A0C sub); let q : Option Nat × Block := c.iotTranslate rid (midPci sub) noPart none (if wdata.isSome = true then .store else .load) addr; b.dev ≠ .off → sub < b.subCount → b.subSt sub = 2 → c.isEp sub = false → atomic = false → ¬ (rid / 256 % 256 < c.secBus sub ∨ c.subBus sub < rid / 256 % 256 ∨ n = 0 ∨ 4096 < addr % 4096 + n) → q.1 = none → exec (.pcieInboundRequest sub (.mem rid addr) len wdata poison atomic) s = .next (s.withBlk (q.2.unsupported sub rid addr wdata.isNone true)))
    ∧ (∀ (s : State) (sub len : Nat) (wdata : Option Bytes) (poison atomic : Bool) (rid addr : Nat) (pa : Nat), let b := s.start; let n : Nat := match wdata with | some v => v.length | none => len; let c : Block := b.when poison fun b => (b.aerSet sub aerPoison).note (pciFault 0x2A0C sub); let q : Option Nat × Block := c.iotTranslate rid (midPci sub) noPart none (if wdata.isSome = true then .store else .load) addr; b.dev ≠ .off → sub < b.subCount → b.subSt sub = 2 → c.isEp sub = false → atomic = false → ¬ (rid / 256 % 256 < c.secBus sub ∨ c.subBus sub < rid / 256 % 256 ∨ n = 0 ∨ 4096 < addr % 4096 + n) → q.1 = some pa → exec (.pcieInboundRequest sub (.mem rid addr) len wdata poison atomic) s = .next (s.withBlk (q.2.inboundAccess sub rid pa len wdata poison)))
    ∧ (∀ (s : State) (sub len : Nat) (wdata : Option Bytes) (poison atomic : Bool) (f x : Nat), let b := s.start; let c : Block := b.when poison fun b => (b.aerSet sub aerPoison).note (pciFault 0x2A0C sub); b.dev ≠ .off → sub < b.subCount → b.subSt sub = 2 → (c.isEp sub = false ∨ 256 ≤ f) → exec (.pcieInboundRequest sub (.bar0 f x) len wdata poison atomic) s = .next (s.withBlk (c)))
    ∧ (∀ (s : State) (sub len : Nat) (wdata : Option Bytes) (poison atomic : Bool) (f x : Nat), let b := s.start; let c : Block := b.when poison fun b => (b.aerSet sub aerPoison).note (pciFault 0x2A0C sub); b.dev ≠ .off → sub < b.subCount → b.subSt sub = 2 → c.isEp sub = true → f < 256 → (atomic = true ∨ (c.fn f).d3 = true) → exec (.pcieInboundRequest sub (.bar0 f x) len wdata poison atomic) s = .next (s.withBlk (c.unsupported sub f x (atomic || wdata.isNone) false)))
    ∧ (∀ (s : State) (sub len : Nat) (wdata : Option Bytes) (poison atomic : Bool) (f x : Nat), let b := s.start; let c : Block := b.when poison fun b => (b.aerSet sub aerPoison).note (pciFault 0x2A0C sub); b.dev ≠ .off → sub < b.subCount → b.subSt sub = 2 → c.isEp sub = true → f < 256 → ¬ (atomic = true ∨ (c.fn f).d3 = true) → wdata = none → (c.bar0Read f x len).1 = none → exec (.pcieInboundRequest sub (.bar0 f x) len wdata poison atomic) s = .next (s.withBlk ((c.bar0Read f x len).2.unsupported sub f x true false)))
    ∧ (∀ (s : State) (sub len : Nat) (wdata : Option Bytes) (poison atomic : Bool) (f x : Nat) (v : Bytes), let b := s.start; let c : Block := b.when poison fun b => (b.aerSet sub aerPoison).note (pciFault 0x2A0C sub); b.dev ≠ .off → sub < b.subCount → b.subSt sub = 2 → c.isEp sub = true → f < 256 → ¬ (atomic = true ∨ (c.fn f).d3 = true) → wdata = none → (c.bar0Read f x len).1 = some v → exec (.pcieInboundRequest sub (.bar0 f x) len wdata poison atomic) s = .next (s.withBlk ((c.bar0Read f x len).2.emit (.cpl sub f 0 v false))))
    ∧ (∀ (s : State) (sub len : Nat) (wdata : Option Bytes) (poison atomic : Bool) (f x : Nat) (v : Bytes), let b := s.start; let c : Block := b.when poison fun b => (b.aerSet sub aerPoison).note (pciFault 0x2A0C sub); b.dev ≠ .off → sub < b.subCount → b.subSt sub = 2 → c.isEp sub = true → f < 256 → ¬ (atomic = true ∨ (c.fn f).d3 = true) → wdata = some v → poison = true → exec (.pcieInboundRequest sub (.bar0 f x) len wdata poison atomic) s = .next (s.withBlk (c)))
    ∧ (∀ (s : State) (sub len : Nat) (wdata : Option Bytes) (poison atomic : Bool) (f x : Nat) (v : Bytes), let b := s.start; let c : Block := b.when poison fun b => (b.aerSet sub aerPoison).note (pciFault 0x2A0C sub); b.dev ≠ .off → sub < b.subCount → b.subSt sub = 2 → c.isEp sub = true → f < 256 → ¬ (atomic = true ∨ (c.fn f).d3 = true) → wdata = some v → poison = false → exec (.pcieInboundRequest sub (.bar0 f x) len wdata poison atomic) s = .next (s.withBlk (c.bar0Write f x v)))
    ∧ (∀ (s : State) (sub len : Nat) (wdata : Option Bytes) (poison atomic : Bool) (f x : Nat), let b := s.start; let c : Block := b.when poison fun b => (b.aerSet sub aerPoison).note (pciFault 0x2A0C sub); b.dev ≠ .off → sub < b.subCount → b.subSt sub = 2 → (c.isEp sub = false ∨ 256 ≤ f) → exec (.pcieInboundRequest sub (.bar2 f x) len wdata poison atomic) s = .next (s.withBlk (c)))
    ∧ (∀ (s : State) (sub len : Nat) (wdata : Option Bytes) (poison atomic : Bool) (f x : Nat), let b := s.start; let c : Block := b.when poison fun b => (b.aerSet sub aerPoison).note (pciFault 0x2A0C sub); b.dev ≠ .off → sub < b.subCount → b.subSt sub = 2 → c.isEp sub = true → f < 256 → (atomic = true ∨ (c.fn f).d3 = true) → exec (.pcieInboundRequest sub (.bar2 f x) len wdata poison atomic) s = .next (s.withBlk (c.unsupported sub f x (atomic || wdata.isNone) false)))
    ∧ (∀ (s : State) (sub len : Nat) (wdata : Option Bytes) (poison atomic : Bool) (f x : Nat), let b := s.start; let c : Block := b.when poison fun b => (b.aerSet sub aerPoison).note (pciFault 0x2A0C sub); b.dev ≠ .off → sub < b.subCount → b.subSt sub = 2 → c.isEp sub = true → f < 256 → ¬ (atomic = true ∨ (c.fn f).d3 = true) → exec (.pcieInboundRequest sub (.bar2 f x) len wdata poison atomic) s = .next (s.withBlk (c.bar2Inbound f x len wdata poison)))
    ∧ (∀ (s : State) (fn queue value : Nat), let b := s.start; ¬ (b.isEp 0 = true ∧ b.subSt 0 = 2 ∧ fn < 256 ∧ queue < 8) → exec (.pcieDoorbell fn queue value) s = .next (s.withBlk (b)))
    ∧ (∀ (s : State) (fn queue value : Nat), let b := s.start; b.dev ≠ .off → (b.isEp 0 = true ∧ b.subSt 0 = 2 ∧ fn < 256 ∧ queue < 8) → (b.fn fn).d3 = true → exec (.pcieDoorbell fn queue value) s = .next (s.withBlk (b.unsupported 0 fn (4 * queue) false false)))
    ∧ (∀ (s : State) (fn queue value : Nat), let b := s.start; b.dev ≠ .off → (b.isEp 0 = true ∧ b.subSt 0 = 2 ∧ fn < 256 ∧ queue < 8) → (b.fn fn).d3 = false → b.ownKind fn = 2 → exec (.pcieDoorbell fn queue value) s = .next (s.withBlk (b.ringBell (midPci 0) none fn queue (value % 65536))))
    ∧ (∀ (s : State) (fn queue value : Nat), let b := s.start; b.dev ≠ .off → (b.isEp 0 = true ∧ b.subSt 0 = 2 ∧ fn < 256 ∧ queue < 8) → (b.fn fn).d3 = false → b.ownKind fn ≠ 2 → exec (.pcieDoorbell fn queue value) s = .next (s.withBlk (b.note (pciFault 0x2A02 0))))
    ∧ (∀ (s : State) (fn : Nat) (req : CfgOp), let b := s.start; ¬ (b.isEp 0 = true ∧ b.subSt 0 = 2 ∧ fn < 256) → exec (.configurationRequest fn req) s = .next (s.withBlk (b)))
    ∧ (∀ (s : State) (fn : Nat) (req : CfgOp), let b := s.start; b.dev ≠ .off → (b.isEp 0 = true ∧ b.subSt 0 = 2 ∧ fn < 256) → (b.dev = .boot ∨ b.dev = .selftest) → exec (.configurationRequest fn req) s = .next (s.withBlk (b.emit (.cpl 0 fn 2 [] false))))
    ∧ (∀ (s : State) (fn off : Nat), let b := s.start; b.dev ≠ .off → (b.isEp 0 = true ∧ b.subSt 0 = 2 ∧ fn < 256) → ¬ (b.dev = .boot ∨ b.dev = .selftest) → exec (.configurationRequest fn (.read off)) s = .next (s.withBlk (b.emit (.cpl 0 fn 0 (leBytes 4 (configRead fn off)) false))))
    ∧ (∀ (s : State) (fn : Nat) (d : Bool), let b := s.start; b.dev ≠ .off → (b.isEp 0 = true ∧ b.subSt 0 = 2 ∧ fn < 256) → ¬ (b.dev = .boot ∨ b.dev = .selftest) → exec (.configurationRequest fn (.power d)) s = .next (s.withBlk (((b.modFn fn fun t => { t with d3 := d }).when (!d) (Block.sendWaiting fn)).emit (.cpl 0 fn 0 [] false))))
    ∧ (∀ (s : State) (fn : Nat) (en mask : Bool), let b := s.start; b.dev ≠ .off → (b.isEp 0 = true ∧ b.subSt 0 = 2 ∧ fn < 256) → ¬ (b.dev = .boot ∨ b.dev = .selftest) → exec (.configurationRequest fn (.msix en mask)) s = .next (s.withBlk (((b.modFn fn fun t => { t with msixOn := en, msixMask := mask }).when (en && !mask) (Block.sendWaiting fn)).emit (.cpl 0 fn 0 [] false))))
    ∧ (∀ (s : State) (fn : Nat), let b := s.start; let c : Block := b.resetFn fn; b.dev ≠ .off → (b.isEp 0 = true ∧ b.subSt 0 = 2 ∧ fn < 256) → ¬ (b.dev = .boot ∨ b.dev = .selftest) → exec (.configurationRequest fn .flr) s = .next (s.withBlk ((c.when (c.ownKind fn = 2) (Block.resetInst fn false)).emit (.cpl 0 fn 0 [] false))))
    ∧ (∀ (s : State) (fn m : Nat), let b := s.start; b.dev ≠ .off → (b.isEp 0 = true ∧ b.subSt 0 = 2 ∧ fn < 256) → ¬ (b.dev = .boot ∨ b.dev = .selftest) → exec (.configurationRequest fn (.aerClear m)) s = .next (s.withBlk ((b.modSub 0 fun t => { t with aer := t.aer - Nat.land t.aer m }).emit (.cpl 0 fn 0 [] false))))
    ∧ (∀ (s : State) (fn x y : Nat), let b := s.start; b.dev ≠ .off → (b.isEp 0 = true ∧ b.subSt 0 = 2 ∧ fn < 256) → ¬ (b.dev = .boot ∨ b.dev = .selftest) → exec (.configurationRequest fn (.write x y)) s = .next (s.withBlk (b.emit (.cpl 0 fn 0 [] false))))

/-- A request outside outbound space gets an access error; one within it gets the answer of its sub-port: a write of a replicated partition an access error and 0x270F; a sub-port that is absent or FROZEN, and a function in D3hot, an access error; a configuration access of the wrong width an access error; one of bus 0, device 0 the root port's own header; a write of an output outside RUN and DEGRADED is dropped and counted with 0x0A0D once per turn; a sub-port not UP an access error; a write leaves as a posted request, and a read or configuration request leaves with the next free tag, and waits for one where none is free. A completion at an UP sub-port of no tag, or that does not fit, is unexpected: AER status and 0x2A05; of a late tag it is counted with 0x1A04 and the last part frees the tag; CRS answers a Vendor ID read with 0x0001 there and another with ERR; another bad status answers ERR; a part that is not the last is kept; the last answers its data, marked where it is poisoned, with 0x2A0C. A timeout of a tag answers ERR, quarantines it, sets the AER status and logs 0x2A03; its quarantine's end frees it. A window commit by another than the manager is denied with 0x2A02; while BUSY it sets BUSYWR, else BUSY. The committed table is checked whole: in error it sets ERR and its code with 0x2A09, else it is loaded with 0x0A0A and vector 9 of function 0. A hint of vectors 16 to 2047 sends that vector of function 0. Everything else does nothing. -/
def Obligations.PcieOutbound : Prop :=
  (∀ (s : State) (mid : Nat) (part inst : Option Nat) (txid addr width : Nat) (wdata : Option Nat), let b := s.start; b.dev ≠ .off → b.decodePa addr ≠ .pcie → exec (.pcieOutboundRequest mid part inst txid addr width wdata) s = .next (s.withBlk (b.emit .accessError)))
    ∧ (∀ (s : State) (mid : Nat) (part inst : Option Nat) (txid addr width : Nat) (wdata : Option Nat), let b := s.start; let k : Nat := b.obSub addr; let off : Nat := addr - b.obBase k; let rid : Nat := b.requesterId k inst; let ecam : Bool := b.isSet PCI_SCTL_ECAMEN k && !b.isEp k && decide (off < 2 ^ 28); b.dev ≠ .off → b.decodePa addr = .pcie → (wdata.isSome && (match part with | some p => decide (2 ≤ b.pMode p) | none => false)) = true → exec (.pcieOutboundRequest mid part inst txid addr width wdata) s = .next (s.withBlk ((b.note { code := 0x270F, mid := some mid }).emit .accessError)))
    ∧ (∀ (s : State) (mid : Nat) (part inst : Option Nat) (txid addr width : Nat) (wdata : Option Nat), let b := s.start; let k : Nat := b.obSub addr; let off : Nat := addr - b.obBase k; let rid : Nat := b.requesterId k inst; let ecam : Bool := b.isSet PCI_SCTL_ECAMEN k && !b.isEp k && decide (off < 2 ^ 28); b.dev ≠ .off → b.decodePa addr = .pcie → (wdata.isSome && (match part with | some p => decide (2 ≤ b.pMode p) | none => false)) = false → ((b.subCount ≤ k ∨ b.subSt k = 3 ∨ (b.fn rid).d3 = true) ∨ (ecam = true ∧ (4 < width ∨ width = 0 ∨ 4 < off % 4 + width)) ∨ ecam = true ∧ 0x1000 ≤ off ∧ bits off 20 27 = 0) → exec (.pcieOutboundRequest mid part inst txid addr width wdata) s = .next (s.withBlk (b.emit .accessError)))
    ∧ (∀ (s : State) (mid : Nat) (part inst : Option Nat) (txid addr width : Nat) (wdata : Option Nat), let b := s.start; let k : Nat := b.obSub addr; let off : Nat := addr - b.obBase k; let rid : Nat := b.requesterId k inst; let ecam : Bool := b.isSet PCI_SCTL_ECAMEN k && !b.isEp k && decide (off < 2 ^ 28); b.dev ≠ .off → b.decodePa addr = .pcie → (wdata.isSome && (match part with | some p => decide (2 ≤ b.pMode p) | none => false)) = false → ¬ (b.subCount ≤ k ∨ b.subSt k = 3 ∨ (b.fn rid).d3 = true) → ¬ (ecam = true ∧ (4 < width ∨ width = 0 ∨ 4 < off % 4 + width)) → ecam = true → off < 0x1000 → wdata = none → exec (.pcieOutboundRequest mid part inst txid addr width wdata) s = .next (s.withBlk (b.emit (.value (bits (b.rootWord k off) (8 * (off % 4)) (8 * (off % 4) + 8 * width - 1))))))
    ∧ (∀ (s : State) (mid : Nat) (part inst : Option Nat) (txid addr width : Nat) (wdata : Option Nat) (w : Nat), let b := s.start; let k : Nat := b.obSub addr; let off : Nat := addr - b.obBase k; let rid : Nat := b.requesterId k inst; let ecam : Bool := b.isSet PCI_SCTL_ECAMEN k && !b.isEp k && decide (off < 2 ^ 28); let old : Nat := b.rootWord k off; let new : Nat := if off / 4 * 4 = 0 then b.rootWord k 0 else setBits old (8 * (off % 4)) (8 * (off % 4) + 8 * width - 1) w; b.dev ≠ .off → b.decodePa addr = .pcie → (wdata.isSome && (match part with | some p => decide (2 ≤ b.pMode p) | none => false)) = false → ¬ (b.subCount ≤ k ∨ b.subSt k = 3 ∨ (b.fn rid).d3 = true) → ¬ (ecam = true ∧ (4 < width ∨ width = 0 ∨ 4 < off % 4 + width)) → ecam = true → off < 0x1000 → wdata = some w → exec (.pcieOutboundRequest mid part inst txid addr width wdata) s = .next (s.withBlk (b.modSub k fun t => { t with cfg := SMap.insert (off / 4 * 4) new t.cfg })))
    ∧ (∀ (s : State) (mid : Nat) (part inst : Option Nat) (txid addr width : Nat) (wdata : Option Nat), let b := s.start; let k : Nat := b.obSub addr; let off : Nat := addr - b.obBase k; let rid : Nat := b.requesterId k inst; let ecam : Bool := b.isSet PCI_SCTL_ECAMEN k && !b.isEp k && decide (off < 2 ^ 28); b.dev ≠ .off → b.decodePa addr = .pcie → (wdata.isSome && (match part with | some p => decide (2 ≤ b.pMode p) | none => false)) = false → ¬ (b.subCount ≤ k ∨ b.subSt k = 3 ∨ (b.fn rid).d3 = true) → ¬ (ecam = true ∧ (4 < width ∨ width = 0 ∨ 4 < off % 4 + width)) → (ecam = false ∧ wdata.isSome = true ∧ part.isSome = true ∧ b.outputsOn = false) → exec (.pcieOutboundRequest mid part inst txid addr width wdata) s = .next (s.withBlk ((b.inc PCI_CTO_DROPPED k).noteOnce k (pciFault 0x0A0D k))))
    ∧ (∀ (s : State) (mid : Nat) (part inst : Option Nat) (txid addr width : Nat) (wdata : Option Nat), let b := s.start; let k : Nat := b.obSub addr; let off : Nat := addr - b.obBase k; let rid : Nat := b.requesterId k inst; let ecam : Bool := b.isSet PCI_SCTL_ECAMEN k && !b.isEp k && decide (off < 2 ^ 28); b.dev ≠ .off → b.decodePa addr = .pcie → (wdata.isSome && (match part with | some p => decide (2 ≤ b.pMode p) | none => false)) = false → ¬ (b.subCount ≤ k ∨ b.subSt k = 3 ∨ (b.fn rid).d3 = true) → ¬ (ecam = true ∧ (4 < width ∨ width = 0 ∨ 4 < off % 4 + width)) → ¬ (ecam = true ∧ bits off 20 27 = 0) → ¬ (ecam = false ∧ wdata.isSome = true ∧ part.isSome = true ∧ b.outputsOn = false) → b.subSt k ≠ 2 → exec (.pcieOutboundRequest mid part inst txid addr width wdata) s = .next (s.withBlk (b.emit .accessError)))
    ∧ (∀ (s : State) (mid : Nat) (part inst : Option Nat) (txid addr width : Nat) (wdata : Option Nat) (w : Nat), let b := s.start; let k : Nat := b.obSub addr; let off : Nat := addr - b.obBase k; let rid : Nat := b.requesterId k inst; let ecam : Bool := b.isSet PCI_SCTL_ECAMEN k && !b.isEp k && decide (off < 2 ^ 28); b.dev ≠ .off → b.decodePa addr = .pcie → (wdata.isSome && (match part with | some p => decide (2 ≤ b.pMode p) | none => false)) = false → ¬ (b.subCount ≤ k ∨ b.subSt k = 3 ∨ (b.fn rid).d3 = true) → ¬ (ecam = true ∧ (4 < width ∨ width = 0 ∨ 4 < off % 4 + width)) → ¬ (ecam = true ∧ bits off 20 27 = 0) → ¬ (ecam = false ∧ wdata.isSome = true ∧ part.isSome = true ∧ b.outputsOn = false) → b.subSt k = 2 → ecam = false → wdata = some w → exec (.pcieOutboundRequest mid part inst txid addr width wdata) s = .next (s.withBlk (b.emit (.tlp k rid none (b.getR .PCI_OBOFF k + off) width (some w) false))))
    ∧ (∀ (s : State) (mid : Nat) (part inst : Option Nat) (txid addr width : Nat) (wdata : Option Nat) (t : Nat), let b := s.start; let k : Nat := b.obSub addr; let off : Nat := addr - b.obBase k; let rid : Nat := b.requesterId k inst; let ecam : Bool := b.isSet PCI_SCTL_ECAMEN k && !b.isEp k && decide (off < 2 ^ 28); b.dev ≠ .off → b.decodePa addr = .pcie → (wdata.isSome && (match part with | some p => decide (2 ≤ b.pMode p) | none => false)) = false → ¬ (b.subCount ≤ k ∨ b.subSt k = 3 ∨ (b.fn rid).d3 = true) → ¬ (ecam = true ∧ (4 < width ∨ width = 0 ∨ 4 < off % 4 + width)) → ¬ (ecam = true ∧ bits off 20 27 = 0) → ¬ (ecam = false ∧ wdata.isSome = true ∧ part.isSome = true ∧ b.outputsOn = false) → b.subSt k = 2 → ecam = false → wdata = none → b.freeTag k = some t → exec (.pcieOutboundRequest mid part inst txid addr width wdata) s = .next (s.withBlk (((b.modSub k fun x => { x with nextTag := (t + 1) % 1024 }).modPci fun p => { p with tags := p.tags ++ [{ sub := k, tag := t, mid := mid, txid := txid, addr := addr, width := width, cfg := false, vendorId := false }] }).emit (.tlp k rid (some t) (b.getR .PCI_OBOFF k + off) width none false))))
    ∧ (∀ (s : State) (mid : Nat) (part inst : Option Nat) (txid addr width : Nat) (wdata : Option Nat) (t : Nat), let b := s.start; let k : Nat := b.obSub addr; let off : Nat := addr - b.obBase k; let rid : Nat := b.requesterId k inst; let ecam : Bool := b.isSet PCI_SCTL_ECAMEN k && !b.isEp k && decide (off < 2 ^ 28); b.dev ≠ .off → b.decodePa addr = .pcie → (wdata.isSome && (match part with | some p => decide (2 ≤ b.pMode p) | none => false)) = false → ¬ (b.subCount ≤ k ∨ b.subSt k = 3 ∨ (b.fn rid).d3 = true) → ¬ (ecam = true ∧ (4 < width ∨ width = 0 ∨ 4 < off % 4 + width)) → ¬ (ecam = true ∧ bits off 20 27 = 0) → ¬ (ecam = false ∧ wdata.isSome = true ∧ part.isSome = true ∧ b.outputsOn = false) → b.subSt k = 2 → ecam = true → b.freeTag k = some t → exec (.pcieOutboundRequest mid part inst txid addr width wdata) s = .next (s.withBlk (((b.modSub k fun x => { x with nextTag := (t + 1) % 1024 }).modPci fun p => { p with tags := p.tags ++ [{ sub := k, tag := t, mid := mid, txid := txid, addr := addr, width := width, cfg := true, vendorId := (decide (off % 4096 = 0) && wdata.isNone) }] }).emit (.tlp k rid (some t) off width wdata true))))
    ∧ (∀ (s : State) (mid : Nat) (part inst : Option Nat) (txid addr width : Nat) (wdata : Option Nat), let b := s.start; let k : Nat := b.obSub addr; let off : Nat := addr - b.obBase k; let rid : Nat := b.requesterId k inst; let ecam : Bool := b.isSet PCI_SCTL_ECAMEN k && !b.isEp k && decide (off < 2 ^ 28); b.dev ≠ .off → b.decodePa addr = .pcie → (wdata.isSome && (match part with | some p => decide (2 ≤ b.pMode p) | none => false)) = false → ¬ (b.subCount ≤ k ∨ b.subSt k = 3 ∨ (b.fn rid).d3 = true) → ¬ (ecam = true ∧ (4 < width ∨ width = 0 ∨ 4 < off % 4 + width)) → ¬ (ecam = true ∧ bits off 20 27 = 0) → ¬ (ecam = false ∧ wdata.isSome = true ∧ part.isSome = true ∧ b.outputsOn = false) → b.subSt k = 2 → (ecam = true ∨ wdata = none) → b.freeTag k = none → exec (.pcieOutboundRequest mid part inst txid addr width wdata) s = .next (s.withBlk (b.modPci fun p => { p with waits := p.waits ++ [{ req := { sub := k, tag := 0, mid := mid, txid := txid, addr := addr, width := width, cfg := ecam, vendorId := ecam && decide (off % 4096 = 0) && wdata.isNone }, rid := rid, paddr := (if ecam then off else b.getR .PCI_OBOFF k + off), wdata := wdata }] })))
    ∧ (∀ (s : State) (sub tag status : Nat) (data : Bytes) (poison fits final : Bool), let b := s.start; (b.subCount ≤ sub ∨ b.subSt sub ≠ 2) → exec (.pcieCompletion sub tag status data poison fits final) s = .next (s.withBlk (b)))
    ∧ (∀ (s : State) (sub tag status : Nat) (data : Bytes) (poison fits final : Bool), let b := s.start; b.dev ≠ .off → sub < b.subCount → b.subSt sub = 2 → (b.tagOf sub tag = none ∨ fits = false) → exec (.pcieCompletion sub tag status data poison fits final) s = .next (s.withBlk ((b.aerSet sub aerUnexpected).note (pciFault 0x2A05 sub))))
    ∧ (∀ (s : State) (sub tag status : Nat) (data : Bytes) (poison fits final : Bool) (t : PciTag), let b := s.start; b.dev ≠ .off → sub < b.subCount → b.subSt sub = 2 → fits = true → b.tagOf sub tag = some t → t.late = true → exec (.pcieCompletion sub tag status data poison fits final) s = .next (s.withBlk (((b.inc PCI_SERR_LATECNT sub).note (pciFault 0x1A04 sub)).when final (Block.dropTag sub tag))))
    ∧ (∀ (s : State) (sub tag status : Nat) (data : Bytes) (poison fits final : Bool) (t : PciTag), let b := s.start; let c : Block := b.when poison fun b => (b.aerSet sub aerPoison).note (pciFault 0x2A0C sub); let got : Bytes := t.got ++ data; b.dev ≠ .off → sub < b.subCount → b.subSt sub = 2 → fits = true → b.tagOf sub tag = some t → t.late = false → status = 2 → exec (.pcieCompletion sub tag status data poison fits final) s = .next (s.withBlk ((c.dropTag sub tag).crsDone t)))
    ∧ (∀ (s : State) (sub tag status : Nat) (data : Bytes) (poison fits final : Bool) (t : PciTag), let b := s.start; let c : Block := b.when poison fun b => (b.aerSet sub aerPoison).note (pciFault 0x2A0C sub); let got : Bytes := t.got ++ data; b.dev ≠ .off → sub < b.subCount → b.subSt sub = 2 → fits = true → b.tagOf sub tag = some t → t.late = false → status ≠ 2 → status ≠ 0 → exec (.pcieCompletion sub tag status data poison fits final) s = .next (s.withBlk ((c.dropTag sub tag).tagDone t none)))
    ∧ (∀ (s : State) (sub tag status : Nat) (data : Bytes) (poison fits final : Bool) (t : PciTag), let b := s.start; let c : Block := b.when poison fun b => (b.aerSet sub aerPoison).note (pciFault 0x2A0C sub); let got : Bytes := t.got ++ data; b.dev ≠ .off → sub < b.subCount → b.subSt sub = 2 → fits = true → b.tagOf sub tag = some t → t.late = false → status = 0 → final = false → exec (.pcieCompletion sub tag status data poison fits final) s = .next (s.withBlk (c.modPci fun p => { p with tags := p.tags.map fun u => if u.sub = sub && u.tag = tag then { u with got := got } else u })))
    ∧ (∀ (s : State) (sub tag status : Nat) (data : Bytes) (poison fits final : Bool) (t : PciTag), let b := s.start; let c : Block := b.when poison fun b => (b.aerSet sub aerPoison).note (pciFault 0x2A0C sub); let got : Bytes := t.got ++ data; b.dev ≠ .off → sub < b.subCount → b.subSt sub = 2 → fits = true → b.tagOf sub tag = some t → t.late = false → status = 0 → final = true → poison = true → exec (.pcieCompletion sub tag status data poison fits final) s = .next (s.withBlk (((c.dropTag sub tag).emit (.data (got.take t.width) true)).emit (.ioComp t.mid t.txid t.addr true 0))))
    ∧ (∀ (s : State) (sub tag status : Nat) (data : Bytes) (poison fits final : Bool) (t : PciTag), let b := s.start; let c : Block := b.when poison fun b => (b.aerSet sub aerPoison).note (pciFault 0x2A0C sub); let got : Bytes := t.got ++ data; b.dev ≠ .off → sub < b.subCount → b.subSt sub = 2 → fits = true → b.tagOf sub tag = some t → t.late = false → status = 0 → final = true → poison = false → exec (.pcieCompletion sub tag status data poison fits final) s = .next (s.withBlk ((c.dropTag sub tag).tagDone t (some (leNat (got.take t.width))))))
    ∧ (∀ (s : State) (sub tag : Nat) (t : PciTag), let b := s.start; b.dev ≠ .off → b.tagOf sub tag = some t → t.late = false → exec (.completionTimeout sub tag) s = .next (s.withBlk ((((b.modPci (fun p => { p with tags := p.tags.map fun u => if u.sub = sub && u.tag = tag then { u with late := true, got := [] } else u })).showTags sub).tagDone t none |>.aerSet sub aerCto).note (pciFault 0x2A03 sub))))
    ∧ (∀ (s : State) (sub tag : Nat), let b := s.start; (match b.tagOf sub tag with | some t => t.late | none => true) = true → exec (.completionTimeout sub tag) s = .next (s.withBlk (b)))
    ∧ (∀ (s : State) (sub tag : Nat), let b := s.start; b.dev ≠ .off → (match b.tagOf sub tag with | some t => t.late | none => false) = true → exec (.tagQuarantineExpiry sub tag) s = .next (s.withBlk (b.dropTag sub tag)))
    ∧ (∀ (s : State) (sub tag : Nat), let b := s.start; (match b.tagOf sub tag with | some t => t.late | none => false) = false → exec (.tagQuarantineExpiry sub tag) s = .next (s.withBlk (b)))
    ∧ (∀ (s : State) (mid : Nat) (part : Option Nat), let b := s.start; b.dev ≠ .off → b.isManager mid part true = true → b.isSet PCI_IWSTAT_BUSY = false → exec (.windowCommit mid part) s = .next (s.withBlk (b.put PCI_IWSTAT_BUSY 1 |>.put PCI_IWSTAT_OWNER mid |>.put PCI_IWSTAT_DONE 0 |>.put PCI_IWSTAT_ERR 0 |>.put PCI_IWSTAT_ERRCODE 0)))
    ∧ (∀ (s : State) (mid : Nat) (part : Option Nat), let b := s.start; b.dev ≠ .off → b.isManager mid part true = true → b.isSet PCI_IWSTAT_BUSY = true → exec (.windowCommit mid part) s = .next (s.withBlk (b.put PCI_IWSTAT_BUSYWR 1)))
    ∧ (∀ (s : State) (mid : Nat) (part : Option Nat), let b := s.start; b.dev ≠ .off → b.isManager mid part true = false → exec (.windowCommit mid part) s = .next (s.withBlk (b.denied mid 0x2A02)))
    ∧ (∀ (s : State) (pending : Nat), let b := s.start; b.isSet PCI_IWSTAT_BUSY = false → exec (.windowCommitApplied pending) s = .next (s.withBlk (b)))
    ∧ (∀ (s : State) (pending : Nat), let b := s.start; let e : Nat := b.iwCheck b.stagedWindows; let c : Block := (b.put PCI_IWSTAT_BUSY 0).put PCI_IWSTAT_ERRCODE e; b.dev ≠ .off → b.isSet PCI_IWSTAT_BUSY = true → e ≠ 0 → exec (.windowCommitApplied pending) s = .next (s.withBlk ((c.put PCI_IWSTAT_ERR 1).note { code := 0x2A09 })))
    ∧ (∀ (s : State) (pending : Nat), let b := s.start; let e : Nat := b.iwCheck b.stagedWindows; let c : Block := (b.put PCI_IWSTAT_BUSY 0).put PCI_IWSTAT_ERRCODE e; b.dev ≠ .off → b.isSet PCI_IWSTAT_BUSY = true → e = 0 → exec (.windowCommitApplied pending) s = .next (s.withBlk (((c.forN 64 (fun n b => b.setR .PCI_IWA (b.getR .PCI_IWS0 n) n 0 |>.setR .PCI_IWA (b.getR .PCI_IWS1 n) n 1)).put PCI_IWSTAT_DONE 1 |>.put PCI_IWSTAT_OLDPEND pending |>.note { code := 0x0A0A }).sendVec 0 9)))
    ∧ (∀ (s : State) (vec : Nat), let b := s.start; b.dev ≠ .off → 16 ≤ vec → vec < 2048 → exec (.pciHintWrite vec) s = .next (s.withBlk (b.sendVec 0 vec)))
    ∧ (∀ (s : State) (vec : Nat), let b := s.start; (vec < 16 ∨ 2048 ≤ vec) → exec (.pciHintWrite vec) s = .next (s.withBlk (b)))

/-- A lockstep mismatch of a running governor asserts FAULT_OUT, clears LOCKOK, sets the sticky code 0x5001, holds every port and halts the governor. A halted governor takes no SRAM error and ends no probe. A corrected SRAM error is counted and logs 0x1008 once per turn; another raises 0x4009, a fault-log entry in which it lies then reading code 0xFFFF. A probe that completes clears MRWEDGE and the count of failures; the third failure in a row sets MRWEDGE and raises 0x400A. A mirror refresh of a running governor renews the mirror. A request of a restricted agent or of no agent, and one to the secure set of an agent that is not secure, is refused: access error, MBX_ERR, 0x2003. A receiver above 79 gives an access error. A POST from EMPTY without ABORTED and with a length from 1 to 48 makes the message PEND in TURN mode, else FULL with the receiver notified, and raises SEQ; another is refused with 0x0004. An ACK empties a FULL channel; ACKABORT clears ABORTED of an EMPTY one. Reading a free lock takes it; a held one gives its holder and the held bit. Its holder releases it by writing 0; a write of another is refused with 0x2006. The governor's forced release of a held lock frees it with 0x0007; another master's gives an access error. Everything else does nothing. -/
def Obligations.GovernorRows : Prop :=
  (∀ (s : State), let b := s.start; let c : Block := (b.assertFout |>.put GOV_STATUS_LOCKOK 0 |>.put GOV_STICKY_CODE 0x5001 |>.put GOV_STICKY_VALID 1).forN 6 (fun k b => b.put LVP_STATUS_LOCALHOLD 1 k |>.put LVP_STATUS_BSTAT 1 k); b.dev ≠ .off → b.govHalted = false → exec (.lockstepMismatch) s = .next (s.withBlk ({ c with govHalted := true, flog := { c.flog with fatal := true } })))
    ∧ (∀ (s : State), let b := s.start; b.govHalted = true → exec (.lockstepMismatch) s = .next (s.withBlk (b)))
    ∧ (∀ (s : State) (correctable : Bool) (entry : Option Nat), let b := s.start; b.govHalted = true → exec (.governorSramError correctable entry) s = .next (s.withBlk (b)))
    ∧ (∀ (s : State) (correctable : Bool) (entry : Option Nat), let b := s.start; b.dev ≠ .off → b.govHalted = false → correctable = true → exec (.governorSramError correctable entry) s = .next (s.withBlk ((b.inc GOV_STATUS_SRAMCE).noteOnce 0 { code := 0x1008 })))
    ∧ (∀ (s : State) (correctable : Bool) (entry : Option Nat), let b := s.start; b.dev ≠ .off → b.govHalted = false → correctable = false → entry = none → exec (.governorSramError correctable entry) s = .next (s.withBlk (b.raise { code := 0x4009 })))
    ∧ (∀ (s : State) (correctable : Bool) (entry : Option Nat) (k : Nat), let b := s.start; b.dev ≠ .off → b.govHalted = false → correctable = false → entry = some k → exec (.governorSramError correctable entry) s = .next (s.withBlk (({ b with flog := { b.flog with ring := SMap.upd {} (k % 1024) (fun e => { e with code := 0xFFFF }) b.flog.ring } } : Block).raise { code := 0x4009 })))
    ∧ (∀ (s : State) (ok : Bool), let b := s.start; b.govHalted = true → exec (.millraceProbe ok) s = .next (s.withBlk (b)))
    ∧ (∀ (s : State) (ok : Bool), let b := s.start; b.dev ≠ .off → b.govHalted = false → ok = true → exec (.millraceProbe ok) s = .next (s.withBlk (({ b with gov := { b.gov with probeFail := 0 } } : Block).put GOV_STATUS_MRWEDGE 0)))
    ∧ (∀ (s : State) (ok : Bool), let b := s.start; let c : Block := { b with gov := { b.gov with probeFail := b.gov.probeFail + 1 } }; b.dev ≠ .off → b.govHalted = false → ok = false → (2 ≤ b.gov.probeFail ∧ c.isSet GOV_STATUS_MRWEDGE = false) → exec (.millraceProbe ok) s = .next (s.withBlk ((c.put GOV_STATUS_MRWEDGE 1).raise { code := 0x400A })))
    ∧ (∀ (s : State) (ok : Bool), let b := s.start; let c : Block := { b with gov := { b.gov with probeFail := b.gov.probeFail + 1 } }; b.dev ≠ .off → b.govHalted = false → ok = false → ¬ (2 ≤ b.gov.probeFail ∧ c.isSet GOV_STATUS_MRWEDGE = false) → exec (.millraceProbe ok) s = .next (s.withBlk (c)))
    ∧ (∀ (s : State), let b := s.start; b.dev ≠ .off → b.govHalted = false → exec (.mirrorRefresh) s = .next (s.withBlk ({ b with gov := { b.gov with mirror := b.mirrorNow, mirrorNs := b.timeNs } })))
    ∧ (∀ (s : State), let b := s.start; b.govHalted = true → exec (.mirrorRefresh) s = .next (s.withBlk (b)))
    ∧ (∀ (s : State) (mid : Nat) (part : Option Nat) (set recv len : Nat), let b := s.start; let off : Nat := 0 + 0x2000 * (set % 2) + 0x40 * (recv % 128) + 0x38; b.dev ≠ .off → recv % 128 < 80 → (match agentOf mid part with | some a => !b.restricted a && (decide (set % 2 = 0) || b.secure a) | none => false) = false → exec (.postMsg mid part set recv len) s = .next (s.withBlk ((b.mbxRefuse mid off).emit .accessError)))
    ∧ (∀ (s : State) (mid : Nat) (part : Option Nat) (set recv len : Nat), let b := s.start; let off : Nat := 0 + 0x2000 * (set % 2) + 0x40 * (recv % 128) + 0x38; b.dev ≠ .off → 80 ≤ recv % 128 → (match agentOf mid part with | some a => !b.restricted a | none => false) = false → exec (.postMsg mid part set recv len) s = .next (s.withBlk ((b.mbxRefuse mid off).emit .accessError)))
    ∧ (∀ (s : State) (mid : Nat) (part : Option Nat) (set recv len : Nat), let b := s.start; let off : Nat := 0 + 0x2000 * (set % 2) + 0x40 * (recv % 128) + 0x38; b.dev ≠ .off → 80 ≤ recv % 128 → (match agentOf mid part with | some a => !b.restricted a | none => false) = true → exec (.postMsg mid part set recv len) s = .next (s.withBlk (b.emit .accessError)))
    ∧ (∀ (s : State) (mid : Nat) (part : Option Nat) (set recv len : Nat) (a : Nat), let b := s.start; let off : Nat := 0 + 0x2000 * (set % 2) + 0x40 * (recv % 128) + 0x38; let k : Nat := chanKey (set % 2) (recv % 128) a; b.dev ≠ .off → recv % 128 < 80 → agentOf mid part = some a → b.restricted a = false → (set % 2 = 0 ∨ b.secure a = true) → ¬ ((b.chan k).state = 0 ∧ (b.chan k).aborted = false ∧ 1 ≤ len % 64 ∧ len % 64 ≤ 48) → exec (.postMsg mid part set recv len) s = .next (s.withBlk ((b.mbxErr MBX_ERR_POSTREF mid off).note { code := 0x0004, mid := some mid })))
    ∧ (∀ (s : State) (mid : Nat) (part : Option Nat) (set recv len : Nat) (a : Nat), let b := s.start; let off : Nat := 0 + 0x2000 * (set % 2) + 0x40 * (recv % 128) + 0x38; let k : Nat := chanKey (set % 2) (recv % 128) a; b.dev ≠ .off → recv % 128 < 80 → agentOf mid part = some a → b.restricted a = false → (set % 2 = 0 ∨ b.secure a = true) → ((b.chan k).state = 0 ∧ (b.chan k).aborted = false ∧ 1 ≤ len % 64 ∧ len % 64 ≤ 48) → b.turnMode (keyRecv k) = true → exec (.postMsg mid part set recv len) s = .next (s.withBlk (b.modChan k fun c => { c with state := 2, len := len % 64, seq := (c.seq + 1) % 65536 })))
    ∧ (∀ (s : State) (mid : Nat) (part : Option Nat) (set recv len : Nat) (a : Nat), let b := s.start; let off : Nat := 0 + 0x2000 * (set % 2) + 0x40 * (recv % 128) + 0x38; let k : Nat := chanKey (set % 2) (recv % 128) a; b.dev ≠ .off → recv % 128 < 80 → agentOf mid part = some a → b.restricted a = false → (set % 2 = 0 ∨ b.secure a = true) → ((b.chan k).state = 0 ∧ (b.chan k).aborted = false ∧ 1 ≤ len % 64 ∧ len % 64 ≤ 48) → b.turnMode (keyRecv k) = false → exec (.postMsg mid part set recv len) s = .next (s.withBlk ((b.modChan k fun c => { c with state := 1, len := len % 64, seq := (c.seq + 1) % 65536 }).notify (keyRecv k))))
    ∧ (∀ (s : State) (mid : Nat) (part : Option Nat) (set send : Nat), let b := s.start; let off : Nat := 0x10000 + 0x2000 * (set % 2) + 0x40 * (send % 128) + 0x38; b.dev ≠ .off → send % 128 < 80 → (match agentOf mid part with | some a => !b.restricted a && (decide (set % 2 = 0) || b.secure a) | none => false) = false → exec (.ackMsg mid part set send) s = .next (s.withBlk ((b.mbxRefuse mid off).emit .accessError)))
    ∧ (∀ (s : State) (mid : Nat) (part : Option Nat) (set send : Nat), let b := s.start; let off : Nat := 0x10000 + 0x2000 * (set % 2) + 0x40 * (send % 128) + 0x38; b.dev ≠ .off → 80 ≤ send % 128 → (match agentOf mid part with | some a => !b.restricted a | none => false) = false → exec (.ackMsg mid part set send) s = .next (s.withBlk ((b.mbxRefuse mid off).emit .accessError)))
    ∧ (∀ (s : State) (mid : Nat) (part : Option Nat) (set send : Nat), let b := s.start; let off : Nat := 0x10000 + 0x2000 * (set % 2) + 0x40 * (send % 128) + 0x38; b.dev ≠ .off → 80 ≤ send % 128 → (match agentOf mid part with | some a => !b.restricted a | none => false) = true → exec (.ackMsg mid part set send) s = .next (s.withBlk (b.emit .accessError)))
    ∧ (∀ (s : State) (mid : Nat) (part : Option Nat) (set send : Nat) (a : Nat), let b := s.start; let off : Nat := 0x10000 + 0x2000 * (set % 2) + 0x40 * (send % 128) + 0x38; let k : Nat := chanKey (set % 2) a (send % 128); let c : Block := b.modChan k fun c => { c with state := 0, len := 0, sreset := false, msg := List.replicate 48 0 }; b.dev ≠ .off → send % 128 < 80 → agentOf mid part = some a → b.restricted a = false → (set % 2 = 0 ∨ b.secure a = true) → (b.chan k).state = 1 → exec (.ackMsg mid part set send) s = .next (s.withBlk (c.when (keySend k = 72) (Block.postHeld k))))
    ∧ (∀ (s : State) (mid : Nat) (part : Option Nat) (set send : Nat) (a : Nat), let b := s.start; let off : Nat := 0x10000 + 0x2000 * (set % 2) + 0x40 * (send % 128) + 0x38; let k : Nat := chanKey (set % 2) a (send % 128); b.dev ≠ .off → send % 128 < 80 → agentOf mid part = some a → b.restricted a = false → (set % 2 = 0 ∨ b.secure a = true) → (b.chan k).state ≠ 1 → exec (.ackMsg mid part set send) s = .next (s.withBlk (b)))
    ∧ (∀ (s : State) (mid : Nat) (part : Option Nat) (set recv : Nat), let b := s.start; let off : Nat := 0 + 0x2000 * (set % 2) + 0x40 * (recv % 128) + 0x38; b.dev ≠ .off → recv % 128 < 80 → (match agentOf mid part with | some a => !b.restricted a && (decide (set % 2 = 0) || b.secure a) | none => false) = false → exec (.ackabort mid part set recv) s = .next (s.withBlk ((b.mbxRefuse mid off).emit .accessError)))
    ∧ (∀ (s : State) (mid : Nat) (part : Option Nat) (set recv : Nat), let b := s.start; let off : Nat := 0 + 0x2000 * (set % 2) + 0x40 * (recv % 128) + 0x38; b.dev ≠ .off → 80 ≤ recv % 128 → (match agentOf mid part with | some a => !b.restricted a | none => false) = false → exec (.ackabort mid part set recv) s = .next (s.withBlk ((b.mbxRefuse mid off).emit .accessError)))
    ∧ (∀ (s : State) (mid : Nat) (part : Option Nat) (set recv : Nat), let b := s.start; let off : Nat := 0 + 0x2000 * (set % 2) + 0x40 * (recv % 128) + 0x38; b.dev ≠ .off → 80 ≤ recv % 128 → (match agentOf mid part with | some a => !b.restricted a | none => false) = true → exec (.ackabort mid part set recv) s = .next (s.withBlk (b.emit .accessError)))
    ∧ (∀ (s : State) (mid : Nat) (part : Option Nat) (set recv : Nat) (a : Nat), let b := s.start; let off : Nat := 0 + 0x2000 * (set % 2) + 0x40 * (recv % 128) + 0x38; let k : Nat := chanKey (set % 2) (recv % 128) a; b.dev ≠ .off → recv % 128 < 80 → agentOf mid part = some a → b.restricted a = false → (set % 2 = 0 ∨ b.secure a = true) → ((b.chan k).state = 0 ∧ (b.chan k).aborted = true) → exec (.ackabort mid part set recv) s = .next (s.withBlk (b.modChan k fun c => { c with aborted := false })))
    ∧ (∀ (s : State) (mid : Nat) (part : Option Nat) (set recv : Nat) (a : Nat), let b := s.start; let off : Nat := 0 + 0x2000 * (set % 2) + 0x40 * (recv % 128) + 0x38; let k : Nat := chanKey (set % 2) (recv % 128) a; b.dev ≠ .off → recv % 128 < 80 → agentOf mid part = some a → b.restricted a = false → (set % 2 = 0 ∨ b.secure a = true) → ¬ ((b.chan k).state = 0 ∧ (b.chan k).aborted = true) → exec (.ackabort mid part set recv) s = .next (s.withBlk (b)))
    ∧ (∀ (s : State) (mid : Nat) (part : Option Nat) (k : Nat), let b := s.start; let off : Nat := 0x30000 + 4 * (k % 256); b.dev ≠ .off → (match agentOf mid part with | some a => !b.restricted a | none => decide (mid = midDebug)) = false → exec (.lockAcquire mid part k) s = .next (s.withBlk ((b.mbxRefuse mid off).emit .accessError)))
    ∧ (∀ (s : State) (mid : Nat) (part : Option Nat) (k : Nat), let b := s.start; let off : Nat := 0x30000 + 4 * (k % 256); b.dev ≠ .off → (match agentOf mid part with | some a => !b.restricted a | none => decide (mid = midDebug)) = true → b.lockHolder (k % 256) = none → exec (.lockAcquire mid part k) s = .next (s.withBlk (({ b with mbx := { b.mbx with locks := SMap.set 0 (k % 256) (mid + 1) b.mbx.locks } } : Block).emit (.value mid))))
    ∧ (∀ (s : State) (mid : Nat) (part : Option Nat) (k : Nat) (m : Nat), let b := s.start; let off : Nat := 0x30000 + 4 * (k % 256); b.dev ≠ .off → (match agentOf mid part with | some a => !b.restricted a | none => decide (mid = midDebug)) = true → b.lockHolder (k % 256) = some m → exec (.lockAcquire mid part k) s = .next (s.withBlk (b.emit (.value (m + 0x8000)))))
    ∧ (∀ (s : State) (mid : Nat) (part : Option Nat) (k value : Nat), let b := s.start; let off : Nat := 0x30000 + 4 * (k % 256); b.dev ≠ .off → (match agentOf mid part with | some a => !b.restricted a | none => decide (mid = midDebug)) = false → exec (.lockRelease mid part k value) s = .next (s.withBlk ((b.mbxRefuse mid off).emit .accessError)))
    ∧ (∀ (s : State) (mid : Nat) (part : Option Nat) (k value : Nat), let b := s.start; let off : Nat := 0x30000 + 4 * (k % 256); b.dev ≠ .off → (match agentOf mid part with | some a => !b.restricted a | none => decide (mid = midDebug)) = true → b.lockHolder (k % 256) ≠ some mid → exec (.lockRelease mid part k value) s = .next (s.withBlk ((b.mbxErr MBX_ERR_LOCKREF mid off).note { code := 0x2006, mid := some mid })))
    ∧ (∀ (s : State) (mid : Nat) (part : Option Nat) (k value : Nat), let b := s.start; let off : Nat := 0x30000 + 4 * (k % 256); b.dev ≠ .off → (match agentOf mid part with | some a => !b.restricted a | none => decide (mid = midDebug)) = true → b.lockHolder (k % 256) = some mid → value = 0 → exec (.lockRelease mid part k value) s = .next (s.withBlk ({ b with mbx := { b.mbx with locks := SMap.set 0 (k % 256) 0 b.mbx.locks } })))
    ∧ (∀ (s : State) (mid : Nat) (part : Option Nat) (k value : Nat), let b := s.start; let off : Nat := 0x30000 + 4 * (k % 256); (match agentOf mid part with | some a => !b.restricted a | none => decide (mid = midDebug)) = true → b.lockHolder (k % 256) = some mid → value ≠ 0 → exec (.lockRelease mid part k value) s = .next (s.withBlk (b)))
    ∧ (∀ (s : State) (mid : Nat) (part : Option Nat) (k value : Nat), let b := s.start; let off : Nat := 0x30800 + 4 * (k % 256); b.dev ≠ .off → (match agentOf mid part with | some a => !b.restricted a | none => false) = false → exec (.lockForceRelease mid part k value) s = .next (s.withBlk ((b.mbxRefuse mid off).emit .accessError)))
    ∧ (∀ (s : State) (mid : Nat) (part : Option Nat) (k value : Nat), let b := s.start; let off : Nat := 0x30800 + 4 * (k % 256); b.dev ≠ .off → (match agentOf mid part with | some a => !b.restricted a | none => false) = true → mid ≠ midGov → exec (.lockForceRelease mid part k value) s = .next (s.withBlk (b.emit .accessError)))
    ∧ (∀ (s : State) (mid : Nat) (part : Option Nat) (k value : Nat), let b := s.start; let off : Nat := 0x30800 + 4 * (k % 256); b.dev ≠ .off → mid = midGov → (value % 2 = 1 ∧ (b.lockHolder (k % 256)).isSome = true) → exec (.lockForceRelease mid part k value) s = .next (s.withBlk (({ b with mbx := { b.mbx with locks := SMap.set 0 (k % 256) 0 b.mbx.locks } } : Block).note { code := 0x0007, detail := k % 256 })))
    ∧ (∀ (s : State) (mid : Nat) (part : Option Nat) (k value : Nat), let b := s.start; let off : Nat := 0x30800 + 4 * (k % 256); mid = midGov → ¬ (value % 2 = 1 ∧ (b.lockHolder (k % 256)).isSome = true) → exec (.lockForceRelease mid part k value) s = .next (s.withBlk (b)))

/-- The PCIe window of an endpoint takes one request at a time, GOBUSY for a second; a request that gets no answer leaves it BUSY, and an answered one is DONE with its response, its data and vector 10. A message is taken by the service and answered on its path; one from a mailbox is what the agent's channel holds, which is acknowledged, and an empty channel or a halted governor gives nothing. A USDO request on a port that is on is answered as its path grants it: nothing, 0x0601_0000 with 0x2B08, or what the read or the write gives. A ninth unfinished write of a port is refused with 0x0800_0022. An unfinished session that times out is dropped with its bytes, and answered 0x0504_0000. An NMT command is counted and logged as 0x0B0C while the service runs. A heartbeat of a port that is on shows the device state where 0x1017 is not 0. Everything else does nothing. -/
def Obligations.DictionaryRows : Prop :=
  (∀ (s : State), let b := s.start; b.isSet PCI_CFG_EP = false → exec (.dictionaryWindowGo) s = .next (s.withBlk (b)))
    ∧ (∀ (s : State), let b := s.start; b.dev ≠ .off → b.isSet PCI_CFG_EP = true → b.pci.dwBusy = true → exec (.dictionaryWindowGo) s = .next (s.withBlk (b.modPci fun p => { p with dwGoBusy := true })))
    ∧ (∀ (s : State), let b := s.start; let buf : Bytes := SMap.getRun (0 : Byte) 0 20 b.pci.dwReq; let msg : Bytes := SMap.getRun (0 : Byte) 0 (20 + (if leAt 0 1 buf = 2 then min (leAt 12 4 buf) 65516 else 0)) b.pci.dwReq; let c : Block := b.modPci fun p => { p with dwBusy := true, dwDone := false }; let q : Option (Bytes × Nat × Bytes) × Block := c.dictMsg { path := 4, src := 0 } 65516 msg false; b.dev ≠ .off → b.isSet PCI_CFG_EP = true → b.pci.dwBusy = false → q.1 = none → exec (.dictionaryWindowGo) s = .next (s.withBlk (q.2)))
    ∧ (∀ (s : State) (m : Bytes) (a : Nat) (x : Bytes), let b := s.start; let buf : Bytes := SMap.getRun (0 : Byte) 0 20 b.pci.dwReq; let msg : Bytes := SMap.getRun (0 : Byte) 0 (20 + (if leAt 0 1 buf = 2 then min (leAt 12 4 buf) 65516 else 0)) b.pci.dwReq; let c : Block := b.modPci fun p => { p with dwBusy := true, dwDone := false }; let q : Option (Bytes × Nat × Bytes) × Block := c.dictMsg { path := 4, src := 0 } 65516 msg false; b.dev ≠ .off → b.isSet PCI_CFG_EP = true → b.pci.dwBusy = false → q.1 = some (m, a, x) → exec (.dictionaryWindowGo) s = .next (s.withBlk (((q.2.modPci (fun p => { p with dwBusy := false, dwDone := true, dwResp := m })).emit (.answer a x)).sendVec 0 10)))
    ∧ (∀ (s : State) (via : DictPath) (port stream : Nat) (msg : Bytes) (stalled : Bool), let b := s.start; let k : Nat := chanKey via.set 72 via.src; let m0 : Bytes := if via.path = 5 then (b.chan k).msg.take (b.chan k).len else msg; let c : Block := if via.path = 5 then b.ack k else b; let q : Option (Bytes × Nat × Bytes) × Block := c.dictMsg via (pathCap via.path) m0 stalled; (via.path = 5 ∧ ((b.chan k).state ≠ 1 ∨ b.govHalted = true)) → exec (.dictionaryRead via port stream msg stalled) s = .next (s.withBlk (b)))
    ∧ (∀ (s : State) (via : DictPath) (port stream : Nat) (msg : Bytes) (stalled : Bool), let b := s.start; let k : Nat := chanKey via.set 72 via.src; let m0 : Bytes := if via.path = 5 then (b.chan k).msg.take (b.chan k).len else msg; let c : Block := if via.path = 5 then b.ack k else b; let q : Option (Bytes × Nat × Bytes) × Block := c.dictMsg via (pathCap via.path) m0 stalled; b.dev ≠ .off → ¬ (via.path = 5 ∧ ((b.chan k).state ≠ 1 ∨ b.govHalted = true)) → q.1 = none → exec (.dictionaryRead via port stream msg stalled) s = .next (s.withBlk (q.2)))
    ∧ (∀ (s : State) (via : DictPath) (port stream : Nat) (msg : Bytes) (stalled : Bool) (m : Bytes) (a : Nat) (x : Bytes), let b := s.start; let k : Nat := chanKey via.set 72 via.src; let m0 : Bytes := if via.path = 5 then (b.chan k).msg.take (b.chan k).len else msg; let c : Block := if via.path = 5 then b.ack k else b; let q : Option (Bytes × Nat × Bytes) × Block := c.dictMsg via (pathCap via.path) m0 stalled; b.dev ≠ .off → ¬ (via.path = 5 ∧ ((b.chan k).state ≠ 1 ∨ b.govHalted = true)) → q.1 = some (m, a, x) → exec (.dictionaryRead via port stream msg stalled) s = .next (s.withBlk ((q.2.dictReply via port stream m).emit (.answer a x))))
    ∧ (∀ (s : State) (via : DictPath) (port stream : Nat) (msg : Bytes) (stalled : Bool) (m : Bytes) (a : Nat) (x : Bytes), let b := s.start; let k : Nat := chanKey via.set 72 via.src; let m0 : Bytes := if via.path = 5 then (b.chan k).msg.take (b.chan k).len else msg; let c : Block := if via.path = 5 then b.ack k else b; let q : Option (Bytes × Nat × Bytes) × Block := c.dictMsg via (pathCap via.path) m0 stalled; b.dev ≠ .off → ¬ (via.path = 5 ∧ ((b.chan k).state ≠ 1 ∨ b.govHalted = true)) → q.1 = some (m, a, x) → exec (.dictionaryRead via port stream msg stalled) s = .next (s.withBlk ((q.2.dictReply via port stream m).emit (.answer a x))))
    ∧ (∀ (s : State) (via : DictPath) (port stream : Nat) (msg : Bytes), let b := s.start; let k : Nat := chanKey via.set 72 via.src; let m0 : Bytes := if via.path = 5 then (b.chan k).msg.take (b.chan k).len else msg; let c : Block := if via.path = 5 then b.ack k else b; let q : Option (Bytes × Nat × Bytes) × Block := c.dictMsg via (pathCap via.path) m0 false; (via.path = 5 ∧ ((b.chan k).state ≠ 1 ∨ b.govHalted = true)) → exec (.dictionaryWrite via port stream msg) s = .next (s.withBlk (b)))
    ∧ (∀ (s : State) (via : DictPath) (port stream : Nat) (msg : Bytes), let b := s.start; let k : Nat := chanKey via.set 72 via.src; let m0 : Bytes := if via.path = 5 then (b.chan k).msg.take (b.chan k).len else msg; let c : Block := if via.path = 5 then b.ack k else b; let q : Option (Bytes × Nat × Bytes) × Block := c.dictMsg via (pathCap via.path) m0 false; b.dev ≠ .off → ¬ (via.path = 5 ∧ ((b.chan k).state ≠ 1 ∨ b.govHalted = true)) → q.1 = none → exec (.dictionaryWrite via port stream msg) s = .next (s.withBlk (q.2)))
    ∧ (∀ (s : State) (via : DictPath) (port stream : Nat) (msg : Bytes) (m : Bytes) (a : Nat) (x : Bytes), let b := s.start; let k : Nat := chanKey via.set 72 via.src; let m0 : Bytes := if via.path = 5 then (b.chan k).msg.take (b.chan k).len else msg; let c : Block := if via.path = 5 then b.ack k else b; let q : Option (Bytes × Nat × Bytes) × Block := c.dictMsg via (pathCap via.path) m0 false; b.dev ≠ .off → ¬ (via.path = 5 ∧ ((b.chan k).state ≠ 1 ∨ b.govHalted = true)) → q.1 = some (m, a, x) → exec (.dictionaryWrite via port stream msg) s = .next (s.withBlk ((q.2.dictReply via port stream m).emit (.answer a x))))
    ∧ (∀ (s : State) (via : DictPath) (port stream : Nat) (msg : Bytes) (m : Bytes) (a : Nat) (x : Bytes), let b := s.start; let k : Nat := chanKey via.set 72 via.src; let m0 : Bytes := if via.path = 5 then (b.chan k).msg.take (b.chan k).len else msg; let c : Block := if via.path = 5 then b.ack k else b; let q : Option (Bytes × Nat × Bytes) × Block := c.dictMsg via (pathCap via.path) m0 false; b.dev ≠ .off → ¬ (via.path = 5 ∧ ((b.chan k).state ≠ 1 ∨ b.govHalted = true)) → q.1 = some (m, a, x) → exec (.dictionaryWrite via port stream msg) s = .next (s.withBlk ((q.2.dictReply via port stream m).emit (.answer a x))))
    ∧ (∀ (s : State) (port client : Nat) (req : UsdoReq) (stalled : Bool), let b := s.start; b.portOn port = false → exec (.usdoRequest port client req stalled) s = .next (s.withBlk (b)))
    ∧ (∀ (s : State) (port client idx sub : Nat) (stalled : Bool), let b := s.start; let v : DictPath := { path := port + 1, src := client }; b.portOn port = true → b.granted v idx sub false = .silent → exec (.usdoRequest port client (.read idx sub) stalled) s = .next (s.withBlk (b)))
    ∧ (∀ (s : State) (port client idx sub : Nat) (stalled : Bool), let b := s.start; let v : DictPath := { path := port + 1, src := client }; let r : (Nat × Bytes) × Block := b.objRead v idx sub stalled; b.dev ≠ .off → b.portOn port = true → b.granted v idx sub false = .allowed → exec (.usdoRequest port client (.read idx sub) stalled) s = .next (s.withBlk (r.2.emit (.answer r.1.1 r.1.2))))
    ∧ (∀ (s : State) (port client idx sub off : Nat) (last stalled : Bool) (x : Bytes), let b := s.start; let v : DictPath := { path := port + 1, src := client }; b.portOn port = true → b.granted v idx sub true = .silent → exec (.usdoRequest port client (.write idx sub off last x) stalled) s = .next (s.withBlk (b)))
    ∧ (∀ (s : State) (port client idx sub off : Nat) (last stalled : Bool) (x : Bytes), let b := s.start; let v : DictPath := { path := port + 1, src := client }; b.dev ≠ .off → b.portOn port = true → b.granted v idx sub true = .refused → exec (.usdoRequest port client (.write idx sub off last x) stalled) s = .next (s.withBlk ((b.note { code := 0x2B08 }).answer 0x06010000)))
    ∧ (∀ (s : State) (port client idx sub off : Nat) (last stalled : Bool) (x : Bytes), let b := s.start; let v : DictPath := { path := port + 1, src := client }; b.dev ≠ .off → b.portOn port = true → b.granted v idx sub true = .allowed → (b.dict.usdo.contains (port, client) = false ∧ last = false ∧ 8 ≤ (b.dict.usdo.filter fun e => e.1 = port).length) → exec (.usdoRequest port client (.write idx sub off last x) stalled) s = .next (s.withBlk (b.answer 0x08000022)))
    ∧ (∀ (s : State) (port client idx sub off : Nat) (last stalled : Bool) (x : Bytes), let b := s.start; let v : DictPath := { path := port + 1, src := client }; let r : Nat × Block := b.segWrite v idx sub off last x; let c : Block := r.2.dropUsdo port client; b.dev ≠ .off → b.portOn port = true → b.granted v idx sub true = .allowed → ¬ (b.dict.usdo.contains (port, client) = false ∧ last = false ∧ 8 ≤ (b.dict.usdo.filter fun e => e.1 = port).length) → r.1 = 0 → last = false → exec (.usdoRequest port client (.write idx sub off last x) stalled) s = .next (s.withBlk (({ c with dict := { c.dict with usdo := c.dict.usdo ++ [(port, client)] } } : Block).answer 0)))
    ∧ (∀ (s : State) (port client idx sub off : Nat) (last stalled : Bool) (x : Bytes), let b := s.start; let v : DictPath := { path := port + 1, src := client }; let r : Nat × Block := b.segWrite v idx sub off last x; let c : Block := r.2.dropUsdo port client; b.dev ≠ .off → b.portOn port = true → b.granted v idx sub true = .allowed → ¬ (b.dict.usdo.contains (port, client) = false ∧ last = false ∧ 8 ≤ (b.dict.usdo.filter fun e => e.1 = port).length) → (r.1 ≠ 0 ∨ last = true) → exec (.usdoRequest port client (.write idx sub off last x) stalled) s = .next (s.withBlk (c.answer r.1)))
    ∧ (∀ (s : State) (port client : Nat), let b := s.start; b.dev ≠ .off → (b.govHalted = false ∧ b.dict.usdo.contains (port, client) = true) → exec (.usdoSessionTimeout port client) s = .next (s.withBlk (((b.dropUsdo port client).setSeg { path := port + 1, src := client } none).answer 0x05040000)))
    ∧ (∀ (s : State) (port client : Nat), let b := s.start; ¬ (b.govHalted = false ∧ b.dict.usdo.contains (port, client) = true) → exec (.usdoSessionTimeout port client) s = .next (s.withBlk (b)))
    ∧ (∀ (s : State), let b := s.start; b.dev ≠ .off → b.serving = true → exec (.nmtCommand) s = .next (s.withBlk (({ b with dict := { b.dict with nmt := b.dict.nmt + 1 } } : Block).note { code := 0x0B0C })))
    ∧ (∀ (s : State), let b := s.start; b.serving = false → exec (.nmtCommand) s = .next (s.withBlk (b)))
    ∧ (∀ (s : State) (port : Nat), let b := s.start; b.dev ≠ .off → (b.portOn port = true ∧ b.serving = true ∧ b.actN 0x1017 0 ≠ 0) → exec (.canopenHeartbeat port) s = .next (s.withBlk (b.emit (.can port (0x700 + b.nodeId) [BitVec.ofNat 8 b.dev.canopen]))))
    ∧ (∀ (s : State) (port : Nat), let b := s.start; ¬ (b.portOn port = true ∧ b.serving = true ∧ b.actN 0x1017 0 ≠ 0) → exec (.canopenHeartbeat port) s = .next (s.withBlk (b)))

/-- Each gets no answer where its path is silent, and 0x0601_0000 with 0x2B08 where it is refused; a value of another length gets 0x0607_0010, a number out of range 0x0609_0030, a sub-index that is not there 0x0609_0011. COMMIT and COMMIT_AND_PERSIST begin the checks; DISCARD cancels a pending switch, copies the active image and frees the claim; PERSIST starts one: each is refused with 0x0800_0021 where another is under way, with 0x0800_0022 outside its states. A key is loaded only in SERVICE, fills a blank slot and must match another. A slot in use is not revoked. The consent fuse is blown. A challenge replaces that of its source; a response uses it up, and opens a session or fails. The end of a session in SERVICE that leaves none resumes. A confirmed trial bank is GOOD with 0x0C03. The counter advances in SERVICE with 0x0C0A, or is refused with 0x2C09. A pending bank is cancelled. A bundle's segments are taken in order into the spare bank; its end makes it PENDING with 0x0C05, or BAD with 0x2C05. A nonce gives a report. A measurement is extended from the secure set of a mailbox alone. A rekey request starts new keys on an UP port. A MACsec key is stored. -/
def Obligations.ObjectCommands : Prop :=
  (∀ (s : State) (via : DictPath), let b := s.start; b.granted via 0x1F00 1 true = .silent → exec (.commitImg via) s = .next (s.withBlk (b)))
    ∧ (∀ (s : State) (via : DictPath), let b := s.start; b.dev ≠ .off → b.granted via 0x1F00 1 true = .refused → exec (.commitImg via) s = .next (s.withBlk ((b.note { code := 0x2B08 }).answer 0x06010000)))
    ∧ (∀ (s : State) (via : DictPath), let b := s.start; b.dev ≠ .off → b.granted via 0x1F00 1 true = .allowed → (b.commit.state = 1 ∨ b.commit.state = 2 ∨ b.claimedBy via = true) → exec (.commitImg via) s = .next (s.withBlk ((b).answer 0x08000021)))
    ∧ (∀ (s : State) (via : DictPath), let b := s.start; b.dev ≠ .off → b.granted via 0x1F00 1 true = .allowed → ¬ (b.commit.state = 1 ∨ b.commit.state = 2 ∨ b.claimedBy via = true) → b.mayCommit = false → exec (.commitImg via) s = .next (s.withBlk ((b).answer 0x08000022)))
    ∧ (∀ (s : State) (via : DictPath), let b := s.start; b.dev ≠ .off → b.granted via 0x1F00 1 true = .allowed → ¬ (b.commit.state = 1 ∨ b.commit.state = 2 ∨ b.claimedBy via = true) → b.mayCommit = true → exec (.commitImg via) s = .next (s.withBlk (({ b with commit := { b.commit with state := 1, path := via.path, result := 0, detail := 0, turn := 0, persistAfter := false, who := (via.path, via.src) } }).answer 0)))
    ∧ (∀ (s : State) (via : DictPath), let b := s.start; b.granted via 0x1F00 1 true = .silent → exec (.commitAndPersist via) s = .next (s.withBlk (b)))
    ∧ (∀ (s : State) (via : DictPath), let b := s.start; b.dev ≠ .off → b.granted via 0x1F00 1 true = .refused → exec (.commitAndPersist via) s = .next (s.withBlk ((b.note { code := 0x2B08 }).answer 0x06010000)))
    ∧ (∀ (s : State) (via : DictPath), let b := s.start; b.dev ≠ .off → b.granted via 0x1F00 1 true = .allowed → (b.commit.state = 1 ∨ b.commit.state = 2 ∨ b.claimedBy via = true) → exec (.commitAndPersist via) s = .next (s.withBlk ((b).answer 0x08000021)))
    ∧ (∀ (s : State) (via : DictPath), let b := s.start; b.dev ≠ .off → b.granted via 0x1F00 1 true = .allowed → ¬ (b.commit.state = 1 ∨ b.commit.state = 2 ∨ b.claimedBy via = true) → b.mayCommit = false → exec (.commitAndPersist via) s = .next (s.withBlk ((b).answer 0x08000022)))
    ∧ (∀ (s : State) (via : DictPath), let b := s.start; b.dev ≠ .off → b.granted via 0x1F00 1 true = .allowed → ¬ (b.commit.state = 1 ∨ b.commit.state = 2 ∨ b.claimedBy via = true) → b.mayCommit = true → exec (.commitAndPersist via) s = .next (s.withBlk (({ b with commit := { b.commit with state := 1, path := via.path, result := 0, detail := 0, turn := 0, persistAfter := true, who := (via.path, via.src) } }).answer 0)))
    ∧ (∀ (s : State) (via : DictPath), let b := s.start; b.granted via 0x1F00 1 true = .silent → exec (.discardImg via) s = .next (s.withBlk (b)))
    ∧ (∀ (s : State) (via : DictPath), let b := s.start; b.dev ≠ .off → b.granted via 0x1F00 1 true = .refused → exec (.discardImg via) s = .next (s.withBlk ((b.note { code := 0x2B08 }).answer 0x06010000)))
    ∧ (∀ (s : State) (via : DictPath), let b := s.start; b.dev ≠ .off → b.granted via 0x1F00 1 true = .allowed → (b.commit.state = 1 ∨ b.claimedBy via = true) → exec (.discardImg via) s = .next (s.withBlk ((b).answer 0x08000021)))
    ∧ (∀ (s : State) (via : DictPath), let b := s.start; let c : Block := b.cancelPending.discardStaged; b.dev ≠ .off → b.granted via 0x1F00 1 true = .allowed → ¬ (b.commit.state = 1 ∨ b.claimedBy via = true) → exec (.discardImg via) s = .next (s.withBlk (({ c with commit := { c.commit with claim := none } }).answer 0)))
    ∧ (∀ (s : State) (via : DictPath), let b := s.start; b.granted via 0x1F00 1 true = .silent → exec (.persistImg via) s = .next (s.withBlk (b)))
    ∧ (∀ (s : State) (via : DictPath), let b := s.start; b.dev ≠ .off → b.granted via 0x1F00 1 true = .refused → exec (.persistImg via) s = .next (s.withBlk ((b.note { code := 0x2B08 }).answer 0x06010000)))
    ∧ (∀ (s : State) (via : DictPath), let b := s.start; b.dev ≠ .off → b.granted via 0x1F00 1 true = .allowed → b.dict.switched = false → exec (.persistImg via) s = .next (s.withBlk ((b).answer 0x08000022)))
    ∧ (∀ (s : State) (via : DictPath), let b := s.start; b.dev ≠ .off → b.granted via 0x1F00 1 true = .allowed → b.dict.switched = true → b.dict.persist ≠ none → exec (.persistImg via) s = .next (s.withBlk ((b).answer 0x08000021)))
    ∧ (∀ (s : State) (via : DictPath), let b := s.start; b.dev ≠ .off → b.granted via 0x1F00 1 true = .allowed → b.dict.switched = true → b.dict.persist = none → exec (.persistImg via) s = .next (s.withBlk ((b.startPersist).answer 0)))
    ∧ (∀ (s : State) (via : DictPath) (slot : Nat) (key : Bytes), let b := s.start; b.granted via 0x8001 1 true = .silent → exec (.loadPublicKey via slot key) s = .next (s.withBlk (b)))
    ∧ (∀ (s : State) (via : DictPath) (slot : Nat) (key : Bytes), let b := s.start; b.dev ≠ .off → b.granted via 0x8001 1 true = .refused → exec (.loadPublicKey via slot key) s = .next (s.withBlk ((b.note { code := 0x2B08 }).answer 0x06010000)))
    ∧ (∀ (s : State) (via : DictPath) (slot : Nat) (key : Bytes), let b := s.start; b.dev ≠ .off → b.granted via 0x8001 1 true = .allowed → key.length ≠ 57 → exec (.loadPublicKey via slot key) s = .next (s.withBlk ((b).answer 0x06070010)))
    ∧ (∀ (s : State) (via : DictPath) (slot : Nat) (key : Bytes), let b := s.start; b.dev ≠ .off → b.granted via 0x8001 1 true = .allowed → key.length = 57 → b.dev ≠ .service → exec (.loadPublicKey via slot key) s = .next (s.withBlk ((b).answer 0x08000022)))
    ∧ (∀ (s : State) (via : DictPath) (slot : Nat) (key : Bytes), let b := s.start; b.dev ≠ .off → b.granted via 0x8001 1 true = .allowed → key.length = 57 → b.dev = .service → 10 ≤ slot % 256 → exec (.loadPublicKey via slot key) s = .next (s.withBlk ((b).answer 0x06090030)))
    ∧ (∀ (s : State) (via : DictPath) (slot : Nat) (key : Bytes), let b := s.start; let n : Nat := slot % 256; b.dev ≠ .off → b.granted via 0x8001 1 true = .allowed → key.length = 57 → b.dev = .service → slot % 256 < 10 → (b.slot n).programmed = false → exec (.loadPublicKey via slot key) s = .next (s.withBlk (((b.modSlot n fun s => { s with digest := keyDig key, programmed := true }).modTrust fun t => { t with keys := SMap.set [] n key t.keys }).answer 0)))
    ∧ (∀ (s : State) (via : DictPath) (slot : Nat) (key : Bytes), let b := s.start; let n : Nat := slot % 256; b.dev ≠ .off → b.granted via 0x8001 1 true = .allowed → key.length = 57 → b.dev = .service → slot % 256 < 10 → (b.slot n).programmed = true → (b.slot n).digest ≠ keyDig key → exec (.loadPublicKey via slot key) s = .next (s.withBlk ((b).answer 0x06090030)))
    ∧ (∀ (s : State) (via : DictPath) (slot : Nat) (key : Bytes), let b := s.start; let n : Nat := slot % 256; b.dev ≠ .off → b.granted via 0x8001 1 true = .allowed → key.length = 57 → b.dev = .service → slot % 256 < 10 → (b.slot n).programmed = true → (b.slot n).digest = keyDig key → exec (.loadPublicKey via slot key) s = .next (s.withBlk ((b.modTrust fun t => { t with keys := SMap.set [] n key t.keys }).answer 0)))
    ∧ (∀ (s : State) (via : DictPath) (slot : Nat), let b := s.start; b.granted via 0x8001 2 true = .silent → exec (.revokeSlot via slot) s = .next (s.withBlk (b)))
    ∧ (∀ (s : State) (via : DictPath) (slot : Nat), let b := s.start; b.dev ≠ .off → b.granted via 0x8001 2 true = .refused → exec (.revokeSlot via slot) s = .next (s.withBlk ((b.note { code := 0x2B08 }).answer 0x06010000)))
    ∧ (∀ (s : State) (via : DictPath) (slot : Nat), let b := s.start; b.dev ≠ .off → b.granted via 0x8001 2 true = .allowed → 10 ≤ slot % 256 → exec (.revokeSlot via slot) s = .next (s.withBlk ((b).answer 0x06090030)))
    ∧ (∀ (s : State) (via : DictPath) (slot : Nat), let b := s.start; b.dev ≠ .off → b.granted via 0x8001 2 true = .allowed → slot % 256 < 10 → b.slotUsed (slot % 256) = true → exec (.revokeSlot via slot) s = .next (s.withBlk ((b).answer 0x08000022)))
    ∧ (∀ (s : State) (via : DictPath) (slot : Nat), let b := s.start; b.dev ≠ .off → b.granted via 0x8001 2 true = .allowed → slot % 256 < 10 → b.slotUsed (slot % 256) = false → exec (.revokeSlot via slot) s = .next (s.withBlk ((b.modSlot (slot % 256) fun s => { s with revoked := true }).answer 0)))
    ∧ (∀ (s : State) (via : DictPath), let b := s.start; b.granted via 0x8001 3 true = .silent → exec (.vendorDebugConsent via) s = .next (s.withBlk (b)))
    ∧ (∀ (s : State) (via : DictPath), let b := s.start; b.dev ≠ .off → b.granted via 0x8001 3 true = .refused → exec (.vendorDebugConsent via) s = .next (s.withBlk ((b.note { code := 0x2B08 }).answer 0x06010000)))
    ∧ (∀ (s : State) (via : DictPath), let b := s.start; b.dev ≠ .off → b.granted via 0x8001 3 true = .allowed → exec (.vendorDebugConsent via) s = .next (s.withBlk (({ b with otp := { b.otp with consent := true } }).answer 0)))
    ∧ (∀ (s : State) (via : DictPath) (sig : Bytes), let b := s.start; b.granted via 0x8026 2 true = .silent → exec (.sessionResponse via sig) s = .next (s.withBlk (b)))
    ∧ (∀ (s : State) (via : DictPath) (sig : Bytes), let b := s.start; b.dev ≠ .off → b.granted via 0x8026 2 true = .refused → exec (.sessionResponse via sig) s = .next (s.withBlk ((b.note { code := 0x2B08 }).answer 0x06010000)))
    ∧ (∀ (s : State) (via : DictPath) (sig : Bytes), let b := s.start; b.dev ≠ .off → b.granted via 0x8026 2 true = .allowed → sig.length ≠ 114 → exec (.sessionResponse via sig) s = .next (s.withBlk ((b).answer 0x06070010)))
    ∧ (∀ (s : State) (via : DictPath) (sig : Bytes), let b := s.start; b.dev ≠ .off → b.granted via 0x8026 2 true = .allowed → sig.length = 114 → b.lockedOut (failKey via.path) = true → exec (.sessionResponse via sig) s = .next (s.withBlk ((b).answer 0x08000022)))
    ∧ (∀ (s : State) (via : DictPath) (sig : Bytes), let b := s.start; let c : Block := b.modTrust fun t => { t with chals := t.chals.filter fun e => e.1 ≠ (via.path, via.src) }; let good : Bool := match List.lookup (via.path, via.src) b.trust.chals, c.slotKey 7 with | some q, some key => edVerify key (q ++ c.serialBytes ++ [BitVec.ofNat 8 via.path, 7]) sig | _, _ => false; b.dev ≠ .off → b.granted via 0x8026 2 true = .allowed → sig.length = 114 → b.lockedOut (failKey via.path) = false → good = false → exec (.sessionResponse via sig) s = .next (s.withBlk ((c.authFail (failKey via.path)).answer 0x06090030)))
    ∧ (∀ (s : State) (via : DictPath) (sig : Bytes), let b := s.start; let c : Block := b.modTrust fun t => { t with chals := t.chals.filter fun e => e.1 ≠ (via.path, via.src) }; let good : Bool := match List.lookup (via.path, via.src) b.trust.chals, c.slotKey 7 with | some q, some key => edVerify key (q ++ c.serialBytes ++ [BitVec.ofNat 8 via.path, 7]) sig | _, _ => false; let d : Block := (c.authOk (failKey via.path)).modTrust fun t => { t with sessions := t.sessions.filter (· ≠ (via.path, via.src)) ++ [(via.path, via.src)] }; b.dev ≠ .off → b.granted via 0x8026 2 true = .allowed → sig.length = 114 → b.lockedOut (failKey via.path) = false → good = true → exec (.sessionResponse via sig) s = .next (s.withBlk (((d.extend 5 (shake256 64 sig)).note { code := 0x0C07 }).answer 0)))
    ∧ (∀ (s : State) (via : DictPath), let b := s.start; b.granted via 0x8026 3 true = .silent → exec (.endSession via) s = .next (s.withBlk (b)))
    ∧ (∀ (s : State) (via : DictPath), let b := s.start; b.dev ≠ .off → b.granted via 0x8026 3 true = .refused → exec (.endSession via) s = .next (s.withBlk ((b.note { code := 0x2B08 }).answer 0x06010000)))
    ∧ (∀ (s : State) (via : DictPath), let b := s.start; b.dev ≠ .off → b.granted via 0x8026 3 true = .allowed → b.trust.sessions.contains (via.path, via.src) = false → exec (.endSession via) s = .next (s.withBlk ((b).answer 0)))
    ∧ (∀ (s : State) (via : DictPath), let b := s.start; let c : Block := b.modTrust fun t => { t with sessions := t.sessions.filter (· ≠ (via.path, via.src)) }; b.dev ≠ .off → b.granted via 0x8026 3 true = .allowed → b.trust.sessions.contains (via.path, via.src) = true → ¬ (c.dev = .service ∧ c.trust.sessions.isEmpty = true) → exec (.endSession via) s = .next (s.withBlk ((c).answer 0)))
    ∧ (∀ (s : State) (via : DictPath), let b := s.start; let c : Block := b.modTrust fun t => { t with sessions := t.sessions.filter (· ≠ (via.path, via.src)) }; b.dev ≠ .off → b.granted via 0x8026 3 true = .allowed → b.trust.sessions.contains (via.path, via.src) = true → (c.dev = .service ∧ c.trust.sessions.isEmpty = true) → exec (.endSession via) s = .next (s.withBlk ((c.resumeReq.2).answer 0)))
    ∧ (∀ (s : State) (via : DictPath), let b := s.start; b.granted via 0x8030 3 true = .silent → exec (.confirmBank via) s = .next (s.withBlk (b)))
    ∧ (∀ (s : State) (via : DictPath), let b := s.start; b.dev ≠ .off → b.granted via 0x8030 3 true = .refused → exec (.confirmBank via) s = .next (s.withBlk ((b.note { code := 0x2B08 }).answer 0x06010000)))
    ∧ (∀ (s : State) (via : DictPath), let b := s.start; b.dev ≠ .off → b.granted via 0x8030 3 true = .allowed → (b.runRec.state = 2 ∧ b.trust.rom = false) → exec (.confirmBank via) s = .next (s.withBlk ((((b.putRecord b.trust.running fun r => { r with state := 3, tries := 0 }).modTrust fun t => { t with timer := false }).note { code := 0x0C03 }).answer 0)))
    ∧ (∀ (s : State) (via : DictPath), let b := s.start; b.dev ≠ .off → b.granted via 0x8030 3 true = .allowed → ¬ (b.runRec.state = 2 ∧ b.trust.rom = false) → exec (.confirmBank via) s = .next (s.withBlk ((b).answer 0)))
    ∧ (∀ (s : State) (via : DictPath), let b := s.start; b.granted via 0x8030 5 true = .silent → exec (.advanceCounter via) s = .next (s.withBlk (b)))
    ∧ (∀ (s : State) (via : DictPath), let b := s.start; b.dev ≠ .off → b.granted via 0x8030 5 true = .refused → exec (.advanceCounter via) s = .next (s.withBlk ((b.note { code := 0x2B08 }).answer 0x06010000)))
    ∧ (∀ (s : State) (via : DictPath), let b := s.start; let u : Bundle := b.runBundle; let o : Bank := b.bank b.spareBank; let st : Nat := o.rec'.state; b.dev ≠ .off → b.granted via 0x8030 5 true = .allowed → (b.runRec.state = 3 ∧ b.trust.rom = false ∧ b.dev = .service ∧ (st = 0 ∨ st = 4 ∨ (st = 3 ∧ u.svn ≤ o.bundle.svn))) → exec (.advanceCounter via) s = .next (s.withBlk ((({ b with otp := { b.otp with fwCount := max b.otp.fwCount u.svn } } : Block).note { code := 0x0C0A }).answer 0)))
    ∧ (∀ (s : State) (via : DictPath), let b := s.start; let u : Bundle := b.runBundle; let o : Bank := b.bank b.spareBank; let st : Nat := o.rec'.state; b.dev ≠ .off → b.granted via 0x8030 5 true = .allowed → ¬ (b.runRec.state = 3 ∧ b.trust.rom = false ∧ b.dev = .service ∧ (st = 0 ∨ st = 4 ∨ (st = 3 ∧ u.svn ≤ o.bundle.svn))) → exec (.advanceCounter via) s = .next (s.withBlk ((b.note { code := 0x2C09 }).answer 0x08000022)))
    ∧ (∀ (s : State) (via : DictPath), let b := s.start; b.granted via 0x8030 6 true = .silent → exec (.cancelPending via) s = .next (s.withBlk (b)))
    ∧ (∀ (s : State) (via : DictPath), let b := s.start; b.dev ≠ .off → b.granted via 0x8030 6 true = .refused → exec (.cancelPending via) s = .next (s.withBlk ((b.note { code := 0x2B08 }).answer 0x06010000)))
    ∧ (∀ (s : State) (via : DictPath), let b := s.start; b.dev ≠ .off → b.granted via 0x8030 6 true = .allowed → exec (.cancelPending via) s = .next (s.withBlk ((b.forN 2 fun k b => b.when ((b.bank k).rec'.state = 1) (Block.putRecord k fun r => { r with state := 4 })).answer 0)))
    ∧ (∀ (s : State) (via : DictPath) (nonce : Bytes), let b := s.start; b.granted via 0x8060 1 true = .silent → exec (.attestationNonce via nonce) s = .next (s.withBlk (b)))
    ∧ (∀ (s : State) (via : DictPath) (nonce : Bytes), let b := s.start; b.dev ≠ .off → b.granted via 0x8060 1 true = .refused → exec (.attestationNonce via nonce) s = .next (s.withBlk ((b.note { code := 0x2B08 }).answer 0x06010000)))
    ∧ (∀ (s : State) (via : DictPath) (nonce : Bytes), let b := s.start; b.dev ≠ .off → b.granted via 0x8060 1 true = .allowed → nonce.length ≠ 32 → exec (.attestationNonce via nonce) s = .next (s.withBlk ((b).answer 0x06070010)))
    ∧ (∀ (s : State) (via : DictPath) (nonce : Bytes), let b := s.start; b.dev ≠ .off → b.granted via 0x8060 1 true = .allowed → nonce.length = 32 → exec (.attestationNonce via nonce) s = .next (s.withBlk ((b.modTrust fun t => { t with reports := t.reports.filter (fun e => e.1 ≠ (via.path, via.src)) ++ [((via.path, via.src), b.report nonce)] }).answer 0)))
    ∧ (∀ (s : State) (via : DictPath) (port : Nat), let b := s.start; b.granted via 0x8070 8 true = .silent → exec (.rekeyRequest via port) s = .next (s.withBlk (b)))
    ∧ (∀ (s : State) (via : DictPath) (port : Nat), let b := s.start; b.dev ≠ .off → b.granted via 0x8070 8 true = .refused → exec (.rekeyRequest via port) s = .next (s.withBlk ((b.note { code := 0x2B08 }).answer 0x06010000)))
    ∧ (∀ (s : State) (via : DictPath) (port : Nat), let b := s.start; b.dev ≠ .off → b.granted via 0x8070 8 true = .allowed → 6 ≤ port % 256 → exec (.rekeyRequest via port) s = .next (s.withBlk ((b).answer 0x06090030)))
    ∧ (∀ (s : State) (via : DictPath) (port : Nat), let b := s.start; b.dev ≠ .off → b.granted via 0x8070 8 true = .allowed → port % 256 < 6 → b.portSt (port % 256) = 4 → exec (.rekeyRequest via port) s = .next (s.withBlk ((b.startKeys (port % 256)).answer 0)))
    ∧ (∀ (s : State) (via : DictPath) (port : Nat), let b := s.start; b.dev ≠ .off → b.granted via 0x8070 8 true = .allowed → port % 256 < 6 → b.portSt (port % 256) ≠ 4 → exec (.rekeyRequest via port) s = .next (s.withBlk ((b).answer 0)))
    ∧ (∀ (s : State) (via : DictPath), let b := s.start; b.granted via 0x8026 1 false = .silent → exec (.sessionChallenge via) s = .next (s.withBlk (b)))
    ∧ (∀ (s : State) (via : DictPath), let b := s.start; b.dev ≠ .off → b.granted via 0x8026 1 false = .allowed → b.lockedOut (failKey via.path) = true → exec (.sessionChallenge via) s = .next (s.withBlk ((b).answer 0x08000022)))
    ∧ (∀ (s : State) (via : DictPath), let b := s.start; let r : Bytes × Block := b.random32; b.dev ≠ .off → b.granted via 0x8026 1 false = .allowed → b.lockedOut (failKey via.path) = false → exec (.sessionChallenge via) s = .next (s.withBlk ((r.2.modTrust fun t => { t with chals := t.chals.filter (fun e => e.1 ≠ (via.path, via.src)) ++ [((via.path, via.src), r.1)] }).emit (.answer 0 r.1))))
    ∧ (∀ (s : State) (via : DictPath) (off : Nat) (last : Bool) (data : Bytes), let b := s.start; b.granted via 0x8030 1 true = .silent → exec (.bundleUpload via off last data) s = .next (s.withBlk (b)))
    ∧ (∀ (s : State) (via : DictPath) (off : Nat) (last : Bool) (data : Bytes), let b := s.start; b.dev ≠ .off → b.granted via 0x8030 1 true = .refused → exec (.bundleUpload via off last data) s = .next (s.withBlk ((b.note { code := 0x2B08 }).answer 0x06010000)))
    ∧ (∀ (s : State) (via : DictPath) (off : Nat) (last : Bool) (data : Bytes), let b := s.start; let w : Nat × Nat := (via.path, via.src); let c : Block := b.setSeg via none; b.dev ≠ .off → b.granted via 0x8030 1 true = .allowed → off = 0 → (c.runRec.state = 2 ∨ c.dict.persist.isSome = true ∨ (match c.trust.upload with | some (p, s, _) => decide ((p, s) ≠ w) | none => false) = true) → exec (.bundleUpload via off last data) s = .next (s.withBlk ((c.note { code := 0x2C05 }).answer 0x08000022)))
    ∧ (∀ (s : State) (via : DictPath) (off : Nat) (last : Bool) (data : Bytes) (m : Bytes), let b := s.start; let w : Nat × Nat := (via.path, via.src); let c : Block := b.setSeg via none; let d : Block := ((c.modBank c.spareBank fun k => { k with bundle := {} }).putRecord c.spareBank fun r => { r with state := 0, tries := 0, seq := c.runRec.seq + 1, svn := 0, length := 0, manifest := [] }).modTrust fun t => { t with upload := some (w.1, w.2, []) }; let e : Block := d.modTrust fun t => { t with upload := some (w.1, w.2, m ++ data) }; let u : Bundle := readBundle (m ++ data); let f : Block := (e.modTrust fun t => { t with upload := none }).modBank e.spareBank fun k => { k with bundle := u }; let g : Block := (f.putRecord f.spareBank fun r => { r with state := if f.bundleOk u = true then 1 else 4, svn := u.svn, length := u.length, manifest := u.manifest }).note { code := 0x0C05 }; b.dev ≠ .off → b.granted via 0x8030 1 true = .allowed → off = 0 → ¬ (c.runRec.state = 2 ∨ c.dict.persist.isSome = true ∨ (match c.trust.upload with | some (p, s, _) => decide ((p, s) ≠ w) | none => false) = true) → d.trust.upload = some (w.1, w.2, m) → m.length = off → ¬ 0xF00000 < m.length + data.length → last = true → f.bundleOk u = true → exec (.bundleUpload via off last data) s = .next (s.withBlk ((if g.trust.rom = true then g.warmReset else g).answer 0)))
    ∧ (∀ (s : State) (via : DictPath) (off : Nat) (last : Bool) (data : Bytes) (m : Bytes), let b := s.start; let w : Nat × Nat := (via.path, via.src); let d : Block := b; let e : Block := d.modTrust fun t => { t with upload := some (w.1, w.2, m ++ data) }; let u : Bundle := readBundle (m ++ data); let f : Block := (e.modTrust fun t => { t with upload := none }).modBank e.spareBank fun k => { k with bundle := u }; let g : Block := (f.putRecord f.spareBank fun r => { r with state := if f.bundleOk u = true then 1 else 4, svn := u.svn, length := u.length, manifest := u.manifest }).note { code := 0x0C05 }; b.dev ≠ .off → b.granted via 0x8030 1 true = .allowed → off ≠ 0 → d.trust.upload = some (w.1, w.2, m) → m.length = off → ¬ 0xF00000 < m.length + data.length → last = true → f.bundleOk u = true → exec (.bundleUpload via off last data) s = .next (s.withBlk ((if g.trust.rom = true then g.warmReset else g).answer 0)))
    ∧ (∀ (s : State) (via : DictPath) (off : Nat) (last : Bool) (data : Bytes) (m : Bytes), let b := s.start; let w : Nat × Nat := (via.path, via.src); let c : Block := b.setSeg via none; let d : Block := ((c.modBank c.spareBank fun k => { k with bundle := {} }).putRecord c.spareBank fun r => { r with state := 0, tries := 0, seq := c.runRec.seq + 1, svn := 0, length := 0, manifest := [] }).modTrust fun t => { t with upload := some (w.1, w.2, []) }; b.dev ≠ .off → b.granted via 0x8030 1 true = .allowed → off = 0 → ¬ (c.runRec.state = 2 ∨ c.dict.persist.isSome = true ∨ (match c.trust.upload with | some (p, s, _) => decide ((p, s) ≠ w) | none => false) = true) → d.trust.upload = some (w.1, w.2, m) → m.length = off → 0xF00000 < m.length + data.length → exec (.bundleUpload via off last data) s = .next (s.withBlk ((d).answer 0x06070010)))
    ∧ (∀ (s : State) (via : DictPath) (off : Nat) (last : Bool) (data : Bytes) (m : Bytes), let b := s.start; let w : Nat × Nat := (via.path, via.src); let c : Block := b.setSeg via none; let d : Block := ((c.modBank c.spareBank fun k => { k with bundle := {} }).putRecord c.spareBank fun r => { r with state := 0, tries := 0, seq := c.runRec.seq + 1, svn := 0, length := 0, manifest := [] }).modTrust fun t => { t with upload := some (w.1, w.2, []) }; let e : Block := d.modTrust fun t => { t with upload := some (w.1, w.2, m ++ data) }; b.dev ≠ .off → b.granted via 0x8030 1 true = .allowed → off = 0 → ¬ (c.runRec.state = 2 ∨ c.dict.persist.isSome = true ∨ (match c.trust.upload with | some (p, s, _) => decide ((p, s) ≠ w) | none => false) = true) → d.trust.upload = some (w.1, w.2, m) → m.length = off → ¬ 0xF00000 < m.length + data.length → last = false → exec (.bundleUpload via off last data) s = .next (s.withBlk ((e).answer 0)))
    ∧ (∀ (s : State) (via : DictPath) (off : Nat) (last : Bool) (data : Bytes) (m : Bytes), let b := s.start; let w : Nat × Nat := (via.path, via.src); let c : Block := b.setSeg via none; let d : Block := ((c.modBank c.spareBank fun k => { k with bundle := {} }).putRecord c.spareBank fun r => { r with state := 0, tries := 0, seq := c.runRec.seq + 1, svn := 0, length := 0, manifest := [] }).modTrust fun t => { t with upload := some (w.1, w.2, []) }; let e : Block := d.modTrust fun t => { t with upload := some (w.1, w.2, m ++ data) }; let u : Bundle := readBundle (m ++ data); let f : Block := (e.modTrust fun t => { t with upload := none }).modBank e.spareBank fun k => { k with bundle := u }; let g : Block := f.putRecord f.spareBank fun r => { r with state := if f.bundleOk u = true then 1 else 4, svn := u.svn, length := u.length, manifest := u.manifest }; b.dev ≠ .off → b.granted via 0x8030 1 true = .allowed → off = 0 → ¬ (c.runRec.state = 2 ∨ c.dict.persist.isSome = true ∨ (match c.trust.upload with | some (p, s, _) => decide ((p, s) ≠ w) | none => false) = true) → d.trust.upload = some (w.1, w.2, m) → m.length = off → ¬ 0xF00000 < m.length + data.length → last = true → f.bundleOk u = false → exec (.bundleUpload via off last data) s = .next (s.withBlk ((g.note { code := 0x2C05 }).answer 0x06090030)))
    ∧ (∀ (s : State) (via : DictPath) (off : Nat) (last : Bool) (data : Bytes), let b := s.start; let w : Nat × Nat := (via.path, via.src); let d : Block := b; b.dev ≠ .off → b.granted via 0x8030 1 true = .allowed → off ≠ 0 → (match d.trust.upload with | some (p, s, m) => decide ((p, s) = w ∧ m.length = off) | none => false) = false → exec (.bundleUpload via off last data) s = .next (s.withBlk ((d).answer 0x08000020)))
    ∧ (∀ (s : State) (via : DictPath) (off : Nat) (last : Bool) (data : Bytes) (m : Bytes), let b := s.start; let w : Nat × Nat := (via.path, via.src); let d : Block := b; b.dev ≠ .off → b.granted via 0x8030 1 true = .allowed → off ≠ 0 → d.trust.upload = some (w.1, w.2, m) → m.length = off → 0xF00000 < m.length + data.length → exec (.bundleUpload via off last data) s = .next (s.withBlk ((d).answer 0x06070010)))
    ∧ (∀ (s : State) (via : DictPath) (off : Nat) (last : Bool) (data : Bytes) (m : Bytes), let b := s.start; let w : Nat × Nat := (via.path, via.src); let d : Block := b; let e : Block := d.modTrust fun t => { t with upload := some (w.1, w.2, m ++ data) }; b.dev ≠ .off → b.granted via 0x8030 1 true = .allowed → off ≠ 0 → d.trust.upload = some (w.1, w.2, m) → m.length = off → ¬ 0xF00000 < m.length + data.length → last = false → exec (.bundleUpload via off last data) s = .next (s.withBlk ((e).answer 0)))
    ∧ (∀ (s : State) (via : DictPath) (off : Nat) (last : Bool) (data : Bytes) (m : Bytes), let b := s.start; let w : Nat × Nat := (via.path, via.src); let d : Block := b; let e : Block := d.modTrust fun t => { t with upload := some (w.1, w.2, m ++ data) }; let u : Bundle := readBundle (m ++ data); let f : Block := (e.modTrust fun t => { t with upload := none }).modBank e.spareBank fun k => { k with bundle := u }; let g : Block := f.putRecord f.spareBank fun r => { r with state := if f.bundleOk u = true then 1 else 4, svn := u.svn, length := u.length, manifest := u.manifest }; b.dev ≠ .off → b.granted via 0x8030 1 true = .allowed → off ≠ 0 → d.trust.upload = some (w.1, w.2, m) → m.length = off → ¬ 0xF00000 < m.length + data.length → last = true → f.bundleOk u = false → exec (.bundleUpload via off last data) s = .next (s.withBlk ((g.note { code := 0x2C05 }).answer 0x06090030)))
    ∧ (∀ (s : State) (via : DictPath) (sub : Nat) (value : Bytes), let b := s.start; b.granted via 0x8062 sub true = .silent → exec (.extendMeasurement via sub value) s = .next (s.withBlk (b)))
    ∧ (∀ (s : State) (via : DictPath) (sub : Nat) (value : Bytes), let b := s.start; b.dev ≠ .off → b.granted via 0x8062 sub true = .refused → exec (.extendMeasurement via sub value) s = .next (s.withBlk ((b.note { code := 0x2B08 }).answer 0x06010000)))
    ∧ (∀ (s : State) (via : DictPath) (sub : Nat) (value : Bytes), let b := s.start; b.dev ≠ .off → b.granted via 0x8062 sub true = .allowed → sub ≠ 1 → sub ≠ 2 → exec (.extendMeasurement via sub value) s = .next (s.withBlk ((b).answer 0x06090011)))
    ∧ (∀ (s : State) (via : DictPath) (sub : Nat) (value : Bytes), let b := s.start; b.dev ≠ .off → b.granted via 0x8062 sub true = .allowed → (sub = 1 ∨ sub = 2) → value.length ≠ 64 → exec (.extendMeasurement via sub value) s = .next (s.withBlk ((b).answer 0x06070010)))
    ∧ (∀ (s : State) (via : DictPath) (sub : Nat) (value : Bytes), let b := s.start; b.dev ≠ .off → b.granted via 0x8062 sub true = .allowed → (sub = 1 ∨ sub = 2) → value.length = 64 → ¬ (via.path = 5 ∧ via.set = 1) → exec (.extendMeasurement via sub value) s = .next (s.withBlk ((b.note { code := 0x2B08 }).answer 0x06010000)))
    ∧ (∀ (s : State) (via : DictPath) (sub : Nat) (value : Bytes), let b := s.start; b.dev ≠ .off → b.granted via 0x8062 sub true = .allowed → (sub = 1 ∨ sub = 2) → value.length = 64 → (via.path = 5 ∧ via.set = 1) → exec (.extendMeasurement via sub value) s = .next (s.withBlk ((b.extend (5 + sub) value).answer 0)))
    ∧ (∀ (s : State) (via : DictPath) (sub : Nat) (key : Bytes), let b := s.start; b.granted via 0x8072 sub true = .silent → exec (.macsecKeyWrite via true sub key) s = .next (s.withBlk (b)))
    ∧ (∀ (s : State) (via : DictPath) (sub : Nat) (key : Bytes), let b := s.start; b.dev ≠ .off → b.granted via 0x8072 sub true = .refused → exec (.macsecKeyWrite via true sub key) s = .next (s.withBlk ((b.note { code := 0x2B08 }).answer 0x06010000)))
    ∧ (∀ (s : State) (via : DictPath) (sub : Nat) (key : Bytes), let b := s.start; b.dev ≠ .off → b.granted via 0x8072 sub true = .allowed → sub = 0 → exec (.macsecKeyWrite via true sub key) s = .next (s.withBlk ((b).answer 0x06090011)))
    ∧ (∀ (s : State) (via : DictPath) (sub : Nat) (key : Bytes), let b := s.start; b.dev ≠ .off → b.granted via 0x8072 sub true = .allowed → 97 ≤ sub → exec (.macsecKeyWrite via true sub key) s = .next (s.withBlk ((b).answer 0x06090011)))
    ∧ (∀ (s : State) (via : DictPath) (sub : Nat) (key : Bytes), let b := s.start; b.dev ≠ .off → b.granted via 0x8072 sub true = .allowed → 1 ≤ sub → sub ≤ 96 → key.length ≠ 48 → exec (.macsecKeyWrite via true sub key) s = .next (s.withBlk ((b).answer 0x06070010)))
    ∧ (∀ (s : State) (via : DictPath) (sub : Nat) (key : Bytes), let b := s.start; let k : MacKey := { key := key.take 32, salt := slice 32 12 key, ssci := slice 44 4 key }; b.dev ≠ .off → b.granted via 0x8072 sub true = .allowed → 1 ≤ sub → sub ≤ 96 → key.length = 48 → exec (.macsecKeyWrite via true sub key) s = .next (s.withBlk ((b.modPort ((sub - 1) / 16) fun p => { p with macs := SMap.upd {} ((sub - 1) / 4 % 4) (fun c => { c with tx := SMap.set {} ((sub - 1) % 4) k c.tx, next := some ((sub - 1) % 4) }) p.macs }).answer 0)))
    ∧ (∀ (s : State) (via : DictPath) (sub : Nat) (key : Bytes), let b := s.start; b.granted via 0x8073 sub true = .silent → exec (.macsecKeyWrite via false sub key) s = .next (s.withBlk (b)))
    ∧ (∀ (s : State) (via : DictPath) (sub : Nat) (key : Bytes), let b := s.start; b.dev ≠ .off → b.granted via 0x8073 sub true = .refused → exec (.macsecKeyWrite via false sub key) s = .next (s.withBlk ((b.note { code := 0x2B08 }).answer 0x06010000)))
    ∧ (∀ (s : State) (via : DictPath) (sub : Nat) (key : Bytes), let b := s.start; b.dev ≠ .off → b.granted via 0x8073 sub true = .allowed → sub = 0 → exec (.macsecKeyWrite via false sub key) s = .next (s.withBlk ((b).answer 0x06090011)))
    ∧ (∀ (s : State) (via : DictPath) (sub : Nat) (key : Bytes), let b := s.start; b.dev ≠ .off → b.granted via 0x8073 sub true = .allowed → 97 ≤ sub → exec (.macsecKeyWrite via false sub key) s = .next (s.withBlk ((b).answer 0x06090011)))
    ∧ (∀ (s : State) (via : DictPath) (sub : Nat) (key : Bytes), let b := s.start; b.dev ≠ .off → b.granted via 0x8073 sub true = .allowed → 1 ≤ sub → sub ≤ 96 → key.length ≠ 48 → exec (.macsecKeyWrite via false sub key) s = .next (s.withBlk ((b).answer 0x06070010)))
    ∧ (∀ (s : State) (via : DictPath) (sub : Nat) (key : Bytes), let b := s.start; let k : MacKey := { key := key.take 32, salt := slice 32 12 key, ssci := slice 44 4 key }; b.dev ≠ .off → b.granted via 0x8073 sub true = .allowed → 1 ≤ sub → sub ≤ 96 → key.length = 48 → exec (.macsecKeyWrite via false sub key) s = .next (s.withBlk ((b.modPort ((sub - 1) / 16) fun p => { p with macs := SMap.upd {} ((sub - 1) / 4 % 4) (fun c => { c with rx := SMap.set {} ((sub - 1) % 4) k c.rx }) p.macs }).answer 0)))

/-- The checks of a commit end REFUSED with the result of the first that fails and 0x2B02, or PENDING with 0x0B01, the slots announced where they change. A pending image switches at once in CONFIG_WAIT, at a boundary of the running turn in READY, and in RUN and DEGRADED also only when it is due: its bytes become the active image and its parts are loaded, or, where a load is refused, the commit ends and READY goes back to CONFIG_WAIT with the defaults in force. A claim that times out is released with 0x0B0B. A persist that reads back records its slot with the next sequence number and 0x0B0D, else the slot's image is gone with 0x2B06; a persist that waited then starts. A corrected error of an image logs 0x1B09; another of the staged image loses it with 0x2B0E, of the active image raises 0x4B0A. A restart of a partition that does not exist gets 0x0609_0030, of one that is not defined or not HALTED 0x0800_0022, of one whose placement or digest is refused 0x0800_0022 with 0x2701; another loads it again. Everything else does nothing. -/
def Obligations.CommitRows : Prop :=
  (∀ (s : State), let b := s.start; b.commit.state ≠ 1 → exec (.commitChecksComplete) s = .next (s.withBlk (b)))
    ∧ (∀ (s : State), let b := s.start; let c : Block := ({ b with commit := { b.commit with state := 2, pendTurn := b.turn } } : Block).note { code := 0x0B01 }; let diff : Bool := ({ b with active := b.dict.staged } : Block).slotsDiffer c.active; b.dev ≠ .off → b.commit.state = 1 → exec (.commitChecksComplete) s = .next (s.withBlk (if b.commitChecks.1 ≠ 0 then b.refuseCommit b.commitChecks.1 b.commitChecks.2 else if diff = true then c.announceAll else c)))
    ∧ (∀ (s : State), let b := s.start; ¬ (b.commit.state = 2 ∧ (b.dev = .configWait ∨ (b.dev = .ready ∨ (b.dev = .run ∨ b.dev = .degraded) ∧ b.switchDue = true) ∧ b.tu.phaseA = 0 ∧ b.running = true)) → exec (.imageSwitch) s = .next (s.withBlk (b)))
    ∧ (∀ (s : State), let b := s.start; let t : Block := b.staging; let init : Bool := Block.layoutDiffers b t; let c : Block := ((b.putActive b.dict.staged).lockBinds).modTu (fun u => { u with loadNext := true }); let d : Block := (c.forL ((List.range 64).filter fun p => b.fMode p ≠ 0) Block.removePart).switched; b.dev ≠ .off → b.commit.state = 2 → b.dev = .configWait → exec (.imageSwitch) s = .next (s.withBlk (match t.refusal (if init = true then [] else t.fParts) with | some x => (b.defaultsFor b.dict.staged).refuseLoad x | none => if init = true ∨ d.dev ≠ .configWait then d else d.finishLoad)))
    ∧ (∀ (s : State), let b := s.start; let t : Block := b.staging; let c : Block := (((b.putActive b.dict.staged).lockBinds).regsBoundary).modTu (fun u => { u with imgNow := true }); b.dev ≠ .off → b.commit.state = 2 → (b.tu.phaseA = 0 ∧ b.running = true) → b.dev = .ready → exec (.imageSwitch) s = .next (s.withBlk (match t.refusal (Block.toLoad false b t) with | some x => ((b.defaultsFor b.dict.staged).refuseLoad x).setDev .configWait | none => (Block.loadAll false b c).switched)))
    ∧ (∀ (s : State), let b := s.start; let t : Block := b.staging; let c : Block := (((b.putActive b.dict.staged).lockBinds).regsBoundary).modTu (fun u => { u with imgNow := true }); b.dev ≠ .off → b.commit.state = 2 → (b.tu.phaseA = 0 ∧ b.running = true) → ((b.dev = .run ∨ b.dev = .degraded) ∧ b.switchDue = true) → exec (.imageSwitch) s = .next (s.withBlk (match t.refusal (Block.toLoad false b t) with | some x => b.refuseLoad x | none => (Block.loadAll false b c).switched)))
    ∧ (∀ (s : State), let b := s.start; b.dev ≠ .off → b.commit.claim ≠ none → exec (.stagerTimeout) s = .next (s.withBlk (({ b with commit := { b.commit with claim := none } } : Block).note { code := 0x0B0B })))
    ∧ (∀ (s : State), let b := s.start; b.commit.claim = none → exec (.stagerTimeout) s = .next (s.withBlk (b)))
    ∧ (∀ (s : State) (ok : Bool), let b := s.start; b.dict.persist = none → exec (.persistComplete ok) s = .next (s.withBlk (b)))
    ∧ (∀ (s : State) (ok : Bool) (k : Nat) (m : Bytes), let b := s.start; let seq : Nat := match b.currentSlot with | some c => recordSeq (b.cfgSlot c).record + 1 | none => ((List.range 2).filter fun c => recordOk (b.cfgSlot c).record).foldl (fun a c => max a (recordSeq (b.cfgSlot c).record + 1)) 1; let c : Block := ({ b with dict := { b.dict with persist := none, slots := SMap.set {} k { image := m, record := slotRecord seq m.length (imgCrc m) } b.dict.slots } } : Block).note { code := 0x0B0D }; b.dev ≠ .off → b.dict.persist = some (k, m) → ok = true → ¬ (b.commit.persistAfter = true ∧ b.commit.state = 3) → exec (.persistComplete ok) s = .next (s.withBlk (c)))
    ∧ (∀ (s : State) (ok : Bool) (k : Nat) (m : Bytes), let b := s.start; let seq : Nat := match b.currentSlot with | some c => recordSeq (b.cfgSlot c).record + 1 | none => ((List.range 2).filter fun c => recordOk (b.cfgSlot c).record).foldl (fun a c => max a (recordSeq (b.cfgSlot c).record + 1)) 1; let c : Block := ({ b with dict := { b.dict with persist := none, slots := SMap.set {} k { image := m, record := slotRecord seq m.length (imgCrc m) } b.dict.slots } } : Block).note { code := 0x0B0D }; b.dev ≠ .off → b.dict.persist = some (k, m) → ok = true → (b.commit.persistAfter = true ∧ b.commit.state = 3) → exec (.persistComplete ok) s = .next (s.withBlk (c.startPersist)))
    ∧ (∀ (s : State) (ok : Bool) (k : Nat) (m : Bytes), let b := s.start; let c : Block := ({ b with dict := { b.dict with persist := none, slots := SMap.upd {} k (fun x => { x with image := [] }) b.dict.slots } } : Block).note { code := 0x2B06 }; b.dev ≠ .off → b.dict.persist = some (k, m) → ok = false → ¬ (b.commit.persistAfter = true ∧ b.commit.state = 3) → exec (.persistComplete ok) s = .next (s.withBlk (c)))
    ∧ (∀ (s : State) (ok : Bool) (k : Nat) (m : Bytes), let b := s.start; let c : Block := ({ b with dict := { b.dict with persist := none, slots := SMap.upd {} k (fun x => { x with image := [] }) b.dict.slots } } : Block).note { code := 0x2B06 }; b.dev ≠ .off → b.dict.persist = some (k, m) → ok = false → (b.commit.persistAfter = true ∧ b.commit.state = 3) → exec (.persistComplete ok) s = .next (s.withBlk (c.startPersist)))
    ∧ (∀ (s : State) (staged correctable : Bool), let b := s.start; b.dev ≠ .off → correctable = true → exec (.imageMemoryError staged correctable) s = .next (s.withBlk (b.note { code := 0x1B09 })))
    ∧ (∀ (s : State) (staged correctable : Bool), let b := s.start; let c : Block := if b.commit.state = 1 then b.refuseCommit 12 0 else b.cancelPending; b.dev ≠ .off → correctable = false → staged = true → exec (.imageMemoryError staged correctable) s = .next (s.withBlk (({ c.discardStaged with commit := { c.discardStaged.commit with claim := none } } : Block).note { code := 0x2B0E })))
    ∧ (∀ (s : State) (staged correctable : Bool), let b := s.start; b.dev ≠ .off → correctable = false → staged = false → exec (.imageMemoryError staged correctable) s = .next (s.withBlk (b.raise { code := 0x4B0A })))
    ∧ (∀ (s : State) (p : Nat), let b := s.start; b.dev ≠ .off → 64 ≤ p → exec (.partitionRestartRequest p) s = .next (s.withBlk (b.answer 0x06090030)))
    ∧ (∀ (s : State) (p : Nat), let b := s.start; b.dev ≠ .off → p < 64 → ¬ (b.partDefined p = true ∧ b.get BLT_PSTAT_STATE p = 5) → exec (.partitionRestartRequest p) s = .next (s.withBlk (b.answer 0x08000022)))
    ∧ (∀ (s : State) (p : Nat), let b := s.start; b.dev ≠ .off → p < 64 → (b.partDefined p = true ∧ b.get BLT_PSTAT_STATE p = 5) → b.partPlaceOk p = false → exec (.partitionRestartRequest p) s = .next (s.withBlk ((b.note { code := 0x2701 }).answer 0x08000022)))
    ∧ (∀ (s : State) (p : Nat), let b := s.start; b.dev ≠ .off → p < 64 → (b.partDefined p = true ∧ b.get BLT_PSTAT_STATE p = 5) → b.partPlaceOk p = true → b.digestOk p = false → exec (.partitionRestartRequest p) s = .next (s.withBlk (((b.note { code := 0x2C0D }).note { code := 0x2701 }).answer 0x08000022)))
    ∧ (∀ (s : State) (p : Nat), let b := s.start; let c : Block := (b.forL (List.range 3) fun r b => ((b.haltRepl p r).unbindRepl p r).unpinRepl p r).loadMeasured p; b.dev ≠ .off → p < 64 → (b.partDefined p = true ∧ b.get BLT_PSTAT_STATE p = 5) → b.partPlaceOk p = true → b.digestOk p = true → exec (.partitionRestartRequest p) s = .next (s.withBlk ((c.forL (c.localRepls p) fun r b => b.modRepl p r fun t => { t with nextRestarted := true }).answer 0)))

/-- A session ends at its timeout, and the last of SERVICE resumes; a challenge expires; a lockout ends and the count of failures stays. START of a running governor, outside a lockout, gives a new challenge and token position 0; the token comes four bytes at a time up to 164. SUBMIT uses the challenge up: a token of 164 bytes with the challenge, signed by slot 8, or 9 where its consent is blown, that has not expired opens the session with its rights and 0x0C08, another shows FAIL and counts as a failed authentication. END of an open session clears its triggers, buffer and rights and resumes the harts that it halted. A halt of an executing hart saves its pc and mode in dpc and dcsr. Without the right a command sets error 3; of a hart that is not halted 4; of an unsupported register, width, alignment or index 2; of memory that is not there or is poisoned, or scratch that its sail does not serve, 5. A register or memory is read, its value answered, or written, and the error cleared; a program buffer that ends in an exception sets 3. Everything else does nothing. -/
def Obligations.TrustAndDebug : Prop :=
  (∀ (s : State) (path src : Nat), let b := s.start; b.trust.sessions.contains (path, src) = false → exec (.sessionTimeout path src) s = .next (s.withBlk (b)))
    ∧ (∀ (s : State) (path src : Nat), let b := s.start; let c : Block := b.modTrust fun t => { t with sessions := t.sessions.filter (· ≠ (path, src)) }; b.dev ≠ .off → b.trust.sessions.contains (path, src) = true → ¬ (c.dev = .service ∧ c.trust.sessions.isEmpty = true) → exec (.sessionTimeout path src) s = .next (s.withBlk (c)))
    ∧ (∀ (s : State) (path src : Nat), let b := s.start; let c : Block := b.modTrust fun t => { t with sessions := t.sessions.filter (· ≠ (path, src)) }; b.dev ≠ .off → b.trust.sessions.contains (path, src) = true → (c.dev = .service ∧ c.trust.sessions.isEmpty = true) → exec (.sessionTimeout path src) s = .next (s.withBlk (c.resumeReq.2)))
    ∧ (∀ (s : State) (path src : Nat), let b := s.start; b.dev ≠ .off → exec (.challengeExpiry path src) s = .next (s.withBlk (b.modTrust fun t => { t with chals := t.chals.filter fun e => e.1 ≠ (path, src) })))
    ∧ (∀ (s : State) (iface : Nat), let b := s.start; b.dev ≠ .off → exec (.authLockoutExpiry iface) s = .next (s.withBlk (b.modTrust fun t => { t with fails := SMap.upd (0, 0) iface (fun e => (e.1, 0)) t.fails })))
    ∧ (∀ (s : State), let b := s.start; let r : Bytes × Block := b.random32; b.dev ≠ .off → (b.govHalted = false ∧ b.lockedOut 0 = false) → exec (.dbgStart) s = .next (s.withBlk ((r.2.modDbg (fun d => { d with chal := some r.1, token := [] })).forN 4 fun k c => c.setR .DBG_CHAL (leAt (8 * k) 8 r.1) k)))
    ∧ (∀ (s : State), let b := s.start; ¬ (b.govHalted = false ∧ b.lockedOut 0 = false) → exec (.dbgStart) s = .next (s.withBlk (b)))
    ∧ (∀ (s : State) (value : Nat), let b := s.start; b.dev ≠ .off → exec (.dbgRespWrite value) s = .next (s.withBlk (b.modDbg fun d => { d with token := (d.token ++ leBytes 4 value).take 164 })))
    ∧ (∀ (s : State), let b := s.start; ¬ (b.govHalted = false ∧ b.lockedOut 0 = false) → exec (.dbgSubmit) s = .next (s.withBlk (b)))
    ∧ (∀ (s : State), let b := s.start; let t : Bytes := b.trust.dbg.token; let n : Nat := leAt 38 1 t; let good : Bool := t.length = 164 && b.trust.dbg.chal = some (t.take 32) && slice 32 4 t = b.serialBytes && leAt 39 1 t = 0 && leAt 162 2 t = 0 && (n = 8 || (n = 9 && b.otp.consent)) && b.turn < leAt 40 8 t && (match b.slotKey n with | some k => edVerify k (t.take 48) (slice 48 114 t) | none => false); let c : Block := b.modDbg fun d => { d with chal := none, token := [] }; b.dev ≠ .off → (b.govHalted = false ∧ b.lockedOut 0 = false) → good = false → exec (.dbgSubmit) s = .next (s.withBlk ((c.put DBG_AUTHSTAT_FAIL 1).authFail 0)))
    ∧ (∀ (s : State), let b := s.start; let t : Bytes := b.trust.dbg.token; let n : Nat := leAt 38 1 t; let good : Bool := t.length = 164 && b.trust.dbg.chal = some (t.take 32) && slice 32 4 t = b.serialBytes && leAt 39 1 t = 0 && leAt 162 2 t = 0 && (n = 8 || (n = 9 && b.otp.consent)) && b.turn < leAt 40 8 t && (match b.slotKey n with | some k => edVerify k (t.take 48) (slice 48 114 t) | none => false); let c : Block := b.modDbg fun d => { d with chal := none, token := [] }; b.dev ≠ .off → (b.govHalted = false ∧ b.lockedOut 0 = false) → good = true → exec (.dbgSubmit) s = .next (s.withBlk (((((c.authOk 0).put DBG_AUTHSTAT_SCOPE (leAt 36 2 t % 32)).modDbg (fun d => { d with open' := true, opened := true, expiry := leAt 40 8 t })).extend 5 (shake256 64 t)).note { code := 0x0C08 })))
    ∧ (∀ (s : State), let b := s.start; b.dev ≠ .off → b.trust.dbg.open' = true → exec (.dbgEnd) s = .next (s.withBlk (((b.mapHarts fun _ t => if t.dbg then { t with trig := [], dbg := false, pc := SMap.get 0 0x7B1 t.csr, priv := resumeMode (SMap.get 0 0x7B0 t.csr) } else { t with trig := [] }).modDbg fun d => { d with open' := false, expiry := 0, progbuf := [], data := 0, cmdErr := 0 }).put DBG_AUTHSTAT_SCOPE 0)))
    ∧ (∀ (s : State), let b := s.start; b.trust.dbg.open' = false → exec (.dbgEnd) s = .next (s.withBlk (b)))
    ∧ (∀ (s : State) (sail core : Nat), let b := s.start; let h : Nat := sail * 32 + core; b.dev ≠ .off → (b.dbgHarts = true ∧ sail < 12 ∧ core < 16 ∧ b.executing h = true) → exec (.haltRequest sail core) s = .next (s.withBlk (((b.setCsr h 0x7B1 (b.hart h).pc).setCsr h 0x7B0 (0x40000000 + 3 * 64 + (match (b.hart h).priv with | .m => 3 | .s => 1 | .u => 0 | .vs => 33 | .vu => 32))).modHart h fun t => { t with dbg := true })))
    ∧ (∀ (s : State) (sail core : Nat), let b := s.start; let h : Nat := sail * 32 + core; ¬ (b.dbgHarts = true ∧ sail < 12 ∧ core < 16 ∧ b.executing h = true) → exec (.haltRequest sail core) s = .next (s.withBlk (b)))
    ∧ (∀ (s : State) (sail core n : Nat) (w : Option Nat) (run : Bool), let b := s.start; let h : Nat := sail * 32 + core; b.dev ≠ .off → b.dbgHarts = false → exec (.abstractCommand sail core (.reg n w run)) s = .next (s.withBlk (b.modDbg fun d => { d with cmdErr := 3 })))
    ∧ (∀ (s : State) (sail core n : Nat) (w : Option Nat) (run : Bool), let b := s.start; let h : Nat := sail * 32 + core; b.dev ≠ .off → b.dbgHarts = true → (b.hart h).dbg = false → exec (.abstractCommand sail core (.reg n w run)) s = .next (s.withBlk (b.modDbg fun d => { d with cmdErr := 4 })))
    ∧ (∀ (s : State) (sail core n : Nat) (w : Option Nat) (run : Bool), let b := s.start; let h : Nat := sail * 32 + core; b.dev ≠ .off → b.dbgHarts = true → (b.hart h).dbg = true → 0x1040 ≤ n → exec (.abstractCommand sail core (.reg n w run)) s = .next (s.withBlk (b.modDbg fun d => { d with cmdErr := 2 })))
    ∧ (∀ (s : State) (sail core n : Nat) (w : Option Nat) (run : Bool), let b := s.start; let h : Nat := sail * 32 + core; let v : Nat := (b.absRead h n).getD 0; let q : Block := (b.modDbg fun d => { d with data := v, cmdErr := 0 }).emit (.value v); b.dev ≠ .off → b.dbgHarts = true → (b.hart h).dbg = true → n < 0x1040 → w = none → run = false → exec (.abstractCommand sail core (.reg n w run)) s = .next (s.withBlk (q)))
    ∧ (∀ (s : State) (sail core n : Nat) (w : Option Nat) (run : Bool), let b := s.start; let h : Nat := sail * 32 + core; let v : Nat := (b.absRead h n).getD 0; let q : Block := (b.modDbg fun d => { d with data := v, cmdErr := 0 }).emit (.value v); let p : Bool × Block := q.pbRun h q.trust.dbg.progbuf; b.dev ≠ .off → b.dbgHarts = true → (b.hart h).dbg = true → n < 0x1040 → w = none → run = true → p.1 = true → exec (.abstractCommand sail core (.reg n w run)) s = .next (s.withBlk (p.2)))
    ∧ (∀ (s : State) (sail core n : Nat) (w : Option Nat) (run : Bool), let b := s.start; let h : Nat := sail * 32 + core; let v : Nat := (b.absRead h n).getD 0; let q : Block := (b.modDbg fun d => { d with data := v, cmdErr := 0 }).emit (.value v); let p : Bool × Block := q.pbRun h q.trust.dbg.progbuf; b.dev ≠ .off → b.dbgHarts = true → (b.hart h).dbg = true → n < 0x1040 → w = none → run = true → p.1 = false → exec (.abstractCommand sail core (.reg n w run)) s = .next (s.withBlk (p.2.modDbg fun d => { d with cmdErr := 3 })))
    ∧ (∀ (s : State) (sail core n : Nat) (w : Option Nat) (run : Bool) (v : Nat), let b := s.start; let h : Nat := sail * 32 + core; let q : Block := (b.absWrite h n v).modDbg fun d => { d with cmdErr := 0 }; b.dev ≠ .off → b.dbgHarts = true → (b.hart h).dbg = true → n < 0x1040 → w = some v → run = false → exec (.abstractCommand sail core (.reg n w run)) s = .next (s.withBlk (q)))
    ∧ (∀ (s : State) (sail core n : Nat) (w : Option Nat) (run : Bool) (v : Nat), let b := s.start; let h : Nat := sail * 32 + core; let q : Block := (b.absWrite h n v).modDbg fun d => { d with cmdErr := 0 }; let p : Bool × Block := q.pbRun h q.trust.dbg.progbuf; b.dev ≠ .off → b.dbgHarts = true → (b.hart h).dbg = true → n < 0x1040 → w = some v → run = true → p.1 = true → exec (.abstractCommand sail core (.reg n w run)) s = .next (s.withBlk (p.2)))
    ∧ (∀ (s : State) (sail core n : Nat) (w : Option Nat) (run : Bool) (v : Nat), let b := s.start; let h : Nat := sail * 32 + core; let q : Block := (b.absWrite h n v).modDbg fun d => { d with cmdErr := 0 }; let p : Bool × Block := q.pbRun h q.trust.dbg.progbuf; b.dev ≠ .off → b.dbgHarts = true → (b.hart h).dbg = true → n < 0x1040 → w = some v → run = true → p.1 = false → exec (.abstractCommand sail core (.reg n w run)) s = .next (s.withBlk (p.2.modDbg fun d => { d with cmdErr := 3 })))
    ∧ (∀ (s : State) (sail core pa width : Nat) (w : Option Nat), let b := s.start; b.dev ≠ .off → b.scope 4 = false → exec (.abstractCommand sail core (.mem pa width w)) s = .next (s.withBlk (b.modDbg fun d => { d with cmdErr := 3 })))
    ∧ (∀ (s : State) (sail core pa width : Nat) (w : Option Nat), let b := s.start; b.dev ≠ .off → b.scope 4 = true → ¬ ((width = 1 ∨ width = 2 ∨ width = 4 ∨ width = 8) ∧ pa % width = 0) → exec (.abstractCommand sail core (.mem pa width w)) s = .next (s.withBlk (b.modDbg fun d => { d with cmdErr := 2 })))
    ∧ (∀ (s : State) (sail core pa width : Nat) (w : Option Nat), let b := s.start; b.dev ≠ .off → b.scope 4 = true → ((width = 1 ∨ width = 2 ∨ width = 4 ∨ width = 8) ∧ pa % width = 0) → b.decodePa pa = .scratch → b.sailServes midDebug ((pa - scratchBase) / 0x1000000) = false → exec (.abstractCommand sail core (.mem pa width w)) s = .next (s.withBlk (b.modDbg fun d => { d with cmdErr := 5 })))
    ∧ (∀ (s : State) (sail core pa width : Nat) (w : Option Nat) (v : Nat), let b := s.start; b.dev ≠ .off → b.scope 4 = true → ((width = 1 ∨ width = 2 ∨ width = 4 ∨ width = 8) ∧ pa % width = 0) → b.decodePa pa = .scratch → b.sailServes midDebug ((pa - scratchBase) / 0x1000000) = true → w = some v → exec (.abstractCommand sail core (.mem pa width w)) s = .next (s.withBlk ((b.scrWrite pa (leBytes width v) false).modDbg fun d => { d with cmdErr := 0 })))
    ∧ (∀ (s : State) (sail core pa width : Nat) (w : Option Nat), let b := s.start; b.dev ≠ .off → b.scope 4 = true → ((width = 1 ∨ width = 2 ∨ width = 4 ∨ width = 8) ∧ pa % width = 0) → b.decodePa pa = .scratch → b.sailServes midDebug ((pa - scratchBase) / 0x1000000) = true → w = none → ((b.scrRead pa width).2.1 = true ∨ (b.scrRead pa width).2.2 = true) → exec (.abstractCommand sail core (.mem pa width w)) s = .next (s.withBlk (b.modDbg fun d => { d with cmdErr := 5 })))
    ∧ (∀ (s : State) (sail core pa width : Nat) (w : Option Nat), let b := s.start; let x : Bytes := (b.scrRead pa width).1; b.dev ≠ .off → b.scope 4 = true → ((width = 1 ∨ width = 2 ∨ width = 4 ∨ width = 8) ∧ pa % width = 0) → b.decodePa pa = .scratch → b.sailServes midDebug ((pa - scratchBase) / 0x1000000) = true → w = none → ¬ ((b.scrRead pa width).2.1 = true ∨ (b.scrRead pa width).2.2 = true) → exec (.abstractCommand sail core (.mem pa width w)) s = .next (s.withBlk ((b.modDbg fun d => { d with data := leNat x, cmdErr := 0 }).emit (.value (leNat x)))))
    ∧ (∀ (s : State) (sail core pa width : Nat) (w : Option Nat), let b := s.start; b.dev ≠ .off → b.scope 4 = true → ((width = 1 ∨ width = 2 ∨ width = 4 ∨ width = 8) ∧ pa % width = 0) → b.decodePa pa ≠ .scratch → b.dramOk pa = false → exec (.abstractCommand sail core (.mem pa width w)) s = .next (s.withBlk (b.modDbg fun d => { d with cmdErr := 5 })))
    ∧ (∀ (s : State) (sail core pa width : Nat) (w : Option Nat) (v : Nat), let b := s.start; b.dev ≠ .off → b.scope 4 = true → ((width = 1 ∨ width = 2 ∨ width = 4 ∨ width = 8) ∧ pa % width = 0) → b.decodePa pa ≠ .scratch → b.dramOk pa = true → w = some v → exec (.abstractCommand sail core (.mem pa width w)) s = .next (s.withBlk ((b.writeBytes midDebug noPart pa (leBytes width v)).modDbg fun d => { d with cmdErr := 0 })))
    ∧ (∀ (s : State) (sail core pa width : Nat) (w : Option Nat), let b := s.start; let r : (Nat × Bool) × Block := b.readNat midDebug noPart pa width; b.dev ≠ .off → b.scope 4 = true → ((width = 1 ∨ width = 2 ∨ width = 4 ∨ width = 8) ∧ pa % width = 0) → b.decodePa pa ≠ .scratch → b.dramOk pa = true → w = none → r.1.2 = true → exec (.abstractCommand sail core (.mem pa width w)) s = .next (s.withBlk (r.2.modDbg fun d => { d with cmdErr := 5 })))
    ∧ (∀ (s : State) (sail core pa width : Nat) (w : Option Nat), let b := s.start; let r : (Nat × Bool) × Block := b.readNat midDebug noPart pa width; b.dev ≠ .off → b.scope 4 = true → ((width = 1 ∨ width = 2 ∨ width = 4 ∨ width = 8) ∧ pa % width = 0) → b.decodePa pa ≠ .scratch → b.dramOk pa = true → w = none → r.1.2 = false → exec (.abstractCommand sail core (.mem pa width w)) s = .next (s.withBlk ((r.2.modDbg fun d => { d with data := r.1.1, cmdErr := 0 }).emit (.value r.1.1))))
    ∧ (∀ (s : State) (sail core i v : Nat), let b := s.start; b.dev ≠ .off → b.dbgHarts = false → exec (.abstractCommand sail core (.progbuf i v)) s = .next (s.withBlk (b.modDbg fun d => { d with cmdErr := 3 })))
    ∧ (∀ (s : State) (sail core i v : Nat), let b := s.start; b.dev ≠ .off → b.dbgHarts = true → 8 ≤ i → exec (.abstractCommand sail core (.progbuf i v)) s = .next (s.withBlk (b.modDbg fun d => { d with cmdErr := 2 })))
    ∧ (∀ (s : State) (sail core i v : Nat), let b := s.start; b.dev ≠ .off → b.dbgHarts = true → i < 8 → exec (.abstractCommand sail core (.progbuf i v)) s = .next (s.withBlk (b.modDbg fun d => { d with progbuf := (d.progbuf ++ List.replicate (8 - d.progbuf.length) 0).set i (v % 2 ^ 32) })))
    ∧ (∀ (s : State) (sail core i d1 d2 : Nat), let b := s.start; b.dev ≠ .off → b.dbgHarts = false → exec (.abstractCommand sail core (.trigger i d1 d2)) s = .next (s.withBlk (b.modDbg fun d => { d with cmdErr := 3 })))
    ∧ (∀ (s : State) (sail core i d1 d2 : Nat), let b := s.start; b.dev ≠ .off → b.dbgHarts = true → 8 ≤ i → exec (.abstractCommand sail core (.trigger i d1 d2)) s = .next (s.withBlk (b.modDbg fun d => { d with cmdErr := 2 })))
    ∧ (∀ (s : State) (sail core i d1 d2 : Nat), let b := s.start; b.dev ≠ .off → b.dbgHarts = true → i < 8 → exec (.abstractCommand sail core (.trigger i d1 d2)) s = .next (s.withBlk (b.modTrig (sail * 32 + core) i fun _ => { d1 := d1 % 2 ^ 64, d2 := d2 % 2 ^ 64 })))

/-- A follower that loses its master logs 0x2912, and in GPTP mode a running turn enters holdover. The grandmaster sends on its Ethernet-mode ports that are UP while outputs are on. Routing activates for types 0x00 and 0xE0, with 0x10; another type gets 0x06, a connection beyond the number 0x01. On an active connection: a wrong length gets 0x13, an unsupported sub-function 0x12; the default and the extended session are entered, the programming session where the SERVICE request is accepted, else 0x22; a hard reset in SERVICE resets, else 0x22; tester present answers; all DTCs or one are cleared, another group gets 0x31; the number and list of DTCs are read by status mask, and all that are logged; DTC setting goes off and on; the supported identifiers are read, none of them 0x31; routine 0xF000 reads an object, 0x22 where the path may not, 0x31 where it fails; a challenge and a response give a session, 0x36 in a lockout, 0x35 where it fails, and a session is ended; a download begins, 0x22 where it may not; its data come in blocks of rising count, 0x24 before a download, 0x73 out of order, 0x71 refused; its exit ends it, 0x72 where the bundle fails; an unsupported service gets 0x11. A response leaves only while outputs are on. Everything else does nothing. -/
def Obligations.Diagnostics : Prop :=
  (∀ (s : State), let b := s.start; let c : Block := (b.modSvc (fun t => { t with syncLost := true })).note { code := 0x2912 }; b.dev ≠ .off → (b.actN 0x9100 1 = 2 ∧ b.svc.syncLost = false) → exec (.timeSyncLoss) s = .next (s.withBlk (c.when (b.get TRN_CFG_SYNCMODE = 1 && b.running) Block.enterHoldover)))
    ∧ (∀ (s : State), let b := s.start; ¬ (b.actN 0x9100 1 = 2 ∧ b.svc.syncLost = false) → exec (.timeSyncLoss) s = .next (s.withBlk (b)))
    ∧ (∀ (s : State), let b := s.start; b.dev ≠ .off → (b.actN 0x9100 1 = 1 ∧ b.outputsOn = true) → exec (.syncAndFollowUp) s = .next (s.withBlk ((b.forL ((List.range 6).filter fun k => bit (b.actN 0x9100 4) k && !b.native k && b.portSt k = 4) fun k c => c.emit (.gptp k c.svc.syncSeq c.timeNs)).modSvc fun t => { t with syncSeq := (t.syncSeq + 1) % 65536 })))
    ∧ (∀ (s : State), let b := s.start; ¬ (b.actN 0x9100 1 = 1 ∧ b.outputsOn = true) → exec (.syncAndFollowUp) s = .next (s.withBlk (b)))
    ∧ (∀ (s : State) (conn src kind : Nat), let b := s.start; ¬ (b.actN 0x9200 1 = 1 ∧ b.dev ≠ .boot ∧ b.pwr.tripped = false) → exec (.routingActivation conn src kind) s = .next (s.withBlk (b)))
    ∧ (∀ (s : State) (conn src kind : Nat), let b := s.start; b.dev ≠ .off → (b.actN 0x9200 1 = 1 ∧ b.dev ≠ .boot ∧ b.pwr.tripped = false) → b.doipOn conn = false → exec (.routingActivation conn src kind) s = .next (s.withBlk (b.udsSend [0x01])))
    ∧ (∀ (s : State) (conn src kind : Nat), let b := s.start; b.dev ≠ .off → b.doipOn conn = true → (kind = 0 ∨ kind = 0xE0) → exec (.routingActivation conn src kind) s = .next (s.withBlk ((b.modConn conn fun _ => { tester := src, active := true }).udsSend [0x10])))
    ∧ (∀ (s : State) (conn src kind : Nat), let b := s.start; b.dev ≠ .off → b.doipOn conn = true → kind ≠ 0 → kind ≠ 0xE0 → exec (.routingActivation conn src kind) s = .next (s.withBlk (b.udsSend [0x06])))
    ∧ (∀ (s : State) (conn : Nat) (req : Bytes), let b := s.start; ¬ (b.doipOn conn = true ∧ (b.conn conn).active = true) → exec (.diagnosticSessionControl conn req) s = .next (s.withBlk (b)))
    ∧ (∀ (s : State) (conn : Nat) (req : Bytes), let b := s.start; b.dev ≠ .off → (b.doipOn conn = true ∧ (b.conn conn).active = true) → req.length ≠ 1 → exec (.diagnosticSessionControl conn req) s = .next (s.withBlk (b.udsNo 0x10 0x13)))
    ∧ (∀ (s : State) (conn : Nat) (req : Bytes), let b := s.start; b.dev ≠ .off → (b.doipOn conn = true ∧ (b.conn conn).active = true) → req.length = 1 → (subFn req = 1 ∨ subFn req = 3) → exec (.diagnosticSessionControl conn req) s = .next (s.withBlk ((b.modConn conn fun t => { t with session := subFn req }).udsSubOk 0x10 req udsTimes)))
    ∧ (∀ (s : State) (conn : Nat) (req : Bytes), let b := s.start; let r : Nat × Block := b.request false (Block.serviceReq 0 (b.conn conn).tester); b.dev ≠ .off → (b.doipOn conn = true ∧ (b.conn conn).active = true) → req.length = 1 → subFn req = 2 → (r.1 ≠ 0 ∨ r.2.govHalted = true) → exec (.diagnosticSessionControl conn req) s = .next (s.withBlk (r.2.udsNo 0x10 0x22)))
    ∧ (∀ (s : State) (conn : Nat) (req : Bytes), let b := s.start; let r : Nat × Block := b.request false (Block.serviceReq 0 (b.conn conn).tester); b.dev ≠ .off → (b.doipOn conn = true ∧ (b.conn conn).active = true) → req.length = 1 → subFn req = 2 → ¬ (r.1 ≠ 0 ∨ r.2.govHalted = true) → exec (.diagnosticSessionControl conn req) s = .next (s.withBlk ((r.2.modConn conn fun t => { t with session := 2 }).udsSubOk 0x10 req udsTimes)))
    ∧ (∀ (s : State) (conn : Nat) (req : Bytes), let b := s.start; b.dev ≠ .off → (b.doipOn conn = true ∧ (b.conn conn).active = true) → req.length = 1 → subFn req = 0 ∨ 3 < subFn req → exec (.diagnosticSessionControl conn req) s = .next (s.withBlk (b.udsNo 0x10 0x12)))
    ∧ (∀ (s : State) (conn : Nat) (req : Bytes), let b := s.start; ¬ (b.doipOn conn = true ∧ (b.conn conn).active = true) → exec (.ecuReset conn req) s = .next (s.withBlk (b)))
    ∧ (∀ (s : State) (conn : Nat) (req : Bytes), let b := s.start; b.dev ≠ .off → (b.doipOn conn = true ∧ (b.conn conn).active = true) → req.length ≠ 1 → exec (.ecuReset conn req) s = .next (s.withBlk (b.udsNo 0x11 0x13)))
    ∧ (∀ (s : State) (conn : Nat) (req : Bytes), let b := s.start; b.dev ≠ .off → (b.doipOn conn = true ∧ (b.conn conn).active = true) → req.length = 1 → subFn req ≠ 1 → exec (.ecuReset conn req) s = .next (s.withBlk (b.udsNo 0x11 0x12)))
    ∧ (∀ (s : State) (conn : Nat) (req : Bytes), let b := s.start; b.dev ≠ .off → (b.doipOn conn = true ∧ (b.conn conn).active = true) → req.length = 1 → subFn req = 1 → ¬ (b.dev = .service ∧ b.govHalted = false) → exec (.ecuReset conn req) s = .next (s.withBlk (b.udsNo 0x11 0x22)))
    ∧ (∀ (s : State) (conn : Nat) (req : Bytes), let b := s.start; b.dev ≠ .off → (b.doipOn conn = true ∧ (b.conn conn).active = true) → req.length = 1 → subFn req = 1 → (b.dev = .service ∧ b.govHalted = false) → exec (.ecuReset conn req) s = .next (s.withBlk ((b.udsSubOk 0x11 req []).resetReq.2)))
    ∧ (∀ (s : State) (conn : Nat) (req : Bytes), let b := s.start; ¬ (b.doipOn conn = true ∧ (b.conn conn).active = true) → exec (.testerPresent conn req) s = .next (s.withBlk (b)))
    ∧ (∀ (s : State) (conn : Nat) (req : Bytes), let b := s.start; b.dev ≠ .off → (b.doipOn conn = true ∧ (b.conn conn).active = true) → req.length ≠ 1 → exec (.testerPresent conn req) s = .next (s.withBlk (b.udsNo 0x3E 0x13)))
    ∧ (∀ (s : State) (conn : Nat) (req : Bytes), let b := s.start; b.dev ≠ .off → (b.doipOn conn = true ∧ (b.conn conn).active = true) → req.length = 1 → subFn req ≠ 0 → exec (.testerPresent conn req) s = .next (s.withBlk (b.udsNo 0x3E 0x12)))
    ∧ (∀ (s : State) (conn : Nat) (req : Bytes), let b := s.start; b.dev ≠ .off → (b.doipOn conn = true ∧ (b.conn conn).active = true) → req.length = 1 → subFn req = 0 → exec (.testerPresent conn req) s = .next (s.withBlk (b.udsSubOk 0x3E req [])))
    ∧ (∀ (s : State) (conn sid : Nat), let b := s.start; ¬ (b.doipOn conn = true ∧ (b.conn conn).active = true) → exec (.udsUnsupportedService conn sid) s = .next (s.withBlk (b)))
    ∧ (∀ (s : State) (conn sid : Nat), let b := s.start; b.dev ≠ .off → (b.doipOn conn = true ∧ (b.conn conn).active = true) → exec (.udsUnsupportedService conn sid) s = .next (s.withBlk (b.udsNo sid 0x11)))
    ∧ (∀ (s : State) (conn : Nat) (req : Bytes), let b := s.start; ¬ (b.doipOn conn = true ∧ (b.conn conn).active = true) → exec (.clearDiagnosticInformation conn req) s = .next (s.withBlk (b)))
    ∧ (∀ (s : State) (conn : Nat) (req : Bytes), let b := s.start; b.dev ≠ .off → (b.doipOn conn = true ∧ (b.conn conn).active = true) → req.length ≠ 3 → exec (.clearDiagnosticInformation conn req) s = .next (s.withBlk (b.udsNo 0x14 0x13)))
    ∧ (∀ (s : State) (conn : Nat) (req : Bytes), let b := s.start; b.dev ≠ .off → (b.doipOn conn = true ∧ (b.conn conn).active = true) → req.length = 3 → beNat req = 0xFFFFFF → exec (.clearDiagnosticInformation conn req) s = .next (s.withBlk ((b.modSvc fun t => { t with dtcFrom := [(allDtcs, b.logCount)], dtcHidden := [] }).udsOk 0x14 [])))
    ∧ (∀ (s : State) (conn : Nat) (req : Bytes), let b := s.start; b.dev ≠ .off → (b.doipOn conn = true ∧ (b.conn conn).active = true) → req.length = 3 → beNat req / 65536 = 0xD0 → exec (.clearDiagnosticInformation conn req) s = .next (s.withBlk ((b.modSvc fun t => { t with dtcFrom := SMap.insert (beNat req % 65536) b.logCount t.dtcFrom }).udsOk 0x14 [])))
    ∧ (∀ (s : State) (conn : Nat) (req : Bytes), let b := s.start; b.dev ≠ .off → (b.doipOn conn = true ∧ (b.conn conn).active = true) → req.length = 3 → beNat req ≠ 0xFFFFFF → beNat req / 65536 ≠ 0xD0 → exec (.clearDiagnosticInformation conn req) s = .next (s.withBlk (b.udsNo 0x14 0x31)))
    ∧ (∀ (s : State) (conn : Nat) (req : Bytes), let b := s.start; ¬ (b.doipOn conn = true ∧ (b.conn conn).active = true) → exec (.readDtcInformation conn req) s = .next (s.withBlk (b)))
    ∧ (∀ (s : State) (conn : Nat) (req : Bytes), let b := s.start; let l : List Nat := if bit (leAt 1 1 req) 3 = true then b.dtcs else []; b.dev ≠ .off → (b.doipOn conn = true ∧ (b.conn conn).active = true) → req.length = 2 → subFn req = 1 → exec (.readDtcInformation conn req) s = .next (s.withBlk (b.udsSubOk 0x19 req ([BitVec.ofNat 8 dtcStatus, 0x01] ++ beBytes 2 l.length))))
    ∧ (∀ (s : State) (conn : Nat) (req : Bytes), let b := s.start; let l : List Nat := if bit (leAt 1 1 req) 3 = true then b.dtcs else []; b.dev ≠ .off → (b.doipOn conn = true ∧ (b.conn conn).active = true) → req.length = 2 → subFn req = 2 → exec (.readDtcInformation conn req) s = .next (s.withBlk (b.udsSubOk 0x19 req ([BitVec.ofNat 8 dtcStatus] ++ l.flatMap fun c => beBytes 3 (0xD00000 + c) ++ [BitVec.ofNat 8 dtcStatus]))))
    ∧ (∀ (s : State) (conn : Nat) (req : Bytes), let b := s.start; b.dev ≠ .off → (b.doipOn conn = true ∧ (b.conn conn).active = true) → req.length = 1 → subFn req = 10 → exec (.readDtcInformation conn req) s = .next (s.withBlk (b.udsSubOk 0x19 req ([BitVec.ofNat 8 dtcStatus] ++ b.dtcs.flatMap fun c => beBytes 3 (0xD00000 + c) ++ [BitVec.ofNat 8 dtcStatus]))))
    ∧ (∀ (s : State) (conn : Nat) (req : Bytes), let b := s.start; b.dev ≠ .off → (b.doipOn conn = true ∧ (b.conn conn).active = true) → ((subFn req = 1 ∨ subFn req = 2) ∧ req.length ≠ 2 ∨ subFn req = 10 ∧ req.length ≠ 1) → exec (.readDtcInformation conn req) s = .next (s.withBlk (b.udsNo 0x19 0x13)))
    ∧ (∀ (s : State) (conn : Nat) (req : Bytes), let b := s.start; b.dev ≠ .off → (b.doipOn conn = true ∧ (b.conn conn).active = true) → subFn req ≠ 1 → subFn req ≠ 2 → subFn req ≠ 10 → exec (.readDtcInformation conn req) s = .next (s.withBlk (b.udsNo 0x19 0x12)))
    ∧ (∀ (s : State) (conn : Nat) (req : Bytes), let b := s.start; ¬ (b.doipOn conn = true ∧ (b.conn conn).active = true) → exec (.controlDtcSetting conn req) s = .next (s.withBlk (b)))
    ∧ (∀ (s : State) (conn : Nat) (req : Bytes), let b := s.start; b.dev ≠ .off → (b.doipOn conn = true ∧ (b.conn conn).active = true) → req = [] → exec (.controlDtcSetting conn req) s = .next (s.withBlk (b.udsNo 0x85 0x13)))
    ∧ (∀ (s : State) (conn : Nat) (req : Bytes), let b := s.start; b.dev ≠ .off → (b.doipOn conn = true ∧ (b.conn conn).active = true) → req ≠ [] → subFn req = 1 → exec (.controlDtcSetting conn req) s = .next (s.withBlk ((b.modSvc fun t => { t with dtcOff := none, dtcHidden := match t.dtcOff with | some k => t.dtcHidden ++ [(k, b.logCount)] | none => t.dtcHidden }).udsSubOk 0x85 req [])))
    ∧ (∀ (s : State) (conn : Nat) (req : Bytes), let b := s.start; b.dev ≠ .off → (b.doipOn conn = true ∧ (b.conn conn).active = true) → req ≠ [] → subFn req = 2 → exec (.controlDtcSetting conn req) s = .next (s.withBlk ((b.modSvc fun t => { t with dtcOff := match t.dtcOff with | some k => some k | none => some b.logCount }).udsSubOk 0x85 req [])))
    ∧ (∀ (s : State) (conn : Nat) (req : Bytes), let b := s.start; b.dev ≠ .off → (b.doipOn conn = true ∧ (b.conn conn).active = true) → req ≠ [] → subFn req ≠ 1 → subFn req ≠ 2 → exec (.controlDtcSetting conn req) s = .next (s.withBlk (b.udsNo 0x85 0x12)))
    ∧ (∀ (s : State) (conn : Nat) (req : Bytes), let b := s.start; ¬ (b.doipOn conn = true ∧ (b.conn conn).active = true) → exec (.readDataByIdentifier conn req) s = .next (s.withBlk (b)))
    ∧ (∀ (s : State) (conn : Nat) (req : Bytes), let b := s.start; b.dev ≠ .off → (b.doipOn conn = true ∧ (b.conn conn).active = true) → ¬ (req ≠ [] ∧ req.length % 2 = 0) → exec (.readDataByIdentifier conn req) s = .next (s.withBlk (b.udsNo 0x22 0x13)))
    ∧ (∀ (s : State) (conn : Nat) (req : Bytes), let b := s.start; let d : Bytes := b.dids (req.length / 2) req; b.dev ≠ .off → (b.doipOn conn = true ∧ (b.conn conn).active = true) → (req ≠ [] ∧ req.length % 2 = 0) → d = [] → exec (.readDataByIdentifier conn req) s = .next (s.withBlk (b.udsNo 0x22 0x31)))
    ∧ (∀ (s : State) (conn : Nat) (req : Bytes), let b := s.start; let d : Bytes := b.dids (req.length / 2) req; b.dev ≠ .off → (b.doipOn conn = true ∧ (b.conn conn).active = true) → (req ≠ [] ∧ req.length % 2 = 0) → d ≠ [] → exec (.readDataByIdentifier conn req) s = .next (s.withBlk (b.udsOk 0x22 d)))
    ∧ (∀ (s : State) (conn : Nat) (req : Bytes), let b := s.start; ¬ (b.doipOn conn = true ∧ (b.conn conn).active = true) → exec (.routineControl conn req) s = .next (s.withBlk (b)))
    ∧ (∀ (s : State) (conn : Nat) (req : Bytes), let b := s.start; b.dev ≠ .off → (b.doipOn conn = true ∧ (b.conn conn).active = true) → req.length < 3 → exec (.routineControl conn req) s = .next (s.withBlk (b.udsNo 0x31 0x13)))
    ∧ (∀ (s : State) (conn : Nat) (req : Bytes), let b := s.start; b.dev ≠ .off → (b.doipOn conn = true ∧ (b.conn conn).active = true) → 3 ≤ req.length → subFn req ≠ 1 → exec (.routineControl conn req) s = .next (s.withBlk (b.udsNo 0x31 0x12)))
    ∧ (∀ (s : State) (conn : Nat) (req : Bytes), let b := s.start; b.dev ≠ .off → (b.doipOn conn = true ∧ (b.conn conn).active = true) → 3 ≤ req.length → subFn req = 1 → beNat (slice 1 2 req) ≠ 0xF000 → exec (.routineControl conn req) s = .next (s.withBlk (b.udsNo 0x31 0x31)))
    ∧ (∀ (s : State) (conn : Nat) (req : Bytes), let b := s.start; b.dev ≠ .off → (b.doipOn conn = true ∧ (b.conn conn).active = true) → 3 ≤ req.length → subFn req = 1 → beNat (slice 1 2 req) = 0xF000 → req.length ≠ 6 → exec (.routineControl conn req) s = .next (s.withBlk (b.udsNo 0x31 0x13)))
    ∧ (∀ (s : State) (conn : Nat) (req : Bytes), let b := s.start; let v : DictPath := b.udsPath conn; let idx : Nat := leAt 3 2 req; let sub : Nat := leAt 5 1 req; let q : (Nat × Bytes) × Block := b.objRead v idx sub false; b.dev ≠ .off → (b.doipOn conn = true ∧ (b.conn conn).active = true) → req.length = 6 → subFn req = 1 → beNat (slice 1 2 req) = 0xF000 → b.granted v idx sub false ≠ .allowed → exec (.routineControl conn req) s = .next (s.withBlk (b.udsNo 0x31 0x22)))
    ∧ (∀ (s : State) (conn : Nat) (req : Bytes), let b := s.start; let v : DictPath := b.udsPath conn; let idx : Nat := leAt 3 2 req; let sub : Nat := leAt 5 1 req; let q : (Nat × Bytes) × Block := b.objRead v idx sub false; b.dev ≠ .off → (b.doipOn conn = true ∧ (b.conn conn).active = true) → req.length = 6 → subFn req = 1 → beNat (slice 1 2 req) = 0xF000 → b.granted v idx sub false = .allowed → q.1.1 = 0 → exec (.routineControl conn req) s = .next (s.withBlk (q.2.udsSubOk 0x31 req ([0xF0, 0x00] ++ q.1.2))))
    ∧ (∀ (s : State) (conn : Nat) (req : Bytes), let b := s.start; let v : DictPath := b.udsPath conn; let idx : Nat := leAt 3 2 req; let sub : Nat := leAt 5 1 req; let q : (Nat × Bytes) × Block := b.objRead v idx sub false; b.dev ≠ .off → (b.doipOn conn = true ∧ (b.conn conn).active = true) → req.length = 6 → subFn req = 1 → beNat (slice 1 2 req) = 0xF000 → b.granted v idx sub false = .allowed → q.1.1 ≠ 0 → exec (.routineControl conn req) s = .next (s.withBlk (q.2.udsNo 0x31 0x31)))
    ∧ (∀ (s : State) (conn : Nat) (req : Bytes), let b := s.start; ¬ (b.doipOn conn = true ∧ (b.conn conn).active = true) → exec (.udsAuthentication conn req) s = .next (s.withBlk (b)))
    ∧ (∀ (s : State) (conn : Nat) (req : Bytes), let b := s.start; b.dev ≠ .off → (b.doipOn conn = true ∧ (b.conn conn).active = true) → ¬ (b.govHalted = false ∧ req ≠ []) → exec (.udsAuthentication conn req) s = .next (s.withBlk (b.udsNo 0x29 0x13)))
    ∧ (∀ (s : State) (conn : Nat) (req : Bytes), let b := s.start; b.dev ≠ .off → (b.doipOn conn = true ∧ (b.conn conn).active = true) → (b.govHalted = false ∧ req ≠ []) → (subFn req = 5 ∨ subFn req = 6) → b.lockedOut (failKey 0) = true → exec (.udsAuthentication conn req) s = .next (s.withBlk (b.udsNo 0x29 0x36)))
    ∧ (∀ (s : State) (conn : Nat) (req : Bytes), let b := s.start; let q : Bytes × Block := b.challenge (b.udsPath conn); b.dev ≠ .off → (b.doipOn conn = true ∧ (b.conn conn).active = true) → (b.govHalted = false ∧ req ≠ []) → subFn req = 5 → b.lockedOut (failKey 0) = false → exec (.udsAuthentication conn req) s = .next (s.withBlk (q.2.udsSubOk 0x29 req q.1)))
    ∧ (∀ (s : State) (conn : Nat) (req : Bytes), let b := s.start; let q : Nat × Block := b.sessionResp (b.udsPath conn) (req.drop 1); b.dev ≠ .off → (b.doipOn conn = true ∧ (b.conn conn).active = true) → (b.govHalted = false ∧ req ≠ []) → subFn req = 6 → b.lockedOut (failKey 0) = false → q.1 ≠ 0 → exec (.udsAuthentication conn req) s = .next (s.withBlk (q.2.udsNo 0x29 0x35)))
    ∧ (∀ (s : State) (conn : Nat) (req : Bytes), let b := s.start; let q : Nat × Block := b.sessionResp (b.udsPath conn) (req.drop 1); b.dev ≠ .off → (b.doipOn conn = true ∧ (b.conn conn).active = true) → (b.govHalted = false ∧ req ≠ []) → subFn req = 6 → b.lockedOut (failKey 0) = false → q.1 = 0 → exec (.udsAuthentication conn req) s = .next (s.withBlk (q.2.udsSubOk 0x29 req [])))
    ∧ (∀ (s : State) (conn : Nat) (req : Bytes), let b := s.start; b.dev ≠ .off → (b.doipOn conn = true ∧ (b.conn conn).active = true) → (b.govHalted = false ∧ req ≠ []) → subFn req = 0 → exec (.udsAuthentication conn req) s = .next (s.withBlk ((b.endSession 0 (b.conn conn).tester).udsSubOk 0x29 req [])))
    ∧ (∀ (s : State) (conn : Nat) (req : Bytes), let b := s.start; b.dev ≠ .off → (b.doipOn conn = true ∧ (b.conn conn).active = true) → (b.govHalted = false ∧ req ≠ []) → subFn req ≠ 0 → subFn req ≠ 5 → subFn req ≠ 6 → exec (.udsAuthentication conn req) s = .next (s.withBlk (b.udsNo 0x29 0x12)))
    ∧ (∀ (s : State) (conn : Nat) (req : Bytes), let b := s.start; ¬ (b.doipOn conn = true ∧ (b.conn conn).active = true) → exec (.requestDownload conn req) s = .next (s.withBlk (b)))
    ∧ (∀ (s : State) (conn : Nat) (req : Bytes), let b := s.start; b.dev ≠ .off → (b.doipOn conn = true ∧ (b.conn conn).active = true) → b.govHalted = true → exec (.requestDownload conn req) s = .next (s.withBlk (b.udsNo 0x34 0x22)))
    ∧ (∀ (s : State) (conn : Nat) (req : Bytes), let b := s.start; let q : Nat × Block := b.uploadStart (0, (b.conn conn).tester); b.dev ≠ .off → (b.doipOn conn = true ∧ (b.conn conn).active = true) → b.govHalted = false → q.1 ≠ 0 → exec (.requestDownload conn req) s = .next (s.withBlk (q.2.udsNo 0x34 0x22)))
    ∧ (∀ (s : State) (conn : Nat) (req : Bytes), let b := s.start; let q : Nat × Block := b.uploadStart (0, (b.conn conn).tester); b.dev ≠ .off → (b.doipOn conn = true ∧ (b.conn conn).active = true) → b.govHalted = false → q.1 = 0 → exec (.requestDownload conn req) s = .next (s.withBlk ((q.2.modConn conn fun t => { t with block := some 1 }).udsOk 0x34 ([0x40] ++ beBytes 4 Config.udsBlockLength))))
    ∧ (∀ (s : State) (conn : Nat) (req : Bytes), let b := s.start; ¬ (b.doipOn conn = true ∧ (b.conn conn).active = true) → exec (.transferData conn req) s = .next (s.withBlk (b)))
    ∧ (∀ (s : State) (conn : Nat) (req : Bytes), let b := s.start; b.dev ≠ .off → (b.doipOn conn = true ∧ (b.conn conn).active = true) → (b.conn conn).block = none → exec (.transferData conn req) s = .next (s.withBlk (b.udsNo 0x36 0x24)))
    ∧ (∀ (s : State) (conn : Nat) (req : Bytes) (k : Nat), let b := s.start; b.dev ≠ .off → (b.doipOn conn = true ∧ (b.conn conn).active = true) → (b.conn conn).block = some k → leAt 0 1 req ≠ k → exec (.transferData conn req) s = .next (s.withBlk (b.udsNo 0x36 0x73)))
    ∧ (∀ (s : State) (conn : Nat) (req : Bytes) (k : Nat), let b := s.start; let q : Nat × Block := b.uploadData (0, (b.conn conn).tester) b.uploaded (req.drop 1); b.dev ≠ .off → (b.doipOn conn = true ∧ (b.conn conn).active = true) → (b.conn conn).block = some k → leAt 0 1 req = k → q.1 ≠ 0 → exec (.transferData conn req) s = .next (s.withBlk (q.2.udsNo 0x36 0x71)))
    ∧ (∀ (s : State) (conn : Nat) (req : Bytes) (k : Nat), let b := s.start; let q : Nat × Block := b.uploadData (0, (b.conn conn).tester) b.uploaded (req.drop 1); b.dev ≠ .off → (b.doipOn conn = true ∧ (b.conn conn).active = true) → (b.conn conn).block = some k → leAt 0 1 req = k → q.1 = 0 → exec (.transferData conn req) s = .next (s.withBlk ((q.2.modConn conn fun t => { t with block := some ((k + 1) % 256) }).udsOk 0x36 [BitVec.ofNat 8 k])))
    ∧ (∀ (s : State) (conn : Nat) (req : Bytes), let b := s.start; ¬ (b.doipOn conn = true ∧ (b.conn conn).active = true) → exec (.requestTransferExit conn req) s = .next (s.withBlk (b)))
    ∧ (∀ (s : State) (conn : Nat) (req : Bytes), let b := s.start; b.dev ≠ .off → (b.doipOn conn = true ∧ (b.conn conn).active = true) → ¬ ((b.conn conn).block ≠ none ∧ b.govHalted = false) → exec (.requestTransferExit conn req) s = .next (s.withBlk (b.udsNo 0x37 0x24)))
    ∧ (∀ (s : State) (conn : Nat) (req : Bytes), let b := s.start; let q : Nat × Block := (b.modConn conn fun t => { t with block := none }).uploadEnd; b.dev ≠ .off → (b.doipOn conn = true ∧ (b.conn conn).active = true) → ((b.conn conn).block ≠ none ∧ b.govHalted = false) → q.1 = 0 → exec (.requestTransferExit conn req) s = .next (s.withBlk (q.2.udsOk 0x37 [])))
    ∧ (∀ (s : State) (conn : Nat) (req : Bytes), let b := s.start; let q : Nat × Block := (b.modConn conn fun t => { t with block := none }).uploadEnd; b.dev ≠ .off → (b.doipOn conn = true ∧ (b.conn conn).active = true) → ((b.conn conn).block ≠ none ∧ b.govHalted = false) → q.1 ≠ 0 → exec (.requestTransferExit conn req) s = .next (s.withBlk (q.2.udsNo 0x37 0x72)))

/-- An I/O access of reserved space, and of scratch or sail control space of a sail that does not serve its master, gets an access error with 0x2503; one of DRAM, a write of the governor window, one that the debug master has no right to, and a scratch or window access that is not naturally aligned of 1, 2, 4 or 8 bytes get an access error. PCIe space goes out. Scratch gives its data with its poison and takes bytes. Control space: the mailboxes answer their accesses, an interrupt file 0, a register of the translation unit or of the block accesses of its width alone, as it reads or takes a write; all else is an access error. The window of a running governor gives its data. Each answer leaves as its message and as its completion. A register write carries out the clears of hardware before it and the sets of hardware after it. A CSR access of a ready hart traps with its cause where its mode may not; a turnseal access outside a running partition is illegal, and one that writes bit 0 seals; another reads the old value into its destination and writes what its operation gives. A completion that a hart awaited gives it the data or an access fault at its address, and lets a waiting fence go on. A message whose effect was taken before has none. Everything else does nothing. -/
def Obligations.RegisterAccess : Prop :=
  (∀ (s : State) (mid : Nat) (part : Option Nat) (addr width : Nat), let b := s.start; let q : Block := (b.arrives (.ioRd mid part addr width)).2; b.dev ≠ .off → (b.arrives (.ioRd mid part addr width)).1 = false → exec (.ioRd mid part addr width) s = .next (s.withBlk (q)))
    ∧ (∀ (s : State) (mid : Nat) (part : Option Nat) (addr width : Nat), let b := s.start; let q : Block := (b.arrives (.ioRd mid part addr width)).2; b.dev ≠ .off → (b.arrives (.ioRd mid part addr width)).1 = true → (q.decodePa addr = .reserved ∨ q.decodePa addr = .scratch ∧ q.sailOpen mid scratchBase addr = false ∨ q.decodePa addr = .sailCtl ∧ q.sailOpen mid sailCtl addr = false) → exec (.ioRd mid part addr width) s = .next (s.withBlk (((q.note { code := 0x2503, mid := some mid, addr := some addr }).emit .accessError).emit (.ioComp mid 0 addr true 0))))
    ∧ (∀ (s : State) (mid : Nat) (part : Option Nat) (addr width : Nat), let b := s.start; let q : Block := (b.arrives (.ioRd mid part addr width)).2; b.dev ≠ .off → (b.arrives (.ioRd mid part addr width)).1 = true → (q.decodePa addr = .dram ∨ q.decodePa addr = .pcie ∧ q.debugMay mid false false = false ∨ q.decodePa addr = .scratch ∧ q.sailOpen mid scratchBase addr = true ∧ (okWidth addr width = false ∨ q.debugMay mid false false = false) ∨ q.decodePa addr = .sailCtl ∧ q.sailOpen mid sailCtl addr = true ∧ q.debugMay mid true false = false ∨ q.decodePa addr = .hubCtl ∧ q.debugMay mid true false = false ∨ q.decodePa addr = .govWin ∧ (q.govHalted = true ∨ okWidth addr width = false ∨ q.govWindow (addr - 0xFFF0000000) width = none)) → exec (.ioRd mid part addr width) s = .next (s.withBlk (((q).emit .accessError).emit (.ioComp mid 0 addr true 0))))
    ∧ (∀ (s : State) (mid : Nat) (part : Option Nat) (addr width : Nat), let b := s.start; let q : Block := (b.arrives (.ioRd mid part addr width)).2; b.dev ≠ .off → (b.arrives (.ioRd mid part addr width)).1 = true → q.decodePa addr = .pcie → q.debugMay mid false false = true → exec (.ioRd mid part addr width) s = .next (s.withBlk (Block.ioDone mid addr (q.outbound mid part none 0 addr width none))))
    ∧ (∀ (s : State) (mid : Nat) (part : Option Nat) (addr width : Nat), let b := s.start; let q : Block := (b.arrives (.ioRd mid part addr width)).2; b.dev ≠ .off → (b.arrives (.ioRd mid part addr width)).1 = true → q.decodePa addr = .scratch → q.sailOpen mid scratchBase addr = true → okWidth addr width = true → q.debugMay mid false false = true → exec (.ioRd mid part addr width) s = .next (s.withBlk (((q).emit (.data ((q.scrRead addr width).1) ((q.scrRead addr width).2.1 || (q.scrRead addr width).2.2))).emit (.ioComp mid 0 addr ((q.scrRead addr width).2.1 || (q.scrRead addr width).2.2) (leNat ((q.scrRead addr width).1))))))
    ∧ (∀ (s : State) (mid : Nat) (part : Option Nat) (addr width : Nat) (v : Bytes), let b := s.start; let q : Block := (b.arrives (.ioRd mid part addr width)).2; b.dev ≠ .off → (b.arrives (.ioRd mid part addr width)).1 = true → q.decodePa addr = .govWin → q.govHalted = false → okWidth addr width = true → q.govWindow (addr - 0xFFF0000000) width = some v → exec (.ioRd mid part addr width) s = .next (s.withBlk (((q).emit (.data (v) (false))).emit (.ioComp mid 0 addr (false) (leNat (v))))))
    ∧ (∀ (s : State) (mid : Nat) (part : Option Nat) (addr width : Nat) (v : Nat), let b := s.start; let q : Block := (b.arrives (.ioRd mid part addr width)).2; let r : Option Nat × Block := q.mbxRead mid part (addr - mbxBase) width; b.dev ≠ .off → (b.arrives (.ioRd mid part addr width)).1 = true → ((q.decodePa addr = .hubCtl ∨ q.decodePa addr = .sailCtl ∧ q.sailOpen mid sailCtl addr = true) ∧ q.debugMay mid true false = true) → (mbxBase ≤ addr ∧ addr < mbxBase + 0x200000) → r.1 = some v → exec (.ioRd mid part addr width) s = .next (s.withBlk (((r.2).emit (.value (v))).emit (.ioComp mid 0 addr false (v)))))
    ∧ (∀ (s : State) (mid : Nat) (part : Option Nat) (addr width : Nat), let b := s.start; let q : Block := (b.arrives (.ioRd mid part addr width)).2; let r : Option Nat × Block := q.mbxRead mid part (addr - mbxBase) width; b.dev ≠ .off → (b.arrives (.ioRd mid part addr width)).1 = true → ((q.decodePa addr = .hubCtl ∨ q.decodePa addr = .sailCtl ∧ q.sailOpen mid sailCtl addr = true) ∧ q.debugMay mid true false = true) → (mbxBase ≤ addr ∧ addr < mbxBase + 0x200000) → r.1 = none → exec (.ioRd mid part addr width) s = .next (s.withBlk (((r.2).emit .accessError).emit (.ioComp mid 0 addr true 0))))
    ∧ (∀ (s : State) (mid : Nat) (part : Option Nat) (addr width : Nat), let b := s.start; let q : Block := (b.arrives (.ioRd mid part addr width)).2; b.dev ≠ .off → (b.arrives (.ioRd mid part addr width)).1 = true → ((q.decodePa addr = .hubCtl ∨ q.decodePa addr = .sailCtl ∧ q.sailOpen mid sailCtl addr = true) ∧ q.debugMay mid true false = true) → ¬ (mbxBase ≤ addr ∧ addr < mbxBase + 0x200000) → fileOf addr ≠ none → (width = 4 ∧ addr % 4 = 0) → exec (.ioRd mid part addr width) s = .next (s.withBlk (((q).emit (.value (0))).emit (.ioComp mid 0 addr false (0)))))
    ∧ (∀ (s : State) (mid : Nat) (part : Option Nat) (addr width : Nat), let b := s.start; let q : Block := (b.arrives (.ioRd mid part addr width)).2; b.dev ≠ .off → (b.arrives (.ioRd mid part addr width)).1 = true → ((q.decodePa addr = .hubCtl ∨ q.decodePa addr = .sailCtl ∧ q.sailOpen mid sailCtl addr = true) ∧ q.debugMay mid true false = true) → ¬ (mbxBase ≤ addr ∧ addr < mbxBase + 0x200000) → fileOf addr ≠ none → ¬ (width = 4 ∧ addr % 4 = 0) → exec (.ioRd mid part addr width) s = .next (s.withBlk (((q).emit .accessError).emit (.ioComp mid 0 addr true 0))))
    ∧ (∀ (s : State) (mid : Nat) (part : Option Nat) (addr width : Nat), let b := s.start; let q : Block := (b.arrives (.ioRd mid part addr width)).2; b.dev ≠ .off → (b.arrives (.ioRd mid part addr width)).1 = true → ((q.decodePa addr = .hubCtl ∨ q.decodePa addr = .sailCtl ∧ q.sailOpen mid sailCtl addr = true) ∧ q.debugMay mid true false = true) → ¬ (mbxBase ≤ addr ∧ addr < mbxBase + 0x200000) → fileOf addr = none → (iotBase < addr ∧ addr < iotBase + 0x1000) → iotWidth (addr - iotBase) = width → exec (.ioRd mid part addr width) s = .next (s.withBlk (((q).emit (.value (q.iotG (addr - iotBase)))).emit (.ioComp mid 0 addr false (q.iotG (addr - iotBase))))))
    ∧ (∀ (s : State) (mid : Nat) (part : Option Nat) (addr width : Nat), let b := s.start; let q : Block := (b.arrives (.ioRd mid part addr width)).2; b.dev ≠ .off → (b.arrives (.ioRd mid part addr width)).1 = true → ((q.decodePa addr = .hubCtl ∨ q.decodePa addr = .sailCtl ∧ q.sailOpen mid sailCtl addr = true) ∧ q.debugMay mid true false = true) → ¬ (mbxBase ≤ addr ∧ addr < mbxBase + 0x200000) → fileOf addr = none → (iotBase < addr ∧ addr < iotBase + 0x1000) → ¬ iotWidth (addr - iotBase) = width → exec (.ioRd mid part addr width) s = .next (s.withBlk (((q).emit .accessError).emit (.ioComp mid 0 addr true 0))))
    ∧ (∀ (s : State) (mid : Nat) (part : Option Nat) (addr width : Nat), let b := s.start; let q : Block := (b.arrives (.ioRd mid part addr width)).2; b.dev ≠ .off → (b.arrives (.ioRd mid part addr width)).1 = true → ((q.decodePa addr = .hubCtl ∨ q.decodePa addr = .sailCtl ∧ q.sailOpen mid sailCtl addr = true) ∧ q.debugMay mid true false = true) → ¬ (mbxBase ≤ addr ∧ addr < mbxBase + 0x200000) → fileOf addr = none → ¬ (iotBase < addr ∧ addr < iotBase + 0x1000) → (match regAt addr Reg.all with | some (r, _) => decide (r.desc.width = 8 * width) | none => false) = false → exec (.ioRd mid part addr width) s = .next (s.withBlk (((q).emit .accessError).emit (.ioComp mid 0 addr true 0))))
    ∧ (∀ (s : State) (mid : Nat) (part : Option Nat) (addr width : Nat) (i j k : Nat) (r : Reg) (v : Nat), let b := s.start; let q : Block := (b.arrives (.ioRd mid part addr width)).2; b.dev ≠ .off → (b.arrives (.ioRd mid part addr width)).1 = true → ((q.decodePa addr = .hubCtl ∨ q.decodePa addr = .sailCtl ∧ q.sailOpen mid sailCtl addr = true) ∧ q.debugMay mid true false = true) → ¬ (mbxBase ≤ addr ∧ addr < mbxBase + 0x200000) → fileOf addr = none → ¬ (iotBase < addr ∧ addr < iotBase + 0x1000) → regAt addr Reg.all = some (r, i, j, k) → r.desc.width = 8 * width → q.regRead part r i j k = some v → exec (.ioRd mid part addr width) s = .next (s.withBlk (((q).emit (.value (v))).emit (.ioComp mid 0 addr false (v)))))
    ∧ (∀ (s : State) (mid : Nat) (part : Option Nat) (addr width : Nat) (i j k : Nat) (r : Reg), let b := s.start; let q : Block := (b.arrives (.ioRd mid part addr width)).2; b.dev ≠ .off → (b.arrives (.ioRd mid part addr width)).1 = true → ((q.decodePa addr = .hubCtl ∨ q.decodePa addr = .sailCtl ∧ q.sailOpen mid sailCtl addr = true) ∧ q.debugMay mid true false = true) → ¬ (mbxBase ≤ addr ∧ addr < mbxBase + 0x200000) → fileOf addr = none → ¬ (iotBase < addr ∧ addr < iotBase + 0x1000) → regAt addr Reg.all = some (r, i, j, k) → r.desc.width = 8 * width → q.regRead part r i j k = none → exec (.ioRd mid part addr width) s = .next (s.withBlk (((q).emit .accessError).emit (.ioComp mid 0 addr true 0))))
    ∧ (∀ (s : State) (mid : Nat) (part : Option Nat) (addr width value : Nat), let b := s.start; let q : Block := (b.arrives (.ioWr mid part addr width value)).2; b.dev ≠ .off → (b.arrives (.ioWr mid part addr width value)).1 = false → exec (.ioWr mid part addr width value) s = .next (s.withBlk (q)))
    ∧ (∀ (s : State) (mid : Nat) (part : Option Nat) (addr width value : Nat), let b := s.start; let q : Block := (b.arrives (.ioWr mid part addr width value)).2; b.dev ≠ .off → (b.arrives (.ioWr mid part addr width value)).1 = true → (q.decodePa addr = .reserved ∨ q.decodePa addr = .scratch ∧ q.sailOpen mid scratchBase addr = false ∨ q.decodePa addr = .sailCtl ∧ q.sailOpen mid sailCtl addr = false) → exec (.ioWr mid part addr width value) s = .next (s.withBlk (((q.note { code := 0x2503, mid := some mid, addr := some addr }).emit .accessError).emit (.ioComp mid 0 addr true 0))))
    ∧ (∀ (s : State) (mid : Nat) (part : Option Nat) (addr width value : Nat), let b := s.start; let q : Block := (b.arrives (.ioWr mid part addr width value)).2; b.dev ≠ .off → (b.arrives (.ioWr mid part addr width value)).1 = true → (q.decodePa addr = .dram ∨ q.decodePa addr = .pcie ∧ q.debugMay mid false true = false ∨ q.decodePa addr = .scratch ∧ q.sailOpen mid scratchBase addr = true ∧ (okWidth addr width = false ∨ q.debugMay mid false true = false) ∨ q.decodePa addr = .sailCtl ∧ q.sailOpen mid sailCtl addr = true ∧ q.debugMay mid true true = false ∨ q.decodePa addr = .hubCtl ∧ q.debugMay mid true true = false ∨ q.decodePa addr = .govWin) → exec (.ioWr mid part addr width value) s = .next (s.withBlk (((q).emit .accessError).emit (.ioComp mid 0 addr true 0))))
    ∧ (∀ (s : State) (mid : Nat) (part : Option Nat) (addr width value : Nat), let b := s.start; let q : Block := (b.arrives (.ioWr mid part addr width value)).2; b.dev ≠ .off → (b.arrives (.ioWr mid part addr width value)).1 = true → q.decodePa addr = .pcie → q.debugMay mid false true = true → exec (.ioWr mid part addr width value) s = .next (s.withBlk (Block.ioDone mid addr (q.outbound mid part none 0 addr width (some value)))))
    ∧ (∀ (s : State) (mid : Nat) (part : Option Nat) (addr width value : Nat), let b := s.start; let q : Block := (b.arrives (.ioWr mid part addr width value)).2; b.dev ≠ .off → (b.arrives (.ioWr mid part addr width value)).1 = true → q.decodePa addr = .scratch → q.sailOpen mid scratchBase addr = true → okWidth addr width = true → q.debugMay mid false true = true → exec (.ioWr mid part addr width value) s = .next (s.withBlk ((q.scrWrite addr (leBytes width value) false).emit (.ioComp mid 0 addr false 0))))
    ∧ (∀ (s : State) (mid : Nat) (part : Option Nat) (addr width value : Nat), let b := s.start; let q : Block := (b.arrives (.ioWr mid part addr width value)).2; let r : Bool × Block := q.mbxWrite mid part (addr - mbxBase) width value; b.dev ≠ .off → (b.arrives (.ioWr mid part addr width value)).1 = true → ((q.decodePa addr = .hubCtl ∨ q.decodePa addr = .sailCtl ∧ q.sailOpen mid sailCtl addr = true) ∧ q.debugMay mid true true = true) → (mbxBase ≤ addr ∧ addr < mbxBase + 0x200000) → r.1 = true → exec (.ioWr mid part addr width value) s = .next (s.withBlk ((r.2).emit (.ioComp mid 0 addr false 0))))
    ∧ (∀ (s : State) (mid : Nat) (part : Option Nat) (addr width value : Nat), let b := s.start; let q : Block := (b.arrives (.ioWr mid part addr width value)).2; let r : Bool × Block := q.mbxWrite mid part (addr - mbxBase) width value; b.dev ≠ .off → (b.arrives (.ioWr mid part addr width value)).1 = true → ((q.decodePa addr = .hubCtl ∨ q.decodePa addr = .sailCtl ∧ q.sailOpen mid sailCtl addr = true) ∧ q.debugMay mid true true = true) → (mbxBase ≤ addr ∧ addr < mbxBase + 0x200000) → r.1 = false → exec (.ioWr mid part addr width value) s = .next (s.withBlk (((r.2).emit .accessError).emit (.ioComp mid 0 addr true 0))))
    ∧ (∀ (s : State) (mid : Nat) (part : Option Nat) (addr width value : Nat) (page : Nat), let b := s.start; let q : Block := (b.arrives (.ioWr mid part addr width value)).2; b.dev ≠ .off → (b.arrives (.ioWr mid part addr width value)).1 = true → ((q.decodePa addr = .hubCtl ∨ q.decodePa addr = .sailCtl ∧ q.sailOpen mid sailCtl addr = true) ∧ q.debugMay mid true true = true) → ¬ (mbxBase ≤ addr ∧ addr < mbxBase + 0x200000) → fileOf addr = some page → (width = 4 ∧ addr % 4 = 0) → exec (.ioWr mid part addr width value) s = .next (s.withBlk ((if addr % 4096 = 0 then q.filePend page value else q).emit (.ioComp mid 0 addr false 0))))
    ∧ (∀ (s : State) (mid : Nat) (part : Option Nat) (addr width value : Nat) (page : Nat), let b := s.start; let q : Block := (b.arrives (.ioWr mid part addr width value)).2; b.dev ≠ .off → (b.arrives (.ioWr mid part addr width value)).1 = true → ((q.decodePa addr = .hubCtl ∨ q.decodePa addr = .sailCtl ∧ q.sailOpen mid sailCtl addr = true) ∧ q.debugMay mid true true = true) → ¬ (mbxBase ≤ addr ∧ addr < mbxBase + 0x200000) → fileOf addr = some page → ¬ (width = 4 ∧ addr % 4 = 0) → exec (.ioWr mid part addr width value) s = .next (s.withBlk (((q).emit .accessError).emit (.ioComp mid 0 addr true 0))))
    ∧ (∀ (s : State) (mid : Nat) (part : Option Nat) (addr width value : Nat), let b := s.start; let q : Block := (b.arrives (.ioWr mid part addr width value)).2; b.dev ≠ .off → (b.arrives (.ioWr mid part addr width value)).1 = true → ((q.decodePa addr = .hubCtl ∨ q.decodePa addr = .sailCtl ∧ q.sailOpen mid sailCtl addr = true) ∧ q.debugMay mid true true = true) → ¬ (mbxBase ≤ addr ∧ addr < mbxBase + 0x200000) → fileOf addr = none → (iotBase < addr ∧ addr < iotBase + 0x1000) → iotWidth (addr - iotBase) = width → exec (.ioWr mid part addr width value) s = .next (s.withBlk ((q.iotWrite (addr - iotBase) value).emit (.ioComp mid 0 addr false 0))))
    ∧ (∀ (s : State) (mid : Nat) (part : Option Nat) (addr width value : Nat), let b := s.start; let q : Block := (b.arrives (.ioWr mid part addr width value)).2; b.dev ≠ .off → (b.arrives (.ioWr mid part addr width value)).1 = true → ((q.decodePa addr = .hubCtl ∨ q.decodePa addr = .sailCtl ∧ q.sailOpen mid sailCtl addr = true) ∧ q.debugMay mid true true = true) → ¬ (mbxBase ≤ addr ∧ addr < mbxBase + 0x200000) → fileOf addr = none → (iotBase < addr ∧ addr < iotBase + 0x1000) → ¬ iotWidth (addr - iotBase) = width → exec (.ioWr mid part addr width value) s = .next (s.withBlk (((q).emit .accessError).emit (.ioComp mid 0 addr true 0))))
    ∧ (∀ (s : State) (mid : Nat) (part : Option Nat) (addr width value : Nat), let b := s.start; let q : Block := (b.arrives (.ioWr mid part addr width value)).2; b.dev ≠ .off → (b.arrives (.ioWr mid part addr width value)).1 = true → ((q.decodePa addr = .hubCtl ∨ q.decodePa addr = .sailCtl ∧ q.sailOpen mid sailCtl addr = true) ∧ q.debugMay mid true true = true) → ¬ (mbxBase ≤ addr ∧ addr < mbxBase + 0x200000) → fileOf addr = none → ¬ (iotBase < addr ∧ addr < iotBase + 0x1000) → (match regAt addr Reg.all with | some (r, _) => decide (r.desc.width = 8 * width) | none => false) = false → exec (.ioWr mid part addr width value) s = .next (s.withBlk (((q).emit .accessError).emit (.ioComp mid 0 addr true 0))))
    ∧ (∀ (s : State) (mid : Nat) (part : Option Nat) (addr width value : Nat) (i j k : Nat) (r : Reg), let b := s.start; let q : Block := (b.arrives (.ioWr mid part addr width value)).2; let d : Block := q.regWrite mid part r i j k (value % 2 ^ r.desc.width); let bad : Bool := (d.out.drop q.out.length).contains .accessError; b.dev ≠ .off → (b.arrives (.ioWr mid part addr width value)).1 = true → ((q.decodePa addr = .hubCtl ∨ q.decodePa addr = .sailCtl ∧ q.sailOpen mid sailCtl addr = true) ∧ q.debugMay mid true true = true) → ¬ (mbxBase ≤ addr ∧ addr < mbxBase + 0x200000) → fileOf addr = none → ¬ (iotBase < addr ∧ addr < iotBase + 0x1000) → regAt addr Reg.all = some (r, i, j, k) → r.desc.width = 8 * width → exec (.ioWr mid part addr width value) s = .next (s.withBlk (d.emit (.ioComp mid 0 addr bad 0))))
    ∧ (∀ (s : State) (mid : Nat) (part : Option Nat) (addr width value : Nat) (i j k : Nat) (r : Reg), let b := s.start; let q : Block := (b.arrives (.ioWr mid part addr width value)).2; let d : Block := q.regWrite mid part r i j k (value % 2 ^ r.desc.width); let bad : Bool := (d.out.drop q.out.length).contains .accessError; b.dev ≠ .off → (b.arrives (.ioWr mid part addr width value)).1 = true → ((q.decodePa addr = .hubCtl ∨ q.decodePa addr = .sailCtl ∧ q.sailOpen mid sailCtl addr = true) ∧ q.debugMay mid true true = true) → ¬ (mbxBase ≤ addr ∧ addr < mbxBase + 0x200000) → fileOf addr = none → ¬ (iotBase < addr ∧ addr < iotBase + 0x1000) → regAt addr Reg.all = some (r, i, j, k) → r.desc.width = 8 * width → bad = true → exec (.ioWr mid part addr width value) s = .next (s.withBlk (d.emit (.ioComp mid 0 addr bad 0))))
    ∧ (∀ (s : State) (mid : Nat) (part : Option Nat) (addr width value hwSet hwClr : Nat), let b := s.start; b.dev ≠ .off → regAt addr Reg.all = none → exec (.registerWrite (.mem mid part addr width) value hwSet hwClr) s = .next (s.withBlk (Block.ioAnswer (b.ioWrite mid part addr width value))))
    ∧ (∀ (s : State) (mid : Nat) (part : Option Nat) (addr width value hwSet hwClr : Nat) (i j k : Nat) (r : Reg), let b := s.start; let c : Block := b.when (hwClr ≠ 0) (Block.hwClear r i j k hwClr); let q : IoAns × Block := c.ioWrite mid part addr width value; let d : Block := q.2.when (hwSet ≠ 0) (Block.hwSet r i j k hwSet); b.dev ≠ .off → regAt addr Reg.all = some (r, i, j, k) → q.1 = .err → exec (.registerWrite (.mem mid part addr width) value hwSet hwClr) s = .next (s.withBlk (d.emit .accessError)))
    ∧ (∀ (s : State) (mid : Nat) (part : Option Nat) (addr width value hwSet hwClr : Nat) (i j k : Nat) (r : Reg), let b := s.start; let c : Block := b.when (hwClr ≠ 0) (Block.hwClear r i j k hwClr); let q : IoAns × Block := c.ioWrite mid part addr width value; let d : Block := q.2.when (hwSet ≠ 0) (Block.hwSet r i j k hwSet); b.dev ≠ .off → regAt addr Reg.all = some (r, i, j, k) → (q.1 = .done ∨ q.1 = .denied ∨ q.1 = .later) → exec (.registerWrite (.mem mid part addr width) value hwSet hwClr) s = .next (s.withBlk (d)))
    ∧ (∀ (s : State) (mid : Nat) (part : Option Nat) (addr width value hwSet hwClr : Nat) (i j k : Nat) (r : Reg), let b := s.start; let c : Block := b.when (hwClr ≠ 0) (Block.hwClear r i j k hwClr); let q : IoAns × Block := c.ioWrite mid part addr width value; let d : Block := q.2.when (hwSet ≠ 0) (Block.hwSet r i j k hwSet); b.dev ≠ .off → regAt addr Reg.all = some (r, i, j, k) → (q.1 = .done ∨ q.1 = .denied ∨ q.1 = .later) → exec (.registerWrite (.mem mid part addr width) value hwSet hwClr) s = .next (s.withBlk (d)))
    ∧ (∀ (s : State) (sail core num dst value hwSet hwClr : Nat) (op : CsrOp), let b := s.start; let h : Nat := sail * 32 + core; (16 ≤ core ∨ b.ready h = false) → exec (.registerWrite (.csr sail core num dst op) value hwSet hwClr) s = .next (s.withBlk (b)))
    ∧ (∀ (s : State) (sail core num dst value hwSet hwClr : Nat) (op : CsrOp) (lv : TrapLevel) (i : Nat), let b := s.start; let h : Nat := sail * 32 + core; b.dev ≠ .off → core < 16 → b.ready h = true → b.irqNext h = some (lv, i) → exec (.registerWrite (.csr sail core num dst op) value hwSet hwClr) s = .next (s.withBlk ((b.takeIrq h lv i).trigTrap h (b.hart h).priv true i)))
    ∧ (∀ (s : State) (sail core num dst value hwSet hwClr : Nat) (op : CsrOp), let b := s.start; let h : Nat := sail * 32 + core; b.dev ≠ .off → core < 16 → b.ready h = true → b.irqNext h = none → (b.trigCount h).1 = true → exec (.registerWrite (.csr sail core num dst op) value hwSet hwClr) s = .next (s.withBlk ((b.trigCount h).2)))
    ∧ (∀ (s : State) (sail core num dst value hwSet hwClr : Nat) (op : CsrOp) (x : Nat), let b := s.start; let h : Nat := sail * 32 + core; let c : Block := (b.trigCount h).2; let old : Nat := c.csrRead h num; let new : Nat := match op with | .set => Nat.lor old value | .clear => old - Nat.land old value | _ => value; b.dev ≠ .off → core < 16 → b.ready h = true → b.irqNext h = none → (b.trigCount h).1 = false → (csrTrap (c.hart h).priv num (decide (op ≠ .read))).or (c.csrGuard h num (decide (op ≠ .read))) = some x → exec (.registerWrite (.csr sail core num dst op) value hwSet hwClr) s = .next (s.withBlk (c.except h { cause := x, tval := 0 })))
    ∧ (∀ (s : State) (sail core num dst value hwSet hwClr : Nat) (op : CsrOp), let b := s.start; let h : Nat := sail * 32 + core; let c : Block := (b.trigCount h).2; let old : Nat := c.csrRead h num; let new : Nat := match op with | .set => Nat.lor old value | .clear => old - Nat.land old value | _ => value; b.dev ≠ .off → core < 16 → b.ready h = true → b.irqNext h = none → (b.trigCount h).1 = false → (csrTrap (c.hart h).priv num (decide (op ≠ .read))).or (c.csrGuard h num (decide (op ≠ .read))) = none → num = csrTurnseal → c.runningPin h = none → exec (.registerWrite (.csr sail core num dst op) value hwSet hwClr) s = .next (s.withBlk (c.illegal h)))
    ∧ (∀ (s : State) (sail core num dst value hwSet hwClr : Nat) (op : CsrOp) (p r : Nat), let b := s.start; let h : Nat := sail * 32 + core; let c : Block := (b.trigCount h).2; let old : Nat := c.csrRead h num; let new : Nat := match op with | .set => Nat.lor old value | .clear => old - Nat.land old value | _ => value; b.dev ≠ .off → core < 16 → b.ready h = true → b.irqNext h = none → (b.trigCount h).1 = false → (csrTrap (c.hart h).priv num (decide (op ≠ .read))).or (c.csrGuard h num (decide (op ≠ .read))) = none → num = csrTurnseal → c.runningPin h = some (p, r) → (op ≠ .read ∧ new % 2 = 1) → exec (.registerWrite (.csr sail core num dst op) value hwSet hwClr) s = .next (s.withBlk ((c.setX h dst old).sealHart h p r)))
    ∧ (∀ (s : State) (sail core num dst value hwSet hwClr : Nat) (op : CsrOp), let b := s.start; let h : Nat := sail * 32 + core; let c : Block := (b.trigCount h).2; let old : Nat := c.csrRead h num; let new : Nat := match op with | .set => Nat.lor old value | .clear => old - Nat.land old value | _ => value; b.dev ≠ .off → core < 16 → b.ready h = true → b.irqNext h = none → (b.trigCount h).1 = false → (csrTrap (c.hart h).priv num (decide (op ≠ .read))).or (c.csrGuard h num (decide (op ≠ .read))) = none → num = csrTurnseal → c.runningPin h ≠ none → ¬ (op ≠ .read ∧ new % 2 = 1) → exec (.registerWrite (.csr sail core num dst op) value hwSet hwClr) s = .next (s.withBlk (c.setX h dst old)))
    ∧ (∀ (s : State) (sail core num dst value hwSet hwClr : Nat) (op : CsrOp), let b := s.start; let h : Nat := sail * 32 + core; let c : Block := (b.trigCount h).2; let old : Nat := c.csrRead h num; let new : Nat := match op with | .set => Nat.lor old value | .clear => old - Nat.land old value | _ => value; b.dev ≠ .off → core < 16 → b.ready h = true → b.irqNext h = none → (b.trigCount h).1 = false → (csrTrap (c.hart h).priv num (decide (op ≠ .read))).or (c.csrGuard h num (decide (op ≠ .read))) = none → num ≠ csrTurnseal → op = .read → exec (.registerWrite (.csr sail core num dst op) value hwSet hwClr) s = .next (s.withBlk ((c.when (num = 0x15) Block.tickFree).setX h dst old)))
    ∧ (∀ (s : State) (sail core num dst value hwSet hwClr : Nat) (op : CsrOp), let b := s.start; let h : Nat := sail * 32 + core; let c : Block := (b.trigCount h).2; let old : Nat := c.csrRead h num; let new : Nat := match op with | .set => Nat.lor old value | .clear => old - Nat.land old value | _ => value; b.dev ≠ .off → core < 16 → b.ready h = true → b.irqNext h = none → (b.trigCount h).1 = false → (csrTrap (c.hart h).priv num (decide (op ≠ .read))).or (c.csrGuard h num (decide (op ≠ .read))) = none → num ≠ csrTurnseal → op = .write → exec (.registerWrite (.csr sail core num dst op) value hwSet hwClr) s = .next (s.withBlk (((c.csrPut h num new).when (num = 0x15) Block.tickFree).setX h dst old)))
    ∧ (∀ (s : State) (sail core num dst value hwSet hwClr : Nat) (op : CsrOp), let b := s.start; let h : Nat := sail * 32 + core; let c : Block := (b.trigCount h).2; let old : Nat := c.csrRead h num; let new : Nat := match op with | .set => Nat.lor old value | .clear => old - Nat.land old value | _ => value; b.dev ≠ .off → core < 16 → b.ready h = true → b.irqNext h = none → (b.trigCount h).1 = false → (csrTrap (c.hart h).priv num (decide (op ≠ .read))).or (c.csrGuard h num (decide (op ≠ .read))) = none → num ≠ csrTurnseal → op = .set → exec (.registerWrite (.csr sail core num dst op) value hwSet hwClr) s = .next (s.withBlk (((c.csrPut h num new).when (num = 0x15) Block.tickFree).setX h dst old)))
    ∧ (∀ (s : State) (sail core num dst value hwSet hwClr : Nat) (op : CsrOp), let b := s.start; let h : Nat := sail * 32 + core; let c : Block := (b.trigCount h).2; let old : Nat := c.csrRead h num; let new : Nat := match op with | .set => Nat.lor old value | .clear => old - Nat.land old value | _ => value; b.dev ≠ .off → core < 16 → b.ready h = true → b.irqNext h = none → (b.trigCount h).1 = false → (csrTrap (c.hart h).priv num (decide (op ≠ .read))).or (c.csrGuard h num (decide (op ≠ .read))) = none → num ≠ csrTurnseal → op = .clear → exec (.registerWrite (.csr sail core num dst op) value hwSet hwClr) s = .next (s.withBlk (((c.csrPut h num new).when (num = 0x15) Block.tickFree).setX h dst old)))
    ∧ (∀ (s : State) (mid txid : Nat) (err : Bool) (data : Nat), let b := s.start; let q : Block := (b.arrives (.ioComp mid txid err data)).2; b.dev ≠ .off → (b.arrives (.ioComp mid txid err data)).1 = false → exec (.ioComp mid txid err data) s = .next (s.withBlk (q)))
    ∧ (∀ (s : State) (mid txid : Nat) (err : Bool) (data : Nat), let b := s.start; let q : Block := (b.arrives (.ioComp mid txid err data)).2; b.dev ≠ .off → (b.arrives (.ioComp mid txid err data)).1 = true → (q.hart mid).io = none → exec (.ioComp mid txid err data) s = .next (s.withBlk (q)))
    ∧ (∀ (s : State) (mid txid : Nat) (err : Bool) (data : Nat) (w : IoWait), let b := s.start; let q : Block := (b.arrives (.ioComp mid txid err data)).2; let c : Block := (q.modHart mid fun t => { t with io := none }).ioRetired mid; b.dev ≠ .off → (b.arrives (.ioComp mid txid err data)).1 = true → (q.hart mid).io = some w → err = true → w.dst ≠ none → exec (.ioComp mid txid err data) s = .next (s.withBlk (c.takeTrap mid { cause := 5, tval := w.va })))
    ∧ (∀ (s : State) (mid txid : Nat) (err : Bool) (data : Nat) (w : IoWait), let b := s.start; let q : Block := (b.arrives (.ioComp mid txid err data)).2; let c : Block := (q.modHart mid fun t => { t with io := none }).ioRetired mid; b.dev ≠ .off → (b.arrives (.ioComp mid txid err data)).1 = true → (q.hart mid).io = some w → err = true → w.dst = none → exec (.ioComp mid txid err data) s = .next (s.withBlk (c.takeTrap mid { cause := 7, tval := w.va })))
    ∧ (∀ (s : State) (mid txid : Nat) (err : Bool) (data : Nat) (w : IoWait) (dst : Nat) (sg : Bool), let b := s.start; let q : Block := (b.arrives (.ioComp mid txid err data)).2; let c : Block := (q.modHart mid fun t => { t with io := none }).ioRetired mid; b.dev ≠ .off → (b.arrives (.ioComp mid txid err data)).1 = true → (q.hart mid).io = some w → err = false → w.dst = some (dst, sg) → exec (.ioComp mid txid err data) s = .next (s.withBlk (c.setDst mid dst w.width (data % 2 ^ (8 * w.width)) sg)))
    ∧ (∀ (s : State) (mid txid : Nat) (err : Bool) (data : Nat) (w : IoWait), let b := s.start; let q : Block := (b.arrives (.ioComp mid txid err data)).2; let c : Block := (q.modHart mid fun t => { t with io := none }).ioRetired mid; b.dev ≠ .off → (b.arrives (.ioComp mid txid err data)).1 = true → (q.hart mid).io = some w → err = false → w.dst = none → exec (.ioComp mid txid err data) s = .next (s.withBlk (c)))

/-- A manager command that succeeds shows its sender, DONE, no ERR and code 0, and has its effect. FLOW_INSERT leaves the cache without the flow, writes the flow's words to its context and its slot to the first free place of its two buckets. FLOW_DELETE clears the flow's slot in both buckets where it stands and its context; FLOW_MODIFY replaces words 2 to 4, in the cache where it holds the flow; FLOW_READ and a FLOW_LOOKUP that finds the flow, in the cache or by a walk, give its words, the lookup its index. INST_CONFIG activates a disabled instance or disables an active one, or leaves a disabled one. QCTX_WRITE lets the queue run and replaces its context: in the hopper, in the entry chosen there once that is written back, or with a hopper that holds none in memory; QCTX_READ gives the context. INST_SHARE keeps the share for the boundary; a reset drains or squashes; LOG_CONFIG takes its words and starts the log, LOG_SWAP asks for the other bitmap, LOG_STOP ends both; INST_CLRERR clears the error flags and lets stopped queues run. -/
def Obligations.SluiceSuccess : Prop :=
  (∀ (s : State) (mid : Nat) (part : Option Nat) (arg : Nat) (u v : Bytes) (k : Nat), let b := s.start; let a : Nat := arg % 2 ^ 20; let ws : List Nat := b.mdataWords; let h : Nat × Nat × Nat := flowHash (ctxKey ws); let r : Except Nat Bytes × Block := b.flowRead (b.flowBucket h.1); let q : Except Nat Bytes × Block := r.2.flowRead (r.2.flowBucket h.2.1); let d : Block := q.2; b.dev ≠ .off → b.isManager mid part true = true → b.flowFixed a ws = false → (ctxValid ws = true ∧ 1 ≤ fKtype ws ∧ fKtype ws ≤ 3) → b.flowByKey (ctxKey ws) = none → r.1.toOption = some u → q.1.toOption = some v → (ctxOf u ++ ctxOf v).any (fun w => bit w 20 && bits w 32 59 = h.2.2) = false → (ctxOf u).findIdx? (fun w => !bit w 20) = some k → exec (.flowInsert mid part arg) s = .next (s.withBlk (((((((d.dropFlow a).writeBytes midSluice noPart (d.flowCtx a) (ctxBytes ws)).writeBytes midSluice noPart (d.flowBucket h.1 + 8 * k) (leBytes 8 (a + 2 ^ 20 + h.2.2 * 2 ^ 32))).put SLC_MSTAT_OWNER mid).put SLC_MSTAT_DONE 1).put SLC_MSTAT_ERR 0).put SLC_MSTAT_ERRCODE 0)))
    ∧ (∀ (s : State) (mid : Nat) (part : Option Nat) (arg : Nat) (u v : Bytes) (k : Nat), let b := s.start; let a : Nat := arg % 2 ^ 20; let ws : List Nat := b.mdataWords; let h : Nat × Nat × Nat := flowHash (ctxKey ws); let r : Except Nat Bytes × Block := b.flowRead (b.flowBucket h.1); let q : Except Nat Bytes × Block := r.2.flowRead (r.2.flowBucket h.2.1); let d : Block := q.2; b.dev ≠ .off → b.isManager mid part true = true → b.flowFixed a ws = false → (ctxValid ws = true ∧ 1 ≤ fKtype ws ∧ fKtype ws ≤ 3) → b.flowByKey (ctxKey ws) = none → r.1.toOption = some u → q.1.toOption = some v → (ctxOf u ++ ctxOf v).any (fun w => bit w 20 && bits w 32 59 = h.2.2) = false → (ctxOf u).all (fun w => bit w 20) = true → (ctxOf v).findIdx? (fun w => !bit w 20) = some k → exec (.flowInsert mid part arg) s = .next (s.withBlk (((((((d.dropFlow a).writeBytes midSluice noPart (d.flowCtx a) (ctxBytes ws)).writeBytes midSluice noPart (d.flowBucket h.2.1 + 8 * k) (leBytes 8 (a + 2 ^ 20 + h.2.2 * 2 ^ 32))).put SLC_MSTAT_OWNER mid).put SLC_MSTAT_DONE 1).put SLC_MSTAT_ERR 0).put SLC_MSTAT_ERRCODE 0)))
    ∧ (∀ (s : State) (mid : Nat) (part : Option Nat) (arg : Nat) (ws : List Nat), let b := s.start; let a : Nat := arg % 2 ^ 20; let n : Option (List Nat) × Block := b.flowNow a; let h : Nat × Nat × Nat := flowHash (ctxKey ws); let d : Block := n.2.forL [h.1, h.2.1] fun x b => match b.flowRead (b.flowBucket x) with | (.error _, b) => b | (.ok v, b) => match (ctxOf v).findIdx? (fun w => bit w 20 && w % 2 ^ 20 = a && bits w 32 59 = h.2.2) with | some k => b.writeBytes midSluice noPart (b.flowBucket x + 8 * k) (leBytes 8 0) | none => b; b.dev ≠ .off → b.isManager mid part true = true → n.1 = some ws → fKtype ws ≠ 0 → n.2.flowFixed a ws = false → exec (.flowDelete mid part arg) s = .next (s.withBlk ((((((d.dropFlow a).writeBytes midSluice noPart (d.flowCtx a) (List.replicate 64 0)).put SLC_MSTAT_OWNER mid).put SLC_MSTAT_DONE 1).put SLC_MSTAT_ERR 0).put SLC_MSTAT_ERRCODE 0)))
    ∧ (∀ (s : State) (mid : Nat) (part : Option Nat) (arg : Nat) (ws : List Nat), let b := s.start; let a : Nat := arg % 2 ^ 20; let n : Option (List Nat) × Block := b.flowNow a; let new : List Nat := ws.take 2 ++ [n.2.mdata 2, n.2.mdata 3, n.2.mdata 4] ++ ws.drop 5; b.dev ≠ .off → b.isManager mid part true = true → n.1 = some ws → fKtype ws ≠ 0 → n.2.flowFixed a ws = false → n.2.flowFixed a new = false → ctxValid new = true → (n.2.flowByIdx a).isSome = true → exec (.flowModify mid part arg) s = .next (s.withBlk (((((n.2.modFlow a fun e => { e with words := new }).put SLC_MSTAT_OWNER mid).put SLC_MSTAT_DONE 1).put SLC_MSTAT_ERR 0).put SLC_MSTAT_ERRCODE 0)))
    ∧ (∀ (s : State) (mid : Nat) (part : Option Nat) (arg : Nat) (ws : List Nat), let b := s.start; let a : Nat := arg % 2 ^ 20; let n : Option (List Nat) × Block := b.flowNow a; let new : List Nat := ws.take 2 ++ [n.2.mdata 2, n.2.mdata 3, n.2.mdata 4] ++ ws.drop 5; b.dev ≠ .off → b.isManager mid part true = true → n.1 = some ws → fKtype ws ≠ 0 → n.2.flowFixed a ws = false → n.2.flowFixed a new = false → ctxValid new = true → n.2.flowByIdx a = none → exec (.flowModify mid part arg) s = .next (s.withBlk (((((n.2.writeBytes midSluice noPart (n.2.flowCtx a) (ctxBytes new)).put SLC_MSTAT_OWNER mid).put SLC_MSTAT_DONE 1).put SLC_MSTAT_ERR 0).put SLC_MSTAT_ERRCODE 0)))
    ∧ (∀ (s : State) (mid : Nat) (part : Option Nat) (arg : Nat) (ws : List Nat), let b := s.start; let a : Nat := arg % 2 ^ 20; let n : Option (List Nat) × Block := b.flowNow a; b.dev ≠ .off → b.isManager mid part true = true → n.1 = some ws → fKtype ws ≠ 0 → exec (.flowRead mid part arg) s = .next (s.withBlk (((((n.2.setMdata ws).put SLC_MSTAT_OWNER mid).put SLC_MSTAT_DONE 1).put SLC_MSTAT_ERR 0).put SLC_MSTAT_ERRCODE 0)))
    ∧ (∀ (s : State) (mid : Nat) (part : Option Nat) (arg : Nat) (e : FlowEnt), let b := s.start; let a : Nat := arg % 2 ^ 20; let key : Bytes := leBytes 8 (b.mdata 0) ++ leBytes 8 (b.mdata 1); b.dev ≠ .off → b.isManager mid part true = true → a = 0 → b.flowByKey key = some e → exec (.flowLookup mid part arg) s = .next (s.withBlk ((((((b.setR .SLC_MRES (e.index + 2 ^ 31)).setMdata e.words).put SLC_MSTAT_OWNER mid).put SLC_MSTAT_DONE 1).put SLC_MSTAT_ERR 0).put SLC_MSTAT_ERRCODE 0)))
    ∧ (∀ (s : State) (mid : Nat) (part : Option Nat) (arg : Nat) (i : Nat) (ws : List Nat), let b := s.start; let a : Nat := arg % 2 ^ 20; let key : Bytes := leBytes 8 (b.mdata 0) ++ leBytes 8 (b.mdata 1); let w : Except Nat (Option (Nat × List Nat)) × Block := b.walkFlow key; b.dev ≠ .off → b.isManager mid part true = true → a = 0 → b.flowByKey key = none → w.1.toOption = some (some (i, ws)) → exec (.flowLookup mid part arg) s = .next (s.withBlk ((((((w.2.setR .SLC_MRES (i + 2 ^ 31)).setMdata ws).put SLC_MSTAT_OWNER mid).put SLC_MSTAT_DONE 1).put SLC_MSTAT_ERR 0).put SLC_MSTAT_ERRCODE 0)))
    ∧ (∀ (s : State) (mid : Nat) (part : Option Nat) (arg : Nat), let b := s.start; let a : Nat := arg % 2 ^ 20; b.dev ≠ .off → b.isManager mid part true = true → a < 256 → b.mdata 0 = 1 → b.instSt a = 0 → exec (.instConfig mid part arg) s = .next (s.withBlk (((((b.put SLC_ISTAT_STATE 1 a).put SLC_MSTAT_OWNER mid).put SLC_MSTAT_DONE 1).put SLC_MSTAT_ERR 0).put SLC_MSTAT_ERRCODE 0)))
    ∧ (∀ (s : State) (mid : Nat) (part : Option Nat) (arg : Nat), let b := s.start; let a : Nat := arg % 2 ^ 20; b.dev ≠ .off → b.isManager mid part true = true → a < 256 → b.mdata 0 = 0 → b.instSt a = 0 → exec (.instConfig mid part arg) s = .next (s.withBlk ((((b.put SLC_MSTAT_OWNER mid).put SLC_MSTAT_DONE 1).put SLC_MSTAT_ERR 0).put SLC_MSTAT_ERRCODE 0)))
    ∧ (∀ (s : State) (mid : Nat) (part : Option Nat) (arg : Nat), let b := s.start; let a : Nat := arg % 2 ^ 20; b.dev ≠ .off → b.isManager mid part true = true → a < 256 → b.mdata 0 = 0 → b.instSt a = 1 → exec (.instConfig mid part arg) s = .next (s.withBlk (((((b.put SLC_ISTAT_STATE 0 a).put SLC_MSTAT_OWNER mid).put SLC_MSTAT_DONE 1).put SLC_MSTAT_ERR 0).put SLC_MSTAT_ERRCODE 0)))
    ∧ (∀ (s : State) (mid : Nat) (part : Option Nat) (arg : Nat), let b := s.start; let a : Nat := arg % 2 ^ 20; let i : Nat := a % 256; let k : Nat := a / 256; let ws : List Nat := b.mdataWords.take 4 ++ [0, 0, 0, 0]; let c : Block := b.modInst i fun t => { t with stopped := t.stopped.filter (· ≠ k) }; b.dev ≠ .off → b.isManager mid part true = true → a < 2048 → b.instSt i ≠ 2 → b.instSt i ≠ 3 → qctxValid ws = true → (c.hopFind i k).isSome = true → exec (.qctxWrite mid part arg) s = .next (s.withBlk (((((c.putCtx i k ws).put SLC_MSTAT_OWNER mid).put SLC_MSTAT_DONE 1).put SLC_MSTAT_ERR 0).put SLC_MSTAT_ERRCODE 0)))
    ∧ (∀ (s : State) (mid : Nat) (part : Option Nat) (arg : Nat) (e : Nat) (spill : Bool), let b := s.start; let a : Nat := arg % 2 ^ 20; let i : Nat := a % 256; let k : Nat := a / 256; let ws : List Nat := b.mdataWords.take 4 ++ [0, 0, 0, 0]; let c : Block := b.modInst i fun t => { t with stopped := t.stopped.filter (· ≠ k) }; b.dev ≠ .off → b.isManager mid part true = true → a < 2048 → b.instSt i ≠ 2 → b.instSt i ≠ 3 → qctxValid ws = true → c.hopFind i k = none → c.hopDirect = false → c.hopChoose i = some (e, spill) → exec (.qctxWrite mid part arg) s = .next (s.withBlk (((((((c.hopWriteBack e).modHop e (fun t => { t with ctx := some (i, k), words := ws, dirty := true, used := (c.hopWriteBack e).slc.uses })).modSlc fun s => { s with uses := s.uses + 1, spills := if spill then s.spills + 1 else s.spills }).put SLC_MSTAT_OWNER mid).put SLC_MSTAT_DONE 1).put SLC_MSTAT_ERR 0).put SLC_MSTAT_ERRCODE 0)))
    ∧ (∀ (s : State) (mid : Nat) (part : Option Nat) (arg : Nat), let b := s.start; let a : Nat := arg % 2 ^ 20; let i : Nat := a % 256; let k : Nat := a / 256; let ws : List Nat := b.mdataWords.take 4 ++ [0, 0, 0, 0]; let c : Block := b.modInst i fun t => { t with stopped := t.stopped.filter (· ≠ k) }; b.dev ≠ .off → b.isManager mid part true = true → a < 2048 → b.instSt i ≠ 2 → b.instSt i ≠ 3 → qctxValid ws = true → c.hopFind i k = none → (c.hopDirect = true ∨ c.hopChoose i = none) → exec (.qctxWrite mid part arg) s = .next (s.withBlk (((((c.putCtx i k ws).put SLC_MSTAT_OWNER mid).put SLC_MSTAT_DONE 1).put SLC_MSTAT_ERR 0).put SLC_MSTAT_ERRCODE 0)))
    ∧ (∀ (s : State) (mid : Nat) (part : Option Nat) (arg : Nat) (ws : List Nat), let b := s.start; let a : Nat := arg % 2 ^ 20; let g : Option (List Nat) × Block := b.getCtx (a % 256) (a / 256); b.dev ≠ .off → b.isManager mid part true = true → a < 2048 → g.1 = some ws → exec (.qctxRead mid part arg) s = .next (s.withBlk (((((g.2.setMdata (ws.take 4 ++ g.2.mdataWords.drop 4)).put SLC_MSTAT_OWNER mid).put SLC_MSTAT_DONE 1).put SLC_MSTAT_ERR 0).put SLC_MSTAT_ERRCODE 0)))
    ∧ (∀ (s : State) (mid : Nat) (part : Option Nat) (arg : Nat), let b := s.start; let a : Nat := arg % 2 ^ 20; b.dev ≠ .off → b.isManager mid part true = true → a < 256 → b.mdata 0 < 2048 → b.shareSum a (b.mdata 0) ≤ 1024 → exec (.instShare mid part arg) s = .next (s.withBlk ((((((b.modInst a (fun t => { t with newShare := some (b.mdata 0) })).put SLC_ISTAT_SHAREPEND 1 a).put SLC_MSTAT_OWNER mid).put SLC_MSTAT_DONE 1).put SLC_MSTAT_ERR 0).put SLC_MSTAT_ERRCODE 0)))
    ∧ (∀ (s : State) (mid : Nat) (part : Option Nat) (arg : Nat), let b := s.start; let a : Nat := arg % 2 ^ 20; b.dev ≠ .off → b.isManager mid part true = true → a < 256 → b.instSt a = 1 → exec (.instResetDrain mid part arg) s = .next (s.withBlk (((((b.put SLC_ISTAT_STATE 2 a).put SLC_MSTAT_OWNER mid).put SLC_MSTAT_DONE 1).put SLC_MSTAT_ERR 0).put SLC_MSTAT_ERRCODE 0)))
    ∧ (∀ (s : State) (mid : Nat) (part : Option Nat) (arg : Nat), let b := s.start; let a : Nat := arg % 2 ^ 20; b.dev ≠ .off → b.isManager mid part true = true → a < 256 → b.instSt a = 1 ∨ b.instSt a = 2 → exec (.instResetSquash mid part arg) s = .next (s.withBlk ((((((b.put SLC_ISTAT_STATE 3 a).squashInst a).put SLC_MSTAT_OWNER mid).put SLC_MSTAT_DONE 1).put SLC_MSTAT_ERR 0).put SLC_MSTAT_ERRCODE 0)))
    ∧ (∀ (s : State) (mid : Nat) (part : Option Nat) (arg : Nat), let b := s.start; let a : Nat := arg % 2 ^ 20; b.dev ≠ .off → b.isManager mid part true = true → a < 256 → b.instSt a ≠ 2 → b.instSt a ≠ 3 → b.mdata 3 % 512 = 0 → exec (.logConfig mid part arg) s = .next (s.withBlk ((((((b.modInst a (fun t => { t with logMap := (b.mdata 0, b.mdata 1), logBase := b.mdata 2, logPages := b.mdata 3, logCur := 0 })).put SLC_ISTAT_LOGON 1 a).put SLC_MSTAT_OWNER mid).put SLC_MSTAT_DONE 1).put SLC_MSTAT_ERR 0).put SLC_MSTAT_ERRCODE 0)))
    ∧ (∀ (s : State) (mid : Nat) (part : Option Nat) (arg : Nat), let b := s.start; let a : Nat := arg % 2 ^ 20; b.dev ≠ .off → b.isManager mid part true = true → a < 256 → b.isSet SLC_ISTAT_LOGON a = true → exec (.logSwap mid part arg) s = .next (s.withBlk (((((b.put SLC_ISTAT_LOGSWAP 1 a).put SLC_MSTAT_OWNER mid).put SLC_MSTAT_DONE 1).put SLC_MSTAT_ERR 0).put SLC_MSTAT_ERRCODE 0)))
    ∧ (∀ (s : State) (mid : Nat) (part : Option Nat) (arg : Nat), let b := s.start; let a : Nat := arg % 2 ^ 20; b.dev ≠ .off → b.isManager mid part true = true → a < 256 → exec (.logStop mid part arg) s = .next (s.withBlk ((((((b.put SLC_ISTAT_LOGON 0 a).put SLC_ISTAT_LOGSWAP 0 a).put SLC_MSTAT_OWNER mid).put SLC_MSTAT_DONE 1).put SLC_MSTAT_ERR 0).put SLC_MSTAT_ERRCODE 0)))
    ∧ (∀ (s : State) (mid : Nat) (part : Option Nat) (arg : Nat), let b := s.start; let a : Nat := arg % 2 ^ 20; b.dev ≠ .off → b.isManager mid part true = true → a < 256 → exec (.instClrerr mid part arg) s = .next (s.withBlk ((((((((b.put SLC_ISTAT_QERR 0 a).put SLC_ISTAT_IOTERR 0 a).put SLC_ISTAT_LOGOVER 0 a).modInst a fun t => { t with stopped := [] }).put SLC_MSTAT_OWNER mid).put SLC_MSTAT_DONE 1).put SLC_MSTAT_ERR 0).put SLC_MSTAT_ERRCODE 0)))

/-- A step of a machine with command c at the front of its queue is exec of c on the machine with the rest of the queue. With nothing waiting a step lets one cycle of the governor pass (the model's choice, log entry 1): its timers, the codewords of the ports and five cycles of the millrace and the flume links, and the commands of what arrived join the queue; in OFF only what had arrived joins it. -/
def Obligations.StepTakesTheFront : Prop :=
  (∀ (s : State) (c : Instr), step { s with pending := c :: s.pending } = exec c s)
    ∧ (∀ b : Block, b.dev ≠ .off → step ⟨b, []⟩ = .next (State.collect ⟨b.begin.govCycle.linesCycle.forN 5 fun _ c => c.netCycle, []⟩))
    ∧ (∀ b : Block, b.dev = .off → step ⟨b, []⟩ = .next (State.collect ⟨b.begin, []⟩))
    ∧ (∀ s : State, s.collect = { s with pending := s.pending ++ s.blk.net.arrived, blk := s.blk.modNet fun t => { t with arrived := [] } })

/-- In every state every command answers a next state, in which the same commands wait. -/
def Obligations.EveryCommandCompletes : Prop :=
  ∀ (c : Instr) (s : State), ∃ b : Block, exec c s = .next (s.withBlk b)

/-- In OFF, which only power-on reset, power on VDD_AON and a wake from standby leave (R28, R518), every other command changes nothing at all. -/
def Obligations.OffIsInert : Prop :=
  ∀ (c : Instr) (s : State), s.blk.dev = .off → (∀ n, c ≠ .powerOnReset n) → c ≠ .vddAonLoss → c ≠ .wakeIn → exec c s = .next (s.withBlk s.start)

/-- After reset the device is in BOOT, no command waits, every register reads its reset value (where the spec states none, the one that the log names), and memory and scratch are in canonical form with nothing listed. -/
def Obligations.ResetState : Prop :=
  State.reset.pending = [] ∧ State.reset.blk.dev = .boot ∧ State.reset.blk.mem = [] ∧ State.reset.MemOk
    ∧ ∀ (r : Reg) (i j k : Nat), State.reset.blk.getR r i j k = r.desc.reset

/-- Whatever the state and whatever command is at the front, a step keeps DRAM and the scratch memories of the millstones in canonical form: addresses rise strictly, and no entry equals what an unlisted byte reads as (the model's form of memory; an unwritten byte reads as 0 by log entry 8). -/
def Obligations.MemoryStaysCanonical : Prop :=
  ∀ s t : State, s.MemOk → step s = .next t → t.MemOk

/-- Whatever command is taken, in any state: the firmware counter never falls, a programmed key slot keeps its digest, a blown revoke or consent fuse stays blown, and no other field of one-time memory changes. -/
def Obligations.FusesOnlyGrow : Prop :=
  ∀ s t : State, step s = .next t → s.blk.otp.Grows t.blk.otp

/-- Every command but power-on reset and the loss of VDD_AON keeps the entries of the first-fault record in their places and holds them to sixteen; a class 5 fault stays in force until power-on reset (or the wake from standby, which is a start of its own). -/
def Obligations.FirstFaultsStay : Prop :=
  ∀ (c : Instr) (s t : State), exec c s = .next t → (∀ n, c ≠ .powerOnReset n) → c ≠ .vddAonLoss →
    s.blk.flog.first <+: t.blk.flog.first
    ∧ (s.blk.flog.first.length ≤ 16 → t.blk.flog.first.length ≤ 16)
    ∧ (c ≠ .wakeIn → c ≠ .shutdownComplete → s.blk.flog.fatal = true → t.blk.flog.fatal = true)

/-- A command that is none of those which read or write at a controller (a read may log an error in DRAM), repair, copy, log, initialise or reset (the list mayStore) leaves every byte of DRAM at every controller as it was. -/
def Obligations.OnlyStoresChangeDram : Prop :=
  ∀ (c : Instr) (s t : State) (mc a : Nat), mayStore c = false → exec c s = .next t → t.byte mc a = s.byte mc a

/-- A write of a whole line at a controller leaves the line of its place (R21, R256) holding the data, little-endian, and for Code M its copy at the partner controller too; every other byte of DRAM is as before (with room in the merge buffers; no re-pairing copies the range, and a poisoned line of Code N, which is logged in DRAM, apart). -/
def Obligations.WholeLineWrite : Prop :=
  ∀ (s : State) (mid part pa data : Nat) (poison tc3 : Bool) (p : Place) (code : Nat),
    s.blk.dev ≠ .off → s.start.place (pa / 64 * 64) = some p → s.start.dramOk pa = true → p.loc < 0x800000000 →
    descCode (s.start.desc p.desc 0) = code → (code = codeN → poison = false) →
    s.blk.blt.mirrors.filter (fun m => m.1 ≤ pa / 64 * 64 && pa / 64 * 64 < m.1 + m.2.1) = [] →
    s.start.mergeUse p.mc < 28 → s.start.mergeUse (xorN p.mc 4) < 28 →
    ∃ t, exec (.mcWrite mid part pa data (2 ^ 64 - 1) poison tc3) s = .next t
      ∧ ∀ mc a : Nat, a < 0x800000000 →
        t.byte mc a = if (mc = p.mc ∨ (code = codeM ∧ mc = xorN p.mc 4)) ∧ a / 64 = p.loc / 64
          then BitVec.ofNat 8 (data / 2 ^ (8 * (a % 64))) else s.byte mc a

/-- After a write of a whole line, with room in the merge buffers, a read of any address in it returns that data; the poison it was written with comes back with it under every code that stores poison. -/
def Obligations.WriteThenRead : Prop :=
  ∀ (s t : State) (mid mid' part part' pa pa' data : Nat) (poison tc3 tc3' : Bool) (p : Place) (code : Nat),
    s.blk.dev ≠ .off → s.start.place (pa / 64 * 64) = some p → s.start.dramOk pa = true → p.loc < 0x800000000 →
    descCode (s.start.desc p.desc 0) = code → (code = codeN → poison = false) →
    s.blk.blt.mirrors.filter (fun m => m.1 ≤ pa / 64 * 64 && pa / 64 * 64 < m.1 + m.2.1) = [] →
    s.start.mergeUse p.mc < 28 → s.start.mergeUse (xorN p.mc 4) < 28 →
    p.mc < 8 → data < 2 ^ 512 → pa' / 64 = pa / 64 → s.start.dramOk pa' = true →
    exec (.mcWrite mid part pa data (2 ^ 64 - 1) poison tc3) s = .next t →
    ∃ u, exec (.mcRead mid' part' pa' 0 0 tc3') t = .next u ∧ u.blk.out = [.data (leBytes 64 data) poison]

/-- Outside pinned regions controller and local address of an address are those of R21; the next granule lies at the next controller, each controller holds every eighth granule, and no two addresses share a byte. -/
def Obligations.DramPlacement : Prop :=
  ∀ (b : Block) (pa : Nat) (p : Place), b.place pa = some p → descPin (b.desc p.desc 0) = false →
    (p.mc = bits pa 12 14 ∧ p.loc = bits pa 15 37 * 4096 + bits pa 0 11)
    ∧ (∀ q, b.place (pa + 4096) = some q → descPin (b.desc q.desc 0) = false → q.mc = (p.mc + 1) % 8)
    ∧ (∀ (pa' : Nat) (q : Place), b.place pa' = some q → descPin (b.desc q.desc 0) = false →
        (q.mc = p.mc ↔ pa' / 4096 % 8 = pa / 4096 % 8)
        ∧ (pa < 2 ^ 38 → pa' < 2 ^ 38 → q.mc = p.mc → q.loc = p.loc → pa' = pa))

/-- A field of a register reads as the value that hardware put there, taken to the field's width; every other field of that register, and every register at another address, reads as before. -/
def Obligations.FieldReadAfterWrite : Prop :=
  ∀ (b : Block) (f : Fld) (v i j k : Nat), f.lo ≤ f.hi → f.hi < f.reg.desc.width →
    (b.put f v i j k).get f i j k = v % 2 ^ (f.hi + 1 - f.lo)
    ∧ (∀ g : Fld, g.reg = f.reg → g.lo ≤ g.hi → g.hi < f.reg.desc.width → (g.hi < f.lo ∨ f.hi < g.lo) →
        (b.put f v i j k).get g i j k = b.get g i j k)
    ∧ (∀ (r : Reg) (i' j' k' : Nat), r.addr i' j' k' ≠ f.reg.addr i j k → (b.put f v i j k).getR r i' j' k' = b.getR r i' j' k')

/-- A request that is not outranked moves BOOT, SELFTEST, CONFIG_WAIT, READY, RUN, DEGRADED and SERVICE to SAFE_HOLD with both FAULT_OUT outputs asserted; in SAFE_HOLD and SHUTDOWN the state stays; it gets no abort code. A governor that a lockstep mismatch halted takes no request. -/
def Obligations.SafeHoldRequests : Prop :=
  ∀ s : State, s.blk.dev ≠ .off → s.blk.govHalted = false →
    ∃ t, exec (.safeHoldRequest false) s = .next t
      ∧ (s.blk.dev = .safeHold ∨ s.blk.dev = .shutdown → t.blk.dev = s.blk.dev)
      ∧ (s.blk.dev ≠ .safeHold → s.blk.dev ≠ .shutdown → t.blk.dev = .safeHold ∧ t.blk.flog.outA = true ∧ t.blk.flog.outB = true)
      ∧ t.blk.mem = s.blk.mem ∧ t.blk.otp = s.blk.otp ∧ t.blk.active = s.blk.active ∧ t.blk.harts = s.blk.harts
      ∧ Out.answer 0 [] ∈ t.blk.out ∧ Out.answer 0x08000022 [] ∉ t.blk.out

/-- One fault raised by a governor that is not halted: class 0 to 2 leave the device state; class 3 leaves every state but RUN, which it moves to DEGRADED, or beyond the limit of R535 to SAFE_HOLD; class 4 asserts FAULT_OUT and moves RUN, DEGRADED, BOOT, SELFTEST, CONFIG_WAIT and READY to SAFE_HOLD (0x4601 in SELFTEST apart, R524); class 5 asserts it until power-on reset and moves every state but SHUTDOWN to SAFE_HOLD. -/
def Obligations.FaultReaction : Prop :=
  ∀ (s : State) (f : FaultSpec), s.blk.dev ≠ .off → s.blk.govHalted = false →
    ∃ t, exec (.faultRaised [f]) s = .next t
      ∧ (codeClass f.code ≤ 2 → t.blk.dev = s.blk.dev ∧ t.blk.flog.outA = s.blk.flog.outA ∧ t.blk.flog.outB = s.blk.flog.outB)
      ∧ (codeClass f.code = 3 → s.blk.dev ≠ .run → t.blk.dev = s.blk.dev)
      ∧ (codeClass f.code = 3 → s.blk.dev = .run →
          t.blk.dev = if s.start.actN 0x7003 1 < ((s.blk.flog.degr ++ [s.start.turn]).filter (fun u => s.start.turn < u + s.start.actN 0x7003 2)).length
            then .safeHold else .degraded)
      ∧ (codeClass f.code = 4 → t.blk.flog.outA = true ∧ t.blk.flog.outB = true
          ∧ ((s.blk.dev = .service ∨ s.blk.dev = .safeHold ∨ s.blk.dev = .shutdown ∨ (s.blk.dev = .selftest ∧ f.code = 0x4601)) → t.blk.dev = s.blk.dev)
          ∧ (s.blk.dev ≠ .service → s.blk.dev ≠ .shutdown → ¬(s.blk.dev = .selftest ∧ f.code = 0x4601) → t.blk.dev = .safeHold))
      ∧ (codeClass f.code = 5 → t.blk.flog.outA = true ∧ t.blk.flog.outB = true ∧ t.blk.flog.fatal = true
          ∧ t.blk.dev = if s.blk.dev = .shutdown then .shutdown else .safeHold)

/-- In PAIR and TRIPLE, without the survivor flag, a decision that releases a source, with or without a dissenting replica, finds two different replicas with valid and equal digests, one of them the source, and no valid digest of a lower replica equal to them; three different digests, two different ones, one or none are a hold. -/
def Obligations.ReleaseNeedsAgreement : Prop :=
  ∀ (mode : Nat) (sealed0 : Bool) (l : List (Nat × Bytes)), mode ≠ 1 → l.length ≤ 3 → (l.map (·.1)).Pairwise (· < ·) →
    (∀ r, (verdict mode false sealed0 l = .release r ∨ ∃ q, verdict mode false sealed0 l = .dissent r q) ↔
      ∃ x r', r < r' ∧ (r, x) ∈ l ∧ (r', x) ∈ l ∧ ∀ q, (q, x) ∈ l → r ≤ q)
    ∧ (∀ r, verdict mode false sealed0 l ≠ .survivor r) ∧ verdict mode false sealed0 l ≠ .none
    ∧ (∀ r q, verdict mode false sealed0 l = .dissent r q → ∃ x y, (r, x) ∈ l ∧ (q, y) ∈ l ∧ x ≠ y)
    ∧ (∀ r, verdict mode true sealed0 l = .survivor r ↔ ∃ x, l = [(r, x)])

/-- Slice and set of a line are those of R81, and the 32,768 lines of any aligned range of 2 MiB map to the 32,768 sets one to one and onto. -/
def Obligations.CacheIndex : Prop :=
  (∀ pa : Nat, lineSlice (pa / 64) = xorN (bits pa 6 8) (bits pa 21 23) ∧ lineSet (pa / 64) = bits pa 9 20)
    ∧ (∀ l l' : Nat, l / 32768 = l' / 32768 → lineSlice l = lineSlice l' → lineSet l = lineSet l' → l = l')
    ∧ (∀ m sl st : Nat, sl < 8 → st < 4096 → ∃ l, l / 32768 = m ∧ lineSlice l = sl ∧ lineSet l = st)

/-- A write of RESUME clears STOPPED and leaves HEAD at the failing entry; with SKIP it advances HEAD past that entry first, where there is one; a write to a queue that is not stopped has no effect. -/
def Obligations.ResumeAndSkip : Prop :=
  ∀ (s : State) (p sail i j : Nat), s.blk.dev ≠ .off → s.start.active? sail = true → s.start.bindOf sail p = some i → j < 2 →
    ((s.start.mq sail i j).stopped = true → (s.start.mq sail i j).head ≠ (s.start.mq sail i j).tail →
      ∃ t u, exec (.resumeQueue (some p) sail j) s = .next t ∧ exec (.skipCmd (some p) sail j) s = .next u
        ∧ t.blk.mq sail i j = { s.start.mq sail i j with stopped := false }
        ∧ u.blk.mq sail i j = { s.start.mq sail i j with stopped := false, head := ((s.start.mq sail i j).head + 1) % 65536 }
        ∧ (∀ mc a, t.byte mc a = s.byte mc a ∧ u.byte mc a = s.byte mc a)
        ∧ (∀ r i' j' k', t.blk.getR r i' j' k' = s.start.getR r i' j' k' ∧ u.blk.getR r i' j' k' = s.start.getR r i' j' k'))
    ∧ ((s.start.mq sail i j).stopped = false →
      exec (.resumeQueue (some p) sail j) s = .next (s.withBlk s.start) ∧ exec (.skipCmd (some p) sail j) s = .next (s.withBlk s.start))
end

