-- ==== Sys2Proof/Laws/State.lean ====
section
/-! SUPPORT. What each update of the block leaves and changes: one lemma per field and update, true by unfolding the update; then the laws of sparse maps
and of registers. Proofs cite these and never unfold a record update. -/

namespace Sys2Proof.Machine

/-! ## Fields under updates -/

@[simp] theorem Block.emit_dev (b : Block) (o : Out) : (b.emit o).dev = b.dev := rfl
@[simp] theorem Block.emit_prev (b : Block) (o : Out) : (b.emit o).prev = b.prev := rfl
@[simp] theorem Block.emit_regs (b : Block) (o : Out) : (b.emit o).regs = b.regs := rfl
@[simp] theorem Block.emit_free (b : Block) (o : Out) : (b.emit o).free = b.free := rfl
@[simp] theorem Block.emit_otp (b : Block) (o : Out) : (b.emit o).otp = b.otp := rfl
@[simp] theorem Block.emit_pwr (b : Block) (o : Out) : (b.emit o).pwr = b.pwr := rfl
@[simp] theorem Block.emit_flog (b : Block) (o : Out) : (b.emit o).flog = b.flog := rfl
@[simp] theorem Block.emit_timeBase (b : Block) (o : Out) : (b.emit o).timeBase = b.timeBase := rfl
@[simp] theorem Block.emit_govHalted (b : Block) (o : Out) : (b.emit o).govHalted = b.govHalted := rfl
@[simp] theorem Block.emit_active (b : Block) (o : Out) : (b.emit o).active = b.active := rfl
@[simp] theorem Block.emit_commit (b : Block) (o : Out) : (b.emit o).commit = b.commit := rfl
@[simp] theorem Block.emit_dict (b : Block) (o : Out) : (b.emit o).dict = b.dict := rfl
@[simp] theorem Block.emit_trust (b : Block) (o : Out) : (b.emit o).trust = b.trust := rfl
@[simp] theorem Block.emit_tu (b : Block) (o : Out) : (b.emit o).tu = b.tu := rfl
@[simp] theorem Block.emit_evt (b : Block) (o : Out) : (b.emit o).evt = b.evt := rfl
@[simp] theorem Block.emit_imsic (b : Block) (o : Out) : (b.emit o).imsic = b.imsic := rfl
@[simp] theorem Block.emit_mem (b : Block) (o : Out) : (b.emit o).mem = b.mem := rfl
@[simp] theorem Block.emit_ms (b : Block) (o : Out) : (b.emit o).ms = b.ms := rfl
@[simp] theorem Block.emit_coh (b : Block) (o : Out) : (b.emit o).coh = b.coh := rfl
@[simp] theorem Block.emit_svc (b : Block) (o : Out) : (b.emit o).svc = b.svc := rfl
@[simp] theorem Block.emit_lvp (b : Block) (o : Out) : (b.emit o).lvp = b.lvp := rfl
@[simp] theorem Block.emit_slc (b : Block) (o : Out) : (b.emit o).slc = b.slc := rfl
@[simp] theorem Block.emit_pci (b : Block) (o : Out) : (b.emit o).pci = b.pci := rfl
@[simp] theorem Block.emit_sails (b : Block) (o : Out) : (b.emit o).sails = b.sails := rfl
@[simp] theorem Block.emit_harts (b : Block) (o : Out) : (b.emit o).harts = b.harts := rfl
@[simp] theorem Block.emit_iot (b : Block) (o : Out) : (b.emit o).iot = b.iot := rfl
@[simp] theorem Block.emit_msts (b : Block) (o : Out) : (b.emit o).msts = b.msts := rfl
@[simp] theorem Block.emit_scr (b : Block) (o : Out) : (b.emit o).scr = b.scr := rfl
@[simp] theorem Block.emit_mesh (b : Block) (o : Out) : (b.emit o).mesh = b.mesh := rfl
@[simp] theorem Block.emit_net (b : Block) (o : Out) : (b.emit o).net = b.net := rfl
@[simp] theorem Block.emit_parts (b : Block) (o : Out) : (b.emit o).parts = b.parts := rfl
@[simp] theorem Block.emit_blt (b : Block) (o : Out) : (b.emit o).blt = b.blt := rfl
@[simp] theorem Block.emit_mbx (b : Block) (o : Out) : (b.emit o).mbx = b.mbx := rfl
@[simp] theorem Block.emit_gov (b : Block) (o : Out) : (b.emit o).gov = b.gov := rfl

@[simp] theorem Block.setR_dev (b : Block) (r : Reg) (v i j k : Nat) : (b.setR r v i j k).dev = b.dev := rfl
@[simp] theorem Block.setR_prev (b : Block) (r : Reg) (v i j k : Nat) : (b.setR r v i j k).prev = b.prev := rfl
@[simp] theorem Block.setR_out (b : Block) (r : Reg) (v i j k : Nat) : (b.setR r v i j k).out = b.out := rfl
@[simp] theorem Block.setR_free (b : Block) (r : Reg) (v i j k : Nat) : (b.setR r v i j k).free = b.free := rfl
@[simp] theorem Block.setR_otp (b : Block) (r : Reg) (v i j k : Nat) : (b.setR r v i j k).otp = b.otp := rfl
@[simp] theorem Block.setR_pwr (b : Block) (r : Reg) (v i j k : Nat) : (b.setR r v i j k).pwr = b.pwr := rfl
@[simp] theorem Block.setR_flog (b : Block) (r : Reg) (v i j k : Nat) : (b.setR r v i j k).flog = b.flog := rfl
@[simp] theorem Block.setR_timeBase (b : Block) (r : Reg) (v i j k : Nat) : (b.setR r v i j k).timeBase = b.timeBase := rfl
@[simp] theorem Block.setR_govHalted (b : Block) (r : Reg) (v i j k : Nat) : (b.setR r v i j k).govHalted = b.govHalted := rfl
@[simp] theorem Block.setR_active (b : Block) (r : Reg) (v i j k : Nat) : (b.setR r v i j k).active = b.active := rfl
@[simp] theorem Block.setR_commit (b : Block) (r : Reg) (v i j k : Nat) : (b.setR r v i j k).commit = b.commit := rfl
@[simp] theorem Block.setR_dict (b : Block) (r : Reg) (v i j k : Nat) : (b.setR r v i j k).dict = b.dict := rfl
@[simp] theorem Block.setR_trust (b : Block) (r : Reg) (v i j k : Nat) : (b.setR r v i j k).trust = b.trust := rfl
@[simp] theorem Block.setR_tu (b : Block) (r : Reg) (v i j k : Nat) : (b.setR r v i j k).tu = b.tu := rfl
@[simp] theorem Block.setR_evt (b : Block) (r : Reg) (v i j k : Nat) : (b.setR r v i j k).evt = b.evt := rfl
@[simp] theorem Block.setR_imsic (b : Block) (r : Reg) (v i j k : Nat) : (b.setR r v i j k).imsic = b.imsic := rfl
@[simp] theorem Block.setR_mem (b : Block) (r : Reg) (v i j k : Nat) : (b.setR r v i j k).mem = b.mem := rfl
@[simp] theorem Block.setR_ms (b : Block) (r : Reg) (v i j k : Nat) : (b.setR r v i j k).ms = b.ms := rfl
@[simp] theorem Block.setR_coh (b : Block) (r : Reg) (v i j k : Nat) : (b.setR r v i j k).coh = b.coh := rfl
@[simp] theorem Block.setR_svc (b : Block) (r : Reg) (v i j k : Nat) : (b.setR r v i j k).svc = b.svc := rfl
@[simp] theorem Block.setR_lvp (b : Block) (r : Reg) (v i j k : Nat) : (b.setR r v i j k).lvp = b.lvp := rfl
@[simp] theorem Block.setR_slc (b : Block) (r : Reg) (v i j k : Nat) : (b.setR r v i j k).slc = b.slc := rfl
@[simp] theorem Block.setR_pci (b : Block) (r : Reg) (v i j k : Nat) : (b.setR r v i j k).pci = b.pci := rfl
@[simp] theorem Block.setR_sails (b : Block) (r : Reg) (v i j k : Nat) : (b.setR r v i j k).sails = b.sails := rfl
@[simp] theorem Block.setR_harts (b : Block) (r : Reg) (v i j k : Nat) : (b.setR r v i j k).harts = b.harts := rfl
@[simp] theorem Block.setR_iot (b : Block) (r : Reg) (v i j k : Nat) : (b.setR r v i j k).iot = b.iot := rfl
@[simp] theorem Block.setR_msts (b : Block) (r : Reg) (v i j k : Nat) : (b.setR r v i j k).msts = b.msts := rfl
@[simp] theorem Block.setR_scr (b : Block) (r : Reg) (v i j k : Nat) : (b.setR r v i j k).scr = b.scr := rfl
@[simp] theorem Block.setR_mesh (b : Block) (r : Reg) (v i j k : Nat) : (b.setR r v i j k).mesh = b.mesh := rfl
@[simp] theorem Block.setR_net (b : Block) (r : Reg) (v i j k : Nat) : (b.setR r v i j k).net = b.net := rfl
@[simp] theorem Block.setR_parts (b : Block) (r : Reg) (v i j k : Nat) : (b.setR r v i j k).parts = b.parts := rfl
@[simp] theorem Block.setR_blt (b : Block) (r : Reg) (v i j k : Nat) : (b.setR r v i j k).blt = b.blt := rfl
@[simp] theorem Block.setR_mbx (b : Block) (r : Reg) (v i j k : Nat) : (b.setR r v i j k).mbx = b.mbx := rfl
@[simp] theorem Block.setR_gov (b : Block) (r : Reg) (v i j k : Nat) : (b.setR r v i j k).gov = b.gov := rfl

@[simp] theorem Block.put_dev (b : Block) (f : Fld) (v i j k : Nat) : (b.put f v i j k).dev = b.dev := rfl
@[simp] theorem Block.put_prev (b : Block) (f : Fld) (v i j k : Nat) : (b.put f v i j k).prev = b.prev := rfl
@[simp] theorem Block.put_out (b : Block) (f : Fld) (v i j k : Nat) : (b.put f v i j k).out = b.out := rfl
@[simp] theorem Block.put_free (b : Block) (f : Fld) (v i j k : Nat) : (b.put f v i j k).free = b.free := rfl
@[simp] theorem Block.put_otp (b : Block) (f : Fld) (v i j k : Nat) : (b.put f v i j k).otp = b.otp := rfl
@[simp] theorem Block.put_pwr (b : Block) (f : Fld) (v i j k : Nat) : (b.put f v i j k).pwr = b.pwr := rfl
@[simp] theorem Block.put_flog (b : Block) (f : Fld) (v i j k : Nat) : (b.put f v i j k).flog = b.flog := rfl
@[simp] theorem Block.put_timeBase (b : Block) (f : Fld) (v i j k : Nat) : (b.put f v i j k).timeBase = b.timeBase := rfl
@[simp] theorem Block.put_govHalted (b : Block) (f : Fld) (v i j k : Nat) : (b.put f v i j k).govHalted = b.govHalted := rfl
@[simp] theorem Block.put_active (b : Block) (f : Fld) (v i j k : Nat) : (b.put f v i j k).active = b.active := rfl
@[simp] theorem Block.put_commit (b : Block) (f : Fld) (v i j k : Nat) : (b.put f v i j k).commit = b.commit := rfl
@[simp] theorem Block.put_dict (b : Block) (f : Fld) (v i j k : Nat) : (b.put f v i j k).dict = b.dict := rfl
@[simp] theorem Block.put_trust (b : Block) (f : Fld) (v i j k : Nat) : (b.put f v i j k).trust = b.trust := rfl
@[simp] theorem Block.put_tu (b : Block) (f : Fld) (v i j k : Nat) : (b.put f v i j k).tu = b.tu := rfl
@[simp] theorem Block.put_evt (b : Block) (f : Fld) (v i j k : Nat) : (b.put f v i j k).evt = b.evt := rfl
@[simp] theorem Block.put_imsic (b : Block) (f : Fld) (v i j k : Nat) : (b.put f v i j k).imsic = b.imsic := rfl
@[simp] theorem Block.put_mem (b : Block) (f : Fld) (v i j k : Nat) : (b.put f v i j k).mem = b.mem := rfl
@[simp] theorem Block.put_ms (b : Block) (f : Fld) (v i j k : Nat) : (b.put f v i j k).ms = b.ms := rfl
@[simp] theorem Block.put_coh (b : Block) (f : Fld) (v i j k : Nat) : (b.put f v i j k).coh = b.coh := rfl
@[simp] theorem Block.put_svc (b : Block) (f : Fld) (v i j k : Nat) : (b.put f v i j k).svc = b.svc := rfl
@[simp] theorem Block.put_lvp (b : Block) (f : Fld) (v i j k : Nat) : (b.put f v i j k).lvp = b.lvp := rfl
@[simp] theorem Block.put_slc (b : Block) (f : Fld) (v i j k : Nat) : (b.put f v i j k).slc = b.slc := rfl
@[simp] theorem Block.put_pci (b : Block) (f : Fld) (v i j k : Nat) : (b.put f v i j k).pci = b.pci := rfl
@[simp] theorem Block.put_sails (b : Block) (f : Fld) (v i j k : Nat) : (b.put f v i j k).sails = b.sails := rfl
@[simp] theorem Block.put_harts (b : Block) (f : Fld) (v i j k : Nat) : (b.put f v i j k).harts = b.harts := rfl
@[simp] theorem Block.put_iot (b : Block) (f : Fld) (v i j k : Nat) : (b.put f v i j k).iot = b.iot := rfl
@[simp] theorem Block.put_msts (b : Block) (f : Fld) (v i j k : Nat) : (b.put f v i j k).msts = b.msts := rfl
@[simp] theorem Block.put_scr (b : Block) (f : Fld) (v i j k : Nat) : (b.put f v i j k).scr = b.scr := rfl
@[simp] theorem Block.put_mesh (b : Block) (f : Fld) (v i j k : Nat) : (b.put f v i j k).mesh = b.mesh := rfl
@[simp] theorem Block.put_net (b : Block) (f : Fld) (v i j k : Nat) : (b.put f v i j k).net = b.net := rfl
@[simp] theorem Block.put_parts (b : Block) (f : Fld) (v i j k : Nat) : (b.put f v i j k).parts = b.parts := rfl
@[simp] theorem Block.put_blt (b : Block) (f : Fld) (v i j k : Nat) : (b.put f v i j k).blt = b.blt := rfl
@[simp] theorem Block.put_mbx (b : Block) (f : Fld) (v i j k : Nat) : (b.put f v i j k).mbx = b.mbx := rfl
@[simp] theorem Block.put_gov (b : Block) (f : Fld) (v i j k : Nat) : (b.put f v i j k).gov = b.gov := rfl

@[simp] theorem Block.inc_dev (b : Block) (f : Fld) (i j k : Nat) : (b.inc f i j k).dev = b.dev := rfl
@[simp] theorem Block.inc_prev (b : Block) (f : Fld) (i j k : Nat) : (b.inc f i j k).prev = b.prev := rfl
@[simp] theorem Block.inc_out (b : Block) (f : Fld) (i j k : Nat) : (b.inc f i j k).out = b.out := rfl
@[simp] theorem Block.inc_free (b : Block) (f : Fld) (i j k : Nat) : (b.inc f i j k).free = b.free := rfl
@[simp] theorem Block.inc_otp (b : Block) (f : Fld) (i j k : Nat) : (b.inc f i j k).otp = b.otp := rfl
@[simp] theorem Block.inc_pwr (b : Block) (f : Fld) (i j k : Nat) : (b.inc f i j k).pwr = b.pwr := rfl
@[simp] theorem Block.inc_flog (b : Block) (f : Fld) (i j k : Nat) : (b.inc f i j k).flog = b.flog := rfl
@[simp] theorem Block.inc_timeBase (b : Block) (f : Fld) (i j k : Nat) : (b.inc f i j k).timeBase = b.timeBase := rfl
@[simp] theorem Block.inc_govHalted (b : Block) (f : Fld) (i j k : Nat) : (b.inc f i j k).govHalted = b.govHalted := rfl
@[simp] theorem Block.inc_active (b : Block) (f : Fld) (i j k : Nat) : (b.inc f i j k).active = b.active := rfl
@[simp] theorem Block.inc_commit (b : Block) (f : Fld) (i j k : Nat) : (b.inc f i j k).commit = b.commit := rfl
@[simp] theorem Block.inc_dict (b : Block) (f : Fld) (i j k : Nat) : (b.inc f i j k).dict = b.dict := rfl
@[simp] theorem Block.inc_trust (b : Block) (f : Fld) (i j k : Nat) : (b.inc f i j k).trust = b.trust := rfl
@[simp] theorem Block.inc_tu (b : Block) (f : Fld) (i j k : Nat) : (b.inc f i j k).tu = b.tu := rfl
@[simp] theorem Block.inc_evt (b : Block) (f : Fld) (i j k : Nat) : (b.inc f i j k).evt = b.evt := rfl
@[simp] theorem Block.inc_imsic (b : Block) (f : Fld) (i j k : Nat) : (b.inc f i j k).imsic = b.imsic := rfl
@[simp] theorem Block.inc_mem (b : Block) (f : Fld) (i j k : Nat) : (b.inc f i j k).mem = b.mem := rfl
@[simp] theorem Block.inc_ms (b : Block) (f : Fld) (i j k : Nat) : (b.inc f i j k).ms = b.ms := rfl
@[simp] theorem Block.inc_coh (b : Block) (f : Fld) (i j k : Nat) : (b.inc f i j k).coh = b.coh := rfl
@[simp] theorem Block.inc_svc (b : Block) (f : Fld) (i j k : Nat) : (b.inc f i j k).svc = b.svc := rfl
@[simp] theorem Block.inc_lvp (b : Block) (f : Fld) (i j k : Nat) : (b.inc f i j k).lvp = b.lvp := rfl
@[simp] theorem Block.inc_slc (b : Block) (f : Fld) (i j k : Nat) : (b.inc f i j k).slc = b.slc := rfl
@[simp] theorem Block.inc_pci (b : Block) (f : Fld) (i j k : Nat) : (b.inc f i j k).pci = b.pci := rfl
@[simp] theorem Block.inc_sails (b : Block) (f : Fld) (i j k : Nat) : (b.inc f i j k).sails = b.sails := rfl
@[simp] theorem Block.inc_harts (b : Block) (f : Fld) (i j k : Nat) : (b.inc f i j k).harts = b.harts := rfl
@[simp] theorem Block.inc_iot (b : Block) (f : Fld) (i j k : Nat) : (b.inc f i j k).iot = b.iot := rfl
@[simp] theorem Block.inc_msts (b : Block) (f : Fld) (i j k : Nat) : (b.inc f i j k).msts = b.msts := rfl
@[simp] theorem Block.inc_scr (b : Block) (f : Fld) (i j k : Nat) : (b.inc f i j k).scr = b.scr := rfl
@[simp] theorem Block.inc_mesh (b : Block) (f : Fld) (i j k : Nat) : (b.inc f i j k).mesh = b.mesh := rfl
@[simp] theorem Block.inc_net (b : Block) (f : Fld) (i j k : Nat) : (b.inc f i j k).net = b.net := rfl
@[simp] theorem Block.inc_parts (b : Block) (f : Fld) (i j k : Nat) : (b.inc f i j k).parts = b.parts := rfl
@[simp] theorem Block.inc_blt (b : Block) (f : Fld) (i j k : Nat) : (b.inc f i j k).blt = b.blt := rfl
@[simp] theorem Block.inc_mbx (b : Block) (f : Fld) (i j k : Nat) : (b.inc f i j k).mbx = b.mbx := rfl
@[simp] theorem Block.inc_gov (b : Block) (f : Fld) (i j k : Nat) : (b.inc f i j k).gov = b.gov := rfl

@[simp] theorem Block.incBy_dev (b : Block) (f : Fld) (n i j k : Nat) : (b.incBy f n i j k).dev = b.dev := rfl
@[simp] theorem Block.incBy_prev (b : Block) (f : Fld) (n i j k : Nat) : (b.incBy f n i j k).prev = b.prev := rfl
@[simp] theorem Block.incBy_out (b : Block) (f : Fld) (n i j k : Nat) : (b.incBy f n i j k).out = b.out := rfl
@[simp] theorem Block.incBy_free (b : Block) (f : Fld) (n i j k : Nat) : (b.incBy f n i j k).free = b.free := rfl
@[simp] theorem Block.incBy_otp (b : Block) (f : Fld) (n i j k : Nat) : (b.incBy f n i j k).otp = b.otp := rfl
@[simp] theorem Block.incBy_pwr (b : Block) (f : Fld) (n i j k : Nat) : (b.incBy f n i j k).pwr = b.pwr := rfl
@[simp] theorem Block.incBy_flog (b : Block) (f : Fld) (n i j k : Nat) : (b.incBy f n i j k).flog = b.flog := rfl
@[simp] theorem Block.incBy_timeBase (b : Block) (f : Fld) (n i j k : Nat) : (b.incBy f n i j k).timeBase = b.timeBase := rfl
@[simp] theorem Block.incBy_govHalted (b : Block) (f : Fld) (n i j k : Nat) : (b.incBy f n i j k).govHalted = b.govHalted := rfl
@[simp] theorem Block.incBy_active (b : Block) (f : Fld) (n i j k : Nat) : (b.incBy f n i j k).active = b.active := rfl
@[simp] theorem Block.incBy_commit (b : Block) (f : Fld) (n i j k : Nat) : (b.incBy f n i j k).commit = b.commit := rfl
@[simp] theorem Block.incBy_dict (b : Block) (f : Fld) (n i j k : Nat) : (b.incBy f n i j k).dict = b.dict := rfl
@[simp] theorem Block.incBy_trust (b : Block) (f : Fld) (n i j k : Nat) : (b.incBy f n i j k).trust = b.trust := rfl
@[simp] theorem Block.incBy_tu (b : Block) (f : Fld) (n i j k : Nat) : (b.incBy f n i j k).tu = b.tu := rfl
@[simp] theorem Block.incBy_evt (b : Block) (f : Fld) (n i j k : Nat) : (b.incBy f n i j k).evt = b.evt := rfl
@[simp] theorem Block.incBy_imsic (b : Block) (f : Fld) (n i j k : Nat) : (b.incBy f n i j k).imsic = b.imsic := rfl
@[simp] theorem Block.incBy_mem (b : Block) (f : Fld) (n i j k : Nat) : (b.incBy f n i j k).mem = b.mem := rfl
@[simp] theorem Block.incBy_ms (b : Block) (f : Fld) (n i j k : Nat) : (b.incBy f n i j k).ms = b.ms := rfl
@[simp] theorem Block.incBy_coh (b : Block) (f : Fld) (n i j k : Nat) : (b.incBy f n i j k).coh = b.coh := rfl
@[simp] theorem Block.incBy_svc (b : Block) (f : Fld) (n i j k : Nat) : (b.incBy f n i j k).svc = b.svc := rfl
@[simp] theorem Block.incBy_lvp (b : Block) (f : Fld) (n i j k : Nat) : (b.incBy f n i j k).lvp = b.lvp := rfl
@[simp] theorem Block.incBy_slc (b : Block) (f : Fld) (n i j k : Nat) : (b.incBy f n i j k).slc = b.slc := rfl
@[simp] theorem Block.incBy_pci (b : Block) (f : Fld) (n i j k : Nat) : (b.incBy f n i j k).pci = b.pci := rfl
@[simp] theorem Block.incBy_sails (b : Block) (f : Fld) (n i j k : Nat) : (b.incBy f n i j k).sails = b.sails := rfl
@[simp] theorem Block.incBy_harts (b : Block) (f : Fld) (n i j k : Nat) : (b.incBy f n i j k).harts = b.harts := rfl
@[simp] theorem Block.incBy_iot (b : Block) (f : Fld) (n i j k : Nat) : (b.incBy f n i j k).iot = b.iot := rfl
@[simp] theorem Block.incBy_msts (b : Block) (f : Fld) (n i j k : Nat) : (b.incBy f n i j k).msts = b.msts := rfl
@[simp] theorem Block.incBy_scr (b : Block) (f : Fld) (n i j k : Nat) : (b.incBy f n i j k).scr = b.scr := rfl
@[simp] theorem Block.incBy_mesh (b : Block) (f : Fld) (n i j k : Nat) : (b.incBy f n i j k).mesh = b.mesh := rfl
@[simp] theorem Block.incBy_net (b : Block) (f : Fld) (n i j k : Nat) : (b.incBy f n i j k).net = b.net := rfl
@[simp] theorem Block.incBy_parts (b : Block) (f : Fld) (n i j k : Nat) : (b.incBy f n i j k).parts = b.parts := rfl
@[simp] theorem Block.incBy_blt (b : Block) (f : Fld) (n i j k : Nat) : (b.incBy f n i j k).blt = b.blt := rfl
@[simp] theorem Block.incBy_mbx (b : Block) (f : Fld) (n i j k : Nat) : (b.incBy f n i j k).mbx = b.mbx := rfl
@[simp] theorem Block.incBy_gov (b : Block) (f : Fld) (n i j k : Nat) : (b.incBy f n i j k).gov = b.gov := rfl

@[simp] theorem Block.loadR_dev (b : Block) (r : Reg) (v i j k : Nat) : (b.loadR r v i j k).dev = b.dev := rfl
@[simp] theorem Block.loadR_prev (b : Block) (r : Reg) (v i j k : Nat) : (b.loadR r v i j k).prev = b.prev := rfl
@[simp] theorem Block.loadR_out (b : Block) (r : Reg) (v i j k : Nat) : (b.loadR r v i j k).out = b.out := rfl
@[simp] theorem Block.loadR_free (b : Block) (r : Reg) (v i j k : Nat) : (b.loadR r v i j k).free = b.free := rfl
@[simp] theorem Block.loadR_otp (b : Block) (r : Reg) (v i j k : Nat) : (b.loadR r v i j k).otp = b.otp := rfl
@[simp] theorem Block.loadR_pwr (b : Block) (r : Reg) (v i j k : Nat) : (b.loadR r v i j k).pwr = b.pwr := rfl
@[simp] theorem Block.loadR_flog (b : Block) (r : Reg) (v i j k : Nat) : (b.loadR r v i j k).flog = b.flog := rfl
@[simp] theorem Block.loadR_timeBase (b : Block) (r : Reg) (v i j k : Nat) : (b.loadR r v i j k).timeBase = b.timeBase := rfl
@[simp] theorem Block.loadR_govHalted (b : Block) (r : Reg) (v i j k : Nat) : (b.loadR r v i j k).govHalted = b.govHalted := rfl
@[simp] theorem Block.loadR_active (b : Block) (r : Reg) (v i j k : Nat) : (b.loadR r v i j k).active = b.active := rfl
@[simp] theorem Block.loadR_commit (b : Block) (r : Reg) (v i j k : Nat) : (b.loadR r v i j k).commit = b.commit := rfl
@[simp] theorem Block.loadR_dict (b : Block) (r : Reg) (v i j k : Nat) : (b.loadR r v i j k).dict = b.dict := rfl
@[simp] theorem Block.loadR_trust (b : Block) (r : Reg) (v i j k : Nat) : (b.loadR r v i j k).trust = b.trust := rfl
@[simp] theorem Block.loadR_tu (b : Block) (r : Reg) (v i j k : Nat) : (b.loadR r v i j k).tu = b.tu := rfl
@[simp] theorem Block.loadR_evt (b : Block) (r : Reg) (v i j k : Nat) : (b.loadR r v i j k).evt = b.evt := rfl
@[simp] theorem Block.loadR_imsic (b : Block) (r : Reg) (v i j k : Nat) : (b.loadR r v i j k).imsic = b.imsic := rfl
@[simp] theorem Block.loadR_mem (b : Block) (r : Reg) (v i j k : Nat) : (b.loadR r v i j k).mem = b.mem := rfl
@[simp] theorem Block.loadR_ms (b : Block) (r : Reg) (v i j k : Nat) : (b.loadR r v i j k).ms = b.ms := rfl
@[simp] theorem Block.loadR_coh (b : Block) (r : Reg) (v i j k : Nat) : (b.loadR r v i j k).coh = b.coh := rfl
@[simp] theorem Block.loadR_svc (b : Block) (r : Reg) (v i j k : Nat) : (b.loadR r v i j k).svc = b.svc := rfl
@[simp] theorem Block.loadR_lvp (b : Block) (r : Reg) (v i j k : Nat) : (b.loadR r v i j k).lvp = b.lvp := rfl
@[simp] theorem Block.loadR_slc (b : Block) (r : Reg) (v i j k : Nat) : (b.loadR r v i j k).slc = b.slc := rfl
@[simp] theorem Block.loadR_pci (b : Block) (r : Reg) (v i j k : Nat) : (b.loadR r v i j k).pci = b.pci := rfl
@[simp] theorem Block.loadR_sails (b : Block) (r : Reg) (v i j k : Nat) : (b.loadR r v i j k).sails = b.sails := rfl
@[simp] theorem Block.loadR_harts (b : Block) (r : Reg) (v i j k : Nat) : (b.loadR r v i j k).harts = b.harts := rfl
@[simp] theorem Block.loadR_iot (b : Block) (r : Reg) (v i j k : Nat) : (b.loadR r v i j k).iot = b.iot := rfl
@[simp] theorem Block.loadR_msts (b : Block) (r : Reg) (v i j k : Nat) : (b.loadR r v i j k).msts = b.msts := rfl
@[simp] theorem Block.loadR_scr (b : Block) (r : Reg) (v i j k : Nat) : (b.loadR r v i j k).scr = b.scr := rfl
@[simp] theorem Block.loadR_mesh (b : Block) (r : Reg) (v i j k : Nat) : (b.loadR r v i j k).mesh = b.mesh := rfl
@[simp] theorem Block.loadR_net (b : Block) (r : Reg) (v i j k : Nat) : (b.loadR r v i j k).net = b.net := rfl
@[simp] theorem Block.loadR_parts (b : Block) (r : Reg) (v i j k : Nat) : (b.loadR r v i j k).parts = b.parts := rfl
@[simp] theorem Block.loadR_blt (b : Block) (r : Reg) (v i j k : Nat) : (b.loadR r v i j k).blt = b.blt := rfl
@[simp] theorem Block.loadR_mbx (b : Block) (r : Reg) (v i j k : Nat) : (b.loadR r v i j k).mbx = b.mbx := rfl
@[simp] theorem Block.loadR_gov (b : Block) (r : Reg) (v i j k : Nat) : (b.loadR r v i j k).gov = b.gov := rfl

@[simp] theorem Block.tickFree_dev (b : Block) : (b.tickFree).dev = b.dev := rfl
@[simp] theorem Block.tickFree_prev (b : Block) : (b.tickFree).prev = b.prev := rfl
@[simp] theorem Block.tickFree_regs (b : Block) : (b.tickFree).regs = b.regs := rfl
@[simp] theorem Block.tickFree_out (b : Block) : (b.tickFree).out = b.out := rfl
@[simp] theorem Block.tickFree_otp (b : Block) : (b.tickFree).otp = b.otp := rfl
@[simp] theorem Block.tickFree_pwr (b : Block) : (b.tickFree).pwr = b.pwr := rfl
@[simp] theorem Block.tickFree_flog (b : Block) : (b.tickFree).flog = b.flog := rfl
@[simp] theorem Block.tickFree_timeBase (b : Block) : (b.tickFree).timeBase = b.timeBase := rfl
@[simp] theorem Block.tickFree_govHalted (b : Block) : (b.tickFree).govHalted = b.govHalted := rfl
@[simp] theorem Block.tickFree_active (b : Block) : (b.tickFree).active = b.active := rfl
@[simp] theorem Block.tickFree_commit (b : Block) : (b.tickFree).commit = b.commit := rfl
@[simp] theorem Block.tickFree_dict (b : Block) : (b.tickFree).dict = b.dict := rfl
@[simp] theorem Block.tickFree_trust (b : Block) : (b.tickFree).trust = b.trust := rfl
@[simp] theorem Block.tickFree_tu (b : Block) : (b.tickFree).tu = b.tu := rfl
@[simp] theorem Block.tickFree_evt (b : Block) : (b.tickFree).evt = b.evt := rfl
@[simp] theorem Block.tickFree_imsic (b : Block) : (b.tickFree).imsic = b.imsic := rfl
@[simp] theorem Block.tickFree_mem (b : Block) : (b.tickFree).mem = b.mem := rfl
@[simp] theorem Block.tickFree_ms (b : Block) : (b.tickFree).ms = b.ms := rfl
@[simp] theorem Block.tickFree_coh (b : Block) : (b.tickFree).coh = b.coh := rfl
@[simp] theorem Block.tickFree_svc (b : Block) : (b.tickFree).svc = b.svc := rfl
@[simp] theorem Block.tickFree_lvp (b : Block) : (b.tickFree).lvp = b.lvp := rfl
@[simp] theorem Block.tickFree_slc (b : Block) : (b.tickFree).slc = b.slc := rfl
@[simp] theorem Block.tickFree_pci (b : Block) : (b.tickFree).pci = b.pci := rfl
@[simp] theorem Block.tickFree_sails (b : Block) : (b.tickFree).sails = b.sails := rfl
@[simp] theorem Block.tickFree_harts (b : Block) : (b.tickFree).harts = b.harts := rfl
@[simp] theorem Block.tickFree_iot (b : Block) : (b.tickFree).iot = b.iot := rfl
@[simp] theorem Block.tickFree_msts (b : Block) : (b.tickFree).msts = b.msts := rfl
@[simp] theorem Block.tickFree_scr (b : Block) : (b.tickFree).scr = b.scr := rfl
@[simp] theorem Block.tickFree_mesh (b : Block) : (b.tickFree).mesh = b.mesh := rfl
@[simp] theorem Block.tickFree_net (b : Block) : (b.tickFree).net = b.net := rfl
@[simp] theorem Block.tickFree_parts (b : Block) : (b.tickFree).parts = b.parts := rfl
@[simp] theorem Block.tickFree_blt (b : Block) : (b.tickFree).blt = b.blt := rfl
@[simp] theorem Block.tickFree_mbx (b : Block) : (b.tickFree).mbx = b.mbx := rfl
@[simp] theorem Block.tickFree_gov (b : Block) : (b.tickFree).gov = b.gov := rfl

@[simp] theorem Block.modTu_dev (b : Block) (f : TurnUnit → TurnUnit) : (b.modTu f).dev = b.dev := rfl
@[simp] theorem Block.modTu_prev (b : Block) (f : TurnUnit → TurnUnit) : (b.modTu f).prev = b.prev := rfl
@[simp] theorem Block.modTu_regs (b : Block) (f : TurnUnit → TurnUnit) : (b.modTu f).regs = b.regs := rfl
@[simp] theorem Block.modTu_out (b : Block) (f : TurnUnit → TurnUnit) : (b.modTu f).out = b.out := rfl
@[simp] theorem Block.modTu_free (b : Block) (f : TurnUnit → TurnUnit) : (b.modTu f).free = b.free := rfl
@[simp] theorem Block.modTu_otp (b : Block) (f : TurnUnit → TurnUnit) : (b.modTu f).otp = b.otp := rfl
@[simp] theorem Block.modTu_pwr (b : Block) (f : TurnUnit → TurnUnit) : (b.modTu f).pwr = b.pwr := rfl
@[simp] theorem Block.modTu_flog (b : Block) (f : TurnUnit → TurnUnit) : (b.modTu f).flog = b.flog := rfl
@[simp] theorem Block.modTu_timeBase (b : Block) (f : TurnUnit → TurnUnit) : (b.modTu f).timeBase = b.timeBase := rfl
@[simp] theorem Block.modTu_govHalted (b : Block) (f : TurnUnit → TurnUnit) : (b.modTu f).govHalted = b.govHalted := rfl
@[simp] theorem Block.modTu_active (b : Block) (f : TurnUnit → TurnUnit) : (b.modTu f).active = b.active := rfl
@[simp] theorem Block.modTu_commit (b : Block) (f : TurnUnit → TurnUnit) : (b.modTu f).commit = b.commit := rfl
@[simp] theorem Block.modTu_dict (b : Block) (f : TurnUnit → TurnUnit) : (b.modTu f).dict = b.dict := rfl
@[simp] theorem Block.modTu_trust (b : Block) (f : TurnUnit → TurnUnit) : (b.modTu f).trust = b.trust := rfl
@[simp] theorem Block.modTu_evt (b : Block) (f : TurnUnit → TurnUnit) : (b.modTu f).evt = b.evt := rfl
@[simp] theorem Block.modTu_imsic (b : Block) (f : TurnUnit → TurnUnit) : (b.modTu f).imsic = b.imsic := rfl
@[simp] theorem Block.modTu_mem (b : Block) (f : TurnUnit → TurnUnit) : (b.modTu f).mem = b.mem := rfl
@[simp] theorem Block.modTu_ms (b : Block) (f : TurnUnit → TurnUnit) : (b.modTu f).ms = b.ms := rfl
@[simp] theorem Block.modTu_coh (b : Block) (f : TurnUnit → TurnUnit) : (b.modTu f).coh = b.coh := rfl
@[simp] theorem Block.modTu_svc (b : Block) (f : TurnUnit → TurnUnit) : (b.modTu f).svc = b.svc := rfl
@[simp] theorem Block.modTu_lvp (b : Block) (f : TurnUnit → TurnUnit) : (b.modTu f).lvp = b.lvp := rfl
@[simp] theorem Block.modTu_slc (b : Block) (f : TurnUnit → TurnUnit) : (b.modTu f).slc = b.slc := rfl
@[simp] theorem Block.modTu_pci (b : Block) (f : TurnUnit → TurnUnit) : (b.modTu f).pci = b.pci := rfl
@[simp] theorem Block.modTu_sails (b : Block) (f : TurnUnit → TurnUnit) : (b.modTu f).sails = b.sails := rfl
@[simp] theorem Block.modTu_harts (b : Block) (f : TurnUnit → TurnUnit) : (b.modTu f).harts = b.harts := rfl
@[simp] theorem Block.modTu_iot (b : Block) (f : TurnUnit → TurnUnit) : (b.modTu f).iot = b.iot := rfl
@[simp] theorem Block.modTu_msts (b : Block) (f : TurnUnit → TurnUnit) : (b.modTu f).msts = b.msts := rfl
@[simp] theorem Block.modTu_scr (b : Block) (f : TurnUnit → TurnUnit) : (b.modTu f).scr = b.scr := rfl
@[simp] theorem Block.modTu_mesh (b : Block) (f : TurnUnit → TurnUnit) : (b.modTu f).mesh = b.mesh := rfl
@[simp] theorem Block.modTu_net (b : Block) (f : TurnUnit → TurnUnit) : (b.modTu f).net = b.net := rfl
@[simp] theorem Block.modTu_parts (b : Block) (f : TurnUnit → TurnUnit) : (b.modTu f).parts = b.parts := rfl
@[simp] theorem Block.modTu_blt (b : Block) (f : TurnUnit → TurnUnit) : (b.modTu f).blt = b.blt := rfl
@[simp] theorem Block.modTu_mbx (b : Block) (f : TurnUnit → TurnUnit) : (b.modTu f).mbx = b.mbx := rfl
@[simp] theorem Block.modTu_gov (b : Block) (f : TurnUnit → TurnUnit) : (b.modTu f).gov = b.gov := rfl

@[simp] theorem Block.modEvt_dev (b : Block) (n : Nat) (f : EvtIn → EvtIn) : (b.modEvt n f).dev = b.dev := rfl
@[simp] theorem Block.modEvt_prev (b : Block) (n : Nat) (f : EvtIn → EvtIn) : (b.modEvt n f).prev = b.prev := rfl
@[simp] theorem Block.modEvt_regs (b : Block) (n : Nat) (f : EvtIn → EvtIn) : (b.modEvt n f).regs = b.regs := rfl
@[simp] theorem Block.modEvt_out (b : Block) (n : Nat) (f : EvtIn → EvtIn) : (b.modEvt n f).out = b.out := rfl
@[simp] theorem Block.modEvt_free (b : Block) (n : Nat) (f : EvtIn → EvtIn) : (b.modEvt n f).free = b.free := rfl
@[simp] theorem Block.modEvt_otp (b : Block) (n : Nat) (f : EvtIn → EvtIn) : (b.modEvt n f).otp = b.otp := rfl
@[simp] theorem Block.modEvt_pwr (b : Block) (n : Nat) (f : EvtIn → EvtIn) : (b.modEvt n f).pwr = b.pwr := rfl
@[simp] theorem Block.modEvt_flog (b : Block) (n : Nat) (f : EvtIn → EvtIn) : (b.modEvt n f).flog = b.flog := rfl
@[simp] theorem Block.modEvt_timeBase (b : Block) (n : Nat) (f : EvtIn → EvtIn) : (b.modEvt n f).timeBase = b.timeBase := rfl
@[simp] theorem Block.modEvt_govHalted (b : Block) (n : Nat) (f : EvtIn → EvtIn) : (b.modEvt n f).govHalted = b.govHalted := rfl
@[simp] theorem Block.modEvt_active (b : Block) (n : Nat) (f : EvtIn → EvtIn) : (b.modEvt n f).active = b.active := rfl
@[simp] theorem Block.modEvt_commit (b : Block) (n : Nat) (f : EvtIn → EvtIn) : (b.modEvt n f).commit = b.commit := rfl
@[simp] theorem Block.modEvt_dict (b : Block) (n : Nat) (f : EvtIn → EvtIn) : (b.modEvt n f).dict = b.dict := rfl
@[simp] theorem Block.modEvt_trust (b : Block) (n : Nat) (f : EvtIn → EvtIn) : (b.modEvt n f).trust = b.trust := rfl
@[simp] theorem Block.modEvt_tu (b : Block) (n : Nat) (f : EvtIn → EvtIn) : (b.modEvt n f).tu = b.tu := rfl
@[simp] theorem Block.modEvt_imsic (b : Block) (n : Nat) (f : EvtIn → EvtIn) : (b.modEvt n f).imsic = b.imsic := rfl
@[simp] theorem Block.modEvt_mem (b : Block) (n : Nat) (f : EvtIn → EvtIn) : (b.modEvt n f).mem = b.mem := rfl
@[simp] theorem Block.modEvt_ms (b : Block) (n : Nat) (f : EvtIn → EvtIn) : (b.modEvt n f).ms = b.ms := rfl
@[simp] theorem Block.modEvt_coh (b : Block) (n : Nat) (f : EvtIn → EvtIn) : (b.modEvt n f).coh = b.coh := rfl
@[simp] theorem Block.modEvt_svc (b : Block) (n : Nat) (f : EvtIn → EvtIn) : (b.modEvt n f).svc = b.svc := rfl
@[simp] theorem Block.modEvt_lvp (b : Block) (n : Nat) (f : EvtIn → EvtIn) : (b.modEvt n f).lvp = b.lvp := rfl
@[simp] theorem Block.modEvt_slc (b : Block) (n : Nat) (f : EvtIn → EvtIn) : (b.modEvt n f).slc = b.slc := rfl
@[simp] theorem Block.modEvt_pci (b : Block) (n : Nat) (f : EvtIn → EvtIn) : (b.modEvt n f).pci = b.pci := rfl
@[simp] theorem Block.modEvt_sails (b : Block) (n : Nat) (f : EvtIn → EvtIn) : (b.modEvt n f).sails = b.sails := rfl
@[simp] theorem Block.modEvt_harts (b : Block) (n : Nat) (f : EvtIn → EvtIn) : (b.modEvt n f).harts = b.harts := rfl
@[simp] theorem Block.modEvt_iot (b : Block) (n : Nat) (f : EvtIn → EvtIn) : (b.modEvt n f).iot = b.iot := rfl
@[simp] theorem Block.modEvt_msts (b : Block) (n : Nat) (f : EvtIn → EvtIn) : (b.modEvt n f).msts = b.msts := rfl
@[simp] theorem Block.modEvt_scr (b : Block) (n : Nat) (f : EvtIn → EvtIn) : (b.modEvt n f).scr = b.scr := rfl
@[simp] theorem Block.modEvt_mesh (b : Block) (n : Nat) (f : EvtIn → EvtIn) : (b.modEvt n f).mesh = b.mesh := rfl
@[simp] theorem Block.modEvt_net (b : Block) (n : Nat) (f : EvtIn → EvtIn) : (b.modEvt n f).net = b.net := rfl
@[simp] theorem Block.modEvt_parts (b : Block) (n : Nat) (f : EvtIn → EvtIn) : (b.modEvt n f).parts = b.parts := rfl
@[simp] theorem Block.modEvt_blt (b : Block) (n : Nat) (f : EvtIn → EvtIn) : (b.modEvt n f).blt = b.blt := rfl
@[simp] theorem Block.modEvt_mbx (b : Block) (n : Nat) (f : EvtIn → EvtIn) : (b.modEvt n f).mbx = b.mbx := rfl
@[simp] theorem Block.modEvt_gov (b : Block) (n : Nat) (f : EvtIn → EvtIn) : (b.modEvt n f).gov = b.gov := rfl

@[simp] theorem Block.modMst_dev (b : Block) (n : Nat) (f : Mst → Mst) : (b.modMst n f).dev = b.dev := rfl
@[simp] theorem Block.modMst_prev (b : Block) (n : Nat) (f : Mst → Mst) : (b.modMst n f).prev = b.prev := rfl
@[simp] theorem Block.modMst_regs (b : Block) (n : Nat) (f : Mst → Mst) : (b.modMst n f).regs = b.regs := rfl
@[simp] theorem Block.modMst_out (b : Block) (n : Nat) (f : Mst → Mst) : (b.modMst n f).out = b.out := rfl
@[simp] theorem Block.modMst_free (b : Block) (n : Nat) (f : Mst → Mst) : (b.modMst n f).free = b.free := rfl
@[simp] theorem Block.modMst_otp (b : Block) (n : Nat) (f : Mst → Mst) : (b.modMst n f).otp = b.otp := rfl
@[simp] theorem Block.modMst_pwr (b : Block) (n : Nat) (f : Mst → Mst) : (b.modMst n f).pwr = b.pwr := rfl
@[simp] theorem Block.modMst_flog (b : Block) (n : Nat) (f : Mst → Mst) : (b.modMst n f).flog = b.flog := rfl
@[simp] theorem Block.modMst_timeBase (b : Block) (n : Nat) (f : Mst → Mst) : (b.modMst n f).timeBase = b.timeBase := rfl
@[simp] theorem Block.modMst_govHalted (b : Block) (n : Nat) (f : Mst → Mst) : (b.modMst n f).govHalted = b.govHalted := rfl
@[simp] theorem Block.modMst_active (b : Block) (n : Nat) (f : Mst → Mst) : (b.modMst n f).active = b.active := rfl
@[simp] theorem Block.modMst_commit (b : Block) (n : Nat) (f : Mst → Mst) : (b.modMst n f).commit = b.commit := rfl
@[simp] theorem Block.modMst_dict (b : Block) (n : Nat) (f : Mst → Mst) : (b.modMst n f).dict = b.dict := rfl
@[simp] theorem Block.modMst_trust (b : Block) (n : Nat) (f : Mst → Mst) : (b.modMst n f).trust = b.trust := rfl
@[simp] theorem Block.modMst_tu (b : Block) (n : Nat) (f : Mst → Mst) : (b.modMst n f).tu = b.tu := rfl
@[simp] theorem Block.modMst_evt (b : Block) (n : Nat) (f : Mst → Mst) : (b.modMst n f).evt = b.evt := rfl
@[simp] theorem Block.modMst_imsic (b : Block) (n : Nat) (f : Mst → Mst) : (b.modMst n f).imsic = b.imsic := rfl
@[simp] theorem Block.modMst_mem (b : Block) (n : Nat) (f : Mst → Mst) : (b.modMst n f).mem = b.mem := rfl
@[simp] theorem Block.modMst_ms (b : Block) (n : Nat) (f : Mst → Mst) : (b.modMst n f).ms = b.ms := rfl
@[simp] theorem Block.modMst_coh (b : Block) (n : Nat) (f : Mst → Mst) : (b.modMst n f).coh = b.coh := rfl
@[simp] theorem Block.modMst_svc (b : Block) (n : Nat) (f : Mst → Mst) : (b.modMst n f).svc = b.svc := rfl
@[simp] theorem Block.modMst_lvp (b : Block) (n : Nat) (f : Mst → Mst) : (b.modMst n f).lvp = b.lvp := rfl
@[simp] theorem Block.modMst_slc (b : Block) (n : Nat) (f : Mst → Mst) : (b.modMst n f).slc = b.slc := rfl
@[simp] theorem Block.modMst_pci (b : Block) (n : Nat) (f : Mst → Mst) : (b.modMst n f).pci = b.pci := rfl
@[simp] theorem Block.modMst_sails (b : Block) (n : Nat) (f : Mst → Mst) : (b.modMst n f).sails = b.sails := rfl
@[simp] theorem Block.modMst_harts (b : Block) (n : Nat) (f : Mst → Mst) : (b.modMst n f).harts = b.harts := rfl
@[simp] theorem Block.modMst_iot (b : Block) (n : Nat) (f : Mst → Mst) : (b.modMst n f).iot = b.iot := rfl
@[simp] theorem Block.modMst_scr (b : Block) (n : Nat) (f : Mst → Mst) : (b.modMst n f).scr = b.scr := rfl
@[simp] theorem Block.modMst_mesh (b : Block) (n : Nat) (f : Mst → Mst) : (b.modMst n f).mesh = b.mesh := rfl
@[simp] theorem Block.modMst_net (b : Block) (n : Nat) (f : Mst → Mst) : (b.modMst n f).net = b.net := rfl
@[simp] theorem Block.modMst_parts (b : Block) (n : Nat) (f : Mst → Mst) : (b.modMst n f).parts = b.parts := rfl
@[simp] theorem Block.modMst_blt (b : Block) (n : Nat) (f : Mst → Mst) : (b.modMst n f).blt = b.blt := rfl
@[simp] theorem Block.modMst_mbx (b : Block) (n : Nat) (f : Mst → Mst) : (b.modMst n f).mbx = b.mbx := rfl
@[simp] theorem Block.modMst_gov (b : Block) (n : Nat) (f : Mst → Mst) : (b.modMst n f).gov = b.gov := rfl

@[simp] theorem Block.modSvc_dev (b : Block) (f : Services → Services) : (b.modSvc f).dev = b.dev := rfl
@[simp] theorem Block.modSvc_prev (b : Block) (f : Services → Services) : (b.modSvc f).prev = b.prev := rfl
@[simp] theorem Block.modSvc_regs (b : Block) (f : Services → Services) : (b.modSvc f).regs = b.regs := rfl
@[simp] theorem Block.modSvc_out (b : Block) (f : Services → Services) : (b.modSvc f).out = b.out := rfl
@[simp] theorem Block.modSvc_free (b : Block) (f : Services → Services) : (b.modSvc f).free = b.free := rfl
@[simp] theorem Block.modSvc_otp (b : Block) (f : Services → Services) : (b.modSvc f).otp = b.otp := rfl
@[simp] theorem Block.modSvc_pwr (b : Block) (f : Services → Services) : (b.modSvc f).pwr = b.pwr := rfl
@[simp] theorem Block.modSvc_flog (b : Block) (f : Services → Services) : (b.modSvc f).flog = b.flog := rfl
@[simp] theorem Block.modSvc_timeBase (b : Block) (f : Services → Services) : (b.modSvc f).timeBase = b.timeBase := rfl
@[simp] theorem Block.modSvc_govHalted (b : Block) (f : Services → Services) : (b.modSvc f).govHalted = b.govHalted := rfl
@[simp] theorem Block.modSvc_active (b : Block) (f : Services → Services) : (b.modSvc f).active = b.active := rfl
@[simp] theorem Block.modSvc_commit (b : Block) (f : Services → Services) : (b.modSvc f).commit = b.commit := rfl
@[simp] theorem Block.modSvc_dict (b : Block) (f : Services → Services) : (b.modSvc f).dict = b.dict := rfl
@[simp] theorem Block.modSvc_trust (b : Block) (f : Services → Services) : (b.modSvc f).trust = b.trust := rfl
@[simp] theorem Block.modSvc_tu (b : Block) (f : Services → Services) : (b.modSvc f).tu = b.tu := rfl
@[simp] theorem Block.modSvc_evt (b : Block) (f : Services → Services) : (b.modSvc f).evt = b.evt := rfl
@[simp] theorem Block.modSvc_imsic (b : Block) (f : Services → Services) : (b.modSvc f).imsic = b.imsic := rfl
@[simp] theorem Block.modSvc_mem (b : Block) (f : Services → Services) : (b.modSvc f).mem = b.mem := rfl
@[simp] theorem Block.modSvc_ms (b : Block) (f : Services → Services) : (b.modSvc f).ms = b.ms := rfl
@[simp] theorem Block.modSvc_coh (b : Block) (f : Services → Services) : (b.modSvc f).coh = b.coh := rfl
@[simp] theorem Block.modSvc_lvp (b : Block) (f : Services → Services) : (b.modSvc f).lvp = b.lvp := rfl
@[simp] theorem Block.modSvc_slc (b : Block) (f : Services → Services) : (b.modSvc f).slc = b.slc := rfl
@[simp] theorem Block.modSvc_pci (b : Block) (f : Services → Services) : (b.modSvc f).pci = b.pci := rfl
@[simp] theorem Block.modSvc_sails (b : Block) (f : Services → Services) : (b.modSvc f).sails = b.sails := rfl
@[simp] theorem Block.modSvc_harts (b : Block) (f : Services → Services) : (b.modSvc f).harts = b.harts := rfl
@[simp] theorem Block.modSvc_iot (b : Block) (f : Services → Services) : (b.modSvc f).iot = b.iot := rfl
@[simp] theorem Block.modSvc_msts (b : Block) (f : Services → Services) : (b.modSvc f).msts = b.msts := rfl
@[simp] theorem Block.modSvc_scr (b : Block) (f : Services → Services) : (b.modSvc f).scr = b.scr := rfl
@[simp] theorem Block.modSvc_mesh (b : Block) (f : Services → Services) : (b.modSvc f).mesh = b.mesh := rfl
@[simp] theorem Block.modSvc_net (b : Block) (f : Services → Services) : (b.modSvc f).net = b.net := rfl
@[simp] theorem Block.modSvc_parts (b : Block) (f : Services → Services) : (b.modSvc f).parts = b.parts := rfl
@[simp] theorem Block.modSvc_blt (b : Block) (f : Services → Services) : (b.modSvc f).blt = b.blt := rfl
@[simp] theorem Block.modSvc_mbx (b : Block) (f : Services → Services) : (b.modSvc f).mbx = b.mbx := rfl
@[simp] theorem Block.modSvc_gov (b : Block) (f : Services → Services) : (b.modSvc f).gov = b.gov := rfl

@[simp] theorem Block.modPart_dev (b : Block) (p : Nat) (f : Part → Part) : (b.modPart p f).dev = b.dev := rfl
@[simp] theorem Block.modPart_prev (b : Block) (p : Nat) (f : Part → Part) : (b.modPart p f).prev = b.prev := rfl
@[simp] theorem Block.modPart_regs (b : Block) (p : Nat) (f : Part → Part) : (b.modPart p f).regs = b.regs := rfl
@[simp] theorem Block.modPart_out (b : Block) (p : Nat) (f : Part → Part) : (b.modPart p f).out = b.out := rfl
@[simp] theorem Block.modPart_free (b : Block) (p : Nat) (f : Part → Part) : (b.modPart p f).free = b.free := rfl
@[simp] theorem Block.modPart_otp (b : Block) (p : Nat) (f : Part → Part) : (b.modPart p f).otp = b.otp := rfl
@[simp] theorem Block.modPart_pwr (b : Block) (p : Nat) (f : Part → Part) : (b.modPart p f).pwr = b.pwr := rfl
@[simp] theorem Block.modPart_flog (b : Block) (p : Nat) (f : Part → Part) : (b.modPart p f).flog = b.flog := rfl
@[simp] theorem Block.modPart_timeBase (b : Block) (p : Nat) (f : Part → Part) : (b.modPart p f).timeBase = b.timeBase := rfl
@[simp] theorem Block.modPart_govHalted (b : Block) (p : Nat) (f : Part → Part) : (b.modPart p f).govHalted = b.govHalted := rfl
@[simp] theorem Block.modPart_active (b : Block) (p : Nat) (f : Part → Part) : (b.modPart p f).active = b.active := rfl
@[simp] theorem Block.modPart_commit (b : Block) (p : Nat) (f : Part → Part) : (b.modPart p f).commit = b.commit := rfl
@[simp] theorem Block.modPart_dict (b : Block) (p : Nat) (f : Part → Part) : (b.modPart p f).dict = b.dict := rfl
@[simp] theorem Block.modPart_trust (b : Block) (p : Nat) (f : Part → Part) : (b.modPart p f).trust = b.trust := rfl
@[simp] theorem Block.modPart_tu (b : Block) (p : Nat) (f : Part → Part) : (b.modPart p f).tu = b.tu := rfl
@[simp] theorem Block.modPart_evt (b : Block) (p : Nat) (f : Part → Part) : (b.modPart p f).evt = b.evt := rfl
@[simp] theorem Block.modPart_imsic (b : Block) (p : Nat) (f : Part → Part) : (b.modPart p f).imsic = b.imsic := rfl
@[simp] theorem Block.modPart_mem (b : Block) (p : Nat) (f : Part → Part) : (b.modPart p f).mem = b.mem := rfl
@[simp] theorem Block.modPart_ms (b : Block) (p : Nat) (f : Part → Part) : (b.modPart p f).ms = b.ms := rfl
@[simp] theorem Block.modPart_coh (b : Block) (p : Nat) (f : Part → Part) : (b.modPart p f).coh = b.coh := rfl
@[simp] theorem Block.modPart_svc (b : Block) (p : Nat) (f : Part → Part) : (b.modPart p f).svc = b.svc := rfl
@[simp] theorem Block.modPart_lvp (b : Block) (p : Nat) (f : Part → Part) : (b.modPart p f).lvp = b.lvp := rfl
@[simp] theorem Block.modPart_slc (b : Block) (p : Nat) (f : Part → Part) : (b.modPart p f).slc = b.slc := rfl
@[simp] theorem Block.modPart_pci (b : Block) (p : Nat) (f : Part → Part) : (b.modPart p f).pci = b.pci := rfl
@[simp] theorem Block.modPart_sails (b : Block) (p : Nat) (f : Part → Part) : (b.modPart p f).sails = b.sails := rfl
@[simp] theorem Block.modPart_harts (b : Block) (p : Nat) (f : Part → Part) : (b.modPart p f).harts = b.harts := rfl
@[simp] theorem Block.modPart_iot (b : Block) (p : Nat) (f : Part → Part) : (b.modPart p f).iot = b.iot := rfl
@[simp] theorem Block.modPart_msts (b : Block) (p : Nat) (f : Part → Part) : (b.modPart p f).msts = b.msts := rfl
@[simp] theorem Block.modPart_scr (b : Block) (p : Nat) (f : Part → Part) : (b.modPart p f).scr = b.scr := rfl
@[simp] theorem Block.modPart_mesh (b : Block) (p : Nat) (f : Part → Part) : (b.modPart p f).mesh = b.mesh := rfl
@[simp] theorem Block.modPart_net (b : Block) (p : Nat) (f : Part → Part) : (b.modPart p f).net = b.net := rfl
@[simp] theorem Block.modPart_blt (b : Block) (p : Nat) (f : Part → Part) : (b.modPart p f).blt = b.blt := rfl
@[simp] theorem Block.modPart_mbx (b : Block) (p : Nat) (f : Part → Part) : (b.modPart p f).mbx = b.mbx := rfl
@[simp] theorem Block.modPart_gov (b : Block) (p : Nat) (f : Part → Part) : (b.modPart p f).gov = b.gov := rfl

@[simp] theorem Block.modSlc_dev (b : Block) (f : Sluice → Sluice) : (b.modSlc f).dev = b.dev := rfl
@[simp] theorem Block.modSlc_prev (b : Block) (f : Sluice → Sluice) : (b.modSlc f).prev = b.prev := rfl
@[simp] theorem Block.modSlc_regs (b : Block) (f : Sluice → Sluice) : (b.modSlc f).regs = b.regs := rfl
@[simp] theorem Block.modSlc_out (b : Block) (f : Sluice → Sluice) : (b.modSlc f).out = b.out := rfl
@[simp] theorem Block.modSlc_free (b : Block) (f : Sluice → Sluice) : (b.modSlc f).free = b.free := rfl
@[simp] theorem Block.modSlc_otp (b : Block) (f : Sluice → Sluice) : (b.modSlc f).otp = b.otp := rfl
@[simp] theorem Block.modSlc_pwr (b : Block) (f : Sluice → Sluice) : (b.modSlc f).pwr = b.pwr := rfl
@[simp] theorem Block.modSlc_flog (b : Block) (f : Sluice → Sluice) : (b.modSlc f).flog = b.flog := rfl
@[simp] theorem Block.modSlc_timeBase (b : Block) (f : Sluice → Sluice) : (b.modSlc f).timeBase = b.timeBase := rfl
@[simp] theorem Block.modSlc_govHalted (b : Block) (f : Sluice → Sluice) : (b.modSlc f).govHalted = b.govHalted := rfl
@[simp] theorem Block.modSlc_active (b : Block) (f : Sluice → Sluice) : (b.modSlc f).active = b.active := rfl
@[simp] theorem Block.modSlc_commit (b : Block) (f : Sluice → Sluice) : (b.modSlc f).commit = b.commit := rfl
@[simp] theorem Block.modSlc_dict (b : Block) (f : Sluice → Sluice) : (b.modSlc f).dict = b.dict := rfl
@[simp] theorem Block.modSlc_trust (b : Block) (f : Sluice → Sluice) : (b.modSlc f).trust = b.trust := rfl
@[simp] theorem Block.modSlc_tu (b : Block) (f : Sluice → Sluice) : (b.modSlc f).tu = b.tu := rfl
@[simp] theorem Block.modSlc_evt (b : Block) (f : Sluice → Sluice) : (b.modSlc f).evt = b.evt := rfl
@[simp] theorem Block.modSlc_imsic (b : Block) (f : Sluice → Sluice) : (b.modSlc f).imsic = b.imsic := rfl
@[simp] theorem Block.modSlc_mem (b : Block) (f : Sluice → Sluice) : (b.modSlc f).mem = b.mem := rfl
@[simp] theorem Block.modSlc_ms (b : Block) (f : Sluice → Sluice) : (b.modSlc f).ms = b.ms := rfl
@[simp] theorem Block.modSlc_coh (b : Block) (f : Sluice → Sluice) : (b.modSlc f).coh = b.coh := rfl
@[simp] theorem Block.modSlc_svc (b : Block) (f : Sluice → Sluice) : (b.modSlc f).svc = b.svc := rfl
@[simp] theorem Block.modSlc_lvp (b : Block) (f : Sluice → Sluice) : (b.modSlc f).lvp = b.lvp := rfl
@[simp] theorem Block.modSlc_pci (b : Block) (f : Sluice → Sluice) : (b.modSlc f).pci = b.pci := rfl
@[simp] theorem Block.modSlc_sails (b : Block) (f : Sluice → Sluice) : (b.modSlc f).sails = b.sails := rfl
@[simp] theorem Block.modSlc_harts (b : Block) (f : Sluice → Sluice) : (b.modSlc f).harts = b.harts := rfl
@[simp] theorem Block.modSlc_iot (b : Block) (f : Sluice → Sluice) : (b.modSlc f).iot = b.iot := rfl
@[simp] theorem Block.modSlc_msts (b : Block) (f : Sluice → Sluice) : (b.modSlc f).msts = b.msts := rfl
@[simp] theorem Block.modSlc_scr (b : Block) (f : Sluice → Sluice) : (b.modSlc f).scr = b.scr := rfl
@[simp] theorem Block.modSlc_mesh (b : Block) (f : Sluice → Sluice) : (b.modSlc f).mesh = b.mesh := rfl
@[simp] theorem Block.modSlc_net (b : Block) (f : Sluice → Sluice) : (b.modSlc f).net = b.net := rfl
@[simp] theorem Block.modSlc_parts (b : Block) (f : Sluice → Sluice) : (b.modSlc f).parts = b.parts := rfl
@[simp] theorem Block.modSlc_blt (b : Block) (f : Sluice → Sluice) : (b.modSlc f).blt = b.blt := rfl
@[simp] theorem Block.modSlc_mbx (b : Block) (f : Sluice → Sluice) : (b.modSlc f).mbx = b.mbx := rfl
@[simp] theorem Block.modSlc_gov (b : Block) (f : Sluice → Sluice) : (b.modSlc f).gov = b.gov := rfl

@[simp] theorem Block.modMesh_dev (b : Block) (f : Mesh → Mesh) : (b.modMesh f).dev = b.dev := rfl
@[simp] theorem Block.modMesh_prev (b : Block) (f : Mesh → Mesh) : (b.modMesh f).prev = b.prev := rfl
@[simp] theorem Block.modMesh_regs (b : Block) (f : Mesh → Mesh) : (b.modMesh f).regs = b.regs := rfl
@[simp] theorem Block.modMesh_out (b : Block) (f : Mesh → Mesh) : (b.modMesh f).out = b.out := rfl
@[simp] theorem Block.modMesh_free (b : Block) (f : Mesh → Mesh) : (b.modMesh f).free = b.free := rfl
@[simp] theorem Block.modMesh_otp (b : Block) (f : Mesh → Mesh) : (b.modMesh f).otp = b.otp := rfl
@[simp] theorem Block.modMesh_pwr (b : Block) (f : Mesh → Mesh) : (b.modMesh f).pwr = b.pwr := rfl
@[simp] theorem Block.modMesh_flog (b : Block) (f : Mesh → Mesh) : (b.modMesh f).flog = b.flog := rfl
@[simp] theorem Block.modMesh_timeBase (b : Block) (f : Mesh → Mesh) : (b.modMesh f).timeBase = b.timeBase := rfl
@[simp] theorem Block.modMesh_govHalted (b : Block) (f : Mesh → Mesh) : (b.modMesh f).govHalted = b.govHalted := rfl
@[simp] theorem Block.modMesh_active (b : Block) (f : Mesh → Mesh) : (b.modMesh f).active = b.active := rfl
@[simp] theorem Block.modMesh_commit (b : Block) (f : Mesh → Mesh) : (b.modMesh f).commit = b.commit := rfl
@[simp] theorem Block.modMesh_dict (b : Block) (f : Mesh → Mesh) : (b.modMesh f).dict = b.dict := rfl
@[simp] theorem Block.modMesh_trust (b : Block) (f : Mesh → Mesh) : (b.modMesh f).trust = b.trust := rfl
@[simp] theorem Block.modMesh_tu (b : Block) (f : Mesh → Mesh) : (b.modMesh f).tu = b.tu := rfl
@[simp] theorem Block.modMesh_evt (b : Block) (f : Mesh → Mesh) : (b.modMesh f).evt = b.evt := rfl
@[simp] theorem Block.modMesh_imsic (b : Block) (f : Mesh → Mesh) : (b.modMesh f).imsic = b.imsic := rfl
@[simp] theorem Block.modMesh_mem (b : Block) (f : Mesh → Mesh) : (b.modMesh f).mem = b.mem := rfl
@[simp] theorem Block.modMesh_ms (b : Block) (f : Mesh → Mesh) : (b.modMesh f).ms = b.ms := rfl
@[simp] theorem Block.modMesh_coh (b : Block) (f : Mesh → Mesh) : (b.modMesh f).coh = b.coh := rfl
@[simp] theorem Block.modMesh_svc (b : Block) (f : Mesh → Mesh) : (b.modMesh f).svc = b.svc := rfl
@[simp] theorem Block.modMesh_lvp (b : Block) (f : Mesh → Mesh) : (b.modMesh f).lvp = b.lvp := rfl
@[simp] theorem Block.modMesh_slc (b : Block) (f : Mesh → Mesh) : (b.modMesh f).slc = b.slc := rfl
@[simp] theorem Block.modMesh_pci (b : Block) (f : Mesh → Mesh) : (b.modMesh f).pci = b.pci := rfl
@[simp] theorem Block.modMesh_sails (b : Block) (f : Mesh → Mesh) : (b.modMesh f).sails = b.sails := rfl
@[simp] theorem Block.modMesh_harts (b : Block) (f : Mesh → Mesh) : (b.modMesh f).harts = b.harts := rfl
@[simp] theorem Block.modMesh_iot (b : Block) (f : Mesh → Mesh) : (b.modMesh f).iot = b.iot := rfl
@[simp] theorem Block.modMesh_msts (b : Block) (f : Mesh → Mesh) : (b.modMesh f).msts = b.msts := rfl
@[simp] theorem Block.modMesh_scr (b : Block) (f : Mesh → Mesh) : (b.modMesh f).scr = b.scr := rfl
@[simp] theorem Block.modMesh_net (b : Block) (f : Mesh → Mesh) : (b.modMesh f).net = b.net := rfl
@[simp] theorem Block.modMesh_parts (b : Block) (f : Mesh → Mesh) : (b.modMesh f).parts = b.parts := rfl
@[simp] theorem Block.modMesh_blt (b : Block) (f : Mesh → Mesh) : (b.modMesh f).blt = b.blt := rfl
@[simp] theorem Block.modMesh_mbx (b : Block) (f : Mesh → Mesh) : (b.modMesh f).mbx = b.mbx := rfl
@[simp] theorem Block.modMesh_gov (b : Block) (f : Mesh → Mesh) : (b.modMesh f).gov = b.gov := rfl

@[simp] theorem Block.modTrust_dev (b : Block) (f : Trust → Trust) : (b.modTrust f).dev = b.dev := rfl
@[simp] theorem Block.modTrust_prev (b : Block) (f : Trust → Trust) : (b.modTrust f).prev = b.prev := rfl
@[simp] theorem Block.modTrust_regs (b : Block) (f : Trust → Trust) : (b.modTrust f).regs = b.regs := rfl
@[simp] theorem Block.modTrust_out (b : Block) (f : Trust → Trust) : (b.modTrust f).out = b.out := rfl
@[simp] theorem Block.modTrust_free (b : Block) (f : Trust → Trust) : (b.modTrust f).free = b.free := rfl
@[simp] theorem Block.modTrust_otp (b : Block) (f : Trust → Trust) : (b.modTrust f).otp = b.otp := rfl
@[simp] theorem Block.modTrust_pwr (b : Block) (f : Trust → Trust) : (b.modTrust f).pwr = b.pwr := rfl
@[simp] theorem Block.modTrust_flog (b : Block) (f : Trust → Trust) : (b.modTrust f).flog = b.flog := rfl
@[simp] theorem Block.modTrust_timeBase (b : Block) (f : Trust → Trust) : (b.modTrust f).timeBase = b.timeBase := rfl
@[simp] theorem Block.modTrust_govHalted (b : Block) (f : Trust → Trust) : (b.modTrust f).govHalted = b.govHalted := rfl
@[simp] theorem Block.modTrust_active (b : Block) (f : Trust → Trust) : (b.modTrust f).active = b.active := rfl
@[simp] theorem Block.modTrust_commit (b : Block) (f : Trust → Trust) : (b.modTrust f).commit = b.commit := rfl
@[simp] theorem Block.modTrust_dict (b : Block) (f : Trust → Trust) : (b.modTrust f).dict = b.dict := rfl
@[simp] theorem Block.modTrust_tu (b : Block) (f : Trust → Trust) : (b.modTrust f).tu = b.tu := rfl
@[simp] theorem Block.modTrust_evt (b : Block) (f : Trust → Trust) : (b.modTrust f).evt = b.evt := rfl
@[simp] theorem Block.modTrust_imsic (b : Block) (f : Trust → Trust) : (b.modTrust f).imsic = b.imsic := rfl
@[simp] theorem Block.modTrust_mem (b : Block) (f : Trust → Trust) : (b.modTrust f).mem = b.mem := rfl
@[simp] theorem Block.modTrust_ms (b : Block) (f : Trust → Trust) : (b.modTrust f).ms = b.ms := rfl
@[simp] theorem Block.modTrust_coh (b : Block) (f : Trust → Trust) : (b.modTrust f).coh = b.coh := rfl
@[simp] theorem Block.modTrust_svc (b : Block) (f : Trust → Trust) : (b.modTrust f).svc = b.svc := rfl
@[simp] theorem Block.modTrust_lvp (b : Block) (f : Trust → Trust) : (b.modTrust f).lvp = b.lvp := rfl
@[simp] theorem Block.modTrust_slc (b : Block) (f : Trust → Trust) : (b.modTrust f).slc = b.slc := rfl
@[simp] theorem Block.modTrust_pci (b : Block) (f : Trust → Trust) : (b.modTrust f).pci = b.pci := rfl
@[simp] theorem Block.modTrust_sails (b : Block) (f : Trust → Trust) : (b.modTrust f).sails = b.sails := rfl
@[simp] theorem Block.modTrust_harts (b : Block) (f : Trust → Trust) : (b.modTrust f).harts = b.harts := rfl
@[simp] theorem Block.modTrust_iot (b : Block) (f : Trust → Trust) : (b.modTrust f).iot = b.iot := rfl
@[simp] theorem Block.modTrust_msts (b : Block) (f : Trust → Trust) : (b.modTrust f).msts = b.msts := rfl
@[simp] theorem Block.modTrust_scr (b : Block) (f : Trust → Trust) : (b.modTrust f).scr = b.scr := rfl
@[simp] theorem Block.modTrust_mesh (b : Block) (f : Trust → Trust) : (b.modTrust f).mesh = b.mesh := rfl
@[simp] theorem Block.modTrust_net (b : Block) (f : Trust → Trust) : (b.modTrust f).net = b.net := rfl
@[simp] theorem Block.modTrust_parts (b : Block) (f : Trust → Trust) : (b.modTrust f).parts = b.parts := rfl
@[simp] theorem Block.modTrust_blt (b : Block) (f : Trust → Trust) : (b.modTrust f).blt = b.blt := rfl
@[simp] theorem Block.modTrust_mbx (b : Block) (f : Trust → Trust) : (b.modTrust f).mbx = b.mbx := rfl
@[simp] theorem Block.modTrust_gov (b : Block) (f : Trust → Trust) : (b.modTrust f).gov = b.gov := rfl

@[simp] theorem Block.modCoh_dev (b : Block) (f : Coh → Coh) : (b.modCoh f).dev = b.dev := rfl
@[simp] theorem Block.modCoh_prev (b : Block) (f : Coh → Coh) : (b.modCoh f).prev = b.prev := rfl
@[simp] theorem Block.modCoh_regs (b : Block) (f : Coh → Coh) : (b.modCoh f).regs = b.regs := rfl
@[simp] theorem Block.modCoh_out (b : Block) (f : Coh → Coh) : (b.modCoh f).out = b.out := rfl
@[simp] theorem Block.modCoh_free (b : Block) (f : Coh → Coh) : (b.modCoh f).free = b.free := rfl
@[simp] theorem Block.modCoh_otp (b : Block) (f : Coh → Coh) : (b.modCoh f).otp = b.otp := rfl
@[simp] theorem Block.modCoh_pwr (b : Block) (f : Coh → Coh) : (b.modCoh f).pwr = b.pwr := rfl
@[simp] theorem Block.modCoh_flog (b : Block) (f : Coh → Coh) : (b.modCoh f).flog = b.flog := rfl
@[simp] theorem Block.modCoh_timeBase (b : Block) (f : Coh → Coh) : (b.modCoh f).timeBase = b.timeBase := rfl
@[simp] theorem Block.modCoh_govHalted (b : Block) (f : Coh → Coh) : (b.modCoh f).govHalted = b.govHalted := rfl
@[simp] theorem Block.modCoh_active (b : Block) (f : Coh → Coh) : (b.modCoh f).active = b.active := rfl
@[simp] theorem Block.modCoh_commit (b : Block) (f : Coh → Coh) : (b.modCoh f).commit = b.commit := rfl
@[simp] theorem Block.modCoh_dict (b : Block) (f : Coh → Coh) : (b.modCoh f).dict = b.dict := rfl
@[simp] theorem Block.modCoh_trust (b : Block) (f : Coh → Coh) : (b.modCoh f).trust = b.trust := rfl
@[simp] theorem Block.modCoh_tu (b : Block) (f : Coh → Coh) : (b.modCoh f).tu = b.tu := rfl
@[simp] theorem Block.modCoh_evt (b : Block) (f : Coh → Coh) : (b.modCoh f).evt = b.evt := rfl
@[simp] theorem Block.modCoh_imsic (b : Block) (f : Coh → Coh) : (b.modCoh f).imsic = b.imsic := rfl
@[simp] theorem Block.modCoh_mem (b : Block) (f : Coh → Coh) : (b.modCoh f).mem = b.mem := rfl
@[simp] theorem Block.modCoh_ms (b : Block) (f : Coh → Coh) : (b.modCoh f).ms = b.ms := rfl
@[simp] theorem Block.modCoh_svc (b : Block) (f : Coh → Coh) : (b.modCoh f).svc = b.svc := rfl
@[simp] theorem Block.modCoh_lvp (b : Block) (f : Coh → Coh) : (b.modCoh f).lvp = b.lvp := rfl
@[simp] theorem Block.modCoh_slc (b : Block) (f : Coh → Coh) : (b.modCoh f).slc = b.slc := rfl
@[simp] theorem Block.modCoh_pci (b : Block) (f : Coh → Coh) : (b.modCoh f).pci = b.pci := rfl
@[simp] theorem Block.modCoh_sails (b : Block) (f : Coh → Coh) : (b.modCoh f).sails = b.sails := rfl
@[simp] theorem Block.modCoh_harts (b : Block) (f : Coh → Coh) : (b.modCoh f).harts = b.harts := rfl
@[simp] theorem Block.modCoh_iot (b : Block) (f : Coh → Coh) : (b.modCoh f).iot = b.iot := rfl
@[simp] theorem Block.modCoh_msts (b : Block) (f : Coh → Coh) : (b.modCoh f).msts = b.msts := rfl
@[simp] theorem Block.modCoh_scr (b : Block) (f : Coh → Coh) : (b.modCoh f).scr = b.scr := rfl
@[simp] theorem Block.modCoh_mesh (b : Block) (f : Coh → Coh) : (b.modCoh f).mesh = b.mesh := rfl
@[simp] theorem Block.modCoh_net (b : Block) (f : Coh → Coh) : (b.modCoh f).net = b.net := rfl
@[simp] theorem Block.modCoh_parts (b : Block) (f : Coh → Coh) : (b.modCoh f).parts = b.parts := rfl
@[simp] theorem Block.modCoh_blt (b : Block) (f : Coh → Coh) : (b.modCoh f).blt = b.blt := rfl
@[simp] theorem Block.modCoh_mbx (b : Block) (f : Coh → Coh) : (b.modCoh f).mbx = b.mbx := rfl
@[simp] theorem Block.modCoh_gov (b : Block) (f : Coh → Coh) : (b.modCoh f).gov = b.gov := rfl

@[simp] theorem Block.modLvp_dev (b : Block) (f : Leavo → Leavo) : (b.modLvp f).dev = b.dev := rfl
@[simp] theorem Block.modLvp_prev (b : Block) (f : Leavo → Leavo) : (b.modLvp f).prev = b.prev := rfl
@[simp] theorem Block.modLvp_regs (b : Block) (f : Leavo → Leavo) : (b.modLvp f).regs = b.regs := rfl
@[simp] theorem Block.modLvp_out (b : Block) (f : Leavo → Leavo) : (b.modLvp f).out = b.out := rfl
@[simp] theorem Block.modLvp_free (b : Block) (f : Leavo → Leavo) : (b.modLvp f).free = b.free := rfl
@[simp] theorem Block.modLvp_otp (b : Block) (f : Leavo → Leavo) : (b.modLvp f).otp = b.otp := rfl
@[simp] theorem Block.modLvp_pwr (b : Block) (f : Leavo → Leavo) : (b.modLvp f).pwr = b.pwr := rfl
@[simp] theorem Block.modLvp_flog (b : Block) (f : Leavo → Leavo) : (b.modLvp f).flog = b.flog := rfl
@[simp] theorem Block.modLvp_timeBase (b : Block) (f : Leavo → Leavo) : (b.modLvp f).timeBase = b.timeBase := rfl
@[simp] theorem Block.modLvp_govHalted (b : Block) (f : Leavo → Leavo) : (b.modLvp f).govHalted = b.govHalted := rfl
@[simp] theorem Block.modLvp_active (b : Block) (f : Leavo → Leavo) : (b.modLvp f).active = b.active := rfl
@[simp] theorem Block.modLvp_commit (b : Block) (f : Leavo → Leavo) : (b.modLvp f).commit = b.commit := rfl
@[simp] theorem Block.modLvp_dict (b : Block) (f : Leavo → Leavo) : (b.modLvp f).dict = b.dict := rfl
@[simp] theorem Block.modLvp_trust (b : Block) (f : Leavo → Leavo) : (b.modLvp f).trust = b.trust := rfl
@[simp] theorem Block.modLvp_tu (b : Block) (f : Leavo → Leavo) : (b.modLvp f).tu = b.tu := rfl
@[simp] theorem Block.modLvp_evt (b : Block) (f : Leavo → Leavo) : (b.modLvp f).evt = b.evt := rfl
@[simp] theorem Block.modLvp_imsic (b : Block) (f : Leavo → Leavo) : (b.modLvp f).imsic = b.imsic := rfl
@[simp] theorem Block.modLvp_mem (b : Block) (f : Leavo → Leavo) : (b.modLvp f).mem = b.mem := rfl
@[simp] theorem Block.modLvp_ms (b : Block) (f : Leavo → Leavo) : (b.modLvp f).ms = b.ms := rfl
@[simp] theorem Block.modLvp_coh (b : Block) (f : Leavo → Leavo) : (b.modLvp f).coh = b.coh := rfl
@[simp] theorem Block.modLvp_svc (b : Block) (f : Leavo → Leavo) : (b.modLvp f).svc = b.svc := rfl
@[simp] theorem Block.modLvp_slc (b : Block) (f : Leavo → Leavo) : (b.modLvp f).slc = b.slc := rfl
@[simp] theorem Block.modLvp_pci (b : Block) (f : Leavo → Leavo) : (b.modLvp f).pci = b.pci := rfl
@[simp] theorem Block.modLvp_sails (b : Block) (f : Leavo → Leavo) : (b.modLvp f).sails = b.sails := rfl
@[simp] theorem Block.modLvp_harts (b : Block) (f : Leavo → Leavo) : (b.modLvp f).harts = b.harts := rfl
@[simp] theorem Block.modLvp_iot (b : Block) (f : Leavo → Leavo) : (b.modLvp f).iot = b.iot := rfl
@[simp] theorem Block.modLvp_msts (b : Block) (f : Leavo → Leavo) : (b.modLvp f).msts = b.msts := rfl
@[simp] theorem Block.modLvp_scr (b : Block) (f : Leavo → Leavo) : (b.modLvp f).scr = b.scr := rfl
@[simp] theorem Block.modLvp_mesh (b : Block) (f : Leavo → Leavo) : (b.modLvp f).mesh = b.mesh := rfl
@[simp] theorem Block.modLvp_net (b : Block) (f : Leavo → Leavo) : (b.modLvp f).net = b.net := rfl
@[simp] theorem Block.modLvp_parts (b : Block) (f : Leavo → Leavo) : (b.modLvp f).parts = b.parts := rfl
@[simp] theorem Block.modLvp_blt (b : Block) (f : Leavo → Leavo) : (b.modLvp f).blt = b.blt := rfl
@[simp] theorem Block.modLvp_mbx (b : Block) (f : Leavo → Leavo) : (b.modLvp f).mbx = b.mbx := rfl
@[simp] theorem Block.modLvp_gov (b : Block) (f : Leavo → Leavo) : (b.modLvp f).gov = b.gov := rfl

@[simp] theorem Block.modIot_dev (b : Block) (f : Iot → Iot) : (b.modIot f).dev = b.dev := rfl
@[simp] theorem Block.modIot_prev (b : Block) (f : Iot → Iot) : (b.modIot f).prev = b.prev := rfl
@[simp] theorem Block.modIot_regs (b : Block) (f : Iot → Iot) : (b.modIot f).regs = b.regs := rfl
@[simp] theorem Block.modIot_out (b : Block) (f : Iot → Iot) : (b.modIot f).out = b.out := rfl
@[simp] theorem Block.modIot_free (b : Block) (f : Iot → Iot) : (b.modIot f).free = b.free := rfl
@[simp] theorem Block.modIot_otp (b : Block) (f : Iot → Iot) : (b.modIot f).otp = b.otp := rfl
@[simp] theorem Block.modIot_pwr (b : Block) (f : Iot → Iot) : (b.modIot f).pwr = b.pwr := rfl
@[simp] theorem Block.modIot_flog (b : Block) (f : Iot → Iot) : (b.modIot f).flog = b.flog := rfl
@[simp] theorem Block.modIot_timeBase (b : Block) (f : Iot → Iot) : (b.modIot f).timeBase = b.timeBase := rfl
@[simp] theorem Block.modIot_govHalted (b : Block) (f : Iot → Iot) : (b.modIot f).govHalted = b.govHalted := rfl
@[simp] theorem Block.modIot_active (b : Block) (f : Iot → Iot) : (b.modIot f).active = b.active := rfl
@[simp] theorem Block.modIot_commit (b : Block) (f : Iot → Iot) : (b.modIot f).commit = b.commit := rfl
@[simp] theorem Block.modIot_dict (b : Block) (f : Iot → Iot) : (b.modIot f).dict = b.dict := rfl
@[simp] theorem Block.modIot_trust (b : Block) (f : Iot → Iot) : (b.modIot f).trust = b.trust := rfl
@[simp] theorem Block.modIot_tu (b : Block) (f : Iot → Iot) : (b.modIot f).tu = b.tu := rfl
@[simp] theorem Block.modIot_evt (b : Block) (f : Iot → Iot) : (b.modIot f).evt = b.evt := rfl
@[simp] theorem Block.modIot_imsic (b : Block) (f : Iot → Iot) : (b.modIot f).imsic = b.imsic := rfl
@[simp] theorem Block.modIot_mem (b : Block) (f : Iot → Iot) : (b.modIot f).mem = b.mem := rfl
@[simp] theorem Block.modIot_ms (b : Block) (f : Iot → Iot) : (b.modIot f).ms = b.ms := rfl
@[simp] theorem Block.modIot_coh (b : Block) (f : Iot → Iot) : (b.modIot f).coh = b.coh := rfl
@[simp] theorem Block.modIot_svc (b : Block) (f : Iot → Iot) : (b.modIot f).svc = b.svc := rfl
@[simp] theorem Block.modIot_lvp (b : Block) (f : Iot → Iot) : (b.modIot f).lvp = b.lvp := rfl
@[simp] theorem Block.modIot_slc (b : Block) (f : Iot → Iot) : (b.modIot f).slc = b.slc := rfl
@[simp] theorem Block.modIot_pci (b : Block) (f : Iot → Iot) : (b.modIot f).pci = b.pci := rfl
@[simp] theorem Block.modIot_sails (b : Block) (f : Iot → Iot) : (b.modIot f).sails = b.sails := rfl
@[simp] theorem Block.modIot_harts (b : Block) (f : Iot → Iot) : (b.modIot f).harts = b.harts := rfl
@[simp] theorem Block.modIot_msts (b : Block) (f : Iot → Iot) : (b.modIot f).msts = b.msts := rfl
@[simp] theorem Block.modIot_scr (b : Block) (f : Iot → Iot) : (b.modIot f).scr = b.scr := rfl
@[simp] theorem Block.modIot_mesh (b : Block) (f : Iot → Iot) : (b.modIot f).mesh = b.mesh := rfl
@[simp] theorem Block.modIot_net (b : Block) (f : Iot → Iot) : (b.modIot f).net = b.net := rfl
@[simp] theorem Block.modIot_parts (b : Block) (f : Iot → Iot) : (b.modIot f).parts = b.parts := rfl
@[simp] theorem Block.modIot_blt (b : Block) (f : Iot → Iot) : (b.modIot f).blt = b.blt := rfl
@[simp] theorem Block.modIot_mbx (b : Block) (f : Iot → Iot) : (b.modIot f).mbx = b.mbx := rfl
@[simp] theorem Block.modIot_gov (b : Block) (f : Iot → Iot) : (b.modIot f).gov = b.gov := rfl

@[simp] theorem Block.modPci_dev (b : Block) (f : Pci → Pci) : (b.modPci f).dev = b.dev := rfl
@[simp] theorem Block.modPci_prev (b : Block) (f : Pci → Pci) : (b.modPci f).prev = b.prev := rfl
@[simp] theorem Block.modPci_regs (b : Block) (f : Pci → Pci) : (b.modPci f).regs = b.regs := rfl
@[simp] theorem Block.modPci_out (b : Block) (f : Pci → Pci) : (b.modPci f).out = b.out := rfl
@[simp] theorem Block.modPci_free (b : Block) (f : Pci → Pci) : (b.modPci f).free = b.free := rfl
@[simp] theorem Block.modPci_otp (b : Block) (f : Pci → Pci) : (b.modPci f).otp = b.otp := rfl
@[simp] theorem Block.modPci_pwr (b : Block) (f : Pci → Pci) : (b.modPci f).pwr = b.pwr := rfl
@[simp] theorem Block.modPci_flog (b : Block) (f : Pci → Pci) : (b.modPci f).flog = b.flog := rfl
@[simp] theorem Block.modPci_timeBase (b : Block) (f : Pci → Pci) : (b.modPci f).timeBase = b.timeBase := rfl
@[simp] theorem Block.modPci_govHalted (b : Block) (f : Pci → Pci) : (b.modPci f).govHalted = b.govHalted := rfl
@[simp] theorem Block.modPci_active (b : Block) (f : Pci → Pci) : (b.modPci f).active = b.active := rfl
@[simp] theorem Block.modPci_commit (b : Block) (f : Pci → Pci) : (b.modPci f).commit = b.commit := rfl
@[simp] theorem Block.modPci_dict (b : Block) (f : Pci → Pci) : (b.modPci f).dict = b.dict := rfl
@[simp] theorem Block.modPci_trust (b : Block) (f : Pci → Pci) : (b.modPci f).trust = b.trust := rfl
@[simp] theorem Block.modPci_tu (b : Block) (f : Pci → Pci) : (b.modPci f).tu = b.tu := rfl
@[simp] theorem Block.modPci_evt (b : Block) (f : Pci → Pci) : (b.modPci f).evt = b.evt := rfl
@[simp] theorem Block.modPci_imsic (b : Block) (f : Pci → Pci) : (b.modPci f).imsic = b.imsic := rfl
@[simp] theorem Block.modPci_mem (b : Block) (f : Pci → Pci) : (b.modPci f).mem = b.mem := rfl
@[simp] theorem Block.modPci_ms (b : Block) (f : Pci → Pci) : (b.modPci f).ms = b.ms := rfl
@[simp] theorem Block.modPci_coh (b : Block) (f : Pci → Pci) : (b.modPci f).coh = b.coh := rfl
@[simp] theorem Block.modPci_svc (b : Block) (f : Pci → Pci) : (b.modPci f).svc = b.svc := rfl
@[simp] theorem Block.modPci_lvp (b : Block) (f : Pci → Pci) : (b.modPci f).lvp = b.lvp := rfl
@[simp] theorem Block.modPci_slc (b : Block) (f : Pci → Pci) : (b.modPci f).slc = b.slc := rfl
@[simp] theorem Block.modPci_sails (b : Block) (f : Pci → Pci) : (b.modPci f).sails = b.sails := rfl
@[simp] theorem Block.modPci_harts (b : Block) (f : Pci → Pci) : (b.modPci f).harts = b.harts := rfl
@[simp] theorem Block.modPci_iot (b : Block) (f : Pci → Pci) : (b.modPci f).iot = b.iot := rfl
@[simp] theorem Block.modPci_msts (b : Block) (f : Pci → Pci) : (b.modPci f).msts = b.msts := rfl
@[simp] theorem Block.modPci_scr (b : Block) (f : Pci → Pci) : (b.modPci f).scr = b.scr := rfl
@[simp] theorem Block.modPci_mesh (b : Block) (f : Pci → Pci) : (b.modPci f).mesh = b.mesh := rfl
@[simp] theorem Block.modPci_net (b : Block) (f : Pci → Pci) : (b.modPci f).net = b.net := rfl
@[simp] theorem Block.modPci_parts (b : Block) (f : Pci → Pci) : (b.modPci f).parts = b.parts := rfl
@[simp] theorem Block.modPci_blt (b : Block) (f : Pci → Pci) : (b.modPci f).blt = b.blt := rfl
@[simp] theorem Block.modPci_mbx (b : Block) (f : Pci → Pci) : (b.modPci f).mbx = b.mbx := rfl
@[simp] theorem Block.modPci_gov (b : Block) (f : Pci → Pci) : (b.modPci f).gov = b.gov := rfl

@[simp] theorem Block.modHart_dev (b : Block) (h : Nat) (f : Hart → Hart) : (b.modHart h f).dev = b.dev := rfl
@[simp] theorem Block.modHart_prev (b : Block) (h : Nat) (f : Hart → Hart) : (b.modHart h f).prev = b.prev := rfl
@[simp] theorem Block.modHart_regs (b : Block) (h : Nat) (f : Hart → Hart) : (b.modHart h f).regs = b.regs := rfl
@[simp] theorem Block.modHart_out (b : Block) (h : Nat) (f : Hart → Hart) : (b.modHart h f).out = b.out := rfl
@[simp] theorem Block.modHart_free (b : Block) (h : Nat) (f : Hart → Hart) : (b.modHart h f).free = b.free := rfl
@[simp] theorem Block.modHart_otp (b : Block) (h : Nat) (f : Hart → Hart) : (b.modHart h f).otp = b.otp := rfl
@[simp] theorem Block.modHart_pwr (b : Block) (h : Nat) (f : Hart → Hart) : (b.modHart h f).pwr = b.pwr := rfl
@[simp] theorem Block.modHart_flog (b : Block) (h : Nat) (f : Hart → Hart) : (b.modHart h f).flog = b.flog := rfl
@[simp] theorem Block.modHart_timeBase (b : Block) (h : Nat) (f : Hart → Hart) : (b.modHart h f).timeBase = b.timeBase := rfl
@[simp] theorem Block.modHart_govHalted (b : Block) (h : Nat) (f : Hart → Hart) : (b.modHart h f).govHalted = b.govHalted := rfl
@[simp] theorem Block.modHart_active (b : Block) (h : Nat) (f : Hart → Hart) : (b.modHart h f).active = b.active := rfl
@[simp] theorem Block.modHart_commit (b : Block) (h : Nat) (f : Hart → Hart) : (b.modHart h f).commit = b.commit := rfl
@[simp] theorem Block.modHart_dict (b : Block) (h : Nat) (f : Hart → Hart) : (b.modHart h f).dict = b.dict := rfl
@[simp] theorem Block.modHart_trust (b : Block) (h : Nat) (f : Hart → Hart) : (b.modHart h f).trust = b.trust := rfl
@[simp] theorem Block.modHart_tu (b : Block) (h : Nat) (f : Hart → Hart) : (b.modHart h f).tu = b.tu := rfl
@[simp] theorem Block.modHart_evt (b : Block) (h : Nat) (f : Hart → Hart) : (b.modHart h f).evt = b.evt := rfl
@[simp] theorem Block.modHart_imsic (b : Block) (h : Nat) (f : Hart → Hart) : (b.modHart h f).imsic = b.imsic := rfl
@[simp] theorem Block.modHart_mem (b : Block) (h : Nat) (f : Hart → Hart) : (b.modHart h f).mem = b.mem := rfl
@[simp] theorem Block.modHart_ms (b : Block) (h : Nat) (f : Hart → Hart) : (b.modHart h f).ms = b.ms := rfl
@[simp] theorem Block.modHart_coh (b : Block) (h : Nat) (f : Hart → Hart) : (b.modHart h f).coh = b.coh := rfl
@[simp] theorem Block.modHart_svc (b : Block) (h : Nat) (f : Hart → Hart) : (b.modHart h f).svc = b.svc := rfl
@[simp] theorem Block.modHart_lvp (b : Block) (h : Nat) (f : Hart → Hart) : (b.modHart h f).lvp = b.lvp := rfl
@[simp] theorem Block.modHart_slc (b : Block) (h : Nat) (f : Hart → Hart) : (b.modHart h f).slc = b.slc := rfl
@[simp] theorem Block.modHart_pci (b : Block) (h : Nat) (f : Hart → Hart) : (b.modHart h f).pci = b.pci := rfl
@[simp] theorem Block.modHart_sails (b : Block) (h : Nat) (f : Hart → Hart) : (b.modHart h f).sails = b.sails := rfl
@[simp] theorem Block.modHart_iot (b : Block) (h : Nat) (f : Hart → Hart) : (b.modHart h f).iot = b.iot := rfl
@[simp] theorem Block.modHart_msts (b : Block) (h : Nat) (f : Hart → Hart) : (b.modHart h f).msts = b.msts := rfl
@[simp] theorem Block.modHart_scr (b : Block) (h : Nat) (f : Hart → Hart) : (b.modHart h f).scr = b.scr := rfl
@[simp] theorem Block.modHart_mesh (b : Block) (h : Nat) (f : Hart → Hart) : (b.modHart h f).mesh = b.mesh := rfl
@[simp] theorem Block.modHart_net (b : Block) (h : Nat) (f : Hart → Hart) : (b.modHart h f).net = b.net := rfl
@[simp] theorem Block.modHart_parts (b : Block) (h : Nat) (f : Hart → Hart) : (b.modHart h f).parts = b.parts := rfl
@[simp] theorem Block.modHart_blt (b : Block) (h : Nat) (f : Hart → Hart) : (b.modHart h f).blt = b.blt := rfl
@[simp] theorem Block.modHart_mbx (b : Block) (h : Nat) (f : Hart → Hart) : (b.modHart h f).mbx = b.mbx := rfl
@[simp] theorem Block.modHart_gov (b : Block) (h : Nat) (f : Hart → Hart) : (b.modHart h f).gov = b.gov := rfl

@[simp] theorem Block.modSail_dev (b : Block) (n : Nat) (f : Sail → Sail) : (b.modSail n f).dev = b.dev := rfl
@[simp] theorem Block.modSail_prev (b : Block) (n : Nat) (f : Sail → Sail) : (b.modSail n f).prev = b.prev := rfl
@[simp] theorem Block.modSail_regs (b : Block) (n : Nat) (f : Sail → Sail) : (b.modSail n f).regs = b.regs := rfl
@[simp] theorem Block.modSail_out (b : Block) (n : Nat) (f : Sail → Sail) : (b.modSail n f).out = b.out := rfl
@[simp] theorem Block.modSail_free (b : Block) (n : Nat) (f : Sail → Sail) : (b.modSail n f).free = b.free := rfl
@[simp] theorem Block.modSail_otp (b : Block) (n : Nat) (f : Sail → Sail) : (b.modSail n f).otp = b.otp := rfl
@[simp] theorem Block.modSail_pwr (b : Block) (n : Nat) (f : Sail → Sail) : (b.modSail n f).pwr = b.pwr := rfl
@[simp] theorem Block.modSail_flog (b : Block) (n : Nat) (f : Sail → Sail) : (b.modSail n f).flog = b.flog := rfl
@[simp] theorem Block.modSail_timeBase (b : Block) (n : Nat) (f : Sail → Sail) : (b.modSail n f).timeBase = b.timeBase := rfl
@[simp] theorem Block.modSail_govHalted (b : Block) (n : Nat) (f : Sail → Sail) : (b.modSail n f).govHalted = b.govHalted := rfl
@[simp] theorem Block.modSail_active (b : Block) (n : Nat) (f : Sail → Sail) : (b.modSail n f).active = b.active := rfl
@[simp] theorem Block.modSail_commit (b : Block) (n : Nat) (f : Sail → Sail) : (b.modSail n f).commit = b.commit := rfl
@[simp] theorem Block.modSail_dict (b : Block) (n : Nat) (f : Sail → Sail) : (b.modSail n f).dict = b.dict := rfl
@[simp] theorem Block.modSail_trust (b : Block) (n : Nat) (f : Sail → Sail) : (b.modSail n f).trust = b.trust := rfl
@[simp] theorem Block.modSail_tu (b : Block) (n : Nat) (f : Sail → Sail) : (b.modSail n f).tu = b.tu := rfl
@[simp] theorem Block.modSail_evt (b : Block) (n : Nat) (f : Sail → Sail) : (b.modSail n f).evt = b.evt := rfl
@[simp] theorem Block.modSail_imsic (b : Block) (n : Nat) (f : Sail → Sail) : (b.modSail n f).imsic = b.imsic := rfl
@[simp] theorem Block.modSail_mem (b : Block) (n : Nat) (f : Sail → Sail) : (b.modSail n f).mem = b.mem := rfl
@[simp] theorem Block.modSail_ms (b : Block) (n : Nat) (f : Sail → Sail) : (b.modSail n f).ms = b.ms := rfl
@[simp] theorem Block.modSail_coh (b : Block) (n : Nat) (f : Sail → Sail) : (b.modSail n f).coh = b.coh := rfl
@[simp] theorem Block.modSail_svc (b : Block) (n : Nat) (f : Sail → Sail) : (b.modSail n f).svc = b.svc := rfl
@[simp] theorem Block.modSail_lvp (b : Block) (n : Nat) (f : Sail → Sail) : (b.modSail n f).lvp = b.lvp := rfl
@[simp] theorem Block.modSail_slc (b : Block) (n : Nat) (f : Sail → Sail) : (b.modSail n f).slc = b.slc := rfl
@[simp] theorem Block.modSail_pci (b : Block) (n : Nat) (f : Sail → Sail) : (b.modSail n f).pci = b.pci := rfl
@[simp] theorem Block.modSail_harts (b : Block) (n : Nat) (f : Sail → Sail) : (b.modSail n f).harts = b.harts := rfl
@[simp] theorem Block.modSail_iot (b : Block) (n : Nat) (f : Sail → Sail) : (b.modSail n f).iot = b.iot := rfl
@[simp] theorem Block.modSail_msts (b : Block) (n : Nat) (f : Sail → Sail) : (b.modSail n f).msts = b.msts := rfl
@[simp] theorem Block.modSail_scr (b : Block) (n : Nat) (f : Sail → Sail) : (b.modSail n f).scr = b.scr := rfl
@[simp] theorem Block.modSail_mesh (b : Block) (n : Nat) (f : Sail → Sail) : (b.modSail n f).mesh = b.mesh := rfl
@[simp] theorem Block.modSail_net (b : Block) (n : Nat) (f : Sail → Sail) : (b.modSail n f).net = b.net := rfl
@[simp] theorem Block.modSail_parts (b : Block) (n : Nat) (f : Sail → Sail) : (b.modSail n f).parts = b.parts := rfl
@[simp] theorem Block.modSail_blt (b : Block) (n : Nat) (f : Sail → Sail) : (b.modSail n f).blt = b.blt := rfl
@[simp] theorem Block.modSail_mbx (b : Block) (n : Nat) (f : Sail → Sail) : (b.modSail n f).mbx = b.mbx := rfl
@[simp] theorem Block.modSail_gov (b : Block) (n : Nat) (f : Sail → Sail) : (b.modSail n f).gov = b.gov := rfl

@[simp] theorem Block.modNet_dev (b : Block) (f : Net → Net) : (b.modNet f).dev = b.dev := rfl
@[simp] theorem Block.modNet_prev (b : Block) (f : Net → Net) : (b.modNet f).prev = b.prev := rfl
@[simp] theorem Block.modNet_regs (b : Block) (f : Net → Net) : (b.modNet f).regs = b.regs := rfl
@[simp] theorem Block.modNet_out (b : Block) (f : Net → Net) : (b.modNet f).out = b.out := rfl
@[simp] theorem Block.modNet_free (b : Block) (f : Net → Net) : (b.modNet f).free = b.free := rfl
@[simp] theorem Block.modNet_otp (b : Block) (f : Net → Net) : (b.modNet f).otp = b.otp := rfl
@[simp] theorem Block.modNet_pwr (b : Block) (f : Net → Net) : (b.modNet f).pwr = b.pwr := rfl
@[simp] theorem Block.modNet_flog (b : Block) (f : Net → Net) : (b.modNet f).flog = b.flog := rfl
@[simp] theorem Block.modNet_timeBase (b : Block) (f : Net → Net) : (b.modNet f).timeBase = b.timeBase := rfl
@[simp] theorem Block.modNet_govHalted (b : Block) (f : Net → Net) : (b.modNet f).govHalted = b.govHalted := rfl
@[simp] theorem Block.modNet_active (b : Block) (f : Net → Net) : (b.modNet f).active = b.active := rfl
@[simp] theorem Block.modNet_commit (b : Block) (f : Net → Net) : (b.modNet f).commit = b.commit := rfl
@[simp] theorem Block.modNet_dict (b : Block) (f : Net → Net) : (b.modNet f).dict = b.dict := rfl
@[simp] theorem Block.modNet_trust (b : Block) (f : Net → Net) : (b.modNet f).trust = b.trust := rfl
@[simp] theorem Block.modNet_tu (b : Block) (f : Net → Net) : (b.modNet f).tu = b.tu := rfl
@[simp] theorem Block.modNet_evt (b : Block) (f : Net → Net) : (b.modNet f).evt = b.evt := rfl
@[simp] theorem Block.modNet_imsic (b : Block) (f : Net → Net) : (b.modNet f).imsic = b.imsic := rfl
@[simp] theorem Block.modNet_mem (b : Block) (f : Net → Net) : (b.modNet f).mem = b.mem := rfl
@[simp] theorem Block.modNet_ms (b : Block) (f : Net → Net) : (b.modNet f).ms = b.ms := rfl
@[simp] theorem Block.modNet_coh (b : Block) (f : Net → Net) : (b.modNet f).coh = b.coh := rfl
@[simp] theorem Block.modNet_svc (b : Block) (f : Net → Net) : (b.modNet f).svc = b.svc := rfl
@[simp] theorem Block.modNet_lvp (b : Block) (f : Net → Net) : (b.modNet f).lvp = b.lvp := rfl
@[simp] theorem Block.modNet_slc (b : Block) (f : Net → Net) : (b.modNet f).slc = b.slc := rfl
@[simp] theorem Block.modNet_pci (b : Block) (f : Net → Net) : (b.modNet f).pci = b.pci := rfl
@[simp] theorem Block.modNet_sails (b : Block) (f : Net → Net) : (b.modNet f).sails = b.sails := rfl
@[simp] theorem Block.modNet_harts (b : Block) (f : Net → Net) : (b.modNet f).harts = b.harts := rfl
@[simp] theorem Block.modNet_iot (b : Block) (f : Net → Net) : (b.modNet f).iot = b.iot := rfl
@[simp] theorem Block.modNet_msts (b : Block) (f : Net → Net) : (b.modNet f).msts = b.msts := rfl
@[simp] theorem Block.modNet_scr (b : Block) (f : Net → Net) : (b.modNet f).scr = b.scr := rfl
@[simp] theorem Block.modNet_mesh (b : Block) (f : Net → Net) : (b.modNet f).mesh = b.mesh := rfl
@[simp] theorem Block.modNet_parts (b : Block) (f : Net → Net) : (b.modNet f).parts = b.parts := rfl
@[simp] theorem Block.modNet_blt (b : Block) (f : Net → Net) : (b.modNet f).blt = b.blt := rfl
@[simp] theorem Block.modNet_mbx (b : Block) (f : Net → Net) : (b.modNet f).mbx = b.mbx := rfl
@[simp] theorem Block.modNet_gov (b : Block) (f : Net → Net) : (b.modNet f).gov = b.gov := rfl

@[simp] theorem Block.modChan_dev (b : Block) (n : Nat) (f : Chan → Chan) : (b.modChan n f).dev = b.dev := rfl
@[simp] theorem Block.modChan_prev (b : Block) (n : Nat) (f : Chan → Chan) : (b.modChan n f).prev = b.prev := rfl
@[simp] theorem Block.modChan_regs (b : Block) (n : Nat) (f : Chan → Chan) : (b.modChan n f).regs = b.regs := rfl
@[simp] theorem Block.modChan_out (b : Block) (n : Nat) (f : Chan → Chan) : (b.modChan n f).out = b.out := rfl
@[simp] theorem Block.modChan_free (b : Block) (n : Nat) (f : Chan → Chan) : (b.modChan n f).free = b.free := rfl
@[simp] theorem Block.modChan_otp (b : Block) (n : Nat) (f : Chan → Chan) : (b.modChan n f).otp = b.otp := rfl
@[simp] theorem Block.modChan_pwr (b : Block) (n : Nat) (f : Chan → Chan) : (b.modChan n f).pwr = b.pwr := rfl
@[simp] theorem Block.modChan_flog (b : Block) (n : Nat) (f : Chan → Chan) : (b.modChan n f).flog = b.flog := rfl
@[simp] theorem Block.modChan_timeBase (b : Block) (n : Nat) (f : Chan → Chan) : (b.modChan n f).timeBase = b.timeBase := rfl
@[simp] theorem Block.modChan_govHalted (b : Block) (n : Nat) (f : Chan → Chan) : (b.modChan n f).govHalted = b.govHalted := rfl
@[simp] theorem Block.modChan_active (b : Block) (n : Nat) (f : Chan → Chan) : (b.modChan n f).active = b.active := rfl
@[simp] theorem Block.modChan_commit (b : Block) (n : Nat) (f : Chan → Chan) : (b.modChan n f).commit = b.commit := rfl
@[simp] theorem Block.modChan_dict (b : Block) (n : Nat) (f : Chan → Chan) : (b.modChan n f).dict = b.dict := rfl
@[simp] theorem Block.modChan_trust (b : Block) (n : Nat) (f : Chan → Chan) : (b.modChan n f).trust = b.trust := rfl
@[simp] theorem Block.modChan_tu (b : Block) (n : Nat) (f : Chan → Chan) : (b.modChan n f).tu = b.tu := rfl
@[simp] theorem Block.modChan_evt (b : Block) (n : Nat) (f : Chan → Chan) : (b.modChan n f).evt = b.evt := rfl
@[simp] theorem Block.modChan_imsic (b : Block) (n : Nat) (f : Chan → Chan) : (b.modChan n f).imsic = b.imsic := rfl
@[simp] theorem Block.modChan_mem (b : Block) (n : Nat) (f : Chan → Chan) : (b.modChan n f).mem = b.mem := rfl
@[simp] theorem Block.modChan_ms (b : Block) (n : Nat) (f : Chan → Chan) : (b.modChan n f).ms = b.ms := rfl
@[simp] theorem Block.modChan_coh (b : Block) (n : Nat) (f : Chan → Chan) : (b.modChan n f).coh = b.coh := rfl
@[simp] theorem Block.modChan_svc (b : Block) (n : Nat) (f : Chan → Chan) : (b.modChan n f).svc = b.svc := rfl
@[simp] theorem Block.modChan_lvp (b : Block) (n : Nat) (f : Chan → Chan) : (b.modChan n f).lvp = b.lvp := rfl
@[simp] theorem Block.modChan_slc (b : Block) (n : Nat) (f : Chan → Chan) : (b.modChan n f).slc = b.slc := rfl
@[simp] theorem Block.modChan_pci (b : Block) (n : Nat) (f : Chan → Chan) : (b.modChan n f).pci = b.pci := rfl
@[simp] theorem Block.modChan_sails (b : Block) (n : Nat) (f : Chan → Chan) : (b.modChan n f).sails = b.sails := rfl
@[simp] theorem Block.modChan_harts (b : Block) (n : Nat) (f : Chan → Chan) : (b.modChan n f).harts = b.harts := rfl
@[simp] theorem Block.modChan_iot (b : Block) (n : Nat) (f : Chan → Chan) : (b.modChan n f).iot = b.iot := rfl
@[simp] theorem Block.modChan_msts (b : Block) (n : Nat) (f : Chan → Chan) : (b.modChan n f).msts = b.msts := rfl
@[simp] theorem Block.modChan_scr (b : Block) (n : Nat) (f : Chan → Chan) : (b.modChan n f).scr = b.scr := rfl
@[simp] theorem Block.modChan_mesh (b : Block) (n : Nat) (f : Chan → Chan) : (b.modChan n f).mesh = b.mesh := rfl
@[simp] theorem Block.modChan_net (b : Block) (n : Nat) (f : Chan → Chan) : (b.modChan n f).net = b.net := rfl
@[simp] theorem Block.modChan_parts (b : Block) (n : Nat) (f : Chan → Chan) : (b.modChan n f).parts = b.parts := rfl
@[simp] theorem Block.modChan_blt (b : Block) (n : Nat) (f : Chan → Chan) : (b.modChan n f).blt = b.blt := rfl
@[simp] theorem Block.modChan_gov (b : Block) (n : Nat) (f : Chan → Chan) : (b.modChan n f).gov = b.gov := rfl

@[simp] theorem Block.emit_out (b : Block) (o : Out) : (b.emit o).out = b.out ++ [o] := rfl
@[simp] theorem Block.tickFree_free (b : Block) : (b.tickFree).free = b.free + 1 := rfl
@[simp] theorem Block.modTu_tu (b : Block) (f : TurnUnit → TurnUnit) : (b.modTu f).tu = f b.tu := rfl
@[simp] theorem Block.modEvt_evt (b : Block) (n : Nat) (f : EvtIn → EvtIn) : (b.modEvt n f).evt = SMap.upd {} n f b.evt := rfl
@[simp] theorem Block.modMst_msts (b : Block) (n : Nat) (f : Mst → Mst) : (b.modMst n f).msts = SMap.upd {} n f b.msts := rfl
@[simp] theorem Block.modSvc_svc (b : Block) (f : Services → Services) : (b.modSvc f).svc = f b.svc := rfl
@[simp] theorem Block.modPart_parts (b : Block) (p : Nat) (f : Part → Part) : (b.modPart p f).parts = SMap.upd {} p f b.parts := rfl
@[simp] theorem Block.modSlc_slc (b : Block) (f : Sluice → Sluice) : (b.modSlc f).slc = f b.slc := rfl
@[simp] theorem Block.modMesh_mesh (b : Block) (f : Mesh → Mesh) : (b.modMesh f).mesh = f b.mesh := rfl
@[simp] theorem Block.modTrust_trust (b : Block) (f : Trust → Trust) : (b.modTrust f).trust = f b.trust := rfl
@[simp] theorem Block.modCoh_coh (b : Block) (f : Coh → Coh) : (b.modCoh f).coh = f b.coh := rfl
@[simp] theorem Block.modLvp_lvp (b : Block) (f : Leavo → Leavo) : (b.modLvp f).lvp = f b.lvp := rfl
@[simp] theorem Block.modIot_iot (b : Block) (f : Iot → Iot) : (b.modIot f).iot = f b.iot := rfl
@[simp] theorem Block.modPci_pci (b : Block) (f : Pci → Pci) : (b.modPci f).pci = f b.pci := rfl
@[simp] theorem Block.modHart_harts (b : Block) (h : Nat) (f : Hart → Hart) : (b.modHart h f).harts = SMap.upd {} h f b.harts := rfl
@[simp] theorem Block.modSail_sails (b : Block) (n : Nat) (f : Sail → Sail) : (b.modSail n f).sails = SMap.upd {} n f b.sails := rfl
@[simp] theorem Block.modNet_net (b : Block) (f : Net → Net) : (b.modNet f).net = f b.net := rfl

/-! ## The start of a command -/

@[simp] theorem State.start_dev (s : State) : s.start.dev = s.blk.dev := rfl
@[simp] theorem State.start_prev (s : State) : s.start.prev = s.blk.prev := rfl
@[simp] theorem State.start_regs (s : State) : s.start.regs = s.blk.regs := rfl
@[simp] theorem State.start_free (s : State) : s.start.free = s.blk.free := rfl
@[simp] theorem State.start_otp (s : State) : s.start.otp = s.blk.otp := rfl
@[simp] theorem State.start_pwr (s : State) : s.start.pwr = s.blk.pwr := rfl
@[simp] theorem State.start_flog (s : State) : s.start.flog = s.blk.flog := rfl
@[simp] theorem State.start_timeBase (s : State) : s.start.timeBase = s.blk.timeBase := rfl
@[simp] theorem State.start_govHalted (s : State) : s.start.govHalted = s.blk.govHalted := rfl
@[simp] theorem State.start_active (s : State) : s.start.active = s.blk.active := rfl
@[simp] theorem State.start_commit (s : State) : s.start.commit = s.blk.commit := rfl
@[simp] theorem State.start_dict (s : State) : s.start.dict = s.blk.dict := rfl
@[simp] theorem State.start_trust (s : State) : s.start.trust = s.blk.trust := rfl
@[simp] theorem State.start_tu (s : State) : s.start.tu = s.blk.tu := rfl
@[simp] theorem State.start_evt (s : State) : s.start.evt = s.blk.evt := rfl
@[simp] theorem State.start_imsic (s : State) : s.start.imsic = s.blk.imsic := rfl
@[simp] theorem State.start_mem (s : State) : s.start.mem = s.blk.mem := rfl
@[simp] theorem State.start_ms (s : State) : s.start.ms = s.blk.ms := rfl
@[simp] theorem State.start_coh (s : State) : s.start.coh = s.blk.coh := rfl
@[simp] theorem State.start_svc (s : State) : s.start.svc = s.blk.svc := rfl
@[simp] theorem State.start_lvp (s : State) : s.start.lvp = s.blk.lvp := rfl
@[simp] theorem State.start_slc (s : State) : s.start.slc = s.blk.slc := rfl
@[simp] theorem State.start_pci (s : State) : s.start.pci = s.blk.pci := rfl
@[simp] theorem State.start_sails (s : State) : s.start.sails = s.blk.sails := rfl
@[simp] theorem State.start_harts (s : State) : s.start.harts = s.blk.harts := rfl
@[simp] theorem State.start_iot (s : State) : s.start.iot = s.blk.iot := rfl
@[simp] theorem State.start_msts (s : State) : s.start.msts = s.blk.msts := rfl
@[simp] theorem State.start_scr (s : State) : s.start.scr = s.blk.scr := rfl
@[simp] theorem State.start_mesh (s : State) : s.start.mesh = s.blk.mesh := rfl
@[simp] theorem State.start_parts (s : State) : s.start.parts = s.blk.parts := rfl
@[simp] theorem State.start_blt (s : State) : s.start.blt = s.blk.blt := rfl
@[simp] theorem State.start_mbx (s : State) : s.start.mbx = s.blk.mbx := rfl
@[simp] theorem State.start_gov (s : State) : s.start.gov = s.blk.gov := rfl
@[simp] theorem State.start_out (s : State) : s.start.out = [] := rfl
@[simp] theorem State.withBlk_blk (s : State) (b : Block) : (s.withBlk b).blk = b := rfl
@[simp] theorem State.withBlk_pending (s : State) (b : Block) : (s.withBlk b).pending = s.pending := rfl

/-! ## Logging -/

theorem Block.writeEntry_frame (b : Block) (f : FaultSpec) : ∃ l r, b.writeEntry f = { b with flog := l, regs := r } := by
  unfold Block.writeEntry
  extract_lets n e c d
  split <;> exact ⟨_, _, rfl⟩

/-- Logging changes the log and GOV_FLOGIDX only. -/
theorem Block.note_frame (b : Block) (f : FaultSpec) : ∃ l r, b.note f = { b with flog := l, regs := r } := by
  unfold Block.note
  split
  · exact ⟨_, _, rfl⟩
  · extract_lets c
    split
    · exact ⟨_, _, rfl⟩
    · split
      · split
        · obtain ⟨l, r, h⟩ := Block.writeEntry_frame { c with flog := { c.flog with low := c.flog.low + 1 } } f
          exact ⟨l, r, h⟩
        · exact ⟨_, _, rfl⟩
      · obtain ⟨l, r, h⟩ := Block.writeEntry_frame c f
        exact ⟨l, r, h⟩

@[simp] theorem Block.note_dev (b : Block) (e : FaultSpec) : (b.note e).dev = b.dev := by obtain ⟨l, r, h⟩ := b.note_frame e; rw [h]
@[simp] theorem Block.note_prev (b : Block) (e : FaultSpec) : (b.note e).prev = b.prev := by obtain ⟨l, r, h⟩ := b.note_frame e; rw [h]
@[simp] theorem Block.note_out (b : Block) (e : FaultSpec) : (b.note e).out = b.out := by obtain ⟨l, r, h⟩ := b.note_frame e; rw [h]
@[simp] theorem Block.note_free (b : Block) (e : FaultSpec) : (b.note e).free = b.free := by obtain ⟨l, r, h⟩ := b.note_frame e; rw [h]
@[simp] theorem Block.note_otp (b : Block) (e : FaultSpec) : (b.note e).otp = b.otp := by obtain ⟨l, r, h⟩ := b.note_frame e; rw [h]
@[simp] theorem Block.note_pwr (b : Block) (e : FaultSpec) : (b.note e).pwr = b.pwr := by obtain ⟨l, r, h⟩ := b.note_frame e; rw [h]
@[simp] theorem Block.note_timeBase (b : Block) (e : FaultSpec) : (b.note e).timeBase = b.timeBase := by obtain ⟨l, r, h⟩ := b.note_frame e; rw [h]
@[simp] theorem Block.note_govHalted (b : Block) (e : FaultSpec) : (b.note e).govHalted = b.govHalted := by obtain ⟨l, r, h⟩ := b.note_frame e; rw [h]
@[simp] theorem Block.note_active (b : Block) (e : FaultSpec) : (b.note e).active = b.active := by obtain ⟨l, r, h⟩ := b.note_frame e; rw [h]
@[simp] theorem Block.note_commit (b : Block) (e : FaultSpec) : (b.note e).commit = b.commit := by obtain ⟨l, r, h⟩ := b.note_frame e; rw [h]
@[simp] theorem Block.note_dict (b : Block) (e : FaultSpec) : (b.note e).dict = b.dict := by obtain ⟨l, r, h⟩ := b.note_frame e; rw [h]
@[simp] theorem Block.note_trust (b : Block) (e : FaultSpec) : (b.note e).trust = b.trust := by obtain ⟨l, r, h⟩ := b.note_frame e; rw [h]
@[simp] theorem Block.note_tu (b : Block) (e : FaultSpec) : (b.note e).tu = b.tu := by obtain ⟨l, r, h⟩ := b.note_frame e; rw [h]
@[simp] theorem Block.note_evt (b : Block) (e : FaultSpec) : (b.note e).evt = b.evt := by obtain ⟨l, r, h⟩ := b.note_frame e; rw [h]
@[simp] theorem Block.note_imsic (b : Block) (e : FaultSpec) : (b.note e).imsic = b.imsic := by obtain ⟨l, r, h⟩ := b.note_frame e; rw [h]
@[simp] theorem Block.note_mem (b : Block) (e : FaultSpec) : (b.note e).mem = b.mem := by obtain ⟨l, r, h⟩ := b.note_frame e; rw [h]
@[simp] theorem Block.note_ms (b : Block) (e : FaultSpec) : (b.note e).ms = b.ms := by obtain ⟨l, r, h⟩ := b.note_frame e; rw [h]
@[simp] theorem Block.note_coh (b : Block) (e : FaultSpec) : (b.note e).coh = b.coh := by obtain ⟨l, r, h⟩ := b.note_frame e; rw [h]
@[simp] theorem Block.note_svc (b : Block) (e : FaultSpec) : (b.note e).svc = b.svc := by obtain ⟨l, r, h⟩ := b.note_frame e; rw [h]
@[simp] theorem Block.note_lvp (b : Block) (e : FaultSpec) : (b.note e).lvp = b.lvp := by obtain ⟨l, r, h⟩ := b.note_frame e; rw [h]
@[simp] theorem Block.note_slc (b : Block) (e : FaultSpec) : (b.note e).slc = b.slc := by obtain ⟨l, r, h⟩ := b.note_frame e; rw [h]
@[simp] theorem Block.note_pci (b : Block) (e : FaultSpec) : (b.note e).pci = b.pci := by obtain ⟨l, r, h⟩ := b.note_frame e; rw [h]
@[simp] theorem Block.note_sails (b : Block) (e : FaultSpec) : (b.note e).sails = b.sails := by obtain ⟨l, r, h⟩ := b.note_frame e; rw [h]
@[simp] theorem Block.note_harts (b : Block) (e : FaultSpec) : (b.note e).harts = b.harts := by obtain ⟨l, r, h⟩ := b.note_frame e; rw [h]
@[simp] theorem Block.note_iot (b : Block) (e : FaultSpec) : (b.note e).iot = b.iot := by obtain ⟨l, r, h⟩ := b.note_frame e; rw [h]
@[simp] theorem Block.note_msts (b : Block) (e : FaultSpec) : (b.note e).msts = b.msts := by obtain ⟨l, r, h⟩ := b.note_frame e; rw [h]
@[simp] theorem Block.note_scr (b : Block) (e : FaultSpec) : (b.note e).scr = b.scr := by obtain ⟨l, r, h⟩ := b.note_frame e; rw [h]
@[simp] theorem Block.note_mesh (b : Block) (e : FaultSpec) : (b.note e).mesh = b.mesh := by obtain ⟨l, r, h⟩ := b.note_frame e; rw [h]
@[simp] theorem Block.note_net (b : Block) (e : FaultSpec) : (b.note e).net = b.net := by obtain ⟨l, r, h⟩ := b.note_frame e; rw [h]
@[simp] theorem Block.note_parts (b : Block) (e : FaultSpec) : (b.note e).parts = b.parts := by obtain ⟨l, r, h⟩ := b.note_frame e; rw [h]
@[simp] theorem Block.note_blt (b : Block) (e : FaultSpec) : (b.note e).blt = b.blt := by obtain ⟨l, r, h⟩ := b.note_frame e; rw [h]
@[simp] theorem Block.note_mbx (b : Block) (e : FaultSpec) : (b.note e).mbx = b.mbx := by obtain ⟨l, r, h⟩ := b.note_frame e; rw [h]
@[simp] theorem Block.note_gov (b : Block) (e : FaultSpec) : (b.note e).gov = b.gov := by obtain ⟨l, r, h⟩ := b.note_frame e; rw [h]

/-- Logging once per turn changes the log and GOV_FLOGIDX only. -/
theorem Block.noteOnce_frame (b : Block) (k : Nat) (f : FaultSpec) : ∃ l r, b.noteOnce k f = { b with flog := l, regs := r } := by
  unfold Block.noteOnce
  split
  · split <;> exact ⟨_, _, rfl⟩
  · obtain ⟨l, r, h⟩ := Block.note_frame { b with flog := { b.flog with once := sinsert (f.code * 4096 + k) b.flog.once } } f
    exact ⟨l, r, h⟩

@[simp] theorem Block.noteOnce_dev (b : Block) (k : Nat) (e : FaultSpec) : (b.noteOnce k e).dev = b.dev := by obtain ⟨l, r, h⟩ := b.noteOnce_frame k e; rw [h]
@[simp] theorem Block.noteOnce_prev (b : Block) (k : Nat) (e : FaultSpec) : (b.noteOnce k e).prev = b.prev := by obtain ⟨l, r, h⟩ := b.noteOnce_frame k e; rw [h]
@[simp] theorem Block.noteOnce_out (b : Block) (k : Nat) (e : FaultSpec) : (b.noteOnce k e).out = b.out := by obtain ⟨l, r, h⟩ := b.noteOnce_frame k e; rw [h]
@[simp] theorem Block.noteOnce_free (b : Block) (k : Nat) (e : FaultSpec) : (b.noteOnce k e).free = b.free := by obtain ⟨l, r, h⟩ := b.noteOnce_frame k e; rw [h]
@[simp] theorem Block.noteOnce_otp (b : Block) (k : Nat) (e : FaultSpec) : (b.noteOnce k e).otp = b.otp := by obtain ⟨l, r, h⟩ := b.noteOnce_frame k e; rw [h]
@[simp] theorem Block.noteOnce_pwr (b : Block) (k : Nat) (e : FaultSpec) : (b.noteOnce k e).pwr = b.pwr := by obtain ⟨l, r, h⟩ := b.noteOnce_frame k e; rw [h]
@[simp] theorem Block.noteOnce_timeBase (b : Block) (k : Nat) (e : FaultSpec) : (b.noteOnce k e).timeBase = b.timeBase := by obtain ⟨l, r, h⟩ := b.noteOnce_frame k e; rw [h]
@[simp] theorem Block.noteOnce_govHalted (b : Block) (k : Nat) (e : FaultSpec) : (b.noteOnce k e).govHalted = b.govHalted := by obtain ⟨l, r, h⟩ := b.noteOnce_frame k e; rw [h]
@[simp] theorem Block.noteOnce_active (b : Block) (k : Nat) (e : FaultSpec) : (b.noteOnce k e).active = b.active := by obtain ⟨l, r, h⟩ := b.noteOnce_frame k e; rw [h]
@[simp] theorem Block.noteOnce_commit (b : Block) (k : Nat) (e : FaultSpec) : (b.noteOnce k e).commit = b.commit := by obtain ⟨l, r, h⟩ := b.noteOnce_frame k e; rw [h]
@[simp] theorem Block.noteOnce_dict (b : Block) (k : Nat) (e : FaultSpec) : (b.noteOnce k e).dict = b.dict := by obtain ⟨l, r, h⟩ := b.noteOnce_frame k e; rw [h]
@[simp] theorem Block.noteOnce_trust (b : Block) (k : Nat) (e : FaultSpec) : (b.noteOnce k e).trust = b.trust := by obtain ⟨l, r, h⟩ := b.noteOnce_frame k e; rw [h]
@[simp] theorem Block.noteOnce_tu (b : Block) (k : Nat) (e : FaultSpec) : (b.noteOnce k e).tu = b.tu := by obtain ⟨l, r, h⟩ := b.noteOnce_frame k e; rw [h]
@[simp] theorem Block.noteOnce_evt (b : Block) (k : Nat) (e : FaultSpec) : (b.noteOnce k e).evt = b.evt := by obtain ⟨l, r, h⟩ := b.noteOnce_frame k e; rw [h]
@[simp] theorem Block.noteOnce_imsic (b : Block) (k : Nat) (e : FaultSpec) : (b.noteOnce k e).imsic = b.imsic := by obtain ⟨l, r, h⟩ := b.noteOnce_frame k e; rw [h]
@[simp] theorem Block.noteOnce_mem (b : Block) (k : Nat) (e : FaultSpec) : (b.noteOnce k e).mem = b.mem := by obtain ⟨l, r, h⟩ := b.noteOnce_frame k e; rw [h]
@[simp] theorem Block.noteOnce_ms (b : Block) (k : Nat) (e : FaultSpec) : (b.noteOnce k e).ms = b.ms := by obtain ⟨l, r, h⟩ := b.noteOnce_frame k e; rw [h]
@[simp] theorem Block.noteOnce_coh (b : Block) (k : Nat) (e : FaultSpec) : (b.noteOnce k e).coh = b.coh := by obtain ⟨l, r, h⟩ := b.noteOnce_frame k e; rw [h]
@[simp] theorem Block.noteOnce_svc (b : Block) (k : Nat) (e : FaultSpec) : (b.noteOnce k e).svc = b.svc := by obtain ⟨l, r, h⟩ := b.noteOnce_frame k e; rw [h]
@[simp] theorem Block.noteOnce_lvp (b : Block) (k : Nat) (e : FaultSpec) : (b.noteOnce k e).lvp = b.lvp := by obtain ⟨l, r, h⟩ := b.noteOnce_frame k e; rw [h]
@[simp] theorem Block.noteOnce_slc (b : Block) (k : Nat) (e : FaultSpec) : (b.noteOnce k e).slc = b.slc := by obtain ⟨l, r, h⟩ := b.noteOnce_frame k e; rw [h]
@[simp] theorem Block.noteOnce_pci (b : Block) (k : Nat) (e : FaultSpec) : (b.noteOnce k e).pci = b.pci := by obtain ⟨l, r, h⟩ := b.noteOnce_frame k e; rw [h]
@[simp] theorem Block.noteOnce_sails (b : Block) (k : Nat) (e : FaultSpec) : (b.noteOnce k e).sails = b.sails := by obtain ⟨l, r, h⟩ := b.noteOnce_frame k e; rw [h]
@[simp] theorem Block.noteOnce_harts (b : Block) (k : Nat) (e : FaultSpec) : (b.noteOnce k e).harts = b.harts := by obtain ⟨l, r, h⟩ := b.noteOnce_frame k e; rw [h]
@[simp] theorem Block.noteOnce_iot (b : Block) (k : Nat) (e : FaultSpec) : (b.noteOnce k e).iot = b.iot := by obtain ⟨l, r, h⟩ := b.noteOnce_frame k e; rw [h]
@[simp] theorem Block.noteOnce_msts (b : Block) (k : Nat) (e : FaultSpec) : (b.noteOnce k e).msts = b.msts := by obtain ⟨l, r, h⟩ := b.noteOnce_frame k e; rw [h]
@[simp] theorem Block.noteOnce_scr (b : Block) (k : Nat) (e : FaultSpec) : (b.noteOnce k e).scr = b.scr := by obtain ⟨l, r, h⟩ := b.noteOnce_frame k e; rw [h]
@[simp] theorem Block.noteOnce_mesh (b : Block) (k : Nat) (e : FaultSpec) : (b.noteOnce k e).mesh = b.mesh := by obtain ⟨l, r, h⟩ := b.noteOnce_frame k e; rw [h]
@[simp] theorem Block.noteOnce_net (b : Block) (k : Nat) (e : FaultSpec) : (b.noteOnce k e).net = b.net := by obtain ⟨l, r, h⟩ := b.noteOnce_frame k e; rw [h]
@[simp] theorem Block.noteOnce_parts (b : Block) (k : Nat) (e : FaultSpec) : (b.noteOnce k e).parts = b.parts := by obtain ⟨l, r, h⟩ := b.noteOnce_frame k e; rw [h]
@[simp] theorem Block.noteOnce_blt (b : Block) (k : Nat) (e : FaultSpec) : (b.noteOnce k e).blt = b.blt := by obtain ⟨l, r, h⟩ := b.noteOnce_frame k e; rw [h]
@[simp] theorem Block.noteOnce_mbx (b : Block) (k : Nat) (e : FaultSpec) : (b.noteOnce k e).mbx = b.mbx := by obtain ⟨l, r, h⟩ := b.noteOnce_frame k e; rw [h]
@[simp] theorem Block.noteOnce_gov (b : Block) (k : Nat) (e : FaultSpec) : (b.noteOnce k e).gov = b.gov := by obtain ⟨l, r, h⟩ := b.noteOnce_frame k e; rw [h]

/-! ## Sparse maps -/

variable {β : Type}

theorem SMap.get_insert_same (d : β) (k : Nat) (v : β) (m : List (Nat × β)) : SMap.get d k (SMap.insert k v m) = v := by
  induction m with
  | nil => simp [SMap.insert, SMap.get]
  | cons e r ih =>
    simp only [SMap.insert]
    split
    · simp [SMap.get]
    · split
      · simp [SMap.get]
      · simp [SMap.get, *]

theorem SMap.get_insert_ne (d : β) {j k : Nat} (h : j ≠ k) (v : β) (m : List (Nat × β)) : SMap.get d j (SMap.insert k v m) = SMap.get d j m := by
  induction m with
  | nil => simp [SMap.insert, SMap.get, h]
  | cons e r ih =>
    simp only [SMap.insert]
    split
    · simp [SMap.get, h]
    · split
      · rename_i h1 h2; subst h2; simp [SMap.get, h]
      · simp [SMap.get, ih]

theorem SMap.get_filter_same (d : β) (k : Nat) (m : List (Nat × β)) : SMap.get d k (m.filter fun e => e.1 ≠ k) = d := by
  induction m with
  | nil => rfl
  | cons e r ih =>
    rw [List.filter_cons]
    split
    · rename_i he
      have : k ≠ e.1 := fun h => by simp [h] at he
      simpa [SMap.get, this] using ih
    · exact ih

theorem SMap.get_filter_ne (d : β) {j k : Nat} (h : j ≠ k) (m : List (Nat × β)) :
    SMap.get d j (m.filter fun e => e.1 ≠ k) = SMap.get d j m := by
  induction m with
  | nil => rfl
  | cons e r ih =>
    rw [List.filter_cons]
    split
    · simp only [SMap.get, ih]
    · rename_i he
      have : j ≠ e.1 := fun hj => by simp at he; omega
      simpa [SMap.get, this] using ih

variable [DecidableEq β]

/-- A write is read back. -/
@[simp] theorem SMap.get_set_same (d : β) (k : Nat) (v : β) (m : List (Nat × β)) : SMap.get d k (SMap.set d k v m) = v := by
  unfold SMap.set
  split
  · rename_i h; rw [SMap.get_filter_same, h]
  · exact SMap.get_insert_same ..

/-- A write leaves every other key. -/
theorem SMap.get_set_ne (d d' : β) {j k : Nat} (h : j ≠ k) (v : β) (m : List (Nat × β)) : SMap.get d' j (SMap.set d k v m) = SMap.get d' j m := by
  unfold SMap.set
  split
  · exact SMap.get_filter_ne d' h m
  · exact SMap.get_insert_ne d' h v m

/-- An update is read back. -/
@[simp] theorem SMap.get_upd_same (d : β) (k : Nat) (f : β → β) (m : List (Nat × β)) : SMap.get d k (SMap.upd d k f m) = f (SMap.get d k m) :=
  SMap.get_set_same ..

/-- An update leaves every other key. -/
theorem SMap.get_upd_ne (d : β) {j k : Nat} (h : j ≠ k) (f : β → β) (m : List (Nat × β)) : SMap.get d j (SMap.upd d k f m) = SMap.get d j m :=
  SMap.get_set_ne d d h ..

/-! ## Registers -/

/-- A register reads what was written, in its width. -/
@[simp] theorem Block.getR_setR_same (b : Block) (r : Reg) (v i j k : Nat) : (b.setR r v i j k).getR r i j k = v % 2 ^ r.desc.width :=
  SMap.get_set_same ..

/-- A write leaves every register at another address. -/
theorem Block.getR_setR_ne (b : Block) {r r' : Reg} {i j k i' j' k' : Nat} (h : r'.addr i' j' k' ≠ r.addr i j k) (v : Nat) :
    (b.setR r v i j k).getR r' i' j' k' = b.getR r' i' j' k' :=
  SMap.get_set_ne _ _ h ..

/-- Writing a field leaves every register at another address. -/
theorem Block.getR_put_ne (b : Block) {f : Fld} {r : Reg} {i j k i' j' k' : Nat} (h : r.addr i' j' k' ≠ f.reg.addr i j k) (v : Nat) :
    (b.put f v i j k).getR r i' j' k' = b.getR r i' j' k' :=
  SMap.get_set_ne _ _ h ..

/-- Writing a field leaves every field of a register at another address. -/
theorem Block.get_put_ne (b : Block) {f g : Fld} {i j k i' j' k' : Nat} (h : g.reg.addr i' j' k' ≠ f.reg.addr i j k) (v : Nat) :
    (b.put f v i j k).get g i' j' k' = b.get g i' j' k' := by
  unfold Block.get; rw [Block.getR_put_ne b h]

end Sys2Proof.Machine
end

