-- ==== Sys2Proof/Laws/Kept.lean ====
section
/-! SUPPORT. What every operation keeps: canonical memory, fuses, the first-fault record, a class 5 fault, and, where it stores nothing, every byte of DRAM. -/

namespace Sys2Proof.Machine

theorem Otp.Grows.refl (a : Otp) : a.Grows a := ⟨rfl, Nat.le_refl _, id, fun _ => ⟨fun h => ⟨h, rfl⟩, id⟩⟩

theorem Otp.Grows.trans {a b c : Otp} (h : a.Grows b) (k : b.Grows c) : a.Grows c := by
  obtain ⟨h1, h2, h3, h4⟩ := h
  obtain ⟨k1, k2, k3, k4⟩ := k
  refine ⟨?_, Nat.le_trans h2 k2, fun x => k3 (h3 x), fun n => ⟨fun x => ?_, fun x => (k4 n).2 ((h4 n).2 x)⟩⟩
  · rw [k1, h1]
  · obtain ⟨y, z⟩ := (h4 n).1 x
    obtain ⟨u, v⟩ := (k4 n).1 y
    exact ⟨u, v.trans z⟩

/-- From `b` to `c` nothing is lost that every step keeps; with `st` false, no byte of DRAM changes. -/
structure Block.Kept (st : Bool) (b c : Block) : Prop where
  mem : Memory.wf b.mem = true → Memory.wf c.mem = true
  same : st = false → c.mem = b.mem
  scr : Memory.wf b.scr.bytes = true → Memory.wf c.scr.bytes = true
  otp : b.otp.Grows c.otp
  first : b.flog.first <+: c.flog.first
  len : b.flog.first.length ≤ 16 → c.flog.first.length ≤ 16
  fatal : b.flog.fatal = true → c.flog.fatal = true

namespace Block.Kept

theorem refl {st : Bool} (b : Block) : b.Kept st b :=
  ⟨id, fun _ => rfl, id, .refl _, List.prefix_refl _, id, id⟩

theorem trans {st : Bool} {a b c : Block} (h : a.Kept st b) (k : b.Kept st c) : a.Kept st c :=
  ⟨fun x => k.mem (h.mem x), fun x => (k.same x).trans (h.same x), fun x => k.scr (h.scr x), h.otp.trans k.otp,
    h.first.trans k.first, fun x => k.len (h.len x), fun x => k.fatal (h.fatal x)⟩

theorem storing {st : Bool} {b c : Block} (h : b.Kept false c) : b.Kept st c :=
  ⟨h.mem, fun _ => h.same rfl, h.scr, h.otp, h.first, h.len, h.fatal⟩

/-- The block that a match took from a pair. -/
theorem of_pair {st : Bool} {α : Type} {p : α × Block} {a : α} {b c : Block} (h : p = (a, c)) (k : b.Kept st p.2) : b.Kept st c := by
  rw [h] at k; exact k

/-- A change of nothing that is kept. -/
theorem of_eq {st : Bool} {b c : Block} (m : c.mem = b.mem) (s : c.scr.bytes = b.scr.bytes) (o : c.otp = b.otp) (f : c.flog.first = b.flog.first)
    (t : c.flog.fatal = b.flog.fatal) : b.Kept st c :=
  ⟨by rw [m]; exact id, fun _ => m, by rw [s]; exact id, by rw [o]; exact .refl _, ⟨[], by rw [List.append_nil, f]⟩, by rw [f]; exact id, by rw [t]; exact id⟩

theorem when {st : Bool} {p : Bool} {f : Block → Block} {b : Block} (h : p = true → b.Kept st (f b)) : b.Kept st (b.when p f) := by
  unfold Block.when
  split
  · exact h ‹_›
  · exact refl b

theorem foldl {st : Bool} {α : Type} (l : List α) (f : Block → α → Block) (h : ∀ (c : Block) x, c.Kept st (f c x)) (b : Block) : b.Kept st (l.foldl f b) := by
  induction l generalizing b with
  | nil => exact refl b
  | cons x r ih => exact (h b x).trans (ih _)

theorem foldl_snd {st : Bool} {α β : Type} (l : List α) (f : β × Block → α → β × Block) (h : ∀ (c : β × Block) x, c.2.Kept st (f c x).2) (b : β × Block) :
    b.2.Kept st (l.foldl f b).2 := by
  induction l generalizing b with
  | nil => exact refl b.2
  | cons x r ih => exact (h b x).trans (ih _)

theorem forN {st : Bool} {n : Nat} {f : Nat → Block → Block} {b : Block} (h : ∀ i (c : Block), c.Kept st (f i c)) : b.Kept st (b.forN n f) :=
  foldl _ _ (fun c x => h x c) b

theorem forL {st : Bool} {α : Type} {l : List α} {f : α → Block → Block} {b : Block} (h : ∀ i (c : Block), c.Kept st (f i c)) : b.Kept st (b.forL l f) :=
  foldl _ _ (fun c x => h x c) b

/-! The same for the forms that a meaning is written in. -/

theorem ite {st : Bool} {b x y : Block} {p : Prop} [Decidable p] (h : p → Kept st b x) (k : ¬p → Kept st b y) : Kept st b (if p then x else y) := by
  split; exact h ‹_›; exact k ‹_›

theorem dite {st : Bool} {b : Block} {p : Prop} [Decidable p] {x : p → Block} {y : ¬ p → Block} (h : ∀ a, Kept st b (x a)) (k : ∀ a, Kept st b (y a)) : Kept st b (if a : p then x a else y a) := by
  split; exact h ‹_›; exact k ‹_›

theorem iteP {st : Bool} {α : Type} {b : Block} {x y : α × Block} {p : Prop} [Decidable p] (h : p → Kept st b x.2) (k : ¬p → Kept st b y.2) : Kept st b (if p then x else y).2 := by
  split; exact h ‹_›; exact k ‹_›

theorem diteP {st : Bool} {α : Type} {b : Block} {p : Prop} [Decidable p] {x : p → α × Block} {y : ¬ p → α × Block} (h : ∀ a, Kept st b (x a).2) (k : ∀ a, Kept st b (y a).2) : Kept st b (if a : p then x a else y a).2 := by
  split; exact h ‹_›; exact k ‹_›

theorem snd {st : Bool} {α : Type} {a : α} {b c : Block} (h : b.Kept st c) : b.Kept st (a, c).2 := h

theorem after {st : Bool} {a b c : Block} (k : b.Kept st c) (h : a.Kept st b) : a.Kept st c := h.trans k

theorem whenA {st : Bool} {p : Bool} {f : Block → Block} {b : Block} (h : ∀ c, Kept st c (f c)) : b.Kept st (b.when p f) := when fun _ => h b

theorem ite_prefix {α : Type} {p : Prop} [Decidable p] (l : List α) (e : α) : l <+: if p then l ++ [e] else l := by
  split
  · exact List.prefix_append _ _
  · exact List.prefix_refl _

theorem ite_len {α : Type} {p : Prop} [Decidable p] (l : List α) (e : α) (h : p → l.length < 16) : l.length ≤ 16 → (if p then l ++ [e] else l).length ≤ 16 := by
  intro k
  split
  · rw [List.length_append, List.length_singleton]; exact h ‹_›
  · exact k

end Block.Kept

/-! ## Canonical form of sparse maps -/

theorem SMap.above_trans {β : Type} {j k : Nat} (h : j < k) {m : List (Nat × β)} (a : SMap.above k m = true) : SMap.above j m = true := by
  unfold SMap.above at *
  rw [List.all_eq_true] at *
  intro e he
  have := a e he
  simp only [decide_eq_true_eq] at *
  omega

theorem SMap.above_filter {β : Type} {k : Nat} {m : List (Nat × β)} (p : Nat × β → Bool) (a : SMap.above k m = true) :
    SMap.above k (m.filter p) = true := by
  unfold SMap.above at *
  rw [List.all_eq_true] at *
  exact fun e he => a e ((List.mem_filter.mp he).1)

theorem SMap.wf_filter {β : Type} [DecidableEq β] {d : β} (p : Nat × β → Bool) : ∀ {m : List (Nat × β)}, SMap.wf d m = true → SMap.wf d (m.filter p) = true
  | [], _ => rfl
  | (k, v) :: r, h => by
    simp only [SMap.wf, Bool.and_eq_true] at h
    rw [List.filter_cons]
    split
    · simp only [SMap.wf, Bool.and_eq_true]
      exact ⟨⟨SMap.above_filter p h.1.1, h.1.2⟩, SMap.wf_filter p h.2⟩
    · exact SMap.wf_filter p h.2

theorem SMap.above_insert {β : Type} {j k : Nat} (h : j < k) (v : β) : ∀ {m : List (Nat × β)}, SMap.above j m = true → SMap.above j (SMap.insert k v m) = true
  | [], _ => by simp [SMap.insert, SMap.above, h]
  | (i, w) :: r, a => by
    have a' : (decide (j < i) && SMap.above j r) = true := a
    rw [Bool.and_eq_true] at a'
    unfold SMap.insert
    split
    · show (decide (j < k) && (decide (j < i) && SMap.above j r)) = true
      rw [a'.1, a'.2]; simp [h]
    · split
      · show (decide (j < k) && SMap.above j r) = true
        simp [h, a'.2]
      · show (decide (j < i) && SMap.above j (SMap.insert k v r)) = true
        rw [a'.1, SMap.above_insert h v a'.2]; rfl

theorem SMap.wf_insert {β : Type} [DecidableEq β] {d : β} {k : Nat} {v : β} (hv : v ≠ d) :
    ∀ {m : List (Nat × β)}, SMap.wf d m = true → SMap.wf d (SMap.insert k v m) = true
  | [], _ => by simp [SMap.insert, SMap.wf, SMap.above, hv]
  | (i, w) :: r, h => by
    simp only [SMap.wf, Bool.and_eq_true, decide_eq_true_eq] at h
    unfold SMap.insert
    split
    · rename_i hk
      simp only [SMap.wf, Bool.and_eq_true, decide_eq_true_eq]
      refine ⟨⟨?_, hv⟩, h⟩
      show (decide (k < i) && SMap.above k r) = true
      rw [SMap.above_trans hk h.1.1]; simp [hk]
    · split
      · rename_i hk
        simp only [SMap.wf, Bool.and_eq_true, decide_eq_true_eq]
        exact ⟨⟨by rw [hk]; exact h.1.1, hv⟩, h.2⟩
      · simp only [SMap.wf, Bool.and_eq_true, decide_eq_true_eq]
        exact ⟨⟨SMap.above_insert (by omega) v h.1.1, h.1.2⟩, SMap.wf_insert hv h.2⟩

/-- A write keeps the canonical form. -/
theorem SMap.wf_set {β : Type} [DecidableEq β] {d : β} (k : Nat) (v : β) {m : List (Nat × β)} (h : SMap.wf d m = true) : SMap.wf d (SMap.set d k v m) = true := by
  unfold SMap.set
  split
  · exact SMap.wf_filter _ h
  · exact SMap.wf_insert ‹_› h

/-- So does a run of writes. -/
theorem SMap.wf_setRun {β : Type} [DecidableEq β] {d : β} : ∀ (vs : List β) (k : Nat) {m : List (Nat × β)}, SMap.wf d m = true → SMap.wf d (SMap.setRun d k vs m) = true
  | [], _, _, h => h
  | v :: vs, k, _, h => SMap.wf_setRun vs (k + 1) (SMap.wf_set k v h)

end Sys2Proof.Machine
end

