-- ==== Sys2Proof/Laws/KeptOps1.lean ====
section
/-! SUPPORT. One lemma for each shared operation: what it keeps (canonical memory, fuses, the first faults, and DRAM where it stores nothing). -/

namespace Sys2Proof.Machine

theorem kept_emit {st : Bool} (x0 b) : Block.Kept st b (Block.emit x0 b) := by
  unfold Block.emit
  exact (.of_eq rfl rfl rfl rfl rfl)

theorem kept_modPart {st : Bool} (x0 x1 b) : Block.Kept st b (Block.modPart x0 x1 b) := by
  unfold Block.modPart
  exact (.of_eq rfl rfl rfl rfl rfl)

theorem kept_modRepl {st : Bool} (x0 x1 x2 b) : Block.Kept st b (Block.modRepl x0 x1 x2 b) := by
  unfold Block.modRepl
  exact kept_modPart ..

theorem kept_setR {st : Bool} (x0 x1 x2 x3 x4 b) : Block.Kept st b (Block.setR x0 x1 x2 x3 x4 b) := by
  unfold Block.setR
  exact (.of_eq rfl rfl rfl rfl rfl)

theorem kept_modMst {st : Bool} (x0 x1 b) : Block.Kept st b (Block.modMst x0 x1 b) := by
  unfold Block.modMst
  exact (.of_eq rfl rfl rfl rfl rfl)

theorem kept_modMq {st : Bool} (x0 x1 x2 x3 b) : Block.Kept st b (Block.modMq x0 x1 x2 x3 b) := by
  unfold Block.modMq
  exact kept_modMst ..

theorem kept_put {st : Bool} (x0 x1 x2 x3 x4 b) : Block.Kept st b (Block.put x0 x1 x2 x3 x4 b) := by
  unfold Block.put
  exact kept_setR ..

theorem kept_mstBusy {st : Bool} (x0 b) : Block.Kept st b (Block.mstBusy x0 b) := by
  unfold Block.mstBusy
  exact kept_put ..

theorem kept_dropRuns {st : Bool} (x0 x1 b) : Block.Kept st b (Block.dropRuns x0 x1 b) := by
  unfold Block.dropRuns
  exact kept_modMst ..

theorem kept_countFault {st : Bool} (x0 b) : Block.Kept st b (Block.countFault x0 b) := by
  unfold Block.countFault
  exact (.of_eq rfl rfl rfl rfl rfl)

theorem kept_inc {st : Bool} (x0 x1 x2 x3 b) : Block.Kept st b (Block.inc x0 x1 x2 x3 b) := by
  unfold Block.inc
  exact kept_put ..

theorem kept_writeEntry {st : Bool} (x0 b) : Block.Kept st b (Block.writeEntry x0 b) := by
  unfold Block.writeEntry
  extract_lets -merge -underBinder +onlyGivenNames v1
  clear_value v1
  extract_lets -merge -underBinder +onlyGivenNames v2
  clear_value v2
  extract_lets -merge -underBinder +onlyGivenNames s3 v3
  have h3 : Block.Kept st b v3 := ⟨id, fun _ => rfl, id, .refl _, Block.Kept.ite_prefix _ _, Block.Kept.ite_len _ _ (fun h => of_decide_eq_true (Bool.and_eq_true_iff.mp h).2), id⟩
  clear_value v3
  extract_lets -merge -underBinder +onlyGivenNames v4
  have h4 : Block.Kept st b v4 := h3.trans (kept_put ..)
  clear_value v4
  exact .ite (fun _ => h4.trans (kept_inc ..)) fun _ => h4

theorem kept_note {st : Bool} (x0 b) : Block.Kept st b (Block.note x0 b) := by
  unfold Block.note
  refine .ite (fun _ => ?_) fun _ => ?_
  · exact .refl _
  · extract_lets -merge -underBinder +onlyGivenNames v1
    have h1 : Block.Kept st b v1 := kept_countFault ..
    clear_value v1
    exact .ite (fun _ => h1) fun _ => .ite (fun _ => .ite (fun _ => .after (kept_writeEntry ..) (h1.trans (.of_eq rfl rfl rfl rfl rfl))) fun _ => h1) fun _ => h1.trans (kept_writeEntry ..)

theorem kept_mstSquash {st : Bool} (x0 x1 x2 b) : Block.Kept st b (Block.mstSquash x0 x1 x2 b) := by
  unfold Block.mstSquash
  extract_lets -merge -underBinder +onlyGivenNames v1
  clear_value v1
  extract_lets -merge -underBinder +onlyGivenNames v2
  have h2 : Block.Kept st b v2 := .after (.forN fun i3 c3 => (kept_modMq ..)) (.after (kept_mstBusy ..) (kept_dropRuns ..))
  clear_value v2
  exact .ite (fun _ => .ite (fun _ => .after (kept_note ..) (h2.trans (kept_put ..))) fun _ => .after (kept_note ..) (h2.trans (kept_put ..))) fun _ => h2

theorem kept_squashRepl {st : Bool} (x0 x1 x2 b) : Block.Kept st b (Block.squashRepl x0 x1 x2 b) := by
  unfold Block.squashRepl
  split
  · exact kept_mstSquash ..
  · exact .refl _

theorem kept_modHart {st : Bool} (x0 x1 b) : Block.Kept st b (Block.modHart x0 x1 b) := by
  unfold Block.modHart
  exact (.of_eq rfl rfl rfl rfl rfl)

theorem kept_haltRepl {st : Bool} (x0 x1 b) : Block.Kept st b (Block.haltRepl x0 x1 b) := by
  unfold Block.haltRepl
  exact .after (kept_modRepl ..) (.forL fun i1 c1 => (kept_modHart ..))

theorem kept_assertFout {st : Bool} (b) : Block.Kept st b (Block.assertFout b) := by
  unfold Block.assertFout
  exact .ite (fun _ => .refl _) fun _ => (.of_eq rfl rfl rfl rfl rfl)

theorem kept_criticalInService {st : Bool} (b) : Block.Kept st b (Block.criticalInService b) := by
  unfold Block.criticalInService
  exact .after (.forN fun i1 c1 => (.whenA fun c2 => (kept_put ..))) (kept_put ..)

theorem kept_sendVec {st : Bool} (x0 x1 b) : Block.Kept st b (Block.sendVec x0 x1 b) := by
  unfold Block.sendVec
  refine .ite (fun _ => ?_) fun _ => ?_
  · exact .refl _
  · extract_lets -merge -underBinder +onlyGivenNames v1
    clear_value v1
    extract_lets -merge -underBinder +onlyGivenNames v2
    clear_value v2
    exact .ite (fun _ => (.of_eq rfl rfl rfl rfl rfl)) fun _ => .after (kept_emit ..) (.of_eq rfl rfl rfl rfl rfl)

theorem kept_setBeacons {st : Bool} (b) : Block.Kept st b (Block.setBeacons b) := by
  unfold Block.setBeacons
  exact (.forN fun i1 c1 => (kept_put ..))

theorem kept_setDev {st : Bool} (x0 b) : Block.Kept st b (Block.setDev x0 b) := by
  unfold Block.setDev
  exact .after (kept_note ..) (.after (kept_sendVec ..) (.after (kept_setBeacons ..) (.after (kept_put ..) (.of_eq rfl rfl rfl rfl rfl))))

theorem kept_endCommit {st : Bool} (x0 x1 x2 b) : Block.Kept st b (Block.endCommit x0 x1 x2 b) := by
  unfold Block.endCommit
  exact (.of_eq rfl rfl rfl rfl rfl)

theorem kept_cancelPending {st : Bool} (b) : Block.Kept st b (Block.cancelPending b) := by
  unfold Block.cancelPending
  exact .ite (fun _ => .after (kept_note ..) (kept_endCommit ..)) fun _ => .refl _

theorem kept_cancelCommit {st : Bool} (b) : Block.Kept st b (Block.cancelCommit b) := by
  unfold Block.cancelCommit
  exact .ite (fun _ => .after (kept_note ..) (kept_endCommit ..)) fun _ => kept_cancelPending ..

theorem kept_modChan {st : Bool} (x0 x1 b) : Block.Kept st b (Block.modChan x0 x1 b) := by
  unfold Block.modChan
  exact (.of_eq rfl rfl rfl rfl rfl)

theorem kept_filePend {st : Bool} (x0 x1 b) : Block.Kept st b (Block.filePend x0 x1 b) := by
  unfold Block.filePend
  exact .ite (fun _ => (.of_eq rfl rfl rfl rfl rfl)) fun _ => .refl _

theorem kept_sendMsi {st : Bool} (x0 x1 x2 b) : Block.Kept st b (Block.sendMsi x0 x1 x2 b) := by
  unfold Block.sendMsi
  split
  · exact .ite (fun _ => .after (kept_note ..) (kept_emit ..)) fun _ => .after (.whenA fun c1 => (kept_filePend ..)) (kept_emit ..)
  · exact kept_emit ..

theorem kept_notify {st : Bool} (x0 b) : Block.Kept st b (Block.notify x0 b) := by
  unfold Block.notify
  extract_lets -merge -underBinder +onlyGivenNames v1
  clear_value v1
  exact .ite (fun _ => .refl _) fun _ => kept_sendMsi ..

theorem kept_abortChan {st : Bool} (x0 b) : Block.Kept st b (Block.abortChan x0 b) := by
  unfold Block.abortChan
  extract_lets -merge -underBinder +onlyGivenNames v1
  clear_value v1
  exact .ite (fun _ => kept_modChan ..) fun _ => .after (kept_note ..) (.after (kept_notify ..) (kept_modChan ..))

theorem kept_resetAgent {st : Bool} (x0 b) : Block.Kept st b (Block.resetAgent x0 b) := by
  unfold Block.resetAgent
  extract_lets -merge -underBinder +onlyGivenNames v1
  clear_value v1
  extract_lets -merge -underBinder +onlyGivenNames v2
  have h2 : Block.Kept st b v2 := (.forL fun i3 c3 => (kept_abortChan ..))
  clear_value v2
  extract_lets -merge -underBinder +onlyGivenNames v4
  clear_value v4
  exact h2.trans (.forL fun i5 c5 => (kept_modChan ..))

theorem kept_haltParts {st : Bool} (b) : Block.Kept st b (Block.haltParts b) := by
  unfold Block.haltParts
  exact (.forN fun i1 c1 => (.whenA fun c2 => .after (kept_resetAgent ..) (kept_put ..)))

theorem kept_enterSafeHold {st : Bool} (x0 x1 b) : Block.Kept st b (Block.enterSafeHold x0 x1 b) := by
  unfold Block.enterSafeHold
  exact .after (kept_cancelCommit ..) (.after (kept_haltParts ..) (.after (kept_assertFout ..) (.after (kept_setR ..) (kept_setDev ..))))

theorem kept_degrade {st : Bool} (b) : Block.Kept st b (Block.degrade b) := by
  unfold Block.degrade
  extract_lets -merge -underBinder +onlyGivenNames v1
  have h1 : Block.Kept st b v1 := kept_setDev ..
  clear_value v1
  extract_lets -merge -underBinder +onlyGivenNames v2
  clear_value v2
  extract_lets -merge -underBinder +onlyGivenNames v3
  clear_value v3
  extract_lets -merge -underBinder +onlyGivenNames s4 v4
  have h4 : Block.Kept st b v4 := h1.trans (.of_eq rfl rfl rfl rfl rfl)
  clear_value v4
  exact .ite (fun _ => .after (kept_enterSafeHold ..) (h4.trans (kept_note ..))) fun _ => h4

theorem kept_react {st : Bool} (x0 b) : Block.Kept st b (Block.react x0 b) := by
  unfold Block.react
  extract_lets -merge -underBinder +onlyGivenNames v1
  clear_value v1
  refine .ite (fun _ => ?_) fun _ => ?_
  · exact .ite (fun _ => kept_degrade ..) fun _ => .refl _
  · refine .ite (fun _ => ?_) fun _ => ?_
    · refine .ite (fun _ => ?_) fun _ => ?_
      · exact .refl _
      · split
        · exact kept_enterSafeHold ..
        · exact kept_enterSafeHold ..
        · exact kept_enterSafeHold ..
        · exact kept_enterSafeHold ..
        · exact kept_enterSafeHold ..
        · exact kept_enterSafeHold ..
        · exact .refl _
    · refine .ite (fun _ => ?_) fun _ => ?_
      · extract_lets -merge -underBinder +onlyGivenNames s2 v2
        have h2 : Block.Kept st b v2 := ⟨id, fun _ => rfl, id, .refl _, List.prefix_refl _, id, fun _ => rfl⟩
        clear_value v2
        split
        · exact h2
        · exact h2
        · exact h2.trans (kept_put ..)
        · exact h2.trans (kept_enterSafeHold ..)
      · exact .refl _

theorem kept_raiseAll {st : Bool} (x0 b) : Block.Kept st b (Block.raiseAll x0 b) := by
  unfold Block.raiseAll
  refine .ite (fun _ => ?_) fun _ => ?_
  · exact .refl _
  · extract_lets -merge -underBinder +onlyGivenNames v1
    clear_value v1
    extract_lets -merge -underBinder +onlyGivenNames v2
    have h2 : Block.Kept st b v2 := (.forL fun i3 c3 => (kept_note ..))
    clear_value v2
    extract_lets -merge -underBinder +onlyGivenNames v4
    have h4 : Block.Kept st b v4 := h2.trans (.whenA fun c5 => (kept_assertFout ..))
    clear_value v4
    extract_lets -merge -underBinder +onlyGivenNames v6
    have h6 : Block.Kept st b v6 := h4.trans (.whenA fun c7 => (kept_criticalInService ..))
    clear_value v6
    split
    · exact h6
    · exact h6.trans (kept_react ..)

theorem kept_raise {st : Bool} (x0 b) : Block.Kept st b (Block.raise x0 b) := by
  unfold Block.raise
  exact kept_raiseAll ..

theorem kept_missMark {st : Bool} (x0 x1 x2 b) : Block.Kept st b (Block.missMark x0 x1 x2 b) := by
  unfold Block.missMark
  extract_lets -merge -underBinder +onlyGivenNames v1
  clear_value v1
  extract_lets -merge -underBinder +onlyGivenNames v2
  have h2 : Block.Kept st b v2 := .after (kept_modRepl ..) (.after (kept_setR ..) (.after (kept_squashRepl ..) (kept_haltRepl ..)))
  clear_value v2
  split
  · exact h2.trans (kept_raise ..)
  · exact h2

theorem kept_abandonWrite {st : Bool} (x0 x1 b) : Block.Kept st b (Block.abandonWrite x0 x1 b) := by
  unfold Block.abandonWrite
  split
  · exact kept_emit ..
  · exact .ite (fun _ => kept_emit ..) fun _ => .ite (fun _ => kept_missMark ..) fun _ => .refl _

theorem kept_showCopy {st : Bool} (b) : Block.Kept st b (Block.showCopy b) := by
  unfold Block.showCopy
  extract_lets -merge -underBinder +onlyGivenNames v1
  clear_value v1
  extract_lets -merge -underBinder +onlyGivenNames v2
  clear_value v2
  extract_lets -merge -underBinder +onlyGivenNames v3
  clear_value v3
  extract_lets -merge -underBinder +onlyGivenNames v4
  clear_value v4
  extract_lets -merge -underBinder +onlyGivenNames v5
  clear_value v5
  exact .after (kept_put ..) (kept_setR ..)

theorem kept_unmirror {st : Bool} (x0 b) : Block.Kept st b (Block.unmirror x0 b) := by
  unfold Block.unmirror
  exact (.of_eq rfl rfl rfl rfl rfl)

theorem kept_abortRepair {st : Bool} (x0 b) : Block.Kept st b (Block.abortRepair x0 b) := by
  unfold Block.abortRepair
  exact .after (.whenA fun c1 => (kept_put ..)) (.after (kept_note ..) (.after (kept_showCopy ..) (.after (kept_unmirror ..) (kept_modPart ..))))

theorem kept_abortOnSail {st : Bool} (x0 b) : Block.Kept st b (Block.abortOnSail x0 b) := by
  unfold Block.abortOnSail
  refine .forN fun i1 c1 => ?_
  split
  · exact .ite (fun _ => kept_abortRepair ..) fun _ => .refl _
  · exact .refl _

theorem kept_setCsr {st : Bool} (x0 x1 x2 b) : Block.Kept st b (Block.setCsr x0 x1 x2 b) := by
  unfold Block.setCsr
  exact kept_modHart ..

theorem kept_mipWrite {st : Bool} (x0 x1 x2 b) : Block.Kept st b (Block.mipWrite x0 x1 x2 b) := by
  unfold Block.mipWrite
  exact kept_setCsr ..

theorem kept_timers {st : Bool} (x0 b) : Block.Kept st b (Block.timers x0 b) := by
  unfold Block.timers
  extract_lets -merge -underBinder +onlyGivenNames v1
  clear_value v1
  exact kept_modHart ..

theorem kept_modFile {st : Bool} (x0 x1 b) : Block.Kept st b (Block.modFile x0 x1 b) := by
  unfold Block.modFile
  exact (.of_eq rfl rfl rfl rfl rfl)

theorem kept_iregWrite {st : Bool} (x0 x1 x2 b) : Block.Kept st b (Block.iregWrite x0 x1 x2 b) := by
  unfold Block.iregWrite
  split
  · exact kept_modFile ..
  · exact .refl _

theorem kept_claim {st : Bool} (x0 x1 b) : Block.Kept st b (Block.claim x0 x1 b) := by
  unfold Block.claim
  split
  · exact kept_modFile ..
  · exact .refl _

theorem kept_modTrig {st : Bool} (x0 x1 x2 b) : Block.Kept st b (Block.modTrig x0 x1 x2 b) := by
  unfold Block.modTrig
  exact kept_modHart ..

theorem kept_trigWrite {st : Bool} (x0 x1 x2 b) : Block.Kept st b (Block.trigWrite x0 x1 x2 b) := by
  unfold Block.trigWrite
  extract_lets -merge -underBinder +onlyGivenNames v1
  clear_value v1
  extract_lets -merge -underBinder +onlyGivenNames v2
  clear_value v2
  refine .ite (fun _ => ?_) fun _ => ?_
  · exact .refl _
  · extract_lets -merge -underBinder +onlyGivenNames v3
    clear_value v3
    extract_lets -merge -underBinder +onlyGivenNames v4
    clear_value v4
    exact kept_modTrig ..

theorem kept_csrPut {st : Bool} (x0 x1 x2 b) : Block.Kept st b (Block.csrPut x0 x1 x2 b) := by
  unfold Block.csrPut
  extract_lets -merge -underBinder +onlyGivenNames v1
  clear_value v1
  refine .ite (fun _ => ?_) fun _ => ?_
  · exact .ite (fun _ => .refl _) fun _ => kept_setCsr ..
  · refine .ite (fun _ => ?_) fun _ => ?_
    · exact kept_setCsr ..
    · refine .ite (fun _ => ?_) fun _ => ?_
      · extract_lets -merge -underBinder +onlyGivenNames v2
        clear_value v2
        exact kept_setCsr ..
      · refine .ite (fun _ => ?_) fun _ => ?_
        · exact kept_setCsr ..
        · refine .ite (fun _ => ?_) fun _ => ?_
          · exact .refl _
          · refine .ite (fun _ => ?_) fun _ => ?_
            · exact .ite (fun _ => kept_setCsr ..) fun _ => .refl _
            · refine .ite (fun _ => ?_) fun _ => ?_
              · exact kept_mipWrite ..
              · refine .ite (fun _ => ?_) fun _ => ?_
                · exact kept_mipWrite ..
                · refine .ite (fun _ => ?_) fun _ => ?_
                  · exact kept_setCsr ..
                  · refine .ite (fun _ => ?_) fun _ => ?_
                    · exact .after (kept_setCsr ..) (.after (kept_setCsr ..) (.after (kept_setCsr ..) (kept_setCsr ..)))
                    · refine .ite (fun _ => ?_) fun _ => ?_
                      · extract_lets -merge -underBinder +onlyGivenNames v3
                        clear_value v3
                        exact kept_setCsr ..
                      · refine .ite (fun _ => ?_) fun _ => ?_
                        · extract_lets -merge -underBinder +onlyGivenNames v4
                          clear_value v4
                          exact kept_setCsr ..
                        · exact .ite (fun _ => .after (kept_setCsr ..) (kept_setCsr ..)) fun _ => .ite (fun _ => kept_setCsr ..) fun _ => .ite (fun _ => kept_setCsr ..) fun _ => .ite (fun _ => kept_setCsr ..) fun _ => .ite (fun _ => kept_setCsr ..) fun _ => .ite (fun _ => kept_setCsr ..) fun _ => .ite (fun _ => .refl _) fun _ => .ite (fun _ => .after (kept_timers ..) (kept_setCsr ..)) fun _ => .ite (fun _ => kept_iregWrite ..) fun _ => .ite (fun _ => kept_iregWrite ..) fun _ => .ite (fun _ => kept_iregWrite ..) fun _ => .ite (fun _ => kept_claim ..) fun _ => .ite (fun _ => kept_claim ..) fun _ => .ite (fun _ => kept_claim ..) fun _ => .ite (fun _ => .ite (fun _ => kept_setCsr ..) fun _ => .refl _) fun _ => .ite (fun _ => kept_trigWrite ..) fun _ => .ite (fun _ => .refl _) fun _ => .ite (fun _ => .ite (fun _ => .refl _) fun _ => kept_setCsr ..) fun _ => .ite (fun _ => .ite (fun _ => .refl _) fun _ => kept_setCsr ..) fun _ => kept_setCsr ..

theorem kept_csrPutM {st : Bool} (x0 x1 x2 b) : Block.Kept st b (Block.csrPutM x0 x1 x2 b) := by
  unfold Block.csrPutM
  extract_lets -merge -underBinder +onlyGivenNames v1
  clear_value v1
  exact .ite (fun _ => kept_setCsr ..) fun _ => .after (kept_modHart ..) (.after (kept_csrPut ..) (kept_modHart ..))

theorem kept_setX {st : Bool} (x0 x1 x2 b) : Block.Kept st b (Block.setX x0 x1 x2 b) := by
  unfold Block.setX
  exact .ite (fun _ => .refl _) fun _ => kept_modHart ..

theorem kept_absWrite {st : Bool} (x0 x1 x2 b) : Block.Kept st b (Block.absWrite x0 x1 x2 b) := by
  unfold Block.absWrite
  exact .ite (fun _ => kept_csrPutM ..) fun _ => .ite (fun _ => kept_setX ..) fun _ => kept_modHart ..

theorem kept_noteOnce {st : Bool} (x0 x1 b) : Block.Kept st b (Block.noteOnce x0 x1 b) := by
  unfold Block.noteOnce
  exact .ite (fun _ => .ite (fun _ => .refl _) fun _ => kept_countFault ..) fun _ => .after (kept_note ..) (.of_eq rfl rfl rfl rfl rfl)

theorem kept_modCoh {st : Bool} (x0 b) : Block.Kept st b (Block.modCoh x0 b) := by
  unfold Block.modCoh
  exact (.of_eq rfl rfl rfl rfl rfl)

theorem kept_modReq {st : Bool} (x0 x1 x2 b) : Block.Kept st b (Block.modReq x0 x1 x2 b) := by
  unfold Block.modReq
  exact kept_modCoh ..

theorem kept_retryTxn {st : Bool} (x0 b) : Block.Kept st b (Block.retryTxn x0 b) := by
  unfold Block.retryTxn
  extract_lets -merge -underBinder +onlyGivenNames v1
  clear_value v1
  extract_lets -merge -underBinder +onlyGivenNames v2
  clear_value v2
  extract_lets -merge -underBinder +onlyGivenNames v3
  clear_value v3
  extract_lets -merge -underBinder +onlyGivenNames v4
  have h4 : Block.Kept st b v4 := .after (kept_noteOnce ..) (kept_inc ..)
  clear_value v4
  extract_lets -merge -underBinder +onlyGivenNames v5
  have h5 : Block.Kept st b v5 := .ite (fun _ => h4.trans (kept_modCoh ..)) fun _ => h4
  clear_value v5
  exact .after (kept_modReq ..) (h5.trans (kept_emit ..))

theorem kept_unwait {st : Bool} (x0 b) : Block.Kept st b (Block.unwait x0 b) := by
  unfold Block.unwait
  exact kept_modCoh ..

theorem kept_setDir {st : Bool} (x0 x1 x2 b) : Block.Kept st b (Block.setDir x0 x1 x2 b) := by
  unfold Block.setDir
  extract_lets -merge -underBinder +onlyGivenNames v1
  clear_value v1
  extract_lets -merge -underBinder +onlyGivenNames v2
  clear_value v2
  extract_lets -merge -underBinder +onlyGivenNames v3
  clear_value v3
  exact kept_modCoh ..

theorem kept_setFilt {st : Bool} (x0 x1 x2 b) : Block.Kept st b (Block.setFilt x0 x1 x2 b) := by
  unfold Block.setFilt
  exact kept_modCoh ..

theorem kept_record {st : Bool} (x0 x1 x2 x3 b) : Block.Kept st b (Block.record x0 x1 x2 x3 b) := by
  unfold Block.record
  exact .ite (fun _ => kept_setDir ..) fun _ => kept_setFilt ..

theorem kept_setCopyErrs {st : Bool} (x0 x1 x2 b) : Block.Kept st b (Block.setCopyErrs x0 x1 x2 b) := by
  unfold Block.setCopyErrs
  exact (.of_eq rfl rfl rfl rfl rfl)

theorem kept_scrubCopy {st : Bool} (x0 x1 x2 b) : Block.Kept st b (Block.scrubCopy x0 x1 x2 b) := by
  unfold Block.scrubCopy
  split
  · exact kept_setCopyErrs ..
  · exact .refl _

theorem kept_scrubLine {st : Bool} (x0 b) : Block.Kept st b (Block.scrubLine x0 b) := by
  unfold Block.scrubLine
  split
  · exact .refl _
  · extract_lets -merge -underBinder +onlyGivenNames v1
    clear_value v1
    exact .after (.whenA fun c2 => (kept_scrubCopy ..)) (kept_scrubCopy ..)

theorem kept_dropTxn {st : Bool} (x0 b) : Block.Kept st b (Block.dropTxn x0 b) := by
  unfold Block.dropTxn
  exact kept_modCoh ..

theorem kept_charge {st : Bool} (x0 x1 x2 b) : Block.Kept st b (Block.charge x0 x1 x2 b) := by
  unfold Block.charge
  exact .ite (fun _ => .refl _) fun _ => (.of_eq rfl rfl rfl rfl rfl)

theorem kept_storeLine (x0 x1 x2 b) : Block.Kept true b (Block.storeLine x0 x1 x2 b) := by
  unfold Block.storeLine
  exact ⟨fun h => SMap.wf_setRun _ _ h, fun h => absurd h (by decide), id, .refl _, List.prefix_refl _, id, id⟩

theorem kept_putRows {st : Bool} (x0 x1 b) : Block.Kept st b (Block.putRows x0 x1 b) := by
  unfold Block.putRows
  exact (.of_eq rfl rfl rfl rfl rfl)

theorem kept_tickFree {st : Bool} (b) : Block.Kept st b (Block.tickFree b) := by
  unfold Block.tickFree
  exact (.of_eq rfl rfl rfl rfl rfl)

theorem kept_countRow {st : Bool} (x0 x1 b) : Block.Kept st b (Block.countRow x0 x1 b).2 := by
  unfold Block.countRow
  extract_lets -merge -underBinder +onlyGivenNames v1
  clear_value v1
  split
  · exact .iteP (fun _ => .refl _) fun _ => .snd (kept_putRows ..)
  · extract_lets -merge -underBinder +onlyGivenNames v2
    clear_value v2
    refine .iteP (fun _ => ?_) fun _ => ?_
    · exact .snd (kept_putRows ..)
    · extract_lets -merge -underBinder +onlyGivenNames v3
      clear_value v3
      exact .snd (.after (kept_putRows ..) (kept_tickFree ..))

theorem kept_mapHarts {st : Bool} (x0 b) : Block.Kept st b (Block.mapHarts x0 b) := by
  unfold Block.mapHarts
  exact (.of_eq rfl rfl rfl rfl rfl)

theorem kept_pmu {st : Bool} (x0 x1 x2 x3 b) : Block.Kept st b (Block.pmu x0 x1 x2 x3 b) := by
  unfold Block.pmu
  exact .ite (fun _ => .refl _) fun _ => .ite (fun _ => .refl _) fun _ => (.forN fun i1 c1 => (.whenA fun c2 => (kept_put ..)))

theorem kept_backInval {st : Bool} (x0 x1 b) : Block.Kept st b (Block.backInval x0 x1 b) := by
  unfold Block.backInval
  extract_lets -merge -underBinder +onlyGivenNames v1
  clear_value v1
  exact .after (kept_mapHarts ..) (.forL fun i2 c2 => (kept_pmu ..))

theorem kept_setL3 {st : Bool} (x0 x1 x2 b) : Block.Kept st b (Block.setL3 x0 x1 x2 b) := by
  unfold Block.setL3
  extract_lets -merge -underBinder +onlyGivenNames v1
  have h1 : Block.Kept st b v1 := (.whenA fun c2 => (kept_backInval ..))
  clear_value v1
  exact h1.trans (kept_modCoh ..)

theorem kept_setCopyPoison {st : Bool} (x0 x1 x2 b) : Block.Kept st b (Block.setCopyPoison x0 x1 x2 b) := by
  unfold Block.setCopyPoison
  exact (.of_eq rfl rfl rfl rfl rfl)

theorem kept_storeCopies (x0 x1 x2 b) : Block.Kept true b (Block.storeCopies x0 x1 x2 b) := by
  unfold Block.storeCopies
  exact (.forL fun i1 c1 => .after (.whenA fun c2 => (kept_setCopyPoison ..)) (.after (kept_setCopyErrs ..) (kept_storeLine ..)))

theorem kept_recallLine (x0 b) : Block.Kept true b (Block.recallLine x0 b) := by
  unfold Block.recallLine
  refine .forN fun i1 c1 => ?_
  extract_lets -merge -underBinder +onlyGivenNames v2
  clear_value v2
  exact .after (.whenA fun c5 => (kept_record ..)) (.after (.whenA fun c4 => (kept_setL3 ..)) (.whenA fun c3 => (kept_storeCopies ..)))

theorem kept_storeBytes (x0 x1 x2 b) : Block.Kept true b (Block.storeBytes x0 x1 x2 b) := by
  unfold Block.storeBytes
  exact ⟨fun h => SMap.wf_setRun _ _ h, fun h => absurd h (by decide), id, .refl _, List.prefix_refl _, id, id⟩

theorem kept_pokeBytes (x0 x1 b) : Block.Kept true b (Block.pokeBytes x0 x1 b) := by
  unfold Block.pokeBytes
  extract_lets -merge -underBinder +onlyGivenNames v1
  have h1 : Block.Kept true b v1 := kept_recallLine ..
  clear_value v1
  refine .after (.forL fun i2 c2 => ?_) h1
  extract_lets -merge -underBinder +onlyGivenNames v3
  clear_value v3
  exact .after (.whenA fun c4 => (kept_setCopyPoison ..)) (.after (kept_setCopyErrs ..) (kept_storeBytes ..))

theorem kept_elogEntry (x0 x1 x2 x3 x4 x5 x6 x7 b) : Block.Kept true b (Block.elogEntry x0 x1 x2 x3 x4 x5 x6 x7 b) := by
  unfold Block.elogEntry
  extract_lets -merge -underBinder +onlyGivenNames v1
  clear_value v1
  refine .ite (fun _ => ?_) fun _ => ?_
  · exact .refl _
  · extract_lets -merge -underBinder +onlyGivenNames v2
    subst v2
    refine .ite (fun _ => ?_) fun _ => ?_
    · exact .ite (fun _ => .refl _) fun _ => .after (kept_note ..) (kept_put ..)
    · extract_lets -merge -underBinder +onlyGivenNames v3
      clear_value v3
      split
      rename_i y4 e4
      have h4 : Block.Kept true b y4 := .of_pair e4 (kept_countRow ..)
      clear e4
      extract_lets -merge -underBinder +onlyGivenNames v5
      clear_value v5
      extract_lets -merge -underBinder +onlyGivenNames v6
      clear_value v6
      extract_lets -merge -underBinder +onlyGivenNames v7
      clear_value v7
      extract_lets -merge -underBinder +onlyGivenNames v8
      clear_value v8
      extract_lets -merge -underBinder +onlyGivenNames v9
      clear_value v9
      extract_lets -merge -underBinder +onlyGivenNames v10
      subst v10
      extract_lets -merge -underBinder +onlyGivenNames v11
      have h11 : Block.Kept true b v11 := h4.trans (kept_pokeBytes ..)
      clear_value v11
      extract_lets -merge -underBinder +onlyGivenNames v12
      have h12 : Block.Kept true b v12 := .after (kept_put ..) (h11.trans (.whenA fun c13 => (kept_tickFree ..)))
      clear_value v12
      extract_lets -merge -underBinder +onlyGivenNames s14 v14
      have h14 : Block.Kept true b v14 := h12.trans (.of_eq rfl rfl rfl rfl rfl)
      clear_value v14
      exact .ite (fun _ => .ite (fun _ => h14) fun _ => .after (kept_note ..) (h14.trans (kept_put ..))) fun _ => h14

theorem kept_mcCorrected (x0 x1 x2 x3 x4 x5 x6 b) : Block.Kept true b (Block.mcCorrected x0 x1 x2 x3 x4 x5 x6 b) := by
  unfold Block.mcCorrected
  exact .after (kept_elogEntry ..) (.after (kept_noteOnce ..) (kept_inc ..))

theorem kept_mcUncorrectable (x0 x1 x2 x3 x4 x5 b) : Block.Kept true b (Block.mcUncorrectable x0 x1 x2 x3 x4 x5 b) := by
  unfold Block.mcUncorrectable
  exact .after (kept_elogEntry ..) (.after (kept_noteOnce ..) (kept_inc ..))

theorem kept_mergeFlush (x0 b) : Block.Kept true b (Block.mergeFlush x0 b) := by
  unfold Block.mergeFlush
  split
  · exact .refl _
  · extract_lets -merge -underBinder +onlyGivenNames s1 v1
    have h1 : Block.Kept true b v1 := (.of_eq rfl rfl rfl rfl rfl)
    clear_value v1
    extract_lets -merge -underBinder +onlyGivenNames v2
    clear_value v2
    extract_lets -merge -underBinder +onlyGivenNames v3
    have h3 : Block.Kept true b v3 := by
      unfold v3
      refine .ite (fun _ => ?_) fun _ => ?_
      · exact h1
      · split
        · exact .after (kept_mcCorrected ..) (h1.trans (kept_setCopyErrs ..))
        · exact .after (kept_mcUncorrectable ..) (.after (kept_setCopyErrs ..) (h1.trans (kept_setCopyPoison ..)))
        · exact h1
    clear_value v3
    exact h3.trans (kept_put ..)

theorem kept_mergeRoom (x0 x1 b) : Block.Kept true b (Block.mergeRoom x0 x1 b) := by
  unfold Block.mergeRoom
  exact (.whenA fun c1 => (kept_mergeFlush ..))

theorem kept_mergeInto (x0 x1 b) : Block.Kept true b (Block.mergeInto x0 x1 b) := by
  unfold Block.mergeInto
  extract_lets -merge -underBinder +onlyGivenNames v1
  subst v1
  extract_lets -merge -underBinder +onlyGivenNames v2
  clear_value v2
  extract_lets -merge -underBinder +onlyGivenNames v3
  have h3 : Block.Kept true b v3 := (.whenA fun c4 => (kept_mergeRoom ..))
  clear_value v3
  extract_lets -merge -underBinder +onlyGivenNames v5
  clear_value v5
  extract_lets -merge -underBinder +onlyGivenNames v6
  clear_value v6
  extract_lets -merge -underBinder +onlyGivenNames v7
  clear_value v7
  extract_lets -merge -underBinder +onlyGivenNames s8 v8
  have h8 : Block.Kept true b v8 := h3.trans (.of_eq rfl rfl rfl rfl rfl)
  clear_value v8
  exact h8.trans (kept_put ..)

theorem kept_mergeCheck (x0 x1 x2 b) : Block.Kept true b (Block.mergeCheck x0 x1 x2 b) := by
  unfold Block.mergeCheck
  extract_lets -merge -underBinder +onlyGivenNames v1
  clear_value v1
  extract_lets -merge -underBinder +onlyGivenNames v2
  clear_value v2
  exact kept_mergeInto ..

theorem kept_mcWriteOne (x0 x1 x2 x3 x4 x5 b) : Block.Kept true b (Block.mcWriteOne x0 x1 x2 x3 x4 x5 b) := by
  unfold Block.mcWriteOne
  extract_lets -merge -underBinder +onlyGivenNames v1
  have h1 : Block.Kept true b v1 := kept_charge ..
  clear_value v1
  refine .after (.forL fun i2 c2 => ?_) h1
  extract_lets -merge -underBinder +onlyGivenNames v3
  clear_value v3
  extract_lets -merge -underBinder +onlyGivenNames v4
  have h4 : Block.Kept true c2 v4 := .after (kept_setCopyErrs ..) (kept_storeLine ..)
  clear_value v4
  exact .ite (fun _ => .after (kept_mergeCheck ..) (h4.trans (kept_setCopyPoison ..))) fun _ => h4.trans (.whenA fun c5 => .after (kept_elogEntry ..) (.after (kept_note ..) (kept_inc ..)))

theorem kept_mcWrite (x0 x1 x2 x3 x4 x5 b) : Block.Kept true b (Block.mcWrite x0 x1 x2 x3 x4 x5 b) := by
  unfold Block.mcWrite
  extract_lets -merge -underBinder +onlyGivenNames v1
  clear_value v1
  extract_lets -merge -underBinder +onlyGivenNames v2
  have h2 : Block.Kept true b v2 := kept_mcWriteOne ..
  clear_value v2
  refine .after (.forL fun i3 c3 => ?_) h2
  extract_lets -merge -underBinder +onlyGivenNames v4
  have h4 : Block.Kept true c3 v4 := kept_mcWriteOne ..
  clear_value v4
  exact h4.trans (.of_eq rfl rfl rfl rfl rfl)

theorem kept_takeToken {st : Bool} (x0 x1 b) : Block.Kept st b (Block.takeToken x0 x1 b) := by
  unfold Block.takeToken
  extract_lets -merge -underBinder +onlyGivenNames v1
  clear_value v1
  extract_lets -merge -underBinder +onlyGivenNames v2
  clear_value v2
  extract_lets -merge -underBinder +onlyGivenNames v3
  clear_value v3
  extract_lets -merge -underBinder +onlyGivenNames v4
  clear_value v4
  extract_lets -merge -underBinder +onlyGivenNames v5
  subst v5
  exact .ite (fun _ => (.of_eq rfl rfl rfl rfl rfl)) fun _ => .after (kept_noteOnce ..) (.after (kept_setR ..) (.of_eq rfl rfl rfl rfl rfl))

theorem kept_takeTokens {st : Bool} (x0 x1 x2 b) : Block.Kept st b (Block.takeTokens x0 x1 x2 b) := by
  unfold Block.takeTokens
  split
  · exact .refl _
  · exact .ite (fun _ => .refl _) fun _ => .after (.whenA fun c1 => (kept_takeToken ..)) (kept_takeToken ..)

theorem kept_homeWrite (x0 x1 x2 b) : Block.Kept true b (Block.homeWrite x0 x1 x2 b) := by
  unfold Block.homeWrite
  exact .after (kept_mcWrite ..) (.whenA fun c1 => (kept_takeTokens ..))

theorem kept_saveData (x0 b) : Block.Kept true b (Block.saveData x0 b) := by
  unfold Block.saveData
  split
  · exact kept_homeWrite ..
  · exact .refl _

theorem kept_putTxn {st : Bool} (x0 b) : Block.Kept st b (Block.putTxn x0 b) := by
  unfold Block.putTxn
  exact kept_modCoh ..

theorem kept_putChecks {st : Bool} (x0 x1 b) : Block.Kept st b (Block.putChecks x0 x1 b) := by
  unfold Block.putChecks
  exact (.of_eq rfl rfl rfl rfl rfl)

theorem kept_cacheCheck {st : Bool} (x0 x1 b) : Block.Kept st b (Block.cacheCheck x0 x1 b) := by
  unfold Block.cacheCheck
  extract_lets -merge -underBinder +onlyGivenNames v1
  clear_value v1
  extract_lets -merge -underBinder +onlyGivenNames v2
  clear_value v2
  exact .ite (fun _ => .refl _) fun _ => .ite (fun _ => kept_putChecks ..) fun _ => .after (kept_putChecks ..) (kept_tickFree ..)

theorem kept_mirrorFix (x0 x1 x2 x3 b) : Block.Kept true b (Block.mirrorFix x0 x1 x2 x3 b).2 := by
  unfold Block.mirrorFix
  extract_lets -merge -underBinder +onlyGivenNames v1
  clear_value v1
  exact .snd (.after (kept_elogEntry ..) (.after (kept_note ..) (.after (kept_inc ..) (.after (kept_setCopyErrs ..) (kept_storeLine ..)))))

theorem kept_mcRead (x0 x1 x2 b) : Block.Kept true b (Block.mcRead x0 x1 x2 b).2 := by
  unfold Block.mcRead
  split
  · exact .refl _
  · extract_lets -merge -underBinder +onlyGivenNames v1
    clear_value v1
    extract_lets -merge -underBinder +onlyGivenNames v2
    have h2 : Block.Kept true b v2 := .after (kept_cacheCheck ..) (kept_charge ..)
    clear_value v2
    extract_lets -merge -underBinder +onlyGivenNames v3
    clear_value v3
    split
    · exact h2
    · exact .snd (h2.trans (kept_mcCorrected ..))
    · exact .snd (h2.trans (kept_elogEntry ..))
    · exact .snd (h2.trans (kept_tickFree ..))
    · refine .iteP (fun _ => ?_) fun _ => ?_
      · extract_lets -merge -underBinder +onlyGivenNames v4
        clear_value v4
        split
        · exact h2.trans (kept_mirrorFix ..)
        · exact .after (kept_mirrorFix ..) (h2.trans (kept_mcCorrected ..))
        · exact .snd (h2.trans (kept_mcUncorrectable ..))
      · exact .snd (h2.trans (kept_mcUncorrectable ..))

theorem kept_homeRead (x0 b) : Block.Kept true b (Block.homeRead x0 b).2 := by
  unfold Block.homeRead
  extract_lets -merge -underBinder +onlyGivenNames v1
  clear_value v1
  extract_lets -merge -underBinder +onlyGivenNames v2
  have h2 : Block.Kept true b v2 := (.whenA fun c3 => (kept_takeTokens ..))
  clear_value v2
  extract_lets -merge -underBinder +onlyGivenNames v4
  have h4 : Block.Kept true b v4.2 := h2.trans (kept_mcRead ..)
  clear_value v4
  exact h4

theorem kept_readData (x0 b) : Block.Kept true b (Block.readData x0 b).2 := by
  unfold Block.readData
  split
  · exact .refl _
  · exact kept_homeRead ..

theorem kept_reply {st : Bool} (x0 x1 b) : Block.Kept st b (Block.reply x0 x1 b) := by
  unfold Block.reply
  exact (.whenA fun c1 => (kept_emit ..))

theorem kept_grantData {st : Bool} (x0 x1 x2 b) : Block.Kept st b (Block.grantData x0 x1 x2 b) := by
  unfold Block.grantData
  extract_lets -merge -underBinder +onlyGivenNames v1
  have h1 : Block.Kept st b v1 := by
    unfold v1
    split
    · exact .ite (fun _ => kept_record ..) fun _ => .refl _
    · exact .refl _
  clear_value v1
  exact h1.trans (kept_reply ..)

theorem kept_saveEvicting (x0 b) : Block.Kept true b (Block.saveEvicting x0 b) := by
  unfold Block.saveEvicting
  exact (.whenA fun c1 => (kept_saveData ..))

theorem kept_clearLost {st : Bool} (x0 b) : Block.Kept st b (Block.clearLost x0 b) := by
  unfold Block.clearLost
  exact (.forN fun i1 c1 => .after (.whenA fun c3 => (kept_setDir ..)) (.whenA fun c2 => (kept_setFilt ..)))

end Sys2Proof.Machine
end

