-- ==== Sys2Proof/Laws/KeptOps2.lean ====
section
/-! SUPPORT. One lemma for each shared operation: what it keeps (canonical memory, fuses, the first faults, and DRAM where it stores nothing). -/

namespace Sys2Proof.Machine

theorem kept_recordOwn {st : Bool} (x0 x1 b) : Block.Kept st b (Block.recordOwn x0 x1 b) := by
  unfold Block.recordOwn
  split
  · split
    · exact kept_record ..
    · exact .refl _
  · exact .refl _

theorem kept_mergeData (x0 x1 x2 b) : Block.Kept true b (Block.mergeData x0 x1 x2 b) := by
  unfold Block.mergeData
  exact (.forL fun i1 c1 => (kept_mergeInto ..))

theorem kept_partWrite (x0 x1 x2 x3 x4 x5 x6 b) : Block.Kept true b (Block.partWrite x0 x1 x2 x3 x4 x5 x6 b) := by
  unfold Block.partWrite
  split
  rename_i y1 e1
  have h1 : Block.Kept true b y1 := .of_pair e1 (kept_mcRead ..)
  clear e1
  exact .after (kept_mergeData ..) (h1.trans (kept_mcWrite ..))

theorem kept_finishWrite (x0 b) : Block.Kept true b (Block.finishWrite x0 b) := by
  unfold Block.finishWrite
  extract_lets -merge -underBinder +onlyGivenNames v1
  clear_value v1
  extract_lets -merge -underBinder +onlyGivenNames v2
  have h2 : Block.Kept true b v2 := by
    unfold v2
    split
    · exact kept_homeWrite ..
    · exact .refl _
    · exact .after (kept_homeWrite ..) (kept_clearLost ..)
    · exact .after (kept_homeWrite ..) (kept_clearLost ..)
    · exact .after (kept_partWrite ..) (.after (.whenA fun c3 => (kept_takeTokens ..)) (kept_clearLost ..))
  clear_value v2
  exact h2.trans (kept_reply ..)

theorem kept_finishKind (x0 b) : Block.Kept true b (Block.finishKind x0 b) := by
  unfold Block.finishKind
  extract_lets -merge -underBinder +onlyGivenNames v1
  clear_value v1
  split
  · split
    rename_i y2 e2
    have h2 : Block.Kept true b y2 := .of_pair e2 (kept_readData ..)
    clear e2
    exact .after (kept_grantData ..) (h2.trans (kept_saveEvicting ..))
  · split
    rename_i y3 e3
    have h3 : Block.Kept true b y3 := .of_pair e3 (kept_readData ..)
    clear e3
    exact .after (kept_grantData ..) (h3.trans (kept_clearLost ..))
  · refine .ite (fun _ => ?_) fun _ => ?_
    · split
      rename_i y4 e4
      have h4 : Block.Kept true b y4 := .of_pair e4 (kept_readData ..)
      clear e4
      exact .after (kept_grantData ..) (h4.trans (kept_clearLost ..))
    · exact .after (kept_reply ..) (.after (kept_recordOwn ..) (.after (kept_clearLost ..) (kept_saveEvicting ..)))
  · split
    rename_i y5 e5
    have h5 : Block.Kept true b y5 := .of_pair e5 (kept_readData ..)
    clear e5
    exact .after (kept_reply ..) (.after (.whenA fun c6 => (kept_modCoh ..)) (h5.trans (kept_saveEvicting ..)))
  · exact kept_finishWrite ..
  · exact kept_finishWrite ..
  · exact .after (kept_reply ..) (kept_recordOwn ..)
  · extract_lets -merge -underBinder +onlyGivenNames v7
    clear_value v7
    exact .after (kept_reply ..) (.after (kept_recordOwn ..) (.after (.whenA fun c9 => (kept_clearLost ..)) (.whenA fun c8 => (kept_homeWrite ..))))
  · exact .after (kept_reply ..) (kept_recordOwn ..)

theorem kept_tc3Done {st : Bool} (x0 b) : Block.Kept st b (Block.tc3Done x0 b) := by
  unfold Block.tc3Done
  refine .ite (fun _ => ?_) fun _ => ?_
  · exact .refl _
  · extract_lets -merge -underBinder +onlyGivenNames v1
    clear_value v1
    extract_lets -merge -underBinder +onlyGivenNames v2
    clear_value v2
    extract_lets -merge -underBinder +onlyGivenNames v3
    clear_value v3
    extract_lets -merge -underBinder +onlyGivenNames v4
    clear_value v4
    extract_lets -merge -underBinder +onlyGivenNames v5
    clear_value v5
    exact .after (.whenA fun c6 => (kept_noteOnce ..)) (kept_modCoh ..)

theorem kept_finish (x0 b) : Block.Kept true b (Block.finish x0 b) := by
  unfold Block.finish
  extract_lets -merge -underBinder +onlyGivenNames v1
  subst v1
  exact .ite (fun _ => .after (kept_scrubLine ..) (kept_dropTxn ..)) fun _ => .ite (fun _ => .after (kept_saveData ..) (.after (.forL fun i2 c2 => (kept_record ..)) (kept_dropTxn ..))) fun _ => .ite (fun _ => .after (kept_saveData ..) (.after (.forL fun i3 c3 => (kept_record ..)) (kept_dropTxn ..))) fun _ => .ite (fun _ => kept_putTxn ..) fun _ => .after (kept_finishKind ..) (.after (kept_tc3Done ..) (.after (.forL fun i4 c4 => (kept_record ..)) (kept_dropTxn ..)))

theorem kept_tryFinish (x0 b) : Block.Kept true b (Block.tryFinish x0 b) := by
  unfold Block.tryFinish
  exact .ite (fun _ => kept_finish ..) fun _ => kept_putTxn ..

theorem kept_openTxn (x0 b) : Block.Kept true b (Block.openTxn x0 b) := by
  unfold Block.openTxn
  extract_lets -merge -underBinder +onlyGivenNames v1
  clear_value v1
  extract_lets -merge -underBinder +onlyGivenNames v2
  clear_value v2
  refine .trans ?_ (kept_tryFinish ..)
  split
  · exact (.forL fun i3 c3 => (kept_emit ..))
  · exact .refl _

theorem kept_modWait {st : Bool} (x0 x1 b) : Block.Kept st b (Block.modWait x0 x1 b) := by
  unfold Block.modWait
  exact kept_modCoh ..

theorem kept_accept (x0 b) : Block.Kept true b (Block.accept x0 b) := by
  unfold Block.accept
  extract_lets -merge -underBinder +onlyGivenNames v1
  clear_value v1
  extract_lets -merge -underBinder +onlyGivenNames v2
  clear_value v2
  extract_lets -merge -underBinder +onlyGivenNames v3
  clear_value v3
  refine .ite (fun _ => ?_) fun _ => ?_
  · exact .after (kept_retryTxn ..) (kept_unwait ..)
  · extract_lets -merge -underBinder +onlyGivenNames v4
    have h4 : Block.Kept true b v4 := kept_modCoh ..
    clear_value v4
    extract_lets -merge -underBinder +onlyGivenNames v5
    clear_value v5
    split
    · exact .after (kept_openTxn ..) (h4.trans (kept_unwait ..))
    · exact .after (kept_openTxn ..) (h4.trans (kept_unwait ..))
    · refine .ite (fun _ => ?_) fun _ => ?_
      · exact .after (kept_openTxn ..) (h4.trans (kept_unwait ..))
      · extract_lets -merge -underBinder +onlyGivenNames v6
        clear_value v6
        exact .ite (fun _ => .after (kept_openTxn ..) (.after (kept_unwait ..) (h4.trans (kept_modCoh ..)))) fun _ => .after (kept_openTxn ..) (h4.trans (kept_modWait ..))

theorem kept_modMesh {st : Bool} (x0 b) : Block.Kept st b (Block.modMesh x0 b) := by
  unfold Block.modMesh
  exact (.of_eq rfl rfl rfl rfl rfl)

theorem kept_modLend {st : Bool} (x0 x1 x2 x3 b) : Block.Kept st b (Block.modLend x0 x1 x2 x3 b) := by
  unfold Block.modLend
  exact kept_modMesh ..

theorem kept_fillTokens {st : Bool} (x0 x1 x2 b) : Block.Kept st b (Block.fillTokens x0 x1 x2 b) := by
  unfold Block.fillTokens
  extract_lets -merge -underBinder +onlyGivenNames v1
  clear_value v1
  extract_lets -merge -underBinder +onlyGivenNames v2
  clear_value v2
  extract_lets -merge -underBinder +onlyGivenNames v3
  clear_value v3
  exact kept_modMesh ..

theorem kept_decideTc3 {st : Bool} (x0 x1 b) : Block.Kept st b (Block.decideTc3 x0 x1 b).2 := by
  unfold Block.decideTc3
  refine .iteP (fun _ => ?_) fun _ => ?_
  · exact .refl _
  · extract_lets -merge -underBinder +onlyGivenNames v1
    have h1 : Block.Kept st b v1 := kept_fillTokens ..
    clear_value v1
    extract_lets -merge -underBinder +onlyGivenNames v2
    clear_value v2
    exact .iteP (fun _ => .snd (h1.trans (kept_modMesh ..))) fun _ => .snd (.after (kept_noteOnce ..) (h1.trans (kept_put ..)))

theorem kept_ingressClass {st : Bool} (x0 x1 x2 x3 b) : Block.Kept st b (Block.ingressClass x0 x1 x2 x3 b).2 := by
  unfold Block.ingressClass
  split
  · refine .iteP (fun _ => ?_) fun _ => ?_
    · extract_lets -merge -underBinder +onlyGivenNames v1
      have h1 : Block.Kept st b v1.2 := kept_decideTc3 ..
      clear_value v1
      exact h1
    · exact .refl _
  · exact .refl _

theorem kept_entered {st : Bool} (x0 x1 x2 x3 b) : Block.Kept st b (Block.entered x0 x1 x2 x3 b) := by
  unfold Block.entered
  exact .after (kept_modCoh ..) (kept_pmu ..)

theorem kept_passHub {st : Bool} (x0 x1 b) : Block.Kept st b (Block.passHub x0 x1 b).2 := by
  unfold Block.passHub
  extract_lets -merge -underBinder +onlyGivenNames v1
  clear_value v1
  extract_lets -merge -underBinder +onlyGivenNames v2
  have h2 : Block.Kept st b v2.2 := .iteP (fun _ => kept_ingressClass ..) fun _ => .refl _
  clear_value v2
  extract_lets -merge -underBinder +onlyGivenNames v3
  have h3 : Block.Kept st b v3 := .after (.whenA fun c5 => (kept_entered ..)) (h2.trans (.whenA fun c4 => (kept_modReq ..)))
  clear_value v3
  extract_lets -merge -underBinder +onlyGivenNames v6
  clear_value v6
  extract_lets -merge -underBinder +onlyGivenNames v7
  clear_value v7
  split
  · exact h3
  · exact h3

theorem kept_acceptFlit {st : Bool} (x0 x1 x2 x3 b) : Block.Kept st b (Block.acceptFlit x0 x1 x2 x3 b) := by
  unfold Block.acceptFlit
  extract_lets -merge -underBinder +onlyGivenNames v1
  have h1 : Block.Kept st b v1 := kept_modLend ..
  clear_value v1
  refine .ite (fun _ => ?_) fun _ => ?_
  · split
    rename_i y2 e2
    have h2 : Block.Kept st b y2 := .of_pair e2 (h1.trans (kept_passHub ..))
    clear e2
    exact h2.trans (kept_modLend ..)
  · exact h1

theorem kept_enterDebug {st : Bool} (x0 x1 b) : Block.Kept st b (Block.enterDebug x0 x1 b) := by
  unfold Block.enterDebug
  extract_lets -merge -underBinder +onlyGivenNames v1
  clear_value v1
  extract_lets -merge -underBinder +onlyGivenNames v2
  clear_value v2
  exact .after (kept_modHart ..) (.after (kept_setCsr ..) (kept_setCsr ..))

theorem kept_trapM {st : Bool} (x0 x1 b) : Block.Kept st b (Block.trapM x0 x1 b) := by
  unfold Block.trapM
  extract_lets -merge -underBinder +onlyGivenNames v1
  clear_value v1
  extract_lets -merge -underBinder +onlyGivenNames v2
  clear_value v2
  extract_lets -merge -underBinder +onlyGivenNames v3
  clear_value v3
  exact .after (kept_modHart ..) (.after (kept_setCsr ..) (.after (kept_setCsr ..) (.after (kept_setCsr ..) (.after (kept_setCsr ..) (.after (kept_setCsr ..) (.after (kept_setCsr ..) (kept_setCsr ..)))))))

theorem kept_trapVs {st : Bool} (x0 x1 b) : Block.Kept st b (Block.trapVs x0 x1 b) := by
  unfold Block.trapVs
  extract_lets -merge -underBinder +onlyGivenNames v1
  clear_value v1
  extract_lets -merge -underBinder +onlyGivenNames v2
  clear_value v2
  exact .after (kept_modHart ..) (.after (kept_setCsr ..) (.after (kept_setCsr ..) (.after (kept_setCsr ..) (.after (kept_setCsr ..) (kept_setCsr ..)))))

theorem kept_trapS {st : Bool} (x0 x1 b) : Block.Kept st b (Block.trapS x0 x1 b) := by
  unfold Block.trapS
  extract_lets -merge -underBinder +onlyGivenNames v1
  clear_value v1
  extract_lets -merge -underBinder +onlyGivenNames v2
  clear_value v2
  extract_lets -merge -underBinder +onlyGivenNames v3
  clear_value v3
  exact .after (kept_modHart ..) (.after (kept_setCsr ..) (.after (kept_setCsr ..) (.after (kept_setCsr ..) (.after (kept_setCsr ..) (.after (kept_setCsr ..) (.after (kept_setCsr ..) (kept_setCsr ..)))))))

theorem kept_takeTrap {st : Bool} (x0 x1 b) : Block.Kept st b (Block.takeTrap x0 x1 b) := by
  unfold Block.takeTrap
  extract_lets -merge -underBinder +onlyGivenNames v1
  clear_value v1
  extract_lets -merge -underBinder +onlyGivenNames v2
  clear_value v2
  extract_lets -merge -underBinder +onlyGivenNames v3
  have h3 : Block.Kept st b v3 := by
    unfold v3
    split
    · exact kept_setCsr ..
    · exact .refl _
  clear_value v3
  exact .ite (fun _ => h3.trans (kept_trapM ..)) fun _ => .ite (fun _ => h3.trans (kept_trapVs ..)) fun _ => h3.trans (kept_trapS ..)

theorem kept_trigAct {st : Bool} (x0 x1 x2 b) : Block.Kept st b (Block.trigAct x0 x1 x2 b).2 := by
  unfold Block.trigAct
  exact .iteP (fun _ => .iteP (fun _ => .snd (kept_enterDebug ..)) fun _ => .refl _) fun _ => .iteP (fun _ => .snd (kept_takeTrap ..)) fun _ => .refl _

theorem kept_trigAccess {st : Bool} (x0 x1 x2 x3 b) : Block.Kept st b (Block.trigAccess x0 x1 x2 x3 b).2 := by
  unfold Block.trigAccess
  extract_lets -merge -underBinder +onlyGivenNames v1
  clear_value v1
  split
  · exact .after (kept_trigAct ..) (kept_modTrig ..)
  · exact .refl _

theorem kept_access {st : Bool} (x0 x1 x2 x3 x4 b) (h : ∀ (c : Block), Block.Kept st c (x4 c)) : Block.Kept st b (Block.access x0 x1 x2 x3 x4 b) := by
  unfold Block.access
  split
  · rename_i y1 e1
    have h1 : Block.Kept st b y1 := .of_pair e1 (kept_trigAccess ..)
    clear e1
    exact h1
  · rename_i y2 e2
    have h2 : Block.Kept st b y2 := .of_pair e2 (kept_trigAccess ..)
    clear e2
    exact h2.trans (h ..)

theorem kept_mbxErr {st : Bool} (x0 x1 x2 b) : Block.Kept st b (Block.mbxErr x0 x1 x2 b) := by
  unfold Block.mbxErr
  exact .after (kept_put ..) (.after (kept_put ..) (kept_put ..))

theorem kept_postRefused {st : Bool} (x0 x1 b) : Block.Kept st b (Block.postRefused x0 x1 b) := by
  unfold Block.postRefused
  exact .after (kept_note ..) (kept_mbxErr ..)

theorem kept_post {st : Bool} (x0 x1 x2 x3 b) : Block.Kept st b (Block.post x0 x1 x2 x3 b) := by
  unfold Block.post
  extract_lets -merge -underBinder +onlyGivenNames v1
  clear_value v1
  refine .ite (fun _ => ?_) fun _ => ?_
  · extract_lets -merge -underBinder +onlyGivenNames v2
    clear_value v2
    extract_lets -merge -underBinder +onlyGivenNames v3
    have h3 : Block.Kept st b v3 := kept_modChan ..
    clear_value v3
    exact .ite (fun _ => h3) fun _ => h3.trans (kept_notify ..)
  · exact kept_postRefused ..

theorem kept_postHeld {st : Bool} (x0 b) : Block.Kept st b (Block.postHeld x0 b) := by
  unfold Block.postHeld
  extract_lets -merge -underBinder +onlyGivenNames v1
  subst v1
  split
  · exact .refl _
  · exact .ite (fun _ => .refl _) fun _ => .after (kept_post ..) (.after (kept_modChan ..) (.of_eq rfl rfl rfl rfl rfl))

theorem kept_ack {st : Bool} (x0 b) : Block.Kept st b (Block.ack x0 b) := by
  unfold Block.ack
  exact .ite (fun _ => .after (.whenA fun c1 => (kept_postHeld ..)) (kept_modChan ..)) fun _ => .refl _

theorem kept_ackAbort {st : Bool} (x0 b) : Block.Kept st b (Block.ackAbort x0 b) := by
  unfold Block.ackAbort
  exact .ite (fun _ => kept_modChan ..) fun _ => .refl _

theorem kept_ackForSail {st : Bool} (x0 b) : Block.Kept st b (Block.ackForSail x0 b) := by
  unfold Block.ackForSail
  exact kept_mapHarts ..

theorem kept_cnt {st : Bool} (x0 x1 x2 b) : Block.Kept st b (Block.cnt x0 x1 x2 b) := by
  unfold Block.cnt
  exact kept_put ..

theorem kept_modLvp {st : Bool} (x0 b) : Block.Kept st b (Block.modLvp x0 b) := by
  unfold Block.modLvp
  exact (.of_eq rfl rfl rfl rfl rfl)

theorem kept_modPort {st : Bool} (x0 x1 b) : Block.Kept st b (Block.modPort x0 x1 b) := by
  unfold Block.modPort
  exact kept_modLvp ..

theorem kept_discard {st : Bool} (x0 b) : Block.Kept st b (Block.discard x0 b) := by
  unfold Block.discard
  exact kept_modPort ..

theorem kept_dropOutputs {st : Bool} (x0 b) : Block.Kept st b (Block.dropOutputs x0 b) := by
  unfold Block.dropOutputs
  extract_lets -merge -underBinder +onlyGivenNames v1
  clear_value v1
  extract_lets -merge -underBinder +onlyGivenNames v2
  clear_value v2
  exact .ite (fun _ => .refl _) fun _ => .after (kept_cnt ..) (kept_modPort ..)

theorem kept_showKeys {st : Bool} (x0 b) : Block.Kept st b (Block.showKeys x0 b) := by
  unfold Block.showKeys
  extract_lets -merge -underBinder +onlyGivenNames v1
  clear_value v1
  extract_lets -merge -underBinder +onlyGivenNames v2
  subst v2
  exact .after (kept_put ..) (.after (kept_put ..) (kept_put ..))

theorem kept_turnKey {st : Bool} (x0 b) : Block.Kept st b (Block.turnKey x0 b) := by
  unfold Block.turnKey
  extract_lets -merge -underBinder +onlyGivenNames v1
  clear_value v1
  split
  · exact .ite (fun _ => .after (kept_showKeys ..) (.after (kept_put ..) (kept_modPort ..))) fun _ => .refl _
  · exact .refl _

theorem kept_sendNative {st : Bool} (x0 x1 b) : Block.Kept st b (Block.sendNative x0 x1 b) := by
  unfold Block.sendNative
  extract_lets -merge -underBinder +onlyGivenNames v1
  have h1 : Block.Kept st b v1 := kept_turnKey ..
  clear_value v1
  extract_lets -merge -underBinder +onlyGivenNames v2
  clear_value v2
  extract_lets -merge -underBinder +onlyGivenNames v3
  clear_value v3
  extract_lets -merge -underBinder +onlyGivenNames v4
  clear_value v4
  refine .ite (fun _ => ?_) fun _ => ?_
  · exact h1.trans (kept_note ..)
  · extract_lets -merge -underBinder +onlyGivenNames v5
    clear_value v5
    extract_lets -merge -underBinder +onlyGivenNames v6
    clear_value v6
    extract_lets -merge -underBinder +onlyGivenNames v7
    clear_value v7
    extract_lets -merge -underBinder +onlyGivenNames v8
    clear_value v8
    extract_lets -merge -underBinder +onlyGivenNames v9
    have h9 : Block.Kept st b v9 := .after (kept_modPort ..) (h1.trans (kept_put ..))
    clear_value v9
    extract_lets -merge -underBinder +onlyGivenNames v10
    have h10 : Block.Kept st b v10 := .ite (fun _ => h9.trans (kept_showKeys ..)) fun _ => h9
    clear_value v10
    exact .after (kept_cnt ..) (h10.trans (kept_emit ..))

theorem kept_macSend {st : Bool} (x0 b) : Block.Kept st b (Block.macSend x0 b).2 := by
  unfold Block.macSend
  extract_lets -merge -underBinder +onlyGivenNames v1
  clear_value v1
  extract_lets -merge -underBinder +onlyGivenNames v2
  have h2 : Block.Kept st b v2 := .ite (fun _ => kept_tickFree ..) fun _ => .refl _
  clear_value v2
  extract_lets -merge -underBinder +onlyGivenNames v3
  clear_value v3
  split
  · exact h2
  · extract_lets -merge -underBinder +onlyGivenNames v4
    clear_value v4
    exact .iteP (fun _ => .snd (h2.trans (kept_note ..))) fun _ => .snd (h2.trans (kept_modPort ..))

theorem kept_sendFrame {st : Bool} (x0 x1 x2 x3 b) : Block.Kept st b (Block.sendFrame x0 x1 x2 x3 b) := by
  unfold Block.sendFrame
  split
  · rename_i y1 e1
    have h1 : Block.Kept st b y1 := .of_pair e1 (kept_macSend ..)
    clear e1
    exact h1
  · rename_i y2 e2
    have h2 : Block.Kept st b y2 := .of_pair e2 (kept_macSend ..)
    clear e2
    exact .after (kept_cnt ..) (h2.trans (kept_emit ..))

theorem kept_putSack {st : Bool} (x0 x1 b) : Block.Kept st b (Block.putSack x0 x1 b) := by
  unfold Block.putSack
  extract_lets -merge -underBinder +onlyGivenNames v1
  have h1 : Block.Kept st b v1 := .ite (fun _ => kept_sendNative ..) fun _ => .ite (fun _ => kept_sendFrame ..) fun _ => kept_sendFrame ..
  clear_value v1
  exact .ite (fun _ => h1.trans (kept_charge ..)) fun _ => h1

theorem kept_sendQueued {st : Bool} (x0 x1 b) : Block.Kept st b (Block.sendQueued x0 x1 b) := by
  unfold Block.sendQueued
  exact .after (kept_putSack ..) (kept_modPort ..)

theorem kept_drainF {st : Bool} (x0 x1 b) : Block.Kept st b (Block.drainF x0 x1 b) := by
  induction x1 generalizing b with
  | zero =>
    unfold Block.drainF
    exact .refl _
  | succ n ih =>
    unfold Block.drainF
    split
    · exact .after (ih ..) (.after (kept_putSack ..) (kept_modPort ..))
    · split
      · exact .after (ih ..) (kept_sendQueued ..)
      · split
        · exact .after (ih ..) (.after (kept_sendQueued ..) (kept_modPort ..))
        · exact .refl _

theorem kept_drain {st : Bool} (x0 b) : Block.Kept st b (Block.drain x0 b) := by
  unfold Block.drain
  extract_lets -merge -underBinder +onlyGivenNames v1
  have h1 : Block.Kept st b v1 := kept_dropOutputs ..
  clear_value v1
  exact h1.trans (kept_drainF ..)

theorem kept_offerSack {st : Bool} (x0 x1 b) : Block.Kept st b (Block.offerSack x0 x1 b) := by
  unfold Block.offerSack
  exact .ite (fun _ => kept_discard ..) fun _ => .after (kept_drain ..) (kept_modPort ..)

theorem kept_forwardTo {st : Bool} (x0 x1 b) : Block.Kept st b (Block.forwardTo x0 x1 b) := by
  unfold Block.forwardTo
  split
  · exact .refl _
  · exact .ite (fun _ => kept_cnt ..) fun _ => kept_offerSack ..

theorem kept_modSlc {st : Bool} (x0 b) : Block.Kept st b (Block.modSlc x0 b) := by
  unfold Block.modSlc
  exact (.of_eq rfl rfl rfl rfl rfl)

theorem kept_modFlow {st : Bool} (x0 x1 b) : Block.Kept st b (Block.modFlow x0 x1 b) := by
  unfold Block.modFlow
  exact kept_modSlc ..

theorem kept_flowTaken {st : Bool} (x0 b) : Block.Kept st b (Block.flowTaken x0 b) := by
  unfold Block.flowTaken
  exact kept_modFlow ..

theorem kept_actForward {st : Bool} (x0 x1 b) : Block.Kept st b (Block.actForward x0 x1 b) := by
  unfold Block.actForward
  split
  · exact .refl _
  · exact .after (kept_forwardTo ..) (kept_flowTaken ..)

theorem kept_flowDrop {st : Bool} (x0 x1 b) : Block.Kept st b (Block.flowDrop x0 x1 b) := by
  unfold Block.flowDrop
  exact .after (.whenA fun c1 => (kept_noteOnce ..)) (kept_modFlow ..)

theorem kept_modTu {st : Bool} (x0 b) : Block.Kept st b (Block.modTu x0 b) := by
  unfold Block.modTu
  exact (.of_eq rfl rfl rfl rfl rfl)

theorem kept_actWindow {st : Bool} (x0 x1 b) : Block.Kept st b (Block.actWindow x0 x1 b) := by
  unfold Block.actWindow
  split
  · exact .refl _
  · extract_lets -merge -underBinder +onlyGivenNames v1
    clear_value v1
    extract_lets -merge -underBinder +onlyGivenNames v2
    clear_value v2
    extract_lets -merge -underBinder +onlyGivenNames v3
    clear_value v3
    refine .ite (fun _ => ?_) fun _ => ?_
    · exact kept_flowDrop ..
    · extract_lets -merge -underBinder +onlyGivenNames v4
      subst v4
      extract_lets -merge -underBinder +onlyGivenNames v5
      clear_value v5
      extract_lets -merge -underBinder +onlyGivenNames v6
      clear_value v6
      refine .ite (fun _ => ?_) fun _ => ?_
      · exact .after (kept_noteOnce ..) (kept_flowDrop ..)
      · extract_lets -merge -underBinder +onlyGivenNames v7
        have h7 : Block.Kept st b v7 := .ite (fun _ => kept_modFlow ..) fun _ => .refl _
        clear_value v7
        extract_lets -merge -underBinder +onlyGivenNames v8
        clear_value v8
        extract_lets -merge -underBinder +onlyGivenNames v9
        clear_value v9
        exact .after (kept_flowTaken ..) (.after (kept_charge ..) (h7.trans (kept_modTu ..)))

theorem kept_addErrs {st : Bool} (x0 x1 x2 b) : Block.Kept st b (Block.addErrs x0 x1 x2 b) := by
  unfold Block.addErrs
  split
  · exact .refl _
  · exact .after (.whenA fun c1 => (kept_setCopyErrs ..)) (kept_setCopyErrs ..)

theorem kept_showCache {st : Bool} (b) : Block.Kept st b (Block.showCache b) := by
  unfold Block.showCache
  exact .after (kept_put ..) (kept_put ..)

theorem kept_dropFlow {st : Bool} (x0 b) : Block.Kept st b (Block.dropFlow x0 b) := by
  unfold Block.dropFlow
  exact .after (kept_showCache ..) (kept_modSlc ..)

theorem kept_flushOut {st : Bool} (b) : Block.Kept st b (Block.flushOut b) := by
  unfold Block.flushOut
  exact (.of_eq rfl rfl rfl rfl rfl)

theorem kept_dropReq {st : Bool} (x0 x1 b) : Block.Kept st b (Block.dropReq x0 x1 b) := by
  unfold Block.dropReq
  exact kept_modCoh ..

theorem kept_syncOpen {st : Bool} (b) : Block.Kept st b (Block.syncOpen b) := by
  unfold Block.syncOpen
  exact (.forN fun i1 c1 => (kept_put ..))

theorem kept_pump (x0 b) : Block.Kept true b (Block.pump x0 b) := by
  induction x0 generalizing b with
  | zero =>
    unfold Block.pump
    exact kept_syncOpen ..
  | succ n ih =>
    unfold Block.pump
    split
    · exact .after (ih ..) (.after (kept_openTxn ..) (kept_unwait ..))
    · split
      · exact .after (ih ..) (kept_finish ..)
      · split
        · exact .after (ih ..) (kept_accept ..)
        · exact kept_syncOpen ..

theorem kept_settle (b) : Block.Kept true b (Block.settle b) := by
  unfold Block.settle
  exact kept_pump ..

theorem kept_enter (x0 b) : Block.Kept true b (Block.enter x0 b) := by
  unfold Block.enter
  extract_lets -merge -underBinder +onlyGivenNames v1
  clear_value v1
  extract_lets -merge -underBinder +onlyGivenNames v2
  subst v2
  refine .ite (fun _ => ?_) fun _ => ?_
  · exact .after (kept_dropReq ..) (.after (kept_reply ..) (kept_note ..))
  · split
    · exact .after (kept_dropReq ..) (.after (kept_reply ..) (kept_note ..))
    · exact .after (kept_settle ..) (kept_modCoh ..)

theorem kept_arrive (x0 x1 x2 x3 x4 x5 x6 b) : Block.Kept true b (Block.arrive x0 x1 x2 x3 x4 x5 x6 b) := by
  unfold Block.arrive
  extract_lets -merge -underBinder +onlyGivenNames v1
  clear_value v1
  extract_lets -merge -underBinder +onlyGivenNames v2
  have h2 : Block.Kept true b v2 := .ite (fun _ => kept_modCoh ..) fun _ => kept_modReq ..
  clear_value v2
  extract_lets -merge -underBinder +onlyGivenNames v3
  clear_value v3
  extract_lets -merge -underBinder +onlyGivenNames v4
  clear_value v4
  extract_lets -merge -underBinder +onlyGivenNames v5
  have h5 : Block.Kept true b v5 := by
    unfold v5
    split
    · exact h2.trans (kept_modCoh ..)
    · exact h2
  clear_value v5
  exact h5.trans (kept_enter ..)

theorem kept_wrData (x0 x1 x2 x3 x4 x5 b) {c : Block} (e : Block.wrData x0 x1 x2 x3 x4 x5 b = some c) : Block.Kept true b c := by
  unfold Block.wrData at e
  extract_lets -merge -underBinder +onlyGivenNames s0 v1 at e
  split at e
  · injection e with e
    subst e
    exact (kept_tryFinish ..).trans (kept_settle ..)
  · split at e
    · injection e with e
      subst e
      exact kept_modCoh ..
    · injection e

theorem kept_takeWrData (x0 x1 x2 x3 x4 x5 b) {c : Block} (e : Block.takeWrData x0 x1 x2 x3 x4 x5 b = some c) : Block.Kept true b c := by
  unfold Block.takeWrData at e
  extract_lets -merge -underBinder +onlyGivenNames v1 at e
  rw [Option.map_eq_some_iff] at e
  obtain ⟨y, e, rfl⟩ := e
  refine (kept_wrData _ _ _ _ _ _ _ e).trans ?_
  split
  · exact kept_pmu ..
  · exact .refl _

theorem kept_privClean {st : Bool} (x0 x1 b) : Block.Kept st b (Block.privClean x0 x1 b) := by
  unfold Block.privClean
  exact kept_mapHarts ..

theorem kept_snoopL3 {st : Bool} (x0 x1 x2 x3 b) : Block.Kept st b (Block.snoopL3 x0 x1 x2 x3 b) := by
  unfold Block.snoopL3
  extract_lets -merge -underBinder +onlyGivenNames v1
  clear_value v1
  refine .ite (fun _ => ?_) fun _ => ?_
  · exact .refl _
  · extract_lets -merge -underBinder +onlyGivenNames v2
    clear_value v2
    extract_lets -merge -underBinder +onlyGivenNames v3
    have h3 : Block.Kept st b v3 := .after (kept_pmu ..) (kept_pmu ..)
    clear_value v3
    split
    · exact .after (.whenA fun c4 => (kept_emit ..)) (h3.trans (kept_emit ..))
    · extract_lets -merge -underBinder +onlyGivenNames v5
      clear_value v5
      extract_lets -merge -underBinder +onlyGivenNames v6
      clear_value v6
      extract_lets -merge -underBinder +onlyGivenNames v7
      clear_value v7
      exact .after (.whenA fun c8 => (kept_emit ..)) (.after (kept_emit ..) (.after (kept_setL3 ..) (h3.trans (kept_privClean ..))))

theorem kept_snpResp (x0 x1 x2 x3 x4 x5 b) {c : Block} (e : Block.snpResp x0 x1 x2 x3 x4 x5 b = some c) : Block.Kept true b c := by
  unfold Block.snpResp at e
  split at e
  · injection e
  · rw [Option.ite_none_left_eq_some] at e
    replace e := e.2
    dsimp only at e
    injection e with e
    subst e
    exact (Block.Kept.whenA fun _ => kept_record ..).trans ((kept_tryFinish ..).trans (kept_settle ..))

theorem kept_snpData (x0 x1 x2 x3 x4 b) {c : Block} (e : Block.snpData x0 x1 x2 x3 x4 b = some c) : Block.Kept true b c := by
  unfold Block.snpData at e
  split at e
  · injection e
  · split at e
    · injection e
    · split at e
      · injection e with e
        subst e
        exact (kept_tryFinish ..).trans (kept_settle ..)
      · split at e
        · injection e with e
          subst e
          exact kept_putTxn ..
        · injection e

theorem kept_lateAnswer {st : Bool} (x0 x1 b) : Block.Kept st b (Block.lateAnswer x0 x1 b) := by
  unfold Block.lateAnswer
  exact .after (kept_note ..) (.after (kept_dropReq ..) (kept_modCoh ..))

theorem kept_issueFor {st : Bool} (x0 x1 x2 x3 x4 x5 x6 x7 b) : Block.Kept st b (Block.issueFor x0 x1 x2 x3 x4 x5 x6 x7 b) := by
  unfold Block.issueFor
  split
  · exact .refl _
  · exact .after (kept_emit ..) (kept_modCoh ..)

theorem kept_issue {st : Bool} (x0 x1 x2 x3 x4 x5 x6 b) : Block.Kept st b (Block.issue x0 x1 x2 x3 x4 x5 x6 b) := by
  unfold Block.issue
  exact kept_issueFor ..

theorem kept_evictLine {st : Bool} (x0 x1 x2 x3 b) : Block.Kept st b (Block.evictLine x0 x1 x2 x3 b) := by
  unfold Block.evictLine
  extract_lets -merge -underBinder +onlyGivenNames v1
  clear_value v1
  split
  · exact .refl _
  · exact .refl _
  · extract_lets -merge -underBinder +onlyGivenNames v2
    clear_value v2
    extract_lets -merge -underBinder +onlyGivenNames v3
    have h3 : Block.Kept st b v3 := .after (kept_modCoh ..) (kept_setL3 ..)
    clear_value v3
    extract_lets -merge -underBinder +onlyGivenNames v4
    have h4 : Block.Kept st b v4 := .after (kept_pmu ..) (h3.trans (kept_issue ..))
    clear_value v4
    exact .ite (fun _ => h4.trans (kept_emit ..)) fun _ => h4

theorem kept_modSail {st : Bool} (x0 x1 b) : Block.Kept st b (Block.modSail x0 x1 b) := by
  unfold Block.modSail
  exact (.of_eq rfl rfl rfl rfl rfl)

theorem kept_leave {st : Bool} (x0 x1 b) : Block.Kept st b (Block.leave x0 x1 b) := by
  unfold Block.leave
  exact .ite (fun _ => kept_evictLine ..) fun _ => kept_modSail ..

theorem kept_leaveOn {st : Bool} (x0 b) : Block.Kept st b (Block.leaveOn x0 b) := by
  unfold Block.leaveOn
  extract_lets -merge -underBinder +onlyGivenNames v1
  clear_value v1
  extract_lets -merge -underBinder +onlyGivenNames v2
  clear_value v2
  refine .forL fun i3 c3 => ?_
  extract_lets -merge -underBinder +onlyGivenNames v4
  have h4 : Block.Kept st c3 v4 := (.whenA fun c5 => .after (kept_pmu ..) (kept_pmu ..))
  clear_value v4
  exact .after (kept_leave ..) (h4.trans (kept_modSail ..))

theorem kept_cleanLine (x0 x1 x2 b) : Block.Kept true b (Block.cleanLine x0 x1 x2 b) := by
  unfold Block.cleanLine
  extract_lets -merge -underBinder +onlyGivenNames v1
  clear_value v1
  refine .ite (fun _ => ?_) fun _ => ?_
  · exact .refl _
  · extract_lets -merge -underBinder +onlyGivenNames v2
    clear_value v2
    extract_lets -merge -underBinder +onlyGivenNames v3
    clear_value v3
    exact .after (kept_record ..) (.after (kept_setL3 ..) (.after (kept_mcWrite ..) (kept_privClean ..)))

theorem kept_mntWrote {st : Bool} (x0 x1 b) : Block.Kept st b (Block.mntWrote x0 x1 b) := by
  unfold Block.mntWrote
  exact (.whenA fun c1 => .after (kept_pmu ..) (kept_inc ..))

theorem kept_mntVisit {st : Bool} (x0 b) : Block.Kept st b (Block.mntVisit x0 b) := by
  unfold Block.mntVisit
  exact kept_pmu ..

theorem kept_lockLoadLine {st : Bool} (x0 x1 b) : Block.Kept st b (Block.lockLoadLine x0 x1 b).2 := by
  unfold Block.lockLoadLine
  extract_lets -merge -underBinder +onlyGivenNames v1
  clear_value v1
  refine .iteP (fun _ => ?_) fun _ => ?_
  · exact .refl _
  · refine .iteP (fun _ => ?_) fun _ => ?_
    · split
      · exact .snd (kept_inc ..)
      · exact .snd (.after (kept_inc ..) (.after (kept_record ..) (kept_setL3 ..)))
    · refine .iteP (fun _ => ?_) fun _ => ?_
      · exact .refl _
      · split
        · exact .snd (kept_inc ..)
        · exact .snd (kept_issueFor ..)

theorem kept_mntLine (x0 x1 b) : Block.Kept true b (Block.mntLine x0 x1 b) := by
  unfold Block.mntLine
  split
  · exact .ite (fun _ => kept_modSail ..) fun _ => .after (kept_cleanLine ..) (.after (kept_mntWrote ..) (kept_mntVisit ..))
  · exact .ite (fun _ => .refl _) fun _ => .after (kept_modSail ..) (kept_mntVisit ..)
  · split
    · rename_i y1 e1
      have h1 : Block.Kept true b y1 := .of_pair e1 (kept_lockLoadLine ..)
      clear e1
      exact h1.trans (kept_mntVisit ..)
    · rename_i y2 e2
      have h2 : Block.Kept true b y2 := .of_pair e2 (kept_lockLoadLine ..)
      clear e2
      exact h2.trans (kept_modSail ..)

theorem kept_mntEvict {st : Bool} (x0 x1 b) : Block.Kept st b (Block.mntEvict x0 x1 b) := by
  induction x1 generalizing b with
  | nil =>
    unfold Block.mntEvict
    exact .refl _
  | cons v vs ih =>
    unfold Block.mntEvict
    exact .ite (fun _ => .after (ih ..) (kept_modSail ..)) fun _ => .ite (fun _ => .after (ih ..) (.after (kept_modSail ..) (.after (kept_evictLine ..) (kept_mntWrote ..)))) fun _ => (ih ..)

theorem kept_mntLoad {st : Bool} (x0 x1 x2 b) : Block.Kept st b (Block.mntLoad x0 x1 x2 b) := by
  induction x2 generalizing b with
  | zero =>
    unfold Block.mntLoad
    exact .refl _
  | succ n ih =>
    unfold Block.mntLoad
    extract_lets -merge -underBinder +onlyGivenNames v1
    clear_value v1
    extract_lets -merge -underBinder +onlyGivenNames v2
    subst v2
    refine .ite (fun _ => ?_) fun _ => ?_
    · exact .refl _
    · refine .ite (fun _ => ?_) fun _ => ?_
      · exact .after (ih ..) (.after (kept_modSail ..) (kept_modSail ..))
      · split
        · rename_i y3 e3
          have h3 : Block.Kept st b y3 := .of_pair e3 (kept_lockLoadLine ..)
          clear e3
          exact .after (ih ..) (.after (kept_mntVisit ..) (h3.trans (kept_modSail ..)))
        · rename_i y4 e4
          have h4 : Block.Kept st b y4 := .of_pair e4 (kept_lockLoadLine ..)
          clear e4
          exact h4

theorem kept_mntOn (x0 b) : Block.Kept true b (Block.mntOn x0 b) := by
  unfold Block.mntOn
  refine .ite (fun _ => ?_) fun _ => ?_
  · exact .refl _
  · extract_lets -merge -underBinder +onlyGivenNames v1
    clear_value v1
    extract_lets -merge -underBinder +onlyGivenNames v2
    have h2 : Block.Kept true b v2 := .after (.forL fun i3 c3 => (kept_mntLine ..)) (kept_modSail ..)
    clear_value v2
    extract_lets -merge -underBinder +onlyGivenNames v4
    have h4 : Block.Kept true b v4 := h2.trans (kept_mntEvict ..)
    clear_value v4
    refine .ite (fun _ => ?_) fun _ => ?_
    · extract_lets -merge -underBinder +onlyGivenNames v5
      clear_value v5
      exact h4.trans (kept_mntLoad ..)
    · exact h4

theorem kept_l3On (x0 b) : Block.Kept true b (Block.l3On x0 b) := by
  unfold Block.l3On
  exact .after (kept_leaveOn ..) (kept_mntOn ..)

theorem kept_takeComp (x0 x1 x2 b) : Block.Kept true b (Block.takeComp x0 x1 x2 b) := by
  unfold Block.takeComp
  split
  · exact kept_lateAnswer ..
  · extract_lets -merge -underBinder +onlyGivenNames v1
    clear_value v1
    extract_lets -merge -underBinder +onlyGivenNames v2
    have h2 : Block.Kept true b v2 := .ite (fun _ => kept_lateAnswer ..) fun _ => kept_dropReq ..
    clear_value v2
    split
    · exact h2
    · extract_lets -merge -underBinder +onlyGivenNames v3
      clear_value v3
      extract_lets -merge -underBinder +onlyGivenNames v4
      have h4 : Block.Kept true b v4 := by
        unfold v4
        split
        · exact .ite (fun _ => h2) fun _ => .after (.whenA fun c5 => (kept_leave ..)) (h2.trans (kept_setL3 ..))
        · exact .ite (fun _ => h2) fun _ => h2.trans (kept_setL3 ..)
        · exact h2
      clear_value v4
      exact h4.trans (kept_l3On ..)

theorem kept_install {st : Bool} (x0 x1 x2 x3 x4 x5 b) : Block.Kept st b (Block.install x0 x1 x2 x3 x4 x5 b) := by
  unfold Block.install
  exact kept_setL3 ..

theorem kept_takeCompData (x0 x1 x2 x3 x4 x5 b) : Block.Kept true b (Block.takeCompData x0 x1 x2 x3 x4 x5 b) := by
  unfold Block.takeCompData
  split
  · exact kept_lateAnswer ..
  · extract_lets -merge -underBinder +onlyGivenNames v1
    clear_value v1
    split
    · extract_lets -merge -underBinder +onlyGivenNames v2
      have h2 : Block.Kept true b v2 := .after (.whenA fun c3 => (kept_inc ..)) (.after (kept_pmu ..) (.after (kept_install ..) (kept_dropReq ..)))
      clear_value v2
      exact .after (kept_l3On ..) (.ite (fun _ => h2) fun _ => h2.trans (kept_leave ..))
    · exact .ite (fun _ => kept_lateAnswer ..) fun _ => kept_dropReq ..

theorem kept_takeEvictAck (x0 x1 b) : Block.Kept true b (Block.takeEvictAck x0 x1 b) := by
  unfold Block.takeEvictAck
  extract_lets -merge -underBinder +onlyGivenNames v1
  clear_value v1
  exact .after (kept_l3On ..) (kept_modCoh ..)

theorem kept_takeRetry {st : Bool} (x0 x1 x2 x3 b) : Block.Kept st b (Block.takeRetry x0 x1 x2 x3 b) := by
  unfold Block.takeRetry
  split
  · exact .refl _
  · exact .ite (fun _ => .refl _) fun _ => .ite (fun _ => kept_lateAnswer ..) fun _ => kept_modReq ..

theorem Block.Kept.getD {st : Bool} {o : Option Block} {b d : Block} (h : ∀ c, o = some c → Kept st b c) (k : Kept st b d) : Kept st b (o.getD d) := by
  cases o with
  | none => exact k
  | some c => exact h c rfl

theorem kept_deliver (x0 b) : Block.Kept true b (Block.deliver x0 b) := by
  unfold Block.deliver
  split
  · exact kept_arrive ..
  · exact .getD (fun _ => kept_takeWrData _ _ _ _ _ _ _) (.refl _)
  · exact kept_snoopL3 ..
  · exact .getD (fun _ => kept_snpResp _ _ _ _ _ _ _) (.refl _)
  · exact .getD (fun _ => kept_snpData _ _ _ _ _ _) (.refl _)
  · exact kept_takeComp ..
  · exact kept_takeCompData ..
  · exact kept_takeEvictAck ..
  · exact kept_takeRetry ..
  · exact .refl _

theorem kept_markLanded {st : Bool} (x0 b) : Block.Kept st b (Block.markLanded x0 b) := by
  unfold Block.markLanded
  exact (.of_eq rfl rfl rfl rfl rfl)

theorem kept_takeFlight {st : Bool} (x0 b) : Block.Kept st b (Block.takeFlight x0 b) := by
  unfold Block.takeFlight
  exact (.of_eq rfl rfl rfl rfl rfl)

theorem kept_landF (x0 x1 x2 x3 b) : Block.Kept true b (Block.landF x0 x1 x2 x3 b) := by
  induction x3 generalizing b with
  | zero =>
    unfold Block.landF
    exact .refl _
  | succ n ih =>
    unfold Block.landF
    extract_lets -merge -underBinder +onlyGivenNames v1
    have h1 : Block.Kept true b v1 := kept_flushOut ..
    clear_value v1
    refine .ite (fun _ => ?_) fun _ => ?_
    · exact h1
    · split
      · exact h1
      · exact .after (ih ..) (.after (kept_deliver ..) (.after (.whenA fun c2 => (kept_markLanded ..)) (h1.trans (kept_takeFlight ..))))

theorem kept_calm (x0 b) : Block.Kept true b (Block.calm x0 b) := by
  unfold Block.calm
  extract_lets -merge -underBinder +onlyGivenNames v1
  have h1 : Block.Kept true b v1 := kept_flushOut ..
  clear_value v1
  exact h1.trans (kept_landF ..)

theorem kept_runWhole (x0 b) : Block.Kept true b (Block.runWhole x0 b).2 := by
  unfold Block.runWhole
  extract_lets -merge -underBinder +onlyGivenNames v1
  have h1 : Block.Kept true b v1 := kept_calm ..
  clear_value v1
  extract_lets -merge -underBinder +onlyGivenNames v2
  clear_value v2
  extract_lets -merge -underBinder +onlyGivenNames v3
  clear_value v3
  extract_lets -merge -underBinder +onlyGivenNames v4
  subst v4
  extract_lets -merge -underBinder +onlyGivenNames v5
  have h5 : Block.Kept true b v5 := .after (kept_enter ..) (h1.trans (kept_modCoh ..))
  clear_value v5
  extract_lets -merge -underBinder +onlyGivenNames v6
  have h6 : Block.Kept true b v6 := h5.trans (kept_landF ..)
  clear_value v6
  extract_lets -merge -underBinder +onlyGivenNames v7
  have h7 : Block.Kept true b v7 := h6.trans (.of_eq rfl rfl rfl rfl rfl)
  clear_value v7
  extract_lets -merge -underBinder +onlyGivenNames s8 v8
  have h8 : Block.Kept true b v8 := h7.trans (.of_eq rfl rfl rfl rfl rfl)
  clear_value v8
  refine .iteP (fun _ => ?_) fun _ => ?_
  · exact h8
  · split
    · exact h8
    · extract_lets -merge -underBinder +onlyGivenNames v9
      clear_value v9
      extract_lets -merge -underBinder +onlyGivenNames v10
      have h10 : Block.Kept true b v10 := h8.trans (kept_modCoh ..)
      clear_value v10
      exact .iteP (fun _ => h10) fun _ => h10.trans (kept_mcRead ..)

theorem kept_writeLine (x0 x1 x2 x3 x4 x5 b) : Block.Kept true b (Block.writeLine x0 x1 x2 x3 x4 x5 b) := by
  unfold Block.writeLine
  extract_lets -merge -underBinder +onlyGivenNames v1
  clear_value v1
  refine .ite (fun _ => ?_) fun _ => ?_
  · split
    · exact kept_note ..
    · exact .ite (fun _ => kept_mcWrite ..) fun _ => kept_partWrite ..
  · exact kept_runWhole ..

theorem kept_writeBytesF (x0 x1 x2 x3 x4 x5 b) : Block.Kept true b (Block.writeBytesF x0 x1 x2 x3 x4 x5 b) := by
  induction x3 generalizing x4 x5 b with
  | zero =>
    unfold Block.writeBytesF
    exact .refl _
  | succ n ih =>
    unfold Block.writeBytesF
    refine .ite (fun _ => ?_) fun _ => ?_
    · exact .refl _
    · extract_lets -merge -underBinder +onlyGivenNames v1
      clear_value v1
      extract_lets -merge -underBinder +onlyGivenNames v2
      clear_value v2
      extract_lets -merge -underBinder +onlyGivenNames v3
      have h3 : Block.Kept true b v3 := kept_writeLine ..
      clear_value v3
      exact h3.trans (ih ..)

theorem kept_writeBytes (x0 x1 x2 x3 b) : Block.Kept true b (Block.writeBytes x0 x1 x2 x3 b) := by
  unfold Block.writeBytes
  exact kept_writeBytesF ..

theorem kept_flowWrite (x0 b) : Block.Kept true b (Block.flowWrite x0 b) := by
  unfold Block.flowWrite
  exact kept_writeBytes ..

end Sys2Proof.Machine
end

