-- ==== Sys2Proof/Laws/KeptOps3.lean ====
section
/-! SUPPORT. One lemma for each shared operation: what it keeps (canonical memory, fuses, the first faults, and DRAM where it stores nothing). -/

namespace Sys2Proof.Machine

theorem kept_addFlow (x0 b) : Block.Kept true b (Block.addFlow x0 b) := by
  unfold Block.addFlow
  extract_lets -merge -underBinder +onlyGivenNames v1
  have h1 : Block.Kept true b v1 := kept_dropFlow ..
  clear_value v1
  extract_lets -merge -underBinder +onlyGivenNames v2
  clear_value v2
  extract_lets -merge -underBinder +onlyGivenNames v3
  have h3 : Block.Kept true b v3 := by
    unfold v3
    refine .ite (fun _ => ?_) fun _ => ?_
    · exact h1
    · split
      · exact .after (kept_dropFlow ..) (h1.trans (kept_flowWrite ..))
      · exact h1
  clear_value v3
  exact .after (kept_showCache ..) (h3.trans (kept_modSlc ..))

theorem kept_sendBlock {st : Bool} (x0 x1 b) : Block.Kept st b (Block.sendBlock x0 x1 b) := by
  unfold Block.sendBlock
  refine .ite (fun _ => ?_) fun _ => ?_
  · exact kept_emit ..
  · split
    · rename_i y1 e1
      have h1 : Block.Kept st b y1 := .of_pair e1 (kept_macSend ..)
      clear e1
      exact h1
    · rename_i y2 e2
      have h2 : Block.Kept st b y2 := .of_pair e2 (kept_macSend ..)
      clear e2
      exact h2.trans (kept_emit ..)

theorem kept_sendAm {st : Bool} (x0 b) : Block.Kept st b (Block.sendAm x0 b) := by
  unfold Block.sendAm
  extract_lets -merge -underBinder +onlyGivenNames v1
  clear_value v1
  exact (.forL fun i2 c2 => (kept_emit ..))

theorem kept_addLanes {st : Bool} (x0 b) : Block.Kept st b (Block.addLanes x0 b) := by
  unfold Block.addLanes
  extract_lets -merge -underBinder +onlyGivenNames v1
  clear_value v1
  refine .ite (fun _ => ?_) fun _ => ?_
  · exact .refl _
  · extract_lets -merge -underBinder +onlyGivenNames v2
    clear_value v2
    exact .after (kept_note ..) (.after (kept_sendBlock ..) (.after (kept_sendAm ..) (.after (kept_put ..) (kept_modPort ..))))

theorem kept_vrSend {st : Bool} (x0 x1 x2 b) : Block.Kept st b (Block.vrSend x0 x1 x2 b) := by
  unfold Block.vrSend
  refine .ite (fun _ => ?_) fun _ => ?_
  · exact .refl _
  · extract_lets -merge -underBinder +onlyGivenNames v1
    clear_value v1
    exact .after (kept_emit ..) (.of_eq rfl rfl rfl rfl rfl)

theorem kept_vrOff {st : Bool} (x0 b) : Block.Kept st b (Block.vrOff x0 b) := by
  unfold Block.vrOff
  exact kept_vrSend ..

theorem kept_toLost {st : Bool} (x0 b) : Block.Kept st b (Block.toLost x0 b) := by
  unfold Block.toLost
  exact .after (kept_vrOff ..) (.after (kept_inc ..) (kept_put ..))

theorem kept_ioRetired {st : Bool} (x0 b) : Block.Kept st b (Block.ioRetired x0 b) := by
  unfold Block.ioRetired
  extract_lets -merge -underBinder +onlyGivenNames v1
  clear_value v1
  exact .after (.forL fun i2 c2 => (kept_emit ..)) (kept_modSail ..)

theorem kept_failInFlight {st : Bool} (x0 b) : Block.Kept st b (Block.failInFlight x0 b) := by
  unfold Block.failInFlight
  extract_lets -merge -underBinder +onlyGivenNames v1
  subst v1
  exact (.forL fun i2 c2 => (.whenA fun c3 => .after (kept_takeTrap ..) (.after (kept_ioRetired ..) (kept_modHart ..))))

theorem kept_freeLocks {st : Bool} (x0 b) : Block.Kept st b (Block.freeLocks x0 b) := by
  unfold Block.freeLocks
  extract_lets -merge -underBinder +onlyGivenNames v1
  clear_value v1
  extract_lets -merge -underBinder +onlyGivenNames s2 v2
  have h2 : Block.Kept st b v2 := (.of_eq rfl rfl rfl rfl rfl)
  clear_value v2
  exact h2.trans (.forL fun i3 c3 => (kept_note ..))

theorem kept_lossEntry (x0 x1 x2 b) : Block.Kept true b (Block.lossEntry x0 x1 x2 b) := by
  unfold Block.lossEntry
  extract_lets -merge -underBinder +onlyGivenNames v1
  clear_value v1
  extract_lets -merge -underBinder +onlyGivenNames v2
  clear_value v2
  refine .ite (fun _ => ?_) fun _ => ?_
  · exact .refl _
  · extract_lets -merge -underBinder +onlyGivenNames v3
    clear_value v3
    extract_lets -merge -underBinder +onlyGivenNames v4
    clear_value v4
    extract_lets -merge -underBinder +onlyGivenNames v5
    clear_value v5
    extract_lets -merge -underBinder +onlyGivenNames v6
    have h6 : Block.Kept true b v6 := .after (kept_put ..) (kept_pokeBytes ..)
    clear_value v6
    exact .ite (fun _ => .after (kept_note ..) (h6.trans (kept_put ..))) fun _ => h6

theorem kept_walkFilter (x0 b) : Block.Kept true b (Block.walkFilter x0 b).2 := by
  unfold Block.walkFilter
  extract_lets -merge -underBinder +onlyGivenNames v1
  subst v1
  extract_lets -merge -underBinder +onlyGivenNames v2
  clear_value v2
  extract_lets -merge -underBinder +onlyGivenNames v3
  clear_value v3
  extract_lets -merge -underBinder +onlyGivenNames v4
  clear_value v4
  extract_lets -merge -underBinder +onlyGivenNames v5
  subst v5
  extract_lets -merge -underBinder +onlyGivenNames v6
  subst v6
  extract_lets -merge -underBinder +onlyGivenNames v7
  have h7 : Block.Kept true b v7 := (.forL fun i8 c8 => .ite (fun _ => .after (kept_lossEntry ..) (kept_setFilt ..)) fun _ => kept_setFilt ..)
  clear_value v7
  extract_lets -merge -underBinder +onlyGivenNames v9
  have h9 : Block.Kept true b v9 := h7.trans (.forL fun i10 c10 => .ite (fun _ => .after (kept_lossEntry ..) (.ite (fun _ => .after (kept_setFilt ..) (kept_setDir ..)) fun _ => kept_setDir ..)) fun _ => .ite (fun _ => .refl _) fun _ => kept_setDir ..)
  clear_value v9
  exact h9

theorem kept_saveWritebacks (x0 b) : Block.Kept true b (Block.saveWritebacks x0 b) := by
  unfold Block.saveWritebacks
  refine .forL fun i1 c1 => ?_
  extract_lets -merge -underBinder +onlyGivenNames v2
  clear_value v2
  exact .ite (fun _ => .after (kept_openTxn ..) (kept_unwait ..)) fun _ => .refl _

theorem kept_dropFlight {st : Bool} (x0 b) : Block.Kept st b (Block.dropFlight x0 b) := by
  unfold Block.dropFlight
  exact (.of_eq rfl rfl rfl rfl rfl)

theorem kept_cutOff {st : Bool} (x0 b) : Block.Kept st b (Block.cutOff x0 b) := by
  unfold Block.cutOff
  extract_lets -merge -underBinder +onlyGivenNames v1
  have h1 : Block.Kept st b v1 := (.forL fun i2 c2 => (kept_emit ..))
  clear_value v1
  exact .after (kept_modCoh ..) (.after (kept_dropFlight ..) (h1.trans (kept_flushOut ..)))

theorem kept_closeFor (x0 b) : Block.Kept true b (Block.closeFor x0 b) := by
  unfold Block.closeFor
  extract_lets -merge -underBinder +onlyGivenNames v1
  subst v1
  extract_lets -merge -underBinder +onlyGivenNames v2
  have h2 : Block.Kept true b v2 := kept_modCoh ..
  clear_value v2
  refine .after (.forL fun i3 c3 => ?_) h2
  extract_lets -merge -underBinder +onlyGivenNames v4
  clear_value v4
  extract_lets -merge -underBinder +onlyGivenNames v5
  clear_value v5
  extract_lets -merge -underBinder +onlyGivenNames v6
  clear_value v6
  refine .ite (fun _ => ?_) fun _ => ?_
  · exact kept_tryFinish ..
  · split
    · exact kept_dropTxn ..
    · exact kept_tryFinish ..
    · exact kept_tryFinish ..

theorem kept_showRebuild {st : Bool} (b) : Block.Kept st b (Block.showRebuild b) := by
  unfold Block.showRebuild
  exact .after (.forN fun i1 c1 => (kept_put ..)) (kept_put ..)

theorem kept_setRead (x0 b) : Block.Kept true b (Block.setRead x0 b) := by
  unfold Block.setRead
  split
  · exact .refl _
  · extract_lets -merge -underBinder +onlyGivenNames v1
    subst v1
    extract_lets -merge -underBinder +onlyGivenNames v2
    have h2 : Block.Kept true b v2 := kept_modCoh ..
    clear_value v2
    exact .after (kept_settle ..) (.ite (fun _ => .after (kept_note ..) (h2.trans (kept_showRebuild ..))) fun _ => h2)

theorem kept_tagsHere (x0 x1 b) : Block.Kept true b (Block.tagsHere x0 x1 b) := by
  unfold Block.tagsHere
  exact .ite (fun _ => .after (kept_setRead ..) (kept_modCoh ..)) fun _ => .refl _

theorem kept_purge (x0 b) : Block.Kept true b (Block.purge x0 b) := by
  unfold Block.purge
  split
  rename_i y1 e1
  have h1 : Block.Kept true b y1 := .of_pair e1 (.after (kept_walkFilter ..) (.after (kept_saveWritebacks ..) (kept_cutOff ..)))
  clear e1
  extract_lets -merge -underBinder +onlyGivenNames v2
  have h2 : Block.Kept true b v2 := .after (kept_closeFor ..) (h1.trans (kept_modCoh ..))
  clear_value v2
  exact .after (kept_settle ..) (.after (.forN fun i4 c4 => (kept_tagsHere ..)) (.after (kept_note ..) (h2.trans (.forN fun i3 c3 => (kept_put ..)))))

theorem kept_showPart {st : Bool} (x0 b) : Block.Kept st b (Block.showPart x0 b) := by
  unfold Block.showPart
  extract_lets -merge -underBinder +onlyGivenNames v1
  subst v1
  exact .after (kept_put ..) (.after (kept_put ..) (.after (kept_put ..) (kept_put ..)))

theorem kept_unpinRepl {st : Bool} (x0 x1 b) : Block.Kept st b (Block.unpinRepl x0 x1 b) := by
  unfold Block.unpinRepl
  exact (.forL fun i1 c1 => (kept_modHart ..))

theorem kept_mstEnter {st : Bool} (x0 x1 b) : Block.Kept st b (Block.mstEnter x0 x1 b) := by
  unfold Block.mstEnter
  exact .after (kept_mstBusy ..) (.after (kept_put ..) (.after (kept_modMst ..) (kept_dropRuns ..)))

theorem kept_unbindRepl {st : Bool} (x0 x1 b) : Block.Kept st b (Block.unbindRepl x0 x1 b) := by
  unfold Block.unbindRepl
  split
  · exact .after (kept_mstEnter ..) (.after (kept_setR ..) (.after (kept_setR ..) (.after (.forN fun i1 c1 => (kept_setR ..)) (.after (kept_setR ..) (.after (kept_setR ..) (.after (kept_setR ..) (kept_setR ..)))))))
  · exact .refl _

theorem kept_endCatch {st : Bool} (x0 x1 b) : Block.Kept st b (Block.endCatch x0 x1 b) := by
  unfold Block.endCatch
  exact kept_modRepl ..

theorem kept_haltPart {st : Bool} (x0 b) : Block.Kept st b (Block.haltPart x0 b) := by
  unfold Block.haltPart
  extract_lets -merge -underBinder +onlyGivenNames v1
  have h1 : Block.Kept st b v1 := (.forL fun i2 c2 => .after (kept_endCatch ..) (.after (kept_haltRepl ..) (kept_squashRepl ..)))
  clear_value v1
  exact .after (kept_showCopy ..) (.after (kept_resetAgent ..) (.after (kept_unmirror ..) (.after (kept_modPart ..) (h1.trans (kept_put ..)))))

theorem kept_failPart {st : Bool} (x0 b) : Block.Kept st b (Block.failPart x0 b) := by
  unfold Block.failPart
  extract_lets -merge -underBinder +onlyGivenNames v1
  clear_value v1
  exact .after (kept_raise ..) (kept_haltPart ..)

theorem kept_mirror {st : Bool} (x0 x1 x2 b) : Block.Kept st b (Block.mirror x0 x1 x2 b) := by
  unfold Block.mirror
  extract_lets -merge -underBinder +onlyGivenNames v1
  clear_value v1
  exact (.of_eq rfl rfl rfl rfl rfl)

theorem kept_replLost {st : Bool} (x0 x1 b) : Block.Kept st b (Block.replLost x0 x1 b) := by
  unfold Block.replLost
  refine .ite (fun _ => ?_) fun _ => ?_
  · exact .refl _
  · extract_lets -merge -underBinder +onlyGivenNames v1
    clear_value v1
    extract_lets -merge -underBinder +onlyGivenNames v2
    have h2 : Block.Kept st b v2 := .after (kept_raise ..) (.after (kept_showCopy ..) (.after (kept_showPart ..) (.after (kept_inc ..) (.after (kept_modRepl ..) (.after (kept_unpinRepl ..) (.after (kept_unbindRepl ..) (.after (kept_squashRepl ..) (kept_haltRepl ..))))))))
    clear_value v2
    refine .ite (fun _ => ?_) fun _ => ?_
    · exact h2
    · refine .ite (fun _ => ?_) fun _ => ?_
      · exact .ite (fun _ => h2.trans (kept_put ..)) fun _ => h2.trans (kept_failPart ..)
      · split
        · exact .ite (fun _ => h2.trans (kept_put ..)) fun _ => h2.trans (kept_failPart ..)
        · extract_lets -merge -underBinder +onlyGivenNames v3
          have h3 : Block.Kept st b v3 := h2.trans (.whenA fun c4 => (kept_put ..))
          clear_value v3
          split
          · exact .ite (fun _ => .after (kept_showCopy ..) (.after (kept_mirror ..) (.after (kept_note ..) (h3.trans (kept_modPart ..))))) fun _ => h3
          · exact h3

theorem kept_netReset {st : Bool} (x0 b) : Block.Kept st b (Block.netReset x0 b) := by
  unfold Block.netReset
  extract_lets -merge -underBinder +onlyGivenNames v1
  subst v1
  exact (.of_eq rfl rfl rfl rfl rfl)

theorem kept_scrClear {st : Bool} (x0 b) : Block.Kept st b (Block.scrClear x0 b) := by
  unfold Block.scrClear
  exact ⟨id, fun _ => rfl, fun h => SMap.wf_filter _ h, .refl _, List.prefix_refl _, id, id⟩

theorem kept_mstReset {st : Bool} (x0 b) : Block.Kept st b (Block.mstReset x0 b) := by
  unfold Block.mstReset
  exact .after (kept_setR ..) (.after (kept_scrClear ..) (kept_modMst ..))

theorem kept_resetSail {st : Bool} (x0 b) : Block.Kept st b (Block.resetSail x0 b) := by
  unfold Block.resetSail
  extract_lets -merge -underBinder +onlyGivenNames s1 v1
  have h1 : Block.Kept st b v1 := (.of_eq rfl rfl rfl rfl rfl)
  clear_value v1
  extract_lets -merge -underBinder +onlyGivenNames v2
  have h2 : Block.Kept st b v2 := .after (kept_put ..) (.after (kept_put ..) (.after (kept_put ..) (.after (.forN fun i3 c3 => .after (kept_setR ..) (.after (kept_setR ..) (.after (kept_setR ..) (.after (kept_setR ..) (kept_setR ..))))) (.after (kept_setR ..) (.after (kept_setR ..) (.after (kept_setR ..) (.after (kept_setR ..) (.after (kept_setR ..) (.after (kept_setR ..) (.after (kept_netReset ..) (.after (kept_mstReset ..) (h1.trans (kept_modSail ..)))))))))))))
  clear_value v2
  extract_lets -merge -underBinder +onlyGivenNames v4
  have h4 : Block.Kept st b v4 := h2.trans (.of_eq rfl rfl rfl rfl rfl)
  clear_value v4
  refine .after (.forN fun i5 c5 => ?_) h4
  extract_lets -merge -underBinder +onlyGivenNames v6
  clear_value v6
  exact .after (kept_put ..) (kept_put ..)

theorem kept_sailLost (x0 x1 x2 b) : Block.Kept true b (Block.sailLost x0 x1 x2 b) := by
  unfold Block.sailLost
  refine .ite (fun _ => ?_) fun _ => ?_
  · exact .refl _
  · extract_lets -merge -underBinder +onlyGivenNames v1
    clear_value v1
    extract_lets -merge -underBinder +onlyGivenNames v2
    have h2 : Block.Kept true b v2 := .after (kept_raise ..) (.after (kept_put ..) (.after (kept_put ..) (.after (kept_put ..) (.after (kept_put ..) (.after (kept_put ..) (kept_toLost ..))))))
    clear_value v2
    extract_lets -merge -underBinder +onlyGivenNames v3
    have h3 : Block.Kept true b v3 := .after (kept_failInFlight ..) (.after (kept_ackForSail ..) (.after (kept_freeLocks ..) (h2.trans (kept_purge ..))))
    clear_value v3
    extract_lets -merge -underBinder +onlyGivenNames v4
    have h4 : Block.Kept true b v4 := h3.trans (.forL fun i5 c5 => (kept_replLost ..))
    clear_value v4
    exact .after (kept_resetSail ..) (h4.trans (kept_abortOnSail ..))

theorem kept_disableWay (x0 x1 x2 b) : Block.Kept true b (Block.disableWay x0 x1 x2 b) := by
  unfold Block.disableWay
  refine .ite (fun _ => ?_) fun _ => ?_
  · exact .refl _
  · refine .ite (fun _ => ?_) fun _ => ?_
    · exact kept_sailLost ..
    · extract_lets -merge -underBinder +onlyGivenNames v1
      clear_value v1
      extract_lets -merge -underBinder +onlyGivenNames v2
      clear_value v2
      exact .after (.forL fun i3 c3 => (kept_leave ..)) (.after (kept_note ..) (.after (kept_put ..) (.after (kept_modSail ..) (.after (kept_put ..) (kept_put ..)))))

theorem kept_addWayErr (x0 x1 x2 x3 b) : Block.Kept true b (Block.addWayErr x0 x1 x2 x3 b) := by
  unfold Block.addWayErr
  refine .ite (fun _ => ?_) fun _ => ?_
  · exact .refl _
  · extract_lets -merge -underBinder +onlyGivenNames v1
    have h1 : Block.Kept true b v1 := kept_modSail ..
    clear_value v1
    exact .ite (fun _ => h1.trans (kept_disableWay ..)) fun _ => h1

theorem kept_advance {st : Bool} (b) : Block.Kept st b (Block.advance b).2 := by
  unfold Block.advance
  extract_lets -merge -underBinder +onlyGivenNames v1
  clear_value v1
  extract_lets -merge -underBinder +onlyGivenNames v2
  clear_value v2
  extract_lets -merge -underBinder +onlyGivenNames v3
  clear_value v3
  exact .iteP (fun _ => .snd (.after (kept_note ..) (⟨id, fun _ => rfl, id, ⟨rfl, Nat.le_max_left _ _, id, fun _ => ⟨fun h => ⟨h, rfl⟩, id⟩⟩, List.prefix_refl _, id, id⟩))) fun _ => .snd (kept_note ..)

theorem kept_advanceTo {st : Bool} (x0 b) : Block.Kept st b (Block.advanceTo x0 b) := by
  unfold Block.advanceTo
  refine .ite (fun _ => ?_) fun _ => ?_
  · extract_lets -merge -underBinder +onlyGivenNames v1
    clear_value v1
    exact .after (kept_modTu ..) (.of_eq rfl rfl rfl rfl rfl)
  · exact .refl _

theorem kept_modPci {st : Bool} (x0 b) : Block.Kept st b (Block.modPci x0 b) := by
  unfold Block.modPci
  exact (.of_eq rfl rfl rfl rfl rfl)

theorem kept_modSub {st : Bool} (x0 x1 b) : Block.Kept st b (Block.modSub x0 x1 b) := by
  unfold Block.modSub
  exact kept_modPci ..

theorem kept_aerSet {st : Bool} (x0 x1 b) : Block.Kept st b (Block.aerSet x0 x1 b) := by
  unfold Block.aerSet
  exact kept_modSub ..

theorem kept_trigTrap {st : Bool} (x0 x1 x2 x3 b) : Block.Kept st b (Block.trigTrap x0 x1 x2 x3 b) := by
  unfold Block.trigTrap
  exact kept_modHart ..

theorem kept_except {st : Bool} (x0 x1 b) : Block.Kept st b (Block.except x0 x1 b) := by
  unfold Block.except
  exact .after (kept_trigTrap ..) (kept_takeTrap ..)

theorem kept_tlbAdd1 {st : Bool} (x0 x1 x2 b) : Block.Kept st b (Block.tlbAdd1 x0 x1 x2 b) := by
  unfold Block.tlbAdd1
  exact .after (kept_tickFree ..) (kept_modHart ..)

theorem kept_hpm {st : Bool} (x0 x1 x2 b) : Block.Kept st b (Block.hpm x0 x1 x2 b) := by
  unfold Block.hpm
  refine .ite (fun _ => ?_) fun _ => ?_
  · exact .refl _
  · refine .forN fun i1 c1 => ?_
    extract_lets -merge -underBinder +onlyGivenNames v2
    clear_value v2
    extract_lets -merge -underBinder +onlyGivenNames v3
    clear_value v3
    refine .ite (fun _ => ?_) fun _ => ?_
    · exact .refl _
    · extract_lets -merge -underBinder +onlyGivenNames v4
      clear_value v4
      extract_lets -merge -underBinder +onlyGivenNames v5
      have h5 : Block.Kept st c1 v5 := kept_setCsr ..
      clear_value v5
      exact .ite (fun _ => h5) fun _ => .after (kept_setCsr ..) (h5.trans (kept_setCsr ..))

theorem kept_tlbLook {st : Bool} (x0 x1 x2 x3 b) : Block.Kept st b (Block.tlbLook x0 x1 x2 x3 b).2 := by
  unfold Block.tlbLook
  extract_lets -merge -underBinder +onlyGivenNames v1
  clear_value v1
  split
  · exact .refl _
  · split
    · exact .snd (kept_tlbAdd1 ..)
    · exact .snd (kept_hpm ..)

theorem kept_readLine (x0 x1 x2 b) : Block.Kept true b (Block.readLine x0 x1 x2 b).2 := by
  unfold Block.readLine
  refine .iteP (fun _ => ?_) fun _ => ?_
  · split
    · exact .snd (kept_note ..)
    · exact kept_mcRead ..
  · exact kept_runWhole ..

theorem kept_readBytesF (x0 x1 x2 x3 x4 b) : Block.Kept true b (Block.readBytesF x0 x1 x2 x3 x4 b).2 := by
  induction x2 generalizing x3 x4 b with
  | zero =>
    unfold Block.readBytesF
    exact .refl _
  | succ n ih =>
    unfold Block.readBytesF
    refine .iteP (fun _ => ?_) fun _ => ?_
    · exact .refl _
    · extract_lets -merge -underBinder +onlyGivenNames v1
      clear_value v1
      split
      rename_i y2 e2
      have h2 : Block.Kept true b y2 := .of_pair e2 (kept_readLine ..)
      clear e2
      extract_lets -merge -underBinder +onlyGivenNames v3
      clear_value v3
      split
      rename_i y4 e4
      have h4 : Block.Kept true b y4 := .of_pair e4 (h2.trans (ih ..))
      clear e4
      exact h4

theorem kept_readBytes (x0 x1 x2 x3 b) : Block.Kept true b (Block.readBytes x0 x1 x2 x3 b).2 := by
  unfold Block.readBytes
  exact kept_readBytesF ..

theorem kept_readNat (x0 x1 x2 x3 b) : Block.Kept true b (Block.readNat x0 x1 x2 x3 b).2 := by
  unfold Block.readNat
  split
  rename_i y1 e1
  have h1 : Block.Kept true b y1 := .of_pair e1 (kept_readBytes ..)
  clear e1
  exact h1

theorem kept_pteRead (x0 x1 x2 x3 b) : Block.Kept true b (Block.pteRead x0 x1 x2 x3 b).2 := by
  unfold Block.pteRead
  refine .iteP (fun _ => ?_) fun _ => ?_
  · exact .refl _
  · refine .iteP (fun _ => ?_) fun _ => ?_
    · exact .refl _
    · split
      rename_i y1 e1
      have h1 : Block.Kept true b y1 := .of_pair e1 (kept_readNat ..)
      clear e1
      exact .iteP (fun _ => .snd (h1.trans (kept_note ..))) fun _ => h1

theorem kept_gpscAdd {st : Bool} (x0 x1 b) : Block.Kept st b (Block.gpscAdd x0 x1 b) := by
  unfold Block.gpscAdd
  exact .after (kept_tickFree ..) (kept_modHart ..)

theorem kept_walkG (x0 x1 x2 x3 x4 x5 x6 x7 b) : Block.Kept true b (Block.walkG x0 x1 x2 x3 x4 x5 x6 x7 b).2 := by
  induction x5 generalizing x6 x7 b with
  | zero =>
    unfold Block.walkG
    exact .refl _
  | succ n ih =>
    unfold Block.walkG
    extract_lets -merge -underBinder +onlyGivenNames v1
    clear_value v1
    extract_lets -merge -underBinder +onlyGivenNames v2
    clear_value v2
    split
    · rename_i y3 e3
      have h3 : Block.Kept true b y3 := .of_pair e3 (kept_pteRead ..)
      clear e3
      exact h3
    · rename_i y4 e4
      have h4 : Block.Kept true b y4 := .of_pair e4 (kept_pteRead ..)
      clear e4
      refine .iteP (fun _ => ?_) fun _ => ?_
      · exact h4
      · refine .iteP (fun _ => ?_) fun _ => ?_
        · exact .iteP (fun _ => h4) fun _ => h4
        · extract_lets -merge -underBinder +onlyGivenNames v5
          clear_value v5
          exact .after (ih ..) (h4.trans (kept_gpscAdd ..))

theorem kept_tlbAdd {st : Bool} (x0 x1 x2 b) : Block.Kept st b (Block.tlbAdd x0 x1 x2 b) := by
  unfold Block.tlbAdd
  exact .after (kept_tlbAdd1 ..) (.after (kept_tickFree ..) (kept_modHart ..))

theorem kept_stageG (x0 x1 x2 x3 x4 x5 x6 x7 b) : Block.Kept true b (Block.stageG x0 x1 x2 x3 x4 x5 x6 x7 b).2 := by
  unfold Block.stageG
  refine .iteP (fun _ => .refl _) fun _ => ?_
  extract_lets -merge -underBinder +onlyGivenNames bad chk
  have h : ∀ l c, Block.Kept true c (chk l c).2 := fun l c => .iteP (fun _ => .refl _) fun _ => .refl _
  clear_value chk bad
  refine .iteP (fun _ => .refl _) fun _ => ?_
  split
  · exact h ..
  · refine .iteP (fun _ => .refl _) fun _ => ?_
    split
    · exact h ..
    · extract_lets -merge -underBinder +onlyGivenNames y
      clear_value y
      split
      · rename_i e y1 e1
        refine .trans (.of_pair e1 (.iteP (fun _ => kept_tlbLook ..) fun _ => .refl _)) (h ..)
      · rename_i y1 e1
        have h1 : Block.Kept true b y1 := .of_pair e1 (.iteP (fun _ => kept_tlbLook ..) fun _ => .refl _)
        clear e1
        extract_lets -merge -underBinder +onlyGivenNames f top w
        have hw : Block.Kept true b w.2 := by
          unfold w
          split
          · exact h1.trans (kept_walkG ..)
          · exact h1.trans (kept_walkG ..)
        clear_value w
        split
        · exact hw
        · exact (hw.trans (.whenA fun _ => kept_tlbAdd ..)).trans (h ..)

theorem kept_leafDone (x0 x1 x2 x3 x4 x5 x6 x7 b) : Block.Kept true b (Block.leafDone x0 x1 x2 x3 x4 x5 x6 x7 b).2 := by
  unfold Block.leafDone
  refine .iteP (fun _ => ?_) fun _ => ?_
  · exact .refl _
  · split
    · rename_i y1 e1
      have h1 : Block.Kept true b y1 := .of_pair e1 (kept_stageG ..)
      clear e1
      exact h1
    · rename_i y2 e2
      have h2 : Block.Kept true b y2 := .of_pair e2 (kept_stageG ..)
      clear e2
      extract_lets -merge -underBinder +onlyGivenNames v3
      have h3 : Block.Kept true b v3 := h2.trans (.whenA fun c4 => (kept_tlbAdd ..))
      clear_value v3
      exact .iteP (fun _ => h3) fun _ => h3

theorem kept_pscAdd {st : Bool} (x0 x1 b) : Block.Kept st b (Block.pscAdd x0 x1 b) := by
  unfold Block.pscAdd
  exact .after (kept_tickFree ..) (kept_modHart ..)

theorem kept_walkS (x0 x1 x2 x3 x4 x5 x6 b) : Block.Kept true b (Block.walkS x0 x1 x2 x3 x4 x5 x6 b).2 := by
  induction x4 generalizing x5 x6 b with
  | zero =>
    unfold Block.walkS
    exact .refl _
  | succ n ih =>
    unfold Block.walkS
    split
    · rename_i y1 e1
      have h1 : Block.Kept true b y1 := .of_pair e1 (kept_stageG ..)
      clear e1
      exact h1
    · rename_i y2 e2
      have h2 : Block.Kept true b y2 := .of_pair e2 (kept_stageG ..)
      clear e2
      split
      · rename_i y3 e3
        have h3 : Block.Kept true b y3 := .of_pair e3 (h2.trans (kept_pteRead ..))
        clear e3
        exact h3
      · rename_i y4 e4
        have h4 : Block.Kept true b y4 := .of_pair e4 (h2.trans (kept_pteRead ..))
        clear e4
        refine .iteP (fun _ => ?_) fun _ => ?_
        · exact h4
        · refine .iteP (fun _ => ?_) fun _ => ?_
          · exact .iteP (fun _ => h4) fun _ => h4
          · extract_lets -merge -underBinder +onlyGivenNames v5
            clear_value v5
            exact .after (ih ..) (h4.trans (kept_pscAdd ..))

theorem kept_walk1 (x0 x1 x2 x3 b) : Block.Kept true b (Block.walk1 x0 x1 x2 x3 b).2 := by
  unfold Block.walk1
  extract_lets -merge -underBinder +onlyGivenNames v1
  subst v1
  split
  · exact kept_walkS ..
  · exact kept_walkS ..

theorem kept_translate (x0 x1 x2 x3 b) : Block.Kept true b (Block.translate x0 x1 x2 x3 b).2 := by
  unfold Block.translate
  extract_lets -merge -underBinder +onlyGivenNames v1
  clear_value v1
  refine .iteP (fun _ => ?_) fun _ => ?_
  · exact .refl _
  · extract_lets -merge -underBinder +onlyGivenNames v2
    clear_value v2
    refine .iteP (fun _ => ?_) fun _ => ?_
    · exact kept_leafDone ..
    · refine .iteP (fun _ => ?_) fun _ => ?_
      · exact .refl _
      · split
        · exact kept_leafDone ..
        · refine .iteP (fun _ => ?_) fun _ => ?_
          · exact .refl _
          · split
            · rename_i y3 e3
              have h3 : Block.Kept true b y3 := .of_pair e3 (kept_tlbLook ..)
              clear e3
              exact h3.trans (kept_leafDone ..)
            · rename_i y4 e4
              have h4 : Block.Kept true b y4 := .of_pair e4 (kept_tlbLook ..)
              clear e4
              split
              · rename_i y5 e5
                have h5 : Block.Kept true b y5 := .of_pair e5 (h4.trans (kept_walk1 ..))
                clear e5
                exact h5
              · rename_i y6 e6
                have h6 : Block.Kept true b y6 := .of_pair e6 (h4.trans (kept_walk1 ..))
                clear e6
                exact h6.trans (kept_leafDone ..)

theorem kept_hartAccessErr {st : Bool} (x0 x1 x2 x3 b) : Block.Kept st b (Block.hartAccessErr x0 x1 x2 x3 b) := by
  unfold Block.hartAccessErr
  exact .after (kept_except ..) (kept_note ..)

theorem kept_privAdd {st : Bool} (x0 x1 x2 b) : Block.Kept st b (Block.privAdd x0 x1 x2 b) := by
  unfold Block.privAdd
  extract_lets -merge -underBinder +onlyGivenNames v1
  clear_value v1
  refine .ite (fun _ => ?_) fun _ => ?_
  · exact .refl _
  · extract_lets -merge -underBinder +onlyGivenNames v2
    clear_value v2
    extract_lets -merge -underBinder +onlyGivenNames v3
    subst v3
    refine .ite (fun _ => ?_) fun _ => ?_
    · exact kept_modHart ..
    · extract_lets -merge -underBinder +onlyGivenNames v4
      clear_value v4
      exact .after (kept_tickFree ..) (kept_modHart ..)

theorem kept_privFill {st : Bool} (x0 x1 x2 b) : Block.Kept st b (Block.privFill x0 x1 x2 b) := by
  unfold Block.privFill
  exact .after (kept_privAdd ..) (kept_privAdd ..)

theorem kept_lookup {st : Bool} (x0 b) : Block.Kept st b (Block.lookup x0 b) := by
  unfold Block.lookup
  exact .after (kept_charge ..) (kept_pmu ..)

theorem kept_privMisses {st : Bool} (x0 x1 x2 b) : Block.Kept st b (Block.privMisses x0 x1 x2 b) := by
  unfold Block.privMisses
  extract_lets -merge -underBinder +onlyGivenNames v1
  clear_value v1
  refine .ite (fun _ => ?_) fun _ => ?_
  · exact .refl _
  · extract_lets -merge -underBinder +onlyGivenNames v2
    have h2 : Block.Kept st b v2 := kept_hpm ..
    clear_value v2
    exact .ite (fun _ => h2) fun _ => .after (kept_lookup ..) (h2.trans (kept_hpm ..))

theorem kept_privUse {st : Bool} (x0 x1 x2 x3 b) : Block.Kept st b (Block.privUse x0 x1 x2 x3 b) := by
  unfold Block.privUse
  extract_lets -merge -underBinder +onlyGivenNames v1
  have h1 : Block.Kept st b v1 := .after (kept_privFill ..) (kept_privMisses ..)
  clear_value v1
  exact h1.trans (kept_mapHarts ..)

theorem kept_chooseWay {st : Bool} (x0 x1 x2 b) : Block.Kept st b (Block.chooseWay x0 x1 x2 b).2 := by
  unfold Block.chooseWay
  extract_lets -merge -underBinder +onlyGivenNames v1
  clear_value v1
  extract_lets -merge -underBinder +onlyGivenNames v2
  clear_value v2
  extract_lets -merge -underBinder +onlyGivenNames v3
  clear_value v3
  extract_lets -merge -underBinder +onlyGivenNames v4
  subst v4
  extract_lets -merge -underBinder +onlyGivenNames v5
  subst v5
  extract_lets -merge -underBinder +onlyGivenNames v6
  subst v6
  extract_lets -merge -underBinder +onlyGivenNames v7
  subst v7
  extract_lets -merge -underBinder +onlyGivenNames v8
  clear_value v8
  split
  · exact .refl _
  · split
    · exact .refl _
    · extract_lets -merge -underBinder +onlyGivenNames v9
      clear_value v9
      extract_lets -merge -underBinder +onlyGivenNames v10
      clear_value v10
      refine .iteP (fun _ => ?_) fun _ => ?_
      · split
        · exact .refl _
        · exact .refl _
      · exact .iteP (fun _ => .refl _) fun _ => .snd (kept_tickFree ..)

theorem kept_miss {st : Bool} (x0 x1 x2 x3 b) : Block.Kept st b (Block.miss x0 x1 x2 x3 b) := by
  unfold Block.miss
  extract_lets -merge -underBinder +onlyGivenNames v1
  clear_value v1
  extract_lets -merge -underBinder +onlyGivenNames v2
  clear_value v2
  refine .ite (fun _ => ?_) fun _ => ?_
  · exact .refl _
  · split
    rename_i y3 e3
    have h3 : Block.Kept st b y3 := .of_pair e3 (kept_chooseWay ..)
    clear e3
    split
    · exact h3
    · extract_lets -merge -underBinder +onlyGivenNames v4
      have h4 : Block.Kept st b v4 := h3.trans (kept_pmu ..)
      clear_value v4
      extract_lets -merge -underBinder +onlyGivenNames v5
      have h5 : Block.Kept st b v5 := .ite (fun _ => .after (kept_noteOnce ..) (.after (kept_pmu ..) (h4.trans (kept_put ..)))) fun _ => h4
      clear_value v5
      extract_lets -merge -underBinder +onlyGivenNames v6
      have h6 : Block.Kept st b v6 := by
        unfold v6
        split
        · exact h5.trans (kept_evictLine ..)
        · exact h5
      clear_value v6
      exact h6.trans (kept_issueFor ..)

theorem kept_readPiece (x0 x1 x2 b) : Block.Kept true b (Block.readPiece x0 x1 x2 b).2 := by
  unfold Block.readPiece
  extract_lets -merge -underBinder +onlyGivenNames v1
  clear_value v1
  extract_lets -merge -underBinder +onlyGivenNames v2
  clear_value v2
  refine .iteP (fun _ => ?_) fun _ => ?_
  · exact .refl _
  · refine .iteP (fun _ => ?_) fun _ => ?_
    · split
      rename_i y3 e3
      have h3 : Block.Kept true b y3 := .of_pair e3 (kept_readBytes ..)
      clear e3
      exact h3
    · extract_lets -merge -underBinder +onlyGivenNames v4
      clear_value v4
      exact .iteP (fun _ => .snd (kept_privUse ..)) fun _ => .iteP (fun _ => .refl _) fun _ => .snd (.after (kept_miss ..) (.whenA fun c5 => (kept_privMisses ..)))

theorem kept_setDst {st : Bool} (x0 x1 x2 x3 x4 b) : Block.Kept st b (Block.setDst x0 x1 x2 x3 x4 b) := by
  unfold Block.setDst
  refine .ite (fun _ => ?_) fun _ => ?_
  · exact kept_setX ..
  · refine .ite (fun _ => ?_) fun _ => ?_
    · exact kept_modHart ..
    · extract_lets -merge -underBinder +onlyGivenNames v1
      clear_value v1
      exact kept_modHart ..

theorem kept_doLr (x0 x1 x2 b) : Block.Kept true b (Block.doLr x0 x1 x2 b) := by
  unfold Block.doLr
  split
  · rename_i y1 e1
    have h1 : Block.Kept true b y1 := .of_pair e1 (kept_readPiece ..)
    clear e1
    exact .after (kept_modHart ..) (h1.trans (kept_setDst ..))
  · rename_i y2 e2
    have h2 : Block.Kept true b y2 := .of_pair e2 (kept_readPiece ..)
    clear e2
    exact h2
  · rename_i y3 e3
    have h3 : Block.Kept true b y3 := .of_pair e3 (kept_readPiece ..)
    clear e3
    exact h3.trans (kept_except ..)

theorem kept_own {st : Bool} (x0 x1 b) : Block.Kept st b (Block.own x0 x1 b).2 := by
  unfold Block.own
  extract_lets -merge -underBinder +onlyGivenNames v1
  clear_value v1
  extract_lets -merge -underBinder +onlyGivenNames v2
  clear_value v2
  extract_lets -merge -underBinder +onlyGivenNames v3
  clear_value v3
  split
  · exact .snd (kept_privUse ..)
  · exact .iteP (fun _ => .snd (.after (kept_privUse ..) (.after (kept_issue ..) (kept_setL3 ..)))) fun _ => .refl _
  · exact .snd (.ite (fun _ => .refl _) fun _ => kept_issueFor ..)
  · exact .snd (.ite (fun _ => .refl _) fun _ => kept_issueFor ..)
  · exact .snd (.after (kept_miss ..) (.whenA fun c4 => (kept_privMisses ..)))

theorem kept_ownPiece {st : Bool} (x0 x1 b) : Block.Kept st b (Block.ownPiece x0 x1 b).2 := by
  unfold Block.ownPiece
  exact .iteP (fun _ => .refl _) fun _ => kept_own ..

theorem kept_scrWrite {st : Bool} (x0 x1 x2 b) : Block.Kept st b (Block.scrWrite x0 x1 x2 b) := by
  unfold Block.scrWrite
  extract_lets -merge -underBinder +onlyGivenNames v1
  clear_value v1
  extract_lets -merge -underBinder +onlyGivenNames v2
  clear_value v2
  extract_lets -merge -underBinder +onlyGivenNames v3
  subst v3
  exact ⟨id, fun _ => rfl, fun h => SMap.wf_setRun _ _ h, .refl _, List.prefix_refl _, id, id⟩

theorem kept_storeL3 {st : Bool} (x0 x1 x2 x3 b) : Block.Kept st b (Block.storeL3 x0 x1 x2 x3 b) := by
  unfold Block.storeL3
  extract_lets -merge -underBinder +onlyGivenNames v1
  clear_value v1
  extract_lets -merge -underBinder +onlyGivenNames v2
  clear_value v2
  extract_lets -merge -underBinder +onlyGivenNames v3
  clear_value v3
  extract_lets -merge -underBinder +onlyGivenNames v4
  have h4 : Block.Kept st b v4 := kept_mapHarts ..
  clear_value v4
  exact h4.trans (kept_setL3 ..)

theorem kept_writePiece (x0 x1 x2 b) : Block.Kept true b (Block.writePiece x0 x1 x2 b) := by
  unfold Block.writePiece
  exact .ite (fun _ => kept_scrWrite ..) fun _ => .ite (fun _ => kept_writeBytes ..) fun _ => .ite (fun _ => kept_storeL3 ..) fun _ => .refl _

theorem kept_doSc (x0 x1 x2 x3 b) : Block.Kept true b (Block.doSc x0 x1 x2 x3 b) := by
  unfold Block.doSc
  refine .ite (fun _ => ?_) fun _ => ?_
  · exact .after (kept_modHart ..) (kept_setX ..)
  · split
    rename_i y1 e1
    have h1 : Block.Kept true b y1 := .of_pair e1 (kept_ownPiece ..)
    clear e1
    exact .ite (fun _ => h1) fun _ => .ite (fun _ => h1) fun _ => .after (kept_modHart ..) (.after (kept_setX ..) (h1.trans (kept_writePiece ..)))

theorem kept_doAmo (x0 x1 x2 x3 x4 b) : Block.Kept true b (Block.doAmo x0 x1 x2 x3 x4 b) := by
  unfold Block.doAmo
  split
  rename_i y1 e1
  have h1 : Block.Kept true b y1 := .of_pair e1 (kept_ownPiece ..)
  clear e1
  refine .ite (fun _ => ?_) fun _ => ?_
  · exact h1
  · split
    · rename_i y2 e2
      have h2 : Block.Kept true b y2 := .of_pair e2 (h1.trans (kept_readPiece ..))
      clear e2
      exact .after (kept_setDst ..) (h2.trans (kept_writePiece ..))
    · rename_i y3 e3
      have h3 : Block.Kept true b y3 := .of_pair e3 (h1.trans (kept_readPiece ..))
      clear e3
      exact h3
    · rename_i y4 e4
      have h4 : Block.Kept true b y4 := .of_pair e4 (h1.trans (kept_readPiece ..))
      clear e4
      exact h4.trans (kept_except ..)

theorem kept_amo (x0 x1 x2 x3 x4 x5 b) : Block.Kept true b (Block.amo x0 x1 x2 x3 x4 x5 b) := by
  unfold Block.amo
  extract_lets -merge -underBinder +onlyGivenNames v1
  clear_value v1
  refine .ite (fun _ => ?_) fun _ => ?_
  · exact kept_except ..
  · split
    · rename_i y2 e2
      have h2 : Block.Kept true b y2 := .of_pair e2 (kept_translate ..)
      clear e2
      exact h2.trans (kept_except ..)
    · rename_i y3 e3
      have h3 : Block.Kept true b y3 := .of_pair e3 (kept_translate ..)
      clear e3
      refine .ite (fun _ => ?_) fun _ => ?_
      · exact h3.trans (kept_hartAccessErr ..)
      · refine .ite (fun _ => ?_) fun _ => ?_
        · exact h3.trans (kept_except ..)
        · extract_lets -merge -underBinder +onlyGivenNames v4
          clear_value v4
          extract_lets -merge -underBinder +onlyGivenNames v5
          clear_value v5
          split
          · exact h3.trans (kept_doLr ..)
          · exact h3.trans (kept_doSc ..)
          · exact h3.trans (kept_doAmo ..)

theorem kept_announce {st : Bool} (x0 x1 x2 b) : Block.Kept st b (Block.announce x0 x1 x2 b) := by
  unfold Block.announce
  exact .ite (fun _ => .refl _) fun _ => .after (kept_offerSack ..) (kept_modPort ..)

theorem kept_announceAll {st : Bool} (b) : Block.Kept st b (Block.announceAll b) := by
  unfold Block.announceAll
  extract_lets -merge -underBinder +onlyGivenNames v1
  have h1 : Block.Kept st b v1 := (.of_eq rfl rfl rfl rfl rfl)
  clear_value v1
  extract_lets -merge -underBinder +onlyGivenNames v2
  clear_value v2
  exact (.forN fun i3 c3 => .ite (fun _ => kept_announce ..) fun _ => kept_announce ..)

theorem kept_answer {st : Bool} (x0 b) : Block.Kept st b (Block.answer x0 b) := by
  unfold Block.answer
  exact kept_emit ..

theorem kept_applyFence {st : Bool} (x0 x1 x2 x3 x4 b) : Block.Kept st b (Block.applyFence x0 x1 x2 x3 x4 b) := by
  unfold Block.applyFence
  extract_lets -merge -underBinder +onlyGivenNames v1
  subst v1
  exact kept_modHart ..

theorem kept_wakeSail {st : Bool} (x0 b) : Block.Kept st b (Block.wakeSail x0 b) := by
  unfold Block.wakeSail
  extract_lets -merge -underBinder +onlyGivenNames v1
  clear_value v1
  exact .after (kept_modSail ..) (kept_mapHarts ..)

theorem kept_vrOn {st : Bool} (x0 x1 b) : Block.Kept st b (Block.vrOn x0 x1 b) := by
  unfold Block.vrOn
  exact kept_vrSend ..

theorem kept_applyOp {st : Bool} (x0 x1 b) : Block.Kept st b (Block.applyOp x0 x1 b) := by
  unfold Block.applyOp
  extract_lets -merge -underBinder +onlyGivenNames v1
  clear_value v1
  extract_lets -merge -underBinder +onlyGivenNames v2
  clear_value v2
  extract_lets -merge -underBinder +onlyGivenNames v3
  have h3 : Block.Kept st b v3 := kept_put ..
  clear_value v3
  refine .ite (fun _ => ?_) fun _ => ?_
  · exact .ite (fun _ => h3) fun _ => .after (kept_leaveOn ..) (.after (kept_modSail ..) (h3.trans (kept_mapHarts ..)))
  · extract_lets -merge -underBinder +onlyGivenNames v4
    have h4 : Block.Kept st b v4 := .ite (fun _ => h3.trans (kept_wakeSail ..)) fun _ => h3
    clear_value v4
    extract_lets -merge -underBinder +onlyGivenNames v5
    clear_value v5
    refine .ite (fun _ => ?_) fun _ => ?_
    · exact .ite (fun _ => h4.trans (kept_vrOn ..)) fun _ => h4
    · refine .ite (fun _ => ?_) fun _ => ?_
      · exact .after (kept_put ..) (h4.trans (.whenA fun c6 => (kept_vrOn ..)))
      · extract_lets -merge -underBinder +onlyGivenNames v7
        have h7 : Block.Kept st b v7 := .after (.whenA fun c8 => (kept_vrOn ..)) (.after (kept_put ..) (h4.trans (kept_put ..)))
        clear_value v7
        exact .ite (fun _ => h7.trans (kept_wakeSail ..)) fun _ => h7

theorem kept_behindNow {st : Bool} (x0 x1 x2 x3 b) : Block.Kept st b (Block.behindNow x0 x1 x2 x3 b) := by
  unfold Block.behindNow
  extract_lets -merge -underBinder +onlyGivenNames v1
  clear_value v1
  exact .ite (fun _ => .refl _) fun _ => .ite (fun _ => kept_missMark ..) fun _ => kept_modRepl ..

theorem kept_applyVerdict {st : Bool} (x0 x1 x2 x3 b) : Block.Kept st b (Block.applyVerdict x0 x1 x2 x3 b) := by
  unfold Block.applyVerdict
  extract_lets -merge -underBinder +onlyGivenNames v1
  clear_value v1
  extract_lets -merge -underBinder +onlyGivenNames v2
  clear_value v2
  extract_lets -merge -underBinder +onlyGivenNames v3
  clear_value v3
  extract_lets -merge -underBinder +onlyGivenNames v4
  have h4 : Block.Kept st b v4 := .after (kept_modPart ..) (.after (kept_put ..) (.after (kept_put ..) (.after (kept_put ..) (kept_put ..))))
  clear_value v4
  extract_lets -merge -underBinder +onlyGivenNames v5
  have h5 : Block.Kept st b v5 := by
    unfold v5
    split
    · exact .after (kept_put ..) (.after (kept_modPart ..) (h4.trans (kept_put ..)))
    · exact h4
  clear_value v5
  extract_lets -merge -underBinder +onlyGivenNames v6
  have h6 : Block.Kept st b v6 := by
    unfold v6
    split
    · exact .after (kept_note ..) (h5.trans (kept_inc ..))
    · exact .after (kept_note ..) (h5.trans (kept_inc ..))
    · exact .after (kept_note ..) (h5.trans (kept_inc ..))
    · exact h5
  clear_value v6
  extract_lets -merge -underBinder +onlyGivenNames v7
  clear_value v7
  extract_lets -merge -underBinder +onlyGivenNames v8
  clear_value v8
  extract_lets -merge -underBinder +onlyGivenNames v9
  have h9 : Block.Kept st b v9 := by
    unfold v9
    refine .after (.forL fun i10 c10 => ?_) h6
    extract_lets -merge -underBinder +onlyGivenNames v11
    clear_value v11
    extract_lets -merge -underBinder +onlyGivenNames v12
    clear_value v12
    extract_lets -merge -underBinder +onlyGivenNames v13
    have h13 : Block.Kept st c10 v13 := kept_modRepl ..
    clear_value v13
    exact .ite (fun _ => h13.trans (kept_behindNow ..)) fun _ => h13
  clear_value v9
  extract_lets -merge -underBinder +onlyGivenNames v14
  have h14 : Block.Kept st b v14 := by
    unfold v14
    split
    · exact .ite (fun _ => h9.trans (kept_replLost ..)) fun _ => h9
    · exact h9
  clear_value v14
  exact .ite (fun _ => h14.trans (kept_failPart ..)) fun _ => h14

theorem kept_landOne (x0 b) : Block.Kept true b (Block.landOne x0 b) := by
  unfold Block.landOne
  exact .after (kept_deliver ..) (.after (kept_markLanded ..) (kept_takeFlight ..))

theorem kept_landEarlier (x0 b) : Block.Kept true b (Block.landEarlier x0 b) := by
  unfold Block.landEarlier
  exact (.forL fun i1 c1 => (kept_landOne ..))

theorem kept_arrives (x0 b) : Block.Kept true b (Block.arrives x0 b).2 := by
  unfold Block.arrives
  split
  · exact .snd (.after (kept_takeFlight ..) (kept_landEarlier ..))
  · split
    · exact .snd (.of_eq rfl rfl rfl rfl rfl)
    · exact .refl _

theorem kept_modIot {st : Bool} (x0 b) : Block.Kept st b (Block.modIot x0 b) := by
  unfold Block.modIot
  exact (.of_eq rfl rfl rfl rfl rfl)

theorem kept_atcAdd {st : Bool} (x0 b) : Block.Kept st b (Block.atcAdd x0 b) := by
  unfold Block.atcAdd
  extract_lets -merge -underBinder +onlyGivenNames v1
  clear_value v1
  extract_lets -merge -underBinder +onlyGivenNames v2
  clear_value v2
  extract_lets -merge -underBinder +onlyGivenNames v3
  clear_value v3
  extract_lets -merge -underBinder +onlyGivenNames v4
  clear_value v4
  exact .after (kept_tickFree ..) (kept_modIot ..)

theorem kept_modTrust {st : Bool} (x0 b) : Block.Kept st b (Block.modTrust x0 b) := by
  unfold Block.modTrust
  exact (.of_eq rfl rfl rfl rfl rfl)

theorem kept_attest {st : Bool} (x0 x1 b) : Block.Kept st b (Block.attest x0 x1 b) := by
  unfold Block.attest
  extract_lets -merge -underBinder +onlyGivenNames v1
  clear_value v1
  exact kept_modTrust ..

theorem kept_authFail {st : Bool} (x0 b) : Block.Kept st b (Block.authFail x0 b) := by
  unfold Block.authFail
  extract_lets -merge -underBinder +onlyGivenNames v1
  clear_value v1
  extract_lets -merge -underBinder +onlyGivenNames v2
  clear_value v2
  exact .after (kept_note ..) (kept_modTrust ..)

theorem kept_authOk {st : Bool} (x0 b) : Block.Kept st b (Block.authOk x0 b) := by
  unfold Block.authOk
  exact kept_modTrust ..

theorem kept_authSack {st : Bool} (x0 x1 x2 x3 b) : Block.Kept st b (Block.authSack x0 x1 x2 x3 b).2 := by
  unfold Block.authSack
  extract_lets -merge -underBinder +onlyGivenNames v1
  clear_value v1
  refine .iteP (fun _ => ?_) fun _ => ?_
  · extract_lets -merge -underBinder +onlyGivenNames v2
    clear_value v2
    extract_lets -merge -underBinder +onlyGivenNames v3
    clear_value v3
    extract_lets -merge -underBinder +onlyGivenNames v4
    clear_value v4
    refine .iteP (fun _ => ?_) fun _ => ?_
    · exact .refl _
    · split
      · exact .snd (kept_modPort ..)
      · exact .refl _
  · exact .refl _

theorem kept_modBank {st : Bool} (x0 x1 b) : Block.Kept st b (Block.modBank x0 x1 b) := by
  unfold Block.modBank
  exact kept_modTrust ..

theorem kept_putRecord {st : Bool} (x0 x1 b) : Block.Kept st b (Block.putRecord x0 x1 b) := by
  unfold Block.putRecord
  exact kept_modBank ..

theorem kept_badBank {st : Bool} (x0 x1 b) : Block.Kept st b (Block.badBank x0 x1 b) := by
  unfold Block.badBank
  exact .after (kept_note ..) (kept_putRecord ..)

theorem kept_badBlock {st : Bool} (x0 b) : Block.Kept st b (Block.badBlock x0 b) := by
  unfold Block.badBlock
  exact .after (kept_put ..) (kept_cnt ..)

theorem kept_mbxRefuse {st : Bool} (x0 x1 b) : Block.Kept st b (Block.mbxRefuse x0 x1 b) := by
  unfold Block.mbxRefuse
  exact .after (kept_note ..) (kept_mbxErr ..)

theorem kept_lockRead {st : Bool} (x0 x1 b) : Block.Kept st b (Block.lockRead x0 x1 b).2 := by
  unfold Block.lockRead
  split
  · exact .refl _
  · exact .snd (.of_eq rfl rfl rfl rfl rfl)

theorem kept_mbxRead {st : Bool} (x0 x1 x2 x3 b) : Block.Kept st b (Block.mbxRead x0 x1 x2 x3 b).2 := by
  unfold Block.mbxRead
  extract_lets -merge -underBinder +onlyGivenNames v1
  clear_value v1
  split
  · exact .snd (kept_mbxRefuse ..)
  · exact .refl _
  · exact .iteP (fun _ => .iteP (fun _ => .refl _) fun _ => .refl _) fun _ => .iteP (fun _ => .refl _) fun _ => .refl _
  · exact .iteP (fun _ => .refl _) fun _ => .refl _
  · exact .iteP (fun _ => .refl _) fun _ => .refl _
  · refine .iteP (fun _ => ?_) fun _ => ?_
    · extract_lets -merge -underBinder +onlyGivenNames v2
      have h2 : Block.Kept st b v2.2 := kept_lockRead ..
      clear_value v2
      exact h2
    · exact .refl _
  · exact .iteP (fun _ => .refl _) fun _ => .refl _
  · exact .iteP (fun _ => .refl _) fun _ => .refl _
  · exact .iteP (fun _ => .refl _) fun _ => .refl _
  · exact .iteP (fun _ => .refl _) fun _ => .refl _
  · exact .iteP (fun _ => .refl _) fun _ => .refl _

end Sys2Proof.Machine
end

