-- ==== Sys2Proof/Laws/KeptOps4.lean ====
section
/-! SUPPORT. One lemma for each shared operation: what it keeps (canonical memory, fuses, the first faults, and DRAM where it stores nothing). -/

namespace Sys2Proof.Machine

theorem kept_controlRead {st : Bool} (x0 x1 x2 x3 b) : Block.Kept st b (Block.controlRead x0 x1 x2 x3 b).2 := by
  unfold Block.controlRead
  refine .iteP (fun _ => ?_) fun _ => ?_
  · split
    · rename_i y1 e1
      have h1 : Block.Kept st b y1 := .of_pair e1 (kept_mbxRead ..)
      clear e1
      exact h1
    · rename_i y2 e2
      have h2 : Block.Kept st b y2 := .of_pair e2 (kept_mbxRead ..)
      clear e2
      exact h2
  · refine .iteP (fun _ => ?_) fun _ => ?_
    · exact .refl _
    · refine .iteP (fun _ => ?_) fun _ => ?_
      · exact .refl _
      · split
        · exact .iteP (fun _ => .refl _) fun _ => .refl _
        · exact .refl _

theorem kept_bar0Read {st : Bool} (x0 x1 x2 b) : Block.Kept st b (Block.bar0Read x0 x1 x2 b).2 := by
  unfold Block.bar0Read
  refine .iteP (fun _ => ?_) fun _ => ?_
  · split
    · split
      · rename_i y1 e1
        have h1 : Block.Kept st b y1 := .of_pair e1 (kept_controlRead ..)
        clear e1
        exact h1
      · rename_i y2 _ e2
        have h2 : Block.Kept st b y2 := .of_pair e2 (kept_controlRead ..)
        clear e2
        exact h2
    · exact .iteP (fun _ => .refl _) fun _ => .iteP (fun _ => .refl _) fun _ => .iteP (fun _ => .iteP (fun _ => .refl _) fun _ => .refl _) fun _ => .iteP (fun _ => .refl _) fun _ => .iteP (fun _ => .refl _) fun _ => .refl _
  · exact .iteP (fun _ => .refl _) fun _ => .iteP (fun _ => .refl _) fun _ => .refl _

theorem kept_modInst {st : Bool} (x0 x1 b) : Block.Kept st b (Block.modInst x0 x1 b) := by
  unfold Block.modInst
  exact kept_modSlc ..

theorem kept_modHop {st : Bool} (x0 x1 b) : Block.Kept st b (Block.modHop x0 x1 b) := by
  unfold Block.modHop
  exact kept_modSlc ..

theorem kept_iotS {st : Bool} (x0 x1 b) : Block.Kept st b (Block.iotS x0 x1 b) := by
  unfold Block.iotS
  exact (.of_eq rfl rfl rfl rfl rfl)

theorem kept_iotIrq {st : Bool} (x0 b) : Block.Kept st b (Block.iotIrq x0 b) := by
  unfold Block.iotIrq
  refine .ite (fun _ => ?_) fun _ => ?_
  · exact .refl _
  · extract_lets -merge -underBinder +onlyGivenNames v1
    clear_value v1
    extract_lets -merge -underBinder +onlyGivenNames v2
    have h2 : Block.Kept st b v2 := kept_iotS ..
    clear_value v2
    exact .ite (fun _ => h2) fun _ => h2.trans (kept_sendMsi ..)

theorem kept_iotEvent {st : Bool} (x0 x1 x2 b) : Block.Kept st b (Block.iotEvent x0 x1 x2 b) := by
  unfold Block.iotEvent
  refine .forN fun i1 c1 => ?_
  extract_lets -merge -underBinder +onlyGivenNames v2
  clear_value v2
  refine .ite (fun _ => ?_) fun _ => ?_
  · exact .refl _
  · extract_lets -merge -underBinder +onlyGivenNames v3
    clear_value v3
    extract_lets -merge -underBinder +onlyGivenNames v4
    have h4 : Block.Kept st c1 v4 := kept_iotS ..
    clear_value v4
    exact .ite (fun _ => h4) fun _ => .after (kept_iotIrq ..) (h4.trans (kept_iotS ..))

theorem kept_iotMem (x0 x1 x2 x3 x4 x5 b) : Block.Kept true b (Block.iotMem x0 x1 x2 x3 x4 x5 b).2 := by
  unfold Block.iotMem
  refine .iteP (fun _ => ?_) fun _ => ?_
  · exact .snd (.after (kept_note ..) (kept_inc ..))
  · split
    rename_i y1 e1
    have h1 : Block.Kept true b y1 := .of_pair e1 (kept_readBytes ..)
    clear e1
    exact .iteP (fun _ => .snd (.after (kept_note ..) (h1.trans (kept_inc ..)))) fun _ => h1

theorem kept_ddtWalk (x0 x1 x2 x3 x4 x5 b) : Block.Kept true b (Block.ddtWalk x0 x1 x2 x3 x4 x5 b).2 := by
  induction x4 generalizing x5 b with
  | zero =>
    unfold Block.ddtWalk
    split
    · rename_i y1 e1
      have h1 : Block.Kept true b y1 := .of_pair e1 (kept_iotMem ..)
      clear e1
      exact h1
    · rename_i y2 e2
      have h2 : Block.Kept true b y2 := .of_pair e2 (kept_iotMem ..)
      clear e2
      exact h2
  | succ n ih =>
    unfold Block.ddtWalk
    split
    · rename_i y1 e1
      have h1 : Block.Kept true b y1 := .of_pair e1 (kept_iotMem ..)
      clear e1
      exact h1
    · rename_i y2 e2
      have h2 : Block.Kept true b y2 := .of_pair e2 (kept_iotMem ..)
      clear e2
      extract_lets -merge -underBinder +onlyGivenNames v3
      clear_value v3
      exact .iteP (fun _ => h2) fun _ => .iteP (fun _ => h2) fun _ => h2.trans (ih ..)

theorem kept_iotContext (x0 x1 x2 x3 b) : Block.Kept true b (Block.iotContext x0 x1 x2 x3 b).2 := by
  unfold Block.iotContext
  split
  · exact .refl _
  · extract_lets -merge -underBinder +onlyGivenNames v1
    clear_value v1
    extract_lets -merge -underBinder +onlyGivenNames v2
    clear_value v2
    refine .iteP (fun _ => ?_) fun _ => ?_
    · exact .refl _
    · refine .iteP (fun _ => ?_) fun _ => ?_
      · exact .refl _
      · split
        · rename_i y3 e3
          have h3 : Block.Kept true b y3 := .of_pair e3 (.after (kept_ddtWalk ..) (kept_iotEvent ..))
          clear e3
          exact h3
        · rename_i y4 e4
          have h4 : Block.Kept true b y4 := .of_pair e4 (.after (kept_ddtWalk ..) (kept_iotEvent ..))
          clear e4
          refine .iteP (fun _ => ?_) fun _ => ?_
          · exact h4
          · refine .iteP (fun _ => ?_) fun _ => ?_
            · exact h4
            · extract_lets -merge -underBinder +onlyGivenNames v5
              clear_value v5
              extract_lets -merge -underBinder +onlyGivenNames v6
              clear_value v6
              exact .snd (.after (kept_tickFree ..) (h4.trans (kept_modIot ..)))

theorem kept_iotWalkG (x0 x1 x2 x3 x4 x5 x6 b) : Block.Kept true b (Block.iotWalkG x0 x1 x2 x3 x4 x5 x6 b).2 := by
  induction x4 generalizing x5 x6 b with
  | zero =>
    unfold Block.iotWalkG
    exact .refl _
  | succ n ih =>
    unfold Block.iotWalkG
    split
    · rename_i y1 e1
      have h1 : Block.Kept true b y1 := .of_pair e1 (kept_iotMem ..)
      clear e1
      exact h1
    · rename_i y2 e2
      have h2 : Block.Kept true b y2 := .of_pair e2 (kept_iotMem ..)
      clear e2
      extract_lets -merge -underBinder +onlyGivenNames v3
      clear_value v3
      exact .iteP (fun _ => h2) fun _ => .iteP (fun _ => .iteP (fun _ => h2) fun _ => h2) fun _ => h2.trans (ih ..)

theorem kept_iotG2 (x0 x1 x2 x3 x4 x5 x6 x7 b) : Block.Kept true b (Block.iotG2 x0 x1 x2 x3 x4 x5 x6 x7 b).2 := by
  unfold Block.iotG2
  extract_lets -merge -underBinder +onlyGivenNames v1
  clear_value v1
  refine .iteP (fun _ => ?_) fun _ => ?_
  · exact .refl _
  · refine .iteP (fun _ => ?_) fun _ => ?_
    · exact .refl _
    · split
      · rename_i y2 e2
        have h2 : Block.Kept true b y2 := .of_pair e2 (.after (kept_iotWalkG ..) (kept_iotEvent ..))
        clear e2
        exact h2
      · rename_i y3 e3
        have h3 : Block.Kept true b y3 := .of_pair e3 (.after (kept_iotWalkG ..) (kept_iotEvent ..))
        clear e3
        exact .iteP (fun _ => h3) fun _ => h3

theorem kept_iotWalkS (x0 x1 x2 x3 x4 x5 x6 x7 x8 b) : Block.Kept true b (Block.iotWalkS x0 x1 x2 x3 x4 x5 x6 x7 x8 b).2 := by
  induction x7 generalizing x8 b with
  | zero =>
    unfold Block.iotWalkS
    exact .refl _
  | succ n ih =>
    unfold Block.iotWalkS
    split
    · rename_i y1 e1
      have h1 : Block.Kept true b y1 := .of_pair e1 (kept_iotG2 ..)
      clear e1
      exact h1
    · rename_i y2 e2
      have h2 : Block.Kept true b y2 := .of_pair e2 (kept_iotG2 ..)
      clear e2
      split
      · rename_i y3 e3
        have h3 : Block.Kept true b y3 := .of_pair e3 (h2.trans (kept_iotMem ..))
        clear e3
        exact h3
      · rename_i y4 e4
        have h4 : Block.Kept true b y4 := .of_pair e4 (h2.trans (kept_iotMem ..))
        clear e4
        extract_lets -merge -underBinder +onlyGivenNames v5
        clear_value v5
        exact .iteP (fun _ => h4) fun _ => .iteP (fun _ => .iteP (fun _ => h4) fun _ => h4) fun _ => h4.trans (ih ..)

theorem kept_iotS1 (x0 x1 x2 x3 x4 x5 x6 x7 b) : Block.Kept true b (Block.iotS1 x0 x1 x2 x3 x4 x5 x6 x7 b).2 := by
  unfold Block.iotS1
  extract_lets -merge -underBinder +onlyGivenNames v1
  clear_value v1
  refine .iteP (fun _ => ?_) fun _ => ?_
  · exact .refl _
  · refine .iteP (fun _ => ?_) fun _ => ?_
    · exact .refl _
    · split
      · rename_i y2 e2
        have h2 : Block.Kept true b y2 := .of_pair e2 (.after (kept_iotWalkS ..) (kept_iotEvent ..))
        clear e2
        exact h2
      · rename_i y3 e3
        have h3 : Block.Kept true b y3 := .of_pair e3 (.after (kept_iotWalkS ..) (kept_iotEvent ..))
        clear e3
        exact .iteP (fun _ => h3) fun _ => h3

theorem kept_iotMsi (x0 x1 x2 x3 x4 b) : Block.Kept true b (Block.iotMsi x0 x1 x2 x3 x4 b).2 := by
  unfold Block.iotMsi
  extract_lets -merge -underBinder +onlyGivenNames v1
  clear_value v1
  split
  · rename_i y2 e2
    have h2 : Block.Kept true b y2 := .of_pair e2 (kept_iotMem ..)
    clear e2
    exact h2
  · rename_i y3 e3
    have h3 : Block.Kept true b y3 := .of_pair e3 (kept_iotMem ..)
    clear e3
    extract_lets -merge -underBinder +onlyGivenNames v4
    clear_value v4
    exact .iteP (fun _ => h3) fun _ => .iteP (fun _ => h3) fun _ => h3

theorem kept_iotLookup (x0 x1 x2 x3 x4 x5 b) : Block.Kept true b (Block.iotLookup x0 x1 x2 x3 x4 x5 b).2 := by
  unfold Block.iotLookup
  extract_lets -merge -underBinder +onlyGivenNames v1
  clear_value v1
  extract_lets -merge -underBinder +onlyGivenNames v2
  have h2 : Block.Kept true b v2 := kept_iotEvent ..
  clear_value v2
  refine .iteP (fun _ => ?_) fun _ => ?_
  · exact h2
  · refine .iteP (fun _ => ?_) fun _ => ?_
    · exact h2
    · split
      · rename_i y3 e3
        have h3 : Block.Kept true b y3 := .of_pair e3 (h2.trans (kept_iotContext ..))
        clear e3
        exact h3
      · rename_i y4 e4
        have h4 : Block.Kept true b y4 := .of_pair e4 (h2.trans (kept_iotContext ..))
        clear e4
        refine .iteP (fun _ => ?_) fun _ => ?_
        · exact h4
        · extract_lets -merge -underBinder +onlyGivenNames v5
          clear_value v5
          extract_lets -merge -underBinder +onlyGivenNames v6
          clear_value v6
          extract_lets -merge -underBinder +onlyGivenNames v7
          clear_value v7
          extract_lets -merge -underBinder +onlyGivenNames v8
          clear_value v8
          split
          · exact h4
          · extract_lets -merge -underBinder +onlyGivenNames v9
            have h9 : Block.Kept true b v9 := h4.trans (kept_iotEvent ..)
            clear_value v9
            split
            · rename_i y10 e10
              have h10 : Block.Kept true b y10 := .of_pair e10 (h9.trans (kept_iotS1 ..))
              clear e10
              exact h10
            · rename_i y11 e11
              have h11 : Block.Kept true b y11 := .of_pair e11 (h9.trans (kept_iotS1 ..))
              clear e11
              extract_lets -merge -underBinder +onlyGivenNames v12
              clear_value v12
              refine .iteP (fun _ => ?_) fun _ => ?_
              · split
                · rename_i y13 e13
                  have h13 : Block.Kept true b y13 := .of_pair e13 (h11.trans (kept_iotMsi ..))
                  clear e13
                  exact h13
                · rename_i y14 e14
                  have h14 : Block.Kept true b y14 := .of_pair e14 (h11.trans (kept_iotMsi ..))
                  clear e14
                  exact .snd (h14.trans (kept_atcAdd ..))
              · split
                · rename_i y15 e15
                  have h15 : Block.Kept true b y15 := .of_pair e15 (h11.trans (kept_iotG2 ..))
                  clear e15
                  exact h15
                · rename_i y16 e16
                  have h16 : Block.Kept true b y16 := .of_pair e16 (h11.trans (kept_iotG2 ..))
                  clear e16
                  extract_lets -merge -underBinder +onlyGivenNames v17
                  clear_value v17
                  extract_lets -merge -underBinder +onlyGivenNames v18
                  clear_value v18
                  exact .snd (h16.trans (kept_atcAdd ..))

theorem kept_iotFault (x0 x1 x2 x3 x4 x5 b) : Block.Kept true b (Block.iotFault x0 x1 x2 x3 x4 x5 b) := by
  unfold Block.iotFault
  extract_lets -merge -underBinder +onlyGivenNames v1
  clear_value v1
  extract_lets -merge -underBinder +onlyGivenNames v2
  clear_value v2
  refine .ite (fun _ => ?_) fun _ => ?_
  · exact .refl _
  · extract_lets -merge -underBinder +onlyGivenNames v3
    clear_value v3
    extract_lets -merge -underBinder +onlyGivenNames v4
    clear_value v4
    refine .ite (fun _ => ?_) fun _ => ?_
    · exact .after (.whenA fun c6 => (kept_iotIrq ..)) (.after (.whenA fun c5 => .after (kept_modIot ..) (kept_note ..)) (kept_iotS ..))
    · extract_lets -merge -underBinder +onlyGivenNames v7
      clear_value v7
      exact .ite (fun _ => .after (.whenA fun c8 => (kept_iotIrq ..)) (.after (kept_note ..) (kept_iotS ..))) fun _ => .after (.whenA fun c9 => (kept_iotIrq ..)) (.after (kept_iotS ..) (kept_writeBytes ..))

theorem kept_iotTranslate (x0 x1 x2 x3 x4 x5 b) : Block.Kept true b (Block.iotTranslate x0 x1 x2 x3 x4 x5 b).2 := by
  unfold Block.iotTranslate
  split
  · rename_i y1 e1
    have h1 : Block.Kept true b y1 := .of_pair e1 (kept_iotLookup ..)
    clear e1
    exact h1
  · rename_i y2 e2
    have h2 : Block.Kept true b y2 := .of_pair e2 (kept_iotLookup ..)
    clear e2
    extract_lets -merge -underBinder +onlyGivenNames v3
    clear_value v3
    extract_lets -merge -underBinder +onlyGivenNames v4
    clear_value v4
    exact .snd (.ite (fun _ => h2) fun _ => h2.trans (kept_iotFault ..))

theorem kept_memRead (x0 x1 x2 x3 b) : Block.Kept true b (Block.memRead x0 x1 x2 x3 b).2 := by
  unfold Block.memRead
  refine .iteP (fun _ => ?_) fun _ => ?_
  · exact .iteP (fun _ => .refl _) fun _ => .snd (kept_note ..)
  · refine .iteP (fun _ => ?_) fun _ => ?_
    · split
      rename_i y1 e1
      have h1 : Block.Kept true b y1 := .of_pair e1 (kept_readBytes ..)
      clear e1
      exact h1
    · exact .refl _

theorem kept_instReadF (x0 x1 x2 x3 b) : Block.Kept true b (Block.instReadF x0 x1 x2 x3 b).2 := by
  induction x1 generalizing x2 x3 b with
  | zero =>
    unfold Block.instReadF
    exact .refl _
  | succ n ih =>
    unfold Block.instReadF
    refine .iteP (fun _ => ?_) fun _ => ?_
    · exact .refl _
    · extract_lets -merge -underBinder +onlyGivenNames v1
      clear_value v1
      split
      · rename_i y2 e2
        have h2 : Block.Kept true b y2 := .of_pair e2 (kept_iotTranslate ..)
        clear e2
        exact h2
      · rename_i y3 e3
        have h3 : Block.Kept true b y3 := .of_pair e3 (kept_iotTranslate ..)
        clear e3
        split
        · rename_i y4 e4
          have h4 : Block.Kept true b y4 := .of_pair e4 (h3.trans (kept_memRead ..))
          clear e4
          exact h4
        · rename_i y5 e5
          have h5 : Block.Kept true b y5 := .of_pair e5 (h3.trans (kept_memRead ..))
          clear e5
          refine .iteP (fun _ => ?_) fun _ => ?_
          · exact h5
          · split
            · rename_i y6 e6
              have h6 : Block.Kept true b y6 := .of_pair e6 (h5.trans (ih ..))
              clear e6
              exact h6
            · rename_i y7 e7
              have h7 : Block.Kept true b y7 := .of_pair e7 (h5.trans (ih ..))
              clear e7
              exact h7

theorem kept_instRead (x0 x1 x2 b) : Block.Kept true b (Block.instRead x0 x1 x2 b).2 := by
  unfold Block.instRead
  exact kept_instReadF ..

theorem kept_instFlag {st : Bool} (x0 x1 b) : Block.Kept st b (Block.instFlag x0 x1 b) := by
  unfold Block.instFlag
  exact .after (.whenA fun c1 => (kept_sendVec ..)) (kept_put ..)

theorem kept_stopQueue {st : Bool} (x0 x1 x2 b) : Block.Kept st b (Block.stopQueue x0 x1 x2 b) := by
  unfold Block.stopQueue
  exact .after (kept_note ..) (.after (.whenA fun c1 => (kept_put ..)) (.after (kept_instFlag ..) (kept_modInst ..)))

theorem kept_memWrite (x0 x1 x2 x3 b) : Block.Kept true b (Block.memWrite x0 x1 x2 x3 b).2 := by
  unfold Block.memWrite
  exact .iteP (fun _ => .iteP (fun _ => .snd (kept_scrWrite ..)) fun _ => .snd (kept_note ..)) fun _ => .iteP (fun _ => .snd (kept_writeBytes ..)) fun _ => .refl _

theorem kept_logPage (x0 x1 b) : Block.Kept true b (Block.logPage x0 x1 b) := by
  unfold Block.logPage
  refine .ite (fun _ => ?_) fun _ => ?_
  · exact .refl _
  · extract_lets -merge -underBinder +onlyGivenNames v1
    clear_value v1
    extract_lets -merge -underBinder +onlyGivenNames v2
    clear_value v2
    refine .ite (fun _ => ?_) fun _ => ?_
    · exact .after (kept_note ..) (kept_instFlag ..)
    · extract_lets -merge -underBinder +onlyGivenNames v3
      clear_value v3
      split
      rename_i y4 e4
      have h4 : Block.Kept true b y4 := .of_pair e4 (kept_readBytes ..)
      clear e4
      exact h4.trans (kept_writeBytes ..)

theorem kept_instWriteF (x0 x1 x2 x3 b) : Block.Kept true b (Block.instWriteF x0 x1 x2 x3 b).2 := by
  induction x1 generalizing x2 x3 b with
  | zero =>
    unfold Block.instWriteF
    exact .refl _
  | succ n ih =>
    unfold Block.instWriteF
    refine .iteP (fun _ => ?_) fun _ => ?_
    · exact .refl _
    · extract_lets -merge -underBinder +onlyGivenNames v1
      clear_value v1
      split
      · rename_i y2 e2
        have h2 : Block.Kept true b y2 := .of_pair e2 (kept_iotTranslate ..)
        clear e2
        exact h2
      · rename_i y3 e3
        have h3 : Block.Kept true b y3 := .of_pair e3 (kept_iotTranslate ..)
        clear e3
        split
        · rename_i y4 e4
          have h4 : Block.Kept true b y4 := .of_pair e4 (h3.trans (kept_memWrite ..))
          clear e4
          exact h4
        · rename_i y5 e5
          have h5 : Block.Kept true b y5 := .of_pair e5 (h3.trans (kept_memWrite ..))
          clear e5
          exact .after (ih ..) (.after (kept_memWrite ..) (h3.trans (kept_logPage ..)))

theorem kept_instWrite (x0 x1 x2 b) : Block.Kept true b (Block.instWrite x0 x1 x2 b).2 := by
  unfold Block.instWrite
  exact kept_instWriteF ..

theorem kept_hopWriteBack (x0 b) : Block.Kept true b (Block.hopWriteBack x0 b) := by
  unfold Block.hopWriteBack
  extract_lets -merge -underBinder +onlyGivenNames v1
  clear_value v1
  split
  · exact .refl _
  · refine .ite (fun _ => ?_) fun _ => ?_
    · exact .refl _
    · split
      · rename_i y2 e2
        have h2 : Block.Kept true b y2 := .of_pair e2 (kept_instWrite ..)
        clear e2
        exact h2.trans (kept_modHop ..)
      · rename_i y3 e3
        have h3 : Block.Kept true b y3 := .of_pair e3 (kept_instWrite ..)
        clear e3
        exact .after (kept_stopQueue ..) (h3.trans (kept_modHop ..))

theorem kept_getCtx (x0 x1 b) : Block.Kept true b (Block.getCtx x0 x1 b).2 := by
  unfold Block.getCtx
  split
  · exact .snd (.after (kept_modHop ..) (kept_modSlc ..))
  · split
    · rename_i y1 e1
      have h1 : Block.Kept true b y1 := .of_pair e1 (kept_instRead ..)
      clear e1
      exact .snd (h1.trans (kept_stopQueue ..))
    · rename_i y2 e2
      have h2 : Block.Kept true b y2 := .of_pair e2 (kept_instRead ..)
      clear e2
      extract_lets -merge -underBinder +onlyGivenNames v3
      clear_value v3
      refine .iteP (fun _ => ?_) fun _ => ?_
      · exact h2
      · split
        · exact h2
        · extract_lets -merge -underBinder +onlyGivenNames v4
          have h4 : Block.Kept true b v4 := .after (kept_modHop ..) (h2.trans (kept_hopWriteBack ..))
          clear_value v4
          exact .snd (h4.trans (kept_modSlc ..))

theorem kept_showOcc {st : Bool} (x0 b) : Block.Kept st b (Block.showOcc x0 b) := by
  unfold Block.showOcc
  exact kept_put ..

theorem kept_fetchOne (x0 x1 x2 b) : Block.Kept true b (Block.fetchOne x0 x1 x2 b).2 := by
  unfold Block.fetchOne
  refine .iteP (fun _ => ?_) fun _ => ?_
  · exact .refl _
  · split
    · rename_i y1 e1
      have h1 : Block.Kept true b y1 := .of_pair e1 (kept_getCtx ..)
      clear e1
      exact h1
    · rename_i y2 e2
      have h2 : Block.Kept true b y2 := .of_pair e2 (kept_getCtx ..)
      clear e2
      extract_lets -merge -underBinder +onlyGivenNames v3
      clear_value v3
      refine .iteP (fun _ => ?_) fun _ => ?_
      · exact h2
      · split
        · rename_i y4 e4
          have h4 : Block.Kept true b y4 := .of_pair e4 (h2.trans (kept_instRead ..))
          clear e4
          exact .snd (h4.trans (kept_stopQueue ..))
        · rename_i y5 e5
          have h5 : Block.Kept true b y5 := .of_pair e5 (h2.trans (kept_instRead ..))
          clear e5
          exact .snd (.after (kept_showOcc ..) (h5.trans (kept_modSlc ..)))

theorem kept_fetchF (x0 x1 x2 b) : Block.Kept true b (Block.fetchF x0 x1 x2 b) := by
  induction x2 generalizing b with
  | zero =>
    unfold Block.fetchF
    exact .refl _
  | succ n ih =>
    unfold Block.fetchF
    split
    · rename_i y1 e1
      have h1 : Block.Kept true b y1 := .of_pair e1 (kept_fetchOne ..)
      clear e1
      exact h1.trans (ih ..)
    · rename_i y2 e2
      have h2 : Block.Kept true b y2 := .of_pair e2 (kept_fetchOne ..)
      clear e2
      exact h2

theorem kept_putCtx (x0 x1 x2 b) : Block.Kept true b (Block.putCtx x0 x1 x2 b) := by
  unfold Block.putCtx
  split
  · exact kept_modHop ..
  · split
    · rename_i y1 e1
      have h1 : Block.Kept true b y1 := .of_pair e1 (kept_instWrite ..)
      clear e1
      exact h1
    · rename_i y2 e2
      have h2 : Block.Kept true b y2 := .of_pair e2 (kept_instWrite ..)
      clear e2
      exact h2.trans (kept_stopQueue ..)

theorem kept_doorbell (x0 x1 x2 b) : Block.Kept true b (Block.doorbell x0 x1 x2 b) := by
  unfold Block.doorbell
  refine .ite (fun _ => ?_) fun _ => ?_
  · exact kept_modInst ..
  · refine .ite (fun _ => ?_) fun _ => ?_
    · exact .refl _
    · split
      · rename_i y1 e1
        have h1 : Block.Kept true b y1 := .of_pair e1 (kept_getCtx ..)
        clear e1
        exact h1
      · rename_i y2 e2
        have h2 : Block.Kept true b y2 := .of_pair e2 (kept_getCtx ..)
        clear e2
        exact .ite (fun _ => .after (kept_note ..) (h2.trans (kept_instFlag ..))) fun _ => .after (.whenA fun c3 => (kept_fetchF ..)) (h2.trans (kept_putCtx ..))

theorem kept_ringBell (x0 x1 x2 x3 x4 b) : Block.Kept true b (Block.ringBell x0 x1 x2 x3 x4 b) := by
  unfold Block.ringBell
  extract_lets -merge -underBinder +onlyGivenNames v1
  subst v1
  refine .ite (fun _ => ?_) fun _ => ?_
  · exact kept_doorbell ..
  · extract_lets -merge -underBinder +onlyGivenNames v2
    clear_value v2
    exact .after (kept_note ..) (kept_emit ..)

theorem kept_fnDoorbell (x0 x1 x2 b) : Block.Kept true b (Block.fnDoorbell x0 x1 x2 b) := by
  unfold Block.fnDoorbell
  exact .ite (fun _ => kept_note ..) fun _ => kept_ringBell ..

theorem kept_unsupported {st : Bool} (x0 x1 x2 x3 x4 b) : Block.Kept st b (Block.unsupported x0 x1 x2 x3 x4 b) := by
  unfold Block.unsupported
  exact .after (.whenA fun c2 => (kept_emit ..)) (.after (.whenA fun c1 => (kept_note ..)) (.after (kept_modSub ..) (kept_aerSet ..)))

theorem kept_chanCmd {st : Bool} (x0 x1 x2 x3 x4 b) : Block.Kept st b (Block.chanCmd x0 x1 x2 x3 x4 b) := by
  unfold Block.chanCmd
  extract_lets -merge -underBinder +onlyGivenNames v1
  clear_value v1
  exact .ite (fun _ => .ite (fun _ => kept_post ..) fun _ => kept_postRefused ..) fun _ => .ite (fun _ => kept_ack ..) fun _ => .ite (fun _ => kept_ackAbort ..) fun _ => .refl _

theorem kept_lockWrite {st : Bool} (x0 x1 x2 x3 b) : Block.Kept st b (Block.lockWrite x0 x1 x2 x3 b) := by
  unfold Block.lockWrite
  exact .ite (fun _ => .after (kept_note ..) (kept_mbxErr ..)) fun _ => .ite (fun _ => (.of_eq rfl rfl rfl rfl rfl)) fun _ => .refl _

theorem kept_lockForce {st : Bool} (x0 x1 b) : Block.Kept st b (Block.lockForce x0 x1 b) := by
  unfold Block.lockForce
  exact .ite (fun _ => .after (kept_note ..) (.of_eq rfl rfl rfl rfl rfl)) fun _ => .refl _

theorem kept_plainWrite {st : Bool} (x0 x1 x2 x3 x4 b) : Block.Kept st b (Block.plainWrite x0 x1 x2 x3 x4 b) := by
  unfold Block.plainWrite
  exact kept_setR ..

theorem kept_mbxWrite {st : Bool} (x0 x1 x2 x3 x4 b) : Block.Kept st b (Block.mbxWrite x0 x1 x2 x3 x4 b).2 := by
  unfold Block.mbxWrite
  extract_lets -merge -underBinder +onlyGivenNames v1
  clear_value v1
  split
  · exact .snd (kept_mbxRefuse ..)
  · exact .refl _
  · exact .iteP (fun _ => .iteP (fun _ => .refl _) fun _ => .iteP (fun _ => .snd (kept_modChan ..)) fun _ => .refl _) fun _ => .iteP (fun _ => .refl _) fun _ => .snd (.ite (fun _ => kept_chanCmd ..) fun _ => .refl _)
  · exact .refl _
  · exact .refl _
  · exact .iteP (fun _ => .snd (kept_lockWrite ..)) fun _ => .refl _
  · exact .refl _
  · exact .iteP (fun _ => .snd (kept_lockForce ..)) fun _ => .refl _
  · exact .iteP (fun _ => .snd (kept_plainWrite ..)) fun _ => .refl _
  · exact .refl _
  · exact .snd (.whenA fun c2 => (kept_plainWrite ..))

theorem kept_trRequest (x0 b) : Block.Kept true b (Block.trRequest x0 b) := by
  unfold Block.trRequest
  refine .ite (fun _ => ?_) fun _ => ?_
  · exact kept_iotS ..
  · extract_lets -merge -underBinder +onlyGivenNames v1
    clear_value v1
    split
    rename_i y2 e2
    have h2 : Block.Kept true b y2 := .of_pair e2 (kept_iotLookup ..)
    clear e2
    exact .after (kept_iotS ..) (h2.trans (kept_iotS ..))

theorem kept_iotWrite (x0 x1 b) : Block.Kept true b (Block.iotWrite x0 x1 b) := by
  unfold Block.iotWrite
  extract_lets -merge -underBinder +onlyGivenNames v1
  clear_value v1
  extract_lets -merge -underBinder +onlyGivenNames v2
  clear_value v2
  exact .ite (fun _ => .refl _) fun _ => .ite (fun _ => .ite (fun _ => kept_iotS ..) fun _ => .refl _) fun _ => .ite (fun _ => .after (.whenA fun c3 => (kept_iotS ..)) (kept_iotS ..)) fun _ => .ite (fun _ => .after (.whenA fun c5 => (kept_modIot ..)) (.after (.whenA fun c4 => (kept_iotS ..)) (kept_iotS ..))) fun _ => .ite (fun _ => kept_iotS ..) fun _ => .ite (fun _ => kept_trRequest ..) fun _ => .ite (fun _ => kept_iotS ..) fun _ => .ite (fun _ => kept_iotS ..) fun _ => kept_iotS ..

theorem kept_writeAns {st : Bool} (x0 b) : Block.Kept st b (Block.writeAns x0 b).2 := by
  unfold Block.writeAns
  exact .refl _

theorem kept_modEvt {st : Bool} (x0 x1 b) : Block.Kept st b (Block.modEvt x0 x1 b) := by
  unfold Block.modEvt
  exact (.of_eq rfl rfl rfl rfl rfl)

theorem kept_evtChanged {st : Bool} (x0 x1 b) : Block.Kept st b (Block.evtChanged x0 x1 b) := by
  unfold Block.evtChanged
  extract_lets -merge -underBinder +onlyGivenNames v1
  clear_value v1
  refine .ite (fun _ => ?_) fun _ => ?_
  · exact .refl _
  · extract_lets -merge -underBinder +onlyGivenNames v2
    clear_value v2
    exact kept_modEvt ..

theorem kept_evtRearm {st : Bool} (x0 b) : Block.Kept st b (Block.evtRearm x0 b) := by
  unfold Block.evtRearm
  exact .after (kept_modEvt ..) (.after (kept_put ..) (kept_put ..))

theorem kept_maskPut {st : Bool} (x0 x1 x2 x3 b) : Block.Kept st b (Block.maskPut x0 x1 x2 x3 b) := by
  unfold Block.maskPut
  split
  · exact .ite (fun _ => kept_put ..) fun _ => .refl _
  · exact kept_put ..
  · exact .ite (fun _ => kept_put ..) fun _ => .refl _

theorem kept_maskWrite {st : Bool} (x0 x1 x2 x3 x4 b) : Block.Kept st b (Block.maskWrite x0 x1 x2 x3 x4 b) := by
  unfold Block.maskWrite
  refine .ite (fun _ => ?_) fun _ => ?_
  · exact kept_emit ..
  · extract_lets -merge -underBinder +onlyGivenNames v1
    have h1 : Block.Kept st b v1 := kept_maskPut ..
    clear_value v1
    exact .ite (fun _ => kept_put ..) fun _ => h1

theorem kept_sailRefused {st : Bool} (x0 x1 b) : Block.Kept st b (Block.sailRefused x0 x1 b) := by
  unfold Block.sailRefused
  exact .after (kept_emit ..) (kept_note ..)

theorem kept_mntSet {st : Bool} (x0 x1 x2 b) : Block.Kept st b (Block.mntSet x0 x1 x2 b) := by
  unfold Block.mntSet
  exact .after (kept_put ..) (.after (kept_put ..) (.after (kept_put ..) (.after (kept_put ..) (.after (kept_put ..) (.after (kept_put ..) (kept_put ..))))))

theorem kept_mntErr {st : Bool} (x0 x1 b) : Block.Kept st b (Block.mntErr x0 x1 b) := by
  unfold Block.mntErr
  exact .after (kept_note ..) (.after (kept_put ..) (.after (kept_put ..) (kept_put ..)))

theorem kept_mntGo (x0 b) : Block.Kept true b (Block.mntGo x0 b) := by
  unfold Block.mntGo
  extract_lets -merge -underBinder +onlyGivenNames v1
  clear_value v1
  extract_lets -merge -underBinder +onlyGivenNames v2
  clear_value v2
  extract_lets -merge -underBinder +onlyGivenNames v3
  clear_value v3
  extract_lets -merge -underBinder +onlyGivenNames v4
  subst v4
  extract_lets -merge -underBinder +onlyGivenNames v5
  clear_value v5
  extract_lets -merge -underBinder +onlyGivenNames v6
  clear_value v6
  exact .after (kept_mntOn ..) (.after (.forL fun i7 c7 => (kept_mntLine ..)) (.after (kept_modSail ..) (.after (kept_setR ..) (.after (kept_setR ..) (kept_put ..)))))

theorem kept_mntStart (x0 x1 x2 b) : Block.Kept true b (Block.mntStart x0 x1 x2 b) := by
  unfold Block.mntStart
  refine .ite (fun _ => ?_) fun _ => ?_
  · exact kept_sailRefused ..
  · refine .ite (fun _ => ?_) fun _ => ?_
    · exact kept_emit ..
    · refine .ite (fun _ => ?_) fun _ => ?_
      · exact kept_put ..
      · extract_lets -merge -underBinder +onlyGivenNames v1
        have h1 : Block.Kept true b v1 := kept_mntSet ..
        clear_value v1
        split
        · exact h1.trans (kept_mntErr ..)
        · exact h1.trans (kept_mntGo ..)

theorem kept_queueWrite {st : Bool} (x0 x1 x2 b) (h : ∀ i (c : Block), Block.Kept st c (x2 i c)) : Block.Kept st b (Block.queueWrite x0 x1 x2 b) := by
  unfold Block.queueWrite
  split
  · exact (h ..)
  · exact kept_emit ..

theorem kept_mstQErr {st : Bool} (x0 x1 x2 x3 x4 b) : Block.Kept st b (Block.mstQErr x0 x1 x2 x3 x4 b) := by
  unfold Block.mstQErr
  exact .after (kept_note ..) (kept_modMq ..)

theorem kept_ring {st : Bool} (x0 x1 x2 x3 b) : Block.Kept st b (Block.ring x0 x1 x2 x3 b) := by
  unfold Block.ring
  extract_lets -merge -underBinder +onlyGivenNames v1
  clear_value v1
  extract_lets -merge -underBinder +onlyGivenNames v2
  clear_value v2
  exact .ite (fun _ => kept_mstQErr ..) fun _ => kept_modMq ..

theorem kept_mstCtl {st : Bool} (x0 x1 x2 x3 b) : Block.Kept st b (Block.mstCtl x0 x1 x2 x3 b) := by
  unfold Block.mstCtl
  exact .ite (fun _ => kept_modMq ..) fun _ => .refl _

theorem kept_trackMode {st : Bool} (x0 b) : Block.Kept st b (Block.trackMode x0 b) := by
  unfold Block.trackMode
  exact .ite (fun _ => .refl _) fun _ => .ite (fun _ => kept_note ..) fun _ => .after (kept_showRebuild ..) (.after (kept_modCoh ..) (.forN fun i1 c1 => (kept_put ..)))

theorem kept_routeWrite {st : Bool} (x0 x1 x2 x3 x4 b) : Block.Kept st b (Block.routeWrite x0 x1 x2 x3 x4 b) := by
  unfold Block.routeWrite
  exact .ite (fun _ => kept_emit ..) fun _ => kept_setR ..

theorem kept_swapReq {st : Bool} (x0 b) : Block.Kept st b (Block.swapReq x0 b) := by
  unfold Block.swapReq
  exact .ite (fun _ => kept_emit ..) fun _ => kept_put ..

theorem kept_retrain {st : Bool} (x0 x1 x2 b) : Block.Kept st b (Block.retrain x0 x1 x2 b) := by
  unfold Block.retrain
  exact .ite (fun _ => kept_emit ..) fun _ => .ite (fun _ => .refl _) fun _ => .after (kept_modLend ..) (.after (kept_modLend ..) (kept_inc ..))

theorem kept_manage {st : Bool} (x0 x1 x2 x3 b) (h : ∀ (c : Block), Block.Kept st c (x3 c).2) : Block.Kept st b (Block.manage x0 x1 x2 x3 b) := by
  unfold Block.manage
  refine .ite (fun _ => ?_) fun _ => ?_
  · exact .after (kept_note ..) (kept_emit ..)
  · split
    rename_i y1 e1
    have h1 : Block.Kept st b y1 := .of_pair e1 (.iteP (fun _ => .refl _) fun _ => (h ..))
    clear e1
    exact .after (kept_put ..) (.after (kept_put ..) (.after (kept_put ..) (h1.trans (kept_put ..))))

theorem kept_flowRead (x0 b) : Block.Kept true b (Block.flowRead x0 b).2 := by
  unfold Block.flowRead
  refine .iteP (fun _ => ?_) fun _ => ?_
  · exact .refl _
  · split
    rename_i y1 e1
    have h1 : Block.Kept true b y1 := .of_pair e1 (kept_readBytes ..)
    clear e1
    exact .iteP (fun _ => h1) fun _ => h1

theorem kept_flowInsert (x0 b) : Block.Kept true b (Block.flowInsert x0 b).2 := by
  unfold Block.flowInsert
  extract_lets -merge -underBinder +onlyGivenNames v1
  clear_value v1
  extract_lets -merge -underBinder +onlyGivenNames v2
  clear_value v2
  extract_lets -merge -underBinder +onlyGivenNames v3
  clear_value v3
  refine .iteP (fun _ => ?_) fun _ => ?_
  · exact .refl _
  · refine .iteP (fun _ => ?_) fun _ => ?_
    · exact .refl _
    · refine .iteP (fun _ => ?_) fun _ => ?_
      · exact .refl _
      · split
        · rename_i y4 e4
          have h4 : Block.Kept true b y4 := .of_pair e4 (kept_flowRead ..)
          clear e4
          exact .snd (h4.trans (kept_note ..))
        · rename_i y5 e5
          have h5 : Block.Kept true b y5 := .of_pair e5 (kept_flowRead ..)
          clear e5
          split
          · rename_i y6 e6
            have h6 : Block.Kept true b y6 := .of_pair e6 (h5.trans (kept_flowRead ..))
            clear e6
            exact .snd (h6.trans (kept_note ..))
          · rename_i y7 e7
            have h7 : Block.Kept true b y7 := .of_pair e7 (h5.trans (kept_flowRead ..))
            clear e7
            extract_lets -merge -underBinder +onlyGivenNames v8
            clear_value v8
            extract_lets -merge -underBinder +onlyGivenNames v9
            clear_value v9
            extract_lets -merge -underBinder +onlyGivenNames v10
            clear_value v10
            extract_lets -merge -underBinder +onlyGivenNames v11
            clear_value v11
            refine .iteP (fun _ => ?_) fun _ => ?_
            · exact h7
            · split
              · exact h7
              · exact .snd (.after (kept_writeBytes ..) (.after (kept_writeBytes ..) (h7.trans (kept_dropFlow ..))))

theorem kept_flowNow (x0 b) : Block.Kept true b (Block.flowNow x0 b).2 := by
  unfold Block.flowNow
  split
  · exact .refl _
  · split
    · rename_i y1 e1
      have h1 : Block.Kept true b y1 := .of_pair e1 (kept_flowRead ..)
      clear e1
      exact h1
    · rename_i y2 e2
      have h2 : Block.Kept true b y2 := .of_pair e2 (kept_flowRead ..)
      clear e2
      exact .snd (h2.trans (kept_note ..))

theorem kept_flowDelete (x0 b) : Block.Kept true b (Block.flowDelete x0 b).2 := by
  unfold Block.flowDelete
  split
  · rename_i y1 e1
    have h1 : Block.Kept true b y1 := .of_pair e1 (kept_flowNow ..)
    clear e1
    exact h1
  · rename_i y2 e2
    have h2 : Block.Kept true b y2 := .of_pair e2 (kept_flowNow ..)
    clear e2
    refine .iteP (fun _ => ?_) fun _ => ?_
    · exact h2
    · refine .iteP (fun _ => ?_) fun _ => ?_
      · exact h2
      · extract_lets -merge -underBinder +onlyGivenNames v3
        clear_value v3
        extract_lets -merge -underBinder +onlyGivenNames v4
        have h4 : Block.Kept true b v4 := by
          unfold v4
          refine .after (.forL fun i5 c5 => ?_) h2
          split
          · rename_i y6 e6
            have h6 : Block.Kept true c5 y6 := .of_pair e6 (kept_flowRead ..)
            clear e6
            exact h6
          · rename_i y7 e7
            have h7 : Block.Kept true c5 y7 := .of_pair e7 (kept_flowRead ..)
            clear e7
            split
            · exact h7.trans (kept_writeBytes ..)
            · exact h7
        clear_value v4
        exact .snd (.after (kept_writeBytes ..) (h4.trans (kept_dropFlow ..)))

theorem kept_flowModify (x0 b) : Block.Kept true b (Block.flowModify x0 b).2 := by
  unfold Block.flowModify
  split
  · rename_i y1 e1
    have h1 : Block.Kept true b y1 := .of_pair e1 (kept_flowNow ..)
    clear e1
    exact h1
  · rename_i y2 e2
    have h2 : Block.Kept true b y2 := .of_pair e2 (kept_flowNow ..)
    clear e2
    extract_lets -merge -underBinder +onlyGivenNames v3
    clear_value v3
    refine .iteP (fun _ => ?_) fun _ => ?_
    · exact h2
    · refine .iteP (fun _ => ?_) fun _ => ?_
      · exact h2
      · refine .iteP (fun _ => ?_) fun _ => ?_
        · exact h2
        · split
          · exact .snd (h2.trans (kept_modFlow ..))
          · exact .snd (h2.trans (kept_writeBytes ..))

theorem kept_setMdata {st : Bool} (x0 b) : Block.Kept st b (Block.setMdata x0 b) := by
  unfold Block.setMdata
  exact (.forN fun i1 c1 => (kept_setR ..))

theorem kept_flowReadCmd (x0 b) : Block.Kept true b (Block.flowReadCmd x0 b).2 := by
  unfold Block.flowReadCmd
  split
  · rename_i y1 e1
    have h1 : Block.Kept true b y1 := .of_pair e1 (kept_flowNow ..)
    clear e1
    exact h1
  · rename_i y2 e2
    have h2 : Block.Kept true b y2 := .of_pair e2 (kept_flowNow ..)
    clear e2
    exact .iteP (fun _ => h2) fun _ => .snd (h2.trans (kept_setMdata ..))

theorem kept_walkFlow (x0 b) : Block.Kept true b (Block.walkFlow x0 b).2 := by
  unfold Block.walkFlow
  extract_lets -merge -underBinder +onlyGivenNames v1
  clear_value v1
  split
  · rename_i y2 e2
    have h2 : Block.Kept true b y2 := .of_pair e2 (kept_flowRead ..)
    clear e2
    exact h2
  · rename_i y3 e3
    have h3 : Block.Kept true b y3 := .of_pair e3 (kept_flowRead ..)
    clear e3
    split
    · rename_i y4 e4
      have h4 : Block.Kept true b y4 := .of_pair e4 (h3.trans (kept_flowRead ..))
      clear e4
      exact h4
    · rename_i y5 e5
      have h5 : Block.Kept true b y5 := .of_pair e5 (h3.trans (kept_flowRead ..))
      clear e5
      split
      · exact h5
      · extract_lets -merge -underBinder +onlyGivenNames v6
        clear_value v6
        split
        · exact h5
        · split
          · rename_i y7 e7
            have h7 : Block.Kept true b y7 := .of_pair e7 (h5.trans (kept_flowRead ..))
            clear e7
            exact h7
          · rename_i y8 e8
            have h8 : Block.Kept true b y8 := .of_pair e8 (h5.trans (kept_flowRead ..))
            clear e8
            exact h8

theorem kept_flowLookup (b) : Block.Kept true b (Block.flowLookup b).2 := by
  unfold Block.flowLookup
  extract_lets -merge -underBinder +onlyGivenNames v1
  clear_value v1
  extract_lets -merge -underBinder +onlyGivenNames v2
  subst v2
  split
  · exact .snd (.after (kept_setMdata ..) (kept_setR ..))
  · split
    · rename_i y3 e3
      have h3 : Block.Kept true b y3 := .of_pair e3 (kept_walkFlow ..)
      clear e3
      exact .snd (.after (kept_setMdata ..) (h3.trans (kept_setR ..)))
    · rename_i y4 e4
      have h4 : Block.Kept true b y4 := .of_pair e4 (kept_walkFlow ..)
      clear e4
      exact .snd (h4.trans (kept_setR ..))
    · rename_i y5 e5
      have h5 : Block.Kept true b y5 := .of_pair e5 (kept_walkFlow ..)
      clear e5
      exact .snd (.after (kept_note ..) (h5.trans (kept_setR ..)))

theorem kept_instConfig {st : Bool} (x0 b) : Block.Kept st b (Block.instConfig x0 b).2 := by
  unfold Block.instConfig
  extract_lets -merge -underBinder +onlyGivenNames v1
  clear_value v1
  refine .iteP (fun _ => ?_) fun _ => ?_
  · exact .refl _
  · refine .iteP (fun _ => ?_) fun _ => ?_
    · exact .refl _
    · split
      · exact .snd (kept_put ..)
      · exact .refl _
      · exact .snd (kept_put ..)
      · exact .refl _

theorem kept_qctxWrite (x0 b) : Block.Kept true b (Block.qctxWrite x0 b).2 := by
  unfold Block.qctxWrite
  extract_lets -merge -underBinder +onlyGivenNames v1
  clear_value v1
  extract_lets -merge -underBinder +onlyGivenNames v2
  clear_value v2
  extract_lets -merge -underBinder +onlyGivenNames v3
  clear_value v3
  refine .iteP (fun _ => ?_) fun _ => ?_
  · exact .refl _
  · refine .iteP (fun _ => ?_) fun _ => ?_
    · exact .refl _
    · refine .iteP (fun _ => ?_) fun _ => ?_
      · exact .refl _
      · extract_lets -merge -underBinder +onlyGivenNames v4
        have h4 : Block.Kept true b v4 := kept_modInst ..
        clear_value v4
        split
        · exact .snd (h4.trans (kept_putCtx ..))
        · exact .snd (.after (kept_modSlc ..) (.after (kept_modHop ..) (h4.trans (kept_hopWriteBack ..))))
        · exact .snd (h4.trans (kept_putCtx ..))

theorem kept_qctxRead (x0 b) : Block.Kept true b (Block.qctxRead x0 b).2 := by
  unfold Block.qctxRead
  refine .iteP (fun _ => ?_) fun _ => ?_
  · exact .refl _
  · split
    · rename_i y1 e1
      have h1 : Block.Kept true b y1 := .of_pair e1 (kept_getCtx ..)
      clear e1
      exact .snd (h1.trans (kept_setMdata ..))
    · rename_i y2 e2
      have h2 : Block.Kept true b y2 := .of_pair e2 (kept_getCtx ..)
      clear e2
      exact h2

theorem kept_instShare {st : Bool} (x0 b) : Block.Kept st b (Block.instShare x0 b).2 := by
  unfold Block.instShare
  extract_lets -merge -underBinder +onlyGivenNames v1
  clear_value v1
  exact .iteP (fun _ => .refl _) fun _ => .iteP (fun _ => .refl _) fun _ => .iteP (fun _ => .refl _) fun _ => .snd (.after (kept_put ..) (kept_modInst ..))

theorem kept_queueMsi {st : Bool} (x0 x1 x2 x3 b) : Block.Kept st b (Block.queueMsi x0 x1 x2 x3 b) := by
  unfold Block.queueMsi
  extract_lets -merge -underBinder +onlyGivenNames v1
  have h1 : Block.Kept st b v1 := kept_modInst ..
  clear_value v1
  exact .ite (fun _ => h1.trans (kept_sendVec ..)) fun _ => h1.trans (kept_sendMsi ..)

theorem kept_doneMsi {st : Bool} (x0 x1 x2 b) : Block.Kept st b (Block.doneMsi x0 x1 x2 b) := by
  unfold Block.doneMsi
  exact .ite (fun _ => .refl _) fun _ => .ite (fun _ => kept_queueMsi ..) fun _ => kept_modInst ..

theorem kept_descDone (x0 x1 b) : Block.Kept true b (Block.descDone x0 x1 b) := by
  unfold Block.descDone
  extract_lets -merge -underBinder +onlyGivenNames v1
  have h1 : Block.Kept true b v1.2 := by
    unfold v1
    refine .after (.foldl_snd _ _ ?_ _) (.refl _)
    rintro ⟨a2, c2⟩ i2
    exact .iteP (fun _ => .refl _) fun _ => kept_instWrite ..
  clear_value v1
  refine .ite (fun _ => ?_) fun _ => ?_
  · exact h1.trans (kept_stopQueue ..)
  · split
    · rename_i y3 e3
      have h3 : Block.Kept true b y3 := .of_pair e3 (h1.trans (kept_getCtx ..))
      clear e3
      exact h3
    · rename_i y4 e4
      have h4 : Block.Kept true b y4 := .of_pair e4 (h1.trans (kept_getCtx ..))
      clear e4
      extract_lets -merge -underBinder +onlyGivenNames v5
      clear_value v5
      exact .after (kept_doneMsi ..) (h4.trans (kept_putCtx ..))

theorem kept_squashInst (x0 b) : Block.Kept true b (Block.squashInst x0 b) := by
  unfold Block.squashInst
  extract_lets -merge -underBinder +onlyGivenNames v1
  clear_value v1
  extract_lets -merge -underBinder +onlyGivenNames v2
  have h2 : Block.Kept true b v2 := .after (kept_showOcc ..) (kept_modSlc ..)
  clear_value v2
  exact h2.trans (.forL fun i3 c3 => (kept_descDone ..))

theorem kept_resetInst (x0 x1 b) : Block.Kept true b (Block.resetInst x0 x1 b) := by
  unfold Block.resetInst
  refine .ite (fun _ => ?_) fun _ => ?_
  · exact .refl _
  · extract_lets -merge -underBinder +onlyGivenNames v1
    have h1 : Block.Kept true b v1 := kept_put ..
    clear_value v1
    exact .ite (fun _ => h1.trans (kept_squashInst ..)) fun _ => h1

theorem kept_instReset (x0 x1 b) : Block.Kept true b (Block.instReset x0 x1 b).2 := by
  unfold Block.instReset
  exact .iteP (fun _ => .refl _) fun _ => .iteP (fun _ => .snd (kept_resetInst ..)) fun _ => .refl _

theorem kept_logConfig {st : Bool} (x0 b) : Block.Kept st b (Block.logConfig x0 b).2 := by
  unfold Block.logConfig
  exact .iteP (fun _ => .refl _) fun _ => .iteP (fun _ => .refl _) fun _ => .iteP (fun _ => .refl _) fun _ => .snd (.after (kept_put ..) (kept_modInst ..))

theorem kept_logSwap {st : Bool} (x0 b) : Block.Kept st b (Block.logSwap x0 b).2 := by
  unfold Block.logSwap
  exact .iteP (fun _ => .refl _) fun _ => .iteP (fun _ => .refl _) fun _ => .snd (kept_put ..)

theorem kept_logStop {st : Bool} (x0 b) : Block.Kept st b (Block.logStop x0 b).2 := by
  unfold Block.logStop
  exact .iteP (fun _ => .refl _) fun _ => .snd (.after (kept_put ..) (kept_put ..))

theorem kept_clrErr {st : Bool} (x0 b) : Block.Kept st b (Block.clrErr x0 b).2 := by
  unfold Block.clrErr
  exact .iteP (fun _ => .refl _) fun _ => .snd (.after (kept_modInst ..) (.after (kept_put ..) (.after (kept_put ..) (kept_put ..))))

theorem kept_managerWord (x0 x1 x2 b) : Block.Kept true b (Block.managerWord x0 x1 x2 b) := by
  unfold Block.managerWord
  extract_lets -merge -underBinder +onlyGivenNames v1
  clear_value v1
  refine kept_manage (h := fun c2 => ?_) ..
  split
  · exact kept_flowInsert ..
  · exact kept_flowDelete ..
  · exact kept_flowModify ..
  · exact kept_flowReadCmd ..
  · exact .iteP (fun _ => .refl _) fun _ => kept_flowLookup ..
  · exact kept_instConfig ..
  · exact kept_qctxWrite ..
  · exact kept_qctxRead ..
  · exact kept_instShare ..
  · exact kept_instReset ..
  · exact kept_instReset ..
  · exact kept_logConfig ..
  · exact kept_logSwap ..
  · exact kept_logStop ..
  · exact kept_clrErr ..
  · exact .refl _

theorem kept_denied {st : Bool} (x0 x1 b) : Block.Kept st b (Block.denied x0 x1 b) := by
  unfold Block.denied
  exact .after (kept_note ..) (kept_emit ..)

theorem kept_hopDrop {st : Bool} (x0 b) : Block.Kept st b (Block.hopDrop x0 b) := by
  unfold Block.hopDrop
  exact kept_modHop ..

theorem kept_hopStart (x0 x1 b) : Block.Kept true b (Block.hopStart x0 x1 b) := by
  unfold Block.hopStart
  refine .ite (fun _ => ?_) fun _ => ?_
  · exact kept_put ..
  · extract_lets -merge -underBinder +onlyGivenNames v1
    clear_value v1
    extract_lets -merge -underBinder +onlyGivenNames v2
    clear_value v2
    extract_lets -merge -underBinder +onlyGivenNames v3
    clear_value v3
    extract_lets -merge -underBinder +onlyGivenNames v4
    have h4 : Block.Kept true b v4 := .after (kept_put ..) (.after (kept_put ..) (.after (kept_put ..) (kept_setR ..)))
    clear_value v4
    refine .ite (fun _ => ?_) fun _ => ?_
    · exact .after (kept_note ..) (.after (kept_put ..) (h4.trans (kept_put ..)))
    · refine .after (.forN fun i5 c5 => ?_) (.after (kept_put ..) (h4.trans (kept_put ..)))
      split
      · exact .refl _
      · exact .ite (fun _ => .after (.whenA fun c6 => (kept_hopDrop ..)) (kept_hopWriteBack ..)) fun _ => .refl _

theorem kept_showTags {st : Bool} (x0 b) : Block.Kept st b (Block.showTags x0 b) := by
  unfold Block.showTags
  exact kept_put ..

theorem kept_dropTags {st : Bool} (x0 b) : Block.Kept st b (Block.dropTags x0 b) := by
  unfold Block.dropTags
  exact .after (kept_showTags ..) (kept_modPci ..)

theorem kept_fetchAll (x0 b) : Block.Kept true b (Block.fetchAll x0 b) := by
  unfold Block.fetchAll
  exact (.forN fun i1 c1 => (kept_fetchF ..))

theorem kept_sendPba {st : Bool} (b) : Block.Kept st b (Block.sendPba b) := by
  unfold Block.sendPba
  exact (.forL fun i1 c1 => (kept_sendVec ..))

theorem kept_pciTrain {st : Bool} (x0 b) : Block.Kept st b (Block.pciTrain x0 b) := by
  unfold Block.pciTrain
  exact .ite (fun _ => kept_put ..) fun _ => .refl _

theorem kept_releaseNow (x0 x1 b) : Block.Kept true b (Block.releaseNow x0 x1 b) := by
  unfold Block.releaseNow
  refine .ite (fun _ => ?_) fun _ => ?_
  · exact .refl _
  · refine .ite (fun _ => ?_) fun _ => ?_
    · exact kept_put ..
    · extract_lets -merge -underBinder +onlyGivenNames v1
      have h1 : Block.Kept true b v1 := .after (kept_modSub ..) (kept_dropTags ..)
      clear_value v1
      refine .ite (fun _ => ?_) fun _ => ?_
      · extract_lets -merge -underBinder +onlyGivenNames v2
        have h2 : Block.Kept true b v2 := .after (kept_note ..) (h1.trans (kept_put ..))
        clear_value v2
        exact .ite (fun _ => .after (.forN fun i3 c3 => (.whenA fun c4 => (kept_fetchAll ..))) (h2.trans (kept_sendPba ..))) fun _ => h2
      · extract_lets -merge -underBinder +onlyGivenNames v5
        have h5 : Block.Kept true b v5 := .after (kept_note ..) (h1.trans (kept_put ..))
        clear_value v5
        exact h5.trans (.whenA fun c6 => (kept_pciTrain ..))

theorem kept_releaseReq (x0 x1 x2 x3 b) : Block.Kept true b (Block.releaseReq x0 x1 x2 x3 b) := by
  unfold Block.releaseReq
  exact .ite (fun _ => .after (kept_note ..) (kept_emit ..)) fun _ => kept_releaseNow ..

theorem kept_commitStart {st : Bool} (x0 b) : Block.Kept st b (Block.commitStart x0 b) := by
  unfold Block.commitStart
  exact .after (kept_put ..) (.after (kept_put ..) (.after (kept_put ..) (.after (kept_put ..) (kept_put ..))))

theorem kept_windowCommit {st : Bool} (x0 x1 x2 b) : Block.Kept st b (Block.windowCommit x0 x1 x2 b) := by
  unfold Block.windowCommit
  exact .ite (fun _ => kept_denied ..) fun _ => .ite (fun _ => kept_put ..) fun _ => (.whenA fun c1 => (kept_commitStart ..))

theorem kept_windowStage {st : Bool} (x0 x1 x2 x3 x4 b) : Block.Kept st b (Block.windowStage x0 x1 x2 x3 x4 b) := by
  unfold Block.windowStage
  exact .ite (fun _ => kept_denied ..) fun _ => .ite (fun _ => kept_put ..) fun _ => kept_plainWrite ..

theorem kept_notAccepted {st : Bool} (b) : Block.Kept st b (Block.notAccepted b) := by
  unfold Block.notAccepted
  exact kept_note ..

theorem kept_holdRequest {st : Bool} (b) : Block.Kept st b (Block.holdRequest b) := by
  unfold Block.holdRequest
  exact .ite (fun _ => kept_enterSafeHold ..) fun _ => .ite (fun _ => kept_notAccepted ..) fun _ => .refl _

theorem kept_holdKey {st : Bool} (x0 x1 b) : Block.Kept st b (Block.holdKey x0 x1 b) := by
  unfold Block.holdKey
  exact .ite (fun _ => .refl _) fun _ => .ite (fun _ => kept_notAccepted ..) fun _ => kept_holdRequest ..

theorem kept_modDbg {st : Bool} (x0 b) : Block.Kept st b (Block.modDbg x0 b) := by
  unfold Block.modDbg
  exact kept_modTrust ..

end Sys2Proof.Machine
end

