-- ==== Sys2Proof/Laws/KeptOps5.lean ====
section
/-! SUPPORT. One lemma for each shared operation: what it keeps (canonical memory, fuses, the first faults, and DRAM where it stores nothing). -/

namespace Sys2Proof.Machine

theorem kept_dbgEnd {st : Bool} (b) : Block.Kept st b (Block.dbgEnd b) := by
  unfold Block.dbgEnd
  exact .ite (fun _ => .refl _) fun _ => .after (kept_put ..) (.after (kept_modDbg ..) (kept_mapHarts ..))

theorem kept_extend {st : Bool} (x0 x1 b) : Block.Kept st b (Block.extend x0 x1 b) := by
  unfold Block.extend
  extract_lets -merge -underBinder +onlyGivenNames v1
  clear_value v1
  exact (.forN fun i2 c2 => (kept_setR ..))

theorem kept_dbgSubmit {st : Bool} (b) : Block.Kept st b (Block.dbgSubmit b) := by
  unfold Block.dbgSubmit
  extract_lets -merge -underBinder +onlyGivenNames v1
  clear_value v1
  refine .ite (fun _ => ?_) fun _ => ?_
  · exact .refl _
  · extract_lets -merge -underBinder +onlyGivenNames v2
    clear_value v2
    extract_lets -merge -underBinder +onlyGivenNames v3
    clear_value v3
    extract_lets -merge -underBinder +onlyGivenNames v4
    clear_value v4
    extract_lets -merge -underBinder +onlyGivenNames v5
    have h5 : Block.Kept st b v5 := kept_modDbg ..
    clear_value v5
    exact .ite (fun _ => .after (kept_authFail ..) (h5.trans (kept_put ..))) fun _ => .after (kept_note ..) (.after (kept_extend ..) (.after (kept_modDbg ..) (.after (kept_put ..) (h5.trans (kept_authOk ..)))))

theorem kept_random32 {st : Bool} (b) : Block.Kept st b (Block.random32 b).2 := by
  unfold Block.random32
  exact .snd (kept_tickFree ..)

theorem kept_dbgStart {st : Bool} (b) : Block.Kept st b (Block.dbgStart b) := by
  unfold Block.dbgStart
  refine .ite (fun _ => ?_) fun _ => ?_
  · exact .refl _
  · split
    rename_i y1 e1
    have h1 : Block.Kept st b y1 := .of_pair e1 (kept_random32 ..)
    clear e1
    exact .after (.forN fun i2 c2 => (kept_setR ..)) (h1.trans (kept_modDbg ..))

theorem kept_dbgCtl {st : Bool} (x0 b) : Block.Kept st b (Block.dbgCtl x0 b) := by
  unfold Block.dbgCtl
  exact .after (.whenA fun c3 => (kept_dbgEnd ..)) (.after (.whenA fun c2 => (kept_dbgSubmit ..)) (.whenA fun c1 => (kept_dbgStart ..)))

theorem kept_dbgResp {st : Bool} (x0 b) : Block.Kept st b (Block.dbgResp x0 b) := by
  unfold Block.dbgResp
  exact kept_modDbg ..

theorem kept_regWrite (x0 x1 x2 x3 x4 x5 x6 b) : Block.Kept true b (Block.regWrite x0 x1 x2 x3 x4 x5 x6 b) := by
  unfold Block.regWrite
  refine .ite (fun _ => ?_) fun _ => ?_
  · exact kept_emit ..
  · split
    · exact .after (kept_evtChanged ..) (kept_plainWrite ..)
    · exact .after (.whenA fun c1 => (kept_evtRearm ..)) (kept_plainWrite ..)
    · exact kept_maskWrite ..
    · exact kept_maskWrite ..
    · exact kept_maskWrite ..
    · exact .ite (fun _ => kept_mntStart ..) fun _ => .ite (fun _ => kept_put ..) fun _ => kept_plainWrite ..
    · exact .ite (fun _ => kept_put ..) fun _ => kept_plainWrite ..
    · exact .ite (fun _ => kept_put ..) fun _ => kept_plainWrite ..
    · exact .after (kept_modHart ..) (kept_plainWrite ..)
    · exact (kept_queueWrite (h := fun i2 c2 => (kept_ring ..)) ..)
    · exact (kept_queueWrite (h := fun i3 c3 => .refl _) ..)
    · exact (kept_queueWrite (h := fun i4 c4 => .ite (fun _ => kept_modMq ..) fun _ => .refl _) ..)
    · exact (kept_queueWrite (h := fun i5 c5 => .ite (fun _ => kept_mstCtl ..) fun _ => .refl _) ..)
    · exact kept_trackMode ..
    · exact kept_routeWrite ..
    · exact .ite (fun _ => kept_swapReq ..) fun _ => .refl _
    · exact .after (.whenA fun c7 => (kept_retrain ..)) (.whenA fun c6 => (kept_retrain ..))
    · exact kept_abandonWrite ..
    · split
      · exact .ite (fun _ => .refl _) fun _ => kept_emit ..
      · exact kept_emit ..
    · exact kept_ringBell ..
    · exact kept_managerWord ..
    · exact .ite (fun _ => kept_plainWrite ..) fun _ => kept_denied ..
    · exact .ite (fun _ => kept_hopStart ..) fun _ => .ite (fun _ => kept_put ..) fun _ => kept_plainWrite ..
    · exact .ite (fun _ => kept_denied ..) fun _ => .after (.whenA fun c8 => (kept_releaseReq ..)) (kept_plainWrite ..)
    · exact .ite (fun _ => kept_plainWrite ..) fun _ => kept_denied ..
    · exact .ite (fun _ => kept_plainWrite ..) fun _ => kept_denied ..
    · exact kept_windowCommit ..
    · exact kept_windowStage ..
    · exact kept_windowStage ..
    · exact .ite (fun _ => kept_sendVec ..) fun _ => .refl _
    · exact kept_holdKey ..
    · exact .ite (fun _ => kept_plainWrite ..) fun _ => .refl _
    · exact .ite (fun _ => .refl _) fun _ => kept_dbgCtl ..
    · exact kept_dbgResp ..
    · exact kept_plainWrite ..

theorem kept_controlWrite (x0 x1 x2 x3 x4 b) : Block.Kept true b (Block.controlWrite x0 x1 x2 x3 x4 b).2 := by
  unfold Block.controlWrite
  refine .iteP (fun _ => ?_) fun _ => ?_
  · split
    · rename_i y1 e1
      have h1 : Block.Kept true b y1 := .of_pair e1 (kept_mbxWrite ..)
      clear e1
      exact h1
    · rename_i y2 e2
      have h2 : Block.Kept true b y2 := .of_pair e2 (kept_mbxWrite ..)
      clear e2
      exact h2
  · split
    · exact .iteP (fun _ => .snd (.ite (fun _ => kept_filePend ..) fun _ => .refl _)) fun _ => .refl _
    · refine .iteP (fun _ => ?_) fun _ => ?_
      · exact .iteP (fun _ => .snd (kept_iotWrite ..)) fun _ => .refl _
      · split
        · exact .iteP (fun _ => .after (kept_writeAns ..) (kept_regWrite ..)) fun _ => .refl _
        · exact .refl _

theorem kept_putDwords {st : Bool} (x0 x1 x2 b) (h : ∀ i j (c : Block), Block.Kept st c (x0 i j c)) : Block.Kept st b (Block.putDwords x0 x1 x2 b) := by
  unfold Block.putDwords
  exact (.forN fun i1 c1 => (h ..))

theorem kept_sendPending {st : Bool} (x0 x1 b) : Block.Kept st b (Block.sendPending x0 x1 b) := by
  unfold Block.sendPending
  exact .ite (fun _ => kept_sendVec ..) fun _ => .refl _

theorem kept_msixPut {st : Bool} (x0 x1 x2 b) : Block.Kept st b (Block.msixPut x0 x1 x2 b) := by
  unfold Block.msixPut
  exact .after (kept_sendPending ..) (kept_modPci ..)

theorem kept_dwClear {st : Bool} (x0 b) : Block.Kept st b (Block.dwClear x0 b) := by
  unfold Block.dwClear
  exact kept_modPci ..

theorem kept_setSeg {st : Bool} (x0 x1 b) : Block.Kept st b (Block.setSeg x0 x1 b) := by
  unfold Block.setSeg
  extract_lets -merge -underBinder +onlyGivenNames v1
  clear_value v1
  exact (.of_eq rfl rfl rfl rfl rfl)

theorem kept_uploadStart {st : Bool} (x0 b) : Block.Kept st b (Block.uploadStart x0 b).2 := by
  unfold Block.uploadStart
  extract_lets -merge -underBinder +onlyGivenNames v1
  clear_value v1
  refine .iteP (fun _ => ?_) fun _ => ?_
  · exact .snd (kept_note ..)
  · extract_lets -merge -underBinder +onlyGivenNames v2
    clear_value v2
    exact .snd (.after (kept_modTrust ..) (.after (kept_putRecord ..) (kept_modBank ..)))

theorem kept_uploadData {st : Bool} (x0 x1 x2 b) : Block.Kept st b (Block.uploadData x0 x1 x2 b).2 := by
  unfold Block.uploadData
  split
  · exact .iteP (fun _ => .refl _) fun _ => .iteP (fun _ => .refl _) fun _ => .snd (kept_modTrust ..)
  · exact .refl _

theorem kept_keepPins {st : Bool} (x0 b) : Block.Kept st b (Block.keepPins x0 b) := by
  unfold Block.keepPins
  exact (.of_eq rfl rfl rfl rfl rfl)

theorem kept_bootUp {st : Bool} (b) : Block.Kept st b (Block.bootUp b) := by
  unfold Block.bootUp
  exact (.forN fun i1 c1 => (.whenA fun c2 => (kept_emit ..)))

theorem kept_bootFrom {st : Bool} (x0 x1 b) : Block.Kept st b (Block.bootFrom x0 x1 b) := by
  unfold Block.bootFrom
  exact kept_modTrust ..

theorem kept_tryGood {st : Bool} (b x1) : Block.Kept st b (Block.tryGood b x1) := by
  induction x1 generalizing b with
  | nil =>
    unfold Block.tryGood
    exact .after (kept_bootUp ..) (.after (kept_raise ..) (kept_modTrust ..))
  | cons v vs ih =>
    unfold Block.tryGood
    exact .ite (fun _ => (ih ..)) fun _ => .ite (fun _ => kept_bootFrom ..) fun _ => .after (ih ..) (kept_badBank ..)

theorem kept_bootGood {st : Bool} (b) : Block.Kept st b (Block.bootGood b) := by
  unfold Block.bootGood
  exact kept_tryGood ..

theorem kept_chooseBank {st : Bool} (b) : Block.Kept st b (Block.chooseBank b) := by
  unfold Block.chooseBank
  extract_lets -merge -underBinder +onlyGivenNames v1
  clear_value v1
  split
  · exact kept_bootGood ..
  · extract_lets -merge -underBinder +onlyGivenNames v2
    clear_value v2
    exact .ite (fun _ => .after (kept_bootGood ..) (kept_badBank ..)) fun _ => .ite (fun _ => .after (kept_bootFrom ..) (kept_putRecord ..)) fun _ => .after (kept_bootGood ..) (kept_badBank ..)

theorem kept_startUp {st : Bool} (b) : Block.Kept st b (Block.startUp b) := by
  unfold Block.startUp
  exact .after (kept_chooseBank ..) (.whenA fun c1 => (kept_raise ..))

/-- What a power-on reset starts from: what is kept, and reset values. -/
def Block.blank (old : Block) : Block :=
  { free := old.free, out := old.out, otp := old.otp, dict := { slots := old.dict.slots, training := old.dict.training }
    trust := { banks := old.trust.banks, cert := old.trust.cert, keys := old.trust.keys }
    lvp := { lmk := old.lvp.lmk
             ports := old.lvp.ports.filterMap fun e => if e.2.macs.isEmpty then none else some (e.1, { macs := e.2.macs }) } }

theorem kept_fresh (b : Block) : Block.Kept true b.blank b.fresh := by
  unfold Block.fresh
  extract_lets -merge -underBinder +onlyGivenNames v0
  have e : v0 = b.blank := rfl
  clear_value v0
  subst e
  exact .after (.forN fun i1 c1 => (.whenA fun c2 => .after (kept_put ..) (kept_put ..))) (.after (kept_put ..) (.after (kept_put ..) (kept_keepPins ..)))

theorem kept_warmReset (b) : Block.Kept true b (Block.warmReset b) := by
  have h := kept_fresh b
  unfold Block.warmReset
  revert h
  generalize Block.fresh b = f
  intro h
  dsimp only
  exact .after (kept_startUp ..) (.after (kept_note ..) (.after (.forN fun i3 c3 => .after (.forN fun i4 c4 => .after (kept_put ..) (kept_put ..)) (kept_put ..)) (.after (.forN fun i2 c2 => .after (kept_put ..) (kept_put ..)) (.after (.forN fun i1 c1 => (kept_setR ..)) (.after (kept_put ..) (.after (kept_put ..) (.after (kept_put ..) (.after (kept_put ..) (.after (kept_setR ..) (.after (kept_setR ..) (.after (kept_setR ..) (.after (kept_setR ..) (⟨id, fun _ => rfl, fun _ => h.scr rfl, h.otp, List.prefix_refl _, id, id⟩)))))))))))))

theorem kept_uploadEnd (b) : Block.Kept true b (Block.uploadEnd b).2 := by
  unfold Block.uploadEnd
  split
  · exact .refl _
  · extract_lets -merge -underBinder +onlyGivenNames v1
    clear_value v1
    extract_lets -merge -underBinder +onlyGivenNames v2
    have h2 : Block.Kept true b v2 := .after (kept_modBank ..) (kept_modTrust ..)
    clear_value v2
    extract_lets -merge -underBinder +onlyGivenNames v3
    clear_value v3
    extract_lets -merge -underBinder +onlyGivenNames v4
    have h4 : Block.Kept true b v4 := h2.trans (kept_putRecord ..)
    clear_value v4
    refine .iteP (fun _ => ?_) fun _ => ?_
    · exact .snd (h4.trans (kept_note ..))
    · extract_lets -merge -underBinder +onlyGivenNames v5
      have h5 : Block.Kept true b v5 := h4.trans (kept_note ..)
      clear_value v5
      exact .snd (.ite (fun _ => h5.trans (kept_warmReset ..)) fun _ => h5)

theorem kept_uploadSeg (x0 x1 x2 x3 b) : Block.Kept true b (Block.uploadSeg x0 x1 x2 x3 b).2 := by
  unfold Block.uploadSeg
  split
  rename_i y1 e1
  have h1 : Block.Kept true b y1 := .of_pair e1 (.iteP (fun _ => kept_uploadStart ..) fun _ => .refl _)
  clear e1
  refine .iteP (fun _ => ?_) fun _ => ?_
  · exact h1
  · split
    rename_i y2 e2
    have h2 : Block.Kept true b y2 := .of_pair e2 (h1.trans (kept_uploadData ..))
    clear e2
    exact .iteP (fun _ => h2.trans (kept_uploadEnd ..)) fun _ => h2

theorem kept_claimStaged {st : Bool} (x0 b) : Block.Kept st b (Block.claimStaged x0 b) := by
  unfold Block.claimStaged
  exact (.of_eq rfl rfl rfl rfl rfl)

theorem kept_uploadImage {st : Bool} (x0 b) : Block.Kept st b (Block.uploadImage x0 b) := by
  unfold Block.uploadImage
  exact (.of_eq rfl rfl rfl rfl rfl)

theorem kept_uploadPart {st : Bool} (x0 x1 x2 b) : Block.Kept st b (Block.uploadPart x0 x1 x2 b).2 := by
  unfold Block.uploadPart
  refine .iteP (fun _ => ?_) fun _ => ?_
  · exact .snd (kept_setSeg ..)
  · extract_lets -merge -underBinder +onlyGivenNames s1 v1
    have h1 : Block.Kept st b v1 := .after (kept_claimStaged ..) (.of_eq rfl rfl rfl rfl rfl)
    clear_value v1
    exact .iteP (fun _ => .snd (h1.trans (kept_setSeg ..))) fun _ => .iteP (fun _ => .snd (.after (kept_uploadImage ..) (h1.trans (kept_setSeg ..)))) fun _ => .snd (h1.trans (kept_setSeg ..))

theorem kept_refused {st : Bool} (b) : Block.Kept st b (Block.refused b).2 := by
  unfold Block.refused
  exact .snd (kept_notAccepted ..)

theorem kept_startReq {st : Bool} (b) : Block.Kept st b (Block.startReq b).2 := by
  unfold Block.startReq
  exact .iteP (fun _ => .snd (.of_eq rfl rfl rfl rfl rfl)) fun _ => kept_refused ..

theorem kept_serviceReq {st : Bool} (x0 x1 b) : Block.Kept st b (Block.serviceReq x0 x1 b).2 := by
  unfold Block.serviceReq
  extract_lets -merge -underBinder +onlyGivenNames v1
  clear_value v1
  exact .iteP (fun _ => kept_refused ..) fun _ => .snd (.after (kept_cancelCommit ..) (.after (kept_haltParts ..) (.after (kept_setDev ..) (.of_eq rfl rfl rfl rfl rfl))))

theorem kept_dropVl0 {st : Bool} (x0 x1 b) : Block.Kept st b (Block.dropVl0 x0 x1 b) := by
  unfold Block.dropVl0
  exact .ite (fun _ => .refl _) fun _ => .after (kept_noteOnce ..) (.after (kept_put ..) (.after (.whenA fun c1 => (kept_cnt ..)) (kept_cnt ..)))

theorem kept_leaveUp {st : Bool} (x0 b) : Block.Kept st b (Block.leaveUp x0 b) := by
  unfold Block.leaveUp
  extract_lets -merge -underBinder +onlyGivenNames v1
  clear_value v1
  exact .after (kept_modPort ..) (kept_dropVl0 ..)

theorem kept_toTrain {st : Bool} (x0 b) : Block.Kept st b (Block.toTrain x0 b) := by
  unfold Block.toTrain
  exact .after (kept_modPort ..) (.after (kept_put ..) (.after (kept_put ..) (.after (kept_put ..) (.after (kept_put ..) (kept_leaveUp ..)))))

theorem kept_toOff {st : Bool} (x0 b) : Block.Kept st b (Block.toOff x0 b) := by
  unfold Block.toOff
  exact .ite (fun _ => .refl _) fun _ => .after (kept_put ..) (kept_toTrain ..)

theorem kept_errTags {st : Bool} (x0 b) : Block.Kept st b (Block.errTags x0 b) := by
  unfold Block.errTags
  extract_lets -merge -underBinder +onlyGivenNames v1
  clear_value v1
  extract_lets -merge -underBinder +onlyGivenNames v2
  have h2 : Block.Kept st b v2 := kept_modPci ..
  clear_value v2
  exact h2.trans (.forL fun i3 c3 => (kept_emit ..))

theorem kept_shutRails {st : Bool} (b) : Block.Kept st b (Block.shutRails b) := by
  unfold Block.shutRails
  extract_lets -merge -underBinder +onlyGivenNames v1
  have h1 : Block.Kept st b v1 := .after (kept_mapHarts ..) (kept_haltParts ..)
  clear_value v1
  extract_lets -merge -underBinder +onlyGivenNames v2
  have h2 : Block.Kept st b v2 := h1.trans (.forN fun i3 c3 => (.forN fun i4 c4 => (.whenA fun c5 => (kept_mstSquash ..))))
  clear_value v2
  extract_lets -merge -underBinder +onlyGivenNames v6
  have h6 : Block.Kept st b v6 := .after (.forN fun i8 c8 => (kept_toOff ..)) (h2.trans (.forN fun i7 c7 => (kept_errTags ..)))
  clear_value v6
  extract_lets -merge -underBinder +onlyGivenNames v9
  have h9 : Block.Kept st b v9 := h6.trans (.forN fun i10 c10 => (.whenA fun c11 => (kept_vrOff ..)))
  clear_value v9
  exact h9.trans (.of_eq rfl rfl rfl rfl rfl)

theorem kept_shutdown {st : Bool} (x0 b) : Block.Kept st b (Block.shutdown x0 b) := by
  unfold Block.shutdown
  extract_lets -merge -underBinder +onlyGivenNames s1 s1b v1
  have h1 : Block.Kept st b v1 := (.of_eq rfl rfl rfl rfl rfl)
  clear_value v1
  extract_lets -merge -underBinder +onlyGivenNames v2
  have h2 : Block.Kept st b v2 := .after (kept_cancelCommit ..) (h1.trans (kept_setDev ..))
  clear_value v2
  exact .ite (fun _ => h2) fun _ => h2.trans (kept_shutRails ..)

theorem kept_shutdownReq {st : Bool} (b) : Block.Kept st b (Block.shutdownReq b).2 := by
  unfold Block.shutdownReq
  exact .iteP (fun _ => .refl _) fun _ => .snd (kept_shutdown ..)

theorem kept_toFilter {st : Bool} (b) : Block.Kept st b (Block.toFilter b) := by
  unfold Block.toFilter
  exact .ite (fun _ => .refl _) fun _ => kept_trackMode ..

theorem kept_partRegs {st : Bool} (b) : Block.Kept st b (Block.partRegs b) := by
  unfold Block.partRegs
  exact (.forN fun i1 c1 => .after (kept_put ..) (.after (kept_put ..) (kept_put ..)))

theorem kept_memTables {st : Bool} (b) : Block.Kept st b (Block.memTables b) := by
  unfold Block.memTables
  exact (.forN fun i1 c1 => .after (.forN fun i2 c2 => (.forN fun i3 c3 => (kept_setR ..))) (.after (kept_put ..) (kept_put ..)))

theorem kept_staging {st : Bool} (b) : Block.Kept st b (Block.staging b) := by
  unfold Block.staging
  exact .after (kept_partRegs ..) (.after (kept_memTables ..) (.of_eq rfl rfl rfl rfl rfl))

theorem kept_refuseCommit {st : Bool} (x0 x1 b) : Block.Kept st b (Block.refuseCommit x0 x1 b) := by
  unfold Block.refuseCommit
  extract_lets -merge -underBinder +onlyGivenNames v1
  clear_value v1
  extract_lets -merge -underBinder +onlyGivenNames v2
  have h2 : Block.Kept st b v2 := .after (kept_note ..) (kept_endCommit ..)
  clear_value v2
  exact .ite (fun _ => h2.trans (kept_note ..)) fun _ => h2

theorem kept_refuseLoad {st : Bool} (x0 b) : Block.Kept st b (Block.refuseLoad x0 b) := by
  unfold Block.refuseLoad
  exact .after (kept_refuseCommit ..) (.after (kept_note ..) (.whenA fun c1 => (kept_note ..)))

theorem kept_loadR {st : Bool} (x0 x1 x2 x3 x4 b) : Block.Kept st b (Block.loadR x0 x1 x2 x3 x4 b) := by
  unfold Block.loadR
  exact kept_setR ..

theorem kept_portRegs {st : Bool} (x0 b) : Block.Kept st b (Block.portRegs x0 b) := by
  unfold Block.portRegs
  extract_lets -merge -underBinder +onlyGivenNames v1
  subst v1
  extract_lets -merge -underBinder +onlyGivenNames v2
  clear_value v2
  extract_lets -merge -underBinder +onlyGivenNames v3
  have h3 : Block.Kept st b v3 := .after (.forN fun i4 c4 => (kept_loadR ..)) (.after (kept_put ..) (.after (kept_put ..) (.after (kept_put ..) (.after (kept_put ..) (.after (kept_put ..) (.after (kept_put ..) (.after (kept_put ..) (kept_put ..))))))))
  clear_value v3
  exact .ite (fun _ => h3.trans (kept_toOff ..)) fun _ => .ite (fun _ => h3.trans (kept_toTrain ..)) fun _ => h3

theorem kept_loadPinned (b) : Block.Kept true b (Block.loadPinned b) := by
  unfold Block.loadPinned
  extract_lets -merge -underBinder +onlyGivenNames v1
  have h1 : Block.Kept true b v1 := kept_modSlc ..
  clear_value v1
  exact h1.trans (.forL fun i2 c2 => (kept_addFlow ..))

theorem kept_regsNow (b) : Block.Kept true b (Block.regsNow b) := by
  unfold Block.regsNow
  extract_lets -merge -underBinder +onlyGivenNames v1
  have h1 : Block.Kept true b v1 := .after (kept_partRegs ..) (kept_memTables ..)
  clear_value v1
  extract_lets -merge -underBinder +onlyGivenNames v2
  have h2 : Block.Kept true b v2 := h1.trans (.forN fun i3 c3 => .after (.forN fun i4 c4 => (kept_put ..)) (.after (kept_put ..) (.after (kept_loadR ..) (.after (kept_put ..) (.after (kept_put ..) (.after (kept_put ..) (kept_loadR ..)))))))
  clear_value v2
  extract_lets -merge -underBinder +onlyGivenNames v5
  have h5 : Block.Kept true b v5 := h2.trans (.forN fun i6 c6 => .after (.forN fun i7 c7 => (kept_put ..)) (kept_loadR ..))
  clear_value v5
  extract_lets -merge -underBinder +onlyGivenNames v8
  have h8 : Block.Kept true b v8 := .after (.forN fun i10 c10 => (kept_loadR ..)) (.after (.forN fun i9 c9 => (kept_portRegs ..)) (h5.trans (kept_put ..)))
  clear_value v8
  extract_lets -merge -underBinder +onlyGivenNames v11
  clear_value v11
  extract_lets -merge -underBinder +onlyGivenNames v12
  have h12 : Block.Kept true b v12 := .after (.forN fun i13 c13 => .after (kept_modInst ..) (.after (kept_put ..) (kept_put ..))) (.after (kept_loadPinned ..) (.after (kept_put ..) (.after (kept_put ..) (.after (kept_loadR ..) (.after (kept_put ..) (h8.trans (kept_put ..)))))))
  clear_value v12
  exact h12.trans (.forN fun i14 c14 => .after (kept_put ..) (.after (kept_put ..) (kept_loadR ..)))

theorem kept_setOwner {st : Bool} (x0 x1 b) : Block.Kept st b (Block.setOwner x0 x1 b) := by
  unfold Block.setOwner
  exact (.forL fun i1 c1 => (.forN fun i2 c2 => (kept_setR ..)))

theorem kept_keepOwners {st : Bool} (x0 b) : Block.Kept st b (Block.keepOwners x0 b) := by
  unfold Block.keepOwners
  refine .forN fun i1 c1 => ?_
  refine .whenA fun c2 => ?_
  refine .forN fun i3 c3 => ?_
  split
  · extract_lets -merge -underBinder +onlyGivenNames v4
    clear_value v4
    exact kept_setOwner ..
  · refine .whenA fun c5 => ?_
    extract_lets -merge -underBinder +onlyGivenNames v6
    clear_value v6
    exact kept_setOwner ..
  · exact .refl _

theorem kept_calSwitch {st : Bool} (b) : Block.Kept st b (Block.calSwitch b) := by
  unfold Block.calSwitch
  extract_lets -merge -underBinder +onlyGivenNames v1
  clear_value v1
  extract_lets -merge -underBinder +onlyGivenNames s2 v2
  have h2 : Block.Kept st b v2 := (.of_eq rfl rfl rfl rfl rfl)
  clear_value v2
  exact .ite (fun _ => h2) fun _ => h2.trans (kept_note ..)

theorem kept_mbxModes {st : Bool} (x0 b) : Block.Kept st b (Block.mbxModes x0 b) := by
  unfold Block.mbxModes
  exact (.forL fun i1 c1 => (kept_abortChan ..))

theorem kept_cleanStart (x0 b) : Block.Kept true b (Block.cleanStart x0 b) := by
  unfold Block.cleanStart
  extract_lets -merge -underBinder +onlyGivenNames v1
  clear_value v1
  extract_lets -merge -underBinder +onlyGivenNames v2
  subst v2
  refine .ite (fun _ => ?_) fun _ => ?_
  · exact (.of_eq rfl rfl rfl rfl rfl)
  · refine .ite (fun _ => ?_) fun _ => ?_
    · exact .refl _
    · extract_lets -merge -underBinder +onlyGivenNames v3
      have h3 : Block.Kept true b v3 := (.of_eq rfl rfl rfl rfl rfl)
      clear_value v3
      extract_lets -merge -underBinder +onlyGivenNames v4
      clear_value v4
      exact .after (kept_mntGo ..) (.after (kept_mntSet ..) (.after (kept_put ..) (.after (kept_put ..) (h3.trans (.of_eq rfl rfl rfl rfl rfl)))))

theorem kept_cleanOn (b) : Block.Kept true b (Block.cleanOn b) := by
  unfold Block.cleanOn
  exact (.forL fun i1 c1 => (kept_cleanStart ..))

theorem kept_holdRegions {st : Bool} (x0 b) : Block.Kept st b (Block.holdRegions x0 b) := by
  unfold Block.holdRegions
  extract_lets -merge -underBinder +onlyGivenNames v1
  subst v1
  extract_lets -merge -underBinder +onlyGivenNames v2
  clear_value v2
  exact (.of_eq rfl rfl rfl rfl rfl)

theorem kept_layoutSwitch (x0 b) : Block.Kept true b (Block.layoutSwitch x0 b) := by
  unfold Block.layoutSwitch
  refine .ite (fun _ => ?_) fun _ => ?_
  · extract_lets -merge -underBinder +onlyGivenNames v1
    clear_value v1
    exact .after (.forN fun i2 c2 => (kept_put ..)) (.of_eq rfl rfl rfl rfl rfl)
  · extract_lets -merge -underBinder +onlyGivenNames v3
    clear_value v3
    exact .after (kept_cleanOn ..) (kept_holdRegions ..)

theorem kept_inboundSwitch {st : Bool} (b) : Block.Kept st b (Block.inboundSwitch b) := by
  unfold Block.inboundSwitch
  refine .trans ?_ (kept_commitStart ..)
  refine .forN fun i1 c1 => ?_
  extract_lets -merge -underBinder +onlyGivenNames v2
  clear_value v2
  exact .after (kept_loadR ..) (kept_loadR ..)

theorem kept_fillBank {st : Bool} (x0 x1 x2 b) : Block.Kept st b (Block.fillBank x0 x1 x2 b) := by
  unfold Block.fillBank
  extract_lets -merge -underBinder +onlyGivenNames v1
  clear_value v1
  exact (.forN fun i2 c2 => (.forN fun i3 c3 => (kept_setR ..)))

theorem kept_buildBank {st : Bool} (x0 x1 b) : Block.Kept st b (Block.buildBank x0 x1 b) := by
  unfold Block.buildBank
  extract_lets -merge -underBinder +onlyGivenNames v1
  subst v1
  extract_lets -merge -underBinder +onlyGivenNames v2
  have h2 : Block.Kept st b v2 := kept_fillBank ..
  clear_value v2
  extract_lets -merge -underBinder +onlyGivenNames v3
  have h3 : Block.Kept st b v3 := .ite (fun _ => h2) fun _ => .ite (fun _ => h2) fun _ => .ite (fun _ => kept_fillBank ..) fun _ => kept_fillBank ..
  clear_value v3
  exact h3.trans (kept_tickFree ..)

theorem kept_reroute {st : Bool} (b) : Block.Kept st b (Block.reroute b) := by
  unfold Block.reroute
  exact .ite (fun _ => kept_modMesh ..) fun _ => .after (kept_modMesh ..) (.after (kept_put ..) (kept_buildBank ..))

theorem kept_ltrSend {st : Bool} (b) : Block.Kept st b (Block.ltrSend b) := by
  unfold Block.ltrSend
  extract_lets -merge -underBinder +onlyGivenNames v1
  clear_value v1
  exact .ite (fun _ => kept_emit ..) fun _ => .refl _

theorem kept_putActive (x0 b) : Block.Kept true b (Block.putActive x0 b) := by
  unfold Block.putActive
  extract_lets -merge -underBinder +onlyGivenNames v1
  have h1 : Block.Kept true b v1 := .refl _
  clear_value v1
  extract_lets -merge -underBinder +onlyGivenNames v2
  have h2 : Block.Kept true b v2 := .after (kept_regsNow ..) (.of_eq rfl rfl rfl rfl rfl)
  clear_value v2
  extract_lets -merge -underBinder +onlyGivenNames v3
  have h3 : Block.Kept true b v3 := h2.trans (kept_keepOwners ..)
  clear_value v3
  extract_lets -merge -underBinder +onlyGivenNames v4
  have h4 : Block.Kept true b v4 := .after (kept_calSwitch ..) (.after (kept_mbxModes ..) (h3.trans (kept_layoutSwitch ..)))
  clear_value v4
  extract_lets -merge -underBinder +onlyGivenNames v5
  have h5 : Block.Kept true b v5 := h4.trans (.whenA fun c6 => (kept_inboundSwitch ..))
  clear_value v5
  extract_lets -merge -underBinder +onlyGivenNames v7
  have h7 : Block.Kept true b v7 := h5.trans (.whenA fun c8 => (kept_modLvp ..))
  clear_value v7
  extract_lets -merge -underBinder +onlyGivenNames v9
  have h9 : Block.Kept true b v9 := h7.trans (.whenA fun c10 => .after (kept_bootUp ..) (.of_eq rfl rfl rfl rfl rfl))
  clear_value v9
  extract_lets -merge -underBinder +onlyGivenNames v11
  have h11 : Block.Kept true b v11 := h9.trans (.whenA fun c12 => (kept_reroute ..))
  clear_value v11
  extract_lets -merge -underBinder +onlyGivenNames v13
  have h13 : Block.Kept true b v13 := h11.trans (.whenA fun c14 => (kept_ltrSend ..))
  clear_value v13
  exact h13.trans (kept_extend ..)

theorem kept_unloadPart {st : Bool} (x0 b) : Block.Kept st b (Block.unloadPart x0 b) := by
  unfold Block.unloadPart
  extract_lets -merge -underBinder +onlyGivenNames v1
  clear_value v1
  exact .after (kept_showCopy ..) (.after (kept_resetAgent ..) (.after (kept_unmirror ..) (.after (kept_modPart ..) (.forL fun i2 c2 => .after (kept_unpinRepl ..) (.after (kept_unbindRepl ..) (kept_haltRepl ..))))))

theorem kept_removePart {st : Bool} (x0 b) : Block.Kept st b (Block.removePart x0 b) := by
  unfold Block.removePart
  extract_lets -merge -underBinder +onlyGivenNames v1
  clear_value v1
  exact .after (kept_put ..) (.after (kept_put ..) (.after (kept_put ..) (.after (kept_setR ..) (.after (kept_setR ..) (.after (kept_unloadPart ..) (.whenA fun c2 => (kept_note ..)))))))

theorem kept_defaultsFor (x0 b) : Block.Kept true b (Block.defaultsFor x0 b) := by
  unfold Block.defaultsFor
  extract_lets -merge -underBinder +onlyGivenNames v1
  clear_value v1
  extract_lets -merge -underBinder +onlyGivenNames v2
  have h2 : Block.Kept true b v2 := .refl _
  clear_value v2
  extract_lets -merge -underBinder +onlyGivenNames v3
  have h3 : Block.Kept true b v3 := .after (kept_modTu ..) (kept_putActive ..)
  clear_value v3
  exact h3.trans (.forL fun i4 c4 => (kept_removePart ..))

theorem kept_lockBinds {st : Bool} (b) : Block.Kept st b (Block.lockBinds b) := by
  unfold Block.lockBinds
  split
  · exact .refl _
  · extract_lets -merge -underBinder +onlyGivenNames v1
    clear_value v1
    exact .after (.forN fun i2 c2 => (kept_loadR ..)) (.of_eq rfl rfl rfl rfl rfl)

theorem kept_startPersist {st : Bool} (b) : Block.Kept st b (Block.startPersist b) := by
  unfold Block.startPersist
  extract_lets -merge -underBinder +onlyGivenNames v1
  clear_value v1
  extract_lets -merge -underBinder +onlyGivenNames v2
  clear_value v2
  exact (.of_eq rfl rfl rfl rfl rfl)

theorem kept_switched {st : Bool} (b) : Block.Kept st b (Block.switched b) := by
  unfold Block.switched
  extract_lets -merge -underBinder +onlyGivenNames s1 v1
  have h1 : Block.Kept st b v1 := .after (kept_note ..) (.after (kept_endCommit ..) (.of_eq rfl rfl rfl rfl rfl))
  clear_value v1
  exact .ite (fun _ => h1.trans (kept_startPersist ..)) fun _ => h1

theorem kept_imageDigest (x0 x1 b) : Block.Kept true b (Block.imageDigest x0 x1 b).2 := by
  unfold Block.imageDigest
  extract_lets -merge -underBinder +onlyGivenNames v1
  clear_value v1
  split
  rename_i y2 e2
  have h2 : Block.Kept true b y2 := .of_pair e2 <| by
    refine .after (.foldl_snd _ _ ?_ _) (.refl _)
    rintro ⟨a3, c3⟩ i3
    split
    rename_i y4 e4
    have h4 : Block.Kept true c3 y4 := .of_pair e4 (kept_readBytes ..)
    clear e4
    exact h4
  clear e2
  exact h2

theorem kept_measurePart (x0 b) : Block.Kept true b (Block.measurePart x0 b).2 := by
  unfold Block.measurePart
  split
  rename_i y1 e1
  have h1 : Block.Kept true b y1 := .of_pair e1 <| by
    refine .after (.foldl_snd _ _ ?_ _) (.refl _)
    rintro ⟨a2, c2⟩ i2
    split
    rename_i y3 e3
    have h3 : Block.Kept true c2 y3 := .of_pair e3 (kept_imageDigest ..)
    clear e3
    exact h3
  clear e1
  extract_lets -merge -underBinder +onlyGivenNames v4
  clear_value v4
  exact h1

theorem kept_bindRepl {st : Bool} (x0 x1 b) : Block.Kept st b (Block.bindRepl x0 x1 b) := by
  unfold Block.bindRepl
  split
  · exact .refl _
  · refine .ite (fun _ => ?_) fun _ => ?_
    · exact .refl _
    · split
      · exact .refl _
      · extract_lets -merge -underBinder +onlyGivenNames v1
        subst v1
        extract_lets -merge -underBinder +onlyGivenNames v2
        clear_value v2
        exact .after (kept_mstEnter ..) (.after (kept_loadR ..) (.after (kept_loadR ..) (.after (kept_loadR ..) (.after (kept_loadR ..) (.after (kept_loadR ..) (.after (kept_loadR ..) (.after (kept_put ..) (.after (kept_put ..) (.after (kept_put ..) (.after (kept_put ..) (.after (kept_put ..) (kept_put ..))))))))))))

theorem kept_pinRepl {st : Bool} (x0 x1 b) : Block.Kept st b (Block.pinRepl x0 x1 b) := by
  unfold Block.pinRepl
  exact (.foldl _ _ (fun c1 i1 => (kept_modHart ..)) _)

theorem kept_zeroBytes (x0 x1 x2 x3 b) : Block.Kept true b (Block.zeroBytes x0 x1 x2 x3 b) := by
  unfold Block.zeroBytes
  exact kept_writeBytes ..

theorem kept_loadPart (x0 b) : Block.Kept true b (Block.loadPart x0 b) := by
  unfold Block.loadPart
  extract_lets -merge -underBinder +onlyGivenNames v1
  have h1 : Block.Kept true b v1 := kept_modPart ..
  clear_value v1
  extract_lets -merge -underBinder +onlyGivenNames v2
  have h2 : Block.Kept true b v2 := by
    unfold v2
    refine .after (.forL fun i3 c3 => ?_) h1
    extract_lets -merge -underBinder +onlyGivenNames v4
    clear_value v4
    exact .after (kept_bindRepl ..) (.after (kept_pinRepl ..) (kept_modRepl ..))
  clear_value v2
  extract_lets -merge -underBinder +onlyGivenNames v5
  have h5 : Block.Kept true b v5 := h2.trans (kept_zeroBytes ..)
  clear_value v5
  exact .after (kept_showPart ..) (.after (kept_put ..) (.after (kept_put ..) (.after (kept_put ..) (.after (kept_put ..) (.after (kept_put ..) (h5.trans (kept_put ..)))))))

theorem kept_loadMeasured (x0 b) : Block.Kept true b (Block.loadMeasured x0 b) := by
  unfold Block.loadMeasured
  split
  rename_i y1 e1
  have h1 : Block.Kept true b y1 := .of_pair e1 (kept_measurePart ..)
  clear e1
  exact .after (kept_extend ..) (h1.trans (kept_loadPart ..))

theorem kept_confirmRun {st : Bool} (b) : Block.Kept st b (Block.confirmRun b) := by
  unfold Block.confirmRun
  exact .ite (fun _ => .after (kept_note ..) (.after (kept_modTrust ..) (kept_putRecord ..))) fun _ => .refl _

theorem kept_enterReady {st : Bool} (b) : Block.Kept st b (Block.enterReady b) := by
  unfold Block.enterReady
  extract_lets -merge -underBinder +onlyGivenNames v1
  have h1 : Block.Kept st b v1 := kept_setDev ..
  clear_value v1
  extract_lets -merge -underBinder +onlyGivenNames v2
  clear_value v2
  extract_lets -merge -underBinder +onlyGivenNames v3
  have h3 : Block.Kept st b v3 := h1.trans (kept_modTrust ..)
  clear_value v3
  exact .ite (fun _ => h3.trans (kept_confirmRun ..)) fun _ => h3

theorem kept_finishLoad (b) : Block.Kept true b (Block.finishLoad b) := by
  unfold Block.finishLoad
  extract_lets -merge -underBinder +onlyGivenNames v1
  have h1 : Block.Kept true b v1 := (.forL fun i2 c2 => (kept_loadMeasured ..))
  clear_value v1
  exact h1.trans (kept_enterReady ..)

theorem kept_switchWait (b) : Block.Kept true b (Block.switchWait b) := by
  unfold Block.switchWait
  extract_lets -merge -underBinder +onlyGivenNames v1
  have h1 : Block.Kept true b v1 := kept_staging ..
  clear_value v1
  extract_lets -merge -underBinder +onlyGivenNames v2
  clear_value v2
  split
  · exact .after (kept_refuseLoad ..) (kept_defaultsFor ..)
  · extract_lets -merge -underBinder +onlyGivenNames v3
    have h3 : Block.Kept true b v3 := .refl _
    clear_value v3
    extract_lets -merge -underBinder +onlyGivenNames v4
    have h4 : Block.Kept true b v4 := .after (kept_modTu ..) (.after (kept_lockBinds ..) (kept_putActive ..))
    clear_value v4
    extract_lets -merge -underBinder +onlyGivenNames v5
    have h5 : Block.Kept true b v5 := .after (kept_switched ..) (h4.trans (.forL fun i6 c6 => (kept_removePart ..)))
    clear_value v5
    exact .ite (fun _ => h5) fun _ => h5.trans (kept_finishLoad ..)

theorem kept_releaseFout {st : Bool} (b) : Block.Kept st b (Block.releaseFout b) := by
  unfold Block.releaseFout
  exact .ite (fun _ => .refl _) fun _ => (.of_eq rfl rfl rfl rfl rfl)

theorem kept_toConfigWait {st : Bool} (b) : Block.Kept st b (Block.toConfigWait b) := by
  unfold Block.toConfigWait
  exact .after (kept_releaseFout ..) (kept_setDev ..)

theorem kept_loadAfterInit (b) : Block.Kept true b (Block.loadAfterInit b) := by
  unfold Block.loadAfterInit
  split
  · exact .after (kept_refuseLoad ..) (kept_defaultsFor ..)
  · exact kept_finishLoad ..

theorem kept_endResume (b) : Block.Kept true b (Block.endResume b) := by
  unfold Block.endResume
  extract_lets -merge -underBinder +onlyGivenNames v1
  clear_value v1
  extract_lets -merge -underBinder +onlyGivenNames v2
  have h2 : Block.Kept true b v2 := kept_toFilter ..
  clear_value v2
  refine .ite (fun _ => ?_) fun _ => ?_
  · exact h2
  · extract_lets -merge -underBinder +onlyGivenNames s3 v3
    have h3 : Block.Kept true b v3 := .after (kept_toConfigWait ..) (h2.trans (.of_eq rfl rfl rfl rfl rfl))
    clear_value v3
    exact .ite (fun _ => h3.trans (kept_loadAfterInit ..)) fun _ => h3

theorem kept_resumePending (b) : Block.Kept true b (Block.resumePending b) := by
  unfold Block.resumePending
  extract_lets -merge -underBinder +onlyGivenNames v1
  have h1 : Block.Kept true b v1 := kept_switchWait ..
  clear_value v1
  extract_lets -merge -underBinder +onlyGivenNames s2 v2
  have h2 : Block.Kept true b v2 := h1.trans (.of_eq rfl rfl rfl rfl rfl)
  clear_value v2
  exact .ite (fun _ => h2) fun _ => h2.trans (kept_endResume ..)

theorem kept_discardStaged {st : Bool} (b) : Block.Kept st b (Block.discardStaged b) := by
  unfold Block.discardStaged
  exact (.of_eq rfl rfl rfl rfl rfl)

theorem kept_resumePlain {st : Bool} (b) : Block.Kept st b (Block.resumePlain b) := by
  unfold Block.resumePlain
  extract_lets -merge -underBinder +onlyGivenNames v1
  have h1 : Block.Kept st b v1 := (.whenA fun c2 => (kept_cancelCommit ..))
  clear_value v1
  extract_lets -merge -underBinder +onlyGivenNames v3
  have h3 : Block.Kept st b v3 := h1.trans (kept_discardStaged ..)
  clear_value v3
  extract_lets -merge -underBinder +onlyGivenNames s4 v4
  have h4 : Block.Kept st b v4 := h3.trans (.of_eq rfl rfl rfl rfl rfl)
  clear_value v4
  exact h4.trans (kept_toConfigWait ..)

theorem kept_resumeReq (b) : Block.Kept true b (Block.resumeReq b).2 := by
  unfold Block.resumeReq
  refine .iteP (fun _ => ?_) fun _ => ?_
  · exact kept_refused ..
  · extract_lets -merge -underBinder +onlyGivenNames v1
    have h1 : Block.Kept true b v1 := kept_toFilter ..
    clear_value v1
    exact .iteP (fun _ => h1) fun _ => .snd (.ite (fun _ => h1.trans (kept_resumePending ..)) fun _ => h1.trans (kept_resumePlain ..))

theorem kept_stateReq (x0 x1 b) : Block.Kept true b (Block.stateReq x0 x1 b).2 := by
  unfold Block.stateReq
  split
  · exact kept_startReq ..
  · exact .snd (kept_holdRequest ..)
  · exact kept_serviceReq ..
  · exact kept_shutdownReq ..
  · exact kept_resumeReq ..
  · exact .refl _

theorem kept_resetReq (b) : Block.Kept true b (Block.resetReq b).2 := by
  unfold Block.resetReq
  refine .iteP (fun _ => ?_) fun _ => ?_
  · exact .snd (kept_notAccepted ..)
  · refine .iteP (fun _ => ?_) fun _ => ?_
    · refine .snd ?_
      extract_lets -merge -underBinder +onlyGivenNames v1
      have h1 : Block.Kept true b v1 := kept_holdRequest ..
      clear_value v1
      exact h1.trans (.of_eq rfl rfl rfl rfl rfl)
    · exact .snd (kept_warmReset ..)

theorem kept_startReadmit {st : Bool} (x0 b) : Block.Kept st b (Block.startReadmit x0 b) := by
  unfold Block.startReadmit
  exact .after (kept_vrOn ..) (.after (kept_resetSail ..) (kept_put ..))

theorem kept_readmitReq {st : Bool} (x0 b) : Block.Kept st b (Block.readmitReq x0 b).2 := by
  unfold Block.readmitReq
  exact .iteP (fun _ => .snd (kept_startReadmit ..)) fun _ => .refl _

theorem kept_commitReq {st : Bool} (x0 x1 b) : Block.Kept st b (Block.commitReq x0 x1 b).2 := by
  unfold Block.commitReq
  exact .iteP (fun _ => .refl _) fun _ => .iteP (fun _ => .refl _) fun _ => .snd (.of_eq rfl rfl rfl rfl rfl)

theorem kept_discardReq {st : Bool} (x0 b) : Block.Kept st b (Block.discardReq x0 b).2 := by
  unfold Block.discardReq
  refine .iteP (fun _ => ?_) fun _ => ?_
  · exact .refl _
  · extract_lets -merge -underBinder +onlyGivenNames v1
    have h1 : Block.Kept st b v1 := .after (kept_discardStaged ..) (kept_cancelPending ..)
    clear_value v1
    exact .snd (h1.trans (.of_eq rfl rfl rfl rfl rfl))

theorem kept_persistReq {st : Bool} (b) : Block.Kept st b (Block.persistReq b).2 := by
  unfold Block.persistReq
  exact .iteP (fun _ => .refl _) fun _ => .iteP (fun _ => .refl _) fun _ => .snd (kept_startPersist ..)

theorem kept_commitCmd {st : Bool} (x0 x1 b) : Block.Kept st b (Block.commitCmd x0 x1 b).2 := by
  unfold Block.commitCmd
  split
  · exact kept_commitReq ..
  · exact kept_discardReq ..
  · exact kept_persistReq ..
  · exact kept_commitReq ..
  · exact .refl _

theorem kept_partRestart (x0 b) : Block.Kept true b (Block.partRestart x0 b).2 := by
  unfold Block.partRestart
  refine .iteP (fun _ => ?_) fun _ => ?_
  · exact .refl _
  · refine .iteP (fun _ => ?_) fun _ => ?_
    · exact .refl _
    · refine .iteP (fun _ => ?_) fun _ => ?_
      · exact .snd (kept_note ..)
      · refine .iteP (fun _ => ?_) fun _ => ?_
        · exact .snd (.after (kept_note ..) (kept_note ..))
        · extract_lets -merge -underBinder +onlyGivenNames v1
          have h1 : Block.Kept true b v1 := .after (kept_loadMeasured ..) (.forL fun i2 c2 => .after (kept_unpinRepl ..) (.after (kept_unbindRepl ..) (kept_haltRepl ..)))
          clear_value v1
          exact .snd (h1.trans (.forL fun i3 c3 => (kept_modRepl ..)))

theorem kept_partReset {st : Bool} (x0 b) : Block.Kept st b (Block.partReset x0 b) := by
  unfold Block.partReset
  refine .ite (fun _ => ?_) fun _ => ?_
  · exact .refl _
  · extract_lets -merge -underBinder +onlyGivenNames v1
    clear_value v1
    exact .after (.forL fun i2 c2 => (kept_modHart ..)) (.after (kept_freeLocks ..) (kept_haltPart ..))

theorem kept_modSlot {st : Bool} (x0 x1 b)
    (p : ((SMap.get {} x0 b.otp.slots).programmed = true → (x1 (SMap.get {} x0 b.otp.slots)).programmed = true ∧ (x1 (SMap.get {} x0 b.otp.slots)).digest = (SMap.get {} x0 b.otp.slots).digest)
      ∧ ((SMap.get {} x0 b.otp.slots).revoked = true → (x1 (SMap.get {} x0 b.otp.slots)).revoked = true)) :
    Block.Kept st b (Block.modSlot x0 x1 b) := by
  refine ⟨id, fun _ => rfl, id, ⟨rfl, Nat.le_refl _, id, fun n => ?_⟩, List.prefix_refl _, id, id⟩
  by_cases e : n = x0
  · subst e
    simp only [Block.modSlot, SMap.upd, SMap.get_set_same]
    exact p
  · have q := SMap.get_upd_ne ({} : KeySlot) e x1 b.otp.slots
    show (_ → (SMap.get {} n (SMap.upd {} x0 x1 b.otp.slots)).programmed = true ∧ (SMap.get {} n (SMap.upd {} x0 x1 b.otp.slots)).digest = _) ∧ (_ → (SMap.get {} n (SMap.upd {} x0 x1 b.otp.slots)).revoked = true)
    rw [q]
    exact ⟨fun h => ⟨h, rfl⟩, id⟩

theorem kept_loadKey {st : Bool} (x0 x1 b) : Block.Kept st b (Block.loadKey x0 x1 b).2 := by
  unfold Block.loadKey
  refine .iteP (fun _ => .refl _) fun _ => .iteP (fun _ => .refl _) fun _ => ?_
  extract_lets d put
  have p : ∀ c, Block.Kept st c (put c) := fun c => kept_modTrust ..
  clear_value put
  refine .iteP (fun e => .trans (kept_modSlot _ _ _ ?_) (p _)) fun _ => .iteP (fun _ => .refl _) fun _ => p _
  simp only [Block.slot, Bool.not_eq_true'] at e
  exact ⟨fun h => absurd h (by rw [e]; decide), id⟩

theorem kept_revokeKey {st : Bool} (x0 b) : Block.Kept st b (Block.revokeKey x0 b).2 := by
  unfold Block.revokeKey
  exact .iteP (fun _ => .refl _) fun _ => .iteP (fun _ => .refl _) fun _ => kept_modSlot _ _ _ ⟨fun h => ⟨h, rfl⟩, fun _ => rfl⟩

theorem kept_blowConsent {st : Bool} (b) : Block.Kept st b (Block.blowConsent b) := by
  unfold Block.blowConsent
  exact ⟨id, fun _ => rfl, id, ⟨rfl, Nat.le_refl _, fun _ => rfl, fun _ => ⟨fun h => ⟨h, rfl⟩, id⟩⟩, List.prefix_refl _, id, id⟩

end Sys2Proof.Machine
end

