-- ==== Sys2Proof/Laws/KeptOps6.lean ====
section
/-! SUPPORT. One lemma for each shared operation: what it keeps (canonical memory, fuses, the first faults, and DRAM where it stores nothing). -/

namespace Sys2Proof.Machine

theorem kept_sessionResp {st : Bool} (x0 x1 b) : Block.Kept st b (Block.sessionResp x0 x1 b).2 := by
  unfold Block.sessionResp
  extract_lets -merge -underBinder +onlyGivenNames v1
  clear_value v1
  refine .iteP (fun _ => ?_) fun _ => ?_
  · exact .refl _
  · extract_lets -merge -underBinder +onlyGivenNames v2
    clear_value v2
    extract_lets -merge -underBinder +onlyGivenNames v3
    have h3 : Block.Kept st b v3 := kept_modTrust ..
    clear_value v3
    extract_lets -merge -underBinder +onlyGivenNames v4
    clear_value v4
    refine .iteP (fun _ => ?_) fun _ => ?_
    · exact .snd (h3.trans (kept_authFail ..))
    · extract_lets -merge -underBinder +onlyGivenNames v5
      have h5 : Block.Kept st b v5 := .after (kept_modTrust ..) (h3.trans (kept_authOk ..))
      clear_value v5
      exact .snd (.after (kept_note ..) (h5.trans (kept_extend ..)))

theorem kept_endSession (x0 x1 b) : Block.Kept true b (Block.endSession x0 x1 b) := by
  unfold Block.endSession
  refine .ite (fun _ => ?_) fun _ => ?_
  · exact .refl _
  · extract_lets -merge -underBinder +onlyGivenNames v1
    have h1 : Block.Kept true b v1 := kept_modTrust ..
    clear_value v1
    exact .ite (fun _ => h1.trans (kept_resumeReq ..)) fun _ => h1

theorem kept_cancelStaged {st : Bool} (b) : Block.Kept st b (Block.cancelStaged b) := by
  unfold Block.cancelStaged
  exact (.forN fun i1 c1 => (.whenA fun c2 => (kept_putRecord ..)))

theorem kept_sendKey {st : Bool} (x0 x1 x2 x3 x4 b) : Block.Kept st b (Block.sendKey x0 x1 x2 x3 x4 b) := by
  unfold Block.sendKey
  extract_lets -merge -underBinder +onlyGivenNames v1
  clear_value v1
  extract_lets -merge -underBinder +onlyGivenNames v2
  clear_value v2
  extract_lets -merge -underBinder +onlyGivenNames v3
  clear_value v3
  exact kept_offerSack ..

theorem kept_startKeys {st : Bool} (x0 b) : Block.Kept st b (Block.startKeys x0 b) := by
  unfold Block.startKeys
  refine .ite (fun _ => ?_) fun _ => ?_
  · exact .refl _
  · extract_lets -merge -underBinder +onlyGivenNames v1
    clear_value v1
    extract_lets -merge -underBinder +onlyGivenNames v2
    clear_value v2
    extract_lets -merge -underBinder +onlyGivenNames v3
    clear_value v3
    exact .after (kept_sendKey ..) (.after (kept_modPort ..) (kept_tickFree ..))

theorem kept_rekey {st : Bool} (x0 b) : Block.Kept st b (Block.rekey x0 b).2 := by
  unfold Block.rekey
  exact .iteP (fun _ => .refl _) fun _ => .snd (.ite (fun _ => kept_startKeys ..) fun _ => .refl _)

theorem kept_macKey {st : Bool} (x0 x1 x2 b) : Block.Kept st b (Block.macKey x0 x1 x2 b) := by
  unfold Block.macKey
  extract_lets -merge -underBinder +onlyGivenNames v1
  clear_value v1
  extract_lets -merge -underBinder +onlyGivenNames v2
  clear_value v2
  extract_lets -merge -underBinder +onlyGivenNames v3
  clear_value v3
  exact kept_modPort ..

theorem kept_objExec (x0 x1 x2 x3 b) : Block.Kept true b (Block.objExec x0 x1 x2 x3 b).2 := by
  unfold Block.objExec
  extract_lets -merge -underBinder +onlyGivenNames v1
  clear_value v1
  split
  · exact kept_stateReq ..
  · exact kept_resetReq ..
  · exact kept_readmitReq ..
  · exact kept_commitCmd ..
  · exact kept_partRestart ..
  · exact .iteP (fun _ => .refl _) fun _ => .snd (kept_partReset ..)
  · exact .snd (.forN fun i2 c2 => (.whenA fun c3 => (kept_releaseNow ..)))
  · exact kept_loadKey ..
  · exact kept_revokeKey ..
  · exact .snd (kept_blowConsent ..)
  · exact kept_sessionResp ..
  · exact .snd (kept_endSession ..)
  · exact .snd (kept_confirmRun ..)
  · exact kept_advance ..
  · exact .snd (kept_cancelStaged ..)
  · exact .snd (kept_attest ..)
  · exact .iteP (fun _ => .snd (kept_extend ..)) fun _ => .snd (kept_note ..)
  · exact kept_rekey ..
  · exact .snd (kept_modLvp ..)
  · exact .snd (kept_macKey ..)
  · exact .snd (kept_macKey ..)
  · exact .refl _

theorem kept_stageWrite {st : Bool} (x0 x1 x2 x3 x4 b) : Block.Kept st b (Block.stageWrite x0 x1 x2 x3 x4 b).2 := by
  unfold Block.stageWrite
  refine .iteP (fun _ => ?_) fun _ => ?_
  · exact .refl _
  · refine .iteP (fun _ => ?_) fun _ => ?_
    · exact .refl _
    · refine .iteP (fun _ => ?_) fun _ => ?_
      · exact .refl _
      · extract_lets -merge -underBinder +onlyGivenNames v1
        clear_value v1
        exact .iteP (fun _ => .refl _) fun _ => .snd (.after (kept_claimStaged ..) (.of_eq rfl rfl rfl rfl rfl))

theorem kept_objWrite (x0 x1 x2 x3 b) : Block.Kept true b (Block.objWrite x0 x1 x2 x3 b).2 := by
  unfold Block.objWrite
  split
  · exact .refl _
  · exact .iteP (fun _ => .refl _) fun _ => .iteP (fun _ => .refl _) fun _ => .iteP (fun _ => kept_objExec ..) fun _ => kept_stageWrite ..

theorem kept_segWrite (x0 x1 x2 x3 x4 x5 b) : Block.Kept true b (Block.segWrite x0 x1 x2 x3 x4 x5 b).2 := by
  unfold Block.segWrite
  extract_lets -merge -underBinder +onlyGivenNames v1
  have h1 : Block.Kept true b v1 := .ite (fun _ => kept_setSeg ..) fun _ => .refl _
  clear_value v1
  split
  · exact h1
  · refine .iteP (fun _ => ?_) fun _ => ?_
    · exact h1
    · refine .iteP (fun _ => ?_) fun _ => ?_
      · exact h1.trans (kept_uploadSeg ..)
      · extract_lets -merge -underBinder +onlyGivenNames v2
        clear_value v2
        split
        · exact h1
        · extract_lets -merge -underBinder +onlyGivenNames v3
          clear_value v3
          exact .iteP (fun _ => h1.trans (kept_uploadPart ..)) fun _ => .iteP (fun _ => .after (kept_objWrite ..) (h1.trans (kept_setSeg ..))) fun _ => .iteP (fun _ => .snd (h1.trans (kept_setSeg ..))) fun _ => .snd (h1.trans (kept_setSeg ..))

theorem kept_challenge {st : Bool} (x0 b) : Block.Kept st b (Block.challenge x0 b).2 := by
  unfold Block.challenge
  split
  rename_i y1 e1
  have h1 : Block.Kept st b y1 := .of_pair e1 (kept_random32 ..)
  clear e1
  exact .snd (h1.trans (kept_modTrust ..))

theorem kept_objRead {st : Bool} (x0 x1 x2 x3 b) : Block.Kept st b (Block.objRead x0 x1 x2 x3 b).2 := by
  unfold Block.objRead
  split
  · exact .refl _
  · refine .iteP (fun _ => ?_) fun _ => ?_
    · exact .refl _
    · refine .iteP (fun _ => ?_) fun _ => ?_
      · refine .iteP (fun _ => ?_) fun _ => ?_
        · exact .refl _
        · split
          rename_i y1 e1
          have h1 : Block.Kept st b y1 := .of_pair e1 (kept_challenge ..)
          clear e1
          exact h1
      · refine .iteP (fun _ => ?_) fun _ => ?_
        · exact .snd (kept_put ..)
        · extract_lets -merge -underBinder +onlyGivenNames v2
          have h2 : Block.Kept st b v2 := kept_put ..
          clear_value v2
          split
          · exact h2
          · exact h2

theorem kept_dictMsg (x0 x1 x2 x3 b) : Block.Kept true b (Block.dictMsg x0 x1 x2 x3 b).2 := by
  unfold Block.dictMsg
  extract_lets -merge -underBinder +onlyGivenNames v1
  clear_value v1
  extract_lets -merge -underBinder +onlyGivenNames v2
  clear_value v2
  extract_lets -merge -underBinder +onlyGivenNames v3
  clear_value v3
  extract_lets -merge -underBinder +onlyGivenNames v4
  clear_value v4
  split
  · exact .refl _
  · refine .iteP (fun _ => ?_) fun _ => ?_
    · exact .refl _
    · refine .iteP (fun _ => ?_) fun _ => ?_
      · exact .refl _
      · refine .iteP (fun _ => ?_) fun _ => ?_
        · exact .refl _
        · refine .iteP (fun _ => ?_) fun _ => ?_
          · exact .snd (kept_note ..)
          · refine .iteP (fun _ => ?_) fun _ => ?_
            · split
              rename_i y5 e5
              have h5 : Block.Kept true b y5 := .of_pair e5 (kept_segWrite ..)
              clear e5
              exact h5
            · split
              rename_i y6 e6
              have h6 : Block.Kept true b y6 := .of_pair e6 (kept_objRead ..)
              clear e6
              extract_lets -merge -underBinder +onlyGivenNames v7
              clear_value v7
              extract_lets -merge -underBinder +onlyGivenNames v8
              clear_value v8
              exact h6

theorem kept_dictGo (b) : Block.Kept true b (Block.dictGo b) := by
  unfold Block.dictGo
  refine .ite (fun _ => ?_) fun _ => ?_
  · exact kept_modPci ..
  · extract_lets -merge -underBinder +onlyGivenNames v1
    clear_value v1
    extract_lets -merge -underBinder +onlyGivenNames v2
    clear_value v2
    extract_lets -merge -underBinder +onlyGivenNames v3
    clear_value v3
    extract_lets -merge -underBinder +onlyGivenNames v4
    have h4 : Block.Kept true b v4 := kept_modPci ..
    clear_value v4
    split
    · rename_i y5 e5
      have h5 : Block.Kept true b y5 := .of_pair e5 (h4.trans (kept_dictMsg ..))
      clear e5
      exact h5
    · rename_i y6 e6
      have h6 : Block.Kept true b y6 := .of_pair e6 (h4.trans (kept_dictMsg ..))
      clear e6
      exact .after (kept_sendVec ..) (.after (kept_emit ..) (h6.trans (kept_modPci ..)))

theorem kept_bar0Write (x0 x1 x2 b) : Block.Kept true b (Block.bar0Write x0 x1 x2 b) := by
  unfold Block.bar0Write
  refine .ite (fun _ => ?_) fun _ => ?_
  · exact .ite (fun _ => kept_fnDoorbell ..) fun _ => kept_unsupported ..
  · refine .ite (fun _ => ?_) fun _ => ?_
    · split
      · split
        · rename_i y1 e1
          have h1 : Block.Kept true b y1 := .of_pair e1 (kept_controlWrite ..)
          clear e1
          exact h1.trans (kept_unsupported ..)
        · rename_i y2 _ e2
          have h2 : Block.Kept true b y2 := .of_pair e2 (kept_controlWrite ..)
          clear e2
          exact h2
      · exact .ite (fun _ => (kept_putDwords (h := fun i3 i3j c3 => (kept_msixPut ..)) ..)) fun _ => .ite (fun _ => .ite (fun _ => kept_unsupported ..) fun _ => .ite (fun _ => kept_dwClear ..) fun _ => .ite (fun _ => kept_dictGo ..) fun _ => .refl _) fun _ => .ite (fun _ => kept_modPci ..) fun _ => .refl _
    · exact .ite (fun _ => (kept_putDwords (h := fun i4 i4j c4 => (kept_msixPut ..)) ..)) fun _ => .refl _

theorem kept_inboundStore (x0 x1 x2 x3 x4 b) : Block.Kept true b (Block.inboundStore x0 x1 x2 x3 x4 b) := by
  induction x2 generalizing x3 x4 b with
  | zero =>
    unfold Block.inboundStore
    exact .refl _
  | succ n ih =>
    unfold Block.inboundStore
    refine .ite (fun _ => ?_) fun _ => ?_
    · exact .refl _
    · extract_lets -merge -underBinder +onlyGivenNames v1
      clear_value v1
      extract_lets -merge -underBinder +onlyGivenNames v2
      clear_value v2
      exact .after (ih ..) (kept_writeLine ..)

theorem kept_decodeErr {st : Bool} (x0 x1 b) : Block.Kept st b (Block.decodeErr x0 x1 b).2 := by
  unfold Block.decodeErr
  exact .snd (kept_note ..)

theorem kept_ownConfig {st : Bool} (x0 x1 x2 x3 b) : Block.Kept st b (Block.ownConfig x0 x1 x2 x3 b).2 := by
  unfold Block.ownConfig
  extract_lets -merge -underBinder +onlyGivenNames v1
  clear_value v1
  split
  · exact .refl _
  · extract_lets -merge -underBinder +onlyGivenNames v2
    clear_value v2
    extract_lets -merge -underBinder +onlyGivenNames v3
    clear_value v3
    exact .snd (kept_modSub ..)

theorem kept_tagIssue {st : Bool} (x0 b) : Block.Kept st b (Block.tagIssue x0 b) := by
  unfold Block.tagIssue
  split
  · exact kept_modPci ..
  · exact .after (kept_emit ..) (.after (kept_modPci ..) (kept_modSub ..))

theorem kept_sendNonPosted {st : Bool} (x0 x1 x2 x3 x4 x5 x6 x7 x8 x9 b) : Block.Kept st b (Block.sendNonPosted x0 x1 x2 x3 x4 x5 x6 x7 x8 x9 b).2 := by
  unfold Block.sendNonPosted
  exact .snd (kept_tagIssue ..)

theorem kept_outbound {st : Bool} (x0 x1 x2 x3 x4 x5 x6 b) : Block.Kept st b (Block.outbound x0 x1 x2 x3 x4 x5 x6 b).2 := by
  unfold Block.outbound
  extract_lets -merge -underBinder +onlyGivenNames v1
  clear_value v1
  extract_lets -merge -underBinder +onlyGivenNames v2
  clear_value v2
  extract_lets -merge -underBinder +onlyGivenNames v3
  clear_value v3
  extract_lets -merge -underBinder +onlyGivenNames v4
  clear_value v4
  extract_lets -merge -underBinder +onlyGivenNames v5
  clear_value v5
  refine .iteP (fun _ => ?_) fun _ => ?_
  · exact .snd (kept_note ..)
  · refine .iteP (fun _ => ?_) fun _ => ?_
    · exact .refl _
    · refine .iteP (fun _ => ?_) fun _ => ?_
      · exact .refl _
      · refine .iteP (fun _ => ?_) fun _ => ?_
        · exact kept_ownConfig ..
        · refine .iteP (fun _ => ?_) fun _ => ?_
          · exact .refl _
          · refine .iteP (fun _ => ?_) fun _ => ?_
            · exact .snd (.after (kept_noteOnce ..) (kept_inc ..))
            · refine .iteP (fun _ => ?_) fun _ => ?_
              · exact .refl _
              · refine .iteP (fun _ => ?_) fun _ => ?_
                · exact kept_sendNonPosted ..
                · extract_lets -merge -underBinder +onlyGivenNames v6
                  clear_value v6
                  split
                  · exact .snd (kept_emit ..)
                  · exact kept_sendNonPosted ..

theorem kept_ioWrite (x0 x1 x2 x3 x4 b) : Block.Kept true b (Block.ioWrite x0 x1 x2 x3 x4 b).2 := by
  unfold Block.ioWrite
  split
  · exact kept_decodeErr ..
  · exact .refl _
  · exact .iteP (fun _ => kept_outbound ..) fun _ => .refl _
  · exact .iteP (fun _ => kept_decodeErr ..) fun _ => .iteP (fun _ => .refl _) fun _ => .snd (kept_scrWrite ..)
  · exact .iteP (fun _ => kept_decodeErr ..) fun _ => .iteP (fun _ => .refl _) fun _ => kept_controlWrite ..
  · exact .iteP (fun _ => kept_controlWrite ..) fun _ => .refl _
  · exact .refl _

theorem kept_ioRead {st : Bool} (x0 x1 x2 x3 b) : Block.Kept st b (Block.ioRead x0 x1 x2 x3 b).2 := by
  unfold Block.ioRead
  split
  · exact kept_decodeErr ..
  · exact .refl _
  · exact .iteP (fun _ => kept_outbound ..) fun _ => .refl _
  · exact .iteP (fun _ => kept_decodeErr ..) fun _ => .iteP (fun _ => .refl _) fun _ => .refl _
  · exact .iteP (fun _ => kept_decodeErr ..) fun _ => .iteP (fun _ => .refl _) fun _ => kept_controlRead ..
  · exact .iteP (fun _ => kept_controlRead ..) fun _ => .refl _
  · refine .iteP (fun _ => ?_) fun _ => ?_
    · exact .refl _
    · split
      · exact .refl _
      · exact .refl _

theorem kept_inboundAccess (x0 x1 x2 x3 x4 x5 b) : Block.Kept true b (Block.inboundAccess x0 x1 x2 x3 x4 x5 b) := by
  unfold Block.inboundAccess
  extract_lets -merge -underBinder +onlyGivenNames v1
  clear_value v1
  split
  · split
    · exact .ite (fun _ => kept_inboundStore ..) fun _ => kept_unsupported ..
    · refine .ite (fun _ => ?_) fun _ => ?_
      · split
        rename_i y2 e2
        have h2 : Block.Kept true b y2 := .of_pair e2 (kept_readBytes ..)
        clear e2
        exact h2.trans (kept_emit ..)
      · exact kept_unsupported ..
  · exact kept_unsupported ..
  · refine .ite (fun _ => ?_) fun _ => ?_
    · exact .after (kept_unsupported ..) (kept_decodeErr ..)
    · split
      · exact kept_scrWrite ..
      · exact kept_emit ..
  · split
    · exact .ite (fun _ => .refl _) fun _ => kept_ioWrite ..
    · split
      · rename_i y3 e3
        have h3 : Block.Kept true b y3 := .of_pair e3 (kept_ioRead ..)
        clear e3
        exact h3.trans (kept_emit ..)
      · rename_i y4 e4
        have h4 : Block.Kept true b y4 := .of_pair e4 (kept_ioRead ..)
        clear e4
        exact h4.trans (kept_emit ..)
      · rename_i y5 _ _ e5
        have h5 : Block.Kept true b y5 := .of_pair e5 (kept_ioRead ..)
        clear e5
        exact h5.trans (kept_unsupported ..)

theorem kept_bar2Inbound (x0 x1 x2 x3 x4 b) : Block.Kept true b (Block.bar2Inbound x0 x1 x2 x3 x4 b) := by
  unfold Block.bar2Inbound
  extract_lets -merge -underBinder +onlyGivenNames v1
  clear_value v1
  split
  · exact kept_unsupported ..
  · extract_lets -merge -underBinder +onlyGivenNames v2
    clear_value v2
    extract_lets -merge -underBinder +onlyGivenNames v3
    clear_value v3
    exact .ite (fun _ => kept_unsupported ..) fun _ => kept_inboundAccess ..

theorem kept_bcastDone {st : Bool} (x0 x1 x2 b) : Block.Kept st b (Block.bcastDone x0 x1 x2 b) := by
  unfold Block.bcastDone
  exact kept_modHart ..

theorem kept_begin {st : Bool} (b) : Block.Kept st b (Block.begin b) := by
  unfold Block.begin
  exact (.of_eq rfl rfl rfl rfl rfl)

theorem kept_beginRun {st : Bool} (x0 x1 x2 x3 x4 b) : Block.Kept st b (Block.beginRun x0 x1 x2 x3 x4 b) := by
  unfold Block.beginRun
  exact .after (kept_mstBusy ..) (.after (kept_modMq ..) (kept_modMst ..))

theorem kept_syncPulse {st : Bool} (b) : Block.Kept st b (Block.syncPulse b) := by
  unfold Block.syncPulse
  exact .ite (fun _ => kept_modTu ..) fun _ => .refl _

theorem kept_holdoverTurn {st : Bool} (b) : Block.Kept st b (Block.holdoverTurn b) := by
  unfold Block.holdoverTurn
  exact .ite (fun _ => .after (kept_modTu ..) (kept_inc ..)) fun _ => .refl _

theorem kept_sendBeacon {st : Bool} (x0 x1 b) : Block.Kept st b (Block.sendBeacon x0 x1 b) := by
  unfold Block.sendBeacon
  extract_lets -merge -underBinder +onlyGivenNames v1
  clear_value v1
  extract_lets -merge -underBinder +onlyGivenNames v2
  clear_value v2
  extract_lets -merge -underBinder +onlyGivenNames v3
  have h3 : Block.Kept st b v3 := .after (kept_put ..) (kept_tickFree ..)
  clear_value v3
  exact .after (kept_addLanes ..) (.after (kept_modPort ..) (h3.trans (kept_sendBlock ..)))

theorem kept_sendProbe {st : Bool} (x0 b) : Block.Kept st b (Block.sendProbe x0 b) := by
  unfold Block.sendProbe
  exact kept_sendBlock ..

theorem kept_lvpBoundary {st : Bool} (b) : Block.Kept st b (Block.lvpBoundary b) := by
  unfold Block.lvpBoundary
  refine .forN fun i1 c1 => ?_
  extract_lets -merge -underBinder +onlyGivenNames v2
  have h2 : Block.Kept st c1 v2 := kept_modPort ..
  clear_value v2
  refine .ite (fun _ => ?_) fun _ => ?_
  · exact h2
  · extract_lets -merge -underBinder +onlyGivenNames v3
    have h3 : Block.Kept st c1 v3 := h2.trans (kept_sendBeacon ..)
    clear_value v3
    extract_lets -merge -underBinder +onlyGivenNames v4
    have h4 : Block.Kept st c1 v4 := h3.trans (.whenA fun c5 => (kept_sendProbe ..))
    clear_value v4
    exact .ite (fun _ => h4.trans (kept_startKeys ..)) fun _ => h4

theorem kept_mbxBoundary {st : Bool} (b) : Block.Kept st b (Block.mbxBoundary b) := by
  unfold Block.mbxBoundary
  exact (.of_eq rfl rfl rfl rfl rfl)

theorem kept_slcBoundary (b) : Block.Kept true b (Block.slcBoundary b) := by
  unfold Block.slcBoundary
  extract_lets -merge -underBinder +onlyGivenNames v1
  have h1 : Block.Kept true b v1 := by
    unfold v1
    refine .forL fun i2 c2 => ?_
    extract_lets -merge -underBinder +onlyGivenNames v3
    have h3 : Block.Kept true c2 v3 := by
      unfold v3
      split
      · exact .after (kept_modInst ..) (.after (kept_put ..) (kept_put ..))
      · exact .refl _
    clear_value v3
    extract_lets -merge -underBinder +onlyGivenNames v4
    have h4 : Block.Kept true c2 v4 := .ite (fun _ => .after (kept_modInst ..) (h3.trans (kept_put ..))) fun _ => h3
    clear_value v4
    exact h4.trans (kept_fetchAll ..)
  clear_value v1
  extract_lets -merge -underBinder +onlyGivenNames v5
  clear_value v5
  exact .ite (fun _ => h1.trans (kept_modSlc ..)) fun _ => h1.trans (kept_modSlc ..)

theorem kept_putUp {st : Bool} (x0 x1 x2 b) : Block.Kept st b (Block.putUp x0 x1 x2 b) := by
  unfold Block.putUp
  exact .ite (fun _ => kept_put ..) fun _ => kept_put ..

theorem kept_sendCtl {st : Bool} (x0 x1 x2 x3 x4 x5 b) : Block.Kept st b (Block.sendCtl x0 x1 x2 x3 x4 x5 b) := by
  unfold Block.sendCtl
  exact kept_modLend ..

theorem kept_flumeBoundary {st : Bool} (b) : Block.Kept st b (Block.flumeBoundary b) := by
  unfold Block.flumeBoundary
  refine .forN fun i1 c1 => ?_
  refine .ite (fun _ => ?_) fun _ => ?_
  · exact .refl _
  · extract_lets -merge -underBinder +onlyGivenNames v2
    have h2 : Block.Kept st c1 v2 := (.forN fun i3 c3 => .ite (fun _ => .after (kept_modLend ..) (kept_putUp ..)) fun _ => .refl _)
    clear_value v2
    exact h2.trans (.forN fun i4 c4 => (kept_sendCtl ..))

theorem kept_showLoad {st : Bool} (b) : Block.Kept st b (Block.showLoad b) := by
  unfold Block.showLoad
  extract_lets -merge -underBinder +onlyGivenNames v1
  clear_value v1
  exact .after (kept_put ..) (kept_put ..)

theorem kept_swapBoundary {st : Bool} (b) : Block.Kept st b (Block.swapBoundary b) := by
  unfold Block.swapBoundary
  exact .ite (fun _ => kept_modMesh ..) fun _ => .ite (fun _ => .refl _) fun _ => .after (kept_showLoad ..) (.after (kept_modMesh ..) (.after (kept_put ..) (.after (kept_put ..) (kept_put ..))))

theorem kept_takePlace {st : Bool} (x0 x1 x2 b) : Block.Kept st b (Block.takePlace x0 x1 x2 b) := by
  unfold Block.takePlace
  extract_lets -merge -underBinder +onlyGivenNames v1
  clear_value v1
  extract_lets -merge -underBinder +onlyGivenNames v2
  clear_value v2
  exact .after (kept_showPart ..) (.after (kept_setR ..) (.after (kept_bindRepl ..) (.after (kept_pinRepl ..) (kept_modRepl ..))))

theorem kept_joinRepl {st : Bool} (x0 x1 b) : Block.Kept st b (Block.joinRepl x0 x1 b) := by
  unfold Block.joinRepl
  extract_lets -merge -underBinder +onlyGivenNames v1
  have h1 : Block.Kept st b v1 := kept_unmirror ..
  clear_value v1
  extract_lets -merge -underBinder +onlyGivenNames v2
  have h2 : Block.Kept st b v2 := .after (kept_modPart ..) (.after (kept_modRepl ..) (h1.trans (kept_takePlace ..)))
  clear_value v2
  exact .after (kept_note ..) (h2.trans (kept_put ..))

theorem kept_moveOwner {st : Bool} (x0 x1 x2 b) : Block.Kept st b (Block.moveOwner x0 x1 x2 b) := by
  unfold Block.moveOwner
  extract_lets -merge -underBinder +onlyGivenNames v1
  clear_value v1
  exact .after (kept_holdRegions ..) (kept_setOwner ..)

theorem kept_startRepair {st : Bool} (x0 x1 b) : Block.Kept st b (Block.startRepair x0 x1 b) := by
  unfold Block.startRepair
  split
  · exact kept_note ..
  · extract_lets -merge -underBinder +onlyGivenNames v1
    clear_value v1
    extract_lets -merge -underBinder +onlyGivenNames v2
    have h2 : Block.Kept st b v2 := kept_moveOwner ..
    clear_value v2
    refine .ite (fun _ => ?_) fun _ => ?_
    · exact .after (kept_put ..) (h2.trans (kept_modPart ..))
    · split
      · exact h2
      · exact .after (kept_showCopy ..) (.after (kept_mirror ..) (.after (kept_note ..) (.after (kept_put ..) (h2.trans (kept_modPart ..)))))

theorem kept_partsBoundary {st : Bool} (b) : Block.Kept st b (Block.partsBoundary b) := by
  unfold Block.partsBoundary
  refine .forN fun i1 c1 => ?_
  refine .ite (fun _ => ?_) fun _ => ?_
  · exact .refl _
  · extract_lets -merge -underBinder +onlyGivenNames v2
    have h2 : Block.Kept st c1 v2 := kept_modPart ..
    clear_value v2
    extract_lets -merge -underBinder +onlyGivenNames v3
    have h3 : Block.Kept st c1 v3 := .ite (fun _ => h2.trans (kept_put ..)) fun _ => h2
    clear_value v3
    refine .ite (fun _ => ?_) fun _ => ?_
    · exact h3
    · extract_lets -merge -underBinder +onlyGivenNames v4
      have h4 : Block.Kept st c1 v4 := by
        unfold v4
        split
        · exact .ite (fun _ => h3.trans (kept_joinRepl ..)) fun _ => h3
        · exact h3
      clear_value v4
      extract_lets -merge -underBinder +onlyGivenNames v5
      clear_value v5
      refine .ite (fun _ => ?_) fun _ => ?_
      · split
        · exact .ite (fun _ => h4) fun _ => h4.trans (kept_startRepair ..)
        · exact h4
      · exact h4

theorem kept_readmitBoundary {st : Bool} (b) : Block.Kept st b (Block.readmitBoundary b) := by
  unfold Block.readmitBoundary
  exact (.forN fun i1 c1 => .ite (fun _ => .after (kept_note ..) (.after (kept_modSail ..) (kept_put ..))) fun _ => .refl _)

theorem kept_dresserBoundary {st : Bool} (x0 b) : Block.Kept st b (Block.dresserBoundary x0 b) := by
  unfold Block.dresserBoundary
  extract_lets -merge -underBinder +onlyGivenNames v1
  have h1 : Block.Kept st b v1 := by
    unfold v1
    refine .forN fun i2 c2 => ?_
    extract_lets -merge -underBinder +onlyGivenNames v3
    clear_value v3
    extract_lets -merge -underBinder +onlyGivenNames v4
    have h4 : Block.Kept st c2 v4 := .ite (fun _ => .after (kept_note ..) (kept_put ..)) fun _ => .refl _
    clear_value v4
    exact h4.trans (.of_eq rfl rfl rfl rfl rfl)
  clear_value v1
  exact h1.trans (.of_eq rfl rfl rfl rfl rfl)

theorem kept_blocksBoundary (x0 b) : Block.Kept true b (Block.blocksBoundary x0 b) := by
  unfold Block.blocksBoundary
  exact .after (kept_syncPulse ..) (.after (kept_holdoverTurn ..) (.after (kept_lvpBoundary ..) (.after (kept_mbxBoundary ..) (.after (kept_slcBoundary ..) (.after (kept_flumeBoundary ..) (.after (kept_swapBoundary ..) (.after (kept_cleanOn ..) (.after (kept_partsBoundary ..) (.after (kept_readmitBoundary ..) (kept_dresserBoundary ..))))))))))

theorem kept_bootCommit {st : Bool} (b) : Block.Kept st b (Block.bootCommit b) := by
  unfold Block.bootCommit
  split
  · exact kept_note ..
  · exact (.of_eq rfl rfl rfl rfl rfl)

theorem kept_bootLayout {st : Bool} (b : Block) : Block.Kept st b (Block.bootLayout b) := by
  unfold Block.bootLayout
  extract_lets -merge -underBinder +onlyGivenNames v0
  clear_value v0
  dsimp only
  generalize e : Block.forN 8 _ b = c
  have h : Block.Kept st b c := by
    rw [← e]
    exact (.forN fun i1 c1 => .after (kept_setR ..) (.after (kept_setR ..) (.after (kept_setR ..) (.after (.forN fun i2 c2 => (.forN fun i3 c3 => (kept_setR ..))) (.after (kept_put ..) (.after (kept_put ..) (kept_put ..)))))))
  clear e
  exact h.trans (.of_eq rfl rfl rfl rfl rfl)

theorem kept_turnFresh {st : Bool} (b) : Block.Kept st b (Block.turnFresh b) := by
  unfold Block.turnFresh
  exact .after (kept_modTu ..) (.of_eq rfl rfl rfl rfl rfl)

theorem kept_endOfPeriod {st : Bool} (b) : Block.Kept st b (Block.endOfPeriod b) := by
  unfold Block.endOfPeriod
  extract_lets -merge -underBinder +onlyGivenNames v1
  clear_value v1
  exact .after (kept_modTu ..) (.of_eq rfl rfl rfl rfl rfl)

theorem kept_setTimeBase {st : Bool} (b) : Block.Kept st b (Block.setTimeBase b) := by
  unfold Block.setTimeBase
  exact .after (kept_modTu ..) (.of_eq rfl rfl rfl rfl rfl)

theorem kept_newTurn {st : Bool} (b) : Block.Kept st b (Block.newTurn b) := by
  unfold Block.newTurn
  extract_lets -merge -underBinder +onlyGivenNames v1
  clear_value v1
  extract_lets -merge -underBinder +onlyGivenNames v2
  have h2 : Block.Kept st b v2 := kept_endOfPeriod ..
  clear_value v2
  exact .after (.whenA fun c3 => (kept_setTimeBase ..)) (.after (kept_modTu ..) (h2.trans (kept_put ..)))

theorem kept_tokensBoundary {st : Bool} (x0 b) : Block.Kept st b (Block.tokensBoundary x0 b) := by
  unfold Block.tokensBoundary
  exact (.forN fun i1 c1 => (.forN fun i2 c2 => .ite (fun _ => .refl _) fun _ => .after (kept_modMesh ..) (kept_fillTokens ..)))

theorem kept_turnCounters {st : Bool} (b) : Block.Kept st b (Block.turnCounters b) := by
  unfold Block.turnCounters
  extract_lets -merge -underBinder +onlyGivenNames v1
  have h1 : Block.Kept st b v1 := (.forN fun i2 c2 => .ite (fun _ => .refl _) fun _ => .after (kept_modSail ..) (.after (.forN fun i5 c5 => .after (kept_put ..) (kept_put ..)) (.whenA fun c3 => (.forN fun i4 c4 => (kept_put ..)))))
  clear_value v1
  extract_lets -merge -underBinder +onlyGivenNames v6
  have h6 : Block.Kept st b v6 := by
    unfold v6
    refine .after (.forN fun i7 c7 => ?_) h1
    extract_lets -merge -underBinder +onlyGivenNames v8
    clear_value v8
    exact .after (kept_put ..) (kept_put ..)
  clear_value v6
  exact h6.trans (kept_modCoh ..)

theorem kept_settleUj {st : Bool} (x0 x1 b) : Block.Kept st b (Block.settleUj x0 x1 b).2 := by
  unfold Block.settleUj
  extract_lets -merge -underBinder +onlyGivenNames v1
  clear_value v1
  exact .snd (.of_eq rfl rfl rfl rfl rfl)

theorem kept_latchEnergy {st : Bool} (x0 b) : Block.Kept st b (Block.latchEnergy x0 b) := by
  unfold Block.latchEnergy
  extract_lets -merge -underBinder +onlyGivenNames v1 v2 v3 v4
  have h4 : Block.Kept st b v4 := by
    unfold v4
    refine .forN fun i5 c5 => ?_
    split
    rename_i y6 e6
    exact (Block.Kept.of_pair e6 (kept_settleUj ..)).trans (kept_put ..)
  clear_value v4 v3 v2 v1
  split
  rename_i y7 e7
  have h7 : Block.Kept st b y7 := .of_pair e7 (h4.trans (kept_settleUj ..))
  clear e7
  extract_lets -merge -underBinder +onlyGivenNames v8 v9
  have h8 : Block.Kept st b v8 := h7.trans (kept_put ..)
  have h9 : ∀ p e c, Block.Kept st c (v9 p e c) := by
    intro p e c
    unfold v9
    split
    rename_i y6 e6
    exact .after (kept_put ..) ((Block.Kept.of_pair e6 (kept_settleUj ..)).trans (kept_put ..))
  clear_value v8 v9
  extract_lets -merge -underBinder +onlyGivenNames v1
  have h1 : Block.Kept st b v1 := .after (h9 ..) (h8.trans (.forN fun i2 c2 => (h9 ..)))
  clear_value v1
  exact h1.trans (.of_eq rfl rfl rfl rfl rfl)

theorem kept_latchTemp {st : Bool} (b) : Block.Kept st b (Block.latchTemp b) := by
  unfold Block.latchTemp
  extract_lets -merge -underBinder +onlyGivenNames v1
  clear_value v1
  split
  · exact .after (kept_put ..) (kept_put ..)
  · exact .refl _

theorem kept_chargeTurn {st : Bool} (x0 x1 b) : Block.Kept st b (Block.chargeTurn x0 x1 b) := by
  unfold Block.chargeTurn
  extract_lets -merge -underBinder +onlyGivenNames v1
  have h1 : Block.Kept st b v1 := by
    unfold v1
    refine .forL fun i2 c2 => ?_
    refine .ite (fun _ => ?_) fun _ => ?_
    · exact .refl _
    · extract_lets -merge -underBinder +onlyGivenNames v3
      have h3 : Block.Kept st c2 v3 := (.whenA fun c4 => (kept_setCsr ..))
      clear_value v3
      split
      · exact h3.trans (kept_charge ..)
      · exact h3
  clear_value v1
  exact h1.trans (.forL fun i5 c5 => (kept_charge ..))

theorem kept_countTurn {st : Bool} (x0 b) : Block.Kept st b (Block.countTurn x0 b) := by
  unfold Block.countTurn
  exact (.forL fun i1 c1 => .ite (fun _ => .refl _) fun _ => .ite (fun _ => (.whenA fun c2 => (kept_pmu ..))) fun _ => .ite (fun _ => .refl _) fun _ => .ite (fun _ => .ite (fun _ => .refl _) fun _ => kept_setCsr ..) fun _ => kept_hpm ..)

theorem kept_evtBoundary {st : Bool} (b) : Block.Kept st b (Block.evtBoundary b) := by
  unfold Block.evtBoundary
  refine .forN fun i1 c1 => ?_
  extract_lets -merge -underBinder +onlyGivenNames v2
  clear_value v2
  extract_lets -merge -underBinder +onlyGivenNames v3
  have h3 : Block.Kept st c1 v3 := .after (kept_modEvt ..) (.after (kept_put ..) (.after (kept_put ..) (kept_put ..)))
  clear_value v3
  extract_lets -merge -underBinder +onlyGivenNames v4
  clear_value v4
  exact .ite (fun _ => .ite (fun _ => .after (kept_note ..) (.after (kept_modEvt ..) (.after (kept_put ..) (h3.trans (kept_put ..))))) fun _ => h3.trans (kept_modEvt ..)) fun _ => h3

theorem kept_throttle {st : Bool} (x0 x1 b) : Block.Kept st b (Block.throttle x0 x1 b) := by
  unfold Block.throttle
  extract_lets -merge -underBinder +onlyGivenNames v1
  subst v1
  extract_lets -merge -underBinder +onlyGivenNames v2
  subst v2
  extract_lets -merge -underBinder +onlyGivenNames v3
  have h3 : Block.Kept st b v3 := .ite (fun _ => kept_inc ..) fun _ => .refl _
  extract_lets -merge -underBinder +onlyGivenNames v4
  subst v4
  extract_lets -merge -underBinder +onlyGivenNames s5 v5
  have h5 : Block.Kept st b v5 := h3.trans (.of_eq rfl rfl rfl rfl rfl)
  extract_lets -merge -underBinder +onlyGivenNames s6 v6
  have h6 : Block.Kept st b v6 := .ite (fun _ => .after (kept_raise ..) (h5.trans (.of_eq rfl rfl rfl rfl rfl))) fun _ => h5
  refine .ite (fun _ => ?_) fun _ => ?_
  · extract_lets -merge -underBinder +onlyGivenNames s7 v7
    have h7 : Block.Kept st b v7 := h6.trans (.of_eq rfl rfl rfl rfl rfl)
    clear_value v7
    exact .ite (fun _ => .after (kept_note ..) (h7.trans (kept_put ..))) fun _ => h7.trans (kept_put ..)
  · refine .ite (fun _ => ?_) fun _ => ?_
    · refine .ite (fun _ => ?_) fun _ => ?_
      · extract_lets -merge -underBinder +onlyGivenNames s8 v8
        have h8 : Block.Kept st b v8 := .after (kept_put ..) (h6.trans (.of_eq rfl rfl rfl rfl rfl))
        clear_value v8
        exact .ite (fun _ => h8.trans (kept_note ..)) fun _ => h8
      · exact h6.trans (.of_eq rfl rfl rfl rfl rfl)
    · exact h6.trans (.of_eq rfl rfl rfl rfl rfl)

theorem kept_stepTurn {st : Bool} (b) : Block.Kept st b (Block.stepTurn b) := by
  unfold Block.stepTurn
  exact .after (kept_put ..) (.after (kept_put ..) (.after (kept_modTu ..) (kept_note ..)))

theorem kept_boundaryStart {st : Bool} (x0 b) : Block.Kept st b (Block.boundaryStart x0 b) := by
  unfold Block.boundaryStart
  extract_lets -merge -underBinder +onlyGivenNames v1
  clear_value v1
  extract_lets -merge -underBinder +onlyGivenNames s2 v2
  have h2 : Block.Kept st b v2 := (.of_eq rfl rfl rfl rfl rfl)
  exact .ite (fun _ => .ite (fun _ => h2.trans (kept_setDev ..)) fun _ => h2) fun _ => .ite (fun _ => h2.trans (kept_notAccepted ..)) fun _ => h2

theorem kept_sailMasks {st : Bool} (x0 b) : Block.Kept st b (Block.sailMasks x0 b) := by
  unfold Block.sailMasks
  extract_lets -merge -underBinder +onlyGivenNames v1
  subst v1
  exact .after (kept_put ..) (.after (kept_put ..) (.after (kept_put ..) (.forN fun i2 c2 => .after (kept_put ..) (kept_put ..))))

theorem kept_evtLoad {st : Bool} (b) : Block.Kept st b (Block.evtLoad b) := by
  unfold Block.evtLoad
  refine .forN fun i1 c1 => ?_
  extract_lets -merge -underBinder +onlyGivenNames v2
  clear_value v2
  exact .after (kept_evtChanged ..) (.after (kept_put ..) (.after (kept_put ..) (kept_loadR ..)))

theorem kept_trnLoad {st : Bool} (b) : Block.Kept st b (Block.trnLoad b) := by
  unfold Block.trnLoad
  extract_lets -merge -underBinder +onlyGivenNames v1
  have h1 : Block.Kept st b v1 := .after (kept_put ..) (.after (kept_put ..) (.after (kept_put ..) (.after (kept_put ..) (.after (kept_put ..) (kept_put ..)))))
  clear_value v1
  extract_lets -merge -underBinder +onlyGivenNames v2
  have h2 : Block.Kept st b v2 := h1.trans (kept_modTu ..)
  clear_value v2
  exact h2.trans (.forN fun i3 c3 => .after (kept_setR ..) (kept_loadR ..))

theorem kept_regsBoundary {st : Bool} (b) : Block.Kept st b (Block.regsBoundary b) := by
  unfold Block.regsBoundary
  exact .after (.forN fun i3 c3 => (kept_setR ..)) (.after (kept_setR ..) (.after (.forN fun i1 c1 => (.whenA fun c2 => (kept_sailMasks ..))) (.after (kept_evtLoad ..) (kept_trnLoad ..))))

theorem kept_rebind {st : Bool} (x0 x1 b) : Block.Kept st b (Block.rebind x0 x1 b) := by
  unfold Block.rebind
  extract_lets -merge -underBinder +onlyGivenNames v1
  clear_value v1
  refine .forN fun i2 c2 => ?_
  split
  · extract_lets -merge -underBinder +onlyGivenNames v3
    have h3 : Block.Kept st c2 v3 := (.whenA fun c4 => .after (kept_bindRepl ..) (kept_unbindRepl ..))
    clear_value v3
    exact .ite (fun _ => h3.trans (kept_setR ..)) fun _ => h3
  · exact .refl _

theorem kept_loadAll (x0 x1 b) : Block.Kept true b (Block.loadAll x0 x1 b) := by
  unfold Block.loadAll
  extract_lets -merge -underBinder +onlyGivenNames v1
  clear_value v1
  extract_lets -merge -underBinder +onlyGivenNames v2
  have h2 : Block.Kept true b v2 := (.forL fun i3 c3 => (kept_removePart ..))
  clear_value v2
  extract_lets -merge -underBinder +onlyGivenNames v4
  have h4 : Block.Kept true b v4 := h2.trans (.forL fun i5 c5 => (kept_loadMeasured ..))
  clear_value v4
  exact h4.trans (.forL fun i6 c6 => (kept_rebind ..))

theorem kept_switchBoundary (b) : Block.Kept true b (Block.switchBoundary b) := by
  unfold Block.switchBoundary
  extract_lets -merge -underBinder +onlyGivenNames v1
  have h1 : Block.Kept true b v1 := kept_staging ..
  clear_value v1
  split
  · exact .ite (fun _ => .after (kept_setDev ..) (.after (kept_refuseLoad ..) (kept_defaultsFor ..))) fun _ => kept_refuseLoad ..
  · extract_lets -merge -underBinder +onlyGivenNames v2
    have h2 : Block.Kept true b v2 := .refl _
    clear_value v2
    extract_lets -merge -underBinder +onlyGivenNames v3
    have h3 : Block.Kept true b v3 := .after (kept_modTu ..) (.after (kept_regsBoundary ..) (.after (kept_lockBinds ..) (kept_putActive ..)))
    clear_value v3
    exact .after (kept_switched ..) (h3.trans (kept_loadAll ..))

theorem kept_boundaryImage (b) : Block.Kept true b (Block.boundaryImage b) := by
  unfold Block.boundaryImage
  exact .ite (fun _ => kept_switchBoundary ..) fun _ => .ite (fun _ => kept_regsBoundary ..) fun _ => .refl _

theorem kept_govNormal (x0 x1 x2 x3 b) : Block.Kept true b (Block.govNormal x0 x1 x2 x3 b) := by
  unfold Block.govNormal
  extract_lets -merge -underBinder +onlyGivenNames v1
  have h1 : Block.Kept true b v1 := .after (kept_boundaryStart ..) (.after (kept_throttle ..) (kept_boundaryImage ..))
  clear_value v1
  exact h1.trans (.whenA fun c2 => (kept_raise ..))

theorem kept_decideOps {st : Bool} (b) : Block.Kept st b (Block.decideOps b) := by
  unfold Block.decideOps
  exact (.forN fun i1 c1 => .ite (fun _ => kept_applyOp ..) fun _ => .refl _)

theorem kept_govBoundary (x0 x1 x2 b) : Block.Kept true b (Block.govBoundary x0 x1 x2 b) := by
  unfold Block.govBoundary
  extract_lets -merge -underBinder +onlyGivenNames v1
  clear_value v1
  extract_lets -merge -underBinder +onlyGivenNames v2
  have h2 : Block.Kept true b v2 := .ite (fun _ => .after (kept_throttle ..) (kept_stepTurn ..)) fun _ => kept_govNormal ..
  clear_value v2
  exact h2.trans (kept_decideOps ..)

theorem kept_freshTmax {st : Bool} (b) : Block.Kept st b (Block.freshTmax b) := by
  unfold Block.freshTmax
  exact (.of_eq rfl rfl rfl rfl rfl)

theorem kept_boundaryRecover {st : Bool} (x0 b) : Block.Kept st b (Block.boundaryRecover x0 b) := by
  unfold Block.boundaryRecover
  exact .ite (fun _ => .after (kept_note ..) (kept_setDev ..)) fun _ => .refl _

theorem kept_boundaryDebug {st : Bool} (b) : Block.Kept st b (Block.boundaryDebug b) := by
  unfold Block.boundaryDebug
  exact .ite (fun _ => kept_dbgEnd ..) fun _ => .refl _

theorem kept_refreshMirror {st : Bool} (b) : Block.Kept st b (Block.refreshMirror b) := by
  unfold Block.refreshMirror
  exact .ite (fun _ => .refl _) fun _ => (.of_eq rfl rfl rfl rfl rfl)

theorem kept_boundary (x0 x1 x2 x3 b) : Block.Kept true b (Block.boundary x0 x1 x2 x3 b) := by
  unfold Block.boundary
  extract_lets -merge -underBinder +onlyGivenNames v1
  clear_value v1
  extract_lets -merge -underBinder +onlyGivenNames v2
  have h2 : Block.Kept true b v2 := .after (kept_turnFresh ..) (kept_newTurn ..)
  clear_value v2
  extract_lets -merge -underBinder +onlyGivenNames v3
  clear_value v3
  extract_lets -merge -underBinder +onlyGivenNames v4
  have h4 : Block.Kept true b v4 := .after (kept_tokensBoundary ..) (.after (kept_turnCounters ..) (.after (kept_latchEnergy ..) (.after (kept_latchTemp ..) (.after (kept_chargeTurn ..) (.after (kept_countTurn ..) (h2.trans (kept_evtBoundary ..)))))))
  clear_value v4
  extract_lets -merge -underBinder +onlyGivenNames v5
  have h5 : Block.Kept true b v5 := h4.trans (kept_govBoundary ..)
  clear_value v5
  extract_lets -merge -underBinder +onlyGivenNames v6
  have h6 : Block.Kept true b v6 := .after (kept_blocksBoundary ..) (h5.trans (kept_freshTmax ..))
  clear_value v6
  extract_lets -merge -underBinder +onlyGivenNames v7
  have h7 : Block.Kept true b v7 := h6.trans (kept_boundaryRecover ..)
  clear_value v7
  extract_lets -merge -underBinder +onlyGivenNames v8
  have h8 : Block.Kept true b v8 := h7.trans (kept_boundaryDebug ..)
  clear_value v8
  exact .after (kept_refreshMirror ..) (h8.trans (.whenA fun c9 => (kept_shutRails ..)))

theorem kept_protoError (x0 b) : Block.Kept true b (Block.protoError x0 b) := by
  unfold Block.protoError
  split
  · exact kept_sailLost ..
  · exact .refl _

theorem kept_cachingReq (x0 x1 x2 x3 x4 x5 x6 b) : Block.Kept true b (Block.cachingReq x0 x1 x2 x3 x4 x5 x6 b) := by
  unfold Block.cachingReq
  exact .ite (fun _ => .refl _) fun _ => .ite (fun _ => kept_protoError ..) fun _ => kept_arrive ..

theorem kept_copyRange (x0 x1 x2 x3 b) : Block.Kept true b (Block.copyRange x0 x1 x2 x3 b) := by
  unfold Block.copyRange
  refine .forN fun i1 c1 => ?_
  split
  rename_i y2 e2
  have h2 : Block.Kept true c1 y2 := .of_pair e2 (kept_readLine ..)
  clear e2
  exact h2.trans (kept_writeLine ..)

theorem kept_catchCopy (x0 x1 x2 b) : Block.Kept true b (Block.catchCopy x0 x1 x2 b) := by
  unfold Block.catchCopy
  extract_lets -merge -underBinder +onlyGivenNames v1
  clear_value v1
  extract_lets -merge -underBinder +onlyGivenNames v2
  clear_value v2
  exact (.forN fun i3 c3 => .ite (fun _ => .refl _) fun _ => kept_copyRange ..)

theorem kept_writePieces (x0 x1 x2 b) : Block.Kept true b (Block.writePieces x0 x1 x2 b) := by
  induction x1 generalizing x2 b with
  | nil =>
    unfold Block.writePieces
    exact .refl _
  | cons v vs ih =>
    unfold Block.writePieces
    exact .after (ih ..) (kept_writePiece ..)

theorem kept_storePieces (x0 x1 x2 b) : Block.Kept true b (Block.storePieces x0 x1 x2 b) := by
  unfold Block.storePieces
  split
  rename_i y1 e1
  have h1 : Block.Kept true b y1 := .of_pair e1 <| by
    refine .after (.foldl_snd _ _ ?_ _) (.refl _)
    rintro ⟨a2, c2⟩ i2
    split
    rename_i y3 e3
    have h3 : Block.Kept true c2 y3 := .of_pair e3 (kept_ownPiece ..)
    clear e3
    exact h3
  clear e1
  exact .ite (fun _ => h1.trans (kept_writePieces ..)) fun _ => h1

theorem kept_dropLine (x0 x1 b) : Block.Kept true b (Block.dropLine x0 x1 b) := by
  unfold Block.dropLine
  refine .ite (fun _ => ?_) fun _ => ?_
  · exact .refl _
  · extract_lets -merge -underBinder +onlyGivenNames v1
    have h1 : Block.Kept true b v1 := kept_calm ..
    clear_value v1
    extract_lets -merge -underBinder +onlyGivenNames v2
    have h2 : Block.Kept true b v2 := h1.trans (kept_leave ..)
    clear_value v2
    exact h2.trans (kept_landF ..)

theorem kept_purgeLine (x0 b) : Block.Kept true b (Block.purgeLine x0 b) := by
  unfold Block.purgeLine
  extract_lets -merge -underBinder +onlyGivenNames v1
  have h1 : Block.Kept true b v1 := kept_calm ..
  clear_value v1
  exact h1.trans (.forN fun i2 c2 => .after (.whenA fun c4 => (kept_record ..)) (.whenA fun c3 => .after (kept_setL3 ..) (.after (kept_pmu ..) (kept_pmu ..))))

theorem kept_invalLine (x0 b) : Block.Kept true b (Block.invalLine x0 b) := by
  unfold Block.invalLine
  exact kept_purgeLine ..

theorem kept_cbo (x0 x1 x2 x3 b) : Block.Kept true b (Block.cbo x0 x1 x2 x3 b) := by
  unfold Block.cbo
  extract_lets -merge -underBinder +onlyGivenNames v1
  clear_value v1
  split
  · rename_i y2 e2
    have h2 : Block.Kept true b y2 := .of_pair e2 (kept_translate ..)
    clear e2
    exact h2.trans (kept_except ..)
  · rename_i y3 e3
    have h3 : Block.Kept true b y3 := .of_pair e3 (kept_translate ..)
    clear e3
    refine .ite (fun _ => ?_) fun _ => ?_
    · exact h3.trans (kept_hartAccessErr ..)
    · split
      · exact .ite (fun _ => h3.trans (kept_storePieces ..)) fun _ => .ite (fun _ => h3.trans (kept_hartAccessErr ..)) fun _ => h3.trans (kept_except ..)
      · exact .ite (fun _ => .after (.forN fun i4 c4 => (kept_cleanLine ..)) (h3.trans (kept_calm ..))) fun _ => h3
      · exact .ite (fun _ => h3) fun _ => .ite (fun _ => h3.trans (.forN fun i5 c5 => (kept_dropLine ..))) fun _ => h3.trans (kept_invalLine ..)
      · exact .ite (fun _ => h3.trans (.forN fun i6 c6 => (kept_dropLine ..))) fun _ => h3

theorem kept_incBy {st : Bool} (x0 x1 x2 x3 x4 b) : Block.Kept st b (Block.incBy x0 x1 x2 x3 x4 b) := by
  unfold Block.incBy
  exact kept_put ..

theorem kept_chargeTile {st : Bool} (x0 x1 x2 x3 b) : Block.Kept st b (Block.chargeTile x0 x1 x2 x3 b) := by
  unfold Block.chargeTile
  extract_lets -merge -underBinder +onlyGivenNames v1
  have h1 : Block.Kept st b v1 := .after (kept_charge ..) (kept_incBy ..)
  clear_value v1
  exact .ite (fun _ => h1) fun _ => .after (kept_noteOnce ..) (h1.trans (kept_put ..))

theorem kept_modRun {st : Bool} (x0 x1 x2 x3 b) : Block.Kept st b (Block.modRun x0 x1 x2 x3 b) := by
  unfold Block.modRun
  exact kept_modMst ..

theorem kept_chooseWork {st : Bool} (x0 x1 b) : Block.Kept st b (Block.chooseWork x0 x1 b) := by
  unfold Block.chooseWork
  refine .ite (fun _ => ?_) fun _ => ?_
  · exact .refl _
  · extract_lets -merge -underBinder +onlyGivenNames v1
    clear_value v1
    split
    · exact .refl _
    · split
      · exact .refl _
      · exact .after (kept_modMst ..) (kept_modRun ..)

theorem kept_gateway {st : Bool} (x0 b) : Block.Kept st b (Block.gateway x0 b) := by
  unfold Block.gateway
  extract_lets -merge -underBinder +onlyGivenNames v1
  clear_value v1
  extract_lets -merge -underBinder +onlyGivenNames v2
  clear_value v2
  refine .ite (fun _ => ?_) fun _ => ?_
  · exact .refl _
  · extract_lets -merge -underBinder +onlyGivenNames v3
    have h3 : Block.Kept st b v3 := kept_modSlc ..
    clear_value v3
    refine .ite (fun _ => ?_) fun _ => ?_
    · extract_lets -merge -underBinder +onlyGivenNames v4
      clear_value v4
      extract_lets -merge -underBinder +onlyGivenNames v5
      clear_value v5
      refine .ite (fun _ => ?_) fun _ => ?_
      · exact h3
      · split
        · exact h3.trans (kept_forwardTo ..)
        · exact h3
    · refine .ite (fun _ => ?_) fun _ => ?_
      · refine .after (.forL fun i6 c6 => ?_) h3
        split
        · exact kept_forwardTo ..
        · exact .refl _
      · exact h3

theorem kept_toService {st : Bool} (x0 x1 b) : Block.Kept st b (Block.toService x0 x1 b) := by
  unfold Block.toService
  extract_lets -merge -underBinder +onlyGivenNames v1
  have h1 : Block.Kept st b v1 := kept_emit ..
  clear_value v1
  exact .ite (fun _ => h1.trans (kept_gateway ..)) fun _ => h1

theorem kept_flowMiss {st : Bool} (x0 b) : Block.Kept st b (Block.flowMiss x0 b) := by
  unfold Block.flowMiss
  exact .ite (fun _ => kept_toService ..) fun _ => .refl _

theorem kept_useFlow {st : Bool} (x0 b) : Block.Kept st b (Block.useFlow x0 b) := by
  unfold Block.useFlow
  exact .after (kept_modFlow ..) (kept_modSlc ..)

theorem kept_flowChecks {st : Bool} (x0 x1 b) : Block.Kept st b (Block.flowChecks x0 x1 b).2 := by
  unfold Block.flowChecks
  split
  · exact .refl _
  · extract_lets -merge -underBinder +onlyGivenNames v1
    clear_value v1
    extract_lets -merge -underBinder +onlyGivenNames v2
    clear_value v2
    refine .iteP (fun _ => ?_) fun _ => ?_
    · exact .snd (kept_flowDrop ..)
    · refine .iteP (fun _ => ?_) fun _ => ?_
      · exact .snd (kept_flowDrop ..)
      · extract_lets -merge -underBinder +onlyGivenNames v3
        clear_value v3
        extract_lets -merge -underBinder +onlyGivenNames v4
        have h4 : Block.Kept st b v4 := kept_modFlow ..
        clear_value v4
        refine .iteP (fun _ => ?_) fun _ => ?_
        · exact .snd (h4.trans (kept_flowDrop ..))
        · refine .iteP (fun _ => ?_) fun _ => ?_
          · exact h4
          · extract_lets -merge -underBinder +onlyGivenNames v5
            clear_value v5
            extract_lets -merge -underBinder +onlyGivenNames v6
            clear_value v6
            split
            · exact .snd (h4.trans (kept_modFlow ..))
            · extract_lets -merge -underBinder +onlyGivenNames v7
              have h7 : Block.Kept st b v7 := h4.trans (kept_modFlow ..)
              clear_value v7
              exact .iteP (fun _ => h7) fun _ => .snd (h7.trans (kept_modFlow ..))

theorem kept_toQueue (x0 x1 x2 x3 b) : Block.Kept true b (Block.toQueue x0 x1 x2 x3 b).2 := by
  unfold Block.toQueue
  split
  · rename_i y1 e1
    have h1 : Block.Kept true b y1 := .of_pair e1 (.iteP (fun _ => kept_fetchOne ..) fun _ => .refl _)
    clear e1
    exact h1
  · rename_i y2 e2
    have h2 : Block.Kept true b y2 := .of_pair e2 (.iteP (fun _ => kept_fetchOne ..) fun _ => .refl _)
    clear e2
    exact .snd (h2.trans (kept_modInst ..))

theorem kept_runFlow (x0 x1 b) : Block.Kept true b (Block.runFlow x0 x1 b) := by
  unfold Block.runFlow
  extract_lets -merge -underBinder +onlyGivenNames v1
  have h1 : Block.Kept true b v1 := kept_useFlow ..
  clear_value v1
  split
  · rename_i y2 e2
    have h2 : Block.Kept true b y2 := .of_pair e2 (h1.trans (kept_flowChecks ..))
    clear e2
    exact h2
  · rename_i y3 e3
    have h3 : Block.Kept true b y3 := .of_pair e3 (h1.trans (kept_flowChecks ..))
    clear e3
    split
    · exact h3
    · split
      · exact h3.trans (kept_actWindow ..)
      · split
        · rename_i y4 e4
          have h4 : Block.Kept true b y4 := .of_pair e4 (h3.trans (kept_toQueue ..))
          clear e4
          exact h4.trans (kept_flowTaken ..)
        · rename_i y5 e5
          have h5 : Block.Kept true b y5 := .of_pair e5 (h3.trans (kept_toQueue ..))
          clear e5
          exact h5
      · exact h3.trans (kept_actForward ..)
      · exact .after (kept_toService ..) (h3.trans (kept_flowTaken ..))
      · exact h3.trans (kept_flowDrop ..)

theorem kept_classify (x0 b) : Block.Kept true b (Block.classify x0 b) := by
  unfold Block.classify
  extract_lets -merge -underBinder +onlyGivenNames v1
  subst v1
  split
  · exact kept_flowMiss ..
  · refine .ite (fun _ => ?_) fun _ => ?_
    · exact kept_modSlc ..
    · split
      · exact kept_runFlow ..
      · exact kept_modSlc ..

theorem kept_cleanOver (x0 b) : Block.Kept true b (Block.cleanOver x0 b) := by
  unfold Block.cleanOver
  exact .after (kept_cleanOn ..) (.of_eq rfl rfl rfl rfl rfl)

end Sys2Proof.Machine
end

