-- ==== Sys2Proof/Laws/KeptOps7.lean ====
section
/-! SUPPORT. One lemma for each shared operation: what it keeps (canonical memory, fuses, the first faults, and DRAM where it stores nothing). -/

namespace Sys2Proof.Machine

theorem kept_pnCheck {st : Bool} (x0 b) : Block.Kept st b (Block.pnCheck x0 b) := by
  unfold Block.pnCheck
  exact .ite (fun _ => kept_startKeys ..) fun _ => .refl _

theorem kept_transmit (x0 b) : Block.Kept true b (Block.transmit x0 b).2 := by
  unfold Block.transmit
  extract_lets -merge -underBinder +onlyGivenNames v1
  clear_value v1
  extract_lets -merge -underBinder +onlyGivenNames v2
  clear_value v2
  extract_lets -merge -underBinder +onlyGivenNames v3
  clear_value v3
  split
  · exact .refl _
  · refine .iteP (fun _ => ?_) fun _ => ?_
    · exact .refl _
    · refine .iteP (fun _ => ?_) fun _ => ?_
      · exact .snd (kept_cnt ..)
      · split
        · rename_i y4 e4
          have h4 : Block.Kept true b y4 := .of_pair e4 (kept_instRead ..)
          clear e4
          exact h4
        · rename_i y5 e5
          have h5 : Block.Kept true b y5 := .of_pair e5 (kept_instRead ..)
          clear e5
          exact .snd (.after (kept_pnCheck ..) (h5.trans (kept_offerSack ..)))

theorem kept_complete_tail (w : Work) (b : Block) : Block.Kept true b (match w.rx with
  | none =>
    let (st, b) := b.transmit w
    b.descDone w [(2, doneWord st)]
  | some (x, port) =>
    let cap := dLen w
    let v := x.payload.take cap
    let (ok, b) := b.instWrite w.inst (ctxF w.words 0 0 47) v
    let st := if !ok then 2 else if cap < x.payload.length then 1 else 0
    b.descDone w [(1, v.length + x.src * 2 ^ 14 + x.vl * 2 ^ 26 + x.kind * 2 ^ 28 + x.stream * 2 ^ 32 + port * 2 ^ 48), (2, doneWord st)]) := by
  split
  · split
    rename_i y1 e1
    have h1 : Block.Kept true b y1 := .of_pair e1 (kept_transmit ..)
    clear e1
    exact h1.trans (kept_descDone ..)
  · extract_lets -merge -underBinder +onlyGivenNames v2
    clear_value v2
    extract_lets -merge -underBinder +onlyGivenNames v3
    clear_value v3
    split
    rename_i y4 e4
    have h4 : Block.Kept true b y4 := .of_pair e4 (kept_instWrite ..)
    clear e4
    extract_lets -merge -underBinder +onlyGivenNames v5
    clear_value v5
    exact h4.trans (kept_descDone ..)

theorem kept_complete (x0 b) : Block.Kept true b (Block.complete x0 b) := by
  exact .trans (((kept_modSlc ..).trans (kept_showOcc ..))) (kept_complete_tail x0 _)

theorem kept_mstCharge {st : Bool} (x0 x1 x2 x3 x4 b) : Block.Kept st b (Block.mstCharge x0 x1 x2 x3 x4 b) := by
  unfold Block.mstCharge
  exact .ite (fun _ => .refl _) fun _ => (.forN fun i1 c1 => (kept_takeTokens ..))

theorem kept_mstRead (x0 x1 x2 x3 b) : Block.Kept true b (Block.mstRead x0 x1 x2 x3 b).2 := by
  unfold Block.mstRead
  refine .iteP (fun _ => ?_) fun _ => ?_
  · exact .refl _
  · split
    rename_i y1 e1
    have h1 : Block.Kept true b y1 := .of_pair e1 (.after (kept_readBytes ..) (kept_mstCharge ..))
    clear e1
    exact h1

theorem kept_readElems (x0 x1 x2 x3 x4 x5 b) : Block.Kept true b (Block.readElems x0 x1 x2 x3 x4 x5 b).2 := by
  unfold Block.readElems
  extract_lets -merge -underBinder +onlyGivenNames v1
  clear_value v1
  extract_lets -merge -underBinder +onlyGivenNames v2
  clear_value v2
  extract_lets -merge -underBinder +onlyGivenNames v3
  clear_value v3
  split
  rename_i y4 e4
  have h4 : Block.Kept true b y4 := .of_pair e4 (kept_mstRead ..)
  clear e4
  extract_lets -merge -underBinder +onlyGivenNames v5
  clear_value v5
  exact h4

theorem kept_rightCol (x0 x1 x2 x3 b) : Block.Kept true b (Block.rightCol x0 x1 x2 x3 b).2 := by
  unfold Block.rightCol
  extract_lets -merge -underBinder +onlyGivenNames v1
  clear_value v1
  refine .iteP (fun _ => ?_) fun _ => ?_
  · refine .after (.foldl_snd _ _ ?_ _) (.refl _)
    rintro ⟨a2, c2⟩ i2
    split
    rename_i y3 e3
    have h3 : Block.Kept true c2 y3 := .of_pair e3 (kept_readElems ..)
    clear e3
    exact h3
  · extract_lets -merge -underBinder +onlyGivenNames v4
    clear_value v4
    refine .after (.foldl_snd _ _ ?_ _) (.refl _)
    rintro ⟨a5, c5⟩ i5
    split
    rename_i y6 e6
    have h6 : Block.Kept true c5 y6 := .of_pair e6 (kept_readElems ..)
    clear e6
    exact h6

theorem kept_leftRow (x0 x1 x2 x3 b) : Block.Kept true b (Block.leftRow x0 x1 x2 x3 b).2 := by
  unfold Block.leftRow
  extract_lets -merge -underBinder +onlyGivenNames v1
  clear_value v1
  refine .iteP (fun _ => ?_) fun _ => ?_
  · exact kept_readElems ..
  · extract_lets -merge -underBinder +onlyGivenNames v2
    clear_value v2
    extract_lets -merge -underBinder +onlyGivenNames v3
    clear_value v3
    extract_lets -merge -underBinder +onlyGivenNames v4
    clear_value v4
    refine .after (.foldl_snd _ _ ?_ _) (.refl _)
    rintro ⟨a5, c5⟩ i5
    extract_lets -merge -underBinder +onlyGivenNames v6
    clear_value v6
    extract_lets -merge -underBinder +onlyGivenNames v7
    clear_value v7
    refine .iteP (fun _ => ?_) fun _ => ?_
    · exact .refl _
    · split
      rename_i y8 e8
      have h8 : Block.Kept true c5 y8 := .of_pair e8 (kept_readElems ..)
      clear e8
      exact h8

theorem kept_mstWrite (x0 x1 x2 x3 x4 b) : Block.Kept true b (Block.mstWrite x0 x1 x2 x3 x4 b) := by
  unfold Block.mstWrite
  exact .ite (fun _ => kept_scrWrite ..) fun _ => .after (kept_writeBytesF ..) (kept_mstCharge ..)

theorem kept_computeBlock (x0 x1 x2 x3 b) : Block.Kept true b (Block.computeBlock x0 x1 x2 x3 b).2 := by
  unfold Block.computeBlock
  refine .snd ?_
  refine .trans ?_ (.foldl _ _ (fun c13 i13 => (kept_mstWrite ..)) _)
  refine .after (.foldl_snd _ _ ?_ _) ?_
  · rintro ⟨a5, c5⟩ i5
    split
    rename_i y6 e6
    have h6 : Block.Kept true c5 y6 := .of_pair e6 (kept_leftRow ..)
    clear e6
    split
    rename_i y7 e7
    have h7 : Block.Kept true c5 y7 := .of_pair e7 (.iteP (fun _ => h6.trans (kept_readElems ..)) fun _ => h6)
    clear e7
    extract_lets -merge -underBinder +onlyGivenNames v8
    clear_value v8
    extract_lets -merge -underBinder +onlyGivenNames v9
    clear_value v9
    extract_lets -merge -underBinder +onlyGivenNames v10
    clear_value v10
    extract_lets -merge -underBinder +onlyGivenNames v11
    clear_value v11
    extract_lets -merge -underBinder +onlyGivenNames v12
    clear_value v12
    exact h7
  · refine .snd ?_
    refine .iteP (fun _ => ?_) fun _ => ?_
    · refine .trans ?_ (kept_readElems ..)
      refine .after (.foldl_snd _ _ ?_ _) (.refl _)
      rintro ⟨a1, c1⟩ i1
      split
      rename_i y2 e2
      have h2 : Block.Kept true c1 y2 := .of_pair e2 (kept_rightCol ..)
      clear e2
      exact h2
    · refine .snd ?_
      refine .after (.foldl_snd _ _ ?_ _) (.refl _)
      rintro ⟨a3, c3⟩ i3
      split
      rename_i y4 e4
      have h4 : Block.Kept true c3 y4 := .of_pair e4 (kept_rightCol ..)
      clear e4
      exact h4

theorem kept_copyRow (x0 x1 x2 x3 x4 x5 b) : Block.Kept true b (Block.copyRow x0 x1 x2 x3 x4 x5 b).2 := by
  induction x2 generalizing x3 x4 x5 b with
  | zero =>
    unfold Block.copyRow
    exact .refl _
  | succ n ih =>
    unfold Block.copyRow
    refine .iteP (fun _ => ?_) fun _ => ?_
    · exact .refl _
    · extract_lets -merge -underBinder +onlyGivenNames v1
      clear_value v1
      split
      rename_i y2 e2
      have h2 : Block.Kept true b y2 := .of_pair e2 (kept_mstRead ..)
      clear e2
      extract_lets -merge -underBinder +onlyGivenNames v3
      have h3 : Block.Kept true b v3 := h2.trans (kept_mstWrite ..)
      clear_value v3
      exact .iteP (fun _ => h3) fun _ => h3.trans (ih ..)

theorem kept_copyRows (x0 x1 x2 x3 x4 b) : Block.Kept true b (Block.copyRows x0 x1 x2 x3 x4 b).2 := by
  induction x3 generalizing x4 b with
  | zero =>
    unfold Block.copyRows
    exact .refl _
  | succ n ih =>
    unfold Block.copyRows
    extract_lets -merge -underBinder +onlyGivenNames v1
    clear_value v1
    split
    rename_i y2 e2
    have h2 : Block.Kept true b y2 := .of_pair e2 (kept_copyRow ..)
    clear e2
    exact .iteP (fun _ => h2) fun _ => h2.trans (ih ..)

theorem kept_poisonLine {st : Bool} (x0 x1 b) : Block.Kept st b (Block.poisonLine x0 x1 b) := by
  unfold Block.poisonLine
  extract_lets -merge -underBinder +onlyGivenNames v1
  clear_value v1
  exact .after (kept_note ..) (.after (kept_put ..) (.whenA fun c2 => (kept_setL3 ..)))

theorem kept_coreStop {st : Bool} (x0 x1 x2 b) : Block.Kept st b (Block.coreStop x0 x1 x2 b) := by
  unfold Block.coreStop
  extract_lets -merge -underBinder +onlyGivenNames v1
  clear_value v1
  extract_lets -merge -underBinder +onlyGivenNames v2
  clear_value v2
  extract_lets -merge -underBinder +onlyGivenNames v3
  clear_value v3
  extract_lets -merge -underBinder +onlyGivenNames v4
  have h4 : Block.Kept st b v4 := .after (kept_raise ..) (.after (kept_put ..) (.after (kept_put ..) (.after (kept_modHart ..) (.forL fun i5 c5 => (kept_poisonLine ..)))))
  clear_value v4
  exact .after (.forL fun i6 c6 => (kept_replLost ..)) (h4.trans (kept_freeLocks ..))

theorem kept_coreFail {st : Bool} (x0 x1 b) : Block.Kept st b (Block.coreFail x0 x1 b) := by
  unfold Block.coreFail
  exact .ite (fun _ => .refl _) fun _ => kept_coreStop ..

theorem kept_tagDone {st : Bool} (x0 x1 b) : Block.Kept st b (Block.tagDone x0 x1 b) := by
  unfold Block.tagDone
  split
  · exact .after (kept_emit ..) (kept_emit ..)
  · exact .after (kept_emit ..) (kept_emit ..)

theorem kept_crsDone {st : Bool} (x0 b) : Block.Kept st b (Block.crsDone x0 b) := by
  unfold Block.crsDone
  exact kept_tagDone ..

theorem kept_illegal {st : Bool} (x0 b) : Block.Kept st b (Block.illegal x0 b) := by
  unfold Block.illegal
  exact kept_takeTrap ..

theorem kept_sealHart {st : Bool} (x0 x1 x2 b) : Block.Kept st b (Block.sealHart x0 x1 x2 b) := by
  unfold Block.sealHart
  extract_lets -merge -underBinder +onlyGivenNames v1
  subst v1
  extract_lets -merge -underBinder +onlyGivenNames v2
  have h2 : Block.Kept st b v2 := kept_modHart ..
  clear_value v2
  exact .ite (fun _ => .after (kept_modRepl ..) (h2.trans (kept_squashRepl ..))) fun _ => h2

theorem kept_csrAccess {st : Bool} (x0 x1 x2 x3 x4 b) : Block.Kept st b (Block.csrAccess x0 x1 x2 x3 x4 b) := by
  unfold Block.csrAccess
  extract_lets -merge -underBinder +onlyGivenNames v1
  clear_value v1
  split
  · exact kept_except ..
  · extract_lets -merge -underBinder +onlyGivenNames v2
    clear_value v2
    extract_lets -merge -underBinder +onlyGivenNames v3
    clear_value v3
    refine .ite (fun _ => ?_) fun _ => ?_
    · split
      · exact kept_illegal ..
      · exact .after (.whenA fun c4 => (kept_sealHart ..)) (kept_setX ..)
    · exact .after (kept_setX ..) (.after (.whenA fun c6 => (kept_tickFree ..)) (.whenA fun c5 => (kept_csrPut ..)))

theorem kept_noLink {st : Bool} (x0 b) : Block.Kept st b (Block.noLink x0 b) := by
  unfold Block.noLink
  exact .after (kept_put ..) (.after (kept_put ..) (.after (kept_put ..) (kept_modSub ..)))

theorem kept_linkGone (x0 b) : Block.Kept true b (Block.linkGone x0 b) := by
  unfold Block.linkGone
  extract_lets -merge -underBinder +onlyGivenNames v1
  have h1 : Block.Kept true b v1 := kept_noLink ..
  clear_value v1
  refine .ite (fun _ => ?_) fun _ => ?_
  · exact h1
  · extract_lets -merge -underBinder +onlyGivenNames v2
    have h2 : Block.Kept true b v2 := .after (kept_modSub ..) (h1.trans (kept_modPci ..))
    clear_value v2
    exact h2.trans (.forN fun i3 c3 => (.whenA fun c4 => (kept_resetInst ..)))

theorem kept_subDown (x0 b) : Block.Kept true b (Block.subDown x0 b) := by
  unfold Block.subDown
  extract_lets -merge -underBinder +onlyGivenNames v1
  have h1 : Block.Kept true b v1 := .after (kept_linkGone ..) (.after (kept_dropTags ..) (kept_errTags ..))
  clear_value v1
  exact .after (kept_setR ..) (h1.trans (kept_modSub ..))

theorem kept_cutPower (b) : Block.Kept true b (Block.cutPower b) := by
  unfold Block.cutPower
  exact .after (.forN fun i2 c2 => (kept_subDown ..)) (.after (.forN fun i1 c1 => (kept_toOff ..)) (.of_eq rfl rfl rfl rfl rfl))

theorem kept_sendCodeword {st : Bool} (x0 x1 x2 b) : Block.Kept st b (Block.sendCodeword x0 x1 x2 b) := by
  unfold Block.sendCodeword
  extract_lets -merge -underBinder +onlyGivenNames v1
  clear_value v1
  exact .after (kept_modPort ..) (kept_emit ..)

theorem kept_dataCodeword {st : Bool} (x0 b) : Block.Kept st b (Block.dataCodeword x0 b) := by
  unfold Block.dataCodeword
  extract_lets -merge -underBinder +onlyGivenNames v1
  clear_value v1
  extract_lets -merge -underBinder +onlyGivenNames v2
  clear_value v2
  extract_lets -merge -underBinder +onlyGivenNames v3
  clear_value v3
  extract_lets -merge -underBinder +onlyGivenNames v4
  clear_value v4
  extract_lets -merge -underBinder +onlyGivenNames v5
  have h5 : Block.Kept st b v5 := .after (kept_sendCodeword ..) (kept_modPort ..)
  clear_value v5
  exact .ite (fun _ => h5) fun _ => h5.trans (kept_sendAm ..)

theorem kept_govPost {st : Bool} (x0 x1 x2 b) : Block.Kept st b (Block.govPost x0 x1 x2 b) := by
  unfold Block.govPost
  exact .after (kept_postHeld ..) (.of_eq rfl rfl rfl rfl rfl)

theorem kept_dictReply {st : Bool} (x0 x1 x2 x3 b) : Block.Kept st b (Block.dictReply x0 x1 x2 x3 b) := by
  unfold Block.dictReply
  split
  · exact kept_offerSack ..
  · exact kept_govPost ..
  · exact .refl _

theorem kept_dictRequest (x0 x1 x2 x3 x4 b) : Block.Kept true b (Block.dictRequest x0 x1 x2 x3 x4 b) := by
  unfold Block.dictRequest
  extract_lets -merge -underBinder +onlyGivenNames v1
  clear_value v1
  refine .ite (fun _ => ?_) fun _ => ?_
  · exact .refl _
  · extract_lets -merge -underBinder +onlyGivenNames v2
    clear_value v2
    extract_lets -merge -underBinder +onlyGivenNames v3
    have h3 : Block.Kept true b v3 := .ite (fun _ => kept_ack ..) fun _ => .refl _
    clear_value v3
    split
    · rename_i y4 e4
      have h4 : Block.Kept true b y4 := .of_pair e4 (h3.trans (kept_dictMsg ..))
      clear e4
      exact h4
    · rename_i y5 e5
      have h5 : Block.Kept true b y5 := .of_pair e5 (h3.trans (kept_dictMsg ..))
      clear e5
      exact .after (kept_emit ..) (h5.trans (kept_dictReply ..))

theorem kept_digestInput (x0 x1 x2 b) : Block.Kept true b (Block.digestInput x0 x1 x2 b).2 := by
  unfold Block.digestInput
  extract_lets -merge -underBinder +onlyGivenNames v1
  clear_value v1
  extract_lets -merge -underBinder +onlyGivenNames v2
  clear_value v2
  refine .after (.foldl_snd _ _ ?_ _) (.refl _)
  rintro ⟨a3, c3⟩ i3
  extract_lets -merge -underBinder +onlyGivenNames v4
  clear_value v4
  extract_lets -merge -underBinder +onlyGivenNames v5
  clear_value v5
  refine .iteP (fun _ => ?_) fun _ => ?_
  · exact .refl _
  · split
    rename_i y6 e6
    have h6 : Block.Kept true c3 y6 := .of_pair e6 (kept_readBytes ..)
    clear e6
    exact h6

theorem kept_modNet {st : Bool} (x0 b) : Block.Kept st b (Block.modNet x0 b) := by
  unfold Block.modNet
  exact (.of_eq rfl rfl rfl rfl rfl)

theorem kept_drainCheck {st : Bool} (b) : Block.Kept st b (Block.drainCheck b) := by
  unfold Block.drainCheck
  exact .ite (fun _ => kept_modNet ..) fun _ => .refl _

theorem kept_drained {st : Bool} (x0 b) : Block.Kept st b (Block.drained x0 b) := by
  unfold Block.drained
  exact kept_put ..

theorem kept_repairCopy (x0 x1 x2 x3 x4 b) : Block.Kept true b (Block.repairCopy x0 x1 x2 x3 x4 b) := by
  unfold Block.repairCopy
  extract_lets -merge -underBinder +onlyGivenNames v1
  clear_value v1
  exact .after (kept_elogEntry ..) (.after (kept_note ..) (.after (kept_inc ..) (.after (kept_setCopyPoison ..) (.after (kept_setCopyErrs ..) (kept_storeLine ..)))))

theorem kept_dressLine (x0 x1 x2 b) : Block.Kept true b (Block.dressLine x0 x1 x2 b) := by
  unfold Block.dressLine
  extract_lets -merge -underBinder +onlyGivenNames v1
  clear_value v1
  extract_lets -merge -underBinder +onlyGivenNames v2
  clear_value v2
  extract_lets -merge -underBinder +onlyGivenNames v3
  subst v3
  extract_lets -merge -underBinder +onlyGivenNames v4
  subst v4
  extract_lets -merge -underBinder +onlyGivenNames v5
  clear_value v5
  extract_lets -merge -underBinder +onlyGivenNames v6
  subst v6
  extract_lets -merge -underBinder +onlyGivenNames v7
  subst v7
  refine .ite (fun _ => ?_) fun _ => ?_
  · exact kept_repairCopy ..
  · refine .ite (fun _ => ?_) fun _ => ?_
    · exact kept_repairCopy ..
    · refine .trans ?_ (.whenA fun c9 => (kept_emit ..))
      refine .trans ?_ (.whenA fun c8 => ?_)
      · dsimp -zeta only
        split
        · exact kept_mcCorrected ..
        · exact kept_mcUncorrectable ..
        · exact .refl _
      · dsimp -zeta only
        split
        · exact kept_mcCorrected ..
        · exact kept_mcUncorrectable ..
        · exact .refl _

theorem kept_dropAt {st : Bool} (x0 b) : Block.Kept st b (Block.dropAt x0 b) := by
  unfold Block.dropAt
  split
  · exact .refl _
  · extract_lets -merge -underBinder +onlyGivenNames v1
    clear_value v1
    exact .after (kept_drained ..) (.after (kept_takeFlight ..) (.of_eq rfl rfl rfl rfl rfl))

theorem kept_dropFlit {st : Bool} (x0 b) : Block.Kept st b (Block.dropFlit x0 b) := by
  unfold Block.dropFlit
  exact (.whenA fun c1 => (kept_takeFlight ..))

theorem kept_dropKeys {st : Bool} (x0 b) : Block.Kept st b (Block.dropKeys x0 b) := by
  unfold Block.dropKeys
  exact kept_modPort ..

theorem kept_nextWait {st : Bool} (x0 b) : Block.Kept st b (Block.nextWait x0 b) := by
  unfold Block.nextWait
  split
  · exact .refl _
  · exact .ite (fun _ => .after (kept_tagIssue ..) (kept_modPci ..)) fun _ => .refl _

theorem kept_dropTag {st : Bool} (x0 x1 b) : Block.Kept st b (Block.dropTag x0 x1 b) := by
  unfold Block.dropTag
  exact .after (kept_showTags ..) (.after (kept_nextWait ..) (kept_modPci ..))

theorem kept_dropUsdo {st : Bool} (x0 x1 b) : Block.Kept st b (Block.dropUsdo x0 x1 b) := by
  unfold Block.dropUsdo
  exact (.of_eq rfl rfl rfl rfl rfl)

theorem kept_dropWrite {st : Bool} (x0 b) : Block.Kept st b (Block.dropWrite x0 b) := by
  unfold Block.dropWrite
  extract_lets -merge -underBinder +onlyGivenNames v1
  subst v1
  exact kept_modCoh ..

theorem kept_egressSacks (x0 x1 b) : Block.Kept true b (Block.egressSacks x0 x1 b).2 := by
  unfold Block.egressSacks
  extract_lets -merge -underBinder +onlyGivenNames v1
  clear_value v1
  extract_lets -merge -underBinder +onlyGivenNames v2
  clear_value v2
  refine .after (.foldl_snd _ _ ?_ _) (.refl _)
  rintro ⟨a3, c3⟩ i3
  extract_lets -merge -underBinder +onlyGivenNames v4
  clear_value v4
  extract_lets -merge -underBinder +onlyGivenNames v5
  have h5 : Block.Kept true c3 v5 := .refl _
  clear_value v5
  extract_lets -merge -underBinder +onlyGivenNames v6
  clear_value v6
  refine .iteP (fun _ => ?_) fun _ => ?_
  · exact .refl _
  · extract_lets -merge -underBinder +onlyGivenNames v7
    clear_value v7
    split
    rename_i y8 e8
    have h8 : Block.Kept true c3 y8 := .of_pair e8 (h5.trans (kept_readBytes ..))
    clear e8
    extract_lets -merge -underBinder +onlyGivenNames v9
    clear_value v9
    extract_lets -merge -underBinder +onlyGivenNames v10
    clear_value v10
    extract_lets -merge -underBinder +onlyGivenNames v11
    clear_value v11
    extract_lets -merge -underBinder +onlyGivenNames v12
    have h12 : Block.Kept true c3 v12 := .ite (fun _ => h8.trans (kept_modFlow ..)) fun _ => h8
    clear_value v12
    exact h12

theorem kept_toLink {st : Bool} (x0 x1 x2 x3 b) : Block.Kept st b (Block.toLink x0 x1 x2 x3 b) := by
  unfold Block.toLink
  extract_lets -merge -underBinder +onlyGivenNames v1
  clear_value v1
  exact kept_modLend ..

theorem kept_pushBridge {st : Bool} (x0 x1 b) : Block.Kept st b (Block.pushBridge x0 x1 b) := by
  unfold Block.pushBridge
  exact kept_modNet ..

theorem kept_landFlit {st : Bool} (x0 b) : Block.Kept st b (Block.landFlit x0 b) := by
  unfold Block.landFlit
  refine .ite (fun _ => ?_) fun _ => ?_
  · exact .refl _
  · extract_lets -merge -underBinder +onlyGivenNames v1
    clear_value v1
    exact kept_modNet ..

theorem kept_eject {st : Bool} (x0 x1 x2 b) : Block.Kept st b (Block.eject x0 x1 x2 b) := by
  unfold Block.eject
  extract_lets -merge -underBinder +onlyGivenNames v1
  have h1 : Block.Kept st b v1 := (.whenA fun c2 => (kept_drained ..))
  clear_value v1
  split
  · exact .ite (fun _ => h1.trans (kept_toLink ..)) fun _ => h1.trans (kept_dropFlit ..)
  · split
    · exact h1.trans (kept_pushBridge ..)
    · exact h1.trans (kept_landFlit ..)

theorem kept_showEng {st : Bool} (b) : Block.Kept st b (Block.showEng b) := by
  unfold Block.showEng
  exact kept_put ..

theorem kept_engStart {st : Bool} (x0 b) : Block.Kept st b (Block.engStart x0 b) := by
  unfold Block.engStart
  refine .ite (fun _ => ?_) fun _ => ?_
  · exact .refl _
  · split
    · exact (.of_eq rfl rfl rfl rfl rfl)
    · exact .refl _

theorem kept_runEngs {st : Bool} (b) : Block.Kept st b (Block.runEngs b) := by
  unfold Block.runEngs
  exact .after (kept_showEng ..) (.forN fun i1 c1 => (kept_engStart ..))

theorem kept_endEng {st : Bool} (x0 b) : Block.Kept st b (Block.endEng x0 b) := by
  unfold Block.endEng
  exact .after (kept_runEngs ..) (.of_eq rfl rfl rfl rfl rfl)

theorem kept_enterHart {st : Bool} (x0 x1 x2 x3 x4 b) : Block.Kept st b (Block.enterHart x0 x1 x2 x3 x4 b) := by
  unfold Block.enterHart
  extract_lets -merge -underBinder +onlyGivenNames v1
  clear_value v1
  extract_lets -merge -underBinder +onlyGivenNames v2
  clear_value v2
  extract_lets -merge -underBinder +onlyGivenNames v3
  clear_value v3
  extract_lets -merge -underBinder +onlyGivenNames v4
  subst v4
  extract_lets -merge -underBinder +onlyGivenNames v5
  have h5 : Block.Kept st b v5 := kept_modHart ..
  clear_value v5
  exact .after (kept_setCsr ..) (.after (.forL fun i6 c6 => (kept_setCsr ..)) (h5.trans (kept_setCsr ..)))

theorem kept_enterHoldover {st : Bool} (b) : Block.Kept st b (Block.enterHoldover b) := by
  unfold Block.enterHoldover
  exact .ite (fun _ => .refl _) fun _ => .after (kept_note ..) (.after (kept_modTu ..) (.after (kept_put ..) (.after (kept_put ..) (kept_put ..))))

theorem kept_enterRepl {st : Bool} (x0 x1 b) : Block.Kept st b (Block.enterRepl x0 x1 b) := by
  unfold Block.enterRepl
  extract_lets -merge -underBinder +onlyGivenNames v1
  clear_value v1
  extract_lets -merge -underBinder +onlyGivenNames v2
  have h2 : Block.Kept st b v2 := (.foldl _ _ (fun c3 i3 => (kept_enterHart ..)) _)
  clear_value v2
  extract_lets -merge -underBinder +onlyGivenNames v4
  have h4 : Block.Kept st b v4 := by
    unfold v4
    split
    · exact h2.trans (kept_mstEnter ..)
    · exact h2
  clear_value v4
  exact h4.trans (kept_modRepl ..)

theorem kept_evtDeliver {st : Bool} (x0 x1 b) : Block.Kept st b (Block.evtDeliver x0 x1 b) := by
  unfold Block.evtDeliver
  exact .ite (fun _ => kept_modEvt ..) fun _ => .after (kept_sendMsi ..) (kept_modEvt ..)

theorem kept_evtEvent {st : Bool} (x0 b) : Block.Kept st b (Block.evtEvent x0 b) := by
  unfold Block.evtEvent
  extract_lets -merge -underBinder +onlyGivenNames v1
  clear_value v1
  extract_lets -merge -underBinder +onlyGivenNames v2
  have h2 : Block.Kept st b v2 := kept_modEvt ..
  clear_value v2
  extract_lets -merge -underBinder +onlyGivenNames v3
  clear_value v3
  exact .ite (fun _ => .ite (fun _ => h2.trans (kept_evtDeliver ..)) fun _ => .ite (fun _ => h2.trans (kept_modEvt ..)) fun _ => .after (kept_note ..) (.after (kept_inc ..) (h2.trans (kept_put ..)))) fun _ => h2

theorem kept_fRated {st : Bool} (b) : Block.Kept st b (Block.fRated b) := by
  unfold Block.fRated
  exact (.forN fun i1 c1 => (.forN fun i2 c2 => (kept_put ..)))

theorem kept_mstFail {st : Bool} (x0 x1 x2 x3 x4 b) : Block.Kept st b (Block.mstFail x0 x1 x2 x3 x4 b) := by
  unfold Block.mstFail
  extract_lets -merge -underBinder +onlyGivenNames v1
  clear_value v1
  exact .after (kept_raise ..) (.after (kept_mstBusy ..) (.after (kept_dropRuns ..) (kept_modMq ..)))

theorem kept_failHead {st : Bool} (x0 x1 b) : Block.Kept st b (Block.failHead x0 x1 b) := by
  unfold Block.failHead
  split
  · exact .ite (fun _ => kept_mstFail ..) fun _ => .refl _
  · exact .refl _

theorem kept_fence {st : Bool} (x0 x1 x2 x3 x4 b) : Block.Kept st b (Block.fence x0 x1 x2 x3 x4 b) := by
  unfold Block.fence
  extract_lets -merge -underBinder +onlyGivenNames v1
  clear_value v1
  split
  · exact kept_except ..
  · extract_lets -merge -underBinder +onlyGivenNames v2
    clear_value v2
    extract_lets -merge -underBinder +onlyGivenNames v3
    clear_value v3
    extract_lets -merge -underBinder +onlyGivenNames v4
    clear_value v4
    extract_lets -merge -underBinder +onlyGivenNames v5
    have h5 : Block.Kept st b v5 := kept_applyFence ..
    clear_value v5
    extract_lets -merge -underBinder +onlyGivenNames v6
    clear_value v6
    extract_lets -merge -underBinder +onlyGivenNames v7
    clear_value v7
    refine .ite (fun _ => ?_) fun _ => ?_
    · exact h5.trans (kept_modHart ..)
    · refine .ite (fun _ => ?_) fun _ => ?_
      · exact h5
      · extract_lets -merge -underBinder +onlyGivenNames v8
        clear_value v8
        extract_lets -merge -underBinder +onlyGivenNames v9
        clear_value v9
        extract_lets -merge -underBinder +onlyGivenNames v10
        clear_value v10
        extract_lets -merge -underBinder +onlyGivenNames v11
        clear_value v11
        exact .after (.forL fun i12 c12 => (kept_emit ..)) (h5.trans (kept_modHart ..))

theorem kept_translatePieces (x0 x1 x2 x3 b) : Block.Kept true b (Block.translatePieces x0 x1 x2 x3 b).2 := by
  induction x3 generalizing b with
  | nil =>
    unfold Block.translatePieces
    exact .refl _
  | cons v vs ih =>
    unfold Block.translatePieces
    split
    · rename_i y1 e1
      have h1 : Block.Kept true b y1 := .of_pair e1 (kept_translate ..)
      clear e1
      exact h1
    · rename_i y2 e2
      have h2 : Block.Kept true b y2 := .of_pair e2 (kept_translate ..)
      clear e2
      split
      · rename_i y3 e3
        have h3 : Block.Kept true b y3 := .of_pair e3 (h2.trans (ih ..))
        clear e3
        exact h3
      · rename_i y4 e4
        have h4 : Block.Kept true b y4 := .of_pair e4 (h2.trans (ih ..))
        clear e4
        exact h4

theorem kept_readPieces (x0 x1 x2 b) : Block.Kept true b (Block.readPieces x0 x1 x2 b).2 := by
  induction x2 generalizing b with
  | nil => exact .refl _
  | cons v vs ih =>
    unfold Block.readPieces
    split
    · rename_i y1 e1
      have h1 : Block.Kept true b y1 := .of_pair e1 (kept_readPiece ..)
      split
      · rename_i y2 e2
        exact .snd (.of_pair e2 (h1.trans (ih ..)))
      · exact h1.trans (ih ..)
    · exact kept_readPiece ..

theorem kept_fetch (x0 x1 x2 b) : Block.Kept true b (Block.fetch x0 x1 x2 b) := by
  unfold Block.fetch
  split
  · rename_i y1 e1
    have h1 : Block.Kept true b y1 := .of_pair e1 (kept_translatePieces ..)
    clear e1
    exact h1.trans (kept_except ..)
  · rename_i y2 e2
    have h2 : Block.Kept true b y2 := .of_pair e2 (kept_translatePieces ..)
    clear e2
    split
    · exact .ite (fun _ => h2.trans (kept_except ..)) fun _ => h2.trans (kept_hartAccessErr ..)
    · split
      · rename_i y3 e3
        have h3 : Block.Kept true b y3 := .of_pair e3 (h2.trans (kept_readPieces ..))
        clear e3
        exact h3.trans (kept_emit ..)
      · rename_i y4 e4
        have h4 : Block.Kept true b y4 := .of_pair e4 (h2.trans (kept_readPieces ..))
        clear e4
        exact h4
      · rename_i y5 e5
        have h5 : Block.Kept true b y5 := .of_pair e5 (h2.trans (kept_readPieces ..))
        clear e5
        exact h5.trans (kept_except ..)

theorem kept_takeFrame {st : Bool} (x0 x1 x2 x3 b) : Block.Kept st b (Block.takeFrame x0 x1 x2 x3 b) := by
  unfold Block.takeFrame
  extract_lets -merge -underBinder +onlyGivenNames v1
  have h1 : Block.Kept st b v1 := kept_modLend ..
  clear_value v1
  split
  · exact .ite (fun _ => h1.trans (kept_acceptFlit ..)) fun _ => h1
  · exact h1.trans (kept_modNet ..)

theorem kept_frameArrivals {st : Bool} (x0 b) : Block.Kept st b (Block.frameArrivals x0 b) := by
  unfold Block.frameArrivals
  extract_lets -merge -underBinder +onlyGivenNames v1
  clear_value v1
  extract_lets -merge -underBinder +onlyGivenNames v2
  clear_value v2
  extract_lets -merge -underBinder +onlyGivenNames v3
  clear_value v3
  extract_lets -merge -underBinder +onlyGivenNames v4
  clear_value v4
  extract_lets -merge -underBinder +onlyGivenNames v5
  clear_value v5
  exact .ite (fun _ => .refl _) fun _ => .after (.forL fun i6 c6 => (.whenA fun c7 => (kept_takeFrame ..))) (kept_modLend ..)

theorem kept_freed {st : Bool} (x0 x1 b) : Block.Kept st b (Block.freed x0 x1 b) := by
  unfold Block.freed
  exact .after (kept_pnCheck ..) (.after (kept_drain ..) (kept_put ..))

theorem kept_freezeSub (x0 x1 x2 b) : Block.Kept true b (Block.freezeSub x0 x1 x2 b) := by
  unfold Block.freezeSub
  refine .ite (fun _ => ?_) fun _ => ?_
  · exact .refl _
  · refine .ite (fun _ => ?_) fun _ => ?_
    · extract_lets -merge -underBinder +onlyGivenNames v1
      have h1 : Block.Kept true b v1 := .after (kept_put ..) (kept_errTags ..)
      clear_value v1
      extract_lets -merge -underBinder +onlyGivenNames v2
      have h2 : Block.Kept true b v2 := h1.trans (.whenA fun c3 => (kept_modSub ..))
      clear_value v2
      exact .after (kept_note ..) (h2.trans (.whenA fun c4 => (kept_linkGone ..)))
    · exact .ite (fun _ => (.whenA fun c5 => (kept_linkGone ..))) fun _ => .refl _

theorem kept_giveUpCatch {st : Bool} (x0 x1 b) : Block.Kept st b (Block.giveUpCatch x0 x1 b) := by
  unfold Block.giveUpCatch
  exact .after (kept_modRepl ..) (kept_endCatch ..)

theorem kept_govCycle {st : Bool} (b) : Block.Kept st b (Block.govCycle b) := by
  unfold Block.govCycle
  refine .ite (fun _ => ?_) fun _ => ?_
  · exact .refl _
  · extract_lets -merge -underBinder +onlyGivenNames v1
    have h1 : Block.Kept st b v1 := (.of_eq rfl rfl rfl rfl rfl)
    clear_value v1
    exact .ite (fun _ => h1.trans (kept_modTu ..)) fun _ => h1

theorem kept_toInit {st : Bool} (x0 b) : Block.Kept st b (Block.toInit x0 b) := by
  unfold Block.toInit
  exact .after (kept_setR ..) (.after (kept_put ..) (.after (kept_put ..) (.after (kept_modPort ..) (.after (kept_put ..) (kept_put ..)))))

theorem kept_heal {st : Bool} (x0 x1 x2 b) : Block.Kept st b (Block.heal x0 x1 x2 b).2 := by
  unfold Block.heal
  extract_lets -merge -underBinder +onlyGivenNames v1
  clear_value v1
  exact .iteP (fun _ => .snd (kept_modPort ..)) fun _ => .iteP (fun _ => .snd (.after (kept_noteOnce ..) (.after (kept_put ..) (.after (kept_cnt ..) (kept_modPort ..))))) fun _ => .snd (.after (kept_toInit ..) (.after (kept_note ..) (kept_put ..)))

theorem kept_hopDisable (x0 b) : Block.Kept true b (Block.hopDisable x0 b) := by
  unfold Block.hopDisable
  refine .ite (fun _ => ?_) fun _ => ?_
  · exact .refl _
  · extract_lets -merge -underBinder +onlyGivenNames v1
    have h1 : Block.Kept true b v1 := .after (kept_note ..) (.after (kept_put ..) (.after (kept_put ..) (.after (kept_hopDrop ..) (kept_hopWriteBack ..))))
    clear_value v1
    exact .ite (fun _ => .after (kept_raise ..) (h1.trans (.forN fun i2 c2 => .after (kept_hopDrop ..) (kept_hopWriteBack ..)))) fun _ => h1

theorem kept_hwClear {st : Bool} (x0 x1 x2 x3 x4 b) : Block.Kept st b (Block.hwClear x0 x1 x2 x3 x4 b) := by
  unfold Block.hwClear
  exact kept_setR ..

theorem kept_hwCycle {st : Bool} (x0 x1 x2 b) (h : ∀ i j k l m (c : Block), Block.Kept st c (x2 i j k l m c)) : Block.Kept st b (Block.hwCycle x0 x1 x2 b) := by
  unfold Block.hwCycle
  split
  · exact (.whenA fun c1 => (h ..))
  · exact .refl _

theorem kept_hwSet {st : Bool} (x0 x1 x2 x3 x4 b) : Block.Kept st b (Block.hwSet x0 x1 x2 x3 x4 b) := by
  unfold Block.hwSet
  exact kept_setR ..

theorem kept_sendLinkFrame {st : Bool} (x0 x1 x2 b) : Block.Kept st b (Block.sendLinkFrame x0 x1 x2 b) := by
  unfold Block.sendLinkFrame
  extract_lets -merge -underBinder +onlyGivenNames v1
  clear_value v1
  extract_lets -merge -underBinder +onlyGivenNames v2
  clear_value v2
  extract_lets -merge -underBinder +onlyGivenNames v3
  clear_value v3
  exact .after (kept_emit ..) (kept_modLend ..)

theorem kept_sendLinkFrames {st : Bool} (b) : Block.Kept st b (Block.sendLinkFrames b) := by
  unfold Block.sendLinkFrames
  exact .ite (fun _ => .refl _) fun _ => (.forN fun i1 c1 => (.forN fun i2 c2 => (.whenA fun c3 => .after (kept_sendLinkFrame ..) (kept_sendLinkFrame ..))))

theorem kept_pushIn {st : Bool} (x0 x1 x2 b) : Block.Kept st b (Block.pushIn x0 x1 x2 b) := by
  unfold Block.pushIn
  exact kept_modNet ..

theorem kept_inject {st : Bool} (x0 x1 x2 b) : Block.Kept st b (Block.inject x0 x1 x2 b) := by
  unfold Block.inject
  refine .ite (fun _ => ?_) fun _ => ?_
  · extract_lets -merge -underBinder +onlyGivenNames v1
    clear_value v1
    extract_lets -merge -underBinder +onlyGivenNames v2
    clear_value v2
    extract_lets -merge -underBinder +onlyGivenNames v3
    clear_value v3
    exact .ite (fun _ => kept_pushIn ..) fun _ => .after (kept_pushIn ..) (kept_put ..)
  · exact kept_pushIn ..

theorem kept_sendFrom {st : Bool} (x0 b) : Block.Kept st b (Block.sendFrom x0 b) := by
  unfold Block.sendFrom
  extract_lets -merge -underBinder +onlyGivenNames v1
  clear_value v1
  extract_lets -merge -underBinder +onlyGivenNames v2
  clear_value v2
  extract_lets -merge -underBinder +onlyGivenNames v3
  subst v3
  refine .ite (fun _ => ?_) fun _ => ?_
  · exact .refl _
  · split
    · exact .refl _
    · extract_lets -merge -underBinder +onlyGivenNames v4
      have h4 : Block.Kept st b v4 := kept_modNet ..
      clear_value v4
      split
      · exact .ite (fun _ => h4.trans (kept_pushBridge ..)) fun _ => h4.trans (kept_inject ..)
      · exact h4.trans (kept_inject ..)

theorem kept_sendAll {st : Bool} (b) : Block.Kept st b (Block.sendAll b) := by
  unfold Block.sendAll
  exact (.forL fun i1 c1 => (kept_sendFrom ..))

theorem kept_runBridge {st : Bool} (x0 b) : Block.Kept st b (Block.runBridge x0 b) := by
  unfold Block.runBridge
  extract_lets -merge -underBinder +onlyGivenNames v1
  clear_value v1
  split
  · exact .refl _
  · split
    · exact .refl _
    · extract_lets -merge -underBinder +onlyGivenNames v2
      clear_value v2
      extract_lets -merge -underBinder +onlyGivenNames v3
      subst v3
      refine .ite (fun _ => ?_) fun _ => ?_
      · exact .refl _
      · refine .ite (fun _ => ?_) fun _ => ?_
        · exact .ite (fun _ => .after (kept_inject ..) (kept_modNet ..)) fun _ => .refl _
        · split
          · exact .ite (fun _ => .after (kept_toLink ..) (kept_modNet ..)) fun _ => .refl _
          · exact .after (kept_landFlit ..) (kept_modNet ..)

theorem kept_runBridges {st : Bool} (b) : Block.Kept st b (Block.runBridges b) := by
  unfold Block.runBridges
  exact (.forL fun i1 c1 => (kept_runBridge ..))

theorem kept_passFlit {st : Bool} (x0 x1 x2 x3 x4 b) : Block.Kept st b (Block.passFlit x0 x1 x2 x3 x4 b) := by
  unfold Block.passFlit
  extract_lets -merge -underBinder +onlyGivenNames v1
  clear_value v1
  extract_lets -merge -underBinder +onlyGivenNames v2
  clear_value v2
  extract_lets -merge -underBinder +onlyGivenNames v3
  clear_value v3
  extract_lets -merge -underBinder +onlyGivenNames v4
  have h4 : Block.Kept st b v4 := kept_modNet ..
  clear_value v4
  extract_lets -merge -underBinder +onlyGivenNames s5 v5
  clear_value v5
  refine .ite (fun _ => ?_) fun _ => ?_
  · extract_lets -merge -underBinder +onlyGivenNames v6
    clear_value v6
    exact h4.trans (kept_pushIn ..)
  · exact h4.trans (kept_eject ..)

theorem kept_routeOut {st : Bool} (x0 x1 b) : Block.Kept st b (Block.routeOut x0 x1 b) := by
  unfold Block.routeOut
  extract_lets -merge -underBinder +onlyGivenNames v1
  clear_value v1
  refine .ite (fun _ => ?_) fun _ => ?_
  · exact .refl _
  · split
    · split
      · exact .ite (fun _ => kept_passFlit ..) fun _ => .refl _
      · exact .refl _
    · split
      · exact kept_passFlit ..
      · exact .refl _

theorem kept_routeAll {st : Bool} (b) : Block.Kept st b (Block.routeAll b) := by
  unfold Block.routeAll
  exact (.forL fun i1 c1 => (.whenA fun c2 => (.forN fun i3 c3 => (kept_routeOut ..))))

theorem kept_leaveRx {st : Bool} (x0 b) : Block.Kept st b (Block.leaveRx x0 b) := by
  unfold Block.leaveRx
  extract_lets -merge -underBinder +onlyGivenNames v1
  clear_value v1
  extract_lets -merge -underBinder +onlyGivenNames v2
  clear_value v2
  extract_lets -merge -underBinder +onlyGivenNames v3
  clear_value v3
  extract_lets -merge -underBinder +onlyGivenNames v4
  clear_value v4
  extract_lets -merge -underBinder +onlyGivenNames v5
  subst v5
  split
  · exact .refl _
  · extract_lets -merge -underBinder +onlyGivenNames v6
    clear_value v6
    extract_lets -merge -underBinder +onlyGivenNames v7
    have h7 : Block.Kept st b v7 := kept_modLend ..
    clear_value v7
    exact .ite (fun _ => h7.trans (kept_inject ..)) fun _ => h7.trans (kept_pushBridge ..)

theorem kept_receiveFrames {st : Bool} (b) : Block.Kept st b (Block.receiveFrames b) := by
  unfold Block.receiveFrames
  extract_lets -merge -underBinder +onlyGivenNames v1
  clear_value v1
  exact .after (.forL fun i3 c3 => (kept_leaveRx ..)) (.forL fun i2 c2 => (kept_frameArrivals ..))

theorem kept_postPackets {st : Bool} (b) : Block.Kept st b (Block.postPackets b) := by
  unfold Block.postPackets
  refine .trans ?_ (kept_modNet ..)
  refine .forL fun i1 c1 => ?_
  split
  · exact .refl _
  · exact kept_modNet ..

theorem kept_netCycle {st : Bool} (b) : Block.Kept st b (Block.netCycle b) := by
  unfold Block.netCycle
  exact .after (kept_modNet ..) (.after (kept_drainCheck ..) (.after (kept_sendLinkFrames ..) (.after (kept_sendAll ..) (.after (kept_runBridges ..) (.after (kept_routeAll ..) (.after (kept_receiveFrames ..) (kept_postPackets ..)))))))

theorem kept_lineCycle {st : Bool} (x0 b) : Block.Kept st b (Block.lineCycle x0 b) := by
  unfold Block.lineCycle
  extract_lets -merge -underBinder +onlyGivenNames v1
  clear_value v1
  refine .ite (fun _ => ?_) fun _ => ?_
  · exact .refl _
  · extract_lets -merge -underBinder +onlyGivenNames v2
    clear_value v2
    exact .ite (fun _ => kept_modPort ..) fun _ => .after (kept_dataCodeword ..) (kept_modPort ..)

theorem kept_toLines {st : Bool} (b) : Block.Kept st b (Block.toLines b) := by
  unfold Block.toLines
  refine .trans (.forL fun i c => ?_) (.of_eq rfl rfl rfl rfl rfl)
  split
  · refine .ite (fun _ => ?_) fun _ => ?_
    · exact kept_sendCodeword ..
    · exact kept_modPort ..
  · exact kept_modPort ..

theorem kept_linesCycle {st : Bool} (b) : Block.Kept st b (Block.linesCycle b) := by
  unfold Block.linesCycle
  exact .after (.forN fun i1 c1 => (kept_lineCycle ..)) (kept_toLines ..)

theorem kept_lateMsis {st : Bool} (x0 x1 b) : Block.Kept st b (Block.lateMsis x0 x1 b) := by
  unfold Block.lateMsis
  exact (.forL fun i1 c1 => (.whenA fun c2 => (kept_queueMsi ..)))

theorem kept_msisDue {st : Bool} (b) : Block.Kept st b (Block.msisDue b) := by
  unfold Block.msisDue
  exact (.forL fun i1 c1 => (kept_lateMsis ..))

theorem kept_idle {st : Bool} (b) : Block.Kept st b (Block.idle b) := by
  unfold Block.idle
  exact .ite (fun _ => .refl _) fun _ => .after (.forN fun i1 c1 => (kept_netCycle ..)) (.after (kept_linesCycle ..) (.after (kept_msisDue ..) (kept_govCycle ..)))

theorem kept_toUp {st : Bool} (x0 b) : Block.Kept st b (Block.toUp x0 b) := by
  unfold Block.toUp
  exact .after (kept_startKeys ..) (.after (kept_announce ..) (.after (kept_note ..) (.after (kept_sendProbe ..) (.after (kept_modPort ..) (.after (kept_put ..) (.after (kept_put ..) (kept_put ..)))))))

theorem kept_initDone {st : Bool} (x0 b) : Block.Kept st b (Block.initDone x0 b) := by
  unfold Block.initDone
  exact .ite (fun _ => kept_toUp ..) fun _ => .refl _

theorem kept_initRegions (x0 b) : Block.Kept true b (Block.initRegions x0 b) := by
  unfold Block.initRegions
  extract_lets -merge -underBinder +onlyGivenNames v1
  subst v1
  exact ⟨fun h => SMap.wf_filter _ h, fun h => absurd h (by decide), id, .refl _, List.prefix_refl _, id, id⟩

theorem kept_takeIrq {st : Bool} (x0 x1 x2 b) : Block.Kept st b (Block.takeIrq x0 x1 x2 b) := by
  unfold Block.takeIrq
  extract_lets -merge -underBinder +onlyGivenNames v1
  subst v1
  extract_lets -merge -underBinder +onlyGivenNames v2
  have h2 : Block.Kept st b v2 := by
    unfold v2
    split
    · exact kept_trapM ..
    · exact kept_trapS ..
    · exact kept_trapVs ..
  clear_value v2
  exact h2.trans (kept_modHart ..)

theorem kept_trigCount {st : Bool} (x0 b) : Block.Kept st b (Block.trigCount x0 b).2 := by
  unfold Block.trigCount
  extract_lets -merge -underBinder +onlyGivenNames v1
  clear_value v1
  extract_lets -merge -underBinder +onlyGivenNames v2
  subst v2
  split
  · exact .after (kept_trigAct ..) (kept_modTrig ..)
  · exact .snd (kept_modHart ..)

theorem kept_instr {st : Bool} (x0 x1 b) (h : ∀ (c : Block), Block.Kept st c (x1 c)) : Block.Kept st b (Block.instr x0 x1 b) := by
  unfold Block.instr
  refine .ite (fun _ => ?_) fun _ => ?_
  · exact .refl _
  · split
    · exact .after (kept_trigTrap ..) (kept_takeIrq ..)
    · split
      · rename_i y1 e1
        have h1 : Block.Kept st b y1 := .of_pair e1 (kept_trigCount ..)
        clear e1
        exact h1
      · rename_i y2 e2
        have h2 : Block.Kept st b y2 := .of_pair e2 (kept_trigCount ..)
        clear e2
        exact h2.trans (h ..)

theorem kept_ioAccess {st : Bool} (x0 x1 x2 x3 x4 x5 x6 b) : Block.Kept st b (Block.ioAccess x0 x1 x2 x3 x4 x5 x6 b) := by
  unfold Block.ioAccess
  exact .after (kept_modHart ..) (kept_emit ..)

theorem kept_iotHead (b) : Block.Kept true b (Block.iotHead b).2 := by
  unfold Block.iotHead
  extract_lets -merge -underBinder +onlyGivenNames v1
  clear_value v1
  extract_lets -merge -underBinder +onlyGivenNames v2
  clear_value v2
  extract_lets -merge -underBinder +onlyGivenNames v3
  clear_value v3
  refine .iteP (fun _ => ?_) fun _ => ?_
  · exact .refl _
  · extract_lets -merge -underBinder +onlyGivenNames v4
    clear_value v4
    refine .iteP (fun _ => ?_) fun _ => ?_
    · exact .snd (.after (.whenA fun c5 => (kept_iotIrq ..)) (.after (kept_note ..) (kept_iotS ..)))
    · split
      rename_i y6 e6
      have h6 : Block.Kept true b y6 := .of_pair e6 (kept_readBytes ..)
      clear e6
      exact .iteP (fun _ => .snd (.after (.whenA fun c7 => (kept_iotIrq ..)) (h6.trans (kept_iotS ..)))) fun _ => h6

end Sys2Proof.Machine
end

