-- ==== Sys2Proof/Laws/KeptOps8.lean ====
section
/-! SUPPORT. One lemma for each shared operation: what it keeps (canonical memory, fuses, the first faults, and DRAM where it stores nothing). -/

namespace Sys2Proof.Machine

theorem kept_iotCmd (x0 x1 b) (h : ∀ i (c : Block), Block.Kept true c (x1 i c)) : Block.Kept true b (Block.iotCmd x0 x1 b) := by
  unfold Block.iotCmd
  split
  · rename_i y1 e1
    have h1 : Block.Kept true b y1 := .of_pair e1 (kept_iotHead ..)
    clear e1
    exact .ite (fun _ => h1.trans (h ..)) fun _ => h1
  · rename_i y2 e2
    have h2 : Block.Kept true b y2 := .of_pair e2 (kept_iotHead ..)
    clear e2
    exact h2

theorem kept_iotNext {st : Bool} (b) : Block.Kept st b (Block.iotNext b) := by
  unfold Block.iotNext
  exact kept_iotS ..

theorem kept_keysDone {st : Bool} (x0 x1 b) : Block.Kept st b (Block.keysDone x0 x1 b) := by
  unfold Block.keysDone
  exact .after (kept_note ..) (kept_modPort ..)

theorem kept_laneFail {st : Bool} (x0 x1 b) : Block.Kept st b (Block.laneFail x0 x1 b) := by
  unfold Block.laneFail
  extract_lets -merge -underBinder +onlyGivenNames v1
  clear_value v1
  extract_lets -merge -underBinder +onlyGivenNames v2
  have h2 : Block.Kept st b v2 := kept_modMesh ..
  clear_value v2
  refine .ite (fun _ => ?_) fun _ => ?_
  · exact h2.trans (kept_raise ..)
  · extract_lets -merge -underBinder +onlyGivenNames v3
    clear_value v3
    exact .after (kept_reroute ..) (.after (kept_raise ..) (h2.trans (kept_setR ..)))

theorem kept_laneCorrected {st : Bool} (x0 x1 b) : Block.Kept st b (Block.laneCorrected x0 x1 b) := by
  unfold Block.laneCorrected
  extract_lets -merge -underBinder +onlyGivenNames v1
  subst v1
  extract_lets -merge -underBinder +onlyGivenNames s2 v2
  have h2 : Block.Kept st b v2 := .after (kept_noteOnce ..) (.after (kept_inc ..) (.of_eq rfl rfl rfl rfl rfl))
  exact .ite (fun _ => h2.trans (kept_laneFail ..)) fun _ => h2

theorem kept_lanesCheck {st : Bool} (x0 x1 x2 b) : Block.Kept st b (Block.lanesCheck x0 x1 x2 b) := by
  unfold Block.lanesCheck
  extract_lets -merge -underBinder +onlyGivenNames v1
  clear_value v1
  exact .ite (fun _ => kept_raise ..) fun _ => .refl _

theorem kept_syncEnd {st : Bool} (x0 x1 x2 b) : Block.Kept st b (Block.syncEnd x0 x1 x2 b) := by
  unfold Block.syncEnd
  extract_lets -merge -underBinder +onlyGivenNames v1
  clear_value v1
  exact .after (kept_sendCtl ..) (kept_modLend ..)

theorem kept_testLost {st : Bool} (x0 b) : Block.Kept st b (Block.testLost x0 b) := by
  unfold Block.testLost
  exact .ite (fun _ => .after (kept_raise ..) (.after (kept_resetSail ..) (kept_toLost ..))) fun _ => kept_modSail ..

theorem kept_linkDown (x0 x1 x2 b) : Block.Kept true b (Block.linkDown x0 x1 x2 b) := by
  unfold Block.linkDown
  refine .ite (fun _ => ?_) fun _ => ?_
  · exact .refl _
  · extract_lets -merge -underBinder +onlyGivenNames v1
    have h1 : Block.Kept true b v1 := kept_putUp ..
    clear_value v1
    refine .ite (fun _ => ?_) fun _ => ?_
    · extract_lets -merge -underBinder +onlyGivenNames v2
      clear_value v2
      exact .after (.whenA fun c3 => (kept_reroute ..)) (.after (kept_raise ..) (.after (kept_syncEnd ..) (h1.trans (kept_syncEnd ..))))
    · exact .ite (fun _ => h1.trans (kept_sailLost ..)) fun _ => h1.trans (kept_testLost ..)

theorem kept_loadTrap {st : Bool} (x0 x1 x2 b) : Block.Kept st b (Block.loadTrap x0 x1 x2 b) := by
  unfold Block.loadTrap
  split
  · exact kept_setCsr ..
  · exact kept_except ..

theorem kept_load (x0 x1 x2 x3 x4 x5 x6 b) : Block.Kept true b (Block.load x0 x1 x2 x3 x4 x5 x6 b) := by
  unfold Block.load
  split
  · rename_i y1 e1
    have h1 : Block.Kept true b y1 := .of_pair e1 (kept_translatePieces ..)
    clear e1
    exact h1.trans (kept_loadTrap ..)
  · rename_i y2 e2
    have h2 : Block.Kept true b y2 := .of_pair e2 (kept_translatePieces ..)
    clear e2
    split
    · exact h2
    · refine .ite (fun _ => ?_) fun _ => ?_
      · exact h2.trans (kept_ioAccess ..)
      · split
        · exact .after (kept_loadTrap ..) (h2.trans (kept_note ..))
        · split
          · rename_i y3 e3
            have h3 : Block.Kept true b y3 := .of_pair e3 (h2.trans (kept_readPieces ..))
            clear e3
            exact .after (kept_hpm ..) (h3.trans (kept_setDst ..))
          · rename_i y4 e4
            have h4 : Block.Kept true b y4 := .of_pair e4 (h2.trans (kept_readPieces ..))
            clear e4
            exact h4
          · rename_i y5 e5
            have h5 : Block.Kept true b y5 := .of_pair e5 (h2.trans (kept_readPieces ..))
            clear e5
            exact h5.trans (kept_loadTrap ..)

theorem kept_loadKeys {st : Bool} (x0 x1 x2 x3 b) : Block.Kept st b (Block.loadKeys x0 x1 x2 x3 b) := by
  unfold Block.loadKeys
  extract_lets -merge -underBinder +onlyGivenNames v1
  subst v1
  exact .after (kept_showKeys ..) (kept_modPort ..)

theorem kept_loseStaged {st : Bool} (b) : Block.Kept st b (Block.loseStaged b) := by
  unfold Block.loseStaged
  extract_lets -merge -underBinder +onlyGivenNames v1
  have h1 : Block.Kept st b v1 := .ite (fun _ => kept_refuseCommit ..) fun _ => kept_cancelPending ..
  clear_value v1
  extract_lets -merge -underBinder +onlyGivenNames v2
  have h2 : Block.Kept st b v2 := h1.trans (kept_discardStaged ..)
  clear_value v2
  extract_lets -merge -underBinder +onlyGivenNames s3 v3
  have h3 : Block.Kept st b v3 := h2.trans (.of_eq rfl rfl rfl rfl rfl)
  clear_value v3
  exact h3.trans (kept_note ..)

theorem kept_macOpen {st : Bool} (x0 x1 x2 b) : Block.Kept st b (Block.macOpen x0 x1 x2 b).2 := by
  unfold Block.macOpen
  refine .iteP (fun _ => ?_) fun _ => ?_
  · exact .refl _
  · extract_lets -merge -underBinder +onlyGivenNames v1
    clear_value v1
    extract_lets -merge -underBinder +onlyGivenNames v2
    clear_value v2
    extract_lets -merge -underBinder +onlyGivenNames v3
    clear_value v3
    extract_lets -merge -underBinder +onlyGivenNames v4
    clear_value v4
    extract_lets -merge -underBinder +onlyGivenNames v5
    clear_value v5
    split
    · exact .refl _
    · extract_lets -merge -underBinder +onlyGivenNames v6
      clear_value v6
      extract_lets -merge -underBinder +onlyGivenNames v7
      clear_value v7
      extract_lets -merge -underBinder +onlyGivenNames v8
      clear_value v8
      extract_lets -merge -underBinder +onlyGivenNames v9
      clear_value v9
      refine .iteP (fun _ => ?_) fun _ => ?_
      · exact .refl _
      · extract_lets -merge -underBinder +onlyGivenNames v10
        clear_value v10
        split
        · exact .refl _
        · exact .snd (kept_modPort ..)

theorem kept_makeDigest (x0 x1 x2 x3 b) : Block.Kept true b (Block.makeDigest x0 x1 x2 x3 b) := by
  unfold Block.makeDigest
  split
  rename_i y1 e1
  have h1 : Block.Kept true b y1 := .of_pair e1 (kept_digestInput ..)
  clear e1
  extract_lets -merge -underBinder +onlyGivenNames v2
  clear_value v2
  exact .after (.whenA fun c3 => (kept_emit ..)) (h1.trans (kept_modRepl ..))

theorem kept_markPoison (x0 b) : Block.Kept true b (Block.markPoison x0 b) := by
  unfold Block.markPoison
  extract_lets -merge -underBinder +onlyGivenNames v1
  clear_value v1
  extract_lets -merge -underBinder +onlyGivenNames v2
  have h2 : Block.Kept true b v2 := by
    unfold v2
    refine .forL fun i3 c3 => ?_
    extract_lets -merge -underBinder +onlyGivenNames v4
    have h4 : Block.Kept true c3 v4.2 := kept_mcRead ..
    clear_value v4
    exact .after (kept_clearLost ..) (h4.trans (kept_mcWrite ..))
  clear_value v2
  exact h2.trans (.forN fun i5 c5 => (kept_put ..))

theorem kept_mbxRow {st : Bool} (x0 x1 x2 x3 b) : Block.Kept st b (Block.mbxRow x0 x1 x2 x3 b) := by
  unfold Block.mbxRow
  extract_lets -merge -underBinder +onlyGivenNames v1
  have h1 : Block.Kept st b v1.2 := kept_mbxWrite ..
  clear_value v1
  exact .ite (fun _ => h1) fun _ => h1.trans (kept_emit ..)

theorem kept_mntMsi {st : Bool} (x0 b) : Block.Kept st b (Block.mntMsi x0 b) := by
  unfold Block.mntMsi
  exact .ite (fun _ => kept_sendMsi ..) fun _ => .refl _

theorem kept_modSvc {st : Bool} (x0 b) : Block.Kept st b (Block.modSvc x0 b) := by
  unfold Block.modSvc
  exact (.of_eq rfl rfl rfl rfl rfl)

theorem kept_modConn {st : Bool} (x0 x1 b) : Block.Kept st b (Block.modConn x0 x1 b) := by
  unfold Block.modConn
  exact kept_modSvc ..

theorem kept_modFn {st : Bool} (x0 x1 b) : Block.Kept st b (Block.modFn x0 x1 b) := by
  unfold Block.modFn
  exact kept_modPci ..

theorem kept_runStart (x0 x1 x2 x3 b) : Block.Kept true b (Block.runStart x0 x1 x2 x3 b) := by
  unfold Block.runStart
  extract_lets -merge -underBinder +onlyGivenNames v1
  clear_value v1
  split
  · exact .after (.forN fun i2 c2 => (kept_chooseWork ..)) (kept_beginRun ..)
  · exact .after (.forN fun i3 c3 => (kept_chooseWork ..)) (kept_beginRun ..)
  · extract_lets -merge -underBinder +onlyGivenNames v4
    clear_value v4
    extract_lets -merge -underBinder +onlyGivenNames v5
    have h5 : Block.Kept true b v5 := .after (kept_charge ..) (kept_beginRun ..)
    clear_value v5
    split
    rename_i y6 e6
    have h6 : Block.Kept true b y6 := .of_pair e6 (h5.trans (kept_copyRows ..))
    clear e6
    exact .ite (fun _ => h6) fun _ => .after (kept_failHead ..) (h6.trans (kept_modRun ..))
  · extract_lets -merge -underBinder +onlyGivenNames v7
    have h7 : Block.Kept true b v7 := .after (kept_mstWrite ..) (kept_beginRun ..)
    clear_value v7
    extract_lets -merge -underBinder +onlyGivenNames v8
    clear_value v8
    exact .ite (fun _ => h7) fun _ => h7.trans (kept_sendMsi ..)
  · exact kept_beginRun ..

theorem kept_mstStart (x0 x1 x2 x3 b) : Block.Kept true b (Block.mstStart x0 x1 x2 x3 b) := by
  unfold Block.mstStart
  extract_lets -merge -underBinder +onlyGivenNames v1
  clear_value v1
  extract_lets -merge -underBinder +onlyGivenNames v2
  clear_value v2
  extract_lets -merge -underBinder +onlyGivenNames v3
  clear_value v3
  refine .ite (fun _ => ?_) fun _ => ?_
  · exact .refl _
  · extract_lets -merge -underBinder +onlyGivenNames v4
    clear_value v4
    extract_lets -merge -underBinder +onlyGivenNames v5
    clear_value v5
    extract_lets -merge -underBinder +onlyGivenNames v6
    clear_value v6
    refine .ite (fun _ => ?_) fun _ => ?_
    · exact .ite (fun _ => kept_mstQErr ..) fun _ => .refl _
    · split
      rename_i y7 e7
      have h7 : Block.Kept true b y7 := .of_pair e7 (kept_mstRead ..)
      clear e7
      refine .ite (fun _ => ?_) fun _ => ?_
      · exact .ite (fun _ => h7.trans (kept_mstQErr ..)) fun _ => .refl _
      · extract_lets -merge -underBinder +onlyGivenNames v8
        clear_value v8
        extract_lets -merge -underBinder +onlyGivenNames v9
        clear_value v9
        refine .ite (fun _ => ?_) fun _ => ?_
        · exact .refl _
        · extract_lets -merge -underBinder +onlyGivenNames v10
          clear_value v10
          exact .ite (fun _ => .ite (fun _ => h7.trans (kept_mstFail ..)) fun _ => .refl _) fun _ => .ite (fun _ => .refl _) fun _ => h7.trans (kept_runStart ..)

theorem kept_peerBeacon {st : Bool} (x0 x1 b) : Block.Kept st b (Block.peerBeacon x0 x1 b) := by
  unfold Block.peerBeacon
  exact kept_modTu ..

theorem kept_routeSack (x0 x1 x2 b) : Block.Kept true b (Block.routeSack x0 x1 x2 b) := by
  unfold Block.routeSack
  refine .ite (fun _ => ?_) fun _ => ?_
  · refine .ite (fun _ => ?_) fun _ => ?_
    · exact .after (kept_note ..) (kept_discard ..)
    · split
      · exact .after (kept_pnCheck ..) (kept_offerSack ..)
      · exact kept_discard ..
  · split
    · exact kept_emit ..
    · exact kept_discard ..
    · exact kept_emit ..
    · exact kept_emit ..
    · exact kept_classify ..

theorem kept_passSack (x0 x1 x2 b) : Block.Kept true b (Block.passSack x0 x1 x2 b) := by
  unfold Block.passSack
  exact .ite (fun _ => kept_cnt ..) fun _ => .ite (fun _ => .after (kept_note ..) (.after (kept_put ..) (kept_cnt ..))) fun _ => kept_routeSack ..

theorem kept_nativeFrame (x0 x1 x2 b) : Block.Kept true b (Block.nativeFrame x0 x1 x2 b) := by
  unfold Block.nativeFrame
  extract_lets -merge -underBinder +onlyGivenNames v1
  clear_value v1
  exact .ite (fun _ => kept_badBlock ..) fun _ => .ite (fun _ => .after (.whenA fun c2 => (kept_peerBeacon ..)) (kept_put ..)) fun _ => .ite (fun _ => kept_put ..) fun _ => .ite (fun _ => .after (kept_note ..) (kept_cnt ..)) fun _ => .after (kept_passSack ..) (kept_cnt ..)

theorem kept_oddBlock {st : Bool} (x0 x1 b) : Block.Kept st b (Block.oddBlock x0 x1 b) := by
  unfold Block.oddBlock
  exact .ite (fun _ => .refl _) fun _ => kept_badBlock ..

theorem kept_pbLoad (x0 x1 x2 b) : Block.Kept true b (Block.pbLoad x0 x1 x2 b).2 := by
  unfold Block.pbLoad
  split
  · split
    rename_i y1 e1
    have h1 : Block.Kept true b y1 := .of_pair e1 (kept_readNat ..)
    clear e1
    exact h1
  · exact .refl _
  · exact .refl _

theorem kept_pbStore (x0 x1 x2 x3 b) {c : Block} (e : Block.pbStore x0 x1 x2 x3 b = some c) : Block.Kept true b c := by
  unfold Block.pbStore at e
  split at e
  · injection e with e
    subst e
    exact kept_writeBytes ..
  · injection e with e
    subst e
    exact kept_scrWrite ..
  · injection e

/-- The block that an instruction of the buffer goes on with keeps what it may. -/
theorem kept_pbInstr (x0 x1 b) {c : Block} (e : Block.pbInstr x0 x1 b = .next c) : Block.Kept true b c := by
  have p : ∀ i v, PbStep.next (b.setX x0 i v) = .next c → Block.Kept true b c := fun i v h => by
    injection h with h
    subst h
    exact kept_setX ..
  have q : ∀ i (v : Option Nat), (match v with | some v => PbStep.next (b.setX x0 i v) | none => .fail) = .next c → Block.Kept true b c := fun i v h => by
    cases v with
    | some v => exact p _ _ h
    | none => cases h
  unfold Block.pbInstr at e
  dsimp only at e
  split at e
  · exact p _ _ e
  · exact p _ _ e
  · exact q _ _ e
  · exact p _ _ e
  · exact q _ _ e
  · split at e
    · cases e
    · split at e
      · rename_i y1 e1
        injection e with e
        subst e
        exact (Block.Kept.of_pair e1 (kept_pbLoad ..)).trans (kept_setX ..)
      · cases e
  · split at e
    · cases e
    · split at e
      · rename_i y1 e1
        injection e with e
        subst e
        exact kept_pbStore _ _ _ _ _ e1
      · cases e
  · injection e with e
    subst e
    exact .refl _
  · split at e
    · split at e <;> cases e
    · split at e
      · cases e
      · split at e
        · cases e
        · injection e with e
          subst e
          exact .after (kept_setX ..) (.whenA fun _ => kept_csrPutM ..)
  · cases e

theorem kept_pbRun (x0 x1 b) : Block.Kept true b (Block.pbRun x0 x1 b).2 := by
  induction x1 generalizing b with
  | nil => exact .refl _
  | cons v vs ih =>
    unfold Block.pbRun
    split
    · rename_i y1 e1
      exact (kept_pbInstr _ _ _ e1).trans (ih _)
    · exact .refl _
    · exact .refl _

theorem kept_plainReq (x0 x1 x2 x3 x4 x5 b) : Block.Kept true b (Block.plainReq x0 x1 x2 x3 x4 x5 b) := by
  unfold Block.plainReq
  exact .ite (fun _ => .refl _) fun _ => .ite (fun _ => kept_protoError ..) fun _ => kept_arrive ..

theorem kept_poisonFlit {st : Bool} (x0 b) : Block.Kept st b (Block.poisonFlit x0 b) := by
  unfold Block.poisonFlit
  extract_lets -merge -underBinder +onlyGivenNames v1
  subst v1
  extract_lets -merge -underBinder +onlyGivenNames v2
  subst v2
  extract_lets -merge -underBinder +onlyGivenNames v3
  clear_value v3
  exact (.of_eq rfl rfl rfl rfl rfl)

theorem kept_postExec (x0 x1 b) : Block.Kept true b (Block.postExec x0 x1 b) := by
  unfold Block.postExec
  refine .ite (fun _ => ?_) fun _ => ?_
  · exact .refl _
  · split
    · rename_i y1 e1
      have h1 : Block.Kept true b y1 := .of_pair e1 (kept_pbRun ..)
      clear e1
      exact h1
    · rename_i y2 e2
      have h2 : Block.Kept true b y2 := .of_pair e2 (kept_pbRun ..)
      clear e2
      exact h2.trans (kept_modDbg ..)

theorem kept_powerLost (b) : Block.Kept true b (Block.powerLost b) := by
  unfold Block.powerLost
  exact .ite (fun _ => .refl _) fun _ => .after (kept_cutPower ..) (kept_raise ..)

theorem kept_prefetch (x0 x1 x2 b) : Block.Kept true b (Block.prefetch x0 x1 x2 b) := by
  unfold Block.prefetch
  split
  · rename_i y1 e1
    have h1 : Block.Kept true b y1 := .of_pair e1 (kept_translate ..)
    clear e1
    exact h1
  · rename_i y2 e2
    have h2 : Block.Kept true b y2 := .of_pair e2 (kept_translate ..)
    clear e2
    exact .ite (fun _ => h2) fun _ => .ite (fun _ => h2.trans (kept_own ..)) fun _ => .ite (fun _ => h2.trans (kept_privUse ..)) fun _ => .after (kept_miss ..) (h2.trans (.whenA fun c3 => (kept_privMisses ..)))

theorem kept_serve {st : Bool} (x0 x1 x2 x3 x4 b) (h : ∀ (c : Block), Block.Kept st c (x4 c).2) : Block.Kept st b (Block.serve x0 x1 x2 x3 x4 b) := by
  unfold Block.serve
  split
  · exact .refl _
  · exact .after (kept_emit ..) (kept_note ..)
  · split
    rename_i y1 e1
    have h1 : Block.Kept st b y1 := .of_pair e1 (h ..)
    clear e1
    exact h1.trans (kept_emit ..)

theorem kept_putObj (x0 x1 x2 x3 b) : Block.Kept true b (Block.putObj x0 x1 x2 x3 b) := by
  unfold Block.putObj
  refine kept_serve (h := fun c1 => ?_) ..
  split
  rename_i y2 e2
  have h2 : Block.Kept true c1 y2 := .of_pair e2 (kept_objWrite ..)
  clear e2
  exact h2

theorem kept_slew {st : Bool} (x0 b) : Block.Kept st b (Block.slew x0 b) := by
  unfold Block.slew
  extract_lets -merge -underBinder +onlyGivenNames v1
  clear_value v1
  exact .after (kept_modTu ..) (.after (kept_put ..) (kept_tickFree ..))

theorem kept_takeOffset {st : Bool} (x0 b) : Block.Kept st b (Block.takeOffset x0 b) := by
  unfold Block.takeOffset
  extract_lets -merge -underBinder +onlyGivenNames v1
  subst v1
  extract_lets -merge -underBinder +onlyGivenNames v2
  have h2 : Block.Kept st b v2 := .after (kept_put ..) (kept_put ..)
  clear_value v2
  extract_lets -merge -underBinder +onlyGivenNames v3
  have h3 : Block.Kept st b v3 := .ite (fun _ => .after (kept_modTu ..) (.after (kept_put ..) (.after (kept_put ..) (h2.trans (kept_note ..))))) fun _ => h2
  clear_value v3
  exact .after (kept_slew ..) (h3.trans (kept_modTu ..))

theorem kept_takeReference {st : Bool} (x0 x1 b) : Block.Kept st b (Block.takeReference x0 x1 b) := by
  unfold Block.takeReference
  extract_lets -merge -underBinder +onlyGivenNames v1
  have h1 : Block.Kept st b v1 := kept_modTu ..
  clear_value v1
  exact .ite (fun _ => h1) fun _ => .after (kept_modTu ..) (h1.trans (kept_setTimeBase ..))

theorem kept_refEdge {st : Bool} (x0 x1 b) : Block.Kept st b (Block.refEdge x0 x1 b) := by
  unfold Block.refEdge
  extract_lets -merge -underBinder +onlyGivenNames v1
  clear_value v1
  refine .ite (fun _ => ?_) fun _ => ?_
  · exact .after (kept_takeOffset ..) (kept_takeReference ..)
  · extract_lets -merge -underBinder +onlyGivenNames v2
    have h2 : Block.Kept st b v2 := kept_note ..
    clear_value v2
    extract_lets -merge -underBinder +onlyGivenNames v3
    clear_value v3
    extract_lets -merge -underBinder +onlyGivenNames v4
    clear_value v4
    exact .ite (fun _ => .after (kept_takeOffset ..) (h2.trans (kept_takeReference ..))) fun _ => h2.trans (kept_modTu ..)

theorem kept_refuseState {st : Bool} (b) : Block.Kept st b (Block.refuseState b) := by
  unfold Block.refuseState
  exact .after (kept_answer ..) (kept_notAccepted ..)

theorem kept_releaseCopy (x0 x1 x2 x3 b) : Block.Kept true b (Block.releaseCopy x0 x1 x2 x3 b) := by
  unfold Block.releaseCopy
  extract_lets -merge -underBinder +onlyGivenNames v1
  clear_value v1
  refine .after (.foldl_snd _ _ ?_ _) (.refl _)
  rintro ⟨a2, c2⟩ i2
  extract_lets -merge -underBinder +onlyGivenNames v3
  clear_value v3
  exact .snd (kept_copyRange ..)

theorem kept_request {st : Bool} (x0 x1 b) (h : ∀ (c : Block), Block.Kept st c (x1 c).2) : Block.Kept st b (Block.request x0 x1 b).2 := by
  unfold Block.request
  exact .iteP (fun _ => .refl _) fun _ => .iteP (fun _ => .snd (kept_notAccepted ..)) fun _ => (h ..)

theorem kept_requestRow {st : Bool} (x0 x1 b) (h : ∀ (c : Block), Block.Kept st c (x1 c).2) : Block.Kept st b (Block.requestRow x0 x1 b) := by
  unfold Block.requestRow
  refine .ite (fun _ => ?_) fun _ => ?_
  · exact .refl _
  · split
    rename_i y1 e1
    have h1 : Block.Kept st b y1 := .of_pair e1 (kept_request (h := fun c2 => (h ..)) ..)
    clear e1
    exact h1.trans (kept_answer ..)

theorem kept_resetFn {st : Bool} (x0 b) : Block.Kept st b (Block.resetFn x0 b) := by
  unfold Block.resetFn
  exact (.of_eq rfl rfl rfl rfl rfl)

theorem kept_restartOn {st : Bool} (x0 x1 b) : Block.Kept st b (Block.restartOn x0 x1 b) := by
  unfold Block.restartOn
  exact .after (kept_resetAgent ..) (.after (kept_note ..) (.after (kept_put ..) (.after (kept_modRepl ..) (.after (kept_modPart ..) (kept_takePlace ..)))))

theorem kept_rootInbound (x0 x1 x2 x3 x4 x5 b) : Block.Kept true b (Block.rootInbound x0 x1 x2 x3 x4 x5 b) := by
  unfold Block.rootInbound
  extract_lets -merge -underBinder +onlyGivenNames v1
  clear_value v1
  extract_lets -merge -underBinder +onlyGivenNames v2
  clear_value v2
  refine .ite (fun _ => ?_) fun _ => ?_
  · exact kept_unsupported ..
  · split
    · rename_i y3 e3
      have h3 : Block.Kept true b y3 := .of_pair e3 (kept_iotTranslate ..)
      clear e3
      exact h3.trans (kept_inboundAccess ..)
    · rename_i y4 e4
      have h4 : Block.Kept true b y4 := .of_pair e4 (kept_iotTranslate ..)
      clear e4
      exact h4.trans (kept_unsupported ..)

theorem kept_selftestFails {st : Bool} (x0 b) : Block.Kept st b (Block.selftestFails x0 b) := by
  unfold Block.selftestFails
  extract_lets -merge -underBinder +onlyGivenNames v1
  have h1 : Block.Kept st b v1 := kept_raiseAll ..
  clear_value v1
  exact .ite (fun _ => h1) fun _ => .after (kept_put ..) (h1.trans (kept_enterSafeHold ..))

theorem kept_sendLanemap {st : Bool} (x0 x1 b) : Block.Kept st b (Block.sendLanemap x0 x1 b) := by
  unfold Block.sendLanemap
  exact kept_sendBlock ..

theorem kept_sendNak {st : Bool} (x0 x1 x2 b) : Block.Kept st b (Block.sendNak x0 x1 x2 b) := by
  unfold Block.sendNak
  exact kept_sendCtl ..

theorem kept_sendWaiting {st : Bool} (x0 b) : Block.Kept st b (Block.sendWaiting x0 b) := by
  unfold Block.sendWaiting
  exact (.forL fun i1 c1 => (kept_sendVec ..))

theorem kept_shutCore {st : Bool} (b) : Block.Kept st b (Block.shutCore b) := by
  unfold Block.shutCore
  exact (.of_eq rfl rfl rfl rfl rfl)

theorem kept_tileFix {st : Bool} (x0 b) : Block.Kept st b (Block.tileFix x0 b) := by
  unfold Block.tileFix
  exact .after (kept_note ..) (kept_modMst ..)

theorem kept_tileLost {st : Bool} (x0 b) : Block.Kept st b (Block.tileLost x0 b) := by
  unfold Block.tileLost
  extract_lets -merge -underBinder +onlyGivenNames v1
  clear_value v1
  exact (.forL fun i2 c2 => (kept_replLost ..))

theorem kept_tileOff {st : Bool} (x0 x1 b) : Block.Kept st b (Block.tileOff x0 x1 b) := by
  unfold Block.tileOff
  exact kept_put ..

theorem kept_spentDone {st : Bool} (x0 x1 x2 x3 x4 x5 x6 b) : Block.Kept st b (Block.spentDone x0 x1 x2 x3 x4 x5 x6 b) := by
  unfold Block.spentDone
  extract_lets -merge -underBinder +onlyGivenNames v1
  have h1 : Block.Kept st b v1 := .after (.whenA fun c3 => (kept_tileFix ..)) (.after (.whenA fun c2 => (kept_chargeTile ..)) (kept_modMst ..))
  clear_value v1
  exact .ite (fun _ => .after (kept_tileLost ..) (.after (kept_raise ..) (h1.trans (kept_tileOff ..)))) fun _ => h1

theorem kept_store (x0 x1 x2 x3 x4 b) : Block.Kept true b (Block.store x0 x1 x2 x3 x4 b) := by
  unfold Block.store
  extract_lets -merge -underBinder +onlyGivenNames v1
  clear_value v1
  split
  · rename_i y2 e2
    have h2 : Block.Kept true b y2 := .of_pair e2 (kept_translatePieces ..)
    clear e2
    exact h2.trans (kept_except ..)
  · rename_i y3 e3
    have h3 : Block.Kept true b y3 := .of_pair e3 (kept_translatePieces ..)
    clear e3
    split
    · exact h3
    · refine .ite (fun _ => ?_) fun _ => ?_
      · exact h3.trans (kept_ioAccess ..)
      · split
        · exact h3.trans (kept_hartAccessErr ..)
        · exact h3.trans (kept_storePieces ..)

theorem kept_taking (x0 x1 b) (h : ∀ (c : Block), Block.Kept true c (x1 c)) : Block.Kept true b (Block.taking x0 x1 b) := by
  unfold Block.taking
  split
  · rename_i y1 e1
    have h1 : Block.Kept true b y1 := .of_pair e1 (kept_arrives ..)
    clear e1
    exact h1.trans (h ..)
  · rename_i y2 e2
    have h2 : Block.Kept true b y2 := .of_pair e2 (kept_arrives ..)
    clear e2
    exact h2

theorem kept_testWays {st : Bool} (x0 x1 b) : Block.Kept st b (Block.testWays x0 x1 b).2 := by
  unfold Block.testWays
  extract_lets -merge -underBinder +onlyGivenNames v1
  clear_value v1
  extract_lets -merge -underBinder +onlyGivenNames v2
  have h2 : Block.Kept st b v2 := kept_modSail ..
  clear_value v2
  extract_lets -merge -underBinder +onlyGivenNames v3
  clear_value v3
  refine .snd ?_
  refine .after (.forN fun i4 c4 => ?_) h2
  extract_lets -merge -underBinder +onlyGivenNames v5
  clear_value v5
  exact .after (kept_put ..) (kept_put ..)

theorem kept_tileFail {st : Bool} (x0 x1 x2 x3 b) : Block.Kept st b (Block.tileFail x0 x1 x2 x3 b) := by
  unfold Block.tileFail
  extract_lets -merge -underBinder +onlyGivenNames v1
  have h1 : Block.Kept st b v1 := .after (kept_modRun ..) (kept_tileOff ..)
  clear_value v1
  exact .after (kept_tileLost ..) (.ite (fun _ => h1.trans (kept_failHead ..)) fun _ => h1.trans (kept_mstFail ..))

theorem kept_tileDone (x0 x1 x2 x3 x4 x5 x6 b) : Block.Kept true b (Block.tileDone x0 x1 x2 x3 x4 x5 x6 b) := by
  unfold Block.tileDone
  extract_lets -merge -underBinder +onlyGivenNames v1
  have h1 : Block.Kept true b v1 := kept_modMst ..
  clear_value v1
  split
  · exact h1
  · extract_lets -merge -underBinder +onlyGivenNames v2
    clear_value v2
    extract_lets -merge -underBinder +onlyGivenNames v3
    clear_value v3
    extract_lets -merge -underBinder +onlyGivenNames v4
    have h4 : Block.Kept true b v4 := .after (.whenA fun c5 => (kept_tileFix ..)) (h1.trans (kept_chargeTile ..))
    clear_value v4
    extract_lets -merge -underBinder +onlyGivenNames v6
    have h6 : Block.Kept true b v6 := h4.trans (kept_modRun ..)
    clear_value v6
    refine .ite (fun _ => ?_) fun _ => ?_
    · exact h6.trans (kept_tileFail ..)
    · extract_lets -merge -underBinder +onlyGivenNames v7
      clear_value v7
      refine .ite (fun _ => ?_) fun _ => ?_
      · split
        rename_i y8 e8
        have h8 : Block.Kept true b y8 := .of_pair e8 (h6.trans (kept_computeBlock ..))
        clear e8
        exact .ite (fun _ => h8) fun _ => .after (kept_failHead ..) (h8.trans (kept_modRun ..))
      · exact h6

theorem kept_timeoutEnds {st : Bool} (x0 b) : Block.Kept st b (Block.timeoutEnds x0 b) := by
  unfold Block.timeoutEnds
  extract_lets -merge -underBinder +onlyGivenNames v1
  have h1 : Block.Kept st b v1 := .after (.whenA fun c2 => (kept_dropWrite ..)) (kept_modCoh ..)
  clear_value v1
  refine .ite (fun _ => ?_) fun _ => ?_
  · exact h1.trans (kept_emit ..)
  · split
    · exact h1
    · extract_lets -merge -underBinder +onlyGivenNames v3
      clear_value v3
      exact h1.trans (.whenA fun c4 => (kept_modSail ..))

theorem kept_tlbLose {st : Bool} (x0 x1 b) : Block.Kept st b (Block.tlbLose x0 x1 b) := by
  unfold Block.tlbLose
  extract_lets -merge -underBinder +onlyGivenNames v1
  subst v1
  extract_lets -merge -underBinder +onlyGivenNames v2
  subst v2
  exact kept_modHart ..

theorem kept_trainedFully {st : Bool} (x0 x1 x2 x3 b) : Block.Kept st b (Block.trainedFully x0 x1 x2 x3 b) := by
  unfold Block.trainedFully
  exact .after (kept_put ..) (.after (kept_put ..) (.of_eq rfl rfl rfl rfl rfl))

theorem kept_train {st : Bool} (x0 x1 x2 x3 x4 x5 x6 b) {c : Block} (e : Block.train x0 x1 x2 x3 x4 x5 x6 b = some c) : Block.Kept st b c := by
  have full : ∀ d, (if x6 then some (Block.trainedFully x0 x1 x2 x3 d) else none) = some c → Block.Kept st d c := by
    intro d e
    split at e
    · injection e with e
      subst e
      exact kept_trainedFully ..
    · injection e
  unfold Block.train at e
  dsimp only at e
  split at e
  · exact full _ e
  · split at e
    · injection e with e
      subst e
      exact (kept_put ..).trans (kept_put ..)
    · exact (kept_note ..).trans (full _ e)

theorem kept_trial {st : Bool} (x0 b) : Block.Kept st b (Block.trial x0 b) := by
  unfold Block.trial
  exact .after (kept_trnLoad ..) (.after (kept_memTables ..) (.of_eq rfl rfl rfl rfl rfl))

theorem kept_udsSend {st : Bool} (x0 b) : Block.Kept st b (Block.udsSend x0 b) := by
  unfold Block.udsSend
  exact .ite (fun _ => kept_emit ..) fun _ => .refl _

theorem kept_udsNo {st : Bool} (x0 x1 b) : Block.Kept st b (Block.udsNo x0 x1 b) := by
  unfold Block.udsNo
  exact kept_udsSend ..

theorem kept_udsOk {st : Bool} (x0 x1 b) : Block.Kept st b (Block.udsOk x0 x1 b) := by
  unfold Block.udsOk
  exact kept_udsSend ..

theorem kept_udsSubOk {st : Bool} (x0 x1 x2 b) : Block.Kept st b (Block.udsSubOk x0 x1 x2 b) := by
  unfold Block.udsSubOk
  exact .ite (fun _ => .refl _) fun _ => kept_udsOk ..

theorem kept_unexpected {st : Bool} (x0 b) : Block.Kept st b (Block.unexpected x0 b) := by
  unfold Block.unexpected
  exact .after (kept_note ..) (kept_aerSet ..)

theorem kept_usdoWrite (x0 x1 x2 x3 x4 x5 x6 b) : Block.Kept true b (Block.usdoWrite x0 x1 x2 x3 x4 x5 x6 b).2 := by
  unfold Block.usdoWrite
  extract_lets -merge -underBinder +onlyGivenNames v1
  clear_value v1
  extract_lets -merge -underBinder +onlyGivenNames v2
  clear_value v2
  refine .iteP (fun _ => ?_) fun _ => ?_
  · exact .refl _
  · split
    rename_i y3 e3
    have h3 : Block.Kept true b y3 := .of_pair e3 (kept_segWrite ..)
    clear e3
    extract_lets -merge -underBinder +onlyGivenNames v4
    have h4 : Block.Kept true b v4 := h3.trans (kept_dropUsdo ..)
    clear_value v4
    exact .iteP (fun _ => .snd (h4.trans (.of_eq rfl rfl rfl rfl rfl))) fun _ => h4

theorem kept_vrResend {st : Bool} (b) : Block.Kept st b (Block.vrResend b) := by
  unfold Block.vrResend
  exact (.forL fun i1 c1 => (kept_emit ..))

theorem kept_walkKeys (x0 x1 b) : Block.Kept true b (Block.walkKeys x0 x1 b) := by
  induction x1 generalizing b with
  | nil =>
    unfold Block.walkKeys
    exact kept_flowMiss ..
  | cons v vs ih =>
    unfold Block.walkKeys
    split
    · exact kept_runFlow ..
    · split
      · rename_i y1 e1
        have h1 : Block.Kept true b y1 := .of_pair e1 (kept_walkFlow ..)
        clear e1
        exact h1.trans (kept_note ..)
      · rename_i y2 e2
        have h2 : Block.Kept true b y2 := .of_pair e2 (kept_walkFlow ..)
        clear e2
        exact .after (kept_runFlow ..) (h2.trans (kept_addFlow ..))
      · rename_i y3 e3
        have h3 : Block.Kept true b y3 := .of_pair e3 (kept_walkFlow ..)
        clear e3
        exact h3.trans (ih ..)

end Sys2Proof.Machine
end

