-- ==== Sys2Proof/Laws/KeptExec1.lean ====
section
/-! SUPPORT. One lemma for each meaning: what the command keeps (canonical memory, fuses, the first faults, and DRAM where it stores nothing). -/

namespace Sys2Proof.Machine

theorem kept_onPkg {st : Bool} {s t : State} {f : Block → Block} (h : onPkg s f = .next t) (k : ∀ b, Block.Kept st b (f b)) : Block.Kept st s.blk t.blk := by
  unfold onPkg at h
  injection h with h
  subst h
  exact (kept_begin _).trans (k _)

theorem kept_onBlk {st : Bool} {s t : State} {f : Block → Block} (h : onBlk s f = .next t) (k : ∀ b, Block.Kept st b (f b)) : Block.Kept st s.blk t.blk :=
  kept_onPkg h fun b => .ite (fun _ => .refl b) fun _ => k b

theorem kept_onGov {st : Bool} {s t : State} {f : Block → Block} (h : onGov s f = .next t) (k : ∀ b, Block.Kept st b (f b)) : Block.Kept st s.blk t.blk :=
  kept_onBlk h fun b => .ite (fun _ => .refl b) fun _ => k b

theorem kept_uds {st : Bool} {c : Nat} {s t : State} {f : Block → Block} (h : uds c s f = .next t) (k : ∀ b, Block.Kept st b (f b)) : Block.Kept st s.blk t.blk :=
  kept_onBlk h fun b => .ite (fun _ => k b) fun _ => .refl b

theorem kept_execAbandonRepl {st : Bool} (x0 x1 x2) (s t : State) (h : execAbandonRepl x0 x1 x2 s = .next t) : Block.Kept st s.blk t.blk := by
  unfold execAbandonRepl at h
  refine kept_onBlk h fun b => ?_
  exact .ite (fun _ => .refl _) fun _ => kept_abandonWrite ..

theorem kept_execAbstractCommand (x0 x1 x2) (s t : State) (h : execAbstractCommand x0 x1 x2 s = .next t) : Block.Kept true s.blk t.blk := by
  unfold execAbstractCommand at h
  refine kept_onBlk h fun b => ?_
  extract_lets -merge -underBinder +onlyGivenNames v1
  clear_value v1
  extract_lets -merge -underBinder +onlyGivenNames v2
  subst v2
  split
  · refine .ite (fun _ => ?_) fun _ => ?_
    · exact kept_modDbg ..
    · refine .ite (fun _ => ?_) fun _ => ?_
      · exact kept_modDbg ..
      · refine .ite (fun _ => ?_) fun _ => ?_
        · exact kept_modDbg ..
        · split
          · exact .after (kept_postExec ..) (.after (kept_modDbg ..) (kept_absWrite ..))
          · extract_lets -merge -underBinder +onlyGivenNames v3
            clear_value v3
            exact .after (kept_postExec ..) (.after (kept_emit ..) (kept_modDbg ..))
  · refine .ite (fun _ => ?_) fun _ => ?_
    · exact kept_modDbg ..
    · refine .ite (fun _ => ?_) fun _ => ?_
      · exact kept_modDbg ..
      · refine .ite (fun _ => ?_) fun _ => ?_
        · refine .ite (fun _ => ?_) fun _ => ?_
          · exact kept_modDbg ..
          · split
            · exact .after (kept_modDbg ..) (kept_scrWrite ..)
            · exact .ite (fun _ => kept_modDbg ..) fun _ => .after (kept_emit ..) (kept_modDbg ..)
        · refine .ite (fun _ => ?_) fun _ => ?_
          · exact kept_modDbg ..
          · split
            · exact .after (kept_modDbg ..) (kept_writeBytes ..)
            · split
              rename_i y4 e4
              have h4 : Block.Kept true b y4 := .of_pair e4 (kept_readNat ..)
              clear e4
              exact .ite (fun _ => h4.trans (kept_modDbg ..)) fun _ => .after (kept_emit ..) (h4.trans (kept_modDbg ..))
  · exact .ite (fun _ => kept_modDbg ..) fun _ => .ite (fun _ => kept_modDbg ..) fun _ => kept_modDbg ..
  · exact .ite (fun _ => kept_modDbg ..) fun _ => .ite (fun _ => kept_modDbg ..) fun _ => kept_modTrig ..

theorem kept_execAckMsg {st : Bool} (x0 x1 x2 x3) (s t : State) (h : execAckMsg x0 x1 x2 x3 s = .next t) : Block.Kept st s.blk t.blk := by
  unfold execAckMsg at h
  refine kept_onBlk h fun b => ?_
  exact kept_mbxRow ..

theorem kept_execAckabort {st : Bool} (x0 x1 x2 x3) (s t : State) (h : execAckabort x0 x1 x2 x3 s = .next t) : Block.Kept st s.blk t.blk := by
  unfold execAckabort at h
  refine kept_onBlk h fun b => ?_
  exact kept_mbxRow ..

theorem kept_execAdvanceCounter (x0) (s t : State) (h : execAdvanceCounter x0 s = .next t) : Block.Kept true s.blk t.blk := by
  unfold execAdvanceCounter at h
  refine kept_onBlk h fun b => ?_
  exact kept_putObj ..

theorem kept_execAlignLock {st : Bool} (x0) (s t : State) (h : execAlignLock x0 s = .next t) : Block.Kept st s.blk t.blk := by
  unfold execAlignLock at h
  refine kept_onBlk h fun b => ?_
  refine .ite (fun _ => ?_) fun _ => ?_
  · exact .refl _
  · extract_lets -merge -underBinder +onlyGivenNames v1
    have h1 : Block.Kept st b v1 := kept_toInit ..
    clear_value v1
    exact .ite (fun _ => h1) fun _ => .after (kept_note ..) (h1.trans (kept_put ..))

theorem kept_execAlignMarker {st : Bool} (x0 x1) (s t : State) (h : execAlignMarker x0 x1 s = .next t) : Block.Kept st s.blk t.blk := by
  unfold execAlignMarker at h
  refine kept_onBlk h fun b => ?_
  refine .ite (fun _ => ?_) fun _ => ?_
  · exact .refl _
  · refine .ite (fun _ => ?_) fun _ => ?_
    · exact kept_badBlock ..
    · extract_lets -merge -underBinder +onlyGivenNames v1
      clear_value v1
      extract_lets -merge -underBinder +onlyGivenNames v2
      clear_value v2
      exact .ite (fun _ => kept_oddBlock ..) fun _ => .ite (fun _ => .refl _) fun _ => .after (kept_lanesCheck ..) (.after (kept_modPort ..) (kept_put ..))

theorem kept_execAmo (x0 x1 x2 x3 x4 x5 x6) (s t : State) (h : execAmo x0 x1 x2 x3 x4 x5 x6 s = .next t) : Block.Kept true s.blk t.blk := by
  unfold execAmo at h
  refine kept_onBlk h fun b => ?_
  extract_lets -merge -underBinder +onlyGivenNames v1
  clear_value v1
  exact .ite (fun _ => .refl _) fun _ => (kept_instr (h := fun c2 => (kept_access (h := fun c3 => (kept_amo ..)) ..)) ..)

theorem kept_execAttestationNonce (x0 x1) (s t : State) (h : execAttestationNonce x0 x1 s = .next t) : Block.Kept true s.blk t.blk := by
  unfold execAttestationNonce at h
  refine kept_onBlk h fun b => ?_
  exact kept_putObj ..

theorem kept_execAuthLockoutExpiry {st : Bool} (x0) (s t : State) (h : execAuthLockoutExpiry x0 s = .next t) : Block.Kept st s.blk t.blk := by
  unfold execAuthLockoutExpiry at h
  refine kept_onBlk h fun b => ?_
  exact kept_modTrust ..

theorem kept_execAutoReadmit {st : Bool} (x0) (s t : State) (h : execAutoReadmit x0 s = .next t) : Block.Kept st s.blk t.blk := by
  unfold execAutoReadmit at h
  refine kept_onBlk h fun b => ?_
  exact .ite (fun _ => kept_startReadmit ..) fun _ => .refl _

theorem kept_execBeaconFrame {st : Bool} (x0 x1) (s t : State) (h : execBeaconFrame x0 x1 s = .next t) : Block.Kept st s.blk t.blk := by
  unfold execBeaconFrame at h
  refine kept_onBlk h fun b => ?_
  refine .ite (fun _ => ?_) fun _ => ?_
  · exact .refl _
  · refine .ite (fun _ => ?_) fun _ => ?_
    · exact kept_badBlock ..
    · refine .ite (fun _ => ?_) fun _ => ?_
      · exact kept_oddBlock ..
      · extract_lets -merge -underBinder +onlyGivenNames v1
        have h1 : Block.Kept st b v1 := kept_put ..
        clear_value v1
        extract_lets -merge -underBinder +onlyGivenNames v2
        have h2 : Block.Kept st b v2 := h1.trans (.whenA fun c3 => (kept_peerBeacon ..))
        clear_value v2
        refine .ite (fun _ => ?_) fun _ => ?_
        · exact h2
        · split
          · rename_i y4 e4
            have h4 : Block.Kept st b y4 := .of_pair e4 (h2.trans (kept_heal ..))
            clear e4
            exact h4.trans (kept_freed ..)
          · rename_i y5 e5
            have h5 : Block.Kept st b y5 := .of_pair e5 (h2.trans (kept_heal ..))
            clear e5
            exact h5

theorem kept_execBinvAck (x0 x1 x2) (s t : State) (h : execBinvAck x0 x1 x2 s = .next t) : Block.Kept true s.blk t.blk := by
  unfold execBinvAck at h
  refine kept_onBlk h fun b => ?_
  exact (kept_taking (h := fun c1 => (kept_bcastDone ..)) ..)

theorem kept_execBinvMsg (x0 x1 x2) (s t : State) (h : execBinvMsg x0 x1 x2 s = .next t) : Block.Kept true s.blk t.blk := by
  unfold execBinvMsg at h
  refine kept_onBlk h fun b => ?_
  refine kept_taking (h := fun c1 => ?_) ..
  refine .ite (fun _ => ?_) fun _ => ?_
  · exact .refl _
  · split
    · exact kept_emit ..
    · extract_lets -merge -underBinder +onlyGivenNames v2
      clear_value v2
      extract_lets -merge -underBinder +onlyGivenNames v3
      have h3 : Block.Kept true c1 v3 := (.forL fun i4 c4 => (kept_hpm ..))
      clear_value v3
      refine .ite (fun _ => ?_) fun _ => ?_
      · exact .after (kept_emit ..) (h3.trans (kept_modSail ..))
      · extract_lets -merge -underBinder +onlyGivenNames v5
        have h5 : Block.Kept true c1 v5 := h3.trans (.forL fun i6 c6 => (kept_applyFence ..))
        clear_value v5
        extract_lets -merge -underBinder +onlyGivenNames v7
        clear_value v7
        exact .ite (fun _ => h5.trans (kept_emit ..)) fun _ => h5.trans (kept_modSail ..)

theorem kept_execBinvTimeout {st : Bool} (x0 x1) (s t : State) (h : execBinvTimeout x0 x1 s = .next t) : Block.Kept st s.blk t.blk := by
  unfold execBinvTimeout at h
  refine kept_onBlk h fun b => ?_
  split
  · exact .refl _
  · exact .after (kept_bcastDone ..) (.forL fun i1 c1 => .after (kept_coreStop ..) (.of_eq rfl rfl rfl rfl rfl))

theorem kept_execBolterDecision {st : Bool} (x0) (s t : State) (h : execBolterDecision x0 s = .next t) : Block.Kept st s.blk t.blk := by
  unfold execBolterDecision at h
  refine kept_onBlk h fun b => ?_
  extract_lets -merge -underBinder +onlyGivenNames v1
  clear_value v1
  refine .ite (fun _ => ?_) fun _ => ?_
  · exact .refl _
  · refine .ite (fun _ => ?_) fun _ => ?_
    · exact kept_put ..
    · refine .ite (fun _ => ?_) fun _ => ?_
      · exact .refl _
      · extract_lets -merge -underBinder +onlyGivenNames v2
        have h2 : Block.Kept st b v2 := kept_advanceTo ..
        clear_value v2
        extract_lets -merge -underBinder +onlyGivenNames v3
        clear_value v3
        extract_lets -merge -underBinder +onlyGivenNames v4
        clear_value v4
        extract_lets -merge -underBinder +onlyGivenNames v5
        have h5 : Block.Kept st b v5 := h2.trans (.forL fun i6 c6 => (kept_note ..))
        clear_value v5
        extract_lets -merge -underBinder +onlyGivenNames v7
        clear_value v7
        extract_lets -merge -underBinder +onlyGivenNames v8
        clear_value v8
        extract_lets -merge -underBinder +onlyGivenNames v9
        have h9 : Block.Kept st b v9 := h5.trans (.whenA fun c10 => .after (kept_put ..) (kept_raise ..))
        clear_value v9
        extract_lets -merge -underBinder +onlyGivenNames v11
        clear_value v11
        extract_lets -merge -underBinder +onlyGivenNames v12
        clear_value v12
        exact h9.trans (kept_applyVerdict ..)

theorem kept_execBoundaryFrame {st : Bool} (x0 x1 x2) (s t : State) (h : execBoundaryFrame x0 x1 x2 s = .next t) : Block.Kept st s.blk t.blk := by
  unfold execBoundaryFrame at h
  refine kept_onBlk h fun b => ?_
  exact .ite (fun _ => .refl _) fun _ => kept_modSail ..

theorem kept_execBroadcastFence {st : Bool} (x0 x1 x2 x3 x4 x5) (s t : State) (h : execBroadcastFence x0 x1 x2 x3 x4 x5 s = .next t) : Block.Kept st s.blk t.blk := by
  unfold execBroadcastFence at h
  refine kept_onBlk h fun b => ?_
  exact .ite (fun _ => .refl _) fun _ => (kept_instr (h := fun c1 => (kept_fence ..)) ..)

theorem kept_execBundleUpload (x0 x1 x2 x3) (s t : State) (h : execBundleUpload x0 x1 x2 x3 s = .next t) : Block.Kept true s.blk t.blk := by
  unfold execBundleUpload at h
  refine kept_onBlk h fun b => ?_
  refine kept_serve (h := fun c1 => ?_) ..
  split
  rename_i y2 e2
  have h2 : Block.Kept true c1 y2 := .of_pair e2 (kept_segWrite ..)
  clear e2
  exact h2

theorem kept_execCacheBlockOperation (x0 x1 x2 x3) (s t : State) (h : execCacheBlockOperation x0 x1 x2 x3 s = .next t) : Block.Kept true s.blk t.blk := by
  unfold execCacheBlockOperation at h
  refine kept_onBlk h fun b => ?_
  extract_lets -merge -underBinder +onlyGivenNames v1
  clear_value v1
  refine .ite (fun _ => ?_) fun _ => ?_
  · exact .refl _
  · refine kept_instr (h := fun c2 => ?_) ..
    split
    · exact kept_except ..
    · split
      · exact kept_prefetch ..
      · exact kept_cbo ..

theorem kept_execCacheErrorCorrected (x0 x1 x2 x3 x4 x5) (s t : State) (h : execCacheErrorCorrected x0 x1 x2 x3 x4 x5 s = .next t) : Block.Kept true s.blk t.blk := by
  unfold execCacheErrorCorrected at h
  refine kept_onBlk h fun b => ?_
  refine .ite (fun _ => ?_) fun _ => ?_
  · exact .refl _
  · extract_lets -merge -underBinder +onlyGivenNames v1
    have h1 : Block.Kept true b v1 := .after (kept_noteOnce ..) (.after (kept_pmu ..) (kept_put ..))
    clear_value v1
    split
    · exact h1.trans (kept_addWayErr ..)
    · exact .ite (fun _ => h1.trans (kept_modHart ..)) fun _ => h1
    · exact h1

theorem kept_execCacheUncorrectableError (x0 x1 x2 x3 x4 x5 x6) (s t : State) (h : execCacheUncorrectableError x0 x1 x2 x3 x4 x5 x6 s = .next t) : Block.Kept true s.blk t.blk := by
  unfold execCacheUncorrectableError at h
  refine kept_onBlk h fun b => ?_
  extract_lets -merge -underBinder +onlyGivenNames v1
  clear_value v1
  extract_lets -merge -underBinder +onlyGivenNames v2
  clear_value v2
  refine .ite (fun _ => ?_) fun _ => ?_
  · exact .refl _
  · split
    · exact .ite (fun _ => kept_disableWay ..) fun _ => .after (kept_addWayErr ..) (kept_poisonLine ..)
    · exact kept_tlbLose ..
    · exact .ite (fun _ => kept_coreFail ..) fun _ => kept_modHart ..
    · exact .ite (fun _ => kept_coreFail ..) fun _ => .ite (fun _ => kept_poisonLine ..) fun _ => .refl _
    · exact .ite (fun _ => kept_coreFail ..) fun _ => .ite (fun _ => kept_poisonLine ..) fun _ => .refl _

theorem kept_execCancelPending (x0) (s t : State) (h : execCancelPending x0 s = .next t) : Block.Kept true s.blk t.blk := by
  unfold execCancelPending at h
  refine kept_onBlk h fun b => ?_
  exact kept_putObj ..

theorem kept_execCanopenHeartbeat {st : Bool} (x0) (s t : State) (h : execCanopenHeartbeat x0 s = .next t) : Block.Kept st s.blk t.blk := by
  unfold execCanopenHeartbeat at h
  refine kept_onBlk h fun b => ?_
  exact .ite (fun _ => kept_emit ..) fun _ => .refl _

theorem kept_execCatchUpComplete (x0 x1) (s t : State) (h : execCatchUpComplete x0 x1 s = .next t) : Block.Kept true s.blk t.blk := by
  unfold execCatchUpComplete at h
  refine kept_onBlk h fun b => ?_
  extract_lets -merge -underBinder +onlyGivenNames v1
  clear_value v1
  split
  · exact .after (kept_showCopy ..) (.after (kept_endCatch ..) (kept_catchCopy ..))
  · exact .refl _

theorem kept_execCatchUpStart {st : Bool} (x0 x1) (s t : State) (h : execCatchUpStart x0 x1 s = .next t) : Block.Kept st s.blk t.blk := by
  unfold execCatchUpStart at h
  refine kept_onBlk h fun b => ?_
  extract_lets -merge -underBinder +onlyGivenNames v1
  clear_value v1
  exact .ite (fun _ => .refl _) fun _ => .ite (fun _ => kept_giveUpCatch ..) fun _ => .ite (fun _ => .refl _) fun _ => .after (kept_showCopy ..) (kept_modRepl ..)

theorem kept_execChallengeExpiry {st : Bool} (x0 x1) (s t : State) (h : execChallengeExpiry x0 x1 s = .next t) : Block.Kept st s.blk t.blk := by
  unfold execChallengeExpiry at h
  refine kept_onBlk h fun b => ?_
  exact kept_modTrust ..

theorem kept_execClearDiagnosticInformation {st : Bool} (x0 x1) (s t : State) (h : execClearDiagnosticInformation x0 x1 s = .next t) : Block.Kept st s.blk t.blk := by
  unfold execClearDiagnosticInformation at h
  refine kept_uds h fun b => ?_
  extract_lets -merge -underBinder +onlyGivenNames v1
  clear_value v1
  exact .ite (fun _ => kept_udsNo ..) fun _ => .ite (fun _ => .after (kept_udsOk ..) (kept_modSvc ..)) fun _ => .ite (fun _ => .after (kept_udsOk ..) (kept_modSvc ..)) fun _ => kept_udsNo ..

theorem kept_execClockLost (x0) (s t : State) (h : execClockLost x0 s = .next t) : Block.Kept true s.blk t.blk := by
  unfold execClockLost at h
  refine kept_onBlk h fun b => ?_
  refine .ite (fun _ => ?_) fun _ => ?_
  · exact .refl _
  · extract_lets -merge -underBinder +onlyGivenNames s1 v1
    have h1 : Block.Kept true b v1 := (.of_eq rfl rfl rfl rfl rfl)
    clear_value v1
    split
    · exact .after (kept_raise ..) (h1.trans (kept_put ..))
    · exact .after (kept_raise ..) (h1.trans (.forN fun i2 c2 => (kept_freezeSub ..)))
    · extract_lets -merge -underBinder +onlyGivenNames v3
      clear_value v3
      exact .after (kept_raiseAll ..) (h1.trans (.forL fun i4 c4 => (kept_toTrain ..)))

theorem kept_execClockRegained {st : Bool} (x0) (s t : State) (h : execClockRegained x0 s = .next t) : Block.Kept st s.blk t.blk := by
  unfold execClockRegained at h
  refine kept_onBlk h fun b => ?_
  refine .ite (fun _ => ?_) fun _ => ?_
  · exact .refl _
  · extract_lets -merge -underBinder +onlyGivenNames s1 v1
    have h1 : Block.Kept st b v1 := (.of_eq rfl rfl rfl rfl rfl)
    clear_value v1
    extract_lets -merge -underBinder +onlyGivenNames v2
    have h2 : Block.Kept st b v2 := h1.trans (.whenA fun c3 => (kept_put ..))
    clear_value v2
    exact h2.trans (kept_note ..)

theorem kept_execCodewordLockLost {st : Bool} (x0) (s t : State) (h : execCodewordLockLost x0 s = .next t) : Block.Kept st s.blk t.blk := by
  unfold execCodewordLockLost at h
  refine kept_onBlk h fun b => ?_
  exact .ite (fun _ => .refl _) fun _ => .after (kept_raise ..) (kept_toTrain ..)

theorem kept_execCommitAndPersist (x0) (s t : State) (h : execCommitAndPersist x0 s = .next t) : Block.Kept true s.blk t.blk := by
  unfold execCommitAndPersist at h
  refine kept_onBlk h fun b => ?_
  exact kept_putObj ..

theorem kept_execCommitChecksComplete {st : Bool} (s t : State) (h : execCommitChecksComplete s = .next t) : Block.Kept st s.blk t.blk := by
  unfold execCommitChecksComplete at h
  refine kept_onBlk h fun b => ?_
  refine .ite (fun _ => ?_) fun _ => ?_
  · exact .refl _
  · extract_lets -merge -underBinder +onlyGivenNames v1
    clear_value v1
    refine .ite (fun _ => ?_) fun _ => ?_
    · exact kept_refuseCommit ..
    · extract_lets -merge -underBinder +onlyGivenNames v2
      have h2 : Block.Kept st b v2 := (.of_eq rfl rfl rfl rfl rfl)
      clear_value v2
      extract_lets -merge -underBinder +onlyGivenNames s3 v3
      have h3 : Block.Kept st b v3 := .after (kept_note ..) (.of_eq rfl rfl rfl rfl rfl)
      clear_value v3
      exact .ite (fun _ => h3.trans (kept_announceAll ..)) fun _ => h3

theorem kept_execCommitImg (x0) (s t : State) (h : execCommitImg x0 s = .next t) : Block.Kept true s.blk t.blk := by
  unfold execCommitImg at h
  refine kept_onBlk h fun b => ?_
  exact kept_putObj ..

theorem kept_execCompData (x0 x1 x2 x3 x4 x5) (s t : State) (h : execCompData x0 x1 x2 x3 x4 x5 s = .next t) : Block.Kept true s.blk t.blk := by
  unfold execCompData at h
  refine kept_onBlk h fun b => ?_
  exact (kept_taking (h := fun c1 => .ite (fun _ => kept_takeCompData ..) fun _ => .refl _) ..)

theorem kept_execCompMsg (x0 x1 x2) (s t : State) (h : execCompMsg x0 x1 x2 s = .next t) : Block.Kept true s.blk t.blk := by
  unfold execCompMsg at h
  refine kept_onBlk h fun b => ?_
  exact (kept_taking (h := fun c1 => .ite (fun _ => kept_takeComp ..) fun _ => .refl _) ..)

theorem kept_execCompletionTimeout {st : Bool} (x0 x1) (s t : State) (h : execCompletionTimeout x0 x1 s = .next t) : Block.Kept st s.blk t.blk := by
  unfold execCompletionTimeout at h
  refine kept_onBlk h fun b => ?_
  split
  · exact .refl _
  · exact .ite (fun _ => .refl _) fun _ => .after (kept_note ..) (.after (kept_aerSet ..) (.after (kept_tagDone ..) (.after (kept_showTags ..) (kept_modPci ..))))

theorem kept_execConfigurationRequest (x0 x1) (s t : State) (h : execConfigurationRequest x0 x1 s = .next t) : Block.Kept true s.blk t.blk := by
  unfold execConfigurationRequest at h
  refine kept_onBlk h fun b => ?_
  refine .ite (fun _ => ?_) fun _ => ?_
  · exact .refl _
  · refine .ite (fun _ => ?_) fun _ => ?_
    · exact kept_emit ..
    · extract_lets -merge -underBinder +onlyGivenNames v1
      subst v1
      split
      · exact kept_emit ..
      · exact .after (kept_emit ..) (.after (.whenA fun c2 => .after (.whenA fun c3 => (kept_fetchAll ..)) (kept_sendWaiting ..)) (kept_modFn ..))
      · exact .after (kept_emit ..) (.after (.whenA fun c4 => (kept_sendWaiting ..)) (kept_modFn ..))
      · exact .after (kept_emit ..) (.after (.whenA fun c5 => (kept_resetInst ..)) (kept_resetFn ..))
      · exact .after (kept_emit ..) (kept_modSub ..)
      · exact kept_emit ..

theorem kept_execConfirmBank (x0) (s t : State) (h : execConfirmBank x0 s = .next t) : Block.Kept true s.blk t.blk := by
  unfold execConfirmBank at h
  refine kept_onBlk h fun b => ?_
  exact kept_putObj ..

theorem kept_execControlDtcSetting {st : Bool} (x0 x1) (s t : State) (h : execControlDtcSetting x0 x1 s = .next t) : Block.Kept st s.blk t.blk := by
  unfold execControlDtcSetting at h
  refine kept_uds h fun b => ?_
  extract_lets -merge -underBinder +onlyGivenNames v1
  clear_value v1
  exact .ite (fun _ => kept_udsNo ..) fun _ => .ite (fun _ => .after (kept_udsSubOk ..) (kept_modSvc ..)) fun _ => .ite (fun _ => .after (kept_udsSubOk ..) (kept_modSvc ..)) fun _ => kept_udsNo ..

theorem kept_execConvCmd (x0 x1 x2) (s t : State) (h : execConvCmd x0 x1 x2 s = .next t) : Block.Kept true s.blk t.blk := by
  unfold execConvCmd at h
  refine kept_onBlk h fun b => ?_
  exact kept_mstStart ..

theorem kept_execCopyCmd (x0 x1 x2) (s t : State) (h : execCopyCmd x0 x1 x2 s = .next t) : Block.Kept true s.blk t.blk := by
  unfold execCopyCmd at h
  refine kept_onBlk h fun b => ?_
  exact kept_mstStart ..

theorem kept_execCoreStop {st : Bool} (x0 x1 x2) (s t : State) (h : execCoreStop x0 x1 x2 s = .next t) : Block.Kept st s.blk t.blk := by
  unfold execCoreStop at h
  refine kept_onBlk h fun b => ?_
  exact .ite (fun _ => .refl _) fun _ => kept_coreFail ..

theorem kept_execCorrectableError {st : Bool} (x0 x1) (s t : State) (h : execCorrectableError x0 x1 s = .next t) : Block.Kept st s.blk t.blk := by
  unfold execCorrectableError at h
  refine kept_onBlk h fun b => ?_
  exact .ite (fun _ => .refl _) fun _ => .after (kept_noteOnce ..) (.after (kept_inc ..) (kept_aerSet ..))

theorem kept_execCreditFrame {st : Bool} (x0 x1) (s t : State) (h : execCreditFrame x0 x1 s = .next t) : Block.Kept st s.blk t.blk := by
  unfold execCreditFrame at h
  refine kept_onBlk h fun b => ?_
  exact .ite (fun _ => .refl _) fun _ => .ite (fun _ => kept_badBlock ..) fun _ => .ite (fun _ => kept_oddBlock ..) fun _ => kept_freed ..

theorem kept_execCreditReport {st : Bool} (x0) (s t : State) (h : execCreditReport x0 s = .next t) : Block.Kept st s.blk t.blk := by
  unfold execCreditReport at h
  refine kept_onBlk h fun b => ?_
  extract_lets -merge -underBinder +onlyGivenNames v1
  clear_value v1
  exact .ite (fun _ => .refl _) fun _ => .after (kept_modPort ..) (kept_sendBlock ..)

theorem kept_execDbgEnd {st : Bool} (s t : State) (h : execDbgEnd s = .next t) : Block.Kept st s.blk t.blk := by
  unfold execDbgEnd at h
  refine kept_onBlk h fun b => ?_
  exact kept_dbgEnd ..

theorem kept_execDbgRespWrite {st : Bool} (x0) (s t : State) (h : execDbgRespWrite x0 s = .next t) : Block.Kept st s.blk t.blk := by
  unfold execDbgRespWrite at h
  refine kept_onBlk h fun b => ?_
  exact kept_dbgResp ..

theorem kept_execDbgStart {st : Bool} (s t : State) (h : execDbgStart s = .next t) : Block.Kept st s.blk t.blk := by
  unfold execDbgStart at h
  refine kept_onBlk h fun b => ?_
  exact .ite (fun _ => .refl _) fun _ => kept_dbgStart ..

theorem kept_execDbgSubmit {st : Bool} (s t : State) (h : execDbgSubmit s = .next t) : Block.Kept st s.blk t.blk := by
  unfold execDbgSubmit at h
  refine kept_onBlk h fun b => ?_
  exact .ite (fun _ => .refl _) fun _ => kept_dbgSubmit ..

theorem kept_execDeadlineMark {st : Bool} (x0) (s t : State) (h : execDeadlineMark x0 s = .next t) : Block.Kept st s.blk t.blk := by
  unfold execDeadlineMark at h
  refine kept_onBlk h fun b => ?_
  refine .ite (fun _ => ?_) fun _ => ?_
  · exact .refl _
  · extract_lets -merge -underBinder +onlyGivenNames v1
    have h1 : Block.Kept st b v1 := kept_advanceTo ..
    clear_value v1
    extract_lets -merge -underBinder +onlyGivenNames v2
    clear_value v2
    extract_lets -merge -underBinder +onlyGivenNames v3
    clear_value v3
    extract_lets -merge -underBinder +onlyGivenNames v4
    clear_value v4
    exact .after (kept_raiseAll ..) (h1.trans (.forL fun i5 c5 => (kept_missMark ..)))

theorem kept_execDescriptorComplete (s t : State) (h : execDescriptorComplete s = .next t) : Block.Kept true s.blk t.blk := by
  unfold execDescriptorComplete at h
  refine kept_onBlk h fun b => ?_
  split
  · exact .refl _
  · extract_lets -merge -underBinder +onlyGivenNames v1
    have h1 : Block.Kept true b v1 := kept_modSlc ..
    clear_value v1
    extract_lets -merge -underBinder +onlyGivenNames v2
    have h2 : Block.Kept true b v2 := h1.trans (kept_complete ..)
    clear_value v2
    extract_lets -merge -underBinder +onlyGivenNames v3
    have h3 : Block.Kept true b v3 := .ite (fun _ => h2.trans (kept_modSlc ..)) fun _ => h2
    clear_value v3
    exact h3.trans (kept_fetchAll ..)

theorem kept_execDiagnosticSessionControl {st : Bool} (x0 x1) (s t : State) (h : execDiagnosticSessionControl x0 x1 s = .next t) : Block.Kept st s.blk t.blk := by
  unfold execDiagnosticSessionControl at h
  refine kept_uds h fun b => ?_
  refine .ite (fun _ => ?_) fun _ => ?_
  · exact kept_udsNo ..
  · refine .ite (fun _ => ?_) fun _ => ?_
    · exact .after (kept_udsSubOk ..) (kept_modConn ..)
    · refine .ite (fun _ => ?_) fun _ => ?_
      · split
        rename_i y1 e1
        have h1 : Block.Kept st b y1 := .of_pair e1 (kept_request (h := fun c2 => (kept_serviceReq ..)) ..)
        clear e1
        exact .ite (fun _ => h1.trans (kept_udsNo ..)) fun _ => .after (kept_udsSubOk ..) (h1.trans (kept_modConn ..))
      · exact kept_udsNo ..

theorem kept_execDictionaryRead (x0 x1 x2 x3 x4) (s t : State) (h : execDictionaryRead x0 x1 x2 x3 x4 s = .next t) : Block.Kept true s.blk t.blk := by
  unfold execDictionaryRead at h
  refine kept_onBlk h fun b => ?_
  exact kept_dictRequest ..

theorem kept_execDictionaryWindowGo (s t : State) (h : execDictionaryWindowGo s = .next t) : Block.Kept true s.blk t.blk := by
  unfold execDictionaryWindowGo at h
  refine kept_onBlk h fun b => ?_
  exact .ite (fun _ => kept_dictGo ..) fun _ => .refl _

theorem kept_execDictionaryWrite (x0 x1 x2 x3) (s t : State) (h : execDictionaryWrite x0 x1 x2 x3 s = .next t) : Block.Kept true s.blk t.blk := by
  unfold execDictionaryWrite at h
  refine kept_onBlk h fun b => ?_
  exact kept_dictRequest ..

theorem kept_execDigestComplete (x0 x1 x2) (s t : State) (h : execDigestComplete x0 x1 x2 s = .next t) : Block.Kept true s.blk t.blk := by
  unfold execDigestComplete at h
  refine kept_onBlk h fun b => ?_
  split
  · exact .refl _
  · extract_lets -merge -underBinder +onlyGivenNames v1
    clear_value v1
    extract_lets -merge -underBinder +onlyGivenNames v2
    clear_value v2
    extract_lets -merge -underBinder +onlyGivenNames v3
    have h3 : Block.Kept true b v3 := (.whenA fun c4 => (kept_makeDigest ..))
    clear_value v3
    exact h3.trans (kept_endEng ..)

theorem kept_execDigestRecord {st : Bool} (x0) (s t : State) (h : execDigestRecord x0 s = .next t) : Block.Kept st s.blk t.blk := by
  unfold execDigestRecord at h
  refine kept_onBlk h fun b => ?_
  extract_lets -merge -underBinder +onlyGivenNames v1
  clear_value v1
  extract_lets -merge -underBinder +onlyGivenNames v2
  clear_value v2
  refine .ite (fun _ => ?_) fun _ => ?_
  · exact .refl _
  · extract_lets -merge -underBinder +onlyGivenNames v3
    clear_value v3
    exact .after (kept_put ..) (kept_modPart ..)

theorem kept_execDirtyNote (x0 x1 x2 x3) (s t : State) (h : execDirtyNote x0 x1 x2 x3 s = .next t) : Block.Kept true s.blk t.blk := by
  unfold execDirtyNote at h
  refine kept_onBlk h fun b => ?_
  exact (kept_taking (h := fun c1 => (kept_cachingReq ..)) ..)

theorem kept_execDiscardImg (x0) (s t : State) (h : execDiscardImg x0 s = .next t) : Block.Kept true s.blk t.blk := by
  unfold execDiscardImg at h
  refine kept_onBlk h fun b => ?_
  exact kept_putObj ..

theorem kept_execDrainOverrun {st : Bool} (s t : State) (h : execDrainOverrun s = .next t) : Block.Kept st s.blk t.blk := by
  unfold execDrainOverrun at h
  refine kept_onBlk h fun b => ?_
  exact .ite (fun _ => .after (kept_raise ..) (kept_put ..)) fun _ => .refl _

theorem kept_execDrainTimeout (x0) (s t : State) (h : execDrainTimeout x0 s = .next t) : Block.Kept true s.blk t.blk := by
  unfold execDrainTimeout at h
  refine kept_onBlk h fun b => ?_
  exact .ite (fun _ => .refl _) fun _ => .after (kept_note ..) (.after (kept_squashInst ..) (kept_put ..))

theorem kept_execDresserRead (x0 x1 x2) (s t : State) (h : execDresserRead x0 x1 x2 s = .next t) : Block.Kept true s.blk t.blk := by
  unfold execDresserRead at h
  refine kept_onBlk h fun b => ?_
  refine .ite (fun _ => ?_) fun _ => ?_
  · exact .refl _
  · extract_lets -merge -underBinder +onlyGivenNames v1
    clear_value v1
    split
    rename_i y2 e2
    have h2 : Block.Kept true b y2 := .of_pair e2 <| by
      split
      · exact .refl _
      · refine .iteP (fun _ => ?_) fun _ => ?_
        · exact .refl _
        · extract_lets -merge -underBinder +onlyGivenNames v3
          have h3 : Block.Kept true b v3 := .after (kept_note ..) (.after (kept_setR ..) (kept_inc ..))
          clear_value v3
          extract_lets -merge -underBinder +onlyGivenNames s4 v4
          have h4 : Block.Kept true b v4 := h3.trans (.of_eq rfl rfl rfl rfl rfl)
          clear_value v4
          exact h4
    clear e2
    split
    · exact h2.trans (kept_put ..)
    · extract_lets -merge -underBinder +onlyGivenNames v5
      have h5 : Block.Kept true b v5 := .after (kept_put ..) (h2.trans (kept_put ..))
      clear_value v5
      extract_lets -merge -underBinder +onlyGivenNames s6 v6
      have h6 : Block.Kept true b v6 := h5.trans (.of_eq rfl rfl rfl rfl rfl)
      clear_value v6
      exact .after (kept_dressLine ..) (h6.trans (kept_addErrs ..))

theorem kept_execDupCopySend {st : Bool} (x0) (s t : State) (h : execDupCopySend x0 s = .next t) : Block.Kept st s.blk t.blk := by
  unfold execDupCopySend at h
  refine kept_onBlk h fun b => ?_
  extract_lets -merge -underBinder +onlyGivenNames v1
  have h1 : Block.Kept st b v1 := kept_dropOutputs ..
  clear_value v1
  split
  · exact h1
  · extract_lets -merge -underBinder +onlyGivenNames v2
    have h2 : Block.Kept st b v2 := h1.trans (kept_advanceTo ..)
    clear_value v2
    exact .ite (fun _ => h2) fun _ => .after (kept_pnCheck ..) (.after (kept_putSack ..) (h2.trans (kept_modPort ..)))

theorem kept_execEccSelftestComplete {st : Bool} (x0 x1) (s t : State) (h : execEccSelftestComplete x0 x1 s = .next t) : Block.Kept st s.blk t.blk := by
  unfold execEccSelftestComplete at h
  refine kept_onBlk h fun b => ?_
  refine .ite (fun _ => ?_) fun _ => ?_
  · exact .refl _
  · refine .ite (fun _ => ?_) fun _ => ?_
    · exact .after (kept_raise ..) (kept_put ..)
    · extract_lets -merge -underBinder +onlyGivenNames v1
      have h1 : Block.Kept st b v1 := kept_put ..
      clear_value v1
      exact .ite (fun _ => h1.trans (kept_bootLayout ..)) fun _ => h1

theorem kept_execEcuReset (x0 x1) (s t : State) (h : execEcuReset x0 x1 s = .next t) : Block.Kept true s.blk t.blk := by
  unfold execEcuReset at h
  refine kept_uds h fun b => ?_
  exact .ite (fun _ => kept_udsNo ..) fun _ => .ite (fun _ => kept_udsNo ..) fun _ => .ite (fun _ => kept_udsNo ..) fun _ => .after (kept_resetReq ..) (kept_udsSubOk ..)

theorem kept_execEndSession (x0) (s t : State) (h : execEndSession x0 s = .next t) : Block.Kept true s.blk t.blk := by
  unfold execEndSession at h
  refine kept_onBlk h fun b => ?_
  exact kept_putObj ..

theorem kept_execEthernetFrameReceive (x0 x1 x2) (s t : State) (h : execEthernetFrameReceive x0 x1 x2 s = .next t) : Block.Kept true s.blk t.blk := by
  unfold execEthernetFrameReceive at h
  refine kept_onBlk h fun b => ?_
  extract_lets -merge -underBinder +onlyGivenNames v1
  clear_value v1
  refine .ite (fun _ => ?_) fun _ => ?_
  · exact .refl _
  · refine .ite (fun _ => ?_) fun _ => ?_
    · exact .after (kept_put ..) (kept_cnt ..)
    · split
      · rename_i y2 e2
        have h2 : Block.Kept true b y2 := .of_pair e2 (kept_macOpen ..)
        clear e2
        exact .after (kept_note ..) (h2.trans (kept_put ..))
      · rename_i y3 e3
        have h3 : Block.Kept true b y3 := .of_pair e3 (kept_macOpen ..)
        clear e3
        extract_lets -merge -underBinder +onlyGivenNames v4
        clear_value v4
        extract_lets -merge -underBinder +onlyGivenNames v5
        clear_value v5
        refine .ite (fun _ => ?_) fun _ => ?_
        · exact h3
        · refine .ite (fun _ => ?_) fun _ => ?_
          · exact h3.trans (kept_nativeFrame ..)
          · extract_lets -merge -underBinder +onlyGivenNames v6
            clear_value v6
            extract_lets -merge -underBinder +onlyGivenNames v7
            clear_value v7
            exact h3.trans (kept_classify ..)

theorem kept_execEvictAck (x0 x1) (s t : State) (h : execEvictAck x0 x1 s = .next t) : Block.Kept true s.blk t.blk := by
  unfold execEvictAck at h
  refine kept_onBlk h fun b => ?_
  exact (kept_taking (h := fun c1 => (kept_takeEvictAck ..)) ..)

theorem kept_execEvictClean (x0 x1 x2 x3) (s t : State) (h : execEvictClean x0 x1 x2 x3 s = .next t) : Block.Kept true s.blk t.blk := by
  unfold execEvictClean at h
  refine kept_onBlk h fun b => ?_
  exact (kept_taking (h := fun c1 => (kept_cachingReq ..)) ..)

theorem kept_execEvtCrossingAck {st : Bool} (x0) (s t : State) (h : execEvtCrossingAck x0 s = .next t) : Block.Kept st s.blk t.blk := by
  unfold execEvtCrossingAck at h
  refine kept_onBlk h fun b => ?_
  extract_lets -merge -underBinder +onlyGivenNames v1
  clear_value v1
  refine .ite (fun _ => ?_) fun _ => ?_
  · exact .refl _
  · extract_lets -merge -underBinder +onlyGivenNames v2
    have h2 : Block.Kept st b v2 := kept_modEvt ..
    clear_value v2
    split
    · exact h2.trans (kept_evtDeliver ..)
    · exact h2

theorem kept_execEvtFilterAccept {st : Bool} (x0) (s t : State) (h : execEvtFilterAccept x0 s = .next t) : Block.Kept st s.blk t.blk := by
  unfold execEvtFilterAccept at h
  refine kept_onBlk h fun b => ?_
  refine .ite (fun _ => ?_) fun _ => ?_
  · exact .refl _
  · extract_lets -merge -underBinder +onlyGivenNames v1
    clear_value v1
    extract_lets -merge -underBinder +onlyGivenNames v2
    have h2 : Block.Kept st b v2 := .after (kept_modEvt ..) (kept_put ..)
    clear_value v2
    exact .ite (fun _ => h2.trans (kept_evtEvent ..)) fun _ => h2

theorem kept_execEvtInputEdge {st : Bool} (x0 x1) (s t : State) (h : execEvtInputEdge x0 x1 s = .next t) : Block.Kept st s.blk t.blk := by
  unfold execEvtInputEdge at h
  refine kept_onBlk h fun b => ?_
  extract_lets -merge -underBinder +onlyGivenNames v1
  clear_value v1
  refine .ite (fun _ => ?_) fun _ => ?_
  · exact .refl _
  · extract_lets -merge -underBinder +onlyGivenNames v2
    have h2 : Block.Kept st b v2 := (.whenA fun c3 => (kept_inc ..))
    clear_value v2
    extract_lets -merge -underBinder +onlyGivenNames v4
    clear_value v4
    extract_lets -merge -underBinder +onlyGivenNames v5
    have h5 : Block.Kept st b v5 := h2.trans (kept_modEvt ..)
    clear_value v5
    extract_lets -merge -underBinder +onlyGivenNames v6
    clear_value v6
    exact h5.trans (kept_modEvt ..)

theorem kept_execEvtStuckRearm {st : Bool} (x0) (s t : State) (h : execEvtStuckRearm x0 s = .next t) : Block.Kept st s.blk t.blk := by
  unfold execEvtStuckRearm at h
  refine kept_onBlk h fun b => ?_
  exact .ite (fun _ => .refl _) fun _ => kept_evtRearm ..

theorem kept_execExtendMeasurement (x0 x1 x2) (s t : State) (h : execExtendMeasurement x0 x1 x2 s = .next t) : Block.Kept true s.blk t.blk := by
  unfold execExtendMeasurement at h
  refine kept_onBlk h fun b => ?_
  exact kept_putObj ..

theorem kept_execFaultOutReadback {st : Bool} (x0 x1) (s t : State) (h : execFaultOutReadback x0 x1 s = .next t) : Block.Kept st s.blk t.blk := by
  unfold execFaultOutReadback at h
  refine kept_onBlk h fun b => ?_
  refine .ite (fun _ => ?_) fun _ => ?_
  · exact .refl _
  · extract_lets -merge -underBinder +onlyGivenNames v1
    clear_value v1
    extract_lets -merge -underBinder +onlyGivenNames v2
    clear_value v2
    extract_lets -merge -underBinder +onlyGivenNames s3 v3
    have h3 : Block.Kept st b v3 := (.of_eq rfl rfl rfl rfl rfl)
    clear_value v3
    exact .after (.whenA fun c5 => (kept_raise ..)) (h3.trans (.whenA fun c4 => (kept_raise ..)))

theorem kept_execFaultOutTest {st : Bool} (x0) (s t : State) (h : execFaultOutTest x0 s = .next t) : Block.Kept st s.blk t.blk := by
  unfold execFaultOutTest at h
  refine kept_onBlk h fun b => ?_
  exact .ite (fun _ => kept_put ..) fun _ => .refl _

theorem kept_execFaultRaised {st : Bool} (x0) (s t : State) (h : execFaultRaised x0 s = .next t) : Block.Kept st s.blk t.blk := by
  unfold execFaultRaised at h
  refine kept_onBlk h fun b => ?_
  exact kept_raiseAll ..

theorem kept_execFilterUncorrectable {st : Bool} (x0 x1) (s t : State) (h : execFilterUncorrectable x0 x1 s = .next t) : Block.Kept st s.blk t.blk := by
  unfold execFilterUncorrectable at h
  refine kept_onBlk h fun b => ?_
  exact .ite (fun _ => .refl _) fun _ => .ite (fun _ => .after (kept_noteOnce ..) (kept_inc ..)) fun _ => .after (kept_note ..) (.after (kept_showRebuild ..) (.after (kept_modCoh ..) (.after (kept_put ..) (kept_inc ..))))

theorem kept_execFlowCacheError {st : Bool} (x0 x1) (s t : State) (h : execFlowCacheError x0 x1 s = .next t) : Block.Kept st s.blk t.blk := by
  unfold execFlowCacheError at h
  refine kept_onBlk h fun b => ?_
  split
  · exact .refl _
  · refine .ite (fun _ => ?_) fun _ => ?_
    · exact kept_noteOnce ..
    · refine .ite (fun _ => ?_) fun _ => ?_
      · extract_lets -merge -underBinder +onlyGivenNames v1
        clear_value v1
        exact .after (kept_note ..) (kept_modFlow ..)
      · exact kept_dropFlow ..

theorem kept_execFlowDelete (x0 x1 x2) (s t : State) (h : execFlowDelete x0 x1 x2 s = .next t) : Block.Kept true s.blk t.blk := by
  unfold execFlowDelete at h
  refine kept_onBlk h fun b => ?_
  exact kept_managerWord ..

theorem kept_execFlowInsert (x0 x1 x2) (s t : State) (h : execFlowInsert x0 x1 x2 s = .next t) : Block.Kept true s.blk t.blk := by
  unfold execFlowInsert at h
  refine kept_onBlk h fun b => ?_
  exact kept_managerWord ..

theorem kept_execFlowLookup (x0 x1 x2) (s t : State) (h : execFlowLookup x0 x1 x2 s = .next t) : Block.Kept true s.blk t.blk := by
  unfold execFlowLookup at h
  refine kept_onBlk h fun b => ?_
  exact kept_managerWord ..

theorem kept_execFlowModify (x0 x1 x2) (s t : State) (h : execFlowModify x0 x1 x2 s = .next t) : Block.Kept true s.blk t.blk := by
  unfold execFlowModify at h
  refine kept_onBlk h fun b => ?_
  exact kept_managerWord ..

theorem kept_execFlowRead (x0 x1 x2) (s t : State) (h : execFlowRead x0 x1 x2 s = .next t) : Block.Kept true s.blk t.blk := by
  unfold execFlowRead at h
  refine kept_onBlk h fun b => ?_
  exact kept_managerWord ..

theorem kept_execFlowWalkComplete (x0) (s t : State) (h : execFlowWalkComplete x0 s = .next t) : Block.Kept true s.blk t.blk := by
  unfold execFlowWalkComplete at h
  refine kept_onBlk h fun b => ?_
  split
  · exact .refl _
  · extract_lets -merge -underBinder +onlyGivenNames v1
    clear_value v1
    exact .ite (fun _ => .refl _) fun _ => .after (.forL fun i2 c2 => (kept_walkKeys ..)) (kept_modSlc ..)

end Sys2Proof.Machine
end

