-- ==== Sys2Proof/Laws/KeptExec2.lean ====
section
/-! SUPPORT. One lemma for each meaning: what the command keeps (canonical memory, fuses, the first faults, and DRAM where it stores nothing). -/

namespace Sys2Proof.Machine

theorem kept_execFlumeFrameCrcError {st : Bool} (x0 x1 x2) (s t : State) (h : execFlumeFrameCrcError x0 x1 x2 s = .next t) : Block.Kept st s.blk t.blk := by
  unfold execFlumeFrameCrcError at h
  refine kept_onBlk h fun b => ?_
  exact .ite (fun _ => .refl _) fun _ => .after (kept_sendNak ..) (.after (kept_modLend ..) (.after (kept_modLend ..) (.whenA fun c1 => (kept_inc ..))))

theorem kept_execFlumeLinkDown (x0 x1) (s t : State) (h : execFlumeLinkDown x0 x1 s = .next t) : Block.Kept true s.blk t.blk := by
  unfold execFlumeLinkDown at h
  refine kept_onBlk h fun b => ?_
  exact .ite (fun _ => kept_linkDown ..) fun _ => .refl _

theorem kept_execFlumeLinkRestored {st : Bool} (x0 x1) (s t : State) (h : execFlumeLinkRestored x0 x1 s = .next t) : Block.Kept st s.blk t.blk := by
  unfold execFlumeLinkRestored at h
  refine kept_onBlk h fun b => ?_
  exact .ite (fun _ => .refl _) fun _ => .after (kept_note ..) (kept_modLend ..)

theorem kept_execFlumeNak (x0 x1 x2 x3) (s t : State) (h : execFlumeNak x0 x1 x2 x3 s = .next t) : Block.Kept true s.blk t.blk := by
  unfold execFlumeNak at h
  refine kept_onBlk h fun b => ?_
  refine .ite (fun _ => ?_) fun _ => ?_
  · exact .refl _
  · extract_lets -merge -underBinder +onlyGivenNames v1
    clear_value v1
    extract_lets -merge -underBinder +onlyGivenNames v2
    clear_value v2
    extract_lets -merge -underBinder +onlyGivenNames v3
    clear_value v3
    extract_lets -merge -underBinder +onlyGivenNames v4
    have h4 : Block.Kept true b v4 := kept_modLend ..
    clear_value v4
    exact .ite (fun _ => h4.trans (kept_linkDown ..)) fun _ => .after (kept_noteOnce ..) (h4.trans (.whenA fun c5 => (kept_incBy ..)))

theorem kept_execFlumeNakResend {st : Bool} (x0 x1 x2) (s t : State) (h : execFlumeNakResend x0 x1 x2 s = .next t) : Block.Kept st s.blk t.blk := by
  unfold execFlumeNakResend at h
  refine kept_onBlk h fun b => ?_
  exact .ite (fun _ => kept_sendNak ..) fun _ => .refl _

theorem kept_execFlumePortIngress (x0 x1 x2 x3 x4 x5) (s t : State) (h : execFlumePortIngress x0 x1 x2 x3 x4 x5 s = .next t) : Block.Kept true s.blk t.blk := by
  unfold execFlumePortIngress at h
  refine kept_onBlk h fun b => ?_
  extract_lets -merge -underBinder +onlyGivenNames v1
  subst v1
  refine .ite (fun _ => ?_) fun _ => ?_
  · exact .refl _
  · refine .ite (fun _ => ?_) fun _ => ?_
    · exact kept_sailLost ..
    · refine .ite (fun _ => ?_) fun _ => ?_
      · exact .after (kept_note ..) (.after (kept_put ..) (kept_inc ..))
      · extract_lets -merge -underBinder +onlyGivenNames v2
        clear_value v2
        split
        rename_i y3 e3
        have h3 : Block.Kept true b y3 := .of_pair e3 (kept_ingressClass ..)
        clear e3
        extract_lets -merge -underBinder +onlyGivenNames v4
        clear_value v4
        exact .after (kept_emit ..) (h3.trans (.whenA fun c5 => (kept_entered ..)))

theorem kept_execFlumeTrainingComplete {st : Bool} (x0 x1 x2 x3) (s t : State) (h : execFlumeTrainingComplete x0 x1 x2 x3 s = .next t) : Block.Kept st s.blk t.blk := by
  unfold execFlumeTrainingComplete at h
  refine kept_onBlk h fun b => ?_
  extract_lets -merge -underBinder +onlyGivenNames v1
  subst v1
  refine .ite (fun _ => ?_) fun _ => ?_
  · exact .refl _
  · extract_lets -merge -underBinder +onlyGivenNames v2
    have h2 : Block.Kept st b v2 := .after (kept_setR ..) (.after (kept_setR ..) (.after (kept_put ..) (.after (kept_put ..) (.after (kept_put ..) (kept_setR ..)))))
    extract_lets -merge -underBinder +onlyGivenNames s3 v3
    have h3 : Block.Kept st b v3 := h2.trans (.of_eq rfl rfl rfl rfl rfl)
    extract_lets -merge -underBinder +onlyGivenNames v4
    have h4 : Block.Kept st b v4 := .ite (fun _ => h3.trans (kept_put ..)) fun _ => h3.trans (kept_put ..)
    clear_value v4
    exact .ite (fun _ => h4) fun _ => h4.trans (kept_raise ..)

theorem kept_execFunctionLevelReset (x0) (s t : State) (h : execFunctionLevelReset x0 s = .next t) : Block.Kept true s.blk t.blk := by
  unfold execFunctionLevelReset at h
  refine kept_onBlk h fun b => ?_
  exact .ite (fun _ => .refl _) fun _ => .after (.whenA fun c1 => (kept_resetInst ..)) (kept_resetFn ..)

theorem kept_execGemmCmd (x0 x1 x2) (s t : State) (h : execGemmCmd x0 x1 x2 s = .next t) : Block.Kept true s.blk t.blk := by
  unfold execGemmCmd at h
  refine kept_onBlk h fun b => ?_
  exact kept_mstStart ..

theorem kept_execGovHoldreqWrite {st : Bool} (x0 x1 x2) (s t : State) (h : execGovHoldreqWrite x0 x1 x2 s = .next t) : Block.Kept st s.blk t.blk := by
  unfold execGovHoldreqWrite at h
  refine kept_onBlk h fun b => ?_
  exact kept_holdKey ..

theorem kept_execGovernorFirmwareEntry {st : Bool} (s t : State) (h : execGovernorFirmwareEntry s = .next t) : Block.Kept st s.blk t.blk := by
  unfold execGovernorFirmwareEntry at h
  refine kept_onBlk h fun b => ?_
  refine .ite (fun _ => ?_) fun _ => ?_
  · exact .refl _
  · extract_lets -merge -underBinder +onlyGivenNames v1
    clear_value v1
    extract_lets -merge -underBinder +onlyGivenNames v2
    have h2 : Block.Kept st b v2 := .after (kept_extend ..) (.after (kept_extend ..) (.after (kept_extend ..) (kept_extend ..)))
    clear_value v2
    extract_lets -merge -underBinder +onlyGivenNames v3
    have h3 : Block.Kept st b v3 := h2.trans (kept_modTrust ..)
    clear_value v3
    extract_lets -merge -underBinder +onlyGivenNames v4
    have h4 : Block.Kept st b v4 := .after (kept_put ..) (.after (kept_put ..) (h3.trans (kept_put ..)))
    clear_value v4
    extract_lets -merge -underBinder +onlyGivenNames v5
    have h5 : Block.Kept st b v5 := h4.trans (.forN fun i6 c6 => (.whenA fun c7 => .after (kept_vrOn ..) (kept_put ..)))
    clear_value v5
    exact .after (.forN fun i8 c8 => (kept_pciTrain ..)) (.after (kept_bootUp ..) (h5.trans (kept_setDev ..)))

theorem kept_execGovernorSramError {st : Bool} (x0 x1) (s t : State) (h : execGovernorSramError x0 x1 s = .next t) : Block.Kept st s.blk t.blk := by
  unfold execGovernorSramError at h
  refine kept_onGov h fun b => ?_
  refine .ite (fun _ => ?_) fun _ => ?_
  · exact .after (kept_noteOnce ..) (kept_inc ..)
  · extract_lets -merge -underBinder +onlyGivenNames v1
    have h1 : Block.Kept st b v1 := by
      unfold v1
      split
      · exact (.of_eq rfl rfl rfl rfl rfl)
      · exact .refl _
    clear_value v1
    exact h1.trans (kept_raise ..)

theorem kept_execGptpSync {st : Bool} (x0) (s t : State) (h : execGptpSync x0 s = .next t) : Block.Kept st s.blk t.blk := by
  unfold execGptpSync at h
  refine kept_onBlk h fun b => ?_
  extract_lets -merge -underBinder +onlyGivenNames s1 v1
  have h1 : Block.Kept st b v1 := (.of_eq rfl rfl rfl rfl rfl)
  clear_value v1
  exact .ite (fun _ => .after (kept_takeOffset ..) (h1.trans (kept_takeReference ..))) fun _ => h1

theorem kept_execHaltRequest {st : Bool} (x0 x1) (s t : State) (h : execHaltRequest x0 x1 s = .next t) : Block.Kept st s.blk t.blk := by
  unfold execHaltRequest at h
  refine kept_onBlk h fun b => ?_
  extract_lets -merge -underBinder +onlyGivenNames v1
  clear_value v1
  exact .ite (fun _ => .refl _) fun _ => kept_enterDebug ..

theorem kept_execHeartbeatFrame {st : Bool} (x0 x1 x2) (s t : State) (h : execHeartbeatFrame x0 x1 x2 s = .next t) : Block.Kept st s.blk t.blk := by
  unfold execHeartbeatFrame at h
  refine kept_onBlk h fun b => ?_
  refine .ite (fun _ => ?_) fun _ => ?_
  · exact .refl _
  · extract_lets -merge -underBinder +onlyGivenNames v1
    clear_value v1
    exact .after (kept_sendCtl ..) (kept_modLend ..)

theorem kept_execHeartbeatReceived (x0 x1 x2) (s t : State) (h : execHeartbeatReceived x0 x1 x2 s = .next t) : Block.Kept true s.blk t.blk := by
  unfold execHeartbeatReceived at h
  refine kept_onBlk h fun b => ?_
  exact .ite (fun _ => kept_sailLost ..) fun _ => .refl _

theorem kept_execHeartbeatTimeout (x0) (s t : State) (h : execHeartbeatTimeout x0 s = .next t) : Block.Kept true s.blk t.blk := by
  unfold execHeartbeatTimeout at h
  refine kept_onBlk h fun b => ?_
  exact kept_sailLost ..

theorem kept_execHoldoverEntry {st : Bool} (s t : State) (h : execHoldoverEntry s = .next t) : Block.Kept st s.blk t.blk := by
  unfold execHoldoverEntry at h
  refine kept_onBlk h fun b => ?_
  exact .ite (fun _ => kept_enterHoldover ..) fun _ => .refl _

theorem kept_execHoldoverLimit {st : Bool} (s t : State) (h : execHoldoverLimit s = .next t) : Block.Kept st s.blk t.blk := by
  unfold execHoldoverLimit at h
  refine kept_onBlk h fun b => ?_
  exact .ite (fun _ => .after (kept_raise ..) (kept_modTu ..)) fun _ => .refl _

theorem kept_execHomeTimeout (x0 x1 x2) (s t : State) (h : execHomeTimeout x0 x1 x2 s = .next t) : Block.Kept true s.blk t.blk := by
  unfold execHomeTimeout at h
  refine kept_onBlk h fun b => ?_
  split
  · exact .refl _
  · refine .ite (fun _ => ?_) fun _ => ?_
    · exact .refl _
    · extract_lets -merge -underBinder +onlyGivenNames v1
      have h1 : Block.Kept true b v1 := kept_inc ..
      clear_value v1
      split
      · exact h1.trans (kept_sailLost ..)
      · exact h1.trans (kept_raise ..)

theorem kept_execHopMntClean (x0 x1 x2) (s t : State) (h : execHopMntClean x0 x1 x2 s = .next t) : Block.Kept true s.blk t.blk := by
  unfold execHopMntClean at h
  refine kept_onBlk h fun b => ?_
  exact kept_hopStart ..

theorem kept_execHopMntCleaninv (x0 x1 x2) (s t : State) (h : execHopMntCleaninv x0 x1 x2 s = .next t) : Block.Kept true s.blk t.blk := by
  unfold execHopMntCleaninv at h
  refine kept_onBlk h fun b => ?_
  exact kept_hopStart ..

theorem kept_execHopMntComplete {st : Bool} (s t : State) (h : execHopMntComplete s = .next t) : Block.Kept st s.blk t.blk := by
  unfold execHopMntComplete at h
  refine kept_onBlk h fun b => ?_
  exact .ite (fun _ => .after (kept_put ..) (kept_put ..)) fun _ => .refl _

theorem kept_execHopperEntryError (x0 x1) (s t : State) (h : execHopperEntryError x0 x1 s = .next t) : Block.Kept true s.blk t.blk := by
  unfold execHopperEntryError at h
  refine kept_onBlk h fun b => ?_
  refine .ite (fun _ => ?_) fun _ => ?_
  · exact .refl _
  · extract_lets -merge -underBinder +onlyGivenNames v1
    have h1 : Block.Kept true b v1 := kept_modHop ..
    clear_value v1
    extract_lets -merge -underBinder +onlyGivenNames v2
    have h2 : Block.Kept true b v2 := by
      unfold v2
      refine .ite (fun _ => ?_) fun _ => ?_
      · exact h1.trans (kept_noteOnce ..)
      · split
        · exact .after (kept_stopQueue ..) (h1.trans (kept_hopDrop ..))
        · exact h1
    clear_value v2
    exact .ite (fun _ => h2.trans (kept_hopDisable ..)) fun _ => h2

theorem kept_execHotInsertion {st : Bool} (x0) (s t : State) (h : execHotInsertion x0 s = .next t) : Block.Kept st s.blk t.blk := by
  unfold execHotInsertion at h
  refine kept_onBlk h fun b => ?_
  exact .ite (fun _ => .refl _) fun _ => kept_pciTrain ..

theorem kept_execImageMemoryError {st : Bool} (x0 x1) (s t : State) (h : execImageMemoryError x0 x1 s = .next t) : Block.Kept st s.blk t.blk := by
  unfold execImageMemoryError at h
  refine kept_onBlk h fun b => ?_
  exact .ite (fun _ => kept_note ..) fun _ => .ite (fun _ => kept_loseStaged ..) fun _ => kept_raise ..

theorem kept_execImageSwitch (s t : State) (h : execImageSwitch s = .next t) : Block.Kept true s.blk t.blk := by
  unfold execImageSwitch at h
  refine kept_onBlk h fun b => ?_
  refine .ite (fun _ => ?_) fun _ => ?_
  · exact .refl _
  · split
    · exact kept_switchWait ..
    · exact .ite (fun _ => kept_switchBoundary ..) fun _ => .refl _
    · exact .ite (fun _ => kept_switchBoundary ..) fun _ => .refl _
    · exact .ite (fun _ => kept_switchBoundary ..) fun _ => .refl _
    · exact .refl _

theorem kept_execInitFrame {st : Bool} (x0 x1) (s t : State) (h : execInitFrame x0 x1 s = .next t) : Block.Kept st s.blk t.blk := by
  unfold execInitFrame at h
  refine kept_onBlk h fun b => ?_
  refine .ite (fun _ => ?_) fun _ => ?_
  · exact .refl _
  · refine .ite (fun _ => ?_) fun _ => ?_
    · exact kept_badBlock ..
    · refine .ite (fun _ => ?_) fun _ => ?_
      · exact kept_oddBlock ..
      · refine .ite (fun _ => ?_) fun _ => ?_
        · exact .refl _
        · extract_lets -merge -underBinder +onlyGivenNames v1
          clear_value v1
          exact .ite (fun _ => kept_note ..) fun _ => .after (kept_initDone ..) (.after (kept_modPort ..) (.after (kept_put ..) (.after (kept_put ..) (.after (kept_put ..) (.after (kept_put ..) (kept_put ..))))))

theorem kept_execInitSend {st : Bool} (x0) (s t : State) (h : execInitSend x0 s = .next t) : Block.Kept st s.blk t.blk := by
  unfold execInitSend at h
  refine kept_onBlk h fun b => ?_
  refine .ite (fun _ => ?_) fun _ => ?_
  · exact .refl _
  · extract_lets -merge -underBinder +onlyGivenNames v1
    clear_value v1
    exact .after (kept_initDone ..) (.after (kept_modPort ..) (kept_sendBlock ..))

theorem kept_execInputCutoff {st : Bool} (s t : State) (h : execInputCutoff s = .next t) : Block.Kept st s.blk t.blk := by
  unfold execInputCutoff at h
  refine kept_onBlk h fun b => ?_
  exact kept_modTu ..

theorem kept_execInstClrerr (x0 x1 x2) (s t : State) (h : execInstClrerr x0 x1 x2 s = .next t) : Block.Kept true s.blk t.blk := by
  unfold execInstClrerr at h
  refine kept_onBlk h fun b => ?_
  exact kept_managerWord ..

theorem kept_execInstConfig (x0 x1 x2) (s t : State) (h : execInstConfig x0 x1 x2 s = .next t) : Block.Kept true s.blk t.blk := by
  unfold execInstConfig at h
  refine kept_onBlk h fun b => ?_
  exact kept_managerWord ..

theorem kept_execInstResetDrain (x0 x1 x2) (s t : State) (h : execInstResetDrain x0 x1 x2 s = .next t) : Block.Kept true s.blk t.blk := by
  unfold execInstResetDrain at h
  refine kept_onBlk h fun b => ?_
  exact kept_managerWord ..

theorem kept_execInstResetSquash (x0 x1 x2) (s t : State) (h : execInstResetSquash x0 x1 x2 s = .next t) : Block.Kept true s.blk t.blk := by
  unfold execInstResetSquash at h
  refine kept_onBlk h fun b => ?_
  exact kept_managerWord ..

theorem kept_execInstShare (x0 x1 x2) (s t : State) (h : execInstShare x0 x1 x2 s = .next t) : Block.Kept true s.blk t.blk := by
  unfold execInstShare at h
  refine kept_onBlk h fun b => ?_
  exact kept_managerWord ..

theorem kept_execInstanceDoorbell (x0 x1 x2 x3 x4) (s t : State) (h : execInstanceDoorbell x0 x1 x2 x3 x4 s = .next t) : Block.Kept true s.blk t.blk := by
  unfold execInstanceDoorbell at h
  refine kept_onBlk h fun b => ?_
  exact .ite (fun _ => .refl _) fun _ => kept_ringBell ..

theorem kept_execInstanceResetComplete {st : Bool} (x0) (s t : State) (h : execInstanceResetComplete x0 s = .next t) : Block.Kept st s.blk t.blk := by
  unfold execInstanceResetComplete at h
  refine kept_onBlk h fun b => ?_
  extract_lets -merge -underBinder +onlyGivenNames v1
  clear_value v1
  refine .ite (fun _ => ?_) fun _ => ?_
  · exact .refl _
  · extract_lets -merge -underBinder +onlyGivenNames v2
    have h2 : Block.Kept st b v2 := by
      unfold v2
      refine .forN fun i3 c3 => ?_
      split
      · exact .ite (fun _ => kept_hopDrop ..) fun _ => .refl _
      · exact .refl _
    clear_value v2
    exact .after (kept_note ..) (.after (kept_modInst ..) (.after (kept_put ..) (.after (kept_put ..) (.after (kept_put ..) (.after (kept_put ..) (h2.trans (kept_lateMsis ..)))))))

theorem kept_execInstructionFetch (x0 x1 x2 x3) (s t : State) (h : execInstructionFetch x0 x1 x2 x3 s = .next t) : Block.Kept true s.blk t.blk := by
  unfold execInstructionFetch at h
  refine kept_onBlk h fun b => ?_
  extract_lets -merge -underBinder +onlyGivenNames v1
  clear_value v1
  refine .ite (fun _ => ?_) fun _ => ?_
  · exact .refl _
  · split
    · exact .after (kept_trigTrap ..) (kept_takeIrq ..)
    · exact .after (kept_access (h := fun c2 => (kept_fetch ..)) ..) (kept_modHart ..)

theorem kept_execIoComp (x0 x1 x2 x3) (s t : State) (h : execIoComp x0 x1 x2 x3 s = .next t) : Block.Kept true s.blk t.blk := by
  unfold execIoComp at h
  refine kept_onBlk h fun b => ?_
  refine kept_taking (h := fun c1 => ?_) ..
  split
  · exact .refl _
  · extract_lets -merge -underBinder +onlyGivenNames v2
    have h2 : Block.Kept true c1 v2 := .after (kept_ioRetired ..) (kept_modHart ..)
    clear_value v2
    refine .ite (fun _ => ?_) fun _ => ?_
    · exact h2.trans (kept_takeTrap ..)
    · split
      · exact h2.trans (kept_setDst ..)
      · exact h2

theorem kept_ioAnswer {st : Bool} (p : IoAns × Block) : Block.Kept st p.2 (Block.ioAnswer p) := by
  unfold Block.ioAnswer
  split
  all_goals first | exact kept_emit .. | exact .refl _

theorem kept_ioDone {st : Bool} (x0 x1) (p : IoAns × Block) : Block.Kept st p.2 (Block.ioDone x0 x1 p) := by
  unfold Block.ioDone
  extract_lets -merge -underBinder +onlyGivenNames b
  have h : Block.Kept st p.2 b := kept_ioAnswer _
  clear_value b
  split
  all_goals first | exact h.trans (kept_emit ..) | exact h

theorem kept_execIoRd (x0 x1 x2 x3) (s t : State) (h : execIoRd x0 x1 x2 x3 s = .next t) : Block.Kept true s.blk t.blk :=
  kept_onBlk h fun b => kept_taking (h := fun c => (kept_ioRead ..).trans (kept_ioDone ..)) ..

theorem kept_execIoWr (x0 x1 x2 x3 x4) (s t : State) (h : execIoWr x0 x1 x2 x3 x4 s = .next t) : Block.Kept true s.blk t.blk :=
  kept_onBlk h fun b => kept_taking (h := fun c => (kept_ioWrite ..).trans (kept_ioDone ..)) ..

theorem kept_execIodirCmd (s t : State) (h : execIodirCmd s = .next t) : Block.Kept true s.blk t.blk := by
  unfold execIodirCmd at h
  refine kept_onBlk h fun b => ?_
  refine kept_iotCmd (h := fun i1 c1 => ?_) ..
  extract_lets -merge -underBinder +onlyGivenNames v2
  subst v2
  exact .after (kept_iotNext ..) (kept_modIot ..)

theorem kept_execIofenceC (s t : State) (h : execIofenceC s = .next t) : Block.Kept true s.blk t.blk := by
  unfold execIofenceC at h
  refine kept_onBlk h fun b => ?_
  exact (kept_iotCmd (h := fun i1 c1 => (kept_modIot ..)) ..)

theorem kept_execIofenceCComplete (s t : State) (h : execIofenceCComplete s = .next t) : Block.Kept true s.blk t.blk := by
  unfold execIofenceCComplete at h
  refine kept_onBlk h fun b => ?_
  refine .ite (fun _ => ?_) fun _ => ?_
  · exact .refl _
  · extract_lets -merge -underBinder +onlyGivenNames v1
    have h1 : Block.Kept true b v1 := kept_modIot ..
    clear_value v1
    split
    · rename_i y2 e2
      have h2 : Block.Kept true b y2 := .of_pair e2 (h1.trans (kept_iotHead ..))
      clear e2
      exact h2
    · rename_i y3 e3
      have h3 : Block.Kept true b y3 := .of_pair e3 (h1.trans (kept_iotHead ..))
      clear e3
      extract_lets -merge -underBinder +onlyGivenNames v4
      clear_value v4
      exact .ite (fun _ => h3.trans (kept_iotNext ..)) fun _ => .ite (fun _ => .after (kept_iotNext ..) (h3.trans (kept_sendMsi ..))) fun _ => .ite (fun _ => .after (kept_iotNext ..) (h3.trans (kept_writeBytes ..))) fun _ => .after (kept_note ..) (h3.trans (kept_iotS ..))

theorem kept_execIotCommandIllegal (s t : State) (h : execIotCommandIllegal s = .next t) : Block.Kept true s.blk t.blk := by
  unfold execIotCommandIllegal at h
  refine kept_onBlk h fun b => ?_
  exact (kept_iotCmd (h := fun i1 c1 => .after (.whenA fun c2 => (kept_iotIrq ..)) (.after (kept_note ..) (kept_iotS ..))) ..)

theorem kept_execIotTranslate (x0 x1 x2 x3 x4 x5 x6) (s t : State) (h : execIotTranslate x0 x1 x2 x3 x4 x5 x6 s = .next t) : Block.Kept true s.blk t.blk := by
  unfold execIotTranslate at h
  refine kept_onBlk h fun b => ?_
  split
  · rename_i y1 e1
    have h1 : Block.Kept true b y1 := .of_pair e1 (kept_iotTranslate ..)
    clear e1
    exact h1.trans (kept_emit ..)
  · rename_i y2 e2
    have h2 : Block.Kept true b y2 := .of_pair e2 (kept_iotTranslate ..)
    clear e2
    exact h2.trans (kept_emit ..)

theorem kept_execIotinvalGvma (s t : State) (h : execIotinvalGvma s = .next t) : Block.Kept true s.blk t.blk := by
  unfold execIotinvalGvma at h
  refine kept_onBlk h fun b => ?_
  exact (kept_iotCmd (h := fun i1 c1 => .after (kept_iotNext ..) (kept_modIot ..)) ..)

theorem kept_execIotinvalVma (s t : State) (h : execIotinvalVma s = .next t) : Block.Kept true s.blk t.blk := by
  unfold execIotinvalVma at h
  refine kept_onBlk h fun b => ?_
  refine kept_iotCmd (h := fun i1 c1 => ?_) ..
  extract_lets -merge -underBinder +onlyGivenNames v2
  subst v2
  exact .after (kept_iotNext ..) (kept_modIot ..)

theorem kept_execKeepaliveFrame {st : Bool} (x0) (s t : State) (h : execKeepaliveFrame x0 s = .next t) : Block.Kept st s.blk t.blk := by
  unfold execKeepaliveFrame at h
  refine kept_onBlk h fun b => ?_
  refine .ite (fun _ => ?_) fun _ => ?_
  · exact .refl _
  · extract_lets -merge -underBinder +onlyGivenNames v1
    clear_value v1
    exact .after (kept_modPort ..) (kept_sendBlock ..)

theorem kept_execKeepaliveReceived {st : Bool} (x0 x1) (s t : State) (h : execKeepaliveReceived x0 x1 s = .next t) : Block.Kept st s.blk t.blk := by
  unfold execKeepaliveReceived at h
  refine kept_onBlk h fun b => ?_
  refine .ite (fun _ => ?_) fun _ => ?_
  · exact .refl _
  · refine .ite (fun _ => ?_) fun _ => ?_
    · exact kept_badBlock ..
    · refine .ite (fun _ => ?_) fun _ => ?_
      · exact kept_oddBlock ..
      · extract_lets -merge -underBinder +onlyGivenNames v1
        have h1 : Block.Kept st b v1 := kept_put ..
        clear_value v1
        refine .ite (fun _ => ?_) fun _ => ?_
        · exact h1
        · split
          · rename_i y2 e2
            have h2 : Block.Kept st b y2 := .of_pair e2 (h1.trans (kept_heal ..))
            clear e2
            exact h2.trans (kept_freed ..)
          · rename_i y3 e3
            have h3 : Block.Kept st b y3 := .of_pair e3 (h1.trans (kept_heal ..))
            clear e3
            exact h3

theorem kept_execKeyAccept {st : Bool} (x0 x1 x2 x3) (s t : State) (h : execKeyAccept x0 x1 x2 x3 s = .next t) : Block.Kept st s.blk t.blk := by
  unfold execKeyAccept at h
  refine kept_onBlk h fun b => ?_
  split
  · exact .refl _
  · extract_lets -merge -underBinder +onlyGivenNames v1
    clear_value v1
    refine .ite (fun _ => ?_) fun _ => ?_
    · exact .refl _
    · extract_lets -merge -underBinder +onlyGivenNames v2
      clear_value v2
      exact .after (kept_keysDone ..) (.after (kept_sendKey ..) (kept_loadKeys ..))

theorem kept_execKeyConfirm {st : Bool} (x0 x1 x2 x3) (s t : State) (h : execKeyConfirm x0 x1 x2 x3 s = .next t) : Block.Kept st s.blk t.blk := by
  unfold execKeyConfirm at h
  refine kept_onBlk h fun b => ?_
  split
  · exact .refl _
  · exact .ite (fun _ => .refl _) fun _ => kept_keysDone ..

theorem kept_execKeyOffer {st : Bool} (x0 x1 x2 x3) (s t : State) (h : execKeyOffer x0 x1 x2 x3 s = .next t) : Block.Kept st s.blk t.blk := by
  unfold execKeyOffer at h
  refine kept_onBlk h fun b => ?_
  refine .ite (fun _ => ?_) fun _ => ?_
  · exact .refl _
  · extract_lets -merge -underBinder +onlyGivenNames v1
    clear_value v1
    extract_lets -merge -underBinder +onlyGivenNames v2
    clear_value v2
    extract_lets -merge -underBinder +onlyGivenNames v3
    clear_value v3
    refine .ite (fun _ => ?_) fun _ => ?_
    · exact kept_sendKey ..
    · extract_lets -merge -underBinder +onlyGivenNames v4
      clear_value v4
      extract_lets -merge -underBinder +onlyGivenNames v5
      clear_value v5
      exact .after (kept_sendKey ..) (.after (kept_modPort ..) (.after (kept_loadKeys ..) (kept_tickFree ..)))

theorem kept_execKeyOfferResend {st : Bool} (x0) (s t : State) (h : execKeyOfferResend x0 s = .next t) : Block.Kept st s.blk t.blk := by
  unfold execKeyOfferResend at h
  refine kept_onBlk h fun b => ?_
  split
  · exact .refl _
  · exact .ite (fun _ => .refl _) fun _ => .ite (fun _ => .after (kept_sendKey ..) (kept_modPort ..)) fun _ => .after (kept_note ..) (kept_dropKeys ..)

theorem kept_execKeyReject {st : Bool} (x0 x1) (s t : State) (h : execKeyReject x0 x1 s = .next t) : Block.Kept st s.blk t.blk := by
  unfold execKeyReject at h
  refine kept_onBlk h fun b => ?_
  exact .refl _

theorem kept_execL3MaskLockWrite {st : Bool} (x0 x1 x2 x3 x4) (s t : State) (h : execL3MaskLockWrite x0 x1 x2 x3 x4 s = .next t) : Block.Kept st s.blk t.blk := by
  unfold execL3MaskLockWrite at h
  refine kept_onBlk h fun b => ?_
  exact .ite (fun _ => kept_maskWrite ..) fun _ => kept_sailRefused ..

theorem kept_execLaneFail {st : Bool} (x0 x1) (s t : State) (h : execLaneFail x0 x1 s = .next t) : Block.Kept st s.blk t.blk := by
  unfold execLaneFail at h
  refine kept_onBlk h fun b => ?_
  extract_lets -merge -underBinder +onlyGivenNames v1
  clear_value v1
  refine .ite (fun _ => ?_) fun _ => ?_
  · exact .refl _
  · extract_lets -merge -underBinder +onlyGivenNames v2
    clear_value v2
    extract_lets -merge -underBinder +onlyGivenNames v3
    clear_value v3
    extract_lets -merge -underBinder +onlyGivenNames v4
    have h4 : Block.Kept st b v4 := .after (kept_dropKeys ..) (.after (kept_cnt ..) (kept_put ..))
    clear_value v4
    refine .ite (fun _ => ?_) fun _ => ?_
    · extract_lets -merge -underBinder +onlyGivenNames v5
      subst v5
      exact .after (.whenA fun c6 => (kept_raise ..)) (h4.trans (kept_toTrain ..))
    · exact .ite (fun _ => .after (kept_raise ..) (.after (kept_sendLanemap ..) (h4.trans (kept_modPort ..)))) fun _ => .after (kept_lanesCheck ..) (.after (kept_raise ..) (h4.trans (kept_put ..)))

theorem kept_execLaneLock {st : Bool} (x0 x1) (s t : State) (h : execLaneLock x0 x1 s = .next t) : Block.Kept st s.blk t.blk := by
  unfold execLaneLock at h
  refine kept_onBlk h fun b => ?_
  exact .ite (fun _ => .refl _) fun _ => .after (kept_put ..) (.after (kept_put ..) (kept_put ..))

theorem kept_execLaneRestore {st : Bool} (x0 x1) (s t : State) (h : execLaneRestore x0 x1 s = .next t) : Block.Kept st s.blk t.blk := by
  unfold execLaneRestore at h
  refine kept_onBlk h fun b => ?_
  exact .ite (fun _ => .refl _) fun _ => .after (kept_dropKeys ..) (kept_modPort ..)

theorem kept_execLanemapFrame {st : Bool} (x0 x1) (s t : State) (h : execLanemapFrame x0 x1 s = .next t) : Block.Kept st s.blk t.blk := by
  unfold execLanemapFrame at h
  refine kept_onBlk h fun b => ?_
  refine .ite (fun _ => ?_) fun _ => ?_
  · exact .refl _
  · refine .ite (fun _ => ?_) fun _ => ?_
    · exact kept_badBlock ..
    · refine .ite (fun _ => ?_) fun _ => ?_
      · exact kept_oddBlock ..
      · extract_lets -merge -underBinder +onlyGivenNames v1
        clear_value v1
        refine .ite (fun _ => ?_) fun _ => ?_
        · extract_lets -merge -underBinder +onlyGivenNames v2
          clear_value v2
          extract_lets -merge -underBinder +onlyGivenNames v3
          clear_value v3
          exact .ite (fun _ => .refl _) fun _ => .after (kept_lanesCheck ..) (.after (kept_raise ..) (.after (kept_sendAm ..) (.after (kept_dropKeys ..) (.after (kept_cnt ..) (.after (kept_put ..) (kept_put ..))))))
        · exact .ite (fun _ => .after (kept_note ..) (.after (kept_dropKeys ..) (kept_put ..))) fun _ => .refl _

theorem kept_execLanemapResend {st : Bool} (x0) (s t : State) (h : execLanemapResend x0 s = .next t) : Block.Kept st s.blk t.blk := by
  unfold execLanemapResend at h
  refine kept_onBlk h fun b => ?_
  split
  · exact .ite (fun _ => kept_sendLanemap ..) fun _ => .refl _
  · exact .refl _

theorem kept_execLayoutInitComplete (s t : State) (h : execLayoutInitComplete s = .next t) : Block.Kept true s.blk t.blk := by
  unfold execLayoutInitComplete at h
  refine kept_onBlk h fun b => ?_
  refine .ite (fun _ => ?_) fun _ => ?_
  · exact .refl _
  · extract_lets -merge -underBinder +onlyGivenNames v1
    have h1 : Block.Kept true b v1 := .after (.forN fun i2 c2 => (kept_put ..)) (kept_initRegions ..)
    clear_value v1
    extract_lets -merge -underBinder +onlyGivenNames s3 v3
    have h3 : Block.Kept true b v3 := h1.trans (.of_eq rfl rfl rfl rfl rfl)
    clear_value v3
    exact .ite (fun _ => h3.trans (kept_loadAfterInit ..)) fun _ => .ite (fun _ => h3.trans (kept_endResume ..)) fun _ => h3.trans (.of_eq rfl rfl rfl rfl rfl)

theorem kept_execLinksyncFrame {st : Bool} (x0 x1 x2 x3) (s t : State) (h : execLinksyncFrame x0 x1 x2 x3 s = .next t) : Block.Kept st s.blk t.blk := by
  unfold execLinksyncFrame at h
  refine kept_onBlk h fun b => ?_
  extract_lets -merge -underBinder +onlyGivenNames v1
  clear_value v1
  extract_lets -merge -underBinder +onlyGivenNames v2
  clear_value v2
  refine .ite (fun _ => ?_) fun _ => ?_
  · exact .refl _
  · extract_lets -merge -underBinder +onlyGivenNames v3
    clear_value v3
    exact .after (.whenA fun c4 => (kept_incBy ..)) (.after (kept_modLend ..) (kept_modLend ..))

theorem kept_execLoadOp (x0 x1 x2 x3 x4 x5 x6 x7) (s t : State) (h : execLoadOp x0 x1 x2 x3 x4 x5 x6 x7 s = .next t) : Block.Kept true s.blk t.blk := by
  unfold execLoadOp at h
  refine kept_onBlk h fun b => ?_
  extract_lets -merge -underBinder +onlyGivenNames v1
  clear_value v1
  exact .ite (fun _ => .refl _) fun _ => (kept_instr (h := fun c2 => (kept_access (h := fun c3 => (kept_load ..)) ..)) ..)

theorem kept_execLoadPublicKey (x0 x1 x2) (s t : State) (h : execLoadPublicKey x0 x1 x2 s = .next t) : Block.Kept true s.blk t.blk := by
  unfold execLoadPublicKey at h
  refine kept_onBlk h fun b => ?_
  exact kept_putObj ..

theorem kept_execLockAcquire {st : Bool} (x0 x1 x2) (s t : State) (h : execLockAcquire x0 x1 x2 s = .next t) : Block.Kept st s.blk t.blk := by
  unfold execLockAcquire at h
  refine kept_onBlk h fun b => ?_
  split
  · rename_i y1 e1
    have h1 : Block.Kept st b y1 := .of_pair e1 (kept_mbxRead ..)
    clear e1
    exact h1.trans (kept_emit ..)
  · rename_i y2 e2
    have h2 : Block.Kept st b y2 := .of_pair e2 (kept_mbxRead ..)
    clear e2
    exact h2.trans (kept_emit ..)

theorem kept_execLockForceRelease {st : Bool} (x0 x1 x2 x3) (s t : State) (h : execLockForceRelease x0 x1 x2 x3 s = .next t) : Block.Kept st s.blk t.blk := by
  unfold execLockForceRelease at h
  refine kept_onBlk h fun b => ?_
  exact kept_mbxRow ..

theorem kept_execLockRelease {st : Bool} (x0 x1 x2 x3) (s t : State) (h : execLockRelease x0 x1 x2 x3 s = .next t) : Block.Kept st s.blk t.blk := by
  unfold execLockRelease at h
  refine kept_onBlk h fun b => ?_
  exact kept_mbxRow ..

theorem kept_execLockstepMismatch {st : Bool} (s t : State) (h : execLockstepMismatch s = .next t) : Block.Kept st s.blk t.blk := by
  unfold execLockstepMismatch at h
  refine kept_onBlk h fun b => ?_
  refine .ite (fun _ => ?_) fun _ => ?_
  · exact .refl _
  · extract_lets -merge -underBinder +onlyGivenNames v1
    have h1 : Block.Kept st b v1 := .after (.forN fun i2 c2 => .after (kept_put ..) (kept_put ..)) (.after (kept_put ..) (.after (kept_put ..) (.after (kept_put ..) (kept_assertFout ..))))
    clear_value v1
    exact h1.trans (⟨id, fun _ => rfl, id, .refl _, List.prefix_refl _, id, fun _ => rfl⟩)

theorem kept_execLogConfig (x0 x1 x2) (s t : State) (h : execLogConfig x0 x1 x2 s = .next t) : Block.Kept true s.blk t.blk := by
  unfold execLogConfig at h
  refine kept_onBlk h fun b => ?_
  exact kept_managerWord ..

theorem kept_execLogStop (x0 x1 x2) (s t : State) (h : execLogStop x0 x1 x2 s = .next t) : Block.Kept true s.blk t.blk := by
  unfold execLogStop at h
  refine kept_onBlk h fun b => ?_
  exact kept_managerWord ..

theorem kept_execLogSwap (x0 x1 x2) (s t : State) (h : execLogSwap x0 x1 x2 s = .next t) : Block.Kept true s.blk t.blk := by
  unfold execLogSwap at h
  refine kept_onBlk h fun b => ?_
  exact kept_managerWord ..

theorem kept_execLtrMessage {st : Bool} (x0 x1) (s t : State) (h : execLtrMessage x0 x1 s = .next t) : Block.Kept st s.blk t.blk := by
  unfold execLtrMessage at h
  refine kept_onBlk h fun b => ?_
  exact .ite (fun _ => .refl _) fun _ => kept_put ..

theorem kept_execMacsecKeyWrite (x0 x1 x2 x3) (s t : State) (h : execMacsecKeyWrite x0 x1 x2 x3 s = .next t) : Block.Kept true s.blk t.blk := by
  unfold execMacsecKeyWrite at h
  refine kept_onBlk h fun b => ?_
  exact kept_putObj ..

theorem kept_execMasterTimerMismatch {st : Bool} (s t : State) (h : execMasterTimerMismatch s = .next t) : Block.Kept st s.blk t.blk := by
  unfold execMasterTimerMismatch at h
  refine kept_onBlk h fun b => ?_
  exact kept_raise ..

theorem kept_execMcRead (x0 x1 x2 x3 x4 x5) (s t : State) (h : execMcRead x0 x1 x2 x3 x4 x5 s = .next t) : Block.Kept true s.blk t.blk := by
  unfold execMcRead at h
  refine kept_onBlk h fun b => ?_
  refine .ite (fun _ => ?_) fun _ => ?_
  · exact .refl _
  · extract_lets -merge -underBinder +onlyGivenNames v1
    have h1 : Block.Kept true b v1 := .after (.whenA fun c2 => (kept_takeTokens ..)) (kept_addErrs ..)
    clear_value v1
    split
    rename_i y3 e3
    have h3 : Block.Kept true b y3 := .of_pair e3 (h1.trans (kept_mcRead ..))
    clear e3
    exact h3.trans (kept_emit ..)

theorem kept_execMcWrite (x0 x1 x2 x3 x4 x5 x6) (s t : State) (h : execMcWrite x0 x1 x2 x3 x4 x5 x6 s = .next t) : Block.Kept true s.blk t.blk := by
  unfold execMcWrite at h
  refine kept_onBlk h fun b => ?_
  refine .ite (fun _ => ?_) fun _ => ?_
  · exact .refl _
  · extract_lets -merge -underBinder +onlyGivenNames v1
    clear_value v1
    extract_lets -merge -underBinder +onlyGivenNames v2
    have h2 : Block.Kept true b v2 := (.whenA fun c3 => (kept_takeTokens ..))
    clear_value v2
    exact .ite (fun _ => h2.trans (kept_mcWrite ..)) fun _ => h2.trans (kept_partWrite ..)

theorem kept_execMemoryTrainingComplete {st : Bool} (x0 x1 x2 x3 x4 x5 x6 x7) (s t : State) (h : execMemoryTrainingComplete x0 x1 x2 x3 x4 x5 x6 x7 s = .next t) : Block.Kept st s.blk t.blk := by
  unfold execMemoryTrainingComplete at h
  refine kept_onBlk h fun b => .ite (fun _ => .refl _) fun _ => ?_
  split
  · exact .after (kept_raise ..) (.ite (fun _ => kept_note ..) fun _ => .refl _)
  · rename_i y1 e1
    have h1 : Block.Kept st b y1 := kept_train _ _ _ _ _ _ _ _ e1
    clear e1
    extract_lets -merge -underBinder +onlyGivenNames v1
    have h1 : Block.Kept st b v1 := h1.trans (kept_put ..)
    clear_value v1
    extract_lets -merge -underBinder +onlyGivenNames s2 v2
    have h2 : Block.Kept st b v2 := h1.trans (.of_eq rfl rfl rfl rfl rfl)
    clear_value v2
    refine .ite (fun _ => ?_) fun _ => ?_
    · extract_lets -merge -underBinder +onlyGivenNames v3
      clear_value v3
      exact .ite (fun _ => h2.trans (.forN fun i4 c4 => (kept_put ..))) fun _ => h2.trans (kept_raise ..)
    · exact h2

theorem kept_execMergeFlush (x0) (s t : State) (h : execMergeFlush x0 s = .next t) : Block.Kept true s.blk t.blk := by
  unfold execMergeFlush at h
  refine kept_onBlk h fun b => ?_
  exact kept_mergeFlush ..

theorem kept_execMeshHeaderUncorrectable {st : Bool} (x0) (s t : State) (h : execMeshHeaderUncorrectable x0 s = .next t) : Block.Kept st s.blk t.blk := by
  unfold execMeshHeaderUncorrectable at h
  refine kept_onBlk h fun b => ?_
  exact .after (kept_note ..) (.after (kept_inc ..) (.whenA fun c1 => (kept_dropAt ..)))

theorem kept_execMeshLaneFail {st : Bool} (x0 x1 x2) (s t : State) (h : execMeshLaneFail x0 x1 x2 s = .next t) : Block.Kept st s.blk t.blk := by
  unfold execMeshLaneFail at h
  refine kept_onBlk h fun b => ?_
  exact .ite (fun _ => .refl _) fun _ => .ite (fun _ => kept_laneCorrected ..) fun _ => .after (kept_laneFail ..) (kept_poisonFlit ..)

theorem kept_execMillraceProbe {st : Bool} (x0) (s t : State) (h : execMillraceProbe x0 s = .next t) : Block.Kept st s.blk t.blk := by
  unfold execMillraceProbe at h
  refine kept_onGov h fun b => ?_
  refine .ite (fun _ => ?_) fun _ => ?_
  · exact .after (kept_put ..) (.of_eq rfl rfl rfl rfl rfl)
  · extract_lets -merge -underBinder +onlyGivenNames v1
    clear_value v1
    extract_lets -merge -underBinder +onlyGivenNames s2 v2
    have h2 : Block.Kept st b v2 := (.of_eq rfl rfl rfl rfl rfl)
    clear_value v2
    exact .ite (fun _ => .after (kept_raise ..) (h2.trans (kept_put ..))) fun _ => h2

theorem kept_execMillstoneCommandComplete {st : Bool} (x0 x1 x2) (s t : State) (h : execMillstoneCommandComplete x0 x1 x2 s = .next t) : Block.Kept st s.blk t.blk := by
  unfold execMillstoneCommandComplete at h
  refine kept_onBlk h fun b => ?_
  extract_lets -merge -underBinder +onlyGivenNames v1
  clear_value v1
  extract_lets -merge -underBinder +onlyGivenNames v2
  clear_value v2
  refine .ite (fun _ => ?_) fun _ => ?_
  · exact .refl _
  · split
    · exact .refl _
    · exact .ite (fun _ => .refl _) fun _ => .after (kept_failHead ..) (.after (kept_pmu ..) (.after (kept_mstBusy ..) (.after (kept_modMq ..) (kept_modMst ..))))

theorem kept_execMirrorRefresh {st : Bool} (s t : State) (h : execMirrorRefresh s = .next t) : Block.Kept st s.blk t.blk := by
  unfold execMirrorRefresh at h
  refine kept_onBlk h fun b => ?_
  exact kept_refreshMirror ..

theorem kept_execMntClean (x0 x1 x2) (s t : State) (h : execMntClean x0 x1 x2 s = .next t) : Block.Kept true s.blk t.blk := by
  unfold execMntClean at h
  refine kept_onBlk h fun b => ?_
  exact kept_mntStart ..

theorem kept_execMntCleaninv (x0 x1 x2) (s t : State) (h : execMntCleaninv x0 x1 x2 s = .next t) : Block.Kept true s.blk t.blk := by
  unfold execMntCleaninv at h
  refine kept_onBlk h fun b => ?_
  exact kept_mntStart ..

theorem kept_execMntComplete (x0) (s t : State) (h : execMntComplete x0 s = .next t) : Block.Kept true s.blk t.blk := by
  unfold execMntComplete at h
  refine kept_onBlk h fun b => ?_
  extract_lets -merge -underBinder +onlyGivenNames v1
  subst v1
  refine .ite (fun _ => ?_) fun _ => ?_
  · exact .refl _
  · extract_lets -merge -underBinder +onlyGivenNames v2
    have h2 : Block.Kept true b v2 := kept_l3On ..
    clear_value v2
    refine .ite (fun _ => ?_) fun _ => ?_
    · exact h2
    · extract_lets -merge -underBinder +onlyGivenNames v3
      clear_value v3
      extract_lets -merge -underBinder +onlyGivenNames v4
      have h4 : Block.Kept true b v4 := .after (kept_put ..) (.after (kept_put ..) (h2.trans (kept_modSail ..)))
      clear_value v4
      exact .after (kept_cleanOver ..) (.after (kept_leaveOn ..) (.after (kept_mntMsi ..) (.ite (fun _ => h4.trans (kept_mntErr ..)) fun _ => h4)))

theorem kept_execMntLockload (x0 x1 x2) (s t : State) (h : execMntLockload x0 x1 x2 s = .next t) : Block.Kept true s.blk t.blk := by
  unfold execMntLockload at h
  refine kept_onBlk h fun b => ?_
  exact kept_mntStart ..

end Sys2Proof.Machine
end

