-- ==== Sys2Proof/Laws/KeptExec3.lean ====
section
/-! SUPPORT. One lemma for each meaning: what the command keeps (canonical memory, fuses, the first faults, and DRAM where it stores nothing). -/

namespace Sys2Proof.Machine

theorem kept_execMntReservedOp (x0 x1 x2) (s t : State) (h : execMntReservedOp x0 x1 x2 s = .next t) : Block.Kept true s.blk t.blk := by
  unfold execMntReservedOp at h
  refine kept_onBlk h fun b => ?_
  exact kept_mntStart ..

theorem kept_execMr4Read {st : Bool} (x0 x1) (s t : State) (h : execMr4Read x0 x1 s = .next t) : Block.Kept st s.blk t.blk := by
  unfold execMr4Read at h
  refine kept_onBlk h fun b => ?_
  refine .ite (fun _ => ?_) fun _ => ?_
  · exact .refl _
  · extract_lets -merge -underBinder +onlyGivenNames v1
    clear_value v1
    extract_lets -merge -underBinder +onlyGivenNames v2
    have h2 : Block.Kept st b v2 := kept_put ..
    clear_value v2
    exact .ite (fun _ => h2.trans (kept_raise ..)) fun _ => h2

theorem kept_execMrcSwapRequest {st : Bool} (x0) (s t : State) (h : execMrcSwapRequest x0 s = .next t) : Block.Kept st s.blk t.blk := by
  unfold execMrcSwapRequest at h
  refine kept_onBlk h fun b => ?_
  exact kept_swapReq ..

theorem kept_execMstDoorbell {st : Bool} (x0 x1 x2 x3) (s t : State) (h : execMstDoorbell x0 x1 x2 x3 s = .next t) : Block.Kept st s.blk t.blk := by
  unfold execMstDoorbell at h
  refine kept_onBlk h fun b => ?_
  split
  · exact .ite (fun _ => kept_ring ..) fun _ => kept_emit ..
  · exact kept_emit ..

theorem kept_execNmtCommand {st : Bool} (s t : State) (h : execNmtCommand s = .next t) : Block.Kept st s.blk t.blk := by
  unfold execNmtCommand at h
  refine kept_onBlk h fun b => ?_
  exact .ite (fun _ => .after (kept_note ..) (.of_eq rfl rfl rfl rfl rfl)) fun _ => .refl _

theorem kept_execNopCmd (x0 x1 x2) (s t : State) (h : execNopCmd x0 x1 x2 s = .next t) : Block.Kept true s.blk t.blk := by
  unfold execNopCmd at h
  refine kept_onBlk h fun b => ?_
  exact kept_mstStart ..

theorem kept_execOp0CleanComplete (x0) (s t : State) (h : execOp0CleanComplete x0 s = .next t) : Block.Kept true s.blk t.blk := by
  unfold execOp0CleanComplete at h
  refine kept_onBlk h fun b => ?_
  refine .ite (fun _ => ?_) fun _ => ?_
  · exact .refl _
  · extract_lets -merge -underBinder +onlyGivenNames v1
    have h1 : Block.Kept true b v1 := kept_l3On ..
    clear_value v1
    exact .ite (fun _ => h1) fun _ => .after (kept_vrOn ..) (.after (kept_put ..) (.after (kept_put ..) (h1.trans (kept_modSail ..))))

theorem kept_execOwnerChangeComplete (x0) (s t : State) (h : execOwnerChangeComplete x0 s = .next t) : Block.Kept true s.blk t.blk := by
  unfold execOwnerChangeComplete at h
  refine kept_onBlk h fun b => ?_
  exact .ite (fun _ => .refl _) fun _ => .after (kept_settle ..) (.of_eq rfl rfl rfl rfl rfl)

theorem kept_execPackageResetRequest (x0) (s t : State) (h : execPackageResetRequest x0 s = .next t) : Block.Kept true s.blk t.blk := by
  unfold execPackageResetRequest at h
  refine kept_onBlk h fun b => ?_
  exact (kept_requestRow (h := fun c1 => (kept_resetReq ..)) ..)

theorem kept_execPackageWarmReset (s t : State) (h : execPackageWarmReset s = .next t) : Block.Kept true s.blk t.blk := by
  unfold execPackageWarmReset at h
  refine kept_onBlk h fun b => ?_
  exact .ite (fun _ => kept_warmReset ..) fun _ => kept_notAccepted ..

theorem kept_execPartitionEntry {st : Bool} (x0) (s t : State) (h : execPartitionEntry x0 s = .next t) : Block.Kept st s.blk t.blk := by
  unfold execPartitionEntry at h
  refine kept_onBlk h fun b => ?_
  refine .ite (fun _ => ?_) fun _ => ?_
  · exact .refl _
  · extract_lets -merge -underBinder +onlyGivenNames v1
    have h1 : Block.Kept st b v1 := kept_advanceTo ..
    clear_value v1
    refine .ite (fun _ => ?_) fun _ => ?_
    · exact h1
    · extract_lets -merge -underBinder +onlyGivenNames v2
      have h2 : Block.Kept st b v2 := by
        unfold v2
        split
        · exact .ite (fun _ => h1.trans (kept_restartOn ..)) fun _ => h1
        · exact h1
      clear_value v2
      refine .after (.forN fun i3 c3 => ?_) h2
      extract_lets -merge -underBinder +onlyGivenNames v4
      have h4 : Block.Kept st c3 v4 := (.whenA fun c5 => (kept_giveUpCatch ..))
      clear_value v4
      exact .ite (fun _ => h4.trans (kept_enterRepl ..)) fun _ => h4

theorem kept_execPartitionResetRequest {st : Bool} (x0) (s t : State) (h : execPartitionResetRequest x0 s = .next t) : Block.Kept st s.blk t.blk := by
  unfold execPartitionResetRequest at h
  refine kept_onBlk h fun b => ?_
  exact .ite (fun _ => kept_answer ..) fun _ => .after (kept_answer ..) (kept_partReset ..)

theorem kept_execPartitionRestartRequest (x0) (s t : State) (h : execPartitionRestartRequest x0 s = .next t) : Block.Kept true s.blk t.blk := by
  unfold execPartitionRestartRequest at h
  refine kept_onBlk h fun b => ?_
  split
  rename_i y1 e1
  have h1 : Block.Kept true b y1 := .of_pair e1 (kept_partRestart ..)
  clear e1
  exact h1.trans (kept_answer ..)

theorem kept_execPartnerAbsent {st : Bool} (x0) (s t : State) (h : execPartnerAbsent x0 s = .next t) : Block.Kept st s.blk t.blk := by
  unfold execPartnerAbsent at h
  refine kept_onBlk h fun b => ?_
  exact .ite (fun _ => .refl _) fun _ => .after (kept_raise ..) (.after (kept_cnt ..) (.after (kept_put ..) (kept_toInit ..)))

theorem kept_execPciHintWrite {st : Bool} (x0) (s t : State) (h : execPciHintWrite x0 s = .next t) : Block.Kept st s.blk t.blk := by
  unfold execPciHintWrite at h
  refine kept_onBlk h fun b => ?_
  exact .ite (fun _ => kept_sendVec ..) fun _ => .refl _

theorem kept_execPciPerstAssert (s t : State) (h : execPciPerstAssert s = .next t) : Block.Kept true s.blk t.blk := by
  unfold execPciPerstAssert at h
  refine kept_onBlk h fun b => ?_
  exact .after (.whenA fun c1 => (kept_freezeSub ..)) (kept_modSub ..)

theorem kept_execPciPerstRelease {st : Bool} (s t : State) (h : execPciPerstRelease s = .next t) : Block.Kept st s.blk t.blk := by
  unfold execPciPerstRelease at h
  refine kept_onBlk h fun b => ?_
  exact .after (.whenA fun c1 => (kept_pciTrain ..)) (kept_modSub ..)

theorem kept_execPciPerstoNRelease {st : Bool} (x0) (s t : State) (h : execPciPerstoNRelease x0 s = .next t) : Block.Kept st s.blk t.blk := by
  unfold execPciPerstoNRelease at h
  refine kept_onBlk h fun b => ?_
  exact .ite (fun _ => .refl _) fun _ => .after (kept_pciTrain ..) (.of_eq rfl rfl rfl rfl rfl)

theorem kept_execPcieCompletion {st : Bool} (x0 x1 x2 x3 x4 x5 x6) (s t : State) (h : execPcieCompletion x0 x1 x2 x3 x4 x5 x6 s = .next t) : Block.Kept st s.blk t.blk := by
  unfold execPcieCompletion at h
  refine kept_onBlk h fun b => ?_
  refine .ite (fun _ => ?_) fun _ => ?_
  · exact .refl _
  · split
    · exact kept_unexpected ..
    · refine .ite (fun _ => ?_) fun _ => ?_
      · exact kept_unexpected ..
      · refine .ite (fun _ => ?_) fun _ => ?_
        · exact .after (.whenA fun c1 => (kept_dropTag ..)) (.after (kept_note ..) (kept_inc ..))
        · extract_lets -merge -underBinder +onlyGivenNames v2
          have h2 : Block.Kept st b v2 := (.whenA fun c3 => .after (kept_note ..) (kept_aerSet ..))
          clear_value v2
          extract_lets -merge -underBinder +onlyGivenNames v4
          clear_value v4
          exact .ite (fun _ => .after (kept_crsDone ..) (h2.trans (kept_dropTag ..))) fun _ => .ite (fun _ => .after (kept_tagDone ..) (h2.trans (kept_dropTag ..))) fun _ => .ite (fun _ => h2.trans (kept_modPci ..)) fun _ => .ite (fun _ => .after (kept_emit ..) (.after (kept_emit ..) (h2.trans (kept_dropTag ..)))) fun _ => .after (kept_tagDone ..) (h2.trans (kept_dropTag ..))

theorem kept_execPcieDoorbell (x0 x1 x2) (s t : State) (h : execPcieDoorbell x0 x1 x2 s = .next t) : Block.Kept true s.blk t.blk := by
  unfold execPcieDoorbell at h
  refine kept_onBlk h fun b => ?_
  exact .ite (fun _ => .refl _) fun _ => .ite (fun _ => kept_unsupported ..) fun _ => kept_fnDoorbell ..

theorem kept_execPcieFreeze (x0 x1) (s t : State) (h : execPcieFreeze x0 x1 s = .next t) : Block.Kept true s.blk t.blk := by
  unfold execPcieFreeze at h
  refine kept_onBlk h fun b => ?_
  exact kept_freezeSub ..

theorem kept_execPcieInboundRequest (x0 x1 x2 x3 x4 x5) (s t : State) (h : execPcieInboundRequest x0 x1 x2 x3 x4 x5 s = .next t) : Block.Kept true s.blk t.blk := by
  unfold execPcieInboundRequest at h
  refine kept_onBlk h fun b => ?_
  refine .ite (fun _ => ?_) fun _ => ?_
  · exact .refl _
  · extract_lets -merge -underBinder +onlyGivenNames v1
    have h1 : Block.Kept true b v1 := (.whenA fun c2 => .after (kept_note ..) (kept_aerSet ..))
    clear_value v1
    split
    · exact .ite (fun _ => h1) fun _ => .ite (fun _ => h1.trans (kept_unsupported ..)) fun _ => h1.trans (kept_rootInbound ..)
    · refine .ite (fun _ => ?_) fun _ => ?_
      · exact h1
      · refine .ite (fun _ => ?_) fun _ => ?_
        · exact h1.trans (kept_unsupported ..)
        · split
          · exact .ite (fun _ => h1) fun _ => h1.trans (kept_bar0Write ..)
          · split
            · rename_i y3 e3
              have h3 : Block.Kept true b y3 := .of_pair e3 (h1.trans (kept_bar0Read ..))
              clear e3
              exact h3.trans (kept_emit ..)
            · rename_i y4 e4
              have h4 : Block.Kept true b y4 := .of_pair e4 (h1.trans (kept_bar0Read ..))
              clear e4
              exact h4.trans (kept_unsupported ..)
    · exact .ite (fun _ => h1) fun _ => .ite (fun _ => h1.trans (kept_unsupported ..)) fun _ => h1.trans (kept_bar2Inbound ..)

theorem kept_execPcieLinkUp {st : Bool} (x0 x1 x2 x3) (s t : State) (h : execPcieLinkUp x0 x1 x2 x3 s = .next t) : Block.Kept st s.blk t.blk := by
  unfold execPcieLinkUp at h
  refine kept_onBlk h fun b => ?_
  extract_lets -merge -underBinder +onlyGivenNames v1
  subst v1
  refine .ite (fun _ => ?_) fun _ => ?_
  · exact .refl _
  · refine .ite (fun _ => ?_) fun _ => ?_
    · extract_lets -merge -underBinder +onlyGivenNames v2
      have h2 : Block.Kept st b v2 := .after (kept_note ..) (.after (kept_put ..) (.after (kept_modSub ..) (.after (kept_put ..) (.after (kept_put ..) (kept_put ..)))))
      clear_value v2
      exact h2.trans (.whenA fun c3 => (kept_ltrSend ..))
    · exact .ite (fun _ => .after (kept_modSub ..) (.after (kept_put ..) (.after (kept_put ..) (kept_put ..)))) fun _ => .refl _

theorem kept_execPcieOutboundRequest {st : Bool} (x0 x1 x2 x3 x4 x5 x6) (s t : State) (h : execPcieOutboundRequest x0 x1 x2 x3 x4 x5 x6 s = .next t) : Block.Kept st s.blk t.blk := by
  unfold execPcieOutboundRequest at h
  refine kept_onBlk h fun b => ?_
  split
  · exact .after (kept_ioAnswer ..) (kept_outbound ..)
  · exact kept_emit ..

theorem kept_execPciePortReset (x0) (s t : State) (h : execPciePortReset x0 s = .next t) : Block.Kept true s.blk t.blk := by
  unfold execPciePortReset at h
  refine kept_onBlk h fun b => ?_
  refine .ite (fun _ => ?_) fun _ => ?_
  · exact .refl _
  · extract_lets -merge -underBinder +onlyGivenNames v1
    have h1 : Block.Kept true b v1 := kept_subDown ..
    clear_value v1
    exact .ite (fun _ => h1.trans (kept_pciTrain ..)) fun _ => h1.trans (.of_eq rfl rfl rfl rfl rfl)

theorem kept_execPersistComplete {st : Bool} (x0) (s t : State) (h : execPersistComplete x0 s = .next t) : Block.Kept st s.blk t.blk := by
  unfold execPersistComplete at h
  refine kept_onBlk h fun b => ?_
  split
  · exact .refl _
  · extract_lets -merge -underBinder +onlyGivenNames v1
    clear_value v1
    extract_lets -merge -underBinder +onlyGivenNames v2
    clear_value v2
    extract_lets -merge -underBinder +onlyGivenNames s3 s3b v3
    have h3 : Block.Kept st b v3 := .ite (fun _ => .after (kept_note ..) (.of_eq rfl rfl rfl rfl rfl)) fun _ => .after (kept_note ..) (.of_eq rfl rfl rfl rfl rfl)
    clear_value v3
    exact .ite (fun _ => h3.trans (kept_startPersist ..)) fun _ => h3

theorem kept_execPersistImg (x0) (s t : State) (h : execPersistImg x0 s = .next t) : Block.Kept true s.blk t.blk := by
  unfold execPersistImg at h
  refine kept_onBlk h fun b => ?_
  exact kept_putObj ..

theorem kept_execPgMemFall {st : Bool} (s t : State) (h : execPgMemFall s = .next t) : Block.Kept st s.blk t.blk := by
  unfold execPgMemFall at h
  refine kept_onBlk h fun b => ?_
  extract_lets -merge -underBinder +onlyGivenNames v1
  have h1 : Block.Kept st b v1 := kept_put ..
  clear_value v1
  exact .ite (fun _ => h1.trans (kept_shutCore ..)) fun _ => h1

theorem kept_execPllOutOfLock {st : Bool} (x0) (s t : State) (h : execPllOutOfLock x0 s = .next t) : Block.Kept st s.blk t.blk := by
  unfold execPllOutOfLock at h
  refine kept_onBlk h fun b => ?_
  exact .after (kept_raise ..) (.of_eq rfl rfl rfl rfl rfl)

theorem kept_execPoisonMarkingComplete (x0) (s t : State) (h : execPoisonMarkingComplete x0 s = .next t) : Block.Kept true s.blk t.blk := by
  unfold execPoisonMarkingComplete at h
  refine kept_onBlk h fun b => ?_
  exact .ite (fun _ => .refl _) fun _ => .after (kept_note ..) (.after (kept_put ..) (kept_markPoison ..))

theorem kept_execPortBoundaryMissed {st : Bool} (x0) (s t : State) (h : execPortBoundaryMissed x0 s = .next t) : Block.Kept st s.blk t.blk := by
  unfold execPortBoundaryMissed at h
  refine kept_onBlk h fun b => ?_
  exact .ite (fun _ => .refl _) fun _ => .after (kept_note ..) (.after (kept_sendBeacon ..) (.after (kept_modPort ..) (.after (kept_cnt ..) (.after (kept_put ..) (.after (kept_put ..) (kept_put ..))))))

theorem kept_execPortEnable {st : Bool} (x0) (s t : State) (h : execPortEnable x0 s = .next t) : Block.Kept st s.blk t.blk := by
  unfold execPortEnable at h
  refine kept_onBlk h fun b => ?_
  exact .ite (fun _ => .refl _) fun _ => .after (kept_put ..) (kept_put ..)

theorem kept_execPortReset {st : Bool} (x0) (s t : State) (h : execPortReset x0 s = .next t) : Block.Kept st s.blk t.blk := by
  unfold execPortReset at h
  refine kept_onBlk h fun b => ?_
  refine .ite (fun _ => ?_) fun _ => ?_
  · exact .refl _
  · extract_lets -merge -underBinder +onlyGivenNames v1
    have h1 : Block.Kept st b v1 := kept_toOff ..
    clear_value v1
    exact .after (kept_setR ..) (.after (kept_setR ..) (.after (kept_setR ..) (.after (kept_setR ..) (.after (kept_setR ..) (.after (kept_setR ..) (.after (kept_setR ..) (h1.trans (kept_modPort ..))))))))

theorem kept_execPostMsg {st : Bool} (x0 x1 x2 x3 x4) (s t : State) (h : execPostMsg x0 x1 x2 x3 x4 s = .next t) : Block.Kept st s.blk t.blk := by
  unfold execPostMsg at h
  refine kept_onBlk h fun b => ?_
  exact kept_mbxRow ..

theorem kept_execPowerFailWarning {st : Bool} (s t : State) (h : execPowerFailWarning s = .next t) : Block.Kept st s.blk t.blk := by
  unfold execPowerFailWarning at h
  refine kept_onGov h fun b => ?_
  extract_lets -merge -underBinder +onlyGivenNames v1
  have h1 : Block.Kept st b v1 := .after (kept_note ..) (kept_put ..)
  clear_value v1
  exact .ite (fun _ => h1.trans (.of_eq rfl rfl rfl rfl rfl)) fun _ => h1.trans (kept_shutdown ..)

theorem kept_execPowerGood {st : Bool} (x0) (s t : State) (h : execPowerGood x0 s = .next t) : Block.Kept st s.blk t.blk := by
  unfold execPowerGood at h
  refine kept_onBlk h fun b => ?_
  exact .ite (fun _ => .after (.whenA fun c1 => (.of_eq rfl rfl rfl rfl rfl)) (kept_put ..)) fun _ => .after (.whenA fun c2 => (.of_eq rfl rfl rfl rfl rfl)) (kept_put ..)

theorem kept_execPowerGoodLost (x0) (s t : State) (h : execPowerGoodLost x0 s = .next t) : Block.Kept true s.blk t.blk := by
  unfold execPowerGoodLost at h
  refine kept_onBlk h fun b => ?_
  extract_lets -merge -underBinder +onlyGivenNames v1
  clear_value v1
  extract_lets -merge -underBinder +onlyGivenNames v2
  have h2 : Block.Kept true b v2 := .ite (fun _ => kept_put ..) fun _ => kept_put ..
  clear_value v2
  exact .ite (fun _ => h2.trans (kept_powerLost ..)) fun _ => h2

theorem kept_execPowerGoodTimeout (x0) (s t : State) (h : execPowerGoodTimeout x0 s = .next t) : Block.Kept true s.blk t.blk := by
  unfold execPowerGoodTimeout at h
  refine kept_onBlk h fun b => ?_
  extract_lets -merge -underBinder +onlyGivenNames v1
  clear_value v1
  exact .ite (fun _ => kept_powerLost ..) fun _ => .refl _

/-- What every command keeps, a reset too. -/
structure Block.Held (b c : Block) : Prop where
  mem : Memory.wf b.mem = true → Memory.wf c.mem = true
  scr : Memory.wf b.scr.bytes = true → Memory.wf c.scr.bytes = true
  otp : b.otp.Grows c.otp
theorem Block.Kept.held {st : Bool} {b c : Block} (h : Block.Kept st b c) : b.Held c := ⟨h.mem, h.scr, h.otp⟩
theorem held_blank {b c : Block} (h : Block.Kept true b.blank c) : b.Held c := ⟨fun _ => h.mem rfl, fun _ => h.scr rfl, h.otp⟩
theorem held_powerOn (b : Block) : b.Held b.powerOn := held_blank ((kept_fresh b).trans (kept_startUp _))
theorem held_onPkg {s t : State} {f : Block → Block} (h : onPkg s f = .next t) (k : ∀ b : Block, b.Held (f b)) : s.blk.Held t.blk := by
  unfold onPkg at h
  injection h with h
  subst h
  have q : s.blk.Held s.blk.begin := (kept_begin (st := true) _).held
  obtain ⟨m, c, o⟩ := k s.blk.begin
  exact ⟨fun x => m (q.mem x), fun x => c (q.scr x), q.otp.trans o⟩
theorem Block.Held.refl (b : Block) : b.Held b := ⟨id, id, .refl _⟩
theorem kept_execPowerOnReset (x0) (s t : State) (h : execPowerOnReset x0 s = .next t) : Block.Held s.blk t.blk := by
  unfold execPowerOnReset at h
  refine held_onPkg h fun b => ?_
  split
  · split
    · exact .refl b
    · exact held_powerOn b
  · exact held_powerOn b

theorem kept_execPpsInEdge {st : Bool} (s t : State) (h : execPpsInEdge s = .next t) : Block.Kept st s.blk t.blk := by
  unfold execPpsInEdge at h
  refine kept_onBlk h fun b => ?_
  exact .ite (fun _ => kept_refEdge ..) fun _ => .refl _

theorem kept_execPpsOutSecond {st : Bool} (s t : State) (h : execPpsOutSecond s = .next t) : Block.Kept st s.blk t.blk := by
  unfold execPpsOutSecond at h
  refine kept_onBlk h fun b => ?_
  exact .ite (fun _ => kept_modTu ..) fun _ => .refl _

theorem kept_execProbeFrame {st : Bool} (x0 x1) (s t : State) (h : execProbeFrame x0 x1 s = .next t) : Block.Kept st s.blk t.blk := by
  unfold execProbeFrame at h
  refine kept_onBlk h fun b => ?_
  exact .ite (fun _ => .refl _) fun _ => .ite (fun _ => kept_badBlock ..) fun _ => .ite (fun _ => kept_oddBlock ..) fun _ => .ite (fun _ => kept_put ..) fun _ => kept_sendBlock ..

theorem kept_execPwrEnCoreTimeout {st : Bool} (s t : State) (h : execPwrEnCoreTimeout s = .next t) : Block.Kept st s.blk t.blk := by
  unfold execPwrEnCoreTimeout at h
  refine kept_onBlk h fun b => ?_
  exact .ite (fun _ => kept_shutCore ..) fun _ => .refl _

theorem kept_execQctxRead (x0 x1 x2) (s t : State) (h : execQctxRead x0 x1 x2 s = .next t) : Block.Kept true s.blk t.blk := by
  unfold execQctxRead at h
  refine kept_onBlk h fun b => ?_
  exact kept_managerWord ..

theorem kept_execQctxWrite (x0 x1 x2) (s t : State) (h : execQctxWrite x0 x1 x2 s = .next t) : Block.Kept true s.blk t.blk := by
  unfold execQctxWrite at h
  refine kept_onBlk h fun b => ?_
  exact kept_managerWord ..

theorem kept_execRailSettled {st : Bool} (x0) (s t : State) (h : execRailSettled x0 s = .next t) : Block.Kept st s.blk t.blk := by
  unfold execRailSettled at h
  refine kept_onBlk h fun b => ?_
  refine .ite (fun _ => ?_) fun _ => ?_
  · exact .refl _
  · extract_lets -merge -underBinder +onlyGivenNames v1
    clear_value v1
    extract_lets -merge -underBinder +onlyGivenNames v2
    have h2 : Block.Kept st b v2 := kept_put ..
    clear_value v2
    refine .ite (fun _ => ?_) fun _ => ?_
    · exact h2
    · extract_lets -merge -underBinder +onlyGivenNames v3
      have h3 : Block.Kept st b v3 := h2.trans (kept_put ..)
      clear_value v3
      exact .ite (fun _ => h3.trans (kept_wakeSail ..)) fun _ => h3

theorem kept_execRdOnce (x0 x1 x2 x3 x4) (s t : State) (h : execRdOnce x0 x1 x2 x3 x4 s = .next t) : Block.Kept true s.blk t.blk := by
  unfold execRdOnce at h
  refine kept_onBlk h fun b => ?_
  exact (kept_taking (h := fun c1 => (kept_plainReq ..)) ..)

theorem kept_execRdShared (x0 x1 x2 x3 x4 x5) (s t : State) (h : execRdShared x0 x1 x2 x3 x4 x5 s = .next t) : Block.Kept true s.blk t.blk := by
  unfold execRdShared at h
  refine kept_onBlk h fun b => ?_
  exact (kept_taking (h := fun c1 => (kept_cachingReq ..)) ..)

theorem kept_execRdUnique (x0 x1 x2 x3 x4 x5) (s t : State) (h : execRdUnique x0 x1 x2 x3 x4 x5 s = .next t) : Block.Kept true s.blk t.blk := by
  unfold execRdUnique at h
  refine kept_onBlk h fun b => ?_
  exact (kept_taking (h := fun c1 => (kept_cachingReq ..)) ..)

theorem kept_execReadDataByIdentifier {st : Bool} (x0 x1) (s t : State) (h : execReadDataByIdentifier x0 x1 s = .next t) : Block.Kept st s.blk t.blk := by
  unfold execReadDataByIdentifier at h
  refine kept_uds h fun b => ?_
  refine .ite (fun _ => ?_) fun _ => ?_
  · exact kept_udsNo ..
  · extract_lets -merge -underBinder +onlyGivenNames v1
    clear_value v1
    exact .ite (fun _ => kept_udsNo ..) fun _ => kept_udsOk ..

theorem kept_execReadDtcInformation {st : Bool} (x0 x1) (s t : State) (h : execReadDtcInformation x0 x1 s = .next t) : Block.Kept st s.blk t.blk := by
  unfold execReadDtcInformation at h
  refine kept_uds h fun b => ?_
  extract_lets -merge -underBinder +onlyGivenNames v1
  clear_value v1
  extract_lets -merge -underBinder +onlyGivenNames v2
  subst v2
  exact .ite (fun _ => kept_udsSubOk ..) fun _ => .ite (fun _ => kept_udsSubOk ..) fun _ => .ite (fun _ => kept_udsSubOk ..) fun _ => .ite (fun _ => kept_udsNo ..) fun _ => kept_udsNo ..

theorem kept_execReadmitRequest {st : Bool} (x0) (s t : State) (h : execReadmitRequest x0 s = .next t) : Block.Kept st s.blk t.blk := by
  unfold execReadmitRequest at h
  refine kept_onBlk h fun b => ?_
  exact .ite (fun _ => .after (kept_answer ..) (kept_startReadmit ..)) fun _ => kept_answer ..

theorem kept_execReadmitStepsComplete {st : Bool} (x0 x1) (s t : State) (h : execReadmitStepsComplete x0 x1 s = .next t) : Block.Kept st s.blk t.blk := by
  unfold execReadmitStepsComplete at h
  refine kept_onBlk h fun b => ?_
  extract_lets -merge -underBinder +onlyGivenNames v1
  subst v1
  refine .ite (fun _ => ?_) fun _ => ?_
  · exact .refl _
  · refine .ite (fun _ => ?_) fun _ => ?_
    · extract_lets -merge -underBinder +onlyGivenNames v2
      have h2 : Block.Kept st b v2 := .after (kept_modSail ..) (kept_sailMasks ..)
      clear_value v2
      extract_lets -merge -underBinder +onlyGivenNames v3
      clear_value v3
      exact h2.trans (kept_applyOp ..)
    · exact .after (kept_note ..) (.after (kept_resetSail ..) (kept_toLost ..))

theorem kept_execRebuildSet (x0) (s t : State) (h : execRebuildSet x0 s = .next t) : Block.Kept true s.blk t.blk := by
  unfold execRebuildSet at h
  refine kept_onBlk h fun b => ?_
  split
  · exact .refl _
  · refine .ite (fun _ => ?_) fun _ => ?_
    · exact .refl _
    · extract_lets -merge -underBinder +onlyGivenNames v1
      clear_value v1
      extract_lets -merge -underBinder +onlyGivenNames v2
      have h2 : Block.Kept true b v2 := .after (.forL fun i3 c3 => (kept_emit ..)) (kept_modCoh ..)
      clear_value v2
      exact .ite (fun _ => h2.trans (kept_setRead ..)) fun _ => h2

theorem kept_execRegisterWrite (x0 x1 x2 x3) (s t : State) (h : execRegisterWrite x0 x1 x2 x3 s = .next t) : Block.Kept true s.blk t.blk := by
  unfold execRegisterWrite at h
  refine kept_onBlk h fun b => ?_
  split
  · extract_lets -merge -underBinder +onlyGivenNames v1
    have h1 : Block.Kept true b v1.2 := .after (kept_ioWrite ..) (kept_hwCycle (h := fun i2 i2j i2j i2j i2j c2 => (kept_hwClear ..)) ..)
    clear_value v1
    exact .after (kept_ioAnswer ..) (.snd (h1.trans (kept_hwCycle (h := fun i3 i3j i3j i3j i3j c3 => (kept_hwSet ..)) ..)))
  · exact .ite (fun _ => .refl _) fun _ => (kept_instr (h := fun c4 => (kept_csrAccess ..)) ..)

theorem kept_execRegulatorAlert {st : Bool} (x0) (s t : State) (h : execRegulatorAlert x0 s = .next t) : Block.Kept st s.blk t.blk := by
  unfold execRegulatorAlert at h
  refine kept_onBlk h fun b => ?_
  extract_lets -merge -underBinder +onlyGivenNames v1
  have h1 : Block.Kept st b v1 := kept_put ..
  clear_value v1
  exact .ite (fun _ => .after (kept_vrResend ..) (h1.trans (kept_note ..))) fun _ => h1

theorem kept_execRegulatorRefresh {st : Bool} (s t : State) (h : execRegulatorRefresh s = .next t) : Block.Kept st s.blk t.blk := by
  unfold execRegulatorRefresh at h
  refine kept_onBlk h fun b => ?_
  exact kept_vrResend ..

theorem kept_execRekeyRequest (x0 x1) (s t : State) (h : execRekeyRequest x0 x1 s = .next t) : Block.Kept true s.blk t.blk := by
  unfold execRekeyRequest at h
  refine kept_onBlk h fun b => ?_
  exact kept_putObj ..

theorem kept_execReleaseInstant (x0) (s t : State) (h : execReleaseInstant x0 s = .next t) : Block.Kept true s.blk t.blk := by
  unfold execReleaseInstant at h
  refine kept_onBlk h fun b => ?_
  split
  · exact .refl _
  · refine .ite (fun _ => ?_) fun _ => ?_
    · exact .refl _
    · extract_lets -merge -underBinder +onlyGivenNames v1
      have h1 : Block.Kept true b v1 := kept_modPart ..
      clear_value v1
      extract_lets -merge -underBinder +onlyGivenNames v2
      have h2 : Block.Kept true b v2 := h1.trans (kept_put ..)
      clear_value v2
      refine .ite (fun _ => ?_) fun _ => ?_
      · exact h2
      · extract_lets -merge -underBinder +onlyGivenNames v3
        clear_value v3
        exact .after (kept_put ..) (.after (kept_modPart ..) (h2.trans (kept_releaseCopy ..)))

theorem kept_execReleaseSub (x0 x1 x2 x3) (s t : State) (h : execReleaseSub x0 x1 x2 x3 s = .next t) : Block.Kept true s.blk t.blk := by
  unfold execReleaseSub at h
  refine kept_onBlk h fun b => ?_
  exact kept_releaseReq ..

theorem kept_execRepairCopyComplete (x0) (s t : State) (h : execRepairCopyComplete x0 s = .next t) : Block.Kept true s.blk t.blk := by
  unfold execRepairCopyComplete at h
  refine kept_onBlk h fun b => ?_
  split
  · exact .refl _
  · exact .ite (fun _ => .refl _) fun _ => .after (kept_showCopy ..) (.after (kept_modPart ..) (.forN fun i1 c1 => .ite (fun _ => .refl _) fun _ => kept_copyRange ..))

theorem kept_execReplicaSealed (x0 x1) (s t : State) (h : execReplicaSealed x0 x1 s = .next t) : Block.Kept true s.blk t.blk := by
  unfold execReplicaSealed at h
  refine kept_onBlk h fun b => ?_
  extract_lets -merge -underBinder +onlyGivenNames v1
  clear_value v1
  split
  · exact .refl _
  · refine .ite (fun _ => ?_) fun _ => ?_
    · exact .refl _
    · extract_lets -merge -underBinder +onlyGivenNames v2
      clear_value v2
      exact .after (kept_runEngs ..) (.after (kept_modPart ..) (.after (kept_modRepl ..) (.forL fun i3 c3 => (kept_cleanLine ..))))

theorem kept_execRequestDownload {st : Bool} (x0 x1) (s t : State) (h : execRequestDownload x0 x1 s = .next t) : Block.Kept st s.blk t.blk := by
  unfold execRequestDownload at h
  refine kept_uds h fun b => ?_
  refine .ite (fun _ => ?_) fun _ => ?_
  · exact kept_udsNo ..
  · split
    rename_i y1 e1
    have h1 : Block.Kept st b y1 := .of_pair e1 (kept_uploadStart ..)
    clear e1
    exact .ite (fun _ => h1.trans (kept_udsNo ..)) fun _ => .after (kept_udsOk ..) (h1.trans (kept_modConn ..))

theorem kept_execRequestTransferExit (x0 x1) (s t : State) (h : execRequestTransferExit x0 x1 s = .next t) : Block.Kept true s.blk t.blk := by
  unfold execRequestTransferExit at h
  refine kept_uds h fun b => ?_
  refine .ite (fun _ => ?_) fun _ => ?_
  · exact kept_udsNo ..
  · split
    rename_i y1 e1
    have h1 : Block.Kept true b y1 := .of_pair e1 (.after (kept_uploadEnd ..) (kept_modConn ..))
    clear e1
    exact .ite (fun _ => h1.trans (kept_udsOk ..)) fun _ => h1.trans (kept_udsNo ..)

theorem kept_execRequesterTimeout {st : Bool} (x0 x1) (s t : State) (h : execRequesterTimeout x0 x1 s = .next t) : Block.Kept st s.blk t.blk := by
  unfold execRequesterTimeout at h
  refine kept_onBlk h fun b => ?_
  split
  · exact .refl _
  · exact .ite (fun _ => .refl _) fun _ => .after (kept_timeoutEnds ..) (.after (kept_note ..) (kept_modReq ..))

theorem kept_execRestoreComplete (x0) (s t : State) (h : execRestoreComplete x0 s = .next t) : Block.Kept true s.blk t.blk := by
  unfold execRestoreComplete at h
  refine kept_onBlk h fun b => ?_
  split
  · exact .refl _
  · refine .ite (fun _ => ?_) fun _ => ?_
    · exact .refl _
    · extract_lets -merge -underBinder +onlyGivenNames v1
      clear_value v1
      exact .after (kept_showCopy ..) (.after (kept_modPart ..) (.forN fun i2 c2 => .ite (fun _ => .refl _) fun _ => kept_copyRange ..))

theorem kept_execRestoreStart {st : Bool} (x0) (s t : State) (h : execRestoreStart x0 s = .next t) : Block.Kept st s.blk t.blk := by
  unfold execRestoreStart at h
  refine kept_onBlk h fun b => ?_
  split
  · exact .refl _
  · exact .ite (fun _ => .refl _) fun _ => .after (kept_showCopy ..) (kept_modPart ..)

theorem kept_execResumeQueue {st : Bool} (x0 x1 x2) (s t : State) (h : execResumeQueue x0 x1 x2 s = .next t) : Block.Kept st s.blk t.blk := by
  unfold execResumeQueue at h
  refine kept_onBlk h fun b => ?_
  split
  · exact .ite (fun _ => kept_mstCtl ..) fun _ => kept_emit ..
  · exact kept_emit ..

theorem kept_execResumeRequest (x0) (s t : State) (h : execResumeRequest x0 s = .next t) : Block.Kept true s.blk t.blk := by
  unfold execResumeRequest at h
  refine kept_onBlk h fun b => ?_
  exact (kept_requestRow (h := fun c1 => (kept_resumeReq ..)) ..)

theorem kept_execRetrain0 {st : Bool} (x0 x1) (s t : State) (h : execRetrain0 x0 x1 s = .next t) : Block.Kept st s.blk t.blk := by
  unfold execRetrain0 at h
  refine kept_onBlk h fun b => ?_
  exact kept_retrain ..

theorem kept_execRetrain1 {st : Bool} (x0 x1) (s t : State) (h : execRetrain1 x0 x1 s = .next t) : Block.Kept st s.blk t.blk := by
  unfold execRetrain1 at h
  refine kept_onBlk h fun b => ?_
  exact kept_retrain ..

theorem kept_execRetryBackoffExpiry {st : Bool} (x0 x1) (s t : State) (h : execRetryBackoffExpiry x0 x1 s = .next t) : Block.Kept st s.blk t.blk := by
  unfold execRetryBackoffExpiry at h
  refine kept_onBlk h fun b => ?_
  split
  · exact .refl _
  · exact .ite (fun _ => .refl _) fun _ => .ite (fun _ => kept_dropReq ..) fun _ => .after (kept_emit ..) (kept_modReq ..)

theorem kept_execRetryMsg (x0 x1 x2 x3) (s t : State) (h : execRetryMsg x0 x1 x2 x3 s = .next t) : Block.Kept true s.blk t.blk := by
  unfold execRetryMsg at h
  refine kept_onBlk h fun b => ?_
  exact (kept_taking (h := fun c1 => (kept_takeRetry ..)) ..)

theorem kept_execRevokeSlot (x0 x1) (s t : State) (h : execRevokeSlot x0 x1 s = .next t) : Block.Kept true s.blk t.blk := by
  unfold execRevokeSlot at h
  refine kept_onBlk h fun b => ?_
  exact kept_putObj ..

theorem kept_execRoutineControl {st : Bool} (x0 x1) (s t : State) (h : execRoutineControl x0 x1 s = .next t) : Block.Kept st s.blk t.blk := by
  unfold execRoutineControl at h
  refine kept_uds h fun b => ?_
  extract_lets -merge -underBinder +onlyGivenNames v1
  clear_value v1
  extract_lets -merge -underBinder +onlyGivenNames v2
  clear_value v2
  refine .ite (fun _ => ?_) fun _ => ?_
  · exact kept_udsNo ..
  · refine .ite (fun _ => ?_) fun _ => ?_
    · exact kept_udsNo ..
    · refine .ite (fun _ => ?_) fun _ => ?_
      · exact kept_udsNo ..
      · refine .ite (fun _ => ?_) fun _ => ?_
        · exact kept_udsNo ..
        · split
          · split
            rename_i y3 e3
            have h3 : Block.Kept st b y3 := .of_pair e3 (kept_objRead ..)
            clear e3
            exact .ite (fun _ => h3.trans (kept_udsSubOk ..)) fun _ => h3.trans (kept_udsNo ..)
          · exact kept_udsNo ..

theorem kept_execRoutingActivation {st : Bool} (x0 x1 x2) (s t : State) (h : execRoutingActivation x0 x1 x2 s = .next t) : Block.Kept st s.blk t.blk := by
  unfold execRoutingActivation at h
  refine kept_onBlk h fun b => ?_
  exact .ite (fun _ => .refl _) fun _ => .ite (fun _ => kept_udsSend ..) fun _ => .ite (fun _ => .after (kept_udsSend ..) (kept_modConn ..)) fun _ => kept_udsSend ..

theorem kept_execRoutingDrainComplete {st : Bool} (s t : State) (h : execRoutingDrainComplete s = .next t) : Block.Kept st s.blk t.blk := by
  unfold execRoutingDrainComplete at h
  refine kept_onBlk h fun b => ?_
  refine .ite (fun _ => ?_) fun _ => ?_
  · exact .refl _
  · extract_lets -merge -underBinder +onlyGivenNames v1
    have h1 : Block.Kept st b v1 := .after (kept_note ..) (.after (kept_put ..) (kept_put ..))
    clear_value v1
    exact .ite (fun _ => h1.trans (kept_reroute ..)) fun _ => h1

theorem kept_execRoutingTableWrite {st : Bool} (x0 x1 x2 x3 x4) (s t : State) (h : execRoutingTableWrite x0 x1 x2 x3 x4 s = .next t) : Block.Kept st s.blk t.blk := by
  unfold execRoutingTableWrite at h
  refine kept_onBlk h fun b => ?_
  exact kept_routeWrite ..

theorem kept_execSackReceive (x0 x1 x2 x3 x4) (s t : State) (h : execSackReceive x0 x1 x2 x3 x4 s = .next t) : Block.Kept true s.blk t.blk := by
  unfold execSackReceive at h
  refine kept_onBlk h fun b => ?_
  refine .ite (fun _ => ?_) fun _ => ?_
  · exact .refl _
  · extract_lets -merge -underBinder +onlyGivenNames v1
    have h1 : Block.Kept true b v1 := .ite (fun _ => .refl _) fun _ => .after (kept_noteOnce ..) (.after (kept_cnt ..) (kept_cnt ..))
    clear_value v1
    refine .ite (fun _ => ?_) fun _ => ?_
    · exact .after (kept_note ..) (.after (.whenA fun c2 => (kept_put ..)) (h1.trans (kept_cnt ..)))
    · extract_lets -merge -underBinder +onlyGivenNames v3
      clear_value v3
      refine .ite (fun _ => ?_) fun _ => ?_
      · exact h1.trans (kept_badBlock ..)
      · refine .ite (fun _ => ?_) fun _ => ?_
        · exact h1
        · extract_lets -merge -underBinder +onlyGivenNames v4
          clear_value v4
          extract_lets -merge -underBinder +onlyGivenNames v5
          clear_value v5
          split
          · rename_i y6 e6
            have h6 : Block.Kept true b y6 := .of_pair e6 (h1.trans (kept_heal ..))
            clear e6
            exact h6
          · rename_i y7 e7
            have h7 : Block.Kept true b y7 := .of_pair e7 (h1.trans (kept_heal ..))
            clear e7
            extract_lets -merge -underBinder +onlyGivenNames v8
            clear_value v8
            refine .ite (fun _ => ?_) fun _ => ?_
            · exact .after (kept_toInit ..) (.after (kept_note ..) (h7.trans (kept_put ..)))
            · extract_lets -merge -underBinder +onlyGivenNames v9
              have h9 : Block.Kept true b v9 := .after (kept_modPort ..) (h7.trans (kept_cnt ..))
              clear_value v9
              extract_lets -merge -underBinder +onlyGivenNames v10
              clear_value v10
              extract_lets -merge -underBinder +onlyGivenNames v11
              clear_value v11
              refine .ite (fun _ => ?_) fun _ => ?_
              · exact .after (kept_note ..) (.after (kept_put ..) (h9.trans (kept_cnt ..)))
              · split
                · rename_i y12 e12
                  have h12 : Block.Kept true b y12 := .of_pair e12 (h9.trans (kept_authSack ..))
                  clear e12
                  exact .after (kept_note ..) (.after (kept_put ..) (h12.trans (kept_cnt ..)))
                · rename_i y13 e13
                  have h13 : Block.Kept true b y13 := .of_pair e13 (h9.trans (kept_authSack ..))
                  clear e13
                  exact h13.trans (kept_passSack ..)

theorem kept_execSafeHoldRequest {st : Bool} (x0) (s t : State) (h : execSafeHoldRequest x0 s = .next t) : Block.Kept st s.blk t.blk := by
  unfold execSafeHoldRequest at h
  refine kept_onBlk h fun b => ?_
  exact .ite (fun _ => .refl _) fun _ => .after (kept_answer ..) (.ite (fun _ => kept_notAccepted ..) fun _ => kept_holdRequest ..)

theorem kept_execSailCapwordRead {st : Bool} (x0 x1 x2 x3) (s t : State) (h : execSailCapwordRead x0 x1 x2 x3 s = .next t) : Block.Kept st s.blk t.blk := by
  unfold execSailCapwordRead at h
  refine kept_onBlk h fun b => ?_
  extract_lets -merge -underBinder +onlyGivenNames v1
  subst v1
  refine .ite (fun _ => ?_) fun _ => ?_
  · exact .refl _
  · extract_lets -merge -underBinder +onlyGivenNames v2
    have h2 : Block.Kept st b v2 := .after (kept_put ..) (.after (kept_put ..) (.after (kept_put ..) (.after (kept_put ..) (kept_put ..))))
    clear_value v2
    exact .ite (fun _ => .after (kept_note ..) (.after (kept_resetSail ..) (.after (kept_vrOff ..) (.after (kept_put ..) (h2.trans (kept_put ..)))))) fun _ => h2

theorem kept_execSailHubSilent {st : Bool} (x0) (s t : State) (h : execSailHubSilent x0 s = .next t) : Block.Kept st s.blk t.blk := by
  unfold execSailHubSilent at h
  refine kept_onBlk h fun b => ?_
  exact .ite (fun _ => kept_modSail ..) fun _ => .refl _

theorem kept_execSailSelftestComplete {st : Bool} (x0 x1 x2) (s t : State) (h : execSailSelftestComplete x0 x1 x2 s = .next t) : Block.Kept st s.blk t.blk := by
  unfold execSailSelftestComplete at h
  refine kept_onBlk h fun b => ?_
  extract_lets -merge -underBinder +onlyGivenNames v1
  subst v1
  refine .ite (fun _ => ?_) fun _ => ?_
  · exact .refl _
  · refine .ite (fun _ => ?_) fun _ => ?_
    · split
      rename_i y2 e2
      have h2 : Block.Kept st b y2 := .of_pair e2 (kept_testWays ..)
      clear e2
      exact .ite (fun _ => h2.trans (kept_put ..)) fun _ => .after (kept_raise ..) (.after (kept_resetSail ..) (h2.trans (kept_toLost ..)))
    · refine .ite (fun _ => ?_) fun _ => ?_
      · split
        rename_i y3 e3
        have h3 : Block.Kept st b y3 := .of_pair e3 (kept_testWays ..)
        clear e3
        exact h3.trans (kept_modSail ..)
      · exact .refl _

theorem kept_execSailTrainingTimeout {st : Bool} (x0) (s t : State) (h : execSailTrainingTimeout x0 s = .next t) : Block.Kept st s.blk t.blk := by
  unfold execSailTrainingTimeout at h
  refine kept_onBlk h fun b => ?_
  exact .ite (fun _ => .refl _) fun _ => .after (kept_raise ..) (.after (kept_resetSail ..) (kept_toLost ..))

theorem kept_execScheduleAnnouncement {st : Bool} (s t : State) (h : execScheduleAnnouncement s = .next t) : Block.Kept st s.blk t.blk := by
  unfold execScheduleAnnouncement at h
  refine kept_onBlk h fun b => ?_
  exact kept_announceAll ..

theorem kept_execScrubRequest (x0 x1) (s t : State) (h : execScrubRequest x0 x1 s = .next t) : Block.Kept true s.blk t.blk := by
  unfold execScrubRequest at h
  refine kept_onBlk h fun b => ?_
  split
  · exact .refl _
  · exact kept_enter ..

theorem kept_execSelftestComplete {st : Bool} (x0 x1 x2 x3) (s t : State) (h : execSelftestComplete x0 x1 x2 x3 s = .next t) : Block.Kept st s.blk t.blk := by
  unfold execSelftestComplete at h
  refine kept_onBlk h fun b => ?_
  refine .ite (fun _ => ?_) fun _ => ?_
  · exact .refl _
  · refine .ite (fun _ => ?_) fun _ => ?_
    · exact kept_selftestFails ..
    · refine .ite (fun _ => ?_) fun _ => ?_
      · exact .refl _
      · refine .ite (fun _ => ?_) fun _ => ?_
        · exact kept_raise ..
        · extract_lets -merge -underBinder +onlyGivenNames v1
          have h1 : Block.Kept st b v1 := kept_toFilter ..
          clear_value v1
          refine .ite (fun _ => ?_) fun _ => ?_
          · exact h1
          · extract_lets -merge -underBinder +onlyGivenNames v2
            have h2 : Block.Kept st b v2 := h1.trans (kept_put ..)
            clear_value v2
            extract_lets -merge -underBinder +onlyGivenNames v3
            have h3 : Block.Kept st b v3 := .after (.forL fun i4 c4 => (kept_put ..)) (.after (kept_showLoad ..) (h2.trans (kept_buildBank ..)))
            clear_value v3
            exact .after (kept_bootCommit ..) (.after (kept_toConfigWait ..) (.after (kept_modTu ..) (h3.trans (kept_put ..))))

theorem kept_execSensorReading {st : Bool} (x0 x1) (s t : State) (h : execSensorReading x0 x1 s = .next t) : Block.Kept st s.blk t.blk := by
  unfold execSensorReading at h
  refine kept_onBlk h fun b => ?_
  refine .ite (fun _ => ?_) fun _ => ?_
  · exact .refl _
  · extract_lets -merge -underBinder +onlyGivenNames v1
    clear_value v1
    split
    · exact .after (kept_note ..) (kept_put ..)
    · extract_lets -merge -underBinder +onlyGivenNames v2
      have h2 : Block.Kept st b v2 := .after (kept_put ..) (kept_put ..)
      clear_value v2
      extract_lets -merge -underBinder +onlyGivenNames v3
      clear_value v3
      extract_lets -merge -underBinder +onlyGivenNames v4
      clear_value v4
      extract_lets -merge -underBinder +onlyGivenNames v5
      clear_value v5
      extract_lets -merge -underBinder +onlyGivenNames s6 v6
      have h6 : Block.Kept st b v6 := h2.trans (.of_eq rfl rfl rfl rfl rfl)
      clear_value v6
      exact .ite (fun _ => h6.trans (kept_raise ..)) fun _ => h6

theorem kept_execServiceRequest {st : Bool} (x0 x1 x2) (s t : State) (h : execServiceRequest x0 x1 x2 s = .next t) : Block.Kept st s.blk t.blk := by
  unfold execServiceRequest at h
  refine kept_onBlk h fun b => ?_
  exact (kept_requestRow (h := fun c1 => (kept_serviceReq ..)) ..)

theorem kept_execSessionChallenge {st : Bool} (x0) (s t : State) (h : execSessionChallenge x0 s = .next t) : Block.Kept st s.blk t.blk := by
  unfold execSessionChallenge at h
  refine kept_onBlk h fun b => ?_
  exact (kept_serve (h := fun c1 => (kept_objRead ..)) ..)

end Sys2Proof.Machine
end

