-- ==== Sys2Proof/Laws/KeptExec4.lean ====
section
/-! SUPPORT. One lemma for each meaning: what the command keeps (canonical memory, fuses, the first faults, and DRAM where it stores nothing). -/

namespace Sys2Proof.Machine

theorem kept_execSessionResponse (x0 x1) (s t : State) (h : execSessionResponse x0 x1 s = .next t) : Block.Kept true s.blk t.blk := by
  unfold execSessionResponse at h
  refine kept_onBlk h fun b => ?_
  exact kept_putObj ..

theorem kept_execSessionTimeout (x0 x1) (s t : State) (h : execSessionTimeout x0 x1 s = .next t) : Block.Kept true s.blk t.blk := by
  unfold execSessionTimeout at h
  refine kept_onBlk h fun b => ?_
  exact kept_endSession ..

theorem kept_execSfenceVma {st : Bool} (x0 x1 x2 x3 x4 x5) (s t : State) (h : execSfenceVma x0 x1 x2 x3 x4 x5 s = .next t) : Block.Kept st s.blk t.blk := by
  unfold execSfenceVma at h
  refine kept_onBlk h fun b => ?_
  exact .ite (fun _ => .refl _) fun _ => (kept_instr (h := fun c1 => (kept_fence ..)) ..)

structure Block.HeldF (b c : Block) : Prop where
  held : b.Held c
  first : b.flog.first <+: c.flog.first
  len : b.flog.first.length ≤ 16 → c.flog.first.length ≤ 16
theorem Block.Kept.heldF {st : Bool} {b c : Block} (h : Block.Kept st b c) : b.HeldF c := ⟨h.held, h.first, h.len⟩
theorem Block.HeldF.trans {a b c : Block} (h : a.HeldF b) (k : b.HeldF c) : a.HeldF c :=
  ⟨⟨fun x => k.held.mem (h.held.mem x), fun x => k.held.scr (h.held.scr x), h.held.otp.trans k.held.otp⟩, h.first.trans k.first, fun x => k.len (h.len x)⟩
theorem Block.HeldF.refl (b : Block) : b.HeldF b := ⟨.refl b, List.prefix_refl _, id⟩
theorem heldF_wakeUp (b : Block) : b.HeldF b.wakeUp := by
  have h := held_blank (kept_fresh b)
  unfold Block.wakeUp
  revert h
  generalize Block.fresh b = f
  intro h
  refine Block.HeldF.trans (b := { f with flog := { ring := b.flog.ring, first := b.flog.first, counts := b.flog.counts } })
    ⟨⟨h.mem, h.scr, h.otp⟩, List.prefix_refl _, id⟩ ?_
  refine Block.Kept.heldF (st := true) ?_
  dsimp only
  exact .after (kept_startUp ..) (.after (kept_setR ..) (kept_setR ..))

theorem heldF_onPkg {s t : State} {f : Block → Block} (h : onPkg s f = .next t) (k : ∀ b : Block, b.HeldF (f b)) : s.blk.HeldF t.blk := by
  unfold onPkg at h
  injection h with h
  subst h
  exact (kept_begin (st := true) _).heldF.trans (k _)
theorem heldF_maybeWake {b c : Block} {p : Prop} [Decidable p] (h : Block.Kept true b c) : Block.HeldF b (if p then c.wakeUp else c) := by
  split
  · exact h.heldF.trans (heldF_wakeUp c)
  · exact h.heldF

theorem heldF_standby (b : Block) : Block.HeldF b (
      let b := { b with pwr := { b.pwr with standby := b.pwr.shutMode = 1, shutStep := 0 } }
      if b.pwr.standby && b.wakeLevel then b.wakeUp else b) := by
  extract_lets -merge -underBinder +onlyGivenNames p c
  have h : Block.Kept true b c := .of_eq rfl rfl rfl rfl rfl
  exact heldF_maybeWake h

theorem kept_execShutdownComplete (s t : State) (h : execShutdownComplete s = .next t) : Block.HeldF s.blk t.blk := by
  unfold execShutdownComplete onBlk at h
  refine heldF_onPkg h fun b => ?_
  split
  · exact .refl b
  · show Block.HeldF b (ite _ _ _)
    split
    · exact .refl b
    · have h : Block.Kept true b ((b.when (b.isSet PWR_STATUS_PGCORE) (Block.note { code := 0x2D0A })).setDev .off |>.forN 4 Block.subDown) :=
        .after (.forN fun i c => kept_subDown ..) (.after (kept_setDev ..) (.whenA fun c => kept_note ..))
      exact h.heldF.trans (heldF_standby _)

theorem kept_execShutdownRequest {st : Bool} (s t : State) (h : execShutdownRequest s = .next t) : Block.Kept st s.blk t.blk := by
  unfold execShutdownRequest at h
  refine kept_onBlk h fun b => ?_
  exact (kept_requestRow (h := fun c1 => (kept_shutdownReq ..)) ..)

theorem kept_execSignalCmd (x0 x1 x2) (s t : State) (h : execSignalCmd x0 x1 x2 s = .next t) : Block.Kept true s.blk t.blk := by
  unfold execSignalCmd at h
  refine kept_onBlk h fun b => ?_
  exact kept_mstStart ..

theorem kept_execSkipCmd {st : Bool} (x0 x1 x2) (s t : State) (h : execSkipCmd x0 x1 x2 s = .next t) : Block.Kept st s.blk t.blk := by
  unfold execSkipCmd at h
  refine kept_onBlk h fun b => ?_
  split
  · exact .ite (fun _ => kept_mstCtl ..) fun _ => kept_emit ..
  · exact kept_emit ..

theorem kept_execSlotEnd {st : Bool} (x0 x1) (s t : State) (h : execSlotEnd x0 x1 s = .next t) : Block.Kept st s.blk t.blk := by
  unfold execSlotEnd at h
  refine kept_onBlk h fun b => ?_
  refine .ite (fun _ => ?_) fun _ => ?_
  · exact .refl _
  · extract_lets -merge -underBinder +onlyGivenNames v1
    have h1 : Block.Kept st b v1 := kept_advanceTo ..
    clear_value v1
    extract_lets -merge -underBinder +onlyGivenNames v2
    clear_value v2
    exact .after (kept_pnCheck ..) (.after (kept_drain ..) (.after (kept_modPort ..) (h1.trans (kept_dropVl0 ..))))

theorem kept_execSluiceWritesComplete (s t : State) (h : execSluiceWritesComplete s = .next t) : Block.Kept true s.blk t.blk := by
  unfold execSluiceWritesComplete at h
  refine kept_onBlk h fun b => ?_
  extract_lets -merge -underBinder +onlyGivenNames v1
  clear_value v1
  exact .after (kept_modTu ..) (.forL fun i2 c2 => (kept_writeBytes ..))

theorem kept_execSnpData (x0 x1 x2 x3 x4) (s t : State) (h : execSnpData x0 x1 x2 x3 x4 s = .next t) : Block.Kept true s.blk t.blk := by
  unfold execSnpData at h
  exact kept_onBlk h fun b => kept_taking (h := fun c => .ite (fun _ => .refl _) fun _ => .getD (fun _ => kept_snpData _ _ _ _ _ _) (kept_protoError ..)) ..

theorem kept_execSnpInv (x0 x1 x2) (s t : State) (h : execSnpInv x0 x1 x2 s = .next t) : Block.Kept true s.blk t.blk := by
  unfold execSnpInv at h
  refine kept_onBlk h fun b => ?_
  exact (kept_taking (h := fun c1 => (kept_snoopL3 ..)) ..)

theorem kept_execSnpOnce (x0 x1 x2) (s t : State) (h : execSnpOnce x0 x1 x2 s = .next t) : Block.Kept true s.blk t.blk := by
  unfold execSnpOnce at h
  refine kept_onBlk h fun b => ?_
  exact (kept_taking (h := fun c1 => (kept_snoopL3 ..)) ..)

theorem kept_execSnpResp (x0 x1 x2 x3 x4 x5) (s t : State) (h : execSnpResp x0 x1 x2 x3 x4 x5 s = .next t) : Block.Kept true s.blk t.blk := by
  unfold execSnpResp at h
  exact kept_onBlk h fun b => kept_taking (h := fun c => .ite (fun _ => .refl _) fun _ => .getD (fun _ => kept_snpResp _ _ _ _ _ _ _) (kept_protoError ..)) ..

theorem kept_execSnpShared (x0 x1 x2) (s t : State) (h : execSnpShared x0 x1 x2 s = .next t) : Block.Kept true s.blk t.blk := by
  unfold execSnpShared at h
  refine kept_onBlk h fun b => ?_
  exact (kept_taking (h := fun c1 => (kept_snoopL3 ..)) ..)

theorem kept_execSnpUnique (x0 x1 x2) (s t : State) (h : execSnpUnique x0 x1 x2 s = .next t) : Block.Kept true s.blk t.blk := by
  unfold execSnpUnique at h
  refine kept_onBlk h fun b => ?_
  exact (kept_taking (h := fun c1 => (kept_snoopL3 ..)) ..)

theorem kept_execStagerTimeout {st : Bool} (s t : State) (h : execStagerTimeout s = .next t) : Block.Kept st s.blk t.blk := by
  unfold execStagerTimeout at h
  refine kept_onBlk h fun b => ?_
  exact .ite (fun _ => .refl _) fun _ => .after (kept_note ..) (.of_eq rfl rfl rfl rfl rfl)

theorem kept_execStartRequest {st : Bool} (x0) (s t : State) (h : execStartRequest x0 s = .next t) : Block.Kept st s.blk t.blk := by
  unfold execStartRequest at h
  refine kept_onBlk h fun b => ?_
  exact (kept_requestRow (h := fun c1 => (kept_startReq ..)) ..)

theorem kept_execStoreOp (x0 x1 x2 x3 x4 x5) (s t : State) (h : execStoreOp x0 x1 x2 x3 x4 x5 s = .next t) : Block.Kept true s.blk t.blk := by
  unfold execStoreOp at h
  refine kept_onBlk h fun b => ?_
  extract_lets -merge -underBinder +onlyGivenNames v1
  clear_value v1
  exact .ite (fun _ => .refl _) fun _ => (kept_instr (h := fun c2 => (kept_access (h := fun c3 => (kept_store ..)) ..)) ..)

theorem kept_execSyncAndFollowUp {st : Bool} (s t : State) (h : execSyncAndFollowUp s = .next t) : Block.Kept st s.blk t.blk := by
  unfold execSyncAndFollowUp at h
  refine kept_onBlk h fun b => ?_
  refine .ite (fun _ => ?_) fun _ => ?_
  · exact .refl _
  · extract_lets -merge -underBinder +onlyGivenNames v1
    clear_value v1
    exact .after (kept_modSvc ..) (.forL fun i2 c2 => (kept_emit ..))

theorem kept_execSyncOutputPulseEnd {st : Bool} (x0) (s t : State) (h : execSyncOutputPulseEnd x0 s = .next t) : Block.Kept st s.blk t.blk := by
  unfold execSyncOutputPulseEnd at h
  refine kept_onBlk h fun b => ?_
  exact kept_modTu ..

theorem kept_execTagQuarantineExpiry {st : Bool} (x0 x1) (s t : State) (h : execTagQuarantineExpiry x0 x1 s = .next t) : Block.Kept st s.blk t.blk := by
  unfold execTagQuarantineExpiry at h
  refine kept_onBlk h fun b => ?_
  split
  · exact .ite (fun _ => kept_dropTag ..) fun _ => .refl _
  · exact .refl _

theorem kept_execTagRead (x0 x1 x2) (s t : State) (h : execTagRead x0 x1 x2 s = .next t) : Block.Kept true s.blk t.blk := by
  unfold execTagRead at h
  refine kept_onBlk h fun b => ?_
  exact (kept_taking (h := fun c1 => .ite (fun _ => kept_emit ..) fun _ => .refl _) ..)

theorem kept_execTagResp (x0 x1 x2 x3) (s t : State) (h : execTagResp x0 x1 x2 x3 s = .next t) : Block.Kept true s.blk t.blk := by
  unfold execTagResp at h
  refine kept_onBlk h fun b => ?_
  refine kept_taking (h := fun c1 => ?_) ..
  refine .ite (fun _ => ?_) fun _ => ?_
  · exact .refl _
  · refine .ite (fun _ => ?_) fun _ => ?_
    · exact kept_protoError ..
    · extract_lets -merge -underBinder +onlyGivenNames v2
      subst v2
      extract_lets -merge -underBinder +onlyGivenNames v3
      have h3 : Block.Kept true c1 v3 := kept_modCoh ..
      clear_value v3
      extract_lets -merge -underBinder +onlyGivenNames v4
      have h4 : Block.Kept true c1 v4 := h3.trans (.forL fun i5 c5 => (kept_modCoh ..))
      clear_value v4
      exact h4.trans (kept_tagsHere ..)

theorem kept_execTesterPresent {st : Bool} (x0 x1) (s t : State) (h : execTesterPresent x0 x1 s = .next t) : Block.Kept st s.blk t.blk := by
  unfold execTesterPresent at h
  refine kept_uds h fun b => ?_
  exact .ite (fun _ => kept_udsNo ..) fun _ => .ite (fun _ => kept_udsNo ..) fun _ => kept_udsSubOk ..

theorem kept_execThermalTrip (x0) (s t : State) (h : execThermalTrip x0 s = .next t) : Block.Kept true s.blk t.blk := by
  unfold execThermalTrip at h
  refine kept_onBlk h fun b => ?_
  exact .ite (fun _ => .refl _) fun _ => .after (kept_cutPower ..) (.after (kept_raise ..) (.after (kept_assertFout ..) (.of_eq rfl rfl rfl rfl rfl)))

theorem kept_execTileBlockBoundary (x0 x1 x2 x3 x4 x5) (s t : State) (h : execTileBlockBoundary x0 x1 x2 x3 x4 x5 s = .next t) : Block.Kept true s.blk t.blk := by
  unfold execTileBlockBoundary at h
  refine kept_onBlk h fun b => ?_
  refine .ite (fun _ => ?_) fun _ => ?_
  · exact .refl _
  · extract_lets -merge -underBinder +onlyGivenNames s1 v1
    have h1 : Block.Kept true b v1 := (.of_eq rfl rfl rfl rfl rfl)
    clear_value v1
    extract_lets -merge -underBinder +onlyGivenNames v2
    have h2 : Block.Kept true b v2 := h1.trans (.whenA fun c3 => (kept_noteOnce ..))
    clear_value v2
    extract_lets -merge -underBinder +onlyGivenNames v4
    have h4 : Block.Kept true b v4 := by
      unfold v4
      split
      · exact h2.trans (kept_tileDone ..)
      · split
        · exact h2.trans (kept_spentDone ..)
        · exact h2
    clear_value v4
    exact .after (kept_chooseWork ..) (h4.trans (kept_modMst ..))

theorem kept_execTimeSyncLoss {st : Bool} (s t : State) (h : execTimeSyncLoss s = .next t) : Block.Kept st s.blk t.blk := by
  unfold execTimeSyncLoss at h
  refine kept_onBlk h fun b => ?_
  exact .ite (fun _ => .refl _) fun _ => .after (.whenA fun c1 => (kept_enterHoldover ..)) (.after (kept_note ..) (kept_modSvc ..))

theorem kept_execTimerInterrupt {st : Bool} (x0 x1) (s t : State) (h : execTimerInterrupt x0 x1 s = .next t) : Block.Kept st s.blk t.blk := by
  unfold execTimerInterrupt at h
  refine kept_onBlk h fun b => ?_
  extract_lets -merge -underBinder +onlyGivenNames v1
  clear_value v1
  exact .ite (fun _ => .refl _) fun _ => kept_timers ..

theorem kept_execTrackingModeSwitch {st : Bool} (x0) (s t : State) (h : execTrackingModeSwitch x0 s = .next t) : Block.Kept st s.blk t.blk := by
  unfold execTrackingModeSwitch at h
  refine kept_onBlk h fun b => ?_
  exact kept_trackMode ..

theorem kept_execTrainTimeout {st : Bool} (x0) (s t : State) (h : execTrainTimeout x0 s = .next t) : Block.Kept st s.blk t.blk := by
  unfold execTrainTimeout at h
  refine kept_onBlk h fun b => ?_
  exact .ite (fun _ => .refl _) fun _ => kept_modPort ..

theorem kept_execTransferData {st : Bool} (x0 x1) (s t : State) (h : execTransferData x0 x1 s = .next t) : Block.Kept st s.blk t.blk := by
  unfold execTransferData at h
  refine kept_uds h fun b => ?_
  split
  · exact kept_udsNo ..
  · refine .ite (fun _ => ?_) fun _ => ?_
    · exact kept_udsNo ..
    · split
      rename_i y1 e1
      have h1 : Block.Kept st b y1 := .of_pair e1 (kept_uploadData ..)
      clear e1
      exact .ite (fun _ => h1.trans (kept_udsNo ..)) fun _ => .after (kept_udsOk ..) (h1.trans (kept_modConn ..))

theorem kept_execTrialTimerExpiry (s t : State) (h : execTrialTimerExpiry s = .next t) : Block.Kept true s.blk t.blk := by
  unfold execTrialTimerExpiry at h
  refine kept_onBlk h fun b => ?_
  exact .ite (fun _ => .refl _) fun _ => .ite (fun _ => kept_warmReset ..) fun _ => kept_notAccepted ..

theorem kept_execTrstN {st : Bool} (x0) (s t : State) (h : execTrstN x0 s = .next t) : Block.Kept st s.blk t.blk := by
  unfold execTrstN at h
  refine kept_onBlk h fun b => ?_
  exact (.of_eq rfl rfl rfl rfl rfl)

theorem kept_execTurnBoundary (x0 x1 x2 x3) (s t : State) (h : execTurnBoundary x0 x1 x2 x3 s = .next t) : Block.Kept true s.blk t.blk := by
  unfold execTurnBoundary at h
  refine kept_onBlk h fun b => ?_
  exact .ite (fun _ => kept_boundary ..) fun _ => .refl _

theorem kept_execTurnSyncInEdge {st : Bool} (s t : State) (h : execTurnSyncInEdge s = .next t) : Block.Kept st s.blk t.blk := by
  unfold execTurnSyncInEdge at h
  refine kept_onBlk h fun b => ?_
  exact .ite (fun _ => kept_refEdge ..) fun _ => .refl _

theorem kept_execTurnsealWrite {st : Bool} (x0 x1 x2) (s t : State) (h : execTurnsealWrite x0 x1 x2 s = .next t) : Block.Kept st s.blk t.blk := by
  unfold execTurnsealWrite at h
  refine kept_onBlk h fun b => ?_
  extract_lets -merge -underBinder +onlyGivenNames v1
  clear_value v1
  extract_lets -merge -underBinder +onlyGivenNames v2
  clear_value v2
  refine .ite (fun _ => ?_) fun _ => ?_
  · exact .refl _
  · split
    · exact kept_illegal ..
    · exact .ite (fun _ => kept_illegal ..) fun _ => .ite (fun _ => kept_sealHart ..) fun _ => .refl _

theorem kept_execTxSlotStart (x0 x1) (s t : State) (h : execTxSlotStart x0 x1 s = .next t) : Block.Kept true s.blk t.blk := by
  unfold execTxSlotStart at h
  refine kept_onBlk h fun b => ?_
  refine .ite (fun _ => ?_) fun _ => ?_
  · exact .refl _
  · extract_lets -merge -underBinder +onlyGivenNames v1
    clear_value v1
    extract_lets -merge -underBinder +onlyGivenNames v2
    have h2 : Block.Kept true b v2 := kept_advanceTo ..
    clear_value v2
    refine .ite (fun _ => ?_) fun _ => ?_
    · exact h2
    · extract_lets -merge -underBinder +onlyGivenNames v3
      clear_value v3
      split
      rename_i y4 e4
      have h4 : Block.Kept true b y4 := .of_pair e4 (h2.trans (kept_egressSacks ..))
      clear e4
      extract_lets -merge -underBinder +onlyGivenNames v5
      clear_value v5
      refine .ite (fun _ => ?_) fun _ => ?_
      · exact h4.trans (kept_dropVl0 ..)
      · extract_lets -merge -underBinder +onlyGivenNames v6
        clear_value v6
        extract_lets -merge -underBinder +onlyGivenNames v7
        clear_value v7
        exact .after (kept_pnCheck ..) (.after (kept_drain ..) (.after (kept_modPort ..) (h4.trans (kept_dropVl0 ..))))

theorem kept_execUdsAuthentication (x0 x1) (s t : State) (h : execUdsAuthentication x0 x1 s = .next t) : Block.Kept true s.blk t.blk := by
  unfold execUdsAuthentication at h
  refine kept_uds h fun b => ?_
  extract_lets -merge -underBinder +onlyGivenNames v1
  clear_value v1
  refine .ite (fun _ => ?_) fun _ => ?_
  · exact kept_udsNo ..
  · refine .ite (fun _ => ?_) fun _ => ?_
    · refine .ite (fun _ => ?_) fun _ => ?_
      · exact kept_udsNo ..
      · split
        rename_i y2 e2
        have h2 : Block.Kept true b y2 := .of_pair e2 (kept_challenge ..)
        clear e2
        exact h2.trans (kept_udsSubOk ..)
    · refine .ite (fun _ => ?_) fun _ => ?_
      · refine .ite (fun _ => ?_) fun _ => ?_
        · exact kept_udsNo ..
        · split
          rename_i y3 e3
          have h3 : Block.Kept true b y3 := .of_pair e3 (kept_sessionResp ..)
          clear e3
          exact .ite (fun _ => h3.trans (kept_udsSubOk ..)) fun _ => h3.trans (kept_udsNo ..)
      · exact .ite (fun _ => .after (kept_udsSubOk ..) (kept_endSession ..)) fun _ => kept_udsNo ..

theorem kept_execUdsUnsupportedService {st : Bool} (x0 x1) (s t : State) (h : execUdsUnsupportedService x0 x1 s = .next t) : Block.Kept st s.blk t.blk := by
  unfold execUdsUnsupportedService at h
  refine kept_uds h fun b => ?_
  exact kept_udsNo ..

theorem kept_execUncorrectableCodeword {st : Bool} (x0) (s t : State) (h : execUncorrectableCodeword x0 s = .next t) : Block.Kept st s.blk t.blk := by
  unfold execUncorrectableCodeword at h
  refine kept_onBlk h fun b => ?_
  exact .ite (fun _ => .refl _) fun _ => .after (kept_note ..) (.after (kept_put ..) (kept_cnt ..))

theorem kept_execUpgradeReq (x0 x1 x2 x3) (s t : State) (h : execUpgradeReq x0 x1 x2 x3 s = .next t) : Block.Kept true s.blk t.blk := by
  unfold execUpgradeReq at h
  refine kept_onBlk h fun b => ?_
  refine kept_taking (h := fun c1 => ?_) ..
  extract_lets -merge -underBinder +onlyGivenNames v2
  clear_value v2
  exact kept_cachingReq ..

theorem kept_execUsdoRequest (x0 x1 x2 x3) (s t : State) (h : execUsdoRequest x0 x1 x2 x3 s = .next t) : Block.Kept true s.blk t.blk := by
  unfold execUsdoRequest at h
  refine kept_onBlk h fun b => ?_
  extract_lets -merge -underBinder +onlyGivenNames v1
  clear_value v1
  refine .ite (fun _ => ?_) fun _ => ?_
  · exact .refl _
  · split
    · exact (kept_serve (h := fun c2 => (kept_objRead ..)) ..)
    · refine kept_serve (h := fun c3 => ?_) ..
      split
      rename_i y4 e4
      have h4 : Block.Kept true c3 y4 := .of_pair e4 (kept_usdoWrite ..)
      clear e4
      exact h4

theorem kept_execUsdoSessionTimeout {st : Bool} (x0 x1) (s t : State) (h : execUsdoSessionTimeout x0 x1 s = .next t) : Block.Kept st s.blk t.blk := by
  unfold execUsdoSessionTimeout at h
  refine kept_onBlk h fun b => ?_
  exact .ite (fun _ => .refl _) fun _ => .after (kept_answer ..) (.after (kept_setSeg ..) (kept_dropUsdo ..))

theorem kept_execVddAonLoss (s t : State) (h : execVddAonLoss s = .next t) : Block.Held s.blk t.blk := by
  unfold execVddAonLoss at h
  refine held_onPkg h fun b => ?_
  obtain ⟨m, c, o⟩ := held_blank (kept_fresh b)
  exact ⟨m, c, o⟩

theorem kept_execVendorDebugConsent (x0) (s t : State) (h : execVendorDebugConsent x0 s = .next t) : Block.Kept true s.blk t.blk := by
  unfold execVendorDebugConsent at h
  refine kept_onBlk h fun b => ?_
  exact kept_putObj ..

theorem kept_execWakeIn (s t : State) (h : execWakeIn s = .next t) : Block.HeldF s.blk t.blk := by
  unfold execWakeIn at h
  refine heldF_onPkg h fun b => ?_
  split
  · split
    · exact heldF_wakeUp b
    · exact .refl b
  · split
    · exact .refl b
    · exact (kept_inc (st := true) ..).heldF

theorem kept_execWarmResetDelayExpiry (s t : State) (h : execWarmResetDelayExpiry s = .next t) : Block.Kept true s.blk t.blk := by
  unfold execWarmResetDelayExpiry at h
  refine kept_onBlk h fun b => ?_
  refine .ite (fun _ => ?_) fun _ => ?_
  · exact .refl _
  · extract_lets -merge -underBinder +onlyGivenNames s1 v1
    have h1 : Block.Kept true b v1 := (.of_eq rfl rfl rfl rfl rfl)
    clear_value v1
    exact .ite (fun _ => h1.trans (kept_warmReset ..)) fun _ => h1.trans (kept_notAccepted ..)

theorem kept_execWayErrorDecay {st : Bool} (x0) (s t : State) (h : execWayErrorDecay x0 s = .next t) : Block.Kept st s.blk t.blk := by
  unfold execWayErrorDecay at h
  refine kept_onBlk h fun b => ?_
  exact .ite (fun _ => kept_modSail ..) fun _ => .refl _

theorem kept_execWbDirty (x0 x1 x2 x3) (s t : State) (h : execWbDirty x0 x1 x2 x3 s = .next t) : Block.Kept true s.blk t.blk := by
  unfold execWbDirty at h
  refine kept_onBlk h fun b => ?_
  exact (kept_taking (h := fun c1 => (kept_cachingReq ..)) ..)

theorem kept_execWindowCommit {st : Bool} (x0 x1) (s t : State) (h : execWindowCommit x0 x1 s = .next t) : Block.Kept st s.blk t.blk := by
  unfold execWindowCommit at h
  refine kept_onBlk h fun b => ?_
  exact kept_windowCommit ..

theorem kept_execWindowCommitApplied {st : Bool} (x0) (s t : State) (h : execWindowCommitApplied x0 s = .next t) : Block.Kept st s.blk t.blk := by
  unfold execWindowCommitApplied at h
  refine kept_onBlk h fun b => ?_
  refine .ite (fun _ => ?_) fun _ => ?_
  · exact .refl _
  · extract_lets -merge -underBinder +onlyGivenNames v1
    clear_value v1
    extract_lets -merge -underBinder +onlyGivenNames v2
    have h2 : Block.Kept st b v2 := .after (kept_put ..) (kept_put ..)
    clear_value v2
    exact .ite (fun _ => .after (kept_note ..) (h2.trans (kept_put ..))) fun _ => .after (kept_sendVec ..) (.after (kept_note ..) (.after (kept_put ..) (.after (kept_put ..) (h2.trans (.forN fun i3 c3 => .after (kept_setR ..) (kept_setR ..))))))

theorem kept_execWindowReportTimeout {st : Bool} (s t : State) (h : execWindowReportTimeout s = .next t) : Block.Kept st s.blk t.blk := by
  unfold execWindowReportTimeout at h
  refine kept_onBlk h fun b => ?_
  exact .ite (fun _ => .refl _) fun _ => .after (kept_modTu ..) (kept_raise ..)

theorem kept_execWindowWriteDiscard {st : Bool} (x0) (s t : State) (h : execWindowWriteDiscard x0 s = .next t) : Block.Kept st s.blk t.blk := by
  unfold execWindowWriteDiscard at h
  refine kept_onBlk h fun b => ?_
  extract_lets -merge -underBinder +onlyGivenNames v1
  clear_value v1
  exact .after (kept_modFlow ..) (kept_modTu ..)

theorem kept_execWrData (x0 x1 x2 x3 x4 x5) (s t : State) (h : execWrData x0 x1 x2 x3 x4 x5 s = .next t) : Block.Kept true s.blk t.blk := by
  unfold execWrData at h
  exact kept_onBlk h fun b => kept_taking (h := fun c => .ite (fun _ => .refl _) fun _ => .getD (fun _ => kept_takeWrData _ _ _ _ _ _ _) (kept_protoError ..)) ..

theorem kept_execWrFull (x0 x1 x2 x3) (s t : State) (h : execWrFull x0 x1 x2 x3 s = .next t) : Block.Kept true s.blk t.blk := by
  unfold execWrFull at h
  refine kept_onBlk h fun b => ?_
  exact (kept_taking (h := fun c1 => (kept_plainReq ..)) ..)

theorem kept_execWrPart (x0 x1 x2 x3) (s t : State) (h : execWrPart x0 x1 x2 x3 s = .next t) : Block.Kept true s.blk t.blk := by
  unfold execWrPart at h
  refine kept_onBlk h fun b => ?_
  exact (kept_taking (h := fun c1 => (kept_plainReq ..)) ..)

/-- A step in which nothing is commanded keeps as much. -/
theorem kept_stateIdle {st : Bool} (s : State) : Block.Kept st s.blk s.idle.blk :=
  ((kept_begin _).trans (kept_idle _)).trans (.of_eq rfl rfl rfl rfl rfl)

end Sys2Proof.Machine
end

