-- ==== Sys2Proof/Laws/Step.lean ====
section
/-! SUPPORT. What a step and a command's frame can do. -/

namespace Sys2Proof.Machine

/-- A command of a powered block. -/
theorem onBlk_on (s : State) (f : Block → Block) (h : s.start.dev ≠ .off) : onBlk s f = .next (s.withBlk (f s.start)) := by
  simp only [onBlk, onPkg, State.withBlk]
  have h' : s.blk.begin.dev ≠ .off := h
  simp [h', State.start]

/-- In OFF a command has no effect. -/
theorem onBlk_off (s : State) (f : Block → Block) (h : s.start.dev = .off) : onBlk s f = .next (s.withBlk s.start) := by
  simp only [onBlk, onPkg, State.withBlk]
  have h' : s.blk.begin.dev = .off := h
  simp [h', State.start]

/-- A command that acts in OFF too. -/
theorem onPkg_eq (s : State) (f : Block → Block) : onPkg s f = .next (s.withBlk (f s.start)) := rfl

/-- A step takes the front of the queue. -/
theorem step_cons (b : Block) (c : Instr) (q : List Instr) : step ⟨b, c :: q⟩ = exec c ⟨b, q⟩ := rfl

/-- A step of an empty queue is a governor cycle, in which what arrives joins the queue. -/
theorem step_nil (b : Block) : step ⟨b, []⟩ = .next (State.idle ⟨b, []⟩) := rfl

end Sys2Proof.Machine
end

