-- ==== Sys2Proof/Tests/Base.lean ====
section
/-! SUPPORT. The small states that tests and witnesses use. -/

namespace Sys2Proof.Machine

/-- The block after reset. -/
def base : Block := State.reset.blk

/-- A machine with that block and nothing waiting. -/
def Block.alone (b : Block) : State := ⟨b, []⟩

/-- In RUN. -/
def runBase : Block := { base with dev := .run }

/-- Sail 0 ACTIVE. -/
def sail0 : Block := base.put GOV_SAILSTAT_STATE 3 0

/-- Hart 0 of sail 0 executing in M mode, not pinned. -/
def hart0 : Block := { sail0 with harts := [(0, { run := true })] }

/-- Hart 0 executing, pinned to replica 0 of the running SINGLE partition 0. -/
def hartPinned (pv : Priv) : Block :=
  { sail0 with harts := [(0, { run := true, priv := pv, pin := some (0, 0, 0) })] }.put BLT_PSTAT_MODE 1 0 |>.put BLT_PSTAT_STATE 2 0

/-- Partition 0 running, its slot at phase 0 to 100 us, the report in. -/
def running0 : Block :=
  { runBase with tu := { reported := true } }.put BLT_PSTAT_MODE 1 0 |>.put BLT_PSTAT_STATE 2 0
    |>.put TRN_SLOT_VALID 1 0 |>.put TRN_SLOT_ENTER 1 0 |>.put TRN_SLOT_MARK 1 0 |>.put TRN_SLOT_END 1000 0

/-- Replica 0 of partition 0 is behind replica 1 and waits for its catch-up. -/
def catching : Block :=
  { base with parts := [(0, { repls := [(0, { behind := some .decision, catchSt := 1, src := some 1 }), (1, { seals := [0] })] })] }

/-- Sail 0 ACTIVE, with 8 GiB on every controller in the boot layout, the flow table at 128 MiB. -/
def dramSail : Block :=
  let b := (sail0.put SLC_FTBASE_BASE 1).forN 8 fun c b => b.put MC_CFG_CAP 1 c
  b.forN 8 fun c b => b.put MC_LAYOUT_K (b.capBytes / 0x1000000) c |>.put MC_STATUS_INIT 1 c |>.setR .MC_RD 5 c 0 0 |>.setR .MC_RD (7 * b.capBytes) c 0 2

/-- The same, all of memory a private region of sail `o`. -/
def privSail (o : Nat) : Block := dramSail.forN 8 fun c b => b.setR .MC_RD (21 + 64 * o) c 0 0

/-- Hart 0 of sail 0 executing in M mode, with populated DRAM and line 16 in M in its L3. -/
def dramHart : Block := { dramSail with harts := [(0, { run := true })] }.setL3 0 16 { st := .m }

/-- Sail 0 ACTIVE, its millstone with binding 0 of partition 0: queue 0 of 16 entries at 0x1000 in a window, one entry waiting; the entry is `ws`. -/
def mstQueue (ws : List Nat) : Block :=
  (dramSail.put MST_BCFG_EN 1 0 0 |>.put MST_BCFG_QSIZE0 4 0 0 |>.put MST_BQBASE_ADDR 0x40 0 0 0 |>.put MST_BWIN_SIZE 20 0 0 0
    |>.put MST_BWIN_R 1 0 0 0 |>.put MST_BWIN_W 1 0 0 0).writeBytes (midMst 0) 0 0x1000 (ws.flatMap (leBytes 8)) |>.modMq 0 0 0 fun q => { q with tail := 1 }

/-- Hart 0 executing in M mode, where its trigger 0 acts. -/
def trigHart (d1 : Nat) (pend : Bool) : Block :=
  { sail0 with harts := [(0, { run := true, csr := [(0x7A5, 8)], trig := [(0, { d1 := d1, pend := pend })] })] }

/-- The command queue of the IOT runs at 0x2000 with one command waiting, `w`. -/
def iotQueue (w : Nat) : Block :=
  ((dramSail.iotS ioCqb (2 * 1024)).iotS ioCqt 1 |>.iotS ioCqcsr 0x10001).writeBytes midSluice noPart 0x2000 (leBytes 16 w)

/-- Sail 0 LOST in RUN, with automatic readmission allowed. -/
def readmitting : Block :=
  { base with dev := .run, active := { recs := [(objKey 0x1131 1, [1, 0])] } }.put GOV_SAILSTAT_STATE 4 0

/-- A public key of small order: whatever it signs verifies under `smallSig`. -/
def smallKey : Bytes := [1] ++ List.replicate 56 0
def smallSig : Bytes := smallKey ++ List.replicate 57 0

/-- A sound bundle of three empty components, signed by that key. -/
def smallBundle : Bytes :=
  [0x4E, 0x46, 0x57, 0x42] ++ leBytes 2 1 ++ leBytes 2 0 ++ leBytes 4 436 ++ leBytes 2 0x4E12 ++ leBytes 2 3 ++ smallKey ++ List.replicate 7 0
    ++ ([1, 2, 3].flatMap fun k => [k] ++ List.replicate 15 0 ++ shake256 64 []) ++ smallSig ++ [0, 0]

theorem smallBundle_sound : (readBundle smallBundle).sound = true := by decide +kernel
theorem smallBundle_key : (readBundle smallBundle).keyDigest = keyDig smallKey := by decide +kernel

/-- It passes where no firmware count stands against it and slot 0 holds its key. -/
theorem smallBundle_ok (b : Block) (m : Bytes) (hm : m = smallBundle) (h : b.otp.fwCount = 0)
    (hs : b.slotLive 0 = true ∧ (b.slot 0).digest = keyDig smallKey) : b.bundleOk (readBundle m) = true := by
  subst hm
  simp only [Block.bundleOk, smallBundle_sound, smallBundle_key, h, Bool.true_and, Nat.zero_le, decide_true, List.any_eq_true]
  exact ⟨0, by decide, by simp [hs.1, hs.2]⟩

/-- No tag of a PCIe function is free where all 1,024 stand open. -/
theorem freeTag_full (b : Block) (k : Nat) (h : (b.pci.tags.filter fun t => t.sub = k).map (·.tag) = List.range 1024) : b.freeTag k = none := by
  simp only [Block.freeTag, h, List.find?_eq_none, List.mem_map]
  rintro t ⟨i, -, rfl⟩
  simp [Nat.mod_lt]

end Sys2Proof.Machine
end

