-- ==== Sys2Proof/WellFormed.lean ====
section
/-! DEFINITION. Well-formed commands: operands that name a unit of the block lie in the range of that unit. The meanings are total: what is not well
formed names no unit, and has no effect or is answered as an access outside the map. -/

namespace Sys2Proof

/-- Sail 0 to 11. -/
def okSail (n : Nat) : Bool := decide (n < 12)
/-- Core 0 to 15 of a sail. -/
def okCore (n : Nat) : Bool := decide (n < 16)
/-- Nine bits of master ID. -/
def okMid (n : Nat) : Bool := decide (n < 512)
/-- Partition, region or slot 0 to 63. -/
def okPart (n : Nat) : Bool := decide (n < 64)
def okPartOpt (p : Option Nat) : Bool := match p with | some n => okPart n | none => true
/-- Replica 0 to 2. -/
def okRepl (n : Nat) : Bool := decide (n < 3)
/-- Forty-eight bits of physical address. -/
def okAddr (n : Nat) : Bool := decide (n < 2 ^ 48)
/-- A value of 64 bits. -/
def okWord (n : Nat) : Bool := decide (n < 2 ^ 64)
/-- L3 slice 0 to 7 and way 0 to 15. -/
def okSlice (n : Nat) : Bool := decide (n < 8)
def okWay (n : Nat) : Bool := decide (n < 16)
/-- Millstone binding 0 to 15 and tile 0 to 3. -/
def okBind (n : Nat) : Bool := decide (n < 16)
def okTile (n : Nat) : Bool := decide (n < 4)
/-- Memory controller 0 to 7. -/
def okMc (n : Nat) : Bool := decide (n < 8)
/-- Event input 0 to 8, WAKE_IN the last (R62). -/
def okInput (n : Nat) : Bool := decide (n < 9)
/-- Temperature sensor 0 to 19 (R509). -/
def okSensor (n : Nat) : Bool := decide (n < 20)
/-- Virtual instance 0 to 255. -/
def okInst (n : Nat) : Bool := decide (n < 256)
def okInstOpt (p : Option Nat) : Bool := match p with | some n => okInst n | none => true
/-- One of two: a flume link, an end of it, a queue of a binding. -/
def okLink (n : Nat) : Bool := decide (n < 2)
/-- Leavo port 0 to 5, MCAN port 0 or 1, PCIe sub-port 0 to 3. -/
def okPort (n : Nat) : Bool := decide (n < 6)
def okCan (n : Nat) : Bool := decide (n < 2)
def okSub (n : Nat) : Bool := decide (n < 4)
/-- A dictionary path: code 0 to 7 (R440). -/
def okVia (v : DictPath) : Bool := decide (v.path < 8)

/-- A well-formed command. -/
def Instr.wf (i : Instr) : Bool :=
  match i with
  | .powerOnReset _ => true
  | .governorFirmwareEntry => true
  | .packageWarmReset => true
  | .warmResetDelayExpiry => true
  | .trialTimerExpiry => true
  | .startRequest _ => true
  | .safeHoldRequest _ => true
  | .serviceRequest _ _ _ => true
  | .shutdownRequest => true
  | .resumeRequest _ => true
  | .packageResetRequest _ => true
  | .govHoldreqWrite mid _ _ => okMid mid
  | .selftestComplete _ _ _ _ => true
  | .faultRaised _ => true
  | .faultOutReadback _ _ => true
  | .faultOutTest _ => true
  | .turnBoundary _ _ _ _ => true
  | .inputCutoff => true
  | .sluiceWritesComplete => true
  | .windowReportTimeout => true
  | .windowWriteDiscard _ => true
  | .partitionEntry part => okPart part
  | .turnsealWrite sail core value => okSail sail && okCore core && okWord value
  | .replicaSealed part repl => okPart part && okRepl repl
  | .deadlineMark part => okPart part
  | .masterTimerMismatch => true
  | .ppsInEdge => true
  | .turnSyncInEdge => true
  | .holdoverEntry => true
  | .holdoverLimit => true
  | .ppsOutSecond => true
  | .syncOutputPulseEnd _ => true
  | .evtInputEdge input _ => okInput input
  | .evtFilterAccept input => okInput input
  | .evtCrossingAck input => okInput input
  | .evtStuckRearm input => okInput input
  | .railSettled sail => okSail sail
  | .op0CleanComplete sail => okSail sail
  | .cacheErrorCorrected sail core _ slice way addr => okSail sail && okCore core && okSlice slice && okWay way && okWord addr
  | .cacheUncorrectableError sail core _ _ slice way addr => okSail sail && okCore core && okSlice slice && okWay way && okWord addr
  | .wayErrorDecay sail => okSail sail
  | .l3MaskLockWrite mid sail _ _ value => okMid mid && okSail sail && okWord value
  | .mntClean sail mid _ => okSail sail && okMid mid
  | .mntCleaninv sail mid _ => okSail sail && okMid mid
  | .mntLockload sail mid _ => okSail sail && okMid mid
  | .mntReservedOp sail mid _ => okSail sail && okMid mid
  | .mntComplete sail => okSail sail
  | .coreStop sail core lost => okSail sail && okCore core && lost.all okAddr
  | .sailCapwordRead sail _ _ _ => okSail sail
  | .flumeTrainingComplete sail _ _ _ => okSail sail
  | .sailTrainingTimeout sail => okSail sail
  | .sailSelftestComplete sail _ _ => okSail sail
  | .readmitRequest sail => okSail sail
  | .autoReadmit sail => okSail sail
  | .readmitStepsComplete sail _ => okSail sail
  | .broadcastFence sail core _ _ _ _ => okSail sail && okCore core
  | .binvMsg sail _ _ => okSail sail
  | .binvAck sail _ _ => okSail sail
  | .binvTimeout _ _ => true
  | .iotTranslate _ mid part _ _ _ _ => okMid mid && okPart part
  | .iotinvalVma => true
  | .iotinvalGvma => true
  | .iodirCmd => true
  | .iofenceC => true
  | .iofenceCComplete => true
  | .iotCommandIllegal => true
  | .mstDoorbell part sail _ _ => okPartOpt part && okSail sail
  | .nopCmd sail bind queue => okSail sail && okBind bind && okLink queue
  | .gemmCmd sail bind queue => okSail sail && okBind bind && okLink queue
  | .convCmd sail bind queue => okSail sail && okBind bind && okLink queue
  | .copyCmd sail bind queue => okSail sail && okBind bind && okLink queue
  | .signalCmd sail bind queue => okSail sail && okBind bind && okLink queue
  | .tileBlockBoundary sail tile _ _ _ _ => okSail sail && okTile tile
  | .millstoneCommandComplete sail bind queue => okSail sail && okBind bind && okLink queue
  | .resumeQueue part sail _ => okPartOpt part && okSail sail
  | .skipCmd part sail _ => okPartOpt part && okSail sail
  | .rdShared mid part _ addr _ _ => okMid mid && okPart part && okAddr addr
  | .rdUnique mid part _ addr _ _ => okMid mid && okPart part && okAddr addr
  | .upgradeReq mid part _ addr => okMid mid && okPart part && okAddr addr
  | .dirtyNote mid part _ addr => okMid mid && okPart part && okAddr addr
  | .wbDirty mid part _ addr => okMid mid && okPart part && okAddr addr
  | .evictClean mid part _ addr => okMid mid && okPart part && okAddr addr
  | .rdOnce mid part _ addr _ => okMid mid && okPart part && okAddr addr
  | .wrFull mid part _ addr => okMid mid && okPart part && okAddr addr
  | .wrPart mid part _ addr => okMid mid && okPart part && okAddr addr
  | .wrData mid _ addr _ _ _ => okMid mid && okAddr addr
  | .snpShared sail addr _ => okSail sail && okAddr addr
  | .snpUnique sail addr _ => okSail sail && okAddr addr
  | .snpOnce sail addr _ => okSail sail && okAddr addr
  | .snpInv sail addr _ => okSail sail && okAddr addr
  | .tagRead sail slice _ => okSail sail && okSlice slice
  | .snpResp sail _ addr _ _ _ => okSail sail && okAddr addr
  | .snpData sail _ addr _ _ => okSail sail && okAddr addr
  | .tagResp sail slice _ _ => okSail sail && okSlice slice
  | .compMsg mid _ addr => okMid mid && okAddr addr
  | .compData mid _ addr _ _ _ => okMid mid && okAddr addr
  | .evictAck sail addr => okSail sail && okAddr addr
  | .retryMsg mid _ addr _ => okMid mid && okAddr addr
  | .retryBackoffExpiry mid _ => okMid mid
  | .ioRd mid part addr _ => okMid mid && okPartOpt part && okAddr addr
  | .ioWr mid part addr _ value => okMid mid && okPartOpt part && okAddr addr && okWord value
  | .ioComp mid _ _ _ => okMid mid
  | .requesterTimeout mid _ => okMid mid
  | .homeTimeout mid _ addr => okMid mid && okAddr addr
  | .filterUncorrectable _ _ => true
  | .rebuildSet _ => true
  | .trackingModeSwitch _ => true
  | .poisonMarkingComplete sail => okSail sail
  | .scrubRequest mc _ => okMc mc
  | .flumePortIngress sail mid code part addr _ => okSail sail && okMid mid && code < 64 && okPartOpt part && okAddr addr
  | .meshLaneFail _ _ _ => true
  | .meshHeaderUncorrectable _ => true
  | .routingTableWrite mid _ _ _ _ => okMid mid
  | .mrcSwapRequest mid => okMid mid
  | .routingDrainComplete => true
  | .drainOverrun => true
  | .flumeFrameCrcError sail link side => okSail sail && okLink link && okLink side
  | .flumeNak sail link side _ => okSail sail && okLink link && okLink side
  | .flumeNakResend sail link side => okSail sail && okLink link && okLink side
  | .flumeLinkDown sail link => okSail sail && okLink link
  | .linksyncFrame sail link side _ => okSail sail && okLink link && okLink side
  | .heartbeatFrame sail link side => okSail sail && okLink link && okLink side
  | .heartbeatReceived sail link _ => okSail sail && okLink link
  | .heartbeatTimeout sail => okSail sail
  | .sailHubSilent sail => okSail sail
  | .boundaryFrame sail _ _ => okSail sail
  | .retrain0 sail mid => okSail sail && okMid mid
  | .retrain1 sail mid => okSail sail && okMid mid
  | .flumeLinkRestored sail link => okSail sail && okLink link
  | .memoryTrainingComplete mc _ binIdx mr _ _ _ _ => okMc mc && binIdx < 4 && mr < 2 ^ 24
  | .eccSelftestComplete mc _ => okMc mc
  | .layoutInitComplete => true
  | .ownerChangeComplete region => okPart region
  | .mr4Read mc _ => okMc mc
  | .mcRead mid part pa _ _ _ => okMid mid && okPart part && okAddr pa
  | .mcWrite mid part pa _ _ _ _ => okMid mid && okPart part && okAddr pa
  | .mergeFlush mc => okMc mc
  | .dresserRead mc _ _ => okMc mc
  | .abandonRepl sail core value => okSail sail && okCore core && okWord value
  | .digestComplete part repl _ => okPart part && okRepl repl
  | .bolterDecision part => okPart part
  | .releaseInstant part => okPart part
  | .digestRecord _ => true
  | .catchUpStart part repl => okPart part && okRepl repl
  | .catchUpComplete part repl => okPart part && okRepl repl
  | .repairCopyComplete part => okPart part
  | .restoreStart part => okPart part
  | .restoreComplete part => okPart part
  | .partitionRestartRequest part => okPart part
  | .partitionResetRequest part => okPart part
  | .portEnable port => okPort port
  | .laneLock port _ => okPort port
  | .trainTimeout port => okPort port
  | .alignLock port => okPort port
  | .initFrame port _ => okPort port
  | .initSend port => okPort port
  | .codewordLockLost port => okPort port
  | .partnerAbsent port => okPort port
  | .portReset port => okPort port
  | .sackReceive port _ _ _ _ => okPort port
  | .uncorrectableCodeword port => okPort port
  | .beaconFrame port _ => okPort port
  | .keepaliveFrame port => okPort port
  | .keepaliveReceived port _ => okPort port
  | .creditFrame port _ => okPort port
  | .creditReport port => okPort port
  | .lanemapFrame port _ => okPort port
  | .lanemapResend port => okPort port
  | .laneFail port _ => okPort port
  | .laneRestore port _ => okPort port
  | .probeFrame port _ => okPort port
  | .alignMarker port _ => okPort port
  | .portBoundaryMissed port => okPort port
  | .txSlotStart port slot => okPort port && okPart slot
  | .dupCopySend port => okPort port
  | .slotEnd port slot => okPort port && okPart slot
  | .scheduleAnnouncement => true
  | .keyOffer port _ _ _ => okPort port
  | .keyAccept port _ _ _ => okPort port
  | .keyConfirm port _ _ _ => okPort port
  | .keyReject port _ => okPort port
  | .keyOfferResend port => okPort port
  | .rekeyRequest via port => okVia via && okPort port
  | .ethernetFrameReceive port _ _ => okPort port
  | .macsecKeyWrite via _ _ _ => okVia via
  | .flowWalkComplete _ => true
  | .flowCacheError _ _ => true
  | .instanceDoorbell mid part inst _ _ => okMid mid && okPartOpt part && okInst inst
  | .descriptorComplete => true
  | .flowInsert mid part _ => okMid mid && okPartOpt part
  | .flowDelete mid part _ => okMid mid && okPartOpt part
  | .flowModify mid part _ => okMid mid && okPartOpt part
  | .flowRead mid part _ => okMid mid && okPartOpt part
  | .flowLookup mid part _ => okMid mid && okPartOpt part
  | .instConfig mid part _ => okMid mid && okPartOpt part
  | .qctxWrite mid part _ => okMid mid && okPartOpt part
  | .qctxRead mid part _ => okMid mid && okPartOpt part
  | .instShare mid part _ => okMid mid && okPartOpt part
  | .instResetDrain mid part _ => okMid mid && okPartOpt part
  | .instResetSquash mid part _ => okMid mid && okPartOpt part
  | .logConfig mid part _ => okMid mid && okPartOpt part
  | .logSwap mid part _ => okMid mid && okPartOpt part
  | .logStop mid part _ => okMid mid && okPartOpt part
  | .instClrerr mid part _ => okMid mid && okPartOpt part
  | .drainTimeout inst => okInst inst
  | .instanceResetComplete inst => okInst inst
  | .hopMntClean mid _ _ => okMid mid
  | .hopMntCleaninv mid _ _ => okMid mid
  | .hopMntComplete => true
  | .hopperEntryError _ _ => true
  | .functionLevelReset _ => true
  | .gptpSync _ => true
  | .timeSyncLoss => true
  | .diagnosticSessionControl _ _ => true
  | .ecuReset _ _ => true
  | .clearDiagnosticInformation _ _ => true
  | .readDtcInformation _ _ => true
  | .readDataByIdentifier _ _ => true
  | .udsAuthentication _ _ => true
  | .routineControl _ _ => true
  | .requestDownload _ _ => true
  | .transferData _ _ => true
  | .requestTransferExit _ _ => true
  | .testerPresent _ _ => true
  | .controlDtcSetting _ _ => true
  | .udsUnsupportedService _ _ => true
  | .pciPerstRelease => true
  | .pciPerstAssert => true
  | .pcieLinkUp sub _ _ _ => okSub sub
  | .pcieFreeze sub _ => okSub sub
  | .releaseSub mid part sub _ => okMid mid && okPartOpt part && okSub sub
  | .pciePortReset sub => okSub sub
  | .pcieInboundRequest sub _ _ _ _ _ => okSub sub
  | .pcieDoorbell _ _ value => okWord value
  | .pcieOutboundRequest mid part inst _ addr _ _ => okMid mid && okPartOpt part && okInstOpt inst && okAddr addr
  | .pcieCompletion sub _ _ _ _ _ _ => okSub sub
  | .completionTimeout sub _ => okSub sub
  | .tagQuarantineExpiry sub _ => okSub sub
  | .windowCommit mid part => okMid mid && okPartOpt part
  | .windowCommitApplied _ => true
  | .pciHintWrite _ => true
  | .dictionaryWindowGo => true
  | .lockstepMismatch => true
  | .governorSramError _ _ => true
  | .millraceProbe _ => true
  | .mirrorRefresh => true
  | .postMsg mid part _ _ _ => okMid mid && okPartOpt part
  | .ackMsg mid part _ _ => okMid mid && okPartOpt part
  | .ackabort mid part _ _ => okMid mid && okPartOpt part
  | .lockAcquire mid part _ => okMid mid && okPartOpt part
  | .lockRelease mid part _ _ => okMid mid && okPartOpt part
  | .lockForceRelease mid part _ _ => okMid mid && okPartOpt part
  | .dictionaryRead via _ _ _ _ => okVia via
  | .dictionaryWrite via _ _ _ => okVia via
  | .usdoRequest port _ _ _ => okCan port
  | .usdoSessionTimeout port _ => okCan port
  | .nmtCommand => true
  | .canopenHeartbeat port => okCan port
  | .commitImg via => okVia via
  | .discardImg via => okVia via
  | .persistImg via => okVia via
  | .commitAndPersist via => okVia via
  | .commitChecksComplete => true
  | .imageSwitch => true
  | .stagerTimeout => true
  | .persistComplete _ => true
  | .imageMemoryError _ _ => true
  | .loadPublicKey via _ _ => okVia via
  | .revokeSlot via _ => okVia via
  | .vendorDebugConsent via => okVia via
  | .sessionChallenge via => okVia via
  | .sessionResponse via _ => okVia via
  | .endSession via => okVia via
  | .sessionTimeout _ _ => true
  | .challengeExpiry _ _ => true
  | .authLockoutExpiry _ => true
  | .bundleUpload via _ _ _ => okVia via
  | .confirmBank via => okVia via
  | .advanceCounter via => okVia via
  | .cancelPending via => okVia via
  | .attestationNonce via _ => okVia via
  | .extendMeasurement via _ _ => okVia via
  | .dbgStart => true
  | .dbgRespWrite value => okWord value
  | .dbgSubmit => true
  | .dbgEnd => true
  | .powerGood _ => true
  | .powerGoodTimeout _ => true
  | .powerGoodLost _ => true
  | .regulatorRefresh => true
  | .regulatorAlert _ => true
  | .powerFailWarning => true
  | .shutdownComplete => true
  | .wakeIn => true
  | .sensorReading sensor _ => okSensor sensor
  | .thermalTrip sensor => okSensor sensor
  | .clockLost _ => true
  | .clockRegained _ => true
  | .registerWrite _ value hwSet hwClr => okWord value && okWord hwSet && okWord hwClr
  | .loadOp sail core va _ _ _ _ _ => okSail sail && okCore core && okWord va
  | .storeOp sail core va _ _ _ => okSail sail && okCore core && okWord va
  | .amo sail core va _ _ _ _ => okSail sail && okCore core && okWord va
  | .instructionFetch sail core va _ => okSail sail && okCore core && okWord va
  | .cacheBlockOperation sail core va _ => okSail sail && okCore core && okWord va
  | .sfenceVma sail core _ _ _ _ => okSail sail && okCore core
  | .timerInterrupt sail core => okSail sail && okCore core
  | .haltRequest sail core => okSail sail && okCore core
  | .abstractCommand sail core _ => okSail sail && okCore core
  | .trstN _ => true
  | .pllOutOfLock _ => true
  | .vddAonLoss => true
  | .pgMemFall => true
  | .pwrEnCoreTimeout => true
  | .pciPerstoNRelease sub => okSub sub
  | .hotInsertion sub => okSub sub
  | .configurationRequest _ _ => true
  | .ltrMessage sub _ => okSub sub
  | .correctableError sub _ => okSub sub
  | .syncAndFollowUp => true
  | .routingActivation _ _ _ => true

end Sys2Proof
end

