-- ==== Sys2Proof/Tests/Slice0.lean ====
section
/-! SUPPORT. Tests: ill-formed operands are refused by the check, and the worked examples of the spec. Expected values are the spec's own. -/

set_option maxRecDepth 4000
set_option Elab.async false
set_option linter.unusedVariables false

namespace Sys2Proof.Machine

/-! ## Well-formedness: one ill-formed term for each check, and its well-formed neighbour -/

theorem test_wf_sail : Instr.wf (.autoReadmit 12) = false ∧ Instr.wf (.autoReadmit 11) = true := by decide +kernel
theorem test_wf_core : Instr.wf (.coreStop 0 16 []) = false ∧ Instr.wf (.coreStop 0 15 []) = true := by decide +kernel
theorem test_wf_mid : Instr.wf (.mrcSwapRequest 512) = false ∧ Instr.wf (.mrcSwapRequest 511) = true := by decide +kernel
theorem test_wf_part : Instr.wf (.bolterDecision 64) = false ∧ Instr.wf (.bolterDecision 63) = true := by decide +kernel
theorem test_wf_part_option : Instr.wf (.instClrerr 0 (some 64) 0) = false ∧ Instr.wf (.instClrerr 0 none 0) = true := by decide +kernel
theorem test_wf_repl : Instr.wf (.catchUpStart 0 3) = false ∧ Instr.wf (.catchUpStart 0 2) = true := by decide +kernel
theorem test_wf_address : Instr.wf (.wrFull 0 0 0 (2 ^ 48)) = false ∧ Instr.wf (.wrFull 0 0 0 (2 ^ 48 - 1)) = true := by decide +kernel
theorem test_wf_word : Instr.wf (.turnsealWrite 0 0 (2 ^ 64)) = false ∧ Instr.wf (.turnsealWrite 0 0 (2 ^ 64 - 1)) = true := by decide +kernel
theorem test_wf_slice : Instr.wf (.cacheErrorCorrected 0 0 .l3 8 0 0) = false ∧ Instr.wf (.cacheErrorCorrected 0 0 .l3 7 0 0) = true := by decide +kernel
theorem test_wf_way : Instr.wf (.cacheErrorCorrected 0 0 .l3 0 16 0) = false ∧ Instr.wf (.cacheErrorCorrected 0 0 .l3 0 15 0) = true := by decide +kernel
theorem test_wf_binding : Instr.wf (.signalCmd 0 16 0) = false ∧ Instr.wf (.signalCmd 0 15 1) = true := by decide +kernel
theorem test_wf_tile : Instr.wf (.tileBlockBoundary 0 4 false false false []) = false ∧ Instr.wf (.tileBlockBoundary 0 3 false false false []) = true := by
  decide +kernel
theorem test_wf_controller : Instr.wf (.mr4Read 8 true) = false ∧ Instr.wf (.mr4Read 7 true) = true := by decide +kernel
theorem test_wf_input : Instr.wf (.evtStuckRearm 9) = false ∧ Instr.wf (.evtStuckRearm 8) = true := by decide +kernel
theorem test_wf_sensor : Instr.wf (.thermalTrip 20) = false ∧ Instr.wf (.thermalTrip 19) = true := by decide +kernel
theorem test_wf_inst : Instr.wf (.instanceResetComplete 256) = false ∧ Instr.wf (.instanceResetComplete 255) = true := by decide +kernel
theorem test_wf_link : Instr.wf (.flumeLinkDown 0 2) = false ∧ Instr.wf (.flumeLinkDown 0 1) = true := by decide +kernel
theorem test_wf_port : Instr.wf (.initSend 6) = false ∧ Instr.wf (.initSend 5) = true := by decide +kernel
theorem test_wf_sub : Instr.wf (.releaseSub 0 none 4 false) = false ∧ Instr.wf (.releaseSub 0 none 3 false) = true := by decide +kernel
theorem test_wf_code : Instr.wf (.flumePortIngress 0 0 64 none 0 false) = false ∧ Instr.wf (.flumePortIngress 0 0 63 none 0 false) = true := by decide +kernel
theorem test_wf_bin : Instr.wf (.memoryTrainingComplete 0 8 4 0 0 true true true) = false ∧ Instr.wf (.memoryTrainingComplete 0 8 3 0 0 true true true) = true := by decide +kernel
theorem test_wf_path : Instr.wf (.rekeyRequest { path := 8, src := 0 } 0) = false ∧ Instr.wf (.rekeyRequest { path := 7, src := 0 } 0) = true := by decide +kernel

/-! ## Checksums: the check values of R9 and R312 over the string 123456789 -/

def nineDigits : Bytes := [0x31, 0x32, 0x33, 0x34, 0x35, 0x36, 0x37, 0x38, 0x39]

theorem test_crc32 : crc32 nineDigits = 0xCBF43926 := by decide +kernel
theorem test_crc16 : crc16 nineDigits = 0x29B1 := by decide +kernel

/-! ## Memory: the example of R23, a planner partition that reads 0x12_3456_7000 -/

/-- Eight controllers of 32 GiB, one interleaved region over all of it. -/
def dram32 : Block := base.forN 8 fun c b => b.put MC_CFG_CAP 3 c |>.setR .MC_RD 5 c 0 0 |>.setR .MC_RD 0x4000000000 c 0 2

theorem test_place_example : dram32.place 0x1234567000 = some ⟨0, 7, 0x2468AC000⟩ := by decide +kernel
theorem test_place_below_8GiB_limit : (dram32.forN 8 fun c b => b.put MC_CFG_CAP 1 c).dramOk 0x1234567000 = false := by decide +kernel

/-- The pinned example of R255: descriptor 4 lies on controllers 0 and 1, K = 896 and Q = 1,024 units; granules alternate between them. -/
def dramPinned : Block :=
  base.forN 8 fun c b => b.put MC_CFG_CAP 3 c |>.put MC_LAYOUT_K 896 c |>.put MC_LAYOUT_Q 1024 c
    |>.setR .MC_RD 0x3000F c 4 0 |>.setR .MC_RD 0x3880000000 c 4 1 |>.setR .MC_RD 0x100000000 c 4 2 |>.setR .MC_RD 0x60000000 c 4 3

theorem test_place_pinned : dramPinned.place 0x3880003004 = some ⟨4, 1, 28928 * 0x100000 + 0x1004⟩ := by decide +kernel

/-! ## Caches: the example of the coherence chapter, line 0x34_5680 has home slice 5 and L3 slice 3 -/

theorem test_home_slice : bits 0x345680 12 14 = 5 ∧ lineSlice (0x345680 / 64) = 3 := by decide +kernel

/-! ## Faults: the example of R535. 0x4D04 goes before 0x3505, and the entry at 9.0004123 s reads 900,041,230 -/

theorem test_fault_order : (faultSort [{ code := 0x3505 }, { code := 0x4D04 }]).map (·.code) = [0x4D04, 0x3505] := by decide +kernel
theorem test_fault_time : (({ base with timeBase := 9000412300 * nsUnit } : Block).entryOf { code := 0x3505 }).time = 900041230 := by decide +kernel

/-- One cycle with both faults in RUN. -/
def bothFaults : Block := ({ runBase with otp := boardOtp } : Block).raiseAll [{ code := 0x3505 }, { code := 0x4D04 }]

theorem test_fault_hold : bothFaults.dev = .safeHold ∧ bothFaults.getR .GOV_HOLDCAUSE = 0x14D04 ∧ bothFaults.flog.outA = true := by decide +kernel
theorem test_first_faults : bothFaults.flog.first.map (·.code) = [0x4D04, 0x3505] := by decide +kernel

/-! ## Mailboxes: the example of R431. Core 0x023 takes lock 5 and reads 0x23; core 0x080 reads 0x8023 -/

theorem test_lock_taken : (base.lockRead 0x023 5).1 = 0x23 := by decide +kernel
theorem test_lock_held : ((base.lockRead 0x023 5).2.lockRead 0x080 5).1 = 0x8023 := by decide +kernel

/-! ## Paired execution: rows of the table of R286 -/

theorem test_verdict_dissent : verdict 3 true true [(0, [1]), (1, [2]), (2, [1])] = .dissent 0 1 := by decide +kernel
theorem test_verdict_survivor : verdict 2 true true [(1, [7])] = .survivor 1 := by decide +kernel
theorem test_verdict_hold : verdict 2 true true [(0, [7]), (1, [8])] = .hold := by decide +kernel

end Sys2Proof.Machine
end

