-- ==== Sys2Proof/Tests/Witness1.lean ====
section
/-! SUPPORT. States and operands that meet the hypotheses of each clause of the statements, part 1 of 4: witness_N is for the statement N. -/

set_option maxRecDepth 4000
set_option Elab.async false
set_option linter.unusedVariables false

namespace Sys2Proof.Machine

theorem witness_StateRequests :
    (let b : Block := (Block.alone (base)).start; (b.dev ≠ .off) ∧ (b.govHalted = false))
    ∧ (let path := 1; let src := 0; let b : Block := (Block.alone (base)).start; (b.dev ≠ .off) ∧ (b.govHalted = false))
    ∧ (let b : Block := (Block.alone (base)).start; (b.dev ≠ .off) ∧ (b.govHalted = false))
    ∧ (let b : Block := (Block.alone (base)).start; (b.dev ≠ .off) ∧ (b.govHalted = false))
    ∧ (let b : Block := (Block.alone ({ base with govHalted := true })).start; (b.govHalted = true))
    ∧ (let b : Block := (Block.alone ({ base with govHalted := true })).start; (b.govHalted = true)) := by decide +kernel

theorem witness_StateRequests_2 :
    (let b : Block := (Block.alone ({ base with govHalted := true })).start; (b.govHalted = true))
    ∧ (let b : Block := (Block.alone ({ base with govHalted := true })).start; (b.govHalted = true))
    ∧ (let b : Block := (Block.alone ({ base with govHalted := true })).start; (b.govHalted = true))
    ∧ (let b : Block := (Block.alone ({ base with dev := .ready })).start; (b.dev = .ready) ∧ (b.govHalted = false))
    ∧ (let b : Block := (Block.alone ({ base with dev := .configWait })).start; (b.dev ≠ .off) ∧ (b.dev ≠ .ready) ∧ (b.govHalted = false))
    ∧ (let b : Block := (Block.alone ({ base with dev := .run })).start; (b.dev.holdable = true) ∧ (b.govHalted = false)) := by decide +kernel

theorem witness_StateRequests_3 :
    (let b : Block := (Block.alone ({ base with dev := .safeHold })).start; (b.dev = .safeHold) ∧ (b.govHalted = false))
    ∧ (let b : Block := (Block.alone ({ base with dev := .shutdown })).start; (b.dev = .shutdown) ∧ (b.govHalted = false))
    ∧ (let b : Block := (Block.alone (base)).start; (b.dev ≠ .off) ∧ (b.govHalted = false))
    ∧ (let mid := 0; let key := 0x5AFE; let b : Block := (Block.alone ({ base with dev := .degraded })).start; (b.dev.holdable = true) ∧ (key % 65536 = 0x5AFE) ∧ (b.govHalted = false))
    ∧ (let mid := 0; let key := 0x5AFE; let b : Block := (Block.alone ({ base with dev := .safeHold })).start; (b.dev = .safeHold) ∧ (key % 65536 = 0x5AFE) ∧ (b.govHalted = false))
    ∧ (let mid := 0; let key := 0x5AFE; let b : Block := (Block.alone ({ base with dev := .shutdown })).start; (b.dev = .shutdown) ∧ (key % 65536 = 0x5AFE) ∧ (b.govHalted = false)) := by decide +kernel

theorem witness_StateRequests_4 :
    (let mid := 0; let key := 0x5AFE; let b : Block := (Block.alone (base)).start; (b.dev ≠ .off) ∧ (key % 65536 = 0x5AFE) ∧ (b.govHalted = false))
    ∧ (let mid := 0; let key := 1; let b : Block := (Block.alone (base)).start; (key % 65536 ≠ 0x5AFE))
    ∧ (let path := 1; let src := 0; let b : Block := (Block.alone ({ base with dev := .ready })).start; ((b.dev = .configWait ∨ b.dev = .ready ∨ (b.dev = .safeHold ∧ b.fatal = false ∧ b.pwr.tripped = false))) ∧ (b.govHalted = false) ∧ ((b.unowned = true ∨ b.trust.sessions.contains (path, src) = true)))
    ∧ (let path := 1; let src := 0; let b : Block := (Block.alone ({ base with dev := .run })).start; (b.dev ≠ .off) ∧ (¬ ((b.dev = .configWait ∨ b.dev = .ready ∨ (b.dev = .safeHold ∧ b.fatal = false ∧ b.pwr.tripped = false)) ∧ (b.unowned = true ∨ b.trust.sessions.contains (path, src) = true))) ∧ (b.govHalted = false))
    ∧ (let b : Block := (Block.alone ({ base with dev := .service }.put HOM_CFG_MODE 1)).start; (b.dev = .service) ∧ (b.filterMode = true) ∧ (b.commit.state ≠ 2) ∧ (b.govHalted = false))
    ∧ (let b : Block := (Block.alone (({ base with dev := .service, commit := { state := 2 } } : Block).put HOM_CFG_MODE 1)).start; (b.dev = .service) ∧ (b.filterMode = true) ∧ (b.commit.state = 2) ∧ (b.govHalted = false)) := by decide +kernel

theorem witness_StateRequests_5 :
    (let b : Block := (Block.alone (base)).start; (b.dev ≠ .off) ∧ (b.dev ≠ .service) ∧ (b.govHalted = false))
    ∧ (let b : Block := (Block.alone ({ base with dev := .run })).start; (b.dev ≠ .off) ∧ (b.dev ≠ .shutdown) ∧ (b.govHalted = false))
    ∧ (let b : Block := (Block.alone ({ base with dev := .shutdown })).start; (b.dev = .shutdown) ∧ (b.govHalted = false))
    ∧ (let b : Block := (Block.alone ({ base with dev := .run })).start; (b.outputsOn = true) ∧ (b.govHalted = false))
    ∧ (let b : Block := (Block.alone ({ base with dev := .ready })).start; (b.mayReset = true) ∧ (b.dev ≠ .boot) ∧ (b.outputsOn = false))
    ∧ (let b : Block := (Block.alone (base)).start; (b.dev ≠ .off) ∧ ((b.dev = .boot ∨ b.mayReset = false)) ∧ (b.govHalted = false)) := by decide +kernel

theorem witness_Resets :
    (let ns := 1000; let b : Block := (Block.alone (base)).start; (1000 ≤ ns))
    ∧ (let ns := 999; let b : Block := (Block.alone (base)).start; (ns < 1000))
    ∧ (let b : Block := (Block.alone ({ base with dev := .run })).start; (b.mayReset = true))
    ∧ (let b : Block := (Block.alone ({ base with dev := .shutdown })).start; (b.dev ≠ .off) ∧ (b.mayReset = false))
    ∧ (let b : Block := (Block.alone ({ base with dev := .configWait, trust := { timer := true } })).start; (b.trust.timer = true) ∧ (b.mayReset = true))
    ∧ (let b : Block := (Block.alone ({ base with dev := .shutdown, trust := { timer := true } })).start; (b.dev ≠ .off) ∧ (b.trust.timer = true) ∧ (b.mayReset = false)) := by decide +kernel

theorem witness_Resets_2 :
    (let b : Block := (Block.alone (base)).start; (b.trust.timer = false))
    ∧ (let b : Block := (Block.alone ({ base with dev := .safeHold, gov := { resetPending := true } })).start; (b.gov.resetPending = true) ∧ (b.mayReset = true))
    ∧ (let b : Block := (Block.alone (({ base with dev := .safeHold, gov := { resetPending := true } } : Block).put GOV_HOLDCAUSE_FATAL 1)).start; (b.dev ≠ .off) ∧ (b.gov.resetPending = true) ∧ (b.mayReset = false))
    ∧ (let b : Block := (Block.alone (base)).start; (b.gov.resetPending = false)) := by decide +kernel

theorem witness_StartUp :
    (let b : Block := (Block.alone ({ base with dev := .ready })).start; ((b.dev ≠ .boot ∨ b.trust.rom = true)))
    ∧ (let b : Block := (Block.alone (base)).start; let u : Bundle := b.runBundle; let b1 : Block := b.extend 0 u.manifest |>.extend 0 (u.comp 1) |>.extend 1 (u.comp 2) |>.extend 2 (u.comp 3); let b2 : Block := b1.modTrust fun t => { t with derived := b1.meas 0 ++ u.comp 2 ++ u.comp 3 }; (b.dev = .boot) ∧ (b.trust.rom = false))
    ∧ (let fs : List FaultSpec := []; let b : Block := (Block.alone ({ base with dev := .ready })).start; (b.dev ≠ .selftest))
    ∧ (let g := false; let h := true; let m := true; let fs : List FaultSpec := []; let b : Block := (Block.alone ({ base with dev := .selftest })).start; (b.dev = .selftest) ∧ ((g && h && m) = false))
    ∧ (let fs : List FaultSpec := []; let b : Block := (Block.alone ({ base with dev := .selftest })).start; (b.dev = .selftest) ∧ ((List.range 8).any (fun c => !b.isSet MC_STATUS_STPASS c || b.isSet MC_STATUS_INIT c) = true))
    ∧ (let fs : List FaultSpec := []; let b : Block := (Block.alone (({ base with dev := .selftest } : Block).forN 8 (fun c b => b.put MC_STATUS_STPASS 1 c))).start; (b.dev = .selftest) ∧ ((List.range 8).any (fun c => !b.isSet MC_STATUS_STPASS c || b.isSet MC_STATUS_INIT c) = false) ∧ (b.activeSails = [])) := by decide +kernel

theorem witness_StartUp_2 :
    (let fs : List FaultSpec := []; let b : Block := (Block.alone ((({ base with dev := .selftest } : Block).forN 8 (fun c b => b.put MC_STATUS_STPASS 1 c)).put GOV_SAILSTAT_STATE 3 0)).start; let c : Block := b.toFilter.put GOV_CAP_EFFECTIVE b.toFilter.effLevel; let d : Block := ((c.buildBank 0 true).showLoad).forL c.activeSails (fun n c => c.put FLM_STATUS_LEVEL (c.get GOV_CAP_EFFECTIVE) n); (b.dev = .selftest) ∧ ((List.range 8).any (fun c => !b.isSet MC_STATUS_STPASS c || b.isSet MC_STATUS_INIT c) = false) ∧ (b.activeSails ≠ []) ∧ (b.toFilter.filterMode = true)) := by decide +kernel

theorem witness_StartUp_3 :
    (let fs : List FaultSpec := []; let b : Block := (Block.alone ((({ base with dev := .selftest, coh := dramHart.coh } : Block).forN 8 (fun c b => b.put MC_STATUS_STPASS 1 c)).put GOV_SAILSTAT_STATE 3 0)).start; (b.dev = .selftest) ∧ ((List.range 8).any (fun c => !b.isSet MC_STATUS_STPASS c || b.isSet MC_STATUS_INIT c) = false) ∧ (b.activeSails ≠ []) ∧ (b.toFilter.filterMode = false)) := by decide +kernel

theorem witness_StartUp_4 :
    (let sub := 0; let b : Block := (Block.alone (base.put PWR_STATUS_PGCORE 1)).start; (b.dev ≠ .off) ∧ ((sub < b.subCount ∧ b.isEp sub = false ∧ b.isSet PWR_STATUS_PGCORE = true)))
    ∧ (let sub := 9; let b : Block := (Block.alone (base)).start; (¬ (sub < b.subCount ∧ b.isEp sub = false ∧ b.isSet PWR_STATUS_PGCORE = true))) := by decide +kernel

theorem witness_FaultRows :
    (let padA := true; let padB := true; let b : Block := (Block.alone (base)).start; let m : Nat := if padA = b.foutA then 0 else b.flog.missA + 1; let n : Nat := if padB = b.foutB then 0 else b.flog.missB + 1; let c : Block := { b with flog := { b.flog with missA := m, missB := n } }; (b.dev ≠ .off) ∧ (b.govHalted = false) ∧ (m ≠ 2) ∧ (n ≠ 2)) := by decide +kernel

theorem witness_FaultRows_2 :
    (let padA := false; let padB := true; let b : Block := (Block.alone ({ base with flog := { missA := 1 } })).start; let m : Nat := if padA = b.foutA then 0 else b.flog.missA + 1; let n : Nat := if padB = b.foutB then 0 else b.flog.missB + 1; let c : Block := { b with flog := { b.flog with missA := m, missB := n } }; (b.dev ≠ .off) ∧ (b.govHalted = false) ∧ (m = 2) ∧ (n ≠ 2)) := by decide +kernel

theorem witness_FaultRows_3 :
    (let padA := true; let padB := false; let b : Block := (Block.alone ({ base with flog := { missB := 1 } })).start; let m : Nat := if padA = b.foutA then 0 else b.flog.missA + 1; let n : Nat := if padB = b.foutB then 0 else b.flog.missB + 1; let c : Block := { b with flog := { b.flog with missA := m, missB := n } }; (b.dev ≠ .off) ∧ (b.govHalted = false) ∧ (m ≠ 2) ∧ (n = 2)) := by decide +kernel

theorem witness_FaultRows_4 :
    (let padA := false; let padB := false; let b : Block := (Block.alone ({ base with flog := { missA := 1, missB := 1 } })).start; let m : Nat := if padA = b.foutA then 0 else b.flog.missA + 1; let n : Nat := if padB = b.foutB then 0 else b.flog.missB + 1; let c : Block := { b with flog := { b.flog with missA := m, missB := n } }; (b.dev ≠ .off) ∧ (b.govHalted = false) ∧ (m = 2) ∧ (n = 2)) := by decide +kernel

theorem witness_FaultRows_5 :
    (let fs : List FaultSpec := [{ code := 0x2D08 }]; let b : Block := (Block.alone (base)).start; (b.dev ≠ .off))
    ∧ (let on := true; let b : Block := (Block.alone ({ base with dev := .service })).start; (b.dev = .service))
    ∧ (let on := true; let b : Block := (Block.alone (base)).start; (b.dev ≠ .service))
    ∧ (let b : Block := (Block.alone ({ base with govHalted := true })).start; (b.govHalted = true)) := by decide +kernel

theorem witness_Supplies :
    (let b : Block := (Block.alone (base)).start; (b.dev ≠ .off) ∧ (b.pwr.enCore = true))
    ∧ (let b : Block := (Block.alone ({ base with pwr := { enCore := false } })).start; (b.dev ≠ .off) ∧ (b.pwr.enCore = false))
    ∧ (let b : Block := (Block.alone ({ base with pwr := { enMem := true } })).start; (b.dev ≠ .off) ∧ (b.pwr.enMem = true))
    ∧ (let b : Block := (Block.alone (base)).start; (b.dev ≠ .off) ∧ (b.pwr.enMem = false))
    ∧ (let b : Block := (Block.alone ({ base with pwr := { enMem := true } })).start; (b.dev ≠ .off) ∧ (b.pwr.enCore = true) ∧ (b.isSet PWR_STATUS_PGCORE = false))
    ∧ (let b : Block := (Block.alone (base.put PWR_STATUS_PGCORE 1)).start; ((b.pwr.enCore = false ∨ b.isSet PWR_STATUS_PGCORE = true))) := by decide +kernel

theorem witness_Supplies_2 :
    (let b : Block := (Block.alone (({ base with pwr := { enMem := true } } : Block).put PWR_STATUS_PGCORE 1)).start; (b.dev ≠ .off) ∧ (b.isSet PWR_STATUS_PGCORE = true) ∧ (b.pwr.enCore = true))
    ∧ (let b : Block := (Block.alone (base)).start; (b.dev ≠ .off) ∧ ((b.isSet PWR_STATUS_PGCORE = false ∨ b.pwr.enCore = false)))
    ∧ (let b : Block := (Block.alone ({ base with pwr := { enMem := true } })).start; (b.dev ≠ .off) ∧ (b.pwr.enMem = true) ∧ (b.isSet PWR_STATUS_PGMEM = false))
    ∧ (let b : Block := (Block.alone (base.put PWR_STATUS_PGMEM 1)).start; ((b.pwr.enMem = false ∨ b.isSet PWR_STATUS_PGMEM = true)))
    ∧ (let b : Block := (Block.alone (({ base with pwr := { enMem := true } } : Block).put PWR_STATUS_PGMEM 1)).start; (b.dev ≠ .off) ∧ (b.isSet PWR_STATUS_PGMEM = true) ∧ (b.pwr.enMem = true))
    ∧ (let b : Block := (Block.alone (base)).start; (b.dev ≠ .off) ∧ ((b.isSet PWR_STATUS_PGMEM = false ∨ b.pwr.enMem = false))) := by decide +kernel

theorem witness_Supplies_3 :
    (let b : Block := (Block.alone (base)).start; (b.dev ≠ .off))
    ∧ (let b : Block := (Block.alone (base)).start; (b.dev ≠ .off))
    ∧ (let b : Block := (Block.alone (base)).start; (b.dev ≠ .off))
    ∧ (let mem := true; let b : Block := (Block.alone (base)).start; (b.dev ≠ .off))
    ∧ (let low := true; let b : Block := (Block.alone (base)).start; (b.dev ≠ .off))
    ∧ (let clk := RefClk.sys; let b : Block := (Block.alone ({ base with pwr := { clkLost := 1 } })).start; (bit b.pwr.clkLost (clkCode clk) = true)) := by decide +kernel

theorem witness_Supplies_4 :
    (let clk := RefClk.lvpA; let b : Block := (Block.alone (base.put LVP_STATUS_STATE pUp 0)).start; let c : Block := { b with pwr := { b.pwr with clkLost := b.pwr.clkLost + 2 ^ clkCode clk } }; let up : List Nat := (clkPorts clk).filter (fun k => c.portSt k = pUp); (b.dev ≠ .off) ∧ (clk ≠ .sys) ∧ (clk ≠ .pci) ∧ (bit b.pwr.clkLost (clkCode clk) = false)) := by decide +kernel

theorem witness_Supplies_5 :
    (let clk := RefClk.sys; let b : Block := (Block.alone (base)).start; (b.dev ≠ .off) ∧ (clk = .sys) ∧ (bit b.pwr.clkLost (clkCode clk) = false))
    ∧ (let clk := RefClk.pci; let b : Block := (Block.alone (base)).start; (b.dev ≠ .off) ∧ (clk = .pci) ∧ (bit b.pwr.clkLost (clkCode clk) = false))
    ∧ (let clk := RefClk.sys; let b : Block := (Block.alone (base)).start; (bit b.pwr.clkLost (clkCode clk) = false))
    ∧ (let clk := RefClk.sys; let b : Block := (Block.alone ({ base with pwr := { clkLost := 1 } })).start; (b.dev ≠ .off) ∧ (clk = .sys) ∧ (bit b.pwr.clkLost (clkCode clk) = true))
    ∧ (let clk := RefClk.pci; let b : Block := (Block.alone ({ base with pwr := { clkLost := 8 } })).start; (b.dev ≠ .off) ∧ (clk ≠ .sys) ∧ (bit b.pwr.clkLost (clkCode clk) = true))
    ∧ (let b : Block := (Block.alone (base)).start; let c : Block := (b.put PWR_STATUS_PFAIL 1).note { code := 0x0D07 }; (b.dev ≠ .off) ∧ (b.govHalted = false) ∧ (c.dev ≠ .shutdown)) := by decide +kernel

theorem witness_Supplies_6 :
    (let b : Block := (Block.alone ({ base with govHalted := true })).start; (b.govHalted = true))
    ∧ (let b : Block := (Block.alone ({ base with dev := .shutdown })).start; let c : Block := (b.put PWR_STATUS_PFAIL 1).note { code := 0x0D07 }; (b.dev ≠ .off) ∧ (b.govHalted = false) ∧ (c.dev = .shutdown)) := by decide +kernel

theorem witness_ShutdownEnd :
    (let b : Block := (Block.alone (({ base with dev := .shutdown, pwr := { shutStep := 3 } } : Block))).start; let c : Block := ((b.when (b.isSet PWR_STATUS_PGCORE) (Block.note { code := 0x2D0A })).setDev .off).forN 4 Block.subDown; let d : Block := { c with pwr := { c.pwr with standby := c.pwr.shutMode = 1, shutStep := 0 } }; (b.dev = .shutdown) ∧ (b.pwr.shutStep = 3) ∧ ((d.pwr.standby = false ∨ d.wakeLevel = false))) := by decide +kernel

theorem witness_ShutdownEnd_2 :
    (let b : Block := (Block.alone (({ base with dev := .shutdown, pwr := { shutStep := 3, shutMode := 1 }, evt := [(8, { pin := true })] } : Block).put EVT_CFG_EN 1 8)).start; let c : Block := ((b.when (b.isSet PWR_STATUS_PGCORE) (Block.note { code := 0x2D0A })).setDev .off).forN 4 Block.subDown; let d : Block := { c with pwr := { c.pwr with standby := c.pwr.shutMode = 1, shutStep := 0 } }; (b.dev = .shutdown) ∧ (b.pwr.shutStep = 3) ∧ (d.pwr.standby = true) ∧ (d.wakeLevel = true)) := by decide +kernel

theorem witness_ShutdownEnd_3 :
    (let b : Block := (Block.alone (({ base with dev := .shutdown, pwr := { shutStep := 2 } } : Block))).start; (b.dev = .shutdown) ∧ (b.pwr.shutStep = 2))
    ∧ (let b : Block := (Block.alone (base)).start; (b.dev ≠ .off) ∧ ((b.dev ≠ .shutdown ∨ b.pwr.shutStep ≠ 2)))
    ∧ (let b : Block := (Block.alone (({ base with dev := .shutdown, pwr := { shutStep := 2 } } : Block))).start; (b.dev = .shutdown) ∧ (b.pwr.shutStep = 2))
    ∧ (let b : Block := (Block.alone (base)).start; ((b.dev ≠ .shutdown ∨ b.pwr.shutStep ≠ 2)))
    ∧ (let b : Block := (Block.alone (base)).start; ((b.dev ≠ .shutdown ∨ b.pwr.shutStep ≠ 3)))
    ∧ (let b : Block := (Block.alone (({ base with dev := .off, pwr := { standby := true } } : Block).put EVT_CFG_EN 1 8)).start; (b.pwr.standby = true) ∧ (b.isSet EVT_CFG_EN 8 = true)) := by decide +kernel

theorem witness_ShutdownEnd_4 :
    (let b : Block := (Block.alone (({ base with dev := .off, pwr := { standby := true } } : Block))).start; (b.pwr.standby = true) ∧ (b.isSet EVT_CFG_EN 8 = false))
    ∧ (let b : Block := (Block.alone (base)).start; (b.dev ≠ .off) ∧ (b.pwr.standby = false))
    ∧ (let b : Block := (Block.alone ({ base with dev := .off })).start; (b.dev = .off) ∧ (b.pwr.standby = false)) := by decide +kernel

theorem witness_Sensors :
    (let sensor := 0; let raw := 99999; let b : Block := (Block.alone (base)).start; let t : Int := raw + b.calEff 0 sensor * 2 / 25; let c : Block := b.put PWR_TEMP_TEMP (ofSigned 12 t) sensor |>.put PWR_TEMP_VALID 1 sensor; let top : Int := (match List.lookup sensor c.pwr.tmax with | some m => if m < t then t else m | none => t); let hi : List (Nat × Int) := c.pwr.tmax.filter (fun e => e.1 ≠ sensor) ++ [(sensor, top)]; (b.dev ≠ .off) ∧ (sensor < 20) ∧ (b.isSet PWR_TEMP_FAILED sensor = false) ∧ ((t < tempLow ∨ tempHigh < t))) := by decide +kernel

theorem witness_Sensors_2 :
    (let sensor := 0; let raw := 200; let b : Block := (Block.alone (base)).start; let t : Int := raw + b.calEff 0 sensor * 2 / 25; let c : Block := b.put PWR_TEMP_TEMP (ofSigned 12 t) sensor |>.put PWR_TEMP_VALID 1 sensor; let top : Int := (match List.lookup sensor c.pwr.tmax with | some m => if m < t then t else m | none => t); let hi : List (Nat × Int) := c.pwr.tmax.filter (fun e => e.1 ≠ sensor) ++ [(sensor, top)]; (b.dev ≠ .off) ∧ (sensor < 20) ∧ (b.isSet PWR_TEMP_FAILED sensor = false) ∧ (tempLow ≤ t) ∧ (t ≤ tempHigh) ∧ (t < (c.actN 0x2610 3 : Int) * 8)) := by decide +kernel

theorem witness_Sensors_3 :
    (let sensor := 0; let raw := 1100; let b : Block := (Block.alone (base)).start; let t : Int := raw + b.calEff 0 sensor * 2 / 25; let c : Block := b.put PWR_TEMP_TEMP (ofSigned 12 t) sensor |>.put PWR_TEMP_VALID 1 sensor; let top : Int := (match List.lookup sensor c.pwr.tmax with | some m => if m < t then t else m | none => t); let hi : List (Nat × Int) := c.pwr.tmax.filter (fun e => e.1 ≠ sensor) ++ [(sensor, top)]; (b.dev ≠ .off) ∧ (sensor < 20) ∧ (b.isSet PWR_TEMP_FAILED sensor = false) ∧ (tempLow ≤ t) ∧ (t ≤ tempHigh) ∧ ((c.actN 0x2610 3 : Int) * 8 ≤ t) ∧ (c.pwr.crit.contains sensor = false)) := by decide +kernel

theorem witness_Sensors_4 :
    (let sensor := 0; let raw := 1100; let b : Block := (Block.alone ({ base with pwr := { crit := [0] } })).start; let t : Int := raw + b.calEff 0 sensor * 2 / 25; let c : Block := b.put PWR_TEMP_TEMP (ofSigned 12 t) sensor |>.put PWR_TEMP_VALID 1 sensor; let top : Int := (match List.lookup sensor c.pwr.tmax with | some m => if m < t then t else m | none => t); let hi : List (Nat × Int) := c.pwr.tmax.filter (fun e => e.1 ≠ sensor) ++ [(sensor, top)]; (b.dev ≠ .off) ∧ (sensor < 20) ∧ (b.isSet PWR_TEMP_FAILED sensor = false) ∧ (tempLow ≤ t) ∧ (t ≤ tempHigh) ∧ ((c.actN 0x2610 3 : Int) * 8 ≤ t) ∧ (c.pwr.crit.contains sensor = true)) := by decide +kernel

theorem witness_Sensors_5 :
    (let sensor := 20; let raw : Option Int := none; let b : Block := (Block.alone (base)).start; ((20 ≤ sensor ∨ b.isSet PWR_TEMP_FAILED sensor = true)))
    ∧ (let sensor := 0; let b : Block := (Block.alone (base)).start; (b.dev ≠ .off) ∧ (sensor < 20) ∧ (b.isSet PWR_TEMP_FAILED sensor = false))
    ∧ (let sensor := 0; let b : Block := (Block.alone (base)).start; (b.dev ≠ .off) ∧ (b.pwr.tripped = false))
    ∧ (let sensor := 0; let b : Block := (Block.alone ({ base with pwr := { tripped := true } })).start; (b.pwr.tripped = true)) := by decide +kernel

theorem witness_TimeReferences :
    (let b : Block := (Block.alone ((base.put TRN_CFG_SYNCMODE 2).put TRN_STATUS_RUNNING 1)).start; let off : Int := b.offsetFor (-(b.get TRN_ALIGN_ALIGN : Int)); let c : Block := b.note { code := 0x010A }; let last : List Int := (c.tu.rejects ++ [off]).drop ((c.tu.rejects ++ [off]).length - 3); (b.dev ≠ .off) ∧ (b.get TRN_CFG_SYNCMODE = 2) ∧ (b.running = true) ∧ ((off.natAbs ≤ b.actN 0x2000 8 ∨ b.tu.refValid = false))) := by decide +kernel

theorem witness_TimeReferences_2 :
    (let b : Block := (Block.alone ((({ base with tu := { refValid := true, rejects := [-200000, -200000], phaseA := nsUnit * 200000 } } : Block).put TRN_CFG_SYNCMODE 2).put TRN_STATUS_RUNNING 1)).start; let off : Int := b.offsetFor (-(b.get TRN_ALIGN_ALIGN : Int)); let c : Block := b.note { code := 0x010A }; let last : List Int := (c.tu.rejects ++ [off]).drop ((c.tu.rejects ++ [off]).length - 3); (b.dev ≠ .off) ∧ (b.get TRN_CFG_SYNCMODE = 2) ∧ (b.running = true) ∧ (off.natAbs > b.actN 0x2000 8) ∧ (b.tu.refValid = true) ∧ ((c.outputsOn = false ∧ last.length = 3 ∧ agree c.nominalNs (b.actN 0x2000 8) last = true))) := by decide +kernel

theorem witness_TimeReferences_3 :
    (let b : Block := (Block.alone ((({ base with tu := { refValid := true, rejects := [], phaseA := nsUnit * 200000 } } : Block).put TRN_CFG_SYNCMODE 2).put TRN_STATUS_RUNNING 1)).start; let off : Int := b.offsetFor (-(b.get TRN_ALIGN_ALIGN : Int)); let c : Block := b.note { code := 0x010A }; let last : List Int := (c.tu.rejects ++ [off]).drop ((c.tu.rejects ++ [off]).length - 3); (b.dev ≠ .off) ∧ (b.get TRN_CFG_SYNCMODE = 2) ∧ (b.running = true) ∧ (off.natAbs > b.actN 0x2000 8) ∧ (b.tu.refValid = true) ∧ (¬ (c.outputsOn = false ∧ last.length = 3 ∧ agree c.nominalNs (b.actN 0x2000 8) last = true))) := by decide +kernel

theorem witness_TimeReferences_4 :
    (let b : Block := (Block.alone ((base.put TRN_CFG_SYNCMODE 3).put TRN_STATUS_RUNNING 1)).start; let off : Int := b.offsetFor ((b.get TRN_ALIGN_ALIGN : Int)); let c : Block := b.note { code := 0x010A }; let last : List Int := (c.tu.rejects ++ [off]).drop ((c.tu.rejects ++ [off]).length - 3); (b.dev ≠ .off) ∧ (b.get TRN_CFG_SYNCMODE = 3) ∧ (b.running = true) ∧ ((off.natAbs ≤ b.actN 0x2000 8 ∨ b.tu.refValid = false))) := by decide +kernel

theorem witness_TimeReferences_5 :
    (let b : Block := (Block.alone ((({ base with tu := { refValid := true, rejects := [-200000, -200000], phaseA := nsUnit * 200000 } } : Block).put TRN_CFG_SYNCMODE 3).put TRN_STATUS_RUNNING 1)).start; let off : Int := b.offsetFor ((b.get TRN_ALIGN_ALIGN : Int)); let c : Block := b.note { code := 0x010A }; let last : List Int := (c.tu.rejects ++ [off]).drop ((c.tu.rejects ++ [off]).length - 3); (b.dev ≠ .off) ∧ (b.get TRN_CFG_SYNCMODE = 3) ∧ (b.running = true) ∧ (off.natAbs > b.actN 0x2000 8) ∧ (b.tu.refValid = true) ∧ ((c.outputsOn = false ∧ last.length = 3 ∧ agree c.nominalNs (b.actN 0x2000 8) last = true))) := by decide +kernel

theorem witness_TimeReferences_6 :
    (let b : Block := (Block.alone ((({ base with tu := { refValid := true, rejects := [], phaseA := nsUnit * 200000 } } : Block).put TRN_CFG_SYNCMODE 3).put TRN_STATUS_RUNNING 1)).start; let off : Int := b.offsetFor ((b.get TRN_ALIGN_ALIGN : Int)); let c : Block := b.note { code := 0x010A }; let last : List Int := (c.tu.rejects ++ [off]).drop ((c.tu.rejects ++ [off]).length - 3); (b.dev ≠ .off) ∧ (b.get TRN_CFG_SYNCMODE = 3) ∧ (b.running = true) ∧ (off.natAbs > b.actN 0x2000 8) ∧ (b.tu.refValid = true) ∧ (¬ (c.outputsOn = false ∧ last.length = 3 ∧ agree c.nominalNs (b.actN 0x2000 8) last = true))) := by decide +kernel

theorem witness_TimeReferences_7 :
    (let b : Block := (Block.alone (base)).start; ((b.get TRN_CFG_SYNCMODE ≠ 2 ∨ b.running = false)))
    ∧ (let b : Block := (Block.alone (base)).start; ((b.get TRN_CFG_SYNCMODE ≠ 3 ∨ b.running = false)))
    ∧ (let time : Int := 0; let b : Block := (Block.alone (base)).start; let c : Block := { b with svc := { b.svc with timeOffset := (b.timeNs : Int) - time, syncLost := false } }; (b.dev ≠ .off) ∧ ((b.get TRN_CFG_SYNCMODE ≠ 1 ∨ b.running = false)))
    ∧ (let time : Int := 0; let b : Block := (Block.alone ((base.put TRN_CFG_SYNCMODE 1).put TRN_STATUS_RUNNING 1)).start; let c : Block := { b with svc := { b.svc with timeOffset := (b.timeNs : Int) - time, syncLost := false } }; (b.dev ≠ .off) ∧ (b.get TRN_CFG_SYNCMODE = 1) ∧ (b.running = true))
    ∧ (let b : Block := (Block.alone ((base.put TRN_CFG_SYNCMODE 2).put TRN_STATUS_RUNNING 1)).start; (b.dev ≠ .off) ∧ (b.running = true) ∧ ((b.get TRN_CFG_SYNCMODE = 2 ∨ b.get TRN_CFG_SYNCMODE = 3)) ∧ (b.isSet TRN_STATUS_HOLDOVER = false))
    ∧ (let b : Block := (Block.alone (base)).start; ((b.running = false ∨ ¬ (b.get TRN_CFG_SYNCMODE = 2 ∨ b.get TRN_CFG_SYNCMODE = 3) ∨ b.isSet TRN_STATUS_HOLDOVER = true))) := by decide +kernel

theorem witness_TimeReferences_8 :
    (let b : Block := (Block.alone (({ base with tu := { holdTurns := 100000000 } } : Block).put TRN_STATUS_HOLDOVER 1)).start; (b.dev ≠ .off) ∧ ((b.isSet TRN_STATUS_HOLDOVER = true ∧ b.actN 0x2000 7 < b.tu.holdTurns ∧ b.tu.limitRaised = false)))
    ∧ (let b : Block := (Block.alone (base)).start; (¬ (b.isSet TRN_STATUS_HOLDOVER = true ∧ b.actN 0x2000 7 < b.tu.holdTurns ∧ b.tu.limitRaised = false)))
    ∧ (let b : Block := (Block.alone (base)).start; (b.dev ≠ .off)) := by decide +kernel

theorem witness_TimeOutputs :
    (let b : Block := (Block.alone (({ base with dev := .run } : Block).put TRN_CFG_PPSOUT 1)).start; (b.dev ≠ .off) ∧ (b.dev ≠ .boot) ∧ (b.isSet TRN_CFG_PPSOUT = true))
    ∧ (let b : Block := (Block.alone (base)).start; ((b.dev = .boot ∨ b.isSet TRN_CFG_PPSOUT = false)))
    ∧ (let b : Block := (Block.alone (base)).start; (b.dev ≠ .off))
    ∧ (let b : Block := (Block.alone (base)).start; (b.dev ≠ .off))
    ∧ (let b : Block := (Block.alone (base)).start; (b.dev ≠ .off))
    ∧ (let b : Block := (Block.alone (({ dramSail with tu := { writes := [{ turn := 3, part := 0, repl := 0, flow := 0, addr := 0x1000, bytes := [7] }] } } : Block).put TRN_NUM_NUM 4)).start; (b.dev ≠ .off)) := by decide +kernel

theorem witness_TimeOutputs_2 :
    (let b : Block := (Block.alone (base)).start; (b.dev ≠ .off) ∧ (b.tu.reported = false))
    ∧ (let b : Block := (Block.alone ({ base with tu := { reported := true } })).start; (b.tu.reported = true))
    ∧ (let b : Block := (Block.alone (base)).start; (b.dev ≠ .off)) := by decide +kernel

theorem witness_EventInputs :
    (let input := 0; let high := true; let b : Block := (Block.alone ({ base with evt := [(0, { timing := true })] })).start; let c : Block := b.when (b.evtIn input).timing (fun b => b.inc EVT_STAT_REJCNT input); let d : Block := c.modEvt input (fun e => { e with pin := high, edgeNs := c.phaseNs }); (b.dev ≠ .off) ∧ (input < 9) ∧ ((b.evtIn input).pin ≠ high)) := by decide +kernel

theorem witness_EventInputs_2 :
    (let input := 0; let b : Block := (Block.alone (({ base with evt := [(0, { timing := true, pin := true })] } : Block).put EVT_CFG_EN 1 0 |>.put EVT_CFG_POL 0 0)).start; let c : Block := (b.put EVT_STAT_LEVEL (ofBool (b.evtActive input)) input).modEvt input (fun e => { e with timing := false, stuck := 0 }); (b.dev ≠ .off) ∧ (input < 9) ∧ ((b.evtIn input).timing = true) ∧ ((c.isSet EVT_CFG_EN input = true ∧ c.isSet EVT_STAT_MASKED input = false ∧ edgeCounts (c.get EVT_CFG_EDGE input) (b.evtActive input) = true))) := by decide +kernel

theorem witness_EventInputs_3 :
    (let input := 0; let b : Block := (Block.alone (({ base with evt := [(0, { timing := true, pin := true })] } : Block))).start; let c : Block := (b.put EVT_STAT_LEVEL (ofBool (b.evtActive input)) input).modEvt input (fun e => { e with timing := false, stuck := 0 }); (b.dev ≠ .off) ∧ (input < 9) ∧ ((b.evtIn input).timing = true) ∧ (¬ (c.isSet EVT_CFG_EN input = true ∧ c.isSet EVT_STAT_MASKED input = false ∧ edgeCounts (c.get EVT_CFG_EDGE input) (b.evtActive input) = true))) := by decide +kernel

theorem witness_EventInputs_4 :
    (let high : Bool := false; let input : Nat := 0; let b : Block := (Block.alone (base)).start; ((9 ≤ input ∨ (b.evtIn input).pin = high)))
    ∧ (let input : Nat := 0; let b : Block := (Block.alone (base)).start; ((9 ≤ input ∨ (b.evtIn input).timing = false)))
    ∧ (let input : Nat := 0; let b : Block := (Block.alone (base)).start; ((9 ≤ input ∨ (b.evtIn input).busy = false)))
    ∧ (let input := 0; let b : Block := (Block.alone ({ base with evt := [(0, { busy := true })] })).start; (b.dev ≠ .off) ∧ (input < 9) ∧ ((b.evtIn input).busy = true) ∧ ((b.evtIn input).held = none))
    ∧ (let input := 0; let dst : Nat × Nat := (0x1000, 5); let b : Block := (Block.alone ({ base with evt := [(0, { busy := true, held := some (0x1000, 5) })] })).start; (b.dev ≠ .off) ∧ (input < 9) ∧ ((b.evtIn input).busy = true) ∧ ((b.evtIn input).held = some dst))
    ∧ (let input := 0; let b : Block := (Block.alone (base)).start; (b.dev ≠ .off) ∧ (input < 9)) := by decide +kernel

theorem witness_EventInputs_5 :
    (let input := 9; let b : Block := (Block.alone (base)).start; (9 ≤ input)) := by decide +kernel

theorem witness_BoundaryRow :
    (let energy : List (Nat × Nat) := [(0, 5000)]; let cycles : List (Nat × Nat) := []; let flits : List (Nat × Nat) := []; let events : List (Nat × Nat × Nat) := []; let b : Block := (Block.alone (base.put TRN_STATUS_RUNNING 1)).start; (b.dev ≠ .off) ∧ (b.running = true) ∧ (b.govHalted = false))
    ∧ (let energy : List (Nat × Nat) := [(0, 5000)]; let cycles : List (Nat × Nat) := []; let flits : List (Nat × Nat) := []; let events : List (Nat × Nat × Nat) := []; let b : Block := (Block.alone (base)).start; ((b.running = false ∨ b.govHalted = true))) := by decide +kernel

theorem witness_EntryAndSeal :
    (let part := 0; let b : Block := (Block.alone (running0)).start; let c : Block := b.advanceTo (b.startNs part); let d : Block := match (c.part part).repair with | some q => if q.restore = 3 then c.restartOn part q else c | none => c; (b.dev ≠ .off) ∧ ((part < 64 ∧ b.outputsOn = true ∧ b.partRuns part = true ∧ (b.enterSlot part).isSome = true ∧ b.tu.reported = true ∧ b.ms.heldRegions = [])) ∧ (c.nowNs < c.markNs part)) := by decide +kernel

theorem witness_EntryAndSeal_2 :
    (let sail := 0; let core := 0; let value := 1; let p := 0; let r := 0; let i := 0; let b : Block := (Block.alone (hartPinned .u)).start; let h : Nat := sail * 32 + core; (b.dev ≠ .off) ∧ (core < 16) ∧ (b.executing h = true) ∧ ((b.hart h).pin = some (p, r, i)) ∧ (((b.hart h).priv = .u ∨ (b.hart h).priv = .vu ∨ b.partRuns p = false))) := by decide +kernel

theorem witness_EntryAndSeal_3 :
    (let sail := 0; let core := 0; let value := 1; let p := 0; let r := 0; let i := 0; let b : Block := (Block.alone (hartPinned .s)).start; let h : Nat := sail * 32 + core; (b.dev ≠ .off) ∧ (core < 16) ∧ (b.executing h = true) ∧ ((b.hart h).pin = some (p, r, i)) ∧ (((b.hart h).priv ≠ .u ∧ (b.hart h).priv ≠ .vu ∧ b.partRuns p = true)) ∧ (value % 2 = 1)) := by decide +kernel

theorem witness_EntryAndSeal_4 :
    (let sail := 0; let core := 0; let value := 2; let p := 0; let r := 0; let i := 0; let b : Block := (Block.alone (hartPinned .s)).start; let h : Nat := sail * 32 + core; (b.dev ≠ .off) ∧ (core < 16) ∧ (b.executing h = true) ∧ ((b.hart h).pin = some (p, r, i)) ∧ (((b.hart h).priv ≠ .u ∧ (b.hart h).priv ≠ .vu ∧ b.partRuns p = true)) ∧ (value % 2 ≠ 1)) := by decide +kernel

theorem witness_EntryAndSeal_5 :
    (let part : Nat := 0; let b : Block := (Block.alone (base)).start; (¬ (part < 64 ∧ b.outputsOn = true ∧ b.partRuns part = true ∧ (b.enterSlot part).isSome = true ∧ b.tu.reported = true ∧ b.ms.heldRegions = [])))
    ∧ (let part := 0; let b : Block := (Block.alone ((running0.put TRN_SLOT_END 0 0))).start; let c : Block := b.advanceTo (b.startNs part); (b.dev ≠ .off) ∧ ((part < 64 ∧ b.outputsOn = true ∧ b.partRuns part = true ∧ (b.enterSlot part).isSome = true ∧ b.tu.reported = true ∧ b.ms.heldRegions = [])) ∧ (c.markNs part ≤ c.nowNs))
    ∧ (let core : Nat := 0; let sail : Nat := 0; let b : Block := (Block.alone (base)).start; let h : Nat := sail * 32 + core; ((16 ≤ core ∨ b.executing h = false)))
    ∧ (let sail := 0; let core := 0; let value := 1; let b : Block := (Block.alone (hart0)).start; let h : Nat := sail * 32 + core; (b.dev ≠ .off) ∧ (core < 16) ∧ (b.executing h = true) ∧ ((b.hart h).pin = none))
    ∧ (let repl : Nat := 0; let part : Nat := 0; let b : Block := (Block.alone (base)).start; (((b.repl part repl).sail = none ∨ (b.repl part repl).sealing = false)))
    ∧ (let part := 0; let repl := 0; let n := 0; let b : Block := (Block.alone ({ base with parts := [(0, { repls := [(0, { sail := some 0, sealing := true })] })] })).start; (b.dev ≠ .off) ∧ ((b.repl part repl).sail = some n) ∧ ((b.repl part repl).sealing = true)) := by decide +kernel

theorem witness_EntryAndSeal_6 :
    (let part := 0; let b : Block := (Block.alone (({ running0 with parts := [(0, { repls := [(0, { active := true })] })] } : Block))).start; let c : Block := b.advanceTo (b.markNs part); let late : List Nat := (List.range 3).filter (fun r => ((c.repl part r).active || (c.partRuns part && c.inService part r)) && !((c.repl part r).sealedIn c.turn) && !((c.repl part r).missed && (c.repl part r).turn = c.turn)); let f : FaultSpec := { code := if c.pMode part = 1 then 0x2105 else 0x3106 }; (b.dev ≠ .off) ∧ (part < 64) ∧ (b.markSlot part ≠ none)) := by decide +kernel

theorem witness_EntryAndSeal_7 :
    (let sail := 0; let core := 0; let value := 1; let p := 0; let r := 0; let i := 0; let b : Block := (Block.alone ({ hartPinned .u with parts := [(0, { repls := [(0, { sail := some 0 })] })] })).start; let h : Nat := sail * 32 + core; (b.dev ≠ .off) ∧ (core < 16) ∧ (b.executing h = true) ∧ ((b.hart h).pin = some (p, r, i)) ∧ (b.partLive p = true) ∧ ((value % 2 = 1 ∧ b.partRuns p = true ∧ b.inService p r = true ∧ (b.repl p r).sealedIn b.turn = false ∧ ((b.repl p r).missed = false ∨ (b.repl p r).turn ≠ b.turn)))) := by decide +kernel

theorem witness_EntryAndSeal_8 :
    (let sail := 0; let core := 0; let value := 0; let p := 0; let r := 0; let i := 0; let b : Block := (Block.alone ({ hartPinned .u with parts := [(0, { repls := [(0, { sail := some 0 })] })] })).start; let h : Nat := sail * 32 + core; (b.dev ≠ .off) ∧ (core < 16) ∧ (b.executing h = true) ∧ ((b.hart h).pin = some (p, r, i)) ∧ (b.partLive p = true) ∧ (¬ (value % 2 = 1 ∧ b.partRuns p = true ∧ b.inService p r = true ∧ (b.repl p r).sealedIn b.turn = false ∧ ((b.repl p r).missed = false ∨ (b.repl p r).turn ≠ b.turn)))) := by decide +kernel

theorem witness_EntryAndSeal_9 :
    (let part : Nat := 0; let b : Block := (Block.alone (base)).start; ((64 ≤ part ∨ b.markSlot part = none)))
    ∧ (let core : Nat := 0; let sail : Nat := 0; let b : Block := (Block.alone (base)).start; let h : Nat := sail * 32 + core; ((16 ≤ core ∨ b.executing h = false)))
    ∧ (let sail := 0; let core := 0; let value := 1; let b : Block := (Block.alone (hart0)).start; let h : Nat := sail * 32 + core; (b.dev ≠ .off) ∧ (core < 16) ∧ (b.executing h = true) ∧ ((b.hart h).pin = none))
    ∧ (let sail := 0; let core := 0; let value := 1; let p := 0; let r := 0; let i := 0; let b : Block := (Block.alone ((hartPinned .s).put BLT_PSTAT_STATE 0 0)).start; let h : Nat := sail * 32 + core; (b.dev ≠ .off) ∧ (core < 16) ∧ (b.executing h = true) ∧ ((b.hart h).pin = some (p, r, i)) ∧ (b.partLive p = false))
    ∧ (let part : Nat := 0; let b : Block := (Block.alone (base)).start; (b.dev ≠ .off) ∧ (part < 64))
    ∧ (let part := 64; let b : Block := (Block.alone (base)).start; (b.dev ≠ .off) ∧ (64 ≤ part)) := by decide +kernel

theorem witness_BolterRows :
    (let part := 0; let repl := 0; let refused := true; let x := (0, 0, 0, 0); let b : Block := (Block.alone ((({ base with parts := [(0, { repls := [(0, { seals := [1] })] })], blt := { engs := [(0, 0, 0, 0)] } } : Block).put BLT_PSTAT_MODE 2 0))).start; let g : Block := b; (b.dev ≠ .off) ∧ (b.blt.engs.find? (fun x => x.2.1 = part && x.2.2.1 = repl) = some x) ∧ (¬ (b.digestDue part repl = true ∧ (b.repl part repl).seals.getLast? = some x.2.2.2))) := by decide +kernel

theorem witness_BolterRows_2 :
    (let part := 0; let repl := 0; let refused := true; let x := (0, 0, 0, 0); let b : Block := (Block.alone ((({ base with parts := [(0, { repls := [(0, { seals := [0] })] })], blt := { engs := [(0, 0, 0, 0)] } } : Block).put BLT_PSTAT_MODE 2 0))).start; let v : (Bytes × Bool) := (b.digestInput part repl x.2.2.2).1; let c : Block := (b.digestInput part repl x.2.2.2).2; let d : Digest := { turn := x.2.2.2, poisoned := v.2 || refused, bytes := shake128 32 v.1 }; let e : Block := c.modRepl part repl (fun t => { t with digs := t.digs.filter (fun e => e.turn + 1 = x.2.2.2) ++ [d] }); let g : Block := e.when (e.xpkg part) (fun b => b.emit (.peerRecord (b.recordOf part (!d.poisoned) d))); (b.dev ≠ .off) ∧ (b.blt.engs.find? (fun x => x.2.1 = part && x.2.2.1 = repl) = some x) ∧ (b.digestDue part repl = true ∧ (b.repl part repl).seals.getLast? = some x.2.2.2)) := by decide +kernel

theorem witness_BolterRows_3 :
    (let record : List Nat := (List.replicate 9 0 ++ [1] ++ List.replicate 38 0); let b : Block := (Block.alone ((base.put BLT_PSTAT_XPKG 1 0).put BLT_PSTAT_MODE 2 0)).start; let v : Bytes := record.map (BitVec.ofNat 8); let p : Nat := leAt 8 1 v; let f : Nat := leAt 10 1 v; (b.dev ≠ .off) ∧ ((v.length = 48 ∧ p < 64 ∧ b.xpkg p = true ∧ leAt 9 1 v ≠ b.otp.pkg))) := by decide +kernel

theorem witness_BolterRows_4 :
    (let part := 0; let b : Block := (Block.alone ((({ running0 with parts := [(0, { repls := [(0, { seals := [0] })] })] } : Block).put TRN_NUM_NUM 1))).start; let u : Nat := b.turn - 1; let c : Block := b.advanceTo (b.get TRN_RELOFF_RELOFF part * 100); let mode : Nat := c.pMode part; let late : List Nat := if mode = 1 then [] else (c.localRepls part).filter (fun r => (c.repl part r).sealedIn u && !(c.repl part r).digs.any (fun d => d.turn = u)); let d : Block := c.forL late (fun _ b => b.note { code := 0x270D }); let peerOk : Bool := (match (d.part part).peer with | some x => decide (x.turn = u) | none => false); let e : Block := d.when (d.xpkg part && !peerOk) (fun b => (b.raise { code := 0x370E }).put BLT_STATUS_PEERUP 0); let l : List (Nat × Bytes) := e.validDigests part u; let v : Verdict := e.localVerdict part (verdict mode (e.pFlag part flagSurvivor) ((e.repl part 0).sealedIn u) l); (b.dev ≠ .off) ∧ (part < 64) ∧ (¬ (b.partDefined part = true ∧ b.get BLT_PSTAT_STATE part = pHalted)) ∧ (b.outputsOn = true) ∧ (b.partRuns part = true) ∧ (b.turn ≠ 0) ∧ ((b.part part).decided ≠ some (b.turn - 1))) := by decide +kernel

theorem witness_BolterRows_5 :
    (let repl : Nat := 0; let part : Nat := 0; let b : Block := (Block.alone (base)).start; (b.blt.engs.find? (fun x => x.2.1 = part && x.2.2.1 = repl) = none))
    ∧ (let record : List Nat := []; let b : Block := (Block.alone (base)).start; let v : Bytes := record.map (BitVec.ofNat 8); let p : Nat := leAt 8 1 v; let f : Nat := leAt 10 1 v; (¬ (v.length = 48 ∧ p < 64 ∧ b.xpkg p = true ∧ leAt 9 1 v ≠ b.otp.pkg)))
    ∧ (let part := 64; let b : Block := (Block.alone (base)).start; (64 ≤ part))
    ∧ (let part := 0; let b : Block := (Block.alone (base.put BLT_PSTAT_MODE 1 0 |>.put BLT_PSTAT_STATE 5 0)).start; (b.dev ≠ .off) ∧ (part < 64) ∧ ((b.partDefined part = true ∧ b.get BLT_PSTAT_STATE part = pHalted)))
    ∧ (let part : Nat := 0; let b : Block := (Block.alone (base)).start; (¬ (b.partDefined part = true ∧ b.get BLT_PSTAT_STATE part = pHalted)) ∧ ((b.outputsOn = false ∨ b.partRuns part = false ∨ b.turn = 0 ∨ (b.part part).decided = some (b.turn - 1))))
    ∧ (let part : Nat := 0; let b : Block := (Block.alone (base)).start; (((b.part part).release = none ∨ b.relFirst ≠ some part))) := by decide +kernel

theorem witness_BolterRows_6 :
    (let part := 0; let src := 0; let u := 1; let b : Block := (Block.alone ({ base with parts := [(0, { release := some (0, 1) })] })).start; let c : Block := (b.modPart part (fun t => { t with release := none })); let d : Block := c.put BLT_STATUS_RELBUSY (ofBool (c.parts.any fun e => e.2.release.isSome)); let k : Nat := 1 - (d.part part).holdCur; (b.dev ≠ .off) ∧ ((b.part part).release = some (src, u)) ∧ (b.relFirst = some part) ∧ (d.partRuns part = false)) := by decide +kernel

theorem witness_BolterRows_7 :
    (let part := 0; let src := 0; let u := 1; let b : Block := (Block.alone ({ running0 with parts := [(0, { release := some (0, 1) })] })).start; let c : Block := (b.modPart part (fun t => { t with release := none })); let d : Block := c.put BLT_STATUS_RELBUSY (ofBool (c.parts.any fun e => e.2.release.isSome)); let k : Nat := 1 - (d.part part).holdCur; (b.dev ≠ .off) ∧ ((b.part part).release = some (src, u)) ∧ (b.relFirst = some part) ∧ (d.partRuns part = true)) := by decide +kernel

theorem witness_BolterRows_8 :
    (let repl : Nat := 0; let part : Nat := 0; let b : Block := (Block.alone (base)).start; (¬ ((b.repl part repl).catchSt = 1 ∧ (b.repl part repl).active = false)))
    ∧ (let part := 0; let repl := 0; let b : Block := (Block.alone (({ catching with parts := [(0, { repls := [(0, { behind := some .decision, behindTurn := 7, catchSt := 1, src := none })] })] } : Block))).start; (b.dev ≠ .off) ∧ (((b.repl part repl).catchSt = 1 ∧ (b.repl part repl).active = false)) ∧ (b.catchVoid part repl = true))
    ∧ (let part := 0; let repl := 0; let b : Block := (Block.alone (({ catching with parts := [(0, { repls := [(0, { behind := some .decision, catchSt := 1, src := some 1 }), (1, { seals := [0], catchSt := 2 })] })] } : Block))).start; (b.catchVoid part repl = false) ∧ ((b.copyRuns = true ∨ b.copyFirst ≠ some (part, repl))))
    ∧ (let part := 0; let repl := 0; let b : Block := (Block.alone (catching)).start; (b.dev ≠ .off) ∧ (((b.repl part repl).catchSt = 1 ∧ (b.repl part repl).active = false)) ∧ (b.catchVoid part repl = false) ∧ (b.copyRuns = false) ∧ (b.copyFirst = some (part, repl)))
    ∧ (let part := 0; let repl := 1; let q := 0; let b : Block := (Block.alone ({ base with parts := [(0, { repls := [(1, { catchSt := 2, src := some 0 })] })] })).start; (b.dev ≠ .off) ∧ ((b.repl part repl).catchSt = 2) ∧ ((b.repl part repl).src = some q))
    ∧ (let repl : Nat := 0; let part : Nat := 0; let b : Block := (Block.alone (base)).start; (((b.repl part repl).catchSt ≠ 2 ∨ (b.repl part repl).src = none))) := by decide +kernel

theorem witness_BolterRows_9 :
    (let part := 0; let q : Repair := { repl := 0, group := 0, restore := 0 }; let b : Block := (Block.alone ({ base with parts := [(0, { repair := some { repl := 0, group := 0, restore := 0 } })] })).start; (b.dev ≠ .off) ∧ ((b.part part).repair = some q) ∧ ((q.restore = 0 ∧ q.copied = false ∧ b.copyRuns = false ∧ b.copyFirst = none ∧ b.ms.heldRegions = []))) := by decide +kernel

theorem witness_BolterRows_10 :
    (let part := 0; let q : Repair := { repl := 0, group := 0, restore := 2 }; let b : Block := (Block.alone ({ base with parts := [(0, { repair := some { repl := 0, group := 0, restore := 2 } })] })).start; ((b.part part).repair = some q) ∧ (¬ (q.restore = 0 ∧ q.copied = false ∧ b.copyRuns = false ∧ b.copyFirst = none ∧ b.ms.heldRegions = []))) := by decide +kernel

theorem witness_BolterRows_11 :
    (let part : Nat := 0; let b : Block := (Block.alone (base)).start; ((b.part part).repair = none))
    ∧ (let part : Nat := 0; let b : Block := (Block.alone (base)).start; ((b.part part).repair = none))
    ∧ (let part : Nat := 0; let b : Block := (Block.alone (base)).start; ((b.part part).repair = none))
    ∧ (let part := 0; let q : Repair := { repl := 0, group := 0, restore := 1 }; let b : Block := (Block.alone ({ base with parts := [(0, { repair := some { repl := 0, group := 0, restore := 1 } })] })).start; (b.dev ≠ .off) ∧ ((b.part part).repair = some q) ∧ ((q.restore = 1 ∧ b.copyRuns = false ∧ b.copyFirst = some (part, 0))))
    ∧ (let part := 0; let q : Repair := { repl := 0, group := 0, restore := 2 }; let b : Block := (Block.alone ({ base with parts := [(0, { repair := some { repl := 0, group := 0, restore := 2 } })] })).start; ((b.part part).repair = some q) ∧ (¬ (q.restore = 1 ∧ b.copyRuns = false ∧ b.copyFirst = some (part, 0))))
    ∧ (let part := 0; let q : Repair := { repl := 0, group := 0, restore := 2 }; let b : Block := (Block.alone ({ base with parts := [(0, { repair := some { repl := 0, group := 0, restore := 2 } })] })).start; let k : Nat := (b.part part).sealTurn % 2; (b.dev ≠ .off) ∧ ((b.part part).repair = some q) ∧ (q.restore = 2)) := by decide +kernel

theorem witness_BolterRows_12 :
    (let part := 0; let q : Repair := { repl := 0, group := 0, restore := 1 }; let b : Block := (Block.alone ({ base with parts := [(0, { repair := some { repl := 0, group := 0, restore := 1 } })] })).start; ((b.part part).repair = some q) ∧ (q.restore ≠ 2)) := by decide +kernel

theorem witness_CacheErrors :
    (let sail : Nat := 0; let place := CachePlace.l3; let b : Block := (Block.alone (base)).start; (b.active? sail = false))
    ∧ (let sail := 0; let core := 0; let place := CachePlace.l3; let slice := 7; let way := 15; let addr := 0; let b : Block := (Block.alone (sail0)).start; let c : Block := ((b.put SAIL_ERRSTAT_CE 1 sail).pmu sail 0x0A none 1).noteOnce sail { code := 0x1201 }; (b.dev ≠ .off) ∧ (b.active? sail = true) ∧ (place = .l3))
    ∧ (let sail := 0; let core := 0; let place := CachePlace.l1i; let addr := 0; let b : Block := (Block.alone (hart0)).start; let c : Block := ((b.put SAIL_ERRSTAT_CE 1 sail).pmu sail 0x0A none 1).noteOnce sail { code := 0x1201 }; (b.dev ≠ .off) ∧ (b.active? sail = true) ∧ (place = .l1i) ∧ (core < 16))
    ∧ (let sail := 0; let core := 0; let place := CachePlace.l2; let b : Block := (Block.alone (sail0)).start; let c : Block := ((b.put SAIL_ERRSTAT_CE 1 sail).pmu sail 0x0A none 1).noteOnce sail { code := 0x1201 }; (b.dev ≠ .off) ∧ (b.active? sail = true) ∧ (place ≠ .l3) ∧ ((place ≠ .l1i ∨ 16 ≤ core)))
    ∧ (let core : Nat := 0; let sail : Nat := 0; let place := CachePlace.l3; let b : Block := (Block.alone (base)).start; ((b.active? sail = false ∨ (16 ≤ core ∧ place ≠ .l3))))
    ∧ (let sail := 0; let core := 0; let place := CachePlace.l3; let tag := true; let slice := 0; let way := 0; let addr := 0; let b : Block := (Block.alone (sail0)).start; (b.dev ≠ .off) ∧ (b.active? sail = true) ∧ (place = .l3) ∧ (tag = true)) := by decide +kernel

theorem witness_CacheErrors_2 :
    (let sail := 0; let core := 0; let place := CachePlace.l1i; let tag := true; let slice := 0; let way := 0; let addr := 0; let b : Block := (Block.alone (hart0)).start; let h : Nat := sail * 32 + core; let line : Nat := addr / 64; (b.dev ≠ .off) ∧ (b.active? sail = true) ∧ (core < 16) ∧ ((place = .l1i ∨ place = .l1d ∨ place = .l2)) ∧ (tag = true)) := by decide +kernel

theorem witness_CacheErrors_3 :
    (let sail := 0; let core := 0; let place := CachePlace.l1d; let tag := false; let slice := 0; let way := 0; let addr := 1024; let b : Block := (Block.alone ((({ hart0 with harts := [(0, { run := true, l1d := [{ line := 16 }] })] } : Block).setL3 0 16 { st := .m }))).start; let h : Nat := sail * 32 + core; let line : Nat := addr / 64; (b.dev ≠ .off) ∧ (b.active? sail = true) ∧ (core < 16) ∧ (place = .l1d) ∧ (tag = false) ∧ ((b.hart h).holds .l1d line = true)) := by decide +kernel

theorem witness_CacheErrors_4 :
    (let sail := 0; let core := 0; let place := CachePlace.l2; let tag := false; let slice := 0; let way := 0; let addr := 1024; let b : Block := (Block.alone ((({ hart0 with harts := [(0, { run := true, l2 := [{ line := 16 }] })] } : Block).setL3 0 16 { st := .m }))).start; let h : Nat := sail * 32 + core; let line : Nat := addr / 64; (b.dev ≠ .off) ∧ (b.active? sail = true) ∧ (core < 16) ∧ (place = .l2) ∧ (tag = false) ∧ ((b.hart h).holds .l2 line = true)) := by decide +kernel

theorem witness_CacheErrors_5 :
    (let sail := 0; let core := 0; let place := CachePlace.l3; let tag := false; let slice := 0; let way := 0; let addr := 0; let b : Block := (Block.alone ((sail0.setL3 0 0 { st := .m }))).start; let h : Nat := sail * 32 + core; let line : Nat := addr / 64; (b.dev ≠ .off) ∧ (b.active? sail = true) ∧ (place = .l3) ∧ (tag = false))
    ∧ (let sail := 0; let core := 0; let place := CachePlace.tlb; let tag := false; let slice := 0; let way := 0; let addr := 0; let b : Block := (Block.alone (hart0)).start; let h : Nat := sail * 32 + core; let line : Nat := addr / 64; (b.dev ≠ .off) ∧ (b.active? sail = true) ∧ (core < 16) ∧ (place = .tlb))
    ∧ (let sail := 0; let core := 0; let place := CachePlace.l1i; let tag := false; let slice := 0; let way := 0; let addr := 0; let b : Block := (Block.alone (hart0)).start; let h : Nat := sail * 32 + core; let line : Nat := addr / 64; (b.dev ≠ .off) ∧ (b.active? sail = true) ∧ (core < 16) ∧ (place = .l1i) ∧ (tag = false))
    ∧ (let sail := 0; let core := 0; let place := CachePlace.l1d; let tag := false; let slice := 0; let way := 0; let addr := 0; let b : Block := (Block.alone (hart0)).start; let h : Nat := sail * 32 + core; let line : Nat := addr / 64; (place = .l1d) ∧ (tag = false) ∧ ((b.hart h).holds .l1d line = false))
    ∧ (let sail := 0; let core := 0; let place := CachePlace.l2; let tag := false; let slice := 0; let way := 0; let addr := 0; let b : Block := (Block.alone (hart0)).start; let h : Nat := sail * 32 + core; let line : Nat := addr / 64; (place = .l2) ∧ (tag = false) ∧ ((b.hart h).holds .l2 line = false))
    ∧ (let sail := 0; let b : Block := (Block.alone ({ sail0 with sails := [(0, { decay := 65535 })] })).start; (b.dev ≠ .off) ∧ (b.active? sail = true) ∧ (b.get L3_ERRCFG_DECAY sail ≤ (b.sail sail).decay)) := by decide +kernel

theorem witness_CacheErrors_6 :
    (let sail : Nat := 0; let b : Block := (Block.alone (base)).start; ((b.active? sail = false ∨ (b.sail sail).decay < b.get L3_ERRCFG_DECAY sail)))
    ∧ (let sail := 0; let core := 0; let lost : List Nat := [5]; let b : Block := (Block.alone (hart0)).start; let h : Nat := sail * 32 + core; (b.dev ≠ .off) ∧ (b.active? sail = true) ∧ (core < 16) ∧ (bit (b.get SAIL_COREDIS_DIS (h / 32)) (h % 32) = false))
    ∧ (let sail := 0; let core := 0; let lost : List Nat := []; let b : Block := (Block.alone (sail0.put SAIL_COREDIS_DIS 1 0)).start; let h : Nat := sail * 32 + core; ((b.active? sail = false ∨ 16 ≤ core ∨ bit (b.get SAIL_COREDIS_DIS (h / 32)) (h % 32) = true))) := by decide +kernel

theorem witness_MaskAndMaintenance :
    (let mid := 0; let sail := 0; let which := MaskReg.wayLock; let index := 0; let value := 0; let b : Block := (Block.alone (base)).start; (b.dev ≠ .off) ∧ (b.sailServes mid sail = false))
    ∧ (let mid := 0; let sail := 0; let which := MaskReg.wayLock; let index := 0; let value := 0; let b : Block := (Block.alone (sail0)).start; (b.dev ≠ .off) ∧ (b.sailServes mid sail = true) ∧ (mid ≠ midGov))
    ∧ (let mid := midGov; let sail := 0; let which := MaskReg.wayLock; let index := 0; let value := 1; let b : Block := (Block.alone (sail0)).start; (b.dev ≠ .off) ∧ (b.sailServes mid sail = true) ∧ (mid = midGov) ∧ ((b.maskPut sail which index value).maskStarved sail = false))
    ∧ (let mid := midGov; let sail := 0; let which := MaskReg.wayLock; let index := 0; let value := 0xFFFF; let b : Block := (Block.alone (sail0)).start; (b.dev ≠ .off) ∧ (b.sailServes mid sail = true) ∧ (mid = midGov) ∧ ((b.maskPut sail which index value).maskStarved sail = true))
    ∧ (let sail := 0; let mid := 0; let ctl := 0; let b : Block := (Block.alone (base)).start; (b.dev ≠ .off) ∧ (b.sailServes mid sail = false))
    ∧ (let sail := 0; let mid := midGov; let ctl := 0; let b : Block := (Block.alone (base)).start; (b.dev ≠ .off) ∧ (b.sailServes mid sail = true) ∧ (b.active? sail = false)) := by decide +kernel

theorem witness_MaskAndMaintenance_2 :
    (let sail := 0; let mid := 0; let ctl := 0; let e := 1; let b : Block := (Block.alone (sail0.put L3_MNT_BASE_ADDR 5 0)).start; let c : Block := b.mntSet sail mid (setBits ctl 0 1 0); (b.dev ≠ .off) ∧ (b.sailServes mid sail = true) ∧ (b.active? sail = true) ∧ (b.isSet L3_MNT_STATUS_BUSY sail = false) ∧ (c.mntRefusal sail = some e)) := by decide +kernel

theorem witness_MaskAndMaintenance_3 :
    (let sail := 0; let mid := 0; let ctl := 0; let e := 1; let b : Block := (Block.alone (sail0.put L3_MNT_BASE_ADDR 5 0)).start; let c : Block := b.mntSet sail mid (setBits ctl 0 1 1); (b.dev ≠ .off) ∧ (b.sailServes mid sail = true) ∧ (b.active? sail = true) ∧ (b.isSet L3_MNT_STATUS_BUSY sail = false) ∧ (c.mntRefusal sail = some e)) := by decide +kernel

theorem witness_MaskAndMaintenance_4 :
    (let sail := 0; let mid := 0; let ctl := 0; let b : Block := (Block.alone (sail0.put L3_MNT_STATUS_BUSY 1 0)).start; (b.dev ≠ .off) ∧ (b.sailServes mid sail = true) ∧ (b.active? sail = true) ∧ (b.isSet L3_MNT_STATUS_BUSY sail = true))
    ∧ (let sail := 0; let mid := 0; let ctl := 0; let b : Block := (Block.alone (dramSail)).start; let c : Block := b.mntSet sail mid (setBits ctl 0 1 0); (b.dev ≠ .off) ∧ (b.sailServes mid sail = true) ∧ (b.active? sail = true) ∧ (b.isSet L3_MNT_STATUS_BUSY sail = false) ∧ (c.mntRefusal sail = none))
    ∧ (let sail := 0; let mid := 0; let ctl := 0; let b : Block := (Block.alone (base)).start; (b.dev ≠ .off) ∧ (b.sailServes mid sail = false))
    ∧ (let sail := 0; let mid := midGov; let ctl := 0; let b : Block := (Block.alone (base)).start; (b.dev ≠ .off) ∧ (b.sailServes mid sail = true) ∧ (b.active? sail = false))
    ∧ (let sail := 0; let mid := 0; let ctl := 0; let b : Block := (Block.alone (sail0.put L3_MNT_STATUS_BUSY 1 0)).start; (b.dev ≠ .off) ∧ (b.sailServes mid sail = true) ∧ (b.active? sail = true) ∧ (b.isSet L3_MNT_STATUS_BUSY sail = true))
    ∧ (let sail := 0; let mid := 0; let ctl := 0; let b : Block := (Block.alone (dramSail)).start; let c : Block := b.mntSet sail mid (setBits ctl 0 1 1); (b.dev ≠ .off) ∧ (b.sailServes mid sail = true) ∧ (b.active? sail = true) ∧ (b.isSet L3_MNT_STATUS_BUSY sail = false) ∧ (c.mntRefusal sail = none)) := by decide +kernel

theorem witness_MaskAndMaintenance_5 :
    (let sail := 0; let mid := 0; let ctl := 0; let e := 1; let b : Block := (Block.alone (sail0.put L3_MNT_BASE_ADDR 5 0)).start; let c : Block := b.mntSet sail mid (setBits ctl 0 1 2); (b.dev ≠ .off) ∧ (b.sailServes mid sail = true) ∧ (b.active? sail = true) ∧ (b.isSet L3_MNT_STATUS_BUSY sail = false) ∧ (c.mntRefusal sail = some e)) := by decide +kernel

theorem witness_MaskAndMaintenance_6 :
    (let sail := 0; let mid := 0; let ctl := 0; let b : Block := (Block.alone (dramSail.put L3_WAYLOCK_LOCK 1 0 |>.put L3_LOCKOWN_OWNER 1 0 0)).start; let c : Block := b.mntSet sail mid (setBits ctl 0 1 2); (b.dev ≠ .off) ∧ (b.sailServes mid sail = true) ∧ (b.active? sail = true) ∧ (b.isSet L3_MNT_STATUS_BUSY sail = false) ∧ (c.mntRefusal sail = none)) := by decide +kernel

theorem witness_MaskAndMaintenance_7 :
    (let sail := 0; let mid := 0; let ctl := 0; let b : Block := (Block.alone (base)).start; (b.dev ≠ .off) ∧ (b.sailServes mid sail = false))
    ∧ (let sail := 0; let mid := midGov; let ctl := 0; let b : Block := (Block.alone (base)).start; (b.dev ≠ .off) ∧ (b.sailServes mid sail = true) ∧ (b.active? sail = false))
    ∧ (let sail := 0; let mid := 0; let ctl := 0; let b : Block := (Block.alone (sail0.put L3_MNT_STATUS_BUSY 1 0)).start; (b.dev ≠ .off) ∧ (b.sailServes mid sail = true) ∧ (b.active? sail = true) ∧ (b.isSet L3_MNT_STATUS_BUSY sail = true))
    ∧ (let sail := 0; let mid := 0; let ctl := 0; let b : Block := (Block.alone (base)).start; (b.dev ≠ .off) ∧ (b.sailServes mid sail = false))
    ∧ (let sail := 0; let mid := midGov; let ctl := 0; let b : Block := (Block.alone (base)).start; (b.dev ≠ .off) ∧ (b.sailServes mid sail = true) ∧ (b.active? sail = false))
    ∧ (let sail := 0; let mid := 0; let ctl := 0; let b : Block := (Block.alone (sail0.put L3_MNT_STATUS_BUSY 1 0)).start; (b.dev ≠ .off) ∧ (b.sailServes mid sail = true) ∧ (b.active? sail = true) ∧ (b.isSet L3_MNT_STATUS_BUSY sail = true)) := by decide +kernel

theorem witness_MaskAndMaintenance_8 :
    (let sail := 0; let b : Block := (Block.alone (({ sail0 with coh := { reqs := [{ mid := midL3 0, part := 0, txid := 0, kind := .rdShared, line := 9, mnt := true }] } } : Block).put L3_MNT_STATUS_BUSY 1 0)).start; let c : Block := b.l3On sail; let d : Block := ((c.modSail sail (fun t => { t with mntFail := false })).put L3_MNT_STATUS_BUSY 0 sail).put L3_MNT_STATUS_DONE 1 sail; (b.dev ≠ .off) ∧ (b.active? sail = true) ∧ (b.isSet L3_MNT_STATUS_BUSY sail = true) ∧ (c.mntDone sail = false)) := by decide +kernel

theorem witness_MaskAndMaintenance_9 :
    (let sail := 0; let b : Block := (Block.alone (sail0.put L3_MNT_STATUS_BUSY 1 0)).start; let c : Block := b.l3On sail; let d : Block := ((c.modSail sail (fun t => { t with mntFail := false })).put L3_MNT_STATUS_BUSY 0 sail).put L3_MNT_STATUS_DONE 1 sail; (b.dev ≠ .off) ∧ (b.active? sail = true) ∧ (b.isSet L3_MNT_STATUS_BUSY sail = true) ∧ (c.mntDone sail = true) ∧ ((c.sail sail).mntFail = false)) := by decide +kernel

theorem witness_MaskAndMaintenance_10 :
    (let sail := 0; let b : Block := (Block.alone (({ sail0 with sails := [(0, { mntFail := true })] } : Block).put L3_MNT_STATUS_BUSY 1 0)).start; let c : Block := b.l3On sail; let d : Block := ((c.modSail sail (fun t => { t with mntFail := false })).put L3_MNT_STATUS_BUSY 0 sail).put L3_MNT_STATUS_DONE 1 sail; (b.dev ≠ .off) ∧ (b.active? sail = true) ∧ (b.isSet L3_MNT_STATUS_BUSY sail = true) ∧ (c.mntDone sail = true) ∧ ((c.sail sail).mntFail = true)) := by decide +kernel

theorem witness_MaskAndMaintenance_11 :
    (let sail := 0; let mid := 0; let ctl := 0; let e := 3; let b : Block := (Block.alone (dramSail)).start; let c : Block := b.mntSet sail mid (setBits ctl 0 1 3); (b.dev ≠ .off) ∧ (b.sailServes mid sail = true) ∧ (b.active? sail = true) ∧ (b.isSet L3_MNT_STATUS_BUSY sail = false) ∧ (c.mntRefusal sail = some e))
    ∧ (let sail : Nat := 0; let b : Block := (Block.alone (base)).start; ((b.active? sail = false ∨ b.isSet L3_MNT_STATUS_BUSY sail = false))) := by decide +kernel

theorem witness_SailStates :
    (let sail := 0; let rev := 1; let level := 1; let maxGt := 0; let b : Block := (Block.alone (base.put GOV_SAILSTAT_STATE 1 0)).start; let c : Block := b.put GOV_SAILSTAT_REV rev sail |>.put GOV_SAILSTAT_CAPLVL level sail |>.put FLM_CAPWORD_REV rev sail |>.put FLM_CAPWORD_CAPLVL level sail |>.put FLM_CAPWORD_MAXGT maxGt sail; (b.dev ≠ .off) ∧ (sail < 12) ∧ ((b.sailSt sail = 1 ∨ b.sailSt sail = 5)) ∧ (¬ (c.sailSt sail = 1 ∧ level % 256 < c.get GOV_CAP_HUBMIN))) := by decide +kernel

theorem witness_SailStates_2 :
    (let sail := 0; let rev := 1; let level := 0; let maxGt := 0; let b : Block := (Block.alone (base.put GOV_SAILSTAT_STATE 1 0)).start; let c : Block := b.put GOV_SAILSTAT_REV rev sail |>.put GOV_SAILSTAT_CAPLVL level sail |>.put FLM_CAPWORD_REV rev sail |>.put FLM_CAPWORD_CAPLVL level sail |>.put FLM_CAPWORD_MAXGT maxGt sail; (b.dev ≠ .off) ∧ (sail < 12) ∧ ((b.sailSt sail = 1 ∨ b.sailSt sail = 5)) ∧ ((c.sailSt sail = 1 ∧ level % 256 < c.get GOV_CAP_HUBMIN))) := by decide +kernel

theorem witness_SailStates_3 :
    (let delay : Nat := 0; let sail := 11; let up0 := true; let up1 := true; let b : Block := (Block.alone (base.put GOV_SAILSTAT_STATE 1 11 |>.put GOV_SAILSTAT_CAPLVL 15 11)).start; let c : Block := ((b.setR .FLM_STATUS 0 sail).put FLM_STATUS_UP0 (ofBool up0) sail).put FLM_STATUS_UP1 (ofBool up1) sail |>.put FLM_STATUS_BDELAY (min delay 60) sail |>.setR .FLM_LINK 0 sail 0 |>.setR .FLM_LINK 0 sail 1; let d : Block := { c with mesh := { c.mesh with links := c.mesh.links.filter (fun e => e.1 / 4 ≠ sail) } }; let e : Block := if d.sailSt sail = 1 then d.put GOV_SAILSTAT_STATE 2 sail else d.put FLM_STATUS_LEVEL (d.get GOV_CAP_EFFECTIVE) sail; (b.dev ≠ .off) ∧ ((sail < 12 ∧ (b.sailSt sail = 1 ∨ b.sailSt sail = 5) ∧ (up0 || up1) = true ∧ b.get GOV_CAP_HUBMIN ≤ b.get GOV_SAILSTAT_CAPLVL sail)) ∧ ((up0 && up1) = true)) := by decide +kernel

theorem witness_SailStates_4 :
    (let delay : Nat := 0; let sail := 11; let up0 := true; let up1 := false; let b : Block := (Block.alone (base.put GOV_SAILSTAT_STATE 5 11 |>.put GOV_SAILSTAT_CAPLVL 15 11)).start; let c : Block := ((b.setR .FLM_STATUS 0 sail).put FLM_STATUS_UP0 (ofBool up0) sail).put FLM_STATUS_UP1 (ofBool up1) sail |>.put FLM_STATUS_BDELAY (min delay 60) sail |>.setR .FLM_LINK 0 sail 0 |>.setR .FLM_LINK 0 sail 1; let d : Block := { c with mesh := { c.mesh with links := c.mesh.links.filter (fun e => e.1 / 4 ≠ sail) } }; let e : Block := if d.sailSt sail = 1 then d.put GOV_SAILSTAT_STATE 2 sail else d.put FLM_STATUS_LEVEL (d.get GOV_CAP_EFFECTIVE) sail; (b.dev ≠ .off) ∧ ((sail < 12 ∧ (b.sailSt sail = 1 ∨ b.sailSt sail = 5) ∧ (up0 || up1) = true ∧ b.get GOV_CAP_HUBMIN ≤ b.get GOV_SAILSTAT_CAPLVL sail)) ∧ ((up0 && up1) = false)) := by decide +kernel

theorem witness_SailStates_5 :
    (let sail : Nat := 0; let b : Block := (Block.alone (sail0)).start; ((12 ≤ sail ∨ (b.sailSt sail ≠ 1 ∧ b.sailSt sail ≠ 5))))
    ∧ (let up1 : Bool := false; let up0 : Bool := false; let sail : Nat := 0; let b : Block := (Block.alone (base)).start; (¬ (sail < 12 ∧ (b.sailSt sail = 1 ∨ b.sailSt sail = 5) ∧ (up0 || up1) = true ∧ b.get GOV_CAP_HUBMIN ≤ b.get GOV_SAILSTAT_CAPLVL sail)))
    ∧ (let sail := 0; let b : Block := (Block.alone (base.put GOV_SAILSTAT_STATE 1 0)).start; (b.dev ≠ .off) ∧ (sail < 12) ∧ (b.sailSt sail = 1))
    ∧ (let sail : Nat := 0; let b : Block := (Block.alone (base)).start; ((12 ≤ sail ∨ b.sailSt sail ≠ 1)))
    ∧ (let sail := 0; let pass := true; let bad : List (Nat × Nat) := []; let b : Block := (Block.alone (base.put GOV_SAILSTAT_STATE 2 0)).start; let ok : Bool := (b.testWays sail bad).1; let c : Block := (b.testWays sail bad).2; (b.dev ≠ .off) ∧ (sail < 12) ∧ (b.sailSt sail = 2) ∧ ((pass && ok) = true))
    ∧ (let sail := 0; let pass := false; let bad : List (Nat × Nat) := []; let b : Block := (Block.alone (base.put GOV_SAILSTAT_STATE 2 0)).start; let ok : Bool := (b.testWays sail bad).1; let c : Block := (b.testWays sail bad).2; (b.dev ≠ .off) ∧ (sail < 12) ∧ (b.sailSt sail = 2) ∧ ((pass && ok) = false)) := by decide +kernel

theorem witness_SailStates_6 :
    (let sail := 0; let pass := true; let bad : List (Nat × Nat) := []; let b : Block := (Block.alone (base.put GOV_SAILSTAT_STATE 5 0)).start; let ok : Bool := (b.testWays sail bad).1; let c : Block := (b.testWays sail bad).2; (b.dev ≠ .off) ∧ (sail < 12) ∧ (b.sailSt sail = 5))
    ∧ (let sail := 0; let pass := true; let bad : List (Nat × Nat) := []; let b : Block := (Block.alone (base)).start; ((12 ≤ sail ∨ (b.sailSt sail ≠ 2 ∧ b.sailSt sail ≠ 5))))
    ∧ (let sail := 0; let b : Block := (Block.alone (({ base with dev := .run } : Block).put GOV_SAILSTAT_STATE 4 0)).start; (b.dev ≠ .off) ∧ (b.readmitOk sail = true))
    ∧ (let sail : Nat := 0; let b : Block := (Block.alone (base)).start; (b.dev ≠ .off) ∧ (b.readmitOk sail = false))
    ∧ (let sail := 0; let b : Block := (Block.alone (readmitting)).start; (b.dev ≠ .off) ∧ ((b.readmitOk sail = true ∧ bit (b.actN 0x1131 1) sail = true ∧ b.get GOV_SAILSTAT_LOSTCNT sail < b.actN 0x1131 2)))
    ∧ (let sail : Nat := 0; let b : Block := (Block.alone (base)).start; (¬ (b.readmitOk sail = true ∧ bit (b.actN 0x1131 1) sail = true ∧ b.get GOV_SAILSTAT_LOSTCNT sail < b.actN 0x1131 2))) := by decide +kernel

theorem witness_SailStates_7 :
    (let sail := 11; let ok := true; let b : Block := (Block.alone ((runBase.put GOV_SAILSTAT_STATE 5 11 |>.put GOV_SAILSTAT_CAPLVL 15 11))).start; let c : Block := (b.sailMasks sail).modSail sail (fun t => { t with readmitDone := true }); let op : Nat := if c.dev = .safeHold || c.dev = .service || c.dev = .configWait then 1 else c.plannedOp sail; (b.dev ≠ .off) ∧ (sail < 12) ∧ (b.sailSt sail = 5) ∧ ((ok = true ∧ (b.sail sail).testFail = false ∧ b.get GOV_CAP_EFFECTIVE ≤ b.get GOV_SAILSTAT_CAPLVL sail))) := by decide +kernel

theorem witness_SailStates_8 :
    (let sail := 0; let b : Block := (Block.alone (sail0.put SAIL_OP_RAMP 1 0 |>.put SAIL_OP_TARGET 0 0)).start; let op : Nat := b.get SAIL_OP_TARGET sail; let c : Block := b.put SAIL_OP_RAMP 0 sail; let d : Block := c.put SAIL_OP_CUR op sail; (b.dev ≠ .off) ∧ (((b.active? sail = true ∨ (b.sail sail).readmitDone = true) ∧ b.isSet SAIL_OP_RAMP sail = true)) ∧ (op = 0)) := by decide +kernel

theorem witness_SailStates_9 :
    (let sail := 0; let b : Block := (Block.alone (sail0.put SAIL_OP_RAMP 1 0 |>.put SAIL_OP_TARGET 3 0)).start; let op : Nat := b.get SAIL_OP_TARGET sail; let c : Block := b.put SAIL_OP_RAMP 0 sail; let d : Block := c.put SAIL_OP_CUR op sail; (b.dev ≠ .off) ∧ (((b.active? sail = true ∨ (b.sail sail).readmitDone = true) ∧ b.isSet SAIL_OP_RAMP sail = true)) ∧ (op ≠ 0) ∧ ((d.sail sail).op0 ≠ 2)) := by decide +kernel

theorem witness_SailStates_10 :
    (let sail := 0; let b : Block := (Block.alone (({ sail0 with sails := [(0, { op0 := 2 })] } : Block).put SAIL_OP_RAMP 1 0 |>.put SAIL_OP_TARGET 3 0)).start; let op : Nat := b.get SAIL_OP_TARGET sail; let c : Block := b.put SAIL_OP_RAMP 0 sail; let d : Block := c.put SAIL_OP_CUR op sail; (b.dev ≠ .off) ∧ (((b.active? sail = true ∨ (b.sail sail).readmitDone = true) ∧ b.isSet SAIL_OP_RAMP sail = true)) ∧ (op ≠ 0) ∧ ((d.sail sail).op0 = 2)) := by decide +kernel

theorem witness_SailStates_11 :
    (let sail := 0; let b : Block := (Block.alone ({ sail0 with sails := [(0, { op0 := 1 })] })).start; let c : Block := b.l3On sail; let d : Block := c.modSail sail (fun t => { t with op0 := 2 }); (b.dev ≠ .off) ∧ ((b.active? sail = true ∧ (b.sail sail).op0 = 1)) ∧ ((c.isSet L3_MNT_STATUS_BUSY sail = false ∧ c.l3Empty sail = true))) := by decide +kernel

theorem witness_SailStates_12 :
    (let sail := 0; let ok := false; let b : Block := (Block.alone (base.put GOV_SAILSTAT_STATE 5 0)).start; (b.dev ≠ .off) ∧ (sail < 12) ∧ (b.sailSt sail = 5) ∧ (¬ (ok = true ∧ (b.sail sail).testFail = false ∧ b.get GOV_CAP_EFFECTIVE ≤ b.get GOV_SAILSTAT_CAPLVL sail)))
    ∧ (let sail : Nat := 0; let ok := true; let b : Block := (Block.alone (base)).start; ((12 ≤ sail ∨ b.sailSt sail ≠ 5)))
    ∧ (let sail : Nat := 0; let b : Block := (Block.alone (base)).start; (¬ ((b.active? sail = true ∨ (b.sail sail).readmitDone = true) ∧ b.isSet SAIL_OP_RAMP sail = true)))
    ∧ (let sail : Nat := 0; let b : Block := (Block.alone (base)).start; (¬ (b.active? sail = true ∧ (b.sail sail).op0 = 1)))
    ∧ (let sail := 0; let b : Block := (Block.alone (({ sail0 with sails := [(0, { op0 := 1 })] } : Block).put L3_MNT_STATUS_BUSY 1 0)).start; let c : Block := b.l3On sail; (b.dev ≠ .off) ∧ ((b.active? sail = true ∧ (b.sail sail).op0 = 1)) ∧ (¬ (c.isSet L3_MNT_STATUS_BUSY sail = false ∧ c.l3Empty sail = true))) := by decide +kernel

theorem witness_HartAccesses :
    (let sail := 0; let core := 0; let va := 0x408; let width := 8; let dst := 5; let signed := true; let hv := false; let lv := TrapLevel.m; let i := 7; let b : Block := (Block.alone ({ sail0 with harts := [(0, { run := true, mtip := true, csr := [(csrMstatus, 8), (csrMie, 128)] })] })).start; let h : Nat := sail * 32 + core; (b.dev ≠ .off) ∧ (core < 16) ∧ (b.ready h = true) ∧ (b.irqNext h = some (lv, i))) := by decide +kernel

theorem witness_HartAccesses_2 :
    (let sail := 0; let core := 0; let va := 0x408; let width := 8; let dst := 5; let signed := true; let hv := false; let b : Block := (Block.alone (trigHart (6 * 2 ^ 60 + 256 + 64 + 7) false)).start; let h : Nat := sail * 32 + core; let c : Block := (b.trigCount h).2; let d : Block := (c.trigAccess h .load va width).2; (b.dev ≠ .off) ∧ (core < 16) ∧ (b.ready h = true) ∧ (b.irqNext h = none) ∧ ((b.trigCount h).1 = false) ∧ ((c.trigAccess h .load va width).1 = true)) := by decide +kernel

theorem witness_HartAccesses_3 :
    (let sail := 0; let core := 0; let va := 2 ^ 60; let width := 8; let dst := 5; let signed := true; let hv := false; let t : Trap := { cause := 5, tval := 2 ^ 60 }; let b : Block := (Block.alone (dramHart)).start; let h : Nat := sail * 32 + core; let c : Block := (b.trigCount h).2; let d : Block := (c.trigAccess h .load va width).2; let e : Block := (d.translatePieces h .load hv (pieces va width)).2; (b.dev ≠ .off) ∧ (core < 16) ∧ (b.ready h = true) ∧ (b.irqNext h = none) ∧ ((b.trigCount h).1 = false) ∧ ((c.trigAccess h .load va width).1 = false) ∧ ((d.translatePieces h .load hv (pieces va width)).1 = .trap t)) := by decide +kernel

theorem witness_HartAccesses_4 :
    (let sail := 0; let core := 0; let va := 0xE000000000; let width := 4; let dst := 5; let signed := true; let hv := false; let x : Piece := { va := 0xE000000000, pa := 0xE000000000, len := 4, pbmt := 0 }; let l : List Piece := []; let b : Block := (Block.alone (dramHart)).start; let h : Nat := sail * 32 + core; let c : Block := (b.trigCount h).2; let d : Block := (c.trigAccess h .load va width).2; let e : Block := (d.translatePieces h .load hv (pieces va width)).2; (b.dev ≠ .off) ∧ (core < 16) ∧ (b.ready h = true) ∧ (b.irqNext h = none) ∧ ((b.trigCount h).1 = false) ∧ ((c.trigAccess h .load va width).1 = false) ∧ ((d.translatePieces h .load hv (pieces va width)).1 = .ok (x :: l)) ∧ (ioRegion (e.decodePa x.pa) = true)) := by decide +kernel

theorem witness_HartAccesses_5 :
    (let sail := 0; let core := 0; let va := 0x408; let width := 8; let dst := 5; let signed := true; let hv := false; let x : Piece := { va := 0x408, pa := 0x408, len := 8, pbmt := 0 }; let l : List Piece := []; let y : Piece := { va := 0x408, pa := 0x408, len := 8, pbmt := 0 }; let b : Block := (Block.alone (hart0)).start; let h : Nat := sail * 32 + core; let c : Block := (b.trigCount h).2; let d : Block := (c.trigAccess h .load va width).2; let e : Block := (d.translatePieces h .load hv (pieces va width)).2; (b.dev ≠ .off) ∧ (core < 16) ∧ (b.ready h = true) ∧ (b.irqNext h = none) ∧ ((b.trigCount h).1 = false) ∧ ((c.trigAccess h .load va width).1 = false) ∧ ((d.translatePieces h .load hv (pieces va width)).1 = .ok (x :: l)) ∧ (ioRegion (e.decodePa x.pa) = false) ∧ ((x :: l).find? (fun z => !e.mainMem h z.pa) = some y)) := by decide +kernel

theorem witness_HartAccesses_6 :
    (let sail := 0; let core := 0; let va := 0x408; let width := 8; let dst := 5; let signed := true; let hv := false; let x : Piece := { va := 0x408, pa := 0x408, len := 8, pbmt := 0 }; let l : List Piece := []; let v : Bytes := List.replicate 8 0; let b : Block := (Block.alone (dramHart)).start; let h : Nat := sail * 32 + core; let c : Block := (b.trigCount h).2; let d : Block := (c.trigAccess h .load va width).2; let e : Block := (d.translatePieces h .load hv (pieces va width)).2; let f : Block := (e.readPieces h false (x :: l)).2; (b.dev ≠ .off) ∧ (core < 16) ∧ (b.ready h = true) ∧ (b.irqNext h = none) ∧ ((b.trigCount h).1 = false) ∧ ((c.trigAccess h .load va width).1 = false) ∧ ((d.translatePieces h .load hv (pieces va width)).1 = .ok (x :: l)) ∧ (ioRegion (e.decodePa x.pa) = false) ∧ ((x :: l).find? (fun z => !e.mainMem h z.pa) = none) ∧ ((e.readPieces h false (x :: l)).1 = .bytes v)) := by decide +kernel

theorem witness_HartAccesses_7 :
    (let sail := 0; let core := 0; let va := 0x808; let width := 8; let dst := 5; let signed := true; let hv := false; let x : Piece := { va := 0x808, pa := 0x808, len := 8, pbmt := 0 }; let l : List Piece := []; let b : Block := (Block.alone (dramHart)).start; let h : Nat := sail * 32 + core; let c : Block := (b.trigCount h).2; let d : Block := (c.trigAccess h .load va width).2; let e : Block := (d.translatePieces h .load hv (pieces va width)).2; let f : Block := (e.readPieces h false (x :: l)).2; (b.dev ≠ .off) ∧ (core < 16) ∧ (b.ready h = true) ∧ (b.irqNext h = none) ∧ ((b.trigCount h).1 = false) ∧ ((c.trigAccess h .load va width).1 = false) ∧ ((d.translatePieces h .load hv (pieces va width)).1 = .ok (x :: l)) ∧ (ioRegion (e.decodePa x.pa) = false) ∧ ((x :: l).find? (fun z => !e.mainMem h z.pa) = none) ∧ ((e.readPieces h false (x :: l)).1 = .wait)) := by decide +kernel

theorem witness_HartAccesses_8 :
    (let sail := 0; let core := 0; let va := 0x408; let width := 8; let dst := 5; let signed := true; let hv := false; let x : Piece := { va := 0x408, pa := 0x408, len := 8, pbmt := 0 }; let l : List Piece := []; let k := 19; let a := 0x408; let b : Block := (Block.alone (dramHart.setL3 0 16 { st := .m, poison := true })).start; let h : Nat := sail * 32 + core; let c : Block := (b.trigCount h).2; let d : Block := (c.trigAccess h .load va width).2; let e : Block := (d.translatePieces h .load hv (pieces va width)).2; let f : Block := (e.readPieces h false (x :: l)).2; (b.dev ≠ .off) ∧ (core < 16) ∧ (b.ready h = true) ∧ (b.irqNext h = none) ∧ ((b.trigCount h).1 = false) ∧ ((c.trigAccess h .load va width).1 = false) ∧ ((d.translatePieces h .load hv (pieces va width)).1 = .ok (x :: l)) ∧ (ioRegion (e.decodePa x.pa) = false) ∧ ((x :: l).find? (fun z => !e.mainMem h z.pa) = none) ∧ ((e.readPieces h false (x :: l)).1 = .trap k a)) := by decide +kernel

theorem witness_HartAccesses_9 :
    (let sail := 0; let core := 0; let va := 0x408; let width := 8; let src := 5; let hv := false; let lv := TrapLevel.m; let i := 7; let b : Block := (Block.alone ({ sail0 with harts := [(0, { run := true, mtip := true, csr := [(csrMstatus, 8), (csrMie, 128)] })] })).start; let h : Nat := sail * 32 + core; (b.dev ≠ .off) ∧ (core < 16) ∧ (b.ready h = true) ∧ (b.irqNext h = some (lv, i))) := by decide +kernel

theorem witness_HartAccesses_10 :
    (let sail := 0; let core := 0; let va := 0x408; let width := 8; let src := 5; let hv := false; let b : Block := (Block.alone (trigHart (6 * 2 ^ 60 + 256 + 64 + 7) false)).start; let h : Nat := sail * 32 + core; let c : Block := (b.trigCount h).2; let d : Block := (c.trigAccess h .store va width).2; (b.dev ≠ .off) ∧ (core < 16) ∧ (b.ready h = true) ∧ (b.irqNext h = none) ∧ ((b.trigCount h).1 = false) ∧ ((c.trigAccess h .store va width).1 = true)) := by decide +kernel

theorem witness_HartAccesses_11 :
    (let sail := 0; let core := 0; let va := 2 ^ 60; let width := 8; let src := 5; let hv := false; let t : Trap := { cause := 7, tval := 2 ^ 60 }; let b : Block := (Block.alone (dramHart)).start; let h : Nat := sail * 32 + core; let c : Block := (b.trigCount h).2; let d : Block := (c.trigAccess h .store va width).2; let e : Block := (d.translatePieces h .store hv (pieces va width)).2; (b.dev ≠ .off) ∧ (core < 16) ∧ (b.ready h = true) ∧ (b.irqNext h = none) ∧ ((b.trigCount h).1 = false) ∧ ((c.trigAccess h .store va width).1 = false) ∧ ((d.translatePieces h .store hv (pieces va width)).1 = .trap t)) := by decide +kernel

theorem witness_HartAccesses_12 :
    (let sail := 0; let core := 0; let va := 0xE000000000; let width := 4; let src := 5; let hv := false; let x : Piece := { va := 0xE000000000, pa := 0xE000000000, len := 4, pbmt := 0 }; let l : List Piece := []; let b : Block := (Block.alone (dramHart)).start; let h : Nat := sail * 32 + core; let c : Block := (b.trigCount h).2; let d : Block := (c.trigAccess h .store va width).2; let e : Block := (d.translatePieces h .store hv (pieces va width)).2; (b.dev ≠ .off) ∧ (core < 16) ∧ (b.ready h = true) ∧ (b.irqNext h = none) ∧ ((b.trigCount h).1 = false) ∧ ((c.trigAccess h .store va width).1 = false) ∧ ((d.translatePieces h .store hv (pieces va width)).1 = .ok (x :: l)) ∧ (ioRegion (e.decodePa x.pa) = true)) := by decide +kernel

theorem witness_HartAccesses_13 :
    (let sail := 0; let core := 0; let va := 0x408; let width := 8; let src := 5; let hv := false; let x : Piece := { va := 0x408, pa := 0x408, len := 8, pbmt := 0 }; let l : List Piece := []; let y : Piece := { va := 0x408, pa := 0x408, len := 8, pbmt := 0 }; let b : Block := (Block.alone (hart0)).start; let h : Nat := sail * 32 + core; let c : Block := (b.trigCount h).2; let d : Block := (c.trigAccess h .store va width).2; let e : Block := (d.translatePieces h .store hv (pieces va width)).2; (b.dev ≠ .off) ∧ (core < 16) ∧ (b.ready h = true) ∧ (b.irqNext h = none) ∧ ((b.trigCount h).1 = false) ∧ ((c.trigAccess h .store va width).1 = false) ∧ ((d.translatePieces h .store hv (pieces va width)).1 = .ok (x :: l)) ∧ (ioRegion (e.decodePa x.pa) = false) ∧ ((x :: l).find? (fun z => !e.mainMem h z.pa) = some y)) := by decide +kernel

theorem witness_HartAccesses_14 :
    (let sail := 0; let core := 0; let va := 0x408; let width := 8; let src := 5; let hv := false; let x : Piece := { va := 0x408, pa := 0x408, len := 8, pbmt := 0 }; let l : List Piece := []; let b : Block := (Block.alone (dramHart)).start; let h : Nat := sail * 32 + core; let c : Block := (b.trigCount h).2; let d : Block := (c.trigAccess h .store va width).2; let e : Block := (d.translatePieces h .store hv (pieces va width)).2; (b.dev ≠ .off) ∧ (core < 16) ∧ (b.ready h = true) ∧ (b.irqNext h = none) ∧ ((b.trigCount h).1 = false) ∧ ((c.trigAccess h .store va width).1 = false) ∧ ((d.translatePieces h .store hv (pieces va width)).1 = .ok (x :: l)) ∧ (ioRegion (e.decodePa x.pa) = false) ∧ ((x :: l).find? (fun z => !e.mainMem h z.pa) = none)) := by decide +kernel

theorem witness_HartAccesses_15 :
    (let sail := 0; let core := 0; let va := 0x408; let width := 8; let dst := 6; let src := 5; let op : AmoOp := .add; let lv := TrapLevel.m; let i := 7; let b : Block := (Block.alone ({ sail0 with harts := [(0, { run := true, mtip := true, csr := [(csrMstatus, 8), (csrMie, 128)] })] })).start; let h : Nat := sail * 32 + core; (b.dev ≠ .off) ∧ (core < 16) ∧ (b.ready h = true) ∧ (b.irqNext h = some (lv, i))) := by decide +kernel

theorem witness_HartAccesses_16 :
    (let sail := 0; let core := 0; let va := 0x408; let width := 8; let dst := 5; let signed := true; let hv := false; let b : Block := (Block.alone (base)).start; let h : Nat := sail * 32 + core; ((16 ≤ core ∨ b.ready h = false)))
    ∧ (let sail := 0; let core := 0; let va := 0x408; let width := 8; let dst := 5; let signed := true; let hv := false; let b : Block := (Block.alone (trigHart (3 * 2 ^ 60 + 512) true)).start; let h : Nat := sail * 32 + core; (b.dev ≠ .off) ∧ (core < 16) ∧ (b.ready h = true) ∧ (b.irqNext h = none) ∧ ((b.trigCount h).1 = true))
    ∧ (let sail := 0; let core := 0; let va := 0x408; let width := 8; let src := 5; let hv := false; let b : Block := (Block.alone (base)).start; let h : Nat := sail * 32 + core; ((16 ≤ core ∨ b.ready h = false)))
    ∧ (let sail := 0; let core := 0; let va := 0x408; let width := 8; let src := 5; let hv := false; let b : Block := (Block.alone (trigHart (3 * 2 ^ 60 + 512) true)).start; let h : Nat := sail * 32 + core; (b.dev ≠ .off) ∧ (core < 16) ∧ (b.ready h = true) ∧ (b.irqNext h = none) ∧ ((b.trigCount h).1 = true))
    ∧ (let sail := 0; let core := 0; let va := 0x408; let width := 8; let dst := 6; let src := 5; let op : AmoOp := .add; let b : Block := (Block.alone (base)).start; let h : Nat := sail * 32 + core; ((16 ≤ core ∨ b.ready h = false)))
    ∧ (let sail := 0; let core := 0; let va := 0x408; let width := 8; let dst := 6; let src := 5; let op : AmoOp := .add; let b : Block := (Block.alone (trigHart (3 * 2 ^ 60 + 512) true)).start; let h : Nat := sail * 32 + core; (b.dev ≠ .off) ∧ (core < 16) ∧ (b.ready h = true) ∧ (b.irqNext h = none) ∧ ((b.trigCount h).1 = true)) := by decide +kernel

theorem witness_HartAccesses_17 :
    (let sail := 0; let core := 0; let va := 0x408; let width := 8; let dst := 6; let src := 5; let op : AmoOp := .add; let b : Block := (Block.alone (trigHart (6 * 2 ^ 60 + 256 + 64 + 7) false)).start; let h : Nat := sail * 32 + core; let c : Block := (b.trigCount h).2; let d : Block := (c.trigAccess h (if op = .lr then .load else .store) va width).2; (b.dev ≠ .off) ∧ (core < 16) ∧ (b.ready h = true) ∧ (b.irqNext h = none) ∧ ((b.trigCount h).1 = false) ∧ ((c.trigAccess h (if op = .lr then .load else .store) va width).1 = true)) := by decide +kernel

theorem witness_HartAccesses_18 :
    (let sail := 0; let core := 0; let va := 0x401; let width := 8; let dst := 6; let src := 5; let op : AmoOp := .lr; let b : Block := (Block.alone (dramHart)).start; let h : Nat := sail * 32 + core; let c : Block := (b.trigCount h).2; let d : Block := (c.trigAccess h (if op = .lr then .load else .store) va width).2; (b.dev ≠ .off) ∧ (core < 16) ∧ (b.ready h = true) ∧ (b.irqNext h = none) ∧ ((b.trigCount h).1 = false) ∧ ((c.trigAccess h (if op = .lr then .load else .store) va width).1 = false) ∧ (va % width ≠ 0)) := by decide +kernel

theorem witness_HartAccesses_19 :
    (let sail := 0; let core := 0; let va := 2 ^ 60; let width := 8; let dst := 6; let src := 5; let op : AmoOp := .add; let t : Trap := { cause := 7, tval := 2 ^ 60 }; let b : Block := (Block.alone (dramHart)).start; let h : Nat := sail * 32 + core; let c : Block := (b.trigCount h).2; let d : Block := (c.trigAccess h (if op = .lr then .load else .store) va width).2; let e : Block := (d.translate h (if op = .lr then .load else .store) false va).2; (b.dev ≠ .off) ∧ (core < 16) ∧ (b.ready h = true) ∧ (b.irqNext h = none) ∧ ((b.trigCount h).1 = false) ∧ ((c.trigAccess h (if op = .lr then .load else .store) va width).1 = false) ∧ (va % width = 0) ∧ ((d.translate h (if op = .lr then .load else .store) false va).1 = .trap t)) := by decide +kernel

theorem witness_HartAccesses_20 :
    (let sail := 0; let core := 0; let va := 0x408; let width := 8; let dst := 6; let src := 5; let op : AmoOp := .add; let pa := 0x408; let pbmt := 0; let b : Block := (Block.alone (hart0)).start; let h : Nat := sail * 32 + core; let c : Block := (b.trigCount h).2; let d : Block := (c.trigAccess h (if op = .lr then .load else .store) va width).2; let e : Block := (d.translate h (if op = .lr then .load else .store) false va).2; (b.dev ≠ .off) ∧ (core < 16) ∧ (b.ready h = true) ∧ (b.irqNext h = none) ∧ ((b.trigCount h).1 = false) ∧ ((c.trigAccess h (if op = .lr then .load else .store) va width).1 = false) ∧ (va % width = 0) ∧ ((d.translate h (if op = .lr then .load else .store) false va).1 = .ok (pa, pbmt)) ∧ (e.decodePa pa = .reserved)) := by decide +kernel

theorem witness_HartAccesses_21 :
    (let sail := 0; let core := 0; let va := 0xE000000000; let width := 4; let dst := 6; let src := 5; let op : AmoOp := .add; let pa := 0xE000000000; let pbmt := 0; let b : Block := (Block.alone (dramHart)).start; let h : Nat := sail * 32 + core; let c : Block := (b.trigCount h).2; let d : Block := (c.trigAccess h (if op = .lr then .load else .store) va width).2; let e : Block := (d.translate h (if op = .lr then .load else .store) false va).2; (b.dev ≠ .off) ∧ (core < 16) ∧ (b.ready h = true) ∧ (b.irqNext h = none) ∧ ((b.trigCount h).1 = false) ∧ ((c.trigAccess h (if op = .lr then .load else .store) va width).1 = false) ∧ (va % width = 0) ∧ ((d.translate h (if op = .lr then .load else .store) false va).1 = .ok (pa, pbmt)) ∧ (e.decodePa pa ≠ .reserved) ∧ ((e.decodePa pa ≠ .dram ∨ pbmt = 2))) := by decide +kernel

theorem witness_HartAccesses_22 :
    (let sail := 0; let core := 0; let va := 0x408; let width := 8; let dst := 6; let src := 5; let op : AmoOp := .lr; let pa := 0x408; let pbmt := 0; let b : Block := (Block.alone (dramHart)).start; let h : Nat := sail * 32 + core; let c : Block := (b.trigCount h).2; let d : Block := (c.trigAccess h (if op = .lr then .load else .store) va width).2; let e : Block := (d.translate h (if op = .lr then .load else .store) false va).2; (b.dev ≠ .off) ∧ (core < 16) ∧ (b.ready h = true) ∧ (b.irqNext h = none) ∧ ((b.trigCount h).1 = false) ∧ ((c.trigAccess h (if op = .lr then .load else .store) va width).1 = false) ∧ (va % width = 0) ∧ ((d.translate h (if op = .lr then .load else .store) false va).1 = .ok (pa, pbmt)) ∧ (e.decodePa pa = .dram) ∧ (pbmt ≠ 2) ∧ (op = .lr)) := by decide +kernel

theorem witness_HartAccesses_23 :
    (let sail := 0; let core := 0; let va := 0x408; let width := 8; let dst := 6; let src := 5; let op : AmoOp := .sc; let pa := 0x408; let pbmt := 0; let b : Block := (Block.alone (dramHart)).start; let h : Nat := sail * 32 + core; let c : Block := (b.trigCount h).2; let d : Block := (c.trigAccess h (if op = .lr then .load else .store) va width).2; let e : Block := (d.translate h (if op = .lr then .load else .store) false va).2; (b.dev ≠ .off) ∧ (core < 16) ∧ (b.ready h = true) ∧ (b.irqNext h = none) ∧ ((b.trigCount h).1 = false) ∧ ((c.trigAccess h (if op = .lr then .load else .store) va width).1 = false) ∧ (va % width = 0) ∧ ((d.translate h (if op = .lr then .load else .store) false va).1 = .ok (pa, pbmt)) ∧ (e.decodePa pa = .dram) ∧ (pbmt ≠ 2) ∧ (op = .sc)) := by decide +kernel

theorem witness_HartAccesses_24 :
    (let sail := 0; let core := 0; let va := 0x408; let width := 8; let dst := 6; let src := 5; let op : AmoOp := .add; let pa := 0x408; let pbmt := 0; let b : Block := (Block.alone (dramHart)).start; let h : Nat := sail * 32 + core; let c : Block := (b.trigCount h).2; let d : Block := (c.trigAccess h (if op = .lr then .load else .store) va width).2; let e : Block := (d.translate h (if op = .lr then .load else .store) false va).2; (b.dev ≠ .off) ∧ (core < 16) ∧ (b.ready h = true) ∧ (b.irqNext h = none) ∧ ((b.trigCount h).1 = false) ∧ ((c.trigAccess h (if op = .lr then .load else .store) va width).1 = false) ∧ (va % width = 0) ∧ ((d.translate h (if op = .lr then .load else .store) false va).1 = .ok (pa, pbmt)) ∧ (e.decodePa pa = .dram) ∧ (pbmt ≠ 2) ∧ (op ≠ .lr) ∧ (op ≠ .sc)) := by decide +kernel

theorem witness_HartAccesses_25 :
    (let sail := 0; let core := 0; let va := 0x408; let width := 4; let lv := TrapLevel.m; let i := 7; let b : Block := (Block.alone ({ sail0 with harts := [(0, { run := true, mtip := true, csr := [(csrMstatus, 8), (csrMie, 128)] })] })).start; let h : Nat := sail * 32 + core; (b.dev ≠ .off) ∧ (core < 16) ∧ (b.ready h = true) ∧ (b.irqNext h = some (lv, i))) := by decide +kernel

theorem witness_HartAccesses_26 :
    (let sail := 0; let core := 0; let va := 0x408; let width := 4; let b : Block := (Block.alone (trigHart (6 * 2 ^ 60 + 256 + 64 + 7) false)).start; let h : Nat := sail * 32 + core; let c : Block := b.modHart h fun t => { t with pc := va }; let d : Block := (c.trigAccess h .fetch va width).2; (b.dev ≠ .off) ∧ (core < 16) ∧ (b.ready h = true) ∧ (b.irqNext h = none) ∧ ((c.trigAccess h .fetch va width).1 = true)) := by decide +kernel

theorem witness_HartAccesses_27 :
    (let sail := 0; let core := 0; let va := 2 ^ 60; let width := 4; let t : Trap := { cause := 1, tval := 2 ^ 60 }; let b : Block := (Block.alone (dramHart)).start; let h : Nat := sail * 32 + core; let c : Block := b.modHart h fun t => { t with pc := va }; let d : Block := (c.trigAccess h .fetch va width).2; let e : Block := (d.translatePieces h .fetch false (pieces va width)).2; (b.dev ≠ .off) ∧ (core < 16) ∧ (b.ready h = true) ∧ (b.irqNext h = none) ∧ ((c.trigAccess h .fetch va width).1 = false) ∧ ((d.translatePieces h .fetch false (pieces va width)).1 = .trap t)) := by decide +kernel

theorem witness_HartAccesses_28 :
    (let sail := 0; let core := 0; let va := 0xE000000000; let width := 4; let l : List Piece := [{ va := 0xE000000000, pa := 0xE000000000, len := 4, pbmt := 0 }]; let y : Piece := { va := 0xE000000000, pa := 0xE000000000, len := 4, pbmt := 0 }; let b : Block := (Block.alone (dramHart)).start; let h : Nat := sail * 32 + core; let c : Block := b.modHart h fun t => { t with pc := va }; let d : Block := (c.trigAccess h .fetch va width).2; let e : Block := (d.translatePieces h .fetch false (pieces va width)).2; (b.dev ≠ .off) ∧ (core < 16) ∧ (b.ready h = true) ∧ (b.irqNext h = none) ∧ ((c.trigAccess h .fetch va width).1 = false) ∧ ((d.translatePieces h .fetch false (pieces va width)).1 = .ok l) ∧ (l.find? (fun z => !e.mainMem h z.pa) = some y) ∧ (ioRegion (e.decodePa y.pa) = true)) := by decide +kernel

theorem witness_HartAccesses_29 :
    (let sail := 0; let core := 0; let va := 0x408; let width := 4; let l : List Piece := [{ va := 0x408, pa := 0x408, len := 4, pbmt := 0 }]; let y : Piece := { va := 0x408, pa := 0x408, len := 4, pbmt := 0 }; let b : Block := (Block.alone (hart0)).start; let h : Nat := sail * 32 + core; let c : Block := b.modHart h fun t => { t with pc := va }; let d : Block := (c.trigAccess h .fetch va width).2; let e : Block := (d.translatePieces h .fetch false (pieces va width)).2; (b.dev ≠ .off) ∧ (core < 16) ∧ (b.ready h = true) ∧ (b.irqNext h = none) ∧ ((c.trigAccess h .fetch va width).1 = false) ∧ ((d.translatePieces h .fetch false (pieces va width)).1 = .ok l) ∧ (l.find? (fun z => !e.mainMem h z.pa) = some y) ∧ (ioRegion (e.decodePa y.pa) = false)) := by decide +kernel

theorem witness_HartAccesses_30 :
    (let sail := 0; let core := 0; let va := 0x408; let width := 4; let l : List Piece := [{ va := 0x408, pa := 0x408, len := 4, pbmt := 0 }]; let v : Bytes := List.replicate 4 0; let b : Block := (Block.alone (dramHart)).start; let h : Nat := sail * 32 + core; let c : Block := b.modHart h fun t => { t with pc := va }; let d : Block := (c.trigAccess h .fetch va width).2; let e : Block := (d.translatePieces h .fetch false (pieces va width)).2; let f : Block := (e.readPieces h true l).2; (b.dev ≠ .off) ∧ (core < 16) ∧ (b.ready h = true) ∧ (b.irqNext h = none) ∧ ((c.trigAccess h .fetch va width).1 = false) ∧ ((d.translatePieces h .fetch false (pieces va width)).1 = .ok l) ∧ (l.find? (fun z => !e.mainMem h z.pa) = none) ∧ ((e.readPieces h true l).1 = .bytes v)) := by decide +kernel

theorem witness_HartAccesses_31 :
    (let sail := 0; let core := 0; let va := 0x808; let width := 4; let l : List Piece := [{ va := 0x808, pa := 0x808, len := 4, pbmt := 0 }]; let b : Block := (Block.alone (dramHart)).start; let h : Nat := sail * 32 + core; let c : Block := b.modHart h fun t => { t with pc := va }; let d : Block := (c.trigAccess h .fetch va width).2; let e : Block := (d.translatePieces h .fetch false (pieces va width)).2; let f : Block := (e.readPieces h true l).2; (b.dev ≠ .off) ∧ (core < 16) ∧ (b.ready h = true) ∧ (b.irqNext h = none) ∧ ((c.trigAccess h .fetch va width).1 = false) ∧ ((d.translatePieces h .fetch false (pieces va width)).1 = .ok l) ∧ (l.find? (fun z => !e.mainMem h z.pa) = none) ∧ ((e.readPieces h true l).1 = .wait)) := by decide +kernel

theorem witness_HartAccesses_32 :
    (let sail := 0; let core := 0; let va := 0x408; let width := 4; let l : List Piece := [{ va := 0x408, pa := 0x408, len := 4, pbmt := 0 }]; let k := 19; let a := 0x408; let b : Block := (Block.alone (dramHart.setL3 0 16 { st := .m, poison := true })).start; let h : Nat := sail * 32 + core; let c : Block := b.modHart h fun t => { t with pc := va }; let d : Block := (c.trigAccess h .fetch va width).2; let e : Block := (d.translatePieces h .fetch false (pieces va width)).2; let f : Block := (e.readPieces h true l).2; (b.dev ≠ .off) ∧ (core < 16) ∧ (b.ready h = true) ∧ (b.irqNext h = none) ∧ ((c.trigAccess h .fetch va width).1 = false) ∧ ((d.translatePieces h .fetch false (pieces va width)).1 = .ok l) ∧ (l.find? (fun z => !e.mainMem h z.pa) = none) ∧ ((e.readPieces h true l).1 = .trap k a)) := by decide +kernel

theorem witness_HartAccesses_33 :
    (let sail := 0; let core := 0; let va := 0x408; let op : CboOp := .clean; let lv := TrapLevel.m; let i := 7; let b : Block := (Block.alone ({ sail0 with harts := [(0, { run := true, mtip := true, csr := [(csrMstatus, 8), (csrMie, 128)] })] })).start; let h : Nat := sail * 32 + core; (b.dev ≠ .off) ∧ (core < 16) ∧ (b.ready h = true) ∧ (b.irqNext h = some (lv, i))) := by decide +kernel

theorem witness_HartAccesses_34 :
    (let sail := 0; let core := 0; let va := 0x408; let op : CboOp := .clean; let k := 2; let b : Block := (Block.alone ({ sail0 with harts := [(0, { run := true, priv := .s })] })).start; let h : Nat := sail * 32 + core; let c : Block := (b.trigCount h).2; (b.dev ≠ .off) ∧ (core < 16) ∧ (b.ready h = true) ∧ (b.irqNext h = none) ∧ ((b.trigCount h).1 = false) ∧ (c.cboEnabled h op = .no k)) := by decide +kernel

theorem witness_HartAccesses_35 :
    (let sail := 0; let core := 0; let va := 2 ^ 60; let op : CboOp := .zero; let e := 1; let t : Trap := { cause := 7, tval := 2 ^ 60 }; let b : Block := (Block.alone (dramHart)).start; let h : Nat := sail * 32 + core; let c : Block := (b.trigCount h).2; let d : Block := (c.translate h (if op = .clean ∨ op = .flush then .load else .store) false (va / 64 * 64)).2; (b.dev ≠ .off) ∧ (core < 16) ∧ (b.ready h = true) ∧ (b.irqNext h = none) ∧ ((b.trigCount h).1 = false) ∧ (c.cboEnabled h op = .yes e) ∧ ((op = .clean ∨ op = .flush ∨ op = .inval ∨ op = .zero)) ∧ ((c.translate h (if op = .clean ∨ op = .flush then .load else .store) false (va / 64 * 64)).1 = .trap t)) := by decide +kernel

theorem witness_HartAccesses_36 :
    (let sail := 0; let core := 0; let va := 0x408; let op : CboOp := .zero; let e := 1; let pa := 0x400; let pbmt := 0; let b : Block := (Block.alone (hart0)).start; let h : Nat := sail * 32 + core; let c : Block := (b.trigCount h).2; let d : Block := (c.translate h (if op = .clean ∨ op = .flush then .load else .store) false (va / 64 * 64)).2; (b.dev ≠ .off) ∧ (core < 16) ∧ (b.ready h = true) ∧ (b.irqNext h = none) ∧ ((b.trigCount h).1 = false) ∧ (c.cboEnabled h op = .yes e) ∧ ((op = .clean ∨ op = .flush ∨ op = .inval ∨ op = .zero)) ∧ ((c.translate h (if op = .clean ∨ op = .flush then .load else .store) false (va / 64 * 64)).1 = .ok (pa, pbmt)) ∧ (d.decodePa pa = .reserved)) := by decide +kernel

theorem witness_HartAccesses_37 :
    (let sail := 0; let core := 0; let va := 0x408; let op : CboOp := .zero; let e := 1; let pa := 0x400; let pbmt := 0; let b : Block := (Block.alone (dramHart)).start; let h : Nat := sail * 32 + core; let c : Block := (b.trigCount h).2; let d : Block := (c.translate h (if op = .clean ∨ op = .flush then .load else .store) false (va / 64 * 64)).2; (b.dev ≠ .off) ∧ (core < 16) ∧ (b.ready h = true) ∧ (b.irqNext h = none) ∧ ((b.trigCount h).1 = false) ∧ (c.cboEnabled h op = .yes e) ∧ ((c.translate h (if op = .clean ∨ op = .flush then .load else .store) false (va / 64 * 64)).1 = .ok (pa, pbmt)) ∧ (d.decodePa pa ≠ .reserved) ∧ (op = .zero) ∧ (d.mainMem h pa = true)) := by decide +kernel

theorem witness_HartAccesses_38 :
    (let sail := 0; let core := 0; let va := 0xC001000000; let op : CboOp := .zero; let e := 1; let pa := 0xC001000000; let pbmt := 0; let b : Block := (Block.alone (dramHart)).start; let h : Nat := sail * 32 + core; let c : Block := (b.trigCount h).2; let d : Block := (c.translate h (if op = .clean ∨ op = .flush then .load else .store) false (va / 64 * 64)).2; (b.dev ≠ .off) ∧ (core < 16) ∧ (b.ready h = true) ∧ (b.irqNext h = none) ∧ ((b.trigCount h).1 = false) ∧ (c.cboEnabled h op = .yes e) ∧ ((c.translate h (if op = .clean ∨ op = .flush then .load else .store) false (va / 64 * 64)).1 = .ok (pa, pbmt)) ∧ (d.decodePa pa ≠ .reserved) ∧ (op = .zero) ∧ (d.mainMem h pa = false) ∧ (d.decodePa pa = .scratch)) := by decide +kernel

theorem witness_HartAccesses_39 :
    (let sail := 0; let core := 0; let va := 0xE000000000; let op : CboOp := .zero; let e := 1; let pa := 0xE000000000; let pbmt := 0; let b : Block := (Block.alone (dramHart)).start; let h : Nat := sail * 32 + core; let c : Block := (b.trigCount h).2; let d : Block := (c.translate h (if op = .clean ∨ op = .flush then .load else .store) false (va / 64 * 64)).2; (b.dev ≠ .off) ∧ (core < 16) ∧ (b.ready h = true) ∧ (b.irqNext h = none) ∧ ((b.trigCount h).1 = false) ∧ (c.cboEnabled h op = .yes e) ∧ ((c.translate h (if op = .clean ∨ op = .flush then .load else .store) false (va / 64 * 64)).1 = .ok (pa, pbmt)) ∧ (d.decodePa pa ≠ .reserved) ∧ (op = .zero) ∧ (d.mainMem h pa = false) ∧ (d.decodePa pa ≠ .scratch)) := by decide +kernel

theorem witness_HartAccesses_40 :
    (let sail := 0; let core := 0; let va := 0x408; let op : CboOp := .clean; let e := 1; let pa := 0x400; let pbmt := 0; let b : Block := (Block.alone (dramHart)).start; let h : Nat := sail * 32 + core; let c : Block := (b.trigCount h).2; let d : Block := (c.translate h (if op = .clean ∨ op = .flush then .load else .store) false (va / 64 * 64)).2; (b.dev ≠ .off) ∧ (core < 16) ∧ (b.ready h = true) ∧ (b.irqNext h = none) ∧ ((b.trigCount h).1 = false) ∧ (c.cboEnabled h op = .yes e) ∧ ((c.translate h (if op = .clean ∨ op = .flush then .load else .store) false (va / 64 * 64)).1 = .ok (pa, pbmt)) ∧ (d.decodePa pa ≠ .reserved) ∧ (op = .clean) ∧ (d.decodePa pa = .dram)) := by decide +kernel

theorem witness_HartAccesses_41 :
    (let sail := 0; let core := 0; let va := 0x408; let op : CboOp := .flush; let e := 1; let pa := 0x400; let pbmt := 0; let b : Block := (Block.alone (dramHart)).start; let h : Nat := sail * 32 + core; let c : Block := (b.trigCount h).2; let d : Block := (c.translate h (if op = .clean ∨ op = .flush then .load else .store) false (va / 64 * 64)).2; (b.dev ≠ .off) ∧ (core < 16) ∧ (b.ready h = true) ∧ (b.irqNext h = none) ∧ ((b.trigCount h).1 = false) ∧ (c.cboEnabled h op = .yes e) ∧ ((c.translate h (if op = .clean ∨ op = .flush then .load else .store) false (va / 64 * 64)).1 = .ok (pa, pbmt)) ∧ (d.decodePa pa ≠ .reserved) ∧ ((op = .flush ∨ (op = .inval ∧ e = 1))) ∧ (d.decodePa pa = .dram)) := by decide +kernel

theorem witness_HartAccesses_42 :
    (let sail := 0; let core := 0; let va := 0x408; let op : CboOp := .inval; let e := 3; let pa := 0x400; let pbmt := 0; let b : Block := (Block.alone (dramHart)).start; let h : Nat := sail * 32 + core; let c : Block := (b.trigCount h).2; let d : Block := (c.translate h (if op = .clean ∨ op = .flush then .load else .store) false (va / 64 * 64)).2; (b.dev ≠ .off) ∧ (core < 16) ∧ (b.ready h = true) ∧ (b.irqNext h = none) ∧ ((b.trigCount h).1 = false) ∧ (c.cboEnabled h op = .yes e) ∧ ((c.translate h (if op = .clean ∨ op = .flush then .load else .store) false (va / 64 * 64)).1 = .ok (pa, pbmt)) ∧ (d.decodePa pa ≠ .reserved) ∧ (op = .inval) ∧ (e ≠ 1) ∧ (d.decodePa pa = .dram)) := by decide +kernel

theorem witness_HartAccesses_43 :
    (let sail := 0; let core := 0; let va := 0xE000000000; let op : CboOp := .clean; let e := 1; let pa := 0xE000000000; let pbmt := 0; let b : Block := (Block.alone (dramHart)).start; let h : Nat := sail * 32 + core; let c : Block := (b.trigCount h).2; let d : Block := (c.translate h (if op = .clean ∨ op = .flush then .load else .store) false (va / 64 * 64)).2; (b.dev ≠ .off) ∧ (core < 16) ∧ (b.ready h = true) ∧ (b.irqNext h = none) ∧ ((b.trigCount h).1 = false) ∧ (c.cboEnabled h op = .yes e) ∧ ((c.translate h (if op = .clean ∨ op = .flush then .load else .store) false (va / 64 * 64)).1 = .ok (pa, pbmt)) ∧ (d.decodePa pa ≠ .reserved) ∧ ((op = .clean ∨ op = .flush ∨ op = .inval)) ∧ (d.decodePa pa ≠ .dram)) := by decide +kernel

theorem witness_HartAccesses_44 :
    (let sail := 0; let core := 0; let va := 0x408; let width := 4; let b : Block := (Block.alone (base)).start; let h : Nat := sail * 32 + core; ((16 ≤ core ∨ b.ready h = false)))
    ∧ (let sail := 0; let core := 0; let va := 0x408; let op : CboOp := .clean; let b : Block := (Block.alone (base)).start; let h : Nat := sail * 32 + core; ((16 ≤ core ∨ b.ready h = false)))
    ∧ (let sail := 0; let core := 0; let va := 0x408; let op : CboOp := .clean; let b : Block := (Block.alone (trigHart (3 * 2 ^ 60 + 512) true)).start; let h : Nat := sail * 32 + core; (b.dev ≠ .off) ∧ (core < 16) ∧ (b.ready h = true) ∧ (b.irqNext h = none) ∧ ((b.trigCount h).1 = true))
    ∧ (let sail := 0; let core := 0; let va := 0x408; let k : PfKind := .read; let b : Block := (Block.alone (dramHart)).start; let h : Nat := sail * 32 + core; let c : Block := (b.trigCount h).2; (b.dev ≠ .off) ∧ (core < 16) ∧ (b.ready h = true) ∧ (b.irqNext h = none) ∧ ((b.trigCount h).1 = false))
    ∧ (let sail := 0; let core := 15; let b : Block := (Block.alone (sail0)).start; let h : Nat := sail * 32 + core; (b.dev ≠ .off) ∧ (core < 16) ∧ (b.active? sail = true))
    ∧ (let core : Nat := 0; let sail : Nat := 0; let b : Block := (Block.alone (base)).start; ((16 ≤ core ∨ b.active? sail = false))) := by decide +kernel

theorem witness_FencesAndBroadcasts :
    (let sail := 0; let core := 0; let kind : FenceKind := .sfenceVma; let addr : Option Nat := none; let asid : Option Nat := none; let vmid : Option Nat := none; let lv := TrapLevel.m; let i := 7; let b : Block := (Block.alone ({ sail0 with harts := [(0, { run := true, mtip := true, csr := [(csrMstatus, 8), (csrMie, 128)] })] })).start; let h : Nat := sail * 32 + core; (b.dev ≠ .off) ∧ (core < 16) ∧ (b.ready h = true) ∧ (b.irqNext h = some (lv, i))) := by decide +kernel

theorem witness_FencesAndBroadcasts_2 :
    (let sail := 0; let core := 0; let kind : FenceKind := .sfenceVma; let addr : Option Nat := none; let asid : Option Nat := none; let vmid : Option Nat := none; let b : Block := (Block.alone (trigHart (3 * 2 ^ 60 + 512) true)).start; let h : Nat := sail * 32 + core; (b.dev ≠ .off) ∧ (core < 16) ∧ (b.ready h = true) ∧ (b.irqNext h = none) ∧ ((b.trigCount h).1 = true)) := by decide +kernel

theorem witness_FencesAndBroadcasts_3 :
    (let sail := 0; let core := 0; let kind : FenceKind := .sfenceVma; let addr : Option Nat := none; let asid : Option Nat := none; let vmid : Option Nat := none; let k := 2; let b : Block := (Block.alone ({ sail0 with harts := [(0, { run := true, priv := .u })] })).start; let h : Nat := sail * 32 + core; let c : Block := (b.trigCount h).2; (b.dev ≠ .off) ∧ (core < 16) ∧ (b.ready h = true) ∧ (b.irqNext h = none) ∧ ((b.trigCount h).1 = false) ∧ (fenceTrap (c.hart h).priv kind = some k)) := by decide +kernel

theorem witness_FencesAndBroadcasts_4 :
    (let sail := 0; let core := 0; let kind : FenceKind := .sfenceInvalIr; let addr : Option Nat := none; let asid : Option Nat := none; let vmid : Option Nat := none; let b : Block := (Block.alone (hart0)).start; let h : Nat := sail * 32 + core; let c : Block := (b.trigCount h).2; let md : Priv := (c.hart h).priv; let kd : FenceKind := if md = .vs then (match kind with | .sfenceVma => .hfenceVvma | .sinvalVma => .hinvalVvma | k => k) else kind; let vm : Option Nat := (match kd with | .hfenceVvma | .hinvalVvma => some (bits (c.csr h csrHgatp) 44 57) | .hfenceGvma | .hinvalGvma => vmid | _ => none); let d : Block := c.applyFence h kd addr asid vm; (b.dev ≠ .off) ∧ (core < 16) ∧ (b.ready h = true) ∧ (b.irqNext h = none) ∧ ((b.trigCount h).1 = false) ∧ (fenceTrap (c.hart h).priv kind = none) ∧ (kind = .sfenceInvalIr)) := by decide +kernel

theorem witness_FencesAndBroadcasts_5 :
    (let sail := 0; let core := 0; let kind : FenceKind := .sfenceVma; let addr : Option Nat := none; let asid : Option Nat := none; let vmid : Option Nat := none; let b : Block := (Block.alone (hart0)).start; let h : Nat := sail * 32 + core; let c : Block := (b.trigCount h).2; let md : Priv := (c.hart h).priv; let kd : FenceKind := if md = .vs then (match kind with | .sfenceVma => .hfenceVvma | .sinvalVma => .hinvalVvma | k => k) else kind; let vm : Option Nat := (match kd with | .hfenceVvma | .hinvalVvma => some (bits (c.csr h csrHgatp) 44 57) | .hfenceGvma | .hinvalGvma => vmid | _ => none); let d : Block := c.applyFence h kd addr asid vm; (b.dev ≠ .off) ∧ (core < 16) ∧ (b.ready h = true) ∧ (b.irqNext h = none) ∧ ((b.trigCount h).1 = false) ∧ (fenceTrap (c.hart h).priv kind = none) ∧ (kind ≠ .sfenceInvalIr) ∧ (¬ (((md = .s ∧ bit (d.csr h csrBcastctl) 0 = true) ∨ (md = .vs ∧ bit (d.csr h csrBcastctl) 1 = true)) ∧ bit (d.csr h csrInvdom) 15 = true))) := by decide +kernel

theorem witness_FencesAndBroadcasts_6 :
    (let sail := 0; let core := 0; let kind : FenceKind := .sfenceVma; let addr : Option Nat := none; let asid : Option Nat := none; let vmid : Option Nat := none; let b : Block := (Block.alone ({ sail0 with harts := [(0, { run := true, priv := .s, csr := [(csrInvdom, 0x8001), (csrBcastctl, 1)] }), (1, { run := true, csr := [(csrInvdom, 0x8001)] })] })).start; let h : Nat := sail * 32 + core; let c : Block := (b.trigCount h).2; let md : Priv := (c.hart h).priv; let kd : FenceKind := if md = .vs then (match kind with | .sfenceVma => .hfenceVvma | .sinvalVma => .hinvalVvma | k => k) else kind; let vm : Option Nat := (match kd with | .hfenceVvma | .hinvalVvma => some (bits (c.csr h csrHgatp) 44 57) | .hfenceGvma | .hinvalGvma => vmid | _ => none); let d : Block := c.applyFence h kd addr asid vm; let ts : List Nat := d.domainOf h (bits (d.csr h csrInvdom) 0 5); let id : Nat := (d.hart h).nextB; let sent : List Bcast := if ts.isEmpty then [] else [{ id := id, kind := kd, addr := addr, asid := asid, vmid := vm, domain := bits (d.csr h csrInvdom) 0 5, targets := ts, waits := (match kd with | .sinvalVma | .hinvalVvma | .hinvalGvma => false | _ => true) }]; let e : Block := d.modHart h (fun t => { t with nextB := id + 1, bcasts := t.bcasts ++ sent }); (b.dev ≠ .off) ∧ (core < 16) ∧ (b.ready h = true) ∧ (b.irqNext h = none) ∧ ((b.trigCount h).1 = false) ∧ (fenceTrap (c.hart h).priv kind = none) ∧ (kind ≠ .sfenceInvalIr) ∧ ((((md = .s ∧ bit (d.csr h csrBcastctl) 0 = true) ∨ (md = .vs ∧ bit (d.csr h csrBcastctl) 1 = true)) ∧ bit (d.csr h csrInvdom) 15 = true))) := by decide +kernel

theorem witness_FencesAndBroadcasts_7 :
    (let sail := 0; let core := 0; let kind : FenceKind := .sfenceVma; let addr : Option Nat := none; let asid : Option Nat := none; let vmid : Option Nat := none; let lv := TrapLevel.m; let i := 7; let b : Block := (Block.alone ({ sail0 with harts := [(0, { run := true, mtip := true, csr := [(csrMstatus, 8), (csrMie, 128)] })] })).start; let h : Nat := sail * 32 + core; (b.dev ≠ .off) ∧ (core < 16) ∧ (b.ready h = true) ∧ (b.irqNext h = some (lv, i))) := by decide +kernel

theorem witness_FencesAndBroadcasts_8 :
    (let sail := 0; let core := 0; let kind : FenceKind := .sfenceVma; let addr : Option Nat := none; let asid : Option Nat := none; let vmid : Option Nat := none; let b : Block := (Block.alone (trigHart (3 * 2 ^ 60 + 512) true)).start; let h : Nat := sail * 32 + core; (b.dev ≠ .off) ∧ (core < 16) ∧ (b.ready h = true) ∧ (b.irqNext h = none) ∧ ((b.trigCount h).1 = true)) := by decide +kernel

theorem witness_FencesAndBroadcasts_9 :
    (let sail := 0; let core := 0; let kind : FenceKind := .sfenceVma; let addr : Option Nat := none; let asid : Option Nat := none; let vmid : Option Nat := none; let k := 2; let b : Block := (Block.alone ({ sail0 with harts := [(0, { run := true, priv := .u })] })).start; let h : Nat := sail * 32 + core; let c : Block := (b.trigCount h).2; (b.dev ≠ .off) ∧ (core < 16) ∧ (b.ready h = true) ∧ (b.irqNext h = none) ∧ ((b.trigCount h).1 = false) ∧ (fenceTrap (c.hart h).priv kind = some k)) := by decide +kernel

theorem witness_FencesAndBroadcasts_10 :
    (let sail := 0; let core := 0; let kind : FenceKind := .sfenceInvalIr; let addr : Option Nat := none; let asid : Option Nat := none; let vmid : Option Nat := none; let b : Block := (Block.alone (hart0)).start; let h : Nat := sail * 32 + core; let c : Block := (b.trigCount h).2; let md : Priv := (c.hart h).priv; let kd : FenceKind := if md = .vs then (match kind with | .sfenceVma => .hfenceVvma | .sinvalVma => .hinvalVvma | k => k) else kind; let vm : Option Nat := (match kd with | .hfenceVvma | .hinvalVvma => some (bits (c.csr h csrHgatp) 44 57) | .hfenceGvma | .hinvalGvma => vmid | _ => none); let d : Block := c.applyFence h kd addr asid vm; (b.dev ≠ .off) ∧ (core < 16) ∧ (b.ready h = true) ∧ (b.irqNext h = none) ∧ ((b.trigCount h).1 = false) ∧ (fenceTrap (c.hart h).priv kind = none) ∧ (kind = .sfenceInvalIr)) := by decide +kernel

theorem witness_FencesAndBroadcasts_11 :
    (let sail := 0; let core := 0; let kind : FenceKind := .sfenceVma; let addr : Option Nat := none; let asid : Option Nat := none; let vmid : Option Nat := none; let b : Block := (Block.alone (hart0)).start; let h : Nat := sail * 32 + core; let c : Block := (b.trigCount h).2; let md : Priv := (c.hart h).priv; let kd : FenceKind := if md = .vs then (match kind with | .sfenceVma => .hfenceVvma | .sinvalVma => .hinvalVvma | k => k) else kind; let vm : Option Nat := (match kd with | .hfenceVvma | .hinvalVvma => some (bits (c.csr h csrHgatp) 44 57) | .hfenceGvma | .hinvalGvma => vmid | _ => none); let d : Block := c.applyFence h kd addr asid vm; (b.dev ≠ .off) ∧ (core < 16) ∧ (b.ready h = true) ∧ (b.irqNext h = none) ∧ ((b.trigCount h).1 = false) ∧ (fenceTrap (c.hart h).priv kind = none) ∧ (kind ≠ .sfenceInvalIr) ∧ (¬ (((md = .s ∧ bit (d.csr h csrBcastctl) 0 = true) ∨ (md = .vs ∧ bit (d.csr h csrBcastctl) 1 = true)) ∧ bit (d.csr h csrInvdom) 15 = true))) := by decide +kernel

theorem witness_FencesAndBroadcasts_12 :
    (let sail := 0; let core := 0; let kind : FenceKind := .sfenceVma; let addr : Option Nat := none; let asid : Option Nat := none; let vmid : Option Nat := none; let b : Block := (Block.alone ({ sail0 with harts := [(0, { run := true, priv := .s, csr := [(csrInvdom, 0x8001), (csrBcastctl, 1)] }), (1, { run := true, csr := [(csrInvdom, 0x8001)] })] })).start; let h : Nat := sail * 32 + core; let c : Block := (b.trigCount h).2; let md : Priv := (c.hart h).priv; let kd : FenceKind := if md = .vs then (match kind with | .sfenceVma => .hfenceVvma | .sinvalVma => .hinvalVvma | k => k) else kind; let vm : Option Nat := (match kd with | .hfenceVvma | .hinvalVvma => some (bits (c.csr h csrHgatp) 44 57) | .hfenceGvma | .hinvalGvma => vmid | _ => none); let d : Block := c.applyFence h kd addr asid vm; let ts : List Nat := d.domainOf h (bits (d.csr h csrInvdom) 0 5); let id : Nat := (d.hart h).nextB; let sent : List Bcast := if ts.isEmpty then [] else [{ id := id, kind := kd, addr := addr, asid := asid, vmid := vm, domain := bits (d.csr h csrInvdom) 0 5, targets := ts, waits := (match kd with | .sinvalVma | .hinvalVvma | .hinvalGvma => false | _ => true) }]; let e : Block := d.modHart h (fun t => { t with nextB := id + 1, bcasts := t.bcasts ++ sent }); (b.dev ≠ .off) ∧ (core < 16) ∧ (b.ready h = true) ∧ (b.irqNext h = none) ∧ ((b.trigCount h).1 = false) ∧ (fenceTrap (c.hart h).priv kind = none) ∧ (kind ≠ .sfenceInvalIr) ∧ ((((md = .s ∧ bit (d.csr h csrBcastctl) 0 = true) ∨ (md = .vs ∧ bit (d.csr h csrBcastctl) 1 = true)) ∧ bit (d.csr h csrInvdom) 15 = true))) := by decide +kernel

theorem witness_FencesAndBroadcasts_13 :
    (let sail := 0; let src := 0; let id := 3; let c : Bcast := { id := 3, kind := FenceKind.sfenceVma, addr := none, asid := none, vmid := none, domain := 1, targets := [1], waits := true }; let b : Block := (Block.alone ({ ({ sail0 with harts := [(0, { run := true, bcasts := [{ id := 3, kind := FenceKind.sfenceVma, addr := none, asid := none, vmid := none, domain := 1, targets := [1], waits := true }] })] } : Block) with sails := [(0, { op0 := 2 })] })).start; let q : Block := (b.arrives (.binvMsg sail src id)).2; let ts : List Nat := c.targets.filter fun t => t / 32 = sail; let d : Block := q.forL ts fun t b => b.hpm t 0x88 1; (b.dev ≠ .off) ∧ ((b.arrives (.binvMsg sail src id)).1 = true) ∧ (q.active? sail = true) ∧ ((q.hart src).bcasts.find? (fun c => c.id = id) = some c) ∧ ((d.sail sail).op0 = 2)) := by decide +kernel

theorem witness_FencesAndBroadcasts_14 :
    (let sail := 0; let src := 0; let id := 3; let c : Bcast := { id := 3, kind := FenceKind.sfenceVma, addr := none, asid := none, vmid := none, domain := 1, targets := [1], waits := true }; let b : Block := (Block.alone (({ sail0 with harts := [(0, { run := true, bcasts := [{ id := 3, kind := FenceKind.sfenceVma, addr := none, asid := none, vmid := none, domain := 1, targets := [1], waits := true }] })] } : Block))).start; let q : Block := (b.arrives (.binvMsg sail src id)).2; let ts : List Nat := c.targets.filter fun t => t / 32 = sail; let d : Block := q.forL ts fun t b => b.hpm t 0x88 1; let e : Block := d.forL ts fun t b => b.applyFence t c.kind c.addr c.asid c.vmid; let hold : List Nat := ts.filter fun t => e.usesCovered t c; (b.dev ≠ .off) ∧ ((b.arrives (.binvMsg sail src id)).1 = true) ∧ (q.active? sail = true) ∧ ((q.hart src).bcasts.find? (fun c => c.id = id) = some c) ∧ ((d.sail sail).op0 ≠ 2) ∧ (hold = [])) := by decide +kernel

theorem witness_FencesAndBroadcasts_15 :
    (let sail := 0; let src := 0; let id := 3; let c : Bcast := { id := 3, kind := FenceKind.sfenceVma, addr := none, asid := none, vmid := none, domain := 1, targets := [1], waits := true }; let b : Block := (Block.alone (({ sail0 with harts := [(0, { run := true, bcasts := [{ id := 3, kind := FenceKind.sfenceVma, addr := none, asid := none, vmid := none, domain := 1, targets := [1], waits := true }] }), (1, { run := true, io := some { addr := 0xE000000000, width := 4, ent := some {} } })] } : Block))).start; let q : Block := (b.arrives (.binvMsg sail src id)).2; let ts : List Nat := c.targets.filter fun t => t / 32 = sail; let d : Block := q.forL ts fun t b => b.hpm t 0x88 1; let e : Block := d.forL ts fun t b => b.applyFence t c.kind c.addr c.asid c.vmid; let hold : List Nat := ts.filter fun t => e.usesCovered t c; (b.dev ≠ .off) ∧ ((b.arrives (.binvMsg sail src id)).1 = true) ∧ (q.active? sail = true) ∧ ((q.hart src).bcasts.find? (fun c => c.id = id) = some c) ∧ ((d.sail sail).op0 ≠ 2) ∧ (hold ≠ [])) := by decide +kernel

theorem witness_FencesAndBroadcasts_16 :
    (let sail := 0; let core := 0; let kind : FenceKind := .sfenceVma; let addr : Option Nat := none; let asid : Option Nat := none; let vmid : Option Nat := none; let b : Block := (Block.alone (base)).start; let h : Nat := sail * 32 + core; ((16 ≤ core ∨ b.ready h = false)))
    ∧ (let sail := 0; let core := 0; let kind : FenceKind := .sfenceVma; let addr : Option Nat := none; let asid : Option Nat := none; let vmid : Option Nat := none; let b : Block := (Block.alone (base)).start; let h : Nat := sail * 32 + core; ((16 ≤ core ∨ b.ready h = false)))
    ∧ (let sail := 0; let src := 0; let id := 3; let b : Block := (Block.alone ({ sail0 with net := { landed := [Out.binv 0 0 3] } })).start; let q : Block := (b.arrives (.binvMsg sail src id)).2; (b.dev ≠ .off) ∧ ((b.arrives (.binvMsg sail src id)).1 = false))
    ∧ (let sail := 0; let src := 0; let id := 3; let b : Block := (Block.alone (base)).start; let q : Block := (b.arrives (.binvMsg sail src id)).2; (b.dev ≠ .off) ∧ ((b.arrives (.binvMsg sail src id)).1 = true) ∧ (q.active? sail = false))
    ∧ (let sail := 0; let src := 0; let id := 3; let b : Block := (Block.alone (sail0)).start; let q : Block := (b.arrives (.binvMsg sail src id)).2; (b.dev ≠ .off) ∧ ((b.arrives (.binvMsg sail src id)).1 = true) ∧ (q.active? sail = true) ∧ ((q.hart src).bcasts.find? (fun c => c.id = id) = none))
    ∧ (let sail := 0; let src := 0; let id := 3; let b : Block := (Block.alone ({ sail0 with net := { landed := [Out.binvAck 0 0 3] } })).start; let q : Block := (b.arrives (.binvAck sail src id)).2; (b.dev ≠ .off) ∧ ((b.arrives (.binvAck sail src id)).1 = false)) := by decide +kernel

theorem witness_FencesAndBroadcasts_17 :
    (let sail := 0; let src := 0; let id := 3; let b : Block := (Block.alone (({ sail0 with harts := [(0, { run := true, bcasts := [{ id := 3, kind := FenceKind.sfenceVma, addr := none, asid := none, vmid := none, domain := 1, targets := [1], waits := true }] })] } : Block))).start; let q : Block := (b.arrives (.binvAck sail src id)).2; (b.dev ≠ .off) ∧ ((b.arrives (.binvAck sail src id)).1 = true)) := by decide +kernel

theorem witness_FencesAndBroadcasts_18 :
    (let src := 0; let id := 3; let c : Bcast := { id := 3, kind := FenceKind.sfenceVma, addr := none, asid := none, vmid := none, domain := 1, targets := [1], waits := true }; let b : Block := (Block.alone (({ sail0 with harts := [(0, { run := true, bcasts := [{ id := 3, kind := FenceKind.sfenceVma, addr := none, asid := none, vmid := none, domain := 1, targets := [1], waits := true }] })] } : Block))).start; (b.dev ≠ .off) ∧ ((b.hart src).bcasts.find? (fun c => c.id = id) = some c)) := by decide +kernel

theorem witness_FencesAndBroadcasts_19 :
    (let id : Nat := 0; let src : Nat := 0; let b : Block := (Block.alone (base)).start; ((b.hart src).bcasts.find? (fun c => c.id = id) = none)) := by decide +kernel

theorem witness_IotRows :
    (let dev := 0; let mid := 0; let part := 0; let pasid : Option Nat := none; let write := true; let ex := false; let iova := 0x1234; let pa := 0x1234; let b : Block := (Block.alone (base.iotS ioDdtp 1)).start; let c : Block := (b.iotTranslate dev mid part pasid (if write then .store else if ex then .fetch else .load) iova).2; (b.dev ≠ .off) ∧ ((b.iotTranslate dev mid part pasid (if write then .store else if ex then .fetch else .load) iova).1 = some pa)) := by decide +kernel

theorem witness_IotRows_2 :
    (let dev := 0; let mid := 0; let part := 0; let pasid : Option Nat := none; let write := true; let ex := false; let iova := 0x1234; let b : Block := (Block.alone (base)).start; let c : Block := (b.iotTranslate dev mid part pasid (if write then .store else if ex then .fetch else .load) iova).2; (b.dev ≠ .off) ∧ ((b.iotTranslate dev mid part pasid (if write then .store else if ex then .fetch else .load) iova).1 = none)) := by decide +kernel

theorem witness_IotRows_3 :
    (let dev := 0; let mid := 0; let part := 0; let pasid : Option Nat := none; let write := true; let ex := false; let iova := 0x1234; let b : Block := (Block.alone (base.iotS ioDdtp 1)).start; (b.dev ≠ .off) ∧ (bits (b.iotG ioDdtp) 0 3 = 1) ∧ (pasid = none) ∧ (iova < 2 ^ 48))
    ∧ (let w := 1; let b : Block := (Block.alone (iotQueue 1)).start; let c : Block := (b.iotHead).2; (b.dev ≠ .off) ∧ ((b.iotHead).1 = some w) ∧ (ioCmd w = .vma))
    ∧ (let w := 3; let b : Block := (Block.alone (iotQueue 3)).start; let c : Block := (b.iotHead).2; (b.dev ≠ .off) ∧ ((b.iotHead).1 = some w) ∧ (ioCmd w ≠ .vma))
    ∧ (let b : Block := (Block.alone (base)).start; let c : Block := (b.iotHead).2; (b.dev ≠ .off) ∧ ((b.iotHead).1 = none))
    ∧ (let w := 0x81; let b : Block := (Block.alone (iotQueue 0x81)).start; let c : Block := (b.iotHead).2; (b.dev ≠ .off) ∧ ((b.iotHead).1 = some w) ∧ (ioCmd w = .gvma))
    ∧ (let w := 3; let b : Block := (Block.alone (iotQueue 3)).start; let c : Block := (b.iotHead).2; (b.dev ≠ .off) ∧ ((b.iotHead).1 = some w) ∧ (ioCmd w ≠ .gvma)) := by decide +kernel

theorem witness_IotRows_4 :
    (let b : Block := (Block.alone (base)).start; let c : Block := (b.iotHead).2; (b.dev ≠ .off) ∧ ((b.iotHead).1 = none))
    ∧ (let w := 3; let b : Block := (Block.alone (iotQueue 3)).start; let c : Block := (b.iotHead).2; (b.dev ≠ .off) ∧ ((b.iotHead).1 = some w) ∧ (ioCmd w = .dir))
    ∧ (let w := 1; let b : Block := (Block.alone (iotQueue 1)).start; let c : Block := (b.iotHead).2; (b.dev ≠ .off) ∧ ((b.iotHead).1 = some w) ∧ (ioCmd w ≠ .dir))
    ∧ (let b : Block := (Block.alone (base)).start; let c : Block := (b.iotHead).2; (b.dev ≠ .off) ∧ ((b.iotHead).1 = none))
    ∧ (let w := 2; let b : Block := (Block.alone (iotQueue 2)).start; let c : Block := (b.iotHead).2; (b.dev ≠ .off) ∧ ((b.iotHead).1 = some w) ∧ (ioCmd w = .fenceC))
    ∧ (let w := 3; let b : Block := (Block.alone (iotQueue 3)).start; let c : Block := (b.iotHead).2; (b.dev ≠ .off) ∧ ((b.iotHead).1 = some w) ∧ (ioCmd w ≠ .fenceC)) := by decide +kernel

theorem witness_IotRows_5 :
    (let b : Block := (Block.alone (base)).start; let c : Block := (b.iotHead).2; (b.dev ≠ .off) ∧ ((b.iotHead).1 = none))
    ∧ (let w := 7; let b : Block := (Block.alone (iotQueue 7)).start; let c : Block := (b.iotHead).2; (b.dev ≠ .off) ∧ ((b.iotHead).1 = some w) ∧ (ioCmd w = .illegal))
    ∧ (let w := 3; let b : Block := (Block.alone (iotQueue 3)).start; let c : Block := (b.iotHead).2; (b.dev ≠ .off) ∧ ((b.iotHead).1 = some w) ∧ (ioCmd w ≠ .illegal))
    ∧ (let b : Block := (Block.alone (base)).start; let c : Block := (b.iotHead).2; (b.dev ≠ .off) ∧ ((b.iotHead).1 = none))
    ∧ (let b : Block := (Block.alone (base)).start; (b.iot.fence = false))
    ∧ (let b : Block := (Block.alone (base.modIot fun t => { t with fence := true })).start; let c : Block := b.modIot fun t => { t with fence := false }; let d : Block := c.iotHead.2; (b.dev ≠ .off) ∧ (b.iot.fence = true) ∧ (c.iotHead.1 = none)) := by decide +kernel

theorem witness_IotRows_6 :
    (let w := 2 + 2 ^ 10 + 5 * 2 ^ 32 + 0xE000800000 / 4 * 2 ^ 64; let b : Block := (Block.alone ((iotQueue (2 + 2 ^ 10 + 5 * 2 ^ 32 + 0xE000800000 / 4 * 2 ^ 64)).modIot fun t => { t with fence := true })).start; let c : Block := b.modIot fun t => { t with fence := false }; let d : Block := c.iotHead.2; let a : Nat := bits w 64 125 * 4; (b.dev ≠ .off) ∧ (b.iot.fence = true) ∧ (c.iotHead.1 = some w) ∧ (bit w 10 = true) ∧ (((fileOf a).isSome = true ∧ d.sailServes midSluice ((a - sailCtl) / sailStride) = true))) := by decide +kernel

theorem witness_IotRows_7 :
    (let w := 2 + 2 ^ 10 + 5 * 2 ^ 32 + 0x1000 / 4 * 2 ^ 64; let b : Block := (Block.alone ((iotQueue (2 + 2 ^ 10 + 5 * 2 ^ 32 + 0x1000 / 4 * 2 ^ 64)).modIot fun t => { t with fence := true })).start; let c : Block := b.modIot fun t => { t with fence := false }; let d : Block := c.iotHead.2; let a : Nat := bits w 64 125 * 4; (b.dev ≠ .off) ∧ (b.iot.fence = true) ∧ (c.iotHead.1 = some w) ∧ (bit w 10 = true) ∧ (¬ ((fileOf a).isSome = true ∧ d.sailServes midSluice ((a - sailCtl) / sailStride) = true)) ∧ (d.rangeOk a 4 = true)) := by decide +kernel

theorem witness_IotRows_8 :
    (let w := 2 + 2 ^ 10 + 5 * 2 ^ 32 + 0xF000000000 / 4 * 2 ^ 64; let b : Block := (Block.alone ((iotQueue (2 + 2 ^ 10 + 5 * 2 ^ 32 + 0xF000000000 / 4 * 2 ^ 64)).modIot fun t => { t with fence := true })).start; let c : Block := b.modIot fun t => { t with fence := false }; let d : Block := c.iotHead.2; let a : Nat := bits w 64 125 * 4; (b.dev ≠ .off) ∧ (b.iot.fence = true) ∧ (c.iotHead.1 = some w) ∧ (bit w 10 = true) ∧ (¬ ((fileOf a).isSome = true ∧ d.sailServes midSluice ((a - sailCtl) / sailStride) = true)) ∧ (d.rangeOk a 4 = false)) := by decide +kernel

theorem witness_IotRows_9 :
    (let w := 2; let b : Block := (Block.alone ((iotQueue (2)).modIot fun t => { t with fence := true })).start; let c : Block := b.modIot fun t => { t with fence := false }; let d : Block := c.iotHead.2; let a : Nat := bits w 64 125 * 4; (b.dev ≠ .off) ∧ (b.iot.fence = true) ∧ (c.iotHead.1 = some w) ∧ (bit w 10 = false)) := by decide +kernel

theorem witness_Millstone :
    (let part : Option Nat := some 0; let sail := 0; let j := 0; let count := 16; let i := 0; let b : Block := (Block.alone (mstQueue [0])).start; (b.dev ≠ .off) ∧ (b.mstReach sail part = some i) ∧ (j < 2) ∧ ((count % 8192 = 0 ∨ b.qsize sail i j = 0 ∨ 2 ^ b.qsize sail i j < ((b.mq sail i j).tail + count % 8192 + 65536 - (b.mq sail i j).head) % 65536))) := by decide +kernel

theorem witness_Millstone_2 :
    (let part : Option Nat := some 0; let sail := 0; let j := 0; let count := 15; let i := 0; let b : Block := (Block.alone (mstQueue [0])).start; (b.dev ≠ .off) ∧ (b.mstReach sail part = some i) ∧ (j < 2) ∧ (¬ (count % 8192 = 0 ∨ b.qsize sail i j = 0 ∨ 2 ^ b.qsize sail i j < ((b.mq sail i j).tail + count % 8192 + 65536 - (b.mq sail i j).head) % 65536))) := by decide +kernel

theorem witness_Millstone_3 :
    (let j : Nat := 0; let i : Nat := 0; let sail : Nat := 0; let b : Block := (Block.alone (base)).start; let q : MstQ := b.mq sail i j; let idx : Nat := (q.head + q.started) % 65536; (¬ (b.mstLive sail = true ∧ i < 16 ∧ j < 2 ∧ b.isSet MST_BCFG_EN sail i = true ∧ q.stopped = false ∧ b.qsize sail i j ≠ 0 ∧ idx ≠ q.tail ∧ (b.mst sail).runs.any (fun r => r.q = 2 * i + j && r.err ≠ 0) = false))) := by decide +kernel

theorem witness_Millstone_4 :
    (let sail := 0; let i := 0; let j := 0; let b : Block := (Block.alone ((mstQueue [0]).put MST_BWIN_R 0 0 0 0)).start; let q : MstQ := b.mq sail i j; let idx : Nat := (q.head + q.started) % 65536; let p : Nat := b.get MST_BCFG_PART sail i; let a : Nat := b.mstEntry sail i j; let r : Bytes × Nat := (b.mstRead sail p a 64).1; let c : Block := (b.mstRead sail p a 64).2; let ws : List Nat := (List.range 8).map (fun w => leAt (8 * w) 8 r.1); (b.dev ≠ .off) ∧ ((b.mstLive sail = true ∧ i < 16 ∧ j < 2 ∧ b.isSet MST_BCFG_EN sail i = true ∧ q.stopped = false ∧ b.qsize sail i j ≠ 0 ∧ idx ≠ q.tail ∧ (b.mst sail).runs.any (fun r => r.q = 2 * i + j && r.err ≠ 0) = false)) ∧ (b.rangeAllowed sail i (a, 64, false) = false) ∧ (q.started = 0)) := by decide +kernel

theorem witness_Millstone_5 :
    (let sail := 0; let i := 0; let j := 0; let b : Block := (Block.alone ((mstQueue [0]).mcWrite 0 0 0x1000 0 true false)).start; let q : MstQ := b.mq sail i j; let idx : Nat := (q.head + q.started) % 65536; let p : Nat := b.get MST_BCFG_PART sail i; let a : Nat := b.mstEntry sail i j; let r : Bytes × Nat := (b.mstRead sail p a 64).1; let c : Block := (b.mstRead sail p a 64).2; let ws : List Nat := (List.range 8).map (fun w => leAt (8 * w) 8 r.1); (b.dev ≠ .off) ∧ ((b.mstLive sail = true ∧ i < 16 ∧ j < 2 ∧ b.isSet MST_BCFG_EN sail i = true ∧ q.stopped = false ∧ b.qsize sail i j ≠ 0 ∧ idx ≠ q.tail ∧ (b.mst sail).runs.any (fun r => r.q = 2 * i + j && r.err ≠ 0) = false)) ∧ (b.rangeAllowed sail i (a, 64, false) = true) ∧ (r.2 ≠ 0) ∧ (q.started = 0)) := by decide +kernel

theorem witness_Millstone_6 :
    (let sail := 0; let i := 0; let j := 0; let b : Block := (Block.alone (mstQueue [1, 0x2000, 0x3000, 0x4000, 1 + 1 * 2 ^ 16 + 1 * 2 ^ 32 + 1 * 2 ^ 48 + 1 * 2 ^ 52, 1 + 1 * 2 ^ 20 + 1 * 2 ^ 40, 0, 0x3F800000 + 0x80 * 2 ^ 32 + 0x7F * 2 ^ 40])).start; let q : MstQ := b.mq sail i j; let idx : Nat := (q.head + q.started) % 65536; let p : Nat := b.get MST_BCFG_PART sail i; let a : Nat := b.mstEntry sail i j; let r : Bytes × Nat := (b.mstRead sail p a 64).1; let c : Block := (b.mstRead sail p a 64).2; let ws : List Nat := (List.range 8).map (fun w => leAt (8 * w) 8 r.1); ((b.mstLive sail = true ∧ i < 16 ∧ j < 2 ∧ b.isSet MST_BCFG_EN sail i = true ∧ q.stopped = false ∧ b.qsize sail i j ≠ 0 ∧ idx ≠ q.tail ∧ (b.mst sail).runs.any (fun r => r.q = 2 * i + j && r.err ≠ 0) = false)) ∧ (((b.rangeAllowed sail i (a, 64, false) = true ∧ r.2 = 0 ∧ ¬ (mstOp ws = 0 ∨ 4 < mstOp ws)) ∨ (q.started ≠ 0 ∧ (b.rangeAllowed sail i (a, 64, false) = false ∨ r.2 ≠ 0 ∨ ((mstOp ws = 0 ∨ 4 < mstOp ws) ∧ (c.mstCheck sail i ws ≠ 0 ∨ mstOp ws = 4 ∨ bit (wd ws 0) 8 = false))))))) := by decide +kernel

theorem witness_Millstone_7 :
    (let sail := 0; let i := 0; let j := 0; let b : Block := (Block.alone (mstQueue [9])).start; let q : MstQ := b.mq sail i j; let idx : Nat := (q.head + q.started) % 65536; let p : Nat := b.get MST_BCFG_PART sail i; let a : Nat := b.mstEntry sail i j; let r : Bytes × Nat := (b.mstRead sail p a 64).1; let c : Block := (b.mstRead sail p a 64).2; let ws : List Nat := (List.range 8).map (fun w => leAt (8 * w) 8 r.1); (b.dev ≠ .off) ∧ ((b.mstLive sail = true ∧ i < 16 ∧ j < 2 ∧ b.isSet MST_BCFG_EN sail i = true ∧ q.stopped = false ∧ b.qsize sail i j ≠ 0 ∧ idx ≠ q.tail ∧ (b.mst sail).runs.any (fun r => r.q = 2 * i + j && r.err ≠ 0) = false)) ∧ (b.rangeAllowed sail i (a, 64, false) = true) ∧ (r.2 = 0) ∧ ((mstOp ws = 0 ∨ 4 < mstOp ws)) ∧ (c.mstCheck sail i ws ≠ 0) ∧ (q.started = 0)) := by decide +kernel

theorem witness_Millstone_8 :
    (let sail := 0; let i := 0; let j := 0; let b : Block := (Block.alone (mstQueue [0, 0, 0, 0, 0, 0, 0, 0])).start; let q : MstQ := b.mq sail i j; let idx : Nat := (q.head + q.started) % 65536; let p : Nat := b.get MST_BCFG_PART sail i; let a : Nat := b.mstEntry sail i j; let r : Bytes × Nat := (b.mstRead sail p a 64).1; let c : Block := (b.mstRead sail p a 64).2; let ws : List Nat := (List.range 8).map (fun w => leAt (8 * w) 8 r.1); (b.dev ≠ .off) ∧ ((b.mstLive sail = true ∧ i < 16 ∧ j < 2 ∧ b.isSet MST_BCFG_EN sail i = true ∧ q.stopped = false ∧ b.qsize sail i j ≠ 0 ∧ idx ≠ q.tail ∧ (b.mst sail).runs.any (fun r => r.q = 2 * i + j && r.err ≠ 0) = false)) ∧ (b.rangeAllowed sail i (a, 64, false) = true) ∧ (r.2 = 0) ∧ (mstOp ws = 0) ∧ (c.mstCheck sail i ws = 0) ∧ ((q.started = 0 ∨ bit (wd ws 0) 8 = true))) := by decide +kernel

theorem witness_Millstone_9 :
    (let j : Nat := 0; let i : Nat := 0; let sail : Nat := 0; let b : Block := (Block.alone (base)).start; let q : MstQ := b.mq sail i j; let idx : Nat := (q.head + q.started) % 65536; (¬ (b.mstLive sail = true ∧ i < 16 ∧ j < 2 ∧ b.isSet MST_BCFG_EN sail i = true ∧ q.stopped = false ∧ b.qsize sail i j ≠ 0 ∧ idx ≠ q.tail ∧ (b.mst sail).runs.any (fun r => r.q = 2 * i + j && r.err ≠ 0) = false))) := by decide +kernel

theorem witness_Millstone_10 :
    (let sail := 0; let i := 0; let j := 0; let b : Block := (Block.alone ((mstQueue [0]).put MST_BWIN_R 0 0 0 0)).start; let q : MstQ := b.mq sail i j; let idx : Nat := (q.head + q.started) % 65536; let p : Nat := b.get MST_BCFG_PART sail i; let a : Nat := b.mstEntry sail i j; let r : Bytes × Nat := (b.mstRead sail p a 64).1; let c : Block := (b.mstRead sail p a 64).2; let ws : List Nat := (List.range 8).map (fun w => leAt (8 * w) 8 r.1); (b.dev ≠ .off) ∧ ((b.mstLive sail = true ∧ i < 16 ∧ j < 2 ∧ b.isSet MST_BCFG_EN sail i = true ∧ q.stopped = false ∧ b.qsize sail i j ≠ 0 ∧ idx ≠ q.tail ∧ (b.mst sail).runs.any (fun r => r.q = 2 * i + j && r.err ≠ 0) = false)) ∧ (b.rangeAllowed sail i (a, 64, false) = false) ∧ (q.started = 0)) := by decide +kernel

theorem witness_Millstone_11 :
    (let sail := 0; let i := 0; let j := 0; let b : Block := (Block.alone ((mstQueue [0]).mcWrite 0 0 0x1000 0 true false)).start; let q : MstQ := b.mq sail i j; let idx : Nat := (q.head + q.started) % 65536; let p : Nat := b.get MST_BCFG_PART sail i; let a : Nat := b.mstEntry sail i j; let r : Bytes × Nat := (b.mstRead sail p a 64).1; let c : Block := (b.mstRead sail p a 64).2; let ws : List Nat := (List.range 8).map (fun w => leAt (8 * w) 8 r.1); (b.dev ≠ .off) ∧ ((b.mstLive sail = true ∧ i < 16 ∧ j < 2 ∧ b.isSet MST_BCFG_EN sail i = true ∧ q.stopped = false ∧ b.qsize sail i j ≠ 0 ∧ idx ≠ q.tail ∧ (b.mst sail).runs.any (fun r => r.q = 2 * i + j && r.err ≠ 0) = false)) ∧ (b.rangeAllowed sail i (a, 64, false) = true) ∧ (r.2 ≠ 0) ∧ (q.started = 0)) := by decide +kernel

theorem witness_Millstone_12 :
    (let sail := 0; let i := 0; let j := 0; let b : Block := (Block.alone (mstQueue [2, 0x2000, 0x3000, 0x4000, 1 + 1 * 2 ^ 13 + 1 * 2 ^ 26 + 1 * 2 ^ 38 + 1 * 2 ^ 50 + 1 * 2 ^ 54, 1 + 1 * 2 ^ 4, 0, 0x3F800000 + 0x80 * 2 ^ 32 + 0x7F * 2 ^ 40])).start; let q : MstQ := b.mq sail i j; let idx : Nat := (q.head + q.started) % 65536; let p : Nat := b.get MST_BCFG_PART sail i; let a : Nat := b.mstEntry sail i j; let r : Bytes × Nat := (b.mstRead sail p a 64).1; let c : Block := (b.mstRead sail p a 64).2; let ws : List Nat := (List.range 8).map (fun w => leAt (8 * w) 8 r.1); ((b.mstLive sail = true ∧ i < 16 ∧ j < 2 ∧ b.isSet MST_BCFG_EN sail i = true ∧ q.stopped = false ∧ b.qsize sail i j ≠ 0 ∧ idx ≠ q.tail ∧ (b.mst sail).runs.any (fun r => r.q = 2 * i + j && r.err ≠ 0) = false)) ∧ (((b.rangeAllowed sail i (a, 64, false) = true ∧ r.2 = 0 ∧ ¬ (mstOp ws = 1 ∨ 4 < mstOp ws)) ∨ (q.started ≠ 0 ∧ (b.rangeAllowed sail i (a, 64, false) = false ∨ r.2 ≠ 0 ∨ ((mstOp ws = 1 ∨ 4 < mstOp ws) ∧ (c.mstCheck sail i ws ≠ 0 ∨ mstOp ws = 4 ∨ bit (wd ws 0) 8 = false))))))) := by decide +kernel

theorem witness_Millstone_13 :
    (let sail := 0; let i := 0; let j := 0; let b : Block := (Block.alone (mstQueue [9])).start; let q : MstQ := b.mq sail i j; let idx : Nat := (q.head + q.started) % 65536; let p : Nat := b.get MST_BCFG_PART sail i; let a : Nat := b.mstEntry sail i j; let r : Bytes × Nat := (b.mstRead sail p a 64).1; let c : Block := (b.mstRead sail p a 64).2; let ws : List Nat := (List.range 8).map (fun w => leAt (8 * w) 8 r.1); (b.dev ≠ .off) ∧ ((b.mstLive sail = true ∧ i < 16 ∧ j < 2 ∧ b.isSet MST_BCFG_EN sail i = true ∧ q.stopped = false ∧ b.qsize sail i j ≠ 0 ∧ idx ≠ q.tail ∧ (b.mst sail).runs.any (fun r => r.q = 2 * i + j && r.err ≠ 0) = false)) ∧ (b.rangeAllowed sail i (a, 64, false) = true) ∧ (r.2 = 0) ∧ ((mstOp ws = 1 ∨ 4 < mstOp ws)) ∧ (c.mstCheck sail i ws ≠ 0) ∧ (q.started = 0)) := by decide +kernel

theorem witness_Millstone_14 :
    (let sail := 0; let i := 0; let j := 0; let b : Block := (Block.alone (mstQueue [1, 0x2000, 0x3000, 0x4000, 1 + 1 * 2 ^ 16 + 1 * 2 ^ 32 + 1 * 2 ^ 48 + 1 * 2 ^ 52, 1 + 1 * 2 ^ 20 + 1 * 2 ^ 40, 0, 0x3F800000 + 0x80 * 2 ^ 32 + 0x7F * 2 ^ 40])).start; let q : MstQ := b.mq sail i j; let idx : Nat := (q.head + q.started) % 65536; let p : Nat := b.get MST_BCFG_PART sail i; let a : Nat := b.mstEntry sail i j; let r : Bytes × Nat := (b.mstRead sail p a 64).1; let c : Block := (b.mstRead sail p a 64).2; let ws : List Nat := (List.range 8).map (fun w => leAt (8 * w) 8 r.1); (b.dev ≠ .off) ∧ ((b.mstLive sail = true ∧ i < 16 ∧ j < 2 ∧ b.isSet MST_BCFG_EN sail i = true ∧ q.stopped = false ∧ b.qsize sail i j ≠ 0 ∧ idx ≠ q.tail ∧ (b.mst sail).runs.any (fun r => r.q = 2 * i + j && r.err ≠ 0) = false)) ∧ (b.rangeAllowed sail i (a, 64, false) = true) ∧ (r.2 = 0) ∧ (mstOp ws = 1) ∧ (c.mstCheck sail i ws = 0) ∧ ((q.started = 0 ∨ bit (wd ws 0) 8 = true))) := by decide +kernel

theorem witness_Millstone_15 :
    (let j : Nat := 0; let i : Nat := 0; let sail : Nat := 0; let b : Block := (Block.alone (base)).start; let q : MstQ := b.mq sail i j; let idx : Nat := (q.head + q.started) % 65536; (¬ (b.mstLive sail = true ∧ i < 16 ∧ j < 2 ∧ b.isSet MST_BCFG_EN sail i = true ∧ q.stopped = false ∧ b.qsize sail i j ≠ 0 ∧ idx ≠ q.tail ∧ (b.mst sail).runs.any (fun r => r.q = 2 * i + j && r.err ≠ 0) = false))) := by decide +kernel

theorem witness_Millstone_16 :
    (let sail := 0; let i := 0; let j := 0; let b : Block := (Block.alone ((mstQueue [0]).put MST_BWIN_R 0 0 0 0)).start; let q : MstQ := b.mq sail i j; let idx : Nat := (q.head + q.started) % 65536; let p : Nat := b.get MST_BCFG_PART sail i; let a : Nat := b.mstEntry sail i j; let r : Bytes × Nat := (b.mstRead sail p a 64).1; let c : Block := (b.mstRead sail p a 64).2; let ws : List Nat := (List.range 8).map (fun w => leAt (8 * w) 8 r.1); (b.dev ≠ .off) ∧ ((b.mstLive sail = true ∧ i < 16 ∧ j < 2 ∧ b.isSet MST_BCFG_EN sail i = true ∧ q.stopped = false ∧ b.qsize sail i j ≠ 0 ∧ idx ≠ q.tail ∧ (b.mst sail).runs.any (fun r => r.q = 2 * i + j && r.err ≠ 0) = false)) ∧ (b.rangeAllowed sail i (a, 64, false) = false) ∧ (q.started = 0)) := by decide +kernel

theorem witness_Millstone_17 :
    (let sail := 0; let i := 0; let j := 0; let b : Block := (Block.alone ((mstQueue [0]).mcWrite 0 0 0x1000 0 true false)).start; let q : MstQ := b.mq sail i j; let idx : Nat := (q.head + q.started) % 65536; let p : Nat := b.get MST_BCFG_PART sail i; let a : Nat := b.mstEntry sail i j; let r : Bytes × Nat := (b.mstRead sail p a 64).1; let c : Block := (b.mstRead sail p a 64).2; let ws : List Nat := (List.range 8).map (fun w => leAt (8 * w) 8 r.1); (b.dev ≠ .off) ∧ ((b.mstLive sail = true ∧ i < 16 ∧ j < 2 ∧ b.isSet MST_BCFG_EN sail i = true ∧ q.stopped = false ∧ b.qsize sail i j ≠ 0 ∧ idx ≠ q.tail ∧ (b.mst sail).runs.any (fun r => r.q = 2 * i + j && r.err ≠ 0) = false)) ∧ (b.rangeAllowed sail i (a, 64, false) = true) ∧ (r.2 ≠ 0) ∧ (q.started = 0)) := by decide +kernel

theorem witness_Millstone_18 :
    (let sail := 0; let i := 0; let j := 0; let b : Block := (Block.alone (mstQueue [3, 0x2000, 0x4000, 0, 64 + 1 * 2 ^ 24, 64 + 64 * 2 ^ 32, 0, 0])).start; let q : MstQ := b.mq sail i j; let idx : Nat := (q.head + q.started) % 65536; let p : Nat := b.get MST_BCFG_PART sail i; let a : Nat := b.mstEntry sail i j; let r : Bytes × Nat := (b.mstRead sail p a 64).1; let c : Block := (b.mstRead sail p a 64).2; let ws : List Nat := (List.range 8).map (fun w => leAt (8 * w) 8 r.1); ((b.mstLive sail = true ∧ i < 16 ∧ j < 2 ∧ b.isSet MST_BCFG_EN sail i = true ∧ q.stopped = false ∧ b.qsize sail i j ≠ 0 ∧ idx ≠ q.tail ∧ (b.mst sail).runs.any (fun r => r.q = 2 * i + j && r.err ≠ 0) = false)) ∧ (((b.rangeAllowed sail i (a, 64, false) = true ∧ r.2 = 0 ∧ ¬ (mstOp ws = 2 ∨ 4 < mstOp ws)) ∨ (q.started ≠ 0 ∧ (b.rangeAllowed sail i (a, 64, false) = false ∨ r.2 ≠ 0 ∨ ((mstOp ws = 2 ∨ 4 < mstOp ws) ∧ (c.mstCheck sail i ws ≠ 0 ∨ mstOp ws = 4 ∨ bit (wd ws 0) 8 = false))))))) := by decide +kernel

theorem witness_Millstone_19 :
    (let sail := 0; let i := 0; let j := 0; let b : Block := (Block.alone (mstQueue [9])).start; let q : MstQ := b.mq sail i j; let idx : Nat := (q.head + q.started) % 65536; let p : Nat := b.get MST_BCFG_PART sail i; let a : Nat := b.mstEntry sail i j; let r : Bytes × Nat := (b.mstRead sail p a 64).1; let c : Block := (b.mstRead sail p a 64).2; let ws : List Nat := (List.range 8).map (fun w => leAt (8 * w) 8 r.1); (b.dev ≠ .off) ∧ ((b.mstLive sail = true ∧ i < 16 ∧ j < 2 ∧ b.isSet MST_BCFG_EN sail i = true ∧ q.stopped = false ∧ b.qsize sail i j ≠ 0 ∧ idx ≠ q.tail ∧ (b.mst sail).runs.any (fun r => r.q = 2 * i + j && r.err ≠ 0) = false)) ∧ (b.rangeAllowed sail i (a, 64, false) = true) ∧ (r.2 = 0) ∧ ((mstOp ws = 2 ∨ 4 < mstOp ws)) ∧ (c.mstCheck sail i ws ≠ 0) ∧ (q.started = 0)) := by decide +kernel

end Sys2Proof.Machine
end

