-- ==== Sys2Proof/Tests/Witness2.lean ====
section
/-! SUPPORT. States and operands that meet the hypotheses of each clause of the statements, part 2 of 4: witness_N is for the statement N. -/

set_option maxRecDepth 4000
set_option Elab.async false
set_option linter.unusedVariables false

namespace Sys2Proof.Machine

theorem witness_Millstone_20 :
    (let sail := 0; let i := 0; let j := 0; let b : Block := (Block.alone (mstQueue [2, 0x2000, 0x3000, 0x4000, 1 + 1 * 2 ^ 13 + 1 * 2 ^ 26 + 1 * 2 ^ 38 + 1 * 2 ^ 50 + 1 * 2 ^ 54, 1 + 1 * 2 ^ 4, 0, 0x3F800000 + 0x80 * 2 ^ 32 + 0x7F * 2 ^ 40])).start; let q : MstQ := b.mq sail i j; let idx : Nat := (q.head + q.started) % 65536; let p : Nat := b.get MST_BCFG_PART sail i; let a : Nat := b.mstEntry sail i j; let r : Bytes × Nat := (b.mstRead sail p a 64).1; let c : Block := (b.mstRead sail p a 64).2; let ws : List Nat := (List.range 8).map (fun w => leAt (8 * w) 8 r.1); (b.dev ≠ .off) ∧ ((b.mstLive sail = true ∧ i < 16 ∧ j < 2 ∧ b.isSet MST_BCFG_EN sail i = true ∧ q.stopped = false ∧ b.qsize sail i j ≠ 0 ∧ idx ≠ q.tail ∧ (b.mst sail).runs.any (fun r => r.q = 2 * i + j && r.err ≠ 0) = false)) ∧ (b.rangeAllowed sail i (a, 64, false) = true) ∧ (r.2 = 0) ∧ (mstOp ws = 2) ∧ (c.mstCheck sail i ws = 0) ∧ ((q.started = 0 ∨ bit (wd ws 0) 8 = true))) := by decide +kernel

theorem witness_Millstone_21 :
    (let j : Nat := 0; let i : Nat := 0; let sail : Nat := 0; let b : Block := (Block.alone (base)).start; let q : MstQ := b.mq sail i j; let idx : Nat := (q.head + q.started) % 65536; (¬ (b.mstLive sail = true ∧ i < 16 ∧ j < 2 ∧ b.isSet MST_BCFG_EN sail i = true ∧ q.stopped = false ∧ b.qsize sail i j ≠ 0 ∧ idx ≠ q.tail ∧ (b.mst sail).runs.any (fun r => r.q = 2 * i + j && r.err ≠ 0) = false))) := by decide +kernel

theorem witness_Millstone_22 :
    (let sail := 0; let i := 0; let j := 0; let b : Block := (Block.alone ((mstQueue [0]).put MST_BWIN_R 0 0 0 0)).start; let q : MstQ := b.mq sail i j; let idx : Nat := (q.head + q.started) % 65536; let p : Nat := b.get MST_BCFG_PART sail i; let a : Nat := b.mstEntry sail i j; let r : Bytes × Nat := (b.mstRead sail p a 64).1; let c : Block := (b.mstRead sail p a 64).2; let ws : List Nat := (List.range 8).map (fun w => leAt (8 * w) 8 r.1); (b.dev ≠ .off) ∧ ((b.mstLive sail = true ∧ i < 16 ∧ j < 2 ∧ b.isSet MST_BCFG_EN sail i = true ∧ q.stopped = false ∧ b.qsize sail i j ≠ 0 ∧ idx ≠ q.tail ∧ (b.mst sail).runs.any (fun r => r.q = 2 * i + j && r.err ≠ 0) = false)) ∧ (b.rangeAllowed sail i (a, 64, false) = false) ∧ (q.started = 0)) := by decide +kernel

theorem witness_Millstone_23 :
    (let sail := 0; let i := 0; let j := 0; let b : Block := (Block.alone ((mstQueue [0]).mcWrite 0 0 0x1000 0 true false)).start; let q : MstQ := b.mq sail i j; let idx : Nat := (q.head + q.started) % 65536; let p : Nat := b.get MST_BCFG_PART sail i; let a : Nat := b.mstEntry sail i j; let r : Bytes × Nat := (b.mstRead sail p a 64).1; let c : Block := (b.mstRead sail p a 64).2; let ws : List Nat := (List.range 8).map (fun w => leAt (8 * w) 8 r.1); (b.dev ≠ .off) ∧ ((b.mstLive sail = true ∧ i < 16 ∧ j < 2 ∧ b.isSet MST_BCFG_EN sail i = true ∧ q.stopped = false ∧ b.qsize sail i j ≠ 0 ∧ idx ≠ q.tail ∧ (b.mst sail).runs.any (fun r => r.q = 2 * i + j && r.err ≠ 0) = false)) ∧ (b.rangeAllowed sail i (a, 64, false) = true) ∧ (r.2 ≠ 0) ∧ (q.started = 0)) := by decide +kernel

theorem witness_Millstone_24 :
    (let sail := 0; let i := 0; let j := 0; let b : Block := (Block.alone (mstQueue [4, 0x2000, 7, 0, 0, 0, 0, 0])).start; let q : MstQ := b.mq sail i j; let idx : Nat := (q.head + q.started) % 65536; let p : Nat := b.get MST_BCFG_PART sail i; let a : Nat := b.mstEntry sail i j; let r : Bytes × Nat := (b.mstRead sail p a 64).1; let c : Block := (b.mstRead sail p a 64).2; let ws : List Nat := (List.range 8).map (fun w => leAt (8 * w) 8 r.1); ((b.mstLive sail = true ∧ i < 16 ∧ j < 2 ∧ b.isSet MST_BCFG_EN sail i = true ∧ q.stopped = false ∧ b.qsize sail i j ≠ 0 ∧ idx ≠ q.tail ∧ (b.mst sail).runs.any (fun r => r.q = 2 * i + j && r.err ≠ 0) = false)) ∧ (((b.rangeAllowed sail i (a, 64, false) = true ∧ r.2 = 0 ∧ ¬ (mstOp ws = 3 ∨ 4 < mstOp ws)) ∨ (q.started ≠ 0 ∧ (b.rangeAllowed sail i (a, 64, false) = false ∨ r.2 ≠ 0 ∨ ((mstOp ws = 3 ∨ 4 < mstOp ws) ∧ (c.mstCheck sail i ws ≠ 0 ∨ mstOp ws = 4 ∨ bit (wd ws 0) 8 = false))))))) := by decide +kernel

theorem witness_Millstone_25 :
    (let sail := 0; let i := 0; let j := 0; let b : Block := (Block.alone (mstQueue [9])).start; let q : MstQ := b.mq sail i j; let idx : Nat := (q.head + q.started) % 65536; let p : Nat := b.get MST_BCFG_PART sail i; let a : Nat := b.mstEntry sail i j; let r : Bytes × Nat := (b.mstRead sail p a 64).1; let c : Block := (b.mstRead sail p a 64).2; let ws : List Nat := (List.range 8).map (fun w => leAt (8 * w) 8 r.1); (b.dev ≠ .off) ∧ ((b.mstLive sail = true ∧ i < 16 ∧ j < 2 ∧ b.isSet MST_BCFG_EN sail i = true ∧ q.stopped = false ∧ b.qsize sail i j ≠ 0 ∧ idx ≠ q.tail ∧ (b.mst sail).runs.any (fun r => r.q = 2 * i + j && r.err ≠ 0) = false)) ∧ (b.rangeAllowed sail i (a, 64, false) = true) ∧ (r.2 = 0) ∧ ((mstOp ws = 3 ∨ 4 < mstOp ws)) ∧ (c.mstCheck sail i ws ≠ 0) ∧ (q.started = 0)) := by decide +kernel

theorem witness_Millstone_26 :
    (let sail := 0; let i := 0; let j := 0; let b : Block := (Block.alone (mstQueue [3, 0x2000, 0x4000, 0, 64 + 1 * 2 ^ 24, 64 + 64 * 2 ^ 32, 0, 0])).start; let q : MstQ := b.mq sail i j; let idx : Nat := (q.head + q.started) % 65536; let p : Nat := b.get MST_BCFG_PART sail i; let a : Nat := b.mstEntry sail i j; let r : Bytes × Nat := (b.mstRead sail p a 64).1; let c : Block := (b.mstRead sail p a 64).2; let ws : List Nat := (List.range 8).map (fun w => leAt (8 * w) 8 r.1); let pc : Nat := c.get MST_BCFG_PART sail ((2 * i + j) / 2); let d : Block := (c.beginRun sail (2 * i + j) idx ws 0).charge sail pc (220 * (bits (wd ws 4) 0 23 * bits (wd ws 4) 24 39)); let e : Nat := (d.copyRows sail pc ws (bits (wd ws 4) 24 39) 0).1; let f : Block := (d.copyRows sail pc ws (bits (wd ws 4) 24 39) 0).2; (b.dev ≠ .off) ∧ ((b.mstLive sail = true ∧ i < 16 ∧ j < 2 ∧ b.isSet MST_BCFG_EN sail i = true ∧ q.stopped = false ∧ b.qsize sail i j ≠ 0 ∧ idx ≠ q.tail ∧ (b.mst sail).runs.any (fun r => r.q = 2 * i + j && r.err ≠ 0) = false)) ∧ (b.rangeAllowed sail i (a, 64, false) = true) ∧ (r.2 = 0) ∧ (mstOp ws = 3) ∧ (c.mstCheck sail i ws = 0) ∧ ((q.started = 0 ∨ bit (wd ws 0) 8 = true)) ∧ (e = 0)) := by decide +kernel

theorem witness_Millstone_27 :
    (let sail := 0; let i := 0; let j := 0; let b : Block := (Block.alone ((mstQueue [3, 0x2000, 0x4000, 0, 64 + 1 * 2 ^ 24, 64 + 64 * 2 ^ 32, 0, 0]).mcWrite 0 0 0x2000 0 true false)).start; let q : MstQ := b.mq sail i j; let idx : Nat := (q.head + q.started) % 65536; let p : Nat := b.get MST_BCFG_PART sail i; let a : Nat := b.mstEntry sail i j; let r : Bytes × Nat := (b.mstRead sail p a 64).1; let c : Block := (b.mstRead sail p a 64).2; let ws : List Nat := (List.range 8).map (fun w => leAt (8 * w) 8 r.1); let pc : Nat := c.get MST_BCFG_PART sail ((2 * i + j) / 2); let d : Block := (c.beginRun sail (2 * i + j) idx ws 0).charge sail pc (220 * (bits (wd ws 4) 0 23 * bits (wd ws 4) 24 39)); let e : Nat := (d.copyRows sail pc ws (bits (wd ws 4) 24 39) 0).1; let f : Block := (d.copyRows sail pc ws (bits (wd ws 4) 24 39) 0).2; (b.dev ≠ .off) ∧ ((b.mstLive sail = true ∧ i < 16 ∧ j < 2 ∧ b.isSet MST_BCFG_EN sail i = true ∧ q.stopped = false ∧ b.qsize sail i j ≠ 0 ∧ idx ≠ q.tail ∧ (b.mst sail).runs.any (fun r => r.q = 2 * i + j && r.err ≠ 0) = false)) ∧ (b.rangeAllowed sail i (a, 64, false) = true) ∧ (r.2 = 0) ∧ (mstOp ws = 3) ∧ (c.mstCheck sail i ws = 0) ∧ ((q.started = 0 ∨ bit (wd ws 0) 8 = true)) ∧ (e ≠ 0)) := by decide +kernel

theorem witness_Millstone_28 :
    (let j : Nat := 0; let i : Nat := 0; let sail : Nat := 0; let b : Block := (Block.alone (base)).start; let q : MstQ := b.mq sail i j; let idx : Nat := (q.head + q.started) % 65536; (¬ (b.mstLive sail = true ∧ i < 16 ∧ j < 2 ∧ b.isSet MST_BCFG_EN sail i = true ∧ q.stopped = false ∧ b.qsize sail i j ≠ 0 ∧ idx ≠ q.tail ∧ (b.mst sail).runs.any (fun r => r.q = 2 * i + j && r.err ≠ 0) = false))) := by decide +kernel

theorem witness_Millstone_29 :
    (let sail := 0; let i := 0; let j := 0; let b : Block := (Block.alone ((mstQueue [0]).put MST_BWIN_R 0 0 0 0)).start; let q : MstQ := b.mq sail i j; let idx : Nat := (q.head + q.started) % 65536; let p : Nat := b.get MST_BCFG_PART sail i; let a : Nat := b.mstEntry sail i j; let r : Bytes × Nat := (b.mstRead sail p a 64).1; let c : Block := (b.mstRead sail p a 64).2; let ws : List Nat := (List.range 8).map (fun w => leAt (8 * w) 8 r.1); (b.dev ≠ .off) ∧ ((b.mstLive sail = true ∧ i < 16 ∧ j < 2 ∧ b.isSet MST_BCFG_EN sail i = true ∧ q.stopped = false ∧ b.qsize sail i j ≠ 0 ∧ idx ≠ q.tail ∧ (b.mst sail).runs.any (fun r => r.q = 2 * i + j && r.err ≠ 0) = false)) ∧ (b.rangeAllowed sail i (a, 64, false) = false) ∧ (q.started = 0)) := by decide +kernel

theorem witness_Millstone_30 :
    (let sail := 0; let i := 0; let j := 0; let b : Block := (Block.alone ((mstQueue [0]).mcWrite 0 0 0x1000 0 true false)).start; let q : MstQ := b.mq sail i j; let idx : Nat := (q.head + q.started) % 65536; let p : Nat := b.get MST_BCFG_PART sail i; let a : Nat := b.mstEntry sail i j; let r : Bytes × Nat := (b.mstRead sail p a 64).1; let c : Block := (b.mstRead sail p a 64).2; let ws : List Nat := (List.range 8).map (fun w => leAt (8 * w) 8 r.1); (b.dev ≠ .off) ∧ ((b.mstLive sail = true ∧ i < 16 ∧ j < 2 ∧ b.isSet MST_BCFG_EN sail i = true ∧ q.stopped = false ∧ b.qsize sail i j ≠ 0 ∧ idx ≠ q.tail ∧ (b.mst sail).runs.any (fun r => r.q = 2 * i + j && r.err ≠ 0) = false)) ∧ (b.rangeAllowed sail i (a, 64, false) = true) ∧ (r.2 ≠ 0) ∧ (q.started = 0)) := by decide +kernel

theorem witness_Millstone_31 :
    (let sail := 0; let i := 0; let j := 0; let b : Block := (Block.alone (mstQueue [0, 0, 0, 0, 0, 0, 0, 0])).start; let q : MstQ := b.mq sail i j; let idx : Nat := (q.head + q.started) % 65536; let p : Nat := b.get MST_BCFG_PART sail i; let a : Nat := b.mstEntry sail i j; let r : Bytes × Nat := (b.mstRead sail p a 64).1; let c : Block := (b.mstRead sail p a 64).2; let ws : List Nat := (List.range 8).map (fun w => leAt (8 * w) 8 r.1); ((b.mstLive sail = true ∧ i < 16 ∧ j < 2 ∧ b.isSet MST_BCFG_EN sail i = true ∧ q.stopped = false ∧ b.qsize sail i j ≠ 0 ∧ idx ≠ q.tail ∧ (b.mst sail).runs.any (fun r => r.q = 2 * i + j && r.err ≠ 0) = false)) ∧ (((b.rangeAllowed sail i (a, 64, false) = true ∧ r.2 = 0 ∧ ¬ (mstOp ws = 4 ∨ 4 < mstOp ws)) ∨ (q.started ≠ 0 ∧ (b.rangeAllowed sail i (a, 64, false) = false ∨ r.2 ≠ 0 ∨ ((mstOp ws = 4 ∨ 4 < mstOp ws) ∧ (c.mstCheck sail i ws ≠ 0 ∨ mstOp ws = 4 ∨ bit (wd ws 0) 8 = false))))))) := by decide +kernel

theorem witness_Millstone_32 :
    (let sail := 0; let i := 0; let j := 0; let b : Block := (Block.alone (mstQueue [9])).start; let q : MstQ := b.mq sail i j; let idx : Nat := (q.head + q.started) % 65536; let p : Nat := b.get MST_BCFG_PART sail i; let a : Nat := b.mstEntry sail i j; let r : Bytes × Nat := (b.mstRead sail p a 64).1; let c : Block := (b.mstRead sail p a 64).2; let ws : List Nat := (List.range 8).map (fun w => leAt (8 * w) 8 r.1); (b.dev ≠ .off) ∧ ((b.mstLive sail = true ∧ i < 16 ∧ j < 2 ∧ b.isSet MST_BCFG_EN sail i = true ∧ q.stopped = false ∧ b.qsize sail i j ≠ 0 ∧ idx ≠ q.tail ∧ (b.mst sail).runs.any (fun r => r.q = 2 * i + j && r.err ≠ 0) = false)) ∧ (b.rangeAllowed sail i (a, 64, false) = true) ∧ (r.2 = 0) ∧ ((mstOp ws = 4 ∨ 4 < mstOp ws)) ∧ (c.mstCheck sail i ws ≠ 0) ∧ (q.started = 0)) := by decide +kernel

theorem witness_Millstone_33 :
    (let sail := 0; let i := 0; let j := 0; let b : Block := (Block.alone (mstQueue [4, 0x2000, 7, 0, 0, 0, 0, 0])).start; let q : MstQ := b.mq sail i j; let idx : Nat := (q.head + q.started) % 65536; let p : Nat := b.get MST_BCFG_PART sail i; let a : Nat := b.mstEntry sail i j; let r : Bytes × Nat := (b.mstRead sail p a 64).1; let c : Block := (b.mstRead sail p a 64).2; let ws : List Nat := (List.range 8).map (fun w => leAt (8 * w) 8 r.1); let pc : Nat := c.get MST_BCFG_PART sail ((2 * i + j) / 2); let d : Block := (c.beginRun sail (2 * i + j) idx ws 0).mstWrite sail pc (bits (wd ws 1) 0 47) (leBytes 8 (wd ws 2)) false; (b.dev ≠ .off) ∧ ((b.mstLive sail = true ∧ i < 16 ∧ j < 2 ∧ b.isSet MST_BCFG_EN sail i = true ∧ q.stopped = false ∧ b.qsize sail i j ≠ 0 ∧ idx ≠ q.tail ∧ (b.mst sail).runs.any (fun r => r.q = 2 * i + j && r.err ≠ 0) = false)) ∧ (b.rangeAllowed sail i (a, 64, false) = true) ∧ (r.2 = 0) ∧ (mstOp ws = 4) ∧ (c.mstCheck sail i ws = 0) ∧ (q.started = 0) ∧ (bits (wd ws 3) 0 47 = 0)) := by decide +kernel

theorem witness_Millstone_34 :
    (let sail := 0; let i := 0; let j := 0; let b : Block := (Block.alone (mstQueue [4, 0x2000, 7, 0xE000800000, 5, 0, 0, 0])).start; let q : MstQ := b.mq sail i j; let idx : Nat := (q.head + q.started) % 65536; let p : Nat := b.get MST_BCFG_PART sail i; let a : Nat := b.mstEntry sail i j; let r : Bytes × Nat := (b.mstRead sail p a 64).1; let c : Block := (b.mstRead sail p a 64).2; let ws : List Nat := (List.range 8).map (fun w => leAt (8 * w) 8 r.1); let pc : Nat := c.get MST_BCFG_PART sail ((2 * i + j) / 2); let d : Block := (c.beginRun sail (2 * i + j) idx ws 0).mstWrite sail pc (bits (wd ws 1) 0 47) (leBytes 8 (wd ws 2)) false; (b.dev ≠ .off) ∧ ((b.mstLive sail = true ∧ i < 16 ∧ j < 2 ∧ b.isSet MST_BCFG_EN sail i = true ∧ q.stopped = false ∧ b.qsize sail i j ≠ 0 ∧ idx ≠ q.tail ∧ (b.mst sail).runs.any (fun r => r.q = 2 * i + j && r.err ≠ 0) = false)) ∧ (b.rangeAllowed sail i (a, 64, false) = true) ∧ (r.2 = 0) ∧ (mstOp ws = 4) ∧ (c.mstCheck sail i ws = 0) ∧ (q.started = 0) ∧ (bits (wd ws 3) 0 47 ≠ 0)) := by decide +kernel

theorem witness_Millstone_35 :
    (let sail := 0; let tile := 3; let corrected := true; let bad : List Nat := [9]; let t : Nat × Nat × Nat × Nat := (3, 0, 0, 0); let b : Block := (Block.alone (sail0.modMst 0 fun m => { m with tiles := [(3, 0, 0, 0)] })).start; let c : Block := { b with scr := { b.scr with bad := bad.foldl (fun m l => SMap.set false (sail * 0x20000 + l % 0x20000) true m) b.scr.bad } }; let d : Block := c.when corrected (fun b => b.noteOnce sail { code := 0x1302, mid := some (midMst sail) }); (b.dev ≠ .off) ∧ (b.mstLive sail = true) ∧ (tile < 4) ∧ ((d.mst sail).tiles.find? (fun t => t.1 = tile) = some t)) := by decide +kernel

theorem witness_Millstone_36 :
    (let sail := 0; let tile := 3; let corrected := false; let bad : List Nat := []; let x : Nat × Nat × Nat := (0, 0, 500); let b : Block := (Block.alone (sail0.modMst 0 fun m => { m with spent := [(3, 0, 0, 500)] })).start; let c : Block := { b with scr := { b.scr with bad := bad.foldl (fun m l => SMap.set false (sail * 0x20000 + l % 0x20000) true m) b.scr.bad } }; let d : Block := c.when corrected (fun b => b.noteOnce sail { code := 0x1302, mid := some (midMst sail) }); (b.dev ≠ .off) ∧ (b.mstLive sail = true) ∧ (tile < 4) ∧ ((d.mst sail).tiles.find? (fun t => t.1 = tile) = none) ∧ (List.lookup tile (d.mst sail).spent = some x)) := by decide +kernel

theorem witness_Millstone_37 :
    (let sail := 0; let tile := 0; let corrected := false; let bad : List Nat := []; let b : Block := (Block.alone (sail0)).start; let c : Block := { b with scr := { b.scr with bad := bad.foldl (fun m l => SMap.set false (sail * 0x20000 + l % 0x20000) true m) b.scr.bad } }; let d : Block := c.when corrected (fun b => b.noteOnce sail { code := 0x1302, mid := some (midMst sail) }); (b.dev ≠ .off) ∧ (b.mstLive sail = true) ∧ (tile < 4) ∧ ((d.mst sail).tiles.find? (fun t => t.1 = tile) = none) ∧ (List.lookup tile (d.mst sail).spent = none)) := by decide +kernel

theorem witness_Millstone_38 :
    (let sail := 0; let bind := 0; let queue := 0; let r : MstRun := { q := 0, idx := 0, words := [], blocks := 1 }; let b : Block := (Block.alone (sail0.modMst 0 fun m => { m with runs := [{ q := 0, idx := 0, words := [], blocks := 1 }] })).start; let k : Nat := 2 * bind + queue; let hd : Nat := (b.mq sail bind queue).head; (b.mstRun sail k hd = some r) ∧ ((r.err ≠ 0 ∨ r.fin < r.blocks))) := by decide +kernel

theorem witness_Millstone_39 :
    (let sail := 0; let bind := 0; let queue := 0; let r : MstRun := { q := 0, idx := 0, words := [], blocks := 0 }; let b : Block := (Block.alone (sail0.modMst 0 fun m => { m with runs := [{ q := 0, idx := 0, words := [], blocks := 0 }] })).start; let k : Nat := 2 * bind + queue; let hd : Nat := (b.mq sail bind queue).head; (b.dev ≠ .off) ∧ (queue < 2) ∧ (b.mstRun sail k hd = some r) ∧ (r.err = 0) ∧ (r.blocks ≤ r.fin)) := by decide +kernel

theorem witness_Millstone_40 :
    (let part : Option Nat := none; let sail := 0; let j := 0; let count := 15; let b : Block := (Block.alone (base)).start; (b.dev ≠ .off) ∧ ((b.mstReach sail part = none ∨ 2 ≤ j)))
    ∧ (let sail := 0; let tile := 0; let corrected := true; let bad : List Nat := []; let b : Block := (Block.alone (base)).start; ((b.mstLive sail = false ∨ 4 ≤ tile)))
    ∧ (let queue : Nat := 0; let bind : Nat := 0; let sail : Nat := 0; let b : Block := (Block.alone (base)).start; let k : Nat := 2 * bind + queue; let hd : Nat := (b.mq sail bind queue).head; ((2 ≤ queue ∨ b.mstRun sail k hd = none)))
    ∧ (let j : Nat := 0; let sail : Nat := 0; let part : Option Nat := none; let b : Block := (Block.alone (base)).start; (b.dev ≠ .off) ∧ ((b.mstReach sail part = none ∨ 2 ≤ j)))
    ∧ (let part : Option Nat := some 0; let sail := 0; let j := 0; let i := 0; let b : Block := (Block.alone (mstQueue [0])).start; (b.mstReach sail part = some i) ∧ (j < 2) ∧ ((b.mq sail i j).stopped = false))
    ∧ (let part : Option Nat := some 0; let sail := 0; let j := 0; let i := 0; let b : Block := (Block.alone ((mstQueue [0]).modMq 0 0 0 fun q => { q with stopped := true })).start; (b.dev ≠ .off) ∧ (b.mstReach sail part = some i) ∧ (j < 2) ∧ ((b.mq sail i j).stopped = true)) := by decide +kernel

theorem witness_Millstone_41 :
    (let j : Nat := 0; let sail : Nat := 0; let part : Option Nat := none; let b : Block := (Block.alone (base)).start; (b.dev ≠ .off) ∧ ((b.mstReach sail part = none ∨ 2 ≤ j)))
    ∧ (let part : Option Nat := some 0; let sail := 0; let j := 0; let i := 0; let b : Block := (Block.alone (mstQueue [0])).start; (b.mstReach sail part = some i) ∧ (j < 2) ∧ ((b.mq sail i j).stopped = false))
    ∧ (let part : Option Nat := some 0; let sail := 0; let j := 0; let i := 0; let b : Block := (Block.alone ((mstQueue [0]).modMq 0 0 0 fun q => { q with stopped := true })).start; (b.dev ≠ .off) ∧ (b.mstReach sail part = some i) ∧ (j < 2) ∧ ((b.mq sail i j).stopped = true)) := by decide +kernel

theorem witness_CoherenceRequests :
    (let mid := 17; let part := 0; let txid := 1; let addr := 0x1000; let way := 15; let tc3 := false; let b : Block := (Block.alone ({ sail0 with net := { landed := [.request .rdShared 17 0 1 0x1000 15] } })).start; let q : Block := (b.arrives (.rdShared mid part txid addr way tc3)).2; (b.dev ≠ .off) ∧ ((b.arrives (.rdShared mid part txid addr way tc3)).1 = false)) := by decide +kernel

theorem witness_CoherenceRequests_2 :
    (let mid := 17; let part := 0; let txid := 1; let addr := 0x1000; let way := 15; let tc3 := false; let b : Block := (Block.alone (dramSail.modCoh fun c => { c with waiting := [{ mid := 17, part := 0, txid := 1, kind := .wbDirty, line := 64 }] })).start; let q : Block := (b.arrives (.rdShared mid part txid addr way tc3)).2; (b.dev ≠ .off) ∧ ((b.arrives (.rdShared mid part txid addr way tc3)).1 = true) ∧ (q.speaks mid = true) ∧ ((mid % 32 ≠ 17 ∨ sailOf mid = none ∨ 15 < way ∨ q.txidBusy mid txid addr = true))) := by decide +kernel

theorem witness_CoherenceRequests_3 :
    (let mid := 17; let part := 0; let txid := 1; let addr := 0x1000; let way := 15; let tc3 := false; let b : Block := (Block.alone (sail0)).start; let q : Block := (b.arrives (.rdShared mid part txid addr way tc3)).2; let c : Block := if (q.reqOf mid txid).isNone then q.modCoh (fun c => { c with reqs := c.reqs ++ [{ mid := mid, part := part, txid := txid, kind := .rdShared, line := addr / 64, way := way, tc3 := tc3 }] }) else q.modReq mid txid (fun r => { r with backoff := false, tc3 := tc3 }); let att : Nat := ((c.reqOf mid txid).map (·.attempt)).getD 0; let seen : Option (Nat × Nat × Nat) := c.coh.entered.find? (fun e => e.1 = mid && e.2.1 = addr / 64); let d : Block := c.modCoh (fun c => { c with entered := match seen with | some e => listErase e c.entered | none => c.entered }); (b.dev ≠ .off) ∧ ((b.arrives (.rdShared mid part txid addr way tc3)).1 = true) ∧ (q.speaks mid = true) ∧ (¬ (mid % 32 ≠ 17 ∨ sailOf mid = none ∨ 15 < way ∨ q.txidBusy mid txid addr = true)) ∧ (d.dramOk (addr / 64 * 64) = false)) := by decide +kernel

theorem witness_CoherenceRequests_4 :
    (let mid := 17; let part := 0; let txid := 1; let addr := 0x1000; let way := 15; let tc3 := false; let own := 1; let b : Block := (Block.alone (privSail 1)).start; let q : Block := (b.arrives (.rdShared mid part txid addr way tc3)).2; let c : Block := if (q.reqOf mid txid).isNone then q.modCoh (fun c => { c with reqs := c.reqs ++ [{ mid := mid, part := part, txid := txid, kind := .rdShared, line := addr / 64, way := way, tc3 := tc3 }] }) else q.modReq mid txid (fun r => { r with backoff := false, tc3 := tc3 }); let att : Nat := ((c.reqOf mid txid).map (·.attempt)).getD 0; let seen : Option (Nat × Nat × Nat) := c.coh.entered.find? (fun e => e.1 = mid && e.2.1 = addr / 64); let d : Block := c.modCoh (fun c => { c with entered := match seen with | some e => listErase e c.entered | none => c.entered }); (b.dev ≠ .off) ∧ ((b.arrives (.rdShared mid part txid addr way tc3)).1 = true) ∧ (q.speaks mid = true) ∧ (¬ (mid % 32 ≠ 17 ∨ sailOf mid = none ∨ 15 < way ∨ q.txidBusy mid txid addr = true)) ∧ (d.dramOk (addr / 64 * 64) = true) ∧ (d.privOwner (addr / 64 * 64) = some own) ∧ (privAllowed own mid .rdShared = false)) := by decide +kernel

theorem witness_CoherenceRequests_5 :
    (let mid := 17; let part := 0; let txid := 1; let addr := 0x1000; let way := 15; let tc3 := false; let b : Block := (Block.alone (dramSail)).start; let q : Block := (b.arrives (.rdShared mid part txid addr way tc3)).2; let c : Block := if (q.reqOf mid txid).isNone then q.modCoh (fun c => { c with reqs := c.reqs ++ [{ mid := mid, part := part, txid := txid, kind := .rdShared, line := addr / 64, way := way, tc3 := tc3 }] }) else q.modReq mid txid (fun r => { r with backoff := false, tc3 := tc3 }); let att : Nat := ((c.reqOf mid txid).map (·.attempt)).getD 0; let seen : Option (Nat × Nat × Nat) := c.coh.entered.find? (fun e => e.1 = mid && e.2.1 = addr / 64); let d : Block := c.modCoh (fun c => { c with entered := match seen with | some e => listErase e c.entered | none => c.entered }); (b.dev ≠ .off) ∧ ((b.arrives (.rdShared mid part txid addr way tc3)).1 = true) ∧ (q.speaks mid = true) ∧ (¬ (mid % 32 ≠ 17 ∨ sailOf mid = none ∨ 15 < way ∨ q.txidBusy mid txid addr = true)) ∧ (d.dramOk (addr / 64 * 64) = true) ∧ ((match d.privOwner (addr / 64 * 64) with | some own => privAllowed own mid .rdShared | none => true) = true)) := by decide +kernel

theorem witness_CoherenceRequests_6 :
    (let mid := 17; let part := 0; let txid := 1; let addr := 0x1000; let way := 0; let tc3 := true; let b : Block := (Block.alone ({ sail0 with net := { landed := [.request .rdUnique 17 0 1 0x1000 0] } })).start; let q : Block := (b.arrives (.rdUnique mid part txid addr way tc3)).2; (b.dev ≠ .off) ∧ ((b.arrives (.rdUnique mid part txid addr way tc3)).1 = false)) := by decide +kernel

theorem witness_CoherenceRequests_7 :
    (let mid := 17; let part := 0; let txid := 1; let addr := 0x1000; let way := 0; let tc3 := true; let b : Block := (Block.alone (dramSail.modCoh fun c => { c with waiting := [{ mid := 17, part := 0, txid := 1, kind := .wbDirty, line := 64 }] })).start; let q : Block := (b.arrives (.rdUnique mid part txid addr way tc3)).2; (b.dev ≠ .off) ∧ ((b.arrives (.rdUnique mid part txid addr way tc3)).1 = true) ∧ (q.speaks mid = true) ∧ ((mid % 32 ≠ 17 ∨ sailOf mid = none ∨ 15 < way ∨ q.txidBusy mid txid addr = true))) := by decide +kernel

theorem witness_CoherenceRequests_8 :
    (let mid := 17; let part := 0; let txid := 1; let addr := 0x1000; let way := 0; let tc3 := true; let b : Block := (Block.alone (sail0)).start; let q : Block := (b.arrives (.rdUnique mid part txid addr way tc3)).2; let c : Block := if (q.reqOf mid txid).isNone then q.modCoh (fun c => { c with reqs := c.reqs ++ [{ mid := mid, part := part, txid := txid, kind := .rdUnique, line := addr / 64, way := way, tc3 := tc3 }] }) else q.modReq mid txid (fun r => { r with backoff := false, tc3 := tc3 }); let att : Nat := ((c.reqOf mid txid).map (·.attempt)).getD 0; let seen : Option (Nat × Nat × Nat) := c.coh.entered.find? (fun e => e.1 = mid && e.2.1 = addr / 64); let d : Block := c.modCoh (fun c => { c with entered := match seen with | some e => listErase e c.entered | none => c.entered }); (b.dev ≠ .off) ∧ ((b.arrives (.rdUnique mid part txid addr way tc3)).1 = true) ∧ (q.speaks mid = true) ∧ (¬ (mid % 32 ≠ 17 ∨ sailOf mid = none ∨ 15 < way ∨ q.txidBusy mid txid addr = true)) ∧ (d.dramOk (addr / 64 * 64) = false)) := by decide +kernel

theorem witness_CoherenceRequests_9 :
    (let mid := 17; let part := 0; let txid := 1; let addr := 0x1000; let way := 0; let tc3 := true; let own := 1; let b : Block := (Block.alone (privSail 1)).start; let q : Block := (b.arrives (.rdUnique mid part txid addr way tc3)).2; let c : Block := if (q.reqOf mid txid).isNone then q.modCoh (fun c => { c with reqs := c.reqs ++ [{ mid := mid, part := part, txid := txid, kind := .rdUnique, line := addr / 64, way := way, tc3 := tc3 }] }) else q.modReq mid txid (fun r => { r with backoff := false, tc3 := tc3 }); let att : Nat := ((c.reqOf mid txid).map (·.attempt)).getD 0; let seen : Option (Nat × Nat × Nat) := c.coh.entered.find? (fun e => e.1 = mid && e.2.1 = addr / 64); let d : Block := c.modCoh (fun c => { c with entered := match seen with | some e => listErase e c.entered | none => c.entered }); (b.dev ≠ .off) ∧ ((b.arrives (.rdUnique mid part txid addr way tc3)).1 = true) ∧ (q.speaks mid = true) ∧ (¬ (mid % 32 ≠ 17 ∨ sailOf mid = none ∨ 15 < way ∨ q.txidBusy mid txid addr = true)) ∧ (d.dramOk (addr / 64 * 64) = true) ∧ (d.privOwner (addr / 64 * 64) = some own) ∧ (privAllowed own mid .rdUnique = false)) := by decide +kernel

theorem witness_CoherenceRequests_10 :
    (let mid := 17; let part := 0; let txid := 1; let addr := 0x1000; let way := 0; let tc3 := true; let b : Block := (Block.alone (dramSail)).start; let q : Block := (b.arrives (.rdUnique mid part txid addr way tc3)).2; let c : Block := if (q.reqOf mid txid).isNone then q.modCoh (fun c => { c with reqs := c.reqs ++ [{ mid := mid, part := part, txid := txid, kind := .rdUnique, line := addr / 64, way := way, tc3 := tc3 }] }) else q.modReq mid txid (fun r => { r with backoff := false, tc3 := tc3 }); let att : Nat := ((c.reqOf mid txid).map (·.attempt)).getD 0; let seen : Option (Nat × Nat × Nat) := c.coh.entered.find? (fun e => e.1 = mid && e.2.1 = addr / 64); let d : Block := c.modCoh (fun c => { c with entered := match seen with | some e => listErase e c.entered | none => c.entered }); (b.dev ≠ .off) ∧ ((b.arrives (.rdUnique mid part txid addr way tc3)).1 = true) ∧ (q.speaks mid = true) ∧ (¬ (mid % 32 ≠ 17 ∨ sailOf mid = none ∨ 15 < way ∨ q.txidBusy mid txid addr = true)) ∧ (d.dramOk (addr / 64 * 64) = true) ∧ ((match d.privOwner (addr / 64 * 64) with | some own => privAllowed own mid .rdUnique | none => true) = true)) := by decide +kernel

theorem witness_CoherenceRequests_11 :
    (let mid := 17; let part := 0; let txid := 1; let addr := 0x1000; let b : Block := (Block.alone (base)).start; let q : Block := (b.arrives (.upgradeReq mid part txid addr)).2; let w : Nat := match q.reqOf mid txid, sailOf mid with | some r, _ => r.way | none, some n => q.filtWay (addr / 64) n | none, none => 0; (b.dev ≠ .off) ∧ ((b.arrives (.upgradeReq mid part txid addr)).1 = true) ∧ (q.speaks mid = false)) := by decide +kernel

theorem witness_CoherenceRequests_12 :
    (let mid := 17; let part := 0; let txid := 1; let addr := 0x1000; let b : Block := (Block.alone (dramSail.modCoh fun c => { c with waiting := [{ mid := 17, part := 0, txid := 1, kind := .wbDirty, line := 64 }] })).start; let q : Block := (b.arrives (.upgradeReq mid part txid addr)).2; let w : Nat := match q.reqOf mid txid, sailOf mid with | some r, _ => r.way | none, some n => q.filtWay (addr / 64) n | none, none => 0; (b.dev ≠ .off) ∧ ((b.arrives (.upgradeReq mid part txid addr)).1 = true) ∧ (q.speaks mid = true) ∧ ((mid % 32 ≠ 17 ∨ sailOf mid = none ∨ 15 < w ∨ q.txidBusy mid txid addr = true))) := by decide +kernel

theorem witness_CoherenceRequests_13 :
    (let mid := 17; let part := 0; let txid := 1; let addr := 0x1000; let b : Block := (Block.alone (sail0)).start; let q : Block := (b.arrives (.upgradeReq mid part txid addr)).2; let w : Nat := match q.reqOf mid txid, sailOf mid with | some r, _ => r.way | none, some n => q.filtWay (addr / 64) n | none, none => 0; let c : Block := if (q.reqOf mid txid).isNone then q.modCoh (fun c => { c with reqs := c.reqs ++ [{ mid := mid, part := part, txid := txid, kind := .upgrade, line := addr / 64, way := w, tc3 := false }] }) else q.modReq mid txid (fun r => { r with backoff := false, tc3 := false }); let att : Nat := ((c.reqOf mid txid).map (·.attempt)).getD 0; let seen : Option (Nat × Nat × Nat) := c.coh.entered.find? (fun e => e.1 = mid && e.2.1 = addr / 64); let d : Block := c.modCoh (fun c => { c with entered := match seen with | some e => listErase e c.entered | none => c.entered }); (b.dev ≠ .off) ∧ ((b.arrives (.upgradeReq mid part txid addr)).1 = true) ∧ (q.speaks mid = true) ∧ (¬ (mid % 32 ≠ 17 ∨ sailOf mid = none ∨ 15 < w ∨ q.txidBusy mid txid addr = true)) ∧ (d.dramOk (addr / 64 * 64) = false)) := by decide +kernel

theorem witness_CoherenceRequests_14 :
    (let mid := 17; let part := 0; let txid := 1; let addr := 0x1000; let own := 1; let b : Block := (Block.alone (privSail 1)).start; let q : Block := (b.arrives (.upgradeReq mid part txid addr)).2; let w : Nat := match q.reqOf mid txid, sailOf mid with | some r, _ => r.way | none, some n => q.filtWay (addr / 64) n | none, none => 0; let c : Block := if (q.reqOf mid txid).isNone then q.modCoh (fun c => { c with reqs := c.reqs ++ [{ mid := mid, part := part, txid := txid, kind := .upgrade, line := addr / 64, way := w, tc3 := false }] }) else q.modReq mid txid (fun r => { r with backoff := false, tc3 := false }); let att : Nat := ((c.reqOf mid txid).map (·.attempt)).getD 0; let seen : Option (Nat × Nat × Nat) := c.coh.entered.find? (fun e => e.1 = mid && e.2.1 = addr / 64); let d : Block := c.modCoh (fun c => { c with entered := match seen with | some e => listErase e c.entered | none => c.entered }); (b.dev ≠ .off) ∧ ((b.arrives (.upgradeReq mid part txid addr)).1 = true) ∧ (q.speaks mid = true) ∧ (¬ (mid % 32 ≠ 17 ∨ sailOf mid = none ∨ 15 < w ∨ q.txidBusy mid txid addr = true)) ∧ (d.dramOk (addr / 64 * 64) = true) ∧ (d.privOwner (addr / 64 * 64) = some own) ∧ (privAllowed own mid .upgrade = false)) := by decide +kernel

theorem witness_CoherenceRequests_15 :
    (let mid := 17; let part := 0; let txid := 1; let addr := 0x1000; let b : Block := (Block.alone (dramSail)).start; let q : Block := (b.arrives (.upgradeReq mid part txid addr)).2; let w : Nat := match q.reqOf mid txid, sailOf mid with | some r, _ => r.way | none, some n => q.filtWay (addr / 64) n | none, none => 0; let c : Block := if (q.reqOf mid txid).isNone then q.modCoh (fun c => { c with reqs := c.reqs ++ [{ mid := mid, part := part, txid := txid, kind := .upgrade, line := addr / 64, way := w, tc3 := false }] }) else q.modReq mid txid (fun r => { r with backoff := false, tc3 := false }); let att : Nat := ((c.reqOf mid txid).map (·.attempt)).getD 0; let seen : Option (Nat × Nat × Nat) := c.coh.entered.find? (fun e => e.1 = mid && e.2.1 = addr / 64); let d : Block := c.modCoh (fun c => { c with entered := match seen with | some e => listErase e c.entered | none => c.entered }); (b.dev ≠ .off) ∧ ((b.arrives (.upgradeReq mid part txid addr)).1 = true) ∧ (q.speaks mid = true) ∧ (¬ (mid % 32 ≠ 17 ∨ sailOf mid = none ∨ 15 < w ∨ q.txidBusy mid txid addr = true)) ∧ (d.dramOk (addr / 64 * 64) = true) ∧ ((match d.privOwner (addr / 64 * 64) with | some own => privAllowed own mid .upgrade | none => true) = true)) := by decide +kernel

theorem witness_CoherenceRequests_16 :
    (let mid := 17; let part := 0; let txid := 1; let addr := 0x1000; let b : Block := (Block.alone (dramSail.modCoh fun c => { c with waiting := [{ mid := 17, part := 0, txid := 1, kind := .wbDirty, line := 64 }] })).start; let q : Block := (b.arrives (.dirtyNote mid part txid addr)).2; (b.dev ≠ .off) ∧ ((b.arrives (.dirtyNote mid part txid addr)).1 = true) ∧ (q.speaks mid = true) ∧ ((mid % 32 ≠ 17 ∨ sailOf mid = none ∨ 15 < 0 ∨ q.txidBusy mid txid addr = true))) := by decide +kernel

theorem witness_CoherenceRequests_17 :
    (let mid := 17; let part := 0; let txid := 1; let addr := 0x1000; let b : Block := (Block.alone (sail0)).start; let q : Block := (b.arrives (.dirtyNote mid part txid addr)).2; let c : Block := if (q.reqOf mid txid).isNone then q.modCoh (fun c => { c with reqs := c.reqs ++ [{ mid := mid, part := part, txid := txid, kind := .dirtyNote, line := addr / 64, way := 0, tc3 := false }] }) else q.modReq mid txid (fun r => { r with backoff := false, tc3 := false }); let att : Nat := ((c.reqOf mid txid).map (·.attempt)).getD 0; let seen : Option (Nat × Nat × Nat) := c.coh.entered.find? (fun e => e.1 = mid && e.2.1 = addr / 64); let d : Block := c.modCoh (fun c => { c with entered := match seen with | some e => listErase e c.entered | none => c.entered }); (b.dev ≠ .off) ∧ ((b.arrives (.dirtyNote mid part txid addr)).1 = true) ∧ (q.speaks mid = true) ∧ (¬ (mid % 32 ≠ 17 ∨ sailOf mid = none ∨ 15 < 0 ∨ q.txidBusy mid txid addr = true)) ∧ (d.dramOk (addr / 64 * 64) = false)) := by decide +kernel

theorem witness_CoherenceRequests_18 :
    (let mid := 17; let part := 0; let txid := 1; let addr := 0x1000; let own := 1; let b : Block := (Block.alone (privSail 1)).start; let q : Block := (b.arrives (.dirtyNote mid part txid addr)).2; let c : Block := if (q.reqOf mid txid).isNone then q.modCoh (fun c => { c with reqs := c.reqs ++ [{ mid := mid, part := part, txid := txid, kind := .dirtyNote, line := addr / 64, way := 0, tc3 := false }] }) else q.modReq mid txid (fun r => { r with backoff := false, tc3 := false }); let att : Nat := ((c.reqOf mid txid).map (·.attempt)).getD 0; let seen : Option (Nat × Nat × Nat) := c.coh.entered.find? (fun e => e.1 = mid && e.2.1 = addr / 64); let d : Block := c.modCoh (fun c => { c with entered := match seen with | some e => listErase e c.entered | none => c.entered }); (b.dev ≠ .off) ∧ ((b.arrives (.dirtyNote mid part txid addr)).1 = true) ∧ (q.speaks mid = true) ∧ (¬ (mid % 32 ≠ 17 ∨ sailOf mid = none ∨ 15 < 0 ∨ q.txidBusy mid txid addr = true)) ∧ (d.dramOk (addr / 64 * 64) = true) ∧ (d.privOwner (addr / 64 * 64) = some own) ∧ (privAllowed own mid .dirtyNote = false)) := by decide +kernel

theorem witness_CoherenceRequests_19 :
    (let mid := 17; let part := 0; let txid := 1; let addr := 0x1000; let b : Block := (Block.alone (dramSail)).start; let q : Block := (b.arrives (.dirtyNote mid part txid addr)).2; let c : Block := if (q.reqOf mid txid).isNone then q.modCoh (fun c => { c with reqs := c.reqs ++ [{ mid := mid, part := part, txid := txid, kind := .dirtyNote, line := addr / 64, way := 0, tc3 := false }] }) else q.modReq mid txid (fun r => { r with backoff := false, tc3 := false }); let att : Nat := ((c.reqOf mid txid).map (·.attempt)).getD 0; let seen : Option (Nat × Nat × Nat) := c.coh.entered.find? (fun e => e.1 = mid && e.2.1 = addr / 64); let d : Block := c.modCoh (fun c => { c with entered := match seen with | some e => listErase e c.entered | none => c.entered }); (b.dev ≠ .off) ∧ ((b.arrives (.dirtyNote mid part txid addr)).1 = true) ∧ (q.speaks mid = true) ∧ (¬ (mid % 32 ≠ 17 ∨ sailOf mid = none ∨ 15 < 0 ∨ q.txidBusy mid txid addr = true)) ∧ (d.dramOk (addr / 64 * 64) = true) ∧ ((match d.privOwner (addr / 64 * 64) with | some own => privAllowed own mid .dirtyNote | none => true) = true)) := by decide +kernel

theorem witness_CoherenceRequests_20 :
    (let mid := 17; let part := 0; let txid := 1; let addr := 0x1000; let way := 15; let tc3 := false; let b : Block := (Block.alone (base)).start; let q : Block := (b.arrives (.rdShared mid part txid addr way tc3)).2; (b.dev ≠ .off) ∧ ((b.arrives (.rdShared mid part txid addr way tc3)).1 = true) ∧ (q.speaks mid = false))
    ∧ (let mid := 17; let part := 0; let txid := 1; let addr := 0x1000; let way := 0; let tc3 := true; let b : Block := (Block.alone (base)).start; let q : Block := (b.arrives (.rdUnique mid part txid addr way tc3)).2; (b.dev ≠ .off) ∧ ((b.arrives (.rdUnique mid part txid addr way tc3)).1 = true) ∧ (q.speaks mid = false))
    ∧ (let mid := 17; let part := 0; let txid := 1; let addr := 0x1000; let b : Block := (Block.alone ({ sail0 with net := { landed := [.request .upgrade 17 0 1 0x1000 0] } })).start; let q : Block := (b.arrives (.upgradeReq mid part txid addr)).2; (b.dev ≠ .off) ∧ ((b.arrives (.upgradeReq mid part txid addr)).1 = false))
    ∧ (let mid := 17; let part := 0; let txid := 1; let addr := 0x1000; let b : Block := (Block.alone ({ sail0 with net := { landed := [.request .dirtyNote 17 0 1 0x1000 0] } })).start; let q : Block := (b.arrives (.dirtyNote mid part txid addr)).2; (b.dev ≠ .off) ∧ ((b.arrives (.dirtyNote mid part txid addr)).1 = false))
    ∧ (let mid := 17; let part := 0; let txid := 1; let addr := 0x1000; let b : Block := (Block.alone (base)).start; let q : Block := (b.arrives (.dirtyNote mid part txid addr)).2; (b.dev ≠ .off) ∧ ((b.arrives (.dirtyNote mid part txid addr)).1 = true) ∧ (q.speaks mid = false))
    ∧ (let mid := 17; let part := 0; let txid := 1; let addr := 0x1000; let b : Block := (Block.alone ({ sail0 with net := { landed := [.request .wbDirty 17 0 1 0x1000 0] } })).start; let q : Block := (b.arrives (.wbDirty mid part txid addr)).2; (b.dev ≠ .off) ∧ ((b.arrives (.wbDirty mid part txid addr)).1 = false)) := by decide +kernel

theorem witness_CoherenceRequests_21 :
    (let mid := 17; let part := 0; let txid := 1; let addr := 0x1000; let b : Block := (Block.alone (dramSail.modCoh fun c => { c with waiting := [{ mid := 17, part := 0, txid := 1, kind := .wbDirty, line := 64 }] })).start; let q : Block := (b.arrives (.wbDirty mid part txid addr)).2; (b.dev ≠ .off) ∧ ((b.arrives (.wbDirty mid part txid addr)).1 = true) ∧ (q.speaks mid = true) ∧ ((mid % 32 ≠ 17 ∨ sailOf mid = none ∨ 15 < 0 ∨ q.txidBusy mid txid addr = true))) := by decide +kernel

theorem witness_CoherenceRequests_22 :
    (let mid := 17; let part := 0; let txid := 1; let addr := 0x1000; let b : Block := (Block.alone (sail0)).start; let q : Block := (b.arrives (.wbDirty mid part txid addr)).2; let c : Block := if (q.reqOf mid txid).isNone then q.modCoh (fun c => { c with reqs := c.reqs ++ [{ mid := mid, part := part, txid := txid, kind := .wbDirty, line := addr / 64, way := 0, tc3 := false }] }) else q.modReq mid txid (fun r => { r with backoff := false, tc3 := false }); let att : Nat := ((c.reqOf mid txid).map (·.attempt)).getD 0; let seen : Option (Nat × Nat × Nat) := c.coh.entered.find? (fun e => e.1 = mid && e.2.1 = addr / 64); let d : Block := c.modCoh (fun c => { c with entered := match seen with | some e => listErase e c.entered | none => c.entered }); (b.dev ≠ .off) ∧ ((b.arrives (.wbDirty mid part txid addr)).1 = true) ∧ (q.speaks mid = true) ∧ (¬ (mid % 32 ≠ 17 ∨ sailOf mid = none ∨ 15 < 0 ∨ q.txidBusy mid txid addr = true)) ∧ (d.dramOk (addr / 64 * 64) = false)) := by decide +kernel

theorem witness_CoherenceRequests_23 :
    (let mid := 17; let part := 0; let txid := 1; let addr := 0x1000; let own := 1; let b : Block := (Block.alone (privSail 1)).start; let q : Block := (b.arrives (.wbDirty mid part txid addr)).2; let c : Block := if (q.reqOf mid txid).isNone then q.modCoh (fun c => { c with reqs := c.reqs ++ [{ mid := mid, part := part, txid := txid, kind := .wbDirty, line := addr / 64, way := 0, tc3 := false }] }) else q.modReq mid txid (fun r => { r with backoff := false, tc3 := false }); let att : Nat := ((c.reqOf mid txid).map (·.attempt)).getD 0; let seen : Option (Nat × Nat × Nat) := c.coh.entered.find? (fun e => e.1 = mid && e.2.1 = addr / 64); let d : Block := c.modCoh (fun c => { c with entered := match seen with | some e => listErase e c.entered | none => c.entered }); (b.dev ≠ .off) ∧ ((b.arrives (.wbDirty mid part txid addr)).1 = true) ∧ (q.speaks mid = true) ∧ (¬ (mid % 32 ≠ 17 ∨ sailOf mid = none ∨ 15 < 0 ∨ q.txidBusy mid txid addr = true)) ∧ (d.dramOk (addr / 64 * 64) = true) ∧ (d.privOwner (addr / 64 * 64) = some own) ∧ (privAllowed own mid .wbDirty = false)) := by decide +kernel

theorem witness_CoherenceRequests_24 :
    (let mid := 17; let part := 0; let txid := 1; let addr := 0x1000; let b : Block := (Block.alone (dramSail)).start; let q : Block := (b.arrives (.wbDirty mid part txid addr)).2; let c : Block := if (q.reqOf mid txid).isNone then q.modCoh (fun c => { c with reqs := c.reqs ++ [{ mid := mid, part := part, txid := txid, kind := .wbDirty, line := addr / 64, way := 0, tc3 := false }] }) else q.modReq mid txid (fun r => { r with backoff := false, tc3 := false }); let att : Nat := ((c.reqOf mid txid).map (·.attempt)).getD 0; let seen : Option (Nat × Nat × Nat) := c.coh.entered.find? (fun e => e.1 = mid && e.2.1 = addr / 64); let d : Block := c.modCoh (fun c => { c with entered := match seen with | some e => listErase e c.entered | none => c.entered }); (b.dev ≠ .off) ∧ ((b.arrives (.wbDirty mid part txid addr)).1 = true) ∧ (q.speaks mid = true) ∧ (¬ (mid % 32 ≠ 17 ∨ sailOf mid = none ∨ 15 < 0 ∨ q.txidBusy mid txid addr = true)) ∧ (d.dramOk (addr / 64 * 64) = true) ∧ ((match d.privOwner (addr / 64 * 64) with | some own => privAllowed own mid .wbDirty | none => true) = true)) := by decide +kernel

theorem witness_CoherenceRequests_25 :
    (let mid := 17; let part := 0; let txid := 1; let addr := 0x1000; let b : Block := (Block.alone (dramSail.modCoh fun c => { c with waiting := [{ mid := 17, part := 0, txid := 1, kind := .wbDirty, line := 64 }] })).start; let q : Block := (b.arrives (.evictClean mid part txid addr)).2; (b.dev ≠ .off) ∧ ((b.arrives (.evictClean mid part txid addr)).1 = true) ∧ (q.speaks mid = true) ∧ ((mid % 32 ≠ 17 ∨ sailOf mid = none ∨ 15 < 0 ∨ q.txidBusy mid txid addr = true))) := by decide +kernel

theorem witness_CoherenceRequests_26 :
    (let mid := 17; let part := 0; let txid := 1; let addr := 0x1000; let b : Block := (Block.alone (sail0)).start; let q : Block := (b.arrives (.evictClean mid part txid addr)).2; let c : Block := if (q.reqOf mid txid).isNone then q.modCoh (fun c => { c with reqs := c.reqs ++ [{ mid := mid, part := part, txid := txid, kind := .evictClean, line := addr / 64, way := 0, tc3 := false }] }) else q.modReq mid txid (fun r => { r with backoff := false, tc3 := false }); let att : Nat := ((c.reqOf mid txid).map (·.attempt)).getD 0; let seen : Option (Nat × Nat × Nat) := c.coh.entered.find? (fun e => e.1 = mid && e.2.1 = addr / 64); let d : Block := c.modCoh (fun c => { c with entered := match seen with | some e => listErase e c.entered | none => c.entered }); (b.dev ≠ .off) ∧ ((b.arrives (.evictClean mid part txid addr)).1 = true) ∧ (q.speaks mid = true) ∧ (¬ (mid % 32 ≠ 17 ∨ sailOf mid = none ∨ 15 < 0 ∨ q.txidBusy mid txid addr = true)) ∧ (d.dramOk (addr / 64 * 64) = false)) := by decide +kernel

theorem witness_CoherenceRequests_27 :
    (let mid := 17; let part := 0; let txid := 1; let addr := 0x1000; let own := 1; let b : Block := (Block.alone (privSail 1)).start; let q : Block := (b.arrives (.evictClean mid part txid addr)).2; let c : Block := if (q.reqOf mid txid).isNone then q.modCoh (fun c => { c with reqs := c.reqs ++ [{ mid := mid, part := part, txid := txid, kind := .evictClean, line := addr / 64, way := 0, tc3 := false }] }) else q.modReq mid txid (fun r => { r with backoff := false, tc3 := false }); let att : Nat := ((c.reqOf mid txid).map (·.attempt)).getD 0; let seen : Option (Nat × Nat × Nat) := c.coh.entered.find? (fun e => e.1 = mid && e.2.1 = addr / 64); let d : Block := c.modCoh (fun c => { c with entered := match seen with | some e => listErase e c.entered | none => c.entered }); (b.dev ≠ .off) ∧ ((b.arrives (.evictClean mid part txid addr)).1 = true) ∧ (q.speaks mid = true) ∧ (¬ (mid % 32 ≠ 17 ∨ sailOf mid = none ∨ 15 < 0 ∨ q.txidBusy mid txid addr = true)) ∧ (d.dramOk (addr / 64 * 64) = true) ∧ (d.privOwner (addr / 64 * 64) = some own) ∧ (privAllowed own mid .evictClean = false)) := by decide +kernel

theorem witness_CoherenceRequests_28 :
    (let mid := 17; let part := 0; let txid := 1; let addr := 0x1000; let b : Block := (Block.alone (dramSail)).start; let q : Block := (b.arrives (.evictClean mid part txid addr)).2; let c : Block := if (q.reqOf mid txid).isNone then q.modCoh (fun c => { c with reqs := c.reqs ++ [{ mid := mid, part := part, txid := txid, kind := .evictClean, line := addr / 64, way := 0, tc3 := false }] }) else q.modReq mid txid (fun r => { r with backoff := false, tc3 := false }); let att : Nat := ((c.reqOf mid txid).map (·.attempt)).getD 0; let seen : Option (Nat × Nat × Nat) := c.coh.entered.find? (fun e => e.1 = mid && e.2.1 = addr / 64); let d : Block := c.modCoh (fun c => { c with entered := match seen with | some e => listErase e c.entered | none => c.entered }); (b.dev ≠ .off) ∧ ((b.arrives (.evictClean mid part txid addr)).1 = true) ∧ (q.speaks mid = true) ∧ (¬ (mid % 32 ≠ 17 ∨ sailOf mid = none ∨ 15 < 0 ∨ q.txidBusy mid txid addr = true)) ∧ (d.dramOk (addr / 64 * 64) = true) ∧ ((match d.privOwner (addr / 64 * 64) with | some own => privAllowed own mid .evictClean | none => true) = true)) := by decide +kernel

theorem witness_CoherenceRequests_29 :
    (let mid := 17; let part := 0; let txid := 1; let addr := 0x1000; let tc3 := true; let b : Block := (Block.alone ({ sail0 with net := { landed := [.request .rdOnce 17 0 1 0x1000 0] } })).start; let q : Block := (b.arrives (.rdOnce mid part txid addr tc3)).2; (b.dev ≠ .off) ∧ ((b.arrives (.rdOnce mid part txid addr tc3)).1 = false)) := by decide +kernel

theorem witness_CoherenceRequests_30 :
    (let mid := 17; let part := 0; let txid := 1; let addr := 0x1000; let tc3 := true; let b : Block := (Block.alone (dramSail.modCoh fun c => { c with waiting := [{ mid := 17, part := 0, txid := 1, kind := .wbDirty, line := 64 }] })).start; let q : Block := (b.arrives (.rdOnce mid part txid addr tc3)).2; (b.dev ≠ .off) ∧ ((b.arrives (.rdOnce mid part txid addr tc3)).1 = true) ∧ (q.speaks mid = true) ∧ ((q.txidBusy mid txid addr = true))) := by decide +kernel

theorem witness_CoherenceRequests_31 :
    (let mid := 17; let part := 0; let txid := 1; let addr := 0x1000; let tc3 := true; let b : Block := (Block.alone (sail0)).start; let q : Block := (b.arrives (.rdOnce mid part txid addr tc3)).2; let c : Block := if (q.reqOf mid txid).isNone then q.modCoh (fun c => { c with reqs := c.reqs ++ [{ mid := mid, part := part, txid := txid, kind := .rdOnce, line := addr / 64, way := 0, tc3 := tc3 }] }) else q.modReq mid txid (fun r => { r with backoff := false, tc3 := tc3 }); let att : Nat := ((c.reqOf mid txid).map (·.attempt)).getD 0; let seen : Option (Nat × Nat × Nat) := c.coh.entered.find? (fun e => e.1 = mid && e.2.1 = addr / 64); let d : Block := c.modCoh (fun c => { c with entered := match seen with | some e => listErase e c.entered | none => c.entered }); (b.dev ≠ .off) ∧ ((b.arrives (.rdOnce mid part txid addr tc3)).1 = true) ∧ (q.speaks mid = true) ∧ (¬ (q.txidBusy mid txid addr = true)) ∧ (d.dramOk (addr / 64 * 64) = false)) := by decide +kernel

theorem witness_CoherenceRequests_32 :
    (let mid := 17; let part := 0; let txid := 1; let addr := 0x1000; let tc3 := true; let own := 1; let b : Block := (Block.alone (privSail 1)).start; let q : Block := (b.arrives (.rdOnce mid part txid addr tc3)).2; let c : Block := if (q.reqOf mid txid).isNone then q.modCoh (fun c => { c with reqs := c.reqs ++ [{ mid := mid, part := part, txid := txid, kind := .rdOnce, line := addr / 64, way := 0, tc3 := tc3 }] }) else q.modReq mid txid (fun r => { r with backoff := false, tc3 := tc3 }); let att : Nat := ((c.reqOf mid txid).map (·.attempt)).getD 0; let seen : Option (Nat × Nat × Nat) := c.coh.entered.find? (fun e => e.1 = mid && e.2.1 = addr / 64); let d : Block := c.modCoh (fun c => { c with entered := match seen with | some e => listErase e c.entered | none => c.entered }); (b.dev ≠ .off) ∧ ((b.arrives (.rdOnce mid part txid addr tc3)).1 = true) ∧ (q.speaks mid = true) ∧ (¬ (q.txidBusy mid txid addr = true)) ∧ (d.dramOk (addr / 64 * 64) = true) ∧ (d.privOwner (addr / 64 * 64) = some own) ∧ (privAllowed own mid .rdOnce = false)) := by decide +kernel

theorem witness_CoherenceRequests_33 :
    (let mid := 17; let part := 0; let txid := 1; let addr := 0x1000; let tc3 := true; let b : Block := (Block.alone (dramSail)).start; let q : Block := (b.arrives (.rdOnce mid part txid addr tc3)).2; let c : Block := if (q.reqOf mid txid).isNone then q.modCoh (fun c => { c with reqs := c.reqs ++ [{ mid := mid, part := part, txid := txid, kind := .rdOnce, line := addr / 64, way := 0, tc3 := tc3 }] }) else q.modReq mid txid (fun r => { r with backoff := false, tc3 := tc3 }); let att : Nat := ((c.reqOf mid txid).map (·.attempt)).getD 0; let seen : Option (Nat × Nat × Nat) := c.coh.entered.find? (fun e => e.1 = mid && e.2.1 = addr / 64); let d : Block := c.modCoh (fun c => { c with entered := match seen with | some e => listErase e c.entered | none => c.entered }); (b.dev ≠ .off) ∧ ((b.arrives (.rdOnce mid part txid addr tc3)).1 = true) ∧ (q.speaks mid = true) ∧ (¬ (q.txidBusy mid txid addr = true)) ∧ (d.dramOk (addr / 64 * 64) = true) ∧ ((match d.privOwner (addr / 64 * 64) with | some own => privAllowed own mid .rdOnce | none => true) = true)) := by decide +kernel

theorem witness_CoherenceRequests_34 :
    (let mid := 17; let part := 0; let txid := 1; let addr := 0x1000; let b : Block := (Block.alone (base)).start; let q : Block := (b.arrives (.wbDirty mid part txid addr)).2; (b.dev ≠ .off) ∧ ((b.arrives (.wbDirty mid part txid addr)).1 = true) ∧ (q.speaks mid = false))
    ∧ (let mid := 17; let part := 0; let txid := 1; let addr := 0x1000; let b : Block := (Block.alone ({ sail0 with net := { landed := [.request .evictClean 17 0 1 0x1000 0] } })).start; let q : Block := (b.arrives (.evictClean mid part txid addr)).2; (b.dev ≠ .off) ∧ ((b.arrives (.evictClean mid part txid addr)).1 = false))
    ∧ (let mid := 17; let part := 0; let txid := 1; let addr := 0x1000; let b : Block := (Block.alone (base)).start; let q : Block := (b.arrives (.evictClean mid part txid addr)).2; (b.dev ≠ .off) ∧ ((b.arrives (.evictClean mid part txid addr)).1 = true) ∧ (q.speaks mid = false))
    ∧ (let mid := 17; let part := 0; let txid := 1; let addr := 0x1000; let tc3 := true; let b : Block := (Block.alone (base)).start; let q : Block := (b.arrives (.rdOnce mid part txid addr tc3)).2; (b.dev ≠ .off) ∧ ((b.arrives (.rdOnce mid part txid addr tc3)).1 = true) ∧ (q.speaks mid = false))
    ∧ (let mid := 17; let part := 0; let txid := 1; let addr := 0x1000; let b : Block := (Block.alone ({ sail0 with net := { landed := [.request .wrFull 17 0 1 0x1000 0] } })).start; let q : Block := (b.arrives (.wrFull mid part txid addr)).2; (b.dev ≠ .off) ∧ ((b.arrives (.wrFull mid part txid addr)).1 = false))
    ∧ (let mid := 17; let part := 0; let txid := 1; let addr := 0x1000; let b : Block := (Block.alone (base)).start; let q : Block := (b.arrives (.wrFull mid part txid addr)).2; (b.dev ≠ .off) ∧ ((b.arrives (.wrFull mid part txid addr)).1 = true) ∧ (q.speaks mid = false)) := by decide +kernel

theorem witness_CoherenceRequests_35 :
    (let mid := 17; let part := 0; let txid := 1; let addr := 0x1000; let b : Block := (Block.alone (dramSail.modCoh fun c => { c with waiting := [{ mid := 17, part := 0, txid := 1, kind := .wbDirty, line := 64 }] })).start; let q : Block := (b.arrives (.wrFull mid part txid addr)).2; (b.dev ≠ .off) ∧ ((b.arrives (.wrFull mid part txid addr)).1 = true) ∧ (q.speaks mid = true) ∧ ((q.txidBusy mid txid addr = true))) := by decide +kernel

theorem witness_CoherenceRequests_36 :
    (let mid := 17; let part := 0; let txid := 1; let addr := 0x1000; let b : Block := (Block.alone (sail0)).start; let q : Block := (b.arrives (.wrFull mid part txid addr)).2; let c : Block := if (q.reqOf mid txid).isNone then q.modCoh (fun c => { c with reqs := c.reqs ++ [{ mid := mid, part := part, txid := txid, kind := .wrFull, line := addr / 64, way := 0, tc3 := false }] }) else q.modReq mid txid (fun r => { r with backoff := false, tc3 := false }); let att : Nat := ((c.reqOf mid txid).map (·.attempt)).getD 0; let seen : Option (Nat × Nat × Nat) := c.coh.entered.find? (fun e => e.1 = mid && e.2.1 = addr / 64); let d : Block := c.modCoh (fun c => { c with entered := match seen with | some e => listErase e c.entered | none => c.entered }); (b.dev ≠ .off) ∧ ((b.arrives (.wrFull mid part txid addr)).1 = true) ∧ (q.speaks mid = true) ∧ (¬ (q.txidBusy mid txid addr = true)) ∧ (d.dramOk (addr / 64 * 64) = false)) := by decide +kernel

theorem witness_CoherenceRequests_37 :
    (let mid := 17; let part := 0; let txid := 1; let addr := 0x1000; let own := 1; let b : Block := (Block.alone (privSail 1)).start; let q : Block := (b.arrives (.wrFull mid part txid addr)).2; let c : Block := if (q.reqOf mid txid).isNone then q.modCoh (fun c => { c with reqs := c.reqs ++ [{ mid := mid, part := part, txid := txid, kind := .wrFull, line := addr / 64, way := 0, tc3 := false }] }) else q.modReq mid txid (fun r => { r with backoff := false, tc3 := false }); let att : Nat := ((c.reqOf mid txid).map (·.attempt)).getD 0; let seen : Option (Nat × Nat × Nat) := c.coh.entered.find? (fun e => e.1 = mid && e.2.1 = addr / 64); let d : Block := c.modCoh (fun c => { c with entered := match seen with | some e => listErase e c.entered | none => c.entered }); (b.dev ≠ .off) ∧ ((b.arrives (.wrFull mid part txid addr)).1 = true) ∧ (q.speaks mid = true) ∧ (¬ (q.txidBusy mid txid addr = true)) ∧ (d.dramOk (addr / 64 * 64) = true) ∧ (d.privOwner (addr / 64 * 64) = some own) ∧ (privAllowed own mid .wrFull = false)) := by decide +kernel

theorem witness_CoherenceRequests_38 :
    (let mid := 17; let part := 0; let txid := 1; let addr := 0x1000; let b : Block := (Block.alone (dramSail)).start; let q : Block := (b.arrives (.wrFull mid part txid addr)).2; let c : Block := if (q.reqOf mid txid).isNone then q.modCoh (fun c => { c with reqs := c.reqs ++ [{ mid := mid, part := part, txid := txid, kind := .wrFull, line := addr / 64, way := 0, tc3 := false }] }) else q.modReq mid txid (fun r => { r with backoff := false, tc3 := false }); let att : Nat := ((c.reqOf mid txid).map (·.attempt)).getD 0; let seen : Option (Nat × Nat × Nat) := c.coh.entered.find? (fun e => e.1 = mid && e.2.1 = addr / 64); let d : Block := c.modCoh (fun c => { c with entered := match seen with | some e => listErase e c.entered | none => c.entered }); (b.dev ≠ .off) ∧ ((b.arrives (.wrFull mid part txid addr)).1 = true) ∧ (q.speaks mid = true) ∧ (¬ (q.txidBusy mid txid addr = true)) ∧ (d.dramOk (addr / 64 * 64) = true) ∧ ((match d.privOwner (addr / 64 * 64) with | some own => privAllowed own mid .wrFull | none => true) = true)) := by decide +kernel

theorem witness_CoherenceRequests_39 :
    (let mid := 17; let part := 0; let txid := 1; let addr := 0x1000; let b : Block := (Block.alone (dramSail.modCoh fun c => { c with waiting := [{ mid := 17, part := 0, txid := 1, kind := .wbDirty, line := 64 }] })).start; let q : Block := (b.arrives (.wrPart mid part txid addr)).2; (b.dev ≠ .off) ∧ ((b.arrives (.wrPart mid part txid addr)).1 = true) ∧ (q.speaks mid = true) ∧ ((q.txidBusy mid txid addr = true))) := by decide +kernel

theorem witness_CoherenceRequests_40 :
    (let mid := 17; let part := 0; let txid := 1; let addr := 0x1000; let b : Block := (Block.alone (sail0)).start; let q : Block := (b.arrives (.wrPart mid part txid addr)).2; let c : Block := if (q.reqOf mid txid).isNone then q.modCoh (fun c => { c with reqs := c.reqs ++ [{ mid := mid, part := part, txid := txid, kind := .wrPart, line := addr / 64, way := 0, tc3 := false }] }) else q.modReq mid txid (fun r => { r with backoff := false, tc3 := false }); let att : Nat := ((c.reqOf mid txid).map (·.attempt)).getD 0; let seen : Option (Nat × Nat × Nat) := c.coh.entered.find? (fun e => e.1 = mid && e.2.1 = addr / 64); let d : Block := c.modCoh (fun c => { c with entered := match seen with | some e => listErase e c.entered | none => c.entered }); (b.dev ≠ .off) ∧ ((b.arrives (.wrPart mid part txid addr)).1 = true) ∧ (q.speaks mid = true) ∧ (¬ (q.txidBusy mid txid addr = true)) ∧ (d.dramOk (addr / 64 * 64) = false)) := by decide +kernel

theorem witness_CoherenceRequests_41 :
    (let mid := 17; let part := 0; let txid := 1; let addr := 0x1000; let own := 1; let b : Block := (Block.alone (privSail 1)).start; let q : Block := (b.arrives (.wrPart mid part txid addr)).2; let c : Block := if (q.reqOf mid txid).isNone then q.modCoh (fun c => { c with reqs := c.reqs ++ [{ mid := mid, part := part, txid := txid, kind := .wrPart, line := addr / 64, way := 0, tc3 := false }] }) else q.modReq mid txid (fun r => { r with backoff := false, tc3 := false }); let att : Nat := ((c.reqOf mid txid).map (·.attempt)).getD 0; let seen : Option (Nat × Nat × Nat) := c.coh.entered.find? (fun e => e.1 = mid && e.2.1 = addr / 64); let d : Block := c.modCoh (fun c => { c with entered := match seen with | some e => listErase e c.entered | none => c.entered }); (b.dev ≠ .off) ∧ ((b.arrives (.wrPart mid part txid addr)).1 = true) ∧ (q.speaks mid = true) ∧ (¬ (q.txidBusy mid txid addr = true)) ∧ (d.dramOk (addr / 64 * 64) = true) ∧ (d.privOwner (addr / 64 * 64) = some own) ∧ (privAllowed own mid .wrPart = false)) := by decide +kernel

theorem witness_CoherenceRequests_42 :
    (let mid := 17; let part := 0; let txid := 1; let addr := 0x1000; let b : Block := (Block.alone (dramSail)).start; let q : Block := (b.arrives (.wrPart mid part txid addr)).2; let c : Block := if (q.reqOf mid txid).isNone then q.modCoh (fun c => { c with reqs := c.reqs ++ [{ mid := mid, part := part, txid := txid, kind := .wrPart, line := addr / 64, way := 0, tc3 := false }] }) else q.modReq mid txid (fun r => { r with backoff := false, tc3 := false }); let att : Nat := ((c.reqOf mid txid).map (·.attempt)).getD 0; let seen : Option (Nat × Nat × Nat) := c.coh.entered.find? (fun e => e.1 = mid && e.2.1 = addr / 64); let d : Block := c.modCoh (fun c => { c with entered := match seen with | some e => listErase e c.entered | none => c.entered }); (b.dev ≠ .off) ∧ ((b.arrives (.wrPart mid part txid addr)).1 = true) ∧ (q.speaks mid = true) ∧ (¬ (q.txidBusy mid txid addr = true)) ∧ (d.dramOk (addr / 64 * 64) = true) ∧ ((match d.privOwner (addr / 64 * 64) with | some own => privAllowed own mid .wrPart | none => true) = true)) := by decide +kernel

theorem witness_CoherenceRequests_43 :
    (let mid := 17; let txid := 1; let addr := 0x1000; let data := 5; let mask := 0; let poison := false; let b : Block := (Block.alone ({ sail0 with net := { landed := [.wrData 17 0 1 0x1000 5 0 false] } })).start; let q : Block := (b.arrives (.wrData mid txid addr data mask poison)).2; (b.dev ≠ .off) ∧ ((b.arrives (.wrData mid txid addr data mask poison)).1 = false)) := by decide +kernel

theorem witness_CoherenceRequests_44 :
    (let mid := 17; let txid := 1; let addr := 0x1000; let data := 5; let mask := 0; let poison := false; let b : Block := (Block.alone (sail0)).start; let q : Block := (b.arrives (.wrData mid txid addr data mask poison)).2; let hit : Txn → Bool := fun t => t.mid = mid && t.txid = txid && t.line = addr / 64 && t.wdata.isNone && (match t.kind with | .wrFull => true | .wrPart => true | .wbDirty => true | _ => false); let fill : Txn → Txn := fun t => { t with wdata := some data, wmask := mask, wpoison := poison }; (b.dev ≠ .off) ∧ ((b.arrives (.wrData mid txid addr data mask poison)).1 = true) ∧ (q.speaks mid = true) ∧ (q.coh.txns.find? hit = none) ∧ (q.coh.waiting.any hit = false)) := by decide +kernel

theorem witness_CoherenceRequests_45 :
    (let mid := 17; let txid := 1; let addr := 0x1000; let data := 5; let mask := 0; let poison := false; let b : Block := (Block.alone (dramSail.modCoh fun c => { c with waiting := [{ mid := 17, part := 0, txid := 1, kind := .wbDirty, line := 64 }] })).start; let q : Block := (b.arrives (.wrData mid txid addr data mask poison)).2; let hit : Txn → Bool := fun t => t.mid = mid && t.txid = txid && t.line = addr / 64 && t.wdata.isNone && (match t.kind with | .wrFull => true | .wrPart => true | .wbDirty => true | _ => false); let fill : Txn → Txn := fun t => { t with wdata := some data, wmask := mask, wpoison := poison }; (b.dev ≠ .off) ∧ ((b.arrives (.wrData mid txid addr data mask poison)).1 = true) ∧ (q.speaks mid = true) ∧ (q.coh.txns.find? hit = none) ∧ (q.coh.waiting.any hit = true)) := by decide +kernel

theorem witness_CoherenceRequests_46 :
    (let mid := 17; let txid := 1; let addr := 0x1000; let data := 5; let mask := 0; let poison := false; let t : Txn := { mid := 17, part := 0, txid := 1, kind := .wbDirty, line := 64 }; let b : Block := (Block.alone (dramSail.modCoh fun c => { c with txns := [{ mid := 17, part := 0, txid := 1, kind := .wbDirty, line := 64 }] })).start; let q : Block := (b.arrives (.wrData mid txid addr data mask poison)).2; let hit : Txn → Bool := fun t => t.mid = mid && t.txid = txid && t.line = addr / 64 && t.wdata.isNone && (match t.kind with | .wrFull => true | .wrPart => true | .wbDirty => true | _ => false); let fill : Txn → Txn := fun t => { t with wdata := some data, wmask := mask, wpoison := poison }; (b.dev ≠ .off) ∧ ((b.arrives (.wrData mid txid addr data mask poison)).1 = true) ∧ (q.speaks mid = true) ∧ (q.coh.txns.find? hit = some t)) := by decide +kernel

theorem witness_CoherenceRequests_47 :
    (let mid := 17; let part := 0; let txid := 1; let addr := 0x1000; let b : Block := (Block.alone ({ sail0 with net := { landed := [.request .wrPart 17 0 1 0x1000 0] } })).start; let q : Block := (b.arrives (.wrPart mid part txid addr)).2; (b.dev ≠ .off) ∧ ((b.arrives (.wrPart mid part txid addr)).1 = false))
    ∧ (let mid := 17; let part := 0; let txid := 1; let addr := 0x1000; let b : Block := (Block.alone (base)).start; let q : Block := (b.arrives (.wrPart mid part txid addr)).2; (b.dev ≠ .off) ∧ ((b.arrives (.wrPart mid part txid addr)).1 = true) ∧ (q.speaks mid = false))
    ∧ (let mid := 17; let txid := 1; let addr := 0x1000; let data := 5; let mask := 0; let poison := false; let b : Block := (Block.alone (base)).start; let q : Block := (b.arrives (.wrData mid txid addr data mask poison)).2; (b.dev ≠ .off) ∧ ((b.arrives (.wrData mid txid addr data mask poison)).1 = true) ∧ (q.speaks mid = false)) := by decide +kernel

theorem witness_CoherenceAnswers :
    (let sail := 0; let addr := 0x1000; let txid := 1; let w := { sail := 0, line := 64, dirty := true, data := 9 }; let b : Block := (Block.alone (sail0.modCoh fun c => { c with wb := [{ sail := 0, line := 64, dirty := true, data := 9 }] })).start; let q : Block := (b.arrives (.snpShared sail addr txid)).2; let line : Nat := addr / 64; let part : Nat := ((q.txnOf line).map (·.part)).getD noPart; let c : Block := (q.pmu sail 0x05 (some part) 1).pmu sail 0x06 (some part) (ofBool ((q.wbOf sail line).isSome || decide ((q.l3At sail line).st ≠ .i))); (b.dev ≠ .off) ∧ ((b.arrives (.snpShared sail addr txid)).1 = true) ∧ (q.active? sail = true) ∧ (c.wbOf sail line = some w) ∧ (w.dirty = true)) := by decide +kernel

theorem witness_CoherenceAnswers_2 :
    (let sail := 0; let addr := 0x1000; let txid := 1; let w := { sail := 0, line := 64, dirty := false, data := 9 }; let b : Block := (Block.alone (sail0.modCoh fun c => { c with wb := [{ sail := 0, line := 64, dirty := false, data := 9 }] })).start; let q : Block := (b.arrives (.snpShared sail addr txid)).2; let line : Nat := addr / 64; let part : Nat := ((q.txnOf line).map (·.part)).getD noPart; let c : Block := (q.pmu sail 0x05 (some part) 1).pmu sail 0x06 (some part) (ofBool ((q.wbOf sail line).isSome || decide ((q.l3At sail line).st ≠ .i))); (b.dev ≠ .off) ∧ ((b.arrives (.snpShared sail addr txid)).1 = true) ∧ (q.active? sail = true) ∧ (c.wbOf sail line = some w) ∧ (w.dirty = false)) := by decide +kernel

theorem witness_CoherenceAnswers_3 :
    (let sail := 0; let addr := 0x1000; let txid := 1; let b : Block := (Block.alone (sail0.setL3 0 64 { st := .m, data := 9 })).start; let q : Block := (b.arrives (.snpShared sail addr txid)).2; let line : Nat := addr / 64; let part : Nat := ((q.txnOf line).map (·.part)).getD noPart; let c : Block := (q.pmu sail 0x05 (some part) 1).pmu sail 0x06 (some part) (ofBool ((q.wbOf sail line).isSome || decide ((q.l3At sail line).st ≠ .i))); let e : L3Line := c.l3At sail line; let next : LSt := (match e.st with | .m => .o | .o => .o | .i => .i | _ => .s); let d : Block := (c.privClean sail line).setL3 sail line { e with st := next }; (b.dev ≠ .off) ∧ ((b.arrives (.snpShared sail addr txid)).1 = true) ∧ (q.active? sail = true) ∧ (c.wbOf sail line = none) ∧ (e.st = .m ∨ e.st = .o)) := by decide +kernel

theorem witness_CoherenceAnswers_4 :
    (let sail := 0; let addr := 0x1000; let txid := 1; let b : Block := (Block.alone (sail0.setL3 0 64 { st := .e, data := 9 })).start; let q : Block := (b.arrives (.snpShared sail addr txid)).2; let line : Nat := addr / 64; let part : Nat := ((q.txnOf line).map (·.part)).getD noPart; let c : Block := (q.pmu sail 0x05 (some part) 1).pmu sail 0x06 (some part) (ofBool ((q.wbOf sail line).isSome || decide ((q.l3At sail line).st ≠ .i))); let e : L3Line := c.l3At sail line; let next : LSt := (match e.st with | .m => .o | .o => .o | .i => .i | _ => .s); let d : Block := (c.privClean sail line).setL3 sail line { e with st := next }; (b.dev ≠ .off) ∧ ((b.arrives (.snpShared sail addr txid)).1 = true) ∧ (q.active? sail = true) ∧ (c.wbOf sail line = none) ∧ (e.st ≠ .m) ∧ (e.st ≠ .o)) := by decide +kernel

theorem witness_CoherenceAnswers_5 :
    (let sail := 0; let addr := 0x1000; let txid := 1; let w := { sail := 0, line := 64, dirty := true, data := 9 }; let b : Block := (Block.alone (sail0.modCoh fun c => { c with wb := [{ sail := 0, line := 64, dirty := true, data := 9 }] })).start; let q : Block := (b.arrives (.snpUnique sail addr txid)).2; let line : Nat := addr / 64; let part : Nat := ((q.txnOf line).map (·.part)).getD noPart; let c : Block := (q.pmu sail 0x05 (some part) 1).pmu sail 0x06 (some part) (ofBool ((q.wbOf sail line).isSome || decide ((q.l3At sail line).st ≠ .i))); (b.dev ≠ .off) ∧ ((b.arrives (.snpUnique sail addr txid)).1 = true) ∧ (q.active? sail = true) ∧ (c.wbOf sail line = some w) ∧ (w.dirty = true)) := by decide +kernel

theorem witness_CoherenceAnswers_6 :
    (let sail := 0; let addr := 0x1000; let txid := 1; let w := { sail := 0, line := 64, dirty := false, data := 9 }; let b : Block := (Block.alone (sail0.modCoh fun c => { c with wb := [{ sail := 0, line := 64, dirty := false, data := 9 }] })).start; let q : Block := (b.arrives (.snpUnique sail addr txid)).2; let line : Nat := addr / 64; let part : Nat := ((q.txnOf line).map (·.part)).getD noPart; let c : Block := (q.pmu sail 0x05 (some part) 1).pmu sail 0x06 (some part) (ofBool ((q.wbOf sail line).isSome || decide ((q.l3At sail line).st ≠ .i))); (b.dev ≠ .off) ∧ ((b.arrives (.snpUnique sail addr txid)).1 = true) ∧ (q.active? sail = true) ∧ (c.wbOf sail line = some w) ∧ (w.dirty = false)) := by decide +kernel

theorem witness_CoherenceAnswers_7 :
    (let sail := 0; let addr := 0x1000; let txid := 1; let b : Block := (Block.alone (sail0.setL3 0 64 { st := .m, data := 9 })).start; let q : Block := (b.arrives (.snpUnique sail addr txid)).2; let line : Nat := addr / 64; let part : Nat := ((q.txnOf line).map (·.part)).getD noPart; let c : Block := (q.pmu sail 0x05 (some part) 1).pmu sail 0x06 (some part) (ofBool ((q.wbOf sail line).isSome || decide ((q.l3At sail line).st ≠ .i))); let e : L3Line := c.l3At sail line; let next : LSt := .i; let d : Block := (c.privClean sail line).setL3 sail line { e with st := next }; (b.dev ≠ .off) ∧ ((b.arrives (.snpUnique sail addr txid)).1 = true) ∧ (q.active? sail = true) ∧ (c.wbOf sail line = none) ∧ (e.st = .m ∨ e.st = .o)) := by decide +kernel

theorem witness_CoherenceAnswers_8 :
    (let sail := 0; let addr := 0x1000; let txid := 1; let b : Block := (Block.alone (sail0.setL3 0 64 { st := .e, data := 9 })).start; let q : Block := (b.arrives (.snpUnique sail addr txid)).2; let line : Nat := addr / 64; let part : Nat := ((q.txnOf line).map (·.part)).getD noPart; let c : Block := (q.pmu sail 0x05 (some part) 1).pmu sail 0x06 (some part) (ofBool ((q.wbOf sail line).isSome || decide ((q.l3At sail line).st ≠ .i))); let e : L3Line := c.l3At sail line; let next : LSt := .i; let d : Block := (c.privClean sail line).setL3 sail line { e with st := next }; (b.dev ≠ .off) ∧ ((b.arrives (.snpUnique sail addr txid)).1 = true) ∧ (q.active? sail = true) ∧ (c.wbOf sail line = none) ∧ (e.st ≠ .m) ∧ (e.st ≠ .o)) := by decide +kernel

theorem witness_CoherenceAnswers_9 :
    (let sail := 0; let addr := 0x1000; let txid := 1; let b : Block := (Block.alone ({ sail0 with net := { landed := [.snoop 0 .shared 17 0 1 0x1000] } })).start; let q : Block := (b.arrives (.snpShared sail addr txid)).2; (b.dev ≠ .off) ∧ ((b.arrives (.snpShared sail addr txid)).1 = false))
    ∧ (let sail := 0; let addr := 0x1000; let txid := 1; let b : Block := (Block.alone (base)).start; let q : Block := (b.arrives (.snpShared sail addr txid)).2; (b.dev ≠ .off) ∧ ((b.arrives (.snpShared sail addr txid)).1 = true) ∧ (q.active? sail = false))
    ∧ (let sail := 0; let addr := 0x1000; let txid := 1; let b : Block := (Block.alone ({ sail0 with net := { landed := [.snoop 0 .unique 17 0 1 0x1000] } })).start; let q : Block := (b.arrives (.snpUnique sail addr txid)).2; (b.dev ≠ .off) ∧ ((b.arrives (.snpUnique sail addr txid)).1 = false))
    ∧ (let sail := 0; let addr := 0x1000; let txid := 1; let b : Block := (Block.alone (base)).start; let q : Block := (b.arrives (.snpUnique sail addr txid)).2; (b.dev ≠ .off) ∧ ((b.arrives (.snpUnique sail addr txid)).1 = true) ∧ (q.active? sail = false))
    ∧ (let sail := 0; let addr := 0x1000; let txid := 1; let b : Block := (Block.alone ({ sail0 with net := { landed := [.snoop 0 .once 17 0 1 0x1000] } })).start; let q : Block := (b.arrives (.snpOnce sail addr txid)).2; (b.dev ≠ .off) ∧ ((b.arrives (.snpOnce sail addr txid)).1 = false))
    ∧ (let sail := 0; let addr := 0x1000; let txid := 1; let b : Block := (Block.alone (base)).start; let q : Block := (b.arrives (.snpOnce sail addr txid)).2; (b.dev ≠ .off) ∧ ((b.arrives (.snpOnce sail addr txid)).1 = true) ∧ (q.active? sail = false)) := by decide +kernel

theorem witness_CoherenceAnswers_10 :
    (let sail := 0; let addr := 0x1000; let txid := 1; let w := { sail := 0, line := 64, dirty := true, data := 9 }; let b : Block := (Block.alone (sail0.modCoh fun c => { c with wb := [{ sail := 0, line := 64, dirty := true, data := 9 }] })).start; let q : Block := (b.arrives (.snpOnce sail addr txid)).2; let line : Nat := addr / 64; let part : Nat := ((q.txnOf line).map (·.part)).getD noPart; let c : Block := (q.pmu sail 0x05 (some part) 1).pmu sail 0x06 (some part) (ofBool ((q.wbOf sail line).isSome || decide ((q.l3At sail line).st ≠ .i))); (b.dev ≠ .off) ∧ ((b.arrives (.snpOnce sail addr txid)).1 = true) ∧ (q.active? sail = true) ∧ (c.wbOf sail line = some w) ∧ (w.dirty = true)) := by decide +kernel

theorem witness_CoherenceAnswers_11 :
    (let sail := 0; let addr := 0x1000; let txid := 1; let w := { sail := 0, line := 64, dirty := false, data := 9 }; let b : Block := (Block.alone (sail0.modCoh fun c => { c with wb := [{ sail := 0, line := 64, dirty := false, data := 9 }] })).start; let q : Block := (b.arrives (.snpOnce sail addr txid)).2; let line : Nat := addr / 64; let part : Nat := ((q.txnOf line).map (·.part)).getD noPart; let c : Block := (q.pmu sail 0x05 (some part) 1).pmu sail 0x06 (some part) (ofBool ((q.wbOf sail line).isSome || decide ((q.l3At sail line).st ≠ .i))); (b.dev ≠ .off) ∧ ((b.arrives (.snpOnce sail addr txid)).1 = true) ∧ (q.active? sail = true) ∧ (c.wbOf sail line = some w) ∧ (w.dirty = false)) := by decide +kernel

theorem witness_CoherenceAnswers_12 :
    (let sail := 0; let addr := 0x1000; let txid := 1; let b : Block := (Block.alone (sail0.setL3 0 64 { st := .m, data := 9 })).start; let q : Block := (b.arrives (.snpOnce sail addr txid)).2; let line : Nat := addr / 64; let part : Nat := ((q.txnOf line).map (·.part)).getD noPart; let c : Block := (q.pmu sail 0x05 (some part) 1).pmu sail 0x06 (some part) (ofBool ((q.wbOf sail line).isSome || decide ((q.l3At sail line).st ≠ .i))); let e : L3Line := c.l3At sail line; let next : LSt := e.st; let d : Block := (c.privClean sail line).setL3 sail line { e with st := next }; (b.dev ≠ .off) ∧ ((b.arrives (.snpOnce sail addr txid)).1 = true) ∧ (q.active? sail = true) ∧ (c.wbOf sail line = none) ∧ (e.st = .m ∨ e.st = .o)) := by decide +kernel

theorem witness_CoherenceAnswers_13 :
    (let sail := 0; let addr := 0x1000; let txid := 1; let b : Block := (Block.alone (sail0.setL3 0 64 { st := .e, data := 9 })).start; let q : Block := (b.arrives (.snpOnce sail addr txid)).2; let line : Nat := addr / 64; let part : Nat := ((q.txnOf line).map (·.part)).getD noPart; let c : Block := (q.pmu sail 0x05 (some part) 1).pmu sail 0x06 (some part) (ofBool ((q.wbOf sail line).isSome || decide ((q.l3At sail line).st ≠ .i))); let e : L3Line := c.l3At sail line; let next : LSt := e.st; let d : Block := (c.privClean sail line).setL3 sail line { e with st := next }; (b.dev ≠ .off) ∧ ((b.arrives (.snpOnce sail addr txid)).1 = true) ∧ (q.active? sail = true) ∧ (c.wbOf sail line = none) ∧ (e.st ≠ .m) ∧ (e.st ≠ .o)) := by decide +kernel

theorem witness_CoherenceAnswers_14 :
    (let sail := 0; let addr := 0x1000; let txid := 1; let w := { sail := 0, line := 64, dirty := true, data := 9 }; let b : Block := (Block.alone (sail0.modCoh fun c => { c with wb := [{ sail := 0, line := 64, dirty := true, data := 9 }] })).start; let q : Block := (b.arrives (.snpInv sail addr txid)).2; let line : Nat := addr / 64; let part : Nat := ((q.txnOf line).map (·.part)).getD noPart; let c : Block := (q.pmu sail 0x05 (some part) 1).pmu sail 0x06 (some part) (ofBool ((q.wbOf sail line).isSome || decide ((q.l3At sail line).st ≠ .i))); (b.dev ≠ .off) ∧ ((b.arrives (.snpInv sail addr txid)).1 = true) ∧ (q.active? sail = true) ∧ (c.wbOf sail line = some w) ∧ (w.dirty = true)) := by decide +kernel

theorem witness_CoherenceAnswers_15 :
    (let sail := 0; let addr := 0x1000; let txid := 1; let w := { sail := 0, line := 64, dirty := false, data := 9 }; let b : Block := (Block.alone (sail0.modCoh fun c => { c with wb := [{ sail := 0, line := 64, dirty := false, data := 9 }] })).start; let q : Block := (b.arrives (.snpInv sail addr txid)).2; let line : Nat := addr / 64; let part : Nat := ((q.txnOf line).map (·.part)).getD noPart; let c : Block := (q.pmu sail 0x05 (some part) 1).pmu sail 0x06 (some part) (ofBool ((q.wbOf sail line).isSome || decide ((q.l3At sail line).st ≠ .i))); (b.dev ≠ .off) ∧ ((b.arrives (.snpInv sail addr txid)).1 = true) ∧ (q.active? sail = true) ∧ (c.wbOf sail line = some w) ∧ (w.dirty = false)) := by decide +kernel

theorem witness_CoherenceAnswers_16 :
    (let sail := 0; let addr := 0x1000; let txid := 1; let b : Block := (Block.alone (sail0.setL3 0 64 { st := .m, data := 9 })).start; let q : Block := (b.arrives (.snpInv sail addr txid)).2; let line : Nat := addr / 64; let part : Nat := ((q.txnOf line).map (·.part)).getD noPart; let c : Block := (q.pmu sail 0x05 (some part) 1).pmu sail 0x06 (some part) (ofBool ((q.wbOf sail line).isSome || decide ((q.l3At sail line).st ≠ .i))); let e : L3Line := c.l3At sail line; let next : LSt := .i; let d : Block := (c.privClean sail line).setL3 sail line { e with st := next }; (b.dev ≠ .off) ∧ ((b.arrives (.snpInv sail addr txid)).1 = true) ∧ (q.active? sail = true) ∧ (c.wbOf sail line = none)) := by decide +kernel

theorem witness_CoherenceAnswers_17 :
    (let sail := 0; let txid := 1; let addr := 0x1000; let st : LineSt := .o; let hasData := true; let evicting := false; let b : Block := (Block.alone ({ sail0 with net := { landed := [.snpResp 0 0 1 0x1000 .o true false] } })).start; let q : Block := (b.arrives (.snpResp sail txid addr st hasData evicting)).2; (b.dev ≠ .off) ∧ ((b.arrives (.snpResp sail txid addr st hasData evicting)).1 = false)) := by decide +kernel

theorem witness_CoherenceAnswers_18 :
    (let sail := 0; let txid := 1; let addr := 0x1000; let st : LineSt := .o; let hasData := true; let evicting := false; let b : Block := (Block.alone (base)).start; let q : Block := (b.arrives (.snpResp sail txid addr st hasData evicting)).2; (b.dev ≠ .off) ∧ ((b.arrives (.snpResp sail txid addr st hasData evicting)).1 = true) ∧ (q.active? sail = false)) := by decide +kernel

theorem witness_CoherenceAnswers_19 :
    (let sail := 0; let txid := 1; let addr := 0x1000; let st : LineSt := .o; let hasData := true; let evicting := false; let b : Block := (Block.alone (dramSail.modCoh fun c => { c with txns := [{ mid := 49, part := 0, txid := 1, kind := .rdShared, line := 64, snp := some .shared, awaitResp := [2] }] })).start; let q : Block := (b.arrives (.snpResp sail txid addr st hasData evicting)).2; (b.dev ≠ .off) ∧ ((b.arrives (.snpResp sail txid addr st hasData evicting)).1 = true) ∧ (q.active? sail = true) ∧ ((match q.txnOf (addr / 64) with | none => true | some t => t.txid ≠ txid || !t.awaitResp.contains sail || !(match t.snp with | some k => snpAnswers k st hasData evicting | none => false)) = true)) := by decide +kernel

theorem witness_CoherenceAnswers_20 :
    (let sail := 0; let txid := 1; let addr := 0x1000; let st : LineSt := .s; let hasData := false; let evicting := false; let k := .shared; let t := { mid := 49, part := 0, txid := 1, kind := .rdShared, line := 64, snp := some .shared, awaitResp := [0] }; let b : Block := (Block.alone (dramSail.modCoh fun c => { c with txns := [{ mid := 49, part := 0, txid := 1, kind := .rdShared, line := 64, snp := some .shared, awaitResp := [0] }] })).start; let q : Block := (b.arrives (.snpResp sail txid addr st hasData evicting)).2; let c : Block := q.when evicting (fun b => b.record (addr / 64) sail .i 0); let u : Txn := { t with awaitResp := t.awaitResp.filter (· ≠ sail), answers := if evicting then t.answers else t.answers ++ [(sail, st)], awaitData := if hasData && !t.gotData.contains sail then t.awaitData ++ [sail] else t.awaitData, evicting := t.evicting || (evicting && hasData) }; (b.dev ≠ .off) ∧ ((b.arrives (.snpResp sail txid addr st hasData evicting)).1 = true) ∧ (q.active? sail = true) ∧ (q.txnOf (addr / 64) = some t) ∧ (t.txid = txid) ∧ (t.awaitResp.contains sail = true) ∧ (t.snp = some k) ∧ (snpAnswers k st hasData evicting = true)) := by decide +kernel

theorem witness_CoherenceAnswers_21 :
    (let sail := 0; let txid := 1; let addr := 0x1000; let data := 5; let poison := false; let b : Block := (Block.alone ({ sail0 with net := { landed := [.snpData 0 0 1 0x1000 5 false] } })).start; let q : Block := (b.arrives (.snpData sail txid addr data poison)).2; (b.dev ≠ .off) ∧ ((b.arrives (.snpData sail txid addr data poison)).1 = false)) := by decide +kernel

theorem witness_CoherenceAnswers_22 :
    (let sail := 0; let addr := 0x1000; let txid := 1; let b : Block := (Block.alone ({ sail0 with net := { landed := [.snoop 0 .inv 17 0 1 0x1000] } })).start; let q : Block := (b.arrives (.snpInv sail addr txid)).2; (b.dev ≠ .off) ∧ ((b.arrives (.snpInv sail addr txid)).1 = false))
    ∧ (let sail := 0; let addr := 0x1000; let txid := 1; let b : Block := (Block.alone (base)).start; let q : Block := (b.arrives (.snpInv sail addr txid)).2; (b.dev ≠ .off) ∧ ((b.arrives (.snpInv sail addr txid)).1 = true) ∧ (q.active? sail = false))
    ∧ (let sail := 0; let slice := 0; let set := 5; let b : Block := (Block.alone ({ sail0 with net := { landed := [.tagRead 0 0 5] } })).start; let q : Block := (b.arrives (.tagRead sail slice set)).2; (b.dev ≠ .off) ∧ ((b.arrives (.tagRead sail slice set)).1 = false))
    ∧ (let sail := 0; let slice := 0; let set := 5; let b : Block := (Block.alone (base)).start; let q : Block := (b.arrives (.tagRead sail slice set)).2; (b.dev ≠ .off) ∧ ((b.arrives (.tagRead sail slice set)).1 = true) ∧ (q.active? sail = false))
    ∧ (let sail := 0; let slice := 0; let set := 5; let b : Block := (Block.alone (sail0)).start; let q : Block := (b.arrives (.tagRead sail slice set)).2; (b.dev ≠ .off) ∧ ((b.arrives (.tagRead sail slice set)).1 = true) ∧ (q.active? sail = true))
    ∧ (let sail := 0; let txid := 1; let addr := 0x1000; let data := 5; let poison := false; let b : Block := (Block.alone (base)).start; let q : Block := (b.arrives (.snpData sail txid addr data poison)).2; (b.dev ≠ .off) ∧ ((b.arrives (.snpData sail txid addr data poison)).1 = true) ∧ (q.active? sail = false)) := by decide +kernel

theorem witness_CoherenceAnswers_23 :
    (let sail := 0; let txid := 1; let addr := 0x1000; let data := 5; let poison := false; let b : Block := (Block.alone (sail0)).start; let q : Block := (b.arrives (.snpData sail txid addr data poison)).2; (b.dev ≠ .off) ∧ ((b.arrives (.snpData sail txid addr data poison)).1 = true) ∧ (q.active? sail = true) ∧ ((match q.txnOf (addr / 64) with | none => true | some t => t.txid ≠ txid || !(t.awaitData.contains sail || (t.awaitResp.contains sail && !t.gotData.contains sail))) = true)) := by decide +kernel

theorem witness_CoherenceAnswers_24 :
    (let sail := 0; let txid := 1; let addr := 0x1000; let data := 5; let poison := false; let t := { mid := 49, part := 0, txid := 1, kind := .rdShared, line := 64, snp := some .shared, awaitData := [0] }; let b : Block := (Block.alone (dramSail.modCoh fun c => { c with txns := [{ mid := 49, part := 0, txid := 1, kind := .rdShared, line := 64, snp := some .shared, awaitData := [0] }] })).start; let q : Block := (b.arrives (.snpData sail txid addr data poison)).2; (b.dev ≠ .off) ∧ ((b.arrives (.snpData sail txid addr data poison)).1 = true) ∧ (q.active? sail = true) ∧ (q.txnOf (addr / 64) = some t) ∧ (t.txid = txid) ∧ (t.awaitData.contains sail = true)) := by decide +kernel

theorem witness_CoherenceAnswers_25 :
    (let sail := 0; let txid := 1; let addr := 0x1000; let data := 5; let poison := false; let t := { mid := 49, part := 0, txid := 1, kind := .rdShared, line := 64, snp := some .shared, awaitResp := [0] }; let b : Block := (Block.alone (dramSail.modCoh fun c => { c with txns := [{ mid := 49, part := 0, txid := 1, kind := .rdShared, line := 64, snp := some .shared, awaitResp := [0] }] })).start; let q : Block := (b.arrives (.snpData sail txid addr data poison)).2; (b.dev ≠ .off) ∧ ((b.arrives (.snpData sail txid addr data poison)).1 = true) ∧ (q.active? sail = true) ∧ (q.txnOf (addr / 64) = some t) ∧ (t.txid = txid) ∧ (t.awaitData.contains sail = false) ∧ (t.awaitResp.contains sail = true) ∧ (t.gotData.contains sail = false)) := by decide +kernel

theorem witness_CoherenceAnswers_26 :
    (let sail := 0; let slice := 0; let set := 5; let tags : List TagInfo := [⟨40, 3, .s⟩]; let b : Block := (Block.alone (sail0)).start; let q : Block := (b.arrives (.tagResp sail slice set tags)).2; (b.dev ≠ .off) ∧ ((b.arrives (.tagResp sail slice set tags)).1 = true) ∧ (q.active? sail = true) ∧ (q.coh.rebuild.any (fun r => r.bank = slice && r.set = set && r.await.contains sail) = false)) := by decide +kernel

theorem witness_CoherenceAnswers_27 :
    (let sail := 0; let slice := 0; let set := 5; let tags : List TagInfo := [⟨40, 3, .s⟩]; let b : Block := (Block.alone (sail0.modCoh fun c => { c with rebuild := [{ bank := 0, set := 5, await := [0] }], filt := [(40 * 16, ⟨.m, 2⟩)] })).start; let q : Block := (b.arrives (.tagResp sail slice set tags)).2; let here : Nat → Bool := fun l => decide (lineSlice l = slice) && decide (lineSet l = set); let c : Block := q.modCoh fun c => { c with filt := c.filt.filter (fun e => !(decide (e.1 % 16 = sail) && here (e.1 / 16))) }; let d : Block := c.forL (tags.filter (fun t => t.st ≠ .i && here t.line)) fun t b => b.modCoh fun c => { c with filt := SMap.set {} (t.line * 16 + sail) ⟨t.st.filt, t.way⟩ c.filt }; (b.dev ≠ .off) ∧ ((b.arrives (.tagResp sail slice set tags)).1 = true) ∧ (q.active? sail = true) ∧ (q.coh.rebuild.any (fun r => r.bank = slice && r.set = set && r.await.contains sail) = true)) := by decide +kernel

theorem witness_CoherenceAnswers_28 :
    (let mid := 416; let txid := 1; let addr := 0x1000; let r := { mid := 416, part := 0, txid := 1, kind := .wrFull, line := 64, way := 3 }; let b : Block := (Block.alone ((sail0.modCoh fun c => { c with reqs := [{ mid := 416, part := 0, txid := 1, kind := .wrFull, line := 64, way := 3 }] }))).start; let q : Block := (b.arrives (.compMsg mid txid addr)).2; let c : Block := if r.timedOut then q.lateAnswer mid txid else q.dropReq mid txid; (b.dev ≠ .off) ∧ ((b.arrives (.compMsg mid txid addr)).1 = true) ∧ (q.speaks mid = true) ∧ (q.reqOf mid txid = some r) ∧ (sailOf mid = none)) := by decide +kernel

theorem witness_CoherenceAnswers_29 :
    (let mid := 17; let txid := 1; let addr := 0x1000; let n := 0; let r := { mid := 17, part := 0, txid := 1, kind := .wbDirty, line := 64, way := 3 }; let b : Block := (Block.alone ((sail0.modCoh fun c => { c with reqs := [{ mid := 17, part := 0, txid := 1, kind := .wbDirty, line := 64, way := 3 }] }))).start; let q : Block := (b.arrives (.compMsg mid txid addr)).2; let c : Block := if r.timedOut then q.lateAnswer mid txid else q.dropReq mid txid; let line : Nat := addr / 64; let e : L3Line := c.l3At n line; (b.dev ≠ .off) ∧ ((b.arrives (.compMsg mid txid addr)).1 = true) ∧ (q.speaks mid = true) ∧ (q.reqOf mid txid = some r) ∧ (sailOf mid = some n) ∧ (((r.kind ≠ .upgrade ∧ r.kind ≠ .dirtyNote) ∨ e.st = .i))) := by decide +kernel

theorem witness_CoherenceAnswers_30 :
    (let mid := 17; let txid := 1; let addr := 0x1000; let n := 0; let r := { mid := 17, part := 0, txid := 1, kind := .upgrade, line := 64, way := 3 }; let b : Block := (Block.alone ((sail0.modCoh fun c => { c with reqs := [{ mid := 17, part := 0, txid := 1, kind := .upgrade, line := 64, way := 3 }] }).setL3 0 64 { st := .s, noteOpen := true })).start; let q : Block := (b.arrives (.compMsg mid txid addr)).2; let c : Block := if r.timedOut then q.lateAnswer mid txid else q.dropReq mid txid; let line : Nat := addr / 64; let e : L3Line := c.l3At n line; (b.dev ≠ .off) ∧ ((b.arrives (.compMsg mid txid addr)).1 = true) ∧ (q.speaks mid = true) ∧ (q.reqOf mid txid = some r) ∧ (sailOf mid = some n) ∧ (r.kind = .upgrade) ∧ (e.st ≠ .i) ∧ (r.timedOut = false)) := by decide +kernel

theorem witness_CoherenceAnswers_31 :
    (let mid := 17; let txid := 1; let addr := 0x1000; let n := 0; let r := { mid := 17, part := 0, txid := 1, kind := .upgrade, line := 64, way := 3, timedOut := true }; let b : Block := (Block.alone ((sail0.modCoh fun c => { c with reqs := [{ mid := 17, part := 0, txid := 1, kind := .upgrade, line := 64, way := 3, timedOut := true }] }).setL3 0 64 { st := .s, noteOpen := true })).start; let q : Block := (b.arrives (.compMsg mid txid addr)).2; let c : Block := if r.timedOut then q.lateAnswer mid txid else q.dropReq mid txid; let line : Nat := addr / 64; let e : L3Line := c.l3At n line; (b.dev ≠ .off) ∧ ((b.arrives (.compMsg mid txid addr)).1 = true) ∧ (q.speaks mid = true) ∧ (q.reqOf mid txid = some r) ∧ (sailOf mid = some n) ∧ (r.kind = .upgrade) ∧ (e.st ≠ .i) ∧ (r.timedOut = true)) := by decide +kernel

theorem witness_CoherenceAnswers_32 :
    (let mid := 17; let txid := 1; let addr := 0x1000; let n := 0; let r := { mid := 17, part := 0, txid := 1, kind := .dirtyNote, line := 64, way := 3 }; let b : Block := (Block.alone ((sail0.modCoh fun c => { c with reqs := [{ mid := 17, part := 0, txid := 1, kind := .dirtyNote, line := 64, way := 3 }] }).setL3 0 64 { st := .m, noteOpen := true })).start; let q : Block := (b.arrives (.compMsg mid txid addr)).2; let c : Block := if r.timedOut then q.lateAnswer mid txid else q.dropReq mid txid; let line : Nat := addr / 64; let e : L3Line := c.l3At n line; (b.dev ≠ .off) ∧ ((b.arrives (.compMsg mid txid addr)).1 = true) ∧ (q.speaks mid = true) ∧ (q.reqOf mid txid = some r) ∧ (sailOf mid = some n) ∧ (r.kind = .dirtyNote) ∧ (e.st ≠ .i)) := by decide +kernel

theorem witness_CoherenceAnswers_33 :
    (let mid := 17; let txid := 1; let addr := 0x1000; let st : LineSt := .s; let data := 7; let poison := false; let b : Block := (Block.alone ({ sail0 with net := { landed := [.compData 17 0 1 0x1000 .s 7 false] } })).start; let q : Block := (b.arrives (.compData mid txid addr st data poison)).2; (b.dev ≠ .off) ∧ ((b.arrives (.compData mid txid addr st data poison)).1 = false)) := by decide +kernel

theorem witness_CoherenceAnswers_34 :
    (let mid := 17; let txid := 1; let addr := 0x1000; let st : LineSt := .s; let data := 7; let poison := false; let b : Block := (Block.alone (base)).start; let q : Block := (b.arrives (.compData mid txid addr st data poison)).2; (b.dev ≠ .off) ∧ ((b.arrives (.compData mid txid addr st data poison)).1 = true) ∧ (q.speaks mid = false)) := by decide +kernel

theorem witness_CoherenceAnswers_35 :
    (let mid := 17; let txid := 1; let addr := 0x1000; let st : LineSt := .s; let data := 7; let poison := false; let b : Block := (Block.alone (sail0)).start; let q : Block := (b.arrives (.compData mid txid addr st data poison)).2; (b.dev ≠ .off) ∧ ((b.arrives (.compData mid txid addr st data poison)).1 = true) ∧ (q.speaks mid = true) ∧ (q.reqOf mid txid = none)) := by decide +kernel

theorem witness_CoherenceAnswers_36 :
    (let mid := 0x1A0; let txid := 1; let addr := 0x1000; let st : LineSt := .s; let data := 7; let poison := false; let r := { mid := 0x1A0, part := 0, txid := 1, kind := .rdOnce, line := 64, way := 3 }; let b : Block := (Block.alone ((sail0.modCoh fun c => { c with reqs := [{ mid := 0x1A0, part := 0, txid := 1, kind := .rdOnce, line := 64, way := 3 }] }))).start; let q : Block := (b.arrives (.compData mid txid addr st data poison)).2; (b.dev ≠ .off) ∧ ((b.arrives (.compData mid txid addr st data poison)).1 = true) ∧ (q.speaks mid = true) ∧ (q.reqOf mid txid = some r) ∧ (¬ (mid % 32 = 17 ∧ mid / 32 < 12 ∧ st ≠ .i))) := by decide +kernel

theorem witness_CoherenceAnswers_37 :
    (let mid := 17; let txid := 1; let addr := 0x1000; let st : LineSt := .s; let data := 7; let poison := false; let r := { mid := 17, part := 0, txid := 1, kind := .rdShared, line := 64, way := 3, mnt := true }; let b : Block := (Block.alone ((sail0.modCoh fun c => { c with reqs := [{ mid := 17, part := 0, txid := 1, kind := .rdShared, line := 64, way := 3, mnt := true }] }))).start; let q : Block := (b.arrives (.compData mid txid addr st data poison)).2; let n : Nat := mid / 32; let line : Nat := addr / 64; let c : Block := (((q.dropReq mid txid).install n line r.way st data poison).pmu n 0x0B (some r.part) 1).when (r.mnt && !r.timedOut) (fun b => b.inc L3_MNT_COUNT_LINES n); (b.dev ≠ .off) ∧ ((b.arrives (.compData mid txid addr st data poison)).1 = true) ∧ (q.speaks mid = true) ∧ (q.reqOf mid txid = some r) ∧ ((mid % 32 = 17 ∧ mid / 32 < 12 ∧ st ≠ .i)) ∧ (r.timedOut = false ∧ c.wayEnabled n (lineSlice line) r.way = true ∧ (c.sail n).op0 = 0)) := by decide +kernel

theorem witness_CoherenceAnswers_38 :
    (let mid := 17; let txid := 1; let addr := 0x1000; let st : LineSt := .s; let data := 7; let poison := false; let r := { mid := 17, part := 0, txid := 1, kind := .rdShared, line := 64, way := 3, timedOut := true }; let b : Block := (Block.alone ((sail0.modCoh fun c => { c with reqs := [{ mid := 17, part := 0, txid := 1, kind := .rdShared, line := 64, way := 3, timedOut := true }] }))).start; let q : Block := (b.arrives (.compData mid txid addr st data poison)).2; let n : Nat := mid / 32; let line : Nat := addr / 64; let c : Block := (((q.dropReq mid txid).install n line r.way st data poison).pmu n 0x0B (some r.part) 1).when (r.mnt && !r.timedOut) (fun b => b.inc L3_MNT_COUNT_LINES n); (b.dev ≠ .off) ∧ ((b.arrives (.compData mid txid addr st data poison)).1 = true) ∧ (q.speaks mid = true) ∧ (q.reqOf mid txid = some r) ∧ ((mid % 32 = 17 ∧ mid / 32 < 12 ∧ st ≠ .i)) ∧ (¬ (r.timedOut = false ∧ c.wayEnabled n (lineSlice line) r.way = true ∧ (c.sail n).op0 = 0))) := by decide +kernel

theorem witness_CoherenceAnswers_39 :
    (let sail := 0; let slice := 0; let set := 5; let tags : List TagInfo := [⟨40, 3, .s⟩]; let b : Block := (Block.alone ({ sail0 with net := { landed := [.tagResp 0 0 5 [⟨40, 3, .s⟩]] } })).start; let q : Block := (b.arrives (.tagResp sail slice set tags)).2; (b.dev ≠ .off) ∧ ((b.arrives (.tagResp sail slice set tags)).1 = false))
    ∧ (let sail := 0; let slice := 0; let set := 5; let tags : List TagInfo := [⟨40, 3, .s⟩]; let b : Block := (Block.alone (base)).start; let q : Block := (b.arrives (.tagResp sail slice set tags)).2; (b.dev ≠ .off) ∧ ((b.arrives (.tagResp sail slice set tags)).1 = true) ∧ (q.active? sail = false))
    ∧ (let mid := 17; let txid := 1; let addr := 0x1000; let b : Block := (Block.alone ({ sail0 with net := { landed := [.comp 17 0 1 0x1000] } })).start; let q : Block := (b.arrives (.compMsg mid txid addr)).2; (b.dev ≠ .off) ∧ ((b.arrives (.compMsg mid txid addr)).1 = false))
    ∧ (let mid := 17; let txid := 1; let addr := 0x1000; let b : Block := (Block.alone (base)).start; let q : Block := (b.arrives (.compMsg mid txid addr)).2; (b.dev ≠ .off) ∧ ((b.arrives (.compMsg mid txid addr)).1 = true) ∧ (q.speaks mid = false))
    ∧ (let mid := 17; let txid := 1; let addr := 0x1000; let b : Block := (Block.alone (sail0)).start; let q : Block := (b.arrives (.compMsg mid txid addr)).2; (b.dev ≠ .off) ∧ ((b.arrives (.compMsg mid txid addr)).1 = true) ∧ (q.speaks mid = true) ∧ (q.reqOf mid txid = none))
    ∧ (let sail := 0; let addr := 0x1000; let b : Block := (Block.alone ({ sail0 with net := { landed := [.evictAck 0 0 1 0x1000] } })).start; let q : Block := (b.arrives (.evictAck sail addr)).2; (b.dev ≠ .off) ∧ ((b.arrives (.evictAck sail addr)).1 = false)) := by decide +kernel

theorem witness_CoherenceAnswers_40 :
    (let sail := 0; let addr := 0x1000; let b : Block := (Block.alone (sail0.modCoh fun c => { c with wb := [{ sail := 0, line := 64, dirty := true }], reqs := [{ mid := 17, part := 0, txid := 1, kind := .wbDirty, line := 64, way := 3 }] })).start; let q : Block := (b.arrives (.evictAck sail addr)).2; (b.dev ≠ .off) ∧ ((b.arrives (.evictAck sail addr)).1 = true)) := by decide +kernel

theorem witness_CoherenceAnswers_41 :
    (let mid := 17; let txid := 1; let addr := 0x1000; let k := 2; let r := { mid := 17, part := 0, txid := 1, kind := .rdShared, line := 64, way := 3, timedOut := true }; let b : Block := (Block.alone ((sail0.modCoh fun c => { c with reqs := [{ mid := 17, part := 0, txid := 1, kind := .rdShared, line := 64, way := 3, timedOut := true }] }))).start; let q : Block := (b.arrives (.retryMsg mid txid addr k)).2; (b.dev ≠ .off) ∧ ((b.arrives (.retryMsg mid txid addr k)).1 = true) ∧ (q.reqOf mid txid = some r) ∧ (r.line = addr / 64) ∧ (r.timedOut = true)) := by decide +kernel

theorem witness_CoherenceAnswers_42 :
    (let mid := 17; let txid := 1; let addr := 0x1000; let k := 2; let r := { mid := 17, part := 0, txid := 1, kind := .rdShared, line := 64, way := 3 }; let b : Block := (Block.alone ((sail0.modCoh fun c => { c with reqs := [{ mid := 17, part := 0, txid := 1, kind := .rdShared, line := 64, way := 3 }] }))).start; let q : Block := (b.arrives (.retryMsg mid txid addr k)).2; (b.dev ≠ .off) ∧ ((b.arrives (.retryMsg mid txid addr k)).1 = true) ∧ (q.reqOf mid txid = some r) ∧ (r.line = addr / 64) ∧ (r.timedOut = false)) := by decide +kernel

theorem witness_CoherenceAnswers_43 :
    (let mid := 17; let txid := 1; let r := { mid := 17, part := 0, txid := 1, kind := .rdShared, line := 64, way := 3, backoff := true, timedOut := true }; let b : Block := (Block.alone ((sail0.modCoh fun c => { c with reqs := [{ mid := 17, part := 0, txid := 1, kind := .rdShared, line := 64, way := 3, backoff := true, timedOut := true }] }))).start; (b.dev ≠ .off) ∧ (b.reqOf mid txid = some r) ∧ (r.backoff = true) ∧ (r.timedOut = true)) := by decide +kernel

theorem witness_CoherenceAnswers_44 :
    (let mid := 17; let txid := 1; let r := { mid := 17, part := 0, txid := 1, kind := .rdShared, line := 64, way := 3, backoff := true }; let b : Block := (Block.alone ((sail0.modCoh fun c => { c with reqs := [{ mid := 17, part := 0, txid := 1, kind := .rdShared, line := 64, way := 3, backoff := true }] }))).start; (b.dev ≠ .off) ∧ (b.reqOf mid txid = some r) ∧ (r.backoff = true) ∧ (r.timedOut = false)) := by decide +kernel

theorem witness_CoherenceAnswers_45 :
    (let mid := 17; let txid := 1; let addr := 0x1000; let k := 2; let b : Block := (Block.alone ({ sail0 with net := { landed := [.retry 17 0 1 0x1000 2] } })).start; let q : Block := (b.arrives (.retryMsg mid txid addr k)).2; (b.dev ≠ .off) ∧ ((b.arrives (.retryMsg mid txid addr k)).1 = false))
    ∧ (let mid := 17; let txid := 1; let addr := 0x1000; let k := 2; let b : Block := (Block.alone (sail0)).start; let q : Block := (b.arrives (.retryMsg mid txid addr k)).2; (b.dev ≠ .off) ∧ ((b.arrives (.retryMsg mid txid addr k)).1 = true) ∧ ((match q.reqOf mid txid with | none => true | some r => r.line ≠ addr / 64) = true))
    ∧ (let mid := 17; let txid := 1; let b : Block := (Block.alone (sail0)).start; ((match b.reqOf mid txid with | none => true | some r => !r.backoff) = true)) := by decide +kernel

theorem witness_CoherenceTimeouts :
    (let mid := 0x1A0; let txid := 1; let r := { mid := 0x1A0, part := 0, txid := 1, kind := .wrFull, line := 64 }; let b : Block := (Block.alone ((sail0.modCoh fun c => { c with reqs := [{ mid := 0x1A0, part := 0, txid := 1, kind := .wrFull, line := 64 }], waiting := [{ mid := 0x1A0, part := 0, txid := 1, kind := .wrFull, line := 64 }] }))).start; let c : Block := ((b.modReq mid txid (fun r => { r with timedOut := true })).note { code := 0x2403, mid := some mid, addr := some (r.line * 64) }).modCoh (fun c => { c with starving := c.starving.filter (fun e => e.2 ≠ (r.mid, r.txid)) }); let f : Txn → Txn := fun t => if t.mid = r.mid && t.txid = r.txid && t.line = r.line && t.kind = r.kind then { t with dropped := true } else t; let d : Block := if r.kind = .wrFull ∨ r.kind = .wrPart then c.modCoh (fun c => { c with txns := c.txns.map f, waiting := c.waiting.map f }) else c; (b.dev ≠ .off) ∧ (b.reqOf mid txid = some r) ∧ (r.timedOut = false) ∧ (r.mid % 32 ≠ 17)) := by decide +kernel

theorem witness_CoherenceTimeouts_2 :
    (let mid := 17; let txid := 1; let r := { mid := 17, part := 0, txid := 1, kind := .rdShared, line := 64 }; let b : Block := (Block.alone ((sail0.modCoh fun c => { c with reqs := [{ mid := 17, part := 0, txid := 1, kind := .rdShared, line := 64 }], starving := [(0, 17, 1)] }))).start; let c : Block := ((b.modReq mid txid (fun r => { r with timedOut := true })).note { code := 0x2403, mid := some mid, addr := some (r.line * 64) }).modCoh (fun c => { c with starving := c.starving.filter (fun e => e.2 ≠ (r.mid, r.txid)) }); let f : Txn → Txn := fun t => if t.mid = r.mid && t.txid = r.txid && t.line = r.line && t.kind = r.kind then { t with dropped := true } else t; let d : Block := if r.kind = .wrFull ∨ r.kind = .wrPart then c.modCoh (fun c => { c with txns := c.txns.map f, waiting := c.waiting.map f }) else c; let n : Nat := r.mid / 32; (b.dev ≠ .off) ∧ (b.reqOf mid txid = some r) ∧ (r.timedOut = false) ∧ (r.mid % 32 = 17) ∧ (¬ (r.mid % 32 = 17 ∧ n < 12 ∧ (r.mnt = true ∨ (d.sail n).mntWait.contains r.line = true)))) := by decide +kernel

theorem witness_CoherenceTimeouts_3 :
    (let mid := 17; let txid := 1; let r := { mid := 17, part := 0, txid := 1, kind := .rdShared, line := 64, mnt := true }; let b : Block := (Block.alone ((sail0.modCoh fun c => { c with reqs := [{ mid := 17, part := 0, txid := 1, kind := .rdShared, line := 64, mnt := true }] }))).start; let c : Block := ((b.modReq mid txid (fun r => { r with timedOut := true })).note { code := 0x2403, mid := some mid, addr := some (r.line * 64) }).modCoh (fun c => { c with starving := c.starving.filter (fun e => e.2 ≠ (r.mid, r.txid)) }); let f : Txn → Txn := fun t => if t.mid = r.mid && t.txid = r.txid && t.line = r.line && t.kind = r.kind then { t with dropped := true } else t; let d : Block := if r.kind = .wrFull ∨ r.kind = .wrPart then c.modCoh (fun c => { c with txns := c.txns.map f, waiting := c.waiting.map f }) else c; let n : Nat := r.mid / 32; (b.dev ≠ .off) ∧ (b.reqOf mid txid = some r) ∧ (r.timedOut = false) ∧ (r.mid % 32 = 17 ∧ n < 12 ∧ (r.mnt = true ∨ (d.sail n).mntWait.contains r.line = true))) := by decide +kernel

theorem witness_CoherenceTimeouts_4 :
    (let mid := 49; let txid := 1; let addr := 0x1000; let n := 0; let l : List Nat := []; let t := { mid := 49, part := 0, txid := 1, kind := .rdShared, line := 64, awaitResp := [0] }; let b : Block := (Block.alone (sail0.modCoh fun c => { c with txns := [{ mid := 49, part := 0, txid := 1, kind := .rdShared, line := 64, awaitResp := [0] }] })).start; (b.dev ≠ .off) ∧ (b.txnOf (addr / 64) = some t) ∧ (t.mid = mid) ∧ (t.txid = txid) ∧ (t.awaitResp ++ t.awaitData = n :: l)) := by decide +kernel

theorem witness_CoherenceTimeouts_5 :
    (let mid := 49; let txid := 1; let addr := 0x1000; let t := { mid := 49, part := 0, txid := 1, kind := .rdShared, line := 64 }; let b : Block := (Block.alone (sail0.modCoh fun c => { c with txns := [{ mid := 49, part := 0, txid := 1, kind := .rdShared, line := 64 }] })).start; (b.dev ≠ .off) ∧ (b.txnOf (addr / 64) = some t) ∧ (t.mid = mid) ∧ (t.txid = txid) ∧ (t.awaitResp = []) ∧ (t.awaitData = [])) := by decide +kernel

theorem witness_CoherenceTimeouts_6 :
    (let mid := 17; let txid := 1; let b : Block := (Block.alone (sail0)).start; ((match b.reqOf mid txid with | none => true | some r => r.timedOut) = true))
    ∧ (let mid := 49; let txid := 1; let addr := 0x1000; let b : Block := (Block.alone (sail0)).start; ((match b.txnOf (addr / 64) with | none => true | some t => t.mid ≠ mid || t.txid ≠ txid) = true))
    ∧ (let bank := 0; let corrected := false; let b : Block := (Block.alone (base)).start; ((b.filterMode = false ∨ 8 ≤ bank)))
    ∧ (let bank := 7; let corrected := true; let b : Block := (Block.alone (base.put HOM_CFG_MODE 1 0)).start; (b.dev ≠ .off) ∧ (b.filterMode = true) ∧ (bank < 8) ∧ (corrected = true))
    ∧ (let bank := 7; let corrected := false; let b : Block := (Block.alone (base.put HOM_CFG_MODE 1 0)).start; (b.dev ≠ .off) ∧ (b.filterMode = true) ∧ (bank < 8) ∧ (corrected = false))
    ∧ (let bank := 2; let b : Block := (Block.alone (base)).start; (b.coh.rebuild.find? (fun r => r.bank = bank) = none)) := by decide +kernel

theorem witness_CoherenceTimeouts_7 :
    (let bank := 2; let r : Rebuild := { bank := 2, await := [0] }; let b : Block := (Block.alone (sail0.modCoh fun c => { c with rebuild := [{ bank := 2, await := [0] }] })).start; (b.coh.rebuild.find? (fun r => r.bank = bank) = some r) ∧ ((r.await ≠ [] ∨ b.coh.txns.any (fun t => lineSlice t.line = bank && lineSet t.line = r.set) = true))) := by decide +kernel

theorem witness_CoherenceTimeouts_8 :
    (let bank := 2; let r : Rebuild := { bank := 2 }; let b : Block := (Block.alone (sail0.modCoh fun c => { c with rebuild := [{ bank := 2 }] })).start; let c : Block := b.modCoh (fun c => { c with rebuild := c.rebuild.map (fun q => if q.bank = bank then { q with await := b.activeSails } else q) }); (b.dev ≠ .off) ∧ (b.coh.rebuild.find? (fun r => r.bank = bank) = some r) ∧ (r.await = []) ∧ (b.coh.txns.any (fun t => lineSlice t.line = bank && lineSet t.line = r.set) = false) ∧ (b.activeSails ≠ [])) := by decide +kernel

theorem witness_CoherenceTimeouts_9 :
    (let bank := 2; let r : Rebuild := { bank := 2 }; let b : Block := (Block.alone (base.modCoh fun c => { c with rebuild := [{ bank := 2 }] })).start; let c : Block := b.modCoh (fun c => { c with rebuild := c.rebuild.map (fun q => if q.bank = bank then { q with await := b.activeSails } else q) }); (b.dev ≠ .off) ∧ (b.coh.rebuild.find? (fun r => r.bank = bank) = some r) ∧ (r.await = []) ∧ (b.coh.txns.any (fun t => lineSlice t.line = bank && lineSet t.line = r.set) = false) ∧ (b.activeSails = [])) := by decide +kernel

theorem witness_CoherenceTimeouts_10 :
    (let filter := true; let b : Block := (Block.alone ({ base with dev := .run })).start; (b.dev ≠ .selftest) ∧ (b.dev ≠ .service))
    ∧ (let filter := true; let b : Block := (Block.alone (({ base with dev := .selftest } : Block).setL3 0 0 { st := .m })).start; (b.dev = .selftest ∨ b.dev = .service) ∧ (¬ (b.coh.l3 = [] ∧ b.coh.wb = [] ∧ b.coh.txns = [] ∧ b.coh.waiting = [] ∧ (filter = true → b.coh.dir = []))))
    ∧ (let filter := true; let b : Block := (Block.alone ({ base with dev := .selftest })).start; (b.dev = .selftest ∨ b.dev = .service) ∧ ((b.coh.l3 = [] ∧ b.coh.wb = [] ∧ b.coh.txns = [] ∧ b.coh.waiting = [] ∧ (filter = true → b.coh.dir = []))))
    ∧ (let sail := 0; let b : Block := (Block.alone (base)).start; ((12 ≤ sail ∨ b.isSet GOV_SAILSTAT_POISONING sail = false)))
    ∧ (let sail := 0; let b : Block := (Block.alone (base.put GOV_SAILSTAT_POISONING 1 0)).start; (b.dev ≠ .off) ∧ (sail < 12) ∧ (b.isSet GOV_SAILSTAT_POISONING sail = true)) := by decide +kernel

theorem witness_MillraceRows :
    (let link := 111; let lane := 1; let corrected := true; let b : Block := (Block.alone (base)).start; let c : Block := (({ b with net := { b.net with corr := SMap.upd 0 (link * 2 + lane) (· + 1) b.net.corr } } : Block).inc MRC_ERRCNT_CORR).noteOnce 0 { code := 0x1507 }; (b.dev ≠ .off) ∧ (¬ (112 ≤ link ∨ 2 ≤ lane ∨ b.mesh.lanes.contains (link * 2 + lane) = true)) ∧ (corrected = true) ∧ (SMap.get 0 (link * 2 + lane) c.net.corr ≤ 16)) := by decide +kernel

theorem witness_MillraceRows_2 :
    (let link := 111; let lane := 0; let corrected := false; let b : Block := (Block.alone (base.modMesh fun m => { m with lanes := [223] })).start; let c : Block := (({ b with net := { b.net with corr := SMap.upd 0 (link * 2 + lane) (· + 1) b.net.corr } } : Block).inc MRC_ERRCNT_CORR).noteOnce 0 { code := 0x1507 }; let d : Block := if corrected then c else b.poisonFlit link; let e : Block := d.modMesh (fun m => { m with lanes := sinsert (link * 2 + lane) m.lanes }); (b.dev ≠ .off) ∧ (¬ (112 ≤ link ∨ 2 ≤ lane ∨ b.mesh.lanes.contains (link * 2 + lane) = true)) ∧ ((corrected = false ∨ 16 < SMap.get 0 (link * 2 + lane) c.net.corr)) ∧ (d.mesh.lanes.contains (link * 2 + (1 - lane)) = true)) := by decide +kernel

theorem witness_MillraceRows_3 :
    (let link := 0; let lane := 1; let corrected := true; let b : Block := (Block.alone (({ base with net := { corr := [(1, 16)] } } : Block).put MRC_EPOCH_DRAINING 1)).start; let c : Block := (({ b with net := { b.net with corr := SMap.upd 0 (link * 2 + lane) (· + 1) b.net.corr } } : Block).inc MRC_ERRCNT_CORR).noteOnce 0 { code := 0x1507 }; let d : Block := if corrected then c else b.poisonFlit link; let e : Block := d.modMesh (fun m => { m with lanes := sinsert (link * 2 + lane) m.lanes }); (b.dev ≠ .off) ∧ (¬ (112 ≤ link ∨ 2 ≤ lane ∨ b.mesh.lanes.contains (link * 2 + lane) = true)) ∧ ((corrected = false ∨ 16 < SMap.get 0 (link * 2 + lane) c.net.corr)) ∧ (d.mesh.lanes.contains (link * 2 + (1 - lane)) = false)) := by decide +kernel

theorem witness_MillraceRows_4 :
    (let router := 3; let f : Flit := { pkt := { tc := 1, ch := 1, opcode := 0x11, mid := 17, epoch := 1, msg := .snoop 0 .inv 17 0 1 64 } }; let b : Block := (Block.alone ({ base with net := { ins := [((3 * 8 + 1) * 8, [{ pkt := { tc := 1, ch := 1, opcode := 0x11, mid := 17, epoch := 1, msg := .snoop 0 .inv 17 0 1 64 } }])], box := [.snoop 0 .inv 17 0 1 64] } })).start; let o : Out := f.pkt.msg; let n : Net := b.net; let c : Block := { b with net := { n with ins := SMap.mapV [] (fun _ l => l.filter fun g => g.pkt.msg ≠ o) n.ins, src := SMap.mapV [] (fun _ l => l.filter fun g => !(g.body && decide (g.pkt.msg = o))) n.src, br := SMap.mapV [] (fun _ l => l.filter fun g => !(g.body && decide (g.pkt.msg = o))) n.br, outs := SMap.mapV {} (fun _ x => { x with lock := x.lock.filter fun l => l.2 ≠ o }) n.outs, box := n.box.erase o, fresh := n.fresh.erase o } }; (b.dev ≠ .off) ∧ (router < 64) ∧ (((b.net.ins.filter fun e => e.1 / 64 = router).flatMap (·.2)).find? (fun f => !f.body) = some f)) := by decide +kernel

theorem witness_MillraceRows_5 :
    (let link := 111; let lane := 1; let corrected := true; let b : Block := (Block.alone (base.modMesh fun m => { m with lanes := [223] })).start; ((112 ≤ link ∨ 2 ≤ lane ∨ b.mesh.lanes.contains (link * 2 + lane) = true)))
    ∧ (let router := 3; let b : Block := (Block.alone (base)).start; (b.dev ≠ .off) ∧ ((64 ≤ router ∨ ((b.net.ins.filter fun e => e.1 / 64 = router).flatMap (·.2)).find? (fun f => !f.body) = none)))
    ∧ (let mid := midGov; let bank := 1 - base.get MRC_EPOCH_CUR; let router := 63; let index := 7; let b : Block := (Block.alone (base)).start; (b.dev ≠ .off) ∧ ((mid = midGov ∧ bank < 2 ∧ router < 64 ∧ index < 8 ∧ bank ≠ b.get MRC_EPOCH_CUR ∧ b.get MRC_DRAIN_COUNT bank = 0 ∧ b.isSet MRC_EPOCH_DRAINING = false)))
    ∧ (let mid := 0; let bank := 1; let router := 0; let index := 0; let b : Block := (Block.alone (base)).start; (b.dev ≠ .off) ∧ (¬ (mid = midGov ∧ bank < 2 ∧ router < 64 ∧ index < 8 ∧ bank ≠ b.get MRC_EPOCH_CUR ∧ b.get MRC_DRAIN_COUNT bank = 0 ∧ b.isSet MRC_EPOCH_DRAINING = false)))
    ∧ (let mid := midGov; let b : Block := (Block.alone (base)).start; (b.dev ≠ .off) ∧ (mid = midGov))
    ∧ (let mid := 5; let b : Block := (Block.alone (base)).start; (b.dev ≠ .off) ∧ (mid ≠ midGov)) := by decide +kernel

theorem witness_MillraceRows_6 :
    (let b : Block := (Block.alone ((base.put MRC_EPOCH_DRAINING 1).modMesh fun m => { m with wantSwap := false })).start; let c : Block := (((b.put MRC_EPOCH_DRAINING 0).put MRC_EPOCH_DRAINTIME (min 65535 ((b.timeNs - b.mesh.swapNs) / 10)))).note { code := 0x050A }; (b.dev ≠ .off) ∧ (b.isSet MRC_EPOCH_DRAINING = true) ∧ (b.get MRC_DRAIN_COUNT (1 - b.get MRC_EPOCH_CUR) = 0) ∧ (b.mesh.wantSwap = false)) := by decide +kernel

theorem witness_MillraceRows_7 :
    (let b : Block := (Block.alone ((base.put MRC_EPOCH_DRAINING 1).modMesh fun m => { m with wantSwap := true })).start; let c : Block := (((b.put MRC_EPOCH_DRAINING 0).put MRC_EPOCH_DRAINTIME (min 65535 ((b.timeNs - b.mesh.swapNs) / 10)))).note { code := 0x050A }; (b.dev ≠ .off) ∧ (b.isSet MRC_EPOCH_DRAINING = true) ∧ (b.get MRC_DRAIN_COUNT (1 - b.get MRC_EPOCH_CUR) = 0) ∧ (b.mesh.wantSwap = true)) := by decide +kernel

theorem witness_MillraceRows_8 :
    (let b : Block := (Block.alone (base)).start; ((b.isSet MRC_EPOCH_DRAINING = false ∨ b.get MRC_DRAIN_COUNT (1 - b.get MRC_EPOCH_CUR) ≠ 0)))
    ∧ (let b : Block := (Block.alone (((base.put MRC_EPOCH_DRAINING 1).put MRC_DRAIN_COUNT 3 (1 - base.get MRC_EPOCH_CUR)).modMesh fun m => { m with swapAge := 2 })).start; (b.dev ≠ .off) ∧ ((b.isSet MRC_EPOCH_DRAINING = true ∧ b.get MRC_DRAIN_COUNT (1 - b.get MRC_EPOCH_CUR) ≠ 0 ∧ 2 ≤ b.mesh.swapAge)))
    ∧ (let b : Block := (Block.alone (base)).start; (¬ (b.isSet MRC_EPOCH_DRAINING = true ∧ b.get MRC_DRAIN_COUNT (1 - b.get MRC_EPOCH_CUR) ≠ 0 ∧ 2 ≤ b.mesh.swapAge))) := by decide +kernel

theorem witness_FlumeRows :
    (let sail := 0; let mid := 17; let code := 24; let addr := 0x1000; let part : Option Nat := none; let prefetch := true; let b : Block := (Block.alone (sail0)).start; let m : Nat := sail * 32 + mid % 32; let v : Nat := b.ioNode addr; (b.dev ≠ .off) ∧ (b.active? sail = true) ∧ ((b.sail sail).silent = false) ∧ (opChannel code ≠ none) ∧ (mid % 32 < 18) ∧ ((isRequest code = false ∨ prefetch = true ∨ part = none))) := by decide +kernel

theorem witness_FlumeRows_2 :
    (let sail := 0; let mid := 0; let code := 1; let addr := 0x1000; let part : Option Nat := some 0; let prefetch := false; let p := 0; let b : Block := (Block.alone (sail0)).start; let m : Nat := sail * 32 + mid % 32; let c : Block := (b.decideTc3 sail p).2; let v : Nat := c.ioNode addr; (b.dev ≠ .off) ∧ (b.active? sail = true) ∧ ((b.sail sail).silent = false) ∧ (opChannel code ≠ none) ∧ (mid % 32 < 18) ∧ (isRequest code = true) ∧ (prefetch = false) ∧ (part = some p) ∧ ((b.decideTc3 sail p).1 = false)) := by decide +kernel

theorem witness_FlumeRows_3 :
    (let sail := 0; let mid := 0; let code := 1; let addr := 0x1000; let part : Option Nat := some 0; let prefetch := false; let p := 0; let b : Block := (Block.alone ({ sail0 with mesh := { tokens := [(0, (5000, 0))] } }.put TRN_SLOT_VALID 1 0 |>.put TRN_SLOT_TC3 1 0 |>.put TRN_SLOT_END 1000 0)).start; let m : Nat := sail * 32 + mid % 32; let c : Block := (b.decideTc3 sail p).2; let v : Nat := c.ioNode addr; (b.dev ≠ .off) ∧ (b.active? sail = true) ∧ ((b.sail sail).silent = false) ∧ (opChannel code ≠ none) ∧ (mid % 32 < 18) ∧ (isRequest code = true) ∧ (prefetch = false) ∧ (part = some p) ∧ ((b.decideTc3 sail p).1 = true)) := by decide +kernel

theorem witness_FlumeRows_4 :
    (let sail := 0; let link := 0; let side := 0; let b : Block := (Block.alone (sail0.putUp 0 0 1)).start; let c : Block := if side = 0 then b.inc FLM_LINK_CRCERR sail link else b; let d : Block := (c.modLend sail link (1 - side) (fun e => { e with wire := e.wire.drop 1 })).modLend sail link side (fun e => { e with nakOwed := true }); (b.dev ≠ .off) ∧ (b.linkUp sail link = true) ∧ (side < 2)) := by decide +kernel

theorem witness_FlumeRows_5 :
    (let sail := 0; let link := 0; let side := 1; let seq := 5; let b : Block := (Block.alone (sail0.putUp 0 0 1 |>.modLend 0 0 1 fun e => { e with nakSeq := 5, nakCnt := 3, replay := [⟨5, { pkt := { tc := 1, ch := 1, opcode := 0x11, mid := 17, epoch := 1, msg := .snoop 0 .inv 17 0 1 64 } }⟩, ⟨4, { pkt := { tc := 1, ch := 1, opcode := 0x11, mid := 17, epoch := 1, msg := .snoop 0 .inv 17 0 1 64 } }⟩] })).start; let e : LinkEnd := b.lend sail link side; let cnt : Nat := if e.nakSeq = seq ∧ e.nakCnt ≠ 0 then e.nakCnt + 1 else 1; let again : List Frame := e.replay.filter (fun f => (f.seq + 1024 - seq) % 1024 < 512); let c : Block := b.modLend sail link side (fun e => { e with nakSeq := seq, nakCnt := cnt, replay := again, resend := again }); (b.dev ≠ .off) ∧ (b.linkUp sail link = true) ∧ (side < 2) ∧ (cnt < 16)) := by decide +kernel

theorem witness_FlumeRows_6 :
    (let sail := 0; let link := 0; let side := 1; let seq := 5; let b : Block := (Block.alone ((sail0.putUp 0 0 1 |>.modLend 0 0 1 fun e => { e with nakSeq := 5, nakCnt := 15, replay := [⟨5, { pkt := { tc := 1, ch := 1, opcode := 0x11, mid := 17, epoch := 1, msg := .snoop 0 .inv 17 0 1 64 } }⟩, ⟨4, { pkt := { tc := 1, ch := 1, opcode := 0x11, mid := 17, epoch := 1, msg := .snoop 0 .inv 17 0 1 64 } }⟩] }).putUp 0 1 1)).start; let e : LinkEnd := b.lend sail link side; let cnt : Nat := if e.nakSeq = seq ∧ e.nakCnt ≠ 0 then e.nakCnt + 1 else 1; let again : List Frame := e.replay.filter (fun f => (f.seq + 1024 - seq) % 1024 < 512); let c : Block := b.modLend sail link side (fun e => { e with nakSeq := seq, nakCnt := cnt, replay := again, resend := again }); let x : Block := c.putUp sail link 0; let y : Block := ((x.syncEnd sail link 0).syncEnd sail link 1).raise { code := 0x3504, detail := ofBool (decide (1333 < x.portLoad sail)) }; (b.dev ≠ .off) ∧ (b.linkUp sail link = true) ∧ (side < 2) ∧ (16 ≤ cnt) ∧ (x.linkUp sail (1 - link) = true) ∧ (x.portLoad sail ≤ 1333)) := by decide +kernel

theorem witness_FlumeRows_7 :
    (let sail := 0; let link := 0; let side := 1; let seq := 5; let b : Block := (Block.alone ((sail0.putUp 0 0 1 |>.modLend 0 0 1 fun e => { e with nakSeq := 5, nakCnt := 15, replay := [⟨5, { pkt := { tc := 1, ch := 1, opcode := 0x11, mid := 17, epoch := 1, msg := .snoop 0 .inv 17 0 1 64 } }⟩, ⟨4, { pkt := { tc := 1, ch := 1, opcode := 0x11, mid := 17, epoch := 1, msg := .snoop 0 .inv 17 0 1 64 } }⟩] }).putUp 0 1 1 |>.put MRC_EPOCH_DRAINING 1 |>.put FLM_TC3RATE_RATE 1000 0 0 |>.put TRN_SLOT_VALID 1 0 |>.put TRN_SLOT_TC3 1 0 |>.put TRN_SLOT_END 1000 0)).start; let e : LinkEnd := b.lend sail link side; let cnt : Nat := if e.nakSeq = seq ∧ e.nakCnt ≠ 0 then e.nakCnt + 1 else 1; let again : List Frame := e.replay.filter (fun f => (f.seq + 1024 - seq) % 1024 < 512); let c : Block := b.modLend sail link side (fun e => { e with nakSeq := seq, nakCnt := cnt, replay := again, resend := again }); let x : Block := c.putUp sail link 0; let y : Block := ((x.syncEnd sail link 0).syncEnd sail link 1).raise { code := 0x3504, detail := ofBool (decide (1333 < x.portLoad sail)) }; (b.dev ≠ .off) ∧ (b.linkUp sail link = true) ∧ (side < 2) ∧ (16 ≤ cnt) ∧ (x.linkUp sail (1 - link) = true) ∧ (1333 < x.portLoad sail)) := by decide +kernel

theorem witness_FlumeRows_8 :
    (let sail := 0; let link := 0; let side := 1; let seq := 5; let b : Block := (Block.alone (sail0.putUp 0 0 1 |>.modLend 0 0 1 fun e => { e with nakSeq := 5, nakCnt := 15, replay := [⟨5, { pkt := { tc := 1, ch := 1, opcode := 0x11, mid := 17, epoch := 1, msg := .snoop 0 .inv 17 0 1 64 } }⟩, ⟨4, { pkt := { tc := 1, ch := 1, opcode := 0x11, mid := 17, epoch := 1, msg := .snoop 0 .inv 17 0 1 64 } }⟩] })).start; let e : LinkEnd := b.lend sail link side; let cnt : Nat := if e.nakSeq = seq ∧ e.nakCnt ≠ 0 then e.nakCnt + 1 else 1; let again : List Frame := e.replay.filter (fun f => (f.seq + 1024 - seq) % 1024 < 512); let c : Block := b.modLend sail link side (fun e => { e with nakSeq := seq, nakCnt := cnt, replay := again, resend := again }); let x : Block := c.putUp sail link 0; (b.dev ≠ .off) ∧ (b.linkUp sail link = true) ∧ (side < 2) ∧ (16 ≤ cnt) ∧ (x.linkUp sail (1 - link) = false) ∧ (x.active? sail = true)) := by decide +kernel

theorem witness_FlumeRows_9 :
    (let sail := 0; let link := 0; let side := 1; let seq := 5; let b : Block := (Block.alone ((sail0.putUp 0 0 1 |>.modLend 0 0 1 fun e => { e with nakSeq := 5, nakCnt := 15, replay := [⟨5, { pkt := { tc := 1, ch := 1, opcode := 0x11, mid := 17, epoch := 1, msg := .snoop 0 .inv 17 0 1 64 } }⟩, ⟨4, { pkt := { tc := 1, ch := 1, opcode := 0x11, mid := 17, epoch := 1, msg := .snoop 0 .inv 17 0 1 64 } }⟩] }).put GOV_SAILSTAT_STATE 2 0)).start; let e : LinkEnd := b.lend sail link side; let cnt : Nat := if e.nakSeq = seq ∧ e.nakCnt ≠ 0 then e.nakCnt + 1 else 1; let again : List Frame := e.replay.filter (fun f => (f.seq + 1024 - seq) % 1024 < 512); let c : Block := b.modLend sail link side (fun e => { e with nakSeq := seq, nakCnt := cnt, replay := again, resend := again }); let x : Block := c.putUp sail link 0; (b.dev ≠ .off) ∧ (b.linkUp sail link = true) ∧ (side < 2) ∧ (16 ≤ cnt) ∧ (x.linkUp sail (1 - link) = false) ∧ (x.active? sail = false) ∧ (x.get GOV_SAILSTAT_STATE sail = 2)) := by decide +kernel

theorem witness_FlumeRows_10 :
    (let sail := 0; let link := 0; let side := 1; let seq := 5; let b : Block := (Block.alone ((sail0.putUp 0 0 1 |>.modLend 0 0 1 fun e => { e with nakSeq := 5, nakCnt := 15, replay := [⟨5, { pkt := { tc := 1, ch := 1, opcode := 0x11, mid := 17, epoch := 1, msg := .snoop 0 .inv 17 0 1 64 } }⟩, ⟨4, { pkt := { tc := 1, ch := 1, opcode := 0x11, mid := 17, epoch := 1, msg := .snoop 0 .inv 17 0 1 64 } }⟩] }).put GOV_SAILSTAT_STATE 5 0)).start; let e : LinkEnd := b.lend sail link side; let cnt : Nat := if e.nakSeq = seq ∧ e.nakCnt ≠ 0 then e.nakCnt + 1 else 1; let again : List Frame := e.replay.filter (fun f => (f.seq + 1024 - seq) % 1024 < 512); let c : Block := b.modLend sail link side (fun e => { e with nakSeq := seq, nakCnt := cnt, replay := again, resend := again }); let x : Block := c.putUp sail link 0; (b.dev ≠ .off) ∧ (b.linkUp sail link = true) ∧ (side < 2) ∧ (16 ≤ cnt) ∧ (x.linkUp sail (1 - link) = false) ∧ (x.active? sail = false) ∧ (x.get GOV_SAILSTAT_STATE sail ≠ 2)) := by decide +kernel

theorem witness_FlumeRows_11 :
    (let sail := 0; let mid := 0; let code := 1; let addr := 0x1000; let part : Option Nat := none; let prefetch := false; let b : Block := (Block.alone (base)).start; ((b.active? sail = false ∨ (b.sail sail).silent = true)))
    ∧ (let sail := 0; let mid := 0; let code := 63; let addr := 0x1000; let part : Option Nat := none; let prefetch := false; let b : Block := (Block.alone (sail0)).start; (b.dev ≠ .off) ∧ (b.active? sail = true) ∧ ((b.sail sail).silent = false) ∧ (opChannel code = none))
    ∧ (let sail := 0; let mid := 31; let code := 1; let addr := 0x1000; let part : Option Nat := none; let prefetch := false; let b : Block := (Block.alone (sail0)).start; (b.dev ≠ .off) ∧ (b.active? sail = true) ∧ ((b.sail sail).silent = false) ∧ (opChannel code ≠ none) ∧ (18 ≤ mid % 32))
    ∧ (let sail := 0; let link := 0; let side := 0; let b : Block := (Block.alone (base)).start; ((b.linkUp sail link = false ∨ 2 ≤ side)))
    ∧ (let sail := 0; let link := 0; let side := 0; let seq := 5; let b : Block := (Block.alone (base)).start; ((b.linkUp sail link = false ∨ 2 ≤ side)))
    ∧ (let sail := 0; let link := 0; let side := 1; let b : Block := (Block.alone (sail0.putUp 0 0 1 |>.modLend 0 0 1 fun e => { e with nakOwed := true })).start; (b.dev ≠ .off) ∧ ((b.linkUp sail link = true ∧ side < 2 ∧ (b.lend sail link side).nakOwed = true))) := by decide +kernel

theorem witness_FlumeRows_12 :
    (let sail := 0; let link := 0; let b : Block := (Block.alone ((sail0.putUp 0 0 1).putUp 0 1 1)).start; let x : Block := b.putUp sail link 0; let y : Block := ((x.syncEnd sail link 0).syncEnd sail link 1).raise { code := 0x3504, detail := ofBool (decide (1333 < x.portLoad sail)) }; (b.dev ≠ .off) ∧ (sail < 12) ∧ (link < 2) ∧ (b.linkUp sail link = true) ∧ (x.linkUp sail (1 - link) = true) ∧ (x.portLoad sail ≤ 1333)) := by decide +kernel

theorem witness_FlumeRows_13 :
    (let sail := 0; let link := 0; let b : Block := (Block.alone ((sail0.putUp 0 0 1).putUp 0 1 1 |>.put MRC_EPOCH_DRAINING 1 |>.put FLM_TC3RATE_RATE 1000 0 0 |>.put TRN_SLOT_VALID 1 0 |>.put TRN_SLOT_TC3 1 0 |>.put TRN_SLOT_END 1000 0)).start; let x : Block := b.putUp sail link 0; let y : Block := ((x.syncEnd sail link 0).syncEnd sail link 1).raise { code := 0x3504, detail := ofBool (decide (1333 < x.portLoad sail)) }; (b.dev ≠ .off) ∧ (sail < 12) ∧ (link < 2) ∧ (b.linkUp sail link = true) ∧ (x.linkUp sail (1 - link) = true) ∧ (1333 < x.portLoad sail)) := by decide +kernel

theorem witness_FlumeRows_14 :
    (let sail := 0; let link := 0; let side := 1; let b : Block := (Block.alone (base)).start; (¬ (b.linkUp sail link = true ∧ side < 2 ∧ (b.lend sail link side).nakOwed = true)))
    ∧ (let sail := 0; let link := 0; let b : Block := (Block.alone (base)).start; ((12 ≤ sail ∨ 2 ≤ link ∨ b.linkUp sail link = false)))
    ∧ (let sail := 0; let link := 0; let b : Block := (Block.alone (sail0.putUp 0 0 1)).start; let x : Block := b.putUp sail link 0; (b.dev ≠ .off) ∧ (sail < 12) ∧ (link < 2) ∧ (b.linkUp sail link = true) ∧ (x.linkUp sail (1 - link) = false) ∧ (x.active? sail = true))
    ∧ (let sail := 0; let link := 0; let b : Block := (Block.alone ((sail0.putUp 0 0 1).put GOV_SAILSTAT_STATE 2 0)).start; let x : Block := b.putUp sail link 0; (b.dev ≠ .off) ∧ (sail < 12) ∧ (link < 2) ∧ (b.linkUp sail link = true) ∧ (x.linkUp sail (1 - link) = false) ∧ (x.active? sail = false) ∧ (x.get GOV_SAILSTAT_STATE sail = 2))
    ∧ (let sail := 0; let link := 0; let b : Block := (Block.alone ((sail0.putUp 0 0 1).put GOV_SAILSTAT_STATE 5 0)).start; let x : Block := b.putUp sail link 0; (b.dev ≠ .off) ∧ (sail < 12) ∧ (link < 2) ∧ (b.linkUp sail link = true) ∧ (x.linkUp sail (1 - link) = false) ∧ (x.active? sail = false) ∧ (x.get GOV_SAILSTAT_STATE sail ≠ 2))
    ∧ (let sail := 0; let link := 0; let side := 0; let seq := 3; let b : Block := (Block.alone (base)).start; (¬ (link < 2 ∧ side < 2 ∧ b.linkUp sail link = true ∧ b.linkUp sail (1 - link) = false ∧ (b.lend sail (1 - link) side).hold = true))) := by decide +kernel

theorem witness_FlumeRows_15 :
    (let sail := 0; let link := 0; let side := 0; let seq := 3; let b : Block := (Block.alone (sail0.putUp 0 0 1 |>.modLend 0 1 0 fun e => { e with hold := true, replay := [⟨5, { pkt := { tc := 1, ch := 1, opcode := 0x11, mid := 17, epoch := 1, msg := .snoop 0 .inv 17 0 1 64 } }⟩, ⟨3, { pkt := { tc := 1, ch := 1, opcode := 0x11, mid := 17, epoch := 1, msg := .snoop 0 .inv 17 0 1 64 } }⟩] })).start; let dead : Nat := 1 - link; let d : LinkEnd := b.lend sail dead side; let again : List Frame := d.replay.filter (fun f => 0 < (f.seq + 1024 - seq) % 1024 && (f.seq + 1024 - seq) % 1024 < 512); let c : Block := (b.modLend sail dead side (fun e => { e with replay := [], txq := [], hold := false })).modLend sail link side (fun e => { e with txq := e.txq ++ again.map (·.flit) ++ d.txq }); (b.dev ≠ .off) ∧ ((link < 2 ∧ side < 2 ∧ b.linkUp sail link = true ∧ b.linkUp sail (1 - link) = false ∧ (b.lend sail (1 - link) side).hold = true))) := by decide +kernel

theorem witness_FlumeRows_16 :
    (let sail := 0; let link := 0; let side := 0; let b : Block := (Block.alone (base)).start; (¬ (link < 2 ∧ side < 2 ∧ b.linkUp sail link = true)))
    ∧ (let sail := 0; let link := 0; let side := 1; let b : Block := (Block.alone (sail0.putUp 0 0 1 |>.put TRN_NUM_NUM 7)).start; (b.dev ≠ .off) ∧ ((link < 2 ∧ side < 2 ∧ b.linkUp sail link = true)))
    ∧ (let sail := 0; let link := 0; let bmiss := true; let b : Block := (Block.alone (sail0.putUp 0 0 1)).start; (b.dev ≠ .off) ∧ (bmiss = true) ∧ (b.linkUp sail link = true))
    ∧ (let sail := 0; let link := 0; let bmiss := true; let b : Block := (Block.alone (base)).start; ((bmiss = false ∨ b.linkUp sail link = false)))
    ∧ (let sail := 0; let b : Block := (Block.alone (sail0.putUp 0 0 1)).start; (b.dev ≠ .off) ∧ ((b.linkUp sail 0 = true ∨ b.linkUp sail 1 = true)))
    ∧ (let sail := 0; let b : Block := (Block.alone (sail0)).start; (b.dev ≠ .off) ∧ (¬ (b.linkUp sail 0 = true ∨ b.linkUp sail 1 = true))) := by decide +kernel

theorem witness_FlumeRows_17 :
    (let sail := 0; let b : Block := (Block.alone (sail0)).start; (b.dev ≠ .off) ∧ (b.active? sail = true))
    ∧ (let sail := 0; let b : Block := (Block.alone (base)).start; (b.active? sail = false))
    ∧ (let sail := 0; let copy := 2; let turn := 65535; let b : Block := (Block.alone (sail0)).start; (b.dev ≠ .off) ∧ ((b.active? sail = true ∧ copy < 3 ∧ (b.sail sail).bndTurn ≠ turn % 65536)))
    ∧ (let sail := 0; let copy := 0; let turn := 5; let b : Block := (Block.alone (base)).start; (¬ (b.active? sail = true ∧ copy < 3 ∧ (b.sail sail).bndTurn ≠ turn % 65536)))
    ∧ (let sail := 0; let mid := 3; let b : Block := (Block.alone (base)).start; (b.dev ≠ .off) ∧ (mid ≠ midGov))
    ∧ (let sail := 0; let mid := midGov; let b : Block := (Block.alone (sail0)).start; (b.dev ≠ .off) ∧ (mid = midGov) ∧ ((b.active? sail = true ∧ b.linkUp sail 0 = false ∧ b.get FLM_LINK_RETRAIN sail 0 < 8))) := by decide +kernel

theorem witness_FlumeRows_18 :
    (let sail := 0; let mid := midGov; let b : Block := (Block.alone (base)).start; (mid = midGov) ∧ (¬ (b.active? sail = true ∧ b.linkUp sail 0 = false ∧ b.get FLM_LINK_RETRAIN sail 0 < 8)))
    ∧ (let sail := 0; let mid := 3; let b : Block := (Block.alone (base)).start; (b.dev ≠ .off) ∧ (mid ≠ midGov))
    ∧ (let sail := 0; let mid := midGov; let b : Block := (Block.alone (sail0)).start; (b.dev ≠ .off) ∧ (mid = midGov) ∧ ((b.active? sail = true ∧ b.linkUp sail 1 = false ∧ b.get FLM_LINK_RETRAIN sail 1 < 8)))
    ∧ (let sail := 0; let mid := midGov; let b : Block := (Block.alone (base)).start; (mid = midGov) ∧ (¬ (b.active? sail = true ∧ b.linkUp sail 1 = false ∧ b.get FLM_LINK_RETRAIN sail 1 < 8)))
    ∧ (let sail := 0; let link := 1; let b : Block := (Block.alone (sail0.modLend 0 1 0 fun e => { e with training := true })).start; (b.dev ≠ .off) ∧ ((b.active? sail = true ∧ link < 2 ∧ (b.lend sail link 0).training = true)))
    ∧ (let sail := 0; let link := 1; let b : Block := (Block.alone (base)).start; (¬ (b.active? sail = true ∧ link < 2 ∧ (b.lend sail link 0).training = true))) := by decide +kernel

theorem witness_MemoryRows :
    (let mc := 7; let capGiB := 8; let binIdx := 2; let mr := 5; let tj : Int := 40; let crcOk := true; let verified := true; let ok := false; let b : Block := (Block.alone (({ base with dev := .selftest } : Block))).start; let saved : Bool := b.savedTraining; let unfit : Option Nat := b.recordUnfit mc mr tj crcOk verified; let n : Block := if saved then b.note { code := 0x0603, detail := unfit.getD 0 } else b; (mc < 8) ∧ (b.dev = .selftest) ∧ (b.isSet MC_STATUS_TRAINED mc = false) ∧ ((saved = false ∨ unfit ≠ none)) ∧ (ok = false)) := by decide +kernel

theorem witness_MemoryRows_2 :
    (let mc := 7; let capGiB := 8; let binIdx := 2; let mr := 5; let tj : Int := 40; let crcOk := true; let verified := true; let ok := false; let b : Block := (Block.alone (({ base with dev := .selftest, dict := { base.dict with training := [(7, some { mr := 5, tj := 30, bin := 1 })] } } : Block))).start; let saved : Bool := b.savedTraining; let unfit : Option Nat := b.recordUnfit mc mr tj crcOk verified; let n : Block := if saved then b.note { code := 0x0603, detail := unfit.getD 0 } else b; let t : Block := if saved = true ∧ unfit = none then (b.put MC_STATUS_RESTORED 1 mc).put MC_CFG_BIN (((SMap.get none mc b.dict.training).map (·.bin)).getD 0) mc else (({ n with dict := { n.dict with training := SMap.set none mc (some { mr := mr, tj := tj, bin := binIdx }) n.dict.training } } : Block).put MC_STATUS_RESTORED 0 mc).put MC_CFG_BIN binIdx mc; let c : Block := t.put MC_STATUS_TRAINED 1 mc; let d : Block := { c with ms := { c.ms with caps := SMap.set 0 mc capGiB c.ms.caps } }; let c0 : Nat := SMap.get 0 0 d.ms.caps; (mc < 8) ∧ (b.dev = .selftest) ∧ (b.isSet MC_STATUS_TRAINED mc = false) ∧ ((¬ (saved = false ∨ unfit ≠ none) ∨ ok = true)) ∧ ((List.range 8).all (fun c => d.isSet MC_STATUS_TRAINED c) = false)) := by decide +kernel

theorem witness_MemoryRows_3 :
    (let mc := 7; let capGiB := 8; let binIdx := 2; let mr := 5; let tj : Int := 40; let crcOk := true; let verified := true; let ok := true; let b : Block := (Block.alone (({ ({ base with dev := .selftest } : Block) with ms := { base.ms with caps := (List.range 7).map fun c => (c, 8) } } : Block).forN 7 fun c b => b.put MC_STATUS_TRAINED 1 c)).start; let saved : Bool := b.savedTraining; let unfit : Option Nat := b.recordUnfit mc mr tj crcOk verified; let n : Block := if saved then b.note { code := 0x0603, detail := unfit.getD 0 } else b; let t : Block := if saved = true ∧ unfit = none then (b.put MC_STATUS_RESTORED 1 mc).put MC_CFG_BIN (((SMap.get none mc b.dict.training).map (·.bin)).getD 0) mc else (({ n with dict := { n.dict with training := SMap.set none mc (some { mr := mr, tj := tj, bin := binIdx }) n.dict.training } } : Block).put MC_STATUS_RESTORED 0 mc).put MC_CFG_BIN binIdx mc; let c : Block := t.put MC_STATUS_TRAINED 1 mc; let d : Block := { c with ms := { c.ms with caps := SMap.set 0 mc capGiB c.ms.caps } }; let c0 : Nat := SMap.get 0 0 d.ms.caps; (mc < 8) ∧ (b.dev = .selftest) ∧ (b.isSet MC_STATUS_TRAINED mc = false) ∧ ((¬ (saved = false ∨ unfit ≠ none) ∨ ok = true)) ∧ ((List.range 8).all (fun c => d.isSet MC_STATUS_TRAINED c) = true) ∧ (((List.range 8).all (fun c => SMap.get 0 c d.ms.caps = c0) = true ∧ (c0 = 8 ∨ c0 = 16 ∨ c0 = 32)))) := by decide +kernel

theorem witness_MemoryRows_4 :
    (let mc := 7; let capGiB := 16; let binIdx := 2; let mr := 5; let tj : Int := 40; let crcOk := true; let verified := true; let ok := true; let b : Block := (Block.alone (({ ({ base with dev := .selftest } : Block) with ms := { base.ms with caps := (List.range 7).map fun c => (c, 8) } } : Block).forN 7 fun c b => b.put MC_STATUS_TRAINED 1 c)).start; let saved : Bool := b.savedTraining; let unfit : Option Nat := b.recordUnfit mc mr tj crcOk verified; let n : Block := if saved then b.note { code := 0x0603, detail := unfit.getD 0 } else b; let t : Block := if saved = true ∧ unfit = none then (b.put MC_STATUS_RESTORED 1 mc).put MC_CFG_BIN (((SMap.get none mc b.dict.training).map (·.bin)).getD 0) mc else (({ n with dict := { n.dict with training := SMap.set none mc (some { mr := mr, tj := tj, bin := binIdx }) n.dict.training } } : Block).put MC_STATUS_RESTORED 0 mc).put MC_CFG_BIN binIdx mc; let c : Block := t.put MC_STATUS_TRAINED 1 mc; let d : Block := { c with ms := { c.ms with caps := SMap.set 0 mc capGiB c.ms.caps } }; let c0 : Nat := SMap.get 0 0 d.ms.caps; (mc < 8) ∧ (b.dev = .selftest) ∧ (b.isSet MC_STATUS_TRAINED mc = false) ∧ ((¬ (saved = false ∨ unfit ≠ none) ∨ ok = true)) ∧ ((List.range 8).all (fun c => d.isSet MC_STATUS_TRAINED c) = true) ∧ (¬ ((List.range 8).all (fun c => SMap.get 0 c d.ms.caps = c0) = true ∧ (c0 = 8 ∨ c0 = 16 ∨ c0 = 32)))) := by decide +kernel

theorem witness_MemoryRows_5 :
    (let mc := 7; let pass := true; let b : Block := (Block.alone ((({ base with dev := .selftest } : Block).put MC_CFG_CAP 1 7).forN 7 fun c b => b.put MC_STATUS_STPASS 1 c)).start; let c : Block := b.put MC_STATUS_STPASS 1 mc; (mc < 8) ∧ (b.dev = .selftest) ∧ (b.get MC_CFG_CAP mc ≠ 0) ∧ (pass = true) ∧ ((List.range 8).all (fun k => c.isSet MC_STATUS_STPASS k) = true)) := by decide +kernel

theorem witness_MemoryRows_6 :
    (let b : Block := (Block.alone (({ base with dev := .configWait, commit := { base.commit with state := 3 } } : Block).put MC_STATUS_INIT 1 7)).start; let c : Block := (b.initRegions b.ms.initPending).forN 8 (fun c b => b.put MC_STATUS_INIT 0 c); let d : Block := { c with ms := { c.ms with initPending := [] } }; ((List.range 8).all (fun c => !b.isSet MC_STATUS_INIT c) = false) ∧ ((d.dev = .configWait ∧ d.commit.state = 3))) := by decide +kernel

theorem witness_MemoryRows_7 :
    (let b : Block := (Block.alone (({ base with dev := .service, gov := { base.gov with resuming := true } } : Block).put MC_STATUS_INIT 1 7)).start; let c : Block := (b.initRegions b.ms.initPending).forN 8 (fun c b => b.put MC_STATUS_INIT 0 c); let d : Block := { c with ms := { c.ms with initPending := [] } }; ((List.range 8).all (fun c => !b.isSet MC_STATUS_INIT c) = false) ∧ ((d.dev = .service ∧ d.gov.resuming = true))) := by decide +kernel

theorem witness_MemoryRows_8 :
    (let b : Block := (Block.alone (({ base with dev := .selftest } : Block).put MC_STATUS_INIT 1 0)).start; let c : Block := (b.initRegions b.ms.initPending).forN 8 (fun c b => b.put MC_STATUS_INIT 0 c); let d : Block := { c with ms := { c.ms with initPending := [] } }; (b.dev ≠ .off) ∧ ((List.range 8).all (fun c => !b.isSet MC_STATUS_INIT c) = false) ∧ (¬ (d.dev = .configWait ∧ d.commit.state = 3)) ∧ (¬ (d.dev = .service ∧ d.gov.resuming = true))) := by decide +kernel

theorem witness_MemoryRows_9 :
    (let mc := 7; let capGiB := 8; let binIdx := 2; let mr := 5; let tj : Int := 40; let crcOk := true; let verified := true; let ok := true; let b : Block := (Block.alone (runBase)).start; ((8 ≤ mc ∨ b.dev ≠ .selftest ∨ b.isSet MC_STATUS_TRAINED mc = true)))
    ∧ (let mc := 7; let pass := true; let b : Block := (Block.alone (base)).start; ((8 ≤ mc ∨ b.dev ≠ .selftest ∨ b.get MC_CFG_CAP mc = 0)))
    ∧ (let mc := 7; let pass := false; let b : Block := (Block.alone (({ base with dev := .selftest } : Block).put MC_CFG_CAP 1 7)).start; (mc < 8) ∧ (b.dev = .selftest) ∧ (b.get MC_CFG_CAP mc ≠ 0) ∧ (pass = false))
    ∧ (let mc := 7; let pass := true; let b : Block := (Block.alone (({ base with dev := .selftest } : Block).put MC_CFG_CAP 1 7)).start; let c : Block := b.put MC_STATUS_STPASS 1 mc; (mc < 8) ∧ (b.dev = .selftest) ∧ (b.get MC_CFG_CAP mc ≠ 0) ∧ (pass = true) ∧ ((List.range 8).all (fun k => c.isSet MC_STATUS_STPASS k) = false))
    ∧ (let b : Block := (Block.alone (base)).start; ((List.range 8).all (fun c => !b.isSet MC_STATUS_INIT c) = true))
    ∧ (let mc := 8; let above := true; let b : Block := (Block.alone (base)).start; (8 ≤ mc)) := by decide +kernel

theorem witness_MemoryRows_10 :
    (let mid := 0x1A0; let part := 0; let pa := 0x1000; let e := 1; let m := 0; let tc3 := true; let b : Block := (Block.alone (dramSail)).start; let c : Block := if tc3 then (b.addErrs pa e m).takeTokens part pa false else b.addErrs pa e m; let r : (Nat × Bool) × Block := c.mcRead mid part (pa / 64 * 64); (b.dev ≠ .off) ∧ (b.dramOk pa = true)) := by decide +kernel

theorem witness_MemoryRows_11 :
    (let mc := 7; let above := false; let b : Block := (Block.alone (base)).start; (b.dev ≠ .off) ∧ (mc < 8) ∧ ((above = false ∨ b.isSet MC_STATUS_HOT mc = true)))
    ∧ (let mc := 7; let above := true; let b : Block := (Block.alone (base)).start; (b.dev ≠ .off) ∧ (mc < 8) ∧ (above = true) ∧ (b.isSet MC_STATUS_HOT mc = false))
    ∧ (let region := 5; let b : Block := (Block.alone (base)).start; ((b.ms.heldRegions.contains region = false ∨ b.cleanOpen region = true)))
    ∧ (let region := 5; let b : Block := (Block.alone ({ sail0 with ms := { base.ms with heldRegions := [5] } })).start; (b.dev ≠ .off) ∧ (b.ms.heldRegions.contains region = true) ∧ (b.cleanOpen region = false))
    ∧ (let mid := 0x1A0; let part := 0; let pa := 0x1000; let e := 1; let m := 0; let tc3 := false; let b : Block := (Block.alone (base)).start; (b.dramOk pa = false))
    ∧ (let mid := 0x1A0; let part := 0; let data := 0xAB; let poison := false; let pa := 0x1000; let mask := 1; let tc3 := false; let b : Block := (Block.alone (base)).start; (b.dramOk pa = false)) := by decide +kernel

theorem witness_MemoryRows_12 :
    (let mid := 0x1A0; let part := 0; let data := 0xAB; let poison := false; let pa := 0x1000; let mask := 2 ^ 64 - 1; let tc3 := true; let b : Block := (Block.alone (dramSail)).start; let a : Nat := pa / 64 * 64; let c : Block := if tc3 then b.takeTokens part pa true else b; (b.dev ≠ .off) ∧ (b.dramOk pa = true) ∧ (mask % 2 ^ 64 = 2 ^ 64 - 1)) := by decide +kernel

theorem witness_MemoryRows_13 :
    (let mid := 0x1A0; let part := 0; let data := 0xAB; let poison := false; let pa := 0x1000; let mask := 1; let tc3 := false; let b : Block := (Block.alone (dramSail)).start; let a : Nat := pa / 64 * 64; let c : Block := if tc3 then b.takeTokens part pa true else b; let r : (Nat × Bool) × Block := c.mcRead mid part a; let d : Block := r.2.mcWrite mid part a (mergeBytes r.1.1 data mask) (r.1.2 || poison) tc3; (b.dev ≠ .off) ∧ (b.dramOk pa = true) ∧ (¬ mask % 2 ^ 64 = 2 ^ 64 - 1)) := by decide +kernel

theorem witness_MemoryRows_14 :
    (let mc := 3; let e : MergeEnt := { mc := 3, line := 5, mask := 1, code := codeS }; let b : Block := (Block.alone ({ base with ms := { base.ms with merge := [{ mc := 3, line := 5, mask := 1, code := codeS }] } })).start; let c : Block := { b with ms := { b.ms with merge := listErase e b.ms.merge } }; let loc : Nat := e.line * 64; let d : Block := if e.check = true ∨ e.mask = 2 ^ 64 - 1 then c else (match decodeCopy e.code (c.copyErrs mc loc) (c.copyPoison mc loc) with | .corrected n => (c.setCopyErrs mc loc 0).mcCorrected mc e.pa loc n (0x1D0 + mc) markPart 1 | .uncorrectable => ((c.setCopyPoison mc loc true).setCopyErrs mc loc 0).mcUncorrectable mc e.pa loc (0x1D0 + mc) markPart 2 | _ => c); (b.dev ≠ .off) ∧ (b.ms.merge.find? (fun e => e.mc = mc) = some e)) := by decide +kernel

theorem witness_MemoryRows_15 :
    (let mc := 0; let e := 0; let m := 0; let x : Nat × Nat := (0, 0); let b : Block := (Block.alone ((dramSail.put DRS_CTL_EN 1 0).put MC_STATUS_INIT 0 0)).start; let d : Block := (b.put DRS_STATUS_RUN 1 mc).put DRS_POS_LINE (x.2 / 64 + 1) mc; let f : Block := { d with ms := { d.ms with dresserLines := SMap.upd 0 mc (· + 1) d.ms.dresserLines } }; (b.dev ≠ .off) ∧ (¬ (8 ≤ mc ∨ b.isSet DRS_CTL_EN mc = false ∨ b.isSet MC_STATUS_INIT mc = true)) ∧ (b.nextDress mc 300 (b.get DRS_POS_LINE mc * 64) = some x)) := by decide +kernel

theorem witness_MemoryRows_16 :
    (let mc := 0; let e := 0; let m := 0; let x : Nat × Nat := (0, 0); let b : Block := (Block.alone (((dramSail.put DRS_CTL_EN 1 0).put MC_STATUS_INIT 0 0).put DRS_POS_LINE 0xFFFFFFF 0)).start; let pass : Block := ((b.inc DRS_STATUS_PASSCNT mc).setR .DRS_LASTPASS (min (SMap.get 0 mc b.ms.passTurns) (2 ^ 32 - 1)) mc).note { code := 0x0609 }; let c : Block := { pass with ms := { pass.ms with passTurns := SMap.set 0 mc 0 pass.ms.passTurns } }; let d : Block := (c.put DRS_STATUS_RUN 1 mc).put DRS_POS_LINE (x.2 / 64 + 1) mc; let f : Block := { d with ms := { d.ms with dresserLines := SMap.upd 0 mc (· + 1) d.ms.dresserLines } }; (b.dev ≠ .off) ∧ (¬ (8 ≤ mc ∨ b.isSet DRS_CTL_EN mc = false ∨ b.isSet MC_STATUS_INIT mc = true)) ∧ (b.nextDress mc 300 (b.get DRS_POS_LINE mc * 64) = none) ∧ (b.dressable mc ≠ []) ∧ (c.nextDress mc 300 0 = some x)) := by decide +kernel

theorem witness_MemoryRows_17 :
    (let mc := 0; let e := 0; let m := 0; let b : Block := (Block.alone (({ ((dramSail.put DRS_CTL_EN 1 0).put MC_STATUS_INIT 0 0) with active := { recs := [(objKey 0x5400 1, [1, 0, 0, 0, 0, 0, 0, 0])] } } : Block).setR .MC_RD 32768 0 0 2)).start; let pass : Block := ((b.inc DRS_STATUS_PASSCNT mc).setR .DRS_LASTPASS (min (SMap.get 0 mc b.ms.passTurns) (2 ^ 32 - 1)) mc).note { code := 0x0609 }; let c : Block := { pass with ms := { pass.ms with passTurns := SMap.set 0 mc 0 pass.ms.passTurns } }; (b.dev ≠ .off) ∧ (¬ (8 ≤ mc ∨ b.isSet DRS_CTL_EN mc = false ∨ b.isSet MC_STATUS_INIT mc = true)) ∧ (b.nextDress mc 300 (b.get DRS_POS_LINE mc * 64) = none) ∧ (b.dressable mc ≠ []) ∧ (c.nextDress mc 300 0 = none)) := by decide +kernel

theorem witness_MemoryRows_18 :
    (let mc := 3; let b : Block := (Block.alone (base)).start; (b.ms.merge.find? (fun e => e.mc = mc) = none))
    ∧ (let mc := 0; let e := 0; let m := 0; let b : Block := (Block.alone (dramSail.put DRS_CTL_EN 1 0)).start; ((8 ≤ mc ∨ b.isSet DRS_CTL_EN mc = false ∨ b.isSet MC_STATUS_INIT mc = true)))
    ∧ (let mc := 0; let e := 0; let m := 0; let b : Block := (Block.alone (base.put DRS_CTL_EN 1 0)).start; (b.dev ≠ .off) ∧ (¬ (8 ≤ mc ∨ b.isSet DRS_CTL_EN mc = false ∨ b.isSet MC_STATUS_INIT mc = true)) ∧ (b.nextDress mc 300 (b.get DRS_POS_LINE mc * 64) = none) ∧ (b.dressable mc = []))
    ∧ (let mc := 0; let line := 0; let b : Block := (Block.alone (base)).start; ((b.dressable mc).find? (fun e => e.2.1 ≤ line * 64 && line * 64 < e.2.2) = none))
    ∧ (let mc := 0; let line := 5; let e : Nat × Nat × Nat := (dramSail.dressable 0).headD (9, 9, 9); let b : Block := (Block.alone (dramSail)).start; (b.dev ≠ .off) ∧ ((b.dressable mc).find? (fun e => e.2.1 ≤ line * 64 && line * 64 < e.2.2) = some e)) := by decide +kernel

theorem witness_LeavoPortStates :
    (let k := 5; let b : Block := (Block.alone (runBase.put LVP_CFG_EN 1 5)).start; (b.dev ≠ .off) ∧ ((k < 6 ∧ b.isSet LVP_CFG_EN k = true ∧ b.portSt k = 0 ∧ b.dev ≠ .boot ∧ b.pwr.tripped = false)))
    ∧ (let k := 5; let b : Block := (Block.alone (base)).start; (¬ (k < 6 ∧ b.isSet LVP_CFG_EN k = true ∧ b.portSt k = 0 ∧ b.dev ≠ .boot ∧ b.pwr.tripped = false)))
    ∧ (let k := 0; let lanes := 15; let b : Block := (Block.alone (base.put LVP_STATUS_STATE 1 0)).start; (b.dev ≠ .off) ∧ ((k < 6 ∧ b.portSt k = 1 ∧ lanes % 16 ≠ 0)))
    ∧ (let k := 0; let lanes := 15; let b : Block := (Block.alone (base)).start; (¬ (k < 6 ∧ b.portSt k = 1 ∧ lanes % 16 ≠ 0)))
    ∧ (let k := 0; let b : Block := (Block.alone (base.put LVP_STATUS_STATE 1 0)).start; (b.dev ≠ .off) ∧ ((k < 6 ∧ b.portSt k = 1)))
    ∧ (let k := 0; let b : Block := (Block.alone (base)).start; (¬ (k < 6 ∧ b.portSt k = 1))) := by decide +kernel

theorem witness_LeavoPortStates_2 :
    (let k := 0; let b : Block := (Block.alone (base)).start; (¬ (k < 6 ∧ b.portSt k = 2)))
    ∧ (let k := 0; let b : Block := (Block.alone (base.put LVP_STATUS_STATE 2 0)).start; (b.dev ≠ .off) ∧ ((k < 6 ∧ b.portSt k = 2)) ∧ ((b.toInit k).native k = true))
    ∧ (let k := 0; let b : Block := (Block.alone ((base.put LVP_STATUS_STATE 2 0).put LVP_CFG_MODE 1 0)).start; (b.dev ≠ .off) ∧ ((k < 6 ∧ b.portSt k = 2)) ∧ ((b.toInit k).native k = false))
    ∧ (let k := 0; let data : Bytes := []; let b : Block := (Block.alone (base)).start; (¬ (b.portTalks k = true ∧ b.native k = true)))
    ∧ (let k := 0; let data : Bytes := []; let b : Block := (Block.alone (base.put LVP_STATUS_STATE 4 0)).start; (b.dev ≠ .off) ∧ ((b.portTalks k = true ∧ b.native k = true)) ∧ (ctlOk data = false))
    ∧ (let k := 0; let data : Bytes := ctlBlock [1]; let b : Block := (Block.alone (base.put LVP_STATUS_STATE 4 0)).start; (b.dev ≠ .off) ∧ ((b.portTalks k = true ∧ b.native k = true)) ∧ (ctlOk data = true) ∧ (leAt 0 1 data ≠ 0x49)) := by decide +kernel

theorem witness_LeavoPortStates_3 :
    (let k := 0; let data : Bytes := ctlBlock [0x49, 0x31, 7, 0, 0, 8, 0, 0, 0, 8]; let b : Block := (Block.alone ((base.put LVP_STATUS_STATE 3 0).modPort 0 fun p => { p with sentAck := true })).start; let f : Nat := leAt 1 1 data; let c : Block := (b.put LVP_STATUS_PEP (leAt 2 2 data) k |>.put LVP_STATUS_PPEER (ofBool (bit f 4)) k |>.put LVP_STATUS_PARTNER 1 k |>.put LVP_PCRED_CREDITS (leAt 4 2 data) k |>.put LVP_PCRED_RSV (leAt 6 2 data) k).modPort k (fun p => { p with gotInit := true, gotAck := bit f 5 }); (b.dev ≠ .off) ∧ ((b.portTalks k = true ∧ b.native k = true)) ∧ (ctlOk data = true) ∧ ((leAt 0 1 data = 0x49 ∧ b.portSt k = 3)) ∧ ((leAt 1 1 data % 8 = 1 ∧ 2048 ≤ leAt 8 2 data)) ∧ (((c.port k).gotAck = true ∧ (c.port k).sentAck = true ∧ c.portSt k = 3))) := by decide +kernel

theorem witness_LeavoPortStates_4 :
    (let k := 0; let data : Bytes := ctlBlock [0x49, 0x31, 7, 0, 0, 8, 0, 0, 0, 8]; let b : Block := (Block.alone (base.put LVP_STATUS_STATE 3 0)).start; let f : Nat := leAt 1 1 data; let c : Block := (b.put LVP_STATUS_PEP (leAt 2 2 data) k |>.put LVP_STATUS_PPEER (ofBool (bit f 4)) k |>.put LVP_STATUS_PARTNER 1 k |>.put LVP_PCRED_CREDITS (leAt 4 2 data) k |>.put LVP_PCRED_RSV (leAt 6 2 data) k).modPort k (fun p => { p with gotInit := true, gotAck := bit f 5 }); (b.dev ≠ .off) ∧ ((b.portTalks k = true ∧ b.native k = true)) ∧ (ctlOk data = true) ∧ ((leAt 0 1 data = 0x49 ∧ b.portSt k = 3)) ∧ ((leAt 1 1 data % 8 = 1 ∧ 2048 ≤ leAt 8 2 data)) ∧ (¬ ((c.port k).gotAck = true ∧ (c.port k).sentAck = true ∧ c.portSt k = 3))) := by decide +kernel

theorem witness_LeavoPortStates_5 :
    (let k := 0; let b : Block := (Block.alone ((base.put LVP_STATUS_STATE 3 0).modPort 0 fun p => { p with gotInit := true, gotAck := true })).start; let ack : Bool := (b.port k).gotInit; let c : Block := (b.sendBlock k ([0x49, BitVec.ofNat 8 (1 + 8 + 16 + 32 * ofBool ack)] ++ leBytes 2 b.devEp ++ leBytes 2 2048 ++ leBytes 2 (b.get LVP_CFG_RSVCRED k) ++ leBytes 2 2048 ++ [BitVec.ofNat 8 (b.get LVP_STATUS_TXLANES k)])).modPort k (fun p => { p with sentAck := p.sentAck || ack }); (b.dev ≠ .off) ∧ ((k < 6 ∧ b.portSt k = 3 ∧ b.native k = true)) ∧ (((c.port k).gotAck = true ∧ (c.port k).sentAck = true ∧ c.portSt k = 3))) := by decide +kernel

theorem witness_LeavoPortStates_6 :
    (let k := 0; let b : Block := (Block.alone (base.put LVP_STATUS_STATE 3 0)).start; let ack : Bool := (b.port k).gotInit; let c : Block := (b.sendBlock k ([0x49, BitVec.ofNat 8 (1 + 8 + 16 + 32 * ofBool ack)] ++ leBytes 2 b.devEp ++ leBytes 2 2048 ++ leBytes 2 (b.get LVP_CFG_RSVCRED k) ++ leBytes 2 2048 ++ [BitVec.ofNat 8 (b.get LVP_STATUS_TXLANES k)])).modPort k (fun p => { p with sentAck := p.sentAck || ack }); (b.dev ≠ .off) ∧ ((k < 6 ∧ b.portSt k = 3 ∧ b.native k = true)) ∧ (¬ ((c.port k).gotAck = true ∧ (c.port k).sentAck = true ∧ c.portSt k = 3))) := by decide +kernel

theorem witness_LeavoPortStates_7 :
    (let k := 0; let data : Bytes := ctlBlock [0x49, 1]; let b : Block := (Block.alone (base.put LVP_STATUS_STATE 4 0)).start; ((b.portTalks k = true ∧ b.native k = true)) ∧ (ctlOk data = true) ∧ (leAt 0 1 data = 0x49) ∧ (b.portSt k ≠ 3))
    ∧ (let k := 0; let data : Bytes := ctlBlock [0x49, 0]; let b : Block := (Block.alone (base.put LVP_STATUS_STATE 3 0)).start; (b.dev ≠ .off) ∧ ((b.portTalks k = true ∧ b.native k = true)) ∧ (ctlOk data = true) ∧ ((leAt 0 1 data = 0x49 ∧ b.portSt k = 3)) ∧ (¬ (leAt 1 1 data % 8 = 1 ∧ 2048 ≤ leAt 8 2 data)))
    ∧ (let k := 0; let b : Block := (Block.alone (base)).start; (¬ (k < 6 ∧ b.portSt k = 3 ∧ b.native k = true)))
    ∧ (let k := 0; let b : Block := (Block.alone (base.put LVP_STATUS_STATE 4 0)).start; (b.dev ≠ .off) ∧ ((k < 6 ∧ b.portSt k = 4)))
    ∧ (let k := 0; let b : Block := (Block.alone (base)).start; (¬ (k < 6 ∧ b.portSt k = 4)))
    ∧ (let k := 0; let b : Block := (Block.alone (base.put LVP_STATUS_STATE 3 0)).start; (b.dev ≠ .off) ∧ ((k < 6 ∧ (b.portSt k = 4 ∨ b.portSt k = 3)))) := by decide +kernel

theorem witness_LeavoPortStates_8 :
    (let k := 0; let b : Block := (Block.alone (base)).start; (¬ (k < 6 ∧ (b.portSt k = 4 ∨ b.portSt k = 3))))
    ∧ (let k := 5; let b : Block := (Block.alone (base.put LVP_STATUS_STATE 4 0)).start; (b.dev ≠ .off) ∧ ((k < 6)))
    ∧ (let k := 6; let b : Block := (Block.alone (base)).start; (¬ (k < 6)))
    ∧ (let k := 0; let b : Block := (Block.alone (base.put LVP_STATUS_STATE 4 0)).start; (b.dev ≠ .off) ∧ ((b.portTalks k = true)))
    ∧ (let k := 0; let b : Block := (Block.alone (base)).start; (¬ (b.portTalks k = true)))
    ∧ (let k := 0; let data : Bytes := []; let b : Block := (Block.alone (base)).start; (¬ (b.portTalks k = true ∧ b.native k = true))) := by decide +kernel

theorem witness_LeavoPortStates_9 :
    (let k := 0; let data : Bytes := []; let b : Block := (Block.alone (base.put LVP_STATUS_STATE 4 0)).start; (b.dev ≠ .off) ∧ ((b.portTalks k = true ∧ b.native k = true)) ∧ (ctlOk data = false))
    ∧ (let k := 0; let data : Bytes := ctlBlock [1]; let b : Block := (Block.alone (base.put LVP_STATUS_STATE 4 0)).start; let m : Nat := leAt 1 1 data / 16; (b.dev ≠ .off) ∧ ((b.portTalks k = true ∧ b.native k = true)) ∧ (ctlOk data = true) ∧ (leAt 0 1 data ≠ 0x7A))
    ∧ (let k := 0; let data : Bytes := ctlBlock [0x7A, 0x0F]; let b : Block := (Block.alone (base.put LVP_STATUS_STATE 4 0)).start; let m : Nat := leAt 1 1 data / 16; ((b.portTalks k = true ∧ b.native k = true)) ∧ (ctlOk data = true) ∧ (leAt 0 1 data = 0x7A) ∧ (m = 0))
    ∧ (let k := 0; let data : Bytes := ctlBlock [0x7A, 0xF0]; let b : Block := (Block.alone (base.put LVP_STATUS_STATE 4 0)).start; let m : Nat := leAt 1 1 data / 16; (b.dev ≠ .off) ∧ ((b.portTalks k = true ∧ b.native k = true)) ∧ (ctlOk data = true) ∧ ((leAt 0 1 data = 0x7A ∧ m ≠ 0))) := by decide +kernel

theorem witness_LeavoBlocks :
    (let k := 0; let data : Bytes := ctlBlock [75]; let b : Block := (Block.alone ((base.put LVP_STATUS_STATE 3 0))).start; let p : Block := b.put LVP_STATUS_PARTNER 1 k; let c : Block := if p.isSet LVP_CFG_PEER k = true ∧ p.actN 0x2000 2 = 3 then p.modTu (fun t => { t with peerTurn := leAt 4 6 data, peerNs := p.timeNs - (leAt 12 2 data + p.get LVP_LINK_RTT k / 2) }) else p; (b.dev ≠ .off) ∧ (b.portTalks k = true) ∧ (ctlOk data = true) ∧ (leAt 0 1 data = 75) ∧ (¬ (c.portSt k = 4 ∧ c.native k = true))) := by decide +kernel

theorem witness_LeavoBlocks_2 :
    (let k := 0; let data : Bytes := ctlBlock [75]; let b : Block := (Block.alone ((base.put LVP_STATUS_STATE 4 0))).start; let p : Block := b.put LVP_STATUS_PARTNER 1 k; let c : Block := if p.isSet LVP_CFG_PEER k = true ∧ p.actN 0x2000 2 = 3 then p.modTu (fun t => { t with peerTurn := leAt 4 6 data, peerNs := p.timeNs - (leAt 12 2 data + p.get LVP_LINK_RTT k / 2) }) else p; let cum : Nat := leAt 24 3 data; let d : Nat := (cum + 2 ^ 24 - (c.port k).rxCum % 2 ^ 24) % 2 ^ 24; let e : Block := c.modPort k (fun p => { p with rxCum := cum, rxFreed := (p.rxFreed + d) % 2 ^ 24 }); (b.dev ≠ .off) ∧ (b.portTalks k = true) ∧ (ctlOk data = true) ∧ (leAt 0 1 data = 75) ∧ ((c.portSt k = 4 ∧ c.native k = true)) ∧ (d = 0)) := by decide +kernel

theorem witness_LeavoBlocks_3 :
    (let k := 0; let data : Bytes := ctlBlock [75]; let b : Block := (Block.alone ((base.put LVP_STATUS_STATE 4 0).modPort 0 fun p => { p with rxCum := 0xFFFFFF })).start; let p : Block := b.put LVP_STATUS_PARTNER 1 k; let c : Block := if p.isSet LVP_CFG_PEER k = true ∧ p.actN 0x2000 2 = 3 then p.modTu (fun t => { t with peerTurn := leAt 4 6 data, peerNs := p.timeNs - (leAt 12 2 data + p.get LVP_LINK_RTT k / 2) }) else p; let cum : Nat := leAt 24 3 data; let d : Nat := (cum + 2 ^ 24 - (c.port k).rxCum % 2 ^ 24) % 2 ^ 24; let e : Block := c.modPort k (fun p => { p with rxCum := cum, rxFreed := (p.rxFreed + d) % 2 ^ 24 }); (b.dev ≠ .off) ∧ (b.portTalks k = true) ∧ (ctlOk data = true) ∧ (leAt 0 1 data = 75) ∧ ((c.portSt k = 4 ∧ c.native k = true)) ∧ (0 < d) ∧ (d < 2 ^ 23)) := by decide +kernel

theorem witness_LeavoBlocks_4 :
    (let k := 0; let data : Bytes := ctlBlock [75]; let b : Block := (Block.alone ((base.put LVP_STATUS_STATE 4 0).modPort 0 fun p => { p with rxCum := 1 })).start; let p : Block := b.put LVP_STATUS_PARTNER 1 k; let c : Block := if p.isSet LVP_CFG_PEER k = true ∧ p.actN 0x2000 2 = 3 then p.modTu (fun t => { t with peerTurn := leAt 4 6 data, peerNs := p.timeNs - (leAt 12 2 data + p.get LVP_LINK_RTT k / 2) }) else p; let cum : Nat := leAt 24 3 data; let d : Nat := (cum + 2 ^ 24 - (c.port k).rxCum % 2 ^ 24) % 2 ^ 24; let e : Block := c.modPort k (fun p => { p with rxCum := cum, rxFreed := (p.rxFreed + d) % 2 ^ 24 }); (b.dev ≠ .off) ∧ (b.portTalks k = true) ∧ (ctlOk data = true) ∧ (leAt 0 1 data = 75) ∧ ((c.portSt k = 4 ∧ c.native k = true)) ∧ (2 ^ 23 ≤ d)) := by decide +kernel

theorem witness_LeavoBlocks_5 :
    (let k := 0; let data : Bytes := []; let b : Block := (Block.alone (base)).start; (b.portTalks k = false))
    ∧ (let k := 0; let data : Bytes := []; let b : Block := (Block.alone ((base.put LVP_STATUS_STATE 4 0))).start; (b.dev ≠ .off) ∧ (b.portTalks k = true) ∧ (ctlOk data = false))
    ∧ (let k := 0; let data : Bytes := ctlBlock [1]; let b : Block := (Block.alone ((base.put LVP_STATUS_STATE 4 0))).start; (b.dev ≠ .off) ∧ (b.portTalks k = true) ∧ (ctlOk data = true) ∧ (leAt 0 1 data ≠ 75))
    ∧ (let k := 0; let data : Bytes := []; let b : Block := (Block.alone (base)).start; (b.portTalks k = false))
    ∧ (let k := 0; let data : Bytes := []; let b : Block := (Block.alone ((base.put LVP_STATUS_STATE 4 0))).start; (b.dev ≠ .off) ∧ (b.portTalks k = true) ∧ (ctlOk data = false))
    ∧ (let k := 0; let data : Bytes := ctlBlock [1]; let b : Block := (Block.alone ((base.put LVP_STATUS_STATE 4 0))).start; (b.dev ≠ .off) ∧ (b.portTalks k = true) ∧ (ctlOk data = true) ∧ (leAt 0 1 data ≠ 77)) := by decide +kernel

theorem witness_LeavoBlocks_6 :
    (let k := 0; let data : Bytes := ctlBlock [77]; let b : Block := (Block.alone ((base.put LVP_STATUS_STATE 4 0))).start; let c : Block := b.put LVP_STATUS_PARTNER 1 k; let cum : Nat := leAt 6 3 data; let d : Nat := (cum + 2 ^ 24 - (c.port k).rxCum % 2 ^ 24) % 2 ^ 24; let e : Block := c.modPort k (fun p => { p with rxCum := cum, rxFreed := (p.rxFreed + d) % 2 ^ 24 }); (b.dev ≠ .off) ∧ (b.portTalks k = true) ∧ (ctlOk data = true) ∧ (leAt 0 1 data = 77) ∧ ((c.portSt k = 4 ∧ c.native k = true)) ∧ (d = 0)) := by decide +kernel

theorem witness_LeavoBlocks_7 :
    (let k := 0; let data : Bytes := ctlBlock [77]; let b : Block := (Block.alone ((base.put LVP_STATUS_STATE 4 0).modPort 0 fun p => { p with rxCum := 0xFFFFFF })).start; let c : Block := b.put LVP_STATUS_PARTNER 1 k; let cum : Nat := leAt 6 3 data; let d : Nat := (cum + 2 ^ 24 - (c.port k).rxCum % 2 ^ 24) % 2 ^ 24; let e : Block := c.modPort k (fun p => { p with rxCum := cum, rxFreed := (p.rxFreed + d) % 2 ^ 24 }); (b.dev ≠ .off) ∧ (b.portTalks k = true) ∧ (ctlOk data = true) ∧ (leAt 0 1 data = 77) ∧ ((c.portSt k = 4 ∧ c.native k = true)) ∧ (0 < d) ∧ (d < 2 ^ 23)) := by decide +kernel

theorem witness_LeavoBlocks_8 :
    (let k := 0; let data : Bytes := ctlBlock [77]; let b : Block := (Block.alone ((base.put LVP_STATUS_STATE 4 0).modPort 0 fun p => { p with rxCum := 1 })).start; let c : Block := b.put LVP_STATUS_PARTNER 1 k; let cum : Nat := leAt 6 3 data; let d : Nat := (cum + 2 ^ 24 - (c.port k).rxCum % 2 ^ 24) % 2 ^ 24; let e : Block := c.modPort k (fun p => { p with rxCum := cum, rxFreed := (p.rxFreed + d) % 2 ^ 24 }); (b.dev ≠ .off) ∧ (b.portTalks k = true) ∧ (ctlOk data = true) ∧ (leAt 0 1 data = 77) ∧ ((c.portSt k = 4 ∧ c.native k = true)) ∧ (2 ^ 23 ≤ d)) := by decide +kernel

theorem witness_LeavoBlocks_9 :
    (let k := 0; let data : Bytes := ctlBlock [77]; let b : Block := (Block.alone ((base.put LVP_STATUS_STATE 3 0))).start; let c : Block := b.put LVP_STATUS_PARTNER 1 k; (b.dev ≠ .off) ∧ (b.portTalks k = true) ∧ (ctlOk data = true) ∧ (leAt 0 1 data = 77) ∧ (¬ (c.portSt k = 4 ∧ c.native k = true)))
    ∧ (let k := 0; let b : Block := (Block.alone (base)).start; (b.portTalks k = false))
    ∧ (let k := 0; let b : Block := (Block.alone ((base.put LVP_STATUS_STATE 4 0))).start; (b.dev ≠ .off) ∧ (b.portTalks k = true))
    ∧ (let k := 0; let data : Bytes := []; let b : Block := (Block.alone (base)).start; (¬ (k < 6 ∧ b.portSt k = 4 ∧ b.native k = true)))
    ∧ (let k := 0; let data : Bytes := []; let b : Block := (Block.alone ((base.put LVP_STATUS_STATE 4 0))).start; (b.dev ≠ .off) ∧ ((k < 6 ∧ b.portSt k = 4 ∧ b.native k = true)) ∧ (ctlOk data = false))
    ∧ (let k := 0; let data : Bytes := ctlBlock [1]; let b : Block := (Block.alone ((base.put LVP_STATUS_STATE 4 0))).start; (b.dev ≠ .off) ∧ ((k < 6 ∧ b.portSt k = 4 ∧ b.native k = true)) ∧ (ctlOk data = true) ∧ (leAt 0 1 data ≠ 0x43)) := by decide +kernel

theorem witness_LeavoBlocks_10 :
    (let k := 0; let lane := 3; let b : Block := (Block.alone ((base.put LVP_STATUS_STATE 4 0).put LVP_STATUS_RXLANES 8 0)).start; let m : Nat := b.get LVP_STATUS_RXLANES k; let want : Nat := (b.port k).askMap.getD m; let left : Nat := if bit want lane then want - 2 ^ lane else want; let c : Block := ((b.put LVP_ERRSTAT_LANEFAIL 1 k).cnt k 13 1).dropKeys k; (b.dev ≠ .off) ∧ ((b.portTalks k = true ∧ lane < 4 ∧ bit (b.get LVP_STATUS_RXLANES k) lane = true)) ∧ (left = 0) ∧ (c.portSt k = 4)) := by decide +kernel

theorem witness_LeavoBlocks_11 :
    (let k := 0; let lane := 3; let b : Block := (Block.alone ((base.put LVP_STATUS_STATE 3 0).put LVP_STATUS_RXLANES 8 0)).start; let m : Nat := b.get LVP_STATUS_RXLANES k; let want : Nat := (b.port k).askMap.getD m; let left : Nat := if bit want lane then want - 2 ^ lane else want; let c : Block := ((b.put LVP_ERRSTAT_LANEFAIL 1 k).cnt k 13 1).dropKeys k; (b.dev ≠ .off) ∧ ((b.portTalks k = true ∧ lane < 4 ∧ bit (b.get LVP_STATUS_RXLANES k) lane = true)) ∧ (left = 0) ∧ (c.portSt k ≠ 4)) := by decide +kernel

end Sys2Proof.Machine
end

