-- ==== Sys2Proof/Tests/Witness3.lean ====
section
/-! SUPPORT. States and operands that meet the hypotheses of each clause of the statements, part 3 of 4: witness_N is for the statement N. -/

set_option maxRecDepth 4000
set_option Elab.async false
set_option linter.unusedVariables false

namespace Sys2Proof.Machine

theorem witness_LeavoBlocks_12 :
    (let k := 0; let lane := 3; let b : Block := (Block.alone ((base.put LVP_STATUS_STATE 4 0).put LVP_STATUS_RXLANES 15 0)).start; let m : Nat := b.get LVP_STATUS_RXLANES k; let want : Nat := (b.port k).askMap.getD m; let left : Nat := if bit want lane then want - 2 ^ lane else want; let c : Block := ((b.put LVP_ERRSTAT_LANEFAIL 1 k).cnt k 13 1).dropKeys k; (b.dev ≠ .off) ∧ ((b.portTalks k = true ∧ lane < 4 ∧ bit (b.get LVP_STATUS_RXLANES k) lane = true)) ∧ (left ≠ 0) ∧ (c.native k = true)) := by decide +kernel

theorem witness_LeavoBlocks_13 :
    (let k := 0; let lane := 3; let b : Block := (Block.alone ((base.put LVP_STATUS_STATE 4 0).put LVP_STATUS_RXLANES 15 0 |>.put LVP_CFG_MODE 1 0)).start; let m : Nat := b.get LVP_STATUS_RXLANES k; let want : Nat := (b.port k).askMap.getD m; let left : Nat := if bit want lane then want - 2 ^ lane else want; let c : Block := ((b.put LVP_ERRSTAT_LANEFAIL 1 k).cnt k 13 1).dropKeys k; (b.dev ≠ .off) ∧ ((b.portTalks k = true ∧ lane < 4 ∧ bit (b.get LVP_STATUS_RXLANES k) lane = true)) ∧ (left ≠ 0) ∧ (c.native k = false)) := by decide +kernel

theorem witness_LeavoBlocks_14 :
    (let k := 0; let data : Bytes := ctlBlock [0x43]; let b : Block := (Block.alone ((base.put LVP_STATUS_STATE 4 0))).start; (b.dev ≠ .off) ∧ ((k < 6 ∧ b.portSt k = 4 ∧ b.native k = true)) ∧ (ctlOk data = true) ∧ (leAt 0 1 data = 0x43))
    ∧ (let k := 0; let b : Block := (Block.alone (base)).start; (¬ (k < 6 ∧ b.portSt k = 4 ∧ b.native k = true ∧ (b.port k).rxFreed ≠ (b.port k).rxRep)))
    ∧ (let k := 0; let b : Block := (Block.alone ((base.put LVP_STATUS_STATE 4 0).modPort 0 fun p => { p with rxFreed := 1 })).start; (b.dev ≠ .off) ∧ ((k < 6 ∧ b.portSt k = 4 ∧ b.native k = true ∧ (b.port k).rxFreed ≠ (b.port k).rxRep)))
    ∧ (let k := 0; let lane := 0; let b : Block := (Block.alone (base)).start; (¬ (b.portTalks k = true ∧ lane < 4 ∧ bit (b.get LVP_STATUS_RXLANES k) lane = true)))
    ∧ (let k := 0; let b : Block := (Block.alone (base)).start; (((b.port k).askMap = none ∨ b.portTalks k = false)))
    ∧ (let k := 0; let m := 7; let b : Block := (Block.alone ((base.put LVP_STATUS_STATE 4 0).modPort 0 fun p => { p with askMap := some 7 })).start; (b.dev ≠ .off) ∧ ((b.port k).askMap = some m) ∧ (b.portTalks k = true)) := by decide +kernel

theorem witness_LeavoBlocks_15 :
    (let k := 0; let data : Bytes := ctlBlock [0x4C, 0x17]; let b : Block := (Block.alone ((base.put LVP_STATUS_STATE 4 0).put LVP_STATUS_TXLANES 15 0)).start; let f : Nat := leAt 1 1 data; let m : Nat := b.get LVP_STATUS_TXLANES k; let left : Nat := Nat.land m (f % 16); (b.dev ≠ .off) ∧ ((b.portTalks k = true ∧ b.native k = true)) ∧ (ctlOk data = true) ∧ ((leAt 0 1 data = 0x4C ∧ bit f 4 = true ∧ left ≠ 0 ∧ left ≠ m))) := by decide +kernel

theorem witness_LeavoBlocks_16 :
    (let k := 0; let data : Bytes := ctlBlock [0x4C, 0x2F]; let b : Block := (Block.alone ((base.put LVP_STATUS_STATE 4 0))).start; let f : Nat := leAt 1 1 data; let m : Nat := b.get LVP_STATUS_TXLANES k; let left : Nat := Nat.land m (f % 16); (b.dev ≠ .off) ∧ ((b.portTalks k = true ∧ b.native k = true)) ∧ (ctlOk data = true) ∧ ((leAt 0 1 data = 0x4C ∧ bit f 4 = false ∧ bit f 5 = true ∧ f % 16 ≠ 0))) := by decide +kernel

theorem witness_LeavoBlocks_17 :
    (let k := 0; let data : Bytes := ctlBlock [0x4C, 0x0F]; let b : Block := (Block.alone ((base.put LVP_STATUS_STATE 4 0))).start; let f : Nat := leAt 1 1 data; let m : Nat := b.get LVP_STATUS_TXLANES k; let left : Nat := Nat.land m (f % 16); ((b.portTalks k = true ∧ b.native k = true)) ∧ (ctlOk data = true) ∧ (leAt 0 1 data = 0x4C) ∧ (¬ (leAt 0 1 data = 0x4C ∧ bit f 4 = true ∧ left ≠ 0 ∧ left ≠ m)) ∧ (¬ (leAt 0 1 data = 0x4C ∧ bit f 4 = false ∧ bit f 5 = true ∧ f % 16 ≠ 0))) := by decide +kernel

theorem witness_LeavoBlocks_18 :
    (let k := 0; let data : Bytes := []; let b : Block := (Block.alone (base)).start; (¬ (b.portTalks k = true ∧ b.native k = true)))
    ∧ (let k := 0; let data : Bytes := []; let b : Block := (Block.alone ((base.put LVP_STATUS_STATE 4 0))).start; (b.dev ≠ .off) ∧ ((b.portTalks k = true ∧ b.native k = true)) ∧ (ctlOk data = false))
    ∧ (let k := 0; let data : Bytes := ctlBlock [1]; let b : Block := (Block.alone ((base.put LVP_STATUS_STATE 4 0))).start; (b.dev ≠ .off) ∧ ((b.portTalks k = true ∧ b.native k = true)) ∧ (ctlOk data = true) ∧ (leAt 0 1 data ≠ 0x4C))
    ∧ (let k := 0; let lane := 3; let b : Block := (Block.alone ((base.put LVP_STATUS_STATE 4 0).put LVP_STATUS_TXLANES 7 0)).start; (b.dev ≠ .off) ∧ ((b.portTalks k = true ∧ b.native k = true ∧ lane < 4 ∧ bit (b.get LVP_STATUS_TXLANES k) lane = false)))
    ∧ (let k := 0; let lane := 3; let b : Block := (Block.alone (base)).start; (¬ (b.portTalks k = true ∧ b.native k = true ∧ lane < 4 ∧ bit (b.get LVP_STATUS_TXLANES k) lane = false)))
    ∧ (let k := 0; let data : Bytes := []; let b : Block := (Block.alone (base)).start; (¬ (k < 6 ∧ b.portSt k = 4 ∧ b.native k = true))) := by decide +kernel

theorem witness_LeavoBlocks_19 :
    (let k := 0; let data : Bytes := []; let b : Block := (Block.alone ((base.put LVP_STATUS_STATE 4 0))).start; (b.dev ≠ .off) ∧ ((k < 6 ∧ b.portSt k = 4 ∧ b.native k = true)) ∧ (ctlOk data = false))
    ∧ (let k := 0; let data : Bytes := ctlBlock [1]; let b : Block := (Block.alone ((base.put LVP_STATUS_STATE 4 0))).start; (b.dev ≠ .off) ∧ ((k < 6 ∧ b.portSt k = 4 ∧ b.native k = true)) ∧ (ctlOk data = true) ∧ (leAt 0 1 data ≠ 0x50))
    ∧ (let k := 0; let data : Bytes := ctlBlock [0x50, 1]; let b : Block := (Block.alone ((base.put LVP_STATUS_STATE 4 0))).start; (b.dev ≠ .off) ∧ ((k < 6 ∧ b.portSt k = 4 ∧ b.native k = true)) ∧ (ctlOk data = true) ∧ (leAt 0 1 data = 0x50) ∧ (bit (leAt 1 1 data) 0 = true))
    ∧ (let k := 0; let data : Bytes := ctlBlock [0x50, 0]; let b : Block := (Block.alone ((base.put LVP_STATUS_STATE 4 0))).start; (b.dev ≠ .off) ∧ ((k < 6 ∧ b.portSt k = 4 ∧ b.native k = true)) ∧ (ctlOk data = true) ∧ (leAt 0 1 data = 0x50) ∧ (bit (leAt 1 1 data) 0 = false))
    ∧ (let k := 0; let b : Block := (Block.alone (base)).start; (b.portTalks k = false))
    ∧ (let k := 0; let b : Block := (Block.alone ((base.put LVP_STATUS_STATE 4 0))).start; (b.dev ≠ .off) ∧ (b.portTalks k = true)) := by decide +kernel

theorem witness_LeavoSacks :
    (let k := 0; let start : Bytes := []; let body : Bytes := []; let tail : Bytes := []; let fixed := 3; let b : Block := (Block.alone ((base.put LVP_STATUS_STATE 4 0))).start; let c : Block := if fixed = 0 then b else ((b.cnt k 0 1).cnt k 1 fixed).noteOnce k (lvpFault 0x1801 k); (b.dev ≠ .off) ∧ ((k < 6 ∧ b.portSt k = 4 ∧ b.native k = true)) ∧ (ctlOk start = false)) := by decide +kernel

theorem witness_LeavoSacks_2 :
    (let k := 0; let start : Bytes := ctlBlock []; let body : Bytes := []; let tail : Bytes := []; let fixed := 0; let b : Block := (Block.alone ((base.put LVP_STATUS_STATE 4 0))).start; let c : Block := if fixed = 0 then b else ((b.cnt k 0 1).cnt k 1 fixed).noteOnce k (lvpFault 0x1801 k); (b.dev ≠ .off) ∧ ((k < 6 ∧ b.portSt k = 4 ∧ b.native k = true)) ∧ (ctlOk start = true) ∧ (startOk start = false)) := by decide +kernel

theorem witness_LeavoSacks_3 :
    (let k := 0; let start : Bytes := ctlBlock ([0xA5, 1, 0, 0, 0, 0, 1, 0] ++ List.replicate 10 0 ++ [1, 0, 0, 0] ++ List.replicate 8 0); let body : Bytes := List.replicate 32 0; let tail : Bytes := []; let fixed := 0; let b : Block := (Block.alone ((base.put LVP_STATUS_STATE 4 0))).start; let c : Block := if fixed = 0 then b else ((b.cnt k 0 1).cnt k 1 fixed).noteOnce k (lvpFault 0x1801 k); (b.dev ≠ .off) ∧ ((k < 6 ∧ b.portSt k = 4 ∧ b.native k = true)) ∧ (ctlOk start = true) ∧ (startOk start = true) ∧ (ctlOk tail = false)) := by decide +kernel

theorem witness_LeavoSacks_4 :
    (let k := 0; let start : Bytes := ctlBlock ([0xA5, 1, 0, 0, 0, 0, 1, 0] ++ List.replicate 10 0 ++ [1, 0, 0, 0] ++ List.replicate 8 0); let body : Bytes := []; let tail : Bytes := endBlock (ctlBlock ([0xA5, 1, 0, 0, 0, 0, 1, 0] ++ List.replicate 10 0 ++ [1, 0, 0, 0] ++ List.replicate 8 0)) [0] (List.replicate 16 0); let fixed := 0; let b : Block := (Block.alone ((base.put LVP_STATUS_STATE 4 0))).start; let c : Block := if fixed = 0 then b else ((b.cnt k 0 1).cnt k 1 fixed).noteOnce k (lvpFault 0x1801 k); (b.dev ≠ .off) ∧ ((k < 6 ∧ b.portSt k = 4 ∧ b.native k = true)) ∧ (ctlOk start = true) ∧ (startOk start = true) ∧ (ctlOk tail = true) ∧ (¬ (body.length = (leAt 6 2 start + 31) / 32 * 32 ∧ leAt 0 1 tail = 0xE7))) := by decide +kernel

theorem witness_LeavoSacks_5 :
    (let k := 0; let start : Bytes := ctlBlock ([0xA5, 1, 0, 0, 0, 0, 1, 0] ++ List.replicate 10 0 ++ [1, 0, 0, 0] ++ List.replicate 8 0); let body : Bytes := List.replicate 32 0; let tail : Bytes := endBlock (ctlBlock ([0xA5, 1, 0, 0, 0, 0, 1, 0] ++ List.replicate 10 0 ++ [1, 0, 0, 0] ++ List.replicate 8 0)) [0] (List.replicate 16 0); let fixed := 0; let b : Block := (Block.alone ((base.put LVP_STATUS_STATE 4 0).modPort 0 fun p => { p with rxCum := 7 })).start; let c : Block := if fixed = 0 then b else ((b.cnt k 0 1).cnt k 1 fixed).noteOnce k (lvpFault 0x1801 k); let u : Nat := sackUnits (leAt 6 2 start); let cum : Nat := leAt 18 3 start; let d : Nat := (cum + 2 ^ 24 - ((c.port k).rxCum + u) % 2 ^ 24) % 2 ^ 24; (b.dev ≠ .off) ∧ ((k < 6 ∧ b.portSt k = 4 ∧ b.native k = true)) ∧ (ctlOk start = true) ∧ (startOk start = true) ∧ (ctlOk tail = true) ∧ ((body.length = (leAt 6 2 start + 31) / 32 * 32 ∧ leAt 0 1 tail = 0xE7)) ∧ (2 ^ 23 ≤ d)) := by decide +kernel

theorem witness_LeavoSacks_6 :
    (let k := 0; let start : Bytes := ctlBlock ([0xA5, 1, 0, 0, 0, 0, 1, 0] ++ List.replicate 10 0 ++ [1, 0, 0, 0] ++ List.replicate 8 0); let body : Bytes := List.replicate 32 0; let tail : Bytes := endBlock (ctlBlock ([0xA5, 1, 0, 0, 0, 0, 1, 0] ++ List.replicate 10 0 ++ [1, 0, 0, 0] ++ List.replicate 8 0)) [0] (List.replicate 16 0); let fixed := 0; let b : Block := (Block.alone ((base.put LVP_STATUS_STATE 4 0).modPort 0 fun p => { p with rxFreed := 1 })).start; let c : Block := if fixed = 0 then b else ((b.cnt k 0 1).cnt k 1 fixed).noteOnce k (lvpFault 0x1801 k); let u : Nat := sackUnits (leAt 6 2 start); let cum : Nat := leAt 18 3 start; let d : Nat := (cum + 2 ^ 24 - ((c.port k).rxCum + u) % 2 ^ 24) % 2 ^ 24; let e : Block := if d = 0 then c.modPort k (fun p => { p with rxCum := cum }) else (((c.modPort k (fun p => { p with rxCum := cum, rxFreed := (p.rxFreed + d) % 2 ^ 24 })).cnt k 10 d).put LVP_ERRSTAT_HEAL 1 k).noteOnce k (lvpFault 0x180B k); let used : Nat := (cum + 2 ^ 25 - u - (e.port k).rxFreed) % 2 ^ 24; (b.dev ≠ .off) ∧ ((k < 6 ∧ b.portSt k = 4 ∧ b.native k = true)) ∧ (ctlOk start = true) ∧ (startOk start = true) ∧ (ctlOk tail = true) ∧ ((body.length = (leAt 6 2 start + 31) / 32 * 32 ∧ leAt 0 1 tail = 0xE7)) ∧ (d < 2 ^ 23) ∧ (2048 < used + u)) := by decide +kernel

theorem witness_LeavoSacks_7 :
    (let k := 0; let start : Bytes := ctlBlock ([0xA5, 1, 0, 0, 0, 0, 1, 0] ++ List.replicate 10 0 ++ [1, 0, 0, 0] ++ List.replicate 8 0); let body : Bytes := List.replicate 32 0; let tail : Bytes := endBlock (ctlBlock ([0xA5, 1, 0, 0, 0, 0, 1, 0] ++ List.replicate 10 0 ++ [1, 0, 0, 0] ++ List.replicate 8 0)) [1] (List.replicate 16 0); let fixed := 0; let b : Block := (Block.alone ((base.put LVP_STATUS_STATE 4 0))).start; let c : Block := if fixed = 0 then b else ((b.cnt k 0 1).cnt k 1 fixed).noteOnce k (lvpFault 0x1801 k); let u : Nat := sackUnits (leAt 6 2 start); let cum : Nat := leAt 18 3 start; let d : Nat := (cum + 2 ^ 24 - ((c.port k).rxCum + u) % 2 ^ 24) % 2 ^ 24; let e : Block := if d = 0 then c.modPort k (fun p => { p with rxCum := cum }) else (((c.modPort k (fun p => { p with rxCum := cum, rxFreed := (p.rxFreed + d) % 2 ^ 24 })).cnt k 10 d).put LVP_ERRSTAT_HEAL 1 k).noteOnce k (lvpFault 0x180B k); let used : Nat := (cum + 2 ^ 25 - u - (e.port k).rxFreed) % 2 ^ 24; let f : Block := (e.cnt k 4 1).modPort k (fun p => { p with rxFreed := (p.rxFreed + u) % 2 ^ 24 }); let payload : Bytes := body.take (leAt 6 2 start); let tag : Bytes := (tail.drop 2).take 16; (b.dev ≠ .off) ∧ ((k < 6 ∧ b.portSt k = 4 ∧ b.native k = true)) ∧ (ctlOk start = true) ∧ (startOk start = true) ∧ (ctlOk tail = true) ∧ ((body.length = (leAt 6 2 start + 31) / 32 * 32 ∧ leAt 0 1 tail = 0xE7)) ∧ (d < 2 ^ 23) ∧ (used + u ≤ 2048) ∧ (¬ leAt 18 4 tail = crc32 (start ++ payload ++ tag))) := by decide +kernel

theorem witness_LeavoSacks_8 :
    (let k := 0; let start : Bytes := ctlBlock ([0xA5, 1, 0, 0, 0, 0, 1, 0] ++ List.replicate 10 0 ++ [1, 0, 0, 0] ++ List.replicate 8 0); let body : Bytes := List.replicate 32 0; let tail : Bytes := endBlock (ctlBlock ([0xA5, 1, 0, 0, 0, 0, 1, 0] ++ List.replicate 10 0 ++ [1, 0, 0, 0] ++ List.replicate 8 0)) [0] (List.replicate 16 0); let fixed := 0; let b : Block := (Block.alone ((base.put LVP_STATUS_STATE 4 0).put LVP_CFG_ENCREQ 1 0)).start; let c : Block := if fixed = 0 then b else ((b.cnt k 0 1).cnt k 1 fixed).noteOnce k (lvpFault 0x1801 k); let u : Nat := sackUnits (leAt 6 2 start); let cum : Nat := leAt 18 3 start; let d : Nat := (cum + 2 ^ 24 - ((c.port k).rxCum + u) % 2 ^ 24) % 2 ^ 24; let e : Block := if d = 0 then c.modPort k (fun p => { p with rxCum := cum }) else (((c.modPort k (fun p => { p with rxCum := cum, rxFreed := (p.rxFreed + d) % 2 ^ 24 })).cnt k 10 d).put LVP_ERRSTAT_HEAL 1 k).noteOnce k (lvpFault 0x180B k); let used : Nat := (cum + 2 ^ 25 - u - (e.port k).rxFreed) % 2 ^ 24; let f : Block := (e.cnt k 4 1).modPort k (fun p => { p with rxFreed := (p.rxFreed + u) % 2 ^ 24 }); let payload : Bytes := body.take (leAt 6 2 start); let tag : Bytes := (tail.drop 2).take 16; let g : Option Bytes × Block := f.authSack k start payload tag; (b.dev ≠ .off) ∧ ((k < 6 ∧ b.portSt k = 4 ∧ b.native k = true)) ∧ (ctlOk start = true) ∧ (startOk start = true) ∧ (ctlOk tail = true) ∧ ((body.length = (leAt 6 2 start + 31) / 32 * 32 ∧ leAt 0 1 tail = 0xE7)) ∧ (d < 2 ^ 23) ∧ (used + u ≤ 2048) ∧ (leAt 18 4 tail = crc32 (start ++ payload ++ tag)) ∧ (g.1 = none)) := by decide +kernel

theorem witness_LeavoSacks_9 :
    (let k := 0; let start : Bytes := ctlBlock ([0xA5, 1, 0, 0, 0, 0, 1, 0] ++ List.replicate 10 0 ++ [5, 0, 0, 0] ++ List.replicate 8 0); let body : Bytes := List.replicate 32 0; let tail : Bytes := endBlock (ctlBlock ([0xA5, 1, 0, 0, 0, 0, 1, 0] ++ List.replicate 10 0 ++ [5, 0, 0, 0] ++ List.replicate 8 0)) [0] (List.replicate 16 0); let fixed := 0; let v : Bytes := [0]; let b : Block := (Block.alone ((base.put LVP_STATUS_STATE 4 0))).start; let c : Block := if fixed = 0 then b else ((b.cnt k 0 1).cnt k 1 fixed).noteOnce k (lvpFault 0x1801 k); let u : Nat := sackUnits (leAt 6 2 start); let cum : Nat := leAt 18 3 start; let d : Nat := (cum + 2 ^ 24 - ((c.port k).rxCum + u) % 2 ^ 24) % 2 ^ 24; let e : Block := if d = 0 then c.modPort k (fun p => { p with rxCum := cum }) else (((c.modPort k (fun p => { p with rxCum := cum, rxFreed := (p.rxFreed + d) % 2 ^ 24 })).cnt k 10 d).put LVP_ERRSTAT_HEAL 1 k).noteOnce k (lvpFault 0x180B k); let used : Nat := (cum + 2 ^ 25 - u - (e.port k).rxFreed) % 2 ^ 24; let f : Block := (e.cnt k 4 1).modPort k (fun p => { p with rxFreed := (p.rxFreed + u) % 2 ^ 24 }); let payload : Bytes := body.take (leAt 6 2 start); let tag : Bytes := (tail.drop 2).take 16; let g : Option Bytes × Block := f.authSack k start payload tag; (b.dev ≠ .off) ∧ ((k < 6 ∧ b.portSt k = 4 ∧ b.native k = true)) ∧ (ctlOk start = true) ∧ (startOk start = true) ∧ (ctlOk tail = true) ∧ ((body.length = (leAt 6 2 start + 31) / 32 * 32 ∧ leAt 0 1 tail = 0xE7)) ∧ (d < 2 ^ 23) ∧ (used + u ≤ 2048) ∧ (leAt 18 4 tail = crc32 (start ++ payload ++ tag)) ∧ (g.1 = some v)) := by decide +kernel

theorem witness_LeavoSacks_10 :
    (let k := 0; let lane := 0; let frame : Bytes := []; let b : Block := (Block.alone (((base.put LVP_STATUS_STATE 4 0).put LVP_CFG_MODE 1 0))).start; let n : Nat := frame.length; (b.dev ≠ .off) ∧ ((k < 6 ∧ lane < 4 ∧ b.portSt k = 4 ∧ b.native k = false)) ∧ (¬ (64 ≤ n ∧ n ≤ 9216 ∧ leNat (frame.drop (n - 4)) = crc32 (frame.take (n - 4))))) := by decide +kernel

theorem witness_LeavoSacks_11 :
    (let k := 0; let lane := 0; let body : Bytes := List.replicate 12 0 ++ [0x88, 0xE5] ++ List.replicate 46 0; let frame : Bytes := body ++ leBytes 4 (crc32 body); let b : Block := (Block.alone (((base.put LVP_STATUS_STATE 4 0).put LVP_CFG_MODE 1 0))).start; let n : Nat := frame.length; let r : Option (Bytes × Bool) × Block := b.macOpen k lane (frame.take (n - 4)); (b.dev ≠ .off) ∧ ((k < 6 ∧ lane < 4 ∧ b.portSt k = 4 ∧ b.native k = false)) ∧ ((64 ≤ n ∧ n ≤ 9216 ∧ leNat (frame.drop (n - 4)) = crc32 (frame.take (n - 4)))) ∧ (r.1 = none)) := by decide +kernel

theorem witness_LeavoSacks_12 :
    (let k := 0; let lane := 0; let body : Bytes := List.replicate 12 0 ++ [0x88, 0x08] ++ List.replicate 46 0; let frame : Bytes := body ++ leBytes 4 (crc32 body); let v : Bytes := body; let sec := false; let b : Block := (Block.alone (((base.put LVP_STATUS_STATE 4 0).put LVP_CFG_MODE 1 0))).start; let n : Nat := frame.length; let r : Option (Bytes × Bool) × Block := b.macOpen k lane (frame.take (n - 4)); let c : Block := r.2; let ty : Nat := beNat ((v.drop (etherAt v)).take 2); (b.dev ≠ .off) ∧ ((k < 6 ∧ lane < 4 ∧ b.portSt k = 4 ∧ b.native k = false)) ∧ ((64 ≤ n ∧ n ≤ 9216 ∧ leNat (frame.drop (n - 4)) = crc32 (frame.take (n - 4)))) ∧ (r.1 = some (v, sec)) ∧ (ty = 0x8808)) := by decide +kernel

theorem witness_LeavoSacks_13 :
    (let k := 0; let lane := 0; let body : Bytes := List.replicate 12 0 ++ [0x88, 0xB5] ++ List.replicate 46 0; let frame : Bytes := body ++ leBytes 4 (crc32 body); let v : Bytes := body; let sec := false; let b : Block := (Block.alone ({ ((base.put LVP_STATUS_STATE 4 0).put LVP_CFG_MODE 1 0) with active := { recs := [(objKey 0x4020 2, [0xB5, 0x88])] } })).start; let n : Nat := frame.length; let r : Option (Bytes × Bool) × Block := b.macOpen k lane (frame.take (n - 4)); let c : Block := r.2; let ty : Nat := beNat ((v.drop (etherAt v)).take 2); (b.dev ≠ .off) ∧ ((k < 6 ∧ lane < 4 ∧ b.portSt k = 4 ∧ b.native k = false)) ∧ ((64 ≤ n ∧ n ≤ 9216 ∧ leNat (frame.drop (n - 4)) = crc32 (frame.take (n - 4)))) ∧ (r.1 = some (v, sec)) ∧ (ty ≠ 0x8808) ∧ (ty = c.actN 0x4020 2)) := by decide +kernel

theorem witness_LeavoSacks_14 :
    (let k := 0; let lane := 0; let body : Bytes := List.replicate 12 0 ++ [0x12, 0x34] ++ List.replicate 46 0; let frame : Bytes := body ++ leBytes 4 (crc32 body); let v : Bytes := body; let sec := false; let b : Block := (Block.alone (((base.put LVP_STATUS_STATE 4 0).put LVP_CFG_MODE 1 0))).start; let n : Nat := frame.length; let r : Option (Bytes × Bool) × Block := b.macOpen k lane (frame.take (n - 4)); let c : Block := r.2; let ty : Nat := beNat ((v.drop (etherAt v)).take 2); (b.dev ≠ .off) ∧ ((k < 6 ∧ lane < 4 ∧ b.portSt k = 4 ∧ b.native k = false)) ∧ ((64 ≤ n ∧ n ≤ 9216 ∧ leNat (frame.drop (n - 4)) = crc32 (frame.take (n - 4)))) ∧ (r.1 = some (v, sec)) ∧ (ty ≠ 0x8808) ∧ (ty ≠ c.actN 0x4020 2)) := by decide +kernel

theorem witness_LeavoSacks_15 :
    (let k := 0; let slot := 0; let b : Block := (Block.alone (base.put LVP_SLOT_VALID 1 0 0)).start; let p : Nat := b.get LVP_SLOT_PART k slot; let c : Block := b.advanceTo (b.get LVP_SLOT_START k slot * 100); (b.dev ≠ .off) ∧ ((k < 6 ∧ slot < 64 ∧ b.isSet LVP_SLOT_VALID k slot = true ∧ b.isSet LVP_SLOT_DIR k slot = false)) ∧ (¬ (c.partDefined p = true ∧ c.get BLT_PSTAT_STATE p ≠ pDefined))) := by decide +kernel

theorem witness_LeavoSacks_16 :
    (let k := 0; let slot := 0; let b : Block := (Block.alone (((running0.put LVP_SLOT_VALID 1 0 0).put LVP_SLOT_PART 0 0 0))).start; let p : Nat := b.get LVP_SLOT_PART k slot; let c : Block := b.advanceTo (b.get LVP_SLOT_START k slot * 100); let l : List Sack := (c.egressSacks p k).1; let d : Block := (c.egressSacks p k).2; let each : Nat := if c.isSet LVP_SLOT_DUP k slot then 2 else 1; (b.dev ≠ .off) ∧ ((k < 6 ∧ slot < 64 ∧ b.isSet LVP_SLOT_VALID k slot = true ∧ b.isSet LVP_SLOT_DIR k slot = false)) ∧ ((c.partDefined p = true ∧ c.get BLT_PSTAT_STATE p ≠ pDefined)) ∧ (¬ (d.portSt k = 4 ∧ d.outputsOn = true))) := by decide +kernel

theorem witness_LeavoSacks_17 :
    (let k := 0; let slot := 0; let b : Block := (Block.alone (((({ running0 with dev := .run } : Block).put LVP_SLOT_VALID 1 0 0).put LVP_STATUS_STATE 4 0).put LVP_SLOT_DUP 1 0 0)).start; let p : Nat := b.get LVP_SLOT_PART k slot; let c : Block := b.advanceTo (b.get LVP_SLOT_START k slot * 100); let l : List Sack := (c.egressSacks p k).1; let d : Block := (c.egressSacks p k).2; let each : Nat := if c.isSet LVP_SLOT_DUP k slot then 2 else 1; let go : List (Nat × Sack) := startTimes (popcount 4 (d.get LVP_STATUS_TXLANES k)) ((d.get LVP_SLOT_END k slot - d.get LVP_SLOT_START k slot) * 100) 0 l; let e : Block := d.dropVl0 k (each * (l.length - go.length)); (b.dev ≠ .off) ∧ ((k < 6 ∧ slot < 64 ∧ b.isSet LVP_SLOT_VALID k slot = true ∧ b.isSet LVP_SLOT_DIR k slot = false)) ∧ ((c.partDefined p = true ∧ c.get BLT_PSTAT_STATE p ≠ pDefined)) ∧ ((d.portSt k = 4 ∧ d.outputsOn = true))) := by decide +kernel

theorem witness_LeavoSacks_18 :
    (let k := 0; let t := 0; let x : Sack := { vl := 0 }; let r : List (Nat × Sack) := []; let b : Block := (Block.alone (((({ base with dev := .run } : Block).put LVP_STATUS_STATE 3 0).put LVP_CFG_MODE 1 0).modPort 0 fun p => { p with slot := some 0, dups := [(0, { vl := 0 })] })).start; let c : Block := b.dropOutputs k; let d : Block := c.advanceTo t; (b.dev ≠ .off) ∧ ((c.port k).dups = (t, x) :: r) ∧ (¬ (k < 6 ∧ (d.port k).slot ≠ none ∧ d.maySend k x = true))) := by decide +kernel

theorem witness_LeavoSacks_19 :
    (let k := 0; let t := 0; let x : Sack := { vl := 0 }; let r : List (Nat × Sack) := []; let b : Block := (Block.alone (((({ base with dev := .run } : Block).put LVP_STATUS_STATE 4 0).put LVP_CFG_MODE 1 0).modPort 0 fun p => { p with slot := some 0, dups := [(0, { vl := 0 })] })).start; let c : Block := b.dropOutputs k; let d : Block := c.advanceTo t; (b.dev ≠ .off) ∧ ((c.port k).dups = (t, x) :: r) ∧ ((k < 6 ∧ (d.port k).slot ≠ none ∧ d.maySend k x = true))) := by decide +kernel

theorem witness_LeavoSacks_20 :
    (let k := 0; let start : Bytes := []; let body : Bytes := []; let tail : Bytes := []; let fixed := 0; let b : Block := (Block.alone (base)).start; (¬ (k < 6 ∧ b.portSt k = 4 ∧ b.native k = true)))
    ∧ (let k := 0; let lane := 0; let frame : Bytes := []; let b : Block := (Block.alone ((base.put LVP_STATUS_STATE 4 0))).start; (¬ (k < 6 ∧ lane < 4 ∧ b.portSt k = 4 ∧ b.native k = false)))
    ∧ (let k := 0; let slot := 0; let b : Block := (Block.alone (base)).start; (¬ (k < 6 ∧ slot < 64 ∧ b.isSet LVP_SLOT_VALID k slot = true ∧ b.isSet LVP_SLOT_DIR k slot = false)))
    ∧ (let k := 0; let b : Block := (Block.alone (base)).start; let c : Block := b.dropOutputs k; (b.dev ≠ .off) ∧ ((c.port k).dups = []))
    ∧ (let k := 0; let slot := 3; let b : Block := (Block.alone (base)).start; (¬ (k < 6 ∧ (b.port k).slot = some slot)))
    ∧ (let k := 0; let slot := 3; let b : Block := (Block.alone (base.modPort 0 fun p => { p with slot := some 3 })).start; let c : Block := b.advanceTo (b.get LVP_SLOT_END k slot * 100); (b.dev ≠ .off) ∧ ((k < 6 ∧ (b.port k).slot = some slot))) := by decide +kernel

theorem witness_LeavoSacks_21 :
    (let b : Block := (Block.alone (base)).start; (b.dev ≠ .off)) := by decide +kernel

theorem witness_LeavoKeys :
    (let k := 0; let src := 0; let dst := 0; let h : Bytes := [1, 0, 0, 0] ++ leBytes 4 5 ++ List.replicate 32 7; let payload : Bytes := h ++ keyTag (List.replicate 32 1) h src dst; let b : Block := (Block.alone (({ base with lvp := { base.lvp with lmk := [(0, List.replicate 32 1)] } } : Block).put LVP_STATUS_STATE 4 0 |>.put LVP_STATUS_PPEER 1 0)).start; let slot : Nat := leAt 1 1 payload; let epoch : Nat := leAt 4 4 payload; let na : Bytes := (payload.drop 8).take 32; let nb : Bytes := leBytes 32 (Config.nonce b.free); let lmk : Bytes := SMap.get [] k b.lvp.lmk; (b.dev ≠ .off) ∧ ((b.keyOk k 1 src dst payload = true ∧ b.initiates k = false)) ∧ (slot = b.get LVP_KEYSTAT_TXKEYID k)) := by decide +kernel

theorem witness_LeavoKeys_2 :
    (let k := 0; let src := 0; let dst := 0; let h : Bytes := [1, 1, 0, 0] ++ leBytes 4 5 ++ List.replicate 32 7; let payload : Bytes := h ++ keyTag (List.replicate 32 1) h src dst; let b : Block := (Block.alone (({ base with lvp := { base.lvp with lmk := [(0, List.replicate 32 1)] } } : Block).put LVP_STATUS_STATE 4 0 |>.put LVP_STATUS_PPEER 1 0)).start; let slot : Nat := leAt 1 1 payload; let epoch : Nat := leAt 4 4 payload; let na : Bytes := (payload.drop 8).take 32; let nb : Bytes := leBytes 32 (Config.nonce b.free); let lmk : Bytes := SMap.get [] k b.lvp.lmk; (b.dev ≠ .off) ∧ ((b.keyOk k 1 src dst payload = true ∧ b.initiates k = false)) ∧ (slot ≠ b.get LVP_KEYSTAT_TXKEYID k)) := by decide +kernel

theorem witness_LeavoKeys_3 :
    (let k := 0; let src := 0; let dst := 0; let h : Bytes := [2, 0, 0, 0] ++ leBytes 4 5 ++ List.replicate 32 7; let payload : Bytes := h ++ keyTag (List.replicate 32 1) h src dst; let x : KeyX := { mine := true, slot := 1, epoch := 5, na := List.replicate 32 3, nb := [], sent := 1 }; let b : Block := (Block.alone (({ base with lvp := { base.lvp with lmk := [(0, List.replicate 32 1)] } } : Block).put LVP_STATUS_STATE 4 0 |>.modPort 0 fun p => { p with kx := some { mine := true, slot := 1, epoch := 5, na := List.replicate 32 3, nb := [], sent := 1 } })).start; let nb : Bytes := (payload.drop 8).take 32; let lmk : Bytes := SMap.get [] k b.lvp.lmk; ((b.port k).kx = some x) ∧ (¬ (x.mine = true ∧ b.keyOk k 2 src dst payload = true ∧ leAt 1 1 payload = x.slot ∧ leAt 4 4 payload = x.epoch ∧ nb ≠ x.na))) := by decide +kernel

theorem witness_LeavoKeys_4 :
    (let k := 0; let src := 0; let dst := 0; let h : Bytes := [2, 1, 0, 0] ++ leBytes 4 5 ++ List.replicate 32 7; let payload : Bytes := h ++ keyTag (List.replicate 32 1) h src dst; let x : KeyX := { mine := true, slot := 1, epoch := 5, na := List.replicate 32 3, nb := [], sent := 1 }; let b : Block := (Block.alone (({ base with lvp := { base.lvp with lmk := [(0, List.replicate 32 1)] } } : Block).put LVP_STATUS_STATE 4 0 |>.modPort 0 fun p => { p with kx := some { mine := true, slot := 1, epoch := 5, na := List.replicate 32 3, nb := [], sent := 1 } })).start; let nb : Bytes := (payload.drop 8).take 32; let lmk : Bytes := SMap.get [] k b.lvp.lmk; (b.dev ≠ .off) ∧ ((b.port k).kx = some x) ∧ ((x.mine = true ∧ b.keyOk k 2 src dst payload = true ∧ leAt 1 1 payload = x.slot ∧ leAt 4 4 payload = x.epoch ∧ nb ≠ x.na))) := by decide +kernel

theorem witness_LeavoKeys_5 :
    (let k := 0; let src := 0; let dst := 0; let h : Bytes := [3, 0, 0, 0] ++ leBytes 4 5 ++ List.replicate 32 7; let payload : Bytes := h ++ keyTag (List.replicate 32 1) h src dst; let x : KeyX := { mine := false, slot := 1, epoch := 5, na := List.replicate 32 3, nb := List.replicate 32 7, sent := 1 }; let b : Block := (Block.alone (({ base with lvp := { base.lvp with lmk := [(0, List.replicate 32 1)] } } : Block).put LVP_STATUS_STATE 4 0 |>.modPort 0 fun p => { p with kx := some { mine := false, slot := 1, epoch := 5, na := List.replicate 32 3, nb := List.replicate 32 7, sent := 1 } })).start; ((b.port k).kx = some x) ∧ (¬ (x.mine = false ∧ b.keyOk k 3 src dst payload = true ∧ leAt 1 1 payload = x.slot ∧ leAt 4 4 payload = x.epoch ∧ (payload.drop 8).take 32 = x.nb))) := by decide +kernel

theorem witness_LeavoKeys_6 :
    (let k := 0; let src := 0; let dst := 0; let h : Bytes := [3, 1, 0, 0] ++ leBytes 4 5 ++ List.replicate 32 7; let payload : Bytes := h ++ keyTag (List.replicate 32 1) h src dst; let x : KeyX := { mine := false, slot := 1, epoch := 5, na := List.replicate 32 3, nb := List.replicate 32 7, sent := 1 }; let b : Block := (Block.alone (({ base with lvp := { base.lvp with lmk := [(0, List.replicate 32 1)] } } : Block).put LVP_STATUS_STATE 4 0 |>.modPort 0 fun p => { p with kx := some { mine := false, slot := 1, epoch := 5, na := List.replicate 32 3, nb := List.replicate 32 7, sent := 1 } })).start; (b.dev ≠ .off) ∧ ((b.port k).kx = some x) ∧ ((x.mine = false ∧ b.keyOk k 3 src dst payload = true ∧ leAt 1 1 payload = x.slot ∧ leAt 4 4 payload = x.epoch ∧ (payload.drop 8).take 32 = x.nb))) := by decide +kernel

theorem witness_LeavoKeys_7 :
    (let k := 0; let x : KeyX := { mine := false, slot := 1, epoch := 5, na := List.replicate 32 3, nb := List.replicate 32 7, sent := 1 }; let b : Block := (Block.alone (({ base with lvp := { base.lvp with lmk := [(0, List.replicate 32 1)] } } : Block).put LVP_STATUS_STATE 4 0 |>.modPort 0 fun p => { p with kx := some { mine := false, slot := 1, epoch := 5, na := List.replicate 32 3, nb := List.replicate 32 7, sent := 1 } })).start; ((b.port k).kx = some x) ∧ (x.mine = false)) := by decide +kernel

theorem witness_LeavoKeys_8 :
    (let k := 0; let x : KeyX := { mine := true, slot := 1, epoch := 5, na := List.replicate 32 3, nb := [], sent := 8 }; let b : Block := (Block.alone (({ base with lvp := { base.lvp with lmk := [(0, List.replicate 32 1)] } } : Block).put LVP_STATUS_STATE 4 0 |>.modPort 0 fun p => { p with kx := some { mine := true, slot := 1, epoch := 5, na := List.replicate 32 3, nb := [], sent := 8 } })).start; (b.dev ≠ .off) ∧ ((b.port k).kx = some x) ∧ (x.mine = true) ∧ (x.sent ≤ 8)) := by decide +kernel

theorem witness_LeavoKeys_9 :
    (let k := 0; let x : KeyX := { mine := true, slot := 1, epoch := 5, na := List.replicate 32 3, nb := [], sent := 9 }; let b : Block := (Block.alone (({ base with lvp := { base.lvp with lmk := [(0, List.replicate 32 1)] } } : Block).put LVP_STATUS_STATE 4 0 |>.modPort 0 fun p => { p with kx := some { mine := true, slot := 1, epoch := 5, na := List.replicate 32 3, nb := [], sent := 9 } })).start; (b.dev ≠ .off) ∧ ((b.port k).kx = some x) ∧ (x.mine = true) ∧ (8 < x.sent)) := by decide +kernel

theorem witness_LeavoKeys_10 :
    (let k := 0; let src := 0; let dst := 0; let payload : Bytes := []; let b : Block := (Block.alone (base)).start; (¬ (b.keyOk k 1 src dst payload = true ∧ b.initiates k = false)))
    ∧ (let k := 0; let b : Block := (Block.alone (base)).start; ((b.port k).kx = none))
    ∧ (let k := 0; let b : Block := (Block.alone (base)).start; ((b.port k).kx = none))
    ∧ (let k := 0; let b : Block := (Block.alone (base)).start; ((b.port k).kx = none)) := by decide +kernel

theorem witness_SluiceManager :
    (let mid := 0; let part : Option Nat := none; let arg := 5; let b : Block := (Block.alone (base)).start; (b.dev ≠ .off) ∧ (b.isManager mid part true = false))
    ∧ (let mid := 0; let part : Option Nat := none; let arg := 5; let b : Block := (Block.alone (base)).start; (b.dev ≠ .off) ∧ (b.isManager mid part true = false))
    ∧ (let mid := 0; let part : Option Nat := none; let arg := 5; let b : Block := (Block.alone (base)).start; (b.dev ≠ .off) ∧ (b.isManager mid part true = false))
    ∧ (let mid := 0; let part : Option Nat := none; let arg := 5; let b : Block := (Block.alone (base)).start; (b.dev ≠ .off) ∧ (b.isManager mid part true = false))
    ∧ (let mid := 0; let part : Option Nat := none; let arg := 5; let b : Block := (Block.alone (base)).start; (b.dev ≠ .off) ∧ (b.isManager mid part true = false))
    ∧ (let mid := 0; let part : Option Nat := none; let arg := 5; let b : Block := (Block.alone (base)).start; (b.dev ≠ .off) ∧ (b.isManager mid part true = false)) := by decide +kernel

theorem witness_SluiceManager_2 :
    (let mid := 0; let part : Option Nat := none; let arg := 5; let b : Block := (Block.alone (base)).start; (b.dev ≠ .off) ∧ (b.isManager mid part true = false))
    ∧ (let mid := 0; let part : Option Nat := none; let arg := 5; let b : Block := (Block.alone (base)).start; (b.dev ≠ .off) ∧ (b.isManager mid part true = false))
    ∧ (let mid := 0; let part : Option Nat := none; let arg := 5; let b : Block := (Block.alone (base)).start; (b.dev ≠ .off) ∧ (b.isManager mid part true = false))
    ∧ (let mid := 0; let part : Option Nat := none; let arg := 5; let b : Block := (Block.alone (base)).start; (b.dev ≠ .off) ∧ (b.isManager mid part true = false))
    ∧ (let mid := 0; let part : Option Nat := none; let arg := 5; let b : Block := (Block.alone (base)).start; (b.dev ≠ .off) ∧ (b.isManager mid part true = false))
    ∧ (let mid := 0; let part : Option Nat := none; let arg := 5; let b : Block := (Block.alone (base)).start; (b.dev ≠ .off) ∧ (b.isManager mid part true = false)) := by decide +kernel

theorem witness_SluiceManager_3 :
    (let mid := midGov; let part : Option Nat := none; let arg := 5; let b : Block := (Block.alone (base)).start; let a : Nat := arg % 2 ^ 20; let ws : List Nat := b.mdataWords; let h : Nat × Nat × Nat := flowHash (ctxKey ws); (b.dev ≠ .off) ∧ (b.isManager mid part true = true) ∧ (b.flowFixed a ws = false) ∧ (¬ (ctxValid ws = true ∧ 1 ≤ fKtype ws ∧ fKtype ws ≤ 3))) := by decide +kernel

theorem witness_SluiceManager_4 :
    (let mid := midGov; let part : Option Nat := none; let arg := 6; let b : Block := (Block.alone (({ base with slc := { base.slc with cache := [{ index := 5, words := [0x31, 0, 0, 0, 0, 0, 0, 0] }] } } : Block).setR .SLC_MDATA 0x31 0)).start; let a : Nat := arg % 2 ^ 20; let ws : List Nat := b.mdataWords; let h : Nat × Nat × Nat := flowHash (ctxKey ws); (b.dev ≠ .off) ∧ (b.isManager mid part true = true) ∧ (b.flowFixed a ws = false) ∧ ((ctxValid ws = true ∧ 1 ≤ fKtype ws ∧ fKtype ws ≤ 3)) ∧ ((b.flowByKey (ctxKey ws)).isSome = true)) := by decide +kernel

theorem witness_SluiceManager_5 :
    (let mid := midGov; let part : Option Nat := none; let arg := 5; let b : Block := (Block.alone (base.setR .SLC_MDATA 0x31 0)).start; let a : Nat := arg % 2 ^ 20; let ws : List Nat := b.mdataWords; let h : Nat × Nat × Nat := flowHash (ctxKey ws); let r : Except Nat Bytes × Block := b.flowRead (b.flowBucket h.1); let c : Block := r.2; let q : Except Nat Bytes × Block := c.flowRead (c.flowBucket h.2.1); let d : Block := q.2; (b.dev ≠ .off) ∧ (b.isManager mid part true = true) ∧ (b.flowFixed a ws = false) ∧ ((ctxValid ws = true ∧ 1 ≤ fKtype ws ∧ fKtype ws ≤ 3)) ∧ (b.flowByKey (ctxKey ws) = none) ∧ (r.1.toOption = none)) := by decide +kernel

theorem witness_SluiceManager_6 :
    (let mid := midGov; let part : Option Nat := none; let arg := 5; let b : Block := (Block.alone (dramSail.setR .SLC_MDATA 0x31 0 |>.mcWrite 0 0 ((dramSail.flowBucket (flowHash (leBytes 8 0x31 ++ leBytes 8 0)).2.1) / 64 * 64) 0 true false)).start; let a : Nat := arg % 2 ^ 20; let ws : List Nat := b.mdataWords; let h : Nat × Nat × Nat := flowHash (ctxKey ws); let r : Except Nat Bytes × Block := b.flowRead (b.flowBucket h.1); let c : Block := r.2; let q : Except Nat Bytes × Block := c.flowRead (c.flowBucket h.2.1); let d : Block := q.2; (b.dev ≠ .off) ∧ (b.isManager mid part true = true) ∧ (b.flowFixed a ws = false) ∧ ((ctxValid ws = true ∧ 1 ≤ fKtype ws ∧ fKtype ws ≤ 3)) ∧ (b.flowByKey (ctxKey ws) = none) ∧ (r.1.toOption ≠ none) ∧ (q.1.toOption = none)) := by decide +kernel

theorem witness_SluiceManager_7 :
    (let mid := midGov; let part : Option Nat := none; let arg := 5; let u : Bytes := leBytes 8 (2 ^ 20 + (flowHash (leBytes 8 0x31 ++ leBytes 8 0)).2.2 * 2 ^ 32) ++ List.replicate 56 0; let v : Bytes := List.replicate 64 (0 : Byte); let b : Block := (Block.alone ((dramSail.setR .SLC_MDATA 0x31 0).writeBytes midSluice noPart (dramSail.flowBucket (flowHash (leBytes 8 0x31 ++ leBytes 8 0)).1) (leBytes 8 (2 ^ 20 + (flowHash (leBytes 8 0x31 ++ leBytes 8 0)).2.2 * 2 ^ 32)))).start; let a : Nat := arg % 2 ^ 20; let ws : List Nat := b.mdataWords; let h : Nat × Nat × Nat := flowHash (ctxKey ws); let r : Except Nat Bytes × Block := b.flowRead (b.flowBucket h.1); let c : Block := r.2; let q : Except Nat Bytes × Block := c.flowRead (c.flowBucket h.2.1); let d : Block := q.2; (b.dev ≠ .off) ∧ (b.isManager mid part true = true) ∧ (b.flowFixed a ws = false) ∧ ((ctxValid ws = true ∧ 1 ≤ fKtype ws ∧ fKtype ws ≤ 3)) ∧ (b.flowByKey (ctxKey ws) = none) ∧ (r.1.toOption = some u) ∧ (q.1.toOption = some v) ∧ ((ctxOf u ++ ctxOf v).any (fun w => bit w 20 && bits w 32 59 = h.2.2) = true)) := by decide +kernel

theorem witness_SluiceManager_8 :
    (let mid := midGov; let part : Option Nat := none; let arg := 5; let u : Bytes := (List.replicate 8 (leBytes 8 (2 ^ 20))).flatten; let v : Bytes := (List.replicate 8 (leBytes 8 (2 ^ 20))).flatten; let b : Block := (Block.alone ((dramSail.setR .SLC_MDATA 0x31 0).writeBytes midSluice noPart (dramSail.flowBucket (flowHash (leBytes 8 0x31 ++ leBytes 8 0)).1) ((List.replicate 8 (leBytes 8 (2 ^ 20))).flatten) |>.writeBytes midSluice noPart (dramSail.flowBucket (flowHash (leBytes 8 0x31 ++ leBytes 8 0)).2.1) ((List.replicate 8 (leBytes 8 (2 ^ 20))).flatten))).start; let a : Nat := arg % 2 ^ 20; let ws : List Nat := b.mdataWords; let h : Nat × Nat × Nat := flowHash (ctxKey ws); let r : Except Nat Bytes × Block := b.flowRead (b.flowBucket h.1); let c : Block := r.2; let q : Except Nat Bytes × Block := c.flowRead (c.flowBucket h.2.1); let d : Block := q.2; (b.dev ≠ .off) ∧ (b.isManager mid part true = true) ∧ (b.flowFixed a ws = false) ∧ ((ctxValid ws = true ∧ 1 ≤ fKtype ws ∧ fKtype ws ≤ 3)) ∧ (b.flowByKey (ctxKey ws) = none) ∧ (r.1.toOption = some u) ∧ (q.1.toOption = some v) ∧ ((ctxOf u ++ ctxOf v).any (fun w => bit w 20 && bits w 32 59 = h.2.2) = false) ∧ ((ctxOf u ++ ctxOf v).all (fun w => bit w 20) = true)) := by decide +kernel

theorem witness_SluiceManager_9 :
    (let mid := midGov; let part : Option Nat := none; let arg := 5; let ws : List Nat := [0, 0, 0, 0, 0, 0, 0, 0]; let b : Block := (Block.alone (({ base with slc := { base.slc with cache := [{ index := 5, words := [0, 0, 0, 0, 0, 0, 0, 0] }] } } : Block))).start; let a : Nat := arg % 2 ^ 20; let n : Option (List Nat) × Block := b.flowNow a; (b.dev ≠ .off) ∧ (b.isManager mid part true = true) ∧ (n.1 = some ws) ∧ (fKtype ws = 0)) := by decide +kernel

theorem witness_SluiceManager_10 :
    (let mid := 0; let part : Option Nat := none; let arg := 5; let b : Block := (Block.alone (base)).start; (b.dev ≠ .off) ∧ (b.isManager mid part true = false))
    ∧ (let mid := 0; let part : Option Nat := none; let arg := 5; let b : Block := (Block.alone (base)).start; (b.dev ≠ .off) ∧ (b.isManager mid part true = false))
    ∧ (let mid := 0; let part : Option Nat := none; let arg := 5; let b : Block := (Block.alone (base)).start; (b.dev ≠ .off) ∧ (b.isManager mid part true = false))
    ∧ (let mid := midGov; let part : Option Nat := none; let arg := 5; let b : Block := (Block.alone (base.setR .SLC_MDATA 8 2)).start; let a : Nat := arg % 2 ^ 20; let ws : List Nat := b.mdataWords; let h : Nat × Nat × Nat := flowHash (ctxKey ws); (b.dev ≠ .off) ∧ (b.isManager mid part true = true) ∧ (b.flowFixed a ws = true))
    ∧ (let mid := midGov; let part : Option Nat := none; let arg := 5; let b : Block := (Block.alone (base)).start; let a : Nat := arg % 2 ^ 20; let n : Option (List Nat) × Block := b.flowNow a; (b.dev ≠ .off) ∧ (b.isManager mid part true = true) ∧ (n.1 = none))
    ∧ (let mid := midGov; let part : Option Nat := none; let arg := 5; let b : Block := (Block.alone (base)).start; let a : Nat := arg % 2 ^ 20; let n : Option (List Nat) × Block := b.flowNow a; (b.dev ≠ .off) ∧ (b.isManager mid part true = true) ∧ (n.1 = none)) := by decide +kernel

theorem witness_SluiceManager_11 :
    (let mid := midGov; let part : Option Nat := none; let arg := 5; let ws : List Nat := [0, 0, 0, 0, 0, 0, 0, 0]; let b : Block := (Block.alone (({ base with slc := { base.slc with cache := [{ index := 5, words := [0, 0, 0, 0, 0, 0, 0, 0] }] } } : Block))).start; let a : Nat := arg % 2 ^ 20; let n : Option (List Nat) × Block := b.flowNow a; (b.dev ≠ .off) ∧ (b.isManager mid part true = true) ∧ (n.1 = some ws) ∧ (fKtype ws = 0)) := by decide +kernel

theorem witness_SluiceManager_12 :
    (let mid := midGov; let part : Option Nat := none; let arg := 5; let ws : List Nat := [0, 0, 0, 0, 0, 0, 0, 0]; let b : Block := (Block.alone (({ base with slc := { base.slc with cache := [{ index := 5, words := [0, 0, 0, 0, 0, 0, 0, 0] }] } } : Block))).start; let a : Nat := arg % 2 ^ 20; let n : Option (List Nat) × Block := b.flowNow a; (b.dev ≠ .off) ∧ (b.isManager mid part true = true) ∧ (n.1 = some ws) ∧ (fKtype ws = 0)) := by decide +kernel

theorem witness_SluiceManager_13 :
    (let mid := midGov; let part : Option Nat := none; let arg := 5; let ws : List Nat := [0x31, 0, 8, 0, 0, 0, 0, 0]; let b : Block := (Block.alone (({ base with slc := { base.slc with cache := [{ index := 5, words := [0x31, 0, 8, 0, 0, 0, 0, 0] }] } } : Block))).start; let a : Nat := arg % 2 ^ 20; let n : Option (List Nat) × Block := b.flowNow a; (b.dev ≠ .off) ∧ (b.isManager mid part true = true) ∧ (n.1 = some ws) ∧ (fKtype ws ≠ 0) ∧ (n.2.flowFixed a ws = true)) := by decide +kernel

theorem witness_SluiceManager_14 :
    (let mid := midGov; let part : Option Nat := none; let arg := 5; let ws : List Nat := [0x31, 0, 0, 0, 0, 0, 0, 0]; let b : Block := (Block.alone (({ base with slc := { base.slc with cache := [{ index := 5, words := [0x31, 0, 0, 0, 0, 0, 0, 0] }] } } : Block).setR .SLC_MDATA 8 2)).start; let a : Nat := arg % 2 ^ 20; let n : Option (List Nat) × Block := b.flowNow a; let new : List Nat := ws.take 2 ++ [n.2.mdata 2, n.2.mdata 3, n.2.mdata 4] ++ ws.drop 5; (b.dev ≠ .off) ∧ (b.isManager mid part true = true) ∧ (n.1 = some ws) ∧ (fKtype ws ≠ 0) ∧ ((n.2.flowFixed a ws = true ∨ n.2.flowFixed a new = true))) := by decide +kernel

theorem witness_SluiceManager_15 :
    (let mid := midGov; let part : Option Nat := none; let arg := 5; let ws : List Nat := [0x31, 0, 0, 0, 0, 0, 0, 0]; let b : Block := (Block.alone (({ base with slc := { base.slc with cache := [{ index := 5, words := [0x31, 0, 0, 0, 0, 0, 0, 0] }] } } : Block).setR .SLC_MDATA 0x1000000000000000 3)).start; let a : Nat := arg % 2 ^ 20; let n : Option (List Nat) × Block := b.flowNow a; let new : List Nat := ws.take 2 ++ [n.2.mdata 2, n.2.mdata 3, n.2.mdata 4] ++ ws.drop 5; (b.dev ≠ .off) ∧ (b.isManager mid part true = true) ∧ (n.1 = some ws) ∧ (fKtype ws ≠ 0) ∧ (¬ (n.2.flowFixed a ws = true ∨ n.2.flowFixed a new = true)) ∧ (ctxValid new = false)) := by decide +kernel

theorem witness_SluiceManager_16 :
    (let mid := midGov; let part : Option Nat := none; let arg := 0; let b : Block := (Block.alone (dramSail)).start; let a : Nat := arg % 2 ^ 20; let key : Bytes := leBytes 8 (b.mdata 0) ++ leBytes 8 (b.mdata 1); let w : Except Nat (Option (Nat × List Nat)) × Block := b.walkFlow key; (b.dev ≠ .off) ∧ (b.isManager mid part true = true) ∧ (a = 0) ∧ (b.flowByKey key = none) ∧ (w.1.toOption = some none)) := by decide +kernel

theorem witness_SluiceManager_17 :
    (let mid := midGov; let part : Option Nat := none; let arg := 0; let x0 := base.flowBucket (flowHash (leBytes 8 0 ++ leBytes 8 0)).1; let b : Block := (Block.alone (base)).start; let a : Nat := arg % 2 ^ 20; let key : Bytes := leBytes 8 (b.mdata 0) ++ leBytes 8 (b.mdata 1); let w : Except Nat (Option (Nat × List Nat)) × Block := b.walkFlow key; (b.dev ≠ .off) ∧ (b.isManager mid part true = true) ∧ (a = 0) ∧ (b.flowByKey key = none) ∧ ((match w.1 with | .error x => decide (x = x0) | .ok _ => false) = true)) := by decide +kernel

theorem witness_SluiceManager_18 :
    (let mid := midGov; let part : Option Nat := none; let arg := 5; let b : Block := (Block.alone (base)).start; let a : Nat := arg % 2 ^ 20; let n : Option (List Nat) × Block := b.flowNow a; (b.dev ≠ .off) ∧ (b.isManager mid part true = true) ∧ (n.1 = none))
    ∧ (let mid := midGov; let part : Option Nat := none; let arg := 5; let b : Block := (Block.alone (base)).start; let a : Nat := arg % 2 ^ 20; (b.dev ≠ .off) ∧ (b.isManager mid part true = true) ∧ (a ≠ 0))
    ∧ (let mid := midGov; let part : Option Nat := none; let arg := 256; let b : Block := (Block.alone (base)).start; let a : Nat := arg % 2 ^ 20; (b.dev ≠ .off) ∧ (b.isManager mid part true = true) ∧ (256 ≤ a))
    ∧ (let mid := midGov; let part : Option Nat := none; let arg := 256; let b : Block := (Block.alone (base)).start; let a : Nat := arg % 2 ^ 20; (b.dev ≠ .off) ∧ (b.isManager mid part true = true) ∧ (256 ≤ a))
    ∧ (let mid := midGov; let part : Option Nat := none; let arg := 256; let b : Block := (Block.alone (base)).start; let a : Nat := arg % 2 ^ 20; (b.dev ≠ .off) ∧ (b.isManager mid part true = true) ∧ (256 ≤ a))
    ∧ (let mid := midGov; let part : Option Nat := none; let arg := 256; let b : Block := (Block.alone (base)).start; let a : Nat := arg % 2 ^ 20; (b.dev ≠ .off) ∧ (b.isManager mid part true = true) ∧ (256 ≤ a)) := by decide +kernel

theorem witness_SluiceManager_19 :
    (let mid := midGov; let part : Option Nat := none; let arg := 256; let b : Block := (Block.alone (base)).start; let a : Nat := arg % 2 ^ 20; (b.dev ≠ .off) ∧ (b.isManager mid part true = true) ∧ (256 ≤ a))
    ∧ (let mid := midGov; let part : Option Nat := none; let arg := 256; let b : Block := (Block.alone (base)).start; let a : Nat := arg % 2 ^ 20; (b.dev ≠ .off) ∧ (b.isManager mid part true = true) ∧ (256 ≤ a))
    ∧ (let mid := midGov; let part : Option Nat := none; let arg := 256; let b : Block := (Block.alone (base)).start; let a : Nat := arg % 2 ^ 20; (b.dev ≠ .off) ∧ (b.isManager mid part true = true) ∧ (256 ≤ a))
    ∧ (let mid := midGov; let part : Option Nat := none; let arg := 256; let b : Block := (Block.alone (base)).start; let a : Nat := arg % 2 ^ 20; (b.dev ≠ .off) ∧ (b.isManager mid part true = true) ∧ (256 ≤ a))
    ∧ (let mid := midGov; let part : Option Nat := none; let arg := 5; let b : Block := (Block.alone (base.setR .SLC_MDATA 2 0)).start; let a : Nat := arg % 2 ^ 20; (b.dev ≠ .off) ∧ (b.isManager mid part true = true) ∧ (a < 256) ∧ (2 ≤ b.mdata 0))
    ∧ (let mid := midGov; let part : Option Nat := none; let arg := 5; let b : Block := (Block.alone ((base.setR .SLC_MDATA 1 0).put SLC_ISTAT_STATE 1 5)).start; let a : Nat := arg % 2 ^ 20; (b.dev ≠ .off) ∧ (b.isManager mid part true = true) ∧ (a < 256) ∧ (b.mdata 0 = 1) ∧ (b.instSt a ≠ 0)) := by decide +kernel

theorem witness_SluiceManager_20 :
    (let mid := midGov; let part : Option Nat := none; let arg := 5; let b : Block := (Block.alone (base)).start; let a : Nat := arg % 2 ^ 20; let ws : List Nat := b.mdataWords.take 4 ++ [0, 0, 0, 0]; (b.dev ≠ .off) ∧ (b.isManager mid part true = true) ∧ (a < 2048) ∧ (¬ (b.instSt (a % 256) = 2 ∨ b.instSt (a % 256) = 3)) ∧ (qctxValid ws = false)) := by decide +kernel

theorem witness_SluiceManager_21 :
    (let mid := midGov; let part : Option Nat := none; let arg := 5; let b : Block := (Block.alone (base.put SLC_ISTAT_STATE 2 5)).start; let a : Nat := arg % 2 ^ 20; (b.dev ≠ .off) ∧ (b.isManager mid part true = true) ∧ (a < 256) ∧ (b.mdata 0 = 0) ∧ (1 < b.instSt a))
    ∧ (let mid := midGov; let part : Option Nat := none; let arg := 2048; let b : Block := (Block.alone (base)).start; let a : Nat := arg % 2 ^ 20; (b.dev ≠ .off) ∧ (b.isManager mid part true = true) ∧ (2048 ≤ a))
    ∧ (let mid := midGov; let part : Option Nat := none; let arg := 5; let b : Block := (Block.alone (base.put SLC_ISTAT_STATE 2 5)).start; let a : Nat := arg % 2 ^ 20; (b.dev ≠ .off) ∧ (b.isManager mid part true = true) ∧ (a < 2048) ∧ ((b.instSt (a % 256) = 2 ∨ b.instSt (a % 256) = 3)))
    ∧ (let mid := midGov; let part : Option Nat := none; let arg := 2048; let b : Block := (Block.alone (base)).start; let a : Nat := arg % 2 ^ 20; (b.dev ≠ .off) ∧ (b.isManager mid part true = true) ∧ (2048 ≤ a))
    ∧ (let mid := midGov; let part : Option Nat := none; let arg := 5; let b : Block := (Block.alone (base)).start; let a : Nat := arg % 2 ^ 20; let g : Option (List Nat) × Block := b.getCtx (a % 256) (a / 256); (b.dev ≠ .off) ∧ (b.isManager mid part true = true) ∧ (a < 2048) ∧ (g.1 = none))
    ∧ (let mid := midGov; let part : Option Nat := none; let arg := 5; let b : Block := (Block.alone (base.setR .SLC_MDATA 2048 0)).start; let a : Nat := arg % 2 ^ 20; (b.dev ≠ .off) ∧ (b.isManager mid part true = true) ∧ (a < 256) ∧ (2048 ≤ b.mdata 0)) := by decide +kernel

theorem witness_SluiceManager_22 :
    (let mid := midGov; let part : Option Nat := none; let arg := 5; let b : Block := (Block.alone (base.setR .SLC_MDATA 1025 0)).start; let a : Nat := arg % 2 ^ 20; (b.dev ≠ .off) ∧ (b.isManager mid part true = true) ∧ (a < 256) ∧ (b.mdata 0 < 2048) ∧ (1024 < b.shareSum a (b.mdata 0)))
    ∧ (let mid := midGov; let part : Option Nat := none; let arg := 5; let b : Block := (Block.alone (base)).start; let a : Nat := arg % 2 ^ 20; (b.dev ≠ .off) ∧ (b.isManager mid part true = true) ∧ (a < 256) ∧ (b.instSt a ≠ 1))
    ∧ (let mid := midGov; let part : Option Nat := none; let arg := 5; let b : Block := (Block.alone (base)).start; let a : Nat := arg % 2 ^ 20; (b.dev ≠ .off) ∧ (b.isManager mid part true = true) ∧ (a < 256) ∧ (b.instSt a ≠ 1) ∧ (b.instSt a ≠ 2))
    ∧ (let mid := midGov; let part : Option Nat := none; let arg := 5; let b : Block := (Block.alone (base.put SLC_ISTAT_STATE 3 5)).start; let a : Nat := arg % 2 ^ 20; (b.dev ≠ .off) ∧ (b.isManager mid part true = true) ∧ (a < 256) ∧ ((b.instSt a = 2 ∨ b.instSt a = 3)))
    ∧ (let mid := midGov; let part : Option Nat := none; let arg := 5; let b : Block := (Block.alone (base.setR .SLC_MDATA 5 3)).start; let a : Nat := arg % 2 ^ 20; (b.dev ≠ .off) ∧ (b.isManager mid part true = true) ∧ (a < 256) ∧ (¬ (b.instSt a = 2 ∨ b.instSt a = 3)) ∧ (b.mdata 3 % 512 ≠ 0))
    ∧ (let mid := midGov; let part : Option Nat := none; let arg := 5; let b : Block := (Block.alone (base)).start; let a : Nat := arg % 2 ^ 20; (b.dev ≠ .off) ∧ (b.isManager mid part true = true) ∧ (a < 256) ∧ (b.isSet SLC_ISTAT_LOGON a = false)) := by decide +kernel

theorem witness_SluiceRows :
    (let walk := 4; let a : Arrival := { walk := 4, keys := [[1]], port := 0, turn := 0, phase := 0, sack := {} }; let b : Block := (Block.alone (base.modSlc fun s => { s with walks := [{ walk := 4, keys := [[1]], port := 0, turn := 0, phase := 0, sack := {} }] })).start; (b.dev ≠ .off) ∧ (b.slc.walks.find? (fun a => a.walk = walk) = some a)) := by decide +kernel

theorem witness_SluiceRows_2 :
    (let index := 7; let correctable := false; let e : FlowEnt := { index := 7, words := [1, 2, 3, 4, 5, 6, 7, 8], pinned := true }; let b : Block := (Block.alone (base.modSlc fun s => { s with cache := [{ index := 7, words := [1, 2, 3, 4, 5, 6, 7, 8], pinned := true }] })).start; let ws : List Nat := match b.pinnedFlows.find? (fun r => r.1 = index) with | some r => r.2 | none => e.words; (b.dev ≠ .off) ∧ (b.flowByIdx index = some e) ∧ (correctable = false) ∧ (e.pinned = true)) := by decide +kernel

theorem witness_SluiceRows_3 :
    (let index := 7; let correctable := false; let e : FlowEnt := { index := 7, words := [1, 2, 3, 4, 5, 6, 7, 8] }; let b : Block := (Block.alone (base.modSlc fun s => { s with cache := [{ index := 7, words := [1, 2, 3, 4, 5, 6, 7, 8] }] })).start; (b.dev ≠ .off) ∧ (b.flowByIdx index = some e) ∧ (correctable = false) ∧ (e.pinned = false)) := by decide +kernel

theorem witness_SluiceRows_4 :
    (let walk := 0; let b : Block := (Block.alone (base)).start; (b.slc.walks.find? (fun a => a.walk = walk) = none))
    ∧ (let index := 7; let correctable := true; let b : Block := (Block.alone (base)).start; (b.flowByIdx index = none))
    ∧ (let index := 7; let correctable := true; let e : FlowEnt := { index := 7, words := [1, 2, 3, 4, 5, 6, 7, 8] }; let b : Block := (Block.alone (base.modSlc fun s => { s with cache := [{ index := 7, words := [1, 2, 3, 4, 5, 6, 7, 8] }] })).start; (b.dev ≠ .off) ∧ (b.flowByIdx index = some e) ∧ (correctable = true))
    ∧ (let part : Option Nat := none; let i := 256; let q := 0; let b : Block := (Block.alone (base)).start; ((256 ≤ i ∨ 8 ≤ q)))
    ∧ (let mid := 0; let part : Option Nat := some 0; let i := 0; let q := 7; let tail := 0; let b : Block := (Block.alone (base.put BLT_PSTAT_MODE 2 0)).start; (b.dev ≠ .off) ∧ (i < 256) ∧ (q < 8) ∧ (b.mayRing mid part i = false) ∧ ((match part with | some p => decide (2 ≤ b.pMode p) | none => false) = true))
    ∧ (let mid := 0; let part : Option Nat := none; let i := 0; let q := 7; let tail := 0; let b : Block := (Block.alone (base)).start; (b.dev ≠ .off) ∧ (i < 256) ∧ (q < 8) ∧ (b.mayRing mid part i = false) ∧ ((match part with | some p => decide (2 ≤ b.pMode p) | none => false) = false)) := by decide +kernel

theorem witness_SluiceRows_5 :
    (let mid := 0x180; let part : Option Nat := none; let i := 255; let q := 7; let tail := 5; let b : Block := (Block.alone ((({ base with active := { recs := [(objKey 0x4AFF 1, [3])] }, slc := { base.slc with hop := [(7, { ctx := some (255, 7), words := [0x9000000000000, 0, 0, 0, 0, 0, 0, 0] }), (8, { ctx := some (255, 0), words := [0x9000000000000, 0, 0, 0, 0, 0, 0, 0] })] } } : Block).put SLC_ISTAT_STATE 1 255).modInst 255 fun t => { t with stopped := [7] })).start; (i < 256) ∧ (q < 8) ∧ (b.mayRing mid part i = true) ∧ (b.instSt i = 1) ∧ ((b.inst i).stopped.contains q = true)) := by decide +kernel

theorem witness_SluiceRows_6 :
    (let mid := 0x180; let part : Option Nat := none; let i := 255; let q := 7; let tail := 5; let b : Block := (Block.alone (({ base with active := { recs := [(objKey 0x4AFF 1, [3])] } } : Block).put SLC_ISTAT_STATE 1 255)).start; let g : Option (List Nat) × Block := b.getCtx i q; let c : Block := g.2; (b.dev ≠ .off) ∧ (i < 256) ∧ (q < 8) ∧ (b.mayRing mid part i = true) ∧ (b.instSt i = 1) ∧ ((b.inst i).stopped.contains q = false) ∧ (g.1 = none)) := by decide +kernel

theorem witness_SluiceRows_7 :
    (let mid := 0x180; let part : Option Nat := none; let i := 255; let q := 7; let tail := 513; let ws : List Nat := [0x9000000000000, 0, 0, 0, 0, 0, 0, 0]; let b : Block := (Block.alone (({ base with active := { recs := [(objKey 0x4AFF 1, [3])] }, slc := { base.slc with hop := [(7, { ctx := some (255, 7), words := [0x9000000000000, 0, 0, 0, 0, 0, 0, 0] }), (8, { ctx := some (255, 0), words := [0x9000000000000, 0, 0, 0, 0, 0, 0, 0] })] } } : Block).put SLC_ISTAT_STATE 1 255)).start; let g : Option (List Nat) × Block := b.getCtx i q; let c : Block := g.2; (b.dev ≠ .off) ∧ (i < 256) ∧ (q < 8) ∧ (b.mayRing mid part i = true) ∧ (b.instSt i = 1) ∧ ((b.inst i).stopped.contains q = false) ∧ (g.1 = some ws) ∧ (¬ (tail % 65536 + 65536 - qHead ws) % 65536 ≤ 2 ^ qSize ws)) := by decide +kernel

theorem witness_SluiceRows_8 :
    (let mid := 0x180; let part : Option Nat := none; let i := 255; let q := 7; let tail := 512; let ws : List Nat := [0x9000000000000, 0, 0, 0, 0, 0, 0, 0]; let b : Block := (Block.alone (({ base with active := { recs := [(objKey 0x4AFF 1, [3])] }, slc := { base.slc with hop := [(7, { ctx := some (255, 7), words := [0x9000000000000, 0, 0, 0, 0, 0, 0, 0] }), (8, { ctx := some (255, 0), words := [0x9000000000000, 0, 0, 0, 0, 0, 0, 0] })] } } : Block).put SLC_ISTAT_STATE 1 255)).start; let g : Option (List Nat) × Block := b.getCtx i q; let c : Block := g.2; let d : Block := c.putCtx i q (ctxS 1 16 31 (tail % 65536) ws); (b.dev ≠ .off) ∧ (i < 256) ∧ (q < 8) ∧ (b.mayRing mid part i = true) ∧ (b.instSt i = 1) ∧ ((b.inst i).stopped.contains q = false) ∧ (g.1 = some ws) ∧ ((tail % 65536 + 65536 - qHead ws) % 65536 ≤ 2 ^ qSize ws) ∧ (4 ≤ q)) := by decide +kernel

theorem witness_SluiceRows_9 :
    (let mid := 0x180; let part : Option Nat := none; let i := 255; let q := 0; let tail := 5; let ws : List Nat := [0x9000000000000, 0, 0, 0, 0, 0, 0, 0]; let b : Block := (Block.alone (({ base with active := { recs := [(objKey 0x4AFF 1, [3])] }, slc := { base.slc with hop := [(7, { ctx := some (255, 7), words := [0x9000000000000, 0, 0, 0, 0, 0, 0, 0] }), (8, { ctx := some (255, 0), words := [0x9000000000000, 0, 0, 0, 0, 0, 0, 0] })] } } : Block).put SLC_ISTAT_STATE 1 255)).start; let g : Option (List Nat) × Block := b.getCtx i q; let c : Block := g.2; let d : Block := c.putCtx i q (ctxS 1 16 31 (tail % 65536) ws); (b.dev ≠ .off) ∧ (i < 256) ∧ (q < 8) ∧ (b.mayRing mid part i = true) ∧ (b.instSt i = 1) ∧ ((b.inst i).stopped.contains q = false) ∧ (g.1 = some ws) ∧ ((tail % 65536 + 65536 - qHead ws) % 65536 ≤ 2 ^ qSize ws) ∧ (q < 4)) := by decide +kernel

theorem witness_SluiceRows_10 :
    (let w : Work := { inst := 3, queue := 0, idx := 0, iova := 0, words := [] }; let cur := 3; let d : Nat := 16384 * max 1 (base.get SLC_ISTAT_SHARE 3) - dLen w; let b : Block := (Block.alone (base.modSlc fun s => { s with pool := [{ inst := 3, queue := 0, idx := 0, iova := 0, words := [] }] })).start; let c : Block := (b.modSlc fun s => { s with drr := cur, deficit := SMap.set 0 cur d s.deficit }).complete w; let e : Block := if c.works cur = [] then c.modSlc (fun s => { s with deficit := SMap.set 0 cur 0 s.deficit }) else c; (b.dev ≠ .off) ∧ (b.drrWork = some (w, cur, d))) := by decide +kernel

theorem witness_SluiceRows_11 :
    (let mid := 0x180; let part : Option Nat := none; let i := 255; let q := 7; let tail := 5; let b : Block := (Block.alone ({ base with active := { recs := [(objKey 0x4AFF 1, [3])] } })).start; (b.dev ≠ .off) ∧ (i < 256) ∧ (q < 8) ∧ (b.mayRing mid part i = true) ∧ (b.instSt i ≠ 1))
    ∧ (let b : Block := (Block.alone (base)).start; (b.drrWork = none))
    ∧ (let i := 3; let b : Block := (Block.alone ((base.modSlc fun s => { s with pool := [{ inst := 3, queue := 0, idx := 0, iova := 0, words := [] }] }).put SLC_ISTAT_STATE 2 3)).start; (b.dev ≠ .off) ∧ ((i < 256 ∧ b.instSt i = 2 ∧ b.works i ≠ [])))
    ∧ (let i := 3; let b : Block := (Block.alone (base)).start; (¬ (i < 256 ∧ b.instSt i = 2 ∧ b.works i ≠ [])))
    ∧ (let i := 255; let b : Block := (Block.alone (base.put SLC_ISTAT_STATE 3 255)).start; let c : Block := b.forN 48 fun e b => match (b.hopEnt e).ctx with | some (j, _) => if j = i then b.hopDrop e else b | none => b; (b.dev ≠ .off) ∧ ((i < 256 ∧ (b.instSt i = 2 ∨ b.instSt i = 3) ∧ b.works i = [])))
    ∧ (let i := 255; let b : Block := (Block.alone (base)).start; (¬ (i < 256 ∧ (b.instSt i = 2 ∨ b.instSt i = 3) ∧ b.works i = []))) := by decide +kernel

theorem witness_SluiceRows_12 :
    (let mid := 3; let first := 255; let last := 254; let b : Block := (Block.alone (base)).start; let f : Nat := first % 256; let l : Nat := last % 256; let c : Block := (((b.setR .HOP_MNT_CTL (f + l * 256 + 0)).put HOP_MNT_STATUS_OWNER mid).put HOP_MNT_STATUS_DONE 0).put HOP_MNT_STATUS_ERR 0; (b.dev ≠ .off) ∧ (b.isSet HOP_MNT_STATUS_BUSY = false) ∧ (l < f)) := by decide +kernel

theorem witness_SluiceRows_13 :
    (let mid := 3; let first := 255; let last := 255; let b : Block := (Block.alone (({ base with active := { recs := [(objKey 0x4AFF 1, [3])] }, slc := { base.slc with hop := [(7, { ctx := some (255, 7), words := [0x9000000000000, 0, 0, 0, 0, 0, 0, 0] }), (8, { ctx := some (255, 0), words := [0x9000000000000, 0, 0, 0, 0, 0, 0, 0] })] } } : Block).put SLC_ISTAT_STATE 1 255)).start; let f : Nat := first % 256; let l : Nat := last % 256; let c : Block := (((b.setR .HOP_MNT_CTL (f + l * 256 + 0)).put HOP_MNT_STATUS_OWNER mid).put HOP_MNT_STATUS_DONE 0).put HOP_MNT_STATUS_ERR 0; (b.dev ≠ .off) ∧ (b.isSet HOP_MNT_STATUS_BUSY = false) ∧ (f ≤ l)) := by decide +kernel

theorem witness_SluiceRows_14 :
    (let mid := 3; let first := 255; let last := 254; let b : Block := (Block.alone (base)).start; let f : Nat := first % 256; let l : Nat := last % 256; let c : Block := (((b.setR .HOP_MNT_CTL (f + l * 256 + 65536)).put HOP_MNT_STATUS_OWNER mid).put HOP_MNT_STATUS_DONE 0).put HOP_MNT_STATUS_ERR 0; (b.dev ≠ .off) ∧ (b.isSet HOP_MNT_STATUS_BUSY = false) ∧ (l < f)) := by decide +kernel

theorem witness_SluiceRows_15 :
    (let mid := 3; let first := 255; let last := 255; let b : Block := (Block.alone (({ base with active := { recs := [(objKey 0x4AFF 1, [3])] }, slc := { base.slc with hop := [(7, { ctx := some (255, 7), words := [0x9000000000000, 0, 0, 0, 0, 0, 0, 0] }), (8, { ctx := some (255, 0), words := [0x9000000000000, 0, 0, 0, 0, 0, 0, 0] })] } } : Block).put SLC_ISTAT_STATE 1 255)).start; let f : Nat := first % 256; let l : Nat := last % 256; let c : Block := (((b.setR .HOP_MNT_CTL (f + l * 256 + 65536)).put HOP_MNT_STATUS_OWNER mid).put HOP_MNT_STATUS_DONE 0).put HOP_MNT_STATUS_ERR 0; (b.dev ≠ .off) ∧ (b.isSet HOP_MNT_STATUS_BUSY = false) ∧ (f ≤ l)) := by decide +kernel

theorem witness_SluiceRows_16 :
    (let entry := 47; let correctable := true; let b : Block := (Block.alone (base.put HOP_ERRCFG_THRESH 1)).start; let c : Block := b.modHop entry fun t => { t with errs := t.errs + (if correctable then 1 else 4) }; let d : Block := if correctable then c.noteOnce 0 { code := 0x190C, mid := some midSluice } else match (c.hopEnt entry).ctx with | some (i, q) => (c.hopDrop entry).stopQueue i q false | none => c; (b.dev ≠ .off) ∧ (¬ (48 ≤ entry ∨ b.hopOff entry = true)) ∧ (d.get HOP_ERRCFG_THRESH ≤ (d.hopEnt entry).errs)) := by decide +kernel

theorem witness_SluiceRows_17 :
    (let entry := 7; let correctable := false; let b : Block := (Block.alone ((({ base with active := { recs := [(objKey 0x4AFF 1, [3])] }, slc := { base.slc with hop := [(7, { ctx := some (255, 7), words := [0x9000000000000, 0, 0, 0, 0, 0, 0, 0] }), (8, { ctx := some (255, 0), words := [0x9000000000000, 0, 0, 0, 0, 0, 0, 0] })] } } : Block).put SLC_ISTAT_STATE 1 255).put HOP_ERRCFG_THRESH 16)).start; let c : Block := b.modHop entry fun t => { t with errs := t.errs + (if correctable then 1 else 4) }; let d : Block := if correctable then c.noteOnce 0 { code := 0x190C, mid := some midSluice } else match (c.hopEnt entry).ctx with | some (i, q) => (c.hopDrop entry).stopQueue i q false | none => c; (b.dev ≠ .off) ∧ (¬ (48 ≤ entry ∨ b.hopOff entry = true)) ∧ (¬ d.get HOP_ERRCFG_THRESH ≤ (d.hopEnt entry).errs)) := by decide +kernel

theorem witness_SluiceRows_18 :
    (let b : Block := (Block.alone (base.put HOP_MNT_STATUS_BUSY 1)).start; (b.dev ≠ .off) ∧ (b.isSet HOP_MNT_STATUS_BUSY = true))
    ∧ (let b : Block := (Block.alone (base.put HOP_MNT_STATUS_BUSY 1)).start; (b.dev ≠ .off) ∧ (b.isSet HOP_MNT_STATUS_BUSY = true))
    ∧ (let b : Block := (Block.alone (base.put HOP_MNT_STATUS_BUSY 1)).start; (b.dev ≠ .off) ∧ (b.isSet HOP_MNT_STATUS_BUSY = true))
    ∧ (let b : Block := (Block.alone (base)).start; (b.isSet HOP_MNT_STATUS_BUSY = false))
    ∧ (let entry := 0; let correctable := true; let b : Block := (Block.alone (base.put HOP_DIS_DIS 1)).start; ((48 ≤ entry ∨ b.hopOff entry = true)))
    ∧ (let fn : Nat := 0; let b : Block := (Block.alone (base)).start; (¬ (fn < 256 ∧ b.isSet PCI_CFG_EP = true))) := by decide +kernel

theorem witness_SluiceRows_19 :
    (let fn := 255; let b : Block := (Block.alone (base.put PCI_CFG_EP 1)).start; let c : Block := b.resetFn fn; (b.dev ≠ .off) ∧ ((fn < 256 ∧ b.isSet PCI_CFG_EP = true)) ∧ (c.ownKind fn ≠ 2))
    ∧ (let fn := 255; let b : Block := (Block.alone (({ base with active := { recs := [(objKey 0x4AFF 1, [2])] } } : Block).put PCI_CFG_EP 1 |>.put SLC_ISTAT_STATE 1 255)).start; let c : Block := b.resetFn fn; (b.dev ≠ .off) ∧ ((fn < 256 ∧ b.isSet PCI_CFG_EP = true)) ∧ (c.ownKind fn = 2)) := by decide +kernel

theorem witness_PcieLinks :
    (let sub := 0; let rate := 6; let width := 16; let flit := true; let b : Block := (Block.alone ((base.put PCI_CFG_EP 1).put PCI_SSTAT_STATE 1 0)).start; let c : Block := (((b.put PCI_SSTAT_RATE rate sub).put PCI_SSTAT_WIDTH width sub).put PCI_SSTAT_FLIT (ofBool flit) sub).modSub sub fun t => { t with l0 := true }; let d : Block := c.put PCI_SSTAT_STATE 2 sub; (b.dev ≠ .off) ∧ (sub < b.subCount) ∧ (b.subSt sub = 1) ∧ (6 ≤ rate) ∧ (d.strapWidth ≤ width)) := by decide +kernel

theorem witness_PcieLinks_2 :
    (let sub := 0; let rate := 6; let width := 15; let flit := true; let b : Block := (Block.alone (base.put PCI_SSTAT_STATE 1 0)).start; let c : Block := (((b.put PCI_SSTAT_RATE rate sub).put PCI_SSTAT_WIDTH width sub).put PCI_SSTAT_FLIT (ofBool flit) sub).modSub sub fun t => { t with l0 := true }; let d : Block := c.put PCI_SSTAT_STATE 2 sub; (b.dev ≠ .off) ∧ (sub < b.subCount) ∧ (b.subSt sub = 1) ∧ ((rate < 6 ∨ width < d.strapWidth))) := by decide +kernel

theorem witness_PcieLinks_3 :
    (let sub := 0; let rate := 6; let width := 16; let flit := true; let b : Block := (Block.alone (base.put PCI_SSTAT_STATE 3 0)).start; let c : Block := (((b.put PCI_SSTAT_RATE rate sub).put PCI_SSTAT_WIDTH width sub).put PCI_SSTAT_FLIT (ofBool flit) sub).modSub sub fun t => { t with l0 := true }; (b.dev ≠ .off) ∧ (sub < b.subCount) ∧ (b.subSt sub = 3)) := by decide +kernel

theorem witness_PcieLinks_4 :
    (let sub := 0; let cause := .ecrc; let b : Block := (Block.alone ((base.put PCI_SSTAT_STATE 2 0))).start; let c : Block := (b.errTags sub).put PCI_SSTAT_STATE 3 sub; let d : Block := c.when (!c.isEp sub) (Block.modSub sub fun s => { s with dpc := some (freezeCode cause) }); (b.dev ≠ .off) ∧ (sub < b.subCount) ∧ (b.subSt sub = 2)) := by decide +kernel

theorem witness_PcieLinks_5 :
    (let b : Block := (Block.alone ((base.put PCI_CFG_EP 1).modSub 0 (fun t => { t with perst := true }))).start; (b.dev ≠ .off))
    ∧ (let b : Block := (Block.alone ((base.put PCI_CFG_EP 1).put PCI_SSTAT_STATE 2 0)).start; (b.dev ≠ .off))
    ∧ (let sub := 0; let rate := 6; let width := 16; let flit := true; let b : Block := (Block.alone (base)).start; ((b.subCount ≤ sub ∨ b.subSt sub ≠ 1 ∧ b.subSt sub ≠ 3)))
    ∧ (let sub := 0; let b : Block := (Block.alone ((base.put PCI_SSTAT_STATE 3 0).modSub 0 fun t => { t with l0 := true })).start; (b.dev ≠ .off) ∧ (sub < b.subCount) ∧ (b.subSt sub = 3))
    ∧ (let sub := 0; let b : Block := (Block.alone (base)).start; ((b.subCount ≤ sub ∨ b.subSt sub ≠ 2 ∧ b.subSt sub ≠ 3)))
    ∧ (let mid := 0; let part : Option Nat := none; let b : Block := (Block.alone (base)).start; (b.dev ≠ .off) ∧ (b.isManager mid part false = false)) := by decide +kernel

theorem witness_PcieLinks_6 :
    (let mid := 0x190; let part : Option Nat := none; let sub := 0; let lost := false; let b : Block := (Block.alone ((base.put PCI_SSTAT_STATE 3 0).modSub 0 fun t => { t with l0 := true })).start; let c : Block := (b.dropTags sub).modSub sub fun s => { s with dpc := none }; let d : Block := (c.put PCI_SSTAT_STATE 2 sub).note (pciFault 0x0A07 sub); (b.dev ≠ .off) ∧ (b.isManager mid part false = true) ∧ (sub < b.subCount) ∧ (b.subSt sub = 3) ∧ (lost = false) ∧ ((c.psub sub).l0 = true) ∧ (d.isEp sub = false)) := by decide +kernel

theorem witness_PcieLinks_7 :
    (let mid := 0x190; let part : Option Nat := none; let sub := 0; let lost := false; let b : Block := (Block.alone (((base.put PCI_CFG_EP 1).put PCI_SSTAT_STATE 3 0).modSub 0 fun t => { t with l0 := true })).start; let c : Block := (b.dropTags sub).modSub sub fun s => { s with dpc := none }; let d : Block := (c.put PCI_SSTAT_STATE 2 sub).note (pciFault 0x0A07 sub); (b.dev ≠ .off) ∧ (b.isManager mid part false = true) ∧ (sub < b.subCount) ∧ (b.subSt sub = 3) ∧ (lost = false) ∧ ((c.psub sub).l0 = true) ∧ (d.isEp sub = true)) := by decide +kernel

theorem witness_PcieLinks_8 :
    (let mid := 0x190; let part : Option Nat := none; let sub := 0; let lost := false; let b : Block := (Block.alone (base.put PCI_SSTAT_STATE 3 0)).start; let c : Block := (b.dropTags sub).modSub sub fun s => { s with dpc := none }; let d : Block := (c.put PCI_SSTAT_STATE 0 sub).note (pciFault 0x0A07 sub); (b.dev ≠ .off) ∧ (b.isManager mid part false = true) ∧ (sub < b.subCount) ∧ (b.subSt sub = 3) ∧ (lost = false) ∧ ((c.psub sub).l0 = false)) := by decide +kernel

theorem witness_PcieLinks_9 :
    (let mid := 0x190; let part : Option Nat := none; let sub := 0; let lost := false; let b : Block := (Block.alone (base)).start; (b.isManager mid part false = true) ∧ ((b.subCount ≤ sub ∨ b.subSt sub ≠ 3)))
    ∧ (let mid := 0x190; let part : Option Nat := none; let sub := 0; let lost := true; let b : Block := (Block.alone (base.put PCI_SSTAT_STATE 3 0)).start; (b.dev ≠ .off) ∧ (b.isManager mid part false = true) ∧ (sub < b.subCount) ∧ (b.subSt sub = 3) ∧ (lost = true))
    ∧ (let sub := 0; let b : Block := (Block.alone ((base.put PCI_CFG_EP 1))).start; let c : Block := b.subDown sub; (b.dev ≠ .off) ∧ (sub < b.subCount) ∧ (c.isEp sub = true))
    ∧ (let sub := 0; let b : Block := (Block.alone (base)).start; let c : Block := b.subDown sub; (b.dev ≠ .off) ∧ (sub < b.subCount) ∧ (c.isEp sub = false))
    ∧ (let sub := 1; let b : Block := (Block.alone (base)).start; (b.subCount ≤ sub))
    ∧ (let sub := 0; let b : Block := (Block.alone (base)).start; (b.dev ≠ .off) ∧ (b.isEp sub = false)) := by decide +kernel

theorem witness_PcieLinks_10 :
    (let sub := 0; let b : Block := (Block.alone ((base.put PCI_CFG_EP 1))).start; (b.isEp sub = true))
    ∧ (let sub := 0; let value := 70000; let b : Block := (Block.alone ((base.put PCI_SSTAT_STATE 2 0))).start; (b.dev ≠ .off) ∧ (sub < b.subCount) ∧ (b.isEp sub = false) ∧ (b.subSt sub = 2))
    ∧ (let sub := 0; let b : Block := (Block.alone (base)).start; ((b.subCount ≤ sub ∨ b.isEp sub = true ∨ b.subSt sub ≠ 2)))
    ∧ (let sub := 0; let status := 31; let b : Block := (Block.alone (base)).start; (b.dev ≠ .off) ∧ (sub < b.subCount))
    ∧ (let sub := 1; let b : Block := (Block.alone (base)).start; (b.subCount ≤ sub)) := by decide +kernel

theorem witness_PcieInbound :
    (let sub := 0; let rid := 256; let addr := 0; let len := 4; let poison := true; let atomic := false; let b : Block := (Block.alone (((base.put PCI_SSTAT_STATE 2 0).put PCI_CFG_EP 1))).start; let c : Block := b.when poison fun b => (b.aerSet sub aerPoison).note (pciFault 0x2A0C sub); (b.dev ≠ .off) ∧ (sub < b.subCount) ∧ (b.subSt sub = 2) ∧ (c.isEp sub = true)) := by decide +kernel

theorem witness_PcieInbound_2 :
    (let sub := 0; let rid := 256; let addr := 64; let len := 4; let poison := false; let atomic := true; let b : Block := (Block.alone ((base.put PCI_SSTAT_STATE 2 0))).start; let c : Block := b.when poison fun b => (b.aerSet sub aerPoison).note (pciFault 0x2A0C sub); (b.dev ≠ .off) ∧ (sub < b.subCount) ∧ (b.subSt sub = 2) ∧ (c.isEp sub = false) ∧ (atomic = true)) := by decide +kernel

theorem witness_PcieInbound_3 :
    (let wdata : Option Bytes := none; let sub := 0; let rid := 256; let addr := 4093; let len := 4; let poison := true; let atomic := false; let b : Block := (Block.alone (((base.put PCI_SSTAT_STATE 2 0)).modSub 0 fun t => { t with cfg := [(0x18, 0xFF0000)] })).start; let n : Nat := match wdata with | some v => v.length | none => len; let c : Block := b.when poison fun b => (b.aerSet sub aerPoison).note (pciFault 0x2A0C sub); (b.dev ≠ .off) ∧ (sub < b.subCount) ∧ (b.subSt sub = 2) ∧ (c.isEp sub = false) ∧ (atomic = false) ∧ ((rid / 256 % 256 < c.secBus sub ∨ c.subBus sub < rid / 256 % 256 ∨ n = 0 ∨ 4096 < addr % 4096 + n))) := by decide +kernel

theorem witness_PcieInbound_4 :
    (let wdata : Option Bytes := none; let sub := 0; let rid := 256; let addr := 64; let len := 4; let poison := false; let atomic := false; let b : Block := (Block.alone (((base.put PCI_SSTAT_STATE 2 0)).modSub 0 fun t => { t with cfg := [(0x18, 0xFF0000)] })).start; let n : Nat := match wdata with | some v => v.length | none => len; let c : Block := b.when poison fun b => (b.aerSet sub aerPoison).note (pciFault 0x2A0C sub); let q : Option Nat × Block := c.iotTranslate rid (midPci sub) noPart none (if wdata.isSome = true then .store else .load) addr; (b.dev ≠ .off) ∧ (sub < b.subCount) ∧ (b.subSt sub = 2) ∧ (c.isEp sub = false) ∧ (atomic = false) ∧ (¬ (rid / 256 % 256 < c.secBus sub ∨ c.subBus sub < rid / 256 % 256 ∨ n = 0 ∨ 4096 < addr % 4096 + n)) ∧ (q.1 = none)) := by decide +kernel

theorem witness_PcieInbound_5 :
    (let wdata : Option Bytes := none; let sub := 0; let rid := 256; let addr := 4092; let len := 4; let poison := false; let atomic := false; let pa := 4092; let b : Block := (Block.alone ((((base.put PCI_SSTAT_STATE 2 0)).modSub 0 fun t => { t with cfg := [(0x18, 0xFF0000)] }).put IOT_DDTP_MODE 1 0)).start; let n : Nat := match wdata with | some v => v.length | none => len; let c : Block := b.when poison fun b => (b.aerSet sub aerPoison).note (pciFault 0x2A0C sub); let q : Option Nat × Block := c.iotTranslate rid (midPci sub) noPart none (if wdata.isSome = true then .store else .load) addr; (b.dev ≠ .off) ∧ (sub < b.subCount) ∧ (b.subSt sub = 2) ∧ (c.isEp sub = false) ∧ (atomic = false) ∧ (¬ (rid / 256 % 256 < c.secBus sub ∨ c.subBus sub < rid / 256 % 256 ∨ n = 0 ∨ 4096 < addr % 4096 + n)) ∧ (q.1 = some pa)) := by decide +kernel

theorem witness_PcieInbound_6 :
    (let poison : Bool := false; let sub := 0; let f := 256; let b : Block := (Block.alone (((base.put PCI_SSTAT_STATE 2 0).put PCI_CFG_EP 1))).start; let c : Block := b.when poison fun b => (b.aerSet sub aerPoison).note (pciFault 0x2A0C sub); (b.dev ≠ .off) ∧ (sub < b.subCount) ∧ (b.subSt sub = 2) ∧ ((c.isEp sub = false ∨ 256 ≤ f))) := by decide +kernel

theorem witness_PcieInbound_7 :
    (let atomic : Bool := false; let poison : Bool := false; let sub := 0; let f := 255; let b : Block := (Block.alone (((base.put PCI_SSTAT_STATE 2 0).put PCI_CFG_EP 1).modPci fun p => { p with fns := [(255, { d3 := true })] })).start; let c : Block := b.when poison fun b => (b.aerSet sub aerPoison).note (pciFault 0x2A0C sub); (b.dev ≠ .off) ∧ (sub < b.subCount) ∧ (b.subSt sub = 2) ∧ (c.isEp sub = true) ∧ (f < 256) ∧ ((atomic = true ∨ (c.fn f).d3 = true))) := by decide +kernel

theorem witness_PcieInbound_8 :
    (let atomic : Bool := false; let poison : Bool := false; let wdata : Option Bytes := none; let sub := 0; let f := 0; let x := 0x100004; let len := 2; let b : Block := (Block.alone (((base.put PCI_SSTAT_STATE 2 0).put PCI_CFG_EP 1))).start; let c : Block := b.when poison fun b => (b.aerSet sub aerPoison).note (pciFault 0x2A0C sub); (b.dev ≠ .off) ∧ (sub < b.subCount) ∧ (b.subSt sub = 2) ∧ (c.isEp sub = true) ∧ (f < 256) ∧ (¬ (atomic = true ∨ (c.fn f).d3 = true)) ∧ (wdata = none) ∧ ((c.bar0Read f x len).1 = none)) := by decide +kernel

theorem witness_PcieInbound_9 :
    (let atomic : Bool := false; let poison : Bool := false; let wdata : Option Bytes := none; let sub := 0; let f := 255; let x := 0x3000; let len := 8; let v : Bytes := [0, 0, 0, 0, 0, 0, 0, 0]; let b : Block := (Block.alone (((base.put PCI_SSTAT_STATE 2 0).put PCI_CFG_EP 1))).start; let c : Block := b.when poison fun b => (b.aerSet sub aerPoison).note (pciFault 0x2A0C sub); (b.dev ≠ .off) ∧ (sub < b.subCount) ∧ (b.subSt sub = 2) ∧ (c.isEp sub = true) ∧ (f < 256) ∧ (¬ (atomic = true ∨ (c.fn f).d3 = true)) ∧ (wdata = none) ∧ ((c.bar0Read f x len).1 = some v)) := by decide +kernel

theorem witness_PcieInbound_10 :
    (let atomic : Bool := false; let sub := 0; let f := 0; let x := 0x101000; let wdata : Option Bytes := some [1]; let v : Bytes := [1]; let poison := true; let b : Block := (Block.alone (((base.put PCI_SSTAT_STATE 2 0).put PCI_CFG_EP 1))).start; let c : Block := b.when poison fun b => (b.aerSet sub aerPoison).note (pciFault 0x2A0C sub); (b.dev ≠ .off) ∧ (sub < b.subCount) ∧ (b.subSt sub = 2) ∧ (c.isEp sub = true) ∧ (f < 256) ∧ (¬ (atomic = true ∨ (c.fn f).d3 = true)) ∧ (wdata = some v) ∧ (poison = true)) := by decide +kernel

theorem witness_PcieInbound_11 :
    (let atomic : Bool := false; let poison : Bool := false; let sub := 0; let f := 0; let x := 0x101000; let wdata : Option Bytes := some [1]; let v : Bytes := [1]; let b : Block := (Block.alone (((base.put PCI_SSTAT_STATE 2 0).put PCI_CFG_EP 1))).start; let c : Block := b.when poison fun b => (b.aerSet sub aerPoison).note (pciFault 0x2A0C sub); (b.dev ≠ .off) ∧ (sub < b.subCount) ∧ (b.subSt sub = 2) ∧ (c.isEp sub = true) ∧ (f < 256) ∧ (¬ (atomic = true ∨ (c.fn f).d3 = true)) ∧ (wdata = some v) ∧ (poison = false)) := by decide +kernel

theorem witness_PcieInbound_12 :
    (let poison : Bool := false; let sub := 0; let f := 256; let b : Block := (Block.alone (((base.put PCI_SSTAT_STATE 2 0).put PCI_CFG_EP 1))).start; let c : Block := b.when poison fun b => (b.aerSet sub aerPoison).note (pciFault 0x2A0C sub); (b.dev ≠ .off) ∧ (sub < b.subCount) ∧ (b.subSt sub = 2) ∧ ((c.isEp sub = false ∨ 256 ≤ f))) := by decide +kernel

theorem witness_PcieInbound_13 :
    (let atomic : Bool := false; let poison : Bool := false; let sub := 0; let f := 255; let b : Block := (Block.alone (((base.put PCI_SSTAT_STATE 2 0).put PCI_CFG_EP 1).modPci fun p => { p with fns := [(255, { d3 := true })] })).start; let c : Block := b.when poison fun b => (b.aerSet sub aerPoison).note (pciFault 0x2A0C sub); (b.dev ≠ .off) ∧ (sub < b.subCount) ∧ (b.subSt sub = 2) ∧ (c.isEp sub = true) ∧ (f < 256) ∧ ((atomic = true ∨ (c.fn f).d3 = true))) := by decide +kernel

theorem witness_PcieInbound_14 :
    (let atomic : Bool := false; let poison : Bool := false; let sub := 0; let f := 0; let b : Block := (Block.alone (((base.put PCI_SSTAT_STATE 2 0).put PCI_CFG_EP 1))).start; let c : Block := b.when poison fun b => (b.aerSet sub aerPoison).note (pciFault 0x2A0C sub); (b.dev ≠ .off) ∧ (sub < b.subCount) ∧ (b.subSt sub = 2) ∧ (c.isEp sub = true) ∧ (f < 256) ∧ (¬ (atomic = true ∨ (c.fn f).d3 = true))) := by decide +kernel

theorem witness_PcieInbound_15 :
    (let sub := 0; let t : PciTarget := .mem 0 0; let b : Block := (Block.alone (base)).start; ((b.subCount ≤ sub ∨ b.subSt sub ≠ 2)))
    ∧ (let fn := 255; let queue := 8; let b : Block := (Block.alone (((base.put PCI_SSTAT_STATE 2 0).put PCI_CFG_EP 1))).start; (¬ (b.isEp 0 = true ∧ b.subSt 0 = 2 ∧ fn < 256 ∧ queue < 8)))
    ∧ (let fn := 255; let queue := 7; let b : Block := (Block.alone (((base.put PCI_SSTAT_STATE 2 0).put PCI_CFG_EP 1).modPci fun p => { p with fns := [(255, { d3 := true })] })).start; (b.dev ≠ .off) ∧ ((b.isEp 0 = true ∧ b.subSt 0 = 2 ∧ fn < 256 ∧ queue < 8)) ∧ ((b.fn fn).d3 = true))
    ∧ (let fn := 0; let queue := 7; let value := 65537; let b : Block := (Block.alone ({ ((base.put PCI_SSTAT_STATE 2 0).put PCI_CFG_EP 1) with active := { recs := [(objKey 0x4A00 1, [2])] } })).start; (b.dev ≠ .off) ∧ ((b.isEp 0 = true ∧ b.subSt 0 = 2 ∧ fn < 256 ∧ queue < 8)) ∧ ((b.fn fn).d3 = false) ∧ (b.ownKind fn = 2))
    ∧ (let fn := 0; let queue := 7; let b : Block := (Block.alone (((base.put PCI_SSTAT_STATE 2 0).put PCI_CFG_EP 1))).start; (b.dev ≠ .off) ∧ ((b.isEp 0 = true ∧ b.subSt 0 = 2 ∧ fn < 256 ∧ queue < 8)) ∧ ((b.fn fn).d3 = false) ∧ (b.ownKind fn ≠ 2))
    ∧ (let fn := 256; let req : CfgOp := .flr; let b : Block := (Block.alone (((base.put PCI_SSTAT_STATE 2 0).put PCI_CFG_EP 1))).start; (¬ (b.isEp 0 = true ∧ b.subSt 0 = 2 ∧ fn < 256))) := by decide +kernel

theorem witness_PcieInbound_16 :
    (let fn := 0; let req : CfgOp := .flr; let b : Block := (Block.alone ({ ((base.put PCI_SSTAT_STATE 2 0).put PCI_CFG_EP 1) with dev := .boot })).start; (b.dev ≠ .off) ∧ ((b.isEp 0 = true ∧ b.subSt 0 = 2 ∧ fn < 256)) ∧ ((b.dev = .boot ∨ b.dev = .selftest)))
    ∧ (let fn := 255; let off := 0; let b : Block := (Block.alone ({ ((base.put PCI_SSTAT_STATE 2 0).put PCI_CFG_EP 1) with dev := .configWait })).start; (b.dev ≠ .off) ∧ ((b.isEp 0 = true ∧ b.subSt 0 = 2 ∧ fn < 256)) ∧ (¬ (b.dev = .boot ∨ b.dev = .selftest)))
    ∧ (let fn := 255; let d := false; let b : Block := (Block.alone ({ ((base.put PCI_SSTAT_STATE 2 0).put PCI_CFG_EP 1) with dev := .run })).start; (b.dev ≠ .off) ∧ ((b.isEp 0 = true ∧ b.subSt 0 = 2 ∧ fn < 256)) ∧ (¬ (b.dev = .boot ∨ b.dev = .selftest)))
    ∧ (let fn := 255; let en := true; let b : Block := (Block.alone ({ ((base.put PCI_SSTAT_STATE 2 0).put PCI_CFG_EP 1) with dev := .run })).start; (b.dev ≠ .off) ∧ ((b.isEp 0 = true ∧ b.subSt 0 = 2 ∧ fn < 256)) ∧ (¬ (b.dev = .boot ∨ b.dev = .selftest)))
    ∧ (let fn := 0; let b : Block := (Block.alone ({ ({ ((base.put PCI_SSTAT_STATE 2 0).put PCI_CFG_EP 1) with dev := .run }) with active := { recs := [(objKey 0x4A00 1, [2])] } })).start; let c : Block := b.resetFn fn; (b.dev ≠ .off) ∧ ((b.isEp 0 = true ∧ b.subSt 0 = 2 ∧ fn < 256)) ∧ (¬ (b.dev = .boot ∨ b.dev = .selftest)))
    ∧ (let fn := 255; let m := 3; let b : Block := (Block.alone (({ ((base.put PCI_SSTAT_STATE 2 0).put PCI_CFG_EP 1) with dev := .run }).modSub 0 fun t => { t with aer := 5 })).start; (b.dev ≠ .off) ∧ ((b.isEp 0 = true ∧ b.subSt 0 = 2 ∧ fn < 256)) ∧ (¬ (b.dev = .boot ∨ b.dev = .selftest))) := by decide +kernel

theorem witness_PcieInbound_17 :
    (let fn := 255; let b : Block := (Block.alone ({ ((base.put PCI_SSTAT_STATE 2 0).put PCI_CFG_EP 1) with dev := .run })).start; (b.dev ≠ .off) ∧ ((b.isEp 0 = true ∧ b.subSt 0 = 2 ∧ fn < 256)) ∧ (¬ (b.dev = .boot ∨ b.dev = .selftest))) := by decide +kernel

theorem witness_PcieOutbound :
    (let mid := 0x190; let part : Option Nat := some 0; let inst : Option Nat := none; let txid := 5; let addr := 0x8000000000; let width := 8; let wdata : Option Nat := some 3; let b : Block := (Block.alone ((base.put PCI_SSTAT_STATE 2 0).put BLT_PSTAT_MODE 2 0)).start; let k : Nat := b.obSub addr; let off : Nat := addr - b.obBase k; let rid : Nat := b.requesterId k inst; let ecam : Bool := b.isSet PCI_SCTL_ECAMEN k && !b.isEp k && decide (off < 2 ^ 28); (b.dev ≠ .off) ∧ (b.decodePa addr = .pcie) ∧ ((wdata.isSome && (match part with | some p => decide (2 ≤ b.pMode p) | none => false)) = true)) := by decide +kernel

theorem witness_PcieOutbound_2 :
    (let mid := 0x190; let part : Option Nat := none; let inst : Option Nat := none; let txid := 5; let addr := 0x8000000002; let width := 4; let wdata : Option Nat := none; let b : Block := (Block.alone ((base.put PCI_SSTAT_STATE 2 0).put PCI_SCTL_ECAMEN 1 0)).start; let k : Nat := b.obSub addr; let off : Nat := addr - b.obBase k; let rid : Nat := b.requesterId k inst; let ecam : Bool := b.isSet PCI_SCTL_ECAMEN k && !b.isEp k && decide (off < 2 ^ 28); (b.dev ≠ .off) ∧ (b.decodePa addr = .pcie) ∧ ((wdata.isSome && (match part with | some p => decide (2 ≤ b.pMode p) | none => false)) = false) ∧ (((b.subCount ≤ k ∨ b.subSt k = 3 ∨ (b.fn rid).d3 = true) ∨ (ecam = true ∧ (4 < width ∨ width = 0 ∨ 4 < off % 4 + width)) ∨ ecam = true ∧ 0x1000 ≤ off ∧ bits off 20 27 = 0))) := by decide +kernel

theorem witness_PcieOutbound_3 :
    (let mid := 0x190; let part : Option Nat := none; let inst : Option Nat := none; let txid := 5; let addr := 0x8000000019; let width := 2; let wdata : Option Nat := none; let b : Block := (Block.alone (((base.put PCI_SSTAT_STATE 2 0).put PCI_SCTL_ECAMEN 1 0).modSub 0 fun t => { t with cfg := [(0x18, 0xFF0201)] })).start; let k : Nat := b.obSub addr; let off : Nat := addr - b.obBase k; let rid : Nat := b.requesterId k inst; let ecam : Bool := b.isSet PCI_SCTL_ECAMEN k && !b.isEp k && decide (off < 2 ^ 28); (b.dev ≠ .off) ∧ (b.decodePa addr = .pcie) ∧ ((wdata.isSome && (match part with | some p => decide (2 ≤ b.pMode p) | none => false)) = false) ∧ (¬ (b.subCount ≤ k ∨ b.subSt k = 3 ∨ (b.fn rid).d3 = true)) ∧ (¬ (ecam = true ∧ (4 < width ∨ width = 0 ∨ 4 < off % 4 + width))) ∧ (ecam = true) ∧ (off < 0x1000) ∧ (wdata = none)) := by decide +kernel

theorem witness_PcieOutbound_4 :
    (let mid := 0x190; let part : Option Nat := none; let inst : Option Nat := none; let txid := 5; let addr := 0x8000000019; let width := 1; let wdata : Option Nat := some 5; let w := 5; let b : Block := (Block.alone ((base.put PCI_SSTAT_STATE 2 0).put PCI_SCTL_ECAMEN 1 0)).start; let k : Nat := b.obSub addr; let off : Nat := addr - b.obBase k; let rid : Nat := b.requesterId k inst; let ecam : Bool := b.isSet PCI_SCTL_ECAMEN k && !b.isEp k && decide (off < 2 ^ 28); let old : Nat := b.rootWord k off; let new : Nat := if off / 4 * 4 = 0 then b.rootWord k 0 else setBits old (8 * (off % 4)) (8 * (off % 4) + 8 * width - 1) w; (b.dev ≠ .off) ∧ (b.decodePa addr = .pcie) ∧ ((wdata.isSome && (match part with | some p => decide (2 ≤ b.pMode p) | none => false)) = false) ∧ (¬ (b.subCount ≤ k ∨ b.subSt k = 3 ∨ (b.fn rid).d3 = true)) ∧ (¬ (ecam = true ∧ (4 < width ∨ width = 0 ∨ 4 < off % 4 + width))) ∧ (ecam = true) ∧ (off < 0x1000) ∧ (wdata = some w)) := by decide +kernel

theorem witness_PcieOutbound_5 :
    (let mid := 0x190; let part : Option Nat := some 0; let inst : Option Nat := none; let txid := 5; let addr := 0x8000000000; let width := 8; let wdata : Option Nat := some 3; let b : Block := (Block.alone ({ (base.put PCI_SSTAT_STATE 2 0) with dev := .safeHold })).start; let k : Nat := b.obSub addr; let off : Nat := addr - b.obBase k; let rid : Nat := b.requesterId k inst; let ecam : Bool := b.isSet PCI_SCTL_ECAMEN k && !b.isEp k && decide (off < 2 ^ 28); (b.dev ≠ .off) ∧ (b.decodePa addr = .pcie) ∧ ((wdata.isSome && (match part with | some p => decide (2 ≤ b.pMode p) | none => false)) = false) ∧ (¬ (b.subCount ≤ k ∨ b.subSt k = 3 ∨ (b.fn rid).d3 = true)) ∧ (¬ (ecam = true ∧ (4 < width ∨ width = 0 ∨ 4 < off % 4 + width))) ∧ ((ecam = false ∧ wdata.isSome = true ∧ part.isSome = true ∧ b.outputsOn = false))) := by decide +kernel

theorem witness_PcieOutbound_6 :
    (let mid := 0x190; let part : Option Nat := none; let inst : Option Nat := none; let txid := 5; let addr := 0x8000000000; let width := 8; let wdata : Option Nat := none; let b : Block := (Block.alone (base)).start; let k : Nat := b.obSub addr; let off : Nat := addr - b.obBase k; let rid : Nat := b.requesterId k inst; let ecam : Bool := b.isSet PCI_SCTL_ECAMEN k && !b.isEp k && decide (off < 2 ^ 28); (b.dev ≠ .off) ∧ (b.decodePa addr = .pcie) ∧ ((wdata.isSome && (match part with | some p => decide (2 ≤ b.pMode p) | none => false)) = false) ∧ (¬ (b.subCount ≤ k ∨ b.subSt k = 3 ∨ (b.fn rid).d3 = true)) ∧ (¬ (ecam = true ∧ (4 < width ∨ width = 0 ∨ 4 < off % 4 + width))) ∧ (¬ (ecam = true ∧ bits off 20 27 = 0)) ∧ (¬ (ecam = false ∧ wdata.isSome = true ∧ part.isSome = true ∧ b.outputsOn = false)) ∧ (b.subSt k ≠ 2)) := by decide +kernel

theorem witness_PcieOutbound_7 :
    (let mid := 0x190; let part : Option Nat := some 0; let inst : Option Nat := none; let txid := 5; let addr := 0x8000000000; let width := 8; let wdata : Option Nat := some 3; let w := 3; let b : Block := (Block.alone (runBase.put PCI_SSTAT_STATE 2 0)).start; let k : Nat := b.obSub addr; let off : Nat := addr - b.obBase k; let rid : Nat := b.requesterId k inst; let ecam : Bool := b.isSet PCI_SCTL_ECAMEN k && !b.isEp k && decide (off < 2 ^ 28); (b.dev ≠ .off) ∧ (b.decodePa addr = .pcie) ∧ ((wdata.isSome && (match part with | some p => decide (2 ≤ b.pMode p) | none => false)) = false) ∧ (¬ (b.subCount ≤ k ∨ b.subSt k = 3 ∨ (b.fn rid).d3 = true)) ∧ (¬ (ecam = true ∧ (4 < width ∨ width = 0 ∨ 4 < off % 4 + width))) ∧ (¬ (ecam = true ∧ bits off 20 27 = 0)) ∧ (¬ (ecam = false ∧ wdata.isSome = true ∧ part.isSome = true ∧ b.outputsOn = false)) ∧ (b.subSt k = 2) ∧ (ecam = false) ∧ (wdata = some w)) := by decide +kernel

theorem witness_PcieOutbound_8 :
    (let mid := 0x190; let part : Option Nat := none; let inst : Option Nat := none; let txid := 5; let addr := 0x8000000000; let width := 8; let wdata : Option Nat := none; let t := 0; let b : Block := (Block.alone ((base.put PCI_SSTAT_STATE 2 0))).start; let k : Nat := b.obSub addr; let off : Nat := addr - b.obBase k; let rid : Nat := b.requesterId k inst; let ecam : Bool := b.isSet PCI_SCTL_ECAMEN k && !b.isEp k && decide (off < 2 ^ 28); (b.dev ≠ .off) ∧ (b.decodePa addr = .pcie) ∧ ((wdata.isSome && (match part with | some p => decide (2 ≤ b.pMode p) | none => false)) = false) ∧ (¬ (b.subCount ≤ k ∨ b.subSt k = 3 ∨ (b.fn rid).d3 = true)) ∧ (¬ (ecam = true ∧ (4 < width ∨ width = 0 ∨ 4 < off % 4 + width))) ∧ (¬ (ecam = true ∧ bits off 20 27 = 0)) ∧ (¬ (ecam = false ∧ wdata.isSome = true ∧ part.isSome = true ∧ b.outputsOn = false)) ∧ (b.subSt k = 2) ∧ (ecam = false) ∧ (wdata = none) ∧ (b.freeTag k = some t)) := by decide +kernel

theorem witness_PcieOutbound_9 :
    (let mid := 0x190; let part : Option Nat := none; let inst : Option Nat := none; let txid := 5; let addr := 0x8000100000; let width := 4; let wdata : Option Nat := none; let t := 0; let b : Block := (Block.alone ((base.put PCI_SSTAT_STATE 2 0).put PCI_SCTL_ECAMEN 1 0)).start; let k : Nat := b.obSub addr; let off : Nat := addr - b.obBase k; let rid : Nat := b.requesterId k inst; let ecam : Bool := b.isSet PCI_SCTL_ECAMEN k && !b.isEp k && decide (off < 2 ^ 28); (b.dev ≠ .off) ∧ (b.decodePa addr = .pcie) ∧ ((wdata.isSome && (match part with | some p => decide (2 ≤ b.pMode p) | none => false)) = false) ∧ (¬ (b.subCount ≤ k ∨ b.subSt k = 3 ∨ (b.fn rid).d3 = true)) ∧ (¬ (ecam = true ∧ (4 < width ∨ width = 0 ∨ 4 < off % 4 + width))) ∧ (¬ (ecam = true ∧ bits off 20 27 = 0)) ∧ (¬ (ecam = false ∧ wdata.isSome = true ∧ part.isSome = true ∧ b.outputsOn = false)) ∧ (b.subSt k = 2) ∧ (ecam = true) ∧ (b.freeTag k = some t)) := by decide +kernel

theorem witness_PcieOutbound_10 :
    (let sub := 0; let tag := 5; let status := 0; let data : Bytes := []; let poison := false; let fits := false; let final := true; let b : Block := (Block.alone (((base.put PCI_SSTAT_STATE 2 0).modPci fun p => { p with tags := [{ sub := 0, tag := 5, mid := 3, txid := 9, addr := 0x8000000000, width := 4 }] }))).start; (b.dev ≠ .off) ∧ (sub < b.subCount) ∧ (b.subSt sub = 2) ∧ ((b.tagOf sub tag = none ∨ fits = false))) := by decide +kernel

theorem witness_PcieOutbound_11 :
    (let sub := 0; let tag := 5; let status := 0; let data : Bytes := []; let poison := false; let fits := true; let final := true; let t : PciTag := { sub := 0, tag := 5, mid := 3, txid := 9, addr := 0x8000000000, width := 4, late := true }; let b : Block := (Block.alone (((base.put PCI_SSTAT_STATE 2 0).modPci fun p => { p with tags := [{ sub := 0, tag := 5, mid := 3, txid := 9, addr := 0x8000000000, width := 4, late := true }] }))).start; (b.dev ≠ .off) ∧ (sub < b.subCount) ∧ (b.subSt sub = 2) ∧ (fits = true) ∧ (b.tagOf sub tag = some t) ∧ (t.late = true)) := by decide +kernel

theorem witness_PcieOutbound_12 :
    (let sub := 0; let tag := 5; let status := 2; let data : Bytes := []; let poison := false; let fits := true; let final := true; let t : PciTag := { sub := 0, tag := 5, mid := 3, txid := 9, addr := 0x8000000000, width := 4, cfg := true, vendorId := true }; let b : Block := (Block.alone (((base.put PCI_SSTAT_STATE 2 0).modPci fun p => { p with tags := [{ sub := 0, tag := 5, mid := 3, txid := 9, addr := 0x8000000000, width := 4, cfg := true, vendorId := true }] }))).start; let c : Block := b.when poison fun b => (b.aerSet sub aerPoison).note (pciFault 0x2A0C sub); let got : Bytes := t.got ++ data; (b.dev ≠ .off) ∧ (sub < b.subCount) ∧ (b.subSt sub = 2) ∧ (fits = true) ∧ (b.tagOf sub tag = some t) ∧ (t.late = false) ∧ (status = 2)) := by decide +kernel

theorem witness_PcieOutbound_13 :
    (let sub := 0; let tag := 5; let status := 1; let data : Bytes := []; let poison := true; let fits := true; let final := false; let t : PciTag := { sub := 0, tag := 5, mid := 3, txid := 9, addr := 0x8000000000, width := 4 }; let b : Block := (Block.alone (((base.put PCI_SSTAT_STATE 2 0).modPci fun p => { p with tags := [{ sub := 0, tag := 5, mid := 3, txid := 9, addr := 0x8000000000, width := 4 }] }))).start; let c : Block := b.when poison fun b => (b.aerSet sub aerPoison).note (pciFault 0x2A0C sub); let got : Bytes := t.got ++ data; (b.dev ≠ .off) ∧ (sub < b.subCount) ∧ (b.subSt sub = 2) ∧ (fits = true) ∧ (b.tagOf sub tag = some t) ∧ (t.late = false) ∧ (status ≠ 2) ∧ (status ≠ 0)) := by decide +kernel

theorem witness_PcieOutbound_14 :
    (let sub := 0; let tag := 5; let status := 0; let data : Bytes := [2]; let poison := false; let fits := true; let final := false; let t : PciTag := { sub := 0, tag := 5, mid := 3, txid := 9, addr := 0x8000000000, width := 4, got := [1] }; let b : Block := (Block.alone (((base.put PCI_SSTAT_STATE 2 0).modPci fun p => { p with tags := [{ sub := 0, tag := 5, mid := 3, txid := 9, addr := 0x8000000000, width := 4, got := [1] }] }))).start; let c : Block := b.when poison fun b => (b.aerSet sub aerPoison).note (pciFault 0x2A0C sub); let got : Bytes := t.got ++ data; (b.dev ≠ .off) ∧ (sub < b.subCount) ∧ (b.subSt sub = 2) ∧ (fits = true) ∧ (b.tagOf sub tag = some t) ∧ (t.late = false) ∧ (status = 0) ∧ (final = false)) := by decide +kernel

theorem witness_PcieOutbound_15 :
    (let sub := 0; let tag := 5; let status := 0; let data : Bytes := [2, 3, 4]; let poison := true; let fits := true; let final := true; let t : PciTag := { sub := 0, tag := 5, mid := 3, txid := 9, addr := 0x8000000000, width := 4, got := [1] }; let b : Block := (Block.alone (((base.put PCI_SSTAT_STATE 2 0).modPci fun p => { p with tags := [{ sub := 0, tag := 5, mid := 3, txid := 9, addr := 0x8000000000, width := 4, got := [1] }] }))).start; let c : Block := b.when poison fun b => (b.aerSet sub aerPoison).note (pciFault 0x2A0C sub); let got : Bytes := t.got ++ data; (b.dev ≠ .off) ∧ (sub < b.subCount) ∧ (b.subSt sub = 2) ∧ (fits = true) ∧ (b.tagOf sub tag = some t) ∧ (t.late = false) ∧ (status = 0) ∧ (final = true) ∧ (poison = true)) := by decide +kernel

theorem witness_PcieOutbound_16 :
    (let sub := 0; let tag := 5; let status := 0; let data : Bytes := [2, 3, 4]; let poison := false; let fits := true; let final := true; let t : PciTag := { sub := 0, tag := 5, mid := 3, txid := 9, addr := 0x8000000000, width := 4, got := [1] }; let b : Block := (Block.alone (((base.put PCI_SSTAT_STATE 2 0).modPci fun p => { p with tags := [{ sub := 0, tag := 5, mid := 3, txid := 9, addr := 0x8000000000, width := 4, got := [1] }] }))).start; let c : Block := b.when poison fun b => (b.aerSet sub aerPoison).note (pciFault 0x2A0C sub); let got : Bytes := t.got ++ data; (b.dev ≠ .off) ∧ (sub < b.subCount) ∧ (b.subSt sub = 2) ∧ (fits = true) ∧ (b.tagOf sub tag = some t) ∧ (t.late = false) ∧ (status = 0) ∧ (final = true) ∧ (poison = false)) := by decide +kernel

theorem witness_PcieOutbound_17 :
    (let sub := 0; let tag := 5; let t : PciTag := { sub := 0, tag := 5, mid := 3, txid := 9, addr := 0x8000000000, width := 4 }; let b : Block := (Block.alone (((base.put PCI_SSTAT_STATE 2 0).modPci fun p => { p with tags := [{ sub := 0, tag := 5, mid := 3, txid := 9, addr := 0x8000000000, width := 4 }] }))).start; (b.dev ≠ .off) ∧ (b.tagOf sub tag = some t) ∧ (t.late = false)) := by decide +kernel

theorem witness_PcieOutbound_18 :
    (let mid := 0x190; let part : Option Nat := none; let inst : Option Nat := none; let txid := 5; let addr := 0; let width := 8; let wdata : Option Nat := none; let b : Block := (Block.alone (base)).start; (b.dev ≠ .off) ∧ (b.decodePa addr ≠ .pcie))
    ∧ (let sub := 0; let tag := 5; let status := 0; let data : Bytes := []; let poison := false; let fits := true; let final := true; let b : Block := (Block.alone (base)).start; ((b.subCount ≤ sub ∨ b.subSt sub ≠ 2)))
    ∧ (let sub := 0; let tag := 5; let b : Block := (Block.alone (((base.put PCI_SSTAT_STATE 2 0).modPci fun p => { p with tags := [{ sub := 0, tag := 5, mid := 3, txid := 9, addr := 0x8000000000, width := 4, late := true }] }))).start; ((match b.tagOf sub tag with | some t => t.late | none => true) = true))
    ∧ (let sub := 0; let tag := 5; let b : Block := (Block.alone (((base.put PCI_SSTAT_STATE 2 0).modPci fun p => { p with tags := [{ sub := 0, tag := 5, mid := 3, txid := 9, addr := 0x8000000000, width := 4, late := true }] }))).start; (b.dev ≠ .off) ∧ ((match b.tagOf sub tag with | some t => t.late | none => false) = true))
    ∧ (let sub := 0; let tag := 5; let b : Block := (Block.alone (((base.put PCI_SSTAT_STATE 2 0).modPci fun p => { p with tags := [{ sub := 0, tag := 5, mid := 3, txid := 9, addr := 0x8000000000, width := 4 }] }))).start; ((match b.tagOf sub tag with | some t => t.late | none => false) = false))
    ∧ (let mid := 0x190; let part : Option Nat := none; let b : Block := (Block.alone (base.put PCI_IWSTAT_DONE 1)).start; (b.dev ≠ .off) ∧ (b.isManager mid part true = true) ∧ (b.isSet PCI_IWSTAT_BUSY = false)) := by decide +kernel

theorem witness_PcieOutbound_19 :
    (let mid := 0x190; let part : Option Nat := none; let b : Block := (Block.alone (base.put PCI_IWSTAT_BUSY 1)).start; (b.dev ≠ .off) ∧ (b.isManager mid part true = true) ∧ (b.isSet PCI_IWSTAT_BUSY = true))
    ∧ (let mid := 0; let part : Option Nat := none; let b : Block := (Block.alone (base)).start; (b.dev ≠ .off) ∧ (b.isManager mid part true = false))
    ∧ (let b : Block := (Block.alone (base)).start; (b.isSet PCI_IWSTAT_BUSY = false))
    ∧ (let b : Block := (Block.alone ((base.put PCI_IWSTAT_BUSY 1).setR .PCI_IWS0 1 0)).start; let e : Nat := b.iwCheck b.stagedWindows; let c : Block := (b.put PCI_IWSTAT_BUSY 0).put PCI_IWSTAT_ERRCODE e; (b.dev ≠ .off) ∧ (b.isSet PCI_IWSTAT_BUSY = true) ∧ (e ≠ 0))
    ∧ (let pending := 3; let b : Block := (Block.alone (base.put PCI_IWSTAT_BUSY 1)).start; let e : Nat := b.iwCheck b.stagedWindows; let c : Block := (b.put PCI_IWSTAT_BUSY 0).put PCI_IWSTAT_ERRCODE e; (b.dev ≠ .off) ∧ (b.isSet PCI_IWSTAT_BUSY = true) ∧ (e = 0))
    ∧ (let vec := 16; let b : Block := (Block.alone (base)).start; (b.dev ≠ .off) ∧ (16 ≤ vec) ∧ (vec < 2048)) := by decide +kernel

theorem witness_PcieOutbound_20 :
    (let vec := 2048; let b : Block := (Block.alone (base)).start; ((vec < 16 ∨ 2048 ≤ vec))) := by decide +kernel

theorem witness_PcieOutbound_s1 :
    (let mid := 0x190; let part : Option Nat := none; let inst : Option Nat := none; let txid := 5; let addr := 0x8000100000; let width := 4; let wdata : Option Nat := none; let b : Block := (Block.alone (((base.put PCI_SSTAT_STATE 2 0).put PCI_SCTL_ECAMEN 1 0).modPci fun p => { p with tags := (List.range 1024).map fun i => { sub := 0, tag := i, mid := 3, txid := i, addr := 0x8000000000, width := 4 } })).start; let k : Nat := b.obSub addr; let off : Nat := addr - b.obBase k; let rid : Nat := b.requesterId k inst; let ecam : Bool := b.isSet PCI_SCTL_ECAMEN k && !b.isEp k && decide (off < 2 ^ 28); (b.dev ≠ .off) ∧ (b.decodePa addr = .pcie) ∧ ((wdata.isSome && (match part with | some p => decide (2 ≤ b.pMode p) | none => false)) = false) ∧ (¬ (b.subCount ≤ k ∨ b.subSt k = 3 ∨ (b.fn rid).d3 = true)) ∧ (¬ (ecam = true ∧ (4 < width ∨ width = 0 ∨ 4 < off % 4 + width))) ∧ (¬ (ecam = true ∧ bits off 20 27 = 0)) ∧ (¬ (ecam = false ∧ wdata.isSome = true ∧ part.isSome = true ∧ b.outputsOn = false)) ∧ (b.subSt k = 2) ∧ ((ecam = true ∨ wdata = none)) ∧ (b.freeTag k = none)) := ⟨by decide +kernel, by decide +kernel, by decide +kernel, by decide +kernel, by decide +kernel, by decide +kernel, by decide +kernel, by decide +kernel, by decide +kernel, freeTag_full _ _ (by decide +kernel)⟩

theorem witness_GovernorRows :
    (let b : Block := (Block.alone (base)).start; let c : Block := (b.assertFout |>.put GOV_STATUS_LOCKOK 0 |>.put GOV_STICKY_CODE 0x5001 |>.put GOV_STICKY_VALID 1).forN 6 (fun k b => b.put LVP_STATUS_LOCALHOLD 1 k |>.put LVP_STATUS_BSTAT 1 k); (b.dev ≠ .off) ∧ (b.govHalted = false))
    ∧ (let b : Block := (Block.alone ({ base with govHalted := true })).start; (b.govHalted = true))
    ∧ (let b : Block := (Block.alone ({ base with govHalted := true })).start; (b.govHalted = true))
    ∧ (let correctable := true; let b : Block := (Block.alone (base)).start; (b.dev ≠ .off) ∧ (b.govHalted = false) ∧ (correctable = true))
    ∧ (let entry : Option Nat := none; let correctable := false; let b : Block := (Block.alone (base)).start; (b.dev ≠ .off) ∧ (b.govHalted = false) ∧ (correctable = false) ∧ (entry = none))
    ∧ (let correctable := false; let entry : Option Nat := some 1024; let k := 1024; let b : Block := (Block.alone (base.note { code := 0x0004 })).start; (b.dev ≠ .off) ∧ (b.govHalted = false) ∧ (correctable = false) ∧ (entry = some k)) := by decide +kernel

theorem witness_GovernorRows_2 :
    (let b : Block := (Block.alone ({ base with govHalted := true })).start; (b.govHalted = true))
    ∧ (let ok := true; let b : Block := (Block.alone ({ base with gov := { base.gov with probeFail := 2 } }.put GOV_STATUS_MRWEDGE 1)).start; (b.dev ≠ .off) ∧ (b.govHalted = false) ∧ (ok = true))
    ∧ (let ok := false; let b : Block := (Block.alone ({ base with gov := { base.gov with probeFail := 2 } })).start; let c : Block := { b with gov := { b.gov with probeFail := b.gov.probeFail + 1 } }; (b.dev ≠ .off) ∧ (b.govHalted = false) ∧ (ok = false) ∧ ((2 ≤ b.gov.probeFail ∧ c.isSet GOV_STATUS_MRWEDGE = false)))
    ∧ (let ok := false; let b : Block := (Block.alone ({ base with gov := { base.gov with probeFail := 1 } })).start; let c : Block := { b with gov := { b.gov with probeFail := b.gov.probeFail + 1 } }; (b.dev ≠ .off) ∧ (b.govHalted = false) ∧ (ok = false) ∧ (¬ (2 ≤ b.gov.probeFail ∧ c.isSet GOV_STATUS_MRWEDGE = false)))
    ∧ (let b : Block := (Block.alone (base)).start; (b.dev ≠ .off) ∧ (b.govHalted = false))
    ∧ (let b : Block := (Block.alone ({ base with govHalted := true })).start; (b.govHalted = true)) := by decide +kernel

theorem witness_GovernorRows_3 :
    (let mid := 3; let part : Option Nat := none; let set := 1; let recv := 79; let b : Block := (Block.alone (base)).start; let off : Nat := 0 + 0x2000 * (set % 2) + 0x40 * (recv % 128) + 0x38; (b.dev ≠ .off) ∧ (recv % 128 < 80) ∧ ((match agentOf mid part with | some a => !b.restricted a && (decide (set % 2 = 0) || b.secure a) | none => false) = false)) := by decide +kernel

theorem witness_GovernorRows_4 :
    (let mid := 3; let part : Option Nat := some 5; let set := 0; let recv := 80; let b : Block := (Block.alone (base.put BLT_PSTAT_MODE 3 5)).start; let off : Nat := 0 + 0x2000 * (set % 2) + 0x40 * (recv % 128) + 0x38; (b.dev ≠ .off) ∧ (80 ≤ recv % 128) ∧ ((match agentOf mid part with | some a => !b.restricted a | none => false) = false)) := by decide +kernel

theorem witness_GovernorRows_5 :
    (let mid := 0x180; let part : Option Nat := none; let a := 64; let set := 1; let recv := 79; let len := 49; let b : Block := (Block.alone (base)).start; let off : Nat := 0 + 0x2000 * (set % 2) + 0x40 * (recv % 128) + 0x38; let k : Nat := chanKey (set % 2) (recv % 128) a; (b.dev ≠ .off) ∧ (recv % 128 < 80) ∧ (agentOf mid part = some a) ∧ (b.restricted a = false) ∧ ((set % 2 = 0 ∨ b.secure a = true)) ∧ (¬ ((b.chan k).state = 0 ∧ (b.chan k).aborted = false ∧ 1 ≤ len % 64 ∧ len % 64 ≤ 48))) := by decide +kernel

theorem witness_GovernorRows_6 :
    (let mid := 0x180; let part : Option Nat := none; let a := 64; let set := 0; let recv := 5; let len := 48; let b : Block := (Block.alone (base.put BLT_PSTAT_MODE 3 5)).start; let off : Nat := 0 + 0x2000 * (set % 2) + 0x40 * (recv % 128) + 0x38; let k : Nat := chanKey (set % 2) (recv % 128) a; (b.dev ≠ .off) ∧ (recv % 128 < 80) ∧ (agentOf mid part = some a) ∧ (b.restricted a = false) ∧ ((set % 2 = 0 ∨ b.secure a = true)) ∧ (((b.chan k).state = 0 ∧ (b.chan k).aborted = false ∧ 1 ≤ len % 64 ∧ len % 64 ≤ 48)) ∧ (b.turnMode (keyRecv k) = true)) := by decide +kernel

theorem witness_GovernorRows_7 :
    (let mid := 0x180; let part : Option Nat := none; let a := 64; let set := 1; let recv := 72; let len := 1; let b : Block := (Block.alone (base.modChan (chanKey 1 72 64) fun c => { c with seq := 65535 })).start; let off : Nat := 0 + 0x2000 * (set % 2) + 0x40 * (recv % 128) + 0x38; let k : Nat := chanKey (set % 2) (recv % 128) a; (b.dev ≠ .off) ∧ (recv % 128 < 80) ∧ (agentOf mid part = some a) ∧ (b.restricted a = false) ∧ ((set % 2 = 0 ∨ b.secure a = true)) ∧ (((b.chan k).state = 0 ∧ (b.chan k).aborted = false ∧ 1 ≤ len % 64 ∧ len % 64 ≤ 48)) ∧ (b.turnMode (keyRecv k) = false)) := by decide +kernel

theorem witness_GovernorRows_8 :
    (let mid := 3; let part : Option Nat := none; let set := 1; let send := 79; let b : Block := (Block.alone (base)).start; let off : Nat := 0x10000 + 0x2000 * (set % 2) + 0x40 * (send % 128) + 0x38; (b.dev ≠ .off) ∧ (send % 128 < 80) ∧ ((match agentOf mid part with | some a => !b.restricted a && (decide (set % 2 = 0) || b.secure a) | none => false) = false)) := by decide +kernel

theorem witness_GovernorRows_9 :
    (let mid := 3; let part : Option Nat := some 5; let set := 0; let send := 80; let b : Block := (Block.alone (base.put BLT_PSTAT_MODE 3 5)).start; let off : Nat := 0x10000 + 0x2000 * (set % 2) + 0x40 * (send % 128) + 0x38; (b.dev ≠ .off) ∧ (80 ≤ send % 128) ∧ ((match agentOf mid part with | some a => !b.restricted a | none => false) = false)) := by decide +kernel

theorem witness_GovernorRows_10 :
    (let mid := 0x180; let part : Option Nat := none; let a := 64; let set := 1; let send := 79; let b : Block := (Block.alone (base.modChan (chanKey 1 64 79) fun c => { c with state := 1, len := 3, sreset := true, msg := [1, 2, 3] ++ List.replicate 45 0 })).start; let off : Nat := 0x10000 + 0x2000 * (set % 2) + 0x40 * (send % 128) + 0x38; let k : Nat := chanKey (set % 2) a (send % 128); let c : Block := b.modChan k fun c => { c with state := 0, len := 0, sreset := false, msg := List.replicate 48 0 }; (b.dev ≠ .off) ∧ (send % 128 < 80) ∧ (agentOf mid part = some a) ∧ (b.restricted a = false) ∧ ((set % 2 = 0 ∨ b.secure a = true)) ∧ ((b.chan k).state = 1)) := by decide +kernel

theorem witness_GovernorRows_11 :
    (let mid := 0x180; let part : Option Nat := none; let a := 64; let set := 0; let send := 0; let b : Block := (Block.alone (base)).start; let off : Nat := 0x10000 + 0x2000 * (set % 2) + 0x40 * (send % 128) + 0x38; let k : Nat := chanKey (set % 2) a (send % 128); (b.dev ≠ .off) ∧ (send % 128 < 80) ∧ (agentOf mid part = some a) ∧ (b.restricted a = false) ∧ ((set % 2 = 0 ∨ b.secure a = true)) ∧ ((b.chan k).state ≠ 1)) := by decide +kernel

theorem witness_GovernorRows_12 :
    (let mid := 3; let part : Option Nat := none; let set := 1; let recv := 79; let b : Block := (Block.alone (base)).start; let off : Nat := 0 + 0x2000 * (set % 2) + 0x40 * (recv % 128) + 0x38; (b.dev ≠ .off) ∧ (recv % 128 < 80) ∧ ((match agentOf mid part with | some a => !b.restricted a && (decide (set % 2 = 0) || b.secure a) | none => false) = false)) := by decide +kernel

theorem witness_GovernorRows_13 :
    (let mid := 3; let part : Option Nat := some 5; let set := 0; let recv := 80; let b : Block := (Block.alone (base.put BLT_PSTAT_MODE 3 5)).start; let off : Nat := 0 + 0x2000 * (set % 2) + 0x40 * (recv % 128) + 0x38; (b.dev ≠ .off) ∧ (80 ≤ recv % 128) ∧ ((match agentOf mid part with | some a => !b.restricted a | none => false) = false)) := by decide +kernel

theorem witness_GovernorRows_14 :
    (let mid := 0x180; let part : Option Nat := none; let a := 64; let set := 0; let recv := 79; let b : Block := (Block.alone (base.modChan (chanKey 0 79 64) fun c => { c with aborted := true })).start; let off : Nat := 0 + 0x2000 * (set % 2) + 0x40 * (recv % 128) + 0x38; let k : Nat := chanKey (set % 2) (recv % 128) a; (b.dev ≠ .off) ∧ (recv % 128 < 80) ∧ (agentOf mid part = some a) ∧ (b.restricted a = false) ∧ ((set % 2 = 0 ∨ b.secure a = true)) ∧ (((b.chan k).state = 0 ∧ (b.chan k).aborted = true))) := by decide +kernel

theorem witness_GovernorRows_15 :
    (let mid := 0x180; let part : Option Nat := none; let a := 64; let set := 1; let recv := 79; let b : Block := (Block.alone (base)).start; let off : Nat := 0 + 0x2000 * (set % 2) + 0x40 * (recv % 128) + 0x38; let k : Nat := chanKey (set % 2) (recv % 128) a; (b.dev ≠ .off) ∧ (recv % 128 < 80) ∧ (agentOf mid part = some a) ∧ (b.restricted a = false) ∧ ((set % 2 = 0 ∨ b.secure a = true)) ∧ (¬ ((b.chan k).state = 0 ∧ (b.chan k).aborted = true))) := by decide +kernel

theorem witness_GovernorRows_16 :
    (let mid := 0x180; let part : Option Nat := none; let k := 3; let m := 0x180; let b : Block := (Block.alone ({ base with mbx := { base.mbx with locks := [(3, 0x181)] } })).start; let off : Nat := 0x30000 + 4 * (k % 256); (b.dev ≠ .off) ∧ ((match agentOf mid part with | some a => !b.restricted a | none => decide (mid = midDebug)) = true) ∧ (b.lockHolder (k % 256) = some m)) := by decide +kernel

theorem witness_GovernorRows_17 :
    (let mid := 0x187; let part : Option Nat := none; let set := 1; let recv := 127; let b : Block := (Block.alone (base)).start; let off : Nat := 0 + 0x2000 * (set % 2) + 0x40 * (recv % 128) + 0x38; (b.dev ≠ .off) ∧ (80 ≤ recv % 128) ∧ ((match agentOf mid part with | some a => !b.restricted a | none => false) = true))
    ∧ (let mid := 0x187; let part : Option Nat := none; let set := 1; let send := 127; let b : Block := (Block.alone (base)).start; let off : Nat := 0x10000 + 0x2000 * (set % 2) + 0x40 * (send % 128) + 0x38; (b.dev ≠ .off) ∧ (80 ≤ send % 128) ∧ ((match agentOf mid part with | some a => !b.restricted a | none => false) = true))
    ∧ (let mid := 0x187; let part : Option Nat := none; let set := 1; let recv := 127; let b : Block := (Block.alone (base)).start; let off : Nat := 0 + 0x2000 * (set % 2) + 0x40 * (recv % 128) + 0x38; (b.dev ≠ .off) ∧ (80 ≤ recv % 128) ∧ ((match agentOf mid part with | some a => !b.restricted a | none => false) = true))
    ∧ (let mid := 3; let part : Option Nat := some 5; let k := 3; let b : Block := (Block.alone (base.put BLT_PSTAT_MODE 3 5)).start; let off : Nat := 0x30000 + 4 * (k % 256); (b.dev ≠ .off) ∧ ((match agentOf mid part with | some a => !b.restricted a | none => decide (mid = midDebug)) = false))
    ∧ (let mid := midDebug; let part : Option Nat := none; let k := 255; let b : Block := (Block.alone (base)).start; let off : Nat := 0x30000 + 4 * (k % 256); (b.dev ≠ .off) ∧ ((match agentOf mid part with | some a => !b.restricted a | none => decide (mid = midDebug)) = true) ∧ (b.lockHolder (k % 256) = none))
    ∧ (let mid := 3; let part : Option Nat := some 5; let k := 3; let b : Block := (Block.alone (base.put BLT_PSTAT_MODE 3 5)).start; let off : Nat := 0x30000 + 4 * (k % 256); (b.dev ≠ .off) ∧ ((match agentOf mid part with | some a => !b.restricted a | none => decide (mid = midDebug)) = false)) := by decide +kernel

theorem witness_GovernorRows_18 :
    (let mid := 0x180; let part : Option Nat := none; let k := 3; let value := 0; let b : Block := (Block.alone ({ base with mbx := { base.mbx with locks := [(3, 0x181)] } })).start; let off : Nat := 0x30000 + 4 * (k % 256); (b.dev ≠ .off) ∧ ((match agentOf mid part with | some a => !b.restricted a | none => decide (mid = midDebug)) = true) ∧ (b.lockHolder (k % 256) = some mid) ∧ (value = 0)) := by decide +kernel

theorem witness_GovernorRows_19 :
    (let mid := 0x180; let part : Option Nat := none; let k := 3; let value := 1; let b : Block := (Block.alone ({ base with mbx := { base.mbx with locks := [(3, 0x181)] } })).start; let off : Nat := 0x30000 + 4 * (k % 256); ((match agentOf mid part with | some a => !b.restricted a | none => decide (mid = midDebug)) = true) ∧ (b.lockHolder (k % 256) = some mid) ∧ (value ≠ 0)) := by decide +kernel

theorem witness_GovernorRows_20 :
    (let mid := 0x180; let part : Option Nat := none; let k := 255; let b : Block := (Block.alone (base)).start; let off : Nat := 0x30000 + 4 * (k % 256); (b.dev ≠ .off) ∧ ((match agentOf mid part with | some a => !b.restricted a | none => decide (mid = midDebug)) = true) ∧ (b.lockHolder (k % 256) ≠ some mid))
    ∧ (let mid := midDebug; let part : Option Nat := none; let k := 0; let value := 1; let b : Block := (Block.alone (base)).start; let off : Nat := 0x30800 + 4 * (k % 256); (b.dev ≠ .off) ∧ ((match agentOf mid part with | some a => !b.restricted a | none => false) = false))
    ∧ (let mid := 0x180; let part : Option Nat := none; let k := 255; let value := 1; let b : Block := (Block.alone (base)).start; let off : Nat := 0x30800 + 4 * (k % 256); (b.dev ≠ .off) ∧ ((match agentOf mid part with | some a => !b.restricted a | none => false) = true) ∧ (mid ≠ midGov))
    ∧ (let mid := midGov; let part : Option Nat := none; let k := 3; let value := 1; let b : Block := (Block.alone ({ base with mbx := { base.mbx with locks := [(3, 0x181)] } })).start; let off : Nat := 0x30800 + 4 * (k % 256); (b.dev ≠ .off) ∧ (mid = midGov) ∧ ((value % 2 = 1 ∧ (b.lockHolder (k % 256)).isSome = true)))
    ∧ (let mid := midGov; let part : Option Nat := none; let k := 4; let value := 1; let b : Block := (Block.alone ({ base with mbx := { base.mbx with locks := [(3, 0x181)] } })).start; let off : Nat := 0x30800 + 4 * (k % 256); (mid = midGov) ∧ (¬ (value % 2 = 1 ∧ (b.lockHolder (k % 256)).isSome = true))) := by decide +kernel

theorem witness_DictionaryRows :
    (let b : Block := (Block.alone ({ ({ base with dev := .run } : Block).put PCI_CFG_EP 1 with govHalted := true })).start; let buf : Bytes := SMap.getRun (0 : Byte) 0 20 b.pci.dwReq; let msg : Bytes := SMap.getRun (0 : Byte) 0 (20 + (if leAt 0 1 buf = 2 then min (leAt 12 4 buf) 65516 else 0)) b.pci.dwReq; let c : Block := b.modPci fun p => { p with dwBusy := true, dwDone := false }; let q : Option (Bytes × Nat × Bytes) × Block := c.dictMsg { path := 4, src := 0 } 65516 msg false; (b.dev ≠ .off) ∧ (b.isSet PCI_CFG_EP = true) ∧ (b.pci.dwBusy = false) ∧ (q.1 = none)) := by decide +kernel

theorem witness_DictionaryRows_2 :
    (let m : Bytes := respMsg (List.replicate 20 0) false 0x05040001 []; let a := 0x05040001; let x : Bytes := []; let b : Block := (Block.alone (({ base with dev := .run } : Block).put PCI_CFG_EP 1)).start; let buf : Bytes := SMap.getRun (0 : Byte) 0 20 b.pci.dwReq; let msg : Bytes := SMap.getRun (0 : Byte) 0 (20 + (if leAt 0 1 buf = 2 then min (leAt 12 4 buf) 65516 else 0)) b.pci.dwReq; let c : Block := b.modPci fun p => { p with dwBusy := true, dwDone := false }; let q : Option (Bytes × Nat × Bytes) × Block := c.dictMsg { path := 4, src := 0 } 65516 msg false; (b.dev ≠ .off) ∧ (b.isSet PCI_CFG_EP = true) ∧ (b.pci.dwBusy = false) ∧ (q.1 = some (m, a, x))) := by decide +kernel

theorem witness_DictionaryRows_3 :
    (let via : DictPath := { path := 5, src := 64, set := 1 }; let msg : Bytes := []; let stalled := false; let b : Block := (Block.alone (base)).start; let k : Nat := chanKey via.set 72 via.src; let m0 : Bytes := if via.path = 5 then (b.chan k).msg.take (b.chan k).len else msg; let c : Block := if via.path = 5 then b.ack k else b; let q : Option (Bytes × Nat × Bytes) × Block := c.dictMsg via (pathCap via.path) m0 stalled; ((via.path = 5 ∧ ((b.chan k).state ≠ 1 ∨ b.govHalted = true)))) := by decide +kernel

theorem witness_DictionaryRows_4 :
    (let via : DictPath := { path := 1, src := 0 }; let msg : Bytes := []; let stalled := false; let b : Block := (Block.alone ({ base with govHalted := true })).start; let k : Nat := chanKey via.set 72 via.src; let m0 : Bytes := if via.path = 5 then (b.chan k).msg.take (b.chan k).len else msg; let c : Block := if via.path = 5 then b.ack k else b; let q : Option (Bytes × Nat × Bytes) × Block := c.dictMsg via (pathCap via.path) m0 stalled; (b.dev ≠ .off) ∧ (¬ (via.path = 5 ∧ ((b.chan k).state ≠ 1 ∨ b.govHalted = true))) ∧ (q.1 = none)) := by decide +kernel

theorem witness_DictionaryRows_5 :
    (let via : DictPath := { path := 5, src := 64, set := 1 }; let msg : Bytes := []; let stalled := false; let m : Bytes := [0x80] ++ List.replicate 15 0 ++ leBytes 4 0x06070010; let a := 0x06070010; let x : Bytes := []; let b : Block := (Block.alone (runBase.modChan (chanKey 1 72 64) fun c => { c with state := 1, len := 3, msg := [1, 2, 3] ++ List.replicate 45 0 })).start; let k : Nat := chanKey via.set 72 via.src; let m0 : Bytes := if via.path = 5 then (b.chan k).msg.take (b.chan k).len else msg; let c : Block := if via.path = 5 then b.ack k else b; let q : Option (Bytes × Nat × Bytes) × Block := c.dictMsg via (pathCap via.path) m0 stalled; (b.dev ≠ .off) ∧ (¬ (via.path = 5 ∧ ((b.chan k).state ≠ 1 ∨ b.govHalted = true))) ∧ (q.1 = some (m, a, x))) := by decide +kernel

theorem witness_DictionaryRows_6 :
    (let via : DictPath := { path := 1, src := 0 }; let msg : Bytes := [1] ++ List.replicate 19 0; let stalled := false; let m : Bytes := respMsg msg false 0x06020000 []; let a := 0x06020000; let x : Bytes := []; let b : Block := (Block.alone (runBase)).start; let k : Nat := chanKey via.set 72 via.src; let m0 : Bytes := if via.path = 5 then (b.chan k).msg.take (b.chan k).len else msg; let c : Block := if via.path = 5 then b.ack k else b; let q : Option (Bytes × Nat × Bytes) × Block := c.dictMsg via (pathCap via.path) m0 stalled; (b.dev ≠ .off) ∧ (¬ (via.path = 5 ∧ ((b.chan k).state ≠ 1 ∨ b.govHalted = true))) ∧ (q.1 = some (m, a, x))) := by decide +kernel

theorem witness_DictionaryRows_7 :
    (let via : DictPath := { path := 5, src := 64, set := 1 }; let msg : Bytes := []; let b : Block := (Block.alone (base)).start; let k : Nat := chanKey via.set 72 via.src; let m0 : Bytes := if via.path = 5 then (b.chan k).msg.take (b.chan k).len else msg; let c : Block := if via.path = 5 then b.ack k else b; let q : Option (Bytes × Nat × Bytes) × Block := c.dictMsg via (pathCap via.path) m0 false; ((via.path = 5 ∧ ((b.chan k).state ≠ 1 ∨ b.govHalted = true)))) := by decide +kernel

theorem witness_DictionaryRows_8 :
    (let via : DictPath := { path := 1, src := 0 }; let msg : Bytes := []; let b : Block := (Block.alone ({ base with govHalted := true })).start; let k : Nat := chanKey via.set 72 via.src; let m0 : Bytes := if via.path = 5 then (b.chan k).msg.take (b.chan k).len else msg; let c : Block := if via.path = 5 then b.ack k else b; let q : Option (Bytes × Nat × Bytes) × Block := c.dictMsg via (pathCap via.path) m0 false; (b.dev ≠ .off) ∧ (¬ (via.path = 5 ∧ ((b.chan k).state ≠ 1 ∨ b.govHalted = true))) ∧ (q.1 = none)) := by decide +kernel

theorem witness_DictionaryRows_9 :
    (let via : DictPath := { path := 5, src := 64, set := 1 }; let msg : Bytes := []; let m : Bytes := [0x80] ++ List.replicate 15 0 ++ leBytes 4 0x06070010; let a := 0x06070010; let x : Bytes := []; let b : Block := (Block.alone (runBase.modChan (chanKey 1 72 64) fun c => { c with state := 1, len := 3, msg := [1, 2, 3] ++ List.replicate 45 0 })).start; let k : Nat := chanKey via.set 72 via.src; let m0 : Bytes := if via.path = 5 then (b.chan k).msg.take (b.chan k).len else msg; let c : Block := if via.path = 5 then b.ack k else b; let q : Option (Bytes × Nat × Bytes) × Block := c.dictMsg via (pathCap via.path) m0 false; (b.dev ≠ .off) ∧ (¬ (via.path = 5 ∧ ((b.chan k).state ≠ 1 ∨ b.govHalted = true))) ∧ (q.1 = some (m, a, x))) := by decide +kernel

theorem witness_DictionaryRows_10 :
    (let via : DictPath := { path := 1, src := 0 }; let msg : Bytes := [2] ++ List.replicate 19 0; let m : Bytes := respMsg msg false 0x06020000 []; let a := 0x06020000; let x : Bytes := []; let b : Block := (Block.alone (runBase)).start; let k : Nat := chanKey via.set 72 via.src; let m0 : Bytes := if via.path = 5 then (b.chan k).msg.take (b.chan k).len else msg; let c : Block := if via.path = 5 then b.ack k else b; let q : Option (Bytes × Nat × Bytes) × Block := c.dictMsg via (pathCap via.path) m0 false; (b.dev ≠ .off) ∧ (¬ (via.path = 5 ∧ ((b.chan k).state ≠ 1 ∨ b.govHalted = true))) ∧ (q.1 = some (m, a, x))) := by decide +kernel

theorem witness_DictionaryRows_11 :
    (let port := 1; let client := 0; let idx := 0x1000; let sub := 0; let stalled := false; let b : Block := (Block.alone ({ ({ runBase with active := { recs := [(objKey 0x1030 5, [3])] } } : Block) with govHalted := true })).start; let v : DictPath := { path := port + 1, src := client }; (b.portOn port = true) ∧ (b.granted v idx sub false = .silent)) := by decide +kernel

theorem witness_DictionaryRows_12 :
    (let port := 1; let client := 0; let idx := 0x1000; let sub := 0; let stalled := false; let b : Block := (Block.alone (({ runBase with active := { recs := [(objKey 0x1030 5, [3])] } } : Block))).start; let v : DictPath := { path := port + 1, src := client }; let r : (Nat × Bytes) × Block := b.objRead v idx sub stalled; (b.dev ≠ .off) ∧ (b.portOn port = true) ∧ (b.granted v idx sub false = .allowed)) := by decide +kernel

theorem witness_DictionaryRows_13 :
    (let port := 0; let client := 0; let idx := 0x1017; let sub := 0; let off := 0; let last := true; let x : Bytes := [1, 0]; let b : Block := (Block.alone ({ ({ runBase with active := { recs := [(objKey 0x1030 5, [3])] } } : Block) with govHalted := true })).start; let v : DictPath := { path := port + 1, src := client }; (b.portOn port = true) ∧ (b.granted v idx sub true = .silent)) := by decide +kernel

theorem witness_DictionaryRows_14 :
    (let port := 0; let client := 0; let idx := 0x8030; let sub := 0; let off := 0; let last := true; let x : Bytes := [1, 0]; let b : Block := (Block.alone ({ ({ runBase with active := { recs := [(objKey 0x1030 5, [3])] } } : Block) with otp := { base.otp with slots := [(7, { digest := 5, programmed := true })] } })).start; let v : DictPath := { path := port + 1, src := client }; (b.dev ≠ .off) ∧ (b.portOn port = true) ∧ (b.granted v idx sub true = .refused)) := by decide +kernel

theorem witness_DictionaryRows_15 :
    (let port := 0; let client := 0; let idx := 0x1017; let sub := 0; let off := 0; let last := false; let x : Bytes := [1, 0]; let b : Block := (Block.alone ({ ({ runBase with active := { recs := [(objKey 0x1030 5, [3])] } } : Block) with dict := { base.dict with usdo := (List.range 8).map fun i => (0, i + 1) } })).start; let v : DictPath := { path := port + 1, src := client }; (b.dev ≠ .off) ∧ (b.portOn port = true) ∧ (b.granted v idx sub true = .allowed) ∧ ((b.dict.usdo.contains (port, client) = false ∧ last = false ∧ 8 ≤ (b.dict.usdo.filter fun e => e.1 = port).length))) := by decide +kernel

theorem witness_DictionaryRows_16 :
    (let port := 0; let client := 0; let idx := 0x1017; let sub := 0; let off := 0; let last := false; let x : Bytes := [1, 0]; let b : Block := (Block.alone (({ runBase with active := { recs := [(objKey 0x1030 5, [3])] } } : Block))).start; let v : DictPath := { path := port + 1, src := client }; let r : Nat × Block := b.segWrite v idx sub off last x; let c : Block := r.2.dropUsdo port client; (b.dev ≠ .off) ∧ (b.portOn port = true) ∧ (b.granted v idx sub true = .allowed) ∧ (¬ (b.dict.usdo.contains (port, client) = false ∧ last = false ∧ 8 ≤ (b.dict.usdo.filter fun e => e.1 = port).length)) ∧ (r.1 = 0) ∧ (last = false)) := by decide +kernel

theorem witness_DictionaryRows_17 :
    (let port := 0; let client := 0; let idx := 0x1017; let sub := 0; let off := 0; let last := true; let x : Bytes := [1, 0]; let b : Block := (Block.alone ({ ({ runBase with active := { recs := [(objKey 0x1030 5, [3])] } } : Block) with dict := { base.dict with usdo := (List.range 8).map fun i => (0, i + 1) } })).start; let v : DictPath := { path := port + 1, src := client }; let r : Nat × Block := b.segWrite v idx sub off last x; let c : Block := r.2.dropUsdo port client; (b.dev ≠ .off) ∧ (b.portOn port = true) ∧ (b.granted v idx sub true = .allowed) ∧ (¬ (b.dict.usdo.contains (port, client) = false ∧ last = false ∧ 8 ≤ (b.dict.usdo.filter fun e => e.1 = port).length)) ∧ ((r.1 ≠ 0 ∨ last = true))) := by decide +kernel

theorem witness_DictionaryRows_18 :
    (let b : Block := (Block.alone (base)).start; (b.isSet PCI_CFG_EP = false))
    ∧ (let b : Block := (Block.alone ((({ base with dev := .run } : Block).put PCI_CFG_EP 1).modPci fun p => { p with dwBusy := true })).start; (b.dev ≠ .off) ∧ (b.isSet PCI_CFG_EP = true) ∧ (b.pci.dwBusy = true))
    ∧ (let port := 2; let req : UsdoReq := .read 0x1000 0; let b : Block := (Block.alone (base)).start; (b.portOn port = false))
    ∧ (let port := 0; let client := 5; let b : Block := (Block.alone ({ base with dict := { base.dict with usdo := [(0, 5)] } })).start; (b.dev ≠ .off) ∧ ((b.govHalted = false ∧ b.dict.usdo.contains (port, client) = true)))
    ∧ (let port := 0; let client := 5; let b : Block := (Block.alone (base)).start; (¬ (b.govHalted = false ∧ b.dict.usdo.contains (port, client) = true)))
    ∧ (let b : Block := (Block.alone (runBase)).start; (b.dev ≠ .off) ∧ (b.serving = true)) := by decide +kernel

theorem witness_DictionaryRows_19 :
    (let b : Block := (Block.alone ({ base with dev := .boot })).start; (b.serving = false))
    ∧ (let port := 1; let b : Block := (Block.alone ({ runBase with active := { recs := [(objKey 0x1017 0, [100, 0]), (objKey 0x1030 5, [3])] } })).start; (b.dev ≠ .off) ∧ ((b.portOn port = true ∧ b.serving = true ∧ b.actN 0x1017 0 ≠ 0)))
    ∧ (let port := 2; let b : Block := (Block.alone (({ runBase with active := { recs := [(objKey 0x1030 5, [3])] } } : Block))).start; (¬ (b.portOn port = true ∧ b.serving = true ∧ b.actN 0x1017 0 ≠ 0))) := by decide +kernel

theorem witness_ObjectCommands :
    (let via : DictPath := { path := 1, src := 9 }; let b : Block := (Block.alone ({ runBase with govHalted := true })).start; (b.granted via 0x1F00 1 true = .silent))
    ∧ (let via : DictPath := { path := 0, src := 0 }; let b : Block := (Block.alone (runBase)).start; (b.dev ≠ .off) ∧ (b.granted via 0x1F00 1 true = .refused))
    ∧ (let via : DictPath := { path := 1, src := 9 }; let b : Block := (Block.alone ({ runBase with commit := { state := 2 } })).start; (b.dev ≠ .off) ∧ (b.granted via 0x1F00 1 true = .allowed) ∧ ((b.commit.state = 1 ∨ b.commit.state = 2 ∨ b.claimedBy via = true)))
    ∧ (let via : DictPath := { path := 1, src := 9 }; let b : Block := (Block.alone ({ base with dev := .safeHold })).start; (b.dev ≠ .off) ∧ (b.granted via 0x1F00 1 true = .allowed) ∧ (¬ (b.commit.state = 1 ∨ b.commit.state = 2 ∨ b.claimedBy via = true)) ∧ (b.mayCommit = false))
    ∧ (let via : DictPath := { path := 1, src := 9 }; let b : Block := (Block.alone (runBase)).start; (b.dev ≠ .off) ∧ (b.granted via 0x1F00 1 true = .allowed) ∧ (¬ (b.commit.state = 1 ∨ b.commit.state = 2 ∨ b.claimedBy via = true)) ∧ (b.mayCommit = true))
    ∧ (let via : DictPath := { path := 1, src := 9 }; let b : Block := (Block.alone ({ runBase with govHalted := true })).start; (b.granted via 0x1F00 1 true = .silent)) := by decide +kernel

theorem witness_ObjectCommands_2 :
    (let via : DictPath := { path := 0, src := 0 }; let b : Block := (Block.alone (runBase)).start; (b.dev ≠ .off) ∧ (b.granted via 0x1F00 1 true = .refused))
    ∧ (let via : DictPath := { path := 1, src := 9 }; let b : Block := (Block.alone ({ runBase with commit := { state := 2 } })).start; (b.dev ≠ .off) ∧ (b.granted via 0x1F00 1 true = .allowed) ∧ ((b.commit.state = 1 ∨ b.commit.state = 2 ∨ b.claimedBy via = true)))
    ∧ (let via : DictPath := { path := 1, src := 9 }; let b : Block := (Block.alone ({ base with dev := .safeHold })).start; (b.dev ≠ .off) ∧ (b.granted via 0x1F00 1 true = .allowed) ∧ (¬ (b.commit.state = 1 ∨ b.commit.state = 2 ∨ b.claimedBy via = true)) ∧ (b.mayCommit = false))
    ∧ (let via : DictPath := { path := 1, src := 9 }; let b : Block := (Block.alone (runBase)).start; (b.dev ≠ .off) ∧ (b.granted via 0x1F00 1 true = .allowed) ∧ (¬ (b.commit.state = 1 ∨ b.commit.state = 2 ∨ b.claimedBy via = true)) ∧ (b.mayCommit = true))
    ∧ (let via : DictPath := { path := 1, src := 9 }; let b : Block := (Block.alone ({ runBase with govHalted := true })).start; (b.granted via 0x1F00 1 true = .silent))
    ∧ (let via : DictPath := { path := 0, src := 0 }; let b : Block := (Block.alone (runBase)).start; (b.dev ≠ .off) ∧ (b.granted via 0x1F00 1 true = .refused)) := by decide +kernel

theorem witness_ObjectCommands_3 :
    (let via : DictPath := { path := 1, src := 9 }; let b : Block := (Block.alone ({ runBase with commit := { claim := some (2, 3) } })).start; (b.dev ≠ .off) ∧ (b.granted via 0x1F00 1 true = .allowed) ∧ ((b.commit.state = 1 ∨ b.claimedBy via = true)))
    ∧ (let via : DictPath := { path := 1, src := 9 }; let b : Block := (Block.alone ({ runBase with commit := { state := 2, claim := some (1, 9) } })).start; let c : Block := b.cancelPending.discardStaged; (b.dev ≠ .off) ∧ (b.granted via 0x1F00 1 true = .allowed) ∧ (¬ (b.commit.state = 1 ∨ b.claimedBy via = true)))
    ∧ (let via : DictPath := { path := 1, src := 9 }; let b : Block := (Block.alone ({ runBase with govHalted := true })).start; (b.granted via 0x1F00 1 true = .silent))
    ∧ (let via : DictPath := { path := 0, src := 0 }; let b : Block := (Block.alone (runBase)).start; (b.dev ≠ .off) ∧ (b.granted via 0x1F00 1 true = .refused))
    ∧ (let via : DictPath := { path := 1, src := 9 }; let b : Block := (Block.alone (runBase)).start; (b.dev ≠ .off) ∧ (b.granted via 0x1F00 1 true = .allowed) ∧ (b.dict.switched = false))
    ∧ (let via : DictPath := { path := 1, src := 9 }; let b : Block := (Block.alone ({ runBase with dict := { runBase.dict with switched := true, persist := some (0, []) } })).start; (b.dev ≠ .off) ∧ (b.granted via 0x1F00 1 true = .allowed) ∧ (b.dict.switched = true) ∧ (b.dict.persist ≠ none)) := by decide +kernel

theorem witness_ObjectCommands_4 :
    (let via : DictPath := { path := 1, src := 9 }; let b : Block := (Block.alone ({ runBase with dict := { runBase.dict with switched := true } })).start; (b.dev ≠ .off) ∧ (b.granted via 0x1F00 1 true = .allowed) ∧ (b.dict.switched = true) ∧ (b.dict.persist = none))
    ∧ (let via : DictPath := { path := 1, src := 9 }; let slot := 8; let key : Bytes := List.replicate 57 7; let b : Block := (Block.alone ({ runBase with govHalted := true })).start; (b.granted via 0x8001 1 true = .silent))
    ∧ (let via : DictPath := { path := 0, src := 0 }; let slot := 8; let key : Bytes := List.replicate 57 7; let b : Block := (Block.alone (runBase)).start; (b.dev ≠ .off) ∧ (b.granted via 0x8001 1 true = .refused))
    ∧ (let via : DictPath := { path := 1, src := 9 }; let slot := 8; let key : Bytes := []; let b : Block := (Block.alone (runBase)).start; (b.dev ≠ .off) ∧ (b.granted via 0x8001 1 true = .allowed) ∧ (key.length ≠ 57))
    ∧ (let via : DictPath := { path := 1, src := 9 }; let slot := 8; let key : Bytes := List.replicate 57 7; let b : Block := (Block.alone (runBase)).start; (b.dev ≠ .off) ∧ (b.granted via 0x8001 1 true = .allowed) ∧ (key.length = 57) ∧ (b.dev ≠ .service))
    ∧ (let via : DictPath := { path := 1, src := 9 }; let slot := 10; let key : Bytes := List.replicate 57 7; let b : Block := (Block.alone ({ base with dev := .service })).start; (b.dev ≠ .off) ∧ (b.granted via 0x8001 1 true = .allowed) ∧ (key.length = 57) ∧ (b.dev = .service) ∧ (10 ≤ slot % 256)) := by decide +kernel

theorem witness_ObjectCommands_5 :
    (let via : DictPath := { path := 1, src := 9 }; let slot := 8; let key : Bytes := List.replicate 57 7; let b : Block := (Block.alone ({ base with dev := .service })).start; let n : Nat := slot % 256; (b.dev ≠ .off) ∧ (b.granted via 0x8001 1 true = .allowed) ∧ (key.length = 57) ∧ (b.dev = .service) ∧ (slot % 256 < 10) ∧ ((b.slot n).programmed = false)) := by decide +kernel

theorem witness_ObjectCommands_6 :
    (let via : DictPath := { path := 1, src := 9 }; let slot := 9; let key : Bytes := List.replicate 57 7; let b : Block := (Block.alone ({ base with dev := .service })).start; let n : Nat := slot % 256; (b.dev ≠ .off) ∧ (b.granted via 0x8001 1 true = .allowed) ∧ (key.length = 57) ∧ (b.dev = .service) ∧ (slot % 256 < 10) ∧ ((b.slot n).programmed = true) ∧ ((b.slot n).digest ≠ keyDig key)) := by decide +kernel

theorem witness_ObjectCommands_7 :
    (let via : DictPath := { path := 1, src := 9 }; let slot := 8; let key : Bytes := List.replicate 57 7; let b : Block := (Block.alone ({ { base with dev := .service } with otp := { base.otp with slots := [(8, { digest := keyDig (List.replicate 57 7), programmed := true })] } })).start; let n : Nat := slot % 256; (b.dev ≠ .off) ∧ (b.granted via 0x8001 1 true = .allowed) ∧ (key.length = 57) ∧ (b.dev = .service) ∧ (slot % 256 < 10) ∧ ((b.slot n).programmed = true) ∧ ((b.slot n).digest = keyDig key)) := by decide +kernel

theorem witness_ObjectCommands_8 :
    (let via : DictPath := { path := 1, src := 9 }; let slot := 256; let b : Block := (Block.alone ({ runBase with otp := { runBase.otp with slots := [(0, { digest := runBase.runBundle.keyDigest, programmed := true })] }, trust := { runBase.trust with rom := false } })).start; (b.dev ≠ .off) ∧ (b.granted via 0x8001 2 true = .allowed) ∧ (slot % 256 < 10) ∧ (b.slotUsed (slot % 256) = true)) := by decide +kernel

theorem witness_ObjectCommands_9 :
    (let via : DictPath := { path := 1, src := 9 }; let slot := 8; let b : Block := (Block.alone ({ runBase with govHalted := true })).start; (b.granted via 0x8001 2 true = .silent))
    ∧ (let via : DictPath := { path := 0, src := 0 }; let slot := 8; let b : Block := (Block.alone (runBase)).start; (b.dev ≠ .off) ∧ (b.granted via 0x8001 2 true = .refused))
    ∧ (let via : DictPath := { path := 1, src := 9 }; let slot := 255; let b : Block := (Block.alone (runBase)).start; (b.dev ≠ .off) ∧ (b.granted via 0x8001 2 true = .allowed) ∧ (10 ≤ slot % 256))
    ∧ (let via : DictPath := { path := 1, src := 9 }; let slot := 8; let b : Block := (Block.alone (runBase)).start; (b.dev ≠ .off) ∧ (b.granted via 0x8001 2 true = .allowed) ∧ (slot % 256 < 10) ∧ (b.slotUsed (slot % 256) = false))
    ∧ (let via : DictPath := { path := 1, src := 9 }; let b : Block := (Block.alone ({ runBase with govHalted := true })).start; (b.granted via 0x8001 3 true = .silent))
    ∧ (let via : DictPath := { path := 0, src := 0 }; let b : Block := (Block.alone (runBase)).start; (b.dev ≠ .off) ∧ (b.granted via 0x8001 3 true = .refused)) := by decide +kernel

theorem witness_ObjectCommands_10 :
    (let via : DictPath := { path := 1, src := 9 }; let sig : Bytes := List.replicate 114 0; let b : Block := (Block.alone (runBase.modTrust fun t => { t with chals := [((1, 9), [3])] })).start; let c : Block := b.modTrust fun t => { t with chals := t.chals.filter fun e => e.1 ≠ (via.path, via.src) }; let good : Bool := match List.lookup (via.path, via.src) b.trust.chals, c.slotKey 7 with | some q, some key => edVerify key (q ++ c.serialBytes ++ [BitVec.ofNat 8 via.path, 7]) sig | _, _ => false; (b.dev ≠ .off) ∧ (b.granted via 0x8026 2 true = .allowed) ∧ (sig.length = 114) ∧ (b.lockedOut (failKey via.path) = false) ∧ (good = false)) := by decide +kernel

theorem witness_ObjectCommands_11 :
    (let via : DictPath := { path := 1, src := 9 }; let sig : Bytes := ([1] ++ List.replicate 56 0 : Bytes) ++ List.replicate 57 0; let b : Block := (Block.alone ((({ runBase with otp := { runBase.otp with slots := [(7, { digest := keyDig ([1] ++ List.replicate 56 0 : Bytes), programmed := true })] } } : Block).modTrust fun t => { t with keys := [(7, ([1] ++ List.replicate 56 0 : Bytes))] }).modTrust fun t => { t with chals := [((1, 9), [3])] })).start; let c : Block := b.modTrust fun t => { t with chals := t.chals.filter fun e => e.1 ≠ (via.path, via.src) }; let good : Bool := match List.lookup (via.path, via.src) b.trust.chals, c.slotKey 7 with | some q, some key => edVerify key (q ++ c.serialBytes ++ [BitVec.ofNat 8 via.path, 7]) sig | _, _ => false; let d : Block := (c.authOk (failKey via.path)).modTrust fun t => { t with sessions := t.sessions.filter (· ≠ (via.path, via.src)) ++ [(via.path, via.src)] }; (b.dev ≠ .off) ∧ (b.granted via 0x8026 2 true = .allowed) ∧ (sig.length = 114) ∧ (b.lockedOut (failKey via.path) = false) ∧ (good = true)) := by decide +kernel

theorem witness_ObjectCommands_12 :
    (let via : DictPath := { path := 1, src := 9 }; let b : Block := (Block.alone (runBase)).start; (b.dev ≠ .off) ∧ (b.granted via 0x8001 3 true = .allowed))
    ∧ (let via : DictPath := { path := 1, src := 9 }; let sig : Bytes := List.replicate 114 0; let b : Block := (Block.alone ({ runBase with govHalted := true })).start; (b.granted via 0x8026 2 true = .silent))
    ∧ (let via : DictPath := { path := 0, src := 0 }; let sig : Bytes := List.replicate 114 0; let b : Block := (Block.alone (runBase)).start; (b.dev ≠ .off) ∧ (b.granted via 0x8026 2 true = .refused))
    ∧ (let via : DictPath := { path := 1, src := 9 }; let sig : Bytes := []; let b : Block := (Block.alone (runBase)).start; (b.dev ≠ .off) ∧ (b.granted via 0x8026 2 true = .allowed) ∧ (sig.length ≠ 114))
    ∧ (let via : DictPath := { path := 1, src := 9 }; let sig : Bytes := List.replicate 114 0; let b : Block := (Block.alone (runBase.modTrust fun t => { t with fails := [(1, (3, 5))] })).start; (b.dev ≠ .off) ∧ (b.granted via 0x8026 2 true = .allowed) ∧ (sig.length = 114) ∧ (b.lockedOut (failKey via.path) = true))
    ∧ (let via : DictPath := { path := 1, src := 9 }; let b : Block := (Block.alone ({ runBase with govHalted := true })).start; (b.granted via 0x8026 3 true = .silent)) := by decide +kernel

theorem witness_ObjectCommands_13 :
    (let via : DictPath := { path := 1, src := 9 }; let b : Block := (Block.alone (runBase.modTrust fun t => { t with sessions := [(1, 9), (1, 8)] })).start; let c : Block := b.modTrust fun t => { t with sessions := t.sessions.filter (· ≠ (via.path, via.src)) }; (b.dev ≠ .off) ∧ (b.granted via 0x8026 3 true = .allowed) ∧ (b.trust.sessions.contains (via.path, via.src) = true) ∧ (¬ (c.dev = .service ∧ c.trust.sessions.isEmpty = true))) := by decide +kernel

theorem witness_ObjectCommands_14 :
    (let via : DictPath := { path := 1, src := 9 }; let b : Block := (Block.alone (({ base with dev := .service } : Block).modTrust fun t => { t with sessions := [(1, 9)] })).start; let c : Block := b.modTrust fun t => { t with sessions := t.sessions.filter (· ≠ (via.path, via.src)) }; (b.dev ≠ .off) ∧ (b.granted via 0x8026 3 true = .allowed) ∧ (b.trust.sessions.contains (via.path, via.src) = true) ∧ ((c.dev = .service ∧ c.trust.sessions.isEmpty = true))) := by decide +kernel

theorem witness_ObjectCommands_15 :
    (let via : DictPath := { path := 0, src := 0 }; let b : Block := (Block.alone (runBase)).start; (b.dev ≠ .off) ∧ (b.granted via 0x8026 3 true = .refused))
    ∧ (let via : DictPath := { path := 1, src := 9 }; let b : Block := (Block.alone (runBase)).start; (b.dev ≠ .off) ∧ (b.granted via 0x8026 3 true = .allowed) ∧ (b.trust.sessions.contains (via.path, via.src) = false))
    ∧ (let via : DictPath := { path := 1, src := 9 }; let b : Block := (Block.alone ({ runBase with govHalted := true })).start; (b.granted via 0x8030 3 true = .silent))
    ∧ (let via : DictPath := { path := 0, src := 0 }; let b : Block := (Block.alone (runBase)).start; (b.dev ≠ .off) ∧ (b.granted via 0x8030 3 true = .refused))
    ∧ (let via : DictPath := { path := 1, src := 9 }; let b : Block := (Block.alone (runBase.modTrust fun t => { t with banks := [(t.running, { copy0 := some { state := 2, tries := 1 } })], timer := true })).start; (b.dev ≠ .off) ∧ (b.granted via 0x8030 3 true = .allowed) ∧ ((b.runRec.state = 2 ∧ b.trust.rom = false)))
    ∧ (let via : DictPath := { path := 1, src := 9 }; let b : Block := (Block.alone (runBase.modTrust fun t => { t with banks := [(t.running, { copy0 := some { state := 3 } })] })).start; (b.dev ≠ .off) ∧ (b.granted via 0x8030 3 true = .allowed) ∧ (¬ (b.runRec.state = 2 ∧ b.trust.rom = false))) := by decide +kernel

theorem witness_ObjectCommands_16 :
    (let via : DictPath := { path := 1, src := 9 }; let b : Block := (Block.alone ({ base with dev := .service })).start; let u : Bundle := b.runBundle; let o : Bank := b.bank b.spareBank; let st : Nat := o.rec'.state; (b.dev ≠ .off) ∧ (b.granted via 0x8030 5 true = .allowed) ∧ ((b.runRec.state = 3 ∧ b.trust.rom = false ∧ b.dev = .service ∧ (st = 0 ∨ st = 4 ∨ (st = 3 ∧ u.svn ≤ o.bundle.svn))))) := by decide +kernel

theorem witness_ObjectCommands_17 :
    (let via : DictPath := { path := 1, src := 9 }; let b : Block := (Block.alone (runBase)).start; let u : Bundle := b.runBundle; let o : Bank := b.bank b.spareBank; let st : Nat := o.rec'.state; (b.dev ≠ .off) ∧ (b.granted via 0x8030 5 true = .allowed) ∧ (¬ (b.runRec.state = 3 ∧ b.trust.rom = false ∧ b.dev = .service ∧ (st = 0 ∨ st = 4 ∨ (st = 3 ∧ u.svn ≤ o.bundle.svn))))) := by decide +kernel

theorem witness_ObjectCommands_18 :
    (let via : DictPath := { path := 1, src := 9 }; let b : Block := (Block.alone ({ runBase with govHalted := true })).start; (b.granted via 0x8030 5 true = .silent))
    ∧ (let via : DictPath := { path := 0, src := 0 }; let b : Block := (Block.alone (runBase)).start; (b.dev ≠ .off) ∧ (b.granted via 0x8030 5 true = .refused))
    ∧ (let via : DictPath := { path := 1, src := 9 }; let b : Block := (Block.alone ({ runBase with govHalted := true })).start; (b.granted via 0x8030 6 true = .silent))
    ∧ (let via : DictPath := { path := 0, src := 0 }; let b : Block := (Block.alone (runBase)).start; (b.dev ≠ .off) ∧ (b.granted via 0x8030 6 true = .refused))
    ∧ (let via : DictPath := { path := 1, src := 9 }; let b : Block := (Block.alone (runBase.modTrust fun t => { t with banks := [(1, { copy0 := some { state := 1 } })] })).start; (b.dev ≠ .off) ∧ (b.granted via 0x8030 6 true = .allowed))
    ∧ (let via : DictPath := { path := 1, src := 9 }; let nonce : Bytes := List.replicate 32 5; let b : Block := (Block.alone ({ runBase with govHalted := true })).start; (b.granted via 0x8060 1 true = .silent)) := by decide +kernel

theorem witness_ObjectCommands_19 :
    (let via : DictPath := { path := 0, src := 0 }; let nonce : Bytes := List.replicate 32 5; let b : Block := (Block.alone (runBase)).start; (b.dev ≠ .off) ∧ (b.granted via 0x8060 1 true = .refused))
    ∧ (let via : DictPath := { path := 1, src := 9 }; let nonce : Bytes := []; let b : Block := (Block.alone (runBase)).start; (b.dev ≠ .off) ∧ (b.granted via 0x8060 1 true = .allowed) ∧ (nonce.length ≠ 32))
    ∧ (let via : DictPath := { path := 1, src := 9 }; let nonce : Bytes := List.replicate 32 5; let b : Block := (Block.alone (runBase)).start; (b.dev ≠ .off) ∧ (b.granted via 0x8060 1 true = .allowed) ∧ (nonce.length = 32))
    ∧ (let via : DictPath := { path := 1, src := 9 }; let port := 5; let b : Block := (Block.alone ({ runBase with govHalted := true })).start; (b.granted via 0x8070 8 true = .silent))
    ∧ (let via : DictPath := { path := 0, src := 0 }; let port := 5; let b : Block := (Block.alone (runBase)).start; (b.dev ≠ .off) ∧ (b.granted via 0x8070 8 true = .refused))
    ∧ (let via : DictPath := { path := 1, src := 9 }; let port := 6; let b : Block := (Block.alone (runBase)).start; (b.dev ≠ .off) ∧ (b.granted via 0x8070 8 true = .allowed) ∧ (6 ≤ port % 256)) := by decide +kernel

theorem witness_ObjectCommands_20 :
    (let via : DictPath := { path := 1, src := 9 }; let port := 5; let b : Block := (Block.alone (runBase.put LVP_STATUS_STATE 4 5)).start; (b.dev ≠ .off) ∧ (b.granted via 0x8070 8 true = .allowed) ∧ (port % 256 < 6) ∧ (b.portSt (port % 256) = 4))
    ∧ (let via : DictPath := { path := 1, src := 9 }; let port := 5; let b : Block := (Block.alone (runBase)).start; (b.dev ≠ .off) ∧ (b.granted via 0x8070 8 true = .allowed) ∧ (port % 256 < 6) ∧ (b.portSt (port % 256) ≠ 4))
    ∧ (let via : DictPath := { path := 1, src := 9 }; let b : Block := (Block.alone ({ runBase with govHalted := true })).start; (b.granted via 0x8026 1 false = .silent))
    ∧ (let via : DictPath := { path := 1, src := 9 }; let b : Block := (Block.alone (runBase.modTrust fun t => { t with fails := [(1, (3, 5))] })).start; (b.dev ≠ .off) ∧ (b.granted via 0x8026 1 false = .allowed) ∧ (b.lockedOut (failKey via.path) = true))
    ∧ (let via : DictPath := { path := 1, src := 9 }; let b : Block := (Block.alone (runBase.modTrust fun t => { t with chals := [((1, 9), [3])] })).start; let r : Bytes × Block := b.random32; (b.dev ≠ .off) ∧ (b.granted via 0x8026 1 false = .allowed) ∧ (b.lockedOut (failKey via.path) = false))
    ∧ (let via : DictPath := { path := 1, src := 9 }; let off := 0; let last := false; let data : Bytes := [1]; let b : Block := (Block.alone ({ runBase with govHalted := true })).start; (b.granted via 0x8030 1 true = .silent)) := by decide +kernel

theorem witness_ObjectCommands_21 :
    (let via : DictPath := { path := 1, src := 9 }; let off := 0; let last := false; let data : Bytes := [1]; let b : Block := (Block.alone (runBase.modTrust fun t => { t with upload := some (2, 3, []) })).start; let w : Nat × Nat := (via.path, via.src); let c : Block := b.setSeg via none; (b.dev ≠ .off) ∧ (b.granted via 0x8030 1 true = .allowed) ∧ (off = 0) ∧ ((c.runRec.state = 2 ∨ c.dict.persist.isSome = true ∨ (match c.trust.upload with | some (p, s, _) => decide ((p, s) ≠ w) | none => false) = true))) := by decide +kernel

end Sys2Proof.Machine
end

