-- ==== Sys2Proof/Tests/Witness4.lean ====
section
/-! SUPPORT. States and operands that meet the hypotheses of each clause of the statements, part 4 of 4: witness_N is for the statement N. -/

set_option maxRecDepth 4000
set_option Elab.async false
set_option linter.unusedVariables false

namespace Sys2Proof.Machine

theorem witness_ObjectCommands_22 :
    (let via : DictPath := { path := 1, src := 9 }; let off := 0; let last := false; let data : Bytes := [1]; let m : Bytes := []; let b : Block := (Block.alone (runBase)).start; let w : Nat × Nat := (via.path, via.src); let c : Block := b.setSeg via none; let d : Block := ((c.modBank c.spareBank fun k => { k with bundle := {} }).putRecord c.spareBank fun r => { r with state := 0, tries := 0, seq := c.runRec.seq + 1, svn := 0, length := 0, manifest := [] }).modTrust fun t => { t with upload := some (w.1, w.2, []) }; let e : Block := d.modTrust fun t => { t with upload := some (w.1, w.2, m ++ data) }; (b.dev ≠ .off) ∧ (b.granted via 0x8030 1 true = .allowed) ∧ (off = 0) ∧ (¬ (c.runRec.state = 2 ∨ c.dict.persist.isSome = true ∨ (match c.trust.upload with | some (p, s, _) => decide ((p, s) ≠ w) | none => false) = true)) ∧ (d.trust.upload = some (w.1, w.2, m)) ∧ (m.length = off) ∧ (¬ 0xF00000 < m.length + data.length) ∧ (last = false)) := by decide +kernel

theorem witness_ObjectCommands_23 :
    (let via : DictPath := { path := 1, src := 9 }; let off := 0; let last := true; let data : Bytes := [1]; let m : Bytes := []; let b : Block := (Block.alone (runBase)).start; let w : Nat × Nat := (via.path, via.src); let c : Block := b.setSeg via none; let d : Block := ((c.modBank c.spareBank fun k => { k with bundle := {} }).putRecord c.spareBank fun r => { r with state := 0, tries := 0, seq := c.runRec.seq + 1, svn := 0, length := 0, manifest := [] }).modTrust fun t => { t with upload := some (w.1, w.2, []) }; let e : Block := d.modTrust fun t => { t with upload := some (w.1, w.2, m ++ data) }; let u : Bundle := readBundle (m ++ data); let f : Block := (e.modTrust fun t => { t with upload := none }).modBank e.spareBank fun k => { k with bundle := u }; let g : Block := f.putRecord f.spareBank fun r => { r with state := if f.bundleOk u = true then 1 else 4, svn := u.svn, length := u.length, manifest := u.manifest }; (b.dev ≠ .off) ∧ (b.granted via 0x8030 1 true = .allowed) ∧ (off = 0) ∧ (¬ (c.runRec.state = 2 ∨ c.dict.persist.isSome = true ∨ (match c.trust.upload with | some (p, s, _) => decide ((p, s) ≠ w) | none => false) = true)) ∧ (d.trust.upload = some (w.1, w.2, m)) ∧ (m.length = off) ∧ (¬ 0xF00000 < m.length + data.length) ∧ (last = true) ∧ (f.bundleOk u = false)) := by decide +kernel

theorem witness_ObjectCommands_24 :
    (let via : DictPath := { path := 1, src := 9 }; let off := 2; let last := false; let data : Bytes := [1]; let b : Block := (Block.alone (runBase)).start; let w : Nat × Nat := (via.path, via.src); let d : Block := b; (b.dev ≠ .off) ∧ (b.granted via 0x8030 1 true = .allowed) ∧ (off ≠ 0) ∧ ((match d.trust.upload with | some (p, s, m) => decide ((p, s) = w ∧ m.length = off) | none => false) = false)) := by decide +kernel

theorem witness_ObjectCommands_25 :
    (let via : DictPath := { path := 1, src := 9 }; let off := 2; let last := false; let data : Bytes := [1]; let m : Bytes := [1, 2]; let b : Block := (Block.alone (runBase.modTrust fun t => { t with upload := some (1, 9, [1, 2]) })).start; let w : Nat × Nat := (via.path, via.src); let d : Block := b; let e : Block := d.modTrust fun t => { t with upload := some (w.1, w.2, m ++ data) }; (b.dev ≠ .off) ∧ (b.granted via 0x8030 1 true = .allowed) ∧ (off ≠ 0) ∧ (d.trust.upload = some (w.1, w.2, m)) ∧ (m.length = off) ∧ (¬ 0xF00000 < m.length + data.length) ∧ (last = false)) := by decide +kernel

theorem witness_ObjectCommands_26 :
    (let via : DictPath := { path := 1, src := 9 }; let off := 2; let last := true; let data : Bytes := [1]; let m : Bytes := [1, 2]; let b : Block := (Block.alone (runBase.modTrust fun t => { t with upload := some (1, 9, [1, 2]) })).start; let w : Nat × Nat := (via.path, via.src); let d : Block := b; let e : Block := d.modTrust fun t => { t with upload := some (w.1, w.2, m ++ data) }; let u : Bundle := readBundle (m ++ data); let f : Block := (e.modTrust fun t => { t with upload := none }).modBank e.spareBank fun k => { k with bundle := u }; let g : Block := f.putRecord f.spareBank fun r => { r with state := if f.bundleOk u = true then 1 else 4, svn := u.svn, length := u.length, manifest := u.manifest }; (b.dev ≠ .off) ∧ (b.granted via 0x8030 1 true = .allowed) ∧ (off ≠ 0) ∧ (d.trust.upload = some (w.1, w.2, m)) ∧ (m.length = off) ∧ (¬ 0xF00000 < m.length + data.length) ∧ (last = true) ∧ (f.bundleOk u = false)) := by decide +kernel

theorem witness_ObjectCommands_27 :
    (let via : DictPath := { path := 0, src := 0 }; let off := 0; let last := false; let data : Bytes := [1]; let b : Block := (Block.alone (runBase)).start; (b.dev ≠ .off) ∧ (b.granted via 0x8030 1 true = .refused))
    ∧ (let via : DictPath := { path := 1, src := 9 }; let sub := 2; let value : Bytes := List.replicate 64 1; let b : Block := (Block.alone ({ runBase with govHalted := true })).start; (b.granted via 0x8062 sub true = .silent))
    ∧ (let via : DictPath := { path := 0, src := 0 }; let sub := 2; let value : Bytes := List.replicate 64 1; let b : Block := (Block.alone (runBase)).start; (b.dev ≠ .off) ∧ (b.granted via 0x8062 sub true = .refused))
    ∧ (let via : DictPath := { path := 1, src := 9 }; let sub := 3; let value : Bytes := List.replicate 64 1; let b : Block := (Block.alone (runBase)).start; (b.dev ≠ .off) ∧ (b.granted via 0x8062 sub true = .allowed) ∧ (sub ≠ 1) ∧ (sub ≠ 2))
    ∧ (let via : DictPath := { path := 1, src := 9 }; let sub := 1; let value : Bytes := []; let b : Block := (Block.alone (runBase)).start; (b.dev ≠ .off) ∧ (b.granted via 0x8062 sub true = .allowed) ∧ ((sub = 1 ∨ sub = 2)) ∧ (value.length ≠ 64))
    ∧ (let via : DictPath := { path := 1, src := 9 }; let sub := 2; let value : Bytes := List.replicate 64 1; let b : Block := (Block.alone (runBase)).start; (b.dev ≠ .off) ∧ (b.granted via 0x8062 sub true = .allowed) ∧ ((sub = 1 ∨ sub = 2)) ∧ (value.length = 64) ∧ (¬ (via.path = 5 ∧ via.set = 1))) := by decide +kernel

theorem witness_ObjectCommands_28 :
    (let via : DictPath := { path := 5, src := 9, set := 1 }; let sub := 2; let value : Bytes := List.replicate 64 1; let b : Block := (Block.alone (runBase)).start; (b.dev ≠ .off) ∧ (b.granted via 0x8062 sub true = .allowed) ∧ ((sub = 1 ∨ sub = 2)) ∧ (value.length = 64) ∧ ((via.path = 5 ∧ via.set = 1)))
    ∧ (let via : DictPath := { path := 1, src := 9 }; let sub := 96; let key : Bytes := List.replicate 48 1; let b : Block := (Block.alone ({ runBase with govHalted := true })).start; (b.granted via 0x8072 sub true = .silent))
    ∧ (let via : DictPath := { path := 0, src := 0 }; let sub := 96; let key : Bytes := List.replicate 48 1; let b : Block := (Block.alone (runBase)).start; (b.dev ≠ .off) ∧ (b.granted via 0x8072 sub true = .refused))
    ∧ (let via : DictPath := { path := 1, src := 9 }; let sub := 0; let key : Bytes := List.replicate 48 1; let b : Block := (Block.alone (runBase)).start; (b.dev ≠ .off) ∧ (b.granted via 0x8072 sub true = .allowed) ∧ (sub = 0))
    ∧ (let via : DictPath := { path := 1, src := 9 }; let sub := 97; let key : Bytes := List.replicate 48 1; let b : Block := (Block.alone (runBase)).start; (b.dev ≠ .off) ∧ (b.granted via 0x8072 sub true = .allowed) ∧ (97 ≤ sub))
    ∧ (let via : DictPath := { path := 1, src := 9 }; let sub := 1; let key : Bytes := []; let b : Block := (Block.alone (runBase)).start; (b.dev ≠ .off) ∧ (b.granted via 0x8072 sub true = .allowed) ∧ (1 ≤ sub) ∧ (sub ≤ 96) ∧ (key.length ≠ 48)) := by decide +kernel

theorem witness_ObjectCommands_29 :
    (let via : DictPath := { path := 1, src := 9 }; let sub := 96; let key : Bytes := List.replicate 48 1; let b : Block := (Block.alone (runBase)).start; let k : MacKey := { key := key.take 32, salt := slice 32 12 key, ssci := slice 44 4 key }; (b.dev ≠ .off) ∧ (b.granted via 0x8072 sub true = .allowed) ∧ (1 ≤ sub) ∧ (sub ≤ 96) ∧ (key.length = 48)) := by decide +kernel

theorem witness_ObjectCommands_30 :
    (let via : DictPath := { path := 1, src := 9 }; let sub := 96; let key : Bytes := List.replicate 48 1; let b : Block := (Block.alone (runBase)).start; let k : MacKey := { key := key.take 32, salt := slice 32 12 key, ssci := slice 44 4 key }; (b.dev ≠ .off) ∧ (b.granted via 0x8073 sub true = .allowed) ∧ (1 ≤ sub) ∧ (sub ≤ 96) ∧ (key.length = 48)) := by decide +kernel

theorem witness_ObjectCommands_31 :
    (let via : DictPath := { path := 1, src := 9 }; let sub := 96; let key : Bytes := List.replicate 48 1; let b : Block := (Block.alone ({ runBase with govHalted := true })).start; (b.granted via 0x8073 sub true = .silent))
    ∧ (let via : DictPath := { path := 0, src := 0 }; let sub := 96; let key : Bytes := List.replicate 48 1; let b : Block := (Block.alone (runBase)).start; (b.dev ≠ .off) ∧ (b.granted via 0x8073 sub true = .refused))
    ∧ (let via : DictPath := { path := 1, src := 9 }; let sub := 0; let key : Bytes := List.replicate 48 1; let b : Block := (Block.alone (runBase)).start; (b.dev ≠ .off) ∧ (b.granted via 0x8073 sub true = .allowed) ∧ (sub = 0))
    ∧ (let via : DictPath := { path := 1, src := 9 }; let sub := 97; let key : Bytes := List.replicate 48 1; let b : Block := (Block.alone (runBase)).start; (b.dev ≠ .off) ∧ (b.granted via 0x8073 sub true = .allowed) ∧ (97 ≤ sub))
    ∧ (let via : DictPath := { path := 1, src := 9 }; let sub := 1; let key : Bytes := []; let b : Block := (Block.alone (runBase)).start; (b.dev ≠ .off) ∧ (b.granted via 0x8073 sub true = .allowed) ∧ (1 ≤ sub) ∧ (sub ≤ 96) ∧ (key.length ≠ 48)) := by decide +kernel

theorem witness_ObjectCommands_s1 :
    (let via : DictPath := { path := 1, src := 9 }; let off := 0; let last := true; let data : Bytes := smallBundle; let m : Bytes := []; let b : Block := (Block.alone (({ runBase with otp := { runBase.otp with slots := [(0, { digest := keyDig smallKey, programmed := true })] } } : Block))).start; let w : Nat × Nat := (via.path, via.src); let c : Block := b.setSeg via none; let d : Block := ((c.modBank c.spareBank fun k => { k with bundle := {} }).putRecord c.spareBank fun r => { r with state := 0, tries := 0, seq := c.runRec.seq + 1, svn := 0, length := 0, manifest := [] }).modTrust fun t => { t with upload := some (w.1, w.2, []) }; let e : Block := d.modTrust fun t => { t with upload := some (w.1, w.2, m ++ data) }; let u : Bundle := readBundle (m ++ data); let f : Block := (e.modTrust fun t => { t with upload := none }).modBank e.spareBank fun k => { k with bundle := u }; let g : Block := (f.putRecord f.spareBank fun r => { r with state := if f.bundleOk u = true then 1 else 4, svn := u.svn, length := u.length, manifest := u.manifest }).note { code := 0x0C05 }; (b.dev ≠ .off) ∧ (b.granted via 0x8030 1 true = .allowed) ∧ (off = 0) ∧ (¬ (c.runRec.state = 2 ∨ c.dict.persist.isSome = true ∨ (match c.trust.upload with | some (p, s, _) => decide ((p, s) ≠ w) | none => false) = true)) ∧ (d.trust.upload = some (w.1, w.2, m)) ∧ (m.length = off) ∧ (¬ 0xF00000 < m.length + data.length) ∧ (last = true) ∧ (f.bundleOk u = true)) := ⟨by decide +kernel, by decide +kernel, by decide +kernel, by decide +kernel, by decide +kernel, by decide +kernel, by decide +kernel, by decide +kernel, smallBundle_ok _ _ (by decide +kernel) (by decide +kernel) (by decide +kernel)⟩

theorem witness_ObjectCommands_s2 :
    (let via : DictPath := { path := 1, src := 9 }; let off := 2; let last := true; let data : Bytes := smallBundle.drop 2; let m : Bytes := [0x4E, 0x46]; let b : Block := (Block.alone (({ runBase with otp := { runBase.otp with slots := [(0, { digest := keyDig smallKey, programmed := true })] } } : Block).modTrust fun t => { t with upload := some (1, 9, [0x4E, 0x46]) })).start; let w : Nat × Nat := (via.path, via.src); let d : Block := b; let e : Block := d.modTrust fun t => { t with upload := some (w.1, w.2, m ++ data) }; let u : Bundle := readBundle (m ++ data); let f : Block := (e.modTrust fun t => { t with upload := none }).modBank e.spareBank fun k => { k with bundle := u }; let g : Block := (f.putRecord f.spareBank fun r => { r with state := if f.bundleOk u = true then 1 else 4, svn := u.svn, length := u.length, manifest := u.manifest }).note { code := 0x0C05 }; (b.dev ≠ .off) ∧ (b.granted via 0x8030 1 true = .allowed) ∧ (off ≠ 0) ∧ (d.trust.upload = some (w.1, w.2, m)) ∧ (m.length = off) ∧ (¬ 0xF00000 < m.length + data.length) ∧ (last = true) ∧ (f.bundleOk u = true)) := ⟨by decide +kernel, by decide +kernel, by decide +kernel, by decide +kernel, by decide +kernel, by decide +kernel, by decide +kernel, smallBundle_ok _ _ (by decide +kernel) (by decide +kernel) (by decide +kernel)⟩

theorem witness_ObjectCommands_s3 :
    (let via : DictPath := { path := 1, src := 9 }; let off := 0; let last := false; let data : Bytes := List.replicate 0xF00001 (0 : Byte); let m : Bytes := []; let b : Block := (Block.alone (runBase)).start; let w : Nat × Nat := (via.path, via.src); let c : Block := b.setSeg via none; let d : Block := ((c.modBank c.spareBank fun k => { k with bundle := {} }).putRecord c.spareBank fun r => { r with state := 0, tries := 0, seq := c.runRec.seq + 1, svn := 0, length := 0, manifest := [] }).modTrust fun t => { t with upload := some (w.1, w.2, []) }; (b.dev ≠ .off) ∧ (b.granted via 0x8030 1 true = .allowed) ∧ (off = 0) ∧ (¬ (c.runRec.state = 2 ∨ c.dict.persist.isSome = true ∨ (match c.trust.upload with | some (p, s, _) => decide ((p, s) ≠ w) | none => false) = true)) ∧ (d.trust.upload = some (w.1, w.2, m)) ∧ (m.length = off) ∧ (0xF00000 < m.length + data.length)) := ⟨by decide +kernel, by decide +kernel, by decide +kernel, by decide +kernel, by decide +kernel, by decide +kernel, by show _ < _ + List.length (List.replicate 0xF00001 (0 : Byte)); rw [List.length_replicate]; decide⟩

theorem witness_ObjectCommands_s4 :
    (let via : DictPath := { path := 1, src := 9 }; let off := 2; let last := false; let data : Bytes := List.replicate 0xF00001 (0 : Byte); let m : Bytes := [1, 2]; let b : Block := (Block.alone (runBase.modTrust fun t => { t with upload := some (1, 9, [1, 2]) })).start; let w : Nat × Nat := (via.path, via.src); let d : Block := b; (b.dev ≠ .off) ∧ (b.granted via 0x8030 1 true = .allowed) ∧ (off ≠ 0) ∧ (d.trust.upload = some (w.1, w.2, m)) ∧ (m.length = off) ∧ (0xF00000 < m.length + data.length)) := ⟨by decide +kernel, by decide +kernel, by decide +kernel, by decide +kernel, by decide +kernel, by show _ < _ + List.length (List.replicate 0xF00001 (0 : Byte)); rw [List.length_replicate]; decide⟩

theorem witness_CommitRows :
    (let b : Block := (Block.alone ({ base with dev := .configWait, commit := { state := 2 } })).start; let t : Block := b.staging; let init : Bool := Block.layoutDiffers b t; let c : Block := ((b.putActive b.dict.staged).lockBinds).modTu (fun u => { u with loadNext := true }); let d : Block := (c.forL ((List.range 64).filter fun p => b.fMode p ≠ 0) Block.removePart).switched; (b.dev ≠ .off) ∧ (b.commit.state = 2) ∧ (b.dev = .configWait)) := by decide +kernel

theorem witness_CommitRows_2 :
    (let b : Block := (Block.alone (({ base with dev := .ready, commit := { state := 2 } } : Block).put TRN_STATUS_RUNNING 1)).start; let t : Block := b.staging; let c : Block := (((b.putActive b.dict.staged).lockBinds).regsBoundary).modTu (fun u => { u with imgNow := true }); (b.dev ≠ .off) ∧ (b.commit.state = 2) ∧ ((b.tu.phaseA = 0 ∧ b.running = true)) ∧ (b.dev = .ready)) := by decide +kernel

theorem witness_CommitRows_3 :
    (let b : Block := (Block.alone (({ base with dev := .run, commit := { state := 2 } } : Block).put TRN_STATUS_RUNNING 1)).start; let t : Block := b.staging; let c : Block := (((b.putActive b.dict.staged).lockBinds).regsBoundary).modTu (fun u => { u with imgNow := true }); (b.dev ≠ .off) ∧ (b.commit.state = 2) ∧ ((b.tu.phaseA = 0 ∧ b.running = true)) ∧ (((b.dev = .run ∨ b.dev = .degraded) ∧ b.switchDue = true))) := by decide +kernel

theorem witness_CommitRows_4 :
    (let b : Block := (Block.alone (base)).start; (b.commit.state ≠ 1))
    ∧ (let b : Block := (Block.alone ({ runBase with commit := { state := 1 } })).start; let c : Block := ({ b with commit := { b.commit with state := 2, pendTurn := b.turn } } : Block).note { code := 0x0B01 }; let diff : Bool := ({ b with active := b.dict.staged } : Block).slotsDiffer c.active; (b.dev ≠ .off) ∧ (b.commit.state = 1))
    ∧ (let b : Block := (Block.alone ({ runBase with commit := { state := 2 } })).start; (¬ (b.commit.state = 2 ∧ (b.dev = .configWait ∨ (b.dev = .ready ∨ (b.dev = .run ∨ b.dev = .degraded) ∧ b.switchDue = true) ∧ b.tu.phaseA = 0 ∧ b.running = true))))
    ∧ (let b : Block := (Block.alone ({ base with commit := { claim := some (1, 2) } })).start; (b.dev ≠ .off) ∧ (b.commit.claim ≠ none))
    ∧ (let b : Block := (Block.alone (base)).start; (b.commit.claim = none))
    ∧ (let b : Block := (Block.alone (base)).start; (b.dict.persist = none)) := by decide +kernel

theorem witness_CommitRows_5 :
    (let ok := true; let k := 1; let m : Bytes := [5]; let b : Block := (Block.alone ({ base with dict := { base.dict with persist := some (1, [5]), slots := [(0, { image := [], record := slotRecord 7 0 (imgCrc []) })] } })).start; let seq : Nat := match b.currentSlot with | some c => recordSeq (b.cfgSlot c).record + 1 | none => ((List.range 2).filter fun c => recordOk (b.cfgSlot c).record).foldl (fun a c => max a (recordSeq (b.cfgSlot c).record + 1)) 1; let c : Block := ({ b with dict := { b.dict with persist := none, slots := SMap.set {} k { image := m, record := slotRecord seq m.length (imgCrc m) } b.dict.slots } } : Block).note { code := 0x0B0D }; (b.dev ≠ .off) ∧ (b.dict.persist = some (k, m)) ∧ (ok = true) ∧ (¬ (b.commit.persistAfter = true ∧ b.commit.state = 3))) := by decide +kernel

theorem witness_CommitRows_6 :
    (let ok := true; let k := 1; let m : Bytes := [5]; let b : Block := (Block.alone ({ base with dict := { base.dict with persist := some (1, [5]), slots := [(0, { image := [], record := slotRecord 7 0 (imgCrc []) })] }, commit := { state := 3, persistAfter := true } })).start; let seq : Nat := match b.currentSlot with | some c => recordSeq (b.cfgSlot c).record + 1 | none => ((List.range 2).filter fun c => recordOk (b.cfgSlot c).record).foldl (fun a c => max a (recordSeq (b.cfgSlot c).record + 1)) 1; let c : Block := ({ b with dict := { b.dict with persist := none, slots := SMap.set {} k { image := m, record := slotRecord seq m.length (imgCrc m) } b.dict.slots } } : Block).note { code := 0x0B0D }; (b.dev ≠ .off) ∧ (b.dict.persist = some (k, m)) ∧ (ok = true) ∧ ((b.commit.persistAfter = true ∧ b.commit.state = 3))) := by decide +kernel

theorem witness_CommitRows_7 :
    (let ok := false; let k := 1; let m : Bytes := [5]; let b : Block := (Block.alone ({ base with dict := { base.dict with persist := some (1, [5]) } })).start; let c : Block := ({ b with dict := { b.dict with persist := none, slots := SMap.upd {} k (fun x => { x with image := [] }) b.dict.slots } } : Block).note { code := 0x2B06 }; (b.dev ≠ .off) ∧ (b.dict.persist = some (k, m)) ∧ (ok = false) ∧ (¬ (b.commit.persistAfter = true ∧ b.commit.state = 3))) := by decide +kernel

theorem witness_CommitRows_8 :
    (let ok := false; let k := 1; let m : Bytes := [5]; let b : Block := (Block.alone ({ base with dict := { base.dict with persist := some (1, [5]) }, commit := { state := 3, persistAfter := true } })).start; let c : Block := ({ b with dict := { b.dict with persist := none, slots := SMap.upd {} k (fun x => { x with image := [] }) b.dict.slots } } : Block).note { code := 0x2B06 }; (b.dev ≠ .off) ∧ (b.dict.persist = some (k, m)) ∧ (ok = false) ∧ ((b.commit.persistAfter = true ∧ b.commit.state = 3))) := by decide +kernel

theorem witness_CommitRows_9 :
    (let correctable := true; let b : Block := (Block.alone (base)).start; (b.dev ≠ .off) ∧ (correctable = true))
    ∧ (let staged := true; let correctable := false; let b : Block := (Block.alone ({ runBase with commit := { state := 1 } })).start; let c : Block := if b.commit.state = 1 then b.refuseCommit 12 0 else b.cancelPending; (b.dev ≠ .off) ∧ (correctable = false) ∧ (staged = true))
    ∧ (let staged := false; let correctable := false; let b : Block := (Block.alone (base)).start; (b.dev ≠ .off) ∧ (correctable = false) ∧ (staged = false))
    ∧ (let p := 64; let b : Block := (Block.alone (base)).start; (b.dev ≠ .off) ∧ (64 ≤ p))
    ∧ (let p := 63; let b : Block := (Block.alone (base)).start; (b.dev ≠ .off) ∧ (p < 64) ∧ (¬ (b.partDefined p = true ∧ b.get BLT_PSTAT_STATE p = 5)))
    ∧ (let p := 3; let b : Block := (Block.alone (({ base with active := canonImage [(objKey 0x3003 1, [1]), (objKey 0x3003 3, leBytes 4 0x10000)] 0 } : Block).put BLT_PSTAT_MODE 1 3 |>.put BLT_PSTAT_STATE 5 3)).start; (b.dev ≠ .off) ∧ (p < 64) ∧ ((b.partDefined p = true ∧ b.get BLT_PSTAT_STATE p = 5)) ∧ (b.partPlaceOk p = false)) := by decide +kernel

theorem witness_CommitRows_10 :
    (let p := 3; let b : Block := (Block.alone (({ sail0 with active := canonImage [(objKey 0x3003 1, [1]), (objKey 0x3003 3, leBytes 4 0x10000), (objKey 0x8080 4, List.replicate 64 1)] 0 } : Block).put BLT_PSTAT_MODE 1 3 |>.put BLT_PSTAT_STATE 5 3)).start; (b.dev ≠ .off) ∧ (p < 64) ∧ ((b.partDefined p = true ∧ b.get BLT_PSTAT_STATE p = 5)) ∧ (b.partPlaceOk p = true) ∧ (b.digestOk p = false)) := by decide +kernel

theorem witness_CommitRows_11 :
    (let p := 3; let b : Block := (Block.alone (({ sail0 with active := canonImage [(objKey 0x3003 1, [1]), (objKey 0x3003 3, leBytes 4 0x10000)] 0 } : Block).put BLT_PSTAT_MODE 1 3 |>.put BLT_PSTAT_STATE 5 3)).start; let c : Block := (b.forL (List.range 3) fun r b => ((b.haltRepl p r).unbindRepl p r).unpinRepl p r).loadMeasured p; (b.dev ≠ .off) ∧ (p < 64) ∧ ((b.partDefined p = true ∧ b.get BLT_PSTAT_STATE p = 5)) ∧ (b.partPlaceOk p = true) ∧ (b.digestOk p = true)) := by decide +kernel

theorem witness_TrustAndDebug :
    (let path := 1; let src := 9; let b : Block := (Block.alone (runBase.modTrust fun t => { t with sessions := [(1, 9), (1, 8)] })).start; let c : Block := b.modTrust fun t => { t with sessions := t.sessions.filter (· ≠ (path, src)) }; (b.dev ≠ .off) ∧ (b.trust.sessions.contains (path, src) = true) ∧ (¬ (c.dev = .service ∧ c.trust.sessions.isEmpty = true))) := by decide +kernel

theorem witness_TrustAndDebug_2 :
    (let path := 1; let src := 9; let b : Block := (Block.alone (({ base with dev := .service } : Block).modTrust fun t => { t with sessions := [(1, 9)] })).start; let c : Block := b.modTrust fun t => { t with sessions := t.sessions.filter (· ≠ (path, src)) }; (b.dev ≠ .off) ∧ (b.trust.sessions.contains (path, src) = true) ∧ ((c.dev = .service ∧ c.trust.sessions.isEmpty = true))) := by decide +kernel

theorem witness_TrustAndDebug_3 :
    (let path := 1; let src := 9; let b : Block := (Block.alone (base)).start; (b.trust.sessions.contains (path, src) = false))
    ∧ (let path := 1; let src := 9; let b : Block := (Block.alone (base.modTrust fun t => { t with chals := [((1, 9), [3])] })).start; (b.dev ≠ .off))
    ∧ (let iface := 1; let b : Block := (Block.alone (base.modTrust fun t => { t with fails := [(1, (3, 5))] })).start; (b.dev ≠ .off))
    ∧ (let b : Block := (Block.alone (base)).start; let r : Bytes × Block := b.random32; (b.dev ≠ .off) ∧ ((b.govHalted = false ∧ b.lockedOut 0 = false)))
    ∧ (let b : Block := (Block.alone (base.modTrust fun t => { t with fails := [(0, (3, 5))] })).start; (¬ (b.govHalted = false ∧ b.lockedOut 0 = false)))
    ∧ (let b : Block := (Block.alone (base.modDbg fun d => { d with token := List.replicate 162 5 })).start; (b.dev ≠ .off)) := by decide +kernel

theorem witness_TrustAndDebug_4 :
    (let b : Block := (Block.alone (base.modDbg fun d => { d with chal := some (List.replicate 32 5), token := [5] })).start; let t : Bytes := b.trust.dbg.token; let n : Nat := leAt 38 1 t; let good : Bool := t.length = 164 && b.trust.dbg.chal = some (t.take 32) && slice 32 4 t = b.serialBytes && leAt 39 1 t = 0 && leAt 162 2 t = 0 && (n = 8 || (n = 9 && b.otp.consent)) && b.turn < leAt 40 8 t && (match b.slotKey n with | some k => edVerify k (t.take 48) (slice 48 114 t) | none => false); let c : Block := b.modDbg fun d => { d with chal := none, token := [] }; (b.dev ≠ .off) ∧ ((b.govHalted = false ∧ b.lockedOut 0 = false)) ∧ (good = false)) := by decide +kernel

theorem witness_TrustAndDebug_5 :
    (let b : Block := (Block.alone ((({ runBase with otp := { runBase.otp with slots := [(9, { digest := keyDig smallKey, programmed := true })], consent := true } } : Block).modTrust fun t => { t with keys := [(9, smallKey)] }).modDbg fun d => { d with chal := some (List.replicate 32 5), token := List.replicate 32 5 ++ List.replicate 4 0 ++ [0x1F, 0] ++ [9, 0] ++ [9, 0, 0, 0, 0, 0, 0, 0] ++ smallSig ++ [0, 0] })).start; let t : Bytes := b.trust.dbg.token; let n : Nat := leAt 38 1 t; let good : Bool := t.length = 164 && b.trust.dbg.chal = some (t.take 32) && slice 32 4 t = b.serialBytes && leAt 39 1 t = 0 && leAt 162 2 t = 0 && (n = 8 || (n = 9 && b.otp.consent)) && b.turn < leAt 40 8 t && (match b.slotKey n with | some k => edVerify k (t.take 48) (slice 48 114 t) | none => false); let c : Block := b.modDbg fun d => { d with chal := none, token := [] }; (b.dev ≠ .off) ∧ ((b.govHalted = false ∧ b.lockedOut 0 = false)) ∧ (good = true)) := by decide +kernel

theorem witness_TrustAndDebug_6 :
    (let b : Block := (Block.alone (base.modTrust fun t => { t with fails := [(0, (3, 5))] })).start; (¬ (b.govHalted = false ∧ b.lockedOut 0 = false)))
    ∧ (let b : Block := (Block.alone (({ sail0 with harts := [(0, { run := true, dbg := true, csr := [(0x7B0, 1), (0x7B1, 64)] }), (1, { run := true, trig := [(0, { d1 := 3 })] })] } : Block).modDbg fun d => { d with open' := true })).start; (b.dev ≠ .off) ∧ (b.trust.dbg.open' = true))
    ∧ (let b : Block := (Block.alone (base)).start; (b.trust.dbg.open' = false))
    ∧ (let sail := 0; let core := 0; let b : Block := (Block.alone ((hart0.put DBG_AUTHSTAT_SCOPE 31).modDbg fun d => { d with open' := true })).start; let h : Nat := sail * 32 + core; (b.dev ≠ .off) ∧ ((b.dbgHarts = true ∧ sail < 12 ∧ core < 16 ∧ b.executing h = true)))
    ∧ (let sail := 0; let core := 16; let b : Block := (Block.alone ((hart0.put DBG_AUTHSTAT_SCOPE 31).modDbg fun d => { d with open' := true })).start; let h : Nat := sail * 32 + core; (¬ (b.dbgHarts = true ∧ sail < 12 ∧ core < 16 ∧ b.executing h = true)))
    ∧ (let sail := 0; let core := 0; let n := 0; let w : Option Nat := none; let run := false; let b : Block := (Block.alone (base)).start; let h : Nat := sail * 32 + core; (b.dev ≠ .off) ∧ (b.dbgHarts = false)) := by decide +kernel

theorem witness_TrustAndDebug_7 :
    (let sail := 0; let core := 0; let n := 4160; let w : Option Nat := none; let run := true; let b : Block := (Block.alone ((({ sail0 with harts := [(0, { run := true, dbg := true })] } : Block).put DBG_AUTHSTAT_SCOPE 31).modDbg fun d => { d with open' := true })).start; let h : Nat := sail * 32 + core; (b.dev ≠ .off) ∧ (b.dbgHarts = true) ∧ ((b.hart h).dbg = true) ∧ (0x1040 ≤ n)) := by decide +kernel

theorem witness_TrustAndDebug_8 :
    (let sail := 0; let core := 0; let n := 4159; let w : Option Nat := none; let run := false; let b : Block := (Block.alone ((({ sail0 with harts := [(0, { run := true, dbg := true })] } : Block).put DBG_AUTHSTAT_SCOPE 31).modDbg fun d => { d with open' := true })).start; let h : Nat := sail * 32 + core; let v : Nat := (b.absRead h n).getD 0; let q : Block := (b.modDbg fun d => { d with data := v, cmdErr := 0 }).emit (.value v); (b.dev ≠ .off) ∧ (b.dbgHarts = true) ∧ ((b.hart h).dbg = true) ∧ (n < 0x1040) ∧ (w = none) ∧ (run = false)) := by decide +kernel

theorem witness_TrustAndDebug_9 :
    (let sail := 0; let core := 0; let n := 4101; let w : Option Nat := none; let run := true; let b : Block := (Block.alone (((({ sail0 with harts := [(0, { run := true, dbg := true })] } : Block).put DBG_AUTHSTAT_SCOPE 31).modDbg fun d => { d with open' := true }).modDbg fun d => { d with progbuf := [0x100073] })).start; let h : Nat := sail * 32 + core; let v : Nat := (b.absRead h n).getD 0; let q : Block := (b.modDbg fun d => { d with data := v, cmdErr := 0 }).emit (.value v); let p : Bool × Block := q.pbRun h q.trust.dbg.progbuf; (b.dev ≠ .off) ∧ (b.dbgHarts = true) ∧ ((b.hart h).dbg = true) ∧ (n < 0x1040) ∧ (w = none) ∧ (run = true) ∧ (p.1 = true)) := by decide +kernel

theorem witness_TrustAndDebug_10 :
    (let sail := 0; let core := 0; let n := 4101; let w : Option Nat := none; let run := true; let b : Block := (Block.alone (((({ sail0 with harts := [(0, { run := true, dbg := true })] } : Block).put DBG_AUTHSTAT_SCOPE 31).modDbg fun d => { d with open' := true }).modDbg fun d => { d with progbuf := [0] })).start; let h : Nat := sail * 32 + core; let v : Nat := (b.absRead h n).getD 0; let q : Block := (b.modDbg fun d => { d with data := v, cmdErr := 0 }).emit (.value v); let p : Bool × Block := q.pbRun h q.trust.dbg.progbuf; (b.dev ≠ .off) ∧ (b.dbgHarts = true) ∧ ((b.hart h).dbg = true) ∧ (n < 0x1040) ∧ (w = none) ∧ (run = true) ∧ (p.1 = false)) := by decide +kernel

theorem witness_TrustAndDebug_11 :
    (let sail := 0; let core := 0; let n := 4159; let w : Option Nat := some 7; let run := false; let v := 7; let b : Block := (Block.alone ((({ sail0 with harts := [(0, { run := true, dbg := true })] } : Block).put DBG_AUTHSTAT_SCOPE 31).modDbg fun d => { d with open' := true })).start; let h : Nat := sail * 32 + core; let q : Block := (b.absWrite h n v).modDbg fun d => { d with cmdErr := 0 }; (b.dev ≠ .off) ∧ (b.dbgHarts = true) ∧ ((b.hart h).dbg = true) ∧ (n < 0x1040) ∧ (w = some v) ∧ (run = false)) := by decide +kernel

theorem witness_TrustAndDebug_12 :
    (let sail := 0; let core := 0; let n := 4101; let w : Option Nat := some 7; let run := true; let v := 7; let b : Block := (Block.alone (((({ sail0 with harts := [(0, { run := true, dbg := true })] } : Block).put DBG_AUTHSTAT_SCOPE 31).modDbg fun d => { d with open' := true }).modDbg fun d => { d with progbuf := [0x100073] })).start; let h : Nat := sail * 32 + core; let q : Block := (b.absWrite h n v).modDbg fun d => { d with cmdErr := 0 }; let p : Bool × Block := q.pbRun h q.trust.dbg.progbuf; (b.dev ≠ .off) ∧ (b.dbgHarts = true) ∧ ((b.hart h).dbg = true) ∧ (n < 0x1040) ∧ (w = some v) ∧ (run = true) ∧ (p.1 = true)) := by decide +kernel

theorem witness_TrustAndDebug_13 :
    (let sail := 0; let core := 0; let n := 4101; let w : Option Nat := some 7; let run := true; let v := 7; let b : Block := (Block.alone (((({ sail0 with harts := [(0, { run := true, dbg := true })] } : Block).put DBG_AUTHSTAT_SCOPE 31).modDbg fun d => { d with open' := true }).modDbg fun d => { d with progbuf := [0] })).start; let h : Nat := sail * 32 + core; let q : Block := (b.absWrite h n v).modDbg fun d => { d with cmdErr := 0 }; let p : Bool × Block := q.pbRun h q.trust.dbg.progbuf; (b.dev ≠ .off) ∧ (b.dbgHarts = true) ∧ ((b.hart h).dbg = true) ∧ (n < 0x1040) ∧ (w = some v) ∧ (run = true) ∧ (p.1 = false)) := by decide +kernel

theorem witness_TrustAndDebug_14 :
    (let sail := 0; let core := 0; let pa := scratchBase + 0x1000000; let width := 8; let w : Option Nat := none; let b : Block := (Block.alone ((dramSail.put DBG_AUTHSTAT_SCOPE 31 |>.modDbg fun d => { d with open' := true }).put GOV_SAILSTAT_FUSED 1 1 |>.put GOV_SAILSTAT_STATE 0 1)).start; (b.dev ≠ .off) ∧ (b.scope 4 = true) ∧ (((width = 1 ∨ width = 2 ∨ width = 4 ∨ width = 8) ∧ pa % width = 0)) ∧ (b.decodePa pa = .scratch) ∧ (b.sailServes midDebug ((pa - scratchBase) / 0x1000000) = false)) := by decide +kernel

theorem witness_TrustAndDebug_15 :
    (let sail := 0; let core := 0; let pa := scratchBase; let width := 8; let w : Option Nat := some 7; let v := 7; let b : Block := (Block.alone ((dramSail.put DBG_AUTHSTAT_SCOPE 31 |>.modDbg fun d => { d with open' := true }))).start; (b.dev ≠ .off) ∧ (b.scope 4 = true) ∧ (((width = 1 ∨ width = 2 ∨ width = 4 ∨ width = 8) ∧ pa % width = 0)) ∧ (b.decodePa pa = .scratch) ∧ (b.sailServes midDebug ((pa - scratchBase) / 0x1000000) = true) ∧ (w = some v)) := by decide +kernel

theorem witness_TrustAndDebug_16 :
    (let sail := 0; let core := 0; let pa := scratchBase; let width := 8; let w : Option Nat := none; let b : Block := (Block.alone ((dramSail.put DBG_AUTHSTAT_SCOPE 31 |>.modDbg fun d => { d with open' := true }).scrWrite scratchBase (List.replicate 64 1) true)).start; (b.dev ≠ .off) ∧ (b.scope 4 = true) ∧ (((width = 1 ∨ width = 2 ∨ width = 4 ∨ width = 8) ∧ pa % width = 0)) ∧ (b.decodePa pa = .scratch) ∧ (b.sailServes midDebug ((pa - scratchBase) / 0x1000000) = true) ∧ (w = none) ∧ (((b.scrRead pa width).2.1 = true ∨ (b.scrRead pa width).2.2 = true))) := by decide +kernel

theorem witness_TrustAndDebug_17 :
    (let sail := 0; let core := 0; let pa := scratchBase; let width := 8; let w : Option Nat := none; let b : Block := (Block.alone ((dramSail.put DBG_AUTHSTAT_SCOPE 31 |>.modDbg fun d => { d with open' := true }).scrWrite scratchBase (List.replicate 64 1) false)).start; let x : Bytes := (b.scrRead pa width).1; (b.dev ≠ .off) ∧ (b.scope 4 = true) ∧ (((width = 1 ∨ width = 2 ∨ width = 4 ∨ width = 8) ∧ pa % width = 0)) ∧ (b.decodePa pa = .scratch) ∧ (b.sailServes midDebug ((pa - scratchBase) / 0x1000000) = true) ∧ (w = none) ∧ (¬ ((b.scrRead pa width).2.1 = true ∨ (b.scrRead pa width).2.2 = true))) := by decide +kernel

theorem witness_TrustAndDebug_18 :
    (let sail := 0; let core := 0; let pa := 0xE000000000; let width := 8; let w : Option Nat := none; let b : Block := (Block.alone ((dramSail.put DBG_AUTHSTAT_SCOPE 31 |>.modDbg fun d => { d with open' := true }))).start; (b.dev ≠ .off) ∧ (b.scope 4 = true) ∧ (((width = 1 ∨ width = 2 ∨ width = 4 ∨ width = 8) ∧ pa % width = 0)) ∧ (b.decodePa pa ≠ .scratch) ∧ (b.dramOk pa = false)) := by decide +kernel

theorem witness_TrustAndDebug_19 :
    (let sail := 0; let core := 0; let pa := 0x1000; let width := 8; let w : Option Nat := some 7; let v := 7; let b : Block := (Block.alone ((dramSail.put DBG_AUTHSTAT_SCOPE 31 |>.modDbg fun d => { d with open' := true }))).start; (b.dev ≠ .off) ∧ (b.scope 4 = true) ∧ (((width = 1 ∨ width = 2 ∨ width = 4 ∨ width = 8) ∧ pa % width = 0)) ∧ (b.decodePa pa ≠ .scratch) ∧ (b.dramOk pa = true) ∧ (w = some v)) := by decide +kernel

theorem witness_TrustAndDebug_20 :
    (let sail := 0; let core := 0; let pa := 0x1000; let width := 8; let w : Option Nat := none; let b : Block := (Block.alone ((dramSail.put DBG_AUTHSTAT_SCOPE 31 |>.modDbg fun d => { d with open' := true }).mcWrite 0 0 0x1000 0 true false)).start; let r : (Nat × Bool) × Block := b.readNat midDebug noPart pa width; (b.dev ≠ .off) ∧ (b.scope 4 = true) ∧ (((width = 1 ∨ width = 2 ∨ width = 4 ∨ width = 8) ∧ pa % width = 0)) ∧ (b.decodePa pa ≠ .scratch) ∧ (b.dramOk pa = true) ∧ (w = none) ∧ (r.1.2 = true)) := by decide +kernel

theorem witness_TrustAndDebug_21 :
    (let sail := 0; let core := 0; let pa := 0x1002; let width := 2; let w : Option Nat := none; let b : Block := (Block.alone ((dramSail.put DBG_AUTHSTAT_SCOPE 31 |>.modDbg fun d => { d with open' := true }).writeBytes 0 0 0x1000 [1, 2, 3])).start; let r : (Nat × Bool) × Block := b.readNat midDebug noPart pa width; (b.dev ≠ .off) ∧ (b.scope 4 = true) ∧ (((width = 1 ∨ width = 2 ∨ width = 4 ∨ width = 8) ∧ pa % width = 0)) ∧ (b.decodePa pa ≠ .scratch) ∧ (b.dramOk pa = true) ∧ (w = none) ∧ (r.1.2 = false)) := by decide +kernel

theorem witness_TrustAndDebug_22 :
    (let sail := 0; let core := 0; let n := 0; let w : Option Nat := none; let run := false; let b : Block := (Block.alone ((hart0.put DBG_AUTHSTAT_SCOPE 31).modDbg fun d => { d with open' := true })).start; let h : Nat := sail * 32 + core; (b.dev ≠ .off) ∧ (b.dbgHarts = true) ∧ ((b.hart h).dbg = false))
    ∧ (let sail := 0; let core := 0; let pa := 0; let width := 8; let w : Option Nat := none; let b : Block := (Block.alone (base)).start; (b.dev ≠ .off) ∧ (b.scope 4 = false))
    ∧ (let sail := 0; let core := 0; let pa := 0x1004; let width := 8; let w : Option Nat := none; let b : Block := (Block.alone ((dramSail.put DBG_AUTHSTAT_SCOPE 31 |>.modDbg fun d => { d with open' := true }))).start; (b.dev ≠ .off) ∧ (b.scope 4 = true) ∧ (¬ ((width = 1 ∨ width = 2 ∨ width = 4 ∨ width = 8) ∧ pa % width = 0)))
    ∧ (let sail := 0; let core := 0; let i := 0; let v := 0x100000005; let b : Block := (Block.alone (base)).start; (b.dev ≠ .off) ∧ (b.dbgHarts = false))
    ∧ (let sail := 0; let core := 0; let i := 8; let v := 0x100000005; let b : Block := (Block.alone ((({ sail0 with harts := [(0, { run := true, dbg := true })] } : Block).put DBG_AUTHSTAT_SCOPE 31).modDbg fun d => { d with open' := true })).start; (b.dev ≠ .off) ∧ (b.dbgHarts = true) ∧ (8 ≤ i))
    ∧ (let sail := 0; let core := 0; let i := 7; let v := 0x100000005; let b : Block := (Block.alone ((({ sail0 with harts := [(0, { run := true, dbg := true })] } : Block).put DBG_AUTHSTAT_SCOPE 31).modDbg fun d => { d with open' := true })).start; (b.dev ≠ .off) ∧ (b.dbgHarts = true) ∧ (i < 8)) := by decide +kernel

theorem witness_TrustAndDebug_23 :
    (let sail := 0; let core := 0; let i := 0; let d1 := 3; let d2 := 2 ^ 64 + 1; let b : Block := (Block.alone (base)).start; (b.dev ≠ .off) ∧ (b.dbgHarts = false))
    ∧ (let sail := 0; let core := 0; let i := 8; let d1 := 3; let d2 := 2 ^ 64 + 1; let b : Block := (Block.alone ((({ sail0 with harts := [(0, { run := true, dbg := true })] } : Block).put DBG_AUTHSTAT_SCOPE 31).modDbg fun d => { d with open' := true })).start; (b.dev ≠ .off) ∧ (b.dbgHarts = true) ∧ (8 ≤ i))
    ∧ (let sail := 0; let core := 0; let i := 7; let d1 := 3; let d2 := 2 ^ 64 + 1; let b : Block := (Block.alone ((({ sail0 with harts := [(0, { run := true, dbg := true })] } : Block).put DBG_AUTHSTAT_SCOPE 31).modDbg fun d => { d with open' := true })).start; (b.dev ≠ .off) ∧ (b.dbgHarts = true) ∧ (i < 8)) := by decide +kernel

theorem witness_Diagnostics :
    (let b : Block := (Block.alone (({ runBase with active := { recs := [(objKey 0x9100 1, [2])] } } : Block).put TRN_CFG_SYNCMODE 1 |>.put TRN_STATUS_RUNNING 1)).start; let c : Block := (b.modSvc (fun t => { t with syncLost := true })).note { code := 0x2912 }; (b.dev ≠ .off) ∧ ((b.actN 0x9100 1 = 2 ∧ b.svc.syncLost = false)))
    ∧ (let b : Block := (Block.alone (base)).start; (¬ (b.actN 0x9100 1 = 2 ∧ b.svc.syncLost = false)))
    ∧ (let b : Block := (Block.alone ({ runBase with active := { recs := [(objKey 0x4005 1, [1]), (objKey 0x9100 1, [1]), (objKey 0x9100 4, [32])] } }.put LVP_STATUS_STATE 4 5)).start; (b.dev ≠ .off) ∧ ((b.actN 0x9100 1 = 1 ∧ b.outputsOn = true)))
    ∧ (let b : Block := (Block.alone ({ base with active := { recs := [(objKey 0x9100 1, [1])] } })).start; (¬ (b.actN 0x9100 1 = 1 ∧ b.outputsOn = true)))
    ∧ (let b : Block := (Block.alone (base)).start; (¬ (b.actN 0x9200 1 = 1 ∧ b.dev ≠ .boot ∧ b.pwr.tripped = false)))
    ∧ (let conn := 4; let b : Block := (Block.alone (({ runBase with active := { recs := [(objKey 0x9200 1, [1]), (objKey 0x9200 3, [4])] } } : Block))).start; (b.dev ≠ .off) ∧ ((b.actN 0x9200 1 = 1 ∧ b.dev ≠ .boot ∧ b.pwr.tripped = false)) ∧ (b.doipOn conn = false)) := by decide +kernel

theorem witness_Diagnostics_2 :
    (let conn := 3; let req : Bytes := [3]; let b : Block := (Block.alone (({ runBase with active := { recs := [(objKey 0x9200 1, [1]), (objKey 0x9200 3, [4])] } } : Block).modConn 3 fun t => { t with active := true })).start; (b.dev ≠ .off) ∧ ((b.doipOn conn = true ∧ (b.conn conn).active = true)) ∧ (req.length = 1) ∧ ((subFn req = 1 ∨ subFn req = 3))) := by decide +kernel

theorem witness_Diagnostics_3 :
    (let conn := 3; let req : Bytes := [2]; let b : Block := (Block.alone (({ runBase with active := { recs := [(objKey 0x9200 1, [1]), (objKey 0x9200 3, [4])] } } : Block).modConn 3 fun t => { t with active := true })).start; let r : Nat × Block := b.request false (Block.serviceReq 0 (b.conn conn).tester); (b.dev ≠ .off) ∧ ((b.doipOn conn = true ∧ (b.conn conn).active = true)) ∧ (req.length = 1) ∧ (subFn req = 2) ∧ ((r.1 ≠ 0 ∨ r.2.govHalted = true))) := by decide +kernel

theorem witness_Diagnostics_4 :
    (let conn := 3; let req : Bytes := [2]; let b : Block := (Block.alone ({ (({ runBase with active := { recs := [(objKey 0x9200 1, [1]), (objKey 0x9200 3, [4])] } } : Block).modConn 3 fun t => { t with active := true }) with dev := .ready })).start; let r : Nat × Block := b.request false (Block.serviceReq 0 (b.conn conn).tester); (b.dev ≠ .off) ∧ ((b.doipOn conn = true ∧ (b.conn conn).active = true)) ∧ (req.length = 1) ∧ (subFn req = 2) ∧ (¬ (r.1 ≠ 0 ∨ r.2.govHalted = true))) := by decide +kernel

theorem witness_Diagnostics_5 :
    (let conn := 3; let req : Bytes := [4]; let b : Block := (Block.alone (({ runBase with active := { recs := [(objKey 0x9200 1, [1]), (objKey 0x9200 3, [4])] } } : Block).modConn 3 fun t => { t with active := true })).start; (b.dev ≠ .off) ∧ ((b.doipOn conn = true ∧ (b.conn conn).active = true)) ∧ (req.length = 1) ∧ (subFn req = 0 ∨ 3 < subFn req)) := by decide +kernel

theorem witness_Diagnostics_6 :
    (let conn := 3; let kind := 0xE0; let b : Block := (Block.alone (({ runBase with active := { recs := [(objKey 0x9200 1, [1]), (objKey 0x9200 3, [4])] } } : Block))).start; (b.dev ≠ .off) ∧ (b.doipOn conn = true) ∧ ((kind = 0 ∨ kind = 0xE0)))
    ∧ (let conn := 3; let kind := 1; let b : Block := (Block.alone (({ runBase with active := { recs := [(objKey 0x9200 1, [1]), (objKey 0x9200 3, [4])] } } : Block))).start; (b.dev ≠ .off) ∧ (b.doipOn conn = true) ∧ (kind ≠ 0) ∧ (kind ≠ 0xE0))
    ∧ (let conn := 3; let req : Bytes := []; let b : Block := (Block.alone (({ runBase with active := { recs := [(objKey 0x9200 1, [1]), (objKey 0x9200 3, [4])] } } : Block))).start; (¬ (b.doipOn conn = true ∧ (b.conn conn).active = true)))
    ∧ (let conn := 3; let req : Bytes := []; let b : Block := (Block.alone (({ runBase with active := { recs := [(objKey 0x9200 1, [1]), (objKey 0x9200 3, [4])] } } : Block).modConn 3 fun t => { t with active := true })).start; (b.dev ≠ .off) ∧ ((b.doipOn conn = true ∧ (b.conn conn).active = true)) ∧ (req.length ≠ 1))
    ∧ (let conn := 3; let req : Bytes := []; let b : Block := (Block.alone (({ runBase with active := { recs := [(objKey 0x9200 1, [1]), (objKey 0x9200 3, [4])] } } : Block))).start; (¬ (b.doipOn conn = true ∧ (b.conn conn).active = true)))
    ∧ (let conn := 3; let req : Bytes := []; let b : Block := (Block.alone (({ runBase with active := { recs := [(objKey 0x9200 1, [1]), (objKey 0x9200 3, [4])] } } : Block).modConn 3 fun t => { t with active := true })).start; (b.dev ≠ .off) ∧ ((b.doipOn conn = true ∧ (b.conn conn).active = true)) ∧ (req.length ≠ 1)) := by decide +kernel

theorem witness_Diagnostics_7 :
    (let conn := 3; let req : Bytes := [2]; let b : Block := (Block.alone (({ runBase with active := { recs := [(objKey 0x9200 1, [1]), (objKey 0x9200 3, [4])] } } : Block).modConn 3 fun t => { t with active := true })).start; (b.dev ≠ .off) ∧ ((b.doipOn conn = true ∧ (b.conn conn).active = true)) ∧ (req.length = 1) ∧ (subFn req ≠ 1)) := by decide +kernel

theorem witness_Diagnostics_8 :
    (let conn := 3; let req : Bytes := [1]; let b : Block := (Block.alone (({ runBase with active := { recs := [(objKey 0x9200 1, [1]), (objKey 0x9200 3, [4])] } } : Block).modConn 3 fun t => { t with active := true })).start; (b.dev ≠ .off) ∧ ((b.doipOn conn = true ∧ (b.conn conn).active = true)) ∧ (req.length = 1) ∧ (subFn req = 1) ∧ (¬ (b.dev = .service ∧ b.govHalted = false))) := by decide +kernel

theorem witness_Diagnostics_9 :
    (let conn := 3; let req : Bytes := [1]; let b : Block := (Block.alone ({ (({ runBase with active := { recs := [(objKey 0x9200 1, [1]), (objKey 0x9200 3, [4])] } } : Block).modConn 3 fun t => { t with active := true }) with dev := .service })).start; (b.dev ≠ .off) ∧ ((b.doipOn conn = true ∧ (b.conn conn).active = true)) ∧ (req.length = 1) ∧ (subFn req = 1) ∧ ((b.dev = .service ∧ b.govHalted = false))) := by decide +kernel

theorem witness_Diagnostics_10 :
    (let conn := 3; let req : Bytes := [1]; let b : Block := (Block.alone (({ runBase with active := { recs := [(objKey 0x9200 1, [1]), (objKey 0x9200 3, [4])] } } : Block).modConn 3 fun t => { t with active := true })).start; (b.dev ≠ .off) ∧ ((b.doipOn conn = true ∧ (b.conn conn).active = true)) ∧ (req.length = 1) ∧ (subFn req ≠ 0)) := by decide +kernel

theorem witness_Diagnostics_11 :
    (let conn := 3; let req : Bytes := [0]; let b : Block := (Block.alone (({ runBase with active := { recs := [(objKey 0x9200 1, [1]), (objKey 0x9200 3, [4])] } } : Block).modConn 3 fun t => { t with active := true })).start; (b.dev ≠ .off) ∧ ((b.doipOn conn = true ∧ (b.conn conn).active = true)) ∧ (req.length = 1) ∧ (subFn req = 0)) := by decide +kernel

theorem witness_Diagnostics_12 :
    (let conn := 3; let req : Bytes := []; let b : Block := (Block.alone (({ runBase with active := { recs := [(objKey 0x9200 1, [1]), (objKey 0x9200 3, [4])] } } : Block))).start; (¬ (b.doipOn conn = true ∧ (b.conn conn).active = true)))
    ∧ (let conn := 3; let req : Bytes := []; let b : Block := (Block.alone (({ runBase with active := { recs := [(objKey 0x9200 1, [1]), (objKey 0x9200 3, [4])] } } : Block).modConn 3 fun t => { t with active := true })).start; (b.dev ≠ .off) ∧ ((b.doipOn conn = true ∧ (b.conn conn).active = true)) ∧ (req.length ≠ 1))
    ∧ (let conn := 3; let b : Block := (Block.alone (({ runBase with active := { recs := [(objKey 0x9200 1, [1]), (objKey 0x9200 3, [4])] } } : Block))).start; (¬ (b.doipOn conn = true ∧ (b.conn conn).active = true)))
    ∧ (let conn := 3; let sid := 0x23; let b : Block := (Block.alone (({ runBase with active := { recs := [(objKey 0x9200 1, [1]), (objKey 0x9200 3, [4])] } } : Block).modConn 3 fun t => { t with active := true })).start; (b.dev ≠ .off) ∧ ((b.doipOn conn = true ∧ (b.conn conn).active = true)))
    ∧ (let conn := 3; let req : Bytes := []; let b : Block := (Block.alone (({ runBase with active := { recs := [(objKey 0x9200 1, [1]), (objKey 0x9200 3, [4])] } } : Block))).start; (¬ (b.doipOn conn = true ∧ (b.conn conn).active = true)))
    ∧ (let conn := 3; let req : Bytes := []; let b : Block := (Block.alone (({ runBase with active := { recs := [(objKey 0x9200 1, [1]), (objKey 0x9200 3, [4])] } } : Block).modConn 3 fun t => { t with active := true })).start; (b.dev ≠ .off) ∧ ((b.doipOn conn = true ∧ (b.conn conn).active = true)) ∧ (req.length ≠ 3)) := by decide +kernel

theorem witness_Diagnostics_13 :
    (let conn := 3; let req : Bytes := [0xFF, 0xFF, 0xFF]; let b : Block := (Block.alone (({ runBase with active := { recs := [(objKey 0x9200 1, [1]), (objKey 0x9200 3, [4])] } } : Block).modConn 3 fun t => { t with active := true })).start; (b.dev ≠ .off) ∧ ((b.doipOn conn = true ∧ (b.conn conn).active = true)) ∧ (req.length = 3) ∧ (beNat req = 0xFFFFFF)) := by decide +kernel

theorem witness_Diagnostics_14 :
    (let conn := 3; let req : Bytes := [0xD0, 0x28, 0x01]; let b : Block := (Block.alone (({ runBase with active := { recs := [(objKey 0x9200 1, [1]), (objKey 0x9200 3, [4])] } } : Block).modConn 3 fun t => { t with active := true })).start; (b.dev ≠ .off) ∧ ((b.doipOn conn = true ∧ (b.conn conn).active = true)) ∧ (req.length = 3) ∧ (beNat req / 65536 = 0xD0)) := by decide +kernel

theorem witness_Diagnostics_15 :
    (let conn := 3; let req : Bytes := [0xD1, 0x28, 0x01]; let b : Block := (Block.alone (({ runBase with active := { recs := [(objKey 0x9200 1, [1]), (objKey 0x9200 3, [4])] } } : Block).modConn 3 fun t => { t with active := true })).start; (b.dev ≠ .off) ∧ ((b.doipOn conn = true ∧ (b.conn conn).active = true)) ∧ (req.length = 3) ∧ (beNat req ≠ 0xFFFFFF) ∧ (beNat req / 65536 ≠ 0xD0)) := by decide +kernel

theorem witness_Diagnostics_16 :
    (let conn := 3; let req : Bytes := [1, 8]; let b : Block := (Block.alone ((({ runBase with active := { recs := [(objKey 0x9200 1, [1]), (objKey 0x9200 3, [4])] } } : Block).modConn 3 fun t => { t with active := true }).note { code := 0x2801 })).start; let l : List Nat := if bit (leAt 1 1 req) 3 = true then b.dtcs else []; (b.dev ≠ .off) ∧ ((b.doipOn conn = true ∧ (b.conn conn).active = true)) ∧ (req.length = 2) ∧ (subFn req = 1)) := by decide +kernel

theorem witness_Diagnostics_17 :
    (let conn := 3; let req : Bytes := [2, 8]; let b : Block := (Block.alone ((({ runBase with active := { recs := [(objKey 0x9200 1, [1]), (objKey 0x9200 3, [4])] } } : Block).modConn 3 fun t => { t with active := true }).note { code := 0x2801 })).start; let l : List Nat := if bit (leAt 1 1 req) 3 = true then b.dtcs else []; (b.dev ≠ .off) ∧ ((b.doipOn conn = true ∧ (b.conn conn).active = true)) ∧ (req.length = 2) ∧ (subFn req = 2)) := by decide +kernel

theorem witness_Diagnostics_18 :
    (let conn := 3; let req : Bytes := [10]; let b : Block := (Block.alone ((({ runBase with active := { recs := [(objKey 0x9200 1, [1]), (objKey 0x9200 3, [4])] } } : Block).modConn 3 fun t => { t with active := true }).note { code := 0x2801 })).start; (b.dev ≠ .off) ∧ ((b.doipOn conn = true ∧ (b.conn conn).active = true)) ∧ (req.length = 1) ∧ (subFn req = 10)) := by decide +kernel

theorem witness_Diagnostics_19 :
    (let conn := 3; let req : Bytes := [10, 8]; let b : Block := (Block.alone (({ runBase with active := { recs := [(objKey 0x9200 1, [1]), (objKey 0x9200 3, [4])] } } : Block).modConn 3 fun t => { t with active := true })).start; (b.dev ≠ .off) ∧ ((b.doipOn conn = true ∧ (b.conn conn).active = true)) ∧ (((subFn req = 1 ∨ subFn req = 2) ∧ req.length ≠ 2 ∨ subFn req = 10 ∧ req.length ≠ 1))) := by decide +kernel

theorem witness_Diagnostics_20 :
    (let conn := 3; let req : Bytes := [3]; let b : Block := (Block.alone (({ runBase with active := { recs := [(objKey 0x9200 1, [1]), (objKey 0x9200 3, [4])] } } : Block).modConn 3 fun t => { t with active := true })).start; (b.dev ≠ .off) ∧ ((b.doipOn conn = true ∧ (b.conn conn).active = true)) ∧ (subFn req ≠ 1) ∧ (subFn req ≠ 2) ∧ (subFn req ≠ 10)) := by decide +kernel

theorem witness_Diagnostics_21 :
    (let conn := 3; let req : Bytes := [1]; let b : Block := (Block.alone ((({ runBase with active := { recs := [(objKey 0x9200 1, [1]), (objKey 0x9200 3, [4])] } } : Block).modConn 3 fun t => { t with active := true }).modSvc fun t => { t with dtcOff := some 0 })).start; (b.dev ≠ .off) ∧ ((b.doipOn conn = true ∧ (b.conn conn).active = true)) ∧ (req ≠ []) ∧ (subFn req = 1)) := by decide +kernel

theorem witness_Diagnostics_22 :
    (let conn := 3; let req : Bytes := [3]; let b : Block := (Block.alone (({ runBase with active := { recs := [(objKey 0x9200 1, [1]), (objKey 0x9200 3, [4])] } } : Block).modConn 3 fun t => { t with active := true })).start; (b.dev ≠ .off) ∧ ((b.doipOn conn = true ∧ (b.conn conn).active = true)) ∧ (req ≠ []) ∧ (subFn req ≠ 1) ∧ (subFn req ≠ 2)) := by decide +kernel

theorem witness_Diagnostics_23 :
    (let conn := 3; let req : Bytes := [0xF1]; let b : Block := (Block.alone (({ runBase with active := { recs := [(objKey 0x9200 1, [1]), (objKey 0x9200 3, [4])] } } : Block).modConn 3 fun t => { t with active := true })).start; (b.dev ≠ .off) ∧ ((b.doipOn conn = true ∧ (b.conn conn).active = true)) ∧ (¬ (req ≠ [] ∧ req.length % 2 = 0))) := by decide +kernel

theorem witness_Diagnostics_24 :
    (let conn := 3; let req : Bytes := [0, 0]; let b : Block := (Block.alone (({ runBase with active := { recs := [(objKey 0x9200 1, [1]), (objKey 0x9200 3, [4])] } } : Block).modConn 3 fun t => { t with active := true })).start; let d : Bytes := b.dids (req.length / 2) req; (b.dev ≠ .off) ∧ ((b.doipOn conn = true ∧ (b.conn conn).active = true)) ∧ ((req ≠ [] ∧ req.length % 2 = 0)) ∧ (d = [])) := by decide +kernel

theorem witness_Diagnostics_25 :
    (let conn := 3; let req : Bytes := [0xF1, 0x89]; let b : Block := (Block.alone (({ runBase with active := { recs := [(objKey 0x9200 1, [1]), (objKey 0x9200 3, [4])] } } : Block).modConn 3 fun t => { t with active := true })).start; let d : Bytes := b.dids (req.length / 2) req; (b.dev ≠ .off) ∧ ((b.doipOn conn = true ∧ (b.conn conn).active = true)) ∧ ((req ≠ [] ∧ req.length % 2 = 0)) ∧ (d ≠ [])) := by decide +kernel

theorem witness_Diagnostics_26 :
    (let conn := 3; let req : Bytes := []; let b : Block := (Block.alone (({ runBase with active := { recs := [(objKey 0x9200 1, [1]), (objKey 0x9200 3, [4])] } } : Block))).start; (¬ (b.doipOn conn = true ∧ (b.conn conn).active = true)))
    ∧ (let conn := 3; let req : Bytes := []; let b : Block := (Block.alone (({ runBase with active := { recs := [(objKey 0x9200 1, [1]), (objKey 0x9200 3, [4])] } } : Block))).start; (¬ (b.doipOn conn = true ∧ (b.conn conn).active = true)))
    ∧ (let conn := 3; let req : Bytes := []; let b : Block := (Block.alone (({ runBase with active := { recs := [(objKey 0x9200 1, [1]), (objKey 0x9200 3, [4])] } } : Block).modConn 3 fun t => { t with active := true })).start; (b.dev ≠ .off) ∧ ((b.doipOn conn = true ∧ (b.conn conn).active = true)) ∧ (req = []))
    ∧ (let conn := 3; let req : Bytes := [2]; let b : Block := (Block.alone (({ runBase with active := { recs := [(objKey 0x9200 1, [1]), (objKey 0x9200 3, [4])] } } : Block).modConn 3 fun t => { t with active := true })).start; (b.dev ≠ .off) ∧ ((b.doipOn conn = true ∧ (b.conn conn).active = true)) ∧ (req ≠ []) ∧ (subFn req = 2))
    ∧ (let conn := 3; let req : Bytes := []; let b : Block := (Block.alone (({ runBase with active := { recs := [(objKey 0x9200 1, [1]), (objKey 0x9200 3, [4])] } } : Block))).start; (¬ (b.doipOn conn = true ∧ (b.conn conn).active = true)))
    ∧ (let conn := 3; let req : Bytes := []; let b : Block := (Block.alone (({ runBase with active := { recs := [(objKey 0x9200 1, [1]), (objKey 0x9200 3, [4])] } } : Block))).start; (¬ (b.doipOn conn = true ∧ (b.conn conn).active = true))) := by decide +kernel

theorem witness_Diagnostics_27 :
    (let conn := 3; let req : Bytes := [2, 0xF0, 0]; let b : Block := (Block.alone (({ runBase with active := { recs := [(objKey 0x9200 1, [1]), (objKey 0x9200 3, [4])] } } : Block).modConn 3 fun t => { t with active := true })).start; (b.dev ≠ .off) ∧ ((b.doipOn conn = true ∧ (b.conn conn).active = true)) ∧ (3 ≤ req.length) ∧ (subFn req ≠ 1)) := by decide +kernel

theorem witness_Diagnostics_28 :
    (let conn := 3; let req : Bytes := [1, 0xF0, 1]; let b : Block := (Block.alone (({ runBase with active := { recs := [(objKey 0x9200 1, [1]), (objKey 0x9200 3, [4])] } } : Block).modConn 3 fun t => { t with active := true })).start; (b.dev ≠ .off) ∧ ((b.doipOn conn = true ∧ (b.conn conn).active = true)) ∧ (3 ≤ req.length) ∧ (subFn req = 1) ∧ (beNat (slice 1 2 req) ≠ 0xF000)) := by decide +kernel

theorem witness_Diagnostics_29 :
    (let conn := 3; let req : Bytes := [1, 0xF0, 0]; let b : Block := (Block.alone (({ runBase with active := { recs := [(objKey 0x9200 1, [1]), (objKey 0x9200 3, [4])] } } : Block).modConn 3 fun t => { t with active := true })).start; (b.dev ≠ .off) ∧ ((b.doipOn conn = true ∧ (b.conn conn).active = true)) ∧ (3 ≤ req.length) ∧ (subFn req = 1) ∧ (beNat (slice 1 2 req) = 0xF000) ∧ (req.length ≠ 6)) := by decide +kernel

theorem witness_Diagnostics_30 :
    (let conn := 3; let req : Bytes := [1, 0xF0, 0, 0, 0x10, 0]; let b : Block := (Block.alone ({ ({ runBase with active := { recs := [(objKey 0x9200 1, [1]), (objKey 0x9200 3, [4])] } } : Block).modConn 3 fun t => { t with active := true } with govHalted := true })).start; let v : DictPath := b.udsPath conn; let idx : Nat := leAt 3 2 req; let sub : Nat := leAt 5 1 req; let q : (Nat × Bytes) × Block := b.objRead v idx sub false; (b.dev ≠ .off) ∧ ((b.doipOn conn = true ∧ (b.conn conn).active = true)) ∧ (req.length = 6) ∧ (subFn req = 1) ∧ (beNat (slice 1 2 req) = 0xF000) ∧ (b.granted v idx sub false ≠ .allowed)) := by decide +kernel

theorem witness_Diagnostics_31 :
    (let conn := 3; let req : Bytes := [1, 0xF0, 0, 0, 0x10, 0]; let b : Block := (Block.alone (({ runBase with active := { recs := [(objKey 0x9200 1, [1]), (objKey 0x9200 3, [4])] } } : Block).modConn 3 fun t => { t with active := true })).start; let v : DictPath := b.udsPath conn; let idx : Nat := leAt 3 2 req; let sub : Nat := leAt 5 1 req; let q : (Nat × Bytes) × Block := b.objRead v idx sub false; (b.dev ≠ .off) ∧ ((b.doipOn conn = true ∧ (b.conn conn).active = true)) ∧ (req.length = 6) ∧ (subFn req = 1) ∧ (beNat (slice 1 2 req) = 0xF000) ∧ (b.granted v idx sub false = .allowed) ∧ (q.1.1 = 0)) := by decide +kernel

theorem witness_Diagnostics_32 :
    (let conn := 3; let req : Bytes := [1, 0xF0, 0, 0xFF, 0xFF, 0]; let b : Block := (Block.alone (({ runBase with active := { recs := [(objKey 0x9200 1, [1]), (objKey 0x9200 3, [4])] } } : Block).modConn 3 fun t => { t with active := true })).start; let v : DictPath := b.udsPath conn; let idx : Nat := leAt 3 2 req; let sub : Nat := leAt 5 1 req; let q : (Nat × Bytes) × Block := b.objRead v idx sub false; (b.dev ≠ .off) ∧ ((b.doipOn conn = true ∧ (b.conn conn).active = true)) ∧ (req.length = 6) ∧ (subFn req = 1) ∧ (beNat (slice 1 2 req) = 0xF000) ∧ (b.granted v idx sub false = .allowed) ∧ (q.1.1 ≠ 0)) := by decide +kernel

theorem witness_Diagnostics_33 :
    (let conn := 3; let req : Bytes := []; let b : Block := (Block.alone (({ runBase with active := { recs := [(objKey 0x9200 1, [1]), (objKey 0x9200 3, [4])] } } : Block).modConn 3 fun t => { t with active := true })).start; (b.dev ≠ .off) ∧ ((b.doipOn conn = true ∧ (b.conn conn).active = true)) ∧ (¬ (b.govHalted = false ∧ req ≠ []))) := by decide +kernel

theorem witness_Diagnostics_34 :
    (let conn := 3; let req : Bytes := [6]; let b : Block := (Block.alone ((({ runBase with active := { recs := [(objKey 0x9200 1, [1]), (objKey 0x9200 3, [4])] } } : Block).modConn 3 fun t => { t with active := true }).modTrust fun t => { t with fails := [(7, (3, 5))] })).start; (b.dev ≠ .off) ∧ ((b.doipOn conn = true ∧ (b.conn conn).active = true)) ∧ ((b.govHalted = false ∧ req ≠ [])) ∧ ((subFn req = 5 ∨ subFn req = 6)) ∧ (b.lockedOut (failKey 0) = true)) := by decide +kernel

theorem witness_Diagnostics_35 :
    (let conn := 3; let req : Bytes := [5]; let b : Block := (Block.alone (({ runBase with active := { recs := [(objKey 0x9200 1, [1]), (objKey 0x9200 3, [4])] } } : Block).modConn 3 fun t => { t with active := true })).start; let q : Bytes × Block := b.challenge (b.udsPath conn); (b.dev ≠ .off) ∧ ((b.doipOn conn = true ∧ (b.conn conn).active = true)) ∧ ((b.govHalted = false ∧ req ≠ [])) ∧ (subFn req = 5) ∧ (b.lockedOut (failKey 0) = false)) := by decide +kernel

theorem witness_Diagnostics_36 :
    (let conn := 3; let req : Bytes := [6, 1]; let b : Block := (Block.alone (({ runBase with active := { recs := [(objKey 0x9200 1, [1]), (objKey 0x9200 3, [4])] } } : Block).modConn 3 fun t => { t with active := true })).start; let q : Nat × Block := b.sessionResp (b.udsPath conn) (req.drop 1); (b.dev ≠ .off) ∧ ((b.doipOn conn = true ∧ (b.conn conn).active = true)) ∧ ((b.govHalted = false ∧ req ≠ [])) ∧ (subFn req = 6) ∧ (b.lockedOut (failKey 0) = false) ∧ (q.1 ≠ 0)) := by decide +kernel

theorem witness_Diagnostics_37 :
    (let conn := 3; let req : Bytes := [6] ++ smallSig; let b : Block := (Block.alone ((({ (({ runBase with active := { recs := [(objKey 0x9200 1, [1]), (objKey 0x9200 3, [4])] } } : Block).modConn 3 fun t => { t with active := true }) with otp := { base.otp with slots := [(7, { digest := keyDig smallKey, programmed := true })] } } : Block).modTrust fun t => { t with keys := [(7, smallKey)], chals := [((0, 0), [3])] }))).start; let q : Nat × Block := b.sessionResp (b.udsPath conn) (req.drop 1); (b.dev ≠ .off) ∧ ((b.doipOn conn = true ∧ (b.conn conn).active = true)) ∧ ((b.govHalted = false ∧ req ≠ [])) ∧ (subFn req = 6) ∧ (b.lockedOut (failKey 0) = false) ∧ (q.1 = 0)) := by decide +kernel

theorem witness_Diagnostics_38 :
    (let conn := 3; let req : Bytes := [0]; let b : Block := (Block.alone ((({ runBase with active := { recs := [(objKey 0x9200 1, [1]), (objKey 0x9200 3, [4])] } } : Block).modConn 3 fun t => { t with active := true }).modTrust fun t => { t with sessions := [(0, 0)] })).start; (b.dev ≠ .off) ∧ ((b.doipOn conn = true ∧ (b.conn conn).active = true)) ∧ ((b.govHalted = false ∧ req ≠ [])) ∧ (subFn req = 0)) := by decide +kernel

theorem witness_Diagnostics_39 :
    (let conn := 3; let req : Bytes := [1]; let b : Block := (Block.alone (({ runBase with active := { recs := [(objKey 0x9200 1, [1]), (objKey 0x9200 3, [4])] } } : Block).modConn 3 fun t => { t with active := true })).start; (b.dev ≠ .off) ∧ ((b.doipOn conn = true ∧ (b.conn conn).active = true)) ∧ ((b.govHalted = false ∧ req ≠ [])) ∧ (subFn req ≠ 0) ∧ (subFn req ≠ 5) ∧ (subFn req ≠ 6)) := by decide +kernel

theorem witness_Diagnostics_40 :
    (let conn := 3; let req : Bytes := []; let b : Block := (Block.alone ({ ({ runBase with active := { recs := [(objKey 0x9200 1, [1]), (objKey 0x9200 3, [4])] } } : Block).modConn 3 fun t => { t with active := true } with govHalted := true })).start; (b.dev ≠ .off) ∧ ((b.doipOn conn = true ∧ (b.conn conn).active = true)) ∧ (b.govHalted = true)) := by decide +kernel

theorem witness_Diagnostics_41 :
    (let conn := 3; let req : Bytes := []; let b : Block := (Block.alone ((({ runBase with active := { recs := [(objKey 0x9200 1, [1]), (objKey 0x9200 3, [4])] } } : Block).modConn 3 fun t => { t with active := true }).modTrust fun t => { t with upload := some (1, 9, []) })).start; let q : Nat × Block := b.uploadStart (0, (b.conn conn).tester); (b.dev ≠ .off) ∧ ((b.doipOn conn = true ∧ (b.conn conn).active = true)) ∧ (b.govHalted = false) ∧ (q.1 ≠ 0)) := by decide +kernel

theorem witness_Diagnostics_42 :
    (let conn := 3; let req : Bytes := []; let b : Block := (Block.alone (({ runBase with active := { recs := [(objKey 0x9200 1, [1]), (objKey 0x9200 3, [4])] } } : Block).modConn 3 fun t => { t with active := true })).start; let q : Nat × Block := b.uploadStart (0, (b.conn conn).tester); (b.dev ≠ .off) ∧ ((b.doipOn conn = true ∧ (b.conn conn).active = true)) ∧ (b.govHalted = false) ∧ (q.1 = 0)) := by decide +kernel

theorem witness_Diagnostics_43 :
    (let conn := 3; let req : Bytes := [2]; let k := 1; let b : Block := (Block.alone (({ runBase with active := { recs := [(objKey 0x9200 1, [1]), (objKey 0x9200 3, [4])] } } : Block).modConn 3 fun t => { t with active := true, block := some 1 })).start; (b.dev ≠ .off) ∧ ((b.doipOn conn = true ∧ (b.conn conn).active = true)) ∧ ((b.conn conn).block = some k) ∧ (leAt 0 1 req ≠ k)) := by decide +kernel

theorem witness_Diagnostics_44 :
    (let conn := 3; let req : Bytes := [1, 5]; let k := 1; let b : Block := (Block.alone (({ runBase with active := { recs := [(objKey 0x9200 1, [1]), (objKey 0x9200 3, [4])] } } : Block).modConn 3 fun t => { t with active := true, block := some 1 })).start; let q : Nat × Block := b.uploadData (0, (b.conn conn).tester) b.uploaded (req.drop 1); (b.dev ≠ .off) ∧ ((b.doipOn conn = true ∧ (b.conn conn).active = true)) ∧ ((b.conn conn).block = some k) ∧ (leAt 0 1 req = k) ∧ (q.1 ≠ 0)) := by decide +kernel

theorem witness_Diagnostics_45 :
    (let conn := 3; let req : Bytes := [255, 5]; let k := 255; let b : Block := (Block.alone ((({ runBase with active := { recs := [(objKey 0x9200 1, [1]), (objKey 0x9200 3, [4])] } } : Block).modConn 3 fun t => { t with active := true, block := some 255 }).modTrust fun t => { t with upload := some (0, 0, [1]) })).start; let q : Nat × Block := b.uploadData (0, (b.conn conn).tester) b.uploaded (req.drop 1); (b.dev ≠ .off) ∧ ((b.doipOn conn = true ∧ (b.conn conn).active = true)) ∧ ((b.conn conn).block = some k) ∧ (leAt 0 1 req = k) ∧ (q.1 = 0)) := by decide +kernel

theorem witness_Diagnostics_46 :
    (let conn := 3; let req : Bytes := [1, 0xF0]; let b : Block := (Block.alone (({ runBase with active := { recs := [(objKey 0x9200 1, [1]), (objKey 0x9200 3, [4])] } } : Block).modConn 3 fun t => { t with active := true })).start; (b.dev ≠ .off) ∧ ((b.doipOn conn = true ∧ (b.conn conn).active = true)) ∧ (req.length < 3))
    ∧ (let conn := 3; let req : Bytes := []; let b : Block := (Block.alone (({ runBase with active := { recs := [(objKey 0x9200 1, [1]), (objKey 0x9200 3, [4])] } } : Block))).start; (¬ (b.doipOn conn = true ∧ (b.conn conn).active = true)))
    ∧ (let conn := 3; let req : Bytes := []; let b : Block := (Block.alone (({ runBase with active := { recs := [(objKey 0x9200 1, [1]), (objKey 0x9200 3, [4])] } } : Block))).start; (¬ (b.doipOn conn = true ∧ (b.conn conn).active = true)))
    ∧ (let conn := 3; let req : Bytes := []; let b : Block := (Block.alone (({ runBase with active := { recs := [(objKey 0x9200 1, [1]), (objKey 0x9200 3, [4])] } } : Block))).start; (¬ (b.doipOn conn = true ∧ (b.conn conn).active = true)))
    ∧ (let conn := 3; let req : Bytes := [1]; let b : Block := (Block.alone (({ runBase with active := { recs := [(objKey 0x9200 1, [1]), (objKey 0x9200 3, [4])] } } : Block).modConn 3 fun t => { t with active := true })).start; (b.dev ≠ .off) ∧ ((b.doipOn conn = true ∧ (b.conn conn).active = true)) ∧ ((b.conn conn).block = none))
    ∧ (let conn := 3; let req : Bytes := []; let b : Block := (Block.alone (({ runBase with active := { recs := [(objKey 0x9200 1, [1]), (objKey 0x9200 3, [4])] } } : Block))).start; (¬ (b.doipOn conn = true ∧ (b.conn conn).active = true))) := by decide +kernel

theorem witness_Diagnostics_47 :
    (let conn := 3; let req : Bytes := []; let b : Block := (Block.alone (({ runBase with active := { recs := [(objKey 0x9200 1, [1]), (objKey 0x9200 3, [4])] } } : Block).modConn 3 fun t => { t with active := true })).start; (b.dev ≠ .off) ∧ ((b.doipOn conn = true ∧ (b.conn conn).active = true)) ∧ (¬ ((b.conn conn).block ≠ none ∧ b.govHalted = false))) := by decide +kernel

theorem witness_Diagnostics_48 :
    (let conn := 3; let req : Bytes := []; let b : Block := (Block.alone ((({ (({ runBase with active := { recs := [(objKey 0x9200 1, [1]), (objKey 0x9200 3, [4])] } } : Block).modConn 3 fun t => { t with active := true, block := some 1 }) with otp := { base.otp with slots := [(0, { digest := keyDig smallKey, programmed := true })] } } : Block).modTrust fun t => { t with upload := some (0, 0, smallBundle) }))).start; let q : Nat × Block := (b.modConn conn fun t => { t with block := none }).uploadEnd; (b.dev ≠ .off) ∧ ((b.doipOn conn = true ∧ (b.conn conn).active = true)) ∧ (((b.conn conn).block ≠ none ∧ b.govHalted = false)) ∧ (q.1 = 0)) := by decide +kernel

theorem witness_Diagnostics_49 :
    (let conn := 3; let req : Bytes := []; let b : Block := (Block.alone ((({ runBase with active := { recs := [(objKey 0x9200 1, [1]), (objKey 0x9200 3, [4])] } } : Block).modConn 3 fun t => { t with active := true, block := some 1 }).modTrust fun t => { t with upload := some (0, 0, [1]) })).start; let q : Nat × Block := (b.modConn conn fun t => { t with block := none }).uploadEnd; (b.dev ≠ .off) ∧ ((b.doipOn conn = true ∧ (b.conn conn).active = true)) ∧ (((b.conn conn).block ≠ none ∧ b.govHalted = false)) ∧ (q.1 ≠ 0)) := by decide +kernel

theorem witness_RegisterAccess :
    (let mid := 3; let part : Option Nat := none; let addr := scratchBase + 0x1000000; let width := 8; let b : Block := (Block.alone (dramSail)).start; let q : Block := (b.arrives (.ioRd mid part addr width)).2; (b.dev ≠ .off) ∧ ((b.arrives (.ioRd mid part addr width)).1 = true) ∧ ((q.decodePa addr = .reserved ∨ q.decodePa addr = .scratch ∧ q.sailOpen mid scratchBase addr = false ∨ q.decodePa addr = .sailCtl ∧ q.sailOpen mid sailCtl addr = false))) := by decide +kernel

theorem witness_RegisterAccess_2 :
    (let mid := 3; let part : Option Nat := none; let addr := scratchBase; let width := 3; let b : Block := (Block.alone (dramSail)).start; let q : Block := (b.arrives (.ioRd mid part addr width)).2; (b.dev ≠ .off) ∧ ((b.arrives (.ioRd mid part addr width)).1 = true) ∧ ((q.decodePa addr = .dram ∨ q.decodePa addr = .pcie ∧ q.debugMay mid false false = false ∨ q.decodePa addr = .scratch ∧ q.sailOpen mid scratchBase addr = true ∧ (okWidth addr width = false ∨ q.debugMay mid false false = false) ∨ q.decodePa addr = .sailCtl ∧ q.sailOpen mid sailCtl addr = true ∧ q.debugMay mid true false = false ∨ q.decodePa addr = .hubCtl ∧ q.debugMay mid true false = false ∨ q.decodePa addr = .govWin ∧ (q.govHalted = true ∨ okWidth addr width = false ∨ q.govWindow (addr - 0xFFF0000000) width = none)))) := by decide +kernel

theorem witness_RegisterAccess_3 :
    (let mid := 0x190; let part : Option Nat := none; let addr := 0x8000000000; let width := 8; let b : Block := (Block.alone (base.put PCI_SSTAT_STATE 2 0)).start; let q : Block := (b.arrives (.ioRd mid part addr width)).2; (b.dev ≠ .off) ∧ ((b.arrives (.ioRd mid part addr width)).1 = true) ∧ (q.decodePa addr = .pcie) ∧ (q.debugMay mid false false = true)) := by decide +kernel

theorem witness_RegisterAccess_4 :
    (let mid := 3; let part : Option Nat := none; let addr := scratchBase + 8; let width := 8; let b : Block := (Block.alone (dramSail.scrWrite scratchBase (List.replicate 64 1) true)).start; let q : Block := (b.arrives (.ioRd mid part addr width)).2; (b.dev ≠ .off) ∧ ((b.arrives (.ioRd mid part addr width)).1 = true) ∧ (q.decodePa addr = .scratch) ∧ (q.sailOpen mid scratchBase addr = true) ∧ (okWidth addr width = true) ∧ (q.debugMay mid false false = true)) := by decide +kernel

theorem witness_RegisterAccess_5 :
    (let mid := 0x190; let part : Option Nat := none; let addr := 0xFFF0000000; let width := 2; let v : Bytes := (base.note { code := 0x0004 }).govWindow 0 2 |>.getD []; let b : Block := (Block.alone (base.note { code := 0x0004 })).start; let q : Block := (b.arrives (.ioRd mid part addr width)).2; (b.dev ≠ .off) ∧ ((b.arrives (.ioRd mid part addr width)).1 = true) ∧ (q.decodePa addr = .govWin) ∧ (q.govHalted = false) ∧ (okWidth addr width = true) ∧ (q.govWindow (addr - 0xFFF0000000) width = some v)) := by decide +kernel

theorem witness_RegisterAccess_6 :
    (let mid := 0x190; let part : Option Nat := none; let addr := mbxBase + 0x30000; let width := 4; let v := 0x190; let b : Block := (Block.alone (dramSail)).start; let q : Block := (b.arrives (.ioRd mid part addr width)).2; let r : Option Nat × Block := q.mbxRead mid part (addr - mbxBase) width; (b.dev ≠ .off) ∧ ((b.arrives (.ioRd mid part addr width)).1 = true) ∧ (((q.decodePa addr = .hubCtl ∨ q.decodePa addr = .sailCtl ∧ q.sailOpen mid sailCtl addr = true) ∧ q.debugMay mid true false = true)) ∧ ((mbxBase ≤ addr ∧ addr < mbxBase + 0x200000)) ∧ (r.1 = some v)) := by decide +kernel

theorem witness_RegisterAccess_7 :
    (let mid := 0x190; let part : Option Nat := none; let addr := mbxBase + 0x30000; let width := 8; let b : Block := (Block.alone (dramSail)).start; let q : Block := (b.arrives (.ioRd mid part addr width)).2; let r : Option Nat × Block := q.mbxRead mid part (addr - mbxBase) width; (b.dev ≠ .off) ∧ ((b.arrives (.ioRd mid part addr width)).1 = true) ∧ (((q.decodePa addr = .hubCtl ∨ q.decodePa addr = .sailCtl ∧ q.sailOpen mid sailCtl addr = true) ∧ q.debugMay mid true false = true)) ∧ ((mbxBase ≤ addr ∧ addr < mbxBase + 0x200000)) ∧ (r.1 = none)) := by decide +kernel

theorem witness_RegisterAccess_8 :
    (let mid := 3; let part : Option Nat := none; let addr := sailCtl + 0x800000; let width := 4; let b : Block := (Block.alone (dramSail)).start; let q : Block := (b.arrives (.ioRd mid part addr width)).2; (b.dev ≠ .off) ∧ ((b.arrives (.ioRd mid part addr width)).1 = true) ∧ (((q.decodePa addr = .hubCtl ∨ q.decodePa addr = .sailCtl ∧ q.sailOpen mid sailCtl addr = true) ∧ q.debugMay mid true false = true)) ∧ (¬ (mbxBase ≤ addr ∧ addr < mbxBase + 0x200000)) ∧ (fileOf addr ≠ none) ∧ ((width = 4 ∧ addr % 4 = 0))) := by decide +kernel

theorem witness_RegisterAccess_9 :
    (let mid := 3; let part : Option Nat := none; let addr := sailCtl + 0x800000; let width := 8; let b : Block := (Block.alone (dramSail)).start; let q : Block := (b.arrives (.ioRd mid part addr width)).2; (b.dev ≠ .off) ∧ ((b.arrives (.ioRd mid part addr width)).1 = true) ∧ (((q.decodePa addr = .hubCtl ∨ q.decodePa addr = .sailCtl ∧ q.sailOpen mid sailCtl addr = true) ∧ q.debugMay mid true false = true)) ∧ (¬ (mbxBase ≤ addr ∧ addr < mbxBase + 0x200000)) ∧ (fileOf addr ≠ none) ∧ (¬ (width = 4 ∧ addr % 4 = 0))) := by decide +kernel

theorem witness_RegisterAccess_10 :
    (let mid := 0x190; let part : Option Nat := none; let addr := iotBase + 0x18; let width := 8; let b : Block := (Block.alone (base.iotS 0x18 5)).start; let q : Block := (b.arrives (.ioRd mid part addr width)).2; (b.dev ≠ .off) ∧ ((b.arrives (.ioRd mid part addr width)).1 = true) ∧ (((q.decodePa addr = .hubCtl ∨ q.decodePa addr = .sailCtl ∧ q.sailOpen mid sailCtl addr = true) ∧ q.debugMay mid true false = true)) ∧ (¬ (mbxBase ≤ addr ∧ addr < mbxBase + 0x200000)) ∧ (fileOf addr = none) ∧ ((iotBase < addr ∧ addr < iotBase + 0x1000)) ∧ (iotWidth (addr - iotBase) = width)) := by decide +kernel

theorem witness_RegisterAccess_11 :
    (let mid := 0x190; let part : Option Nat := none; let addr := iotBase + 0x18; let width := 4; let b : Block := (Block.alone (dramSail)).start; let q : Block := (b.arrives (.ioRd mid part addr width)).2; (b.dev ≠ .off) ∧ ((b.arrives (.ioRd mid part addr width)).1 = true) ∧ (((q.decodePa addr = .hubCtl ∨ q.decodePa addr = .sailCtl ∧ q.sailOpen mid sailCtl addr = true) ∧ q.debugMay mid true false = true)) ∧ (¬ (mbxBase ≤ addr ∧ addr < mbxBase + 0x200000)) ∧ (fileOf addr = none) ∧ ((iotBase < addr ∧ addr < iotBase + 0x1000)) ∧ (¬ iotWidth (addr - iotBase) = width)) := by decide +kernel

theorem witness_RegisterAccess_12 :
    (let mid := 0x190; let part : Option Nat := none; let addr := 0xF000604400; let width := 4; let b : Block := (Block.alone (dramSail)).start; let q : Block := (b.arrives (.ioRd mid part addr width)).2; (b.dev ≠ .off) ∧ ((b.arrives (.ioRd mid part addr width)).1 = true) ∧ (((q.decodePa addr = .hubCtl ∨ q.decodePa addr = .sailCtl ∧ q.sailOpen mid sailCtl addr = true) ∧ q.debugMay mid true false = true)) ∧ (¬ (mbxBase ≤ addr ∧ addr < mbxBase + 0x200000)) ∧ (fileOf addr = none) ∧ (¬ (iotBase < addr ∧ addr < iotBase + 0x1000)) ∧ ((match regAt addr Reg.all with | some (r, _) => decide (r.desc.width = 8 * width) | none => false) = false)) := by decide +kernel

theorem witness_RegisterAccess_13 :
    (let mid := 0x190; let part : Option Nat := none; let addr := 0xF000604400; let width := 8; let i := 0; let j := 0; let k := 0; let r : Reg := .PCI_IWS0; let v := 5; let b : Block := (Block.alone (base.setR .PCI_IWS0 5)).start; let q : Block := (b.arrives (.ioRd mid part addr width)).2; (b.dev ≠ .off) ∧ ((b.arrives (.ioRd mid part addr width)).1 = true) ∧ (((q.decodePa addr = .hubCtl ∨ q.decodePa addr = .sailCtl ∧ q.sailOpen mid sailCtl addr = true) ∧ q.debugMay mid true false = true)) ∧ (¬ (mbxBase ≤ addr ∧ addr < mbxBase + 0x200000)) ∧ (fileOf addr = none) ∧ (¬ (iotBase < addr ∧ addr < iotBase + 0x1000)) ∧ (regAt addr Reg.all = some (r, i, j, k)) ∧ (r.desc.width = 8 * width) ∧ (q.regRead part r i j k = some v)) := by decide +kernel

theorem witness_RegisterAccess_14 :
    (let mid := 3; let part : Option Nat := none; let addr := 0xF000020018; let width := 8; let i := 0; let j := 0; let k := 0; let r : Reg := .BLT_PSEALTURN; let b : Block := (Block.alone (dramSail)).start; let q : Block := (b.arrives (.ioRd mid part addr width)).2; (b.dev ≠ .off) ∧ ((b.arrives (.ioRd mid part addr width)).1 = true) ∧ (((q.decodePa addr = .hubCtl ∨ q.decodePa addr = .sailCtl ∧ q.sailOpen mid sailCtl addr = true) ∧ q.debugMay mid true false = true)) ∧ (¬ (mbxBase ≤ addr ∧ addr < mbxBase + 0x200000)) ∧ (fileOf addr = none) ∧ (¬ (iotBase < addr ∧ addr < iotBase + 0x1000)) ∧ (regAt addr Reg.all = some (r, i, j, k)) ∧ (r.desc.width = 8 * width) ∧ (q.regRead part r i j k = none)) := by decide +kernel

theorem witness_RegisterAccess_15 :
    (let mid := 3; let part : Option Nat := none; let addr := 0xF000604400; let width := 8; let value := 7; let b : Block := (Block.alone ({ sail0 with net := { landed := [.ioReq 3 none 0xF000604400 8 (some 7)] } })).start; let q : Block := (b.arrives (.ioWr mid part addr width value)).2; (b.dev ≠ .off) ∧ ((b.arrives (.ioWr mid part addr width value)).1 = false)) := by decide +kernel

theorem witness_RegisterAccess_16 :
    (let mid := 3; let part : Option Nat := none; let addr := scratchBase + 0x1000000; let width := 8; let value := 7; let b : Block := (Block.alone (dramSail)).start; let q : Block := (b.arrives (.ioWr mid part addr width value)).2; (b.dev ≠ .off) ∧ ((b.arrives (.ioWr mid part addr width value)).1 = true) ∧ ((q.decodePa addr = .reserved ∨ q.decodePa addr = .scratch ∧ q.sailOpen mid scratchBase addr = false ∨ q.decodePa addr = .sailCtl ∧ q.sailOpen mid sailCtl addr = false))) := by decide +kernel

theorem witness_RegisterAccess_17 :
    (let mid := 3; let part : Option Nat := none; let addr := scratchBase; let width := 3; let value := 7; let b : Block := (Block.alone (dramSail)).start; let q : Block := (b.arrives (.ioWr mid part addr width value)).2; (b.dev ≠ .off) ∧ ((b.arrives (.ioWr mid part addr width value)).1 = true) ∧ ((q.decodePa addr = .dram ∨ q.decodePa addr = .pcie ∧ q.debugMay mid false true = false ∨ q.decodePa addr = .scratch ∧ q.sailOpen mid scratchBase addr = true ∧ (okWidth addr width = false ∨ q.debugMay mid false true = false) ∨ q.decodePa addr = .sailCtl ∧ q.sailOpen mid sailCtl addr = true ∧ q.debugMay mid true true = false ∨ q.decodePa addr = .hubCtl ∧ q.debugMay mid true true = false ∨ q.decodePa addr = .govWin))) := by decide +kernel

theorem witness_RegisterAccess_18 :
    (let mid := 0x190; let part : Option Nat := none; let addr := 0x8000000000; let width := 8; let value := 7; let b : Block := (Block.alone (base.put PCI_SSTAT_STATE 2 0)).start; let q : Block := (b.arrives (.ioWr mid part addr width value)).2; (b.dev ≠ .off) ∧ ((b.arrives (.ioWr mid part addr width value)).1 = true) ∧ (q.decodePa addr = .pcie) ∧ (q.debugMay mid false true = true)) := by decide +kernel

theorem witness_RegisterAccess_19 :
    (let mid := 3; let part : Option Nat := none; let addr := scratchBase + 8; let width := 8; let value := 7; let b : Block := (Block.alone (dramSail)).start; let q : Block := (b.arrives (.ioWr mid part addr width value)).2; (b.dev ≠ .off) ∧ ((b.arrives (.ioWr mid part addr width value)).1 = true) ∧ (q.decodePa addr = .scratch) ∧ (q.sailOpen mid scratchBase addr = true) ∧ (okWidth addr width = true) ∧ (q.debugMay mid false true = true)) := by decide +kernel

theorem witness_RegisterAccess_20 :
    (let mid := 0x190; let part : Option Nat := none; let addr := mbxBase + 0x51000; let width := 4; let value := 7; let b : Block := (Block.alone (dramSail)).start; let q : Block := (b.arrives (.ioWr mid part addr width value)).2; let r : Bool × Block := q.mbxWrite mid part (addr - mbxBase) width value; (b.dev ≠ .off) ∧ ((b.arrives (.ioWr mid part addr width value)).1 = true) ∧ (((q.decodePa addr = .hubCtl ∨ q.decodePa addr = .sailCtl ∧ q.sailOpen mid sailCtl addr = true) ∧ q.debugMay mid true true = true)) ∧ ((mbxBase ≤ addr ∧ addr < mbxBase + 0x200000)) ∧ (r.1 = true)) := by decide +kernel

theorem witness_RegisterAccess_21 :
    (let mid := 0; let part : Option Nat := some 3; let addr := mbxBase + 0x51000; let width := 4; let value := 7; let b : Block := (Block.alone (base.put BLT_PSTAT_MODE 2 3)).start; let q : Block := (b.arrives (.ioWr mid part addr width value)).2; let r : Bool × Block := q.mbxWrite mid part (addr - mbxBase) width value; (b.dev ≠ .off) ∧ ((b.arrives (.ioWr mid part addr width value)).1 = true) ∧ (((q.decodePa addr = .hubCtl ∨ q.decodePa addr = .sailCtl ∧ q.sailOpen mid sailCtl addr = true) ∧ q.debugMay mid true true = true)) ∧ ((mbxBase ≤ addr ∧ addr < mbxBase + 0x200000)) ∧ (r.1 = false)) := by decide +kernel

theorem witness_RegisterAccess_22 :
    (let mid := 3; let part : Option Nat := none; let addr := sailCtl + 0x800000; let width := 4; let value := 7; let page := (sailCtl + 0x800000) / 4096; let b : Block := (Block.alone (dramSail)).start; let q : Block := (b.arrives (.ioWr mid part addr width value)).2; (b.dev ≠ .off) ∧ ((b.arrives (.ioWr mid part addr width value)).1 = true) ∧ (((q.decodePa addr = .hubCtl ∨ q.decodePa addr = .sailCtl ∧ q.sailOpen mid sailCtl addr = true) ∧ q.debugMay mid true true = true)) ∧ (¬ (mbxBase ≤ addr ∧ addr < mbxBase + 0x200000)) ∧ (fileOf addr = some page) ∧ ((width = 4 ∧ addr % 4 = 0))) := by decide +kernel

theorem witness_RegisterAccess_23 :
    (let mid := 3; let part : Option Nat := none; let addr := sailCtl + 0x800000; let width := 8; let value := 7; let page := (sailCtl + 0x800000) / 4096; let b : Block := (Block.alone (dramSail)).start; let q : Block := (b.arrives (.ioWr mid part addr width value)).2; (b.dev ≠ .off) ∧ ((b.arrives (.ioWr mid part addr width value)).1 = true) ∧ (((q.decodePa addr = .hubCtl ∨ q.decodePa addr = .sailCtl ∧ q.sailOpen mid sailCtl addr = true) ∧ q.debugMay mid true true = true)) ∧ (¬ (mbxBase ≤ addr ∧ addr < mbxBase + 0x200000)) ∧ (fileOf addr = some page) ∧ (¬ (width = 4 ∧ addr % 4 = 0))) := by decide +kernel

theorem witness_RegisterAccess_24 :
    (let mid := 0x190; let part : Option Nat := none; let addr := iotBase + 0x18; let width := 8; let value := 7; let b : Block := (Block.alone (dramSail)).start; let q : Block := (b.arrives (.ioWr mid part addr width value)).2; (b.dev ≠ .off) ∧ ((b.arrives (.ioWr mid part addr width value)).1 = true) ∧ (((q.decodePa addr = .hubCtl ∨ q.decodePa addr = .sailCtl ∧ q.sailOpen mid sailCtl addr = true) ∧ q.debugMay mid true true = true)) ∧ (¬ (mbxBase ≤ addr ∧ addr < mbxBase + 0x200000)) ∧ (fileOf addr = none) ∧ ((iotBase < addr ∧ addr < iotBase + 0x1000)) ∧ (iotWidth (addr - iotBase) = width)) := by decide +kernel

theorem witness_RegisterAccess_25 :
    (let mid := 0x190; let part : Option Nat := none; let addr := iotBase + 0x18; let width := 4; let value := 7; let b : Block := (Block.alone (dramSail)).start; let q : Block := (b.arrives (.ioWr mid part addr width value)).2; (b.dev ≠ .off) ∧ ((b.arrives (.ioWr mid part addr width value)).1 = true) ∧ (((q.decodePa addr = .hubCtl ∨ q.decodePa addr = .sailCtl ∧ q.sailOpen mid sailCtl addr = true) ∧ q.debugMay mid true true = true)) ∧ (¬ (mbxBase ≤ addr ∧ addr < mbxBase + 0x200000)) ∧ (fileOf addr = none) ∧ ((iotBase < addr ∧ addr < iotBase + 0x1000)) ∧ (¬ iotWidth (addr - iotBase) = width)) := by decide +kernel

theorem witness_RegisterAccess_26 :
    (let mid := 0x190; let part : Option Nat := none; let addr := 0xF000604400; let width := 4; let value := 7; let b : Block := (Block.alone (dramSail)).start; let q : Block := (b.arrives (.ioWr mid part addr width value)).2; (b.dev ≠ .off) ∧ ((b.arrives (.ioWr mid part addr width value)).1 = true) ∧ (((q.decodePa addr = .hubCtl ∨ q.decodePa addr = .sailCtl ∧ q.sailOpen mid sailCtl addr = true) ∧ q.debugMay mid true true = true)) ∧ (¬ (mbxBase ≤ addr ∧ addr < mbxBase + 0x200000)) ∧ (fileOf addr = none) ∧ (¬ (iotBase < addr ∧ addr < iotBase + 0x1000)) ∧ ((match regAt addr Reg.all with | some (r, _) => decide (r.desc.width = 8 * width) | none => false) = false)) := by decide +kernel

theorem witness_RegisterAccess_27 :
    (let mid := 0x190; let part : Option Nat := none; let addr := 0xF000604400; let width := 8; let value := 7; let i := 0; let j := 0; let k := 0; let r : Reg := .PCI_IWS0; let b : Block := (Block.alone (dramSail)).start; let q : Block := (b.arrives (.ioWr mid part addr width value)).2; let d : Block := q.regWrite mid part r i j k (value % 2 ^ r.desc.width); let bad : Bool := (d.out.drop q.out.length).contains .accessError; (b.dev ≠ .off) ∧ ((b.arrives (.ioWr mid part addr width value)).1 = true) ∧ (((q.decodePa addr = .hubCtl ∨ q.decodePa addr = .sailCtl ∧ q.sailOpen mid sailCtl addr = true) ∧ q.debugMay mid true true = true)) ∧ (¬ (mbxBase ≤ addr ∧ addr < mbxBase + 0x200000)) ∧ (fileOf addr = none) ∧ (¬ (iotBase < addr ∧ addr < iotBase + 0x1000)) ∧ (regAt addr Reg.all = some (r, i, j, k)) ∧ (r.desc.width = 8 * width)) := by decide +kernel

theorem witness_RegisterAccess_28 :
    (let mid := 3; let part : Option Nat := none; let addr := 0xF000604400; let width := 8; let value := 7; let i := 0; let j := 0; let k := 0; let r : Reg := .PCI_IWS0; let b : Block := (Block.alone (dramSail)).start; let q : Block := (b.arrives (.ioWr mid part addr width value)).2; let d : Block := q.regWrite mid part r i j k (value % 2 ^ r.desc.width); let bad : Bool := (d.out.drop q.out.length).contains .accessError; (b.dev ≠ .off) ∧ ((b.arrives (.ioWr mid part addr width value)).1 = true) ∧ (((q.decodePa addr = .hubCtl ∨ q.decodePa addr = .sailCtl ∧ q.sailOpen mid sailCtl addr = true) ∧ q.debugMay mid true true = true)) ∧ (¬ (mbxBase ≤ addr ∧ addr < mbxBase + 0x200000)) ∧ (fileOf addr = none) ∧ (¬ (iotBase < addr ∧ addr < iotBase + 0x1000)) ∧ (regAt addr Reg.all = some (r, i, j, k)) ∧ (r.desc.width = 8 * width) ∧ (bad = true)) := by decide +kernel

theorem witness_RegisterAccess_29 :
    (let mid := 0x190; let part : Option Nat := none; let addr := 0xF000604400; let width := 4; let value := 7; let hwSet := 0; let hwClr := 0; let i := 0; let j := 0; let k := 0; let r : Reg := .PCI_IWS0; let b : Block := (Block.alone (base)).start; let c : Block := b.when (hwClr ≠ 0) (Block.hwClear r i j k hwClr); let q : IoAns × Block := c.ioWrite mid part addr width value; let d : Block := q.2.when (hwSet ≠ 0) (Block.hwSet r i j k hwSet); (b.dev ≠ .off) ∧ (regAt addr Reg.all = some (r, i, j, k)) ∧ (q.1 = .err)) := by decide +kernel

theorem witness_RegisterAccess_30 :
    (let mid := 0x190; let part : Option Nat := none; let addr := 0xF000604400; let width := 8; let value := 7; let hwSet := 0; let hwClr := 0; let i := 0; let j := 0; let k := 0; let r : Reg := .PCI_IWS0; let b : Block := (Block.alone (base)).start; let c : Block := b.when (hwClr ≠ 0) (Block.hwClear r i j k hwClr); let q : IoAns × Block := c.ioWrite mid part addr width value; let d : Block := q.2.when (hwSet ≠ 0) (Block.hwSet r i j k hwSet); (b.dev ≠ .off) ∧ (regAt addr Reg.all = some (r, i, j, k)) ∧ ((q.1 = .done ∨ q.1 = .denied ∨ q.1 = .later))) := by decide +kernel

theorem witness_RegisterAccess_31 :
    (let mid := 0x190; let part : Option Nat := none; let addr := 0xF000740000; let width := 4; let value := 1; let hwSet := 1; let hwClr := 0; let i := 0; let j := 0; let k := 0; let r : Reg := .MBX_ERR; let b : Block := (Block.alone (base.put MBX_ERR_POSTREF 1)).start; let c : Block := b.when (hwClr ≠ 0) (Block.hwClear r i j k hwClr); let q : IoAns × Block := c.ioWrite mid part addr width value; let d : Block := q.2.when (hwSet ≠ 0) (Block.hwSet r i j k hwSet); (b.dev ≠ .off) ∧ (regAt addr Reg.all = some (r, i, j, k)) ∧ ((q.1 = .done ∨ q.1 = .denied ∨ q.1 = .later))) := by decide +kernel

theorem witness_RegisterAccess_32 :
    (let sail := 0; let core := 0; let num := 0x340; let dst := 5; let op : CsrOp := .write; let value := 1; let lv := TrapLevel.m; let i := 7; let b : Block := (Block.alone ({ sail0 with harts := [(0, { run := true, mtip := true, csr := [(csrMstatus, 8), (csrMie, 128)] })] })).start; let h : Nat := sail * 32 + core; (b.dev ≠ .off) ∧ (core < 16) ∧ (b.ready h = true) ∧ (b.irqNext h = some (lv, i))) := by decide +kernel

theorem witness_RegisterAccess_33 :
    (let sail := 0; let core := 0; let num := 0x340; let dst := 5; let op : CsrOp := .read; let value := 1; let x := 2; let b : Block := (Block.alone ({ sail0 with harts := [(0, { run := true, priv := .u })] })).start; let h : Nat := sail * 32 + core; let c : Block := (b.trigCount h).2; let old : Nat := c.csrRead h num; let new : Nat := match op with | .set => Nat.lor old value | .clear => old - Nat.land old value | _ => value; (b.dev ≠ .off) ∧ (core < 16) ∧ (b.ready h = true) ∧ (b.irqNext h = none) ∧ ((b.trigCount h).1 = false) ∧ ((csrTrap (c.hart h).priv num (decide (op ≠ .read))).or (c.csrGuard h num (decide (op ≠ .read))) = some x)) := by decide +kernel

theorem witness_RegisterAccess_34 :
    (let sail := 0; let core := 0; let num := csrTurnseal; let dst := 5; let op : CsrOp := .write; let value := 1; let b : Block := (Block.alone (hart0)).start; let h : Nat := sail * 32 + core; let c : Block := (b.trigCount h).2; let old : Nat := c.csrRead h num; let new : Nat := match op with | .set => Nat.lor old value | .clear => old - Nat.land old value | _ => value; (b.dev ≠ .off) ∧ (core < 16) ∧ (b.ready h = true) ∧ (b.irqNext h = none) ∧ ((b.trigCount h).1 = false) ∧ ((csrTrap (c.hart h).priv num (decide (op ≠ .read))).or (c.csrGuard h num (decide (op ≠ .read))) = none) ∧ (num = csrTurnseal) ∧ (c.runningPin h = none)) := by decide +kernel

theorem witness_RegisterAccess_35 :
    (let sail := 0; let core := 0; let num := csrTurnseal; let dst := 5; let op : CsrOp := .write; let value := 1; let p := 0; let r := 0; let b : Block := (Block.alone (hartPinned .m)).start; let h : Nat := sail * 32 + core; let c : Block := (b.trigCount h).2; let old : Nat := c.csrRead h num; let new : Nat := match op with | .set => Nat.lor old value | .clear => old - Nat.land old value | _ => value; (b.dev ≠ .off) ∧ (core < 16) ∧ (b.ready h = true) ∧ (b.irqNext h = none) ∧ ((b.trigCount h).1 = false) ∧ ((csrTrap (c.hart h).priv num (decide (op ≠ .read))).or (c.csrGuard h num (decide (op ≠ .read))) = none) ∧ (num = csrTurnseal) ∧ (c.runningPin h = some (p, r)) ∧ ((op ≠ .read ∧ new % 2 = 1))) := by decide +kernel

theorem witness_RegisterAccess_36 :
    (let sail := 0; let core := 0; let num := csrTurnseal; let dst := 5; let op : CsrOp := .read; let value := 1; let b : Block := (Block.alone (hartPinned .m)).start; let h : Nat := sail * 32 + core; let c : Block := (b.trigCount h).2; let old : Nat := c.csrRead h num; let new : Nat := match op with | .set => Nat.lor old value | .clear => old - Nat.land old value | _ => value; (b.dev ≠ .off) ∧ (core < 16) ∧ (b.ready h = true) ∧ (b.irqNext h = none) ∧ ((b.trigCount h).1 = false) ∧ ((csrTrap (c.hart h).priv num (decide (op ≠ .read))).or (c.csrGuard h num (decide (op ≠ .read))) = none) ∧ (num = csrTurnseal) ∧ (c.runningPin h ≠ none) ∧ (¬ (op ≠ .read ∧ new % 2 = 1))) := by decide +kernel

theorem witness_RegisterAccess_37 :
    (let sail := 0; let core := 0; let num := 0x340; let dst := 5; let op : CsrOp := .read; let value := 6; let b : Block := (Block.alone (hart0)).start; let h : Nat := sail * 32 + core; let c : Block := (b.trigCount h).2; let old : Nat := c.csrRead h num; let new : Nat := match op with | .set => Nat.lor old value | .clear => old - Nat.land old value | _ => value; (b.dev ≠ .off) ∧ (core < 16) ∧ (b.ready h = true) ∧ (b.irqNext h = none) ∧ ((b.trigCount h).1 = false) ∧ ((csrTrap (c.hart h).priv num (decide (op ≠ .read))).or (c.csrGuard h num (decide (op ≠ .read))) = none) ∧ (num ≠ csrTurnseal) ∧ (op = .read)) := by decide +kernel

theorem witness_RegisterAccess_38 :
    (let sail := 0; let core := 0; let num := 0x340; let dst := 5; let op : CsrOp := .write; let value := 6; let b : Block := (Block.alone (hart0)).start; let h : Nat := sail * 32 + core; let c : Block := (b.trigCount h).2; let old : Nat := c.csrRead h num; let new : Nat := match op with | .set => Nat.lor old value | .clear => old - Nat.land old value | _ => value; (b.dev ≠ .off) ∧ (core < 16) ∧ (b.ready h = true) ∧ (b.irqNext h = none) ∧ ((b.trigCount h).1 = false) ∧ ((csrTrap (c.hart h).priv num (decide (op ≠ .read))).or (c.csrGuard h num (decide (op ≠ .read))) = none) ∧ (num ≠ csrTurnseal) ∧ (op = .write)) := by decide +kernel

theorem witness_RegisterAccess_39 :
    (let sail := 0; let core := 0; let num := 0x340; let dst := 5; let op : CsrOp := .set; let value := 6; let b : Block := (Block.alone (hart0)).start; let h : Nat := sail * 32 + core; let c : Block := (b.trigCount h).2; let old : Nat := c.csrRead h num; let new : Nat := match op with | .set => Nat.lor old value | .clear => old - Nat.land old value | _ => value; (b.dev ≠ .off) ∧ (core < 16) ∧ (b.ready h = true) ∧ (b.irqNext h = none) ∧ ((b.trigCount h).1 = false) ∧ ((csrTrap (c.hart h).priv num (decide (op ≠ .read))).or (c.csrGuard h num (decide (op ≠ .read))) = none) ∧ (num ≠ csrTurnseal) ∧ (op = .set)) := by decide +kernel

theorem witness_RegisterAccess_40 :
    (let sail := 0; let core := 0; let num := 0x340; let dst := 5; let op : CsrOp := .clear; let value := 6; let b : Block := (Block.alone (hart0)).start; let h : Nat := sail * 32 + core; let c : Block := (b.trigCount h).2; let old : Nat := c.csrRead h num; let new : Nat := match op with | .set => Nat.lor old value | .clear => old - Nat.land old value | _ => value; (b.dev ≠ .off) ∧ (core < 16) ∧ (b.ready h = true) ∧ (b.irqNext h = none) ∧ ((b.trigCount h).1 = false) ∧ ((csrTrap (c.hart h).priv num (decide (op ≠ .read))).or (c.csrGuard h num (decide (op ≠ .read))) = none) ∧ (num ≠ csrTurnseal) ∧ (op = .clear)) := by decide +kernel

theorem witness_RegisterAccess_41 :
    (let mid := 3; let part : Option Nat := none; let addr := 0xF000604400; let width := 8; let b : Block := (Block.alone ({ sail0 with net := { landed := [.ioReq 3 none 0xF000604400 8 none] } })).start; let q : Block := (b.arrives (.ioRd mid part addr width)).2; (b.dev ≠ .off) ∧ ((b.arrives (.ioRd mid part addr width)).1 = false))
    ∧ (let mid := 3; let part : Option Nat := none; let addr := scratchBase; let width := 8; let value := 7; let hwSet := 1; let hwClr := 0; let b : Block := (Block.alone (dramSail)).start; (b.dev ≠ .off) ∧ (regAt addr Reg.all = none))
    ∧ (let sail := 0; let core := 0; let num := 0x340; let dst := 5; let op : CsrOp := .write; let value := 1; let b : Block := (Block.alone (base)).start; let h : Nat := sail * 32 + core; ((16 ≤ core ∨ b.ready h = false)))
    ∧ (let sail := 0; let core := 0; let num := 0x340; let dst := 5; let op : CsrOp := .write; let value := 1; let b : Block := (Block.alone (trigHart (3 * 2 ^ 60 + 512) true)).start; let h : Nat := sail * 32 + core; (b.dev ≠ .off) ∧ (core < 16) ∧ (b.ready h = true) ∧ (b.irqNext h = none) ∧ ((b.trigCount h).1 = true))
    ∧ (let mid := 0; let txid := 0; let err := false; let data := 5; let b : Block := (Block.alone ({ sail0 with net := { landed := [.ioComp 0 0 0xE000000000 false 5] } })).start; let q : Block := (b.arrives (.ioComp mid txid err data)).2; (b.dev ≠ .off) ∧ ((b.arrives (.ioComp mid txid err data)).1 = false))
    ∧ (let data : Nat := 0; let err : Bool := false; let txid : Nat := 0; let mid := 0; let b : Block := (Block.alone (base)).start; let q : Block := (b.arrives (.ioComp mid txid err data)).2; (b.dev ≠ .off) ∧ ((b.arrives (.ioComp mid txid err data)).1 = true) ∧ ((q.hart mid).io = none)) := by decide +kernel

theorem witness_RegisterAccess_42 :
    (let data : Nat := 0; let txid : Nat := 0; let mid := 0; let err := true; let w : IoWait := { addr := 0xE000000000, va := 0xE000000000, width := 4, dst := some (5, true) }; let b : Block := (Block.alone (({ sail0 with harts := [(0, { run := true, io := some { addr := 0xE000000000, va := 0xE000000000, width := 4, dst := some (5, true) } })] } : Block))).start; let q : Block := (b.arrives (.ioComp mid txid err data)).2; let c : Block := (q.modHart mid fun t => { t with io := none }).ioRetired mid; (b.dev ≠ .off) ∧ ((b.arrives (.ioComp mid txid err data)).1 = true) ∧ ((q.hart mid).io = some w) ∧ (err = true) ∧ (w.dst ≠ none)) := by decide +kernel

theorem witness_RegisterAccess_43 :
    (let data : Nat := 0; let txid : Nat := 0; let mid := 0; let err := true; let w : IoWait := { addr := 0xE000000000, va := 0xE000000000, width := 4, dst := none }; let b : Block := (Block.alone (({ sail0 with harts := [(0, { run := true, io := some { addr := 0xE000000000, va := 0xE000000000, width := 4, dst := none } })] } : Block))).start; let q : Block := (b.arrives (.ioComp mid txid err data)).2; let c : Block := (q.modHart mid fun t => { t with io := none }).ioRetired mid; (b.dev ≠ .off) ∧ ((b.arrives (.ioComp mid txid err data)).1 = true) ∧ ((q.hart mid).io = some w) ∧ (err = true) ∧ (w.dst = none)) := by decide +kernel

theorem witness_RegisterAccess_44 :
    (let txid : Nat := 0; let mid := 0; let err := false; let data := 0x180000000; let dst := 5; let sg := true; let w : IoWait := { addr := 0xE000000000, va := 0xE000000000, width := 4, dst := some (5, true) }; let b : Block := (Block.alone (({ sail0 with harts := [(0, { run := true, io := some { addr := 0xE000000000, va := 0xE000000000, width := 4, dst := some (5, true) } })] } : Block))).start; let q : Block := (b.arrives (.ioComp mid txid err data)).2; let c : Block := (q.modHart mid fun t => { t with io := none }).ioRetired mid; (b.dev ≠ .off) ∧ ((b.arrives (.ioComp mid txid err data)).1 = true) ∧ ((q.hart mid).io = some w) ∧ (err = false) ∧ (w.dst = some (dst, sg))) := by decide +kernel

theorem witness_RegisterAccess_45 :
    (let data : Nat := 0; let txid : Nat := 0; let mid := 0; let err := false; let w : IoWait := { addr := 0xE000000000, va := 0xE000000000, width := 4, dst := none }; let b : Block := (Block.alone (({ sail0 with harts := [(0, { run := true, io := some { addr := 0xE000000000, va := 0xE000000000, width := 4, dst := none } })] } : Block))).start; let q : Block := (b.arrives (.ioComp mid txid err data)).2; let c : Block := (q.modHart mid fun t => { t with io := none }).ioRetired mid; (b.dev ≠ .off) ∧ ((b.arrives (.ioComp mid txid err data)).1 = true) ∧ ((q.hart mid).io = some w) ∧ (err = false) ∧ (w.dst = none)) := by decide +kernel

theorem witness_SluiceSuccess :
    (let mid := midGov; let part : Option Nat := none; let arg := 5; let u : Bytes := List.replicate 64 (0 : Byte); let v : Bytes := List.replicate 64 (0 : Byte); let k := 0; let b : Block := (Block.alone ((dramSail.setR .SLC_MDATA 0x31 0))).start; let a : Nat := arg % 2 ^ 20; let ws : List Nat := b.mdataWords; let h : Nat × Nat × Nat := flowHash (ctxKey ws); let r : Except Nat Bytes × Block := b.flowRead (b.flowBucket h.1); let q : Except Nat Bytes × Block := r.2.flowRead (r.2.flowBucket h.2.1); let d : Block := q.2; (b.dev ≠ .off) ∧ (b.isManager mid part true = true) ∧ (b.flowFixed a ws = false) ∧ ((ctxValid ws = true ∧ 1 ≤ fKtype ws ∧ fKtype ws ≤ 3)) ∧ (b.flowByKey (ctxKey ws) = none) ∧ (r.1.toOption = some u) ∧ (q.1.toOption = some v) ∧ ((ctxOf u ++ ctxOf v).any (fun w => bit w 20 && bits w 32 59 = h.2.2) = false) ∧ ((ctxOf u).findIdx? (fun w => !bit w 20) = some k)) := by decide +kernel

theorem witness_SluiceSuccess_2 :
    (let mid := midGov; let part : Option Nat := none; let arg := 5; let u : Bytes := (List.replicate 8 (leBytes 8 (2 ^ 20))).flatten; let v : Bytes := List.replicate 64 (0 : Byte); let k := 0; let b : Block := (Block.alone ((dramSail.setR .SLC_MDATA 0x31 0).writeBytes midSluice noPart (dramSail.flowBucket (flowHash (leBytes 8 0x31 ++ leBytes 8 0)).1) ((List.replicate 8 (leBytes 8 (2 ^ 20))).flatten))).start; let a : Nat := arg % 2 ^ 20; let ws : List Nat := b.mdataWords; let h : Nat × Nat × Nat := flowHash (ctxKey ws); let r : Except Nat Bytes × Block := b.flowRead (b.flowBucket h.1); let q : Except Nat Bytes × Block := r.2.flowRead (r.2.flowBucket h.2.1); let d : Block := q.2; (b.dev ≠ .off) ∧ (b.isManager mid part true = true) ∧ (b.flowFixed a ws = false) ∧ ((ctxValid ws = true ∧ 1 ≤ fKtype ws ∧ fKtype ws ≤ 3)) ∧ (b.flowByKey (ctxKey ws) = none) ∧ (r.1.toOption = some u) ∧ (q.1.toOption = some v) ∧ ((ctxOf u ++ ctxOf v).any (fun w => bit w 20 && bits w 32 59 = h.2.2) = false) ∧ ((ctxOf u).all (fun w => bit w 20) = true) ∧ ((ctxOf v).findIdx? (fun w => !bit w 20) = some k)) := by decide +kernel

theorem witness_SluiceSuccess_3 :
    (let mid := midGov; let part : Option Nat := none; let arg := 5; let ws : List Nat := [0x31, 0, 0, 0, 0, 0, 0, 0]; let b : Block := (Block.alone (({ base with slc := { base.slc with cache := [{ index := 5, words := [0x31, 0, 0, 0, 0, 0, 0, 0] }] } } : Block))).start; let a : Nat := arg % 2 ^ 20; let n : Option (List Nat) × Block := b.flowNow a; let h : Nat × Nat × Nat := flowHash (ctxKey ws); let d : Block := n.2.forL [h.1, h.2.1] fun x b => match b.flowRead (b.flowBucket x) with | (.error _, b) => b | (.ok v, b) => match (ctxOf v).findIdx? (fun w => bit w 20 && w % 2 ^ 20 = a && bits w 32 59 = h.2.2) with | some k => b.writeBytes midSluice noPart (b.flowBucket x + 8 * k) (leBytes 8 0) | none => b; (b.dev ≠ .off) ∧ (b.isManager mid part true = true) ∧ (n.1 = some ws) ∧ (fKtype ws ≠ 0) ∧ (n.2.flowFixed a ws = false)) := by decide +kernel

theorem witness_SluiceSuccess_4 :
    (let mid := midGov; let part : Option Nat := none; let arg := 5; let ws : List Nat := [0x31, 0, 0, 0, 0, 0, 0, 0]; let b : Block := (Block.alone (({ base with slc := { base.slc with cache := [{ index := 5, words := [0x31, 0, 0, 0, 0, 0, 0, 0] }] } } : Block))).start; let a : Nat := arg % 2 ^ 20; let n : Option (List Nat) × Block := b.flowNow a; let new : List Nat := ws.take 2 ++ [n.2.mdata 2, n.2.mdata 3, n.2.mdata 4] ++ ws.drop 5; (b.dev ≠ .off) ∧ (b.isManager mid part true = true) ∧ (n.1 = some ws) ∧ (fKtype ws ≠ 0) ∧ (n.2.flowFixed a ws = false) ∧ (n.2.flowFixed a new = false) ∧ (ctxValid new = true) ∧ ((n.2.flowByIdx a).isSome = true)) := by decide +kernel

theorem witness_SluiceSuccess_5 :
    (let mid := midGov; let part : Option Nat := none; let arg := 5; let ws : List Nat := [0x31, 0, 0, 0, 0, 0, 0, 0]; let b : Block := (Block.alone (dramSail.writeBytes midSluice noPart (dramSail.flowCtx 5) [0x31])).start; let a : Nat := arg % 2 ^ 20; let n : Option (List Nat) × Block := b.flowNow a; let new : List Nat := ws.take 2 ++ [n.2.mdata 2, n.2.mdata 3, n.2.mdata 4] ++ ws.drop 5; (b.dev ≠ .off) ∧ (b.isManager mid part true = true) ∧ (n.1 = some ws) ∧ (fKtype ws ≠ 0) ∧ (n.2.flowFixed a ws = false) ∧ (n.2.flowFixed a new = false) ∧ (ctxValid new = true) ∧ (n.2.flowByIdx a = none)) := by decide +kernel

theorem witness_SluiceSuccess_6 :
    (let mid := midGov; let part : Option Nat := none; let arg := 5; let ws : List Nat := [0x31, 0, 0, 0, 0, 0, 0, 0]; let b : Block := (Block.alone (({ base with slc := { base.slc with cache := [{ index := 5, words := [0x31, 0, 0, 0, 0, 0, 0, 0] }] } } : Block))).start; let a : Nat := arg % 2 ^ 20; let n : Option (List Nat) × Block := b.flowNow a; (b.dev ≠ .off) ∧ (b.isManager mid part true = true) ∧ (n.1 = some ws) ∧ (fKtype ws ≠ 0)) := by decide +kernel

theorem witness_SluiceSuccess_7 :
    (let mid := midGov; let part : Option Nat := none; let arg := 0; let e : FlowEnt := { index := 5, words := [0x31, 0, 0, 0, 0, 0, 0, 0] }; let b : Block := (Block.alone (({ base with slc := { base.slc with cache := [{ index := 5, words := [0x31, 0, 0, 0, 0, 0, 0, 0] }] } } : Block).setR .SLC_MDATA 0x31 0)).start; let a : Nat := arg % 2 ^ 20; let key : Bytes := leBytes 8 (b.mdata 0) ++ leBytes 8 (b.mdata 1); (b.dev ≠ .off) ∧ (b.isManager mid part true = true) ∧ (a = 0) ∧ (b.flowByKey key = some e)) := by decide +kernel

theorem witness_SluiceSuccess_8 :
    (let mid := midGov; let part : Option Nat := none; let arg := 0; let i := 5; let ws : List Nat := [0x31, 0, 0, 0, 0, 0, 0, 0]; let b : Block := (Block.alone ((dramSail.setR .SLC_MDATA 0x31 0).writeBytes midSluice noPart (dramSail.flowBucket (flowHash (leBytes 8 0x31 ++ leBytes 8 0)).1) (leBytes 8 (5 + 2 ^ 20 + (flowHash (leBytes 8 0x31 ++ leBytes 8 0)).2.2 * 2 ^ 32)) |>.writeBytes midSluice noPart (dramSail.flowCtx 5) [0x31])).start; let a : Nat := arg % 2 ^ 20; let key : Bytes := leBytes 8 (b.mdata 0) ++ leBytes 8 (b.mdata 1); let w : Except Nat (Option (Nat × List Nat)) × Block := b.walkFlow key; (b.dev ≠ .off) ∧ (b.isManager mid part true = true) ∧ (a = 0) ∧ (b.flowByKey key = none) ∧ (w.1.toOption = some (some (i, ws)))) := by decide +kernel

theorem witness_SluiceSuccess_9 :
    (let mid := midGov; let part : Option Nat := none; let arg := 255 + 7 * 256; let b : Block := (Block.alone (({ base with slc := { base.slc with hop := [(7, { ctx := some (255, 7), words := [0x9000000000000, 0, 0, 0, 0, 0, 0, 0] })] } } : Block).setR .SLC_MDATA 0x5000000000000 0)).start; let a : Nat := arg % 2 ^ 20; let i : Nat := a % 256; let k : Nat := a / 256; let ws : List Nat := b.mdataWords.take 4 ++ [0, 0, 0, 0]; let c : Block := b.modInst i fun t => { t with stopped := t.stopped.filter (· ≠ k) }; (b.dev ≠ .off) ∧ (b.isManager mid part true = true) ∧ (a < 2048) ∧ (b.instSt i ≠ 2) ∧ (b.instSt i ≠ 3) ∧ (qctxValid ws = true) ∧ ((c.hopFind i k).isSome = true)) := by decide +kernel

theorem witness_SluiceSuccess_10 :
    (let mid := midGov; let part : Option Nat := none; let arg := 5; let e := 0; let spill := false; let b : Block := (Block.alone (({ base with slc := { base.slc with hop := [(7, { ctx := some (255, 7), words := [0x9000000000000, 0, 0, 0, 0, 0, 0, 0] })] } } : Block).setR .SLC_MDATA 0x5000000000000 0 |>.put HOP_EMASK_MASK 1 5)).start; let a : Nat := arg % 2 ^ 20; let i : Nat := a % 256; let k : Nat := a / 256; let ws : List Nat := b.mdataWords.take 4 ++ [0, 0, 0, 0]; let c : Block := b.modInst i fun t => { t with stopped := t.stopped.filter (· ≠ k) }; (b.dev ≠ .off) ∧ (b.isManager mid part true = true) ∧ (a < 2048) ∧ (b.instSt i ≠ 2) ∧ (b.instSt i ≠ 3) ∧ (qctxValid ws = true) ∧ (c.hopFind i k = none) ∧ (c.hopDirect = false) ∧ (c.hopChoose i = some (e, spill))) := by decide +kernel

theorem witness_SluiceSuccess_11 :
    (let mid := midGov; let part : Option Nat := none; let arg := 5; let b : Block := (Block.alone (base.setR .SLC_MDATA 0x5000000000000 0 |>.put HOP_DIS_COUNT 17)).start; let a : Nat := arg % 2 ^ 20; let i : Nat := a % 256; let k : Nat := a / 256; let ws : List Nat := b.mdataWords.take 4 ++ [0, 0, 0, 0]; let c : Block := b.modInst i fun t => { t with stopped := t.stopped.filter (· ≠ k) }; (b.dev ≠ .off) ∧ (b.isManager mid part true = true) ∧ (a < 2048) ∧ (b.instSt i ≠ 2) ∧ (b.instSt i ≠ 3) ∧ (qctxValid ws = true) ∧ (c.hopFind i k = none) ∧ ((c.hopDirect = true ∨ c.hopChoose i = none))) := by decide +kernel

theorem witness_SluiceSuccess_12 :
    (let mid := midGov; let part : Option Nat := none; let arg := 255 + 7 * 256; let ws : List Nat := [0x9000000000000, 0, 0, 0, 0, 0, 0, 0]; let b : Block := (Block.alone (({ base with slc := { base.slc with hop := [(7, { ctx := some (255, 7), words := [0x9000000000000, 0, 0, 0, 0, 0, 0, 0] })] } } : Block))).start; let a : Nat := arg % 2 ^ 20; let g : Option (List Nat) × Block := b.getCtx (a % 256) (a / 256); (b.dev ≠ .off) ∧ (b.isManager mid part true = true) ∧ (a < 2048) ∧ (g.1 = some ws)) := by decide +kernel

theorem witness_SluiceSuccess_13 :
    (let mid := midGov; let part : Option Nat := none; let arg := 255; let b : Block := (Block.alone (base.setR .SLC_MDATA 1 0)).start; let a : Nat := arg % 2 ^ 20; (b.dev ≠ .off) ∧ (b.isManager mid part true = true) ∧ (a < 256) ∧ (b.mdata 0 = 1) ∧ (b.instSt a = 0))
    ∧ (let mid := midGov; let part : Option Nat := none; let arg := 255; let b : Block := (Block.alone (base)).start; let a : Nat := arg % 2 ^ 20; (b.dev ≠ .off) ∧ (b.isManager mid part true = true) ∧ (a < 256) ∧ (b.mdata 0 = 0) ∧ (b.instSt a = 0))
    ∧ (let mid := midGov; let part : Option Nat := none; let arg := 255; let b : Block := (Block.alone (base.put SLC_ISTAT_STATE 1 255)).start; let a : Nat := arg % 2 ^ 20; (b.dev ≠ .off) ∧ (b.isManager mid part true = true) ∧ (a < 256) ∧ (b.mdata 0 = 0) ∧ (b.instSt a = 1))
    ∧ (let mid := midGov; let part : Option Nat := none; let arg := 255; let b : Block := (Block.alone (base.setR .SLC_MDATA 1024 0)).start; let a : Nat := arg % 2 ^ 20; (b.dev ≠ .off) ∧ (b.isManager mid part true = true) ∧ (a < 256) ∧ (b.mdata 0 < 2048) ∧ (b.shareSum a (b.mdata 0) ≤ 1024))
    ∧ (let mid := midGov; let part : Option Nat := none; let arg := 255; let b : Block := (Block.alone (base.put SLC_ISTAT_STATE 1 255)).start; let a : Nat := arg % 2 ^ 20; (b.dev ≠ .off) ∧ (b.isManager mid part true = true) ∧ (a < 256) ∧ (b.instSt a = 1))
    ∧ (let mid := midGov; let part : Option Nat := none; let arg := 255; let b : Block := (Block.alone (base.put SLC_ISTAT_STATE 2 255)).start; let a : Nat := arg % 2 ^ 20; (b.dev ≠ .off) ∧ (b.isManager mid part true = true) ∧ (a < 256) ∧ (b.instSt a = 1 ∨ b.instSt a = 2)) := by decide +kernel

theorem witness_SluiceSuccess_14 :
    (let mid := midGov; let part : Option Nat := none; let arg := 255; let b : Block := (Block.alone (base.setR .SLC_MDATA 512 3)).start; let a : Nat := arg % 2 ^ 20; (b.dev ≠ .off) ∧ (b.isManager mid part true = true) ∧ (a < 256) ∧ (b.instSt a ≠ 2) ∧ (b.instSt a ≠ 3) ∧ (b.mdata 3 % 512 = 0))
    ∧ (let mid := midGov; let part : Option Nat := none; let arg := 0; let b : Block := (Block.alone (base.put SLC_ISTAT_LOGON 1 0)).start; let a : Nat := arg % 2 ^ 20; (b.dev ≠ .off) ∧ (b.isManager mid part true = true) ∧ (a < 256) ∧ (b.isSet SLC_ISTAT_LOGON a = true))
    ∧ (let mid := midGov; let part : Option Nat := none; let arg := 255; let b : Block := (Block.alone (base)).start; let a : Nat := arg % 2 ^ 20; (b.dev ≠ .off) ∧ (b.isManager mid part true = true) ∧ (a < 256))
    ∧ (let mid := midGov; let part : Option Nat := none; let arg := 255; let b : Block := (Block.alone (base)).start; let a : Nat := arg % 2 ^ 20; (b.dev ≠ .off) ∧ (b.isManager mid part true = true) ∧ (a < 256)) := by decide +kernel

/-- A powered block, and one in OFF. -/

theorem witness_StepTakesTheFront : base.dev ≠ .off ∧ ({ base with dev := .off } : Block).dev = .off := by decide

/-- A machine in OFF. -/

theorem witness_OffIsInert : ({ base with dev := .off } : Block).alone.blk.dev = .off ∧ (∀ n, Instr.startRequest false ≠ .powerOnReset n) ∧ Instr.startRequest false ≠ .vddAonLoss ∧ Instr.startRequest false ≠ .wakeIn := by
  refine ⟨rfl, fun n h => ?_, fun h => ?_, fun h => ?_⟩ <;> cases h

/-- A step of a machine with a waiting command and written memory. -/

theorem witness_MemoryStaysCanonical : ({ dramSail with mem := [(5, 1)] }.alone).MemOk ∧ ∃ t, step ({ dramSail with mem := [(5, 1)] }.alone) = .next t := ⟨⟨rfl, rfl⟩, _, rfl⟩

/-- A step with a write of the counter waiting. -/

theorem witness_FusesOnlyGrow : ∃ t, step ⟨base, [.advanceCounter { path := 1, src := 9 }]⟩ = .next t := ⟨_, rfl⟩

/-- A powered block with a class 5 fault in force. -/

theorem witness_FirstFaultsStay : ∃ t, exec .regulatorRefresh (({ base with dev := .ready, flog := { fatal := true, first := [{ code := 0x5009 }] } } : Block).alone) = .next t := ⟨_, rfl⟩

/-- A lookup, a plain load and a fence store nothing. -/

theorem witness_OnlyStoresChangeDram : mayStore .regulatorRefresh = false ∧ ∃ t, exec .regulatorRefresh dramSail.alone = .next t := ⟨rfl, _, rfl⟩

/-- Populated DRAM of Code S. -/

theorem witness_WholeLineWrite : (let b : Block := dramSail; let p : Place := ⟨0, 1, 0⟩
      b.dev ≠ .off ∧ b.place (4100 / 64 * 64) = some p ∧ b.dramOk 4100 = true ∧ p.loc < 0x800000000 ∧ descCode (b.desc p.desc 0) = codeS
        ∧ b.blt.mirrors.filter (fun m => m.1 ≤ 4100 / 64 * 64 && 4100 / 64 * 64 < m.1 + m.2.1) = [] ∧ b.mergeUse p.mc < 28 ∧ b.mergeUse (xorN p.mc 4) < 28) := by decide +kernel

/-- Populated DRAM of Code S: a write of 0x1004, a read of 0x103F. -/

theorem witness_WriteThenRead : (let b : Block := dramSail; let p : Place := ⟨0, 1, 0⟩
      b.dev ≠ .off ∧ b.place (4100 / 64 * 64) = some p ∧ b.dramOk 4100 = true ∧ p.loc < 0x800000000 ∧ descCode (b.desc p.desc 0) = codeS
        ∧ b.blt.mirrors.filter (fun m => m.1 ≤ 4100 / 64 * 64 && 4100 / 64 * 64 < m.1 + m.2.1) = [] ∧ b.mergeUse p.mc < 28 ∧ b.mergeUse (xorN p.mc 4) < 28 ∧ p.mc < 8 ∧ (7 : Nat) < 2 ^ 512 ∧ 0x103F / 64 = 4100 / 64 ∧ b.dramOk 0x103F = true) ∧ ∃ t, exec (.mcWrite 0 0 4100 7 (2 ^ 64 - 1) false false) dramSail.alone = .next t := ⟨by decide +kernel, _, rfl⟩

/-- The last granule of controller 7 in the boot layout. -/

theorem witness_DramPlacement : (let b : Block := dramSail; b.place 0x7123 = some ⟨0, 7, 0x123⟩ ∧ descPin (b.desc 0 0) = false ∧ b.place 0x8123 = some ⟨0, 0, 0x1123⟩) := by decide +kernel

/-- Neighbouring fields of GOV_SAILSTAT, and another sail. -/

theorem witness_FieldReadAfterWrite : GOV_SAILSTAT_STATE.lo ≤ GOV_SAILSTAT_STATE.hi ∧ GOV_SAILSTAT_STATE.hi < GOV_SAILSTAT_STATE.reg.desc.width ∧ GOV_SAILSTAT_FUSED.reg = GOV_SAILSTAT_STATE.reg ∧ GOV_SAILSTAT_FUSED.lo ≤ GOV_SAILSTAT_FUSED.hi ∧ GOV_SAILSTAT_STATE.hi < GOV_SAILSTAT_FUSED.lo ∧ GOV_SAILSTAT_FUSED.hi < GOV_SAILSTAT_STATE.reg.desc.width ∧ Reg.addr .GOV_SAILSTAT 1 0 0 ≠ Reg.addr .GOV_SAILSTAT 0 0 0 := by decide +kernel

/-- In RUN. -/

theorem witness_SafeHoldRequests : runBase.dev ≠ .off ∧ runBase.govHalted = false ∧ runBase.dev ≠ .safeHold ∧ runBase.dev ≠ .shutdown := by decide +kernel

/-- A fault of each class in RUN. -/

theorem witness_FaultReaction : runBase.dev ≠ .off ∧ runBase.govHalted = false ∧ codeClass 0x2D08 ≤ 2 ∧ codeClass 0x300B = 3 ∧ codeClass 0x4E01 = 4 ∧ codeClass 0x5D06 = 5 := by decide +kernel

/-- Three replicas, one of which differs. -/

theorem witness_ReleaseNeedsAgreement : (2 ≠ 1) ∧ [(0, ([1] : Bytes)), (1, [2]), (2, [1])].length ≤ 3 ∧ ([(0, ([1] : Bytes)), (1, [2]), (2, [1])].map (·.1)).Pairwise (· < ·) ∧ verdict 3 false true [(0, [1]), (1, [2]), (2, [1])] = .dissent 0 1 := by decide +kernel

/-- Two lines of one range. -/

theorem witness_CacheIndex : (5 : Nat) / 32768 = 5 / 32768 ∧ lineSlice 5 = lineSlice 5 ∧ lineSet 5 = lineSet 5 ∧ (7 : Nat) < 8 ∧ (4095 : Nat) < 4096 := by decide +kernel

/-- A stopped queue with an entry waiting, and one that is not stopped. -/

theorem witness_ResumeAndSkip : (let b : Block := (mstQueue [0]).modMq 0 0 0 fun q => { q with stopped := true }; b.dev ≠ .off ∧ b.active? 0 = true ∧ b.bindOf 0 0 = some 0 ∧ (b.mq 0 0 0).stopped = true ∧ (b.mq 0 0 0).head ≠ (b.mq 0 0 0).tail ∧ ((mstQueue [0]).mq 0 0 0).stopped = false) := by decide +kernel

end Sys2Proof.Machine
end

section
/-! PROOFS. The interleaving of DRAM over the eight controllers (R21). -/

namespace Sys2Proof.Machine

/-! ## The three fields of an interleaved address -/

theorem bits_controller (pa : Nat) : bits pa 12 14 = pa / 4096 % 8 := rfl

theorem bits_localGranule (pa : Nat) : bits pa 15 37 = pa / 32768 % 8388608 := rfl

theorem bits_granuleOffset (pa : Nat) : bits pa 0 11 = pa % 4096 := by
  simp [bits]

/-- Controller index, granule at the controller and offset in it make up the whole of an address below 2^38. -/
theorem interleaved_address_eq {pa : Nat} (h : pa < 2 ^ 38) :
    pa = bits pa 15 37 * 32768 + bits pa 12 14 * 4096 + bits pa 0 11 := by
  rw [bits_localGranule, bits_controller, bits_granuleOffset]
  omega

theorem bits_controller_add_granule (pa : Nat) : bits (pa + 4096) 12 14 = (bits pa 12 14 + 1) % 8 := by
  rw [bits_controller, bits_controller]
  omega

/-- A local address splits back into granule and offset, so it determines both. -/
theorem local_address_inj {pa pa' : Nat}
    (h : bits pa' 15 37 * 4096 + bits pa' 0 11 = bits pa 15 37 * 4096 + bits pa 0 11) :
    bits pa' 15 37 = bits pa 15 37 ∧ bits pa' 0 11 = bits pa 0 11 := by
  simp only [bits_granuleOffset] at h ⊢
  omega

/-! ## The place of an address outside pinned regions -/

/-- The descriptor in a place is the one that covers the address. -/
theorem Block.regionOf_of_place {b : Block} {pa : Nat} {p : Place} (h : b.place pa = some p) :
    b.regionOf pa = some p.desc := by
  unfold Block.place at h
  split at h
  · cases h
  next i hi =>
    rw [hi]
    dsimp only at h
    split at h <;> cases h <;> rfl

/-- R21: where the covering descriptor pins nothing, the address alone gives controller and local address. -/
theorem Block.place_of_unpinned {b : Block} {pa : Nat} {p : Place} (h : b.place pa = some p)
    (hpin : descPin (b.desc p.desc 0) = false) :
    p.mc = bits pa 12 14 ∧ p.loc = bits pa 15 37 * 4096 + bits pa 0 11 := by
  simp only [Block.place, b.regionOf_of_place h, hpin, Bool.false_eq_true, if_false, Option.some.injEq] at h
  rw [← h, bits_granuleOffset]
  exact ⟨rfl, rfl⟩

/-- Two interleaved addresses with one controller and one local address are the same address. -/
theorem Block.place_injective_of_unpinned {b : Block} {pa pa' : Nat} {p q : Place}
    (hp : b.place pa = some p) (hpin : descPin (b.desc p.desc 0) = false)
    (hq : b.place pa' = some q) (hqin : descPin (b.desc q.desc 0) = false)
    (hlt : pa < 2 ^ 38) (hlt' : pa' < 2 ^ 38) (hmc : q.mc = p.mc) (hloc : q.loc = p.loc) : pa' = pa := by
  obtain ⟨pmc, ploc⟩ := b.place_of_unpinned hp hpin
  obtain ⟨qmc, qloc⟩ := b.place_of_unpinned hq hqin
  have hctl : bits pa' 12 14 = bits pa 12 14 := by rw [← pmc, ← qmc, hmc]
  obtain ⟨hgran, hoff⟩ := local_address_inj (qloc.symm.trans (hloc.trans ploc))
  rw [interleaved_address_eq hlt, interleaved_address_eq hlt', hctl, hgran, hoff]

/-- Settles O54: each clause follows from the place R21 gives (`Block.place_of_unpinned`) and the arithmetic of its three fields. -/
theorem dramPlacement : Obligations.DramPlacement := by
  intro b pa p hp hpin
  obtain ⟨pmc, ploc⟩ := b.place_of_unpinned hp hpin
  refine ⟨⟨pmc, ploc⟩, fun q hq hqin => ?nextGranule, fun pa' q hq hqin => ⟨?everyEighth, ?distinct⟩⟩
  case nextGranule =>
    obtain ⟨qmc, -⟩ := b.place_of_unpinned hq hqin
    rw [qmc, pmc, bits_controller_add_granule]
  case everyEighth =>
    obtain ⟨qmc, -⟩ := b.place_of_unpinned hq hqin
    rw [qmc, pmc, bits_controller, bits_controller]
  case distinct =>
    exact b.place_injective_of_unpinned hp hpin hq hqin

end Sys2Proof.Machine
end

section
/-! PROOFS. RESUME and SKIP of a millstone queue (R169). -/

namespace Sys2Proof.Machine

/-! ## Reads of a queue and of registers after an update of a queue -/

/-- An update of a queue is read back. -/
@[simp] theorem Block.mq_modMq_same (b : Block) (n i j : Nat) (f : MstQ → MstQ) :
    (b.modMq n i j f).mq n i j = f (b.mq n i j) := by
  simp [Block.modMq, Block.mq, Block.mst]

@[simp] theorem Block.getR_modMq (b : Block) (n i j : Nat) (f : MstQ → MstQ) (r : Reg) (i' j' k' : Nat) :
    (b.modMq n i j f).getR r i' j' k' = b.getR r i' j' k' := rfl

/-- The binding of a partition on an ACTIVE sail is the one its accesses reach (R151). -/
theorem Block.mstReach_of_active {b : Block} {n : Nat} (h : b.active? n = true) (p : Nat) :
    b.mstReach n (some p) = b.bindOf n p := by
  simp [Block.mstReach, h]

/-! ## The write of MST_PCTL with RESUME -/

theorem Block.mstCtl_of_not_stopped {b : Block} {n i j : Nat} (h : (b.mq n i j).stopped = false) (skip : Bool) :
    b.mstCtl n i j skip = b := by
  simp [Block.mstCtl, h]

/-- The queue restarts: with SKIP past its entry, without it at that entry. -/
theorem Block.mq_mstCtl_of_stopped {b : Block} {n i j : Nat} (h : (b.mq n i j).stopped = true)
    (hentry : (b.mq n i j).head ≠ (b.mq n i j).tail) (skip : Bool) :
    (b.mstCtl n i j skip).mq n i j =
      { b.mq n i j with stopped := false, head := if skip then ((b.mq n i j).head + 1) % 65536 else (b.mq n i j).head } := by
  simp [Block.mstCtl, h, hentry]

@[simp] theorem Block.mstCtl_mem (b : Block) (n i j : Nat) (skip : Bool) : (b.mstCtl n i j skip).mem = b.mem :=
  (kept_mstCtl (st := false) ..).same rfl

@[simp] theorem Block.getR_mstCtl (b : Block) (n i j : Nat) (skip : Bool) (r : Reg) (i' j' k' : Nat) :
    (b.mstCtl n i j skip).getR r i' j' k' = b.getR r i' j' k' := by
  unfold Block.mstCtl
  split <;> simp

/-! ## The two commands on a queue that the access reaches -/

theorem exec_resumeQueue_of_reach {s : State} {part : Option Nat} {sail i j : Nat} (hon : s.start.dev ≠ .off)
    (hreach : s.start.mstReach sail part = some i) (hj : j < 2) :
    exec (.resumeQueue part sail j) s = .next (s.withBlk (s.start.mstCtl sail i j false)) := by
  have harm : exec (.resumeQueue part sail j) s = execResumeQueue part sail j s := rfl
  simp [harm, execResumeQueue, onBlk_on s _ hon, hreach, hj]

theorem exec_skipCmd_of_reach {s : State} {part : Option Nat} {sail i j : Nat} (hon : s.start.dev ≠ .off)
    (hreach : s.start.mstReach sail part = some i) (hj : j < 2) :
    exec (.skipCmd part sail j) s = .next (s.withBlk (s.start.mstCtl sail i j true)) := by
  have harm : exec (.skipCmd part sail j) s = execSkipCmd part sail j s := rfl
  simp [harm, execSkipCmd, onBlk_on s _ hon, hreach, hj]

/-- Settles O60: both commands are the write of MST_PCTL (`Block.mstCtl`) at the binding reached, which moves that queue on
and changes no byte of DRAM and no register. -/
theorem resumeAndSkip : Obligations.ResumeAndSkip := by
  intro s p sail i j hon hactive hbind hj
  have hreach : s.start.mstReach sail (some p) = some i := (Block.mstReach_of_active hactive p).trans hbind
  rw [exec_resumeQueue_of_reach hon hreach hj, exec_skipCmd_of_reach hon hreach hj]
  refine ⟨fun hstopped hentry => ⟨_, _, rfl, rfl, ?resumed, ?skipped, fun mc a => ?dram, fun r i' j' k' => ?registers⟩,
    fun hrunning => ?ignored⟩
  case resumed => exact Block.mq_mstCtl_of_stopped hstopped hentry false
  case skipped => exact Block.mq_mstCtl_of_stopped hstopped hentry true
  case dram => simp [State.byte]
  case registers => simp
  case ignored => simp [Block.mstCtl_of_not_stopped hrunning]

end Sys2Proof.Machine
end

section
/-! The proofs below are elaborated one after another: a compile that elaborates several at once needs more memory. -/
set_option Elab.async false

section
/-! PROOFS. What every command and every step keeps: the meanings' own lemmas (`kept_exec…`), put together over the opcode table. -/

namespace Sys2Proof.Machine

/-! ## Shape of a meaning -/

theorem uds_eq_onBlk (conn : Nat) (s : State) (f : Block → Block) : ∃ g, uds conn s f = onBlk s g := ⟨_, rfl⟩

theorem onGov_eq_onBlk (s : State) (f : Block → Block) : ∃ g, onGov s f = onBlk s g := ⟨_, rfl⟩

/-- Every meaning but the three that act in OFF is a change of a powered block. -/
theorem exec_eq_onBlk {c : Instr} (hpor : ∀ n, c ≠ .powerOnReset n) (haon : c ≠ .vddAonLoss) (hwake : c ≠ .wakeIn) (s : State) :
    ∃ f, exec c s = onBlk s f := by
  cases c with
  | powerOnReset n => exact absurd rfl (hpor n)
  | vddAonLoss => exact absurd rfl haon
  | wakeIn => exact absurd rfl hwake
  | governorSramError | millraceProbe | powerFailWarning => dsimp only [exec]; exact onGov_eq_onBlk ..
  | ecuReset => dsimp only [exec]; exact uds_eq_onBlk ..
  | _ => dsimp only [exec]; exact ⟨_, rfl⟩

/-- Every meaning is a change of the block alone. -/
theorem exec_eq_onPkg (c : Instr) (s : State) : ∃ f, exec c s = onPkg s f := by
  by_cases hpor : ∃ n, c = .powerOnReset n
  · obtain ⟨n, rfl⟩ := hpor
    dsimp only [exec]
    exact ⟨_, rfl⟩
  by_cases haon : c = .vddAonLoss
  · subst haon
    dsimp only [exec]
    exact ⟨_, rfl⟩
  by_cases hwake : c = .wakeIn
  · subst hwake
    dsimp only [exec]
    exact ⟨_, rfl⟩
  obtain ⟨f, hf⟩ := exec_eq_onBlk (fun n hn => hpor ⟨n, hn⟩) haon hwake s
  exact ⟨_, hf⟩

/-! ## What every command keeps -/

/-- The commands that start the block over, or may do so: both first starts, and the two that can wake it from standby (R518). -/
def startsOver : Instr → Bool
  | .powerOnReset .. | .vddAonLoss | .wakeIn | .shutdownComplete => true
  | _ => false

/-- Whatever command is taken, apart from those: nothing is lost that every step keeps, and DRAM is as before unless the command stores. -/
theorem kept_exec {c : Instr} {s t : State} (hc : startsOver c = false) (h : exec c s = .next t) :
    Block.Kept (mayStore c) s.blk t.blk := by
  cases c with
  | powerOnReset | vddAonLoss | wakeIn | shutdownComplete => cases hc
  | governorFirmwareEntry => exact kept_execGovernorFirmwareEntry s t h
  | packageWarmReset => exact kept_execPackageWarmReset s t h
  | warmResetDelayExpiry => exact kept_execWarmResetDelayExpiry s t h
  | trialTimerExpiry => exact kept_execTrialTimerExpiry s t h
  | startRequest => exact kept_execStartRequest _ s t h
  | safeHoldRequest => exact kept_execSafeHoldRequest _ s t h
  | serviceRequest => exact kept_execServiceRequest _ _ _ s t h
  | shutdownRequest => exact kept_execShutdownRequest s t h
  | resumeRequest => exact kept_execResumeRequest _ s t h
  | packageResetRequest => exact kept_execPackageResetRequest _ s t h
  | govHoldreqWrite mid => exact kept_execGovHoldreqWrite mid _ _ s t h
  | selftestComplete => exact kept_execSelftestComplete _ _ _ _ s t h
  | faultRaised => exact kept_execFaultRaised _ s t h
  | faultOutReadback => exact kept_execFaultOutReadback _ _ s t h
  | faultOutTest => exact kept_execFaultOutTest _ s t h
  | turnBoundary => exact kept_execTurnBoundary _ _ _ _ s t h
  | inputCutoff => exact kept_execInputCutoff s t h
  | sluiceWritesComplete => exact kept_execSluiceWritesComplete s t h
  | windowReportTimeout => exact kept_execWindowReportTimeout s t h
  | windowWriteDiscard => exact kept_execWindowWriteDiscard _ s t h
  | partitionEntry => exact kept_execPartitionEntry _ s t h
  | turnsealWrite => exact kept_execTurnsealWrite _ _ _ s t h
  | replicaSealed => exact kept_execReplicaSealed _ _ s t h
  | deadlineMark => exact kept_execDeadlineMark _ s t h
  | masterTimerMismatch => exact kept_execMasterTimerMismatch s t h
  | ppsInEdge => exact kept_execPpsInEdge s t h
  | turnSyncInEdge => exact kept_execTurnSyncInEdge s t h
  | holdoverEntry => exact kept_execHoldoverEntry s t h
  | holdoverLimit => exact kept_execHoldoverLimit s t h
  | ppsOutSecond => exact kept_execPpsOutSecond s t h
  | syncOutputPulseEnd => exact kept_execSyncOutputPulseEnd _ s t h
  | evtInputEdge => exact kept_execEvtInputEdge _ _ s t h
  | evtFilterAccept => exact kept_execEvtFilterAccept _ s t h
  | evtCrossingAck => exact kept_execEvtCrossingAck _ s t h
  | evtStuckRearm => exact kept_execEvtStuckRearm _ s t h
  | railSettled => exact kept_execRailSettled _ s t h
  | op0CleanComplete => exact kept_execOp0CleanComplete _ s t h
  | cacheErrorCorrected => exact kept_execCacheErrorCorrected _ _ _ _ _ _ s t h
  | cacheUncorrectableError => exact kept_execCacheUncorrectableError _ _ _ _ _ _ _ s t h
  | wayErrorDecay => exact kept_execWayErrorDecay _ s t h
  | l3MaskLockWrite => exact kept_execL3MaskLockWrite _ _ _ _ _ s t h
  | mntClean => exact kept_execMntClean _ _ _ s t h
  | mntCleaninv => exact kept_execMntCleaninv _ _ _ s t h
  | mntLockload => exact kept_execMntLockload _ _ _ s t h
  | mntReservedOp => exact kept_execMntReservedOp _ _ _ s t h
  | mntComplete => exact kept_execMntComplete _ s t h
  | coreStop => exact kept_execCoreStop _ _ _ s t h
  | sailCapwordRead => exact kept_execSailCapwordRead _ _ _ _ s t h
  | flumeTrainingComplete => exact kept_execFlumeTrainingComplete _ _ _ _ s t h
  | sailTrainingTimeout => exact kept_execSailTrainingTimeout _ s t h
  | sailSelftestComplete => exact kept_execSailSelftestComplete _ _ _ s t h
  | readmitRequest => exact kept_execReadmitRequest _ s t h
  | autoReadmit => exact kept_execAutoReadmit _ s t h
  | readmitStepsComplete => exact kept_execReadmitStepsComplete _ _ s t h
  | broadcastFence => exact kept_execBroadcastFence _ _ _ _ _ _ s t h
  | binvMsg => exact kept_execBinvMsg _ _ _ s t h
  | binvAck => exact kept_execBinvAck _ _ _ s t h
  | binvTimeout => exact kept_execBinvTimeout _ _ s t h
  | iotTranslate => exact kept_execIotTranslate _ _ _ _ _ _ _ s t h
  | iotinvalVma => exact kept_execIotinvalVma s t h
  | iotinvalGvma => exact kept_execIotinvalGvma s t h
  | iodirCmd => exact kept_execIodirCmd s t h
  | iofenceC => exact kept_execIofenceC s t h
  | iofenceCComplete => exact kept_execIofenceCComplete s t h
  | iotCommandIllegal => exact kept_execIotCommandIllegal s t h
  | mstDoorbell => exact kept_execMstDoorbell _ _ _ _ s t h
  | nopCmd => exact kept_execNopCmd _ _ _ s t h
  | gemmCmd => exact kept_execGemmCmd _ _ _ s t h
  | convCmd => exact kept_execConvCmd _ _ _ s t h
  | copyCmd => exact kept_execCopyCmd _ _ _ s t h
  | signalCmd => exact kept_execSignalCmd _ _ _ s t h
  | tileBlockBoundary => exact kept_execTileBlockBoundary _ _ _ _ _ _ s t h
  | millstoneCommandComplete => exact kept_execMillstoneCommandComplete _ _ _ s t h
  | resumeQueue => exact kept_execResumeQueue _ _ _ s t h
  | skipCmd => exact kept_execSkipCmd _ _ _ s t h
  | rdShared => exact kept_execRdShared _ _ _ _ _ _ s t h
  | rdUnique => exact kept_execRdUnique _ _ _ _ _ _ s t h
  | upgradeReq => exact kept_execUpgradeReq _ _ _ _ s t h
  | dirtyNote => exact kept_execDirtyNote _ _ _ _ s t h
  | wbDirty => exact kept_execWbDirty _ _ _ _ s t h
  | evictClean => exact kept_execEvictClean _ _ _ _ s t h
  | rdOnce => exact kept_execRdOnce _ _ _ _ _ s t h
  | wrFull => exact kept_execWrFull _ _ _ _ s t h
  | wrPart => exact kept_execWrPart _ _ _ _ s t h
  | wrData => exact kept_execWrData _ _ _ _ _ _ s t h
  | snpShared => exact kept_execSnpShared _ _ _ s t h
  | snpUnique => exact kept_execSnpUnique _ _ _ s t h
  | snpOnce => exact kept_execSnpOnce _ _ _ s t h
  | snpInv => exact kept_execSnpInv _ _ _ s t h
  | tagRead => exact kept_execTagRead _ _ _ s t h
  | snpResp => exact kept_execSnpResp _ _ _ _ _ _ s t h
  | snpData => exact kept_execSnpData _ _ _ _ _ s t h
  | tagResp => exact kept_execTagResp _ _ _ _ s t h
  | compMsg => exact kept_execCompMsg _ _ _ s t h
  | compData => exact kept_execCompData _ _ _ _ _ _ s t h
  | evictAck => exact kept_execEvictAck _ _ s t h
  | retryMsg => exact kept_execRetryMsg _ _ _ _ s t h
  | retryBackoffExpiry => exact kept_execRetryBackoffExpiry _ _ s t h
  | ioRd => exact kept_execIoRd _ _ _ _ s t h
  | ioWr => exact kept_execIoWr _ _ _ _ _ s t h
  | ioComp => exact kept_execIoComp _ _ _ _ s t h
  | requesterTimeout => exact kept_execRequesterTimeout _ _ s t h
  | homeTimeout => exact kept_execHomeTimeout _ _ _ s t h
  | filterUncorrectable => exact kept_execFilterUncorrectable _ _ s t h
  | rebuildSet => exact kept_execRebuildSet _ s t h
  | trackingModeSwitch => exact kept_execTrackingModeSwitch _ s t h
  | poisonMarkingComplete => exact kept_execPoisonMarkingComplete _ s t h
  | scrubRequest => exact kept_execScrubRequest _ _ s t h
  | flumePortIngress => exact kept_execFlumePortIngress _ _ _ _ _ _ s t h
  | meshLaneFail => exact kept_execMeshLaneFail _ _ _ s t h
  | meshHeaderUncorrectable => exact kept_execMeshHeaderUncorrectable _ s t h
  | routingTableWrite => exact kept_execRoutingTableWrite _ _ _ _ _ s t h
  | mrcSwapRequest => exact kept_execMrcSwapRequest _ s t h
  | routingDrainComplete => exact kept_execRoutingDrainComplete s t h
  | drainOverrun => exact kept_execDrainOverrun s t h
  | flumeFrameCrcError => exact kept_execFlumeFrameCrcError _ _ _ s t h
  | flumeNak => exact kept_execFlumeNak _ _ _ _ s t h
  | flumeNakResend => exact kept_execFlumeNakResend _ _ _ s t h
  | flumeLinkDown => exact kept_execFlumeLinkDown _ _ s t h
  | linksyncFrame => exact kept_execLinksyncFrame _ _ _ _ s t h
  | heartbeatFrame => exact kept_execHeartbeatFrame _ _ _ s t h
  | heartbeatReceived => exact kept_execHeartbeatReceived _ _ _ s t h
  | heartbeatTimeout => exact kept_execHeartbeatTimeout _ s t h
  | sailHubSilent => exact kept_execSailHubSilent _ s t h
  | boundaryFrame => exact kept_execBoundaryFrame _ _ _ s t h
  | retrain0 => exact kept_execRetrain0 _ _ s t h
  | retrain1 => exact kept_execRetrain1 _ _ s t h
  | flumeLinkRestored => exact kept_execFlumeLinkRestored _ _ s t h
  | memoryTrainingComplete => exact kept_execMemoryTrainingComplete _ _ _ _ _ _ _ _ s t h
  | eccSelftestComplete => exact kept_execEccSelftestComplete _ _ s t h
  | layoutInitComplete => exact kept_execLayoutInitComplete s t h
  | ownerChangeComplete => exact kept_execOwnerChangeComplete _ s t h
  | mr4Read => exact kept_execMr4Read _ _ s t h
  | mcRead => exact kept_execMcRead _ _ _ _ _ _ s t h
  | mcWrite => exact kept_execMcWrite _ _ _ _ _ _ _ s t h
  | mergeFlush => exact kept_execMergeFlush _ s t h
  | dresserRead => exact kept_execDresserRead _ _ _ s t h
  | abandonRepl => exact kept_execAbandonRepl _ _ _ s t h
  | digestComplete => exact kept_execDigestComplete _ _ _ s t h
  | bolterDecision => exact kept_execBolterDecision _ s t h
  | releaseInstant => exact kept_execReleaseInstant _ s t h
  | digestRecord => exact kept_execDigestRecord _ s t h
  | catchUpStart => exact kept_execCatchUpStart _ _ s t h
  | catchUpComplete => exact kept_execCatchUpComplete _ _ s t h
  | repairCopyComplete => exact kept_execRepairCopyComplete _ s t h
  | restoreStart => exact kept_execRestoreStart _ s t h
  | restoreComplete => exact kept_execRestoreComplete _ s t h
  | partitionRestartRequest => exact kept_execPartitionRestartRequest _ s t h
  | partitionResetRequest => exact kept_execPartitionResetRequest _ s t h
  | portEnable => exact kept_execPortEnable _ s t h
  | laneLock => exact kept_execLaneLock _ _ s t h
  | trainTimeout => exact kept_execTrainTimeout _ s t h
  | alignLock => exact kept_execAlignLock _ s t h
  | initFrame => exact kept_execInitFrame _ _ s t h
  | initSend => exact kept_execInitSend _ s t h
  | codewordLockLost => exact kept_execCodewordLockLost _ s t h
  | partnerAbsent => exact kept_execPartnerAbsent _ s t h
  | portReset => exact kept_execPortReset _ s t h
  | sackReceive => exact kept_execSackReceive _ _ _ _ _ s t h
  | uncorrectableCodeword => exact kept_execUncorrectableCodeword _ s t h
  | beaconFrame => exact kept_execBeaconFrame _ _ s t h
  | keepaliveFrame => exact kept_execKeepaliveFrame _ s t h
  | keepaliveReceived => exact kept_execKeepaliveReceived _ _ s t h
  | creditFrame => exact kept_execCreditFrame _ _ s t h
  | creditReport => exact kept_execCreditReport _ s t h
  | lanemapFrame => exact kept_execLanemapFrame _ _ s t h
  | lanemapResend => exact kept_execLanemapResend _ s t h
  | laneFail => exact kept_execLaneFail _ _ s t h
  | laneRestore => exact kept_execLaneRestore _ _ s t h
  | probeFrame => exact kept_execProbeFrame _ _ s t h
  | alignMarker => exact kept_execAlignMarker _ _ s t h
  | portBoundaryMissed => exact kept_execPortBoundaryMissed _ s t h
  | txSlotStart => exact kept_execTxSlotStart _ _ s t h
  | dupCopySend => exact kept_execDupCopySend _ s t h
  | slotEnd => exact kept_execSlotEnd _ _ s t h
  | scheduleAnnouncement => exact kept_execScheduleAnnouncement s t h
  | keyOffer => exact kept_execKeyOffer _ _ _ _ s t h
  | keyAccept => exact kept_execKeyAccept _ _ _ _ s t h
  | keyConfirm => exact kept_execKeyConfirm _ _ _ _ s t h
  | keyReject port payload => exact kept_execKeyReject port payload s t h
  | keyOfferResend => exact kept_execKeyOfferResend _ s t h
  | rekeyRequest => exact kept_execRekeyRequest _ _ s t h
  | ethernetFrameReceive => exact kept_execEthernetFrameReceive _ _ _ s t h
  | macsecKeyWrite => exact kept_execMacsecKeyWrite _ _ _ _ s t h
  | flowWalkComplete => exact kept_execFlowWalkComplete _ s t h
  | flowCacheError => exact kept_execFlowCacheError _ _ s t h
  | instanceDoorbell => exact kept_execInstanceDoorbell _ _ _ _ _ s t h
  | descriptorComplete => exact kept_execDescriptorComplete s t h
  | flowInsert => exact kept_execFlowInsert _ _ _ s t h
  | flowDelete => exact kept_execFlowDelete _ _ _ s t h
  | flowModify => exact kept_execFlowModify _ _ _ s t h
  | flowRead => exact kept_execFlowRead _ _ _ s t h
  | flowLookup => exact kept_execFlowLookup _ _ _ s t h
  | instConfig => exact kept_execInstConfig _ _ _ s t h
  | qctxWrite => exact kept_execQctxWrite _ _ _ s t h
  | qctxRead => exact kept_execQctxRead _ _ _ s t h
  | instShare => exact kept_execInstShare _ _ _ s t h
  | instResetDrain => exact kept_execInstResetDrain _ _ _ s t h
  | instResetSquash => exact kept_execInstResetSquash _ _ _ s t h
  | logConfig => exact kept_execLogConfig _ _ _ s t h
  | logSwap => exact kept_execLogSwap _ _ _ s t h
  | logStop => exact kept_execLogStop _ _ _ s t h
  | instClrerr => exact kept_execInstClrerr _ _ _ s t h
  | drainTimeout => exact kept_execDrainTimeout _ s t h
  | instanceResetComplete => exact kept_execInstanceResetComplete _ s t h
  | hopMntClean => exact kept_execHopMntClean _ _ _ s t h
  | hopMntCleaninv => exact kept_execHopMntCleaninv _ _ _ s t h
  | hopMntComplete => exact kept_execHopMntComplete s t h
  | hopperEntryError => exact kept_execHopperEntryError _ _ s t h
  | functionLevelReset => exact kept_execFunctionLevelReset _ s t h
  | gptpSync => exact kept_execGptpSync _ s t h
  | timeSyncLoss => exact kept_execTimeSyncLoss s t h
  | diagnosticSessionControl => exact kept_execDiagnosticSessionControl _ _ s t h
  | ecuReset => exact kept_execEcuReset _ _ s t h
  | clearDiagnosticInformation => exact kept_execClearDiagnosticInformation _ _ s t h
  | readDtcInformation => exact kept_execReadDtcInformation _ _ s t h
  | readDataByIdentifier => exact kept_execReadDataByIdentifier _ _ s t h
  | udsAuthentication => exact kept_execUdsAuthentication _ _ s t h
  | routineControl => exact kept_execRoutineControl _ _ s t h
  | requestDownload conn req => exact kept_execRequestDownload conn req s t h
  | transferData => exact kept_execTransferData _ _ s t h
  | requestTransferExit conn req => exact kept_execRequestTransferExit conn req s t h
  | testerPresent => exact kept_execTesterPresent _ _ s t h
  | controlDtcSetting => exact kept_execControlDtcSetting _ _ s t h
  | udsUnsupportedService => exact kept_execUdsUnsupportedService _ _ s t h
  | pciPerstRelease => exact kept_execPciPerstRelease s t h
  | pciPerstAssert => exact kept_execPciPerstAssert s t h
  | pcieLinkUp => exact kept_execPcieLinkUp _ _ _ _ s t h
  | pcieFreeze => exact kept_execPcieFreeze _ _ s t h
  | releaseSub => exact kept_execReleaseSub _ _ _ _ s t h
  | pciePortReset => exact kept_execPciePortReset _ s t h
  | pcieInboundRequest => exact kept_execPcieInboundRequest _ _ _ _ _ _ s t h
  | pcieDoorbell => exact kept_execPcieDoorbell _ _ _ s t h
  | pcieOutboundRequest => exact kept_execPcieOutboundRequest _ _ _ _ _ _ _ s t h
  | pcieCompletion => exact kept_execPcieCompletion _ _ _ _ _ _ _ s t h
  | completionTimeout => exact kept_execCompletionTimeout _ _ s t h
  | tagQuarantineExpiry => exact kept_execTagQuarantineExpiry _ _ s t h
  | windowCommit => exact kept_execWindowCommit _ _ s t h
  | windowCommitApplied => exact kept_execWindowCommitApplied _ s t h
  | pciHintWrite => exact kept_execPciHintWrite _ s t h
  | dictionaryWindowGo => exact kept_execDictionaryWindowGo s t h
  | lockstepMismatch => exact kept_execLockstepMismatch s t h
  | governorSramError => exact kept_execGovernorSramError _ _ s t h
  | millraceProbe => exact kept_execMillraceProbe _ s t h
  | mirrorRefresh => exact kept_execMirrorRefresh s t h
  | postMsg => exact kept_execPostMsg _ _ _ _ _ s t h
  | ackMsg => exact kept_execAckMsg _ _ _ _ s t h
  | ackabort => exact kept_execAckabort _ _ _ _ s t h
  | lockAcquire => exact kept_execLockAcquire _ _ _ s t h
  | lockRelease => exact kept_execLockRelease _ _ _ _ s t h
  | lockForceRelease => exact kept_execLockForceRelease _ _ _ _ s t h
  | dictionaryRead => exact kept_execDictionaryRead _ _ _ _ _ s t h
  | dictionaryWrite => exact kept_execDictionaryWrite _ _ _ _ s t h
  | usdoRequest => exact kept_execUsdoRequest _ _ _ _ s t h
  | usdoSessionTimeout => exact kept_execUsdoSessionTimeout _ _ s t h
  | nmtCommand => exact kept_execNmtCommand s t h
  | canopenHeartbeat => exact kept_execCanopenHeartbeat _ s t h
  | commitImg => exact kept_execCommitImg _ s t h
  | discardImg => exact kept_execDiscardImg _ s t h
  | persistImg => exact kept_execPersistImg _ s t h
  | commitAndPersist => exact kept_execCommitAndPersist _ s t h
  | commitChecksComplete => exact kept_execCommitChecksComplete s t h
  | imageSwitch => exact kept_execImageSwitch s t h
  | stagerTimeout => exact kept_execStagerTimeout s t h
  | persistComplete => exact kept_execPersistComplete _ s t h
  | imageMemoryError => exact kept_execImageMemoryError _ _ s t h
  | loadPublicKey => exact kept_execLoadPublicKey _ _ _ s t h
  | revokeSlot => exact kept_execRevokeSlot _ _ s t h
  | vendorDebugConsent => exact kept_execVendorDebugConsent _ s t h
  | sessionChallenge => exact kept_execSessionChallenge _ s t h
  | sessionResponse => exact kept_execSessionResponse _ _ s t h
  | endSession => exact kept_execEndSession _ s t h
  | sessionTimeout => exact kept_execSessionTimeout _ _ s t h
  | challengeExpiry => exact kept_execChallengeExpiry _ _ s t h
  | authLockoutExpiry => exact kept_execAuthLockoutExpiry _ s t h
  | bundleUpload => exact kept_execBundleUpload _ _ _ _ s t h
  | confirmBank => exact kept_execConfirmBank _ s t h
  | advanceCounter => exact kept_execAdvanceCounter _ s t h
  | cancelPending => exact kept_execCancelPending _ s t h
  | attestationNonce => exact kept_execAttestationNonce _ _ s t h
  | extendMeasurement => exact kept_execExtendMeasurement _ _ _ s t h
  | dbgStart => exact kept_execDbgStart s t h
  | dbgRespWrite => exact kept_execDbgRespWrite _ s t h
  | dbgSubmit => exact kept_execDbgSubmit s t h
  | dbgEnd => exact kept_execDbgEnd s t h
  | powerGood => exact kept_execPowerGood _ s t h
  | powerGoodTimeout => exact kept_execPowerGoodTimeout _ s t h
  | powerGoodLost => exact kept_execPowerGoodLost _ s t h
  | regulatorRefresh => exact kept_execRegulatorRefresh s t h
  | regulatorAlert => exact kept_execRegulatorAlert _ s t h
  | powerFailWarning => exact kept_execPowerFailWarning s t h
  | sensorReading => exact kept_execSensorReading _ _ s t h
  | thermalTrip sensor => exact kept_execThermalTrip sensor s t h
  | clockLost => exact kept_execClockLost _ s t h
  | clockRegained => exact kept_execClockRegained _ s t h
  | registerWrite => exact kept_execRegisterWrite _ _ _ _ s t h
  | loadOp => exact kept_execLoadOp _ _ _ _ _ _ _ _ s t h
  | storeOp => exact kept_execStoreOp _ _ _ _ _ _ s t h
  | amo => exact kept_execAmo _ _ _ _ _ _ _ s t h
  | instructionFetch => exact kept_execInstructionFetch _ _ _ _ s t h
  | cacheBlockOperation => exact kept_execCacheBlockOperation _ _ _ _ s t h
  | sfenceVma => exact kept_execSfenceVma _ _ _ _ _ _ s t h
  | timerInterrupt => exact kept_execTimerInterrupt _ _ s t h
  | haltRequest => exact kept_execHaltRequest _ _ s t h
  | abstractCommand => exact kept_execAbstractCommand _ _ _ s t h
  | trstN => exact kept_execTrstN _ s t h
  | pllOutOfLock => exact kept_execPllOutOfLock _ s t h
  | pgMemFall => exact kept_execPgMemFall s t h
  | pwrEnCoreTimeout => exact kept_execPwrEnCoreTimeout s t h
  | pciPerstoNRelease => exact kept_execPciPerstoNRelease _ s t h
  | hotInsertion => exact kept_execHotInsertion _ s t h
  | configurationRequest => exact kept_execConfigurationRequest _ _ s t h
  | ltrMessage => exact kept_execLtrMessage _ _ s t h
  | correctableError => exact kept_execCorrectableError _ _ s t h
  | syncAndFollowUp => exact kept_execSyncAndFollowUp s t h
  | routingActivation => exact kept_execRoutingActivation _ _ _ s t h

/-- Whatever command is taken: canonical memory and blown fuses stay. -/
theorem held_exec {c : Instr} {s t : State} (h : exec c s = .next t) : s.blk.Held t.blk := by
  cases hc : startsOver c with
  | false => exact (kept_exec hc h).held
  | true =>
    cases c with
    | powerOnReset => exact kept_execPowerOnReset _ s t h
    | vddAonLoss => exact kept_execVddAonLoss s t h
    | wakeIn => exact (kept_execWakeIn s t h).held
    | shutdownComplete => exact (kept_execShutdownComplete s t h).held
    | _ => cases hc

/-- Whatever command is taken but the two starts without a first-fault record: the record keeps its entries and its bound. -/
theorem heldF_exec {c : Instr} {s t : State} (h : exec c s = .next t) (hpor : ∀ n, c ≠ .powerOnReset n) (haon : c ≠ .vddAonLoss) :
    s.blk.HeldF t.blk := by
  cases hc : startsOver c with
  | false => exact (kept_exec hc h).heldF
  | true =>
    cases c with
    | powerOnReset n => exact absurd rfl (hpor n)
    | vddAonLoss => exact absurd rfl haon
    | wakeIn => exact kept_execWakeIn s t h
    | shutdownComplete => exact kept_execShutdownComplete s t h
    | _ => cases hc

/-! ## Steps -/

theorem held_step {s t : State} (h : step s = .next t) : s.blk.Held t.blk := by
  obtain ⟨b, q⟩ := s
  cases q with
  | nil =>
    cases h
    exact (kept_stateIdle (st := false) ⟨b, []⟩).held
  | cons c q => exact held_exec (s := ⟨b, q⟩) h

/-- Settles O48: the command at the front, or a cycle with none, keeps the canonical form (`held_step`). -/
theorem memoryStaysCanonical : Obligations.MemoryStaysCanonical := by
  intro s t ⟨hmem, hscr⟩ h
  exact ⟨(held_step h).mem hmem, (held_step h).scr hscr⟩

/-- Settles O49: fuses are written by the three fuse commands alone, and those only blow them (`held_step`). -/
theorem fusesOnlyGrow : Obligations.FusesOnlyGrow :=
  fun _ _ h => (held_step h).otp

/-- Settles O50: first-fault entries are only appended, up to sixteen, and a class 5 fault is cleared by a start alone. -/
theorem firstFaultsStay : Obligations.FirstFaultsStay := by
  intro c s t h hpor haon
  have hf := heldF_exec h hpor haon
  refine ⟨hf.first, hf.len, fun hwake hdown => ?_⟩
  have hc : startsOver c = false := by
    cases c with
    | powerOnReset n => exact absurd rfl (hpor n)
    | vddAonLoss => exact absurd rfl haon
    | wakeIn => exact absurd rfl hwake
    | shutdownComplete => exact absurd rfl hdown
    | _ => rfl
  exact (kept_exec hc h).fatal

/-- Every command that starts over counts as storing. -/
theorem startsOver_of_mayStore_eq_false {c : Instr} (hst : mayStore c = false) : startsOver c = false := by
  cases c with
  | powerOnReset | vddAonLoss | wakeIn | shutdownComplete => cases hst
  | _ => rfl

/-- Settles O51: a command outside `mayStore` leaves the contents of DRAM as they were (`Block.Kept.same`). -/
theorem onlyStoresChangeDram : Obligations.OnlyStoresChangeDram := by
  intro c s t mc a hst h
  have hmem : t.blk.mem = s.blk.mem := (kept_exec (startsOver_of_mayStore_eq_false hst) h).same hst
  rw [State.byte, State.byte, hmem]

/-! ## OFF, completion and the front of the queue -/

/-- Settles O45: every meaning is a change of the block alone (`exec_eq_onPkg`). -/
theorem everyCommandCompletes : Obligations.EveryCommandCompletes := by
  intro c s
  obtain ⟨f, hf⟩ := exec_eq_onPkg c s
  exact ⟨f s.start, hf⟩

/-- Settles O46: every other meaning acts on a powered block alone (`exec_eq_onBlk`). -/
theorem offIsInert : Obligations.OffIsInert := by
  intro c s hoff hpor haon hwake
  obtain ⟨f, hf⟩ := exec_eq_onBlk hpor haon hwake s
  rw [hf]
  exact onBlk_off s f hoff

end Sys2Proof.Machine
end

section
/-! PROOFS. From a meaning's change of the block to what the command does: one rule for each frame that a meaning is written in. -/

namespace Sys2Proof.Machine

/-- A command of a powered block, read at the block as the command finds it. -/
theorem onBlk_next {s : State} {f : Block → Block} {b x : Block} (hon : b.dev ≠ .off) (h : f b = x) (hb : s.start = b := by rfl) :
    onBlk s f = .next (s.withBlk x) := by
  subst hb h
  exact onBlk_on s f hon

/-- What leaves a powered block alone has no effect in any state. -/
theorem onBlk_unchanged {s : State} {f : Block → Block} {b : Block} (h : b.dev ≠ .off → f b = b) (hb : s.start = b := by rfl) :
    onBlk s f = .next (s.withBlk b) := by
  subst hb
  by_cases hon : s.start.dev = .off
  · exact onBlk_off s f hon
  · exact onBlk_next hon (h hon)

/-- What the governor does, while it runs. -/
theorem onGov_next {s : State} {f : Block → Block} {b x : Block} (hon : b.dev ≠ .off) (hgov : b.govHalted = false) (h : f b = x)
    (hb : s.start = b := by rfl) : onGov s f = .next (s.withBlk x) :=
  onBlk_next hon (by simp [hgov, h]) hb

/-- A halted governor does nothing (R413). -/
theorem onGov_halted {s : State} {f : Block → Block} {b : Block} (hgov : b.govHalted = true) (hb : s.start = b := by rfl) :
    onGov s f = .next (s.withBlk b) :=
  onBlk_unchanged (fun _ => by simp [hgov]) hb

end Sys2Proof.Machine
end

section
/-! PROOFS. Whole lines at a controller: bytes of a sparse memory, what a write stores and leaves, and that a read gives it back (R21, R256, R259, R262). -/

namespace Sys2Proof.Machine

/-! ## Bytes of a number -/

theorem leBytes_length (n v : Nat) : (leBytes n v).length = n := by
  induction n generalizing v with
  | zero => rfl
  | succ n ih => simp [leBytes, ih]

theorem leBytes_getD {n i : Nat} (h : i < n) (v : Nat) : (leBytes n v).getD i 0 = BitVec.ofNat 8 (v / 2 ^ (8 * i)) := by
  induction n generalizing v i with
  | zero => omega
  | succ n ih =>
    cases i with
    | zero => simp [leBytes]
    | succ i =>
      have hpow : 256 * 2 ^ (8 * i) = 2 ^ (8 * (i + 1)) := by rw [Nat.mul_succ, Nat.pow_add, Nat.mul_comm]
      rw [leBytes, List.getD_cons_succ, ih (by omega), Nat.div_div_eq_div_mul, hpow]

theorem leNat_leBytes {n v : Nat} (h : v < 2 ^ (8 * n)) : leNat (leBytes n v) = v := by
  induction n generalizing v with
  | zero => simp only [leBytes, leNat]; omega
  | succ n ih =>
    have hq : v / 256 < 2 ^ (8 * n) := by
      rw [Nat.div_lt_iff_lt_mul (by decide)]
      rwa [Nat.mul_succ, Nat.pow_add] at h
    rw [leBytes, leNat, ih hq, BitVec.toNat_ofNat]
    omega

/-! ## Runs of bytes in a sparse memory -/

theorem SMap.get_setRun {β : Type} [DecidableEq β] (d : β) (j : Nat) (vs : List β) (k : Nat) (m : List (Nat × β)) :
    SMap.get d j (SMap.setRun d k vs m) = if k ≤ j ∧ j < k + vs.length then vs.getD (j - k) d else SMap.get d j m := by
  induction vs generalizing k m with
  | nil =>
    rw [SMap.setRun, if_neg (by simp only [List.length_nil]; omega)]
  | cons v vs ih =>
    rw [SMap.setRun, ih]
    by_cases hj : j = k
    · subst hj
      rw [if_neg (by omega), if_pos (by simp only [List.length_cons]; omega), Nat.sub_self, SMap.get_set_same, List.getD_cons_zero]
    · rw [SMap.get_set_ne d d hj]
      by_cases hin : k + 1 ≤ j ∧ j < k + 1 + vs.length
      · have hsub : j - k = j - (k + 1) + 1 := by omega
        rw [if_pos hin, if_pos (by simp only [List.length_cons]; omega), hsub, List.getD_cons_succ]
      · rw [if_neg hin, if_neg (by simp only [List.length_cons]; omega)]

theorem SMap.getRun_congr {β : Type} {d : β} {m m' : List (Nat × β)} {k n : Nat}
    (h : ∀ i < n, SMap.get d (k + i) m' = SMap.get d (k + i) m) : SMap.getRun d k n m' = SMap.getRun d k n m := by
  induction n generalizing k with
  | zero => rfl
  | succ n ih =>
    have h0 := h 0 (by omega)
    rw [Nat.add_zero] at h0
    rw [SMap.getRun, SMap.getRun, h0, ih fun i hi => by have := h (i + 1) (by omega); rwa [← Nat.add_assoc, Nat.add_right_comm] at this]

theorem SMap.getRun_setRun_same {β : Type} [DecidableEq β] (d : β) (vs : List β) (k : Nat) (m : List (Nat × β)) :
    SMap.getRun d k vs.length (SMap.setRun d k vs m) = vs := by
  induction vs generalizing k m with
  | nil => rfl
  | cons v vs ih =>
    rw [List.length_cons, SMap.getRun, SMap.setRun, ih, SMap.get_setRun, if_neg (by omega), SMap.get_set_same]

theorem SMap.getRun_setRun_disjoint {β : Type} [DecidableEq β] (d : β) (vs : List β) {j k n : Nat} (h : j + n ≤ k ∨ k + vs.length ≤ j)
    (m : List (Nat × β)) : SMap.getRun d j n (SMap.setRun d k vs m) = SMap.getRun d j n m :=
  SMap.getRun_congr fun i hi => by rw [SMap.get_setRun, if_neg (by omega)]

/-! ## A quantity that a loop leaves alone -/

theorem Block.forL_eq {α β : Type} (q : Block → β) {f : α → Block → Block} (h : ∀ x c, q (f x c) = q c) (l : List α) (b : Block) :
    q (b.forL l f) = q b := by
  unfold Block.forL
  induction l generalizing b with
  | nil => rfl
  | cons x l ih => rw [List.foldl_cons, ih, h]

theorem Block.forN_eq {β : Type} (q : Block → β) {f : Nat → Block → Block} (h : ∀ i c, q (f i c) = q c) (n : Nat) (b : Block) :
    q (b.forN n f) = q b :=
  Block.forL_eq q h (List.range n) b

theorem Block.when_eq {β : Type} (q : Block → β) {f : Block → Block} (h : ∀ c, q (f c) = q c) (p : Bool) (b : Block) :
    q (b.when p f) = q b := by
  unfold Block.when
  split
  · exact h b
  · rfl

/-! ## The layout of DRAM -/

/-- What the place of an address depends on is the same: the descriptors, the capacity, the carve-outs and the active image. -/
structure Block.SameLayout (b c : Block) : Prop where
  active : c.active = b.active
  otp : c.otp = b.otp
  cap : c.getR .MC_CFG = b.getR .MC_CFG
  carve : c.getR .MC_LAYOUT = b.getR .MC_LAYOUT
  desc : ∀ i < 64, ∀ w < 4, c.desc i w = b.desc i w

theorem Block.SameLayout.of_eq {b c : Block} (ha : c.active = b.active) (ho : c.otp = b.otp) (hr : c.regs = b.regs) : b.SameLayout c := by
  have hget : ∀ r i j k, c.getR r i j k = b.getR r i j k := fun r i j k => by rw [Block.getR, Block.getR, hr]
  exact ⟨ha, ho, hget .., hget .., fun i _ w _ => hget ..⟩

theorem Block.SameLayout.refl (b : Block) : b.SameLayout b := .of_eq rfl rfl rfl

theorem Block.SameLayout.trans {a b c : Block} (h : a.SameLayout b) (k : b.SameLayout c) : a.SameLayout c :=
  ⟨k.active.trans h.active, k.otp.trans h.otp, k.cap.trans h.cap, k.carve.trans h.carve,
    fun i hi w hw => (k.desc i hi w hw).trans (h.desc i hi w hw)⟩

theorem Block.SameLayout.when {b : Block} {p : Bool} {f : Block → Block} (h : ∀ c : Block, c.SameLayout (f c)) : b.SameLayout (b.when p f) := by
  unfold Block.when
  split
  · exact h b
  · exact .refl b

/-- The registers that a controller writes while it serves lines lie outside the layout's. -/
def outsideLayout (r : Reg) (i j k : Nat) : Prop :=
  r.addr i j k % 0x10000 = 8 ∨ r.addr i j k % 0x10000 = 0x600

theorem Block.SameLayout.setR (b : Block) {r : Reg} {i j k : Nat} (h : outsideLayout r i j k) (v : Nat) : b.SameLayout (b.setR r v i j k) := by
  have hne : ∀ x : Reg, ∀ i' j' k' : Nat, ((x = .MC_CFG ∨ x = .MC_LAYOUT) ∧ i' = 0 ∧ j' = 0 ∧ k' = 0) ∨ (x = .MC_RD ∧ i' = 0 ∧ j' < 64 ∧ k' < 4) →
      x.addr i' j' k' ≠ r.addr i j k := by
    intro x i' j' k' hx
    unfold outsideLayout at h
    generalize r.addr i j k = a at h
    rcases hx with ⟨rfl | rfl, rfl, rfl, rfl⟩ | ⟨rfl, rfl, hj, hk⟩ <;> simp only [Reg.addr, Reg.desc] <;> omega
  refine ⟨rfl, rfl, ?_, ?_, fun d hd w hw => ?_⟩
  · exact b.getR_setR_ne (hne .MC_CFG 0 0 0 (by simp)) v
  · exact b.getR_setR_ne (hne .MC_LAYOUT 0 0 0 (by simp)) v
  · exact b.getR_setR_ne (hne .MC_RD 0 d w (by simp [hd, hw])) v

theorem outsideLayout_mcStatus (mc : Nat) : outsideLayout .MC_STATUS mc 0 0 := by
  simp only [outsideLayout, Reg.addr, Reg.desc]; omega

theorem outsideLayout_rsvOver (mc : Nat) : outsideLayout .MC_RSVOVER mc 0 0 := by
  simp only [outsideLayout, Reg.addr, Reg.desc]; omega

theorem Block.getR_inc_ne (b : Block) {f : Fld} {r : Reg} {i j k i' j' k' : Nat} (h : r.addr i' j' k' ≠ f.reg.addr i j k) :
    (b.inc f i j k).getR r i' j' k' = b.getR r i' j' k' :=
  b.getR_put_ne h _

section
variable {r : Reg} {i j k : Nat} (h : r.addr i j k ≠ Reg.addr .GOV_FLOGIDX 0 0 0)
include h

theorem Block.getR_writeEntry_ne (b : Block) (f : FaultSpec) : (b.writeEntry f).getR r i j k = b.getR r i j k := by
  simp only [Block.writeEntry]
  split
  · rw [Block.getR_inc_ne _ h, Block.getR_put_ne _ h]; rfl
  · rw [Block.getR_put_ne _ h]; rfl

/-- Logging changes no register but the log's index. -/
theorem Block.getR_note_ne (b : Block) (f : FaultSpec) : (b.note f).getR r i j k = b.getR r i j k := by
  unfold Block.note
  split
  · rfl
  dsimp only
  split
  · rfl
  split
  · split
    · rw [Block.getR_writeEntry_ne h]; rfl
    · rfl
  · rw [Block.getR_writeEntry_ne h]; rfl

theorem Block.getR_noteOnce_ne (b : Block) (key : Nat) (f : FaultSpec) : (b.noteOnce key f).getR r i j k = b.getR r i j k := by
  unfold Block.noteOnce
  split
  · split <;> rfl
  · rw [Block.getR_note_ne h]; rfl

end

theorem Block.SameLayout.noteOnce (b : Block) (key : Nat) (f : FaultSpec) : b.SameLayout (b.noteOnce key f) := by
  refine ⟨by simp, by simp, ?_, ?_, fun d hd w hw => ?_⟩ <;> refine Block.getR_noteOnce_ne ?_ b key f <;>
    simp only [Reg.addr, Reg.desc] <;> omega

section
variable {b c : Block} (h : b.SameLayout c)
include h

theorem Block.SameLayout.actN_eq (idx sub : Nat) : c.actN idx sub = b.actN idx sub := by
  simp [Block.actN, Block.act, Block.objDefault, Block.powerDefault, h.active, h.otp]

theorem Block.SameLayout.covers_eq {i : Nat} (hi : i < 64) (pa : Nat) : c.covers pa i = b.covers pa i := by
  simp [Block.covers, h.desc i hi 0 (by decide), h.desc i hi 1 (by decide), h.desc i hi 2 (by decide)]

theorem Block.SameLayout.regionOf_eq (pa : Nat) : c.regionOf pa = b.regionOf pa := by
  unfold Block.regionOf
  have hmem : ∀ l : List Nat, (∀ i ∈ l, i < 64) → l.find? (fun i => c.covers pa i) = l.find? (fun i => b.covers pa i) := by
    intro l hl
    induction l with
    | nil => rfl
    | cons i l ih =>
      rw [List.find?_cons, List.find?_cons, h.covers_eq (hl i (by simp)), ih fun j hj => hl j (by simp [hj])]
  exact hmem _ fun i hi => List.mem_range.mp hi

theorem Block.SameLayout.capBytes_eq : c.capBytes = b.capBytes := by
  have hget : c.get MC_CFG_CAP = b.get MC_CFG_CAP := by rw [Block.get, Block.get]; exact congrArg (bits · _ _) h.cap
  simp [Block.capBytes, hget]

theorem Block.SameLayout.layout_eq (f : Fld) (hf : f.reg = .MC_LAYOUT) : c.get f = b.get f := by
  rw [Block.get, Block.get, hf, h.carve]

end

theorem Block.regionOf_lt {b : Block} {pa i : Nat} (h : b.regionOf pa = some i) : i < 64 :=
  List.mem_range.mp (List.mem_of_find?_eq_some h)

theorem Block.desc_lt_of_place {b : Block} {pa : Nat} {p : Place} (h : b.place pa = some p) : p.desc < 64 :=
  Block.regionOf_lt (b.regionOf_of_place h)

section
variable {b c : Block} (h : b.SameLayout c)
include h

theorem Block.SameLayout.place_eq (pa : Nat) : c.place pa = b.place pa := by
  unfold Block.place
  rw [h.regionOf_eq]
  cases hi : b.regionOf pa with
  | none => rfl
  | some i =>
    have hlt := Block.regionOf_lt hi
    simp only [h.desc i hlt 0 (by decide), h.desc i hlt 1 (by decide), h.desc i hlt 3 (by decide), h.capBytes_eq,
      Block.carveK, Block.poolQ, h.layout_eq MC_LAYOUT_K rfl, h.layout_eq MC_LAYOUT_Q rfl]

theorem Block.SameLayout.bankRetired_eq (mc loc : Nat) : c.bankRetired mc loc = b.bankRetired mc loc := by
  simp [Block.bankRetired, h.actN_eq]

theorem Block.SameLayout.dramOk_eq (pa : Nat) : c.dramOk pa = b.dramOk pa := by
  unfold Block.dramOk
  rw [h.place_eq]
  cases hp : b.place pa with
  | none => rfl
  | some p =>
    simp only [Block.retired, h.actN_eq, h.bankRetired_eq, h.capBytes_eq, h.desc p.desc (b.desc_lt_of_place hp) 0 (by decide)]

end

end Sys2Proof.Machine
end

section
/-! PROOFS. What a write of a whole line at a controller stores, and the read that gives it back (R256, R259, R261, R262, R264). -/

namespace Sys2Proof.Machine

/-! ## Tokens and charges change nothing of what is stored -/

/-- Layout and stored lines are the same: bytes, wrong symbols, poison marks and the merge buffer. -/
structure Block.SameLines (b c : Block) : Prop where
  layout : b.SameLayout c
  mem : c.mem = b.mem
  errs : c.ms.errs = b.ms.errs
  poison : c.ms.poison = b.ms.poison
  merge : c.ms.merge = b.ms.merge
  mirrors : c.blt = b.blt
  out : c.out = b.out
  dev : c.dev = b.dev

theorem Block.SameLines.refl (b : Block) : b.SameLines b := ⟨.refl b, rfl, rfl, rfl, rfl, rfl, rfl, rfl⟩

theorem Block.SameLines.trans {a b c : Block} (h : a.SameLines b) (k : b.SameLines c) : a.SameLines c :=
  ⟨h.layout.trans k.layout, k.mem.trans h.mem, k.errs.trans h.errs, k.poison.trans h.poison, k.merge.trans h.merge,
    k.mirrors.trans h.mirrors, k.out.trans h.out, k.dev.trans h.dev⟩

theorem Block.SameLines.when {b : Block} {p : Bool} {f : Block → Block} (h : ∀ c : Block, c.SameLines (f c)) : b.SameLines (b.when p f) := by
  unfold Block.when
  split
  · exact h b
  · exact .refl b

theorem Block.SameLines.begin (b : Block) (hout : b.out = []) : b.SameLines b.begin :=
  ⟨.of_eq rfl rfl rfl, rfl, rfl, rfl, rfl, rfl, hout.symm, rfl⟩

theorem Block.SameLines.charge (b : Block) (ch p n : Nat) : b.SameLines (b.charge ch p n) := by
  unfold Block.charge
  split
  · exact .refl b
  · exact ⟨.of_eq rfl rfl rfl, rfl, rfl, rfl, rfl, rfl, rfl, rfl⟩

theorem Block.SameLines.takeToken (b : Block) (mc p : Nat) : b.SameLines (b.takeToken mc p) := by
  have hlevel : ∀ (l : List (Nat × Bucket)), b.SameLines { b with ms := { b.ms with buckets := l } } :=
    fun l => ⟨.of_eq rfl rfl rfl, rfl, rfl, rfl, rfl, rfl, rfl, rfl⟩
  have hover : ∀ (c : Block) v, c.SameLines (c.setR .MC_RSVOVER v mc) :=
    fun c v => ⟨.setR c (outsideLayout_rsvOver mc) v, rfl, rfl, rfl, rfl, rfl, rfl, rfl⟩
  have hnote : ∀ (c : Block) f, c.SameLines (c.noteOnce mc f) :=
    fun c f => ⟨.noteOnce c mc f, by simp, by simp, by simp, by simp, by simp, by simp, by simp⟩
  unfold Block.takeToken
  dsimp only
  split
  · exact hlevel _
  · exact ((hlevel _).trans (hover _ _)).trans (hnote _ _)

theorem Block.SameLines.takeTokens (b : Block) (part pa : Nat) (write : Bool) : b.SameLines (b.takeTokens part pa write) := by
  unfold Block.takeTokens
  split
  · exact .refl b
  split
  · exact .refl b
  · exact (Block.SameLines.takeToken b ..).trans (.when fun c => .takeToken c ..)

section
variable {b c : Block} (h : b.SameLines c)
include h

theorem Block.SameLines.copyErrs_eq (mc loc : Nat) : c.copyErrs mc loc = b.copyErrs mc loc := by
  rw [Block.copyErrs, Block.copyErrs, h.errs]

theorem Block.SameLines.copyPoison_eq (mc loc : Nat) : c.copyPoison mc loc = b.copyPoison mc loc := by
  rw [Block.copyPoison, Block.copyPoison, h.poison]

theorem Block.SameLines.lineBytes_eq (mc loc : Nat) : c.lineBytes mc loc = b.lineBytes mc loc := by
  rw [Block.lineBytes, Block.lineBytes, h.mem]

theorem Block.SameLines.mergeUse_eq (mc : Nat) : c.mergeUse mc = b.mergeUse mc := by
  rw [Block.mergeUse, Block.mergeUse, h.merge]

end

/-! ## Room in the merge buffer -/

theorem Block.mergeRoom_of_room {b : Block} {mc : Nat} (h : b.mergeUse mc < 28) (tc3 : Bool) : b.mergeRoom mc tc3 = b := by
  have hfree : ¬ (if tc3 then 32 else 28) ≤ b.mergeUse mc := by split <;> omega
  simp [Block.mergeRoom, Block.when, hfree]

theorem Block.SameLayout.putMergeUse (b : Block) (v mc : Nat) : b.SameLayout (b.put MC_STATUS_MERGEUSE v mc) :=
  .setR b (outsideLayout_mcStatus mc) _

/-- The entries of another controller stay. -/
theorem mergeFilter_other {l : List MergeEnt} {e x : MergeEnt} {mc : Nat} {p : MergeEnt → Bool} (hmc : e.mc ≠ mc)
    (hx : x.mc = e.mc) (hp : ∀ y : MergeEnt, y.mc ≠ e.mc → p y = true) (full : Prop) [Decidable full] :
    ((if full then l.filter p else l.filter p ++ [x]).filter (fun y => y.mc = mc)) = l.filter (fun y => y.mc = mc) := by
  have hkeep : (l.filter p).filter (fun y => y.mc = mc) = l.filter (fun y => y.mc = mc) := by
    rw [List.filter_filter]
    refine List.filter_congr fun y _ => ?_
    by_cases hy : y.mc = mc
    · simp [hy, hp y (by rw [hy]; exact hmc.symm)]
    · simp [hy]
  split
  · exact hkeep
  · have hdrop : [x].filter (fun y => y.mc = mc) = [] :=
      List.filter_cons_of_neg (by simp only [hx, hmc, decide_false, Bool.false_eq_true, not_false_eq_true])
    rw [List.filter_append, hkeep, hdrop, List.append_nil]

/-- With room, an entry of the merge buffer and MC_STATUS change, and nothing at another controller. -/
theorem Block.mergeInto_of_room {b : Block} {e : MergeEnt} (h : b.mergeUse e.mc < 28) (tc3 : Bool) :
    ∃ l r, b.mergeInto e tc3 = { b with ms := { b.ms with merge := l }, regs := r }
      ∧ b.SameLayout (b.mergeInto e tc3) ∧ ∀ mc, e.mc ≠ mc → (b.mergeInto e tc3).mergeUse mc = b.mergeUse mc := by
  have hroom : ∀ p, b.when p (Block.mergeRoom e.mc tc3) = b := fun p => by
    unfold Block.when
    split
    · exact Block.mergeRoom_of_room h tc3
    · rfl
  unfold Block.mergeInto
  simp only [hroom]
  refine ⟨_, _, rfl, ?_, fun mc hmc => ?_⟩
  · refine .trans ?_ (.putMergeUse ..)
    exact .of_eq rfl rfl rfl
  · refine congrArg List.length (mergeFilter_other hmc ?_ (fun y hy => ?_) _)
    · rfl
    · simp [hy]

theorem Block.mergeCheck_of_room {b : Block} {p : Place} (h : b.mergeUse p.mc < 28) (code : Nat) (tc3 : Bool) :
    ∃ l r, b.mergeCheck p code tc3 = { b with ms := { b.ms with merge := l }, regs := r }
      ∧ b.SameLayout (b.mergeCheck p code tc3) ∧ ∀ mc, p.mc ≠ mc → (b.mergeCheck p code tc3).mergeUse mc = b.mergeUse mc :=
  Block.mergeInto_of_room (b := b) h tc3

/-! ## A copy of a line -/

/-- What a write does at one copy of a line. -/
def Block.writeCopy (mid part pa data : Nat) (poison tc3 : Bool) (p : Place) (b : Block) : Block :=
  let code := descCode (b.desc p.desc 0)
  let b := b.storeLine p.mc p.loc data |>.setCopyErrs p.mc p.loc 0
  if code ≠ codeN then b.setCopyPoison p.mc p.loc poison |>.mergeCheck p code tc3
  else b.when poison fun b =>
    b.inc MC_MIRCNT_NOPOIS p.mc |>.note { code := 0x2608, addr := some pa } |>.elogEntry p.mc pa 5 false 0 mid part p.loc

theorem Block.mcWriteOne_eq (mid part pa data : Nat) (poison tc3 : Bool) (b : Block) :
    ∃ c, b.SameLines c
      ∧ b.mcWriteOne mid part pa data poison tc3 = c.forL (c.copiesOf pa) (Block.writeCopy mid part pa data poison tc3) :=
  ⟨_, .charge .., rfl⟩

/-- The copy at a place holds `data` without wrong symbols and, where its code stores poison, the mark given; nothing else that is stored changes. -/
structure Block.CopyWritten (p : Place) (data : Nat) (poison : Bool) (b c : Block) : Prop where
  layout : b.SameLayout c
  mem : c.mem = SMap.setRun 0 (cellKey p.mc (p.loc / 64 * 64)) (leBytes 64 data) b.mem
  errs : c.ms.errs = SMap.set 0 (copyKey p.mc p.loc) 0 b.ms.errs
  poison : descCode (b.desc p.desc 0) ≠ codeN → c.ms.poison = SMap.set false (copyKey p.mc p.loc) poison b.ms.poison
  mergeUse : ∀ mc, p.mc ≠ mc → c.mergeUse mc = b.mergeUse mc
  dev : c.dev = b.dev

/-! What the three stores of a copy leave: each changes the one collection it names. -/

@[simp] theorem Block.storeLine_mem (b : Block) (mc loc data : Nat) :
    (b.storeLine mc loc data).mem = SMap.setRun 0 (cellKey mc (loc / 64 * 64)) (leBytes 64 data) b.mem := rfl
@[simp] theorem Block.storeLine_ms (b : Block) (mc loc data : Nat) : (b.storeLine mc loc data).ms = b.ms := rfl
@[simp] theorem Block.storeLine_dev (b : Block) (mc loc data : Nat) : (b.storeLine mc loc data).dev = b.dev := rfl
@[simp] theorem Block.setCopyErrs_mem (b : Block) (mc loc e : Nat) : (b.setCopyErrs mc loc e).mem = b.mem := rfl
@[simp] theorem Block.setCopyErrs_dev (b : Block) (mc loc e : Nat) : (b.setCopyErrs mc loc e).dev = b.dev := rfl
@[simp] theorem Block.setCopyErrs_errs (b : Block) (mc loc e : Nat) :
    (b.setCopyErrs mc loc e).ms.errs = SMap.set 0 (copyKey mc loc) e b.ms.errs := rfl
@[simp] theorem Block.setCopyErrs_poison (b : Block) (mc loc e : Nat) : (b.setCopyErrs mc loc e).ms.poison = b.ms.poison := rfl
@[simp] theorem Block.setCopyErrs_merge (b : Block) (mc loc e : Nat) : (b.setCopyErrs mc loc e).ms.merge = b.ms.merge := rfl
@[simp] theorem Block.setCopyPoison_mem (b : Block) (mc loc : Nat) (p : Bool) : (b.setCopyPoison mc loc p).mem = b.mem := rfl
@[simp] theorem Block.setCopyPoison_dev (b : Block) (mc loc : Nat) (p : Bool) : (b.setCopyPoison mc loc p).dev = b.dev := rfl
@[simp] theorem Block.setCopyPoison_errs (b : Block) (mc loc : Nat) (p : Bool) : (b.setCopyPoison mc loc p).ms.errs = b.ms.errs := rfl
@[simp] theorem Block.setCopyPoison_poison (b : Block) (mc loc : Nat) (p : Bool) :
    (b.setCopyPoison mc loc p).ms.poison = SMap.set false (copyKey mc loc) p b.ms.poison := rfl
@[simp] theorem Block.setCopyPoison_merge (b : Block) (mc loc : Nat) (p : Bool) : (b.setCopyPoison mc loc p).ms.merge = b.ms.merge := rfl

theorem Block.SameLayout.storeLine (b : Block) (mc loc data : Nat) : b.SameLayout (b.storeLine mc loc data) := .of_eq rfl rfl rfl
theorem Block.SameLayout.setCopyErrs (b : Block) (mc loc e : Nat) : b.SameLayout (b.setCopyErrs mc loc e) := .of_eq rfl rfl rfl
theorem Block.SameLayout.setCopyPoison (b : Block) (mc loc : Nat) (p : Bool) : b.SameLayout (b.setCopyPoison mc loc p) := .of_eq rfl rfl rfl

theorem Block.writeCopy_written {b : Block} {p : Place} {poison : Bool} (hroom : b.mergeUse p.mc < 28)
    (hN : descCode (b.desc p.desc 0) = codeN → poison = false) (mid part pa data : Nat) (tc3 : Bool) :
    Block.CopyWritten p data poison b (b.writeCopy mid part pa data poison tc3 p) := by
  have hstored : b.SameLayout ((b.storeLine p.mc p.loc data).setCopyErrs p.mc p.loc 0) := .trans (.storeLine ..) (.setCopyErrs ..)
  unfold Block.writeCopy
  dsimp only
  by_cases hcode : descCode (b.desc p.desc 0) = codeN
  · rw [if_neg (Classical.not_not.mpr hcode), hN hcode]
    simp only [Block.when, Bool.false_eq_true, if_false]
    exact ⟨hstored, by simp, by simp, fun h => absurd hcode h, fun mc _ => by simp [Block.mergeUse], by simp⟩
  · rw [if_pos hcode]
    have hlayout := hstored.trans (.setCopyPoison _ p.mc p.loc poison)
    obtain ⟨l, r, heq, hmerge, huse⟩ := Block.mergeCheck_of_room
      (b := ((b.storeLine p.mc p.loc data).setCopyErrs p.mc p.loc 0).setCopyPoison p.mc p.loc poison) (by simpa [Block.mergeUse] using hroom)
      (descCode (b.desc p.desc 0)) tc3
    refine ⟨hlayout.trans hmerge, ?_, ?_, fun _ => ?_, fun mc hmc => (huse mc hmc).trans (by simp [Block.mergeUse]), ?_⟩ <;> rw [heq] <;> simp

/-! ## Keys of bytes and copies -/

theorem copyKey_inj {mc mc' loc loc' : Nat} (h : loc < 0x800000000) (h' : loc' < 0x800000000)
    (hkey : copyKey mc loc = copyKey mc' loc') : mc = mc' := by
  unfold copyKey at hkey
  omega

/-- The other controller of a mirrored pair. -/
theorem xorN_four_ne (mc : Nat) : xorN mc 4 ≠ mc := by
  intro h
  have hz : mc ^^^ (mc ^^^ 4) = mc ^^^ mc := congrArg (mc ^^^ ·) h
  rw [← Nat.xor_assoc, Nat.xor_self, Nat.zero_xor] at hz
  exact absurd hz (by decide)

/-- A byte after a line was stored at a controller. -/
theorem get_cellKey_storeLine {mc mc' loc a : Nat} (ha : a < 0x800000000) (hloc : loc < 0x800000000) (data : Nat) (m : List Host.Cell) :
    SMap.get 0 (cellKey mc' a) (SMap.setRun 0 (cellKey mc (loc / 64 * 64)) (leBytes 64 data) m) =
      if mc' = mc ∧ a / 64 = loc / 64 then BitVec.ofNat 8 (data / 2 ^ (8 * (a % 64))) else SMap.get 0 (cellKey mc' a) m := by
  rw [SMap.get_setRun, leBytes_length]
  unfold cellKey
  by_cases h : mc' = mc ∧ a / 64 = loc / 64
  · obtain ⟨rfl, hline⟩ := h
    have hoff : mc' * 0x800000000 + a - (mc' * 0x800000000 + loc / 64 * 64) = a % 64 := by omega
    rw [if_pos (by omega), if_pos ⟨rfl, hline⟩, hoff]
    exact leBytes_getD (Nat.mod_lt _ (by decide)) data
  · rw [if_neg h, if_neg fun hin => h (by omega)]

/-! ## The whole write -/

/-- The line of a place, under its code, after a write of all 64 bytes. -/
structure Block.LineWritten (p : Place) (code data : Nat) (poison : Bool) (b c : Block) : Prop where
  layout : b.SameLayout c
  byte : ∀ mc a : Nat, a < 0x800000000 → SMap.get 0 (cellKey mc a) c.mem =
    if (mc = p.mc ∨ (code = codeM ∧ mc = xorN p.mc 4)) ∧ a / 64 = p.loc / 64 then BitVec.ofNat 8 (data / 2 ^ (8 * (a % 64)))
    else SMap.get 0 (cellKey mc a) b.mem
  line : c.lineBytes p.mc p.loc = leBytes 64 data
  errs : c.copyErrs p.mc p.loc = 0
  poison : code ≠ codeN → c.copyPoison p.mc p.loc = poison
  dev : c.dev = b.dev

theorem Block.lineBytes_of_written {p : Place} {data : Nat} {poison : Bool} {b c : Block} (h : Block.CopyWritten p data poison b c) :
    c.lineBytes p.mc p.loc = leBytes 64 data := by
  have hrun := SMap.getRun_setRun_same 0 (leBytes 64 data) (cellKey p.mc (p.loc / 64 * 64)) b.mem
  rw [leBytes_length] at hrun
  rw [Block.lineBytes, h.mem, hrun]

/-- One copy: every code but M. -/
theorem Block.LineWritten.of_single {p : Place} {code data : Nat} {poison : Bool} {b c : Block} (hloc : p.loc < 0x800000000)
    (hcode : descCode (b.desc p.desc 0) = code) (hM : code ≠ codeM) (h : Block.CopyWritten p data poison b c) :
    Block.LineWritten p code data poison b c := by
  refine ⟨h.layout, fun mc a ha => ?_, Block.lineBytes_of_written h, ?_, fun hN => ?_, h.dev⟩
  · rw [h.mem, get_cellKey_storeLine ha hloc]
    simp [hM]
  · rw [Block.copyErrs, h.errs, SMap.get_set_same]
  · rw [Block.copyPoison, h.poison (hcode ▸ hN), SMap.get_set_same]

/-- Two copies, the second at the partner controller: Code M. -/
theorem Block.LineWritten.of_mirrored {p : Place} {data : Nat} {poison : Bool} {b c d : Block} (hp : p.desc < 64) (hloc : p.loc < 0x800000000)
    (hcode : descCode (b.desc p.desc 0) = codeM) (h : Block.CopyWritten p data poison b c)
    (k : Block.CopyWritten { p with mc := xorN p.mc 4 } data poison c d) : Block.LineWritten p codeM data poison b d := by
  have hcodec : descCode (c.desc p.desc 0) = codeM := by rw [h.layout.desc p.desc hp 0 (by decide), hcode]
  have hkey : copyKey p.mc p.loc ≠ copyKey (xorN p.mc 4) p.loc := fun he => xorN_four_ne p.mc (copyKey_inj hloc hloc he).symm
  have hne := xorN_four_ne p.mc
  refine ⟨h.layout.trans k.layout, fun mc a ha => ?_, ?_, ?_, fun hN => ?_, k.dev.trans h.dev⟩
  · rw [k.mem, get_cellKey_storeLine ha hloc, h.mem, get_cellKey_storeLine ha hloc]
    by_cases hline : a / 64 = p.loc / 64 <;> by_cases hmc : mc = xorN p.mc 4 <;> simp [hline, hmc]
  · rw [Block.lineBytes, k.mem, SMap.getRun_setRun_disjoint]
    · exact Block.lineBytes_of_written h
    · rw [leBytes_length]
      simp only [cellKey]
      omega
  · rw [Block.copyErrs, k.errs, SMap.get_set_ne _ _ hkey, h.errs, SMap.get_set_same]
  · rw [Block.copyPoison, k.poison (by rw [hcodec]; exact hN), SMap.get_set_ne _ _ hkey, h.poison (by rw [hcode]; exact hN), SMap.get_set_same]

theorem Block.copiesOf_of_place {b : Block} {pa : Nat} {p : Place} (h : b.place pa = some p) :
    b.copiesOf pa = p :: if descCode (b.desc p.desc 0) = codeM then [{ p with mc := xorN p.mc 4 }] else [] := by
  simp [Block.copiesOf, h]

/-- What the statements on a whole line assume of the block and the address. -/
structure Block.WriteReady (pa : Nat) (poison : Bool) (p : Place) (code : Nat) (b : Block) : Prop where
  placeEq : b.place (pa / 64 * 64) = some p
  locLt : p.loc < 0x800000000
  codeEq : descCode (b.desc p.desc 0) = code
  cleanN : code = codeN → poison = false
  mirrors : b.blt.mirrors.filter (fun m => m.1 ≤ pa / 64 * 64 && pa / 64 * 64 < m.1 + m.2.1) = []
  room : b.mergeUse p.mc < 28
  partnerRoom : b.mergeUse (xorN p.mc 4) < 28

theorem Block.WriteReady.of_same {pa : Nat} {poison : Bool} {p : Place} {code : Nat} {b c : Block} (h : b.WriteReady pa poison p code)
    (k : b.SameLines c) : c.WriteReady pa poison p code := by
  have hdesc := k.layout.desc p.desc (Block.desc_lt_of_place h.placeEq) 0 (by decide)
  refine ⟨?_, h.locLt, ?_, h.cleanN, ?_, ?_, ?_⟩
  · rw [k.layout.place_eq, h.placeEq]
  · rw [hdesc, h.codeEq]
  · rw [k.mirrors, h.mirrors]
  · rw [k.mergeUse_eq]; exact h.room
  · rw [k.mergeUse_eq]; exact h.partnerRoom

theorem Block.LineWritten.after_same {p : Place} {code data : Nat} {poison : Bool} {a b c : Block} (k : a.SameLines b)
    (h : Block.LineWritten p code data poison b c) : Block.LineWritten p code data poison a c :=
  ⟨k.layout.trans h.layout, fun mc x hx => by rw [h.byte mc x hx, k.mem], h.line, h.errs, h.poison, h.dev.trans k.dev⟩

theorem Block.mcWriteOne_written {pa : Nat} {poison : Bool} {p : Place} {code : Nat} {b : Block} (h : b.WriteReady pa poison p code)
    (mid part data : Nat) (tc3 : Bool) : Block.LineWritten p code data poison b (b.mcWriteOne mid part (pa / 64 * 64) data poison tc3) := by
  obtain ⟨c, hsame, heq⟩ := Block.mcWriteOne_eq mid part (pa / 64 * 64) data poison tc3 b
  have hready := h.of_same hsame
  have hp := Block.desc_lt_of_place h.placeEq
  have hfirst := Block.writeCopy_written hready.room (fun hN => h.cleanN (hready.codeEq ▸ hN)) mid part (pa / 64 * 64) data tc3
  rw [heq, Block.copiesOf_of_place hready.placeEq]
  refine .after_same hsame ?_
  by_cases hM : code = codeM
  · subst hM
    rw [if_pos hready.codeEq]
    refine .of_mirrored hp h.locLt hready.codeEq hfirst (Block.writeCopy_written ?_ (fun hN => ?_) ..)
    · rw [hfirst.mergeUse _ (xorN_four_ne p.mc).symm]
      exact hready.partnerRoom
    · refine h.cleanN ?_
      rw [← hready.codeEq, ← hfirst.layout.desc p.desc hp 0 (by decide)]
      exact hN
  · rw [if_neg (by rw [hready.codeEq]; exact hM)]
    exact .of_single h.locLt hready.codeEq hM hfirst

/-- The command writes the line of the place, and nothing else that is stored. -/
theorem exec_mcWrite_written {s : State} {mid part pa data : Nat} {poison tc3 : Bool} {p : Place} {code : Nat} (hon : s.start.dev ≠ .off)
    (hok : s.start.dramOk pa = true) (h : s.start.WriteReady pa poison p code) :
    ∃ c, exec (.mcWrite mid part pa data (2 ^ 64 - 1) poison tc3) s = .next (s.withBlk c) ∧ Block.LineWritten p code data poison s.start c := by
  have hsame : s.start.SameLines (s.start.when tc3 fun b => b.takeTokens part pa true) := .when fun c => .takeTokens c part pa true
  have hready := h.of_same hsame
  have hw := Block.mcWriteOne_written hready mid part data tc3
  refine ⟨_, (onBlk_next hon rfl : execMcWrite mid part pa data (2 ^ 64 - 1) poison tc3 s = _), ?_⟩
  simp only [hok, Bool.not_true, Bool.false_eq_true, if_false, Nat.reducePow, Nat.reduceSub, Nat.reduceMod, if_true, Block.mcWrite,
    hready.mirrors]
  exact ⟨hsame.layout.trans hw.layout, fun mc a ha => by rw [← hsame.mem]; exact hw.byte mc a ha, hw.line, hw.errs, hw.poison, hw.dev.trans hsame.dev⟩

/-- Settles O52: the line's copies take the data, and the merge buffer has room, so nothing is flushed (`exec_mcWrite_written`). -/
theorem wholeLineWrite : Obligations.WholeLineWrite := by
  intro s mid part pa data poison tc3 p code hon hplace hok hloc hcode hpoison hmirrors hroom hroom'
  obtain ⟨c, hexec, hw⟩ := exec_mcWrite_written (data := data) (mid := mid) (part := part) (tc3 := tc3) hon hok
    ⟨hplace, hloc, hcode, hpoison, hmirrors, hroom, hroom'⟩
  exact ⟨_, hexec, hw.byte⟩

end Sys2Proof.Machine
end

section
/-! PROOFS. The read of a line gives back what was written into it (R259, R260). -/

namespace Sys2Proof.Machine

/-! ## Logging an error of memory emits nothing -/

@[simp] theorem Block.mapHarts_out (b : Block) (f : Nat → Hart → Hart) : (b.mapHarts f).out = b.out := rfl
@[simp] theorem Block.putRows_out (b : Block) (mc : Nat) (l : List RowCnt) : (b.putRows mc l).out = b.out := rfl
@[simp] theorem Block.putChecks_out (b : Block) (mc : Nat) (l : List Nat) : (b.putChecks mc l).out = b.out := rfl
@[simp] theorem Block.storeLine_out (b : Block) (mc loc data : Nat) : (b.storeLine mc loc data).out = b.out := rfl
@[simp] theorem Block.storeBytes_out (b : Block) (mc loc : Nat) (v : Bytes) : (b.storeBytes mc loc v).out = b.out := rfl
@[simp] theorem Block.setCopyErrs_out (b : Block) (mc loc e : Nat) : (b.setCopyErrs mc loc e).out = b.out := rfl
@[simp] theorem Block.setCopyPoison_out (b : Block) (mc loc : Nat) (p : Bool) : (b.setCopyPoison mc loc p).out = b.out := rfl
@[simp] theorem Block.setFilt_out (b : Block) (line n : Nat) (v : FiltEnt) : (b.setFilt line n v).out = b.out := rfl
@[simp] theorem Block.setDir_out (b : Block) (line n : Nat) (st : FSt) : (b.setDir line n st).out = b.out := rfl

@[simp] theorem Block.pmu_out (b : Block) (s ev : Nat) (part : Option Nat) (n : Nat) : (b.pmu s ev part n).out = b.out := by
  unfold Block.pmu
  split
  · rfl
  split
  · rfl
  · exact Block.forN_eq Block.out (fun k c => Block.when_eq Block.out (fun d => by simp) _ c) ..

@[simp] theorem Block.backInval_out (b : Block) (n line : Nat) : (b.backInval n line).out = b.out := by
  unfold Block.backInval
  exact Block.forL_eq Block.out (fun e c => by simp) ..

@[simp] theorem Block.setL3_out (b : Block) (n line : Nat) (v : L3Line) : (b.setL3 n line v).out = b.out := by
  simp only [Block.setL3, Block.modCoh_out]
  exact Block.when_eq Block.out (fun c => by simp) ..

@[simp] theorem Block.record_out (b : Block) (line n : Nat) (st : FSt) (way : Nat) : (b.record line n st way).out = b.out := by
  unfold Block.record
  split <;> simp

@[simp] theorem Block.storeCopies_out (b : Block) (pa data : Nat) (poison : Bool) : (b.storeCopies pa data poison).out = b.out := by
  unfold Block.storeCopies
  refine Block.forL_eq Block.out (fun p c => ?_) ..
  rw [Block.when_eq Block.out (fun d => by simp)]
  simp

@[simp] theorem Block.recallLine_out (b : Block) (line : Nat) : (b.recallLine line).out = b.out := by
  unfold Block.recallLine
  refine Block.forN_eq Block.out (fun n c => ?_) ..
  rw [Block.when_eq Block.out (fun d => by simp), Block.when_eq Block.out (fun d => by simp), Block.when_eq Block.out (fun d => by simp)]

@[simp] theorem Block.pokeBytes_out (b : Block) (pa : Nat) (v : Bytes) : (b.pokeBytes pa v).out = b.out := by
  unfold Block.pokeBytes
  dsimp only
  refine (Block.forL_eq Block.out (fun p c => ?_) ..).trans (by simp)
  rw [Block.when_eq Block.out (fun d => by simp)]
  simp

@[simp] theorem Block.countRow_out (b : Block) (mc key : Nat) : (b.countRow mc key).2.out = b.out := by
  unfold Block.countRow
  dsimp only
  split
  · split <;> simp
  · split <;> simp

@[simp] theorem Block.elogEntry_out (b : Block) (mc pa kind : Nat) (mirror : Bool) (nsym mid part loc : Nat) :
    (b.elogEntry mc pa kind mirror nsym mid part loc).out = b.out := by
  unfold Block.elogEntry
  extract_lets -merge -underBinder +onlyGivenNames size
  split
  · rfl
  extract_lets -merge -underBinder +onlyGivenNames ovf
  have hovf : ∀ c, (ovf c).out = c.out := fun c => by
    unfold ovf
    split
    · rfl
    · exact (Block.note_out ..).trans (Block.put_out ..)
  clear_value ovf size
  split
  · exact hovf b
  extract_lets -merge -underBinder +onlyGivenNames rowKey
  clear_value rowKey
  have hcount := b.countRow_out mc rowKey
  split
  rename_i rows c heq
  rw [heq] at hcount
  clear heq
  extract_lets -merge -underBinder +onlyGivenNames w0 count w1 w3 a wraps written
  have hwritten : written.out = c.out := Block.pokeBytes_out ..
  clear_value written w0 count w1 w3 a
  subst wraps
  extract_lets -merge -underBinder +onlyGivenNames counted
  have hcounted : counted.out = c.out := by
    rw [← hwritten]
    exact (Block.put_out ..).trans (Block.when_eq Block.out Block.tickFree_out _ written)
  clear_value counted
  extract_lets -merge -underBinder +onlyGivenNames src logged
  have hlogged : logged.out = b.out := hcounted.trans hcount
  clear_value logged
  split
  · exact (hovf _).trans hlogged
  · exact hlogged

/-! ## Reading a line without wrong symbols -/

theorem Block.SameLines.cacheCheck (b : Block) (p : Place) (code : Nat) : b.SameLines (b.cacheCheck p code) := by
  have hputs : ∀ (c : Block) l, c.SameLines (c.putChecks p.mc l) := fun c l => ⟨.of_eq rfl rfl rfl, rfl, rfl, rfl, rfl, rfl, rfl, rfl⟩
  have htick : b.SameLines b.tickFree := ⟨.of_eq rfl rfl rfl, rfl, rfl, rfl, rfl, rfl, rfl, rfl⟩
  unfold Block.cacheCheck
  dsimp only
  split
  · exact .refl b
  split
  · exact hputs ..
  · exact htick.trans (hputs ..)

/-- No wrong symbols: the line is good, or poisoned where its code stores poison. -/
theorem decodeCopy_zero (code : Nat) (poison : Bool) :
    decodeCopy code 0 poison = if code ≠ codeN ∧ poison = true then .poisoned else .good := by
  unfold decodeCopy
  by_cases hN : code = codeN <;> by_cases hL : code = codeL <;> cases poison <;> simp [hN, hL]

/-- A copy without wrong symbols gives its bytes and, where its code stores poison, its mark; nothing is emitted. -/
theorem Block.mcRead_of_noErrs {b : Block} {pa : Nat} {p : Place} (hplace : b.place pa = some p) (herrs : b.copyErrs p.mc p.loc = 0)
    (mid part : Nat) :
    (b.mcRead mid part pa).1
        = (leNat (b.lineBytes p.mc p.loc), decide (descCode (b.desc p.desc 0) ≠ codeN) && b.copyPoison p.mc p.loc)
      ∧ (b.mcRead mid part pa).2.out = b.out := by
  have hsame : b.SameLines ((b.charge 14 part (64 * 2480)).cacheCheck p (descCode (b.desc p.desc 0))) :=
    .trans (.charge ..) (.cacheCheck ..)
  unfold Block.mcRead
  simp only [hplace]
  generalize (b.charge 14 part (64 * 2480)).cacheCheck p (descCode (b.desc p.desc 0)) = c at hsame
  rw [hsame.copyErrs_eq, hsame.copyPoison_eq, hsame.lineBytes_eq, herrs, decodeCopy_zero]
  by_cases hpoison : descCode (b.desc p.desc 0) ≠ codeN ∧ b.copyPoison p.mc p.loc = true
  · rw [if_pos hpoison]
    exact ⟨by simp [hpoison.1, hpoison.2], (Block.elogEntry_out ..).trans hsame.out⟩
  · rw [if_neg hpoison]
    exact ⟨by simpa using hpoison, hsame.out⟩

/-- No new wrong symbols: every count stays as it reads. -/
theorem Block.addErrs_zero (b : Block) (pa : Nat) :
    b.SameLayout (b.addErrs pa 0 0) ∧ (b.addErrs pa 0 0).mem = b.mem ∧ (b.addErrs pa 0 0).ms.poison = b.ms.poison
      ∧ (∀ mc loc, (b.addErrs pa 0 0).copyErrs mc loc = b.copyErrs mc loc) ∧ (b.addErrs pa 0 0).out = b.out := by
  have hset : ∀ (c : Block) mc loc mc' loc', (c.setCopyErrs mc loc (c.copyErrs mc loc + 0)).copyErrs mc' loc' = c.copyErrs mc' loc' := by
    intro c mc loc mc' loc'
    rw [Block.copyErrs, Block.setCopyErrs_errs]
    by_cases hkey : copyKey mc' loc' = copyKey mc loc
    · rw [hkey, SMap.get_set_same, Nat.add_zero, Block.copyErrs, Block.copyErrs, hkey]
    · rw [SMap.get_set_ne _ _ hkey, Block.copyErrs]
  unfold Block.addErrs
  split
  · exact ⟨.refl b, rfl, rfl, fun _ _ => rfl, rfl⟩
  · refine ⟨.trans (.setCopyErrs ..) (.when fun c => .setCopyErrs ..), ?_, ?_, fun mc loc => ?_, ?_⟩
    · exact (Block.when_eq Block.mem (fun c => Block.setCopyErrs_mem ..) ..).trans (Block.setCopyErrs_mem ..)
    · exact (Block.when_eq (fun c => c.ms.poison) (fun c => Block.setCopyErrs_poison ..) ..).trans (Block.setCopyErrs_poison ..)
    · exact (Block.when_eq (fun c => c.copyErrs mc loc) (fun c => hset ..) ..).trans (hset ..)
    · exact (Block.when_eq Block.out (fun c => Block.setCopyErrs_out ..) ..).trans (Block.setCopyErrs_out ..)

/-- Settles O53: the place of the line, its bytes, its count of wrong symbols and its mark are those that the write left (`exec_mcWrite_written`), and a
read of a line without wrong symbols emits just that (`Block.mcRead_of_noErrs`). -/
theorem writeThenRead : Obligations.WriteThenRead := by
  intro s t mid mid' part part' pa pa' data poison tc3 tc3' p code hon hplace hok hloc hcode hpoison hmirrors hroom hroom' hmc hdata hline hok' hwrite
  obtain ⟨c, hexec, hw⟩ := exec_mcWrite_written (data := data) (mid := mid) (part := part) (tc3 := tc3) hon hok
    ⟨hplace, hloc, hcode, hpoison, hmirrors, hroom, hroom'⟩
  obtain rfl : s.withBlk c = t := by rw [hexec] at hwrite; exact Host.Outcome.next.inj hwrite
  have hp := Block.desc_lt_of_place hplace
  have hlayout : s.start.SameLayout c.begin := hw.layout.trans (.of_eq rfl rfl rfl)
  have honc : c.begin.dev ≠ .off := by rw [show c.begin.dev = c.dev from rfl, hw.dev]; exact hon
  have hokc : c.begin.dramOk pa' = true := by rw [hlayout.dramOk_eq]; exact hok'
  refine ⟨_, (onBlk_next honc rfl : execMcRead mid' part' pa' 0 0 tc3' (s.withBlk c) = _), ?_⟩
  simp only [hokc, Bool.not_true, Bool.false_eq_true, if_false, hline]
  obtain ⟨hadd, haddMem, haddPoison, haddErrs, haddOut⟩ := c.begin.addErrs_zero pa'
  generalize c.begin.addErrs pa' 0 0 = d at hadd haddMem haddPoison haddErrs haddOut
  have hsame : d.SameLines (d.when tc3' fun b => b.takeTokens part' pa' false) := .when fun c => .takeTokens c part' pa' false
  generalize d.when tc3' (fun b => b.takeTokens part' pa' false) = e at hsame
  have hlayoute : s.start.SameLayout e := (hlayout.trans hadd).trans hsame.layout
  obtain ⟨hread, hreadOut⟩ := Block.mcRead_of_noErrs (b := e) (pa := pa / 64 * 64) (p := p) (by rw [hlayoute.place_eq, hplace])
    (by rw [hsame.copyErrs_eq, haddErrs]; exact hw.errs) mid' part'
  have hbytes : e.lineBytes p.mc p.loc = leBytes 64 data := by
    rw [hsame.lineBytes_eq, ← hw.line, Block.lineBytes, haddMem, Block.lineBytes]
    rfl
  have hmark : (decide (code ≠ codeN) && e.copyPoison p.mc p.loc) = poison := by
    by_cases hN : code = codeN
    · simp [hN, hpoison hN]
    · have hstored : e.copyPoison p.mc p.loc = poison := by
        rw [hsame.copyPoison_eq, ← hw.poison hN, Block.copyPoison, haddPoison, Block.copyPoison]
        rfl
      simp [hN, hstored]
  have hout : (e.mcRead mid' part' (pa / 64 * 64)).2.out = [] := by rw [hreadOut, hsame.out, haddOut]; rfl
  have hwidth : data < 2 ^ (8 * 64) := by rwa [show 8 * 64 = 512 from rfl]
  rw [hbytes, leNat_leBytes hwidth, hlayoute.desc p.desc hp 0 (by decide), hcode, hmark] at hread
  show ((e.mcRead mid' part' (pa / 64 * 64)).2.emit _).out = _
  rw [Block.emit_out, hout, hread]
  rfl

end Sys2Proof.Machine
end

section
/-! PROOFS. Register fields (R11), the vote of the bolter (R286), and slice and set of a line (R81). -/

namespace Sys2Proof.Machine

/-! ## Bit fields -/

theorem bits_eq_div_mod (v : Nat) {lo hi : Nat} (h : lo ≤ hi) : bits v lo hi = v % 2 ^ (hi + 1) / 2 ^ lo := by
  have hsplit : hi + 1 = lo + (hi + 1 - lo) := by omega
  rw [bits, hsplit, Nat.add_sub_cancel_left, Nat.pow_add, Nat.mod_mul_right_div_self]

/-- A field depends on the bits up to its highest alone. -/
theorem bits_congr {v v' lo hi n : Nat} (hlo : lo ≤ hi) (hn : hi < n) (h : v % 2 ^ n = v' % 2 ^ n) : bits v lo hi = bits v' lo hi := by
  have hdvd : 2 ^ (hi + 1) ∣ 2 ^ n := Nat.pow_dvd_pow 2 hn
  rw [bits_eq_div_mod v hlo, bits_eq_div_mod v' hlo, ← Nat.mod_mod_of_dvd v hdvd, h, Nat.mod_mod_of_dvd v' hdvd]

/-- A field depends on the bits from its lowest alone. -/
theorem bits_congr_div {v v' lo hi n : Nat} (hn : n ≤ lo) (h : v / 2 ^ n = v' / 2 ^ n) : bits v lo hi = bits v' lo hi := by
  have hdiv : ∀ u : Nat, u / 2 ^ lo = u / 2 ^ n / 2 ^ (lo - n) := fun u => by
    rw [Nat.div_div_eq_div_mul, ← Nat.pow_add, Nat.add_sub_cancel' hn]
  rw [bits, bits, hdiv v, hdiv v', h]

/-- A number in three parts: what lies above a field, the field, what lies below it. -/
theorem eq_above_field_below (v : Nat) {lo hi : Nat} (h : lo ≤ hi) :
    v = v / 2 ^ (hi + 1) * 2 ^ (hi + 1) + bits v lo hi * 2 ^ lo + v % 2 ^ lo := by
  have hfield : v % 2 ^ (hi + 1) = bits v lo hi * 2 ^ lo + v % 2 ^ lo := by
    rw [bits_eq_div_mod v h, ← Nat.mod_mod_of_dvd v (Nat.pow_dvd_pow 2 (show lo ≤ hi + 1 by omega))]
    exact (Nat.div_add_mod' ..).symm
  rw [Nat.add_assoc, ← hfield]
  exact (Nat.div_add_mod' ..).symm

theorem setBits_eq (v x : Nat) {lo hi : Nat} (h : lo ≤ hi) :
    setBits v lo hi x = v / 2 ^ (hi + 1) * 2 ^ (hi + 1) + x % 2 ^ (hi + 1 - lo) * 2 ^ lo + v % 2 ^ lo := by
  have hv := eq_above_field_below v h
  unfold setBits
  omega

/-- Field and what lies below it stay below the bits above. -/
theorem field_below_lt (v x : Nat) {lo hi : Nat} (h : lo ≤ hi) :
    x % 2 ^ (hi + 1 - lo) * 2 ^ lo + v % 2 ^ lo < 2 ^ (hi + 1) := by
  have hx : x % 2 ^ (hi + 1 - lo) + 1 ≤ 2 ^ (hi + 1 - lo) := Nat.mod_lt _ (Nat.two_pow_pos _)
  have hv : v % 2 ^ lo < 2 ^ lo := Nat.mod_lt _ (Nat.two_pow_pos _)
  calc x % 2 ^ (hi + 1 - lo) * 2 ^ lo + v % 2 ^ lo
      < (x % 2 ^ (hi + 1 - lo) + 1) * 2 ^ lo := by rw [Nat.succ_mul]; omega
    _ ≤ 2 ^ (hi + 1 - lo) * 2 ^ lo := Nat.mul_le_mul_right _ hx
    _ = 2 ^ (hi + 1) := by rw [← Nat.pow_add, Nat.sub_add_cancel (by omega)]

theorem setBits_mod_below (v x : Nat) {lo hi : Nat} (h : lo ≤ hi) : setBits v lo hi x % 2 ^ lo = v % 2 ^ lo := by
  have hdvd : 2 ^ lo ∣ v / 2 ^ (hi + 1) * 2 ^ (hi + 1) + x % 2 ^ (hi + 1 - lo) * 2 ^ lo :=
    Nat.dvd_add (Nat.dvd_mul_left_of_dvd (Nat.pow_dvd_pow 2 (by omega)) _) (Nat.dvd_mul_left ..)
  rw [setBits_eq v x h, Nat.add_mod, Nat.mod_eq_zero_of_dvd hdvd, Nat.zero_add, Nat.mod_mod, Nat.mod_mod]

theorem setBits_div_above (v x : Nat) {lo hi : Nat} (h : lo ≤ hi) : setBits v lo hi x / 2 ^ (hi + 1) = v / 2 ^ (hi + 1) := by
  rw [setBits_eq v x h, Nat.add_assoc, Nat.add_comm, Nat.add_mul_div_right _ _ (Nat.two_pow_pos _),
    Nat.div_eq_of_lt (field_below_lt v x h), Nat.zero_add]

theorem bits_setBits_same (v x : Nat) {lo hi : Nat} (h : lo ≤ hi) : bits (setBits v lo hi x) lo hi = x % 2 ^ (hi + 1 - lo) := by
  rw [bits_eq_div_mod _ h, setBits_eq v x h, Nat.add_assoc, Nat.add_comm, Nat.add_mul_mod_self_right, Nat.mod_eq_of_lt (field_below_lt v x h),
    Nat.add_comm, Nat.add_mul_div_right _ _ (Nat.two_pow_pos _), Nat.div_eq_of_lt (Nat.mod_lt _ (Nat.two_pow_pos _)), Nat.zero_add]

/-- A field outside the one written stays. -/
theorem bits_setBits_other (v x : Nat) {lo hi lo' hi' : Nat} (h : lo ≤ hi) (h' : lo' ≤ hi') (hapart : hi' < lo ∨ hi < lo') :
    bits (setBits v lo hi x) lo' hi' = bits v lo' hi' := by
  rcases hapart with hbelow | habove
  · exact bits_congr h' hbelow (setBits_mod_below v x h)
  · exact bits_congr_div habove (setBits_div_above v x h)

/-! ## Fields of a register -/

theorem Block.get_put_same (b : Block) (f : Fld) (v i j k : Nat) (hf : f.lo ≤ f.hi) (hw : f.hi < f.reg.desc.width) :
    (b.put f v i j k).get f i j k = v % 2 ^ (f.hi + 1 - f.lo) := by
  rw [Block.get, Block.put, Block.getR_setR_same, bits_congr hf hw (Nat.mod_mod ..), bits_setBits_same _ _ hf]

theorem Block.get_put_other (b : Block) {f g : Fld} (v i j k : Nat) (hf : f.lo ≤ f.hi) (hreg : g.reg = f.reg) (hg : g.lo ≤ g.hi)
    (hw : g.hi < f.reg.desc.width) (hapart : g.hi < f.lo ∨ f.hi < g.lo) : (b.put f v i j k).get g i j k = b.get g i j k := by
  rw [Block.get, Block.get, hreg, Block.put, Block.getR_setR_same, bits_congr hg hw (Nat.mod_mod ..), bits_setBits_other _ _ hf hg hapart]

/-- Settles O55: the written value differs from the old one in the field's bits alone, and lies at the register's own address. -/
theorem fieldReadAfterWrite : Obligations.FieldReadAfterWrite := by
  intro b f v i j k hf hw
  exact ⟨b.get_put_same f v i j k hf hw, fun g hreg hg hgw hapart => b.get_put_other v i j k hf hreg hg hgw hapart,
    fun r i' j' k' hne => b.getR_put_ne hne v⟩

/-! ## The vote -/

section
variable {mode : Nat} (hmode : mode ≠ 1) (survivor sealed0 : Bool)
include hmode

theorem verdict_nil : verdict mode survivor sealed0 [] = .hold := by
  simp [verdict, hmode]

theorem verdict_one (r : Nat) (x : Bytes) : verdict mode survivor sealed0 [(r, x)] = if survivor = true then .survivor r else .hold := by
  simp [verdict, hmode]

theorem verdict_two (r r' : Nat) (x y : Bytes) :
    verdict mode survivor sealed0 [(r, x), (r', y)] = if x = y then .release r else .hold := by
  simp [verdict, hmode]

theorem verdict_three (r0 r1 r2 : Nat) (x y z : Bytes) :
    verdict mode survivor sealed0 [(r0, x), (r1, y), (r2, z)] =
      if x = y ∧ y = z then .release r0 else if x = y then .dissent r0 r2 else if x = z then .dissent r0 r1
      else if y = z then .dissent r1 r0 else .hold := by
  simp [verdict, hmode]

end

/-- What O58 says of one list of valid digests. -/
def VoteAgrees (mode : Nat) (sealed0 : Bool) (l : List (Nat × Bytes)) : Prop :=
  (∀ r, (verdict mode false sealed0 l = .release r ∨ ∃ q, verdict mode false sealed0 l = .dissent r q) ↔
      ∃ x r', r < r' ∧ (r, x) ∈ l ∧ (r', x) ∈ l ∧ ∀ q, (q, x) ∈ l → r ≤ q)
    ∧ (∀ r, verdict mode false sealed0 l ≠ .survivor r) ∧ verdict mode false sealed0 l ≠ .none
    ∧ (∀ r q, verdict mode false sealed0 l = .dissent r q → ∃ x y, (r, x) ∈ l ∧ (q, y) ∈ l ∧ x ≠ y)
    ∧ (∀ r, verdict mode true sealed0 l = .survivor r ↔ ∃ x, l = [(r, x)])

theorem voteAgrees_nil {mode : Nat} (hmode : mode ≠ 1) (sealed0 : Bool) : VoteAgrees mode sealed0 [] := by
  simp [VoteAgrees, verdict_nil hmode]

theorem voteAgrees_one {mode : Nat} (hmode : mode ≠ 1) (sealed0 : Bool) (r : Nat) (x : Bytes) : VoteAgrees mode sealed0 [(r, x)] := by
  simp only [VoteAgrees, verdict_one hmode]
  refine ⟨fun q => ⟨by simp, ?_⟩, by simp, by simp, by simp, by simp⟩
  rintro ⟨y, r', hlt, hq, hr', -⟩
  simp only [List.mem_singleton, Prod.mk.injEq] at hq hr'
  omega

theorem voteAgrees_two {mode : Nat} (hmode : mode ≠ 1) (sealed0 : Bool) {r r' : Nat} (hlt : r < r') (x y : Bytes) :
    VoteAgrees mode sealed0 [(r, x), (r', y)] := by
  simp only [VoteAgrees, verdict_two hmode]
  by_cases hxy : x = y
  · subst hxy
    grind
  · grind

theorem dissent_releases {r r0 q0 : Nat} :
    (Verdict.dissent r0 q0 = .release r ∨ ∃ q, Verdict.dissent r0 q0 = .dissent r q) ↔ r0 = r := by
  simp

theorem voteAgrees_three {mode : Nat} (hmode : mode ≠ 1) (sealed0 : Bool) {r0 r1 r2 : Nat} (h01 : r0 < r1) (h12 : r1 < r2) (x y z : Bytes) :
    VoteAgrees mode sealed0 [(r0, x), (r1, y), (r2, z)] := by
  simp only [VoteAgrees, verdict_three hmode]
  by_cases hxy : x = y
  · subst hxy
    by_cases hxz : x = z
    · subst hxz
      grind
    · simp only [hxz, and_false, if_true, if_false]
      refine ⟨fun r => dissent_releases.trans (by grind), by simp, by simp, ?_, by simp⟩
      rintro r q ⟨⟩
      exact ⟨x, z, by simp, by simp, hxz⟩
  · by_cases hxz : x = z
    · subst hxz
      simp only [hxy, false_and, if_true, if_false]
      refine ⟨fun r => dissent_releases.trans (by grind), by simp, by simp, ?_, by simp⟩
      rintro r q ⟨⟩
      exact ⟨x, y, by simp, by simp, hxy⟩
    · by_cases hyz : y = z
      · subst hyz
        simp only [hxy, false_and, if_true, if_false]
        refine ⟨fun r => dissent_releases.trans (by grind), by simp, by simp, ?_, by simp⟩
        rintro r q ⟨⟩
        exact ⟨y, x, by simp, by simp, Ne.symm hxy⟩
      · simp only [hxy, hxz, hyz, false_and, if_false]
        exact ⟨fun r => by grind, by simp, by simp, by simp, by simp⟩

/-- Settles O58, by the number of valid digests. -/
theorem releaseNeedsAgreement : Obligations.ReleaseNeedsAgreement := by
  intro mode sealed0 l hmode hlen hsorted
  match l with
  | [] => exact voteAgrees_nil hmode sealed0
  | [(r, x)] => exact voteAgrees_one hmode sealed0 r x
  | [(r, x), (r', y)] =>
    refine voteAgrees_two hmode sealed0 ?_ x y
    simpa using hsorted
  | [(r0, x), (r1, y), (r2, z)] =>
    obtain ⟨⟨h01, -⟩, h12⟩ : (r0 < r1 ∧ r0 < r2) ∧ r1 < r2 := by simpa using hsorted
    exact voteAgrees_three hmode sealed0 h01 h12 x y z
  | _ :: _ :: _ :: _ :: _ => simp only [List.length_cons] at hlen; omega

/-! ## Slice and set of a line -/

theorem bits_line (pa lo hi : Nat) : bits (pa / 64) lo hi = bits pa (lo + 6) (hi + 6) := by
  have hwidth : hi + 6 + 1 - (lo + 6) = hi + 1 - lo := by omega
  rw [bits, bits, hwidth, Nat.div_div_eq_div_mul, Nat.pow_add, Nat.mul_comm]

/-- Slice and set determine the lowest fifteen bits of a line address among the lines of one range of 2 MiB. -/
theorem line_eq_of_fields {l l' : Nat} (hrange : l / 32768 = l' / 32768) (hset : bits l 3 14 = bits l' 3 14) (hlow : bits l 0 2 = bits l' 0 2) :
    l = l' := by
  simp only [bits] at hset hlow
  omega

theorem xorN_lt_eight {a c : Nat} (ha : a < 8) (hc : c < 8) : xorN a c < 8 :=
  Nat.xor_lt_two_pow (n := 3) ha hc

theorem xorN_xorN_cancel (a c : Nat) : xorN (xorN a c) c = a :=
  (Nat.xor_assoc a c c).trans ((congrArg (Nat.xor a) (Nat.xor_self c)).trans (Nat.xor_zero a))

theorem xorN_right_cancel {a a' c : Nat} (h : xorN a c = xorN a' c) : a = a' :=
  (xorN_xorN_cancel a c).symm.trans ((congrArg (xorN · c) h).trans (xorN_xorN_cancel a' c))

/-- Settles O59: within a range bits 17:15 of the line are fixed, and exclusive or with them is one to one. -/
theorem cacheIndex : Obligations.CacheIndex := by
  refine ⟨fun pa => ?indices, fun l l' hrange hslice hset => ?injective, fun m sl st hsl hst => ?onto⟩
  case indices => exact ⟨by rw [lineSlice, bits_line, bits_line], by rw [lineSet, bits_line]⟩
  case injective =>
    have hhigh : bits l 15 17 = bits l' 15 17 := by
      simp only [bits]
      omega
    rw [lineSlice, lineSlice, hhigh] at hslice
    exact line_eq_of_fields hrange hset (xorN_right_cancel hslice)
  case onto =>
    have hx : xorN sl (m % 8) < 8 := xorN_lt_eight hsl (Nat.mod_lt _ (by decide))
    refine ⟨m * 32768 + st * 8 + xorN sl (m % 8), by omega, ?_, ?_⟩
    · have hlow : bits (m * 32768 + st * 8 + xorN sl (m % 8)) 0 2 = xorN sl (m % 8) := by
        simp only [bits]
        omega
      have hhigh : bits (m * 32768 + st * 8 + xorN sl (m % 8)) 15 17 = m % 8 := by
        simp only [bits]
        omega
      rw [lineSlice, hlow, hhigh, xorN_xorN_cancel]
    · simp only [lineSet, bits]
      omega

/-! ## The machine after reset -/

/-- Settles O47: no register is listed, so each reads as its reset value. -/
theorem resetState : Obligations.ResetState :=
  ⟨rfl, rfl, rfl, ⟨rfl, rfl⟩, fun _ _ _ _ => rfl⟩

end Sys2Proof.Machine
end

section
/-! PROOFS. States in which a block is powered, and the commands that ask for one of them. -/

namespace Sys2Proof.Machine

/-- A command of the package, which acts in every state, read at the block as the command finds it. -/
theorem onPkg_next {s : State} {f : Block → Block} {b x : Block} (h : f b = x) (hb : s.start = b := by rfl) :
    onPkg s f = .next (s.withBlk x) := by
  subst hb h
  exact onPkg_eq s f

theorem Block.powered_of_outputsOn {b : Block} (h : b.outputsOn = true) : b.dev ≠ .off := by
  intro hoff
  simp [Block.outputsOn, hoff] at h

theorem Block.powered_of_mayReset {b : Block} (h : b.mayReset = true) : b.dev ≠ .off := by
  intro hoff
  simp [Block.mayReset, hoff] at h

theorem DevState.powered_of_holdable {d : DevState} (h : d.holdable = true) : d ≠ .off := by
  intro hoff
  simp [DevState.holdable, hoff] at h

end Sys2Proof.Machine
end

section
/-! PROOFS. What `when` does, by the truth of its condition. -/

namespace Sys2Proof.Machine

theorem Block.when_decide (p : Prop) [Decidable p] (f : Block → Block) (b : Block) : b.when (decide p) f = if p then f b else b := by
  simp [Block.when]

theorem Block.when_of {p : Bool} (h : p = true) (f : Block → Block) (b : Block) : b.when p f = f b := if_pos h

theorem Block.when_of_not {p : Bool} (h : p = false) (f : Block → Block) (b : Block) : b.when p f = b := if_neg (ne_true_of_eq_false h)

/-- What each of `n` steps keeps, all keep. -/
theorem Block.forN_eq_of_lt {β : Type} (q : Block → β) {f : Nat → Block → Block} {n : Nat} (h : ∀ i c, i < n → q (f i c) = q c) (b : Block) :
    q (b.forN n f) = q b := by
  unfold Block.forN
  have hfold (l : List Nat) (hl : ∀ i ∈ l, i < n) (b : Block) : q (l.foldl (fun b i => f i b) b) = q b := by
    induction l generalizing b with
    | nil => rfl
    | cons i l ih =>
      rw [List.foldl_cons, ih (fun j hj => hl j (List.mem_cons_of_mem i hj)), h i b (hl i List.mem_cons_self)]
  exact hfold _ (fun i hi => List.mem_range.mp hi) b

/-- A monitor changes its count alone. -/
theorem Block.pmu_eq {β : Type} (q : Block → β) (b : Block) (n ev : Nat) (part : Option Nat) (c : Nat)
    (h : ∀ (d : Block) (k v : Nat), k < 8 → q (d.put PMU_CNT_COUNT v n k) = q d) : q (b.pmu n ev part c) = q b := by
  unfold Block.pmu
  split
  · rfl
  split
  · rfl
  exact Block.forN_eq_of_lt q (fun k d hk => Block.when_eq q (fun e => h e k _ hk) ..) b

end Sys2Proof.Machine
end

section
/-! PROOFS. What an access path makes of a service: nothing, a refusal, or the service's answer (R442, R443). -/

namespace Sys2Proof.Machine

section
variable {b c : Block} {v : DictPath} {idx sub : Nat} {write : Bool} {f : Block → (Nat × Bytes) × Block} {a : Nat} {d : Bytes}

theorem Block.serve_silent (h : b.granted v idx sub write = .silent) : b.serve v idx sub write f = b := by
  simp only [Block.serve, h]

theorem Block.serve_refused (h : b.granted v idx sub write = .refused) :
    b.serve v idx sub write f = (b.note { code := 0x2B08 }).answer 0x06010000 := by
  simp only [Block.serve, h]
  rfl

theorem Block.serve_allowed (h : b.granted v idx sub write = .allowed) (hf : f b = ((a, d), c)) :
    b.serve v idx sub write f = c.emit (.answer a d) := by
  simp only [Block.serve, h, hf]

end

/-- A service that writes gives a code alone. -/
theorem Block.serve_written {b c : Block} {v : DictPath} {idx sub a : Nat} {g : Block → Nat × Block} (h : b.granted v idx sub true = .allowed)
    (hg : g b = (a, c)) :
    (b.serve v idx sub true fun b => let (a, b) := g b; ((a, []), b)) = c.answer a :=
  Block.serve_allowed h (by rw [hg])

end Sys2Proof.Machine
end

section
/-! PROOFS. UDS requests: on an active connection the service acts, on any other nothing does. -/

namespace Sys2Proof.Machine

section
variable {s : State} {conn : Nat} {f : Block → Block} {b x : Block}

theorem uds_next (hon : b.dev ≠ .off) (hconn : b.doipOn conn = true ∧ (b.conn conn).active = true) (h : f b = x)
    (hb : s.start = b := by rfl) : uds conn s f = .next (s.withBlk x) :=
  onBlk_next hon ((if_pos (Bool.and_eq_true_iff.mpr hconn)).trans h) hb

theorem uds_silent (hconn : ¬ (b.doipOn conn = true ∧ (b.conn conn).active = true)) (hb : s.start = b := by rfl) :
    uds conn s f = .next (s.withBlk b) :=
  onBlk_unchanged (fun _ => if_neg fun h => hconn (Bool.and_eq_true_iff.mp h)) hb

end

/-- A connection is there while the service is on. -/
theorem Block.doipOn_iff {b : Block} {c : Nat} :
    b.doipOn c = true ↔ b.actN 0x9200 1 = 1 ∧ c < min 4 (b.actN 0x9200 3) ∧ b.dev ≠ .boot ∧ b.pwr.tripped = false := by
  simp [Block.doipOn, and_assoc]

end Sys2Proof.Machine
end

section
/-! PROOFS. The frames of a message that is taken and of an instruction that a hart executes. -/

namespace Sys2Proof.Machine

/-! ## Messages -/

section
variable {b : Block} {c : Instr} {f : Block → Block}

/-- A message whose effect was taken before. -/
theorem Block.taking_gone (h : (b.arrives c).1 = false) : b.taking c f = (b.arrives c).2 := by
  unfold Block.taking
  generalize b.arrives c = r at h
  obtain ⟨p, d⟩ := r
  subst h
  rfl

/-- A message that arrives, what is ahead of it on its way first. -/
theorem Block.taking_lands (h : (b.arrives c).1 = true) : b.taking c f = f (b.arrives c).2 := by
  unfold Block.taking
  generalize b.arrives c = r at h
  obtain ⟨p, d⟩ := r
  subst h
  rfl

end

/-! ## Instructions -/

section
variable {b : Block} {h i : Nat} {lv : TrapLevel} {f : Block → Block}

theorem Block.instr_waits (hready : b.ready h = false) : b.instr h f = b := by
  unfold Block.instr
  exact if_pos (congrArg not hready)

/-- A core above 15 and a hart that is not ready. -/
theorem Block.instr_ite_waits {core : Nat} (hcore : 16 ≤ core ∨ b.ready h = false) : (if 16 ≤ core then b else b.instr h f) = b := by
  split
  · rfl
  · exact Block.instr_waits (hcore.resolve_left ‹_›)

variable (hready : b.ready h = true)
include hready

theorem Block.instr_interrupted (hirq : b.irqNext h = some (lv, i)) :
    b.instr h f = (b.takeIrq h lv i).trigTrap h (b.hart h).priv true i := by
  unfold Block.instr
  rw [hready, hirq]
  rfl

variable (hirq : b.irqNext h = none)
include hirq

theorem Block.instr_triggered (htrig : (b.trigCount h).1 = true) : b.instr h f = (b.trigCount h).2 := by
  unfold Block.instr
  rw [hready, hirq]
  generalize b.trigCount h = r at htrig
  obtain ⟨p, d⟩ := r
  subst htrig
  rfl

/-- An instruction that is carried out. -/
theorem Block.instr_runs (htrig : (b.trigCount h).1 = false) : b.instr h f = f (b.trigCount h).2 := by
  unfold Block.instr
  rw [hready, hirq]
  generalize b.trigCount h = r at htrig
  obtain ⟨p, d⟩ := r
  subst htrig
  rfl

end

end Sys2Proof.Machine
end

section
/-! PROOFS. Temperatures and the thermal trip. -/

namespace Sys2Proof.Machine

/-- Settles O7: a failed sensor, a missing reading and the critical temperature pick the branch. -/
theorem sensors : Obligations.Sensors := by
  unfold Obligations.Sensors
  refine ⟨?_, ?_, ?_, ?_, ?_, ?_, ?_, ?_⟩
  -- `sensorReading`
  · intro s sensor raw b hsensor
    refine (onBlk_unchanged (fun _ => ?_) : execSensorReading sensor raw s = _)
    exact if_pos (by grind)
  · intro s sensor b hon hsensor hfailed
    refine (onBlk_next hon ?_ : execSensorReading sensor none s = _)
    exact if_neg (by simp [hsensor, hfailed])
  · intro s sensor raw b t c top hi hon hsensor hfailed htempLow
    refine (onBlk_next hon ?_ : execSensorReading sensor (some raw) s = _)
    refine (if_neg (by simp [hsensor, hfailed])).trans ?_
    grind
  · intro s sensor raw b t c top hi hon hsensor hfailed htempLow htempHigh hactN
    refine (onBlk_next hon ?_ : execSensorReading sensor (some raw) s = _)
    refine (if_neg (by simp [hsensor, hfailed])).trans ?_
    grind
  · intro s sensor raw b t c top hi hon hsensor hfailed htempLow htempHigh hactN hpwr
    refine (onBlk_next hon ?_ : execSensorReading sensor (some raw) s = _)
    refine (if_neg (by simp [hsensor, hfailed])).trans ?_
    grind
  · intro s sensor raw b t c top hi hon hsensor hfailed htempLow htempHigh hactN hpwr
    refine (onBlk_next hon ?_ : execSensorReading sensor (some raw) s = _)
    refine (if_neg (by simp [hsensor, hfailed])).trans ?_
    grind
  -- `thermalTrip`
  · intro s sensor b hon hpwr
    refine (onBlk_next hon ?_ : execThermalTrip sensor s = _)
    exact if_neg (by simp [hpwr])
  · intro s sensor b hpwr
    refine (onBlk_unchanged (fun _ => ?_) : execThermalTrip sensor s = _)
    exact if_pos hpwr

end Sys2Proof.Machine
end

section
/-! PROOFS. The states of a sail. -/

namespace Sys2Proof.Machine

/-- Settles O16: the state that a sail is in and the guard of each command pick the branch. -/
theorem sailStates : Obligations.SailStates := by
  unfold Obligations.SailStates
  refine ⟨?_, ?_, ?_, ?_, ?_, ?_, ?_, ?_, ?_, ?_, ?_, ?_, ?_, ?_, ?_, ?_, ?_, ?_, ?_, ?_, ?_, ?_, ?_, ?_, ?_, ?_⟩
  -- `sailCapwordRead`
  · intro s sail rev level maxGt b hsail
    refine (onBlk_unchanged (fun _ => ?_) : execSailCapwordRead sail rev level maxGt s = _)
    exact if_pos (by grind)
  · intro s sail rev level maxGt b c hon hsail hsailSt hsailSt2
    refine (onBlk_next hon ?_ : execSailCapwordRead sail rev level maxGt s = _)
    refine (if_neg (by grind)).trans ?_
    exact if_neg (by simp [hsailSt2, c])
  · intro s sail rev level maxGt b c hon hsail hsailSt hsailSt2
    refine (onBlk_next hon ?_ : execSailCapwordRead sail rev level maxGt s = _)
    refine (if_neg (by grind)).trans ?_
    exact if_pos (by simp [hsailSt2, c])
  -- `flumeTrainingComplete`
  · intro s sail up0 up1 delay b hsail
    refine (onBlk_unchanged (fun _ => ?_) : execFlumeTrainingComplete sail up0 up1 delay s = _)
    exact if_pos (by grind)
  · intro s sail up0 up1 delay b c d e hon hsail hup0
    refine (onBlk_next hon ?_ : execFlumeTrainingComplete sail up0 up1 delay s = _)
    refine (if_neg (by grind)).trans ?_
    exact if_pos hup0
  · intro s sail up0 up1 delay b c d e hon hsail hup0
    refine (onBlk_next hon ?_ : execFlumeTrainingComplete sail up0 up1 delay s = _)
    refine (if_neg (by grind)).trans ?_
    exact if_neg (by simp [hup0])
  -- `sailTrainingTimeout`
  · intro s sail b hon hsail hsailSt
    refine (onBlk_next hon ?_ : execSailTrainingTimeout sail s = _)
    exact if_neg (by simp [hsail, hsailSt])
  · intro s sail b hsail
    refine (onBlk_unchanged (fun _ => ?_) : execSailTrainingTimeout sail s = _)
    exact if_pos (by grind)
  -- `sailSelftestComplete`
  · intro s sail pass bad b ok c hon hsail hsailSt hpass
    refine (onBlk_next hon ?_ : execSailSelftestComplete sail pass bad s = _)
    refine (if_neg (by simp [hsail])).trans ?_
    refine (if_pos hsailSt).trans ?_
    exact if_pos hpass
  · intro s sail pass bad b ok c hon hsail hsailSt hpass
    refine (onBlk_next hon ?_ : execSailSelftestComplete sail pass bad s = _)
    refine (if_neg (by simp [hsail])).trans ?_
    refine (if_pos hsailSt).trans ?_
    simp [hpass, ok, c]
  · intro s sail pass bad b ok c hon hsail hsailSt
    refine (onBlk_next hon ?_ : execSailSelftestComplete sail pass bad s = _)
    refine (if_neg (by simp [hsail])).trans ?_
    refine (if_neg (by simp [hsailSt])).trans ?_
    exact if_pos hsailSt
  · intro s sail pass bad b hsail
    refine (onBlk_unchanged (fun _ => ?_) : execSailSelftestComplete sail pass bad s = _)
    grind
  -- `readmitRequest`
  · intro s sail b hon hreadmitOk
    refine (onBlk_next hon ?_ : execReadmitRequest sail s = _)
    exact if_pos hreadmitOk
  · intro s sail b hon hreadmitOk
    refine (onBlk_next hon ?_ : execReadmitRequest sail s = _)
    exact if_neg (by simp [hreadmitOk])
  -- `autoReadmit`
  · intro s sail b hon hreadmitOk
    refine (onBlk_next hon ?_ : execAutoReadmit sail s = _)
    exact if_pos (by simp [hreadmitOk])
  · intro s sail b hreadmitOk
    refine (onBlk_unchanged (fun _ => ?_) : execAutoReadmit sail s = _)
    exact if_neg (by grind)
  -- `readmitStepsComplete`
  · intro s sail ok b c op hon hsail hsailSt hok
    refine (onBlk_next hon ?_ : execReadmitStepsComplete sail ok s = _)
    refine (if_neg (by simp [hsail, hsailSt])).trans ?_
    exact if_pos (by simp [hok])
  · intro s sail ok b hon hsail hsailSt hok
    refine (onBlk_next hon ?_ : execReadmitStepsComplete sail ok s = _)
    refine (if_neg (by simp [hsail, hsailSt])).trans ?_
    exact if_neg (by grind)
  · intro s sail ok b hsail
    refine (onBlk_unchanged (fun _ => ?_) : execReadmitStepsComplete sail ok s = _)
    exact if_pos (by grind)
  -- `railSettled`
  · intro s sail b hactive
    refine (onBlk_unchanged (fun _ => ?_) : execRailSettled sail s = _)
    exact if_pos (by grind)
  · intro s sail b op c d hon hactive hop
    refine (onBlk_next hon ?_ : execRailSettled sail s = _)
    refine (if_neg (by grind)).trans ?_
    exact if_pos hop
  · intro s sail b op c d hon hactive hop hsail
    refine (onBlk_next hon ?_ : execRailSettled sail s = _)
    refine (if_neg (by grind)).trans ?_
    refine (if_neg hop).trans ?_
    exact if_neg hsail
  · intro s sail b op c d hon hactive hop hsail
    refine (onBlk_next hon ?_ : execRailSettled sail s = _)
    refine (if_neg (by grind)).trans ?_
    refine (if_neg hop).trans ?_
    exact if_pos hsail
  -- `op0CleanComplete`
  · intro s sail b hactive
    refine (onBlk_unchanged (fun _ => ?_) : execOp0CleanComplete sail s = _)
    exact if_pos (by grind)
  · intro s sail b c hon hactive hbusy
    refine (onBlk_next hon ?_ : execOp0CleanComplete sail s = _)
    refine (if_neg (by simp [hactive])).trans ?_
    exact if_pos (by grind)
  · intro s sail b c d hon hactive hbusy
    refine (onBlk_next hon ?_ : execOp0CleanComplete sail s = _)
    refine (if_neg (by simp [hactive])).trans ?_
    exact if_neg (by simp [hbusy, c])

end Sys2Proof.Machine
end

section
/-! PROOFS. From BOOT to CONFIG_WAIT. -/

namespace Sys2Proof.Machine

/-- Settles O3: the firmware entry, the end of the self-test and PERST, branch by branch of each command. -/
theorem startUp : Obligations.StartUp := by
  unfold Obligations.StartUp
  refine ⟨?_, ?_, ?_, ?_, ?_, ?_, ?_, ?_, ?_, ?_⟩
  -- `governorFirmwareEntry`
  · intro s b hdev
    refine (onBlk_unchanged (fun _ => ?_) : execGovernorFirmwareEntry s = _)
    exact if_pos (by grind)
  · intro s b u b1 b2 hboot htrust
    refine (onBlk_next (b := b) (by simp [hboot]) ?_ : execGovernorFirmwareEntry s = _)
    exact if_neg (by simp [hboot, htrust])
  -- `selftestComplete`
  · intro s g h m fs b hnotSelftest
    refine (onBlk_unchanged (fun _ => ?_) : execSelftestComplete g h m fs s = _)
    exact if_pos hnotSelftest
  · intro s g h m fs b hselftest hcond
    refine (onBlk_next (b := b) (by simp [hselftest]) ?_ : execSelftestComplete g h m fs s = _)
    refine (if_neg (by simp [hselftest])).trans ?_
    exact if_pos (by grind)
  · intro s fs b hselftest hrange
    refine (onBlk_next (b := b) (by simp [hselftest]) ?_ : execSelftestComplete true true true fs s = _)
    refine (if_neg (by simp [hselftest])).trans ?_
    exact if_pos hrange
  · intro s fs b hselftest hrange hactiveSails
    refine (onBlk_next (b := b) (by simp [hselftest]) ?_ : execSelftestComplete true true true fs s = _)
    refine (if_neg (by simp [hselftest])).trans ?_
    refine (if_neg (by simp)).trans ?_
    refine (if_neg (by simp [hrange])).trans ?_
    exact if_pos (by simp [hactiveSails])
  · intro s fs b c d hselftest hrange hactiveSails htoFilter
    refine (onBlk_next (b := b) (by simp [hselftest]) ?_ : execSelftestComplete true true true fs s = _)
    refine (if_neg (by simp [hselftest])).trans ?_
    refine (if_neg (by simp)).trans ?_
    refine (if_neg (by simp [hrange])).trans ?_
    refine (if_neg (by simp [hactiveSails])).trans ?_
    exact if_neg (by simp [htoFilter])
  · intro s fs b hselftest hrange hactiveSails htoFilter
    refine (onBlk_next (b := b) (by simp [hselftest]) ?_ : execSelftestComplete true true true fs s = _)
    refine (if_neg (by simp [hselftest])).trans ?_
    refine (if_neg (by simp)).trans ?_
    refine (if_neg (by simp [hrange])).trans ?_
    refine (if_neg (by simp [hactiveSails])).trans ?_
    exact if_pos (by simp [htoFilter])
  -- `pciPerstoNRelease`
  · intro s sub b hon hsub
    refine (onBlk_next hon ?_ : execPciPerstoNRelease sub s = _)
    exact if_neg (by simp [hsub])
  · intro s sub b hsub
    refine (onBlk_unchanged (fun _ => ?_) : execPciPerstoNRelease sub s = _)
    exact if_pos (by grind)

end Sys2Proof.Machine
end

section
/-! PROOFS. The event inputs. -/

namespace Sys2Proof.Machine

/-- Settles O10: the pin, the filter and the crossing of an input pick the branch. -/
theorem eventInputs : Obligations.EventInputs := by
  unfold Obligations.EventInputs
  refine ⟨?_, ?_, ?_, ?_, ?_, ?_, ?_, ?_, ?_, ?_⟩
  -- `evtInputEdge`
  · intro s input high b hinput
    refine (onBlk_unchanged (fun _ => ?_) : execEvtInputEdge input high s = _)
    exact if_pos (by grind)
  · intro s input high b c d hon hinput hevtIn
    refine (onBlk_next hon ?_ : execEvtInputEdge input high s = _)
    exact if_neg (by simp [hinput, hevtIn])
  -- `evtFilterAccept`
  · intro s input b hinput
    refine (onBlk_unchanged (fun _ => ?_) : execEvtFilterAccept input s = _)
    exact if_pos (by grind)
  · intro s input b c hon hinput hevtIn hen
    refine (onBlk_next hon ?_ : execEvtFilterAccept input s = _)
    refine (if_neg (by simp [hinput, hevtIn])).trans ?_
    exact if_pos (by simp [hen, c])
  · intro s input b c hon hinput hevtIn hen
    refine (onBlk_next hon ?_ : execEvtFilterAccept input s = _)
    refine (if_neg (by simp [hinput, hevtIn])).trans ?_
    exact if_neg (by grind)
  -- `evtCrossingAck`
  · intro s input b hinput
    refine (onBlk_unchanged (fun _ => ?_) : execEvtCrossingAck input s = _)
    exact if_pos (by grind)
  · intro s input b hon hinput hevtIn hevtIn2
    refine (onBlk_next hon ?_ : execEvtCrossingAck input s = _)
    refine (if_neg (by simp [hinput, hevtIn])).trans ?_
    simp only [hevtIn2]
  · intro s input dst b hon hinput hevtIn hevtIn2
    refine (onBlk_next hon ?_ : execEvtCrossingAck input s = _)
    refine (if_neg (by simp [hinput, hevtIn])).trans ?_
    simp only [hevtIn2]
  -- `evtStuckRearm`
  · intro s input b hon hinput
    refine (onBlk_next hon ?_ : execEvtStuckRearm input s = _)
    exact if_neg (by simp [hinput])
  · intro s input b hinput
    refine (onBlk_unchanged (fun _ => ?_) : execEvtStuckRearm input s = _)
    exact if_pos hinput

end Sys2Proof.Machine
end

section
/-! PROOFS. Key exchanges of a Leavo port. -/

namespace Sys2Proof.Machine

/-- Settles O30: which payload counts, and what the role of the port makes of it. -/
theorem leavoKeys : Obligations.LeavoKeys := by
  unfold Obligations.LeavoKeys
  refine ⟨?_, ?_, ?_, ?_, ?_, ?_, ?_, ?_, ?_, ?_, ?_, ?_, ?_, ?_⟩
  -- `keyOffer`
  · intro s k src dst payload b hkeyOk
    refine (onBlk_unchanged (fun _ => ?_) : execKeyOffer k src dst payload s = _)
    exact if_pos (by grind)
  · intro s k src dst payload b slot epoch na nb lmk hon hkeyOk hslot
    refine (onBlk_next hon ?_ : execKeyOffer k src dst payload s = _)
    refine (if_neg (by simp [hkeyOk])).trans ?_
    exact if_pos hslot
  · intro s k src dst payload b slot epoch na nb lmk hon hkeyOk hslot
    refine (onBlk_next hon ?_ : execKeyOffer k src dst payload s = _)
    refine (if_neg (by simp [hkeyOk])).trans ?_
    exact if_neg hslot
  -- `keyAccept`
  · intro s k src dst payload b hport
    refine (onBlk_unchanged (fun _ => ?_) : execKeyAccept k src dst payload s = _)
    grind
  · intro s k src dst payload x b nb lmk hport hmine
    refine (onBlk_unchanged (fun _ => ?_) : execKeyAccept k src dst payload s = _)
    grind
  · intro s k src dst payload x b nb lmk hon hport hmine
    refine (onBlk_next hon ?_ : execKeyAccept k src dst payload s = _)
    simp only [hport]
    exact if_neg (by simp [hmine, nb])
  -- `keyConfirm`
  · intro s k src dst payload b hport
    refine (onBlk_unchanged (fun _ => ?_) : execKeyConfirm k src dst payload s = _)
    grind
  · intro s k src dst payload x b hport hmine
    refine (onBlk_unchanged (fun _ => ?_) : execKeyConfirm k src dst payload s = _)
    grind
  · intro s k src dst payload x b hon hport hmine
    refine (onBlk_next hon ?_ : execKeyConfirm k src dst payload s = _)
    simp only [hport]
    exact if_neg (by simp [hmine])
  -- `keyReject`
  · intro s k payload b
    refine (onBlk_unchanged (fun _ => ?_) : execKeyReject k payload s = _)
    rfl
  -- `keyOfferResend`
  · intro s k b hport
    refine (onBlk_unchanged (fun _ => ?_) : execKeyOfferResend k s = _)
    grind
  · intro s k x b hport hmine
    refine (onBlk_unchanged (fun _ => ?_) : execKeyOfferResend k s = _)
    grind
  · intro s k x b hon hport hmine hsent
    refine (onBlk_next hon ?_ : execKeyOfferResend k s = _)
    simp only [hport]
    refine (if_neg (by simp [hmine])).trans ?_
    exact if_pos hsent
  · intro s k x b hon hport hmine hsent
    refine (onBlk_next hon ?_ : execKeyOfferResend k s = _)
    simp only [hport]
    refine (if_neg (by simp [hmine])).trans ?_
    exact if_neg (by simp [hsent])

end Sys2Proof.Machine
end

section
/-! PROOFS. Power-on, warm reset and what starts them. -/

namespace Sys2Proof.Machine

/-- Settles O2: what each reset needs of the state picks its branch. -/
theorem resets : Obligations.Resets := by
  unfold Obligations.Resets
  refine ⟨?_, ?_, ?_, ?_, ?_, ?_, ?_, ?_, ?_, ?_, ?_, ?_⟩
  -- `powerOnReset`
  · intro s b
    refine (onPkg_next (b := b) ?_ : execPowerOnReset none s = _)
    rfl
  · intro s ns b hns
    refine (onPkg_next (b := b) ?_ : execPowerOnReset (some ns) s = _)
    exact if_neg (by simp [hns])
  · intro s ns b hns
    refine (onPkg_next (b := b) ?_ : execPowerOnReset (some ns) s = _)
    exact if_pos hns
  -- `vddAonLoss`
  · intro s b
    refine (onPkg_next (b := b) ?_ : execVddAonLoss s = _)
    rfl
  -- `packageWarmReset`
  · intro s b hmayReset
    refine (onBlk_next (b.powered_of_mayReset hmayReset) ?_ : execPackageWarmReset s = _)
    exact if_pos hmayReset
  · intro s b hon hmayReset
    refine (onBlk_next hon ?_ : execPackageWarmReset s = _)
    exact if_neg (by simp [hmayReset])
  -- `trialTimerExpiry`
  · intro s b htrust hmayReset
    refine (onBlk_next (b.powered_of_mayReset hmayReset) ?_ : execTrialTimerExpiry s = _)
    refine (if_neg (by simp [htrust])).trans ?_
    exact if_pos hmayReset
  · intro s b hon htrust hmayReset
    refine (onBlk_next hon ?_ : execTrialTimerExpiry s = _)
    refine (if_neg (by simp [htrust])).trans ?_
    exact if_neg (by simp [hmayReset])
  · intro s b htrust
    refine (onBlk_unchanged (fun _ => ?_) : execTrialTimerExpiry s = _)
    exact if_pos (by grind)
  -- `warmResetDelayExpiry`
  · intro s b hgov hmayReset
    refine (onBlk_next (b.powered_of_mayReset hmayReset) ?_ : execWarmResetDelayExpiry s = _)
    refine (if_neg (by simp [hgov])).trans ?_
    exact if_pos hmayReset
  · intro s b hon hresetPending hmayReset
    refine (onBlk_next hon ?_ : execWarmResetDelayExpiry s = _)
    refine (if_neg (by simp [hresetPending])).trans ?_
    exact if_neg (fun h => Bool.false_ne_true (hmayReset.symm.trans h))
  · intro s b hgov
    refine (onBlk_unchanged (fun _ => ?_) : execWarmResetDelayExpiry s = _)
    exact if_pos (by grind)

end Sys2Proof.Machine
end

section
/-! PROOFS. What the state requests of the governor do. -/

namespace Sys2Proof.Machine

/-- A request that a higher event of its cycle outranks (R29). -/
theorem Block.requestRow_outranked {b : Block} {f : Block → Nat × Block} (hgov : b.govHalted = false) :
    b.requestRow true f = b.notAccepted.answer 0x08000022 := by
  simp [Block.requestRow, Block.request, hgov, abState]

/-- A request that is taken answers what `f` gives. -/
theorem Block.requestRow_taken {b c : Block} {f : Block → Nat × Block} {a : Nat} (hgov : b.govHalted = false) (h : f b = (a, c)) :
    b.requestRow false f = c.answer a := by
  simp [Block.requestRow, Block.request, hgov, h]

theorem Block.govHalted_of_mayReset {b : Block} (h : b.mayReset = true) : b.govHalted = false := by
  simp only [Block.mayReset, Bool.and_eq_true, Bool.not_eq_true'] at h
  simp [h]

theorem Block.holdRequest_safeHold {b : Block} (h : b.dev = .safeHold) : b.holdRequest = b := by
  simp [Block.holdRequest, DevState.holdable, h]

theorem Block.holdRequest_shutdown {b : Block} (h : b.dev = .shutdown) : b.holdRequest = b.notAccepted := by
  simp [Block.holdRequest, DevState.holdable, h]

theorem Block.holdRequest_outputsOn {b : Block} (h : b.outputsOn = true) : b.holdRequest = b.enterSafeHold 0 false := by
  have hdev : b.dev = .run ∨ b.dev = .degraded := by simpa [Block.outputsOn] using h
  rcases hdev with h | h <;> simp [Block.holdRequest, DevState.holdable, h]

/-- A package reset with the outputs on waits behind SAFE_HOLD. -/
theorem Block.resetReq_outputsOn {b : Block} (hgov : b.govHalted = false) (h : b.outputsOn = true) :
    b.resetReq = (0, { b.enterSafeHold 0 false with gov := { b.gov with resetPending := true, startPending := false } }) := by
  have hdev : b.dev = .run ∨ b.dev = .degraded := by simpa [Block.outputsOn] using h
  have hreset : ¬ (b.dev = .boot || !b.mayReset) = true := by
    rcases hdev with hdev | hdev <;> simp [Block.mayReset, Block.fatal, hdev, hgov]
  refine (if_neg hreset).trans ((if_pos h).trans ?_)
  rw [Block.holdRequest_outputsOn h]

/-- RESUME leaves the homes in FILTER as they are. -/
theorem Block.resumeReq_filter {b : Block} (hdev : b.dev = .service) (hmode : b.filterMode = true) :
    b.resumeReq = (0, if b.commit.state = 2 then b.resumePending else b.resumePlain) := by
  simp [Block.resumeReq, Block.toFilter, hdev, hmode]

/-- Settles O1: a request is outranked or taken, and the device state picks what the taken one does. -/
theorem stateRequests : Obligations.StateRequests := by
  unfold Obligations.StateRequests
  refine ⟨?_, ?_, ?_, ?_, ?_, ?_, ?_, ?_, ?_, ?_, ?_, ?_, ?_, ?_, ?_, ?_, ?_, ?_, ?_, ?_, ?_, ?_, ?_, ?_, ?_, ?_, ?_, ?_, ?_, ?_⟩
  -- `startRequest`
  · intro s b hon hgov
    refine (onBlk_next hon ?_ : execStartRequest true s = _)
    exact Block.requestRow_outranked hgov
  -- `serviceRequest`
  · intro s path src b hon hgov
    refine (onBlk_next hon ?_ : execServiceRequest path src true s = _)
    exact Block.requestRow_outranked hgov
  -- `resumeRequest`
  · intro s b hon hgov
    refine (onBlk_next hon ?_ : execResumeRequest true s = _)
    exact Block.requestRow_outranked hgov
  -- `packageResetRequest`
  · intro s b hon hgov
    refine (onBlk_next hon ?_ : execPackageResetRequest true s = _)
    exact Block.requestRow_outranked hgov
  -- `startRequest`
  · intro s r b hgov
    refine (onBlk_unchanged (fun _ => ?_) : execStartRequest r s = _)
    exact if_pos hgov
  -- `serviceRequest`
  · intro s path src r b hgov
    refine (onBlk_unchanged (fun _ => ?_) : execServiceRequest path src r s = _)
    exact if_pos hgov
  -- `shutdownRequest`
  · intro s b hgov
    refine (onBlk_unchanged (fun _ => ?_) : execShutdownRequest s = _)
    exact if_pos hgov
  -- `resumeRequest`
  · intro s r b hgov
    refine (onBlk_unchanged (fun _ => ?_) : execResumeRequest r s = _)
    exact if_pos hgov
  -- `packageResetRequest`
  · intro s r b hgov
    refine (onBlk_unchanged (fun _ => ?_) : execPackageResetRequest r s = _)
    exact if_pos hgov
  -- `startRequest`
  · intro s b hready hgov
    refine (onBlk_next (b := b) (by simp [hready]) ?_ : execStartRequest false s = _)
    exact Block.requestRow_taken hgov (if_pos hready)
  · intro s b hon hnotReady hgov
    refine (onBlk_next hon ?_ : execStartRequest false s = _)
    exact Block.requestRow_taken hgov (if_neg hnotReady)
  -- `safeHoldRequest`
  · intro s b hdev hgov
    refine (onBlk_next (DevState.powered_of_holdable hdev) ?_ : execSafeHoldRequest false s = _)
    refine (if_neg (by simp [hgov])).trans ?_
    simp [hdev, Block.holdRequest]
  · intro s b hsafeHold hgov
    refine (onBlk_next (b := b) (by simp [hsafeHold]) ?_ : execSafeHoldRequest false s = _)
    refine (if_neg (by simp [hgov])).trans ?_
    exact congrArg (Block.answer 0) (Block.holdRequest_safeHold hsafeHold)
  · intro s b hshutdown hgov
    refine (onBlk_next (b := b) (by simp [hshutdown]) ?_ : execSafeHoldRequest false s = _)
    refine (if_neg (by simp [hgov])).trans ?_
    exact congrArg (Block.answer 0) (Block.holdRequest_shutdown hshutdown)
  · intro s b hon hgov
    refine (onBlk_next hon ?_ : execSafeHoldRequest true s = _)
    exact if_neg (by simp [hgov])
  -- `govHoldreqWrite`
  · intro s mid key b hdev hkey hgov
    refine (onBlk_next (DevState.powered_of_holdable hdev) ?_ : execGovHoldreqWrite mid key false s = _)
    refine (if_neg (by simp [hkey, hgov])).trans ?_
    exact if_pos hdev
  · intro s mid key b hsafeHold hkey hgov
    refine (onBlk_next (b := b) (by simp [hsafeHold]) ?_ : execGovHoldreqWrite mid key false s = _)
    refine (if_neg (by simp [hkey, hgov])).trans ?_
    exact Block.holdRequest_safeHold hsafeHold
  · intro s mid key b hshutdown hkey hgov
    refine (onBlk_next (b := b) (by simp [hshutdown]) ?_ : execGovHoldreqWrite mid key false s = _)
    refine (if_neg (by simp [hkey, hgov])).trans ?_
    exact Block.holdRequest_shutdown hshutdown
  · intro s mid key b hon hkey hgov
    refine (onBlk_next hon ?_ : execGovHoldreqWrite mid key true s = _)
    refine (if_neg (by simp [hkey, hgov])).trans ?_
    exact if_pos (by simp)
  · intro s mid key r b hkey
    refine (onBlk_unchanged (fun _ => ?_) : execGovHoldreqWrite mid key r s = _)
    exact if_pos (by simp [hkey])
  -- `serviceRequest`
  · intro s path src b hdev hgov hunowned
    refine (onBlk_next (b := b) (by intro hoff; simp [hoff] at hdev) ?_ : execServiceRequest path src false s = _)
    exact Block.requestRow_taken hgov (if_neg (by grind))
  · intro s path src b hon hdev hgov
    refine (onBlk_next hon ?_ : execServiceRequest path src false s = _)
    exact Block.requestRow_taken hgov (if_pos (by grind))
  -- `resumeRequest`
  · intro s b hservice hfilterMode hstate hgov
    refine (onBlk_next (b := b) (by simp [hservice]) ?_ : execResumeRequest false s = _)
    exact Block.requestRow_taken hgov (by simp [Block.resumeReq_filter hservice hfilterMode, hstate])
  · intro s b hservice hfilterMode hstate hgov
    refine (onBlk_next (b := b) (by simp [hservice]) ?_ : execResumeRequest false s = _)
    exact Block.requestRow_taken hgov (by simp [Block.resumeReq_filter hservice hfilterMode, hstate])
  · intro s b hon hnotService hgov
    refine (onBlk_next hon ?_ : execResumeRequest false s = _)
    exact Block.requestRow_taken hgov (if_pos hnotService)
  -- `shutdownRequest`
  · intro s b hon hnotShutdown hgov
    refine (onBlk_next hon ?_ : execShutdownRequest s = _)
    refine (if_neg (by simp [hgov])).trans ?_
    simp [hnotShutdown, hgov, Block.request, Block.shutdownReq]
  · intro s b hshutdown hgov
    refine (onBlk_next (b := b) (by simp [hshutdown]) ?_ : execShutdownRequest s = _)
    refine (if_neg (by simp [hgov])).trans ?_
    simp [hshutdown, Block.request, Block.shutdownReq]
  -- `packageResetRequest`
  · intro s b houtputsOn hgov
    refine (onBlk_next (b.powered_of_outputsOn houtputsOn) ?_ : execPackageResetRequest false s = _)
    exact Block.requestRow_taken hgov (Block.resetReq_outputsOn hgov houtputsOn)
  · intro s b hmayReset hnotBoot houtputsOn
    refine (onBlk_next (b.powered_of_mayReset hmayReset) ?_ : execPackageResetRequest false s = _)
    exact Block.requestRow_taken (Block.govHalted_of_mayReset hmayReset) (by simp [Block.resetReq, hmayReset, hnotBoot, houtputsOn])
  · intro s b hon hdev hgov
    refine (onBlk_next hon ?_ : execPackageResetRequest false s = _)
    exact Block.requestRow_taken hgov (if_pos (by simpa using hdev))

end Sys2Proof.Machine
end

section
/-! PROOFS. The end of a shutdown. -/

namespace Sys2Proof.Machine

/-- Settles O6: the step that a shutdown is at, and standby, pick the branch. -/
theorem shutdownEnd : Obligations.ShutdownEnd := by
  unfold Obligations.ShutdownEnd
  refine ⟨?_, ?_, ?_, ?_, ?_, ?_, ?_, ?_, ?_, ?_, ?_⟩
  -- `pgMemFall`
  · intro s b hshutdown hpwr
    refine (onBlk_next (b := b) (by simp [hshutdown]) ?_ : execPgMemFall s = _)
    exact if_pos (by simp [hshutdown, hpwr])
  · intro s b hon hdev
    refine (onBlk_next hon ?_ : execPgMemFall s = _)
    rcases hdev with h | h
    · exact if_neg (by simp [h])
    · exact if_neg (by simp [h])
  -- `pwrEnCoreTimeout`
  · intro s b hshutdown hpwr
    refine (onBlk_next (b := b) (by simp [hshutdown]) ?_ : execPwrEnCoreTimeout s = _)
    exact if_pos (by simp [hshutdown, hpwr])
  · intro s b hdev
    refine (onBlk_unchanged (fun _ => ?_) : execPwrEnCoreTimeout s = _)
    exact if_neg (by grind)
  -- `shutdownComplete`
  · intro s b hdev
    refine (onBlk_unchanged (fun _ => ?_) : execShutdownComplete s = _)
    exact if_pos (by grind)
  · intro s b c d hshutdown hpwr hpwr2
    refine (onBlk_next (b := b) (by simp [hshutdown]) ?_ : execShutdownComplete s = _)
    refine (if_neg (by simp [hshutdown, hpwr])).trans ?_
    exact if_neg (by grind)
  · intro s b c d hshutdown hpwr hpwr2 hwakeLevel
    refine (onBlk_next (b := b) (by simp [hshutdown]) ?_ : execShutdownComplete s = _)
    refine (if_neg (by simp [hshutdown, hpwr])).trans ?_
    exact if_pos (by grind)
  -- `wakeIn`
  · intro s b hpwr hen
    refine (onPkg_next (b := b) ?_ : execWakeIn s = _)
    refine (if_pos hpwr).trans ?_
    exact if_pos hen
  · intro s b hpwr hen
    refine (onPkg_next (b := b) ?_ : execWakeIn s = _)
    refine (if_pos hpwr).trans ?_
    exact if_neg (by simp [hen])
  · intro s b hon hpwr
    refine (onPkg_next (b := b) ?_ : execWakeIn s = _)
    refine (if_neg (by simp [hpwr])).trans ?_
    exact if_neg (by grind)
  · intro s b hoff hpwr
    refine (onPkg_next (b := b) ?_ : execWakeIn s = _)
    refine (if_neg (by simp [hpwr])).trans ?_
    exact if_pos hoff

end Sys2Proof.Machine
end

section
/-! PROOFS. Faults and FAULT_OUT. -/

namespace Sys2Proof.Machine

/-- Settles O4: the counts of the readback pick which of the two outputs raises. -/
theorem faultRows : Obligations.FaultRows := by
  unfold Obligations.FaultRows
  refine ⟨?_, ?_, ?_, ?_, ?_, ?_, ?_, ?_⟩
  -- `faultRaised`
  · intro s fs b hon
    refine (onBlk_next hon ?_ : execFaultRaised fs s = _)
    rfl
  -- `faultOutTest`
  · intro s on b hservice
    refine (onBlk_next (b := b) (by simp [hservice]) ?_ : execFaultOutTest on s = _)
    exact if_pos hservice
  · intro s on b hnotService
    refine (onBlk_unchanged (fun _ => ?_) : execFaultOutTest on s = _)
    exact if_neg hnotService
  -- `faultOutReadback`
  · intro s padA padB b hgov
    refine (onBlk_unchanged (fun _ => ?_) : execFaultOutReadback padA padB s = _)
    exact if_pos hgov
  · intro s padA padB b m n c hon hgov hcond hcond2
    refine (onBlk_next hon ?_ : execFaultOutReadback padA padB s = _)
    refine (if_neg (by simp [hgov])).trans ?_
    refine (if_neg (by simp [hcond2, n])).trans ?_
    exact if_neg (by simp [hcond, m])
  · intro s padA padB b m n c hon hgov hcond hcond2
    refine (onBlk_next hon ?_ : execFaultOutReadback padA padB s = _)
    refine (if_neg (by simp [hgov])).trans ?_
    refine (if_neg (by simp [hcond2, n])).trans ?_
    exact if_pos (by simp [hcond, m])
  · intro s padA padB b m n c hon hgov hcond hcond2
    refine (onBlk_next hon ?_ : execFaultOutReadback padA padB s = _)
    refine (if_neg (by simp [hgov])).trans ?_
    refine (if_pos (by simp [hcond2, n])).trans ?_
    simp [hcond, Block.when, m, n, c]
  · intro s padA padB b m n c hon hgov hcond hcond2
    refine (onBlk_next hon ?_ : execFaultOutReadback padA padB s = _)
    refine (if_neg (by simp [hgov])).trans ?_
    refine (if_pos (by simp [hcond2, n])).trans ?_
    simp [hcond, Block.when, m, n, c]

end Sys2Proof.Machine
end

section
/-! PROOFS. Supplies, regulators and clocks. -/

namespace Sys2Proof.Machine

/-- Settles O5: the enables, the step of a supply and the clocks already lost pick the branch. -/
theorem supplies : Obligations.Supplies := by
  unfold Obligations.Supplies
  refine ⟨?_, ?_, ?_, ?_, ?_, ?_, ?_, ?_, ?_, ?_, ?_, ?_, ?_, ?_, ?_, ?_, ?_, ?_, ?_, ?_, ?_, ?_, ?_, ?_, ?_, ?_, ?_⟩
  -- `powerGood`
  · intro s b hon hpwr
    refine (onBlk_next hon ?_ : execPowerGood false s = _)
    exact if_pos hpwr
  · intro s b hon hpwr
    refine (onBlk_next hon ?_ : execPowerGood false s = _)
    refine (if_neg (by simp)).trans ?_
    exact if_neg (by simp [hpwr])
  · intro s b hon hpwr
    refine (onBlk_next hon ?_ : execPowerGood true s = _)
    exact if_pos hpwr
  · intro s b hon hpwr
    refine (onBlk_next hon ?_ : execPowerGood true s = _)
    refine (if_pos (by simp)).trans ?_
    exact if_neg (by simp [hpwr])
  -- `powerGoodTimeout`
  · intro s b hon hpwr hpgcore
    refine (onBlk_next hon ?_ : execPowerGoodTimeout false s = _)
    exact if_pos (by simp [hpwr, hpgcore])
  · intro s b hpwr
    refine (onBlk_unchanged (fun _ => ?_) : execPowerGoodTimeout false s = _)
    exact if_neg (by grind)
  -- `powerGoodLost`
  · intro s b hon hpgcore hpwr
    refine (onBlk_next hon ?_ : execPowerGoodLost false s = _)
    exact if_pos (by simp [hpgcore, hpwr])
  · intro s b hon hpgcore
    refine (onBlk_next hon ?_ : execPowerGoodLost false s = _)
    rcases hpgcore with h | h
    · refine (if_neg (by simp [h])).trans ?_
      exact if_neg (by simp)
    · refine (if_neg (by simp [h])).trans ?_
      exact if_neg (by simp)
  -- `powerGoodTimeout`
  · intro s b hon hpwr hpgmem
    refine (onBlk_next hon ?_ : execPowerGoodTimeout true s = _)
    exact if_pos (by simp [hpwr, hpgmem])
  · intro s b hpwr
    refine (onBlk_unchanged (fun _ => ?_) : execPowerGoodTimeout true s = _)
    exact if_neg (by grind)
  -- `powerGoodLost`
  · intro s b hon hpgmem hpwr
    refine (onBlk_next hon ?_ : execPowerGoodLost true s = _)
    exact if_pos (by simp [hpgmem, hpwr])
  · intro s b hon hpgmem
    refine (onBlk_next hon ?_ : execPowerGoodLost true s = _)
    rcases hpgmem with h | h
    · refine (if_neg (by simp [h])).trans ?_
      exact if_pos (by simp)
    · refine (if_neg (by simp [h])).trans ?_
      exact if_pos (by simp)
  -- `regulatorRefresh`
  · intro s b hon
    refine (onBlk_next hon ?_ : execRegulatorRefresh s = _)
    rfl
  -- `regulatorAlert`
  · intro s b hon
    refine (onBlk_next hon ?_ : execRegulatorAlert true s = _)
    exact if_pos (by simp)
  · intro s b hon
    refine (onBlk_next hon ?_ : execRegulatorAlert false s = _)
    exact if_neg (by simp)
  -- `pllOutOfLock`
  · intro s mem b hon
    refine (onBlk_next hon ?_ : execPllOutOfLock mem s = _)
    rfl
  -- `trstN`
  · intro s low b hon
    refine (onBlk_next hon ?_ : execTrstN low s = _)
    rfl
  -- `clockLost`
  · intro s clk b hbit
    refine (onBlk_unchanged (fun _ => ?_) : execClockLost clk s = _)
    exact if_pos hbit
  · intro s clk b hon hclk hbit
    refine (onBlk_next hon ?_ : execClockLost clk s = _)
    refine (if_neg (by grind)).trans ?_
    simp only [hclk]
  · intro s clk b hon hclk hbit
    refine (onBlk_next hon ?_ : execClockLost clk s = _)
    refine (if_neg (by grind)).trans ?_
    simp only [hclk]
  · intro s clk b c up hon hclk hclk2 hbit
    refine (onBlk_next hon ?_ : execClockLost clk s = _)
    refine (if_neg (by simp [hbit])).trans ?_
    simp [c, up]
  -- `clockRegained`
  · intro s clk b hbit
    refine (onBlk_unchanged (fun _ => ?_) : execClockRegained clk s = _)
    exact if_pos (by grind)
  · intro s clk b hon hclk hclkLost
    refine (onBlk_next hon ?_ : execClockRegained clk s = _)
    subst hclk
    exact if_neg (by simp [hclkLost])
  · intro s clk b hon hclk hclkLost
    refine (onBlk_next hon ?_ : execClockRegained clk s = _)
    have hcode : clkCode clk ≠ 0 := by cases clk <;> simp_all [clkCode]
    refine (if_neg (by simp [hclkLost])).trans ?_
    exact congrArg (Block.note _) (if_neg (by simp [hcode]))
  -- `powerFailWarning`
  · intro s b c hon hgov hdev
    refine (onGov_next hon hgov ?_ : execPowerFailWarning s = _)
    exact if_neg hdev
  · intro s b hgov
    exact (onGov_halted hgov : execPowerFailWarning s = _)
  · intro s b c hon hgov hdev
    refine (onGov_next hon hgov ?_ : execPowerFailWarning s = _)
    exact if_pos hdev

end Sys2Proof.Machine
end

section
/-! PROOFS. What a reference does to the turn unit. -/

namespace Sys2Proof.Machine

/-- Settles O8: the synchronisation mode, a running turn and the acceptance window pick the branch. -/
theorem timeReferences : Obligations.TimeReferences := by
  unfold Obligations.TimeReferences
  refine ⟨?_, ?_, ?_, ?_, ?_, ?_, ?_, ?_, ?_, ?_, ?_, ?_, ?_, ?_, ?_⟩
  -- `ppsInEdge`
  · intro s b off c last hon hsyncmode hrunning hnatAbs
    refine (onBlk_next hon ?_ : execPpsInEdge s = _)
    refine (if_pos (by simp [hsyncmode, hrunning])).trans ?_
    exact if_pos (by simp [hnatAbs, off])
  · intro s b off c last hon hsyncmode hrunning hnatAbs htu houtputsOn
    refine (onBlk_next hon ?_ : execPpsInEdge s = _)
    refine (if_pos (by simp [hsyncmode, hrunning])).trans ?_
    refine (if_neg (by simp [hnatAbs, htu, off])).trans ?_
    exact if_pos (by grind)
  · intro s b off c last hon hsyncmode hrunning hnatAbs htu houtputsOn
    refine (onBlk_next hon ?_ : execPpsInEdge s = _)
    refine (if_pos (by simp [hsyncmode, hrunning])).trans ?_
    refine (if_neg (by simp [hnatAbs, htu, off])).trans ?_
    exact if_neg (by grind)
  · intro s b hsyncmode
    refine (onBlk_unchanged (fun _ => ?_) : execPpsInEdge s = _)
    exact if_neg (by grind)
  -- `turnSyncInEdge`
  · intro s b off c last hon hsyncmode hrunning hnatAbs
    refine (onBlk_next hon ?_ : execTurnSyncInEdge s = _)
    refine (if_pos (by simp [hsyncmode, hrunning])).trans ?_
    exact if_pos (by simp [hnatAbs, off])
  · intro s b off c last hon hsyncmode hrunning hnatAbs htu houtputsOn
    refine (onBlk_next hon ?_ : execTurnSyncInEdge s = _)
    refine (if_pos (by simp [hsyncmode, hrunning])).trans ?_
    refine (if_neg (by simp [hnatAbs, htu, off])).trans ?_
    exact if_pos (by grind)
  · intro s b off c last hon hsyncmode hrunning hnatAbs htu houtputsOn
    refine (onBlk_next hon ?_ : execTurnSyncInEdge s = _)
    refine (if_pos (by simp [hsyncmode, hrunning])).trans ?_
    refine (if_neg (by simp [hnatAbs, htu, off])).trans ?_
    exact if_neg (by grind)
  · intro s b hsyncmode
    refine (onBlk_unchanged (fun _ => ?_) : execTurnSyncInEdge s = _)
    exact if_neg (by grind)
  -- `gptpSync`
  · intro s time b c hon hsyncmode
    refine (onBlk_next hon ?_ : execGptpSync time s = _)
    refine if_neg (fun h => ?_)
    rw [Bool.and_eq_true, decide_eq_true_eq] at h
    exact hsyncmode.elim (fun hmode => hmode h.1) fun hrun => Bool.false_ne_true (hrun.symm.trans h.2)
  · intro s time b c hon hsyncmode hrunning
    refine (onBlk_next hon ?_ : execGptpSync time s = _)
    exact if_pos (Bool.and_eq_true_iff.mpr ⟨decide_eq_true hsyncmode, hrunning⟩)
  -- `holdoverEntry`
  · intro s b hon hrunning hsyncmode hholdover
    refine (onBlk_next hon ?_ : execHoldoverEntry s = _)
    refine (if_pos (by simp [hrunning, hsyncmode])).trans ?_
    exact if_neg (by simp [hholdover])
  · intro s b hrunning
    refine (onBlk_unchanged (b := b) (fun _ => ?_) : execHoldoverEntry s = _)
    by_cases h : (b.running && (b.get TRN_CFG_SYNCMODE = 2 || b.get TRN_CFG_SYNCMODE = 3)) = true
    · exact (if_pos h).trans (if_pos (by grind))
    · exact if_neg h
  -- `holdoverLimit`
  · intro s b hon hholdover
    refine (onBlk_next hon ?_ : execHoldoverLimit s = _)
    exact if_pos (by simp [hholdover])
  · intro s b hholdover
    refine (onBlk_unchanged (fun _ => ?_) : execHoldoverLimit s = _)
    exact if_neg (by grind)
  -- `masterTimerMismatch`
  · intro s b hon
    refine (onBlk_next hon ?_ : execMasterTimerMismatch s = _)
    rfl

end Sys2Proof.Machine
end

section
/-! PROOFS. Cache errors and failing ways. -/

namespace Sys2Proof.Machine

/-- Settles O14: the sail, the core and the place of the error pick the branch. -/
theorem cacheErrors : Obligations.CacheErrors := by
  unfold Obligations.CacheErrors
  refine ⟨?_, ?_, ?_, ?_, ?_, ?_, ?_, ?_, ?_, ?_, ?_, ?_, ?_, ?_, ?_, ?_, ?_, ?_⟩
  -- `cacheErrorCorrected`
  · intro s sail core place slice way addr b hactive
    refine (onBlk_unchanged (fun _ => ?_) : execCacheErrorCorrected sail core place slice way addr s = _)
    exact if_pos (by grind)
  · intro s sail core place slice way addr b c hon hactive hplace
    refine (onBlk_next hon ?_ : execCacheErrorCorrected sail core place slice way addr s = _)
    refine (if_neg (by simp [hactive])).trans ?_
    simp only [hplace]
    rfl
  · intro s sail core place slice way addr b c hon hactive hplace hcore
    refine (onBlk_next hon ?_ : execCacheErrorCorrected sail core place slice way addr s = _)
    refine (if_neg (by simp [hactive])).trans ?_
    simp only [hplace]
    exact if_pos hcore
  · intro s sail core place slice way addr b c hon hactive hplace hplace2
    refine (onBlk_next hon ?_ : execCacheErrorCorrected sail core place slice way addr s = _)
    refine (if_neg (by simp [hactive])).trans ?_
    grind
  -- `cacheUncorrectableError`
  · intro s sail core place tag slice way addr b hactive
    refine (onBlk_unchanged (fun _ => ?_) : execCacheUncorrectableError sail core place tag slice way addr s = _)
    exact if_pos (by grind)
  · intro s sail core place tag slice way addr b hon hactive hplace htag
    refine (onBlk_next hon ?_ : execCacheUncorrectableError sail core place tag slice way addr s = _)
    refine (if_neg (by simp [hactive, hplace])).trans ?_
    simp only [hplace]
    exact if_pos htag
  · intro s sail core place tag slice way addr b h line hon hactive hplace htag
    refine (onBlk_next hon ?_ : execCacheUncorrectableError sail core place tag slice way addr s = _)
    refine (if_neg (by simp [hactive, hplace])).trans ?_
    simp only [hplace]
    exact if_neg (by simp [htag])
  · intro s sail core place tag slice way addr b h line hon hactive hcore hplace
    refine (onBlk_next hon ?_ : execCacheUncorrectableError sail core place tag slice way addr s = _)
    refine (if_neg (by simp [hactive, Nat.not_le.mpr hcore])).trans ?_
    simp only [hplace]
    rfl
  · intro s sail core place tag slice way addr b h line hon hactive hcore hplace htag
    refine (onBlk_next hon ?_ : execCacheUncorrectableError sail core place tag slice way addr s = _)
    refine (if_neg (by simp [hactive, Nat.not_le.mpr hcore])).trans ?_
    grind
  · intro s sail core place tag slice way addr b h line hon hactive hcore hplace htag
    refine (onBlk_next hon ?_ : execCacheUncorrectableError sail core place tag slice way addr s = _)
    refine (if_neg (by simp [hactive, Nat.not_le.mpr hcore])).trans ?_
    simp only [hplace]
    exact if_neg (by simp [htag])
  · intro s sail core place tag slice way addr b h line hon hactive hcore hplace htag hhart
    refine (onBlk_next hon ?_ : execCacheUncorrectableError sail core place tag slice way addr s = _)
    refine (if_neg (by simp [hactive, Nat.not_le.mpr hcore])).trans ?_
    simp only [hplace]
    refine (if_neg (by simp [htag])).trans ?_
    exact if_pos hhart
  · intro s sail core place tag slice way addr b h line hplace htag hhart
    refine (onBlk_unchanged (fun _ => ?_) : execCacheUncorrectableError sail core place tag slice way addr s = _)
    grind
  · intro s sail core place tag slice way addr b h line hon hactive hcore hplace htag hhart
    refine (onBlk_next hon ?_ : execCacheUncorrectableError sail core place tag slice way addr s = _)
    refine (if_neg (by simp [hactive, Nat.not_le.mpr hcore])).trans ?_
    simp only [hplace]
    refine (if_neg (by simp [htag])).trans ?_
    exact if_pos hhart
  · intro s sail core place tag slice way addr b h line hplace htag hhart
    refine (onBlk_unchanged (fun _ => ?_) : execCacheUncorrectableError sail core place tag slice way addr s = _)
    grind
  -- `wayErrorDecay`
  · intro s sail b hon hactive hdecay
    refine (onBlk_next hon ?_ : execWayErrorDecay sail s = _)
    exact if_pos (by simp [hactive, hdecay])
  · intro s sail b hactive
    refine (onBlk_unchanged (fun _ => ?_) : execWayErrorDecay sail s = _)
    exact if_neg (by grind)
  -- `coreStop`
  · intro s sail core lost b h hon hactive hcore hbit
    refine (onBlk_next hon ?_ : execCoreStop sail core lost s = _)
    refine (if_neg (by simp [hactive, hcore])).trans ?_
    exact if_neg (by grind)
  · intro s sail core lost b h hactive
    refine (onBlk_unchanged (b := b) (fun _ => ?_) : execCoreStop sail core lost s = _)
    rcases hactive with hsail | hcore | hdis
    · exact if_pos (by simp [hsail])
    · exact if_pos (by simp [hcore])
    · by_cases hidle : (!b.active? sail || 16 ≤ core) = true
      · exact if_pos hidle
      · exact (if_neg hidle).trans (if_pos hdis)

end Sys2Proof.Machine
end

section
/-! PROOFS. Entry, seal, mark, abandonment and reset of a partition. -/

namespace Sys2Proof.Machine

/-- A write of ABANDON by a hart that is pinned to a live partition. -/
theorem Block.abandonWrite_live {b : Block} {h p r i value : Nat} (hpin : (b.hart h).pin = some (p, r, i)) (hlive : b.partLive p = true) :
    b.abandonWrite h value =
      if value % 2 = 1 && b.partRuns p && b.inService p r && !(b.repl p r).sealedIn b.turn && !((b.repl p r).missed && (b.repl p r).turn = b.turn)
      then b.missMark p r (some { code := 0x2706, mid := some h }) else b := by
  simp only [Block.abandonWrite, hpin, hlive, Bool.not_true, Bool.false_eq_true, if_false]

/-- Settles O12: the state of the partition, of its replica and of the hart picks the branch. -/
theorem entryAndSeal : Obligations.EntryAndSeal := by
  unfold Obligations.EntryAndSeal
  refine ⟨?_, ?_, ?_, ?_, ?_, ?_, ?_, ?_, ?_, ?_, ?_, ?_, ?_, ?_, ?_, ?_, ?_, ?_, ?_⟩
  -- `partitionEntry`
  · intro s part b hpart
    refine (onBlk_unchanged (b := b) (fun _ => ?_) : execPartitionEntry part s = _)
    exact if_pos (by simp only [Bool.or_eq_true]; grind [List.isEmpty_iff, Option.isNone_iff_eq_none, Option.isSome_iff_ne_none])
  · intro s part b c hon hpart hmarkNs
    refine (onBlk_next hon ?_ : execPartitionEntry part s = _)
    refine (if_neg (by grind)).trans ?_
    exact if_pos hmarkNs
  · intro s part b c d hon hpart hnowNs
    refine (onBlk_next hon ?_ : execPartitionEntry part s = _)
    refine (if_neg (by grind)).trans ?_
    exact if_neg (by simp [hnowNs, c])
  -- `turnsealWrite`
  · intro s sail core value b h hcore
    refine (onBlk_unchanged (fun _ => ?_) : execTurnsealWrite sail core value s = _)
    exact if_pos (by grind)
  · intro s sail core value b h hon hcore hexecuting hhart
    refine (onBlk_next hon ?_ : execTurnsealWrite sail core value s = _)
    refine (if_neg (by simp [hcore, hexecuting, h])).trans ?_
    simp [hhart, h]
  · intro s sail core value p r i b h hon hcore hexecuting hhart hhart2
    refine (onBlk_next hon ?_ : execTurnsealWrite sail core value s = _)
    refine (if_neg (by simp [hcore, hexecuting, h])).trans ?_
    grind
  · intro s sail core value p r i b h hon hcore hexecuting hhart hhart2 hvalue
    refine (onBlk_next hon ?_ : execTurnsealWrite sail core value s = _)
    refine (if_neg (by simp [hcore, hexecuting, h])).trans ?_
    simp [hhart, hhart2, hvalue, h]
  · intro s sail core value p r i b h hon hcore hexecuting hhart hhart2 hvalue
    refine (onBlk_next hon ?_ : execTurnsealWrite sail core value s = _)
    refine (if_neg (by simp [hcore, hexecuting, h])).trans ?_
    simp [hhart, hhart2, hvalue, h]
  -- `replicaSealed`
  · intro s part repl b hrepl
    refine (onBlk_unchanged (fun _ => ?_) : execReplicaSealed part repl s = _)
    grind
  · intro s part repl n b hon hrepl hrepl2
    refine (onBlk_next hon ?_ : execReplicaSealed part repl s = _)
    simp only [hrepl]
    exact if_neg (by simp [hrepl2])
  -- `deadlineMark`
  · intro s part b hpart
    refine (onBlk_unchanged (fun _ => ?_) : execDeadlineMark part s = _)
    exact if_pos (by grind)
  · intro s part b c late f hon hpart hmarkSlot
    refine (onBlk_next hon ?_ : execDeadlineMark part s = _)
    exact if_neg (by simp [hpart, hmarkSlot])
  -- `abandonRepl`
  · intro s sail core value b h hcore
    refine (onBlk_unchanged (fun _ => ?_) : execAbandonRepl sail core value s = _)
    exact if_pos (by grind)
  · intro s sail core value b h hon hcore hexecuting hhart
    refine (onBlk_next hon ?_ : execAbandonRepl sail core value s = _)
    refine (if_neg (by simp [hexecuting, hcore, h])).trans ?_
    simp [Block.abandonWrite, hhart, h]
  · intro s sail core value p r i b h hon hcore hexecuting hhart hpartLive
    refine (onBlk_next hon ?_ : execAbandonRepl sail core value s = _)
    refine (if_neg (by simp [hexecuting, hcore, h])).trans ?_
    simp [Block.abandonWrite, hhart, hpartLive, h]
  · intro s sail core value p r i b h hon hcore hexecuting hhart hpartLive hvalue
    refine (onBlk_next hon ?_ : execAbandonRepl sail core value s = _)
    refine (if_neg (by simp [hexecuting, hcore, h])).trans ?_
    exact Block.abandonWrite_live hhart hpartLive |>.trans (if_pos (by grind))
  · intro s sail core value p r i b h hon hcore hexecuting hhart hpartLive hvalue
    refine (onBlk_next hon ?_ : execAbandonRepl sail core value s = _)
    refine (if_neg (by simp [hexecuting, hcore, h])).trans ?_
    exact Block.abandonWrite_live hhart hpartLive |>.trans (if_neg (by grind))
  -- `partitionResetRequest`
  · intro s part b hon hpart
    refine (onBlk_next hon ?_ : execPartitionResetRequest part s = _)
    exact if_neg (by simp [hpart])
  · intro s part b hon hpart
    refine (onBlk_next hon ?_ : execPartitionResetRequest part s = _)
    exact if_pos hpart

end Sys2Proof.Machine
end

section
/-! PROOFS. Digests, decisions, releases and copies. -/

namespace Sys2Proof.Machine

/-- Settles O13: what waits at the front of an engine, and the state of its partition, pick the branch. -/
theorem bolterRows : Obligations.BolterRows := by
  unfold Obligations.BolterRows
  refine ⟨?_, ?_, ?_, ?_, ?_, ?_, ?_, ?_, ?_, ?_, ?_, ?_, ?_, ?_, ?_, ?_, ?_, ?_, ?_, ?_, ?_, ?_, ?_, ?_, ?_, ?_, ?_⟩
  -- `digestComplete`
  · intro s part repl refused b hblt
    refine (onBlk_unchanged (fun _ => ?_) : execDigestComplete part repl refused s = _)
    grind
  · intro s part repl refused x b g hon hfind hdigestDue
    refine (onBlk_next hon ?_ : execDigestComplete part repl refused s = _)
    simp only [hfind]
    refine congrArg (Block.endEng _) ?_
    exact if_neg (by simp [hdigestDue])
  · intro s part repl refused x b v c d e g hon hfind hdigestDue
    refine (onBlk_next hon ?_ : execDigestComplete part repl refused s = _)
    have hdue : (b.digestDue part repl && (b.repl part repl).seals.getLast? = some x.2.2.2) = true := by simp [hdigestDue]
    simp only [hfind]
    exact congrArg (Block.endEng x.1) (if_pos hdue)
  -- `digestRecord`
  · intro s record b v p f hxpkg
    refine (onBlk_unchanged (fun _ => ?_) : execDigestRecord record s = _)
    exact if_pos (by grind)
  · intro s record b v p f hon hxpkg
    refine (onBlk_next hon ?_ : execDigestRecord record s = _)
    exact if_neg (by simp [hxpkg, v, p])
  -- `bolterDecision`
  · intro s part b hpart
    refine (onBlk_unchanged (fun _ => ?_) : execBolterDecision part s = _)
    exact if_pos hpart
  · intro s part b hon hpart hpartDefined
    refine (onBlk_next hon ?_ : execBolterDecision part s = _)
    refine (if_neg (by simp [hpart])).trans ?_
    exact if_pos (by simp [hpartDefined])
  · intro s part b hpartDefined houtputsOn
    refine (onBlk_unchanged (fun _ => ?_) : execBolterDecision part s = _)
    grind
  · intro s part b u c mode late d peerOk e l v hon hpart hpartDefined houtputsOn hpartRuns hturn hpart2
    refine (onBlk_next hon ?_ : execBolterDecision part s = _)
    refine (if_neg (by simp [hpart])).trans ?_
    refine (if_neg (by simp [hpartDefined])).trans ?_
    exact if_neg (by simp [houtputsOn, hpartRuns, hturn, hpart2])
  -- `releaseInstant`
  · intro s part b hpart
    refine (onBlk_unchanged (fun _ => ?_) : execReleaseInstant part s = _)
    grind
  · intro s part src u b c d k hon hpart hrelFirst hpartRuns
    refine (onBlk_next hon ?_ : execReleaseInstant part s = _)
    simp only [hpart]
    refine (if_neg (by simp [hrelFirst])).trans ?_
    exact if_pos (by grind)
  · intro s part src u b c d k hon hpart hrelFirst hpartRuns
    refine (onBlk_next hon ?_ : execReleaseInstant part s = _)
    simp only [hpart]
    refine (if_neg (by simp [hrelFirst])).trans ?_
    exact if_neg (by grind)
  -- `catchUpStart`
  · intro s part repl b hrepl
    refine (onBlk_unchanged (fun _ => ?_) : execCatchUpStart part repl s = _)
    exact if_pos (by grind)
  · intro s part repl b hon hrepl hcatchVoid
    refine (onBlk_next hon ?_ : execCatchUpStart part repl s = _)
    refine (if_neg (by simp [hrepl])).trans ?_
    exact if_pos hcatchVoid
  · intro s part repl b hcatchVoid hcopyRuns
    refine (onBlk_unchanged (fun _ => ?_) : execCatchUpStart part repl s = _)
    grind
  · intro s part repl b hon hrepl hcatchVoid hcopyRuns hcopyFirst
    refine (onBlk_next hon ?_ : execCatchUpStart part repl s = _)
    refine (if_neg (by simp [hrepl])).trans ?_
    refine (if_neg (by simp [hcatchVoid])).trans ?_
    exact if_neg (by simp [hcopyRuns, hcopyFirst])
  -- `catchUpComplete`
  · intro s part repl q b hon hrepl hrepl2
    refine (onBlk_next hon ?_ : execCatchUpComplete part repl s = _)
    simp only [hrepl]
    simp only [hrepl2]
    rfl
  · intro s part repl b hrepl
    refine (onBlk_unchanged (fun _ => ?_) : execCatchUpComplete part repl s = _)
    grind
  -- `repairCopyComplete`
  · intro s part b hpart
    refine (onBlk_unchanged (fun _ => ?_) : execRepairCopyComplete part s = _)
    grind
  -- `restoreStart`
  · intro s part b hpart
    refine (onBlk_unchanged (fun _ => ?_) : execRestoreStart part s = _)
    grind
  -- `restoreComplete`
  · intro s part b hpart
    refine (onBlk_unchanged (fun _ => ?_) : execRestoreComplete part s = _)
    grind
  -- `repairCopyComplete`
  · intro s part q b hon hpart hrestore
    refine (onBlk_next hon ?_ : execRepairCopyComplete part s = _)
    simp only [hpart]
    exact if_neg (by simp [hrestore])
  · intro s part q b hpart hrestore
    refine (onBlk_unchanged (b := b) (fun _ => ?_) : execRepairCopyComplete part s = _)
    simp only [hpart]
    simp_all
  -- `restoreStart`
  · intro s part q b hon hpart hrestore
    refine (onBlk_next hon ?_ : execRestoreStart part s = _)
    simp only [hpart]
    exact if_neg (by simp [hrestore])
  · intro s part q b hpart hrestore
    refine (onBlk_unchanged (fun _ => ?_) : execRestoreStart part s = _)
    grind
  -- `restoreComplete`
  · intro s part q b k hon hpart hrestore
    refine (onBlk_next hon ?_ : execRestoreComplete part s = _)
    simp only [hpart]
    exact if_neg (by simp [hrestore])
  · intro s part q b hpart hrestore
    refine (onBlk_unchanged (fun _ => ?_) : execRestoreComplete part s = _)
    grind

end Sys2Proof.Machine
end

section
/-! PROOFS. Masks, locks and the maintenance engine. -/

namespace Sys2Proof.Machine

/-- Settles O15: the master, the state of the engine and what its operand names pick the branch. -/
theorem maskAndMaintenance : Obligations.MaskAndMaintenance := by
  unfold Obligations.MaskAndMaintenance
  refine ⟨?_, ?_, ?_, ?_, ?_, ?_, ?_, ?_, ?_, ?_, ?_, ?_, ?_, ?_, ?_, ?_, ?_, ?_, ?_, ?_, ?_, ?_, ?_, ?_, ?_, ?_, ?_⟩
  -- `l3MaskLockWrite`
  · intro s mid sail which index value b hon hsailServes
    refine (onBlk_next hon ?_ : execL3MaskLockWrite mid sail which index value s = _)
    exact if_neg (by simp [hsailServes])
  · intro s mid sail which index value b hon hsailServes hmid
    refine (onBlk_next hon ?_ : execL3MaskLockWrite mid sail which index value s = _)
    refine (if_pos hsailServes).trans ?_
    exact if_pos hmid
  · intro s mid sail which index value b hon hsailServes hmid hmaskPut
    refine (onBlk_next hon ?_ : execL3MaskLockWrite mid sail which index value s = _)
    refine (if_pos hsailServes).trans ?_
    refine (if_neg (by simp [hmid])).trans ?_
    exact if_neg (by simp [hmaskPut])
  · intro s mid sail which index value b hon hsailServes hmid hmaskPut
    refine (onBlk_next hon ?_ : execL3MaskLockWrite mid sail which index value s = _)
    refine (if_pos hsailServes).trans ?_
    refine (if_neg (by simp [hmid])).trans ?_
    exact if_pos hmaskPut
  -- `mntClean`
  · intro s sail mid ctl b hon hsailServes
    refine (onBlk_next hon ?_ : execMntClean sail mid ctl s = _)
    exact if_pos (by simp [hsailServes])
  · intro s sail mid ctl b hon hsailServes hactive
    refine (onBlk_next hon ?_ : execMntClean sail mid ctl s = _)
    refine (if_neg (by simp [hsailServes])).trans ?_
    exact if_pos (by simp [hactive])
  · intro s sail mid ctl b hon hsailServes hactive hbusy
    refine (onBlk_next hon ?_ : execMntClean sail mid ctl s = _)
    refine (if_neg (by simp [hsailServes])).trans ?_
    refine (if_neg (by simp [hactive])).trans ?_
    exact if_pos hbusy
  · intro s sail mid ctl e b c hon hsailServes hactive hbusy hmntRefusal
    refine (onBlk_next hon ?_ : execMntClean sail mid ctl s = _)
    refine (if_neg (by simp [hsailServes])).trans ?_
    refine (if_neg (by simp [hactive])).trans ?_
    refine (if_neg (by simp [hbusy])).trans ?_
    simp [hmntRefusal, c]
  · intro s sail mid ctl b c hon hsailServes hactive hbusy hmntRefusal
    refine (onBlk_next hon ?_ : execMntClean sail mid ctl s = _)
    refine (if_neg (by simp [hsailServes])).trans ?_
    refine (if_neg (by simp [hactive])).trans ?_
    refine (if_neg (by simp [hbusy])).trans ?_
    simp [hmntRefusal, c]
  -- `mntCleaninv`
  · intro s sail mid ctl b hon hsailServes
    refine (onBlk_next hon ?_ : execMntCleaninv sail mid ctl s = _)
    exact if_pos (by simp [hsailServes])
  · intro s sail mid ctl b hon hsailServes hactive
    refine (onBlk_next hon ?_ : execMntCleaninv sail mid ctl s = _)
    refine (if_neg (by simp [hsailServes])).trans ?_
    exact if_pos (by simp [hactive])
  · intro s sail mid ctl b hon hsailServes hactive hbusy
    refine (onBlk_next hon ?_ : execMntCleaninv sail mid ctl s = _)
    refine (if_neg (by simp [hsailServes])).trans ?_
    refine (if_neg (by simp [hactive])).trans ?_
    exact if_pos hbusy
  · intro s sail mid ctl e b c hon hsailServes hactive hbusy hmntRefusal
    refine (onBlk_next hon ?_ : execMntCleaninv sail mid ctl s = _)
    refine (if_neg (by simp [hsailServes])).trans ?_
    refine (if_neg (by simp [hactive])).trans ?_
    refine (if_neg (by simp [hbusy])).trans ?_
    simp [hmntRefusal, c]
  · intro s sail mid ctl b c hon hsailServes hactive hbusy hmntRefusal
    refine (onBlk_next hon ?_ : execMntCleaninv sail mid ctl s = _)
    refine (if_neg (by simp [hsailServes])).trans ?_
    refine (if_neg (by simp [hactive])).trans ?_
    refine (if_neg (by simp [hbusy])).trans ?_
    simp [hmntRefusal, c]
  -- `mntLockload`
  · intro s sail mid ctl b hon hsailServes
    refine (onBlk_next hon ?_ : execMntLockload sail mid ctl s = _)
    exact if_pos (by simp [hsailServes])
  · intro s sail mid ctl b hon hsailServes hactive
    refine (onBlk_next hon ?_ : execMntLockload sail mid ctl s = _)
    refine (if_neg (by simp [hsailServes])).trans ?_
    exact if_pos (by simp [hactive])
  · intro s sail mid ctl b hon hsailServes hactive hbusy
    refine (onBlk_next hon ?_ : execMntLockload sail mid ctl s = _)
    refine (if_neg (by simp [hsailServes])).trans ?_
    refine (if_neg (by simp [hactive])).trans ?_
    exact if_pos hbusy
  · intro s sail mid ctl e b c hon hsailServes hactive hbusy hmntRefusal
    refine (onBlk_next hon ?_ : execMntLockload sail mid ctl s = _)
    refine (if_neg (by simp [hsailServes])).trans ?_
    refine (if_neg (by simp [hactive])).trans ?_
    refine (if_neg (by simp [hbusy])).trans ?_
    simp [hmntRefusal, c]
  · intro s sail mid ctl b c hon hsailServes hactive hbusy hmntRefusal
    refine (onBlk_next hon ?_ : execMntLockload sail mid ctl s = _)
    refine (if_neg (by simp [hsailServes])).trans ?_
    refine (if_neg (by simp [hactive])).trans ?_
    refine (if_neg (by simp [hbusy])).trans ?_
    simp [hmntRefusal, c]
  -- `mntReservedOp`
  · intro s sail mid ctl b hon hsailServes
    refine (onBlk_next hon ?_ : execMntReservedOp sail mid ctl s = _)
    exact if_pos (by simp [hsailServes])
  · intro s sail mid ctl b hon hsailServes hactive
    refine (onBlk_next hon ?_ : execMntReservedOp sail mid ctl s = _)
    refine (if_neg (by simp [hsailServes])).trans ?_
    exact if_pos (by simp [hactive])
  · intro s sail mid ctl b hon hsailServes hactive hbusy
    refine (onBlk_next hon ?_ : execMntReservedOp sail mid ctl s = _)
    refine (if_neg (by simp [hsailServes])).trans ?_
    refine (if_neg (by simp [hactive])).trans ?_
    exact if_pos hbusy
  · intro s sail mid ctl e b c hon hsailServes hactive hbusy hmntRefusal
    refine (onBlk_next hon ?_ : execMntReservedOp sail mid ctl s = _)
    refine (if_neg (by simp [hsailServes])).trans ?_
    refine (if_neg (by simp [hactive])).trans ?_
    refine (if_neg (by simp [hbusy])).trans ?_
    simp [hmntRefusal, c]
  -- `mntComplete`
  · intro s sail b hactive
    refine (onBlk_unchanged (fun _ => ?_) : execMntComplete sail s = _)
    exact if_pos (by grind)
  · intro s sail b c d hon hactive hbusy hmntDone
    refine (onBlk_next hon ?_ : execMntComplete sail s = _)
    refine (if_neg (by simp [hactive, hbusy])).trans ?_
    exact if_pos (by rw [hmntDone]; rfl)
  · intro s sail b c d hon hactive hbusy hmntDone hsail
    refine (onBlk_next hon ?_ : execMntComplete sail s = _)
    refine (if_neg (by simp [hactive, hbusy])).trans ?_
    refine (if_neg (by rw [hmntDone]; decide)).trans ?_
    exact congrArg (fun x : Block => ((x.mntMsi sail).leaveOn sail).cleanOver sail) (if_neg (by rw [hsail]; decide))
  · intro s sail b c d hon hactive hbusy hmntDone hsail
    refine (onBlk_next hon ?_ : execMntComplete sail s = _)
    refine (if_neg (by simp [hactive, hbusy])).trans ?_
    refine (if_neg (by rw [hmntDone]; decide)).trans ?_
    exact congrArg (fun x : Block => ((x.mntMsi sail).leaveOn sail).cleanOver sail) (if_pos hsail)

end Sys2Proof.Machine
end

section
/-! PROOFS. Timeouts, the filter rebuild and tracking mode. -/

namespace Sys2Proof.Machine

/-- A write that has timed out no longer acts at its home (R176); any other request is not there. -/
theorem Block.when_isWrite (r : OpenReq) (b : Block) :
    b.when (isWrite r.kind) (Block.dropWrite r) = if r.kind = .wrFull ∨ r.kind = .wrPart then b.dropWrite r else b := by
  cases hkind : r.kind <;> simp [Block.when, isWrite]

theorem sailOf_of_lt {mid : Nat} (h : mid / 32 < 12) : sailOf mid = some (mid / 32) :=
  if_pos (by omega)

theorem sailOf_of_le {mid : Nat} (h : ¬ mid / 32 < 12) : sailOf mid = none :=
  if_neg (by omega)

theorem Block.timeoutEnds_other {r : OpenReq} {b d : Block} (hmid : r.mid % 32 ≠ 17)
    (hd : (b.modCoh (fun c => { c with starving := c.starving.filter (fun e => e.2 ≠ (r.mid, r.txid)) })).when (isWrite r.kind) (Block.dropWrite r) = d) :
    b.timeoutEnds r = d.emit (.errComp r.mid r.part r.txid (r.line * 64)) := by
  subst hd
  exact if_pos hmid

theorem Block.timeoutEnds_l3 {r : OpenReq} {b d : Block} (hmid : r.mid % 32 = 17)
    (hd : (b.modCoh (fun c => { c with starving := c.starving.filter (fun e => e.2 ≠ (r.mid, r.txid)) })).when (isWrite r.kind) (Block.dropWrite r) = d) :
    b.timeoutEnds r = if r.mid / 32 < 12 ∧ (r.mnt = true ∨ (d.sail (r.mid / 32)).mntWait.contains r.line = true) then
        d.modSail (r.mid / 32) fun s => { s with mntFail := true, mntWait := s.mntWait.filter (· ≠ r.line) }
      else d := by
  subst hd
  refine (if_neg (by simp [hmid])).trans ?_
  by_cases hn : r.mid / 32 < 12
  · simp only [sailOf_of_lt hn, Block.when, hn, true_and, Bool.or_eq_true]
  · simp only [sailOf_of_le hn, hn, false_and, if_false]

/-- Settles O23: the requester, the kind of the request, the bank and the mode pick the branch. -/
theorem coherenceTimeouts : Obligations.CoherenceTimeouts := by
  unfold Obligations.CoherenceTimeouts
  refine ⟨?_, ?_, ?_, ?_, ?_, ?_, ?_, ?_, ?_, ?_, ?_, ?_, ?_, ?_, ?_, ?_, ?_, ?_, ?_⟩
  -- `requesterTimeout`
  · intro s mid txid b hmatch
    refine (onBlk_unchanged (fun _ => ?_) : execRequesterTimeout mid txid s = _)
    grind
  · intro s mid txid r b c f d hon hreqOf htimedOut hmid
    refine (onBlk_next hon ?_ : execRequesterTimeout mid txid s = _)
    simp only [hreqOf]
    refine (if_neg (by simp [htimedOut])).trans ?_
    exact Block.timeoutEnds_other hmid (Block.when_isWrite r c)
  · intro s mid txid r b c f d n hon hreqOf htimedOut hmid hmid2
    refine (onBlk_next hon ?_ : execRequesterTimeout mid txid s = _)
    simp only [hreqOf]
    refine (if_neg (by simp [htimedOut])).trans ?_
    exact (Block.timeoutEnds_l3 hmid (Block.when_isWrite r c)).trans (if_neg fun h => hmid2 ⟨hmid, h⟩)
  · intro s mid txid r b c f d n hon hreqOf htimedOut hmid
    refine (onBlk_next hon ?_ : execRequesterTimeout mid txid s = _)
    simp only [hreqOf]
    refine (if_neg (by simp [htimedOut])).trans ?_
    exact (Block.timeoutEnds_l3 hmid.1 (Block.when_isWrite r c)).trans (if_pos hmid.2)
  -- `homeTimeout`
  · intro s mid txid addr b hmatch
    refine (onBlk_unchanged (fun _ => ?_) : execHomeTimeout mid txid addr s = _)
    grind
  · intro s mid txid addr n t l b hon htxnOf hmid htxid hawaitResp
    refine (onBlk_next hon ?_ : execHomeTimeout mid txid addr s = _)
    simp only [htxnOf]
    refine (if_neg (by simp [hmid, htxid])).trans ?_
    simp only [hawaitResp]
  · intro s mid txid addr t b hon htxnOf hmid htxid hawaitResp hawaitData
    refine (onBlk_next hon ?_ : execHomeTimeout mid txid addr s = _)
    simp only [htxnOf]
    refine (if_neg (by simp [hmid, htxid])).trans ?_
    simp [hawaitResp, hawaitData]
  -- `filterUncorrectable`
  · intro s bank corrected b hfilterMode
    refine (onBlk_unchanged (fun _ => ?_) : execFilterUncorrectable bank corrected s = _)
    exact if_pos (by grind)
  · intro s bank corrected b hon hfilterMode hbank hcorrected
    refine (onBlk_next hon ?_ : execFilterUncorrectable bank corrected s = _)
    refine (if_neg (by simp [hfilterMode, hbank])).trans ?_
    exact if_pos hcorrected
  · intro s bank corrected b hon hfilterMode hbank hcorrected
    refine (onBlk_next hon ?_ : execFilterUncorrectable bank corrected s = _)
    refine (if_neg (by simp [hfilterMode, hbank])).trans ?_
    exact if_neg (by simp [hcorrected])
  -- `rebuildSet`
  · intro s bank b hcoh
    refine (onBlk_unchanged (fun _ => ?_) : execRebuildSet bank s = _)
    grind
  · intro s bank r b hcoh hawait
    refine (onBlk_unchanged (fun _ => ?_) : execRebuildSet bank s = _)
    grind
  · intro s bank r b c hon hcoh hawait hcoh2 hactiveSails
    refine (onBlk_next hon ?_ : execRebuildSet bank s = _)
    simp only [hcoh]
    refine (if_neg (by simp [hawait, hcoh2])).trans ?_
    exact if_neg (by simp [hactiveSails])
  · intro s bank r b c hon hfind hawait hany hactiveSails
    refine (onBlk_next hon ?_ : execRebuildSet bank s = _)
    simp only [hfind]
    refine (if_neg (by simp [hawait, hany])).trans ?_
    simp [hactiveSails, Block.forL, c]
  -- `trackingModeSwitch`
  · intro s filter b hnotSelftest hnotService
    refine (onBlk_unchanged (fun _ => ?_) : execTrackingModeSwitch filter s = _)
    exact if_pos (by grind)
  · intro s filter b hdev hl3
    refine (onBlk_next (b := b) (by rcases hdev with h | h <;> simp [h]) ?_ : execTrackingModeSwitch filter s = _)
    refine (if_neg (by rcases hdev with h | h <;> simp [h])).trans ?_
    exact if_pos (by simp only [Block.cohIdle]; grind [List.isEmpty_iff])
  · intro s filter b hdev hl3
    refine (onBlk_next (b := b) (by rcases hdev with h | h <;> simp [h]) ?_ : execTrackingModeSwitch filter s = _)
    refine (if_neg (by rcases hdev with h | h <;> simp [h])).trans ?_
    exact if_neg (by simp only [Block.cohIdle]; grind [List.isEmpty_iff])
  -- `poisonMarkingComplete`
  · intro s sail b hsail
    refine (onBlk_unchanged (fun _ => ?_) : execPoisonMarkingComplete sail s = _)
    exact if_pos (by grind)
  · intro s sail b hon hsail hpoisoning
    refine (onBlk_next hon ?_ : execPoisonMarkingComplete sail s = _)
    exact if_neg (by simp [hsail, hpoisoning])

end Sys2Proof.Machine
end

section
/-! PROOFS. The millrace. -/

namespace Sys2Proof.Machine

theorem Block.oldPackets_eq (b : Block) : b.oldPackets = b.get MRC_DRAIN_COUNT (1 - b.get MRC_EPOCH_CUR) := rfl

/-- What fails a lane: an uncorrectable error, or the seventeenth corrected one of a turn (R246). -/
theorem execMeshLaneFail_fails {s : State} {link lane : Nat} {corrected : Bool} {b c d : Block} (hs : s.start = b) (hon : b.dev ≠ .off)
    (hlane : ¬ (112 ≤ link ∨ 2 ≤ lane ∨ b.mesh.lanes.contains (link * 2 + lane) = true))
    (hc : (({ b with net := { b.net with corr := SMap.upd 0 (link * 2 + lane) (· + 1) b.net.corr } } : Block).inc MRC_ERRCNT_CORR).noteOnce 0
      { code := 0x1507 } = c)
    (hd : (if corrected then c else b.poisonFlit link) = d)
    (hfail : corrected = false ∨ 16 < SMap.get 0 (link * 2 + lane) c.net.corr) :
    execMeshLaneFail link lane corrected s = .next (s.withBlk (d.laneFail link lane)) := by
  refine onBlk_next hon ?_ hs
  refine (if_neg (by simpa [or_assoc] using hlane)).trans ?_
  cases corrected with
  | false =>
    rw [if_neg (by decide)] at hd
    rw [if_neg (by decide), hd]
  | true =>
    rw [if_pos rfl] at hd
    rw [if_pos rfl]
    subst hd hc
    exact if_pos (hfail.resolve_left (by decide))

/-- Settles O24: the lane, the packet, the table and the epoch that a command meets pick the branch. -/
theorem millraceRows : Obligations.MillraceRows := by
  unfold Obligations.MillraceRows
  refine ⟨?_, ?_, ?_, ?_, ?_, ?_, ?_, ?_, ?_, ?_, ?_, ?_, ?_, ?_, ?_⟩
  -- `meshLaneFail`
  · intro s link lane corrected b hlink
    refine (onBlk_unchanged (fun _ => ?_) : execMeshLaneFail link lane corrected s = _)
    exact if_pos (by grind)
  · intro s link lane corrected b c hon hlink hcorrected hlink2
    refine (onBlk_next hon ?_ : execMeshLaneFail link lane corrected s = _)
    refine (if_neg (by grind)).trans ?_
    refine (if_pos hcorrected).trans ?_
    exact if_neg (by grind)
  · intro s link lane corrected b c d e hon hlane hfail hboth
    refine (execMeshLaneFail_fails rfl hon hlane rfl rfl hfail).trans ?_
    exact congrArg (fun x => Host.Outcome.next (s.withBlk x)) (if_pos hboth)
  · intro s link lane corrected b c d e hon hlane hfail hboth
    refine (execMeshLaneFail_fails rfl hon hlane rfl rfl hfail).trans ?_
    exact congrArg (fun x => Host.Outcome.next (s.withBlk x)) (if_neg (ne_true_of_eq_false hboth))
  -- `meshHeaderUncorrectable`
  · intro s router b hon hfilter
    refine (onBlk_next hon ?_ : execMeshHeaderUncorrectable router s = _)
    rcases hfilter with hrouter | hnone
    · simp [Block.when, Nat.not_lt.mpr hrouter]
    · simp [Block.when, Block.dropAt, hnone]
  · intro s router f b o n c hon hrouter hfilter
    refine (onBlk_next hon ?_ : execMeshHeaderUncorrectable router s = _)
    refine congrArg (fun x : Block => (x.inc MRC_ERRCNT_DROP).note { code := 0x250C }) ?_
    refine (if_pos (by simp [hrouter])).trans ?_
    simp only [Block.dropAt, hfilter]
    rfl
  -- `routingTableWrite`
  · intro s mid bank router index value b hon hmid
    refine (onBlk_next hon ?_ : execRoutingTableWrite mid bank router index value s = _)
    exact if_neg (by simp [hmid])
  · intro s mid bank router index value b hon hmid
    refine (onBlk_next hon ?_ : execRoutingTableWrite mid bank router index value s = _)
    exact if_pos (by grind)
  -- `mrcSwapRequest`
  · intro s mid b hon hmid
    refine (onBlk_next hon ?_ : execMrcSwapRequest mid s = _)
    exact if_neg (by simp [hmid])
  · intro s mid b hon hmid
    refine (onBlk_next hon ?_ : execMrcSwapRequest mid s = _)
    exact if_pos hmid
  -- `routingDrainComplete`
  · intro s b hdraining
    refine (onBlk_unchanged (b := b) (fun _ => ?_) : execRoutingDrainComplete s = _)
    exact if_pos (by rw [Block.oldPackets_eq]; simpa using hdraining)
  · intro s b c hon hdraining hcount hwantSwap
    refine (onBlk_next hon ?_ : execRoutingDrainComplete s = _)
    refine (if_neg (by rw [Block.oldPackets_eq]; simp [hdraining, hcount])).trans ?_
    exact if_neg (by simp [hwantSwap])
  · intro s b c hon hdraining hcount hwantSwap
    refine (onBlk_next hon ?_ : execRoutingDrainComplete s = _)
    refine (if_neg (by rw [Block.oldPackets_eq]; simp [hdraining, hcount])).trans ?_
    exact if_pos (by simp [hwantSwap])
  -- `drainOverrun`
  · intro s b hon hdraining
    refine (onBlk_next hon ?_ : execDrainOverrun s = _)
    exact if_pos (by rw [Block.oldPackets_eq]; simpa [and_assoc] using hdraining)
  · intro s b hdraining
    refine (onBlk_unchanged (b := b) (fun _ => ?_) : execDrainOverrun s = _)
    exact if_neg (by rw [Block.oldPackets_eq]; simpa [and_assoc] using hdraining)

end Sys2Proof.Machine
end

section
/-! PROOFS. Flume ports and links. -/

namespace Sys2Proof.Machine

theorem Block.ingressClass_plain {n code tc : Nat} {part : Option Nat} (b : Block) (h : isRequest code = false ∨ tc = 0 ∨ part = none) :
    b.ingressClass n code part tc = (tc, b) := by
  rcases part with _ | p
  · rfl
  · exact if_neg (by rcases h with h | h | h <;> simp_all)

theorem Block.ingressClass_token {n code p : Nat} {b : Block} (hreq : isRequest code = true) (htoken : (b.decideTc3 n p).1 = true) :
    b.ingressClass n code (some p) 1 = (3, (b.decideTc3 n p).2) :=
  (if_pos (by simp [hreq])).trans (by rw [if_pos htoken])

theorem Block.ingressClass_noToken {n code p : Nat} {b : Block} (hreq : isRequest code = true) (htoken : (b.decideTc3 n p).1 = false) :
    b.ingressClass n code (some p) 1 = (1, (b.decideTc3 n p).2) :=
  (if_pos (by simp [hreq])).trans (by rw [if_neg (ne_true_of_eq_false htoken)])

/-- A packet of a listed code and a valid master, once its class is known. -/
theorem execFlumePortIngress_stamps {s : State} {sail mid code addr tc : Nat} {part : Option Nat} {prefetch : Bool} {b c : Block}
    (hs : s.start = b) (hon : b.dev ≠ .off) (hactive : b.active? sail = true) (hsilent : (b.sail sail).silent = false)
    (hcode : opChannel code ≠ none) (hmid : mid % 32 < 18)
    (hclass : b.ingressClass sail code part (if prefetch then 0 else 1) = (tc, c)) :
    execFlumePortIngress sail mid code part addr prefetch s =
      .next (s.withBlk ((c.when (tc = 3) (Block.entered sail (sail * 32 + mid % 32) addr part)).emit
        (.ingress code (sail * 32 + mid % 32) part addr tc
          (match nodeSail (c.ioNode addr) with | some k => flumeRouters.getD k 2 | none => c.ioNode addr)
          (match nodeSail (c.ioNode addr) with | some k => c.linkFor k (some addr) | none => 0)))) := by
  refine onBlk_next hon ?_ hs
  refine (if_neg (by simp [hactive, hsilent])).trans ?_
  refine (if_neg (by simpa using hcode)).trans ?_
  refine (if_neg (by omega)).trans ?_
  simp only [hclass] <;> rfl

/-- The monitors of a sail count in registers of their own. -/
theorem Block.linkUp_pmu (b : Block) {n : Nat} (hn : n < 12) (ev : Nat) (part : Option Nat) (c k j : Nat) :
    (b.pmu n ev part c).linkUp k j = b.linkUp k j := by
  have hget (f : Fld) (hf : f.reg = .FLM_STATUS) : (b.pmu n ev part c).get f k = b.get f k := by
    refine Block.pmu_eq (fun d => d.get f k) b _ _ _ _ fun d i v hi => d.get_put_ne ?_ _
    rw [hf]
    simp only [Reg.addr, Reg.desc, PMU_CNT_COUNT]
    omega
  simp only [Block.linkUp, Block.isSet, hget FLM_STATUS_UP0 rfl, hget FLM_STATUS_UP1 rfl]

theorem Block.lt_of_active {b : Block} {n : Nat} (h : b.active? n = true) : n < 12 := by
  simp only [Block.active?, Bool.and_eq_true, decide_eq_true_eq] at h
  exact h.1

theorem Block.linkFor_entered (b : Block) {n : Nat} (hn : n < 12) (mid a : Nat) (part : Option Nat) (k : Nat) (addr : Option Nat) :
    (b.entered n mid a part).linkFor k addr = b.linkFor k addr := by
  have hup (i j : Nat) : (b.entered n mid a part).linkUp i j = b.linkUp i j := b.linkUp_pmu hn ..
  simp only [Block.linkFor, hup]

/-- A NAK on a link that is up (R239). -/
theorem execFlumeNak_taken {s : State} {sail link side seq cnt : Nat} {again : List Frame} {b c : Block} (hs : s.start = b) (hon : b.dev ≠ .off)
    (hup : b.linkUp sail link = true) (hside : side < 2)
    (hcnt : (if (b.lend sail link side).nakSeq = seq ∧ (b.lend sail link side).nakCnt ≠ 0 then (b.lend sail link side).nakCnt + 1 else 1) = cnt)
    (hagain : (b.lend sail link side).replay.filter (fun f => (f.seq + 1024 - seq) % 1024 < 512) = again)
    (hc : b.modLend sail link side (fun e => { e with nakSeq := seq, nakCnt := cnt, replay := again, resend := again }) = c) :
    execFlumeNak sail link side seq s =
      .next (s.withBlk (if 16 ≤ cnt then c.linkDown sail link 4
        else (if side = 0 then c.incBy FLM_REPLAY_FRAMES again.length sail link else c).noteOnce sail { code := 0x1501 })) := by
  subst hc hagain hcnt
  refine onBlk_next hon ?_ hs
  refine (if_neg (by simp [hup, hside])).trans ?_
  simp only [Block.when_decide, Bool.and_eq_true, decide_eq_true_eq]

theorem Block.linkDown_other {b x : Block} {n k cause : Nat} (hup : b.linkUp n k = true) (hx : b.putUp n k 0 = x)
    (hother : x.linkUp n (1 - k) = true) :
    b.linkDown n k cause =
      (((x.syncEnd n k 0).syncEnd n k 1).raise { code := 0x3504, detail := ofBool (decide (1333 < x.portLoad n)) }).when
        (decide (1333 < x.portLoad n)) Block.reroute := by
  subst hx
  exact (if_neg (by simp [hup])).trans (if_pos hother)

theorem Block.linkDown_last {b x : Block} {n k cause : Nat} (hup : b.linkUp n k = true) (hx : b.putUp n k 0 = x)
    (hother : x.linkUp n (1 - k) = false) :
    b.linkDown n k cause = if x.active? n then x.sailLost n 0x3505 cause else x.testLost n := by
  subst hx
  exact (if_neg (by simp [hup])).trans (if_neg (ne_true_of_eq_false hother))

/-- Settles O25: the packet, the frame and the state of the link pick the branch. -/
theorem flumeRows : Obligations.FlumeRows := by
  unfold Obligations.FlumeRows
  refine ⟨?_, ?_, ?_, ?_, ?_, ?_, ?_, ?_, ?_, ?_, ?_, ?_, ?_, ?_, ?_, ?_, ?_, ?_, ?_, ?_, ?_, ?_, ?_, ?_, ?_, ?_, ?_, ?_, ?_, ?_, ?_, ?_, ?_, ?_, ?_, ?_, ?_, ?_, ?_, ?_, ?_, ?_, ?_⟩
  -- `flumePortIngress`
  · intro s sail mid code addr part prefetch b hactive
    refine (onBlk_unchanged (fun _ => ?_) : execFlumePortIngress sail mid code part addr prefetch s = _)
    exact if_pos (by grind)
  · intro s sail mid code addr part prefetch b hon hactive hsail hopChannel
    refine (onBlk_next hon ?_ : execFlumePortIngress sail mid code part addr prefetch s = _)
    refine (if_neg (by simp [hactive, hsail])).trans ?_
    exact if_pos (by simp [hopChannel])
  · intro s sail mid code addr part prefetch b hon hactive hsail hopChannel hmid
    refine (onBlk_next hon ?_ : execFlumePortIngress sail mid code part addr prefetch s = _)
    refine (if_neg (by simp [hactive, hsail])).trans ?_
    refine (if_neg (by simp [hopChannel])).trans ?_
    exact if_pos hmid
  · intro s sail mid code addr part prefetch b m v hon hactive hsail hopChannel hmid hrequest
    refine (execFlumePortIngress_stamps (b := b) rfl hon hactive hsail hopChannel hmid (b.ingressClass_plain ?_)).trans ?_
    · rcases hrequest with h | h | h <;> simp [h]
    · cases prefetch <;> rfl
  · intro s sail mid code addr part prefetch p b m c v hon hactive hsail hopChannel hmid hrequest hprefetch hpart hdecideTc3
    subst hprefetch hpart
    exact execFlumePortIngress_stamps (b := b) rfl hon hactive hsail hopChannel hmid (Block.ingressClass_noToken hrequest hdecideTc3)
  · intro s sail mid code addr part prefetch p b m c v hon hactive hsail hopChannel hmid hrequest hprefetch hpart hdecideTc3
    subst hprefetch hpart
    have hlink (k : Nat) : ((c.pmu sail 0x0D (some p) 1).modCoh fun t =>
        { t with entered := t.entered ++ [(m, addr / 64, c.timeNs)] }).linkFor k (some addr) = c.linkFor k (some addr) :=
      c.linkFor_entered (Block.lt_of_active hactive) ..
    refine (execFlumePortIngress_stamps (b := b) rfl hon hactive hsail hopChannel hmid (Block.ingressClass_token hrequest hdecideTc3)).trans ?_
    have htime : (c.pmu sail 0x0D (some p) 1).timeNs = c.timeNs := Block.pmu_eq Block.timeNs _ _ _ _ _ fun _ _ _ _ => rfl
    simp only [htime, hlink] <;> rfl
  -- `flumeFrameCrcError`
  · intro s sail link side b hlinkUp
    refine (onBlk_unchanged (fun _ => ?_) : execFlumeFrameCrcError sail link side s = _)
    exact if_pos (by grind)
  · intro s sail link side b c d hon hlinkUp hside
    refine (onBlk_next hon ?_ : execFlumeFrameCrcError sail link side s = _)
    refine (if_neg (by simp [hlinkUp, hside])).trans ?_
    rw [Block.when_decide]
    rfl
  -- `flumeNak`
  · intro s sail link side seq b hlinkUp
    refine (onBlk_unchanged (fun _ => ?_) : execFlumeNak sail link side seq s = _)
    exact if_pos (by grind)
  · intro s sail link side seq b e cnt again c hon hlinkUp hside hcnt
    refine (execFlumeNak_taken (b := b) (c := c) rfl hon hlinkUp hside rfl rfl rfl).trans ?_
    exact congrArg (fun x => Host.Outcome.next (s.withBlk x)) (if_neg (Nat.not_le.mpr hcnt))
  · intro s sail link side seq b e cnt again c x y hon hlinkUp hside hcnt hlinkUp2 hportLoad
    refine (execFlumeNak_taken (b := b) (c := c) rfl hon hlinkUp hside rfl rfl rfl).trans (congrArg (fun x => Host.Outcome.next (s.withBlk x)) ?_)
    refine (if_pos hcnt).trans ((Block.linkDown_other (b := c) (x := x) hlinkUp rfl hlinkUp2).trans ?_)
    exact Block.when_of_not (decide_eq_false (by omega)) ..
  · intro s sail link side seq b e cnt again c x y hon hlinkUp hside hcnt hlinkUp2 hportLoad
    refine (execFlumeNak_taken (b := b) (c := c) rfl hon hlinkUp hside rfl rfl rfl).trans (congrArg (fun x => Host.Outcome.next (s.withBlk x)) ?_)
    refine (if_pos hcnt).trans ((Block.linkDown_other (b := c) (x := x) hlinkUp rfl hlinkUp2).trans ?_)
    exact Block.when_of (decide_eq_true hportLoad) ..
  · intro s sail link side seq b e cnt again c x hon hlinkUp hside hcnt hlinkUp2 hactive
    refine (execFlumeNak_taken (b := b) (c := c) rfl hon hlinkUp hside rfl rfl rfl).trans (congrArg (fun x => Host.Outcome.next (s.withBlk x)) ?_)
    exact (if_pos hcnt).trans ((Block.linkDown_last (b := c) (x := x) hlinkUp rfl hlinkUp2).trans (if_pos hactive))
  · intro s sail link side seq b e cnt again c x hon hlinkUp hside hcnt hlinkUp2 hactive hstate
    refine (execFlumeNak_taken (b := b) (c := c) rfl hon hlinkUp hside rfl rfl rfl).trans (congrArg (fun x => Host.Outcome.next (s.withBlk x)) ?_)
    exact (if_pos hcnt).trans ((Block.linkDown_last (b := c) (x := x) hlinkUp rfl hlinkUp2).trans ((if_neg (ne_true_of_eq_false hactive)).trans (if_pos hstate)))
  · intro s sail link side seq b e cnt again c x hon hlinkUp hside hcnt hlinkUp2 hactive hstate
    refine (execFlumeNak_taken (b := b) (c := c) rfl hon hlinkUp hside rfl rfl rfl).trans (congrArg (fun x => Host.Outcome.next (s.withBlk x)) ?_)
    exact (if_pos hcnt).trans ((Block.linkDown_last (b := c) (x := x) hlinkUp rfl hlinkUp2).trans ((if_neg (ne_true_of_eq_false hactive)).trans (if_neg hstate)))
  -- `flumeNakResend`
  · intro s sail link side b hon hlinkUp
    refine (onBlk_next hon ?_ : execFlumeNakResend sail link side s = _)
    exact if_pos (by simp [hlinkUp])
  · intro s sail link side b hlinkUp
    refine (onBlk_unchanged (fun _ => ?_) : execFlumeNakResend sail link side s = _)
    exact if_neg (by grind)
  -- `flumeLinkDown`
  · intro s sail link b hsail
    refine (onBlk_unchanged (b := b) (fun _ => ?_) : execFlumeLinkDown sail link s = _)
    by_cases hrange : (sail < 12 && link < 2) = true
    · refine (if_pos hrange).trans (if_pos ?_)
      rw [Bool.and_eq_true, decide_eq_true_eq, decide_eq_true_eq] at hrange
      simpa [Nat.not_le.mpr hrange.1, Nat.not_le.mpr hrange.2] using hsail
    · exact if_neg hrange
  · intro s sail link b x y hon hsail hlink hlinkUp hlinkUp2 hportLoad
    refine (onBlk_next hon ?_ : execFlumeLinkDown sail link s = _)
    refine (if_pos (by simp [hsail, hlink])).trans ?_
    refine (if_neg (by simp [hlinkUp])).trans ?_
    refine (if_pos hlinkUp2).trans ?_
    exact if_neg (by simp [hportLoad, x])
  · intro s sail link b x y hon hsail hlink hlinkUp hlinkUp2 hportLoad
    refine (onBlk_next hon ?_ : execFlumeLinkDown sail link s = _)
    refine (if_pos (by simp [hsail, hlink])).trans ?_
    refine (if_neg (by simp [hlinkUp])).trans ?_
    refine (if_pos hlinkUp2).trans ?_
    exact if_pos (by simp [hportLoad, x])
  · intro s sail link b x hon hsail hlink hlinkUp hlinkUp2 hactive
    refine (onBlk_next hon ?_ : execFlumeLinkDown sail link s = _)
    refine (if_pos (by simp [hsail, hlink])).trans ?_
    refine (if_neg (by simp [hlinkUp])).trans ?_
    refine (if_neg (by simp [hlinkUp2, x])).trans ?_
    exact if_pos hactive
  · intro s sail link b x hon hsail hlink hlinkUp hlinkUp2 hactive hstate
    refine (onBlk_next hon ?_ : execFlumeLinkDown sail link s = _)
    refine (if_pos (by simp [hsail, hlink])).trans ?_
    refine (if_neg (by simp [hlinkUp])).trans ?_
    refine (if_neg (by simp [hlinkUp2, x])).trans ?_
    refine (if_neg (by simp [hactive, x])).trans ?_
    exact if_pos hstate
  · intro s sail link b x hon hsail hlink hlinkUp hlinkUp2 hactive hstate
    refine (onBlk_next hon ?_ : execFlumeLinkDown sail link s = _)
    refine (if_pos (by simp [hsail, hlink])).trans ?_
    refine (if_neg (by simp [hlinkUp])).trans ?_
    refine (if_neg (by simp [hlinkUp2, x])).trans ?_
    refine (if_neg (by simp [hactive, x])).trans ?_
    exact if_neg hstate
  -- `linksyncFrame`
  · intro s sail link side seq b hlink
    refine (onBlk_unchanged (fun _ => ?_) : execLinksyncFrame sail link side seq s = _)
    exact if_pos (by grind)
  · intro s sail link side seq b dead d again c hon hlink
    refine (onBlk_next hon ?_ : execLinksyncFrame sail link side seq s = _)
    refine (if_neg (by simp [hlink])).trans ?_
    rw [Block.when_decide]
  -- `heartbeatFrame`
  · intro s sail link side b hlink
    refine (onBlk_unchanged (fun _ => ?_) : execHeartbeatFrame sail link side s = _)
    exact if_pos (by grind)
  · intro s sail link side b hon hlink
    refine (onBlk_next hon ?_ : execHeartbeatFrame sail link side s = _)
    exact if_neg (by simp [hlink])
  -- `heartbeatReceived`
  · intro s sail link bmiss b hon hbmiss hlinkUp
    refine (onBlk_next hon ?_ : execHeartbeatReceived sail link bmiss s = _)
    exact if_pos (by simp [hbmiss, hlinkUp])
  · intro s sail link bmiss b hbmiss
    refine (onBlk_unchanged (fun _ => ?_) : execHeartbeatReceived sail link bmiss s = _)
    exact if_neg (by grind)
  -- `heartbeatTimeout`
  · intro s sail b hon hlinkUp
    refine (onBlk_next hon ?_ : execHeartbeatTimeout sail s = _)
    exact congrArg (fun k => b.sailLost sail 0x3505 k) (if_pos (by simpa using hlinkUp))
  · intro s sail b hon hlinkUp
    refine (onBlk_next hon ?_ : execHeartbeatTimeout sail s = _)
    exact congrArg (fun k => b.sailLost sail 0x3505 k) (if_neg (by simpa using hlinkUp))
  -- `sailHubSilent`
  · intro s sail b hon hactive
    refine (onBlk_next hon ?_ : execSailHubSilent sail s = _)
    exact if_pos hactive
  · intro s sail b hactive
    refine (onBlk_unchanged (fun _ => ?_) : execSailHubSilent sail s = _)
    exact if_neg (by grind)
  -- `boundaryFrame`
  · intro s sail copy turn b hon hactive
    refine (onBlk_next hon ?_ : execBoundaryFrame sail copy turn s = _)
    exact if_neg (by simp [hactive])
  · intro s sail copy turn b hactive
    refine (onBlk_unchanged (fun _ => ?_) : execBoundaryFrame sail copy turn s = _)
    exact if_pos (by grind)
  -- `retrain0`
  · intro s sail mid b hon hmid
    refine (onBlk_next hon ?_ : execRetrain0 sail mid s = _)
    exact if_pos hmid
  · intro s sail mid b hon hmid hactive
    refine (onBlk_next hon ?_ : execRetrain0 sail mid s = _)
    refine (if_neg (by simp [hmid])).trans ?_
    exact if_neg (by simp [hactive])
  · intro s sail mid b hmid hactive
    refine (onBlk_unchanged (fun _ => ?_) : execRetrain0 sail mid s = _)
    refine (if_neg (by simp [hmid])).trans ?_
    exact if_pos (by grind)
  -- `retrain1`
  · intro s sail mid b hon hmid
    refine (onBlk_next hon ?_ : execRetrain1 sail mid s = _)
    exact if_pos hmid
  · intro s sail mid b hon hmid hactive
    refine (onBlk_next hon ?_ : execRetrain1 sail mid s = _)
    refine (if_neg (by simp [hmid])).trans ?_
    exact if_neg (by simp [hactive])
  · intro s sail mid b hmid hactive
    refine (onBlk_unchanged (fun _ => ?_) : execRetrain1 sail mid s = _)
    refine (if_neg (by simp [hmid])).trans ?_
    exact if_pos (by grind)
  -- `flumeLinkRestored`
  · intro s sail link b hon hactive
    refine (onBlk_next hon ?_ : execFlumeLinkRestored sail link s = _)
    exact if_neg (by simp [hactive])
  · intro s sail link b hactive
    refine (onBlk_unchanged (fun _ => ?_) : execFlumeLinkRestored sail link s = _)
    exact if_pos (by grind)

end Sys2Proof.Machine
end

section
/-! PROOFS. Memory controllers. -/

namespace Sys2Proof.Machine

theorem Block.recordUnfit_of_none {b : Block} {mc mr : Nat} {tj : Int} {crcOk verified : Bool} (h : SMap.get none mc b.dict.training = none) :
    b.recordUnfit mc mr tj crcOk verified = some 0 := by
  simp [Block.recordUnfit, h]

/-- How a controller is trained: from its record where that is saved and fits, else in full (R258). -/
theorem Block.train_eq (b : Block) (mc binIdx mr : Nat) (tj : Int) (crcOk verified ok : Bool) :
    b.train mc binIdx mr tj crcOk verified ok =
      if b.savedTraining = true ∧ b.recordUnfit mc mr tj crcOk verified = none then
        some ((b.put MC_STATUS_RESTORED 1 mc).put MC_CFG_BIN (((SMap.get none mc b.dict.training).map (·.bin)).getD 0) mc)
      else if ok then
        some ((if b.savedTraining then b.note { code := 0x0603, detail := (b.recordUnfit mc mr tj crcOk verified).getD 0 } else b).trainedFully
          mc binIdx mr tj)
      else none := by
  unfold Block.train
  cases hsaved : b.savedTraining with
  | false => simp
  | true =>
    cases hrec : SMap.get none mc b.dict.training with
    | none => simp [Block.recordUnfit_of_none hrec]
    | some r => cases hunfit : b.recordUnfit mc mr tj crcOk verified <;> simp

theorem Block.train_none {b n : Block} {mc binIdx mr : Nat} {tj : Int} {crcOk verified ok : Bool}
    (hunsaved : b.savedTraining = false ∨ b.recordUnfit mc mr tj crcOk verified ≠ none) (hok : ok = false) :
    b.train mc binIdx mr tj crcOk verified ok = none := by
  rw [Block.train_eq, if_neg (by rintro ⟨h, k⟩; simp [h, k] at hunsaved), hok]
  rfl

/-- The block after a training that gave a bin. -/
theorem Block.train_some {b : Block} {mc binIdx mr : Nat} {tj : Int} {crcOk verified ok : Bool}
    (h : ¬ (b.savedTraining = false ∨ b.recordUnfit mc mr tj crcOk verified ≠ none) ∨ ok = true) :
    b.train mc binIdx mr tj crcOk verified ok =
      some (if b.savedTraining = true ∧ b.recordUnfit mc mr tj crcOk verified = none then
        (b.put MC_STATUS_RESTORED 1 mc).put MC_CFG_BIN (((SMap.get none mc b.dict.training).map (·.bin)).getD 0) mc
      else (if b.savedTraining then b.note { code := 0x0603, detail := (b.recordUnfit mc mr tj crcOk verified).getD 0 } else b).trainedFully
          mc binIdx mr tj) := by
  rw [Block.train_eq]
  by_cases hfit : b.savedTraining = true ∧ b.recordUnfit mc mr tj crcOk verified = none
  · rw [if_pos hfit, if_pos hfit]
  · have hok : ok = true := h.resolve_left fun k => hfit (by simpa using k)
    rw [if_neg hfit, if_neg hfit, if_pos hok]

theorem Block.dev_initDone (l : List Nat) (b : Block) : ((b.initRegions l).forN 8 (fun c b => b.put MC_STATUS_INIT 0 c)).dev = b.dev :=
  Block.forN_eq Block.dev (f := fun c b => b.put MC_STATUS_INIT 0 c) (fun _ _ => rfl) 8 (b.initRegions l)

/-- Settles O26: the training record, the state of the controller and the regions pick the branch. -/
theorem memoryRows : Obligations.MemoryRows := by
  unfold Obligations.MemoryRows
  refine ⟨?_, ?_, ?_, ?_, ?_, ?_, ?_, ?_, ?_, ?_, ?_, ?_, ?_, ?_, ?_, ?_, ?_, ?_, ?_, ?_, ?_, ?_, ?_, ?_, ?_, ?_, ?_, ?_, ?_, ?_, ?_, ?_⟩
  -- `memoryTrainingComplete`
  · intro s mc capGiB binIdx mr tj crcOk verified ok b hmc
    refine (onBlk_unchanged (fun _ => ?_) : execMemoryTrainingComplete mc capGiB binIdx mr tj crcOk verified ok s = _)
    exact if_pos (by grind)
  · intro s mc capGiB binIdx mr tj crcOk verified ok b saved unfit n hmc hselftest htrained hsaved hok
    refine (onBlk_next (b := b) (by simp [hselftest]) ?_ : execMemoryTrainingComplete mc capGiB binIdx mr tj crcOk verified ok s = _)
    refine (if_neg (by simp [hmc, hselftest, htrained])).trans ?_
    simp only [Block.train_none (n := n) hsaved hok]
    rfl
  · intro s mc capGiB binIdx mr tj crcOk verified ok b saved unfit n t c d c0 hmc hselftest htrained hsaved hrange
    refine (onBlk_next (b := b) (by simp [hselftest]) ?_ : execMemoryTrainingComplete mc capGiB binIdx mr tj crcOk verified ok s = _)
    refine (if_neg (by simp [hmc, hselftest, htrained])).trans ?_
    simp only [Block.train_some hsaved]
    exact if_neg (ne_true_of_eq_false hrange)
  · intro s mc capGiB binIdx mr tj crcOk verified ok b saved unfit n t c d c0 hmc hselftest htrained hsaved hrange hcaps
    refine (onBlk_next (b := b) (by simp [hselftest]) ?_ : execMemoryTrainingComplete mc capGiB binIdx mr tj crcOk verified ok s = _)
    refine (if_neg (by simp [hmc, hselftest, htrained])).trans ?_
    simp only [Block.train_some hsaved]
    refine (if_pos hrange).trans (if_pos ?_)
    rw [Bool.and_eq_true, Bool.or_eq_true, Bool.or_eq_true, decide_eq_true_eq, decide_eq_true_eq, decide_eq_true_eq, or_assoc]
    exact hcaps
  · intro s mc capGiB binIdx mr tj crcOk verified ok b saved unfit n t c d c0 hmc hselftest htrained hsaved hrange hcaps
    refine (onBlk_next (b := b) (by simp [hselftest]) ?_ : execMemoryTrainingComplete mc capGiB binIdx mr tj crcOk verified ok s = _)
    refine (if_neg (by simp [hmc, hselftest, htrained])).trans ?_
    simp only [Block.train_some hsaved]
    refine (if_pos hrange).trans (if_neg ?_)
    rw [Bool.and_eq_true, Bool.or_eq_true, Bool.or_eq_true, decide_eq_true_eq, decide_eq_true_eq, decide_eq_true_eq, or_assoc]
    exact hcaps
  -- `eccSelftestComplete`
  · intro s mc pass b hmc
    refine (onBlk_unchanged (fun _ => ?_) : execEccSelftestComplete mc pass s = _)
    exact if_pos (by grind)
  · intro s mc pass b hmc hselftest hcap hpass
    refine (onBlk_next (b := b) (by simp [hselftest]) ?_ : execEccSelftestComplete mc pass s = _)
    refine (if_neg (by simp [hmc, hselftest, hcap])).trans ?_
    exact if_pos (by simp [hpass])
  · intro s mc pass b c hmc hselftest hcap hpass hrange
    refine (onBlk_next (b := b) (by simp [hselftest]) ?_ : execEccSelftestComplete mc pass s = _)
    refine (if_neg (by simp [hmc, hselftest, hcap])).trans ?_
    refine (if_neg (by simp [hpass])).trans ?_
    exact if_pos hrange
  · intro s mc pass b c hmc hselftest hcap hpass hrange
    refine (onBlk_next (b := b) (by simp [hselftest]) ?_ : execEccSelftestComplete mc pass s = _)
    refine (if_neg (by simp [hmc, hselftest, hcap])).trans ?_
    refine (if_neg (by simp [hpass])).trans ?_
    exact if_neg (by simp [hrange, c])
  -- `layoutInitComplete`
  · intro s b hrange
    refine (onBlk_unchanged (fun _ => ?_) : execLayoutInitComplete s = _)
    exact if_pos hrange
  · intro s b c d hrange hdev
    have hd : d.dev = c.dev := by dsimp only [d]
    have hon : b.dev ≠ .off := fun h => absurd (hdev.1.symm.trans ((hd.trans (b.dev_initDone b.ms.initPending)).trans h)) (by decide)
    refine (onBlk_next hon ?_ : execLayoutInitComplete s = _)
    refine (if_neg (ne_true_of_eq_false hrange)).trans ?_
    exact if_pos (Bool.and_eq_true_iff.mpr ⟨decide_eq_true hdev.1, decide_eq_true hdev.2⟩)
  · intro s b c d hrange hdev
    have hd : d.dev = c.dev := by dsimp only [d]
    have hon : b.dev ≠ .off := fun h => absurd (hdev.1.symm.trans ((hd.trans (b.dev_initDone b.ms.initPending)).trans h)) (by decide)
    have hwait : ¬ (d.dev = .configWait && d.commit.state = 3) = true := by rw [hdev.1]; exact Bool.false_ne_true
    have hresume : (d.dev = .service && d.gov.resuming) = true := Bool.and_eq_true_iff.mpr ⟨decide_eq_true hdev.1, hdev.2⟩
    refine (onBlk_next hon ?_ : execLayoutInitComplete s = _)
    refine (if_neg (ne_true_of_eq_false hrange)).trans ?_
    refine (if_neg hwait).trans ?_
    exact if_pos hresume
  · intro s b c d hon hrange hdev hdev2
    have hwait : ¬ (d.dev = .configWait && d.commit.state = 3) = true := by rwa [Bool.and_eq_true, decide_eq_true_eq, decide_eq_true_eq]
    have hresume : ¬ (d.dev = .service && d.gov.resuming) = true := by rwa [Bool.and_eq_true, decide_eq_true_eq]
    refine (onBlk_next hon ?_ : execLayoutInitComplete s = _)
    refine (if_neg (ne_true_of_eq_false hrange)).trans ?_
    refine (if_neg hwait).trans ?_
    exact if_neg hresume
  -- `mr4Read`
  · intro s mc above b hmc
    refine (onBlk_unchanged (fun _ => ?_) : execMr4Read mc above s = _)
    exact if_pos hmc
  · intro s mc above b hon hmc habove
    refine (onBlk_next hon ?_ : execMr4Read mc above s = _)
    refine (if_neg (by simp [hmc])).trans ?_
    exact if_neg (by grind)
  · intro s mc above b hon hmc habove hhot
    subst habove
    refine (onBlk_next hon ?_ : execMr4Read mc true s = _)
    refine (if_neg (by omega)).trans ?_
    exact if_pos (by simp [hhot])
  -- `ownerChangeComplete`
  · intro s region b hms
    refine (onBlk_unchanged (fun _ => ?_) : execOwnerChangeComplete region s = _)
    exact if_pos (by grind)
  · intro s region b hon hms hcleanOpen
    refine (onBlk_next hon ?_ : execOwnerChangeComplete region s = _)
    exact if_neg (by grind)
  -- `mcRead`
  · intro s mid part pa e m tc3 b hdramOk
    refine (onBlk_unchanged (fun _ => ?_) : execMcRead mid part pa e m tc3 s = _)
    exact if_pos (by grind)
  · intro s mid part pa e m tc3 b c r hon hdramOk
    refine (onBlk_next hon ?_ : execMcRead mid part pa e m tc3 s = _)
    exact if_neg (by simp [hdramOk])
  -- `mcWrite`
  · intro s mid part pa data mask poison tc3 b hdramOk
    refine (onBlk_unchanged (fun _ => ?_) : execMcWrite mid part pa data mask poison tc3 s = _)
    exact if_pos (by grind)
  · intro s mid part pa data mask poison tc3 b a c hon hdramOk hmask
    refine (onBlk_next hon ?_ : execMcWrite mid part pa data mask poison tc3 s = _)
    refine (if_neg (by simp [hdramOk])).trans ?_
    exact if_pos hmask
  · intro s mid part pa data mask poison tc3 b a c r d hon hdramOk hmask
    refine (onBlk_next hon ?_ : execMcWrite mid part pa data mask poison tc3 s = _)
    refine (if_neg (by simp [hdramOk])).trans ?_
    exact if_neg hmask
  -- `mergeFlush`
  · intro s mc b hfind
    refine (onBlk_unchanged (b := b) (fun _ => ?_) : execMergeFlush mc s = _)
    simp only [Block.mergeFlush, hfind]
  · intro s mc e b c loc d hon hfind
    refine (onBlk_next hon ?_ : execMergeFlush mc s = _)
    simp only [Block.mergeFlush, hfind, Bool.or_eq_true, decide_eq_true_eq]
    rfl
  -- `dresserRead`
  · intro s mc e m b hmc
    refine (onBlk_unchanged (fun _ => ?_) : execDresserRead mc e m s = _)
    exact if_pos (by grind)
  · intro s mc e m b hon hmc hnextDress hdressable
    refine (onBlk_next hon ?_ : execDresserRead mc e m s = _)
    refine (if_neg (by grind)).trans ?_
    simp [hnextDress, hdressable]
  · intro s mc e m x b d f hon hmc hnextDress
    refine (onBlk_next hon ?_ : execDresserRead mc e m s = _)
    refine (if_neg (by grind)).trans ?_
    simp [hnextDress, d, f]
  · intro s mc e m x b pass c d f hon hmc hnextDress hdressable hnextDress2
    refine (onBlk_next hon ?_ : execDresserRead mc e m s = _)
    refine (if_neg (by grind)).trans ?_
    simp_all [pass, c, d, f]
  · intro s mc e m b pass c hon hmc hnextDress hdressable hnextDress2
    refine (onBlk_next hon ?_ : execDresserRead mc e m s = _)
    refine (if_neg (by grind)).trans ?_
    simp_all [pass, c]
  -- `scrubRequest`
  · intro s mc line b hdressable
    refine (onBlk_unchanged (fun _ => ?_) : execScrubRequest mc line s = _)
    grind
  · intro s mc line e b hon hdressable
    refine (onBlk_next hon ?_ : execScrubRequest mc line s = _)
    simp only [hdressable]

end Sys2Proof.Machine
end

section
/-! PROOFS. Sessions, lockouts and authenticated debug. -/

namespace Sys2Proof.Machine

/-- Settles O40: the session, the lockout, the right and the operand of a command pick its branch. -/
theorem trustAndDebug : Obligations.TrustAndDebug := by
  unfold Obligations.TrustAndDebug
  refine ⟨?_, ?_, ?_, ?_, ?_, ?_, ?_, ?_, ?_, ?_, ?_, ?_, ?_, ?_, ?_, ?_, ?_, ?_, ?_, ?_, ?_, ?_, ?_, ?_, ?_, ?_, ?_, ?_, ?_, ?_, ?_, ?_, ?_, ?_, ?_, ?_, ?_, ?_, ?_, ?_⟩
  -- `sessionTimeout`
  · intro s path src b htrust
    refine (onBlk_unchanged (fun _ => ?_) : execSessionTimeout path src s = _)
    exact if_pos (by grind)
  · intro s path src b c hon htrust hdev
    refine (onBlk_next hon ?_ : execSessionTimeout path src s = _)
    refine (if_neg (by grind)).trans ?_
    exact if_neg (by grind)
  · intro s path src b c hon htrust hdev
    refine (onBlk_next hon ?_ : execSessionTimeout path src s = _)
    refine (if_neg (by grind)).trans ?_
    exact if_pos (by grind)
  -- `challengeExpiry`
  · intro s path src b hon
    refine (onBlk_next hon ?_ : execChallengeExpiry path src s = _)
    rfl
  -- `authLockoutExpiry`
  · intro s iface b hon
    refine (onBlk_next hon ?_ : execAuthLockoutExpiry iface s = _)
    rfl
  -- `dbgStart`
  · intro s b r hon hgov
    refine (onBlk_next hon ?_ : execDbgStart s = _)
    refine (if_neg (by simp [hgov])).trans ?_
    exact if_neg (by simp [hgov])
  · intro s b hgov
    refine (onBlk_unchanged (b := b) (fun _ => ?_) : execDbgStart s = _)
    by_cases hhalt : b.govHalted = true
    · exact if_pos hhalt
    · refine (if_neg hhalt).trans (if_pos ?_)
      simpa [hhalt] using hgov
  -- `dbgRespWrite`
  · intro s value b hon
    refine (onBlk_next hon ?_ : execDbgRespWrite value s = _)
    rfl
  -- `dbgSubmit`
  · intro s b hgov
    refine (onBlk_unchanged (b := b) (fun _ => ?_) : execDbgSubmit s = _)
    by_cases hhalt : b.govHalted = true
    · exact if_pos hhalt
    · refine (if_neg hhalt).trans (if_pos ?_)
      simpa [hhalt] using hgov
  · intro s b t n good c hon hgov hgood
    refine (onBlk_next hon ?_ : execDbgSubmit s = _)
    refine (if_neg (by simp [hgov])).trans ?_
    refine (if_neg (by simp [hgov])).trans ?_
    exact if_pos (by grind)
  · intro s b t n good c hon hgov hgood
    refine (onBlk_next hon ?_ : execDbgSubmit s = _)
    refine (if_neg (by simp [hgov])).trans ?_
    refine (if_neg (by simp [hgov])).trans ?_
    exact if_neg (by grind)
  -- `dbgEnd`
  · intro s b hon htrust
    refine (onBlk_next hon ?_ : execDbgEnd s = _)
    exact if_neg (by simp [htrust])
  · intro s b htrust
    refine (onBlk_unchanged (fun _ => ?_) : execDbgEnd s = _)
    exact if_pos (by grind)
  -- `haltRequest`
  · intro s sail core b h hon hdbgHarts
    refine (onBlk_next hon ?_ : execHaltRequest sail core s = _)
    exact if_neg (by simp [hdbgHarts, h])
  · intro s sail core b h hdbgHarts
    refine (onBlk_unchanged (fun _ => ?_) : execHaltRequest sail core s = _)
    exact if_pos (by grind)
  -- `abstractCommand`
  · intro s sail core n w run b h hon hdbgHarts
    refine (onBlk_next hon ?_ : execAbstractCommand sail core (.reg n w run) s = _)
    exact if_pos (by simp [hdbgHarts])
  · intro s sail core n w run b h hon hdbgHarts hhart
    refine (onBlk_next hon ?_ : execAbstractCommand sail core (.reg n w run) s = _)
    refine (if_neg (by simp [hdbgHarts])).trans ?_
    exact if_pos (by simp [hhart, h])
  · intro s sail core n w run b h hon hdbgHarts hhart hx1040
    refine (onBlk_next hon ?_ : execAbstractCommand sail core (.reg n w run) s = _)
    refine (if_neg (by simp [hdbgHarts])).trans ?_
    refine (if_neg (by simp [hhart, h])).trans ?_
    exact if_pos hx1040
  · intro s sail core n w run b h v q hon hdbgHarts hhart hx1040 hcond hrun
    refine (onBlk_next hon ?_ : execAbstractCommand sail core (.reg n w run) s = _)
    refine (if_neg (by simp [hdbgHarts])).trans ?_
    refine (if_neg (by simp [hhart, h])).trans ?_
    refine (if_neg (by simp [hx1040])).trans ?_
    simp only [hcond]
    exact if_pos (by simp [hrun])
  · intro s sail core n w run b h v q p hon hdbgHarts hhart hx1040 hcond hrun hcond2
    refine (onBlk_next hon ?_ : execAbstractCommand sail core (.reg n w run) s = _)
    refine (if_neg (by simp [hdbgHarts])).trans ?_
    refine (if_neg (by simp [hhart, h])).trans ?_
    refine (if_neg (by simp [hx1040])).trans ?_
    simp only [hcond]
    refine (if_neg (by simp [hrun])).trans ?_
    grind
  · intro s sail core n w run b h v q p hon hdbgHarts hhart hx1040 hcond hrun hcond2
    refine (onBlk_next hon ?_ : execAbstractCommand sail core (.reg n w run) s = _)
    refine (if_neg (by simp [hdbgHarts])).trans ?_
    refine (if_neg (by simp [hhart, h])).trans ?_
    refine (if_neg (by simp [hx1040])).trans ?_
    simp only [hcond]
    refine (if_neg (by simp [hrun])).trans ?_
    grind
  · intro s sail core n w run v b h q hon hdbgHarts hhart hx1040 hcond hrun
    refine (onBlk_next hon ?_ : execAbstractCommand sail core (.reg n w run) s = _)
    refine (if_neg (by simp [hdbgHarts])).trans ?_
    refine (if_neg (by simp [hhart, h])).trans ?_
    refine (if_neg (by simp [hx1040])).trans ?_
    simp only [hcond]
    exact if_pos (by simp [hrun])
  · intro s sail core n w run v b h q p hon hdbgHarts hhart hx1040 hcond hrun hcond2
    refine (onBlk_next hon ?_ : execAbstractCommand sail core (.reg n w run) s = _)
    refine (if_neg (by simp [hdbgHarts])).trans ?_
    refine (if_neg (by simp [hhart, h])).trans ?_
    refine (if_neg (by simp [hx1040])).trans ?_
    simp only [hcond]
    refine (if_neg (by simp [hrun])).trans ?_
    grind
  · intro s sail core n w run v b h q p hon hdbgHarts hhart hx1040 hcond hrun hcond2
    refine (onBlk_next hon ?_ : execAbstractCommand sail core (.reg n w run) s = _)
    refine (if_neg (by simp [hdbgHarts])).trans ?_
    refine (if_neg (by simp [hhart, h])).trans ?_
    refine (if_neg (by simp [hx1040])).trans ?_
    simp only [hcond]
    refine (if_neg (by simp [hrun])).trans ?_
    grind
  · intro s sail core pa width w b hon hscope
    refine (onBlk_next hon ?_ : execAbstractCommand sail core (.mem pa width w) s = _)
    exact if_pos (by simp [hscope])
  · intro s sail core pa width w b hon hscope hwidth
    refine (onBlk_next hon ?_ : execAbstractCommand sail core (.mem pa width w) s = _)
    refine (if_neg (by simp [hscope])).trans ?_
    exact if_pos (by grind)
  · intro s sail core pa width w b hon hscope hwidth hdecodePa hsailServes
    refine (onBlk_next hon ?_ : execAbstractCommand sail core (.mem pa width w) s = _)
    refine (if_neg (by simp [hscope])).trans ?_
    refine (if_neg (by grind)).trans ?_
    refine (if_pos hdecodePa).trans ?_
    exact if_pos (by simp [hsailServes])
  · intro s sail core pa width w v b hon hscope hwidth hdecodePa hsailServes hcond
    refine (onBlk_next hon ?_ : execAbstractCommand sail core (.mem pa width w) s = _)
    refine (if_neg (by simp [hscope])).trans ?_
    refine (if_neg (by grind)).trans ?_
    refine (if_pos hdecodePa).trans ?_
    refine (if_neg (by simp [hsailServes])).trans ?_
    simp only [hcond]
  · intro s sail core pa width w b hon hscope hwidth hdecodePa hsailServes hcond hscrRead
    refine (onBlk_next hon ?_ : execAbstractCommand sail core (.mem pa width w) s = _)
    refine (if_neg (by simp [hscope])).trans ?_
    refine (if_neg (by grind)).trans ?_
    refine (if_pos hdecodePa).trans ?_
    refine (if_neg (by simp [hsailServes])).trans ?_
    simp only [hcond]
    exact if_pos (by simp [hscrRead])
  · intro s sail core pa width w b x hon hscope hwidth hdecodePa hsailServes hcond hscrRead
    refine (onBlk_next hon ?_ : execAbstractCommand sail core (.mem pa width w) s = _)
    refine (if_neg (by simp [hscope])).trans ?_
    refine (if_neg (by grind)).trans ?_
    refine (if_pos hdecodePa).trans ?_
    refine (if_neg (by simp [hsailServes])).trans ?_
    simp only [hcond]
    exact if_neg (by simp [hscrRead])
  · intro s sail core pa width w b hon hscope hwidth hdecodePa hdramOk
    refine (onBlk_next hon ?_ : execAbstractCommand sail core (.mem pa width w) s = _)
    refine (if_neg (by simp [hscope])).trans ?_
    refine (if_neg (by grind)).trans ?_
    refine (if_neg hdecodePa).trans ?_
    exact if_pos (by simp [hdramOk])
  · intro s sail core pa width w v b hon hscope hwidth hdecodePa hdramOk hcond
    refine (onBlk_next hon ?_ : execAbstractCommand sail core (.mem pa width w) s = _)
    refine (if_neg (by simp [hscope])).trans ?_
    refine (if_neg (by grind)).trans ?_
    refine (if_neg hdecodePa).trans ?_
    refine (if_neg (by simp [hdramOk])).trans ?_
    simp only [hcond]
  · intro s sail core pa width w b r hon hscope hwidth hdecodePa hdramOk hcond hcond2
    refine (onBlk_next hon ?_ : execAbstractCommand sail core (.mem pa width w) s = _)
    refine (if_neg (by simp [hscope])).trans ?_
    refine (if_neg (by grind)).trans ?_
    refine (if_neg hdecodePa).trans ?_
    refine (if_neg (by simp [hdramOk])).trans ?_
    simp only [hcond]
    exact if_pos hcond2
  · intro s sail core pa width w b r hon hscope hwidth hdecodePa hdramOk hcond hcond2
    refine (onBlk_next hon ?_ : execAbstractCommand sail core (.mem pa width w) s = _)
    refine (if_neg (by simp [hscope])).trans ?_
    refine (if_neg (by grind)).trans ?_
    refine (if_neg hdecodePa).trans ?_
    refine (if_neg (by simp [hdramOk])).trans ?_
    simp only [hcond]
    exact if_neg (by simp [hcond2, r])
  · intro s sail core i v b hon hdbgHarts
    refine (onBlk_next hon ?_ : execAbstractCommand sail core (.progbuf i v) s = _)
    exact if_pos (by simp [hdbgHarts])
  · intro s sail core i v b hon hdbgHarts hcond
    refine (onBlk_next hon ?_ : execAbstractCommand sail core (.progbuf i v) s = _)
    refine (if_neg (by simp [hdbgHarts])).trans ?_
    exact if_pos hcond
  · intro s sail core i v b hon hdbgHarts hcond
    refine (onBlk_next hon ?_ : execAbstractCommand sail core (.progbuf i v) s = _)
    refine (if_neg (by simp [hdbgHarts])).trans ?_
    exact if_neg (by simp [hcond])
  · intro s sail core i d1 d2 b hon hdbgHarts
    refine (onBlk_next hon ?_ : execAbstractCommand sail core (.trigger i d1 d2) s = _)
    exact if_pos (by simp [hdbgHarts])
  · intro s sail core i d1 d2 b hon hdbgHarts hcond
    refine (onBlk_next hon ?_ : execAbstractCommand sail core (.trigger i d1 d2) s = _)
    refine (if_neg (by simp [hdbgHarts])).trans ?_
    exact if_pos hcond
  · intro s sail core i d1 d2 b hon hdbgHarts hcond
    refine (onBlk_next hon ?_ : execAbstractCommand sail core (.trigger i d1 d2) s = _)
    refine (if_neg (by simp [hdbgHarts])).trans ?_
    exact if_neg (by simp [hcond])

end Sys2Proof.Machine
end

section
/-! PROOFS. The dictionary and CANopen. -/

namespace Sys2Proof.Machine

/-- A ninth unfinished write of a port (R448). -/
theorem Block.usdoWrite_refused {b : Block} {port client idx sub off : Nat} {last : Bool} {x : Bytes}
    (h : b.dict.usdo.contains (port, client) = false ∧ last = false ∧ 8 ≤ (b.dict.usdo.filter fun e => e.1 = port).length) :
    b.usdoWrite port client idx sub off last x = (0x08000022, b) := by
  obtain ⟨hnew, hlast, hfull⟩ := h
  exact if_pos (by simp only [hnew, hlast, hfull, Bool.not_false, decide_true, Bool.and_self])

theorem Block.usdoWrite_taken {b : Block} {port client idx sub off : Nat} {last : Bool} {x : Bytes}
    (h : ¬ (b.dict.usdo.contains (port, client) = false ∧ last = false ∧ 8 ≤ (b.dict.usdo.filter fun e => e.1 = port).length)) :
    b.usdoWrite port client idx sub off last x =
      let r := b.segWrite { path := port + 1, src := client } idx sub off last x
      let c := r.2.dropUsdo port client
      if r.1 = 0 && !last then (0, { c with dict := { c.dict with usdo := c.dict.usdo ++ [(port, client)] } }) else (r.1, c) :=
  if_neg (by simpa [and_assoc] using h)

/-- Settles O37: the path, the port and the session that a request meets pick the branch. -/
theorem dictionaryRows : Obligations.DictionaryRows := by
  unfold Obligations.DictionaryRows
  refine ⟨?_, ?_, ?_, ?_, ?_, ?_, ?_, ?_, ?_, ?_, ?_, ?_, ?_, ?_, ?_, ?_, ?_, ?_, ?_, ?_, ?_, ?_, ?_, ?_, ?_, ?_⟩
  -- `dictionaryWindowGo`
  · intro s b hep
    refine (onBlk_unchanged (fun _ => ?_) : execDictionaryWindowGo s = _)
    exact if_neg (by grind)
  · intro s b hon hep hpci
    refine (onBlk_next hon ?_ : execDictionaryWindowGo s = _)
    refine (if_pos hep).trans ?_
    exact if_pos hpci
  · intro s b buf msg c q hon hep hpci hcond
    refine (onBlk_next hon ?_ : execDictionaryWindowGo s = _)
    refine (if_pos hep).trans ?_
    refine (if_neg (by simp [hpci])).trans ?_
    grind
  · intro s m a x b buf msg c q hon hep hpci hcond
    refine (onBlk_next hon ?_ : execDictionaryWindowGo s = _)
    refine (if_pos hep).trans ?_
    refine (if_neg (by simp [hpci])).trans ?_
    grind
  -- `dictionaryRead`
  · intro s via port stream msg stalled b k m0 c q hgov
    refine (onBlk_unchanged (fun _ => ?_) : execDictionaryRead via port stream msg stalled s = _)
    exact if_pos (by grind)
  · intro s via port stream msg stalled b k m0 c q hon hgov hcond
    refine (onBlk_next hon ?_ : execDictionaryRead via port stream msg stalled s = _)
    refine (if_neg (by simp [hgov, k])).trans ?_
    grind
  · intro s via port stream msg stalled m a x b k m0 c q hon hgov hcond
    refine (onBlk_next hon ?_ : execDictionaryRead via port stream msg stalled s = _)
    refine (if_neg (by simp [hgov, k])).trans ?_
    grind
  · intro s via port stream msg stalled m a x b k m0 c q hon hgov hcond
    refine (onBlk_next hon ?_ : execDictionaryRead via port stream msg stalled s = _)
    refine (if_neg (by simp [hgov, k])).trans ?_
    grind
  -- `dictionaryWrite`
  · intro s via port stream msg b k m0 c q hgov
    refine (onBlk_unchanged (fun _ => ?_) : execDictionaryWrite via port stream msg s = _)
    exact if_pos (by grind)
  · intro s via port stream msg b k m0 c q hon hgov hcond
    refine (onBlk_next hon ?_ : execDictionaryWrite via port stream msg s = _)
    refine (if_neg (by simp [hgov, k])).trans ?_
    grind
  · intro s via port stream msg m a x b k m0 c q hon hgov hcond
    refine (onBlk_next hon ?_ : execDictionaryWrite via port stream msg s = _)
    refine (if_neg (by simp [hgov, k])).trans ?_
    grind
  · intro s via port stream msg m a x b k m0 c q hon hgov hcond
    refine (onBlk_next hon ?_ : execDictionaryWrite via port stream msg s = _)
    refine (if_neg (by simp [hgov, k])).trans ?_
    grind
  -- `usdoRequest`
  · intro s port client req stalled b hportOn
    refine (onBlk_unchanged (fun _ => ?_) : execUsdoRequest port client req stalled s = _)
    exact if_pos (by grind)
  · intro s port client idx sub stalled b v hportOn hgranted
    refine (onBlk_unchanged (b := b) (fun _ => ?_) : execUsdoRequest port client (.read idx sub) stalled s = _)
    refine (if_neg (by simp [hportOn])).trans ?_
    exact Block.serve_silent hgranted
  · intro s port client idx sub stalled b v r hon hportOn hgranted
    refine (onBlk_next hon ?_ : execUsdoRequest port client (.read idx sub) stalled s = _)
    refine (if_neg (by simp [hportOn])).trans ?_
    exact Block.serve_allowed hgranted rfl
  · intro s port client idx sub off last stalled x b v hportOn hgranted
    refine (onBlk_unchanged (b := b) (fun _ => ?_) : execUsdoRequest port client (.write idx sub off last x) stalled s = _)
    refine (if_neg (by simp [hportOn])).trans ?_
    exact Block.serve_silent hgranted
  · intro s port client idx sub off last stalled x b v hon hportOn hgranted
    refine (onBlk_next hon ?_ : execUsdoRequest port client (.write idx sub off last x) stalled s = _)
    refine (if_neg (by simp [hportOn])).trans ?_
    exact Block.serve_refused hgranted
  · intro s port client idx sub off last stalled x b v hon hportOn hgranted hcontains
    refine (onBlk_next hon ?_ : execUsdoRequest port client (.write idx sub off last x) stalled s = _)
    refine (if_neg (by simp [hportOn])).trans ?_
    exact Block.serve_written hgranted (Block.usdoWrite_refused hcontains)
  · intro s port client idx sub off last stalled x b v r c hon hportOn hgranted hcontains hcond hlast
    refine (onBlk_next hon ?_ : execUsdoRequest port client (.write idx sub off last x) stalled s = _)
    refine (if_neg (by simp [hportOn])).trans ?_
    exact Block.serve_written hgranted ((Block.usdoWrite_taken hcontains).trans (if_pos (by rw [hcond, hlast]; rfl)))
  · intro s port client idx sub off last stalled x b v r c hon hportOn hgranted hcontains hlast
    refine (onBlk_next hon ?_ : execUsdoRequest port client (.write idx sub off last x) stalled s = _)
    refine (if_neg (by simp [hportOn])).trans ?_
    have hover : ¬ (r.1 = 0 && !last) = true := by rcases hlast with h | h <;> simp [h]
    exact Block.serve_written hgranted ((Block.usdoWrite_taken hcontains).trans (if_neg hover))
  -- `usdoSessionTimeout`
  · intro s port client b hon hgov
    refine (onBlk_next hon ?_ : execUsdoSessionTimeout port client s = _)
    exact if_neg (by grind)
  · intro s port client b hgov
    refine (onBlk_unchanged (fun _ => ?_) : execUsdoSessionTimeout port client s = _)
    exact if_pos (by grind)
  -- `nmtCommand`
  · intro s b hon hserving
    refine (onBlk_next hon ?_ : execNmtCommand s = _)
    exact if_pos hserving
  · intro s b hserving
    refine (onBlk_unchanged (fun _ => ?_) : execNmtCommand s = _)
    exact if_neg (by grind)
  -- `canopenHeartbeat`
  · intro s port b hon hportOn
    refine (onBlk_next hon ?_ : execCanopenHeartbeat port s = _)
    exact if_pos (by simp [hportOn])
  · intro s port b hportOn
    refine (onBlk_unchanged (fun _ => ?_) : execCanopenHeartbeat port s = _)
    exact if_neg (by grind)

end Sys2Proof.Machine
end

section
/-! PROOFS. Checks, switches and persists of a commit. -/

namespace Sys2Proof.Machine

/-- The answer of a partition restart is the code that it gives. -/
theorem execPartitionRestartRequest_answers {s : State} {p a : Nat} {b c : Block} (hs : s.start = b) (hon : b.dev ≠ .off)
    (h : b.partRestart p = (a, c)) : execPartitionRestartRequest p s = .next (s.withBlk (c.answer a)) :=
  onBlk_next hon (by rw [h]) hs
section
variable {b : Block} {x : Nat × Bool}

theorem Block.switchWait_refused (h : b.staging.refusal (if b.layoutDiffers b.staging = true then [] else b.staging.fParts) = some x) :
    b.switchWait = (b.defaultsFor b.dict.staged).refuseLoad x := by
  unfold Block.switchWait
  dsimp only
  rw [h]

/-- A switch in CONFIG_WAIT that is loaded at once, unless the layout has to be initialised. -/
theorem Block.switchWait_loads (h : b.staging.refusal (if b.layoutDiffers b.staging = true then [] else b.staging.fParts) = none) :
    b.switchWait =
      let c := (((b.putActive b.dict.staged).lockBinds).modTu (fun u => { u with loadNext := true })).forL
        ((List.range 64).filter fun p => b.fMode p ≠ 0) Block.removePart |>.switched
      if b.layoutDiffers b.staging || c.dev ≠ .configWait then c else c.finishLoad := by
  unfold Block.switchWait
  dsimp only
  rw [h]

theorem Block.switchBoundary_refused (h : b.staging.refusal (Block.toLoad false b b.staging) = some x) :
    b.switchBoundary = if b.dev = .ready then ((b.defaultsFor b.dict.staged).refuseLoad x).setDev .configWait else b.refuseLoad x := by
  unfold Block.switchBoundary
  dsimp only
  rw [h]

theorem Block.switchBoundary_loads (h : b.staging.refusal (Block.toLoad false b b.staging) = none) :
    b.switchBoundary =
      (Block.loadAll false b ((((b.putActive b.dict.staged).lockBinds).regsBoundary).modTu (fun u => { u with imgNow := true }))).switched := by
  unfold Block.switchBoundary
  dsimp only
  rw [h]

end

/-- Settles O39: the state of the commit, of the device and of the partition pick the branch. -/
theorem commitRows : Obligations.CommitRows := by
  unfold Obligations.CommitRows
  refine ⟨?_, ?_, ?_, ?_, ?_, ?_, ?_, ?_, ?_, ?_, ?_, ?_, ?_, ?_, ?_, ?_, ?_, ?_, ?_, ?_, ?_⟩
  -- `commitChecksComplete`
  · intro s b hcommit
    refine (onBlk_unchanged (fun _ => ?_) : execCommitChecksComplete s = _)
    exact if_pos hcommit
  · intro s b c diff hon hcommit
    refine (onBlk_next hon ?_ : execCommitChecksComplete s = _)
    exact if_neg (by simp [hcommit])
  -- `imageSwitch`
  · intro s b hcommit
    refine (onBlk_unchanged (fun _ => ?_) : execImageSwitch s = _)
    grind
  · intro s b t init c d hon hstate hconfigWait
    refine (onBlk_next hon ?_ : execImageSwitch s = _)
    refine (if_neg (by simp [hstate])).trans ?_
    simp only [hconfigWait]
    cases hload : t.refusal (if init = true then [] else t.fParts) with
    | some x => exact Block.switchWait_refused hload
    | none => exact (Block.switchWait_loads hload).trans (by simp only [Bool.or_eq_true, decide_eq_true_eq] <;> rfl)
  · intro s b t c hon hstate hphaseA hready
    refine (onBlk_next hon ?_ : execImageSwitch s = _)
    refine (if_neg (by simp [hstate])).trans ?_
    simp only [hready]
    refine (if_pos (by simp [hphaseA])).trans ?_
    cases hload : t.refusal (Block.toLoad false b t) with
    | some x => exact (Block.switchBoundary_refused hload).trans (if_pos hready)
    | none => exact Block.switchBoundary_loads hload
  · intro s b t c hon hstate hphaseA hdev
    refine (onBlk_next hon ?_ : execImageSwitch s = _)
    refine (if_neg (by simp [hstate])).trans ?_
    have hswitch : (match b.dev with
        | .configWait => b.switchWait
        | .ready => if b.tu.phaseA = 0 && b.running then b.switchBoundary else b
        | .run => if b.tu.phaseA = 0 && b.running && b.switchDue then b.switchBoundary else b
        | .degraded => if b.tu.phaseA = 0 && b.running && b.switchDue then b.switchBoundary else b
        | _ => b) = b.switchBoundary := by
      rcases hdev with ⟨h | h, hdue⟩ <;> simp [h, hdue, hphaseA]
    refine Eq.trans hswitch ?_
    cases hload : t.refusal (Block.toLoad false b t) with
    | some x => exact (Block.switchBoundary_refused hload).trans (if_neg (by rcases hdev with ⟨h | h, hdue⟩ <;> simp [h]))
    | none => exact Block.switchBoundary_loads hload
  -- `stagerTimeout`
  · intro s b hon hcommit
    refine (onBlk_next hon ?_ : execStagerTimeout s = _)
    exact if_neg (by simp [hcommit])
  · intro s b hcommit
    refine (onBlk_unchanged (fun _ => ?_) : execStagerTimeout s = _)
    exact if_pos (by grind)
  -- `persistComplete`
  · intro s ok b hdict
    refine (onBlk_unchanged (fun _ => ?_) : execPersistComplete ok s = _)
    grind
  · intro s ok k m b seq c hon hdict hok hcommit
    refine (onBlk_next hon ?_ : execPersistComplete ok s = _)
    simp only [hdict]
    refine (if_neg (by simp [hok, hcommit])).trans ?_
    exact if_pos hok
  · intro s ok k m b seq c hon hdict hok hcommit
    refine (onBlk_next hon ?_ : execPersistComplete ok s = _)
    simp only [hdict]
    refine (if_pos (by simp [hok, hcommit])).trans ?_
    grind
  · intro s ok k m b c hon hdict hok hcommit
    refine (onBlk_next hon ?_ : execPersistComplete ok s = _)
    simp only [hdict]
    refine (if_neg (by simp [hok, hcommit])).trans ?_
    exact if_neg (by simp [hok])
  · intro s ok k m b c hon hdict hok hcommit
    refine (onBlk_next hon ?_ : execPersistComplete ok s = _)
    simp only [hdict]
    refine (if_pos (by simp [hok, hcommit])).trans ?_
    simp [hok, c]
  -- `imageMemoryError`
  · intro s staged correctable b hon hcorrectable
    refine (onBlk_next hon ?_ : execImageMemoryError staged correctable s = _)
    exact if_pos hcorrectable
  · intro s staged correctable b c hon hcorrectable hstaged
    refine (onBlk_next hon ?_ : execImageMemoryError staged correctable s = _)
    refine (if_neg (by simp [hcorrectable])).trans ?_
    exact if_pos hstaged
  · intro s staged correctable b hon hcorrectable hstaged
    refine (onBlk_next hon ?_ : execImageMemoryError staged correctable s = _)
    refine (if_neg (by simp [hcorrectable])).trans ?_
    exact if_neg (by simp [hstaged])
  -- `partitionRestartRequest`
  · intro s p b hon hcond
    exact execPartitionRestartRequest_answers (b := b) rfl hon (if_pos hcond)
  · intro s p b hon hcond hpartDefined
    refine execPartitionRestartRequest_answers (b := b) rfl hon ((if_neg (by omega)).trans ?_)
    exact if_pos (by grind [pHalted])
  · intro s p b hon hcond hpartDefined hpartPlaceOk
    refine execPartitionRestartRequest_answers (b := b) rfl hon ((if_neg (by omega)).trans ?_)
    refine (if_neg (by simp [hpartDefined, pHalted])).trans ?_
    exact if_pos (by simp [hpartPlaceOk])
  · intro s p b hon hcond hpartDefined hpartPlaceOk hdigestOk
    refine execPartitionRestartRequest_answers (b := b) rfl hon ((if_neg (by omega)).trans ?_)
    refine (if_neg (by simp [hpartDefined, pHalted])).trans ?_
    refine (if_neg (by simp [hpartPlaceOk])).trans ?_
    exact if_pos (by simp [hdigestOk])
  · intro s p b c hon hcond hpartDefined hpartPlaceOk hdigestOk
    refine execPartitionRestartRequest_answers (b := b) rfl hon ((if_neg (by omega)).trans ?_)
    refine (if_neg (by simp [hpartDefined, pHalted])).trans ?_
    refine (if_neg (by simp [hpartPlaceOk])).trans ?_
    exact if_neg (by simp [hdigestOk])

end Sys2Proof.Machine
end

section
/-! PROOFS. The states of a Leavo port. -/

namespace Sys2Proof.Machine

/-- Settles O27: the state of the port, its mode and the block that it meets pick the branch. -/
theorem leavoPortStates : Obligations.LeavoPortStates := by
  unfold Obligations.LeavoPortStates
  refine ⟨?_, ?_, ?_, ?_, ?_, ?_, ?_, ?_, ?_, ?_, ?_, ?_, ?_, ?_, ?_, ?_, ?_, ?_, ?_, ?_, ?_, ?_, ?_, ?_, ?_, ?_, ?_, ?_, ?_, ?_, ?_, ?_⟩
  -- `portEnable`
  · intro s k b hon hen
    refine (onBlk_next hon ?_ : execPortEnable k s = _)
    refine (if_neg (by grind [pOff])).trans ?_
    refine congrArg (Block.put _ _ _ _ _) ?_
    rfl
  · intro s k b hen
    refine (onBlk_unchanged (b := b) (fun _ => ?_) : execPortEnable k s = _)
    exact if_pos (by grind [pOff])
  -- `laneLock`
  · intro s k lanes b hon hportSt
    refine (onBlk_next hon ?_ : execLaneLock k lanes s = _)
    refine (if_neg (by simp [hportSt, pTrain])).trans ?_
    refine congrArg (Block.put _ _ _ _ _) ?_
    refine congrArg (Block.put _ _ _ _ _) ?_
    rfl
  · intro s k lanes b hportSt
    refine (onBlk_unchanged (b := b) (fun _ => ?_) : execLaneLock k lanes s = _)
    exact if_pos (by grind [pTrain])
  -- `trainTimeout`
  · intro s k b hon hportSt
    refine (onBlk_next hon ?_ : execTrainTimeout k s = _)
    exact if_neg (by simp [hportSt, pTrain])
  · intro s k b hportSt
    refine (onBlk_unchanged (b := b) (fun _ => ?_) : execTrainTimeout k s = _)
    exact if_pos (by grind [pTrain])
  -- `alignLock`
  · intro s k b hportSt
    refine (onBlk_unchanged (b := b) (fun _ => ?_) : execAlignLock k s = _)
    exact if_pos (by grind [pAlign])
  · intro s k b hon hportSt htoInit
    refine (onBlk_next hon ?_ : execAlignLock k s = _)
    refine (if_neg (by simp [hportSt, pAlign])).trans ?_
    exact if_pos htoInit
  · intro s k b hon hportSt htoInit
    refine (onBlk_next hon ?_ : execAlignLock k s = _)
    refine (if_neg (by simp [hportSt, pAlign])).trans ?_
    refine (if_neg (ne_true_of_eq_false htoInit)).trans ?_
    refine congrArg (Block.note _) ?_
    rfl
  -- `initFrame`
  · intro s k data b hportTalks
    refine (onBlk_unchanged (fun _ => ?_) : execInitFrame k data s = _)
    exact if_pos (by grind)
  · intro s k data b hon hportTalks hctlOk
    refine (onBlk_next hon ?_ : execInitFrame k data s = _)
    refine (if_neg (by simp [hportTalks])).trans ?_
    exact if_pos (by simp [hctlOk])
  · intro s k data b hon hportTalks hctlOk hleAt
    refine (onBlk_next hon ?_ : execInitFrame k data s = _)
    refine (if_neg (by simp [hportTalks])).trans ?_
    refine (if_neg (by simp [hctlOk])).trans ?_
    exact if_pos hleAt
  · intro s k data b hportTalks hctlOk hleAt hportSt
    refine (onBlk_unchanged (fun _ => ?_) : execInitFrame k data s = _)
    refine (if_neg (by grind)).trans ?_
    refine (if_neg (by simp [hctlOk])).trans ?_
    refine (if_neg (by simp [hleAt])).trans ?_
    exact if_pos hportSt
  · intro s k data b hon hportTalks hctlOk hleAt hleAt2
    refine (onBlk_next hon ?_ : execInitFrame k data s = _)
    refine (if_neg (by simp [hportTalks])).trans ?_
    refine (if_neg (by simp [hctlOk])).trans ?_
    refine (if_neg (by simp [hleAt])).trans ?_
    refine (if_neg (by simp [hleAt, pInit])).trans ?_
    exact if_pos (by grind)
  · intro s k data b f c hon hportTalks hctlOk hleAt hleAt2 hport
    refine (onBlk_next hon ?_ : execInitFrame k data s = _)
    refine (if_neg (by simp [hportTalks])).trans ?_
    refine (if_neg (by simp [hctlOk])).trans ?_
    refine (if_neg (by simp [hleAt])).trans ?_
    refine (if_neg (by simp [hleAt, pInit])).trans ?_
    refine (if_neg (by simp [hleAt2])).trans ?_
    exact if_pos (by simp [hport, f, c, pInit])
  · intro s k data b f c hon hportTalks hctlOk hleAt hleAt2 hport
    refine (onBlk_next hon ?_ : execInitFrame k data s = _)
    refine (if_neg (by simp [hportTalks])).trans ?_
    refine (if_neg (by simp [hctlOk])).trans ?_
    refine (if_neg (by simp [hleAt])).trans ?_
    refine (if_neg (by simp [hleAt, pInit])).trans ?_
    refine (if_neg (by simp [hleAt2])).trans ?_
    exact if_neg (by grind [pInit])
  -- `initSend`
  · intro s k b hportSt
    refine (onBlk_unchanged (b := b) (fun _ => ?_) : execInitSend k s = _)
    exact if_pos (by grind [pInit])
  · intro s k b ack c hon hportSt hport
    refine (onBlk_next hon ?_ : execInitSend k s = _)
    refine (if_neg (by simp [hportSt, pInit])).trans ?_
    exact if_pos (by grind [pInit])
  · intro s k b ack c hon hportSt hport
    refine (onBlk_next hon ?_ : execInitSend k s = _)
    refine (if_neg (by simp [hportSt, pInit])).trans ?_
    exact if_neg (by grind [pInit])
  -- `codewordLockLost`
  · intro s k b hon hportSt
    refine (onBlk_next hon ?_ : execCodewordLockLost k s = _)
    exact if_neg (by simp [hportSt, pUp])
  · intro s k b hportSt
    refine (onBlk_unchanged (b := b) (fun _ => ?_) : execCodewordLockLost k s = _)
    exact if_pos (by grind [pUp])
  -- `partnerAbsent`
  · intro s k b hon hportSt
    refine (onBlk_next hon ?_ : execPartnerAbsent k s = _)
    exact if_neg (by grind [pInit, pUp])
  · intro s k b hportSt
    refine (onBlk_unchanged (b := b) (fun _ => ?_) : execPartnerAbsent k s = _)
    exact if_pos (by grind [pInit, pUp])
  -- `portReset`
  · intro s k b hon hcond
    refine (onBlk_next hon ?_ : execPortReset k s = _)
    exact if_neg (by simp [hcond])
  · intro s k b hcond
    refine (onBlk_unchanged (fun _ => ?_) : execPortReset k s = _)
    exact if_pos (by grind)
  -- `uncorrectableCodeword`
  · intro s k b hon hportTalks
    refine (onBlk_next hon ?_ : execUncorrectableCodeword k s = _)
    exact if_neg (by simp [hportTalks])
  · intro s k b hportTalks
    refine (onBlk_unchanged (fun _ => ?_) : execUncorrectableCodeword k s = _)
    exact if_pos (by grind)
  -- `alignMarker`
  · intro s k data b hportTalks
    refine (onBlk_unchanged (fun _ => ?_) : execAlignMarker k data s = _)
    exact if_pos (by grind)
  · intro s k data b hon hportTalks hctlOk
    refine (onBlk_next hon ?_ : execAlignMarker k data s = _)
    refine (if_neg (by simp [hportTalks])).trans ?_
    exact if_pos (by simp [hctlOk])
  · intro s k data b m hon hportTalks hctlOk hleAt
    refine (onBlk_next hon ?_ : execAlignMarker k data s = _)
    refine (if_neg (by simp [hportTalks])).trans ?_
    refine (if_neg (by simp [hctlOk])).trans ?_
    exact if_pos hleAt
  · intro s k data b m hportTalks hctlOk hleAt hcond
    refine (onBlk_unchanged (fun _ => ?_) : execAlignMarker k data s = _)
    refine (if_neg (by grind)).trans ?_
    refine (if_neg (by simp [hctlOk])).trans ?_
    refine (if_neg (by simp [hleAt])).trans ?_
    exact if_pos hcond
  · intro s k data b m hon hportTalks hctlOk hleAt
    refine (onBlk_next hon ?_ : execAlignMarker k data s = _)
    refine (if_neg (by simp [hportTalks])).trans ?_
    refine (if_neg (by simp [hctlOk])).trans ?_
    refine (if_neg (by simp [hleAt])).trans ?_
    exact if_neg (by simp [hleAt, m])

end Sys2Proof.Machine
end

section
/-! PROOFS. Control blocks, credits and lanes. -/

namespace Sys2Proof.Machine

/-- How far the partner's count `cum` is ahead of what port `k` has taken (R333). -/
def Block.ahead (b : Block) (k cum : Nat) : Nat := (cum + 2 ^ 24 - (b.port k).rxCum % 2 ^ 24) % 2 ^ 24

section
variable {b : Block} {k cum : Nat}

theorem Block.heal_even (h : b.ahead k cum = 0) : b.heal k (b.port k).rxCum cum = (true, b.modPort k fun p => { p with rxCum := cum }) :=
  if_pos h

theorem Block.heal_lost (h : 0 < b.ahead k cum) (hfew : b.ahead k cum < 2 ^ 23) :
    b.heal k (b.port k).rxCum cum =
      (true, (((b.modPort k fun p => { p with rxCum := cum, rxFreed := (p.rxFreed + b.ahead k cum) % 2 ^ 24 }).cnt k 10 (b.ahead k cum)).put
        LVP_ERRSTAT_HEAL 1 k).noteOnce k (lvpFault 0x180B k)) :=
  (if_neg (Nat.ne_of_gt h)).trans (if_pos hfew)

theorem Block.heal_overrun (h : 2 ^ 23 ≤ b.ahead k cum) :
    b.heal k (b.port k).rxCum cum = (false, ((b.put LVP_ERRSTAT_CREDOVR 1 k).note (lvpFault 0x280F k)).toInit k) :=
  (if_neg (Nat.ne_of_gt (Nat.lt_of_lt_of_le (by decide) h))).trans (if_neg (Nat.not_lt.mpr h))

end

section
variable {s : State} {k : Nat} {data : Bytes} {b p c e : Block} (hs : s.start = b) (hon : b.dev ≠ .off) (htalks : b.portTalks k = true)
  (hctl : ctlOk data = true)
include hs hon htalks hctl

/-- A beacon, once the partner and the peer's turn are shown. -/
theorem execBeaconFrame_shows (htype : leAt 0 1 data = 75) (hp : b.put LVP_STATUS_PARTNER 1 k = p)
    (hc : (if p.isSet LVP_CFG_PEER k = true ∧ p.actN 0x2000 2 = 3 then
      p.modTu (fun t => { t with peerTurn := leAt 4 6 data, peerNs := p.timeNs - (leAt 12 2 data + p.get LVP_LINK_RTT k / 2) }) else p) = c)
    (hup : ¬ (c.portSt k = 4 ∧ c.native k = true)) : execBeaconFrame k data s = .next (s.withBlk c) := by
  have hpeer : p.when (p.isSet LVP_CFG_PEER k && p.actN 0x2000 2 = 3)
      (Block.peerBeacon (leAt 4 6 data) (leAt 12 2 data + p.get LVP_LINK_RTT k / 2)) = c := by
    rw [← hc]
    simp only [Block.when, Bool.and_eq_true, decide_eq_true_eq, Block.peerBeacon]
  refine onBlk_next hon ?_ hs
  refine (if_neg (by simp [htalks])).trans ?_
  refine (if_neg (by simp [hctl])).trans ?_
  refine (if_neg (by simp [htype])).trans ?_
  simp only [hp, hpeer]
  exact if_pos (by grind [pUp])

/-- A beacon of a port that is up on a native port: its counts free credits, or take the port out of UP. -/
theorem execBeaconFrame_counts (htype : leAt 0 1 data = 75) (hp : b.put LVP_STATUS_PARTNER 1 k = p)
    (hc : (if p.isSet LVP_CFG_PEER k = true ∧ p.actN 0x2000 2 = 3 then
      p.modTu (fun t => { t with peerTurn := leAt 4 6 data, peerNs := p.timeNs - (leAt 12 2 data + p.get LVP_LINK_RTT k / 2) }) else p) = c)
    (hup : c.portSt k = 4 ∧ c.native k = true) {ok : Bool} (hheal : c.heal k (c.port k).rxCum (leAt 24 3 data) = (ok, e)) :
    execBeaconFrame k data s = .next (s.withBlk (if ok then e.freed k (leAt 27 3 data) else e)) := by
  have hpeer : p.when (p.isSet LVP_CFG_PEER k && p.actN 0x2000 2 = 3)
      (Block.peerBeacon (leAt 4 6 data) (leAt 12 2 data + p.get LVP_LINK_RTT k / 2)) = c := by
    rw [← hc]
    simp only [Block.when, Bool.and_eq_true, decide_eq_true_eq, Block.peerBeacon]
  refine onBlk_next hon ?_ hs
  refine (if_neg (by simp [htalks])).trans ?_
  refine (if_neg (by simp [hctl])).trans ?_
  refine (if_neg (by simp [htype])).trans ?_
  simp only [hp, hpeer, hheal]
  refine (if_neg (by simp [hup, pUp])).trans ?_
  cases ok <;> rfl

/-- A keepalive of a port that is up on a native port. -/
theorem execKeepaliveReceived_counts (htype : leAt 0 1 data = 77) (hc : b.put LVP_STATUS_PARTNER 1 k = c)
    (hup : c.portSt k = 4 ∧ c.native k = true) {ok : Bool} (hheal : c.heal k (c.port k).rxCum (leAt 6 3 data) = (ok, e)) :
    execKeepaliveReceived k data s = .next (s.withBlk (if ok then e.freed k (leAt 9 3 data) else e)) := by
  refine onBlk_next hon ?_ hs
  refine (if_neg (by simp [htalks])).trans ?_
  refine (if_neg (by simp [hctl])).trans ?_
  refine (if_neg (by simp [htype])).trans ?_
  simp only [hc, hheal]
  refine (if_neg (by simp [hup, pUp])).trans ?_
  cases ok <;> rfl

end

/-- Settles O28: the type of a block, the state of the port and the counts of the partner pick the branch. -/
theorem leavoBlocks : Obligations.LeavoBlocks := by
  unfold Obligations.LeavoBlocks
  refine ⟨?_, ?_, ?_, ?_, ?_, ?_, ?_, ?_, ?_, ?_, ?_, ?_, ?_, ?_, ?_, ?_, ?_, ?_, ?_, ?_, ?_, ?_, ?_, ?_, ?_, ?_, ?_, ?_, ?_, ?_, ?_, ?_, ?_, ?_, ?_, ?_, ?_, ?_, ?_, ?_, ?_, ?_, ?_, ?_⟩
  -- `beaconFrame`
  · intro s k data b hportTalks
    refine (onBlk_unchanged (fun _ => ?_) : execBeaconFrame k data s = _)
    exact if_pos (by grind)
  · intro s k data b hon hportTalks hctlOk
    refine (onBlk_next hon ?_ : execBeaconFrame k data s = _)
    refine (if_neg (by simp [hportTalks])).trans ?_
    exact if_pos (by simp [hctlOk])
  · intro s k data b hon hportTalks hctlOk hleAt
    refine (onBlk_next hon ?_ : execBeaconFrame k data s = _)
    refine (if_neg (by simp [hportTalks])).trans ?_
    refine (if_neg (by simp [hctlOk])).trans ?_
    exact if_pos hleAt
  · intro s k data b p c hon hportTalks hctlOk hleAt hportSt
    exact execBeaconFrame_shows rfl hon hportTalks hctlOk hleAt rfl rfl hportSt
  · intro s k data b p c cum d e hon hportTalks hctlOk hleAt hportSt hcond
    exact execBeaconFrame_counts rfl hon hportTalks hctlOk hleAt rfl rfl hportSt (Block.heal_even hcond)
  · intro s k data b p c cum d e hon hportTalks hctlOk hleAt hportSt hcond hcond2
    exact execBeaconFrame_counts rfl hon hportTalks hctlOk hleAt rfl rfl hportSt (Block.heal_lost hcond hcond2)
  · intro s k data b p c cum d e hon hportTalks hctlOk hleAt hportSt hcond
    exact execBeaconFrame_counts rfl hon hportTalks hctlOk hleAt rfl rfl hportSt (Block.heal_overrun hcond)
  -- `keepaliveReceived`
  · intro s k data b hportTalks
    refine (onBlk_unchanged (fun _ => ?_) : execKeepaliveReceived k data s = _)
    exact if_pos (by grind)
  · intro s k data b hon hportTalks hctlOk
    refine (onBlk_next hon ?_ : execKeepaliveReceived k data s = _)
    refine (if_neg (by simp [hportTalks])).trans ?_
    exact if_pos (by simp [hctlOk])
  · intro s k data b hon hportTalks hctlOk hleAt
    refine (onBlk_next hon ?_ : execKeepaliveReceived k data s = _)
    refine (if_neg (by simp [hportTalks])).trans ?_
    refine (if_neg (by simp [hctlOk])).trans ?_
    exact if_pos hleAt
  · intro s k data b c hon hportTalks hctlOk hleAt hportSt
    refine (onBlk_next hon ?_ : execKeepaliveReceived k data s = _)
    refine (if_neg (by simp [hportTalks])).trans ?_
    refine (if_neg (by simp [hctlOk])).trans ?_
    refine (if_neg (by simp [hleAt])).trans ?_
    exact if_pos (by grind [pUp])
  · intro s k data b c cum d e hon hportTalks hctlOk hleAt hportSt hcond
    exact execKeepaliveReceived_counts rfl hon hportTalks hctlOk hleAt rfl hportSt (Block.heal_even hcond)
  · intro s k data b c cum d e hon hportTalks hctlOk hleAt hportSt hcond hcond2
    exact execKeepaliveReceived_counts rfl hon hportTalks hctlOk hleAt rfl hportSt (Block.heal_lost hcond hcond2)
  · intro s k data b c cum d e hon hportTalks hctlOk hleAt hportSt hcond
    exact execKeepaliveReceived_counts rfl hon hportTalks hctlOk hleAt rfl hportSt (Block.heal_overrun hcond)
  -- `keepaliveFrame`
  · intro s k b hportTalks
    refine (onBlk_unchanged (fun _ => ?_) : execKeepaliveFrame k s = _)
    exact if_pos (by grind)
  · intro s k b hon hportTalks
    refine (onBlk_next hon ?_ : execKeepaliveFrame k s = _)
    exact if_neg (by simp [hportTalks])
  -- `creditFrame`
  · intro s k data b hportSt
    refine (onBlk_unchanged (b := b) (fun _ => ?_) : execCreditFrame k data s = _)
    exact if_pos (by grind [pUp])
  · intro s k data b hon hportSt hctlOk
    refine (onBlk_next hon ?_ : execCreditFrame k data s = _)
    refine (if_neg (by simp [hportSt, pUp])).trans ?_
    exact if_pos (by simp [hctlOk])
  · intro s k data b hon hportSt hctlOk hleAt
    refine (onBlk_next hon ?_ : execCreditFrame k data s = _)
    refine (if_neg (by simp [hportSt, pUp])).trans ?_
    refine (if_neg (by simp [hctlOk])).trans ?_
    exact if_pos hleAt
  · intro s k data b hon hportSt hctlOk hleAt
    refine (onBlk_next hon ?_ : execCreditFrame k data s = _)
    refine (if_neg (by simp [hportSt, pUp])).trans ?_
    refine (if_neg (by simp [hctlOk])).trans ?_
    refine (if_neg (by simp [hleAt])).trans ?_
    refine congrArg (Block.pnCheck _) ?_
    rfl
  -- `creditReport`
  · intro s k b hportSt
    refine (onBlk_unchanged (b := b) (fun _ => ?_) : execCreditReport k s = _)
    exact if_pos (by grind [pUp])
  · intro s k b hon hportSt
    refine (onBlk_next hon ?_ : execCreditReport k s = _)
    refine (if_neg (by simp [hportSt, pUp])).trans ?_
    refine congrArg (Block.modPort _ _) ?_
    exact if_pos (by simp [hportSt])
  -- `laneFail`
  · intro s k lane b hportTalks
    refine (onBlk_unchanged (fun _ => ?_) : execLaneFail k lane s = _)
    exact if_pos (by grind)
  · intro s k lane b m want left c hon hportTalks hleft hportSt
    refine (onBlk_next hon ?_ : execLaneFail k lane s = _)
    refine (if_neg (by simp [hportTalks])).trans ?_
    refine (if_pos hleft).trans ?_
    exact if_pos (by simp [hportSt, c, pUp])
  · intro s k lane b m want left c hon hportTalks hleft hportSt
    refine (onBlk_next hon ?_ : execLaneFail k lane s = _)
    refine (if_neg (by simp [hportTalks])).trans ?_
    refine (if_pos hleft).trans ?_
    exact if_neg (by simp [hportSt, c, pUp])
  · intro s k lane b m want left c hon hportTalks hleft hnative
    refine (onBlk_next hon ?_ : execLaneFail k lane s = _)
    refine (if_neg (by simp [hportTalks])).trans ?_
    refine (if_neg hleft).trans ?_
    exact if_pos hnative
  · intro s k lane b m want left c hon hportTalks hleft hnative
    refine (onBlk_next hon ?_ : execLaneFail k lane s = _)
    refine (if_neg (by simp [hportTalks])).trans ?_
    refine (if_neg hleft).trans ?_
    exact if_neg (by simp [hnative, c])
  -- `lanemapResend`
  · intro s k b hport
    refine (onBlk_unchanged (fun _ => ?_) : execLanemapResend k s = _)
    grind
  · intro s k m b hon hport hportTalks
    refine (onBlk_next hon ?_ : execLanemapResend k s = _)
    simp only [hport]
    exact if_pos hportTalks
  -- `lanemapFrame`
  · intro s k data b hportTalks
    refine (onBlk_unchanged (fun _ => ?_) : execLanemapFrame k data s = _)
    exact if_pos (by grind)
  · intro s k data b hon hportTalks hctlOk
    refine (onBlk_next hon ?_ : execLanemapFrame k data s = _)
    refine (if_neg (by simp [hportTalks])).trans ?_
    exact if_pos (by simp [hctlOk])
  · intro s k data b f m left hon hportTalks hctlOk hleAt
    refine (onBlk_next hon ?_ : execLanemapFrame k data s = _)
    refine (if_neg (by simp [hportTalks])).trans ?_
    refine (if_neg (by simp [hctlOk])).trans ?_
    refine (if_neg (by simp [hleAt])).trans ?_
    refine (if_pos (by simp [hleAt, f])).trans ?_
    exact if_neg (by grind)
  · intro s k data b f m left hon hportTalks hctlOk hleAt
    refine (onBlk_next hon ?_ : execLanemapFrame k data s = _)
    refine (if_neg (by simp [hportTalks])).trans ?_
    refine (if_neg (by simp [hctlOk])).trans ?_
    refine (if_neg (by simp [hleAt])).trans ?_
    refine (if_neg (by simp [hleAt, f])).trans ?_
    exact if_pos (by simp [hleAt, f])
  · intro s k data b hon hportTalks hctlOk hleAt
    refine (onBlk_next hon ?_ : execLanemapFrame k data s = _)
    refine (if_neg (by simp [hportTalks])).trans ?_
    refine (if_neg (by simp [hctlOk])).trans ?_
    exact if_pos hleAt
  · intro s k data b f m left hportTalks hctlOk hleAt hleAt2 hleAt3
    refine (onBlk_unchanged (fun _ => ?_) : execLanemapFrame k data s = _)
    refine (if_neg (by grind)).trans ?_
    refine (if_neg (by simp [hctlOk])).trans ?_
    refine (if_neg (by simp [hleAt])).trans ?_
    grind
  -- `laneRestore`
  · intro s k lane b hon hportTalks
    refine (onBlk_next hon ?_ : execLaneRestore k lane s = _)
    exact if_neg (by simp [hportTalks])
  · intro s k lane b hportTalks
    refine (onBlk_unchanged (fun _ => ?_) : execLaneRestore k lane s = _)
    exact if_pos (by grind)
  -- `probeFrame`
  · intro s k data b hportSt
    refine (onBlk_unchanged (b := b) (fun _ => ?_) : execProbeFrame k data s = _)
    exact if_pos (by grind [pUp])
  · intro s k data b hon hportSt hctlOk
    refine (onBlk_next hon ?_ : execProbeFrame k data s = _)
    refine (if_neg (by simp [hportSt, pUp])).trans ?_
    exact if_pos (by simp [hctlOk])
  · intro s k data b hon hportSt hctlOk hleAt
    refine (onBlk_next hon ?_ : execProbeFrame k data s = _)
    refine (if_neg (by simp [hportSt, pUp])).trans ?_
    refine (if_neg (by simp [hctlOk])).trans ?_
    exact if_pos hleAt
  · intro s k data b hon hportSt hctlOk hleAt hbit
    refine (onBlk_next hon ?_ : execProbeFrame k data s = _)
    refine (if_neg (by simp [hportSt, pUp])).trans ?_
    refine (if_neg (by simp [hctlOk])).trans ?_
    refine (if_neg (by simp [hleAt])).trans ?_
    exact if_pos hbit
  · intro s k data b hon hportSt hctlOk hleAt hbit
    refine (onBlk_next hon ?_ : execProbeFrame k data s = _)
    refine (if_neg (by simp [hportSt, pUp])).trans ?_
    refine (if_neg (by simp [hctlOk])).trans ?_
    refine (if_neg (by simp [hleAt])).trans ?_
    refine (if_neg (ne_true_of_eq_false hbit)).trans ?_
    exact if_pos (by simp [hportSt])
  -- `portBoundaryMissed`
  · intro s k b hportTalks
    refine (onBlk_unchanged (fun _ => ?_) : execPortBoundaryMissed k s = _)
    exact if_pos (by grind)
  · intro s k b hon hportTalks
    refine (onBlk_next hon ?_ : execPortBoundaryMissed k s = _)
    exact if_neg (by simp [hportTalks])

end Sys2Proof.Machine
end

section
/-! PROOFS. PCIe sub-ports: a statement that fails. -/

namespace Sys2Proof.Machine

/-- A block whose endpoint is FROZEN with its link in L0, function 0 enabled, and vector 3 of function 0 pending. -/
def frozenPending : Block :=
  let b := (base.put PCI_CFG_EP 1).put PCI_SSTAT_STATE 3 0 |>.modSub 0 fun t => { t with l0 := true }
  { b with pci := { b.pci with fns := [(0, { msixOn := true })], vecs := [(3, { masked := false })], pba := [3] } }

/-- The vectors that an outcome leaves pending. -/
def Outcome.pendingVecs : Host.Outcome State Fault Refusal → List Nat
  | .next s => s.blk.pci.pba
  | _ => []

/-- Refutes O33: the sub-port that RELEASE brings UP sends the vectors that were pending (R398), which the clause on an endpoint leaves out. -/
theorem not_pcieLinks : ¬ Obligations.PcieLinks := by
  unfold Obligations.PcieLinks
  rintro ⟨-, -, -, -, -, -, -, -, -, -, -, -, -, hrelease, -⟩
  have h := hrelease frozenPending.alone midGov none 0 false (by decide +kernel) (by decide +kernel) (by decide +kernel) (by decide +kernel)
    (by decide +kernel) (by decide +kernel) (by decide +kernel)
  have hsent := congrArg Outcome.pendingVecs h
  revert hsent
  decide +kernel

end Sys2Proof.Machine
end

section
/-! PROOFS. Flows, instances and the hopper: a statement that fails. -/

namespace Sys2Proof.Machine

/-- An arrival whose walk reads the keys `keys`. -/
def arrivalWith (walk : Nat) (keys : List Bytes) : Arrival := { walk := walk, keys := keys, port := 0, turn := 0, phase := 0, sack := {} }

/-- A block with two walks, the second of which waits behind the first for a key that they share. -/
def twoWalks : Block := base.modSlc fun t => { t with walks := [arrivalWith 3 [[1], [2]], arrivalWith 4 [[1]]] }

/-- The walks that an outcome leaves under way. -/
def Outcome.walksLeft : Host.Outcome State Fault Refusal → List Nat
  | .next s => s.blk.slc.walks.map (·.walk)
  | _ => []

/-- Refutes O32: a walk that returns while an arrival before it, of other keys, still waits for a key of its own finishes nothing, so that the
arrivals of a key keep their order. -/
theorem not_sluiceRows : ¬ Obligations.SluiceRows := by
  unfold Obligations.SluiceRows
  rintro ⟨-, hwalk, -⟩
  have h := hwalk twoWalks.alone 4 (arrivalWith 4 [[1]]) (by decide +kernel) (by decide +kernel)
  have hleft := congrArg Outcome.walksLeft h
  revert hleft
  decide +kernel

end Sys2Proof.Machine
end

section
/-! PROOFS. A step with nothing waiting: a statement that fails. -/

namespace Sys2Proof.Machine

/-- A block whose INST 0 has an MSI waiting that may go. -/
def msiWaiting : Block := base.modInst 0 fun t => { t with msiPend := [(0, 0, 0)] }

/-- The MSIs that INST 0 has waiting in an outcome. -/
def Outcome.waitingMsis : Host.Outcome State Fault Refusal → List (Nat × Nat × Nat)
  | .next s => (s.blk.inst 0).msiPend
  | _ => []

/-- Refutes O44: in an idle cycle the waiting MSIs of the instances that may go leave (R367), which the clause on an idle step leaves out. -/
theorem not_stepTakesTheFront : ¬ Obligations.StepTakesTheFront := by
  unfold Obligations.StepTakesTheFront
  rintro ⟨-, hidle, -⟩
  have h := hidle msiWaiting (by decide +kernel)
  have hsent := congrArg Outcome.waitingMsis h
  revert hsent
  decide +kernel

end Sys2Proof.Machine
end

section
/-! PROOFS. Where a SAFE_HOLD request leads. -/

namespace Sys2Proof.Machine

/-- An answer on a dictionary path. -/
def Out.isAnswer : Out → Bool
  | .answer _ _ => true
  | _ => false

/-- What a SAFE_HOLD request promises about a block: device state, FAULT_OUT, contents, harts and the answers given. -/
def Block.holdView (b : Block) :=
  (b.dev, (b.flog.outA, b.flog.outB), b.mem, b.otp, b.active, b.harts, b.out.filter Out.isAnswer)

theorem Block.holdView_emit {b : Block} {o : Out} (h : o.isAnswer = false) : (b.emit o).holdView = b.holdView := by
  simp [Block.holdView, Block.emit, h]

theorem Block.holdView_writeEntry (f : FaultSpec) (b : Block) : (b.writeEntry f).holdView = b.holdView := by
  unfold Block.writeEntry
  extract_lets n e c d
  split <;> rfl

theorem Block.holdView_note (f : FaultSpec) (b : Block) : (b.note f).holdView = b.holdView := by
  unfold Block.note
  extract_lets c
  have hc : c.holdView = b.holdView := rfl
  split
  · rfl
  · split
    · exact hc
    · split
      · split
        · exact Block.holdView_writeEntry f _
        · exact hc
      · exact (Block.holdView_writeEntry f c).trans hc

theorem Block.holdView_filePend (page eiid : Nat) (b : Block) : (b.filePend page eiid).holdView = b.holdView := by
  unfold Block.filePend
  split <;> rfl

theorem Block.holdView_sendMsi (mid addr eiid : Nat) (b : Block) : (b.sendMsi mid addr eiid).holdView = b.holdView := by
  unfold Block.sendMsi
  split
  · split
    · exact (Block.holdView_note _ _).trans (Block.holdView_emit rfl)
    · exact (Block.when_eq Block.holdView (Block.holdView_filePend _ _) _ _).trans (Block.holdView_emit rfl)
  · exact Block.holdView_emit rfl

theorem Block.holdView_notify (a : Nat) (b : Block) : (b.notify a).holdView = b.holdView := by
  unfold Block.notify
  extract_lets addr
  split
  · rfl
  · exact Block.holdView_sendMsi ..

theorem Block.holdView_abortChan (k : Nat) (b : Block) : (b.abortChan k).holdView = b.holdView := by
  unfold Block.abortChan
  extract_lets c
  split
  · rfl
  · exact (Block.holdView_note _ _).trans (Block.holdView_notify _ _)

theorem Block.holdView_resetAgent (a : Nat) (b : Block) : (b.resetAgent a).holdView = b.holdView := by
  unfold Block.resetAgent
  extract_lets into c outOf
  have hc : c.holdView = b.holdView := Block.forL_eq Block.holdView Block.holdView_abortChan into b
  exact (Block.forL_eq Block.holdView (fun _ _ => by rfl) outOf c).trans hc

theorem Block.holdView_put (f : Fld) (v i j k : Nat) (b : Block) : (b.put f v i j k).holdView = b.holdView := rfl

theorem Block.holdView_haltParts (b : Block) : b.haltParts.holdView = b.holdView := by
  unfold Block.haltParts
  refine Block.forN_eq Block.holdView (fun p c => ?_) 64 b
  exact Block.when_eq Block.holdView (fun c => (Block.holdView_resetAgent ..).trans (Block.holdView_put ..)) _ c

theorem Block.holdView_cancelCommit (b : Block) : b.cancelCommit.holdView = b.holdView := by
  unfold Block.cancelCommit Block.cancelPending
  split
  · exact Block.holdView_note ..
  · split
    · exact Block.holdView_note ..
    · rfl

theorem Block.holdView_sendVec (f v : Nat) (b : Block) : (b.sendVec f v).holdView = b.holdView := by
  unfold Block.sendVec
  extract_lets q e
  split
  · rfl
  · split
    · rfl
    · exact Block.holdView_emit rfl

theorem Block.holdView_setBeacons (b : Block) : b.setBeacons.holdView = b.holdView := by
  unfold Block.setBeacons
  exact Block.forN_eq Block.holdView (fun k c => Block.holdView_put ..) 6 b

/-- A state change gives the device state and nothing else of what is promised. -/
theorem Block.holdView_setDev (d : DevState) (b : Block) : (b.setDev d).holdView = { b with dev := d }.holdView :=
  (Block.holdView_note ..).trans <| (Block.holdView_sendVec ..).trans (Block.holdView_setBeacons _)

theorem Block.holdView_assertFout {b : Block} (h : b.dev ≠ .off) : b.assertFout.holdView = (b.dev, (true, true), b.holdView.2.2) := by
  rw [Block.assertFout, if_neg h]
  rfl

/-- SAFE_HOLD is entered with both outputs asserted and the rest of what is promised as it was. -/
theorem Block.holdView_enterSafeHold (code : Nat) (fatal : Bool) (b : Block) :
    (b.enterSafeHold code fatal).holdView = (.safeHold, (true, true), b.holdView.2.2) := by
  unfold Block.enterSafeHold
  rw [Block.holdView_cancelCommit, Block.holdView_haltParts]
  have hset := Block.holdView_setDev .safeHold b
  generalize b.setDev .safeHold = c at hset
  have hdev : c.dev = .safeHold := congrArg Prod.fst hset
  have hrest : c.holdView.2.2 = b.holdView.2.2 := congrArg (fun v => v.2.2) hset
  rw [Block.holdView_assertFout (b := c.setR .GOV_HOLDCAUSE _) (fun h => DevState.noConfusion (hdev.symm.trans h)), ← hrest, ← hdev]
  rfl

/-- A request moves every state that can be held to SAFE_HOLD and leaves SAFE_HOLD and SHUTDOWN. -/
theorem Block.holdView_holdRequest (b : Block) :
    b.holdRequest.holdView = if b.dev.holdable then (.safeHold, (true, true), b.holdView.2.2) else b.holdView := by
  unfold Block.holdRequest
  split
  · exact Block.holdView_enterSafeHold ..
  · split
    · exact Block.holdView_note ..
    · rfl

theorem DevState.holdable_eq_true {d : DevState} (hoff : d ≠ .off) (hsafe : d ≠ .safeHold) (hshut : d ≠ .shutdown) : d.holdable = true := by
  cases d with
  | off => exact absurd rfl hoff
  | safeHold => exact absurd rfl hsafe
  | shutdown => exact absurd rfl hshut
  | _ => rfl

theorem DevState.holdable_eq_false {d : DevState} (h : d = .safeHold ∨ d = .shutdown) : d.holdable = false := by
  rcases h with rfl | rfl <;> rfl

/-- Settles O56: a request that can hold the device enters SAFE_HOLD; in SAFE_HOLD and SHUTDOWN it is only answered. -/
theorem safeHoldRequests : Obligations.SafeHoldRequests := by
  intro s hon hgov
  have hexec : exec (.safeHoldRequest false) s = .next (s.withBlk (s.start.holdRequest.answer 0)) :=
    (onBlk_next (b := s.start) hon (if_neg (ne_true_of_eq_false hgov)) : execSafeHoldRequest false s = _)
  have hview := Block.holdView_holdRequest s.start
  generalize s.start.holdRequest = c at hexec hview
  have hcontents : c.holdView.2.2 = s.start.holdView.2.2 := by
    rw [hview]
    split <;> rfl
  simp only [Block.holdView, Prod.mk.injEq] at hcontents
  obtain ⟨hmem, hotp, hactive, hharts, hout⟩ := hcontents
  have hno : ∀ a v, Out.answer a v ∉ c.out := fun a v h =>
    List.not_mem_nil (hout ▸ List.mem_filter.mpr ⟨h, rfl⟩ : Out.answer a v ∈ s.start.out.filter Out.isAnswer)
  refine ⟨_, hexec, fun hstays => ?_, fun hsafe hshut => ?_, hmem, hotp, hactive, hharts, ?_, ?_⟩
  · rw [if_neg (ne_true_of_eq_false (DevState.holdable_eq_false (d := s.start.dev) hstays))] at hview
    exact congrArg Prod.fst hview
  · rw [if_pos (DevState.holdable_eq_true (d := s.start.dev) hon hsafe hshut)] at hview
    simp only [Block.holdView, Prod.mk.injEq] at hview
    obtain ⟨hdev, ⟨houtA, houtB⟩, -⟩ := hview
    exact ⟨hdev, houtA, houtB⟩
  · exact List.mem_append_right c.out (List.mem_singleton.mpr rfl)
  · intro h
    rcases List.mem_append.mp h with h | h
    · exact hno _ _ h
    · cases List.mem_singleton.mp h

end Sys2Proof.Machine
end

section
/-! PROOFS. Millstone queues and commands. -/

namespace Sys2Proof.Machine

section
variable {b c : Block} {n i j op : Nat} {v : Bytes × Nat} {ws : List Nat}
  (hready : b.mstLive n = true ∧ i < 16 ∧ j < 2 ∧ b.isSet MST_BCFG_EN n i = true ∧ (b.mq n i j).stopped = false ∧ b.qsize n i j ≠ 0 ∧
    ((b.mq n i j).head + (b.mq n i j).started) % 65536 ≠ (b.mq n i j).tail ∧
    (b.mst n).runs.any (fun r => r.q = 2 * i + j && r.err ≠ 0) = false)
  (hrange : b.rangeAllowed n i (b.mstEntry n i j, 64, false) = true)
  (hread : b.mstRead n (b.get MST_BCFG_PART n i) (b.mstEntry n i j) 64 = (v, c))
include hready hrange hread

omit hrange hread in
theorem Block.mstReady :
    ¬ (!b.mstLive n || 16 ≤ i || 2 ≤ j || !b.isSet MST_BCFG_EN n i || (b.mq n i j).stopped || b.qsize n i j = 0
      || ((b.mq n i j).head + (b.mq n i j).started) % 65536 = (b.mq n i j).tail
      || (b.mst n).runs.any (fun r => r.q = 2 * i + j && r.err ≠ 0)) = true := by
  obtain ⟨hlive, hi, hj, hen, hstop, hsize, htail, herr⟩ := hready
  rw [herr]
  simp [hlive, hi, hj, hen, hstop, hsize, htail]

/-- An entry that the queue takes and that cannot be read (R163). -/
theorem Block.mstStart_error (hv : v.2 ≠ 0) (hfirst : (b.mq n i j).started = 0) : b.mstStart n i j op = c.mstQErr n i j 11 true := by
  refine (if_neg (Block.mstReady hready)).trans ?_
  refine (if_neg (by simp [hrange])).trans ?_
  simp only [hread]
  exact (if_pos hv).trans (if_pos hfirst)

/-- The entry as it was read, of this command's operation or of none that is listed. -/
theorem Block.mstStart_entry (hv : v.2 = 0) (hws : (List.range 8).map (fun w => leAt (8 * w) 8 v.1) = ws)
    (hop : mstOp ws = op ∨ 4 < mstOp ws) :
    b.mstStart n i j op =
      if c.mstCheck n i ws ≠ 0 then
        (if (b.mq n i j).started = 0 then c.mstFail n i j (((b.mq n i j).head + (b.mq n i j).started) % 65536) (c.mstCheck n i ws) else b)
      else if (b.mq n i j).started ≠ 0 && (mstOp ws = 4 || !bit (wd ws 0) 8) then b
      else c.runStart n (2 * i + j) (((b.mq n i j).head + (b.mq n i j).started) % 65536) ws := by
  refine (if_neg (Block.mstReady hready)).trans ?_
  refine (if_neg (by simp [hrange])).trans ?_
  simp only [hread, hws]
  refine (if_neg (by simp [hv])).trans ?_
  rcases hop with h | h
  · exact if_neg (by simp [h])
  · exact if_neg (by simp [Nat.not_le.mpr h])

theorem Block.mstStart_fails (hv : v.2 = 0) (hws : (List.range 8).map (fun w => leAt (8 * w) 8 v.1) = ws)
    (hop : mstOp ws = op ∨ 4 < mstOp ws) (hcheck : c.mstCheck n i ws ≠ 0) (hfirst : (b.mq n i j).started = 0) :
    b.mstStart n i j op = c.mstFail n i j (((b.mq n i j).head + (b.mq n i j).started) % 65536) (c.mstCheck n i ws) :=
  (Block.mstStart_entry hready hrange hread hv hws hop).trans ((if_pos hcheck).trans (if_pos hfirst))

theorem Block.mstStart_runs (hv : v.2 = 0) (hws : (List.range 8).map (fun w => leAt (8 * w) 8 v.1) = ws)
    (hop : mstOp ws = op) (hcheck : c.mstCheck n i ws = 0)
    (hgo : (b.mq n i j).started = 0 ∨ mstOp ws ≠ 4 ∧ bit (wd ws 0) 8 = true) :
    b.mstStart n i j op = c.runStart n (2 * i + j) (((b.mq n i j).head + (b.mq n i j).started) % 65536) ws := by
  refine (Block.mstStart_entry hready hrange hread hv hws (.inl hop)).trans ?_
  refine (if_neg (by simp [hcheck])).trans ?_
  exact if_neg (by rcases hgo with h | h <;> simp [h])

end

section
variable {c : Block} {n q idx : Nat} {ws : List Nat}

theorem Block.runStart_nop (h : mstOp ws = 0) : c.runStart n q idx ws = c.beginRun n q idx ws 0 := by
  simp only [Block.runStart, h]

theorem Block.runStart_gemm (h : mstOp ws = 1) :
    c.runStart n q idx ws = (c.beginRun n q idx ws (blockCount ws * blockParts ws)).forN 4 (fun t b => b.chooseWork n t) := by
  simp only [Block.runStart, h]

theorem Block.runStart_conv (h : mstOp ws = 2) :
    c.runStart n q idx ws = (c.beginRun n q idx ws (blockCount ws * blockParts ws)).forN 4 (fun t b => b.chooseWork n t) := by
  simp only [Block.runStart, h]

theorem Block.runStart_copy {e : Nat} {f : Block} (h : mstOp ws = 3)
    (hrows : ((c.beginRun n q idx ws 0).charge n (c.get MST_BCFG_PART n (q / 2)) (220 * (bits (wd ws 4) 0 23 * bits (wd ws 4) 24 39))).copyRows n
      (c.get MST_BCFG_PART n (q / 2)) ws (bits (wd ws 4) 24 39) 0 = (e, f)) :
    c.runStart n q idx ws = if e = 0 then f else (f.modRun n q idx (fun r => { r with err := e })).failHead n q := by
  simp only [Block.runStart, h, hrows]

theorem Block.runStart_signal (h : mstOp ws = 4) :
    c.runStart n q idx ws =
      if bits (wd ws 3) 0 47 = 0 then
        (c.beginRun n q idx ws 0).mstWrite n (c.get MST_BCFG_PART n (q / 2)) (bits (wd ws 1) 0 47) (leBytes 8 (wd ws 2)) false
      else ((c.beginRun n q idx ws 0).mstWrite n (c.get MST_BCFG_PART n (q / 2)) (bits (wd ws 1) 0 47) (leBytes 8 (wd ws 2)) false).sendMsi
        (midMst n) (bits (wd ws 3) 0 47) (bits (wd ws 4) 0 10) := by
  simp only [Block.runStart, h]

end

/-- Settles O20: the queue, the entry that is read and the operation that it names pick the branch. -/
theorem millstone : Obligations.Millstone := by
  unfold Obligations.Millstone
  refine ⟨?_, ?_, ?_, ?_, ?_, ?_, ?_, ?_, ?_, ?_, ?_, ?_, ?_, ?_, ?_, ?_, ?_, ?_, ?_, ?_, ?_, ?_, ?_, ?_, ?_, ?_, ?_, ?_, ?_, ?_, ?_, ?_, ?_, ?_, ?_, ?_, ?_, ?_, ?_, ?_, ?_, ?_, ?_, ?_, ?_, ?_, ?_, ?_⟩
  -- `mstDoorbell`
  · intro s part sail j count b hon hmstReach
    refine (onBlk_next hon ?_ : execMstDoorbell part sail j count s = _)
    grind
  · intro s part sail j count i b hon hmstReach hcond hcount
    refine (onBlk_next hon ?_ : execMstDoorbell part sail j count s = _)
    simp only [hmstReach]
    refine (if_pos hcond).trans ?_
    exact if_pos (by grind)
  · intro s part sail j count i b hon hmstReach hcond hcount
    refine (onBlk_next hon ?_ : execMstDoorbell part sail j count s = _)
    simp only [hmstReach]
    refine (if_pos hcond).trans ?_
    exact if_neg (by grind)
  -- `nopCmd`
  · intro s sail i j b q idx hmstLive
    refine (onBlk_unchanged (fun _ => ?_) : execNopCmd sail i j s = _)
    exact if_pos (by grind)
  · intro s sail i j b q idx p a r c ws hon hmstLive hrangeAllowed hstarted
    refine (onBlk_next hon ?_ : execNopCmd sail i j s = _)
    refine (if_neg (by grind)).trans ?_
    refine (if_pos (by simp [hrangeAllowed, a])).trans ?_
    exact if_pos hstarted
  · intro s sail i j b q idx p a r c ws hon hmstLive hrangeAllowed hcond hstarted
    have hread : b.mstRead sail p a 64 = (r, c) := (Prod.eta _).symm
    refine (onBlk_next hon ?_ : execNopCmd sail i j s = _)
    exact Block.mstStart_error (b := b) (c := c) (v := r) hmstLive hrangeAllowed hread hcond hstarted
  · intro s sail i j b q idx p a r c ws hmstLive hrangeAllowed
    refine (onBlk_unchanged (fun _ => ?_) : execNopCmd sail i j s = _)
    refine (if_neg (by grind)).trans ?_
    grind
  · intro s sail i j b q idx p a r c ws hon hmstLive hrangeAllowed hcond hmstOp hmstCheck hstarted
    have hread : b.mstRead sail p a 64 = (r, c) := (Prod.eta _).symm
    refine (onBlk_next hon ?_ : execNopCmd sail i j s = _)
    exact Block.mstStart_fails (b := b) (c := c) (v := r) (ws := ws) hmstLive hrangeAllowed hread hcond rfl hmstOp hmstCheck hstarted
  · intro s sail i j b q idx p a r c ws hon hmstLive hrangeAllowed hcond hmstOp hmstCheck hstarted
    have hread : b.mstRead sail p a 64 = (r, c) := (Prod.eta _).symm
    refine (onBlk_next hon ?_ : execNopCmd sail i j s = _)
    refine (Block.mstStart_runs (b := b) (c := c) (v := r) (ws := ws) hmstLive hrangeAllowed hread hcond rfl hmstOp hmstCheck ?_).trans ?_
    · exact hstarted.imp_right fun h => ⟨fun h4 => absurd (hmstOp.symm.trans h4) (by decide), h⟩
    · exact Block.runStart_nop (c := c) (ws := ws) hmstOp
  -- `gemmCmd`
  · intro s sail i j b q idx hmstLive
    refine (onBlk_unchanged (fun _ => ?_) : execGemmCmd sail i j s = _)
    exact if_pos (by grind)
  · intro s sail i j b q idx p a r c ws hon hmstLive hrangeAllowed hstarted
    refine (onBlk_next hon ?_ : execGemmCmd sail i j s = _)
    refine (if_neg (by grind)).trans ?_
    refine (if_pos (by simp [hrangeAllowed, a])).trans ?_
    exact if_pos hstarted
  · intro s sail i j b q idx p a r c ws hon hmstLive hrangeAllowed hcond hstarted
    have hread : b.mstRead sail p a 64 = (r, c) := (Prod.eta _).symm
    refine (onBlk_next hon ?_ : execGemmCmd sail i j s = _)
    exact Block.mstStart_error (b := b) (c := c) (v := r) hmstLive hrangeAllowed hread hcond hstarted
  · intro s sail i j b q idx p a r c ws hmstLive hrangeAllowed
    refine (onBlk_unchanged (fun _ => ?_) : execGemmCmd sail i j s = _)
    refine (if_neg (by grind)).trans ?_
    grind
  · intro s sail i j b q idx p a r c ws hon hmstLive hrangeAllowed hcond hmstOp hmstCheck hstarted
    have hread : b.mstRead sail p a 64 = (r, c) := (Prod.eta _).symm
    refine (onBlk_next hon ?_ : execGemmCmd sail i j s = _)
    exact Block.mstStart_fails (b := b) (c := c) (v := r) (ws := ws) hmstLive hrangeAllowed hread hcond rfl hmstOp hmstCheck hstarted
  · intro s sail i j b q idx p a r c ws hon hmstLive hrangeAllowed hcond hmstOp hmstCheck hstarted
    have hread : b.mstRead sail p a 64 = (r, c) := (Prod.eta _).symm
    refine (onBlk_next hon ?_ : execGemmCmd sail i j s = _)
    refine (Block.mstStart_runs (b := b) (c := c) (v := r) (ws := ws) hmstLive hrangeAllowed hread hcond rfl hmstOp hmstCheck ?_).trans ?_
    · exact hstarted.imp_right fun h => ⟨fun h4 => absurd (hmstOp.symm.trans h4) (by decide), h⟩
    · exact Block.runStart_gemm (c := c) (ws := ws) hmstOp
  -- `convCmd`
  · intro s sail i j b q idx hmstLive
    refine (onBlk_unchanged (fun _ => ?_) : execConvCmd sail i j s = _)
    exact if_pos (by grind)
  · intro s sail i j b q idx p a r c ws hon hmstLive hrangeAllowed hstarted
    refine (onBlk_next hon ?_ : execConvCmd sail i j s = _)
    refine (if_neg (by grind)).trans ?_
    refine (if_pos (by simp [hrangeAllowed, a])).trans ?_
    exact if_pos hstarted
  · intro s sail i j b q idx p a r c ws hon hmstLive hrangeAllowed hcond hstarted
    have hread : b.mstRead sail p a 64 = (r, c) := (Prod.eta _).symm
    refine (onBlk_next hon ?_ : execConvCmd sail i j s = _)
    exact Block.mstStart_error (b := b) (c := c) (v := r) hmstLive hrangeAllowed hread hcond hstarted
  · intro s sail i j b q idx p a r c ws hmstLive hrangeAllowed
    refine (onBlk_unchanged (fun _ => ?_) : execConvCmd sail i j s = _)
    refine (if_neg (by grind)).trans ?_
    grind
  · intro s sail i j b q idx p a r c ws hon hmstLive hrangeAllowed hcond hmstOp hmstCheck hstarted
    have hread : b.mstRead sail p a 64 = (r, c) := (Prod.eta _).symm
    refine (onBlk_next hon ?_ : execConvCmd sail i j s = _)
    exact Block.mstStart_fails (b := b) (c := c) (v := r) (ws := ws) hmstLive hrangeAllowed hread hcond rfl hmstOp hmstCheck hstarted
  · intro s sail i j b q idx p a r c ws hon hmstLive hrangeAllowed hcond hmstOp hmstCheck hstarted
    have hread : b.mstRead sail p a 64 = (r, c) := (Prod.eta _).symm
    refine (onBlk_next hon ?_ : execConvCmd sail i j s = _)
    refine (Block.mstStart_runs (b := b) (c := c) (v := r) (ws := ws) hmstLive hrangeAllowed hread hcond rfl hmstOp hmstCheck ?_).trans ?_
    · exact hstarted.imp_right fun h => ⟨fun h4 => absurd (hmstOp.symm.trans h4) (by decide), h⟩
    · exact Block.runStart_conv (c := c) (ws := ws) hmstOp
  -- `copyCmd`
  · intro s sail i j b q idx hmstLive
    refine (onBlk_unchanged (fun _ => ?_) : execCopyCmd sail i j s = _)
    exact if_pos (by grind)
  · intro s sail i j b q idx p a r c ws hon hmstLive hrangeAllowed hstarted
    refine (onBlk_next hon ?_ : execCopyCmd sail i j s = _)
    refine (if_neg (by grind)).trans ?_
    refine (if_pos (by simp [hrangeAllowed, a])).trans ?_
    exact if_pos hstarted
  · intro s sail i j b q idx p a r c ws hon hmstLive hrangeAllowed hcond hstarted
    have hread : b.mstRead sail p a 64 = (r, c) := (Prod.eta _).symm
    refine (onBlk_next hon ?_ : execCopyCmd sail i j s = _)
    exact Block.mstStart_error (b := b) (c := c) (v := r) hmstLive hrangeAllowed hread hcond hstarted
  · intro s sail i j b q idx p a r c ws hmstLive hrangeAllowed
    refine (onBlk_unchanged (fun _ => ?_) : execCopyCmd sail i j s = _)
    refine (if_neg (by grind)).trans ?_
    grind
  · intro s sail i j b q idx p a r c ws hon hmstLive hrangeAllowed hcond hmstOp hmstCheck hstarted
    have hread : b.mstRead sail p a 64 = (r, c) := (Prod.eta _).symm
    refine (onBlk_next hon ?_ : execCopyCmd sail i j s = _)
    exact Block.mstStart_fails (b := b) (c := c) (v := r) (ws := ws) hmstLive hrangeAllowed hread hcond rfl hmstOp hmstCheck hstarted
  · intro s sail i j b q idx p a r c ws pc d e f hon hmstLive hrangeAllowed hcond hmstOp hmstCheck hstarted hcond2
    have hrows : d.copyRows sail pc ws (bits (wd ws 4) 24 39) 0 = (e, f) := (Prod.eta _).symm
    have hread : b.mstRead sail p a 64 = (r, c) := (Prod.eta _).symm
    refine (onBlk_next hon ?_ : execCopyCmd sail i j s = _)
    refine (Block.mstStart_runs (b := b) (c := c) (v := r) (ws := ws) hmstLive hrangeAllowed hread hcond rfl hmstOp hmstCheck ?_).trans ?_
    · exact hstarted.imp_right fun h => ⟨fun h4 => absurd (hmstOp.symm.trans h4) (by decide), h⟩
    · exact (Block.runStart_copy (c := c) (ws := ws) (e := e) (f := f) hmstOp hrows).trans (if_pos hcond2)
  · intro s sail i j b q idx p a r c ws pc d e f hon hmstLive hrangeAllowed hcond hmstOp hmstCheck hstarted hcond2
    have hrows : d.copyRows sail pc ws (bits (wd ws 4) 24 39) 0 = (e, f) := (Prod.eta _).symm
    have hread : b.mstRead sail p a 64 = (r, c) := (Prod.eta _).symm
    refine (onBlk_next hon ?_ : execCopyCmd sail i j s = _)
    refine (Block.mstStart_runs (b := b) (c := c) (v := r) (ws := ws) hmstLive hrangeAllowed hread hcond rfl hmstOp hmstCheck ?_).trans ?_
    · exact hstarted.imp_right fun h => ⟨fun h4 => absurd (hmstOp.symm.trans h4) (by decide), h⟩
    · exact (Block.runStart_copy (c := c) (ws := ws) (e := e) (f := f) hmstOp hrows).trans (if_neg hcond2)
  -- `signalCmd`
  · intro s sail i j b q idx hmstLive
    refine (onBlk_unchanged (fun _ => ?_) : execSignalCmd sail i j s = _)
    exact if_pos (by grind)
  · intro s sail i j b q idx p a r c ws hon hmstLive hrangeAllowed hstarted
    refine (onBlk_next hon ?_ : execSignalCmd sail i j s = _)
    refine (if_neg (by grind)).trans ?_
    refine (if_pos (by simp [hrangeAllowed, a])).trans ?_
    exact if_pos hstarted
  · intro s sail i j b q idx p a r c ws hon hmstLive hrangeAllowed hcond hstarted
    have hread : b.mstRead sail p a 64 = (r, c) := (Prod.eta _).symm
    refine (onBlk_next hon ?_ : execSignalCmd sail i j s = _)
    exact Block.mstStart_error (b := b) (c := c) (v := r) hmstLive hrangeAllowed hread hcond hstarted
  · intro s sail i j b q idx p a r c ws hmstLive hrangeAllowed
    refine (onBlk_unchanged (fun _ => ?_) : execSignalCmd sail i j s = _)
    refine (if_neg (by grind)).trans ?_
    grind
  · intro s sail i j b q idx p a r c ws hon hmstLive hrangeAllowed hcond hmstOp hmstCheck hstarted
    have hread : b.mstRead sail p a 64 = (r, c) := (Prod.eta _).symm
    refine (onBlk_next hon ?_ : execSignalCmd sail i j s = _)
    exact Block.mstStart_fails (b := b) (c := c) (v := r) (ws := ws) hmstLive hrangeAllowed hread hcond rfl hmstOp hmstCheck hstarted
  · intro s sail i j b q idx p a r c ws pc d hon hmstLive hrangeAllowed hcond hmstOp hmstCheck hstarted hbits
    have hread : b.mstRead sail p a 64 = (r, c) := (Prod.eta _).symm
    refine (onBlk_next hon ?_ : execSignalCmd sail i j s = _)
    exact (Block.mstStart_runs (b := b) (c := c) (v := r) (ws := ws) hmstLive hrangeAllowed hread hcond rfl hmstOp hmstCheck (.inl hstarted)).trans
      ((Block.runStart_signal (c := c) (ws := ws) hmstOp).trans (if_pos hbits))
  · intro s sail i j b q idx p a r c ws pc d hon hmstLive hrangeAllowed hcond hmstOp hmstCheck hstarted hbits
    have hread : b.mstRead sail p a 64 = (r, c) := (Prod.eta _).symm
    refine (onBlk_next hon ?_ : execSignalCmd sail i j s = _)
    exact (Block.mstStart_runs (b := b) (c := c) (v := r) (ws := ws) hmstLive hrangeAllowed hread hcond rfl hmstOp hmstCheck (.inl hstarted)).trans
      ((Block.runStart_signal (c := c) (ws := ws) hmstOp).trans (if_neg hbits))
  -- `tileBlockBoundary`
  · intro s sail tile mis1 mis2 corrected bad b hmstLive
    refine (onBlk_unchanged (fun _ => ?_) : execTileBlockBoundary sail tile mis1 mis2 corrected bad s = _)
    exact if_pos (by grind)
  · intro s sail tile mis1 mis2 corrected bad t b c d hon hmstLive htile hmst
    refine (onBlk_next hon ?_ : execTileBlockBoundary sail tile mis1 mis2 corrected bad s = _)
    refine (if_neg (by simp [hmstLive, htile])).trans ?_
    simp [hmst, c, d]
  · intro s sail tile mis1 mis2 corrected bad x b c d hon hmstLive htile hmst hlookup
    refine (onBlk_next hon ?_ : execTileBlockBoundary sail tile mis1 mis2 corrected bad s = _)
    refine (if_neg (by simp [hmstLive, htile])).trans ?_
    simp [hmst, hlookup, c, d]
  · intro s sail tile mis1 mis2 corrected bad b c d hon hmstLive htile hmst hlookup
    refine (onBlk_next hon ?_ : execTileBlockBoundary sail tile mis1 mis2 corrected bad s = _)
    refine (if_neg (by simp [hmstLive, htile])).trans ?_
    simp [hmst, hlookup, c, d]
  -- `millstoneCommandComplete`
  · intro s sail bind queue b k hd hqueue
    refine (onBlk_unchanged (fun _ => ?_) : execMillstoneCommandComplete sail bind queue s = _)
    grind
  · intro s sail bind queue r b k hd hmstRun herr
    refine (onBlk_unchanged (fun _ => ?_) : execMillstoneCommandComplete sail bind queue s = _)
    grind
  · intro s sail bind queue r b k hd hon hqueue hmstRun herr hblocks
    refine (onBlk_next hon ?_ : execMillstoneCommandComplete sail bind queue s = _)
    refine (if_neg (by simp [hqueue])).trans ?_
    simp [hmstRun, herr, Nat.not_lt.mpr hblocks, k, hd]
  -- `resumeQueue`
  · intro s part sail j b hon hmstReach
    refine (onBlk_next hon ?_ : execResumeQueue part sail j s = _)
    grind
  · intro s part sail j i b hmstReach hcond hmq
    refine (onBlk_unchanged (b := b) (fun _ => ?_) : execResumeQueue part sail j s = _)
    simp only [hmstReach]
    refine (if_pos hcond).trans ?_
    exact if_neg (ne_true_of_eq_false hmq)
  · intro s part sail j i b hon hmstReach hcond hmq
    refine (onBlk_next hon ?_ : execResumeQueue part sail j s = _)
    simp only [hmstReach]
    refine (if_pos hcond).trans ?_
    exact if_pos hmq
  -- `skipCmd`
  · intro s part sail j b hon hmstReach
    refine (onBlk_next hon ?_ : execSkipCmd part sail j s = _)
    grind
  · intro s part sail j i b hmstReach hcond hmq
    refine (onBlk_unchanged (b := b) (fun _ => ?_) : execSkipCmd part sail j s = _)
    simp only [hmstReach]
    refine (if_pos hcond).trans ?_
    exact if_neg (ne_true_of_eq_false hmq)
  · intro s part sail j i b hon hmstReach hcond hmq
    refine (onBlk_next hon ?_ : execSkipCmd part sail j s = _)
    simp only [hmstReach]
    refine (if_pos hcond).trans ?_
    refine (if_pos hmq).trans ?_
    simp

end Sys2Proof.Machine
end

section
/-! PROOFS. The governor and the mailboxes. -/

namespace Sys2Proof.Machine

section
variable {b : Block} {mid off v : Nat} {part : Option Nat}

/-- The agents that a master speaks for (R420). -/
theorem agentOf_lt {a : Nat} (h : agentOf mid part = some a) : a < 74 := by
  unfold agentOf at h
  split at h
  · cases part with
    | none => injection h with h; omega
    | some p => injection h with h; omega
  · split at h
    · rename_i hmiller
      rw [Bool.and_eq_true, decide_eq_true_eq, decide_eq_true_eq] at hmiller
      injection h with h
      omega
    · split at h
      · injection h with h
        omega
      · cases h

/-- A write is refused to no agent, to a restricted one, and of the secure set to one that is not secure (R420 to R422). -/
theorem Block.mbxLoc_refused {write : Bool} (hdebug : mid = midDebug → Block.mbxShared mid off = .bad)
    (h : ∀ a, agentOf mid part = some a → (b.restricted a = true ∧ (write = true ∨ (b.mbxPlace a mid off).openRead off = false))
      ∨ (b.mbxPlace a mid off).inSet1 = true ∧ b.secure a = false) :
    b.mbxLoc mid part off write = .refused := by
  unfold Block.mbxLoc
  cases hagent : agentOf mid part with
  | none =>
    dsimp only
    split
    · rename_i hmid
      rw [hdebug hmid]
    · rfl
  | some a =>
    dsimp only
    rcases h a hagent with ⟨hr, hw | ho⟩ | ⟨hset, hsec⟩
    · exact if_pos (by simp [hr, hw])
    · exact if_pos (by simp [hr, ho])
    · split
      · rfl
      · exact if_pos (by simp [hset, hsec])

/-- Any other agent reaches the place that it names. -/
theorem Block.mbxLoc_agent {a : Nat} {l : MbxLoc} {write : Bool} (hagent : agentOf mid part = some a) (hr : b.restricted a = false)
    (hplace : b.mbxPlace a mid off = l) (hset : l.inSet1 = false ∨ b.secure a = true) : b.mbxLoc mid part off write = l := by
  simp only [Block.mbxLoc, hagent, hplace, hr, Bool.false_and, Bool.false_eq_true, if_false]
  exact if_neg (by rcases hset with h | h <;> simp [h])

/-- Debug reaches what the agents share. -/
theorem Block.mbxLoc_debug {l : MbxLoc} {write : Bool} (hagent : agentOf mid part = none) (hmid : mid = midDebug)
    (hplace : Block.mbxShared mid off = l) (hl : l ≠ .bad) : b.mbxLoc mid part off write = l := by
  unfold Block.mbxLoc
  rw [hagent]
  dsimp only
  rw [if_pos hmid, hplace]
  cases l with
  | bad => exact absurd rfl hl
  | _ => rfl

theorem Block.mbxRow_refused (h : b.mbxLoc mid part off true = .refused) : b.mbxRow mid part off v = (b.mbxRefuse mid off).emit .accessError := by
  simp only [Block.mbxRow, Block.mbxWrite, h, Bool.false_eq_true, if_false]

theorem Block.mbxRow_bad (h : b.mbxLoc mid part off true = .bad) : b.mbxRow mid part off v = b.emit .accessError := by
  simp only [Block.mbxRow, Block.mbxWrite, h, Bool.false_eq_true, if_false]

/-- A write of CHCMD. -/
theorem Block.mbxRow_chanCmd {sender : Bool} {k : Nat} (h : b.mbxLoc mid part off true = .chan sender k 0x38) (ha : off % 4 = 0) :
    b.mbxRow mid part off v = b.chanCmd mid off sender k v := by
  simp [Block.mbxRow, Block.mbxWrite, h, aligned, ha]

theorem Block.mbxRow_lock {k : Nat} (h : b.mbxLoc mid part off true = .lock k) (ha : off % 4 = 0) :
    b.mbxRow mid part off v = b.lockWrite mid off k v := by
  simp [Block.mbxRow, Block.mbxWrite, h, aligned, ha]

theorem Block.mbxRow_force {k : Nat} (h : b.mbxLoc mid part off true = .force k) (ha : off % 4 = 0) :
    b.mbxRow mid part off v = b.lockForce k v := by
  simp [Block.mbxRow, Block.mbxWrite, h, aligned, ha]

theorem Block.mbxRead_refused (h : b.mbxLoc mid part off false = .refused) : b.mbxRead mid part off 4 = (none, b.mbxRefuse mid off) := by
  simp only [Block.mbxRead, h]

theorem Block.mbxRead_lock {k : Nat} (h : b.mbxLoc mid part off false = .lock k) (ha : off % 4 = 0) :
    b.mbxRead mid part off 4 = (some (b.lockRead mid k).1, (b.lockRead mid k).2) := by
  simp [Block.mbxRead, h, aligned, ha]

end

section
variable {b : Block} {a mid off x r k : Nat}

/-- A sender's CHCMD. -/
theorem Block.mbxPlace_send (hoff : off = 0x2000 * x + 0x40 * r + 0x38) (hx : x < 2) (hr : r < 128) :
    b.mbxPlace a mid off = if r < 80 then .chan true (chanKey x r a) 0x38 else .bad := by
  have hin : off < 0x4000 := by omega
  have hrecv : off % 0x2000 / 0x40 = r := by omega
  have hset : off / 0x2000 = x := by omega
  have hreg : off % 0x40 = 0x38 := by omega
  simp [Block.mbxPlace, hin, hrecv, hset, hreg, nAgents]

/-- A receiver's CHCMD. -/
theorem Block.mbxPlace_recv (hoff : off = 0x10000 + 0x2000 * x + 0x40 * r + 0x38) (hx : x < 2) (hr : r < 128) :
    b.mbxPlace a mid off = if r < 80 then .chan false (chanKey x a r) 0x38 else .bad := by
  have hlow : ¬ off < 0x4000 := by omega
  have hin : 0x10000 ≤ off ∧ off < 0x14000 := by omega
  have hsend : off % 0x2000 / 0x40 = r := by omega
  have hset : (off - 0x10000) / 0x2000 = x := by omega
  have hreg : off % 0x40 = 0x38 := by omega
  simp [Block.mbxPlace, hlow, hin, hsend, hset, hreg, nAgents]

theorem Block.mbxShared_lock (hoff : off = 0x30000 + 4 * k) (hk : k < 256) : Block.mbxShared mid off = .lock k := by
  have hin : 0x30000 ≤ off ∧ off < 0x30400 := by omega
  have hlock : (off - 0x30000) / 4 = k := by omega
  simp [Block.mbxShared, hin, hlock]

theorem Block.mbxShared_force (hoff : off = 0x30800 + 4 * k) (hk : k < 256) :
    Block.mbxShared mid off = if mid = midGov then .force k else .bad := by
  have hlock : ¬ off < 0x30400 := by omega
  have hpeek : ¬ off < 0x30800 := by omega
  have hin : 0x30800 ≤ off ∧ off < 0x30C00 := by omega
  have hforce : (off - 0x30800) / 4 = k := by omega
  simp [Block.mbxShared, hlock, hpeek, hin, hforce]

/-- Outside the windows of an agent's own view an offset names what all share. -/
theorem Block.mbxPlace_shared (h : 0x30000 ≤ off) (h' : off < 0x30C00) : b.mbxPlace a mid off = Block.mbxShared mid off := by
  have h1 : ¬ off < 0x4000 := by omega
  have h2 : ¬ off < 0x14000 := by omega
  have h3 : ¬ off < 0x20400 := by omega
  have h4 : ¬ off < 0x20404 := by omega
  have h5 : ¬ 0x40000 ≤ off := by omega
  have h6 : ¬ 0x40008 ≤ off := by omega
  have h7 : ¬ 0x50000 ≤ off := by omega
  have h8 : ¬ 0x50800 ≤ off := by omega
  have h9 : ¬ 0x51000 ≤ off := by omega
  simp [Block.mbxPlace, h1, h2, h3, h4, h5, h6, h7, h8, h9]

/-- Outside the locks and the array debug reaches nothing. -/
theorem Block.mbxShared_low (h : off < 0x30000) : Block.mbxShared mid off = .bad := by
  have h1 : ¬ 0x30000 ≤ off := by omega
  have h2 : ¬ 0x30400 ≤ off := by omega
  have h3 : ¬ 0x30800 ≤ off := by omega
  have h4 : ¬ 0x100000 ≤ off := by omega
  simp [Block.mbxShared, h1, h2, h3, h4]

theorem MbxLoc.inSet1_chan {sender : Bool} {o s : Nat} (hx : x < 2) (hr : r < 80) (hs : s < 80) :
    (MbxLoc.chan sender (chanKey x r s) o).inSet1 = decide (x = 1) := by
  rw [MbxLoc.inSet1, chanKey, decide_eq_decide]
  omega

end

section
variable {b : Block} {mid off k : Nat}

/-- POST is the command 1 with its length (R424). -/
theorem Block.chanCmd_post {len : Nat} (hlen : len < 64) : b.chanCmd mid off true k (len * 256 + 1) = b.post mid off k len := by
  have hcmd : (len * 256 + 1) % 4 = 1 := by omega
  have hbits : bits (len * 256 + 1) 8 13 = len := by
    unfold bits
    omega
  simp only [Block.chanCmd, hcmd, hbits, if_true]

theorem Block.post_refused {len : Nat} (h : ¬ ((b.chan k).state = 0 ∧ (b.chan k).aborted = false ∧ 1 ≤ len ∧ len ≤ 48)) :
    b.post mid off k len = b.postRefused mid off := by
  unfold Block.post
  exact if_neg (by simpa [and_assoc] using h)

theorem Block.post_taken {len : Nat} (h : (b.chan k).state = 0 ∧ (b.chan k).aborted = false ∧ 1 ≤ len ∧ len ≤ 48) :
    b.post mid off k len = if b.turnMode (keyRecv k) then
        b.modChan k (fun c => { c with state := if b.turnMode (keyRecv k) then 2 else 1, len := len, seq := (c.seq + 1) % 65536 })
      else (b.modChan k (fun c => { c with state := if b.turnMode (keyRecv k) then 2 else 1, len := len, seq := (c.seq + 1) % 65536 })).notify (keyRecv k) := by
  unfold Block.post
  exact if_pos (by simpa [and_assoc] using h)

end

section
variable {b : Block} {mid off x r k v : Nat} {part : Option Nat}

/-- A channel command that no agent, a restricted one, or one without the secure set sends is refused, in either view. -/
theorem Block.chanCmd_refused {sender : Bool} (hlow : off < 0x30000) (hx : x < 2) (hr : r < 80)
    (hplace : ∀ a, b.mbxPlace a mid off = .chan sender (if sender then chanKey x r a else chanKey x a r) 0x38)
    (h : ∀ a, agentOf mid part = some a → (!b.restricted a && (decide (x = 0) || b.secure a)) = false) :
    b.mbxRow mid part off v = (b.mbxRefuse mid off).emit .accessError := by
  refine Block.mbxRow_refused (Block.mbxLoc_refused (fun _ => Block.mbxShared_low hlow) fun a ha => ?_)
  have hlt := agentOf_lt ha
  have hset : (MbxLoc.chan sender (if sender then chanKey x r a else chanKey x a r) 0x38).inSet1 = decide (x = 1) := by
    cases sender with
    | true => exact MbxLoc.inSet1_chan hx hr (by omega)
    | false => exact MbxLoc.inSet1_chan hx (by omega) hr
  rw [hplace a, hset]
  cases hres : b.restricted a with
  | true => exact .inl ⟨rfl, .inl rfl⟩
  | false =>
    refine .inr ?_
    have := h a ha
    rw [hres, Bool.not_false, Bool.true_and, Bool.or_eq_false_iff, decide_eq_false_iff_not] at this
    exact ⟨decide_eq_true (by omega), this.2⟩

/-- A channel command reaches its channel from an agent that is not restricted and may use the set. -/
theorem Block.chanCmd_taken {sender : Bool} {a : Nat} (hx : x < 2) (hr : r < 80) (ha : agentOf mid part = some a)
    (hres : b.restricted a = false) (hset : x = 0 ∨ b.secure a = true) (halign : off % 4 = 0)
    (hplace : b.mbxPlace a mid off = .chan sender (if sender then chanKey x r a else chanKey x a r) 0x38) :
    b.mbxRow mid part off v = b.chanCmd mid off sender (if sender then chanKey x r a else chanKey x a r) v := by
  refine Block.mbxRow_chanCmd (Block.mbxLoc_agent ha hres hplace (hset.imp_left fun h => ?_)) halign
  have hlt := agentOf_lt ha
  cases sender with
  | true => exact (MbxLoc.inSet1_chan hx hr (by omega)).trans (decide_eq_false (by omega))
  | false => exact (MbxLoc.inSet1_chan hx (by omega) hr).trans (decide_eq_false (by omega))

/-- A receiver or sender above 79 (R423). -/
theorem Block.noChan_refused (hlow : off < 0x30000) (hplace : ∀ a, b.mbxPlace a mid off = .bad)
    (h : ∀ a, agentOf mid part = some a → b.restricted a = true) :
    b.mbxRow mid part off v = (b.mbxRefuse mid off).emit .accessError :=
  Block.mbxRow_refused (Block.mbxLoc_refused (fun _ => Block.mbxShared_low hlow) fun a ha => .inl ⟨h a ha, .inl rfl⟩)

theorem Block.noChan_bad {a : Nat} (ha : agentOf mid part = some a) (hres : b.restricted a = false) (hplace : b.mbxPlace a mid off = .bad) :
    b.mbxRow mid part off v = b.emit .accessError :=
  Block.mbxRow_bad (Block.mbxLoc_agent ha hres hplace (.inl rfl))

end

section
variable {b : Block} {mid off k v : Nat} {part : Option Nat} {write : Bool}

/-- The locks are reached by debug and by the agents that are not restricted (R422). -/
theorem Block.mbxLoc_lock (hoff : off = 0x30000 + 4 * k) (hk : k < 256) (hnone : agentOf mid part = none → mid = midDebug)
    (hsome : ∀ a, agentOf mid part = some a → b.restricted a = false) : b.mbxLoc mid part off write = .lock k := by
  cases ha : agentOf mid part with
  | none => exact Block.mbxLoc_debug ha (hnone ha) (Block.mbxShared_lock hoff hk) MbxLoc.noConfusion
  | some a =>
    exact Block.mbxLoc_agent ha (hsome a ha) ((Block.mbxPlace_shared (by omega) (by omega)).trans (Block.mbxShared_lock hoff hk)) (.inl rfl)

theorem Block.mbxLoc_lock_refused (hoff : off = 0x30000 + 4 * k) (hk : k < 256) (hdebug : mid ≠ midDebug)
    (hsome : ∀ a, agentOf mid part = some a → b.restricted a = true) : b.mbxLoc mid part off write = .refused := by
  refine Block.mbxLoc_refused (fun h => absurd h hdebug) fun a ha => .inl ⟨hsome a ha, .inr ?_⟩
  rw [Block.mbxPlace_shared (by omega) (by omega), Block.mbxShared_lock hoff hk]
  rfl

/-- The forced release is the governor's (R431). -/
theorem Block.mbxRow_force_gov (hoff : off = 0x30800 + 4 * k) (hk : k < 256) (hmid : mid = midGov) :
    b.mbxRow mid part off v = b.lockForce k v := by
  subst hmid
  refine Block.mbxRow_force (Block.mbxLoc_agent (a := 72) rfl rfl ?_ (.inl rfl)) (by omega)
  exact (Block.mbxPlace_shared (by omega) (by omega)).trans ((Block.mbxShared_force hoff hk).trans (if_pos rfl))

end

/-- Settles O36: an access of the mailbox block reaches the place that its offset names, or is refused to the agent; the command written there picks the branch. -/
theorem governorRows : Obligations.GovernorRows := by
  unfold Obligations.GovernorRows
  refine ⟨?_, ?_, ?_, ?_, ?_, ?_, ?_, ?_, ?_, ?_, ?_, ?_, ?_, ?_, ?_, ?_, ?_, ?_, ?_, ?_, ?_, ?_, ?_, ?_, ?_, ?_, ?_, ?_, ?_, ?_, ?_, ?_, ?_, ?_, ?_, ?_, ?_, ?_, ?_⟩
  -- `lockstepMismatch`
  · intro s b c hon hgov
    refine (onBlk_next hon ?_ : execLockstepMismatch s = _)
    exact if_neg (by grind)
  · intro s b hgov
    refine (onBlk_unchanged (fun _ => ?_) : execLockstepMismatch s = _)
    exact if_pos (by grind)
  -- `governorSramError`
  · intro s correctable entry b hgov
    exact (onGov_halted hgov : execGovernorSramError correctable entry s = _)
  · intro s correctable entry b hon hgov hcorrectable
    refine (onGov_next hon hgov ?_ : execGovernorSramError correctable entry s = _)
    exact if_pos hcorrectable
  · intro s correctable entry b hon hgov hcorrectable hentry
    refine (onGov_next hon hgov ?_ : execGovernorSramError correctable entry s = _)
    refine (if_neg (by simp [hcorrectable])).trans ?_
    simp [hentry]
  · intro s correctable entry k b hon hgov hcorrectable hentry
    refine (onGov_next hon hgov ?_ : execGovernorSramError correctable entry s = _)
    refine (if_neg (by simp [hcorrectable])).trans ?_
    simp [hentry]
  -- `millraceProbe`
  · intro s ok b hgov
    exact (onGov_halted hgov : execMillraceProbe ok s = _)
  · intro s ok b hon hgov hok
    refine (onGov_next hon hgov ?_ : execMillraceProbe ok s = _)
    exact if_pos hok
  · intro s ok b c hon hgov hok hgov2
    refine (onGov_next hon hgov ?_ : execMillraceProbe ok s = _)
    refine (if_neg (by simp [hok])).trans ?_
    exact if_pos (by grind)
  · intro s ok b c hon hgov hok hgov2
    refine (onGov_next hon hgov ?_ : execMillraceProbe ok s = _)
    refine (if_neg (by simp [hok])).trans ?_
    exact if_neg (by grind)
  -- `mirrorRefresh`
  · intro s b hon hgov
    refine (onBlk_next hon ?_ : execMirrorRefresh s = _)
    exact if_neg (by simp [hgov])
  · intro s b hgov
    refine (onBlk_unchanged (fun _ => ?_) : execMirrorRefresh s = _)
    exact if_pos hgov
  -- `postMsg`
  · intro s mid part set recv len b off hon hrecv hmatch
    have hoff : off = 0x2000 * (set % 2) + 0x40 * (recv % 128) + 0x38 := by
      dsimp only [off]
      omega
    refine (onBlk_next hon ?_ : execPostMsg mid part set recv len s = _)
    refine (congrArg (fun o => b.mbxRow mid part o (len % 64 * 256 + 1)) hoff.symm).trans ?_
    exact Block.chanCmd_refused (b := b) (x := set % 2) (r := recv % 128) (sender := true) (by omega) (Nat.mod_lt set (by decide)) hrecv (fun a => (Block.mbxPlace_send hoff (Nat.mod_lt set (by decide)) (Nat.mod_lt recv (by decide))).trans (if_pos hrecv)) fun a ha => by rw [ha] at hmatch; exact hmatch
  · intro s mid part set recv len b off hon hrecv hmatch
    have hoff : off = 0x2000 * (set % 2) + 0x40 * (recv % 128) + 0x38 := by
      dsimp only [off]
      omega
    refine (onBlk_next hon ?_ : execPostMsg mid part set recv len s = _)
    refine (congrArg (fun o => b.mbxRow mid part o (len % 64 * 256 + 1)) hoff.symm).trans ?_
    exact Block.noChan_refused (b := b) (by omega) (fun a => (Block.mbxPlace_send hoff (Nat.mod_lt set (by decide)) (Nat.mod_lt recv (by decide))).trans (if_neg (Nat.not_lt.mpr hrecv))) fun a ha => by simpa [ha] using hmatch
  · intro s mid part set recv len b off hon hrecv hmatch
    have hoff : off = 0x2000 * (set % 2) + 0x40 * (recv % 128) + 0x38 := by
      dsimp only [off]
      omega
    refine (onBlk_next hon ?_ : execPostMsg mid part set recv len s = _)
    refine (congrArg (fun o => b.mbxRow mid part o (len % 64 * 256 + 1)) hoff.symm).trans ?_
    cases ha : agentOf mid part with
    | none => rw [ha] at hmatch; cases hmatch
    | some a =>
      rw [ha] at hmatch
      exact Block.noChan_bad (b := b) ha (by simpa using hmatch) ((Block.mbxPlace_send hoff (Nat.mod_lt set (by decide)) (Nat.mod_lt recv (by decide))).trans (if_neg (Nat.not_lt.mpr hrecv)))
  · intro s mid part set recv len a b off k hon hrecv hagentOf hrestricted hset hchan
    have hoff : off = 0x2000 * (set % 2) + 0x40 * (recv % 128) + 0x38 := by
      dsimp only [off]
      omega
    refine (onBlk_next hon ?_ : execPostMsg mid part set recv len s = _)
    refine (congrArg (fun o => b.mbxRow mid part o (len % 64 * 256 + 1)) hoff.symm).trans ?_
    refine (Block.chanCmd_taken (b := b) (x := set % 2) (r := recv % 128) (sender := true) (Nat.mod_lt set (by decide)) hrecv hagentOf hrestricted hset (by omega) ((Block.mbxPlace_send hoff (Nat.mod_lt set (by decide)) (Nat.mod_lt recv (by decide))).trans (if_pos hrecv))).trans ?_
    exact (Block.chanCmd_post (b := b) (Nat.mod_lt len (by decide))).trans (Block.post_refused hchan)
  · intro s mid part set recv len a b off k hon hrecv hagentOf hrestricted hset hchan hturnMode
    have hoff : off = 0x2000 * (set % 2) + 0x40 * (recv % 128) + 0x38 := by
      dsimp only [off]
      omega
    refine (onBlk_next hon ?_ : execPostMsg mid part set recv len s = _)
    refine (congrArg (fun o => b.mbxRow mid part o (len % 64 * 256 + 1)) hoff.symm).trans ?_
    refine (Block.chanCmd_taken (b := b) (x := set % 2) (r := recv % 128) (sender := true) (Nat.mod_lt set (by decide)) hrecv hagentOf hrestricted hset (by omega) ((Block.mbxPlace_send hoff (Nat.mod_lt set (by decide)) (Nat.mod_lt recv (by decide))).trans (if_pos hrecv))).trans ?_
    refine (Block.chanCmd_post (b := b) (Nat.mod_lt len (by decide))).trans ((Block.post_taken hchan).trans ?_)
    rw [hturnMode]
    rfl
  · intro s mid part set recv len a b off k hon hrecv hagentOf hrestricted hset hchan hturnMode
    have hoff : off = 0x2000 * (set % 2) + 0x40 * (recv % 128) + 0x38 := by
      dsimp only [off]
      omega
    refine (onBlk_next hon ?_ : execPostMsg mid part set recv len s = _)
    refine (congrArg (fun o => b.mbxRow mid part o (len % 64 * 256 + 1)) hoff.symm).trans ?_
    refine (Block.chanCmd_taken (b := b) (x := set % 2) (r := recv % 128) (sender := true) (Nat.mod_lt set (by decide)) hrecv hagentOf hrestricted hset (by omega) ((Block.mbxPlace_send hoff (Nat.mod_lt set (by decide)) (Nat.mod_lt recv (by decide))).trans (if_pos hrecv))).trans ?_
    refine (Block.chanCmd_post (b := b) (Nat.mod_lt len (by decide))).trans ((Block.post_taken hchan).trans ?_)
    rw [hturnMode]
    rfl
  -- `ackMsg`
  · intro s mid part set send b off hon hsend hmatch
    have hoff : off = 0x10000 + 0x2000 * (set % 2) + 0x40 * (send % 128) + 0x38 := rfl
    refine (onBlk_next hon ?_ : execAckMsg mid part set send s = _)
    exact Block.chanCmd_refused (b := b) (x := set % 2) (r := send % 128) (sender := false) (by omega) (Nat.mod_lt set (by decide)) hsend (fun a => (Block.mbxPlace_recv hoff (Nat.mod_lt set (by decide)) (Nat.mod_lt send (by decide))).trans (if_pos hsend)) fun a ha => by rw [ha] at hmatch; exact hmatch
  · intro s mid part set send b off hon hsend hmatch
    have hoff : off = 0x10000 + 0x2000 * (set % 2) + 0x40 * (send % 128) + 0x38 := rfl
    refine (onBlk_next hon ?_ : execAckMsg mid part set send s = _)
    exact Block.noChan_refused (b := b) (by omega) (fun a => (Block.mbxPlace_recv hoff (Nat.mod_lt set (by decide)) (Nat.mod_lt send (by decide))).trans (if_neg (Nat.not_lt.mpr hsend))) fun a ha => by simpa [ha] using hmatch
  · intro s mid part set send b off hon hsend hmatch
    have hoff : off = 0x10000 + 0x2000 * (set % 2) + 0x40 * (send % 128) + 0x38 := rfl
    refine (onBlk_next hon ?_ : execAckMsg mid part set send s = _)
    cases ha : agentOf mid part with
    | none => rw [ha] at hmatch; cases hmatch
    | some a =>
      rw [ha] at hmatch
      exact Block.noChan_bad (b := b) ha (by simpa using hmatch) ((Block.mbxPlace_recv hoff (Nat.mod_lt set (by decide)) (Nat.mod_lt send (by decide))).trans (if_neg (Nat.not_lt.mpr hsend)))
  · intro s mid part set send a b off k c hon hsend hagentOf hrestricted hset hchan
    have hoff : off = 0x10000 + 0x2000 * (set % 2) + 0x40 * (send % 128) + 0x38 := rfl
    refine (onBlk_next hon ?_ : execAckMsg mid part set send s = _)
    refine (Block.chanCmd_taken (b := b) (x := set % 2) (r := send % 128) (sender := false) (Nat.mod_lt set (by decide)) hsend hagentOf hrestricted hset (by omega) ((Block.mbxPlace_recv hoff (Nat.mod_lt set (by decide)) (Nat.mod_lt send (by decide))).trans (if_pos hsend))).trans ?_
    exact if_pos hchan
  · intro s mid part set send a b off k hon hsend hagentOf hrestricted hset hchan
    have hoff : off = 0x10000 + 0x2000 * (set % 2) + 0x40 * (send % 128) + 0x38 := rfl
    refine (onBlk_next hon ?_ : execAckMsg mid part set send s = _)
    refine (Block.chanCmd_taken (b := b) (x := set % 2) (r := send % 128) (sender := false) (Nat.mod_lt set (by decide)) hsend hagentOf hrestricted hset (by omega) ((Block.mbxPlace_recv hoff (Nat.mod_lt set (by decide)) (Nat.mod_lt send (by decide))).trans (if_pos hsend))).trans ?_
    exact if_neg hchan
  -- `ackabort`
  · intro s mid part set recv b off hon hrecv hmatch
    have hoff : off = 0x2000 * (set % 2) + 0x40 * (recv % 128) + 0x38 := by
      dsimp only [off]
      omega
    refine (onBlk_next hon ?_ : execAckabort mid part set recv s = _)
    refine (congrArg (fun o => b.mbxRow mid part o (3)) hoff.symm).trans ?_
    exact Block.chanCmd_refused (b := b) (x := set % 2) (r := recv % 128) (sender := true) (by omega) (Nat.mod_lt set (by decide)) hrecv (fun a => (Block.mbxPlace_send hoff (Nat.mod_lt set (by decide)) (Nat.mod_lt recv (by decide))).trans (if_pos hrecv)) fun a ha => by rw [ha] at hmatch; exact hmatch
  · intro s mid part set recv b off hon hrecv hmatch
    have hoff : off = 0x2000 * (set % 2) + 0x40 * (recv % 128) + 0x38 := by
      dsimp only [off]
      omega
    refine (onBlk_next hon ?_ : execAckabort mid part set recv s = _)
    refine (congrArg (fun o => b.mbxRow mid part o (3)) hoff.symm).trans ?_
    exact Block.noChan_refused (b := b) (by omega) (fun a => (Block.mbxPlace_send hoff (Nat.mod_lt set (by decide)) (Nat.mod_lt recv (by decide))).trans (if_neg (Nat.not_lt.mpr hrecv))) fun a ha => by simpa [ha] using hmatch
  · intro s mid part set recv b off hon hrecv hmatch
    have hoff : off = 0x2000 * (set % 2) + 0x40 * (recv % 128) + 0x38 := by
      dsimp only [off]
      omega
    refine (onBlk_next hon ?_ : execAckabort mid part set recv s = _)
    refine (congrArg (fun o => b.mbxRow mid part o (3)) hoff.symm).trans ?_
    cases ha : agentOf mid part with
    | none => rw [ha] at hmatch; cases hmatch
    | some a =>
      rw [ha] at hmatch
      exact Block.noChan_bad (b := b) ha (by simpa using hmatch) ((Block.mbxPlace_send hoff (Nat.mod_lt set (by decide)) (Nat.mod_lt recv (by decide))).trans (if_neg (Nat.not_lt.mpr hrecv)))
  · intro s mid part set recv a b off k hon hrecv hagentOf hrestricted hset hchan
    have hoff : off = 0x2000 * (set % 2) + 0x40 * (recv % 128) + 0x38 := by
      dsimp only [off]
      omega
    refine (onBlk_next hon ?_ : execAckabort mid part set recv s = _)
    refine (congrArg (fun o => b.mbxRow mid part o (3)) hoff.symm).trans ?_
    refine (Block.chanCmd_taken (b := b) (x := set % 2) (r := recv % 128) (sender := true) (Nat.mod_lt set (by decide)) hrecv hagentOf hrestricted hset (by omega) ((Block.mbxPlace_send hoff (Nat.mod_lt set (by decide)) (Nat.mod_lt recv (by decide))).trans (if_pos hrecv))).trans ?_
    exact if_pos (by simpa using hchan)
  · intro s mid part set recv a b off k hon hrecv hagentOf hrestricted hset hchan
    have hoff : off = 0x2000 * (set % 2) + 0x40 * (recv % 128) + 0x38 := by
      dsimp only [off]
      omega
    refine (onBlk_next hon ?_ : execAckabort mid part set recv s = _)
    refine (congrArg (fun o => b.mbxRow mid part o (3)) hoff.symm).trans ?_
    refine (Block.chanCmd_taken (b := b) (x := set % 2) (r := recv % 128) (sender := true) (Nat.mod_lt set (by decide)) hrecv hagentOf hrestricted hset (by omega) ((Block.mbxPlace_send hoff (Nat.mod_lt set (by decide)) (Nat.mod_lt recv (by decide))).trans (if_pos hrecv))).trans ?_
    exact if_neg (by simpa using hchan)
  -- `lockAcquire`
  · intro s mid part k b off hon hmatch
    have hloc {write : Bool} : b.mbxLoc mid part off write = .refused :=
      Block.mbxLoc_lock_refused rfl (Nat.mod_lt k (by decide)) (fun hmid => by subst hmid; cases hmatch) fun a ha => by simpa [ha] using hmatch
    refine (onBlk_next hon ?_ : execLockAcquire mid part k s = _)
    rw [Block.mbxRead_refused hloc]
  · intro s mid part k b off hon hmatch hlockHolder
    have hloc {write : Bool} : b.mbxLoc mid part off write = .lock (k % 256) :=
      Block.mbxLoc_lock rfl (Nat.mod_lt k (by decide)) (fun ha => by simpa [ha] using hmatch) fun a ha => by simpa [ha] using hmatch
    refine (onBlk_next hon ?_ : execLockAcquire mid part k s = _)
    rw [Block.mbxRead_lock hloc (show off % 4 = 0 by dsimp only [off]; omega), Block.lockRead, hlockHolder]
  · intro s mid part k m b off hon hmatch hlockHolder
    have hloc {write : Bool} : b.mbxLoc mid part off write = .lock (k % 256) :=
      Block.mbxLoc_lock rfl (Nat.mod_lt k (by decide)) (fun ha => by simpa [ha] using hmatch) fun a ha => by simpa [ha] using hmatch
    refine (onBlk_next hon ?_ : execLockAcquire mid part k s = _)
    rw [Block.mbxRead_lock hloc (show off % 4 = 0 by dsimp only [off]; omega), Block.lockRead, hlockHolder]
  -- `lockRelease`
  · intro s mid part k value b off hon hmatch
    have hloc {write : Bool} : b.mbxLoc mid part off write = .refused :=
      Block.mbxLoc_lock_refused rfl (Nat.mod_lt k (by decide)) (fun hmid => by subst hmid; cases hmatch) fun a ha => by simpa [ha] using hmatch
    refine (onBlk_next hon ?_ : execLockRelease mid part k value s = _)
    exact Block.mbxRow_refused hloc
  · intro s mid part k value b off hon hmatch hlockHolder
    have hloc {write : Bool} : b.mbxLoc mid part off write = .lock (k % 256) :=
      Block.mbxLoc_lock rfl (Nat.mod_lt k (by decide)) (fun ha => by simpa [ha] using hmatch) fun a ha => by simpa [ha] using hmatch
    refine (onBlk_next hon ?_ : execLockRelease mid part k value s = _)
    exact (Block.mbxRow_lock hloc (show off % 4 = 0 by dsimp only [off]; omega)).trans (if_pos hlockHolder)
  · intro s mid part k value b off hon hmatch hlockHolder hvalue
    have hloc {write : Bool} : b.mbxLoc mid part off write = .lock (k % 256) :=
      Block.mbxLoc_lock rfl (Nat.mod_lt k (by decide)) (fun ha => by simpa [ha] using hmatch) fun a ha => by simpa [ha] using hmatch
    refine (onBlk_next hon ?_ : execLockRelease mid part k value s = _)
    exact (Block.mbxRow_lock hloc (show off % 4 = 0 by dsimp only [off]; omega)).trans ((if_neg (not_not_intro hlockHolder)).trans (if_pos hvalue))
  · intro s mid part k value b off hmatch hlockHolder hvalue
    have hloc {write : Bool} : b.mbxLoc mid part off write = .lock (k % 256) :=
      Block.mbxLoc_lock rfl (Nat.mod_lt k (by decide)) (fun ha => by simpa [ha] using hmatch) fun a ha => by simpa [ha] using hmatch
    refine (onBlk_unchanged (fun _ => ?_) : execLockRelease mid part k value s = _)
    exact (Block.mbxRow_lock hloc (show off % 4 = 0 by dsimp only [off]; omega)).trans ((if_neg (not_not_intro hlockHolder)).trans (if_neg hvalue))
  -- `lockForceRelease`
  · intro s mid part k value b off hon hmatch
    have hloc : b.mbxLoc mid part off true = .refused := by
      refine Block.mbxLoc_refused (fun hmid => ?_) fun a ha => .inl ⟨by simpa [ha] using hmatch, .inl rfl⟩
      subst hmid
      exact (Block.mbxShared_force rfl (Nat.mod_lt k (by decide))).trans (if_neg (by decide))
    refine (onBlk_next hon ?_ : execLockForceRelease mid part k value s = _)
    exact Block.mbxRow_refused hloc
  · intro s mid part k value b off hon hmatch hmid
    refine (onBlk_next hon ?_ : execLockForceRelease mid part k value s = _)
    cases ha : agentOf mid part with
    | none => rw [ha] at hmatch; cases hmatch
    | some a =>
      rw [ha] at hmatch
      refine Block.mbxRow_bad (Block.mbxLoc_agent ha (by simpa using hmatch) ?_ (.inl rfl))
      refine (Block.mbxPlace_shared (off := off) (by dsimp only [off]; omega) (by dsimp only [off]; omega)).trans ?_
      exact (Block.mbxShared_force rfl (Nat.mod_lt k (by decide))).trans (if_neg hmid)
  · intro s mid part k value b off hon hmid hvalue
    refine (onBlk_next hon ?_ : execLockForceRelease mid part k value s = _)
    exact (Block.mbxRow_force_gov rfl (Nat.mod_lt k (by decide)) hmid).trans (if_pos (by simpa using hvalue))
  · intro s mid part k value b off hmid hvalue
    refine (onBlk_unchanged (fun _ => ?_) : execLockForceRelease mid part k value s = _)
    exact (Block.mbxRow_force_gov rfl (Nat.mod_lt k (by decide)) hmid).trans (if_neg (by simpa using hvalue))

end Sys2Proof.Machine
end

section
/-! PROOFS. Time, DoIP and UDS. -/

namespace Sys2Proof.Machine

/-- Settles O41: a request of an active connection is taken by its service, whose checks pick the branch. -/
theorem diagnostics : Obligations.Diagnostics := by
  unfold Obligations.Diagnostics
  refine ⟨?_, ?_, ?_, ?_, ?_, ?_, ?_, ?_, ?_, ?_, ?_, ?_, ?_, ?_, ?_, ?_, ?_, ?_, ?_, ?_, ?_, ?_, ?_, ?_, ?_, ?_, ?_, ?_, ?_, ?_, ?_, ?_, ?_, ?_, ?_, ?_, ?_, ?_, ?_, ?_, ?_, ?_, ?_, ?_, ?_, ?_, ?_, ?_, ?_, ?_, ?_, ?_, ?_, ?_, ?_, ?_, ?_, ?_, ?_, ?_, ?_, ?_, ?_, ?_, ?_, ?_, ?_, ?_, ?_, ?_, ?_, ?_, ?_, ?_⟩
  -- `timeSyncLoss`
  · intro s b c hon hactN
    refine (onBlk_next hon ?_ : execTimeSyncLoss s = _)
    exact if_neg (by simp [hactN])
  · intro s b hactN
    refine (onBlk_unchanged (fun _ => ?_) : execTimeSyncLoss s = _)
    exact if_pos (by grind)
  -- `syncAndFollowUp`
  · intro s b hon hactN
    refine (onBlk_next hon ?_ : execSyncAndFollowUp s = _)
    exact if_neg (by simp [hactN])
  · intro s b hactN
    refine (onBlk_unchanged (fun _ => ?_) : execSyncAndFollowUp s = _)
    exact if_pos (by grind)
  -- `routingActivation`
  · intro s conn src kind b hactN
    refine (onBlk_unchanged (fun _ => ?_) : execRoutingActivation conn src kind s = _)
    exact if_pos (by grind)
  · intro s conn src kind b hon hactN hdoipOn
    refine (onBlk_next hon ?_ : execRoutingActivation conn src kind s = _)
    refine (if_neg (by simp [hactN])).trans ?_
    exact if_pos (by simp [hdoipOn])
  · intro s conn src kind b hon hdoipOn hkind
    obtain ⟨hact, -, hboot, htrip⟩ := Block.doipOn_iff.mp hdoipOn
    refine (onBlk_next hon ?_ : execRoutingActivation conn src kind s = _)
    refine (if_neg (by simp [hact, hboot, htrip])).trans ?_
    refine (if_neg (by simp [hdoipOn])).trans ?_
    exact if_pos (by simpa using hkind)
  · intro s conn src kind b hon hdoipOn hkind hkind2
    obtain ⟨hact, -, hboot, htrip⟩ := Block.doipOn_iff.mp hdoipOn
    refine (onBlk_next hon ?_ : execRoutingActivation conn src kind s = _)
    refine (if_neg (by simp [hact, hboot, htrip])).trans ?_
    refine (if_neg (by simp [hdoipOn])).trans ?_
    exact if_neg (by simp [hkind, hkind2])
  -- `diagnosticSessionControl`
  · intro s conn req b hdoipOn
    exact (uds_silent (b := b) hdoipOn : execDiagnosticSessionControl conn req s = _)
  · intro s conn req b hon hdoipOn hreq
    refine (uds_next (b := b) hon hdoipOn ?_ : execDiagnosticSessionControl conn req s = _)
    exact if_pos hreq
  · intro s conn req b hon hdoipOn hreq hsubFn
    refine (uds_next (b := b) hon hdoipOn ?_ : execDiagnosticSessionControl conn req s = _)
    refine (if_neg (by simp [hreq])).trans ?_
    exact if_pos (by simp [hsubFn])
  · intro s conn req b r hon hdoipOn hreq hsubFn hgov
    refine (uds_next (b := b) hon hdoipOn ?_ : execDiagnosticSessionControl conn req s = _)
    refine (if_neg (by simp [hreq])).trans ?_
    refine (if_neg (by simp [hsubFn])).trans ?_
    refine (if_pos hsubFn).trans ?_
    simp [hgov, r]
  · intro s conn req b r hon hdoipOn hreq hsubFn hgov
    refine (uds_next (b := b) hon hdoipOn ?_ : execDiagnosticSessionControl conn req s = _)
    refine (if_neg (by simp [hreq])).trans ?_
    refine (if_neg (by simp [hsubFn])).trans ?_
    refine (if_pos hsubFn).trans ?_
    simp [hgov, r]
  · intro s conn req b hon hdoipOn hreq hsubFn
    refine (uds_next (b := b) hon hdoipOn ?_ : execDiagnosticSessionControl conn req s = _)
    refine (if_neg (by simp [hreq])).trans ?_
    refine (if_neg (by grind)).trans ?_
    exact if_neg (by grind)
  -- `ecuReset`
  · intro s conn req b hdoipOn
    exact (uds_silent (b := b) hdoipOn : execEcuReset conn req s = _)
  · intro s conn req b hon hdoipOn hreq
    refine (uds_next (b := b) hon hdoipOn ?_ : execEcuReset conn req s = _)
    exact if_pos hreq
  · intro s conn req b hon hdoipOn hreq hsubFn
    refine (uds_next (b := b) hon hdoipOn ?_ : execEcuReset conn req s = _)
    refine (if_neg (by simp [hreq])).trans ?_
    exact if_pos hsubFn
  · intro s conn req b hon hdoipOn hreq hsubFn hgov
    refine (uds_next (b := b) hon hdoipOn ?_ : execEcuReset conn req s = _)
    refine (if_neg (by simp [hreq])).trans ?_
    refine (if_neg (by simp [hsubFn])).trans ?_
    exact if_pos (by grind)
  · intro s conn req b hon hdoipOn hreq hsubFn hgov
    refine (uds_next (b := b) hon hdoipOn ?_ : execEcuReset conn req s = _)
    refine (if_neg (by simp [hreq])).trans ?_
    refine (if_neg (by simp [hsubFn])).trans ?_
    exact if_neg (by simp [hgov])
  -- `testerPresent`
  · intro s conn req b hdoipOn
    exact (uds_silent (b := b) hdoipOn : execTesterPresent conn req s = _)
  · intro s conn req b hon hdoipOn hreq
    refine (uds_next (b := b) hon hdoipOn ?_ : execTesterPresent conn req s = _)
    exact if_pos hreq
  · intro s conn req b hon hdoipOn hreq hsubFn
    refine (uds_next (b := b) hon hdoipOn ?_ : execTesterPresent conn req s = _)
    refine (if_neg (by simp [hreq])).trans ?_
    exact if_pos hsubFn
  · intro s conn req b hon hdoipOn hreq hsubFn
    refine (uds_next (b := b) hon hdoipOn ?_ : execTesterPresent conn req s = _)
    refine (if_neg (by simp [hreq])).trans ?_
    exact if_neg (by simp [hsubFn])
  -- `udsUnsupportedService`
  · intro s conn sid b hdoipOn
    exact (uds_silent (b := b) hdoipOn : execUdsUnsupportedService conn sid s = _)
  · intro s conn sid b hon hdoipOn
    refine (uds_next (b := b) hon hdoipOn ?_ : execUdsUnsupportedService conn sid s = _)
    rfl
  -- `clearDiagnosticInformation`
  · intro s conn req b hdoipOn
    exact (uds_silent (b := b) hdoipOn : execClearDiagnosticInformation conn req s = _)
  · intro s conn req b hon hdoipOn hreq
    refine (uds_next (b := b) hon hdoipOn ?_ : execClearDiagnosticInformation conn req s = _)
    exact if_pos hreq
  · intro s conn req b hon hdoipOn hreq hbeNat
    refine (uds_next (b := b) hon hdoipOn ?_ : execClearDiagnosticInformation conn req s = _)
    refine (if_neg (by simp [hreq])).trans ?_
    exact if_pos hbeNat
  · intro s conn req b hon hdoipOn hreq hbeNat
    refine (uds_next (b := b) hon hdoipOn ?_ : execClearDiagnosticInformation conn req s = _)
    refine (if_neg (by simp [hreq])).trans ?_
    refine (if_neg (by grind)).trans ?_
    exact if_pos hbeNat
  · intro s conn req b hon hdoipOn hreq hbeNat hbeNat2
    refine (uds_next (b := b) hon hdoipOn ?_ : execClearDiagnosticInformation conn req s = _)
    refine (if_neg (by simp [hreq])).trans ?_
    refine (if_neg hbeNat).trans ?_
    exact if_neg hbeNat2
  -- `readDtcInformation`
  · intro s conn req b hdoipOn
    exact (uds_silent (b := b) hdoipOn : execReadDtcInformation conn req s = _)
  · intro s conn req b l hon hdoipOn hreq hsubFn
    refine (uds_next (b := b) hon hdoipOn ?_ : execReadDtcInformation conn req s = _)
    exact if_pos (by simp [hreq, hsubFn])
  · intro s conn req b l hon hdoipOn hreq hsubFn
    refine (uds_next (b := b) hon hdoipOn ?_ : execReadDtcInformation conn req s = _)
    refine (if_neg (by simp [hsubFn])).trans ?_
    exact if_pos (by simp [hreq, hsubFn])
  · intro s conn req b hon hdoipOn hreq hsubFn
    refine (uds_next (b := b) hon hdoipOn ?_ : execReadDtcInformation conn req s = _)
    refine (if_neg (by simp [hsubFn])).trans ?_
    refine (if_neg (by simp [hsubFn])).trans ?_
    exact if_pos (by simp [hreq, hsubFn])
  · intro s conn req b hon hdoipOn hsubFn
    refine (uds_next (b := b) hon hdoipOn ?_ : execReadDtcInformation conn req s = _)
    refine (if_neg (by grind)).trans ?_
    refine (if_neg (by grind)).trans ?_
    refine (if_neg (by grind)).trans ?_
    exact if_pos (by grind)
  · intro s conn req b hon hdoipOn hsubFn hsubFn2 hsubFn3
    refine (uds_next (b := b) hon hdoipOn ?_ : execReadDtcInformation conn req s = _)
    refine (if_neg (by simp [hsubFn])).trans ?_
    refine (if_neg (by simp [hsubFn2])).trans ?_
    refine (if_neg (by simp [hsubFn3])).trans ?_
    exact if_neg (by simp [hsubFn, hsubFn2, hsubFn3])
  -- `controlDtcSetting`
  · intro s conn req b hdoipOn
    exact (uds_silent (b := b) hdoipOn : execControlDtcSetting conn req s = _)
  · intro s conn req b hon hdoipOn hreq
    refine (uds_next (b := b) hon hdoipOn ?_ : execControlDtcSetting conn req s = _)
    exact if_pos (by simp [hreq])
  · intro s conn req b hon hdoipOn hreq hsubFn
    refine (uds_next (b := b) hon hdoipOn ?_ : execControlDtcSetting conn req s = _)
    refine (if_neg (by simp [hreq])).trans ?_
    refine (if_pos hsubFn).trans ?_
    refine congrArg (Block.udsSubOk _ _ _) ?_
    rfl
  · intro s conn req b hon hdoipOn hreq hsubFn
    refine (uds_next (b := b) hon hdoipOn ?_ : execControlDtcSetting conn req s = _)
    refine (if_neg (by simp [hreq])).trans ?_
    refine (if_neg (by simp [hsubFn])).trans ?_
    refine (if_pos hsubFn).trans ?_
    refine congrArg (Block.udsSubOk _ _ _) ?_
    rfl
  · intro s conn req b hon hdoipOn hreq hsubFn hsubFn2
    refine (uds_next (b := b) hon hdoipOn ?_ : execControlDtcSetting conn req s = _)
    refine (if_neg (by simp [hreq])).trans ?_
    refine (if_neg hsubFn).trans ?_
    exact if_neg hsubFn2
  -- `readDataByIdentifier`
  · intro s conn req b hdoipOn
    exact (uds_silent (b := b) hdoipOn : execReadDataByIdentifier conn req s = _)
  · intro s conn req b hon hdoipOn hreq
    refine (uds_next (b := b) hon hdoipOn ?_ : execReadDataByIdentifier conn req s = _)
    exact if_pos (by grind)
  · intro s conn req b d hon hdoipOn hreq hcond
    refine (uds_next (b := b) hon hdoipOn ?_ : execReadDataByIdentifier conn req s = _)
    refine (if_neg (by simp [hreq])).trans ?_
    exact if_pos (by simp [hcond, d])
  · intro s conn req b d hon hdoipOn hreq hcond
    refine (uds_next (b := b) hon hdoipOn ?_ : execReadDataByIdentifier conn req s = _)
    refine (if_neg (by simp [hreq])).trans ?_
    exact if_neg (by simp [hcond, d])
  -- `routineControl`
  · intro s conn req b hdoipOn
    exact (uds_silent (b := b) hdoipOn : execRoutineControl conn req s = _)
  · intro s conn req b hon hdoipOn hreq
    refine (uds_next (b := b) hon hdoipOn ?_ : execRoutineControl conn req s = _)
    exact if_pos hreq
  · intro s conn req b hon hdoipOn hreq hsubFn
    refine (uds_next (b := b) hon hdoipOn ?_ : execRoutineControl conn req s = _)
    refine (if_neg (by simp [hreq])).trans ?_
    exact if_pos hsubFn
  · intro s conn req b hon hdoipOn hreq hsubFn hbeNat
    refine (uds_next (b := b) hon hdoipOn ?_ : execRoutineControl conn req s = _)
    refine (if_neg (by simp [hreq])).trans ?_
    refine (if_neg (by simp [hsubFn])).trans ?_
    exact if_pos hbeNat
  · intro s conn req b hon hdoipOn hreq hsubFn hbeNat hreq2
    refine (uds_next (b := b) hon hdoipOn ?_ : execRoutineControl conn req s = _)
    refine (if_neg (by simp [hreq])).trans ?_
    refine (if_neg (by simp [hsubFn])).trans ?_
    refine (if_neg (by simp [hbeNat])).trans ?_
    exact if_pos hreq2
  · intro s conn req b v idx sub q hon hdoipOn hreq hsubFn hbeNat hgranted
    refine (uds_next (b := b) hon hdoipOn ?_ : execRoutineControl conn req s = _)
    refine (if_neg (by simp [hreq])).trans ?_
    refine (if_neg (by simp [hsubFn])).trans ?_
    refine (if_neg (by simp [hbeNat])).trans ?_
    refine (if_neg (by simp [hreq])).trans ?_
    simp [v, idx, sub]
  · intro s conn req b v idx sub q hon hdoipOn hreq hsubFn hbeNat hgranted hcond
    refine (uds_next (b := b) hon hdoipOn ?_ : execRoutineControl conn req s = _)
    refine (if_neg (by simp [hreq])).trans ?_
    refine (if_neg (by simp [hsubFn])).trans ?_
    refine (if_neg (by simp [hbeNat])).trans ?_
    refine (if_neg (by simp [hreq])).trans ?_
    simp [hgranted, hcond, v, idx, sub, q]
  · intro s conn req b v idx sub q hon hdoipOn hreq hsubFn hbeNat hgranted hcond
    refine (uds_next (b := b) hon hdoipOn ?_ : execRoutineControl conn req s = _)
    refine (if_neg (by simp [hreq])).trans ?_
    refine (if_neg (by simp [hsubFn])).trans ?_
    refine (if_neg (by simp [hbeNat])).trans ?_
    refine (if_neg (by simp [hreq])).trans ?_
    simp [hgranted, hcond, v, idx, sub, q]
  -- `udsAuthentication`
  · intro s conn req b hdoipOn
    exact (uds_silent (b := b) hdoipOn : execUdsAuthentication conn req s = _)
  · intro s conn req b hon hdoipOn hgov
    refine (uds_next (b := b) hon hdoipOn ?_ : execUdsAuthentication conn req s = _)
    exact if_pos (by grind)
  · intro s conn req b hon hdoipOn hgov hsubFn hlockedOut
    refine (uds_next (b := b) hon hdoipOn ?_ : execUdsAuthentication conn req s = _)
    refine (if_neg (by simp [hgov])).trans ?_
    grind
  · intro s conn req b q hon hdoipOn hgov hsubFn hlockedOut
    refine (uds_next (b := b) hon hdoipOn ?_ : execUdsAuthentication conn req s = _)
    refine (if_neg (by simp [hgov])).trans ?_
    refine (if_pos hsubFn).trans ?_
    exact if_neg (ne_true_of_eq_false hlockedOut)
  · intro s conn req b q hon hdoipOn hgov hsubFn hlockedOut hcond
    refine (uds_next (b := b) hon hdoipOn ?_ : execUdsAuthentication conn req s = _)
    refine (if_neg (by simp [hgov])).trans ?_
    refine (if_neg (by simp [hsubFn])).trans ?_
    refine (if_pos hsubFn).trans ?_
    refine (if_neg (ne_true_of_eq_false hlockedOut)).trans ?_
    exact if_neg hcond
  · intro s conn req b q hon hdoipOn hgov hsubFn hlockedOut hcond
    refine (uds_next (b := b) hon hdoipOn ?_ : execUdsAuthentication conn req s = _)
    refine (if_neg (by simp [hgov])).trans ?_
    refine (if_neg (by simp [hsubFn])).trans ?_
    refine (if_pos hsubFn).trans ?_
    refine (if_neg (ne_true_of_eq_false hlockedOut)).trans ?_
    exact if_pos hcond
  · intro s conn req b hon hdoipOn hgov hsubFn
    refine (uds_next (b := b) hon hdoipOn ?_ : execUdsAuthentication conn req s = _)
    refine (if_neg (by simp [hgov])).trans ?_
    refine (if_neg (by simp [hsubFn])).trans ?_
    refine (if_neg (by simp [hsubFn])).trans ?_
    refine (if_pos hsubFn).trans ?_
    refine congrArg (Block.udsSubOk _ _ _) ?_
    rfl
  · intro s conn req b hon hdoipOn hgov hsubFn hsubFn2 hsubFn3
    refine (uds_next (b := b) hon hdoipOn ?_ : execUdsAuthentication conn req s = _)
    refine (if_neg (by simp [hgov])).trans ?_
    refine (if_neg hsubFn2).trans ?_
    refine (if_neg hsubFn3).trans ?_
    exact if_neg hsubFn
  -- `requestDownload`
  · intro s conn req b hdoipOn
    exact (uds_silent (b := b) hdoipOn : execRequestDownload conn req s = _)
  · intro s conn req b hon hdoipOn hgov
    refine (uds_next (b := b) hon hdoipOn ?_ : execRequestDownload conn req s = _)
    exact if_pos hgov
  · intro s conn req b q hon hdoipOn hgov hcond
    refine (uds_next (b := b) hon hdoipOn ?_ : execRequestDownload conn req s = _)
    refine (if_neg (ne_true_of_eq_false hgov)).trans ?_
    exact if_pos hcond
  · intro s conn req b q hon hdoipOn hgov hcond
    refine (uds_next (b := b) hon hdoipOn ?_ : execRequestDownload conn req s = _)
    refine (if_neg (ne_true_of_eq_false hgov)).trans ?_
    simp [hcond, q]
  -- `transferData`
  · intro s conn req b hdoipOn
    exact (uds_silent (b := b) hdoipOn : execTransferData conn req s = _)
  · intro s conn req b hon hdoipOn hconn
    refine (uds_next (b := b) hon hdoipOn ?_ : execTransferData conn req s = _)
    simp only [hconn]
  · intro s conn req k b hon hdoipOn hconn hleAt
    refine (uds_next (b := b) hon hdoipOn ?_ : execTransferData conn req s = _)
    simp only [hconn]
    exact if_pos hleAt
  · intro s conn req k b q hon hdoipOn hconn hleAt hcond
    refine (uds_next (b := b) hon hdoipOn ?_ : execTransferData conn req s = _)
    simp only [hconn]
    refine (if_neg (by simp [hleAt])).trans ?_
    exact if_pos hcond
  · intro s conn req k b q hon hdoipOn hconn hleAt hcond
    refine (uds_next (b := b) hon hdoipOn ?_ : execTransferData conn req s = _)
    simp only [hconn]
    refine (if_neg (by simp [hleAt])).trans ?_
    exact if_neg (by grind)
  -- `requestTransferExit`
  · intro s conn req b hdoipOn
    exact (uds_silent (b := b) hdoipOn : execRequestTransferExit conn req s = _)
  · intro s conn req b hon hdoipOn hgov
    refine (uds_next (b := b) hon hdoipOn ?_ : execRequestTransferExit conn req s = _)
    exact if_pos (by grind)
  · intro s conn req b q hon hdoipOn hgov hcond
    refine (uds_next (b := b) hon hdoipOn ?_ : execRequestTransferExit conn req s = _)
    refine (if_neg (by simp [hgov])).trans ?_
    exact if_pos hcond
  · intro s conn req b q hon hdoipOn hgov hcond
    refine (uds_next (b := b) hon hdoipOn ?_ : execRequestTransferExit conn req s = _)
    refine (if_neg (by simp [hgov])).trans ?_
    exact if_neg hcond

end Sys2Proof.Machine
end

section
/-! PROOFS. Commands that are one object's access. -/

namespace Sys2Proof.Machine

/-! ## The rows of the objects -/

section
variable {b c : Block} {v : DictPath} {i0 i1 s0 s1 d idx sub n lo hi a : Nat} {x : Bytes} {r : ObjRow}

theorem Block.objWrite_missing (hrow : objRow idx sub = none) : b.objWrite v idx sub x = (missing idx, b) := by
  simp only [Block.objWrite, hrow]

theorem Block.objWrite_bad (hrow : objRow idx sub = some r) (hacc : r.acc = .wo) (hval : b.checkVal r x = a) (ha : a ≠ 0) :
    b.objWrite v idx sub x = (a, b) := by
  subst hval
  simp [Block.objWrite, hrow, hacc, ha]

theorem Block.objWrite_exec (hrow : objRow idx sub = some r) (hacc : r.acc = .wo) (hval : b.checkVal r x = 0) :
    b.objWrite v idx sub x = b.objExec v idx sub x := by
  simp [Block.objWrite, hrow, hacc, hval]

theorem Block.checkVal_ostr {acc : OAcc} : b.checkVal ⟨i0, i1, s0, s1, .ostr, acc, d, .len n⟩ x = if x.length = n then 0 else abLength := by
  by_cases hlen : x.length = n <;> simp [Block.checkVal, ObjRow.lengthOk, OTy.size, hlen]

theorem Block.checkVal_byte {acc : OAcc} (hlen : x.length = 1) :
    b.checkVal ⟨i0, i1, s0, s1, .u8, acc, d, .span lo hi⟩ x = if lo ≤ leNat x ∧ leNat x ≤ hi then 0 else abRange := by
  by_cases hval : lo ≤ leNat x ∧ leNat x ≤ hi
  · simp [Block.checkVal, ObjRow.lengthOk, OTy.size, Block.rangeVal, hlen, hval]
  · have hno : (decide (lo ≤ leNat x) && decide (leNat x ≤ hi)) = false := by simpa using hval
    simp [Block.checkVal, ObjRow.lengthOk, OTy.size, Block.rangeVal, hlen, hval, hno]

/-! ## A write on a path that grants it -/

theorem Block.putObj_written (h : b.granted v idx sub true = .allowed) (hx : b.objWrite v idx sub x = (a, c)) :
    b.putObj v idx sub x = c.answer a :=
  Block.serve_written h hx

variable (h : b.granted v idx sub true = .allowed)
include h

theorem Block.putObj_missing (hrow : objRow idx sub = none) (ha : missing idx = a) : b.putObj v idx sub x = b.answer a :=
  Block.putObj_written h ((Block.objWrite_missing hrow).trans (by rw [ha]))

/-- An octet string of the wrong length. -/
theorem Block.putObj_length (hrow : objRow idx sub = some ⟨i0, i1, s0, s1, .ostr, .wo, d, .len n⟩) (hlen : x.length ≠ n) :
    b.putObj v idx sub x = b.answer 0x06070010 :=
  Block.putObj_written h (Block.objWrite_bad hrow rfl (Block.checkVal_ostr.trans (if_neg hlen)) (by decide))

theorem Block.putObj_string (hrow : objRow idx sub = some ⟨i0, i1, s0, s1, .ostr, .wo, d, .len n⟩) (hlen : x.length = n)
    (hx : b.objExec v idx sub x = (a, c)) : b.putObj v idx sub x = c.answer a :=
  Block.putObj_written h ((Block.objWrite_exec hrow rfl (Block.checkVal_ostr.trans (if_pos hlen))).trans hx)

/-- A byte out of its range. -/
theorem Block.putObj_range (hrow : objRow idx sub = some ⟨i0, i1, s0, s1, .u8, .wo, d, .span lo hi⟩) (hlen : x.length = 1)
    (hval : ¬ (lo ≤ leNat x ∧ leNat x ≤ hi)) : b.putObj v idx sub x = b.answer 0x06090030 :=
  Block.putObj_written h (Block.objWrite_bad hrow rfl ((Block.checkVal_byte hlen).trans (if_neg hval)) (by decide))

theorem Block.putObj_byte (hrow : objRow idx sub = some ⟨i0, i1, s0, s1, .u8, .wo, d, .span lo hi⟩) (hlen : x.length = 1)
    (hval : lo ≤ leNat x ∧ leNat x ≤ hi) (hx : b.objExec v idx sub x = (a, c)) : b.putObj v idx sub x = c.answer a :=
  Block.putObj_written h ((Block.objWrite_exec hrow rfl ((Block.checkVal_byte hlen).trans (if_pos hval))).trans hx)

end

theorem leNat_leBytes_one (n : Nat) : leNat (leBytes 1 n) = n % 256 := by
  simp [leBytes, leNat]

/-- A slot number and the key that follows it. -/
theorem leAt_slot (n : Nat) (key : Bytes) : leAt 0 1 (leBytes 1 n ++ key) = n % 256 := by
  simp [leAt, slice, leBytes, leNat]

theorem objRow_commit : objRow 0x1F00 1 = some ⟨0x1F00, 0x1F00, 1, 1, .u8, .wo, 0, .span 1 4⟩ := by decide +kernel
theorem objRow_loadKey : objRow 0x8001 1 = some ⟨0x8001, 0x8001, 1, 1, .ostr, .wo, 0, .len 58⟩ := by decide +kernel
theorem objRow_revoke : objRow 0x8001 2 = some ⟨0x8001, 0x8001, 2, 2, .u8, .wo, 0, .span 0 9⟩ := by decide +kernel
theorem objRow_consent : objRow 0x8001 3 = some ⟨0x8001, 0x8001, 3, 3, .u8, .wo, 0, .span 1 1⟩ := by decide +kernel
theorem objRow_response : objRow 0x8026 2 = some ⟨0x8026, 0x8026, 2, 2, .ostr, .wo, 0, .len 114⟩ := by decide +kernel
theorem objRow_endSession : objRow 0x8026 3 = some ⟨0x8026, 0x8026, 3, 3, .u8, .wo, 0, .span 1 1⟩ := by decide +kernel
theorem objRow_confirm : objRow 0x8030 3 = some ⟨0x8030, 0x8030, 3, 3, .u8, .wo, 0, .span 1 1⟩ := by decide +kernel
theorem objRow_advance : objRow 0x8030 5 = some ⟨0x8030, 0x8030, 5, 5, .u8, .wo, 0, .span 1 1⟩ := by decide +kernel
theorem objRow_cancel : objRow 0x8030 6 = some ⟨0x8030, 0x8030, 6, 6, .u8, .wo, 0, .span 1 1⟩ := by decide +kernel
theorem objRow_attest : objRow 0x8060 1 = some ⟨0x8060, 0x8060, 1, 1, .ostr, .wo, 0, .len 32⟩ := by decide +kernel
theorem objRow_rekey : objRow 0x8070 8 = some ⟨0x8070, 0x8070, 8, 8, .u8, .wo, 0, .span 0 5⟩ := by decide +kernel

theorem objRow_bundle : objRow 0x8030 1 = some ⟨0x8030, 0x8030, 1, 1, .domain, .wo, 0, .maxLen 0xF00000⟩ := by decide +kernel

section
variable {b : Block} {v : DictPath} {n : Nat}

theorem Block.objExec_loadKey {key : Bytes} : b.objExec v 0x8001 1 (leBytes 1 n ++ key) = b.loadKey (n % 256) key :=
  congrArg (fun k => b.loadKey k key) (leAt_slot n key)

theorem Block.objExec_revoke : b.objExec v 0x8001 2 (leBytes 1 n) = b.revokeKey (n % 256) :=
  congrArg (fun k => b.revokeKey k) (leNat_leBytes_one n)

theorem Block.objExec_rekey : b.objExec v 0x8070 8 (leBytes 1 n) = b.rekey (n % 256) :=
  congrArg (fun k => b.rekey k) (leNat_leBytes_one n)

end

/-! ## The challenge that is read, and the bundle that is uploaded -/

theorem objRow_challenge : objRow 0x8026 1 = some ⟨0x8026, 0x8026, 1, 1, .ostr, .ro, 0, .len 32⟩ := by decide +kernel

section
variable {b d : Block} {v : DictPath} {off a p q : Nat} {last : Bool} {x m : Bytes}

theorem Block.objRead_challenge :
    b.objRead v 0x8026 1 false = if b.lockedOut (failKey v.path) then ((abState, []), b) else ((0, (b.challenge v).1), (b.challenge v).2) := by
  simp only [Block.objRead, objRow_challenge]
  exact (if_neg (by decide)).trans (if_pos trivial)

theorem Block.segWrite_bundle :
    b.segWrite v 0x8030 1 off last x = (if off = 0 then b.setSeg v none else b).uploadSeg v off last x := by
  simp only [Block.segWrite, objRow_bundle]
  exact (if_neg (by decide)).trans (if_pos (by decide))

/-- The first segment of a bundle that may not begin. -/
theorem Block.uploadSeg_refused (h : b.uploadStart (v.path, v.src) = (a, d)) (ha : a ≠ 0) : b.uploadSeg v 0 last x = (a, d) := by
  simp only [Block.uploadSeg, if_pos, h]
  exact if_pos ha

theorem Block.uploadSeg_begun (h : b.uploadStart (v.path, v.src) = (0, d)) :
    b.uploadSeg v 0 last x = (if (d.uploadData (v.path, v.src) 0 x).1 = 0 && last then (d.uploadData (v.path, v.src) 0 x).2.uploadEnd
      else d.uploadData (v.path, v.src) 0 x) := by
  simp only [Block.uploadSeg, if_pos, h]
  exact if_neg (not_not_intro rfl)

theorem Block.uploadSeg_later (h : off ≠ 0) :
    b.uploadSeg v off last x = (if (b.uploadData (v.path, v.src) off x).1 = 0 && last then (b.uploadData (v.path, v.src) off x).2.uploadEnd
      else b.uploadData (v.path, v.src) off x) := by
  simp only [Block.uploadSeg, if_neg h]
  exact if_neg (not_not_intro rfl)

theorem Block.uploadData_length (hup : b.trust.upload = some (p, q, m)) (hoff : m.length = off) (hmax : 0xF00000 < m.length + x.length) :
    b.uploadData (p, q) off x = (abLength, b) := by
  simp only [Block.uploadData, hup]
  exact (if_neg (by simp [hoff])).trans (if_pos hmax)

theorem Block.uploadData_order {who : Nat × Nat} (h : ∀ p q m, b.trust.upload = some (p, q, m) → ¬ ((p, q) = who ∧ m.length = off)) :
    b.uploadData who off x = (abOrder, b) := by
  unfold Block.uploadData
  split
  · rename_i p q m hm
    refine if_pos ?_
    have hno := h p q m hm
    rw [Bool.or_eq_true, decide_eq_true_eq, decide_eq_true_eq]
    exact Decidable.not_and_iff_or_not.mp hno
  · rfl

theorem Block.uploadData_taken (hup : b.trust.upload = some (p, q, m)) (hoff : m.length = off) (hmax : ¬ 0xF00000 < m.length + x.length) :
    b.uploadData (p, q) off x = (0, b.modTrust fun t => { t with upload := some (p, q, m ++ x) }) := by
  simp only [Block.uploadData, hup]
  exact (if_neg (by simp [hoff])).trans (if_neg hmax)

/-- The bundle as it is complete, in the spare bank (R469). -/
def Block.bundled (b : Block) (m : Bytes) : Block :=
  (b.modTrust fun t => { t with upload := none }).modBank b.spareBank fun k => { k with bundle := readBundle m }

/-- Its record, PENDING or BAD. -/
def Block.bundleRecorded (b : Block) (m : Bytes) : Block :=
  (b.bundled m).putRecord (b.bundled m).spareBank fun r =>
    { r with state := if (b.bundled m).bundleOk (readBundle m) then bkPending else bkBad, svn := (readBundle m).svn,
             length := (readBundle m).length, manifest := (readBundle m).manifest }

theorem Block.uploadEnd_bad (hup : b.trust.upload = some (p, q, m)) (h : (b.bundled m).bundleOk (readBundle m) = false) :
    b.uploadEnd = (abRange, (b.bundleRecorded m).note { code := 0x2C05 }) := by
  simp only [Block.uploadEnd, hup]
  exact if_pos (congrArg not h)

theorem Block.uploadEnd_good (hup : b.trust.upload = some (p, q, m)) (h : (b.bundled m).bundleOk (readBundle m) = true) :
    b.uploadEnd = (0, if ((b.bundleRecorded m).note { code := 0x0C05 }).trust.rom then ((b.bundleRecorded m).note { code := 0x0C05 }).warmReset
      else (b.bundleRecorded m).note { code := 0x0C05 }) := by
  simp only [Block.uploadEnd, hup]
  exact if_neg fun hbad => Bool.noConfusion ((congrArg not h).symm.trans hbad)

end

/-! ## Objects of a range of sub-indices -/

/-- An object has no sub-index outside its rows. -/
theorem objRow_none {idx sub lo hi : Nat} (hrows : ∀ r ∈ objRows, r.i0 ≤ idx → idx ≤ r.i1 → lo ≤ r.s0 ∧ r.s1 ≤ hi)
    (hcal : calRow idx sub = none) (hsub : sub < lo ∨ hi < sub) : objRow idx sub = none := by
  have hfind : objRows.find? (fun r => r.i0 ≤ idx && idx ≤ r.i1 && r.s0 ≤ sub && sub ≤ r.s1) = none := by
    refine List.find?_eq_none.mpr fun r hr h => ?_
    simp only [Bool.and_eq_true, decide_eq_true_eq] at h
    obtain ⟨⟨⟨hi0, hi1⟩, hs0⟩, hs1⟩ := h
    have := hrows r hr hi0 hi1
    omega
  rw [objRow, hfind]
  exact hcal

theorem objRow_extend {sub : Nat} (h : sub = 1 ∨ sub = 2) : objRow 0x8062 sub = some ⟨0x8062, 0x8062, 1, 2, .ostr, .wo, 0, .len 64⟩ := by
  rcases h with rfl | rfl <;> decide +kernel

theorem objRow_extend_none {sub : Nat} (h1 : sub ≠ 1) (h2 : sub ≠ 2) : objRow 0x8062 sub = none :=
  objRow_none (lo := 1) (hi := 2) (by decide +kernel) rfl (by omega)

theorem missing_extend : missing 0x8062 = 0x06090011 := by decide +kernel

theorem missing_macTx : missing 0x8072 = 0x06090011 := by decide +kernel

theorem missing_macRx : missing 0x8073 = 0x06090011 := by decide +kernel

theorem objRow_macTx : ∀ sub < 97, 1 ≤ sub → objRow 0x8072 sub = some ⟨0x8072, 0x8073, 1, 96, .ostr, .wo, 0, .len 48⟩ := by decide +kernel

theorem objRow_macRx : ∀ sub < 97, 1 ≤ sub → objRow 0x8073 sub = some ⟨0x8072, 0x8073, 1, 96, .ostr, .wo, 0, .len 48⟩ := by decide +kernel

theorem objRow_macTx_none {sub : Nat} (h : sub = 0 ∨ 97 ≤ sub) : objRow 0x8072 sub = none :=
  objRow_none (lo := 1) (hi := 96) (by decide +kernel) rfl (by omega)

theorem objRow_macRx_none {sub : Nat} (h : sub = 0 ∨ 97 ≤ sub) : objRow 0x8073 sub = none :=
  objRow_none (lo := 1) (hi := 96) (by decide +kernel) rfl (by omega)

theorem Block.macKey_eq {b : Block} {tx : Bool} {i : Nat} {x : Bytes} :
    b.macKey tx i x = b.modPort (i / 16) fun p => { p with macs := SMap.upd {} (i / 4 % 4) (fun c =>
      if tx then { c with tx := SMap.set {} (i % 4) { key := x.take 32, salt := slice 32 12 x, ssci := slice 44 4 x } c.tx, next := some (i % 4) }
      else { c with rx := SMap.set {} (i % 4) { key := x.take 32, salt := slice 32 12 x, ssci := slice 44 4 x } c.rx }) p.macs } := by
  rw [Block.macKey, Nat.div_div_eq_div_mul]

/-- Settles O38: each command is the read or write of its object: the path grants it or not, the object's row checks the value, and the object's own operation does the rest. -/
theorem objectCommands : Obligations.ObjectCommands := by
  unfold Obligations.ObjectCommands
  refine ⟨?_, ?_, ?_, ?_, ?_, ?_, ?_, ?_, ?_, ?_, ?_, ?_, ?_, ?_, ?_, ?_, ?_, ?_, ?_, ?_, ?_, ?_, ?_, ?_, ?_, ?_, ?_, ?_, ?_, ?_, ?_, ?_, ?_, ?_, ?_, ?_, ?_, ?_, ?_, ?_, ?_, ?_, ?_, ?_, ?_, ?_, ?_, ?_, ?_, ?_, ?_, ?_, ?_, ?_, ?_, ?_, ?_, ?_, ?_, ?_, ?_, ?_, ?_, ?_, ?_, ?_, ?_, ?_, ?_, ?_, ?_, ?_, ?_, ?_, ?_, ?_, ?_, ?_, ?_, ?_, ?_, ?_, ?_, ?_, ?_, ?_, ?_, ?_, ?_, ?_, ?_, ?_, ?_, ?_, ?_, ?_, ?_, ?_, ?_⟩
  -- `commitImg`
  · intro s via b hgranted
    exact (onBlk_unchanged (fun _ => Block.serve_silent hgranted) : execCommitImg via s = _)
  · intro s via b hon hgranted
    exact (onBlk_next hon (Block.serve_refused hgranted) : execCommitImg via s = _)
  · intro s via b hon hgranted hstate
    refine (onBlk_next hon ?_ : execCommitImg via s = _)
    exact Block.putObj_byte (b := b) hgranted objRow_commit rfl (by decide) (if_pos (by simpa [or_assoc] using hstate))
  · intro s via b hon hgranted hstate hmayCommit
    refine (onBlk_next hon ?_ : execCommitImg via s = _)
    exact Block.putObj_byte (b := b) hgranted objRow_commit rfl (by decide) ((if_neg (by simpa [or_assoc] using hstate)).trans (if_pos (by simp [hmayCommit])))
  · intro s via b hon hgranted hstate hmayCommit
    refine (onBlk_next hon ?_ : execCommitImg via s = _)
    exact Block.putObj_byte (b := b) hgranted objRow_commit rfl (by decide) ((if_neg (by simpa [or_assoc] using hstate)).trans (if_neg (by simp [hmayCommit])))
  -- `commitAndPersist`
  · intro s via b hgranted
    exact (onBlk_unchanged (fun _ => Block.serve_silent hgranted) : execCommitAndPersist via s = _)
  · intro s via b hon hgranted
    exact (onBlk_next hon (Block.serve_refused hgranted) : execCommitAndPersist via s = _)
  · intro s via b hon hgranted hstate
    refine (onBlk_next hon ?_ : execCommitAndPersist via s = _)
    exact Block.putObj_byte (b := b) hgranted objRow_commit rfl (by decide) (if_pos (by simpa [or_assoc] using hstate))
  · intro s via b hon hgranted hstate hmayCommit
    refine (onBlk_next hon ?_ : execCommitAndPersist via s = _)
    exact Block.putObj_byte (b := b) hgranted objRow_commit rfl (by decide) ((if_neg (by simpa [or_assoc] using hstate)).trans (if_pos (by simp [hmayCommit])))
  · intro s via b hon hgranted hstate hmayCommit
    refine (onBlk_next hon ?_ : execCommitAndPersist via s = _)
    exact Block.putObj_byte (b := b) hgranted objRow_commit rfl (by decide) ((if_neg (by simpa [or_assoc] using hstate)).trans (if_neg (by simp [hmayCommit])))
  -- `discardImg`
  · intro s via b hgranted
    exact (onBlk_unchanged (fun _ => Block.serve_silent hgranted) : execDiscardImg via s = _)
  · intro s via b hon hgranted
    exact (onBlk_next hon (Block.serve_refused hgranted) : execDiscardImg via s = _)
  · intro s via b hon hgranted hstate
    refine (onBlk_next hon ?_ : execDiscardImg via s = _)
    exact Block.putObj_byte (b := b) hgranted objRow_commit rfl (by decide) (if_pos (by simpa using hstate))
  · intro s via b c hon hgranted hstate
    refine (onBlk_next hon ?_ : execDiscardImg via s = _)
    exact Block.putObj_byte (b := b) hgranted objRow_commit rfl (by decide) (if_neg (by simpa using hstate))
  -- `persistImg`
  · intro s via b hgranted
    exact (onBlk_unchanged (fun _ => Block.serve_silent hgranted) : execPersistImg via s = _)
  · intro s via b hon hgranted
    exact (onBlk_next hon (Block.serve_refused hgranted) : execPersistImg via s = _)
  · intro s via b hon hgranted hswitched
    refine (onBlk_next hon ?_ : execPersistImg via s = _)
    exact Block.putObj_byte (b := b) hgranted objRow_commit rfl (by decide) (if_pos (by simp [hswitched]))
  · intro s via b hon hgranted hswitched hpersist
    refine (onBlk_next hon ?_ : execPersistImg via s = _)
    exact Block.putObj_byte (b := b) hgranted objRow_commit rfl (by decide) ((if_neg (by simp [hswitched])).trans (if_pos (Option.isSome_iff_ne_none.mpr hpersist)))
  · intro s via b hon hgranted hswitched hpersist
    refine (onBlk_next hon ?_ : execPersistImg via s = _)
    exact Block.putObj_byte (b := b) hgranted objRow_commit rfl (by decide) ((if_neg (by simp [hswitched])).trans (if_neg (by simp [hpersist])))
  -- `loadPublicKey`
  · intro s via slot key b hgranted
    exact (onBlk_unchanged (fun _ => Block.serve_silent hgranted) : execLoadPublicKey via slot key s = _)
  · intro s via slot key b hon hgranted
    exact (onBlk_next hon (Block.serve_refused hgranted) : execLoadPublicKey via slot key s = _)
  · intro s via slot key b hon hgranted hkey
    refine (onBlk_next hon ?_ : execLoadPublicKey via slot key s = _)
    exact Block.putObj_length (b := b) hgranted objRow_loadKey (fun hlen => hkey (by simpa [leBytes] using hlen))
  · intro s via slot key b hon hgranted hkey hnotService
    refine (onBlk_next hon ?_ : execLoadPublicKey via slot key s = _)
    refine Block.putObj_string (b := b) hgranted objRow_loadKey (by simp [leBytes, hkey]) ?_
    refine Block.objExec_loadKey.trans ?_
    exact if_pos hnotService
  · intro s via slot key b hon hgranted hkey hservice hslot
    refine (onBlk_next hon ?_ : execLoadPublicKey via slot key s = _)
    refine Block.putObj_string (b := b) hgranted objRow_loadKey (by simp [leBytes, hkey]) ?_
    refine Block.objExec_loadKey.trans ?_
    refine (if_neg (not_not_intro hservice)).trans ?_
    exact if_pos hslot
  · intro s via slot key b n hon hgranted hkey hservice hslot hslot2
    refine (onBlk_next hon ?_ : execLoadPublicKey via slot key s = _)
    refine Block.putObj_string (b := b) hgranted objRow_loadKey (by simp [leBytes, hkey]) ?_
    refine Block.objExec_loadKey.trans ?_
    refine (if_neg (not_not_intro hservice)).trans ?_
    refine (if_neg (Nat.not_le.mpr hslot)).trans ?_
    exact if_pos (by simp [n, hslot2])
  · intro s via slot key b n hon hgranted hkey hservice hslot hslot2 hslot3
    refine (onBlk_next hon ?_ : execLoadPublicKey via slot key s = _)
    refine Block.putObj_string (b := b) hgranted objRow_loadKey (by simp [leBytes, hkey]) ?_
    refine Block.objExec_loadKey.trans ?_
    refine (if_neg (not_not_intro hservice)).trans ?_
    refine (if_neg (Nat.not_le.mpr hslot)).trans ?_
    refine (if_neg (by simp [n, hslot2])).trans ?_
    exact if_pos hslot3
  · intro s via slot key b n hon hgranted hkey hservice hslot hslot2 hslot3
    refine (onBlk_next hon ?_ : execLoadPublicKey via slot key s = _)
    refine Block.putObj_string (b := b) hgranted objRow_loadKey (by simp [leBytes, hkey]) ?_
    refine Block.objExec_loadKey.trans ?_
    refine (if_neg (not_not_intro hservice)).trans ?_
    refine (if_neg (Nat.not_le.mpr hslot)).trans ?_
    refine (if_neg (by simp [n, hslot2])).trans ?_
    exact if_neg (not_not_intro hslot3)
  -- `revokeSlot`
  · intro s via slot b hgranted
    exact (onBlk_unchanged (fun _ => Block.serve_silent hgranted) : execRevokeSlot via slot s = _)
  · intro s via slot b hon hgranted
    exact (onBlk_next hon (Block.serve_refused hgranted) : execRevokeSlot via slot s = _)
  · intro s via slot b hon hgranted hslot
    refine (onBlk_next hon ?_ : execRevokeSlot via slot s = _)
    exact Block.putObj_range (b := b) hgranted objRow_revoke rfl (by rw [leNat_leBytes_one]; omega)
  · intro s via slot b hon hgranted hslot hslotUsed
    refine (onBlk_next hon ?_ : execRevokeSlot via slot s = _)
    refine Block.putObj_byte (b := b) hgranted objRow_revoke rfl (by rw [leNat_leBytes_one]; omega) ?_
    refine Block.objExec_revoke.trans ?_
    refine (if_neg (Nat.not_le.mpr hslot)).trans ?_
    exact if_pos hslotUsed
  · intro s via slot b hon hgranted hslot hslotUsed
    refine (onBlk_next hon ?_ : execRevokeSlot via slot s = _)
    refine Block.putObj_byte (b := b) hgranted objRow_revoke rfl (by rw [leNat_leBytes_one]; omega) ?_
    refine Block.objExec_revoke.trans ?_
    refine (if_neg (Nat.not_le.mpr hslot)).trans ?_
    exact if_neg (by simp [hslotUsed])
  -- `vendorDebugConsent`
  · intro s via b hgranted
    exact (onBlk_unchanged (fun _ => Block.serve_silent hgranted) : execVendorDebugConsent via s = _)
  · intro s via b hon hgranted
    exact (onBlk_next hon (Block.serve_refused hgranted) : execVendorDebugConsent via s = _)
  · intro s via b hon hgranted
    refine (onBlk_next hon ?_ : execVendorDebugConsent via s = _)
    exact Block.putObj_byte (b := b) hgranted objRow_consent rfl (by decide) rfl
  -- `sessionResponse`
  · intro s via sig b hgranted
    exact (onBlk_unchanged (fun _ => Block.serve_silent hgranted) : execSessionResponse via sig s = _)
  · intro s via sig b hon hgranted
    exact (onBlk_next hon (Block.serve_refused hgranted) : execSessionResponse via sig s = _)
  · intro s via sig b hon hgranted hsig
    refine (onBlk_next hon ?_ : execSessionResponse via sig s = _)
    exact Block.putObj_length (b := b) hgranted objRow_response hsig
  · intro s via sig b hon hgranted hsig hlockedOut
    refine (onBlk_next hon ?_ : execSessionResponse via sig s = _)
    exact Block.putObj_string (b := b) hgranted objRow_response hsig (if_pos hlockedOut)
  · intro s via sig b c good hon hgranted hsig hlockedOut hgood
    refine (onBlk_next hon ?_ : execSessionResponse via sig s = _)
    refine Block.putObj_string (b := b) hgranted objRow_response hsig ?_
    refine (if_neg (ne_true_of_eq_false hlockedOut)).trans ?_
    exact if_pos (congrArg not hgood)
  · intro s via sig b c good d hon hgranted hsig hlockedOut hgood
    refine (onBlk_next hon ?_ : execSessionResponse via sig s = _)
    refine Block.putObj_string (b := b) hgranted objRow_response hsig ?_
    refine (if_neg (ne_true_of_eq_false hlockedOut)).trans ?_
    exact if_neg fun h => Bool.noConfusion ((congrArg not hgood).symm.trans h)
  -- `endSession`
  · intro s via b hgranted
    exact (onBlk_unchanged (fun _ => Block.serve_silent hgranted) : execEndSession via s = _)
  · intro s via b hon hgranted
    exact (onBlk_next hon (Block.serve_refused hgranted) : execEndSession via s = _)
  · intro s via b hon hgranted hcontains
    refine (onBlk_next hon ?_ : execEndSession via s = _)
    exact Block.putObj_byte (b := b) hgranted objRow_endSession rfl (by decide) (congrArg (Prod.mk 0) (if_pos (by simpa using hcontains)))
  · intro s via b c hon hgranted hcontains hdev
    refine (onBlk_next hon ?_ : execEndSession via s = _)
    refine Block.putObj_byte (b := b) (a := 0) (c := c) hgranted objRow_endSession rfl (by decide) ?_
    refine congrArg (Prod.mk 0) ((if_neg (by simpa using hcontains)).trans ?_)
    exact if_neg (by rw [Bool.and_eq_true, decide_eq_true_eq]; exact hdev)
  · intro s via b c hon hgranted hcontains hdev
    refine (onBlk_next hon ?_ : execEndSession via s = _)
    refine Block.putObj_byte (b := b) (a := 0) (c := c.resumeReq.2) hgranted objRow_endSession rfl (by decide) ?_
    refine congrArg (Prod.mk 0) ((if_neg (by simpa using hcontains)).trans ?_)
    exact if_pos (by rw [Bool.and_eq_true, decide_eq_true_eq]; exact hdev)
  -- `confirmBank`
  · intro s via b hgranted
    exact (onBlk_unchanged (fun _ => Block.serve_silent hgranted) : execConfirmBank via s = _)
  · intro s via b hon hgranted
    exact (onBlk_next hon (Block.serve_refused hgranted) : execConfirmBank via s = _)
  · intro s via b hon hgranted hstate
    refine (onBlk_next hon ?_ : execConfirmBank via s = _)
    exact Block.putObj_byte (b := b) hgranted objRow_confirm rfl (by decide) (congrArg (Prod.mk 0) (if_pos (by rw [Bool.and_eq_true, decide_eq_true_eq, Bool.not_eq_true']; exact hstate)))
  · intro s via b hon hgranted hstate
    refine (onBlk_next hon ?_ : execConfirmBank via s = _)
    exact Block.putObj_byte (b := b) hgranted objRow_confirm rfl (by decide) (congrArg (Prod.mk 0) (if_neg (by rw [Bool.and_eq_true, decide_eq_true_eq, Bool.not_eq_true']; exact hstate)))
  -- `advanceCounter`
  · intro s via b hgranted
    exact (onBlk_unchanged (fun _ => Block.serve_silent hgranted) : execAdvanceCounter via s = _)
  · intro s via b hon hgranted
    exact (onBlk_next hon (Block.serve_refused hgranted) : execAdvanceCounter via s = _)
  · intro s via b u o st hon hgranted hstate
    refine (onBlk_next hon ?_ : execAdvanceCounter via s = _)
    exact Block.putObj_byte (b := b) hgranted objRow_advance rfl (by decide) (if_pos (by simp only [Bool.and_eq_true, Bool.or_eq_true, decide_eq_true_eq, Bool.not_eq_true', and_assoc, or_assoc]; exact hstate))
  · intro s via b u o st hon hgranted hstate
    refine (onBlk_next hon ?_ : execAdvanceCounter via s = _)
    exact Block.putObj_byte (b := b) hgranted objRow_advance rfl (by decide) (if_neg (by simp only [Bool.and_eq_true, Bool.or_eq_true, decide_eq_true_eq, Bool.not_eq_true', and_assoc, or_assoc]; exact hstate))
  -- `cancelPending`
  · intro s via b hgranted
    exact (onBlk_unchanged (fun _ => Block.serve_silent hgranted) : execCancelPending via s = _)
  · intro s via b hon hgranted
    exact (onBlk_next hon (Block.serve_refused hgranted) : execCancelPending via s = _)
  · intro s via b hon hgranted
    refine (onBlk_next hon ?_ : execCancelPending via s = _)
    exact Block.putObj_byte (b := b) hgranted objRow_cancel rfl (by decide) rfl
  -- `attestationNonce`
  · intro s via nonce b hgranted
    exact (onBlk_unchanged (fun _ => Block.serve_silent hgranted) : execAttestationNonce via nonce s = _)
  · intro s via nonce b hon hgranted
    exact (onBlk_next hon (Block.serve_refused hgranted) : execAttestationNonce via nonce s = _)
  · intro s via nonce b hon hgranted hnonce
    refine (onBlk_next hon ?_ : execAttestationNonce via nonce s = _)
    exact Block.putObj_length (b := b) hgranted objRow_attest hnonce
  · intro s via nonce b hon hgranted hnonce
    refine (onBlk_next hon ?_ : execAttestationNonce via nonce s = _)
    exact Block.putObj_string (b := b) hgranted objRow_attest hnonce rfl
  -- `rekeyRequest`
  · intro s via port b hgranted
    exact (onBlk_unchanged (fun _ => Block.serve_silent hgranted) : execRekeyRequest via port s = _)
  · intro s via port b hon hgranted
    exact (onBlk_next hon (Block.serve_refused hgranted) : execRekeyRequest via port s = _)
  · intro s via port b hon hgranted hport
    refine (onBlk_next hon ?_ : execRekeyRequest via port s = _)
    exact Block.putObj_range (b := b) hgranted objRow_rekey rfl (by rw [leNat_leBytes_one]; omega)
  · intro s via port b hon hgranted hport hportSt
    refine (onBlk_next hon ?_ : execRekeyRequest via port s = _)
    refine Block.putObj_byte (b := b) hgranted objRow_rekey rfl (by rw [leNat_leBytes_one]; omega) ?_
    refine Block.objExec_rekey.trans ?_
    refine (if_neg (Nat.not_le.mpr hport)).trans ?_
    exact congrArg (Prod.mk 0) (if_pos hportSt)
  · intro s via port b hon hgranted hport hportSt
    refine (onBlk_next hon ?_ : execRekeyRequest via port s = _)
    refine Block.putObj_byte (b := b) hgranted objRow_rekey rfl (by rw [leNat_leBytes_one]; omega) ?_
    refine Block.objExec_rekey.trans ?_
    refine (if_neg (Nat.not_le.mpr hport)).trans ?_
    exact congrArg (Prod.mk 0) (if_neg hportSt)
  -- `sessionChallenge`
  · intro s via b hgranted
    exact (onBlk_unchanged (fun _ => Block.serve_silent hgranted) : execSessionChallenge via s = _)
  · intro s via b hon hgranted hlockedOut
    refine (onBlk_next hon ?_ : execSessionChallenge via s = _)
    exact Block.serve_allowed (b := b) hgranted (Block.objRead_challenge.trans (if_pos hlockedOut))
  · intro s via b r hon hgranted hlockedOut
    refine (onBlk_next hon ?_ : execSessionChallenge via s = _)
    exact Block.serve_allowed (b := b) hgranted (Block.objRead_challenge.trans (if_neg (ne_true_of_eq_false hlockedOut)))
  -- `bundleUpload`
  · intro s via off last data b hgranted
    exact (onBlk_unchanged (fun _ => Block.serve_silent hgranted) : execBundleUpload via off last data s = _)
  · intro s via off last data b hon hgranted
    exact (onBlk_next hon (Block.serve_refused hgranted) : execBundleUpload via off last data s = _)
  · intro s via off last data b w c hon hgranted hcond hstate
    refine (onBlk_next hon ?_ : execBundleUpload via off last data s = _)
    subst hcond
    refine Block.serve_written (b := b) (g := fun b => b.segWrite via 0x8030 1 0 last data) hgranted (Block.segWrite_bundle.trans ?_)
    rw [if_pos rfl]
    refine Block.uploadSeg_refused (b := c) (a := abState) (if_pos ?_) (by decide)
    simp only [Bool.or_eq_true, decide_eq_true_eq, or_assoc]
    exact hstate
  · intro s via off last data m b w c d e u f g hon hgranted hcond hstate hupload hcond2 hxF00000 hlast hbundleOk
    refine (onBlk_next hon ?_ : execBundleUpload via off last data s = _)
    subst hcond
    refine Block.serve_written (b := b) (g := fun b => b.segWrite via 0x8030 1 0 last data) hgranted (Block.segWrite_bundle.trans ?_)
    rw [if_pos rfl]
    have hstart : c.uploadStart w = (0, d) := if_neg (by simp only [Bool.or_eq_true, decide_eq_true_eq, or_assoc]; exact hstate)
    refine (Block.uploadSeg_begun (b := c) (d := d) hstart).trans ?_
    rw [Block.uploadData_taken (b := d) hupload hcond2 hxF00000, hlast]
    exact (if_pos rfl).trans (Block.uploadEnd_good (b := e) rfl hbundleOk)
  · intro s via off last data m b w d e u f g hon hgranted hcond hupload hcond2 hxF00000 hlast hbundleOk
    refine (onBlk_next hon ?_ : execBundleUpload via off last data s = _)
    refine Block.serve_written (b := b) (g := fun b => b.segWrite via 0x8030 1 off last data) hgranted (Block.segWrite_bundle.trans ?_)
    rw [if_neg hcond]
    refine (Block.uploadSeg_later (b := b) hcond).trans ?_
    rw [Block.uploadData_taken (b := d) hupload hcond2 hxF00000, hlast]
    exact (if_pos rfl).trans (Block.uploadEnd_good (b := e) rfl hbundleOk)
  · intro s via off last data m b w c d hon hgranted hcond hstate hupload hcond2 hxF00000
    refine (onBlk_next hon ?_ : execBundleUpload via off last data s = _)
    subst hcond
    refine Block.serve_written (b := b) (g := fun b => b.segWrite via 0x8030 1 0 last data) hgranted (Block.segWrite_bundle.trans ?_)
    rw [if_pos rfl]
    have hstart : c.uploadStart w = (0, d) := if_neg (by simp only [Bool.or_eq_true, decide_eq_true_eq, or_assoc]; exact hstate)
    refine (Block.uploadSeg_begun (b := c) (d := d) hstart).trans ?_
    rw [Block.uploadData_length (b := d) hupload hcond2 hxF00000]
    exact if_neg Bool.false_ne_true
  · intro s via off last data m b w c d e hon hgranted hcond hstate hupload hcond2 hxF00000 hlast
    refine (onBlk_next hon ?_ : execBundleUpload via off last data s = _)
    subst hcond
    refine Block.serve_written (b := b) (g := fun b => b.segWrite via 0x8030 1 0 last data) hgranted (Block.segWrite_bundle.trans ?_)
    rw [if_pos rfl]
    have hstart : c.uploadStart w = (0, d) := if_neg (by simp only [Bool.or_eq_true, decide_eq_true_eq, or_assoc]; exact hstate)
    refine (Block.uploadSeg_begun (b := c) (d := d) hstart).trans ?_
    rw [Block.uploadData_taken (b := d) hupload hcond2 hxF00000, hlast]
    exact if_neg Bool.false_ne_true
  · intro s via off last data m b w c d e u f g hon hgranted hcond hstate hupload hcond2 hxF00000 hlast hbundleOk
    refine (onBlk_next hon ?_ : execBundleUpload via off last data s = _)
    subst hcond
    refine Block.serve_written (b := b) (g := fun b => b.segWrite via 0x8030 1 0 last data) hgranted (Block.segWrite_bundle.trans ?_)
    rw [if_pos rfl]
    have hstart : c.uploadStart w = (0, d) := if_neg (by simp only [Bool.or_eq_true, decide_eq_true_eq, or_assoc]; exact hstate)
    refine (Block.uploadSeg_begun (b := c) (d := d) hstart).trans ?_
    rw [Block.uploadData_taken (b := d) hupload hcond2 hxF00000, hlast]
    exact (if_pos rfl).trans (Block.uploadEnd_bad (b := e) rfl hbundleOk)
  · intro s via off last data b w d hon hgranted hcond hupload
    refine (onBlk_next hon ?_ : execBundleUpload via off last data s = _)
    refine Block.serve_written (b := b) (g := fun b => b.segWrite via 0x8030 1 off last data) hgranted (Block.segWrite_bundle.trans ?_)
    rw [if_neg hcond]
    refine (Block.uploadSeg_later (b := b) hcond).trans ?_
    rw [Block.uploadData_order (b := d) fun p q m hm => by rw [hm] at hupload; exact of_decide_eq_false hupload]
    exact if_neg Bool.false_ne_true
  · intro s via off last data m b w d hon hgranted hcond hupload hcond2 hxF00000
    refine (onBlk_next hon ?_ : execBundleUpload via off last data s = _)
    refine Block.serve_written (b := b) (g := fun b => b.segWrite via 0x8030 1 off last data) hgranted (Block.segWrite_bundle.trans ?_)
    rw [if_neg hcond]
    refine (Block.uploadSeg_later (b := b) hcond).trans ?_
    rw [Block.uploadData_length (b := d) hupload hcond2 hxF00000]
    exact if_neg Bool.false_ne_true
  · intro s via off last data m b w d e hon hgranted hcond hupload hcond2 hxF00000 hlast
    refine (onBlk_next hon ?_ : execBundleUpload via off last data s = _)
    refine Block.serve_written (b := b) (g := fun b => b.segWrite via 0x8030 1 off last data) hgranted (Block.segWrite_bundle.trans ?_)
    rw [if_neg hcond]
    refine (Block.uploadSeg_later (b := b) hcond).trans ?_
    rw [Block.uploadData_taken (b := d) hupload hcond2 hxF00000, hlast]
    exact if_neg Bool.false_ne_true
  · intro s via off last data m b w d e u f g hon hgranted hcond hupload hcond2 hxF00000 hlast hbundleOk
    refine (onBlk_next hon ?_ : execBundleUpload via off last data s = _)
    refine Block.serve_written (b := b) (g := fun b => b.segWrite via 0x8030 1 off last data) hgranted (Block.segWrite_bundle.trans ?_)
    rw [if_neg hcond]
    refine (Block.uploadSeg_later (b := b) hcond).trans ?_
    rw [Block.uploadData_taken (b := d) hupload hcond2 hxF00000, hlast]
    exact (if_pos rfl).trans (Block.uploadEnd_bad (b := e) rfl hbundleOk)
  -- `extendMeasurement`
  · intro s via sub value b hgranted
    exact (onBlk_unchanged (fun _ => Block.serve_silent hgranted) : execExtendMeasurement via sub value s = _)
  · intro s via sub value b hon hgranted
    exact (onBlk_next hon (Block.serve_refused hgranted) : execExtendMeasurement via sub value s = _)
  · intro s via sub value b hon hgranted hsub hsub2
    refine (onBlk_next hon ?_ : execExtendMeasurement via sub value s = _)
    exact Block.putObj_missing (b := b) hgranted (objRow_extend_none hsub hsub2) missing_extend
  · intro s via sub value b hon hgranted hsub hvalue
    refine (onBlk_next hon ?_ : execExtendMeasurement via sub value s = _)
    exact Block.putObj_length (b := b) hgranted (objRow_extend hsub) hvalue
  · intro s via sub value b hon hgranted hsub hvalue hvia
    refine (onBlk_next hon ?_ : execExtendMeasurement via sub value s = _)
    exact Block.putObj_string (b := b) hgranted (objRow_extend hsub) hvalue (if_neg (by simpa using hvia))
  · intro s via sub value b hon hgranted hsub hvalue hvia
    refine (onBlk_next hon ?_ : execExtendMeasurement via sub value s = _)
    exact Block.putObj_string (b := b) hgranted (objRow_extend hsub) hvalue (if_pos (by simpa using hvia))
  -- `macsecKeyWrite`
  · intro s via sub key b hgranted
    exact (onBlk_unchanged (fun _ => Block.serve_silent hgranted) : execMacsecKeyWrite via true sub key s = _)
  · intro s via sub key b hon hgranted
    exact (onBlk_next hon (Block.serve_refused hgranted) : execMacsecKeyWrite via true sub key s = _)
  · intro s via sub key b hon hgranted hsub
    refine (onBlk_next hon ?_ : execMacsecKeyWrite via true sub key s = _)
    exact Block.putObj_missing (b := b) hgranted (objRow_macTx_none (.inl hsub)) missing_macTx
  · intro s via sub key b hon hgranted hsub
    refine (onBlk_next hon ?_ : execMacsecKeyWrite via true sub key s = _)
    exact Block.putObj_missing (b := b) hgranted (objRow_macTx_none (.inr hsub)) missing_macTx
  · intro s via sub key b hon hgranted hsub hsub2 hkey
    refine (onBlk_next hon ?_ : execMacsecKeyWrite via true sub key s = _)
    exact Block.putObj_length (b := b) hgranted (objRow_macTx sub (by omega) hsub) hkey
  · intro s via sub key b k hon hgranted hsub hsub2 hkey
    refine (onBlk_next hon ?_ : execMacsecKeyWrite via true sub key s = _)
    exact Block.putObj_string (b := b) hgranted (objRow_macTx sub (by omega) hsub) hkey (congrArg (Prod.mk 0) Block.macKey_eq)
  · intro s via sub key b hgranted
    exact (onBlk_unchanged (fun _ => Block.serve_silent hgranted) : execMacsecKeyWrite via false sub key s = _)
  · intro s via sub key b hon hgranted
    exact (onBlk_next hon (Block.serve_refused hgranted) : execMacsecKeyWrite via false sub key s = _)
  · intro s via sub key b hon hgranted hsub
    refine (onBlk_next hon ?_ : execMacsecKeyWrite via false sub key s = _)
    exact Block.putObj_missing (b := b) hgranted (objRow_macRx_none (.inl hsub)) missing_macRx
  · intro s via sub key b hon hgranted hsub
    refine (onBlk_next hon ?_ : execMacsecKeyWrite via false sub key s = _)
    exact Block.putObj_missing (b := b) hgranted (objRow_macRx_none (.inr hsub)) missing_macRx
  · intro s via sub key b hon hgranted hsub hsub2 hkey
    refine (onBlk_next hon ?_ : execMacsecKeyWrite via false sub key s = _)
    exact Block.putObj_length (b := b) hgranted (objRow_macRx sub (by omega) hsub) hkey
  · intro s via sub key b k hon hgranted hsub hsub2 hkey
    refine (onBlk_next hon ?_ : execMacsecKeyWrite via false sub key s = _)
    exact Block.putObj_string (b := b) hgranted (objRow_macRx sub (by omega) hsub) hkey (congrArg (Prod.mk 0) Block.macKey_eq)

end Sys2Proof.Machine
end

section
/-! PROOFS. Inbound PCIe requests: a statement that fails. -/

namespace Sys2Proof.Machine

/-- A block whose UP endpoint function 0 owns the ACTIVE INST 0, the context of its queue 0 in the hopper. -/
def ownedInstance : Block :=
  let b := ((({ runBase with active := { recs := [(objKey 0x4A00 1, [2])] } } : Block).put PCI_SSTAT_STATE 2 0).put PCI_CFG_EP 1).put SLC_ISTAT_STATE 1 0
  (b.put SLC_ISTAT_SHARE 1 0).modSlc fun s => { s with hop := [(0, { ctx := some (0, 0) })] }

/-- How often an outcome has looked a context up in the hopper. -/
def Outcome.hopperUses : Host.Outcome State Fault Refusal → Nat
  | .next s => s.blk.slc.uses
  | _ => 0

/-- Refutes O34: a function that leaves D3hot and owns its INST lets the INST's queues fetch (R391), which the clause on the power setting
leaves out. -/
theorem not_pcieInbound : ¬ Obligations.PcieInbound := by
  unfold Obligations.PcieInbound
  rintro ⟨-, -, -, -, -, -, -, -, -, -, -, -, -, -, -, -, -, -, -, -, -, -, hpower, -⟩
  have h := hpower ownedInstance.alone 0 false (by decide +kernel) (by decide +kernel) (by decide +kernel)
  have huses := congrArg Outcome.hopperUses h
  revert huses
  decide +kernel

end Sys2Proof.Machine
end

section
/-! PROOFS. Sacks, frames and slots. -/

namespace Sys2Proof.Machine

section
variable {b : Block} {k want cum d : Nat}

/-- The counts of a sack heal what was lost before it (R333). -/
theorem Block.heal_sack (hd : (cum + 2 ^ 24 - want % 2 ^ 24) % 2 ^ 24 = d) (hfew : d < 2 ^ 23) :
    b.heal k want cum = (true, if d = 0 then b.modPort k (fun p => { p with rxCum := cum })
      else (((b.modPort k (fun p => { p with rxCum := cum, rxFreed := (p.rxFreed + d) % 2 ^ 24 })).cnt k 10 d).put LVP_ERRSTAT_HEAL 1 k).noteOnce k
        (lvpFault 0x180B k)) := by
  subst hd
  by_cases hzero : (cum + 2 ^ 24 - want % 2 ^ 24) % 2 ^ 24 = 0
  · exact (if_pos hzero).trans (congrArg (Prod.mk true) (if_pos hzero).symm)
  · exact (if_neg hzero).trans ((if_pos hfew).trans (congrArg (Prod.mk true) (if_neg hzero).symm))

theorem Block.heal_sack_overrun (hd : (cum + 2 ^ 24 - want % 2 ^ 24) % 2 ^ 24 = d) (hmany : 2 ^ 23 ≤ d) :
    b.heal k want cum = (false, ((b.put LVP_ERRSTAT_CREDOVR 1 k).note (lvpFault 0x280F k)).toInit k) := by
  subst hd
  exact (if_neg (Nat.ne_of_gt (Nat.lt_of_lt_of_le (by decide) hmany))).trans (if_neg (Nat.not_lt.mpr hmany))

end

section
variable {s : State} {k fixed : Nat} {start body tail : Bytes} {b c e f : Block}
  (hs : s.start = b) (hon : b.dev ≠ .off) (hport : k < 6 ∧ b.portSt k = 4 ∧ b.native k = true)
  (hc : (if fixed = 0 then b else ((b.cnt k 0 1).cnt k 1 fixed).noteOnce k (lvpFault 0x1801 k)) = c)
include hs hon hport hc

theorem execSackReceive_badStart (h : (!ctlOk start || !startOk start) = true) :
    execSackReceive k start body tail fixed s =
      .next (s.withBlk (((c.cnt k 5 1).when (!ctlOk start) (fun b => b.put LVP_ERRSTAT_CRCERR 1 k)).note (lvpFault 0x2809 k))) := by
  refine onBlk_next hon ?_ hs
  refine (if_neg (by simp [hport, pUp])).trans ?_
  simp only [hc]
  exact if_pos h

variable (hctl : ctlOk start = true) (hstart : startOk start = true)
include hctl hstart

theorem execSackReceive_badEnd (htail : ctlOk tail = false) : execSackReceive k start body tail fixed s = .next (s.withBlk (c.badBlock k)) := by
  refine onBlk_next hon ?_ hs
  refine (if_neg (by simp [hport, pUp])).trans ?_
  simp only [hc]
  refine (if_neg (by simp [hctl, hstart])).trans ?_
  exact if_pos (by simp [htail])

variable (htail : ctlOk tail = true)
include htail

theorem execSackReceive_dropped (hbody : ¬ (body.length = (leAt 6 2 start + 31) / 32 * 32 ∧ leAt 0 1 tail = 0xE7)) :
    execSackReceive k start body tail fixed s = .next (s.withBlk c) := by
  refine onBlk_next hon ?_ hs
  refine (if_neg (by simp [hport, pUp])).trans ?_
  simp only [hc]
  refine (if_neg (by simp [hctl, hstart])).trans ?_
  refine (if_neg (by simp [htail])).trans ?_
  exact if_pos (by rw [Bool.or_eq_true, decide_eq_true_eq, decide_eq_true_eq]; exact Decidable.not_and_iff_or_not.mp hbody)

variable (hbody : body.length = (leAt 6 2 start + 31) / 32 * 32 ∧ leAt 0 1 tail = 0xE7)
include hbody

theorem execSackReceive_overrun (hheal : c.heal k ((c.port k).rxCum + sackUnits (leAt 6 2 start)) (leAt 18 3 start) = (false, e)) :
    execSackReceive k start body tail fixed s = .next (s.withBlk e) := by
  refine onBlk_next hon ?_ hs
  refine (if_neg (by simp [hport, pUp])).trans ?_
  simp only [hc]
  refine (if_neg (by simp [hctl, hstart])).trans ?_
  refine (if_neg (by simp [htail])).trans ?_
  refine (if_neg (by simp [hbody])).trans ?_
  simp only [hheal]

variable (hheal : c.heal k ((c.port k).rxCum + sackUnits (leAt 6 2 start)) (leAt 18 3 start) = (true, e))
include hheal

theorem execSackReceive_tooMany
    (hused : 2048 < (leAt 18 3 start + 2 ^ 25 - sackUnits (leAt 6 2 start) - (e.port k).rxFreed) % 2 ^ 24 + sackUnits (leAt 6 2 start)) :
    execSackReceive k start body tail fixed s = .next (s.withBlk (((e.put LVP_ERRSTAT_CREDOVR 1 k).note (lvpFault 0x280F k)).toInit k)) := by
  refine onBlk_next hon ?_ hs
  refine (if_neg (by simp [hport, pUp])).trans ?_
  simp only [hc]
  refine (if_neg (by simp [hctl, hstart])).trans ?_
  refine (if_neg (by simp [htail])).trans ?_
  refine (if_neg (by simp [hbody])).trans ?_
  simp only [hheal]
  exact if_pos hused

variable (hused : (leAt 18 3 start + 2 ^ 25 - sackUnits (leAt 6 2 start) - (e.port k).rxFreed) % 2 ^ 24 + sackUnits (leAt 6 2 start) ≤ 2048)
  (hf : (e.cnt k 4 1).modPort k (fun p => { p with rxFreed := (p.rxFreed + sackUnits (leAt 6 2 start)) % 2 ^ 24 }) = f)
include hused hf

/-- A sack whose CRC-32 is wrong. -/
theorem execSackReceive_badCrc (hcrc : leAt 18 4 tail ≠ crc32 (start ++ body.take (leAt 6 2 start) ++ (tail.drop 2).take 16)) :
    execSackReceive k start body tail fixed s = .next (s.withBlk (((f.cnt k 6 1).put LVP_ERRSTAT_CRCERR 1 k).note (lvpFault 0x2809 k))) := by
  refine onBlk_next hon ?_ hs
  refine (if_neg (by simp [hport, pUp])).trans ?_
  simp only [hc]
  refine (if_neg (by simp [hctl, hstart])).trans ?_
  refine (if_neg (by simp [htail])).trans ?_
  refine (if_neg (by simp [hbody])).trans ?_
  simp only [hheal, hf]
  refine (if_neg (Nat.not_lt.mpr hused)).trans ?_
  exact if_pos hcrc

/-- A sack that is whole goes to its authentication. -/
theorem execSackReceive_opened {r : Option Bytes} {g x : Block} (hcrc : leAt 18 4 tail = crc32 (start ++ body.take (leAt 6 2 start) ++ (tail.drop 2).take 16))
    (hauth : f.authSack k start (body.take (leAt 6 2 start)) ((tail.drop 2).take 16) = (r, g))
    (hno : r = none → x = ((g.cnt k 7 1).put LVP_ERRSTAT_AUTHERR 1 k).note (lvpFault 0x280A k))
    (hsome : ∀ v, r = some v → x = g.passSack k (bit (leAt 1 1 start) 2) (sackOf start v)) :
    execSackReceive k start body tail fixed s = .next (s.withBlk x) := by
  refine onBlk_next hon ?_ hs
  refine (if_neg (by simp [hport, pUp])).trans ?_
  simp only [hc]
  refine (if_neg (by simp [hctl, hstart])).trans ?_
  refine (if_neg (by simp [htail])).trans ?_
  refine (if_neg (by simp [hbody])).trans ?_
  simp only [hheal, hf]
  refine (if_neg (Nat.not_lt.mpr hused)).trans ?_
  refine (if_neg (not_not_intro hcrc)).trans ?_
  simp only [hauth]
  cases r with
  | none => exact (hno rfl).symm
  | some v => exact (hsome v rfl).symm

end

section
variable {s : State} {k lane : Nat} {frame : Bytes} {b c : Block} {r : Option (Bytes × Bool)}
  (hs : s.start = b) (hon : b.dev ≠ .off) (hport : k < 6 ∧ lane < 4 ∧ b.portSt k = 4 ∧ b.native k = false)
  (hfcs : 64 ≤ frame.length ∧ frame.length ≤ 9216 ∧ leNat (frame.drop (frame.length - 4)) = crc32 (frame.take (frame.length - 4)))
  (hopen : b.macOpen k lane (frame.take (frame.length - 4)) = (r, c))
include hs hon hport hfcs hopen

/-- A frame that MACsec refuses. -/
theorem execEthernetFrameReceive_macsec (hr : r = none) :
    execEthernetFrameReceive k lane frame s = .next (s.withBlk ((c.put LVP_ERRSTAT_MACSEC 1 k).note (lvpFault 0x2810 k))) := by
  subst hr
  refine onBlk_next hon ?_ hs
  refine (if_neg (by simp [hport, pUp])).trans ?_
  refine (if_neg (by simp [hfcs])).trans ?_
  simp only [hopen]

/-- A frame that is open, by its EtherType. -/
theorem execEthernetFrameReceive_opened {v : Bytes} {sec : Bool} (hr : r = some (v, sec)) :
    execEthernetFrameReceive k lane frame s = .next (s.withBlk (
      if beNat ((v.drop (etherAt v)).take 2) = 0x8808 then c
      else if beNat ((v.drop (etherAt v)).take 2) = c.actN 0x4020 2 then c.nativeFrame k sec (v.drop (etherAt v + 2))
      else c.classify { keys := frameKeys v, port := k, turn := c.tagTurn, phase := c.nowNs, eth := true, sec := sec,
                        rtag := if (v.drop (etherAt v - 6)).take 2 = [0xF1, 0xC1] then some (beNat ((v.drop (etherAt v - 2)).take 2)) else none,
                        sack := { vl := pcpVl (if (v.drop 12).take 2 = [0x81, 0x00] then leAt 14 1 v / 32 else 0), payload := v } })) := by
  subst hr
  refine onBlk_next hon ?_ hs
  refine (if_neg (by simp [hport, pUp])).trans ?_
  refine (if_neg (by simp [hfcs])).trans ?_
  simp only [hopen]

end

section
variable {s : State} {k slot p each : Nat} {b c d : Block} {l : List Sack}
  (hs : s.start = b) (hon : b.dev ≠ .off) (hslot : k < 6 ∧ slot < 64 ∧ b.isSet LVP_SLOT_VALID k slot = true ∧ b.isSet LVP_SLOT_DIR k slot = false)
  (hp : b.get LVP_SLOT_PART k slot = p) (hc : b.advanceTo (b.get LVP_SLOT_START k slot * 100) = c)
  (hloaded : c.partDefined p = true ∧ c.get BLT_PSTAT_STATE p ≠ pDefined) (hl : c.egressSacks p k = (l, d))
  (heach : (if c.isSet LVP_SLOT_DUP k slot then 2 else 1) = each)
include hs hon hslot hp hc hloaded hl heach

/-- A slot of a port that may not send drops its sacks. -/
theorem execTxSlotStart_dropped (hup : ¬ (d.portSt k = 4 ∧ d.outputsOn = true)) :
    execTxSlotStart k slot s = .next (s.withBlk (d.dropVl0 k (each * l.length))) := by
  refine onBlk_next hon ?_ hs
  refine (if_neg (by simp [hslot])).trans ?_
  simp only [hp, hc, hl, heach]
  refine (if_neg (by simp [hloaded])).trans ?_
  exact if_pos (by grind [pUp])

theorem execTxSlotStart_sent {go : List (Nat × Sack)} (hup : d.portSt k = 4 ∧ d.outputsOn = true)
    (hgo : startTimes (popcount 4 (d.get LVP_STATUS_TXLANES k)) ((d.get LVP_SLOT_END k slot - d.get LVP_SLOT_START k slot) * 100) 0 l = go) :
    execTxSlotStart k slot s = .next (s.withBlk ((((d.dropVl0 k (each * (l.length - go.length))).modPort k fun q => { q with
      slot := some slot, vl0 := go.map (·.2), dups := if c.isSet LVP_SLOT_DUP k slot then go.map fun x => (d.nowNs + x.1 + 5000, x.2) else [] }).drain k).pnCheck k)) := by
  refine onBlk_next hon ?_ hs
  refine (if_neg (by simp [hslot])).trans ?_
  simp only [hp, hc, hl, heach, hgo]
  refine (if_neg (by simp [hloaded])).trans ?_
  exact if_neg (by simp [hup, pUp])

end

/-- Settles O29: a sack or frame is checked in order, and the first check that fails picks the branch; a slot sends what fits. -/
theorem leavoSacks : Obligations.LeavoSacks := by
  unfold Obligations.LeavoSacks
  refine ⟨?_, ?_, ?_, ?_, ?_, ?_, ?_, ?_, ?_, ?_, ?_, ?_, ?_, ?_, ?_, ?_, ?_, ?_, ?_, ?_, ?_, ?_, ?_, ?_, ?_, ?_⟩
  -- `sackReceive`
  · intro s k start body tail fixed b hportSt
    refine (onBlk_unchanged (fun _ => ?_) : execSackReceive k start body tail fixed s = _)
    exact if_pos (by grind [pUp])
  · intro s k start body tail fixed b c hon hportSt hctlOk
    exact (execSackReceive_badStart (b := b) (c := c) rfl hon hportSt rfl (by simp [hctlOk])).trans (by rw [hctlOk]; rfl)
  · intro s k start body tail fixed b c hon hportSt hctlOk hstartOk
    exact (execSackReceive_badStart (b := b) (c := c) rfl hon hportSt rfl (by simp [hstartOk])).trans (by rw [hctlOk]; rfl)
  · intro s k start body tail fixed b c hon hportSt hctlOk hstartOk hctlOk2
    exact execSackReceive_badEnd (b := b) (c := c) rfl hon hportSt rfl hctlOk hstartOk hctlOk2
  · intro s k start body tail fixed b c hon hportSt hctlOk hstartOk hctlOk2 hbody
    exact execSackReceive_dropped (b := b) (c := c) rfl hon hportSt rfl hctlOk hstartOk hctlOk2 hbody
  · intro s k start body tail fixed b c u cum d hon hportSt hctlOk hstartOk hctlOk2 hbody hcond
    exact execSackReceive_overrun (b := b) (c := c) rfl hon hportSt rfl hctlOk hstartOk hctlOk2 hbody (Block.heal_sack_overrun (d := d) rfl hcond)
  · intro s k start body tail fixed b c u cum d e used hon hportSt hctlOk hstartOk hctlOk2 hbody hcond hused
    exact execSackReceive_tooMany (b := b) (c := c) (e := e) rfl hon hportSt rfl hctlOk hstartOk hctlOk2 hbody (Block.heal_sack (d := d) rfl hcond) hused
  · intro s k start body tail fixed b c u cum d e used f payload tag hon hportSt hctlOk hstartOk hctlOk2 hbody hcond hused hleAt
    exact execSackReceive_badCrc (b := b) (c := c) (e := e) (f := f) rfl hon hportSt rfl hctlOk hstartOk hctlOk2 hbody
      (Block.heal_sack (d := d) rfl hcond) hused rfl hleAt
  · intro s k start body tail fixed b c u cum d e used f payload tag g hon hportSt hctlOk hstartOk hctlOk2 hbody hcond hused hleAt hcond2
    have hauth : f.authSack k start payload tag = (g.1, g.2) := (Prod.eta _).symm
    exact execSackReceive_opened (b := b) (c := c) (e := e) (f := f) rfl hon hportSt rfl hctlOk hstartOk hctlOk2 hbody
      (Block.heal_sack (d := d) rfl hcond) hused rfl hleAt hauth (fun _ => rfl) fun v h => by cases hcond2.symm.trans h
  · intro s k start body tail fixed v b c u cum d e used f payload tag g hon hportSt hctlOk hstartOk hctlOk2 hbody hcond hused hleAt hcond2
    have hauth : f.authSack k start payload tag = (g.1, g.2) := (Prod.eta _).symm
    exact execSackReceive_opened (b := b) (c := c) (e := e) (f := f) rfl hon hportSt rfl hctlOk hstartOk hctlOk2 hbody
      (Block.heal_sack (d := d) rfl hcond) hused rfl hleAt hauth (fun h => by cases hcond2.symm.trans h) fun w h => by
        cases hcond2.symm.trans h; rfl
  -- `ethernetFrameReceive`
  · intro s k lane frame b hlane
    refine (onBlk_unchanged (fun _ => ?_) : execEthernetFrameReceive k lane frame s = _)
    exact if_pos (by grind [pUp])
  · intro s k lane frame b n hon hlane hleNat
    refine (onBlk_next hon ?_ : execEthernetFrameReceive k lane frame s = _)
    refine (if_neg (by simp [hlane, pUp])).trans ?_
    exact if_pos (by grind)
  · intro s k lane frame b n r hon hlane hleNat hcond
    have hopen : b.macOpen k lane (frame.take (n - 4)) = (r.1, r.2) := (Prod.eta _).symm
    exact execEthernetFrameReceive_macsec (b := b) (c := r.2) rfl hon hlane hleNat hopen hcond
  · intro s k lane frame v sec b n r c ty hon hlane hleNat hsec hty
    have hopen : b.macOpen k lane (frame.take (n - 4)) = (r.1, c) := (Prod.eta _).symm
    refine (execEthernetFrameReceive_opened (b := b) (c := c) rfl hon hlane hleNat hopen hsec).trans ?_
    rw [if_pos hty]
  · intro s k lane frame v sec b n r c ty hon hlane hleNat hsec hty hty2
    have hopen : b.macOpen k lane (frame.take (n - 4)) = (r.1, c) := (Prod.eta _).symm
    refine (execEthernetFrameReceive_opened (b := b) (c := c) rfl hon hlane hleNat hopen hsec).trans ?_
    rw [if_neg hty, if_pos hty2]
  · intro s k lane frame v sec b n r c ty hon hlane hleNat hsec hty hty2
    have hopen : b.macOpen k lane (frame.take (n - 4)) = (r.1, c) := (Prod.eta _).symm
    refine (execEthernetFrameReceive_opened (b := b) (c := c) rfl hon hlane hleNat hopen hsec).trans ?_
    rw [if_neg hty, if_neg hty2]
  -- `txSlotStart`
  · intro s k slot b hslot
    refine (onBlk_unchanged (fun _ => ?_) : execTxSlotStart k slot s = _)
    exact if_pos (by grind)
  · intro s k slot b p c hon hslot hpartDefined
    refine (onBlk_next hon ?_ : execTxSlotStart k slot s = _)
    refine (if_neg (by simp [hslot])).trans ?_
    exact if_pos (by grind)
  · intro s k slot b p c l d each hon hslot hpartDefined hportSt
    have hl : c.egressSacks p k = (l, d) := (Prod.eta _).symm
    exact execTxSlotStart_dropped (b := b) (c := c) (d := d) rfl hon hslot rfl rfl hpartDefined hl rfl hportSt
  · intro s k slot b p c l d each go e hon hslot hpartDefined hportSt
    have hl : c.egressSacks p k = (l, d) := (Prod.eta _).symm
    exact execTxSlotStart_sent (b := b) (c := c) (d := d) (go := go) rfl hon hslot rfl rfl hpartDefined hl rfl hportSt rfl
  -- `dupCopySend`
  · intro s k b c hon hport
    refine (onBlk_next hon ?_ : execDupCopySend k s = _)
    simp [hport, c]
  · intro s k t x r b c d hon hport hport2
    refine (onBlk_next hon ?_ : execDupCopySend k s = _)
    simp_all [c, d]
  · intro s k t x r b c d hon hport hport2
    refine (onBlk_next hon ?_ : execDupCopySend k s = _)
    obtain ⟨hk, hslot, hmay⟩ := hport2
    simp [hport, Nat.not_le.mpr hk, hslot, hmay, c, d]
  -- `slotEnd`
  · intro s k slot b hport
    refine (onBlk_unchanged (fun _ => ?_) : execSlotEnd k slot s = _)
    exact if_pos (by grind)
  · intro s k slot b c hon hport
    refine (onBlk_next hon ?_ : execSlotEnd k slot s = _)
    exact if_neg (by simp [hport])
  -- `scheduleAnnouncement`
  · intro s b hon
    refine (onBlk_next hon ?_ : execScheduleAnnouncement s = _)
    rfl

end Sys2Proof.Machine
end

section
/-! PROOFS. The hub translation unit and its command queue. -/

namespace Sys2Proof.Machine

section
variable {b : Block} {k : IoCmd} {f : Nat → Block → Block} {w : Nat}

theorem Block.iotCmd_none (h : b.iotHead.1 = none) : b.iotCmd k f = b.iotHead.2 := by
  unfold Block.iotCmd
  generalize b.iotHead = r at h
  obtain ⟨o, c⟩ := r
  subst h
  rfl

theorem Block.iotCmd_some (h : b.iotHead.1 = some w) : b.iotCmd k f = if ioCmd w = k then f w b.iotHead.2 else b.iotHead.2 := by
  unfold Block.iotCmd
  generalize b.iotHead = r at h
  obtain ⟨o, c⟩ := r
  subst h
  rfl

end

/-- In bare mode an untagged address comes out as it came in. -/
theorem Block.iotTranslate_bare {b : Block} {dev mid part iova : Nat} {acc : Acc} (hmode : bits (b.iotG ioDdtp) 0 3 = 1) (hiova : iova < 2 ^ 48) :
    b.iotTranslate dev mid part none acc iova = (some iova, b.iotEvent 1 dev none) := by
  have hlookup : b.iotLookup dev mid part none acc iova = (.ok (iova, 0), b.iotEvent 1 dev none) :=
    (if_neg fun h => absurd (hmode.symm.trans h) (by decide)).trans (if_pos hmode)
  unfold Block.iotTranslate
  rw [hlookup]
  exact congrArg (fun o => (o, b.iotEvent 1 dev none)) (if_pos hiova)

/-! ## The unit's registers, which logging leaves alone -/

section
variable {off : Nat}

theorem Block.iotG_iotS_same (v : Nat) (b : Block) : (b.iotS off v).iotG off = v := SMap.get_set_same ..

theorem Block.iotG_put_logIndex {f : Fld} (hf : f.reg = .GOV_FLOGIDX) (v : Nat) (b : Block) : (b.put f v).iotG off = b.iotG off := by
  refine SMap.get_set_ne _ _ ?_ _ _
  rw [hf]
  simp only [iotBase, Reg.addr, Reg.desc]
  omega

theorem Block.iotG_writeEntry (f : FaultSpec) (b : Block) : (b.writeEntry f).iotG off = b.iotG off := by
  simp only [Block.writeEntry]
  split
  · rw [Block.inc, Block.iotG_put_logIndex rfl, Block.iotG_put_logIndex rfl]
    rfl
  · rw [Block.iotG_put_logIndex rfl]
    rfl

theorem Block.iotG_note (f : FaultSpec) (b : Block) : (b.note f).iotG off = b.iotG off := by
  unfold Block.note
  split
  · rfl
  dsimp only
  split
  · rfl
  split
  · split
    · rw [Block.iotG_writeEntry]; rfl
    · rfl
  · rw [Block.iotG_writeEntry]; rfl

theorem bit_setBits_other (v x : Nat) {lo hi n : Nat} (h : lo ≤ hi) (hn : n < lo ∨ hi < n) : bit (setBits v lo hi x) n = bit v n := by
  have hbits := bits_setBits_other v x h (Nat.le_refl n) hn
  simp only [bits, Nat.add_sub_cancel_left, Nat.pow_one] at hbits
  simp only [bit, hbits]

end

/-- Settles O19: the command at the head of the queue, read first, is taken by the row of its kind and stays for any other. -/
theorem iotRows : Obligations.IotRows := by
  unfold Obligations.IotRows
  refine ⟨?_, ?_, ?_, ?_, ?_, ?_, ?_, ?_, ?_, ?_, ?_, ?_, ?_, ?_, ?_, ?_, ?_, ?_, ?_, ?_, ?_, ?_, ?_, ?_⟩
  -- `iotTranslate`
  · intro s dev mid part pasid write ex iova b hon hbits hpasid hiova
    subst hpasid
    refine (onBlk_next hon ?_ : execIotTranslate dev mid part none write ex iova s = _)
    rw [Block.iotTranslate_bare hbits hiova]
  · intro s dev mid part pasid write ex iova pa b c hon hiotTranslate
    refine (onBlk_next hon ?_ : execIotTranslate dev mid part pasid write ex iova s = _)
    grind
  · intro s dev mid part pasid write ex iova b c hon hiotTranslate
    refine (onBlk_next hon ?_ : execIotTranslate dev mid part pasid write ex iova s = _)
    grind
  -- `iotinvalVma`
  · intro s w b c hon hiotHead hioCmd
    refine (onBlk_next hon ?_ : execIotinvalVma s = _)
    exact (Block.iotCmd_some (b := b) hiotHead).trans (if_pos hioCmd)
  · intro s w b c hon hiotHead hioCmd
    refine (onBlk_next hon ?_ : execIotinvalVma s = _)
    exact (Block.iotCmd_some (b := b) hiotHead).trans (if_neg hioCmd)
  · intro s b c hon hiotHead
    exact (onBlk_next hon (Block.iotCmd_none hiotHead) : execIotinvalVma s = _)
  -- `iotinvalGvma`
  · intro s w b c hon hiotHead hioCmd
    refine (onBlk_next hon ?_ : execIotinvalGvma s = _)
    exact (Block.iotCmd_some (b := b) hiotHead).trans (if_pos hioCmd)
  · intro s w b c hon hiotHead hioCmd
    refine (onBlk_next hon ?_ : execIotinvalGvma s = _)
    exact (Block.iotCmd_some (b := b) hiotHead).trans (if_neg hioCmd)
  · intro s b c hon hiotHead
    exact (onBlk_next hon (Block.iotCmd_none hiotHead) : execIotinvalGvma s = _)
  -- `iodirCmd`
  · intro s w b c hon hiotHead hioCmd
    refine (onBlk_next hon ?_ : execIodirCmd s = _)
    exact (Block.iotCmd_some (b := b) hiotHead).trans (if_pos hioCmd)
  · intro s w b c hon hiotHead hioCmd
    refine (onBlk_next hon ?_ : execIodirCmd s = _)
    exact (Block.iotCmd_some (b := b) hiotHead).trans (if_neg hioCmd)
  · intro s b c hon hiotHead
    exact (onBlk_next hon (Block.iotCmd_none hiotHead) : execIodirCmd s = _)
  -- `iofenceC`
  · intro s w b c hon hiotHead hioCmd
    refine (onBlk_next hon ?_ : execIofenceC s = _)
    exact (Block.iotCmd_some (b := b) hiotHead).trans (if_pos hioCmd)
  · intro s w b c hon hiotHead hioCmd
    refine (onBlk_next hon ?_ : execIofenceC s = _)
    exact (Block.iotCmd_some (b := b) hiotHead).trans (if_neg hioCmd)
  · intro s b c hon hiotHead
    exact (onBlk_next hon (Block.iotCmd_none hiotHead) : execIofenceC s = _)
  -- `iotCommandIllegal`
  · intro s w b c hon hiotHead hioCmd
    refine (onBlk_next hon ?_ : execIotCommandIllegal s = _)
    refine (Block.iotCmd_some (b := b) hiotHead).trans ((if_pos hioCmd).trans ?_)
    refine congrArg (fun p => Block.when p _ _) ?_
    rw [Block.iotG_note, Block.iotG_iotS_same, bit_setBits_other _ _ (by decide) (.inl (by decide))]
  · intro s w b c hon hiotHead hioCmd
    refine (onBlk_next hon ?_ : execIotCommandIllegal s = _)
    exact (Block.iotCmd_some (b := b) hiotHead).trans (if_neg hioCmd)
  · intro s b c hon hiotHead
    exact (onBlk_next hon (Block.iotCmd_none hiotHead) : execIotCommandIllegal s = _)
  -- `iofenceCComplete`
  · intro s b hiot
    refine (onBlk_unchanged (fun _ => ?_) : execIofenceCComplete s = _)
    exact if_pos (by grind)
  · intro s b c d hon hiot hiotHead
    refine (onBlk_next hon ?_ : execIofenceCComplete s = _)
    refine (if_neg (by simp [hiot])).trans ?_
    grind
  · intro s w b c d a hon hiot hiotHead hbit
    refine (onBlk_next hon ?_ : execIofenceCComplete s = _)
    refine (if_neg (by simp [hiot])).trans ?_
    grind
  · intro s w b c d a hon hiot hiotHead hbit hfileOf
    refine (onBlk_next hon ?_ : execIofenceCComplete s = _)
    refine (if_neg (by simp [hiot])).trans ?_
    grind
  · intro s w b c d a hon hiot hiotHead hbit hfileOf hrangeOk
    refine (onBlk_next hon ?_ : execIofenceCComplete s = _)
    refine (if_neg (by simp [hiot])).trans ?_
    grind
  · intro s w b c d a hon hiot hiotHead hbit hfileOf hrangeOk
    refine (onBlk_next hon ?_ : execIofenceCComplete s = _)
    refine (if_neg (by simp [hiot])).trans ?_
    grind

end Sys2Proof.Machine
end

section
/-! PROOFS. Fences and their broadcast. -/

namespace Sys2Proof.Machine

/-- The fence as the mode means it: in VS mode that of the VMID in hgatp (R87). -/
def fenceSeenBy (md : Priv) (kind : FenceKind) : FenceKind :=
  if md = .vs then (match kind with | .sfenceVma => .hfenceVvma | .sinvalVma => .hinvalVvma | k => k) else kind

/-- The VMID that a fence covers. -/
def fenceVmid (cur : Nat) (vmid : Option Nat) : FenceKind → Option Nat
  | .hfenceVvma | .hinvalVvma => some cur
  | .hfenceGvma | .hinvalGvma => vmid
  | _ => none

/-- A fence whose broadcast is waited for. -/
def fenceHolds : FenceKind → Bool
  | .sinvalVma | .hinvalVvma | .hinvalGvma => false
  | _ => true

section
variable {b : Block} {h : Nat} {kind : FenceKind} {addr asid vmid : Option Nat}

/-- What a fence leaves of the hart's own translation caches. -/
def Block.fenced (b : Block) (h : Nat) (kind : FenceKind) (addr asid vmid : Option Nat) : Block :=
  b.applyFence h (fenceSeenBy (b.hart h).priv kind) addr asid (fenceVmid (bits (b.csr h csrHgatp) 44 57) vmid (fenceSeenBy (b.hart h).priv kind))

/-- Is broadcast enabled for the mode, and the hart in a domain? -/
def Block.broadcasts (b : Block) (h : Nat) (md : Priv) : Prop :=
  ((md = .s ∧ bit (b.csr h csrBcastctl) 0 = true) ∨ (md = .vs ∧ bit (b.csr h csrBcastctl) 1 = true)) ∧ bit (b.csr h csrInvdom) 15 = true

theorem broadcasts_not_iff {p q : Prop} [Decidable p] [Decidable q] {x y z : Bool} :
    (!((p && x) || (q && y)) || !z) = true ↔ ¬ (((p ∧ x = true) ∨ (q ∧ y = true)) ∧ z = true) := by
  simp only [Bool.or_eq_true, Bool.not_eq_true', Bool.or_eq_false_iff, Bool.and_eq_false_iff, decide_eq_false_iff_not]
  grind

theorem Block.fence_trap {c : Nat} (htrap : fenceTrap (b.hart h).priv kind = some c) :
    b.fence h kind addr asid vmid = b.except h { cause := c, tval := 0 } := by
  unfold Block.fence
  dsimp only
  rw [htrap]

variable (htrap : fenceTrap (b.hart h).priv kind = none)
include htrap

theorem Block.fence_ir (hkind : kind = .sfenceInvalIr) :
    b.fence h kind addr asid vmid =
      (b.fenced h kind addr asid vmid).modHart h fun t => { t with bcasts := t.bcasts.map fun c => { c with waits := true } } := by
  unfold Block.fence
  dsimp only
  rw [htrap]
  exact if_pos hkind

theorem Block.fence_own (hkind : kind ≠ .sfenceInvalIr) (hown : ¬ (b.fenced h kind addr asid vmid).broadcasts h (b.hart h).priv) :
    b.fence h kind addr asid vmid = b.fenced h kind addr asid vmid := by
  unfold Block.fence
  dsimp only
  rw [htrap]
  exact (if_neg hkind).trans (if_pos (broadcasts_not_iff.mpr hown))

/-- A fence that goes out, kept with its targets while there are any. -/
theorem Block.fence_sent {d : Block} {ts : List Nat} (hkind : kind ≠ .sfenceInvalIr) (hd : b.fenced h kind addr asid vmid = d)
    (hsent : d.broadcasts h (b.hart h).priv) (hts : d.domainOf h (bits (d.csr h csrInvdom) 0 5) = ts) :
    b.fence h kind addr asid vmid =
      (d.modHart h fun t => { t with nextB := (d.hart h).nextB + 1, bcasts := t.bcasts ++ (if ts.isEmpty then [] else
        [{ id := (d.hart h).nextB, kind := fenceSeenBy (b.hart h).priv kind, addr := addr, asid := asid,
           vmid := fenceVmid (bits (b.csr h csrHgatp) 44 57) vmid (fenceSeenBy (b.hart h).priv kind), domain := bits (d.csr h csrInvdom) 0 5,
           targets := ts, waits := fenceHolds (fenceSeenBy (b.hart h).priv kind) }]) }).forL d.activeSails fun n b => b.emit (.binv n h (d.hart h).nextB) := by
  subst hd hts
  unfold Block.fence
  dsimp only
  rw [htrap]
  exact (if_neg hkind).trans (if_neg fun hno => broadcasts_not_iff.mp hno hsent)

end

/-- Settles O18: a fence traps, acts on its own hart, or goes out to the domain; a delivery acts on each of its targets. -/
theorem fencesAndBroadcasts : Obligations.FencesAndBroadcasts := by
  unfold Obligations.FencesAndBroadcasts
  refine ⟨?_, ?_, ?_, ?_, ?_, ?_, ?_, ?_, ?_, ?_, ?_, ?_, ?_, ?_, ?_, ?_, ?_, ?_, ?_, ?_, ?_, ?_, ?_, ?_⟩
  -- `sfenceVma`
  · intro s sail core kind addr asid vmid b h hcore
    exact (onBlk_unchanged (b := b) (fun _ => Block.instr_ite_waits hcore) : execSfenceVma sail core kind addr asid vmid s = _)
  · intro s sail core kind addr asid vmid lv i b h hon hcore hready hirqNext
    refine (onBlk_next hon ?_ : execSfenceVma sail core kind addr asid vmid s = _)
    refine (if_neg (by simp [hcore])).trans ?_
    refine (if_neg (by simp [hready, h])).trans ?_
    simp [hirqNext, h]
  · intro s sail core kind addr asid vmid b h hon hcore hready hirqNext htrigCount
    refine (onBlk_next hon ?_ : execSfenceVma sail core kind addr asid vmid s = _)
    refine (if_neg (by simp [hcore])).trans ?_
    refine (if_neg (by simp [hready, h])).trans ?_
    grind
  · intro s sail core kind addr asid vmid k b h c hon hcore hready hirqNext htrigCount hfenceTrap
    refine (onBlk_next hon ((if_neg (Nat.not_le.mpr hcore)).trans ((Block.instr_runs (b := b) hready hirqNext htrigCount).trans ?_)) : execSfenceVma sail core kind addr asid vmid s = _)
    exact Block.fence_trap (b := c) hfenceTrap
  · intro s sail core kind addr asid vmid b h c md kd vm d hon hcore hready hirqNext htrigCount hfenceTrap hkind
    refine (onBlk_next hon ((if_neg (Nat.not_le.mpr hcore)).trans ((Block.instr_runs (b := b) hready hirqNext htrigCount).trans ?_)) : execSfenceVma sail core kind addr asid vmid s = _)
    exact Block.fence_ir (b := c) hfenceTrap hkind
  · intro s sail core kind addr asid vmid b h c md kd vm d hon hcore hready hirqNext htrigCount hfenceTrap hkind hmd
    refine (onBlk_next hon ((if_neg (Nat.not_le.mpr hcore)).trans ((Block.instr_runs (b := b) hready hirqNext htrigCount).trans ?_)) : execSfenceVma sail core kind addr asid vmid s = _)
    exact Block.fence_own (b := c) hfenceTrap hkind hmd
  · intro s sail core kind addr asid vmid b h c md kd vm d ts id sent e hon hcore hready hirqNext htrigCount hfenceTrap hkind hmd
    refine (onBlk_next hon ((if_neg (Nat.not_le.mpr hcore)).trans ((Block.instr_runs (b := b) hready hirqNext htrigCount).trans ?_)) : execSfenceVma sail core kind addr asid vmid s = _)
    exact Block.fence_sent (b := c) (d := d) (ts := ts) hfenceTrap hkind rfl hmd rfl
  -- `broadcastFence`
  · intro s sail core kind addr asid vmid b h hcore
    exact (onBlk_unchanged (b := b) (fun _ => Block.instr_ite_waits hcore) : execBroadcastFence sail core kind addr asid vmid s = _)
  · intro s sail core kind addr asid vmid lv i b h hon hcore hready hirqNext
    refine (onBlk_next hon ?_ : execBroadcastFence sail core kind addr asid vmid s = _)
    refine (if_neg (by simp [hcore])).trans ?_
    refine (if_neg (by simp [hready, h])).trans ?_
    simp [hirqNext, h]
  · intro s sail core kind addr asid vmid b h hon hcore hready hirqNext htrigCount
    refine (onBlk_next hon ?_ : execBroadcastFence sail core kind addr asid vmid s = _)
    refine (if_neg (by simp [hcore])).trans ?_
    refine (if_neg (by simp [hready, h])).trans ?_
    grind
  · intro s sail core kind addr asid vmid k b h c hon hcore hready hirqNext htrigCount hfenceTrap
    refine (onBlk_next hon ((if_neg (Nat.not_le.mpr hcore)).trans ((Block.instr_runs (b := b) hready hirqNext htrigCount).trans ?_)) : execBroadcastFence sail core kind addr asid vmid s = _)
    exact Block.fence_trap (b := c) hfenceTrap
  · intro s sail core kind addr asid vmid b h c md kd vm d hon hcore hready hirqNext htrigCount hfenceTrap hkind
    refine (onBlk_next hon ((if_neg (Nat.not_le.mpr hcore)).trans ((Block.instr_runs (b := b) hready hirqNext htrigCount).trans ?_)) : execBroadcastFence sail core kind addr asid vmid s = _)
    exact Block.fence_ir (b := c) hfenceTrap hkind
  · intro s sail core kind addr asid vmid b h c md kd vm d hon hcore hready hirqNext htrigCount hfenceTrap hkind hmd
    refine (onBlk_next hon ((if_neg (Nat.not_le.mpr hcore)).trans ((Block.instr_runs (b := b) hready hirqNext htrigCount).trans ?_)) : execBroadcastFence sail core kind addr asid vmid s = _)
    exact Block.fence_own (b := c) hfenceTrap hkind hmd
  · intro s sail core kind addr asid vmid b h c md kd vm d ts id sent e hon hcore hready hirqNext htrigCount hfenceTrap hkind hmd
    refine (onBlk_next hon ((if_neg (Nat.not_le.mpr hcore)).trans ((Block.instr_runs (b := b) hready hirqNext htrigCount).trans ?_)) : execBroadcastFence sail core kind addr asid vmid s = _)
    exact Block.fence_sent (b := c) (d := d) (ts := ts) hfenceTrap hkind rfl hmd rfl
  -- `binvMsg`
  · intro s sail src id b q hon harrives
    exact (onBlk_next hon (Block.taking_gone harrives) : execBinvMsg sail src id s = _)
  · intro s sail src id b q hon harrives hactive
    refine (onBlk_next hon ((Block.taking_lands (b := b) harrives).trans ?_) : execBinvMsg sail src id s = _)
    exact if_pos (by simp [hactive, q])
  · intro s sail src id b q hon harrives hactive hhart
    refine (onBlk_next hon ((Block.taking_lands (b := b) harrives).trans ?_) : execBinvMsg sail src id s = _)
    refine (if_neg (by simp [hactive, q])).trans ?_
    simp [hhart, q]
  · intro s sail src id c b q ts d hon harrives hactive hhart hsail
    refine (onBlk_next hon ((Block.taking_lands (b := b) harrives).trans ?_) : execBinvMsg sail src id s = _)
    refine (if_neg (by simp [hactive, q])).trans ?_
    simp [hhart, hsail, q, ts, d]
  · intro s sail src id c b q ts d e hold hon harrives hactive hhart hsail hhold
    refine (onBlk_next hon ((Block.taking_lands (b := b) harrives).trans ?_) : execBinvMsg sail src id s = _)
    refine (if_neg (by simp [hactive, q])).trans ?_
    simp [hhart, hsail, hhold, q, ts, d, e, hold]
  · intro s sail src id c b q ts d e hold hon harrives hactive hhart hsail hhold
    refine (onBlk_next hon ((Block.taking_lands (b := b) harrives).trans ?_) : execBinvMsg sail src id s = _)
    refine (if_neg (by simp [hactive, q])).trans ?_
    simp only [q] at hhart
    simp only [hhart]
    exact (if_neg hsail).trans (if_neg (ne_true_of_eq_false (List.isEmpty_eq_false_iff.mpr hhold)))
  -- `binvAck`
  · intro s sail src id b q hon harrives
    exact (onBlk_next hon (Block.taking_gone harrives) : execBinvAck sail src id s = _)
  · intro s sail src id b q hon harrives
    refine (onBlk_next hon ((Block.taking_lands (b := b) harrives).trans ?_) : execBinvAck sail src id s = _)
    rfl
  -- `binvTimeout`
  · intro s src id b hhart
    refine (onBlk_unchanged (fun _ => ?_) : execBinvTimeout src id s = _)
    grind
  · intro s src id c b hon hhart
    refine (onBlk_next hon ?_ : execBinvTimeout src id s = _)
    simp only [hhart]

end Sys2Proof.Machine
end

section
/-! PROOFS. Accesses of the harts. -/

namespace Sys2Proof.Machine

/-! ## Triggers on an access -/

section
variable {b : Block} {h va n : Nat} {acc : Acc} {f : Block → Block}

theorem Block.access_acts (hact : (b.trigAccess h acc va n).1 = true) : b.access h acc va n f = (b.trigAccess h acc va n).2 := by
  unfold Block.access
  generalize b.trigAccess h acc va n = r at hact
  obtain ⟨p, d⟩ := r
  subst hact
  rfl

theorem Block.access_runs (hact : (b.trigAccess h acc va n).1 = false) : b.access h acc va n f = f (b.trigAccess h acc va n).2 := by
  unfold Block.access
  generalize b.trigAccess h acc va n = r at hact
  obtain ⟨p, d⟩ := r
  subst hact
  rfl

end

/-! ## Loads -/

section
variable {b e f : Block} {h va width dst k a : Nat} {signed hv : Bool} {first : Option Nat} {x y : Piece} {l : List Piece} {t : Trap} {v : Bytes}

theorem Block.load_trap (hpieces : b.translatePieces h .load hv (pieces va width) = (.trap t, e)) :
    b.load h va width dst signed hv first = e.loadTrap h first t := by
  unfold Block.load
  rw [hpieces]

variable (hpieces : b.translatePieces h .load hv (pieces va width) = (.ok (x :: l), e))
include hpieces

theorem Block.load_io (hio : ioRegion (e.decodePa x.pa) = true) :
    b.load h va width dst signed hv first = e.ioAccess h .load hv x width none (some (dst, signed)) := by
  unfold Block.load
  rw [hpieces]
  exact if_pos hio

variable (hio : ioRegion (e.decodePa x.pa) = false)
include hio

/-- A piece that lies outside main memory. -/
theorem Block.load_foreign (hfind : (x :: l).find? (fun z => !e.mainMem h z.pa) = some y) :
    b.load h va width dst signed hv first = (e.note { code := 0x2503, mid := some h, addr := some y.pa }).loadTrap h first { cause := 5, tval := y.va } := by
  unfold Block.load
  rw [hpieces]
  refine (if_neg (ne_true_of_eq_false hio)).trans ?_
  rw [hfind]

variable (hfind : (x :: l).find? (fun z => !e.mainMem h z.pa) = none)
include hfind

theorem Block.load_bytes (hread : e.readPieces h false (x :: l) = (.bytes v, f)) :
    b.load h va width dst signed hv first = (f.setDst h dst width (leNat v) signed).hpm h 0x86 (if 64 ≤ dst then 1 else 0) := by
  unfold Block.load
  rw [hpieces]
  refine (if_neg (ne_true_of_eq_false hio)).trans ?_
  rw [hfind]
  dsimp only
  rw [hread]

theorem Block.load_wait (hread : e.readPieces h false (x :: l) = (.wait, f)) : b.load h va width dst signed hv first = f := by
  unfold Block.load
  rw [hpieces]
  refine (if_neg (ne_true_of_eq_false hio)).trans ?_
  rw [hfind]
  dsimp only
  rw [hread]

theorem Block.load_fault (hread : e.readPieces h false (x :: l) = (.trap k a, f)) :
    b.load h va width dst signed hv first = f.loadTrap h first { cause := k, tval := a } := by
  unfold Block.load
  rw [hpieces]
  refine (if_neg (ne_true_of_eq_false hio)).trans ?_
  rw [hfind]
  dsimp only
  rw [hread]

end

/-! ## Stores -/

section
variable {b e : Block} {h va width src : Nat} {hv : Bool} {x y : Piece} {l : List Piece} {t : Trap}

theorem Block.store_trap (hpieces : b.translatePieces h .store hv (pieces va width) = (.trap t, e)) :
    b.store h va width src hv = e.except h t := by
  unfold Block.store
  dsimp only
  rw [hpieces]

variable (hpieces : b.translatePieces h .store hv (pieces va width) = (.ok (x :: l), e))
include hpieces

theorem Block.store_io (hio : ioRegion (e.decodePa x.pa) = true) :
    b.store h va width src hv = e.ioAccess h .store hv x width (some (b.getSrc h src width)) none := by
  unfold Block.store
  dsimp only
  rw [hpieces]
  exact if_pos hio

variable (hio : ioRegion (e.decodePa x.pa) = false)
include hio

theorem Block.store_foreign (hfind : (x :: l).find? (fun z => !e.mainMem h z.pa) = some y) :
    b.store h va width src hv = e.hartAccessErr h .store y.va y.pa := by
  unfold Block.store
  dsimp only
  rw [hpieces]
  refine (if_neg (ne_true_of_eq_false hio)).trans ?_
  rw [hfind]

theorem Block.store_main (hfind : (x :: l).find? (fun z => !e.mainMem h z.pa) = none) :
    b.store h va width src hv = e.storePieces h (x :: l) (leBytes width (b.getSrc h src width)) := by
  unfold Block.store
  dsimp only
  rw [hpieces]
  refine (if_neg (ne_true_of_eq_false hio)).trans ?_
  rw [hfind]

end

/-! ## Atomic operations -/

section
variable {b e : Block} {h va width dst src pa pbmt : Nat} {op : AmoOp} {t : Trap}

theorem Block.amo_misaligned (halign : va % width ≠ 0) :
    b.amo h va width dst src op = b.except h { cause := if op = .lr then 4 else 6, tval := va } := by
  unfold Block.amo
  exact if_pos halign

variable (halign : va % width = 0)
include halign

theorem Block.amo_trap (htrans : b.translate h (if op = .lr then .load else .store) false va = (.trap t, e)) :
    b.amo h va width dst src op = e.except h t := by
  unfold Block.amo
  refine (if_neg (not_not_intro halign)).trans ?_
  rw [htrans]

variable (htrans : b.translate h (if op = .lr then .load else .store) false va = (.ok (pa, pbmt), e))
include htrans

theorem Block.amo_reserved (hpa : e.decodePa pa = .reserved) :
    b.amo h va width dst src op = e.hartAccessErr h (if op = .lr then .load else .store) va pa := by
  unfold Block.amo
  refine (if_neg (not_not_intro halign)).trans ?_
  rw [htrans]
  exact if_pos hpa

/-- An address that is no DRAM, or of an IO page. -/
theorem Block.amo_denied (hpa : e.decodePa pa ≠ .reserved) (hdram : e.decodePa pa ≠ .dram ∨ pbmt = 2) :
    b.amo h va width dst src op = e.except h { cause := Acc.accessFault (if op = .lr then .load else .store), tval := va } := by
  unfold Block.amo
  refine (if_neg (not_not_intro halign)).trans ?_
  rw [htrans]
  refine (if_neg hpa).trans ?_
  exact if_pos (by simpa only [Bool.or_eq_true, decide_eq_true_eq] using hdram)

variable (hdram : e.decodePa pa = .dram) (hpbmt : pbmt ≠ 2)
include hdram hpbmt

theorem Block.amo_lr (hop : op = .lr) :
    b.amo h va width dst src op = e.doLr h { va := va, pa := pa, len := width, pbmt := pbmt } dst := by
  subst hop
  unfold Block.amo
  refine (if_neg (not_not_intro halign)).trans ?_
  rw [htrans]
  simp [hdram, hpbmt]

theorem Block.amo_sc (hop : op = .sc) :
    b.amo h va width dst src op = e.doSc h { va := va, pa := pa, len := width, pbmt := pbmt } dst (e.getSrc h src width) := by
  subst hop
  unfold Block.amo
  refine (if_neg (not_not_intro halign)).trans ?_
  rw [htrans]
  simp [hdram, hpbmt]

theorem Block.amo_op (hlr : op ≠ .lr) (hsc : op ≠ .sc) :
    b.amo h va width dst src op = e.doAmo h { va := va, pa := pa, len := width, pbmt := pbmt } dst (e.getSrc h src width) op := by
  unfold Block.amo
  refine (if_neg (not_not_intro halign)).trans ?_
  rw [htrans]
  simp only [hdram, hpbmt, reduceCtorEq, if_false, ne_eq, not_true_eq_false, decide_false, Bool.or_self, Bool.false_eq_true]

end

/-! ## Fetches -/

section
variable {b e f : Block} {h va len k a : Nat} {y : Piece} {l : List Piece} {t : Trap} {v : Bytes}

theorem Block.fetch_trap (hpieces : b.translatePieces h .fetch false (pieces va len) = (.trap t, e)) :
    b.fetch h va len = e.except h t := by
  unfold Block.fetch
  rw [hpieces]

variable (hpieces : b.translatePieces h .fetch false (pieces va len) = (.ok l, e))
include hpieces

theorem Block.fetch_foreign_io (hfind : l.find? (fun z => !e.mainMem h z.pa) = some y) (hio : ioRegion (e.decodePa y.pa) = true) :
    b.fetch h va len = e.except h { cause := 1, tval := y.va } := by
  unfold Block.fetch
  rw [hpieces]
  dsimp only
  rw [hfind]
  exact if_pos hio

theorem Block.fetch_foreign (hfind : l.find? (fun z => !e.mainMem h z.pa) = some y) (hio : ioRegion (e.decodePa y.pa) = false) :
    b.fetch h va len = e.hartAccessErr h .fetch y.va y.pa := by
  unfold Block.fetch
  rw [hpieces]
  dsimp only
  rw [hfind]
  exact if_neg (ne_true_of_eq_false hio)

variable (hfind : l.find? (fun z => !e.mainMem h z.pa) = none)
include hfind

theorem Block.fetch_bytes (hread : e.readPieces h true l = (.bytes v, f)) : b.fetch h va len = f.emit (.data v false) := by
  unfold Block.fetch
  rw [hpieces]
  dsimp only
  rw [hfind]
  dsimp only
  rw [hread]

theorem Block.fetch_wait (hread : e.readPieces h true l = (.wait, f)) : b.fetch h va len = f := by
  unfold Block.fetch
  rw [hpieces]
  dsimp only
  rw [hfind]
  dsimp only
  rw [hread]

theorem Block.fetch_fault (hread : e.readPieces h true l = (.trap k a, f)) : b.fetch h va len = f.except h { cause := k, tval := a } := by
  unfold Block.fetch
  rw [hpieces]
  dsimp only
  rw [hfind]
  dsimp only
  rw [hread]

end

/-! ## Cache-block operations -/

/-- What a cache-block operation translates as. -/
def cboAcc (op : CboOp) : Acc := if op = .clean ∨ op = .flush then .load else .store

section
variable {b e : Block} {h va pa pbmt cbie : Nat} {op : CboOp} {t : Trap}

theorem cboAcc_eq : (if (decide (op = .clean) || decide (op = .flush)) = true then Acc.load else .store) = cboAcc op := by
  simp only [cboAcc, Bool.or_eq_true, decide_eq_true_eq]

theorem Block.cbo_trap (htrans : b.translate h (cboAcc op) false (va / 64 * 64) = (.trap t, e)) :
    b.cbo h va op cbie = e.except h (asStore t) := by
  unfold Block.cbo
  dsimp only
  rw [cboAcc_eq, htrans]

variable (htrans : b.translate h (cboAcc op) false (va / 64 * 64) = (.ok (pa, pbmt), e))
include htrans

theorem Block.cbo_reserved (hpa : e.decodePa pa = .reserved) : b.cbo h va op cbie = e.hartAccessErr h .store va pa := by
  unfold Block.cbo
  dsimp only
  rw [cboAcc_eq, htrans]
  exact if_pos hpa

variable (hpa : e.decodePa pa ≠ .reserved)
include hpa

theorem Block.cbo_zero (hop : op = .zero) (hmain : e.mainMem h pa = true) :
    b.cbo h va op cbie = e.storePieces h [{ va := va, pa := pa, len := 64, pbmt := pbmt }] (List.replicate 64 0) := by
  subst hop
  unfold Block.cbo
  dsimp only
  rw [cboAcc_eq, htrans]
  exact (if_neg hpa).trans (if_pos hmain)

theorem Block.cbo_zero_scratch (hop : op = .zero) (hmain : e.mainMem h pa = false) (hscratch : e.decodePa pa = .scratch) :
    b.cbo h va op cbie = e.hartAccessErr h .store va pa := by
  subst hop
  unfold Block.cbo
  dsimp only
  rw [cboAcc_eq, htrans]
  exact (if_neg hpa).trans ((if_neg (ne_true_of_eq_false hmain)).trans (if_pos hscratch))

theorem Block.cbo_zero_denied (hop : op = .zero) (hmain : e.mainMem h pa = false) (hscratch : e.decodePa pa ≠ .scratch) :
    b.cbo h va op cbie = e.except h { cause := 7, tval := va } := by
  subst hop
  unfold Block.cbo
  dsimp only
  rw [cboAcc_eq, htrans]
  exact (if_neg hpa).trans ((if_neg (ne_true_of_eq_false hmain)).trans (if_neg hscratch))

/-- Clean, flush and invalidation act on DRAM alone. -/
theorem Block.cbo_elsewhere (hop : op = .clean ∨ op = .flush ∨ op = .inval) (hdram : e.decodePa pa ≠ .dram) : b.cbo h va op cbie = e := by
  obtain rfl | rfl | rfl := hop
  all_goals
    unfold Block.cbo
    dsimp only
    rw [cboAcc_eq, htrans]
    refine (if_neg hpa).trans ?_
  · exact if_neg hdram
  · exact if_neg hdram
  · exact if_pos hdram

variable (hdram : e.decodePa pa = .dram)
include hdram

theorem Block.cbo_clean (hop : op = .clean) :
    b.cbo h va op cbie = (e.calm (pa / 64)).forN 12 (fun n b => b.cleanLine n (pa / 64) noPart) := by
  subst hop
  unfold Block.cbo
  dsimp only
  rw [cboAcc_eq, htrans]
  exact (if_neg hpa).trans (if_pos hdram)

theorem Block.cbo_flush (hop : op = .flush ∨ (op = .inval ∧ cbie = 1)) :
    b.cbo h va op cbie = e.forN 12 (fun n b => b.dropLine n (pa / 64)) := by
  obtain rfl | ⟨rfl, hcbie⟩ := hop
  all_goals
    unfold Block.cbo
    dsimp only
    rw [cboAcc_eq, htrans]
    refine (if_neg hpa).trans ?_
  · exact if_pos hdram
  · exact (if_neg (not_not_intro hdram)).trans (if_pos hcbie)

theorem Block.cbo_inval (hop : op = .inval) (hcbie : cbie ≠ 1) : b.cbo h va op cbie = e.invalLine (pa / 64) := by
  subst hop
  unfold Block.cbo
  dsimp only
  rw [cboAcc_eq, htrans]
  exact (if_neg hpa).trans ((if_neg (not_not_intro hdram)).trans (if_neg hcbie))

end

/-! ## The frame of each -/

section
variable {s : State} {b c d e x : Block} {sail core h va width n : Nat} {acc : Acc} {f : Block → Block}

/-- An access of a hart whose triggers let it go on. -/
theorem Block.instr_access (hready : b.ready h = true) (hirq : b.irqNext h = none) (htrig : (b.trigCount h).1 = false)
    (hacc : ((b.trigCount h).2.trigAccess h acc va n).1 = false) :
    b.instr h (Block.access h acc va n f) = f ((b.trigCount h).2.trigAccess h acc va n).2 :=
  (Block.instr_runs hready hirq htrig).trans (Block.access_runs hacc)

/-- An access of a hart that a trigger stops. -/
theorem Block.instr_access_acts (hready : b.ready h = true) (hirq : b.irqNext h = none) (htrig : (b.trigCount h).1 = false)
    (hacc : ((b.trigCount h).2.trigAccess h acc va n).1 = true) :
    b.instr h (Block.access h acc va n f) = ((b.trigCount h).2.trigAccess h acc va n).2 :=
  (Block.instr_runs hready hirq htrig).trans (Block.access_acts hacc)

variable (hon : s.start.dev ≠ .off) (hcore : core < 16) (hready : s.start.ready (sail * 32 + core) = true)
  (hirq : s.start.irqNext (sail * 32 + core) = none)
include hon hcore hready hirq

/-- A fetch of a ready hart with no interrupt. -/
theorem execInstructionFetch_runs (hx : (s.start.modHart (sail * 32 + core) fun t => { t with pc := va }).access (sail * 32 + core) .fetch va width
      (Block.fetch (sail * 32 + core) va width) = x) : execInstructionFetch sail core va width s = .next (s.withBlk x) := by
  refine onBlk_next hon ((if_neg ?_).trans ?_)
  · simp [hready, hcore]
  · rw [hirq]
    exact hx

variable (htrig : (s.start.trigCount (sail * 32 + core)).1 = false) (hc : (s.start.trigCount (sail * 32 + core)).2 = c)
include htrig hc

theorem execCacheBlockOperation_denied {op : CboOp} {k : Nat} (hop : c.cboEnabled (sail * 32 + core) op = .no k) :
    execCacheBlockOperation sail core va op s = .next (s.withBlk (c.except (sail * 32 + core) { cause := k, tval := 0 })) := by
  subst hc
  refine onBlk_next hon ((if_neg (Nat.not_le.mpr hcore)).trans ((Block.instr_runs hready hirq htrig).trans ?_))
  rw [hop]

theorem execCacheBlockOperation_runs {op : CboOp} {k : Nat} (hop : c.cboEnabled (sail * 32 + core) op = .yes k)
    (hkind : op = .clean ∨ op = .flush ∨ op = .inval ∨ op = .zero) (hx : c.cbo (sail * 32 + core) va op k = x) :
    execCacheBlockOperation sail core va op s = .next (s.withBlk x) := by
  subst hc
  refine onBlk_next hon ((if_neg (Nat.not_le.mpr hcore)).trans ((Block.instr_runs hready hirq htrig).trans ?_))
  rw [hop]
  obtain rfl | rfl | rfl | rfl := hkind <;> exact hx

end

/-- Settles O17: triggers first, then the translation of each piece, then the access by where its pieces lie; a cache-block operation by what its mode enables. -/
theorem hartAccesses : Obligations.HartAccesses := by
  unfold Obligations.HartAccesses
  refine ⟨?_, ?_, ?_, ?_, ?_, ?_, ?_, ?_, ?_, ?_, ?_, ?_, ?_, ?_, ?_, ?_, ?_, ?_, ?_, ?_, ?_, ?_, ?_, ?_, ?_, ?_, ?_, ?_, ?_, ?_, ?_, ?_, ?_, ?_, ?_, ?_, ?_, ?_, ?_, ?_, ?_, ?_, ?_, ?_, ?_, ?_, ?_, ?_, ?_, ?_, ?_, ?_, ?_, ?_⟩
  -- `loadOp`
  · intro s sail core va width dst signed hv first b h hcore
    exact (onBlk_unchanged (b := b) (fun _ => Block.instr_ite_waits hcore) : execLoadOp sail core va width dst signed hv first s = _)
  · intro s sail core va width dst signed hv first lv i b h hon hcore hready hirqNext
    exact (onBlk_next hon ((if_neg (Nat.not_le.mpr hcore)).trans (Block.instr_interrupted (b := b) hready hirqNext)) : execLoadOp sail core va width dst signed hv first s = _)
  · intro s sail core va width dst signed hv first b h hon hcore hready hirqNext htrigCount
    exact (onBlk_next hon ((if_neg (Nat.not_le.mpr hcore)).trans (Block.instr_triggered (b := b) hready hirqNext htrigCount)) : execLoadOp sail core va width dst signed hv first s = _)
  · intro s sail core va width dst signed hv first b h c d hon hcore hready hirqNext htrigCount htrigAccess
    exact (onBlk_next hon ((if_neg (Nat.not_le.mpr hcore)).trans (Block.instr_access_acts (b := b) hready hirqNext htrigCount htrigAccess)) : execLoadOp sail core va width dst signed hv first s = _)
  · intro s sail core va width dst signed hv first t b h c d e hon hcore hready hirqNext htrigCount htrigAccess htranslatePieces
    refine (onBlk_next hon ((if_neg (Nat.not_le.mpr hcore)).trans ((Block.instr_access (b := b) hready hirqNext htrigCount htrigAccess).trans ?_)) : execLoadOp sail core va width dst signed hv first s = _)
    exact Block.load_trap (b := d) (e := e) (Prod.ext htranslatePieces rfl)
  · intro s sail core va width dst signed hv first x l b h c d e hon hcore hready hirqNext htrigCount htrigAccess htranslatePieces hioRegion
    refine (onBlk_next hon ((if_neg (Nat.not_le.mpr hcore)).trans ((Block.instr_access (b := b) hready hirqNext htrigCount htrigAccess).trans ?_)) : execLoadOp sail core va width dst signed hv first s = _)
    exact Block.load_io (b := d) (e := e) (Prod.ext htranslatePieces rfl) hioRegion
  · intro s sail core va width dst signed hv first x l y b h c d e hon hcore hready hirqNext htrigCount htrigAccess htranslatePieces hioRegion hfind
    refine (onBlk_next hon ((if_neg (Nat.not_le.mpr hcore)).trans ((Block.instr_access (b := b) hready hirqNext htrigCount htrigAccess).trans ?_)) : execLoadOp sail core va width dst signed hv first s = _)
    exact Block.load_foreign (b := d) (e := e) (Prod.ext htranslatePieces rfl) hioRegion hfind
  · intro s sail core va width dst signed hv first x l v b h c d e f hon hcore hready hirqNext htrigCount htrigAccess htranslatePieces hioRegion hfind hreadPieces
    refine (onBlk_next hon ((if_neg (Nat.not_le.mpr hcore)).trans ((Block.instr_access (b := b) hready hirqNext htrigCount htrigAccess).trans ?_)) : execLoadOp sail core va width dst signed hv first s = _)
    exact Block.load_bytes (b := d) (e := e) (f := f) (Prod.ext htranslatePieces rfl) hioRegion hfind (Prod.ext hreadPieces rfl)
  · intro s sail core va width dst signed hv first x l b h c d e f hon hcore hready hirqNext htrigCount htrigAccess htranslatePieces hioRegion hfind hreadPieces
    refine (onBlk_next hon ((if_neg (Nat.not_le.mpr hcore)).trans ((Block.instr_access (b := b) hready hirqNext htrigCount htrigAccess).trans ?_)) : execLoadOp sail core va width dst signed hv first s = _)
    exact Block.load_wait (b := d) (e := e) (f := f) (Prod.ext htranslatePieces rfl) hioRegion hfind (Prod.ext hreadPieces rfl)
  · intro s sail core va width dst signed hv first x l k a b h c d e f hon hcore hready hirqNext htrigCount htrigAccess htranslatePieces hioRegion hfind hreadPieces
    refine (onBlk_next hon ((if_neg (Nat.not_le.mpr hcore)).trans ((Block.instr_access (b := b) hready hirqNext htrigCount htrigAccess).trans ?_)) : execLoadOp sail core va width dst signed hv first s = _)
    exact Block.load_fault (b := d) (e := e) (f := f) (Prod.ext htranslatePieces rfl) hioRegion hfind (Prod.ext hreadPieces rfl)
  -- `storeOp`
  · intro s sail core va width src hv b h hcore
    exact (onBlk_unchanged (b := b) (fun _ => Block.instr_ite_waits hcore) : execStoreOp sail core va width src hv s = _)
  · intro s sail core va width src hv lv i b h hon hcore hready hirqNext
    exact (onBlk_next hon ((if_neg (Nat.not_le.mpr hcore)).trans (Block.instr_interrupted (b := b) hready hirqNext)) : execStoreOp sail core va width src hv s = _)
  · intro s sail core va width src hv b h hon hcore hready hirqNext htrigCount
    exact (onBlk_next hon ((if_neg (Nat.not_le.mpr hcore)).trans (Block.instr_triggered (b := b) hready hirqNext htrigCount)) : execStoreOp sail core va width src hv s = _)
  · intro s sail core va width src hv b h c d hon hcore hready hirqNext htrigCount htrigAccess
    exact (onBlk_next hon ((if_neg (Nat.not_le.mpr hcore)).trans (Block.instr_access_acts (b := b) hready hirqNext htrigCount htrigAccess)) : execStoreOp sail core va width src hv s = _)
  · intro s sail core va width src hv t b h c d e hon hcore hready hirqNext htrigCount htrigAccess htranslatePieces
    refine (onBlk_next hon ((if_neg (Nat.not_le.mpr hcore)).trans ((Block.instr_access (b := b) hready hirqNext htrigCount htrigAccess).trans ?_)) : execStoreOp sail core va width src hv s = _)
    exact Block.store_trap (b := d) (e := e) (Prod.ext htranslatePieces rfl)
  · intro s sail core va width src hv x l b h c d e hon hcore hready hirqNext htrigCount htrigAccess htranslatePieces hioRegion
    refine (onBlk_next hon ((if_neg (Nat.not_le.mpr hcore)).trans ((Block.instr_access (b := b) hready hirqNext htrigCount htrigAccess).trans ?_)) : execStoreOp sail core va width src hv s = _)
    exact Block.store_io (b := d) (e := e) (Prod.ext htranslatePieces rfl) hioRegion
  · intro s sail core va width src hv x l y b h c d e hon hcore hready hirqNext htrigCount htrigAccess htranslatePieces hioRegion hfind
    refine (onBlk_next hon ((if_neg (Nat.not_le.mpr hcore)).trans ((Block.instr_access (b := b) hready hirqNext htrigCount htrigAccess).trans ?_)) : execStoreOp sail core va width src hv s = _)
    exact Block.store_foreign (b := d) (e := e) (Prod.ext htranslatePieces rfl) hioRegion hfind
  · intro s sail core va width src hv x l b h c d e hon hcore hready hirqNext htrigCount htrigAccess htranslatePieces hioRegion hfind
    refine (onBlk_next hon ((if_neg (Nat.not_le.mpr hcore)).trans ((Block.instr_access (b := b) hready hirqNext htrigCount htrigAccess).trans ?_)) : execStoreOp sail core va width src hv s = _)
    exact Block.store_main (b := d) (e := e) (Prod.ext htranslatePieces rfl) hioRegion hfind
  -- `amo`
  · intro s sail core va width dst src op b h hcore
    exact (onBlk_unchanged (b := b) (fun _ => Block.instr_ite_waits hcore) : execAmo sail core va width dst src op s = _)
  · intro s sail core va width dst src op lv i b h hon hcore hready hirqNext
    exact (onBlk_next hon ((if_neg (Nat.not_le.mpr hcore)).trans (Block.instr_interrupted (b := b) hready hirqNext)) : execAmo sail core va width dst src op s = _)
  · intro s sail core va width dst src op b h hon hcore hready hirqNext htrigCount
    exact (onBlk_next hon ((if_neg (Nat.not_le.mpr hcore)).trans (Block.instr_triggered (b := b) hready hirqNext htrigCount)) : execAmo sail core va width dst src op s = _)
  · intro s sail core va width dst src op b h c d hon hcore hready hirqNext htrigCount htrigAccess
    exact (onBlk_next hon ((if_neg (Nat.not_le.mpr hcore)).trans (Block.instr_access_acts (b := b) hready hirqNext htrigCount htrigAccess)) : execAmo sail core va width dst src op s = _)
  · intro s sail core va width dst src op b h c d hon hcore hready hirqNext htrigCount htrigAccess hva
    refine (onBlk_next hon ((if_neg (Nat.not_le.mpr hcore)).trans ((Block.instr_access (b := b) hready hirqNext htrigCount htrigAccess).trans ?_)) : execAmo sail core va width dst src op s = _)
    exact Block.amo_misaligned (b := d) hva
  · intro s sail core va width dst src op t b h c d e hon hcore hready hirqNext htrigCount htrigAccess hva htranslate
    refine (onBlk_next hon ((if_neg (Nat.not_le.mpr hcore)).trans ((Block.instr_access (b := b) hready hirqNext htrigCount htrigAccess).trans ?_)) : execAmo sail core va width dst src op s = _)
    exact Block.amo_trap (b := d) (e := e) hva (Prod.ext htranslate rfl)
  · intro s sail core va width dst src op pa pbmt b h c d e hon hcore hready hirqNext htrigCount htrigAccess hva htranslate hdecodePa
    refine (onBlk_next hon ((if_neg (Nat.not_le.mpr hcore)).trans ((Block.instr_access (b := b) hready hirqNext htrigCount htrigAccess).trans ?_)) : execAmo sail core va width dst src op s = _)
    exact Block.amo_reserved (b := d) (e := e) hva (Prod.ext htranslate rfl) hdecodePa
  · intro s sail core va width dst src op pa pbmt b h c d e hon hcore hready hirqNext htrigCount htrigAccess hva htranslate hdecodePa hdecodePa2
    refine (onBlk_next hon ((if_neg (Nat.not_le.mpr hcore)).trans ((Block.instr_access (b := b) hready hirqNext htrigCount htrigAccess).trans ?_)) : execAmo sail core va width dst src op s = _)
    exact Block.amo_denied (b := d) (e := e) hva (Prod.ext htranslate rfl) hdecodePa hdecodePa2
  · intro s sail core va width dst src op pa pbmt b h c d e hon hcore hready hirqNext htrigCount htrigAccess hva htranslate hdecodePa hpbmt hop
    refine (onBlk_next hon ((if_neg (Nat.not_le.mpr hcore)).trans ((Block.instr_access (b := b) hready hirqNext htrigCount htrigAccess).trans ?_)) : execAmo sail core va width dst src op s = _)
    exact Block.amo_lr (b := d) (e := e) hva (Prod.ext htranslate rfl) hdecodePa hpbmt hop
  · intro s sail core va width dst src op pa pbmt b h c d e hon hcore hready hirqNext htrigCount htrigAccess hva htranslate hdecodePa hpbmt hop
    refine (onBlk_next hon ((if_neg (Nat.not_le.mpr hcore)).trans ((Block.instr_access (b := b) hready hirqNext htrigCount htrigAccess).trans ?_)) : execAmo sail core va width dst src op s = _)
    exact Block.amo_sc (b := d) (e := e) hva (Prod.ext htranslate rfl) hdecodePa hpbmt hop
  · intro s sail core va width dst src op pa pbmt b h c d e hon hcore hready hirqNext htrigCount htrigAccess hva htranslate hdecodePa hpbmt hop hop2
    refine (onBlk_next hon ((if_neg (Nat.not_le.mpr hcore)).trans ((Block.instr_access (b := b) hready hirqNext htrigCount htrigAccess).trans ?_)) : execAmo sail core va width dst src op s = _)
    exact Block.amo_op (b := d) (e := e) hva (Prod.ext htranslate rfl) hdecodePa hpbmt hop hop2
  -- `instructionFetch`
  · intro s sail core va width b h hcore
    refine (onBlk_unchanged (fun _ => ?_) : execInstructionFetch sail core va width s = _)
    exact if_pos (by grind)
  · intro s sail core va width lv i b h hon hcore hready hirqNext
    refine (onBlk_next hon ?_ : execInstructionFetch sail core va width s = _)
    refine (if_neg (by simp [hcore, hready, h])).trans ?_
    simp [hirqNext, h]
  · intro s sail core va width b h c d hon hcore hready hirqNext htrigAccess
    exact execInstructionFetch_runs hon hcore hready hirqNext (Block.access_acts (b := c) htrigAccess)
  · intro s sail core va width t b h c d e hon hcore hready hirqNext htrigAccess htranslatePieces
    refine execInstructionFetch_runs hon hcore hready hirqNext ((Block.access_runs (b := c) htrigAccess).trans ?_)
    exact Block.fetch_trap (b := d) (e := e) (Prod.ext htranslatePieces rfl)
  · intro s sail core va width l y b h c d e hon hcore hready hirqNext htrigAccess htranslatePieces hfind hioRegion
    refine execInstructionFetch_runs hon hcore hready hirqNext ((Block.access_runs (b := c) htrigAccess).trans ?_)
    exact Block.fetch_foreign_io (b := d) (e := e) (Prod.ext htranslatePieces rfl) hfind hioRegion
  · intro s sail core va width l y b h c d e hon hcore hready hirqNext htrigAccess htranslatePieces hfind hioRegion
    refine execInstructionFetch_runs hon hcore hready hirqNext ((Block.access_runs (b := c) htrigAccess).trans ?_)
    exact Block.fetch_foreign (b := d) (e := e) (Prod.ext htranslatePieces rfl) hfind hioRegion
  · intro s sail core va width l v b h c d e f hon hcore hready hirqNext htrigAccess htranslatePieces hfind hreadPieces
    refine execInstructionFetch_runs hon hcore hready hirqNext ((Block.access_runs (b := c) htrigAccess).trans ?_)
    exact Block.fetch_bytes (b := d) (e := e) (f := f) (Prod.ext htranslatePieces rfl) hfind (Prod.ext hreadPieces rfl)
  · intro s sail core va width l b h c d e f hon hcore hready hirqNext htrigAccess htranslatePieces hfind hreadPieces
    refine execInstructionFetch_runs hon hcore hready hirqNext ((Block.access_runs (b := c) htrigAccess).trans ?_)
    exact Block.fetch_wait (b := d) (e := e) (f := f) (Prod.ext htranslatePieces rfl) hfind (Prod.ext hreadPieces rfl)
  · intro s sail core va width l k a b h c d e f hon hcore hready hirqNext htrigAccess htranslatePieces hfind hreadPieces
    refine execInstructionFetch_runs hon hcore hready hirqNext ((Block.access_runs (b := c) htrigAccess).trans ?_)
    exact Block.fetch_fault (b := d) (e := e) (f := f) (Prod.ext htranslatePieces rfl) hfind (Prod.ext hreadPieces rfl)
  -- `cacheBlockOperation`
  · intro s sail core va op b h hcore
    exact (onBlk_unchanged (b := b) (fun _ => Block.instr_ite_waits hcore) : execCacheBlockOperation sail core va op s = _)
  · intro s sail core va op lv i b h hon hcore hready hirqNext
    exact (onBlk_next hon ((if_neg (Nat.not_le.mpr hcore)).trans (Block.instr_interrupted (b := b) hready hirqNext)) : execCacheBlockOperation sail core va op s = _)
  · intro s sail core va op b h hon hcore hready hirqNext htrigCount
    exact (onBlk_next hon ((if_neg (Nat.not_le.mpr hcore)).trans (Block.instr_triggered (b := b) hready hirqNext htrigCount)) : execCacheBlockOperation sail core va op s = _)
  · intro s sail core va op k b h c hon hcore hready hirqNext htrigCount hcboEnabled
    exact execCacheBlockOperation_denied (c := c) hon hcore hready hirqNext htrigCount rfl hcboEnabled
  · intro s sail core va k b h c hon hcore hready hirqNext htrigCount
    refine (onBlk_next hon ((if_neg (Nat.not_le.mpr hcore)).trans ((Block.instr_runs (b := b) hready hirqNext htrigCount).trans ?_)) : execCacheBlockOperation sail core va (.prefetch k) s = _)
    rfl
  · intro s sail core va op e t b h c d hon hcore hready hirqNext htrigCount hcboEnabled hop htranslate
    refine execCacheBlockOperation_runs (c := c) hon hcore hready hirqNext htrigCount rfl hcboEnabled hop ?_
    exact Block.cbo_trap (b := c) (e := d) (Prod.ext htranslate rfl)
  · intro s sail core va op e pa pbmt b h c d hon hcore hready hirqNext htrigCount hcboEnabled hop htranslate hdecodePa
    refine execCacheBlockOperation_runs (c := c) hon hcore hready hirqNext htrigCount rfl hcboEnabled hop ?_
    exact Block.cbo_reserved (b := c) (e := d) (Prod.ext htranslate rfl) hdecodePa
  · intro s sail core va op e pa pbmt b h c d hon hcore hready hirqNext htrigCount hcboEnabled htranslate hdecodePa hop hmainMem
    refine execCacheBlockOperation_runs (c := c) hon hcore hready hirqNext htrigCount rfl hcboEnabled (.inr (.inr (.inr hop))) ?_
    exact Block.cbo_zero (b := c) (e := d) (Prod.ext htranslate rfl) hdecodePa hop hmainMem
  · intro s sail core va op e pa pbmt b h c d hon hcore hready hirqNext htrigCount hcboEnabled htranslate hdecodePa hop hmainMem hdecodePa2
    refine execCacheBlockOperation_runs (c := c) hon hcore hready hirqNext htrigCount rfl hcboEnabled (.inr (.inr (.inr hop))) ?_
    exact Block.cbo_zero_scratch (b := c) (e := d) (Prod.ext htranslate rfl) hdecodePa hop hmainMem hdecodePa2
  · intro s sail core va op e pa pbmt b h c d hon hcore hready hirqNext htrigCount hcboEnabled htranslate hdecodePa hop hmainMem hdecodePa2
    refine execCacheBlockOperation_runs (c := c) hon hcore hready hirqNext htrigCount rfl hcboEnabled (.inr (.inr (.inr hop))) ?_
    exact Block.cbo_zero_denied (b := c) (e := d) (Prod.ext htranslate rfl) hdecodePa hop hmainMem hdecodePa2
  · intro s sail core va op e pa pbmt b h c d hon hcore hready hirqNext htrigCount hcboEnabled htranslate hdecodePa hop hdecodePa2
    refine execCacheBlockOperation_runs (c := c) hon hcore hready hirqNext htrigCount rfl hcboEnabled (.inl hop) ?_
    exact Block.cbo_clean (b := c) (e := d) (Prod.ext htranslate rfl) hdecodePa hdecodePa2 hop
  · intro s sail core va op e pa pbmt b h c d hon hcore hready hirqNext htrigCount hcboEnabled htranslate hdecodePa hop hdecodePa2
    refine execCacheBlockOperation_runs (c := c) hon hcore hready hirqNext htrigCount rfl hcboEnabled (hop.elim (fun h => .inr (.inl h)) fun h => .inr (.inr (.inl h.1))) ?_
    exact Block.cbo_flush (b := c) (e := d) (Prod.ext htranslate rfl) hdecodePa hdecodePa2 hop
  · intro s sail core va op e pa pbmt b h c d hon hcore hready hirqNext htrigCount hcboEnabled htranslate hdecodePa hop hcond hdecodePa2
    refine execCacheBlockOperation_runs (c := c) hon hcore hready hirqNext htrigCount rfl hcboEnabled (.inr (.inr (.inl hop))) ?_
    exact Block.cbo_inval (b := c) (e := d) (Prod.ext htranslate rfl) hdecodePa hdecodePa2 hop hcond
  · intro s sail core va op e pa pbmt b h c d hon hcore hready hirqNext htrigCount hcboEnabled htranslate hdecodePa hop hdecodePa2
    refine execCacheBlockOperation_runs (c := c) hon hcore hready hirqNext htrigCount rfl hcboEnabled (hop.imp_right fun h => h.imp_right .inl) ?_
    exact Block.cbo_elsewhere (b := c) (e := d) (Prod.ext htranslate rfl) hdecodePa hop hdecodePa2
  -- `timerInterrupt`
  · intro s sail core b h hon hcore hactive
    refine (onBlk_next hon ?_ : execTimerInterrupt sail core s = _)
    exact if_neg (by simp [hcore, hactive])
  · intro s sail core b hcore
    refine (onBlk_unchanged (fun _ => ?_) : execTimerInterrupt sail core s = _)
    exact if_pos (by grind)

end Sys2Proof.Machine
end

section
/-! PROOFS. Register accesses. -/

namespace Sys2Proof.Machine

/-! ## I/O reads -/

section
variable {b : Block} {mid pa width : Nat} {part : Option Nat}

theorem Block.ioRead_foreign (hpa : b.decodePa pa = .reserved ∨ b.decodePa pa = .scratch ∧ b.sailOpen mid scratchBase pa = false ∨
      b.decodePa pa = .sailCtl ∧ b.sailOpen mid sailCtl pa = false) :
    b.ioRead mid part pa width = b.decodeErr mid pa := by
  unfold Block.ioRead
  obtain hpa | ⟨hpa, hopen⟩ | ⟨hpa, hopen⟩ := hpa
  · rw [hpa]
  · rw [hpa]
    exact if_pos (congrArg not hopen)
  · rw [hpa]
    exact if_pos (congrArg not hopen)

theorem Block.ioRead_denied (hpa : b.decodePa pa = .dram ∨ b.decodePa pa = .pcie ∧ b.debugMay mid false false = false ∨
      b.decodePa pa = .scratch ∧ b.sailOpen mid scratchBase pa = true ∧ (okWidth pa width = false ∨ b.debugMay mid false false = false) ∨
      b.decodePa pa = .sailCtl ∧ b.sailOpen mid sailCtl pa = true ∧ b.debugMay mid true false = false ∨
      b.decodePa pa = .hubCtl ∧ b.debugMay mid true false = false ∨
      b.decodePa pa = .govWin ∧ (b.govHalted = true ∨ okWidth pa width = false ∨ b.govWindow (pa - 0xFFF0000000) width = none)) :
    b.ioRead mid part pa width = (.err, b) := by
  unfold Block.ioRead
  obtain hpa | ⟨hpa, hmay⟩ | ⟨hpa, hopen, hbad⟩ | ⟨hpa, hopen, hmay⟩ | ⟨hpa, hmay⟩ | ⟨hpa, hbad⟩ := hpa
  · rw [hpa]
  · rw [hpa]
    exact if_neg (ne_true_of_eq_false hmay)
  · rw [hpa]
    refine (if_neg fun h => Bool.noConfusion ((congrArg not hopen).symm.trans h)).trans (if_pos ?_)
    simpa only [Bool.or_eq_true, Bool.not_eq_true'] using hbad
  · rw [hpa]
    refine (if_neg fun h => Bool.noConfusion ((congrArg not hopen).symm.trans h)).trans (if_pos ?_)
    exact congrArg not hmay
  · rw [hpa]
    exact if_neg (ne_true_of_eq_false hmay)
  · rw [hpa]
    dsimp only
    split
    · rfl
    · next hok =>
      rw [Bool.or_eq_true, Bool.not_eq_true', not_or] at hok
      rw [(hbad.resolve_left hok.1).resolve_left hok.2]

theorem Block.ioRead_pcie (hpa : b.decodePa pa = .pcie) (hmay : b.debugMay mid false false = true) :
    b.ioRead mid part pa width = b.outbound mid part none 0 pa width none := by
  unfold Block.ioRead
  rw [hpa]
  exact if_pos hmay

theorem Block.ioRead_scratch (hpa : b.decodePa pa = .scratch) (hopen : b.sailOpen mid scratchBase pa = true) (hwidth : okWidth pa width = true)
    (hmay : b.debugMay mid false false = true) :
    b.ioRead mid part pa width = (.data (b.scrRead pa width).1 ((b.scrRead pa width).2.1 || (b.scrRead pa width).2.2), b) := by
  unfold Block.ioRead
  rw [hpa]
  refine (if_neg fun h => Bool.noConfusion ((congrArg not hopen).symm.trans h)).trans ?_
  exact if_neg (by simp [hwidth, hmay])

theorem Block.ioRead_window {v : Bytes} (hpa : b.decodePa pa = .govWin) (hgov : b.govHalted = false) (hwidth : okWidth pa width = true)
    (hwin : b.govWindow (pa - 0xFFF0000000) width = some v) : b.ioRead mid part pa width = (.data v false, b) := by
  unfold Block.ioRead
  rw [hpa]
  refine (if_neg (by simp [hgov, hwidth])).trans ?_
  rw [hwin]

theorem Block.ioRead_control (hctl : (b.decodePa pa = .hubCtl ∨ b.decodePa pa = .sailCtl ∧ b.sailOpen mid sailCtl pa = true) ∧
      b.debugMay mid true false = true) : b.ioRead mid part pa width = b.controlRead mid part pa width := by
  unfold Block.ioRead
  obtain ⟨hpa | ⟨hpa, hopen⟩, hmay⟩ := hctl
  · rw [hpa]
    exact if_pos hmay
  · rw [hpa]
    refine (if_neg fun h => Bool.noConfusion ((congrArg not hopen).symm.trans h)).trans (if_neg ?_)
    exact fun h => Bool.noConfusion ((congrArg not hmay).symm.trans h)

end

/-! ## Reads of control space -/

theorem inMailboxes_iff {pa : Nat} : (decide (mbxBase ≤ pa) && decide (pa < mbxBase + 0x200000)) = true ↔ mbxBase ≤ pa ∧ pa < mbxBase + 0x200000 := by
  rw [Bool.and_eq_true, decide_eq_true_eq, decide_eq_true_eq]

theorem inIot_iff {pa : Nat} : (decide (iotBase < pa) && decide (pa < iotBase + 0x1000)) = true ↔ iotBase < pa ∧ pa < iotBase + 0x1000 := by
  rw [Bool.and_eq_true, decide_eq_true_eq, decide_eq_true_eq]

theorem isWord_iff {pa width : Nat} : (decide (width = 4) && decide (pa % 4 = 0)) = true ↔ width = 4 ∧ pa % 4 = 0 := by
  rw [Bool.and_eq_true, decide_eq_true_eq, decide_eq_true_eq]

/-- Is the access as wide as the register that is there? -/
def widthFits (width : Nat) : Option (Reg × Nat × Nat × Nat) → Bool
  | some (r, _) => decide (r.desc.width = 8 * width)
  | none => false

theorem widthFits_eq {o : Option (Reg × Nat × Nat × Nat)} {width : Nat} :
    (match o with | some (r, _) => decide (r.desc.width = 8 * width) | none => false) = widthFits width o := by
  cases o <;> rfl

section
variable {b c : Block} {mid pa width i j k v : Nat} {part : Option Nat} {r : Reg}

theorem Block.controlRead_mailbox (hmbx : mbxBase ≤ pa ∧ pa < mbxBase + 0x200000) (hread : b.mbxRead mid part (pa - mbxBase) width = (some v, c)) :
    b.controlRead mid part pa width = (.val v, c) := by
  unfold Block.controlRead
  refine (if_pos (inMailboxes_iff.mpr hmbx)).trans ?_
  rw [hread]

theorem Block.controlRead_mailbox_denied (hmbx : mbxBase ≤ pa ∧ pa < mbxBase + 0x200000)
    (hread : b.mbxRead mid part (pa - mbxBase) width = (none, c)) : b.controlRead mid part pa width = (.err, c) := by
  unfold Block.controlRead
  refine (if_pos (inMailboxes_iff.mpr hmbx)).trans ?_
  rw [hread]

variable (hmbx : ¬ (mbxBase ≤ pa ∧ pa < mbxBase + 0x200000))
include hmbx

theorem Block.controlRead_file (hfile : fileOf pa ≠ none) (hword : width = 4 ∧ pa % 4 = 0) :
    b.controlRead mid part pa width = (.val 0, b) := by
  unfold Block.controlRead
  refine (if_neg (mt inMailboxes_iff.mp hmbx)).trans ?_
  refine (if_pos (Option.isSome_iff_ne_none.mpr hfile)).trans ?_
  rw [if_pos (isWord_iff.mpr hword)]

theorem Block.controlRead_file_denied (hfile : fileOf pa ≠ none) (hword : ¬ (width = 4 ∧ pa % 4 = 0)) :
    b.controlRead mid part pa width = (.err, b) := by
  unfold Block.controlRead
  refine (if_neg (mt inMailboxes_iff.mp hmbx)).trans ?_
  refine (if_pos (Option.isSome_iff_ne_none.mpr hfile)).trans ?_
  rw [if_neg (mt isWord_iff.mp hword)]

variable (hfile : fileOf pa = none)
include hfile

theorem Block.controlRead_iot (hiot : iotBase < pa ∧ pa < iotBase + 0x1000) (hwidth : iotWidth (pa - iotBase) = width) :
    b.controlRead mid part pa width = (.val (b.iotG (pa - iotBase)), b) := by
  unfold Block.controlRead
  refine (if_neg (mt inMailboxes_iff.mp hmbx)).trans ?_
  rw [hfile]
  refine (if_neg Bool.false_ne_true).trans ?_
  refine (if_pos (inIot_iff.mpr hiot)).trans ?_
  rw [if_pos hwidth]

theorem Block.controlRead_iot_denied (hiot : iotBase < pa ∧ pa < iotBase + 0x1000) (hwidth : ¬ iotWidth (pa - iotBase) = width) :
    b.controlRead mid part pa width = (.err, b) := by
  unfold Block.controlRead
  refine (if_neg (mt inMailboxes_iff.mp hmbx)).trans ?_
  rw [hfile]
  refine (if_neg Bool.false_ne_true).trans ?_
  refine (if_pos (inIot_iff.mpr hiot)).trans ?_
  rw [if_neg hwidth]

variable (hiot : ¬ (iotBase < pa ∧ pa < iotBase + 0x1000))
include hiot

/-- No register of that width is there. -/
theorem Block.controlRead_unfit (hfit : widthFits width (regAt pa Reg.all) = false) : b.controlRead mid part pa width = (.err, b) := by
  unfold Block.controlRead
  refine (if_neg (mt inMailboxes_iff.mp hmbx)).trans ?_
  rw [hfile]
  refine (if_neg Bool.false_ne_true).trans ?_
  refine (if_neg (mt inIot_iff.mp hiot)).trans ?_
  generalize regAt pa Reg.all = o at hfit
  obtain _ | ⟨r, i, j, k⟩ := o
  · rfl
  · exact if_neg (of_decide_eq_false hfit)

variable (hreg : regAt pa Reg.all = some (r, i, j, k)) (hwidth : r.desc.width = 8 * width)
include hreg hwidth

theorem Block.controlRead_reg (hread : b.regRead part r i j k = some v) : b.controlRead mid part pa width = (.val v, b) := by
  unfold Block.controlRead
  refine (if_neg (mt inMailboxes_iff.mp hmbx)).trans ?_
  rw [hfile]
  refine (if_neg Bool.false_ne_true).trans ?_
  refine (if_neg (mt inIot_iff.mp hiot)).trans ?_
  rw [hreg]
  refine (if_pos hwidth).trans ?_
  rw [hread]

theorem Block.controlRead_reg_denied (hread : b.regRead part r i j k = none) : b.controlRead mid part pa width = (.err, b) := by
  unfold Block.controlRead
  refine (if_neg (mt inMailboxes_iff.mp hmbx)).trans ?_
  rw [hfile]
  refine (if_neg Bool.false_ne_true).trans ?_
  refine (if_neg (mt inIot_iff.mp hiot)).trans ?_
  rw [hreg]
  refine (if_pos hwidth).trans ?_
  rw [hread]

end

/-! ## I/O writes -/

section
variable {b : Block} {mid pa width value : Nat} {part : Option Nat}

theorem Block.ioWrite_foreign (hpa : b.decodePa pa = .reserved ∨ b.decodePa pa = .scratch ∧ b.sailOpen mid scratchBase pa = false ∨
      b.decodePa pa = .sailCtl ∧ b.sailOpen mid sailCtl pa = false) :
    b.ioWrite mid part pa width value = b.decodeErr mid pa := by
  unfold Block.ioWrite
  obtain hpa | ⟨hpa, hopen⟩ | ⟨hpa, hopen⟩ := hpa
  · rw [hpa]
  · rw [hpa]
    exact if_pos (congrArg not hopen)
  · rw [hpa]
    exact if_pos (congrArg not hopen)

theorem Block.ioWrite_denied (hpa : b.decodePa pa = .dram ∨ b.decodePa pa = .pcie ∧ b.debugMay mid false true = false ∨
      b.decodePa pa = .scratch ∧ b.sailOpen mid scratchBase pa = true ∧ (okWidth pa width = false ∨ b.debugMay mid false true = false) ∨
      b.decodePa pa = .sailCtl ∧ b.sailOpen mid sailCtl pa = true ∧ b.debugMay mid true true = false ∨
      b.decodePa pa = .hubCtl ∧ b.debugMay mid true true = false ∨ b.decodePa pa = .govWin) :
    b.ioWrite mid part pa width value = (.err, b) := by
  unfold Block.ioWrite
  obtain hpa | ⟨hpa, hmay⟩ | ⟨hpa, hopen, hbad⟩ | ⟨hpa, hopen, hmay⟩ | ⟨hpa, hmay⟩ | hpa := hpa
  · rw [hpa]
  · rw [hpa]
    exact if_neg (ne_true_of_eq_false hmay)
  · rw [hpa]
    refine (if_neg fun h => Bool.noConfusion ((congrArg not hopen).symm.trans h)).trans (if_pos ?_)
    simpa only [Bool.or_eq_true, Bool.not_eq_true'] using hbad
  · rw [hpa]
    refine (if_neg fun h => Bool.noConfusion ((congrArg not hopen).symm.trans h)).trans (if_pos ?_)
    exact congrArg not hmay
  · rw [hpa]
    exact if_neg (ne_true_of_eq_false hmay)
  · rw [hpa]

theorem Block.ioWrite_pcie (hpa : b.decodePa pa = .pcie) (hmay : b.debugMay mid false true = true) :
    b.ioWrite mid part pa width value = b.outbound mid part none 0 pa width (some value) := by
  unfold Block.ioWrite
  rw [hpa]
  exact if_pos hmay

theorem Block.ioWrite_scratch (hpa : b.decodePa pa = .scratch) (hopen : b.sailOpen mid scratchBase pa = true) (hwidth : okWidth pa width = true)
    (hmay : b.debugMay mid false true = true) : b.ioWrite mid part pa width value = (.done, b.scrWrite pa (leBytes width value) false) := by
  unfold Block.ioWrite
  rw [hpa]
  refine (if_neg fun h => Bool.noConfusion ((congrArg not hopen).symm.trans h)).trans ?_
  exact if_neg (by simp [hwidth, hmay])

theorem Block.ioWrite_control (hctl : (b.decodePa pa = .hubCtl ∨ b.decodePa pa = .sailCtl ∧ b.sailOpen mid sailCtl pa = true) ∧
      b.debugMay mid true true = true) : b.ioWrite mid part pa width value = b.controlWrite mid part pa width value := by
  unfold Block.ioWrite
  obtain ⟨hpa | ⟨hpa, hopen⟩, hmay⟩ := hctl
  · rw [hpa]
    exact if_pos hmay
  · rw [hpa]
    refine (if_neg fun h => Bool.noConfusion ((congrArg not hopen).symm.trans h)).trans (if_neg ?_)
    exact fun h => Bool.noConfusion ((congrArg not hmay).symm.trans h)

end

/-! ## Writes of control space -/

section
variable {b c : Block} {mid pa width value page i j k : Nat} {part : Option Nat} {r : Reg}

theorem Block.controlWrite_mailbox (hmbx : mbxBase ≤ pa ∧ pa < mbxBase + 0x200000)
    (hwrite : b.mbxWrite mid part (pa - mbxBase) width value = (true, c)) : b.controlWrite mid part pa width value = (.done, c) := by
  unfold Block.controlWrite
  refine (if_pos (inMailboxes_iff.mpr hmbx)).trans ?_
  rw [hwrite]

theorem Block.controlWrite_mailbox_denied (hmbx : mbxBase ≤ pa ∧ pa < mbxBase + 0x200000)
    (hwrite : b.mbxWrite mid part (pa - mbxBase) width value = (false, c)) : b.controlWrite mid part pa width value = (.err, c) := by
  unfold Block.controlWrite
  refine (if_pos (inMailboxes_iff.mpr hmbx)).trans ?_
  rw [hwrite]

variable (hmbx : ¬ (mbxBase ≤ pa ∧ pa < mbxBase + 0x200000))
include hmbx

theorem Block.controlWrite_file (hfile : fileOf pa = some page) (hword : width = 4 ∧ pa % 4 = 0) :
    b.controlWrite mid part pa width value = (.done, if pa % 4096 = 0 then b.filePend page value else b) := by
  unfold Block.controlWrite
  refine (if_neg (mt inMailboxes_iff.mp hmbx)).trans ?_
  rw [hfile]
  exact if_pos (isWord_iff.mpr hword)

theorem Block.controlWrite_file_denied (hfile : fileOf pa = some page) (hword : ¬ (width = 4 ∧ pa % 4 = 0)) :
    b.controlWrite mid part pa width value = (.err, b) := by
  unfold Block.controlWrite
  refine (if_neg (mt inMailboxes_iff.mp hmbx)).trans ?_
  rw [hfile]
  exact if_neg (mt isWord_iff.mp hword)

variable (hfile : fileOf pa = none)
include hfile

theorem Block.controlWrite_iot (hiot : iotBase < pa ∧ pa < iotBase + 0x1000) (hwidth : iotWidth (pa - iotBase) = width) :
    b.controlWrite mid part pa width value = (.done, b.iotWrite (pa - iotBase) value) := by
  unfold Block.controlWrite
  refine (if_neg (mt inMailboxes_iff.mp hmbx)).trans ?_
  rw [hfile]
  exact (if_pos (inIot_iff.mpr hiot)).trans (if_pos hwidth)

theorem Block.controlWrite_iot_denied (hiot : iotBase < pa ∧ pa < iotBase + 0x1000) (hwidth : ¬ iotWidth (pa - iotBase) = width) :
    b.controlWrite mid part pa width value = (.err, b) := by
  unfold Block.controlWrite
  refine (if_neg (mt inMailboxes_iff.mp hmbx)).trans ?_
  rw [hfile]
  exact (if_pos (inIot_iff.mpr hiot)).trans (if_neg hwidth)

variable (hiot : ¬ (iotBase < pa ∧ pa < iotBase + 0x1000))
include hiot

/-- No register of that width is there. -/
theorem Block.controlWrite_unfit (hfit : widthFits width (regAt pa Reg.all) = false) :
    b.controlWrite mid part pa width value = (.err, b) := by
  unfold Block.controlWrite
  refine (if_neg (mt inMailboxes_iff.mp hmbx)).trans ?_
  rw [hfile]
  refine (if_neg (mt inIot_iff.mp hiot)).trans ?_
  generalize regAt pa Reg.all = o at hfit
  obtain _ | ⟨r, i, j, k⟩ := o
  · rfl
  · exact if_neg (of_decide_eq_false hfit)

theorem Block.controlWrite_reg (hreg : regAt pa Reg.all = some (r, i, j, k)) (hwidth : r.desc.width = 8 * width) :
    b.controlWrite mid part pa width value = Block.writeAns b (b.regWrite mid part r i j k (value % 2 ^ r.desc.width)) := by
  unfold Block.controlWrite
  refine (if_neg (mt inMailboxes_iff.mp hmbx)).trans ?_
  rw [hfile]
  refine (if_neg (mt inIot_iff.mp hiot)).trans ?_
  rw [hreg]
  exact if_pos hwidth

end

/-! ## Register writes with the cycle of hardware -/

section
variable {b c : Block} {mid addr width value hwSet hwClr i j k : Nat} {part : Option Nat} {r : Reg} {s : State}

theorem Block.ioDone_done : Block.ioDone mid addr (.done, b) = b.emit (.ioComp mid 0 addr false 0) := rfl

/-- A register write is denied where it answered an access error. -/
theorem Block.ioDone_writeAns :
    Block.ioDone mid addr (Block.writeAns b c) = c.emit (.ioComp mid 0 addr ((c.out.drop b.out.length).contains .accessError) 0) := by
  unfold Block.writeAns
  cases (c.out.drop b.out.length).contains .accessError <;> rfl

theorem Block.hwCycle_nowhere {v : Nat} {f : Reg → Nat → Nat → Nat → Nat → Block → Block} (hreg : regAt addr Reg.all = none) :
    b.hwCycle addr v f = b := by
  unfold Block.hwCycle
  rw [hreg]

theorem Block.hwCycle_at {v : Nat} {f : Reg → Nat → Nat → Nat → Nat → Block → Block} (hreg : regAt addr Reg.all = some (r, i, j, k)) :
    b.hwCycle addr v f = b.when (v ≠ 0) (f r i j k v) := by
  unfold Block.hwCycle
  rw [hreg]

theorem execRegisterWrite_plain (hon : s.start.dev ≠ .off) (hreg : regAt addr Reg.all = none) :
    execRegisterWrite (.mem mid part addr width) value hwSet hwClr s =
      .next (s.withBlk (Block.ioAnswer (s.start.ioWrite mid part addr width value))) := by
  refine onBlk_next hon ?_
  dsimp only
  rw [Block.hwCycle_nowhere hreg, Block.hwCycle_nowhere hreg]

/-- The clears of hardware, the write, the sets of hardware. -/
theorem execRegisterWrite_cycle {q : IoAns × Block} (hon : s.start.dev ≠ .off) (hreg : regAt addr Reg.all = some (r, i, j, k))
    (hq : (s.start.when (hwClr ≠ 0) (Block.hwClear r i j k hwClr)).ioWrite mid part addr width value = q) :
    execRegisterWrite (.mem mid part addr width) value hwSet hwClr s =
      .next (s.withBlk (Block.ioAnswer (q.1, q.2.when (hwSet ≠ 0) (Block.hwSet r i j k hwSet)))) := by
  subst hq
  refine onBlk_next hon ?_
  dsimp only
  rw [Block.hwCycle_at hreg, Block.hwCycle_at hreg]

theorem Block.ioAnswer_err {a : IoAns} (ha : a = .err) : Block.ioAnswer (a, b) = b.emit .accessError := by
  subst ha
  rfl

theorem Block.ioAnswer_silent {a : IoAns} (ha : a = .done ∨ a = .denied ∨ a = .later) : Block.ioAnswer (a, b) = b := by
  obtain rfl | rfl | rfl := ha <;> rfl

end

/-! ## CSR accesses -/

/-- What a CSR operation makes of the old value. -/
def CsrOp.apply (op : CsrOp) (old v : Nat) : Nat :=
  match op with
  | .set => Nat.lor old v
  | .clear => old - Nat.land old v
  | _ => v

section
variable {b : Block} {h n dst v x p r : Nat} {op : CsrOp}

theorem Block.csrAccess_trap (htrap : (csrTrap (b.hart h).priv n (decide (op ≠ .read))).or (b.csrGuard h n (decide (op ≠ .read))) = some x) :
    b.csrAccess h n dst op v = b.except h { cause := x, tval := 0 } := by
  unfold Block.csrAccess
  dsimp only
  rw [htrap]

variable (htrap : (csrTrap (b.hart h).priv n (decide (op ≠ .read))).or (b.csrGuard h n (decide (op ≠ .read))) = none)
include htrap

theorem Block.csrAccess_seal_illegal (hn : n = csrTurnseal) (hpin : b.runningPin h = none) : b.csrAccess h n dst op v = b.illegal h := by
  unfold Block.csrAccess
  dsimp only
  rw [htrap]
  refine (if_pos hn).trans ?_
  rw [hpin]

theorem Block.csrAccess_seal (hn : n = csrTurnseal) (hpin : b.runningPin h = some (p, r))
    (hbit : op ≠ .read ∧ CsrOp.apply op (b.csrRead h n) v % 2 = 1) :
    b.csrAccess h n dst op v = (b.setX h dst (b.csrRead h n)).sealHart h p r := by
  unfold Block.csrAccess
  dsimp only
  rw [htrap]
  refine (if_pos hn).trans ?_
  rw [hpin]
  refine Block.when_of ?_ _ _
  rw [Bool.and_eq_true, decide_eq_true_eq, decide_eq_true_eq]
  exact hbit

theorem Block.csrAccess_unsealed (hn : n = csrTurnseal) (hpin : b.runningPin h ≠ none)
    (hbit : ¬ (op ≠ .read ∧ CsrOp.apply op (b.csrRead h n) v % 2 = 1)) :
    b.csrAccess h n dst op v = b.setX h dst (b.csrRead h n) := by
  obtain ⟨⟨p, r⟩, hpin⟩ := Option.ne_none_iff_exists'.mp hpin
  unfold Block.csrAccess
  dsimp only
  rw [htrap]
  refine (if_pos hn).trans ?_
  rw [hpin]
  refine Block.when_of_not (Bool.eq_false_iff.mpr fun hyes => hbit ?_) _ _
  rw [Bool.and_eq_true, decide_eq_true_eq, decide_eq_true_eq] at hyes
  exact hyes

theorem Block.csrAccess_read (hn : n ≠ csrTurnseal) (hop : op = .read) :
    b.csrAccess h n dst op v = (b.when (n = 0x15) Block.tickFree).setX h dst (b.csrRead h n) := by
  subst hop
  unfold Block.csrAccess
  dsimp only
  rw [htrap]
  exact if_neg hn

theorem Block.csrAccess_written (hn : n ≠ csrTurnseal) (hop : op ≠ .read) :
    b.csrAccess h n dst op v = ((b.csrPut h n (CsrOp.apply op (b.csrRead h n) v)).when (n = 0x15) Block.tickFree).setX h dst (b.csrRead h n) := by
  unfold Block.csrAccess
  dsimp only
  rw [htrap]
  refine (if_neg hn).trans ?_
  rw [Block.when_of (decide_eq_true hop)]
  rfl

end

/-- Settles O42: the region of the address first, then the register there; a CSR access by what its mode may. -/
theorem registerAccess : Obligations.RegisterAccess := by
  unfold Obligations.RegisterAccess
  refine ⟨?_, ?_, ?_, ?_, ?_, ?_, ?_, ?_, ?_, ?_, ?_, ?_, ?_, ?_, ?_, ?_, ?_, ?_, ?_, ?_, ?_, ?_, ?_, ?_, ?_, ?_, ?_, ?_, ?_, ?_, ?_, ?_, ?_, ?_, ?_, ?_, ?_, ?_, ?_, ?_, ?_, ?_, ?_, ?_, ?_, ?_, ?_, ?_, ?_, ?_⟩
  -- `ioRd`
  · intro s mid part addr width b q hon harrives
    exact (onBlk_next hon (Block.taking_gone harrives) : execIoRd mid part addr width s = _)
  · intro s mid part addr width b q hon harrives hdecodePa
    refine (onBlk_next hon ((Block.taking_lands (b := b) harrives).trans ?_) : execIoRd mid part addr width s = _)
    exact congrArg (Block.ioDone mid addr) (Block.ioRead_foreign (b := q) hdecodePa)
  · intro s mid part addr width b q hon harrives hgov
    refine (onBlk_next hon ((Block.taking_lands (b := b) harrives).trans ?_) : execIoRd mid part addr width s = _)
    exact congrArg (Block.ioDone mid addr) (Block.ioRead_denied (b := q) hgov)
  · intro s mid part addr width b q hon harrives hdecodePa hdebugMay
    refine (onBlk_next hon ((Block.taking_lands (b := b) harrives).trans ?_) : execIoRd mid part addr width s = _)
    exact congrArg (Block.ioDone mid addr) (Block.ioRead_pcie (b := q) hdecodePa hdebugMay)
  · intro s mid part addr width b q hon harrives hdecodePa hsailOpen hokWidth hdebugMay
    refine (onBlk_next hon ((Block.taking_lands (b := b) harrives).trans ?_) : execIoRd mid part addr width s = _)
    exact congrArg (Block.ioDone mid addr) (Block.ioRead_scratch (b := q) hdecodePa hsailOpen hokWidth hdebugMay)
  · intro s mid part addr width v b q hon harrives hdecodePa hgov hokWidth hgovWindow
    refine (onBlk_next hon ((Block.taking_lands (b := b) harrives).trans ?_) : execIoRd mid part addr width s = _)
    exact congrArg (Block.ioDone mid addr) (Block.ioRead_window (b := q) hdecodePa hgov hokWidth hgovWindow)
  · intro s mid part addr width v b q r hon harrives hdecodePa hmbxBase hcond
    refine (onBlk_next hon ((Block.taking_lands (b := b) harrives).trans ?_) : execIoRd mid part addr width s = _)
    exact congrArg (Block.ioDone mid addr) ((Block.ioRead_control (b := q) hdecodePa).trans (Block.controlRead_mailbox (b := q) (c := r.2) hmbxBase (Prod.ext hcond rfl)))
  · intro s mid part addr width b q r hon harrives hdecodePa hmbxBase hcond
    refine (onBlk_next hon ((Block.taking_lands (b := b) harrives).trans ?_) : execIoRd mid part addr width s = _)
    exact congrArg (Block.ioDone mid addr) ((Block.ioRead_control (b := q) hdecodePa).trans (Block.controlRead_mailbox_denied (b := q) (c := r.2) hmbxBase (Prod.ext hcond rfl)))
  · intro s mid part addr width b q hon harrives hdecodePa hmbxBase hfileOf hwidth
    refine (onBlk_next hon ((Block.taking_lands (b := b) harrives).trans ?_) : execIoRd mid part addr width s = _)
    exact congrArg (Block.ioDone mid addr) ((Block.ioRead_control (b := q) hdecodePa).trans (Block.controlRead_file (b := q) hmbxBase hfileOf hwidth))
  · intro s mid part addr width b q hon harrives hdecodePa hmbxBase hfileOf hwidth
    refine (onBlk_next hon ((Block.taking_lands (b := b) harrives).trans ?_) : execIoRd mid part addr width s = _)
    exact congrArg (Block.ioDone mid addr) ((Block.ioRead_control (b := q) hdecodePa).trans (Block.controlRead_file_denied (b := q) hmbxBase hfileOf hwidth))
  · intro s mid part addr width b q hon harrives hdecodePa hmbxBase hfileOf hiotBase hiotWidth
    refine (onBlk_next hon ((Block.taking_lands (b := b) harrives).trans ?_) : execIoRd mid part addr width s = _)
    exact congrArg (Block.ioDone mid addr) ((Block.ioRead_control (b := q) hdecodePa).trans (Block.controlRead_iot (b := q) hmbxBase hfileOf hiotBase hiotWidth))
  · intro s mid part addr width b q hon harrives hdecodePa hmbxBase hfileOf hiotBase hiotWidth
    refine (onBlk_next hon ((Block.taking_lands (b := b) harrives).trans ?_) : execIoRd mid part addr width s = _)
    exact congrArg (Block.ioDone mid addr) ((Block.ioRead_control (b := q) hdecodePa).trans (Block.controlRead_iot_denied (b := q) hmbxBase hfileOf hiotBase hiotWidth))
  · intro s mid part addr width b q hon harrives hdecodePa hmbxBase hfileOf hiotBase hwidth
    refine (onBlk_next hon ((Block.taking_lands (b := b) harrives).trans ?_) : execIoRd mid part addr width s = _)
    exact congrArg (Block.ioDone mid addr) ((Block.ioRead_control (b := q) hdecodePa).trans (Block.controlRead_unfit (b := q) hmbxBase hfileOf hiotBase (widthFits_eq.symm.trans hwidth)))
  · intro s mid part addr width i j k r v b q hon harrives hdecodePa hmbxBase hfileOf hiotBase hregAt hwidth hregRead
    refine (onBlk_next hon ((Block.taking_lands (b := b) harrives).trans ?_) : execIoRd mid part addr width s = _)
    exact congrArg (Block.ioDone mid addr) ((Block.ioRead_control (b := q) hdecodePa).trans (Block.controlRead_reg (b := q) hmbxBase hfileOf hiotBase hregAt hwidth hregRead))
  · intro s mid part addr width i j k r b q hon harrives hdecodePa hmbxBase hfileOf hiotBase hregAt hwidth hregRead
    refine (onBlk_next hon ((Block.taking_lands (b := b) harrives).trans ?_) : execIoRd mid part addr width s = _)
    exact congrArg (Block.ioDone mid addr) ((Block.ioRead_control (b := q) hdecodePa).trans (Block.controlRead_reg_denied (b := q) hmbxBase hfileOf hiotBase hregAt hwidth hregRead))
  -- `ioWr`
  · intro s mid part addr width value b q hon harrives
    exact (onBlk_next hon (Block.taking_gone harrives) : execIoWr mid part addr width value s = _)
  · intro s mid part addr width value b q hon harrives hdecodePa
    refine (onBlk_next hon ((Block.taking_lands (b := b) harrives).trans ?_) : execIoWr mid part addr width value s = _)
    exact congrArg (Block.ioDone mid addr) (Block.ioWrite_foreign (b := q) hdecodePa)
  · intro s mid part addr width value b q hon harrives hdecodePa
    refine (onBlk_next hon ((Block.taking_lands (b := b) harrives).trans ?_) : execIoWr mid part addr width value s = _)
    exact congrArg (Block.ioDone mid addr) (Block.ioWrite_denied (b := q) hdecodePa)
  · intro s mid part addr width value b q hon harrives hdecodePa hdebugMay
    refine (onBlk_next hon ((Block.taking_lands (b := b) harrives).trans ?_) : execIoWr mid part addr width value s = _)
    exact congrArg (Block.ioDone mid addr) (Block.ioWrite_pcie (b := q) hdecodePa hdebugMay)
  · intro s mid part addr width value b q hon harrives hdecodePa hsailOpen hokWidth hdebugMay
    refine (onBlk_next hon ((Block.taking_lands (b := b) harrives).trans ?_) : execIoWr mid part addr width value s = _)
    exact congrArg (Block.ioDone mid addr) (Block.ioWrite_scratch (b := q) hdecodePa hsailOpen hokWidth hdebugMay)
  · intro s mid part addr width value b q r hon harrives hdecodePa hmbxBase hcond
    refine (onBlk_next hon ((Block.taking_lands (b := b) harrives).trans ?_) : execIoWr mid part addr width value s = _)
    exact congrArg (Block.ioDone mid addr) ((Block.ioWrite_control (b := q) hdecodePa).trans (Block.controlWrite_mailbox (b := q) (c := r.2) hmbxBase (Prod.ext hcond rfl)))
  · intro s mid part addr width value b q r hon harrives hdecodePa hmbxBase hcond
    refine (onBlk_next hon ((Block.taking_lands (b := b) harrives).trans ?_) : execIoWr mid part addr width value s = _)
    exact congrArg (Block.ioDone mid addr) ((Block.ioWrite_control (b := q) hdecodePa).trans (Block.controlWrite_mailbox_denied (b := q) (c := r.2) hmbxBase (Prod.ext hcond rfl)))
  · intro s mid part addr width value page b q hon harrives hdecodePa hmbxBase hfileOf hwidth
    refine (onBlk_next hon ((Block.taking_lands (b := b) harrives).trans ?_) : execIoWr mid part addr width value s = _)
    exact congrArg (Block.ioDone mid addr) ((Block.ioWrite_control (b := q) hdecodePa).trans (Block.controlWrite_file (b := q) hmbxBase hfileOf hwidth))
  · intro s mid part addr width value page b q hon harrives hdecodePa hmbxBase hfileOf hwidth
    refine (onBlk_next hon ((Block.taking_lands (b := b) harrives).trans ?_) : execIoWr mid part addr width value s = _)
    exact congrArg (Block.ioDone mid addr) ((Block.ioWrite_control (b := q) hdecodePa).trans (Block.controlWrite_file_denied (b := q) hmbxBase hfileOf hwidth))
  · intro s mid part addr width value b q hon harrives hdecodePa hmbxBase hfileOf hiotBase hiotWidth
    refine (onBlk_next hon ((Block.taking_lands (b := b) harrives).trans ?_) : execIoWr mid part addr width value s = _)
    refine (congrArg (Block.ioDone mid addr) ((Block.ioWrite_control (b := q) hdecodePa).trans (Block.controlWrite_iot (b := q) hmbxBase hfileOf hiotBase hiotWidth))).trans ?_
    exact Block.ioDone_done
  · intro s mid part addr width value b q hon harrives hdecodePa hmbxBase hfileOf hiotBase hiotWidth
    refine (onBlk_next hon ((Block.taking_lands (b := b) harrives).trans ?_) : execIoWr mid part addr width value s = _)
    exact congrArg (Block.ioDone mid addr) ((Block.ioWrite_control (b := q) hdecodePa).trans (Block.controlWrite_iot_denied (b := q) hmbxBase hfileOf hiotBase hiotWidth))
  · intro s mid part addr width value b q hon harrives hdecodePa hmbxBase hfileOf hiotBase hwidth
    refine (onBlk_next hon ((Block.taking_lands (b := b) harrives).trans ?_) : execIoWr mid part addr width value s = _)
    exact congrArg (Block.ioDone mid addr) ((Block.ioWrite_control (b := q) hdecodePa).trans (Block.controlWrite_unfit (b := q) hmbxBase hfileOf hiotBase (widthFits_eq.symm.trans hwidth)))
  · intro s mid part addr width value i j k r b q d bad hon harrives hdecodePa hmbxBase hfileOf hiotBase hregAt hwidth
    refine (onBlk_next hon ((Block.taking_lands (b := b) harrives).trans ?_) : execIoWr mid part addr width value s = _)
    refine (congrArg (Block.ioDone mid addr) ((Block.ioWrite_control (b := q) hdecodePa).trans (Block.controlWrite_reg (b := q) hmbxBase hfileOf hiotBase hregAt hwidth))).trans ?_
    exact Block.ioDone_writeAns (b := q) (c := d)
  · intro s mid part addr width value i j k r b q d bad hon harrives hdecodePa hmbxBase hfileOf hiotBase hregAt hwidth hbad
    refine (onBlk_next hon ((Block.taking_lands (b := b) harrives).trans ?_) : execIoWr mid part addr width value s = _)
    refine (congrArg (Block.ioDone mid addr) ((Block.ioWrite_control (b := q) hdecodePa).trans (Block.controlWrite_reg (b := q) hmbxBase hfileOf hiotBase hregAt hwidth))).trans ?_
    exact Block.ioDone_writeAns (b := q) (c := d)
  -- `registerWrite`
  · intro s mid part addr width value hwSet hwClr b hon hregAt
    exact execRegisterWrite_plain hon hregAt
  · intro s mid part addr width value hwSet hwClr i j k r b c q d hon hregAt herr
    refine (execRegisterWrite_cycle (q := q) hon hregAt rfl).trans ?_
    rw [Block.ioAnswer_err herr]
  · intro s mid part addr width value hwSet hwClr i j k r b c q d hon hregAt hdone
    refine (execRegisterWrite_cycle (q := q) hon hregAt rfl).trans ?_
    rw [Block.ioAnswer_silent hdone]
  · intro s mid part addr width value hwSet hwClr i j k r b c q d hon hregAt hdone
    refine (execRegisterWrite_cycle (q := q) hon hregAt rfl).trans ?_
    rw [Block.ioAnswer_silent hdone]
  · intro s sail core num dst value hwSet hwClr op b h hcore
    exact (onBlk_unchanged (b := b) (fun _ => Block.instr_ite_waits hcore) : execRegisterWrite (.csr sail core num dst op) value hwSet hwClr s = _)
  · intro s sail core num dst value hwSet hwClr op lv i b h hon hcore hready hirqNext
    exact (onBlk_next hon ((if_neg (Nat.not_le.mpr hcore)).trans (Block.instr_interrupted (b := b) hready hirqNext)) : execRegisterWrite (.csr sail core num dst op) value hwSet hwClr s = _)
  · intro s sail core num dst value hwSet hwClr op b h hon hcore hready hirqNext htrigCount
    exact (onBlk_next hon ((if_neg (Nat.not_le.mpr hcore)).trans (Block.instr_triggered (b := b) hready hirqNext htrigCount)) : execRegisterWrite (.csr sail core num dst op) value hwSet hwClr s = _)
  · intro s sail core num dst value hwSet hwClr op x b h c old new hon hcore hready hirqNext htrigCount hcsrTrap
    refine (onBlk_next hon ((if_neg (Nat.not_le.mpr hcore)).trans ((Block.instr_runs (b := b) hready hirqNext htrigCount).trans ?_)) : execRegisterWrite (.csr sail core num dst op) value hwSet hwClr s = _)
    exact Block.csrAccess_trap (b := c) hcsrTrap
  · intro s sail core num dst value hwSet hwClr op b h c old new hon hcore hready hirqNext htrigCount hcsrTrap hnum hrunningPin
    refine (onBlk_next hon ((if_neg (Nat.not_le.mpr hcore)).trans ((Block.instr_runs (b := b) hready hirqNext htrigCount).trans ?_)) : execRegisterWrite (.csr sail core num dst op) value hwSet hwClr s = _)
    exact Block.csrAccess_seal_illegal (b := c) hcsrTrap hnum hrunningPin
  · intro s sail core num dst value hwSet hwClr op p r b h c old new hon hcore hready hirqNext htrigCount hcsrTrap hnum hrunningPin hop
    refine (onBlk_next hon ((if_neg (Nat.not_le.mpr hcore)).trans ((Block.instr_runs (b := b) hready hirqNext htrigCount).trans ?_)) : execRegisterWrite (.csr sail core num dst op) value hwSet hwClr s = _)
    exact Block.csrAccess_seal (b := c) hcsrTrap hnum hrunningPin hop
  · intro s sail core num dst value hwSet hwClr op b h c old new hon hcore hready hirqNext htrigCount hcsrTrap hnum hrunningPin hop
    refine (onBlk_next hon ((if_neg (Nat.not_le.mpr hcore)).trans ((Block.instr_runs (b := b) hready hirqNext htrigCount).trans ?_)) : execRegisterWrite (.csr sail core num dst op) value hwSet hwClr s = _)
    exact Block.csrAccess_unsealed (b := c) hcsrTrap hnum hrunningPin hop
  · intro s sail core num dst value hwSet hwClr op b h c old new hon hcore hready hirqNext htrigCount hcsrTrap hnum hop
    refine (onBlk_next hon ((if_neg (Nat.not_le.mpr hcore)).trans ((Block.instr_runs (b := b) hready hirqNext htrigCount).trans ?_)) : execRegisterWrite (.csr sail core num dst op) value hwSet hwClr s = _)
    exact Block.csrAccess_read (b := c) hcsrTrap hnum hop
  · intro s sail core num dst value hwSet hwClr op b h c old new hon hcore hready hirqNext htrigCount hcsrTrap hnum hop
    subst hop
    refine (onBlk_next hon ((if_neg (Nat.not_le.mpr hcore)).trans ((Block.instr_runs (b := b) hready hirqNext htrigCount).trans ?_)) : execRegisterWrite (.csr sail core num dst .write) value hwSet hwClr s = _)
    exact Block.csrAccess_written (b := c) hcsrTrap hnum CsrOp.noConfusion
  · intro s sail core num dst value hwSet hwClr op b h c old new hon hcore hready hirqNext htrigCount hcsrTrap hnum hop
    subst hop
    refine (onBlk_next hon ((if_neg (Nat.not_le.mpr hcore)).trans ((Block.instr_runs (b := b) hready hirqNext htrigCount).trans ?_)) : execRegisterWrite (.csr sail core num dst .set) value hwSet hwClr s = _)
    exact Block.csrAccess_written (b := c) hcsrTrap hnum CsrOp.noConfusion
  · intro s sail core num dst value hwSet hwClr op b h c old new hon hcore hready hirqNext htrigCount hcsrTrap hnum hop
    subst hop
    refine (onBlk_next hon ((if_neg (Nat.not_le.mpr hcore)).trans ((Block.instr_runs (b := b) hready hirqNext htrigCount).trans ?_)) : execRegisterWrite (.csr sail core num dst .clear) value hwSet hwClr s = _)
    exact Block.csrAccess_written (b := c) hcsrTrap hnum CsrOp.noConfusion
  -- `ioComp`
  · intro s mid txid err data b q hon harrives
    exact (onBlk_next hon (Block.taking_gone harrives) : execIoComp mid txid err data s = _)
  · intro s mid txid err data b q hon harrives hhart
    refine (onBlk_next hon ((Block.taking_lands (b := b) harrives).trans ?_) : execIoComp mid txid err data s = _)
    simp [hhart, q]
  · intro s mid txid err data w b q c hon harrives hhart herr hdst
    refine (onBlk_next hon ((Block.taking_lands (b := b) harrives).trans ?_) : execIoComp mid txid err data s = _)
    grind
  · intro s mid txid err data w b q c hon harrives hhart herr hdst
    refine (onBlk_next hon ((Block.taking_lands (b := b) harrives).trans ?_) : execIoComp mid txid err data s = _)
    simp_all [q, c]
  · intro s mid txid err data w dst sg b q c hon harrives hhart herr hdst
    refine (onBlk_next hon ((Block.taking_lands (b := b) harrives).trans ?_) : execIoComp mid txid err data s = _)
    simp_all [q, c]
  · intro s mid txid err data w b q c hon harrives hhart herr hdst
    refine (onBlk_next hon ((Block.taking_lands (b := b) harrives).trans ?_) : execIoComp mid txid err data s = _)
    simp_all [q, c]

end Sys2Proof.Machine
end

section
/-! PROOFS. Manager commands of the sluice that are refused. -/

namespace Sys2Proof.Machine

/-! ## The word of a command (R378) -/

/-- The operation of a command on the block, with its code. -/
def Block.managerOp (op arg : Nat) (b : Block) : Nat × Block :=
  match op with
  | 0x01 => b.flowInsert arg
  | 0x02 => b.flowDelete arg
  | 0x03 => b.flowModify arg
  | 0x04 => b.flowReadCmd arg
  | 0x05 => if arg ≠ 0 then (1, b) else b.flowLookup
  | 0x10 => b.instConfig arg
  | 0x11 => b.qctxWrite arg
  | 0x12 => b.qctxRead arg
  | 0x13 => b.instShare arg
  | 0x14 => b.instReset arg false
  | 0x15 => b.instReset arg true
  | 0x16 => b.logConfig arg
  | 0x17 => b.logSwap arg
  | 0x18 => b.logStop arg
  | 0x19 => b.clrErr arg
  | _ => (1, b)

/-- What a command shows: its sender, DONE, and ERR with a code that is not 0. -/
def Block.answered (mid e : Nat) (b : Block) : Block :=
  (((b.put SLC_MSTAT_OWNER mid).put SLC_MSTAT_DONE 1).put SLC_MSTAT_ERR (if e = 0 then 0 else 1)).put SLC_MSTAT_ERRCODE e

section
variable {b c : Block} {mid op arg e : Nat} {part : Option Nat}

theorem Block.managerWord_eq (v : Nat) (b : Block) :
    b.managerWord mid part v = b.manage mid part (bits v 28 31) (Block.managerOp (v % 256) (bits v 8 27)) := rfl

theorem mcmd_mod (hop : op < 256) : mcmd op arg % 256 = op := by
  unfold mcmd
  omega

theorem bits_mcmd_arg (hop : op < 256) : bits (mcmd op arg) 8 27 = arg % 2 ^ 20 := by
  unfold bits mcmd
  omega

theorem bits_mcmd_reserved (hop : op < 256) : bits (mcmd op arg) 28 31 = 0 := by
  unfold bits mcmd
  omega

theorem Block.managerWord_answered (hmanager : b.isManager mid part true = true) (hop : op < 256)
    (hdo : Block.managerOp op (arg % 2 ^ 20) b = (e, c)) : b.managerWord mid part (mcmd op arg) = c.answered mid e := by
  rw [Block.managerWord_eq, mcmd_mod hop, bits_mcmd_arg hop, bits_mcmd_reserved hop]
  unfold Block.manage
  refine (if_neg (by simp [hmanager])).trans ?_
  rw [if_neg (not_not_intro rfl), hdo]
  rfl

end

/-! ## Reads of the flow table -/

section
variable {b : Block} {a : Nat} {u : Bytes}

/-- A read that fails names the address that it read. -/
theorem Block.flowRead_error (hread : (b.flowRead a).1.toOption = none) : b.flowRead a = (.error a, (b.flowRead a).2) := by
  unfold Block.flowRead at hread ⊢
  split
  · rfl
  · rename_i hok
    rw [if_neg hok] at hread
    dsimp only at hread ⊢
    split
    · rfl
    · rename_i hgood
      rw [if_neg hgood] at hread
      cases hread

theorem Except.eq_ok_of_toOption {ε α : Type} {x : Except ε α} {v : α} (hx : x.toOption = some v) : x = .ok v := by
  cases x with
  | error e => cases hx
  | ok w => exact congrArg Except.ok (Option.some.inj hx)

theorem Block.flowRead_ok (hread : (b.flowRead a).1.toOption = some u) : b.flowRead a = (.ok u, (b.flowRead a).2) :=
  Prod.ext (Except.eq_ok_of_toOption hread) rfl

end

/-! ## FLOW_INSERT -/

section
variable {b c d : Block} {i : Nat} {u v : Bytes}

theorem Block.flowInsert_fixed (hfixed : b.flowFixed i b.mdataWords = true) : b.flowInsert i = (3, b) := by
  unfold Block.flowInsert
  exact if_pos hfixed

theorem ctxValid_not_iff {ws : List Nat} :
    (!ctxValid ws || decide (fKtype ws = 0) || decide (3 < fKtype ws)) = true ↔ ¬ (ctxValid ws = true ∧ 1 ≤ fKtype ws ∧ fKtype ws ≤ 3) := by
  simp only [Bool.or_eq_true, Bool.not_eq_true', decide_eq_true_eq]
  cases ctxValid ws <;> simp; omega

variable (hfixed : b.flowFixed i b.mdataWords = false)
include hfixed

theorem Block.flowInsert_invalid (hvalid : ¬ (ctxValid b.mdataWords = true ∧ 1 ≤ fKtype b.mdataWords ∧ fKtype b.mdataWords ≤ 3)) :
    b.flowInsert i = (8, b) := by
  unfold Block.flowInsert
  exact (if_neg (ne_true_of_eq_false hfixed)).trans (if_pos (ctxValid_not_iff.mpr hvalid))

variable (hvalid : ctxValid b.mdataWords = true ∧ 1 ≤ fKtype b.mdataWords ∧ fKtype b.mdataWords ≤ 3)
include hvalid

theorem Block.flowInsert_known (hkey : (b.flowByKey (ctxKey b.mdataWords)).isSome = true) : b.flowInsert i = (4, b) := by
  unfold Block.flowInsert
  refine (if_neg (ne_true_of_eq_false hfixed)).trans ?_
  exact (if_neg fun h => ctxValid_not_iff.mp h hvalid).trans (if_pos hkey)

variable (hkey : b.flowByKey (ctxKey b.mdataWords) = none)
include hkey

theorem Block.flowInsert_unread {a : Nat} (hread : b.flowRead (b.flowBucket (flowHash (ctxKey b.mdataWords)).1) = (.error a, c)) :
    b.flowInsert i = (2, c.note { code := 0x2902, mid := some midSluice, addr := some a }) := by
  unfold Block.flowInsert
  refine (if_neg (ne_true_of_eq_false hfixed)).trans ?_
  refine (if_neg fun h => ctxValid_not_iff.mp h hvalid).trans ?_
  refine (if_neg (by simp [hkey])).trans ?_
  rw [hread]

variable (hread : b.flowRead (b.flowBucket (flowHash (ctxKey b.mdataWords)).1) = (.ok u, c))
include hread

theorem Block.flowInsert_unread_second {a : Nat}
    (hread' : c.flowRead (c.flowBucket (flowHash (ctxKey b.mdataWords)).2.1) = (.error a, d)) :
    b.flowInsert i = (2, d.note { code := 0x2902, mid := some midSluice, addr := some a }) := by
  unfold Block.flowInsert
  refine (if_neg (ne_true_of_eq_false hfixed)).trans ?_
  refine (if_neg fun h => ctxValid_not_iff.mp h hvalid).trans ?_
  refine (if_neg (by simp [hkey])).trans ?_
  rw [hread]
  dsimp only
  rw [hread']

variable (hread' : c.flowRead (c.flowBucket (flowHash (ctxKey b.mdataWords)).2.1) = (.ok v, d))
include hread'

theorem Block.flowInsert_tagged
    (htag : (ctxOf u ++ ctxOf v).any (fun w => bit w 20 && bits w 32 59 = (flowHash (ctxKey b.mdataWords)).2.2) = true) :
    b.flowInsert i = (4, d) := by
  unfold Block.flowInsert
  refine (if_neg (ne_true_of_eq_false hfixed)).trans ?_
  refine (if_neg fun h => ctxValid_not_iff.mp h hvalid).trans ?_
  refine (if_neg (by simp [hkey])).trans ?_
  rw [hread]
  dsimp only
  rw [hread']
  exact if_pos htag

variable (htag : (ctxOf u ++ ctxOf v).any (fun w => bit w 20 && bits w 32 59 = (flowHash (ctxKey b.mdataWords)).2.2) = false)
include htag

/-- Both buckets are full. -/
theorem Block.flowInsert_full (hfull : (ctxOf u ++ ctxOf v).all (fun w => bit w 20) = true) : b.flowInsert i = (4, d) := by
  rw [List.all_append, Bool.and_eq_true] at hfull
  have hu : (ctxOf u).findIdx? (fun w => !bit w 20) = none := List.findIdx?_eq_none_iff.mpr fun w hw => congrArg not (List.all_eq_true.mp hfull.1 w hw)
  have hv : (ctxOf v).findIdx? (fun w => !bit w 20) = none := List.findIdx?_eq_none_iff.mpr fun w hw => congrArg not (List.all_eq_true.mp hfull.2 w hw)
  unfold Block.flowInsert
  refine (if_neg (ne_true_of_eq_false hfixed)).trans ?_
  refine (if_neg fun h => ctxValid_not_iff.mp h hvalid).trans ?_
  refine (if_neg (by simp [hkey])).trans ?_
  rw [hread]
  dsimp only
  rw [hread']
  refine (if_neg (ne_true_of_eq_false htag)).trans ?_
  rw [hu, hv]

/-- A place in the first bucket. -/
theorem Block.flowInsert_first {k : Nat} (hu : (ctxOf u).findIdx? (fun w => !bit w 20) = some k) :
    b.flowInsert i = (0, ((d.dropFlow i).writeBytes midSluice noPart (d.flowCtx i) (ctxBytes b.mdataWords)).writeBytes midSluice noPart
      (d.flowBucket (flowHash (ctxKey b.mdataWords)).1 + 8 * k) (leBytes 8 (i + 2 ^ 20 + (flowHash (ctxKey b.mdataWords)).2.2 * 2 ^ 32))) := by
  unfold Block.flowInsert
  refine (if_neg (ne_true_of_eq_false hfixed)).trans ?_
  refine (if_neg fun h => ctxValid_not_iff.mp h hvalid).trans ?_
  refine (if_neg (by simp [hkey])).trans ?_
  rw [hread]
  dsimp only
  rw [hread']
  refine (if_neg (ne_true_of_eq_false htag)).trans ?_
  rw [hu]

/-- A place in the second bucket alone. -/
theorem Block.flowInsert_second {k : Nat} (hu : (ctxOf u).all (fun w => bit w 20) = true)
    (hv : (ctxOf v).findIdx? (fun w => !bit w 20) = some k) :
    b.flowInsert i = (0, ((d.dropFlow i).writeBytes midSluice noPart (d.flowCtx i) (ctxBytes b.mdataWords)).writeBytes midSluice noPart
      (d.flowBucket (flowHash (ctxKey b.mdataWords)).2.1 + 8 * k) (leBytes 8 (i + 2 ^ 20 + (flowHash (ctxKey b.mdataWords)).2.2 * 2 ^ 32))) := by
  have hu' : (ctxOf u).findIdx? (fun w => !bit w 20) = none := List.findIdx?_eq_none_iff.mpr fun w hw => congrArg not (List.all_eq_true.mp hu w hw)
  unfold Block.flowInsert
  refine (if_neg (ne_true_of_eq_false hfixed)).trans ?_
  refine (if_neg fun h => ctxValid_not_iff.mp h hvalid).trans ?_
  refine (if_neg (by simp [hkey])).trans ?_
  rw [hread]
  dsimp only
  rw [hread']
  refine (if_neg (ne_true_of_eq_false htag)).trans ?_
  rw [hu', hv]

end

/-! ## FLOW_DELETE, FLOW_MODIFY, FLOW_READ -/

section
variable {b c : Block} {i : Nat} {ws : List Nat}

theorem Block.flowDelete_unread (hnow : b.flowNow i = (none, c)) : b.flowDelete i = (5, c) := by
  unfold Block.flowDelete
  rw [hnow]

theorem Block.flowModify_unread (hnow : b.flowNow i = (none, c)) : b.flowModify i = (5, c) := by
  unfold Block.flowModify
  rw [hnow]

theorem Block.flowReadCmd_unread (hnow : b.flowNow i = (none, c)) : b.flowReadCmd i = (5, c) := by
  unfold Block.flowReadCmd
  rw [hnow]

variable (hnow : b.flowNow i = (some ws, c))
include hnow

theorem Block.flowDelete_absent (htype : fKtype ws = 0) : b.flowDelete i = (5, c) := by
  unfold Block.flowDelete
  rw [hnow]
  exact if_pos htype

theorem Block.flowModify_absent (htype : fKtype ws = 0) : b.flowModify i = (5, c) := by
  unfold Block.flowModify
  rw [hnow]
  exact if_pos htype

theorem Block.flowReadCmd_absent (htype : fKtype ws = 0) : b.flowReadCmd i = (5, c) := by
  unfold Block.flowReadCmd
  rw [hnow]
  exact if_pos htype

variable (htype : fKtype ws ≠ 0)
include htype

theorem Block.flowReadCmd_found : b.flowReadCmd i = (0, c.setMdata ws) := by
  unfold Block.flowReadCmd
  rw [hnow]
  exact if_neg htype

theorem Block.flowDelete_fixed (hfixed : c.flowFixed i ws = true) : b.flowDelete i = (3, c) := by
  unfold Block.flowDelete
  rw [hnow]
  exact (if_neg htype).trans (if_pos hfixed)

/-- The words that FLOW_MODIFY leaves. -/
def Block.modified (b : Block) (ws : List Nat) : List Nat := ws.take 2 ++ [b.mdata 2, b.mdata 3, b.mdata 4] ++ ws.drop 5

theorem Block.flowModify_fixed (hfixed : c.flowFixed i ws = true ∨ c.flowFixed i (c.modified ws) = true) : b.flowModify i = (3, c) := by
  unfold Block.flowModify
  rw [hnow]
  exact (if_neg htype).trans (if_pos ((Bool.or_eq_true _ _).mpr hfixed))

variable (hfree : ¬ (c.flowFixed i ws = true ∨ c.flowFixed i (c.modified ws) = true))
include hfree

theorem Block.flowModify_invalid (hvalid : ctxValid (c.modified ws) = false) : b.flowModify i = (8, c) := by
  unfold Block.flowModify
  rw [hnow]
  refine (if_neg htype).trans ?_
  exact (if_neg fun h => hfree ((Bool.or_eq_true _ _).mp h)).trans (if_pos (congrArg not hvalid))

variable (hvalid : ctxValid (c.modified ws) = true)
include hvalid

theorem Block.flowModify_cached (hidx : (c.flowByIdx i).isSome = true) :
    b.flowModify i = (0, c.modFlow i fun e => { e with words := c.modified ws }) := by
  obtain ⟨e, he⟩ := Option.isSome_iff_exists.mp hidx
  unfold Block.flowModify
  rw [hnow]
  refine (if_neg htype).trans ?_
  refine (if_neg fun h => hfree ((Bool.or_eq_true _ _).mp h)).trans ?_
  refine (if_neg fun h => Bool.noConfusion ((congrArg not hvalid).symm.trans h)).trans ?_
  rw [he]
  rfl

theorem Block.flowModify_table (hidx : c.flowByIdx i = none) :
    b.flowModify i = (0, c.writeBytes midSluice noPart (c.flowCtx i) (ctxBytes (c.modified ws))) := by
  unfold Block.flowModify
  rw [hnow]
  refine (if_neg htype).trans ?_
  refine (if_neg fun h => hfree ((Bool.or_eq_true _ _).mp h)).trans ?_
  refine (if_neg fun h => Bool.noConfusion ((congrArg not hvalid).symm.trans h)).trans ?_
  rw [hidx]
  rfl

end

/-! ## FLOW_LOOKUP -/

section
variable {b c : Block} {i : Nat} {ws : List Nat} {e : FlowEnt}

/-- The key that a lookup asks for. -/
def Block.askedKey (b : Block) : Bytes := leBytes 8 (b.mdata 0) ++ leBytes 8 (b.mdata 1)

theorem Block.flowLookup_cached (hkey : b.flowByKey b.askedKey = some e) :
    b.flowLookup = (0, (b.setR .SLC_MRES (e.index + 2 ^ 31)).setMdata e.words) := by
  unfold Block.flowLookup
  unfold Block.askedKey at hkey
  dsimp only
  rw [hkey]

variable (hkey : b.flowByKey b.askedKey = none)
include hkey

theorem Block.flowLookup_walked (hwalk : b.walkFlow b.askedKey = (.ok (some (i, ws)), c)) :
    b.flowLookup = (0, (c.setR .SLC_MRES (i + 2 ^ 31)).setMdata ws) := by
  unfold Block.flowLookup
  unfold Block.askedKey at hkey hwalk
  dsimp only
  rw [hkey]
  dsimp only
  rw [hwalk]

theorem Block.flowLookup_absent (hwalk : b.walkFlow b.askedKey = (.ok none, c)) : b.flowLookup = (5, c.setR .SLC_MRES 0) := by
  unfold Block.flowLookup
  unfold Block.askedKey at hkey hwalk
  dsimp only
  rw [hkey]
  dsimp only
  rw [hwalk]

theorem Block.flowLookup_unread (hwalk : b.walkFlow b.askedKey = (.error i, c)) :
    b.flowLookup = (5, (c.setR .SLC_MRES 0).note { code := 0x2902, mid := some midSluice, addr := some i }) := by
  unfold Block.flowLookup
  unfold Block.askedKey at hkey hwalk
  dsimp only
  rw [hkey]
  dsimp only
  rw [hwalk]

end

/-! ## Commands of an INST -/

section
variable {b c : Block} {i n : Nat} {ws : List Nat} {squash : Bool}

theorem Block.instConfig_range (hi : 256 ≤ i) : b.instConfig i = (2, b) := if_pos hi
theorem Block.instShare_range (hi : 256 ≤ i) : b.instShare i = (2, b) := if_pos hi
theorem Block.instReset_range (hi : 256 ≤ i) : b.instReset i squash = (2, b) := if_pos hi
theorem Block.logConfig_range (hi : 256 ≤ i) : b.logConfig i = (2, b) := if_pos hi
theorem Block.logSwap_range (hi : 256 ≤ i) : b.logSwap i = (2, b) := if_pos hi
theorem Block.logStop_range (hi : 256 ≤ i) : b.logStop i = (2, b) := if_pos hi
theorem Block.clrErr_range (hi : 256 ≤ i) : b.clrErr i = (2, b) := if_pos hi

variable (hi : i < 256)
include hi

theorem Block.instConfig_reserved (hdata : 2 ≤ b.mdata 0) : b.instConfig i = (1, b) := by
  unfold Block.instConfig
  exact (if_neg (Nat.not_le.mpr hi)).trans (if_pos (by omega))

/-- Only a disabled INST can be activated. -/
theorem Block.instConfig_busy (hdata : b.mdata 0 = 1) (hst : b.instSt i ≠ 0) : b.instConfig i = (7, b) := by
  unfold Block.instConfig
  refine (if_neg (Nat.not_le.mpr hi)).trans ?_
  rw [hdata]
  generalize b.instSt i = n at hst ⊢
  obtain _ | _ | n := n
  · exact absurd rfl hst
  · rfl
  · rfl

/-- An INST that drains or is squashed is not disabled. -/
theorem Block.instConfig_leaving (hdata : b.mdata 0 = 0) (hst : 1 < b.instSt i) : b.instConfig i = (7, b) := by
  unfold Block.instConfig
  refine (if_neg (Nat.not_le.mpr hi)).trans ?_
  rw [hdata]
  generalize b.instSt i = n at hst ⊢
  obtain _ | _ | n := n
  · omega
  · omega
  · rfl

theorem Block.instConfig_activates (hdata : b.mdata 0 = 1) (hst : b.instSt i = 0) : b.instConfig i = (0, b.put SLC_ISTAT_STATE 1 i) := by
  unfold Block.instConfig
  refine (if_neg (Nat.not_le.mpr hi)).trans ?_
  rw [hdata, hst]
  rfl

theorem Block.instConfig_keeps (hdata : b.mdata 0 = 0) (hst : b.instSt i = 0) : b.instConfig i = (0, b) := by
  unfold Block.instConfig
  refine (if_neg (Nat.not_le.mpr hi)).trans ?_
  rw [hdata, hst]
  rfl

theorem Block.instConfig_disables (hdata : b.mdata 0 = 0) (hst : b.instSt i = 1) : b.instConfig i = (0, b.put SLC_ISTAT_STATE 0 i) := by
  unfold Block.instConfig
  refine (if_neg (Nat.not_le.mpr hi)).trans ?_
  rw [hdata, hst]
  rfl

theorem Block.instShare_reserved (hdata : 2048 ≤ b.mdata 0) : b.instShare i = (1, b) := by
  unfold Block.instShare
  exact (if_neg (Nat.not_le.mpr hi)).trans (if_pos (by omega))

omit hi in
theorem bits_share (hn : n < 2048) : bits n 0 10 = n := by
  unfold bits
  omega

theorem Block.instShare_over (hdata : b.mdata 0 < 2048) (hsum : 1024 < b.shareSum i (b.mdata 0)) : b.instShare i = (6, b) := by
  unfold Block.instShare
  refine (if_neg (Nat.not_le.mpr hi)).trans ?_
  refine (if_neg (by omega)).trans ?_
  rw [bits_share hdata]
  exact if_pos hsum

theorem Block.instShare_kept (hdata : b.mdata 0 < 2048) (hsum : b.shareSum i (b.mdata 0) ≤ 1024) :
    b.instShare i = (0, (b.modInst i fun t => { t with newShare := some (b.mdata 0) }).put SLC_ISTAT_SHAREPEND 1 i) := by
  unfold Block.instShare
  refine (if_neg (Nat.not_le.mpr hi)).trans ?_
  refine (if_neg (by omega)).trans ?_
  rw [bits_share hdata]
  exact if_neg (Nat.not_lt.mpr hsum)

theorem Block.instReset_idle (hactive : b.instSt i ≠ 1) (hdrain : squash = true → b.instSt i ≠ 2) : b.instReset i squash = (7, b) := by
  unfold Block.instReset
  refine (if_neg (Nat.not_le.mpr hi)).trans (if_neg ?_)
  rw [Bool.or_eq_true, Bool.and_eq_true, decide_eq_true_eq, decide_eq_true_eq]
  rintro (h | ⟨h, h'⟩)
  · exact hactive h
  · exact hdrain h h'

theorem Block.instReset_drains (hst : b.instSt i = 1) : b.instReset i false = (0, b.put SLC_ISTAT_STATE 2 i) := by
  unfold Block.instReset
  refine (if_neg (Nat.not_le.mpr hi)).trans ?_
  refine (if_pos (by rw [hst]; rfl)).trans ?_
  unfold Block.resetInst
  rw [if_neg (by rw [hst]; decide)]
  rfl

theorem Block.instReset_squashes (hst : b.instSt i = 1 ∨ b.instSt i = 2) :
    b.instReset i true = (0, (b.put SLC_ISTAT_STATE 3 i).squashInst i) := by
  unfold Block.instReset
  refine (if_neg (Nat.not_le.mpr hi)).trans ?_
  refine (if_pos (by obtain hst | hst := hst <;> rw [hst] <;> rfl)).trans ?_
  unfold Block.resetInst
  rw [if_neg (by obtain hst | hst := hst <;> rw [hst] <;> decide)]
  rfl

theorem Block.logConfig_leaving (hst : b.instSt i = 2 ∨ b.instSt i = 3) : b.logConfig i = (7, b) := by
  unfold Block.logConfig
  refine (if_neg (Nat.not_le.mpr hi)).trans (if_pos ?_)
  rw [Bool.or_eq_true, decide_eq_true_eq, decide_eq_true_eq]
  exact hst

omit hi in
theorem not_leaving {st : Nat} (hst : ¬ (st = 2 ∨ st = 3)) : ¬ (decide (st = iDraining) || decide (st = iSquashing)) = true := by
  rw [Bool.or_eq_true, decide_eq_true_eq, decide_eq_true_eq]
  exact hst

theorem Block.logConfig_invalid (hst : ¬ (b.instSt i = 2 ∨ b.instSt i = 3)) (hdata : b.mdata 3 % 512 ≠ 0) : b.logConfig i = (8, b) := by
  unfold Block.logConfig
  refine (if_neg (Nat.not_le.mpr hi)).trans ?_
  exact (if_neg (not_leaving hst)).trans (if_pos hdata)

theorem Block.logConfig_starts (hst : ¬ (b.instSt i = 2 ∨ b.instSt i = 3)) (hdata : b.mdata 3 % 512 = 0) :
    b.logConfig i = (0, (b.modInst i fun t =>
      { t with logMap := (b.mdata 0, b.mdata 1), logBase := b.mdata 2, logPages := b.mdata 3, logCur := 0 }).put SLC_ISTAT_LOGON 1 i) := by
  unfold Block.logConfig
  refine (if_neg (Nat.not_le.mpr hi)).trans ?_
  exact (if_neg (not_leaving hst)).trans (if_neg (not_not_intro hdata))

theorem Block.logSwap_off (hlog : b.isSet SLC_ISTAT_LOGON i = false) : b.logSwap i = (7, b) := by
  unfold Block.logSwap
  exact (if_neg (Nat.not_le.mpr hi)).trans (if_pos (congrArg not hlog))

theorem Block.logSwap_asks (hlog : b.isSet SLC_ISTAT_LOGON i = true) : b.logSwap i = (0, b.put SLC_ISTAT_LOGSWAP 1 i) := by
  unfold Block.logSwap
  exact (if_neg (Nat.not_le.mpr hi)).trans (if_neg fun h => Bool.noConfusion ((congrArg not hlog).symm.trans h))

end

/-! ## Queue contexts -/

section
variable {b c : Block} {arg : Nat} {ws : List Nat}

theorem Block.qctxWrite_range (harg : 2048 ≤ arg) : b.qctxWrite arg = (1, b) := by
  unfold Block.qctxWrite
  exact if_pos (by omega)

theorem Block.qctxRead_range (harg : 2048 ≤ arg) : b.qctxRead arg = (1, b) := by
  unfold Block.qctxRead
  exact if_pos (by omega)

variable (harg : arg < 2048)
include harg

theorem Block.qctxWrite_leaving (hst : b.instSt (arg % 256) = 2 ∨ b.instSt (arg % 256) = 3) : b.qctxWrite arg = (7, b) := by
  unfold Block.qctxWrite
  refine (if_neg (by omega)).trans (if_pos ?_)
  rw [Bool.or_eq_true, decide_eq_true_eq, decide_eq_true_eq]
  exact hst

theorem Block.qctxWrite_invalid (hst : ¬ (b.instSt (arg % 256) = 2 ∨ b.instSt (arg % 256) = 3))
    (hvalid : qctxValid (b.mdataWords.take 4 ++ [0, 0, 0, 0]) = false) : b.qctxWrite arg = (8, b) := by
  unfold Block.qctxWrite
  refine (if_neg (by omega)).trans ?_
  exact (if_neg (not_leaving hst)).trans (if_pos (congrArg not hvalid))

theorem Block.qctxRead_unread (hctx : b.getCtx (arg % 256) (arg / 256) = (none, c)) : b.qctxRead arg = (5, c) := by
  unfold Block.qctxRead
  refine (if_neg (by omega)).trans ?_
  rw [hctx]

theorem Block.qctxRead_found (hctx : b.getCtx (arg % 256) (arg / 256) = (some ws, c)) :
    b.qctxRead arg = (0, c.setMdata (ws.take 4 ++ c.mdataWords.drop 4)) := by
  unfold Block.qctxRead
  refine (if_neg (by omega)).trans ?_
  rw [hctx]

end

/-- Settles O31: the word gives operation and argument, and each operation ends at the first check that fails. -/
theorem sluiceManager : Obligations.SluiceManager := by
  unfold Obligations.SluiceManager
  refine ⟨?_, ?_, ?_, ?_, ?_, ?_, ?_, ?_, ?_, ?_, ?_, ?_, ?_, ?_, ?_, ?_, ?_, ?_, ?_, ?_, ?_, ?_, ?_, ?_, ?_, ?_, ?_, ?_, ?_, ?_, ?_, ?_, ?_, ?_, ?_, ?_, ?_, ?_, ?_, ?_, ?_, ?_, ?_, ?_, ?_, ?_, ?_, ?_, ?_, ?_, ?_, ?_, ?_, ?_, ?_, ?_, ?_⟩
  -- `flowInsert`
  · intro s mid part arg b hon hmanager
    refine (onBlk_next hon ?_ : execFlowInsert mid part arg s = _)
    exact if_pos (by simp [hmanager])
  -- `flowDelete`
  · intro s mid part arg b hon hmanager
    refine (onBlk_next hon ?_ : execFlowDelete mid part arg s = _)
    exact if_pos (by simp [hmanager])
  -- `flowModify`
  · intro s mid part arg b hon hmanager
    refine (onBlk_next hon ?_ : execFlowModify mid part arg s = _)
    exact if_pos (by simp [hmanager])
  -- `flowRead`
  · intro s mid part arg b hon hmanager
    refine (onBlk_next hon ?_ : execFlowRead mid part arg s = _)
    exact if_pos (by simp [hmanager])
  -- `flowLookup`
  · intro s mid part arg b hon hmanager
    refine (onBlk_next hon ?_ : execFlowLookup mid part arg s = _)
    exact if_pos (by simp [hmanager])
  -- `instConfig`
  · intro s mid part arg b hon hmanager
    refine (onBlk_next hon ?_ : execInstConfig mid part arg s = _)
    exact if_pos (by simp [hmanager])
  -- `qctxWrite`
  · intro s mid part arg b hon hmanager
    refine (onBlk_next hon ?_ : execQctxWrite mid part arg s = _)
    exact if_pos (by simp [hmanager])
  -- `qctxRead`
  · intro s mid part arg b hon hmanager
    refine (onBlk_next hon ?_ : execQctxRead mid part arg s = _)
    exact if_pos (by simp [hmanager])
  -- `instShare`
  · intro s mid part arg b hon hmanager
    refine (onBlk_next hon ?_ : execInstShare mid part arg s = _)
    exact if_pos (by simp [hmanager])
  -- `instResetDrain`
  · intro s mid part arg b hon hmanager
    refine (onBlk_next hon ?_ : execInstResetDrain mid part arg s = _)
    exact if_pos (by simp [hmanager])
  -- `instResetSquash`
  · intro s mid part arg b hon hmanager
    refine (onBlk_next hon ?_ : execInstResetSquash mid part arg s = _)
    exact if_pos (by simp [hmanager])
  -- `logConfig`
  · intro s mid part arg b hon hmanager
    refine (onBlk_next hon ?_ : execLogConfig mid part arg s = _)
    exact if_pos (by simp [hmanager])
  -- `logSwap`
  · intro s mid part arg b hon hmanager
    refine (onBlk_next hon ?_ : execLogSwap mid part arg s = _)
    exact if_pos (by simp [hmanager])
  -- `logStop`
  · intro s mid part arg b hon hmanager
    refine (onBlk_next hon ?_ : execLogStop mid part arg s = _)
    exact if_pos (by simp [hmanager])
  -- `instClrerr`
  · intro s mid part arg b hon hmanager
    refine (onBlk_next hon ?_ : execInstClrerr mid part arg s = _)
    exact if_pos (by simp [hmanager])
  -- `flowInsert`
  · intro s mid part arg b a ws h hon hmanager hflowFixed
    refine (onBlk_next hon (Block.managerWord_answered (b := b) (op := 0x1) (e := 3) hmanager (by decide) ?_) : execFlowInsert mid part arg s = _)
    exact Block.flowInsert_fixed (b := b) hflowFixed
  · intro s mid part arg b a ws h hon hmanager hflowFixed hctxValid
    refine (onBlk_next hon (Block.managerWord_answered (b := b) (op := 0x1) (e := 8) hmanager (by decide) ?_) : execFlowInsert mid part arg s = _)
    exact Block.flowInsert_invalid (b := b) hflowFixed hctxValid
  · intro s mid part arg b a ws h hon hmanager hflowFixed hctxValid hflowByKey
    refine (onBlk_next hon (Block.managerWord_answered (b := b) (op := 0x1) (e := 4) hmanager (by decide) ?_) : execFlowInsert mid part arg s = _)
    exact Block.flowInsert_known (b := b) hflowFixed hctxValid hflowByKey
  · intro s mid part arg b a ws h r c q d hon hmanager hflowFixed hctxValid hflowByKey htoOption
    refine (onBlk_next hon (Block.managerWord_answered (b := b) (op := 0x1) (e := 2) hmanager (by decide) ?_) : execFlowInsert mid part arg s = _)
    exact Block.flowInsert_unread (b := b) (c := c) hflowFixed hctxValid hflowByKey (Block.flowRead_error (b := b) htoOption)
  · intro s mid part arg b a ws h r c q d hon hmanager hflowFixed hctxValid hflowByKey htoOption htoOption2
    obtain ⟨u, hu⟩ := Option.ne_none_iff_exists'.mp htoOption
    refine (onBlk_next hon (Block.managerWord_answered (b := b) (op := 0x1) (e := 2) hmanager (by decide) ?_) : execFlowInsert mid part arg s = _)
    exact Block.flowInsert_unread_second (d := d) (b := b) (c := c) hflowFixed hctxValid hflowByKey (Block.flowRead_ok (b := b) hu) (Block.flowRead_error (b := c) htoOption2)
  · intro s mid part arg u v b a ws h r c q d hon hmanager hflowFixed hctxValid hflowByKey htoOption htoOption2 hctxOf
    refine (onBlk_next hon (Block.managerWord_answered (b := b) (op := 0x1) (e := 4) hmanager (by decide) ?_) : execFlowInsert mid part arg s = _)
    exact Block.flowInsert_tagged (d := d) (b := b) (c := c) hflowFixed hctxValid hflowByKey (Block.flowRead_ok (b := b) htoOption) (Block.flowRead_ok (b := c) htoOption2) hctxOf
  · intro s mid part arg u v b a ws h r c q d hon hmanager hflowFixed hctxValid hflowByKey htoOption htoOption2 hctxOf hctxOf2
    refine (onBlk_next hon (Block.managerWord_answered (b := b) (op := 0x1) (e := 4) hmanager (by decide) ?_) : execFlowInsert mid part arg s = _)
    exact Block.flowInsert_full (d := d) (b := b) (c := c) hflowFixed hctxValid hflowByKey (Block.flowRead_ok (b := b) htoOption) (Block.flowRead_ok (b := c) htoOption2) hctxOf hctxOf2
  -- `flowDelete`
  · intro s mid part arg b a n hon hmanager hcond
    refine (onBlk_next hon (Block.managerWord_answered (b := b) (op := 0x2) (e := 5) hmanager (by decide) ?_) : execFlowDelete mid part arg s = _)
    exact Block.flowDelete_unread (b := b) (c := n.2) (Prod.ext hcond rfl)
  · intro s mid part arg ws b a n hon hmanager hws hfKtype
    refine (onBlk_next hon (Block.managerWord_answered (b := b) (op := 0x2) (e := 5) hmanager (by decide) ?_) : execFlowDelete mid part arg s = _)
    exact Block.flowDelete_absent (b := b) (c := n.2) (Prod.ext hws rfl) hfKtype
  -- `flowModify`
  · intro s mid part arg b a n hon hmanager hcond
    refine (onBlk_next hon (Block.managerWord_answered (b := b) (op := 0x3) (e := 5) hmanager (by decide) ?_) : execFlowModify mid part arg s = _)
    exact Block.flowModify_unread (b := b) (c := n.2) (Prod.ext hcond rfl)
  · intro s mid part arg ws b a n hon hmanager hws hfKtype
    refine (onBlk_next hon (Block.managerWord_answered (b := b) (op := 0x3) (e := 5) hmanager (by decide) ?_) : execFlowModify mid part arg s = _)
    exact Block.flowModify_absent (b := b) (c := n.2) (Prod.ext hws rfl) hfKtype
  -- `flowRead`
  · intro s mid part arg b a n hon hmanager hcond
    refine (onBlk_next hon (Block.managerWord_answered (b := b) (op := 0x4) (e := 5) hmanager (by decide) ?_) : execFlowRead mid part arg s = _)
    exact Block.flowReadCmd_unread (b := b) (c := n.2) (Prod.ext hcond rfl)
  · intro s mid part arg ws b a n hon hmanager hws hfKtype
    refine (onBlk_next hon (Block.managerWord_answered (b := b) (op := 0x4) (e := 5) hmanager (by decide) ?_) : execFlowRead mid part arg s = _)
    exact Block.flowReadCmd_absent (b := b) (c := n.2) (Prod.ext hws rfl) hfKtype
  -- `flowDelete`
  · intro s mid part arg ws b a n hon hmanager hws hfKtype hflowFixed
    refine (onBlk_next hon (Block.managerWord_answered (b := b) (op := 0x2) (e := 3) hmanager (by decide) ?_) : execFlowDelete mid part arg s = _)
    exact Block.flowDelete_fixed (b := b) (c := n.2) (Prod.ext hws rfl) hfKtype hflowFixed
  -- `flowModify`
  · intro s mid part arg ws b a n new hon hmanager hws hfKtype hflowFixed
    refine (onBlk_next hon (Block.managerWord_answered (b := b) (op := 0x3) (e := 3) hmanager (by decide) ?_) : execFlowModify mid part arg s = _)
    exact Block.flowModify_fixed (b := b) (c := n.2) (Prod.ext hws rfl) hfKtype hflowFixed
  · intro s mid part arg ws b a n new hon hmanager hws hfKtype hflowFixed hctxValid
    refine (onBlk_next hon (Block.managerWord_answered (b := b) (op := 0x3) (e := 8) hmanager (by decide) ?_) : execFlowModify mid part arg s = _)
    exact Block.flowModify_invalid (b := b) (c := n.2) (Prod.ext hws rfl) hfKtype hflowFixed hctxValid
  -- `flowLookup`
  · intro s mid part arg b a hon hmanager hcond
    refine (onBlk_next hon (Block.managerWord_answered (b := b) (op := 0x5) (e := 1) hmanager (by decide) ?_) : execFlowLookup mid part arg s = _)
    exact if_pos hcond
  · intro s mid part arg b a key w hon hmanager hcond hflowByKey htoOption
    refine (onBlk_next hon (Block.managerWord_answered (b := b) (op := 0x5) (e := 5) hmanager (by decide) ?_) : execFlowLookup mid part arg s = _)
    exact (if_neg (not_not_intro hcond)).trans (Block.flowLookup_absent (b := b) (c := w.2) hflowByKey (Prod.ext (Except.eq_ok_of_toOption htoOption) rfl))
  · intro s mid part arg x0 b a key w hon hmanager hcond hflowByKey hmatch
    have hw : w.1 = .error x0 := by
      cases hx : w.1 with
      | error x => rw [hx] at hmatch; exact congrArg Except.error (of_decide_eq_true hmatch)
      | ok v => rw [hx] at hmatch; cases hmatch
    refine (onBlk_next hon (Block.managerWord_answered (b := b) (op := 0x5) (e := 5) hmanager (by decide) ?_) : execFlowLookup mid part arg s = _)
    exact (if_neg (not_not_intro hcond)).trans (Block.flowLookup_unread (b := b) (c := w.2) hflowByKey (Prod.ext hw rfl))
  -- `instConfig`
  · intro s mid part arg b a hon hmanager hcond
    refine (onBlk_next hon (Block.managerWord_answered (b := b) (op := 0x10) (e := 2) hmanager (by decide) ?_) : execInstConfig mid part arg s = _)
    exact Block.instConfig_range (b := b) hcond
  -- `instShare`
  · intro s mid part arg b a hon hmanager hcond
    refine (onBlk_next hon (Block.managerWord_answered (b := b) (op := 0x13) (e := 2) hmanager (by decide) ?_) : execInstShare mid part arg s = _)
    exact Block.instShare_range (b := b) hcond
  -- `instResetDrain`
  · intro s mid part arg b a hon hmanager hcond
    refine (onBlk_next hon (Block.managerWord_answered (b := b) (op := 0x14) (e := 2) hmanager (by decide) ?_) : execInstResetDrain mid part arg s = _)
    exact Block.instReset_range (b := b) hcond
  -- `instResetSquash`
  · intro s mid part arg b a hon hmanager hcond
    refine (onBlk_next hon (Block.managerWord_answered (b := b) (op := 0x15) (e := 2) hmanager (by decide) ?_) : execInstResetSquash mid part arg s = _)
    exact Block.instReset_range (b := b) hcond
  -- `logConfig`
  · intro s mid part arg b a hon hmanager hcond
    refine (onBlk_next hon (Block.managerWord_answered (b := b) (op := 0x16) (e := 2) hmanager (by decide) ?_) : execLogConfig mid part arg s = _)
    exact Block.logConfig_range (b := b) hcond
  -- `logSwap`
  · intro s mid part arg b a hon hmanager hcond
    refine (onBlk_next hon (Block.managerWord_answered (b := b) (op := 0x17) (e := 2) hmanager (by decide) ?_) : execLogSwap mid part arg s = _)
    exact Block.logSwap_range (b := b) hcond
  -- `logStop`
  · intro s mid part arg b a hon hmanager hcond
    refine (onBlk_next hon (Block.managerWord_answered (b := b) (op := 0x18) (e := 2) hmanager (by decide) ?_) : execLogStop mid part arg s = _)
    exact Block.logStop_range (b := b) hcond
  -- `instClrerr`
  · intro s mid part arg b a hon hmanager hcond
    refine (onBlk_next hon (Block.managerWord_answered (b := b) (op := 0x19) (e := 2) hmanager (by decide) ?_) : execInstClrerr mid part arg s = _)
    exact Block.clrErr_range (b := b) hcond
  -- `instConfig`
  · intro s mid part arg b a hon hmanager hcond hmdata
    refine (onBlk_next hon (Block.managerWord_answered (b := b) (op := 0x10) (e := 1) hmanager (by decide) ?_) : execInstConfig mid part arg s = _)
    exact Block.instConfig_reserved (b := b) hcond hmdata
  · intro s mid part arg b a hon hmanager hcond hmdata hinstSt
    refine (onBlk_next hon (Block.managerWord_answered (b := b) (op := 0x10) (e := 7) hmanager (by decide) ?_) : execInstConfig mid part arg s = _)
    exact Block.instConfig_busy (b := b) hcond hmdata hinstSt
  · intro s mid part arg b a hon hmanager hcond hmdata hinstSt
    refine (onBlk_next hon (Block.managerWord_answered (b := b) (op := 0x10) (e := 7) hmanager (by decide) ?_) : execInstConfig mid part arg s = _)
    exact Block.instConfig_leaving (b := b) hcond hmdata hinstSt
  -- `qctxWrite`
  · intro s mid part arg b a hon hmanager hcond
    refine (onBlk_next hon (Block.managerWord_answered (b := b) (op := 0x11) (e := 1) hmanager (by decide) ?_) : execQctxWrite mid part arg s = _)
    exact Block.qctxWrite_range (b := b) hcond
  · intro s mid part arg b a hon hmanager hcond hinstSt
    refine (onBlk_next hon (Block.managerWord_answered (b := b) (op := 0x11) (e := 7) hmanager (by decide) ?_) : execQctxWrite mid part arg s = _)
    exact Block.qctxWrite_leaving (b := b) hcond hinstSt
  · intro s mid part arg b a ws hon hmanager hcond hinstSt hqctxValid
    refine (onBlk_next hon (Block.managerWord_answered (b := b) (op := 0x11) (e := 8) hmanager (by decide) ?_) : execQctxWrite mid part arg s = _)
    exact Block.qctxWrite_invalid (b := b) hcond hinstSt hqctxValid
  -- `qctxRead`
  · intro s mid part arg b a hon hmanager hcond
    refine (onBlk_next hon (Block.managerWord_answered (b := b) (op := 0x12) (e := 1) hmanager (by decide) ?_) : execQctxRead mid part arg s = _)
    exact Block.qctxRead_range (b := b) hcond
  · intro s mid part arg b a g hon hmanager hcond hcond2
    refine (onBlk_next hon (Block.managerWord_answered (b := b) (op := 0x12) (e := 5) hmanager (by decide) ?_) : execQctxRead mid part arg s = _)
    exact Block.qctxRead_unread (b := b) (c := g.2) hcond (Prod.ext hcond2 rfl)
  -- `instShare`
  · intro s mid part arg b a hon hmanager hcond hmdata
    refine (onBlk_next hon (Block.managerWord_answered (b := b) (op := 0x13) (e := 1) hmanager (by decide) ?_) : execInstShare mid part arg s = _)
    exact Block.instShare_reserved (b := b) hcond hmdata
  · intro s mid part arg b a hon hmanager hcond hmdata hshareSum
    refine (onBlk_next hon (Block.managerWord_answered (b := b) (op := 0x13) (e := 6) hmanager (by decide) ?_) : execInstShare mid part arg s = _)
    exact Block.instShare_over (b := b) hcond hmdata hshareSum
  -- `instResetDrain`
  · intro s mid part arg b a hon hmanager hcond hinstSt
    refine (onBlk_next hon (Block.managerWord_answered (b := b) (op := 0x14) (e := 7) hmanager (by decide) ?_) : execInstResetDrain mid part arg s = _)
    exact Block.instReset_idle (b := b) hcond hinstSt fun h => Bool.noConfusion h
  -- `instResetSquash`
  · intro s mid part arg b a hon hmanager hcond hinstSt hinstSt2
    refine (onBlk_next hon (Block.managerWord_answered (b := b) (op := 0x15) (e := 7) hmanager (by decide) ?_) : execInstResetSquash mid part arg s = _)
    exact Block.instReset_idle (b := b) hcond hinstSt fun _ => hinstSt2
  -- `logConfig`
  · intro s mid part arg b a hon hmanager hcond hinstSt
    refine (onBlk_next hon (Block.managerWord_answered (b := b) (op := 0x16) (e := 7) hmanager (by decide) ?_) : execLogConfig mid part arg s = _)
    exact Block.logConfig_leaving (b := b) hcond hinstSt
  · intro s mid part arg b a hon hmanager hcond hinstSt hmdata
    refine (onBlk_next hon (Block.managerWord_answered (b := b) (op := 0x16) (e := 8) hmanager (by decide) ?_) : execLogConfig mid part arg s = _)
    exact Block.logConfig_invalid (b := b) hcond hinstSt hmdata
  -- `logSwap`
  · intro s mid part arg b a hon hmanager hcond hlogon
    refine (onBlk_next hon (Block.managerWord_answered (b := b) (op := 0x17) (e := 7) hmanager (by decide) ?_) : execLogSwap mid part arg s = _)
    exact Block.logSwap_off (b := b) hcond hlogon

end Sys2Proof.Machine
end

section
/-! PROOFS. What an access to memory leaves alone: the sluice's clock of uses, and the number of the turn. -/

namespace Sys2Proof.Machine

/-- What no access to memory changes of the sluice's clock of uses and of the turn. -/
def Block.core (b : Block) : Nat × Nat := (b.slc.uses, b.turn)

/-! ## Registers -/

theorem core_setR (r : Reg) (v i j k : Nat) (b : Block) (h : r.addr i j k ≠ Reg.addr .TRN_NUM 0 0 0) : (b.setR r v i j k).core = b.core :=
  Prod.ext rfl (congrArg (fun x => bits x _ _) (Block.getR_setR_ne b h.symm v))

theorem core_put (f : Fld) (v i j k : Nat) (b : Block) (h : f.reg.addr i j k ≠ Reg.addr .TRN_NUM 0 0 0) : (b.put f v i j k).core = b.core :=
  core_setR _ _ _ _ _ _ h

theorem addr_above {r : Reg} (h : Reg.addr .TRN_NUM 0 0 0 < r.desc.base) (i j k : Nat) : r.addr i j k ≠ Reg.addr .TRN_NUM 0 0 0 := by
  refine Nat.ne_of_gt (Nat.lt_of_lt_of_le h ?_)
  unfold Reg.addr
  rw [Nat.add_assoc, Nat.add_assoc]
  exact Nat.le_add_right ..

/-- A register that lies above the turn number. -/
theorem core_put_above (f : Fld) (v i j k : Nat) (b : Block) (h : Reg.addr .TRN_NUM 0 0 0 < f.reg.desc.base) : (b.put f v i j k).core = b.core :=
  core_put _ _ _ _ _ _ (addr_above h i j k)

theorem core_inc_above (f : Fld) (i j k : Nat) (b : Block) (h : Reg.addr .TRN_NUM 0 0 0 < f.reg.desc.base) : (b.inc f i j k).core = b.core :=
  core_put_above _ _ _ _ _ _ h

theorem core_inc_lines (n : Nat) (b : Block) : (b.inc L3_MNT_COUNT_LINES n).core = b.core := by
  refine core_put _ _ _ _ _ _ ?_
  simp only [L3_MNT_COUNT_LINES, Reg.addr, Reg.desc]
  omega

theorem core_inc_lockmiss (n : Nat) (b : Block) : (b.inc L3_MNT_LOCKMISS_LOCKMISS n).core = b.core := by
  refine core_put _ _ _ _ _ _ ?_
  simp only [L3_MNT_LOCKMISS_LOCKMISS, Reg.addr, Reg.desc]
  omega

theorem core_put_next (v : Nat) (b : Block) : (b.put GOV_FLOGIDX_NEXT v).core = b.core := core_put _ _ _ _ _ _ (by decide)

theorem core_inc_wraps (b : Block) : (b.inc GOV_FLOGIDX_WRAPS).core = b.core := core_put _ _ _ _ _ _ (by decide)

theorem core_setR_over (v i : Nat) (b : Block) : (b.setR .MC_RSVOVER v i).core = b.core := core_setR _ _ _ _ _ _ (addr_above (by decide) i 0 0)

theorem core_put_HOM_STATUS_OPEN (v i : Nat) (b : Block) : (b.put HOM_STATUS_OPEN v i).core = b.core := core_put_above _ _ _ _ _ _ (by decide)

theorem core_put_MC_ELOGCNT_COUNT (v i : Nat) (b : Block) : (b.put MC_ELOGCNT_COUNT v i).core = b.core := core_put_above _ _ _ _ _ _ (by decide)

theorem core_put_MC_ELOGCNT_OVF (v i : Nat) (b : Block) : (b.put MC_ELOGCNT_OVF v i).core = b.core := core_put_above _ _ _ _ _ _ (by decide)

theorem core_put_MC_STATUS_MERGEUSE (v i : Nat) (b : Block) : (b.put MC_STATUS_MERGEUSE v i).core = b.core := core_put_above _ _ _ _ _ _ (by decide)

theorem core_put_SLC_ISTAT_IOTERR (v i : Nat) (b : Block) : (b.put SLC_ISTAT_IOTERR v i).core = b.core := core_put_above _ _ _ _ _ _ (by decide)

theorem core_inc_HOM_RETRY_COUNT (i : Nat) (b : Block) : (b.inc HOM_RETRY_COUNT i).core = b.core := core_inc_above _ _ _ _ _ (by decide)

theorem core_inc_MC_ECCCNT_CE (i : Nat) (b : Block) : (b.inc MC_ECCCNT_CE i).core = b.core := core_inc_above _ _ _ _ _ (by decide)

theorem core_inc_MC_ECCCNT_UE (i : Nat) (b : Block) : (b.inc MC_ECCCNT_UE i).core = b.core := core_inc_above _ _ _ _ _ (by decide)

theorem core_inc_MC_MIRCNT_MIRFIX (i : Nat) (b : Block) : (b.inc MC_MIRCNT_MIRFIX i).core = b.core := core_inc_above _ _ _ _ _ (by decide)

theorem core_inc_MC_MIRCNT_NOPOIS (i : Nat) (b : Block) : (b.inc MC_MIRCNT_NOPOIS i).core = b.core := core_inc_above _ _ _ _ _ (by decide)

/-! ## Parts of the block, and repetition -/

theorem core_with_flog (b : Block) (x) : ({ b with flog := x } : Block).core = b.core := (rfl)

theorem core_with_imsic (b : Block) (x) : ({ b with imsic := x } : Block).core = b.core := (rfl)

theorem core_with_ms (b : Block) (x) : ({ b with ms := x } : Block).core = b.core := (rfl)

theorem core_with_pci (b : Block) (x) : ({ b with pci := x } : Block).core = b.core := (rfl)

theorem core_with_pwr (b : Block) (x) : ({ b with pwr := x } : Block).core = b.core := (rfl)

theorem core_when (p : Bool) (f : Block → Block) (b : Block) (h : ∀ c, (f c).core = c.core) : (b.when p f).core = b.core :=
  Block.when_eq Block.core h p b

theorem core_forL {α : Type} (l : List α) (f : α → Block → Block) (b : Block) (h : ∀ x c, (f x c).core = c.core) : (b.forL l f).core = b.core :=
  Block.forL_eq Block.core h l b

theorem core_forN (n : Nat) (f : Nat → Block → Block) (b : Block) (h : ∀ i c, (f i c).core = c.core) : (b.forN n f).core = b.core :=
  Block.forN_eq Block.core h n b

theorem core_getD {o : Option Block} {b : Block} (h : ∀ c, o = some c → c.core = b.core) : (o.getD b).core = b.core := by
  cases o with
  | none => rfl
  | some c => exact h c rfl

/-! ## Accesses to memory -/

theorem core_emit (o : Out) (b : Block) : (Block.emit o b).core = b.core := (rfl)

theorem core_modMst (n : Nat) (f : Mst → Mst) (b : Block) : (Block.modMst n f b).core = b.core := (rfl)

theorem core_modMq (n i j : Nat) (f : MstQ → MstQ) (b : Block) : (Block.modMq n i j f b).core = b.core := (rfl)

theorem core_countFault (f : FaultSpec) (b : Block) : (Block.countFault f b).core = b.core := (rfl)

theorem core_writeEntry (f : FaultSpec) (b : Block) : (Block.writeEntry f b).core = b.core := by
  unfold Block.writeEntry
  simp [core_put_next, core_inc_wraps, core_with_flog, apply_ite Block.core]

theorem core_note (f : FaultSpec) (b : Block) : (Block.note f b).core = b.core := by
  unfold Block.note
  simp [core_countFault, core_writeEntry, core_with_flog, apply_ite Block.core]

theorem core_sendVec (f v : Nat) (b : Block) : (Block.sendVec f v b).core = b.core := by
  unfold Block.sendVec
  simp [core_emit, core_with_pci, apply_ite Block.core]

theorem core_filePend (page eiid : Nat) (b : Block) : (Block.filePend page eiid b).core = b.core := by
  unfold Block.filePend
  split <;> simp [core_with_imsic]

theorem core_sendMsi (mid addr eiid : Nat) (b : Block) : (Block.sendMsi mid addr eiid b).core = b.core := by
  unfold Block.sendMsi
  (repeat' split) <;> simp [core_emit, core_filePend, core_note, core_when]

theorem core_noteOnce (key : Nat) (f : FaultSpec) (b : Block) : (Block.noteOnce key f b).core = b.core := by
  unfold Block.noteOnce
  simp [core_countFault, core_note, core_with_flog, apply_ite Block.core]

theorem core_modCoh (f : Coh → Coh) (b : Block) : (Block.modCoh f b).core = b.core := (rfl)

theorem core_modReq (mid txid : Nat) (f : OpenReq → OpenReq) (b : Block) : (Block.modReq mid txid f b).core = b.core := (rfl)

theorem core_retryTxn (t : Txn) (b : Block) : (Block.retryTxn t b).core = b.core := by
  unfold Block.retryTxn
  simp [core_emit, core_modCoh, core_modReq, core_noteOnce, core_inc_HOM_RETRY_COUNT, apply_ite Block.core]

theorem core_unwait (t : Txn) (b : Block) : (Block.unwait t b).core = b.core := (rfl)

theorem core_setDir (line n : Nat) (st : FSt) (b : Block) : (Block.setDir line n st b).core = b.core := (rfl)

theorem core_setFilt (line n : Nat) (v : FiltEnt) (b : Block) : (Block.setFilt line n v b).core = b.core := (rfl)

theorem core_record (line n : Nat) (st : FSt) (way : Nat) (b : Block) : (Block.record line n st way b).core = b.core := by
  unfold Block.record
  split <;> simp [core_setDir, core_setFilt]

theorem core_setCopyErrs (mc loc e : Nat) (b : Block) : (Block.setCopyErrs mc loc e b).core = b.core := (rfl)

theorem core_scrubCopy (code mc loc : Nat) (b : Block) : (Block.scrubCopy code mc loc b).core = b.core := by
  unfold Block.scrubCopy
  split <;> simp [core_setCopyErrs]

theorem core_scrubLine (pa : Nat) (b : Block) : (Block.scrubLine pa b).core = b.core := by
  unfold Block.scrubLine
  split <;> simp [core_scrubCopy, core_when]

theorem core_dropTxn (line : Nat) (b : Block) : (Block.dropTxn line b).core = b.core := (rfl)

theorem core_charge (ch p units : Nat) (b : Block) : (Block.charge ch p units b).core = b.core := by
  unfold Block.charge
  split <;> simp [core_with_pwr]

theorem core_storeLine (mc loc data : Nat) (b : Block) : (Block.storeLine mc loc data b).core = b.core := (rfl)

theorem core_putRows (mc : Nat) (l : List RowCnt) (b : Block) : (Block.putRows mc l b).core = b.core := (rfl)

theorem core_tickFree (b : Block) : (Block.tickFree b).core = b.core := (rfl)

theorem core_countRow (mc key : Nat) (b : Block) : (Block.countRow mc key b).2.core = b.core := by
  unfold Block.countRow
  grind [core_putRows, core_tickFree, core_when, core_forL, core_forN]

theorem core_countRow_eq (mc key : Nat) (b : Block) {w : _} {c : Block} (h : Block.countRow mc key b = (w, c)) : c.core = b.core := by
  rw [← core_countRow mc key b, h]

theorem core_mapHarts (f : Nat → Hart → Hart) (b : Block) : (Block.mapHarts f b).core = b.core := (rfl)

theorem core_pmu (s ev : Nat) (part : Option Nat) (n : Nat) (b : Block) : (Block.pmu s ev part n b).core = b.core := by
  unfold Block.pmu
  split
  · rfl
  · split
    · rfl
    · refine Block.forN_eq_of_lt Block.core (fun k c hk => Block.when_eq Block.core (fun d => core_put _ _ _ _ _ _ ?_) _ _) b
      simp only [PMU_CNT_COUNT, Reg.addr, Reg.desc]
      omega

theorem core_backInval (n line : Nat) (b : Block) : (Block.backInval n line b).core = b.core := by
  unfold Block.backInval
  simp [core_mapHarts, core_pmu, core_forL]

theorem core_setL3 (n line : Nat) (v : L3Line) (b : Block) : (Block.setL3 n line v b).core = b.core := by
  unfold Block.setL3
  simp [core_backInval, core_modCoh, core_when]

theorem core_setCopyPoison (mc loc : Nat) (p : Bool) (b : Block) : (Block.setCopyPoison mc loc p b).core = b.core := (rfl)

theorem core_storeCopies (pa data : Nat) (poison : Bool) (b : Block) : (Block.storeCopies pa data poison b).core = b.core := by
  unfold Block.storeCopies
  simp [core_setCopyErrs, core_setCopyPoison, core_storeLine, core_when, core_forL]

theorem core_recallLine (line : Nat) (b : Block) : (Block.recallLine line b).core = b.core := by
  unfold Block.recallLine
  simp [core_record, core_setL3, core_storeCopies, core_when, core_forN]

theorem core_storeBytes (mc loc : Nat) (v : Bytes) (b : Block) : (Block.storeBytes mc loc v b).core = b.core := (rfl)

theorem core_pokeBytes (pa : Nat) (v : Bytes) (b : Block) : (Block.pokeBytes pa v b).core = b.core := by
  unfold Block.pokeBytes
  simp [core_recallLine, core_setCopyErrs, core_setCopyPoison, core_storeBytes, core_when, core_forL]

theorem core_elogEntry (mc pa kind : Nat) (mirror : Bool) (nsym mid part : Nat) (loc : Nat) (b : Block) : (Block.elogEntry mc pa kind mirror nsym mid part loc b).core = b.core := by
  unfold Block.elogEntry
  grind [→ core_countRow_eq, core_note, core_pokeBytes, core_tickFree, core_put_MC_ELOGCNT_OVF, core_put_MC_ELOGCNT_COUNT, core_with_ms, core_when, core_forL, core_forN]

theorem core_mcCorrected (mc pa loc n mid part kind : Nat) (b : Block) : (Block.mcCorrected mc pa loc n mid part kind b).core = b.core := by
  unfold Block.mcCorrected
  simp [core_elogEntry, core_noteOnce, core_inc_MC_ECCCNT_CE]

theorem core_mcUncorrectable (mc pa loc mid part kind : Nat) (b : Block) : (Block.mcUncorrectable mc pa loc mid part kind b).core = b.core := by
  unfold Block.mcUncorrectable
  simp [core_elogEntry, core_noteOnce, core_inc_MC_ECCCNT_UE]

theorem core_mergeFlush (mc : Nat) (b : Block) : (Block.mergeFlush mc b).core = b.core := by
  unfold Block.mergeFlush
  grind [core_mcCorrected, core_mcUncorrectable, core_setCopyErrs, core_setCopyPoison, core_put_MC_STATUS_MERGEUSE, core_with_ms, core_when, core_forL, core_forN]

theorem core_mergeRoom (mc : Nat) (tc3 : Bool) (b : Block) : (Block.mergeRoom mc tc3 b).core = b.core := by
  unfold Block.mergeRoom
  simp [core_mergeFlush, core_when]

theorem core_mergeInto (e : MergeEnt) (tc3 : Bool) (b : Block) : (Block.mergeInto e tc3 b).core = b.core := by
  unfold Block.mergeInto
  simp [core_mergeRoom, core_put_MC_STATUS_MERGEUSE, core_with_ms, core_when]

theorem core_mergeCheck (p : Place) (code : Nat) (tc3 : Bool) (b : Block) : (Block.mergeCheck p code tc3 b).core = b.core := by
  unfold Block.mergeCheck
  simp [core_mergeInto]

theorem core_mcWriteOne (mid part pa data : Nat) (poison tc3 : Bool) (b : Block) : (Block.mcWriteOne mid part pa data poison tc3 b).core = b.core := by
  unfold Block.mcWriteOne
  simp [core_charge, core_elogEntry, core_mergeCheck, core_note, core_setCopyErrs, core_setCopyPoison, core_storeLine, core_inc_MC_MIRCNT_NOPOIS, core_when, core_forL, apply_ite Block.core]

theorem core_mcWrite (mid part pa data : Nat) (poison tc3 : Bool) (b : Block) : (Block.mcWrite mid part pa data poison tc3 b).core = b.core := by
  unfold Block.mcWrite
  refine (core_forL _ _ _ fun m c => ?_).trans (core_mcWriteOne ..)
  exact core_mcWriteOne ..

theorem core_takeToken (mc p : Nat) (b : Block) : (Block.takeToken mc p b).core = b.core := by
  unfold Block.takeToken
  simp [core_noteOnce, core_setR_over, core_with_ms, apply_ite Block.core]

theorem core_takeTokens (part pa : Nat) (write : Bool) (b : Block) : (Block.takeTokens part pa write b).core = b.core := by
  unfold Block.takeTokens
  (repeat' split) <;> simp [core_takeToken, core_when]

theorem core_homeWrite (t : Txn) (data : Nat) (poison : Bool) (b : Block) : (Block.homeWrite t data poison b).core = b.core := by
  unfold Block.homeWrite
  simp [core_mcWrite, core_takeTokens, core_when]

theorem core_saveData (t : Txn) (b : Block) : (Block.saveData t b).core = b.core := by
  unfold Block.saveData
  split <;> simp [core_homeWrite]

theorem core_putTxn (t : Txn) (b : Block) : (Block.putTxn t b).core = b.core := (rfl)

theorem core_putChecks (mc : Nat) (l : List Nat) (b : Block) : (Block.putChecks mc l b).core = b.core := (rfl)

theorem core_cacheCheck (p : Place) (code : Nat) (b : Block) : (Block.cacheCheck p code b).core = b.core := by
  unfold Block.cacheCheck
  simp [core_putChecks, core_tickFree, apply_ite Block.core]

theorem core_mirrorFix (p : Place) (pa mid part : Nat) (b : Block) : (Block.mirrorFix p pa mid part b).2.core = b.core := by
  unfold Block.mirrorFix
  simp [core_elogEntry, core_note, core_setCopyErrs, core_storeLine, core_inc_MC_MIRCNT_MIRFIX]

theorem core_mirrorFix_eq (p : Place) (pa mid part : Nat) (b : Block) {w : _} {c : Block} (h : Block.mirrorFix p pa mid part b = (w, c)) : c.core = b.core := by
  rw [← core_mirrorFix p pa mid part b, h]

theorem core_mcRead (mid part pa : Nat) (b : Block) : (Block.mcRead mid part pa b).2.core = b.core := by
  unfold Block.mcRead
  grind [core_cacheCheck, core_charge, core_elogEntry, core_mcCorrected, core_mcUncorrectable, → core_mirrorFix_eq, core_tickFree, core_when, core_forL, core_forN]

theorem core_mcRead_eq (mid part pa : Nat) (b : Block) {w : _} {c : Block} (h : Block.mcRead mid part pa b = (w, c)) : c.core = b.core := by
  rw [← core_mcRead mid part pa b, h]

theorem core_homeRead (t : Txn) (b : Block) : (Block.homeRead t b).2.core = b.core := by
  unfold Block.homeRead
  simp [core_mcRead, core_takeTokens, core_when]

theorem core_homeRead_eq (t : Txn) (b : Block) {w : _} {c : Block} (h : Block.homeRead t b = (w, c)) : c.core = b.core := by
  rw [← core_homeRead t b, h]

theorem core_readData (t : Txn) (b : Block) : (Block.readData t b).2.core = b.core := by
  unfold Block.readData
  split <;> simp [core_homeRead]

theorem core_readData_eq (t : Txn) (b : Block) {w : _} {c : Block} (h : Block.readData t b = (w, c)) : c.core = b.core := by
  rw [← core_readData t b, h]

theorem core_reply (t : Txn) (o : Out) (b : Block) : (Block.reply t o b).core = b.core := by
  unfold Block.reply
  simp [core_emit, core_when]

theorem core_grantData (t : Txn) (st : LSt) (v : Nat × Bool) (b : Block) : (Block.grantData t st v b).core = b.core := by
  unfold Block.grantData
  (repeat' split) <;> simp [core_record, core_reply]

theorem core_saveEvicting (t : Txn) (b : Block) : (Block.saveEvicting t b).core = b.core := by
  unfold Block.saveEvicting
  simp [core_saveData, core_when]

theorem core_clearLost (line : Nat) (b : Block) : (Block.clearLost line b).core = b.core := by
  unfold Block.clearLost
  simp [core_setDir, core_setFilt, core_when, core_forN]

theorem core_recordOwn (t : Txn) (f : FSt → Option FSt) (b : Block) : (Block.recordOwn t f b).core = b.core := by
  unfold Block.recordOwn
  (repeat' split) <;> simp [core_record]

theorem core_mergeData (pa mask : Nat) (tc3 : Bool) (b : Block) : (Block.mergeData pa mask tc3 b).core = b.core := by
  unfold Block.mergeData
  simp [core_mergeInto, core_forL]

theorem core_partWrite (mid part pa data mask : Nat) (poison tc3 : Bool) (b : Block) : (Block.partWrite mid part pa data mask poison tc3 b).core = b.core := by
  unfold Block.partWrite
  simp [core_mcRead, core_mcWrite, core_mergeData]

theorem core_finishWrite (t : Txn) (b : Block) : (Block.finishWrite t b).core = b.core := by
  unfold Block.finishWrite
  split <;> simp [core_clearLost, core_homeWrite, core_partWrite, core_reply, core_takeTokens, core_when]

theorem core_finishKind (t : Txn) (b : Block) : (Block.finishKind t b).core = b.core := by
  unfold Block.finishKind
  grind [core_clearLost, core_finishWrite, core_grantData, core_homeWrite, core_modCoh, → core_readData_eq, core_recordOwn, core_reply, core_saveEvicting, core_when, core_forL, core_forN]

theorem core_tc3Done (t : Txn) (b : Block) : (Block.tc3Done t b).core = b.core := by
  unfold Block.tc3Done
  split <;> simp [core_modCoh, core_noteOnce, core_when]

theorem core_finish (t : Txn) (b : Block) : (Block.finish t b).core = b.core := by
  unfold Block.finish
  simp [core_dropTxn, core_finishKind, core_putTxn, core_record, core_saveData, core_scrubLine, core_tc3Done, core_forL, apply_ite Block.core]

theorem core_tryFinish (t : Txn) (b : Block) : (Block.tryFinish t b).core = b.core := by
  unfold Block.tryFinish
  split <;> simp [core_finish, core_putTxn]

theorem core_openTxn (t : Txn) (b : Block) : (Block.openTxn t b).core = b.core := by
  unfold Block.openTxn
  grind [core_emit, core_tryFinish, core_when, core_forL, core_forN]

theorem core_modWait (t : Txn) (f : Txn → Txn) (b : Block) : (Block.modWait t f b).core = b.core := (rfl)

theorem core_accept (t : Txn) (b : Block) : (Block.accept t b).core = b.core := by
  unfold Block.accept
  grind [core_modCoh, core_modWait, core_openTxn, core_retryTxn, core_unwait, core_when, core_forL, core_forN]

theorem core_entered (n mid addr : Nat) (part : Option Nat) (b : Block) : (Block.entered n mid addr part b).core = b.core := by
  unfold Block.entered
  simp [core_modCoh, core_pmu]

theorem core_flushOut (b : Block) : (Block.flushOut b).core = b.core := (rfl)

theorem core_dropReq (mid txid : Nat) (b : Block) : (Block.dropReq mid txid b).core = b.core := (rfl)

theorem core_syncOpen (b : Block) : (Block.syncOpen b).core = b.core := by
  unfold Block.syncOpen
  simp [core_put_HOM_STATUS_OPEN, core_forN]

theorem core_pump (n : Nat) (b : Block) : (Block.pump n b).core = b.core := by
  induction n generalizing b with
  | zero => exact core_syncOpen b
  | succ n ih =>
    unfold Block.pump
    split
    · simp only [ih, core_openTxn, core_unwait]
    · split
      · simp only [ih, core_finish]
      · split
        · simp only [ih, core_accept]
        · exact core_syncOpen b

theorem core_settle (b : Block) : (Block.settle b).core = b.core := by
  unfold Block.settle
  simp [core_pump]

theorem core_enter (t : Txn) (b : Block) : (Block.enter t b).core = b.core := by
  unfold Block.enter
  grind [core_dropReq, core_modCoh, core_note, core_reply, core_settle, core_when, core_forL, core_forN]

theorem core_arrive (kind : ReqKind) (mid part txid pa way : Nat) (tc3 : Bool) (b : Block) : (Block.arrive kind mid part txid pa way tc3 b).core = b.core := by
  unfold Block.arrive
  grind [core_enter, core_entered, core_modCoh, core_modReq, core_when, core_forL, core_forN]

theorem core_wrData (mid txid line data mask : Nat) (poison : Bool) (b : Block) (c : Block) (e : Block.wrData mid txid line data mask poison b = some c) : c.core = b.core := by
  unfold Block.wrData at e
  dsimp only at e
  split at e
  · obtain rfl := Option.some.inj e
    simp only [core_settle, core_tryFinish]
  · split at e
    · obtain rfl := Option.some.inj e
      rfl
    · cases e

theorem core_takeWrData (mid txid pa data mask : Nat) (poison : Bool) (b : Block) (c : Block) (e : Block.takeWrData mid txid pa data mask poison b = some c) : c.core = b.core := by
  obtain ⟨d, hd, rfl⟩ := Option.map_eq_some_iff.mp e
  split
  · exact (core_pmu ..).trans (core_wrData (e := hd) ..)
  · exact core_wrData (e := hd) ..

theorem core_privClean (n line : Nat) (b : Block) : (Block.privClean n line b).core = b.core := (rfl)

theorem core_snoopL3 (k : SnpKind) (n pa txid : Nat) (b : Block) : (Block.snoopL3 k n pa txid b).core = b.core := by
  unfold Block.snoopL3
  grind [core_emit, core_pmu, core_privClean, core_setL3, core_when, core_forL, core_forN]

theorem core_snpResp (n txid line : Nat) (st : LSt) (hasData evicting : Bool) (b : Block) (c : Block) (e : Block.snpResp n txid line st hasData evicting b = some c) : c.core = b.core := by
  unfold Block.snpResp at e
  split at e
  · cases e
  · rename_i t ht
    generalize (decide (t.txid ≠ txid) || !t.awaitResp.contains n || _) = refused at e
    cases refused with
    | true => cases e
    | false =>
      obtain rfl := Option.some.inj e
      simp only [core_settle, core_tryFinish, core_when, core_record, implies_true]

theorem core_snpData (n txid line data : Nat) (poison : Bool) (b : Block) (c : Block) (e : Block.snpData n txid line data poison b = some c) : c.core = b.core := by
  unfold Block.snpData at e
  split at e
  · cases e
  · split at e
    · cases e
    · split at e
      · obtain rfl := Option.some.inj e
        simp only [core_settle, core_tryFinish]
      · split at e
        · obtain rfl := Option.some.inj e
          rfl
        · cases e

theorem core_lateAnswer (mid txid : Nat) (b : Block) : (Block.lateAnswer mid txid b).core = b.core := by
  unfold Block.lateAnswer
  simp [core_dropReq, core_modCoh, core_note]

theorem core_issueFor (core : Option (Nat × Bool)) (kind : ReqKind) (mid part line way : Nat) (tc3 mnt : Bool) (b : Block) : (Block.issueFor core kind mid part line way tc3 mnt b).core = b.core := by
  unfold Block.issueFor
  split <;> simp [core_emit, core_modCoh]

theorem core_issue (kind : ReqKind) (mid part line way : Nat) (tc3 mnt : Bool) (b : Block) : (Block.issue kind mid part line way tc3 mnt b).core = b.core := by
  unfold Block.issue
  simp [core_issueFor]

theorem core_evictLine (n line part : Nat) (mnt : Bool) (b : Block) : (Block.evictLine n line part mnt b).core = b.core := by
  unfold Block.evictLine
  grind [core_emit, core_issue, core_modCoh, core_pmu, core_setL3, core_when, core_forL, core_forN]

theorem core_modSail (n : Nat) (f : Sail → Sail) (b : Block) : (Block.modSail n f b).core = b.core := (rfl)

theorem core_leave (n line : Nat) (b : Block) : (Block.leave n line b).core = b.core := by
  unfold Block.leave
  split <;> simp [core_evictLine, core_modSail]

theorem core_leaveOn (n : Nat) (b : Block) : (Block.leaveOn n b).core = b.core := by
  unfold Block.leaveOn
  simp [core_leave, core_modSail, core_pmu, core_when, core_forL]

theorem core_cleanLine (n line part : Nat) (b : Block) : (Block.cleanLine n line part b).core = b.core := by
  unfold Block.cleanLine
  simp [core_mcWrite, core_privClean, core_record, core_setL3, apply_ite Block.core]

theorem core_mntWrote (n line : Nat) (b : Block) : (Block.mntWrote n line b).core = b.core := by
  unfold Block.mntWrote
  simp [core_pmu, core_inc_lines, core_when]

theorem core_mntVisit (n : Nat) (b : Block) : (Block.mntVisit n b).core = b.core := by
  unfold Block.mntVisit
  simp [core_pmu]

theorem core_lockLoadLine (n line : Nat) (b : Block) : (Block.lockLoadLine n line b).2.core = b.core := by
  unfold Block.lockLoadLine
  grind [core_issueFor, core_record, core_setL3, core_inc_lines, core_inc_lockmiss, core_when, core_forL, core_forN]

theorem core_lockLoadLine_eq (n line : Nat) (b : Block) {w : _} {c : Block} (h : Block.lockLoadLine n line b = (w, c)) : c.core = b.core := by
  rw [← core_lockLoadLine n line b, h]

theorem core_mntLine (n line : Nat) (b : Block) : (Block.mntLine n line b).core = b.core := by
  unfold Block.mntLine
  grind [core_cleanLine, → core_lockLoadLine_eq, core_mntVisit, core_mntWrote, core_modSail, core_when, core_forL, core_forN]

theorem core_mntEvict (n : Nat) (m : List Nat) (b : Block) : (Block.mntEvict n m b).core = b.core := by
  induction m generalizing n b with
  | nil => rfl
  | cons x l ih =>
    unfold Block.mntEvict
    (repeat' split) <;> grind [core_evictLine, core_mntWrote, core_modSail, core_when, core_forL, core_forN]

theorem core_mntLoad (n limit : Nat) (m : Nat) (b : Block) : (Block.mntLoad n limit m b).core = b.core := by
  induction m generalizing n limit b with
  | zero => rfl
  | succ m ih =>
    unfold Block.mntLoad
    grind [→ core_lockLoadLine_eq, core_mntVisit, core_modSail, core_when, core_forL, core_forN]

theorem core_mntOn (n : Nat) (b : Block) : (Block.mntOn n b).core = b.core := by
  unfold Block.mntOn
  simp [core_mntEvict, core_mntLine, core_mntLoad, core_modSail, core_forL, apply_ite Block.core]

theorem core_l3On (n : Nat) (b : Block) : (Block.l3On n b).core = b.core := by
  unfold Block.l3On
  simp [core_leaveOn, core_mntOn]

theorem core_takeComp (mid txid pa : Nat) (b : Block) : (Block.takeComp mid txid pa b).core = b.core := by
  unfold Block.takeComp
  grind [core_dropReq, core_l3On, core_lateAnswer, core_leave, core_setL3, core_when, core_forL, core_forN]

theorem core_install (n line way : Nat) (st : LSt) (data : Nat) (poison : Bool) (b : Block) : (Block.install n line way st data poison b).core = b.core := by
  unfold Block.install
  simp [core_setL3]

theorem core_takeCompData (mid txid pa : Nat) (st : LSt) (data : Nat) (poison : Bool) (b : Block) : (Block.takeCompData mid txid pa st data poison b).core = b.core := by
  unfold Block.takeCompData
  grind [core_dropReq, core_install, core_l3On, core_lateAnswer, core_leave, core_pmu, core_inc_lines, core_when, core_forL, core_forN]

theorem core_takeEvictAck (n pa : Nat) (b : Block) : (Block.takeEvictAck n pa b).core = b.core := by
  unfold Block.takeEvictAck
  simp [core_l3On, core_modCoh]

theorem core_takeRetry (mid txid pa k : Nat) (b : Block) : (Block.takeRetry mid txid pa k b).core = b.core := by
  unfold Block.takeRetry
  (repeat' split) <;> simp [core_lateAnswer, core_modReq]

theorem core_deliver (o : Out) (b : Block) : (Block.deliver o b).core = b.core := by
  unfold Block.deliver
  split
  · exact core_arrive ..
  · exact core_getD fun c e => core_takeWrData (e := e) ..
  · exact core_snoopL3 ..
  · exact core_getD fun c e => core_snpResp (e := e) ..
  · exact core_getD fun c e => core_snpData (e := e) ..
  · exact core_takeComp ..
  · exact core_takeCompData ..
  · exact core_takeEvictAck ..
  · exact core_takeRetry ..
  · rfl

theorem core_markLanded (o : Out) (b : Block) : (Block.markLanded o b).core = b.core := (rfl)

theorem core_takeFlight (o : Out) (b : Block) : (Block.takeFlight o b).core = b.core := (rfl)

theorem core_landF (line : Nat) (mark : Bool) (done : Block → Bool) (n : Nat) (b : Block) : (Block.landF line mark done n b).core = b.core := by
  induction n generalizing line mark done b with
  | zero => rfl
  | succ n ih =>
    unfold Block.landF
    grind [core_deliver, core_flushOut, core_markLanded, core_takeFlight, core_when, core_forL, core_forN]

theorem core_calm (line : Nat) (b : Block) : (Block.calm line b).core = b.core := by
  unfold Block.calm
  simp [core_flushOut, core_landF]

theorem core_runWhole (t : Txn) (b : Block) : (Block.runWhole t b).2.core = b.core := by
  unfold Block.runWhole
  extract_lets b₁ k t' ours b₂ b₃ b₄ net b₅
  have h : b₅.core = b.core :=
    calc b₃.core = b₂.core := core_landF ..
      _ = (b₁.modCoh fun c => { c with got := none }).core := core_enter ..
      _ = b.core := core_calm t.line b
  split
  · exact h
  · split
    · exact h
    · split
      · exact h
      · exact (core_mcRead ..).trans h

theorem core_runWhole_eq (t : Txn) (b : Block) {w : _} {c : Block} (h : Block.runWhole t b = (w, c)) : c.core = b.core := by
  rw [← core_runWhole t b, h]

theorem core_writeLine (mid part line data mask : Nat) (poison : Bool) (b : Block) : (Block.writeLine mid part line data mask poison b).core = b.core := by
  unfold Block.writeLine
  grind [core_mcWrite, core_note, core_partWrite, → core_runWhole_eq, core_when, core_forL, core_forN]

theorem core_writeBytesF (mid part : Nat) (poison : Bool) (n : Nat) (m : Nat) (l : Bytes) (b : Block) : (Block.writeBytesF mid part poison n m l b).core = b.core := by
  induction n generalizing mid part poison m l b with
  | zero => rfl
  | succ n ih =>
    unfold Block.writeBytesF
    (repeat' split) <;> grind [core_writeLine, core_when, core_forL, core_forN]

theorem core_writeBytes (mid part pa : Nat) (v : Bytes) (b : Block) : (Block.writeBytes mid part pa v b).core = b.core := by
  unfold Block.writeBytes
  simp [core_writeBytesF]

theorem core_readLine (mid part line : Nat) (b : Block) : (Block.readLine mid part line b).2.core = b.core := by
  unfold Block.readLine
  (repeat' split) <;> simp [core_mcRead, core_note, core_runWhole]

theorem core_readLine_eq (mid part line : Nat) (b : Block) {w : _} {c : Block} (h : Block.readLine mid part line b = (w, c)) : c.core = b.core := by
  rw [← core_readLine mid part line b, h]

theorem core_readBytesF (mid part : Nat) (n : Nat) (m : Nat) (l : Nat) (b : Block) : (Block.readBytesF mid part n m l b).2.core = b.core := by
  induction n generalizing mid part m l b with
  | zero => rfl
  | succ n ih =>
    unfold Block.readBytesF
    (repeat' split) <;> grind [→ core_readLine_eq, core_when, core_forL, core_forN]

theorem core_readBytesF_eq (mid part : Nat) (n : Nat) (m : Nat) (l : Nat) (b : Block) {w : _} {c : Block} (h : Block.readBytesF mid part n m l b = (w, c)) : c.core = b.core := by
  rw [← core_readBytesF mid part n m l b, h]

theorem core_readBytes (mid part pa n : Nat) (b : Block) : (Block.readBytes mid part pa n b).2.core = b.core := by
  unfold Block.readBytes
  simp [core_readBytesF]

theorem core_readBytes_eq (mid part pa n : Nat) (b : Block) {w : _} {c : Block} (h : Block.readBytes mid part pa n b = (w, c)) : c.core = b.core := by
  rw [← core_readBytes mid part pa n b, h]

theorem core_lookup (h : Nat) (b : Block) : (Block.lookup h b).core = b.core := by
  unfold Block.lookup
  simp [core_charge, core_pmu]

theorem core_scrWrite (pa : Nat) (v : Bytes) (poison : Bool) (b : Block) : (Block.scrWrite pa v poison b).core = b.core := (rfl)

theorem core_modIot (f : Iot → Iot) (b : Block) : (Block.modIot f b).core = b.core := (rfl)

theorem core_atcAdd (e : IotAtc) (b : Block) : (Block.atcAdd e b).core = b.core := (rfl)

theorem core_modInst (i : Nat) (f : Inst → Inst) (b : Block) : (Block.modInst i f b).core = b.core := (rfl)

theorem core_modHop (e : Nat) (f : HopEnt → HopEnt) (b : Block) : (Block.modHop e f b).core = b.core := (rfl)

theorem core_iotS (off v : Nat) (b : Block) : (Block.iotS off v b).core = b.core := by
  refine Prod.ext rfl ?_
  refine congrArg (fun x => bits x _ _) (SMap.get_set_ne _ _ ?_ v b.regs)
  simp only [iotBase, TRN_NUM_NUM, Reg.addr, Reg.desc]
  omega

theorem core_iotIrq (k : Nat) (b : Block) : (Block.iotIrq k b).core = b.core := by
  unfold Block.iotIrq
  simp [core_iotS, core_sendMsi, apply_ite Block.core]

theorem core_iotEvent (ev dev : Nat) (ids : Option (Nat × Nat)) (b : Block) : (Block.iotEvent ev dev ids b).core = b.core := by
  unfold Block.iotEvent
  simp [core_iotIrq, core_iotS, core_forN, apply_ite Block.core]

theorem core_iotMem (mid part : Nat) (acc : Acc) (poison pa n : Nat) (b : Block) : (Block.iotMem mid part acc poison pa n b).2.core = b.core := by
  unfold Block.iotMem
  split
  · exact (core_note ..).trans (core_inc_above _ _ _ _ _ (by decide))
  · dsimp only
    split
    · exact (core_note ..).trans ((core_inc_above _ _ _ _ _ (by decide)).trans (core_readBytes ..))
    · exact core_readBytes ..

theorem core_iotMem_eq (mid part : Nat) (acc : Acc) (poison pa n : Nat) (b : Block) {w : _} {c : Block} (h : Block.iotMem mid part acc poison pa n b = (w, c)) : c.core = b.core := by
  rw [← core_iotMem mid part acc poison pa n b, h]

theorem core_ddtWalk (mid part dev : Nat) (acc : Acc) (n : Nat) (m : Nat) (b : Block) : (Block.ddtWalk mid part dev acc n m b).2.core = b.core := by
  induction n generalizing m b with
  | zero =>
    unfold Block.ddtWalk
    split <;> exact core_iotMem_eq _ _ _ _ _ _ _ ‹_›
  | succ n ih =>
    unfold Block.ddtWalk
    split
    · exact core_iotMem_eq _ _ _ _ _ _ _ ‹_›
    · rename_i h
      have hc := core_iotMem_eq _ _ _ _ _ _ _ h
      dsimp only
      split
      · exact hc
      · split
        · exact hc
        · exact (ih ..).trans hc

theorem core_ddtWalk_eq (mid part dev : Nat) (acc : Acc) (n : Nat) (m : Nat) (b : Block) {w : _} {c : Block} (h : Block.ddtWalk mid part dev acc n m b = (w, c)) : c.core = b.core := by
  rw [← core_ddtWalk mid part dev acc n m b, h]

theorem core_iotContext (mid part dev : Nat) (acc : Acc) (b : Block) : (Block.iotContext mid part dev acc b).2.core = b.core := by
  unfold Block.iotContext
  grind [→ core_ddtWalk_eq, core_iotEvent, core_lookup, core_modIot, core_tickFree, core_when, core_forL, core_forN]

theorem core_iotContext_eq (mid part dev : Nat) (acc : Acc) (b : Block) {w : _} {c : Block} (h : Block.iotContext mid part dev acc b = (w, c)) : c.core = b.core := by
  rw [← core_iotContext mid part dev acc b, h]

theorem core_iotWalkG (mid part : Nat) (acc : Acc) (gpa : Nat) (n : Nat) (m : Nat) (l : Bool) (b : Block) : (Block.iotWalkG mid part acc gpa n m l b).2.core = b.core := by
  induction n generalizing mid part acc gpa m l b with
  | zero => rfl
  | succ n ih =>
    unfold Block.iotWalkG
    (repeat' split) <;> grind [→ core_iotMem_eq, core_when, core_forL, core_forN]

theorem core_iotWalkG_eq (mid part : Nat) (acc : Acc) (gpa : Nat) (n : Nat) (m : Nat) (l : Bool) (b : Block) {w : _} {c : Block} (h : Block.iotWalkG mid part acc gpa n m l b = (w, c)) : c.core = b.core := by
  rw [← core_iotWalkG mid part acc gpa n m l b, h]

theorem core_iotG2 (mid part : Nat) (acc chk : Acc) (hgatp gpa dev ps : Nat) (b : Block) : (Block.iotG2 mid part acc chk hgatp gpa dev ps b).2.core = b.core := by
  unfold Block.iotG2
  grind [core_iotEvent, → core_iotWalkG_eq, core_when, core_forL, core_forN]

theorem core_iotG2_eq (mid part : Nat) (acc chk : Acc) (hgatp gpa dev ps : Nat) (b : Block) {w : _} {c : Block} (h : Block.iotG2 mid part acc chk hgatp gpa dev ps b = (w, c)) : c.core = b.core := by
  rw [← core_iotG2 mid part acc chk hgatp gpa dev ps b, h]

theorem core_iotWalkS (mid part : Nat) (acc : Acc) (hgatp iova dev ps : Nat) (n : Nat) (m : Nat) (b : Block) : (Block.iotWalkS mid part acc hgatp iova dev ps n m b).2.core = b.core := by
  induction n generalizing mid part acc hgatp iova dev ps m b with
  | zero => rfl
  | succ n ih =>
    unfold Block.iotWalkS
    (repeat' split) <;> grind [→ core_iotG2_eq, → core_iotMem_eq, core_when, core_forL, core_forN]

theorem core_iotWalkS_eq (mid part : Nat) (acc : Acc) (hgatp iova dev ps : Nat) (n : Nat) (m : Nat) (b : Block) {w : _} {c : Block} (h : Block.iotWalkS mid part acc hgatp iova dev ps n m b = (w, c)) : c.core = b.core := by
  rw [← core_iotWalkS mid part acc hgatp iova dev ps n m b, h]

theorem core_iotS1 (mid part : Nat) (acc : Acc) (fsc hgatp iova dev ps : Nat) (b : Block) : (Block.iotS1 mid part acc fsc hgatp iova dev ps b).2.core = b.core := by
  unfold Block.iotS1
  grind [core_iotEvent, → core_iotWalkS_eq, core_when, core_forL, core_forN]

theorem core_iotS1_eq (mid part : Nat) (acc : Acc) (fsc hgatp iova dev ps : Nat) (b : Block) {w : _} {c : Block} (h : Block.iotS1 mid part acc fsc hgatp iova dev ps b = (w, c)) : c.core = b.core := by
  rw [← core_iotS1 mid part acc fsc hgatp iova dev ps b, h]

theorem core_iotMsi (mid part : Nat) (acc : Acc) (dc gpn : Nat) (b : Block) : (Block.iotMsi mid part acc dc gpn b).2.core = b.core := by
  unfold Block.iotMsi
  grind [→ core_iotMem_eq, core_when, core_forL, core_forN]

theorem core_iotMsi_eq (mid part : Nat) (acc : Acc) (dc gpn : Nat) (b : Block) {w : _} {c : Block} (h : Block.iotMsi mid part acc dc gpn b = (w, c)) : c.core = b.core := by
  rw [← core_iotMsi mid part acc dc gpn b, h]

theorem core_iotLookup (dev mid part : Nat) (pasid : Option Nat) (acc : Acc) (iova : Nat) (b : Block) : (Block.iotLookup dev mid part pasid acc iova b).2.core = b.core := by
  unfold Block.iotLookup
  grind [core_atcAdd, → core_iotContext_eq, core_iotEvent, → core_iotG2_eq, → core_iotMsi_eq, → core_iotS1_eq, core_when, core_forL, core_forN]

theorem core_iotLookup_eq (dev mid part : Nat) (pasid : Option Nat) (acc : Acc) (iova : Nat) (b : Block) {w : _} {c : Block} (h : Block.iotLookup dev mid part pasid acc iova b = (w, c)) : c.core = b.core := by
  rw [← core_iotLookup dev mid part pasid acc iova b, h]

theorem core_iotFault (cause dev : Nat) (pasid : Option Nat) (ttyp iova iova2 : Nat) (b : Block) : (Block.iotFault cause dev pasid ttyp iova iova2 b).core = b.core := by
  unfold Block.iotFault
  simp [core_iotIrq, core_iotS, core_modIot, core_note, core_writeBytes, core_when, apply_ite Block.core]

theorem core_iotTranslate (dev mid part : Nat) (pasid : Option Nat) (acc : Acc) (iova : Nat) (b : Block) : (Block.iotTranslate dev mid part pasid acc iova b).2.core = b.core := by
  unfold Block.iotTranslate
  grind [core_iotFault, → core_iotLookup_eq, core_lookup, core_when, core_forL, core_forN]

theorem core_iotTranslate_eq (dev mid part : Nat) (pasid : Option Nat) (acc : Acc) (iova : Nat) (b : Block) {w : _} {c : Block} (h : Block.iotTranslate dev mid part pasid acc iova b = (w, c)) : c.core = b.core := by
  rw [← core_iotTranslate dev mid part pasid acc iova b, h]

theorem core_instFlag (f : Fld) (i : Nat) (b : Block) (h : Reg.addr .TRN_NUM 0 0 0 < f.reg.desc.base) : (Block.instFlag f i b).core = b.core := by
  unfold Block.instFlag
  refine (core_when _ _ _ fun c => core_sendVec ..).trans ?_
  exact core_put_above _ _ _ _ _ _ h

theorem core_instFlag_qerr (i : Nat) (b : Block) : (b.instFlag SLC_ISTAT_QERR i).core = b.core := core_instFlag _ _ _ (by decide)

theorem core_instFlag_logover (i : Nat) (b : Block) : (b.instFlag SLC_ISTAT_LOGOVER i).core = b.core := core_instFlag _ _ _ (by decide)

theorem core_stopQueue (i q : Nat) (io : Bool) (b : Block) : (Block.stopQueue i q io b).core = b.core := by
  unfold Block.stopQueue
  simp [core_instFlag_qerr, core_modInst, core_note, core_put_SLC_ISTAT_IOTERR, core_when]

theorem core_memWrite (mid part pa : Nat) (v : Bytes) (b : Block) : (Block.memWrite mid part pa v b).2.core = b.core := by
  unfold Block.memWrite
  (repeat' split) <;> simp [core_note, core_scrWrite, core_writeBytes]

theorem core_memWrite_eq (mid part pa : Nat) (v : Bytes) (b : Block) {w : _} {c : Block} (h : Block.memWrite mid part pa v b = (w, c)) : c.core = b.core := by
  rw [← core_memWrite mid part pa v b, h]

theorem core_logPage (i va : Nat) (b : Block) : (Block.logPage i va b).core = b.core := by
  unfold Block.logPage
  simp [core_instFlag_logover, core_note, core_readBytes, core_writeBytes, apply_ite Block.core]

theorem core_instWriteF (i : Nat) (n : Nat) (m : Nat) (l : Bytes) (b : Block) : (Block.instWriteF i n m l b).2.core = b.core := by
  induction n generalizing i m l b with
  | zero => rfl
  | succ n ih =>
    unfold Block.instWriteF
    (repeat' split) <;> grind [→ core_iotTranslate_eq, core_logPage, → core_memWrite_eq, core_when, core_forL, core_forN]

theorem core_instWriteF_eq (i : Nat) (n : Nat) (m : Nat) (l : Bytes) (b : Block) {w : _} {c : Block} (h : Block.instWriteF i n m l b = (w, c)) : c.core = b.core := by
  rw [← core_instWriteF i n m l b, h]

theorem core_instWrite (i va : Nat) (v : Bytes) (b : Block) : (Block.instWrite i va v b).2.core = b.core := by
  unfold Block.instWrite
  simp [core_instWriteF]

theorem core_instWrite_eq (i va : Nat) (v : Bytes) (b : Block) {w : _} {c : Block} (h : Block.instWrite i va v b = (w, c)) : c.core = b.core := by
  rw [← core_instWrite i va v b, h]

theorem core_hopWriteBack (e : Nat) (b : Block) : (Block.hopWriteBack e b).core = b.core := by
  unfold Block.hopWriteBack
  grind [→ core_instWrite_eq, core_modHop, core_stopQueue, core_when, core_forL, core_forN]

end Sys2Proof.Machine
end

section
/-! PROOFS. Manager commands of the sluice that succeed. -/

namespace Sys2Proof.Machine

/-! ## Deletion, and contexts written -/

section
variable {b c : Block} {i arg : Nat}

/-- The words of a queue context that QCTX_WRITE takes. -/
def Block.ctxGiven (b : Block) : List Nat := b.mdataWords.take 4 ++ [0, 0, 0, 0]

/-- The INST with the queue let run again. -/
def Block.unstopped (b : Block) (i q : Nat) : Block := b.modInst i fun t => { t with stopped := t.stopped.filter (· ≠ q) }

variable (harg : arg < 2048) (hst : ¬ (b.instSt (arg % 256) = 2 ∨ b.instSt (arg % 256) = 3)) (hvalid : qctxValid b.ctxGiven = true)
  (hc : b.unstopped (arg % 256) (arg / 256) = c)
include harg hst hvalid hc

theorem Block.qctxWrite_held (hfind : (c.hopFind (arg % 256) (arg / 256)).isSome = true) :
    b.qctxWrite arg = (0, c.putCtx (arg % 256) (arg / 256) b.ctxGiven) := by
  obtain ⟨e, he⟩ := Option.isSome_iff_exists.mp hfind
  subst hc
  unfold Block.qctxWrite
  refine (if_neg (by omega)).trans ?_
  refine (if_neg (not_leaving hst)).trans ?_
  refine (if_neg fun h => Bool.noConfusion ((congrArg not hvalid).symm.trans h)).trans ?_
  unfold Block.unstopped at he ⊢
  dsimp only
  rw [he]
  rfl

variable (hfind : c.hopFind (arg % 256) (arg / 256) = none)
include hfind

/-- With no entry to choose the context goes to memory. -/
theorem Block.qctxWrite_memory (hnone : c.hopDirect = true ∨ c.hopChoose (arg % 256) = none) :
    b.qctxWrite arg = (0, c.putCtx (arg % 256) (arg / 256) b.ctxGiven) := by
  subst hc
  unfold Block.qctxWrite
  refine (if_neg (by omega)).trans ?_
  refine (if_neg (not_leaving hst)).trans ?_
  refine (if_neg fun h => Bool.noConfusion ((congrArg not hvalid).symm.trans h)).trans ?_
  unfold Block.unstopped at hfind hnone ⊢
  dsimp only
  rw [hfind]
  obtain hdirect | hchoose := hnone
  · rw [hdirect]
    rfl
  · rw [hchoose]
    generalize Block.hopDirect _ = direct
    cases direct <;> rfl

/-- The entry chosen is written back and takes the context. -/
theorem Block.qctxWrite_chosen {e : Nat} {spill : Bool} (hdirect : c.hopDirect = false) (hchoose : c.hopChoose (arg % 256) = some (e, spill)) :
    b.qctxWrite arg = (0, ((c.hopWriteBack e).modHop e fun t =>
        { t with ctx := some (arg % 256, arg / 256), words := b.ctxGiven, dirty := true, used := (c.hopWriteBack e).slc.uses }).modSlc fun s =>
      { s with uses := s.uses + 1, spills := if spill then s.spills + 1 else s.spills }) := by
  have huses : (c.hopWriteBack e).slc.uses = c.slc.uses := congrArg Prod.fst (core_hopWriteBack e c)
  rw [huses]
  subst hc
  unfold Block.qctxWrite
  refine (if_neg (by omega)).trans ?_
  refine (if_neg (not_leaving hst)).trans ?_
  refine (if_neg fun h => Bool.noConfusion ((congrArg not hvalid).symm.trans h)).trans ?_
  unfold Block.unstopped at hfind hdirect hchoose ⊢
  dsimp only
  rw [hfind, hdirect, hchoose]
  rfl

end

/-- Settles O43: the word gives operation and argument, and each operation passes its checks. -/
theorem sluiceSuccess : Obligations.SluiceSuccess := by
  unfold Obligations.SluiceSuccess
  refine ⟨?_, ?_, ?_, ?_, ?_, ?_, ?_, ?_, ?_, ?_, ?_, ?_, ?_, ?_, ?_, ?_, ?_, ?_, ?_, ?_, ?_, ?_⟩
  -- `flowInsert`
  · intro s mid part arg u v k b a ws h r q d hon hmanager hflowFixed hctxValid hflowByKey htoOption htoOption2 hctxOf hctxOf2
    refine (onBlk_next hon (Block.managerWord_answered (b := b) (op := 0x1) (e := 0) hmanager (by decide) ?_) : execFlowInsert mid part arg s = _)
    exact Block.flowInsert_first (b := b) (c := r.2) (d := d) hflowFixed hctxValid hflowByKey (Block.flowRead_ok (b := b) htoOption) (Block.flowRead_ok (b := r.2) htoOption2) hctxOf hctxOf2
  · intro s mid part arg u v k b a ws h r q d hon hmanager hflowFixed hctxValid hflowByKey htoOption htoOption2 hctxOf hctxOf2 hctxOf3
    refine (onBlk_next hon (Block.managerWord_answered (b := b) (op := 0x1) (e := 0) hmanager (by decide) ?_) : execFlowInsert mid part arg s = _)
    exact Block.flowInsert_second (b := b) (c := r.2) (d := d) hflowFixed hctxValid hflowByKey (Block.flowRead_ok (b := b) htoOption) (Block.flowRead_ok (b := r.2) htoOption2) hctxOf hctxOf2 hctxOf3
  -- `flowDelete`
  · intro s mid part arg ws b a n h d hon hmanager hws hfKtype hflowFixed
    refine (onBlk_next hon (Block.managerWord_answered (b := b) (op := 0x2) (e := 0) hmanager (by decide) ?_) : execFlowDelete mid part arg s = _)
    refine Eq.trans (b := Block.flowDelete a b) rfl ?_
    unfold Block.flowDelete
    rw [(Prod.ext hws rfl : b.flowNow a = (some ws, n.2))]
    exact (if_neg hfKtype).trans (if_neg (ne_true_of_eq_false hflowFixed))
  -- `flowModify`
  · intro s mid part arg ws b a n new hon hmanager hws hfKtype hflowFixed hflowFixed2 hctxValid hflowByIdx
    refine (onBlk_next hon (Block.managerWord_answered (b := b) (op := 0x3) (e := 0) hmanager (by decide) ?_) : execFlowModify mid part arg s = _)
    exact Block.flowModify_cached (b := b) (c := n.2) (Prod.ext hws rfl) hfKtype (fun h => h.elim (ne_true_of_eq_false hflowFixed) (ne_true_of_eq_false hflowFixed2)) hctxValid hflowByIdx
  · intro s mid part arg ws b a n new hon hmanager hws hfKtype hflowFixed hflowFixed2 hctxValid hflowByIdx
    refine (onBlk_next hon (Block.managerWord_answered (b := b) (op := 0x3) (e := 0) hmanager (by decide) ?_) : execFlowModify mid part arg s = _)
    exact Block.flowModify_table (b := b) (c := n.2) (Prod.ext hws rfl) hfKtype (fun h => h.elim (ne_true_of_eq_false hflowFixed) (ne_true_of_eq_false hflowFixed2)) hctxValid hflowByIdx
  -- `flowRead`
  · intro s mid part arg ws b a n hon hmanager hws hfKtype
    refine (onBlk_next hon (Block.managerWord_answered (b := b) (op := 0x4) (e := 0) hmanager (by decide) ?_) : execFlowRead mid part arg s = _)
    exact Block.flowReadCmd_found (b := b) (c := n.2) (Prod.ext hws rfl) hfKtype
  -- `flowLookup`
  · intro s mid part arg e b a key hon hmanager hcond hflowByKey
    refine (onBlk_next hon (Block.managerWord_answered (b := b) (op := 0x5) (e := 0) hmanager (by decide) ?_) : execFlowLookup mid part arg s = _)
    exact (if_neg (not_not_intro hcond)).trans (Block.flowLookup_cached (b := b) hflowByKey)
  · intro s mid part arg i ws b a key w hon hmanager hcond hflowByKey htoOption
    refine (onBlk_next hon (Block.managerWord_answered (b := b) (op := 0x5) (e := 0) hmanager (by decide) ?_) : execFlowLookup mid part arg s = _)
    exact (if_neg (not_not_intro hcond)).trans (Block.flowLookup_walked (b := b) (c := w.2) hflowByKey (Prod.ext (Except.eq_ok_of_toOption htoOption) rfl))
  -- `instConfig`
  · intro s mid part arg b a hon hmanager hcond hmdata hinstSt
    refine (onBlk_next hon (Block.managerWord_answered (b := b) (op := 0x10) (e := 0) hmanager (by decide) ?_) : execInstConfig mid part arg s = _)
    exact Block.instConfig_activates (b := b) hcond hmdata hinstSt
  · intro s mid part arg b a hon hmanager hcond hmdata hinstSt
    refine (onBlk_next hon (Block.managerWord_answered (b := b) (op := 0x10) (e := 0) hmanager (by decide) ?_) : execInstConfig mid part arg s = _)
    exact Block.instConfig_keeps (b := b) hcond hmdata hinstSt
  · intro s mid part arg b a hon hmanager hcond hmdata hinstSt
    refine (onBlk_next hon (Block.managerWord_answered (b := b) (op := 0x10) (e := 0) hmanager (by decide) ?_) : execInstConfig mid part arg s = _)
    exact Block.instConfig_disables (b := b) hcond hmdata hinstSt
  -- `qctxWrite`
  · intro s mid part arg b a i k ws c hon hmanager hcond hinstSt hinstSt2 hqctxValid hhopFind
    refine (onBlk_next hon (Block.managerWord_answered (b := b) (op := 0x11) (e := 0) hmanager (by decide) ?_) : execQctxWrite mid part arg s = _)
    exact Block.qctxWrite_held (b := b) (c := c) hcond (not_or.mpr ⟨hinstSt, hinstSt2⟩) hqctxValid rfl hhopFind
  · intro s mid part arg e spill b a i k ws c hon hmanager hcond hinstSt hinstSt2 hqctxValid hhopFind hhopDirect hhopChoose
    refine (onBlk_next hon (Block.managerWord_answered (b := b) (op := 0x11) (e := 0) hmanager (by decide) ?_) : execQctxWrite mid part arg s = _)
    exact Block.qctxWrite_chosen (b := b) (c := c) hcond (not_or.mpr ⟨hinstSt, hinstSt2⟩) hqctxValid rfl hhopFind hhopDirect hhopChoose
  · intro s mid part arg b a i k ws c hon hmanager hcond hinstSt hinstSt2 hqctxValid hhopFind hhopDirect
    refine (onBlk_next hon (Block.managerWord_answered (b := b) (op := 0x11) (e := 0) hmanager (by decide) ?_) : execQctxWrite mid part arg s = _)
    exact Block.qctxWrite_memory (b := b) (c := c) hcond (not_or.mpr ⟨hinstSt, hinstSt2⟩) hqctxValid rfl hhopFind hhopDirect
  -- `qctxRead`
  · intro s mid part arg ws b a g hon hmanager hcond hws
    refine (onBlk_next hon (Block.managerWord_answered (b := b) (op := 0x12) (e := 0) hmanager (by decide) ?_) : execQctxRead mid part arg s = _)
    exact Block.qctxRead_found (b := b) (c := g.2) hcond (Prod.ext hws rfl)
  -- `instShare`
  · intro s mid part arg b a hon hmanager hcond hmdata hshareSum
    refine (onBlk_next hon (Block.managerWord_answered (b := b) (op := 0x13) (e := 0) hmanager (by decide) ?_) : execInstShare mid part arg s = _)
    exact Block.instShare_kept (b := b) hcond hmdata hshareSum
  -- `instResetDrain`
  · intro s mid part arg b a hon hmanager hcond hinstSt
    refine (onBlk_next hon (Block.managerWord_answered (b := b) (op := 0x14) (e := 0) hmanager (by decide) ?_) : execInstResetDrain mid part arg s = _)
    exact Block.instReset_drains (b := b) hcond hinstSt
  -- `instResetSquash`
  · intro s mid part arg b a hon hmanager hcond hinstSt
    refine (onBlk_next hon (Block.managerWord_answered (b := b) (op := 0x15) (e := 0) hmanager (by decide) ?_) : execInstResetSquash mid part arg s = _)
    exact Block.instReset_squashes (b := b) hcond hinstSt
  -- `logConfig`
  · intro s mid part arg b a hon hmanager hcond hinstSt hinstSt2 hmdata
    refine (onBlk_next hon (Block.managerWord_answered (b := b) (op := 0x16) (e := 0) hmanager (by decide) ?_) : execLogConfig mid part arg s = _)
    exact Block.logConfig_starts (b := b) hcond (not_or.mpr ⟨hinstSt, hinstSt2⟩) hmdata
  -- `logSwap`
  · intro s mid part arg b a hon hmanager hcond hlogon
    refine (onBlk_next hon (Block.managerWord_answered (b := b) (op := 0x17) (e := 0) hmanager (by decide) ?_) : execLogSwap mid part arg s = _)
    exact Block.logSwap_asks (b := b) hcond hlogon
  -- `logStop`
  · intro s mid part arg b a hon hmanager hcond
    refine (onBlk_next hon (Block.managerWord_answered (b := b) (op := 0x18) (e := 0) hmanager (by decide) ?_) : execLogStop mid part arg s = _)
    exact if_neg (Nat.not_le.mpr hcond)
  -- `instClrerr`
  · intro s mid part arg b a hon hmanager hcond
    refine (onBlk_next hon (Block.managerWord_answered (b := b) (op := 0x19) (e := 0) hmanager (by decide) ?_) : execInstClrerr mid part arg s = _)
    exact if_neg (Nat.not_le.mpr hcond)

end Sys2Proof.Machine
end

section
/-! PROOFS. Timing outputs and the input cut-off. -/

namespace Sys2Proof.Machine

/-- The writes of the ended turn leave the number of the turn as it was. -/
theorem turn_written (b : Block) (l : List WinWrite) :
    (b.forL l fun w c => c.writeBytes midSluice w.part w.addr w.bytes).turn = b.turn :=
  congrArg Prod.snd (core_forL l _ b fun w c => core_writeBytes midSluice w.part w.addr w.bytes c)

/-- Settles O9: an output by its pin, the writes of the ended turn with the turn as it was. -/
theorem timeOutputs : Obligations.TimeOutputs := by
  unfold Obligations.TimeOutputs
  refine ⟨?_, ?_, ?_, ?_, ?_, ?_, ?_, ?_, ?_⟩
  -- `ppsOutSecond`
  · intro s b hon hnotBoot hppsout
    refine (onBlk_next hon ?_ : execPpsOutSecond s = _)
    exact if_pos (by grind)
  · intro s b hdev
    refine (onBlk_unchanged (fun _ => ?_) : execPpsOutSecond s = _)
    exact if_neg (by grind)
  -- `syncOutputPulseEnd`
  · intro s b hon
    refine (onBlk_next hon ?_ : execSyncOutputPulseEnd true s = _)
    rfl
  · intro s b hon
    refine (onBlk_next hon ?_ : execSyncOutputPulseEnd false s = _)
    rfl
  -- `inputCutoff`
  · intro s b hon
    refine (onBlk_next hon ?_ : execInputCutoff s = _)
    rfl
  -- `sluiceWritesComplete`
  · intro s b hon
    refine (onBlk_next hon ?_ : execSluiceWritesComplete s = _)
    dsimp only
    rw [turn_written]
  -- `windowReportTimeout`
  · intro s b hon htu
    refine (onBlk_next hon ?_ : execWindowReportTimeout s = _)
    exact if_neg (by simp [htu])
  · intro s b htu
    refine (onBlk_unchanged (fun _ => ?_) : execWindowReportTimeout s = _)
    exact if_pos htu
  -- `windowWriteDiscard`
  · intro s flow b hon
    refine (onBlk_next hon ?_ : execWindowWriteDiscard flow s = _)
    rfl

end Sys2Proof.Machine
end

section
/-! PROOFS. Coherence requests at the home: a statement that fails. -/

namespace Sys2Proof.Machine

/-- A block with one ACTIVE sail, whose populated memory begins with the flow table. -/
def tabledSail : Block := dramSail.put SLC_FTBASE_BASE 0

/-- Has the requester an error completion? -/
def Outcome.refuses : Host.Outcome State Fault Refusal → Bool
  | .next s => s.blk.out.contains (.errComp 17 0 1 0x1000)
  | _ => false

/-- Refutes O21: a caching request to the flow table, which lies outside every private region, is refused with 0x2901 (R353) and joins no
queue. -/
theorem not_coherenceRequests : ¬ Obligations.CoherenceRequests := by
  unfold Obligations.CoherenceRequests
  rintro ⟨-, -, -, -, -, hjoins, -⟩
  have h := hjoins tabledSail.alone 17 0 1 0x1000 15 false (by decide +kernel) (by decide +kernel) (by decide +kernel) (by decide +kernel)
    (by decide +kernel) (by decide +kernel)
  have hrefuses := congrArg Outcome.refuses h
  revert hrefuses
  decide +kernel

end Sys2Proof.Machine
end

section
/-! PROOFS. Snoops, answers and completions. -/

namespace Sys2Proof.Machine

/-- The state that a snoop leaves a line of the L3 in (R169). -/
def snoopNext : SnpKind → LSt → LSt
  | .shared, .m => .o
  | .shared, .o => .o
  | .shared, .e => .s
  | .shared, .s => .s
  | .shared, .i => .i
  | .unique, _ => .i
  | .inv, _ => .i
  | .once, x => x

/-- A snoop that is no SnpInv takes the data of a dirty line along. -/
def snoopGives (k : SnpKind) (st : LSt) : Bool :=
  st.dirty && (match k with | .inv => false | _ => true)

theorem snoopNext_shared (st : LSt) :
    snoopNext .shared st = (match st with | .m => .o | .o => .o | .i => .i | _ => .s) := by
  cases st <;> rfl

theorem snoopGives_of_dirty {k : SnpKind} {st : LSt} (hk : k ≠ .inv) (h : st = .m ∨ st = .o) : snoopGives k st = true := by
  have hdirty : st.dirty = true := by obtain rfl | rfl := h <;> rfl
  unfold snoopGives
  rw [hdirty, Bool.true_and]
  split
  next => exact absurd rfl hk
  next => rfl

theorem snoopGives_of_clean {k : SnpKind} {st : LSt} (hm : st ≠ .m) (ho : st ≠ .o) : snoopGives k st = false := by
  have hclean : st.dirty = false := by
    cases st with
    | m => exact absurd rfl hm
    | o => exact absurd rfl ho
    | e | s | i => rfl
  simp [snoopGives, hclean]

theorem Block.snoopL3_line {k : SnpKind} {n pa txid part : Nat} {b c : Block} (hactive : b.active? n = true)
    (hpart : ((b.txnOf (pa / 64)).map (·.part)).getD noPart = part)
    (hc : (b.pmu n 0x05 (some part) 1).pmu n 0x06 (some part) (ofBool ((b.wbOf n (pa / 64)).isSome || decide ((b.l3At n (pa / 64)).st ≠ .i))) = c)
    (hwbOf : c.wbOf n (pa / 64) = none) :
    b.snoopL3 k n pa txid =
      (((c.privClean n (pa / 64)).setL3 n (pa / 64) { c.l3At n (pa / 64) with st := snoopNext k (c.l3At n (pa / 64)).st }).emit
        (.snpResp n part txid pa (snoopNext k (c.l3At n (pa / 64)).st) (snoopGives k (c.l3At n (pa / 64)).st) false)).when
        (snoopGives k (c.l3At n (pa / 64)).st)
        (fun b => b.emit (.snpData n part txid pa (c.l3At n (pa / 64)).data (c.l3At n (pa / 64)).poison)) := by
  subst hpart hc
  refine (if_neg (by simp [hactive])).trans ?_
  simp only [hwbOf]
  rfl
theorem Block.snpResp_refused {n txid line : Nat} {st : LSt} {hasData evicting : Bool} {b : Block}
    (h : (match b.txnOf line with
      | none => true
      | some t => t.txid ≠ txid || !t.awaitResp.contains n ||
          !(match t.snp with | some k => snpAnswers k st hasData evicting | none => false)) = true) :
    b.snpResp n txid line st hasData evicting = none := by
  unfold Block.snpResp
  cases htxn : b.txnOf line with
  | none => rfl
  | some t =>
    rw [htxn] at h
    exact if_pos h

theorem Block.snpResp_taken {n txid line : Nat} {st : LSt} {hasData evicting : Bool} {b : Block} {t : Txn} {k : SnpKind}
    (htxnOf : b.txnOf line = some t) (htxid : t.txid = txid) (hawait : t.awaitResp.contains n = true)
    (hsnp : t.snp = some k) (hanswers : snpAnswers k st hasData evicting = true) :
    b.snpResp n txid line st hasData evicting =
      some (((b.when evicting (fun b => b.record line n .i 0)).tryFinish { t with
        awaitResp := t.awaitResp.filter (· ≠ n), answers := if evicting then t.answers else t.answers ++ [(n, st)]
        awaitData := if hasData && !t.gotData.contains n then t.awaitData ++ [n] else t.awaitData
        evicting := t.evicting || (evicting && hasData) }).settle) := by
  unfold Block.snpResp
  rw [htxnOf]
  exact if_neg (by simp only [htxid, hawait, hsnp, hanswers]; simp)

theorem Block.snpData_refused {n txid line data : Nat} {poison : Bool} {b : Block}
    (h : (match b.txnOf line with
      | none => true
      | some t => t.txid ≠ txid || !(t.awaitData.contains n || (t.awaitResp.contains n && !t.gotData.contains n))) = true) :
    b.snpData n txid line data poison = none := by
  unfold Block.snpData
  cases htxn : b.txnOf line with
  | none => rfl
  | some t =>
    rw [htxn] at h
    by_cases htxid : t.txid = txid
    · have hno : (t.awaitData.contains n || (t.awaitResp.contains n && !t.gotData.contains n)) = false :=
        (Bool.not_eq_true' _).mp ((Bool.or_eq_true_iff.mp h).resolve_left fun hne => of_decide_eq_true hne htxid)
      obtain ⟨hdata, hresp⟩ := Bool.or_eq_false_iff.mp hno
      exact (if_neg (Classical.not_not.mpr htxid)).trans
        ((if_neg (ne_true_of_eq_false hdata)).trans (if_neg (ne_true_of_eq_false hresp)))
    · exact if_pos htxid

theorem Block.snpData_awaited {n txid line data : Nat} {poison : Bool} {b : Block} {t : Txn}
    (htxnOf : b.txnOf line = some t) (htxid : t.txid = txid) (hawait : t.awaitData.contains n = true) :
    b.snpData n txid line data poison =
      some ((b.tryFinish { t with awaitData := t.awaitData.filter (· ≠ n), sdata := some data, spoison := poison }).settle) := by
  unfold Block.snpData
  rw [htxnOf]
  exact (if_neg (Classical.not_not.mpr htxid)).trans (if_pos hawait)

theorem Block.snpData_early {n txid line data : Nat} {poison : Bool} {b : Block} {t : Txn}
    (htxnOf : b.txnOf line = some t) (htxid : t.txid = txid) (hawait : t.awaitData.contains n = false)
    (hresp : (t.awaitResp.contains n && !t.gotData.contains n) = true) :
    b.snpData n txid line data poison =
      some (b.putTxn { t with gotData := t.gotData ++ [n], sdata := some data, spoison := poison }) := by
  unfold Block.snpData
  rw [htxnOf]
  exact (if_neg (Classical.not_not.mpr htxid)).trans ((if_neg (ne_true_of_eq_false hawait)).trans (if_pos hresp))

/-- What a Comp grants an L3: the line of an Upgrade is M, or leaves where the grant came late, and a
DirtyNote is no longer open. -/
def Block.compGrants (r : OpenReq) (n line : Nat) (b : Block) : Block :=
  match r.kind with
  | .upgrade =>
    if (b.l3At n line).st = LineSt.i then b
    else b.setL3 n line { b.l3At n line with st := .m } |>.when r.timedOut (Block.leave n line)
  | .dirtyNote => if (b.l3At n line).st = LineSt.i then b else b.setL3 n line { b.l3At n line with noteOpen := false }
  | _ => b

theorem Block.takeComp_sail {mid txid pa n : Nat} {b c : Block} {r : OpenReq} (hreqOf : b.reqOf mid txid = some r)
    (hsailOf : sailOf mid = some n) (hc : (if r.timedOut then b.lateAnswer mid txid else b.dropReq mid txid) = c) :
    b.takeComp mid txid pa = (c.compGrants r n (pa / 64)).l3On n := by
  subst hc
  unfold Block.takeComp
  rw [hreqOf, hsailOf]
  rfl

theorem Block.compGrants_other {r : OpenReq} {n line : Nat} {b : Block}
    (h : (r.kind ≠ .upgrade ∧ r.kind ≠ .dirtyNote) ∨ (b.l3At n line).st = .i) : b.compGrants r n line = b := by
  unfold Block.compGrants
  split
  next hkind => exact if_pos (h.resolve_left fun h => h.1 hkind)
  next hkind => exact if_pos (h.resolve_left fun h => h.2 hkind)
  next => rfl

theorem Block.compGrants_upgrade {r : OpenReq} {n line : Nat} {b : Block} (hkind : r.kind = .upgrade)
    (hst : (b.l3At n line).st ≠ .i) :
    b.compGrants r n line =
      if r.timedOut = true then (b.setL3 n line { b.l3At n line with st := .m }).leave n line
      else b.setL3 n line { b.l3At n line with st := .m } := by
  unfold Block.compGrants
  rw [hkind]
  exact if_neg hst

theorem Block.compGrants_note {r : OpenReq} {n line : Nat} {b : Block} (hkind : r.kind = .dirtyNote)
    (hst : (b.l3At n line).st ≠ .i) :
    b.compGrants r n line = b.setL3 n line { b.l3At n line with noteOpen := false } := by
  unfold Block.compGrants
  rw [hkind]
  exact if_neg hst

theorem Block.mayKeep_iff {b : Block} {n line way : Nat} {late : Bool} :
    b.mayKeep n line way late = true ↔
      late = false ∧ b.wayEnabled n (lineSlice line) way = true ∧ (b.sail n).op0 = 0 := by
  simp [Block.mayKeep, and_assoc]

theorem Block.takeCompData_l3 {mid txid pa data : Nat} {st : LSt} {poison : Bool} {b c : Block} {r : OpenReq}
    (hreqOf : b.reqOf mid txid = some r) (hl3 : mid % 32 = 17) (hlt : mid / 32 < 12) (hst : st ≠ .i)
    (hc : (((b.dropReq mid txid).install (mid / 32) (pa / 64) r.way st data poison).pmu (mid / 32) 0x0B (some r.part) 1).when
      (r.mnt && !r.timedOut) (fun b => b.inc L3_MNT_COUNT_LINES (mid / 32)) = c) :
    b.takeCompData mid txid pa st data poison =
      (if c.mayKeep (mid / 32) (pa / 64) r.way r.timedOut = true then c else c.leave (mid / 32) (pa / 64)).l3On (mid / 32) := by
  subst hc
  have hinst : (decide (mid % 32 = 17) && decide (st ≠ .i)) = true := by simp [hl3, hst]
  unfold Block.takeCompData
  rw [hreqOf, sailOf_of_lt hlt, hinst]

theorem Block.takeCompData_other {mid txid pa data : Nat} {st : LSt} {poison : Bool} {b : Block} {r : OpenReq}
    (hreqOf : b.reqOf mid txid = some r) (h : ¬ (mid % 32 = 17 ∧ mid / 32 < 12 ∧ st ≠ .i)) :
    b.takeCompData mid txid pa st data poison = if r.timedOut then b.lateAnswer mid txid else b.dropReq mid txid := by
  unfold Block.takeCompData
  rw [hreqOf]
  by_cases hlt : mid / 32 < 12
  · have hinst : (decide (mid % 32 = 17) && decide (st ≠ .i)) = false := by
      by_cases hl3 : mid % 32 = 17
      · have hst : st = .i := Classical.not_not.mp fun hst => h ⟨hl3, hlt, hst⟩
        simp [hst]
      · simp [hl3]
    rw [sailOf_of_lt hlt, hinst]
  · rw [sailOf_of_le hlt]

theorem Block.takeRetry_other {mid txid pa k : Nat} {b : Block}
    (h : (match b.reqOf mid txid with | none => true | some r => r.line ≠ pa / 64) = true) :
    b.takeRetry mid txid pa k = b := by
  unfold Block.takeRetry
  cases hreq : b.reqOf mid txid with
  | none => rfl
  | some r =>
    rw [hreq] at h
    exact if_pos (of_decide_eq_true h)

theorem Block.takeRetry_line {mid txid pa k : Nat} {b : Block} {r : OpenReq} (hreqOf : b.reqOf mid txid = some r)
    (hline : r.line = pa / 64) :
    b.takeRetry mid txid pa k =
      if r.timedOut = true then b.lateAnswer mid txid else b.modReq mid txid (fun r => { r with attempt := k, backoff := true }) := by
  unfold Block.takeRetry
  rw [hreqOf]
  exact if_neg (Classical.not_not.mpr hline)

/-- Settles O22: the state of the line, the transaction of the home and the open request pick the branch. -/
theorem coherenceAnswers : Obligations.CoherenceAnswers := by
  unfold Obligations.CoherenceAnswers
  refine ⟨?_, ?_, ?_, ?_, ?_, ?_, ?_, ?_, ?_, ?_, ?_, ?_, ?_, ?_, ?_, ?_, ?_, ?_, ?_, ?_, ?_, ?_, ?_, ?_, ?_, ?_, ?_, ?_, ?_, ?_, ?_, ?_, ?_, ?_, ?_, ?_, ?_, ?_, ?_, ?_, ?_, ?_, ?_, ?_, ?_, ?_, ?_, ?_, ?_, ?_, ?_, ?_, ?_, ?_, ?_, ?_, ?_, ?_, ?_, ?_, ?_, ?_⟩
  -- `snpShared`
  · intro s sail addr txid b q hon harrives
    exact (onBlk_next hon (Block.taking_gone harrives) : execSnpShared sail addr txid s = _)
  · intro s sail addr txid b q hon harrives hactive
    refine (onBlk_next hon ((Block.taking_lands (b := b) harrives).trans ?_) : execSnpShared sail addr txid s = _)
    exact if_pos (by simp [hactive, q])
  · intro s sail addr txid w b q line part c hon harrives hactive hwbOf hdirty
    refine (onBlk_next hon ((Block.taking_lands (b := b) harrives).trans ?_) : execSnpShared sail addr txid s = _)
    subst q line part c
    refine (if_neg (by simp [hactive])).trans ?_
    simp only [hwbOf]
    refine (if_pos hdirty).trans ?_
    refine congrArg (Block.emit _) ?_
    simp [hdirty]
  · intro s sail addr txid w b q line part c hon harrives hactive hwbOf hdirty
    refine (onBlk_next hon ((Block.taking_lands (b := b) harrives).trans ?_) : execSnpShared sail addr txid s = _)
    subst q line part c
    refine (if_neg (by simp [hactive])).trans ?_
    simp only [hwbOf]
    refine (if_neg (ne_true_of_eq_false hdirty)).trans ?_
    simp [hdirty]
  · intro s sail addr txid b q line part c e next d hon harrives hactive hwbOf hst
    refine (onBlk_next hon ((Block.taking_lands (b := b) harrives).trans ?_) : execSnpShared sail addr txid s = _)
    refine (Block.snoopL3_line (c := c) hactive rfl rfl hwbOf).trans ?_
    rw [snoopGives_of_dirty (by decide) hst, snoopNext_shared]
    rfl
  · intro s sail addr txid b q line part c e next d hon harrives hactive hwbOf hst hst2
    refine (onBlk_next hon ((Block.taking_lands (b := b) harrives).trans ?_) : execSnpShared sail addr txid s = _)
    refine (Block.snoopL3_line (c := c) hactive rfl rfl hwbOf).trans ?_
    rw [snoopGives_of_clean hst hst2, snoopNext_shared]
    rfl
  -- `snpUnique`
  · intro s sail addr txid b q hon harrives
    exact (onBlk_next hon (Block.taking_gone harrives) : execSnpUnique sail addr txid s = _)
  · intro s sail addr txid b q hon harrives hactive
    refine (onBlk_next hon ((Block.taking_lands (b := b) harrives).trans ?_) : execSnpUnique sail addr txid s = _)
    exact if_pos (by simp [hactive, q])
  · intro s sail addr txid w b q line part c hon harrives hactive hwbOf hdirty
    refine (onBlk_next hon ((Block.taking_lands (b := b) harrives).trans ?_) : execSnpUnique sail addr txid s = _)
    subst q line part c
    refine (if_neg (by simp [hactive])).trans ?_
    simp only [hwbOf]
    refine (if_pos hdirty).trans ?_
    refine congrArg (Block.emit _) ?_
    simp [hdirty]
  · intro s sail addr txid w b q line part c hon harrives hactive hwbOf hdirty
    refine (onBlk_next hon ((Block.taking_lands (b := b) harrives).trans ?_) : execSnpUnique sail addr txid s = _)
    subst q line part c
    refine (if_neg (by simp [hactive])).trans ?_
    simp only [hwbOf]
    refine (if_neg (ne_true_of_eq_false hdirty)).trans ?_
    simp [hdirty]
  · intro s sail addr txid b q line part c e next d hon harrives hactive hwbOf hst
    refine (onBlk_next hon ((Block.taking_lands (b := b) harrives).trans ?_) : execSnpUnique sail addr txid s = _)
    refine (Block.snoopL3_line (c := c) hactive rfl rfl hwbOf).trans ?_
    rw [snoopGives_of_dirty (by decide) hst]
    rfl
  · intro s sail addr txid b q line part c e next d hon harrives hactive hwbOf hst hst2
    refine (onBlk_next hon ((Block.taking_lands (b := b) harrives).trans ?_) : execSnpUnique sail addr txid s = _)
    refine (Block.snoopL3_line (c := c) hactive rfl rfl hwbOf).trans ?_
    rw [snoopGives_of_clean hst hst2]
    rfl
  -- `snpOnce`
  · intro s sail addr txid b q hon harrives
    exact (onBlk_next hon (Block.taking_gone harrives) : execSnpOnce sail addr txid s = _)
  · intro s sail addr txid b q hon harrives hactive
    refine (onBlk_next hon ((Block.taking_lands (b := b) harrives).trans ?_) : execSnpOnce sail addr txid s = _)
    exact if_pos (by simp [hactive, q])
  · intro s sail addr txid w b q line part c hon harrives hactive hwbOf hdirty
    refine (onBlk_next hon ((Block.taking_lands (b := b) harrives).trans ?_) : execSnpOnce sail addr txid s = _)
    subst q line part c
    refine (if_neg (by simp [hactive])).trans ?_
    simp only [hwbOf]
    refine (if_pos hdirty).trans ?_
    refine congrArg (Block.emit _) ?_
    simp [hdirty]
  · intro s sail addr txid w b q line part c hon harrives hactive hwbOf hdirty
    refine (onBlk_next hon ((Block.taking_lands (b := b) harrives).trans ?_) : execSnpOnce sail addr txid s = _)
    subst q line part c
    refine (if_neg (by simp [hactive])).trans ?_
    simp only [hwbOf]
    refine (if_neg (ne_true_of_eq_false hdirty)).trans ?_
    simp [hdirty]
  · intro s sail addr txid b q line part c e next d hon harrives hactive hwbOf hst
    refine (onBlk_next hon ((Block.taking_lands (b := b) harrives).trans ?_) : execSnpOnce sail addr txid s = _)
    refine (Block.snoopL3_line (c := c) hactive rfl rfl hwbOf).trans ?_
    rw [snoopGives_of_dirty (by decide) hst]
    rfl
  · intro s sail addr txid b q line part c e next d hon harrives hactive hwbOf hst hst2
    refine (onBlk_next hon ((Block.taking_lands (b := b) harrives).trans ?_) : execSnpOnce sail addr txid s = _)
    refine (Block.snoopL3_line (c := c) hactive rfl rfl hwbOf).trans ?_
    rw [snoopGives_of_clean hst hst2]
    rfl
  -- `snpInv`
  · intro s sail addr txid b q hon harrives
    exact (onBlk_next hon (Block.taking_gone harrives) : execSnpInv sail addr txid s = _)
  · intro s sail addr txid b q hon harrives hactive
    refine (onBlk_next hon ((Block.taking_lands (b := b) harrives).trans ?_) : execSnpInv sail addr txid s = _)
    exact if_pos (by simp [hactive, q])
  · intro s sail addr txid w b q line part c hon harrives hactive hwbOf hdirty
    refine (onBlk_next hon ((Block.taking_lands (b := b) harrives).trans ?_) : execSnpInv sail addr txid s = _)
    subst q line part c
    refine (if_neg (by simp [hactive])).trans ?_
    simp only [hwbOf]
    refine (if_pos hdirty).trans ?_
    refine congrArg (Block.emit _) ?_
    simp [hdirty]
  · intro s sail addr txid w b q line part c hon harrives hactive hwbOf hdirty
    refine (onBlk_next hon ((Block.taking_lands (b := b) harrives).trans ?_) : execSnpInv sail addr txid s = _)
    subst q line part c
    refine (if_neg (by simp [hactive])).trans ?_
    simp only [hwbOf]
    refine (if_neg (ne_true_of_eq_false hdirty)).trans ?_
    simp [hdirty]
  · intro s sail addr txid b q line part c e next d hon harrives hactive hwbOf
    refine (onBlk_next hon ((Block.taking_lands (b := b) harrives).trans ?_) : execSnpInv sail addr txid s = _)
    subst q line part c e next d
    refine (if_neg (by simp [hactive])).trans ?_
    simp only [hwbOf]
    refine (if_neg (by simp)).trans ?_
    simp
  -- `tagRead`
  · intro s sail slice set b q hon harrives
    exact (onBlk_next hon (Block.taking_gone harrives) : execTagRead sail slice set s = _)
  · intro s sail slice set b q hon harrives hactive
    refine (onBlk_next hon ((Block.taking_lands (b := b) harrives).trans ?_) : execTagRead sail slice set s = _)
    exact if_neg (ne_true_of_eq_false hactive)
  · intro s sail slice set b q hon harrives hactive
    refine (onBlk_next hon ((Block.taking_lands (b := b) harrives).trans ?_) : execTagRead sail slice set s = _)
    exact if_pos hactive
  -- `snpResp`
  · intro s sail txid addr st hasData evicting b q hon harrives
    exact (onBlk_next hon (Block.taking_gone harrives) : execSnpResp sail txid addr st hasData evicting s = _)
  · intro s sail txid addr st hasData evicting b q hon harrives hactive
    refine (onBlk_next hon ((Block.taking_lands (b := b) harrives).trans ?_) : execSnpResp sail txid addr st hasData evicting s = _)
    exact if_pos (by simp [hactive, q])
  · intro s sail txid addr st hasData evicting b q hon harrives hactive hmatch
    refine (onBlk_next hon ((Block.taking_lands (b := b) harrives).trans ?_) : execSnpResp sail txid addr st hasData evicting s = _)
    refine (if_neg fun h => Bool.noConfusion ((congrArg not hactive).symm.trans h)).trans ?_
    exact congrArg (Option.getD · _) (Block.snpResp_refused hmatch)
  · intro s sail txid addr st hasData evicting t k b q c u hon harrives hactive htxnOf htxid hcontains hsnp hsnpAnswers
    refine (onBlk_next hon ((Block.taking_lands (b := b) harrives).trans ?_) : execSnpResp sail txid addr st hasData evicting s = _)
    refine (if_neg fun h => Bool.noConfusion ((congrArg not hactive).symm.trans h)).trans ?_
    exact congrArg (Option.getD · _) (Block.snpResp_taken htxnOf htxid hcontains hsnp hsnpAnswers)
  -- `snpData`
  · intro s sail txid addr data poison b q hon harrives
    exact (onBlk_next hon (Block.taking_gone harrives) : execSnpData sail txid addr data poison s = _)
  · intro s sail txid addr data poison b q hon harrives hactive
    refine (onBlk_next hon ((Block.taking_lands (b := b) harrives).trans ?_) : execSnpData sail txid addr data poison s = _)
    exact if_pos (by simp [hactive, q])
  · intro s sail txid addr data poison b q hon harrives hactive hmatch
    refine (onBlk_next hon ((Block.taking_lands (b := b) harrives).trans ?_) : execSnpData sail txid addr data poison s = _)
    refine (if_neg fun h => Bool.noConfusion ((congrArg not hactive).symm.trans h)).trans ?_
    exact congrArg (Option.getD · _) (Block.snpData_refused hmatch)
  · intro s sail txid addr data poison t b q hon harrives hactive htxnOf htxid hcontains
    refine (onBlk_next hon ((Block.taking_lands (b := b) harrives).trans ?_) : execSnpData sail txid addr data poison s = _)
    refine (if_neg fun h => Bool.noConfusion ((congrArg not hactive).symm.trans h)).trans ?_
    exact congrArg (Option.getD · _) (Block.snpData_awaited htxnOf htxid hcontains)
  · intro s sail txid addr data poison t b q hon harrives hactive htxnOf htxid hcontains hcontains2 hcontains3
    refine (onBlk_next hon ((Block.taking_lands (b := b) harrives).trans ?_) : execSnpData sail txid addr data poison s = _)
    refine (if_neg fun h => Bool.noConfusion ((congrArg not hactive).symm.trans h)).trans ?_
    exact congrArg (Option.getD · _) (Block.snpData_early htxnOf htxid hcontains (by rw [hcontains2, hcontains3]; rfl))
  -- `tagResp`
  · intro s sail slice set tags b q hon harrives
    exact (onBlk_next hon (Block.taking_gone harrives) : execTagResp sail slice set tags s = _)
  · intro s sail slice set tags b q hon harrives hactive
    refine (onBlk_next hon ((Block.taking_lands (b := b) harrives).trans ?_) : execTagResp sail slice set tags s = _)
    exact if_pos (by simp [hactive, q])
  · intro s sail slice set tags b q hon harrives hactive hany
    refine (onBlk_next hon ((Block.taking_lands (b := b) harrives).trans ?_) : execTagResp sail slice set tags s = _)
    refine (if_neg (by simp [hactive, q])).trans ?_
    exact if_pos (by grind)
  · intro s sail slice set tags b q here c d hon harrives hactive hany
    refine (onBlk_next hon ((Block.taking_lands (b := b) harrives).trans ?_) : execTagResp sail slice set tags s = _)
    refine (if_neg (by simp [hactive, q])).trans ?_
    exact if_neg (by grind)
  -- `compMsg`
  · intro s mid txid addr b q hon harrives
    exact (onBlk_next hon (Block.taking_gone harrives) : execCompMsg mid txid addr s = _)
  · intro s mid txid addr b q hon harrives hspeaks
    refine (onBlk_next hon ((Block.taking_lands (b := b) harrives).trans ?_) : execCompMsg mid txid addr s = _)
    exact if_neg (ne_true_of_eq_false hspeaks)
  · intro s mid txid addr b q hon harrives hspeaks hreqOf
    refine (onBlk_next hon ((Block.taking_lands (b := b) harrives).trans ?_) : execCompMsg mid txid addr s = _)
    refine (if_pos hspeaks).trans ?_
    unfold Block.takeComp
    rw [hreqOf]
  · intro s mid txid addr r b q c hon harrives hspeaks hreqOf hsailOf
    refine (onBlk_next hon ((Block.taking_lands (b := b) harrives).trans ?_) : execCompMsg mid txid addr s = _)
    refine (if_pos hspeaks).trans ?_
    unfold Block.takeComp
    rw [hreqOf, hsailOf]
  · intro s mid txid addr r n b q c line e hon harrives hspeaks hreqOf hsailOf hkind
    refine (onBlk_next hon ((Block.taking_lands (b := b) harrives).trans ?_) : execCompMsg mid txid addr s = _)
    refine (if_pos hspeaks).trans ((Block.takeComp_sail (c := c) hreqOf hsailOf rfl).trans (congrArg (Block.l3On n) ?_))
    exact Block.compGrants_other hkind
  · intro s mid txid addr r n b q c line e hon harrives hspeaks hreqOf hsailOf hkind hst htimedOut
    refine (onBlk_next hon ((Block.taking_lands (b := b) harrives).trans ?_) : execCompMsg mid txid addr s = _)
    refine (if_pos hspeaks).trans ((Block.takeComp_sail (c := c) hreqOf hsailOf rfl).trans (congrArg (Block.l3On n) ?_))
    exact (Block.compGrants_upgrade hkind hst).trans (if_neg (ne_true_of_eq_false htimedOut))
  · intro s mid txid addr r n b q c line e hon harrives hspeaks hreqOf hsailOf hkind hst htimedOut
    refine (onBlk_next hon ((Block.taking_lands (b := b) harrives).trans ?_) : execCompMsg mid txid addr s = _)
    refine (if_pos hspeaks).trans ((Block.takeComp_sail (c := c) hreqOf hsailOf rfl).trans (congrArg (Block.l3On n) ?_))
    exact (Block.compGrants_upgrade hkind hst).trans (if_pos htimedOut)
  · intro s mid txid addr r n b q c line e hon harrives hspeaks hreqOf hsailOf hkind hst
    refine (onBlk_next hon ((Block.taking_lands (b := b) harrives).trans ?_) : execCompMsg mid txid addr s = _)
    refine (if_pos hspeaks).trans ((Block.takeComp_sail (c := c) hreqOf hsailOf rfl).trans (congrArg (Block.l3On n) ?_))
    exact Block.compGrants_note hkind hst
  -- `compData`
  · intro s mid txid addr data st poison b q hon harrives
    exact (onBlk_next hon (Block.taking_gone harrives) : execCompData mid txid addr st data poison s = _)
  · intro s mid txid addr data st poison b q hon harrives hspeaks
    refine (onBlk_next hon ((Block.taking_lands (b := b) harrives).trans ?_) : execCompData mid txid addr st data poison s = _)
    exact if_neg (ne_true_of_eq_false hspeaks)
  · intro s mid txid addr data st poison b q hon harrives hspeaks hreqOf
    refine (onBlk_next hon ((Block.taking_lands (b := b) harrives).trans ?_) : execCompData mid txid addr st data poison s = _)
    refine (if_pos hspeaks).trans ?_
    unfold Block.takeCompData
    rw [hreqOf]
  · intro s mid txid addr data st poison r b q hon harrives hspeaks hreqOf hmid
    refine (onBlk_next hon ((Block.taking_lands (b := b) harrives).trans ?_) : execCompData mid txid addr st data poison s = _)
    exact (if_pos hspeaks).trans (Block.takeCompData_other hreqOf hmid)
  · intro s mid txid addr data st poison r b q n line c hon harrives hspeaks hreqOf hmid htimedOut
    refine (onBlk_next hon ((Block.taking_lands (b := b) harrives).trans ?_) : execCompData mid txid addr st data poison s = _)
    obtain ⟨hl3, hlt, hst⟩ := hmid
    obtain ⟨hlate, hway, hop⟩ := htimedOut
    refine (if_pos hspeaks).trans ((Block.takeCompData_l3 (c := c) hreqOf hl3 hlt hst rfl).trans (congrArg (Block.l3On n) ?_))
    exact if_pos (Block.mayKeep_iff.mpr ⟨hlate, hway, hop⟩)
  · intro s mid txid addr data st poison r b q n line c hon harrives hspeaks hreqOf hmid htimedOut
    refine (onBlk_next hon ((Block.taking_lands (b := b) harrives).trans ?_) : execCompData mid txid addr st data poison s = _)
    obtain ⟨hl3, hlt, hst⟩ := hmid
    refine (if_pos hspeaks).trans ((Block.takeCompData_l3 (c := c) hreqOf hl3 hlt hst rfl).trans (congrArg (Block.l3On n) ?_))
    exact if_neg (fun h => htimedOut (Block.mayKeep_iff.mp h))
  -- `evictAck`
  · intro s sail addr b q hon harrives
    exact (onBlk_next hon (Block.taking_gone harrives) : execEvictAck sail addr s = _)
  · intro s sail addr b q hon harrives
    refine (onBlk_next hon ((Block.taking_lands (b := b) harrives).trans ?_) : execEvictAck sail addr s = _)
    refine congrArg (Block.l3On _) ?_
    rfl
  -- `retryMsg`
  · intro s mid txid addr k b q hon harrives
    exact (onBlk_next hon (Block.taking_gone harrives) : execRetryMsg mid txid addr k s = _)
  · intro s mid txid addr k b q hon harrives hmatch
    refine (onBlk_next hon ((Block.taking_lands (b := b) harrives).trans ?_) : execRetryMsg mid txid addr k s = _)
    exact Block.takeRetry_other hmatch
  · intro s mid txid addr k r b q hon harrives hreqOf hline htimedOut
    refine (onBlk_next hon ((Block.taking_lands (b := b) harrives).trans ?_) : execRetryMsg mid txid addr k s = _)
    exact (Block.takeRetry_line hreqOf hline).trans (if_pos htimedOut)
  · intro s mid txid addr k r b q hon harrives hreqOf hline htimedOut
    refine (onBlk_next hon ((Block.taking_lands (b := b) harrives).trans ?_) : execRetryMsg mid txid addr k s = _)
    exact (Block.takeRetry_line hreqOf hline).trans (if_neg (ne_true_of_eq_false htimedOut))
  -- `retryBackoffExpiry`
  · intro s mid txid b hmatch
    refine (onBlk_unchanged (fun _ => ?_) : execRetryBackoffExpiry mid txid s = _)
    grind
  · intro s mid txid r b hon hreqOf hbackoff htimedOut
    refine (onBlk_next hon ?_ : execRetryBackoffExpiry mid txid s = _)
    simp only [hreqOf]
    refine (if_neg (by simp [hbackoff])).trans ?_
    exact if_pos htimedOut
  · intro s mid txid r b hon hreqOf hbackoff htimedOut
    refine (onBlk_next hon ?_ : execRetryBackoffExpiry mid txid s = _)
    simp only [hreqOf]
    refine (if_neg (by simp [hbackoff])).trans ?_
    exact if_neg (by simp [htimedOut])

end Sys2Proof.Machine
end

end
